-- ==== Sys2Proof/Word.lean ====
section
/-! DEFINITION. The plain word types of the YL-3208 model (chapter 00, R4, R5, R8). -/
namespace Sys2Proof

/-- One byte of a frame, a descriptor or a memory. -/
abbrev Byte := BitVec 8

/-- A register (R8: all registers are 32 bits wide). -/
abbrev Word := BitVec 32

/-- A Fleli register or an 8-byte word of the event ring. -/
abbrev DWord := BitVec 64

/-- A run of bytes, first byte first. -/
abbrev Bytes := List Byte

end Sys2Proof
end

