-- ==== Sys2Proof/Syntax.lean ====
section
/-! DEFINITION. The commands of the block: one constructor per row of the table of operations and events, with the
operands each carries.  Outcomes of physical processes (what a DMA read returned, a sensor's value, what a link
partner sent) are operands. -/
namespace Sys2Proof

/-- The twelve modes (R357, Table 14.1). -/
inductive Mode
  | off | vigil | wake | sealed | provision | active | standby | drain | rest | maintenance | lockdown | erased
  deriving DecidableEq, Repr, Inhabited

/-- A memory window a driver access names: BAR0 (of PF0, or the ring window of another function), BAR2 of PF0, or BAR4. -/
inductive Bar
  | bar0 | bar2 | bar4
  deriving DecidableEq, Repr

/-- The three aliases of the normal window (R505). -/
inductive Alias
  | set | clr | tgl
  deriving DecidableEq, Repr

/-- A Fleli engine or Ladle thread (R292, Table 12.1). -/
inductive Eng
  | ladle (m : Fin 256) (t : Fin 4)
  | ksq (e : Fin 2)
  | order
  | vigil
  deriving DecidableEq, Repr

/-- The straps sampled at the start (chapter 22). -/
structure Straps where
  smbAddr : Fin 4
  stackId : Fin 8
  pairRole : Bool
  clocks : Bool
  deriving DecidableEq, Repr

/-- What steps 4 to 6 of the start sequence found (Table 15.4): whether the cryptographic known-answer tests and the
SRAM repair passed, the pseudo-channels whose training failed, the Ladles whose core test failed, and the time
from t0 in µs. -/
structure StartResult where
  cryptoOk : Bool
  sramOk : Bool
  retiredPcs : BitVec 64
  failedLadles : List (Fin 256)
  micros : Nat
  deriving DecidableEq, Repr

/-- The triggers of a host reset (Table 15.2). -/
inductive HostResetKind
  | perst | hot | linkLoss
  deriving DecidableEq, Repr

/-- A performance counter of a quadrant (R348): one of a Ladle's four, or one of the quadrant's sixteen. -/
inductive PerfCounter
  | ladle (l : Fin 64) (i : Fin 4)
  | quadrant (j : Fin 16)
  deriving DecidableEq, Repr

/-- A master time word (R216) as a member understands it after correcting for the path: the master's clock, O in
seconds and L in ms. -/
structure TimeWord where
  sec : BitVec 48
  ns : BitVec 30
  frac : BitVec 16
  org : BitVec 48
  len : BitVec 20
  deriving DecidableEq, Repr


/-- How that word came: by which Runner port, with which path delay in 2^-16 ns, and the master's frequency word. -/
structure TimePath where
  port : Fin 2
  delay : Word
  f : BitVec 40
  deriving DecidableEq, Repr

/-- The width in bytes and the value of a write to the bit-alias window. -/
structure AliasData where
  bytes : Nat
  v : Word
  deriving DecidableEq, Repr

/-- What of a frame has arrived (R32): its window, while the rest is still coming, or its last byte, with the result of its
FCS. -/
structure Arrival where
  fcsOk : Bool
  window : Bool
  deriving DecidableEq, Repr

/-- The first `n` samples of an entropy source's window, up to the one at which a test fails (R181). -/
structure TestWindow where
  n : Fin 1025
  samples : BitVec 1024
  deriving DecidableEq, Repr

/-- What the Rake meets at a visit: the parity errors in the four ways, a hit or learn in the same cycle (R265), and how many
cycles of a special pass it works (R267). -/
structure RakeLook where
  bad : BitVec 4
  hit : Bool
  cycles : Fin 32769
  deriving DecidableEq, Repr

/-- An access to the buffer outside its regions (R286): the buffer address, and whether it is a read. -/
structure LineAccess where
  addr : BitVec 48
  read : Bool
  deriving DecidableEq, Repr

/-- What starts a zeroization (R449). -/
inductive ZeroizeCause
  | alarm | button | transfer | purge
  deriving DecidableEq, Repr

namespace Machine

/-- A channel entry (R153, Table 06.1). `sa0` to `sa3` are the SA indexes installed per AN, `quiet0` to `quiet3` the ends
of AN_QUIET in µs of the elapsed-time count (0 when not quiet); `dir` is false for TX and true for RX. -/
structure Channel where
  valid : Bool := false
  dir : Bool := false
  portCh : Bool := false
  linePort : Nat := 0
  subPort : Nat := 0
  tag : Nat := 0
  sci : DWord := 0
  sa0 : Option Nat := none
  sa1 : Option Nat := none
  sa2 : Option Nat := none
  sa3 : Option Nat := none
  txAn : Nat := 0
  txCur : Bool := false
  sched : Bool := false
  schedCur : Nat := 0
  schedNext : Nat := 0
  schedEpoch : Nat := 0
  quiet0 : Nat := 0
  quiet1 : Nat := 0
  quiet2 : Nat := 0
  quiet3 : Nat := 0
  prevTx : Option Nat := none
  deriving DecidableEq, Repr, Inhabited

/-- An SA context (R156, Table 06.2).  `state`: 0 FREE, 1 VALID, 2 RETIRED; `dir`: false TX, true RX.  `bitmap` bit
*i* says that PN highest − *i* has been accepted.  `reserved` is the reserved PN limit of R417 for a TX SA. -/
structure Sa where
  state : BitVec 2 := 0
  dir : Bool := false
  generation : Nat := 0
  channel : Nat := 0
  an : Nat := 0
  suite : Nat := 0
  key : Word := 0
  ssci : Word := 0
  salt : BitVec 96 := 0
  nextPn : Nat := 0
  highest : Nat := 0
  replayWin : Nat := 0
  bitmap : BitVec 1024 := 0
  hold : Bool := false
  peerIndex : Nat := 0
  peerGen : Nat := 0
  soon : Bool := false
  stopped : Bool := false
  reserved : Nat := 0
  deriving DecidableEq, Repr, Inhabited

/-- A forwarding entry (Table 10.1). -/
structure FwdEntry where
  key : DWord
  dest : Word
  learnSrc : Nat := 0
  limited : Bool := false
  static : Bool := false
  hit : Bool := false
  idle : Bool := false
  flapping : Bool := false
  moves : Nat := 0
  winStart : Nat := 0
  deriving DecidableEq, Repr

/-- What a link peer's HELLO carries (R412, R423). -/
structure PeerHello where
  deviceId : DWord
  stack : Nat
  domain : Nat
  stackId : Nat
  pairRole : Bool
  ownerHash : DWord
  kcv : DWord
  salt : BitVec 96
  deriving DecidableEq, Repr

/-- An item of the state copy (Table 16.2): reservations, whole vault records wrapped under the pair key, SA and channel
contexts, forwarding entries by table slot, and bucket levels of meters, queue shapers and class shapers. -/
inductive CopyItem
  | reserve (sa generation limit : Nat)
  | reserveSeq (port limit : Nat)
  | slot (index : Nat) (wrapped : Bytes)
  | sa (index : Nat) (v : Sa)
  | channel (index : Nat) (v : Channel)
  | fwd (index : Nat) (v : Option FwdEntry)
  | meter (index cb pb : Nat)
  | shaper (index : Nat) (cb pb : Int)
  | cshaper (index : Nat) (cb pb : Int)
  deriving DecidableEq, Repr

/-- What one pair cycle carries (R415, R416): its number, whether it is the final copy of a yield (R420), the configuration
CRC, the commit records with their sequence numbers, and the other items in the order of Table 16.2. -/
structure PairCycle where
  number : Nat
  final : Bool := false
  cfgCrc : Word
  commits : List (Nat × List CopyItem)
  items : List CopyItem
  deriving DecidableEq, Repr

/-- The bulk copy (R418): the commit sequence number that it stands at, and every item. -/
structure BulkCopy where
  seq : Nat
  items : List CopyItem
  deriving DecidableEq, Repr

/-- What the standby reports to the holder: a cycle applied, with its own configuration CRC (R416), the bulk copy applied,
or a bulk copy asked for. -/
inductive CopyAck
  | cycle (number : Nat) (cfgCrc : Word)
  | bulk
  | resync
  deriving DecidableEq, Repr

/-- The head of a frame of the pair link as it arrives: the peer's claim and status, which every control word carries (R411), the
link sequence, and the GCM tag (R413). -/
structure PairHead where
  claim : Byte
  status : Byte
  seq : Nat
  tag : BitVec 128
  deriving DecidableEq, Repr

/-- A frame of the pair link with what its ciphertext holds under the session key. -/
structure PairFrame (α : Type) where
  head : PairHead
  body : α
  deriving DecidableEq, Repr

/-- A device of the ring: its STACK_ID and its device_id. -/
structure RingDevice where
  id : Fin 8
  device : DWord
  deriving DecidableEq, Repr

end Machine

/-- An error that SECDED finds in the memories of a program engine (R331, R340): uncorrectable, in an instruction or table word
that the engine fetches or in a local, scratch or frame window word that it reads next, or corrected. -/
inductive EccKind
  | fetch
  | data
  | corrected
  deriving DecidableEq, Repr

/-- An error in the memories of a program engine, and the engine. -/
structure EccError where
  eng : Eng
  kind : EccKind
  deriving DecidableEq, Repr

/-- The block that receives a fabric transfer: a Pan with a request, a program engine, or another. -/
inductive IicReceiver
  | pan (req : Nat)
  | engine (eng : Eng)
  | other
  deriving DecidableEq, Repr

/-- A fabric transfer whose integrity code does not match (R446): whether its third repeat has failed as well, and its
receiver. -/
structure IicError where
  last : Bool
  receiver : IicReceiver
  deriving DecidableEq, Repr

/-- A lane of a Runner or pair port that leaves the rotation (R535): `index` counts those lanes from the first of Runner port 0,
and `far` says that the far end's control word announces it. -/
structure LinkLane where
  index : Fin 12
  far : Bool
  deriving DecidableEq, Repr

/-- An error that SECDED finds in a counter word (R492): the counter's index, and whether it was corrected. -/
structure CounterError where
  index : BitVec 19
  corrected : Bool
  deriving DecidableEq, Repr

/-- The clocks that the source clk_main watches (Table 17.3): REFCLK, the PCIe reference, the PLLs of Table 01.9, and CK_SAFE. -/
inductive MainClock
  | refclk
  | pcieRef
  | core
  | ladle
  | time
  | host
  | mem
  | lane
  | safe
  deriving DecidableEq, Repr

/-- An alarm source whose condition rises, with the clock that is out of range where it is clk_main. -/
structure AlarmRise where
  source : Fin 14
  clock : MainClock
  deriving DecidableEq, Repr

/-- The commands, in the order of the table. -/
inductive Instr
  /-- REGISTER_WRITE (R11). A driver write to a register field that has no row of its own, applied by access code, with reserved-encoding and lock checks. -/
  | registerWrite (fn : Fin 66) (bar : Bar) (off : Word) (bytes : Nat) (v : Word)
  /-- ALIAS_WRITE (R505). A masked SET, CLR or TGL alias write performed as an atomic read-modify-write of one register. -/
  | aliasWrite (which : Alias) (off : Word) (v : Word)
  /-- BIT_ALIAS_WRITE (R507). A write through the BAR2 compatibility bit-alias window that sets or clears a single bit. -/
  | bitAliasWrite (off : Word) (v : AliasData)
  /-- ENT_RAW_DATA_READ (R193). A read of ENT_RAW_DATA returns the oldest 32 raw samples and removes them from the raw FIFO. -/
  | entRawDataRead
  /-- EVR_WR_READ (R484). A read of EVR_WR latches the sequence number of the next record into EVR_NEXT_SEQ. -/
  | evrWrRead
  /-- EVR_OLDEST_READ (R484). A read of EVR_OLDEST latches the oldest intact record's sequence number into EVR_OLDEST_SEQ. -/
  | evrOldestRead
  /-- CONFIG_COMMIT (R511). SYS_COMMIT.go captures every CFG shadow and each block applies its values in its own domain. -/
  | configCommit
  /-- CFG_CRC_SWEEP (R514). Every 100 µs, and at the end of each COMMIT, the configuration CRC is computed and compared with the reference. -/
  | cfgCrcSweep
  /-- SYS_RESTART (R383). A write of 0xB007 to SYS_CTL.restart requests a system reset. -/
  | sysRestart (v : Word)
  /-- RING_DOORBELL (R518). The driver writes its producer or consumer count to HIF_RING_DB; a bad doorbell is a ring error. -/
  | ringDoorbell (ring : Fin 256) (count : Word)
  /-- RING_ENABLE (R522). Setting HIF_RING_CFG.en from 0 to 1 zeroes both counts and starts the ring. -/
  | ringEnable (ring : Fin 256)
  /-- RING_DISABLE (R522). Clearing HIF_RING_CFG.en stops fetching while already fetched requests complete. -/
  | ringDisable (ring : Fin 256)
  /-- LA_OWNER_WRITE (R517). A write of HIF_LA_OWNER takes effect only while both rings of the pair are disabled; otherwise it is dropped with EV_CFG_REJECT. -/
  | laOwnerWrite (pair : Fin 96) (function : BitVec 7)
  /-- MSIX_HOLDOFF_END (R524). A vector's holdoff ends and one message is sent if signals arrived meanwhile. -/
  | msixHoldoffEnd (fn : Fin 66) (vector : Fin 2048)
  /-- MSIX_UNMASK (R524). Unmasking a vector with its PBA bit set sends one message. -/
  | msixUnmask (fn : Fin 66) (vector : Fin 2048)
  /-- BUS_MASTER_ENABLE_CHANGE (R522). A change of a function's Bus Master Enable stops or resumes all DMA of that function. -/
  | busMasterEnableChange (fn : Fin 66) (on : Bool)
  /-- IDE_INTEGRITY_FAIL (R502). An IDE integrity failure moves the stream to Insecure and raises EV_IDE_FAIL. -/
  | ideIntegrityFail
  /-- DOE_MESSAGE (R501). A CMA/SPDM or IDE_KM message is taken through PF0's DOE mailbox and answered. -/
  | doeMessage (msg : Bytes)
  /-- PCIE_LINK_UP (R498). The PCIe link enters L0, raising EV_LINK_UP and EV_LINK_DEGRADED below x16 at 64 GT/s. -/
  | pcieLinkUp (rate : Fin 7) (width : Nat) (flit : Bool) (fromDetect : Bool)
  /-- PCIE_LINK_DOWN (R532). The PCIe link leaves L0 for Detect, Disabled or Recovery failure. -/
  | pcieLinkDown
  /-- SMB_STATUS (R527). SMBus STATUS returns MOD_STAT and SYS_BOOT_STAT. -/
  | smbStatus
  /-- SMB_TEMP (R527). SMBus TEMP returns TMP_TEMP[15:0]. -/
  | smbTemp
  /-- SMB_VBAT (R527). SMBus VBAT returns TMP_VBAT.mv. -/
  | smbVbat
  /-- SMB_FLAGS (R527). SMBus FLAGS returns TMP_STICKY. -/
  | smbFlags
  /-- SMB_HEALTH (R527). SMBus HEALTH returns the health condition bits, grade and pair link state. -/
  | smbHealth
  /-- SMB_REG_READ (R528). SMBus REG_READ returns a register of SYS, MOD, FLT, TMP, CRF or VLT without clearing RC fields. -/
  | smbRegRead (off : BitVec 24)
  /-- SMB_RESTART_ARM (R527). SMBus RESTART_ARM with 0xA5 arms RESTART for 1 s. -/
  | smbRestartArm (data : Byte) (pecOk : Bool)
  /-- SMB_RESTART (R528). SMBus RESTART with 0x5A while armed causes a system reset; otherwise it disarms. -/
  | smbRestart (data : Byte) (pecOk : Bool)
  /-- SMB_ARM_EXPIRY (R527). The 1 s arming of RESTART runs out. -/
  | smbArmExpiry
  /-- MAIN_POWER_GOOD (R552). Every main rail has been in range for 1 ms with PWRDN_N high, defining t0. -/
  | mainPowerGood (straps : Straps)
  /-- PUF_RETRY (R391). After a failed DUK check and 10 ms clamped, the array is read and extracted again. -/
  | pufRetry
  /-- RECORDER_START (R397). Once the core PLL locks, the recorder starts and writes the held start log. -/
  | recorderStart
  /-- START_DONE (R396). When steps 4 to 6 end, the mode becomes SEALED or ERASED and EV_START_DONE is raised. -/
  | startDone (r : StartResult)
  /-- RESET_N_ASSERT (R386). RESET_N low for 200 ns or longer holds the main domains in reset. -/
  | resetNAssert
  /-- RESET_N_RELEASE (R386). The release of RESET_N starts the start-up sequence at step 1. -/
  | resetNRelease (straps : Straps)
  /-- HOST_RESET (R385). PERST_N, hot reset or link loss resets the PCIe controller, HIF and rings without changing mode. -/
  | hostReset (k : HostResetKind)
  /-- FUNCTION_LEVEL_RESET (R385). An FLR clears one function's rings and pending completions and every EPHEMERAL slot. -/
  | functionLevelReset (fn : Fin 66)
  /-- MAIN_POWER_LOST (R553). PWRDN_N low or VDD_IO below 1.62 V holds the main domains in reset and enters VIGIL or OFF. -/
  | mainPowerLost (vbatGood : Bool)
  /-- ALL_POWER_LOST (R148). Loss of main power and VBAT together loses the seal and enters OFF. -/
  | allPowerLost
  /-- CELL_INSERT (R359). A cell inserted without main power moves the part from OFF to VIGIL. -/
  | cellInsert
  /-- AON_SUPPLY_SWITCHOVER (R554). The always-on domain switches between VDD_IO and VBAT without losing state. -/
  | aonSupplySwitchover (toCell : Bool)
  /-- OWNER_CLAIM (R402). The claim order tests its conditions and, if accepted, programs ownership, writes a new seal and enters PROVISION. -/
  | ownerClaim (key : Bytes) (flags : BitVec 16) (sig : Bytes)
  /-- PRESENCE_LAPSE (R403). The presence bit lapses 120 s after it was set. -/
  | presenceLapse
  /-- AUTH_CHALLENGE (R362). The part draws a 32-byte challenge, replaces the previous one and voids unused authorisations. -/
  | authChallenge (out : DWord)
  /-- OWNER_AUTH (R363). The order verifies an owner signature over the challenge and sets auth_valid for 60 s, or counts a failure. -/
  | ownerAuth (fromMode toMode : Byte) (flags : BitVec 16) (key sig : Bytes)
  /-- AUTH_LAPSE (R363). An authorisation lapses at the end of its 60 s. -/
  | authLapse
  /-- AUTH_BLOCK_END (R364). The 60 s AUTH_CHALLENGE block after repeated failures ends. -/
  | authBlockEnd
  /-- PIN_TOKEN_LAPSE (R366). pin_ok lapses at the end of its 120 s. -/
  | pinTokenLapse
  /-- MODE_SET (R360). The staging order stages a mode transition, checked at execution and at COMMIT. -/
  | modeSet (cfg : Word)
  /-- MODE_CHANGE (R360). The mode controller applies a transition within 4 CK_SAFE cycles of COMMIT and raises EV_MODE_CHANGED. -/
  | modeChange
  /-- DRAIN_END (R368). When no admitted frame remains queued, the part leaves DRAIN for its target. -/
  | drainEnd
  /-- DRAIN_TIMEOUT (R368). MOD_DRAIN_CFG.tmo runs out; remaining frames are dropped and EV_DRAIN_TMO is raised. -/
  | drainTimeout
  /-- DBG_CERT (R377). A debug certificate is verified, the forced purge zeroizes the part and D3 is granted in ERASED. -/
  | dbgCert (certAt : DWord) (len : Word) (cert : Option Bytes)
  /-- TK_DISABLE (R371). TK_DISABLE sets tk_dis, refusing TRAFFIC slots and clearing Pan key caches. -/
  | tkDisable
  /-- TK_ENABLE (R371). TK_ENABLE clears tk_dis unless D2 is held. -/
  | tkEnable
  /-- DBG_REQUEST (R373). A MOD_DBG_CTL.go write requests a debug level, judged by the matrix cell. -/
  | dbgRequest (level : Fin 4)
  /-- DBG_REQ (R373). The TAP instruction DBG_REQ requests a debug level, judged by the matrix cell. -/
  | dbgReq (level : Fin 4)
  /-- KEY_LOAD_CLEAR (R131). Stages a key given in clear with origin LOADED_CLEAR. -/
  | keyLoadClear (handle : Word) (attr : DWord) (key : BitVec 256)
  /-- KEY_UNWRAP (R135). Unwraps a blob under a KEK and stages the key with origin UNWRAPPED. -/
  | keyUnwrap (handle kek : Word) (attr blobAt : DWord) (blob : Option Bytes)
  /-- KEY_FILL (R472). Stages the blob held from the fill port. -/
  | keyFill (handle : Word) (attr : DWord)
  /-- KEY_GENERATE (R136). Stages a key drawn from the DRBG with origin INTERNAL. -/
  | keyGenerate (handle : Word) (attr : DWord)
  /-- KEY_DERIVE (R136). Runs a Fleli-K derivation program on engine 0 and stages its outputs. -/
  | keyDerive (slot entry : Byte) (ctxLen : BitVec 16) (inputs targets : List Word) (context : Bytes)
  /-- KEY_RELEASE (R131). Stages a slot's move to INVALID, optionally forcing a bound slot. -/
  | keyRelease (handle force : Word)
  /-- COMMIT (R132). Re-checks and applies every staged entry of the block atomically, or none. -/
  | commit
  /-- KEY_INFO (R139). Returns a slot's attributes and key check value. -/
  | keyInfo (handle : Word) (out : DWord)
  /-- ATTEST (R140). Writes a signed attestation statement over a challenge and optionally one key. -/
  | attest (handle : Word) (challenge : Bytes) (out : DWord) (outLen : Word)
  /-- EXPORT_STORE (R143). Writes a store blob of version v + 1 and records its digest as pending. -/
  | exportStore (out : DWord) (outLen : Word)
  /-- CONFIRM_STORE (R143). Raises v, confirms the pending digest and completes any staged seal rotation. -/
  | confirmStore
  /-- LOAD_STORE (R144). Accepts a store blob of the confirmed or pending version and restores its slots. -/
  | loadStore (blobAt : DWord) (len : Word) (blob : Option Bytes)
  /-- SEAL_ROTATE (R142). Writes a new seal into the inactive word and stages the rotation. -/
  | sealRotate
  /-- OWNER_TRANSFER (R147). With owner and PIN authority, zeroizes and programs the next ownership slot. -/
  | ownerTransfer (hash : Bytes)
  /-- REVOCATION_WALK_PASS (R137). A pass of the revocation walk moves orphaned inheriting children to REVOKED. -/
  | revocationWalkPass
  /-- VAULT_ECC_ERROR (R146). An uncorrectable slot error zeroes and invalidates the slot and starts a walk. -/
  | vaultEccError (slot : Fin 131072)
  /-- VAULT_ECC_CORRECTED (R146). A corrected single-bit slot error increments VLT_ECC_CNT. -/
  | vaultEccCorrected (slot : Fin 131072)
  /-- USE_COUNT_EXHAUSTED (R130). A non-TRAFFIC slot's count reaches 0 and EV_USE_EXHAUSTED is raised once. -/
  | useCountExhausted (slot : Fin 131072)
  /-- CH_SET (R154). Stages the configuration of a channel entry. -/
  | chSet (channel cfg : Word) (sci : DWord)
  /-- CH_CLEAR (R158). Stages valid = 0 for a channel holding no VALID SA. -/
  | chClear (channel : Word)
  /-- SA_INSTALL (R159). Stages the install of an SA bound to a TRAFFIC key slot. -/
  | saInstall (index channel key cfg ssci peer : Word) (initPn : DWord) (salt : BitVec 96)
  /-- SA_RETIRE (R160). Stages the retirement of an SA and the start of its AN's quiet time. -/
  | saRetire (handle : Word)
  /-- SCHEDULE_SWITCH (R167). Stages a switch of a channel to its next SA at epoch E. -/
  | scheduleSwitch (channel current next : Word) (epoch : DWord)
  /-- SCHEDULE_CANCEL (R158). Stages the cancellation of a channel's pending schedule. -/
  | scheduleCancel (channel : Word)
  /-- SA_INFO (R158). Returns an SA context without its salt. -/
  | saInfo (index : Word) (out : DWord)
  /-- SA_SNAPSHOT (R178). A write of SAX_SA_SEL snapshots an SA context into the SAX read window. -/
  | saSnapshot (index : Fin 65536)
  /-- SCHEDULED_SWITCH (R168). When the epoch tick to E reaches CK_CORE, a pending schedule switches SAs or is missed. -/
  | scheduledSwitch (channel : Fin 32768)
  /-- RX_WINDOW_OPEN (R169). At the window tick the next receive SA's hold clears. -/
  | rxWindowOpen (channel : Fin 32768)
  /-- RX_WINDOW_CLOSE (R169). W after the tick the old receive SA retires and EV_SA_RETIRED is raised. -/
  | rxWindowClose (channel : Fin 32768)
  /-- PN_LIMIT_REACHED (R162). An allocation takes the last PN and the SA stops with EV_PN_EXHAUSTED. -/
  | pnLimitReached (sa : Fin 65536)
  /-- ENTROPY_BLOCK_RELEASE (R180). A window that passed health tests releases its blocks for conditioning into the seed buffer. -/
  | entropyBlockRelease (src : Fin 2) (window : BitVec 1024)
  /-- HEALTH_TEST_FAIL (R182). A health test failure discards blocks, stops the source and counts the failure. -/
  | healthTestFail (src : Fin 2) (window : TestWindow)
  /-- SOURCE_RESTART (R182). A stopped Brine source restarts after 20 µs and reruns its start-up test. -/
  | sourceRestart (src : Fin 2)
  /-- ENT_SOURCE_RESTART (R193). ENT_CTL.restart0 or restart1 restarts a source without counting a failure. -/
  | entSourceRestart (src : Fin 2)
  /-- SOURCE_STARTUP_TEST_END (R184). A source's start-up test over its first 1,024 samples ends in pass or failure. -/
  | sourceStartupTestEnd (src : Fin 2) (window : BitVec 1024)
  /-- DRBG_KAT_END (R184). The DRBG known-answer test ends; a failure makes the generator fail. -/
  | drbgKatEnd (pass : Bool)
  /-- DRBG_INSTANTIATE (R184). With 384 fresh bits the DRBG is instantiated, ready is set and EV_ENT_READY raised. -/
  | drbgInstantiate
  /-- DRBG_GENERATE (R186). A generate call produces 512 blocks into the output FIFO followed by the update step. -/
  | drbgGenerate
  /-- DRBG_RESEED (R187). Between calls, 384 unused seed bits reseed the DRBG and reset the call counter. -/
  | drbgReseed
  /-- SEED_STALE (R187). The call counter reaches 2^20 without reseed; generation stops and EV_ENT_SEED_STALE is raised. -/
  | seedStale
  /-- RANDOM_REQUEST_SERVE (R188). A waiting consumer takes its blocks in class priority order. -/
  | randomRequestServe
  /-- GET_RANDOM (R190). Writes 1 to 4,096 bytes of generator output to host memory. -/
  | getRandom (length : Word) (out : DWord)
  /-- TIME_CAPTURE (R218). TIM_CTL.capture latches the clock into TIM_CAP_*. -/
  | timeCapture
  /-- TIME_STEP (R202). TIM_CTL.step sets the clock to TIM_SET_* in one cycle, cancels slew and recomputes the epoch counter. -/
  | timeStep
  /-- TIM_HOLD (R199). Setting TIM_CTL.hold forces the clock into holdover. -/
  | timHold (on : Bool)
  /-- FREQ_WRITE (R198). A write of TIM_FREQ_HI applies a new frequency word, or is dropped while LOCKED. -/
  | freqWrite (hi : Byte)
  /-- FREQ_UPDATE (R198). Every 1 ms while LOCKED the part updates F from the measured offset. -/
  | freqUpdate (f : BitVec 40)
  /-- RATE_CHANGE_EFFECT (R200). An announced rate change takes effect at least 2,048 ns after acceptance. -/
  | rateChangeEffect
  /-- SLEW_START (R201). A write of TIM_ADJ_HI starts absorbing a phase adjustment at the slew rate. -/
  | slewStart (hi : BitVec 16)
  /-- SLEW_CANCEL (R201). TIM_CTL.adj_cancel stops a slew in progress. -/
  | slewCancel
  /-- SLEW_DONE (R201). A slew finishes absorbing its adjustment and raises EV_SLEW_DONE. -/
  | slewDone
  /-- REF_QUALIFIED (R197). TREF has been valid for 10 ms; ref_state becomes LOCKED. -/
  | refQualified
  /-- REF_LOST (R199). Loss of the LOCKED reference puts the clock into holdover. -/
  | refLost
  /-- PPS_IN_EDGE (R203). A PPS_IN rising edge is captured and may start an aligning slew. -/
  | ppsInEdge
  /-- PPS_OUT_RISE (R203). PPS_OUT rises as the clock reaches a whole second. -/
  | ppsOutRise
  /-- PPS_OUT_FALL (R203). PPS_OUT falls after its configured width. -/
  | ppsOutFall
  /-- EPOCH_TICK (R205). The clock reaches T_(C+1) and the epoch counter rises by 1. -/
  | epochTick
  /-- WINDOW_TICK (R205). The clock reaches T_(C+1) − W and a window tick is issued. -/
  | windowTick
  /-- EPOCH_VALID_START (R206). The clock reaches O while epoch_valid is 0; the counter is set to 0 and becomes valid. -/
  | epochValidStart
  /-- EPOCH_END (R207). The epoch counter saturates, sets epoch_end and raises EV_EPOCH_END. -/
  | epochEnd
  /-- LANE_CALIBRATION (R209). A lane's ball-to-converter delay is calibrated against the on-die reference. -/
  | laneCalibration (lane : Fin 76) (ok : Bool) (temp : Byte)
  /-- STACK_TIME_SEND (R216). Every 1 µs the stack master sends a time word on each Runner port. -/
  | stackTimeSend
  /-- STACK_TIME_WORD (R216). A member captures a master time word and disciplines its clock. -/
  | stackTimeWord (k : TimeWord) (f : TimePath)
  /-- FRAME_RECEIVE (R30). A frame is received whole by an Ethernet MAC, admitted to the ingress pool and checked. -/
  | frameReceive (port : Fin 16) (sub : Fin 4) (frame : Bytes) (part : Arrival)
  /-- LADLE_THREAD_START (R34). A free Ladle thread receives the header window and parse summary and starts the frame program. -/
  | ladleThreadStart (ladle : Fin 256) (thread : Fin 4) (frame : Nat)
  /-- EARLY_LOOKUP (R102). The SA lookup, header tests and replay pre-check of a MACsec frame or ingot run and the OPEN is issued. -/
  | earlyLookup (frame : Nat)
  /-- OFFLOAD_RESULT (R254). A lookup, table or meter offload result reaches the waiting thread. -/
  | offloadResult (ladle : Fin 256) (thread : Fin 4)
  /-- PAN_ADMISSION (R37). A frame reaching Pan admission is tested and sealed with a freshly allocated PN. -/
  | panAdmission (frame : Nat)
  /-- SEAL_COMPLETE (R98). A Pan finishes a SEAL request and writes the sealed frame into the buffer. -/
  | sealComplete (frame : Nat)
  /-- OPEN_VERDICT (R42). A Pan forms the verdict of an opened MACsec frame and applies the second replay test. -/
  | openVerdict (frame : Nat)
  /-- CLIENT_FRAME_START (R45). The client framer starts a frame, cut-through before its verdict where R45 allows. -/
  | clientFrameStart (frame : Nat)
  /-- SCHEDULER_SELECT (R226). A scheduler port that can start a frame selects one eligible head and charges it. -/
  | schedulerSelect (port : Fin 66)
  /-- EXC_OUT_FETCH (R52). The part fetches and checks an exception-out descriptor. -/
  | excOutFetch (ring : Fin 16) (desc frame : Option Bytes)
  /-- LA_REQUEST_FETCH (R104). The dispatcher fetches a look-aside request round robin and checks its lengths. -/
  | laRequestFetch (req : Option Bytes)
  /-- LA_ADMISSION (R55). A look-aside request reaches Pan admission and its key checks are applied. -/
  | laAdmission (req : Nat) (msg aad : Option Bytes)
  /-- LA_COMPLETE (R112). A look-aside completion is written in ring order. -/
  | laComplete (pair : Fin 96)
  /-- CMAC_COMPLETE (R98). A CMAC request completes and returns its result to the Crucible. -/
  | cmacComplete (e : Fin 2)
  /-- SLOT_ALLOCATION (R78). Before a slot starts, the transmit SA is tested, the PN allocated and departure predicted. -/
  | slotAllocation (line : Fin 8) (sub : Fin 4) (phase : BitVec 16)
  /-- KSTREAM_DELIVERY (R78). A Pan delivers a slot's keystream, tag mask and GHASH subkey to the framer. -/
  | kstreamDelivery (line : Fin 8) (sub : Fin 4)
  /-- SLOT_CLOSE (R242). At close the Sluice fixes the slot's segments. -/
  | slotClose (line : Fin 8) (sub : Fin 4)
  /-- SLOT_READY_TEST (R80). 16 CK_TXn cycles before a slot, a late data ingot is replaced by dross. -/
  | slotReadyTest (line : Fin 8) (sub : Fin 4) (complete : Bool)
  /-- INGOT_SENT (R81). An ingot leaves completely and frames ending in it count as sent. -/
  | ingotSent (line : Fin 8) (sub : Fin 4)
  /-- INGOT_VERDICT (R86). A received ingot's verdict updates slot_seq and replay state and releases its segments. -/
  | ingotVerdict (frame : Nat)
  /-- REASM_TIMEOUT (R89). The 1 µs check closes reassembly contexts not extended within tmo. -/
  | reasmTimeout (line : Fin 8) (sub : Fin 4)
  /-- PAN_ERROR (R113). A Pan self-check mismatch withholds output and replays the request elsewhere. -/
  | panError (req : Nat) (check : Fin 6)
  /-- PAN_KAT_END (R116). A Pan's known-answer test ends, returning it to service or retiring it. -/
  | panKatEnd (pan : Fin 24) (pass : Bool)
  /-- PAN_PERIODIC_KAT (R116). Spare Pans every 1 ms and idle in-service Pans every 100 ms start a test. -/
  | panPeriodicKat (pan : Fin 24)
  /-- PAN_KAT_CMD (R116). PAN_CTL.kat runs a Pan test now. -/
  | panKatCmd (pan : Fin 24)
  /-- PAN_RETIRE_CMD (R117). PAN_CTL.retire retires a Pan in PROVISION or MAINTENANCE. -/
  | panRetireCmd (pan : Fin 24)
  /-- STOP_LINE (R118). The stop line reaches CK_CORE and the dispatcher admits no further request. -/
  | stopLine
  /-- PAN_CACHE_CLEAR (R118). After the last admitted request completes, every Pan key cache is cleared. -/
  | panCacheClear
  /-- FRAME_SPILL_TO_HBM (R224). A frame beyond its queue's on-die share moves to the HBM data region. -/
  | frameSpillToHbm (frame : Nat)
  /-- FRAME_RETURN_ON_DIE (R224). As the queue drains, a frame moves back from HBM to the on-die buffer. -/
  | frameReturnOnDie (frame : Nat)
  /-- SHAPER_REFILL (R229). A shaper's buckets are refilled at its period and capped. -/
  | shaperRefill (cls : Bool) (index : Fin 32768)
  /-- GCL_SWAP (R240). SLU_GCL_CFG.swap makes the inactive bank pending at COMMIT. -/
  | gclSwap (port : Fin 66)
  /-- GCL_TAKEOVER (R240). The pending gate list takes over and EV_GCL_SWAP is raised. -/
  | gclTakeover (port : Fin 66)
  /-- GCL_FIT_RETEST (R241). The framer repeats the gate fit test and returns a frame that fails. -/
  | gclFitRetest (port : Fin 66)
  /-- SAMPLE_PERIOD (R243). Each sampling period reads the listed queues and writes records, or drops the period. -/
  | samplePeriod
  /-- SLU_IND_READ (R247). SLU_IND_CMD.read snapshots an indirect entry into SLU_IND_DATA. -/
  | sluIndRead
  /-- SLU_IND_WRITE (R247). SLU_IND_CMD.write stages SLU_IND_DATA into an entry for COMMIT. -/
  | sluIndWrite
  /-- LEARN_PROCESS (R258). The head learn request is looked up again and inserted, refreshed, moved or refused. -/
  | learnProcess
  /-- RAKE_VISIT (R264). The Rake visits a slot and ages or removes a dynamic entry. -/
  | rakeVisit (look : RakeLook)
  /-- FWD_ADD (R266). Stages the install or replacement of a forwarding entry. -/
  | fwdAdd (key : DWord) (dest static : Word)
  /-- FWD_DEL (R266). Stages the removal of a key's entry. -/
  | fwdDel (key : DWord)
  /-- FWD_FLUSH (R267). Removes every entry matching a mask in a special Rake pass. -/
  | fwdFlush (value mask : DWord) (static : Word)
  /-- FWD_RECOUNT (R267). Rebuilds every port learn count from the table. -/
  | fwdRecount
  /-- FWD_INFO (R266). Returns the entry for a key or NOT_FOUND. -/
  | fwdInfo (key out : DWord)
  /-- FWD_IND_READ (R271). FWD_IND_CMD.read snapshots a table entry, by slot or by key. -/
  | fwdIndRead
  /-- KEY_IDS_LOAD (R275). After ENT_STAT.ready rises, all 32 memory key IDs are loaded. -/
  | keyIdsLoad
  /-- MEM_KEY_FLUSH (R278). Moves a key ID to FLUSHING. -/
  | memKeyFlush (kid : Word)
  /-- MEM_KEY_RETIRE (R278). Destroys a key ID's keys and releases its buffers. -/
  | memKeyRetire (kid : Word)
  /-- MEM_KEY_LOAD (R278). Draws new keys for a RETIRED key ID. -/
  | memKeyLoad (kid : Word)
  /-- MEM_KSTAT (R288). Returns the states of all 32 key IDs in one completion. -/
  | memKstat
  /-- KID_FLUSHED (R278). The last buffer of a FLUSHING ID is released and the ID becomes FLUSHED. -/
  | kidFlushed (kid : Fin 32)
  /-- MINOR_OVERFLOW (R281). A minor counter passes 127; the leaf's major rises and its lines are re-encrypted. -/
  | minorOverflow (leaf : Fin 7208960)
  /-- BUFFER_ACCESS_VIOLATION (R286). A debug or scan access aimed at buffer memory is aborted and recorded. -/
  | bufferAccessViolation (access : LineAccess)
  /-- ADD (R303). Adds two registers. -/
  | add (e : Eng) (d a b : Fin 32)
  /-- SUB (R303). Subtracts two registers. -/
  | sub (e : Eng) (d a b : Fin 32)
  /-- AND (R303). Bitwise AND. -/
  | and_ (e : Eng) (d a b : Fin 32)
  /-- OR (R303). Bitwise OR. -/
  | or_ (e : Eng) (d a b : Fin 32)
  /-- XOR (R303). Bitwise XOR. -/
  | xor_ (e : Eng) (d a b : Fin 32)
  /-- SLL (R303). Shift left logical. -/
  | sll (e : Eng) (d a b : Fin 32)
  /-- SRL (R303). Shift right logical. -/
  | srl (e : Eng) (d a b : Fin 32)
  /-- SRA (R303). Shift right arithmetic. -/
  | sra (e : Eng) (d a b : Fin 32)
  /-- SLT (R303). Signed set-less-than. -/
  | slt (e : Eng) (d a b : Fin 32)
  /-- SLTU (R303). Unsigned set-less-than. -/
  | sltu (e : Eng) (d a b : Fin 32)
  /-- SEQ (R303). Set if equal. -/
  | seq (e : Eng) (d a b : Fin 32)
  /-- MIN (R303). Signed minimum. -/
  | min_ (e : Eng) (d a b : Fin 32)
  /-- MINU (R303). Unsigned minimum. -/
  | minu (e : Eng) (d a b : Fin 32)
  /-- MAX (R303). Signed maximum. -/
  | max_ (e : Eng) (d a b : Fin 32)
  /-- MAXU (R303). Unsigned maximum. -/
  | maxu (e : Eng) (d a b : Fin 32)
  /-- MUL (R303). Lower 64 bits of the product. -/
  | mul (e : Eng) (d a b : Fin 32)
  /-- MULHU (R303). Upper 64 bits of the unsigned product. -/
  | mulhu (e : Eng) (d a b : Fin 32)
  /-- CLZ (R303). Counts leading zeros. -/
  | clz (e : Eng) (d a : Fin 32)
  /-- POPC (R303). Counts set bits. -/
  | popc (e : Eng) (d a : Fin 32)
  /-- BSWAP (R303). Reverses bytes. -/
  | bswap (e : Eng) (d a : Fin 32)
  /-- EXT (R303). Extracts a bit field. -/
  | ext (e : Eng) (d a b : Fin 32)
  /-- JALR (R303). Jumps to a register address and links. -/
  | jalr (e : Eng) (d a : Fin 32)
  /-- HALT (R303). Ends the run of a key sequencer, order engine or always-on program. -/
  | halt (e : Eng)
  /-- FENCE (R303). Waits until earlier scratch stores and atomics are visible to the quadrant. -/
  | fence (e : Eng)
  /-- BRK (R303). Breakpoint under D2, otherwise no effect. -/
  | brk (e : Eng)
  /-- RDCYC (R303). Reads instructions issued in the current frame or run. -/
  | rdcyc (e : Eng) (d : Fin 32)
  /-- ADDI (R304). Adds a sign-extended immediate. -/
  | addi (e : Eng) (d a : Fin 32) (imm : BitVec 16)
  /-- ANDI (R304). AND with a zero-extended immediate. -/
  | andi (e : Eng) (d a : Fin 32) (imm : BitVec 16)
  /-- ORI (R304). OR with a zero-extended immediate. -/
  | ori (e : Eng) (d a : Fin 32) (imm : BitVec 16)
  /-- XORI (R304). XOR with a zero-extended immediate. -/
  | xori (e : Eng) (d a : Fin 32) (imm : BitVec 16)
  /-- SLTI (R304). Signed set-less-than immediate. -/
  | slti (e : Eng) (d a : Fin 32) (imm : BitVec 16)
  /-- SLTIU (R304). Unsigned set-less-than immediate. -/
  | sltiu (e : Eng) (d a : Fin 32) (imm : BitVec 16)
  /-- LUI (R304). Loads an upper immediate. -/
  | lui (e : Eng) (d : Fin 32) (imm : BitVec 16)
  /-- SLLI (R304). Shift left by immediate. -/
  | slli (e : Eng) (d a : Fin 32) (sh : BitVec 6)
  /-- SRLI (R304). Logical shift right by immediate. -/
  | srli (e : Eng) (d a : Fin 32) (sh : BitVec 6)
  /-- SRAI (R304). Arithmetic shift right by immediate. -/
  | srai (e : Eng) (d a : Fin 32) (sh : BitVec 6)
  /-- L8U (R296). Loads a zero-extended byte. -/
  | l8u (e : Eng) (d a : Fin 32) (imm : BitVec 16)
  /-- L16U (R296). Loads a zero-extended half word. -/
  | l16u (e : Eng) (d a : Fin 32) (imm : BitVec 16)
  /-- L32U (R296). Loads a zero-extended word. -/
  | l32u (e : Eng) (d a : Fin 32) (imm : BitVec 16)
  /-- L64 (R296). Loads a double word. -/
  | l64 (e : Eng) (d a : Fin 32) (imm : BitVec 16)
  /-- L8S (R296). Loads a sign-extended byte. -/
  | l8s (e : Eng) (d a : Fin 32) (imm : BitVec 16)
  /-- L16S (R296). Loads a sign-extended half word. -/
  | l16s (e : Eng) (d a : Fin 32) (imm : BitVec 16)
  /-- L32S (R296). Loads a sign-extended word. -/
  | l32s (e : Eng) (d a : Fin 32) (imm : BitVec 16)
  /-- S8 (R296). Stores a byte. -/
  | s8 (e : Eng) (src a : Fin 32) (imm : BitVec 16)
  /-- S16 (R296). Stores a half word. -/
  | s16 (e : Eng) (src a : Fin 32) (imm : BitVec 16)
  /-- S32 (R296). Stores a word. -/
  | s32 (e : Eng) (src a : Fin 32) (imm : BitVec 16)
  /-- S64 (R296). Stores a double word. -/
  | s64 (e : Eng) (src a : Fin 32) (imm : BitVec 16)
  /-- AADD (R305). Atomic add on a scratch word. -/
  | aadd (e : Eng) (d a b : Fin 32)
  /-- AAND (R305). Atomic AND on a scratch word. -/
  | aand (e : Eng) (d a b : Fin 32)
  /-- AOR (R305). Atomic OR on a scratch word. -/
  | aor (e : Eng) (d a b : Fin 32)
  /-- ASWAP (R305). Atomic swap on a scratch word. -/
  | aswap (e : Eng) (d a b : Fin 32)
  /-- AMAXU (R305). Atomic unsigned maximum on a scratch word. -/
  | amaxu (e : Eng) (d a b : Fin 32)
  /-- BEQ (R304). Branch if equal. -/
  | beq (e : Eng) (a b : Fin 32) (off : BitVec 16)
  /-- BNE (R304). Branch if not equal. -/
  | bne (e : Eng) (a b : Fin 32) (off : BitVec 16)
  /-- BLT (R304). Branch if signed less. -/
  | blt (e : Eng) (a b : Fin 32) (off : BitVec 16)
  /-- BGE (R304). Branch if signed greater or equal. -/
  | bge (e : Eng) (a b : Fin 32) (off : BitVec 16)
  /-- BLTU (R304). Branch if unsigned less. -/
  | bltu (e : Eng) (a b : Fin 32) (off : BitVec 16)
  /-- BGEU (R304). Branch if unsigned greater or equal. -/
  | bgeu (e : Eng) (a b : Fin 32) (off : BitVec 16)
  /-- J (R304). Jumps by a word offset. -/
  | j (e : Eng) (off : BitVec 26)
  /-- JAL (R304). Jumps and writes the link register. -/
  | jal (e : Eng) (off : BitVec 26)
  /-- FWIN (R307). Loads 192 frame bytes into the extra window. -/
  | fwin (e : Eng) (d a : Fin 32)
  /-- FSKIP (R308). Returns the offset of the header following one of a given kind. -/
  | fskip (e : Eng) (d a : Fin 32) (kind : BitVec 5)
  /-- FINS (R309). Inserts bytes into the header. -/
  | fins (e : Eng) (a b : Fin 32) (n : BitVec 5)
  /-- FDEL (R309). Deletes bytes from the header. -/
  | fdel (e : Eng) (a b : Fin 32)
  /-- FEMIT (R310). Emits the frame or a copy to a destination word, ending the pass. -/
  | femit (e : Eng) (a b : Fin 32) (copy : Bool)
  /-- FDROP (R307). Drops the frame as PROG_DROP, ending the pass. -/
  | fdrop (e : Eng)
  /-- LKP_FWD (R253). Requests destination and source forwarding lookups. -/
  | lkpFwd (e : Eng) (d a b : Fin 32) (bad : List (Fin 262144 × BitVec 4))
  /-- LKP_SA (R312). Returns the early SA lookup result or a channel's current transmit SA. -/
  | lkpSa (e : Eng) (d a : Fin 32) (m : Bool)
  /-- CSEAL (R313). Marks the frame for sealing under an SA handle. -/
  | cseal (e : Eng) (a : Fin 32)
  /-- COPEN (R313). Binds the frame to its OPEN under a receive SA handle. -/
  | copen (e : Eng) (d a : Fin 32)
  /-- MTR (R314). Colours the frame with a meter. -/
  | mtr (e : Eng) (d a b : Fin 32)
  /-- CINC (R316). Increments a program counter pair. -/
  | cinc (e : Eng) (a b : Fin 32)
  /-- TNOW (R307). Reads time or the elapsed-time count. -/
  | tnow (e : Eng) (d : Fin 32) (m : BitVec 5)
  /-- TDEP (R317). Sets the residence insertion mark. -/
  | tdep (e : Eng) (a : Fin 32)
  /-- KDERIVE (R319). Derives a key into a transient. -/
  | kderive (e : Eng) (d a b : Fin 32) (m : BitVec 5)
  /-- KUNWRAP (R320). Unwraps a blob under a KEK into a transient. -/
  | kunwrap (e : Eng) (d a b : Fin 32) (m : BitVec 5)
  /-- KCMAC (R320). Generates or verifies an AES-CMAC tag under a SIGN key. -/
  | kcmac (e : Eng) (d a b : Fin 32) (m : BitVec 5)
  /-- KOUT (R321). Stages a transient as the key of a target slot. -/
  | kout (e : Eng) (d a b : Fin 32) (m : BitVec 5)
  /-- KMOV (R318). Copies one transient to another. -/
  | kmov (e : Eng) (d a : Fin 32) (m : BitVec 5)
  /-- KCLR (R318). Empties a transient. -/
  | kclr (e : Eng) (a : Fin 32)
  /-- KINFO (R318). Returns a k register's attributes. -/
  | kinfo (e : Eng) (d a : Fin 32)
  /-- KHND (R318). Returns the handle held in a k register. -/
  | khnd (e : Eng) (d a : Fin 32)
  /-- OCALL (R322). Executes an order by code with parameters in local memory. -/
  | ocall (e : Eng) (d a b : Fin 32) (dma : Option Bytes)
  /-- OTW (R323). Stages a register write for the block's commit. -/
  | otw (e : Eng) (d a b : Fin 32)
  /-- OMODE (R324). Stages a mode transition. -/
  | omode (e : Eng) (d a : Fin 32)
  /-- OCOMMIT (R322). Applies all staged entries of the run. -/
  | ocommit (e : Eng) (d : Fin 32)
  /-- OABORT (R322). Discards all staged entries. -/
  | oabort (e : Eng)
  /-- OWAIT (R322). Starts a wait on the elapsed-time count or epoch counter. -/
  | owait (e : Eng) (d a : Fin 32) (m : BitVec 5)
  /-- OWAIT_RESUME (R322). The awaited value is reached or 1,000,000 µs pass and the run resumes. -/
  | owaitResume
  /-- VSENSE (R325). Reads a sensor value in the vigil program. -/
  | vsense (e : Eng) (d : Fin 32) (m : BitVec 5)
  /-- VERASE (R325). Erases both seal words. -/
  | verase (e : Eng)
  /-- VFLAG (R325). Sets sticky flags. -/
  | vflag (e : Eng) (a : Fin 32)
  /-- VNOTE (R325). Writes a tamper note word. -/
  | vnote (e : Eng) (a b : Fin 32)
  /-- IMAGE_LOAD (R336). Reads, checks and writes a signed image into a target's pending bank. -/
  | imageLoad (target : Word) (imageAt : DWord) (len : Word) (image : Option Bytes)
  /-- IMAGE_ACTIVATE (R337). Stages activation of a pending image. -/
  | imageActivate (target : Word)
  /-- OLD_BANK_RELEASE (R338). The last frame or run on the old bank ends and the bank is released. -/
  | oldBankRelease (target : Fin 12)
  /-- ORDER_BLOCK_FETCH (R341). The order engine fetches a block, loads its parameters and starts the run. -/
  | orderBlockFetch (ring : Fin 4) (desc : Option Bytes) (params : Option Bytes)
  /-- PROGRAM_ECC_REPAIR (R340). An uncorrectable instruction or table word is repaired from the HBM copy. -/
  | programEccRepair (error : EccError)
  /-- PERF_COUNTER_WRAP (R348). A performance counter wraps and sets its overflow bit. -/
  | perfCounterWrap (q : Fin 4) (counter : PerfCounter)
  /-- INSTRUCTION_SAMPLE (R351). One of every period instructions is sampled into the quadrant buffer. -/
  | instructionSample (ladle : Fin 256) (thread : Fin 4) (encoding : Word) (addr : BitVec 17) (latency : Nat)
  /-- LAD_DBG_HALT (R352). LAD_DBG_CTL.halt halts the chosen thread. -/
  | ladDbgHalt (q : Fin 4)
  /-- LAD_DBG_STEP (R352). LAD_DBG_CTL.step runs one instruction and halts. -/
  | ladDbgStep (q : Fin 4)
  /-- LAD_DBG_RESUME (R352). LAD_DBG_CTL.resume resumes the halted thread. -/
  | ladDbgResume (q : Fin 4)
  /-- BREAKPOINT_HIT (R352). A thread reaches the breakpoint address and halts. -/
  | breakpointHit (ladle : Fin 256) (thread : Fin 4)
  /-- VIGIL_RUN_START (R345). Within 4 µs of an always-on alarm the vigil program run starts. -/
  | vigilRunStart
  /-- LADLE_CORE_TEST (R409). Once per second a Ladle leaves the pool for a 50 µs core test. -/
  | ladleCoreTest (ladle : Fin 256)
  /-- CLAIM_FRAME_SEND (R411). Every 5 µs the part sends its claim frame on CLAIM_TX. -/
  | claimFrameSend
  /-- CLAIM_FRAME_RECEIVE (R411). A valid peer claim arrives on the sideband or pair link. -/
  | claimFrameReceive (pairLink : Bool) (frame : Bytes)
  /-- PEER_ABSENT (R410). With no pair signal and no valid frame for 1 ms, the peer claim is taken as 0x00. -/
  | peerAbsent
  /-- GRADE_FALL (R409). A health condition lowers the grade within 1 µs. -/
  | gradeFall (fec : Bool)
  /-- GRADE_RISE (R409). A higher grade held 100 ms takes effect. -/
  | gradeRise (fec : Bool)
  /-- REVERT_EXPIRY (R411). The revert hold expires and the deferring part publishes its own claim. -/
  | revertExpiry
  /-- PAIR_HELLO (R412). A pair link HELLO is exchanged and checked, deriving the session key. -/
  | pairHello (peer : Machine.PeerHello)
  /-- RUNNER_HELLO (R423). A Runner link HELLO is exchanged and checked. -/
  | runnerHello (port : Fin 2) (peer : Machine.PeerHello)
  /-- LINK_REHELLO (R413). A new HELLO is exchanged before the link sequence reaches 2^48. -/
  | linkRehello (link : Fin 3) (peer : Machine.PeerHello)
  /-- PAIR_CYCLE_END (R415). At the end of a pair cycle the holder snapshots changed records for streaming. -/
  | pairCycleEnd
  /-- PAIR_CYCLE_APPLY (R415). The standby applies a cycle atomically when its marker arrives. -/
  | pairCycleApply (copy : Machine.PairFrame Machine.PairCycle)
  /-- COPY_RESEND (R415). A record unacknowledged within 2 cycles is sent again. -/
  | copyResend
  /-- BULK_COPY_DONE (R418). The standby applies the last bulk record and later cycles and becomes SYNCED. -/
  | bulkCopyDone (head : Machine.PairHead) (bulk : Machine.BulkCopy)
  /-- PAIR_RESYNC (R418). PRS_CTL.resync starts a new bulk copy. -/
  | pairResync
  /-- MARKER_DEADLINE (R419). A cycle-end marker deadline passes without the marker. -/
  | markerDeadline
  /-- TAKEOVER (R419). The standby takes over, advances PNs by the guard and enters ACTIVE. -/
  | takeover
  /-- YIELD (R420). A holder whose claim falls stops allocation and sends its final copy. -/
  | yield
  /-- YIELD_END (R420). The yield ends; the part lowers SEL_OUT and enters STANDBY. -/
  | yieldEnd
  /-- DUAL_HOLD (R421). Both devices hold at once; the lower yields and PNs are reconciled. -/
  | dualHold (limits : List Machine.CopyItem)
  /-- KEEPALIVE_SEND (R423). Every 10 µs a device sends a keepalive on both Runner ports. -/
  | keepaliveSend
  /-- KEEPALIVE_RECEIVE (R423). A keepalive is received and forwarded, updating member state. -/
  | keepaliveReceive (port : Fin 2) (dev : Machine.RingDevice) (hops : Fin 8) (mode : Fin 16) (holding : Bool) (claim : Byte)
  /-- STACK_FRAME_RECEIVE (R425). A stack frame arrives and is delivered, forwarded or dropped. -/
  | stackFrameReceive (port : Fin 2) (frame : Bytes)
  /-- MASTER_LOST (R427). No master word for 100 µs; the member declares the master lost. -/
  | masterLost
  /-- MASTER_FOUND (R427). Master time words return and the member reacquires time. -/
  | masterFound
  /-- PAIR_KEY_SET (R431). Stages the pair key slot. -/
  | pairKeySet (handle : Word)
  /-- STACK_KEY_SET (R431). Stages the stack key slot. -/
  | stackKeySet (handle : Word)
  /-- PROMOTE (R428). Makes the device the acting master while the master is lost. -/
  | promote
  /-- STACK_RELAY (R429). The master relays an order list to a member. -/
  | stackRelay (device : Word) (paramsAt : DWord) (len : Word) (params : Option Bytes)
  /-- RELAY_RECEIVE (R429). A member runs a relayed order list and returns its result. -/
  | relayReceive (params : Bytes)
  /-- RELAY_TIMEOUT (R429). No member result within 100 ms gives NO_MEMBER. -/
  | relayTimeout
  /-- FAULT_REPORT (R440). A transient error report reaches CK_SAFE and is retried or queued. -/
  | faultReport (cls : Fin 10) (channel : BitVec 16) (code : Word) (detail : DWord) (used : Bool)
  /-- TABLE_SRAM_ECC (R438). An uncorrectable table SRAM error acts on its entry and raises EV_TBL_ECC. -/
  | tableSramEcc (table : Fin 4) (index : BitVec 16)
  /-- FABRIC_IIC_MISMATCH (R446). A fabric integrity code mismatch discards and repeats the transfer. -/
  | fabricIicMismatch (error : IicError)
  /-- ALARM_RAISE (R441). An alarm condition rises; its flag is set and the response executed. -/
  | alarmRaise (rise : AlarmRise)
  /-- MESH_BREACH (R442). The lid mesh opens or shorts and the seal is erased in hardware. -/
  | meshBreach
  /-- MESH_PATTERN_CHECK (R442). Once per second a pattern is driven along each mesh trace and compared. -/
  | meshPatternCheck (good : Bool)
  /-- TEMP_SAMPLE (R443). The die temperature sensors are sampled. -/
  | tempSample (a b : Byte)
  /-- ZEROIZATION (R449). Zeroization starts: Pans stop, seal erased, keys destroyed, memories cleared. -/
  | zeroization (trigger : ZeroizeCause)
  /-- ZEROIZATION_COMPLETE (R449). Zeroization ends, the mode becomes ERASED and EV_ZEROIZED is raised. -/
  | zeroizationComplete
  /-- TAMPER_CLEAR (R448). With owner authority, clears masked sticky flags and optionally the note. -/
  | tamperClear (mask note : Word)
  /-- INPUT_FILTERED_CHANGE (R458). A panel input holds a new level 8 ms and its filtered value changes. -/
  | inputFilteredChange (input : Fin 7) (active : Bool)
  /-- INPUT_CHATTER (R458). More than 16 changes in 1 s hold the input for chatter. -/
  | inputChatter (input : Fin 7)
  /-- CHATTER_HOLD_END (R458). The 10 s chatter hold ends. -/
  | chatterHoldEnd (input : Fin 7)
  /-- INPUT_STUCK (R458). An input stays active beyond STUCK_LIMIT and is ignored. -/
  | inputStuck (input : Fin 7)
  /-- TOUCH_MEASURE (R458). Every 1 ms a touch electrode is measured against its baseline. -/
  | touchMeasure (electrode : Fin 4) (above : BitVec 16)
  /-- ZEROIZE_BUTTON_HOLD (R460). ZEROIZE_N pressed for 2 s zeroizes the part. -/
  | zeroizeButtonHold
  /-- ZEROIZE_BUTTON_RELEASE (R460). ZEROIZE_N released before 2 s raises EV_ZEROIZE_ABORT. -/
  | zeroizeButtonRelease
  /-- VIGIL_ZEROIZE_HOLD (R461). In VIGIL a 2 s hold erases the seal and writes the note without a run. -/
  | vigilZeroizeHold
  /-- TOUCH_COUNTED (R463). A touch's release counts its digit into the entry. -/
  | touchCounted (digit : Fin 4)
  /-- PIN_ENTRY_END (R466). 2 s after the last release the entry is compared with the PIN record. -/
  | pinEntryEnd
  /-- PIN_LOCKOUT_END (R466). The 900 s keypad lockout ends and the count is set to 4. -/
  | pinLockoutEnd
  /-- PIN_SET (R467). With owner authority, arms PIN enrolment for 60 s. -/
  | pinSet
  /-- ENROLMENT_TIMEOUT (R467). PIN enrolment ends after 60 s. -/
  | enrolmentTimeout
  /-- FILL_HELLO (R470). A HELLO frame opens a fill session and is answered. -/
  | fillHello (crcOk : Bool) (payload : Bytes)
  /-- FILL_KEYBLOB (R470). A KEYBLOB frame is tested and answered with ACK or NAK. -/
  | fillKeyblob (crcOk : Bool) (payload : Bytes)
  /-- FILL_BYE (R470). A BYE frame ends the fill session. -/
  | fillBye (crcOk : Bool) (payload : Bytes)
  /-- FILL_ANSWER_END (R471). The last bit of a KEYBLOB ACK is clocked out and the blob is held. -/
  | fillAnswerEnd
  /-- FILL_SILENCE_TIMEOUT (R470). 100 ms without a FILL_CLK edge ends the session. -/
  | fillSilenceTimeout
  /-- FILL_PLUG (R473). The filtered FILL_DET_N goes low and the fill device is present. -/
  | fillPlug
  /-- FILL_UNPLUG (R473). The filtered FILL_DET_N goes high and the session ends. -/
  | fillUnplug
  /-- FILL_BLOB_EXPIRY (R472). A held blob is discarded after the hold time. -/
  | fillBlobExpiry
  /-- EVENT_RECORD_WRITE (R481). The recorder writes a record with the next sequence number into the ring. -/
  | eventRecordWrite
  /-- RATE_WINDOW_START (R483). At each window start limitable codes' buckets are refilled. -/
  | rateWindowStart
  /-- EVENT_DRAIN_COPY (R486). The drain copies the next record into the drain ring when room exists. -/
  | eventDrainCopy
  /-- EVENT_DRAIN_ENABLE (R486). Setting EVR_DRAIN_CFG.en starts the drain at the oldest record. -/
  | eventDrainEnable
  /-- LOG_CLEAR (R488). With owner or PIN authority discards every record and writes EV_LOG_CLEARED. -/
  | logClear
  /-- CNT_DUMP (R491). Writes a range of counters to host memory, optionally clearing them. -/
  | cntDump (space first count flags : Word) (out : DWord)
  /-- COUNTER_SNAPSHOT (R490). A CNT_SEL write snapshots a counter into CNT_DATA. -/
  | counterSnapshot (space : Bool) (index : BitVec 19)
  /-- COUNTER_READ_CLEAR (R490). A CNT_SEL write with rc = 1 snapshots and clears a counter. -/
  | counterReadClear (space : Bool) (index : BitVec 19)
  /-- COUNTER_WRITE (R490). A CNT_SEL write with wr = 1 stores CNT_DATA into a counter. -/
  | counterWrite (space : Bool) (index : BitVec 19)
  /-- COUNTER_ECC_ERROR (R492). An uncorrectable counter error sets it to 0 and marks it lost. -/
  | counterEccError (space : Bool) (error : CounterError)
  /-- PORT_UP (R538). A sub-port completes link-up with 1 ms without fault. -/
  | portUp (port : Fin 19) (sub : Fin 4)
  /-- PORT_DOWN (R539). A sub-port loses signal, lock, alignment or FEC lock and goes down. -/
  | portDown (port : Fin 19) (sub : Fin 4) (cause : Fin 4) (lanes : BitVec 4)
  /-- LANE_PPM_CHECK (R537). A lane's recovered clock frequency check fails and ppm_err is set. -/
  | lanePpmCheck (lane : Fin 64) (ppm : Byte)
  /-- FEC_BURST (R539). More than 4 uncorrectable codewords in 1 ms are charged to a lane. -/
  | fecBurst (port : Fin 19) (sub lane : Fin 4) (codewords : BitVec 16)
  /-- LANE_RETRAIN_CMD (R548). SRD_LANE_CTL.retrain retrains a lane's receiver without counting an error. -/
  | laneRetrainCmd (lane : Fin 76)
  /-- PRBS_INJECT_BIT (R541). inj_bit injects one bit error into the pattern generator. -/
  | prbsInjectBit (lane : Fin 76)
  /-- PRBS_INJECT_BURST (R541). inj_burst injects a burst of inverted bits. -/
  | prbsInjectBurst (lane : Fin 76)
  /-- RUNNER_LANE_DROP (R535). A retired link lane leaves the codeword rotation at the next marker. -/
  | runnerLaneDrop (lane : LinkLane)
  /-- ALARM_CAUSE_CLEAR (R441). The condition of an alarm source ends and its TMP_CAUSE bit returns to 0 while the sticky flag stays set. -/
  | alarmCauseClear (source : Fin 14)
  /-- LADLE_CORE_TEST_END (R409). A Ladle's 50 µs rotating core test ends and the Ladle returns to the pool or reports a fault. -/
  | ladleCoreTestEnd (ladle : Fin 256) (pass : Bool)
  /-- FAULT_RECOVERY_DONE (R439). A fault class handler finishes its recovery and takes the next error waiting in its pending queue. -/
  | faultRecoveryDone (cls : Fin 10) (ok : Bool)
  /-- KEEPALIVE_TIMEOUT (R423). No keepalive from a stack member for 100 µs, so the member is marked absent. -/
  | keepaliveTimeout (dev : Fin 8)
  /-- CYCLE_ACKNOWLEDGE (R415). The holding device receives the standby's acknowledgement of an applied pair cycle. -/
  | cycleAcknowledge (what : Machine.PairFrame Machine.CopyAck)
  deriving DecidableEq, Repr

end Sys2Proof
end

