-- ==== Sys2Proof/Decode.lean ====
section
/-! DEFINITION. The command that a word spells by the table's bits. No row of the table gives bits: a command is an
operation or an event, and its operands are not numbered. -/
namespace Sys2Proof

/-- No row of the table has an encoding, so no word spells a command. -/
def decodeTableWord (_nbits _w : Nat) : Option Instr := none

end Sys2Proof
end

