-- ==== Sys2Proof/Config.lean ====
section
/-! DEFINITION. What one part fixes, and the values the spec leaves open: opaque constants, so that no proof can see
their value.

The cryptographic functions are those of published standards that the spec names (AES-GCM, AES-CMAC, AES key wrap
with padding, SHA-384, ECDSA P-384); the model takes them as unknown functions of their inputs (log entry 2). -/
namespace Sys2Proof

/-! ### Free values: the n-th open value drawn, in each width (log entry 3) -/

/-- The n-th open value of `w` bits. -/
opaque Config.freeBits (n w : Nat) : BitVec w

/-- The n-th open number. -/
opaque Config.freeNat (n : Nat) : Nat

/-- The n-th open bit. -/
opaque Config.freeBool (n : Nat) : Bool

/-- What the hardware measures or counts of its lines, and no command tells: the value of a field of the register at offset `off`
when the free-value counter is `n` (log entry 29). -/
opaque Config.measured (n off lo : Nat) : Nat

/-! ### The part's own constants -/

/-- device_id, the serial number Clagus programs into OTP (R125). -/
opaque Config.deviceId : DWord

/-- The grade of the part: false YL-3208-C, true YL-3208-E (R530, SYS_ID.grade). -/
opaque Config.gradeE : Bool

/-- The PUF response as enrolled, the helper data that was written to OTP then, and what the extractor makes of a response that
differs from enrolment in more bits than it corrects (R390). -/
opaque Config.pufEnrolled : BitVec 131072
opaque Config.pufHelper : BitVec 131072
opaque Config.fuzzyCorrect (helper response : BitVec 131072) : Bytes

/-- The DUK check value in OTP (R390). -/
opaque Config.dukCheck : DWord

/-- The measurements of the two ROM images and the built-in vigil program (R335, targets 9, 10 and 11). -/
opaque Config.romMeasurement (target : Nat) : BitVec 384

/-- The fixed conditioning key of the entropy sources (R180). -/
opaque Config.condKey : BitVec 256

/-- The four seeds of the hash functions h0 to h3 of the forwarding table (R249). -/
opaque Config.fwdSeed (way : Nat) : BitVec 32

/-- The reduction of such a hash to 16 bits (R249). -/
opaque Config.fwdReduce (h : BitVec 32) : BitVec 16

/-- The fixed transmit path of an egress framer in ns, of which R214 says that it is below 512 ns with the longest lead. -/
opaque Config.txPath : Nat

/-- The cause that EV_TAKEOVER carries: after a claim drop, or after silence (R419; the spec gives no codes). -/
opaque Config.takeoverCause (silence : Bool) : Nat

/-! ### Cryptography -/

/-- SHA-384. -/
opaque Config.sha384 (m : Bytes) : BitVec 384

/-- AES-CMAC under a 128-bit (`k256` false) or 256-bit key. -/
opaque Config.cmac (k256 : Bool) (key : BitVec 256) (m : Bytes) : BitVec 128

/-- Byte `i` of the AES-GCM keystream of a key and an IV, which is XORed with the text. -/
opaque Config.gcmStream (k256 : Bool) (key : BitVec 256) (iv : BitVec 96) (i : Nat) : Byte

/-- The tag of AES-GCM over additional data and ciphertext. -/
opaque Config.gcmTag (k256 : Bool) (key : BitVec 256) (iv : BitVec 96) (aad cipher : Bytes) : BitVec 128

/-- One AES block under a 128-bit or 256-bit key. -/
opaque Config.aesBlock (k256 : Bool) (key : BitVec 256) (x : BitVec 128) : BitVec 128

/-- AES key wrap with padding (NIST SP 800-38F). -/
opaque Config.kwpWrap (k256 : Bool) (key : BitVec 256) (m : Bytes) : Bytes

/-- Its inverse; `none` on an integrity failure. -/
opaque Config.kwpUnwrap (k256 : Bool) (key : BitVec 256) (m : Bytes) : Option Bytes

/-- ECDSA P-384 verification of a signature over a message, under an uncompressed point. -/
opaque Config.ecdsaVerify (key sig m : Bytes) : Bool

/-- ECDSA P-384 signing under the private scalar derived as R125 states (RFC 6979 secrets). -/
opaque Config.ecdsaSign (secret : BitVec 384) (m : Bytes) : BitVec 768

/-- The public point X ‖ Y of a private scalar. -/
opaque Config.publicKey (secret : BitVec 384) : BitVec 768

/-- The order of the P-384 group, a constant of that curve (Table 05.1). -/
opaque Config.p384Order : Nat

/-- The hash over a line's ciphertext, buffer address and version under a tag key, a GHASH whose block layout the spec does
not give (R277). -/
opaque Config.lineHash (key : BitVec 256) (m : Bytes) : BitVec 128

/-- The input of the AES-256 block that masks a line's tag (R277). -/
opaque Config.lineMask (addr major minor : Nat) : BitVec 128

/-- The 64 bits of a masked hash that are a line's tag (R277). -/
opaque Config.tagTake (x : BitVec 128) : DWord

/-- The 64-bit MAC of a counter-tree node under a tag key, over the node, its address and its counter in the parent (R279). -/
opaque Config.nodeMac (key : BitVec 256) (addr parent : Nat) (counters : List Nat) : DWord

/-- R279: the eight 8-bit SECDED check bytes of a node's eight 64-bit words, whose code the spec does not give. -/
opaque Config.nodeCheck (counters : List Nat) : DWord

/-- The bytes of a record, of a pair cycle or of another message of the pair link: the spec gives them no layout (R415, R416;
log entry 34). -/
opaque Config.recordBytes (α : Type) (x : α) : Bytes

/-- The descriptor line of frame `n` (R283; the spec gives no layout), and the byte at which its 8-byte next-frame pointer
lies. -/
opaque Config.descriptor (n : Nat) : BitVec 512
opaque Config.pointerAt : Fin 57

/-- The pseudo-channel that holds a line of the data region. -/
opaque Config.lineChannel (line : Nat) : BitVec 6

/-! ### Protocols outside the manual -/

/-- The reply of the DOE responder to a message (CMA/SPDM and IDE_KM, R501), given the n-th exchange. -/
opaque Config.doeReply (n : Nat) (msg : Bytes) : Bytes

/-- Whether that exchange completes the programming of the IDE stream's keys (R502). -/
opaque Config.doeSecures (n : Nat) (msg : Bytes) : Bool

end Sys2Proof
end

