-- ==== Sys2Proof/Machine/Operands.lean ====
section
/-! DEFINITION. Byte order, fields and check codes: how values are laid out in bytes (R5) and the two CRCs the part
computes itself. -/
namespace Sys2Proof.Machine

/-- The `n` bytes of `v`, least significant first. -/
def leBytes : Nat → Nat → Bytes
  | 0, _ => []
  | n + 1, v => BitVec.ofNat 8 v :: leBytes n (v / 256)

/-- The `n` bytes of `v`, most significant first. -/
def beBytes (n v : Nat) : Bytes := (leBytes n v).reverse

/-- The value of bytes, least significant first. -/
def leNat : Bytes → Nat
  | [] => 0
  | b :: bs => b.toNat + 256 * leNat bs

/-- The value of bytes, most significant first. -/
def beNat (bs : Bytes) : Nat := leNat bs.reverse

/-- `n` bytes from offset `o`; bytes beyond the end read as 0. -/
def slice (bs : Bytes) (o n : Nat) : Bytes :=
  let t := (bs.drop o).take n
  t ++ List.replicate (n - t.length) 0

/-- Bits [hi:lo] of a number. -/
def bits (v hi lo : Nat) : Nat := v / 2 ^ lo % 2 ^ (hi + 1 - lo)

/-- Bit `i` of a number. -/
def bit (v i : Nat) : Bool := Nat.testBit v i

/-- One bit as a number. -/
def b2n (b : Bool) : Nat := if b then 1 else 0

/-- The bytes of a string of ASCII characters, without a terminator. -/
def ascii (s : String) : Bytes := s.toList.map fun ch => BitVec.ofNat 8 ch.toNat

/-- One byte of CRC-32C (polynomial 0x1EDC6F41 reflected). -/
def crc32cBits : Nat → BitVec 32 → BitVec 32
  | 0, r => r
  | n + 1, r => crc32cBits n (if r.getLsbD 0 then (r >>> 1) ^^^ 0x82F63B78#32 else r >>> 1)

/-- CRC-32C, reflected, with a seed as its initial value and final XOR 0xFFFF_FFFF. -/
def crc32cFrom (seed : BitVec 32) (bs : Bytes) : BitVec 32 :=
  (bs.foldl (fun r b => crc32cBits 8 (r ^^^ b.setWidth 32)) seed) ^^^ 0xFFFFFFFF#32

/-- CRC-32C, reflected, initial value and final XOR 0xFFFF_FFFF (R513). -/
def crc32c (bs : Bytes) : BitVec 32 := crc32cFrom 0xFFFFFFFF#32 bs

/-- One byte of the Ethernet CRC-32, reflected. -/
def crc32Bits : Nat → BitVec 32 → BitVec 32
  | 0, r => r
  | n + 1, r => crc32Bits n (if r.getLsbD 0 then (r >>> 1) ^^^ 0xEDB88320#32 else r >>> 1)

/-- The Ethernet FCS of a frame, as its four bytes on the line. -/
def fcs (bs : Bytes) : Bytes :=
  leBytes 4 ((bs.foldl (fun r b => crc32Bits 8 (r ^^^ b.setWidth 32)) 0xFFFFFFFF#32) ^^^ 0xFFFFFFFF#32).toNat

/-- One byte of a 16-bit CRC, most significant bit first. -/
def crc16Bits (poly : BitVec 16) : Nat → BitVec 16 → BitVec 16
  | 0, r => r
  | n + 1, r => crc16Bits poly n (if r.getLsbD 15 then (r <<< 1) ^^^ poly else r <<< 1)

/-- A 16-bit CRC, most significant bit first. -/
def crc16 (poly init : BitVec 16) (bs : Bytes) : BitVec 16 :=
  bs.foldl (fun r b => crc16Bits poly 8 (r ^^^ (BitVec.setWidth 16 b).shiftLeft 8)) init

/-- Text XORed with an AES-GCM keystream; the same function encrypts and decrypts. -/
def gcmXor (k256 : Bool) (key : BitVec 256) (iv : BitVec 96) (text : Bytes) : Bytes :=
  text.mapIdx fun i b => b ^^^ Config.gcmStream k256 key iv i

/-- The counter-mode KDF of NIST SP 800-108 with AES-CMAC as R134 states it: the leftmost `len` bits (at most 512). -/
def kdf (k256 : Bool) (key : BitVec 256) (input : Bytes) (len : Nat) : Nat :=
  let blk := fun i => Config.cmac k256 key ([BitVec.ofNat 8 i] ++ input ++ beBytes 2 len)
  let full := ((blk 1).toNat <<< 384) + ((blk 2).toNat <<< 256) + ((blk 3).toNat <<< 128) + (blk 4).toNat
  full / 2 ^ (512 - len)

/-- The leftmost 64 bits of SHA-384, as the digests of the store record (chapter 05). -/
def digest64 (bs : Bytes) : BitVec 64 := BitVec.ofNat 64 ((Config.sha384 bs).toNat / 2 ^ 320)

end Sys2Proof.Machine
end

