-- ==== Sys2Proof/Machine/Events.lean ====
section
/-! DEFINITION. The event codes of the part, their severities (Table 19.2) and which of them are limitable (R483). -/
namespace Sys2Proof.Machine

def Ev.MODE_CHANGED : Nat := 0x010
def Ev.MODE_REFUSED : Nat := 0x011
def Ev.AUTH_OK : Nat := 0x012
def Ev.AUTH_FAIL : Nat := 0x013
def Ev.DRAIN_TMO : Nat := 0x014
def Ev.DBG_LEVEL : Nat := 0x015
def Ev.DBG_REFUSED : Nat := 0x016
def Ev.DBG_PURGE : Nat := 0x017
def Ev.START_DONE : Nat := 0x020
def Ev.START_FAIL : Nat := 0x021
def Ev.ROOT_RETRY : Nat := 0x022
def Ev.RESET : Nat := 0x023
def Ev.CLAIM_OK : Nat := 0x026
def Ev.CLAIM_FAIL : Nat := 0x027
def Ev.FLT_TRANSIENT : Nat := 0x040
def Ev.FLT_PERMANENT : Nat := 0x041
def Ev.FLT_ESCALATE : Nat := 0x042
def Ev.ALARM : Nat := 0x043
def Ev.ZEROIZED : Nat := 0x045
def Ev.TAMPER_CLEARED : Nat := 0x046
def Ev.TBL_ECC : Nat := 0x047
def Ev.IIC_MISMATCH : Nat := 0x048
def Ev.FLAGS_CRC : Nat := 0x049
def Ev.STUCK : Nat := 0x050
def Ev.CHATTER : Nat := 0x051
def Ev.ZEROIZE_ABORT : Nat := 0x052
def Ev.PIN_OK : Nat := 0x053
def Ev.PIN_FAIL : Nat := 0x054
def Ev.PIN_LOCKOUT : Nat := 0x055
def Ev.PIN_SET : Nat := 0x056
def Ev.FILL_PLUG : Nat := 0x057
def Ev.FILL_BLOB : Nat := 0x058
def Ev.FILL_NAK : Nat := 0x059
def Ev.FILL_ABORT : Nat := 0x05A
def Ev.ENT_READY : Nat := 0x0C0
def Ev.ENT_HEALTH : Nat := 0x0C1
def Ev.ENT_SRC_DEGRADED : Nat := 0x0C2
def Ev.ENT_FATAL : Nat := 0x0C3
def Ev.ENT_SEED_STALE : Nat := 0x0C4
def Ev.LOCK_VIOL : Nat := 0x0E1
def Ev.CFG_REJECT : Nat := 0x0E2
def Ev.CFG_DRIFT : Nat := 0x0E3
def Ev.TIME_STEP : Nat := 0x0F0
def Ev.REF_QUALIFIED : Nat := 0x0F1
def Ev.REF_LOST : Nat := 0x0F2
def Ev.SLEW_DONE : Nat := 0x0F3
def Ev.PPS_FAR : Nat := 0x0F4
def Ev.EPOCH_JUMP : Nat := 0x0F5
def Ev.EPOCH_END : Nat := 0x0F6
def Ev.LANE_CAL : Nat := 0x0F7
def Ev.LEN_LIMIT : Nat := 0x1C0
def Ev.INGRESS_FULL : Nat := 0x1C1
def Ev.EXC_RING_FULL : Nat := 0x1C2
def Ev.RX_STOMP : Nat := 0x1C4
def Ev.INGOT_LATE : Nat := 0x1C8
def Ev.INGOT_HALT : Nat := 0x1C9
def Ev.SLOT_GAP : Nat := 0x1CA
def Ev.REASM_TIMEOUT : Nat := 0x1CB
def Ev.SECTAG_BAD : Nat := 0x1CC
def Ev.INGOT_HDR_BAD : Nat := 0x1CD
def Ev.KS_MISS : Nat := 0x1CE
def Ev.PAN_ERR : Nat := 0x1D0
def Ev.PAN_RETIRED : Nat := 0x1D1
def Ev.PAN_NO_SPARE : Nat := 0x1D2
def Ev.PAN_NO_OPENER : Nat := 0x1D3
def Ev.PAN_REPLAY_FAIL : Nat := 0x1D4
def Ev.LA_IV_SOON : Nat := 0x1D5
def Ev.CHILD_REVOKED : Nat := 0x1E0
def Ev.COUNTER_END : Nat := 0x1E1
def Ev.STORE_EXPORTED : Nat := 0x1E2
def Ev.STORE_CONFIRMED : Nat := 0x1E3
def Ev.STORE_LOADED : Nat := 0x1E4
def Ev.STORE_REJECTED : Nat := 0x1E5
def Ev.SEAL_ROTATED : Nat := 0x1E6
def Ev.OWNER_CHANGED : Nat := 0x1E7
def Ev.OTP_SLOT_SPOILED : Nat := 0x1E8
def Ev.USE_EXHAUSTED : Nat := 0x1E9
def Ev.VAULT_ECC : Nat := 0x1EA
def Ev.UNWRAP_FAIL : Nat := 0x1EB
def Ev.EPHEMERAL_CLEARED : Nat := 0x1EC
def Ev.SA_SWITCHED : Nat := 0x1F0
def Ev.SA_RETIRED : Nat := 0x1F1
def Ev.REKEY_SOON : Nat := 0x1F2
def Ev.PN_EXHAUSTED : Nat := 0x1F3
def Ev.SA_STALE : Nat := 0x1F4
def Ev.SCHED_MISSED : Nat := 0x1F5
def Ev.RX_EARLY : Nat := 0x1F6
def Ev.PN_GUARD : Nat := 0x1F7
def Ev.QUEUE_LIMIT : Nat := 0x200
def Ev.BUF_FULL : Nat := 0x201
def Ev.GCL_SWAP : Nat := 0x202
def Ev.GCL_OVERSIZE : Nat := 0x203
def Ev.SMP_OVERRUN : Nat := 0x204
def Ev.FWD_TABLE_FULL : Nat := 0x210
def Ev.FWD_LRN_FULL : Nat := 0x211
def Ev.FWD_LIMIT : Nat := 0x212
def Ev.FWD_FLAPPING : Nat := 0x213
def Ev.FWD_STATIC_MOVE : Nat := 0x214
def Ev.FWD_PARITY : Nat := 0x215
def Ev.MEM_TAG_FAIL : Nat := 0x220
def Ev.MEM_NODE_FAIL : Nat := 0x221
def Ev.MEM_KID_FLUSHED : Nat := 0x222
def Ev.MEM_ACCESS_VIOL : Nat := 0x223
def Ev.LAD_EXC : Nat := 0x230
def Ev.KSQ_EXC : Nat := 0x231
def Ev.ORD_EXC : Nat := 0x232
def Ev.VIGIL_RUN : Nat := 0x233
def Ev.IMG_LOADED : Nat := 0x234
def Ev.IMG_REJECTED : Nat := 0x235
def Ev.IMG_ACTIVE : Nat := 0x236
def Ev.PROG_ECC : Nat := 0x237
def Ev.LAD_BRK : Nat := 0x238
def Ev.SMP_FULL : Nat := 0x239
def Ev.PAIR_UP : Nat := 0x240
def Ev.PAIR_DOWN : Nat := 0x241
def Ev.PAIR_MISMATCH : Nat := 0x242
def Ev.TAKEOVER : Nat := 0x243
def Ev.YIELD : Nat := 0x244
def Ev.DUAL_HOLD : Nat := 0x245
def Ev.PAIR_STALE : Nat := 0x246
def Ev.GRADE : Nat := 0x247
def Ev.PAIR_CFG_DIFF : Nat := 0x248
def Ev.STACK_LINK : Nat := 0x249
def Ev.STACK_MISMATCH : Nat := 0x24A
def Ev.MASTER_LOST : Nat := 0x24B
def Ev.MASTER_FOUND : Nat := 0x24C
def Ev.STACK_EVENT : Nat := 0x24D
def Ev.RUNNER_UNREACH : Nat := 0x24E
def Ev.PROMOTED : Nat := 0x24F
def Ev.LOG_CLEARED : Nat := 0x250
def Ev.DRAIN_GAP : Nat := 0x251
def Ev.CNT_LOST : Nat := 0x252
def Ev.LINK_UP : Nat := 0x260
def Ev.LINK_DOWN : Nat := 0x261
def Ev.LINK_DEGRADED : Nat := 0x262
def Ev.RING_ERR : Nat := 0x263
def Ev.DMA_ERR : Nat := 0x264
def Ev.IDE_FAIL : Nat := 0x265
def Ev.PORT_UP : Nat := 0x270
def Ev.PORT_DOWN : Nat := 0x271
def Ev.LANE_LOCK_LOST : Nat := 0x272
def Ev.LANE_PPM : Nat := 0x273
def Ev.FEC_BURST : Nat := 0x274

/-- R482, Table 19.2: the fixed severity of a code; NOTICE (2) for every code the table does not list. -/
def severity (code : Nat) : Nat :=
  if [0x017, 0x045].contains code then 7
  else if [0x021, 0x043, 0x049, 0x0C3, 0x245].contains code then 6
  else if [0x041, 0x042, 0x047, 0x1D3, 0x1E1, 0x1EA, 0x1F3, 0x1F5, 0x221, 0x243, 0x244, 0x24B, 0x250].contains code then 5
  else if [0x013, 0x016, 0x027, 0x048, 0x0E1, 0x1D4, 0x1E5, 0x220, 0x223, 0x242, 0x24A, 0x251, 0x252].contains code then 4
  else if [0x040, 0x050, 0x051, 0x054, 0x055, 0x0C1, 0x0E2, 0x0F2, 0x1C4, 0x1C8, 0x1D5, 0x1F2].contains code then 3
  else 2

/-- R483: the codes whose raising rule says they are subject to rate limiting. -/
def limitable (code : Nat) : Bool :=
  [0x040, 0x048, 0x059, 0x0E3, 0x1C0, 0x1C1, 0x1C2, 0x1C4, 0x1CC, 0x1E0, 0x1EB, 0x1F4, 0x1F6, 0x200, 0x201, 0x203, 0x204, 0x210, 0x211, 0x212, 0x214, 0x230, 0x24E, 0x252, 0x264, 0x272, 0x273].contains code

end Sys2Proof.Machine
end

