-- ==== Sys2Proof/Machine/SMap.lean ====
section
/-! DEFINITION. Sparse tables: a list of (key, value) pairs in one canonical form.

Every large table of the part (registers, memories, slots, counters) is held this way.  A key that is not listed
reads as its default, `d key`; keys rise strictly and no listed value equals its default, so equal tables are
equal lists. -/
namespace Sys2Proof.Machine

/-- A sparse table of values of type `α` keyed by a number. -/
abbrev SMap (α : Type) := List (Nat × α)

/-- The value at key `k`: the listed one, else the default. -/
def SMap.get {α : Type} (d : Nat → α) : SMap α → Nat → α
  | [], k => d k
  | (k', v) :: m, k => if k' = k then v else SMap.get d m k

/-- The table without key `k`. -/
def SMap.erase {α : Type} (k : Nat) : SMap α → SMap α
  | [] => []
  | (k', v) :: m => if k' = k then SMap.erase k m else (k', v) :: SMap.erase k m

/-- The table with `(k, v)` put before the first larger key. -/
def SMap.insert {α : Type} (k : Nat) (v : α) : SMap α → SMap α
  | [] => [(k, v)]
  | (k', v') :: m => if k < k' then (k, v) :: (k', v') :: m else (k', v') :: SMap.insert k v m

/-- The table with the value at `k` made `v`; a default value removes the entry. -/
def SMap.set {α : Type} [DecidableEq α] (d : Nat → α) (m : SMap α) (k : Nat) (v : α) : SMap α :=
  if v = d k then SMap.erase k m else SMap.insert k v (SMap.erase k m)

/-- Canonical form: keys rise strictly, no listed value is its key's default. -/
def SMap.wf {α : Type} [DecidableEq α] (d : Nat → α) : SMap α → Bool
  | [] => true
  | (k, v) :: m => decide (v ≠ d k) && (m.all fun p => decide (k < p.1)) && SMap.wf d m

/-- The listed keys, rising in a canonical table. -/
def SMap.keys {α : Type} (m : SMap α) : List Nat := m.map Prod.fst

end Sys2Proof.Machine
end

