-- ==== Sys2Proof/Machine/RegMap.lean ====
section
/-! DEFINITION. The register map: every register field table of chapters 05 to 21, as data.

A register is named by `RegId` and the indices of its arrays.  A row gives its offset in the normal window of BAR0
(R504, Table 20.3), its array dimensions as (count, stride), whether it is marked CFG (R510), and its fields:
low bit, width, access code (Table 00.4), reset value, reserved encodings (R10) and lock (R571).  A bit no field
names is reserved (R9). -/
namespace Sys2Proof.Machine

/-- Access codes of Table 00.4 that the field tables use (no field of the part is WOS). -/
inductive Acc | rw | ro | w1c | w1s | wo | rc | rwl
  deriving DecidableEq, Repr

/-- A field's value after a reset that clears it: a number, or a rule over the register's index. -/
inductive ResetVal
  | val (n : Nat)
  | ringKind | msixVec | laOwner | evLim | evBurst | evWin | evSev | panState | opener | maxLenReset
  deriving DecidableEq, Repr

/-- The encodings a field accepts; every other one is reserved (R10). -/
inductive Legal
  | any
  | range (lo hi : Nat)
  | resp | tempRange | freqHi | perfQ | perfL | gclEn | gclLen | destWord | ffe | fecOff | maxLen
  deriving DecidableEq, Repr

/-- What locks a field against a driver write (R571). -/
inductive Lock
  | open | provMaint | prov | maint | maintD1 | rawSrc | limitable | freqLocked | epochCfg | ringEn | laPair
  | dbg1 | dbg2 | standby | gclBank | anyEn | subEn | subEnL
  deriving DecidableEq, Repr

structure FieldRow where
  lo : Nat
  w : Nat
  acc : Acc
  reset : ResetVal
  legal : Legal
  lock : Lock
  deriving DecidableEq, Repr

structure RegRow where
  base : Nat
  dims : List (Nat × Nat)
  cfg : Bool
  fields : List FieldRow
  deriving DecidableEq, Repr

/-- A field as the block chapters name it: the bit address of its element 0 (byte offset × 32 + low bit), its
width, the strides of its indices in the same unit, and whether its register is marked CFG. -/
structure Fld where
  base : Nat
  w : Nat
  strides : List Nat
  cfg : Bool
  deriving DecidableEq, Repr

/-- The registers, by block. -/
inductive RegId
  | SYS_ID | SYS_STAT | SYS_CTL | SYS_BOOT_STAT | SYS_COMMIT | SYS_CFG_REF | SYS_CFG_CRC | SYS_CFG_CRC_PAIR | SYS_CFG_CHK | SYS_DRIFT_CNT | SYS_SMB_CNT | SYS_STRAP
  | MOD_STAT | MOD_DBG_CTL | MOD_DRAIN_CFG | MOD_AUTH_STAT | MOD_LAST | MOD_TRANS_CNT | MOD_REFUSE_CNT
  | HIF_LINK_STAT | HIF_IDE_STAT | HIF_IDE_CFG | HIF_DMA_ERR | HIF_DMA_ADDR_LO | HIF_DMA_ADDR_HI | HIF_LA_OWNER | HIF_RING_BASE_LO | HIF_RING_BASE_HI | HIF_RING_WB_LO | HIF_RING_WB_HI | HIF_RING_BUF_LO | HIF_RING_BUF_HI | HIF_RING_CFG | HIF_RING_DB | HIF_RING_PTR | HIF_RING_STAT | HIF_MSIX_MAP | HIF_MSIX_MOD
  | EVR_STAT | EVR_WR | EVR_NEXT_SEQ_LO | EVR_NEXT_SEQ_HI | EVR_OLDEST | EVR_OLDEST_SEQ_LO | EVR_OLDEST_SEQ_HI | EVR_DRAIN_CFG | EVR_DRAIN_SEQ_LO | EVR_DRAIN_SEQ_HI | EVR_PAGE | EVR_LOST_CNT | EVR_SUPP_CNT | EVR_CODE_CFG
  | FLT_STAT | FLT_CFG | FLT_LAST | FLT_CLASS_STAT | FLT_CLASS_CNT
  | TMP_STICKY | TMP_CAUSE | TMP_RESP0 | TMP_RESP1 | TMP_TEMP_CFG | TMP_TEMP | TMP_VBAT | TMP_VIGIL | TMP_NOTE
  | CRF_STAT | CRF_IN_CFG | CRF_IN_STAT | CRF_TOUCH_CFG | CRF_PIN_STAT | CRF_LED_CTL | CRF_FILL_CFG | CRF_FILL_STAT | CRF_FILL_CNT
  | TIM_STAT | TIM_CTL | TIM_REF_CFG | TIM_FREQ_LO | TIM_FREQ_HI | TIM_SLEW_CFG | TIM_ADJ_LO | TIM_ADJ_HI | TIM_SET_SEC_LO | TIM_SET_SEC_HI | TIM_SET_NS | TIM_SET_FRAC | TIM_CAP_SEC_LO | TIM_CAP_SEC_HI | TIM_CAP_NS | TIM_CAP_FRAC | TIM_EPOCH_CFG | TIM_EPOCH_ORG_LO | TIM_EPOCH_ORG_HI | TIM_EPOCH_LO | TIM_EPOCH_HI | TIM_ELAPSED_LO | TIM_ELAPSED_HI | TIM_PPS_CFG | TIM_PPS_CAP_SEC_LO | TIM_PPS_CAP_SEC_HI | TIM_PPS_CAP_NS | TIM_PPS_CAP_FRAC | TIM_LANE_ADJ | TIM_LANE_STAT | TIM_IGT_DIFF_LO | TIM_IGT_DIFF_HI
  | ENT_STAT | ENT_SRC_STAT | ENT_RESEED_CNT | ENT_CALLS | ENT_WAIT | ENT_CTL | ENT_RAW_CTL | ENT_RAW_DATA | ENT_PARAM
  | VLT_STAT | VLT_STORE_VER | VLT_OWNER | VLT_SLOTS | VLT_WALK | VLT_ECC_CNT | VLT_DEVID_LO | VLT_DEVID_HI
  | ORD_STAT | ORD_BLK_CNT | ORD_EXC_CNT | ORD_ECC_CNT | ORD_IMG
  | KSQ_STAT | KSQ_RUN_CNT | KSQ_EXC_CNT | KSQ_ECC_CNT | KSQ_IMG
  | LAD_Q_STAT | LAD_Q_CFG | LAD_IMG | LAD_IMG_INFO | LAD_EXC_CNT | LAD_ECC_CNT | LAD_SMP_CFG | LAD_SMP_PTR | LAD_QCNT_CHAIN | LAD_QCNT_OVF | LAD_QCNT_SEL | LAD_QCNT | LAD_DBG_CTL | LAD_DBG_BP | LAD_DBG_PC | LAD_DBG_REG_SEL | LAD_DBG_REG_LO | LAD_DBG_REG_HI | LAD_STAT | LAD_CNT_SEL | LAD_EXC_PC | LAD_CNT_LO | LAD_CNT_HI | LAD_SMP_LO | LAD_SMP_HI
  | PAN_STAT | PAN_CTL | PAN_ERR_CNT | PAN_REPLAY_CNT | PAN_Q_STAT | PAN_LA_CFG
  | SAX_REKEY_CFG | SAX_GUARD_CFG | SAX_STAT | SAX_SCHED_PEND | SAX_STALE_CNT | SAX_QUIET_REJ_CNT | SAX_SA_SEL | SAX_SA_INFO | SAX_SA_KEY | SAX_SA_PN_LO | SAX_SA_PN_HI | SAX_SA_LOW_LO | SAX_SA_LOW_HI | SAX_SA_CH
  | SLU_STAT | SLU_BUF_STAT | SLU_SMP_CFG | SLU_SMP_LEN | SLU_SMP_DROP_CNT | SLU_IND_SEL | SLU_IND_CMD | SLU_IND_DATA | SLU_PORT_CFG | SLU_GCL_CFG | SLU_GCL_CYCLE | SLU_GCL_BASE_NS | SLU_GCL_BASE_SEC_LO | SLU_GCL_BASE_SEC_HI | SLU_GCL_STAT | SLU_CLS_CFG | SLU_GCL_ENT_LO | SLU_GCL_ENT_HI | SLU_SMP_LIST
  | FWD_STAT | FWD_CFG | FWD_AGE_CFG | FWD_COUNT | FWD_LRN_STAT | FWD_LRN_DROP_CNT | FWD_PARITY_CNT | FWD_MOVE_CNT | FWD_IND_SEL | FWD_IND_CMD | FWD_IND_DATA | FWD_DOM_FLOOD | FWD_PORT_CFG | FWD_PORT_CNT
  | MEM_STAT | MEM_FRAME_KID | MEM_KSTAT_LO | MEM_KSTAT_HI | MEM_PC_RET_LO | MEM_PC_RET_HI | MEM_PMAP | MEM_ECC_CNT | MEM_TAG_FAIL_CNT | MEM_NODE_FAIL_CNT | MEM_OVF_CNT | MEM_VIOL_CNT | MEM_VIOL_ADDR_LO | MEM_VIOL_ADDR_HI | MEM_KSTAT_2 | MEM_KSTAT_3 | MEM_FUNC_KID
  | PRS_STAT | PRS_PAIR_CFG | PRS_CTL | PRS_CLAIM | PRS_HEALTH | PRS_COPY_CYCLE | PRS_COPY_CNT | PRS_MISS_CNT | PRS_TAKEOVER_CNT | PRS_REVERT | PRS_STACK_CFG | PRS_STACK_STAT | PRS_STRAP | PRS_LINK_AUTH_CNT | PRS_MEMBER
  | CNT_STAT | CNT_SEL | CNT_DATA_LO | CNT_DATA_HI | CNT_ECC_CNT | CNT_LOST_IDX
  | SRD_LANE_CTL | SRD_LANE_STAT | SRD_TX_FFE | SRD_PRBS_CFG | SRD_PRBS_ERR | SRD_SYM_ERR | LNK_LINK_CFG | LNK_LINK_STAT | LNK_FEC_CORR | LNK_FEC_UNCORR
  | PRT_LINK_CFG | PRT_LINK_STAT | PRT_SUB_CFG | PRT_CT_LEAD | PRT_MAC_LO | PRT_MAC_HI | PRT_FEC_CORR | PRT_FEC_UNCORR
  | PRT_FRM_CFG | PRT_INGOT_RATE | PRT_INGOT_LEAD | PRT_REASM_CFG | PRT_INGOT_DA_LO | PRT_INGOT_DA_HI | PRT_RX_SCI_LO | PRT_RX_SCI_HI | PRT_FRM_STAT | PRT_TAG_MAP
  deriving DecidableEq, Repr

/-! Every register, block by block, in the order of the blocks. -/
def RegId.allSYS : List RegId := [.SYS_ID, .SYS_STAT, .SYS_CTL, .SYS_BOOT_STAT, .SYS_COMMIT, .SYS_CFG_REF, .SYS_CFG_CRC, .SYS_CFG_CRC_PAIR, .SYS_CFG_CHK, .SYS_DRIFT_CNT, .SYS_SMB_CNT, .SYS_STRAP]
def RegId.allMOD : List RegId := [.MOD_STAT, .MOD_DBG_CTL, .MOD_DRAIN_CFG, .MOD_AUTH_STAT, .MOD_LAST, .MOD_TRANS_CNT, .MOD_REFUSE_CNT]
def RegId.allHIF : List RegId := [.HIF_LINK_STAT, .HIF_IDE_STAT, .HIF_IDE_CFG, .HIF_DMA_ERR, .HIF_DMA_ADDR_LO, .HIF_DMA_ADDR_HI, .HIF_LA_OWNER, .HIF_RING_BASE_LO, .HIF_RING_BASE_HI, .HIF_RING_WB_LO, .HIF_RING_WB_HI, .HIF_RING_BUF_LO, .HIF_RING_BUF_HI, .HIF_RING_CFG, .HIF_RING_DB, .HIF_RING_PTR, .HIF_RING_STAT, .HIF_MSIX_MAP, .HIF_MSIX_MOD]
def RegId.allEVR : List RegId := [.EVR_STAT, .EVR_WR, .EVR_NEXT_SEQ_LO, .EVR_NEXT_SEQ_HI, .EVR_OLDEST, .EVR_OLDEST_SEQ_LO, .EVR_OLDEST_SEQ_HI, .EVR_DRAIN_CFG, .EVR_DRAIN_SEQ_LO, .EVR_DRAIN_SEQ_HI, .EVR_PAGE, .EVR_LOST_CNT, .EVR_SUPP_CNT, .EVR_CODE_CFG]
def RegId.allFLT : List RegId := [.FLT_STAT, .FLT_CFG, .FLT_LAST, .FLT_CLASS_STAT, .FLT_CLASS_CNT]
def RegId.allTMP : List RegId := [.TMP_STICKY, .TMP_CAUSE, .TMP_RESP0, .TMP_RESP1, .TMP_TEMP_CFG, .TMP_TEMP, .TMP_VBAT, .TMP_VIGIL, .TMP_NOTE]
def RegId.allCRF : List RegId := [.CRF_STAT, .CRF_IN_CFG, .CRF_IN_STAT, .CRF_TOUCH_CFG, .CRF_PIN_STAT, .CRF_LED_CTL, .CRF_FILL_CFG, .CRF_FILL_STAT, .CRF_FILL_CNT]
def RegId.allTIM : List RegId := [.TIM_STAT, .TIM_CTL, .TIM_REF_CFG, .TIM_FREQ_LO, .TIM_FREQ_HI, .TIM_SLEW_CFG, .TIM_ADJ_LO, .TIM_ADJ_HI, .TIM_SET_SEC_LO, .TIM_SET_SEC_HI, .TIM_SET_NS, .TIM_SET_FRAC, .TIM_CAP_SEC_LO, .TIM_CAP_SEC_HI, .TIM_CAP_NS, .TIM_CAP_FRAC, .TIM_EPOCH_CFG, .TIM_EPOCH_ORG_LO, .TIM_EPOCH_ORG_HI, .TIM_EPOCH_LO, .TIM_EPOCH_HI, .TIM_ELAPSED_LO, .TIM_ELAPSED_HI, .TIM_PPS_CFG, .TIM_PPS_CAP_SEC_LO, .TIM_PPS_CAP_SEC_HI, .TIM_PPS_CAP_NS, .TIM_PPS_CAP_FRAC, .TIM_LANE_ADJ, .TIM_LANE_STAT, .TIM_IGT_DIFF_LO, .TIM_IGT_DIFF_HI]
def RegId.allENT : List RegId := [.ENT_STAT, .ENT_SRC_STAT, .ENT_RESEED_CNT, .ENT_CALLS, .ENT_WAIT, .ENT_CTL, .ENT_RAW_CTL, .ENT_RAW_DATA, .ENT_PARAM]
def RegId.allVLT : List RegId := [.VLT_STAT, .VLT_STORE_VER, .VLT_OWNER, .VLT_SLOTS, .VLT_WALK, .VLT_ECC_CNT, .VLT_DEVID_LO, .VLT_DEVID_HI]
def RegId.allORD : List RegId := [.ORD_STAT, .ORD_BLK_CNT, .ORD_EXC_CNT, .ORD_ECC_CNT, .ORD_IMG]
def RegId.allKSQ : List RegId := [.KSQ_STAT, .KSQ_RUN_CNT, .KSQ_EXC_CNT, .KSQ_ECC_CNT, .KSQ_IMG]
def RegId.allLAD : List RegId := [.LAD_Q_STAT, .LAD_Q_CFG, .LAD_IMG, .LAD_IMG_INFO, .LAD_EXC_CNT, .LAD_ECC_CNT, .LAD_SMP_CFG, .LAD_SMP_PTR, .LAD_QCNT_CHAIN, .LAD_QCNT_OVF, .LAD_QCNT_SEL, .LAD_QCNT, .LAD_DBG_CTL, .LAD_DBG_BP, .LAD_DBG_PC, .LAD_DBG_REG_SEL, .LAD_DBG_REG_LO, .LAD_DBG_REG_HI, .LAD_STAT, .LAD_CNT_SEL, .LAD_EXC_PC, .LAD_CNT_LO, .LAD_CNT_HI, .LAD_SMP_LO, .LAD_SMP_HI]
def RegId.allPAN : List RegId := [.PAN_STAT, .PAN_CTL, .PAN_ERR_CNT, .PAN_REPLAY_CNT, .PAN_Q_STAT, .PAN_LA_CFG]
def RegId.allSAX : List RegId := [.SAX_REKEY_CFG, .SAX_GUARD_CFG, .SAX_STAT, .SAX_SCHED_PEND, .SAX_STALE_CNT, .SAX_QUIET_REJ_CNT, .SAX_SA_SEL, .SAX_SA_INFO, .SAX_SA_KEY, .SAX_SA_PN_LO, .SAX_SA_PN_HI, .SAX_SA_LOW_LO, .SAX_SA_LOW_HI, .SAX_SA_CH]
def RegId.allSLU : List RegId := [.SLU_STAT, .SLU_BUF_STAT, .SLU_SMP_CFG, .SLU_SMP_LEN, .SLU_SMP_DROP_CNT, .SLU_IND_SEL, .SLU_IND_CMD, .SLU_IND_DATA, .SLU_PORT_CFG, .SLU_GCL_CFG, .SLU_GCL_CYCLE, .SLU_GCL_BASE_NS, .SLU_GCL_BASE_SEC_LO, .SLU_GCL_BASE_SEC_HI, .SLU_GCL_STAT, .SLU_CLS_CFG, .SLU_GCL_ENT_LO, .SLU_GCL_ENT_HI, .SLU_SMP_LIST]
def RegId.allFWD : List RegId := [.FWD_STAT, .FWD_CFG, .FWD_AGE_CFG, .FWD_COUNT, .FWD_LRN_STAT, .FWD_LRN_DROP_CNT, .FWD_PARITY_CNT, .FWD_MOVE_CNT, .FWD_IND_SEL, .FWD_IND_CMD, .FWD_IND_DATA, .FWD_DOM_FLOOD, .FWD_PORT_CFG, .FWD_PORT_CNT]
def RegId.allMEM : List RegId := [.MEM_STAT, .MEM_FRAME_KID, .MEM_KSTAT_LO, .MEM_KSTAT_HI, .MEM_PC_RET_LO, .MEM_PC_RET_HI, .MEM_PMAP, .MEM_ECC_CNT, .MEM_TAG_FAIL_CNT, .MEM_NODE_FAIL_CNT, .MEM_OVF_CNT, .MEM_VIOL_CNT, .MEM_VIOL_ADDR_LO, .MEM_VIOL_ADDR_HI, .MEM_KSTAT_2, .MEM_KSTAT_3, .MEM_FUNC_KID]
def RegId.allPRS : List RegId := [.PRS_STAT, .PRS_PAIR_CFG, .PRS_CTL, .PRS_CLAIM, .PRS_HEALTH, .PRS_COPY_CYCLE, .PRS_COPY_CNT, .PRS_MISS_CNT, .PRS_TAKEOVER_CNT, .PRS_REVERT, .PRS_STACK_CFG, .PRS_STACK_STAT, .PRS_STRAP, .PRS_LINK_AUTH_CNT, .PRS_MEMBER]
def RegId.allCNT : List RegId := [.CNT_STAT, .CNT_SEL, .CNT_DATA_LO, .CNT_DATA_HI, .CNT_ECC_CNT, .CNT_LOST_IDX]
def RegId.allSRD : List RegId := [.SRD_LANE_CTL, .SRD_LANE_STAT, .SRD_TX_FFE, .SRD_PRBS_CFG, .SRD_PRBS_ERR, .SRD_SYM_ERR, .LNK_LINK_CFG, .LNK_LINK_STAT, .LNK_FEC_CORR, .LNK_FEC_UNCORR]
def RegId.allPRT : List RegId := [.PRT_LINK_CFG, .PRT_LINK_STAT, .PRT_SUB_CFG, .PRT_CT_LEAD, .PRT_MAC_LO, .PRT_MAC_HI, .PRT_FEC_CORR, .PRT_FEC_UNCORR]
def RegId.allPRTL : List RegId := [.PRT_FRM_CFG, .PRT_INGOT_RATE, .PRT_INGOT_LEAD, .PRT_REASM_CFG, .PRT_INGOT_DA_LO, .PRT_INGOT_DA_HI, .PRT_RX_SCI_LO, .PRT_RX_SCI_HI, .PRT_FRM_STAT, .PRT_TAG_MAP]

/-- Every register, in the order of the blocks. -/
def RegId.all : List RegId := List.flatten [RegId.allSYS, RegId.allMOD, RegId.allHIF, RegId.allEVR, RegId.allFLT, RegId.allTMP, RegId.allCRF, RegId.allTIM, RegId.allENT, RegId.allVLT, RegId.allORD, RegId.allKSQ, RegId.allLAD, RegId.allPAN, RegId.allSAX, RegId.allSLU, RegId.allFWD, RegId.allMEM, RegId.allPRS, RegId.allCNT, RegId.allSRD, RegId.allPRT, RegId.allPRTL]

/-- The field tables. -/
def RegId.row : RegId → RegRow
  | .SYS_ID => ⟨0x000000, [], false,
    [ ⟨0, 16, .ro, .val 0x3208, .any, .open⟩
    , ⟨16, 8, .ro, .val 0xB0, .any, .open⟩
    , ⟨24, 1, .ro, .val 0x0, .any, .open⟩ ]⟩
  | .SYS_STAT => ⟨0x000004, [], false,
    [ ⟨0, 1, .ro, .val 0x0, .any, .open⟩
    , ⟨1, 1, .w1c, .val 0x0, .any, .open⟩
    , ⟨2, 1, .w1c, .val 0x0, .any, .open⟩ ]⟩
  | .SYS_CTL => ⟨0x000008, [], false,
    [ ⟨0, 16, .wo, .val 0x0, .any, .open⟩ ]⟩
  | .SYS_BOOT_STAT => ⟨0x00000C, [], false,
    [ ⟨0, 7, .ro, .val 0x0, .any, .open⟩
    , ⟨8, 3, .ro, .val 0x0, .any, .open⟩
    , ⟨12, 4, .ro, .val 0x0, .any, .open⟩
    , ⟨16, 2, .ro, .val 0x0, .any, .open⟩
    , ⟨18, 1, .ro, .val 0x0, .any, .open⟩
    , ⟨20, 4, .ro, .val 0x0, .any, .open⟩ ]⟩
  | .SYS_COMMIT => ⟨0x000010, [], false,
    [ ⟨0, 1, .w1s, .val 0x0, .any, .open⟩
    , ⟨1, 1, .ro, .val 0x0, .any, .open⟩ ]⟩
  | .SYS_CFG_REF => ⟨0x000014, [], false,
    [ ⟨0, 32, .rw, .val 0x0, .any, .open⟩ ]⟩
  | .SYS_CFG_CRC => ⟨0x000018, [], false,
    [ ⟨0, 32, .ro, .val 0x0, .any, .open⟩ ]⟩
  | .SYS_CFG_CRC_PAIR => ⟨0x00001C, [], false,
    [ ⟨0, 32, .ro, .val 0x0, .any, .open⟩ ]⟩
  | .SYS_CFG_CHK => ⟨0x000020, [], true,
    [ ⟨0, 1, .rwl, .val 0x0, .any, .provMaint⟩ ]⟩
  | .SYS_DRIFT_CNT => ⟨0x000024, [], false,
    [ ⟨0, 32, .rw, .val 0x0, .any, .open⟩ ]⟩
  | .SYS_SMB_CNT => ⟨0x000028, [], false,
    [ ⟨0, 16, .rw, .val 0x0, .any, .open⟩
    , ⟨16, 16, .rw, .val 0x0, .any, .open⟩ ]⟩
  | .SYS_STRAP => ⟨0x00002C, [], false,
    [ ⟨0, 2, .ro, .val 0x0, .any, .open⟩ ]⟩
  | .MOD_STAT => ⟨0x010000, [], false,
    [ ⟨0, 4, .ro, .val 0x2, .any, .open⟩
    , ⟨4, 2, .ro, .val 0x0, .any, .open⟩
    , ⟨6, 2, .ro, .val 0x0, .any, .open⟩
    , ⟨8, 1, .ro, .val 0x0, .any, .open⟩
    , ⟨9, 1, .ro, .val 0x0, .any, .open⟩
    , ⟨10, 1, .ro, .val 0x0, .any, .open⟩
    , ⟨11, 1, .ro, .val 0x0, .any, .open⟩
    , ⟨12, 1, .ro, .val 0x0, .any, .open⟩
    , ⟨13, 4, .ro, .val 0x0, .any, .open⟩ ]⟩
  | .MOD_DBG_CTL => ⟨0x010004, [], false,
    [ ⟨0, 2, .rw, .val 0x0, .any, .open⟩
    , ⟨2, 1, .w1s, .val 0x0, .any, .open⟩
    , ⟨3, 1, .w1c, .val 0x0, .any, .open⟩ ]⟩
  | .MOD_DRAIN_CFG => ⟨0x010008, [], true,
    [ ⟨0, 10, .rw, .val 0xA, .range 1 1000, .open⟩ ]⟩
  | .MOD_AUTH_STAT => ⟨0x01000C, [], false,
    [ ⟨0, 6, .ro, .val 0x0, .any, .open⟩
    , ⟨6, 7, .ro, .val 0x0, .any, .open⟩
    , ⟨13, 4, .ro, .val 0x0, .any, .open⟩
    , ⟨17, 1, .ro, .val 0x0, .any, .open⟩ ]⟩
  | .MOD_LAST => ⟨0x010010, [], false,
    [ ⟨0, 4, .ro, .val 0x0, .any, .open⟩
    , ⟨4, 4, .ro, .val 0x0, .any, .open⟩
    , ⟨8, 3, .ro, .val 0x0, .any, .open⟩ ]⟩
  | .MOD_TRANS_CNT => ⟨0x010014, [], false,
    [ ⟨0, 32, .rw, .val 0x0, .any, .open⟩ ]⟩
  | .MOD_REFUSE_CNT => ⟨0x010018, [], false,
    [ ⟨0, 32, .rw, .val 0x0, .any, .open⟩ ]⟩
  | .HIF_LINK_STAT => ⟨0x020000, [], false,
    [ ⟨0, 3, .ro, .val 0x0, .any, .open⟩
    , ⟨3, 5, .ro, .val 0x0, .any, .open⟩
    , ⟨8, 1, .ro, .val 0x0, .any, .open⟩
    , ⟨9, 1, .ro, .val 0x0, .any, .open⟩
    , ⟨10, 1, .w1c, .val 0x0, .any, .open⟩ ]⟩
  | .HIF_IDE_STAT => ⟨0x020004, [], false,
    [ ⟨0, 2, .ro, .val 0x0, .any, .open⟩
    , ⟨2, 1, .w1c, .val 0x0, .any, .open⟩ ]⟩
  | .HIF_IDE_CFG => ⟨0x020008, [], true,
    [ ⟨0, 1, .rwl, .val 0x0, .any, .provMaint⟩ ]⟩
  | .HIF_DMA_ERR => ⟨0x02000C, [], false,
    [ ⟨0, 16, .rw, .val 0x0, .any, .open⟩
    , ⟨16, 16, .rw, .val 0x0, .any, .open⟩ ]⟩
  | .HIF_DMA_ADDR_LO => ⟨0x020010, [], false,
    [ ⟨0, 32, .ro, .val 0x0, .any, .open⟩ ]⟩
  | .HIF_DMA_ADDR_HI => ⟨0x020014, [], false,
    [ ⟨0, 32, .ro, .val 0x0, .any, .open⟩ ]⟩
  | .HIF_LA_OWNER => ⟨0x020200, [(96, 0x4)], false,
    [ ⟨0, 7, .rw, .laOwner, .range 0 65, .laPair⟩ ]⟩
  | .HIF_RING_BASE_LO => ⟨0x024000, [(256, 0x40)], false,
    [ ⟨12, 20, .rwl, .val 0x0, .any, .ringEn⟩ ]⟩
  | .HIF_RING_BASE_HI => ⟨0x024004, [(256, 0x40)], false,
    [ ⟨0, 32, .rwl, .val 0x0, .any, .ringEn⟩ ]⟩
  | .HIF_RING_WB_LO => ⟨0x024008, [(256, 0x40)], false,
    [ ⟨3, 29, .rwl, .val 0x0, .any, .ringEn⟩ ]⟩
  | .HIF_RING_WB_HI => ⟨0x02400C, [(256, 0x40)], false,
    [ ⟨0, 32, .rwl, .val 0x0, .any, .ringEn⟩ ]⟩
  | .HIF_RING_BUF_LO => ⟨0x024010, [(256, 0x40)], false,
    [ ⟨8, 24, .rwl, .val 0x0, .any, .ringEn⟩ ]⟩
  | .HIF_RING_BUF_HI => ⟨0x024014, [(256, 0x40)], false,
    [ ⟨0, 32, .rwl, .val 0x0, .any, .ringEn⟩ ]⟩
  | .HIF_RING_CFG => ⟨0x024018, [(256, 0x40)], false,
    [ ⟨0, 1, .rw, .val 0x0, .any, .open⟩
    , ⟨1, 5, .rwl, .val 0x4, .range 4 16, .ringEn⟩
    , ⟨6, 4, .ro, .ringKind, .any, .open⟩
    , ⟨10, 7, .rwl, .val 0x40, .range 1 64, .ringEn⟩ ]⟩
  | .HIF_RING_DB => ⟨0x02401C, [(256, 0x40)], false,
    [ ⟨0, 32, .wo, .val 0x0, .any, .open⟩ ]⟩
  | .HIF_RING_PTR => ⟨0x024020, [(256, 0x40)], false,
    [ ⟨0, 32, .ro, .val 0x0, .any, .open⟩ ]⟩
  | .HIF_RING_STAT => ⟨0x024024, [(256, 0x40)], false,
    [ ⟨0, 1, .w1c, .val 0x0, .any, .open⟩
    , ⟨1, 2, .ro, .val 0x0, .any, .open⟩
    , ⟨3, 1, .ro, .val 0x0, .any, .open⟩ ]⟩
  | .HIF_MSIX_MAP => ⟨0x028000, [(2048, 0x4)], false,
    [ ⟨0, 11, .rw, .msixVec, .any, .open⟩
    , ⟨11, 1, .rw, .val 0x1, .any, .open⟩ ]⟩
  | .HIF_MSIX_MOD => ⟨0x02A000, [(2048, 0x4)], false,
    [ ⟨0, 10, .rw, .val 0x0, .range 0 1000, .open⟩ ]⟩
  | .EVR_STAT => ⟨0x030000, [], false,
    [ ⟨0, 1, .w1c, .val 0x0, .any, .open⟩
    , ⟨1, 1, .w1c, .val 0x0, .any, .open⟩
    , ⟨2, 1, .ro, .val 0x0, .any, .open⟩
    , ⟨3, 1, .ro, .val 0x0, .any, .open⟩ ]⟩
  | .EVR_WR => ⟨0x030004, [], false,
    [ ⟨0, 17, .ro, .val 0x0, .any, .open⟩ ]⟩
  | .EVR_NEXT_SEQ_LO => ⟨0x030008, [], false,
    [ ⟨0, 32, .ro, .val 0x0, .any, .open⟩ ]⟩
  | .EVR_NEXT_SEQ_HI => ⟨0x03000C, [], false,
    [ ⟨0, 8, .ro, .val 0x0, .any, .open⟩ ]⟩
  | .EVR_OLDEST => ⟨0x030010, [], false,
    [ ⟨0, 17, .ro, .val 0x0, .any, .open⟩ ]⟩
  | .EVR_OLDEST_SEQ_LO => ⟨0x030014, [], false,
    [ ⟨0, 32, .ro, .val 0x0, .any, .open⟩ ]⟩
  | .EVR_OLDEST_SEQ_HI => ⟨0x030018, [], false,
    [ ⟨0, 8, .ro, .val 0x0, .any, .open⟩ ]⟩
  | .EVR_DRAIN_CFG => ⟨0x03001C, [], true,
    [ ⟨0, 1, .rw, .val 0x0, .any, .open⟩
    , ⟨1, 3, .rw, .val 0x0, .any, .open⟩ ]⟩
  | .EVR_DRAIN_SEQ_LO => ⟨0x030020, [], false,
    [ ⟨0, 32, .ro, .val 0x0, .any, .open⟩ ]⟩
  | .EVR_DRAIN_SEQ_HI => ⟨0x030024, [], false,
    [ ⟨0, 8, .ro, .val 0x0, .any, .open⟩ ]⟩
  | .EVR_PAGE => ⟨0x030028, [], false,
    [ ⟨0, 5, .rw, .val 0x0, .any, .open⟩ ]⟩
  | .EVR_LOST_CNT => ⟨0x03002C, [], false,
    [ ⟨0, 32, .rw, .val 0x0, .any, .open⟩ ]⟩
  | .EVR_SUPP_CNT => ⟨0x030030, [], false,
    [ ⟨0, 32, .rw, .val 0x0, .any, .open⟩ ]⟩
  | .EVR_CODE_CFG => ⟨0x034000, [(4096, 0x4)], true,
    [ ⟨0, 1, .ro, .evLim, .any, .open⟩
    , ⟨1, 8, .rw, .evBurst, .range 1 255, .limitable⟩
    , ⟨9, 4, .rw, .evWin, .range 0 13, .limitable⟩
    , ⟨13, 3, .ro, .evSev, .any, .open⟩
    , ⟨16, 16, .rw, .val 0x0, .any, .open⟩ ]⟩
  | .FLT_STAT => ⟨0x040000, [], false,
    [ ⟨0, 1, .w1c, .val 0x0, .any, .open⟩
    , ⟨1, 1, .w1c, .val 0x0, .any, .open⟩
    , ⟨2, 1, .w1c, .val 0x0, .any, .open⟩ ]⟩
  | .FLT_CFG => ⟨0x040004, [], true,
    [ ⟨0, 8, .rwl, .val 0x10, .range 1 255, .provMaint⟩
    , ⟨8, 8, .rwl, .val 0x4, .range 1 255, .provMaint⟩
    , ⟨16, 1, .rwl, .val 0x0, .any, .provMaint⟩ ]⟩
  | .FLT_LAST => ⟨0x040008, [], false,
    [ ⟨0, 3, .ro, .val 0x0, .any, .open⟩
    , ⟨3, 11, .ro, .val 0x0, .any, .open⟩ ]⟩
  | .FLT_CLASS_STAT => ⟨0x040010, [(10, 0x8)], false,
    [ ⟨0, 1, .ro, .val 0x0, .any, .open⟩
    , ⟨1, 3, .ro, .val 0x0, .any, .open⟩
    , ⟨8, 8, .ro, .val 0x0, .any, .open⟩
    , ⟨16, 1, .w1c, .val 0x0, .any, .open⟩ ]⟩
  | .FLT_CLASS_CNT => ⟨0x040014, [(10, 0x8)], false,
    [ ⟨0, 32, .rw, .val 0x0, .any, .open⟩ ]⟩
  | .TMP_STICKY => ⟨0x050000, [], false,
    [ ⟨0, 32, .ro, .val 0x0, .any, .open⟩ ]⟩
  | .TMP_CAUSE => ⟨0x050004, [], false,
    [ ⟨0, 14, .ro, .val 0x0, .any, .open⟩ ]⟩
  | .TMP_RESP0 => ⟨0x050008, [], true,
    [ ⟨0, 4, .rwl, .val 0x4, .resp, .provMaint⟩
    , ⟨4, 4, .rwl, .val 0x3, .resp, .provMaint⟩
    , ⟨8, 4, .rwl, .val 0x3, .resp, .provMaint⟩
    , ⟨12, 4, .rwl, .val 0x3, .resp, .provMaint⟩
    , ⟨16, 4, .rwl, .val 0x3, .resp, .provMaint⟩
    , ⟨20, 4, .rwl, .val 0x3, .resp, .provMaint⟩
    , ⟨24, 4, .rwl, .val 0x0, .resp, .provMaint⟩
    , ⟨28, 4, .rwl, .val 0x3, .resp, .provMaint⟩ ]⟩
  | .TMP_RESP1 => ⟨0x05000C, [], true,
    [ ⟨0, 4, .rwl, .val 0x3, .resp, .provMaint⟩
    , ⟨4, 4, .rwl, .val 0x0, .resp, .provMaint⟩
    , ⟨8, 4, .rwl, .val 0x0, .resp, .provMaint⟩
    , ⟨12, 4, .rwl, .val 0x3, .resp, .provMaint⟩
    , ⟨16, 4, .rwl, .val 0x0, .resp, .provMaint⟩
    , ⟨20, 4, .rwl, .val 0x3, .resp, .provMaint⟩ ]⟩
  | .TMP_TEMP_CFG => ⟨0x050010, [], true,
    [ ⟨0, 8, .rwl, .val 0xEC, .tempRange, .provMaint⟩
    , ⟨8, 8, .rwl, .val 0x73, .tempRange, .provMaint⟩ ]⟩
  | .TMP_TEMP => ⟨0x050014, [], false,
    [ ⟨0, 8, .ro, .val 0x0, .any, .open⟩
    , ⟨8, 8, .ro, .val 0x7F, .any, .open⟩
    , ⟨16, 8, .ro, .val 0x80, .any, .open⟩ ]⟩
  | .TMP_VBAT => ⟨0x050018, [], false,
    [ ⟨0, 13, .ro, .val 0x0, .any, .open⟩ ]⟩
  | .TMP_VIGIL => ⟨0x05001C, [], false,
    [ ⟨0, 1, .ro, .val 0x0, .any, .open⟩
    , ⟨1, 1, .ro, .val 0x0, .any, .open⟩
    , ⟨2, 1, .ro, .val 0x0, .any, .open⟩
    , ⟨16, 16, .ro, .val 0x0, .any, .open⟩ ]⟩
  | .TMP_NOTE => ⟨0x050800, [(512, 0x4)], false,
    [ ⟨0, 32, .ro, .val 0x0, .any, .open⟩ ]⟩
  | .CRF_STAT => ⟨0x060000, [], false,
    [ ⟨0, 7, .ro, .val 0x0, .any, .open⟩
    , ⟨7, 1, .ro, .val 0x0, .any, .open⟩
    , ⟨8, 1, .ro, .val 0x0, .any, .open⟩ ]⟩
  | .CRF_IN_CFG => ⟨0x060004, [], true,
    [ ⟨0, 12, .rwl, .val 0x78, .range 10 3600, .provMaint⟩ ]⟩
  | .CRF_IN_STAT => ⟨0x060008, [], false,
    [ ⟨0, 7, .ro, .val 0x0, .any, .open⟩
    , ⟨8, 7, .ro, .val 0x0, .any, .open⟩
    , ⟨16, 7, .w1c, .val 0x0, .any, .open⟩
    , ⟨24, 7, .w1c, .val 0x0, .any, .open⟩ ]⟩
  | .CRF_TOUCH_CFG => ⟨0x06000C, [], true,
    [ ⟨0, 8, .rwl, .val 0x18, .range 4 255, .provMaint⟩ ]⟩
  | .CRF_PIN_STAT => ⟨0x060010, [], false,
    [ ⟨0, 3, .ro, .val 0x0, .any, .open⟩
    , ⟨3, 10, .ro, .val 0x0, .any, .open⟩
    , ⟨13, 4, .ro, .val 0x0, .any, .open⟩ ]⟩
  | .CRF_LED_CTL => ⟨0x060014, [], false,
    [ ⟨0, 1, .rw, .val 0x0, .any, .open⟩
    , ⟨2, 1, .rw, .val 0x0, .any, .open⟩
    , ⟨3, 1, .rw, .val 0x0, .any, .open⟩
    , ⟨8, 2, .rw, .val 0x0, .any, .open⟩
    , ⟨12, 2, .rw, .val 0x0, .any, .open⟩
    , ⟨14, 2, .rw, .val 0x0, .any, .open⟩ ]⟩
  | .CRF_FILL_CFG => ⟨0x060018, [], true,
    [ ⟨0, 10, .rwl, .val 0x12C, .range 10 900, .provMaint⟩
    , ⟨10, 1, .rwl, .val 0x1, .any, .provMaint⟩ ]⟩
  | .CRF_FILL_STAT => ⟨0x06001C, [], false,
    [ ⟨0, 3, .ro, .val 0x0, .any, .open⟩
    , ⟨3, 1, .ro, .val 0x0, .any, .open⟩
    , ⟨4, 1, .ro, .val 0x0, .any, .open⟩
    , ⟨5, 10, .ro, .val 0x0, .any, .open⟩ ]⟩
  | .CRF_FILL_CNT => ⟨0x060020, [], false,
    [ ⟨0, 16, .rw, .val 0x0, .any, .open⟩
    , ⟨16, 8, .rw, .val 0x0, .any, .open⟩
    , ⟨24, 8, .rw, .val 0x0, .any, .open⟩ ]⟩
  | .TIM_STAT => ⟨0x070000, [], false,
    [ ⟨0, 2, .ro, .val 0x0, .any, .open⟩
    , ⟨2, 1, .ro, .val 0x0, .any, .open⟩
    , ⟨3, 1, .ro, .val 0x0, .any, .open⟩
    , ⟨4, 1, .ro, .val 0x0, .any, .open⟩
    , ⟨5, 1, .ro, .val 0x0, .any, .open⟩
    , ⟨6, 1, .w1c, .val 0x0, .any, .open⟩
    , ⟨7, 1, .w1c, .val 0x0, .any, .open⟩
    , ⟨8, 1, .w1c, .val 0x0, .any, .open⟩ ]⟩
  | .TIM_CTL => ⟨0x070004, [], false,
    [ ⟨0, 1, .w1s, .val 0x0, .any, .open⟩
    , ⟨1, 1, .w1s, .val 0x0, .any, .provMaint⟩
    , ⟨2, 1, .rw, .val 0x0, .any, .open⟩
    , ⟨3, 1, .w1s, .val 0x0, .any, .open⟩ ]⟩
  | .TIM_REF_CFG => ⟨0x070008, [], true,
    [ ⟨0, 2, .rw, .val 0x0, .range 0 2, .open⟩
    , ⟨2, 1, .rw, .val 0x0, .any, .open⟩
    , ⟨3, 1, .rw, .val 0x0, .any, .open⟩ ]⟩
  | .TIM_FREQ_LO => ⟨0x07000C, [], false,
    [ ⟨0, 32, .rw, .val 0x0, .any, .freqLocked⟩ ]⟩
  | .TIM_FREQ_HI => ⟨0x070010, [], false,
    [ ⟨0, 8, .rw, .val 0x0, .freqHi, .freqLocked⟩ ]⟩
  | .TIM_SLEW_CFG => ⟨0x070014, [], true,
    [ ⟨0, 17, .rw, .val 0x3E8, .range 1 100000, .open⟩ ]⟩
  | .TIM_ADJ_LO => ⟨0x070018, [], false,
    [ ⟨0, 32, .wo, .val 0x0, .any, .open⟩ ]⟩
  | .TIM_ADJ_HI => ⟨0x07001C, [], false,
    [ ⟨0, 16, .wo, .val 0x0, .any, .open⟩ ]⟩
  | .TIM_SET_SEC_LO => ⟨0x070020, [], false,
    [ ⟨0, 32, .rw, .val 0x0, .any, .open⟩ ]⟩
  | .TIM_SET_SEC_HI => ⟨0x070024, [], false,
    [ ⟨0, 16, .rw, .val 0x0, .any, .open⟩ ]⟩
  | .TIM_SET_NS => ⟨0x070028, [], false,
    [ ⟨0, 30, .rw, .val 0x0, .range 0 999999999, .open⟩ ]⟩
  | .TIM_SET_FRAC => ⟨0x07002C, [], false,
    [ ⟨0, 16, .rw, .val 0x0, .any, .open⟩ ]⟩
  | .TIM_CAP_SEC_LO => ⟨0x070030, [], false,
    [ ⟨0, 32, .ro, .val 0x0, .any, .open⟩ ]⟩
  | .TIM_CAP_SEC_HI => ⟨0x070034, [], false,
    [ ⟨0, 16, .ro, .val 0x0, .any, .open⟩ ]⟩
  | .TIM_CAP_NS => ⟨0x070038, [], false,
    [ ⟨0, 30, .ro, .val 0x0, .any, .open⟩ ]⟩
  | .TIM_CAP_FRAC => ⟨0x07003C, [], false,
    [ ⟨0, 16, .ro, .val 0x0, .any, .open⟩ ]⟩
  | .TIM_EPOCH_CFG => ⟨0x070040, [], true,
    [ ⟨0, 20, .rw, .val 0x3E8, .range 10 1000000, .epochCfg⟩ ]⟩
  | .TIM_EPOCH_ORG_LO => ⟨0x070044, [], true,
    [ ⟨0, 32, .rw, .val 0x0, .any, .epochCfg⟩ ]⟩
  | .TIM_EPOCH_ORG_HI => ⟨0x070048, [], true,
    [ ⟨0, 16, .rw, .val 0x0, .any, .epochCfg⟩ ]⟩
  | .TIM_EPOCH_LO => ⟨0x07004C, [], false,
    [ ⟨0, 32, .ro, .val 0x0, .any, .open⟩ ]⟩
  | .TIM_EPOCH_HI => ⟨0x070050, [], false,
    [ ⟨0, 8, .ro, .val 0x0, .any, .open⟩ ]⟩
  | .TIM_ELAPSED_LO => ⟨0x070054, [], false,
    [ ⟨0, 32, .ro, .val 0x0, .any, .open⟩ ]⟩
  | .TIM_ELAPSED_HI => ⟨0x070058, [], false,
    [ ⟨0, 32, .ro, .val 0x0, .any, .open⟩ ]⟩
  | .TIM_PPS_CFG => ⟨0x07005C, [], true,
    [ ⟨0, 9, .rw, .val 0x64, .range 1 500, .open⟩
    , ⟨9, 1, .rw, .val 0x0, .any, .open⟩
    , ⟨10, 1, .rw, .val 0x0, .any, .open⟩ ]⟩
  | .TIM_PPS_CAP_SEC_LO => ⟨0x070060, [], false,
    [ ⟨0, 32, .ro, .val 0x0, .any, .open⟩ ]⟩
  | .TIM_PPS_CAP_SEC_HI => ⟨0x070064, [], false,
    [ ⟨0, 16, .ro, .val 0x0, .any, .open⟩ ]⟩
  | .TIM_PPS_CAP_NS => ⟨0x070068, [], false,
    [ ⟨0, 30, .ro, .val 0x0, .any, .open⟩ ]⟩
  | .TIM_PPS_CAP_FRAC => ⟨0x07006C, [], false,
    [ ⟨0, 16, .ro, .val 0x0, .any, .open⟩ ]⟩
  | .TIM_LANE_ADJ => ⟨0x071000, [(76, 0x8)], false,
    [ ⟨0, 16, .rw, .val 0x0, .any, .open⟩
    , ⟨16, 16, .rw, .val 0x0, .any, .open⟩ ]⟩
  | .TIM_LANE_STAT => ⟨0x071004, [(76, 0x8)], false,
    [ ⟨0, 1, .ro, .val 0x0, .any, .open⟩
    , ⟨1, 1, .w1c, .val 0x0, .any, .open⟩
    , ⟨8, 8, .ro, .val 0x0, .any, .open⟩ ]⟩
  | .TIM_IGT_DIFF_LO => ⟨0x072000, [(32, 0x8)], false,
    [ ⟨0, 32, .ro, .val 0x0, .any, .open⟩ ]⟩
  | .TIM_IGT_DIFF_HI => ⟨0x072004, [(32, 0x8)], false,
    [ ⟨0, 32, .ro, .val 0x0, .any, .open⟩ ]⟩
  | .ENT_STAT => ⟨0x080000, [], false,
    [ ⟨0, 1, .ro, .val 0x0, .any, .open⟩
    , ⟨1, 1, .ro, .val 0x0, .any, .open⟩
    , ⟨2, 1, .ro, .val 0x0, .any, .open⟩
    , ⟨3, 1, .w1c, .val 0x0, .any, .open⟩
    , ⟨4, 1, .w1c, .val 0x0, .any, .open⟩ ]⟩
  | .ENT_SRC_STAT => ⟨0x080004, [(2, 0x4)], false,
    [ ⟨0, 2, .ro, .val 0x0, .any, .open⟩
    , ⟨2, 4, .ro, .val 0x0, .any, .open⟩
    , ⟨6, 1, .w1c, .val 0x0, .any, .open⟩
    , ⟨7, 1, .w1c, .val 0x0, .any, .open⟩
    , ⟨16, 16, .rw, .val 0x0, .any, .open⟩ ]⟩
  | .ENT_RESEED_CNT => ⟨0x08000C, [], false,
    [ ⟨0, 32, .rw, .val 0x0, .any, .open⟩ ]⟩
  | .ENT_CALLS => ⟨0x080010, [], false,
    [ ⟨0, 21, .ro, .val 0x0, .any, .open⟩ ]⟩
  | .ENT_WAIT => ⟨0x080014, [], false,
    [ ⟨0, 8, .ro, .val 0x0, .any, .open⟩
    , ⟨8, 8, .ro, .val 0x0, .any, .open⟩
    , ⟨16, 8, .ro, .val 0x0, .any, .open⟩
    , ⟨24, 8, .ro, .val 0x0, .any, .open⟩ ]⟩
  | .ENT_CTL => ⟨0x080018, [], false,
    [ ⟨0, 1, .w1s, .val 0x0, .any, .maint⟩
    , ⟨1, 1, .w1s, .val 0x0, .any, .maint⟩ ]⟩
  | .ENT_RAW_CTL => ⟨0x08001C, [], false,
    [ ⟨0, 1, .rw, .val 0x0, .any, .maintD1⟩
    , ⟨1, 1, .rw, .val 0x0, .any, .rawSrc⟩
    , ⟨2, 1, .ro, .val 0x1, .any, .open⟩
    , ⟨3, 1, .w1c, .val 0x0, .any, .open⟩ ]⟩
  | .ENT_RAW_DATA => ⟨0x080020, [], false,
    [ ⟨0, 32, .rc, .val 0x0, .any, .open⟩ ]⟩
  | .ENT_PARAM => ⟨0x080024, [], false,
    [ ⟨0, 6, .ro, .val 0x29, .any, .open⟩
    , ⟨6, 10, .ro, .val 0x31B, .any, .open⟩
    , ⟨16, 11, .ro, .val 0x400, .any, .open⟩ ]⟩
  | .VLT_STAT => ⟨0x090000, [], false,
    [ ⟨0, 1, .ro, .val 0x0, .any, .open⟩
    , ⟨1, 1, .ro, .val 0x0, .any, .open⟩
    , ⟨2, 1, .ro, .val 0x0, .any, .open⟩
    , ⟨3, 1, .ro, .val 0x0, .any, .open⟩
    , ⟨4, 1, .ro, .val 0x0, .any, .open⟩
    , ⟨5, 1, .ro, .val 0x0, .any, .open⟩
    , ⟨6, 1, .ro, .val 0x0, .any, .open⟩
    , ⟨7, 1, .w1c, .val 0x0, .any, .open⟩
    , ⟨8, 1, .w1c, .val 0x0, .any, .open⟩ ]⟩
  | .VLT_STORE_VER => ⟨0x090004, [], false,
    [ ⟨0, 32, .ro, .val 0x0, .any, .open⟩ ]⟩
  | .VLT_OWNER => ⟨0x090008, [], false,
    [ ⟨0, 5, .ro, .val 0x0, .any, .open⟩
    , ⟨5, 5, .ro, .val 0x0, .any, .open⟩
    , ⟨10, 1, .ro, .val 0x0, .any, .open⟩ ]⟩
  | .VLT_SLOTS => ⟨0x09000C, [], false,
    [ ⟨0, 18, .ro, .val 0x0, .any, .open⟩ ]⟩
  | .VLT_WALK => ⟨0x090010, [], false,
    [ ⟨0, 4, .ro, .val 0x0, .any, .open⟩
    , ⟨4, 18, .ro, .val 0x0, .any, .open⟩ ]⟩
  | .VLT_ECC_CNT => ⟨0x090014, [], false,
    [ ⟨0, 32, .rw, .val 0x0, .any, .open⟩ ]⟩
  | .VLT_DEVID_LO => ⟨0x090018, [], false,
    [ ⟨0, 32, .ro, .val 0x0, .any, .open⟩ ]⟩
  | .VLT_DEVID_HI => ⟨0x09001C, [], false,
    [ ⟨0, 32, .ro, .val 0x0, .any, .open⟩ ]⟩
  | .ORD_STAT => ⟨0x0A0000, [], false,
    [ ⟨0, 1, .ro, .val 0x0, .any, .open⟩
    , ⟨1, 1, .ro, .val 0x0, .any, .open⟩
    , ⟨2, 8, .ro, .val 0x0, .any, .open⟩
    , ⟨10, 1, .ro, .val 0x0, .any, .open⟩
    , ⟨11, 1, .w1c, .val 0x0, .any, .open⟩ ]⟩
  | .ORD_BLK_CNT => ⟨0x0A0004, [], false,
    [ ⟨0, 32, .rw, .val 0x0, .any, .open⟩ ]⟩
  | .ORD_EXC_CNT => ⟨0x0A0008, [], false,
    [ ⟨0, 32, .rw, .val 0x0, .any, .open⟩ ]⟩
  | .ORD_ECC_CNT => ⟨0x0A000C, [], false,
    [ ⟨0, 32, .rw, .val 0x0, .any, .open⟩ ]⟩
  | .ORD_IMG => ⟨0x0A0010, [], false,
    [ ⟨0, 32, .ro, .val 0x0, .any, .open⟩ ]⟩
  | .KSQ_STAT => ⟨0x0B0000, [], false,
    [ ⟨0, 1, .ro, .val 0x0, .any, .open⟩
    , ⟨1, 1, .ro, .val 0x0, .any, .open⟩
    , ⟨2, 1, .w1c, .val 0x0, .any, .open⟩
    , ⟨3, 4, .ro, .val 0x0, .any, .open⟩ ]⟩
  | .KSQ_RUN_CNT => ⟨0x0B0004, [], false,
    [ ⟨0, 32, .rw, .val 0x0, .any, .open⟩ ]⟩
  | .KSQ_EXC_CNT => ⟨0x0B0008, [], false,
    [ ⟨0, 32, .rw, .val 0x0, .any, .open⟩ ]⟩
  | .KSQ_ECC_CNT => ⟨0x0B000C, [], false,
    [ ⟨0, 32, .rw, .val 0x0, .any, .open⟩ ]⟩
  | .KSQ_IMG => ⟨0x0B0010, [(4, 0x4)], false,
    [ ⟨0, 32, .ro, .val 0x0, .any, .open⟩ ]⟩
  | .LAD_Q_STAT => ⟨0x100000, [(4, 0x10000)], false,
    [ ⟨0, 1, .ro, .val 0x0, .any, .open⟩
    , ⟨1, 1, .ro, .val 0x0, .any, .open⟩
    , ⟨2, 1, .ro, .val 0x0, .any, .open⟩
    , ⟨3, 1, .ro, .val 0x0, .any, .open⟩
    , ⟨4, 1, .ro, .val 0x0, .any, .open⟩
    , ⟨8, 7, .ro, .val 0x40, .any, .open⟩ ]⟩
  | .LAD_Q_CFG => ⟨0x100004, [(4, 0x10000)], true,
    [ ⟨0, 1, .rw, .val 0x0, .any, .dbg1⟩ ]⟩
  | .LAD_IMG => ⟨0x100008, [(4, 0x10000)], false,
    [ ⟨0, 32, .ro, .val 0x0, .any, .open⟩ ]⟩
  | .LAD_IMG_INFO => ⟨0x10000C, [(4, 0x10000)], false,
    [ ⟨0, 13, .ro, .val 0x0, .any, .open⟩ ]⟩
  | .LAD_EXC_CNT => ⟨0x100010, [(4, 0x10000)], false,
    [ ⟨0, 32, .rw, .val 0x0, .any, .open⟩ ]⟩
  | .LAD_ECC_CNT => ⟨0x100014, [(4, 0x10000)], false,
    [ ⟨0, 32, .rw, .val 0x0, .any, .open⟩ ]⟩
  | .LAD_SMP_CFG => ⟨0x100018, [(4, 0x10000)], false,
    [ ⟨0, 1, .rw, .val 0x0, .any, .dbg1⟩
    , ⟨1, 1, .rw, .val 0x0, .any, .dbg1⟩
    , ⟨2, 17, .rw, .val 0x1000, .range 16 65536, .dbg1⟩
    , ⟨19, 1, .w1c, .val 0x0, .any, .open⟩ ]⟩
  | .LAD_SMP_PTR => ⟨0x10001C, [(4, 0x10000)], false,
    [ ⟨0, 12, .ro, .val 0x0, .any, .open⟩
    , ⟨12, 1, .ro, .val 0x0, .any, .open⟩ ]⟩
  | .LAD_QCNT_CHAIN => ⟨0x100020, [(4, 0x10000)], false,
    [ ⟨0, 8, .rw, .val 0x0, .any, .dbg1⟩ ]⟩
  | .LAD_QCNT_OVF => ⟨0x100024, [(4, 0x10000)], false,
    [ ⟨0, 16, .w1c, .val 0x0, .any, .open⟩ ]⟩
  | .LAD_QCNT_SEL => ⟨0x100100, [(4, 0x10000), (16, 0x8)], false,
    [ ⟨0, 8, .rw, .val 0x0, .perfQ, .dbg1⟩ ]⟩
  | .LAD_QCNT => ⟨0x100104, [(4, 0x10000), (16, 0x8)], false,
    [ ⟨0, 32, .rw, .val 0x0, .any, .dbg1⟩ ]⟩
  | .LAD_DBG_CTL => ⟨0x100200, [(4, 0x10000)], false,
    [ ⟨0, 6, .rw, .val 0x0, .any, .dbg2⟩
    , ⟨6, 2, .rw, .val 0x0, .any, .dbg2⟩
    , ⟨8, 1, .w1s, .val 0x0, .any, .dbg2⟩
    , ⟨9, 1, .w1s, .val 0x0, .any, .dbg2⟩
    , ⟨10, 1, .w1s, .val 0x0, .any, .dbg2⟩
    , ⟨11, 1, .ro, .val 0x0, .any, .open⟩
    , ⟨12, 1, .rw, .val 0x0, .any, .dbg2⟩ ]⟩
  | .LAD_DBG_BP => ⟨0x100204, [(4, 0x10000)], false,
    [ ⟨2, 17, .rw, .val 0x0, .any, .dbg2⟩ ]⟩
  | .LAD_DBG_PC => ⟨0x100208, [(4, 0x10000)], false,
    [ ⟨0, 19, .ro, .val 0x0, .any, .open⟩ ]⟩
  | .LAD_DBG_REG_SEL => ⟨0x10020C, [(4, 0x10000)], false,
    [ ⟨0, 5, .rw, .val 0x0, .any, .dbg2⟩ ]⟩
  | .LAD_DBG_REG_LO => ⟨0x100210, [(4, 0x10000)], false,
    [ ⟨0, 32, .ro, .val 0x0, .any, .open⟩ ]⟩
  | .LAD_DBG_REG_HI => ⟨0x100214, [(4, 0x10000)], false,
    [ ⟨0, 32, .ro, .val 0x0, .any, .open⟩ ]⟩
  | .LAD_STAT => ⟨0x101000, [(4, 0x10000), (64, 0x40)], false,
    [ ⟨0, 1, .ro, .val 0x1, .any, .open⟩
    , ⟨1, 4, .ro, .val 0x0, .any, .open⟩
    , ⟨8, 4, .w1c, .val 0x0, .any, .open⟩
    , ⟨12, 4, .ro, .val 0x0, .any, .open⟩
    , ⟨16, 2, .ro, .val 0x0, .any, .open⟩ ]⟩
  | .LAD_CNT_SEL => ⟨0x101004, [(4, 0x10000), (64, 0x40)], false,
    [ ⟨0, 8, .rw, .val 0x0, .perfL, .dbg1⟩
    , ⟨8, 8, .rw, .val 0x0, .perfL, .dbg1⟩
    , ⟨16, 8, .rw, .val 0x0, .perfL, .dbg1⟩
    , ⟨24, 8, .rw, .val 0x0, .perfL, .dbg1⟩ ]⟩
  | .LAD_EXC_PC => ⟨0x101008, [(4, 0x10000), (64, 0x40)], false,
    [ ⟨0, 19, .ro, .val 0x0, .any, .open⟩ ]⟩
  | .LAD_CNT_LO => ⟨0x101010, [(4, 0x10000), (64, 0x40), (4, 0x8)], false,
    [ ⟨0, 32, .rw, .val 0x0, .any, .dbg1⟩ ]⟩
  | .LAD_CNT_HI => ⟨0x101014, [(4, 0x10000), (64, 0x40), (4, 0x8)], false,
    [ ⟨0, 16, .rw, .val 0x0, .any, .dbg1⟩ ]⟩
  | .LAD_SMP_LO => ⟨0x108000, [(4, 0x10000), (4096, 0x8)], false,
    [ ⟨0, 32, .ro, .val 0x0, .any, .open⟩ ]⟩
  | .LAD_SMP_HI => ⟨0x108004, [(4, 0x10000), (4096, 0x8)], false,
    [ ⟨0, 32, .ro, .val 0x0, .any, .open⟩ ]⟩
  | .PAN_STAT => ⟨0x180000, [(24, 0x20)], false,
    [ ⟨0, 3, .ro, .panState, .any, .open⟩
    , ⟨3, 2, .ro, .val 0x0, .any, .open⟩
    , ⟨5, 2, .ro, .val 0x0, .any, .open⟩
    , ⟨7, 1, .w1c, .val 0x0, .any, .open⟩
    , ⟨8, 1, .w1c, .val 0x0, .any, .open⟩ ]⟩
  | .PAN_CTL => ⟨0x180004, [(24, 0x20)], false,
    [ ⟨0, 1, .w1s, .val 0x0, .any, .open⟩
    , ⟨1, 1, .w1s, .val 0x0, .any, .provMaint⟩ ]⟩
  | .PAN_ERR_CNT => ⟨0x180008, [(24, 0x20)], false,
    [ ⟨0, 32, .rw, .val 0x0, .any, .open⟩ ]⟩
  | .PAN_REPLAY_CNT => ⟨0x18000C, [(24, 0x20)], false,
    [ ⟨0, 32, .rw, .val 0x0, .any, .open⟩ ]⟩
  | .PAN_Q_STAT => ⟨0x181000, [(4, 0x4)], false,
    [ ⟨0, 3, .ro, .val 0x5, .any, .open⟩
    , ⟨3, 3, .ro, .val 0x1, .any, .open⟩
    , ⟨6, 5, .ro, .opener, .any, .open⟩
    , ⟨11, 5, .ro, .opener, .any, .open⟩ ]⟩
  | .PAN_LA_CFG => ⟨0x181010, [], true,
    [ ⟨0, 7, .rw, .val 0x40, .range 1 64, .open⟩ ]⟩
  | .SAX_REKEY_CFG => ⟨0x200000, [], true,
    [ ⟨0, 20, .rw, .val 0x3E8, .range 1 1000000, .open⟩
    , ⟨20, 8, .rw, .val 0x2, .range 1 255, .open⟩ ]⟩
  | .SAX_GUARD_CFG => ⟨0x200004, [], true,
    [ ⟨0, 6, .rw, .val 0x14, .range 19 32, .open⟩ ]⟩
  | .SAX_STAT => ⟨0x200008, [], false,
    [ ⟨0, 1, .w1c, .val 0x0, .any, .open⟩
    , ⟨1, 1, .w1c, .val 0x0, .any, .open⟩
    , ⟨2, 1, .w1c, .val 0x0, .any, .open⟩
    , ⟨3, 1, .w1c, .val 0x0, .any, .open⟩ ]⟩
  | .SAX_SCHED_PEND => ⟨0x20000C, [], false,
    [ ⟨0, 16, .ro, .val 0x0, .any, .open⟩ ]⟩
  | .SAX_STALE_CNT => ⟨0x200010, [], false,
    [ ⟨0, 32, .rw, .val 0x0, .any, .open⟩ ]⟩
  | .SAX_QUIET_REJ_CNT => ⟨0x200014, [], false,
    [ ⟨0, 32, .rw, .val 0x0, .any, .open⟩ ]⟩
  | .SAX_SA_SEL => ⟨0x200020, [], false,
    [ ⟨0, 16, .wo, .val 0x0, .any, .open⟩ ]⟩
  | .SAX_SA_INFO => ⟨0x200024, [], false,
    [ ⟨0, 2, .ro, .val 0x0, .any, .open⟩
    , ⟨2, 1, .ro, .val 0x0, .any, .open⟩
    , ⟨3, 2, .ro, .val 0x0, .any, .open⟩
    , ⟨5, 2, .ro, .val 0x0, .any, .open⟩
    , ⟨7, 1, .ro, .val 0x0, .any, .open⟩
    , ⟨8, 1, .ro, .val 0x0, .any, .open⟩
    , ⟨9, 1, .ro, .val 0x0, .any, .open⟩
    , ⟨10, 1, .ro, .val 0x0, .any, .open⟩
    , ⟨11, 11, .ro, .val 0x0, .any, .open⟩
    , ⟨24, 8, .ro, .val 0x0, .any, .open⟩ ]⟩
  | .SAX_SA_KEY => ⟨0x200028, [], false,
    [ ⟨0, 32, .ro, .val 0x0, .any, .open⟩ ]⟩
  | .SAX_SA_PN_LO => ⟨0x20002C, [], false,
    [ ⟨0, 32, .ro, .val 0x0, .any, .open⟩ ]⟩
  | .SAX_SA_PN_HI => ⟨0x200030, [], false,
    [ ⟨0, 32, .ro, .val 0x0, .any, .open⟩ ]⟩
  | .SAX_SA_LOW_LO => ⟨0x200034, [], false,
    [ ⟨0, 32, .ro, .val 0x0, .any, .open⟩ ]⟩
  | .SAX_SA_LOW_HI => ⟨0x200038, [], false,
    [ ⟨0, 32, .ro, .val 0x0, .any, .open⟩ ]⟩
  | .SAX_SA_CH => ⟨0x20003C, [], false,
    [ ⟨0, 15, .ro, .val 0x0, .any, .open⟩ ]⟩
  | .SLU_STAT => ⟨0x300000, [], false,
    [ ⟨0, 1, .w1c, .val 0x0, .any, .open⟩
    , ⟨1, 1, .w1c, .val 0x0, .any, .open⟩
    , ⟨2, 1, .w1c, .val 0x0, .any, .open⟩
    , ⟨3, 1, .w1c, .val 0x0, .any, .open⟩ ]⟩
  | .SLU_BUF_STAT => ⟨0x300004, [], false,
    [ ⟨0, 16, .ro, .val 0x0, .any, .open⟩
    , ⟨16, 16, .ro, .val 0x0, .any, .open⟩ ]⟩
  | .SLU_SMP_CFG => ⟨0x300008, [], true,
    [ ⟨0, 1, .rw, .val 0x0, .any, .open⟩
    , ⟨1, 30, .rw, .val 0xF4240, .range 1000 1000000000, .open⟩ ]⟩
  | .SLU_SMP_LEN => ⟨0x30000C, [], true,
    [ ⟨0, 13, .rw, .val 0x1, .range 1 4096, .open⟩ ]⟩
  | .SLU_SMP_DROP_CNT => ⟨0x300010, [], false,
    [ ⟨0, 32, .rw, .val 0x0, .any, .open⟩ ]⟩
  | .SLU_IND_SEL => ⟨0x300020, [], false,
    [ ⟨0, 16, .rw, .val 0x0, .any, .open⟩
    , ⟨16, 3, .rw, .val 0x0, .range 0 4, .open⟩ ]⟩
  | .SLU_IND_CMD => ⟨0x300024, [], false,
    [ ⟨0, 1, .w1s, .val 0x0, .any, .open⟩
    , ⟨1, 1, .w1s, .val 0x0, .any, .open⟩
    , ⟨2, 1, .ro, .val 0x0, .any, .open⟩ ]⟩
  | .SLU_IND_DATA => ⟨0x300030, [(8, 0x4)], false,
    [ ⟨0, 32, .rw, .val 0x0, .any, .open⟩ ]⟩
  | .SLU_PORT_CFG => ⟨0x301000, [(66, 0x40)], true,
    [ ⟨0, 8, .rw, .val 0x0, .any, .open⟩ ]⟩
  | .SLU_GCL_CFG => ⟨0x301004, [(66, 0x40)], true,
    [ ⟨0, 1, .rw, .val 0x0, .gclEn, .open⟩
    , ⟨1, 1, .ro, .val 0x0, .any, .open⟩
    , ⟨2, 1, .w1s, .val 0x0, .any, .open⟩
    , ⟨3, 9, .rw, .val 0x1, .gclLen, .open⟩ ]⟩
  | .SLU_GCL_CYCLE => ⟨0x301008, [(66, 0x40)], true,
    [ ⟨0, 30, .rw, .val 0xF4240, .range 1000 1000000000, .open⟩ ]⟩
  | .SLU_GCL_BASE_NS => ⟨0x30100C, [(66, 0x40)], true,
    [ ⟨0, 30, .rw, .val 0x0, .any, .open⟩ ]⟩
  | .SLU_GCL_BASE_SEC_LO => ⟨0x301010, [(66, 0x40)], true,
    [ ⟨0, 32, .rw, .val 0x0, .any, .open⟩ ]⟩
  | .SLU_GCL_BASE_SEC_HI => ⟨0x301014, [(66, 0x40)], true,
    [ ⟨0, 16, .rw, .val 0x0, .any, .open⟩ ]⟩
  | .SLU_GCL_STAT => ⟨0x301018, [(66, 0x40)], false,
    [ ⟨0, 1, .ro, .val 0x0, .any, .open⟩
    , ⟨1, 1, .ro, .val 0x0, .any, .open⟩
    , ⟨16, 16, .rw, .val 0x0, .any, .open⟩ ]⟩
  | .SLU_CLS_CFG => ⟨0x301020, [(66, 0x40), (8, 0x4)], true,
    [ ⟨0, 16, .rw, .val 0x1, .range 1 65535, .open⟩ ]⟩
  | .SLU_GCL_ENT_LO => ⟨0x310000, [(16, 0x1000), (2, 0x800), (256, 0x8)], false,
    [ ⟨0, 30, .rw, .val 0x0, .range 1 1000000000, .gclBank⟩ ]⟩
  | .SLU_GCL_ENT_HI => ⟨0x310004, [(16, 0x1000), (2, 0x800), (256, 0x8)], false,
    [ ⟨0, 8, .rw, .val 0xFF, .any, .gclBank⟩ ]⟩
  | .SLU_SMP_LIST => ⟨0x320000, [(4096, 0x4)], false,
    [ ⟨0, 16, .rw, .val 0x0, .any, .open⟩ ]⟩
  | .FWD_STAT => ⟨0x400000, [], false,
    [ ⟨0, 1, .w1c, .val 0x0, .any, .open⟩
    , ⟨1, 1, .w1c, .val 0x0, .any, .open⟩
    , ⟨2, 1, .w1c, .val 0x0, .any, .open⟩
    , ⟨3, 1, .w1c, .val 0x0, .any, .open⟩
    , ⟨4, 1, .ro, .val 0x0, .any, .open⟩
    , ⟨5, 1, .ro, .val 0x0, .any, .open⟩ ]⟩
  | .FWD_CFG => ⟨0x400004, [], true,
    [ ⟨0, 1, .rw, .val 0x1, .any, .open⟩
    , ⟨1, 8, .rw, .val 0xA, .range 1 255, .open⟩
    , ⟨9, 12, .rw, .val 0xA, .range 1 3600, .open⟩ ]⟩
  | .FWD_AGE_CFG => ⟨0x400008, [], true,
    [ ⟨0, 12, .rw, .val 0x12C, .range 1 3600, .open⟩
    , ⟨12, 1, .rw, .val 0x1, .any, .open⟩ ]⟩
  | .FWD_COUNT => ⟨0x40000C, [], false,
    [ ⟨0, 19, .ro, .val 0x0, .any, .open⟩ ]⟩
  | .FWD_LRN_STAT => ⟨0x400010, [], false,
    [ ⟨0, 13, .ro, .val 0x0, .any, .open⟩
    , ⟨13, 1, .ro, .val 0x0, .any, .open⟩ ]⟩
  | .FWD_LRN_DROP_CNT => ⟨0x400014, [], false,
    [ ⟨0, 32, .rw, .val 0x0, .any, .open⟩ ]⟩
  | .FWD_PARITY_CNT => ⟨0x400018, [], false,
    [ ⟨0, 32, .rw, .val 0x0, .any, .open⟩ ]⟩
  | .FWD_MOVE_CNT => ⟨0x40001C, [], false,
    [ ⟨0, 16, .rw, .val 0x0, .any, .open⟩
    , ⟨16, 16, .rw, .val 0x0, .any, .open⟩ ]⟩
  | .FWD_IND_SEL => ⟨0x400020, [], false,
    [ ⟨0, 18, .rw, .val 0x0, .any, .open⟩
    , ⟨18, 1, .rw, .val 0x0, .any, .open⟩ ]⟩
  | .FWD_IND_CMD => ⟨0x400024, [], false,
    [ ⟨0, 1, .w1s, .val 0x0, .any, .open⟩
    , ⟨1, 1, .ro, .val 0x0, .any, .open⟩
    , ⟨2, 1, .ro, .val 0x0, .any, .open⟩ ]⟩
  | .FWD_IND_DATA => ⟨0x400030, [(8, 0x4)], false,
    [ ⟨0, 32, .rw, .val 0x0, .any, .open⟩ ]⟩
  | .FWD_DOM_FLOOD => ⟨0x400100, [(16, 0x4)], true,
    [ ⟨0, 32, .rw, .val 0x0, .destWord, .open⟩ ]⟩
  | .FWD_PORT_CFG => ⟨0x400200, [(64, 0x8)], true,
    [ ⟨0, 1, .rw, .val 0x0, .any, .open⟩
    , ⟨1, 1, .rw, .val 0x0, .any, .open⟩
    , ⟨2, 1, .rw, .val 0x0, .any, .open⟩
    , ⟨3, 4, .rw, .val 0x0, .any, .open⟩
    , ⟨7, 19, .rw, .val 0x0, .range 0 262144, .open⟩ ]⟩
  | .FWD_PORT_CNT => ⟨0x400204, [(64, 0x8)], false,
    [ ⟨0, 19, .ro, .val 0x0, .any, .open⟩ ]⟩
  | .MEM_STAT => ⟨0x500000, [], false,
    [ ⟨0, 1, .ro, .val 0x1, .any, .open⟩
    , ⟨1, 1, .w1c, .val 0x0, .any, .open⟩
    , ⟨2, 1, .w1c, .val 0x0, .any, .open⟩
    , ⟨3, 1, .w1c, .val 0x0, .any, .open⟩ ]⟩
  | .MEM_FRAME_KID => ⟨0x500004, [], true,
    [ ⟨0, 1, .rw, .val 0x0, .any, .open⟩ ]⟩
  | .MEM_KSTAT_LO => ⟨0x500008, [], false,
    [ ⟨0, 30, .ro, .val 0x0, .any, .open⟩ ]⟩
  | .MEM_KSTAT_HI => ⟨0x50000C, [], false,
    [ ⟨0, 30, .ro, .val 0x0, .any, .open⟩ ]⟩
  | .MEM_PC_RET_LO => ⟨0x500010, [], false,
    [ ⟨0, 32, .ro, .val 0x0, .any, .open⟩ ]⟩
  | .MEM_PC_RET_HI => ⟨0x500014, [], false,
    [ ⟨0, 32, .ro, .val 0x0, .any, .open⟩ ]⟩
  | .MEM_PMAP => ⟨0x500018, [], false,
    [ ⟨0, 13, .ro, .val 0x0, .any, .open⟩ ]⟩
  | .MEM_ECC_CNT => ⟨0x500020, [], false,
    [ ⟨0, 32, .rw, .val 0x0, .any, .open⟩ ]⟩
  | .MEM_TAG_FAIL_CNT => ⟨0x500024, [], false,
    [ ⟨0, 32, .rw, .val 0x0, .any, .open⟩ ]⟩
  | .MEM_NODE_FAIL_CNT => ⟨0x500028, [], false,
    [ ⟨0, 32, .rw, .val 0x0, .any, .open⟩ ]⟩
  | .MEM_OVF_CNT => ⟨0x50002C, [], false,
    [ ⟨0, 32, .rw, .val 0x0, .any, .open⟩ ]⟩
  | .MEM_VIOL_CNT => ⟨0x500030, [], false,
    [ ⟨0, 32, .rw, .val 0x0, .any, .open⟩ ]⟩
  | .MEM_VIOL_ADDR_LO => ⟨0x500034, [], false,
    [ ⟨0, 32, .ro, .val 0x0, .any, .open⟩ ]⟩
  | .MEM_VIOL_ADDR_HI => ⟨0x500038, [], false,
    [ ⟨0, 16, .ro, .val 0x0, .any, .open⟩ ]⟩
  | .MEM_KSTAT_2 => ⟨0x500040, [], false,
    [ ⟨0, 30, .ro, .val 0x0, .any, .open⟩ ]⟩
  | .MEM_KSTAT_3 => ⟨0x500044, [], false,
    [ ⟨0, 6, .ro, .val 0x0, .any, .open⟩ ]⟩
  | .MEM_FUNC_KID => ⟨0x500100, [(66, 0x4)], true,
    [ ⟨0, 5, .rw, .val 0x2, .range 2 29, .open⟩ ]⟩
  | .PRS_STAT => ⟨0x600000, [], false,
    [ ⟨0, 3, .ro, .val 0x0, .any, .open⟩
    , ⟨3, 1, .ro, .val 0x0, .any, .open⟩
    , ⟨4, 1, .ro, .val 0x0, .any, .open⟩
    , ⟨5, 1, .ro, .val 0x0, .any, .open⟩
    , ⟨6, 1, .w1c, .val 0x0, .any, .open⟩
    , ⟨7, 1, .ro, .val 0x0, .any, .open⟩
    , ⟨8, 1, .ro, .val 0x0, .any, .open⟩
    , ⟨9, 1, .ro, .val 0x0, .any, .open⟩ ]⟩
  | .PRS_PAIR_CFG => ⟨0x600004, [], true,
    [ ⟨0, 7, .rw, .val 0x14, .range 5 100, .open⟩
    , ⟨7, 4, .rw, .val 0x0, .any, .open⟩
    , ⟨11, 1, .rw, .val 0x1, .any, .open⟩
    , ⟨12, 10, .rw, .val 0xA, .range 0 600, .open⟩ ]⟩
  | .PRS_CTL => ⟨0x600008, [], false,
    [ ⟨0, 1, .rw, .val 0x0, .any, .open⟩
    , ⟨1, 1, .w1s, .val 0x0, .any, .standby⟩ ]⟩
  | .PRS_CLAIM => ⟨0x60000C, [], false,
    [ ⟨0, 8, .ro, .val 0x0, .any, .open⟩
    , ⟨8, 8, .ro, .val 0x0, .any, .open⟩
    , ⟨16, 8, .ro, .val 0x0, .any, .open⟩
    , ⟨24, 2, .ro, .val 0x0, .any, .open⟩ ]⟩
  | .PRS_HEALTH => ⟨0x600010, [], false,
    [ ⟨0, 12, .ro, .val 0x0, .any, .open⟩
    , ⟨12, 3, .ro, .val 0x0, .any, .open⟩ ]⟩
  | .PRS_COPY_CYCLE => ⟨0x600014, [], false,
    [ ⟨0, 32, .ro, .val 0x0, .any, .open⟩ ]⟩
  | .PRS_COPY_CNT => ⟨0x600018, [], false,
    [ ⟨0, 32, .rw, .val 0x0, .any, .open⟩ ]⟩
  | .PRS_MISS_CNT => ⟨0x60001C, [], false,
    [ ⟨0, 32, .rw, .val 0x0, .any, .open⟩ ]⟩
  | .PRS_TAKEOVER_CNT => ⟨0x600020, [], false,
    [ ⟨0, 32, .rw, .val 0x0, .any, .open⟩ ]⟩
  | .PRS_REVERT => ⟨0x600024, [], false,
    [ ⟨0, 10, .ro, .val 0x0, .any, .open⟩ ]⟩
  | .PRS_STACK_CFG => ⟨0x600028, [], true,
    [ ⟨0, 6, .rwl, .val 0x0, .any, .prov⟩
    , ⟨6, 12, .rwl, .val 0x0, .any, .prov⟩
    , ⟨18, 1, .rw, .val 0x0, .any, .open⟩
    , ⟨19, 3, .rw, .val 0x5, .any, .open⟩ ]⟩
  | .PRS_STACK_STAT => ⟨0x60002C, [], false,
    [ ⟨0, 3, .ro, .val 0x0, .any, .open⟩
    , ⟨3, 1, .ro, .val 0x0, .any, .open⟩
    , ⟨4, 8, .ro, .val 0x0, .any, .open⟩
    , ⟨12, 1, .ro, .val 0x0, .any, .open⟩
    , ⟨13, 1, .ro, .val 0x0, .any, .open⟩ ]⟩
  | .PRS_STRAP => ⟨0x600030, [], false,
    [ ⟨0, 3, .ro, .val 0x0, .any, .open⟩
    , ⟨3, 1, .ro, .val 0x0, .any, .open⟩ ]⟩
  | .PRS_LINK_AUTH_CNT => ⟨0x600034, [], false,
    [ ⟨0, 32, .rw, .val 0x0, .any, .open⟩ ]⟩
  | .PRS_MEMBER => ⟨0x600040, [(8, 0x4)], false,
    [ ⟨0, 4, .ro, .val 0x0, .any, .open⟩
    , ⟨4, 1, .ro, .val 0x0, .any, .open⟩
    , ⟨5, 8, .ro, .val 0x0, .any, .open⟩
    , ⟨13, 3, .ro, .val 0x0, .any, .open⟩
    , ⟨16, 3, .ro, .val 0x0, .any, .open⟩
    , ⟨19, 1, .ro, .val 0x0, .any, .open⟩ ]⟩
  | .CNT_STAT => ⟨0x700000, [], false,
    [ ⟨0, 1, .w1c, .val 0x0, .any, .open⟩
    , ⟨1, 1, .ro, .val 0x0, .any, .open⟩ ]⟩
  | .CNT_SEL => ⟨0x700004, [], false,
    [ ⟨0, 19, .rw, .val 0x0, .any, .open⟩
    , ⟨19, 1, .rw, .val 0x0, .any, .open⟩
    , ⟨20, 1, .rw, .val 0x0, .any, .open⟩
    , ⟨21, 1, .rw, .val 0x0, .any, .open⟩
    , ⟨22, 1, .ro, .val 0x0, .any, .open⟩ ]⟩
  | .CNT_DATA_LO => ⟨0x700008, [], false,
    [ ⟨0, 32, .rw, .val 0x0, .any, .open⟩ ]⟩
  | .CNT_DATA_HI => ⟨0x70000C, [], false,
    [ ⟨0, 32, .rw, .val 0x0, .any, .open⟩ ]⟩
  | .CNT_ECC_CNT => ⟨0x700010, [], false,
    [ ⟨0, 32, .rw, .val 0x0, .any, .open⟩ ]⟩
  | .CNT_LOST_IDX => ⟨0x700014, [], false,
    [ ⟨0, 19, .ro, .val 0x0, .any, .open⟩
    , ⟨19, 1, .ro, .val 0x0, .any, .open⟩ ]⟩
  | .SRD_LANE_CTL => ⟨0x800000, [(76, 0x1000)], false,
    [ ⟨0, 1, .rw, .val 0x0, .any, .maint⟩
    , ⟨1, 1, .rw, .val 0x0, .any, .maint⟩
    , ⟨2, 1, .rw, .val 0x0, .any, .open⟩
    , ⟨3, 1, .w1s, .val 0x0, .any, .open⟩
    , ⟨4, 2, .rw, .val 0x0, .range 0 2, .maint⟩ ]⟩
  | .SRD_LANE_STAT => ⟨0x800004, [(76, 0x1000)], false,
    [ ⟨0, 1, .ro, .val 0x0, .any, .open⟩
    , ⟨1, 1, .ro, .val 0x0, .any, .open⟩
    , ⟨2, 1, .ro, .val 0x0, .any, .open⟩
    , ⟨3, 1, .w1c, .val 0x0, .any, .open⟩
    , ⟨4, 1, .w1c, .val 0x0, .any, .open⟩
    , ⟨8, 8, .ro, .val 0x0, .any, .open⟩
    , ⟨16, 12, .ro, .val 0x0, .any, .open⟩ ]⟩
  | .SRD_TX_FFE => ⟨0x800008, [(76, 0x1000)], true,
    [ ⟨0, 30, .rw, .val 0x600000, .ffe, .open⟩ ]⟩
  | .SRD_PRBS_CFG => ⟨0x80000C, [(76, 0x1000)], false,
    [ ⟨0, 1, .rw, .val 0x0, .any, .maint⟩
    , ⟨1, 1, .rw, .val 0x0, .any, .maint⟩
    , ⟨2, 3, .rw, .val 0x0, .range 0 5, .maint⟩
    , ⟨5, 1, .w1s, .val 0x0, .any, .maint⟩
    , ⟨6, 1, .w1s, .val 0x0, .any, .maint⟩
    , ⟨7, 6, .rw, .val 0x1, .range 1 63, .maint⟩
    , ⟨13, 1, .ro, .val 0x0, .any, .open⟩ ]⟩
  | .SRD_PRBS_ERR => ⟨0x800010, [(76, 0x1000)], false,
    [ ⟨0, 32, .rw, .val 0x0, .any, .open⟩ ]⟩
  | .SRD_SYM_ERR => ⟨0x800014, [(76, 0x1000)], false,
    [ ⟨0, 32, .rw, .val 0x0, .any, .open⟩ ]⟩
  | .LNK_LINK_CFG => ⟨0x840800, [(3, 0x4000)], true,
    [ ⟨0, 4, .rw, .val 0x0, .any, .open⟩ ]⟩
  | .LNK_LINK_STAT => ⟨0x840804, [(3, 0x4000)], false,
    [ ⟨0, 4, .ro, .val 0x0, .any, .open⟩
    , ⟨4, 4, .ro, .val 0x0, .any, .open⟩
    , ⟨8, 4, .ro, .val 0x0, .any, .open⟩
    , ⟨12, 4, .w1c, .val 0x0, .any, .open⟩
    , ⟨16, 3, .ro, .val 0x0, .any, .open⟩ ]⟩
  | .LNK_FEC_CORR => ⟨0x840820, [(3, 0x4000)], false,
    [ ⟨0, 32, .rw, .val 0x0, .any, .open⟩ ]⟩
  | .LNK_FEC_UNCORR => ⟨0x840824, [(3, 0x4000)], false,
    [ ⟨0, 32, .rw, .val 0x0, .any, .open⟩ ]⟩
  | .PRT_LINK_CFG => ⟨0x900000, [(16, 0x20000)], true,
    [ ⟨0, 4, .rw, .val 0x0, .any, .open⟩
    , ⟨4, 3, .rwl, .val 0x0, .range 0 4, .anyEn⟩
    , ⟨7, 1, .rwl, .val 0x0, .fecOff, .anyEn⟩
    , ⟨8, 1, .rwl, .val 0x0, .any, .anyEn⟩ ]⟩
  | .PRT_LINK_STAT => ⟨0x900004, [(16, 0x20000)], false,
    [ ⟨0, 4, .ro, .val 0x0, .any, .open⟩
    , ⟨4, 4, .ro, .val 0x0, .any, .open⟩
    , ⟨8, 4, .ro, .val 0x0, .any, .open⟩
    , ⟨12, 4, .w1c, .val 0x0, .any, .open⟩
    , ⟨16, 3, .ro, .val 0x0, .any, .open⟩ ]⟩
  | .PRT_SUB_CFG => ⟨0x900010, [(16, 0x20000), (4, 0x20)], true,
    [ ⟨0, 14, .rwl, .maxLenReset, .maxLen, .subEn⟩
    , ⟨14, 2, .rwl, .val 0x1, .any, .subEn⟩
    , ⟨16, 6, .rwl, .val 0x8, .range 1 32, .subEn⟩ ]⟩
  | .PRT_CT_LEAD => ⟨0x900014, [(16, 0x20000), (4, 0x20)], true,
    [ ⟨0, 14, .rw, .val 0x600, .range 1536 16000, .open⟩ ]⟩
  | .PRT_MAC_LO => ⟨0x900018, [(16, 0x20000), (4, 0x20)], true,
    [ ⟨0, 32, .rwl, .val 0x0, .any, .subEn⟩ ]⟩
  | .PRT_MAC_HI => ⟨0x90001C, [(16, 0x20000), (4, 0x20)], true,
    [ ⟨0, 16, .rwl, .val 0x0, .any, .subEn⟩ ]⟩
  | .PRT_FEC_CORR => ⟨0x900020, [(16, 0x20000), (4, 0x20)], false,
    [ ⟨0, 32, .rw, .val 0x0, .any, .open⟩ ]⟩
  | .PRT_FEC_UNCORR => ⟨0x900024, [(16, 0x20000), (4, 0x20)], false,
    [ ⟨0, 32, .rw, .val 0x0, .any, .open⟩ ]⟩
  | .PRT_FRM_CFG => ⟨0xA01000, [(8, 0x20000), (4, 0x100)], true,
    [ ⟨0, 2, .rwl, .val 0x0, .range 0 1, .subEnL⟩
    , ⟨2, 2, .rwl, .val 0x0, .range 0 2, .subEnL⟩
    , ⟨4, 1, .rwl, .val 0x1, .any, .subEnL⟩
    , ⟨5, 2, .rwl, .val 0x1, .any, .subEnL⟩ ]⟩
  | .PRT_INGOT_RATE => ⟨0xA01004, [(8, 0x20000), (4, 0x100)], true,
    [ ⟨0, 17, .rw, .val 0x10000, .range 1024 65536, .open⟩ ]⟩
  | .PRT_INGOT_LEAD => ⟨0xA01008, [(8, 0x20000), (4, 0x100)], true,
    [ ⟨0, 6, .rw, .val 0xA, .range 4 32, .open⟩ ]⟩
  | .PRT_REASM_CFG => ⟨0xA0100C, [(8, 0x20000), (4, 0x100)], true,
    [ ⟨0, 10, .rw, .val 0x32, .range 1 1000, .open⟩ ]⟩
  | .PRT_INGOT_DA_LO => ⟨0xA01010, [(8, 0x20000), (4, 0x100)], true,
    [ ⟨0, 32, .rwl, .val 0x0, .any, .subEnL⟩ ]⟩
  | .PRT_INGOT_DA_HI => ⟨0xA01014, [(8, 0x20000), (4, 0x100)], true,
    [ ⟨0, 16, .rwl, .val 0x0, .any, .subEnL⟩ ]⟩
  | .PRT_RX_SCI_LO => ⟨0xA01018, [(8, 0x20000), (4, 0x100)], true,
    [ ⟨0, 32, .rw, .val 0x0, .any, .open⟩ ]⟩
  | .PRT_RX_SCI_HI => ⟨0xA0101C, [(8, 0x20000), (4, 0x100)], true,
    [ ⟨0, 32, .rw, .val 0x0, .any, .open⟩ ]⟩
  | .PRT_FRM_STAT => ⟨0xA01020, [(8, 0x20000), (4, 0x100)], false,
    [ ⟨0, 1, .ro, .val 0x0, .any, .open⟩
    , ⟨1, 1, .ro, .val 0x0, .any, .open⟩
    , ⟨8, 1, .w1c, .val 0x0, .any, .open⟩
    , ⟨9, 1, .w1c, .val 0x0, .any, .open⟩ ]⟩
  | .PRT_TAG_MAP => ⟨0xA10000, [(8, 0x20000), (4, 0x4000), (4096, 0x4)], true,
    [ ⟨0, 1, .rw, .val 0x0, .any, .open⟩
    , ⟨1, 1, .rw, .val 0x0, .any, .open⟩
    , ⟨2, 3, .rw, .val 0x0, .any, .open⟩
    , ⟨5, 2, .rw, .val 0x0, .any, .open⟩
    , ⟨8, 15, .rw, .val 0x0, .any, .open⟩ ]⟩

/-- Splits an offset inside a register array into indices. -/
def splitDims : Nat → List (Nat × Nat) → Option (List Nat)
  | off, [] => if off = 0 then some [] else none
  | off, (n, s) :: ds =>
    if off / s < n then (splitDims (off % s) ds).map (off / s :: ·) else none

/-- The offset of a register array's element. -/
def joinDims : List Nat → List (Nat × Nat) → Nat
  | i :: is, (_, s) :: ds => i * s + joinDims is ds
  | _, _ => 0

/-- The indices a row gives an offset of the normal window, if the offset is one of its registers. -/
def RegRow.index? (r : RegRow) (off : Nat) : Option (List Nat) :=
  if r.base ≤ off then splitDims (off - r.base) r.dims else none

/-- The offset of a register in the normal window. -/
def RegRow.offset (r : RegRow) (idx : List Nat) : Nat := r.base + joinDims idx r.dims

/-- The registers of the block whose part of the normal window an offset lies in (Table 20.3). -/
def blockRegs (off : Nat) : List RegId :=
  if off < 0x100000 then
    ([RegId.allSYS, RegId.allMOD, RegId.allHIF, RegId.allEVR, RegId.allFLT, RegId.allTMP, RegId.allCRF, RegId.allTIM,
      RegId.allENT, RegId.allVLT, RegId.allORD, RegId.allKSQ][off / 0x10000]?).getD []
  else if off < 0x180000 then RegId.allLAD
  else if off < 0x200000 then RegId.allPAN
  else if off < 0x300000 then RegId.allSAX
  else if off < 0x400000 then RegId.allSLU
  else if off < 0x500000 then RegId.allFWD
  else if off < 0x600000 then RegId.allMEM
  else if off < 0x700000 then RegId.allPRS
  else if off < 0x800000 then RegId.allCNT
  else if off < 0x900000 then RegId.allSRD
  else RegId.allPRT ++ RegId.allPRTL

/-- The register at an offset of the normal window, with its indices. -/
def lookupReg (off : Nat) : Option (RegId × List Nat) :=
  (blockRegs off).findSome? fun r => (r.row.index? off).map fun i => (r, i)

/-- Table 20.5: the kind of ring `r`. -/
def ringKind (r : Nat) : Nat :=
  if r < 4 then 0 else if r < 8 then 1 else if r < 24 then 2 else if r < 40 then 3 else if r < 56 then 4
  else if r = 56 then 5 else if r = 57 then 6 else if r < 64 then 15 else if r < 160 then 7 else 8

/-- A field's reset value, from its row's rule, the register's indices and the field's low bit. -/
def ResetVal.at (v : ResetVal) (idx : List Nat) (lo : Nat) : Nat :=
  let i := idx.headD 0
  match v with
  | .val n => n
  | .ringKind => Sys2Proof.Machine.ringKind i
  | .msixVec => i
  | .laOwner => if i < 32 then 1 else i - 30
  | .evLim => if limitable i then 1 else 0
  | .evBurst => if limitable i then 16 else 0
  | .evWin => if limitable i then 10 else 0
  | .evSev => severity i
  | .panState => if i % 6 = 5 then 1 else 0
  | .opener => 6 * i + (if lo = 6 then 0 else 1)
  | .maxLenReset => if i < 8 then 16000 else 16032

/-- The key a field of the register at `off` has in the register file. -/
def fieldKey (off lo : Nat) : Nat := off * 32 + lo

/-- The value a key of the register file has after a reset that clears its field. -/
def regReset (key : Nat) : Word :=
  match lookupReg (key / 32) with
  | none => 0
  | some (r, idx) =>
    match r.row.fields.find? (fun f => f.lo == key % 32) with
    | none => 0
    | some f => BitVec.ofNat 32 (f.reset.at idx f.lo)

/-- The sum of indices times strides. -/
def dotStrides : List Nat → List Nat → Nat
  | i :: is, s :: ss => i * s + dotStrides is ss
  | _, _ => 0

/-- The key of a named field at given indices. -/
def Fld.key (f : Fld) (idx : List Nat) : Nat := f.base + dotStrides idx f.strides

/-- The CFG registers with every index, as offsets. -/
def expandDims : List (Nat × Nat) → List Nat
  | [] => [0]
  | (n, s) :: ds => (List.range n).flatMap fun i => (expandDims ds).map (i * s + ·)

/-! The fields by name. -/
def F.SYS_ID_part : Fld := ⟨0x000000 * 32 + 0, 16, [], false⟩
def F.SYS_ID_rev : Fld := ⟨0x000000 * 32 + 16, 8, [], false⟩
def F.SYS_ID_grade : Fld := ⟨0x000000 * 32 + 24, 1, [], false⟩
def F.SYS_STAT_cfg_pending : Fld := ⟨0x000004 * 32 + 0, 1, [], false⟩
def F.SYS_STAT_drift : Fld := ⟨0x000004 * 32 + 1, 1, [], false⟩
def F.SYS_STAT_rejected : Fld := ⟨0x000004 * 32 + 2, 1, [], false⟩
def F.SYS_CTL_restart : Fld := ⟨0x000008 * 32 + 0, 16, [], false⟩
def F.SYS_BOOT_STAT_done : Fld := ⟨0x00000C * 32 + 0, 7, [], false⟩
def F.SYS_BOOT_STAT_fail : Fld := ⟨0x00000C * 32 + 8, 3, [], false⟩
def F.SYS_BOOT_STAT_cause : Fld := ⟨0x00000C * 32 + 12, 4, [], false⟩
def F.SYS_BOOT_STAT_retries : Fld := ⟨0x00000C * 32 + 16, 2, [], false⟩
def F.SYS_BOOT_STAT_presence : Fld := ⟨0x00000C * 32 + 18, 1, [], false⟩
def F.SYS_BOOT_STAT_host_cause : Fld := ⟨0x00000C * 32 + 20, 4, [], false⟩
def F.SYS_COMMIT_go : Fld := ⟨0x000010 * 32 + 0, 1, [], false⟩
def F.SYS_COMMIT_busy : Fld := ⟨0x000010 * 32 + 1, 1, [], false⟩
def F.SYS_CFG_REF_ref : Fld := ⟨0x000014 * 32 + 0, 32, [], false⟩
def F.SYS_CFG_CRC_crc : Fld := ⟨0x000018 * 32 + 0, 32, [], false⟩
def F.SYS_CFG_CRC_PAIR_crc : Fld := ⟨0x00001C * 32 + 0, 32, [], false⟩
def F.SYS_CFG_CHK_resp : Fld := ⟨0x000020 * 32 + 0, 1, [], true⟩
def F.SYS_DRIFT_CNT_count : Fld := ⟨0x000024 * 32 + 0, 32, [], false⟩
def F.SYS_SMB_CNT_cmds : Fld := ⟨0x000028 * 32 + 0, 16, [], false⟩
def F.SYS_SMB_CNT_pec : Fld := ⟨0x000028 * 32 + 16, 16, [], false⟩
def F.SYS_STRAP_smb_addr : Fld := ⟨0x00002C * 32 + 0, 2, [], false⟩
def F.MOD_STAT_mode : Fld := ⟨0x010000 * 32 + 0, 4, [], false⟩
def F.MOD_STAT_power : Fld := ⟨0x010000 * 32 + 4, 2, [], false⟩
def F.MOD_STAT_dbg : Fld := ⟨0x010000 * 32 + 6, 2, [], false⟩
def F.MOD_STAT_d3_taint : Fld := ⟨0x010000 * 32 + 8, 1, [], false⟩
def F.MOD_STAT_auth_valid : Fld := ⟨0x010000 * 32 + 9, 1, [], false⟩
def F.MOD_STAT_pin_ok : Fld := ⟨0x010000 * 32 + 10, 1, [], false⟩
def F.MOD_STAT_tk_dis : Fld := ⟨0x010000 * 32 + 11, 1, [], false⟩
def F.MOD_STAT_draining : Fld := ⟨0x010000 * 32 + 12, 1, [], false⟩
def F.MOD_STAT_drain_to : Fld := ⟨0x010000 * 32 + 13, 4, [], false⟩
def F.MOD_DBG_CTL_req : Fld := ⟨0x010004 * 32 + 0, 2, [], false⟩
def F.MOD_DBG_CTL_go : Fld := ⟨0x010004 * 32 + 2, 1, [], false⟩
def F.MOD_DBG_CTL_refused : Fld := ⟨0x010004 * 32 + 3, 1, [], false⟩
def F.MOD_DRAIN_CFG_tmo : Fld := ⟨0x010008 * 32 + 0, 10, [], true⟩
def F.MOD_AUTH_STAT_auth_left : Fld := ⟨0x01000C * 32 + 0, 6, [], false⟩
def F.MOD_AUTH_STAT_pin_left : Fld := ⟨0x01000C * 32 + 6, 7, [], false⟩
def F.MOD_AUTH_STAT_fails : Fld := ⟨0x01000C * 32 + 13, 4, [], false⟩
def F.MOD_AUTH_STAT_blocked : Fld := ⟨0x01000C * 32 + 17, 1, [], false⟩
def F.MOD_LAST_from : Fld := ⟨0x010010 * 32 + 0, 4, [], false⟩
def F.MOD_LAST_to : Fld := ⟨0x010010 * 32 + 4, 4, [], false⟩
def F.MOD_LAST_cause : Fld := ⟨0x010010 * 32 + 8, 3, [], false⟩
def F.MOD_TRANS_CNT_count : Fld := ⟨0x010014 * 32 + 0, 32, [], false⟩
def F.MOD_REFUSE_CNT_count : Fld := ⟨0x010018 * 32 + 0, 32, [], false⟩
def F.HIF_LINK_STAT_rate : Fld := ⟨0x020000 * 32 + 0, 3, [], false⟩
def F.HIF_LINK_STAT_width : Fld := ⟨0x020000 * 32 + 3, 5, [], false⟩
def F.HIF_LINK_STAT_flit : Fld := ⟨0x020000 * 32 + 8, 1, [], false⟩
def F.HIF_LINK_STAT_up : Fld := ⟨0x020000 * 32 + 9, 1, [], false⟩
def F.HIF_LINK_STAT_degraded : Fld := ⟨0x020000 * 32 + 10, 1, [], false⟩
def F.HIF_IDE_STAT_state : Fld := ⟨0x020004 * 32 + 0, 2, [], false⟩
def F.HIF_IDE_STAT_fail : Fld := ⟨0x020004 * 32 + 2, 1, [], false⟩
def F.HIF_IDE_CFG_required : Fld := ⟨0x020008 * 32 + 0, 1, [], true⟩
def F.HIF_DMA_ERR_reads : Fld := ⟨0x02000C * 32 + 0, 16, [], false⟩
def F.HIF_DMA_ERR_rings : Fld := ⟨0x02000C * 32 + 16, 16, [], false⟩
def F.HIF_DMA_ADDR_LO_iova : Fld := ⟨0x020010 * 32 + 0, 32, [], false⟩
def F.HIF_DMA_ADDR_HI_iova : Fld := ⟨0x020014 * 32 + 0, 32, [], false⟩
def F.HIF_LA_OWNER_function : Fld := ⟨0x020200 * 32 + 0, 7, [0x4 * 32], false⟩
def F.HIF_RING_BASE_LO_base : Fld := ⟨0x024000 * 32 + 12, 20, [0x40 * 32], false⟩
def F.HIF_RING_BASE_HI_base : Fld := ⟨0x024004 * 32 + 0, 32, [0x40 * 32], false⟩
def F.HIF_RING_WB_LO_wb : Fld := ⟨0x024008 * 32 + 3, 29, [0x40 * 32], false⟩
def F.HIF_RING_WB_HI_wb : Fld := ⟨0x02400C * 32 + 0, 32, [0x40 * 32], false⟩
def F.HIF_RING_BUF_LO_buf : Fld := ⟨0x024010 * 32 + 8, 24, [0x40 * 32], false⟩
def F.HIF_RING_BUF_HI_buf : Fld := ⟨0x024014 * 32 + 0, 32, [0x40 * 32], false⟩
def F.HIF_RING_CFG_en : Fld := ⟨0x024018 * 32 + 0, 1, [0x40 * 32], false⟩
def F.HIF_RING_CFG_log2size : Fld := ⟨0x024018 * 32 + 1, 5, [0x40 * 32], false⟩
def F.HIF_RING_CFG_kind : Fld := ⟨0x024018 * 32 + 6, 4, [0x40 * 32], false⟩
def F.HIF_RING_CFG_buf_size : Fld := ⟨0x024018 * 32 + 10, 7, [0x40 * 32], false⟩
def F.HIF_RING_DB_count : Fld := ⟨0x02401C * 32 + 0, 32, [0x40 * 32], false⟩
def F.HIF_RING_PTR_count : Fld := ⟨0x024020 * 32 + 0, 32, [0x40 * 32], false⟩
def F.HIF_RING_STAT_err : Fld := ⟨0x024024 * 32 + 0, 1, [0x40 * 32], false⟩
def F.HIF_RING_STAT_cause : Fld := ⟨0x024024 * 32 + 1, 2, [0x40 * 32], false⟩
def F.HIF_RING_STAT_full : Fld := ⟨0x024024 * 32 + 3, 1, [0x40 * 32], false⟩
def F.HIF_MSIX_MAP_vector : Fld := ⟨0x028000 * 32 + 0, 11, [0x4 * 32], false⟩
def F.HIF_MSIX_MAP_en : Fld := ⟨0x028000 * 32 + 11, 1, [0x4 * 32], false⟩
def F.HIF_MSIX_MOD_holdoff : Fld := ⟨0x02A000 * 32 + 0, 10, [0x4 * 32], false⟩
def F.EVR_STAT_overrun : Fld := ⟨0x030000 * 32 + 0, 1, [], false⟩
def F.EVR_STAT_supp : Fld := ⟨0x030000 * 32 + 1, 1, [], false⟩
def F.EVR_STAT_drain_on : Fld := ⟨0x030000 * 32 + 2, 1, [], false⟩
def F.EVR_STAT_drain_full : Fld := ⟨0x030000 * 32 + 3, 1, [], false⟩
def F.EVR_WR_ptr : Fld := ⟨0x030004 * 32 + 0, 17, [], false⟩
def F.EVR_NEXT_SEQ_LO_seq : Fld := ⟨0x030008 * 32 + 0, 32, [], false⟩
def F.EVR_NEXT_SEQ_HI_seq : Fld := ⟨0x03000C * 32 + 0, 8, [], false⟩
def F.EVR_OLDEST_ptr : Fld := ⟨0x030010 * 32 + 0, 17, [], false⟩
def F.EVR_OLDEST_SEQ_LO_seq : Fld := ⟨0x030014 * 32 + 0, 32, [], false⟩
def F.EVR_OLDEST_SEQ_HI_seq : Fld := ⟨0x030018 * 32 + 0, 8, [], false⟩
def F.EVR_DRAIN_CFG_en : Fld := ⟨0x03001C * 32 + 0, 1, [], true⟩
def F.EVR_DRAIN_CFG_min_sev : Fld := ⟨0x03001C * 32 + 1, 3, [], true⟩
def F.EVR_DRAIN_SEQ_LO_seq : Fld := ⟨0x030020 * 32 + 0, 32, [], false⟩
def F.EVR_DRAIN_SEQ_HI_seq : Fld := ⟨0x030024 * 32 + 0, 8, [], false⟩
def F.EVR_PAGE_page : Fld := ⟨0x030028 * 32 + 0, 5, [], false⟩
def F.EVR_LOST_CNT_count : Fld := ⟨0x03002C * 32 + 0, 32, [], false⟩
def F.EVR_SUPP_CNT_count : Fld := ⟨0x030030 * 32 + 0, 32, [], false⟩
def F.EVR_CODE_CFG_limitable : Fld := ⟨0x034000 * 32 + 0, 1, [0x4 * 32], true⟩
def F.EVR_CODE_CFG_burst : Fld := ⟨0x034000 * 32 + 1, 8, [0x4 * 32], true⟩
def F.EVR_CODE_CFG_win : Fld := ⟨0x034000 * 32 + 9, 4, [0x4 * 32], true⟩
def F.EVR_CODE_CFG_sev : Fld := ⟨0x034000 * 32 + 13, 3, [0x4 * 32], true⟩
def F.EVR_CODE_CFG_supp_total : Fld := ⟨0x034000 * 32 + 16, 16, [0x4 * 32], true⟩
def F.FLT_STAT_perm : Fld := ⟨0x040000 * 32 + 0, 1, [], false⟩
def F.FLT_STAT_escalated : Fld := ⟨0x040000 * 32 + 1, 1, [], false⟩
def F.FLT_STAT_tbl_ecc : Fld := ⟨0x040000 * 32 + 2, 1, [], false⟩
def F.FLT_CFG_perm_rate : Fld := ⟨0x040004 * 32 + 0, 8, [], true⟩
def F.FLT_CFG_iic_lim : Fld := ⟨0x040004 * 32 + 8, 8, [], true⟩
def F.FLT_CFG_ent_lock : Fld := ⟨0x040004 * 32 + 16, 1, [], true⟩
def F.FLT_LAST_resp : Fld := ⟨0x040008 * 32 + 0, 3, [], false⟩
def F.FLT_LAST_source : Fld := ⟨0x040008 * 32 + 3, 11, [], false⟩
def F.FLT_CLASS_STAT_in_service : Fld := ⟨0x040010 * 32 + 0, 1, [0x8 * 32], false⟩
def F.FLT_CLASS_STAT_pending : Fld := ⟨0x040010 * 32 + 1, 3, [0x8 * 32], false⟩
def F.FLT_CLASS_STAT_retired : Fld := ⟨0x040010 * 32 + 8, 8, [0x8 * 32], false⟩
def F.FLT_CLASS_STAT_escalated : Fld := ⟨0x040010 * 32 + 16, 1, [0x8 * 32], false⟩
def F.FLT_CLASS_CNT_count : Fld := ⟨0x040014 * 32 + 0, 32, [0x8 * 32], false⟩
def F.TMP_STICKY_flags : Fld := ⟨0x050000 * 32 + 0, 32, [], false⟩
def F.TMP_CAUSE_cause : Fld := ⟨0x050004 * 32 + 0, 14, [], false⟩
def F.TMP_RESP0_resp0 : Fld := ⟨0x050008 * 32 + 0, 4, [], true⟩
def F.TMP_RESP0_resp1 : Fld := ⟨0x050008 * 32 + 4, 4, [], true⟩
def F.TMP_RESP0_resp2 : Fld := ⟨0x050008 * 32 + 8, 4, [], true⟩
def F.TMP_RESP0_resp3 : Fld := ⟨0x050008 * 32 + 12, 4, [], true⟩
def F.TMP_RESP0_resp4 : Fld := ⟨0x050008 * 32 + 16, 4, [], true⟩
def F.TMP_RESP0_resp5 : Fld := ⟨0x050008 * 32 + 20, 4, [], true⟩
def F.TMP_RESP0_resp6 : Fld := ⟨0x050008 * 32 + 24, 4, [], true⟩
def F.TMP_RESP0_resp7 : Fld := ⟨0x050008 * 32 + 28, 4, [], true⟩
def F.TMP_RESP1_resp8 : Fld := ⟨0x05000C * 32 + 0, 4, [], true⟩
def F.TMP_RESP1_resp9 : Fld := ⟨0x05000C * 32 + 4, 4, [], true⟩
def F.TMP_RESP1_resp10 : Fld := ⟨0x05000C * 32 + 8, 4, [], true⟩
def F.TMP_RESP1_resp11 : Fld := ⟨0x05000C * 32 + 12, 4, [], true⟩
def F.TMP_RESP1_resp12 : Fld := ⟨0x05000C * 32 + 16, 4, [], true⟩
def F.TMP_RESP1_resp13 : Fld := ⟨0x05000C * 32 + 20, 4, [], true⟩
def F.TMP_TEMP_CFG_lo : Fld := ⟨0x050010 * 32 + 0, 8, [], true⟩
def F.TMP_TEMP_CFG_hi : Fld := ⟨0x050010 * 32 + 8, 8, [], true⟩
def F.TMP_TEMP_now : Fld := ⟨0x050014 * 32 + 0, 8, [], false⟩
def F.TMP_TEMP_min : Fld := ⟨0x050014 * 32 + 8, 8, [], false⟩
def F.TMP_TEMP_max : Fld := ⟨0x050014 * 32 + 16, 8, [], false⟩
def F.TMP_VBAT_mv : Fld := ⟨0x050018 * 32 + 0, 13, [], false⟩
def F.TMP_VIGIL_bank : Fld := ⟨0x05001C * 32 + 0, 1, [], false⟩
def F.TMP_VIGIL_crc_ok : Fld := ⟨0x05001C * 32 + 1, 1, [], false⟩
def F.TMP_VIGIL_builtin : Fld := ⟨0x05001C * 32 + 2, 1, [], false⟩
def F.TMP_VIGIL_runs : Fld := ⟨0x05001C * 32 + 16, 16, [], false⟩
def F.TMP_NOTE_word : Fld := ⟨0x050800 * 32 + 0, 32, [0x4 * 32], false⟩
def F.CRF_STAT_filt : Fld := ⟨0x060000 * 32 + 0, 7, [], false⟩
def F.CRF_STAT_pin_set : Fld := ⟨0x060000 * 32 + 7, 1, [], false⟩
def F.CRF_STAT_enrol : Fld := ⟨0x060000 * 32 + 8, 1, [], false⟩
def F.CRF_IN_CFG_stuck : Fld := ⟨0x060004 * 32 + 0, 12, [], true⟩
def F.CRF_IN_STAT_is_stuck : Fld := ⟨0x060008 * 32 + 0, 7, [], false⟩
def F.CRF_IN_STAT_is_chatter : Fld := ⟨0x060008 * 32 + 8, 7, [], false⟩
def F.CRF_IN_STAT_stuck_ev : Fld := ⟨0x060008 * 32 + 16, 7, [], false⟩
def F.CRF_IN_STAT_chatter_ev : Fld := ⟨0x060008 * 32 + 24, 7, [], false⟩
def F.CRF_TOUCH_CFG_thr : Fld := ⟨0x06000C * 32 + 0, 8, [], true⟩
def F.CRF_PIN_STAT_fails : Fld := ⟨0x060010 * 32 + 0, 3, [], false⟩
def F.CRF_PIN_STAT_lock_left : Fld := ⟨0x060010 * 32 + 3, 10, [], false⟩
def F.CRF_PIN_STAT_touches : Fld := ⟨0x060010 * 32 + 13, 4, [], false⟩
def F.CRF_LED_CTL_own0 : Fld := ⟨0x060014 * 32 + 0, 1, [], false⟩
def F.CRF_LED_CTL_own2 : Fld := ⟨0x060014 * 32 + 2, 1, [], false⟩
def F.CRF_LED_CTL_own3 : Fld := ⟨0x060014 * 32 + 3, 1, [], false⟩
def F.CRF_LED_CTL_pat0 : Fld := ⟨0x060014 * 32 + 8, 2, [], false⟩
def F.CRF_LED_CTL_pat2 : Fld := ⟨0x060014 * 32 + 12, 2, [], false⟩
def F.CRF_LED_CTL_pat3 : Fld := ⟨0x060014 * 32 + 14, 2, [], false⟩
def F.CRF_FILL_CFG_hold : Fld := ⟨0x060018 * 32 + 0, 10, [], true⟩
def F.CRF_FILL_CFG_en : Fld := ⟨0x060018 * 32 + 10, 1, [], true⟩
def F.CRF_FILL_STAT_state : Fld := ⟨0x06001C * 32 + 0, 3, [], false⟩
def F.CRF_FILL_STAT_held : Fld := ⟨0x06001C * 32 + 3, 1, [], false⟩
def F.CRF_FILL_STAT_clear : Fld := ⟨0x06001C * 32 + 4, 1, [], false⟩
def F.CRF_FILL_STAT_hold_left : Fld := ⟨0x06001C * 32 + 5, 10, [], false⟩
def F.CRF_FILL_CNT_frames : Fld := ⟨0x060020 * 32 + 0, 16, [], false⟩
def F.CRF_FILL_CNT_naks : Fld := ⟨0x060020 * 32 + 16, 8, [], false⟩
def F.CRF_FILL_CNT_stray : Fld := ⟨0x060020 * 32 + 24, 8, [], false⟩
def F.TIM_STAT_ref_state : Fld := ⟨0x070000 * 32 + 0, 2, [], false⟩
def F.TIM_STAT_holdover : Fld := ⟨0x070000 * 32 + 2, 1, [], false⟩
def F.TIM_STAT_slewing : Fld := ⟨0x070000 * 32 + 3, 1, [], false⟩
def F.TIM_STAT_epoch_valid : Fld := ⟨0x070000 * 32 + 4, 1, [], false⟩
def F.TIM_STAT_epoch_end : Fld := ⟨0x070000 * 32 + 5, 1, [], false⟩
def F.TIM_STAT_pps_new : Fld := ⟨0x070000 * 32 + 6, 1, [], false⟩
def F.TIM_STAT_ref_lost : Fld := ⟨0x070000 * 32 + 7, 1, [], false⟩
def F.TIM_STAT_stepped : Fld := ⟨0x070000 * 32 + 8, 1, [], false⟩
def F.TIM_CTL_capture : Fld := ⟨0x070004 * 32 + 0, 1, [], false⟩
def F.TIM_CTL_step : Fld := ⟨0x070004 * 32 + 1, 1, [], false⟩
def F.TIM_CTL_hold : Fld := ⟨0x070004 * 32 + 2, 1, [], false⟩
def F.TIM_CTL_adj_cancel : Fld := ⟨0x070004 * 32 + 3, 1, [], false⟩
def F.TIM_REF_CFG_src : Fld := ⟨0x070008 * 32 + 0, 2, [], true⟩
def F.TIM_REF_CFG_tref_freq : Fld := ⟨0x070008 * 32 + 2, 1, [], true⟩
def F.TIM_REF_CFG_pps_align : Fld := ⟨0x070008 * 32 + 3, 1, [], true⟩
def F.TIM_FREQ_LO_f_lo : Fld := ⟨0x07000C * 32 + 0, 32, [], false⟩
def F.TIM_FREQ_HI_f_hi : Fld := ⟨0x070010 * 32 + 0, 8, [], false⟩
def F.TIM_SLEW_CFG_max : Fld := ⟨0x070014 * 32 + 0, 17, [], true⟩
def F.TIM_ADJ_LO_adj_lo : Fld := ⟨0x070018 * 32 + 0, 32, [], false⟩
def F.TIM_ADJ_HI_adj_hi : Fld := ⟨0x07001C * 32 + 0, 16, [], false⟩
def F.TIM_SET_SEC_LO_sec : Fld := ⟨0x070020 * 32 + 0, 32, [], false⟩
def F.TIM_SET_SEC_HI_sec : Fld := ⟨0x070024 * 32 + 0, 16, [], false⟩
def F.TIM_SET_NS_ns : Fld := ⟨0x070028 * 32 + 0, 30, [], false⟩
def F.TIM_SET_FRAC_frac : Fld := ⟨0x07002C * 32 + 0, 16, [], false⟩
def F.TIM_CAP_SEC_LO_sec : Fld := ⟨0x070030 * 32 + 0, 32, [], false⟩
def F.TIM_CAP_SEC_HI_sec : Fld := ⟨0x070034 * 32 + 0, 16, [], false⟩
def F.TIM_CAP_NS_ns : Fld := ⟨0x070038 * 32 + 0, 30, [], false⟩
def F.TIM_CAP_FRAC_frac : Fld := ⟨0x07003C * 32 + 0, 16, [], false⟩
def F.TIM_EPOCH_CFG_len : Fld := ⟨0x070040 * 32 + 0, 20, [], true⟩
def F.TIM_EPOCH_ORG_LO_org : Fld := ⟨0x070044 * 32 + 0, 32, [], true⟩
def F.TIM_EPOCH_ORG_HI_org : Fld := ⟨0x070048 * 32 + 0, 16, [], true⟩
def F.TIM_EPOCH_LO_count : Fld := ⟨0x07004C * 32 + 0, 32, [], false⟩
def F.TIM_EPOCH_HI_count : Fld := ⟨0x070050 * 32 + 0, 8, [], false⟩
def F.TIM_ELAPSED_LO_count : Fld := ⟨0x070054 * 32 + 0, 32, [], false⟩
def F.TIM_ELAPSED_HI_count : Fld := ⟨0x070058 * 32 + 0, 32, [], false⟩
def F.TIM_PPS_CFG_width : Fld := ⟨0x07005C * 32 + 0, 9, [], true⟩
def F.TIM_PPS_CFG_out_en : Fld := ⟨0x07005C * 32 + 9, 1, [], true⟩
def F.TIM_PPS_CFG_in_en : Fld := ⟨0x07005C * 32 + 10, 1, [], true⟩
def F.TIM_PPS_CAP_SEC_LO_sec : Fld := ⟨0x070060 * 32 + 0, 32, [], false⟩
def F.TIM_PPS_CAP_SEC_HI_sec : Fld := ⟨0x070064 * 32 + 0, 16, [], false⟩
def F.TIM_PPS_CAP_NS_ns : Fld := ⟨0x070068 * 32 + 0, 30, [], false⟩
def F.TIM_PPS_CAP_FRAC_frac : Fld := ⟨0x07006C * 32 + 0, 16, [], false⟩
def F.TIM_LANE_ADJ_tx : Fld := ⟨0x071000 * 32 + 0, 16, [0x8 * 32], false⟩
def F.TIM_LANE_ADJ_rx : Fld := ⟨0x071000 * 32 + 16, 16, [0x8 * 32], false⟩
def F.TIM_LANE_STAT_cal : Fld := ⟨0x071004 * 32 + 0, 1, [0x8 * 32], false⟩
def F.TIM_LANE_STAT_cal_fail : Fld := ⟨0x071004 * 32 + 1, 1, [0x8 * 32], false⟩
def F.TIM_LANE_STAT_cal_temp : Fld := ⟨0x071004 * 32 + 8, 8, [0x8 * 32], false⟩
def F.TIM_IGT_DIFF_LO_diff : Fld := ⟨0x072000 * 32 + 0, 32, [0x8 * 32], false⟩
def F.TIM_IGT_DIFF_HI_diff : Fld := ⟨0x072004 * 32 + 0, 32, [0x8 * 32], false⟩
def F.ENT_STAT_ready : Fld := ⟨0x080000 * 32 + 0, 1, [], false⟩
def F.ENT_STAT_failed : Fld := ⟨0x080000 * 32 + 1, 1, [], false⟩
def F.ENT_STAT_stale : Fld := ⟨0x080000 * 32 + 2, 1, [], false⟩
def F.ENT_STAT_health : Fld := ⟨0x080000 * 32 + 3, 1, [], false⟩
def F.ENT_STAT_degraded : Fld := ⟨0x080000 * 32 + 4, 1, [], false⟩
def F.ENT_SRC_STAT_state : Fld := ⟨0x080004 * 32 + 0, 2, [0x4 * 32], false⟩
def F.ENT_SRC_STAT_consec : Fld := ⟨0x080004 * 32 + 2, 4, [0x4 * 32], false⟩
def F.ENT_SRC_STAT_rct_fail : Fld := ⟨0x080004 * 32 + 6, 1, [0x4 * 32], false⟩
def F.ENT_SRC_STAT_apt_fail : Fld := ⟨0x080004 * 32 + 7, 1, [0x4 * 32], false⟩
def F.ENT_SRC_STAT_fails : Fld := ⟨0x080004 * 32 + 16, 16, [0x4 * 32], false⟩
def F.ENT_RESEED_CNT_count : Fld := ⟨0x08000C * 32 + 0, 32, [], false⟩
def F.ENT_CALLS_calls : Fld := ⟨0x080010 * 32 + 0, 21, [], false⟩
def F.ENT_WAIT_c1 : Fld := ⟨0x080014 * 32 + 0, 8, [], false⟩
def F.ENT_WAIT_c2 : Fld := ⟨0x080014 * 32 + 8, 8, [], false⟩
def F.ENT_WAIT_c3 : Fld := ⟨0x080014 * 32 + 16, 8, [], false⟩
def F.ENT_WAIT_c4 : Fld := ⟨0x080014 * 32 + 24, 8, [], false⟩
def F.ENT_CTL_restart0 : Fld := ⟨0x080018 * 32 + 0, 1, [], false⟩
def F.ENT_CTL_restart1 : Fld := ⟨0x080018 * 32 + 1, 1, [], false⟩
def F.ENT_RAW_CTL_en : Fld := ⟨0x08001C * 32 + 0, 1, [], false⟩
def F.ENT_RAW_CTL_src : Fld := ⟨0x08001C * 32 + 1, 1, [], false⟩
def F.ENT_RAW_CTL_empty : Fld := ⟨0x08001C * 32 + 2, 1, [], false⟩
def F.ENT_RAW_CTL_overrun : Fld := ⟨0x08001C * 32 + 3, 1, [], false⟩
def F.ENT_RAW_DATA_samples : Fld := ⟨0x080020 * 32 + 0, 32, [], false⟩
def F.ENT_PARAM_rct_cutoff : Fld := ⟨0x080024 * 32 + 0, 6, [], false⟩
def F.ENT_PARAM_apt_cutoff : Fld := ⟨0x080024 * 32 + 6, 10, [], false⟩
def F.ENT_PARAM_apt_window : Fld := ⟨0x080024 * 32 + 16, 11, [], false⟩
def F.VLT_STAT_root_ready : Fld := ⟨0x090000 * 32 + 0, 1, [], false⟩
def F.VLT_STAT_seal_ok : Fld := ⟨0x090000 * 32 + 1, 1, [], false⟩
def F.VLT_STAT_seal_sel : Fld := ⟨0x090000 * 32 + 2, 1, [], false⟩
def F.VLT_STAT_rot_staged : Fld := ⟨0x090000 * 32 + 3, 1, [], false⟩
def F.VLT_STAT_pending : Fld := ⟨0x090000 * 32 + 4, 1, [], false⟩
def F.VLT_STAT_counter_end : Fld := ⟨0x090000 * 32 + 5, 1, [], false⟩
def F.VLT_STAT_walk_busy : Fld := ⟨0x090000 * 32 + 6, 1, [], false⟩
def F.VLT_STAT_ecc_err : Fld := ⟨0x090000 * 32 + 7, 1, [], false⟩
def F.VLT_STAT_unwrap_fail : Fld := ⟨0x090000 * 32 + 8, 1, [], false⟩
def F.VLT_STORE_VER_v : Fld := ⟨0x090004 * 32 + 0, 32, [], false⟩
def F.VLT_OWNER_active : Fld := ⟨0x090008 * 32 + 0, 5, [], false⟩
def F.VLT_OWNER_used : Fld := ⟨0x090008 * 32 + 5, 5, [], false⟩
def F.VLT_OWNER_final : Fld := ⟨0x090008 * 32 + 10, 1, [], false⟩
def F.VLT_SLOTS_valid : Fld := ⟨0x09000C * 32 + 0, 18, [], false⟩
def F.VLT_WALK_passes : Fld := ⟨0x090010 * 32 + 0, 4, [], false⟩
def F.VLT_WALK_revoked : Fld := ⟨0x090010 * 32 + 4, 18, [], false⟩
def F.VLT_ECC_CNT_count : Fld := ⟨0x090014 * 32 + 0, 32, [], false⟩
def F.VLT_DEVID_LO_id_lo : Fld := ⟨0x090018 * 32 + 0, 32, [], false⟩
def F.VLT_DEVID_HI_id_hi : Fld := ⟨0x09001C * 32 + 0, 32, [], false⟩
def F.ORD_STAT_busy : Fld := ⟨0x0A0000 * 32 + 0, 1, [], false⟩
def F.ORD_STAT_waiting : Fld := ⟨0x0A0000 * 32 + 1, 1, [], false⟩
def F.ORD_STAT_ring : Fld := ⟨0x0A0000 * 32 + 2, 8, [], false⟩
def F.ORD_STAT_img_valid : Fld := ⟨0x0A0000 * 32 + 10, 1, [], false⟩
def F.ORD_STAT_exc : Fld := ⟨0x0A0000 * 32 + 11, 1, [], false⟩
def F.ORD_BLK_CNT_count : Fld := ⟨0x0A0004 * 32 + 0, 32, [], false⟩
def F.ORD_EXC_CNT_count : Fld := ⟨0x0A0008 * 32 + 0, 32, [], false⟩
def F.ORD_ECC_CNT_count : Fld := ⟨0x0A000C * 32 + 0, 32, [], false⟩
def F.ORD_IMG_id : Fld := ⟨0x0A0010 * 32 + 0, 32, [], false⟩
def F.KSQ_STAT_busy0 : Fld := ⟨0x0B0000 * 32 + 0, 1, [], false⟩
def F.KSQ_STAT_busy1 : Fld := ⟨0x0B0000 * 32 + 1, 1, [], false⟩
def F.KSQ_STAT_exc : Fld := ⟨0x0B0000 * 32 + 2, 1, [], false⟩
def F.KSQ_STAT_pending : Fld := ⟨0x0B0000 * 32 + 3, 4, [], false⟩
def F.KSQ_RUN_CNT_count : Fld := ⟨0x0B0004 * 32 + 0, 32, [], false⟩
def F.KSQ_EXC_CNT_count : Fld := ⟨0x0B0008 * 32 + 0, 32, [], false⟩
def F.KSQ_ECC_CNT_count : Fld := ⟨0x0B000C * 32 + 0, 32, [], false⟩
def F.KSQ_IMG_id : Fld := ⟨0x0B0010 * 32 + 0, 32, [0x4 * 32], false⟩
def F.LAD_Q_STAT_img_valid : Fld := ⟨0x100000 * 32 + 0, 1, [0x10000 * 32], false⟩
def F.LAD_Q_STAT_bank : Fld := ⟨0x100000 * 32 + 1, 1, [0x10000 * 32], false⟩
def F.LAD_Q_STAT_pending : Fld := ⟨0x100000 * 32 + 2, 1, [0x10000 * 32], false⟩
def F.LAD_Q_STAT_old_busy : Fld := ⟨0x100000 * 32 + 3, 1, [0x10000 * 32], false⟩
def F.LAD_Q_STAT_large : Fld := ⟨0x100000 * 32 + 4, 1, [0x10000 * 32], false⟩
def F.LAD_Q_STAT_in_service : Fld := ⟨0x100000 * 32 + 8, 7, [0x10000 * 32], false⟩
def F.LAD_Q_CFG_perf_user_en : Fld := ⟨0x100004 * 32 + 0, 1, [0x10000 * 32], true⟩
def F.LAD_IMG_id : Fld := ⟨0x100008 * 32 + 0, 32, [0x10000 * 32], false⟩
def F.LAD_IMG_INFO_budget : Fld := ⟨0x10000C * 32 + 0, 13, [0x10000 * 32], false⟩
def F.LAD_EXC_CNT_count : Fld := ⟨0x100010 * 32 + 0, 32, [0x10000 * 32], false⟩
def F.LAD_ECC_CNT_count : Fld := ⟨0x100014 * 32 + 0, 32, [0x10000 * 32], false⟩
def F.LAD_SMP_CFG_en : Fld := ⟨0x100018 * 32 + 0, 1, [0x10000 * 32], false⟩
def F.LAD_SMP_CFG_wrap : Fld := ⟨0x100018 * 32 + 1, 1, [0x10000 * 32], false⟩
def F.LAD_SMP_CFG_period : Fld := ⟨0x100018 * 32 + 2, 17, [0x10000 * 32], false⟩
def F.LAD_SMP_CFG_full : Fld := ⟨0x100018 * 32 + 19, 1, [0x10000 * 32], false⟩
def F.LAD_SMP_PTR_next : Fld := ⟨0x10001C * 32 + 0, 12, [0x10000 * 32], false⟩
def F.LAD_SMP_PTR_wrapped : Fld := ⟨0x10001C * 32 + 12, 1, [0x10000 * 32], false⟩
def F.LAD_QCNT_CHAIN_chain : Fld := ⟨0x100020 * 32 + 0, 8, [0x10000 * 32], false⟩
def F.LAD_QCNT_OVF_ovf : Fld := ⟨0x100024 * 32 + 0, 16, [0x10000 * 32], false⟩
def F.LAD_QCNT_SEL_event : Fld := ⟨0x100100 * 32 + 0, 8, [0x10000 * 32, 0x8 * 32], false⟩
def F.LAD_QCNT_count : Fld := ⟨0x100104 * 32 + 0, 32, [0x10000 * 32, 0x8 * 32], false⟩
def F.LAD_DBG_CTL_ladle : Fld := ⟨0x100200 * 32 + 0, 6, [0x10000 * 32], false⟩
def F.LAD_DBG_CTL_thread : Fld := ⟨0x100200 * 32 + 6, 2, [0x10000 * 32], false⟩
def F.LAD_DBG_CTL_halt : Fld := ⟨0x100200 * 32 + 8, 1, [0x10000 * 32], false⟩
def F.LAD_DBG_CTL_step : Fld := ⟨0x100200 * 32 + 9, 1, [0x10000 * 32], false⟩
def F.LAD_DBG_CTL_resume : Fld := ⟨0x100200 * 32 + 10, 1, [0x10000 * 32], false⟩
def F.LAD_DBG_CTL_halted : Fld := ⟨0x100200 * 32 + 11, 1, [0x10000 * 32], false⟩
def F.LAD_DBG_CTL_bp_en : Fld := ⟨0x100200 * 32 + 12, 1, [0x10000 * 32], false⟩
def F.LAD_DBG_BP_addr : Fld := ⟨0x100204 * 32 + 2, 17, [0x10000 * 32], false⟩
def F.LAD_DBG_PC_pc : Fld := ⟨0x100208 * 32 + 0, 19, [0x10000 * 32], false⟩
def F.LAD_DBG_REG_SEL_reg : Fld := ⟨0x10020C * 32 + 0, 5, [0x10000 * 32], false⟩
def F.LAD_DBG_REG_LO_value : Fld := ⟨0x100210 * 32 + 0, 32, [0x10000 * 32], false⟩
def F.LAD_DBG_REG_HI_value : Fld := ⟨0x100214 * 32 + 0, 32, [0x10000 * 32], false⟩
def F.LAD_STAT_in_service : Fld := ⟨0x101000 * 32 + 0, 1, [0x10000 * 32, 0x40 * 32], false⟩
def F.LAD_STAT_busy : Fld := ⟨0x101000 * 32 + 1, 4, [0x10000 * 32, 0x40 * 32], false⟩
def F.LAD_STAT_ovf : Fld := ⟨0x101000 * 32 + 8, 4, [0x10000 * 32, 0x40 * 32], false⟩
def F.LAD_STAT_cause : Fld := ⟨0x101000 * 32 + 12, 4, [0x10000 * 32, 0x40 * 32], false⟩
def F.LAD_STAT_thread : Fld := ⟨0x101000 * 32 + 16, 2, [0x10000 * 32, 0x40 * 32], false⟩
def F.LAD_CNT_SEL_event0 : Fld := ⟨0x101004 * 32 + 0, 8, [0x10000 * 32, 0x40 * 32], false⟩
def F.LAD_CNT_SEL_event1 : Fld := ⟨0x101004 * 32 + 8, 8, [0x10000 * 32, 0x40 * 32], false⟩
def F.LAD_CNT_SEL_event2 : Fld := ⟨0x101004 * 32 + 16, 8, [0x10000 * 32, 0x40 * 32], false⟩
def F.LAD_CNT_SEL_event3 : Fld := ⟨0x101004 * 32 + 24, 8, [0x10000 * 32, 0x40 * 32], false⟩
def F.LAD_EXC_PC_pc : Fld := ⟨0x101008 * 32 + 0, 19, [0x10000 * 32, 0x40 * 32], false⟩
def F.LAD_CNT_LO_count : Fld := ⟨0x101010 * 32 + 0, 32, [0x10000 * 32, 0x40 * 32, 0x8 * 32], false⟩
def F.LAD_CNT_HI_count : Fld := ⟨0x101014 * 32 + 0, 16, [0x10000 * 32, 0x40 * 32, 0x8 * 32], false⟩
def F.LAD_SMP_LO_entry : Fld := ⟨0x108000 * 32 + 0, 32, [0x10000 * 32, 0x8 * 32], false⟩
def F.LAD_SMP_HI_entry : Fld := ⟨0x108004 * 32 + 0, 32, [0x10000 * 32, 0x8 * 32], false⟩
def F.PAN_STAT_state : Fld := ⟨0x180000 * 32 + 0, 3, [0x20 * 32], false⟩
def F.PAN_STAT_opens : Fld := ⟨0x180000 * 32 + 3, 2, [0x20 * 32], false⟩
def F.PAN_STAT_kat_fails : Fld := ⟨0x180000 * 32 + 5, 2, [0x20 * 32], false⟩
def F.PAN_STAT_err : Fld := ⟨0x180000 * 32 + 7, 1, [0x20 * 32], false⟩
def F.PAN_STAT_kat_fail : Fld := ⟨0x180000 * 32 + 8, 1, [0x20 * 32], false⟩
def F.PAN_CTL_kat : Fld := ⟨0x180004 * 32 + 0, 1, [0x20 * 32], false⟩
def F.PAN_CTL_retire : Fld := ⟨0x180004 * 32 + 1, 1, [0x20 * 32], false⟩
def F.PAN_ERR_CNT_count : Fld := ⟨0x180008 * 32 + 0, 32, [0x20 * 32], false⟩
def F.PAN_REPLAY_CNT_count : Fld := ⟨0x18000C * 32 + 0, 32, [0x20 * 32], false⟩
def F.PAN_Q_STAT_in_service : Fld := ⟨0x181000 * 32 + 0, 3, [0x4 * 32], false⟩
def F.PAN_Q_STAT_spares : Fld := ⟨0x181000 * 32 + 3, 3, [0x4 * 32], false⟩
def F.PAN_Q_STAT_opener0 : Fld := ⟨0x181000 * 32 + 6, 5, [0x4 * 32], false⟩
def F.PAN_Q_STAT_opener1 : Fld := ⟨0x181000 * 32 + 11, 5, [0x4 * 32], false⟩
def F.PAN_LA_CFG_ring_inflight : Fld := ⟨0x181010 * 32 + 0, 7, [], true⟩
def F.SAX_REKEY_CFG_w : Fld := ⟨0x200000 * 32 + 0, 20, [], true⟩
def F.SAX_REKEY_CFG_aq : Fld := ⟨0x200000 * 32 + 20, 8, [], true⟩
def F.SAX_GUARD_CFG_guard : Fld := ⟨0x200004 * 32 + 0, 6, [], true⟩
def F.SAX_STAT_soon : Fld := ⟨0x200008 * 32 + 0, 1, [], false⟩
def F.SAX_STAT_stopped : Fld := ⟨0x200008 * 32 + 1, 1, [], false⟩
def F.SAX_STAT_stale : Fld := ⟨0x200008 * 32 + 2, 1, [], false⟩
def F.SAX_STAT_missed : Fld := ⟨0x200008 * 32 + 3, 1, [], false⟩
def F.SAX_SCHED_PEND_count : Fld := ⟨0x20000C * 32 + 0, 16, [], false⟩
def F.SAX_STALE_CNT_count : Fld := ⟨0x200010 * 32 + 0, 32, [], false⟩
def F.SAX_QUIET_REJ_CNT_count : Fld := ⟨0x200014 * 32 + 0, 32, [], false⟩
def F.SAX_SA_SEL_index : Fld := ⟨0x200020 * 32 + 0, 16, [], false⟩
def F.SAX_SA_INFO_state : Fld := ⟨0x200024 * 32 + 0, 2, [], false⟩
def F.SAX_SA_INFO_dir : Fld := ⟨0x200024 * 32 + 2, 1, [], false⟩
def F.SAX_SA_INFO_an : Fld := ⟨0x200024 * 32 + 3, 2, [], false⟩
def F.SAX_SA_INFO_suite : Fld := ⟨0x200024 * 32 + 5, 2, [], false⟩
def F.SAX_SA_INFO_hold : Fld := ⟨0x200024 * 32 + 7, 1, [], false⟩
def F.SAX_SA_INFO_soon : Fld := ⟨0x200024 * 32 + 8, 1, [], false⟩
def F.SAX_SA_INFO_stopped : Fld := ⟨0x200024 * 32 + 9, 1, [], false⟩
def F.SAX_SA_INFO_current : Fld := ⟨0x200024 * 32 + 10, 1, [], false⟩
def F.SAX_SA_INFO_replay_win : Fld := ⟨0x200024 * 32 + 11, 11, [], false⟩
def F.SAX_SA_INFO_generation : Fld := ⟨0x200024 * 32 + 24, 8, [], false⟩
def F.SAX_SA_KEY_key : Fld := ⟨0x200028 * 32 + 0, 32, [], false⟩
def F.SAX_SA_PN_LO_pn_lo : Fld := ⟨0x20002C * 32 + 0, 32, [], false⟩
def F.SAX_SA_PN_HI_pn_hi : Fld := ⟨0x200030 * 32 + 0, 32, [], false⟩
def F.SAX_SA_LOW_LO_low_lo : Fld := ⟨0x200034 * 32 + 0, 32, [], false⟩
def F.SAX_SA_LOW_HI_low_hi : Fld := ⟨0x200038 * 32 + 0, 32, [], false⟩
def F.SAX_SA_CH_channel : Fld := ⟨0x20003C * 32 + 0, 15, [], false⟩
def F.SLU_STAT_limit : Fld := ⟨0x300000 * 32 + 0, 1, [], false⟩
def F.SLU_STAT_buf_full : Fld := ⟨0x300000 * 32 + 1, 1, [], false⟩
def F.SLU_STAT_smp_overrun : Fld := ⟨0x300000 * 32 + 2, 1, [], false⟩
def F.SLU_STAT_gcl_oversize : Fld := ⟨0x300000 * 32 + 3, 1, [], false⟩
def F.SLU_BUF_STAT_od_used : Fld := ⟨0x300004 * 32 + 0, 16, [], false⟩
def F.SLU_BUF_STAT_hbm_used : Fld := ⟨0x300004 * 32 + 16, 16, [], false⟩
def F.SLU_SMP_CFG_en : Fld := ⟨0x300008 * 32 + 0, 1, [], true⟩
def F.SLU_SMP_CFG_period : Fld := ⟨0x300008 * 32 + 1, 30, [], true⟩
def F.SLU_SMP_LEN_len : Fld := ⟨0x30000C * 32 + 0, 13, [], true⟩
def F.SLU_SMP_DROP_CNT_count : Fld := ⟨0x300010 * 32 + 0, 32, [], false⟩
def F.SLU_IND_SEL_index : Fld := ⟨0x300020 * 32 + 0, 16, [], false⟩
def F.SLU_IND_SEL_table : Fld := ⟨0x300020 * 32 + 16, 3, [], false⟩
def F.SLU_IND_CMD_read : Fld := ⟨0x300024 * 32 + 0, 1, [], false⟩
def F.SLU_IND_CMD_write : Fld := ⟨0x300024 * 32 + 1, 1, [], false⟩
def F.SLU_IND_CMD_busy : Fld := ⟨0x300024 * 32 + 2, 1, [], false⟩
def F.SLU_IND_DATA_data : Fld := ⟨0x300030 * 32 + 0, 32, [0x4 * 32], false⟩
def F.SLU_PORT_CFG_strict : Fld := ⟨0x301000 * 32 + 0, 8, [0x40 * 32], true⟩
def F.SLU_GCL_CFG_en : Fld := ⟨0x301004 * 32 + 0, 1, [0x40 * 32], true⟩
def F.SLU_GCL_CFG_bank : Fld := ⟨0x301004 * 32 + 1, 1, [0x40 * 32], true⟩
def F.SLU_GCL_CFG_swap : Fld := ⟨0x301004 * 32 + 2, 1, [0x40 * 32], true⟩
def F.SLU_GCL_CFG_len : Fld := ⟨0x301004 * 32 + 3, 9, [0x40 * 32], true⟩
def F.SLU_GCL_CYCLE_cycle : Fld := ⟨0x301008 * 32 + 0, 30, [0x40 * 32], true⟩
def F.SLU_GCL_BASE_NS_ns : Fld := ⟨0x30100C * 32 + 0, 30, [0x40 * 32], true⟩
def F.SLU_GCL_BASE_SEC_LO_sec : Fld := ⟨0x301010 * 32 + 0, 32, [0x40 * 32], true⟩
def F.SLU_GCL_BASE_SEC_HI_sec : Fld := ⟨0x301014 * 32 + 0, 16, [0x40 * 32], true⟩
def F.SLU_GCL_STAT_running : Fld := ⟨0x301018 * 32 + 0, 1, [0x40 * 32], false⟩
def F.SLU_GCL_STAT_pending : Fld := ⟨0x301018 * 32 + 1, 1, [0x40 * 32], false⟩
def F.SLU_GCL_STAT_retry : Fld := ⟨0x301018 * 32 + 16, 16, [0x40 * 32], false⟩
def F.SLU_CLS_CFG_weight : Fld := ⟨0x301020 * 32 + 0, 16, [0x40 * 32, 0x4 * 32], true⟩
def F.SLU_GCL_ENT_LO_interval : Fld := ⟨0x310000 * 32 + 0, 30, [0x1000 * 32, 0x800 * 32, 0x8 * 32], false⟩
def F.SLU_GCL_ENT_HI_gates : Fld := ⟨0x310004 * 32 + 0, 8, [0x1000 * 32, 0x800 * 32, 0x8 * 32], false⟩
def F.SLU_SMP_LIST_queue : Fld := ⟨0x320000 * 32 + 0, 16, [0x4 * 32], false⟩
def F.FWD_STAT_parity : Fld := ⟨0x400000 * 32 + 0, 1, [], false⟩
def F.FWD_STAT_lrn_full : Fld := ⟨0x400000 * 32 + 1, 1, [], false⟩
def F.FWD_STAT_table_full : Fld := ⟨0x400000 * 32 + 2, 1, [], false⟩
def F.FWD_STAT_flapping : Fld := ⟨0x400000 * 32 + 3, 1, [], false⟩
def F.FWD_STAT_count_drift : Fld := ⟨0x400000 * 32 + 4, 1, [], false⟩
def F.FWD_STAT_flush_busy : Fld := ⟨0x400000 * 32 + 5, 1, [], false⟩
def F.FWD_CFG_learn_en : Fld := ⟨0x400004 * 32 + 0, 1, [], true⟩
def F.FWD_CFG_move_damp : Fld := ⟨0x400004 * 32 + 1, 8, [], true⟩
def F.FWD_CFG_flap_hold : Fld := ⟨0x400004 * 32 + 9, 12, [], true⟩
def F.FWD_AGE_CFG_pass : Fld := ⟨0x400008 * 32 + 0, 12, [], true⟩
def F.FWD_AGE_CFG_en : Fld := ⟨0x400008 * 32 + 12, 1, [], true⟩
def F.FWD_COUNT_valid : Fld := ⟨0x40000C * 32 + 0, 19, [], false⟩
def F.FWD_LRN_STAT_depth : Fld := ⟨0x400010 * 32 + 0, 13, [], false⟩
def F.FWD_LRN_STAT_held : Fld := ⟨0x400010 * 32 + 13, 1, [], false⟩
def F.FWD_LRN_DROP_CNT_count : Fld := ⟨0x400014 * 32 + 0, 32, [], false⟩
def F.FWD_PARITY_CNT_count : Fld := ⟨0x400018 * 32 + 0, 32, [], false⟩
def F.FWD_MOVE_CNT_moves : Fld := ⟨0x40001C * 32 + 0, 16, [], false⟩
def F.FWD_MOVE_CNT_refused : Fld := ⟨0x40001C * 32 + 16, 16, [], false⟩
def F.FWD_IND_SEL_slot : Fld := ⟨0x400020 * 32 + 0, 18, [], false⟩
def F.FWD_IND_SEL_by_key : Fld := ⟨0x400020 * 32 + 18, 1, [], false⟩
def F.FWD_IND_CMD_read : Fld := ⟨0x400024 * 32 + 0, 1, [], false⟩
def F.FWD_IND_CMD_busy : Fld := ⟨0x400024 * 32 + 1, 1, [], false⟩
def F.FWD_IND_CMD_found : Fld := ⟨0x400024 * 32 + 2, 1, [], false⟩
def F.FWD_IND_DATA_data : Fld := ⟨0x400030 * 32 + 0, 32, [0x4 * 32], false⟩
def F.FWD_DOM_FLOOD_dest : Fld := ⟨0x400100 * 32 + 0, 32, [0x4 * 32], true⟩
def F.FWD_PORT_CFG_learn : Fld := ⟨0x400200 * 32 + 0, 1, [0x8 * 32], true⟩
def F.FWD_PORT_CFG_limited : Fld := ⟨0x400200 * 32 + 1, 1, [0x8 * 32], true⟩
def F.FWD_PORT_CFG_excess_act : Fld := ⟨0x400200 * 32 + 2, 1, [0x8 * 32], true⟩
def F.FWD_PORT_CFG_domain : Fld := ⟨0x400200 * 32 + 3, 4, [0x8 * 32], true⟩
def F.FWD_PORT_CFG_limit : Fld := ⟨0x400200 * 32 + 7, 19, [0x8 * 32], true⟩
def F.FWD_PORT_CNT_count : Fld := ⟨0x400204 * 32 + 0, 19, [0x8 * 32], false⟩
def F.MEM_STAT_no_keys : Fld := ⟨0x500000 * 32 + 0, 1, [], false⟩
def F.MEM_STAT_tag_fail : Fld := ⟨0x500000 * 32 + 1, 1, [], false⟩
def F.MEM_STAT_node_fail : Fld := ⟨0x500000 * 32 + 2, 1, [], false⟩
def F.MEM_STAT_viol : Fld := ⟨0x500000 * 32 + 3, 1, [], false⟩
def F.MEM_FRAME_KID_kid : Fld := ⟨0x500004 * 32 + 0, 1, [], true⟩
def F.MEM_KSTAT_LO_state : Fld := ⟨0x500008 * 32 + 0, 30, [], false⟩
def F.MEM_KSTAT_HI_state : Fld := ⟨0x50000C * 32 + 0, 30, [], false⟩
def F.MEM_PC_RET_LO_retired : Fld := ⟨0x500010 * 32 + 0, 32, [], false⟩
def F.MEM_PC_RET_HI_retired : Fld := ⟨0x500014 * 32 + 0, 32, [], false⟩
def F.MEM_PMAP_used : Fld := ⟨0x500018 * 32 + 0, 13, [], false⟩
def F.MEM_ECC_CNT_count : Fld := ⟨0x500020 * 32 + 0, 32, [], false⟩
def F.MEM_TAG_FAIL_CNT_count : Fld := ⟨0x500024 * 32 + 0, 32, [], false⟩
def F.MEM_NODE_FAIL_CNT_count : Fld := ⟨0x500028 * 32 + 0, 32, [], false⟩
def F.MEM_OVF_CNT_count : Fld := ⟨0x50002C * 32 + 0, 32, [], false⟩
def F.MEM_VIOL_CNT_count : Fld := ⟨0x500030 * 32 + 0, 32, [], false⟩
def F.MEM_VIOL_ADDR_LO_addr : Fld := ⟨0x500034 * 32 + 0, 32, [], false⟩
def F.MEM_VIOL_ADDR_HI_addr : Fld := ⟨0x500038 * 32 + 0, 16, [], false⟩
def F.MEM_KSTAT_2_state : Fld := ⟨0x500040 * 32 + 0, 30, [], false⟩
def F.MEM_KSTAT_3_state : Fld := ⟨0x500044 * 32 + 0, 6, [], false⟩
def F.MEM_FUNC_KID_kid : Fld := ⟨0x500100 * 32 + 0, 5, [0x4 * 32], true⟩
def F.PRS_STAT_link : Fld := ⟨0x600000 * 32 + 0, 3, [], false⟩
def F.PRS_STAT_peer_present : Fld := ⟨0x600000 * 32 + 3, 1, [], false⟩
def F.PRS_STAT_holding : Fld := ⟨0x600000 * 32 + 4, 1, [], false⟩
def F.PRS_STAT_deferring : Fld := ⟨0x600000 * 32 + 5, 1, [], false⟩
def F.PRS_STAT_dual : Fld := ⟨0x600000 * 32 + 6, 1, [], false⟩
def F.PRS_STAT_cfg_diff : Fld := ⟨0x600000 * 32 + 7, 1, [], false⟩
def F.PRS_STAT_master_lost : Fld := ⟨0x600000 * 32 + 8, 1, [], false⟩
def F.PRS_STAT_acting_master : Fld := ⟨0x600000 * 32 + 9, 1, [], false⟩
def F.PRS_PAIR_CFG_tc : Fld := ⟨0x600004 * 32 + 0, 7, [], true⟩
def F.PRS_PAIR_CFG_pref : Fld := ⟨0x600004 * 32 + 7, 4, [], true⟩
def F.PRS_PAIR_CFG_revert_en : Fld := ⟨0x600004 * 32 + 11, 1, [], true⟩
def F.PRS_PAIR_CFG_revert_hold : Fld := ⟨0x600004 * 32 + 12, 10, [], true⟩
def F.PRS_CTL_unfit : Fld := ⟨0x600008 * 32 + 0, 1, [], false⟩
def F.PRS_CTL_resync : Fld := ⟨0x600008 * 32 + 1, 1, [], false⟩
def F.PRS_CLAIM_own : Fld := ⟨0x60000C * 32 + 0, 8, [], false⟩
def F.PRS_CLAIM_published : Fld := ⟨0x60000C * 32 + 8, 8, [], false⟩
def F.PRS_CLAIM_peer : Fld := ⟨0x60000C * 32 + 16, 8, [], false⟩
def F.PRS_CLAIM_peer_src : Fld := ⟨0x60000C * 32 + 24, 2, [], false⟩
def F.PRS_HEALTH_cond : Fld := ⟨0x600010 * 32 + 0, 12, [], false⟩
def F.PRS_HEALTH_grade : Fld := ⟨0x600010 * 32 + 12, 3, [], false⟩
def F.PRS_COPY_CYCLE_cycle : Fld := ⟨0x600014 * 32 + 0, 32, [], false⟩
def F.PRS_COPY_CNT_count : Fld := ⟨0x600018 * 32 + 0, 32, [], false⟩
def F.PRS_MISS_CNT_count : Fld := ⟨0x60001C * 32 + 0, 32, [], false⟩
def F.PRS_TAKEOVER_CNT_count : Fld := ⟨0x600020 * 32 + 0, 32, [], false⟩
def F.PRS_REVERT_left : Fld := ⟨0x600024 * 32 + 0, 10, [], false⟩
def F.PRS_STACK_CFG_stack : Fld := ⟨0x600028 * 32 + 0, 6, [], true⟩
def F.PRS_STACK_CFG_domain : Fld := ⟨0x600028 * 32 + 6, 12, [], true⟩
def F.PRS_STACK_CFG_sched_local : Fld := ⟨0x600028 * 32 + 18, 1, [], true⟩
def F.PRS_STACK_CFG_relay_sev : Fld := ⟨0x600028 * 32 + 19, 3, [], true⟩
def F.PRS_STACK_STAT_master : Fld := ⟨0x60002C * 32 + 0, 3, [], false⟩
def F.PRS_STACK_STAT_master_ok : Fld := ⟨0x60002C * 32 + 3, 1, [], false⟩
def F.PRS_STACK_STAT_members : Fld := ⟨0x60002C * 32 + 4, 8, [], false⟩
def F.PRS_STACK_STAT_up0 : Fld := ⟨0x60002C * 32 + 12, 1, [], false⟩
def F.PRS_STACK_STAT_up1 : Fld := ⟨0x60002C * 32 + 13, 1, [], false⟩
def F.PRS_STRAP_stack_id : Fld := ⟨0x600030 * 32 + 0, 3, [], false⟩
def F.PRS_STRAP_pair_role : Fld := ⟨0x600030 * 32 + 3, 1, [], false⟩
def F.PRS_LINK_AUTH_CNT_count : Fld := ⟨0x600034 * 32 + 0, 32, [], false⟩
def F.PRS_MEMBER_mode : Fld := ⟨0x600040 * 32 + 0, 4, [0x4 * 32], false⟩
def F.PRS_MEMBER_holding : Fld := ⟨0x600040 * 32 + 4, 1, [0x4 * 32], false⟩
def F.PRS_MEMBER_claim : Fld := ⟨0x600040 * 32 + 5, 8, [0x4 * 32], false⟩
def F.PRS_MEMBER_hops0 : Fld := ⟨0x600040 * 32 + 13, 3, [0x4 * 32], false⟩
def F.PRS_MEMBER_hops1 : Fld := ⟨0x600040 * 32 + 16, 3, [0x4 * 32], false⟩
def F.PRS_MEMBER_present : Fld := ⟨0x600040 * 32 + 19, 1, [0x4 * 32], false⟩
def F.CNT_STAT_lost : Fld := ⟨0x700000 * 32 + 0, 1, [], false⟩
def F.CNT_STAT_busy : Fld := ⟨0x700000 * 32 + 1, 1, [], false⟩
def F.CNT_SEL_index : Fld := ⟨0x700004 * 32 + 0, 19, [], false⟩
def F.CNT_SEL_space : Fld := ⟨0x700004 * 32 + 19, 1, [], false⟩
def F.CNT_SEL_rc : Fld := ⟨0x700004 * 32 + 20, 1, [], false⟩
def F.CNT_SEL_wr : Fld := ⟨0x700004 * 32 + 21, 1, [], false⟩
def F.CNT_SEL_lost : Fld := ⟨0x700004 * 32 + 22, 1, [], false⟩
def F.CNT_DATA_LO_data : Fld := ⟨0x700008 * 32 + 0, 32, [], false⟩
def F.CNT_DATA_HI_data : Fld := ⟨0x70000C * 32 + 0, 32, [], false⟩
def F.CNT_ECC_CNT_count : Fld := ⟨0x700010 * 32 + 0, 32, [], false⟩
def F.CNT_LOST_IDX_index : Fld := ⟨0x700014 * 32 + 0, 19, [], false⟩
def F.CNT_LOST_IDX_space : Fld := ⟨0x700014 * 32 + 19, 1, [], false⟩
def F.SRD_LANE_CTL_tx_sleep : Fld := ⟨0x800000 * 32 + 0, 1, [0x1000 * 32], false⟩
def F.SRD_LANE_CTL_rx_sleep : Fld := ⟨0x800000 * 32 + 1, 1, [0x1000 * 32], false⟩
def F.SRD_LANE_CTL_freeze : Fld := ⟨0x800000 * 32 + 2, 1, [0x1000 * 32], false⟩
def F.SRD_LANE_CTL_retrain : Fld := ⟨0x800000 * 32 + 3, 1, [0x1000 * 32], false⟩
def F.SRD_LANE_CTL_lpbk : Fld := ⟨0x800000 * 32 + 4, 2, [0x1000 * 32], false⟩
def F.SRD_LANE_STAT_sig : Fld := ⟨0x800004 * 32 + 0, 1, [0x1000 * 32], false⟩
def F.SRD_LANE_STAT_lock : Fld := ⟨0x800004 * 32 + 1, 1, [0x1000 * 32], false⟩
def F.SRD_LANE_STAT_adapted : Fld := ⟨0x800004 * 32 + 2, 1, [0x1000 * 32], false⟩
def F.SRD_LANE_STAT_lock_lost : Fld := ⟨0x800004 * 32 + 3, 1, [0x1000 * 32], false⟩
def F.SRD_LANE_STAT_ppm_err : Fld := ⟨0x800004 * 32 + 4, 1, [0x1000 * 32], false⟩
def F.SRD_LANE_STAT_ppm : Fld := ⟨0x800004 * 32 + 8, 8, [0x1000 * 32], false⟩
def F.SRD_LANE_STAT_eye : Fld := ⟨0x800004 * 32 + 16, 12, [0x1000 * 32], false⟩
def F.SRD_TX_FFE_taps : Fld := ⟨0x800008 * 32 + 0, 30, [0x1000 * 32], true⟩
def F.SRD_PRBS_CFG_gen : Fld := ⟨0x80000C * 32 + 0, 1, [0x1000 * 32], false⟩
def F.SRD_PRBS_CFG_chk : Fld := ⟨0x80000C * 32 + 1, 1, [0x1000 * 32], false⟩
def F.SRD_PRBS_CFG_poly : Fld := ⟨0x80000C * 32 + 2, 3, [0x1000 * 32], false⟩
def F.SRD_PRBS_CFG_inj_bit : Fld := ⟨0x80000C * 32 + 5, 1, [0x1000 * 32], false⟩
def F.SRD_PRBS_CFG_inj_burst : Fld := ⟨0x80000C * 32 + 6, 1, [0x1000 * 32], false⟩
def F.SRD_PRBS_CFG_burst_len : Fld := ⟨0x80000C * 32 + 7, 6, [0x1000 * 32], false⟩
def F.SRD_PRBS_CFG_locked : Fld := ⟨0x80000C * 32 + 13, 1, [0x1000 * 32], false⟩
def F.SRD_PRBS_ERR_count : Fld := ⟨0x800010 * 32 + 0, 32, [0x1000 * 32], false⟩
def F.SRD_SYM_ERR_count : Fld := ⟨0x800014 * 32 + 0, 32, [0x1000 * 32], false⟩
def F.LNK_LINK_CFG_en : Fld := ⟨0x840800 * 32 + 0, 4, [0x4000 * 32], true⟩
def F.LNK_LINK_STAT_up : Fld := ⟨0x840804 * 32 + 0, 4, [0x4000 * 32], false⟩
def F.LNK_LINK_STAT_lf : Fld := ⟨0x840804 * 32 + 4, 4, [0x4000 * 32], false⟩
def F.LNK_LINK_STAT_rf : Fld := ⟨0x840804 * 32 + 8, 4, [0x4000 * 32], false⟩
def F.LNK_LINK_STAT_down_ev : Fld := ⟨0x840804 * 32 + 12, 4, [0x4000 * 32], false⟩
def F.LNK_LINK_STAT_lanes : Fld := ⟨0x840804 * 32 + 16, 3, [0x4000 * 32], false⟩
def F.LNK_FEC_CORR_count : Fld := ⟨0x840820 * 32 + 0, 32, [0x4000 * 32], false⟩
def F.LNK_FEC_UNCORR_count : Fld := ⟨0x840824 * 32 + 0, 32, [0x4000 * 32], false⟩
def F.PRT_LINK_CFG_en : Fld := ⟨0x900000 * 32 + 0, 4, [0x20000 * 32], true⟩
def F.PRT_LINK_CFG_pmode : Fld := ⟨0x900000 * 32 + 4, 3, [0x20000 * 32], true⟩
def F.PRT_LINK_CFG_fec_off : Fld := ⟨0x900000 * 32 + 7, 1, [0x20000 * 32], true⟩
def F.PRT_LINK_CFG_lt : Fld := ⟨0x900000 * 32 + 8, 1, [0x20000 * 32], true⟩
def F.PRT_LINK_STAT_up : Fld := ⟨0x900004 * 32 + 0, 4, [0x20000 * 32], false⟩
def F.PRT_LINK_STAT_lf : Fld := ⟨0x900004 * 32 + 4, 4, [0x20000 * 32], false⟩
def F.PRT_LINK_STAT_rf : Fld := ⟨0x900004 * 32 + 8, 4, [0x20000 * 32], false⟩
def F.PRT_LINK_STAT_down_ev : Fld := ⟨0x900004 * 32 + 12, 4, [0x20000 * 32], false⟩
def F.PRT_LINK_STAT_lanes : Fld := ⟨0x900004 * 32 + 16, 3, [0x20000 * 32], false⟩
def F.PRT_SUB_CFG_max_len : Fld := ⟨0x900010 * 32 + 0, 14, [0x20000 * 32, 0x20 * 32], true⟩
def F.PRT_SUB_CFG_hdr_win : Fld := ⟨0x900010 * 32 + 14, 2, [0x20000 * 32, 0x20 * 32], true⟩
def F.PRT_SUB_CFG_pool : Fld := ⟨0x900010 * 32 + 16, 6, [0x20000 * 32, 0x20 * 32], true⟩
def F.PRT_CT_LEAD_ct_lead : Fld := ⟨0x900014 * 32 + 0, 14, [0x20000 * 32, 0x20 * 32], true⟩
def F.PRT_MAC_LO_mac : Fld := ⟨0x900018 * 32 + 0, 32, [0x20000 * 32, 0x20 * 32], true⟩
def F.PRT_MAC_HI_mac : Fld := ⟨0x90001C * 32 + 0, 16, [0x20000 * 32, 0x20 * 32], true⟩
def F.PRT_FEC_CORR_count : Fld := ⟨0x900020 * 32 + 0, 32, [0x20000 * 32, 0x20 * 32], false⟩
def F.PRT_FEC_UNCORR_count : Fld := ⟨0x900024 * 32 + 0, 32, [0x20000 * 32, 0x20 * 32], false⟩
def F.PRT_FRM_CFG_mode : Fld := ⟨0xA01000 * 32 + 0, 2, [0x20000 * 32, 0x100 * 32], true⟩
def F.PRT_FRM_CFG_conf_off : Fld := ⟨0xA01000 * 32 + 2, 2, [0x20000 * 32, 0x100 * 32], true⟩
def F.PRT_FRM_CFG_sci_tx : Fld := ⟨0xA01000 * 32 + 4, 1, [0x20000 * 32, 0x100 * 32], true⟩
def F.PRT_FRM_CFG_size : Fld := ⟨0xA01000 * 32 + 5, 2, [0x20000 * 32, 0x100 * 32], true⟩
def F.PRT_INGOT_RATE_num : Fld := ⟨0xA01004 * 32 + 0, 17, [0x20000 * 32, 0x100 * 32], true⟩
def F.PRT_INGOT_LEAD_close : Fld := ⟨0xA01008 * 32 + 0, 6, [0x20000 * 32, 0x100 * 32], true⟩
def F.PRT_REASM_CFG_tmo : Fld := ⟨0xA0100C * 32 + 0, 10, [0x20000 * 32, 0x100 * 32], true⟩
def F.PRT_INGOT_DA_LO_da_lo : Fld := ⟨0xA01010 * 32 + 0, 32, [0x20000 * 32, 0x100 * 32], true⟩
def F.PRT_INGOT_DA_HI_da_hi : Fld := ⟨0xA01014 * 32 + 0, 16, [0x20000 * 32, 0x100 * 32], true⟩
def F.PRT_RX_SCI_LO_sci_lo : Fld := ⟨0xA01018 * 32 + 0, 32, [0x20000 * 32, 0x100 * 32], true⟩
def F.PRT_RX_SCI_HI_sci_hi : Fld := ⟨0xA0101C * 32 + 0, 32, [0x20000 * 32, 0x100 * 32], true⟩
def F.PRT_FRM_STAT_rx_sync : Fld := ⟨0xA01020 * 32 + 0, 1, [0x20000 * 32, 0x100 * 32], false⟩
def F.PRT_FRM_STAT_tx_halt : Fld := ⟨0xA01020 * 32 + 1, 1, [0x20000 * 32, 0x100 * 32], false⟩
def F.PRT_FRM_STAT_late : Fld := ⟨0xA01020 * 32 + 8, 1, [0x20000 * 32, 0x100 * 32], false⟩
def F.PRT_FRM_STAT_gap : Fld := ⟨0xA01020 * 32 + 9, 1, [0x20000 * 32, 0x100 * 32], false⟩
def F.PRT_TAG_MAP_valid : Fld := ⟨0xA10000 * 32 + 0, 1, [0x20000 * 32, 0x4000 * 32, 0x4 * 32], true⟩
def F.PRT_TAG_MAP_host : Fld := ⟨0xA10000 * 32 + 1, 1, [0x20000 * 32, 0x4000 * 32, 0x4 * 32], true⟩
def F.PRT_TAG_MAP_client : Fld := ⟨0xA10000 * 32 + 2, 3, [0x20000 * 32, 0x4000 * 32, 0x4 * 32], true⟩
def F.PRT_TAG_MAP_sub_port : Fld := ⟨0xA10000 * 32 + 5, 2, [0x20000 * 32, 0x4000 * 32, 0x4 * 32], true⟩
def F.PRT_TAG_MAP_channel : Fld := ⟨0xA10000 * 32 + 8, 15, [0x20000 * 32, 0x4000 * 32, 0x4 * 32], true⟩

end Sys2Proof.Machine
end

