-- ==== Sys2Proof/Machine/State.lean ====
section
/-! DEFINITION. The state of the block as plain data, the reasons a step can stop, and the state after reset. -/
namespace Sys2Proof.Machine

/-! ### Chapters 05, 06: the vault, the roots, the channels and the associations -/

/-- A key slot (R128, Table 05.2).  `state`: 0 FREE, 1 VALID, 2 INVALID, 3 REVOKED; `type`: 0 TRAFFIC, 1 KEK,
2 DERIVE, 3 SIGN; `origin`: 0 INTERNAL, 1 LOADED_CLEAR, 2 UNWRAPPED, 3 DERIVED. -/
structure Slot where
  key : BitVec 256 := 0
  state : BitVec 2 := 0
  type : BitVec 2 := 0
  origin : BitVec 2 := 0
  klen : Bool := false
  inheritRevoke : Bool := true
  ephemeral : Bool := false
  txUsed : Bool := false
  bound : Bool := false
  depth : Nat := 0
  function : Nat := 0
  generation : Nat := 0
  parent : Word := 0
  count : Nat := 0
  deriving DecidableEq, Repr, Inhabited

/-- An OTP ownership slot (R147): hash, whether its CRC is good, and the two marker bits. -/
structure OwnerSlot where
  hash : BitVec 384 := 0
  crcGood : Bool := false
  started : Bool := false
  done : Bool := false
  deriving DecidableEq, Repr, Inhabited

/-- The vault outside its slots: the roots (R125), the battery domain's seal and store record (R141 to R144), the
OTP ownership slots (R147) and the revocation walk (R137). An erased seal word is `none`. `programming` is the ownership
slot that was programmed last and the instant (ns) by which its programming has ended. -/
structure Vault where
  slots : SMap Slot := []
  duk : Option (BitVec 256) := none
  rootReady : Bool := false
  sealA : Option (BitVec 256) := none
  sealB : Option (BitVec 256) := none
  sealSel : Bool := false
  rotStaged : Bool := false
  storeV : Nat := 0
  storePending : Bool := false
  digestConf : BitVec 64 := 0
  digestPend : BitVec 64 := 0
  owners : SMap OwnerSlot := []
  programming : Option (Nat × Nat) := none
  walkBusy : Bool := false
  walkPasses : Nat := 0
  walkRevoked : Nat := 0
  lastPasses : Nat := 0
  lastRevoked : Nat := 0
  exhaustedSaid : SMap Bool := []
  deriving DecidableEq, Repr, Inhabited

/-- A receive window that closes: the channel, the old SA's index, and the instant in ns of the elapsed-time count
(R169). -/
structure RxClose where
  channel : Nat
  sa : Nat
  due : Nat
  deriving DecidableEq, Repr

/-- The channel and association tables. -/
structure Assoc where
  channels : SMap Channel := []
  sas : SMap Sa := []
  closes : List RxClose := []
  deriving DecidableEq, Repr, Inhabited

/-! ### Chapters 07, 08: random numbers and time -/

/-- What a request for random bits is for (Table 07.1). -/
inductive RandUse
  | challenge (out : Nat)
  | exportStore (out len : Nat)
  | sealRotate
  | keyGen (handle : Word) (attr : DWord)
  | memKey (kid : Nat)
  | memKeysAll
  | linkSalt (port : Nat)
  | laIv (req : Nat)
  | host (out len : Nat)
  | claimSeal
  deriving DecidableEq, Repr

/-- A waiting request for random bits: its class, the blocks it still needs, and the blocks it has taken (R188). -/
structure RandReq where
  cls : Nat
  need : Nat
  got : List (BitVec 128) := []
  use : RandUse
  deriving DecidableEq, Repr

/-- A Brine source (R182, Table 07.4): whether its start-up test runs, the blocks of its window released but not yet
conditioned, and its consecutive failures (saturating at 15), with the run of identical samples in progress (R181). -/
structure Brine where
  running : Bool := false
  startTest : Bool := true
  restarting : Bool := false
  consec : Nat := 0
  degradedSaid : Bool := false
  last : Option Bool := none
  run : Nat := 0
  deriving DecidableEq, Repr, Inhabited

/-- The random number generator: the sources, the seed outputs no seed has used (R180), the DRBG's key and V, its
output FIFO (blocks `next` to 511 of the call made on `fifoState`), the waiting requests in arrival order, and the raw
FIFO of 64 words (R193). -/
structure Entropy where
  src0 : Brine := {}
  src1 : Brine := {}
  started : Bool := false
  katOk : Bool := false
  seed : List (BitVec 128) := []
  drbg : Option (BitVec 384) := none
  fifoState : BitVec 384 := 0
  fifoNext : Nat := 512
  calls : Nat := 0
  waiting : List RandReq := []
  raw : List Word := []
  deriving DecidableEq, Repr, Inhabited

/-- The clock's value (R194, Table 08.1) with its 48 hidden bits. -/
structure Clock where
  sec : Nat := 0
  ns : Nat := 0
  frac : Nat := 0
  low : Nat := 0
  deriving DecidableEq, Repr, Inhabited

/-- A change of rate that has been accepted and announced (R200): a new frequency word, or a new slew rate in
ns/s. -/
inductive RateChange
  | freq (f : Int)
  | slew (s : Int)
  deriving DecidableEq, Repr

/-- The time block: the clock, the elapsed-time count (R196), the rates in force and those announced with the instants of
the elapsed-time count at which they take effect (R200), what a slew has yet to absorb in 2^-64 ns, the epoch counter, and
the pin PPS_OUT. `acquired` says that a step or an acquisition has come (R206), `stackGot` that stack time has been
acquired (R216); `calHad` lists the lanes with a calibrated delay, `calUse` those whose delay may be used since their
link-up (R209). `txOff` is what each egress framer's mapping from its byte times to the clock lags behind the clock, in
2^-64 ns: the steps since the last departure that it captured (R211). -/
structure Tim where
  clock : Clock := {}
  elapsed : DWord := 0
  freq : Int := 0
  slew : Int := 0
  changes : List (Nat × RateChange) := []
  remain : Int := 0
  epoch : Nat := 0
  windowDone : Bool := false
  ppsOut : Bool := false
  ppsRose : Nat := 0
  lostAt : Nat := 0
  acquired : Bool := false
  stackGot : Bool := false
  calHad : List Nat := []
  calUse : List Nat := []
  txOff : SMap Int := []
  deriving DecidableEq, Repr, Inhabited

/-! ### Chapters 02, 03, 04: frames, ingots and Pans -/

/-- A learn request (R256). -/
structure Learn where
  key : DWord
  dest : Word
  port : Nat
  deriving DecidableEq, Repr

/-- Where a frame inside the part is. -/
inductive FStage
  | pool                     -- whole in its ingress pool, waiting for a free Ladle thread
  | ladle (thread : Nat)     -- a frame program runs on it
  | admission                -- emitted; reaches Pan admission next
  | pan                      -- a SEAL is in a Pan
  | opening                  -- emitted; its OPEN has no verdict yet
  | held                     -- verdict passed or none needed; waits for the Sluice
  | queued                   -- ready in its Sluice queue
  | sending                  -- a framer has selected or started it
  | gone                     -- its path has ended; its OPEN has no verdict yet
  deriving DecidableEq, Repr

/-- What the early SA lookup of R102 found for a line frame; `fail` is the reason for which the part will drop it, or 0, and
`testFail` says that a test of R68 or R85 or the replay pre-check failed (R312). -/
structure Early where
  hit : Bool := false
  handle : Word := 0
  an : Nat := 0
  channel : Nat := 0
  opened : Bool := false
  fail : Nat := 0
  testFail : Bool := false
  deriving DecidableEq, Repr, Inhabited

/-- A frame in the part, FCS excluded. `entry` numbers ports as Table 02.5; `cut` says that a client framer started it before its verdict; `early` is the early lookup's result,
`sa` and `pn` the association and packet number of its SEAL or OPEN, `icvOk` whether the ICV matches, `verdict` 0 passed, 1 ICV failure, 2 replay
failure; `coming` a frame whose last byte has not arrived, with the learn request that its lookup left (R32, R256), `lost`
the reason for which the part has dropped it before its last byte, which counts it, and `taken` what each `mtr` took for it:
meter, colour, bytes, and whether tokens were taken (R234); `kid` the memory key ID of its buffer (R274) and `lines` its lines in the HBM data region, its descriptor's first (R283); `queue` the Sluice queue that counts it, with `stored`
bytes from the instant `entered` (ns); `len` the length N that is charged; `sealWith` the cipher width, key, IV,
SecTAG length and clear bytes of its seal, which its framer needs for an insertion (R213); `host` the
exception-out ring, cookie, flags (bit 0 ts_req, bit 1 one_step) and correction-field offset of its descriptor;
`hostWaits` the emissions to the driver (ring, reason, program data) that wait for the verdict; `stack` the SA handle, port of entry and sub-port
of a stack frame's header (Table 16.3); `ringSealed` a frame
that came sealed over the Runner ring; `verdictAt` the instant of its verdict (ns of the elapsed-time count). -/
structure Frame where
  data : Bytes := []
  entry : Nat := 0
  sub : Nat := 0
  stage : FStage := .pool
  ts : Clock := {}
  tsValid : Bool := false
  summary : Nat := 0
  dest : Word := 0
  progData : Word := 0
  reason : Nat := 0
  sealMark : Option Word := none
  channel : Option Nat := none
  colour : Nat := 0
  cls : Nat := 0
  early : Option Early := none
  sa : Option Nat := none
  pn : Nat := 0
  verdict : Option Nat := none
  cut : Bool := false
  icvOk : Bool := true
  bound : Option Word := none
  plain : Bytes := []
  outPort : Nat := 0
  outSub : Nat := 0
  depMark : Option Nat := none
  poisoned : Bool := false
  inHbm : Bool := false
  coming : Bool := false
  learn : Option Learn := none
  lost : Option Nat := none
  taken : List (Nat × Nat × Nat × Bool) := []
  kid : Option Nat := none
  lines : List Nat := []
  die : List Nat := []
  ingot : Bool := false
  queue : Option Nat := none
  stored : Nat := 0
  len : Nat := 0
  sealWith : Option (Bool × BitVec 256 × BitVec 96 × Nat × Nat) := none
  entered : Nat := 0
  host : Option (Option Nat × DWord × Nat × Nat) := none
  stack : Option (Word × Nat × Nat) := none
  hostWaits : List (Nat × Nat × Word) := []
  ringSealed : Bool := false
  verdictAt : Nat := 0
  deriving DecidableEq, Repr, Inhabited

/-- A segment of an ingot body (R74, R75): type, class, tag, the frame and offset its data comes from, and the data. -/
structure Segment where
  type : Nat
  cls : Nat
  tag : Nat
  frame : Nat
  off : Nat
  data : Bytes
  deriving DecidableEq, Repr

/-- What a selection changed, kept until the frame has started, for the refund of R241: the frame, its queue and
class, the charge and the tags before. -/
structure Picked where
  frame : Nat
  queue : Nat
  port : Nat
  cls : Nat
  charge : Nat
  queueTag : Nat
  classTag : Nat
  classClock : Nat
  portClock : Nat
  deriving DecidableEq, Repr

/-- A transmit slot that has been allocated (R78): its number, association and packet number, the departure field, its header
and the keystream's cipher width, key and IV, what has happened to it since, and the selections it holds. -/
structure TxSlot where
  seq : Nat
  sa : Nat
  pn : Nat
  an : Nat
  departure : Nat
  head : Bytes
  cipher : Bool × BitVec 256 × BitVec 96
  keystream : Bool := false
  closed : Bool := false
  segments : List Segment := []
  picks : List Picked := []
  dross : Bool := false
  ready : Bool := false
  deriving DecidableEq, Repr

/-- A reassembly context (R87, R89): the tag, the data so far, its class and tag-map entry, and the verdict instant of
its latest segment in ns of the elapsed-time count. -/
structure Reasm where
  tag : Nat
  cls : Nat
  entry : Nat
  data : Bytes
  last : Nat
  die : List Nat := []
  deriving DecidableEq, Repr

/-- An ingot line sub-port: transmit and receive side (R72, R85 to R89). -/
structure IngotPort where
  nextSeq : Nat := 0
  slots : List TxSlot := []
  partials : List (Nat × Nat) := []
  halted : Bool := false
  rxSync : Bool := false
  rxSeq : Nat := 0
  rxSa : Option (Nat × Nat) := none
  contexts : List Reasm := []
  deriving DecidableEq, Repr, Inhabited

/-- A look-aside request (Table 02.7) from its fetch to its completion: its pair and owning function, the copy of the
key, the staging key ID and the staging lines in the HBM data region (R22) that it holds once admitted, its data, and its status once it is known. -/
structure LaReq where
  pair : Nat
  fn : Nat
  enc : Bool
  handle : Word
  cookie : DWord
  msgLen : Nat
  aadLen : Nat
  src : Nat
  dst : Nat
  aadAt : Nat
  iv : BitVec 96
  msg : Bytes := []
  aad : Bytes := []
  key : Option (Bool × BitVec 256) := none
  kid : Nat := 2
  lines : List Nat := []
  status : Option Nat := none
  admitted : Bool := false
  waitsRandom : Bool := false
  discarded : Bool := false
  deriving DecidableEq, Repr

/-- The kinds of Pan request (R98, Table 04.2). -/
inductive ReqKind
  | sealing | opening | kstream | laEnc | laDec | cmac
  deriving DecidableEq, Repr

/-- A request admitted to a Pan: its kind, the Pan, the key slot and generation, its subject (a frame, a look-aside
request, a line sub-port and slot number, or a key sequencer), the 128-bit blocks it needs, how often it was replayed, the
Pan that found the error of its last replay, 24 before one (R114), and whether its Pan has served it, so that it waits for
its ring's order alone. -/
structure PanReq where
  kind : ReqKind
  pan : Nat
  slot : Nat
  gen : Nat
  subject : Nat
  seq : Nat := 0
  blocks : Nat := 0
  replays : Nat := 0
  avoid : Nat := 24
  served : Bool := false
  deriving DecidableEq, Repr

/-- An entry of a Pan's key cache (R105): its tags, the key with its length, and H = E(K, 0^128). -/
structure CachedKey where
  slot : Nat
  gen : Nat
  klen : Bool
  key : BitVec 256
  h : BitVec 128
  deriving DecidableEq, Repr

/-- The Pans: requests in admission order, each Pan's key cache, most recent first, whether the
stop line has reached CK_CORE, the line ports taken down for want of an opening Pan (R101), whether each Pan's last test
passed, and the state a Pan under test came from. A request on Pan 24 is held by the dispatcher (R100). -/
structure Pans where
  reqs : SMap (Option PanReq) := []
  caches : SMap (List CachedKey) := []
  stopped : Bool := false
  downPorts : List Nat := []
  tested : SMap Bool := []
  katFrom : SMap Nat := []
  deriving DecidableEq, Repr, Inhabited

/-- The frame paths: the frames inside the part by number, ingot ports, look-aside requests. -/
structure Paths where
  frames : SMap (Option Frame) := []
  next : Nat := 1
  ingots : SMap IngotPort := []
  la : SMap (Option LaReq) := []
  laNext : Nat := 1
  laTurn : Nat := 0
  reqNext : Nat := 1
  deriving DecidableEq, Repr, Inhabited

/-! ### Chapters 09, 10, 11: the Sluice, the forwarding table and the buffer -/

/-- A queue's configuration (Table 09.8, table 0). Limits and share are in KiB. -/
structure QueueCfg where
  en : Bool := false
  transit : Bool := false
  port : Nat := 0
  cls : Nat := 0
  weight : Nat := 1
  limitG : Nat := 512
  limitY : Nat := 256
  odShare : Nat := 256
  deriving DecidableEq, Repr, Inhabited

/-- A queue's contents: its frames, oldest first, its stored bytes, and its finish tag (R228). -/
structure QueueSt where
  frames : List Nat := []
  bytes : Nat := 0
  tag : Nat := 0
  deriving DecidableEq, Repr, Inhabited

/-- A shaper (R229): configuration, bucket levels in units of 2^-32 bytes, and the instant of its next refill in ns of
the elapsed-time count. Rates, sizes and *k* written by a COMMIT wait in `next` for that refill (R231). -/
structure Shaper where
  en : Bool := false
  k : Nat := 0
  cir : Nat := 0
  cbs : Nat := 16128
  pir : Nat := 0
  pbs : Nat := 16128
  cb : Int := 16128 * 4294967296
  pb : Int := 16128 * 4294967296
  next : Option (Nat × Nat × Nat × Nat × Nat) := none
  due : Nat := 128
  deriving DecidableEq, Repr, Inhabited

/-- A meter (R232): configuration, bucket levels in units of 2^-32 bytes, and the elapsed-time count (ns) of its last
use. -/
structure Meter where
  en : Bool := false
  rfc4115 : Bool := false
  aware : Bool := false
  pass : Bool := false
  cir : Nat := 0
  cbs : Nat := 16128
  pir : Nat := 0
  pbs : Nat := 16128
  cb : Nat := 16128 * 4294967296
  pb : Nat := 16128 * 4294967296
  last : Nat := 0
  deriving DecidableEq, Repr, Inhabited

/-- A gate list as installed (R240): base and cycle in ns, entries (interval, gates). -/
structure GateList where
  base : Nat := 0
  cycle : Nat := 1000000
  entries : List (Nat × Nat) := []
  deriving DecidableEq, Repr, Inhabited

/-- The Sluice (chapter 09). Queues are keyed by index; class keys are *s* × 8 + *c*. `staged` holds the entries of
the indirect window that wait for COMMIT, as (table, index, words, writer), and `swapAsked` the ports whose gate list swap does. `samplePeriod` numbers the sampling period, `sampleDue` is the instant
at which the next one starts (ns of the elapsed-time count), `sampleList` and `sampleLen` the list and the period in ns in
use, and `sampleNext` those of the last COMMIT, which the next period takes up (R245). -/
structure Sluice where
  cfgs : SMap (Option QueueCfg) := []
  queues : SMap QueueSt := []
  qshapers : SMap Shaper := []
  cshapers : SMap Shaper := []
  meters : SMap Meter := []
  classTag : SMap Nat := []
  classClock : SMap Nat := []
  portClock : SMap Nat := []
  staged : List (Nat × Nat × List Nat × Nat) := []
  lists : SMap (Option GateList) := []
  pendingLists : SMap (Option (GateList × Nat)) := []
  picked : SMap (Option Picked) := []
  samplePeriod : Nat := 0
  sampling : Bool := false
  sampleDue : Nat := 0
  sampleList : List Nat := []
  sampleLen : Nat := 1000
  sampleNext : Option (List Nat × Nat) := none
  swapAsked : List Nat := []
  deriving DecidableEq, Repr, Inhabited

/-- A special pass of the Rake (R267): FWD_FLUSH with its value, mask and static bit, or FWD_RECOUNT. -/
inductive RakePass
  | flush (value mask : DWord) (static : Bool)
  | recount
  deriving DecidableEq, Repr

/-- The forwarding table by slot (way × 65,536 + row), the learn queue, and the Rake: its position, the length in s of the
pass in progress, the instant in ns of the elapsed-time count at which that pass started, or would have, and the special
pass in progress with its position and start. `bad` lists the words of slots that have gone bad and that nothing has read
since (R268). -/
structure Forwarding where
  table : SMap (Option FwdEntry) := []
  learns : List Learn := []
  rake : Nat := 0
  passLen : Nat := 300
  passStart : Int := 0
  special : Option (RakePass × Nat × Nat) := none
  bad : SMap (BitVec 4) := []
  deriving DecidableEq, Repr, Inhabited

/-- The two keys of a memory key ID (R275). -/
structure KidKeys where
  enc : BitVec 256
  tag : BitVec 256
  deriving DecidableEq, Repr

/-- A line of the HBM data region as it was last written (R277): its ciphertext, the key ID of its writer, and whether it is
marked poisoned (R284). -/
structure HbmLine where
  cipher : Bytes
  kid : Nat
  poisoned : Bool := false
  deriving DecidableEq, Repr

/-- A counter-tree node in the HBM (R279): its counters, and its protection entry, the MAC and the eight SECDED check bytes. A
leaf has the minors of its 64 lines as counters 0 to 63 and its major as counter 64, a higher node its eight children's as
counters 0 to 7. -/
structure TreeNode where
  ctr : SMap Nat
  mac : DWord
  check : DWord
  deriving DecidableEq, Repr

/-- A verified node in the counter-tree cache (R280). -/
structure CacheNode where
  key : Nat
  ctr : SMap Nat
  dirty : Bool
  deriving DecidableEq, Repr

/-- The buffer's protection (chapter 11): key ID states (0 UNLOADED, 1 ACTIVE, 2 FLUSHING, 3 FLUSHED, 4 RETIRED) and keys; the
on-die lines that are not zero, each in plaintext with the key ID of its last write (R276); the
written lines of the data region and their tags; the counter tree, its nodes keyed by level × 2^24 + number (one not listed
stands as it was initialised, all counters 0), the cache of verified nodes, most recent first, and the root's 220 counters;
the poison map by leaf; the upper nodes that have failed, each with the leaves under it that the map has taken since (R285);
and whether the HBM is refreshed at twice its rate (R562). -/
structure Buffer where
  states : SMap Nat := []
  keys : SMap (Option KidKeys) := []
  die : SMap (Option (Bytes × Nat)) := []
  lines : SMap (Option HbmLine) := []
  tags : SMap DWord := []
  nodes : SMap (Option TreeNode) := []
  cache : List CacheNode := []
  root : SMap Nat := []
  poison : SMap (BitVec 64) := []
  badUpper : SMap (Option (List Nat)) := []
  refreshTwice : Bool := false
  deriving DecidableEq, Repr, Inhabited

/-! ### Chapters 12, 13: the program engines, their images and the order engine -/

/-- A program image (R333, Table 13.2), with its measurement (R334). -/
structure Image where
  id : Word := 0
  version : Word := 0
  measurement : BitVec 384 := 0
  entry : Nat := 0
  budget : Nat := 0
  entries : List Nat := []
  code : Bytes := []
  table : Bytes := []
  large : Bool := false
  deriving DecidableEq, Repr, Inhabited

/-- An image target (R335, Table 13.3): the active image, its copy in the HBM under the key ID 30 (R340), the pending bank's
image, whether the old bank is still in use (R338), and which bank is active. -/
structure ImgTarget where
  active : Option Image := none
  copy : Option Image := none
  pending : Option Image := none
  oldBusy : Bool := false
  bank : Bool := false
  deriving DecidableEq, Repr, Inhabited

/-- The state every Fleli engine or thread has (R290, R291, R303): g0 is never listed in `g`. `old` says the run
started on the image of the old bank (R338), `offload` the register and value of a result under way (R254). `fetchEcc` and
`dataEcc` say that the next instruction word fetched, or the next data word read, has an uncorrectable error (R327). -/
structure EngCtx where
  g : SMap DWord := []
  pc : Nat := 0
  issued : Nat := 0
  running : Bool := false
  halted : Bool := false
  stepOne : Bool := false
  bpPassed : Bool := false
  offload : Option (Nat × DWord) := none
  old : Bool := false
  fetchEcc : Bool := false
  dataEcc : Bool := false
  deriving DecidableEq, Repr, Inhabited

/-- What a Ladle thread holds for its frame: the frame's number, the header as edited and the bytes behind it, the extra window, and what the
program has marked (R299, R307 to R317). -/
structure FrameCtx where
  frame : Nat := 0
  header : Bytes := []
  rest : Bytes := []
  netEdit : Int := 0
  extra : Bytes := []
  extraValid : Nat := 0
  sealMark : Option Word := none
  copenDone : Bool := false
  bound : Option Word := none
  colour : Nat := 0
  metered : Nat := 0
  redDrop : Bool := false
  copies : Nat := 0
  lkpDone : Bool := false
  excess : Bool := false
  depMark : Option Nat := none
  deriving DecidableEq, Repr, Inhabited

/-- A transient k register of a key sequencer (R318): a key, and the attributes of its blob when it comes from
`kunwrap`. -/
structure Transient where
  key : BitVec 256 := 0
  klen : Bool := false
  unwrapped : Bool := false
  type : BitVec 2 := 0
  inheritRevoke : Bool := false
  ephemeral : Bool := false
  count : Nat := 0
  parent : Word := 0
  depth : Nat := 0
  deriving DecidableEq, Repr, Inhabited

/-- What a key sequencer does when the CMAC requests it waits for complete (R319, R320): a derived key goes into
transient `m`, a tag to a local address, or the result of a comparison to the status register `d`. -/
inductive CmacWait
  | derive (d m : Nat) (t : Transient)
  | tagWrite (d addr : Nat) (tag : BitVec 128)
  | tagCompare (d : Nat) (differs : Bool)
  deriving DecidableEq, Repr

/-- A key sequencer engine's run: the slot whose image it runs, the handles in k0 to k7, the transients in k8 to k15, and the entries its run has
staged (R295, R318, R321). -/
structure KsqCtx where
  slot : Nat := 0
  handles : SMap Word := []
  transients : SMap (Option Transient) := []
  targets : List Nat := []
  cmac : Option CmacWait := none
  cmacFail : Bool := false
  deriving DecidableEq, Repr, Inhabited

/-- A staged entry of an order block (R131, R158, R322). -/
inductive Staged
  | key (slot : Nat) (record : Slot) (hadGen : Option Nat) (parent : Option Word) (modes : List Mode)
  | release (slot : Nat) (gen : Nat) (force : Bool)
  | chSet (ch : Nat) (cfg : Channel)
  | chClear (ch : Nat)
  | saInstall (index : Nat) (sa : Sa)
  | saRetire (handle : Word)
  | schedule (ch : Nat) (cur next : Word) (epoch : Nat)
  | schedCancel (ch : Nat)
  | fwdAdd (key : DWord) (dest : Word) (static : Bool)
  | fwdDel (key : DWord)
  | imgActivate (target : Nat)
  | pairKey (handle : Word)
  | stackKey (handle : Word)
  | modeSet (fromMode toMode : Mode) (drain : Option Mode)
  deriving DecidableEq, Repr

/-- The result of an order (R342): status, detail word and, for an order that returns one, the return bytes. -/
structure OrdRes where
  status : Nat := 0
  detail : Nat := 0
  ret : Option Nat := none
  deriving DecidableEq, Repr, Inhabited

/-- What the order engine's present order waits for. -/
inductive OrdWait
  | none | random | ksq | relay | transfer | rake | cmac
  deriving DecidableEq, Repr, Inhabited

/-- The order engine (R341, R342): the running block and what it has staged. `pos` is the parameter offset of the
interpreter's next record and `index` its number; `res` is the last order's result, `lastRet` the last returned value;
`callReg` the register that the `ocall` in progress writes; `stagedKsq` the outputs that the running derivation has
staged; `owait` the wait in progress as (register, on the epoch counter, value, limit in µs); `ended` a result that
waits for a mode change to be applied (R360); `cmacOut` the buffer and the bytes of an order that waits for the CMAC of a
key check value; `relay` whether the block came by a relay (R429). -/
structure OrdEng where
  busy : Bool := false
  ring : Nat := 0
  lastRing : Nat := 3
  cookie : DWord := 0
  entry : Nat := 0
  paramLen : Nat := 0
  pos : Nat := 0
  index : Nat := 0
  staged : List Staged := []
  regWrites : List (Nat × Word) := []
  res : OrdRes := {}
  lastRet : Nat := 0
  stagedKsq : List Staged := []
  wait : OrdWait := .none
  callReg : Option Nat := none
  owait : Option (Nat × Bool × Nat × Nat) := none
  discardCompletion : Bool := false
  ended : Option OrdRes := none
  relay : Bool := false
  heldFill : Bool := false
  cmacOut : Option (DWord × Bytes) := none
  deriving DecidableEq, Repr, Inhabited

/-- An instruction chosen by precise sampling whose result its thread does not have yet (R351): Ladle, thread, instruction word
and word address in the quadrant's instruction memory. -/
structure Sampled where
  ladle : Nat
  thread : Nat
  encoding : Word
  addr : Nat
  deriving DecidableEq, Repr

/-- An instruction that a Ladle issued: its thread, its result latency (Tables 12.8, 12.9) and the register that has its result
then; none for one that its whole thread waits for. -/
structure Issued where
  thread : Nat
  latency : Nat
  dest : Option Nat
  deriving DecidableEq, Repr

/-- The program engines. Engine keys: Ladle *m* thread *t* is 4*m* + *t*; key sequencers 1024 and 1025; the order
engine 1026; the always-on sequencer 1027. `recent` lists the last 40 instructions that a Ladle issued, most recent first
(R293); `smpFilled` says that a quadrant's sample buffer has been written to its end (R351); `testing` is the Ladle out of the pool for its core test (R409),
`sampleCount` each quadrant's instructions since its last sample. -/
structure Engines where
  ctx : SMap EngCtx := []
  recent : SMap (List Issued) := []
  frames : SMap FrameCtx := []
  ksq : SMap KsqCtx := []
  targets : SMap ImgTarget := []
  testing : Option Nat := none
  vigilPend : Nat := 0
  vigilCauses : Nat := 0
  vigilErased : Bool := false
  vigilCrcBad : Bool := false
  vigilReports : List (Nat × Bool × Nat) := []
  note : SMap Word := []
  sampleCount : SMap Nat := []
  smpFilled : SMap Bool := []
  sampled : List Sampled := []
  deriving DecidableEq, Repr, Inhabited

/-! ### Chapters 14, 15: the mode controller and start-up -/

/-- An owner authorisation (R363), valid until `until` in ns of the elapsed-time count. -/
structure Auth where
  challenge : Bytes := []
  fromMode : Nat
  toMode : Nat
  flags : Nat
  ends : Nat
  deriving DecidableEq, Repr

/-- The mode controller (chapter 14). `blocked` is the end of the block of R364, `pendingMode` the transition that a
COMMIT requested and its drain target, `drainEnds` the instant (ns) of the drain timeout, `heldLockdown` the source of a LOCKDOWN response held in WAKE (R396), `zeroizing` the cause and start of the zeroization in progress,
`transfer` the hash of the next owner that it makes way for (R147). -/
structure ModeCtl where
  mode : Mode := .wake
  power : Nat := 0
  dbg : Nat := 0
  d3Taint : Bool := false
  auth : Option Auth := none
  challenge : Option Bytes := none
  pinOk : Option Nat := none
  fails : Nat := 0
  blocked : Option Nat := none
  tkDis : Bool := false
  drainTo : Option Mode := none
  drainEnds : Nat := 0
  pendingMode : Option (Mode × Option Mode) := none
  heldLockdown : Option Nat := none
  zeroizing : Option (Nat × Nat) := none
  transfer : Option (BitVec 384) := none
  deriving DecidableEq, Repr, Inhabited

/-- Start-up (chapter 15): whether the always-on domain takes its supply from the cell, whether RESET_N is held low,
whether start-up has reached step 7, whether a start has failed, the PUF reads made, whether the OTP's CRCs are good,
the D3 request judged at the release of RESET_N, and the end of the presence bit in ns of the elapsed-time count. -/
structure StartUp where
  onCell : Bool := false
  resetHeld : Bool := false
  done : Bool := false
  failed : Bool := false
  pufReads : Nat := 0
  otpGood : Bool := true
  d3AtRelease : Bool := false
  presenceEnds : Option Nat := none
  deriving DecidableEq, Repr, Inhabited

/-! ### Chapters 16, 17, 18, 21: pair and stack, faults, craft panel, lanes and ports -/

/-- A link session (R413): the keys of the two directions, the two salts, and the next link sequence to send. -/
structure LinkSession where
  txKey : BitVec 256
  rxKey : BitVec 256
  txSalt : BitVec 96
  rxSalt : BitVec 96
  seq : Nat := 1
  deriving DecidableEq, Repr

/-- What key sequencer engine 1 does for a link (R332): the key check value of the HELLO that will carry a salt, or the two
derivations of a session, with the slot, its generation, the session that they give, and the peer's STACK_ID and device;
`void` a job of a link that has gone down since. -/
inductive LinkJob
  | hello (link slot : Nat) (salt : BitVec 96)
  | session (link slot gen : Nat) (keys : LinkSession) (peerId : Nat) (peerDev : DWord)
  | void
  deriving DecidableEq, Repr

/-- A stack member as its keepalives show it (R423): mode, holding, claim, device_id, the hop counts by Runner port 0 and 1 with
the instants (ns) last heard there, and the instant last heard on either. -/
structure Member where
  mode : Nat := 0
  holding : Bool := false
  claim : Nat := 0
  device : DWord := 0
  hops0 : Nat := 0
  hops1 : Nat := 0
  heard0 : Option Nat := none
  heard1 : Option Nat := none
  present : Bool := false
  heard : Nat := 0
  deriving DecidableEq, Repr, Inhabited

/-- The tables as the last pair cycle's snapshot saw them (R415). -/
structure CopySnap where
  slots : SMap Slot := []
  sas : SMap Sa := []
  channels : SMap Channel := []
  fwd : SMap (Option FwdEntry) := []
  meters : SMap Meter := []
  shapers : SMap Shaper := []
  cshapers : SMap Shaper := []
  deriving DecidableEq, Repr, Inhabited

/-- The pair and the stack (chapter 16). Links are numbered 0 and 1 for the Runner ports and 2 for the pair port.
`peerSrc` is 0 none, 1 pair link, 2 sideband; instants are in ns of the elapsed-time count. `deferSince` is the start of
the revert count, `fecBad` the FEC condition of Table 16.1, `held` since when the conditions have allowed each grade without a
break, `holdSince` since when the comparison has given the claim to this part, `finalGot` whether the final copy of the peer's
yield has been applied, `cycleAt` the end of the last pair cycle, `snap` what the holder's copies have carried, `nextBucket` the key
of the last bucket level sent, `commits` the commit records not yet sent, `unacked` the cycles not yet acknowledged, `early` the
cycles received before the end of the bulk copy, `hellos` and `salts` a HELLO exchange in progress,
`jobs` the jobs of key sequencer engine 1, `jobOn` whether
the first has its requests admitted, `neighbours` the device behind each Runner link, `actingOther` a device that sends TIME words as acting master, and
`relayTo` the member whose result a STACK_RELAY awaits, with the instant it was sent. -/
structure PairStack where
  straps : Nat := 0
  pairRole : Bool := false
  link : Nat := 0
  peerClaim : Nat := 0
  peerSrc : Nat := 0
  peerHolding : Bool := false
  peerPresent : Bool := false
  heardSide : Nat := 0
  fecBad : Bool := false
  grade : Nat := 0
  held : SMap (Option Nat) := []
  holdSince : Option Nat := none
  finalGot : Bool := false
  deferSince : Option Nat := none
  reverted : Bool := false
  sideSeq : Nat := 0
  cycle : Nat := 0
  appliedCycle : Nat := 0
  markerMisses : Nat := 0
  markerAt : Nat := 0
  cycleAt : Nat := 0
  snap : CopySnap := {}
  nextBucket : Nat := 0
  early : List PairCycle := []
  commits : List (Nat × List CopyItem) := []
  unacked : List PairCycle := []
  commitSeq : Nat := 0
  peerCommitSeq : Nat := 0
  yieldAt : Option Nat := none
  selOut : Bool := false
  pairKey : Option Word := none
  stackKey : Option Word := none
  sessions : SMap (Option LinkSession) := []
  salts : SMap (Option (BitVec 96)) := []
  hellos : SMap (Option PeerHello) := []
  jobs : List LinkJob := []
  jobOn : Bool := false
  neighbours : SMap (Option (Nat × DWord)) := []
  linkUp : List Nat := []
  members : SMap Member := []
  acting : Bool := false
  actingOther : Option Nat := none
  masterLost : Bool := false
  masterHeard : Nat := 0
  relayTo : Option (Nat × Nat) := none
  seqLimits : SMap Nat := []
  deriving DecidableEq, Repr, Inhabited

/-- A fault channel (R437): its class and number, its transient errors' instants (ms), its consecutive failed
retries, and whether it is retired. -/
structure FaultChan where
  times : List Nat := []
  fails : Nat := 0
  retired : Bool := false
  deriving DecidableEq, Repr, Inhabited

/-- A fault class's handler (R439): the channel whose error it is recovering, and the channels of the errors that
wait. -/
structure FaultClass where
  current : Option Nat := none
  waiting : List Nat := []
  deriving DecidableEq, Repr, Inhabited

/-- Faults, alarms and tamper (chapter 17): the classes, the channels (class × 65,536 + channel), the instants (µs)
of integrity code mismatches, the sticky flags and whether their CRC is good, and the readings of the sensors. -/
structure Faults where
  classes : SMap FaultClass := []
  chans : SMap FaultChan := []
  iicTimes : List Nat := []
  flags : Word := 0
  flagsCrcBad : Bool := false
  cause : Nat := 0
  tempLow : Int := 0
  tempHigh : Int := 0
  coldRun : Nat := 0
  hotRun : Nat := 0
  meshLfsr : BitVec 16 := 1
  deriving DecidableEq, Repr, Inhabited

/-- A panel input (R458): its filtered value (true in its active state), an electrode's last reading, the instants (ns)
of the level changes of the last second, and whether it is held for chatter or stuck. `since` is the instant of the last
filtered change. -/
structure PanelIn where
  filt : Bool := false
  raw : Bool := false
  changes : List Nat := []
  chatter : Bool := false
  chatterEnds : Nat := 0
  stuck : Bool := false
  since : Nat := 0
  deriving DecidableEq, Repr, Inhabited

/-- A blob in the fill port: clear or wrapped form, and the bytes after the form byte. -/
structure FillBlob where
  clear : Bool
  data : Bytes
  ends : Nat := 0
  deriving DecidableEq, Repr

/-- The PIN record (R465). -/
structure PinRecord where
  length : Nat
  verifier : BitVec 128
  deriving DecidableEq, Repr

/-- The craft panel (chapter 18). `entry` is the PIN entry in progress, `released` the instant of its last release, `first` the first entry of an enrolment;
`touches` lists the electrodes whose touch the keypad has taken, `ignored` those whose touch began while another read
touched (R463); `answering` is a blob whose ACK is being clocked out (R471); `touchAt`, `wrongAt`, `ackAt` and `nakAt` are the instants of the last
counted touch, wrong entry, ACK to a KEYBLOB and NAK, which the LEDs show (R474). -/
structure Panel where
  inputs : SMap PanelIn := []
  pressedFor : Option Nat := none
  pin : Option PinRecord := none
  fails : Nat := 0
  lockEnds : Option Nat := none
  entry : List Nat := []
  released : Nat := 0
  touches : List Nat := []
  ignored : List Nat := []
  enrolEnds : Option Nat := none
  first : Option (List Nat) := none
  session : Bool := false
  answering : Option FillBlob := none
  held : Option FillBlob := none
  touchAt : Option Nat := none
  wrongAt : Option Nat := none
  ackAt : Option Nat := none
  nakAt : Option Nat := none
  deriving DecidableEq, Repr, Inhabited

/-- Lanes and ports (chapter 21): the lanes of the link ports that have left the rotation, the lanes in electrical idle in
REST, whose receivers keep their adapted values (R543), and the injected errors of each lane. -/
structure Lanes where
  linkRetired : List Nat := []
  idle : List Nat := []
  injected : SMap Nat := []
  trained : SMap (Option Nat) := []
  deriving DecidableEq, Repr, Inhabited

/-! ### Chapters 19, 20: the recorder, the statistics and the host interface -/

/-- An event that waits for the recorder: its code, source and payload items as (size in bytes, value) (R479). -/
structure EvReq where
  code : Nat
  source : Nat
  items : List (Nat × Nat) := []
  start : Bool := false
  deriving DecidableEq, Repr

/-- The event recorder (chapter 19). `used` is the number of ring words from `oldest` to `wr`; `intake` holds the
accepted events not yet written (at most 256); `tokens` and `win` are the bucket and the window in force of a limitable
code, `supp` its pending count; `drainSeq` and `drainPos` name the next record to drain. -/
structure Recorder where
  started : Bool := false
  startLog : List EvReq := []
  startLost : Nat := 0
  ring : SMap DWord := []
  wr : Nat := 0
  oldest : Nat := 0
  used : Nat := 0
  nextSeq : Nat := 0
  intake : List EvReq := []
  tokens : SMap Nat := []
  win : SMap Nat := []
  supp : SMap Nat := []
  drainSeq : Nat := 0
  drainPos : Nat := 0
  lastDrained : Option Nat := none
  deriving DecidableEq, Repr, Inhabited

/-- The statistics: 64-bit counters of spaces 0 and 1, and their lost marks (R489, R492). -/
structure Stats where
  space0 : SMap DWord := []
  space1 : SMap DWord := []
  lost0 : SMap Bool := []
  lost1 : SMap Bool := []
  deriving DecidableEq, Repr, Inhabited

/-- A buffer of an exception-in ring that has been taken and whose descriptor is not written yet (R50): the frame whose
verdict it awaits, 0 for none, and the descriptor once it is known. -/
structure BufWait where
  frame : Nat
  desc : Option Bytes
  deriving DecidableEq, Repr

/-- A DMA ring's counts (R518), the completions reserved in it (R519), whether an error stopped it (R521), and the
buffers taken behind the last descriptor written, oldest first. -/
structure Ring where
  drv : Word := 0
  own : Word := 0
  reserved : Nat := 0
  stopped : Bool := false
  waits : List BufWait := []
  deriving DecidableEq, Repr, Inhabited

/-- What the block gives to the outside: the model's own record of it, oldest first. -/
inductive Output
  | hostWrite (fn : Nat) (addr : Nat) (data : Bytes)
  | msix (fn vector : Nat)
  | unsupported
  | value (v : Nat)
  | smbus (data : Bytes)
  | doe (data : Bytes)
  | frame (port sub : Nat) (data : Bytes) (stomped : Bool)
  | ingot (line sub : Nat) (data : Bytes)
  | idleSlot (line sub : Nat)
  | claimTx (data : Bytes)
  | claimWord (claim status : Byte)
  | hello (link : Nat) (h : PeerHello)
  | laneWord (lane : Nat)
  | linkWord (port : Nat) (kind : Nat) (data : Bytes)
  | fill (data : Bytes)
  deriving DecidableEq, Repr

/-- The host interface (chapter 20): the rings, MSI-X, Bus Master Enable per function, owed DMA writes, the
configuration check and SMBus. `holdEnds` is when a vector's holdoff ends, `smbEnds` when the arming of RESTART does; `writers` is the writer of each shadow, by its key (R571). -/
structure HostIf where
  rings : SMap Ring := []
  bme : SMap Bool := []
  owed : List (Nat × Output) := []
  msixTable : SMap Word := []
  pba : SMap Bool := []
  holdoff : SMap Bool := []
  holdEnds : SMap Nat := []
  holdPending : SMap Bool := []
  smbArmed : Bool := false
  smbEnds : Nat := 0
  linkL0 : Bool := false
  cfgRef : Option Word := none
  writers : SMap Nat := []
  firstCommit : Bool := false
  sweepMatched : Bool := true
  sweepAfterCommit : Bool := false
  rejecting : Bool := false
  deriving DecidableEq, Repr, Inhabited

/-! ### The whole block -/

/-- Everything the spec gives the part. `regs` is the register file by field: the key is byte offset × 32 + low bit,
the default the field's reset value; `shadow` lists the CFG fields whose shadow differs from the value in force
(R510). `mem` is the program memories. `free` numbers the open values drawn and `out` records what the block has
given to the outside: both are the model's own. -/
structure Chip where
  regs : SMap Word := []
  shadow : SMap (Option Word) := []
  ctl : ModeCtl := {}
  su : StartUp := {}
  vlt : Vault := {}
  sax : Assoc := {}
  eng : Engines := {}
  ord : OrdEng := {}
  evr : Recorder := {}
  cnt : Stats := {}
  hif : HostIf := {}
  mem : SMap Byte := []
  ent : Entropy := {}
  tim : Tim := {}
  pan : Pans := {}
  path : Paths := {}
  slu : Sluice := {}
  fwd : Forwarding := {}
  buf : Buffer := {}
  prs : PairStack := {}
  flt : Faults := {}
  pnl : Panel := {}
  srd : Lanes := {}
  free : Nat := 0
  out : List Output := []
  deriving DecidableEq, Repr, Inhabited

/-- The state: the block, and the commands that wait, first in, first out. -/
structure State where
  chip : Chip := {}
  pending : List Instr := []
  deriving DecidableEq, Repr, Inhabited

/-- The reasons a command can stop the machine. There is none: the spec reports every error by a status, a drop
reason, a completion or an event. Closed and empty: no command raises one. -/
inductive Fault
  deriving DecidableEq, Repr

/-- The reasons a command is refused. -/
inductive Refusal
  /-- Raised by no meaning; the name of a command that the model would not know. Safe: it stops. -/
  | notModelled (mnemonic : String)
  deriving DecidableEq, Repr

/-- The block right after a power-on reset from OFF: mode WAKE, every volatile register at its reset value, the
recorder not yet started, the start sequence at its first step, and the battery domain and OTP of a part that has
never been provisioned (log entry 1). Its start log holds EV_RESET with cause 0 (R387) and EV_EPHEMERAL_CLEARED for no
slot (R145). -/
def State.reset : State :=
  { chip := { evr := { startLog := [{ code := 0x023, source := 0x004, items := [(4, 0)], start := true },
    { code := 0x1EC, source := 0x0D0, items := [(8, 0)], start := true }] } },
    pending := [] }

end Sys2Proof.Machine
end

