-- ==== Sys2Proof/Machine/Ops.lean ====
section
/-! DEFINITION. The named operations every block shares: register fields, events, counters, DMA, rings, MSI-X,
program memory, open values. -/
namespace Sys2Proof.Machine

/-! ### The blocks of the chip: one of them changed, the rest as it was -/

def Chip.modCtl (c : Chip) (f : ModeCtl → ModeCtl) : Chip := { c with ctl := f c.ctl }
def Chip.modSu (c : Chip) (f : StartUp → StartUp) : Chip := { c with su := f c.su }
def Chip.modVlt (c : Chip) (f : Vault → Vault) : Chip := { c with vlt := f c.vlt }
def Chip.modSax (c : Chip) (f : Assoc → Assoc) : Chip := { c with sax := f c.sax }
def Chip.modEng (c : Chip) (f : Engines → Engines) : Chip := { c with eng := f c.eng }
def Chip.modOrd (c : Chip) (f : OrdEng → OrdEng) : Chip := { c with ord := f c.ord }
def Chip.modEvr (c : Chip) (f : Recorder → Recorder) : Chip := { c with evr := f c.evr }
def Chip.modHif (c : Chip) (f : HostIf → HostIf) : Chip := { c with hif := f c.hif }
def Chip.modEnt (c : Chip) (f : Entropy → Entropy) : Chip := { c with ent := f c.ent }
def Chip.modTim (c : Chip) (f : Tim → Tim) : Chip := { c with tim := f c.tim }
def Chip.modPan (c : Chip) (f : Pans → Pans) : Chip := { c with pan := f c.pan }
def Chip.modPath (c : Chip) (f : Paths → Paths) : Chip := { c with path := f c.path }
def Chip.modSlu (c : Chip) (f : Sluice → Sluice) : Chip := { c with slu := f c.slu }
def Chip.modFwd (c : Chip) (f : Forwarding → Forwarding) : Chip := { c with fwd := f c.fwd }
def Chip.modBuf (c : Chip) (f : Buffer → Buffer) : Chip := { c with buf := f c.buf }
def Chip.modPrs (c : Chip) (f : PairStack → PairStack) : Chip := { c with prs := f c.prs }
def Chip.modFlt (c : Chip) (f : Faults → Faults) : Chip := { c with flt := f c.flt }
def Chip.modPnl (c : Chip) (f : Panel → Panel) : Chip := { c with pnl := f c.pnl }
def Chip.modSrd (c : Chip) (f : Lanes → Lanes) : Chip := { c with srd := f c.srd }

/-- What follows a state that an operation may leave as it is: `f` when `b`, else nothing. -/
def Chip.when (c : Chip) (b : Bool) (f : Chip → Chip) : Chip := if b then f c else c

/-- An operation for each of a list, in order. -/
def Chip.each {α : Type} (c : Chip) (l : List α) (f : Chip → α → Chip) : Chip := l.foldl f c

/-! ### Register fields -/

/-- A register field's value in force. -/
def Chip.getF (c : Chip) (f : Fld) (idx : List Nat) : Nat :=
  (SMap.get regReset c.regs (f.key idx)).toNat

/-- The block with a field's value in force set, cut to the field's width. -/
def Chip.setF (c : Chip) (f : Fld) (idx : List Nat) (v : Nat) : Chip :=
  { c with regs := SMap.set regReset c.regs (f.key idx) (BitVec.ofNat 32 (v % 2 ^ f.w)) }

/-- A one-bit field. -/
def Chip.getB (c : Chip) (f : Fld) (idx : List Nat) : Bool := c.getF f idx != 0

/-- The value the driver sees in a field: the shadow of a CFG field (R510), else the value in force. -/
def Chip.getSh (c : Chip) (f : Fld) (idx : List Nat) : Nat :=
  match SMap.get (fun _ => none) c.shadow (f.key idx) with
  | some v => v.toNat
  | none => c.getF f idx

/-- A counter field raised by `n`; it stops at its largest value. -/
def Chip.bump (c : Chip) (f : Fld) (idx : List Nat) (n : Nat := 1) : Chip :=
  c.setF f idx (min (2 ^ f.w - 1) (c.getF f idx + n))

/-! ### Open values -/

/-- The number of the next open value, and the block that has drawn it. -/
def Chip.draw (c : Chip) : Nat × Chip := (c.free, { c with free := c.free + 1 })

/-! ### Events (R397, R479 to R483) -/

/-- An event of `code` is suppressed (R483): counted for its code and in all. -/
def Chip.suppress (c : Chip) (code : Nat) : Chip :=
  let n := min 0xFFFF (SMap.get (fun _ => 0) c.evr.supp code + 1)
  let c := { c with evr := { c.evr with supp := SMap.set (fun _ => 0) c.evr.supp code n } }
  ((c.bump F.EVR_CODE_CFG_supp_total [code]).bump F.EVR_SUPP_CNT_count []).setF F.EVR_STAT_supp [] 1

/-- The tokens left in a code's bucket. -/
def Chip.tokens (c : Chip) (code : Nat) : Nat := SMap.get (fun _ => 16) c.evr.tokens code

/-- An event occurs. Before the recorder starts it goes to the start log of 16 (R397); then, an occurrence of a limitable
code takes a token, and one that finds no token, or the intake of 256 full (R481), is suppressed (R483). -/
def Chip.raise (c : Chip) (code source : Nat) (items : List (Nat × Nat) := []) : Chip :=
  if c.evr.started then
    if (limitable code && c.tokens code = 0) || 256 ≤ c.evr.intake.length then c.suppress code
    else
      let tokens := if limitable code then SMap.set (fun _ => 16) c.evr.tokens code (c.tokens code - 1) else c.evr.tokens
      { c with evr := { c.evr with intake := c.evr.intake ++ [⟨code, source, items, false⟩], tokens := tokens } }
  else if c.evr.startLog.length < 16 then
    { c with evr := { c.evr with startLog := c.evr.startLog ++ [⟨code, source, items, true⟩] } }
  else { c with evr := { c.evr with startLost := c.evr.startLost + 1 } }

/-! ### Statistics (R489) -/

/-- A counter's value. -/
def Chip.cntGet (c : Chip) (space : Bool) (i : Nat) : DWord :=
  SMap.get (fun _ => 0) (if space then c.cnt.space1 else c.cnt.space0) i

/-- A counter set to a value. -/
def Chip.cntSet (c : Chip) (space : Bool) (i : Nat) (v : DWord) : Chip :=
  if space then { c with cnt := { c.cnt with space1 := SMap.set (fun _ => 0) c.cnt.space1 i v } }
  else { c with cnt := { c.cnt with space0 := SMap.set (fun _ => 0) c.cnt.space0 i v } }

/-- A counter raised by `n`, modulo 2^64. -/
def Chip.count (c : Chip) (space : Bool) (i : Nat) (n : Nat := 1) : Chip :=
  c.cntSet space i (c.cntGet space i + BitVec.ofNat 64 n)

/-- Whether a counter index is one that Table 19.3 or R489 names. -/
def cntNamed (space : Bool) (i : Nat) : Bool :=
  if space then i < 0x40000
  else
    (i < 66 * 0x80 && (i % 0x80 < 31 || (0x21 ≤ i % 0x80 && i % 0x80 < 0x39)))
    || (0x4000 ≤ i && i < 0x4000 + 66 * 8 && i % 8 < 4)
    || (0x8000 ≤ i && i < 0x10000)
    || (0x10000 ≤ i && i < 0x34000)
    || (0x34000 ≤ i && i < 0x54000 && i % 8 < 6)
    || (0x60000 ≤ i && i < 0x80000)

/-- R490, R492: the lost mark of a counter. -/
def Chip.cntLost (c : Chip) (space : Bool) (i : Nat) : Bool :=
  SMap.get (fun _ => false) (if space then c.cnt.lost1 else c.cnt.lost0) i

/-- The lost mark of a counter set. -/
def Chip.setLost (c : Chip) (space : Bool) (i : Nat) (v : Bool) : Chip :=
  if space then { c with cnt := { c.cnt with lost1 := SMap.set (fun _ => false) c.cnt.lost1 i v } }
  else { c with cnt := { c.cnt with lost0 := SMap.set (fun _ => false) c.cnt.lost0 i v } }

/-! ### DMA (R500, R503, R522) -/

/-- The block issues DMA for a function: its Bus Master Enable is 1 (R522), and the stream is Secure where
HIF_IDE_CFG.required asks for it (R503). -/
def Chip.dmaAllowed (c : Chip) (fn : Nat) : Bool :=
  SMap.get (fun _ => false) c.hif.bme fn &&
    !(c.getB F.HIF_IDE_CFG_required [] && c.getF F.HIF_IDE_STAT_state [] != 1)

/-- Something given to the outside. -/
def Chip.emit (c : Chip) (o : Output) : Chip := { c with out := c.out ++ [o] }

/-- A DMA write or message of a function: issued, or owed while its DMA is gated. -/
def Chip.dma (c : Chip) (fn : Nat) (o : Output) : Chip :=
  if c.dmaAllowed fn then c.emit o
  else { c with hif := { c.hif with owed := c.hif.owed ++ [(fn, o)] } }

/-- The writes owed to functions whose DMA is no longer gated are issued, in order. -/
def Chip.flushOwed (c : Chip) : Chip :=
  let ready := c.hif.owed.filter fun p => c.dmaAllowed p.1
  let rest := c.hif.owed.filter fun p => !c.dmaAllowed p.1
  { c with out := c.out ++ ready.map (·.2), hif := { c.hif with owed := rest } }

/-- R523, R524: a signal to a vector of a function. -/
def Chip.msixSignal (c : Chip) (fn v : Nat) : Chip :=
  let k := fn * 2048 + v
  if (SMap.get (fun i => if i % 4 = 3 then 1 else 0) c.hif.msixTable (k * 4 + 3)).getLsbD 0 then
    { c with hif := { c.hif with pba := SMap.set (fun _ => false) c.hif.pba k true } }
  else if SMap.get (fun _ => false) c.hif.holdoff k && c.tim.elapsed.toNat < SMap.get (fun _ => 0) c.hif.holdEnds k then
    { c with hif := { c.hif with holdPending := SMap.set (fun _ => false) c.hif.holdPending k true } }
  else
    let c := c.dma fn (.msix fn v)
    if fn = 0 && c.getF F.HIF_MSIX_MOD_holdoff [v] != 0 then
      { c with
        hif := { c.hif with
        holdoff := SMap.set (fun _ => false) c.hif.holdoff k true
        holdEnds := SMap.set (fun _ => 0) c.hif.holdEnds k (c.tim.elapsed.toNat + c.getF F.HIF_MSIX_MOD_holdoff [v] * 1000) } }
    else c

/-- R523: source `s` signals the vector of PF0 that HIF_MSIX_MAP routes it to. -/
def Chip.signal (c : Chip) (s : Nat) : Chip :=
  if c.getB F.HIF_MSIX_MAP_en [s] then c.msixSignal 0 (c.getF F.HIF_MSIX_MAP_vector [s]) else c

/-! ### Rings (R516 to R522) -/

/-- A ring's counts. -/
def Chip.ring (c : Chip) (r : Nat) : Ring := SMap.get (fun _ => {}) c.hif.rings r

def Chip.setRing (c : Chip) (r : Nat) (v : Ring) : Chip :=
  { c with hif := { c.hif with rings := SMap.set (fun _ => {}) c.hif.rings r v } }

/-- The function that owns a ring (Table 20.5, R517); `none` for an unassigned look-aside pair. -/
def Chip.ringOwner (c : Chip) (r : Nat) : Option Nat :=
  if r < 64 then some 0
  else
    let f := c.getF F.HIF_LA_OWNER_function [(r - 64) % 96]
    if f = 0 then none else some f

/-- The entry size of a ring in bytes (Table 20.5). -/
def ringEntry (r : Nat) : Nat :=
  match Sys2Proof.Machine.ringKind r with
  | 5 => 8
  | 6 => 16
  | 7 => 64
  | _ => 32

def Chip.ringEn (c : Chip) (r : Nat) : Bool := c.getB F.HIF_RING_CFG_en [r]

def Chip.ringSize (c : Chip) (r : Nat) : Nat := 2 ^ c.getF F.HIF_RING_CFG_log2size [r]

/-- Whether the part produces the ring's entries. -/
def partProduces (r : Nat) : Bool := [1, 2, 4, 5, 6, 8].contains (Sys2Proof.Machine.ringKind r)

/-- Entries the producer has filled and the consumer has not taken. -/
def Chip.ringUsed (c : Chip) (r : Nat) : Nat :=
  let g := c.ring r
  if partProduces r then (g.own - g.drv).toNat else (g.drv - g.own).toNat

/-- Entries of a part-produced ring that are neither used nor reserved. -/
def Chip.ringFree (c : Chip) (r : Nat) : Nat :=
  c.ringSize r - (c.ringUsed r + (c.ring r).reserved)

/-- The IOVA of a ring's entries. -/
def Chip.ringBase (c : Chip) (r : Nat) : Nat :=
  c.getF F.HIF_RING_BASE_HI_base [r] * 2 ^ 32 + c.getF F.HIF_RING_BASE_LO_base [r] * 2 ^ 12

/-- The part advances its own count by `n`, writes it back (R518) and signals the ring's source (R523). -/
def Chip.ringAdvance (c : Chip) (r n : Nat) : Chip :=
  match c.ringOwner r with
  | none => c
  | some fn =>
    let g := c.ring r
    let own := g.own + BitVec.ofNat 32 n
    let c := c.setRing r { g with own := own }
    let wb := c.getF F.HIF_RING_WB_HI_wb [r] * 2 ^ 32 + c.getF F.HIF_RING_WB_LO_wb [r] * 8
    let c := c.dma fn (.hostWrite fn wb (leBytes 4 own.toNat))
    let c := c.signal (0x700 + r)
    if r < 64 then c
    else
      let p := (r - 64) % 96
      let i := ((List.range p).filter fun x => c.getF F.HIF_LA_OWNER_function [x] = fn).length
      c.msixSignal fn (i % 16)

/-- The part writes an entry into a ring it produces, then its count (R519). An entry owed to a disabled ring is
discarded (R522). -/
def Chip.ringPush (c : Chip) (r : Nat) (entry : Bytes) : Chip :=
  if c.ringEn r then
    match c.ringOwner r with
    | none => c
    | some fn =>
      let k := (c.ring r).own.toNat % c.ringSize r
      let c := c.dma fn (.hostWrite fn (c.ringBase r + k * ringEntry r) entry)
      c.ringAdvance r 1
  else c

/-- A completion into a ring in which an entry was reserved: the reservation ends (R519). -/
def Chip.ringComplete (c : Chip) (r : Nat) (entry : Bytes) : Chip :=
  let c := c.setRing r { c.ring r with reserved := (c.ring r).reserved - 1 }
  c.ringPush r entry

/-- R521: a ring error of the given cause. -/
def Chip.ringError (c : Chip) (r cause : Nat) : Chip :=
  let c := (c.setF F.HIF_RING_STAT_err [r] 1).setF F.HIF_RING_STAT_cause [r] cause
  let c := c.setRing r { c.ring r with stopped := true }
  (c.bump F.HIF_DMA_ERR_rings []).raise Ev.RING_ERR (0x700 + r)

/-- R521: a failed DMA read at an IOVA. -/
def Chip.dmaReadFailed (c : Chip) (iova : Nat) : Chip :=
  let c := (c.setF F.HIF_DMA_ADDR_LO_iova [] (iova % 2 ^ 32)).setF F.HIF_DMA_ADDR_HI_iova [] (iova / 2 ^ 32)
  (c.bump F.HIF_DMA_ERR_reads []).raise Ev.DMA_ERR 0x73D

/-! ### Program memory (Table 12.2): one sparse byte memory with a region per engine memory -/

/-- A byte of program memory; a byte nothing has written reads as 0 (log entry 4). -/
def Memory.default (_ : Nat) : Byte := 0

abbrev Memory.wf (m : SMap Byte) : Bool := SMap.wf Memory.default m

def Chip.memGet (c : Chip) (a : Nat) : Byte := SMap.get Memory.default c.mem a

def Chip.memSet (c : Chip) (a : Nat) (b : Byte) : Chip := { c with mem := SMap.set Memory.default c.mem a b }

/-- `n` bytes from address `a`. -/
def Chip.memBytes (c : Chip) (a n : Nat) : Bytes := (List.range n).map fun i => c.memGet (a + i)

/-- Bytes written from address `a`. -/
def Chip.memWrite (c : Chip) (a : Nat) : Bytes → Chip
  | [] => c
  | b :: bs => (c.memSet a b).memWrite (a + 1) bs

/-- The addresses from `a` to `a + n` cleared. -/
def Chip.memClear (c : Chip) (a n : Nat) : Chip :=
  { c with mem := c.mem.filter fun p => !(a ≤ p.1 && p.1 < a + n) }

/-! ### Modes -/

/-- The code of a mode (Table 14.1). -/
def modeCode : Mode → Nat
  | .off => 0 | .vigil => 1 | .wake => 2 | .sealed => 3 | .provision => 4 | .active => 5 | .standby => 6
  | .drain => 7 | .rest => 8 | .maintenance => 9 | .lockdown => 10 | .erased => 11

/-- The mode of a code. -/
def modeOf (n : Nat) : Option Mode :=
  [Mode.off, .vigil, .wake, .sealed, .provision, .active, .standby, .drain, .rest, .maintenance, .lockdown,
    .erased][n]?

/-- The mode is one of a list. -/
def Chip.inMode (c : Chip) (ms : List Mode) : Bool := ms.contains c.ctl.mode

/-- A main-powered mode (Table 14.2). -/
def Chip.powered (c : Chip) : Bool := !c.inMode [.off, .vigil]

/-- R386: the main-powered domains are out of reset. CK_SAFE, with the monitors, the panel's filters and the claim sideband, the
TAP and the always-on domain run while RESET_N is low too. -/
def Chip.running (c : Chip) : Bool := c.powered && !c.su.resetHeld

/-! ### The elapsed-time count (R196) -/

/-- The elapsed-time count in ns. -/
def Chip.now (c : Chip) : Nat := c.tim.elapsed.toNat

/-- The elapsed-time count in µs. -/
def Chip.nowUs (c : Chip) : Nat := c.now / 1000

/-! ### Performance counters of the Ladles (R348, R350) -/

/-- A quadrant counter counts once; a wrap sets its overflow bit, or counts on the counter chained to it. -/
def Chip.quadInc (c : Chip) (q j : Nat) : Chip :=
  let full := fun (i : Nat) => c.getF F.LAD_QCNT_count [q, i] = 2 ^ 32 - 1
  let inc := fun (c : Chip) (i : Nat) => c.setF F.LAD_QCNT_count [q, i] (c.getF F.LAD_QCNT_count [q, i] + 1)
  let ovf := fun (c : Chip) (i : Nat) => c.setF F.LAD_QCNT_OVF_ovf [q] (c.getF F.LAD_QCNT_OVF_ovf [q] ||| 2 ^ i)
  let c' := inc c j
  if !full j then c'
  else if j % 2 = 0 && bit (c.getF F.LAD_QCNT_CHAIN_chain [q]) (j / 2) then
    (inc c' (j + 1)).when (full (j + 1)) fun c => ovf c (j + 1)
  else ovf c' j

/-- A quadrant counter counts the wraps of its neighbour only. -/
def Chip.quadChained (c : Chip) (q j : Nat) : Bool := j % 2 = 1 && bit (c.getF F.LAD_QCNT_CHAIN_chain [q]) (j / 2)

/-- An event of Table 13.8 in a quadrant. While the debug level is D0 the counters hold. -/
def Chip.perfQuad (c : Chip) (q ev : Nat) : Chip :=
  if c.ctl.dbg = 0 then c
  else c.each (List.range 16) fun c j =>
    c.when (c.getF F.LAD_QCNT_SEL_event [q, j] = ev && !c.quadChained q j) fun c => c.quadInc q j

/-- The select field of a Ladle's counter. -/
def ladSel (i : Nat) : Fld :=
  [F.LAD_CNT_SEL_event0, F.LAD_CNT_SEL_event1, F.LAD_CNT_SEL_event2, F.LAD_CNT_SEL_event3].getD i
    F.LAD_CNT_SEL_event0

/-- A Ladle counter of 48 bits counts once. -/
def Chip.ladleInc (c : Chip) (m i : Nat) : Chip :=
  let q := m / 64
  let l := m % 64
  let v := c.getF F.LAD_CNT_HI_count [q, l, i] * 2 ^ 32 + c.getF F.LAD_CNT_LO_count [q, l, i] + 1
  let c := (c.setF F.LAD_CNT_LO_count [q, l, i] v).setF F.LAD_CNT_HI_count [q, l, i] (v / 2 ^ 32)
  c.when (v = 2 ^ 48) fun c => c.setF F.LAD_STAT_ovf [q, l] (c.getF F.LAD_STAT_ovf [q, l] ||| 2 ^ i)

/-- An event of Table 13.8 on a Ladle, counted by its own counters and by its quadrant's. -/
def Chip.perf (c : Chip) (m ev : Nat) : Chip :=
  if c.ctl.dbg = 0 then c
  else
    let c := c.each (List.range 4) fun c i =>
      c.when (c.getF (ladSel i) [m / 64, m % 64] = ev) fun c => c.ladleInc m i
    c.perfQuad (m / 64) ev

/-! ### A command's outcome -/

/-- An ownership slot of OTP (R147). -/
def Chip.ownerSlot (c : Chip) (i : Nat) : OwnerSlot := SMap.get (fun _ => {}) c.vlt.owners i

/-- The ownership slot whose programming has not ended (R148). -/
def Chip.otpOpen (c : Chip) : Option Nat := (c.vlt.programming.filter (c.now < ·.2)).map (·.1)

/-- OTP is programmed and never erased (Table 15.1, R147): a slot of `old` whose STARTED is set stands in `new`, but for the
one whose programming has not ended. -/
def otpHeld (opened : Option Nat) (old new : SMap OwnerSlot) : SMap OwnerSlot :=
  if new = old then new
  else ((List.range 16).filter (opened ≠ some ·)).foldl (fun m i =>
    let o := SMap.get (fun _ => {}) old i
    if o.started then SMap.set (fun _ => {}) m i o else m) new

/-- What a command of effect `f` makes of the block: OTP takes programming only. -/
def Chip.after (f : Chip → Chip) (c : Chip) : Chip :=
  (f c).modVlt fun v => { v with owners := otpHeld c.otpOpen c.vlt.owners v.owners }

/-- Lifts a meaning of the block to a command's outcome: every command completes, and none touches the queue. -/
def lift (f : Chip → Chip) (s : State) : Host.Outcome State Fault Refusal :=
  .next { s with chip := s.chip.after f }

end Sys2Proof.Machine
end

