-- ==== Sys2Proof/Machine/Time.lean ====
section
/-! DEFINITION. Chapter 08: the time clock, its references, slew and step, the epoch counter and PPS. -/
namespace Sys2Proof.Machine

/-! ### The clock's value (R194) -/

/-- One second in units of 2^-64 ns. -/
def secUnits : Nat := 1000000000 * 2 ^ 64

/-- The part of a clock value below its seconds, in 2^-64 ns. -/
def clockSub (k : Clock) : Nat := (k.ns * 2 ^ 16 + k.frac) * 2 ^ 48 + k.low

/-- A clock from seconds and a count of 2^-64 ns; the seconds saturate and never wrap. -/
def clockOf (sec sub : Nat) : Clock :=
  let r := sub % secUnits
  { sec := min (2 ^ 48 - 1) (sec + sub / secUnits), ns := r / 2 ^ 64, frac := r / 2 ^ 48 % 2 ^ 16,
    low := r % 2 ^ 48 }

/-- A clock value as a count of whole ns. -/
def clockNs (k : Clock) : Nat := k.sec * 1000000000 + k.ns

/-- A clock value in 2^-64 ns. -/
def clockUnits (k : Clock) : Nat := k.sec * secUnits + clockSub k

/-- The time layout of Table 03.6, with the holdover bit. -/
def packTime (k : Clock) (holdover : Bool) : Nat :=
  (k.sec % 2 ^ 16) * 2 ^ 48 + k.ns * 2 ^ 18 + k.frac * 4 + 2 * b2n holdover

/-- What one CK_TIME cycle adds, in 2^-64 ns: 1 ns × (1 + F × 2^-48 + s) (R195). -/
def rateUnits (f slew : Int) : Nat := (2 ^ 64 + f * 2 ^ 16 + slew * 2 ^ 64 / 1000000000).toNat

/-- `n` CK_TIME cycles pass at the rates in force: the elapsed-time count, the clock, and what a slew has yet to absorb. -/
def Tim.plain (t : Tim) (n : Nat) : Tim :=
  { t with
      elapsed := t.elapsed + BitVec.ofNat 64 n,
      clock := clockOf t.clock.sec (clockSub t.clock + n * rateUnits t.freq t.slew),
      remain := t.remain - (n : Int) * (t.slew * 2 ^ 64 / 1000000000) }

/-- A rate comes into force; the changes that follow it stay announced. -/
def Tim.turn (t : Tim) (r : RateChange) (rest : List (Nat × RateChange)) : Tim :=
  match r with
  | .freq f => { t with freq := f, changes := rest }
  | .slew s => { t with slew := s, changes := rest }

/-- `n` CK_TIME cycles pass, the announced changes `l` taking effect at their instants (R200). -/
def Tim.pass (t : Tim) (n : Nat) : List (Nat × RateChange) → Tim
  | [] => t.plain n
  | (due, r) :: l =>
    let m := due - t.elapsed.toNat
    if m ≤ n then ((t.plain m).turn r l).pass (n - m) l else t.plain n

/-- The cycles to the first one in which the clock has reached a value in 2^-64 ns, the changes `l` taking effect on the
way; 0 when it already has. -/
def Tim.cyclesTo (t : Tim) (target : Nat) : List (Nat × RateChange) → Nat
  | [] => (target - clockUnits t.clock + (rateUnits t.freq t.slew - 1)) / rateUnits t.freq t.slew
  | (due, r) :: l =>
    let k := (target - clockUnits t.clock + (rateUnits t.freq t.slew - 1)) / rateUnits t.freq t.slew
    let m := due - t.elapsed.toNat
    if k ≤ m then k else m + ((t.plain m).turn r l).cyclesTo target l

/-- `n` CK_TIME cycles pass. -/
def Chip.cycles (c : Chip) (n : Nat) : Chip := { c with tim := c.tim.pass n c.tim.changes }

/-- Time passes to the first cycle in which the clock has reached an instant given in ns; none passes when it has
already. -/
def Chip.reach (c : Chip) (instantNs : Nat) : Chip :=
  let n := c.tim.cyclesTo (instantNs * 2 ^ 64) c.tim.changes
  if n = 0 then c else c.cycles n

/-- R211, R214: the value that the clock will have `ns` ns and `phase` × 2^-16 ns from now, by the changes announced. -/
def Chip.predicted (c : Chip) (ns phase : Nat) : Clock :=
  let t := c.tim.pass ns c.tim.changes
  clockOf t.clock.sec (clockSub t.clock + phase * rateUnits t.freq t.slew / 2 ^ 16)

/-- A clock value some units of 2^-64 ns earlier. -/
def clockBack (k : Clock) (units : Nat) : Clock := clockOf 0 (clockUnits k - units)

/-- Time passes to an instant of the elapsed-time count in ns. -/
def Chip.reachElapsed (c : Chip) (ns : Nat) : Chip :=
  if c.now < ns then c.cycles (ns - c.now) else c

/-- One CK_TIME cycle in which no command arrives: the time clock and the elapsed-time count advance (R195, R196), unless the
main domains are without power or held in reset. -/
def Chip.idle (c : Chip) : Chip := if c.powered && !c.su.resetHeld then c.cycles 1 else c

/-! ### Status bits -/

def Chip.refState (c : Chip) : Nat := c.getF F.TIM_STAT_ref_state []

/-- TIM_STAT.holdover follows ref_state and TIM_CTL.hold (R199). -/
def Chip.setRefState (c : Chip) (s : Nat) : Chip :=
  (c.setF F.TIM_STAT_ref_state [] s).setF F.TIM_STAT_holdover []
    (b2n (s = 3 || c.getB F.TIM_CTL_hold []))

def Chip.holdover (c : Chip) : Bool := c.getB F.TIM_STAT_holdover []

/-! ### Epochs (R204 to R207) -/

/-- O in seconds. -/
def Chip.epochOrg (c : Chip) : Nat :=
  c.getF F.TIM_EPOCH_ORG_HI_org [] * 2 ^ 32 + c.getF F.TIM_EPOCH_ORG_LO_org []

/-- L in ns. -/
def Chip.epochLen (c : Chip) : Nat := c.getF F.TIM_EPOCH_CFG_len [] * 1000000

/-- The instant T_E in ns of the clock. -/
def Chip.epochInstant (c : Chip) (e : Nat) : Nat := c.epochOrg * 1000000000 + e * c.epochLen

/-- The epoch number of the clock's value; `none` when it lies before O (R204, R206). -/
def Chip.epochNumber (c : Chip) : Option Nat :=
  let t := clockNs c.tim.clock
  let o := c.epochOrg * 1000000000
  if t < o then none else some ((t - o) / c.epochLen)

def epochMax : Nat := 2 ^ 40 - 1

def Chip.epochValid (c : Chip) : Bool := c.getB F.TIM_STAT_epoch_valid []

/-- R207: the counter has reached its last value. -/
def Chip.epochEnd (c : Chip) : Chip :=
  if c.tim.epoch = epochMax && !c.getB F.TIM_STAT_epoch_end [] then
    (c.setF F.TIM_STAT_epoch_end [] 1).raise Ev.EPOCH_END 0x0C1
  else c

/-- The counter set to a value. -/
def Chip.setEpoch (c : Chip) (e : Nat) : Chip :=
  ({ c with tim := { c.tim with epoch := min epochMax e, windowDone := false } } : Chip).epochEnd

/-- R206: the counter is judged again after a step, an acquisition or a write of O or L. It never decreases. -/
def Chip.judgeEpoch (c : Chip) : Chip :=
  if c.epochValid then
    match c.epochNumber with
    | some n =>
      if c.tim.epoch < n then
        let old := c.tim.epoch
        let c := { c with tim := { c.tim with epoch := min epochMax n, windowDone := false } }
        (c.raise Ev.EPOCH_JUMP 0x0C1 [(8, old), (8, c.tim.epoch)]).epochEnd
      else c
    | none => c
  else if c.tim.acquired then
    match c.epochNumber with
    | some n => (c.setF F.TIM_STAT_epoch_valid [] 1).setEpoch n
    | none => c
  else c

/-- The counter may tick: it is valid and has not saturated. -/
def Chip.ticking (c : Chip) : Bool := c.epochValid && !c.getB F.TIM_STAT_epoch_end []

/-- R205: the clock reaches T_(C+1) and the counter rises by 1. -/
def Chip.epochTick (c : Chip) : Chip :=
  if c.ticking then
    let c := c.reach (c.epochInstant (c.tim.epoch + 1))
    c.setEpoch (c.tim.epoch + 1)
  else c

/-- W in ns (R170). -/
def Chip.rekeyW (c : Chip) : Nat := c.getF F.SAX_REKEY_CFG_w [] * 1000

/-- R205: the clock reaches T_(C+1) − W. -/
def Chip.windowTick (c : Chip) : Chip :=
  if c.ticking then
    let c := c.reach (c.epochInstant (c.tim.epoch + 1) - c.rekeyW)
    { c with tim := { c.tim with windowDone := true } }
  else c

/-- R206: the clock reaches O while epoch_valid is 0 after a step to a value before O. -/
def Chip.epochValidStart (c : Chip) : Chip :=
  if !c.epochValid && c.tim.acquired then
    let c := c.reach (c.epochOrg * 1000000000)
    (c.setF F.TIM_STAT_epoch_valid [] 1).setEpoch 0
  else c

/-! ### Rate, slew and step (R198 to R202) -/

/-- The earliest instant at which a change accepted now takes effect (R200). -/
def Chip.rateDue (c : Chip) : Nat := c.now + 2048

/-- A change in the list of those announced, behind the ones that take effect no later. -/
def insertDue (l : List (Nat × RateChange)) (x : Nat × RateChange) : List (Nat × RateChange) :=
  l.filter (·.1 ≤ x.1) ++ x :: l.filter (x.1 < ·.1)

/-- A change of rate is accepted and announced (R200). -/
def Chip.announce (c : Chip) (r : RateChange) : Chip :=
  { c with tim := { c.tim with changes := insertDue c.tim.changes (c.rateDue, r) } }

/-- R200: the oldest announced change takes effect, and time passes until it does. -/
def Chip.rateEffect (c : Chip) : Chip :=
  match c.tim.changes with
  | [] => c
  | (due, _) :: _ => c.cycles (due - c.now)

def RateChange.isSlew : RateChange → Bool
  | .slew _ => true
  | .freq _ => false

/-- The changes that stand when a new slew is accepted: an end or a start that would take effect after the new one is
replaced by it. -/
def Chip.standing (c : Chip) : List (Nat × RateChange) :=
  c.tim.changes.filter fun x => x.1 ≤ c.rateDue || !x.2.isSlew

/-- A signed field of `w` bits. -/
def signed (w v : Nat) : Int := if v < 2 ^ (w - 1) then v else (v : Int) - 2 ^ w

/-- The largest magnitude of F (R198). -/
def freqMax : Nat := 140737488355

/-- R198: the frequency word written in TIM_FREQ_LO and TIM_FREQ_HI is applied. -/
def Chip.freqApply (c : Chip) : Chip :=
  c.announce (.freq (signed 40 (c.getF F.TIM_FREQ_HI_f_hi [] * 2 ^ 32 + c.getF F.TIM_FREQ_LO_f_lo [])))

/-- F as the part sets it: the registers and the announcement. -/
def Chip.setFreq (c : Chip) (f : BitVec 40) : Chip :=
  ((c.setF F.TIM_FREQ_LO_f_lo [] (f.toNat % 2 ^ 32)).setF F.TIM_FREQ_HI_f_hi [] (f.toNat / 2 ^ 32)).freqApply

/-- R198: every 1 ms while LOCKED the part updates F from the offset it measured. -/
def Chip.freqUpdate (c : Chip) (f : BitVec 40) : Chip :=
  if c.refState = 2 && c.getF F.TIM_REF_CFG_src [] != 0 && f.toInt.natAbs ≤ freqMax then c.setFreq f else c

/-- R201: a slew of a signed adjustment in 2^-16 ns starts and replaces what remains of the previous one. Its start and its
end, at which less than one cycle's share is left, are announced together; what the previous slew still moves the clock
before the start counts as absorbed (DESIGN CHOICE, log entry 54). -/
def Chip.slewStart (c : Chip) (adj : Int) : Chip :=
  let m : Int := c.getF F.TIM_SLEW_CFG_max []
  let s := if adj < 0 then -m else m
  let t := { c.tim with remain := adj * 2 ^ 48, changes := c.standing }
  let rest := (t.pass 2048 t.changes).remain
  let n := if 0 < rest * s then rest.natAbs / (s * 2 ^ 64 / 1000000000).natAbs else 0
  let l := insertDue (insertDue t.changes (c.rateDue, .slew s)) (c.rateDue + n, .slew 0)
  ({ c with tim := { t with changes := l } } : Chip).setF F.TIM_STAT_slewing [] 1

/-- The adjustment in TIM_ADJ_LO and TIM_ADJ_HI. -/
def Chip.slewFromRegs (c : Chip) (hi : Nat) : Chip :=
  c.slewStart (signed 48 (hi % 2 ^ 16 * 2 ^ 32 + c.getF F.TIM_ADJ_LO_adj_lo []))

/-- R201: TIM_CTL.adj_cancel stops a slew and leaves the part already absorbed. -/
def Chip.slewCancel (c : Chip) : Chip :=
  if c.getB F.TIM_STAT_slewing [] then
    ({ c with tim := { c.tim with remain := 0, changes := insertDue c.standing (c.rateDue, .slew 0) } } : Chip).setF
      F.TIM_STAT_slewing [] 0
  else c

/-- R201: a slew has absorbed its adjustment; time passes until its end takes effect. -/
def Chip.slewDone (c : Chip) : Chip :=
  if c.getB F.TIM_STAT_slewing [] then
    let c := match ((c.tim.changes.filter (·.2.isSlew)).getLast?) with
      | some x => c.reachElapsed x.1
      | none => c
    let c := { c with tim := { c.tim with remain := 0 } }
    (c.setF F.TIM_STAT_slewing [] 0).raise Ev.SLEW_DONE 0x0C0
  else c

/-- R211: what the mapping of scheduler port `s` gives for an instant that is `k` on the clock. -/
def Chip.mapped (c : Chip) (s : Nat) (k : Clock) : Clock :=
  clockOf 0 ((clockUnits k : Int) - SMap.get (fun _ => 0) c.tim.txOff s).toNat

/-- R211: an egress framer captures a departure, and its mapping is corrected. -/
def Chip.txCapture (c : Chip) (s : Nat) : Chip :=
  { c with tim := { c.tim with txOff := SMap.set (fun _ => 0) c.tim.txOff s 0 } }

/-- R211: a step of the clock is announced to no egress framer: every mapping lags by it until its next capture. -/
def Chip.txStepped (c : Chip) (d : Int) : Chip :=
  { c with
  tim := { c.tim with
  txOff := (List.range 66).foldl (fun m s =>
    SMap.set (fun _ => 0) m s (SMap.get (fun _ => 0) c.tim.txOff s + d)) c.tim.txOff } }

/-- A step to a value (R202): any slew is cancelled, the record carries the old and the new value, and the epoch
counter is judged again. -/
def Chip.stepTo (c : Chip) (k : Clock) : Chip :=
  let old := packTime c.tim.clock c.holdover
  let c := c.slewCancel.txStepped ((clockUnits k : Int) - clockUnits c.tim.clock)
  let c := { c with tim := { c.tim with clock := k, acquired := true } }
  let c := c.setF F.TIM_STAT_stepped [] 1
  (c.raise Ev.TIME_STEP 0x0C0 [(8, old), (8, packTime k c.holdover)]).judgeEpoch

/-- R202: TIM_CTL.step sets the clock to TIM_SET_*. -/
def Chip.timeStep (c : Chip) : Chip :=
  c.stepTo { sec := c.getF F.TIM_SET_SEC_HI_sec [] * 2 ^ 32 + c.getF F.TIM_SET_SEC_LO_sec [],
             ns := c.getF F.TIM_SET_NS_ns [], frac := c.getF F.TIM_SET_FRAC_frac [], low := 0 }

/-- R218: the clock is latched into TIM_CAP_*. -/
def Chip.timeCapture (c : Chip) : Chip :=
  let k := c.tim.clock
  (((c.setF F.TIM_CAP_SEC_LO_sec [] (k.sec % 2 ^ 32)).setF F.TIM_CAP_SEC_HI_sec [] (k.sec / 2 ^ 32)).setF
    F.TIM_CAP_NS_ns [] k.ns).setF F.TIM_CAP_FRAC_frac [] k.frac

/-! ### References (R197, R199) -/

/-- R199: TIM_CTL.hold goes from `old` to its present value. -/
def Chip.holdChange (c : Chip) (old : Bool) : Chip :=
  let new := c.getB F.TIM_CTL_hold []
  if new && !old then
    let c := c.when (c.refState ≠ 3) fun c => { c with tim := { c.tim with lostAt := c.now } }
    (c.setRefState 3).raise Ev.REF_LOST 0x0C0
  else if old && !new && c.getF F.TIM_REF_CFG_src [] = 0 then c.setRefState 0
  else c.setRefState c.refState

/-- R197: the reference has been valid for 10 ms. -/
def Chip.refQualified (c : Chip) : Chip :=
  if c.getF F.TIM_REF_CFG_src [] != 0 && !c.getB F.TIM_CTL_hold [] && c.refState != 2 then
    (c.setRefState 2).raise Ev.REF_QUALIFIED 0x0C0
  else c

/-- R199: a LOCKED reference is lost. -/
def Chip.refLost (c : Chip) : Chip :=
  if c.refState = 2 then
    let c := { c with tim := { c.tim with lostAt := c.now } }
    ((c.setRefState 3).setF F.TIM_STAT_ref_lost [] 1).raise Ev.REF_LOST 0x0C0
  else c

/-- What a new choice of source does to ref_state: FREE without a reference, QUALIFYING with one. -/
def Chip.srcChange (c : Chip) (old : Nat) : Chip :=
  let new := c.getF F.TIM_REF_CFG_src []
  if new = old || c.getB F.TIM_CTL_hold [] then c
  else c.setRefState (if new = 0 then 0 else 1)

/-! ### PPS (R203) -/

/-- The signed phase error of a clock value against the nearest whole second, in 2^-16 ns. -/
def phaseError (k : Clock) : Int :=
  let t : Int := (k.ns * 2 ^ 16 + k.frac : Nat)
  if k.ns < 500000000 then t else t - 1000000000 * 2 ^ 16

/-- R203: a rising edge of PPS_IN. -/
def Chip.ppsIn (c : Chip) : Chip :=
  if c.getB F.TIM_PPS_CFG_in_en [] && !c.getB F.TIM_STAT_pps_new [] then
    let k := c.tim.clock
    let c := (((c.setF F.TIM_PPS_CAP_SEC_LO_sec [] (k.sec % 2 ^ 32)).setF F.TIM_PPS_CAP_SEC_HI_sec []
      (k.sec / 2 ^ 32)).setF F.TIM_PPS_CAP_NS_ns [] k.ns).setF F.TIM_PPS_CAP_FRAC_frac [] k.frac
    let c := c.setF F.TIM_STAT_pps_new [] 1
    if c.getB F.TIM_REF_CFG_pps_align [] then
      let e := phaseError k
      let c := c.slewStart (-e)
      if 1000000 * 2 ^ 16 < e.natAbs then c.raise Ev.PPS_FAR 0x0C0 else c
    else c
  else c

/-- R203: PPS_OUT rises as the clock reaches a whole second, which the cycle that has just ended may have done. -/
def Chip.ppsRise (c : Chip) : Chip :=
  if c.getB F.TIM_PPS_CFG_out_en [] && !c.tim.ppsOut && !c.inMode [.off, .vigil, .wake] then
    let k := c.tim.clock
    let c := if clockSub k < rateUnits c.tim.freq c.tim.slew then c else c.reach ((k.sec + 1) * 1000000000)
    { c with tim := { c.tim with ppsOut := true, ppsRose := c.now } }
  else c

/-- R203: PPS_OUT falls after its configured width. -/
def Chip.ppsFall (c : Chip) : Chip :=
  if c.tim.ppsOut then
    let c := c.reachElapsed (c.tim.ppsRose + c.getF F.TIM_PPS_CFG_width [] * 1000000)
    { c with tim := { c.tim with ppsOut := false } }
  else c

/-! ### Lane calibration and timestamps (R208, R209), the master's O and L (R216) -/

/-- The event source of a lane (chapter 21). -/
def laneSource (l : Nat) : Nat := 0x420 + l

/-- A lane in a list without repeats. -/
def withLane (l : List Nat) (x : Nat) : List Nat := if l.contains x then l else l ++ [x]

/-- R209: a lane's delay is calibrated at a die temperature, or the calibration fails and keeps a previous value. -/
def Chip.laneCal (c : Chip) (l : Nat) (ok : Bool) (temp : Nat) : Chip :=
  let keep := ok || c.tim.calHad.contains l
  let t := { c.tim with
    calHad := if ok then withLane c.tim.calHad l else c.tim.calHad,
    calUse := if keep then withLane c.tim.calUse l else c.tim.calUse }
  let c := { c with tim := t }
  if ok then (c.setF F.TIM_LANE_STAT_cal [l] 1).setF F.TIM_LANE_STAT_cal_temp [l] temp
  else (c.setF F.TIM_LANE_STAT_cal_fail [l] 1).raise Ev.LANE_CAL (laneSource l)

/-- R209: a link comes up; its lanes await a calibration. -/
def Chip.laneUncal (c : Chip) (l : Nat) : Chip :=
  ({ c with tim := { c.tim with calUse := c.tim.calUse.filter (· ≠ l) } } : Chip).setF F.TIM_LANE_STAT_cal [l] 0

/-- R209: timestamps of a lane are valid. -/
def Chip.stampValid (c : Chip) (l : Nat) : Bool := c.tim.calUse.contains l

/-- R208: a clock value with the board delay of a lane, in ps, added. Internal delay and deskew skew are no part of the
value: the model's commands stand at the balls' own instants (DESIGN CHOICE, log entry 54). -/
def Chip.mdiTime (c : Chip) (f : Fld) (l : Nat) (k : Clock) : Clock :=
  clockOf 0 ((clockUnits k : Int) + signed 16 (c.getF f [l]) * 2 ^ 64 / 1000).toNat

/-- R216: a member takes the master's O and L. -/
def Chip.takeEpochCfg (c : Chip) (org len : Nat) : Chip :=
  let c := (c.setF F.TIM_EPOCH_ORG_LO_org [] (org % 2 ^ 32)).setF F.TIM_EPOCH_ORG_HI_org [] (org / 2 ^ 32)
  let c := c.setF F.TIM_EPOCH_CFG_len [] len
  { c with
    shadow := c.shadow.filter fun p =>
      !([F.TIM_EPOCH_ORG_LO_org.key [], F.TIM_EPOCH_ORG_HI_org.key [], F.TIM_EPOCH_CFG_len.key []].contains p.1) }

/-! ### The meanings of the time events -/

def execFreqUpdate (f : BitVec 40) := lift fun c => c.freqUpdate f
def execRateChangeEffect := lift Chip.rateEffect
def execSlewDone := lift Chip.slewDone
def execRefQualified := lift Chip.refQualified
def execRefLost := lift Chip.refLost
def execPpsInEdge := lift Chip.ppsIn
def execPpsOutRise := lift Chip.ppsRise
def execPpsOutFall := lift Chip.ppsFall
def execEpochTick := lift Chip.epochTick
def execWindowTick := lift Chip.windowTick
def execEpochValidStart := lift Chip.epochValidStart
def execEpochEnd := lift Chip.epochEnd
def execLaneCalibration (lane : Fin 76) (ok : Bool) (temp : Byte) :=
  lift fun c => c.laneCal lane.val ok temp.toNat
end Sys2Proof.Machine
end

