-- ==== Sys2Proof/Machine/Vault.lean ====
section
/-! DEFINITION. Chapter 05: key slots, handles, key check values, the roots, the seal, ownership slots, and the
revocation walk. -/
namespace Sys2Proof.Machine

/-! ### Handles and slots (R126 to R129) -/

/-- The slot field of a key handle. -/
def slotOf (h : Word) : Nat := h.toNat % 2 ^ 17

/-- The owning function field of a key handle. -/
def fnOf (h : Word) : Nat := h.toNat / 2 ^ 17 % 128

/-- The generation field of a key handle, and of an SA handle. -/
def genOf (h : Word) : Nat := h.toNat / 2 ^ 24

/-- A key handle. -/
def mkHandle (gen fn slot : Nat) : Word := BitVec.ofNat 32 (gen * 2 ^ 24 + fn * 2 ^ 17 + slot)

/-- The generation after the next install (R127): 1 to 255, then 1 again. -/
def nextGen (g : Nat) : Nat := if g = 255 then 1 else g + 1

def Chip.slot (c : Chip) (i : Nat) : Slot := SMap.get (fun _ => {}) c.vlt.slots i

def Chip.setSlot (c : Chip) (i : Nat) (s : Slot) : Chip :=
  c.modVlt fun v => { v with slots := SMap.set (fun _ => {}) v.slots i s }

/-- The present handle of a slot. -/
def Chip.handleOf (c : Chip) (i : Nat) : Word := mkHandle (c.slot i).generation (c.slot i).function i

/-- R126, R127, R129: whether a handle names a usable key: 0, or BAD_ORDER, STALE, REVOKED or KEY_INVALID. -/
def Chip.checkKey (c : Chip) (h : Word) : Nat :=
  let s := c.slot (slotOf h)
  if 66 ≤ fnOf h then 0x53
  else if genOf h ≠ s.generation then 0x41
  else if s.state = 1 then 0
  else if s.state = 3 then 0x45
  else 0x42

/-- The number of slots in state VALID (VLT_SLOTS). -/
def Chip.validSlots (c : Chip) : Nat := (c.vlt.slots.filter fun p => p.2.state = 1).length

/-- R105: every Pan forgets the key of a slot. -/
def Chip.dropCached (c : Chip) (slot : Nat) : Chip :=
  c.modPan fun p => { p with
  caches := (p.caches.map fun q => (q.1, q.2.filter fun e => e.slot ≠ slot)).filter
    fun q => q.2 ≠ [] }

/-! ### Invalidation and the revocation walk (R133, R137, R138) -/

/-- An invalidation starts a walk, or is taken up by the one in progress. -/
def Chip.startWalk (c : Chip) : Chip :=
  if c.vlt.walkBusy then c
  else c.modVlt fun v => { v with walkBusy := true, walkPasses := 0, walkRevoked := 0 }

/-- A child that a pass revokes: VALID, inheriting, with a parent that is no longer a VALID slot of that
generation. -/
def Chip.orphaned (c : Chip) (s : Slot) : Bool :=
  s.state = 1 && s.inheritRevoke && s.parent != 0 && c.checkKey s.parent != 0

/-- R137: one pass of the walk, which judges every child by the slots as they stand when the pass begins (DESIGN CHOICE, log
entry 65). -/
def Chip.walkPass (c : Chip) : Chip :=
  if c.vlt.walkBusy then
    let children := (c.vlt.slots.filter fun p => c.orphaned p.2).map (·.1)
    let c := c.each children fun d i =>
      let s := d.slot i
      ((d.setSlot i { s with state := 3 }).dropCached i).raise Ev.CHILD_REVOKED 0x0D0
        [(4, (c.handleOf i).toNat), (4, s.parent.toNat)]
    let c := c.modVlt fun v =>
      { v with walkPasses := min 9 (v.walkPasses + 1), walkRevoked := v.walkRevoked + children.length }
    if children.isEmpty then
      c.modVlt fun v => { v with walkBusy := false, lastPasses := v.walkPasses, lastRevoked := v.walkRevoked }
    else c
  else c

def execRevocationWalkPass := lift Chip.walkPass

/-- A slot moves to INVALID (R133): Pans forget it, and the walk starts. -/
def Chip.invalidate (c : Chip) (i : Nat) : Chip :=
  ((c.setSlot i { c.slot i with state := 2 }).dropCached i).startWalk

/-- The EPHEMERAL slots that a reset clears. -/
def Chip.ephemerals (c : Chip) : List Nat :=
  (c.vlt.slots.filter fun p => p.2.ephemeral && (p.2.state = 1 || p.2.state = 3)).map (·.1)

/-- R145: one event per reset says how many slots it cleared. -/
def Chip.saidCleared (c : Chip) (n : Nat) : Chip := c.raise Ev.EPHEMERAL_CLEARED 0x0D0 [(8, n)]

/-- R145: every EPHEMERAL slot is cleared. -/
def Chip.clearEphemeral (c : Chip) : Chip := (c.each c.ephemerals Chip.invalidate).saidCleared c.ephemerals.length

/-! ### Key use (R130, R139) -/

/-- R139: the key check value of a slot. -/
def slotKcv (s : Slot) : DWord :=
  BitVec.ofNat 64 ((Config.cmac s.klen s.key (ascii "YILIP-KEYCHECK-1")).toNat / 2 ^ 64)

/-- R130: EV_USE_EXHAUSTED is raised once for a slot whose count has reached 0. -/
def Chip.saidExhausted (c : Chip) (i : Nat) : Chip :=
  let s := c.slot i
  if s.type ≠ 0 && s.count = 0 && s.state = 1 && !SMap.get (fun _ => false) c.vlt.exhaustedSaid i then
    (c.modVlt fun v => { v with exhaustedSaid := SMap.set (fun _ => false) v.exhaustedSaid i true }).raise
      Ev.USE_EXHAUSTED 0x0D0
  else c

/-- R130: the key that slot `i` has got is a new one for EV_USE_EXHAUSTED; one that comes with no uses left has had it. -/
def Chip.newUses (c : Chip) (i : Nat) : Chip :=
  let s := c.slot i
  c.modVlt fun v => { v with exhaustedSaid := SMap.set (fun _ => false) v.exhaustedSaid i (s.type ≠ 0 && s.count = 0) }

def execUseCountExhausted (slot : Fin 131072) := lift fun c => c.saidExhausted slot.val

/-- R130: one counted use of a key other than TRAFFIC; the caller has tested that its count is not 0. -/
def Chip.useKey (c : Chip) (i : Nat) : Chip :=
  let s := c.slot i
  (c.setSlot i { s with count := s.count - 1 }).saidExhausted i

/-- R127 to R130: a handle names a VALID key of a type, with uses left. -/
def Chip.checkUse (c : Chip) (h : Word) (type : BitVec 2) : Nat :=
  let r := c.checkKey h
  let s := c.slot (slotOf h)
  if r ≠ 0 then r
  else if s.type ≠ type then 0x43
  else if s.count = 0 then 0x46
  else 0

/-- R371: the tests at admission of a request on a Pan: while traffic keys are disabled, one that names a TRAFFIC slot
fails as KEY_INVALID. -/
def Chip.checkPanUse (c : Chip) (h : Word) (type : BitVec 2) : Nat :=
  if c.ctl.tkDis && c.checkKey h = 0 && (c.slot (slotOf h)).type = 0 then 0x42 else c.checkUse h type

/-! ### Errors in slot records (R146) -/

/-- R146: a corrected single-bit error. -/
def Chip.vaultCorrected (c : Chip) : Chip := c.bump F.VLT_ECC_CNT_count []

def execVaultEccCorrected (_slot : Fin 131072) := lift Chip.vaultCorrected

/-- R146: an uncorrectable error zeroes and invalidates the slot. -/
def Chip.vaultEcc (c : Chip) (i : Nat) : Chip :=
  let c := (c.setSlot i { c.slot i with key := 0 }).invalidate i
  (c.setF F.VLT_STAT_ecc_err [] 1).raise Ev.VAULT_ECC 0x0D0

/-! ### Roots and seal (R125, R141, R143) -/

/-- The active seal word; `none` counts as erased. -/
def Chip.activeSeal (c : Chip) : Option (BitVec 256) := if c.vlt.sealSel then c.vlt.sealB else c.vlt.sealA

def Chip.inactiveSeal (c : Chip) : Option (BitVec 256) := if c.vlt.sealSel then c.vlt.sealA else c.vlt.sealB

/-- R125: the SRK under a seal word. -/
def Chip.srk (c : Chip) (seal' : BitVec 256) : BitVec 256 :=
  BitVec.ofNat 256 (kdf true (c.vlt.duk.getD 0) (ascii "YL-SRK" ++ [0] ++ beBytes 32 seal'.toNat) 256)

/-- R125: the key of a store version. -/
def Chip.storeKey (c : Chip) (seal' : BitVec 256) (v : Nat) : BitVec 256 :=
  BitVec.ofNat 256 (kdf true (c.srk seal') (ascii "YL-STORE" ++ [0] ++ beBytes 4 v) 256)

/-- R125: the attestation key. -/
def Chip.attestKey (c : Chip) : BitVec 384 :=
  let k := kdf true (c.vlt.duk.getD 0) (ascii "YL-ATTEST" ++ [0] ++ beBytes 8 Config.deviceId.toNat) 448
  BitVec.ofNat 384 (k % (Config.p384Order - 1) + 1)

/-- R141: the seal words, the selector and staged bits, and the store record of a zeroized part. `verase` and the hardware
erase do the same to them (R149, R325, R346). -/
def Chip.eraseSeal (c : Chip) : Chip :=
  c.modVlt fun v => { v with
    sealA := none, sealB := none, sealSel := false, rotStaged := false, storeV := 0,
    storePending := false, digestConf := 0, digestPend := 0 }

/-- R141: every slot FREE with its key overwritten and its generation kept. -/
def Chip.freeSlots (c : Chip) : Chip :=
  c.modVlt fun v => { v with
    slots := (v.slots.map fun p => (p.1, { generation := p.2.generation })).filter
      fun p => p.2 ≠ ({} : Slot),
    walkBusy := false, exhaustedSaid := [] }

/-! ### Ownership slots (R147) -/

/-- The active owner: the highest slot whose DONE is set and whose CRC is good. -/
def Chip.activeOwner (c : Chip) : Option Nat :=
  ((List.range 16).filter fun i => (c.ownerSlot i).done && (c.ownerSlot i).crcGood).getLast?

/-- Slots used, spoiled ones included. -/
def Chip.ownersUsed (c : Chip) : Nat := ((List.range 16).filter fun i => (c.ownerSlot i).started).length

/-- The lowest unprogrammed slot. -/
def Chip.nextOwner (c : Chip) : Option Nat := (List.range 16).find? fun i => !(c.ownerSlot i).started

/-- The owner key hash of the active slot, or 0. -/
def Chip.ownerHash (c : Chip) : BitVec 384 :=
  match c.activeOwner with
  | some i => (c.ownerSlot i).hash
  | none => 0

/-- R147, R404: an ownership slot is programmed: STARTED, the hash and its CRC, then DONE, within 25 ms. -/
def Chip.programOwner (c : Chip) (i : Nat) (hash : BitVec 384) : Chip :=
  (c.modVlt fun v => { v with
  programming := some (i, c.now + 25000000), owners := SMap.set (fun _ => {}) v.owners i
    { hash := hash, crcGood := true, started := true, done := true } }).raise Ev.OWNER_CHANGED 0x0D0 [(4, i)]

/-- R148: a loss of power cuts the programming that is in progress, and spoils its slot. -/
def Chip.cutProgramming (c : Chip) : Chip :=
  match c.vlt.programming with
  | some (i, ends) =>
    c.when (c.now < ends) fun c => c.modVlt fun v => { v with
      owners := SMap.set (fun _ => {}) v.owners i { c.ownerSlot i with done := false, crcGood := false } }
  | none => c

/-- Whether a public key is the active owner's (R363). -/
def Chip.isOwner (c : Chip) (key : Bytes) : Bool :=
  c.activeOwner.isSome && Config.sha384 key = c.ownerHash

/-! ### Attribute words and records (Tables 05.2, 05.5, 12.12) -/

/-- A slot's record as 64 bytes, most significant byte first in the order of Table 05.2, which gives no offsets: the packing is
the model's (DESIGN CHOICE, log entry 65). -/
def slotBytes (s : Slot) : Bytes :=
  beBytes 32 s.key.toNat
    ++ [BitVec.ofNat 8 (s.state.toNat + 4 * s.type.toNat + 16 * s.origin.toNat + 64 * b2n s.klen +
          128 * b2n s.inheritRevoke),
        BitVec.ofNat 8 (b2n s.ephemeral + 2 * b2n s.txUsed + 4 * b2n s.bound + 16 * s.depth),
        BitVec.ofNat 8 s.function, BitVec.ofNat 8 s.generation]
    ++ beBytes 4 s.parent.toNat ++ beBytes 4 s.count ++ List.replicate 20 0

/-- The slot of such a record. -/
def slotOfBytes (b : Bytes) : Slot :=
  let f := (b.getD 32 0).toNat
  let g := (b.getD 33 0).toNat
  { key := BitVec.ofNat 256 (beNat (slice b 0 32)), state := BitVec.ofNat 2 f, type := BitVec.ofNat 2 (f / 4),
    origin := BitVec.ofNat 2 (f / 16), klen := bit f 6, inheritRevoke := bit f 7, ephemeral := bit g 0,
    txUsed := bit g 1, bound := bit g 2, depth := g / 16, function := (b.getD 34 0).toNat,
    generation := (b.getD 35 0).toNat, parent := BitVec.ofNat 32 (beNat (slice b 36 4)),
    count := beNat (slice b 40 4) }

/-- The attributes of Table 12.12 that an order gives a staged key. -/
structure KeyAttr where
  type : BitVec 2
  klen : Bool
  inheritRevoke : Bool
  ephemeral : Bool
  function : Nat
  parent : Nat
  count : Nat
  deriving DecidableEq, Repr

/-- An attribute word; `none` when a reserved bit or value is set. A count of 0 gives 0xFFFF_FFFF for types other than
TRAFFIC. -/
def attrOf (a : DWord) : Option KeyAttr :=
  let v := a.toNat
  let t := v % 4
  let n := v / 2 ^ 32
  if bits v 31 16 ≠ 0 || 66 ≤ bits v 11 5 || (t = 0 && n ≠ 0) then none
  else some { type := BitVec.ofNat 2 t, klen := bit v 2, inheritRevoke := bit v 3, ephemeral := bit v 4,
              function := bits v 11 5, parent := bits v 15 12,
              count := if t ≠ 0 && n = 0 then 0xFFFFFFFF else n }

/-- What a blob holds (R135): its attributes and key. -/
structure Blob where
  type : BitVec 2
  klen : Bool
  inheritRevoke : Bool
  ephemeral : Bool
  count : Nat
  key : BitVec 256
  deriving DecidableEq, Repr

/-- The attribute header and key inside a wrap (R135); `none` when malformed. -/
def plainBlob (p : Bytes) : Option Blob :=
  let f := (p.getD 0 0).toNat
  let n := beNat (slice p 4 4)
  if f / 32 ≠ 0 || slice p 1 3 ≠ [0, 0, 0] || (f % 4 = 0 && n ≠ 0)
      || p.length ≠ (if bit f 2 then 40 else 24) then none
  else some { type := BitVec.ofNat 2 f, klen := bit f 2, inheritRevoke := bit f 3, ephemeral := bit f 4, count := n,
              key := BitVec.ofNat 256 (beNat (p.drop 8)) }

/-- The format and length checks of a wrapped blob (Table 05.5). -/
def blobFormat (b : Bytes) : Bool :=
  let n := beNat (slice b 2 2)
  b.getD 0 0 = 1 && b.getD 1 0 = 0 && (n = 32 || n = 48) && b.length = 4 + n

/-- R135: a wrapped blob opened under a KEK; `none` for every malformed one. -/
def openBlob (kek : Slot) (b : Bytes) : Option Blob :=
  if blobFormat b then (Config.kwpUnwrap kek.klen kek.key (b.drop 4)).bind plainBlob else none

end Sys2Proof.Machine
end

