-- ==== Sys2Proof/Machine/Assoc.lean ====
section
/-! DEFINITION. Chapter 06: channels, associations, packet numbers, replay, and scheduled switches. -/
namespace Sys2Proof.Machine

/-! ### Channels and SA contexts (R153 to R157) -/

def Chip.chan (c : Chip) (i : Nat) : Channel := SMap.get (fun _ => {}) c.sax.channels i

def Chip.setChan (c : Chip) (i : Nat) (v : Channel) : Chip :=
  c.modSax fun a => { a with channels := SMap.set (fun _ => {}) a.channels i v }

def Chip.sa (c : Chip) (i : Nat) : Sa := SMap.get (fun _ => {}) c.sax.sas i

def Chip.setSa (c : Chip) (i : Nat) (v : Sa) : Chip :=
  c.modSax fun a => { a with sas := SMap.set (fun _ => {}) a.sas i v }

/-- The index field of an SA handle. -/
def saOf (h : Word) : Nat := h.toNat % 2 ^ 16

/-- An SA handle. -/
def mkSaHandle (gen index : Nat) : Word := BitVec.ofNat 32 (gen * 2 ^ 24 + index)

def Chip.saHandle (c : Chip) (i : Nat) : Word := mkSaHandle (c.sa i).generation i

/-- R155: whether an SA handle of an order names a VALID SA: 0, or BAD_ORDER, STALE or NO_SA. -/
def Chip.checkSa (c : Chip) (h : Word) : Nat :=
  let s := c.sa (saOf h)
  if bits h.toNat 23 16 ≠ 0 then 0x53
  else if genOf h ≠ s.generation then 0x41
  else if s.state ≠ 1 then 0x6B
  else 0

/-- The SA installed on an AN of a channel. -/
def Channel.saAt (k : Channel) (an : Nat) : Option Nat :=
  match an % 4 with
  | 0 => k.sa0 | 1 => k.sa1 | 2 => k.sa2 | _ => k.sa3

def Channel.setSaAt (k : Channel) (an : Nat) (v : Option Nat) : Channel :=
  match an % 4 with
  | 0 => { k with sa0 := v }
  | 1 => { k with sa1 := v }
  | 2 => { k with sa2 := v }
  | _ => { k with sa3 := v }

def Channel.quietAt (k : Channel) (an : Nat) : Nat :=
  match an % 4 with
  | 0 => k.quiet0 | 1 => k.quiet1 | 2 => k.quiet2 | _ => k.quiet3

def Channel.setQuietAt (k : Channel) (an v : Nat) : Channel :=
  match an % 4 with
  | 0 => { k with quiet0 := v }
  | 1 => { k with quiet1 := v }
  | 2 => { k with quiet2 := v }
  | _ => { k with quiet3 := v }

/-- The current transmit SA of a channel. -/
def Channel.current (k : Channel) : Option Nat := if k.txCur then k.saAt k.txAn else none

/-- The VALID SAs of a channel. -/
def Chip.channelSas (c : Chip) (i : Nat) : List Nat :=
  ((List.range 4).filterMap (c.chan i).saAt).filter fun s => (c.sa s).state = 1

/-- R157, R158: the channel holds a VALID SA. -/
def Chip.holdsSa (c : Chip) (i : Nat) : Bool := !(c.channelSas i).isEmpty

/-- The schedules pending (SAX_SCHED_PEND). -/
def Chip.schedules (c : Chip) : Nat := (c.sax.channels.filter fun p => p.2.sched).length

/-- R177: the source of an event about an SA. -/
def saSource (i : Nat) : Nat := 0x300 + i / 256

/-! ### Packet numbers (R161, R162, Table 06.5) -/

def suiteXpn (suite : Nat) : Bool := suite / 2 % 2 = 1

def suite256 (suite : Nat) : Bool := suite % 2 = 1

/-- The last PN of a suite. -/
def lastPn (suite : Nat) : Nat := if suiteXpn suite then 2 ^ 64 - 2 else 2 ^ 32 - 2

/-- The PN at which REKEY_SOON is reached. -/
def soonPn (suite : Nat) : Nat := if suiteXpn suite then 0x4000000000000000 else 0xC0000000

/-- R162: an SA stops at its PN limit. -/
def Chip.stopSa (c : Chip) (i : Nat) : Chip :=
  ((c.setSa i { c.sa i with stopped := true }).setF F.SAX_STAT_stopped [] 1).raise Ev.PN_EXHAUSTED (saSource i)

/-- R107, R161: the next PN of a transmit SA is allocated; its REKEY_SOON and its last PN have their effects. -/
def Chip.allocPn (c : Chip) (i : Nat) : Nat × Chip :=
  let s := c.sa i
  let pn := s.nextPn
  let soon := soonPn s.suite ≤ pn && !s.soon
  let c := c.setSa i { s with nextPn := pn + 1, soon := s.soon || soon }
  let c := c.when soon fun d => (d.setF F.SAX_STAT_soon [] 1).raise Ev.REKEY_SOON (saSource i)
  (pn, c.when (pn = lastPn s.suite) fun d => d.stopSa i)

/-- R171: PN_GUARD. -/
def Chip.pnGuard (c : Chip) : Nat := 2 ^ c.getF F.SAX_GUARD_CFG_guard []

/-- R171: the high-water mark of a transmit SA: its reserved limit, and its next PN where it allocated without one. -/
def Sa.mark (s : Sa) : Nat := max s.reserved s.nextPn

/-- R171: every VALID transmit SA starts at its high-water mark plus PN_GUARD; one EV_PN_GUARD counts the SAs advanced
and those stopped. -/
def Chip.guardAdvance (c : Chip) : Chip :=
  let l := (c.sax.sas.filter fun p => p.2.state = 1 && !p.2.dir).map (·.1)
  let stops := l.filter fun i => lastPn (c.sa i).suite < (c.sa i).mark + c.pnGuard
  let d := c.each l fun d i =>
    let s := d.sa i
    let next := s.mark + d.pnGuard
    if lastPn s.suite < next then d.stopSa i else d.setSa i { s with nextPn := next }
  d.raise Ev.PN_GUARD 0x600 [(8, l.length), (8, stops.length)]

/-! ### Replay (R174) -/

/-- The lowest acceptable PN. -/
def Sa.lowest (s : Sa) : Nat := max 1 (s.highest + 1 - s.replayWin)

/-- R174: the replay test. -/
def Sa.accepts (s : Sa) (pn : Nat) : Bool :=
  s.lowest ≤ pn && (s.highest < pn || !s.bitmap.getLsbD (s.highest - pn))

/-- R174: a passing verdict sets the PN's bit and moves the window. -/
def Sa.record (s : Sa) (pn : Nat) : Sa :=
  if s.highest < pn then { s with highest := pn, bitmap := (s.bitmap <<< (pn - s.highest)) ||| 1#1024 }
  else { s with bitmap := s.bitmap ||| (1#1024 <<< (s.highest - pn)) }

/-- R67: the upper half of an XPN, recovered against the lowest acceptable PN as IEEE 802.1AE gives: one above that
PN's upper half when its bit 31 is 1 and bit 31 of the received half is 0 (log entry 20). -/
def Sa.recoverPn (s : Sa) (low : Nat) : Nat :=
  if suiteXpn s.suite then
    let hi := s.lowest / 2 ^ 32
    (if bit s.lowest 31 && !bit low 31 then hi + 1 else hi) % 2 ^ 32 * 2 ^ 32 + low
  else low

/-! ### Retiring and switching (R160, R164, R168, R169) -/

/-- R85: the SAs under which an ingot port receives have changed, so the port is unsynchronised (log entry 52). -/
def Chip.rxUnsync (c : Chip) (ch : Nat) : Chip :=
  let k := c.chan ch
  let i := k.linePort * 4 + k.subPort
  if k.valid && k.dir && k.portCh then
    let g : IngotPort := SMap.get (fun _ => {}) c.path.ingots i
    (c.modPath fun p => { p with ingots := SMap.set (fun _ => {}) p.ingots i { g with rxSync := false } }).setF
      F.PRT_FRM_STAT_rx_sync [k.linePort, k.subPort] 0
  else c

/-- R160, R164: an SA retires: its AN is freed and quiet, and its key slot is no longer bound. -/
def Chip.retireSa (c : Chip) (i : Nat) : Chip :=
  let s := c.sa i
  let k := c.chan s.channel
  let ends := c.nowUs + c.getF F.SAX_REKEY_CFG_aq [] * c.getF F.SAX_REKEY_CFG_w []
  let c := c.setSa i { s with state := 2 }
  let k := { k with txCur := k.txCur && !(k.saAt s.an = some i && k.txAn = s.an && !s.dir) }
  let c := (c.rxUnsync s.channel).setChan s.channel ((k.setSaAt s.an none).setQuietAt s.an ends)
  c.setSlot (slotOf s.key) { c.slot (slotOf s.key) with bound := false }

/-- The SA and its key slot are both VALID. -/
def Chip.saLive (c : Chip) (i : Nat) : Bool := (c.sa i).state = 1 && c.checkKey (c.sa i).key = 0

/-- The schedule of a channel ends. -/
def Chip.endSchedule (c : Chip) (ch : Nat) : Chip :=
  let c := c.setChan ch { c.chan ch with sched := false, schedCur := 0, schedNext := 0, schedEpoch := 0 }
  c.modSax fun a => { a with closes := a.closes.filter fun x => x.channel ≠ ch }

/-- R168: a schedule is missed. The source of its event is the next SA (DESIGN CHOICE, log entry 63). -/
def Chip.missSchedule (c : Chip) (ch : Nat) : Chip :=
  let next := (c.chan ch).schedNext
  ((c.endSchedule ch).setF F.SAX_STAT_missed [] 1).raise Ev.SCHED_MISSED (saSource next)

/-- R168: the transmit switch. The old SA retires by it, which EV_SA_RETIRED says behind EV_SA_SWITCHED (Table 06.8; log
entry 53). -/
def Chip.switchTx (c : Chip) (ch : Nat) : Chip :=
  let k := c.chan ch
  let old := k.schedCur
  let new := k.schedNext
  let items := [(4, ch), (4, (c.saHandle old).toNat), (4, (c.saHandle new).toNat), (8, k.schedEpoch)]
  let c := c.retireSa old
  let c := c.setChan ch { c.chan ch with txAn := (c.sa new).an, txCur := true, prevTx := some old }
  ((c.endSchedule ch).raise Ev.SA_SWITCHED (saSource old) items).raise Ev.SA_RETIRED (saSource old)

/-- R168, R169: the tick to E reaches CK_CORE. A receive schedule whose next SA is live waits for its window to
close. In STANDBY schedules change only through the copy (R158, R173). -/
def Chip.scheduledSwitch (c : Chip) (ch : Nat) : Chip :=
  let k := c.chan ch
  if c.inMode [.standby] || !k.sched || c.tim.epoch < k.schedEpoch || c.sax.closes.any (·.channel = ch) then c
  else if !c.saLive k.schedNext then c.missSchedule ch
  else if k.dir then
    c.modSax fun a => { a with closes := a.closes ++ [⟨ch, k.schedCur, c.now + c.rekeyW⟩] }
  else c.switchTx ch

def execScheduledSwitch (channel : Fin 32768) := lift fun c => c.scheduledSwitch channel.val

/-- R169: the window opens. -/
def Chip.windowOpen (c : Chip) (ch : Nat) : Chip :=
  let k := c.chan ch
  if !c.inMode [.standby] && k.sched && k.dir && (k.schedEpoch ≤ c.tim.epoch || (c.tim.epoch + 1 = k.schedEpoch && c.tim.windowDone)) then
    (c.setSa k.schedNext { c.sa k.schedNext with hold := false }).rxUnsync ch
  else c

def execRxWindowOpen (channel : Fin 32768) := lift fun c => c.windowOpen channel.val

/-- R169: the window closes, W after the tick. A window whose schedule the copy has ended meanwhile is forgotten. -/
def Chip.windowClose (c : Chip) (ch : Nat) : Chip :=
  match c.sax.closes.find? (·.channel = ch) with
  | none => c
  | some x =>
    if c.inMode [.standby] then c
    else if !(c.chan ch).sched || (c.chan ch).schedCur ≠ x.sa then
      c.modSax fun a => { a with closes := a.closes.filter fun x => x.channel ≠ ch }
    else
    let c := c.reachElapsed x.due
    let live := (c.sa x.sa).state = 1
    let c := c.when live fun d => d.retireSa x.sa
    (c.endSchedule ch).when live fun d => d.raise Ev.SA_RETIRED (saSource x.sa)

def execRxWindowClose (channel : Fin 32768) := lift fun c => c.windowClose channel.val

/-- R206: the epoch counter has jumped from what it was in `old`: every pending schedule whose E it passed executes, and
its receive window opens. -/
def Chip.jumped (c old : Chip) : Chip :=
  if c.tim.epoch = old.tim.epoch then c
  else
    let l := (c.sax.channels.filter fun p => p.2.sched && p.2.schedEpoch ≤ c.tim.epoch).map (·.1)
    c.each l fun c ch => (c.windowOpen ch).scheduledSwitch ch

/-- R202: a step, with what its jump of the counter executes. -/
def Chip.stepAll (c : Chip) : Chip := c.timeStep.jumped c

/-! ### The read window (R178, Table 06.11) -/

/-- The seven words at SAX offsets 0x24 to 0x3C for an SA context. -/
def Chip.saWindow (c : Chip) (i : Nat) : List Nat :=
  let s := c.sa i
  let pn := if s.dir then s.highest else s.nextPn
  let low := if s.dir then s.lowest else 0
  let cur := !s.dir && s.state = 1 && (c.chan s.channel).current = some i
  [s.state.toNat + 4 * b2n s.dir + 8 * s.an + 32 * s.suite + 128 * b2n s.hold + 256 * b2n s.soon +
      512 * b2n s.stopped + 1024 * b2n cur + 2048 * s.replayWin + 2 ^ 24 * s.generation,
   s.key.toNat, pn % 2 ^ 32, pn / 2 ^ 32, low % 2 ^ 32, low / 2 ^ 32, s.channel]

/-- R178: a snapshot of a context into the read window. -/
def Chip.saSnapshot (c : Chip) (i : Nat) : Chip :=
  let w := c.saWindow i
  let info := w.getD 0 0
  let c := (((((c.setF F.SAX_SA_INFO_state [] info).setF F.SAX_SA_INFO_dir [] (info / 4)).setF F.SAX_SA_INFO_an []
    (info / 8)).setF F.SAX_SA_INFO_suite [] (info / 32)).setF F.SAX_SA_INFO_hold [] (info / 128)).setF
    F.SAX_SA_INFO_soon [] (info / 256)
  let c := ((c.setF F.SAX_SA_INFO_stopped [] (info / 512)).setF F.SAX_SA_INFO_current [] (info / 1024)).setF
    F.SAX_SA_INFO_replay_win [] (info / 2048)
  let c := ((c.setF F.SAX_SA_INFO_generation [] (info / 2 ^ 24)).setF F.SAX_SA_KEY_key [] (w.getD 1 0)).setF
    F.SAX_SA_PN_LO_pn_lo [] (w.getD 2 0)
  let c := ((c.setF F.SAX_SA_PN_HI_pn_hi [] (w.getD 3 0)).setF F.SAX_SA_LOW_LO_low_lo [] (w.getD 4 0)).setF
    F.SAX_SA_LOW_HI_low_hi [] (w.getD 5 0)
  c.setF F.SAX_SA_CH_channel [] (w.getD 6 0)

end Sys2Proof.Machine
end

