-- ==== Sys2Proof/Machine/FrameCore.lean ====
section
/-! DEFINITION. The frames inside the part: their numbers, ports and counters, the parse summary, drops, the frames
that go to the driver, and the MACsec and ingot cryptography (chapters 02 to 04). -/
namespace Sys2Proof.Machine

/-! ### Frames and ports -/

def Chip.frame (c : Chip) (n : Nat) : Option Frame := SMap.get (fun _ => none) c.path.frames n

def Chip.setFrame (c : Chip) (n : Nat) (f : Option Frame) : Chip :=
  c.modPath fun p => { p with frames := SMap.set (fun _ => none) p.frames n f }

/-- A frame enters the part under the next number. -/
def Chip.addFrame (c : Chip) (f : Frame) : Nat × Chip :=
  let n := c.path.next
  (n, (c.setFrame n (some f)).modPath fun p => { p with next := n + 1 })

/-- A change of one frame; nothing where the number names none. -/
def Chip.onFrame (c : Chip) (n : Nat) (g : Frame → Chip → Chip) : Chip :=
  match c.frame n with
  | some f => g f c
  | none => c

/-- The frames inside the part, with their numbers. -/
def Chip.frameList (c : Chip) : List (Nat × Frame) :=
  c.path.frames.filterMap fun p => p.2.map fun f => (p.1, f)

/-- Table 02.5: port numbers 8 to 15 are line ports. -/
def isLine (p : Nat) : Bool := 8 ≤ p && p < 16

/-- R220: the scheduler port of a port and sub-port. -/
def schedOf (p b : Nat) : Nat := if p < 16 then p * 4 + b else 48 + p

/-- The port of a scheduler port, and its sub-port. -/
def portOf (s : Nat) : Nat × Nat := if s < 64 then (s / 4, s % 4) else (s - 48, 0)

/-- A path counter of a port (Table 19.4). -/
def Chip.portCount (c : Chip) (s k : Nat) (n : Nat := 1) : Chip := c.count false (s * 0x80 + k) n

/-- The sub-port is up (R538). -/
def Chip.portUp (c : Chip) (p b : Nat) : Bool := bit (c.getF F.PRT_LINK_STAT_up [p]) b

/-- A line sub-port runs in ingot mode (R62). -/
def Chip.ingotMode (c : Chip) (p b : Nat) : Bool := isLine p && c.getF F.PRT_FRM_CFG_mode [p - 8, b] = 1

/-- A line sub-port runs in MACsec mode. -/
def Chip.macsecMode (c : Chip) (p b : Nat) : Bool := isLine p && !c.ingotMode p b

/-- The ingot size S of a line sub-port (Table 03.5). -/
def Chip.ingotSize (c : Chip) (p b : Nat) : Nat := 1024 * 2 ^ c.getF F.PRT_FRM_CFG_size [p - 8, b]

/-- Table 02.1, R545: the maximum frame length in force. -/
def Chip.maxLen (c : Chip) (p b : Nat) : Nat :=
  if c.ingotMode p b then c.ingotSize p b - 20 else c.getF F.PRT_SUB_CFG_max_len [p, b]

/-- The MAC rate of a port in Mb/s (Table 21.1). -/
def Chip.macRate (c : Chip) (p : Nat) : Nat :=
  if p < 16 then
    match c.getF F.PRT_LINK_CFG_pmode [p] with
    | 0 => 400000
    | 1 => 200000
    | 3 => 200000
    | _ => 100000
  else 400000

/-- The sub-port of an Ethernet lane of port `p` (Table 21.1). -/
def Chip.laneSub (c : Chip) (p i : Nat) : Nat :=
  match c.getF F.PRT_LINK_CFG_pmode [p] with
  | 1 => i / 2
  | 2 => i
  | _ => 0

/-- The lanes of a sub-port. -/
def Chip.subLanes (c : Chip) (p b : Nat) : List Nat :=
  ((List.range 4).filter fun i => c.laneSub p i = b).map (p * 4 + ·)

/-- The lowest lane of a sub-port (R208). -/
def Chip.lowLane (c : Chip) (p b : Nat) : Nat := (c.subLanes p b).headD (p * 4)

/-- The bytes of an ingress pool in use: the frames that await or are in classification (R33). -/
def Chip.poolUsed (c : Chip) (s : Nat) : Nat :=
  (c.frameList.filter fun p => schedOf p.2.entry p.2.sub = s && p.2.kid.isSome &&
    (match p.2.stage with | .pool => true | .ladle _ => true | _ => false)).foldl
      (fun n p => n + p.2.data.length + 4) 0

/-! ### The parse assist (R34, R35, Table 02.2) -/

/-- A big-endian 16-bit field of a frame. -/
def be16 (d : Bytes) (o : Nat) : Nat := beNat (slice d o 2)

def isVlan (t : Nat) : Bool := t = 0x8100 || t = 0x88A8

/-- The window of a port in bytes. -/
def Chip.hdrWin (c : Chip) (p b : Nat) : Nat := 64 * (c.getF F.PRT_SUB_CFG_hdr_win [p, b] + 1)

/-- The layer-3 part of the summary: l3, l3_off, l4_off, l4_proto, l3_stop, short. -/
structure L3 where
  l3 : Nat := 0
  l3Off : Nat := 0
  l4Off : Nat := 0
  proto : Nat := 0
  stop : Bool := false
  short : Bool := false
  deriving DecidableEq, Repr

/-- The layer-4 header at `o`, when the whole of it, 20 bytes of TCP or 8 of UDP, lies in the window (DESIGN CHOICE, log
entry 52). -/
def parseL4 (win o proto : Nat) (r : L3) : L3 :=
  let need := if proto = 6 then 20 else 8
  if proto = 6 || proto = 17 then
    if o + need ≤ win then { r with l4Off := o, proto := proto } else { r with proto := proto, short := true }
  else { r with proto := proto }

/-- The IP header at `o`; for other EtherTypes l3_off is the payload's offset (DESIGN CHOICE, log entry 52). -/
def parseL3 (d : Bytes) (win o etype : Nat) : L3 :=
  if etype = 0x0800 then
    if win < o + 20 then { l3 := 1, l3Off := o, short := true }
    else
      let proto := (d.getD (o + 9) 0).toNat
      if (d.getD o 0).toNat % 16 = 5 then parseL4 win (o + 20) proto { l3 := 1, l3Off := o }
      else { l3 := 1, l3Off := o, proto := proto, stop := true }
  else if etype = 0x86DD then
    if win < o + 40 then { l3 := 2, l3Off := o, short := true }
    else
      let proto := (d.getD (o + 6) 0).toNat
      if [0, 43, 44, 50, 51, 60, 135].contains proto then { l3 := 2, l3Off := o, proto := proto, stop := true }
      else parseL4 win (o + 40) proto { l3 := 2, l3Off := o }
  else { l3 := 3, l3Off := o }

/-- R34, R35: the parse summary of a frame whose window is `hdrWin` bytes. l2_len of a MACsec frame points behind its
EtherType, as Table 02.2 says of every frame, though Table 03.2 counts that EtherType to the SecTAG (DESIGN CHOICE, log
entry 52). -/
def parseSummary (d : Bytes) (hdrWin : Nat) : Nat :=
  let win := min hdrWin d.length
  let tag1 := isVlan (be16 d 12)
  let tag2 := tag1 && isVlan (be16 d 16)
  let tag3 := tag2 && isVlan (be16 d 20)
  let tags := if tag2 then 2 else if tag1 then 1 else 0
  let o := 12 + 4 * tags
  let etype := be16 d o
  let cut := win < o + 2
  let macsec := !cut && etype = 0x88E5
  let ingot := !cut && etype = 0x88B5
  let r : L3 := if cut then { short := true } else if tag3 || macsec || ingot then {} else parseL3 d win (o + 2) etype
  let mgmt := etype = 0x888E || (slice d 0 5 = [0x01, 0x80, 0xC2, 0x00, 0x00] && (d.getD 5 0).toNat < 16)
  let ptp := etype = 0x88F7 ||
    (r.proto = 17 && r.l4Off ≠ 0 && (be16 d (r.l4Off + 2) = 319 || be16 d (r.l4Off + 2) = 320))
  o + 2 + 2 ^ 8 * (if tag3 then 3 else tags) + 2 ^ 10 * etype + 2 ^ 26 * b2n macsec + 2 ^ 27 * b2n ingot +
    2 ^ 28 * b2n mgmt + 2 ^ 29 * b2n ptp + 2 ^ 30 * r.l3 + 2 ^ 32 * r.l3Off + 2 ^ 40 * r.l4Off +
    2 ^ 48 * r.proto + 2 ^ 56 * b2n r.stop + 2 ^ 57 * b2n r.short

/-- The frame is a MACsec frame by its summary. -/
def Frame.macsec (f : Frame) : Bool := bit f.summary 26

/-- The frame is an ingot by its summary. -/
def Frame.isIngot (f : Frame) : Bool := bit f.summary 27

/-- The offset of the EtherType of a line frame, behind the VLAN tags that its summary counts. -/
def Frame.typeAt (f : Frame) : Nat := 12 + 4 * bits f.summary 9 8

/-! ### Queues that count a frame -/

def Chip.queueSt (c : Chip) (q : Nat) : QueueSt := SMap.get (fun _ => {}) c.slu.queues q

def Chip.setQueueSt (c : Chip) (q : Nat) (v : QueueSt) : Chip :=
  c.modSlu fun s => { s with queues := SMap.set (fun _ => {}) s.queues q v }

/-- The SCI is sent on a line sub-port. -/
def Chip.sciTx (c : Chip) (p b : Nat) : Bool := c.getB F.PRT_FRM_CFG_sci_tx [p - 8, b]

/-- The line sub-port whose framing a frame's seal follows: its egress port, or, for a frame bound for another device,
that of its SA's channel (log entry 22). -/
def Chip.sealPort (c : Chip) (f : Frame) : Nat × Nat :=
  if isLine f.outPort then (f.outPort, f.outSub)
  else
    let k := c.chan (c.sa (saOf (f.sealMark.getD 0))).channel
    (8 + k.linePort, k.subPort)

/-- R223: the length a frame takes in the buffer: N, or N + 24 or N + 32 for a frame sealed after admission. -/
def Chip.storedLen (c : Chip) (f : Frame) : Nat :=
  let n := f.data.length + 4
  if f.sealMark.isNone then n
  else
    let (p, b) := c.sealPort f
    if c.sciTx p b then n + 32 else n + 24

/-- A frame leaves the queue that counts it: its bytes and its place. -/
def Chip.unqueue (c : Chip) (n : Nat) : Chip :=
  c.onFrame n fun f c =>
    match f.queue with
    | none => c
    | some q =>
      let st := c.queueSt q
      let c := c.setQueueSt q { st with frames := st.frames.filter (· ≠ n), bytes := st.bytes - f.stored }
      c.setFrame n (some { f with queue := none })

/-- The frame's OPEN has been issued and has no verdict yet. -/
def Frame.openPending (f : Frame) : Bool := f.verdict.isNone && (f.early.getD {}).opened

/-- The frame leaves as its OPEN gives it, and has no verdict yet. -/
def Frame.unproved (f : Frame) : Bool := f.bound.isSome && f.openPending

/-- R112: an OPEN of an earlier frame of the same line port and SA has no verdict yet. -/
def Chip.openBefore (c : Chip) (n : Nat) (f : Frame) : Bool :=
  c.frameList.any fun e => e.1 < n && e.2.entry = f.entry && e.2.sub = f.sub && e.2.sa = f.sa && e.2.openPending

/-- A frame's path ends. What its last byte or its outstanding OPEN still needs of it stays until then (R32, R102). -/
def Chip.removeFrame (c : Chip) (n : Nat) : Chip :=
  let c := c.unqueue n
  c.onFrame n fun f c => c.setFrame n (if f.coming || f.openPending then some { f with stage := .gone } else none)

/-! ### Completions and drops (R52, R60, Table 02.8, Table 02.9) -/

/-- The 32 bytes of a look-aside or exception-out completion. -/
def completion (cookie : DWord) (status written : Nat) (tail : Bytes) : Bytes :=
  leBytes 8 cookie.toNat ++ leBytes 4 (status + 256 * b2n (status = 1)) ++ leBytes 4 written ++ slice tail 0 12 ++
    leBytes 4 0

/-- The completion of an exception-out frame; its timestamp where one was asked for. A frame whose ring has been reset since has
none (R383). -/
def Chip.hostDone (c : Chip) (h : Option Nat × DWord × Nat × Nat) (status : Nat) (ts : Option Clock) : Chip :=
  let tail := match ts with
    | some k => leBytes 8 (k.frac + k.ns * 2 ^ 16) ++ leBytes 4 k.sec
    | none => []
  match h.1 with
  | some r => c.ringComplete (r + 16) (completion h.2.1 status 0 tail)
  | none => c

/-- R53: the status that corresponds to a reason for which a posted frame is refused or lost; none where Table 02.8
has no such status. NO_SA has none of its name there and gives KEY_INVALID (DESIGN CHOICE, log entry 52). -/
def hostStatus (reason : Nat) : Option Nat :=
  match reason with
  | 0x89 => some 0x0C
  | 0x8A => some 0x03
  | 0x8B => some 0x04
  | 0x8C => some 0x07
  | 0x8D => some 0x08
  | 0x91 => some 0x0F
  | 0x95 => some 0x11
  | _ => none

/-- An event of a port carries its sub-port (R533), as a first 4-byte item, before the items that its rule names, also on a
port that is not broken out (DESIGN CHOICE, log entry 62). -/
def Chip.portEvent (c : Chip) (code p b : Nat) (items : List (Nat × Nat) := []) : Chip :=
  c.raise code (0x400 + p) ((4, b) :: items)

/-! ### Frames to the driver (R50, R51, Table 02.5) -/

/-- The descriptor of Table 02.5. -/
def excDescriptor (f : Frame) (len : Nat) (untrusted trunc opened : Bool) (reason : Nat) (sa : Word) : Bytes :=
  leBytes 4 (len + 2 ^ 16 * reason + 2 ^ 24 * b2n untrusted + 2 ^ 25 * b2n f.tsValid + 2 ^ 26 * b2n trunc +
      2 ^ 27 * b2n opened)
    ++ leBytes 4 (f.sub + 4 * f.entry + 2 ^ 16 * (f.channel.getD 0xFFFF))
    ++ leBytes 4 sa.toNat ++ leBytes 4 f.progData.toNat
    ++ leBytes 8 (f.ts.frac + 2 ^ 16 * f.ts.ns) ++ leBytes 8 f.ts.sec

/-- R51: whether exception-in ring `e` has a free buffer; none while DMA of PF0 is gated (R522). -/
def Chip.excFree (c : Chip) (e : Nat) : Bool :=
  c.ringEn (8 + e) && c.ringUsed (8 + e) + (c.ring (8 + e)).waits.length < c.ringSize (8 + e) && c.dmaAllowed 0

/-- The size of a buffer of exception-in ring `e`. -/
def Chip.excSize (c : Chip) (e : Nat) : Nat := c.getF F.HIF_RING_CFG_buf_size [8 + e] * 256

/-- The next free buffer of ring `e` is taken, and a body, with its FCS, written to it. Its descriptor may still wait for
the verdict of frame `n`. -/
def Chip.takeBuffer (c : Chip) (e : Nat) (body : Bytes) (n : Nat) (desc : Option Bytes) : Chip :=
  let r := 8 + e
  let g := c.ring r
  let k := (g.own.toNat + g.waits.length) % c.ringSize r
  let base := c.getF F.HIF_RING_BUF_HI_buf [r] * 2 ^ 32 + c.getF F.HIF_RING_BUF_LO_buf [r] * 2 ^ 8
  let c := c.dma 0 (.hostWrite 0 (base + k * c.excSize e) ((body ++ fcs body).take (c.excSize e)))
  c.setRing r { g with waits := g.waits ++ [⟨n, desc⟩] }

/-- Descriptors are written in the order in which their buffers were taken, as far as they are known; `n` bounds the walk. -/
def Chip.flushRing (c : Chip) (r : Nat) : Nat → Chip
  | 0 => c
  | n + 1 =>
    let g := c.ring r
    match g.waits with
    | ⟨_, some d⟩ :: l => ((c.setRing r { g with waits := l }).ringPush r d).flushRing r n
    | _ => c

/-- A frame finds no buffer in ring `e`: it is dropped as EXC_RING_FULL. -/
def Chip.excFull (c : Chip) (f : Frame) (e : Nat) : Chip :=
  (c.portCount (schedOf f.entry f.sub) (0x20 + 0x12)).raise Ev.EXC_RING_FULL (0x708 + e)

/-- The descriptor of a body sent to ring `e`. -/
def Chip.excDesc (c : Chip) (f : Frame) (e : Nat) (body : Bytes) (opened untrusted : Bool) (sa : Word) : Bytes :=
  excDescriptor f (body.length + 4) untrusted (c.excSize e < body.length + 4) opened f.reason sa

/-- R50, R51: a frame written to an exception-in ring: buffer, then descriptor, which waits for those of buffers taken
before. A frame that finds no buffer is dropped as EXC_RING_FULL. -/
def Chip.toHost (c : Chip) (f : Frame) (e : Nat) (body : Bytes) (opened untrusted : Bool) (sa : Word) :
    Chip :=
  if c.excFree e then
    let c := c.takeBuffer e body 0 (some (c.excDesc f e body opened untrusted sa))
    (c.flushRing (8 + e) (c.ring (8 + e)).waits.length).portCount (schedOf f.entry f.sub) (if untrusted then 9 else 8)
  else c.excFull f e

/-! ### MACsec (R64 to R67) -/

/-- The IV of a packet number under an SA (R67): SCI and PN, or for XPN the SSCI, the 64-bit PN and the salt. -/
def macIv (s : Sa) (sci pn : Nat) : BitVec 96 :=
  if suiteXpn s.suite then BitVec.ofNat 96 (s.ssci.toNat * 2 ^ 64 + pn % 2 ^ 64) ^^^ s.salt
  else BitVec.ofNat 96 (sci % 2 ^ 64 * 2 ^ 32 + pn % 2 ^ 32)

/-- The confidentiality offset of a line sub-port in bytes. -/
def Chip.confOff (c : Chip) (p b : Nat) : Nat := [0, 30, 50, 0].getD (c.getF F.PRT_FRM_CFG_conf_off [p - 8, b]) 0

/-- The SecTAG of Table 03.2. -/
def secTag (sci : Option Nat) (an sl pn : Nat) : Bytes :=
  [0x88, 0xE5, BitVec.ofNat 8 ((if sci.isSome then 0x20 else 0x40) + 0x0C + an), BitVec.ofNat 8 sl]
    ++ beBytes 4 pn ++ (match sci with | some v => beBytes 8 v | none => [])

/-- R65, R66: the MACsec frame of a client frame, FCS excluded. -/
def Chip.macSeal (c : Chip) (i pn p b : Nat) (d : Bytes) : Bytes :=
  let s := c.sa i
  let sci := if c.sciTx p b then (c.chan s.channel).sci.toNat else beNat (slice d 6 6) * 2 ^ 16 + 1
  let tag := secTag (if c.sciTx p b then some sci else none) s.an (if d.length - 12 < 48 then d.length - 12 else 0) pn
  let sec := d.drop 12
  let k := c.confOff p b
  let key := (c.slot (slotOf s.key)).key
  let iv := macIv s sci pn
  let head := slice d 0 12 ++ tag ++ sec.take k
  let cipher := gcmXor (suite256 s.suite) key iv (sec.drop k)
  head ++ cipher ++ beBytes 16 (Config.gcmTag (suite256 s.suite) key iv head cipher).toNat

/-- A SecTAG as received: its fields and its length. -/
structure RxTag where
  v : Bool
  es : Bool
  sc : Bool
  scb : Bool
  e : Bool
  cc : Bool
  an : Nat
  sl : Nat
  pn : Nat
  sci : Nat
  len : Nat
  deriving DecidableEq, Repr

/-- The SecTAG of a frame whose EtherType is at offset `o`. -/
def rxTag (d : Bytes) (o : Nat) : RxTag :=
  let t := (d.getD (o + 2) 0).toNat
  let sc := bit t 5
  { v := bit t 7, es := bit t 6, sc := sc, scb := bit t 4, e := bit t 3, cc := bit t 2, an := t % 4,
    sl := (d.getD (o + 3) 0).toNat % 64, pn := beNat (slice d (o + 4) 4),
    sci := if sc then beNat (slice d (o + 8) 8) else beNat (slice d 6 6) * 2 ^ 16 + 1, len := if sc then 16 else 8 }

/-- R68: the rules for a received SecTAG at offset `o`. `xpn` says whether the SA uses an XPN suite. -/
def RxTag.good (t : RxTag) (d : Bytes) (o : Nat) (xpn : Bool) : Bool :=
  !t.v && !(t.es && t.sc) && !t.scb && t.e && t.cc &&
    (t.sl < 48 && (t.sl = 0 || t.sl + o + t.len + 16 = d.length)) && (xpn || t.pn ≠ 0) &&
    o + t.len + 16 ≤ d.length

/-- R67, R102: what opening a MACsec frame under an SA gives: the client frame, and whether the ICV matches. VLAN tags before
the SecTAG, which R64 lists as unsupported, are additional data and stay in the client frame (DESIGN CHOICE, log
entry 21). -/
def Chip.macOpen (c : Chip) (i pn p b : Nat) (d : Bytes) (o : Nat) : Bytes × Bool :=
  let s := c.sa i
  let t := rxTag d o
  let k := min (c.confOff p b) (d.length - o - 16 - t.len)
  let headLen := o + t.len + k
  let key := (c.slot (slotOf s.key)).key
  let sci := (c.chan s.channel).sci.toNat
  let iv := macIv s sci pn
  let cipher := slice d headLen (d.length - 16 - headLen)
  let tag := Config.gcmTag (suite256 s.suite) key iv (d.take headLen) cipher
  (slice d 0 o ++ slice d (o + t.len) k ++ gcmXor (suite256 s.suite) key iv cipher,
    beBytes 16 tag.toNat = d.drop (d.length - 16))

/-! ### Ingots (R71 to R76) -/

/-- The ingot header of Table 03.5. -/
def ingotHeader (an size gen index pn seq : Nat) : Bytes :=
  [BitVec.ofNat 8 (16 + 4 * an + size), BitVec.ofNat 8 gen] ++ beBytes 2 index ++ beBytes 8 pn ++ beBytes 8 seq ++
    beBytes 4 0

/-- A whole ingot, FCS excluded, from its body. -/
def Chip.ingotSeal (c : Chip) (p b i pn seq : Nat) (body : Bytes) : Bytes :=
  let s := c.sa i
  let da := c.getF F.PRT_INGOT_DA_HI_da_hi [p - 8, b] * 2 ^ 32 + c.getF F.PRT_INGOT_DA_LO_da_lo [p - 8, b]
  let mac := c.getF F.PRT_MAC_HI_mac [p, b] * 2 ^ 32 + c.getF F.PRT_MAC_LO_mac [p, b]
  let head := beBytes 6 da ++ beBytes 6 mac ++ [0x88, 0xB5] ++
    ingotHeader s.an (c.getF F.PRT_FRM_CFG_size [p - 8, b]) s.peerGen s.peerIndex pn seq
  let key := (c.slot (slotOf s.key)).key
  let iv := macIv s 0 pn
  let cipher := gcmXor (suite256 s.suite) key iv body
  head ++ cipher ++ beBytes 16 (Config.gcmTag (suite256 s.suite) key iv head cipher).toNat

/-- The body of a received ingot whose EtherType is at offset `o`, and whether its tag matches. -/
def Chip.ingotOpen (c : Chip) (i pn : Nat) (d : Bytes) (o : Nat) : Bytes × Bool :=
  let s := c.sa i
  let key := (c.slot (slotOf s.key)).key
  let iv := macIv s 0 pn
  let cipher := slice d (o + 26) (d.length - o - 42)
  (gcmXor (suite256 s.suite) key iv cipher,
    beBytes 16 (Config.gcmTag (suite256 s.suite) key iv (d.take (o + 26)) cipher).toNat = d.drop (d.length - 16))

/-- The fields of a received ingot header behind the EtherType at offset `o`. -/
def rxIngot (d : Bytes) (o : Nat) : Nat × Nat × Nat × Nat × Nat × Nat × Nat :=
  let b0 := (d.getD (o + 2) 0).toNat
  (b0 / 16, b0 / 4 % 4, b0 % 4, (d.getD (o + 3) 0).toNat, beNat (slice d (o + 4) 2), beNat (slice d (o + 6) 8),
    beNat (slice d (o + 14) 8))

end Sys2Proof.Machine
end

