-- ==== Sys2Proof/Machine/Lines.lean ====
section
/-! DEFINITION. Chapter 11: buffer addresses and lines, their encryption and tags, the counter tree, writes and reads of
lines, poison, and the lines that frames hold in the HBM data region. -/
namespace Sys2Proof.Machine

/-! ### Addresses and key IDs (R273 to R276) -/

/-- A buffer address (Table 11.1). -/
def bufferAddr (kid : Nat) (hbm : Bool) (line byte : Nat) : Nat := kid * 2 ^ 43 + b2n hbm * 2 ^ 42 + line * 2 ^ 6 + byte

/-- The lines of the HBM data region. -/
def hbmLines : Nat := 461373440

/-- The state of a memory key ID (R275). -/
def Chip.kidState (c : Chip) (kid : Nat) : Nat := SMap.get (fun _ => 0) c.buf.states kid

/-- R275, R278: buffers are allocated under an ACTIVE key ID only. -/
def Chip.kidActive (c : Chip) (kid : Nat) : Bool := c.kidState kid = 1

/-- R276: a line is read under an ACTIVE, FLUSHING or FLUSHED key ID only. -/
def Chip.kidReads (c : Chip) (kid : Nat) : Bool := [1, 2, 3].contains (c.kidState kid)

/-- R275: the key IDs are not loaded. -/
def Chip.noKeys (c : Chip) : Bool := c.getB F.MEM_STAT_no_keys []

/-- The 64-byte lines of some bytes, the last padded with zeros (R282). -/
def linesOf (d : Bytes) : List Bytes :=
  (List.range ((d.length + 63) / 64)).map fun i => slice d (64 * i) 64

/-- What a frame's buffer holds: its bytes as its queue sends them, with their FCS. -/
def Frame.stores (f : Frame) : Bytes :=
  let d := if f.bound.isSome then f.plain else f.data
  d ++ fcs d

/-- R276: a read of an on-die line under a key ID; none is poison. -/
def Chip.dieRead (c : Chip) (kid line : Nat) : Option Bytes :=
  match SMap.get (fun _ => none) c.buf.die line with
  | some (d, k) => if k = kid && c.kidReads kid then some d else none
  | none => none

/-- R276, R284: a frame is read with poison: it is marked, its key ID serves no reads, or a line of it on die was last written
under another ID. -/
def Chip.readsPoison (c : Chip) (f : Frame) : Bool :=
  f.poisoned || f.kid.any fun k => !c.kidReads k || f.die.any fun i => (c.dieRead k i).isNone

/-- The on-die lines that frames and reassembly contexts hold. -/
def Chip.dieHeld (c : Chip) : List Nat :=
  (c.frameList.flatMap fun x => x.2.die) ++ c.path.ingots.flatMap fun g => g.2.contexts.flatMap fun r => r.die

/-- R276, R282: bytes written whole to on-die lines under a key ID: those that the buffer holds, and the lowest free ones for
what they do not take (DESIGN CHOICE, log entry 57). The lines that it holds then; a line released keeps its plaintext. -/
def Chip.dieWrite (c : Chip) (kid : Nat) (own : List Nat) (d : Bytes) : List Nat × Chip :=
  let data := linesOf d
  let used := c.dieHeld
  let free := (List.range (used.length + data.length)).filter fun i => !used.contains i
  let l := (own ++ free).take data.length
  (l, c.modBuf fun b => { b with
    die := (l.zip data).foldl (fun m x => SMap.set (fun _ => none) m x.1 (some (x.2, kid))) b.die })

/-- A frame's data is written to its lines on die under its key ID. -/
def Chip.dieStore (c : Chip) (n : Nat) : Chip :=
  c.onFrame n fun f c =>
    match f.kid with
    | some k =>
      let (l, c) := c.dieWrite k f.die f.stores
      c.setFrame n (some { f with die := l })
    | none => c

/-- R278, R285: a frame's buffer is released under it: the frame is dropped as POISONED when it is next read. -/
def Frame.release (f : Frame) : Frame := { f with poisoned := true, kid := none, lines := [], die := [] }

/-! ### Encryption and tags (R277) -/

/-- The counter block of 16-byte block `i` of a line under its version. -/
def counterBlock (line major minor i : Nat) : BitVec 128 :=
  BitVec.ofNat 36 line ++ BitVec.ofNat 64 major ++ BitVec.ofNat 7 minor ++ BitVec.ofNat 2 i ++ (0 : BitVec 19)

/-- A line enciphered, or deciphered, under its key and version. -/
def lineXor (key : BitVec 256) (line major minor : Nat) (d : Bytes) : Bytes :=
  List.zipWith (· ^^^ ·) d
    ((List.range 4).flatMap fun i => beBytes 16 (Config.aesBlock true key (counterBlock line major minor i)).toNat)

/-- The tag of a line: a hash over ciphertext, buffer address and version under the tag key, masked with an AES-256 block
of that key. -/
def lineTag (k : KidKeys) (kid line major minor : Nat) (cipher : Bytes) : DWord :=
  let addr := bufferAddr kid true line 0
  Config.tagTake (Config.lineHash k.tag (cipher ++ beBytes 6 addr ++ beBytes 8 major ++ [BitVec.ofNat 8 minor]) ^^^
    Config.aesBlock true k.tag (Config.lineMask addr major minor))

/-- Where a line's tag lies: word *line* mod 8 of tag line *line* div 8, eight words a line. -/
def tagWord (line : Nat) : Nat := line / 8 * 8 + line % 8

/-! ### The counter tree (R279, R280). Node `i` of a level is reached over `n` = 5 - level levels from the root. -/

def nodeKey (level i : Nat) : Nat := level * 2 ^ 24 + i

/-- The counters of a cached node; levels 3 to 5 are always cached. -/
def Buffer.held (b : Buffer) (k : Nat) : Option (SMap Nat) :=
  match b.cache.find? (·.key = k) with
  | some x => some x.ctr
  | none => if nodeKey 3 0 ≤ k then some [] else none

/-- A node's counters as they stand: cached, or in the HBM. -/
def Buffer.counters (b : Buffer) (k : Nat) : SMap Nat :=
  match b.held k, SMap.get (fun _ => none) b.nodes k with
  | some x, _ => x
  | none, some x => x.ctr
  | none, none => []

/-- One counter of a node. -/
def Buffer.ctr (b : Buffer) (k j : Nat) : Nat := SMap.get (fun _ => 0) (b.counters k) j

/-- The counter of a node in its parent. -/
def Buffer.parentCtr (b : Buffer) (n i : Nat) : Nat :=
  if n = 0 then SMap.get (fun _ => 0) b.root i else b.ctr (nodeKey (6 - n) (i / 8)) (i % 8)

/-- The counters of a node `n` levels below the root: 65 of a leaf, eight of a higher node. -/
def nodeWords (n : Nat) (ctr : SMap Nat) : List Nat := (List.range (if n = 5 then 65 else 8)).map (SMap.get (fun _ => 0) ctr)

/-- The MAC of a node's counters under the key ID 31. -/
def Buffer.mac (b : Buffer) (n i : Nat) (ctr : SMap Nat) : DWord :=
  let key := match SMap.get (fun _ => none) b.keys 31 with | some k => k.tag | none => 0
  Config.nodeMac key (nodeKey (5 - n) i) (b.parentCtr n i)
    (nodeWords n ctr)

/-- A node written to the HBM with its protection entry. -/
def Buffer.store (b : Buffer) (n i : Nat) (ctr : SMap Nat) : Buffer :=
  { b with
    nodes := SMap.set (fun _ => none) b.nodes (nodeKey (5 - n) i)
      (some ⟨ctr, b.mac n i ctr, Config.nodeCheck (nodeWords n ctr)⟩) }

/-- A node's counters changed in the cache. -/
def Buffer.put (b : Buffer) (k : Nat) (ctr : SMap Nat) : Buffer :=
  { b with cache := ⟨k, ctr, true⟩ :: b.cache.filter (·.key ≠ k) }

/-- A node's counter in its parent rises by 1. A parent that is not cached is written back itself. -/
def Buffer.raiseParent : Nat → Nat → Buffer → Buffer
  | 0, i, b => { b with root := SMap.set (fun _ => 0) b.root i (SMap.get (fun _ => 0) b.root i + 1) }
  | n + 1, i, b =>
    let k := nodeKey (5 - n) (i / 8)
    let ctr := SMap.set (fun _ => 0) (b.counters k) (i % 8) (b.ctr k (i % 8) + 1)
    if (b.held k).isSome then b.put k ctr else (b.raiseParent n (i / 8)).store n (i / 8) ctr

/-- A dirty node written back, its parent's counter raised by 1. -/
def Buffer.writeBack (b : Buffer) (n i : Nat) (ctr : SMap Nat) : Buffer := (Buffer.raiseParent n i b).store n i ctr

/-- The cached nodes of levels 0 to 2; the cache holds 32,736 nodes, 16,060 of them of levels 3 to 5. -/
def Buffer.low (b : Buffer) : List CacheNode := b.cache.filter (·.key < nodeKey 3 0)

/-- A full cache evicts its least recent node of levels 0 to 2. -/
def Buffer.evict (b : Buffer) : Buffer :=
  if b.low.length ≤ 32736 - 16060 then b
  else
    match b.low.getLast? with
    | none => b
    | some x =>
      let b := { b with cache := b.cache.filter (·.key ≠ x.key) }
      if x.dirty then b.writeBack (5 - x.key / 2 ^ 24) (x.key % 2 ^ 24) x.ctr else b

/-- A node is brought into the cache, verified against its parent; or the first node of its way that does not verify, its level
and number. -/
def Buffer.fetch : Nat → Nat → Buffer → Option (Nat × Nat) × Buffer
  | 0, _, b => (none, b)
  | n + 1, i, b =>
    let k := nodeKey (4 - n) i
    if n + 1 ≤ 2 then (none, b)
    else
      match b.cache.find? (·.key = k) with
      | some x => (none, { b with cache := x :: b.cache.filter (·.key ≠ k) })
      | none =>
        match Buffer.fetch n (i / 8) b with
        | (some bad, b) => (some bad, b)
        | (none, b) =>
          let good := match SMap.get (fun _ => none) b.nodes k with
            | some x => x.mac = b.mac (n + 1) i x.ctr && x.check = Config.nodeCheck (nodeWords (n + 1) x.ctr)
            | none => true
          if good then (none, Buffer.evict { b with cache := ⟨k, b.counters k, false⟩ :: b.cache })
          else (some (4 - n, i), b)

/-! ### Lines (R280 to R285) -/

/-- A line's major and minor counter: its version. -/
def Buffer.version (b : Buffer) (line : Nat) : Nat × Nat :=
  (b.ctr (nodeKey 0 (line / 64)) 64, b.ctr (nodeKey 0 (line / 64)) (line % 64))

/-- A line written under the version in force; one whose key ID has no keys is discarded (R287). -/
def Buffer.sealLine (b : Buffer) (kid line : Nat) (d : Bytes) : Buffer :=
  match SMap.get (fun _ => none) b.keys kid with
  | none => b
  | some k =>
    let (major, minor) := b.version line
    let cipher := lineXor k.enc line major minor d
    { b with
      lines := SMap.set (fun _ => none) b.lines line (some { cipher := cipher, kid := kid })
      tags := SMap.set (fun _ => 0) b.tags (tagWord line) (lineTag k kid line major minor cipher) }

/-- The plaintext of a written line under a key ID and a version; none when its tag does not match or it is marked. -/
def Buffer.openLine (b : Buffer) (kid line major minor : Nat) : Option Bytes :=
  match SMap.get (fun _ => none) b.lines line, SMap.get (fun _ => none) b.keys kid with
  | some x, some k =>
    if x.poisoned || SMap.get (fun _ => 0) b.tags (tagWord line) ≠ lineTag k kid line major minor x.cipher then none
    else some (lineXor k.enc line major minor x.cipher)
  | _, _ => none

/-- A leaf lies under an upper node. -/
def leafUnder (leaf key : Nat) : Bool := leaf / 8 ^ (key / 2 ^ 24) = key % 2 ^ 24

/-- R285: a failed upper node over a leaf that the poison map has not taken yet. -/
def Buffer.badOver (b : Buffer) (leaf : Nat) : Option (Nat × List Nat) :=
  b.badUpper.findSome? fun e => match e.2 with
    | some l => if leafUnder leaf e.1 && !l.contains leaf then some (e.1, l) else none
    | none => none

/-- R285: a line is poisoned: the map lists it, or a failed node above it has not given its leaf to the map. -/
def Buffer.listed (b : Buffer) (line : Nat) : Bool :=
  (SMap.get (fun _ => 0) b.poison (line / 64)).getLsbD (line % 64) || (b.badOver (line / 64)).isSome

/-- A leaf is initialised again: its major is open, since the spec gives none (log entry 57), and its minors are 0. -/
def Chip.leafInit (c : Chip) (leaf : Nat) : Chip :=
  let (n, c) := c.draw
  c.modBuf fun b =>
    let k := nodeKey 0 leaf
    (Buffer.writeBack { b with cache := b.cache.filter (·.key ≠ k) } 5 leaf (SMap.set (fun _ => 0) [] 64 (Config.freeNat n % 2 ^ 64)))

/-- R285: a leaf enters the poison map, with all its lines. -/
def Chip.mapLeaf (c : Chip) (leaf : Nat) : Chip :=
  c.modBuf fun b => { b with poison := SMap.set (fun _ => 0) b.poison leaf (BitVec.allOnes 64) }

/-- A tree node fails: it is initialised again under a raised parent counter, and the lines under it are poisoned: a leaf
enters the poison map, a higher node's leaves do as they are touched (R285), and so does a leaf that finds the map full. -/
def Chip.nodeBad (c : Chip) (level node : Nat) : Chip :=
  let c := ((c.bump F.MEM_NODE_FAIL_CNT_count []).setF F.MEM_STAT_node_fail [] 1).raise Ev.MEM_NODE_FAIL 0x580
    [(4, level), (4, node)]
  let k := nodeKey level node
  let c := if level = 0 then c.leafInit node
    else c.modBuf fun b => Buffer.writeBack { b with cache := b.cache.filter (·.key ≠ k) } (5 - level) node []
  if level = 0 && c.buf.poison.length < 4096 then c.mapLeaf node
  else c.modBuf fun b => { b with badUpper := SMap.set (fun _ => none) b.badUpper k (some []) }

/-- R285: a touched leaf under a failed node enters the poison map, while that has room, and the nodes between are initialised
again. -/
def Chip.leafTake (c : Chip) (leaf : Nat) : Chip :=
  match c.buf.badOver leaf with
    | none => c
    | some (key, l) =>
      if 4096 ≤ c.buf.poison.length then c
      else
        let c := c.modBuf fun b => { b with badUpper := SMap.set (fun _ => none) b.badUpper key (some (leaf :: l)) }
        let mids := ((List.range (key / 2 ^ 24)).drop 1).reverse.filter fun m => !l.any fun x => x / 8 ^ m = leaf / 8 ^ m
        let c := c.each mids fun c m => c.modBuf fun b =>
          Buffer.writeBack { b with cache := b.cache.filter (·.key ≠ nodeKey m (leaf / 8 ^ m)) } (5 - m) (leaf / 8 ^ m) []
        (c.leafInit leaf).mapLeaf leaf

/-- A leaf is touched: it is in the cache then, verified with the nodes above it. One of them that does not verify has failed
(R280, R284). -/
def Chip.leafTouch (c : Chip) (leaf : Nat) : Chip :=
  let c := c.leafTake leaf
  match Buffer.fetch 5 leaf c.buf with
  | (none, b) => c.modBuf fun _ => b
  | (some (level, node), b) =>
    (((c.modBuf fun _ => b).nodeBad level node).leafTake leaf).modBuf fun b => (Buffer.fetch 5 leaf b).2

/-- R281: a leaf's major rises, its minors become 0, and each of its written lines is deciphered under its old version and
written under the new one. A line that reads as poison stays as it is. -/
def Chip.minorOverflow (c : Chip) (leaf : Nat) : Chip :=
  let b := c.buf
  let k := nodeKey 0 leaf
  let old := (List.range 64).map fun j =>
    let line := leaf * 64 + j
    let v := b.version line
    (line, match SMap.get (fun _ => none) b.lines line with
      | some x => (b.openLine x.kid line v.1 v.2).map fun d => (x.kid, d)
      | none => none)
  let c := c.modBuf fun b => b.put k (SMap.set (fun _ => 0) [] 64 (b.ctr k 64 + 1))
  let c := c.each old fun c e => match e.2 with
    | some (kid, d) => c.modBuf fun b => b.sealLine kid e.1 d
    | none => c
  c.bump F.MEM_OVF_CNT_count []

/-- A full-line write (R280, R282): the minor rises, after an overflow where it would pass 127, and the line's bit leaves the
poison map (R285, R287). -/
def Chip.lineWrite (c : Chip) (kid line : Nat) (d : Bytes) : Chip :=
  if (SMap.get (fun _ => none) c.buf.keys kid).isNone then c
  else
    let leaf := line / 64
    let j := line % 64
    let k := nodeKey 0 leaf
    let c := c.leafTouch leaf
    let c := c.when (c.buf.ctr k j = 127) fun c => c.minorOverflow leaf
    c.modBuf fun b =>
      let b := b.put k (SMap.set (fun _ => 0) (b.counters k) j (b.ctr k j + 1))
      let mask := SMap.get (fun _ => 0) b.poison leaf
      { b.sealLine kid line (slice d 0 64) with
        poison := SMap.set (fun _ => 0) b.poison leaf (mask &&& ~~~(BitVec.ofNat 64 (2 ^ j))) }

/-- A read of a line under a key ID; none is poison, which MEM_STAT shows (R276, R277, R284, R288). -/
def Chip.lineRead (c : Chip) (kid line : Nat) : Option Bytes × Chip :=
  let c := c.leafTouch (line / 64)
  let v := c.buf.version line
  match if c.kidReads kid && !c.buf.listed line then c.buf.openLine kid line v.1 v.2 else none with
  | some d => (some d, c)
  | none => (none, c.setF F.MEM_STAT_tag_fail [] 1)

/-- R283: a write of fewer than 64 bytes to a written line: read, merged, and written under the raised minor. One whose
read returns poison writes nothing. -/
def Chip.partialWrite (c : Chip) (kid line off : Nat) (d : Bytes) : Chip :=
  match c.lineRead kid line with
  | (none, c) => c
  | (some old, c) => c.lineWrite kid line (old.take off ++ d ++ old.drop (off + d.length))

/-- Lines read in order; none when one of them is poison. -/
def Chip.linesRead (c : Chip) (kid : Nat) : List Nat → Option Bytes × Chip
  | [] => (some [], c)
  | i :: l =>
    let (d, c) := c.lineRead kid i
    let (r, c) := c.linesRead kid l
    (match d, r with | some d, some r => some (d ++ r) | _, _ => none, c)

/-- Bytes written to lines. -/
def Chip.linesWrite (c : Chip) (kid : Nat) (l : List Nat) (d : Bytes) : Chip :=
  c.each (l.zip (linesOf d)) fun c x => c.lineWrite kid x.1 x.2

/-! ### The data region (R22, R285) -/

/-- The retired pseudo-channels, one bit each. -/
def Chip.pcRetired (c : Chip) : Nat := c.getF F.MEM_PC_RET_LO_retired [] + c.getF F.MEM_PC_RET_HI_retired [] * 2 ^ 32

/-- The HBM data region (Table 01.7). -/
def hbmData : Nat := 28160 * 2 ^ 20

/-- R285: what retired pseudo-channels leave of the data region, 440 MiB less for each. -/
def Chip.hbmRoom (c : Chip) : Nat :=
  hbmData - 440 * 2 ^ 20 * ((List.range 64).filter fun n => bit c.pcRetired n).length

/-- The lines of the data region that frames and look-aside requests hold. -/
def Chip.linesHeld (c : Chip) : List Nat :=
  (c.frameList.flatMap fun x => x.2.lines) ++ c.path.la.flatMap fun e => match e.2 with
    | some r => r.lines
    | none => []

/-- The bytes of the data region that queues hold. -/
def Chip.hbmUsed (c : Chip) : Nat :=
  64 * (c.frameList.flatMap fun x => if x.2.queue.isSome then x.2.lines else []).length

/-- The data region has room for `n` lines more. -/
def Chip.hbmFits (c : Chip) (n : Nat) : Bool := 64 * (c.linesHeld.length + n) ≤ c.hbmRoom

/-- The lines that an allocation takes: the lowest free ones outside retired pseudo-channels (DESIGN CHOICE, log
entry 57). -/
def Chip.freeLines (c : Chip) (n : Nat) : List Nat :=
  let used := c.linesHeld
  let all := List.range (if c.pcRetired = 0 then used.length + n else hbmLines)
  ((all.filter fun i => !used.contains i && (c.pcRetired = 0 || !bit c.pcRetired (Config.lineChannel i).toNat))).take n

/-- The lines that a frame of `stored` bytes takes in the HBM: its data and its descriptor. -/
def frameLines (stored : Nat) : Nat := (stored + 63) / 64 + 1

/-- The next-frame pointer of the queue's last frame in the HBM before frame `n` is written (R283). -/
def Chip.linkFrame (c : Chip) (q n desc : Nat) : Chip :=
  let before := (c.queueSt q).frames.takeWhile (· ≠ n)
  match (before.filterMap fun i => (c.frame i).bind fun f => if f.inHbm then f.lines.head? else none).getLast? with
  | some line => c.partialWrite 30 line Config.pointerAt.val (leBytes 8 (bufferAddr 30 true desc 0))
  | none => c

/-- A frame's data is written to its buffer under its key ID: to its lines in the HBM, or on die. -/
def Chip.frameWrite (c : Chip) (n : Nat) : Chip :=
  c.onFrame n fun f c => if f.inHbm then c.linesWrite (f.kid.getD 0) f.lines.tail f.stores else c.dieStore n

/-- A frame takes its lines in the HBM: its descriptor is written whole under the key ID 30, and its data where that is
there already; a frame that still awaits its seal is written by it. -/
def Chip.hbmPlace (c : Chip) (q n : Nat) : Chip :=
  c.onFrame n fun f c =>
    let lines := c.freeLines (frameLines f.stored)
    let desc := lines.headD 0
    let c := c.setFrame n (some { f with inHbm := true, lines := lines, die := [] })
    let c := (c.lineWrite 30 desc (beBytes 64 (Config.descriptor n).toNat)).linkFrame q n desc
    if f.stage = .queued || f.stage = .opening then c.frameWrite n else c

/-- A frame is read from the HBM: whether its lines hold no poison. -/
def Chip.hbmRead (c : Chip) (f : Frame) : Bool × Chip :=
  let (d, c) := c.linesRead (f.kid.getD 0) f.lines.tail
  let (e, c) := c.linesRead 30 (f.lines.take 1)
  (d.isSome && e.isSome, c)

end Sys2Proof.Machine
end

