-- ==== Sys2Proof/Machine/Sluice.lean ====
section
/-! DEFINITION. Chapter 09: queues, admission, selection, shapers, meters, gate control lists, sampling; and the
departure of frames with their time insertions (R211 to R213). -/
namespace Sys2Proof.Machine

/-! ### Queues (R220 to R222) -/

/-- The configuration of a queue; port, class and transit bit of a direct queue are fixed. -/
def Chip.queueCfg (c : Chip) (q : Nat) : QueueCfg :=
  let k := (SMap.get (fun _ => none) c.slu.cfgs q).getD {}
  if q < 0x8000 then k else { k with transit := false, port := (q - 0x8000) / 8, cls := (q - 0x8000) % 8 }

/-- The direct queue of a scheduler port and class. -/
def directQueue (s cls : Nat) : Nat := 0x8000 + s * 8 + cls

/-- Whether an index names a queue. -/
def isQueue (q : Nat) : Bool := q < 0x8000 + 528

/-- The time between two refills, in ns. -/
def Shaper.period (h : Shaper) : Nat := 128 * 2 ^ h.k

/-- What a rate in b/s gives up to an instant in ns, in 2^-32 bytes: a refill adds what comes from the one before, so that
the fractions of a unit add up over time (log entry 51). -/
def refillUnits (rate t : Nat) : Nat := rate * t * 4294967296 / 8000000000

/-- A bucket after the refills of the instants after `t` up to `t'`, capped at its size. -/
def refillBucket (level : Int) (rate size t t' : Nat) : Int :=
  min (size * 4294967296) (level + (refillUnits rate t' - refillUnits rate t : Nat))

/-- R229, R231: a shaper at an instant: the refills that have come due are made, the first of them with what a COMMIT wrote.
Each adds rate × period ÷ 8 bytes. -/
def Shaper.upTo (h : Shaper) (now : Nat) : Shaper :=
  if now < h.due then h
  else
    let h := match h.next with
      | none => h
      | some (k, cir, cbs, pir, pbs) => { h with k := k, cir := cir, cbs := cbs, pir := pir, pbs := pbs, next := none }
    let t := h.due - h.period
    let t' := h.due + (now - h.due) / h.period * h.period
    { h with cb := refillBucket h.cb h.cir h.cbs t t', pb := refillBucket h.pb h.pir h.pbs t t', due := t' + h.period }

/-- A queue's shaper now; a refill due in this cycle comes first (Table 09.3). -/
def Chip.qShaper (c : Chip) (q : Nat) : Shaper := (SMap.get (fun _ => {}) c.slu.qshapers q).upTo c.now

/-- A class's shaper now. -/
def Chip.cShaper (c : Chip) (k : Nat) : Shaper := (SMap.get (fun _ => {}) c.slu.cshapers k).upTo c.now

def Chip.setQShaper (c : Chip) (q : Nat) (v : Shaper) : Chip :=
  c.modSlu fun s => { s with qshapers := SMap.set (fun _ => {}) s.qshapers q v }

def Chip.setCShaper (c : Chip) (k : Nat) (v : Shaper) : Chip :=
  c.modSlu fun s => { s with cshapers := SMap.set (fun _ => {}) s.cshapers k v }

/-- The bytes of a queue in the on-die buffer. -/
def Chip.onDie (c : Chip) (q : Nat) : Nat :=
  (c.queueSt q).frames.foldl (fun n i => n + match c.frame i with
    | some f => if f.inHbm || f.kid.isNone then 0 else f.stored
    | none => 0) 0

/-- The bytes that frames hold in the on-die packet buffer. -/
def Chip.odUsed (c : Chip) : Nat :=
  c.frameList.foldl (fun n p => if p.2.inHbm || p.2.kid.isNone then n else n + p.2.data.length + 4) 0

/-- The bytes of queued frames in the on-die packet buffer. -/
def Chip.odQueued (c : Chip) : Nat :=
  c.frameList.foldl (fun n p => if p.2.queue.isSome && !p.2.inHbm && p.2.kid.isSome then n + p.2.stored else n) 0

/-- R21, R33: what the ingress pools of the enabled sub-ports leave of the on-die packet buffer of 48 MiB. -/
def Chip.odRoom (c : Chip) : Nat :=
  let on := ((List.range 16).filter fun p => c.getF F.PRT_LINK_CFG_en [p] ≠ 0).flatMap fun p =>
    ((List.range 4).filter fun b => bit (c.getF F.PRT_LINK_CFG_en [p]) b).map fun b => c.getF F.PRT_SUB_CFG_pool [p, b]
  48 * 2 ^ 20 - on.foldl (· + ·) 0 * 65536

/-! ### Charged lengths and tags (R227, R228) -/

/-- Table 09.1 for whole frames. A Runner port carries a frame as it is stored, sealed or not; a frame that came sealed
over the ring has its SecTAG and ICV already. -/
def Chip.charge (c : Chip) (s : Nat) (f : Frame) : Nat :=
  let (p, b) := portOf s
  if 16 ≤ p then (f.len + (c.storedLen f - (f.data.length + 4))) + 80
  else if !isLine p || f.ringSealed then f.len + 20
  else if c.ingotMode p b then f.len
  else if c.sciTx p b then f.len + 52
  else f.len + 44

/-- `later_of` of R228 over 48-bit tags. -/
def laterOf (a b : Nat) : Nat := if (b + 2 ^ 48 - a) % 2 ^ 48 < 2 ^ 47 then b else a

/-- `a` comes before `b` by the half-range rule. -/
def tagBefore (a b : Nat) : Bool := a ≠ b && laterOf a b = b

def Chip.classTag (c : Chip) (k : Nat) : Nat := SMap.get (fun _ => 0) c.slu.classTag k

def Chip.classClock (c : Chip) (k : Nat) : Nat := SMap.get (fun _ => 0) c.slu.classClock k

def Chip.portClock (c : Chip) (s : Nat) : Nat := SMap.get (fun _ => 0) c.slu.portClock s

def Chip.setClassTag (c : Chip) (k v : Nat) : Chip :=
  c.modSlu fun s => { s with classTag := SMap.set (fun _ => 0) s.classTag k v }

def Chip.setClassClock (c : Chip) (k v : Nat) : Chip :=
  c.modSlu fun s => { s with classClock := SMap.set (fun _ => 0) s.classClock k v }

def Chip.setPortClock (c : Chip) (s' v : Nat) : Chip :=
  c.modSlu fun s => { s with portClock := SMap.set (fun _ => 0) s.portClock s' v }

/-- One tag increment. -/
def tagStep (charge weight : Nat) : Nat := (charge * 65536 + weight - 1) / weight

/-- The head of a queue: its oldest frame that no framer has started and no slot holds. -/
def Chip.headOf (c : Chip) (q : Nat) : Option (Nat × Frame) :=
  (c.queueSt q).frames.findSome? fun n => (c.frame n).bind fun f => if f.stage = .sending then none else some (n, f)

/-- The queues bound to a class of a scheduler port that hold a head, lowest index first. -/
def Chip.classQueues (c : Chip) (s cls : Nat) : List Nat :=
  ((c.slu.queues.map (·.1)).filter fun q => (c.queueCfg q).port = s && (c.queueCfg q).cls = cls).filter
    fun q => (c.headOf q).isSome

/-- The queue of a list with the smallest finish tag, the lower index on a tie. -/
def Chip.minTag (c : Chip) : List Nat → Option Nat
  | [] => none
  | q :: qs => match c.minTag qs with
    | none => some q
    | some r => if tagBefore (c.queueSt r).tag (c.queueSt q).tag then some r else some q

/-- R236: one cycle of a list as (length in ns, gates): cut at the cycle's end, or its last state held to it. -/
def segments (l : GateList) : List (Nat × Nat) :=
  let go := l.entries.foldl (fun (acc : List (Nat × Nat) × Nat) e =>
    let room := l.cycle - acc.2
    let len := min e.1 room
    (if len = 0 then acc.1 else acc.1 ++ [(len, e.2)], acc.2 + len)) ([], 0)
  match go.1.getLast? with
  | none => []
  | some last => go.1.dropLast ++ [(last.1 + (l.cycle - go.2), last.2)]

/-- How long the gate of a class stays open along segments; `none` when it never closes along them. -/
def openRun (cls : Nat) : List (Nat × Nat) → Option Nat
  | [] => none
  | (len, g) :: r => if bit g cls then (openRun cls r).map (len + ·) else some 0

/-- The longest open window of a class; `none` for a gate that never closes. -/
def longestOpen (l : GateList) (cls : Nat) : Option Nat :=
  let segs := segments l
  if segs.all fun e => bit e.2 cls then none
  else some ((List.range segs.length).foldl (fun m i => max m ((openRun cls ((segs ++ segs).drop i)).getD 0)) 0)

/-! ### Gates (R235 to R239). Times in units of 2^-16 ns. -/

/-- R235: a scheduler port can run gate lists: an Ethernet port, but for a line port in ingot mode. -/
def Chip.gatesOn (c : Chip) (s : Nat) : Bool := s < 64 && !c.ingotMode (portOf s).1 (portOf s).2

/-- A scheduler port runs gate lists. -/
def Chip.gated (c : Chip) (s : Nat) : Bool := c.gatesOn s && c.getB F.SLU_GCL_CFG_en [s]

/-- The operational list of a scheduler port, when one runs. -/
def Chip.gateList (c : Chip) (s : Nat) : Option GateList :=
  if c.gated s then SMap.get (fun _ => none) c.slu.lists s else none

/-- The pending list of a scheduler port and its takeover instant in ns. -/
def Chip.pendingGates (c : Chip) (s : Nat) : Option (GateList × Nat) :=
  SMap.get (fun _ => none) c.slu.pendingLists s

/-- The gate of a class is open throughout `d` from the instant `t`. -/
def openFor (l : GateList) (cls t d : Nat) : Bool :=
  let base := l.base * 65536
  let cyc := l.cycle * 65536
  let off := if base ≤ t then (t - base) % cyc else (cyc - (base - t) % cyc) % cyc
  let segs := (segments l).map fun e => (e.1 * 65536, e.2)
  let rest := (segs.foldl (fun (acc : List (Nat × Nat) × Nat) e =>
    let stop := acc.2 + e.1
    (if stop ≤ off then acc.1 else acc.1 ++ [(stop - max off acc.2, e.2)], stop)) ([], 0)).1
  match openRun cls (rest ++ segs ++ segs) with
  | none => true
  | some r => d ≤ r

/-- How long a charged length takes on a port, in 2^-16 ns. -/
def Chip.lineTime (c : Chip) (s charge : Nat) : Nat := charge * 8 * 1000 * 65536 / c.macRate (portOf s).1

/-- R238: a charged length of a class fits when started now. -/
def Chip.gateFits (c : Chip) (s cls charge : Nat) : Bool :=
  let t := clockUnits c.tim.clock / 2 ^ 48
  let d := c.lineTime s charge
  let now := fun d => match c.gateList s with
    | none => true
    | some l => openFor l cls t d
  match if c.gated s then c.pendingGates s else none with
  | none => now d
  | some (l, at') =>
    let left := at' * 65536 - t
    if d ≤ left then now d else now left && openFor l cls (max t (at' * 65536)) (d - left)

/-- R239: a charged length can never fit its class's gate. -/
def Chip.oversize (c : Chip) (s cls charge : Nat) : Bool :=
  match (c.gateList s).bind fun l => longestOpen l cls with
  | some w => w != 0 && w * 65536 < c.lineTime s charge
  | none => false

/-! ### Drops (R60, R239) -/

/-- R60: a frame is dropped for a reason: counted once at its port of entry, and gone. One whose last byte has not arrived
is counted with that byte, after the checks of R30 (DESIGN CHOICE, log entry 62); one of a failed ingot has been counted
(R44). A posted frame has no port of entry: it is in no CNT_DROP (DESIGN CHOICE, log entry 62) and completes with the
corresponding status, or an open one where Table 02.8 has none (log entry 3). -/
def Chip.dropOne (c : Chip) (n reason : Nat) : Chip :=
  c.onFrame n fun f c =>
    if f.stage = .gone then c
    else
      let c := c.setFrame n (some { f with lost := some reason, kid := none, lines := [], die := [] })
      let c := c.removeFrame n
      match f.host with
      | none =>
        if f.coming || (f.isIngot && f.verdict.getD 0 ≠ 0) then c
        else c.portCount (schedOf f.entry f.sub) (0x20 + (reason - 0x80))
      | some h =>
        match hostStatus reason with
        | some st => c.hostDone h st none
        | none =>
          let (i, c) := c.draw
          c.hostDone h (Config.freeNat i % 256) none

/-- R239: heads of a queue that can never fit are dropped as GATE_OVERSIZE; `n` bounds the walk. -/
def Chip.dropOversize (c : Chip) (q : Nat) : Nat → Chip
  | 0 => c
  | n + 1 =>
    let k := c.queueCfg q
    match c.headOf q with
    | some (i, f) =>
      if c.oversize k.port k.cls (c.charge k.port f) then
        let c := (c.dropOne i 0x96).setF F.SLU_STAT_gcl_oversize [] 1
        (c.raise Ev.GCL_OVERSIZE 0x21A [(4, k.port)]).dropOversize q n
      else c
    | none => c

/-- R60: a frame is dropped for a reason; the next head of its queue is then dropped too where it can never fit (R239). -/
def Chip.dropFrame (c : Chip) (n reason : Nat) : Chip :=
  match (c.frame n).bind (·.queue) with
  | some q => (c.dropOne n reason).dropOversize q (c.queueSt q).frames.length
  | none => c.dropOne n reason

/-- R284, R288: a frame is read with poison. -/
def Chip.poisonDrop (c : Chip) (n : Nat) : Chip := (c.setF F.MEM_STAT_tag_fail [] 1).dropFrame n 0x91

/-- Every frame inside the part dropped for a reason. -/
def Chip.dropAll (c : Chip) (reason : Nat) (which : Frame → Bool) : Chip :=
  c.each ((c.frameList.filter fun p => which p.2).map (·.1)) fun c n => c.dropFrame n reason

/-! ### Head changes -/

/-- R228: a class's finish tag after its head has changed. -/
def Chip.classHead (c : Chip) (s cls : Nat) : Chip :=
  let k := s * 8 + cls
  match (c.minTag (c.classQueues s cls)).bind c.headOf with
  | none => c
  | some (_, f) =>
    let start := laterOf (c.portClock s) (c.classTag k)
    c.setClassTag k ((start + tagStep (c.charge s f) (max 1 (c.getF F.SLU_CLS_CFG_weight [s, cls]))) % 2 ^ 48)

/-- R228: a queue's finish tag after its head has changed. -/
def Chip.queueHead (c : Chip) (q : Nat) : Chip :=
  let k := c.queueCfg q
  match c.headOf q with
  | none => c
  | some (_, f) =>
    let st := c.queueSt q
    let start := laterOf (c.classClock (k.port * 8 + k.cls)) st.tag
    c.setQueueSt q { st with tag := (start + tagStep (c.charge k.port f) (max 1 k.weight)) % 2 ^ 48 }

/-- A queue has a new head. -/
def Chip.headChanged (c : Chip) (q : Nat) : Chip :=
  let c := c.dropOversize q ((c.queueSt q).frames.length)
  let k := c.queueCfg q
  let c := c.queueHead q
  if (c.classQueues k.port k.cls) = [q] then c.classHead k.port k.cls else c

/-! ### Admission (R223, R224) -/

/-- A refused frame: counted, its bit set, its event raised, and dropped. -/
def Chip.refuse (c : Chip) (n q : Nat) (buf : Bool) : Chip :=
  c.onFrame n fun f c =>
    let items := [(4, q), (4, f.colour), (4, match f.stack with | some (_, p, _) => p | none => f.entry)]
    let c := if buf then ((c.count false (0x10000 + q * 4 + 3)).setF F.SLU_STAT_buf_full [] 1).raise
        Ev.BUF_FULL 0x218 items
      else ((c.count false (0x10000 + q * 4 + 2)).setF F.SLU_STAT_limit [] 1).raise Ev.QUEUE_LIMIT 0x218 items
    c.dropFrame n 0x88

/-- R274: the frame has its buffer: it came through an ingress pool. -/
def Frame.buffered (f : Frame) : Bool := f.kid.isSome && f.kid ≠ some 30

/-- R223: a frame reaches its queue. An admitted frame is counted against the queue and stands at its end; it is
selectable once its stage is `queued`. A frame that has no buffer yet, or is staged from the Runner ring, takes one under the
key ID that MEM_FRAME_KID names; one in an ingress pool keeps its key ID (R274). One whose buffer was released has none. -/
def Chip.admitFrame (c : Chip) (n q : Nat) (stage : FStage) : Chip :=
  c.onFrame n fun f c =>
    let k := c.queueCfg q
    let st := c.queueSt q
    let stored := c.storedLen f
    let onDie := c.onDie q < 1024 * k.odShare && c.odQueued + stored ≤ c.odRoom
    let limit := 1024 * (if f.colour = 0 then k.limitG else k.limitY)
    if !(isQueue q && k.en) || limit < st.bytes + stored then c.refuse n q false
    else if !(f.poisoned || f.buffered || c.kidActive (c.getF F.MEM_FRAME_KID_kid [])) ||
        !(f.poisoned || onDie || c.hbmFits (frameLines stored)) then
      c.refuse n q true
    else
      let first := (c.headOf q).isNone
      let c := c.setFrame n (some { f with
        queue := some q, stored := stored, entered := c.now, stage := stage,
        kid := if f.poisoned || f.buffered then f.kid else some (c.getF F.MEM_FRAME_KID_kid []) })
      let c := c.setQueueSt q { st with frames := st.frames ++ [n], bytes := st.bytes + stored }
      let c := if f.poisoned then c else if onDie then c.dieStore n else c.hbmPlace q n
      c.when first fun c => c.headChanged q

/-- R224: a frame of a queue stands beyond the queue's on-die share: it and the older ones are more than the share. -/
def Chip.beyondShare (c : Chip) (q n : Nat) : Bool :=
  let older := (c.queueSt q).frames.takeWhile (· ≠ n) ++ [n]
  1024 * (c.queueCfg q).odShare < older.foldl (fun m i => m + ((c.frame i).map (·.stored)).getD 0) 0

/-- R224: the oldest frame on die beyond its queue's share moves to the HBM data region, when that has room (R22). -/
def Chip.spill (c : Chip) (n : Nat) : Chip :=
  c.onFrame n fun f c =>
    match f.queue with
    | none => c
    | some q =>
      let first := (c.queueSt q).frames.find? fun i =>
        (c.frame i).any fun g => !g.inHbm && g.kid.isSome && g.stage ≠ .sending && c.beyondShare q i
      c.when (first = some n && f.stage = .queued && c.hbmFits (frameLines f.stored)) fun c => c.hbmPlace q n

def execFrameSpillToHbm (frame : Nat) := lift fun c => c.spill frame

/-- R224: the oldest frame of a queue in the HBM data region moves back to the on-die buffer; one read with poison is
dropped (R284). -/
def Chip.unspill (c : Chip) (n : Nat) : Chip :=
  c.onFrame n fun f c =>
    match f.queue with
    | none => c
    | some q =>
      let l := (c.queueSt q).frames
      let oldest := l.find? fun i => match c.frame i with | some g => g.inHbm | none => false
      let share := 1024 * (c.queueCfg q).odShare
      if oldest = some n && c.odQueued + f.stored ≤ c.odRoom && (c.onDie q < share || (share = 0 && l.head? = some n)) then
        let (good, c) := c.hbmRead f
        if c.readsPoison f || !good then c.poisonDrop n
        else (c.setFrame n (some { f with inHbm := false, lines := [] })).dieStore n
      else c

def execFrameReturnOnDie (frame : Nat) := lift fun c => c.unspill frame

/-! ### Eligibility and selection (R225 to R227) -/

/-- A shaper's peak bucket lets a frame start. -/
def Shaper.peakOk (h : Shaper) : Bool := !h.en || 0 ≤ h.pb

/-- A shaper's committed bucket is not negative. -/
def Shaper.committedOk (h : Shaper) : Bool := !h.en || 0 ≤ h.cb

/-- The queue's shaper; a direct queue has none. -/
def Chip.queueShaper (c : Chip) (q : Nat) : Shaper := if q < 0x8000 then c.qShaper q else {}

/-- R45: a frame may start on a scheduler port before its verdict: a client port without a gate list, no faster than the
frame's line port, with CT_LEAD bytes of the frame opened. -/
def Chip.cutThrough (c : Chip) (s : Nat) (f : Frame) : Bool :=
  let (p, b) := portOf s
  f.stage = .opening && p < 8 && !c.getB F.SLU_GCL_CFG_en [s] && isLine f.entry && c.macRate p ≤ c.macRate f.entry &&
    c.getF F.PRT_CT_LEAD_ct_lead [p, b] ≤ f.plain.length

/-- R225: the head of a queue is eligible. -/
def Chip.eligible (c : Chip) (q : Nat) : Bool :=
  match c.headOf q with
  | none => false
  | some (_, f) =>
    let k := c.queueCfg q
    (f.stage = .queued || c.cutThrough k.port f) && !f.inHbm && (c.queueShaper q).peakOk && (c.cShaper (k.port * 8 + k.cls)).peakOk &&
      c.gateFits k.port k.cls (c.charge k.port f)

/-- R225: an eligible head is committed. -/
def Chip.committed (c : Chip) (q : Nat) : Bool :=
  let k := c.queueCfg q
  (c.queueShaper q).committedOk && (c.cShaper (k.port * 8 + k.cls)).committedOk

/-- The eligible queues of a class, and of them those with a committed head. -/
def Chip.candidates (c : Chip) (s cls : Nat) : List Nat × List Nat :=
  let l := (c.classQueues s cls).filter c.eligible
  (l, l.filter c.committed)

/-- The class of a list with the smallest finish tag, the lower number on a tie. -/
def Chip.minClass (c : Chip) (s : Nat) : List Nat → Option Nat
  | [] => none
  | k :: ks => match c.minClass s ks with
    | none => some k
    | some r => if tagBefore (c.classTag (s * 8 + r)) (c.classTag (s * 8 + k)) then some r else some k

/-- R226: the class and queue that a scheduler port selects. -/
def Chip.choose (c : Chip) (s : Nat) : Option (Nat × Nat) :=
  let strict := c.getF F.SLU_PORT_CFG_strict [s]
  let live := (List.range 8).filter fun k => !(c.candidates s k).1.isEmpty
  let cls := match (live.filter (bit strict ·)).getLast? with
    | some k => some k
    | none =>
      let w := live.filter fun k => !bit strict k
      match c.minClass s (w.filter fun k => !(c.candidates s k).2.isEmpty) with
      | some k => some k
      | none => c.minClass s w
  cls.bind fun k =>
    let (all, com) := c.candidates s k
    (c.minTag (if com.isEmpty then all else com)).map fun q => (k, q)

/-- A charge to both buckets of a shaper (R231); a negative charge is a refund. -/
def Shaper.take (h : Shaper) (bytes : Int) : Shaper :=
  if h.en then
    let u := bytes * 4294967296
    { h with
             cb := max (-16777216 * 4294967296) (min (h.cbs * 4294967296) (h.cb - u)),
             pb := min (h.pbs * 4294967296) (h.pb - u) }
  else h

/-- A charge to a queue's and a class's shapers. -/
def Chip.chargeQueue (c : Chip) (q s cls : Nat) (bytes : Int) : Chip :=
  let c := c.when (q < 0x8000) fun c => c.setQShaper q ((c.qShaper q).take bytes)
  c.setCShaper (s * 8 + cls) ((c.cShaper (s * 8 + cls)).take bytes)

/-- R227: a head is selected: charged, its tags consumed. What it changed is returned for a refund. -/
def Chip.pick (c : Chip) (s cls q n : Nat) (f : Frame) : Picked × Chip :=
  let k := s * 8 + cls
  let ch := c.charge s f
  let p : Picked := { frame := n, queue := q, port := s, cls := cls, charge := ch, queueTag := (c.queueSt q).tag,
                      classTag := c.classTag k, classClock := c.classClock k, portClock := c.portClock s }
  let c := c.chargeQueue q s cls ch
  let c := (c.setClassClock k p.queueTag).setPortClock s p.classTag
  let c := c.setFrame n (some { f with stage := .sending })
  (p, ((c.dropOversize q ((c.queueSt q).frames.length)).queueHead q).classHead s cls)

/-- R241, R242: a selection undone: the charge refunded, the tags restored, the frame at the head of its queue. -/
def Chip.unpick (c : Chip) (p : Picked) : Chip :=
  let k := p.port * 8 + p.cls
  let c := c.chargeQueue p.queue p.port p.cls (-(p.charge : Int))
  let st := c.queueSt p.queue
  let c := c.setQueueSt p.queue { st with tag := p.queueTag }
  let c := ((c.setClassTag k p.classTag).setClassClock k p.classClock).setPortClock p.port p.portClock
  c.onFrame p.frame fun f c => c.setFrame p.frame (some { f with stage := if f.unproved then .opening else .queued })

/-- What a scheduler port has selected and not yet started. -/
def Chip.picked (c : Chip) (s : Nat) : Option Picked := SMap.get (fun _ => none) c.slu.picked s

def Chip.setPicked (c : Chip) (s : Nat) (p : Option Picked) : Chip :=
  c.modSlu fun u => { u with picked := SMap.set (fun _ => none) u.picked s p }

/-! ### Departure: insertions and sending (R211 to R213, R46) -/

/-- An incremental RFC 1624 update of a 16-bit checksum over bytes of a datagram that change. -/
def checksumUpdate (hc off : Nat) (old new : Bytes) : Nat :=
  let w := fun i (b : Byte) => if (off + i) % 2 = 0 then b.toNat * 256 else b.toNat
  let up := (new.mapIdx w).foldl (· + ·) 0
  let down := (old.mapIdx fun i b => 65535 - w i b).foldl (· + ·) 0
  let v := (65535 - hc) + down + up
  if v = 0 then 65535 else 65535 - ((v - 1) % 65535 + 1)

/-- Bytes of a frame replaced from an offset, with the UDP checksum of the frame updated. -/
def patch (d : Bytes) (summary o : Nat) (new : Bytes) : Bytes :=
  let old := slice d o new.length
  let d' := d.take o ++ new ++ d.drop (o + new.length)
  let l4 := bits summary 47 40
  let hc := be16 d (l4 + 6)
  if bits summary 55 48 ≠ 17 || l4 = 0 || o < l4 || (hc = 0 && bits summary 31 30 = 1) then d'
  else d'.take (l4 + 6) ++ beBytes 2 (checksumUpdate hc (o - l4) old new) ++ d'.drop (l4 + 8)

/-- R212: whether an insertion of `n` bytes at `o` can be made in a frame. -/
def canInsert (d : Bytes) (summary o n : Nat) : Bool :=
  let cut := (bit summary 56 || bit summary 57) && bits summary 47 40 = 0
  !cut && d.length + 4 ≤ 1518 && o + n ≤ 256 && o + n ≤ d.length

/-- The insertion marked on a frame, made with its departure time; `none` where R212 makes none. -/
def insertTime (f : Frame) (d : Bytes) (summary : Nat) (dep : Clock) : Option Bytes :=
  match f.host, f.depMark with
  | some (_, _, flags, cf), _ =>
    if bit flags 1 then
      if canInsert d summary cf 36 then
        let corr := beBytes 8 (beNat (slice d cf 8) + dep.frac)
        let d1 := patch d summary cf corr
        some (patch d1 summary (cf + 26) (beBytes 6 dep.sec ++ beBytes 4 dep.ns))
      else none
    else some d
  | none, some o =>
    if canInsert d summary o 8 then
      let res := clockUnits dep / 2 ^ 48 + 2 ^ 64 - clockUnits f.ts / 2 ^ 48 % 2 ^ 64
      some (patch d summary o (beBytes 8 (beNat (slice d o 8) + res)))
    else none
  | none, none => some d

/-- R213: a sealed frame whose plaintext has changed: what sealing the new plaintext under the same IV gives. -/
def reseal (f : Frame) (new : Bytes) : Bytes :=
  match f.sealWith with
  | none => f.data
  | some (k256, key, iv, tagLen, clear) =>
    let head := slice new 0 12 ++ slice f.data 12 tagLen ++ slice new 12 clear
    let cipher := gcmXor k256 key iv (new.drop (12 + clear))
    head ++ cipher ++ beBytes 16 (Config.gcmTag k256 key iv head cipher).toNat

/-- A frame leaves a port whole, with its insertion made, counted and completed; one read with poison is dropped
(R284). The insertion is the departure that the framer's mapping foresaw, and the departure captured corrects that (R211). -/
def Chip.depart (c : Chip) (n : Nat) (stomped : Bool) : Chip :=
  c.onFrame n fun f c =>
    if c.readsPoison f then c.poisonDrop n else
    let s := schedOf f.outPort f.outSub
    let lane := c.lowLane f.outPort f.outSub
    let dep := c.mdiTime F.TIM_LANE_ADJ_tx lane c.tim.clock
    let foreseen := c.mdiTime F.TIM_LANE_ADJ_tx lane (c.mapped s c.tim.clock)
    let isSealed := f.sealWith.isSome
    let body := if isSealed || f.bound.isSome then f.plain else f.data
    let marked := f.depMark.isSome || (match f.host with | some h => bit h.2.2.1 1 | none => false)
    let ins := if marked then insertTime f body (parseSummary body 256) foreseen else none
    let c := c.when (marked && ins.isNone) fun c => c.portCount s 11
    let data := match ins with
      | some d => if isSealed then reseal f d else d
      | none => if isSealed then f.data else body
    let c := match f.queue with
      | some q => (c.count false (0x10000 + q * 4)).count false (0x10000 + q * 4 + 1) f.len
      | none => c
    let c := c.removeFrame n
    let c := (c.txCapture s).emit (.frame f.outPort f.outSub data stomped)
    let c := (c.portCount s 2).portCount s 3 (data.length + 4)
    match f.host with
    | none => c
    | some h =>
      let c := c.portCount s 10
      let c := c.when (isLine f.outPort && !isSealed) fun c => c.portCount s 12
      c.hostDone h 0 (if bit h.2.2.1 0 then some dep else none)

/-! ### Link frames (R413, R424, R425) -/

/-- A link frame under the session of a link: 0 and 1 the Runner ports, whose frames end with an FCS (R424), 2 the pair link.
`clear` is the additional data, in whose bytes 4 to 11 the link sequence goes. Nothing is sent without a session, nor with a link
sequence of 2^48: the new HELLO comes first (R413). -/
def Chip.linkSend (c : Chip) (port kind : Nat) (clear body : Bytes) : Chip :=
  match SMap.get (fun _ => none) c.prs.sessions port with
  | none => c
  | some (k : LinkSession) =>
    if 2 ^ 48 ≤ k.seq then c else
    let head := clear.take 4 ++ beBytes 8 k.seq ++ clear.drop 12
    let iv := BitVec.ofNat 96 (k.txSalt.toNat / 2 ^ 64 * 2 ^ 64 + k.seq)
    let cipher := gcmXor true k.txKey iv body
    let c := c.modPrs fun p => { p with sessions := SMap.set (fun _ => none) p.sessions port (some { k with seq := k.seq + 1 }) }
    let frame := head ++ cipher ++ beBytes 16 (Config.gcmTag true k.txKey iv head cipher).toNat
    c.emit (.linkWord port kind (if port < 2 then frame ++ fcs frame else frame))

/-- A stack member as the keepalives show it. -/
def Chip.member (c : Chip) (d : Nat) : Member := SMap.get (fun _ => {}) c.prs.members d

/-- R425: the device that a FRAME for device `d` goes to: its pair peer while `d` is in STANDBY and the peer holds. -/
def Chip.frameDest (c : Chip) (d : Nat) : Nat :=
  let peer := if d % 2 = 0 then d + 1 else d - 1
  if (c.member d).mode = 6 && (c.member peer).holding && (c.member peer).present then peer else d

/-- R423: the hops to a device by a Runner port, where its keepalives have come that way within 100 µs and the link is up. -/
def Chip.hopsBy (c : Chip) (d port : Nat) : Option Nat :=
  let m := c.member d
  let (hops, heard) := if port = 0 then (m.hops0, m.heard0) else (m.hops1, m.heard1)
  if m.present && c.prs.linkUp.contains port && heard.any fun t => c.now < t + 100000 then some hops else none

/-- PRS_MEMBER's hops: 0 for a device never heard, 7 by a way that does not reach it (Table 16.8). -/
def Chip.hopsShown (c : Chip) (d port : Nat) : Nat := if c.member d = {} then 0 else (c.hopsBy d port).getD 7

/-- R425: the Runner port on the way to a device: the shorter way that is not broken, port 0 where both are equal; `none` when the
device is not in the ring. -/
def Chip.runnerPort (c : Chip) (d : Nat) : Option Nat :=
  match c.hopsBy d 0, c.hopsBy d 1 with
  | some a, some b => some (if b < a then 1 else 0)
  | some _, none => some 0
  | none, some _ => some 1
  | none, none => none

/-- The device that acts as master (R426, R428). -/
def Chip.masterId (c : Chip) : Nat :=
  match c.prs.acting, c.prs.actingOther with
  | true, some d => min d c.prs.straps
  | true, none => c.prs.straps
  | false, some d => d
  | false, none => 0

/-- The part is the stack's master. -/
def Chip.isMaster (c : Chip) : Bool := c.masterId = c.prs.straps

/-- A word of a stack header's clear part. -/
def stackClear (kind hops src dest : Nat) : Bytes :=
  [BitVec.ofNat 8 (0x10 + kind), BitVec.ofNat 8 hops, BitVec.ofNat 8 src, BitVec.ofNat 8 dest] ++ List.replicate 8 0

/-- A stack frame of a kind other than FRAME to a device, on the way to it. -/
def Chip.stackTo (c : Chip) (kind dest : Nat) (body : Bytes) : Chip :=
  match c.runnerPort dest with
  | some p => c.linkSend p kind (stackClear kind 7 c.prs.straps dest) (List.replicate 32 0 ++ body)
  | none => c

/-- The stack header of a FRAME (Table 16.3); the link sequence is filled in by the link. The one_step bit marks an origin
insertion; exception-out frames, which alone carry one, leave by no Runner port (Table 02.6). -/
def Chip.stackHeader (c : Chip) (f : Frame) (hops src dest queue : Nat) (body : Bytes) : Bytes × Bytes :=
  (([0x10, BitVec.ofNat 8 hops, BitVec.ofNat 8 src, BitVec.ofNat 8 dest] ++ List.replicate 8 0),
   beBytes 2 queue ++ [BitVec.ofNat 8 (f.cls + 8 * f.colour + 32 * b2n f.sealWith.isSome + 64 * b2n f.tsValid), BitVec.ofNat 8 (f.depMark.getD 0)] ++ beBytes 2 (f.channel.getD 0xFFFF) ++
     beBytes 2 (body.length + 4) ++ beBytes 4 (match f.sa with | some i => (c.saHandle i).toNat | none => 0) ++
     beBytes 4 f.progData.toNat ++ beBytes 8 (packTime f.ts c.holdover) ++
     [BitVec.ofNat 8 (f.entry + 32 * f.sub)] ++ List.replicate 7 0)

/-- R424: a frame leaves on a Runner port as a stack frame. -/
def Chip.departRunner (c : Chip) (n : Nat) : Chip :=
  c.onFrame n fun f c =>
    if c.readsPoison f then c.poisonDrop n else
    let d := bits f.dest.toNat 5 3
    let body := if f.bound.isSome then f.plain else f.data
    let (head, rest) := c.stackHeader f 7 c.prs.straps (c.frameDest d) (bits f.dest.toNat 21 6) body
    let c := match f.queue with
      | some q => (c.count false (0x10000 + q * 4)).count false (0x10000 + q * 4 + 1) f.len
      | none => c
    let c := c.removeFrame n
    let s := schedOf f.outPort 0
    let c := (c.portCount s 2).portCount s 3 (body.length + 64)
    c.linkSend (f.outPort - 16) 0 head (rest ++ body)

/-! ### Selecting and starting (R226, R241, R45) -/

/-- The transmitters are enabled: ACTIVE while the claim is held, and DRAIN (Table 14.1). -/
def Chip.txOn (c : Chip) : Bool :=
  c.inMode [.drain] || (c.inMode [.active] && c.getB F.PRS_STAT_holding [])

/-- R420: in the gap of a yield a MACsec port sends idle. -/
def Chip.yieldGap (c : Chip) (s : Nat) : Bool :=
  let (p, b) := portOf s
  c.prs.yieldAt.isSome && isLine p && !c.ingotMode p b

/-- A scheduler port can send: its transmitter is enabled, its link is up (R538), and it is in no gap of a yield. -/
def Chip.canSend (c : Chip) (s : Nat) : Bool :=
  let (p, b) := portOf s
  c.txOn && !c.yieldGap s && (if p < 16 then c.portUp p b else c.prs.linkUp.contains (p - 16))

/-- The framer of a scheduler port is sending a frame before its verdict. -/
def Chip.midFrame (c : Chip) (s : Nat) : Bool :=
  c.frameList.any fun x => x.2.cut && x.2.stage = .sending && schedOf x.2.outPort x.2.outSub = s

/-- A selected frame starts, or returns to its queue when the repeated fit test fails (R241). -/
def Chip.startPicked (c : Chip) (s : Nat) (p : Picked) : Chip :=
  let c := c.setPicked s none
  if c.gateFits s p.cls p.charge then
    if 64 ≤ s then c.departRunner p.frame else c.depart p.frame false
  else (c.unpick p).bump F.SLU_GCL_STAT_retry [s]

/-- R226: a scheduler port selects one eligible head. A frame on a client port then starts with CLIENT_FRAME_START, a
frame on a line port that runs a gate list after its repeated fit test, any other at once. -/
def Chip.schedule (c : Chip) (s : Nat) : Chip :=
  let (p, b) := portOf s
  if !c.canSend s || c.ingotMode p b || (c.picked s).isSome || c.midFrame s then c
  else
    match c.choose s with
    | none => c
    | some (cls, q) =>
      match c.headOf q with
      | none => c
      | some (n, f) =>
        let (k, c) := c.pick s cls q n { f with outPort := p, outSub := b }
        let c := c.setPicked s (some k)
        if p < 8 || (c.gateList s).isSome then c else c.startPicked s k

def execSchedulerSelect (port : Fin 66) := lift fun c => c.schedule port.val

/-- R241: the framer repeats the fit test of the frame its port has selected. -/
def Chip.fitRetest (c : Chip) (s : Nat) : Chip :=
  match c.picked s with
  | none => c
  | some k =>
    if c.yieldGap s || (c.gateFits s k.cls k.charge && s < 32) then c else c.startPicked s k

def execGclFitRetest (port : Fin 66) := lift fun c => c.fitRetest port.val

/-! ### Shaper refill (R229 to R231) -/

/-- SHAPER_REFILL: the refills of a shaper that have come due. Every use of a shaper makes them first, so the command
changes nothing that a use could see. -/
def Chip.refill (c : Chip) (cls : Bool) (i : Nat) : Chip :=
  if cls then if i < 528 then c.setCShaper i (c.cShaper i) else c
  else c.setQShaper i (c.qShaper i)

def execShaperRefill (cls : Bool) (index : Fin 32768) := lift fun c => c.refill cls index.val

/-! ### Meters (R232, R233) -/

def Chip.meter (c : Chip) (m : Nat) : Meter := SMap.get (fun _ => {}) c.slu.meters m

def Chip.setMeter (c : Chip) (i : Nat) (v : Meter) : Chip :=
  c.modSlu fun s => { s with meters := SMap.set (fun _ => {}) s.meters i v }

/-- A meter's buckets brought up to date. -/
def Meter.update (m : Meter) (now : Nat) : Meter :=
  let add := fun rate => rate * (now - m.last) * 4294967296 / 8000000000
  { m with cb := min (m.cbs * 4294967296) (m.cb + add m.cir), pb := min (m.pbs * 4294967296) (m.pb + add m.pir), last := now }

/-- The colour of a frame of `n` bytes and the meter after it: 0 green, 1 yellow, 2 red. -/
def Meter.colour (m : Meter) (n input : Nat) : Nat × Meter :=
  let u := n * 4294967296
  let inp := if m.aware then input else 0
  if !m.en then (0, m)
  else if m.rfc4115 then
    if inp = 0 && u ≤ m.cb then (0, { m with cb := m.cb - u })
    else if inp ≤ 1 && u ≤ m.pb then (1, { m with pb := m.pb - u })
    else (2, m)
  else if inp = 2 || m.pb < u then (2, m)
  else if inp = 1 || m.cb < u then (1, { m with pb := m.pb - u })
  else (0, { m with cb := m.cb - u, pb := m.pb - u })

/-- R232, R233: a use of a meter. In STANDBY it colours and takes no tokens (R422). -/
def Chip.useMeter (c : Chip) (i n input : Nat) : Nat × Chip :=
  let m := (c.meter i).update c.now
  let (col, m') := m.colour n input
  let c := c.setMeter i (if c.inMode [.standby] then m else m')
  (col, (c.count false (0x34000 + i * 8 + 2 * col)).count false (0x34000 + i * 8 + 2 * col + 1) n)

/-! ### Gate lists: swap and takeover (R236, R240) -/

/-- The sub-ports of a port's mode (Table 21.1). -/
def Chip.subPorts (c : Chip) (p : Nat) : Nat :=
  match c.getF F.PRT_LINK_CFG_pmode [p] with
  | 1 => 2
  | 2 => 4
  | _ => 1

/-- The list that the inactive bank and the administrative registers of a scheduler port form. -/
def Chip.adminList (c : Chip) (s : Nat) : GateList :=
  let (p, b) := portOf s
  let bank := 1 - c.getF F.SLU_GCL_CFG_bank [s]
  let from' := b * 256 / c.subPorts p
  { base := (c.getF F.SLU_GCL_BASE_SEC_HI_sec [s] * 2 ^ 32 + c.getF F.SLU_GCL_BASE_SEC_LO_sec [s]) * 1000000000 +
      c.getF F.SLU_GCL_BASE_NS_ns [s],
    cycle := c.getF F.SLU_GCL_CYCLE_cycle [s],
    entries := (List.range (c.getF F.SLU_GCL_CFG_len [s])).map fun i =>
      (c.getF F.SLU_GCL_ENT_LO_interval [p, bank, from' + i], c.getF F.SLU_GCL_ENT_HI_gates [p, bank, from' + i]) }

/-- R240: at COMMIT, a list whose swap bit is set becomes pending, for the instant it names. A port that has no gate
lists (R235) takes none. -/
def Chip.gclInstall (c : Chip) (s : Nat) : Chip :=
  if !c.gatesOn s then c.setF F.SLU_GCL_CFG_swap [s] 0 else
  let l := c.adminList s
  let t := clockNs c.tim.clock + 2048
  let at' := if t ≤ l.base then l.base else l.base + (t - l.base + l.cycle - 1) / l.cycle * l.cycle
  let c := c.modSlu fun u => { u with pendingLists := SMap.set (fun _ => none) u.pendingLists s (some (l, at')) }
  (c.setF F.SLU_GCL_STAT_pending [s] 1).setF F.SLU_GCL_CFG_swap [s] 1

/-- R239: the heads of a port's queues that its list can never fit are dropped. -/
def Chip.oversizeHeads (c : Chip) (s : Nat) : Chip :=
  c.each ((c.slu.queues.map (·.1)).filter fun q => (c.queueCfg q).port = s) fun c q =>
    c.dropOversize q (c.queueSt q).frames.length

/-- R240: the pending list takes over; a swap written since stays asked for. Heads that the new list can never fit are
dropped (R239). -/
def Chip.gclTakeover (c : Chip) (s : Nat) : Chip :=
  match c.pendingGates s with
  | none => c
  | some (l, at') =>
    let c := c.reach at'
    let c := c.modSlu fun u => { u with
      lists := SMap.set (fun _ => none) u.lists s (some l), pendingLists := SMap.set (fun _ => none) u.pendingLists s none }
    let c := (c.setF F.SLU_GCL_CFG_swap [s] (b2n (c.slu.swapAsked.contains s))).setF F.SLU_GCL_CFG_bank [s] (1 - c.getF F.SLU_GCL_CFG_bank [s])
    let c := (c.setF F.SLU_GCL_STAT_pending [s] 0).setF F.SLU_GCL_STAT_running [s] (b2n (c.gated s))
    (c.raise Ev.GCL_SWAP 0x21A [(4, s)]).oversizeHeads s

def execGclTakeover (port : Fin 66) := lift fun c => c.gclTakeover port.val

/-! ### Sampling (R243 to R245) -/

/-- A sample record of a queue (Table 09.2). -/
def Chip.sampleRecord (c : Chip) (q : Nat) : Bytes :=
  let st := c.queueSt q
  let head := st.frames.findSome? c.frame
  let hbm := match head with | some f => f.inHbm | none => false
  let soj := match head with | some f => min 0xFFFFFFFF (c.now - f.entered) | none => 0
  leBytes 4 (q + 2 ^ 16 * b2n head.isNone + 2 ^ 17 * b2n hbm) ++ leBytes 4 soj ++
    leBytes 8 (st.bytes % 2 ^ 40 + 2 ^ 40 * min 0xFFFFFF st.frames.length)

/-- R245: the list and the period that the next period takes up, as a COMMIT finds them. -/
def Chip.sampleCommit (c : Chip) : Chip :=
  let l := (List.range (c.getF F.SLU_SMP_LEN_len [])).map fun i => c.getF F.SLU_SMP_LIST_queue [i]
  let p := c.getF F.SLU_SMP_CFG_period []
  c.modSlu fun u => { u with sampleNext := if l = u.sampleList && p = u.sampleLen then none else some (l, p) }

/-- R245: a period that starts takes up the list, the length and the period of the last COMMIT before it. -/
def Chip.sampleTake (c : Chip) : Chip :=
  match c.slu.sampleNext with
  | none => c
  | some (l, p) => c.modSlu fun u => { u with sampleList := l, sampleLen := p, sampleNext := none }

/-- R243 to R245: a sampling period, numbered since sampling was enabled, starts when the one before has ended; the first
starts at once. -/
def Chip.samplePeriod (c : Chip) : Chip :=
  let u := c.slu
  if !c.getB F.SLU_SMP_CFG_en [] || (u.sampling && c.now < u.sampleDue) then c
  else
    let seq := if u.sampling then u.samplePeriod + 1 else 0
    let start := if u.sampling then u.sampleDue else c.now
    let c := c.sampleTake
    let c := c.modSlu fun u => { u with sampling := true, samplePeriod := seq, sampleDue := start + u.sampleLen }
    let l := c.slu.sampleList
    if c.ringEn 57 && l.length + 1 ≤ c.ringFree 57 then
      let k := c.tim.clock
      let header := leBytes 4 (2 ^ 30) ++ leBytes 4 seq ++ leBytes 8 (k.ns + 2 ^ 30 * (k.sec % 2 ^ 32))
      c.each (header :: l.map c.sampleRecord) fun c r => c.ringPush 57 r
    else ((c.bump F.SLU_SMP_DROP_CNT_count []).setF F.SLU_STAT_smp_overrun [] 1).raise Ev.SMP_OVERRUN 0x21B

def execSamplePeriod := lift Chip.samplePeriod

/-! ### The indirect window (R247, Table 09.8) -/

/-- A signed number of bytes as a 32-bit word. -/
def signedWord (v : Int) : Nat := (BitVec.ofInt 32 (v / 4294967296)).toNat

/-- The words of an entry of a table, in force. -/
def Chip.sluEntry (c : Chip) (table i : Nat) : List Nat :=
  let shaper := fun (h : Shaper) =>
    [b2n h.en + 2 * h.k, h.cir % 2 ^ 32, h.cir / 2 ^ 32, h.cbs, h.pir % 2 ^ 32, h.pir / 2 ^ 32, h.pbs, 0]
  match table with
  | 0 =>
    let k := c.queueCfg i
    [b2n k.en + 2 * b2n k.transit + 4 * k.port + 2 ^ 9 * k.cls + 2 ^ 16 * k.weight, k.limitG, k.limitY, k.odShare, 0, 0, 0, 0]
  | 1 => shaper (c.qShaper i)
  | 2 => shaper (c.cShaper i)
  | 3 =>
    let m := c.meter i
    [b2n m.en + 2 * b2n m.rfc4115 + 4 * b2n m.aware + 8 * b2n m.pass, m.cir % 2 ^ 32, m.cir / 2 ^ 32, m.cbs,
      m.pir % 2 ^ 32, m.pir / 2 ^ 32, m.pbs, 0]
  | _ =>
    let st := c.queueSt i
    let h := c.queueShaper i
    let hbm := match st.frames.findSome? c.frame with | some f => f.inHbm | none => false
    let (cb, pb) := if i < 0x8000 then (signedWord h.cb, signedWord h.pb) else (0, 0)
    [st.frames.length % 2 ^ 32, st.bytes % 2 ^ 32, st.bytes / 2 ^ 32, cb, pb,
      b2n hbm + 2 * b2n (c.eligible i), 0, 0]

/-- The number of entries of a table. -/
def sluSize (table : Nat) : Nat :=
  match table with
  | 0 => 0x8000 + 528
  | 1 => 0x8000
  | 2 => 528
  | 3 => 16384
  | _ => 0x8000 + 528

/-- SLU_IND_CMD.read: the entry into SLU_IND_DATA; an index beyond the table reads as 0. -/
def Chip.sluRead (c : Chip) : Chip :=
  let t := c.getF F.SLU_IND_SEL_table []
  let i := c.getF F.SLU_IND_SEL_index []
  let w := if i < sluSize t then c.sluEntry t i else []
  c.each (List.range 8) fun c k => c.setF F.SLU_IND_DATA_data [k] (w.getD k 0)

/-- SLU_IND_CMD.write: SLU_IND_DATA staged into the entry for COMMIT; refused for table 4. -/
def Chip.sluWrite (c : Chip) (writer : Nat) : Chip :=
  let t := c.getF F.SLU_IND_SEL_table []
  let i := c.getF F.SLU_IND_SEL_index []
  if 4 ≤ t || sluSize t ≤ i then c
  else
    let w := (List.range 8).map fun k => c.getF F.SLU_IND_DATA_data [k]
    c.modSlu fun u => { u with staged := u.staged ++ [(t, i, w, writer)] }

/-- R10, R222, R512, R571: a refused field of a staged entry: EV_CFG_REJECT names the window's command register, the
word written, and, as `who`, the writer, the table and the index. -/
def Chip.sluReject (c : Chip) (v : Nat) (who : List (Nat × Nat)) : Chip :=
  (c.modHif fun h => { h with rejecting := true }).raise Ev.CFG_REJECT 0x008 ((4, 0x300024) :: (4, v) :: who)

/-- A field of a staged entry: taken when it is legal, else refused with the others taken. -/
def Chip.sluField {α : Type} (c : Chip) (v : Nat) (who : List (Nat × Nat)) (ok : Bool) (new old : α) : α × Chip :=
  if ok then (new, c) else (old, c.sluReject v who)

def rateOk (r : Nat) : Bool := r ≤ 800000000000

def sizeOk (b : Nat) : Bool := 64 ≤ b && b ≤ 16777216

/-- A queue entry at COMMIT. -/
def Chip.sluQueue (c : Chip) (i : Nat) (w : List Nat) (who : List (Nat × Nat)) : Chip :=
  let k := c.queueCfg i
  let w0 := w.getD 0 0
  let empty := (c.queueSt i).frames.isEmpty
  let move := i < 0x8000
  let (tr, c) := c.sluField w0 who (!move || empty || bit w0 1 = k.transit) (bit w0 1) k.transit
  let (port, c) := c.sluField w0 who (!move || (bits w0 8 2 < 66 && (empty || bits w0 8 2 = k.port))) (bits w0 8 2) k.port
  let (cls, c) := c.sluField w0 who (!move || empty || bits w0 11 9 = k.cls) (bits w0 11 9) k.cls
  let (wt, c) := c.sluField w0 who (w0 / 2 ^ 16 != 0) (w0 / 2 ^ 16) k.weight
  let lg := w.getD 1 0 % 2 ^ 25
  let ly := w.getD 2 0 % 2 ^ 25
  let ok := ly ≤ lg
  let (lg, c) := c.sluField (w.getD 1 0) who (ok || lg = k.limitG) lg k.limitG
  let (ly, c) := c.sluField (w.getD 2 0) who (ok || ly = k.limitY) ly k.limitY
  let new : QueueCfg :=
    { en := bit w0 0, transit := tr, port := port, cls := cls, weight := wt, limitG := lg, limitY := ly,
      odShare := w.getD 3 0 % 2 ^ 16 }
  c.modSlu fun u => { u with cfgs := SMap.set (fun _ => none) u.cfgs i (some new) }

/-- The rates and sizes of a shaper or meter entry at COMMIT: cir, cbs, pir, pbs. The value that a record carries for a
refused rate, which spans two words of the window, is its low word (DESIGN CHOICE, log entry 50). -/
def Chip.sluRates (c : Chip) (w : List Nat) (who : List (Nat × Nat)) (low : Bool) (old : Nat × Nat × Nat × Nat) :
    (Nat × Nat × Nat × Nat) × Chip :=
  let cir := w.getD 2 0 % 256 * 2 ^ 32 + w.getD 1 0
  let pir := w.getD 5 0 % 256 * 2 ^ 32 + w.getD 4 0
  let (a, c) := c.sluField (w.getD 1 0) who (rateOk cir) cir old.1
  let (d, c) := c.sluField (w.getD 4 0) who (rateOk pir) pir old.2.2.1
  let ok := low || a ≤ d
  let (a, c) := c.sluField (w.getD 1 0) who (ok || a = old.1) a old.1
  let (d, c) := c.sluField (w.getD 4 0) who (ok || d = old.2.2.1) d old.2.2.1
  let (b, c) := c.sluField (w.getD 3 0) who (sizeOk (w.getD 3 0 % 2 ^ 25)) (w.getD 3 0 % 2 ^ 25) old.2.1
  let (e, c) := c.sluField (w.getD 6 0) who (sizeOk (w.getD 6 0 % 2 ^ 25)) (w.getD 6 0 % 2 ^ 25) old.2.2.2
  ((a, b, d, e), c)

/-- A staged entry of the indirect window takes effect at COMMIT (R222, R231, R232, R247): rates, sizes and *k* of a shaper at
its next refill, which a change of *k* moves; what an earlier COMMIT wrote for that refill is what it changes. A change of a meter to RFC 2698 under rates that it reserves is refused. -/
def Chip.sluApply (c : Chip) (e : Nat × Nat × List Nat × Nat) : Chip :=
  let (t, i, w, writer) := e
  let who := [(4, writer), (4, t), (4, i)]
  let shaper := fun (c : Chip) (h : Shaper) =>
    let (k', old) := h.next.getD (h.k, h.cir, h.cbs, h.pir, h.pbs)
    let ((a, b, d, p), c) := c.sluRates w who false old
    let k := bits (w.getD 0 0) 4 1
    let per := 128 * 2 ^ k
    ({ h with
      en := bit (w.getD 0 0) 0, next := some (k, a, b, d, p), due := if k = k' then h.due else (c.now / per + 1) * per }, c)
  match t with
  | 0 => c.sluQueue i w who
  | 1 => let (h, c) := shaper c (c.qShaper i); c.setQShaper i h
  | 2 => let (h, c) := shaper c (c.cShaper i); c.setCShaper i h
  | _ =>
    let m := (c.meter i).update c.now
    let w0 := w.getD 0 0
    let ((a, b, d, p), c) := c.sluRates w who (bit w0 1) (m.cir, m.cbs, m.pir, m.pbs)
    let (mode, c) := c.sluField w0 who (bit w0 1 || a ≤ d) (bit w0 1) true
    c.setMeter i { m with
      en := bit w0 0, rfc4115 := mode, aware := bit w0 2, pass := bit w0 3, cir := a, cbs := b, pir := d, pbs := p }

/-- The whole staging of the indirect window applied at COMMIT. -/
def Chip.sluCommit (c : Chip) : Chip :=
  let l := c.slu.staged
  (c.modSlu fun u => { u with staged := [] }).each l Chip.sluApply

/-! ### Ports that go down (R90, R539) -/

def Chip.ingot (c : Chip) (k : Nat) : IngotPort := SMap.get (fun _ => {}) c.path.ingots k

def Chip.setIngot (c : Chip) (k : Nat) (v : IngotPort) : Chip :=
  c.modPath fun p => { p with ingots := SMap.set (fun _ => {}) p.ingots k v }

/-- The frames with a segment in a list of slots, each with the offset of its first segment there. -/
def slotPieces (l : List TxSlot) : List (Nat × Nat) :=
  (l.flatMap fun t => t.segments.map fun x => (x.frame, x.off)).foldl
    (fun acc x => if acc.any (·.1 = x.1) then acc else acc ++ [x]) []

/-- R80, R90, R242: the content of closed slots is recalled: charges refunded, tags restored, frames back at the heads of
their queues, poisoned ones dropped. A frame already partly sent continues from its next unsent byte. -/
def Chip.recallSlots (c : Chip) (k : Nat) (l : List TxSlot) : Chip :=
  let pieces := slotPieces l
  let c := c.each (l.flatMap (·.picks)).reverse fun c p => c.unpick p
  let open' := (pieces.filter (·.2 ≠ 0)) ++ ((c.ingot k).partials.filter fun x => !pieces.any (·.1 = x.1))
  let bad := (pieces.map (·.1)).filter fun n => c.readsPoison ((c.frame n).getD {})
  let c := c.each open' fun c x => c.onFrame x.1 fun f c => c.setFrame x.1 (some { f with stage := .sending })
  let c := c.each bad fun c n => c.poisonDrop n
  c.setIngot k { c.ingot k with partials := open'.filter fun x => !bad.contains x.1 }

/-- R90: the ingot sides of a line sub-port whose link goes down. -/
def Chip.ingotDown (c : Chip) (p b : Nat) : Chip :=
  let k := (p - 8) * 4 + b
  let g := c.ingot k
  let c := c.each g.contexts fun c _ => c.portCount (schedOf p b) (0x20 + 0x14)
  let cut := (slotPieces (g.slots.filter (·.ready))).map (·.1)
  let c := c.recallSlots k g.slots
  let c := c.each (cut ++ (c.ingot k).partials.map (·.1)) fun c n => c.dropFrame n 0x93
  let c := c.setIngot k { c.ingot k with slots := [], partials := [], contexts := [], rxSync := false, halted := false }
  c.setF F.PRT_FRM_STAT_rx_sync [p - 8, b] 0

/-- R539: a sub-port goes down, for a cause that its event carries. -/
def Chip.portDown (c : Chip) (p b cause : Nat) : Chip :=
  if c.portUp p b then
    let up := c.getF F.PRT_LINK_STAT_up [p]
    let c := (c.setF F.PRT_LINK_STAT_up [p] (up - 2 ^ b)).setF F.PRT_LINK_STAT_down_ev [p]
      (c.getF F.PRT_LINK_STAT_down_ev [p] ||| 2 ^ b)
    let c := c.portEvent Ev.PORT_DOWN p b [(4, cause)]
    let s := schedOf p b
    let c := match c.picked s with
      | some k => (c.setPicked s none).dropFrame k.frame 0x93
      | none => c
    let c := c.each ((c.frameList.filter fun x => x.2.stage = .sending && x.2.outPort = p && x.2.outSub = b &&
        !c.ingotMode p b).map (·.1)) fun c n => c.dropFrame n 0x93
    if isLine p then c.ingotDown p b else c
  else c

end Sys2Proof.Machine
end

