-- ==== Sys2Proof/Machine/OrdCore.lean ====
section
/-! DEFINITION. Chapters 05 and 13: the results of orders, staging, the built-in interpreter's records, and the
completion of an order block (R132, R341 to R344). -/
namespace Sys2Proof.Machine

/-- Where the order engine's local memory lies in program memory. -/
def ordLocal : Nat := 0x21000000

/-- An order's result: a status with no detail and no return value. -/
def OrdRes.of (status : Nat) : OrdRes := { status := status }

/-- An order's function: the block after it and its result; none while it waits. -/
abbrev OrdFn := Chip → Chip × Option OrdRes

/-- An order that ends with a status and changes nothing. -/
def ordFail (status : Nat) : OrdFn := fun c => (c, some (.of status))

/-- R131: outside the listed modes an order fails with MODE. -/
def inModes (ms : List Mode) (f : OrdFn) : OrdFn := fun c => if c.inMode ms then f c else ordFail 0x40 c

/-! ### Staging (R132, R323) -/

/-- The slot a staged entry targets. -/
def Staged.slot? : Staged → Option Nat
  | .key slot _ _ _ _ => some slot
  | .release slot _ _ => some slot
  | _ => none

/-- A block stages at most 64 entries, a mode change among them; register writes stand besides them. -/
def Chip.stagedCount (c : Chip) : Nat := c.ord.staged.length

/-- R132: an entry is staged, or the order fails with STAGE_FULL, or SLOT_BUSY with detail 1. -/
def Chip.stage (c : Chip) (e : Staged) : Chip × Option OrdRes :=
  if 64 ≤ c.stagedCount then (c, some { status := 0x4A, detail := 0 })
  else if e.slot?.isSome && c.ord.staged.any (fun x => x.slot? = e.slot?) then (c, some { status := 0x4A, detail := 1 })
  else (c.modOrd fun o => { o with staged := o.staged ++ [e] }, some {})

/-- What was staged and not committed is discarded. -/
def Chip.discardStaged (c : Chip) : Chip := c.modOrd fun o => { o with
  staged := [], regWrites := [], stagedKsq := [], heldFill := false }

/-- Something is staged. -/
def Chip.hasStaged (c : Chip) : Bool := !(c.ord.staged.isEmpty && c.ord.regWrites.isEmpty)

/-! ### What a staged entry does to slots, contexts and channels; the staged state (R158, R159) -/

/-- R127: a staged key record takes its slot's next generation. -/
def Chip.placeKey (c : Chip) (i : Nat) (record : Slot) : Chip :=
  c.setSlot i { record with generation := nextGen (c.slot i).generation }

/-- R159: a context takes the next generation and the state VALID on its AN, and its key is bound. On a transmit channel
without a current SA it becomes current. -/
def Chip.placeSa (c : Chip) (i : Nat) (x : Sa) : Chip :=
  let c := c.setSa i { x with generation := nextGen (c.sa i).generation }
  let k := (c.chan x.channel).setSaAt x.an (some i)
  let k := if !x.dir && !k.txCur then { k with txCur := true, txAn := x.an } else k
  let s := c.slot (slotOf x.key)
  let c := (c.setChan x.channel k).setSlot (slotOf x.key) { s with bound := true, txUsed := s.txUsed || !x.dir }
  c.when (x.dir && !x.hold) fun c => c.rxUnsync x.channel

/-- CH_SET writes a channel's configuration fields. -/
def Chip.placeChannel (c : Chip) (ch : Nat) (x : Channel) : Chip :=
  c.setChan ch { c.chan ch with
    valid := true, dir := x.dir, portCh := x.portCh, linePort := x.linePort, subPort := x.subPort, tag := x.tag,
    sci := x.sci }

/-- R167: a channel holds a schedule. -/
def Chip.placeSchedule (c : Chip) (ch : Nat) (cur next : Word) (epoch : Nat) : Chip :=
  c.setChan ch { c.chan ch with sched := true, schedCur := saOf cur, schedNext := saOf next, schedEpoch := epoch }

/-- The block as a staged entry leaves its slots, contexts and channels. -/
def Chip.place (c : Chip) (e : Staged) : Chip :=
  match e with
  | .key i record _ _ _ => c.placeKey i record
  | .release i _ _ => c.setSlot i { c.slot i with state := 2 }
  | .chSet ch x => c.placeChannel ch x
  | .chClear ch => c.setChan ch { c.chan ch with valid := false }
  | .saInstall i x => c.placeSa i x
  | .saRetire h => c.retireSa (saOf h)
  | .schedule ch cur next epoch => c.placeSchedule ch cur next epoch
  | .schedCancel ch => c.endSchedule ch
  | .fwdAdd _ _ _ | .fwdDel _ | .imgActivate _ | .pairKey _ | .stackKey _ | .modeSet _ _ _ => c

/-- R158: the state against which a staging order checks what it names. -/
def Chip.staged (c : Chip) : Chip := c.each c.ord.staged Chip.place

/-- The slot is the target of a staged entry. -/
def Chip.stagedSlot (c : Chip) (i : Nat) : Bool := c.ord.staged.any fun e => e.slot? = some i

/-! ### Completion (R342, Table 13.6) -/

/-- The 32 bytes of an order completion. -/
def ordCompletion (cookie : DWord) (status index : Nat) (lost : Bool) (detail ret : Nat) : Bytes :=
  leBytes 8 cookie.toNat ++ [BitVec.ofNat 8 status, 0] ++ leBytes 2 index ++ leBytes 4 (b2n lost) ++
    leBytes 4 detail ++ leBytes 12 ret

/-- The running block completes: what it staged is discarded, its completion goes to its ring, or, for a block that came
by a relay, its result to the master (R429). -/
def Chip.blockDone (c : Chip) (status detail index ret : Nat) : Chip :=
  let o := c.ord
  let lost := c.hasStaged
  let c := c.discardStaged
  let c := c.modOrd fun o => { o with
    busy := false, wait := .none, callReg := none, owait := none, ended := none, relay := false, heldFill := false,
    cmacOut := none, discardCompletion := false, res := { status := status, detail := detail, ret := some ret } }
  let c := c.bump F.ORD_BLK_CNT_count []
  if o.relay then
    let dest := c.masterId
    c.linkSend ((c.runnerPort dest).getD 0) 5 ([0x15, 7, BitVec.ofNat 8 c.prs.straps, BitVec.ofNat 8 dest] ++ List.replicate 8 0)
      (List.replicate 32 0 ++ ordCompletion o.cookie status index lost detail ret)
  else if o.discardCompletion then c.modHif fun h => { h with
    rings := SMap.set (fun _ => {}) h.rings (o.ring + 4)
      { c.ring (o.ring + 4) with reserved := (c.ring (o.ring + 4)).reserved - 1 } }
  else c.ringComplete (o.ring + 4) (ordCompletion o.cookie status index lost detail ret)

/-- R132, R572: the running block is discarded without a completion. -/
def Chip.discardBlock (c : Chip) : Chip :=
  if c.ord.busy then
    let r := c.ord.ring + 4
    let relay := c.ord.relay
    let c := c.discardStaged
    let c := c.modOrd fun o => { o with
      busy := false, wait := .none, callReg := none, owait := none, ended := none, relay := false, heldFill := false,
      cmacOut := none, discardCompletion := false }
    c.when (!relay) fun c => c.setRing r { c.ring r with reserved := (c.ring r).reserved - 1 }
  else (c.discardStaged).modOrd fun o => { o with
    wait := .none, callReg := none, owait := none, ended := none, cmacOut := none }

/-! ### The built-in interpreter (R343, R344) -/

/-- The size of an order's parameter layout, alignment padding included (Table 13.7 and the later chapters). -/
def paramSize (code : Nat) : Option Nat :=
  match code with
  | 0x0101 => some 48 | 0x0102 => some 24 | 0x0103 => some 16 | 0x0104 => some 16 | 0x0105 => some 276
  | 0x0106 => some 8 | 0x0107 => some 0 | 0x0108 => some 16 | 0x0109 => some 52 | 0x010A => some 12
  | 0x010B => some 0 | 0x010C => some 12 | 0x010D => some 0 | 0x010E => some 48
  | 0x0201 => some 16 | 0x0202 => some 4 | 0x0203 => some 44 | 0x0204 => some 4 | 0x0205 => some 24
  | 0x0206 => some 4 | 0x0207 => some 16 | 0x0301 => some 16
  | 0x0401 => some 16 | 0x0402 => some 8 | 0x0403 => some 20 | 0x0404 => some 0 | 0x0405 => some 16
  | 0x0501 => some 4 | 0x0502 => some 4 | 0x0503 => some 4 | 0x0504 => some 0
  | 0x0601 => some 20 | 0x0602 => some 4
  | 0x0701 => some 8 | 0x0702 => some 197 | 0x0703 => some 4 | 0x0704 => some 12 | 0x0705 => some 0
  | 0x0706 => some 0 | 0x0801 => some 196
  | 0x0901 => some 4 | 0x0902 => some 4 | 0x0903 => some 0 | 0x0904 => some 20
  | 0x0A01 => some 8 | 0x0B01 => some 0 | 0x0C01 => some 0 | 0x0C02 => some 24
  | _ => none

/-- The padding bytes inside an order's parameters, as (offset, length). -/
def paramPad (code : Nat) : Nat × Nat :=
  if [0x0101, 0x0103, 0x0104, 0x0108, 0x0207, 0x0301, 0x0601, 0x0904].contains code then (4, 4)
  else if code = 0x0109 then (36, 4)
  else if code = 0x0205 then (12, 4)
  else if code = 0x0801 then (97, 1)
  else (0, 0)

/-- `n` rounded up to a multiple of 8. -/
def up8 (n : Nat) : Nat := (n + 7) / 8 * 8

/-- R343: the record at the interpreter's position is well formed. -/
def Chip.recordOk (c : Chip) : Bool :=
  let a := ordLocal + c.ord.pos
  let h := c.memBytes a 8
  let code := leNat (slice h 0 2)
  let n := leNat (slice h 2 2)
  let zero := fun (o k : Nat) => (c.memBytes o k).all (· = 0)
  let pad := paramPad code
  c.ord.pos + 8 + n ≤ c.ord.paramLen && leNat (h.drop 4) = 0 && paramSize code = some n &&
    zero (a + 8 + pad.1) pad.2 && zero (a + 8 + n) (up8 n - n)

/-- The interpreter looks at its next record: at the end the block completes with OK, a malformed record ends it with
BAD_ORDER. -/
def Chip.nextRecord (c : Chip) : Chip :=
  let o := c.ord
  if o.paramLen ≤ o.pos then c.blockDone 0 0 0xFFFF o.lastRet
  else if c.recordOk then c
  else c.blockDone 0x53 0 o.index o.lastRet

/-- R343: a record of the interpreter has ended. -/
def Chip.recordDone (c : Chip) (r : OrdRes) : Chip :=
  let o := c.ord
  if r.status ≠ 0 then c.blockDone r.status r.detail o.index o.lastRet
  else
    let n := leNat (c.memBytes (ordLocal + o.pos + 2) 2)
    (c.modOrd fun o => { o with
      pos := o.pos + 8 + up8 n, index := o.index + 1, lastRet := r.ret.getD o.lastRet, res := r }).nextRecord

/-! ### Ending an order -/

/-- A result of an `ocall` goes to its register. -/
def Chip.callDone (c : Chip) (d : Nat) (r : OrdRes) : Chip :=
  let x := SMap.get (fun _ => {}) c.eng.ctx 1026
  let c := c.modOrd fun o => { o with callReg := none, res := r, lastRet := r.ret.getD o.lastRet }
  if d = 0 then c
  else c.modEng fun e => { e with
    ctx := SMap.set (fun _ => {}) e.ctx 1026 { x with g := SMap.set (fun _ => 0) x.g d (BitVec.ofNat 64 r.status) } }

/-- The present order has ended with a result: for `ocall` in its register, for the interpreter as a record, else as the
engine's last result. -/
def Chip.finishOrder (c : Chip) (r : OrdRes) : Chip :=
  let c := c.modOrd fun o => { o with wait := .none }
  match c.ord.callReg with
  | some d => c.callDone d r
  | none =>
    if c.ord.busy && c.ord.entry = 0 then c.recordDone r
    else c.modOrd fun o => { o with res := r, lastRet := r.ret.getD o.lastRet }

/-- Parameters of 4 and of 8 bytes, and the padding between them (R344). -/
def w4 (v : Word) : Bytes := leBytes 4 v.toNat
def w8 (v : DWord) : Bytes := leBytes 8 v.toNat
def pad4 : Bytes := List.replicate 4 0

/-- R343: the interpreter's record is the order of a code with these parameter bytes. -/
def Chip.recordIs (c : Chip) (code : Nat) (params : Bytes) : Bool :=
  let a := ordLocal + c.ord.pos
  leNat (c.memBytes a 2) = code && c.memBytes (a + 8) params.length = params

/-- An order executes: as the record at the interpreter's position, or by itself while no block runs. The engine takes
no other order while its present one waits or an image's program runs, and none during a zeroization (R149). -/
def Chip.runOrder (c : Chip) (code : Nat) (params : Bytes) (f : OrdFn) : Chip :=
  if c.ctl.zeroizing.isSome || c.ord.wait ≠ .none || c.ord.ended.isSome ||
      (c.ord.busy && !(c.ord.entry = 0 && c.recordIs code params)) then c
  else
    match f c with
    | (c, none) => c
    | (c, some r) => c.finishOrder r

/-- An order whose next act is a read of PF0's memory; while DMA of PF0 is gated it has not happened yet (R522). -/
def hostRead (f : OrdFn) : OrdFn := fun c => if c.dmaAllowed 0 then f c else (c, none)

/-- The order engine runs no block and its last order has ended. -/
def Chip.ordIdle (c : Chip) : Bool := !c.ord.busy && c.ord.wait = .none && c.ord.ended.isNone

/-- What an order waited for has come, and the order goes on. -/
def Chip.ordResume (c : Chip) (f : OrdFn) : Chip :=
  if c.ord.wait = .none then c
  else
    match f (c.modOrd fun o => { o with wait := .none }) with
    | (c, none) => c
    | (c, some r) => c.finishOrder r

/-- Bytes that an order writes to a buffer of PF0. -/
def Chip.hostOut (c : Chip) (iova : Nat) (data : Bytes) : Chip := c.dma 0 (.hostWrite 0 iova data)

end Sys2Proof.Machine
end

