-- ==== Sys2Proof/Machine/Entropy.lean ====
section
/-! DEFINITION. Chapter 07: the Brine sources, the seed buffer, the DRBG and its FIFO, and the queue of requests. -/
namespace Sys2Proof.Machine

/-! ### Sources (R180 to R184) -/

def Chip.brine (c : Chip) (s : Nat) : Brine := if s = 0 then c.ent.src0 else c.ent.src1

/-- The state field of ENT_SRC_STAT: 0 START_TEST, 1 RUN, 2 RESTART, 3 RAW. -/
def Chip.srcState (c : Chip) (s : Nat) : Nat :=
  let b := c.brine s
  if b.restarting then 2
  else if c.getB F.ENT_RAW_CTL_en [] && c.getF F.ENT_RAW_CTL_src [] = s then 3
  else if b.startTest then 0
  else 1

/-- A source changed; its status word follows. -/
def Chip.setBrine (c : Chip) (s : Nat) (b : Brine) : Chip :=
  let c := c.modEnt fun e => if s = 0 then { e with src0 := b } else { e with src1 := b }
  c.setF F.ENT_SRC_STAT_consec [s] b.consec

/-- R184: the sources start: start-up tests and the known-answer test of the DRBG. -/
def Chip.entStart (c : Chip) : Chip :=
  let b : Brine := { running := true, startTest := true }
  let c := c.modEnt fun e => { e with started := true, katOk := false }
  (c.setBrine 0 { b with consec := c.ent.src0.consec, degradedSaid := c.ent.src0.degradedSaid }).setBrine 1
    { b with consec := c.ent.src1.consec, degradedSaid := c.ent.src1.degradedSaid }

/-- R191: in REST the sources stop; the DRBG keeps its state. -/
def Chip.entRest (c : Chip) : Chip :=
  let rest := fun (b : Brine) =>
    { b with running := false, startTest := true, restarting := false, last := none, run := 0 }
  let c := (c.setBrine 0 (rest c.ent.src0)).setBrine 1 (rest c.ent.src1)
  (c.setF F.ENT_CTL_restart0 [] 0).setF F.ENT_CTL_restart1 [] 0

/-- R191: the sources resume after REST, each with its start-up test. -/
def Chip.entResume (c : Chip) : Chip :=
  if c.ent.started then
    (c.setBrine 0 { c.ent.src0 with running := true }).setBrine 1 { c.ent.src1 with running := true }
  else c

/-- R183, R191: the DRBG is uninstantiated, the seed buffer and the output FIFO are cleared. -/
def Chip.entClear (c : Chip) : Chip :=
  (c.modEnt fun e => { e with seed := [], drbg := none, fifoState := 0, fifoNext := 512, calls := 0 }).setF
    F.ENT_STAT_ready [] 0

/-! ### The health tests of R181 -/

/-- The repetition count test in progress: the last sample, its run, and whether a run has reached 41. -/
structure RunCount where
  last : Option Bool
  run : Nat
  failed : Bool := false

def RunCount.sample (r : RunCount) (x : Bool) : RunCount :=
  let n := if r.last = some x then r.run + 1 else 1
  ⟨some x, n, r.failed || 41 ≤ n⟩

/-- The repetition count test over the first `n` samples of a window. -/
def Brine.runOver (b : Brine) (w : BitVec 1024) (n : Nat) : RunCount :=
  (List.range n).foldl (fun r i => r.sample (w.getLsbD i)) { last := b.last, run := b.run }

/-- The adaptive proportion test over the first `n` samples of a window: the first sample's value occurs 795 times. -/
def aptFails (w : BitVec 1024) (n : Nat) : Bool :=
  795 ≤ (List.range n).foldl (fun k i => if w.getLsbD i = w.getLsbD 0 then k + 1 else k) 0

/-- The test that the first `n` samples of a window fail: `some false` the repetition count test, which fails within a
window, `some true` the adaptive proportion test, which is judged after it. -/
def Brine.judge (b : Brine) (w : BitVec 1024) (n : Nat) : Option Bool :=
  if (b.runOver w n).failed then some false else if aptFails w n then some true else none

/-- A source that has taken a window: the run of identical samples goes on. -/
def Brine.took (b : Brine) (w : BitVec 1024) : Brine :=
  { b with last := (b.runOver w 1024).last, run := (b.runOver w 1024).run }

/-- The generator has failed. -/
def Chip.entFailed (c : Chip) : Bool := c.getB F.ENT_STAT_failed []

/-- R182: the restart of a source: its unreleased blocks are gone, and it runs its start-up test again. -/
def Chip.sourceStop (c : Chip) (s : Nat) : Chip :=
  c.setBrine s { c.brine s with running := false, restarting := true, startTest := true, last := none, run := 0 }

/-- The command bit of ENT_CTL that restarts a source. -/
def entRestart (s : Nat) : Fld := if s = 0 then F.ENT_CTL_restart0 else F.ENT_CTL_restart1

/-- R182: a stopped source restarts, and its bit of ENT_CTL clears (R193). -/
def Chip.sourceRestart (c : Chip) (s : Nat) : Chip :=
  if (c.brine s).restarting then
    (c.setBrine s { c.brine s with running := true, restarting := false }).setF (entRestart s) [] 0
  else c

def execSourceRestart (src : Fin 2) := lift fun c => c.sourceRestart src.val

/-- R182, R184: a health test of a running source fails; `apt` names the test. -/
def Chip.healthFail (c : Chip) (s : Nat) (apt : Bool) : Chip :=
  let b := c.brine s
  if b.running then
    let n := min 15 (b.consec + 1)
    let test := b2n apt + 2 * b2n b.startTest
    let say := 3 ≤ n && !b.degradedSaid
    let c := c.setBrine s { b with consec := n, degradedSaid := b.degradedSaid || say }
    let c := (c.sourceStop s).bump F.ENT_SRC_STAT_fails [s]
    let c := c.setF (if apt then F.ENT_SRC_STAT_apt_fail else F.ENT_SRC_STAT_rct_fail) [s] 1
    let c := (c.setF F.ENT_STAT_health [] 1).raise Ev.ENT_HEALTH 0x0C8 [(4, s), (4, test), (4, n)]
    c.when say fun c => (c.setF F.ENT_STAT_degraded [] 1).raise Ev.ENT_SRC_DEGRADED 0x0C8
  else c

/-- R183: both consecutive counts have reached 3. -/
def Chip.bothDegraded (c : Chip) : Bool := 3 ≤ c.ent.src0.consec && 3 ≤ c.ent.src1.consec

/-- The words of a window that go to the raw FIFO (R193): 64 words at most, the rest lost with `overrun`. -/
def Chip.rawPush (c : Chip) (ws : List Word) : Chip :=
  let room := 64 - c.ent.raw.length
  let c := c.modEnt fun e => { e with raw := e.raw ++ ws.take room }
  let c := c.setF F.ENT_RAW_CTL_empty [] (b2n c.ent.raw.isEmpty)
  c.when (room < ws.length) fun c => c.setF F.ENT_RAW_CTL_overrun [] 1

/-- The words of the first `n` samples of a window, earliest sample in bit 0; a word begun is not kept (log entry 49). -/
def windowWords (w : BitVec 1024) (n : Nat) : List Word := (List.range (n / 32)).map fun i => w.extractLsb' (32 * i) 32

/-- R193: the samples of a diverted source go to the raw FIFO, those of a test too. -/
def Chip.divert (c : Chip) (s : Nat) (w : BitVec 1024) (n : Nat) : Chip :=
  c.when (c.srcState s = 3) fun c => c.rawPush (windowWords w n)

/-- R184: a source's start-up test has passed: its samples are discarded and it runs. -/
def Chip.startTestPass (c : Chip) (s : Nat) (w : BitVec 1024) : Chip :=
  let b := c.brine s
  if b.running && b.startTest then (c.divert s w 1024).setBrine s { b.took w with startTest := false } else c

/-- R180: a block of 512 samples conditioned into 128 bits. -/
def condition (b : BitVec 512) : BitVec 128 := Config.cmac true Config.condKey (leBytes 64 b.toNat)

/-- R180, R181: a window of two blocks that has passed its tests is released, or its samples go to the raw FIFO. The first
released block resets the source's consecutive count, and a count that reaches 3 again is told again (R182). -/
def Chip.blockRelease (c : Chip) (s : Nat) (w : BitVec 1024) : Chip :=
  let b := (c.brine s).took w
  if c.srcState s = 3 then (c.divert s w 1024).setBrine s b
  else
    (c.setBrine s { b with consec := 0, degradedSaid := false }).modEnt fun e => { e with
      seed := e.seed ++ [condition (w.extractLsb' 0 512), condition (w.extractLsb' 512 512)] }

/-! ### The DRBG (R184, R186, R187) -/

/-- The AES-256 CTR_DRBG of NIST SP 800-90A, its state Key then V: the `k`-th 128-bit output block, V being raised
before each. -/
def drbgBlock (state : BitVec 384) (k : Nat) : BitVec 128 :=
  Config.aesBlock true (state.extractLsb' 128 256) (state.extractLsb' 0 128 + BitVec.ofNat 128 (k + 1))

/-- Its update: the next three blocks, with an input. -/
def drbgUpdate (state input : BitVec 384) : BitVec 384 :=
  (drbgBlock state 0 ++ drbgBlock state 1 ++ drbgBlock state 2) ^^^ input

/-- The state after `n` output blocks. -/
def drbgAdvance (state : BitVec 384) (n : Nat) : BitVec 384 :=
  (state.extractLsb' 128 256 ++ (state.extractLsb' 0 128 + BitVec.ofNat 128 n) : BitVec 384)

/-- The first 384 bits of the seed buffer. -/
def Chip.seedInput (c : Chip) : BitVec 384 :=
  match c.ent.seed with
  | a :: b :: d :: _ => a ++ b ++ d
  | _ => 0

/-- R184: instantiation with 384 fresh bits and the personalization string device_id ‖ 0^320. -/
def Chip.instantiate (c : Chip) : Chip :=
  if c.ent.katOk && c.ent.drbg.isNone && 3 ≤ c.ent.seed.length && !c.entFailed then
    let pers : BitVec 384 := Config.deviceId ++ (0 : BitVec 320)
    let st := drbgUpdate 0 (c.seedInput ^^^ pers)
    let c := c.modEnt fun e => { e with drbg := some st, seed := e.seed.drop 3, calls := 0, fifoNext := 512 }
    ((c.setF F.ENT_STAT_ready [] 1).setF F.ENT_STAT_stale [] 0).raise Ev.ENT_READY 0x0C8
  else c

def execDrbgInstantiate := lift Chip.instantiate

/-- R186: a generate call of 512 blocks and its update, when the FIFO is empty and a consumer waits or the FIFO is below half. -/
def Chip.generate (c : Chip) : Chip :=
  match c.ent.drbg with
  | none => c
  | some st =>
    if c.ent.fifoNext = 512 && c.ent.calls < 2 ^ 20 && !c.getB F.ENT_STAT_stale [] then
      c.modEnt fun e => { e with
        fifoState := st, fifoNext := 0, drbg := some (drbgUpdate (drbgAdvance st 512) 0), calls := e.calls + 1 }
    else c

def execDrbgGenerate := lift Chip.generate

/-- R187: a reseed with 384 bits that no earlier seed used. -/
def Chip.reseed (c : Chip) : Chip :=
  match c.ent.drbg with
  | none => c
  | some st =>
    if 3 ≤ c.ent.seed.length then
      let c := c.modEnt fun e => { e with
        drbg := some (drbgUpdate st c.seedInput), seed := e.seed.drop 3, calls := 0 }
      (c.setF F.ENT_STAT_stale [] 0).bump F.ENT_RESEED_CNT_count []
    else c

def execDrbgReseed := lift Chip.reseed

/-- R187: the call counter has reached 2^20 with no reseed. A fresh seed ready in that cycle is first (Table 07.2). -/
def Chip.seedStale (c : Chip) : Chip :=
  if c.ent.calls = 2 ^ 20 && c.ent.drbg.isSome && !c.getB F.ENT_STAT_stale [] then
    if 3 ≤ c.ent.seed.length then c.reseed
    else (c.setF F.ENT_STAT_stale [] 1).raise Ev.ENT_SEED_STALE 0x0C8
  else c

def execSeedStale := lift Chip.seedStale

/-! ### Requests (R185, R188) -/

/-- A request joins the queue. -/
def Chip.randPost (c : Chip) (cls need : Nat) (use : RandUse) : Chip :=
  c.modEnt fun e => { e with waiting := e.waiting ++ [{ cls := cls, need := need, use := use }] }

/-- Blocks in the output FIFO. -/
def Chip.fifoBlocks (c : Chip) : Nat := 512 - c.ent.fifoNext

/-- `n` blocks taken from the FIFO. -/
def Chip.takeBlocks (c : Chip) (n : Nat) : List (BitVec 128) × Chip :=
  let l := (List.range n).map fun i => drbgBlock c.ent.fifoState (c.ent.fifoNext + i)
  (l, c.modEnt fun e => { e with fifoNext := e.fifoNext + n })

/-- R188: the request served next: one that has taken a block, else the oldest of the lowest class. -/
def nextRequest (l : List RandReq) : Option RandReq :=
  match l.find? fun r => !r.got.isEmpty with
  | some r => some r
  | none => [1, 2, 3, 4].findSome? fun k => l.find? fun r => r.cls = k

/-- The requests without those that satisfy a test. -/
def Chip.randDrop (c : Chip) (p : RandReq → Bool) : Chip :=
  c.modEnt fun e => { e with waiting := e.waiting.filter fun r => !p r }

/-- A GET_RANDOM that waits. -/
def RandReq.isHost (r : RandReq) : Bool := match r.use with | .host _ _ => true | _ => false

/-- R190: a GET_RANDOM still waiting when the mode leaves the four modes completes with MODE. -/
def Chip.hostRandMode (c : Chip) : Chip :=
  if c.ent.waiting.any RandReq.isHost then (c.randDrop RandReq.isHost).finishOrder (.of 0x40) else c

/-- A read of ENT_RAW_DATA: the oldest 32 samples, removed (R193). -/
def Chip.rawRead (c : Chip) : Nat × Chip :=
  match c.ent.raw with
  | [] => (0, c)
  | w :: ws => (w.toNat, (c.modEnt fun e => { e with raw := ws }).setF F.ENT_RAW_CTL_empty [] (b2n ws.isEmpty))

end Sys2Proof.Machine
end

