-- ==== Sys2Proof/Machine/Control.lean ====
section
/-! DEFINITION. Chapters 14, 16 and 17, what every block shares: the claim, a change of mode, debug levels, responses
and alarms, and zeroization. -/
namespace Sys2Proof.Machine

/-! ### The claim (R408 to R411) -/

/-- The part's own claim. -/
def Chip.ownClaim (c : Chip) : Nat :=
  c.prs.grade * 32 + c.getF F.PRS_PAIR_CFG_pref [] * 2 + b2n c.prs.pairRole

/-- An instant that an option holds lies ahead. -/
def Chip.ahead (c : Chip) (t : Option Nat) : Bool := t.any fun t => c.now < t

/-- R366: a PIN token is held whose 120 s have not passed. -/
def Chip.pinValid (c : Chip) : Bool := c.ahead c.ctl.pinOk

/-- The part holds the claim. -/
def Chip.holding (c : Chip) : Bool := c.getB F.PRS_STAT_holding []

/-- R411: the four conditions of deferring, while no revert has ended it. -/
def Chip.deferring (c : Chip) : Bool :=
  !c.holding && c.prs.grade = c.prs.peerClaim / 32 && c.prs.peerClaim < c.ownClaim && c.prs.peerHolding &&
    !c.prs.reverted

/-- R411: the four conditions of deferring and SYNCED hold together. -/
def Chip.deferHolds (c : Chip) : Bool :=
  !c.holding && c.prs.grade = c.prs.peerClaim / 32 && c.prs.peerClaim < c.ownClaim && c.prs.peerHolding && c.prs.link = 4

/-- R410: the comparison gives the claim to this part. -/
def Chip.holds (c : Chip) : Bool := c.prs.grade ≠ 0 && c.prs.peerClaim < c.ownClaim && !c.deferring

/-- R411, R419: the revert count starts, goes on, or is broken; so does the time for which the comparison gives the claim to this
part. -/
def Chip.trackDefer (c : Chip) : Chip :=
  let c := c.modPrs fun p =>
    if c.deferHolds then { p with deferSince := some (p.deferSince.getD c.now) }
    else { p with deferSince := none, reverted := false }
  c.modPrs fun p =>
    if c.holds then { p with holdSince := some (p.holdSince.getD c.now) } else { p with holdSince := none, finalGot := false }

/-- The part is in service. -/
def Chip.inService (c : Chip) : Bool := c.inMode [.active, .standby, .drain]

/-- R408, R411: the claim that is sent. -/
def Chip.publishedClaim (c : Chip) : Nat :=
  if !c.inService then 0 else if c.deferring then c.prs.peerClaim - 1 else c.ownClaim

/-- The mode that target SERVICE gives (R410). -/
def Chip.serviceMode (c : Chip) : Mode := if c.holds then .active else .standby

/-! ### Threads lost with D2 (R375) -/

/-- A Ladle thread ends its frame and is free; its registers keep what they hold (R294). -/
def Chip.endThread (c : Chip) (k : Nat) : Chip :=
  let x := SMap.get (fun _ => {}) c.eng.ctx k
  c.modEng fun e => { e with
    ctx := SMap.set (fun _ => {}) e.ctx k { g := x.g, fetchEcc := x.fetchEcc }, frames := SMap.set (fun _ => {}) e.frames k {} }

/-- A Ladle thread loses its frame for a reason and is free. -/
def Chip.freeThread (c : Chip) (k reason : Nat) : Chip :=
  let x := SMap.get (fun _ => {}) c.eng.frames k
  let running := (SMap.get (fun _ => {}) c.eng.ctx k).running
  let c := c.endThread k
  c.when running fun c => c.dropFrame x.frame reason

/-- R370: on entry to LOCKDOWN the Ladles drop the frames that they hold as MODE. -/
def Chip.threadsMode (c : Chip) : Chip :=
  c.each ((c.eng.ctx.filter fun p => p.1 < 1024 && p.2.running).map (·.1)) fun c k => c.freeThread k 0x89

/-- R375: D2 is lost: every halted thread's frame is dropped as PROG_EXC, and breakpoints are cleared. -/
def Chip.loseD2 (c : Chip) : Chip :=
  let halted := (c.eng.ctx.filter fun p => p.1 < 1024 && p.2.halted).map (·.1)
  let c := c.each halted fun c k => c.freeThread k 0x86
  c.each (List.range 4) fun c q => ((c.setF F.LAD_DBG_CTL_bp_en [q] 0).setF F.LAD_DBG_CTL_halted [q] 0).setF
    F.LAD_DBG_BP_addr [q] 0

/-! ### Debug levels (R372 to R376, Table 14.5) -/

/-- Table 14.5: the cell of a mode grants a level, outside the certificate path. -/
def Chip.dbgGrants (c : Chip) (m : Mode) (l : Nat) : Bool :=
  l = 0 || match m with
    | .off | .vigil => false
    | .wake => l = 1 || (l = 3 && !c.vlt.rootReady)
    | .provision => l = 1 || l = 2
    | .maintenance => l = 1 || (l = 2 && c.ctl.tkDis)
    | .erased => l = 1 || l = 3
    | .sealed | .active | .standby | .drain | .rest | .lockdown => l = 1

/-- R395: the start fails with a code. -/
def Chip.startFail (c : Chip) (code : Nat) : Chip :=
  if c.su.failed then c
  else
    let c := c.modSu fun s => { s with failed := true }
    (c.setF F.SYS_BOOT_STAT_fail [] code).raise Ev.START_FAIL 0x003 [(4, code)]

/-- A sticky flag is set (R447). -/
def Chip.setFlag (c : Chip) (b : Nat) : Chip :=
  c.modFlt fun f => { f with flags := f.flags ||| (1#32 <<< b) }

/-- R373, R376, R393: a level is granted. -/
def Chip.dbgGrant (c : Chip) (l : Nat) : Chip :=
  let c := (c.modCtl fun k => { k with dbg := l, d3Taint := k.d3Taint || l = 3 }).raise Ev.DBG_LEVEL 0x002
  let c := c.when (l = 3) fun c => c.setFlag 16
  c.when (l = 3 && c.inMode [.wake]) fun c => c.startFail 7

/-- R373: a refusal. `path` is 0 for the register, 1 for the TAP, 2 for a certificate. -/
def Chip.dbgRefuse (c : Chip) (l path : Nat) : Chip :=
  (c.setF F.MOD_DBG_CTL_refused [] 1).raise Ev.DBG_REFUSED 0x002
    [(4, l), (4, modeCode c.ctl.mode), (4, c.ctl.power), (4, path)]

/-- R373: a request for a debug level. A request for the level held or a lower one is granted. -/
def Chip.dbgRequest (c : Chip) (l path : Nat) : Chip :=
  if !c.powered then c
  else if c.su.resetHeld && l = 3 then c.modSu fun s => { s with d3AtRelease := true }
  else if l ≤ c.ctl.dbg || c.dbgGrants c.ctl.mode l then c.dbgGrant l
  else c.dbgRefuse l path

def execDbgReq (level : Fin 4) := lift fun c => c.dbgRequest level.val 1

/-- R375: the held level is judged again in the mode entered. -/
def Chip.dbgRejudge (c : Chip) : Chip :=
  let l := c.ctl.dbg
  if c.dbgGrants c.ctl.mode l then c
  else
    let new := ((List.range l).filter fun k => c.dbgGrants c.ctl.mode k).getLast?.getD 0
    let c := (c.modCtl fun k => { k with dbg := new }).raise Ev.DBG_LEVEL 0x002
    c.when (2 ≤ l && new < 2) Chip.loseD2

/-! ### A change of mode (R359 to R361) -/

/-- R360: a requested change that a hardware transition overtakes is dropped, and its block completes with
TRANSITION. -/
def Chip.dropPending (c : Chip) : Chip :=
  if c.ctl.pendingMode.isNone then c
  else
    let c := c.modCtl fun k => { k with pendingMode := none }
    let c := (c.bump F.MOD_REFUSE_CNT_count []).raise Ev.MODE_REFUSED 0x001
    let c := c.modOrd fun o => { o with ended := none }
    if c.ord.busy then
      let c := c.modEng fun e => { e with ctx := SMap.set (fun _ => {}) e.ctx 1026 {} }
      c.blockDone 0x8A 0 (if c.ord.entry = 0 then c.ord.index else 0xFFFF) c.ord.lastRet
    else c.finishOrder (.of 0x8A)

/-- R54: look-aside requests that are not yet admitted complete with MODE. -/
def Chip.laMode (c : Chip) : Chip :=
  let c := c.modPath fun p => { p with
    la := p.la.map fun e => (e.1, e.2.map fun r =>
      if r.admitted || r.status.isSome then r else { r with status := some 0x0C, waitsRandom := false }) }
  c.randDrop fun r => match r.use with
    | .laIv _ => true
    | _ => false

/-- R541: an exit from MAINTENANCE returns every lane to normal service. -/
def Chip.lanesNormal (c : Chip) : Chip :=
  c.each (List.range 76) fun c l =>
    ((((c.setF F.SRD_LANE_CTL_tx_sleep [l] 0).setF F.SRD_LANE_CTL_rx_sleep [l] 0).setF F.SRD_LANE_CTL_lpbk [l] 0).setF
      F.SRD_PRBS_CFG_gen [l] 0).setF F.SRD_PRBS_CFG_chk [l] 0

/-- The lanes of every enabled sub-port. -/
def Chip.enabledLanes (c : Chip) : List Nat :=
  ((List.range 16).flatMap fun p =>
    ((List.range 4).filter fun b => bit (c.getF F.PRT_LINK_CFG_en [p]) b).flatMap fun b => c.subLanes p b) ++
  ((List.range 3).filter fun i => c.getF F.LNK_LINK_CFG_en [i] % 2 = 1).flatMap fun i => (List.range 4).map (64 + 4 * i + ·)

/-- R543: every enabled lane goes to electrical idle. Its receiver keeps its values but not its lock, so an Ethernet sub-port
goes down (R539; DEDUCED, log entry 59). -/
def Chip.lanesRest (c : Chip) : Chip :=
  let l := c.enabledLanes
  let c := c.each (List.range 64) fun c k => c.portDown (k / 4) (k % 4) 0
  let c := c.modSrd fun s => { s with idle := l }
  c.each l fun c i => c.setF F.SRD_LANE_STAT_lock [i] 0

/-- R543: the lanes leave electrical idle; a receiver that finds signal relocks. Ethernet sub-ports come up again by R538. -/
def Chip.lanesResume (c : Chip) : Chip :=
  let l := c.srd.idle
  let c := c.modSrd fun s => { s with idle := [] }
  c.each (l.filter fun i => c.getB F.SRD_LANE_STAT_sig [i]) fun c i => c.setF F.SRD_LANE_STAT_lock [i] 1

/-- The power state of a mode (Table 14.2). -/
def powerOf (m : Mode) : Nat :=
  match m with
  | .rest => 1
  | .off | .vigil => 2
  | _ => 0

/-- R264: the offset in ns at which a slot is visited in a pass of `p` seconds. -/
def rakeOffset (slot p : Nat) : Nat := slot * p * 1000000000 / 262144

/-- The Rake goes on from its position now; while it did not run, its pass stood still (DESIGN CHOICE, log entry 56). -/
def Chip.rakeResume (c : Chip) : Chip :=
  c.modFwd fun t => { t with passStart := (c.now : Int) - rakeOffset t.rake t.passLen }

/-- The mode becomes `new` for a cause (Table 14.10): the record and the counts; tokens, presence, enrolment and the
held blob lapse (R363, R366, R403, R467, R472); the debug level is judged again; the claim's outputs follow. -/
def Chip.enterMode (c : Chip) (new : Mode) (cause : Nat) : Chip :=
  let old := c.ctl.mode
  let c := c.when (cause ≠ 0) Chip.dropPending
  let c := c.modCtl fun k => { k with
    mode := new, power := powerOf new, auth := none, pinOk := none, tkDis := k.tkDis && new = .maintenance,
    drainTo := if new = .drain then k.drainTo else none, pendingMode := none }
  let last := modeCode old + 16 * modeCode new + 256 * cause
  let c := (((c.setF F.MOD_LAST_from [] (modeCode old)).setF F.MOD_LAST_to [] (modeCode new)).setF F.MOD_LAST_cause []
    cause).bump F.MOD_TRANS_CNT_count []
  let c := c.raise Ev.MODE_CHANGED 0x001 [(4, last)]
  let c := c.modSu fun s => { s with presenceEnds := none }
  let c := c.modPnl fun p => { p with enrolEnds := none, first := none, held := none }
  let c := c.setF F.PRS_STAT_holding [] (b2n (new = .active || (new = .drain && c.holding)))
  let c := c.modPrs fun p => { p with
    selOut := new = .active || (new = .drain && p.selOut), yieldAt := none, reverted := p.reverted && new = .standby }
  let c := c.when (old = .maintenance && new ≠ .maintenance) Chip.lanesNormal
  let c := c.when (old = .rest && new ≠ .rest) fun c => c.entResume.lanesResume
  let c := c.when (new = .rest) fun c => c.entRest.lanesRest
  let c := c.when (new = .active) Chip.rakeResume
  let c := c.when (new = .lockdown) Chip.threadsMode
  let c := c.when (!c.inMode [.provision, .active, .standby]) Chip.laMode
  let c := c.when (!c.inMode [.provision, .active, .standby, .maintenance]) Chip.hostRandMode
  let c := c.when (!c.inMode [.sealed, .rest, .lockdown, .erased]) fun c =>
    c.modPan fun p => { p with stopped := false }
  c.dbgRejudge

/-! ### Zeroization (R449, R572, Table 17.4) -/

/-- A random request that an order block made. -/
def RandReq.isOrder (r : RandReq) : Bool :=
  match r.use with
  | .laIv _ | .linkSalt _ | .memKeysAll => false
  | _ => true

/-- R119: look-aside requests in flight are discarded: no output is released and no completion is written. One not
yet admitted completes as refused. -/
def Chip.laForget (c : Chip) : Chip :=
  let gone := c.path.la.filterMap fun e => e.2.bind fun r => if r.admitted then some r.pair else none
  let c := c.each gone fun c p => c.setRing (160 + p) { c.ring (160 + p) with reserved := (c.ring (160 + p)).reserved - 1 }
  c.modPath fun p => { p with la := p.la.filter fun e => !e.2.any (·.admitted) }

/-- The buffers of exception-in rings that frames being opened had taken stay unused. -/
def Chip.waitsForget (c : Chip) : Chip :=
  c.each (List.range 16) fun c e =>
    let g := c.ring (8 + e)
    if g.waits.isEmpty then c else c.setRing (8 + e) { g with waits := [] }

/-- R119: a SEAL of the driver's that is in a Pan is discarded: no completion is written. -/
def Chip.sealForget (c : Chip) : Chip :=
  c.each (c.frameList.filter fun e => e.2.stage = .pan) fun c e =>
    match e.2.host with
    | none => c
    | some h =>
      let c := (c.unqueue e.1).setFrame e.1 none
      match h.1 with
      | some r => c.setRing (r + 16) { c.ring (r + 16) with reserved := (c.ring (r + 16)).reserved - 1 }
      | none => c

/-- What stays of a frame whose last bytes are still on their way when zeroization destroys the rest: the MAC's view of it. -/
def Frame.tail (f : Frame) : Frame :=
  { entry := f.entry, sub := f.sub, stage := .gone, coming := true, lost := f.lost, taken := f.taken }

/-- The ingot ports lose what they hold; their slot numbers run on, which only a reset that clears PRT restarts (R72), and
their receive sides, without an SA, are unsynchronised (R85). -/
def Chip.ingotsForget (c : Chip) : Chip :=
  let keys := c.path.ingots.map (·.1)
  let c := c.modPath fun p => { p with
  ingots := (p.ingots.map fun e =>
    (e.1, ({ nextSeq := e.2.nextSeq, halted := e.2.halted } : IngotPort))).filter fun e => e.2 ≠ {} }
  c.each keys fun c k => c.setF F.PRT_FRM_STAT_rx_sync [k / 4, k % 4] 0

/-- A staged key record without its key. -/
def Staged.wipe : Staged → Staged
  | .key slot record g parent modes => .key slot { record with key := 0 } g parent modes
  | x => x

/-- What zeroization destroys: Pans and key IDs, the seal and the store record, every key slot, SA contexts with their
generations kept, the channel table, the on-die memories, the DRBG, the owner's vigil program, the PIN record and the
held fill blob. -/
def Chip.zeroizeClear (c : Chip) : Chip :=
  let c := (c.modPan fun p => { p with reqs := [], caches := [], stopped := true }).sealForget
  let c := c.modPrs fun p => { p with jobs := [], jobOn := false }
  let c := (c.dropAll 0x91 fun _ => true).modPath fun p => { p with
    frames := p.frames.filterMap fun e => e.2.bind fun f => if f.coming then some (e.1, some f.tail) else none }
  let c := (c.eraseSeal).freeSlots
  let c := c.modOrd fun o => { o with
    staged := o.staged.map Staged.wipe, stagedKsq := o.stagedKsq.map Staged.wipe, cmacOut := none }
  let c := (c.modBuf fun b => { b with states := [], keys := [], die := [] }).setF F.MEM_STAT_no_keys [] 1
  let c := c.modSax fun a => { a with
    channels := [], closes := [],
    sas := (a.sas.map fun p => (p.1, ({ generation := p.2.generation } : Sa))).filter fun p => p.2 ≠ ({} : Sa) }
  let c := (c.memClear 0 0x30000000).entClear
  let c := c.modEng fun e => { e with
    ctx := e.ctx.filter (·.1 = 1027), frames := [], ksq := [],
    targets := SMap.set (fun _ => {}) (e.targets.map fun t => (t.1, { t.2 with copy := none })) 9 {} }
  let c := (c.laForget.waitsForget).ingotsForget
  let c : Chip := { c with cnt := { c.cnt with space1 := [], lost1 := [] } }
  c.modPnl fun p => { p with pin := none, held := none }

/-- Zeroization starts, with its cause; one is in progress at most. `own` says that the running block's own order
started it. -/
def Chip.zeroizeStart (c : Chip) (cause : Nat) (own : Bool) : Chip :=
  if c.ctl.zeroizing.isSome then c
  else
    let c := c.dropPending
    let c := c.modCtl fun k => { k with zeroizing := some (cause, c.nowUs) }
    let c := if own then c
      else
        let c := (c.randDrop RandReq.isOrder).discardBlock
        c.modEng fun e => { e with ksq := [], ctx := e.ctx.filter fun p => p.1 < 1024 || p.1 = 1027 }
    c.laMode.zeroizeClear

/-- R147, R572: what the zeroization of an OWNER_TRANSFER makes way for: the next slot is programmed, and the order ends. It is
its block's last: what stood behind it is zeroized with the local memory (DESIGN CHOICE, log entry 55). -/
def Chip.transferEnd (c : Chip) : Chip :=
  match c.ctl.transfer with
  | none => c
  | some h =>
    let c := c.modCtl fun k => { k with transfer := none }
    let c := c.when c.nextOwner.isSome fun c => c.programOwner (c.nextOwner.getD 0) h
    c.when (c.ord.wait = .transfer) fun c =>
      if c.ord.busy then c.blockDone 0 0 0xFFFF c.ord.lastRet else c.finishOrder {}

/-- Zeroization ends: ERASED, with its event; a forced purge then grants D3 (R377). One made in WAKE leaves the start to end in ERASED (R396). -/
def Chip.zeroizeEnd (c : Chip) : Chip :=
  match c.ctl.zeroizing with
  | none => c
  | some (cause, from') =>
    let c := c.laMode.zeroizeClear
    let c := c.modCtl fun k => { k with zeroizing := none, heldLockdown := none }
    let c := c.when (!c.inMode [.erased, .wake]) fun c => c.enterMode .erased cause
    let c := (c.raise Ev.ZEROIZED 0x04F [(4, cause), (8, c.nowUs - from')]).transferEnd
    c.when (cause = 6) fun c => (c.raise Ev.DBG_PURGE 0x002).dbgGrant 3

/-! ### Responses and alarms (R433 to R435, R441, R450) -/

/-- The modes from which LOCKDOWN is entered (Table 14.3). -/
def lockdownFrom : List Mode := [.sealed, .provision, .active, .standby, .drain, .rest, .maintenance]

/-- R434, R435: a configured response to a source is executed; the answer is the response executed, 0 when it is only
recorded or held (R396). -/
def Chip.respond (c : Chip) (resp source : Nat) : Nat × Chip :=
  let say := fun (c : Chip) => (c.setF F.FLT_LAST_resp [] resp).setF F.FLT_LAST_source [] source
  if c.ctl.zeroizing.isSome || !c.powered then (0, c)
  else if resp = 4 then (4, (say c).zeroizeStart 4 false)
  else if resp = 3 then
    if c.inMode [.wake] then (0, c.modCtl fun k => { k with heldLockdown := some source })
    else if c.inMode lockdownFrom then (3, (say c).enterMode .lockdown 4)
    else (0, c)
  else if c.inMode [.lockdown, .erased] then (0, c)
  else (0, say c)

/-- The response configured for an alarm source. -/
def Chip.alarmResp (c : Chip) (b : Nat) : Nat :=
  (([F.TMP_RESP0_resp0, F.TMP_RESP0_resp1, F.TMP_RESP0_resp2, F.TMP_RESP0_resp3, F.TMP_RESP0_resp4,
    F.TMP_RESP0_resp5, F.TMP_RESP0_resp6, F.TMP_RESP0_resp7, F.TMP_RESP1_resp8, F.TMP_RESP1_resp9,
    F.TMP_RESP1_resp10, F.TMP_RESP1_resp11, F.TMP_RESP1_resp12, F.TMP_RESP1_resp13][b]?).map
      fun f => c.getF f []).getD 0

/-- The condition of an alarm source holds (TMP_CAUSE). -/
def Chip.causeSet (c : Chip) (b : Nat) : Bool := bit c.flt.cause b

/-- R444, R450: the condition of a source is watched: every one while main power is present, those of the always-on domain
in VIGIL. -/
def Chip.watched (c : Chip) (b : Nat) : Bool :=
  c.powered || (c.inMode [.vigil] && [0, 1, 2, 3, 6, 9, 10, 12].contains b)

/-- R450: the alarm latches in the always-on domain, and a vigil run starts. -/
def Chip.latches (c : Chip) (b : Nat) : Bool := !c.powered || b = 0 || c.alarmResp b = 4

/-- R435: of the responses to what reaches the mode controller at one time, each with its source, the strongest is executed, that of
the lowest source where two are equal; the answer is the response executed. -/
def Chip.answerAll (c : Chip) (l : List (Nat × Nat)) : Nat × Chip :=
  match l.foldl (fun (m : Option (Nat × Nat)) x => match m with
      | some y => if y.1 < x.1 then some x else some y
      | none => some x) none with
  | some (resp, source) => c.respond resp source
  | none => (0, c)

/-- The condition of source `b` would rise now. -/
def Chip.rises (c : Chip) (b : Nat) : Bool := !c.causeSet b && c.watched b

/-- R441, R450: a condition has risen: its cause and its flag are set, and it latches. A breach of the lid mesh erases the seal
in hardware (R346). -/
def Chip.alarmLatch (c : Chip) (b : Nat) : Chip :=
  let c := (c.modFlt fun f => { f with cause := f.cause + 2 ^ b }).setFlag b
  let c := c.when (b = 0) Chip.eraseSeal
  c.when (c.latches b) fun c => c.modEng fun e => { e with vigilPend := e.vigilPend ||| 2 ^ b }

/-- The event of an alarm, with the response configured and the response executed. -/
def Chip.alarmSay (c : Chip) (done b : Nat) : Chip := c.raise Ev.ALARM (0x080 + b) [(4, c.alarmResp b), (4, done)]

/-- R441, R435: the conditions of alarm sources rise at one time, in rising order, with one response. -/
def Chip.alarms (c : Chip) (l : List Nat) : Chip :=
  let l := l.filter c.rises
  let c := c.each l Chip.alarmLatch
  if c.powered then
    let (done, c) := c.answerAll (l.map fun b => (c.alarmResp b, 0x080 + b))
    c.each l fun c b => c.alarmSay done b
  else c

/-- R441: the condition of an alarm source rises. -/
def Chip.alarm (c : Chip) (b : Nat) : Chip := c.alarms [b]

/-- The condition of an alarm source ends; its flag stays. -/
def Chip.causeClear (c : Chip) (b : Nat) : Chip :=
  if c.causeSet b then c.modFlt fun f => { f with cause := f.cause - 2 ^ b } else c

end Sys2Proof.Machine
end

