-- ==== Sys2Proof/Machine/PanCore.lean ====
section
/-! DEFINITION. Chapter 04: the Pans in service, the dispatch of requests, opening Pans, and retirement. -/
namespace Sys2Proof.Machine

/-! ### Pans and their states (R94, R100, R101) -/

def Chip.panState (c : Chip) (j : Nat) : Nat := c.getF F.PAN_STAT_state [j]

/-- The Pans of a quadrant. -/
def quadPans (q : Nat) : List Nat := (List.range 6).map (q * 6 + ·)

/-- The Pans of a quadrant that are in service. -/
def Chip.serving (c : Chip) (q : Nat) : List Nat := (quadPans q).filter fun j => c.panState j = 0

def Chip.panReq (c : Chip) (r : Nat) : Option PanReq := SMap.get (fun _ => none) c.pan.reqs r

def Chip.setPanReq (c : Chip) (r : Nat) (v : Option PanReq) : Chip :=
  c.modPan fun p => { p with reqs := SMap.set (fun _ => none) p.reqs r v }

/-- The open requests of a Pan, oldest first. -/
def Chip.requestsOn (c : Chip) (j : Nat) : List (Nat × PanReq) :=
  c.pan.reqs.filterMap fun e => e.2.bind fun r => if r.pan = j && !r.served then some (e.1, r) else none

/-- The blocks queued on a Pan. -/
def Chip.panBlocks (c : Chip) (j : Nat) : Nat := (c.requestsOn j).foldl (fun n e => n + e.2.blocks) 0

/-- A Pan takes another request: 16 in work and 32 in its queue (R94). -/
def Chip.panRoom (c : Chip) (j : Nat) : Bool := (c.requestsOn j).length < 48

/-- The Pan of a list with the fewest blocks; a tie goes to the lower number. -/
def Chip.leastPan (c : Chip) (l : List Nat) : Option Nat :=
  l.foldl (fun best j => match best with
    | none => some j
    | some k => if c.panBlocks j < c.panBlocks k then some j else some k) none

/-- R18, R100: the Pan for a request of a quadrant, one Pan excluded: of its own quadrant; while fewer than 5 are in
service there and none has room, of the quadrant with the most in service. DESIGN CHOICE (log entry 48): R18 lets a
request cross while fewer than 5 are in service and does not say when it does; the model crosses only when no Pan of
the own quadrant has room. -/
def Chip.choosePan (c : Chip) (q not' : Nat) : Option Nat :=
  let own := (c.serving q).filter fun j => j ≠ not' && c.panRoom j
  match c.leastPan own with
  | some j => some j
  | none =>
    if 5 ≤ (c.serving q).length then none
    else
      let free := fun k => (c.serving k).filter fun j => j ≠ not' && c.panRoom j
      let others := (List.range 4).filter fun k => k ≠ q && !(free k).isEmpty
      let best := others.foldl (fun b k => match b with
        | none => some k
        | some i => if (c.serving i).length < (c.serving k).length then some k else some i) (none : Option Nat)
      best.bind fun k => c.leastPan (free k)

/-- The Pan for a look-aside request: of the whole part. -/
def Chip.chooseAny (c : Chip) (not' : Nat) : Option Nat :=
  c.leastPan ((List.range 24).filter fun j => c.panState j = 0 && j ≠ not' && c.panRoom j)

/-- The opening Pan of a line port (R101). -/
def Chip.opener (c : Chip) (line : Nat) : Option Nat :=
  let j := c.getF (if line % 2 = 0 then F.PAN_Q_STAT_opener0 else F.PAN_Q_STAT_opener1) [line / 2]
  if j = 0x1F then none else some j

/-- The quadrant of an Ethernet port, whose Ladles take its frames. -/
def quadrantOf (p : Nat) : Nat := p % 8 / 2

/-- The quadrant that issues a request: for a KSTREAM, or a SEAL for a line port, that of the port; for another SEAL
that of the frame's Ladle (R18); 0 for a CMAC. -/
def Chip.quadOf (c : Chip) (r : PanReq) : Nat :=
  match r.kind with
  | .sealing => match c.frame r.subject with
    | some f => if isLine f.outPort then (f.outPort - 8) / 2 else quadrantOf f.entry
    | none => 0
  | .kstream => r.subject / 8
  | _ => 0

/-- The Pan a request goes to, one Pan excluded. -/
def Chip.panFor (c : Chip) (r : PanReq) (not' : Nat) : Option Nat :=
  match r.kind with
  | .laEnc | .laDec => c.chooseAny not'
  | .opening => match c.frame r.subject with
    | some f => (c.opener (f.entry - 8)).filter c.panRoom
    | none => none
  | _ => c.choosePan (c.quadOf r) not'

/-- The keys in a Pan's cache. -/
def Chip.cached (c : Chip) (j : Nat) : List CachedKey := SMap.get (fun _ => []) c.pan.caches j

def Chip.setCached (c : Chip) (j : Nat) (l : List CachedKey) : Chip :=
  c.modPan fun p => { p with caches := SMap.set (fun _ => []) p.caches j l }

/-- R105: a Pan's key cache after a use of (slot, generation): 64 entries, most recent first. A key that is not there is
fetched from its slot; a transient key has no slot (its number is 131,072), and neither it nor the copy that a request
still holds of a key no longer in its slot is cached. -/
def Chip.cacheUse (c : Chip) (j slot gen : Nat) : Chip :=
  let l := c.cached j
  let s := c.slot slot
  let hit := l.find? fun e => e.slot = slot && e.gen = gen
  let fetched := if slot < 131072 && s.generation = gen && s.state = 1
    then some (⟨slot, gen, s.klen, s.key, Config.aesBlock s.klen s.key 0⟩ : CachedKey) else none
  match hit.or fetched with
  | none => c
  | some e => c.setCached j ((e :: l.filter fun e => !(e.slot = slot && e.gen = gen)).take 64)

/-- R113: an entry with bad parity is invalidated, and fetched again at its next use. -/
def Chip.cacheDrop (c : Chip) (j slot gen : Nat) : Chip :=
  c.setCached j ((c.cached j).filter fun e => !(e.slot = slot && e.gen = gen))

/-- A request is admitted and dispatched; the dispatcher holds it where no Pan has room. -/
def Chip.panAdmit (c : Chip) (kind : ReqKind) (slot gen subject seq blocks : Nat) : Chip :=
  let r : PanReq := { kind := kind, pan := 24, slot := slot, gen := gen, subject := subject, seq := seq, blocks := blocks }
  let j := (c.panFor r 24).getD 24
  let n := c.path.reqNext
  let c := c.modPath fun p => { p with reqNext := n + 1 }
  let c := c.setPanReq n (some { r with pan := j })
  let c := c.when (j < 24 && (kind = .sealing || kind = .kstream || kind = .cmac) && j / 6 ≠ c.quadOf r)
    fun c => c.perfQuad (c.quadOf r) 0x11
  c.when (j < 24) fun c => c.cacheUse j slot gen

/-- The admitted request of a subject. -/
def Chip.findReq (c : Chip) (p : PanReq → Bool) : Option (Nat × PanReq) :=
  c.pan.reqs.findSome? fun e => e.2.bind fun r => if p r then some (e.1, r) else none

def ReqKind.lookAside : ReqKind → Bool
  | .laEnc | .laDec => true
  | _ => false

/-- R99: the priority level at which its Pan serves a request. -/
def Chip.panLevel (c : Chip) (r : PanReq) : Nat :=
  match r.kind with
  | .opening => if c.getF F.PAN_STAT_opens [r.pan] ≠ 0 then 1 else 3
  | .kstream => 2
  | .sealing => 3
  | .cmac => 4
  | .laEnc | .laDec => 5

/-- The requests a Pan works on: its 16 oldest (R94). -/
def Chip.working (c : Chip) (j : Nat) : List (Nat × PanReq) := (c.requestsOn j).take 16

/-- A request that nothing its Pan does can complete yet, so that it holds nobody up: an OPEN whose frame still streams in or
whose verdict waits for that of an earlier frame, and a keystream behind an earlier slot's (R112). -/
def Chip.panWaits (c : Chip) (n : Nat) (r : PanReq) : Bool :=
  match r.kind with
  | .opening => match c.frame r.subject with
    | some f => f.coming || c.openBefore r.subject f
    | none => false
  | .kstream => c.pan.reqs.any fun e => e.1 < n && e.2.any fun q => q.kind = .kstream && q.subject = r.subject
  | _ => false

/-- R99: a request can complete: its Pan works on it, and has served every request it works on of a higher level, and the
older ones of its own. -/
def Chip.panTurn (c : Chip) (n : Nat) (r : PanReq) : Bool :=
  let open' := c.working r.pan
  let older := fun (e : Nat × PanReq) => c.panLevel e.2 < c.panLevel r || (c.panLevel e.2 = c.panLevel r && e.1 < n)
  r.pan < 24 && open'.any (·.1 = n) && open'.all fun e => e.1 = n || c.panWaits e.1 e.2 || !older e

/-- R99, R112: a Pan serves its look-aside requests oldest first, while the traffic it works on leaves it; the served ones wait
for their rings' order. The block once `n` is served, or none while its turn has not come. -/
def Chip.laServe (c : Chip) (n : Nat) (r : PanReq) : Option Chip :=
  if r.served then some c
  else
    let before := (c.requestsOn r.pan).filter fun e => e.2.kind.lookAside && e.1 < n
    let d := c.each before fun c e => c.setPanReq e.1 (some { e.2 with served := true })
    if d.panTurn n r then some d else none

/-- The first request of a kind whose turn it is. -/
def Chip.turnOf (c : Chip) (p : PanReq → Bool) : Option (Nat × PanReq) :=
  c.pan.reqs.findSome? fun e => e.2.bind fun r => if p r && c.panTurn e.1 r then some (e.1, r) else none

/-- Requests that the dispatcher holds go to Pans that have room: traffic before look-aside (R20), oldest first. A
replayed request does not return to the Pan that found its error (R114). -/
def Chip.redispatch (c : Chip) : Chip :=
  let held := c.requestsOn 24
  c.each (held.filter (fun e => !e.2.kind.lookAside) ++ held.filter fun e => e.2.kind.lookAside) fun c e =>
    match c.panFor e.2 e.2.avoid with
    | some j => (c.setPanReq e.1 (some { e.2 with pan := j })).cacheUse j e.2.slot e.2.gen
    | none => c

/-- A request leaves its Pan. -/
def Chip.panDone (c : Chip) (r : Nat) : Chip := (c.setPanReq r none).redispatch

/-! ### The jobs of key sequencer engine 1 (R98, R332) -/

/-- The CMAC requests of a link job under the key of its slot: one block of the fixed label, or two for each session key. -/
def Chip.jobRequests (c : Chip) (slot gen n blocks : Nat) : Chip :=
  c.each (List.range n) fun c i => c.panAdmit .cmac slot gen 1 i blocks

/-- The first job of key sequencer engine 1 has its requests admitted, unless the Pans are stopped. -/
def Chip.jobKick (c : Chip) : Chip :=
  if c.prs.jobOn || c.pan.stopped then c
  else
    let on := fun (c : Chip) => c.modPrs fun p => { p with jobOn := true }
    match c.prs.jobs.head? with
    | none => c
    | some .void => on c
    | some (.hello _ slot _) => on (c.jobRequests slot (c.slot slot).generation 1 2)
    | some (.session _ slot gen _ _ _) => on (c.jobRequests slot gen 4 4)

/-- A job joins those of key sequencer engine 1. -/
def Chip.jobAdd (c : Chip) (j : LinkJob) : Chip := (c.modPrs fun p => { p with jobs := p.jobs ++ [j] }).jobKick

/-! ### Service, openers and spares (R101, R117) -/

/-- R101: a line port without an opening Pan is taken down, with one event, until a reset that clears PAN. -/
def Chip.noOpener (c : Chip) (line : Nat) : Chip :=
  if c.pan.downPorts.contains line then c
  else
    let c := c.modPan fun p => { p with downPorts := p.downPorts ++ [line] }
    let c := c.each (List.range 4) fun c b => c.portDown (8 + line) b 0
    c.raise Ev.PAN_NO_OPENER (0x408 + line)

/-- R101: a quadrant's status, and the assignment of its opening Pans, after a Pan has entered or left service. -/
def Chip.assignOpeners (c : Chip) (q : Nat) : Chip :=
  let l := c.serving q
  let a := l[0]?
  let b := l[1]?
  let spare := (quadPans q).filter fun j => c.panState j = 1
  let c := (((c.setF F.PAN_Q_STAT_in_service [q] l.length).setF F.PAN_Q_STAT_spares [q] spare.length).setF
    F.PAN_Q_STAT_opener0 [q] (a.getD 0x1F)).setF F.PAN_Q_STAT_opener1 [q] (b.getD 0x1F)
  let c := c.each (quadPans q) fun c j =>
    c.setF F.PAN_STAT_opens [j] (if some j = a then 1 else if some j = b then 2 else 0)
  let c := c.when a.isNone fun c => c.noOpener (2 * q)
  (c.when b.isNone fun c => c.noOpener (2 * q + 1)).redispatch

/-- A Pan's state changes. -/
def Chip.setPan (c : Chip) (j state : Nat) : Chip := (c.setF F.PAN_STAT_state [j] state).assignOpeners (j / 6)

/-- The state to which a Pan under test returns: in service or spare. -/
def Chip.panHome (c : Chip) (j : Nat) : Nat :=
  if c.panState j = 2 then SMap.get (fun _ => 0) c.pan.katFrom j else c.panState j

/-- R116: a Pan in service or spare leaves dispatch for a known-answer test. -/
def Chip.panTest (c : Chip) (j : Nat) : Chip :=
  let s := c.panState j
  if s = 0 || s = 1 then
    (c.modPan fun p => { p with katFrom := SMap.set (fun _ => 0) p.katFrom j s }).setPan j 2
  else c

/-! ### Look-aside requests and replays (R114, R115) -/

def Chip.laReq (c : Chip) (n : Nat) : Option LaReq := SMap.get (fun _ => none) c.path.la n

def Chip.setLa (c : Chip) (n : Nat) (r : Option LaReq) : Chip :=
  c.modPath fun p => { p with la := SMap.set (fun _ => none) p.la n r }

/-- An operation on a request that exists. -/
def Chip.onLa (c : Chip) (n : Nat) (f : LaReq → Chip → Chip) : Chip :=
  match c.laReq n with
  | some r => f r c
  | none => c

/-- R115: the third replay of a request has failed too. A slot whose keystream never comes is found by its ready test
(R82). -/
def Chip.replayFail (c : Chip) (k : Nat) (r : PanReq) : Chip :=
  let c := (c.raise Ev.PAN_REPLAY_FAIL (0x200 + r.pan)).panDone k
  match r.kind with
  | .sealing | .opening => c.dropFrame r.subject 0x95
  | .laEnc | .laDec => c.onLa r.subject fun q c => c.setLa r.subject (some { q with status := some 0x11 })
  | .kstream => c
  | .cmac => c.modEng fun e =>
    let x : KsqCtx := SMap.get (fun _ => {}) e.ksq r.subject
    { e with ksq := SMap.set (fun _ => {}) e.ksq r.subject { x with cmacFail := true } }

/-- R117: the requests of a retired Pan return to the dispatcher under their own numbers, ahead of newer ones; those it
was executing count as replays, and one that has been replayed 3 times ends (R115). Its OPENs finish on it (R101). -/
def Chip.moveRequests (c : Chip) (j : Nat) : Chip :=
  let move := fun (l : List (Nat × PanReq)) => l.filter fun e => e.2.kind ≠ .opening
  let (ended, again) := (move (c.working j)).partition fun e => 3 ≤ e.2.replays
  let c := c.each (move ((c.requestsOn j).drop 16)) fun c e => c.setPanReq e.1 (some { e.2 with pan := 24 })
  let c := c.each again fun c e =>
    (c.bump F.PAN_REPLAY_CNT_count [j]).setPanReq e.1
      (some { e.2 with pan := 24, replays := e.2.replays + 1, avoid := j })
  c.each ended fun c e => c.replayFail e.1 e.2

/-- R117: the spare of a quadrant that takes a retired Pan's place: one whose last test passed, one in dispatch before
one under test. -/
def Chip.spareFor (c : Chip) (q : Nat) : Option Nat :=
  let passed := (quadPans q).filter fun k => SMap.get (fun _ => true) c.pan.tested k
  (passed.find? fun k => c.panState k = 1).or (passed.find? fun k => c.panState k = 2 && c.panHome k = 1)

/-- R117: a Pan is retired; a spare of its quadrant whose last test passed takes its place, one that is under test once
that test passes (log entry 48). -/
def Chip.panRetire (c : Chip) (j : Nat) : Chip :=
  if c.panState j = 3 || 24 ≤ j then c
  else
    let wasSpare := c.panHome j = 1
    let c := (c.setF F.PAN_STAT_state [j] 3).setF F.PAN_CTL_kat [j] 0
    let spare := if wasSpare then none else c.spareFor (j / 6)
    let c := match spare with
      | some k =>
        if c.panState k = 1 then c.setF F.PAN_STAT_state [k] 0
        else c.modPan fun p => { p with katFrom := SMap.set (fun _ => 0) p.katFrom k 0 }
      | none => c
    let c := (c.moveRequests j).assignOpeners (j / 6)
    let c := c.modFlt fun f =>
      let x : FaultChan := SMap.get (fun _ => {}) f.chans (2 * 65536 + j)
      { f with chans := SMap.set (fun _ => {}) f.chans (2 * 65536 + j) ({ x with retired := true } : FaultChan) }
    let c := c.raise Ev.PAN_RETIRED (0x200 + j) [(4, spare.getD 0x1F)]
    let left := (quadPans (j / 6)).any fun k => c.panHome k = 1 && c.panState k ≠ 3
    c.when (!left) fun c => c.raise Ev.PAN_NO_SPARE (0x200 + j)

/-! ### Stops (R118) -/

/-- R118: the stop line of a LOCKDOWN, or of a mode outside the traffic modes, reaches CK_CORE. -/
def Chip.stopLine (c : Chip) : Chip :=
  if c.inMode [.sealed, .provision, .rest, .maintenance, .lockdown, .erased] then
    c.modPan fun p => { p with stopped := true }
  else c

def execStopLine := lift Chip.stopLine

/-- R118: the last admitted request has completed; every key cache is cleared. In PROVISION and MAINTENANCE, whose
requests a Pan serves (Table 14.1), the dispatcher then admits again (DESIGN CHOICE, log entry 48), but not while a
zeroization runs (R119). -/
def Chip.cacheClear (c : Chip) : Chip :=
  if c.pan.stopped && (c.pan.reqs.all fun e => e.2.isNone) then
    c.modPan fun p => { p with caches := [], stopped := c.ctl.zeroizing.isSome || !c.inMode [.provision, .maintenance] }
  else c

def execPanCacheClear := lift Chip.cacheClear

/-- R116: the periodic test of a Pan that is idle. -/
def Chip.panIdleTest (c : Chip) (j : Nat) : Chip := c.when (c.requestsOn j).isEmpty fun c => c.panTest j

def execPanPeriodicKat (pan : Fin 24) := lift fun c => c.panIdleTest pan.val

end Sys2Proof.Machine
end

