-- ==== Sys2Proof/Machine/Faults.lean ====
section
/-! DEFINITION. Chapter 17: fault classes and channels, table errors, alarms and their monitors, and the clearing of
sticky flags. -/
namespace Sys2Proof.Machine

/-! ### Channels and classes (R436, R437, R439) -/

/-- The channels of a class (Table 17.2); those of class 1 have the lane numbers 64 to 75 (R533). -/
def classChannels (cls : Nat) : List Nat :=
  if cls = 1 then (List.range 12).map (64 + ·) else List.range ([64, 0, 24, 256, 64, 1, 2, 1, 1, 1].getD cls 0)

/-- The permanent response of a class: RETIRE or LOCKDOWN. -/
def classResponse (cls : Nat) : Nat := if cls < 5 then 2 else 3

def Chip.faultChan (c : Chip) (cls ch : Nat) : FaultChan := SMap.get (fun _ => {}) c.flt.chans (cls * 65536 + ch)

def Chip.setFaultChan (c : Chip) (cls ch : Nat) (x : FaultChan) : Chip :=
  c.modFlt fun f => { f with chans := SMap.set (fun _ => {}) f.chans (cls * 65536 + ch) x }

def Chip.faultClass (c : Chip) (cls : Nat) : FaultClass := SMap.get (fun _ => {}) c.flt.classes cls

def Chip.setFaultClass (c : Chip) (cls : Nat) (x : FaultClass) : Chip :=
  c.modFlt fun f => { f with classes := SMap.set (fun _ => {}) f.classes cls x }

/-- The channels of a class that are retired. -/
def Chip.retiredChannels (c : Chip) (cls : Nat) : List Nat :=
  (classChannels cls).filter fun ch => (c.faultChan cls ch).retired

/-- A sub-port goes down for a cause whose code the spec does not give (log entry 3). -/
def Chip.portDownOpen (c : Chip) (p b : Nat) : Chip :=
  let (n, c) := c.draw
  c.portDown p b (Config.freeNat n % 2 ^ 32)

/-- R285: a retired pseudo-channel leaves the data region. Every buffer in it is released as by MEM_KEY_RETIRE: its frame is
dropped as POISONED when it is next read, its request completes as POISONED. -/
def Chip.pcRetire (c : Chip) (pc : Nat) : Chip :=
  let f := if pc < 32 then F.MEM_PC_RET_LO_retired else F.MEM_PC_RET_HI_retired
  let c := c.setF f [] (c.getF f [] ||| 2 ^ (pc % 32))
  let gone := fun (l : List Nat) => l.any fun i => (Config.lineChannel i).toNat = pc
  let c := c.each (c.frameList.filter fun x => gone x.2.lines) fun c x =>
    c.setFrame x.1 (some x.2.release)
  c.modPath fun p => { p with
    la := p.la.map fun e => (e.1, e.2.map fun r =>
      if gone r.lines && r.status.isNone then { r with status := some 0xF, waitsRandom := false, lines := [] } else r) }

/-- What the retirement of a channel does (Table 17.2). -/
def Chip.retireEffect (c : Chip) (cls ch : Nat) : Chip :=
  match cls with
  | 0 => c.portDownOpen (ch / 4) (c.laneSub (ch / 4) (ch % 4))
  | 2 => c.panRetire ch
  | 3 =>
    let c := c.setF F.LAD_STAT_in_service [ch / 64, ch % 64] 0
    c.setF F.LAD_Q_STAT_in_service [ch / 64] (c.getF F.LAD_Q_STAT_in_service [ch / 64] - 1)
  | 4 => c.pcRetire ch
  | _ => c

/-- R437, R435: a fault is permanent: its class's response, with its case (0 retries, 1 rate, 2 escalation). While zeroization is
in progress it is recorded and does nothing more. `also` are the alarm sources that rise with it. -/
def Chip.permanentWith (c : Chip) (cls ch case' resp : Nat) (also : List Nat) : Chip :=
  if (c.faultChan cls ch).retired then c.alarms also
  else
    let c := c.setF F.FLT_STAT_perm [] 1
    let source := 0x040 + cls
    let say := fun (c : Chip) (done : Nat) =>
      c.raise Ev.FLT_PERMANENT source [(4, cls), (4, ch), (4, case'), (4, resp), (4, done)]
    if resp = 2 then
      if c.ctl.zeroizing.isSome then (say c 0).alarms also
      else
        let c := c.setFaultChan cls ch { c.faultChan cls ch with retired := true }
        let c := say ((c.setF F.FLT_LAST_resp [] 2).setF F.FLT_LAST_source [] source) 2
        (c.retireEffect cls ch).alarms also
    else
      let l := also.filter c.rises
      let c := c.each l Chip.alarmLatch
      let (done, c) := c.answerAll ((3, source) :: l.map fun b => (c.alarmResp b, 0x080 + b))
      c |> (say · done) |>.each l fun c b => c.alarmSay done b

/-- R437: a fault is permanent. -/
def Chip.permanent (c : Chip) (cls ch case' resp : Nat) : Chip := c.permanentWith cls ch case' resp []

/-- R439: an escalation, one step from the response in progress: RETRY retires the channel, RETIRE gives LOCKDOWN. The answer is the
case of the permanence and its response. -/
def Chip.escalate (c : Chip) (cls : Nat) : (Nat × Nat) × Chip :=
  let c := ((c.setF F.FLT_STAT_escalated [] 1).setF F.FLT_CLASS_STAT_escalated [cls] 1).raise Ev.FLT_ESCALATE 0x04F
  let retiring := match (c.faultClass cls).current with
    | some k => (c.faultChan cls k).retired
    | none => false
  ((2, if retiring then 3 else 2), c)

/-- A transient error is counted against its channel's rate: the instants of the last 1,000 ms. -/
def Chip.rateCount (c : Chip) (cls ch : Nat) : Nat × Chip :=
  let now := c.now / 1000000
  let x := c.faultChan cls ch
  let times := (x.times.filter fun t => now < t + 1000) ++ [now]
  (times.length, c.setFaultChan cls ch { x with times := times })

/-- R437 to R440: a transient error of a channel reaches CK_SAFE, with the block's own code: what it makes permanent, as its case and
response, if anything. `used` says that the channel is a resource of the recovery in progress, as the lane being retrained is. -/
def Chip.transientJudge (c : Chip) (cls ch code : Nat) (used : Bool) : Option (Nat × Nat) × Chip :=
  if !(classChannels cls).contains ch then (none, c)
  else
    let c := c.bump F.FLT_CLASS_CNT_count [cls]
    if (c.faultChan cls ch).retired then (none, c)
    else
      let c := if cls = 8 then c.raise Ev.IIC_MISMATCH 0x048
        else c.raise Ev.FLT_TRANSIENT (0x040 + cls) [(4, cls), (4, ch), (4, code)]
      let (n, c) := c.rateCount cls ch
      if c.getF F.FLT_CFG_perm_rate [] < n then (some (1, classResponse cls), c)
      else if cls = 5 || cls = 9 then (none, c)
      else
        let k := c.faultClass cls
        if used || (cls < 2 && k.current = some ch) then (c.escalate cls).map some id
        else if k.current.isNone then (none, c.setFaultClass cls { k with current := some ch })
        else if k.waiting.length < 4 then (none, c.setFaultClass cls { k with waiting := k.waiting ++ [ch] })
        else (c.escalate cls).map some id

/-- A transient error, and what it makes permanent. -/
def Chip.transient (c : Chip) (cls ch code : Nat) (used : Bool) : Chip :=
  match c.transientJudge cls ch code used with
  | (none, c) => c
  | (some (case', resp), c) => c.permanent cls ch case' resp

/-- R439: the handler of a class ends a recovery and takes the next error that waits. A retry that fails is repeated,
and the third failure in a row is permanent (R437). -/
def Chip.recoveryDone (c : Chip) (cls : Nat) (ok : Bool) : Chip :=
  let k := c.faultClass cls
  match k.current with
  | none => c
  | some ch =>
    let x := c.faultChan cls ch
    let fails := if ok then 0 else x.fails + 1
    let again := !ok && fails < 3 && !x.retired
    let c := c.setFaultChan cls ch { x with fails := if again then fails else 0 }
    if again then c
    else
      let c := c.when (!ok && !x.retired) fun c => c.permanent cls ch 0 (classResponse cls)
      let live := (c.faultClass cls).waiting.filter fun h => !(c.faultChan cls h).retired
      c.setFaultClass cls { current := live.head?, waiting := live.tail }

def execFaultRecoveryDone (cls : Fin 10) (ok : Bool) := lift fun c => c.recoveryDone cls.val ok

/-! ### Errors of the buffer (Table 11.6, R285) -/

/-- A data line's tag does not match. A re-read was good, or the line is marked poisoned and reads return poison. -/
def Chip.tagFail (c : Chip) (pc line : Nat) (good : Bool) : Chip :=
  let c := (c.bump F.MEM_TAG_FAIL_CNT_count []).raise Ev.MEM_TAG_FAIL (0x540 + pc)
  if good then c
  else
    let c := c.setF F.MEM_STAT_tag_fail [] 1
    c.modBuf fun b => { b with
      lines := SMap.set (fun _ => none) b.lines line
        ((SMap.get (fun _ => none) b.lines line).map fun x => { x with poisoned := true }) }

/-- A tree node of a pseudo-channel fails (R284); one that finds the poison map full makes the fault permanent (R285). -/
def Chip.nodeFail (c : Chip) (pc level node : Nat) : Chip :=
  (c.nodeBad level node).when (4096 ≤ c.buf.poison.length) fun c => c.permanent 4 pc 0 2

/-- An error of class 4 does what Table 11.6 states for it: code 0 a tag mismatch of the data line in bits 35 to 0 of `detail`,
bit 63 saying that a re-read was good; 1 a tree node whose level is in bits 3 to 0 and whose number above them, level 6 being
a root counter, which counts as a node of level 5; 2 a corrected bit; others training errors. -/
def Chip.bufferError (c : Chip) (pc code : Nat) (detail : DWord) : Chip :=
  match code with
  | 0 => c.tagFail pc (bits detail.toNat 35 0) (bit detail.toNat 63)
  | 1 => c.nodeFail pc (min 5 (detail.toNat % 16)) (detail.toNat / 16)
  | 2 => c.bump F.MEM_ECC_CNT_count []
  | _ => c

/-- FAULT_REPORT. The errors of a retired pseudo-channel act on nothing (R437). A bit that the buffer corrects is counted and no transient error (Table 11.6). -/
def execFaultReport (cls : Fin 10) (channel : BitVec 16) (code : Word) (detail : DWord) (used : Bool) :=
  lift fun c =>
    let c := c.when (cls.val = 4 && channel.toNat < 64 && !(c.faultChan 4 channel.toNat).retired) fun c => c.bufferError channel.toNat code.toNat detail
    c.when (cls.val ≠ 4 || code ≠ 2) fun c => c.transient cls.val channel.toNat code.toNat used

/-! ### Table SRAM (R438) -/

/-- R438: an SA context whose entry fails: a transmit SA is set stopped and its next PN is no longer known; a receive SA
retires without an event. -/
def Chip.saEcc (c : Chip) (i : Nat) : Chip :=
  let s := c.sa i
  if s.state ≠ 1 then c
  else if s.dir then c.retireSa i
  else
    let (n, c) := c.draw
    (c.setSa i { s with stopped := true, nextPn := Config.freeNat n % 2 ^ 64 }).setF F.SAX_STAT_stopped [] 1

/-- R438: a channel entry that fails. -/
def Chip.channelEcc (c : Chip) (ch : Nat) : Chip :=
  let c := c.each (c.channelSas ch) Chip.saEcc
  let c := c.when (c.chan ch).sched fun c => c.endSchedule ch
  c.setChan ch { c.chan ch with valid := false }

/-- R438: a queue whose entry or shaper entry fails is disabled, and its frames are dropped. -/
def Chip.queueEcc (c : Chip) (q : Nat) : Chip :=
  let c := c.modSlu fun s => { s with cfgs := SMap.set (fun _ => none) s.cfgs q (some { c.queueCfg q with en := false }) }
  c.each (c.queueSt q).frames fun c n => c.dropFrame n 0x88

/-- R438: an uncorrectable error in a table: 0 SA context, 1 channel entry, 2 queue entry, 3 queue shaper entry. -/
def Chip.tableEcc (c : Chip) (table index : Nat) : Chip :=
  let c := match table with
    | 0 => c.saEcc index
    | 1 => c.channelEcc index
    | _ => c.queueEcc index
  let c := (c.setF F.FLT_STAT_tbl_ecc [] 1).raise Ev.TBL_ECC 0x04F [(4, table), (4, index)]
  c.transient 9 0 table false

/-- TABLE_SRAM_ECC. The direct queues have a queue entry each and no shaper (R221, R229). -/
def execTableSramEcc (table : Fin 4) (index : BitVec 16) := lift fun c =>
  if table.val = 0 || index.toNat < 0x8000 || (table.val = 2 && isQueue index.toNat) then c.tableEcc table.val index.toNat else c

/-! ### The fabric's integrity code (R446) -/

/-- R446: a mismatch: a transient error of class 8; more than the limit within 1 ms is alarm source 13, with one response to
both (R435); `last` says that the third repeat of the transfer has failed too. -/
def Chip.iicMismatch (c : Chip) (last : Bool) : Chip :=
  let now := c.nowUs
  let times := (c.flt.iicTimes.filter fun t => now < t + 1000) ++ [now]
  let c := c.modFlt fun f => { f with iicTimes := times }
  let also := if c.getF F.FLT_CFG_iic_lim [] < times.length then [13] else []
  let (due, c) := c.transientJudge 8 0 0 false
  match due.or (if last then some (0, 3) else none) with
  | some (case', resp) => c.permanentWith 8 0 case' resp also
  | none => c.alarms also

/-! ### Alarms and monitors (R441 to R443) -/

/-- The clocks that run in P1 (Table 14.2). -/
def clockInRest : MainClock → Bool
  | .refclk | .pcieRef | .core | .time | .host | .safe => true
  | .ladle | .mem | .lane => false

/-- ALARM_RAISE; the monitors of clk_main watch in P1 only the clocks that run there (R445). -/
def execAlarmRaise (rise : AlarmRise) := lift fun c =>
  if rise.source = 11 && c.inMode [.rest] && !clockInRest rise.clock then c else c.alarm rise.source.val

def execAlarmCauseClear (source : Fin 14) := lift fun c => c.causeClear source.val

/-- R442: a mesh trace opens or shorts: the hardware erases the seal, and the alarm follows. -/
def Chip.meshBreach (c : Chip) : Chip :=
  if c.inMode [.off] then c else (c.eraseSeal).alarm 0

def execMeshBreach := lift Chip.meshBreach

/-- R442: the pattern check, once per second; the register's next pattern is open (log entry 3). A mismatch counts as an
open. -/
def Chip.meshCheck (c : Chip) (good : Bool) : Chip :=
  if c.inMode [.off] then c
  else
    let (n, c) := c.draw
    let c := c.modFlt fun f => { f with meshLfsr := Config.freeBits n 16 }
    if good then c else c.meshBreach

def execMeshPatternCheck (good : Bool) := lift fun c => c.meshCheck good

/-- A signed byte. -/
def sbyte (v : Nat) : Int := signed 8 v

/-- R443: a sample of the two sensors, as their lower and higher reading. Above 85 °C the HBM is refreshed at twice its rate
(R562); the higher reading stands for the stacks, which have no sensor of their own (log entry 59). -/
def Chip.tempSample (c : Chip) (lo hi : Int) : Chip :=
  let limLo := sbyte (c.getF F.TMP_TEMP_CFG_lo [])
  let limHi := sbyte (c.getF F.TMP_TEMP_CFG_hi [])
  let byte := fun (t : Int) => (t % 256).toNat
  let f := c.flt
  let cold := if lo < limLo then f.coldRun + 1 else 0
  let hot := if limHi < hi then f.hotRun + 1 else 0
  let c := c.modFlt fun f => { f with tempLow := lo, tempHigh := hi, coldRun := min 2 cold, hotRun := min 2 hot }
  let c := c.when c.powered fun c =>
    let c := c.modBuf fun b => { b with refreshTwice := 85 < hi }
    let c := c.setF F.TMP_TEMP_now [] (byte lo)
    let c := c.setF F.TMP_TEMP_min [] (byte (min lo (sbyte (c.getF F.TMP_TEMP_min []))))
    c.setF F.TMP_TEMP_max [] (byte (max hi (sbyte (c.getF F.TMP_TEMP_max []))))
  let c := c.alarms ((if 2 ≤ cold then [2] else []) ++ if 2 ≤ hot then [3] else [])
  let c := c.when (limLo + 5 ≤ lo) fun c => c.causeClear 2
  c.when (hi ≤ limHi - 5) fun c => c.causeClear 3

/-- TEMP_SAMPLE: the readings of the two sensors, signed °C. -/
def execTempSample (a b : Byte) := lift fun c =>
  if c.inMode [.off] then c else c.tempSample (min a.toInt b.toInt) (max a.toInt b.toInt)

/-! ### Zeroization (R449) -/

/-- ZEROIZATION: a trigger of R449. ZEROIZE_N also sets flag 14 (R460). An OWNER_TRANSFER or a forced purge is started by its own
order, once that has passed its tests (R147, R377). -/
def execZeroization (trigger : ZeroizeCause) := lift fun c =>
  if c.powered then
    match trigger with
    | .alarm => c.zeroizeStart 4 false
    | .button => (c.setFlag 14).zeroizeStart 5 false
    | .transfer | .purge => c
  else c

def execZeroizationComplete := lift Chip.zeroizeEnd

/-! ### Owner authorisations and TAMPER_CLEAR (R363, R448) -/

/-- A valid authorisation for a flags word, a from-mode and a to-mode. -/
def Chip.authFor (c : Chip) (flags from' to' : Nat) : Bool :=
  match c.ctl.auth with
  | some a => a.flags = flags && a.fromMode = from' && a.toMode = to' && c.now < a.ends
  | none => false

/-- A valid authorisation of an order in the current mode. -/
def Chip.authHere (c : Chip) (flags : Nat) : Bool :=
  c.authFor flags (modeCode c.ctl.mode) (modeCode c.ctl.mode)

/-- The authorisation is consumed. -/
def Chip.spendAuth (c : Chip) : Chip := c.modCtl fun k => { k with auth := none }

/-- R448: TAMPER_CLEAR. -/
def tamperClear (mask note : Word) : OrdFn := inModes [.provision, .maintenance] fun c =>
  if 1 < note.toNat then (c, some (.of 0x53))
  else if !c.authHere 4 then (c, some (.of 0x8B))
  else if mask &&& BitVec.ofNat 32 c.flt.cause ≠ 0 then (c, some (.of 0x8C))
  else
    let before := c.flt.flags
    let c := c.spendAuth
    let c := c.modFlt fun f => { f with flags := before &&& ~~~mask }
    let c := c.when (note = 1) fun c => c.modEng fun e => { e with note := [] }
    (c.raise Ev.TAMPER_CLEARED 0x04F [(4, before.toNat), (4, mask.toNat), (4, note.toNat)], some {})

def execTamperClear (mask note : Word) := lift fun c => c.runOrder 0x0A01 (w4 mask ++ w4 note) (tamperClear mask note)

/-! ### Chapter 07, the generator's failure and service (R183 to R190) -/

/-- R189: a request that waits ends when the generator has failed: an order with ENT_FAIL, a look-aside request with its
status, a link without its salt stays down (R412), and the key IDs stay unloaded (R275). -/
def Chip.randFailed (c : Chip) (r : RandReq) : Chip :=
  match r.use with
  | .memKeysAll => c
  | .linkSalt p => c.when (p = 2) fun c => c.modPrs fun s => { s with link := 0 }
  | .laIv n => c.modPath fun p => { p with
    la := p.la.map fun e => if e.1 = n then (e.1, e.2.map fun q =>
      { q with status := some 0x0B, waitsRandom := false }) else e }
  | .claimSeal => ((c.modVlt fun v => { v with programming := none }).raise Ev.CLAIM_FAIL 0x005).finishOrder (.of 0x49)
  | .challenge _ | .exportStore _ _ | .sealRotate | .keyGen _ _ | .memKey _ | .host _ _ => c.finishOrder (.of 0x49)

/-- R183: both sources have failed, or the known-answer test has: the generator fails, and every request that waits ends.
Its alarm has no sticky flag (R441). -/
def Chip.generatorFail (c : Chip) : Chip :=
  if c.entFailed then c
  else
    let l := c.ent.waiting
    let c := ((c.setF F.ENT_STAT_failed [] 1).entClear).randDrop fun _ => true
    let c := c.each l Chip.randFailed
    let (_, c) := c.respond (if c.getB F.FLT_CFG_ent_lock [] then 3 else 0) 0x0C8
    c.raise Ev.ENT_FATAL 0x0C8

/-- A health test of a source fails; with both consecutive counts at 3 the generator has failed. -/
def Chip.healthTest (c : Chip) (s : Nat) (apt : Bool) : Chip :=
  let c := c.healthFail s apt
  c.when c.bothDegraded Chip.generatorFail

/-- HEALTH_TEST_FAIL: the first `n` samples of a window have come, and a test fails on them. -/
def Chip.windowFail (c : Chip) (s : Nat) (w : BitVec 1024) (n : Nat) : Chip :=
  match (c.brine s).judge w n with
  | some apt => c.when (c.brine s).running fun c => (c.divert s w n).healthTest s apt
  | none => c

def execHealthTestFail (src : Fin 2) (window : TestWindow) := lift fun c =>
  c.windowFail src.val window.samples window.n.val

/-- SOURCE_STARTUP_TEST_END: the test passes, or fails, on the source's first 1,024 samples. -/
def execSourceStartupTestEnd (src : Fin 2) (window : BitVec 1024) := lift fun c =>
  if (c.brine src.val).startTest then
    if ((c.brine src.val).judge window 1024).isSome then c.windowFail src.val window 1024
    else c.startTestPass src.val window
  else c

/-- ENTROPY_BLOCK_RELEASE: a window of 1,024 samples has ended; it is released when it passes both tests. -/
def Chip.windowEnd (c : Chip) (s : Nat) (w : BitVec 1024) : Chip :=
  let b := c.brine s
  if !b.running || b.startTest then c
  else if (b.judge w 1024).isSome then c.windowFail s w 1024
  else c.blockRelease s w

def execEntropyBlockRelease (src : Fin 2) (window : BitVec 1024) := lift fun c => c.windowEnd src.val window

/-- R184: the known-answer test of the DRBG ends; a failure is fatal. -/
def Chip.drbgKat (c : Chip) (pass : Bool) : Chip :=
  if !c.ent.started || c.ent.katOk then c
  else if pass then c.modEnt fun e => { e with katOk := true }
  else c.generatorFail

def execDrbgKatEnd (pass : Bool) := lift fun c => c.drbgKat pass

end Sys2Proof.Machine
end

