-- ==== Sys2Proof/Machine/Panel.lean ====
section
/-! DEFINITION. Chapter 18: the panel's inputs and filters, the zeroize button, the keypad and PIN, the fill port, and the
LEDs. -/
namespace Sys2Proof.Machine

/-! ### Inputs (R457 to R459) -/

def Chip.panelIn (c : Chip) (n : Nat) : PanelIn := SMap.get (fun _ => {}) c.pnl.inputs n

def Chip.setPanelIn (c : Chip) (n : Nat) (x : PanelIn) : Chip :=
  c.modPnl fun p => { p with inputs := SMap.set (fun _ => {}) p.inputs n x }

/-- The filtered value of an input. -/
def Chip.filt (c : Chip) (n : Nat) : Bool := (c.panelIn n).filt

/-- The panel is judged: in CK_SAFE while main power is present, and without the electrodes and the fill port in
VIGIL. -/
def Chip.judged (c : Chip) (n : Nat) : Bool := c.powered || (c.inMode [.vigil] && n < 2)

/-- R458: an input is held for chatter. -/
def Chip.chattering (c : Chip) (n : Nat) : Bool := (c.panelIn n).chatter && c.now < (c.panelIn n).chatterEnds

/-! ### The keypad (R463 to R467) -/

/-- R464: the modes in which the keypad accepts entries. -/
def keypadModes : List Mode := [.sealed, .provision, .active, .standby, .drain, .maintenance, .lockdown]

/-- The keypad takes touches: the mode accepts entries, and it is not locked. -/
def Chip.keypadOn (c : Chip) : Bool := c.inMode keypadModes && !c.ahead c.pnl.lockEnds

/-- R466: a lockout whose 900 s have passed has ended, with the count at 4. -/
def Chip.lockSettle (c : Chip) : Chip :=
  if c.pnl.lockEnds.isSome && !c.ahead c.pnl.lockEnds then c.modPnl fun p => { p with lockEnds := none, fails := 4 } else c

/-- An electrode reads touched and is not ignored as stuck (R459). -/
def Chip.touching (c : Chip) (d : Nat) : Bool := c.filt (2 + d) && !(c.panelIn (2 + d)).stuck

/-- A touch of electrode `d` begins. -/
def Chip.touchBegin (c : Chip) (d : Nat) : Chip :=
  let other := (List.range 4).any fun e => e ≠ d && c.touching e
  c.modPnl fun p => { p with
    touches := if c.keypadOn then p.touches.filter (· ≠ d) ++ [d] else p.touches.filter (· ≠ d),
    ignored := if other then p.ignored.filter (· ≠ d) ++ [d] else p.ignored.filter (· ≠ d) }

/-- R463: a touch ends; it is counted as its digit unless it was ignored, stuck, or not taken by the keypad. -/
def Chip.touchEnd (c : Chip) (d : Nat) (stuck : Bool) : Chip :=
  let counts := c.keypadOn && !stuck && c.pnl.touches.contains d && !c.pnl.ignored.contains d
  let down := (List.range 4).filter fun e => e ≠ d && c.touching e
  c.modPnl fun p => { p with
    entry := if counts then (p.entry ++ [d]).take 15 else p.entry,
    released := if counts then c.now else p.released,
    touchAt := if counts then some c.now else p.touchAt,
    touches := p.touches.filter (· ≠ d),
    ignored := p.ignored.filter fun e => e ≠ d && down.any (· ≠ e) }

/-! ### The fill port's presence and session (R470, R471, R473) -/

/-- A session ends; a blob whose ACK has not ended is discarded. A cause other than BYE raises EV_FILL_ABORT. -/
def Chip.sessionEnd (c : Chip) (bye : Bool) : Chip :=
  let was := c.pnl.session
  let c := c.modPnl fun p => { p with session := false, answering := none }
  c.when (was && !bye) fun c => c.raise Ev.FILL_ABORT 0x0A6

/-- R473: the fill device's filtered presence changes. In WAKE and VIGIL nothing is taken. -/
def Chip.fillPresence (c : Chip) (present : Bool) : Chip :=
  if c.inMode [.wake] || !c.powered then c
  else
    let c := c.raise Ev.FILL_PLUG 0x0A6
    if present then c else c.sessionEnd false

/-! ### The zeroize button (R460) -/

/-- R460, R403: ZEROIZE_N has been pressed for 2 s. In ERASED the hold also gives the presence bit. -/
def Chip.buttonHeld (c : Chip) : Chip :=
  let c := c.modPnl fun p => { p with pressedFor := none }
  let c := c.when (c.inMode [.erased]) fun c => c.modSu fun s => { s with presenceEnds := some (c.now + 120000000000) }
  (c.setFlag 14).zeroizeStart 5 false

/-- The button is released: before 2 s, or at that instant, nothing changes; later the hold has been completed. -/
def Chip.buttonUp (c : Chip) : Chip :=
  match c.pnl.pressedFor with
  | none => c
  | some t =>
    if c.powered && t + 2000000000 < c.now then c.buttonHeld
    else (c.modPnl fun p => { p with pressedFor := none }).when c.powered fun c => c.raise Ev.ZEROIZE_ABORT 0x0A0

/-! ### Filters (R458) -/

/-- What a new filtered value means for its input. -/
def Chip.inputActs (c : Chip) (n : Nat) (active stuck : Bool) : Chip :=
  match n with
  | 0 => if active then c.modPnl fun p => { p with pressedFor := some c.now } else c.buttonUp
  | 1 => if active then c.alarm 1 else c.causeClear 1
  | 6 => c.fillPresence active
  | _ => if active then c.touchBegin (n - 2) else c.touchEnd (n - 2) stuck

/-- R458: an input has held a level for 8 ms. An input held for chatter keeps its value; one that is stuck stops being
so when it leaves its active state. -/
def Chip.filterChange (c : Chip) (n : Nat) (active : Bool) : Chip :=
  let x := c.panelIn n
  if !c.judged n || c.chattering n || x.filt = active then c
  else
    let c := c.setPanelIn n { x with filt := active, since := c.now, stuck := false }
    c.inputActs n active x.stuck

def execInputFilteredChange (input : Fin 7) (active : Bool) := lift fun c => c.filterChange input.val active

def execTouchCounted (digit : Fin 4) := lift fun c => c.filterChange (2 + digit.val) false

def execFillPlug := lift fun c => c.filterChange 6 true

def execFillUnplug := lift fun c => c.filterChange 6 false

/-- ZEROIZE_BUTTON_RELEASE. -/
def execZeroizeButtonRelease := lift fun c => c.filterChange 0 false

/-- R458: more than 16 changes in 1 s; every further change starts the hold of 10 s again. -/
def Chip.chatter (c : Chip) (n : Nat) : Chip :=
  let x := c.panelIn n
  if !c.powered then c
  else
    let again := c.chattering n
    let c := c.setPanelIn n { x with chatter := true, chatterEnds := c.now + 10000000000 }
    if again then c
    else (c.setF F.CRF_IN_STAT_chatter_ev [] (c.getF F.CRF_IN_STAT_chatter_ev [] ||| 2 ^ n)).raise Ev.CHATTER (0x0A0 + n)

def execInputChatter (input : Fin 7) := lift fun c => c.chatter input.val

/-- R458: the hold for chatter ends. -/
def Chip.chatterEnd (c : Chip) (n : Nat) : Chip :=
  let x := c.panelIn n
  if x.chatter then (c.reachElapsed x.chatterEnds).setPanelIn n { x with chatter := false, changes := [] } else c

def execChatterHoldEnd (input : Fin 7) := lift fun c => c.chatterEnd input.val

/-- R458: an input other than FILL_DET_N has been active beyond STUCK_LIMIT. -/
def Chip.stuckInput (c : Chip) (n : Nat) : Chip :=
  let x := c.panelIn n
  if !c.powered || n = 6 || !x.filt || x.stuck then c
  else
    let c := c.reachElapsed (x.since + c.getF F.CRF_IN_CFG_stuck [] * 1000000000)
    let c := c.setPanelIn n { x with stuck := true }
    (c.setF F.CRF_IN_STAT_stuck_ev [] (c.getF F.CRF_IN_STAT_stuck_ev [] ||| 2 ^ n)).raise Ev.STUCK (0x0A0 + n)

def execInputStuck (input : Fin 7) := lift fun c => c.stuckInput input.val

/-- R458: an electrode is measured, as the counts its capacitance exceeds its baseline by; a change of its reading counts
toward chatter. -/
def Chip.touchMeasure (c : Chip) (d above : Nat) : Chip :=
  if !c.powered then c
  else
    let x := c.panelIn (2 + d)
    let raw := c.getF F.CRF_TOUCH_CFG_thr [] < above
    if raw = x.raw then c
    else
      let changes := (x.changes.filter fun t => c.now < t + 1000000000) ++ [c.now]
      let c := c.setPanelIn (2 + d) { x with raw := raw, changes := changes }
      c.when (16 < changes.length || c.chattering (2 + d)) fun c => c.chatter (2 + d)

def execTouchMeasure (electrode : Fin 4) (above : BitVec 16) := lift fun c => c.touchMeasure electrode.val above.toNat

/-- ZEROIZE_BUTTON_HOLD: the filtered button has been pressed for 2 s. -/
def Chip.buttonHold (c : Chip) : Chip :=
  match c.pnl.pressedFor with
  | none => c
  | some t => if c.powered then (c.reachElapsed (t + 2000000000)).buttonHeld else c

def execZeroizeButtonHold := lift Chip.buttonHold

/-! ### PIN entries (R463 to R467) -/

/-- R465: the verifier of a PIN. -/
def Chip.pinVerifier (c : Chip) (digits : List Nat) : BitVec 128 :=
  BitVec.ofNat 128 (kdf true (c.vlt.duk.getD 0)
    (ascii "YL-PIN" ++ [0] ++ (BitVec.ofNat 8 digits.length :: digits.map (BitVec.ofNat 8 ·))) 128)

/-- A PIN has 6 to 12 touches. -/
def pinLength (digits : List Nat) : Bool := 6 ≤ digits.length && digits.length ≤ 12

/-- An entry equals the record. -/
def Chip.pinMatches (c : Chip) (digits : List Nat) : Bool :=
  match c.pnl.pin with
  | some r => pinLength digits && r.length = digits.length && r.verifier = c.pinVerifier digits
  | none => false

/-- R467: an entry of an enrolment: the first is kept, the second ends it. -/
def Chip.enrolEntry (c : Chip) (e : List Nat) : Chip :=
  match c.pnl.first with
  | none => c.modPnl fun p => { p with first := some e }
  | some f =>
    let c := c.modPnl fun p => { p with first := none, enrolEnds := none }
    if pinLength f && f = e then
      let r : PinRecord := { length := e.length, verifier := c.pinVerifier e }
      (c.modPnl fun p => { p with pin := some r, fails := 0 }).raise Ev.PIN_SET 0x0A8 [(4, 1)]
    else c.raise Ev.PIN_SET 0x0A8 [(4, 0)]

/-- R466: an entry that is compared with the record. -/
def Chip.pinEntry (c : Chip) (e : List Nat) : Chip :=
  if c.pinMatches e then
    let c := c.modCtl fun k => { k with pinOk := some (c.now + 120000000000) }
    (c.modPnl fun p => { p with fails := 0 }).raise Ev.PIN_OK 0x0A8
  else
    let n := min 5 (c.pnl.fails + 1)
    let c := (c.modPnl fun p => { p with fails := n, wrongAt := some c.now }).raise Ev.PIN_FAIL 0x0A8
    c.when (n = 5) fun c =>
      (c.modPnl fun p => { p with lockEnds := some (c.now + 900000000000) }).raise Ev.PIN_LOCKOUT 0x0A8

/-- R463: an entry ends, 2 s after the last release. -/
def Chip.entryEnd (c : Chip) : Chip :=
  let e := c.pnl.entry
  let c := (if e.isEmpty then c else c.reachElapsed (c.pnl.released + 2000000000)).modPnl fun p => { p with entry := [] }
  if e.isEmpty || !c.keypadOn then c
  else if c.ahead c.pnl.enrolEnds then c.enrolEntry e
  else c.lockSettle.pinEntry e

def execPinEntryEnd := lift Chip.entryEnd

/-- R466: the lockout ends; the next wrong entry locks the keypad again. -/
def Chip.lockoutEnd (c : Chip) : Chip :=
  match c.pnl.lockEnds with
  | some t => (c.reachElapsed t).modPnl fun p => { p with lockEnds := none, fails := 4 }
  | none => c

def execPinLockoutEnd := lift Chip.lockoutEnd

/-- R467: PIN_SET. -/
def pinSet : OrdFn := inModes [.provision, .maintenance] fun c =>
  if !c.authHere 8 then (c, some (.of 0x8B))
  else
    ((c.spendAuth).modPnl fun p => { p with enrolEnds := some (c.now + 60000000000), first := none }, some {})

def execPinSet := lift fun c => c.runOrder 0x0B01 [] pinSet

/-- R467: enrolment ends after 60 s. -/
def Chip.enrolTimeout (c : Chip) : Chip :=
  match c.pnl.enrolEnds with
  | some t => (c.reachElapsed t).modPnl fun p => { p with enrolEnds := none, first := none }
  | none => c

def execEnrolmentTimeout := lift Chip.enrolTimeout

/-! ### Fill frames (R468 to R472) -/

/-- A fill frame (Table 18.2). -/
def fillFrame (type : Byte) (payload : Bytes) : Bytes :=
  let body := [type] ++ beBytes 2 payload.length ++ payload
  [0x7E] ++ body ++ beBytes 2 (crc16 0x1021 0xFFFF body).toNat

/-- An ACK. -/
def Chip.fillAck (c : Chip) (payload : Bytes) : Chip :=
  (c.bump F.CRF_FILL_CNT_frames []).emit (.fill (fillFrame 3 payload))

/-- The blob that the fill buffer holds, its hold time not passed (R472). -/
def Chip.heldBlob (c : Chip) : Option FillBlob := c.pnl.held.filter fun b => c.now < b.ends

/-- A NAK with its reason (Table 18.3). -/
def Chip.fillNak (c : Chip) (reason : Byte) : Chip :=
  (((c.bump F.CRF_FILL_CNT_naks []).emit (.fill (fillFrame 4 [reason]))).modPnl fun p => { p with nakAt := some c.now }).raise
    Ev.FILL_NAK 0x0A6

/-- The tests that every frame meets: 0, or the NAK reason. -/
def Chip.fillTest (c : Chip) (crcOk : Bool) (lenOk : Bool) : Byte :=
  if !c.getB F.CRF_FILL_CFG_en [] then 7 else if !crcOk then 1 else if !lenOk then 2 else 0

/-- A frame taken by the port: nothing in WAKE and VIGIL; activity while no device is present is counted. -/
def Chip.fillTake (c : Chip) (test : Byte) (f : Chip → Chip) : Chip :=
  if c.inMode [.wake] || !c.powered then c
  else if !c.filt 6 then c.bump F.CRF_FILL_CNT_stray []
  else if test ≠ 0 then c.fillNak test
  else f c

/-- Clear-form blobs are accepted. -/
def Chip.clearAccepted (c : Chip) : Bool := c.inMode [.provision] && c.pinValid

/-- FILL_HELLO. -/
def Chip.fillHello (c : Chip) : Chip :=
  let flags := b2n (c.inMode [.provision, .active]) + 2 * b2n c.clearAccepted + 4 * b2n c.heldBlob.isSome
  let c := c.modPnl fun p => { p with session := true, answering := none }
  c.fillAck (beBytes 8 Config.deviceId.toNat ++ [BitVec.ofNat 8 (modeCode c.ctl.mode), BitVec.ofNat 8 flags])

def execFillHello (crcOk : Bool) (payload : Bytes) := lift fun c =>
  c.fillTake (c.fillTest crcOk payload.isEmpty) Chip.fillHello

/-- R470: the form of a blob is well formed. -/
def fillForm (payload : Bytes) : Bool :=
  match payload with
  | [] => false
  | f :: b => if f = 0 then blobFormat b else f = 1 && (b.length = 24 || b.length = 40)

/-- A KEYBLOB: the NAK reason of tests 3 to 6, or 0. -/
def Chip.blobTest (c : Chip) (payload : Bytes) : Byte :=
  if !c.pnl.session then 3
  else if !c.inMode [.provision, .active] then 4
  else if payload.head? = some 1 && !c.clearAccepted then 5
  else if !fillForm payload then 6
  else 0

/-- FILL_KEYBLOB: a blob that passes every test is answered with its digest and held when the answer ends. -/
def Chip.fillBlob (c : Chip) (payload : Bytes) : Chip :=
  let r := c.blobTest payload
  if r ≠ 0 then c.fillNak r
  else
    let b : FillBlob := { clear := payload.head? = some 1, data := payload.drop 1, ends := 0 }
    (c.modPnl fun p => { p with answering := some b, ackAt := some c.now }).fillAck (beBytes 8 (digest64 payload).toNat)

def execFillKeyblob (crcOk : Bool) (payload : Bytes) := lift fun c =>
  c.fillTake (c.fillTest crcOk (!payload.isEmpty && payload.length ≤ 512)) fun c => c.fillBlob payload

def execFillBye (crcOk : Bool) (payload : Bytes) := lift fun c =>
  c.fillTake (c.fillTest crcOk payload.isEmpty) fun c => (c.fillAck []).sessionEnd true

/-- R471: the last bit of a KEYBLOB's ACK has been clocked out. -/
def Chip.answerEnd (c : Chip) : Chip :=
  match c.pnl.answering with
  | none => c
  | some b =>
    let ends := c.now + c.getF F.CRF_FILL_CFG_hold [] * 1000000000
    let c := c.modPnl fun p => { p with answering := none, held := some { b with ends := ends } }
    let payload := (if b.clear then 1 else 0 : Byte) :: b.data
    let c := c.modOrd fun o => { o with heldFill := false }
    c.raise Ev.FILL_BLOB 0x0A6 [(4, b2n b.clear), (8, (digest64 payload).toNat)]

def execFillAnswerEnd := lift Chip.answerEnd

/-- R470: 100 ms without a clock edge end the session. -/
def execFillSilenceTimeout := lift fun c => c.sessionEnd false

/-- R472: the hold time of a blob ends. -/
def Chip.blobExpiry (c : Chip) : Chip :=
  match c.pnl.held with
  | some b => (c.reachElapsed b.ends).modPnl fun p => { p with held := none }
  | none => c

def execFillBlobExpiry := lift Chip.blobExpiry

/-! ### LEDs (R474) -/

/-- What an LED shows: the user patterns, and the patterns of Table 18.5. -/
inductive LedPattern
  | off | on | hz1 | hz4 | flash1s | twoFlashes | blink1s | flash4s | threeFlashes
  deriving DecidableEq, Repr

/-- LED0's hardware pattern. -/
def Chip.modeLed (c : Chip) : LedPattern :=
  match c.ctl.mode with
  | .wake => if c.su.failed then .flash1s else .hz4
  | .sealed => .hz1
  | .provision | .maintenance => .twoFlashes
  | .active => .on
  | .standby => .blink1s
  | .drain => .hz4
  | .rest => .flash4s
  | .lockdown | .erased | .off | .vigil => .off

/-- A user pattern. -/
def userLed (v : Nat) : LedPattern :=
  match v with
  | 0 => .off | 1 => .on | 2 => .hz1 | _ => .hz4

/-- A moment lies less than `ns` back. -/
def Chip.lately (c : Chip) (t : Option Nat) (ns : Nat) : Bool := t.any fun t => c.now < t + ns

/-- What an LED shows; a flash that lasts a moment goes before the standing pattern, and three of 100 ms take 600 ms (DESIGN CHOICE,
log entry 69). -/
def Chip.led (c : Chip) (n : Nat) : LedPattern :=
  if !c.powered then .off
  else match n with
    | 0 => if c.getB F.CRF_LED_CTL_own0 [] then userLed (c.getF F.CRF_LED_CTL_pat0 []) else c.modeLed
    | 1 => if c.flt.cause ≠ 0 || c.inMode [.lockdown] then .hz4 else if c.flt.flags ≠ 0 then .on else .off
    | 2 =>
      if c.getB F.CRF_LED_CTL_own2 [] then userLed (c.getF F.CRF_LED_CTL_pat2 [])
      else if c.lately c.pnl.wrongAt 600000000 then .threeFlashes
      else if c.lately c.pnl.touchAt 50000000 || c.pinValid || c.ahead c.pnl.enrolEnds then .on
      else if c.ahead c.pnl.lockEnds then .hz1 else .off
    | _ =>
      if c.getB F.CRF_LED_CTL_own3 [] then userLed (c.getF F.CRF_LED_CTL_pat3 [])
      else if c.lately c.pnl.nakAt 600000000 then .threeFlashes
      else if c.lately c.pnl.ackAt 1000000000 then .off
      else if c.pnl.session then .hz4 else if c.filt 6 then .on else .off

end Sys2Proof.Machine
end

