-- ==== Sys2Proof/Machine/Serdes.lean ====
section
/-! DEFINITION. Chapter 21: sub-ports going up and down, lanes, and the test facilities. -/
namespace Sys2Proof.Machine

/-! ### The links of the Runner and pair ports -/

/-- The pair link's state changes (R414, Table 16.6). -/
def Chip.setPairLink (c : Chip) (new : Nat) : Chip :=
  let old := c.prs.link
  let c := c.modPrs fun p => { p with link := new }
  let c := c.when (old = 4 && new ≠ 4) fun c => c.raise Ev.PAIR_DOWN 0x600
  let c := c.when (old ≠ 4 && new = 4) fun c => c.raise Ev.PAIR_UP 0x600
  (c.when (old ≠ 5 && new = 5) fun c => c.raise Ev.PAIR_STALE 0x600).trackDefer

/-- The job is one for link `i`. -/
def LinkJob.isFor (i : Nat) : LinkJob → Bool
  | .hello k _ _ => k = i
  | .session k _ _ _ _ _ => k = i
  | .void => false

/-- The jobs of key sequencer engine 1 for a link are dropped; one in progress ends without an effect. -/
def Chip.jobsDrop (c : Chip) (i : Nat) : Chip := c.modPrs fun p => { p with
  jobs := match p.jobOn, p.jobs with
    | true, j :: l => (if j.isFor i then .void else j) :: l.filter fun j => !j.isFor i
    | _, l => l.filter fun j => !j.isFor i }

/-- The members that were heard over Runner link `i` are not reached by it any more. -/
def Chip.membersDown (c : Chip) (i : Nat) : Chip := c.modPrs fun p => { p with
  members := p.members.map fun x => (x.1, { x.2 with
    heard0 := if i = 0 then none else x.2.heard0, heard1 := if i = 1 then none else x.2.heard1 }) }

/-- A link goes down: 0 and 1 the Runner links, 2 the pair link. Its session ends. -/
def Chip.linkDown (c : Chip) (i : Nat) : Chip :=
  let was := c.prs.linkUp.contains i
  let c := (c.setF F.LNK_LINK_STAT_up [i] 0).jobsDrop i
  let c := c.modPrs fun p => { p with
    linkUp := p.linkUp.filter (· ≠ i), sessions := SMap.set (fun _ => none) p.sessions i none,
    salts := SMap.set (fun _ => none) p.salts i none, hellos := SMap.set (fun _ => none) p.hellos i none }
  let c := (c.randDrop fun r => r.use = .linkSalt i).membersDown i
  if i = 2 then c.setPairLink 0 else c.when was fun c => c.raise Ev.STACK_LINK (0x620 + i)

/-- The lanes in service of a link port (R535). -/
def Chip.linkLanes (c : Chip) (i : Nat) : Nat :=
  4 - (c.srd.linkRetired.filter fun h => h / 4 = i).length

/-! ### Sub-ports (R534, R538, R539) -/

/-- A sub-port exists in the port's mode. -/
def Chip.subExists (c : Chip) (p b : Nat) : Bool := if p < 16 then b < c.subPorts p else b = 0

/-- A sub-port's enable bit. -/
def Chip.subEnabled (c : Chip) (p b : Nat) : Bool :=
  if p < 16 then bit (c.getF F.PRT_LINK_CFG_en [p]) b else bit (c.getF F.LNK_LINK_CFG_en [p - 16]) 0

/-- The lanes of a sub-port of any port. -/
def Chip.lanesOf (c : Chip) (p b : Nat) : List Nat :=
  if p < 16 then c.subLanes p b else (List.range 4).map (p * 4 + ·)

/-- The fault class and channel of a lane. -/
def laneFault (l : Nat) : Nat × Nat := if l < 64 then (0, l) else (1, l)

/-- A lane is locked, or loses its lock. -/
def Chip.setLock (c : Chip) (l : Nat) (on : Bool) : Chip :=
  let c := (c.setF F.SRD_LANE_STAT_lock [l] (b2n on)).setF F.SRD_LANE_STAT_adapted [l] (b2n on)
  c.when on fun c => c.setF F.SRD_LANE_STAT_sig [l] 1

/-- A lane that traffic may use: not retired, in neither loopback, not asleep. -/
def Chip.laneUsable (c : Chip) (l : Nat) : Bool :=
  !(c.faultChan (laneFault l).1 (laneFault l).2).retired && c.getF F.SRD_LANE_CTL_lpbk [l] = 0 &&
    !c.getB F.SRD_LANE_CTL_rx_sleep [l]

/-- R540: the taps of a lane as its sub-port comes up: with PRT_LINK_CFG.lt = 1 link training has set them, to values the
part's far end decides (a free value, log entry 61); with lt = 0 those of SRD_TX_FFE hold. -/
def Chip.trainTaps (c : Chip) (p l : Nat) : Chip :=
  let (n, c') := c.draw
  let (taps, c) := if c.getB F.PRT_LINK_CFG_lt [p] then (some (Config.freeNat n % 2 ^ 30), c') else (none, c)
  c.modSrd fun s => { s with trained := SMap.set (fun _ => none) s.trained l taps }

/-- R535: the rotation of link `i` as it comes up: the lanes retired here are out of it; the far end announces its own again. -/
def Chip.rotationStart (c : Chip) (i : Nat) : Chip := c.modSrd fun s => { s with
  linkRetired := s.linkRetired.filter fun h => h / 4 ≠ i || (c.faultChan 1 (64 + h)).retired }

/-- R538: a sub-port comes up. A link port draws the salt of its HELLO; without a generator it stays DOWN (R412). -/
def Chip.portComesUp (c : Chip) (p b : Nat) : Chip :=
  let lanes := c.lanesOf p b
  let usable := if p < 16 then lanes.all c.laneUsable else lanes.any c.laneUsable
  if c.inMode [.off, .vigil, .wake, .rest] || !c.subExists p b || !c.subEnabled p b || !usable
      || (isLine p && c.pan.downPorts.contains (p - 8)) then c
  else if p < 16 then
    if c.portUp p b then c
    else
      let c := c.each lanes fun c l => ((c.setLock l true).laneUncal l).trainTaps p l
      let c := c.setF F.PRT_LINK_STAT_lf [p] ((c.getF F.PRT_LINK_STAT_lf [p]) &&& (15 - 2 ^ b))
      (c.setF F.PRT_LINK_STAT_up [p] (c.getF F.PRT_LINK_STAT_up [p] + 2 ^ b)).portEvent Ev.PORT_UP p b
  else if c.getF F.LNK_LINK_STAT_up [p - 16] = 1 then c
  else
    let c := (c.rotationStart (p - 16)).each lanes fun c l => (c.setLock l true).laneUncal l
    let c := ((c.setF F.LNK_LINK_STAT_lf [p - 16] 0).setF F.LNK_LINK_STAT_up [p - 16] 1).portEvent Ev.PORT_UP p b
    if c.entFailed then c
    else (c.when (p = 18) fun c => c.setPairLink 1).randPost 1 1 (.linkSalt (p - 16))

def execPortUp (port : Fin 19) (sub : Fin 4) := lift fun c => c.portComesUp port.val sub.val

/-- A lane reports a transient error of its class, with the block's own code: 0 loss of lock, 1 FEC burst. -/
def Chip.laneError (c : Chip) (l code : Nat) : Chip :=
  c.transient (laneFault l).1 (laneFault l).2 code false

/-- A lane loses its lock. -/
def Chip.lockLost (c : Chip) (l : Nat) : Chip :=
  ((c.setLock l false).setF F.SRD_LANE_STAT_lock_lost [l] 1).raise Ev.LANE_LOCK_LOST (laneSource l)

/-- A sub-port of any port is up. -/
def Chip.anyUp (c : Chip) (p b : Nat) : Bool :=
  if p < 16 then c.portUp p b else b = 0 && c.getF F.LNK_LINK_STAT_up [p - 16] = 1

/-- R539: a sub-port goes down for a cause: 0 a lane lost signal or lock, 1 alignment or FEC lock lost, 2 a high symbol
error rate, 3 a local fault. The lanes that caused it (bit *i*: lane *i* of the port) report an error. -/
def Chip.portGoesDown (c : Chip) (p b cause lanes : Nat) : Chip :=
  if !c.anyUp p b then c
  else
    let l := (c.lanesOf p b).filter fun l => bit lanes (l % 4)
    let c := c.when (cause = 0) fun c => c.each l Chip.lockLost
    let c := if p < 16 then
        (c.when (cause = 3) fun c => c.setF F.PRT_LINK_STAT_lf [p] (c.getF F.PRT_LINK_STAT_lf [p] ||| 2 ^ b)).portDown p b cause
      else
        let c := (c.when (cause = 3) fun c => c.setF F.LNK_LINK_STAT_lf [p - 16] 1).setF F.LNK_LINK_STAT_down_ev [p - 16] 1
        (c.portEvent Ev.PORT_DOWN p b [(4, cause)]).linkDown (p - 16)
    c.each l fun c x => c.laneError x 0

def execPortDown (port : Fin 19) (sub : Fin 4) (cause : Fin 4) (lanes : BitVec 4) :=
  lift fun c => c.portGoesDown port.val sub.val cause.val lanes.toNat

/-- R537: a lane's recovered clock fails its check. It does not count as locked, so that a sub-port that is up goes down;
the lane is not retried, and no error counts (DEDUCED, log entry 59). -/
def Chip.ppmFail (c : Chip) (l ppm : Nat) : Chip :=
  if !c.running then c
  else
    let c := (c.setF F.SRD_LANE_STAT_ppm [l] ppm).setF F.SRD_LANE_STAT_lock [l] 0
    let c := (c.setF F.SRD_LANE_STAT_ppm_err [l] 1).raise Ev.LANE_PPM (laneSource l)
    c.portDown (l / 4) (c.laneSub (l / 4) (l % 4)) 0

def execLanePpmCheck (lane : Fin 64) (ppm : Byte) := lift fun c => c.ppmFail lane.val ppm.toNat

/-- R539: more than 4 uncorrectable codewords in 1 ms on a port that stays up, charged to a lane of the sub-port. -/
def Chip.fecBurst (c : Chip) (p b lane n : Nat) : Chip :=
  if !c.anyUp p b || !(c.lanesOf p b).contains (p * 4 + lane) then c
  else
    let c := if p < 16 then c.bump F.PRT_FEC_UNCORR_count [p, b] n else c.bump F.LNK_FEC_UNCORR_count [p - 16] n
    (c.portEvent Ev.FEC_BURST p b).laneError (p * 4 + lane) 1

def execFecBurst (port : Fin 19) (sub lane : Fin 4) (codewords : BitVec 16) :=
  lift fun c => if 4 < codewords.toNat then c.fecBurst port.val sub.val lane.val codewords.toNat else c

/-! ### Lane commands (R535, R541, R548) -/

/-- R548: the driver's retrain resets the receiver; the sub-port that uses the lane goes down and no error counts. -/
def Chip.retrain (c : Chip) (l : Nat) : Chip :=
  let p := l / 4
  let b := if p < 16 then c.laneSub p (l % 4) else 0
  let c := c.setLock l false
  if c.anyUp p b then
    if p < 16 then c.portDown p b 0 else (c.portEvent Ev.PORT_DOWN p b [(4, 0)]).linkDown (p - 16)
  else c

/-- R542, R544: after a write of SRD_LANE_CTL, a lane in a loopback, or with its receiver asleep, carries no traffic: the
sub-port that uses it goes down, without an error counted; a sleeping receiver reports no signal. The cause that the event
carries is the loss of lock (log entry 61). -/
def Chip.laneTest (c : Chip) (l : Nat) : Chip :=
  let p := l / 4
  let b := if p < 16 then c.laneSub p (l % 4) else 0
  let c := c.when (c.getB F.SRD_LANE_CTL_rx_sleep [l]) fun c => (c.setLock l false).setF F.SRD_LANE_STAT_sig [l] 0
  if (c.getB F.SRD_LANE_CTL_rx_sleep [l] || c.getF F.SRD_LANE_CTL_lpbk [l] ≠ 0) && c.anyUp p b then
    if p < 16 then c.portDown p b 0 else (c.portEvent Ev.PORT_DOWN p b [(4, 0)]).linkDown (p - 16)
  else c

/-- R541: a lane tests itself: near-end loopback with generator and checker on. -/
def Chip.selfTest (c : Chip) (l : Nat) : Bool :=
  c.getF F.SRD_LANE_CTL_lpbk [l] = 1 && c.getB F.SRD_PRBS_CFG_gen [l] && c.getB F.SRD_PRBS_CFG_chk [l]

/-- R541: `n` bit errors are injected into a lane's pattern; ignored with the generator off. The lane's own checker
counts them in a self-test. -/
def Chip.inject (c : Chip) (l n : Nat) : Chip :=
  if c.getB F.SRD_PRBS_CFG_gen [l] then
    let c := c.modSrd fun s => { s with injected := SMap.set (fun _ => 0) s.injected l (SMap.get (fun _ => 0) s.injected l + n) }
    c.when (c.selfTest l) fun c => c.bump F.SRD_PRBS_ERR_count [l] n
  else c

/-- R535: a retired link lane leaves the rotation at the next marker, at both ends: the end that retired it says so in a
control word, and `far` is that word of the far end, which only a link that is up brings. A link with no lane left is down. -/
def Chip.laneDrop (c : Chip) (h : Nat) (far : Bool) : Chip :=
  let own := (c.faultChan 1 (64 + h)).retired
  let up := c.anyUp (16 + h / 4) 0
  if (own || far && up) && !c.srd.linkRetired.contains h then
    let c := c.modSrd fun s => { s with linkRetired := s.linkRetired ++ [h] }
    let c := c.when (own && up) fun c => c.emit (.laneWord (64 + h))
    c.when (c.linkLanes (h / 4) = 0 && c.anyUp (16 + h / 4) 0) fun c =>
      let (n, c) := c.draw
      (c.portEvent Ev.PORT_DOWN (16 + h / 4) 0 [(4, Config.freeNat n % 2 ^ 32)]).linkDown (h / 4)
  else c

def execRunnerLaneDrop (lane : LinkLane) := lift fun c => c.laneDrop lane.index.val lane.far

end Sys2Proof.Machine
end

