-- ==== Sys2Proof/Machine/Pan.lean ====
section
/-! DEFINITION. Chapters 02, 04 and 20: fetching ring entries, look-aside requests, errors found in a Pan, and its tests. -/
namespace Sys2Proof.Machine

/-! ### Fetching an entry (R518, R519, R521, R522, R400) -/

/-- The completion ring of an order, exception-out or look-aside request ring. -/
def pairedRing (r : Nat) : Nat := if r < 4 then r + 4 else if r < 40 then r + 16 else r + 96

/-- Start-up lets rings be fetched. -/
def Chip.ringsServed (c : Chip) : Bool := c.running && (c.su.done || c.su.failed)

/-- The part may fetch the ring's next entry: it is enabled and holds one, no error stopped it, its completion ring has
room, and DMA of its owner is not gated. -/
def Chip.canFetch (c : Chip) (r : Nat) : Bool :=
  match c.ringOwner r with
  | none => false
  | some fn =>
    c.ringsServed && c.ringEn r && !(c.ring r).stopped && 0 < c.ringUsed r && c.dmaAllowed fn &&
      c.ringEn (pairedRing r) && 0 < c.ringFree (pairedRing r)

/-- The IOVA of the next entry to fetch. -/
def Chip.nextEntry (c : Chip) (r : Nat) : Nat :=
  c.ringBase r + (c.ring r).own.toNat % c.ringSize r * ringEntry r

/-- An entry is fetched, or its read fails; the completion entry is reserved first. -/
def Chip.fetchEntry (c : Chip) (r : Nat) (bytes : Option Bytes) : Option Bytes × Chip :=
  if c.canFetch r then
    match bytes with
    | none => (none, (c.dmaReadFailed (c.nextEntry r)).ringError r 1)
    | some b =>
      let q := pairedRing r
      let c := c.setRing q { c.ring q with reserved := (c.ring q).reserved + 1 }
      (some (slice b 0 (ringEntry r)), c.ringAdvance r 1)
  else (none, c)

/-! ### Look-aside requests (R54 to R58, R104, R108, R109, R112) -/

/-- The requests of a pair, oldest first. -/
def Chip.laOf (c : Chip) (pair : Nat) : List (Nat × LaReq) :=
  c.path.la.filterMap fun e => e.2.bind fun r => if r.pair = pair then some (e.1, r) else none

/-- R104: a look-aside ring is fetched: an entry waits, and fewer requests than PAN_LA_CFG allows are
admitted and not completed. -/
def Chip.laEligible (c : Chip) (pair : Nat) : Bool :=
  c.canFetch (64 + pair) &&
    ((c.laOf pair).filter fun e => e.2.admitted).length < c.getF F.PAN_LA_CFG_ring_inflight []

/-- The next ring in the round. -/
def Chip.laNextRing (c : Chip) : Option Nat :=
  ((List.range 96).map fun i => (c.path.laTurn + i) % 96).find? c.laEligible

/-- A request as its 64 bytes say, and whether it is well formed. -/
def laParse (b : Bytes) (pair fn : Nat) : LaReq × Bool :=
  let op := leNat (slice b 0 4)
  let r : LaReq := {
    pair := pair, fn := fn, enc := op = 1, handle := BitVec.ofNat 32 (leNat (slice b 4 4)),
    cookie := BitVec.ofNat 64 (leNat (slice b 8 8)), msgLen := leNat (slice b 0x10 4), aadLen := leNat (slice b 0x14 4),
    src := leNat (slice b 0x18 8), dst := leNat (slice b 0x20 8), aadAt := leNat (slice b 0x28 8),
    iv := BitVec.ofNat 96 (beNat (slice b 0x30 12)) }
  (r, (op = 1 || op = 2) && leNat (slice b 0x3C 4) = 0 && (op ≠ 1 || r.iv = 0))

/-- R525: the source of an event about a function other than PF0. -/
def Chip.fnSource (c : Chip) (fn : Nat) : Nat :=
  match (List.range 96).find? fun p => c.getF F.HIF_LA_OWNER_function [p] = fn with
  | some p => 0x700 + 160 + p
  | none => 0x0D0

/-- The modes in which look-aside is served. -/
def laModes : List Mode := [.provision, .active, .standby]

/-- R54, R104: the next request is fetched, and the checks that need no key are made: a malformed one completes BAD_DESC in
every mode (DESIGN CHOICE, log entry 52), but for a failed start, where every entry completes MODE (Table 15.6). -/
def Chip.laFetch (c : Chip) (req : Option Bytes) : Chip :=
  match c.laNextRing with
  | none => c
  | some pair =>
    let fn := (c.ringOwner (64 + pair)).getD 0
    let c := c.modPath fun p => { p with laTurn := (pair + 1) % 96 }
    match c.fetchEntry (64 + pair) req with
    | (none, c) => c
    | (some b, c) =>
      let (r, ok) := laParse b pair fn
      let long := 16777216 < r.msgLen || 65536 < r.aadLen
      let status := if c.su.failed then some 0x0C else if !ok then some 0x10 else if !c.inMode laModes then some 0x0C else if long then some 0x02 else none
      let c := c.when (status = some 0x02) fun c => c.raise Ev.LEN_LIMIT (c.fnSource fn)
      let n := c.path.laNext
      (c.modPath fun p => { p with laNext := n + 1 }).setLa n (some { r with status := status })

def execLaRequestFetch (req : Option Bytes) := lift fun c => c.laFetch req

/-- Two byte ranges share a byte. -/
def overlaps (a n b m : Nat) : Bool := 0 < n && 0 < m && a < b + m && b < a + n

/-- R56: the buffers overlap where they must not. -/
def LaReq.overlap (r : LaReq) : Bool :=
  let srcLen := if r.enc then r.msgLen else r.msgLen + 16
  let dstLen := if r.enc then r.msgLen + 16 else r.msgLen
  (r.src ≠ r.dst && overlaps r.src srcLen r.dst dstLen) || overlaps r.src srcLen r.aadAt r.aadLen ||
    overlaps r.dst dstLen r.aadAt r.aadLen

/-- R55: the key checks of Table 02.8, from STALE to KEY_BOUND, then R56. -/
def Chip.laCheck (c : Chip) (r : LaReq) : Nat :=
  let s := c.slot (slotOf r.handle)
  if genOf r.handle ≠ s.generation then 3
  else if s.state = 0 || s.state = 2 then 4
  else if s.type ≠ 0 then 5
  else if fnOf r.handle ≠ r.fn || s.function ≠ r.fn then 6
  else if s.state = 3 then 7
  else if r.enc && s.count = 0xFFFFFFFF then 8
  else if s.bound then 9
  else if r.overlap then 0xA
  else 0

/-- R108: one encryption is counted on a slot, with its event at 0xC000_0000. -/
def Chip.countEnc (c : Chip) (r : LaReq) : Chip :=
  let i := slotOf r.handle
  let n := (c.slot i).count + 1
  let c := c.setSlot i { c.slot i with count := n }
  c.when (n = 0xC0000000) fun c => c.raise Ev.LA_IV_SOON (c.fnSource r.fn) [(4, r.fn), (4, r.handle.toNat)]

/-- The request is admitted to a Pan with its IV and a copy of its key; or refused. -/
def Chip.laAdmit (c : Chip) (n : Nat) (iv : BitVec 96) : Chip :=
  c.onLa n fun r c =>
    let st := if !c.inMode laModes || c.pan.stopped then 0xC else c.laCheck r
    if st ≠ 0 then c.setLa n (some { r with status := some st, waitsRandom := false })
    else
      let i := slotOf r.handle
      let s := c.slot i
      let c := c.when r.enc fun c => c.countEnc r
      let c := c.setLa n (some { r with iv := iv, key := some (s.klen, s.key), admitted := true, waitsRandom := false })
      c.panAdmit (if r.enc then .laEnc else .laDec) i s.generation n 0 (r.msgLen / 16 + 1)

/-- A look-aside request reaches admission; the command carries what its reads of message and AAD returned, which go to
staging lines under the function's key ID (R274). It waits while the data region has no room for them. An ENCRYPT
takes its IV from the generator and waits for it. -/
def Chip.laAdmission (c : Chip) (n : Nat) (msg aad : Option Bytes) : Chip :=
  c.onLa n fun r c =>
    if r.admitted || r.status.isSome || r.waitsRandom || !c.dmaAllowed r.fn then c
    else
      let refuse := fun (st : Nat) => c.setLa n (some { r with status := some st })
      let st := if !c.inMode laModes || c.pan.stopped then 0xC else c.laCheck r
      if st ≠ 0 then refuse st
      else if c.noKeys then if c.entFailed then refuse 0xF else c
      else if !c.kidActive (c.getF F.MEM_FUNC_KID_kid [r.fn]) then refuse 0xF
      else
        let srcLen := if r.enc then r.msgLen else r.msgLen + 16
        if !c.hbmFits ((srcLen + r.aadLen + 63) / 64) then c else
        match msg, if r.aadLen = 0 then some [] else aad with
        | some m, some a =>
          let r := { r with
            msg := slice m 0 srcLen, aad := slice a 0 r.aadLen, kid := c.getF F.MEM_FUNC_KID_kid [r.fn],
            lines := c.freeLines ((srcLen + r.aadLen + 63) / 64) }
          let c := (c.setLa n (some r)).linesWrite r.kid r.lines (r.aad ++ r.msg)
          if !r.enc then c.laAdmit n r.iv
          else if c.entFailed then c.setLa n (some { r with status := some 0xB })
          else (c.setLa n (some { r with waitsRandom := true })).randPost 3 1 (.laIv n)
        | m, _ =>
          let c := c.dmaReadFailed (if m.isNone then r.src else r.aadAt)
          let c := c.when r.enc fun c => c.countEnc r
          c.setLa n (some { r with status := some 0xE, admitted := true })

def execLaAdmission (req : Nat) (msg aad : Option Bytes) := lift fun c => c.laAdmission req msg aad

/-- R57, R58: what the Pan gives for an admitted request: the output and the status. -/
def laResult (r : LaReq) (k256 : Bool) (key : BitVec 256) : Bytes × Nat :=
  if r.enc then
    let cipher := gcmXor k256 key r.iv r.msg
    (cipher ++ beBytes 16 (Config.gcmTag k256 key r.iv r.aad cipher).toNat, 0)
  else
    let cipher := r.msg.take r.msgLen
    let ok := beBytes 16 (Config.gcmTag k256 key r.iv r.aad cipher).toNat = r.msg.drop r.msgLen
    (gcmXor k256 key r.iv cipher, if ok then 0 else 1)

/-- The function's counters for a completion (Table 02.12). -/
def Chip.laCount (c : Chip) (r : LaReq) (status : Nat) : Chip :=
  let k := 0x4000 + r.fn * 8
  let c := c.count false k
  let c := c.when r.admitted fun c => c.count false (k + 1) (r.msgLen + r.aadLen)
  let c := c.when (status = 1) fun c => c.count false (k + 2)
  c.when (!(status = 0 || status = 1 || status = 0xE || status = 0xF)) fun c => c.count false (k + 3)

/-- R112: the oldest request of a pair completes: its output, then its completion. A request whose scope a reset took
writes nothing (R385). -/
def Chip.laFinish (c : Chip) (n : Nat) (r : LaReq) (out : Bytes) (status : Nat) : Chip :=
  let c := match c.findReq fun q => q.kind.lookAside && q.subject = n with
    | some (k, _) => c.panDone k
    | none => c
  let c := (c.setLa n none).laCount r status
  if r.discarded then c
  else
    let c := c.when (!out.isEmpty) fun c => c.dma r.fn (.hostWrite r.fn r.dst out)
    c.ringComplete (160 + r.pair) (completion r.cookie status out.length (beBytes 12 r.iv.toNat))

/-- LA_COMPLETE: of a request that a Pan executes, once the Pan has served it (R99). Poison in its staging lines completes
it as POISONED (R284). -/
def Chip.laComplete (c : Chip) (pair : Nat) : Chip :=
  match (c.laOf pair).head? with
  | none => c
  | some (n, r) =>
    match r.status, r.key with
    | some st, _ => c.laFinish n r [] st
    | none, some (k256, key) =>
      match (c.findReq fun q => q.kind.lookAside && q.subject = n).bind fun q => c.laServe q.1 q.2 with
      | none => c
      | some c =>
        match c.linesRead r.kid r.lines with
        | (none, c) => c.laFinish n r [] 0xF
        | (some _, c) =>
          let (out, st) := laResult r k256 key
          c.laFinish n r out st
    | none, none => c

def execLaComplete (pair : Fin 96) := lift fun c => c.laComplete pair.val

/-! ### Errors in a Pan (R113 to R116) -/

/-- R114: a request is replayed on another Pan, or held until one has room. -/
def Chip.replay (c : Chip) (k : Nat) (r : PanReq) : Chip :=
  if 3 ≤ r.replays then c.replayFail k r
  else
    let c := c.bump F.PAN_REPLAY_CNT_count [r.pan]
    let j := (c.panFor r r.pan).getD 24
    let c := c.setPanReq k (some { r with pan := j, replays := r.replays + 1, avoid := r.pan })
    c.when (j < 24) fun c => c.cacheUse j r.slot r.gen

/-- The number of a request kind in the order of Table 04.2. -/
def ReqKind.code : ReqKind → Nat
  | .sealing => 0 | .opening => 1 | .kstream => 2 | .laEnc => 3 | .laDec => 4 | .cmac => 5

/-- R113, R114, R116: an error of the Pan that replays a request is one of a resource of the recovery in progress (R439). An error is found in a Pan at a request, by the check of that place in R113's list. -/
def Chip.panError (c : Chip) (k check : Nat) : Chip :=
  match c.panReq k with
  | none => c
  | some r =>
    if 24 ≤ r.pan || r.served then c
    else
      let j := r.pan
      let c := ((c.setF F.PAN_STAT_err [j] 1).bump F.PAN_ERR_CNT_count [j]).raise Ev.PAN_ERR (0x200 + j)
        [(4, check), (4, r.kind.code)]
      let c := (c.when (check = 1) fun c => c.cacheDrop j r.slot r.gen).panTest j
      let c := if r.kind = .opening then c.onFrame r.subject fun f c => c.setFrame r.subject (some { f with icvOk := false })
        else c.replay k r
      c.transient 2 j check (r.avoid < 24 && (c.faultClass 2).current.isSome)

def execPanError (req : Nat) (check : Fin 6) := lift fun c => c.panError req check.val

/-! ### Tests (R116) -/

/-- A Pan's test ends, and PAN_CTL.kat with it. A pass returns the Pan to where it came from; the third failure in a row retires it. -/
def Chip.katEnd (c : Chip) (j : Nat) (pass : Bool) : Chip :=
  if c.panState j ≠ 2 then c
  else
    let c := (c.modPan fun p => { p with tested := SMap.set (fun _ => true) p.tested j pass }).setF F.PAN_CTL_kat [j] 0
    if pass then (c.setF F.PAN_STAT_kat_fails [j] 0).setPan j (c.panHome j)
    else
      let n := min 3 (c.getF F.PAN_STAT_kat_fails [j] + 1)
      let c := (c.setF F.PAN_STAT_kat_fails [j] n).setF F.PAN_STAT_kat_fail [j] 1
      if n < 3 then c else c.permanent 2 j 0 2

def execPanKatEnd (pan : Fin 24) (pass : Bool) := lift fun c => c.katEnd pan.val pass

end Sys2Proof.Machine
end

