-- ==== Sys2Proof/Machine/Frames.lean ====
section
/-! DEFINITION. Chapter 02 and R102: reception of frames, the early opening of line frames, Pan admission and sealing,
verdicts, cut-through, and the driver's frames. -/
namespace Sys2Proof.Machine

/-! ### Reception (R30 to R35, R69) -/

/-- R209: the timestamps of a sub-port, which its lowest lane captures, are valid. -/
def Chip.lanesCal (c : Chip) (p b : Nat) : Bool := c.stampValid (c.lowLane p b)

/-- R208: the instant at which the first bit of a frame whose byte `n` arrives now crossed the MDI. -/
def Chip.rxStamp (c : Chip) (p b n : Nat) : Clock :=
  c.mdiTime F.TIM_LANE_ADJ_rx (c.lowLane p b) (clockBack c.tim.clock (n * 8000 * 2 ^ 64 / c.macRate p))

/-- R256, R257: a learn request is posted. -/
def Chip.postLearn (c : Chip) (l : Learn) : Chip :=
  if c.fwd.learns.any fun x => x.key = l.key && x.dest = l.dest then c
  else if c.fwd.learns.length < 4096 then c.modFwd fun t => { t with learns := t.learns ++ [l] }
  else ((c.bump F.FWD_LRN_DROP_CNT_count []).setF F.FWD_STAT_lrn_full [] 1).raise Ev.FWD_LRN_FULL 0x21D

/-- The record of a frame that enters the part, in a buffer under the key ID that MEM_FRAME_KID names (R274). -/
def Chip.rxFrame (c : Chip) (p b : Nat) (d : Bytes) : Frame :=
  let n := d.length + 4
  { data := d, entry := p, sub := b, ts := c.rxStamp p b n, tsValid := c.lanesCal p b,
    summary := parseSummary (d ++ fcs d) (c.hdrWin p b), len := n,
    kid := if c.noKeys then none else some (c.getF F.MEM_FRAME_KID_kid []) }

/-- A frame enters its ingress pool, its bytes written to on-die lines (R276). -/
def Chip.rxStore (c : Chip) (f : Frame) : Chip := (c.addFrame f).2.dieStore (c.addFrame f).1

/-- R33: the ingress pool has no room for a frame that starts. Before the key IDs are loaded no buffer is allocated (R275);
once the generator has failed there are none to wait for, and the frame's queue refuses it. -/
def Chip.poolFull (c : Chip) (p b : Nat) : Bool :=
  c.getF F.PRT_SUB_CFG_pool [p, b] * 65536 < c.poolUsed (schedOf p b) + 16032 || (c.noKeys && !c.entFailed)

/-- R30: the drop reason of a whole frame, or 0. A frame with two of the faults counts under the first of RX_FCS, RX_RUNT and
RX_OVERSIZE (DESIGN CHOICE, log entry 52). -/
def Chip.macCheck (c : Chip) (p b : Nat) (d : Bytes) (fcsOk : Bool) : Nat :=
  let n := d.length + 4
  if !fcsOk then 0x81 else if n < 64 then 0x82 else if c.maxLen p b < n then 0x83 else 0

/-- A drop at a port of entry (R60). -/
def Chip.rxDrop (c : Chip) (p b reason : Nat) : Chip := c.portCount (schedOf p b) (0x20 + (reason - 0x80))

/-- The counts of a frame that passes the checks of R30. -/
def Chip.rxCount (c : Chip) (p b : Nat) (d : Bytes) : Chip :=
  (c.portCount (schedOf p b) 0).portCount (schedOf p b) 1 (d.length + 4)

/-- A client-protected line port receives a frame in clear (Table 19.4). -/
def Chip.rxClear (c : Chip) (p b : Nat) (d : Bytes) : Chip :=
  c.when (c.macsecMode p b && be16 d 12 ≠ 0x88E5) fun c => c.portCount (schedOf p b) 13

/-- R234: a meter gets back the tokens that a frame of `n` bytes took, if it took any, and its colour counters their
counts. -/
def Chip.meterBack (c : Chip) (i col n : Nat) (took : Bool) : Chip :=
  let m := c.meter i
  let u := n * 4294967296
  let cb := if col = 0 then min (m.cbs * 4294967296) (m.cb + u) else m.cb
  let pb := if col = 1 || (col = 0 && !m.rfc4115) then min (m.pbs * 4294967296) (m.pb + u) else m.pb
  let c := c.setMeter i (if took && m.en && col < 2 then { m with cb := cb, pb := pb } else m)
  let k := 0x34000 + i * 8 + 2 * col
  (c.cntSet false k (c.cntGet false k - 1)).cntSet false (k + 1) (c.cntGet false (k + 1) - BitVec.ofNat 64 n)

/-- R32: a frame fails the checks of R30 after its classification has begun, or is a MAC control frame: the classification's
result is discarded, and the meters take their tokens back (R234), also where the part has dropped the frame since. -/
def Chip.rxUndo (c : Chip) (n : Nat) (f : Frame) : Chip :=
  let c := match f.stage with
    | .ladle k => c.endThread k
    | _ => c
  (c.each f.taken fun c t => c.meterBack t.1 t.2.1 t.2.2.1 t.2.2.2).setFrame n none

/-- R60: a frame that the part dropped before its last byte is counted once that byte has come and the checks of R30 have
passed, and so is the event of INGRESS_FULL raised (DESIGN CHOICE, log entry 62). -/
def Chip.rxLost (c : Chip) (p b reason : Nat) : Chip :=
  (c.when (reason = 0x84) fun c => c.portEvent Ev.INGRESS_FULL p b).rxDrop p b reason

/-- The frame whose window a sub-port has received and whose last byte not. -/
def Chip.comingFrame (c : Chip) (p b : Nat) : Option (Nat × Frame) :=
  c.frameList.find? fun x => x.2.coming && x.2.entry = p && x.2.sub = b

/-- The last byte of a frame arrives: it is checked (R30, R31), and a learn request left with it is posted (R256). A frame
dropped meanwhile is counted; what its OPEN still needs of it stays (R102). -/
def Chip.rxLast (c : Chip) (n : Nat) (f : Frame) (d : Bytes) (fcsOk : Bool) : Chip :=
  let p := f.entry
  let b := f.sub
  let r := c.macCheck p b d (fcsOk && c.portUp p b)
  if r ≠ 0 then (c.rxUndo n f).rxDrop p b r
  else
    let c := c.rxCount p b d
    if be16 d 12 = 0x8808 then (c.rxUndo n f).portCount (schedOf p b) 30
    else
      let c := (c.rxClear p b d).setFrame n (some { f with coming := false, learn := none })
      match f.lost, f.learn with
      | some r, _ => (c.rxLost p b r).when (!f.openPending) fun c => c.setFrame n none
      | none, some l => c.postLearn l
      | none, none => c

/-- A frame, FCS excluded, has been received whole by the MAC of an up sub-port. It is checked (R30, R31), admitted to
the ingress pool or dropped (R33), and waits there with its parse summary. -/
def Chip.receive (c : Chip) (p b : Nat) (d : Bytes) (fcsOk : Bool) : Chip :=
  let r := c.macCheck p b d fcsOk
  if !(c.running && c.portUp p b) then c
  else if r ≠ 0 then c.rxDrop p b r
  else
    let c := c.rxCount p b d
    if be16 d 12 = 0x8808 then c.portCount (schedOf p b) 30
    else if c.poolFull p b then (c.rxClear p b d).rxLost p b 0x84
    else (c.rxClear p b d).rxStore (c.rxFrame p b d)

/-- R32, R33: the header window of a frame has arrived. Its admission is decided now: it is dropped, which its last byte
counts, or its classification can begin. The command carries the frame as its bytes arrive. -/
def Chip.rxFirst (c : Chip) (p b : Nat) (d : Bytes) : Chip :=
  if !(c.running && c.portUp p b) then c
  else if c.poolFull p b then
    (c.addFrame { c.rxFrame p b d with coming := true, stage := .gone, lost := some 0x84, kid := none }).2
  else c.rxStore { c.rxFrame p b d with coming := true, ts := c.rxStamp p b (min (c.hdrWin p b) (d.length + 4)) }

/-- FRAME_RECEIVE: the window of a frame arrives, the last byte of one whose window came before, or a frame whole. -/
def execFrameReceive (port : Fin 16) (sub : Fin 4) (frame : Bytes) (part : Arrival) := lift fun c =>
  match c.comingFrame port.val sub.val with
  | some (n, f) => if part.window then c else c.rxLast n f (if f.data.isEmpty then frame else f.data) part.fcsOk
  | none => if part.window then c.rxFirst port.val sub.val frame else c.receive port.val sub.val frame part.fcsOk

/-! ### The early lookup and OPEN (R41, R68, R69, R85, R102) -/

/-- The frame is opened early: its summary has macsec = 1 on a line sub-port in MACsec mode, or ingot = 1 on one in ingot
mode, which receives no other (R62, R63; DEDUCED, log entry 21). -/
def Chip.opensEarly (c : Chip) (f : Frame) : Bool :=
  (c.macsecMode f.entry f.sub && f.macsec) || (c.ingotMode f.entry f.sub && f.isIngot)

/-- R102, R112: an earlier frame of the sub-port has not had its early lookup: they are made in arrival order. -/
def Chip.lookupBefore (c : Chip) (n : Nat) (f : Frame) : Bool :=
  c.frameList.any fun e => e.1 < n && e.2.entry = f.entry && e.2.sub = f.sub && e.2.early.isNone && c.opensEarly e.2 &&
    (match e.2.stage with | .pool | .ladle _ => true | _ => false)

def Chip.setEarly (c : Chip) (n : Nat) (e : Early) : Chip :=
  c.onFrame n fun f c => c.setFrame n (some { f with early := some e })

/-- R165: a use of an SA handle with an old generation. -/
def Chip.staleSa (c : Chip) (h : Word) : Chip :=
  ((c.bump F.SAX_STALE_CNT_count []).setF F.SAX_STAT_stale [] 1).raise Ev.SA_STALE (saSource (saOf h))

/-- R154: the receive channel that holds an SCI on a line sub-port. -/
def Chip.rxChannel (c : Chip) (p b sci : Nat) : Option Nat :=
  (c.sax.channels.find? fun e =>
    e.2.valid && e.2.dir && !e.2.portCh && 8 + e.2.linePort = p && e.2.subPort = b && e.2.sci.toNat = sci).map (·.1)

/-- The Pan work of opens is admitted in ACTIVE and STANDBY (Table 14.1). An OPEN whose key is not VALID is refused
(R59); otherwise it is issued, and what it will give is fixed by the key it takes now. -/
def Chip.issueOpen (c : Chip) (n : Nat) (e : Early) (i pn : Nat) (plain : Bytes) (ok : Bool) : Chip :=
  let k := c.slot (slotOf (c.sa i).key)
  let refuse := fun (r : Nat) => c.setEarly n { e with fail := r }
  if !c.inMode [.active, .standby] || c.pan.stopped then refuse 0x89
  else if k.state = 3 then refuse 0x8C
  else if k.state ≠ 1 then refuse 0x8B
  else
    let c := c.onFrame n fun f c =>
      c.setFrame n (some { f with early := some { e with opened := true }, sa := some i, pn := pn, plain := plain, icvOk := ok })
    c.panAdmit .opening (slotOf (c.sa i).key) k.generation n 0 (plain.length / 16 + 1)

/-- R169: a frame on an AN whose SA is held. -/
def Chip.rxEarly (c : Chip) (i : Nat) : Chip :=
  (c.count false (0x8000 + (c.sa i).channel)).raise Ev.RX_EARLY (saSource i)

/-- The early lookup of a MACsec frame (R69), and the tests of R68 and R41. -/
def Chip.earlyMacsec (c : Chip) (n : Nat) (f : Frame) : Chip :=
  let p := f.entry
  let b := f.sub
  let s := schedOf p b
  let t := rxTag f.data f.typeAt
  let sci := if t.sc || t.es then t.sci
    else c.getF F.PRT_RX_SCI_HI_sci_hi [p - 8, b] * 2 ^ 32 + c.getF F.PRT_RX_SCI_LO_sci_lo [p - 8, b]
  let ch := c.rxChannel p b sci
  let sa := ch.bind fun ch => (c.chan ch).saAt t.an
  let e : Early := match ch, sa.filter fun i => (c.sa i).state = 1 with
    | some ch, some i => { hit := true, handle := c.saHandle i, an := t.an, channel := ch }
    | _, _ => {}
  let badTag := fun (c : Chip) =>
    ((c.portCount s 14).portEvent Ev.SECTAG_BAD p b).setEarly n { e with fail := 0x8B, testFail := true }
  if !t.good f.data f.typeAt true then badTag c
  else
    match ch, sa with
    | none, _ => (c.portCount s 15).setEarly n {}
    | some ch, none => (c.count false (0x8000 + ch)).setEarly n {}
    | some ch, some i =>
      let a := c.sa i
      if a.state ≠ 1 then (c.count false (0x8000 + ch)).setEarly n {}
      else if a.hold then (c.rxEarly i).setEarly n { e with fail := 0x8B }
      else if !t.good f.data f.typeAt (suiteXpn a.suite) then badTag c
      else
        let pn := a.recoverPn t.pn
        if !a.accepts pn then (c.count true (i * 4 + 3)).setEarly n { e with fail := 0x8E, testFail := true }
        else
          let (plain, ok) := c.macOpen i pn p b f.data f.typeAt
          c.issueOpen n e i pn plain ok

/-- The early lookup of an ingot, and the tests of R85. One for which no SA is found is a miss, whose outcome is the
program's (R102). -/
def Chip.earlyIngot (c : Chip) (n : Nat) (f : Frame) : Chip :=
  let p := f.entry
  let b := f.sub
  let s := schedOf p b
  let (ver, an, size, gen, i, pn, seq) := rxIngot f.data f.typeAt
  let a := c.sa i
  let k := c.chan a.channel
  let ours := a.dir && a.an = an && k.portCh && 8 + k.linePort = p && k.subPort = b
  let g : IngotPort := SMap.get (fun _ => {}) c.path.ingots ((p - 8) * 4 + b)
  let e : Early :=
    if a.state = 1 && ours then { hit := true, handle := c.saHandle i, an := an, channel := a.channel } else {}
  let failed := fun (c : Chip) (r : Nat) => c.setEarly n { e with fail := r, testFail := true }
  if f.data.length + 24 ≠ c.ingotSize p b || ver ≠ 1 || size ≠ c.getF F.PRT_FRM_CFG_size [p - 8, b] then
    failed ((c.portCount s 22).portEvent Ev.INGOT_HDR_BAD p b) 0x8B
  else if gen ≠ a.generation then failed (c.staleSa (mkSaHandle gen i)) 0x8A
  else if !e.hit then (c.when (a.state = 2 && ours) fun c => c.count false (0x8000 + a.channel)).setEarly n {}
  else if a.hold then (c.rxEarly i).setEarly n { e with fail := 0x8B }
  else if g.rxSync && seq ≤ g.rxSeq then failed (c.portCount s 23) 0x8E
  else if !a.accepts pn then failed (c.count true (i * 4 + 3)) 0x8E
  else
    let (body, ok) := c.ingotOpen i pn f.data f.typeAt
    c.issueOpen n e i pn body ok

/-- R102: the early lookup of a frame whose SecTAG or ingot header is in the buffer, its tests, and its OPEN. -/
def Chip.earlyLookup (c : Chip) (n : Nat) : Chip :=
  c.onFrame n fun f c =>
    let classified := match f.stage with
      | .pool | .ladle _ => true
      | _ => false
    if !classified || f.early.isSome || !c.opensEarly f || c.lookupBefore n f then c
    else if f.macsec then c.earlyMacsec n f
    else c.earlyIngot n f

def execEarlyLookup (frame : Nat) := lift fun c => c.earlyLookup frame

/-! ### Into a queue (R223, R538) -/

/-- A frame goes to a queue at a stage; its egress port must be up (R539). R221: a transit queue takes frames of the Runner
ring and no local ones; a frame that reaches a queue of the other kind is refused like one whose queue is not
enabled (DESIGN CHOICE, log entry 51). -/
def Chip.enqueue (c : Chip) (n q : Nat) (stage : FStage) : Chip :=
  c.onFrame n fun f c =>
    if isQueue q && (c.queueCfg q).transit ≠ (f.entry ≥ 16) then c.refuse n q false else
    let (p, b) := portOf (c.queueCfg q).port
    let c := c.setFrame n (some { f with outPort := p, outSub := b, len := f.data.length + 4 })
    if p < 16 && !c.portUp p b then c.dropFrame n 0x93 else c.admitFrame n q stage

/-! ### Pan admission and sealing (R36 to R38, R166) -/

/-- R166: the SA that a program's handle seals under: the current SA of its channel, where the handle names a VALID
transmit SA or the one that the last switch replaced. -/
def Chip.sealTarget (c : Chip) (h : Word) : Nat :=
  let i := saOf h
  let a := c.sa i
  let k := c.chan a.channel
  if k.prevTx = some i || (a.state = 1 && !a.dir) then k.current.getD i else i

/-- R157: the frames of a channel go to one line sub-port; `p` and `b` name another one. A frame that leaves by a Runner port
is held to none: the far device's egress is not tested here (DESIGN CHOICE, log entry 63). -/
def Chip.wrongPort (c : Chip) (h : Word) (p b : Nat) : Bool :=
  let k := c.chan (c.sa (c.sealTarget h)).channel
  isLine p && (8 + k.linePort ≠ p || k.subPort ≠ b)

/-- R37: the tests at Pan admission; the drop reason of the first that fails, or 0. -/
def Chip.sealTest (c : Chip) (h : Word) : Nat :=
  let a := c.sa (c.sealTarget h)
  let k := c.slot (slotOf a.key)
  if !c.inMode [.active] || c.pan.stopped then 0x89
  else if bits h.toNat 23 16 ≠ 0 then 0x8B
  else if genOf h ≠ (c.sa (saOf h)).generation then 0x8A
  else if a.state ≠ 1 || a.dir then 0x8B
  else if k.state = 3 then 0x8C
  else if k.state ≠ 1 then 0x8B
  else if a.stopped then 0x8D
  else 0

/-- The tests at Pan admission for a frame that leaves by port `p`, sub-port `b`: those of R37, then that it is the port of
the SA's channel. One bound for another line sub-port is dropped as NO_SA, since R157 lets no frame of the SA leave
there (DESIGN CHOICE, log entry 53). -/
def Chip.admitTest (c : Chip) (h : Word) (p b : Nat) : Nat :=
  let r := c.sealTest h
  if r = 0 && c.wrongPort h p b then 0x8B else r

/-- R417, R420: a PN may be allocated: no yield is in progress, and while the pair is SYNCED the holding device has
reserved it. -/
def Chip.mayAllocate (c : Chip) (i : Nat) : Bool :=
  c.prs.yieldAt.isNone && (c.prs.link ≠ 4 || !c.holding || (c.sa i).nextPn < (c.sa i).reserved)

/-- R162: the allocation that takes the last PN of an SA, under the tests of R37 and the limits of R417 and R420. No frame or
slot of its own stands behind it: a SEAL or a slot that takes the last PN stops the SA by its own command (DESIGN CHOICE,
log entry 63). -/
def Chip.pnLimit (c : Chip) (i : Nat) : Chip :=
  let s := c.sa i
  let h := c.saHandle i
  if c.sealTarget h = i && c.sealTest h = 0 && c.mayAllocate i && s.nextPn = lastPn s.suite then (c.allocPn i).2 else c

def execPnLimitReached (sa : Fin 65536) := lift fun c => c.pnLimit sa.val

/-- R112: an earlier frame of a queue has not passed Pan admission. -/
def Chip.sealBefore (c : Chip) (n : Nat) (f : Frame) : Bool :=
  ((c.queueSt (f.queue.getD 0)).frames.takeWhile (· ≠ n)).any fun m => (c.frame m).any fun g => g.stage = .admission

/-- A frame reaches Pan admission, in the order of its queue: it is dropped, waits for a reservation, or takes the next
PN and is sealed by a Pan. -/
def Chip.panAdmission (c : Chip) (n : Nat) : Chip :=
  c.onFrame n fun f c =>
    match f.stage, f.sealMark with
    | .admission, some h =>
      let r := c.admitTest h f.outPort f.outSub
      let i := c.sealTarget h
      if r ≠ 0 then (c.when (r = 0x8A) fun c => c.staleSa h).dropFrame n r
      else if !c.mayAllocate i || c.sealBefore n f then c
      else
        let a := c.sa i
        let k := c.slot (slotOf a.key)
        let (pn, c) := c.allocPn i
        let (p, b) := c.sealPort f
        let sci := if c.sciTx p b then (c.chan a.channel).sci.toNat else beNat (slice f.data 6 6) * 2 ^ 16 + 1
        let tagLen := if c.sciTx p b then 16 else 8
        let w := some (suite256 a.suite, k.key, macIv a sci pn, tagLen, c.confOff p b)
        let c := c.setFrame n (some { f with
          plain := f.data, data := c.macSeal i pn p b f.data, sa := some i, pn := pn, sealWith := w, stage := .pan })
        c.panAdmit .sealing (slotOf a.key) k.generation n 0 (f.data.length / 16 + 1)
    | _, _ => c

def execPanAdmission (frame : Nat) := lift fun c => c.panAdmission frame

/-- The octets that a seal or an open en- or deciphers: the secure data behind the confidentiality offset. -/
def Chip.secretLen (c : Chip) (p b : Nat) (plain : Bytes) : Nat := plain.length - 12 - c.confOff p b

/-- A Pan has sealed a frame. CNT_SEALED counts it at the line port that sends it: one sealed for a line port of another device
is counted there, when it enters that port's queue (DESIGN CHOICE, log entry 52). -/
def Chip.sealComplete (c : Chip) (n : Nat) : Chip :=
  match c.turnOf fun r => r.kind = .sealing && r.subject = n with
  | none => c
  | some (k, _) =>
    let c := c.panDone k
    c.onFrame n fun f c =>
      let i := f.sa.getD 0
      let (p, b) := c.sealPort f
      let c := (c.count true (i * 4)).count true (i * 4 + 1) (c.secretLen p b f.plain)
      let c := c.when (isLine f.outPort) fun c => c.portCount (schedOf p b) 4
      if c.readsPoison f then c.poisonDrop n
      else (c.setFrame n (some { f with stage := .queued })).frameWrite n

def execSealComplete (frame : Nat) := lift fun c => c.sealComplete frame

/-! ### Frames to the driver while an OPEN runs (R50, R311) -/

/-- One emission of a bound frame to the driver: ring, reason, program data. -/
def Frame.emission (f : Frame) (e : Nat × Nat × Word) : Frame := { f with reason := e.2.1, progData := e.2.2 }

/-- The verdict of a bound frame has failed. -/
def Frame.untrusted (f : Frame) : Bool := f.bound.isSome && f.verdict.getD 0 ≠ 0

/-- An emission whose verdict is known, or that needs none. R44: nothing of a failed ingot leaves. -/
def Chip.hostEmit (c : Chip) (f : Frame) (e : Nat × Nat × Word) (body : Bytes) : Chip :=
  if f.isIngot && f.untrusted then c
  else c.toHost (f.emission e) e.1 body f.bound.isSome f.untrusted (f.bound.getD 0)

/-- R50: an emission of a frame that is being opened takes its buffer, which the plaintext is written to; the descriptor
waits for the verdict. R44: nothing of an ingot leaves before its verdict. -/
def Chip.hostTake (c : Chip) (n : Nat) (f : Frame) (e : Nat × Nat × Word) : Chip :=
  let c' := c.setFrame n (some { f with hostWaits := f.hostWaits ++ [e] })
  if f.isIngot then c'
  else if c.excFree e.1 then c'.takeBuffer e.1 f.plain n none
  else (c.setFrame n (some f)).excFull f e.1

/-- The first buffer of a list that awaits the verdict of frame `n` has its descriptor. -/
def describe (n : Nat) (d : Bytes) : List BufWait → List BufWait
  | [] => []
  | w :: l => if w.frame = n && w.desc.isNone then ⟨n, some d⟩ :: l else w :: describe n d l

/-- R50: the descriptor of an emission whose buffer was taken, after the verdict. -/
def Chip.hostDescribe (c : Chip) (n : Nat) (f : Frame) (e : Nat × Nat × Word) : Chip :=
  let r := 8 + e.1
  let g := c.ring r
  if g.waits.any fun w => w.frame = n && w.desc.isNone then
    let d := c.excDesc (f.emission e) e.1 f.plain true f.untrusted (f.bound.getD 0)
    let c := c.setRing r { g with waits := describe n d g.waits }
    (c.flushRing r g.waits.length).portCount (schedOf f.entry f.sub) (if f.untrusted then 9 else 8)
  else c

/-- The emissions to the driver that waited for a frame's verdict; none of a failed ingot (R44). -/
def Chip.flushHost (c : Chip) (n : Nat) : Chip :=
  c.onFrame n fun f c =>
    let c := c.setFrame n (some { f with hostWaits := [] })
    if !f.isIngot then c.each f.hostWaits fun c e => c.hostDescribe n f e
    else c.each f.hostWaits fun c e => c.hostEmit f e f.plain

/-! ### Verdicts (R42, R45 to R50) -/

/-- What a verdict does to the SA: the window and its statistics. The verdict is 0 passed, 1 ICV failure, 2 replay
failure; a context that was reinstalled meanwhile keeps its own window. -/
def Chip.verdictSa (c : Chip) (f : Frame) (octets : Nat) : Nat × Chip :=
  let i := f.sa.getD 0
  let a := c.sa i
  let same := c.saHandle i = (f.early.getD {}).handle
  if !f.icvOk then (1, c.count true (i * 4 + 2))
  else if same && !a.accepts f.pn then (2, c.count true (i * 4 + 3))
  else
    let c := c.when same fun c => c.setSa i (a.record f.pn)
    (0, (c.count true (i * 4)).count true (i * 4 + 1) octets)

/-- R47: a frame that a client framer started fails its verdict. -/
def Chip.stompCount (c : Chip) (f : Frame) (v : Nat) : Chip := c.portCount (schedOf f.outPort f.outSub) (5 + v)

/-- R45, R46: a selected frame that no framer has started fails its verdict while it is held. -/
def Chip.unselect (c : Chip) (n : Nat) (f : Frame) : Chip :=
  let s := schedOf f.outPort f.outSub
  match c.picked s with
  | some k => if k.frame = n then (c.setPicked s none).unpick k else c
  | none => c

/-- R42: the verdict of an opened MACsec frame is formed, in arrival order, and the frame goes its way. -/
def Chip.openVerdict (c : Chip) (n : Nat) : Chip :=
  match c.turnOf fun r => r.kind = .opening && r.subject = n with
  | none => c
  | some (k, _) =>
    match c.frame n with
    | none => c.panDone k
    | some f =>
      if f.isIngot || f.coming || c.openBefore n f then c
      else
        let c := c.panDone k
        let (v, c) := c.verdictSa f (c.secretLen f.entry f.sub f.plain)
        let c := c.when (v = 0) fun c => c.portCount (schedOf f.entry f.sub) 5
        let f := { f with verdict := some v }
        let c := (c.setFrame n (some f)).flushHost n
        let lost := if v = 1 then 0x8F else 0x90
        match f.stage with
        | .gone => (c.when (f.cut && v ≠ 0) fun c => c.stompCount f v).setFrame n none
        | .held => c.dropFrame n (if v = 0 then 0x89 else lost)
        | .opening => if v = 0 then c.onFrame n fun f c => c.setFrame n (some { f with stage := .queued })
          else c.dropFrame n lost
        | .sending =>
          if f.bound.isNone then c
          else if f.cut then
            if v = 0 then c.depart n false
            else
              let c := (c.stompCount f v).portEvent Ev.RX_STOMP f.outPort f.outSub
                [(4, (f.early.getD {}).handle.toNat), (8, f.pn), (4, f.outPort)]
              c.depart n true
          else if v = 0 then c
          else (c.unselect n f).dropFrame n lost
        | _ => c

def execOpenVerdict (frame : Nat) := lift fun c => c.openVerdict frame

/-! ### The client framer (R45, R241) -/

/-- The client framer starts the frame that its port has selected: before its verdict where R45 still lets it, else
held until the verdict; one without an outstanding verdict after its repeated fit test. -/
def Chip.clientStart (c : Chip) (n : Nat) : Chip :=
  c.onFrame n fun f c =>
    let s := schedOf f.outPort f.outSub
    match c.picked s with
    | none => c
    | some k =>
      if k.frame ≠ n || 8 ≤ f.outPort then c
      else if !f.unproved then c.startPicked s k
      else
        let c := c.setPicked s none
        if c.cutThrough s { f with stage := .opening } then c.setFrame n (some { f with cut := true }) else c.unpick k

def execClientFrameStart (frame : Nat) := lift fun c => c.clientStart frame

/-! ### Frames from the driver (R52, R53, Table 02.6) -/

/-- An exception-out descriptor. -/
structure ExcOut where
  buf : Nat
  length : Nat
  action : Nat
  cls : Nat
  tsReq : Bool
  oneStep : Bool
  sub : Nat
  port : Nat
  cfOff : Nat
  handle : Word
  cookie : DWord
  reserved : Bool
  deriving DecidableEq, Repr

/-- The descriptor in 32 bytes. -/
def excOut (b : Bytes) : ExcOut :=
  let w := fun o => leNat (slice b o 4)
  { buf := leNat (slice b 0 8), length := bits (w 8) 15 0, action := bits (w 8) 17 16, cls := bits (w 8) 20 18,
    tsReq := bit (w 8) 21, oneStep := bit (w 8) 22, sub := bits (w 12) 1 0, port := bits (w 12) 6 2,
    cfOff := bits (w 12) 23 16, handle := BitVec.ofNat 32 (w 16), cookie := BitVec.ofNat 64 (leNat (slice b 24 8)),
    reserved := bits (w 8) 31 23 ≠ 0 || bits (w 12) 15 7 ≠ 0 || bits (w 12) 31 24 ≠ 0 || w 20 ≠ 0 }

/-- R52, R53: the status with which a descriptor is refused, or 0. A length outside the port's limits gives LEN_LIMIT, an SA
handle on CLEAR or CLIENT gives BAD_DESC (DESIGN CHOICE, log entry 52). -/
def Chip.excCheck (c : Chip) (e : ExcOut) : Nat :=
  let wire := e.length + 4 + (if e.action = 1 then (if c.sciTx e.port e.sub then 32 else 24) else 0)
  if e.reserved || e.action = 3 || 16 ≤ e.port || !c.subExists e.port e.sub || (e.action ≠ 1 && e.handle ≠ 0) ||
      (e.action = 1 && bits e.handle.toNat 23 16 ≠ 0) || (e.oneStep && e.length < e.cfOff + 36) then 0x10
  else if (decide (e.action = 2) == isLine e.port) || c.ingotMode e.port e.sub then 0x0D
  else if c.inMode [.standby] && isLine e.port then 0x0C
  else if e.action = 1 && c.admitTest e.handle e.port e.sub ≠ 0 then
    (hostStatus (c.admitTest e.handle e.port e.sub)).getD 0x10
  else if e.length < 60 || 15996 < e.length || c.maxLen e.port e.sub < wire then 2
  else 0

/-- R52: a descriptor is fetched and checked, its frame read, and the frame put into its port's direct queue. -/
def Chip.excFetch (c : Chip) (ring : Nat) (desc frame : Option Bytes) : Chip :=
  let r := 24 + ring
  match c.fetchEntry r desc with
  | (none, c) => c
  | (some b, c) =>
    let e := excOut b
    let h := (some r, e.cookie, b2n e.tsReq + 2 * b2n e.oneStep, e.cfOff)
    let st := c.excCheck e
    if st ≠ 0 then
      let c := c.when (e.action = 1 && st = 3) fun c => c.staleSa e.handle
      c.hostDone h st none
    else
      match frame with
      | none => (c.dmaReadFailed e.buf).hostDone h 0x0E none
      | some d =>
        let d := slice d 0 e.length
        let m := if e.action = 1 then some e.handle else none
        let (n, c) := c.addFrame {
          data := d, entry := e.port, sub := e.sub, outPort := e.port, outSub := e.sub, sealMark := m, cls := e.cls,
          len := e.length + 4, host := some h }
        c.enqueue n (directQueue (schedOf e.port e.sub) e.cls) (if e.action = 1 then .admission else .queued)

def execExcOutFetch (ring : Fin 16) (desc frame : Option Bytes) := lift fun c => c.excFetch ring.val desc frame

end Sys2Proof.Machine
end

