-- ==== Sys2Proof/Machine/Ingot.lean ====
section
/-! DEFINITION. Chapter 03: the slots of an ingot port from allocation to departure, and received ingots. -/
namespace Sys2Proof.Machine

/-- The key of a line sub-port's ingot sides. -/
def ingotKey (line b : Nat) : Nat := line * 4 + b

/-! ### Allocation and keystream (R72, R78, R82) -/

/-- R153: the current transmit SA of a line sub-port's port channel. -/
def Chip.ingotSa (c : Chip) (line b : Nat) : Option Nat :=
  (c.sax.channels.find? fun e =>
    e.2.valid && !e.2.dir && e.2.portCh && e.2.linePort = line && e.2.subPort = b).bind fun e => e.2.current

/-- The slot numbers of an ingot port that the pair's reservation covers (R417). -/
def Chip.seqReserved (c : Chip) (k seq : Nat) : Bool :=
  c.prs.link ≠ 4 || !c.holding || seq < SMap.get (fun _ => 0) c.prs.seqLimits k

/-- R82: the tests of R37 fail for a slot. -/
def Chip.slotHalt (c : Chip) (line b : Nat) : Chip :=
  let k := ingotKey line b
  let p := 8 + line
  let g := c.ingot k
  let c := c.portCount (schedOf p b) 20
  let c := c.when (!g.halted) fun c => c.portEvent Ev.INGOT_HALT p b
  (c.setIngot k { g with halted := true }).setF F.PRT_FRM_STAT_tx_halt [line, b] 1

/-- R211, R214: the predicted departure of the slot whose allocation is now: its start lies CLOSE_LEAD + 512 ns ahead
(Table 03.8), with the fixed transmit path behind it, and `phase` × 2^-16 ns into that ns. -/
def Chip.slotDeparture (c : Chip) (line b phase : Nat) : Nat :=
  let lead := c.getF F.PRT_INGOT_LEAD_close [line, b] * 32 + 512 + Config.txPath % 512
  packTime (c.mdiTime F.TIM_LANE_ADJ_tx (c.lowLane (8 + line) b)
    (c.mapped (schedOf (8 + line) b) (c.predicted lead phase))) c.holdover

/-- A slot is allocated, for a predicted departure, or halts. It takes its slot number now, so that the number of a slot later
sent as idle (R82) is skipped (DESIGN CHOICE, log entry 64). -/
def Chip.slotAlloc (c : Chip) (line b phase : Nat) : Chip :=
  let p := 8 + line
  let k := ingotKey line b
  let g := c.ingot k
  if !(c.ingotMode p b && c.portUp p b) then c
  else
    match c.ingotSa line b with
    | none => c.slotHalt line b
    | some i =>
      if c.sealTest (c.saHandle i) ≠ 0 then c.slotHalt line b
      else if !c.mayAllocate i || !c.seqReserved k g.nextSeq then c
      else
        let a := c.sa i
        let s := c.slot (slotOf a.key)
        let (pn, c) := c.allocPn i
        let da := c.getF F.PRT_INGOT_DA_HI_da_hi [line, b] * 2 ^ 32 + c.getF F.PRT_INGOT_DA_LO_da_lo [line, b]
        let mac := c.getF F.PRT_MAC_HI_mac [p, b] * 2 ^ 32 + c.getF F.PRT_MAC_LO_mac [p, b]
        let head := beBytes 6 da ++ beBytes 6 mac ++ [0x88, 0xB5] ++
          ingotHeader a.an (c.getF F.PRT_FRM_CFG_size [line, b]) a.peerGen a.peerIndex pn g.nextSeq
        let t : TxSlot := {
          seq := g.nextSeq, sa := i, pn := pn, an := a.an,
          departure := c.slotDeparture line b phase, head := head,
          cipher := (suite256 a.suite, s.key, macIv a 0 pn) }
        let c := c.setIngot k { g with nextSeq := g.nextSeq + 1, slots := g.slots ++ [t], halted := false }
        let c := c.setF F.PRT_FRM_STAT_tx_halt [line, b] 0
        c.panAdmit .kstream (slotOf a.key) s.generation k t.seq ((c.ingotSize p b - 78) / 16 + 1)

def execSlotAllocation (line : Fin 8) (sub : Fin 4) (phase : BitVec 16) :=
  lift fun c => c.slotAlloc line.val sub.val phase.toNat

/-- A change to one slot of an ingot port. -/
def Chip.onSlot (c : Chip) (k seq : Nat) (f : TxSlot → TxSlot) : Chip :=
  let g := c.ingot k
  c.setIngot k { g with slots := g.slots.map fun t => if t.seq = seq then f t else t }

/-- R112: a Pan delivers the oldest keystream of a port, once its turn has come. -/
def Chip.ksDeliver (c : Chip) (k : Nat) : Chip :=
  match c.findReq fun r => r.kind = .kstream && r.subject = k with
  | none => c
  | some (n, r) => c.when (c.panTurn n r) fun c => (c.panDone n).onSlot k r.seq fun t => { t with keystream := true }

def execKstreamDelivery (line : Fin 8) (sub : Fin 4) := lift fun c => c.ksDeliver (ingotKey line.val sub.val)

/-! ### Packing (R74, R75, R242) -/

/-- A slot being packed: the block, the segment space left, the segments and selections so far, and the frames left
open. -/
structure Packing where
  chip : Chip
  left : Nat
  segs : List Segment := []
  picks : List Picked := []
  partials : List (Nat × Nat) := []

/-- The tag of a frame: that of its channel's entry (R75); 0 for a frame of a direct queue, which has no channel (DESIGN CHOICE,
log entry 64). -/
def Chip.ingotTag (c : Chip) (f : Frame) : Nat :=
  match f.channel with
  | some ch => (c.chan ch).tag
  | none => 0

/-- A frame from an offset on is packed, as much of it as fits: the continuation of an open frame, or a new one. -/
def Packing.put (w : Packing) (n : Nat) (f : Frame) (off : Nat) (p : Picked) : Packing :=
  let rest := f.data.length - off
  let m := min rest (w.left - 4)
  let whole := m = rest
  let type := if off = 0 then (if whole then 1 else 2) else if whole then 4 else 3
  let seg : Segment :=
    { type := type, cls := p.cls, tag := w.chip.ingotTag f, frame := n, off := off, data := slice f.data off m }
  { w with
    left := w.left - 4 - m, segs := w.segs ++ [seg], picks := w.picks ++ [p],
    partials := if whole then w.partials else w.partials ++ [(n, off + m)] }

/-- The continuation of an open frame, charged 4 bytes, whatever the buckets; one read with poison is dropped (R284). -/
def Packing.continue' (w : Packing) (x : Nat × Nat) : Packing :=
  match w.chip.frame x.1 with
  | none => w
  | some f =>
    if w.chip.readsPoison f then { w with chip := w.chip.poisonDrop x.1 }
    else if w.left < 5 then { w with partials := w.partials ++ [x] }
    else
      let c := w.chip
      let q := f.queue.getD 0
      let k := c.queueCfg q
      let i := k.port * 8 + k.cls
      let p : Picked := { frame := x.1, queue := q, port := k.port, cls := k.cls, charge := 4, queueTag := (c.queueSt q).tag,
                          classTag := c.classTag i, classClock := c.classClock i, portClock := c.portClock k.port }
      { w with chip := c.chargeQueue q k.port k.cls 4 }.put x.1 f x.2 p

/-- Further frames, selected as R226 states, while 5 bytes remain and 64 frames at most stay open, those read with poison dropped
(R284); `fuel` bounds the number of segments. -/
def Packing.more (w : Packing) (s : Nat) : Nat → Packing
  | 0 => w
  | fuel + 1 =>
    if w.left < 5 || 64 ≤ w.partials.length then w
    else
      match w.chip.choose s with
      | none => w
      | some (cls, q) =>
        match w.chip.headOf q with
        | none => w
        | some (n, f) =>
          if w.chip.readsPoison f then Packing.more { w with chip := w.chip.poisonDrop n } s fuel else
          let (p, c) := w.chip.pick s cls q n f
          Packing.more ({ w with chip := c }.put n f 0 p) s fuel

/-- A segment as it stands in the body: header, then data. -/
def segBytes (x : Segment) : Bytes :=
  beBytes 4 (x.type * 2 ^ 29 + x.cls * 2 ^ 26 + x.data.length * 2 ^ 12 + x.tag) ++ x.data

/-- At close the Sluice fixes the segments of the oldest open slot. A slot without any is a dross ingot (R76). -/
def Chip.slotClose (c : Chip) (line b : Nat) : Chip :=
  let k := ingotKey line b
  let g := c.ingot k
  match g.slots.find? fun t => !t.closed with
  | none => c
  | some t =>
    let room := c.ingotSize (8 + line) b - 86
    let w : Packing := g.partials.foldl Packing.continue' { chip := c, left := room }
    let w := if c.prs.yieldAt.isSome then w else w.more (schedOf (8 + line) b) room
    let c := w.chip.setIngot k { w.chip.ingot k with partials := w.partials }
    c.onSlot k t.seq fun t => { t with closed := true, segments := w.segs, picks := w.picks, dross := w.segs.isEmpty }

def execSlotClose (line : Fin 8) (sub : Fin 4) := lift fun c => c.slotClose line.val sub.val

/-! ### The ready test and departure (R79 to R82) -/

/-- The slots from one on are sent as dross: their content is recalled. -/
def Chip.toDross (c : Chip) (k : Nat) (l : List TxSlot) : Chip :=
  let c := c.recallSlots k l
  c.each l fun c t => c.onSlot k t.seq fun t => { t with dross := true, segments := [], picks := [] }

/-- A slot is sent as idle: it is forgotten. -/
def Chip.dropSlot (c : Chip) (k seq : Nat) : Chip :=
  let g := c.ingot k
  c.setIngot k { g with slots := g.slots.filter fun t => t.seq ≠ seq }

/-- The ready test of the oldest closed slot that has not passed it; `complete` says that its body and tag are complete
in the framer. -/
def Chip.readyTest (c : Chip) (line b : Nat) (complete : Bool) : Chip :=
  let k := ingotKey line b
  let p := 8 + line
  let s := schedOf p b
  let waiting := (c.ingot k).slots.filter fun t => t.closed && !t.ready
  match waiting with
  | [] => c
  | t :: later =>
    let on := c.txOn || c.prs.yieldAt.isSome
    if !on then (c.toDross k waiting).dropSlot k t.seq
    else if !t.keystream then
      let c := (c.toDross k waiting).dropSlot k t.seq
      (c.portCount s 21).portEvent Ev.KS_MISS p b
    else
      let ready := fun (c : Chip) => c.onSlot k t.seq fun t => { t with ready := true }
      if c.prs.yieldAt.isSome then ready (c.toDross k waiting)
      else if complete || t.dross then ready c
      else
        let c := c.toDross k waiting
        let c := (c.portCount s 18).portCount s 19 (later.filter fun t => !t.dross).length
        ready ((c.setF F.PRT_FRM_STAT_late [line, b] 1).portEvent Ev.INGOT_LATE p b)

def execSlotReadyTest (line : Fin 8) (sub : Fin 4) (complete : Bool) :=
  lift fun c => c.readyTest line.val sub.val complete

/-- The whole ingot of a slot (R71): head, body, tag. FILL and the bytes behind the last segment are 0. -/
def slotIngot (t : TxSlot) (size : Nat) : Bytes :=
  let body := slice (beBytes 8 t.departure ++ t.segments.flatMap segBytes) 0 (size - 78)
  let (k256, key, iv) := t.cipher
  let cipher := gcmXor k256 key iv body
  t.head ++ cipher ++ beBytes 16 (Config.gcmTag k256 key iv t.head cipher).toNat

/-- R81: a frame leaves its queue with the ingot that carries its last byte. -/
def Chip.ingotFrameSent (c : Chip) (n : Nat) : Chip :=
  c.onFrame n fun f c =>
    let q := f.queue.getD 0
    ((c.count false (0x10000 + q * 4)).count false (0x10000 + q * 4 + 1) f.len).removeFrame n

/-- An ingot has left completely. -/
def Chip.ingotSent (c : Chip) (line b : Nat) : Chip :=
  let k := ingotKey line b
  let p := 8 + line
  let s := schedOf p b
  match (c.ingot k).slots.find? (·.ready) with
  | none => c
  | some t =>
    let size := c.ingotSize p b
    let c := c.dropSlot k t.seq
    let c := c.each ((t.segments.filter fun x => x.type = 1 || x.type = 4).map (·.frame)) fun c n => c.ingotFrameSent n
    let c := (c.txCapture s).emit (.ingot line b (slotIngot t size))
    let c := ((c.portCount s 2).portCount s 3 (size - 20)).portCount s 16
    let c := (c.when t.dross fun c => c.portCount s 17).portCount s 4
    (c.count true (t.sa * 4)).count true (t.sa * 4 + 1) (size - 78)

def execIngotSent (line : Fin 8) (sub : Fin 4) := lift fun c => c.ingotSent line.val sub.val

/-! ### Received ingots (R44, R86 to R89, R215) -/

/-- A segment read from a body: type, class, tag, data. -/
abbrev RxSeg := Nat × Nat × Nat × Bytes

/-- The segments of a segment space in order. The second result is the malformed segment that ends the reading, if one
does: its type and tag. A FILL header ends the reading whatever its other fields hold (DESIGN CHOICE, log entry 64). -/
def readSegs : Nat → Bytes → List RxSeg × Option (Nat × Nat)
  | 0, _ => ([], none)
  | fuel + 1, body =>
    if body.length < 5 then ([], none)
    else
      let h := beNat (slice body 0 4)
      let type := bits h 31 29
      let len := bits h 25 12
      let tag := bits h 11 0
      if type = 0 then ([], none)
      else if 4 < type || len = 0 || body.length < 4 + len then ([], some (type, tag))
      else
        let (l, bad) := readSegs fuel (body.drop (4 + len))
        ((type, bits h 28 26, tag, slice body 4 len) :: l, bad)

/-- A frame of an ingot port is dropped: counted at the port. -/
def Chip.segDrop (c : Chip) (s reason : Nat) : Chip := c.portCount s (0x20 + (reason - 0x80))

/-- The open context of a tag. -/
def Chip.context (c : Chip) (k tag : Nat) : Option Reasm := (c.ingot k).contexts.find? fun r => r.tag = tag

/-- A context is closed. -/
def Chip.closeContext (c : Chip) (k tag : Nat) : Chip :=
  let g := c.ingot k
  c.setIngot k { g with contexts := g.contexts.filter fun r => r.tag ≠ tag }

/-- R88: a completed frame goes where its tag's entry says: to the driver, with reason 0 (DESIGN CHOICE, log entry 52), or to
the entry's client port in the segment's class. That is the queue of the entry's channel (R221) where it is bound
so, else the direct queue of that port and class (DEDUCED, log entry 52). -/
def Chip.deliver (c : Chip) (from' : Frame) (cls entry : Nat) (data : Bytes) : Chip :=
  let s := schedOf from'.entry from'.sub
  let ch := bits entry 22 8
  if !bit entry 0 then c.segDrop s 0x8B
  else if c.inMode [.standby] then c.segDrop s 0x89
  else
    let f : Frame := {
      data := data, entry := from'.entry, sub := from'.sub, ts := from'.ts, tsValid := from'.tsValid,
      channel := some ch, cls := cls, len := data.length + 4 }
    if bit entry 1 then
      if ch < 16 then c.toHost f ch data true false (from'.early.getD {}).handle
      else (c.segDrop s 0x92).raise Ev.EXC_RING_FULL 0x708
    else
      let (n, c) := c.addFrame f
      let out := schedOf (bits entry 4 2) (bits entry 6 5)
      let k := c.queueCfg ch
      c.enqueue n (if k.port = out && k.cls = cls then ch else directQueue out cls) .queued

/-- R89: room for one more context: with 64 open, the one whose latest segment is oldest is closed. -/
def Chip.contextRoom (c : Chip) (k s : Nat) : Chip :=
  let l := (c.ingot k).contexts
  if l.length < 64 then c
  else
    match l.foldl (fun (m : Option Reasm) r => match m with
        | none => some r
        | some x => if r.last < x.last then some r else some x) none with
    | none => c
    | some x => ((c.closeContext k x.tag).segDrop s 0x94).portCount s 28

/-- The data of an open context is written to its on-die lines under the key ID 30 (R274). -/
def Chip.contextStore (c : Chip) (k : Nat) (r : Reasm) : Chip :=
  let (l, c) := c.dieWrite 30 r.die r.data
  let g := c.ingot k
  c.setIngot k { g with contexts := g.contexts ++ [{ r with die := l }] }

/-- One segment of an accepted ingot (R87, R88). A frame whose context reads as poison is dropped (R284). -/
def Chip.readSeg (c : Chip) (from' : Frame) (x : RxSeg) : Chip :=
  let (type, cls, tag, data) := x
  let line := from'.entry - 8
  let b := from'.sub
  let k := ingotKey line b
  let s := schedOf from'.entry b
  let entry := (b2n (c.getB F.PRT_TAG_MAP_valid [line, b, tag])) + 2 * c.getF F.PRT_TAG_MAP_host [line, b, tag] +
    2 ^ 2 * c.getF F.PRT_TAG_MAP_client [line, b, tag] + 2 ^ 5 * c.getF F.PRT_TAG_MAP_sub_port [line, b, tag] + 2 ^ 8 * c.getF F.PRT_TAG_MAP_channel [line, b, tag]
  if type = 1 || type = 2 then
    let c := if (c.context k tag).isSome then (c.closeContext k tag).segDrop s 0x94 else c
    if type = 1 then c.deliver from' cls entry data
    else
      (c.contextRoom k s).contextStore k { tag := tag, cls := cls, entry := entry, data := data, last := from'.verdictAt }
  else
    match c.context k tag with
    | none => c.portCount s 26
    | some r =>
      let all := r.data ++ data
      let c := c.closeContext k tag
      if r.die.any fun i => (c.dieRead 30 i).isNone then (c.setF F.MEM_STAT_tag_fail [] 1).segDrop s 0x91
      else if 15996 < all.length then c.segDrop s 0x94
      else if type = 4 then c.deliver from' r.cls r.entry all
      else c.contextStore k { r with data := all, last := from'.verdictAt }

/-- The segments of an accepted ingot are read and released. A malformed one ends the reading, and the frame it was part of is
dropped; a START or WHOLE drops the frame that its tag had open too (R87). -/
def Chip.ingotRelease (c : Chip) (f : Frame) : Chip :=
  let k := ingotKey (f.entry - 8) f.sub
  let s := schedOf f.entry f.sub
  let (l, bad) := readSegs f.plain.length (f.plain.drop 8)
  let c := c.each l fun c x => c.readSeg f x
  match bad with
  | none => c
  | some (type, tag) =>
    let c := c.portCount s 27
    let c := if (c.context k tag).isSome then (c.closeContext k tag).segDrop s 0x94 else c
    c.when (type = 1 || type = 2) fun c => c.segDrop s 0x94

/-- R44: an ingot fails: every client frame with a segment in it is dropped and counted. The frames that begin in an ingot
that the part has dropped before are counted by that drop (R60). -/
def Chip.ingotFail (c : Chip) (f : Frame) : Chip :=
  let k := ingotKey (f.entry - 8) f.sub
  let s := schedOf f.entry f.sub
  let (l, _) := readSegs f.plain.length (f.plain.drop 8)
  c.each l fun c x =>
    if x.1 = 1 || x.1 = 2 then c.when f.lost.isNone fun c => c.segDrop s 0x8F
    else if (c.context k x.2.2.1).isSome then (c.closeContext k x.2.2.1).segDrop s 0x8F
    else c

/-- R73: the departure field of a body in 2^-16 ns, its seconds extended to the value closest to `now`. -/
def departureUnits (field now : Nat) : Int :=
  let lo := bits field 63 48
  let d := (lo + 65536 - now % 65536) % 65536
  let sec : Int := if d < 32768 then (now : Int) + d else (now : Int) + d - 65536
  sec * 1000000000 * 65536 + (bits field 47 18 * 65536 + bits field 17 2 : Nat)

/-- R215: the difference between arrival and departure of an accepted ingot. -/
def Chip.ingotDiff (c : Chip) (f : Frame) : Chip :=
  let k := ingotKey (f.entry - 8) f.sub
  let diff : Int := ((clockUnits f.ts / 2 ^ 48 : Nat) : Int) - departureUnits (beNat (slice f.plain 0 8)) f.ts.sec
  let v := (BitVec.ofInt 64 diff).toNat
  (c.setF F.TIM_IGT_DIFF_LO_diff [k] (v % 2 ^ 32)).setF F.TIM_IGT_DIFF_HI_diff [k] (v / 2 ^ 32)

/-- R86: an accepted ingot's slot number; a gap closes every open context. -/
def Chip.ingotSeq (c : Chip) (f : Frame) : Chip :=
  let line := f.entry - 8
  let k := ingotKey line f.sub
  let s := schedOf f.entry f.sub
  let g := c.ingot k
  let (_, _, _, gen, i, _, seq) := rxIngot f.data f.typeAt
  let gap := if g.rxSync then seq - g.rxSeq - 1 else 0
  let c := if gap = 0 then c
    else
      let c := (c.portCount s 24 gap).portEvent Ev.SLOT_GAP f.entry f.sub
      let c := c.each g.contexts fun c r => (c.closeContext k r.tag).segDrop s 0x94
      c.setF F.PRT_FRM_STAT_gap [line, f.sub] 1
  (c.setIngot k { c.ingot k with rxSync := true, rxSeq := seq, rxSa := some (i, gen) }).setF F.PRT_FRM_STAT_rx_sync
    [line, f.sub] 1

/-- A passed ingot is dross: its segment space holds one FILL segment. -/
def isDross (body : Bytes) : Bool := bits (beNat (slice body 8 4)) 31 29 = 0

/-- The verdict of an ingot is formed. Segments are released once the frame program has ended with its emission of the
bound ingot (R102). -/
def Chip.ingotVerdict (c : Chip) (n : Nat) : Chip :=
  match c.turnOf fun r => r.kind = .opening && r.subject = n with
  | none => c
  | some (k, _) =>
    match c.frame n with
    | none => c.panDone k
    | some f =>
      if !f.isIngot || f.coming || c.openBefore n f then c
      else
        let c := c.panDone k
        let s := schedOf f.entry f.sub
        let (v, c) := c.verdictSa f f.plain.length
        let f := { f with verdict := some v, verdictAt := c.now }
        let c := (c.setFrame n (some f)).flushHost n
        let c :=
          if v ≠ 0 then c.ingotFail f
          else
            let c := ((c.portCount s 5).ingotDiff f).ingotSeq f
            if isDross f.plain then c.portCount s 25
            else if f.stage = .opening then c.ingotRelease f
            else c
        match f.stage with
        | .pool | .ladle _ => c
        | _ => c.setFrame n none

def execIngotVerdict (frame : Nat) := lift fun c => c.ingotVerdict frame

/-- R89: contexts not extended within PRT_REASM_CFG.tmo are closed. -/
def Chip.reasmTimeout (c : Chip) (line b : Nat) : Chip :=
  let k := ingotKey line b
  let s := schedOf (8 + line) b
  let tmo := c.getF F.PRT_REASM_CFG_tmo [line, b] * 1000
  c.each ((c.ingot k).contexts.filter fun r => r.last + tmo ≤ c.now) fun c r =>
    (((c.closeContext k r.tag).segDrop s 0x94).portCount s 29).portEvent Ev.REASM_TIMEOUT (8 + line) b

def execReasmTimeout (line : Fin 8) (sub : Fin 4) := lift fun c => c.reasmTimeout line.val sub.val

end Sys2Proof.Machine
end

