-- ==== Sys2Proof/Machine/Forward.lean ====
section
/-! DEFINITION. Chapter 10: the forwarding table, lookups, learning, aging by the Rake, and the forwarding orders. -/
namespace Sys2Proof.Machine

/-! ### The table (R249 to R252) -/

def Chip.fwd? (c : Chip) (slot : Nat) : Option FwdEntry := SMap.get (fun _ => none) c.fwd.table slot

/-- A slot is written, with good parity. -/
def Chip.setFwd (c : Chip) (slot : Nat) (e : Option FwdEntry) : Chip :=
  c.modFwd fun t => { t with
    table := SMap.set (fun _ => none) t.table slot e, bad := SMap.set (fun _ => 0) t.bad slot 0 }

/-- The slot of a key in a way: CRC-32C of the key, least significant byte first, under the way's seed, reduced to 16 bits
(log entry 56). -/
def fwdSlot (way : Nat) (key : DWord) : Nat :=
  way * 65536 + (Config.fwdReduce (crc32cFrom (Config.fwdSeed way) (leBytes 8 key.toNat))).toNat

/-- The four candidate slots of a key. -/
def fwdSlots (key : DWord) : List Nat := (List.range 4).map fun w => fwdSlot w key

/-- The slot that holds a key. -/
def Chip.fwdFind (c : Chip) (key : DWord) : Option Nat :=
  (fwdSlots key).find? fun s => match c.fwd? s with
    | some e => e.key = key
    | none => false

/-- The entries with their slots. -/
def Chip.fwdList (c : Chip) : List (Nat × FwdEntry) := c.fwd.table.filterMap fun x => x.2.map fun e => (x.1, e)

/-- R252, Table 10.2: a destination word of a known type with its data in range and its unused bits 0. -/
def destOk (w : Nat) : Bool :=
  match w % 8 with
  | 0 => w / 8 = 0
  | 1 => w < 2 ^ 13 && bits w 7 3 < 16
  | 2 => w < 2 ^ 18
  | 3 => w < 2 ^ 11 && bits w 10 3 < 16
  | 4 => w < 2 ^ 22
  | _ => false

/-- The key of an address under a VLAN and a port's domain (R249, R250). -/
def Chip.fwdKey (c : Chip) (k vlan : Nat) (mac : Bytes) : DWord :=
  BitVec.ofNat 64 (beNat mac + vlan % 4096 * 2 ^ 48 + c.getF F.FWD_PORT_CFG_domain [k] * 2 ^ 60)

/-- The number of valid entries changes (FWD_COUNT). -/
def Chip.fwdCount (c : Chip) (n : Int) : Chip :=
  c.setF F.FWD_COUNT_valid [] ((c.getF F.FWD_COUNT_valid [] : Int) + n).toNat

/-- A port's count of limited entries changes. -/
def Chip.portLearnt (c : Chip) (k : Nat) (n : Int) : Chip :=
  c.setF F.FWD_PORT_CNT_count [k] ((c.getF F.FWD_PORT_CNT_count [k] : Int) + n).toNat

/-- An entry is removed. -/
def Chip.fwdRemove (c : Chip) (slot : Nat) : Chip :=
  match c.fwd? slot with
  | none => c
  | some e =>
    let c := (c.setFwd slot none).fwdCount (-1)
    if e.limited then c.portLearnt e.learnSrc (-1) else c

/-- R259: a port is LIMITED, and has reached its limit. -/
def Chip.atLimit (c : Chip) (k : Nat) : Bool :=
  c.getB F.FWD_PORT_CFG_limited [k] && c.getF F.FWD_PORT_CFG_limit [k] ≤ c.getF F.FWD_PORT_CNT_count [k]

/-- R262: the entry still refuses moves. -/
def Chip.frozen (c : Chip) (e : FwdEntry) : Bool :=
  e.flapping && c.nowUs < e.winStart + c.getF F.FWD_CFG_flap_hold [] * 1000000

/-! ### Parity (R268) -/

/-- Words of slots go bad. -/
def Chip.fwdUpset (c : Chip) (l : List (Nat × BitVec 4)) : Chip :=
  c.modFwd fun t => { t with bad := l.foldl (fun m x => SMap.set (fun _ => 0) m x.1 (SMap.get (fun _ => 0) m x.1 ||| x.2)) t.bad }

/-- R268: slot `slot` is read. Where words of it fail parity, the entry is invalidated and reported by `source`. -/
def Chip.fwdParity (c : Chip) (slot : Nat) (source : Nat) : Chip :=
  let bad := SMap.get (fun _ => 0) c.fwd.bad slot
  match c.fwd? slot with
  | none => c
  | some e =>
    if bad = 0 then c
    else
      let c := (c.setFwd slot none).fwdCount (-1)
      let c := if bad.getLsbD 1 then c.setF F.FWD_STAT_count_drift [] 1
        else if e.limited then c.portLearnt e.learnSrc (-1) else c
      let c := (c.bump F.FWD_PARITY_CNT_count []).setF F.FWD_STAT_parity [] 1
      c.raise Ev.FWD_PARITY source (if bad.getLsbD 0 then [] else [(8, e.key.toNat)])

/-! ### Lookup (R253, R255, R259) -/

/-- The source lookup: its outcome (Table 10.3), the learn request it leaves with the frame (R256), and what it does. -/
def Chip.srcLookup (c : Chip) (k : Nat) (key : DWord) (learn : Word) : Nat × Option Learn × Chip :=
  let post := fun (n : Nat) => (n, some { key := key, dest := learn, port := k }, c)
  if !c.getB F.FWD_PORT_CFG_learn [k] || !c.getB F.FWD_CFG_learn_en [] || c.inMode [.standby] then (6, none, c)
  else
    match c.fwdFind key with
    | none => if c.atLimit k then (3, none, c) else post 2
    | some s =>
      match c.fwd? s with
      | none => (6, none, c)
      | some e =>
        if e.dest = learn then (0, none, c.setFwd s (some { e with hit := true, idle := false }))
        else if c.atLimit k then (3, none, c)
        else if e.static then (4, none, c)
        else if c.frozen e then (5, none, c)
        else post 1

/-- `lkp.fwd` for a frame's addresses on port *k*; the result of Table 10.3. Only a frame's first lookup has a source
lookup. `bad` names slots whose words have gone bad since the last command. -/
def Chip.fwdLookup (c : Chip) (k vlan : Nat) (dst src : Bytes) (learn : Word) (first : Bool)
    (bad : List (Nat × BitVec 4)) : Nat × Option Learn × Chip :=
  let dk := c.fwdKey k vlan dst
  let sk := c.fwdKey k vlan src
  let c := (c.fwdUpset bad).each (fwdSlots dk ++ fwdSlots sk) fun c s => c.fwdParity s 0x21C
  let flood := c.getF F.FWD_DOM_FLOOD_dest [c.getF F.FWD_PORT_CFG_domain [k]]
  let found := (c.fwdFind dk).bind c.fwd?
  let (s, l, c) := if first then c.srcLookup k sk learn else (6, none, c)
  let excess := s = 3
  let flooded := excess && c.getB F.FWD_PORT_CFG_excess_act [k]
  let dest := if flooded then flood else match found with
    | some e => e.dest.toNat
    | none => flood
  (dest + 2 ^ 32 * b2n (found.isSome && !flooded) + 2 ^ 33 * s +
    2 ^ 36 * b2n (excess && !c.getB F.FWD_PORT_CFG_excess_act [k]), l, c)

/-! ### Cuckoo insertion (R263) -/

/-- The lowest free candidate slot of a key, one way excluded. -/
def Chip.fwdFree (c : Chip) (key : DWord) (not' : Nat) : Option Nat :=
  (fwdSlots key).find? fun s => s / 65536 ≠ not' && (c.fwd? s).isNone

/-- A breadth-first search for a relocation path. A path lists slots, the last one first; it ends in a free slot.
`fuel` bounds the slots visited. -/
def Chip.fwdPath (c : Chip) : Nat → List (List Nat) → List Nat → Option (List Nat)
  | 0, _, _ => none
  | _, [], _ => none
  | fuel + 1, path :: queue, seen =>
    match path.head?.bind c.fwd? with
    | none => c.fwdPath fuel queue seen
    | some e =>
      let way := path.headD 0 / 65536
      match c.fwdFree e.key way with
      | some s => if path.length ≤ 32 then some (s :: path) else c.fwdPath fuel queue seen
      | none =>
        let next := (fwdSlots e.key).filter fun s => s / 65536 ≠ way && !seen.contains s
        c.fwdPath fuel (queue ++ next.map (· :: path)) (seen ++ next)

/-- The occupants along a path move towards its free end. -/
def Chip.fwdShift (c : Chip) : List Nat → Chip
  | to' :: from' :: rest => ((c.setFwd to' (c.fwd? from')).setFwd from' none).fwdShift (from' :: rest)
  | _ => c

/-- The place for a new key: a free slot, once the relocations are made; none when the table is full for it. -/
def Chip.fwdPlace (c : Chip) (key : DWord) : Option (Nat × Chip) :=
  match c.fwdFree key 4 with
  | some s => some (s, c)
  | none =>
    let s0 := fwdSlot 0 key
    (c.fwdPath 262144 [[s0]] [s0]).map fun path => (s0, c.fwdShift path)

/-! ### Learning (R258, R260 to R262) -/

/-- A learn is discarded. -/
def Chip.learnDrop (c : Chip) : Chip := c.bump F.FWD_LRN_DROP_CNT_count []

/-- A new entry is learnt. -/
def Chip.learnNew (c : Chip) (l : Learn) : Chip :=
  match c.fwdPlace l.key with
  | none => ((c.learnDrop).setF F.FWD_STAT_table_full [] 1).raise Ev.FWD_TABLE_FULL 0x21C
  | some (s, c) =>
    let lim := c.getB F.FWD_PORT_CFG_limited [l.port]
    let e : FwdEntry := { key := l.key, dest := l.dest, learnSrc := l.port, limited := lim, hit := true }
    let c := (c.setFwd s (some e)).fwdCount 1
    if lim then c.portLearnt l.port 1 else c

/-- R261, R262: an entry moves. -/
def Chip.learnMove (c : Chip) (s : Nat) (e : FwdEntry) (l : Learn) : Chip :=
  let lim := c.getB F.FWD_PORT_CFG_limited [l.port]
  let c := if e.limited then c.portLearnt e.learnSrc (-1) else c
  let c := if lim then c.portLearnt l.port 1 else c
  let fresh := e.winStart + 1000000 ≤ c.nowUs
  let moves := if fresh then 1 else min 255 (e.moves + 1)
  let flap := c.getF F.FWD_CFG_move_damp [] < (if fresh then 1 else e.moves + 1)
  let e' := { e with
    dest := l.dest, hit := true, idle := false, learnSrc := l.port, limited := lim, moves := moves,
    winStart := if fresh then c.nowUs else e.winStart, flapping := flap }
  let c := (c.setFwd s (some e')).bump F.FWD_MOVE_CNT_moves []
  if flap then (c.setF F.FWD_STAT_flapping [] 1).raise Ev.FWD_FLAPPING 0x21C [(8, l.key.toNat)] else c

/-- The head learn request acts on what is found now. -/
def Chip.learnOne (c : Chip) (l : Learn) : Chip :=
  let c := c.each (fwdSlots l.key) fun c s => c.fwdParity s 0x21D
  let limit := fun (c : Chip) => c.learnDrop.raise Ev.FWD_LIMIT 0x21D
  match c.fwdFind l.key with
  | none => if c.atLimit l.port then limit c else c.learnNew l
  | some s =>
    match c.fwd? s with
    | none => c
    | some e =>
      if e.static then c.raise Ev.FWD_STATIC_MOVE 0x21C
      else if e.dest = l.dest then c.setFwd s (some { e with hit := true, idle := false })
      else if c.frozen e then c.bump F.FWD_MOVE_CNT_refused []
      else
        let e := if e.flapping then { e with flapping := false, moves := 0 } else e
        if l.port ≠ e.learnSrc && c.atLimit l.port then limit (c.setFwd s (some e)) else c.learnMove s e l

/-- R258, R267: the learn queue is processed in ACTIVE, and held during a special pass. -/
def Chip.learnProcess (c : Chip) : Chip :=
  match c.fwd.learns with
  | [] => c
  | l :: rest => if c.inMode [.active] && c.fwd.special.isNone then (c.modFwd fun t => { t with learns := rest }).learnOne l else c

def execLearnProcess := lift Chip.learnProcess

/-! ### Special passes of the Rake (R267) -/

/-- The word of an entry that FWD_FLUSH compares. -/
def flushWord (e : FwdEntry) : Nat :=
  bits e.key.toNat 59 48 + bits e.key.toNat 63 60 * 2 ^ 12 + e.learnSrc * 2 ^ 16 + e.dest.toNat * 2 ^ 32

/-- An entry that FWD_FLUSH removes. -/
def flushHit (value mask : DWord) (static : Bool) (e : FwdEntry) : Bool :=
  (!e.static || static) && (BitVec.ofNat 64 (flushWord e) ^^^ value) &&& mask = 0

/-- R267: every port's learn count is rebuilt from the table. -/
def Chip.fwdRecount (c : Chip) : Chip :=
  let l := c.fwdList
  c.each (List.range 64) fun c k =>
    c.setF F.FWD_PORT_CNT_count [k] (l.filter fun x => x.2.limited && x.2.learnSrc = k).length

/-- `cycles` CK_CORE cycles of a special pass go by, at 8 slots and 0.625 ns each. Every slot passed is tested for parity (R268), where `bad` are words of the first one that have gone bad. A flush
removes what it passes; at the
last slot a recount's counts are in place, and the order that waits for the pass ends. -/
def Chip.passOn (c : Chip) (p : RakePass) (at' start cycles : Nat) (bad : BitVec 4) : Chip :=
  let next := min 262144 (at' + 8 * cycles)
  let c := c.fwdUpset [(at', bad)]
  let c := c.each ((c.fwd.bad.map (·.1)).filter fun s => at' ≤ s && s < next) fun c s => c.fwdParity s 0x21E
  let c := c.reachElapsed (start + next / 8 * 5 / 8)
  let c := match p with
    | .flush v m st =>
      c.each ((c.fwdList.filter fun (x : Nat × FwdEntry) => at' ≤ x.1 && x.1 < next && flushHit v m st x.2).map Prod.fst)
        Chip.fwdRemove
    | .recount => c.when (next = 262144) fun (c : Chip) => c.fwdRecount.setF F.FWD_STAT_count_drift [] 0
  if next = 262144 then
    let c := c.modFwd fun t => { t with special := none }
    c.when (c.ord.wait = OrdWait.rake) fun c => c.finishOrder {}
  else c.modFwd fun t => { t with special := some (p, next, start) }

/-! ### Aging (R264, R265) -/

/-- The Rake visits its next slot at its offset in the pass; `bad` are the words of it that fail parity. `hit` says that a
source lookup or a learn request of the same cycle hits its entry: such a hit voids a removal (R265). -/
def Chip.rakeVisit (c : Chip) (bad : BitVec 4) (hit : Bool) : Chip :=
  if !(c.inMode [.active] && c.getB F.FWD_AGE_CFG_en []) then c
  else
    let s := c.fwd.rake
    let p := if s = 0 then c.getF F.FWD_AGE_CFG_pass [] else c.fwd.passLen
    let c := c.reachElapsed (c.fwd.passStart + rakeOffset s p).toNat
    let c := c.modFwd fun t => { t with
      rake := (s + 1) % 262144, passLen := p, passStart := t.passStart + (if s = 262143 then p * 1000000000 else 0) }
    let c := c.fwdUpset [(s, bad)]
    if SMap.get (fun _ => 0) c.fwd.bad s ≠ 0 then c.fwdParity s 0x21E
    else
      match c.fwd? s with
      | none => c
      | some e =>
        if e.static then c
        else
          let e := if e.flapping && !c.frozen e then { e with flapping := false, moves := 0 } else e
          if e.hit then c.setFwd s (some { e with hit := false, idle := false })
          else if !e.idle then c.setFwd s (some { e with idle := true })
          else if hit then c.setFwd s (some { e with hit := true, idle := false })
          else c.fwdRemove s

/-- RAKE_VISIT: one slot of the aging pass, or, while a special pass runs, the slots of `cycles` cycles of it. -/
def execRakeVisit (look : RakeLook) := lift fun c =>
  match c.fwd.special with
  | some (p, at', start) => if c.running then c.passOn p at' start look.cycles.val look.bad else c
  | none => c.rakeVisit look.bad look.hit

/-- R269: on takeover every dynamic entry counts as hit, and the Rake starts a new pass. -/
def Chip.rakeTakeover (c : Chip) : Chip :=
  c.modFwd fun t => { t with
    rake := 0, passStart := c.now
    table := t.table.map fun x => (x.1, x.2.map fun e => if e.static then e else { e with hit := true }) }

/-! ### Orders (R266, R267) -/

/-- The modes of the immediate orders that only read. -/
def infoModes : List Mode := [.sealed, .provision, .active, .standby, .drain, .rest, .maintenance, .lockdown]

/-- The modes of the orders that change the table. -/
def fwdModes : List Mode := [.provision, .active, .maintenance]

/-- FWD_ADD takes effect at COMMIT; none when no place is left. An existing entry keeps its slot. -/
def Chip.fwdInstall (c : Chip) (key : DWord) (dest : Word) (static : Bool) : Option Chip :=
  let new : FwdEntry := { key := key, dest := dest, static := static, hit := true }
  match c.fwdFind key with
  | some s => some (((c.fwdRemove s).setFwd s (some new)).fwdCount 1)
  | none => (c.fwdPlace key).map fun x => (x.2.setFwd x.1 (some new)).fwdCount 1

/-- FWD_ADD: executes, stages. -/
def fwdAdd (key : DWord) (dest static : Word) : OrdFn := inModes fwdModes fun c =>
  if !destOk dest.toNat || 1 < static.toNat then ordFail 0x53 c
  else if (c.fwdInstall key dest true).isNone then ordFail 0x70 c
  else c.stage (.fwdAdd key dest (static = 1))

/-- FWD_DEL: executes, stages. -/
def fwdDel (key : DWord) : OrdFn := inModes fwdModes fun c =>
  if (c.fwdFind key).isNone then ordFail 0x71 c else c.stage (.fwdDel key)

/-- R267: the order engine waits for a special pass of the Rake, which starts now. -/
def Chip.passBegin (c : Chip) (p : RakePass) : Chip :=
  (c.modFwd fun t => { t with special := some (p, 0, c.now) }).modOrd fun o => { o with wait := .rake }

/-- FWD_FLUSH. -/
def fwdFlush (value mask : DWord) (static : Word) : OrdFn := inModes fwdModes fun c =>
  if bits value.toNat 31 22 ≠ 0 || bits mask.toNat 31 22 ≠ 0 || 1 < static.toNat then ordFail 0x53 c
  else (c.passBegin (.flush value mask (static = 1)), none)

/-- FWD_RECOUNT. -/
def fwdRecount : OrdFn := inModes [.active, .maintenance] fun c => (c.passBegin .recount, none)

/-- The 32 bytes of an entry (Table 10.1). -/
def fwdBytes (e : FwdEntry) : Bytes :=
  leBytes 8 e.key.toNat ++ leBytes 8 (e.dest.toNat + e.learnSrc * 2 ^ 32 + b2n e.limited * 2 ^ 38) ++
    leBytes 8 (1 + 2 * b2n e.static + 4 * b2n e.hit + 8 * b2n e.idle + 16 * b2n e.flapping + 32 * e.moves) ++
    leBytes 8 (e.winStart % 2 ^ 48)

/-- FWD_INFO. -/
def fwdInfo (key out : DWord) : OrdFn := inModes infoModes fun c =>
  match (c.fwdFind key).bind c.fwd? with
  | none => ordFail 0x71 c
  | some e => (c.hostOut out.toNat (fwdBytes e), some {})

def execFwdAdd (key : DWord) (dest static : Word) := lift fun c => c.runOrder 0x0401 (w8 key ++ w4 dest ++ w4 static) (fwdAdd key dest static)
def execFwdDel (key : DWord) := lift fun c => c.runOrder 0x0402 (w8 key) (fwdDel key)
def execFwdFlush (value mask : DWord) (static : Word) := lift fun c => c.runOrder 0x0403 (w8 value ++ w8 mask ++ w4 static) (fwdFlush value mask static)
def execFwdRecount := lift fun c => c.runOrder 0x0404 [] fwdRecount
def execFwdInfo (key out : DWord) := lift fun c => c.runOrder 0x0405 (w8 key ++ w8 out) (fwdInfo key out)

/-! ### The indirect window (R271) -/

/-- FWD_IND_CMD.read: the entry by slot, or by the key in FWD_IND_DATA. -/
def Chip.fwdIndRead (c : Chip) : Chip :=
  let key := BitVec.ofNat 64 (c.getF F.FWD_IND_DATA_data [0] + c.getF F.FWD_IND_DATA_data [1] * 2 ^ 32)
  let byKey := c.getB F.FWD_IND_SEL_by_key []
  let s := if byKey then c.fwdFind key else some (c.getF F.FWD_IND_SEL_slot [])
  let b := match s.bind c.fwd? with
    | some e => fwdBytes e
    | none => []
  let c := if byKey then
      let c := c.setF F.FWD_IND_CMD_found [] (b2n s.isSome)
      match s with
      | some x => c.setF F.FWD_IND_SEL_slot [] x
      | none => c
    else c
  c.each (List.range 8) fun c i => c.setF F.FWD_IND_DATA_data [i] (leNat (slice b (4 * i) 4))

end Sys2Proof.Machine
end

