-- ==== Sys2Proof/Machine/Buffer.lean ====
section
/-! DEFINITION. Chapter 11: the key IDs of the buffer memory, their orders, and aborted accesses. -/
namespace Sys2Proof.Machine

/-! ### Key IDs (R274, R275) -/

def Chip.setKid (c : Chip) (kid state : Nat) (k : Option KidKeys) : Chip :=
  c.modBuf fun b => { b with
    states := SMap.set (fun _ => 0) b.states kid state, keys := SMap.set (fun _ => none) b.keys kid k }

/-- The two keys that four blocks of the generator form. -/
def kidKeys (b : List (BitVec 128)) : KidKeys :=
  { enc := b.getD 0 0 ++ b.getD 1 0, tag := b.getD 2 0 ++ b.getD 3 0 }

/-- R340: the active images in RAM are copied to the HBM under the key ID 30. -/
def Chip.copyImages (c : Chip) : Chip :=
  c.modEng fun e => { e with targets := e.targets.map fun t => (t.1, if t.1 < 9 then { t.2 with copy := t.2.active } else t.2) }

/-- R275: all 32 IDs are loaded from 128 blocks, and the counter tree is initialised under the ID 31. -/
def Chip.kidsLoaded (c : Chip) (b : List (BitVec 128)) : Chip :=
  let c := c.modBuf fun x => { x with nodes := [], cache := [], root := [], poison := [], badUpper := [] }
  let c := c.each (List.range 32) fun c i => c.setKid i 1 (some (kidKeys (b.drop (4 * i))))
  (c.setF F.MEM_STAT_no_keys [] 0).copyImages

/-- R275: once the generator is ready, the IDs ask for their keys. -/
def Chip.keyIdsLoad (c : Chip) : Chip :=
  let asked := c.ent.waiting.any fun r => r.use = .memKeysAll
  if c.getB F.ENT_STAT_ready [] && c.noKeys && !asked then c.randPost 2 128 .memKeysAll else c

def execKeyIdsLoad := lift Chip.keyIdsLoad

/-- A look-aside request has staging buffers under a key ID, while it waits for its IV too. -/
def LaReq.staged (r : LaReq) (kid : Nat) : Bool := r.kid = kid && (r.key.isSome || r.waitsRandom) && r.status.isNone

/-- A buffer is still held under a key ID. -/
def Chip.kidHeld (c : Chip) (kid : Nat) : Bool :=
  (c.frameList.any fun x => x.2.kid = some kid) ||
    c.path.la.any fun e => match e.2 with
      | some r => r.staged kid
      | none => false

/-- A cached node covers a line that was last written under a key ID. -/
def Buffer.covers (b : Buffer) (kid : Nat) (x : CacheNode) : Bool :=
  b.lines.any fun e => leafUnder (e.1 / 64) x.key && e.2.any (·.kid = kid)

/-- R278: every dirty cached node on a key ID's lines is written back, the lower levels first. -/
def Buffer.flushNodes (b : Buffer) (kid : Nat) : Buffer :=
  (List.range 6).foldl (fun b level =>
    (b.cache.filter fun x => x.key / 2 ^ 24 = level && x.dirty && b.covers kid x).foldl (fun b x =>
      let b := { b with cache := b.cache.map fun (y : CacheNode) => if y.key = x.key then { y with dirty := false } else y }
      b.writeBack (5 - level) (x.key % 2 ^ 24) x.ctr) b) b

/-- R278: the last buffer of a FLUSHING ID has been released. -/
def Chip.kidFlushed (c : Chip) (kid : Nat) : Chip :=
  if c.kidState kid = 2 && !c.kidHeld kid then
    (c.modBuf fun b =>
      { b.flushNodes kid with states := SMap.set (fun _ => 0) b.states kid 3 }).raise Ev.MEM_KID_FLUSHED 0x500
  else c

def execKidFlushed (kid : Fin 32) := lift fun c => c.kidFlushed kid.val

/-! ### Orders (Table 11.3) -/

def kidModes : List Mode := [.provision, .active, .standby, .maintenance]

/-- An order on a key ID in one of the states `from'`. -/
def kidOrder (kid : Word) (from' : List Nat) (f : Nat → OrdFn) : OrdFn := inModes kidModes fun c =>
  let i := kid.toNat
  if 32 ≤ i then ordFail 0x53 c
  else if 30 ≤ i then ordFail 0x78 c
  else if !from'.contains (c.kidState i) then ordFail 0x79 c
  else f i c

/-- MEM_KEY_FLUSH. -/
def memKeyFlush (kid : Word) : OrdFn := kidOrder kid [1] fun i c =>
  let named := c.getF F.MEM_FRAME_KID_kid [] = i || (List.range 66).any fun f => c.getF F.MEM_FUNC_KID_kid [f] = i
  if named then ordFail 0x7A c
  else (c.modBuf fun b => { b with states := SMap.set (fun _ => 0) b.states i 2 }, some {})

/-- MEM_KEY_RETIRE: the ID's keys are gone and its buffers released; the frames and requests in them are poisoned. -/
def memKeyRetire (kid : Word) : OrdFn := kidOrder kid [2, 3] fun i c =>
  let c := c.setKid i 4 none
  let c := c.each (c.frameList.filter fun x => x.2.kid = some i) fun c x =>
    c.setFrame x.1 (some x.2.release)
  (c.modPath fun p => { p with
    la := p.la.map fun e => (e.1, e.2.map fun r =>
      if r.staged i then { r with status := some 0xF, waitsRandom := false, lines := [] } else r) }, some {})

/-- MEM_KEY_LOAD: the order waits for four blocks. -/
def memKeyLoad (kid : Word) : OrdFn := kidOrder kid [4] fun i c =>
  if c.entFailed then ordFail 0x49 c
  else ((c.modOrd fun o => { o with wait := .random }).randPost 2 4 (.memKey i), none)

/-- MEM_KSTAT: the states of all 32 IDs. -/
def memKstat : OrdFn := inModes (.erased :: infoModes) fun c =>
  (c, some { ret := some ((List.range 32).foldl (fun n i => n + c.kidState i * 2 ^ (3 * i)) 0) })

def execMemKeyFlush (kid : Word) := lift fun c => c.runOrder 0x0501 (w4 kid) (memKeyFlush kid)
def execMemKeyRetire (kid : Word) := lift fun c => c.runOrder 0x0502 (w4 kid) (memKeyRetire kid)
def execMemKeyLoad (kid : Word) := lift fun c => c.runOrder 0x0503 (w4 kid) (memKeyLoad kid)
def execMemKstat := lift fun c => c.runOrder 0x0504 [] memKstat

/-! ### Versions and accesses (R281, R286) -/

/-- A leaf has a minor at 127. -/
def Chip.leafFull (c : Chip) (leaf : Nat) : Bool := (List.range 64).any fun j => c.buf.ctr (nodeKey 0 leaf) j = 127

/-- MINOR_OVERFLOW: of a leaf that has a minor at 127, which its next write would pass, once the leaf has been verified. -/
def execMinorOverflow (leaf : Fin 7208960) := lift fun c =>
  c.when (c.leafFull leaf.val) fun c =>
    let c := c.leafTouch leaf.val
    c.when (c.leafFull leaf.val) fun c => c.minorOverflow leaf.val

/-- R286: a debug or scan access aimed at buffer memory is aborted and recorded: a read returns 0, a write is dropped. -/
def Chip.bufferViolation (c : Chip) (addr : Nat) (read : Bool) : Chip :=
  let c := c.when read fun c => c.emit (.value 0)
  let c := (c.setF F.MEM_VIOL_ADDR_LO_addr [] (addr % 2 ^ 32)).setF F.MEM_VIOL_ADDR_HI_addr [] (addr / 2 ^ 32)
  ((c.bump F.MEM_VIOL_CNT_count []).setF F.MEM_STAT_viol [] 1).raise Ev.MEM_ACCESS_VIOL 0x500

def execBufferAccessViolation (access : LineAccess) := lift fun c => c.bufferViolation access.addr.toNat access.read

end Sys2Proof.Machine
end

