-- ==== Sys2Proof/Machine/FleliCode.lean ====
section
/-! DEFINITION. Chapter 12: the formats and opcodes of Fleli, and which engine has which instruction (R292, R301, R302,
R318, R326). -/
namespace Sys2Proof

def Eng.onLadle : Eng → Bool
  | .ladle _ _ => true
  | _ => false

def Eng.onKsq : Eng → Bool
  | .ksq _ => true
  | _ => false

def Eng.onOrder : Eng → Bool
  | .order => true
  | _ => false

def Eng.onVigil : Eng → Bool
  | .vigil => true
  | _ => false

/-- R292: the always-on sequencer has g0 to g7 only. -/
def Eng.has (e : Eng) (rs : List (Fin 32)) : Bool := !e.onVigil || rs.all fun r => decide (r.val < 8)

end Sys2Proof

namespace Sys2Proof.Machine

/-! ### Fields (Table 12.4) -/

/-- The fields of an instruction word: opcode, the three register fields, func, imm16, the word offset of form J, xop and
mod. -/
structure Fields where
  op : Nat
  d : Fin 32
  a : Fin 32
  b : Fin 32
  func : Nat
  imm : BitVec 16
  far : BitVec 26
  xop : Nat
  mod' : BitVec 5
  deriving DecidableEq, Repr

def fields (w : Word) : Fields where
  op := (w.extractLsb' 26 6).toNat
  d := Fin.ofNat 32 (w.extractLsb' 21 5).toNat
  a := Fin.ofNat 32 (w.extractLsb' 16 5).toNat
  b := Fin.ofNat 32 (w.extractLsb' 11 5).toNat
  func := (w.extractLsb' 0 11).toNat
  imm := w.extractLsb' 0 16
  far := w.extractLsb' 0 26
  xop := (w.extractLsb' 5 6).toNat
  mod' := w.extractLsb' 0 5

/-! ### Words of the formats -/

/-- A word of form A: opcode, func, d, a, b. -/
def wordA (op func : Nat) (d a b : Fin 32) : Word :=
  BitVec.ofNat 6 op ++ BitVec.ofNat 5 d.val ++ BitVec.ofNat 5 a.val ++ BitVec.ofNat 5 b.val ++ BitVec.ofNat 11 func

/-- A word of form I; of form B too, whose registers a and b stand in the first two fields. -/
def wordI (op : Nat) (d a : Fin 32) (imm : BitVec 16) : Word :=
  BitVec.ofNat 6 op ++ BitVec.ofNat 5 d.val ++ BitVec.ofNat 5 a.val ++ imm

/-- A word of form J. -/
def wordJ (op : Nat) (off : BitVec 26) : Word := BitVec.ofNat 6 op ++ off

/-- A word of form X: opcode, xop, d, a, b, mod. -/
def wordX (op xop : Nat) (d a b : Fin 32) (m : BitVec 5) : Word :=
  BitVec.ofNat 6 op ++ BitVec.ofNat 5 d.val ++ BitVec.ofNat 5 a.val ++ BitVec.ofNat 5 b.val ++ BitVec.ofNat 6 xop ++ m

/-! ### Legal words (R302, R318, R326; Tables 12.5 to 12.7, 12.9, 12.11, 12.13 to 12.15) -/

/-- A k register that names a transient. -/
def isTransient (k : Nat) : Bool := 8 ≤ k && k < 16

/-- Opcode 0x00 on an engine. -/
def legalA (e : Eng) (x : Fields) : Bool :=
  if [0x007, 0x00B, 0x00C, 0x00D, 0x00E, 0x010, 0x011, 0x015].contains x.func then !e.onVigil
  else if x.func ≤ 0x00A then e.has [x.d, x.a, x.b]
  else if [0x012, 0x013, 0x014, 0x020].contains x.func then !e.onVigil && x.b = 0
  else if x.func = 0x043 then !e.onVigil && x.a = 0 && x.b = 0
  else [0x040, 0x041, 0x042].contains x.func && x.d = 0 && x.a = 0 && x.b = 0 &&
    (if x.func = 0x040 then !e.onLadle else !e.onVigil)

/-- The opcodes of forms I and B on an engine. -/
def legalI (e : Eng) (x : Fields) : Bool :=
  let short := x.imm.toNat < 64
  if [0x02, 0x03, 0x04, 0x05].contains x.op || (0x20 ≤ x.op && x.op ≤ 0x25) then e.has [x.d, x.a]
  else if x.op = 0x08 then e.has [x.d] && x.a = 0
  else if x.op = 0x09 || x.op = 0x0A then e.has [x.d, x.a] && short
  else !e.onVigil && ([0x06, 0x07].contains x.op || (x.op = 0x0B && short) || (0x10 ≤ x.op && x.op ≤ 0x16) ||
    (0x18 ≤ x.op && x.op ≤ 0x1B))

/-- Opcode 0x30, Fleli-F: the fields that an instruction does not use are 0. -/
def legalF (x : Fields) : Bool :=
  let m := x.mod'.toNat
  match x.xop with
  | 0x00 | 0x0D => x.b = 0 && m = 0
  | 0x01 => x.b = 0 && m < 6
  | 0x02 => x.d = 0
  | 0x03 | 0x11 => x.d = 0 && m = 0
  | 0x04 => x.d = 0 && m < 2
  | 0x05 => x.d = 0 && x.a = 0 && x.b = 0 && m = 0
  | 0x08 | 0x10 => m = 0
  | 0x09 => x.b = 0 && m < 2
  | 0x0C | 0x15 => x.d = 0 && x.b = 0 && m = 0
  | 0x14 => x.a = 0 && x.b = 0 && m < 3
  | _ => false

/-- Opcode 0x34, Fleli-K: the field a and the mods that name a k register stay in their ranges. -/
def legalK (x : Fields) : Bool :=
  let m := x.mod'.toNat
  let k := x.a.val
  k < 16 && match x.xop with
  | 0x00 => isTransient (m % 16)
  | 0x01 => isTransient m
  | 0x02 => m < 2
  | 0x03 => isTransient k && m < 4
  | 0x04 => isTransient k && isTransient m && x.b = 0
  | 0x05 => isTransient k && x.d = 0 && x.b = 0 && m = 0
  | 0x06 | 0x07 => x.b = 0 && m = 0
  | _ => false

/-- Opcode 0x38, Fleli-O. -/
def legalO (x : Fields) : Bool :=
  let m := x.mod'.toNat
  match x.xop with
  | 0x00 | 0x01 => m = 0
  | 0x02 => x.b = 0 && m = 0
  | 0x03 => x.a = 0 && x.b = 0 && m = 0
  | 0x04 => x.d = 0 && x.a = 0 && x.b = 0 && m = 0
  | 0x05 => x.b = 0 && m < 2
  | _ => false

/-- Opcode 0x3C, Fleli-V. -/
def legalV (x : Fields) : Bool :=
  let m := x.mod'.toNat
  match x.xop with
  | 0x00 => x.a = 0 && x.b = 0 && m < 6
  | 0x01 => x.d = 0 && x.a = 0 && x.b = 0 && m = 0
  | 0x02 => x.d = 0 && x.b = 0 && m = 0
  | 0x03 => x.d = 0 && m = 0
  | _ => false

/-- The result latency of an instruction of a Ladle (Tables 12.8, 12.9), and the register that has its result then; none where
its whole thread waits. A load is taken as one of the space that is given, a branch as taken. -/
def latencyOf (x : Fields) (space : Nat) : Nat × Option Nat :=
  let d := some x.d.val
  match x.op with
  | 0x00 => if x.func = 0x010 || x.func = 0x011 then (3, d) else if x.func = 0x020 then (2, none)
    else if x.func = 0x041 then (12, none) else (1, d)
  | 0x10 | 0x11 | 0x12 | 0x13 | 0x14 | 0x15 | 0x16 => ([2, 8, 2, 4].getD space 6, d)
  | 0x1C => (10, d)
  | 0x20 | 0x21 | 0x22 | 0x23 | 0x24 | 0x25 | 0x28 | 0x29 => (2, none)
  | 0x30 => match x.xop with
    | 0x00 => (40, none)
    | 0x02 | 0x03 => (2, none)
    | 0x01 | 0x09 | 0x0D => (2, d)
    | 0x14 => (3, d)
    | _ => (1, d)
  | _ => (1, d)

/-- An instruction that reads data memory: a load of local, scratch or frame window, an atomic, `fskip`, the key instructions
and `ocall`, whose operands lie in local memory. -/
def readsMemory (x : Fields) (space : Nat) : Bool :=
  (0x10 ≤ x.op && x.op ≤ 0x16 && space < 3) || x.op = 0x1C || (x.op = 0x30 && x.xop = 0x01) || (x.op = 0x34 && x.xop < 3) ||
    (x.op = 0x38 && x.xop = 0x00)

/-- A word that is an instruction of an engine; any other is ILLEGAL on it. -/
def wordLegal (e : Eng) (w : Word) : Bool :=
  let x := fields w
  match x.op with
  | 0x00 => legalA e x
  | 0x1C => e.onLadle && x.func ≤ 4
  | 0x28 => true
  | 0x29 => !e.onVigil
  | 0x30 => e.onLadle && legalF x
  | 0x34 => e.onKsq && legalK x
  | 0x38 => e.onOrder && legalO x
  | 0x3C => e.onVigil && e.has [x.d, x.a, x.b] && legalV x
  | _ => legalI e x

end Sys2Proof.Machine
end

