-- ==== Sys2Proof/Machine/Fleli.lean ====
section
/-! DEFINITION. Chapter 12: the Fleli engines, the issue of an instruction, exceptions, and the base instructions.

A Fleli command is an engine issuing the instruction at its program counter: the command names the instruction, and does
nothing where the engine's code has another one there. -/
namespace Sys2Proof.Machine

/-! ### Engines and their registers (R290, R292) -/

/-- The number under which an engine's run is kept. -/
def engKey : Eng → Nat
  | .ladle m t => m.val * 4 + t.val
  | .ksq e => 1024 + e.val
  | .order => 1026
  | .vigil => 1027

def Chip.ectxAt (c : Chip) (k : Nat) : EngCtx := SMap.get (fun _ => {}) c.eng.ctx k

def Chip.setEctxAt (c : Chip) (k : Nat) (x : EngCtx) : Chip :=
  c.modEng fun e => { e with ctx := SMap.set (fun _ => {}) e.ctx k x }

/-- The state of an engine or thread. -/
def Chip.ectx (c : Chip) (e : Eng) : EngCtx := c.ectxAt (engKey e)

def Chip.setEctx (c : Chip) (e : Eng) (x : EngCtx) : Chip := c.setEctxAt (engKey e) x

/-- A register's value in a register file; g0 reads as 0. -/
def gOf (g : SMap DWord) (r : Nat) : DWord := if r = 0 then 0 else SMap.get (fun _ => 0) g r

/-- A register's value. -/
def Chip.gGet (c : Chip) (e : Eng) (r : Fin 32) : DWord := gOf (c.ectx e).g r.val

/-- A register written; a write to g0 is discarded. -/
def Chip.gSet (c : Chip) (e : Eng) (r : Fin 32) (v : DWord) : Chip :=
  if r.val = 0 then c
  else
    let x := c.ectx e
    c.setEctx e { x with g := SMap.set (fun _ => 0) x.g r.val v }

/-- The program counter of an engine set. -/
def Chip.setPc (c : Chip) (e : Eng) (pc : Nat) : Chip := c.setEctx e { c.ectx e with pc := pc }

/-! ### Images and limits (R331, R338) -/

def Chip.target (c : Chip) (t : Nat) : ImgTarget := SMap.get (fun _ => {}) c.eng.targets t

def Chip.setTarget (c : Chip) (t : Nat) (x : ImgTarget) : Chip :=
  c.modEng fun e => { e with targets := SMap.set (fun _ => {}) e.targets t x }

def Chip.ksqCtx (c : Chip) (e : Nat) : KsqCtx := SMap.get (fun _ => {}) c.eng.ksq e

def Chip.setKsq (c : Chip) (e : Nat) (x : KsqCtx) : Chip :=
  c.modEng fun g => { g with ksq := SMap.set (fun _ => {}) g.ksq e x }

/-- The target whose image an engine runs. -/
def Chip.targetOf (c : Chip) (e : Eng) : Nat :=
  match e with
  | .ladle m _ => m.val / 64
  | .ksq k => if k.val = 0 then 4 + (c.ksqCtx 0).slot else 11
  | .order => 8
  | .vigil => 9

/-- The image that an engine's run executes: the old bank's for a run that began on it. -/
def Chip.engImage (c : Chip) (e : Eng) : Option Image :=
  let t := c.target (c.targetOf e)
  if (c.ectx e).old then t.pending else t.active

/-- The length of the code an engine runs, in bytes. -/
def Chip.codeLen (c : Chip) (e : Eng) : Nat := match c.engImage e with
  | some i => i.code.length
  | none => 0

/-- The instructions that an engine may issue per run. -/
def Chip.runLimit (c : Chip) (e : Eng) : Nat :=
  match e with
  | .ladle _ _ => match c.engImage e with
    | some i => i.budget
    | none => 0
  | .ksq _ | .order => 1048576
  | .vigil => 256

/-! ### The end of a run -/

/-- An engine other than a Ladle ends its run; its registers keep what they hold. -/
def Chip.endRun (c : Chip) (e : Eng) : Chip := c.setEctx e { g := (c.ectx e).g }

/-- A key sequencer's run ends with a result: its transients are emptied, and the KEY_DERIVE that started it ends. A
result of 0 stages what the run staged (R295). -/
def Chip.ksqEnd (c : Chip) (e : Fin 2) (status : Nat) : Chip :=
  let c := (c.endRun (.ksq e)).setKsq e.val {}
  let c := c.modOrd fun o => { o with
    staged := if status = 0 then o.staged ++ o.stagedKsq else o.staged, stagedKsq := [] }
  if c.ord.wait = .ksq then c.finishOrder (.of status) else c

/-- The order engine's run ends: the block completes with what the registers hold (Table 13.5). -/
def Chip.orderEnd (c : Chip) (status : Nat) : Chip :=
  let g := fun (r : Fin 32) => (c.gGet .order r).toNat
  let detail := g 2 % 2 ^ 32
  let index := g 3 % 2 ^ 16
  let ret := g 4 + g 5 % 2 ^ 32 * 2 ^ 64
  (c.endRun .order).blockDone status detail index ret

/-- Each run of the vigil program is reported once main power is present (R347). -/
def Chip.vigilReport (c : Chip) (r : Nat × Bool × Nat) : Chip :=
  let items := [(4, r.1), (4, b2n r.2.1)] ++ (if r.2.2 = 0 then [] else [(4, r.2.2)])
  if c.powered then c.raise Ev.VIGIL_RUN 0x0BE items
  else c.modEng fun e => { e with vigilReports := e.vigilReports ++ [r] }

/-- The vigil program's run ends; one that ends by an exception erases both seal words and sets its
sticky flag (R346, R447). -/
def Chip.vigilEnd (c : Chip) (exc : Nat) : Chip :=
  let c := c.when (exc ≠ 0) fun c => ((c.eraseSeal).setFlag 15).modEng fun e => { e with vigilErased := true }
  let r := (c.eng.vigilCauses, c.eng.vigilErased, exc)
  let c := (c.endRun .vigil).modEng fun e => { e with vigilErased := false, vigilCauses := 0 }
  c.vigilReport r

/-! ### Exceptions (R327, R328, Tables 12.16, 12.17) -/

/-- R356: the record and the counts of a Ladle exception. -/
def Chip.ladleExc (c : Chip) (m t cause pc port : Nat) : Chip :=
  let q := m / 64
  let l := m % 64
  let c := ((c.setF F.LAD_STAT_cause [q, l] cause).setF F.LAD_STAT_thread [q, l] t).setF F.LAD_EXC_PC_pc [q, l] pc
  let c := (c.bump F.LAD_EXC_CNT_count [q]).perf m 7
  c.raise Ev.LAD_EXC (0x100 + m) [(4, cause), (4, pc), (4, t), (4, port)]

/-- An exception ends the run, with the outcome of its engine. -/
def Chip.except (c : Chip) (e : Eng) (cause : Nat) : Chip :=
  match e with
  | .ladle m t =>
    let k := engKey e
    let n := (SMap.get (fun _ => {}) c.eng.frames k).frame
    let port := match c.frame n with
      | some f => f.entry
      | none => 0
    (c.ladleExc m.val t.val cause (c.ectx e).pc port).freeThread k 0x86
  | .ksq j =>
    let c := (c.setF F.KSQ_STAT_exc [] 1).bump F.KSQ_EXC_CNT_count []
    (c.raise Ev.KSQ_EXC (0x0D8 + j.val)).ksqEnd j 0x4B
  | .order =>
    let c := (c.setF F.ORD_STAT_exc [] 1).bump F.ORD_EXC_CNT_count []
    (c.raise Ev.ORD_EXC 0x0E0).orderEnd 0x4B
  | .vigil => c.vigilEnd cause

/-! ### The issue of an instruction (R293, R306, R352) -/

/-- R352: the debug level lets the driver halt threads. -/
def Chip.debugging (c : Chip) : Bool := 2 ≤ c.ctl.dbg

/-- The thread stands at its quadrant's breakpoint and has not halted there. -/
def Chip.atBreakpoint (c : Chip) (e : Eng) : Bool :=
  match e with
  | .ladle m _ =>
    let q := m.val / 64
    c.debugging && c.getB F.LAD_DBG_CTL_bp_en [q] && c.getF F.LAD_DBG_BP_addr [q] * 4 = (c.ectx e).pc &&
      !(c.ectx e).bpPassed
  | _ => false

/-- The engine waits: for an offload, for the Pans, for an order or for time. -/
def Chip.engWaits (c : Chip) (e : Eng) : Bool :=
  match e with
  | .ladle _ _ => (c.ectx e).offload.isSome
  | .ksq j => (c.ksqCtx j.val).cmac.isSome
  | .order => c.ord.wait ≠ .none || c.ord.owait.isSome || c.ord.ended.isSome || c.ord.callReg.isSome
  | .vigil => false

/-- The engine can issue. -/
def Chip.ready (c : Chip) (e : Eng) : Bool :=
  let x := c.ectx e
  x.running && !x.halted && !c.engWaits e && !c.atBreakpoint e

/-- The word at an engine's program counter (R291, R297); none where the code has ended. -/
def Chip.codeWord (c : Chip) (e : Eng) : Option Word :=
  let pc := (c.ectx e).pc
  match c.engImage e with
  | some i => if pc + 4 ≤ i.code.length then some (BitVec.ofNat 32 (leNat (slice i.code pc 4))) else none
  | none => none

/-- The word address in a quadrant's instruction memory of the instruction that a thread issues; an image lies at the start
of its bank (DEDUCED, log entry 60). -/
def Chip.codeAddr (c : Chip) (e : Eng) : Nat :=
  let pc := (c.ectx e).pc / 4
  match c.engImage e with
  | some i => if !i.large && (c.target (c.targetOf e)).bank != (c.ectx e).old then 65536 + pc else pc
  | none => pc

/-- R351: a quadrant counts an instruction that its Ladle `m` issues, and chooses one of every *period* for its buffer. -/
def Chip.sampleTick (c : Chip) (m : Nat) (y : Sampled) : Chip :=
  let q := m / 64
  let n := SMap.get (fun _ => 0) c.eng.sampleCount q + 1
  let chosen := c.getF F.LAD_SMP_CFG_period [q] ≤ n
  let full := c.getB F.LAD_SMP_CFG_full [q] && !c.getB F.LAD_SMP_CFG_wrap [q]
  if !c.getB F.LAD_SMP_CFG_en [q] || c.ctl.dbg = 0 then c
  else c.modEng fun e => { e with
    sampleCount := SMap.set (fun _ => 0) e.sampleCount q (if chosen then 0 else n),
    sampled := if chosen && !full then e.sampled ++ [y] else e.sampled }

/-- R296: the effective address. -/
def Chip.ea (c : Chip) (e : Eng) (a : Fin 32) (imm : BitVec 16) : Nat :=
  ((c.gGet e a).setWidth 32 + imm.signExtend 32).toNat

/-- The address space that a load of an engine's next instruction reads. -/
def Chip.loadSpace (c : Chip) (e : Eng) (x : Fields) : Nat := c.ea e x.a x.imm / 2 ^ 28

/-- The last 40 instructions of a Ladle, most recent first. -/
def Chip.recent (c : Chip) (m : Nat) : List Issued := SMap.get (fun _ => []) c.eng.recent m

/-- R306: a thread may still wait for the result of one of its instructions: fewer instructions than its latency have been
issued since, and the next one names the register. Cycles without an issue are not in State (DEDUCED, log entry 58). -/
def Chip.mayWait (c : Chip) (m : Fin 256) (u : Fin 4) : Bool :=
  let x := (c.codeWord (.ladle m u)).map fields
  (c.recent m.val).zipIdx.any fun i => i.1.thread = u.val && i.2 + 1 < i.1.latency &&
    match i.1.dest, x with
    | some d, some x => [x.d.val, x.a.val, x.b.val].contains d
    | _, _ => true

/-- R293: a Ladle takes the next ready thread after the one that issued last. -/
def Chip.inTurn (c : Chip) (e : Eng) : Bool :=
  match e with
  | .ladle m t =>
    let first := ((c.recent m.val).head?.map (·.thread)).getD 3 + 1
    let between := ((List.range 4).map fun i => (first + i) % 4).takeWhile (· ≠ t.val)
    !between.any fun u => c.ready (.ladle m (Fin.ofNat 4 u)) && !c.mayWait m (Fin.ofNat 4 u)
  | _ => true

/-- The instruction is counted, and the program counter steps to the next. -/
def Chip.advance (c : Chip) (e : Eng) : Chip :=
  let x := c.ectx e
  let y := fun (m t : Nat) => ({ ladle := m, thread := t, encoding := (c.codeWord e).getD 0, addr := c.codeAddr e } : Sampled)
  let w := fields ((c.codeWord e).getD 0)
  let space := c.loadSpace e w
  let c := c.setEctx e { x with pc := x.pc + 4, issued := x.issued + 1, bpPassed := false }
  match e with
  | .ladle m t =>
    let r := latencyOf w space
    let c := c.modEng fun g => { g with
      recent := SMap.set (fun _ => []) g.recent m.val ((⟨t.val, r.1, r.2⟩ :: c.recent m.val).take 40) }
    (c.perf m.val 2).sampleTick m.val (y m.val t.val)
  | _ => c

/-- R352: a thread halts, with its event. -/
def Chip.haltThread (c : Chip) (m t : Nat) : Chip :=
  let k := m * 4 + t
  (c.setEctxAt k { c.ectxAt k with halted := true, stepOne := false }).raise Ev.LAD_BRK (0x100 + m)

/-- After one instruction of a step the thread halts, also where that has ended its frame. -/
def Chip.afterStep (c : Chip) (e : Eng) (step : Bool) : Chip :=
  match e with
  | .ladle m t => c.when (step && !(c.ectx e).halted) fun c => c.haltThread m.val t.val
  | _ => c

/-- What an instruction does: the block after it, or the exception it raises. -/
abbrev Body := Chip → Except Nat Chip

/-- R340: an engine meets an uncorrectable error in an instruction or table word: it raises ECC, and the word is repaired from
the copy of the image in the HBM, which is read under the key ID 30. -/
def Chip.progEcc (c : Chip) (e : Eng) : Chip :=
  let src := match e with
    | .ladle m _ => 0x100 + m.val
    | .ksq j => 0x0D8 + j.val
    | .order => 0x0E0
    | .vigil => 0x0BE
  let chan := match e with
    | .ladle m _ => (3, m.val)
    | .ksq j => (6, j.val)
    | _ => (7, 0)
  let t := c.targetOf e
  let copy := if c.kidReads 30 && !(c.ectx e).old then (c.target t).copy else none
  let c := c.setEctx e { c.ectx e with fetchEcc := false }
  let (i, c) := ((c.except e 6).raise Ev.PROG_ECC src).draw
  let c := c.when copy.isSome fun c => c.setTarget t { c.target t with active := copy }
  c.transient chan.1 chan.2 (Config.freeNat i % 2 ^ 32) false

/-- R327: the engine's next instruction reads a data word with an uncorrectable error. -/
def Chip.readsEcc (c : Chip) (e : Eng) : Bool :=
  (c.ectx e).dataEcc && (c.codeWord e).any fun w => readsMemory (fields w) (c.loadSpace e (fields w))

/-- R327 to R329: an engine issues an instruction. The exception that comes first in Table 12.16 is taken. -/
def Chip.issue (c : Chip) (e : Eng) (body : Body) : Chip :=
  let step := (c.ectx e).stepOne
  if !(c.ready e && c.inTurn e) then c
  else if (c.ectx e).fetchEcc then (c.progEcc e).afterStep e step
  else if c.runLimit e ≤ (c.ectx e).issued then (c.except e 5).afterStep e step
  else if c.codeLen e < (c.ectx e).pc + 4 then (c.except e 4).afterStep e step
  else match body (c.advance e) with
    | .error k => (c.except e k).afterStep e step
    | .ok d => if c.readsEcc e then (c.except e 6).afterStep e step else d.afterStep e step

/-- R301, R302: the command of an engine issuing the instruction of word `w`, which stands at its program counter. A word there
that is no instruction of the engine is ILLEGAL. -/
def fleli (e : Eng) (w : Word) (f : Chip → Chip) : State → Host.Outcome State Fault Refusal := lift fun c =>
  match c.codeWord e with
  | none => f c
  | some v => if !wordLegal e v then c.issue e fun _ => .error 1 else if v = w then f c else c

/-! ### ALU instructions (R303, R304, Table 12.6) -/

/-- `d` = `f a b`. -/
def Chip.alu (c : Chip) (e : Eng) (d a b : Fin 32) (f : DWord → DWord → DWord) : Chip :=
  c.issue e fun c => .ok (c.gSet e d (f (c.gGet e a) (c.gGet e b)))

/-- `d` = `f a`. -/
def Chip.alu1 (c : Chip) (e : Eng) (d a : Fin 32) (f : DWord → DWord) : Chip :=
  c.issue e fun c => .ok (c.gSet e d (f (c.gGet e a)))

/-- An immediate instruction. -/
def Chip.aluI (c : Chip) (e : Eng) (d a : Fin 32) (f : DWord → DWord) : Chip :=
  c.issue e fun c => .ok (c.gSet e d (f (c.gGet e a)))

/-- A truth value as a register. -/
def flagWord (b : Bool) : DWord := if b then 1 else 0

/-- The shift amount of a register. -/
def shamt (b : DWord) : Nat := b.toNat % 64

/-- Leading zeros. -/
def clz64 (a : DWord) : Nat := if a = 0 then 64 else 63 - Nat.log2 a.toNat

/-- Set bits. -/
def popc64 (a : DWord) : Nat := ((List.range 64).filter fun i => bit a.toNat i).length

/-- Bytes reversed. -/
def bswap64 (a : DWord) : DWord := BitVec.ofNat 64 (beNat (leBytes 8 a.toNat))

/-- `ext`: a field of `a` from bit b[5:0], b[11:6] bits wide, 0 meaning 64. -/
def ext64 (a b : DWord) : DWord :=
  let w := b.toNat / 64 % 64
  BitVec.ofNat 64 (a.toNat / 2 ^ shamt b % 2 ^ (if w = 0 then 64 else w))

def execAdd (e : Eng) (d a b : Fin 32) := fleli e (wordA 0x00 0x000 d a b) fun c => c.alu e d a b fun x y => x + y
def execSub (e : Eng) (d a b : Fin 32) := fleli e (wordA 0x00 0x001 d a b) fun c => c.alu e d a b fun x y => x - y
def execAnd (e : Eng) (d a b : Fin 32) := fleli e (wordA 0x00 0x002 d a b) fun c => c.alu e d a b fun x y => x &&& y
def execOr (e : Eng) (d a b : Fin 32) := fleli e (wordA 0x00 0x003 d a b) fun c => c.alu e d a b fun x y => x ||| y
def execXor (e : Eng) (d a b : Fin 32) := fleli e (wordA 0x00 0x004 d a b) fun c => c.alu e d a b fun x y => x ^^^ y
def execSll (e : Eng) (d a b : Fin 32) := fleli e (wordA 0x00 0x005 d a b) fun c => c.alu e d a b fun x y => x <<< shamt y
def execSrl (e : Eng) (d a b : Fin 32) := fleli e (wordA 0x00 0x006 d a b) fun c => c.alu e d a b fun x y => x >>> shamt y
def execSra (e : Eng) (d a b : Fin 32) := fleli e (wordA 0x00 0x007 d a b) fun c =>
  c.alu e d a b fun x y => x.sshiftRight (shamt y)
def execSlt (e : Eng) (d a b : Fin 32) := fleli e (wordA 0x00 0x008 d a b) fun c =>
  c.alu e d a b fun x y => flagWord (x.slt y)
def execSltu (e : Eng) (d a b : Fin 32) := fleli e (wordA 0x00 0x009 d a b) fun c =>
  c.alu e d a b fun x y => flagWord (x.ult y)
def execSeq (e : Eng) (d a b : Fin 32) := fleli e (wordA 0x00 0x00A d a b) fun c =>
  c.alu e d a b fun x y => flagWord (decide (x = y))
def execMin (e : Eng) (d a b : Fin 32) := fleli e (wordA 0x00 0x00B d a b) fun c =>
  c.alu e d a b fun x y => if y.slt x then y else x
def execMinu (e : Eng) (d a b : Fin 32) := fleli e (wordA 0x00 0x00C d a b) fun c =>
  c.alu e d a b fun x y => if y.ult x then y else x
def execMax (e : Eng) (d a b : Fin 32) := fleli e (wordA 0x00 0x00D d a b) fun c =>
  c.alu e d a b fun x y => if x.slt y then y else x
def execMaxu (e : Eng) (d a b : Fin 32) := fleli e (wordA 0x00 0x00E d a b) fun c =>
  c.alu e d a b fun x y => if x.ult y then y else x
def execMul (e : Eng) (d a b : Fin 32) := fleli e (wordA 0x00 0x010 d a b) fun c => c.alu e d a b fun x y => x * y
def execMulhu (e : Eng) (d a b : Fin 32) := fleli e (wordA 0x00 0x011 d a b) fun c =>
  c.alu e d a b fun x y => BitVec.ofNat 64 (x.toNat * y.toNat / 2 ^ 64)
def execExt (e : Eng) (d a b : Fin 32) := fleli e (wordA 0x00 0x015 d a b) fun c => c.alu e d a b ext64
def execClz (e : Eng) (d a : Fin 32) := fleli e (wordA 0x00 0x012 d a 0) fun c =>
  c.alu1 e d a fun x => BitVec.ofNat 64 (clz64 x)
def execPopc (e : Eng) (d a : Fin 32) := fleli e (wordA 0x00 0x013 d a 0) fun c =>
  c.alu1 e d a fun x => BitVec.ofNat 64 (popc64 x)
def execBswap (e : Eng) (d a : Fin 32) := fleli e (wordA 0x00 0x014 d a 0) fun c => c.alu1 e d a bswap64

def execAddi (e : Eng) (d a : Fin 32) (imm : BitVec 16) := fleli e (wordI 0x02 d a imm) fun c =>
  c.aluI e d a fun x => x + imm.signExtend 64
def execAndi (e : Eng) (d a : Fin 32) (imm : BitVec 16) := fleli e (wordI 0x03 d a imm) fun c =>
  c.aluI e d a fun x => x &&& imm.setWidth 64
def execOri (e : Eng) (d a : Fin 32) (imm : BitVec 16) := fleli e (wordI 0x04 d a imm) fun c =>
  c.aluI e d a fun x => x ||| imm.setWidth 64
def execXori (e : Eng) (d a : Fin 32) (imm : BitVec 16) := fleli e (wordI 0x05 d a imm) fun c =>
  c.aluI e d a fun x => x ^^^ imm.setWidth 64
def execSlti (e : Eng) (d a : Fin 32) (imm : BitVec 16) := fleli e (wordI 0x06 d a imm) fun c =>
  c.aluI e d a fun x => flagWord (x.slt (imm.signExtend 64))
def execSltiu (e : Eng) (d a : Fin 32) (imm : BitVec 16) := fleli e (wordI 0x07 d a imm) fun c =>
  c.aluI e d a fun x => flagWord (x.ult (imm.signExtend 64))
def execLui (e : Eng) (d : Fin 32) (imm : BitVec 16) := fleli e (wordI 0x08 d 0 imm) fun c =>
  c.aluI e d 0 fun _ => ((imm.setWidth 32) <<< 16).signExtend 64
def execSlli (e : Eng) (d a : Fin 32) (sh : BitVec 6) := fleli e (wordI 0x09 d a (sh.setWidth 16)) fun c =>
  c.aluI e d a fun x => x <<< sh.toNat
def execSrli (e : Eng) (d a : Fin 32) (sh : BitVec 6) := fleli e (wordI 0x0A d a (sh.setWidth 16)) fun c =>
  c.aluI e d a fun x => x >>> sh.toNat
def execSrai (e : Eng) (d a : Fin 32) (sh : BitVec 6) := fleli e (wordI 0x0B d a (sh.setWidth 16)) fun c =>
  c.aluI e d a fun x => x.sshiftRight sh.toNat

/-! ### Branches and jumps (R291, R304) -/

/-- A jump to a byte address inside the code; the program counter stands behind the jump already. -/
def Chip.jumpTo (c : Chip) (e : Eng) (t : Int) : Except Nat Chip :=
  if t < 0 || (c.codeLen e : Int) ≤ t then .error 4
  else
    let c := c.setPc e t.toNat
    .ok (match e with
      | .ladle m _ => c.perf m.val 0x0B
      | _ => c)

/-- The address of the instruction that is being issued. -/
def Chip.herePc (c : Chip) (e : Eng) : Int := ((c.ectx e).pc : Int) - 4

/-- A branch taken when `f a b`. -/
def Chip.branch (c : Chip) (e : Eng) (a b : Fin 32) (off : BitVec 16) (f : DWord → DWord → Bool) : Chip :=
  c.issue e fun c =>
    if f (c.gGet e a) (c.gGet e b) then c.jumpTo e (c.herePc e + 4 * off.toInt) else .ok c

def execBeq (e : Eng) (a b : Fin 32) (off : BitVec 16) := fleli e (wordI 0x20 a b off) fun c =>
  c.branch e a b off fun x y => decide (x = y)
def execBne (e : Eng) (a b : Fin 32) (off : BitVec 16) := fleli e (wordI 0x21 a b off) fun c =>
  c.branch e a b off fun x y => !decide (x = y)
def execBlt (e : Eng) (a b : Fin 32) (off : BitVec 16) := fleli e (wordI 0x22 a b off) fun c =>
  c.branch e a b off fun x y => x.slt y
def execBge (e : Eng) (a b : Fin 32) (off : BitVec 16) := fleli e (wordI 0x23 a b off) fun c =>
  c.branch e a b off fun x y => !x.slt y
def execBltu (e : Eng) (a b : Fin 32) (off : BitVec 16) := fleli e (wordI 0x24 a b off) fun c =>
  c.branch e a b off fun x y => x.ult y
def execBgeu (e : Eng) (a b : Fin 32) (off : BitVec 16) := fleli e (wordI 0x25 a b off) fun c =>
  c.branch e a b off fun x y => !x.ult y

def execJ (e : Eng) (off : BitVec 26) := fleli e (wordJ 0x28 off) fun c =>
  c.issue e fun c => c.jumpTo e (c.herePc e + 4 * off.toInt)

def execJal (e : Eng) (off : BitVec 26) := fleli e (wordJ 0x29 off) fun c =>
  c.issue e fun c =>
    (c.gSet e 31 (BitVec.ofNat 64 (c.ectx e).pc)).jumpTo e (c.herePc e + 4 * off.toInt)

def execJalr (e : Eng) (d a : Fin 32) := fleli e (wordA 0x00 0x020 d a 0) fun c =>
  c.issue e fun c =>
    let t := (c.gGet e a).toNat
    if c.codeLen e ≤ t then .error 4
    else if t % 4 ≠ 0 then .error 3
    else (c.gSet e d (BitVec.ofNat 64 (c.ectx e).pc)).jumpTo e t

/-! ### Loads and stores (R296 to R300, Tables 12.2, 12.3) -/

/-- Where the local memory of an engine lies in program memory. -/
def localBase (e : Eng) : Nat :=
  match e with
  | .ladle m _ => m.val * 0x8000
  | .ksq j => 0x20000000 + j.val * 0x1000
  | .order => ordLocal
  | .vigil => 0

/-- Where the scratch memory of a quadrant lies. -/
def scratchBase (q : Nat) : Nat := 0x10000000 + q * 0x200000

/-- The size of an engine's local memory. -/
def localSize (e : Eng) : Nat :=
  match e with
  | .ladle _ _ => 0x7800
  | .ksq _ => 0x1000
  | .order => 0x4000
  | .vigil => 0

/-- The table section that an engine reads. -/
def Chip.engTable (c : Chip) (e : Eng) : Bytes := match c.engImage e with
  | some i => i.table
  | none => []

/-- R349, R350: frame programs of a quadrant may load the counter space. -/
def Chip.perfUser (c : Chip) (q : Nat) : Bool := c.getB F.LAD_Q_CFG_perf_user_en [q] && c.ctl.dbg ≠ 0

/-- What a thread holds for its frame. -/
def Chip.fctx (c : Chip) (e : Eng) : FrameCtx := SMap.get (fun _ => {}) c.eng.frames (engKey e)

def Chip.setFctx (c : Chip) (e : Eng) (x : FrameCtx) : Chip :=
  c.modEng fun g => { g with frames := SMap.set (fun _ => {}) g.frames (engKey e) x }

/-- R299: a byte of the frame window. -/
def FrameCtx.windowByte (x : FrameCtx) (o : Nat) : Byte :=
  if o < 320 then (if o < x.header.length then x.header.getD o 0 else 0)
  else if o - 320 < x.extraValid then x.extra.getD (o - 320) 0
  else 0

/-- R349: the counter space from an offset, as a number of 64 bits; what lies between the counters is open. -/
def Chip.counterSpace (c : Chip) (m o : Nat) : Nat × Chip :=
  let q := m / 64
  let l := m % 64
  if o < 0x20 then
    let i := o / 8
    let v := c.getF F.LAD_CNT_LO_count [q, l, i] + c.getF F.LAD_CNT_HI_count [q, l, i] * 2 ^ 32 +
      2 ^ 63 * b2n (bit (c.getF F.LAD_STAT_ovf [q, l]) i)
    (v / 2 ^ (8 * (o % 8)), c)
  else if 0x100 ≤ o && o < 0x140 then
    let j := (o - 0x100) / 4
    let v := c.getF F.LAD_QCNT_count [q, j] + c.getF F.LAD_QCNT_count [q, j + 1] * 2 ^ 32
    (v / 2 ^ (8 * (o % 4)), c)
  else if 0x200 ≤ o then
    let p := (o - 0x200) / 8
    let v := c.getF F.LAD_QCNT_count [q, 2 * p] + c.getF F.LAD_QCNT_count [q, 2 * p + 1] * 2 ^ 32
    (v / 2 ^ (8 * (o % 8)), c)
  else
    let (i, c) := c.draw
    ((Config.freeBits i 64).toNat, c)

/-- A load of `n` bytes at an effective address: its value, or the exception. -/
def Chip.loadAt (c : Chip) (e : Eng) (ea n : Nat) : Except Nat (Nat × Chip) :=
  let s := ea / 2 ^ 28
  let o := ea % 2 ^ 28
  let read := fun (base size : Nat) =>
    if size < o + n then (.error 4 : Except Nat (Nat × Chip))
    else if o % n ≠ 0 then .error 3
    else .ok (leNat (c.memBytes (base + o) n), c)
  match s, e with
  | 0, _ => read (localBase e) (localSize e)
  | 1, .ladle m _ => (read (scratchBase (m.val / 64)) 0x200000).map fun r => (r.1, r.2.perf m.val 0x0A)
  | 2, .ladle _ _ =>
    if 512 < o + n then .error 4
    else .ok (beNat ((List.range n).map fun i => (c.fctx e).windowByte (o + i)), c)
  | 3, _ =>
    if (c.engTable e).length < o + n then .error 4
    else if o % n ≠ 0 then .error 3
    else .ok (leNat (slice (c.engTable e) o n), c)
  | 4, .ladle m _ =>
    if !c.perfUser (m.val / 64) then .error 2
    else if 0x240 < o + n then .error 4
    else if o % n ≠ 0 then .error 3
    else
      let r := c.counterSpace m.val o
      .ok (r.1 % 2 ^ (8 * n), r.2)
  | _, _ => .error 4

/-- A store of `n` bytes of `v` at an effective address. -/
def Chip.storeAt (c : Chip) (e : Eng) (ea n v : Nat) : Except Nat Chip :=
  let s := ea / 2 ^ 28
  let o := ea % 2 ^ 28
  let write := fun (base size : Nat) =>
    if size < o + n then (.error 4 : Except Nat Chip)
    else if o % n ≠ 0 then .error 3
    else .ok (c.memWrite (base + o) (leBytes n v))
  match s, e with
  | 0, _ => write (localBase e) (localSize e)
  | 1, .ladle m _ => write (scratchBase (m.val / 64)) 0x200000
  | 2, .ladle _ _ =>
    let x := c.fctx e
    if 320 < o + n && o < 512 then .error 2
    else if x.header.length < o + n then .error 4
    else .ok (c.setFctx e { x with header := x.header.take o ++ beBytes n v ++ x.header.drop (o + n) })
  | 3, _ => .error 2
  | 4, .ladle _ _ => .error 2
  | _, _ => .error 4

/-- A load instruction: `f` extends what `n` bytes give. -/
def Chip.load (c : Chip) (e : Eng) (n : Nat) (d a : Fin 32) (imm : BitVec 16) (f : Nat → DWord) : Chip :=
  c.issue e fun c =>
    match c.loadAt e (c.ea e a imm) n with
    | .error k => .error k
    | .ok (v, c) => .ok (c.gSet e d (f v))

/-- A store instruction. -/
def Chip.store (c : Chip) (e : Eng) (n : Nat) (src a : Fin 32) (imm : BitVec 16) : Chip :=
  c.issue e fun c => c.storeAt e (c.ea e a imm) n ((c.gGet e src).toNat % 2 ^ (8 * n))

/-- A value sign-extended from `w` bits. -/
def sext (w v : Nat) : DWord := (BitVec.ofNat w v).signExtend 64

def execL8u (e : Eng) (d a : Fin 32) (imm : BitVec 16) := fleli e (wordI 0x10 d a imm) fun c =>
  c.load e 1 d a imm (BitVec.ofNat 64)
def execL16u (e : Eng) (d a : Fin 32) (imm : BitVec 16) := fleli e (wordI 0x11 d a imm) fun c =>
  c.load e 2 d a imm (BitVec.ofNat 64)
def execL32u (e : Eng) (d a : Fin 32) (imm : BitVec 16) := fleli e (wordI 0x12 d a imm) fun c =>
  c.load e 4 d a imm (BitVec.ofNat 64)
def execL64 (e : Eng) (d a : Fin 32) (imm : BitVec 16) := fleli e (wordI 0x13 d a imm) fun c =>
  c.load e 8 d a imm (BitVec.ofNat 64)
def execL8s (e : Eng) (d a : Fin 32) (imm : BitVec 16) := fleli e (wordI 0x14 d a imm) fun c => c.load e 1 d a imm (sext 8)
def execL16s (e : Eng) (d a : Fin 32) (imm : BitVec 16) := fleli e (wordI 0x15 d a imm) fun c =>
  c.load e 2 d a imm (sext 16)
def execL32s (e : Eng) (d a : Fin 32) (imm : BitVec 16) := fleli e (wordI 0x16 d a imm) fun c =>
  c.load e 4 d a imm (sext 32)
def execS8 (e : Eng) (src a : Fin 32) (imm : BitVec 16) := fleli e (wordI 0x18 src a imm) fun c => c.store e 1 src a imm
def execS16 (e : Eng) (src a : Fin 32) (imm : BitVec 16) := fleli e (wordI 0x19 src a imm) fun c => c.store e 2 src a imm
def execS32 (e : Eng) (src a : Fin 32) (imm : BitVec 16) := fleli e (wordI 0x1A src a imm) fun c => c.store e 4 src a imm
def execS64 (e : Eng) (src a : Fin 32) (imm : BitVec 16) := fleli e (wordI 0x1B src a imm) fun c => c.store e 8 src a imm

/-! ### Atomics (R305, Table 12.7) -/

/-- An atomic: the old scratch word goes to `d`, `f old gb` replaces it. -/
def Chip.atomic (c : Chip) (e : Eng) (d a b : Fin 32) (f : DWord → DWord → DWord) : Chip :=
  c.issue e fun c =>
    let ea := (c.gGet e a).toNat % 2 ^ 32
    let o := ea % 2 ^ 28
    match e with
    | .ladle m _ =>
      if ea / 2 ^ 28 ≠ 1 || 0x200000 < o + 8 then .error 4
      else if o % 8 ≠ 0 then .error 3
      else
        let at' := scratchBase (m.val / 64) + o
        let old := BitVec.ofNat 64 (leNat (c.memBytes at' 8))
        let new := f old (c.gGet e b)
        .ok (((c.memWrite at' (leBytes 8 new.toNat)).gSet e d old).perf m.val 0x0A)
    | _ => .error 1

def execAadd (e : Eng) (d a b : Fin 32) := fleli e (wordA 0x1C 0x000 d a b) fun c => c.atomic e d a b fun x y => x + y
def execAand (e : Eng) (d a b : Fin 32) := fleli e (wordA 0x1C 0x001 d a b) fun c => c.atomic e d a b fun x y => x &&& y
def execAor (e : Eng) (d a b : Fin 32) := fleli e (wordA 0x1C 0x002 d a b) fun c => c.atomic e d a b fun x y => x ||| y
def execAswap (e : Eng) (d a b : Fin 32) := fleli e (wordA 0x1C 0x003 d a b) fun c => c.atomic e d a b fun _ y => y
def execAmaxu (e : Eng) (d a b : Fin 32) := fleli e (wordA 0x1C 0x004 d a b) fun c =>
  c.atomic e d a b fun x y => if x.ult y then y else x

/-! ### System instructions (Table 12.6) -/

/-- `halt` ends the run of every engine but a Ladle, with the outcome the registers give. -/
def Chip.haltRun (c : Chip) (e : Eng) : Chip :=
  match e with
  | .ladle _ _ => c
  | .ksq j => c.ksqEnd j ((c.gGet e 1).toNat % 256)
  | .order => c.orderEnd ((c.gGet e 1).toNat % 256)
  | .vigil => c.vigilEnd 0

def execHalt (e : Eng) := fleli e (wordA 0x00 0x040 0 0 0) fun c => c.issue e fun c => .ok (c.haltRun e)

/-- `fence`: the stores and atomics of a thread are visible to its quadrant as they are issued. -/
def execFence (e : Eng) := fleli e (wordA 0x00 0x041 0 0 0) fun c => c.issue e fun c => .ok c

def execBrk (e : Eng) := fleli e (wordA 0x00 0x042 0 0 0) fun c =>
  c.issue e fun c =>
    match e with
    | .ladle m t => .ok (c.when c.debugging fun c => c.haltThread m.val t.val)
    | _ => .ok c

def execRdcyc (e : Eng) (d : Fin 32) := fleli e (wordA 0x00 0x043 d 0 0) fun c =>
  c.issue e fun c => .ok (c.gSet e d (BitVec.ofNat 64 (c.ectx e).issued))

/-! ### Debug (R352) and errors in program and data memory (R327, R340) -/

/-- The thread that a quadrant's LAD_DBG_CTL names. -/
def Chip.dbgThread (c : Chip) (q : Nat) : Nat × Nat :=
  (q * 64 + c.getF F.LAD_DBG_CTL_ladle [q], c.getF F.LAD_DBG_CTL_thread [q])

/-- A thread that holds a frame reaches the breakpoint address and halts. -/
def Chip.breakpointHit (c : Chip) (m t : Nat) : Chip :=
  let k := m * 4 + t
  let x := c.ectxAt k
  let q := m / 64
  if x.running && !x.halted && x.offload.isNone && c.debugging && c.getB F.LAD_DBG_CTL_bp_en [q] &&
      c.getF F.LAD_DBG_BP_addr [q] * 4 = x.pc && !x.bpPassed then
    (c.setEctxAt k { x with bpPassed := true }).haltThread m t
  else c

def execBreakpointHit (ladle : Fin 256) (thread : Fin 4) := lift fun c => c.breakpointHit ladle.val thread.val

/-- A debug command of LAD_DBG_CTL, under D2; under other levels a write is dropped with its event. -/
def Chip.dbgCommand (c : Chip) (q : Nat) (f : Chip → Nat → Nat → Chip) : Chip :=
  if c.debugging then
    let (m, t) := c.dbgThread q
    f c m t
  else c

/-- The driver halts the chosen thread. -/
def Chip.dbgHalt (c : Chip) (q : Nat) : Chip := c.dbgCommand q fun c m t =>
  let k := m * 4 + t
  c.setEctxAt k { c.ectxAt k with halted := true, stepOne := false }

/-- The driver lets a halted thread issue one instruction. -/
def Chip.dbgStep (c : Chip) (q : Nat) : Chip := c.dbgCommand q fun c m t =>
  let k := m * 4 + t
  let x := c.ectxAt k
  c.when x.halted fun c => c.setEctxAt k { x with halted := false, stepOne := true, bpPassed := true }

/-- The driver resumes a halted thread. -/
def Chip.dbgResume (c : Chip) (q : Nat) : Chip := c.dbgCommand q fun c m t =>
  let k := m * 4 + t
  let x := c.ectxAt k
  c.when x.halted fun c => c.setEctxAt k { x with halted := false, stepOne := false, bpPassed := true }

/-- A corrected error is counted (R340, R348). -/
def Chip.eccCorrected (c : Chip) (e : Eng) : Chip :=
  match e with
  | .ladle m _ => (c.bump F.LAD_ECC_CNT_count [m.val / 64]).perfQuad (m.val / 64) 0x12
  | .ksq _ => c.bump F.KSQ_ECC_CNT_count []
  | .order => c.bump F.ORD_ECC_CNT_count []
  | .vigil => c

/-- PROGRAM_ECC_REPAIR: SECDED finds an error for an engine. One in an instruction word that a waiting thread has fetched, or a
thread between two frames (R353), is met by its next instruction. -/
def Chip.engineEcc (c : Chip) (e : Eng) (kind : EccKind) : Chip :=
  let x := c.ectx e
  if e.onVigil || !c.running then c
  else match kind with
    | .corrected => c.eccCorrected e
    | .fetch =>
      if c.ready e then (c.progEcc e).afterStep e x.stepOne
      else c.when (x.running || e.onLadle) fun c => c.setEctx e { x with fetchEcc := true }
    | .data => c.when x.running fun c => c.setEctx e { x with dataEcc := true }

def execProgramEccRepair (error : EccError) := lift fun c => c.engineEcc error.eng error.kind

/-! ### The fabric's integrity code (R446) -/

/-- FABRIC_IIC_MISMATCH. Where the third repeat of the transfer has failed too, its receiver has a data error of its own: a Pan as
the check of its request's entry, a program engine an ECC exception with the data that it reads. -/
def execFabricIicMismatch (error : IicError) := lift fun c =>
  (c.iicMismatch error.last).when error.last fun c => match error.receiver with
    | .pan req => c.panError req 0
    | .engine e => c.engineEcc e .data
    | .other => c

end Sys2Proof.Machine
end

