-- ==== Sys2Proof/Machine/FleliFrame.lean ====
section
/-! DEFINITION. Chapter 12, Fleli-F: the start of a frame pass on a Ladle thread, and the instructions of frame
programs (R294, R307 to R317). -/
namespace Sys2Proof.Machine

/-! ### The start of a pass (R34, R294, R339, R370) -/

/-- The Ladle takes frames: it is in service and not under its core test. -/
def Chip.ladleFree (c : Chip) (m : Nat) : Bool :=
  c.getB F.LAD_STAT_in_service [m / 64, m % 64] && c.eng.testing ≠ some m

/-- A free thread of the port's quadrant takes a frame of the ingress pool; one read with poison is dropped (R284). -/
def Chip.threadStart (c : Chip) (m t : Nat) (n : Nat) : Chip :=
  let k := m * 4 + t
  let x := c.ectxAt k
  match c.frame n with
  | none => c
  | some f =>
    if f.stage ≠ .pool || x.running || !c.ladleFree m || quadrantOf f.entry ≠ m / 64 || !c.running || c.inMode [.rest] then c
    else if c.readsPoison f then c.poisonDrop n
    else if c.inMode [.lockdown] then c.dropFrame n 0x89
    else
      match (c.target (m / 64)).active with
      | none => (c.ladleExc m t 0 0 f.entry).dropFrame n 0x86
      | some i =>
        let whole := f.data ++ fcs f.data
        let win := min (c.hdrWin f.entry f.sub) whole.length
        let g := SMap.set (fun _ => 0) x.g 1 (BitVec.ofNat 64 f.summary)
        let g := SMap.set (fun _ => 0) g 2 (BitVec.ofNat 64 (whole.length + 2 ^ 16 * f.entry + 2 ^ 21 * f.sub))
        let g := SMap.set (fun _ => 0) g 3 (BitVec.ofNat 64 (packTime f.ts c.holdover))
        let c := c.setEctxAt k { g := g, pc := i.entry, running := true, halted := x.halted, stepOne := x.stepOne, fetchEcc := x.fetchEcc }
        let fx : FrameCtx := { frame := n, header := whole.take win, rest := whole.drop win }
        let c := c.modEng fun e => { e with frames := SMap.set (fun _ => {}) e.frames k fx }
        (c.setFrame n (some { f with stage := .ladle k })).perf m 4

def execLadleThreadStart (ladle : Fin 256) (thread : Fin 4) (frame : Nat) :=
  lift fun c => c.threadStart ladle.val thread.val frame

/-- R409: one Ladle at a time leaves the pool for its core test. -/
def execLadleCoreTest (ladle : Fin 256) := lift fun c =>
  if c.running && c.eng.testing.isNone && c.ladleFree ladle.val then
    c.modEng fun e => { e with testing := some ladle.val }
  else c

/-- R409: the Ladle returns to the pool, or reports a fault of its class. -/
def execLadleCoreTestEnd (ladle : Fin 256) (pass : Bool) := lift fun c =>
  if c.eng.testing = some ladle.val then
    let c := c.modEng fun e => { e with testing := none }
    if pass then c
    else
      let (i, c) := c.draw
      c.transient 3 ladle.val (Config.freeNat i % 2 ^ 32) false
  else c

/-! ### A pass -/

/-- The frame of a thread; an empty one where it holds none. -/
def Chip.threadFrame (c : Chip) (e : Eng) : Frame := (c.frame (c.fctx e).frame).getD {}

/-- The number of an engine's Ladle. -/
def ladleOf (e : Eng) : Nat :=
  match e with
  | .ladle m _ => m.val
  | _ => 0

/-- The lower 32 bits of a register. -/
def low32 (v : DWord) : Nat := v.toNat % 2 ^ 32

/-- A frame that its pass reads with poison is dropped, and the pass ends (R284). -/
def Chip.poisonPass (c : Chip) (e : Eng) : Chip := (c.endThread (engKey e)).poisonDrop (c.fctx e).frame

/-- `fwin`; it waits for the bytes of the frame. -/
def execFwin (e : Eng) (d a : Fin 32) := fleli e (wordX 0x30 0x00 d a 0 0) fun c =>
  if (c.threadFrame e).coming then c else c.issue e fun c =>
  let f := c.threadFrame e
  if c.readsPoison f then .ok (c.poisonPass e) else
  let b := ((f.data ++ fcs f.data).drop (c.gGet e a).toNat).take 192
  .ok ((c.setFctx e { c.fctx e with extra := b, extraValid := b.length }).gSet e d (BitVec.ofNat 64 b.length))

/-- R308: the length of a header of a kind at an offset; an MPLS stack has at most 8 labels. -/
def FrameCtx.headerLen (x : FrameCtx) (kind o : Nat) : Nat :=
  let at' := fun (i : Nat) => if o + i < 512 then (x.windowByte (o + i)).toNat else 0
  match kind with
  | 0 => 4
  | 1 => 4 * (at' 0 % 16)
  | 2 => 8 * (at' 1 + 1)
  | 3 => 4 * (((List.range 8).find? fun i => at' (4 * i + 2) % 2 = 1).getD 7 + 1)
  | 4 => 8
  | _ => 4 * (at' 12 / 16)

/-- `fskip`. -/
def execFskip (e : Eng) (d a : Fin 32) (kind : BitVec 5) := fleli e (wordX 0x30 0x01 d a 0 kind) fun c =>
  c.issue e fun c =>
    let o := (c.gGet e a).toNat
    if 511 < o then .error 4
    else
      let r := o + (c.fctx e).headerLen kind.toNat o
      .ok (c.gSet e d (BitVec.ofNat 64 (if 511 < r then 0xFFFF else r)))

/-- R309: an edit of the header that changes its length by `by'`. -/
def Chip.editHeader (c : Chip) (e : Eng) (header : Bytes) (by' : Int) : Except Nat Chip :=
  let x := c.fctx e
  let net := x.netEdit + by'
  if net < -64 || 64 < net then .error 4 else .ok (c.setFctx e { x with header := header, netEdit := net })

/-- `fins`. -/
def execFins (e : Eng) (a b : Fin 32) (n : BitVec 5) := fleli e (wordX 0x30 0x02 0 a b n) fun c => c.issue e fun c =>
  let h := (c.fctx e).header
  let o := (c.gGet e a).toNat
  if n.toNat = 0 || 8 < n.toNat || h.length < o then .error 4
  else c.editHeader e (h.take o ++ beBytes n.toNat (c.gGet e b).toNat ++ h.drop o) n.toNat

/-- `fdel`. -/
def execFdel (e : Eng) (a b : Fin 32) := fleli e (wordX 0x30 0x03 0 a b 0) fun c => c.issue e fun c =>
  let h := (c.fctx e).header
  let o := (c.gGet e a).toNat
  let n := (c.gGet e b).toNat
  if n = 0 || 64 < n || h.length < o + n then .error 4
  else c.editHeader e (h.take o ++ h.drop (o + n)) (-(n : Int))

/-! ### Lookups, meters, counters and time (R312, R314 to R317) -/

/-- A result that the thread waits for is under way. -/
def Chip.offload (c : Chip) (e : Eng) (d : Fin 32) (v : DWord) : Chip :=
  c.setEctx e { c.ectx e with offload := some (d.val, v) }

/-- R254: the result of an offload reaches the waiting thread. -/
def Chip.offloadResult (c : Chip) (e : Eng) : Chip :=
  let x := c.ectx e
  match x.offload with
  | none => c
  | some (d, v) => (c.setEctx e { x with offload := none }).gSet e (Fin.ofNat 32 d) v

def execOffloadResult (ladle : Fin 256) (thread : Fin 4) := lift fun c => c.offloadResult (.ladle ladle thread)

/-- `lkp.fwd`. -/
def execLkpFwd (e : Eng) (d a b : Fin 32) (bad : List (Fin 262144 × BitVec 4)) := fleli e (wordX 0x30 0x08 d a b 0) fun c =>
  c.issue e fun c =>
    let v := (c.gGet e a).toNat
    if 4096 ≤ v then .error 4
    else
      let f := c.threadFrame e
      let x := c.fctx e
      let (r, l, c) := c.fwdLookup (f.entry * 4 + f.sub) v (slice f.data 0 6) (slice f.data 6 6)
        (BitVec.ofNat 32 (low32 (c.gGet e b))) (!x.lkpDone) (bad.map fun p => (p.1.val, p.2))
      let c := match l with
        | none => c
        | some l => if f.coming then c.onFrame x.frame fun f c => c.setFrame x.frame (some { f with learn := some l })
          else c.postLearn l
      let c := c.setFctx e { x with lkpDone := true, excess := x.excess || bit r 36 }
      .ok ((c.offload e d (BitVec.ofNat 64 r)).perf (ladleOf e) 9)

/-- The result of Table 12.10 for an association that was found. -/
def saFound (handle : Word) (an channel : Nat) (opened fail : Bool) : DWord :=
  BitVec.ofNat 64 (handle.toNat + 2 ^ 32 + 2 ^ 33 * an + 2 ^ 35 * channel + 2 ^ 50 * b2n opened + 2 ^ 51 * b2n fail)

/-- The result of an early lookup; the association fields of one that found none are open (log entry 3). -/
def Chip.saResult (c : Chip) (y : Early) : DWord × Chip :=
  if y.hit then (saFound y.handle y.an y.channel y.opened y.testFail, c)
  else
    let (i, c) := c.draw
    (BitVec.ofNat 64 (2 ^ 33 * (Config.freeBits i 17).toNat + 2 ^ 50 * b2n y.opened + 2 ^ 51 * b2n y.testFail), c)

/-- The thread waits for the early lookup of its frame, whose result an instruction needs (R102). -/
def Chip.earlyWait (c : Chip) (e : Eng) : Bool :=
  let f := c.threadFrame e
  c.opensEarly f && f.early.isNone

/-- The end of a pass waits for the frame's last byte (R32) and for its replay pre-check (R41). -/
def Chip.passWait (c : Chip) (e : Eng) : Bool := (c.threadFrame e).coming || c.earlyWait e

/-- `lkp.sa`: with m = 0 the early lookup's result, for which the thread waits, with m = 1 a channel's current transmit
SA, 0 where it has none (R330). -/
def execLkpSa (e : Eng) (d a : Fin 32) (m : Bool) := fleli e (wordX 0x30 0x09 d a 0 (if m then 1 else 0)) fun c =>
  if !m && c.earlyWait e then c
  else c.issue e fun c =>
    if m then
      let ch := (c.gGet e a).toNat
      if 32767 < ch then .error 4
      else
        let k := c.chan ch
        let i := k.current.getD 0
        let r := if k.txCur && k.current.isSome then saFound (c.saHandle i) (c.sa i).an ch false false else 0
        .ok ((c.offload e d r).perf (ladleOf e) 9)
    else
      let y := (c.threadFrame e).early.getD {}
      let (r, c) := c.saResult y
      .ok ((c.gSet e d r).perf (ladleOf e) 9)

/-- `cseal`. -/
def execCseal (e : Eng) (a : Fin 32) := fleli e (wordX 0x30 0x0C 0 a 0 0) fun c => c.issue e fun c =>
  .ok (c.setFctx e { c.fctx e with sealMark := some (BitVec.ofNat 32 (low32 (c.gGet e a))) })

/-- `copen`. -/
def execCopen (e : Eng) (d a : Fin 32) := fleli e (wordX 0x30 0x0D d a 0 0) fun c =>
  if c.earlyWait e then c else c.issue e fun c =>
  let x := c.fctx e
  let y := (c.threadFrame e).early.getD {}
  let h := BitVec.ofNat 32 (low32 (c.gGet e a))
  if x.copenDone || !y.opened then .ok ((c.setFctx e { x with copenDone := true }).gSet e d 1)
  else if y.handle ≠ h then .ok ((c.setFctx e { x with copenDone := true }).gSet e d 2)
  else .ok ((c.setFctx e { x with copenDone := true, bound := some h }).gSet e d 0)

/-- `mtr`. -/
def execMtr (e : Eng) (d a b : Fin 32) := fleli e (wordX 0x30 0x10 d a b 0) fun c => c.issue e fun c =>
  let i := (c.gGet e a).toNat
  let input := (c.gGet e b).toNat
  let x := c.fctx e
  if 16383 < i || 2 < input || 4 ≤ x.metered then .error 4
  else
    let (col, c) := c.useMeter i ((c.threadFrame e).data.length + 4) input
    let t := (i, col, (c.threadFrame e).data.length + 4, !c.inMode [.standby])
    let c := c.onFrame x.frame fun f c => c.setFrame x.frame (some { f with taken := f.taken ++ [t] })
    let c := c.setFctx e { x with
      colour := col, metered := x.metered + 1, redDrop := x.redDrop || (col = 2 && !(c.meter i).pass) }
    .ok ((c.offload e d (BitVec.ofNat 64 col)).perf (ladleOf e) 9)

/-- `cinc`. -/
def execCinc (e : Eng) (a b : Fin 32) := fleli e (wordX 0x30 0x11 0 a b 0) fun c => c.issue e fun c =>
  let i := (c.gGet e a).toNat
  if 65535 < i then .error 4
  else .ok ((c.count false (0x60000 + 2 * i)).count false (0x60000 + 2 * i + 1) (c.gGet e b).toNat)

/-- `tnow`. -/
def execTnow (e : Eng) (d : Fin 32) (m : BitVec 5) := fleli e (wordX 0x30 0x14 d 0 0 m) fun c => c.issue e fun c =>
  .ok (c.gSet e d (match m.toNat with
    | 0 => BitVec.ofNat 64 (packTime c.tim.clock c.holdover)
    | 1 => BitVec.ofNat 64 c.tim.clock.sec
    | _ => c.tim.elapsed))

/-- `tdep`. -/
def execTdep (e : Eng) (a : Fin 32) := fleli e (wordX 0x30 0x15 0 a 0 0) fun c => c.issue e fun c =>
  let o := (c.gGet e a).toNat
  if 255 < o then .error 4 else .ok (c.setFctx e { c.fctx e with depMark := some o })

/-! ### The end of a pass (R307, R310, R311) -/

/-- The port of a destination word, for PORT and CHANNEL. -/
def Chip.destPort (c : Chip) (w : Nat) : Nat × Nat :=
  if w % 8 = 1 then (bits w 7 3, bits w 9 8) else portOf (c.queueCfg (bits w 17 3)).port

/-- R310: the checks of `femit` on the destination, the edited length and the seal mark. -/
def Chip.emitOk (c : Chip) (x : FrameCtx) (w : Nat) (copy : Bool) : Bool :=
  let type := w % 8
  let n := x.header.length + x.rest.length
  let line := (type = 1 || type = 2) && (let (p, b) := c.destPort w; c.macsecMode p b)
  destOk w && type ≠ 0 && 64 ≤ n && n ≤ 16000 && (!copy || (type = 3 && x.copies < 4)) &&
    (if x.sealMark.isSome then (line || type = 4) && x.bound.isNone else !line)

/-- The frame as the program has edited it, FCS excluded. -/
def FrameCtx.edited (x : FrameCtx) : Bytes := (x.header ++ x.rest).take (x.header.length + x.rest.length - 4)

/-- An emission to the driver: with the verdict of a bound frame, or when it is known. -/
def Chip.emitHost (c : Chip) (n : Nat) (f : Frame) (em : Nat × Nat × Word) : Chip :=
  if f.unproved then c.hostTake n f em
  else c.hostEmit f em (if f.bound.isSome then f.plain else f.data)

/-- A frame whose pass has ended goes to a queue of its destination. -/
def Chip.emitQueue (c : Chip) (n : Nat) (f : Frame) (w : Nat) : Chip :=
  let lost := if f.verdict.getD 0 = 1 then 0x8F else 0x90
  let stage : FStage := if f.sealMark.isSome then .admission else if f.unproved then .opening else .queued
  let send := fun (c : Chip) (f : Frame) (q : Nat) => (c.setFrame n (some f)).enqueue n q stage
  if f.bound.isSome && f.verdict.getD 0 ≠ 0 then c.dropFrame n lost
  else if f.bound.isSome && f.isIngot then
    if f.unproved then c.setFrame n (some { f with stage := .opening }) else (c.ingotRelease f).removeFrame n
  else if c.inMode [.standby] then
    if f.unproved then c.setFrame n (some { f with stage := .held }) else c.dropFrame n 0x89
  else
    match w % 8 with
    | 1 =>
      let cls := bits w 12 10
      send c { f with cls := cls } (directQueue (schedOf (bits w 7 3) (bits w 9 8)) cls)
    | 2 =>
      let ch := bits w 17 3
      send c { f with channel := some ch, cls := (c.queueCfg ch).cls } ch
    | _ =>
      match c.runnerPort (c.frameDest (bits w 5 3)) with
      | none => (c.dropFrame n 0x98).raise Ev.RUNNER_UNREACH 0x620
      | some p => send c f (directQueue (schedOf (16 + p) 0) 0)

/-- The reason for which the part drops a frame at the end of its pass, or 0: a failed test of its early lookup, a red
result, an excess source. -/
def FrameCtx.endReason (x : FrameCtx) (f : Frame) : Nat :=
  let early := (f.early.getD {}).fail
  if early ≠ 0 then early else if x.redDrop then 0x87 else if x.excess then 0x97 else 0

/-- What `femit` writes into the frame's record: of a bound frame its plaintext, of an unbound frame of a line port sent to the
driver its bytes as received (R311), else the frame as edited. -/
def FrameCtx.emitted (x : FrameCtx) (f : Frame) (w : Nat) (progData : Word) (reason : Nat) : Frame :=
  { f with
    data := if x.bound.isSome then f.plain else if w % 8 = 3 && isLine f.entry then f.data else x.edited, dest := BitVec.ofNat 32 w, progData := progData,
    reason := reason, sealMark := x.sealMark, bound := x.bound, colour := x.colour, depMark := x.depMark,
    channel := if x.bound.isSome then some (f.early.getD {}).channel else f.channel }

/-- `femit`. A copy of a frame that the part will drop carries the part's reason (R60). An emission to the driver reads the
frame. -/
def execFemit (e : Eng) (a b : Fin 32) (copy : Bool) := fleli e (wordX 0x30 0x04 0 a b (if copy then 1 else 0)) fun c =>
  if c.passWait e then c else c.issue e fun c =>
  let w := low32 (c.gGet e a)
  let v := (c.gGet e b).toNat
  let x := c.fctx e
  let n := x.frame
  let f := c.threadFrame e
  if !c.emitOk x w copy then .error 4
  else if w % 8 = 3 && (copy || x.endReason f = 0) && c.readsPoison f then .ok (c.poisonPass e)
  else
    let prog := BitVec.ofNat 32 v
    let g := x.emitted f w prog (bits v 38 32)
    let r := x.endReason f
    let em := (bits w 10 3, if copy && r ≠ 0 then r else bits v 38 32, prog)
    if copy then
      let c := c.setFctx e { x with copies := x.copies + 1 }
      if g.unproved then
        .ok (c.hostTake n { f with bound := x.bound, channel := g.channel } em)
      else .ok (c.hostEmit g em g.data)
    else
      let c := (c.endThread (engKey e)).perf (ladleOf e) 5
      if r ≠ 0 then .ok (c.dropFrame n r)
      else if w % 8 = 3 then .ok ((c.emitHost n g em).removeFrame n)
      else .ok (c.emitQueue n g w)

/-- `fdrop`: PROG_DROP, but for a frame that its classification has already found without an SA (R60, stage order; log
entry 52). -/
def execFdrop (e : Eng) := fleli e (wordX 0x30 0x05 0 0 0 0) fun c =>
  if (c.threadFrame e).coming then c else c.issue e fun c =>
  let r := if ((c.threadFrame e).early.getD {}).fail = 0x8B then 0x8B else 0x85
  .ok (((c.endThread (engKey e)).perf (ladleOf e) 6).dropFrame (c.fctx e).frame r)

/-! ### Sampling and the wrap of counters (R348, R351) -/

/-- The result of a sampled instruction is available to its thread, and its entry is written to the quadrant's buffer, if that
is not full; LAD_SMP_PTR.wrapped is set once the entry overwrites an older one. -/
def Chip.sample (c : Chip) (m t : Nat) (encoding : Word) (addr latency : Nat) : Chip :=
  let q := m / 64
  let y : Sampled := { ladle := m, thread := t, encoding := encoding, addr := addr }
  let wrap := c.getB F.LAD_SMP_CFG_wrap [q]
  let full := c.getB F.LAD_SMP_CFG_full [q] && !wrap
  if !c.eng.sampled.contains y || c.ctl.dbg = 0 then c
  else
    let c := c.modEng fun e => { e with sampled := e.sampled.erase y }
    let i := c.getF F.LAD_SMP_PTR_next [q]
    if full then c else
    let hi := addr + 2 ^ 17 * (m % 64) + 2 ^ 23 * t + 2 ^ 25 * min 127 latency
    let c := (c.setF F.LAD_SMP_LO_entry [q, i] encoding.toNat).setF F.LAD_SMP_HI_entry [q, i] hi
    let c := (c.setF F.LAD_SMP_PTR_next [q] ((i + 1) % 4096)).perfQuad q 0x13
    let c := c.when (SMap.get (fun _ => false) c.eng.smpFilled q) fun c => c.setF F.LAD_SMP_PTR_wrapped [q] 1
    if i + 1 < 4096 then c
    else
      let c := c.modEng fun e => { e with smpFilled := SMap.set (fun _ => false) e.smpFilled q true }
      if wrap then c else (c.setF F.LAD_SMP_CFG_full [q] 1).raise Ev.SMP_FULL 0x0E2

def execInstructionSample (ladle : Fin 256) (thread : Fin 4) (encoding : Word) (addr : BitVec 17) (latency : Nat) :=
  lift fun c => c.sample ladle.val thread.val encoding addr.toNat latency

/-- The events of Table 13.8 that CK_LADLE counts per cycle, and the dispatches between quadrants: what State does not count. -/
def cycleEvents : List Nat := [0x01, 0x03, 0x08, 0x10, 0x11]

/-- A counter that the cycles of CK_LADLE drive wraps to 0 and sets its overflow bit; one that its select field gives no such
event holds. -/
def Chip.perfWrap (c : Chip) (q : Nat) (counter : PerfCounter) : Chip :=
  if c.ctl.dbg = 0 then c
  else
    match counter with
    | .ladle l i =>
      if !([0x01, 0x03, 0x08].contains (c.getF (ladSel i.val) [q, l.val])) then c
      else
        let c := (c.setF F.LAD_CNT_LO_count [q, l.val, i.val] (2 ^ 32 - 1)).setF F.LAD_CNT_HI_count [q, l.val, i.val]
          (2 ^ 16 - 1)
        c.ladleInc (q * 64 + l.val) i.val
    | .quadrant j =>
      if !cycleEvents.contains (c.getF F.LAD_QCNT_SEL_event [q, j.val]) || c.quadChained q j.val then c
      else (c.setF F.LAD_QCNT_count [q, j.val] (2 ^ 32 - 1)).quadInc q j.val

def execPerfCounterWrap (q : Fin 4) (counter : PerfCounter) := lift fun c => c.perfWrap q.val counter

end Sys2Proof.Machine
end

