-- ==== Sys2Proof/Machine/VaultOrders.lean ====
section
/-! DEFINITION. Chapter 05: the vault's orders (Table 05.4), the attestation statement and the store. -/
namespace Sys2Proof.Machine

/-! ### Staging a key (R131, R132) -/

/-- R131: a staging order's target: 0, or BAD_ORDER, STALE or KEY_BOUND. A slot that the block has staged already is
refused by the staging. -/
def Chip.checkTarget (c : Chip) (h : Word) : Nat :=
  let s := c.staged.slot (slotOf h)
  if 66 ≤ fnOf h then 0x53
  else if c.stagedSlot (slotOf h) then 0
  else if s.state = 1 && genOf h ≠ s.generation then 0x41
  else if s.bound then 0x44
  else 0

/-- The generation that a VALID target carries while its successor is staged. -/
def Chip.heldGen (c : Chip) (i : Nat) : Option Nat :=
  let s := c.slot i
  if s.state = 1 then some s.generation else none

/-- A key record is staged in a target. `modes` are the modes of its order. -/
def Chip.stageKey (c : Chip) (h : Word) (record : Slot) (modes : List Mode) : Chip × Option OrdRes :=
  let i := slotOf h
  let parent := if record.parent = 0 then none else some record.parent
  c.stage (.key i record (c.heldGen i) parent modes)

def loadModes : List Mode := [.provision, .active]

def stageModes : List Mode := [.provision, .active, .standby]

/-- A record with an order's attributes. -/
def attrRecord (a : KeyAttr) (key : BitVec 256) (origin : BitVec 2) : Slot :=
  { key := key, state := 1, type := a.type, origin := origin, klen := a.klen, inheritRevoke := a.inheritRevoke,
    ephemeral := a.ephemeral, function := a.function, count := a.count }

/-- A record with a blob's attributes. A count of 0 of a blob of another type than TRAFFIC stands for 0xFFFF_FFFF (DESIGN
CHOICE, log entry 65). -/
def blobRecord (b : Blob) (function : Nat) (origin : BitVec 2) : Slot :=
  { key := b.key, state := 1, type := b.type, origin := origin, klen := b.klen, inheritRevoke := b.inheritRevoke,
    ephemeral := b.ephemeral, function := function,
    count := if b.type ≠ 0 && b.count = 0 then 0xFFFFFFFF else b.count }

/-- R376: a tainted part refuses the order in every mode. -/
def untainted (f : OrdFn) : OrdFn := fun c => if c.ctl.d3Taint then ordFail 0x8F c else f c

/-- A key load's or KEY_GENERATE's attributes and target are checked, then `f` runs with the
attributes. -/
def keyOrder (modes : List Mode) (h : Word) (attr : DWord) (f : KeyAttr → OrdFn) : OrdFn := untainted <| inModes modes fun c =>
  match attrOf attr with
  | none => ordFail 0x53 c
  | some a =>
    let r := c.checkTarget h
    if r ≠ 0 then ordFail r c else f a c

/-- KEY_LOAD_CLEAR. A 128-bit key fills the first 16 bytes. -/
def keyLoadClear (h : Word) (attr : DWord) (key : BitVec 256) : OrdFn := keyOrder loadModes h attr fun a c =>
  if !a.klen && key.toNat % 2 ^ 128 ≠ 0 then ordFail 0x53 c
  else c.stageKey h (attrRecord a (if a.klen then key else key >>> 128) 1) loadModes

/-- A counted use of a key that the block has staged (R130, R158). -/
def Staged.use (i : Nat) (e : Staged) : Staged :=
  match e with
  | .key j record hadGen parent modes => .key j (if i = j then { record with count := record.count - 1 } else record)
      hadGen parent modes
  | e => e

/-- R130, R158: a counted use of a KEK as the block sees it. -/
def Chip.useStaged (c : Chip) (i : Nat) : Chip :=
  if c.stagedSlot i then
    let c := c.modOrd fun o => { o with staged := o.staged.map (Staged.use i) }
    c.when ((c.staged.slot i).count = 0) fun c => c.raise Ev.USE_EXHAUSTED 0x0D0
  else c.useKey i

/-- R135: a KEK opens a blob: a result, the blob and the block, whose use of the KEK has been counted. -/
def Chip.unwrap (c : Chip) (k : Slot) (b : Bytes) : Nat × Option Blob × Chip :=
  match openBlob k b with
  | none => (0x47, none, (c.setF F.VLT_STAT_unwrap_fail [] 1).raise Ev.UNWRAP_FAIL 0x0D0)
  | some x => if 8 < k.depth + 1 then (0x48, none, c) else (0, some x, c)

/-- A wrapped blob is staged under a KEK. -/
def stageWrapped (h kek : Word) (function : Nat) (b : Bytes) (modes : List Mode) : OrdFn := fun c =>
  let k := c.staged.slot (slotOf kek)
  match (c.useStaged (slotOf kek)).unwrap k b with
  | (r, none, c) => ordFail r c
  | (_, some x, c) =>
    c.stageKey h { blobRecord x function 2 with parent := kek, depth := k.depth + 1 } modes

/-- An order fails with a result that the spec does not give (log entry 3). -/
def openFail : OrdFn := fun c =>
  let (i, c) := c.draw
  ordFail (1 + Config.freeNat i % 255) c

/-- KEY_UNWRAP. -/
def keyUnwrap (h kek : Word) (attr blobAt : DWord) (blob : Option Bytes) : OrdFn :=
  keyOrder stageModes h attr fun a c =>
    let r := c.staged.checkUse kek 1
    if r ≠ 0 then ordFail r c
    else
      c |> hostRead fun c => match blob with
      | none => openFail (c.dmaReadFailed blobAt.toNat)
      | some b => stageWrapped h kek a.function b stageModes c

/-- R472: KEY_FILL. Which KEK opens a wrapped blob is open (log entry 3). -/
def keyFill (h : Word) (attr : DWord) : OrdFn := keyOrder loadModes h attr fun a c =>
  match c.heldBlob with
  | none => ordFail 0x51 c
  | some b =>
    let (c, r) :=
      if b.clear then
        if !(c.inMode [.provision] && c.pinValid) then ordFail 0x8D c
        else
          match plainBlob b.data with
          | none => ordFail 0x47 ((c.setF F.VLT_STAT_unwrap_fail [] 1).raise Ev.UNWRAP_FAIL 0x0D0)
          | some x => c.stageKey h (blobRecord x a.function 1) loadModes
      else
        let (i, c) := c.draw
        let kek := Config.freeBits i 32
        let r := c.staged.checkUse kek 1
        if r ≠ 0 then ordFail r c else stageWrapped h kek a.function b.data loadModes c
    let ok := match r with
      | some x => decide (x.status = 0)
      | none => false
    (c.when ok fun c => c.modOrd fun o => { o with heldFill := true }, r)

/-- KEY_GENERATE: the order waits for its random blocks. -/
def keyGenerate (h : Word) (attr : DWord) : OrdFn := keyOrder stageModes h attr fun a c =>
  if c.entFailed then ordFail 0x49 c
  else ((c.modOrd fun o => { o with wait := .random }).randPost 2 (if a.klen then 2 else 1) (.keyGen h attr), none)

/-- 128-bit blocks as one number, the first block leftmost. -/
def blocksNat (l : List (BitVec 128)) : Nat := l.foldl (fun n b => n * 2 ^ 128 + b.toNat) 0

/-- KEY_GENERATE has its random blocks. -/
def keyGenerated (h : Word) (attr : DWord) (blocks : List (BitVec 128)) : OrdFn := keyOrder stageModes h attr fun a c =>
  c.stageKey h (attrRecord a (BitVec.ofNat 256 (blocksNat blocks)) 0) stageModes

/-- KEY_RELEASE. -/
def keyRelease (h force : Word) : OrdFn := inModes (stageModes ++ [.maintenance]) fun c =>
  let s := c.staged.slot (slotOf h)
  if 1 < force.toNat || 66 ≤ fnOf h then ordFail 0x53 c
  else if !c.stagedSlot (slotOf h) && s.state = 1 && genOf h ≠ s.generation then ordFail 0x41 c
  else if s.bound && force = 0 then ordFail 0x44 c
  else c.stage (.release (slotOf h) s.generation (force = 1))

/-! ### KEY_DERIVE (R136, R295, R332, R339) -/

/-- A derivation run starts on key sequencer engine 0. -/
def Chip.deriveStart (c : Chip) (slot : Nat) (i : Image) (at' ctxLen : Nat) (handles : List Word) (context : Bytes) : Chip :=
  let hs := (List.range 8).foldl (fun m k => SMap.set (fun _ => (0 : Word)) m k (handles.getD k 0)) []
  let c := c.setKsq 0 { slot := slot, handles := hs }
  let x := c.ectxAt 1024
  let g := SMap.set (fun _ => 0) (SMap.set (fun _ => 0) x.g 1 0) 2 (BitVec.ofNat 64 ctxLen)
  let c := c.setEctxAt 1024 { g := g, pc := at', running := true }
  let c := (c.memWrite 0x20000000 (slice i.table 0 256)).memWrite 0x20000100 (slice context 0 240)
  (c.modOrd fun o => { o with wait := .ksq, stagedKsq := [] }).bump F.KSQ_RUN_CNT_count []

/-- KEY_DERIVE. -/
def keyDerive (slot entry : Nat) (ctxLen : Nat) (inputs targets : List Word) (context : Bytes) : OrdFn :=
  inModes stageModes fun c =>
    if 3 < slot || 240 < ctxLen || (inputs.take 4 ++ targets.take 4).any (66 ≤ fnOf ·) then ordFail 0x53 c
    else
      match (c.target (4 + slot)).active with
      | none => ordFail 0x87 c
      | some i =>
        match i.entries[entry]? with
        | none => ordFail 0x87 c
        | some at' =>
          let four := fun (l : List Word) => (List.range 4).map fun k => l.getD k 0
          (c.deriveStart slot i at' ctxLen (four inputs ++ four targets) context, none)

def execKeyLoadClear (handle : Word) (attr : DWord) (key : BitVec 256) := lift fun c =>
  c.runOrder 0x0101 (w4 handle ++ pad4 ++ w8 attr ++ beBytes 32 key.toNat) (keyLoadClear handle attr key)
def execKeyUnwrap (handle kek : Word) (attr blobAt : DWord) (blob : Option Bytes) := lift fun c =>
  c.runOrder 0x0102 (w4 handle ++ w4 kek ++ w8 attr ++ w8 blobAt) (keyUnwrap handle kek attr blobAt blob)
def execKeyFill (handle : Word) (attr : DWord) := lift fun c => c.runOrder 0x0103 (w4 handle ++ pad4 ++ w8 attr) (keyFill handle attr)
def execKeyGenerate (handle : Word) (attr : DWord) := lift fun c => c.runOrder 0x0104 (w4 handle ++ pad4 ++ w8 attr) (keyGenerate handle attr)
def execKeyDerive (slot entry : Byte) (ctxLen : BitVec 16) (inputs targets : List Word) (context : Bytes) :=
  lift fun c => c.runOrder 0x0105 ([slot, entry] ++ leBytes 2 ctxLen.toNat ++ (inputs ++ targets).flatMap w4 ++ context) (keyDerive slot.toNat entry.toNat ctxLen.toNat inputs targets context)
def execKeyRelease (handle force : Word) := lift fun c => c.runOrder 0x0106 (w4 handle ++ w4 force) (keyRelease handle force)

/-! ### KEY_INFO and ATTEST (R139, R140, Table 05.6) -/

/-- Offsets 0x0A0 to 0x0B7 of the statement for a handle. -/
def Chip.keyStatement (c : Chip) (h : Word) : Bytes :=
  let s := c.slot (slotOf h)
  let kcv := if s.state = 1 then (slotKcv s).toNat else 0
  beBytes 4 h.toNat ++ beBytes 4 s.parent.toNat ++
    [BitVec.ofNat 8 (s.type.toNat + 4 * s.origin.toNat + 16 * b2n s.klen + 32 * b2n s.inheritRevoke +
        64 * b2n s.ephemeral + 128 * b2n s.txUsed),
     BitVec.ofNat 8 (s.state.toNat + 4 * b2n s.bound), BitVec.ofNat 8 s.function, BitVec.ofNat 8 s.depth] ++
    beBytes 4 s.count ++ beBytes 8 kcv

/-- R98, R139: an order that gives the key check value of a VALID slot waits for the CMAC request of its fixed label, which
fails as KEY_INVALID where the slot is a TRAFFIC slot and traffic keys are disabled (R371). While the Pans are stopped
the Crucible's own CMAC engine, which Table 15.2 tests, computes it (DEDUCED, log entry 48). -/
def Chip.kcvOut (c : Chip) (h : Word) (out : DWord) (data : Bytes) : Chip × Option OrdRes :=
  let s := c.slot (slotOf h)
  if s.state = 1 && c.ctl.tkDis && s.type = 0 then (c, some (.of 0x42))
  else if s.state = 1 && !c.pan.stopped then
    let c := c.setKsq 0 { c.ksqCtx 0 with cmacFail := false }
    let c := c.modOrd fun o => { o with wait := .cmac, cmacOut := some (out, data) }
    (c.panAdmit .cmac (slotOf h) s.generation 0 0 2, none)
  else (c.hostOut out.toNat data, some {})

/-- The CMAC of an order's key check value has ended: its data goes out, or the order fails with a status that R115 does not
give (log entry 3). -/
def Chip.kcvEnd (c : Chip) : Chip :=
  match c.ord.wait, c.ord.cmacOut with
  | .cmac, some (out, data) =>
    let failed := (c.ksqCtx 0).cmacFail
    c.ordResume fun c =>
      let c := (c.setKsq 0 { c.ksqCtx 0 with cmacFail := false }).modOrd fun o => { o with cmacOut := none }
      if failed then
        let (i, c) := c.draw
        (c, some (.of (1 + Config.freeNat i % 255)))
      else (c.hostOut out.toNat data, some {})
  | _, _ => c

/-- KEY_INFO. -/
def keyInfo (h : Word) (out : DWord) : OrdFn := inModes infoModes fun c =>
  if 66 ≤ fnOf h then ordFail 0x53 c
  else if genOf h ≠ (c.slot (slotOf h)).generation then ordFail 0x41 c
  else c.kcvOut h out (c.keyStatement h)

/-- R335: the images that the statement lists, in target order, as (identifier, measurement). -/
def Chip.measured (c : Chip) : List (Nat × BitVec 384) :=
  (List.range 12).filterMap fun t =>
    match (c.target t).active with
    | some i => some (i.id.toNat, i.measurement)
    | none => if 9 ≤ t then some (0xC1A00000 + t, Config.romMeasurement t) else none

/-- An uncompressed point from its coordinates. -/
def pointBytes (p : BitVec 768) : Bytes := 0x04 :: beBytes 96 p.toNat

/-- The attestation statement. -/
def Chip.statement (c : Chip) (h : Word) (challenge : Bytes) : Bytes :=
  let l := c.measured
  let body := beBytes 4 0x594C4154 ++ beBytes 2 1 ++ beBytes 2 (b2n (h ≠ 0)) ++ beBytes 8 Config.deviceId.toNat ++
    beBytes 48 (Config.sha384 (pointBytes (Config.publicKey c.attestKey))).toNat ++
    [0xB0, BitVec.ofNat 8 (modeCode c.ctl.mode), BitVec.ofNat 8 (c.activeOwner.getD 0xFF), 0] ++
    beBytes 4 c.vlt.storeV ++ beBytes 2 (c.getF F.PRS_STACK_CFG_domain []) ++ [0, 0] ++ beBytes 4 c.flt.flags.toNat ++
    beBytes 48 c.ownerHash.toNat ++ slice challenge 0 32 ++
    (if h = 0 then List.replicate 24 0 else c.keyStatement h) ++ (BitVec.ofNat 8 l.length :: List.replicate 7 0) ++
    l.flatMap fun e => beBytes 4 e.1 ++ beBytes 48 e.2.toNat
  body ++ beBytes 96 (Config.ecdsaSign c.attestKey body).toNat

/-- ATTEST. -/
def attest (h : Word) (challenge : Bytes) (out : DWord) (outLen : Word) : OrdFn :=
  inModes (infoModes ++ [.erased]) fun c =>
    let r := if h = 0 then 0 else c.checkKey h
    if outLen.toNat < 1120 then ordFail 0x53 c
    else if r ≠ 0 then ordFail r c
    else if h ≠ 0 then c.kcvOut h out (c.statement h challenge)
    else (c.hostOut out.toNat (c.statement h challenge), some {})

def execKeyInfo (handle : Word) (out : DWord) := lift fun c => c.runOrder 0x0108 (w4 handle ++ pad4 ++ w8 out) (keyInfo handle out)
def execAttest (handle : Word) (challenge : Bytes) (out : DWord) (outLen : Word) := lift fun c =>
  c.runOrder 0x0109 (w4 handle ++ challenge ++ pad4 ++ w8 out ++ w4 outLen) (attest handle challenge out outLen)

/-! ### The store (R142 to R144) -/

def storeModes : List Mode := [.provision, .active, .standby, .maintenance]

/-- The slots that a store holds. -/
def Chip.storeSlots (c : Chip) : List (Nat × Slot) := c.vlt.slots.filter fun p => p.2.state = 1 && !p.2.ephemeral

/-- The length of the blob that an export writes. -/
def Chip.storeLen (c : Chip) : Nat := 44 + 68 * c.storeSlots.length

/-- EXPORT_STORE: the order waits for its IV. -/
def exportStore (out : DWord) (outLen : Word) : OrdFn := inModes storeModes fun c =>
  if c.vlt.storeV = 0xFFFFFFFF then ordFail 0x4F (c.raise Ev.COUNTER_END 0x0D0)
  else if outLen.toNat < c.storeLen then ordFail 0x53 c
  else if c.entFailed then ordFail 0x49 c
  else ((c.modOrd fun o => { o with wait := .random }).randPost 1 1 (.exportStore out.toNat outLen.toNat), none)

/-- EXPORT_STORE has its IV: the blob of version v + 1, written and recorded as pending. -/
def storeExported (out outLen : Nat) (iv : BitVec 96) : OrdFn := inModes storeModes fun c =>
  if outLen < c.storeLen then ordFail 0x53 c
  else
    let v := c.vlt.storeV + 1
    let inactive := c.vlt.rotStaged
    let word := if inactive then c.inactiveSeal else c.activeSeal
    let l := c.storeSlots
    let head := beBytes 4 0x594C5354 ++ beBytes 2 1 ++ [BitVec.ofNat 8 (b2n (c.vlt.sealSel != inactive)), 0] ++
      beBytes 4 v ++ beBytes 4 l.length
    let key := c.storeKey (word.getD 0) v
    let cipher := gcmXor true key iv (l.flatMap fun e => beBytes 4 e.1 ++ slotBytes e.2)
    let blob := head ++ beBytes 12 iv.toNat ++ cipher ++ beBytes 16 (Config.gcmTag true key iv head cipher).toNat
    let c := c.modVlt fun s => { s with storePending := true, digestPend := digest64 blob }
    let c := c.hostOut out blob
    (c.raise Ev.STORE_EXPORTED 0x0D0 [(4, v), (8, (digest64 blob).toNat)], some {})

/-- R143: the pending store becomes the confirmed one, and a staged rotation completes. -/
def Chip.confirm (c : Chip) : Chip :=
  let flip := c.vlt.rotStaged
  let v := c.vlt.storeV + 1
  let c := c.modVlt fun s => { s with
    storeV := v, digestConf := s.digestPend, storePending := false, sealSel := s.sealSel != flip, rotStaged := false }
  let c := c.when flip fun c => c.raise Ev.SEAL_ROTATED 0x0D0
  let c := c.raise Ev.STORE_CONFIRMED 0x0D0
  c.when (v = 0xFFFFFFFF) fun c => c.raise Ev.COUNTER_END 0x0D0

/-- CONFIRM_STORE. -/
def confirmStore : OrdFn := inModes storeModes fun c =>
  if c.vlt.storePending then (c.confirm, some {}) else ordFail 0x4E c

/-- A store entry replaces the slot it names; a VALID key that it overwrites is invalidated (R133). -/
def Chip.restoreSlot (c : Chip) (e : Bytes) : Chip :=
  let i := beNat (slice e 0 4) % 2 ^ 17
  let was := (c.slot i).state = 1
  let c := ((c.setSlot i (slotOfBytes (e.drop 4))).dropCached i).newUses i
  c.when was Chip.startWalk

/-- `n` entries of a store. -/
def storeEntries : Nat → Bytes → List Bytes
  | 0, _ => []
  | n + 1, b => slice b 0 68 :: storeEntries n (b.drop 68)

/-- R144: a blob that was read. Only the copy of an export that did not complete has a digest on record and not its whole
length (R148). -/
def Chip.loadBlob (c : Chip) (b : Bytes) : Chip × Option OrdRes :=
  let reject := fun (r : Nat) => ordFail r (c.raise Ev.STORE_REJECTED 0x0D0)
  let v := c.vlt.storeV
  let version := beNat (slice b 8 4)
  let n := beNat (slice b 12 4)
  let head := slice b 0 6 = beBytes 4 0x594C5354 ++ beBytes 2 1
  let next := version = v + 1 && c.vlt.storePending && digest64 b = c.vlt.digestPend
  let same := version = v && digest64 b = c.vlt.digestConf
  if !head || !(next || same) then reject 0x4C
  else
    let word := if next && c.vlt.rotStaged then c.inactiveSeal else c.activeSeal
    let key := c.storeKey (word.getD 0) version
    let iv := BitVec.ofNat 96 (beNat (slice b 16 12))
    let cipher := slice b 28 (68 * n)
    if b.length ≠ 44 + 68 * n || slice b (28 + 68 * n) 16 ≠ beBytes 16 (Config.gcmTag true key iv (slice b 0 16) cipher).toNat then reject 0x4D
    else
      let c := c.each (storeEntries n (gcmXor true key iv cipher)) Chip.restoreSlot
      let c := c.when next Chip.confirm
      (c.raise Ev.STORE_LOADED 0x0D0, some {})

/-- LOAD_STORE. -/
def loadStore (blobAt : DWord) (len : Word) (blob : Option Bytes) : OrdFn := untainted <| inModes [.provision] fun c =>
  c |> hostRead fun c => match blob with
  | none => openFail (c.dmaReadFailed blobAt.toNat)
  | some b => c.loadBlob (slice b 0 len.toNat)

/-- SEAL_ROTATE: the order waits for two blocks. -/
def sealRotate : OrdFn := inModes [.provision, .maintenance] fun c =>
  if c.entFailed then ordFail 0x49 c
  else ((c.modOrd fun o => { o with wait := .random }).randPost 2 2 .sealRotate, none)

/-- SEAL_ROTATE has its new seal. -/
def sealRotated (blocks : List (BitVec 128)) : OrdFn := inModes [.provision, .maintenance] fun c =>
  let word := some (BitVec.ofNat 256 (blocksNat blocks))
  (c.modVlt fun v => { v with
    sealA := if v.sealSel then word else v.sealA, sealB := if v.sealSel then v.sealB else word, rotStaged := true,
    storePending := false }, some {})

/-- OWNER_TRANSFER (R147): the slot is programmed, and the order ends, when the zeroization has. Without a slot left it fails
before it changes anything. -/
def ownerTransfer (hash : Bytes) : OrdFn := inModes [.maintenance] fun c =>
  if !c.authHere 0x20 then ordFail 0x8B c
  else if !c.pinValid then ordFail 0x8D c
  else
    match c.nextOwner with
    | none => ordFail 0x50 c
    | some _ =>
      let c := c.spendAuth.modCtl fun k => { k with pinOk := none }
      let c := (c.zeroizeStart 0 true).modCtl fun k => { k with transfer := some (BitVec.ofNat 384 (beNat (slice hash 0 48))) }
      (c.modOrd fun o => { o with wait := .transfer }, none)

def execExportStore (out : DWord) (outLen : Word) := lift fun c => c.runOrder 0x010A (w8 out ++ w4 outLen) (exportStore out outLen)
def execConfirmStore := lift fun c => c.runOrder 0x010B [] confirmStore
def execLoadStore (blobAt : DWord) (len : Word) (blob : Option Bytes) := lift fun c =>
  c.runOrder 0x010C (w8 blobAt ++ w4 len) (loadStore blobAt len blob)
def execSealRotate := lift fun c => c.runOrder 0x010D [] sealRotate
def execOwnerTransfer (hash : Bytes) := lift fun c => c.runOrder 0x010E hash (ownerTransfer hash)

end Sys2Proof.Machine
end

