-- ==== Sys2Proof/Machine/FleliKey.lean ====
section
/-! DEFINITION. Chapter 12, Fleli-K: derivation programs (R318 to R321), and the completion of their CMAC requests
(R98). -/
namespace Sys2Proof.Machine

/-! ### Handle registers -/

/-- The run of an engine's key sequencer. -/
def Chip.krun (c : Chip) (e : Eng) : KsqCtx :=
  match e with
  | .ksq j => c.ksqCtx j.val
  | _ => {}

def Chip.setKrun (c : Chip) (e : Eng) (x : KsqCtx) : Chip :=
  match e with
  | .ksq j => c.setKsq j.val x
  | _ => c

/-- The handle in k0 to k7. -/
def KsqCtx.handle (x : KsqCtx) (k : Nat) : Word := SMap.get (fun _ => 0) x.handles k

/-- The transient in k8 to k15. -/
def KsqCtx.transient (x : KsqCtx) (k : Nat) : Option Transient := SMap.get (fun _ => none) x.transients k

def KsqCtx.setTransient (x : KsqCtx) (k : Nat) (t : Option Transient) : KsqCtx :=
  { x with transients := SMap.set (fun _ => none) x.transients k t }

/-- The status register of an instruction. -/
def Chip.kstat (c : Chip) (e : Eng) (d : Fin 32) (r : Nat) : Chip := c.gSet e d (BitVec.ofNat 64 r)

/-- `n` bytes of the engine's local memory; none where they do not lie inside it. -/
def Chip.klocal (c : Chip) (e : Eng) (a n : Nat) : Option Bytes :=
  if 0x1000 < a + n then none else some (c.memBytes (localBase e + a) n)

/-! ### CMAC requests (R98, R319) -/

/-- The engine waits for `n` CMAC requests under a slot's key, or a transient's. -/
def Chip.cmacStart (c : Chip) (e : Eng) (slot gen n blocks : Nat) (w : CmacWait) : Chip :=
  let j := match e with
    | .ksq j => j.val
    | _ => 0
  let c := c.setKrun e { c.krun e with cmac := some w, cmacFail := false }
  c.each (List.range n) fun c i => c.panAdmit .cmac slot gen j i blocks

/-- The registers and counts after the last CMAC request of an instruction. -/
def Chip.cmacResult (c : Chip) (e : Eng) (x : KsqCtx) (failed : Bool) (w : CmacWait) : Chip :=
  let free := fun (c : Chip) (d : Nat) =>
    let (i, c) := c.draw
    c.kstat e (Fin.ofNat 32 d) (1 + Config.freeNat i % 255)
  match w with
  | .derive d m t =>
    let r := if t.parent = 0 then 0 else c.checkPanUse t.parent 2
    if failed then free c d
    else if r = 0x46 then c.kstat e (Fin.ofNat 32 d) r
    else
      let c := (c.when (t.parent ≠ 0 && r = 0) fun c => c.useKey (slotOf t.parent)).setKrun e
        (x.setTransient m (some { t with parent := 0 }))
      c.kstat e (Fin.ofNat 32 d) 0
  | .tagWrite d addr tag =>
    if failed then free c d
    else (c.memWrite (localBase e + addr) (beBytes 16 tag.toNat)).kstat e (Fin.ofNat 32 d) 0
  | .tagCompare d differs => if failed then free c d else c.kstat e (Fin.ofNat 32 d) (b2n differs)

/-- CMAC_COMPLETE: a request of an engine completes; the last one ends the wait of its program, or of an order for a key check
value. -/
def Chip.cmacComplete (c : Chip) (j : Fin 2) : Chip :=
  let mine := fun (r : PanReq) => r.kind = .cmac && r.subject = j.val
  let c := match c.turnOf mine with
    | some (k, _) => c.panDone k
    | none => c
  let x := c.ksqCtx j.val
  if (c.findReq mine).isSome then c
  else
    match x.cmac with
    | none => if j = 0 then c.kcvEnd else c
    | some w =>
      let y := { x with cmac := none, cmacFail := false }
      (c.setKsq j.val y).cmacResult (.ksq j) y x.cmacFail w

/-- R319: the key of `kderive`: a result, or its length, key, slot, generation and handle. -/
def Chip.deriveKey (c : Chip) (x : KsqCtx) (k : Nat) : Except Nat (Bool × BitVec 256 × Nat × Nat × Word) :=
  if k < 8 then
    let h := x.handle k
    let r := c.checkPanUse h 2
    let s := c.slot (slotOf h)
    if r ≠ 0 then .error r else .ok (s.klen, s.key, slotOf h, s.generation, h)
  else
    match x.transient k with
    | none => .error 0x42
    | some t => if t.unwrapped then .error 0x43 else .ok (t.klen, t.key, 131072, 0, 0)

/-- `kderive`. -/
def execKderive (e : Eng) (d a b : Fin 32) (m : BitVec 5) := fleli e (wordX 0x34 0x00 d a b m) fun c =>
  if c.pan.stopped then c
  else c.issue e fun c =>
    let v := (c.gGet e b).toNat
    let n := bits v 31 16
    if n = 0 || 253 < n then .ok (c.kstat e d 0x53)
    else
      match c.klocal e (v % 65536) n, c.deriveKey (c.krun e) a.val with
      | none, _ => .error 4
      | some _, .error r => .ok (c.kstat e d r)
      | some input, .ok (k256, key, slot, gen, h) =>
        let len := if 16 ≤ m.toNat then 256 else 128
        let t : Transient := { key := BitVec.ofNat 256 (kdf k256 key input len), klen := 16 ≤ m.toNat, parent := h }
        .ok (c.cmacStart e slot gen (len / 128) (n / 16 + 1) (.derive d.val (m.toNat % 16) t))

/-- The blob at a local address: its head and the wrapped part whose length that names. A length that Table 05.5 does not
have makes the blob malformed, and nothing behind the head is read (R135). -/
def Chip.localBlob (c : Chip) (e : Eng) (a : Nat) : Option Bytes :=
  match c.klocal e a 4 with
  | none => none
  | some head =>
    let n := beNat (slice head 2 2)
    if n = 32 || n = 48 then c.klocal e a (4 + n) else some head

/-- `kunwrap`, under a KEK of the table as it stands (R149). -/
def execKunwrap (e : Eng) (d a b : Fin 32) (m : BitVec 5) := fleli e (wordX 0x34 0x01 d a b m) fun c =>
  c.issue e fun c =>
    let x := c.krun e
    let kek := x.handle a.val
    let r := if 8 ≤ a.val then 0x43 else c.checkUse kek 1
    match c.localBlob e ((c.gGet e b).toNat % 65536) with
    | none => .error 4
    | some blob =>
      if r ≠ 0 then .ok (c.kstat e d r)
      else
        let k := c.slot (slotOf kek)
        match (c.useKey (slotOf kek)).unwrap k blob with
        | (r, none, c) => .ok (c.kstat e d r)
        | (_, some y, c) =>
          let t : Transient := {
            key := y.key, klen := y.klen, unwrapped := true, type := y.type, inheritRevoke := y.inheritRevoke,
            ephemeral := y.ephemeral, count := y.count, parent := kek, depth := k.depth + 1 }
          .ok ((c.setKrun e (x.setTransient m.toNat (some t))).kstat e d 0)

/-- `kcmac`: a tag written, or compared. -/
def execKcmac (e : Eng) (d a b : Fin 32) (m : BitVec 5) := fleli e (wordX 0x34 0x02 d a b m) fun c =>
  if c.pan.stopped then c
  else c.issue e fun c =>
    let v := (c.gGet e b).toNat
    let n := bits v 31 16
    let out := bits v 47 32
    let h := (c.krun e).handle a.val
    let r := if 8 ≤ a.val then 0x43 else c.checkPanUse h 3
    let s := c.slot (slotOf h)
    if 256 < n then .ok (c.kstat e d 0x53)
    else
      match c.klocal e (v % 65536) n, c.klocal e out 16 with
      | some msg, some old =>
        if r ≠ 0 then .ok (c.kstat e d r)
        else
          let tag := Config.cmac s.klen s.key msg
          let w : CmacWait := if m = 0 then .tagWrite d.val out tag
            else .tagCompare d.val (decide (beBytes 16 tag.toNat ≠ old))
          .ok ((c.useKey (slotOf h)).cmacStart e (slotOf h) s.generation 1 (n / 16 + 1) w)
      | _, _ => .error 4

/-! ### Staging outputs (R321) -/

/-- A status for an output that cannot be staged. -/
def Chip.koutRoom (c : Chip) (x : KsqCtx) (slot : Nat) : Nat :=
  let busy := fun (l : List Staged) => l.any fun y => y.slot? = some slot
  if x.targets.contains slot || busy c.ord.staged || busy c.ord.stagedKsq || 64 ≤ c.stagedCount + c.ord.stagedKsq.length
  then 0x4A else 0

/-- The record that `kout` stages, or a status. -/
def Chip.koutRecord (c : Chip) (x : KsqCtx) (t : Transient) (a : KeyAttr) : Except Nat Slot :=
  if t.unwrapped then
    let y : Blob := { type := t.type, klen := t.klen, inheritRevoke := t.inheritRevoke, ephemeral := t.ephemeral,
                      count := t.count, key := t.key }
    .ok { blobRecord y a.function 2 with parent := t.parent, depth := t.depth }
  else
    let h := x.handle a.parent
    let r := c.checkKey h
    let depth := (c.slot (slotOf h)).depth + 1
    if 3 < a.parent || h = 0 then .error 0x53
    else if r ≠ 0 then .error r
    else if 8 < depth then .error 0x48
    else .ok { attrRecord a t.key 3 with parent := h, depth := depth }

/-- `kout`. -/
def execKout (e : Eng) (d a b : Fin 32) (m : BitVec 5) := fleli e (wordX 0x34 0x03 d a b m) fun c =>
  c.issue e fun c =>
    let x := c.krun e
    let h := x.handle (4 + m.toNat)
    let fail := fun (r : Nat) => Except.ok (c.kstat e d r)
    match x.transient a.val, attrOf (c.gGet e b) with
    | none, _ => fail 0x42
    | some _, none => fail 0x53
    | some t, some at' =>
      if at'.klen != t.klen || h = 0 then fail 0x53
      else
        let r := c.checkTarget h
        let slot := slotOf h
        if r ≠ 0 then fail r
        else if c.koutRoom x slot ≠ 0 then fail 0x4A
        else
          match c.koutRecord x t at' with
          | .error r => fail r
          | .ok s =>
            let entry : Staged := .key slot s (c.heldGen slot) (some s.parent) stageModes
            let c := c.setKrun e { x with targets := x.targets ++ [slot] }
            .ok ((c.modOrd fun o => { o with stagedKsq := o.stagedKsq ++ [entry] }).kstat e d 0)

/-! ### Moving and asking -/

/-- `kmov`. -/
def execKmov (e : Eng) (d a : Fin 32) (m : BitVec 5) := fleli e (wordX 0x34 0x04 d a 0 m) fun c =>
  c.issue e fun c =>
    let x := c.krun e
    match x.transient a.val with
    | none => .ok (c.kstat e d 0x42)
    | some t => .ok ((c.setKrun e (x.setTransient m.toNat (some t))).kstat e d 0)

/-- `kclr`. -/
def execKclr (e : Eng) (a : Fin 32) := fleli e (wordX 0x34 0x05 0 a 0 0) fun c =>
  c.issue e fun c => .ok (c.setKrun e ((c.krun e).setTransient a.val none))

/-- `kinfo`. The type of a transient that `kderive` made, and of an empty one, is open. -/
def execKinfo (e : Eng) (d a : Fin 32) := fleli e (wordX 0x34 0x06 d a 0 0) fun c =>
  c.issue e fun c =>
    let x := c.krun e
    if a.val < 8 then
      let s := c.slot (slotOf (x.handle a.val))
      .ok (c.gSet e d (BitVec.ofNat 64 (s.type.toNat + 4 * b2n s.klen + 8 * b2n s.inheritRevoke + 16 * b2n s.ephemeral +
        32 * (s.function % 8) + 2 ^ 8 * s.state.toNat + 2 ^ 10 * b2n s.bound + 2 ^ 12 * s.depth + 2 ^ 32 * s.count)))
    else
      let (i, c) := c.draw
      let open' := (Config.freeBits i 2).toNat
      let t := (x.transient a.val).getD {}
      .ok (c.gSet e d (BitVec.ofNat 64 ((if t.unwrapped then t.type.toNat else open') + 4 * b2n t.klen + 2 ^ 11)))

/-- `khnd`. -/
def execKhnd (e : Eng) (d a : Fin 32) := fleli e (wordX 0x34 0x07 d a 0 0) fun c =>
  c.issue e fun c =>
    .ok (c.gSet e d (if a.val < 8 then ((c.krun e).handle a.val).setWidth 64 else 0))

end Sys2Proof.Machine
end

