-- ==== Sys2Proof/Machine/FleliVigil.lean ====
section
/-! DEFINITION. Chapters 12, 13 and 17: the vigil program on the always-on sequencer, the tamper note, and the
zeroize hold on the cell (R325, R345 to R347, R451, R461). -/
namespace Sys2Proof.Machine

/-! ### The tamper note (R346, R452) -/

/-- A word of the tamper note. -/
def Chip.noteWord (c : Chip) (i : Nat) : Word := SMap.get (fun _ => 0) c.eng.note i

def Chip.setNote (c : Chip) (i v : Nat) : Chip :=
  c.modEng fun e => { e with note := SMap.set (fun _ => 0) e.note i (BitVec.ofNat 32 v) }

/-- The identifier of the active vigil program. -/
def Chip.vigilId (c : Chip) : Nat := match (c.target 9).active with
  | some i => i.id.toNat
  | none => 0xC1A00009

/-- A temperature as a 32-bit word. -/
def tempWord (t : Int) : Nat := (t % 2 ^ 32).toNat

/-- R346: words 1 to 7, which the hardware writes. VBAT as measured is open (log entry 3). -/
def Chip.noteRun (c : Chip) (causes : Nat) : Chip :=
  let (i, c) := c.draw
  let c := ((c.setNote 1 causes).setNote 2 c.flt.flags.toNat).setNote 3 (tempWord c.flt.tempLow)
  let c := (c.setNote 4 (Config.freeNat i % 8192)).setNote 5 c.vigilId
  (c.setNote 6 0).setNote 7 0

/-! ### A run (R345, R347, R451) -/

/-- VIGIL_RUN_START: alarms that latched start a run: of the built-in program, which erases both seal words and sets
the flags of its causes, or of the owner's. -/
def Chip.vigilStart (c : Chip) : Chip :=
  if c.eng.vigilPend = 0 || (c.ectxAt 1027).running || c.inMode [.off] then c
  else
    let causes := c.eng.vigilPend
    let c := c.modEng fun e => { e with vigilPend := 0, vigilCauses := causes, vigilErased := false }
    let c := (c.setNote 0 ((c.noteWord 0).toNat + 1)).noteRun causes
    if (c.target 9).active.isNone || c.eng.vigilCrcBad then
      let c := (c.eraseSeal).modFlt fun f => { f with flags := f.flags ||| BitVec.ofNat 32 causes }
      (c.modEng fun e => { e with vigilErased := true }).vigilEnd 0
    else
      let g := SMap.set (fun _ => 0) (SMap.set (fun _ => 0) [] 1 (BitVec.ofNat 64 causes)) 2 (flagWord c.powered)
      c.setEctxAt 1027 { g := g, running := true }

def execVigilRunStart := lift Chip.vigilStart

/-! ### Fleli-V (Table 12.14) -/

/-- `vsense`. -/
def execVsense (e : Eng) (d : Fin 32) (m : BitVec 5) := fleli e (wordX 0x3C 0x00 d 0 0 m) fun c =>
  c.issue e fun c =>
    let (i, c) := if m = 3 then c.draw else (0, c)
    let v := match m.toNat with
      | 0 => flagWord (c.causeSet 0)
      | 1 => flagWord (c.filt 1)
      | 2 => BitVec.ofInt 64 c.flt.tempLow
      | 3 => BitVec.ofNat 64 (Config.freeNat i % 8192)
      | 4 => BitVec.ofNat 64 c.eng.vigilCauses
      | _ => c.flt.flags.setWidth 64
    .ok (c.gSet e d v)

/-- `verase`. -/
def execVerase (e : Eng) := fleli e (wordX 0x3C 0x01 0 0 0 0) fun c =>
  c.issue e fun c => .ok ((c.eraseSeal).modEng fun g => { g with vigilErased := true })

/-- `vflag`. -/
def execVflag (e : Eng) (a : Fin 32) := fleli e (wordX 0x3C 0x02 0 a 0 0) fun c =>
  c.issue e fun c =>
    .ok (c.modFlt fun f => { f with flags := f.flags ||| (c.gGet e a).setWidth 32 })

/-- `vnote`: words 0 to 7 are the hardware's, and there is none above 511. -/
def execVnote (e : Eng) (a b : Fin 32) := fleli e (wordX 0x3C 0x03 0 a b 0) fun c =>
  c.issue e fun c =>
    let w := (c.gGet e a).toNat
    .ok (if w < 8 || 511 < w then c else c.setNote w (low32 (c.gGet e b)))

/-! ### The zeroize button on the cell (R461) -/

/-- In VIGIL a hold of 2 s erases the seal and writes the note, without a run. -/
def Chip.vigilHold (c : Chip) : Chip :=
  if c.inMode [.vigil] && c.filt 0 then ((c.eraseSeal).setFlag 14).noteRun 0x4000 else c

def execVigilZeroizeHold := lift Chip.vigilHold

end Sys2Proof.Machine
end

