-- ==== Sys2Proof/Machine/Images.lean ====
section
/-! DEFINITION. Chapter 13: program images, their checks, loading, activation and the release of the old bank (R333 to
R339). -/
namespace Sys2Proof.Machine

/-! ### The image header (R333, Table 13.2) -/

/-- The fields of an image header. -/
structure ImgHead where
  engine : Nat
  flags : Nat
  id : Nat
  version : Nat
  entry : Nat
  budget : Nat
  entries : Nat
  codeLen : Nat
  tableLen : Nat
  key : Bytes
  sig : Bytes
  fixed : Bool
  deriving DecidableEq, Repr

/-- A header as read; `fixed` says that its constant fields hold their values. -/
def imgHead (b : Bytes) : ImgHead :=
  let w := fun o n => leNat (slice b o n)
  { engine := w 6 1, flags := w 7 1, id := w 8 4, version := w 0xC 4, entry := w 0x10 4, budget := w 0x14 2,
    entries := w 0x16 2, codeLen := w 0x18 4, tableLen := w 0x1C 4, key := slice b 0x20 97, sig := slice b 0xC0 96,
    fixed := 288 ≤ b.length && w 0 4 = 0x594C494D && w 4 2 = 1 && (slice b 0x81 63).all (· = 0) &&
      (slice b 0x20 1) = [4] }

/-- The engine code of a target. -/
def targetEngine (t : Nat) : Nat := if t < 4 then 0 else if t < 8 then 1 else if t = 8 then 2 else 3

/-- The entry table of an image. -/
def imgEntries (b : Bytes) (n : Nat) : List Nat := (List.range n).map fun i => leNat (slice b (288 + 4 * i) 4)

/-- R333, R334: the header's fields and the entry points are those of a target's engine. -/
def ImgHead.good (h : ImgHead) (t : Nat) (b : Bytes) : Bool :=
  let inCode := fun (a : Nat) => a % 4 = 0 && a < h.codeLen
  let own := match targetEngine t with
    | 0 => h.flags < 2 && 8 ≤ h.budget && h.budget ≤ 4096 && h.entries = 0
    | 1 => h.flags = 0 && h.budget = 0 && h.entry = 0 && 1 ≤ h.entries && h.entries ≤ 64
    | 2 => h.flags = 0 && h.budget = 0 && h.entry = 0 && 1 ≤ h.entries && h.entries ≤ 255
    | _ => h.flags = 0 && h.budget = 0 && h.entry = 0 && h.entries = 0 && h.tableLen = 0
  h.fixed && h.engine = targetEngine t && h.id ≠ 0 && h.codeLen % 4 = 0 && own && inCode h.entry &&
    288 + 4 * h.entries + h.codeLen + h.tableLen = b.length && (imgEntries b h.entries).all inCode

/-- The body fits the target's bank. -/
def ImgHead.fits (h : ImgHead) (t len : Nat) : Bool :=
  match targetEngine t with
  | 0 => len - 288 ≤ (if h.flags = 1 then 524288 else 262144)
  | 1 => len - 288 ≤ 8192
  | 2 => len - 288 ≤ 32768
  | _ => h.codeLen ≤ 256

/-- R334: what the signature and the measurement cover. -/
def imgDigested (b : Bytes) : Bytes := b.take 0xC0 ++ b.drop 288

/-- The image of a file. -/
def imageOf (h : ImgHead) (b : Bytes) : Image :=
  let code := 288 + 4 * h.entries
  { id := BitVec.ofNat 32 h.id, version := BitVec.ofNat 32 h.version, measurement := Config.sha384 (imgDigested b),
    entry := h.entry, budget := h.budget, entries := imgEntries b h.entries, code := slice b code h.codeLen,
    table := slice b (code + h.codeLen) h.tableLen, large := h.flags = 1 }

/-! ### Orders (R336, R337) -/

/-- R337: the mode permits the image orders for a target, and for an image of that size. -/
def Chip.imgMode (c : Chip) (t : Nat) (large : Bool) : Bool :=
  c.inMode [.provision, .maintenance] || (c.inMode [.active, .standby] && t < 9 && !large)

/-- A load fails: the pending bank is empty, unless the old image is still in use. -/
def Chip.imgReject (c : Chip) (t r : Nat) : Chip × Option OrdRes :=
  let x := c.target t
  let c := c.when (!x.oldBusy) fun c => c.setTarget t { x with pending := none }
  (c.raise Ev.IMG_REJECTED 0x0E1, some (.of r))

/-- IMAGE_LOAD. -/
def imageLoad (target : Word) (imageAt : DWord) (len : Word) (image : Option Bytes) : OrdFn := fun c =>
  let t := target.toNat
  if 9 < t then ordFail 0x53 c
  else if !c.imgMode t false then ordFail 0x40 c
  else
    c |> hostRead fun c => match image with
    | none => (c.dmaReadFailed imageAt.toNat).imgReject t (if (c.target t).oldBusy then 0x84 else 0x86)
    | some d =>
      let b := slice d 0 len.toNat
      let h := imgHead b
      if !h.good t b then c.imgReject t 0x80
      else if !c.imgMode t (h.flags = 1) then ordFail 0x40 c
      else if !c.isOwner h.key then c.imgReject t 0x81
      else if !Config.ecdsaVerify h.key h.sig (imgDigested b) then c.imgReject t 0x82
      else if !h.fits t b.length then c.imgReject t 0x83
      else if (c.target t).oldBusy then c.imgReject t 0x84
      else ((c.setTarget t { c.target t with pending := some (imageOf h b) }).raise Ev.IMG_LOADED 0x0E1, some {})

/-- The image that a target's activation would run; none while its other bank is still in use. -/
def Chip.pendingImage (c : Chip) (t : Nat) : Option Image :=
  let x := c.target t
  if x.oldBusy then none else x.pending

/-- IMAGE_ACTIVATE. -/
def imageActivate (target : Word) : OrdFn := fun c =>
  let t := target.toNat
  if 9 < t then ordFail 0x53 c
  else
    match c.pendingImage t with
    | none => if c.imgMode t false then ordFail 0x85 c else ordFail 0x40 c
    | some i => if c.imgMode t i.large then c.stage (.imgActivate t) else ordFail 0x40 c

/-! ### Activation and the old bank (R338) -/

/-- An engine whose run executes the image of a target. -/
def Chip.runsTarget (c : Chip) (t k : Nat) : Bool :=
  if k < 1024 then k / 256 = t
  else if k = 1024 then (c.ksqCtx 0).slot + 4 = t
  else (k = 1026 && t = 8) || (k = 1027 && t = 9)

/-- The runs of a target that are in progress. -/
def Chip.targetRuns (c : Chip) (t : Nat) : List Nat :=
  (c.eng.ctx.filter fun p => p.2.running && c.runsTarget t p.1).map (·.1)

/-- R337: a large image takes both banks at COMMIT, with no frame in flight in its quadrant; a COMMIT that finds one fails as
IMG_BUSY (DESIGN CHOICE, log entry 66). -/
def Chip.largeBusy (c : Chip) (t : Nat) (i : Image) : Bool := i.large && !(c.targetRuns t).isEmpty

/-- The pending bank becomes active and is copied to the HBM (R340); runs in progress finish on the old one. -/
def Chip.activate (c : Chip) (t : Nat) : Chip :=
  let x := c.target t
  match x.pending with
  | none => c
  | some i =>
    let runs := c.targetRuns t
    let busy := !runs.isEmpty && x.active.isSome
    let copy := if t < 9 && c.kidReads 30 then some i else none
    let c := c.setTarget t {
      active := some i, copy := copy, pending := if busy then x.active else none, oldBusy := busy, bank := !x.bank }
    let c := c.each runs fun c k => c.setEctxAt k { c.ectxAt k with old := true }
    let c := c.when (t = 9) fun c => c.modEng fun e => { e with vigilCrcBad := false }
    c.when (!busy) fun c => c.raise Ev.IMG_ACTIVE 0x0E1

/-- OLD_BANK_RELEASE: the last run on the old bank has ended. -/
def Chip.oldRelease (c : Chip) (t : Nat) : Chip :=
  let x := c.target t
  if x.oldBusy && (c.targetRuns t).all fun k => !(c.ectxAt k).old then
    (c.setTarget t { x with pending := none, oldBusy := false }).raise Ev.IMG_ACTIVE 0x0E1
  else c

def execOldBankRelease (target : Fin 12) := lift fun c => c.oldRelease target.val

def execImageLoad (target : Word) (imageAt : DWord) (len : Word) (image : Option Bytes) := lift fun c =>
  c.runOrder 0x0601 (w4 target ++ pad4 ++ w8 imageAt ++ w4 len) (imageLoad target imageAt len image)

def execImageActivate (target : Word) := lift fun c => c.runOrder 0x0602 (w4 target) (imageActivate target)

end Sys2Proof.Machine
end

