-- ==== Sys2Proof/Machine/Modes.lean ====
section
/-! DEFINITION. Chapter 14: transitions by order, owner authentication, drain, traffic keys, and debug certificates. -/
namespace Sys2Proof.Machine

/-! ### Transitions (R359, R360, Table 14.3) -/

/-- What a transition by MODE_SET needs: nothing, the owner's authorisation, or that and the PIN; `none` where Table
14.3 does not list it. Target SERVICE is written `.active`. For DRAIN, `drain` is its target. -/
def transition (from' to' : Mode) (drain : Option Mode) : Option Nat :=
  match from', to' with
  | .sealed, .provision => some 1
  | .sealed, .maintenance => some 2
  | .provision, .maintenance => some 2
  | .provision, .active => some 0
  | .rest, .active => some 0
  | .active, .drain | .standby, .drain =>
    match drain with
    | some .rest | some .provision | some .sealed => some 0
    | some .maintenance => some 2
    | _ => none
  | .provision, .sealed | .maintenance, .sealed | .rest, .sealed => some 0
  | .maintenance, .provision => some 0
  | .lockdown, .provision => some 1
  | .lockdown, .maintenance => some 2
  | _, _ => none

/-- The mode that the authorisation of a transition names as its to-mode (R365). -/
def authTarget (to' : Mode) (drain : Option Mode) : Mode := if to' = .drain then drain.getD .drain else to'

/-- R360: the tests of a transition: 0, or TRANSITION, AUTH_NONE, PIN_REQUIRED or ALARM_ACTIVE. ACTIVE and STANDBY are both valid
from-modes of DRAIN (R378). -/
def Chip.modeCheck (c : Chip) (from' to' : Mode) (drain : Option Mode) : Nat :=
  match transition from' to' drain with
  | none => 0x8A
  | some need =>
    if c.ctl.mode ≠ from' && !(to' = .drain && c.inMode [.active, .standby]) then 0x8A
    else if 1 ≤ need && !c.authFor 0 (modeCode from') (modeCode (authTarget to' drain)) then 0x8B
    else if need = 2 && !c.pinValid then 0x8D
    else if from' = .lockdown && c.flt.cause ≠ 0 then 0x8C
    else 0

/-- R359: a refused transition is recorded. -/
def Chip.modeRefused (c : Chip) : Chip := (c.bump F.MOD_REFUSE_CNT_count []).raise Ev.MODE_REFUSED 0x001

/-- The mode a MODE_SET word names; 12 is SERVICE. -/
def setMode (n : Nat) : Option Mode := if n = 12 then some .active else if n = 5 || n = 6 then none else modeOf n

/-- MODE_SET, and `omode` with the same word (R324). -/
def modeSet (cfg : Word) : OrdFn := fun c =>
  let v := cfg.toNat
  let staged := c.ord.staged.any fun e => match e with | .modeSet _ _ _ => true | _ => false
  if 256 ≤ v then ordFail 0x53 c
  else if staged then (c, some { status := 0x4A, detail := 0 })
  else if c.ctl.d3Taint then ordFail 0x8F c
  else
    match setMode (v % 16) with
    | none => ordFail 0x8A c.modeRefused
    | some m =>
      let drain := if m = .drain then modeOf (v / 16) else none
      let r := c.modeCheck c.ctl.mode m drain
      if r ≠ 0 then ordFail r (c.when (r = 0x8A) Chip.modeRefused)
      else (c.modOrd fun o => { o with staged := o.staged ++ [.modeSet c.ctl.mode m drain] }, some {})

def execModeSet (cfg : Word) := lift fun c => c.runOrder 0x0703 (w4 cfg) (modeSet cfg)

/-- MODE_CHANGE: the change that a COMMIT requested takes effect, and its order ends. -/
def Chip.modeChange (c : Chip) : Chip :=
  match c.ctl.pendingMode with
  | none => c
  | some (m, drain) =>
    let new := if m = .active then c.serviceMode else m
    let c := c.modCtl fun k => { k with
      drainTo := drain, drainEnds := c.now + c.getF F.MOD_DRAIN_CFG_tmo [] * 1000000 }
    let c := c.enterMode new 0
    match c.ord.ended with
    | some r => (c.modOrd fun o => { o with ended := none }).finishOrder r
    | none => c

def execModeChange := lift Chip.modeChange

/-! ### Drain (R367, R368) -/

/-- A frame past Pan admission is in a queue. -/
def Chip.draining (c : Chip) : Bool := c.frameList.any fun x => x.2.queue.isSome && x.2.stage ≠ .admission

/-- The drain ends: its target is entered. -/
def Chip.drainOver (c : Chip) : Chip := c.enterMode (c.ctl.drainTo.getD .sealed) 0

def execDrainEnd := lift fun c => if c.inMode [.drain] && !c.draining then c.drainOver else c

/-- The drain times out: the remaining frames are dropped as MODE. -/
def Chip.drainTimeout (c : Chip) : Chip :=
  if !c.inMode [.drain] then c
  else
    let c := c.reachElapsed c.ctl.drainEnds
    if !c.draining then c.drainOver
    else
      let c := c.each ((c.frameList.filter fun x => x.2.queue.isSome).map (·.1)) fun c n => c.dropFrame n 0x89
      (c.raise Ev.DRAIN_TMO 0x001).drainOver

def execDrainTimeout := lift Chip.drainTimeout

/-! ### Owner authentication (R362 to R364) -/

def authModes : List Mode := infoModes ++ [.erased]

/-- AUTH_CHALLENGE: the order waits for its challenge. -/
def authChallenge (out : DWord) : OrdFn := inModes authModes fun c =>
  if c.ahead c.ctl.blocked then ordFail 0x88 c
  else if c.entFailed then ordFail 0x49 c
  else ((c.modOrd fun o => { o with wait := .random }).randPost 1 2 (.challenge out.toNat), none)

/-- AUTH_CHALLENGE has its challenge. -/
def challengeDrawn (out : Nat) (blocks : List (BitVec 128)) : OrdFn := inModes authModes fun c =>
  let ch := blocks.flatMap fun b => beBytes 16 b.toNat
  let c := c.modCtl fun k => { k with challenge := some ch, auth := none }
  (c.hostOut out ch, some {})

/-- The pairs of modes that Table 14.3 lists, a drain's source and target among them. -/
def listedPair (from' to' : Mode) : Bool :=
  let main := from' ≠ .off && from' ≠ .vigil
  (transition from' to' none).isSome ||
  match to' with
  | .off => true
  | .vigil => main || from' = .off
  | .wake => true
  | .sealed => from' = .wake || from' = .drain || from' = .active || from' = .standby
  | .provision => [Mode.drain, .active, .standby, .erased].contains from'
  | .active => [Mode.provision, .rest, .standby].contains from'
  | .standby => [Mode.provision, .rest, .active].contains from'
  | .drain => from' = .active || from' = .standby
  | .rest | .maintenance => [Mode.drain, .active, .standby].contains from'
  | .lockdown => lockdownFrom.contains from'
  | .erased => main

/-- R363: the from-mode and to-mode are as a flags word requires. -/
def Chip.authPair (c : Chip) (from' to' flags : Nat) : Bool :=
  let here := modeCode c.ctl.mode
  match flags with
  | 0 => match modeOf from', modeOf to' with
    | some a, some b => listedPair a b
    | _, _ => false
  | 1 | 0x20 => from' = 9 && to' = 9
  | 4 | 8 | 0x10 => from' = here && to' = here
  | _ => false

/-- The message that the owner signs. -/
def authMessage (challenge : Bytes) (from' to' flags : Nat) : Bytes :=
  challenge ++ beBytes 8 Config.deviceId.toNat ++ [BitVec.ofNat 8 from', BitVec.ofNat 8 to'] ++ beBytes 2 flags ++
    [0, 0, 0, 0]

/-- R364: a failure is counted and the challenge is spent; the eighth failure in a row blocks. -/
def Chip.authFailed (c : Chip) : Chip :=
  let n := c.ctl.fails + 1
  c.modCtl fun k => { k with
    challenge := none, fails := n, blocked := if 8 ≤ n then some (c.now + 60000000000) else k.blocked }

/-- OWNER_AUTH. -/
def ownerAuth (from' to' flags : Nat) (key sig : Bytes) : OrdFn := inModes authModes fun c =>
  if !c.authPair from' to' flags then ordFail 0x53 c
  else
    let ok := match c.ctl.challenge with
      | some ch => c.isOwner key && Config.ecdsaVerify key sig (authMessage ch from' to' flags)
      | none => false
    if !ok then ordFail 0x89 (c.authFailed.raise Ev.AUTH_FAIL 0x001)
    else
      let a : Auth := {
        fromMode := from', toMode := to', flags := flags, ends := c.now + 60000000000, challenge := c.ctl.challenge.getD [] }
      ((c.modCtl fun k => { k with challenge := none, fails := 0, auth := some a }).raise Ev.AUTH_OK 0x001, some {})

def execAuthChallenge (out : DWord) := lift fun c => c.runOrder 0x0701 (w8 out) (authChallenge out)

def execOwnerAuth (fromMode toMode : Byte) (flags : BitVec 16) (key sig : Bytes) := lift fun c =>
  c.runOrder 0x0702 ([fromMode, toMode] ++ leBytes 2 flags.toNat ++ key ++ sig) (ownerAuth fromMode.toNat toMode.toNat flags.toNat key sig)

/-- R363: the 60 s of an authorisation end. -/
def execAuthLapse := lift fun c =>
  match c.ctl.auth with
  | some a => (c.reachElapsed a.ends).modCtl fun k => { k with auth := none }
  | none => c

/-- R364: the 60 s of the block end. -/
def execAuthBlockEnd := lift fun c =>
  match c.ctl.blocked with
  | some t => (c.reachElapsed t).modCtl fun k => { k with blocked := none }
  | none => c

/-- R366: the 120 s of a PIN token end. -/
def execPinTokenLapse := lift fun c =>
  match c.ctl.pinOk with
  | some t => (c.reachElapsed t).modCtl fun k => { k with pinOk := none }
  | none => c

/-! ### Traffic keys and debug (R371, R373, R377) -/

/-- TK_DISABLE. -/
def tkDisable : OrdFn := inModes [.maintenance] fun c =>
  ((c.modCtl fun k => { k with tkDis := true }).modPan fun p => { p with caches := [] }, some {})

/-- TK_ENABLE. -/
def tkEnable : OrdFn := inModes [.maintenance] fun c =>
  if 2 ≤ c.ctl.dbg then ordFail 0x8E c else (c.modCtl fun k => { k with tkDis := false }, some {})

def execTkDisable := lift fun c => c.runOrder 0x0705 [] tkDisable

def execTkEnable := lift fun c => c.runOrder 0x0706 [] tkEnable

/-- DBG_REQUEST: MOD_DBG_CTL.req written with go; BAR0 takes the write from step 3 on (Table 15.6). -/
def execDbgRequest (level : Fin 4) := lift fun c =>
  if c.running && c.evr.started then (c.setF F.MOD_DBG_CTL_req [] level.val).dbgRequest level.val 0 else c

/-- R377: the fields of a certificate. Its challenge is the one that the authorisation it needs was made over, as in the rule's
worked example: OWNER_AUTH has spent it and a later challenge voids the authorisation (DEDUCED, log entry 67). -/
def Chip.certOk (c : Chip) (b : Bytes) : Bool :=
  slice b 0 7 = beBytes 4 0x594C4443 ++ beBytes 2 1 ++ [3] && slice b 8 8 = beBytes 8 Config.deviceId.toNat &&
    (c.ctl.auth.any fun a => a.challenge = slice b 0x10 32) && c.isOwner (slice b 0x30 97) &&
    Config.ecdsaVerify (slice b 0x30 97) (slice b 0xA0 96) (slice b 0 0xA0)

/-- DBG_CERT: an accepted certificate starts the forced purge. -/
def dbgCert (certAt : DWord) (len : Word) (cert : Option Bytes) : OrdFn := inModes [.maintenance] fun c =>
  let refuse := fun (c : Chip) (r : Nat) => ordFail r
    (c.raise Ev.DBG_REFUSED 0x002 [(4, 3), (4, modeCode c.ctl.mode), (4, c.ctl.power), (4, 2)])
  if len ≠ 256 then ordFail 0x53 c
  else if !c.authHere 1 then refuse c 0x8B
  else if !c.pinValid then refuse c 0x8D
  else
    c |> hostRead fun c => match cert with
    | none => openFail (c.dmaReadFailed certAt.toNat)
    | some b =>
      if !c.certOk b then refuse c 0x90
      else
        let c := c.spendAuth.modCtl fun k => { k with pinOk := none, challenge := none }
        (c.zeroizeStart 6 true, some {})

def execDbgCert (certAt : DWord) (len : Word) (cert : Option Bytes) := lift fun c =>
  c.runOrder 0x0704 (w8 certAt ++ w4 len) (dbgCert certAt len cert)

end Sys2Proof.Machine
end

