-- ==== Sys2Proof/Machine/Recorder.lean ====
section
/-! DEFINITION. Chapter 19, the event recorder: records, rate limiting, reading, draining, and clearing. -/
namespace Sys2Proof.Machine

/-! ### Records (R478, R479, Table 19.1) -/

/-- An item of a payload, aligned to its natural size of at most 8 bytes. -/
def putItem (b : Bytes) (item : Nat × Nat) : Bytes :=
  let a := if item.1 < 8 then max 1 item.1 else 8
  b ++ List.replicate ((a - b.length % a) % a) 0 ++ leBytes item.1 item.2

/-- The bytes of a record after its first 12: its items, with padding counted from the record's first byte, to whole
words. -/
def payload (items : List (Nat × Nat)) : Bytes :=
  let b := (items.foldl putItem (List.replicate 12 0)).drop 12
  b ++ List.replicate ((8 - (b.length + 12) % 8) % 8) 0

/-- Word 0 of a record. -/
def recordHead (seq code len sev : Nat) (relay start supp : Bool) : Nat :=
  seq % 2 ^ 40 * 2 ^ 24 + code * 2 ^ 12 + len * 2 ^ 6 + sev * 8 + b2n relay * 4 + b2n start * 2 + b2n supp

/-- The bytes of the record of an event with a sequence number and a suppressed count. -/
def recordBytes (seq supp : Nat) (e : EvReq) : Bytes :=
  let p := payload e.items
  let len := (p.length + 12) / 8
  leBytes 8 (recordHead seq e.code len (severity e.code) (e.code = Ev.STACK_EVENT) e.start (supp ≠ 0)) ++
    leBytes 2 e.source ++ leBytes 2 supp ++ p

/-- The fields of a header word. -/
def headLen (h : DWord) : Nat := h.toNat / 2 ^ 6 % 64
def headSev (h : DWord) : Nat := h.toNat / 8 % 8
def headCode (h : DWord) : Nat := h.toNat / 2 ^ 12 % 2 ^ 12
def headSeq (h : DWord) : Nat := h.toNat / 2 ^ 24

/-! ### The ring (R478, R484, R487) -/

/-- The words of the event ring. -/
def ringWords : Nat := 131072

def Chip.ringWord (c : Chip) (w : Nat) : DWord := SMap.get (fun _ => 0) c.evr.ring w

def Chip.setRingWord (c : Chip) (w : Nat) (v : Nat) : Chip :=
  c.modEvr fun e => { e with ring := SMap.set (fun _ => 0) e.ring w (BitVec.ofNat 64 v) }

/-- Words written from an offset. -/
def Chip.setRingWords (c : Chip) (w : Nat) : List Bytes → Chip
  | [] => c
  | b :: bs => (c.setRingWord w (leNat b)).setRingWords (w + 1) bs

/-- Bytes cut into words of 8. -/
def wordsOf (b : Bytes) : List Bytes := (List.range (b.length / 8)).map fun i => slice b (8 * i) 8

/-- The oldest pointer stands at a pad: it moves past it. -/
def Chip.skipPad (c : Chip) : Chip :=
  let h := c.ringWord c.evr.oldest
  if c.evr.used ≠ 0 && headCode h = 0 then
    c.modEvr fun e => { e with oldest := 0, used := e.used - headLen h }
  else c

/-- The oldest record is given up; one that the drain would have copied is counted as lost: the number lost, and the first
of them. -/
def Chip.evictOldest (c : Chip) (lost : Nat × Nat) : (Nat × Nat) × Chip :=
  let h := c.ringWord c.evr.oldest
  let due := c.getB F.EVR_DRAIN_CFG_en [] && headSeq h = c.evr.drainSeq
  let gone := due && c.getF F.EVR_DRAIN_CFG_min_sev [] ≤ headSev h
  let lost := if gone then (lost.1 + 1, if lost.1 = 0 then headSeq h else lost.2) else lost
  let c := c.modEvr fun e => { e with oldest := (e.oldest + headLen h) % ringWords, used := e.used - headLen h }
  let c := c.skipPad
  (lost, c.modEvr fun e => if due then { e with drainSeq := (headSeq h + 1) % 2 ^ 40, drainPos := e.oldest } else e)

/-- Room for `n` words: oldest records are given up until they fit. A record has at least one word, so that `n` turns
suffice. -/
def Chip.makeRoom (c : Chip) (n : Nat) (lost : Nat × Nat) : Nat → (Nat × Nat) × Chip
  | 0 => (lost, c)
  | k + 1 =>
    if c.evr.used + n ≤ ringWords then (lost, c)
    else
      let (lost, c) := c.evictOldest lost
      c.makeRoom n lost k

/-- R487: records overwritten before the drain has copied them. -/
def Chip.drainGap (c : Chip) (lost : Nat × Nat) : Chip :=
  if lost.1 = 0 then c
  else ((c.bump F.EVR_LOST_CNT_count [] lost.1).setF F.EVR_STAT_overrun [] 1).raise Ev.DRAIN_GAP 0x006
    [(8, lost.2), (8, lost.1)]

/-- A record is written at the write pointer, after a pad when the ring's end is too near. -/
def Chip.writeRecord (c : Chip) (e : EvReq) : Chip :=
  let supp := SMap.get (fun _ => 0) c.evr.supp e.code
  let seq := c.evr.nextSeq
  let b := recordBytes seq supp e
  let n := b.length / 8
  let gap := if ringWords < c.evr.wr + n then ringWords - c.evr.wr else 0
  let (lost, c) := c.makeRoom (gap + n) (0, 0) 64
  let empty := c.evr.used = 0
  let w := c.evr.wr
  let c := c.when (gap ≠ 0) fun c => c.setRingWord w (recordHead seq 0 gap 0 false false false)
  let at' := if gap = 0 then w else 0
  let c := c.setRingWords at' (wordsOf b)
  let c := c.modEvr fun r => { r with
    wr := (at' + n) % ringWords, used := r.used + (if empty then 0 else gap) + n, oldest := if empty then at' else r.oldest,
    drainPos := if r.drainSeq = seq then at' else r.drainPos, nextSeq := (seq + 1) % 2 ^ 40,
    supp := SMap.set (fun _ => 0) r.supp e.code 0 }
  let c := (c.drainGap lost).signal e.source
  if !c.isMaster && c.getF F.PRS_STACK_CFG_relay_sev [] ≤ severity e.code then c.stackTo 3 c.masterId b else c

/-- EVENT_RECORD_WRITE: the recorder writes the first event of its intake. -/
def Chip.recordWrite (c : Chip) : Chip :=
  match c.evr.intake with
  | [] => c
  | e :: rest => (c.modEvr fun r => { r with intake := rest }).writeRecord e

def execEventRecordWrite := lift Chip.recordWrite

/-- Table 19.5: every record accepted by the intake is written before a system reset takes effect. -/
def Chip.flushIntake (c : Chip) : Chip := c.each c.evr.intake fun c _ => c.recordWrite

/-! ### Rate limiting (R483) -/

/-- The window of a limitable code in force, as a power of two of 1 ms. -/
def Chip.rateWin (c : Chip) (code : Nat) : Nat := SMap.get (fun _ => 10) c.evr.win code

/-- RATE_WINDOW_START: the next whole millisecond; the codes whose window starts there are refilled, with their burst and
window as configured. -/
def Chip.windowStart (c : Chip) : Chip :=
  let ms := c.now / 1000000 + 1
  let c := c.reachElapsed (ms * 1000000)
  c.each ((List.range 4096).filter fun k => limitable k && ms % 2 ^ c.rateWin k = 0) fun c k => c.modEvr fun e => { e with
    tokens := SMap.set (fun _ => 16) e.tokens k (c.getF F.EVR_CODE_CFG_burst [k])
    win := SMap.set (fun _ => 10) e.win k (c.getF F.EVR_CODE_CFG_win [k]) }

def execRateWindowStart := lift Chip.windowStart

/-! ### Reading (R484) -/

/-- The sequence number of the oldest intact record; of the next one while the ring is empty. -/
def Chip.oldestSeq (c : Chip) : Nat := if c.evr.used = 0 then c.evr.nextSeq else headSeq (c.ringWord c.evr.oldest)

/-- A read of EVR_WR latches the next sequence number. -/
def Chip.readWr (c : Chip) : Nat × Chip :=
  (c.evr.wr, (c.setF F.EVR_NEXT_SEQ_LO_seq [] c.evr.nextSeq).setF F.EVR_NEXT_SEQ_HI_seq [] (c.evr.nextSeq / 2 ^ 32))

/-- A read of EVR_OLDEST latches the oldest record's sequence number. -/
def Chip.readOldest (c : Chip) : Nat × Chip :=
  (c.evr.oldest, (c.setF F.EVR_OLDEST_SEQ_LO_seq [] c.oldestSeq).setF F.EVR_OLDEST_SEQ_HI_seq [] (c.oldestSeq / 2 ^ 32))

/-- A read with its value given to the reader. -/
def Chip.answer (r : Nat × Chip) : Chip := r.2.emit (.value r.1)

/-- EVR_WR_READ and EVR_OLDEST_READ; BAR0 answers EVR from step 3 on (Table 15.6). -/
def execEvrWrRead := lift fun c => Chip.answer (if c.evr.started then c.readWr else (0, c))

def execEvrOldestRead := lift fun c => Chip.answer (if c.evr.started then c.readOldest else (0, c))

/-! ### Draining (R486, R487) -/

/-- Bytes of ring entries are written to the drain ring from its write position, and counted. -/
def Chip.drainPush (c : Chip) (b : Bytes) (words : Nat) : Chip :=
  let k := (c.ring 56).own.toNat % c.ringSize 56
  (c.dma 0 (.hostWrite 0 (c.ringBase 56 + k * 8) b)).ringAdvance 56 words

/-- A record is copied whole, after a pad when the drain ring's end is too near; without room the drain waits. -/
def Chip.drainRecord (c : Chip) (h : DWord) : Chip :=
  let n := headLen h
  let k := (c.ring 56).own.toNat % c.ringSize 56
  let gap := if c.ringSize 56 < k + n then c.ringSize 56 - k else 0
  if c.ringFree 56 < gap + n then c.setF F.EVR_STAT_drain_full [] 1
  else
    let c := c.setF F.EVR_STAT_drain_full [] 0
    let c := c.when (gap ≠ 0) fun c => c.drainPush (leBytes 8 (recordHead (headSeq h) 0 gap 0 false false false)) gap
    let words := (List.range n).flatMap fun i => leBytes 8 (c.ringWord (c.evr.drainPos + i)).toNat
    (c.drainPush words n).modEvr fun e => { e with lastDrained := some (headSeq h) }

/-- The drain moves past the record at its position, and past a pad. -/
def Chip.drainNext (c : Chip) : Chip :=
  let h := c.ringWord c.evr.drainPos
  let p := (c.evr.drainPos + headLen h) % ringWords
  let seq := (headSeq h + 1) % 2 ^ 40
  let pad := seq ≠ c.evr.nextSeq && headCode (c.ringWord p) = 0
  c.modEvr fun e => { e with drainSeq := seq, drainPos := if pad then 0 else p }

/-- EVENT_DRAIN_COPY: the next record is copied, or skipped when its severity is below the lowest drained. -/
def Chip.drainCopy (c : Chip) : Chip :=
  if !c.getB F.EVR_DRAIN_CFG_en [] || !c.ringEn 56 || !c.dmaAllowed 0 || (c.ring 56).stopped ||
      c.evr.drainSeq = c.evr.nextSeq then c
  else
    let h := c.ringWord c.evr.drainPos
    if headSev h < c.getF F.EVR_DRAIN_CFG_min_sev [] then c.drainNext
    else
      let c := c.drainRecord h
      if c.getB F.EVR_STAT_drain_full [] then c else c.drainNext

def execEventDrainCopy := lift Chip.drainCopy

/-- R486: the drain starts at the oldest record. -/
def Chip.drainStart (c : Chip) : Chip := c.modEvr fun e => { e with drainSeq := c.oldestSeq, drainPos := e.oldest }

/-! ### Clearing (R488) -/

/-- LOG_CLEAR. -/
def logClear : OrdFn := inModes [.provision, .maintenance] fun c =>
  if !c.authHere 0x10 && !c.pinValid then ordFail 0x8B c
  else
    let owner := c.authHere 0x10
    let c := if owner then c.spendAuth else c.modCtl fun k => { k with pinOk := none }
    let first := c.oldestSeq
    let number := (c.evr.nextSeq + 2 ^ 40 - first) % 2 ^ 40
    let items := [(4, b2n !owner), (8, first), (8, number), (8, c.evr.lastDrained.getD 0xFFFFFFFFFF)]
    let c := c.modEvr fun e => { e with ring := [], used := 0, oldest := e.wr, drainSeq := e.nextSeq, drainPos := e.wr }
    (c.writeRecord { code := Ev.LOG_CLEARED, source := 0x006, items := items }, some {})

def execLogClear := lift fun c => c.runOrder 0x0C01 [] logClear

end Sys2Proof.Machine
end

