-- ==== Sys2Proof/Machine/Start.lean ====
section
/-! DEFINITION. Chapter 15: the kinds of reset, the start sequence, root regeneration, and the ownership claim. -/
namespace Sys2Proof.Machine

/-! ### Resets that restart start-up (R382 to R387, Tables 15.1 and 15.2) -/

/-- The fields of registers from byte offset `lo` to `hi` return to their reset values. -/
def Chip.clearRegs (c : Chip) (lo hi : Nat) : Chip :=
  { c with
    regs := c.regs.filter fun p => !(lo * 32 ≤ p.1 && p.1 < hi * 32)
    shadow := c.shadow.filter fun p => !(lo * 32 ≤ p.1 && p.1 < hi * 32) }

/-- An EXPORT_STORE has not completed. -/
def Chip.exporting (c : Chip) : Bool :=
  c.ord.wait = .random && c.ent.waiting.any fun r => match r.use with
    | .exportStore _ _ => true
    | _ => false

/-- What the always-on domain, the battery domain and OTP keep when every main-powered domain is cleared; `ring` says
whether the event ring is kept too. An export that is cut off leaves the digest of its unfinished blob pending (R148); which
part of the blob that is, is open (log entry 3). An instant kept is counted from the cleared elapsed-time count. -/
def Chip.keptState (c : Chip) (ring : Bool) : Chip :=
  let v := c.vlt
  let p := c.pnl
  let f := c.flt
  let vlt : Vault := { sealA := v.sealA, sealB := v.sealB, sealSel := v.sealSel, rotStaged := v.rotStaged, storeV := v.storeV, storePending := v.storePending, digestConf := v.digestConf, digestPend := v.digestPend, owners := v.owners }
  let vlt := if c.exporting then { vlt with storePending := true, digestPend := Config.freeBits c.free 64 } else vlt
  let evr : Recorder := if ring then { ring := c.evr.ring, wr := c.evr.wr, oldest := c.evr.oldest, used := c.evr.used, nextSeq := c.evr.nextSeq } else {}
  let keep := fun (x : PanelIn) => { x with changes := [], chatterEnds := x.chatterEnds - c.now, since := 0 }
  let inputs := p.inputs.map fun x => (x.1, keep x.2)
  let pnl : Panel := { inputs := inputs.filter fun x => x.2 ≠ {}, pressedFor := p.pressedFor.map fun _ => 0, pin := p.pin, fails := p.fails, lockEnds := p.lockEnds.map (· - c.now) }
  let flt : Faults := { flags := f.flags, flagsCrcBad := f.flagsCrcBad, cause := f.cause, tempLow := f.tempLow, tempHigh := f.tempHigh, coldRun := f.coldRun, hotRun := f.hotRun, meshLfsr := f.meshLfsr }
  let e := c.eng
  let eng : Engines := { ctx := e.ctx.filter (·.1 = 1027), targets := e.targets.filter (·.1 = 9), vigilPend := e.vigilPend, vigilCauses := e.vigilCauses, vigilErased := e.vigilErased, vigilCrcBad := e.vigilCrcBad, vigilReports := e.vigilReports, note := e.note }
  let su : StartUp := { onCell := c.su.onCell, otpGood := c.su.otpGood }
  { vlt := vlt, evr := evr, pnl := pnl, flt := flt, eng := eng, su := su, free := c.free + 1, out := c.out,
    mem := c.mem.filter fun x => 0x30900000 ≤ x.1 && x.1 < 0x30A00000 }

/-- The straps are sampled (R560). With REFCLK or the PCIe reference absent, the start shows NO_CLOCK until its PLLs lock (R394). -/
def Chip.sampleStraps (c : Chip) (s : Straps) : Chip :=
  ((c.setF F.SYS_STRAP_smb_addr [] s.smbAddr.val).modPrs fun p =>
    { p with straps := s.stackId.val, pairRole := s.pairRole }).when (!s.clocks) fun c => c.setF F.SYS_BOOT_STAT_fail [] 2

/-- Start-up restarts at step 1 in WAKE, for a cause of Table 15.5; EV_RESET is the first event after it (R387). The always-on
domain takes its supply from VDD_IO (R388). Power that comes in OFF finds no cell, or a drained one: vbat_lo shows (R444; DEDUCED,
log entry 68). A zeroization in progress, which no reset stops (R449), is completed first (DEDUCED, log entry 61). -/
def Chip.restart (c : Chip) (powerOn : Bool) (cause : Nat) : Chip :=
  let old := c.ctl.mode
  let c := if powerOn then c else c.zeroizeEnd.flushIntake
  let addr := c.getF F.SYS_STRAP_smb_addr []
  let prs := c.prs
  let cleared := c.ephemerals.length
  let c := c.keptState (!powerOn)
  let c := c.setF F.SYS_BOOT_STAT_cause [] cause
  let c := (c.setF F.SYS_STRAP_smb_addr [] addr).modPrs fun p => { p with straps := prs.straps, pairRole := prs.pairRole }
  let c := (c.raise Ev.RESET 0x004 [(4, cause)]).saidCleared cleared
  let c := c.modSu fun s => { s with onCell := false }
  if powerOn && old = .off then c.alarm 9
  else c.modCtl (fun k => { k with mode := old }) |>.enterMode .wake (if powerOn then 2 else 3)

/-- MAIN_POWER_GOOD: a power-on reset, from OFF or VIGIL. -/
def execMainPowerGood (straps : Straps) := lift fun c =>
  if c.powered then c else (c.restart true (if c.inMode [.vigil] then 1 else 0)).sampleStraps straps

/-- RESET_N low: a system reset that waits at step 1. -/
def execResetNAssert := lift fun c =>
  if !c.powered || c.su.resetHeld then c else (c.restart false 2).modSu fun s => { s with resetHeld := true }

/-- RESET_N high: the sequence starts; a request for D3 made meanwhile is judged (R393). -/
def execResetNRelease (straps : Straps) := lift fun c =>
  if !c.su.resetHeld then c
  else
    let asked := c.su.d3AtRelease
    let c := (c.sampleStraps straps).modSu fun s => { s with resetHeld := false, d3AtRelease := false }
    c.when asked fun c => c.dbgRequest 3 1

/-- A system reset by a command: cause 3 SYS_CTL.restart, 4 SMBus RESTART. -/
def Chip.systemReset (c : Chip) (cause : Nat) : Chip :=
  if c.powered && !c.su.resetHeld then c.restart false cause else c

/-- R148, R345, R444, R556: both supplies are lost, and with them the battery domain: the seal counts as erased, the store
record, the PIN record and the keypad count are gone, the CRC of the sticky flags fails, and no vigil program of the owner's is
left. -/
def Chip.batteryLost (c : Chip) : Chip :=
  let c := c.eraseSeal.modFlt fun f => { f with flagsCrcBad := true }
  let c := c.modEng fun e => { e with
    note := [], vigilReports := [], targets := e.targets.filter (·.1 ≠ 9), vigilCrcBad := false }
  c.modPnl fun p => { p with pin := none, fails := 0, lockEnds := none }

/-- Main power is lost: VIGIL on the cell, or OFF (R553). Nothing of a main-powered domain is kept. Whether the loss
still falls into the programming of an ownership slot, within its 25 ms, is open (R148, log entry 55). -/
def Chip.powerLost (c : Chip) (cell : Bool) : Chip :=
  let (i, c) := c.draw
  let c := (c.when (Config.freeBool i) Chip.cutProgramming).keptState false
  let c := c.modSu fun s => { s with onCell := cell }
  let c := c.modPnl fun p => { p with
    inputs := ((p.inputs.filter fun x => x.1 < 2).map fun x => (x.1, { x.2 with chatter := false })).filter fun x => x.2 ≠ {} }
  let c := c.modCtl fun k => { k with mode := if cell then .vigil else .off, power := 2 }
  if cell then c
  else (c.batteryLost.modFlt fun f => { f with cause := 0 }).modEng fun e => { e with ctx := [], vigilPend := 0 }

def execMainPowerLost (vbatGood : Bool) := lift fun c => if c.powered then c.powerLost vbatGood else c

/-- ALL_POWER_LOST. -/
def execAllPowerLost := lift fun c => if c.inMode [.off] then c else c.powerLost false

/-- CELL_INSERT: OFF to VIGIL. -/
def execCellInsert := lift fun c =>
  if c.inMode [.off] then (c.modSu fun s => { s with onCell := true }).modCtl fun k => { k with mode := .vigil } else c

/-- R554: the supply of the always-on domain changes, and nothing else. -/
def execAonSupplySwitchover (toCell : Bool) := lift fun c =>
  if c.inMode [.off] then c else c.modSu fun s => { s with onCell := toCell }

/-! ### Host and function resets (R384, R385) -/

/-- A ring's registers and counts return to their reset values. -/
def Chip.ringClear (c : Chip) (r : Nat) : Chip :=
  (c.clearRegs (0x24000 + r * 0x40) (0x24000 + (r + 1) * 0x40)).setRing r {}

/-- R385: the look-aside requests of functions: those not yet admitted are gone, the others complete inside the part. -/
def Chip.laDiscard (c : Chip) (p : Nat → Bool) : Chip :=
  let gone := fun (r : LaReq) => p r.fn && !r.admitted
  let c := c.randDrop fun r => match r.use with
    | .laIv n => ((SMap.get (fun _ => none) c.path.la n).map gone).getD false
    | _ => false
  c.modPath fun x => { x with
    la := (x.la.filter fun e => !((e.2.map gone).getD false)).map fun e => (e.1, e.2.map fun r =>
      if p r.fn then { r with discarded := true } else r) }

/-- R383: the completions that posted frames still owe are gone; the frames go on. -/
def Chip.hostForget (c : Chip) : Chip :=
  c.modPath fun p => { p with
    frames := p.frames.map fun e => (e.1, e.2.map fun f => { f with host := f.host.map fun h => (none, h.2) }) }

/-- R385: a fetched order block runs to its end, and its completion is discarded. -/
def Chip.blockDetach (c : Chip) : Chip :=
  if c.ord.busy && !c.ord.relay then c.modOrd fun o => { o with discardCompletion := true } else c

/-- The records after a host or function reset. -/
def Chip.hostResetSaid (c : Chip) (cause : Nat) (items : List (Nat × Nat)) : Chip :=
  (c.setF F.SYS_BOOT_STAT_host_cause [] cause).raise Ev.RESET 0x004 ((4, cause) :: items)

/-- HOST_RESET: the PCIe controller, HIF but for HIF_IDE_CFG (R531), every function's rings and MSI-X state, and every
EPHEMERAL slot. -/
def Chip.hostReset (c : Chip) (cause : Nat) : Chip :=
  if !c.powered || c.su.resetHeld then c
  else
    let up := c.hif.linkL0
    let c := ((c.blockDetach.hostForget.laDiscard fun _ => true).clearRegs 0x20000 0x20008).clearRegs 0x2000C 0x30000
    let c := c.modHif fun h => { cfgRef := h.cfgRef, firstCommit := h.firstCommit, sweepMatched := h.sweepMatched, sweepAfterCommit := h.sweepAfterCommit, rejecting := h.rejecting, smbArmed := h.smbArmed, smbEnds := h.smbEnds, writers := h.writers }
    let c := (c.hostResetSaid cause []).when up fun c => c.raise Ev.LINK_DOWN 0x73A
    c.clearEphemeral

def execHostReset (k : HostResetKind) := lift fun c =>
  c.hostReset (match k with | .perst => 8 | .hot => 9 | .linkLoss => 10)

/-- FUNCTION_LEVEL_RESET: the function's rings and pending completions, the keys of the IDE stream when it is PF0 (R502), and
every EPHEMERAL slot. -/
def Chip.functionReset (c : Chip) (fn : Nat) : Chip :=
  if !c.powered || c.su.resetHeld then c
  else
    let rings := (List.range 256).filter fun r => c.ringOwner r = some fn
    let c := c.when (fn = 0) fun c => c.blockDetach.hostForget.setF F.HIF_IDE_STAT_state [] 0
    let c := (c.laDiscard (· = fn)).each rings Chip.ringClear
    let c := c.modHif fun h => { h with owed := h.owed.filter (·.1 ≠ fn) }
    (c.hostResetSaid 11 [(4, fn)]).clearEphemeral

def execFunctionLevelReset (fn : Fin 66) := lift fun c => c.functionReset fn.val

/-! ### Steps 1 to 4 (R388 to R393, R397) -/

/-- A step of Table 15.3 has ended. -/
def Chip.stepDone (c : Chip) (n : Nat) : Chip :=
  c.setF F.SYS_BOOT_STAT_done [] (c.getF F.SYS_BOOT_STAT_done [] ||| 2 ^ (n - 1))

/-- R147: an ownership slot that was started and is not whole. -/
def OwnerSlot.spoiled (o : OwnerSlot) : Bool := o.started && !(o.done && o.crcGood)

/-- Step 2: OTP and the battery domain are read and checked (Table 15.4, R447, R452). -/
def Chip.otpStep (c : Chip) : Chip :=
  let c := c.when c.flt.flagsCrcBad fun c =>
    (c.modFlt fun f => { f with flags := BitVec.allOnes 32, flagsCrcBad := false }).raise Ev.FLAGS_CRC 0x04F
  let c := c.each ((List.range 16).filter fun i => (c.ownerSlot i).spoiled) fun c _ =>
    c.raise Ev.OTP_SLOT_SPOILED 0x0D0
  let reports := c.eng.vigilReports
  let c := (c.modEng fun e => { e with vigilReports := [] }).each reports Chip.vigilReport
  (c.when (!c.su.otpGood) fun c => c.startFail 1).stepDone 2

/-- R397: the recorder starts and takes the start log. -/
def Chip.recorderStart (c : Chip) : Chip :=
  c.modEvr fun e => { e with started := true, intake := e.startLog ++ e.intake, startLog := [] }

/-- The bits in which two responses differ. -/
def responseErrors (a b : BitVec 131072) : Nat := ((List.range 131072).filter fun i => (a ^^^ b).getLsbD i).length

/-- R390: the code-offset extractor: a response with up to 18 % of its bits different from enrolment is corrected to the enrolled
one by the helper data; what it makes of others is open. -/
def fuzzyCorrect (response : BitVec 131072) : Bytes :=
  if 100 * responseErrors response Config.pufEnrolled ≤ 18 * 131072 then leBytes 16384 Config.pufEnrolled.toNat
  else Config.fuzzyCorrect Config.pufHelper response

/-- R389 to R392: the array is read and extracted, and the key checked; the response read is open (log entry 3). -/
def Chip.pufRead (c : Chip) : Chip :=
  let (n, c) := c.draw
  let response := fuzzyCorrect (Config.freeBits n 131072)
  let duk : BitVec 256 := BitVec.ofNat 256 ((Config.sha384 response).toNat / 2 ^ 128)
  let check : DWord := BitVec.ofNat 64 ((Config.cmac true duk (ascii "YILIP-DUK-CHK-01")).toNat / 2 ^ 64)
  let c := c.modSu fun s => { s with pufReads := s.pufReads + 1 }
  if check = Config.dukCheck then
    (c.modVlt fun v => { v with duk := some duk, rootReady := true }).stepDone 4
  else c.when (c.su.pufReads = 3) fun c => (c.startFail 3).stepDone 4

/-- The generator's sources start, and the first read follows unless the start has failed already. -/
def Chip.rootStep (c : Chip) : Chip :=
  let c := if c.su.failed then c.stepDone 4 else c.pufRead
  c.entStart

/-- RECORDER_START: steps 1 to 3 end with the PLLs locked, which ends NO_CLOCK (R394), and step 4 begins. Step 2 comes after a
vigil run in progress (R405). -/
def execRecorderStart := lift fun c =>
  if !c.inMode [.wake] || c.su.resetHeld || c.evr.started || (c.ectxAt 1027).running then c
  else ((((c.stepDone 1).when (c.getF F.SYS_BOOT_STAT_fail [] = 2) fun c => c.setF F.SYS_BOOT_STAT_fail [] 0).otpStep.stepDone 3).recorderStart).rootStep

/-- PUF_RETRY: the next read after a failed check. -/
def execPufRetry := lift fun c =>
  if !c.inMode [.wake] || c.su.failed || c.vlt.rootReady || c.su.pufReads = 0 || 3 ≤ c.su.pufReads then c
  else
    let c := (c.raise Ev.ROOT_RETRY 0x003).setF F.SYS_BOOT_STAT_retries [] c.su.pufReads
    c.pufRead

/-! ### Steps 5 to 7 (R394 to R397) -/

/-- A resource that a start-up test retires. -/
def Chip.startRetire (c : Chip) (cls ch : Nat) : Chip :=
  (c.setFaultChan cls ch { c.faultChan cls ch with retired := true }).retireEffect cls ch

/-- Step 5 and step 6: what the tests found (Table 15.4). -/
def Chip.startTests (c : Chip) (r : StartResult) : Chip :=
  let c := c.when (!r.cryptoOk) fun c =>
    (c.modVlt fun v => { v with duk := none, rootReady := false }).startFail 4
  let c := (c.when (!r.sramOk) fun c => c.startFail 5).stepDone 5
  let c := c.each (r.failedLadles.map (·.val)).eraseDups fun c m => c.startRetire 3 m
  let c := c.each ((List.range 64).filter r.retiredPcs.getLsbD) fun c pc => c.startRetire 4 pc
  (c.when (r.retiredPcs = BitVec.allOnes 64) fun c => c.startFail 6).stepDone 6

/-- The mode at the end of start-up (R396). -/
def Chip.startMode (c : Chip) : Mode :=
  if c.vlt.rootReady && c.activeSeal.isSome && c.activeOwner.isSome then .sealed else .erased

/-- R396: a LOCKDOWN response held in WAKE takes effect. -/
def Chip.heldResponse (c : Chip) : Chip :=
  match c.ctl.heldLockdown with
  | none => c
  | some s => ((c.modCtl fun k => { k with heldLockdown := none }).respond 3 s).2

/-- Step 7: the mode is decided, and EV_START_DONE carries it. -/
def Chip.startEnd (c : Chip) (r : StartResult) : Chip :=
  let c := (c.stepDone 7).modSu fun s => { s with done := true }
  let c := c.enterMode c.startMode 7
  let pans := ((List.range 24).filter fun j => c.panState j = 3).length
  let pcs := ((List.range 64).filter r.retiredPcs.getLsbD).length
  let c := c.raise Ev.START_DONE 0x003
    [(4, modeCode c.ctl.mode), (8, r.micros), (8, pans), (8, (r.failedLadles.map (·.val)).eraseDups.length), (8, pcs), (8, c.evr.startLost)]
  (c.when (c.filt 6) fun c => c.raise Ev.FILL_PLUG 0x0A6).heldResponse

/-- START_DONE: steps 4 to 6 have ended. It comes once, after the root is ready or the start has failed, and after the key IDs
have been loaded or the generator has failed (R388). -/
def execStartDone (r : StartResult) := lift fun c =>
  if !c.inMode [.wake] || c.su.resetHeld || !c.evr.started || c.su.done || bit (c.getF F.SYS_BOOT_STAT_done []) 4 ||
      !(c.vlt.rootReady || c.su.failed) || (c.noKeys && !c.entFailed) then c
  else
    let c := c.startTests r
    if c.su.failed then c else c.startEnd r

/-! ### The ownership claim (R402 to R404) -/

/-- A claim that a condition turns away. -/
def claimFail (status : Nat) : OrdFn := fun c => ordFail status (c.raise Ev.CLAIM_FAIL 0x005)

/-- OWNER_CLAIM: the conditions in order, and step 1 of an accepted claim; the seal's draw is awaited. -/
def ownerClaim (key : Bytes) (flags : Nat) (sig : Bytes) : OrdFn := inModes [.erased] fun c =>
  if flags ≠ 2 then ordFail 0x53 c
  else if c.ctl.d3Taint then claimFail 0x8F c
  else if c.entFailed then claimFail 0x49 c
  else
    let signed' := match c.ctl.challenge with
      | some ch => Config.ecdsaVerify key sig (authMessage ch 11 4 2)
      | none => false
    if !signed' then claimFail 0x89 c.authFailed
    else if c.activeOwner.isSome && !c.isOwner key then claimFail 0x92 c
    else if c.activeOwner.isNone && !c.ahead c.su.presenceEnds then claimFail 0x91 c
    else if c.activeOwner.isNone && c.nextOwner.isNone then claimFail 0x50 c
    else
      let c := (c.modCtl fun k => { k with challenge := none }).modSu fun s => { s with presenceEnds := none }
      let c := c.when c.activeOwner.isNone fun c => c.programOwner (c.nextOwner.getD 0) (Config.sha384 key)
      ((c.modOrd fun o => { o with wait := .random }).randPost 2 2 .claimSeal, none)

/-- OWNER_CLAIM has its seal: steps 2 to 4. -/
def claimSealed (blocks : List (BitVec 128)) : OrdFn := inModes [.erased] fun c =>
  let c := c.modVlt fun v => { v with
    programming := none, sealA := some (BitVec.ofNat 256 (blocksNat blocks)), sealSel := false, rotStaged := false, storeV := 0, storePending := false, digestConf := 0, digestPend := 0 }
  ((c.enterMode .provision 1).raise Ev.CLAIM_OK 0x005, some {})

def execOwnerClaim (key : Bytes) (flags : BitVec 16) (sig : Bytes) := lift fun c =>
  c.runOrder 0x0801 (key ++ [0] ++ leBytes 2 flags.toNat ++ sig) (ownerClaim key flags.toNat sig)

/-- R403: the presence bit lapses after 120 s. -/
def execPresenceLapse := lift fun c =>
  match c.su.presenceEnds with
  | some t => (c.reachElapsed t).modSu fun s => { s with presenceEnds := none }
  | none => c

end Sys2Proof.Machine
end

