-- ==== Sys2Proof/Machine/PairStack.lean ====
section
/-! DEFINITION. Chapter 16: the health grade and the claim, HELLO and link sessions, the state copy, takeover and yield,
keepalives and stack frames, the stack master. -/
namespace Sys2Proof.Machine

/-! ### The health grade (R409, Table 16.1) -/

/-- The sub-ports that are enabled, as (port, sub-port). -/
def Chip.enabledSubs (c : Chip) : List (Nat × Nat) :=
  (List.range 16).flatMap fun p => ((List.range 4).filter fun b => c.subExists p b && c.subEnabled p b).map fun b => (p, b)

/-- A lane of an enabled port has been retired. -/
def Chip.laneLost (c : Chip) : Bool :=
  c.enabledSubs.any (fun x => (c.lanesOf x.1 x.2).any fun l => (c.faultChan 0 l).retired) ||
    (List.range 3).any fun i => c.subEnabled (16 + i) 0 && c.linkLanes i < 4

/-- Table 16.1: the conditions in the order of their bits. -/
def Chip.conditions (c : Chip) : List Bool :=
  [c.getB F.PRS_CTL_unfit [],
    !c.holding && c.prs.peerClaim ≠ 0 && c.prs.link ≠ 4,
    c.enabledSubs.any fun x => !c.portUp x.1 x.2,
    !c.pan.downPorts.isEmpty,
    c.laneLost,
    c.prs.fecBad,
    (List.range 4).any fun q => ((quadPans q).filter fun j => c.panHome j = 0).length < 5,
    c.entFailed,
    (List.range 4).any fun q => c.getF F.LAD_Q_STAT_in_service [q] < 64,
    c.getF F.MEM_PC_RET_LO_retired [] ≠ 0 || c.getF F.MEM_PC_RET_HI_retired [] ≠ 0,
    (List.range 2).any fun i => c.subEnabled (16 + i) 0 && !c.prs.linkUp.contains i,
    (List.range 4).any fun q => (quadPans q).all fun j => !(c.panHome j = 1 && SMap.get (fun _ => true) c.pan.tested j)]

/-- PRS_HEALTH.cond. -/
def Chip.condBits (c : Chip) : Nat := (c.conditions.mapIdx fun i b => b2n b * 2 ^ i).foldl (· + ·) 0

/-- The grade that the conditions allow. -/
def Chip.gradeNow (c : Chip) : Nat :=
  ((c.conditions.zip [0, 0, 2, 2, 3, 3, 4, 4, 5, 5, 5, 6]).map fun x => if x.1 then x.2 else 7).foldl min 7

/-- The grade changes; its event carries PRS_HEALTH. -/
def Chip.setGrade (c : Chip) (g : Nat) : Chip :=
  (c.modPrs fun p => { p with grade := g }).raise Ev.GRADE 0x601 [(4, c.condBits + 4096 * g)]

/-- The monitor of the health conditions looks at them, with the FEC condition as measured: each grade that they do not allow
breaks its hold (R409). It looks with each GRADE_FALL and GRADE_RISE (log entry 33). -/
def Chip.watchGrade (c : Chip) (fec : Bool) : Chip :=
  let c := c.modPrs fun p => { p with fecBad := fec }
  let g := c.gradeNow
  c.modPrs fun p => { p with
  held := (List.range 8).foldl (fun m k =>
    SMap.set (fun _ => none) m k (if k ≤ g then some ((SMap.get (fun _ => none) m k).getD c.now) else none)) p.held }

/-- The instant at which the conditions have allowed grade `k` for 100 ms without a break. -/
def Chip.riseAt (c : Chip) (k : Nat) : Option Nat :=
  (SMap.get (fun _ => none) c.prs.held k).map (· + 100000000)

/-- GRADE_FALL: a lower grade takes effect; `fec` is the FEC condition as measured. -/
def execGradeFall (fec : Bool) := lift fun c =>
  if !c.powered then c
  else
    let c := c.watchGrade fec
    (c.when (c.gradeNow < c.prs.grade) fun c => c.setGrade c.gradeNow).trackDefer

/-- GRADE_RISE: a higher grade has held for 100 ms; the highest that has then takes effect. -/
def execGradeRise (fec : Bool) := lift fun c =>
  if !c.running then c
  else
    let c := c.watchGrade fec
    match c.riseAt (c.prs.grade + 1) with
    | none => c
    | some t =>
      let c := c.reachElapsed t
      let g := ((List.range 8).filter fun k => (c.riseAt k).any (· ≤ c.now)).foldl max 0
      (c.setGrade g).trackDefer

/-! ### The claim (R410, R411) -/

/-- The claim frame of the sideband. -/
def claimFrame (claim status : Nat) : Bytes :=
  let body : Bytes := [BitVec.ofNat 8 claim, BitVec.ofNat 8 status]
  0xD5 :: body ++ beBytes 2 (crc16 0x1021 0xFFFF body).toNat

/-- The status byte that goes with the claim. -/
def Chip.claimStatus (c : Chip) : Nat :=
  b2n c.holding + 2 * b2n c.inService + 4 * b2n c.prs.yieldAt.isSome + 16 * c.prs.sideSeq

/-- R411: a control word on the pair link, with the claim and its status; none while the link has no lanes up. -/
def Chip.claimWord (c : Chip) : Chip :=
  c.when (c.getB F.LNK_LINK_STAT_up [2]) fun c =>
    c.emit (.claimWord (BitVec.ofNat 8 c.publishedClaim) (BitVec.ofNat 8 c.claimStatus))

/-- CLAIM_FRAME_SEND. The control words of the pair link carry the claim as well. -/
def execClaimFrameSend := lift fun c =>
  if !c.powered then c
  else
    let status := c.claimStatus
    let c := c.claimWord.modPrs fun p => { p with sideSeq := (p.sideSeq + 1) % 16 }
    c.emit (.claimTx (claimFrame c.publishedClaim status))

/-- The peer's claim as it arrives over one of the two paths. -/
def Chip.peerClaimed (c : Chip) (pairLink : Bool) (claim status : Nat) : Chip :=
  (c.modPrs fun p => { p with
    peerClaim := claim, peerSrc := if pairLink then 1 else 2, peerHolding := bit status 0, peerPresent := true,
    heardSide := if pairLink then p.heardSide else c.now }).trackDefer

/-- CLAIM_FRAME_RECEIVE: a claim frame of the sideband, or the claim and status of the pair link. A bad frame is
ignored. -/
def execClaimFrameReceive (pairLink : Bool) (frame : Bytes) := lift fun c =>
  let claim := (frame.getD 1 0).toNat
  let status := (frame.getD 2 0).toNat
  let good := if pairLink then frame.length = 3 && c.getB F.LNK_LINK_STAT_up [2] else frame = claimFrame claim status
  if !c.powered || !good then c
  else c.peerClaimed pairLink claim status

/-- The peer claim is taken as 0x00. -/
def Chip.peerSilent (c : Chip) : Chip :=
  (c.modPrs fun p => { p with peerClaim := 0, peerSrc := 0, peerHolding := false, peerPresent := false }).trackDefer

/-- PEER_ABSENT: no pair signal, and no valid frame for 1 ms. -/
def execPeerAbsent := lift fun c =>
  if !c.powered || c.getB F.LNK_LINK_STAT_up [2] then c else (c.reachElapsed (c.prs.heardSide + 1000000)).peerSilent

/-- REVERT_EXPIRY: the deferring part publishes its own claim. -/
def execRevertExpiry := lift fun c =>
  match c.prs.deferSince with
  | some t =>
    if c.deferring && c.deferHolds && c.getB F.PRS_PAIR_CFG_revert_en [] then
      ((c.reachElapsed (t + c.getF F.PRS_PAIR_CFG_revert_hold [] * 1000000000)).modPrs fun p =>
        { p with reverted := true }).trackDefer
    else c
  | none => c

/-! ### HELLO and sessions (R412, R413, R423) -/

/-- The key slot that a link's session keys come from, when it names a DERIVE key with a use left. -/
def Chip.linkKey (c : Chip) (i : Nat) : Option Nat :=
  match if i = 2 then c.prs.pairKey else c.prs.stackKey with
  | some h => if c.checkUse h 2 = 0 then some (slotOf h) else none
  | none => none

/-- The part's own HELLO on a link. -/
def Chip.ownHello (c : Chip) (i : Nat) (salt : BitVec 96) : PeerHello := {
  deviceId := Config.deviceId, stack := c.getF F.PRS_STACK_CFG_stack [], domain := c.getF F.PRS_STACK_CFG_domain [],
  stackId := c.prs.straps, pairRole := c.prs.pairRole,
  ownerHash := BitVec.ofNat 64 (c.ownerHash.toNat / 2 ^ 320),
  kcv := match c.linkKey i with
    | some k => slotKcv (c.slot k)
    | none => 0,
  salt := salt }

/-- The check of a HELLO (R412), or of a Runner link's (R423): its neighbour's STACK_ID must not be that of another device that is
present in the ring, or that of another neighbour (log entry 34). -/
def Chip.helloPasses (c : Chip) (i : Nat) (a b : PeerHello) : Bool :=
  a.stack = b.stack && a.domain = b.domain && a.ownerHash = b.ownerHash && a.kcv = b.kcv && a.kcv ≠ 0 &&
    if i = 2 then (a.stackId ^^^ b.stackId) = 1 && a.pairRole ≠ b.pairRole
    else
      a.stackId ≠ b.stackId && (!(c.member b.stackId).present || (c.member b.stackId).device = b.deviceId) &&
        match SMap.get (fun _ => none) c.prs.neighbours (1 - i) with
        | some (id, dev) => id ≠ b.stackId || dev = b.deviceId
        | none => true

/-- A session key (R413). -/
def Chip.sessionKey (c : Chip) (i k : Nat) (a b : PeerHello) : BitVec 256 :=
  let s := c.slot k
  let label := if i = 2 then "YL-PAIR-LINK" else "YL-RUNNER-LINK"
  BitVec.ofNat 256 (kdf s.klen s.key (ascii label ++ [0] ++ beBytes 12 a.salt.toNat ++ beBytes 12 b.salt.toNat ++
    beBytes 8 a.deviceId.toNat) 256)

/-- A slot has the uses of a session's two derivations left; without them no session starts (DESIGN CHOICE, log entry 34). -/
def Chip.canDerive (c : Chip) (k : Nat) : Bool := 2 ≤ (c.slot k).count

/-- The session that two HELLOs give under the key of slot `k`. -/
def Chip.sessionOf (c : Chip) (i k : Nat) (own peer : PeerHello) : LinkSession := {
  txKey := c.sessionKey i k own peer, rxKey := c.sessionKey i k peer own, txSalt := own.salt, rxSalt := peer.salt }

/-- A link's session starts, after the two derivations of key sequencer engine 1 (R332), each counted on the slot. -/
def Chip.sessionStart (c : Chip) (i k gen : Nat) (keys : LinkSession) (peerId : Nat) (peerDev : DWord) : Chip :=
  let was := c.prs.linkUp.contains i
  let derive := fun (c : Chip) => (c.when ((c.slot k).generation = gen) fun c => c.useKey k).bump F.KSQ_RUN_CNT_count []
  let c := derive (derive c)
  let c := c.modPrs fun p => { p with
    sessions := SMap.set (fun _ => none) p.sessions i (some keys), linkUp := p.linkUp.filter (· ≠ i) ++ [i] }
  if i = 2 then c
  else
    let c := c.modPrs fun p => { p with neighbours := SMap.set (fun _ => none) p.neighbours i (some (peerId, peerDev)) }
    c.when (!was) fun c => c.raise Ev.STACK_LINK (0x620 + i)

/-! ### The state copy (R415 to R418) -/

/-- The keys at which two tables differ. -/
def diffKeys {α : Type} [DecidableEq α] (d : Nat → α) (a b : SMap α) : List Nat :=
  (a.map (·.1) ++ (b.map (·.1)).filter fun k => !(a.map (·.1)).contains k).filter fun k => SMap.get d a k ≠ SMap.get d b k

/-- R269: the hit bits of an entry, hit and idle, are not copied. -/
def FwdEntry.copied (e : FwdEntry) : FwdEntry := { e with hit := false, idle := false }

/-- The tables that the copy carries, as they stand. -/
def Chip.snapshot (c : Chip) : CopySnap := {
  slots := c.vlt.slots, sas := c.sax.sas, channels := c.sax.channels, fwd := c.fwd.table.map fun x => (x.1, x.2.map FwdEntry.copied), meters := c.slu.meters,
  shapers := c.slu.qshapers, cshapers := c.slu.cshapers }

/-- What a copy that has carried an item makes of the record of what has been carried: the item's value in `now`. -/
def CopySnap.carried (now s : CopySnap) (x : CopyItem) : CopySnap :=
  match x with
  | .reserve _ _ _ | .reserveSeq _ _ => s
  | .slot i _ => { s with slots := SMap.set (fun _ => {}) s.slots i (SMap.get (fun _ => {}) now.slots i) }
  | .sa i _ => { s with sas := SMap.set (fun _ => {}) s.sas i (SMap.get (fun _ => {}) now.sas i) }
  | .channel i _ => { s with channels := SMap.set (fun _ => {}) s.channels i (SMap.get (fun _ => {}) now.channels i) }
  | .fwd i _ => { s with fwd := SMap.set (fun _ => none) s.fwd i (SMap.get (fun _ => none) now.fwd i) }
  | .meter i _ _ => { s with meters := SMap.set (fun _ => {}) s.meters i (SMap.get (fun _ => {}) now.meters i) }
  | .shaper i _ _ => { s with shapers := SMap.set (fun _ => {}) s.shapers i (SMap.get (fun _ => {}) now.shapers i) }
  | .cshaper i _ _ => { s with cshapers := SMap.set (fun _ => {}) s.cshapers i (SMap.get (fun _ => {}) now.cshapers i) }

/-- A vault record wrapped under the pair key (R123, Table 16.2). -/
def Chip.wrapSlot (c : Chip) (s : Slot) : Bytes :=
  let k := c.slot (slotOf (c.prs.pairKey.getD 0))
  Config.kwpWrap k.klen k.key (slotBytes s)

/-- The items of slots, contexts and forwarding entries that differ between two snapshots, with their present values. -/
def Chip.contextItems (c : Chip) (a b : CopySnap) : List CopyItem :=
  ((diffKeys (fun _ => {}) a.slots b.slots).map fun i => .slot i (c.wrapSlot (c.slot i))) ++
  ((diffKeys (fun _ => {}) a.sas b.sas).map fun i => .sa i (c.sa i)) ++
  ((diffKeys (fun _ => {}) a.channels b.channels).map fun i => .channel i (c.chan i)) ++
  ((diffKeys (fun _ => none) a.fwd b.fwd).map fun i => .fwd i ((c.fwd? i).map FwdEntry.copied))

/-- The levels of the meters and shapers that differ between two snapshots, by increasing key. -/
def Chip.bucketItems (c : Chip) (a b : CopySnap) : List CopyItem :=
  ((diffKeys (fun _ => {}) a.meters b.meters).map fun i => .meter i (c.meter i).cb (c.meter i).pb) ++
  ((diffKeys (fun _ => {}) a.shapers b.shapers).map fun i => .shaper i (c.qShaper i).cb (c.qShaper i).pb) ++
  ((diffKeys (fun _ => {}) a.cshapers b.cshapers).map fun i => .cshaper i (c.cShaper i).cb (c.cShaper i).pb)

/-- The place of a bucket level in the round robin of Table 16.2: the meters, the queue shapers, the class shapers. -/
def CopyItem.bucket : CopyItem → Option Nat
  | .meter i _ _ => some i
  | .shaper i _ _ => some (16384 + i)
  | .cshaper i _ _ => some (49152 + i)
  | _ => none

/-- Every changed item in the order of Table 16.2, the bucket levels in turn from the one after the last sent. -/
def Chip.changedItems (c : Chip) (a b : CopySnap) : List CopyItem :=
  let l := c.bucketItems a b
  let later := fun (x : CopyItem) => x.bucket.any (c.prs.nextBucket ≤ ·)
  c.contextItems a b ++ l.filter later ++ l.filter fun x => !later x

/-- The part sends copies: it holds and is not yielding, and the link is SYNCING or SYNCED (R414, R420). -/
def Chip.copying (c : Chip) : Bool := c.holding && c.prs.yieldAt.isNone && (c.prs.link = 3 || c.prs.link = 4)

/-- R416: the whole effect of a COMMIT, from the tables before it, becomes a commit record. -/
def Chip.commitRecord (c : Chip) (before : CopySnap) : Chip :=
  if !c.copying then c
  else
    let now := c.snapshot
    let items := c.contextItems before now
    c.modPrs fun p => { p with
      commitSeq := p.commitSeq + 1, commits := p.commits ++ [(p.commitSeq + 1, items)], snap := items.foldl now.carried p.snap }

/-- R417: a limit: a multiple of 2^16 at least 2^17 above the next number, raised in steps of 2^16. -/
def newLimit (limit next : Nat) : Nat :=
  if next + 2 ^ 17 ≤ limit then limit else (next + 2 ^ 17 + 2 ^ 16 - 1) / 2 ^ 16 * 2 ^ 16

/-- The keys of the line sub-ports in ingot mode. -/
def Chip.ingotKeys (c : Chip) : List Nat := (List.range 32).filter fun k => c.ingotMode (8 + k / 4) (k % 4)

/-- R417: the reservations that are due: of the SAs and the ingot ports whose limit rises. -/
def Chip.dueReserves (c : Chip) : List CopyItem :=
  (c.sax.sas.filterMap fun p =>
    let limit := newLimit p.2.reserved p.2.nextPn
    if p.2.state = 1 && !p.2.dir && limit ≠ p.2.reserved then some (.reserve p.1 p.2.generation limit) else none) ++
  c.ingotKeys.filterMap fun k =>
    let old := SMap.get (fun _ => 0) c.prs.seqLimits k
    let limit := newLimit old (c.ingot k).nextSeq
    if limit ≠ old then some (.reserveSeq k limit) else none

/-- The limits that the part has reserved (R421). -/
def Chip.reservedLimits (c : Chip) : List CopyItem :=
  (c.sax.sas.filterMap fun p => if p.2.state = 1 && !p.2.dir then some (.reserve p.1 p.2.generation p.2.reserved) else none) ++
  c.ingotKeys.map fun k => .reserveSeq k (SMap.get (fun _ => 0) c.prs.seqLimits k)

/-- A reservation that has left in a cycle is in force (R417). -/
def Chip.reserve (c : Chip) (x : CopyItem) : Chip :=
  match x with
  | .reserve i _ limit => c.setSa i { c.sa i with reserved := limit }
  | .reserveSeq k limit => c.modPrs fun p => { p with seqLimits := SMap.set (fun _ => 0) p.seqLimits k limit }
  | _ => c

/-- The bytes that an item takes: 12 a reservation, 20,000 of which fit in 5 µs (R417); what its record has, any other. -/
def CopyItem.size : CopyItem → Nat
  | .reserve _ _ _ | .reserveSeq _ _ => 12
  | x => (Config.recordBytes CopyItem x).length

/-- The records that fit in so many bytes, in order, and the room that they leave: none once a record does not fit, since what
follows has no higher priority (R416). -/
def takeFit {α : Type} (size : α → Nat) : List α → Nat → List α × Nat
  | [], room => ([], room)
  | x :: l, room =>
    if size x ≤ room then
      let (a, r) := takeFit size l (room - size x)
      (x :: a, r)
    else ([], 0)

/-- Tc in ns. -/
def Chip.pairTc (c : Chip) : Nat := c.getF F.PRS_PAIR_CFG_tc [] * 1000

/-- The bytes of records that a cycle carries (R415), cut to the lanes in service of the pair link (R436). -/
def Chip.cycleRoom (c : Chip) : Nat := c.pairTc * 48 * c.linkLanes 2 / 4

/-- The part's own configuration CRC, as it is exchanged every cycle (R416). -/
def Chip.pairCrc (c : Chip) : Word := BitVec.ofNat 32 (c.getF F.SYS_CFG_CRC_PAIR_crc [])

/-- The additional data of a frame of the pair link, with the claim and its status (R411); 0 a cycle, 1 the bulk copy, 2 what the
standby reports. -/
def pairClear (kind : Nat) (claim status : Byte) : Bytes := [BitVec.ofNat 8 kind, claim, status, 0] ++ List.replicate 8 0

/-- A frame of the pair link, under its session (R413). -/
def Chip.pairSend (c : Chip) (kind : Nat) (body : Bytes) : Chip :=
  c.linkSend 2 kind (pairClear kind (BitVec.ofNat 8 c.publishedClaim) (BitVec.ofNat 8 c.claimStatus)) body

/-- A frame of the pair link arrives: with a failing tag it is dropped and counted (R413); else its claim is taken (R411) and what it
carries acts. -/
def Chip.pairTaken (c : Chip) (h : PairHead) (kind : Nat) (body : Bytes) (f : Chip → Chip) : Chip :=
  match SMap.get (fun _ => none) c.prs.sessions 2 with
  | none => c
  | some (k : LinkSession) =>
    let head := (pairClear kind h.claim h.status).take 4 ++ beBytes 8 h.seq
    let iv := BitVec.ofNat 96 (k.rxSalt.toNat / 2 ^ 64 * 2 ^ 64 + h.seq)
    if h.tag = Config.gcmTag true k.rxKey iv head (gcmXor true k.rxKey iv body) then
      f (c.peerClaimed true h.claim.toNat h.status.toNat)
    else c.bump F.PRS_LINK_AUTH_CNT_count []

/-- R415: the holder ends a pair cycle: the records that have changed are streamed as far as the cycle holds them, and its marker.
Those that it does not hold wait for the next. -/
def Chip.cycleEnd (c : Chip) : Chip :=
  if !c.copying then c
  else
    let c := c.reachElapsed (c.prs.cycleAt + c.pairTc)
    let (reserved, room) := takeFit CopyItem.size (if c.prs.link = 4 then c.dueReserves else []) c.cycleRoom
    let (commits, room) := takeFit (fun x => (Config.recordBytes (Nat × List CopyItem) x).length) c.prs.commits room
    let c := c.each reserved Chip.reserve
    let now := c.snapshot
    let items := (takeFit CopyItem.size (c.changedItems c.prs.snap now) room).1
    let n := (c.prs.cycle + 1) % 2 ^ 32
    let x : PairCycle := { number := n, cfgCrc := c.pairCrc, commits := commits, items := reserved ++ items }
    let c := c.modPrs fun p => { p with
      cycle := n, cycleAt := c.now, snap := items.foldl now.carried p.snap, commits := p.commits.drop commits.length,
      unacked := p.unacked ++ [x], nextBucket := ((items.filterMap CopyItem.bucket).getLast?.map (· + 1)).getD p.nextBucket }
    (c.setF F.PRS_COPY_CYCLE_cycle [] n).pairSend 0 (Config.recordBytes PairCycle x)

def execPairCycleEnd := lift Chip.cycleEnd

/-- R420, R421: the final copy of a yield: every outstanding reservation and commit record, and all reserved limits in a dual
hold. -/
def Chip.finalCopy (c : Chip) : Chip :=
  let dual := c.getB F.PRS_STAT_dual []
  if !c.copying && !dual then c
  else
    let open' := (c.prs.unacked.flatMap (·.items)).filter fun x => match x with
      | .reserve _ _ _ | .reserveSeq _ _ => true
      | _ => false
    let n := (c.prs.cycle + 1) % 2 ^ 32
    let x : PairCycle := {
      number := n, final := true, cfgCrc := c.pairCrc, commits := c.prs.unacked.flatMap (·.commits) ++ c.prs.commits,
      items := if dual then c.reservedLimits else open' }
    let c := c.modPrs fun p => { p with cycle := n, commits := [], unacked := [] }
    (c.setF F.PRS_COPY_CYCLE_cycle [] n).pairSend 0 (Config.recordBytes PairCycle x)

/-- The bulk copy (R418): every item of every table. -/
def Chip.bulkSend (c : Chip) : Chip :=
  let now := c.snapshot
  let x : BulkCopy := { seq := c.prs.commitSeq, items := c.changedItems {} now }
  (c.modPrs fun p => { p with snap := now, commits := [], unacked := [], cycleAt := c.now }).pairSend 1 (Config.recordBytes BulkCopy x)

/-- The link enters SYNCING; the holder sends the bulk copy. -/
def Chip.startSync (c : Chip) : Chip :=
  ((c.setPairLink 3).modPrs fun p => { p with early := [] }).when c.holding Chip.bulkSend

/-- A HELLO exchange is complete: its check, and the session. -/
def Chip.helloCheck (c : Chip) (i : Nat) : Chip :=
  match SMap.get (fun _ => none) c.prs.salts i, SMap.get (fun _ => none) c.prs.hellos i with
  | some (salt : BitVec 96), some (peer : PeerHello) =>
    let own := c.ownHello i salt
    let c := c.modPrs fun p => { p with
      salts := SMap.set (fun _ => none) p.salts i none, hellos := SMap.set (fun _ => none) p.hellos i none }
    match c.helloPasses i own peer, (c.linkKey i).filter c.canDerive with
    | true, some k =>
      c.jobAdd (.session i k (c.slot k).generation (c.sessionOf i k own peer) peer.stackId peer.deviceId)
    | _, _ =>
      let c := c.modPrs fun p => { p with
        sessions := SMap.set (fun _ => none) p.sessions i none, linkUp := p.linkUp.filter (· ≠ i) }
      if i = 2 then (c.setPairLink 2).raise Ev.PAIR_MISMATCH 0x600 else c.raise Ev.STACK_MISMATCH (0x620 + i)
  | _, _ => c

/-- A link's HELLO is sent with its salt. -/
def Chip.helloSend (c : Chip) (i : Nat) (salt : BitVec 96) : Chip :=
  let c := c.modPrs fun p => { p with salts := SMap.set (fun _ => none) p.salts i (some salt) }
  ((c.emit (.hello i (c.ownHello i salt))).when (i = 2) Chip.claimWord).helloCheck i

/-- The salt of a link's HELLO has been drawn: the HELLO is sent, once key sequencer engine 1 has its key check value (R98).
While the Pans are stopped the Crucible's own CMAC engine gives it at once (DEDUCED, log entry 48). -/
def Chip.saltDrawn (c : Chip) (i : Nat) (blocks : List (BitVec 128)) : Chip :=
  let salt := BitVec.ofNat 96 ((blocks.headD 0).toNat / 2 ^ 32)
  match c.linkKey i with
  | some k => if c.pan.stopped then c.helloSend i salt else c.jobAdd (.hello i k salt)
  | none => c.helloSend i salt

/-- A job of key sequencer engine 1 has ended. After a request that has failed (R115) no HELLO is sent and no session starts
(DESIGN CHOICE, log entry 34). -/
def Chip.jobEnd (c : Chip) (j : LinkJob) (failed : Bool) : Chip :=
  match j with
  | .void => c
  | .hello i _ salt => if failed then c else c.helloSend i salt
  | .session i k gen keys peerId peerDev =>
    if failed then c
    else (c.sessionStart i k gen keys peerId peerDev).when (i = 2 && c.prs.link < 3) Chip.startSync

/-- The first job of key sequencer engine 1 ends with its last request; the next one begins. -/
def Chip.jobStep (c : Chip) : Chip :=
  match c.prs.jobOn, c.prs.jobs with
  | true, j :: l =>
    if (c.findReq fun r => r.kind = .cmac && r.subject = 1).isSome then c
    else
      let failed := (c.ksqCtx 1).cmacFail
      let c := (c.setKsq 1 { c.ksqCtx 1 with cmacFail := false }).modPrs fun p => { p with jobs := l, jobOn := false }
      (c.jobEnd j failed).jobKick
  | _, _ => c.jobKick

/-- CMAC_COMPLETE: a request of a key sequencer completes, and with it what it was made for. -/
def execCmacComplete (e : Fin 2) := lift fun c => (c.cmacComplete e).when (e = 1) Chip.jobStep

/-- The peer's HELLO arrives on a link whose lanes are up. -/
def Chip.helloArrives (c : Chip) (i : Nat) (peer : PeerHello) : Chip :=
  if c.getF F.LNK_LINK_STAT_up [i] = 0 then c
  else
    let c := c.modPrs fun p => { p with
      hellos := SMap.set (fun _ => none) p.hellos i (some peer), peerPresent := p.peerPresent || i = 2 }
    c.helloCheck i

def execPairHello (peer : PeerHello) := lift fun c => c.helloArrives 2 peer

def execRunnerHello (port : Fin 2) (peer : PeerHello) := lift fun c => c.helloArrives port.val peer

/-- LINK_REHELLO: a link in use exchanges a new HELLO; without a generator it goes down. -/
def execLinkRehello (link : Fin 3) (peer : PeerHello) := lift fun c =>
  if !c.prs.linkUp.contains link.val then c
  else if c.entFailed then c.linkDown link.val
  else
    let c := (c.jobsDrop link.val).modPrs fun p => { p with salts := SMap.set (fun _ => none) p.salts link.val none }
    ((c.randDrop fun r => r.use = .linkSalt link.val).randPost 1 1 (.linkSalt link.val)).helloArrives link.val peer

/-! ### The standby's side of the copy -/

/-- An item of the copy is applied. A VALID key that it overwrites or makes INVALID is invalidated (R133). The replay state of a receive SA stays the standby's own (R422). -/
def Chip.applyItem (c : Chip) (x : CopyItem) : Chip :=
  match x with
  | .reserve i g limit => if i < 65536 && (c.sa i).generation = g then c.setSa i { c.sa i with reserved := limit } else c
  | .reserveSeq k limit => if k < 32 then c.modPrs fun p => { p with seqLimits := SMap.set (fun _ => 0) p.seqLimits k limit } else c
  | .slot i wrapped =>
    let k := c.slot (slotOf (c.prs.pairKey.getD 0))
    match Config.kwpUnwrap k.klen k.key wrapped with
    | some b =>
      let s := slotOfBytes b
      let was := (c.slot i).state = 1 && !(s.state = 1 && s.generation = (c.slot i).generation)
      if i < 131072 then (((c.setSlot i s).dropCached i).newUses i).when was Chip.startWalk else c
    | none => c
  | .sa i v =>
    let old := c.sa i
    let own := old.dir && old.state = 1 && v.dir && old.generation = v.generation
    let c := if i < 65536 then c.setSa i (if own then { v with highest := old.highest, bitmap := old.bitmap } else v) else c
    if old.state = v.state && old.generation = v.generation then c else (c.rxUnsync old.channel).rxUnsync v.channel
  | .channel i v =>
    let old := c.chan i
    let same := old.valid = v.valid && old.linePort = v.linePort && old.subPort = v.subPort && old.portCh = v.portCh
    let c := if same then c else c.rxUnsync i
    let c := if i < 32768 then c.setChan i v else c
    if same then c else c.rxUnsync i
  | .fwd i v => if i < 262144 then c.setFwd i v else c
  | .meter i cb pb => if i < 16384 then c.setMeter i { c.meter i with cb := cb, pb := pb } else c
  | .shaper i cb pb => if i < 32768 then c.setQShaper i { c.qShaper i with cb := cb, pb := pb } else c
  | .cshaper i cb pb => if i < 528 then c.setCShaper i { c.cShaper i with cb := cb, pb := pb } else c

/-- The counts of the forwarding table follow a copy. -/
def Chip.fwdCopied (c : Chip) : Chip := c.fwdRecount.setF F.FWD_COUNT_valid [] c.fwdList.length

/-- The commit records of a cycle, each once and in sequence; a gap makes the link STALE. -/
def Chip.applyCommits (c : Chip) : List (Nat × List CopyItem) → Chip
  | [] => c
  | (n, items) :: rest =>
    if n ≤ c.prs.peerCommitSeq then c.applyCommits rest
    else if n = c.prs.peerCommitSeq + 1 then
      let c := c.each items Chip.applyItem
      (c.modPrs fun p => { p with peerCommitSeq := n }).applyCommits rest
    else c.setPairLink 5

/-- R416: the configuration CRCs are compared; a difference that begins raises its event. -/
def Chip.cfgCompare (c : Chip) (crc : Word) : Chip :=
  let differs := crc ≠ c.pairCrc
  let began := differs && !c.getB F.PRS_STAT_cfg_diff []
  (c.setF F.PRS_STAT_cfg_diff [] (b2n differs)).when began fun c => c.raise Ev.PAIR_CFG_DIFF 0x600

/-- Cycle `n` is later than cycle `m`. -/
def cycleAfter (n m : Nat) : Bool := let d := (n + 2 ^ 32 - m % 2 ^ 32) % 2 ^ 32; 0 < d && d < 2 ^ 31

/-- The records of a cycle act on the tables. -/
def Chip.cycleRecords (c : Chip) (x : PairCycle) : Chip := ((c.applyCommits x.commits).each x.items Chip.applyItem).fwdCopied

/-- R430: a final copy comes too late: Tc + 2 µs after the comparison gave the claim to this part. -/
def Chip.finalLate (c : Chip) (x : PairCycle) : Bool :=
  x.final && c.prs.holdSince.any fun t => t + c.pairTc + 2000 < c.now

/-- PAIR_CYCLE_APPLY: the standby applies a cycle at its marker, and acknowledges it. A cycle that has been sent again leaves the
number of the last one as it stands. During the bulk copy a cycle waits for its end (DEDUCED, log entry 34). -/
def Chip.cycleApply (c : Chip) (x : PairCycle) : Chip :=
  if c.holding || !(c.prs.link = 3 || c.prs.link = 4) || c.finalLate x then c
  else
    let c := if c.prs.link = 3 then c.modPrs fun p => { p with early := p.early ++ [x] } else c.cycleRecords x
    let c := c.when (cycleAfter x.number c.prs.appliedCycle) fun c => (c.modPrs fun p => { p with
      appliedCycle := x.number, markerMisses := 0, markerAt := c.now }).setF F.PRS_COPY_CYCLE_cycle [] x.number
    let c := (c.modPrs fun p => { p with finalGot := p.finalGot || x.final }).bump F.PRS_COPY_CNT_count []
    (c.cfgCompare x.cfgCrc).pairSend 2 (Config.recordBytes CopyAck (.cycle x.number c.pairCrc))

def execPairCycleApply (copy : PairFrame PairCycle) := lift fun c =>
  c.pairTaken copy.head 0 (Config.recordBytes PairCycle copy.body) fun c => c.cycleApply copy.body

/-- What the standby reports to the holder. -/
def Chip.copyReport (c : Chip) (what : CopyAck) : Chip :=
  if !c.holding then c
  else match what with
    | .cycle n crc => (c.modPrs fun p => { p with unacked := p.unacked.filter fun x => x.number ≠ n }).cfgCompare crc
    | .bulk => c.when (c.prs.link = 3) fun c => c.setPairLink 4
    | .resync => c.when (3 ≤ c.prs.link) Chip.startSync

/-- CYCLE_ACKNOWLEDGE. -/
def execCycleAcknowledge (what : PairFrame CopyAck) := lift fun c =>
  c.pairTaken what.head 2 (Config.recordBytes CopyAck what.body) fun c => c.copyReport what.body

/-- The same item of a table, with its latest value. -/
def Chip.renew (c : Chip) (x : CopyItem) : CopyItem :=
  match x with
  | .reserve i _ _ => .reserve i (c.sa i).generation (c.sa i).reserved
  | .reserveSeq k _ => .reserveSeq k (SMap.get (fun _ => 0) c.prs.seqLimits k)
  | .slot i _ => .slot i (c.wrapSlot (c.slot i))
  | .sa i _ => .sa i (c.sa i)
  | .channel i _ => .channel i (c.chan i)
  | .fwd i _ => .fwd i ((c.fwd? i).map FwdEntry.copied)
  | .meter i _ _ => .meter i (c.meter i).cb (c.meter i).pb
  | .shaper i _ _ => .shaper i (c.qShaper i).cb (c.qShaper i).pb
  | .cshaper i _ _ => .cshaper i (c.cShaper i).cb (c.cShaper i).pb

/-- COPY_RESEND: cycles that are not acknowledged within 2 cycles are sent again, with the latest values. -/
def execCopyResend := lift fun c =>
  let old := c.prs.unacked.filter fun x => x.number + 2 ≤ c.prs.cycle
  if !c.copying || old.isEmpty then c
  else
    let again := old.map fun x => { x with items := x.items.map c.renew }
    let c := c.modPrs fun p => { p with unacked := again ++ p.unacked.filter fun x => p.cycle < x.number + 2 }
    c.each again fun c x => c.pairSend 0 (Config.recordBytes PairCycle x)

/-- What a copy names of each table. -/
def namedSlots (l : List CopyItem) : List Nat := l.filterMap fun x => match x with | .slot i _ => some i | _ => none
def namedSas (l : List CopyItem) : List Nat := l.filterMap fun x => match x with | .sa i _ => some i | _ => none
def namedChannels (l : List CopyItem) : List Nat := l.filterMap fun x => match x with | .channel i _ => some i | _ => none
def namedFwd (l : List CopyItem) : List Nat := l.filterMap fun x => match x with | .fwd i _ => some i | _ => none

/-- BULK_COPY_DONE: the standby's tables are replaced by the bulk copy; the cycles that came meanwhile follow, and the link is
SYNCED unless they leave a gap (R418). -/
def Chip.bulkApply (c : Chip) (n : Nat) (items : List CopyItem) : Chip :=
  if c.holding || c.prs.link ≠ 3 then c
  else
    let c := c.modSlu fun u => { u with
      meters := (u.meters.map fun x => (x.1, { x.2 with cb := ({} : Meter).cb, pb := ({} : Meter).pb })).filter fun x => x.2 ≠ {}
      qshapers := (u.qshapers.map fun x => (x.1, { x.2 with cb := ({} : Shaper).cb, pb := ({} : Shaper).pb })).filter fun x => x.2 ≠ {}
      cshapers := (u.cshapers.map fun x => (x.1, { x.2 with cb := ({} : Shaper).cb, pb := ({} : Shaper).pb })).filter fun x => x.2 ≠ {} }
    let c := c.each items Chip.applyItem
    let gone := c.vlt.slots.any fun x => x.2.state = 1 && !(namedSlots items).contains x.1
    let c := c.modVlt fun v => { v with slots := v.slots.filter fun x => (namedSlots items).contains x.1 }
    let c := c.when gone Chip.startWalk
    let lost := c.sax.sas.filter fun x => x.2.dir && x.2.state = 1 && !(namedSas items).contains x.1
    let c := c.each lost fun c x => c.rxUnsync x.2.channel
    let c := c.modSax fun a => { a with
      sas := a.sas.filter fun x => (namedSas items).contains x.1
      channels := a.channels.filter fun x => (namedChannels items).contains x.1 }
    let c := (c.modFwd fun f => { f with table := f.table.filter fun x => (namedFwd items).contains x.1 }).fwdCopied
    let early := c.prs.early
    let c := c.modPrs fun p => { p with peerCommitSeq := n, early := [] }
    let c := c.each early Chip.cycleRecords
    if c.prs.link ≠ 3 then c else (c.setPairLink 4).pairSend 2 (Config.recordBytes CopyAck .bulk)

def execBulkCopyDone (head : PairHead) (bulk : BulkCopy) := lift fun c =>
  c.pairTaken head 1 (Config.recordBytes BulkCopy bulk) fun c => c.bulkApply bulk.seq bulk.items

/-- R418: PRS_CTL.resync on the standby: a new bulk copy is asked for. -/
def Chip.pairResync (c : Chip) : Chip :=
  if c.prs.linkUp.contains 2 then c.startSync.pairSend 2 (Config.recordBytes CopyAck .resync) else c

/-- MARKER_DEADLINE: a marker has not come by its deadline; at the third the peer counts as silent, or, where its
sideband has been heard since the first, the link becomes STALE (R418, R419; DEDUCED from the example of chapter 16, log
entry 34). -/
def Chip.markerMissed (c : Chip) : Chip :=
  if c.holding || !(c.prs.link = 3 || c.prs.link = 4) then c
  else
    let n := c.prs.markerMisses + 1
    let c := c.reachElapsed (c.prs.markerAt + n * (c.pairTc + 2000))
    let c := (c.modPrs fun p => { p with markerMisses := n }).bump F.PRS_MISS_CNT_count []
    if n ≠ 3 then c
    else if c.prs.markerAt + c.pairTc + 2000 < c.prs.heardSide then c.setPairLink 5
    else c.peerSilent

def execMarkerDeadline := lift Chip.markerMissed

/-! ### Takeover and yield (R419 to R421) -/

/-- R171, R419: every ingot port starts at its high-water slot number plus the guard. -/
def Chip.seqAdvance (c : Chip) : Chip :=
  c.each c.ingotKeys fun c k =>
    let limit := max (SMap.get (fun _ => 0) c.prs.seqLimits k) (c.ingot k).nextSeq
    c.setIngot k { c.ingot k with nextSeq := (limit + c.pnGuard) % 2 ^ 64 }

/-- TAKEOVER: a standby whose comparison gives it the claim: at once after silence and once it has the peer's final copy, else after
waiting for that copy for Tc + 2 µs. -/
def Chip.takeover (c : Chip) : Chip :=
  if !c.inMode [.standby] || !c.holds then c
  else
    let silent := c.prs.peerSrc = 0
    let peer := c.prs.peerClaim
    let own := c.ownClaim
    let c := if silent || c.prs.finalGot then c else c.reachElapsed (c.prs.holdSince.getD c.now + c.pairTc + 2000)
    let c := (c.guardAdvance.seqAdvance).rakeTakeover
    let c := c.modPrs fun p => { p with
      cycle := p.appliedCycle, commitSeq := p.peerCommitSeq, commits := [], unacked := [], snap := c.snapshot, cycleAt := c.now,
      finalGot := false }
    let c := (c.enterMode .active 1).bump F.PRS_TAKEOVER_CNT_count []
    (c.raise Ev.TAKEOVER 0x600 [(4, Config.takeoverCause silent), (4, own), (4, peer)]).trackDefer

def execTakeover := lift Chip.takeover

/-- The part must give up the claim: its claim is not above the peer's, or its grade is 0. -/
def Chip.mustYield (c : Chip) : Bool := c.holding && (c.prs.grade = 0 || c.ownClaim ≤ c.prs.peerClaim)

/-- YIELD: allocation stops, and the final copy is sent. -/
def execYield := lift fun c =>
  if !c.mustYield || c.prs.yieldAt.isSome then c
  else
    let t := c.now
    c.finalCopy.modPrs fun p => { p with yieldAt := some t }

/-- YIELD_END: the outputs are given up, sealed frames not yet sent are discarded, and the mode becomes STANDBY, which ends a
drain (R410). -/
def Chip.yieldEnd (c : Chip) : Chip :=
  match c.prs.yieldAt with
  | none => c
  | some t =>
    let c := if c.prs.peerHolding then c else c.reachElapsed (t + 3 * c.pairTc + 10000)
    let c := c.each c.path.ingots fun c p => (c.recallSlots p.1 p.2.slots).setIngot p.1 { (c.recallSlots p.1 p.2.slots).ingot p.1 with slots := [] }
    let c := c.dropAll 0x89 fun f => f.sealWith.isSome || f.stage = .pan
    let c := c.modPrs fun p => { p with
      yieldAt := none, selOut := false, peerCommitSeq := p.commitSeq, appliedCycle := p.cycle, markerMisses := 0, markerAt := c.now }
    let c := if c.inMode [.active, .drain] then c.enterMode .standby 1 else c.setF F.PRS_STAT_holding [] 0
    (c.raise Ev.YIELD 0x600).trackDefer

def execYieldEnd := lift Chip.yieldEnd

/-- R421: a reservation of the device that gave up the claim: the larger limit plus the guard is the next number. -/
def Chip.reconcile (c : Chip) (x : CopyItem) : Chip :=
  match x with
  | .reserve i g limit =>
    let s := c.sa i
    let next := max limit s.mark + c.pnGuard
    if s.state ≠ 1 || s.dir || s.generation ≠ g then c
    else if lastPn s.suite < next then c.stopSa i
    else c.setSa i { s with nextPn := next }
  | .reserveSeq k limit =>
    let own := max (SMap.get (fun _ => 0) c.prs.seqLimits k) (c.ingot k).nextSeq
    if k < 32 then c.setIngot k { c.ingot k with nextSeq := (max limit own + c.pnGuard) % 2 ^ 64 } else c
  | _ => c

/-- DUAL_HOLD: both devices hold, and the pair link shows it; the one with the higher claim takes the other's limits. -/
def execDualHold (limits : List CopyItem) := lift fun c =>
  if !c.holding || !c.prs.peerHolding || !c.prs.linkUp.contains 2 then c
  else
    let c := (c.setF F.PRS_STAT_dual [] 1).raise Ev.DUAL_HOLD 0x600
    if c.mustYield then c else c.each limits Chip.reconcile

/-! ### Link frames received (R413, R424) -/

/-- A frame of a Runner link is opened: its clear header and its plaintext; one with a bad FCS (log entry 35) or a failing tag is
counted and dropped. -/
def Chip.linkOpen (c : Chip) (i : Nat) (frame : Bytes) : Option (Bytes × Bytes) × Chip :=
  match SMap.get (fun _ => none) c.prs.sessions i with
  | none => (none, c)
  | some (k : LinkSession) =>
    let tagged := frame.take (frame.length - 4)
    let head := frame.take 12
    let cipher := (frame.drop 12).take (frame.length - 32)
    let iv := BitVec.ofNat 96 (k.rxSalt.toNat / 2 ^ 64 * 2 ^ 64 + beNat (slice head 4 8))
    if frame.drop (frame.length - 4) ≠ fcs tagged then (none, c.portCount (64 + i) (0x20 + (0x81 - 0x80)))
    else if frame.length < 64 || Config.gcmTag true k.rxKey iv head cipher ≠ BitVec.ofNat 128 (beNat (tagged.drop (tagged.length - 16))) then
      (none, c.bump F.PRS_LINK_AUTH_CNT_count [])
    else (some (head, gcmXor true k.rxKey iv cipher), c)

/-- A stack frame to all, on both Runner ports. -/
def Chip.stackAll (c : Chip) (kind : Nat) (body : Bytes) : Chip :=
  c.each [0, 1] fun c p => c.linkSend p kind (stackClear kind 7 c.prs.straps 0xFF) (List.replicate 32 0 ++ body)

/-- STACK_TIME_SEND: the master's time word, with O and L (R216, R426). -/
def execStackTimeSend := lift fun c =>
  if !c.isMaster || !c.running then c
  else
    c.stackAll 1 (beBytes 12 (packTime c.tim.clock c.holdover) ++ beBytes 8 c.epochOrg ++
      beBytes 4 (c.getF F.TIM_EPOCH_CFG_len []))

/-- KEEPALIVE_SEND. -/
def execKeepaliveSend := lift fun c =>
  if !c.powered then c
  else c.stackAll 4 ([BitVec.ofNat 8 (modeCode c.ctl.mode), BitVec.ofNat 8 (b2n c.holding), BitVec.ofNat 8 c.publishedClaim] ++
    beBytes 8 Config.deviceId.toNat)

/-- R216: the Runner port on the path with fewer hops to the master, port 0 where both have the same (DESIGN CHOICE, log
entry 54). -/
def Chip.timePort (c : Chip) : Nat :=
  match c.hopsBy c.masterId 0, c.hopsBy c.masterId 1 with
  | some a, some b => if b < a then 1 else 0
  | none, some _ => 1
  | _, none => 0

/-- R206, R216: stack time has been acquired. -/
def Chip.acquire (c : Chip) : Chip := { c with tim := { c.tim with acquired := true, stackGot := true } }

/-- R216: a member captures a master time word whose value, corrected for the delay of its path, is `k`. The first
acquisition after a reset that clears TIM, or after holdover longer than 1 s, is a step in PROVISION and MAINTENANCE;
otherwise the clock slews toward the master. F is disciplined to `f`. -/
def Chip.stackTime (c : Chip) (k : Clock) (f : BitVec 40) (org len : Nat) : Chip :=
  if c.getF F.TIM_REF_CFG_src [] = 2 && !c.getB F.TIM_CTL_hold [] then
    let longHold := c.refState = 3 && 1000000000 < c.now - c.tim.lostAt
    let first := !c.tim.stackGot || longHold
    let c := if c.getF F.TIM_EPOCH_CFG_len [] = len && c.epochOrg = org then c
      else (c.takeEpochCfg org len).judgeEpoch.jumped c
    let c := if f.toInt.natAbs ≤ freqMax then c.setFreq f else c
    let c :=
      if first && c.inMode [.provision, .maintenance] then ((c.stepTo k).jumped c).acquire
      else
        let diff : Int := (clockUnits k / 2 ^ 48 : Nat) - (clockUnits c.tim.clock / 2 ^ 48 : Nat)
        let c := if diff = 0 then c else c.slewStart diff
        if first then c.acquire.judgeEpoch.jumped c else c
    if c.refState = 2 then c else (c.setRefState 2).raise Ev.REF_QUALIFIED 0x0C0
  else c

/-- STACK_TIME_WORD: a word that a Runner port captures, with the ring delay measured on its path in 2^-16 ns. The member
follows the words of the path with fewer hops. -/
def execStackTimeWord (k : TimeWord) (f : TimePath) := lift fun c =>
  if f.port.val ≠ c.timePort then c
  else
    let at_ := (k.ns.toNat * 2 ^ 16 + k.frac.toNat + f.delay.toNat) * 2 ^ 48
    c.stackTime (clockOf k.sec.toNat at_) f.f k.org.toNat k.len.toNat

def Chip.setMember (c : Chip) (d : Nat) (m : Member) : Chip :=
  c.modPrs fun p => { p with members := SMap.set (fun _ => {}) p.members d m }

/-- The master is heard. -/
def Chip.masterIsHeard (c : Chip) (d : Nat) : Chip :=
  c.when (d = c.masterId) fun c => c.modPrs fun p => { p with masterHeard := c.now }

/-- R428: an acting master that has been reset, or is gone from the ring, is none any more (DEDUCED, log entry 35). -/
def Chip.actingGone (c : Chip) (d : Nat) : Chip :=
  c.modPrs fun p => { p with actingOther := if p.actingOther = some d then none else p.actingOther }

/-- KEEPALIVE_RECEIVE: a member's keepalive with the hops it still has; it is passed on until it has come round. -/
def Chip.keepalive (c : Chip) (port dev hops mode : Nat) (device : DWord) (holding : Bool) (claim : Nat) : Chip :=
  if !c.prs.linkUp.contains port || dev = c.prs.straps then c
  else
    let m := { c.member dev with mode := mode, device := device, holding := holding, claim := claim, present := true, heard := c.now }
    let away := min 7 (8 - hops)
    let c := c.setMember dev (if port = 0 then { m with hops0 := away, heard0 := some c.now }
      else { m with hops1 := away, heard1 := some c.now })
    let c := (c.when (mode = modeCode .wake) fun c => c.actingGone dev).masterIsHeard dev
    if hops = 0 then c
    else c.linkSend (1 - port) 4 (stackClear 4 (hops - 1) dev 0xFF) (List.replicate 32 0 ++
      [BitVec.ofNat 8 mode, BitVec.ofNat 8 (b2n holding), BitVec.ofNat 8 claim] ++ beBytes 8 device.toNat)

def execKeepaliveReceive (port : Fin 2) (dev : RingDevice) (hops : Fin 8) (mode : Fin 16) (holding : Bool) (claim : Byte) := lift fun c =>
  c.keepalive port.val dev.id.val hops.val mode.val dev.device holding claim.toNat

/-- KEEPALIVE_TIMEOUT: a member has not been heard for 100 µs. -/
def execKeepaliveTimeout (dev : Fin 8) := lift fun c =>
  let m := c.member dev.val
  if !m.present then c
  else
    ((c.reachElapsed (m.heard + 100000)).setMember dev.val { heard := m.heard }).actingGone dev.val

/-! ### Stack frames (R425) -/

/-- RUNNER_UNREACH: a frame that cannot go on. -/
def Chip.unreachable (c : Chip) (port : Nat) : Chip :=
  (c.portCount (64 + port) (0x20 + (0x98 - 0x80))).raise Ev.RUNNER_UNREACH (0x620 + port)

/-- R73: seconds of 16 bits extended to the value closest to the own time. -/
def nearSec (own lo : Nat) : Nat :=
  let d := (lo + 65536 - own % 65536) % 65536
  if d < 32768 then own + d else own + d - 65536

/-- A FRAME for this device enters the queue that its header names, with the SA handle, port of entry and sub-port of its header. Its
insertion offset marks a residence insertion, or with one_step an origin insertion (Table 08.3, DEDUCED, log entry 35). One that came sealed for a line port of this device counts
in its CNT_SEALED (R61, log entry 52). -/
def Chip.stackDeliver (c : Chip) (port : Nat) (p : Bytes) : Chip :=
  let q := beNat (slice p 0 2)
  let flags := (p.getD 2 0).toNat
  let len := beNat (slice p 6 2)
  let body := (p.drop 32).take (len - 4)
  let t := beNat (slice p 16 8)
  let ch := beNat (slice p 4 2)
  let ins := (p.getD 3 0).toNat
  if c.inMode [.standby] then c.portCount (64 + port) (0x20 + (0x89 - 0x80))
  else
    let ts : Clock := { sec := nearSec c.tim.clock.sec (t / 2 ^ 48), ns := t / 2 ^ 18 % 2 ^ 30, frac := t / 4 % 2 ^ 16 }
    let f : Frame := {
      data := body, entry := 16 + port, cls := flags % 8, colour := flags / 8 % 4, ts := ts, tsValid := bit flags 6,
      depMark := if ins = 0 || bit flags 7 then none else some (if bit flags 5 then 0xFFFF else ins),
      host := if ins ≠ 0 && bit flags 7 then some (none, 0, 2, ins) else none,
      stack := some (BitVec.ofNat 32 (beNat (slice p 8 4)), bits (p.getD 24 0).toNat 4 0, bits (p.getD 24 0).toNat 6 5),
      channel := if ch = 0xFFFF then none else some ch, progData := BitVec.ofNat 32 (beNat (slice p 12 4)), len := len, ringSealed := bit flags 5, kid := some 30 }
    let (n, c) := c.addFrame f
    let c := c.enqueue n q .queued
    c.onFrame n fun f c => c.when (f.ringSealed && f.queue.isSome && isLine f.outPort) fun c =>
      c.portCount (schedOf f.outPort f.outSub) 4

/-- A stack frame goes on to the next device. A FRAME for which the link there is down is dropped as unreachable (DESIGN CHOICE, log
entry 35). -/
def Chip.stackForward (c : Chip) (port : Nat) (head p : Bytes) : Chip :=
  let hops := (head.getD 1 0).toNat
  let kind := (head.getD 0 0).toNat % 16
  let dest := (head.getD 3 0).toNat
  if kind ≠ 0 then
    if hops = 0 then c
    else c.linkSend (1 - port) kind (stackClear kind (hops - 1) (head.getD 2 0).toNat dest) p
  else if hops = 0 || !(c.member dest).present || !c.prs.linkUp.contains (1 - port) then c.unreachable port
  else c.linkSend (1 - port) 0 (stackClear 0 (hops - 1) (head.getD 2 0).toNat dest) p

/-- The result of a STACK_RELAY: the master's order ends with the member's status, detail, index and ret. -/
def Chip.relayResult (c : Chip) (r : Bytes) : Chip :=
  let status := (r.getD 8 0).toNat
  let index := leNat (slice r 10 2)
  let detail := leNat (slice r 16 4)
  let ret := leNat (slice r 20 12)
  let c := c.modPrs fun p => { p with relayTo := none }
  if status ≠ 0 && c.ord.busy && c.ord.entry = 0 && c.ord.callReg.isNone then
    (c.modOrd fun o => { o with wait := .none }).blockDone status detail index ret
  else c.finishOrder { status := status, detail := detail, ret := some ret }

/-- A stack frame of a kind other than FRAME reaches this device. -/
def Chip.stackControl (c : Chip) (kind src : Nat) (body : Bytes) : Chip :=
  match kind with
  | 1 => (c.modPrs fun p => { p with
      actingOther := if src = 0 then p.actingOther else some (min src (p.actingOther.getD src)) }).masterIsHeard src
  | 3 =>
    let sev := leNat (slice body 0 8) / 8 % 8
    if c.isMaster && c.getF F.PRS_STACK_CFG_relay_sev [] ≤ sev then
      c.raise Ev.STACK_EVENT (0x610 + src) [(body.length, leNat body)]
    else c
  | 5 =>
    match c.prs.relayTo with
    | some (d, _) => if d = src && c.ord.wait = .relay then c.relayResult body else c
    | none => c
  | _ => c

/-- STACK_FRAME_RECEIVE: a frame of a Runner link is delivered, passed on, or both when it is for all. -/
def Chip.stackReceive (c : Chip) (port : Nat) (frame : Bytes) : Chip :=
  match c.linkOpen port frame with
  | (none, c) => c
  | (some (head, p), c) =>
    let kind := (head.getD 0 0).toNat % 16
    let src := (head.getD 2 0).toNat
    let dest := (head.getD 3 0).toNat
    if (head.getD 0 0).toNat / 16 ≠ 1 || src = c.prs.straps then c
    else if dest = c.prs.straps then if kind = 0 then c.stackDeliver port p else c.stackControl kind src (p.drop 32)
    else if dest = 0xFF then (c.stackControl kind src (p.drop 32)).stackForward port head p
    else c.stackForward port head p

def execStackFrameReceive (port : Fin 2) (frame : Bytes) := lift fun c => c.stackReceive port.val frame

/-! ### The master (R426 to R429) -/

/-- MASTER_LOST: the master has been silent for 100 µs: holdover. -/
def execMasterLost := lift fun c =>
  if !c.running || c.isMaster || c.prs.masterLost then c
  else
    let c := c.reachElapsed (c.prs.masterHeard + 100000)
    let c := (c.modPrs fun p => { p with masterLost := true }).raise Ev.MASTER_LOST 0x602
    c.when (c.getF F.TIM_REF_CFG_src [] = 2) Chip.refLost

/-- MASTER_FOUND: the master's time words return. -/
def execMasterFound := lift fun c =>
  if !c.prs.masterLost then c
  else (c.modPrs fun p => { p with masterLost := false, masterHeard := c.now }).raise Ev.MASTER_FOUND 0x602

/-- PAIR_KEY_SET and STACK_KEY_SET: a DERIVE slot is staged as a link key. -/
def linkKeySet (h : Word) (pair : Bool) : OrdFn := inModes [.provision, .maintenance] fun c =>
  let r := c.staged.checkKey h
  if r ≠ 0 then ordFail r c
  else if (c.staged.slot (slotOf h)).type ≠ 2 then ordFail 0x43 c
  else c.stage (if pair then .pairKey h else .stackKey h)

def execPairKeySet (handle : Word) := lift fun c => c.runOrder 0x0901 (w4 handle) (linkKeySet handle true)

def execStackKeySet (handle : Word) := lift fun c => c.runOrder 0x0902 (w4 handle) (linkKeySet handle false)

/-- PROMOTE. -/
def promote : OrdFn := inModes [.maintenance] fun c =>
  if !c.prs.masterLost then ordFail 0x97 c
  else ((c.modPrs fun p => { p with acting := true, masterLost := false }).raise Ev.PROMOTED 0x602, some {})

def execPromote := lift fun c => c.runOrder 0x0903 [] promote

/-- STACK_RELAY: the list goes to the member in RELAY frames, and the order waits for its result. -/
def stackRelay (device : Nat) (paramsAt : DWord) (len : Nat) (params : Option Bytes) : OrdFn :=
  inModes [.provision, .active, .maintenance] fun c =>
    if 8 ≤ device || 12288 < len then ordFail 0x53 c
    else if c.prs.masterLost then ordFail 0x94 c
    else if !c.isMaster then ordFail 0x95 c
    else if device = c.prs.straps || !(c.member device).present then ordFail 0x96 c
    else
      c |> hostRead fun c => match params with
      | none => ordFail 0x99 (c.dmaReadFailed paramsAt.toNat)
      | some b =>
        let c := c.stackTo 5 device (slice b 0 len)
        let c := c.modPrs fun p => { p with relayTo := some (device, c.now) }
        (c.modOrd fun o => { o with wait := .relay }, none)

def execStackRelay (device : Word) (paramsAt : DWord) (len : Word) (params : Option Bytes) := lift fun c =>
  c.runOrder 0x0904 (w4 device ++ pad4 ++ w8 paramsAt ++ w4 len) (stackRelay device.toNat paramsAt len.toNat params)

/-- RELAY_TIMEOUT: no result within 100 ms. -/
def execRelayTimeout := lift fun c =>
  match c.prs.relayTo with
  | some (_, t) =>
    if c.ord.wait = .relay then
      ((c.reachElapsed (t + 100000000)).modPrs fun p => { p with relayTo := none }).finishOrder (.of 0x96)
    else c
  | none => c

end Sys2Proof.Machine
end

