-- ==== Sys2Proof/Machine/Stats.lean ====
section
/-! DEFINITION. Chapter 19, the statistics: the counter window, dumps, and lost counters. -/
namespace Sys2Proof.Machine

/-- The counters of a space. -/
def spaceSize (space : Bool) : Nat := if space then 0x40000 else 0x80000

/-- R490: a counter as the window and dumps see it; one that no table names reads as 0. -/
def Chip.cntRead (c : Chip) (space : Bool) (i : Nat) : DWord := if cntNamed space i then c.cntGet space i else 0

/-- R490, R492: a counter is stored to by software, and its lost mark clears. -/
def Chip.cntStore (c : Chip) (space : Bool) (i : Nat) (v : DWord) : Chip :=
  if cntNamed space i then (c.cntSet space i v).setLost space i false else c

/-- R490: the command that a write of CNT_SEL starts: wr stores CNT_DATA, else a snapshot is taken, cleared with rc. -/
def Chip.cntSelect (c : Chip) : Chip :=
  let space := c.getB F.CNT_SEL_space []
  let i := c.getF F.CNT_SEL_index []
  if c.getB F.CNT_SEL_wr [] then
    c.cntStore space i (BitVec.ofNat 64 (c.getF F.CNT_DATA_HI_data [] * 2 ^ 32 + c.getF F.CNT_DATA_LO_data []))
  else
    let v := (c.cntRead space i).toNat
    let c := (c.setF F.CNT_DATA_LO_data [] v).setF F.CNT_DATA_HI_data [] (v / 2 ^ 32)
    let c := c.setF F.CNT_SEL_lost [] (b2n (cntNamed space i && c.cntLost space i))
    if c.getB F.CNT_SEL_rc [] then c.cntStore space i 0 else c

/-- CNT_DUMP (R491): in LOCKDOWN it fails, since R370 lists the orders accepted there (DESIGN CHOICE, log entry 67). -/
def cntDump (space first count flags : Nat) (out : DWord) : OrdFn := inModes (infoModes.erase .lockdown) fun c =>
  if 1 < space || 1 < flags || count = 0 || 65536 < count || spaceSize (space = 1) < first + count then ordFail 0x53 c
  else
    let sp := space = 1
    let l := (List.range count).map (first + ·)
    let lost := l.filter fun i => cntNamed sp i && c.cntLost sp i
    let data := l.flatMap fun i => leBytes 8 (c.cntRead sp i).toNat
    let c := c.when (flags = 1) fun c => c.each l fun c i => c.cntStore sp i 0
    (c.hostOut out.toNat data, some { status := 0, detail := lost.length, ret := lost.head? })

def execCntDump (space first count flags : Word) (out : DWord) := lift fun c =>
  c.runOrder 0x0C02 (w4 space ++ w4 first ++ w4 count ++ w4 flags ++ w8 out) (cntDump space.toNat first.toNat count.toNat flags.toNat out)

/-- COUNTER_ECC_ERROR: an uncorrectable error (R492). -/
def Chip.cntEcc (c : Chip) (space : Bool) (i : Nat) : Chip :=
  if !c.running || !cntNamed space i then c
  else
    let c := (c.cntSet space i 0).setLost space i true
    let c := (c.setF F.CNT_STAT_lost [] 1).setF F.CNT_LOST_IDX_index [] i
    (c.setF F.CNT_LOST_IDX_space [] (b2n space)).raise Ev.CNT_LOST 0x007 [(4, b2n space), (4, i)]

/-- A corrected error is written back and counted. -/
def execCounterEccError (space : Bool) (error : CounterError) := lift fun c =>
  if error.corrected then if c.running then c.bump F.CNT_ECC_CNT_count [] else c
  else c.cntEcc space error.index.toNat

end Sys2Proof.Machine
end

