-- ==== Sys2Proof/Machine/Flags.lean ====
section
/-! DEFINITION. The status words: what a register shows of the block's state, and what a read of an offset of the normal
window returns (R504, Table 00.4, and the RO fields of the field tables). -/
namespace Sys2Proof.Machine

/-! ### Fields that show the block's state, as (low bit, value) -/

/-- The whole seconds left until an instant; a part of a second counts as one. -/
def Chip.secondsLeft (c : Chip) (ends : Option Nat) : Nat :=
  match ends with
  | some t => (t - c.now + 999999999) / 1000000000
  | none => 0

/-- A number with the bits of the indices below `n` that satisfy a test. -/
def bitsOf (n : Nat) (p : Nat → Bool) : Nat := ((List.range n).map fun i => b2n (p i) * 2 ^ i).foldl (· + ·) 0

/-- SYS and MOD. -/
def Chip.liveSys (c : Chip) (r : RegId) : List (Nat × Nat) :=
  let k := c.ctl
  match r with
  | .SYS_ID => [(24, b2n Config.gradeE)]
  | .SYS_STAT => [(0, b2n !c.shadow.isEmpty)]
  | .SYS_BOOT_STAT => [(18, b2n (c.ahead c.su.presenceEnds))]
  | .MOD_STAT => [(0, modeCode k.mode), (4, k.power), (6, k.dbg), (8, b2n k.d3Taint), (9, b2n (c.ahead (k.auth.map (·.ends)))),
      (10, b2n c.pinValid), (11, b2n k.tkDis), (12, b2n (k.mode = .drain)),
      (13, (k.drainTo.map modeCode).getD 0)]
  | .MOD_AUTH_STAT => [(0, c.secondsLeft (k.auth.map (·.ends))), (6, c.secondsLeft k.pinOk), (13, min 15 k.fails),
      (17, b2n (c.ahead k.blocked))]
  | _ => []

/-- FLT, TMP and CRF. The measured battery voltage is open (log entry 3). -/
def Chip.liveFault (c : Chip) (r : RegId) (idx : List Nat) : List (Nat × Nat) :=
  let i := idx.headD 0
  let x := c.target 9
  match r with
  | .FLT_CLASS_STAT => [(0, b2n (c.faultClass i).current.isSome), (1, (c.faultClass i).waiting.length),
      (8, min 255 (c.retiredChannels i).length)]
  | .TMP_STICKY => [(0, c.flt.flags.toNat)]
  | .TMP_CAUSE => [(0, c.flt.cause)]
  | .TMP_VBAT => [(0, Config.freeNat c.free)]
  | .TMP_VIGIL => [(0, b2n x.bank), (1, b2n !c.eng.vigilCrcBad), (2, b2n x.active.isNone),
      (16, min 0xFFFF (SMap.get (fun _ => (0 : Word)) c.eng.note 0).toNat)]
  | .TMP_NOTE => [(0, (SMap.get (fun _ => (0 : Word)) c.eng.note i).toNat)]
  | .CRF_STAT => [(0, bitsOf 7 c.filt), (7, b2n c.pnl.pin.isSome), (8, b2n (c.ahead c.pnl.enrolEnds))]
  | .CRF_IN_STAT => [(0, bitsOf 7 fun n => (c.panelIn n).stuck), (8, bitsOf 7 c.chattering)]
  | .CRF_PIN_STAT => [(0, c.lockSettle.pnl.fails), (3, c.secondsLeft c.pnl.lockEnds), (13, min 15 c.pnl.entry.length)]
  | .CRF_FILL_STAT =>
    [(0, if c.pnl.answering.isSome then 4 else if c.pnl.session then 2 else b2n (c.filt 6)),
      (3, b2n c.heldBlob.isSome), (4, b2n ((c.heldBlob.map (·.clear)).getD false)),
      (5, c.secondsLeft (c.heldBlob.map (·.ends)))]
  | _ => []

/-- EVR, TIM and ENT. -/
def Chip.liveTime (c : Chip) (r : RegId) (idx : List Nat) : List (Nat × Nat) :=
  let waits := fun (k : Nat) => min 255 (c.ent.waiting.filter (·.cls = k)).length
  match r with
  | .EVR_STAT => [(2, b2n (c.getB F.EVR_DRAIN_CFG_en [] && c.ringEn 56))]
  | .EVR_WR => [(0, c.evr.wr)]
  | .EVR_OLDEST => [(0, c.evr.oldest)]
  | .EVR_DRAIN_SEQ_LO => [(0, c.evr.drainSeq)]
  | .EVR_DRAIN_SEQ_HI => [(0, c.evr.drainSeq / 2 ^ 32)]
  | .TIM_EPOCH_LO => [(0, c.tim.epoch)]
  | .TIM_EPOCH_HI => [(0, c.tim.epoch / 2 ^ 32)]
  | .TIM_ELAPSED_LO => [(0, c.now)]
  | .TIM_ELAPSED_HI => [(0, c.now / 2 ^ 32)]
  | .ENT_SRC_STAT => [(0, c.srcState (idx.headD 0))]
  | .ENT_CALLS => [(0, c.ent.calls)]
  | .ENT_WAIT => [(0, waits 1), (8, waits 2), (16, waits 3), (24, waits 4)]
  | .ENT_RAW_DATA => [(0, (c.ent.raw.headD 0).toNat)]
  | _ => []

/-- VLT, ORD and KSQ. -/
def Chip.liveVault (c : Chip) (r : RegId) (idx : List Nat) : List (Nat × Nat) :=
  let v := c.vlt
  let imgId := fun (t : Nat) => match (c.target t).active with
    | some i => i.id.toNat
    | none => 0
  let waiting := fun (t : Nat) => (c.target t).pending.isSome && !(c.target t).oldBusy
  match r with
  | .VLT_STAT => [(0, b2n v.rootReady), (1, b2n c.activeSeal.isSome), (2, b2n v.sealSel), (3, b2n v.rotStaged),
      (4, b2n v.storePending), (5, b2n (v.storeV = 0xFFFFFFFF)), (6, b2n v.walkBusy)]
  | .VLT_STORE_VER => [(0, v.storeV)]
  | .VLT_OWNER => [(0, c.activeOwner.getD 31), (5, c.ownersUsed), (10, b2n (c.ownersUsed = 16))]
  | .VLT_SLOTS => [(0, c.validSlots)]
  | .VLT_WALK => [(0, v.lastPasses), (4, v.lastRevoked)]
  | .VLT_DEVID_LO => [(0, Config.deviceId.toNat)]
  | .VLT_DEVID_HI => [(0, Config.deviceId.toNat / 2 ^ 32)]
  | .ORD_STAT => [(0, b2n c.ord.busy), (1, b2n c.ord.owait.isSome), (2, c.ord.ring), (10, b2n (c.target 8).active.isSome)]
  | .ORD_IMG => [(0, imgId 8)]
  | .KSQ_STAT => [(0, b2n (c.ectxAt 1024).running), (1, b2n c.prs.jobOn),
      (3, bitsOf 4 fun s => waiting (4 + s))]
  | .KSQ_IMG => [(0, imgId (4 + idx.headD 0))]
  | _ => []

/-- LAD and PAN; the driver reads a halted thread's PC and registers (R352). -/
def Chip.liveEngines (c : Chip) (r : RegId) (idx : List Nat) : List (Nat × Nat) :=
  let q := idx.headD 0
  let t := c.target q
  let x := c.ectxAt ((c.dbgThread q).1 * 4 + (c.dbgThread q).2)
  let reg := if x.halted then (gOf x.g (c.getF F.LAD_DBG_REG_SEL_reg [q])).toNat else 0
  match r with
  | .LAD_Q_STAT => [(0, b2n t.active.isSome), (1, b2n t.bank), (2, b2n (t.pending.isSome && !t.oldBusy)), (3, b2n t.oldBusy),
      (4, b2n (match t.active with | some (i : Image) => i.large | none => false))]
  | .LAD_IMG => [(0, (match t.active with | some (i : Image) => i.id.toNat | none => 0))]
  | .LAD_IMG_INFO => [(0, (match t.active with | some (i : Image) => i.budget | none => 0))]
  | .LAD_DBG_CTL => [(11, b2n x.halted)]
  | .LAD_DBG_PC => [(0, if x.halted then x.pc else 0)]
  | .LAD_DBG_REG_LO => [(0, reg)]
  | .LAD_DBG_REG_HI => [(0, reg / 2 ^ 32)]
  | .LAD_STAT => [(1, bitsOf 4 fun k => (c.ectxAt ((q * 64 + idx.getD 1 0) * 4 + k)).running)]
  | .PAN_STAT => if c.pan.stopped && c.panState q ≠ 3 then [(0, 4)] else []
  | _ => []

/-- SAX, SLU, FWD and MEM. -/
def Chip.liveTables (c : Chip) (r : RegId) : List (Nat × Nat) :=
  let kids := fun (i n : Nat) => ((List.range n).map fun k => c.kidState (i + k) * 8 ^ k).foldl (· + ·) 0
  match r with
  | .SAX_SCHED_PEND => [(0, c.schedules)]
  | .SLU_BUF_STAT => [(0, (c.odUsed + 0xFFFF) / 0x10000), (16, (c.hbmUsed + 0xFFFFF) / 0x100000)]
  | .FWD_STAT => [(5, b2n c.fwd.special.isSome)]
  | .FWD_LRN_STAT => [(0, c.fwd.learns.length), (13, b2n c.fwd.special.isSome)]
  | .MEM_KSTAT_LO => [(0, kids 0 10)]
  | .MEM_KSTAT_HI => [(0, kids 10 10)]
  | .MEM_KSTAT_2 => [(0, kids 20 10)]
  | .MEM_KSTAT_3 => [(0, kids 30 2)]
  | .MEM_PMAP => [(0, c.buf.poison.length)]
  | _ => []

/-- PRS, LNK and HIF. -/
def Chip.livePair (c : Chip) (r : RegId) (idx : List Nat) : List (Nat × Nat) :=
  let p := c.prs
  let i := idx.headD 0
  let m := c.member i
  let revert := p.deferSince.map fun t => t + c.getF F.PRS_PAIR_CFG_revert_hold [] * 1000000000
  match r with
  | .PRS_STAT => [(0, p.link), (3, b2n p.peerPresent), (5, b2n c.deferring), (8, b2n p.masterLost), (9, b2n p.acting)]
  | .PRS_CLAIM => [(0, c.ownClaim), (8, c.publishedClaim), (16, p.peerClaim), (24, p.peerSrc)]
  | .PRS_HEALTH => [(0, c.condBits), (12, p.grade)]
  | .PRS_REVERT => [(0, if c.deferring then c.secondsLeft revert else 0)]
  | .PRS_STACK_STAT => [(0, c.masterId), (3, b2n (!p.masterLost && p.masterHeard ≠ 0)), (4, bitsOf 8 fun d => (c.member d).present),
      (12, b2n (p.linkUp.contains 0)), (13, b2n (p.linkUp.contains 1))]
  | .PRS_STRAP => [(0, p.straps), (3, b2n p.pairRole)]
  | .PRS_MEMBER => [(0, m.mode), (4, b2n m.holding), (5, m.claim), (13, c.hopsShown i 0), (16, c.hopsShown i 1), (19, b2n m.present)]
  | .LNK_LINK_STAT => [(16, c.linkLanes i)]
  | .SRD_TX_FFE => match SMap.get (fun _ => none) c.srd.trained i with
    | some t => [(0, t)]
    | none => []
  | .SRD_PRBS_CFG =>
    [(13, if c.selfTest i then 1
      else if c.getB F.SRD_PRBS_CFG_chk [i] then Config.measured c.free (RegId.SRD_PRBS_CFG.row.offset idx) 13 else 0)]
  | .HIF_RING_PTR => [(0, (c.ring i).own.toNat)]
  | .HIF_RING_STAT => [(3, b2n (c.ringEn i && c.ringSize i ≤ c.ringUsed i))]
  | _ => []

/-- The fields, by their low bit, that show what the line brings: remote faults, corrected codewords and symbols, the eye. They
are open (log entry 29). -/
def measuredFields (r : RegId) : List Nat :=
  match r with
  | .PRT_LINK_STAT | .LNK_LINK_STAT => [8]
  | .PRT_FEC_CORR | .LNK_FEC_CORR | .SRD_SYM_ERR => [0]
  | .SRD_LANE_STAT => [16]
  | _ => []

/-- The fields of a register that show the block's state, as (low bit, value). -/
def Chip.live (c : Chip) (r : RegId) (idx : List Nat) : List (Nat × Nat) :=
  ((measuredFields r).map fun lo => (lo, Config.measured c.free (r.row.offset idx) lo)) ++
  if RegId.allSYS.contains r || RegId.allMOD.contains r then c.liveSys r
  else if RegId.allFLT.contains r || RegId.allTMP.contains r || RegId.allCRF.contains r then c.liveFault r idx
  else if RegId.allEVR.contains r || RegId.allTIM.contains r || RegId.allENT.contains r then c.liveTime r idx
  else if RegId.allVLT.contains r || RegId.allORD.contains r || RegId.allKSQ.contains r then c.liveVault r idx
  else if RegId.allLAD.contains r || RegId.allPAN.contains r then c.liveEngines r idx
  else if RegId.allPRS.contains r || RegId.allSRD.contains r || RegId.allHIF.contains r then c.livePair r idx
  else c.liveTables r

/-! ### Register values -/

/-- The value that the driver sees in a field of a register at an offset (R510, Table 00.4). -/
def Chip.fieldShown (c : Chip) (live : List (Nat × Nat)) (off : Nat) (f : FieldRow) : Nat :=
  match live.find? (·.1 = f.lo) with
  | some (_, v) => v % 2 ^ f.w
  | none =>
    if f.acc = .wo then 0
    else match SMap.get (fun _ => none) c.shadow (fieldKey off f.lo) with
      | some (v : Word) => v.toNat
      | none => (SMap.get regReset c.regs (fieldKey off f.lo)).toNat

/-- R350: a register that is read as 0 while the debug level is D0. -/
def profiling (r : RegId) : Bool :=
  [RegId.LAD_SMP_CFG, .LAD_SMP_PTR, .LAD_QCNT_CHAIN, .LAD_QCNT_OVF, .LAD_QCNT_SEL, .LAD_QCNT, .LAD_CNT_SEL, .LAD_CNT_LO,
    .LAD_CNT_HI, .LAD_SMP_LO, .LAD_SMP_HI, .LAD_Q_CFG].contains r

/-- R352: a register that is read as 0 while the debug level is below D2. -/
def programDebug (r : RegId) : Bool :=
  [RegId.LAD_DBG_CTL, .LAD_DBG_BP, .LAD_DBG_PC, .LAD_DBG_REG_SEL, .LAD_DBG_REG_LO, .LAD_DBG_REG_HI].contains r

/-- The value of a register. -/
def Chip.regWord (c : Chip) (r : RegId) (idx : List Nat) : Nat :=
  if profiling r && c.ctl.dbg = 0 || programDebug r && c.ctl.dbg < 2 then 0
  else
    let off := r.row.offset idx
    let live := c.live r idx
    (r.row.fields.map fun f => c.fieldShown live off f * 2 ^ f.lo).foldl (· + ·) 0

/-- R485: a word of the event ring's window. -/
def Chip.evrWindow (c : Chip) (o : Nat) : Nat :=
  (c.ringWord (c.getF F.EVR_PAGE_page [] * 4096 + o / 8)).toNat / 2 ^ (o % 8 * 8) % 2 ^ 32

/-- R504: what an offset of the normal window holds; 0 where no block defines it. -/
def Chip.readAt (c : Chip) (off : Nat) : Nat :=
  if 0x38000 ≤ off && off < 0x40000 then c.evrWindow (off - 0x38000)
  else match lookupReg off with
    | some (r, idx) => c.regWord r idx
    | none => 0

/-! ### Where BAR0 answers (R500, R503, R517, Table 15.6) -/

/-- R503: a memory request that the stream's state refuses. -/
def Chip.ideRefuses (c : Chip) (off : Nat) : Bool :=
  c.getB F.HIF_IDE_CFG_required [] && c.getF F.HIF_IDE_STAT_state [] ≠ 1 && 0x30000 ≤ off % 0x1000000

/-- Table 15.6: in WAKE, BAR0 answers SYS, MOD, HIF, EVR and VLT from step 3 on; elsewhere reads give 0 and writes are
dropped. -/
def Chip.answers (c : Chip) (off : Nat) : Bool :=
  if c.inMode [.wake] then
    c.evr.started && (off < 0x40000 || (0x90000 ≤ off && off < 0xA0000))
  else c.running

/-- R517: the offset in the normal window of an offset in the BAR0 of a function other than PF0. -/
def Chip.ownerOffset (c : Chip) (fn o : Nat) : Option Nat :=
  let pairs := (List.range 96).filter fun p => c.getF F.HIF_LA_OWNER_function [p] = fn
  (pairs[o / 0x80]?).map fun p =>
    0x24000 + (if o % 0x80 < 0x40 then 64 + p else 160 + p) * 0x40 + o % 0x40

/-- R517: PF0 cannot reach the ring registers of look-aside pairs. -/
def laRingReg (off : Nat) : Bool := 0x25000 ≤ off && off < 0x28000

/-- Where a read of an offset of PF0's normal window, or of an alias of it, finds its register. -/
def Chip.pf0Read (c : Chip) (o : Nat) : Nat :=
  let off := o % 0x1000000
  if !c.answers off || laRingReg off then 0 else c.readAt off

/-- R507: what a read of BAR2 gives: the bit in [0]. It never clears an RC field. -/
def Chip.bitRead (c : Chip) (off : Nat) : Nat := c.pf0Read (off / 128 * 4) / 2 ^ (off / 4 % 32) % 2

/-- What a memory read of PF0 in BAR0 or BAR2 gives; none where it completes with Unsupported Request: of another width
or alignment than a register's (R8), outside the window, or refused by the stream's state (R503). The registers whose
read has a side effect have commands of their own. -/
def Chip.hostRead (c : Chip) (bar2 : Bool) (off bytes : Nat) : Option Nat :=
  let o := if bar2 then off / 128 * 4 else off
  if bytes ≠ 4 || off % 4 ≠ 0 || (if bar2 then 0x800000 else 0x4000000) ≤ off || c.ideRefuses o then none
  else some (if bar2 then c.bitRead off else c.pf0Read off)

end Sys2Proof.Machine
end

