-- ==== Sys2Proof/Machine/RegEffects.lean ====
section
/-! DEFINITION. Register writes: access codes, locks and reserved encodings (R8 to R12, R571), aliases (R505 to R507), what
a write starts, COMMIT and the configuration check (R510 to R515). -/
namespace Sys2Proof.Machine

/-! ### Locks and reserved encodings -/

/-- The enable bit of a sub-port, in force. -/
def Chip.enBit (c : Chip) (p b : Nat) : Bool := bit (c.getF F.PRT_LINK_CFG_en [p]) b

/-- The scheduler port to which entry `i` of an Ethernet port's gate banks belongs. -/
def Chip.gclOwner (c : Chip) (p i : Nat) : Nat := 4 * p + i / (256 / c.subPorts p)

/-- R571: a field's lock is closed against a driver's write. -/
def Chip.locked (c : Chip) (l : Lock) (idx : List Nat) : Bool :=
  let i := idx.headD 0
  match l with
  | .open => false
  | .provMaint => !c.inMode [.provision, .maintenance]
  | .prov => !c.inMode [.provision]
  | .maint => !c.inMode [.maintenance]
  | .maintD1 => !c.inMode [.maintenance] || c.ctl.dbg = 0
  | .rawSrc => c.getB F.ENT_RAW_CTL_en []
  | .limitable => !Sys2Proof.Machine.limitable i
  | .freqLocked => c.getF F.TIM_REF_CFG_src [] ≠ 0 && c.refState = 2
  | .epochCfg => !c.inMode [.provision, .maintenance] || (c.getF F.TIM_REF_CFG_src [] = 2 && !c.isMaster)
  | .ringEn => c.ringEn i
  | .laPair => c.ringEn (64 + i) || c.ringEn (160 + i)
  | .dbg1 => c.ctl.dbg = 0
  | .dbg2 => c.ctl.dbg < 2
  | .standby => !c.inMode [.standby]
  | .gclBank => c.getF F.SLU_GCL_CFG_bank [c.gclOwner i (idx.getD 2 0)] = idx.getD 1 0
  | .anyEn => c.getF F.PRT_LINK_CFG_en [i] ≠ 0
  | .subEn => c.enBit i (idx.getD 1 0)
  | .subEnL => c.enBit (8 + i) (idx.getD 1 0)

/-- A signed byte. -/
def signed8 (v : Nat) : Int := if v < 128 then v else (v : Int) - 256

/-- A signed field of six bits. -/
def signed6 (v : Nat) : Int := if v % 64 < 32 then (v % 64 : Nat) else ((v % 64 : Nat) : Int) - 64

/-- Table 17.3: the least and the greatest response of an alarm source. -/
def respRange (b : Nat) : Nat × Nat :=
  if b = 0 then (4, 4) else if [4, 5, 11, 13].contains b then (3, 4) else if b = 9 then (0, 3) else (0, 4)

/-- Sub-ports that a port mode provides (Table 21.1). -/
def modeSubs (pmode : Nat) : Nat := if pmode = 1 then 2 else if pmode = 2 then 4 else 1

/-- R10: an encoding that the field table accepts. `reg` tells the two response registers apart, `lo` is the field's low
bit. -/
def Chip.legal (c : Chip) (l : Legal) (reg : RegId) (idx : List Nat) (lo v : Nat) : Bool :=
  let i := idx.headD 0
  match l with
  | .any => true
  | .range a b => a ≤ v && v ≤ b
  | .resp =>
    let r := respRange (lo / 4 + (if reg = .TMP_RESP1 then 8 else 0))
    v ≠ 1 && v ≠ 2 && r.1 ≤ v && v ≤ r.2
  | .tempRange => -30 ≤ signed8 v && signed8 v ≤ 125
  | .freqHi => (signed 40 (v * 2 ^ 32 + c.getF F.TIM_FREQ_LO_f_lo [])).natAbs ≤ freqMax
  | .perfQ => v ≤ 0x0B || (0x10 ≤ v && v ≤ 0x13)
  | .perfL => v ≤ 0x0B
  | .gclEn => v = 0 || (i < 64 && !c.ingotMode (i / 4) (i % 4))
  | .gclLen => 1 ≤ v && v ≤ 256 / modeSubs (c.getSh F.PRT_LINK_CFG_pmode [i / 4])
  | .destWord => v % 8 ≤ 4
  | .ffe => ((List.range 5).map fun k => signed6 (v / 64 ^ k)).foldl (· + ·) 0 |>.natAbs |> (· ≤ 31)
  | .fecOff => v = 0 || c.getSh F.PRT_LINK_CFG_pmode [i] = 4
  | .maxLen => 64 ≤ v && v ≤ (if i < 8 then 16000 else 16032)

/-! ### A write to a register (Tables 00.4 and 20.4) -/

/-- A plain write, or a masked write of an alias. -/
inductive WriteKind | plain | set | clr | tgl
  deriving DecidableEq, Repr

/-- The field value that a write would leave. -/
def WriteKind.value (k : WriteKind) (old v : Nat) : Nat :=
  match k with
  | .plain => v
  | .set => old ||| v
  | .clr => old - (old &&& v)
  | .tgl => old ^^^ v

/-- A key of the register file set to a value. -/
def Chip.setKey (c : Chip) (k v : Nat) : Chip := { c with regs := SMap.set regReset c.regs k (BitVec.ofNat 32 v) }

/-- The value in force at a key. -/
def Chip.inForce (c : Chip) (k : Nat) : Nat := (SMap.get regReset c.regs k).toNat

/-- What a driver sees at a key of a CFG field. -/
def Chip.shadowed (c : Chip) (k : Nat) : Nat :=
  match SMap.get (fun _ => none) c.shadow k with
  | some (v : Word) => v.toNat
  | none => c.inForce k

/-- R510: the shadow of a CFG field set; it is listed while it differs from the value in force. Its writer is kept for
the record of a rejection at COMMIT (R571). -/
def Chip.setShadow (c : Chip) (k v writer : Nat) : Chip :=
  let same := v = c.inForce k
  { c with
    shadow := SMap.set (fun _ => none) c.shadow k (if same then none else some (BitVec.ofNat 32 v))
    hif := { c.hif with writers := SMap.set (fun _ => 0) c.hif.writers k (if same then 0 else writer) } }

/-- R10, R571: a rejected encoding. -/
def Chip.cfgReject (c : Chip) (off v writer : Nat) : Chip := c.raise Ev.CFG_REJECT 0x008 [(4, off), (4, v), (4, writer)]

/-- R571: a write that a lock dropped. -/
def Chip.lockViol (c : Chip) (off v writer : Nat) : Chip := c.raise Ev.LOCK_VIOL 0x008 [(4, off), (4, v), (4, writer)]

/-- A register write in progress: the block, whether a lock has dropped a change, and the fields it has reached, as (low
bit, old value, new value). -/
structure RegWrite where
  chip : Chip
  viol : Bool := false
  acts : List (Nat × Nat × Nat) := []
  deriving Inhabited

/-- A write to an RW or RWL field. -/
def RegWrite.store (x : RegWrite) (before : Chip) (r : RegId) (idx : List Nat) (k : WriteKind) (v writer : Nat) (f : FieldRow)
    (part : Nat) : RegWrite :=
  let off := r.row.offset idx
  let key := fieldKey off f.lo
  let old := if r.row.cfg then x.chip.shadowed key else x.chip.inForce key
  let new := k.value old part
  if before.locked f.lock idx then
    if f.lock = .limitable || f.lock = .rawSrc then x
    else if f.lock = .laPair then { x with chip := x.chip.cfgReject off v writer }
    else { x with viol := x.viol || new ≠ old }
  else if !x.chip.legal f.legal r idx f.lo new then { x with chip := x.chip.cfgReject off v writer }
  else if r.row.cfg then { x with chip := x.chip.setShadow key new writer, acts := x.acts ++ [(f.lo, old, new)] }
  else { x with chip := x.chip.setKey key new, acts := x.acts ++ [(f.lo, old, new)] }

/-- R11: a command bit that stays 1 until what it asked for has happened, as its field table says: a Pan's test, the restart
of an entropy source, a gate list's takeover; the retirement of a Pan, which the table does not call self-clearing. The other commands are done in the step of the write, and their bits
read 0 after it. -/
def lasting (r : RegId) (lo : Nat) : Bool := r = .PAN_CTL || r = .ENT_CTL || (r = .SLU_GCL_CFG && lo = 2)

/-- A write reaches one field. -/
def RegWrite.field (x : RegWrite) (before : Chip) (r : RegId) (idx : List Nat) (k : WriteKind) (v writer : Nat)
    (f : FieldRow) : RegWrite :=
  let part := v / 2 ^ f.lo % 2 ^ f.w
  let key := fieldKey (r.row.offset idx) f.lo
  if k ≠ .plain && part = 0 then x
  else
    match f.acc with
    | .ro | .rc => x
    | .wo => if k = .plain then { x with chip := x.chip.setKey key part, acts := x.acts ++ [(f.lo, 0, part)] } else x
    | .w1s =>
      if !(k = .plain || k = .set) || part = 0 then x
      else if before.locked f.lock idx then { x with viol := true }
      else { x with chip := x.chip.when (lasting r f.lo) fun c => c.setKey key 1, acts := x.acts ++ [(f.lo, 0, part)] }
    | .w1c =>
      if k = .plain || k = .clr then { x with chip := x.chip.setKey key (WriteKind.clr.value (x.chip.inForce key) part) } else x
    | .rw | .rwl => x.store before r idx k v writer f part

/-- The value that a write gave the field at a low bit, when it reached the field. -/
def wrote (acts : List (Nat × Nat × Nat)) (lo : Nat) : Option (Nat × Nat) :=
  (acts.find? (·.1 = lo)).map fun a => (a.2.1, a.2.2)

/-! ### What a write of a register starts -/

/-- R518: a doorbell. One that moves the count backward, or puts the producer more than the size ahead of the consumer, is
a ring error; one of a disabled ring is ignored (Table 20.7). -/
def Chip.doorbell (c : Chip) (r n : Nat) : Chip :=
  if !c.ringEn r then c
  else
    let g := c.ring r
    let new := BitVec.ofNat 32 n
    let ahead := if partProduces r then (g.own - new).toNat else (new - g.own).toNat
    if 2 ^ 31 ≤ (new - g.drv).toNat || c.ringSize r < ahead then c.ringError r 2 else c.setRing r { g with drv := new }

/-- R522: HIF_RING_CFG.en goes from `old` to its present value: setting it zeroes both counts and starts the ring. -/
def Chip.ringEnable (c : Chip) (r old : Nat) : Chip := if old = 0 && c.ringEn r then c.setRing r {} else c

/-- R351: LAD_SMP_CFG.en goes from 0 to 1. -/
def Chip.samplingStart (c : Chip) (q : Nat) : Chip :=
  let c := (c.setF F.LAD_SMP_PTR_next [q] 0).setF F.LAD_SMP_PTR_wrapped [q] 0
  c.modEng fun e => { e with
    smpFilled := SMap.set (fun _ => false) e.smpFilled q false,
    sampleCount := SMap.set (fun _ => 0) e.sampleCount q 0, sampled := e.sampled.filter (·.ladle / 64 ≠ q) }

/-- The effects of a write that reached fields of SYS, MOD, HIF, TIM or ENT. -/
def Chip.startedCtl (c : Chip) (r : RegId) (idx : List Nat) (acts : List (Nat × Nat × Nat)) : Chip :=
  let i := idx.headD 0
  let hit := fun lo => (wrote acts lo).isSome
  match r with
  | .SYS_CTL => if wrote acts 0 = some (0, 0xB007) then c.systemReset 3 else c
  | .MOD_DBG_CTL => c.when (hit 2) fun c => c.dbgRequest (c.getF F.MOD_DBG_CTL_req []) 0
  | .HIF_RING_CFG => match wrote acts 0 with
    | some (old, _) => c.ringEnable i old
    | none => c
  | .HIF_RING_DB => match wrote acts 0 with
    | some (_, n) => c.doorbell i n
    | none => c
  | .TIM_CTL =>
    let c := c.when (hit 1) Chip.stepAll
    let c := c.when (hit 0) Chip.timeCapture
    let c := match wrote acts 2 with
      | some (old, _) => c.holdChange (old ≠ 0)
      | none => c
    c.when (hit 3) Chip.slewCancel
  | .TIM_FREQ_HI => c.when (hit 0) Chip.freqApply
  | .TIM_ADJ_HI => match wrote acts 0 with
    | some (_, v) => c.slewFromRegs v
    | none => c
  | .ENT_CTL => (c.when (hit 0) fun c => c.sourceStop 0).when (hit 1) fun c => c.sourceStop 1
  | _ => c

/-- The effects of a write that reached fields of the other blocks. -/
def Chip.startedBlock (c : Chip) (r : RegId) (idx : List Nat) (acts : List (Nat × Nat × Nat)) (writer : Nat) : Chip :=
  let i := idx.headD 0
  let hit := fun lo => (wrote acts lo).isSome
  match r with
  | .LAD_SMP_CFG => c.when (wrote acts 0 = some (0, 1)) fun c => c.samplingStart i
  | .LAD_DBG_CTL => ((c.when (hit 8) fun c => c.dbgHalt i).when (hit 9) fun c => c.dbgStep i).when (hit 10) fun c => c.dbgResume i
  | .PAN_CTL =>
    let c := c.when (hit 0) fun c =>
      let c := c.panTest i
      c.when (c.panState i ≠ 2) fun c => c.setF F.PAN_CTL_kat [i] 0
    c.when (hit 1) fun c => c.panRetire i
  | .SAX_SA_SEL => match wrote acts 0 with
    | some (_, v) => c.saSnapshot v
    | none => c
  | .SLU_IND_CMD => (c.when (hit 0) Chip.sluRead).when (hit 1) fun c => c.sluWrite writer
  | .SLU_GCL_CFG => c.when (hit 2) fun c => c.modSlu fun u => { u with swapAsked := u.swapAsked.filter (· ≠ i) ++ [i] }
  | .FWD_IND_CMD => c.when (hit 0) Chip.fwdIndRead
  | .PRS_CTL => c.when (hit 1) Chip.pairResync
  | .CNT_SEL => if acts.isEmpty then c else c.cntSelect
  | .SRD_LANE_CTL => (c.laneTest i).when (hit 3) fun c => c.retrain i
  | .SRD_PRBS_CFG => (c.when (hit 5) fun c => c.inject i 1).when (hit 6) fun c => c.inject i (c.getF F.SRD_PRBS_CFG_burst_len [i])
  | _ => c

/-! ### COMMIT (R511, R512) -/

/-- Every CFG register: a row, with the offset of each of its elements. -/
def cfgRegs : List (Nat × RegId) :=
  ((RegId.all.filter fun r => r.row.cfg).flatMap fun r => (expandDims r.row.dims).map fun o => (r.row.base + o, r)).mergeSort
    fun a b => a.1 ≤ b.1

/-- A constraint between fields (R512): its fields' keys, and whether values satisfy it. -/
structure Constraint where
  keys : List Nat
  holds : (Nat → Nat) → Bool

/-- The constraints that the field tables and block chapters state: R170, R443, R243, Table 21.5 with R534 (fec_off = 1 is
a reserved encoding outside mode 4), R236 (the length of a gate list against the entries of its sub-port), R235 (no gate
list on an ingot port), and R33. -/
def constraints : List Constraint :=
  let two := fun (a b : Fld) (p : Nat → Nat → Bool) =>
    ({ keys := [a.key [], b.key []], holds := fun v => p (v (a.key [])) (v (b.key [])) } : Constraint)
  let subs : List (Nat × Nat) := (List.range 16).flatMap fun p => (List.range 4).map fun b => (p, b)
  let en := fun p => F.PRT_LINK_CFG_en.key [p]
  let pmode := fun p => F.PRT_LINK_CFG_pmode.key [p]
  let fecOff := fun p => F.PRT_LINK_CFG_fec_off.key [p]
  let pool := fun (x : Nat × Nat) => F.PRT_SUB_CFG_pool.key [x.1, x.2]
  [two F.SAX_REKEY_CFG_w F.TIM_EPOCH_CFG_len (fun w l => 4 * w ≤ 1000 * l),
    two F.TMP_TEMP_CFG_lo F.TMP_TEMP_CFG_hi (fun lo hi => signed8 lo < signed8 hi - 10),
    two F.SLU_SMP_LEN_len F.SLU_SMP_CFG_period (fun len period => len ≤ 2 * period)] ++
  ((List.range 16).map fun p => { keys := [en p, pmode p], holds := fun v => v (en p) < 2 ^ modeSubs (v (pmode p)) }) ++
  ((List.range 16).map fun p => { keys := [fecOff p, pmode p], holds := fun v => v (fecOff p) = 0 || v (pmode p) = 4 }) ++
  (subs.map fun x =>
    let len := F.SLU_GCL_CFG_len.key [x.1 * 4 + x.2]
    { keys := [len, pmode x.1], holds := fun v => v len ≤ 256 / modeSubs (v (pmode x.1)) }) ++
  ((subs.filter fun x => isLine x.1).map fun x =>
    let on := F.SLU_GCL_CFG_en.key [x.1 * 4 + x.2]
    let mode := F.PRT_FRM_CFG_mode.key [x.1 - 8, x.2]
    { keys := [on, mode], holds := fun v => v on = 0 || v mode ≠ 1 }) ++
  ((List.range 3).map fun i => { keys := [F.LNK_LINK_CFG_en.key [i]], holds := fun v => v (F.LNK_LINK_CFG_en.key [i]) < 2 }) ++
  [{ keys := (List.range 16).map en ++ subs.map pool,
     holds := fun v => ((subs.filter fun x => x.2 < modeSubs (v (pmode x.1)) && bit (v (en x.1)) x.2).map fun x => v (pool x)).foldl
       (· + ·) 0 ≤ 512 }]

/-- The keys that constraints reject among the shadows captured: the changed fields of each failing constraint, until every
constraint holds. -/
def Chip.rejects (c : Chip) (out : List Nat) : Nat → List Nat
  | 0 => out
  | n + 1 =>
    let val := fun (k : Nat) => if out.contains k then c.inForce k else c.shadowed k
    let bad := (constraints.filter fun x => !x.holds val).flatMap (·.keys)
    let new := (bad.filter fun k => val k ≠ c.inForce k && !out.contains k).eraseDups
    if new.isEmpty then out else c.rejects (out ++ new) n

/-- The word of a register as its shadows stand. -/
def Chip.shadowWord (c : Chip) (off : Nat) : Nat :=
  match lookupReg off with
  | none => 0
  | some (r, _) =>
    ((r.row.fields.filter fun f => f.acc ≠ .wo).map fun f => c.shadowed (fieldKey off f.lo) * 2 ^ f.lo).foldl (· + ·) 0

/-- What follows from values that a COMMIT has put in force, `old` being the block before it: sub-ports disabled go down,
the drain, the reference, the epoch and gate lists follow their configuration. -/
def Chip.commitEffects (c old : Chip) : Chip :=
  let off := fun (f : Fld) (i b : Nat) => bit (old.getF f [i]) b && !bit (c.getF f [i]) b
  let subs : List (Nat × Nat) := (List.range 16).flatMap fun p => (List.range 4).map fun b => (p, b)
  let c := c.each (subs.filter fun x => off F.PRT_LINK_CFG_en x.1 x.2) fun c x => c.portDownOpen x.1 x.2
  let c := c.each ((List.range 3).filter fun i => off F.LNK_LINK_CFG_en i 0) fun c i =>
    let (n, c) := c.draw
    c.portGoesDown (16 + i) 0 (1 + Config.freeNat n % (2 ^ 32 - 1)) 0
  let c := c.when (!old.getB F.EVR_DRAIN_CFG_en [] && c.getB F.EVR_DRAIN_CFG_en []) Chip.drainStart
  let c := c.srcChange (old.getF F.TIM_REF_CFG_src [])
  let c := c.when (old.epochOrg ≠ c.epochOrg || old.epochLen ≠ c.epochLen) fun c => c.judgeEpoch.jumped c
  let c := c.each c.slu.swapAsked Chip.gclInstall
  let c := (c.modSlu fun u => { u with swapAsked := [] }).each (c.slu.lists.map (·.1)) fun c s =>
    c.setF F.SLU_GCL_STAT_running [s] (b2n (c.gateList s).isSome)
  let c := c.each ((c.slu.lists.map (·.1)).filter fun s => !old.getB F.SLU_GCL_CFG_en [s] && c.getB F.SLU_GCL_CFG_en [s])
    Chip.oversizeHeads
  let c := c.sampleCommit.modSlu fun u => { u with
    sampling := u.sampling && old.getB F.SLU_SMP_CFG_en [] && c.getB F.SLU_SMP_CFG_en [] }
  let c := c.when (!old.getB F.FWD_AGE_CFG_en [] && c.getB F.FWD_AGE_CFG_en []) Chip.rakeResume
  c.flushOwed.trackDefer

/-- R511, R512: SYS_COMMIT.go: the captured shadows come into force or are rejected; the check at its end follows in
CFG_CRC_SWEEP. -/
def Chip.cfgCommit (c : Chip) : Chip :=
  let old := c
  let out := c.rejects [] 64
  let words := out.map fun k => (k / 32, c.shadowWord (k / 32), SMap.get (fun _ => 0) c.hif.writers k)
  let taken := c.shadow.filter fun p => !out.contains p.1
  let c := taken.foldl (fun c p => match p.2 with
    | some (v : Word) => c.setKey p.1 v.toNat
    | none => c) c
  let c : Chip := { c with shadow := [] }
  let c := c.modHif fun h => { h with rejecting := !out.isEmpty, cfgRef := none, writers := [] }
  let c := c.each words fun c x => c.cfgReject x.1 x.2.1 x.2.2
  let c := (c.setF F.SYS_COMMIT_busy [] 1).sluCommit
  c.commitEffects old

/-- A write of SYS_COMMIT.go. One during a COMMIT is dropped. -/
def Chip.commitGo (c : Chip) (v writer : Nat) : Chip :=
  if c.getB F.SYS_COMMIT_busy [] then c.lockViol 0x10 v writer else c.cfgCommit

/-! ### The configuration check (R513 to R515) -/

/-- The part of a CFG register that the CRC covers, at its values in force. -/
def Chip.crcWord (c : Chip) (x : Nat × RegId) : Nat :=
  ((x.2.row.fields.filter fun f => f.acc = .rw || f.acc = .rwl).map fun f => c.inForce (fieldKey x.1 f.lo) * 2 ^ f.lo).foldl
    (· + ·) 0

/-- CRC-32C over CFG registers, those of PRS left out for the pair's value. -/
def Chip.cfgCrc (c : Chip) (pair : Bool) : Nat :=
  let l := cfgRegs.filter fun x => !(pair && RegId.allPRS.contains x.2)
  (crc32c (l.flatMap fun x => leBytes 4 (c.crcWord x))).toNat

/-- R514: a sweep's result is compared with the reference. -/
def Chip.sweepJudge (c : Chip) (crc : Nat) (afterCommit : Bool) : Chip :=
  let ref := match c.hif.cfgRef with
    | some (r : Word) => r.toNat
    | none => c.getF F.SYS_CFG_REF_ref []
  if crc = ref then c.modHif fun h => { h with sweepMatched := true }
  else
    let first := c.hif.sweepMatched || afterCommit
    let c := (c.modHif fun h => { h with sweepMatched := false }).bump F.SYS_DRIFT_CNT_count []
    let c := c.setF F.SYS_STAT_drift [] 1
    if first then
      let c := c.raise Ev.CFG_DRIFT 0x008
      (c.respond (if c.getB F.SYS_CFG_CHK_resp [] then 3 else 0) 0x008).2
    else c

/-- CFG_CRC_SWEEP: the check at the end of a COMMIT, which ends it, or a scheduled one. None runs before the first
COMMIT. -/
def Chip.sweep (c : Chip) : Chip :=
  let busy := c.getB F.SYS_COMMIT_busy []
  if !c.running || !(busy || c.hif.firstCommit) then c
  else
    let crc := c.cfgCrc false
    let c := (c.setF F.SYS_CFG_CRC_crc [] crc).setF F.SYS_CFG_CRC_PAIR_crc [] (c.cfgCrc true)
    let rejected := busy && c.hif.rejecting
    let c := (c.setF F.SYS_COMMIT_busy [] 0).modHif fun h => { h with
      firstCommit := true, rejecting := h.rejecting && !busy, cfgRef := if rejected then some (BitVec.ofNat 32 crc) else h.cfgRef }
    let c := c.when rejected fun c => c.setF F.SYS_STAT_rejected [] 1
    c.sweepJudge crc busy

def execCfgCrcSweep := lift Chip.sweep

/-! ### Writers -/

/-- R571: a register at an offset of the normal window is written; `writer` is the posting function, or 0xFF for the order
engine. An offset that no block defines takes nothing (R504). -/
def Chip.regWrite (c : Chip) (k : WriteKind) (off v writer : Nat) : Chip :=
  match lookupReg off with
  | none => c
  | some (r, idx) =>
    let start : RegWrite := { chip := c }
    let x := r.row.fields.foldl (fun (x : RegWrite) (f : FieldRow) => x.field c r idx k v writer f) start
    let c := x.chip.when x.viol fun c => c.lockViol off v writer
    if r = .SYS_COMMIT then (if (wrote x.acts 0).isSome then c.commitGo v writer else c)
    else (c.startedCtl r idx x.acts).startedBlock r idx x.acts writer

/-- Something the part refuses on PCI Express as an Unsupported Request. -/
def Chip.unsupported (c : Chip) : Chip := c.emit .unsupported

/-- A write of PF0 to an offset of the normal window (R503, Table 15.6). -/
def Chip.pf0Write (c : Chip) (k : WriteKind) (off v : Nat) : Chip :=
  if !c.running then c
  else if off % 4 ≠ 0 || 0x1000000 ≤ off || c.ideRefuses off then c.unsupported
  else if !c.answers off || laRingReg off then c
  else c.regWrite k off v 0

/-- The kind of write of an alias. -/
def aliasKind (a : Alias) : WriteKind :=
  match a with
  | .set => .set
  | .clr => .clr
  | .tgl => .tgl

/-- The number of MSI-X vectors of a function, and the offset of its PBA (Table 20.2). -/
def msixSize (fn : Nat) : Nat := if fn = 0 then 2048 else 16

/-- Vector `v` of a function is no longer masked: one message for a signal that came meanwhile (R524). -/
def Chip.msixUnmask (c : Chip) (fn v : Nat) : Chip :=
  let k := fn * 2048 + v
  if SMap.get (fun _ => false) c.hif.pba k then
    (c.modHif fun h => { h with pba := SMap.set (fun _ => false) h.pba k false }).msixSignal fn v
  else c

/-- A word of a function's MSI-X table is written; a vector whose mask bit clears is unmasked. -/
def Chip.msixWrite (c : Chip) (fn o : Nat) (v : Word) : Chip :=
  if msixSize fn * 16 ≤ o then c
  else
    let dflt := fun (i : Nat) => if i % 4 = 3 then (1 : Word) else 0
    let key := (fn * 2048 + o / 16) * 4 + o / 4 % 4
    let old := SMap.get dflt c.hif.msixTable key
    let c := c.modHif fun h => { h with msixTable := SMap.set dflt h.msixTable key v }
    c.when (o / 4 % 4 = 3 && old.getLsbD 0 && !v.getLsbD 0) fun c => c.msixUnmask fn (o / 16)

/-- R507, R8: a write of a bit through BAR2, of `bytes` bytes. The value that a record of R571 carries for it is the bit's mask in its
register, for a set and for a clear (DESIGN CHOICE, log entry 50). -/
def Chip.bitWrite (c : Chip) (off bytes : Nat) (one : Bool) : Chip :=
  let o := off / 128 * 4
  let b := off / 4 % 32
  if !c.running then c
  else if bytes ≠ 4 || off % 4 ≠ 0 || 0x800000 ≤ off || c.ideRefuses o then c.unsupported
  else
    match lookupReg o with
    | none => c
    | some (r, _) =>
      match r.row.fields.find? fun f => f.lo ≤ b && b < f.lo + f.w with
      | none => c
      | some f =>
        if !c.answers o || laRingReg o then c
        else if f.acc = .w1c then c.when one fun c => c.regWrite .clr o (2 ^ b) 0
        else if f.acc = .w1s then c.when one fun c => c.regWrite .set o (2 ^ b) 0
        else c.regWrite (if one then .set else .clr) o (2 ^ b) 0

/-- REGISTER_WRITE: a memory write of a function to its BAR0, BAR2 or BAR4 (R8, R500, R505, R507, R517); PF0 alone has a
BAR2. -/
def Chip.hostWrite (c : Chip) (fn : Nat) (bar : Bar) (off bytes : Nat) (v : Word) : Chip :=
  if !c.running then c
  else if bytes ≠ 4 || off % 4 ≠ 0 then c.unsupported
  else
    match bar with
    | .bar4 => c.msixWrite fn off v
    | .bar2 => if fn = 0 then c.bitWrite off bytes (v.getLsbD 0) else c.unsupported
    | .bar0 =>
      if fn = 0 then
        let k := [WriteKind.plain, .set, .clr, .tgl][off / 0x1000000]?
        match k with
        | some k => c.pf0Write k (off % 0x1000000) v.toNat
        | none => c.unsupported
      else if 0x10000 ≤ off then c.unsupported
      else if !c.answers 0x20000 then c
      else match c.ownerOffset fn off with
        | some o => c.regWrite .plain o v.toNat fn
        | none => c

def execRegisterWrite (fn : Fin 66) (bar : Bar) (off : Word) (bytes : Nat) (v : Word) := lift fun c =>
  c.hostWrite fn.val bar off.toNat bytes v

def execAliasWrite (which : Alias) (off v : Word) := lift fun c => c.pf0Write (aliasKind which) off.toNat v.toNat

def execBitAliasWrite (off : Word) (v : AliasData) := lift fun c => c.bitWrite off.toNat v.bytes (v.v.getLsbD 0)

/-- A read of the raw FIFO (R193), its value given to the driver. A read of another width or alignment is refused (R8) and
takes nothing, so that it is no such read (log entry 43). -/
def execEntRawDataRead := lift fun c =>
  if c.ideRefuses 0x80020 then c.unsupported
  else Chip.answer (if c.answers 0x80020 then c.rawRead else (0, c))

/-! ### The writes that have rows of their own -/

/-- The offset of a register, for the driver's writes below. -/
def regAt (r : RegId) (idx : List Nat) : Nat := r.row.offset idx

/-- PF0 writes a register whole. -/
def Chip.put (c : Chip) (r : RegId) (idx : List Nat) (v : Nat) : Chip := c.pf0Write .plain (regAt r idx) v

/-- PF0 sets or clears bits of a register and leaves the others alone. -/
def Chip.putBits (c : Chip) (r : RegId) (idx : List Nat) (mask : Nat) (on : Bool) : Chip :=
  c.pf0Write (if on then .set else .clr) (regAt r idx) mask

def execConfigCommit := lift fun c => c.put .SYS_COMMIT [] 1
def execSysRestart (v : Word) := lift fun c => c.put .SYS_CTL [] v.toNat
def execLaOwnerWrite (pair : Fin 96) (function : BitVec 7) := lift fun c => c.put .HIF_LA_OWNER [pair.val] function.toNat
def execTimeCapture := lift fun c => c.putBits .TIM_CTL [] 1 true
def execTimeStep := lift fun c => c.putBits .TIM_CTL [] 2 true
def execTimHold (on : Bool) := lift fun c => c.putBits .TIM_CTL [] 4 on
def execSlewCancel := lift fun c => c.putBits .TIM_CTL [] 8 true
def execFreqWrite (hi : Byte) := lift fun c => c.put .TIM_FREQ_HI [] hi.toNat
def execSlewStart (hi : BitVec 16) := lift fun c => c.put .TIM_ADJ_HI [] hi.toNat
def execEntSourceRestart (src : Fin 2) := lift fun c => c.put .ENT_CTL [] (2 ^ src.val)
def execPanKatCmd (pan : Fin 24) := lift fun c => c.put .PAN_CTL [pan.val] 1
def execPanRetireCmd (pan : Fin 24) := lift fun c => c.put .PAN_CTL [pan.val] 2
def execGclSwap (port : Fin 66) := lift fun c => c.putBits .SLU_GCL_CFG [port.val] 4 true
def execSluIndRead := lift fun c => c.put .SLU_IND_CMD [] 1
def execSluIndWrite := lift fun c => c.put .SLU_IND_CMD [] 2
def execFwdIndRead := lift fun c => c.put .FWD_IND_CMD [] 1
def execSaSnapshot (index : Fin 65536) := lift fun c => c.put .SAX_SA_SEL [] index.val
def execLadDbgHalt (q : Fin 4) := lift fun c => c.putBits .LAD_DBG_CTL [q.val] 0x100 true
def execLadDbgStep (q : Fin 4) := lift fun c => c.putBits .LAD_DBG_CTL [q.val] 0x200 true
def execLadDbgResume (q : Fin 4) := lift fun c => c.putBits .LAD_DBG_CTL [q.val] 0x400 true
def execPairResync := lift fun c => c.putBits .PRS_CTL [] 2 true
def execEventDrainEnable := lift fun c => c.putBits .EVR_DRAIN_CFG [] 1 true
def execLaneRetrainCmd (lane : Fin 76) := lift fun c => c.putBits .SRD_LANE_CTL [lane.val] 8 true
def execPrbsInjectBit (lane : Fin 76) := lift fun c => c.putBits .SRD_PRBS_CFG [lane.val] 0x20 true
def execPrbsInjectBurst (lane : Fin 76) := lift fun c => c.putBits .SRD_PRBS_CFG [lane.val] 0x40 true

/-- The word of CNT_SEL that names a counter. -/
def cntSel (space : Bool) (index : Nat) : Nat := index + 2 ^ 19 * b2n space

def execCounterSnapshot (space : Bool) (index : BitVec 19) := lift fun c => c.put .CNT_SEL [] (cntSel space index.toNat)

/-- CNT_SEL.rc and CNT_SEL.wr (R490). -/
def execCounterReadClear (space : Bool) (index : BitVec 19) := lift fun c =>
  c.put .CNT_SEL [] (cntSel space index.toNat + 2 ^ 20)
def execCounterWrite (space : Bool) (index : BitVec 19) := lift fun c =>
  c.put .CNT_SEL [] (cntSel space index.toNat + 2 ^ 21)

/-- R517: a ring register is written by the ring's owner. -/
def Chip.ringWrite (c : Chip) (k : WriteKind) (r : Nat) (reg : RegId) (v : Nat) : Chip :=
  match c.ringOwner r with
  | none => c
  | some fn => if c.answers 0x20000 then c.regWrite k (regAt reg [r]) v fn else c

def execRingDoorbell (ring : Fin 256) (count : Word) := lift fun c => c.ringWrite .plain ring.val .HIF_RING_DB count.toNat
def execRingEnable (ring : Fin 256) := lift fun c => c.ringWrite .set ring.val .HIF_RING_CFG 1
def execRingDisable (ring : Fin 256) := lift fun c => c.ringWrite .clr ring.val .HIF_RING_CFG 1

end Sys2Proof.Machine
end

