-- ==== Sys2Proof/Machine/Orders.lean ====
section
/-! DEFINITION. Chapters 05, 06, 07 and 13: COMMIT, the SA and channel orders, the service of random requests, GET_RANDOM,
and the start of an order block. -/
namespace Sys2Proof.Machine

/-! ### The channel orders (R153, R154, Table 06.3) -/

/-- CH_SET: the channel holds no VALID SA, a port has one port channel of each direction, and no two receive channels of a
port have one SCI. Table 06.3 names no result for a channel that holds one: it is CHANNEL (DESIGN CHOICE, log entry 63). -/
def Chip.channelCheck (c : Chip) (ch : Nat) (x : Channel) : Nat :=
  let clash := fun (o : Channel) => o.valid && o.dir = x.dir && o.linePort = x.linePort && o.subPort = x.subPort &&
    (o.portCh && x.portCh || x.dir && !o.portCh && !x.portCh && o.sci = x.sci)
  if c.holdsSa ch || c.sax.channels.any fun p => p.1 ≠ ch && clash p.2 then 0x68 else 0

/-- CH_CLEAR: the channel holds no VALID SA; one that does gives CHANNEL (DESIGN CHOICE, log entry 63). -/
def Chip.clearCheck (c : Chip) (ch : Nat) : Nat := if c.holdsSa ch then 0x68 else 0

/-- An order is staged when its check passes against the block's staged state (R158). -/
def stageChecked (check : Chip → Nat) (e : Staged) : OrdFn := fun c =>
  let r := check c.staged
  if r ≠ 0 then ordFail r (c.when (r = 0x62) fun c => c.bump F.SAX_QUIET_REJ_CNT_count []) else c.stage e

def channelModes : List Mode := [.provision, .active]

def retireModes : List Mode := [.provision, .active, .maintenance]

/-- CH_SET. -/
def chSet (channel cfg : Word) (sci : DWord) : OrdFn := inModes channelModes fun c =>
  let v := cfg.toNat
  let ch := channel.toNat
  let x : Channel := { valid := true, dir := bit v 0, portCh := bit v 1, linePort := bits v 4 2, subPort := bits v 6 5, tag := bits v 18 7, sci := sci }
  if 32768 ≤ ch || 2 ^ 19 ≤ v then ordFail 0x53 c else stageChecked (fun c => c.channelCheck ch x) (.chSet ch x) c

/-- CH_CLEAR. -/
def chClear (channel : Word) : OrdFn := inModes retireModes fun c =>
  let ch := channel.toNat
  if 32768 ≤ ch then ordFail 0x53 c else stageChecked (fun c => c.clearCheck ch) (.chClear ch) c

/-! ### The SA orders (R159, R160, Table 06.4) -/

/-- R164: the quiet time of an AN is not over. -/
def Chip.anQuiet (c : Chip) (k : Channel) (an : Nat) : Bool := k.quietAt an ≠ 0 && c.now ≤ k.quietAt an * 1000

/-- The checks of Table 06.4, in order. -/
def Chip.installCheck (c : Chip) (i : Nat) (x : Sa) : Nat :=
  let k := c.chan x.channel
  let s := c.slot (slotOf x.key)
  let onAn := match k.saAt x.an with
    | some j => decide ((c.sa j).state = 1)
    | none => false
  if (c.sa i).state = 1 then 0x67
  else if !k.valid || k.dir ≠ x.dir || (k.portCh && !suiteXpn x.suite) then 0x68
  else if onAn then 0x63
  else if c.anQuiet k x.an then 0x62
  else if c.checkKey x.key ≠ 0 then c.checkKey x.key
  else if s.type ≠ 0 then 0x43
  else if s.function ≠ 0 then 0x69
  else if s.bound then 0x44
  else if s.klen ≠ suite256 x.suite then 0x60
  else if !x.dir && s.txUsed then 0x61
  else if (suiteXpn x.suite && x.ssci = 0) || (x.dir && (1024 < x.replayWin || x.nextPn = 0)) then 0x53
  else 0

/-- The context that SA_INSTALL stages: next_pn of a transmit SA is 1, and highest of a receive SA the initial PN
minus 1. -/
def installed (x : Sa) : Sa :=
  if x.dir then { x with state := 1, highest := x.nextPn - 1, nextPn := 0, peerIndex := 0, peerGen := 0 }
  else { x with state := 1, nextPn := 1, replayWin := 0, hold := false }

/-- SA_INSTALL. -/
def saInstall (index channel key cfg ssci peer : Word) (initPn : DWord) (salt : BitVec 96) : OrdFn :=
  inModes channelModes fun c =>
    let v := cfg.toNat
    let x : Sa := { dir := bit v 4, channel := channel.toNat, an := bits v 1 0, suite := bits v 3 2, key := key, ssci := ssci, salt := salt, nextPn := initPn.toNat, replayWin := bits v 16 6, hold := bit v 5, peerIndex := peer.toNat % 65536, peerGen := bits peer.toNat 23 16 }
    if 65536 ≤ index.toNat || 32768 ≤ channel.toNat || 2 ^ 17 ≤ v || 2 ^ 24 ≤ peer.toNat || 66 ≤ fnOf key then ordFail 0x53 c
    else stageChecked (fun c => c.installCheck index.toNat x) (.saInstall index.toNat (installed x)) c

/-- The initial fields of a staged context, as SA_INSTALL gave them, for the check at COMMIT. -/
def Sa.asked (x : Sa) : Sa := if x.dir then { x with nextPn := x.highest + 1 } else x

/-- SA_RETIRE: neither the current transmit SA nor one that a pending schedule names. -/
def Chip.retireCheck (c : Chip) (h : Word) : Nat :=
  let i := saOf h
  let r := c.checkSa h
  let k := c.chan (c.sa i).channel
  if r ≠ 0 then r
  else if !(c.sa i).dir && k.current = some i then 0x67
  else if k.sched && (k.schedCur = i || k.schedNext = i) then 0x67
  else 0

/-- SA_RETIRE. -/
def saRetire (handle : Word) : OrdFn := inModes retireModes (stageChecked (fun c => c.retireCheck handle) (.saRetire handle))

/-- SA_INFO. -/
def saInfo (index : Word) (out : DWord) : OrdFn := inModes infoModes fun c =>
  if 65536 ≤ index.toNat then ordFail 0x53 c
  else (c.hostOut out.toNat ((c.saWindow index.toNat).flatMap fun w => leBytes 4 w), some {})

/-! ### The schedule orders (R167, R426, R427) -/

/-- R167: an SA of the channel, VALID under its handle. -/
def Chip.memberCheck (c : Chip) (ch : Nat) (h : Word) : Nat :=
  let s := c.sa (saOf h)
  if genOf h ≠ s.generation then 0x41
  else if s.state ≠ 1 || s.channel ≠ ch || s.dir ≠ (c.chan ch).dir then 0x66
  else 0

/-- The checks of SCHEDULE_SWITCH, in order. -/
def Chip.scheduleCheck (c : Chip) (ch : Nat) (cur next : Word) (epoch : Nat) : Nat :=
  let k := c.chan ch
  let a := c.sa (saOf cur)
  if k.sched then 0x64
  else if c.memberCheck ch cur ≠ 0 then c.memberCheck ch cur
  else if !k.valid || (if k.dir then a.hold else k.current ≠ some (saOf cur)) then 0x66
  else if c.memberCheck ch next ≠ 0 then c.memberCheck ch next
  else if (c.sa (saOf next)).an = a.an then 0x66
  else if !c.getB F.TIM_STAT_epoch_valid [] || c.getB F.TIM_STAT_epoch_end [] || epoch < c.tim.epoch + 2 then 0x65
  else 0

/-- R426, R427: a schedule is refused while the master is lost, and on a member's own rings unless local schedules are
allowed. -/
def Chip.scheduleRefused (c : Chip) : Nat :=
  if c.prs.masterLost then 0x94
  else if !c.isMaster && !c.ord.relay && !c.getB F.PRS_STACK_CFG_sched_local [] then 0x95
  else 0

/-- SCHEDULE_SWITCH. -/
def scheduleSwitch (channel current next : Word) (epoch : DWord) : OrdFn := inModes channelModes fun c =>
  let ch := channel.toNat
  if 32768 ≤ ch || bits current.toNat 23 16 ≠ 0 || bits next.toNat 23 16 ≠ 0 || 2 ^ 40 ≤ epoch.toNat then ordFail 0x53 c
  else if c.scheduleRefused ≠ 0 then ordFail c.scheduleRefused c
  else
    stageChecked (fun c => c.scheduleCheck ch current next epoch.toNat) (.schedule ch current next epoch.toNat) c

/-- SCHEDULE_CANCEL: a schedule is pending, and its tick has not come (Table 06.6). -/
def Chip.cancelCheck (c : Chip) (ch : Nat) : Nat :=
  if !(c.chan ch).sched || c.sax.closes.any (·.channel = ch) then 0x6A else 0

/-- SCHEDULE_CANCEL. -/
def scheduleCancel (channel : Word) : OrdFn := inModes retireModes fun c =>
  let ch := channel.toNat
  if 32768 ≤ ch then ordFail 0x53 c else stageChecked (fun c => c.cancelCheck ch) (.schedCancel ch) c

def execChSet (channel cfg : Word) (sci : DWord) := lift fun c => c.runOrder 0x0201 (w4 channel ++ w4 cfg ++ w8 sci) (chSet channel cfg sci)

def execChClear (channel : Word) := lift fun c => c.runOrder 0x0202 (w4 channel) (chClear channel)

def execSaInstall (index channel key cfg ssci peer : Word) (initPn : DWord) (salt : BitVec 96) := lift fun c =>
  c.runOrder 0x0203 (w4 index ++ w4 channel ++ w4 key ++ w4 cfg ++ w4 ssci ++ w4 peer ++ w8 initPn ++ beBytes 12 salt.toNat) (saInstall index channel key cfg ssci peer initPn salt)

def execSaRetire (handle : Word) := lift fun c => c.runOrder 0x0204 (w4 handle) (saRetire handle)

def execSaInfo (index : Word) (out : DWord) := lift fun c => c.runOrder 0x0207 (w4 index ++ pad4 ++ w8 out) (saInfo index out)

def execScheduleSwitch (channel current next : Word) (epoch : DWord) := lift fun c =>
  c.runOrder 0x0205 (w4 channel ++ w4 current ++ w4 next ++ pad4 ++ w8 epoch) (scheduleSwitch channel current next epoch)

def execScheduleCancel (channel : Word) := lift fun c => c.runOrder 0x0206 (w4 channel) (scheduleCancel channel)

/-! ### COMMIT (R132, R158, R266, R324, R337, R360) -/

/-- The check of a staged key at COMMIT: its mode, its target's generation, its parent and its target's binding. -/
def Chip.keyCheck (c : Chip) (i : Nat) (hadGen : Option Nat) (parent : Option Word) (modes : List Mode) : Nat :=
  let s := c.slot i
  let lost := match parent with
    | some h => c.checkKey h ≠ 0 || c.ord.staged.any fun e => match e with
      | .release j _ _ => j = slotOf h
      | _ => false
    | none => false
  if !c.inMode modes then 0x40
  else if s.state = 1 && some s.generation ≠ hadGen then 0x41
  else if lost then 0x45
  else if s.bound then 0x44
  else 0

/-- A mode check, then another. -/
def Chip.modeThen (c : Chip) (modes : List Mode) (r : Nat) : Nat := if c.inMode modes then r else 0x40

/-- R132: an entry is tested again, against the state as it is applied. -/
def Chip.entryCheck (c : Chip) (e : Staged) : Nat :=
  match e with
  | .key i _ hadGen parent modes => c.keyCheck i hadGen parent modes
  | .release i gen force =>
    let s := c.slot i
    c.modeThen (stageModes ++ [.maintenance])
      (if s.state = 1 && gen ≠ s.generation then 0x41 else if s.bound && !force then 0x44 else 0)
  | .chSet ch x => c.modeThen channelModes (c.channelCheck ch x)
  | .chClear ch => c.modeThen retireModes (c.clearCheck ch)
  | .saInstall i x => c.modeThen channelModes (c.installCheck i x.asked)
  | .saRetire h => c.modeThen retireModes (c.retireCheck h)
  | .schedule ch cur next epoch => c.modeThen channelModes (c.scheduleCheck ch cur next epoch)
  | .schedCancel ch => c.modeThen retireModes (c.cancelCheck ch)
  | .fwdAdd key dest _ => c.modeThen fwdModes (if (c.fwdInstall key dest true).isNone then 0x70 else 0)
  | .fwdDel key => c.modeThen fwdModes (if (c.fwdFind key).isNone then 0x71 else 0)
  | .imgActivate t =>
    match c.pendingImage t with
    | none => if c.imgMode t false then 0x85 else 0x40
    | some i => if !c.imgMode t i.large then 0x40 else if c.largeBusy t i then 0x84 else 0
  | .pairKey h | .stackKey h => c.modeThen [.provision, .maintenance] (c.checkKey h)
  | .modeSet from' to' drain => c.modeCheck from' to' drain

/-- An entry is applied. -/
def Chip.applyEntry (c : Chip) (e : Staged) : Chip :=
  match e with
  | .key i record _ _ _ =>
    let was := (c.slot i).state = 1
    let c := ((c.placeKey i record).dropCached i).newUses i
    c.when was Chip.startWalk
  | .release i _ _ => c.invalidate i
  | .fwdAdd key dest static => (c.fwdInstall key dest static).getD c
  | .fwdDel key =>
    match c.fwdFind key with
    | some s => c.fwdRemove s
    | none => c
  | .imgActivate t => c.activate t
  | .pairKey h => c.modPrs fun p => { p with pairKey := some h }
  | .stackKey h => c.modPrs fun p => { p with stackKey := some h }
  | .chSet _ _ | .chClear _ | .saInstall _ _ | .saRetire _ | .schedule _ _ _ _ | .schedCancel _ | .modeSet _ _ _ => c.place e

/-- The entries in order: the block after them, or the first failing entry's result. -/
def Chip.applyEntries (c : Chip) : List Staged → Except Nat Chip
  | [] => .ok c
  | e :: es =>
    let r := c.entryCheck e
    if r ≠ 0 then .error r else (c.applyEntry e).applyEntries es

/-- R323: a staged register write, as a driver write in this cycle; PF0 cannot reach a look-aside ring's registers
(R517). -/
def Chip.stagedWrite (c : Chip) (w : Nat × Word) : Chip := if laRingReg w.1 then c else c.regWrite .plain w.1 w.2.toNat 0xFF

/-- R324, R360, R363, R366: the staged change of mode is requested last; it consumes what it needed. -/
def Chip.requestMode (c : Chip) : List Staged → Chip × Option OrdRes
  | [] => (c, some {})
  | .modeSet from' to' drain :: _ =>
    let need := (transition from' to' drain).getD 0
    let c := c.modCtl fun k => { k with
      pendingMode := some (to', drain),
      auth := if 1 ≤ need && to' ≠ .drain then none else k.auth,
      pinOk := if need = 2 && to' ≠ .drain then none else k.pinOk }
    (c.modOrd fun o => { o with ended := some {} }, none)
  | _ :: es => c.requestMode es

/-- COMMIT: everything staged, or nothing. A transition that fails its check is a refused one (R359). The holder's standby hears
of it in one record (R416). -/
def commit : OrdFn := fun c =>
  match c.applyEntries c.ord.staged with
  | .error r => ordFail r ((c.when (r = 0x62) fun c => c.bump F.SAX_QUIET_REJ_CNT_count []).when (r = 0x8A) Chip.modeRefused)
  | .ok d =>
    let staged := c.ord.staged
    let d := d.when c.ord.heldFill fun d => d.modPnl fun p => { p with held := none }
    let d := d.commitRecord c.snapshot
    let d := (d.each c.ord.regWrites Chip.stagedWrite).discardStaged
    d.requestMode staged

def execCommit := lift fun c => c.runOrder 0x0107 [] commit

/-- VAULT_ECC_ERROR: the slot is zeroed, and the error counts against the vault's rate (R437). -/
def execVaultEccError (slot : Fin 131072) := lift fun c => (c.vaultEcc slot.val).transient 5 0 0 false

/-! ### Random bits (R185, R188, R190) -/

/-- GET_RANDOM: the order waits for its blocks. -/
def getRandom (length : Word) (out : DWord) : OrdFn := inModes storeModes fun c =>
  let n := length.toNat
  if n = 0 || 4096 < n then ordFail 0x53 c
  else if c.entFailed then ordFail 0x49 c
  else ((c.modOrd fun o => { o with wait := .random }).randPost 4 ((n + 15) / 16) (.host out.toNat n), none)

def execGetRandom (length : Word) (out : DWord) := lift fun c => c.runOrder 0x0301 (w4 length ++ pad4 ++ w8 out) (getRandom length out)

/-- GET_RANDOM has its blocks. -/
def randomWritten (out n : Nat) (b : List (BitVec 128)) : OrdFn := inModes storeModes fun c =>
  (c.hostOut out (slice (b.flatMap fun x => beBytes 16 x.toNat) 0 n), some {})

/-- MEM_KEY_LOAD has its blocks (R278). -/
def keyIdLoaded (kid : Nat) (b : List (BitVec 128)) : OrdFn := fun c => (c.setKid kid 1 (some (kidKeys b)), some {})

/-- The leftmost 96 bits of the first block. -/
def ivOf (b : List (BitVec 128)) : BitVec 96 := (b.headD 0).extractLsb' 32 96

/-- A request has all its blocks, and its consumer goes on. -/
def Chip.service (c : Chip) (use : RandUse) (b : List (BitVec 128)) : Chip :=
  match use with
  | .challenge out => c.ordResume (challengeDrawn out b)
  | .exportStore out len => c.ordResume (storeExported out len (ivOf b))
  | .sealRotate => c.ordResume (sealRotated b)
  | .keyGen h attr => c.ordResume (keyGenerated h attr b)
  | .memKey kid => c.ordResume (keyIdLoaded kid b)
  | .memKeysAll => c.kidsLoaded b
  | .linkSalt p => c.saltDrawn p b
  | .laIv n => c.laAdmit n (ivOf b)
  | .host out n => c.ordResume (randomWritten out n b)
  | .claimSeal => c.ordResume (claimSealed b)

/-- RANDOM_REQUEST_SERVE: the request in turn takes the blocks the FIFO has for it. -/
def Chip.serveRandom (c : Chip) : Chip :=
  match nextRequest c.ent.waiting with
  | none => c
  | some r =>
    let n := min (r.need - r.got.length) c.fifoBlocks
    if n = 0 then c
    else
      let (l, c) := c.takeBlocks n
      let r' : RandReq := { r with got := r.got ++ l }
      let rest := c.ent.waiting.erase r
      if r'.got.length < r.need then c.modEnt fun e => { e with waiting := r' :: rest }
      else (c.modEnt fun e => { e with waiting := rest }).service r.use r'.got

def execRandomRequestServe := lift Chip.serveRandom

/-! ### The start of an order block (R339, R341, Tables 13.4, 13.5) -/

/-- The block's parameters are in local memory, and its run starts: the built-in interpreter, or an entry of the owner's
order image. -/
def Chip.startBlock (c : Chip) (params : Bytes) : Chip :=
  let o := c.ord
  let c := (c.memClear ordLocal 0x4000).memWrite ordLocal params
  if o.entry = 0 then c.nextRecord
  else
    match ((c.target 8).active.map fun i => i.entries[o.entry - 1]?).join with
    | none => c.blockDone 0x87 0 0xFFFF 0
    | some at' =>
      let put := fun (m : SMap DWord) (k v : Nat) => SMap.set (fun _ => 0) m k (BitVec.ofNat 64 v)
      c.setEctxAt 1026 { g := put (put (put [] 1 o.paramLen) 2 o.ring) 3 o.entry, pc := at', running := true }

/-- ORDER_BLOCK_FETCH: the next ring in the round gives a descriptor; `desc` and `params` are what the reads returned. A
start that failed completes every entry with MODE (Table 15.6). -/
def Chip.orderFetch (c : Chip) (ring : Nat) (desc params : Option Bytes) : Chip :=
  let turn := ((List.range 4).map fun i => (c.ord.lastRing + 1 + i) % 4).find? c.canFetch
  if !c.ordIdle || c.ctl.zeroizing.isSome || turn ≠ some ring then c
  else
    match c.fetchEntry ring desc with
    | (none, c) => c.modOrd fun o => { o with lastRing := ring }
    | (some b, c) =>
      let len := leNat (slice b 4 4)
      let c := c.modOrd fun o => { o with
        busy := true, ring := ring, lastRing := ring, cookie := BitVec.ofNat 64 (leNat (slice b 0x10 8)),
        entry := leNat (slice b 0 1), paramLen := len, pos := 0, index := 0, lastRet := 0, res := {}, relay := false }
      if c.su.failed then c.blockDone 0x40 0 0xFFFF 0
      else if 12288 < len || leNat (slice b 1 3) ≠ 0 || leNat (slice b 0x18 8) ≠ 0 then c.blockDone 0x53 0 0xFFFF 0
      else
        match (if len = 0 then some [] else params) with
        | none => (c.dmaReadFailed (leNat (slice b 8 8))).blockDone 0x99 0 0xFFFF 0
        | some p => c.startBlock (slice p 0 len)

def execOrderBlockFetch (ring : Fin 4) (desc params : Option Bytes) := lift fun c => c.orderFetch ring.val desc params

/-- RELAY_RECEIVE: a member runs a relayed list as a block of entry 0 (R429). -/
def Chip.relayReceive (c : Chip) (params : Bytes) : Chip :=
  if !c.ringsServed || !c.ordIdle || c.isMaster then c
  else
    let c := c.modOrd fun o => { o with
      busy := true, cookie := 0, entry := 0, paramLen := params.length, pos := 0, index := 0, lastRet := 0, res := {},
      relay := true }
    if 12288 < params.length then c.blockDone 0x53 0 0xFFFF 0 else c.startBlock params

def execRelayReceive (params : Bytes) := lift fun c => c.relayReceive params

end Sys2Proof.Machine
end

