-- ==== Sys2Proof/Machine/FleliOrder.lean ====
section
/-! DEFINITION. Chapter 12, Fleli-O: the instructions of order programs (R322 to R324, Table 12.13). -/
namespace Sys2Proof.Machine

/-! ### Orders by their code (Tables 13.7, 14.8, 16.5 and those of chapters 15, 17 to 19) -/

/-- The bytes of a parameter. -/
structure Params where
  bytes : Bytes
  dma : Option Bytes

def Params.word (p : Params) (o : Nat) : Word := BitVec.ofNat 32 (leNat (slice p.bytes o 4))

def Params.dword (p : Params) (o : Nat) : DWord := BitVec.ofNat 64 (leNat (slice p.bytes o 8))

def Params.nat (p : Params) (o n : Nat) : Nat := leNat (slice p.bytes o n)

def Params.str (p : Params) (o n : Nat) : Bytes := slice p.bytes o n

/-- Four words from an offset. -/
def Params.words (p : Params) (o : Nat) : List Word := (List.range 4).map fun i => p.word (o + 4 * i)

/-- The orders of chapters 05 and 06. -/
def keyOrSaOrder (code : Nat) (p : Params) : Option OrdFn :=
  match code with
  | 0x0101 => some (keyLoadClear (p.word 0) (p.dword 8) (BitVec.ofNat 256 (beNat (p.str 16 32))))
  | 0x0102 => some (keyUnwrap (p.word 0) (p.word 4) (p.dword 8) (p.dword 16) p.dma)
  | 0x0103 => some (keyFill (p.word 0) (p.dword 8))
  | 0x0104 => some (keyGenerate (p.word 0) (p.dword 8))
  | 0x0105 => some (keyDerive (p.nat 0 1) (p.nat 1 1) (p.nat 2 2) (p.words 4) (p.words 20) (p.str 36 240))
  | 0x0106 => some (keyRelease (p.word 0) (p.word 4))
  | 0x0107 => some commit
  | 0x0108 => some (keyInfo (p.word 0) (p.dword 8))
  | 0x0109 => some (attest (p.word 0) (p.str 4 32) (p.dword 40) (p.word 48))
  | 0x010A => some (exportStore (p.dword 0) (p.word 8))
  | 0x010B => some confirmStore
  | 0x010C => some (loadStore (p.dword 0) (p.word 8) p.dma)
  | 0x010D => some sealRotate
  | 0x010E => some (ownerTransfer (p.str 0 48))
  | 0x0201 => some (chSet (p.word 0) (p.word 4) (p.dword 8))
  | 0x0202 => some (chClear (p.word 0))
  | 0x0203 => some (saInstall (p.word 0) (p.word 4) (p.word 8) (p.word 12) (p.word 16) (p.word 20) (p.dword 24)
      (BitVec.ofNat 96 (beNat (p.str 32 12))))
  | 0x0204 => some (saRetire (p.word 0))
  | 0x0205 => some (scheduleSwitch (p.word 0) (p.word 4) (p.word 8) (p.dword 16))
  | 0x0206 => some (scheduleCancel (p.word 0))
  | 0x0207 => some (saInfo (p.word 0) (p.dword 8))
  | _ => none

/-- The orders of chapters 07, 10, 11 and 13. -/
def tableOrder (code : Nat) (p : Params) : Option OrdFn :=
  match code with
  | 0x0301 => some (getRandom (p.word 0) (p.dword 8))
  | 0x0401 => some (fwdAdd (p.dword 0) (p.word 8) (p.word 12))
  | 0x0402 => some (fwdDel (p.dword 0))
  | 0x0403 => some (fwdFlush (p.dword 0) (p.dword 8) (p.word 16))
  | 0x0404 => some fwdRecount
  | 0x0405 => some (fwdInfo (p.dword 0) (p.dword 8))
  | 0x0501 => some (memKeyFlush (p.word 0))
  | 0x0502 => some (memKeyRetire (p.word 0))
  | 0x0503 => some (memKeyLoad (p.word 0))
  | 0x0504 => some memKstat
  | 0x0601 => some (imageLoad (p.word 0) (p.dword 8) (p.word 16) p.dma)
  | 0x0602 => some (imageActivate (p.word 0))
  | _ => none

/-- The orders of the later chapters. -/
def controlOrder (code : Nat) (p : Params) : Option OrdFn :=
  match code with
  | 0x0701 => some (authChallenge (p.dword 0))
  | 0x0702 => some (ownerAuth (p.nat 0 1) (p.nat 1 1) (p.nat 2 2) (p.str 4 97) (p.str 101 96))
  | 0x0703 => some (modeSet (p.word 0))
  | 0x0704 => some (dbgCert (p.dword 0) (p.word 8) p.dma)
  | 0x0705 => some tkDisable
  | 0x0706 => some tkEnable
  | 0x0801 => some (ownerClaim (p.str 0 97) (p.nat 98 2) (p.str 100 96))
  | 0x0901 => some (linkKeySet (p.word 0) true)
  | 0x0902 => some (linkKeySet (p.word 0) false)
  | 0x0903 => some promote
  | 0x0904 => some (stackRelay (p.nat 0 4) (p.dword 8) (p.nat 16 4) p.dma)
  | 0x0A01 => some (tamperClear (p.word 0) (p.word 4))
  | 0x0B01 => some pinSet
  | 0x0C01 => some logClear
  | 0x0C02 => some (cntDump (p.nat 0 4) (p.nat 4 4) (p.nat 8 4) (p.nat 12 4) (p.dword 16))
  | _ => none

/-- The order of a code with its parameters. -/
def orderOf (code : Nat) (p : Params) : Option OrdFn :=
  (keyOrSaOrder code p).or ((tableOrder code p).or (controlOrder code p))

/-! ### The instructions -/

/-- An order whose result goes to `d`. While it waits for DMA that is gated, its instruction has not issued. -/
def Chip.callOrder (c : Chip) (e : Eng) (d : Fin 32) (f : OrdFn) : Chip :=
  let (x, r) := f c
  if c.ready e && r.isNone && x.ord.wait = .none && x.ord.ended.isNone then c
  else
    c.issue e fun c =>
      match f (c.modOrd fun o => { o with callReg := some d.val }) with
      | (c, none) => .ok c
      | (c, some r) => .ok (c.finishOrder r)

/-- The order that `ocall` names: its code in ga, its parameters in local memory at gb. An unknown code, or parameters
that do not lie in local memory, give BAD_ORDER. -/
def Chip.calledOrder (c : Chip) (a b : DWord) (dma : Option Bytes) : OrdFn :=
  match paramSize a.toNat with
  | none => ordFail 0x53
  | some n =>
    if 0x4000 < b.toNat + n then ordFail 0x53
    else (orderOf a.toNat { bytes := c.memBytes (ordLocal + b.toNat) n, dma := dma }).getD (ordFail 0x53)

/-- `ocall`. -/
def execOcall (e : Eng) (d a b : Fin 32) (dma : Option Bytes) := fleli e (wordX 0x38 0x00 d a b 0) fun c =>
  c.callOrder e d (c.calledOrder (c.gGet e a) (c.gGet e b) dma)

/-- `otw`: the write is staged, or BAD_ORDER or STAGE_FULL. -/
def execOtw (e : Eng) (d a b : Fin 32) := fleli e (wordX 0x38 0x01 d a b 0) fun c =>
  c.issue e fun c =>
    let off := (c.gGet e a).toNat
    let status : Nat :=
      if off % 4 ≠ 0 || (lookupReg off).isNone then 0x53 else if 256 ≤ c.ord.regWrites.length then 0x4A else 0
    let v := (c.gGet e b).setWidth 32
    let c := c.when (status = 0) fun c => c.modOrd fun o => { o with regWrites := o.regWrites ++ [(off, v)] }
    .ok (c.gSet e d (BitVec.ofNat 64 status))

/-- `omode`: MODE_SET with the word in ga. -/
def execOmode (e : Eng) (d a : Fin 32) := fleli e (wordX 0x38 0x02 d a 0 0) fun c =>
  let v := c.gGet e a
  c.callOrder e d (if 2 ^ 32 ≤ v.toNat then ordFail 0x53 else modeSet (v.setWidth 32))

/-- `ocommit`. -/
def execOcommit (e : Eng) (d : Fin 32) := fleli e (wordX 0x38 0x03 d 0 0 0) fun c => c.callOrder e d commit

/-- `oabort`. -/
def execOabort (e : Eng) := fleli e (wordX 0x38 0x04 0 0 0 0) fun c => c.issue e fun c => .ok c.discardStaged

/-- A wait's value is reached: of the epoch counter, or of the elapsed-time count in µs. -/
def Chip.waitReached (c : Chip) (onEpoch : Bool) (v : Nat) : Bool :=
  if onEpoch then decide (v ≤ c.tim.epoch) else decide (v ≤ c.nowUs)

/-- A value that a count can never reach. -/
def unreachable (onEpoch : Bool) (v : Nat) : Bool := if onEpoch then 2 ^ 40 ≤ v else 2 ^ 64 ≤ v * 1000

/-- `owait`. -/
def execOwait (e : Eng) (d a : Fin 32) (m : BitVec 5) := fleli e (wordX 0x38 0x05 d a 0 m) fun c =>
  c.issue e fun c =>
    let v := (c.gGet e a).toNat
    let onEpoch : Bool := m = 1
    if unreachable onEpoch v then .error 4
    else if c.waitReached onEpoch v then .ok (c.gSet e d 0)
    else .ok (c.modOrd fun o => { o with owait := some (d.val, onEpoch, v, c.nowUs + 1000000) })

/-- OWAIT_RESUME: the value is reached, or 1,000,000 µs have passed; the value wins. -/
def Chip.owaitResume (c : Chip) : Chip :=
  match c.ord.owait with
  | none => c
  | some (d, onEpoch, v, limit) =>
    let c := c.modOrd fun o => { o with owait := none }
    let c := if c.waitReached onEpoch v then c
      else c.reachElapsed ((if onEpoch then limit else min v limit) * 1000)
    c.gSet .order (Fin.ofNat 32 d) (if c.waitReached onEpoch v then 0 else 1)

def execOwaitResume := lift Chip.owaitResume

end Sys2Proof.Machine
end

