-- ==== Sys2Proof/Machine/HostIf.lean ====
section
/-! DEFINITION. Chapter 20: MSI-X, Bus Master Enable, the PCI Express link and its IDE stream, the DOE mailbox, and
SMBus. -/
namespace Sys2Proof.Machine

/-! ### MSI-X (R524, R525) -/

/-- R524: a vector's holdoff ends; the signals that came meanwhile give one message. -/
def Chip.holdoffEnd (c : Chip) (fn v : Nat) : Chip :=
  let k := fn * 2048 + v
  if !SMap.get (fun _ => false) c.hif.holdoff k then c
  else
    let owed := SMap.get (fun _ => false) c.hif.holdPending k
    let c := (c.reachElapsed (SMap.get (fun _ => 0) c.hif.holdEnds k)).modHif fun h => { h with
      holdEnds := SMap.set (fun _ => 0) h.holdEnds k 0
      holdoff := SMap.set (fun _ => false) h.holdoff k false, holdPending := SMap.set (fun _ => false) h.holdPending k false }
    c.when owed fun c => c.msixSignal fn v

def execMsixHoldoffEnd (fn : Fin 66) (vector : Fin 2048) := lift fun c => c.holdoffEnd fn.val vector.val

/-- MSIX_UNMASK: the mask bit of a vector's table entry clears. -/
def Chip.vectorUnmask (c : Chip) (fn v : Nat) : Chip :=
  let dflt := fun (i : Nat) => if i % 4 = 3 then (1 : Word) else 0
  let key := (fn * 2048 + v) * 4 + 3
  let ctl := SMap.get dflt c.hif.msixTable key
  c.msixWrite fn (v * 16 + 12) (ctl &&& ~~~1#32)

def execMsixUnmask (fn : Fin 66) (vector : Fin 2048) := lift fun c =>
  if c.running then c.vectorUnmask fn.val vector.val else c

/-! ### The link (R498, R500, R522) -/

/-- Bus Master Enable of a function: what it owes is issued once DMA is no longer gated. -/
def Chip.setBme (c : Chip) (fn : Nat) (on : Bool) : Chip :=
  (c.modHif fun h => { h with bme := SMap.set (fun _ => false) h.bme fn on }).flushOwed

def execBusMasterEnableChange (fn : Fin 66) (on : Bool) := lift fun c => if c.running then c.setBme fn.val on else c

/-- PCIE_LINK_UP: the link is in L0 at a rate (its code of Table 20.10) and width; `fromDetect` says that it came from
Detect and not from Recovery. The link trains once step 2 has ended and the PLLs of step 3 have locked (R398). -/
def Chip.linkInL0 (c : Chip) (rate width : Nat) (flit fromDetect : Bool) : Chip :=
  if !(c.running && c.evr.started) then c
  else
    let slow := rate < 6 || width < 16
    let c := (((c.setF F.HIF_LINK_STAT_rate [] rate).setF F.HIF_LINK_STAT_width [] width).setF F.HIF_LINK_STAT_flit []
      (b2n flit)).setF F.HIF_LINK_STAT_up [] 1
    let c := (c.when slow fun c => c.setF F.HIF_LINK_STAT_degraded [] 1).modHif fun h => { h with linkL0 := true }
    let c := c.when fromDetect fun c => c.raise Ev.LINK_UP 0x73A
    c.when slow fun c => c.raise Ev.LINK_DEGRADED 0x73A [(4, rate), (4, width)]

def execPcieLinkUp (rate : Fin 7) (width : Nat) (flit fromDetect : Bool) := lift fun c =>
  c.linkInL0 rate.val width flit fromDetect

/-- PCIE_LINK_DOWN. -/
def Chip.pcieDown (c : Chip) : Chip :=
  let up := c.hif.linkL0
  let c := (c.setF F.HIF_LINK_STAT_up [] 0).modHif fun h => { h with linkL0 := false }
  c.when up fun c => c.raise Ev.LINK_DOWN 0x73A

def execPcieLinkDown := lift Chip.pcieDown

/-! ### The IDE stream and the DOE mailbox (R501 to R503) -/

/-- IDE_INTEGRITY_FAIL: a Secure stream becomes Insecure. -/
def Chip.ideFail (c : Chip) : Chip :=
  if c.getF F.HIF_IDE_STAT_state [] = 1 then
    ((c.setF F.HIF_IDE_STAT_state [] 2).setF F.HIF_IDE_STAT_fail [] 1).raise Ev.IDE_FAIL 0x73B
  else c

def execIdeIntegrityFail := lift Chip.ideFail

/-- DOE_MESSAGE: the mailbox answers; the content of the answer and whether it secures the stream are the PCI Express and
SPDM specifications' (log entry 2). -/
def Chip.doeMessage (c : Chip) (msg : Bytes) : Chip :=
  if !c.running then c
  else
    let (n, c) := c.draw
    let c := c.emit (.doe (Config.doeReply n msg))
    if Config.doeSecures n msg then (c.setF F.HIF_IDE_STAT_state [] 1).flushOwed else c

def execDoeMessage (msg : Bytes) := lift fun c => c.doeMessage msg

/-! ### SMBus (R526 to R528, Tables 15.6, 20.6) -/

/-- The target answers. -/
def Chip.smbOn (c : Chip) : Bool := c.running

/-- A read command: counted and answered, or, in WAKE unless `early`, answered with 0xFF. -/
def Chip.smbRead (c : Chip) (early : Bool) (data : Chip → Bytes) : Chip :=
  if !c.smbOn then c
  else if c.inMode [.wake] && !early then c.emit (.smbus [0xFF])
  else (c.bump F.SYS_SMB_CNT_cmds []).emit (.smbus (data c))

/-- The value of a register as SMBus reads it. -/
def Chip.smbWord (c : Chip) (r : RegId) : Nat := c.regWord r []

def execSmbStatus := lift fun c =>
  c.smbRead true fun c => leBytes 4 (c.smbWord .MOD_STAT) ++ leBytes 4 (c.smbWord .SYS_BOOT_STAT)

def execSmbTemp := lift fun c => c.smbRead true fun c => leBytes 2 (c.smbWord .TMP_TEMP)

/-- The measured cell voltage is open at each reading (log entry 3). -/
def execSmbVbat := lift fun c => (c.smbRead false fun c => leBytes 2 (c.smbWord .TMP_VBAT)).draw.2

def execSmbFlags := lift fun c => c.smbRead false fun c => leBytes 4 c.flt.flags.toNat

def execSmbHealth := lift fun c => c.smbRead false fun c =>
  leBytes 4 (c.smbWord .PRS_HEALTH % 2 ^ 15 + c.getF F.PRS_STAT_link [] * 2 ^ 16)

/-- The blocks that REG_READ reaches: SYS, MOD, FLT, TMP, CRF and VLT. -/
def smbBlock (off : Nat) : Bool := off < 0x20000 || (0x40000 ≤ off && off < 0x70000) || (0x90000 ≤ off && off < 0xA0000)

/-- REG_READ; no field is cleared. -/
def Chip.smbReg (c : Chip) (off : Nat) : Chip :=
  let c := c.smbRead false fun c => leBytes 4 (if smbBlock off then c.readAt off else 0)
  match lookupReg off with
  | some (.TMP_VBAT, _) => c.draw.2
  | _ => c

def execSmbRegRead (off : BitVec 24) := lift fun c => c.smbReg off.toNat

/-- A write whose PEC fails is counted and has no other effect. -/
def Chip.smbWrite (c : Chip) (pecOk : Bool) (f : Chip → Chip) : Chip :=
  if !c.smbOn then c else if pecOk then f c else c.bump F.SYS_SMB_CNT_pec []

/-- RESTART is armed for 1 s, or disarmed. -/
def Chip.armRestart (c : Chip) (on : Bool) : Chip :=
  c.modHif fun h => { h with smbArmed := on, smbEnds := if on then c.now + 1000000000 else 0 }

def execSmbRestartArm (data : Byte) (pecOk : Bool) := lift fun c => c.smbWrite pecOk fun c =>
  if data = 0xA5 then (c.bump F.SYS_SMB_CNT_cmds []).armRestart true else c

def execSmbRestart (data : Byte) (pecOk : Bool) := lift fun c => c.smbWrite pecOk fun c =>
  let go := c.hif.smbArmed && c.now < c.hif.smbEnds && data = 0x5A
  let c := c.armRestart false
  if go then (c.bump F.SYS_SMB_CNT_cmds []).systemReset 4 else c

/-- SMB_ARM_EXPIRY: the arming's 1 s has passed. -/
def execSmbArmExpiry := lift fun c => (c.reachElapsed c.hif.smbEnds).armRestart false

end Sys2Proof.Machine
end

