-- ==== Sys2Proof/Machine/Dispatch.lean ====
section
/-! DEFINITION. One arm per command: the direct call of its meaning. -/
namespace Sys2Proof.Machine

def exec (i : Instr) (s : State) : Host.Outcome State Fault Refusal :=
  match i with
  | .registerWrite fn bar off bytes v => Sys2Proof.Machine.execRegisterWrite fn bar off bytes v s
  | .aliasWrite which off v => Sys2Proof.Machine.execAliasWrite which off v s
  | .bitAliasWrite off v => Sys2Proof.Machine.execBitAliasWrite off v s
  | .entRawDataRead => Sys2Proof.Machine.execEntRawDataRead s
  | .evrWrRead => Sys2Proof.Machine.execEvrWrRead s
  | .evrOldestRead => Sys2Proof.Machine.execEvrOldestRead s
  | .configCommit => Sys2Proof.Machine.execConfigCommit s
  | .cfgCrcSweep => Sys2Proof.Machine.execCfgCrcSweep s
  | .sysRestart v => Sys2Proof.Machine.execSysRestart v s
  | .ringDoorbell ring count => Sys2Proof.Machine.execRingDoorbell ring count s
  | .ringEnable ring => Sys2Proof.Machine.execRingEnable ring s
  | .ringDisable ring => Sys2Proof.Machine.execRingDisable ring s
  | .laOwnerWrite pair function => Sys2Proof.Machine.execLaOwnerWrite pair function s
  | .msixHoldoffEnd fn vector => Sys2Proof.Machine.execMsixHoldoffEnd fn vector s
  | .msixUnmask fn vector => Sys2Proof.Machine.execMsixUnmask fn vector s
  | .busMasterEnableChange fn on => Sys2Proof.Machine.execBusMasterEnableChange fn on s
  | .ideIntegrityFail => Sys2Proof.Machine.execIdeIntegrityFail s
  | .doeMessage msg => Sys2Proof.Machine.execDoeMessage msg s
  | .pcieLinkUp rate width flit fromDetect => Sys2Proof.Machine.execPcieLinkUp rate width flit fromDetect s
  | .pcieLinkDown => Sys2Proof.Machine.execPcieLinkDown s
  | .smbStatus => Sys2Proof.Machine.execSmbStatus s
  | .smbTemp => Sys2Proof.Machine.execSmbTemp s
  | .smbVbat => Sys2Proof.Machine.execSmbVbat s
  | .smbFlags => Sys2Proof.Machine.execSmbFlags s
  | .smbHealth => Sys2Proof.Machine.execSmbHealth s
  | .smbRegRead off => Sys2Proof.Machine.execSmbRegRead off s
  | .smbRestartArm data pecOk => Sys2Proof.Machine.execSmbRestartArm data pecOk s
  | .smbRestart data pecOk => Sys2Proof.Machine.execSmbRestart data pecOk s
  | .smbArmExpiry => Sys2Proof.Machine.execSmbArmExpiry s
  | .mainPowerGood straps => Sys2Proof.Machine.execMainPowerGood straps s
  | .pufRetry => Sys2Proof.Machine.execPufRetry s
  | .recorderStart => Sys2Proof.Machine.execRecorderStart s
  | .startDone r => Sys2Proof.Machine.execStartDone r s
  | .resetNAssert => Sys2Proof.Machine.execResetNAssert s
  | .resetNRelease straps => Sys2Proof.Machine.execResetNRelease straps s
  | .hostReset k => Sys2Proof.Machine.execHostReset k s
  | .functionLevelReset fn => Sys2Proof.Machine.execFunctionLevelReset fn s
  | .mainPowerLost vbatGood => Sys2Proof.Machine.execMainPowerLost vbatGood s
  | .allPowerLost => Sys2Proof.Machine.execAllPowerLost s
  | .cellInsert => Sys2Proof.Machine.execCellInsert s
  | .aonSupplySwitchover toCell => Sys2Proof.Machine.execAonSupplySwitchover toCell s
  | .ownerClaim key flags sig => Sys2Proof.Machine.execOwnerClaim key flags sig s
  | .presenceLapse => Sys2Proof.Machine.execPresenceLapse s
  | .authChallenge out => Sys2Proof.Machine.execAuthChallenge out s
  | .ownerAuth fromMode toMode flags key sig => Sys2Proof.Machine.execOwnerAuth fromMode toMode flags key sig s
  | .authLapse => Sys2Proof.Machine.execAuthLapse s
  | .authBlockEnd => Sys2Proof.Machine.execAuthBlockEnd s
  | .pinTokenLapse => Sys2Proof.Machine.execPinTokenLapse s
  | .modeSet cfg => Sys2Proof.Machine.execModeSet cfg s
  | .modeChange => Sys2Proof.Machine.execModeChange s
  | .drainEnd => Sys2Proof.Machine.execDrainEnd s
  | .drainTimeout => Sys2Proof.Machine.execDrainTimeout s
  | .dbgCert certAt len cert => Sys2Proof.Machine.execDbgCert certAt len cert s
  | .tkDisable => Sys2Proof.Machine.execTkDisable s
  | .tkEnable => Sys2Proof.Machine.execTkEnable s
  | .dbgRequest level => Sys2Proof.Machine.execDbgRequest level s
  | .dbgReq level => Sys2Proof.Machine.execDbgReq level s
  | .keyLoadClear handle attr key => Sys2Proof.Machine.execKeyLoadClear handle attr key s
  | .keyUnwrap handle kek attr blobAt blob => Sys2Proof.Machine.execKeyUnwrap handle kek attr blobAt blob s
  | .keyFill handle attr => Sys2Proof.Machine.execKeyFill handle attr s
  | .keyGenerate handle attr => Sys2Proof.Machine.execKeyGenerate handle attr s
  | .keyDerive slot entry ctxLen inputs targets context => Sys2Proof.Machine.execKeyDerive slot entry ctxLen inputs targets context s
  | .keyRelease handle force => Sys2Proof.Machine.execKeyRelease handle force s
  | .commit => Sys2Proof.Machine.execCommit s
  | .keyInfo handle out => Sys2Proof.Machine.execKeyInfo handle out s
  | .attest handle challenge out outLen => Sys2Proof.Machine.execAttest handle challenge out outLen s
  | .exportStore out outLen => Sys2Proof.Machine.execExportStore out outLen s
  | .confirmStore => Sys2Proof.Machine.execConfirmStore s
  | .loadStore blobAt len blob => Sys2Proof.Machine.execLoadStore blobAt len blob s
  | .sealRotate => Sys2Proof.Machine.execSealRotate s
  | .ownerTransfer hash => Sys2Proof.Machine.execOwnerTransfer hash s
  | .revocationWalkPass => Sys2Proof.Machine.execRevocationWalkPass s
  | .vaultEccError slot => Sys2Proof.Machine.execVaultEccError slot s
  | .vaultEccCorrected slot => Sys2Proof.Machine.execVaultEccCorrected slot s
  | .useCountExhausted slot => Sys2Proof.Machine.execUseCountExhausted slot s
  | .chSet channel cfg sci => Sys2Proof.Machine.execChSet channel cfg sci s
  | .chClear channel => Sys2Proof.Machine.execChClear channel s
  | .saInstall index channel key cfg ssci peer initPn salt => Sys2Proof.Machine.execSaInstall index channel key cfg ssci peer initPn salt s
  | .saRetire handle => Sys2Proof.Machine.execSaRetire handle s
  | .scheduleSwitch channel current next epoch => Sys2Proof.Machine.execScheduleSwitch channel current next epoch s
  | .scheduleCancel channel => Sys2Proof.Machine.execScheduleCancel channel s
  | .saInfo index out => Sys2Proof.Machine.execSaInfo index out s
  | .saSnapshot index => Sys2Proof.Machine.execSaSnapshot index s
  | .scheduledSwitch channel => Sys2Proof.Machine.execScheduledSwitch channel s
  | .rxWindowOpen channel => Sys2Proof.Machine.execRxWindowOpen channel s
  | .rxWindowClose channel => Sys2Proof.Machine.execRxWindowClose channel s
  | .pnLimitReached sa => Sys2Proof.Machine.execPnLimitReached sa s
  | .entropyBlockRelease src window => Sys2Proof.Machine.execEntropyBlockRelease src window s
  | .healthTestFail src window => Sys2Proof.Machine.execHealthTestFail src window s
  | .sourceRestart src => Sys2Proof.Machine.execSourceRestart src s
  | .entSourceRestart src => Sys2Proof.Machine.execEntSourceRestart src s
  | .sourceStartupTestEnd src window => Sys2Proof.Machine.execSourceStartupTestEnd src window s
  | .drbgKatEnd pass => Sys2Proof.Machine.execDrbgKatEnd pass s
  | .drbgInstantiate => Sys2Proof.Machine.execDrbgInstantiate s
  | .drbgGenerate => Sys2Proof.Machine.execDrbgGenerate s
  | .drbgReseed => Sys2Proof.Machine.execDrbgReseed s
  | .seedStale => Sys2Proof.Machine.execSeedStale s
  | .randomRequestServe => Sys2Proof.Machine.execRandomRequestServe s
  | .getRandom length out => Sys2Proof.Machine.execGetRandom length out s
  | .timeCapture => Sys2Proof.Machine.execTimeCapture s
  | .timeStep => Sys2Proof.Machine.execTimeStep s
  | .timHold on => Sys2Proof.Machine.execTimHold on s
  | .freqWrite hi => Sys2Proof.Machine.execFreqWrite hi s
  | .freqUpdate f => Sys2Proof.Machine.execFreqUpdate f s
  | .rateChangeEffect => Sys2Proof.Machine.execRateChangeEffect s
  | .slewStart hi => Sys2Proof.Machine.execSlewStart hi s
  | .slewCancel => Sys2Proof.Machine.execSlewCancel s
  | .slewDone => Sys2Proof.Machine.execSlewDone s
  | .refQualified => Sys2Proof.Machine.execRefQualified s
  | .refLost => Sys2Proof.Machine.execRefLost s
  | .ppsInEdge => Sys2Proof.Machine.execPpsInEdge s
  | .ppsOutRise => Sys2Proof.Machine.execPpsOutRise s
  | .ppsOutFall => Sys2Proof.Machine.execPpsOutFall s
  | .epochTick => Sys2Proof.Machine.execEpochTick s
  | .windowTick => Sys2Proof.Machine.execWindowTick s
  | .epochValidStart => Sys2Proof.Machine.execEpochValidStart s
  | .epochEnd => Sys2Proof.Machine.execEpochEnd s
  | .laneCalibration lane ok temp => Sys2Proof.Machine.execLaneCalibration lane ok temp s
  | .stackTimeSend => Sys2Proof.Machine.execStackTimeSend s
  | .stackTimeWord k f => Sys2Proof.Machine.execStackTimeWord k f s
  | .frameReceive port sub frame part => Sys2Proof.Machine.execFrameReceive port sub frame part s
  | .ladleThreadStart ladle thread frame => Sys2Proof.Machine.execLadleThreadStart ladle thread frame s
  | .earlyLookup frame => Sys2Proof.Machine.execEarlyLookup frame s
  | .offloadResult ladle thread => Sys2Proof.Machine.execOffloadResult ladle thread s
  | .panAdmission frame => Sys2Proof.Machine.execPanAdmission frame s
  | .sealComplete frame => Sys2Proof.Machine.execSealComplete frame s
  | .openVerdict frame => Sys2Proof.Machine.execOpenVerdict frame s
  | .clientFrameStart frame => Sys2Proof.Machine.execClientFrameStart frame s
  | .schedulerSelect port => Sys2Proof.Machine.execSchedulerSelect port s
  | .excOutFetch ring desc frame => Sys2Proof.Machine.execExcOutFetch ring desc frame s
  | .laRequestFetch req => Sys2Proof.Machine.execLaRequestFetch req s
  | .laAdmission req msg aad => Sys2Proof.Machine.execLaAdmission req msg aad s
  | .laComplete pair => Sys2Proof.Machine.execLaComplete pair s
  | .cmacComplete e => Sys2Proof.Machine.execCmacComplete e s
  | .slotAllocation line sub phase => Sys2Proof.Machine.execSlotAllocation line sub phase s
  | .kstreamDelivery line sub => Sys2Proof.Machine.execKstreamDelivery line sub s
  | .slotClose line sub => Sys2Proof.Machine.execSlotClose line sub s
  | .slotReadyTest line sub complete => Sys2Proof.Machine.execSlotReadyTest line sub complete s
  | .ingotSent line sub => Sys2Proof.Machine.execIngotSent line sub s
  | .ingotVerdict frame => Sys2Proof.Machine.execIngotVerdict frame s
  | .reasmTimeout line sub => Sys2Proof.Machine.execReasmTimeout line sub s
  | .panError req check => Sys2Proof.Machine.execPanError req check s
  | .panKatEnd pan pass => Sys2Proof.Machine.execPanKatEnd pan pass s
  | .panPeriodicKat pan => Sys2Proof.Machine.execPanPeriodicKat pan s
  | .panKatCmd pan => Sys2Proof.Machine.execPanKatCmd pan s
  | .panRetireCmd pan => Sys2Proof.Machine.execPanRetireCmd pan s
  | .stopLine => Sys2Proof.Machine.execStopLine s
  | .panCacheClear => Sys2Proof.Machine.execPanCacheClear s
  | .frameSpillToHbm frame => Sys2Proof.Machine.execFrameSpillToHbm frame s
  | .frameReturnOnDie frame => Sys2Proof.Machine.execFrameReturnOnDie frame s
  | .shaperRefill cls index => Sys2Proof.Machine.execShaperRefill cls index s
  | .gclSwap port => Sys2Proof.Machine.execGclSwap port s
  | .gclTakeover port => Sys2Proof.Machine.execGclTakeover port s
  | .gclFitRetest port => Sys2Proof.Machine.execGclFitRetest port s
  | .samplePeriod => Sys2Proof.Machine.execSamplePeriod s
  | .sluIndRead => Sys2Proof.Machine.execSluIndRead s
  | .sluIndWrite => Sys2Proof.Machine.execSluIndWrite s
  | .learnProcess => Sys2Proof.Machine.execLearnProcess s
  | .rakeVisit look => Sys2Proof.Machine.execRakeVisit look s
  | .fwdAdd key dest static => Sys2Proof.Machine.execFwdAdd key dest static s
  | .fwdDel key => Sys2Proof.Machine.execFwdDel key s
  | .fwdFlush value mask static => Sys2Proof.Machine.execFwdFlush value mask static s
  | .fwdRecount => Sys2Proof.Machine.execFwdRecount s
  | .fwdInfo key out => Sys2Proof.Machine.execFwdInfo key out s
  | .fwdIndRead => Sys2Proof.Machine.execFwdIndRead s
  | .keyIdsLoad => Sys2Proof.Machine.execKeyIdsLoad s
  | .memKeyFlush kid => Sys2Proof.Machine.execMemKeyFlush kid s
  | .memKeyRetire kid => Sys2Proof.Machine.execMemKeyRetire kid s
  | .memKeyLoad kid => Sys2Proof.Machine.execMemKeyLoad kid s
  | .memKstat => Sys2Proof.Machine.execMemKstat s
  | .kidFlushed kid => Sys2Proof.Machine.execKidFlushed kid s
  | .minorOverflow leaf => Sys2Proof.Machine.execMinorOverflow leaf s
  | .bufferAccessViolation access => Sys2Proof.Machine.execBufferAccessViolation access s
  | .add e d a b => Sys2Proof.Machine.execAdd e d a b s
  | .sub e d a b => Sys2Proof.Machine.execSub e d a b s
  | .and_ e d a b => Sys2Proof.Machine.execAnd e d a b s
  | .or_ e d a b => Sys2Proof.Machine.execOr e d a b s
  | .xor_ e d a b => Sys2Proof.Machine.execXor e d a b s
  | .sll e d a b => Sys2Proof.Machine.execSll e d a b s
  | .srl e d a b => Sys2Proof.Machine.execSrl e d a b s
  | .sra e d a b => Sys2Proof.Machine.execSra e d a b s
  | .slt e d a b => Sys2Proof.Machine.execSlt e d a b s
  | .sltu e d a b => Sys2Proof.Machine.execSltu e d a b s
  | .seq e d a b => Sys2Proof.Machine.execSeq e d a b s
  | .min_ e d a b => Sys2Proof.Machine.execMin e d a b s
  | .minu e d a b => Sys2Proof.Machine.execMinu e d a b s
  | .max_ e d a b => Sys2Proof.Machine.execMax e d a b s
  | .maxu e d a b => Sys2Proof.Machine.execMaxu e d a b s
  | .mul e d a b => Sys2Proof.Machine.execMul e d a b s
  | .mulhu e d a b => Sys2Proof.Machine.execMulhu e d a b s
  | .clz e d a => Sys2Proof.Machine.execClz e d a s
  | .popc e d a => Sys2Proof.Machine.execPopc e d a s
  | .bswap e d a => Sys2Proof.Machine.execBswap e d a s
  | .ext e d a b => Sys2Proof.Machine.execExt e d a b s
  | .jalr e d a => Sys2Proof.Machine.execJalr e d a s
  | .halt e => Sys2Proof.Machine.execHalt e s
  | .fence e => Sys2Proof.Machine.execFence e s
  | .brk e => Sys2Proof.Machine.execBrk e s
  | .rdcyc e d => Sys2Proof.Machine.execRdcyc e d s
  | .addi e d a imm => Sys2Proof.Machine.execAddi e d a imm s
  | .andi e d a imm => Sys2Proof.Machine.execAndi e d a imm s
  | .ori e d a imm => Sys2Proof.Machine.execOri e d a imm s
  | .xori e d a imm => Sys2Proof.Machine.execXori e d a imm s
  | .slti e d a imm => Sys2Proof.Machine.execSlti e d a imm s
  | .sltiu e d a imm => Sys2Proof.Machine.execSltiu e d a imm s
  | .lui e d imm => Sys2Proof.Machine.execLui e d imm s
  | .slli e d a sh => Sys2Proof.Machine.execSlli e d a sh s
  | .srli e d a sh => Sys2Proof.Machine.execSrli e d a sh s
  | .srai e d a sh => Sys2Proof.Machine.execSrai e d a sh s
  | .l8u e d a imm => Sys2Proof.Machine.execL8u e d a imm s
  | .l16u e d a imm => Sys2Proof.Machine.execL16u e d a imm s
  | .l32u e d a imm => Sys2Proof.Machine.execL32u e d a imm s
  | .l64 e d a imm => Sys2Proof.Machine.execL64 e d a imm s
  | .l8s e d a imm => Sys2Proof.Machine.execL8s e d a imm s
  | .l16s e d a imm => Sys2Proof.Machine.execL16s e d a imm s
  | .l32s e d a imm => Sys2Proof.Machine.execL32s e d a imm s
  | .s8 e src a imm => Sys2Proof.Machine.execS8 e src a imm s
  | .s16 e src a imm => Sys2Proof.Machine.execS16 e src a imm s
  | .s32 e src a imm => Sys2Proof.Machine.execS32 e src a imm s
  | .s64 e src a imm => Sys2Proof.Machine.execS64 e src a imm s
  | .aadd e d a b => Sys2Proof.Machine.execAadd e d a b s
  | .aand e d a b => Sys2Proof.Machine.execAand e d a b s
  | .aor e d a b => Sys2Proof.Machine.execAor e d a b s
  | .aswap e d a b => Sys2Proof.Machine.execAswap e d a b s
  | .amaxu e d a b => Sys2Proof.Machine.execAmaxu e d a b s
  | .beq e a b off => Sys2Proof.Machine.execBeq e a b off s
  | .bne e a b off => Sys2Proof.Machine.execBne e a b off s
  | .blt e a b off => Sys2Proof.Machine.execBlt e a b off s
  | .bge e a b off => Sys2Proof.Machine.execBge e a b off s
  | .bltu e a b off => Sys2Proof.Machine.execBltu e a b off s
  | .bgeu e a b off => Sys2Proof.Machine.execBgeu e a b off s
  | .j e off => Sys2Proof.Machine.execJ e off s
  | .jal e off => Sys2Proof.Machine.execJal e off s
  | .fwin e d a => Sys2Proof.Machine.execFwin e d a s
  | .fskip e d a kind => Sys2Proof.Machine.execFskip e d a kind s
  | .fins e a b n => Sys2Proof.Machine.execFins e a b n s
  | .fdel e a b => Sys2Proof.Machine.execFdel e a b s
  | .femit e a b copy => Sys2Proof.Machine.execFemit e a b copy s
  | .fdrop e => Sys2Proof.Machine.execFdrop e s
  | .lkpFwd e d a b bad => Sys2Proof.Machine.execLkpFwd e d a b bad s
  | .lkpSa e d a m => Sys2Proof.Machine.execLkpSa e d a m s
  | .cseal e a => Sys2Proof.Machine.execCseal e a s
  | .copen e d a => Sys2Proof.Machine.execCopen e d a s
  | .mtr e d a b => Sys2Proof.Machine.execMtr e d a b s
  | .cinc e a b => Sys2Proof.Machine.execCinc e a b s
  | .tnow e d m => Sys2Proof.Machine.execTnow e d m s
  | .tdep e a => Sys2Proof.Machine.execTdep e a s
  | .kderive e d a b m => Sys2Proof.Machine.execKderive e d a b m s
  | .kunwrap e d a b m => Sys2Proof.Machine.execKunwrap e d a b m s
  | .kcmac e d a b m => Sys2Proof.Machine.execKcmac e d a b m s
  | .kout e d a b m => Sys2Proof.Machine.execKout e d a b m s
  | .kmov e d a m => Sys2Proof.Machine.execKmov e d a m s
  | .kclr e a => Sys2Proof.Machine.execKclr e a s
  | .kinfo e d a => Sys2Proof.Machine.execKinfo e d a s
  | .khnd e d a => Sys2Proof.Machine.execKhnd e d a s
  | .ocall e d a b dma => Sys2Proof.Machine.execOcall e d a b dma s
  | .otw e d a b => Sys2Proof.Machine.execOtw e d a b s
  | .omode e d a => Sys2Proof.Machine.execOmode e d a s
  | .ocommit e d => Sys2Proof.Machine.execOcommit e d s
  | .oabort e => Sys2Proof.Machine.execOabort e s
  | .owait e d a m => Sys2Proof.Machine.execOwait e d a m s
  | .owaitResume => Sys2Proof.Machine.execOwaitResume s
  | .vsense e d m => Sys2Proof.Machine.execVsense e d m s
  | .verase e => Sys2Proof.Machine.execVerase e s
  | .vflag e a => Sys2Proof.Machine.execVflag e a s
  | .vnote e a b => Sys2Proof.Machine.execVnote e a b s
  | .imageLoad target imageAt len image => Sys2Proof.Machine.execImageLoad target imageAt len image s
  | .imageActivate target => Sys2Proof.Machine.execImageActivate target s
  | .oldBankRelease target => Sys2Proof.Machine.execOldBankRelease target s
  | .orderBlockFetch ring desc params => Sys2Proof.Machine.execOrderBlockFetch ring desc params s
  | .programEccRepair error => Sys2Proof.Machine.execProgramEccRepair error s
  | .perfCounterWrap q counter => Sys2Proof.Machine.execPerfCounterWrap q counter s
  | .instructionSample ladle thread encoding addr latency => Sys2Proof.Machine.execInstructionSample ladle thread encoding addr latency s
  | .ladDbgHalt q => Sys2Proof.Machine.execLadDbgHalt q s
  | .ladDbgStep q => Sys2Proof.Machine.execLadDbgStep q s
  | .ladDbgResume q => Sys2Proof.Machine.execLadDbgResume q s
  | .breakpointHit ladle thread => Sys2Proof.Machine.execBreakpointHit ladle thread s
  | .vigilRunStart => Sys2Proof.Machine.execVigilRunStart s
  | .ladleCoreTest ladle => Sys2Proof.Machine.execLadleCoreTest ladle s
  | .claimFrameSend => Sys2Proof.Machine.execClaimFrameSend s
  | .claimFrameReceive pairLink frame => Sys2Proof.Machine.execClaimFrameReceive pairLink frame s
  | .peerAbsent => Sys2Proof.Machine.execPeerAbsent s
  | .gradeFall fec => Sys2Proof.Machine.execGradeFall fec s
  | .gradeRise fec => Sys2Proof.Machine.execGradeRise fec s
  | .revertExpiry => Sys2Proof.Machine.execRevertExpiry s
  | .pairHello peer => Sys2Proof.Machine.execPairHello peer s
  | .runnerHello port peer => Sys2Proof.Machine.execRunnerHello port peer s
  | .linkRehello link peer => Sys2Proof.Machine.execLinkRehello link peer s
  | .pairCycleEnd => Sys2Proof.Machine.execPairCycleEnd s
  | .pairCycleApply copy => Sys2Proof.Machine.execPairCycleApply copy s
  | .copyResend => Sys2Proof.Machine.execCopyResend s
  | .bulkCopyDone head bulk => Sys2Proof.Machine.execBulkCopyDone head bulk s
  | .pairResync => Sys2Proof.Machine.execPairResync s
  | .markerDeadline => Sys2Proof.Machine.execMarkerDeadline s
  | .takeover => Sys2Proof.Machine.execTakeover s
  | .yield => Sys2Proof.Machine.execYield s
  | .yieldEnd => Sys2Proof.Machine.execYieldEnd s
  | .dualHold limits => Sys2Proof.Machine.execDualHold limits s
  | .keepaliveSend => Sys2Proof.Machine.execKeepaliveSend s
  | .keepaliveReceive port dev hops mode holding claim => Sys2Proof.Machine.execKeepaliveReceive port dev hops mode holding claim s
  | .stackFrameReceive port frame => Sys2Proof.Machine.execStackFrameReceive port frame s
  | .masterLost => Sys2Proof.Machine.execMasterLost s
  | .masterFound => Sys2Proof.Machine.execMasterFound s
  | .pairKeySet handle => Sys2Proof.Machine.execPairKeySet handle s
  | .stackKeySet handle => Sys2Proof.Machine.execStackKeySet handle s
  | .promote => Sys2Proof.Machine.execPromote s
  | .stackRelay device paramsAt len params => Sys2Proof.Machine.execStackRelay device paramsAt len params s
  | .relayReceive params => Sys2Proof.Machine.execRelayReceive params s
  | .relayTimeout => Sys2Proof.Machine.execRelayTimeout s
  | .faultReport cls channel code detail used => Sys2Proof.Machine.execFaultReport cls channel code detail used s
  | .tableSramEcc table index => Sys2Proof.Machine.execTableSramEcc table index s
  | .fabricIicMismatch error => Sys2Proof.Machine.execFabricIicMismatch error s
  | .alarmRaise rise => Sys2Proof.Machine.execAlarmRaise rise s
  | .meshBreach => Sys2Proof.Machine.execMeshBreach s
  | .meshPatternCheck good => Sys2Proof.Machine.execMeshPatternCheck good s
  | .tempSample a b => Sys2Proof.Machine.execTempSample a b s
  | .zeroization trigger => Sys2Proof.Machine.execZeroization trigger s
  | .zeroizationComplete => Sys2Proof.Machine.execZeroizationComplete s
  | .tamperClear mask note => Sys2Proof.Machine.execTamperClear mask note s
  | .inputFilteredChange input active => Sys2Proof.Machine.execInputFilteredChange input active s
  | .inputChatter input => Sys2Proof.Machine.execInputChatter input s
  | .chatterHoldEnd input => Sys2Proof.Machine.execChatterHoldEnd input s
  | .inputStuck input => Sys2Proof.Machine.execInputStuck input s
  | .touchMeasure electrode above => Sys2Proof.Machine.execTouchMeasure electrode above s
  | .zeroizeButtonHold => Sys2Proof.Machine.execZeroizeButtonHold s
  | .zeroizeButtonRelease => Sys2Proof.Machine.execZeroizeButtonRelease s
  | .vigilZeroizeHold => Sys2Proof.Machine.execVigilZeroizeHold s
  | .touchCounted digit => Sys2Proof.Machine.execTouchCounted digit s
  | .pinEntryEnd => Sys2Proof.Machine.execPinEntryEnd s
  | .pinLockoutEnd => Sys2Proof.Machine.execPinLockoutEnd s
  | .pinSet => Sys2Proof.Machine.execPinSet s
  | .enrolmentTimeout => Sys2Proof.Machine.execEnrolmentTimeout s
  | .fillHello crcOk payload => Sys2Proof.Machine.execFillHello crcOk payload s
  | .fillKeyblob crcOk payload => Sys2Proof.Machine.execFillKeyblob crcOk payload s
  | .fillBye crcOk payload => Sys2Proof.Machine.execFillBye crcOk payload s
  | .fillAnswerEnd => Sys2Proof.Machine.execFillAnswerEnd s
  | .fillSilenceTimeout => Sys2Proof.Machine.execFillSilenceTimeout s
  | .fillPlug => Sys2Proof.Machine.execFillPlug s
  | .fillUnplug => Sys2Proof.Machine.execFillUnplug s
  | .fillBlobExpiry => Sys2Proof.Machine.execFillBlobExpiry s
  | .eventRecordWrite => Sys2Proof.Machine.execEventRecordWrite s
  | .rateWindowStart => Sys2Proof.Machine.execRateWindowStart s
  | .eventDrainCopy => Sys2Proof.Machine.execEventDrainCopy s
  | .eventDrainEnable => Sys2Proof.Machine.execEventDrainEnable s
  | .logClear => Sys2Proof.Machine.execLogClear s
  | .cntDump space first count flags out => Sys2Proof.Machine.execCntDump space first count flags out s
  | .counterSnapshot space index => Sys2Proof.Machine.execCounterSnapshot space index s
  | .counterReadClear space index => Sys2Proof.Machine.execCounterReadClear space index s
  | .counterWrite space index => Sys2Proof.Machine.execCounterWrite space index s
  | .counterEccError space error => Sys2Proof.Machine.execCounterEccError space error s
  | .portUp port sub => Sys2Proof.Machine.execPortUp port sub s
  | .portDown port sub cause lanes => Sys2Proof.Machine.execPortDown port sub cause lanes s
  | .lanePpmCheck lane ppm => Sys2Proof.Machine.execLanePpmCheck lane ppm s
  | .fecBurst port sub lane codewords => Sys2Proof.Machine.execFecBurst port sub lane codewords s
  | .laneRetrainCmd lane => Sys2Proof.Machine.execLaneRetrainCmd lane s
  | .prbsInjectBit lane => Sys2Proof.Machine.execPrbsInjectBit lane s
  | .prbsInjectBurst lane => Sys2Proof.Machine.execPrbsInjectBurst lane s
  | .runnerLaneDrop lane => Sys2Proof.Machine.execRunnerLaneDrop lane s
  | .alarmCauseClear source => Sys2Proof.Machine.execAlarmCauseClear source s
  | .ladleCoreTestEnd ladle pass => Sys2Proof.Machine.execLadleCoreTestEnd ladle pass s
  | .faultRecoveryDone cls ok => Sys2Proof.Machine.execFaultRecoveryDone cls ok s
  | .keepaliveTimeout dev => Sys2Proof.Machine.execKeepaliveTimeout dev s
  | .cycleAcknowledge what => Sys2Proof.Machine.execCycleAcknowledge what s

end Sys2Proof.Machine
end

