-- ==== Sys2Proof/WellFormed.lean ====
section
/-! DEFINITION. Which commands the outside can give: the ranges of their operands that the spec states and that their types
do not. -/
namespace Sys2Proof

/-- The vectors of a function's MSI-X table (Table 20.2): 2,048 for PF0, 16 for the others. -/
def vectorOk (fn vector : Nat) : Bool := vector < (if fn = 0 then 2048 else 16)

/-- Table 20.1: the link's rates and widths. -/
def linkOk (rate width : Nat) : Bool := 1 ≤ rate && (width = 4 || width = 8 || width = 16)

/-- The number after the last fault channel of each class (Table 17.2). -/
def channelsOfClass (cls : Nat) : Nat :=
  match cls with
  | 0 => 64 | 1 => 76 | 2 => 24 | 3 => 256 | 4 => 64 | 6 => 2 | _ => 1

/-- The sub-ports of a port in the numbering of Table 21.1: four of an Ethernet port, one of a link port. -/
def subOk (port b : Nat) : Bool := port < 16 || b = 0

/-- A point and a signature of an order's parameters (R363, R402). -/
def signedOk (key sig : Bytes) : Bool := key.length = 97 && sig.length = 96

/-- The command is one that the outside can give. -/
def Instr.wf (i : Instr) : Bool :=
  match i with
  | .registerWrite _ _ _ bytes _ => 0 < bytes
  | .msixHoldoffEnd fn v => vectorOk fn.val v.val
  | .msixUnmask fn v => vectorOk fn.val v.val
  | .pcieLinkUp rate width _ _ => linkOk rate.val width
  | .ownerClaim key _ sig => signedOk key sig
  | .ownerAuth _ _ _ key sig => signedOk key sig
  | .keyDerive _ _ _ inputs targets context => inputs.length = 4 && targets.length = 4 && context.length = 240
  | .attest _ challenge _ _ => challenge.length = 32
  | .ownerTransfer hash => hash.length = 48
  | .keepaliveReceive _ _ _ mode _ _ => mode.val < 12
  | .relayReceive params => params.length ≤ 12288
  | .faultReport cls channel _ _ _ => channel.toNat < channelsOfClass cls.val && (cls.val ≠ 1 || 64 ≤ channel.toNat)
  | .tableSramEcc table index => table.val = 0 || index.toNat < 32768 || (table.val = 2 && index.toNat < 32768 + 528)
  | .portUp port b => subOk port.val b.val
  | .portDown port b _ _ => subOk port.val b.val
  | .fecBurst port b _ _ => subOk port.val b.val
  | _ => true

end Sys2Proof
end

