-- ==== Sys2Proof/Safety.lean ====
section
/-! DEFINITION. What a run keeps, in the terms that the statements use. -/
namespace Sys2Proof.Machine

/-- Command `i` answers a next state: the queue is as it was, and the block it leaves has `post`. -/
def completes (i : Instr) (s : State) (post : Chip → Prop) : Prop :=
  ∃ c, exec i s = .next { s with chip := c } ∧ post c

/-- The recorder has started and its intake has room for eight more events (R481). -/
def Chip.logs (c : Chip) : Prop := c.evr.started = true ∧ c.evr.intake.length + 8 ≤ 256

/-- The intake of a block after events were raised, oldest first (R482). -/
def Chip.logged (c d : Chip) (evs : List EvReq) : Prop := d.evr.intake = c.evr.intake ++ evs

/-- A counter field has risen by one, or stands at its largest value. -/
def Chip.bumped (c d : Chip) (f : Fld) (i : List Nat) : Prop := d.getF f i = min (2 ^ f.w - 1) (c.getF f i + 1)

/-- Nothing has changed but fields of registers, and of these only those whose keys are in a list. -/
def Chip.fieldsOnly (c d : Chip) (keys : List Nat) : Prop :=
  d = { c with regs := d.regs } ∧ ∀ k, k ∉ keys → SMap.get regReset d.regs k = SMap.get regReset c.regs k

/-- A write of PF0 to an offset of the normal window of BAR0 reaches its register (R8, R503, R517, Table 15.6). -/
def Chip.takesWrite (c : Chip) (off : Nat) : Prop :=
  c.running = true ∧ off % 4 = 0 ∧ off < 0x1000000 ∧ c.ideRefuses off = false ∧ c.answers off = true ∧
  laRingReg off = false

/-! ### A Fleli engine's instruction -/

/-- Engine `e` issues the instruction at its program counter (R293, R328): it is ready, its run has instructions left,
the program counter is inside the code, no single step is under way (R352), no other thread of its Ladle comes first, and
the words it reads have no uncorrectable error (R327, R340). -/
def Chip.canIssue (c : Chip) (e : Eng) : Prop :=
  c.ready e = true ∧ c.inTurn e = true ∧ (c.ectx e).issued < c.runLimit e ∧ (c.ectx e).pc + 4 ≤ c.codeLen e ∧
  (c.ectx e).stepOne = false ∧ (c.ectx e).fetchEcc = false ∧ c.readsEcc e = false

/-- The engine that a Fleli command names and the word that the encoding tables give its instruction (Tables 12.4 to 12.15);
none for a command that is no instruction. -/
def codeOf : Instr → Option (Eng × Word)
  | .add e d a b => some (e, wordA 0x00 0x000 d a b)
  | .sub e d a b => some (e, wordA 0x00 0x001 d a b)
  | .and_ e d a b => some (e, wordA 0x00 0x002 d a b)
  | .or_ e d a b => some (e, wordA 0x00 0x003 d a b)
  | .xor_ e d a b => some (e, wordA 0x00 0x004 d a b)
  | .sll e d a b => some (e, wordA 0x00 0x005 d a b)
  | .srl e d a b => some (e, wordA 0x00 0x006 d a b)
  | .sra e d a b => some (e, wordA 0x00 0x007 d a b)
  | .slt e d a b => some (e, wordA 0x00 0x008 d a b)
  | .sltu e d a b => some (e, wordA 0x00 0x009 d a b)
  | .seq e d a b => some (e, wordA 0x00 0x00A d a b)
  | .min_ e d a b => some (e, wordA 0x00 0x00B d a b)
  | .minu e d a b => some (e, wordA 0x00 0x00C d a b)
  | .max_ e d a b => some (e, wordA 0x00 0x00D d a b)
  | .maxu e d a b => some (e, wordA 0x00 0x00E d a b)
  | .mul e d a b => some (e, wordA 0x00 0x010 d a b)
  | .mulhu e d a b => some (e, wordA 0x00 0x011 d a b)
  | .clz e d a => some (e, wordA 0x00 0x012 d a 0)
  | .popc e d a => some (e, wordA 0x00 0x013 d a 0)
  | .bswap e d a => some (e, wordA 0x00 0x014 d a 0)
  | .ext e d a b => some (e, wordA 0x00 0x015 d a b)
  | .jalr e d a => some (e, wordA 0x00 0x020 d a 0)
  | .halt e => some (e, wordA 0x00 0x040 0 0 0)
  | .fence e => some (e, wordA 0x00 0x041 0 0 0)
  | .brk e => some (e, wordA 0x00 0x042 0 0 0)
  | .rdcyc e d => some (e, wordA 0x00 0x043 d 0 0)
  | .addi e d a imm => some (e, wordI 0x02 d a imm)
  | .andi e d a imm => some (e, wordI 0x03 d a imm)
  | .ori e d a imm => some (e, wordI 0x04 d a imm)
  | .xori e d a imm => some (e, wordI 0x05 d a imm)
  | .slti e d a imm => some (e, wordI 0x06 d a imm)
  | .sltiu e d a imm => some (e, wordI 0x07 d a imm)
  | .lui e d imm => some (e, wordI 0x08 d 0 imm)
  | .slli e d a sh => some (e, wordI 0x09 d a (sh.setWidth 16))
  | .srli e d a sh => some (e, wordI 0x0A d a (sh.setWidth 16))
  | .srai e d a sh => some (e, wordI 0x0B d a (sh.setWidth 16))
  | .l8u e d a imm => some (e, wordI 0x10 d a imm)
  | .l16u e d a imm => some (e, wordI 0x11 d a imm)
  | .l32u e d a imm => some (e, wordI 0x12 d a imm)
  | .l64 e d a imm => some (e, wordI 0x13 d a imm)
  | .l8s e d a imm => some (e, wordI 0x14 d a imm)
  | .l16s e d a imm => some (e, wordI 0x15 d a imm)
  | .l32s e d a imm => some (e, wordI 0x16 d a imm)
  | .s8 e src a imm => some (e, wordI 0x18 src a imm)
  | .s16 e src a imm => some (e, wordI 0x19 src a imm)
  | .s32 e src a imm => some (e, wordI 0x1A src a imm)
  | .s64 e src a imm => some (e, wordI 0x1B src a imm)
  | .aadd e d a b => some (e, wordA 0x1C 0x000 d a b)
  | .aand e d a b => some (e, wordA 0x1C 0x001 d a b)
  | .aor e d a b => some (e, wordA 0x1C 0x002 d a b)
  | .aswap e d a b => some (e, wordA 0x1C 0x003 d a b)
  | .amaxu e d a b => some (e, wordA 0x1C 0x004 d a b)
  | .beq e a b off => some (e, wordI 0x20 a b off)
  | .bne e a b off => some (e, wordI 0x21 a b off)
  | .blt e a b off => some (e, wordI 0x22 a b off)
  | .bge e a b off => some (e, wordI 0x23 a b off)
  | .bltu e a b off => some (e, wordI 0x24 a b off)
  | .bgeu e a b off => some (e, wordI 0x25 a b off)
  | .j e off => some (e, wordJ 0x28 off)
  | .jal e off => some (e, wordJ 0x29 off)
  | .fwin e d a => some (e, wordX 0x30 0x00 d a 0 0)
  | .fskip e d a kind => some (e, wordX 0x30 0x01 d a 0 kind)
  | .fins e a b n => some (e, wordX 0x30 0x02 0 a b n)
  | .fdel e a b => some (e, wordX 0x30 0x03 0 a b 0)
  | .femit e a b copy => some (e, wordX 0x30 0x04 0 a b (if copy then 1 else 0))
  | .fdrop e => some (e, wordX 0x30 0x05 0 0 0 0)
  | .lkpFwd e d a b _ => some (e, wordX 0x30 0x08 d a b 0)
  | .lkpSa e d a m => some (e, wordX 0x30 0x09 d a 0 (if m then 1 else 0))
  | .cseal e a => some (e, wordX 0x30 0x0C 0 a 0 0)
  | .copen e d a => some (e, wordX 0x30 0x0D d a 0 0)
  | .mtr e d a b => some (e, wordX 0x30 0x10 d a b 0)
  | .cinc e a b => some (e, wordX 0x30 0x11 0 a b 0)
  | .tnow e d m => some (e, wordX 0x30 0x14 d 0 0 m)
  | .tdep e a => some (e, wordX 0x30 0x15 0 a 0 0)
  | .kderive e d a b m => some (e, wordX 0x34 0x00 d a b m)
  | .kunwrap e d a b m => some (e, wordX 0x34 0x01 d a b m)
  | .kcmac e d a b m => some (e, wordX 0x34 0x02 d a b m)
  | .kout e d a b m => some (e, wordX 0x34 0x03 d a b m)
  | .kmov e d a m => some (e, wordX 0x34 0x04 d a 0 m)
  | .kclr e a => some (e, wordX 0x34 0x05 0 a 0 0)
  | .kinfo e d a => some (e, wordX 0x34 0x06 d a 0 0)
  | .khnd e d a => some (e, wordX 0x34 0x07 d a 0 0)
  | .ocall e d a b _ => some (e, wordX 0x38 0x00 d a b 0)
  | .otw e d a b => some (e, wordX 0x38 0x01 d a b 0)
  | .omode e d a => some (e, wordX 0x38 0x02 d a 0 0)
  | .ocommit e d => some (e, wordX 0x38 0x03 d 0 0 0)
  | .oabort e => some (e, wordX 0x38 0x04 0 0 0 0)
  | .owait e d a m => some (e, wordX 0x38 0x05 d a 0 m)
  | .vsense e d m => some (e, wordX 0x3C 0x00 d 0 0 m)
  | .verase e => some (e, wordX 0x3C 0x01 0 0 0 0)
  | .vflag e a => some (e, wordX 0x3C 0x02 0 a 0 0)
  | .vnote e a b => some (e, wordX 0x3C 0x03 0 a b 0)
  | _ => none

/-- The word of the instruction that a Fleli command names stands at its engine's program counter. -/
def Chip.fetched (c : Chip) (i : Instr) : Prop := ∃ e w, codeOf i = some (e, w) ∧ c.codeWord e = some w

/-- Where the instruction stands at its engine's program counter, its command completes. -/
def issues (i : Instr) (s : State) (post : Chip → Prop) : Prop := s.chip.fetched i → completes i s post

/-- Engine `e` has issued one instruction and stands at `pc`; no other engine or thread has moved. -/
def Chip.stepped (c d : Chip) (e : Eng) (pc : Nat) : Prop :=
  (d.ectx e).pc = pc ∧ (d.ectx e).issued = (c.ectx e).issued + 1 ∧ ∀ k, k ≠ engKey e → d.ectxAt k = c.ectxAt k

/-- Register `r` of engine `e` was written, and no other; a write to g0 is discarded (R292). -/
def Chip.wrote (c d : Chip) (e : Eng) (r : Fin 32) (v : DWord) : Prop :=
  ∀ q, d.gGet e q = if q = r ∧ r.val ≠ 0 then v else c.gGet e q

/-- Nothing changed but the engines' own state and, at a debug level above D0, the performance counters (R350). -/
def Chip.onlyEngine (c d : Chip) : Prop :=
  d = { c with
    regs := d.regs, eng := { c.eng with
      ctx := d.eng.ctx, recent := d.eng.recent, sampleCount := d.eng.sampleCount, sampled := d.eng.sampled,
      frames := d.eng.frames } } ∧
  (c.ctl.dbg = 0 → d.regs = c.regs ∧ d.eng.sampleCount = c.eng.sampleCount ∧ d.eng.sampled = c.eng.sampled)

/-- An instruction of engine `e` that gives `v` to register `r` and goes on to the next instruction. -/
def Chip.computed (c d : Chip) (e : Eng) (r : Fin 32) (v : DWord) : Prop :=
  c.wrote d e r v ∧ c.stepped d e ((c.ectx e).pc + 4) ∧ c.onlyEngine d ∧ d.eng.frames = c.eng.frames

/-- A jump or branch of engine `e` that goes to `pc`: no register is written. -/
def Chip.branched (c d : Chip) (e : Eng) (pc : Nat) : Prop :=
  (∀ q, d.gGet e q = c.gGet e q) ∧ c.stepped d e pc ∧ c.onlyEngine d ∧ d.eng.frames = c.eng.frames

/-- What a load of `n` bytes at effective address `ea` reads (Tables 12.2, 12.3): local memory, the scratch memory of a
Ladle's quadrant and the table section, little-endian and aligned; the frame window, big-endian. -/
def Chip.reads (c : Chip) (e : Eng) (ea n v : Nat) : Prop :=
  let o := ea % 2 ^ 28
  (ea / 2 ^ 28 = 0 ∧ o + n ≤ localSize e ∧ o % n = 0 ∧ v = leNat (c.memBytes (localBase e + o) n)) ∨
  (∃ m t, e = .ladle m t ∧ ea / 2 ^ 28 = 1 ∧ o + n ≤ 0x200000 ∧ o % n = 0 ∧
    v = leNat (c.memBytes (scratchBase (m.val / 64) + o) n)) ∨
  (e.onLadle = true ∧ ea / 2 ^ 28 = 2 ∧ o + n ≤ 512 ∧
    v = beNat ((List.range n).map fun i => (c.fctx e).windowByte (o + i))) ∨
  (ea / 2 ^ 28 = 3 ∧ o + n ≤ (c.engTable e).length ∧ o % n = 0 ∧ v = leNat (slice (c.engTable e) o n))

/-- The place in program memory that a store of `n` bytes at effective address `ea` writes: local memory, or the scratch
memory of a Ladle's quadrant. -/
def storePlace (e : Eng) (ea n base : Nat) : Prop :=
  let o := ea % 2 ^ 28
  (ea / 2 ^ 28 = 0 ∧ o + n ≤ localSize e ∧ o % n = 0 ∧ base = localBase e + o) ∨
  (∃ m t, e = .ladle m t ∧ ea / 2 ^ 28 = 1 ∧ o + n ≤ 0x200000 ∧ o % n = 0 ∧ base = scratchBase (m.val / 64) + o)

/-- Bytes `base` to `base + n - 1` of program memory hold `v`, least significant byte first; every other byte is as it
was. -/
def Chip.memStored (c d : Chip) (base n v : Nat) : Prop :=
  ∀ a, d.memGet a = if base ≤ a ∧ a < base + n then BitVec.ofNat 8 (v / 256 ^ (a - base)) else c.memGet a

/-! ### Orders -/

/-- The order engine takes an order by itself: no block runs, nothing waits (R341), and no zeroization runs (R149). -/
def Chip.orderFree (c : Chip) : Prop :=
  c.ord.busy = false ∧ c.ord.wait = .none ∧ c.ord.ended = none ∧ c.ord.callReg = none ∧ c.ctl.zeroizing = none

/-- The block once the order engine's present order has ended with a result (R342). -/
def Chip.ended (c : Chip) (r : OrdRes) : Chip :=
  { c with ord := { c.ord with res := r, lastRet := r.ret.getD c.ord.lastRet } }

/-- The block with one more staged entry (R132). -/
def Chip.plusStaged (c : Chip) (e : Staged) : Chip := { c with ord := { c.ord with staged := c.ord.staged ++ [e] } }

/-- The block with an order that waits for `n` blocks of the generator, in a class of requests (R188). -/
def Chip.awaits (c : Chip) (cls n : Nat) (use : RandUse) : Chip :=
  { c with
    ord := { c.ord with wait := .random },
    ent := { c.ent with waiting := c.ent.waiting ++ [{ cls := cls, need := n, use := use }] } }

/-- The block that has given data to a buffer of PF0. -/
def Chip.gave (c : Chip) (iova : Nat) (data : Bytes) : Chip := { c with out := c.out ++ [.hostWrite 0 iova data] }

/-! ### Invariants -/

/-- Program memory has its canonical form. -/
def State.memOk (s : State) : Prop := Memory.wf s.chip.mem = true

/-- Every command that waits is one that the outside can give. -/
def State.queueOk (s : State) : Prop := ∀ i ∈ s.pending, i.wf = true

/-- R147: ownership slot `i` of OTP is programmed whole with an owner key hash. -/
def State.ownedBy (s : State) (i : Nat) (hash : BitVec 384) : Prop :=
  (s.chip.ownerSlot i).started = true ∧ (s.chip.ownerSlot i).done = true ∧ (s.chip.ownerSlot i).hash = hash

end Sys2Proof.Machine
end

