-- ==== Sys2Proof/Certificates/Slice0/Obligations.lean ====
section
/-! DEFINITION. The statements about the block, for the provers. -/
open Sys2Proof Sys2Proof.Machine

/-! ### Fleli: the base instructions (chapter 12) -/

/-- Table 12.6: each register-register and each immediate instruction gives its destination the table's result, writes no
other register, and goes on to the next instruction; nothing outside the engines changes. `addi`, `slti` and `sltiu` extend
the immediate by its sign, the logical instructions by zeros, and `lui` places it in bits 31 to 16 of a word that it
extends by its sign. -/
def Obligations.AluResults : Prop :=
  (∀ (s : State) (e : Eng) (d a b : Fin 32), s.chip.canIssue e →
     let x := s.chip.gGet e a
     let y := s.chip.gGet e b
     let gives := fun (i : Instr) (v : DWord) => issues i s fun c => s.chip.computed c e d v
     (e.has [d, a, b] = true →
       gives (.add e d a b) (x + y) ∧ gives (.sub e d a b) (x - y) ∧ gives (.and_ e d a b) (x &&& y) ∧
       gives (.or_ e d a b) (x ||| y) ∧ gives (.xor_ e d a b) (x ^^^ y) ∧
       gives (.sll e d a b) (x <<< (y.toNat % 64)) ∧ gives (.srl e d a b) (x >>> (y.toNat % 64)) ∧
       gives (.slt e d a b) (if x.toInt < y.toInt then 1 else 0) ∧
       gives (.sltu e d a b) (if x.toNat < y.toNat then 1 else 0) ∧ gives (.seq e d a b) (if x = y then 1 else 0)) ∧
     (e.onVigil = false →
       gives (.sra e d a b) (x.sshiftRight (y.toNat % 64)) ∧
       gives (.min_ e d a b) (if x.toInt ≤ y.toInt then x else y) ∧
       gives (.minu e d a b) (if x.toNat ≤ y.toNat then x else y) ∧
       gives (.max_ e d a b) (if y.toInt ≤ x.toInt then x else y) ∧
       gives (.maxu e d a b) (if y.toNat ≤ x.toNat then x else y) ∧
       gives (.mul e d a b) (x * y) ∧
       gives (.mulhu e d a b) (((x.setWidth 128 * y.setWidth 128) >>> 64).setWidth 64) ∧
       gives (.popc e d a) (BitVec.ofNat 64 ((List.range 64).countP x.getLsbD)) ∧
       (∃ v : DWord, gives (.bswap e d a) v ∧
         ∀ i j : Nat, i < 8 → j < 8 → v.getLsbD (8 * i + j) = x.getLsbD (8 * (7 - i) + j)) ∧
       (∃ n : Nat, n ≤ 64 ∧ gives (.clz e d a) (BitVec.ofNat 64 n) ∧ (∀ i, i < n → x.getLsbD (63 - i) = false) ∧
         (n < 64 → x.getLsbD (63 - n) = true)) ∧
       (∃ v : DWord, gives (.ext e d a b) v ∧ ∀ i, i < 64 → v.getLsbD i =
         ((y.toNat / 64 % 64 = 0 || decide (i < y.toNat / 64 % 64)) && x.getLsbD (y.toNat % 64 + i))))) ∧
  (∀ (s : State) (e : Eng) (d a : Fin 32) (imm : BitVec 16) (sh : BitVec 6), s.chip.canIssue e →
     let x := s.chip.gGet e a
     let gives := fun (i : Instr) (v : DWord) => issues i s fun c => s.chip.computed c e d v
     (e.has [d, a] = true →
       gives (.addi e d a imm) (x + imm.signExtend 64) ∧ gives (.andi e d a imm) (x &&& imm.setWidth 64) ∧
       gives (.ori e d a imm) (x ||| imm.setWidth 64) ∧ gives (.xori e d a imm) (x ^^^ imm.setWidth 64) ∧
       gives (.lui e d imm) (((imm.setWidth 32 : Word) <<< 16).signExtend 64) ∧
       gives (.slli e d a sh) (x <<< sh.toNat) ∧ gives (.srli e d a sh) (x >>> sh.toNat)) ∧
     (e.onVigil = false →
       gives (.slti e d a imm) (if x.toInt < imm.toInt then 1 else 0) ∧
       gives (.sltiu e d a imm) (if x.toNat < (imm.signExtend 64 : DWord).toNat then 1 else 0) ∧
       gives (.srai e d a sh) (x.sshiftRight sh.toNat)))

/-- Table 12.6: each branch goes to its target, 4 times the offset from its own address, exactly when its condition
holds; `j`, `jal` and `jalr` always jump, and the last two give the address of the next instruction to g31 or to their
destination. No other register is written, and nothing outside the engines changes. -/
def Obligations.BranchesAndJumps : Prop :=
  ∀ (s : State) (e : Eng) (d a b : Fin 32) (off : BitVec 16) (far : BitVec 26), s.chip.canIssue e →
    let x := s.chip.gGet e a
    let y := s.chip.gGet e b
    let pc := (s.chip.ectx e).pc
    let goes := fun (i : Instr) (cond : Prop) =>
      (∀ t : Nat, cond → (t : Int) = pc + 4 * off.toInt → t < s.chip.codeLen e →
        issues i s fun c => s.chip.branched c e t) ∧
      (¬ cond → issues i s fun c => s.chip.branched c e (pc + 4))
    (e.has [a, b] = true →
      goes (.beq e a b off) (x = y) ∧ goes (.bne e a b off) (x ≠ y) ∧ goes (.blt e a b off) (x.toInt < y.toInt) ∧
      goes (.bge e a b off) (y.toInt ≤ x.toInt) ∧ goes (.bltu e a b off) (x.toNat < y.toNat) ∧
      goes (.bgeu e a b off) (y.toNat ≤ x.toNat)) ∧
    (∀ t : Nat, (t : Int) = pc + 4 * far.toInt → t < s.chip.codeLen e →
      issues (.j e far) s (fun c => s.chip.branched c e t) ∧
      (e.onVigil = false → issues (.jal e far) s fun c =>
        s.chip.wrote c e 31 (BitVec.ofNat 64 (pc + 4)) ∧ s.chip.stepped c e t ∧ s.chip.onlyEngine c)) ∧
    (e.onVigil = false → x.toNat < s.chip.codeLen e → x.toNat % 4 = 0 → issues (.jalr e d a) s fun c =>
      s.chip.wrote c e d (BitVec.ofNat 64 (pc + 4)) ∧ s.chip.stepped c e x.toNat ∧ s.chip.onlyEngine c)

/-- R305, Tables 12.2, 12.3, 12.6 and 12.7: each load gives its destination the bytes at its effective address, extended by
zeros or by the sign, and writes no memory; an atomic gives its destination the scratch word at its address, replaces the
word, and changes no other byte. -/
def Obligations.LoadAndAtomicResults : Prop :=
  (∀ (s : State) (e : Eng) (d a : Fin 32) (imm : BitVec 16) (v : Nat), s.chip.canIssue e → e.onVigil = false →
     let ea := ((s.chip.gGet e a).setWidth 32 + imm.signExtend 32 : Word).toNat
     let gives := fun (i : Instr) (v : DWord) => issues i s fun c => s.chip.computed c e d v
     (s.chip.reads e ea 1 v →
       gives (.l8u e d a imm) (BitVec.ofNat 64 v) ∧ gives (.l8s e d a imm) ((BitVec.ofNat 8 v).signExtend 64)) ∧
     (s.chip.reads e ea 2 v →
       gives (.l16u e d a imm) (BitVec.ofNat 64 v) ∧ gives (.l16s e d a imm) ((BitVec.ofNat 16 v).signExtend 64)) ∧
     (s.chip.reads e ea 4 v →
       gives (.l32u e d a imm) (BitVec.ofNat 64 v) ∧ gives (.l32s e d a imm) ((BitVec.ofNat 32 v).signExtend 64)) ∧
     (s.chip.reads e ea 8 v → gives (.l64 e d a imm) (BitVec.ofNat 64 v))) ∧
  (∀ (s : State) (m : Fin 256) (t : Fin 4) (d a b : Fin 32),
     let e := Eng.ladle m t
     let ea := (s.chip.gGet e a).toNat % 2 ^ 32
     let base := scratchBase (m.val / 64) + ea % 2 ^ 28
     let old : DWord := BitVec.ofNat 64 (leNat (s.chip.memBytes base 8))
     let y := s.chip.gGet e b
     let swaps := fun (i : Instr) (v : DWord) => issues i s fun c =>
       s.chip.memStored c base 8 v.toNat ∧ s.chip.computed { c with mem := s.chip.mem } e d old
     s.chip.canIssue e → ea / 2 ^ 28 = 1 → ea % 2 ^ 28 + 8 ≤ 0x200000 → ea % 8 = 0 →
       swaps (.aadd e d a b) (old + y) ∧ swaps (.aand e d a b) (old &&& y) ∧ swaps (.aor e d a b) (old ||| y) ∧
       swaps (.aswap e d a b) y ∧ swaps (.amaxu e d a b) (if old.toNat < y.toNat then y else old))

/-- Tables 12.2 and 12.6: each store writes the low bytes of its source at its effective address, least significant
first, and no other byte of program memory; in the frame window it replaces header bytes, most significant first. No
register is written. -/
def Obligations.StoreResults : Prop :=
  ∀ (s : State) (e : Eng) (src a : Fin 32) (imm : BitVec 16), s.chip.canIssue e → e.onVigil = false →
    let ea := ((s.chip.gGet e a).setWidth 32 + imm.signExtend 32 : Word).toNat
    let v := (s.chip.gGet e src).toNat
    let stores := fun (i : Instr) (n : Nat) =>
      (∀ base, storePlace e ea n base → issues i s fun c =>
        s.chip.memStored c base n v ∧ s.chip.branched { c with mem := s.chip.mem } e ((s.chip.ectx e).pc + 4)) ∧
      (e.onLadle = true → ea / 2 ^ 28 = 2 → ea % 2 ^ 28 + n ≤ 320 → ea % 2 ^ 28 + n ≤ (s.chip.fctx e).header.length →
        issues i s fun c => c.mem = s.chip.mem ∧ s.chip.stepped c e ((s.chip.ectx e).pc + 4) ∧ s.chip.onlyEngine c ∧
          (∀ r, c.gGet e r = s.chip.gGet e r) ∧
          c.fctx e = { s.chip.fctx e with
            header := (s.chip.fctx e).header.take (ea % 2 ^ 28) ++ beBytes n (v % 256 ^ n) ++
              (s.chip.fctx e).header.drop (ea % 2 ^ 28 + n) })
    stores (.s8 e src a imm) 1 ∧ stores (.s16 e src a imm) 2 ∧ stores (.s32 e src a imm) 4 ∧ stores (.s64 e src a imm) 8

/-- Table 12.6, R352: `fence` orders what is already in order and goes on; `brk` halts a Ladle thread at a debug level
from D2 and elsewhere goes on; `rdcyc` gives the instructions of the run, itself counted (the model's reading: the
instruction count, not cycles, is what the model keeps); `halt` ends the run of a key sequencer and of the vigil
program, whose registers keep what they hold. -/
def Obligations.SystemInstructions : Prop :=
  ∀ (s : State) (e : Eng) (d : Fin 32), s.chip.canIssue e →
    (e.onVigil = false →
      issues (.fence e) s (fun c => s.chip.branched c e ((s.chip.ectx e).pc + 4)) ∧
      issues (.rdcyc e d) s (fun c => s.chip.computed c e d (BitVec.ofNat 64 ((s.chip.ectx e).issued + 1))) ∧
      (e.onLadle = false ∨ s.chip.ctl.dbg < 2 →
        issues (.brk e) s fun c => s.chip.branched c e ((s.chip.ectx e).pc + 4))) ∧
    (∀ m t, e = .ladle m t → 2 ≤ s.chip.ctl.dbg → s.chip.logs → issues (.brk e) s fun c =>
      (c.ectx e).halted = true ∧ (c.ectx e).pc = (s.chip.ectx e).pc + 4 ∧ (∀ q, c.gGet e q = s.chip.gGet e q) ∧
      s.chip.logged c [⟨Ev.LAD_BRK, 0x100 + m.val, [], false⟩]) ∧
    (∀ j, e = .ksq j → s.chip.ord.wait ≠ .ksq → issues (.halt e) s fun c =>
      c.ectx e = { g := (s.chip.ectx e).g } ∧ c.ksqCtx j.val = {} ∧ c.ord.stagedKsq = [] ∧
      c.ord.staged = s.chip.ord.staged ++ (if (s.chip.gGet e 1).toNat % 256 = 0 then s.chip.ord.stagedKsq else []) ∧
      c = { s.chip with eng := c.eng, ord := { s.chip.ord with staged := c.ord.staged, stagedKsq := [] } }) ∧
    (e = .vigil → s.chip.powered = false → issues (.halt e) s fun c =>
      c.ectx e = { g := (s.chip.ectx e).g } ∧
      c.eng.vigilReports = s.chip.eng.vigilReports ++ [(s.chip.eng.vigilCauses, s.chip.eng.vigilErased, 0)] ∧
      c = { s.chip with eng := c.eng })

/-- R352: under a debug level from D2 the driver halts, steps and resumes the thread that LAD_DBG_CTL names, and a thread
that reaches its quadrant's breakpoint halts with its event; below D2 the commands are refused and no thread is touched. -/
def Obligations.LadleDebug : Prop :=
  ∀ (s : State) (q : Fin 4),
    let m := q.val * 64 + s.chip.getF F.LAD_DBG_CTL_ladle [q.val]
    let k := m * 4 + s.chip.getF F.LAD_DBG_CTL_thread [q.val]
    let sets := fun (i : Instr) (x : EngCtx) => completes i s fun c =>
      (∀ j, c.ectxAt j = if j = k then x else s.chip.ectxAt j) ∧
      c = { s.chip with eng := { s.chip.eng with ctx := c.eng.ctx } }
    (2 ≤ s.chip.ctl.dbg →
      sets (.ladDbgHalt q) { s.chip.ectxAt k with halted := true, stepOne := false } ∧
      ((s.chip.ectxAt k).halted = true →
        sets (.ladDbgStep q) { s.chip.ectxAt k with halted := false, stepOne := true, bpPassed := true } ∧
        sets (.ladDbgResume q) { s.chip.ectxAt k with halted := false, stepOne := false, bpPassed := true })) ∧
    (s.chip.ctl.dbg < 2 → ∀ i ∈ [Instr.ladDbgHalt q, .ladDbgStep q, .ladDbgResume q],
      completes i s fun c =>
      c = { s.chip with regs := c.regs, evr := c.evr }) ∧
    (∀ (l : Fin 256) (t : Fin 4), 2 ≤ s.chip.ctl.dbg → s.chip.logs →
      let x := s.chip.ectx (.ladle l t)
      x.running = true → x.halted = false → x.offload = none → x.bpPassed = false →
      s.chip.getB F.LAD_DBG_CTL_bp_en [l.val / 64] = true → s.chip.getF F.LAD_DBG_BP_addr [l.val / 64] * 4 = x.pc →
      completes (.breakpointHit l t) s fun c =>
        c.ectx (.ladle l t) = { x with halted := true, stepOne := false, bpPassed := true } ∧
        (∀ j, j ≠ engKey (.ladle l t) → c.ectxAt j = s.chip.ectxAt j) ∧
        s.chip.logged c [⟨Ev.LAD_BRK, 0x100 + l.val, [], false⟩] ∧ c.regs = s.chip.regs ∧ c.mem = s.chip.mem)

/-- R308 to R317: the instructions on a thread's frame header: a header length, an insertion, a deletion, the extra
window, the marks for a seal and for a departure, the release of an opened frame, and the time. -/
def Obligations.FrameHeaderInstructions : Prop :=
  ∀ (s : State) (m : Fin 256) (t : Fin 4) (d a b : Fin 32),
    let e := Eng.ladle m t
    let x := s.chip.fctx e
    let f := s.chip.threadFrame e
    let va := s.chip.gGet e a
    let vb := s.chip.gGet e b
    let pc := (s.chip.ectx e).pc + 4
    let marks := fun (i : Instr) (y : FrameCtx) => issues i s fun c =>
      c.fctx e = y ∧ s.chip.stepped c e pc ∧ s.chip.onlyEngine c ∧ ∀ q, c.gGet e q = s.chip.gGet e q
    let gives := fun (i : Instr) (y : FrameCtx) (v : DWord) => issues i s fun c =>
      c.fctx e = y ∧ s.chip.wrote c e d v ∧ s.chip.stepped c e pc ∧ s.chip.onlyEngine c
    s.chip.canIssue e →
      (∀ k : BitVec 5, k.toNat < 6 → va.toNat ≤ 511 → issues (.fskip e d a k) s fun c =>
        s.chip.computed c e d (BitVec.ofNat 64 (if va.toNat + x.headerLen k.toNat va.toNat ≤ 511
          then va.toNat + x.headerLen k.toNat va.toNat else 0xFFFF))) ∧
      (∀ n : BitVec 5, 0 < n.toNat → n.toNat ≤ 8 → va.toNat ≤ x.header.length → x.netEdit + n.toNat ≤ 64 →
        -64 ≤ x.netEdit + n.toNat →
        marks (.fins e a b n) { x with
          header := x.header.take va.toNat ++ beBytes n.toNat vb.toNat ++ x.header.drop va.toNat,
          netEdit := x.netEdit + n.toNat }) ∧
      (0 < vb.toNat → vb.toNat ≤ 64 → va.toNat + vb.toNat ≤ x.header.length → -64 ≤ x.netEdit - vb.toNat →
        x.netEdit - vb.toNat ≤ 64 →
        marks (.fdel e a b) { x with
          header := x.header.take va.toNat ++ x.header.drop (va.toNat + vb.toNat),
          netEdit := x.netEdit - vb.toNat }) ∧
      (let w := ((f.data ++ fcs f.data).drop va.toNat).take 192
       f.coming = false → s.chip.readsPoison f = false → gives (.fwin e d a) { x with extra := w, extraValid := w.length } (BitVec.ofNat 64 w.length)) ∧
      marks (.cseal e a) { x with sealMark := some (va.setWidth 32) } ∧
      (s.chip.earlyWait e = false → x.copenDone = false → (f.early.getD {}).opened = true → (f.early.getD {}).handle = va.setWidth 32 →
        gives (.copen e d a) { x with copenDone := true, bound := some (va.setWidth 32) } 0) ∧
      (s.chip.earlyWait e = false → x.copenDone = true ∨ (f.early.getD {}).opened = false → gives (.copen e d a) { x with copenDone := true } 1) ∧
      (va.toNat ≤ 255 → marks (.tdep e a) { x with depMark := some va.toNat }) ∧
      (s.chip.ctl.dbg = 0 → issues (.tnow e d 0) s fun c =>
        s.chip.computed c e d (BitVec.ofNat 64 (packTime s.chip.tim.clock s.chip.holdover))) ∧
      (issues (.tnow e d 1) s fun c => s.chip.computed c e d (BitVec.ofNat 64 s.chip.tim.clock.sec)) ∧
      (issues (.tnow e d 2) s fun c => s.chip.computed c e d s.chip.tim.elapsed)

/-- R254, R312, R314, R315, Table 12.10: the lookups and the meter start an offload whose result the thread awaits,
`cinc` counts, and a result that comes reaches its register and lets the thread go on. The lookups' results are stated
for the debug level D0, at which no performance counter moves. -/
def Obligations.FrameOffloads : Prop :=
  ∀ (s : State) (m : Fin 256) (t : Fin 4) (d a b : Fin 32),
    let e := Eng.ladle m t
    let x := s.chip.fctx e
    let f := s.chip.threadFrame e
    let va := (s.chip.gGet e a).toNat
    let vb := (s.chip.gGet e b).toNat
    let pc := (s.chip.ectx e).pc + 4
    (∀ (r : Nat) (v : DWord), (s.chip.ectx e).offload = some (r, v) → r < 32 → completes (.offloadResult m t) s fun c =>
      (c.ectx e).offload = none ∧ (∀ q : Fin 32, c.gGet e q = if q.val = r ∧ r ≠ 0 then v else s.chip.gGet e q) ∧
      (∀ k, k ≠ engKey e → c.ectxAt k = s.chip.ectxAt k) ∧
      c = { s.chip with eng := { s.chip.eng with ctx := c.eng.ctx } }) ∧
    (s.chip.canIssue e →
      (s.chip.ctl.dbg = 0 → va < 4096 → s.chip.getB F.FWD_PORT_CFG_learn [f.entry * 4 + f.sub] = false →
        (∀ o ∈ [0, 6], ∀ w ∈ fwdSlots (s.chip.fwdKey (f.entry * 4 + f.sub) va (slice f.data o 6)),
          SMap.get (fun _ => 0) s.chip.fwd.bad w = 0) →
        issues (.lkpFwd e d a b []) s fun c =>
          let k := f.entry * 4 + f.sub
          let found := (s.chip.fwdFind (s.chip.fwdKey k va (slice f.data 0 6))).bind s.chip.fwd?
          let dest := match found with
            | some y => y.dest.toNat
            | none => s.chip.getF F.FWD_DOM_FLOOD_dest [s.chip.getF F.FWD_PORT_CFG_domain [k]]
          (c.ectx e).offload = some (d.val, BitVec.ofNat 64 (dest + 2 ^ 32 * b2n found.isSome + 2 ^ 33 * 6)) ∧
          (c.fctx e).lkpDone = true ∧ (c.ectx e).pc = pc ∧ c.fwd = s.chip.fwd ∧ c.mem = s.chip.mem) ∧
      (va ≤ 32767 → (s.chip.chan va).txCur = false → issues (.lkpSa e d a true) s fun c =>
          (c.ectx e).offload = some (d.val, 0) ∧ (c.ectx e).pc = pc ∧ s.chip.onlyEngine c) ∧
      (∀ i : Nat, va ≤ 32767 → (s.chip.chan va).txCur = true → (s.chip.chan va).current = some i →
        issues (.lkpSa e d a true) s fun c =>
          (c.ectx e).offload = some (d.val, BitVec.ofNat 64 ((s.chip.saHandle i).toNat + 2 ^ 32 +
            2 ^ 33 * (s.chip.sa i).an + 2 ^ 35 * va)) ∧
          (c.ectx e).pc = pc ∧ s.chip.onlyEngine c) ∧
      (∀ y : Early, f.early = some y → y.hit = true → issues (.lkpSa e d a false) s fun c =>
        s.chip.computed c e d (BitVec.ofNat 64 (y.handle.toNat + 2 ^ 32 + 2 ^ 33 * y.an + 2 ^ 35 * y.channel +
          (2 ^ 50 * b2n y.opened + 2 ^ 51 * b2n y.testFail)))) ∧
      (va ≤ 16383 → vb ≤ 2 → x.metered < 4 → issues (.mtr e d a b) s fun c =>
        ∃ col, col ≤ 2 ∧ (c.ectx e).offload = some (d.val, BitVec.ofNat 64 col) ∧ (c.fctx e).colour = col ∧
          (c.fctx e).metered = x.metered + 1 ∧
          (∀ i, c.cntGet false i =
            if i = 0x34000 + va * 8 + 2 * col then s.chip.cntGet false i + 1
            else if i = 0x34000 + va * 8 + 2 * col + 1 then s.chip.cntGet false i + BitVec.ofNat 64 (f.data.length + 4)
            else s.chip.cntGet false i)) ∧
      (va ≤ 65535 → issues (.cinc e a b) s fun c =>
        (∀ i, c.cntGet false i =
          if i = 0x60000 + 2 * va then s.chip.cntGet false i + 1
          else if i = 0x60000 + 2 * va + 1 then s.chip.cntGet false i + s.chip.gGet e b
          else s.chip.cntGet false i) ∧
        s.chip.branched { c with cnt := s.chip.cnt } e pc))

/-- R294, R310, R311: a free thread of the port's quadrant takes a frame of the ingress pool, with the summary, the
length and port, and the time in g1 to g3; `fdrop` ends the pass and drops the frame as PROG_DROP; `femit` of a frame
that the program neither opened nor sealed, to an exception-in ring with a free buffer, ends the pass with the frame
gone. -/
def Obligations.FramePass : Prop :=
  ∀ (s : State) (m : Fin 256) (t : Fin 4) (n : Nat) (f : Frame), s.chip.frame n = some f →
    let e := Eng.ladle m t
    (∀ i : Image, f.stage = .pool → (s.chip.ectx e).running = false → s.chip.ladleFree m.val = true →
      f.entry % 8 / 2 = m.val / 64 → s.chip.running = true → s.chip.inMode [.rest, .lockdown] = false →
      s.chip.readsPoison f = false → (s.chip.target (m.val / 64)).active = some i →
      s.chip.ctl.dbg = 0 →
      completes (.ladleThreadStart m t n) s fun c =>
        let whole := f.data ++ fcs f.data
        let win := min (s.chip.hdrWin f.entry f.sub) whole.length
        (c.ectx e).running = true ∧ (c.ectx e).pc = i.entry ∧ (c.ectx e).issued = 0 ∧
        c.gGet e 1 = BitVec.ofNat 64 f.summary ∧
        c.gGet e 2 = BitVec.ofNat 64 (whole.length + 2 ^ 16 * f.entry + 2 ^ 21 * f.sub) ∧
        c.gGet e 3 = BitVec.ofNat 64 (packTime f.ts s.chip.holdover) ∧
        (∀ q : Fin 32, q ≠ 1 → q ≠ 2 → q ≠ 3 → c.gGet e q = s.chip.gGet e q) ∧
        c.fctx e = { frame := n, header := whole.take win, rest := whole.drop win } ∧
        c.frame n = some { f with stage := .ladle (engKey e) } ∧ c.regs = s.chip.regs ∧ c.mem = s.chip.mem) ∧
    (s.chip.canIssue e → (s.chip.fctx e).frame = n → f.stage = .ladle (engKey e) → f.coming = false → f.early = none → f.host = none →
      (f.isIngot = true → f.verdict.getD 0 = 0) →
      f.queue = none → (s.chip.fctx e).redDrop = false → (s.chip.fctx e).excess = false →
      issues (.fdrop e) s fun c =>
        c.ectx e = { g := (s.chip.ectx e).g } ∧ c.fctx e = {} ∧ c.frame n = none ∧
        (∀ i, c.cntGet false i = if i = schedOf f.entry f.sub * 0x80 + 0x25 then s.chip.cntGet false i + 1
          else s.chip.cntGet false i) ∧ c.mem = s.chip.mem) ∧
    (∀ a b : Fin 32, s.chip.canIssue e → (s.chip.fctx e).frame = n → f.stage = .ladle (engKey e) →
      f.coming = false → s.chip.earlyWait e = false → f.early = none → s.chip.readsPoison f = false →
      f.queue = none → (s.chip.fctx e).redDrop = false → (s.chip.fctx e).excess = false →
      (s.chip.fctx e).sealMark = none → (s.chip.fctx e).bound = none →
      64 ≤ (s.chip.fctx e).header.length + (s.chip.fctx e).rest.length →
      (s.chip.fctx e).header.length + (s.chip.fctx e).rest.length ≤ 16000 →
      (s.chip.gGet e a).toNat % 2 ^ 32 % 8 = 3 → (s.chip.gGet e a).toNat % 2 ^ 32 < 2 ^ 7 →
      issues (.femit e a b false) s fun c =>
        (c.ectx e).running = false ∧ c.frame n = none ∧ c.mem = s.chip.mem)

/-- R351, R409: the core test takes a Ladle out of the pool and returns it; a quadrant's sampling writes an instruction
to its buffer; a performance counter that the cycles drive wraps at its
largest value and sets its overflow bit. -/
def Obligations.LadleTestAndSampling : Prop :=
  ∀ (s : State) (m : Fin 256) (t : Fin 4),
    let q := m.val / 64
    (s.chip.running = true → s.chip.eng.testing = none → s.chip.ladleFree m.val = true →
      completes (.ladleCoreTest m) s fun c =>
        c = { s.chip with eng := { s.chip.eng with testing := some m.val } }) ∧
    (s.chip.eng.testing = some m.val → completes (.ladleCoreTestEnd m true) s fun c =>
      c = { s.chip with eng := { s.chip.eng with testing := none } }) ∧
    (∀ (w : Word) (addr : BitVec 17) (n : Nat), s.chip.ctl.dbg ≠ 0 →
      s.chip.eng.sampled.contains ⟨m.val, t.val, w, addr.toNat⟩ = true →
      s.chip.getB F.LAD_SMP_CFG_full [q] = false → s.chip.getF F.LAD_SMP_PTR_next [q] < 4095 →
      completes (.instructionSample m t w addr n) s fun c =>
        let i := s.chip.getF F.LAD_SMP_PTR_next [q]
        c.getF F.LAD_SMP_LO_entry [q, i] = w.toNat ∧
        c.getF F.LAD_SMP_HI_entry [q, i] = addr.toNat + 2 ^ 17 * (m.val % 64) + 2 ^ 23 * t.val + 2 ^ 25 * min 127 n ∧
        c.getF F.LAD_SMP_PTR_next [q] = i + 1 ∧
        c.eng = { s.chip.eng with sampled := s.chip.eng.sampled.erase ⟨m.val, t.val, w, addr.toNat⟩ } ∧
        c.mem = s.chip.mem) ∧
    (s.chip.ctl.dbg ≠ 0 → ∀ (j : Fin 4) (i : Fin 4),
      s.chip.getF (ladSel i.val) [j.val, m.val % 64] ∈ [0x01, 0x03, 0x08] →
      completes (.perfCounterWrap j (.ladle ⟨m.val % 64, Nat.mod_lt _ (by decide)⟩ i)) s fun c =>
        c.getF F.LAD_CNT_LO_count [j.val, m.val % 64, i.val] = 0 ∧
        c.getF F.LAD_CNT_HI_count [j.val, m.val % 64, i.val] = 0 ∧
        bit (c.getF F.LAD_STAT_ovf [j.val, m.val % 64]) i.val = true)

/-! ### Fleli: keys, orders, the vigil program -/

/-- R318 to R321, Table 12.12: the derivation program moves and clears transients, reads handles and attributes, starts
CMAC requests for `kderive` and `kcmac`, opens a blob with `kunwrap`, and stages a key with `kout`; the completion of
the last request gives the instruction's result, or lets an order that waits for a key check value write its statement. A
link's job on engine 1 (R332) is a statement of the links. -/
def Obligations.KeyProgramInstructions : Prop :=
  ∀ (s : State) (j : Fin 2) (d a b : Fin 32),
    let e := Eng.ksq j
    let x := s.chip.ksqCtx j.val
    let pc := (s.chip.ectx e).pc + 4
    let base := 0x20000000 + j.val * 0x1000
    let vb := (s.chip.gGet e b).toNat
    let sets := fun (i : Instr) (y : KsqCtx) (r : Nat) => issues i s fun c =>
      c.ksqCtx j.val = y ∧ s.chip.wrote c e d (BitVec.ofNat 64 r) ∧ s.chip.stepped c e pc ∧ c.mem = s.chip.mem ∧
      c.vlt = s.chip.vlt ∧ c.regs = s.chip.regs
    (s.chip.canIssue e →
      (∀ (m : BitVec 5) (t : Transient), 8 ≤ a.val → a.val < 16 → 8 ≤ m.toNat → m.toNat < 16 →
        (x.transient a.val = some t → sets (.kmov e d a m) (x.setTransient m.toNat (some t)) 0) ∧
        (x.transient a.val = none → sets (.kmov e d a m) x 0x42)) ∧
      (8 ≤ a.val → a.val < 16 → issues (.kclr e a) s fun c =>
        c.ksqCtx j.val = x.setTransient a.val none ∧ (∀ q, c.gGet e q = s.chip.gGet e q) ∧ s.chip.stepped c e pc) ∧
      (a.val < 16 → issues (.khnd e d a) s fun c =>
        s.chip.computed c e d (if a.val < 8 then (x.handle a.val).setWidth 64 else 0)) ∧
      (a.val < 8 → issues (.kinfo e d a) s fun c =>
        let k := s.chip.slot (slotOf (x.handle a.val))
        s.chip.computed c e d (BitVec.ofNat 64 (k.type.toNat + 4 * b2n k.klen + 8 * b2n k.inheritRevoke +
          16 * b2n k.ephemeral + 32 * (k.function % 8) + 2 ^ 8 * k.state.toNat + 2 ^ 10 * b2n k.bound +
          2 ^ 12 * k.depth + 2 ^ 32 * k.count))) ∧
      (∀ m : BitVec 5, s.chip.pan.stopped = false → a.val < 8 → 8 ≤ m.toNat % 16 →
        1 ≤ bits vb 31 16 → bits vb 31 16 ≤ 253 → vb % 65536 + bits vb 31 16 ≤ 0x1000 →
        s.chip.checkUse (x.handle a.val) 2 = 0 →
        issues (.kderive e d a b m) s fun c =>
          let k := s.chip.slot (slotOf (x.handle a.val))
          let len := if 16 ≤ m.toNat then 256 else 128
          let key := kdf k.klen k.key (s.chip.memBytes (base + vb % 65536) (bits vb 31 16)) len
          (c.ksqCtx j.val).cmac = some (.derive d.val (m.toNat % 16)
            { key := BitVec.ofNat 256 key, klen := decide (16 ≤ m.toNat), parent := x.handle a.val }) ∧
          (∀ q, c.gGet e q = s.chip.gGet e q) ∧ (c.ectx e).pc = pc) ∧
      (s.chip.pan.stopped = false → a.val < 8 → bits vb 31 16 ≤ 256 → vb % 65536 + bits vb 31 16 ≤ 0x1000 →
        bits vb 47 32 + 16 ≤ 0x1000 → s.chip.checkUse (x.handle a.val) 3 = 0 →
        issues (.kcmac e d a b 0) s fun c =>
          let k := s.chip.slot (slotOf (x.handle a.val))
          (c.ksqCtx j.val).cmac = some (.tagWrite d.val (bits vb 47 32)
            (Config.cmac k.klen k.key (s.chip.memBytes (base + vb % 65536) (bits vb 31 16)))) ∧
          (∀ q, c.gGet e q = s.chip.gGet e q) ∧ (c.ectx e).pc = pc) ∧
      (∀ m : BitVec 5, a.val < 8 → 8 ≤ m.toNat → m.toNat < 16 →
        let kek := x.handle a.val
        let k := s.chip.slot (slotOf kek)
        let n := beNat (slice (s.chip.memBytes (base + vb % 65536) 4) 2 2)
        vb % 65536 + 4 + n ≤ 0x1000 → s.chip.checkUse kek 1 = 0 → 2 ≤ k.count → k.depth ≤ 7 →
        issues (.kunwrap e d a b m) s fun c =>
          (c.ectx e).pc = pc ∧ ∀ y, openBlob k (s.chip.memBytes (base + vb % 65536) (4 + n)) = some y →
            (c.ksqCtx j.val).transient m.toNat = some {
              key := y.key, klen := y.klen, unwrapped := true, type := y.type, inheritRevoke := y.inheritRevoke,
              ephemeral := y.ephemeral, count := y.count, parent := kek, depth := k.depth + 1 } ∧
            c.slot (slotOf kek) = { k with count := k.count - 1 } ∧ s.chip.wrote c e d 0) ∧
      (∀ (m : BitVec 5) (t : Transient) (at' : KeyAttr) (r : Slot), 8 ≤ a.val → a.val < 16 → m.toNat < 4 →
        let h := x.handle (4 + m.toNat)
        x.transient a.val = some t → attrOf (s.chip.gGet e b) = some at' → at'.klen = t.klen → h ≠ 0 →
        s.chip.checkTarget h = 0 → s.chip.koutRoom x (slotOf h) = 0 → s.chip.koutRecord x t at' = .ok r →
        issues (.kout e d a b m) s fun c =>
          c.ord.stagedKsq = s.chip.ord.stagedKsq ++
            [.key (slotOf h) r (s.chip.heldGen (slotOf h)) (some r.parent) stageModes] ∧
          c.ksqCtx j.val = { x with targets := x.targets ++ [slotOf h] } ∧ s.chip.wrote c e d 0 ∧
          c.vlt = s.chip.vlt ∧ (c.ectx e).pc = pc)) ∧
    (∀ (k : Nat) (q : PanReq) (r : Nat) (differs : Bool),
      (s.chip.turnOf fun y => y.kind = .cmac && y.subject = j.val) = some (k, q) → (j = 1 → s.chip.prs.jobs = []) →
      let p := s.chip.panDone k
      (p.ksqCtx j.val).cmac = some (.tagCompare r differs) → (p.ksqCtx j.val).cmacFail = false → r < 32 →
      (p.findReq fun y => y.kind = .cmac && y.subject = j.val) = none →
      completes (.cmacComplete j) s fun c =>
        (c.ksqCtx j.val).cmac = none ∧
        (∀ g : Fin 32, c.gGet e g = if g.val = r ∧ r ≠ 0 then BitVec.ofNat 64 (b2n differs) else p.gGet e g)) ∧
    (∀ (k : Nat) (q : PanReq) (out : DWord) (data : Bytes),
      (s.chip.turnOf fun y => y.kind = .cmac && y.subject = 0) = some (k, q) →
      ((s.chip.panDone k).findReq fun y => y.kind = .cmac && y.subject = 0) = none →
      (s.chip.ksqCtx 0).cmac = none → (s.chip.ksqCtx 0).cmacFail = false →
      s.chip.ord.wait = .cmac → s.chip.ord.cmacOut = some (out, data) → s.chip.ord.callReg = none →
      s.chip.ord.busy = false → s.chip.dmaAllowed 0 = true → completes (.cmacComplete 0) s fun c =>
        c.out = s.chip.out ++ [.hostWrite 0 out.toNat data] ∧ c.ord.wait = .none ∧ c.ord.cmacOut = none ∧
        c.ord.res = {} ∧ c.vlt = s.chip.vlt)

/-- R322 to R324, Table 12.13: an order program calls an order, stages a register write and a change of mode, commits,
aborts, and waits for the epoch or the time. An unknown order code gives BAD_ORDER. -/
def Obligations.OrderProgramInstructions : Prop :=
  ∀ (s : State) (d a b : Fin 32) (dma : Option Bytes),
    let e := Eng.order
    let va := s.chip.gGet e a
    let pc := (s.chip.ectx e).pc + 4
    let gives := fun (i : Instr) (v : Nat) (post : Chip → Prop) => issues i s fun c =>
      s.chip.wrote c e d (BitVec.ofNat 64 v) ∧ s.chip.stepped c e pc ∧ c.mem = s.chip.mem ∧ post c
    (s.chip.canIssue e →
      (va = 0x0504 → (s.chip.gGet e b).toNat ≤ 0x4000 → s.chip.inMode (.erased :: infoModes) = true →
        gives (.ocall e d a b dma) 0 fun c =>
          c.ord.lastRet = (List.range 32).foldl (fun n i => n + s.chip.kidState i * 2 ^ (3 * i)) 0 ∧ c.buf = s.chip.buf) ∧
      (paramSize va.toNat = none → gives (.ocall e d a b dma) 0x53 fun c => c.vlt = s.chip.vlt) ∧
      (va.toNat % 4 = 0 → (lookupReg va.toNat).isSome = true → s.chip.ord.regWrites.length < 256 →
        gives (.otw e d a b) 0 fun c =>
          c = { s.chip with
            eng := c.eng,
            ord := { s.chip.ord with
              regWrites := s.chip.ord.regWrites ++ [(va.toNat, (s.chip.gGet e b).setWidth 32)] } }) ∧
      (256 ≤ s.chip.ord.regWrites.length → va.toNat % 4 = 0 → (lookupReg va.toNat).isSome = true →
        gives (.otw e d a b) 0x4A fun c => c.ord = s.chip.ord) ∧
      (va = 9 → s.chip.ctl.d3Taint = false → (∀ y ∈ s.chip.ord.staged, ∀ f t r, y ≠ .modeSet f t r) →
        s.chip.modeCheck s.chip.ctl.mode .maintenance none = 0 →
        gives (.omode e d a) 0 fun c =>
          c.ord.staged = s.chip.ord.staged ++ [.modeSet s.chip.ctl.mode .maintenance none] ∧ c.ctl = s.chip.ctl) ∧
      (∀ slot rec, s.chip.ord.staged = [.key slot rec none none stageModes] → s.chip.ord.regWrites = [] →
        s.chip.ord.heldFill = false → s.chip.inMode stageModes = true → (s.chip.slot slot).state = 0 →
        (s.chip.slot slot).bound = false → gives (.ocommit e d) 0 fun c =>
          c.slot slot = { rec with generation := nextGen (s.chip.slot slot).generation } ∧ c.ord.staged = []) ∧
      (issues (.oabort e) s fun c =>
        c.ord.staged = [] ∧ c.ord.regWrites = [] ∧ c.ord.stagedKsq = [] ∧ c.vlt = s.chip.vlt ∧ c.ctl = s.chip.ctl ∧
        (∀ q, c.gGet e q = s.chip.gGet e q) ∧ s.chip.stepped c e pc) ∧
      (va.toNat ≤ s.chip.tim.epoch → va.toNat < 2 ^ 40 → gives (.owait e d a 1) 0 fun c => c.ord = s.chip.ord) ∧
      (s.chip.nowUs < va.toNat → va.toNat * 1000 < 2 ^ 64 → issues (.owait e d a 0) s fun c =>
        c.ord.owait = some (d.val, false, va.toNat, s.chip.nowUs + 1000000) ∧ (∀ q, c.gGet e q = s.chip.gGet e q))) ∧
    (∀ (r : Nat) (v limit : Nat), s.chip.ord.owait = some (r, true, v, limit) → v ≤ s.chip.tim.epoch → r < 32 →
      completes .owaitResume s fun c =>
        c.ord.owait = none ∧ ∀ g : Fin 32, c.gGet e g = if g.val = r ∧ r ≠ 0 then 0 else s.chip.gGet e g)

/-- R325, R345 to R347, Table 12.14: a latched alarm starts a run of the vigil program, which senses, erases both seal
words, sets sticky flags and writes words 8 to 511 of the tamper note. Without an owner's program the built-in one
erases the seal words and sets the flags of its causes. -/
def Obligations.VigilProgram : Prop :=
  ∀ (s : State) (d a b : Fin 32),
    let e := Eng.vigil
    let pc := (s.chip.ectx e).pc + 4
    let va := s.chip.gGet e a
    let vb := s.chip.gGet e b
    let senses := fun (m : BitVec 5) (v : DWord) =>
      issues (.vsense e d m) s fun c => s.chip.computed c e d v
    (s.chip.canIssue e → d.val < 8 → a.val < 8 → b.val < 8 →
      senses 0 (if s.chip.causeSet 0 = true then 1 else 0) ∧ senses 1 (if s.chip.filt 1 = true then 1 else 0) ∧
      senses 2 (BitVec.ofInt 64 s.chip.flt.tempLow) ∧ senses 4 (BitVec.ofNat 64 s.chip.eng.vigilCauses) ∧
      senses 5 (s.chip.flt.flags.setWidth 64) ∧
      (issues (.verase e) s fun c =>
        c.vlt = { s.chip.vlt with
          sealA := none, sealB := none, sealSel := false, rotStaged := false, storeV := 0, storePending := false,
          digestConf := 0, digestPend := 0 } ∧ c.eng.vigilErased = true ∧
        s.chip.stepped c e pc ∧ c.flt = s.chip.flt) ∧
      (issues (.vflag e a) s fun c =>
        c.flt = { s.chip.flt with flags := s.chip.flt.flags ||| va.setWidth 32 } ∧ s.chip.stepped c e pc ∧
        c.vlt = s.chip.vlt) ∧
      (8 ≤ va.toNat → va.toNat ≤ 511 → issues (.vnote e a b) s fun c =>
        (∀ w, c.noteWord w = if w = va.toNat then vb.setWidth 32 else s.chip.noteWord w) ∧ s.chip.stepped c e pc) ∧
      (va.toNat < 8 ∨ 511 < va.toNat → issues (.vnote e a b) s fun c =>
        (∀ w, c.noteWord w = s.chip.noteWord w) ∧ s.chip.stepped c e pc)) ∧
    (s.chip.eng.vigilPend ≠ 0 → (s.chip.ectx e).running = false → s.chip.ctl.mode = .vigil →
      (∀ i, (s.chip.target 9).active = some i → s.chip.eng.vigilCrcBad = false → completes .vigilRunStart s fun c =>
        (c.ectx e).running = true ∧ (c.ectx e).pc = 0 ∧ c.gGet e 1 = BitVec.ofNat 64 s.chip.eng.vigilPend ∧
        c.gGet e 2 = 0 ∧ c.eng.vigilPend = 0 ∧ c.eng.vigilCauses = s.chip.eng.vigilPend ∧ c.vlt = s.chip.vlt) ∧
      ((s.chip.target 9).active = none → completes .vigilRunStart s fun c =>
        c.vlt = { s.chip.vlt with
          sealA := none, sealB := none, sealSel := false, rotStaged := false, storeV := 0, storePending := false,
          digestConf := 0, digestPend := 0 } ∧
        c.flt.flags = s.chip.flt.flags ||| BitVec.ofNat 32 s.chip.eng.vigilPend ∧ c.eng.vigilPend = 0 ∧
        (c.ectx e).running = false))

/-! ### The vault (chapter 05) -/

/-- R131, R132: the key orders stage what they name, or await the generator, or start a derivation run; nothing but the
order engine, and for a wrapped key its KEK's count, changes before COMMIT. -/
def Obligations.KeyOrdersStage : Prop :=
  ∀ (s : State) (h : Word) (attr : DWord) (a : KeyAttr), s.chip.orderFree →
    let modes := fun (l : List Mode) => s.chip.inMode l = true
    let target := slotOf h
    let fits := attrOf attr = some a ∧ s.chip.ctl.d3Taint = false ∧ s.chip.checkTarget h = 0
    let room := s.chip.stagedCount < 64 ∧ s.chip.stagedSlot target = false
    (∀ key : BitVec 256, modes loadModes → fits → room → (a.klen = false → key.toNat % 2 ^ 128 = 0) →
      completes (.keyLoadClear h attr key) s fun c =>
        c = (s.chip.plusStaged (.key target (attrRecord a (if a.klen then key else key >>> 128) 1)
          (s.chip.heldGen target) none loadModes)).ended {}) ∧
    (∀ (kek : Word) (at' : DWord) (b : Bytes),
      let k := s.chip.slot (slotOf kek)
      modes stageModes → fits → s.chip.ord.staged = [] → s.chip.dmaAllowed 0 = true → s.chip.checkUse kek 1 = 0 →
      2 ≤ k.count → k.depth ≤ 7 →
      completes (.keyUnwrap h kek attr at' (some b)) s fun c =>
        c.slot (slotOf kek) = { k with count := k.count - 1 } ∧ ∀ x, openBlob k b = some x → c = ((s.chip.setSlot (slotOf kek) { k with count := k.count - 1 }).plusStaged
          (.key target { blobRecord x a.function 2 with parent := kek, depth := k.depth + 1 } (s.chip.heldGen target)
            (if kek = 0 then none else some kek) stageModes)).ended {}) ∧
    (∀ (b : FillBlob) (x : Blob), s.chip.heldBlob = some b → b.clear = true → s.chip.ctl.mode = .provision →
      s.chip.pinValid = true → plainBlob b.data = some x → fits → room →
      completes (.keyFill h attr) s fun c =>
        c.ord.staged = s.chip.ord.staged ++
          [.key target (blobRecord x a.function 1) (s.chip.heldGen target) none loadModes] ∧
        c.ord.heldFill = true ∧ c.ord.res = {} ∧ c = { s.chip with ord := c.ord }) ∧
    (modes stageModes → fits → s.chip.entFailed = false → completes (.keyGenerate h attr) s fun c =>
      c = s.chip.awaits 2 (if a.klen then 2 else 1) (.keyGen h attr)) ∧
    (∀ force : Word, modes stageModes → force.toNat ≤ 1 → fnOf h < 66 → s.chip.ord.staged = [] →
      ((s.chip.slot target).state = 1 → genOf h = (s.chip.slot target).generation) →
      ((s.chip.slot target).bound = true → force = 1) →
      completes (.keyRelease h force) s fun c =>
        c = (s.chip.plusStaged (.release target (s.chip.slot target).generation (decide (force = 1)))).ended {}) ∧
    (∀ (slot entry : Byte) (n : BitVec 16) (inputs targets : List Word) (context : Bytes) (i : Image) (pc : Nat),
      modes stageModes → slot.toNat ≤ 3 → n.toNat ≤ 240 → (s.chip.target (4 + slot.toNat)).active = some i →
      i.entries[entry.toNat]? = some pc → ((inputs.take 4 ++ targets.take 4).all fun x => decide (fnOf x < 66)) = true →
      completes (.keyDerive slot entry n inputs targets context) s fun c =>
        (c.ectxAt 1024).running = true ∧ (c.ectxAt 1024).pc = pc ∧ c.gGet (.ksq 0) 1 = 0 ∧
        c.gGet (.ksq 0) 2 = BitVec.ofNat 64 n.toNat ∧ (c.ksqCtx 0).slot = slot.toNat ∧
        (∀ k, k < 4 → (c.ksqCtx 0).handle k = inputs.getD k 0 ∧ (c.ksqCtx 0).handle (4 + k) = targets.getD k 0) ∧
        c.ord.wait = .ksq ∧ c.memBytes 0x20000000 256 = slice i.table 0 256 ∧
        c.memBytes 0x20000100 240 = slice context 0 240 ∧ c.vlt = s.chip.vlt)

/-- R139, R140, R142 to R144, R371: KEY_INFO and ATTEST write their statement, once the CMAC request of a VALID slot's key
check value has completed, which fails while traffic keys are disabled; while the Pans are stopped no request is made (the
model's choice, log entry 48); an export and a seal rotation await the
generator, CONFIRM_STORE makes the pending store the confirmed one and completes a staged rotation, LOAD_STORE restores
the slots of a good blob. -/
def Obligations.StoreAndStatementOrders : Prop :=
  ∀ (s : State) (h : Word) (out : DWord) (outLen : Word) (challenge : Bytes), s.chip.orderFree →
    let k := s.chip.slot (slotOf h)
    let shut := s.chip.ctl.tkDis && k.type = 0
    let written := fun (i : Instr) (data : Bytes) =>
      (k.state ≠ 1 ∨ (s.chip.pan.stopped = true ∧ shut = false) → completes i s fun c =>
        c = (s.chip.gave out.toNat data).ended {}) ∧
      (k.state = 1 → shut = true → completes i s fun c => c = s.chip.ended (.of 0x42)) ∧
      (k.state = 1 → s.chip.pan.stopped = false → shut = false → completes i s fun c =>
        c.ord.wait = .cmac ∧ c.ord.cmacOut = some (out, data) ∧ c.out = s.chip.out ∧ c.vlt = s.chip.vlt ∧
        ∃ n r, c.panReq n = some r ∧ r.kind = .cmac ∧ r.subject = 0)
    (s.chip.inMode infoModes = true → s.chip.dmaAllowed 0 = true → fnOf h < 66 →
      genOf h = (s.chip.slot (slotOf h)).generation → written (.keyInfo h out) (s.chip.keyStatement h)) ∧
    (s.chip.inMode (infoModes ++ [.erased]) = true → s.chip.dmaAllowed 0 = true → 1120 ≤ outLen.toNat →
      (h = 0 → completes (.attest h challenge out outLen) s fun c =>
        c = (s.chip.gave out.toNat (s.chip.statement h challenge)).ended {}) ∧
      (h ≠ 0 → s.chip.checkKey h = 0 → written (.attest h challenge out outLen) (s.chip.statement h challenge))) ∧
    (s.chip.inMode storeModes = true → s.chip.vlt.storeV ≠ 0xFFFFFFFF → s.chip.storeLen ≤ outLen.toNat →
      s.chip.entFailed = false → completes (.exportStore out outLen) s fun c =>
        c = s.chip.awaits 1 1 (.exportStore out.toNat outLen.toNat)) ∧
    (s.chip.inMode storeModes = true → s.chip.vlt.storePending = true → s.chip.vlt.storeV + 1 < 0xFFFFFFFF →
      s.chip.logs → completes .confirmStore s fun c =>
        c.vlt = { s.chip.vlt with
          storeV := s.chip.vlt.storeV + 1, digestConf := s.chip.vlt.digestPend, storePending := false,
          sealSel := s.chip.vlt.sealSel != s.chip.vlt.rotStaged, rotStaged := false } ∧
        s.chip.logged c ((if s.chip.vlt.rotStaged then [⟨Ev.SEAL_ROTATED, 0x0D0, [], false⟩] else []) ++
          [⟨Ev.STORE_CONFIRMED, 0x0D0, [], false⟩]) ∧ c.ord.res = {}) ∧
    (∀ (at' : DWord) (b : Bytes), s.chip.ctl.mode = .provision → s.chip.ctl.d3Taint = false →
      s.chip.dmaAllowed 0 = true → b.length = 112 → slice b 0 6 = beBytes 4 0x594C5354 ++ beBytes 2 1 →
      beNat (slice b 8 4) = s.chip.vlt.storeV → beNat (slice b 12 4) = 1 → digest64 b = s.chip.vlt.digestConf →
      s.chip.vlt.storePending = false →
      let key := s.chip.storeKey (s.chip.activeSeal.getD 0) s.chip.vlt.storeV
      let iv : BitVec 96 := BitVec.ofNat 96 (beNat (slice b 16 12))
      completes (.loadStore at' 112 (some b)) s fun c =>
        let e := slice (gcmXor true key iv (slice b 28 68)) 0 68
        let i := beNat (slice e 0 4) % 2 ^ 17
        slice b 96 16 = beBytes 16 (Config.gcmTag true key iv (slice b 0 16) (slice b 28 68)).toNat →
        (∀ k, c.slot k = if k = i then slotOfBytes (e.drop 4) else s.chip.slot k) ∧
        c.vlt.storeV = s.chip.vlt.storeV ∧ c.ord.res = {}) ∧
    (s.chip.inMode [.provision, .maintenance] = true → s.chip.entFailed = false → completes .sealRotate s fun c =>
      c = s.chip.awaits 2 2 .sealRotate)

/-- R147: OWNER_TRANSFER with an owner authorisation and a PIN token consumes both and starts the zeroization; at its
completion the lowest unprogrammed ownership slot is programmed whole with the new owner's hash, and no other slot
changes. -/
def Obligations.OwnerTransferProgramsNextSlot : Prop :=
  ∀ (s : State) (hash : Bytes) (i : Nat), s.chip.nextOwner = some i →
    (s.chip.orderFree → s.chip.ctl.mode = .maintenance → s.chip.ctl.zeroizing = none → s.chip.authHere 0x20 = true →
      s.chip.pinValid = true → completes (.ownerTransfer hash) s fun c =>
        c.ctl.transfer = some (BitVec.ofNat 384 (beNat (slice hash 0 48))) ∧ c.ord.wait = .transfer ∧
        c.ctl.zeroizing = some (0, s.chip.nowUs) ∧ c.ctl.auth = none ∧ c.ctl.pinOk = none ∧
        c.vlt.owners = s.chip.vlt.owners ∧ c.vlt.sealA = none ∧ c.vlt.sealB = none) ∧
    (∀ h cause t, s.chip.ctl.transfer = some h → s.chip.ctl.zeroizing = some (cause, t) →
      completes .zeroizationComplete s fun c =>
        c.ownerSlot i = { hash := h, crcGood := true, started := true, done := true } ∧
        (∀ k, k ≠ i → c.ownerSlot k = s.chip.ownerSlot k) ∧ c.ctl.transfer = none ∧ c.ctl.zeroizing = none)

/-- R132: COMMIT applies what is staged: a staged key takes its slot with the next generation, a staged release makes its
slot INVALID and starts the walk; with nothing staged, nothing changes but the order's result. -/
def Obligations.CommitAppliesStaged : Prop :=
  ∀ (s : State), s.chip.orderFree → s.chip.ord.regWrites = [] → s.chip.ord.heldFill = false →
    s.chip.inMode stageModes = true →
    (∀ slot record, s.chip.ord.staged = [.key slot record none none stageModes] → (s.chip.slot slot).state = 0 →
      (s.chip.slot slot).bound = false → completes .commit s fun c =>
        (∀ k, c.slot k = if k = slot then { record with generation := nextGen (s.chip.slot slot).generation }
          else s.chip.slot k) ∧ c.ord.staged = [] ∧ c.ord.res = {} ∧ c.ctl = s.chip.ctl) ∧
    (∀ slot gen force, s.chip.ord.staged = [.release slot gen force] → (s.chip.slot slot).state = 1 →
      (s.chip.slot slot).generation = gen → ((s.chip.slot slot).bound = true → force = true) →
      completes .commit s fun c =>
        (∀ k, c.slot k = if k = slot then { s.chip.slot slot with state := 2 } else s.chip.slot k) ∧
        c.vlt.walkBusy = true ∧ c.ord.staged = [] ∧ c.ord.res = {})

/-- R130, R137, R146: a pass of the revocation walk revokes the VALID children that have lost their parent, and a pass
that finds none ends the walk; an uncorrectable error zeroes and invalidates its slot, a corrected one is counted, and an
exhausted use count is reported once. -/
def Obligations.VaultUpkeep : Prop :=
  ∀ (s : State) (i : Fin 131072),
    let children := (s.chip.vlt.slots.filter fun p => s.chip.orphaned p.2).map (·.1)
    (s.chip.vlt.walkBusy = true → completes .revocationWalkPass s fun c =>
      (∀ k, c.slot k = if k ∈ children then { s.chip.slot k with state := 3 } else s.chip.slot k) ∧
      c.vlt.walkBusy = !children.isEmpty ∧
      (children = [] → c = { s.chip with
        vlt := { s.chip.vlt with
        walkBusy := false, walkPasses := min 9 (s.chip.vlt.walkPasses + 1), lastPasses := min 9 (s.chip.vlt.walkPasses + 1),
        lastRevoked := s.chip.vlt.walkRevoked } })) ∧
    ((s.chip.faultChan 5 0).times = [] → (s.chip.faultChan 5 0).retired = false → 1 ≤ s.chip.getF F.FLT_CFG_perm_rate [] →
      completes (.vaultEccError i) s fun c =>
        (∀ k, c.slot k = if k = i.val then { s.chip.slot k with key := 0, state := 2 } else s.chip.slot k) ∧
        c.vlt.walkBusy = true) ∧
    (completes (.vaultEccCorrected i) s fun c =>
      s.chip.bumped c F.VLT_ECC_CNT_count [] ∧ c = { s.chip with regs := c.regs }) ∧
    ((s.chip.slot i.val).type ≠ 0 → (s.chip.slot i.val).count = 0 → (s.chip.slot i.val).state = 1 →
      SMap.get (fun _ => false) s.chip.vlt.exhaustedSaid i.val = false → s.chip.logs →
      completes (.useCountExhausted i) s fun c =>
        s.chip.logged c [⟨Ev.USE_EXHAUSTED, 0x0D0, [], false⟩] ∧
        SMap.get (fun _ => false) c.vlt.exhaustedSaid i.val = true ∧ c.vlt.slots = s.chip.vlt.slots)

/-! ### Registers (chapters 00 and 20) -/

/-- R8 to R12, R505 to R507, R571: a write reaches the fields of its register by their access codes: an RW field takes
the written value (in its shadow, for a CFG register), a locked or a read-only one keeps its own, a W1C field loses the
bits written as 1; the set, clear and toggle aliases and the bit alias change the bits they name; no other register
changes. An access of the bit alias of another width than 4 bytes, or not at a multiple of 4, is unsupported. -/
def Obligations.RegisterWrites : Prop :=
  ∀ (s : State) (off v : Word) (r : RegId) (idx : List Nat),
    let c := s.chip
    let o := off.toNat
    c.takesWrite o → lookupReg o = some (r, idx) → r ≠ .SYS_COMMIT → c.evr.intake.length + 40 ≤ 256 →
    (∀ (d : Chip) (acts : List (Nat × Nat × Nat)) (w : Nat), (d.startedCtl r idx acts).startedBlock r idx acts w = d) →
    let inForceOf := fun (d : Chip) (f : FieldRow) => d.inForce (fieldKey o f.lo)
    let seen := fun (d : Chip) (f : FieldRow) => if r.row.cfg then d.shadowed (fieldKey o f.lo) else inForceOf d f
    let written := fun (k : WriteKind) (d : Chip) =>
      d = { c with
        regs := d.regs, shadow := d.shadow, evr := d.evr, hif := { c.hif with writers := d.hif.writers } } ∧
      (∀ x, x / 32 ≠ o → d.inForce x = c.inForce x ∧ d.shadowed x = c.shadowed x) ∧
      ∀ f ∈ r.row.fields,
        let part := v.toNat / 2 ^ f.lo % 2 ^ f.w
        (f.acc = .rw ∨ f.acc = .rwl → f.legal = .any →
          (c.locked f.lock idx = false → seen d f = k.value (seen c f) part) ∧
          (c.locked f.lock idx = true → seen d f = seen c f)) ∧
        (f.acc = .rw ∨ f.acc = .rwl → ∀ a b, f.legal = .range a b → k.value (seen c f) part < a ∨ b < k.value (seen c f) part →
          seen d f = seen c f) ∧
        (r.row.cfg = true → inForceOf d f = inForceOf c f) ∧
        (f.acc = .ro ∨ f.acc = .rc → inForceOf d f = inForceOf c f) ∧
        (f.acc = .w1c → r.row.cfg = false → inForceOf d f =
          if k = .plain ∨ k = .clr then inForceOf c f - (inForceOf c f &&& part) else inForceOf c f)
    completes (.registerWrite 0 .bar0 off 4 v) s (written .plain) ∧
    completes (.aliasWrite .set off v) s (written .set) ∧
    completes (.aliasWrite .clr off v) s (written .clr) ∧
    completes (.aliasWrite .tgl off v) s (written .tgl) ∧
    (∀ at' one : Word, at'.toNat % 4 = 0 → at'.toNat < 0x800000 → at'.toNat / 128 * 4 = o →
      ∀ f ∈ r.row.fields,
        let b := at'.toNat / 4 % 32
        f.lo ≤ b → b < f.lo + f.w → f.acc = .rw → f.legal = .any → f.lock = .open →
        completes (.bitAliasWrite at' ⟨4, one⟩) s fun d =>
          seen d f = (if one.getLsbD 0 then seen c f ||| 2 ^ (b - f.lo) else seen c f - (seen c f &&& 2 ^ (b - f.lo))) ∧
          ∀ x, x ≠ fieldKey o f.lo → d.inForce x = c.inForce x ∧ d.shadowed x = c.shadowed x) ∧
    (∀ (at' one : Word) (bytes : Nat), bytes ≠ 4 ∨ at'.toNat % 4 ≠ 0 → completes (.bitAliasWrite at' ⟨bytes, one⟩) s fun d =>
      d = { c with out := c.out ++ [.unsupported] })

/-- R510 to R515: a write of SYS_COMMIT.go during a COMMIT is dropped; any other captures the staged values and leaves none.
With every constraint met, the staged value of each CFG field comes into force (stated for the blocks whose values have no
further effect); a constraint between fields that fails rejects its values. The check of the configuration that follows ends
the COMMIT, gives both CRCs and records a rejection, and finds a difference from the reference, with LOCKDOWN where
SYS_CFG_CHK asks for it. -/
def Obligations.CommitAndConfigurationCheck : Prop :=
  ∀ (s : State) (v : Word),
    let c := s.chip
    let lo := F.TMP_TEMP_CFG_lo.key []
    let alone := c.shadow = [(lo, some v)] ∧ c.slu.staged = [] ∧ c.slu.swapAsked = [] ∧ v.toNat ≠ c.inForce lo
    let quiet := [0x1, 0x2, 0x4, 0x5, 0x6, 0x10, 0x18, 0x20, 0x50, 0x60, 0x80, 0xA0, 0xA1]
    (c.takesWrite (regAt .SYS_COMMIT []) →
      (c.getB F.SYS_COMMIT_busy [] = true → c.logs → completes .configCommit s fun d =>
        d = { c with evr := d.evr } ∧ c.logged d [⟨Ev.LOCK_VIOL, 0x008, [(4, regAt .SYS_COMMIT []), (4, 1), (4, 0)], false⟩]) ∧
      (c.getB F.SYS_COMMIT_busy [] = false →
        (c.slu.staged = [] → c.slu.swapAsked = [] → SMap.wf (fun _ => none) c.shadow = true →
          (∀ p ∈ c.shadow, p.1 / 32 / 0x10000 ∈ quiet) → (∀ x ∈ constraints, x.holds c.shadowed = true) →
          completes .configCommit s fun d =>
            (∀ p ∈ c.shadow, d.inForce p.1 = c.shadowed p.1) ∧ d.shadow = [] ∧ d.getB F.SYS_COMMIT_busy [] = true ∧
            d.hif.rejecting = false) ∧
        (alone → (∀ x ∈ constraints, x.holds c.inForce = true) →
          ¬ signed8 v.toNat < signed8 (c.getF F.TMP_TEMP_CFG_hi []) - 10 → completes .configCommit s fun d =>
            d.inForce lo = c.inForce lo ∧ d.shadow = [] ∧ d.getB F.SYS_COMMIT_busy [] = true ∧ d.hif.rejecting = true))) ∧
    (c.running = true →
      let busy := c.getB F.SYS_COMMIT_busy []
      let crc := c.cfgCrc false
      let rejected := busy = true ∧ c.hif.rejecting = true
      let ref := if rejected then crc else match c.hif.cfgRef with
        | some r => r.toNat
        | none => c.getF F.SYS_CFG_REF_ref []
      let swept := fun (d : Chip) =>
        d.getB F.SYS_COMMIT_busy [] = false ∧ d.getF F.SYS_CFG_CRC_crc [] = crc ∧
        d.getF F.SYS_CFG_CRC_PAIR_crc [] = c.cfgCrc true ∧ (rejected → d.getF F.SYS_STAT_rejected [] = 1)
      (busy = false → c.hif.firstCommit = false → completes .cfgCrcSweep s fun d => d = c) ∧
      (busy = true ∨ c.hif.firstCommit = true →
        (crc = ref → completes .cfgCrcSweep s fun d => swept d ∧ d.ctl = c.ctl ∧
          c.fieldsOnly { d with hif := c.hif } [F.SYS_COMMIT_busy.key [], F.SYS_CFG_CRC_crc.key [],
            F.SYS_CFG_CRC_PAIR_crc.key [], F.SYS_STAT_rejected.key []]) ∧
        (crc ≠ ref → c.getB F.SYS_CFG_CHK_resp [] = false → completes .cfgCrcSweep s fun d => swept d ∧ d.ctl = c.ctl ∧
          d.getB F.SYS_STAT_drift [] = true ∧ c.bumped d F.SYS_DRIFT_CNT_count []) ∧
        (crc ≠ ref → c.getB F.SYS_CFG_CHK_resp [] = true → c.inMode lockdownFrom = true → c.ctl.zeroizing = none →
          busy = true ∨ c.hif.sweepMatched = true → completes .cfgCrcSweep s fun d => d.ctl.mode = .lockdown)))

/-- R8, R503, R517 to R522: an owner enables and disables a ring and rings its doorbell; a doorbell that moves backward
is a ring error. LA_OWNER gives a disabled pair to a function. A memory write that is not of 4 bytes is refused, and one
to BAR4 writes the MSI-X table. -/
def Obligations.RingAndHostWrites : Prop :=
  ∀ (s : State) (ring : Fin 256) (fn : Fin 66) (v off : Word) (bytes : Nat),
    let c := s.chip
    let r := ring.val
    let g := c.ring r
    let db := F.HIF_RING_DB_count.key [r]
    let others := fun (d : Chip) (keys : List Nat) =>
      (∀ q, q ≠ r → d.ring q = c.ring q) ∧
      c.fieldsOnly { d with hif := { d.hif with rings := c.hif.rings } } keys
    (c.ringOwner r = some fn.val → c.answers 0x20000 = true →
      (c.ringEn r = false → completes (.ringEnable ring) s fun d =>
        d.ringEn r = true ∧ d.ring r = {} ∧ others d [F.HIF_RING_CFG_en.key [r]]) ∧
      (c.getF F.HIF_RING_CFG_en [r] ≤ 1 → completes (.ringDisable ring) s fun d => d.ringEn r = false ∧ d.ring r = g ∧ others d [F.HIF_RING_CFG_en.key [r]]) ∧
      (c.ringEn r = true →
        let ahead := if partProduces r then (g.own - v).toNat else (v - g.own).toNat
        ((v - g.drv).toNat < 2 ^ 31 → ahead ≤ c.ringSize r →
          completes (.ringDoorbell ring v) s (fun d => d.ring r = { g with drv := v } ∧ others d [db]) ∧
          (fn.val ≠ 0 → c.running = true → off.toNat < 0x10000 → off.toNat % 4 = 0 →
            c.ownerOffset fn.val off.toNat = some (regAt .HIF_RING_DB [r]) →
            completes (.registerWrite fn .bar0 off 4 v) s fun d => d.ring r = { g with drv := v } ∧ others d [db])) ∧
        (2 ^ 31 ≤ (v - g.drv).toNat → c.logs → completes (.ringDoorbell ring v) s fun d =>
          d.ring r = { g with stopped := true } ∧ d.getF F.HIF_RING_STAT_err [r] = 1 ∧
          d.getF F.HIF_RING_STAT_cause [r] = 2 ∧ c.bumped d F.HIF_DMA_ERR_rings [] ∧
          c.logged d [⟨Ev.RING_ERR, 0x700 + r, [], false⟩]))) ∧
    (∀ (pair : Fin 96) (f : BitVec 7), c.takesWrite (regAt .HIF_LA_OWNER [pair.val]) → f.toNat ≤ 65 →
      c.ringEn (64 + pair.val) = false → c.ringEn (160 + pair.val) = false →
      completes (.laOwnerWrite pair f) s fun d =>
        d.getF F.HIF_LA_OWNER_function [pair.val] = f.toNat ∧ c.fieldsOnly d [F.HIF_LA_OWNER_function.key [pair.val]]) ∧
    (c.running = true → bytes ≠ 4 → completes (.registerWrite fn .bar0 off bytes v) s fun d =>
      d = { c with out := c.out ++ [.unsupported] }) ∧
    (c.running = true → off.toNat % 4 = 0 → off.toNat < msixSize fn.val * 16 → off.toNat / 4 % 4 ≠ 3 →
      completes (.registerWrite fn .bar4 off 4 v) s fun d =>
        let key := (fn.val * 2048 + off.toNat / 16) * 4 + off.toNat / 4 % 4
        (∀ k, SMap.get (fun i => if i % 4 = 3 then 1 else 0) d.hif.msixTable k =
          if k = key then v else SMap.get (fun i => if i % 4 = 3 then 1 else 0) c.hif.msixTable k) ∧
        d = { c with hif := { c.hif with msixTable := d.hif.msixTable } })

/-- R198, R199, R201, R202, R218: what a write of TIM_CTL, TIM_FREQ_HI and TIM_ADJ_HI starts: a capture of the clock, a
step, a hold of the reference, a new frequency word, a slew and its cancellation. A change of rate takes effect 2,048 ns
after it is accepted; the slew's end, announced with its start, comes when less than one cycle's share is left (the model's
choice, log entry 54). -/
def Obligations.TimeRegisterCommands : Prop :=
  ∀ (s : State) (hi : Byte) (adj : BitVec 16),
    let c := s.chip
    let k := c.tim.clock
    let f := signed 40 (hi.toNat * 2 ^ 32 + c.getF F.TIM_FREQ_LO_f_lo [])
    let m : Int := c.getF F.TIM_SLEW_CFG_max []
    (c.takesWrite (regAt .TIM_CTL []) →
      (k.sec < 2 ^ 48 → k.ns < 10 ^ 9 → k.frac < 2 ^ 16 → completes .timeCapture s fun d =>
        d.getF F.TIM_CAP_SEC_HI_sec [] * 2 ^ 32 + d.getF F.TIM_CAP_SEC_LO_sec [] = k.sec ∧
        d.getF F.TIM_CAP_NS_ns [] = k.ns ∧ d.getF F.TIM_CAP_FRAC_frac [] = k.frac ∧
        c.fieldsOnly d [F.TIM_CAP_SEC_HI_sec.key [], F.TIM_CAP_SEC_LO_sec.key [], F.TIM_CAP_NS_ns.key [],
          F.TIM_CAP_FRAC_frac.key []]) ∧
      (c.inMode [.provision, .maintenance] = true → c.epochValid = true → c.tim.epoch ≤ epochMax → c.logs →
        completes .timeStep s fun d =>
          let new : Clock := {
            sec := c.getF F.TIM_SET_SEC_HI_sec [] * 2 ^ 32 + c.getF F.TIM_SET_SEC_LO_sec [],
            ns := c.getF F.TIM_SET_NS_ns [], frac := c.getF F.TIM_SET_FRAC_frac [], low := 0 }
          d.tim.clock = new ∧ d.tim.acquired = true ∧ d.getB F.TIM_STAT_stepped [] = true ∧
          d.getB F.TIM_STAT_slewing [] = false ∧ c.tim.epoch ≤ d.tim.epoch ∧ d.tim.elapsed = c.tim.elapsed ∧
          ∃ more, c.logged d (⟨Ev.TIME_STEP, 0x0C0, [(8, packTime k c.holdover), (8, packTime new c.holdover)], false⟩ :: more)) ∧
      (c.inMode [.provision, .maintenance] = false → c.logs → completes .timeStep s fun d =>
        d = { c with
          evr := { c.evr with
          intake := c.evr.intake ++ [⟨Ev.LOCK_VIOL, 0x008, [(4, regAt .TIM_CTL []), (4, 2), (4, 0)], false⟩] } }) ∧
      (c.getB F.TIM_CTL_hold [] = false → c.logs → completes (.timHold true) s fun d =>
        d.getB F.TIM_CTL_hold [] = true ∧ d.refState = 3 ∧ d.holdover = true ∧ d.tim = { c.tim with lostAt := if c.refState = 3 then c.tim.lostAt else c.now } ∧
        c.logged d [⟨Ev.REF_LOST, 0x0C0, [], false⟩]) ∧
      (c.getF F.TIM_CTL_hold [] = 1 → c.getF F.TIM_REF_CFG_src [] = 0 → completes (.timHold false) s fun d =>
        d.getB F.TIM_CTL_hold [] = false ∧ d.refState = 0 ∧ d.holdover = false ∧ d.tim = c.tim ∧ d.evr = c.evr) ∧
      (c.getB F.TIM_STAT_slewing [] = true → completes .slewCancel s fun d =>
        d.getB F.TIM_STAT_slewing [] = false ∧
        d.tim = { c.tim with remain := 0, changes := insertDue c.standing (c.now + 2048, .slew 0) } ∧
        c.fieldsOnly { d with tim := c.tim } [F.TIM_STAT_slewing.key []])) ∧
    (c.takesWrite (regAt .TIM_FREQ_HI []) → (c.getF F.TIM_REF_CFG_src [] = 0 ∨ c.refState ≠ 2) →
      (f.natAbs ≤ freqMax → completes (.freqWrite hi) s fun d =>
        d.getF F.TIM_FREQ_HI_f_hi [] = hi.toNat ∧ d.tim = { c.tim with changes := insertDue c.tim.changes (c.now + 2048, .freq f) } ∧
        c.fieldsOnly { d with tim := c.tim } [F.TIM_FREQ_HI_f_hi.key []]) ∧
      (freqMax < f.natAbs → c.logs → completes (.freqWrite hi) s fun d =>
        d = { c with
          evr := { c.evr with
          intake := c.evr.intake ++ [⟨Ev.CFG_REJECT, 0x008, [(4, regAt .TIM_FREQ_HI []), (4, hi.toNat), (4, 0)], false⟩] } })) ∧
    (c.takesWrite (regAt .TIM_ADJ_HI []) → completes (.slewStart adj) s fun d =>
      let a := signed 48 (adj.toNat * 2 ^ 32 + c.getF F.TIM_ADJ_LO_adj_lo [])
      let r := if a < 0 then -m else m
      let unit := (r * 2 ^ 64 / 1000000000).natAbs
      ∃ n : Nat, d.tim = { c.tim with
        remain := a * 2 ^ 48,
        changes := insertDue (insertDue c.standing (c.now + 2048, .slew r)) (c.now + 2048 + n, .slew 0) } ∧
      (c.tim.slew = 0 → c.tim.changes = [] → 0 < unit → n * unit ≤ a.natAbs * 2 ^ 48 ∧ a.natAbs * 2 ^ 48 < (n + 1) * unit) ∧
      d.getB F.TIM_STAT_slewing [] = true ∧
      c.fieldsOnly { d with tim := c.tim } [F.TIM_ADJ_HI_adj_hi.key [], F.TIM_STAT_slewing.key []])

/-- R178, R182, R193, R240, R247, R418, R486: what the block registers start: a snapshot of an SA context, the restart of a
source, the swap of a gate list, reads and writes of the indirect windows, a bulk copy, the drain, and a read of the raw
FIFO. -/
def Obligations.BlockRegisterCommands : Prop :=
  ∀ (s : State) (i : Fin 65536) (src : Fin 2) (port : Fin 66),
    let c := s.chip
    let x := c.sa i.val
    let pn := if x.dir then x.highest else x.nextPn
    let t := c.getF F.SLU_IND_SEL_table []
    let n := c.getF F.SLU_IND_SEL_index []
    (c.takesWrite (regAt .SAX_SA_SEL []) → completes (.saSnapshot i) s fun d =>
      d.getF F.SAX_SA_INFO_state [] = x.state.toNat ∧ d.getF F.SAX_SA_INFO_dir [] = b2n x.dir ∧
      d.getF F.SAX_SA_KEY_key [] = x.key.toNat ∧ d.getF F.SAX_SA_PN_LO_pn_lo [] = pn % 2 ^ 32 ∧
      d.getF F.SAX_SA_PN_HI_pn_hi [] = pn / 2 ^ 32 % 2 ^ 32 ∧ d = { c with regs := d.regs } ∧
      ∀ k, k / 32 < 0x200020 ∨ 0x200040 ≤ k / 32 → d.inForce k = c.inForce k) ∧
    (c.takesWrite (regAt .ENT_CTL []) → c.ctl.mode = .maintenance → completes (.entSourceRestart src) s fun d =>
      (∀ k : Fin 2, d.brine k.val =
        if k = src then { c.brine k.val with
          running := false, restarting := true, startTest := true, last := none, run := 0 } else c.brine k.val) ∧
      d.getF (if src = 0 then F.ENT_CTL_restart0 else F.ENT_CTL_restart1) [] = 1 ∧
      c.fieldsOnly { d with ent := c.ent } [F.ENT_SRC_STAT_consec.key [src.val], F.ENT_CTL_restart0.key [],
        F.ENT_CTL_restart1.key []]) ∧
    (c.takesWrite (regAt .SLU_GCL_CFG [port.val]) → completes (.gclSwap port) s fun d =>
      d.getF F.SLU_GCL_CFG_swap [port.val] = 1 ∧
      d.slu = { c.slu with swapAsked := c.slu.swapAsked.filter (· ≠ port.val) ++ [port.val] } ∧
      c.fieldsOnly { d with slu := c.slu } [F.SLU_GCL_CFG_swap.key [port.val]]) ∧
    (c.takesWrite (regAt .SLU_IND_CMD []) →
      (completes .sluIndRead s fun d =>
        (∀ k : Fin 8, d.getF F.SLU_IND_DATA_data [k.val] =
          (if n < sluSize t then (c.sluEntry t n).getD k.val 0 else 0) % 2 ^ 32) ∧
        c.fieldsOnly d ((List.range 8).map fun k => F.SLU_IND_DATA_data.key [k])) ∧
      (completes .sluIndWrite s fun d =>
        d = if t < 4 ∧ n < sluSize t then
          { c with
            slu := { c.slu with
            staged := c.slu.staged ++ [(t, n, (List.range 8).map fun k => c.getF F.SLU_IND_DATA_data [k], 0)] } }
        else c)) ∧
    (c.takesWrite (regAt .FWD_IND_CMD []) → c.getB F.FWD_IND_SEL_by_key [] = false → completes .fwdIndRead s fun d =>
      (∀ k : Fin 8, d.getF F.FWD_IND_DATA_data [k.val] = leNat (slice (match c.fwd? (c.getF F.FWD_IND_SEL_slot []) with
        | some e => fwdBytes e
        | none => []) (4 * k.val) 4)) ∧
      c.fieldsOnly d ((List.range 8).map fun k => F.FWD_IND_DATA_data.key [k])) ∧
    (c.takesWrite (regAt .PRS_CTL []) → c.ctl.mode = .standby → c.prs.linkUp.contains 2 = true → c.prs.link ≠ 4 →
      completes .pairResync s fun d =>
        d.prs = { c.prs with
          link := 3, early := [], sessions := d.prs.sessions, deferSince := d.prs.deferSince, reverted := d.prs.reverted,
          holdSince := d.prs.holdSince, finalGot := d.prs.finalGot } ∧
        d = ({ c with prs := { d.prs with sessions := c.prs.sessions } }).pairSend 2 (Config.recordBytes CopyAck .resync)) ∧
    (c.takesWrite (regAt .EVR_DRAIN_CFG []) → completes .eventDrainEnable s fun d =>
      let en := F.EVR_DRAIN_CFG_en.key []
      d = { c with shadow := d.shadow, hif := { c.hif with writers := d.hif.writers } } ∧
      ∀ k, d.shadowed k = if k = en then c.shadowed en ||| 1 else c.shadowed k) ∧
    (c.ideRefuses 0x80020 = false → c.answers 0x80020 = true →
      (∀ w ws, c.ent.raw = w :: ws → completes .entRawDataRead s fun d =>
        d.out = c.out ++ [.value w.toNat] ∧ d.ent = { c.ent with raw := ws } ∧
        d.getB F.ENT_RAW_CTL_empty [] = ws.isEmpty ∧
        c.fieldsOnly { d with ent := c.ent, out := c.out } [F.ENT_RAW_CTL_empty.key []]) ∧
      (c.ent.raw = [] → completes .entRawDataRead s fun d => d = { c with out := c.out ++ [.value 0] })) ∧
    (c.ideRefuses 0x80020 = true → completes .entRawDataRead s fun d => d = { c with out := c.out ++ [.unsupported] })

/-! ### The Pans (chapter 04) and the lanes (chapter 21) -/

/-- R100, R101, R113 to R118: a test takes a Pan out of dispatch and returns it or, at the third failure, retires it; a
retired Pan's place goes to a spare; an error found at a request replays it elsewhere; the stop line stops the Pans of a
mode without traffic, and their key caches clear once the last request has completed. -/
def Obligations.PanServiceAndErrors : Prop :=
  ∀ (s : State) (j : Fin 24),
    let c := s.chip
    let q := j.val / 6
    let st := c.panState j.val
    let tested := fun (d : Chip) =>
      (∀ k : Fin 24, d.panState k.val = if k = j then 2 else c.panState k.val) ∧ SMap.get (fun _ => 0) d.pan.katFrom j.val = st ∧
      d.getF F.PAN_Q_STAT_in_service [q] = (d.serving q).length ∧
      d.getF F.PAN_Q_STAT_opener0 [q] = ((d.serving q)[0]?).getD 0x1F ∧
      d.getF F.PAN_Q_STAT_opener1 [q] = ((d.serving q)[1]?).getD 0x1F ∧ d.vlt = c.vlt ∧ d.ctl = c.ctl ∧ d.mem = c.mem
    let passed := (quadPans q).filter fun k => SMap.get (fun _ => true) c.pan.tested k
    let spare := passed.find? fun k => c.panState k = 1
    let waiting := if spare.isSome then none else passed.find? fun k => c.panState k = 2 && c.panHome k = 1
    (st ≤ 1 →
      (c.takesWrite (regAt .PAN_CTL [j.val]) → completes (.panKatCmd j) s fun d =>
        tested d ∧ d.getF F.PAN_CTL_kat [j.val] = 1) ∧
      ((c.requestsOn j.val).isEmpty = true → completes (.panPeriodicKat j) s tested) ∧
      ((c.requestsOn j.val).isEmpty = false → completes (.panPeriodicKat j) s fun d => d = c)) ∧
    (c.takesWrite (regAt .PAN_CTL [j.val]) → c.inMode [.provision, .maintenance] = true → st = 0 →
      completes (.panRetireCmd j) s fun d =>
        (∀ k : Fin 24, d.panState k.val = if k = j then 3 else if spare = some k.val then 0 else c.panState k.val) ∧
        (∀ k, waiting = some k → SMap.get (fun _ => 0) d.pan.katFrom k = 0) ∧
        (d.faultChan 2 j.val).retired = true ∧ d.vlt = c.vlt ∧ d.ctl = c.ctl ∧ d.mem = c.mem) ∧
    (st = 2 → SMap.get (fun _ => 0) c.pan.katFrom j.val ≤ 1 →
      (completes (.panKatEnd j true) s fun d =>
        (∀ k : Fin 24, d.panState k.val = if k = j then SMap.get (fun _ => 0) c.pan.katFrom j.val else c.panState k.val) ∧
        d.getF F.PAN_STAT_kat_fails [j.val] = 0 ∧ d.getF F.PAN_CTL_kat [j.val] = 0 ∧
        SMap.get (fun _ => true) d.pan.tested j.val = true) ∧
      (c.getF F.PAN_STAT_kat_fails [j.val] < 2 → completes (.panKatEnd j false) s fun d =>
        d.getF F.PAN_STAT_kat_fails [j.val] = c.getF F.PAN_STAT_kat_fails [j.val] + 1 ∧
        d.getF F.PAN_STAT_kat_fail [j.val] = 1 ∧ SMap.get (fun _ => true) d.pan.tested j.val = false ∧
        c.fieldsOnly { d with pan := c.pan } [F.PAN_STAT_kat_fails.key [j.val], F.PAN_STAT_kat_fail.key [j.val],
          F.PAN_CTL_kat.key [j.val]]) ∧
      (2 ≤ c.getF F.PAN_STAT_kat_fails [j.val] → (c.faultChan 2 j.val).retired = false →
        c.ctl.zeroizing = none →
        completes (.panKatEnd j false) s fun d => d.panState j.val = 3 ∧ (d.faultChan 2 j.val).retired = true)) ∧
    (∀ (k : Nat) (r : PanReq) (check : Fin 6), SMap.wf (fun _ => none) c.pan.reqs = true → c.panReq k = some r →
      r.pan = j.val → r.served = false → st = 0 → r.kind ≠ .opening → r.replays < 3 → (c.faultChan 2 j.val).times = [] →
      (c.faultChan 2 j.val).retired = false → (c.faultClass 2).current = none →
      1 ≤ c.getF F.FLT_CFG_perm_rate [] → completes (.panError k check) s fun d =>
        (∃ p, p ≠ j.val ∧ d.panReq k = some { r with pan := p, replays := r.replays + 1, avoid := j.val }) ∧
        d.panState j.val = 2 ∧ d.getF F.PAN_STAT_err [j.val] = 1 ∧ (d.faultClass 2).current = some j.val ∧
        d.vlt = c.vlt ∧ d.mem = c.mem) ∧
    (c.inMode [.sealed, .provision, .rest, .maintenance, .lockdown, .erased] = true → completes .stopLine s fun d =>
      d = { c with pan := { c.pan with stopped := true } }) ∧
    (c.pan.stopped = true → (∀ e ∈ c.pan.reqs, e.2 = none) → completes .panCacheClear s fun d =>
      d = { c with pan := { c.pan with caches := [], stopped := c.ctl.zeroizing.isSome || !c.inMode [.provision, .maintenance] } })

/-- R209, R535, R537 to R541, R548: a sub-port comes up and goes down, a lane is retrained, fails its clock check or is
calibrated, test errors are injected into a pattern, a burst of uncorrectable codewords is counted, and a retired lane of
a link port leaves the rotation. -/
def Obligations.LanesAndPorts : Prop :=
  ∀ (s : State) (p : Fin 16) (i : Fin 3) (b : Fin 4) (lane : Fin 76) (eth : Fin 64) (h : Fin 12) (temp : Byte),
    let c := s.chip
    let l := lane.val
    let up := fun (d : Chip) => d.portUp p.val b.val
    (c.inMode [.off, .vigil, .wake, .rest] = false → c.subExists p.val b.val = true → c.subEnabled p.val b.val = true →
      ((c.lanesOf p.val b.val).all c.laneUsable) = true → c.pan.downPorts = [] → up c = false →
      c.getF F.PRT_LINK_STAT_up [p.val] < 16 → c.logs →
      completes (.portUp (p.castLE (by decide)) b) s fun d =>
        d.getF F.PRT_LINK_STAT_up [p.val] = c.getF F.PRT_LINK_STAT_up [p.val] + 2 ^ b.val ∧ up d = true ∧
        (∀ x ∈ c.lanesOf p.val b.val, d.getB F.SRD_LANE_STAT_lock [x] = true) ∧
        c.logged d [⟨Ev.PORT_UP, 0x400 + p.val, [(4, b.val)], false⟩] ∧
        (c.getF F.PRT_LINK_CFG_lt [p.val] = 0 → d.free = c.free ∧
          ∀ x ∈ c.lanesOf p.val b.val, SMap.get (fun _ => none) d.srd.trained x = none) ∧
        (c.getF F.PRT_LINK_CFG_lt [p.val] = 1 → ∀ x ∈ c.lanesOf p.val b.val,
          (SMap.get (fun _ => none) d.srd.trained x).isSome = true) ∧
        d = { c with regs := d.regs, evr := d.evr, srd := { c.srd with trained := d.srd.trained }, free := d.free }) ∧
    (c.inMode [.off, .vigil, .wake, .rest] = false → c.subEnabled (16 + i.val) 0 = true →
      (c.lanesOf (16 + i.val) 0).any c.laneUsable = true → c.getF F.LNK_LINK_STAT_up [i.val] = 0 → c.entFailed = false →
      completes (.portUp ⟨16 + i.val, by omega⟩ 0) s fun d =>
        d.getF F.LNK_LINK_STAT_up [i.val] = 1 ∧ d.prs.link = (if i = 2 then 1 else c.prs.link) ∧
        d.ent = { c.ent with waiting := c.ent.waiting ++ [{ cls := 1, need := 1, use := .linkSalt i.val }] }) ∧
    (∀ cause : Fin 4, up c = true → cause ≠ 0 → c.logs →
      completes (.portDown (p.castLE (by decide)) b cause 0) s fun d =>
        up d = false ∧ bit (d.getF F.PRT_LINK_STAT_down_ev [p.val]) b.val = true ∧
        ⟨Ev.PORT_DOWN, 0x400 + p.val, [(4, b.val), (4, cause.val)], false⟩ ∈ d.evr.intake ∧ d.vlt = c.vlt ∧ d.ctl = c.ctl) ∧
    (c.takesWrite (regAt .SRD_LANE_CTL [l]) →
      completes (.laneRetrainCmd lane) s fun d =>
        d.getF F.SRD_LANE_STAT_lock [l] = 0 ∧ d.getF F.SRD_LANE_STAT_adapted [l] = 0 ∧
        (∀ x, x < 16 → x = l / 4 → d.portUp x (c.laneSub x (l % 4)) = false) ∧
        (16 ≤ l / 4 → d.getF F.LNK_LINK_STAT_up [l / 4 - 16] ≠ 1) ∧ d.flt = c.flt) ∧
    (c.takesWrite (regAt .SRD_PRBS_CFG [l]) → c.ctl.mode = .maintenance →
      let injects := fun (cmd : Instr) (n : Nat) =>
        (c.getB F.SRD_PRBS_CFG_gen [l] = true → completes cmd s fun d =>
          (∀ k, SMap.get (fun _ => 0) d.srd.injected k =
            SMap.get (fun _ => 0) c.srd.injected k + if k = l then n else 0) ∧
          d.getF F.SRD_PRBS_ERR_count [l] = (if c.selfTest l
            then min (2 ^ F.SRD_PRBS_ERR_count.w - 1) (c.getF F.SRD_PRBS_ERR_count [l] + n) else c.getF F.SRD_PRBS_ERR_count [l]) ∧
          c.fieldsOnly { d with srd := c.srd } [F.SRD_PRBS_ERR_count.key [l]]) ∧
        (c.getB F.SRD_PRBS_CFG_gen [l] = false → completes cmd s fun d => d = c)
      injects (.prbsInjectBit lane) 1 ∧ injects (.prbsInjectBurst lane) (c.getF F.SRD_PRBS_CFG_burst_len [l])) ∧
    (c.running = true → completes (.lanePpmCheck eth temp) s fun d =>
      d.getF F.SRD_LANE_STAT_ppm [eth.val] = temp.toNat ∧ d.getF F.SRD_LANE_STAT_lock [eth.val] = 0 ∧
      d.getF F.SRD_LANE_STAT_ppm_err [eth.val] = 1 ∧ d.ctl = c.ctl ∧ d.vlt = c.vlt ∧
      (∀ x y, x < 16 → x = eth.val / 4 → y = c.laneSub x (eth.val % 4) →
        d.portUp x y = false ∧ (c.portUp x y = true → d.flt = c.flt) ∧
        (c.portUp x y = false → d = { c with regs := d.regs, evr := d.evr }))) ∧
    (∀ n : BitVec 16, 4 < n.toNat → up c = true → (c.lanesOf p.val b.val).contains (p.val * 4 + b.val) = true → c.logs →
      completes (.fecBurst (p.castLE (by decide)) b b n) s fun d =>
        d.getF F.PRT_FEC_UNCORR_count [p.val, b.val] =
          min (2 ^ F.PRT_FEC_UNCORR_count.w - 1) (c.getF F.PRT_FEC_UNCORR_count [p.val, b.val] + n.toNat) ∧
        ⟨Ev.FEC_BURST, 0x400 + p.val, [(4, b.val)], false⟩ ∈ d.evr.intake ∧
        c.bumped d F.FLT_CLASS_CNT_count [0]) ∧
    ((c.faultChan 1 (64 + h.val)).retired = true → c.srd.linkRetired.contains h.val = false → 2 ≤ c.linkLanes (h.val / 4) →
      ∀ far, completes (.runnerLaneDrop ⟨h, far⟩) s fun d =>
        d = { c with
          srd := { c.srd with linkRetired := c.srd.linkRetired ++ [h.val] }
          out := c.out ++ if c.anyUp (16 + h.val / 4) 0 = true then [.laneWord (64 + h.val)] else [] }) ∧
    ((c.faultChan 1 (64 + h.val)).retired = false → c.srd.linkRetired.contains h.val = false → 2 ≤ c.linkLanes (h.val / 4) →
      (c.anyUp (16 + h.val / 4) 0 = true → completes (.runnerLaneDrop ⟨h, true⟩) s fun d =>
        d = { c with srd := { c.srd with linkRetired := c.srd.linkRetired ++ [h.val] } }) ∧
      completes (.runnerLaneDrop ⟨h, false⟩) s fun d => d = c) ∧
    (completes (.laneCalibration lane true temp) s fun d =>
      d.getF F.TIM_LANE_STAT_cal [l] = 1 ∧ d.getF F.TIM_LANE_STAT_cal_temp [l] = temp.toNat ∧
      l ∈ d.tim.calHad ∧ l ∈ d.tim.calUse ∧
      c.fieldsOnly { d with tim := c.tim } [F.TIM_LANE_STAT_cal.key [l], F.TIM_LANE_STAT_cal_temp.key [l]]) ∧
    (c.logs → completes (.laneCalibration lane false temp) s fun d =>
      d.getF F.TIM_LANE_STAT_cal_fail [l] = 1 ∧ (l ∈ d.tim.calUse ↔ l ∈ c.tim.calUse ∨ l ∈ c.tim.calHad) ∧ c.logged d [⟨Ev.LANE_CAL, 0x420 + l, [], false⟩])

/-! ### Time (chapter 08) -/

/-- R197 to R203, R216: the part disciplines its frequency word, a change of rate takes effect, a slew ends, a reference
qualifies and is lost, PPS_IN is captured, PPS_OUT rises and falls, and a member follows the time words of the master that
come along the path with fewer hops, the delay of the path added. -/
def Obligations.TimeEvents : Prop :=
  ∀ (s : State) (f : BitVec 40) (w : TimeWord) (port : Fin 2) (delay : Word),
    let c := s.chip
    let k := c.tim.clock
    let src := c.getF F.TIM_REF_CFG_src []
    (c.refState = 2 → src ≠ 0 → f.toInt.natAbs ≤ freqMax → completes (.freqUpdate f) s fun d =>
      d.tim = { c.tim with changes := insertDue c.tim.changes (c.now + 2048, .freq (signed 40 f.toNat)) } ∧
      d.getF F.TIM_FREQ_HI_f_hi [] * 2 ^ 32 + d.getF F.TIM_FREQ_LO_f_lo [] = f.toNat ∧
      c.fieldsOnly { d with tim := c.tim } [F.TIM_FREQ_HI_f_hi.key [], F.TIM_FREQ_LO_f_lo.key []]) ∧
    (∀ t x xs, c.tim.changes = (t, x) :: xs → c.now ≤ t → t < 2 ^ 64 → (∀ y ∈ xs, t < y.1) →
      completes .rateChangeEffect s fun d =>
        d.now = t ∧ d.tim.changes = xs ∧ d = { c with tim := d.tim } ∧
        (∀ f, x = .freq f → d.tim.freq = f ∧ d.tim.slew = c.tim.slew) ∧
        (∀ v, x = .slew v → d.tim.slew = v ∧ d.tim.freq = c.tim.freq)) ∧
    (∀ t v, c.getB F.TIM_STAT_slewing [] = true → c.tim.changes = [(t, .slew v)] → c.now < t → t < 2 ^ 64 → c.logs →
      completes .slewDone s fun d =>
        d.getB F.TIM_STAT_slewing [] = false ∧ d.tim.remain = 0 ∧ d.tim.changes = [] ∧ d.tim.slew = v ∧ d.now = t ∧
        c.logged d [⟨Ev.SLEW_DONE, 0x0C0, [], false⟩] ∧ d.tim.epoch = c.tim.epoch) ∧
    (src ≠ 0 → c.getB F.TIM_CTL_hold [] = false → c.refState ≠ 2 → c.logs → completes .refQualified s fun d =>
      d.refState = 2 ∧ d.holdover = false ∧ d.tim = c.tim ∧ c.logged d [⟨Ev.REF_QUALIFIED, 0x0C0, [], false⟩]) ∧
    (c.refState = 2 → c.logs → completes .refLost s fun d =>
      d.refState = 3 ∧ d.holdover = true ∧ d.getF F.TIM_STAT_ref_lost [] = 1 ∧ d.tim = { c.tim with lostAt := c.now } ∧
      c.logged d [⟨Ev.REF_LOST, 0x0C0, [], false⟩]) ∧
    (c.getB F.TIM_PPS_CFG_in_en [] = true → c.getB F.TIM_STAT_pps_new [] = false → k.sec < 2 ^ 48 → k.ns < 10 ^ 9 →
      k.frac < 2 ^ 16 → c.getB F.TIM_REF_CFG_pps_align [] = false → completes .ppsInEdge s fun d =>
        d.getF F.TIM_PPS_CAP_SEC_HI_sec [] * 2 ^ 32 + d.getF F.TIM_PPS_CAP_SEC_LO_sec [] = k.sec ∧
        d.getF F.TIM_PPS_CAP_NS_ns [] = k.ns ∧ d.getF F.TIM_PPS_CAP_FRAC_frac [] = k.frac ∧
        d.getF F.TIM_STAT_pps_new [] = 1 ∧
        c.fieldsOnly d [F.TIM_PPS_CAP_SEC_HI_sec.key [], F.TIM_PPS_CAP_SEC_LO_sec.key [], F.TIM_PPS_CAP_NS_ns.key [],
          F.TIM_PPS_CAP_FRAC_frac.key [], F.TIM_STAT_pps_new.key []]) ∧
    (c.getB F.TIM_PPS_CFG_in_en [] = false ∨ c.getB F.TIM_STAT_pps_new [] = true → completes .ppsInEdge s fun d => d = c) ∧
    (c.getB F.TIM_PPS_CFG_in_en [] = true → c.getB F.TIM_STAT_pps_new [] = false → c.getB F.TIM_REF_CFG_pps_align [] = true →
      k.ns * 2 ^ 16 + k.frac ≠ 500000000 * 2 ^ 16 → c.logs → completes .ppsInEdge s fun d =>
        let e : Int := (k.ns * 2 ^ 16 + k.frac : Nat) - (if k.ns < 500000000 then 0 else 1000000000 * 2 ^ 16)
        let m : Int := c.getF F.TIM_SLEW_CFG_max []
        d.getF F.TIM_STAT_pps_new [] = 1 ∧ d.getB F.TIM_STAT_slewing [] = true ∧
        (∃ n : Nat, d.tim = { c.tim with
          remain := -e * 2 ^ 48,
          changes := insertDue (insertDue c.standing (c.now + 2048, .slew (if 0 < e then -m else m)))
            (c.now + 2048 + n, .slew 0) }) ∧
        c.logged d (if 1000000 * 2 ^ 16 < e.natAbs then [⟨Ev.PPS_FAR, 0x0C0, [], false⟩] else [])) ∧
    (c.getB F.TIM_PPS_CFG_out_en [] = true → c.tim.ppsOut = false → c.inMode [.off, .vigil, .wake] = false →
      completes .ppsOutRise s fun d =>
        d.tim.ppsOut = true ∧ d.tim.ppsRose = d.now ∧ (clockSub k < rateUnits c.tim.freq c.tim.slew → d.tim.clock = k) ∧ d = { c with tim := d.tim }) ∧
    (c.tim.ppsOut = true → c.tim.ppsRose + c.getF F.TIM_PPS_CFG_width [] * 1000000 < 2 ^ 64 → completes .ppsOutFall s fun d =>
      d.tim.ppsOut = false ∧ c.tim.ppsRose + c.getF F.TIM_PPS_CFG_width [] * 1000000 ≤ d.now ∧ d = { c with tim := d.tim }) ∧
    (src = 2 → c.getB F.TIM_CTL_hold [] = false → port.val = c.timePort →
      let t : Clock := clockOf w.sec.toNat ((w.ns.toNat * 2 ^ 16 + w.frac.toNat + delay.toNat) * 2 ^ 48)
      let diff : Int := (clockUnits t / 2 ^ 48 : Nat) - (clockUnits k / 2 ^ 48 : Nat)
      (c.tim.stackGot = false → c.inMode [.provision, .maintenance] = true →
        completes (.stackTimeWord w ⟨port, delay, f⟩) s fun d =>
          d.tim.clock = t ∧ d.tim.acquired = true ∧ d.tim.stackGot = true ∧ d.refState = 2) ∧
      (c.tim.stackGot = true → c.refState = 2 → completes (.stackTimeWord w ⟨port, delay, f⟩) s fun d =>
        d.tim.clock = k ∧ d.refState = 2 ∧ (diff ≠ 0 → d.tim.remain = diff * 2 ^ 48 ∧ d.getB F.TIM_STAT_slewing [] = true) ∧
        (diff = 0 → d.tim.remain = c.tim.remain) ∧ d.ctl = c.ctl)) ∧
    (port.val ≠ c.timePort → completes (.stackTimeWord w ⟨port, delay, f⟩) s fun d => d = c)

/-- R204 to R207: a tick raises the epoch counter by 1, which stops at its last value; the window tick comes before it;
the counter becomes valid at O; its last value has an event. -/
def Obligations.EpochCounter : Prop :=
  ∀ (s : State),
    let c := s.chip
    (c.ticking = true → completes .epochTick s fun d =>
      d.tim.epoch = min epochMax (c.tim.epoch + 1) ∧ d.tim.windowDone = false ∧
      (c.epochInstant (c.tim.epoch + 1) ≤ clockNs c.tim.clock → d.tim.clock = c.tim.clock) ∧
      (c.tim.epoch + 1 < epochMax → d = { c with tim := d.tim }) ∧
      (epochMax ≤ c.tim.epoch + 1 → d.getB F.TIM_STAT_epoch_end [] = true)) ∧
    (c.ticking = true → completes .windowTick s fun d =>
      d.tim.windowDone = true ∧ d.tim.epoch = c.tim.epoch ∧ d = { c with tim := d.tim } ∧
      (c.epochInstant (c.tim.epoch + 1) - c.rekeyW ≤ clockNs c.tim.clock → d.tim.clock = c.tim.clock)) ∧
    (c.epochValid = false → c.tim.acquired = true → completes .epochValidStart s fun d =>
      d.epochValid = true ∧ d.tim.epoch = 0 ∧ d.tim.windowDone = false ∧
      c.fieldsOnly { d with tim := c.tim } [F.TIM_STAT_epoch_valid.key []]) ∧
    (c.tim.epoch = epochMax → c.getB F.TIM_STAT_epoch_end [] = false → c.logs → completes .epochEnd s fun d =>
      d.getF F.TIM_STAT_epoch_end [] = 1 ∧ c.logged d [⟨Ev.EPOCH_END, 0x0C1, [], false⟩] ∧ d.tim = c.tim) ∧
    (c.ticking = false → completes .epochTick s fun d => d = c)

/-! ### The recorder and the statistics (chapter 19) -/

/-- R478, R479, R482 to R488: the first event of the intake becomes a record at the write pointer with the next sequence
number; a window start refills buckets; reads of EVR_WR and EVR_OLDEST latch sequence numbers; the drain copies the next
record to its ring or passes one below its severity; LOG_CLEAR leaves one record, of the clearing itself. -/
def Obligations.EventRecorder : Prop :=
  ∀ (s : State),
    let c := s.chip
    let h := c.ringWord c.evr.drainPos
    let n := headLen h
    (∀ (e : EvReq) (rest : List EvReq), c.evr.intake = e :: rest → c.isMaster = true →
      let b := recordBytes c.evr.nextSeq (SMap.get (fun _ => 0) c.evr.supp e.code) e
      let m := b.length / 8
      c.evr.wr + m ≤ ringWords → c.evr.used + m ≤ ringWords → c.evr.nextSeq < 2 ^ 40 → e.code < 2 ^ 12 → m < 64 →
      completes .eventRecordWrite s fun d =>
        (∀ i, i < m → d.ringWord (c.evr.wr + i) = BitVec.ofNat 64 (leNat (slice b (8 * i) 8))) ∧
        (∀ i, i < c.evr.wr ∨ c.evr.wr + m ≤ i → d.ringWord i = c.ringWord i) ∧
        headSeq (d.ringWord c.evr.wr) = c.evr.nextSeq ∧ headCode (d.ringWord c.evr.wr) = e.code ∧
        headLen (d.ringWord c.evr.wr) = m ∧ headSev (d.ringWord c.evr.wr) = severity e.code ∧
        d.evr.wr = (c.evr.wr + m) % ringWords ∧ d.evr.used = c.evr.used + m ∧
        d.evr.nextSeq = (c.evr.nextSeq + 1) % 2 ^ 40 ∧ d.evr.intake = rest ∧ d.regs = c.regs) ∧
    (let ms := c.now / 1000000 + 1
     ms * 1000000 < 2 ^ 64 → completes .rateWindowStart s fun d =>
      (∀ k, k < 4096 → let due := limitable k = true ∧ ms % 2 ^ c.rateWin k = 0
        d.tokens k = (if due then c.getF F.EVR_CODE_CFG_burst [k] else c.tokens k) ∧
        d.rateWin k = (if due then c.getF F.EVR_CODE_CFG_win [k] else c.rateWin k)) ∧
      d.now = ms * 1000000 ∧ d.evr.intake = c.evr.intake ∧ d.regs = c.regs) ∧
    (c.evr.started = true → c.evr.nextSeq < 2 ^ 40 →
      (completes .evrWrRead s fun d =>
        d.out = c.out ++ [.value c.evr.wr] ∧
        d.getF F.EVR_NEXT_SEQ_HI_seq [] * 2 ^ 32 + d.getF F.EVR_NEXT_SEQ_LO_seq [] = c.evr.nextSeq ∧
        c.fieldsOnly { d with out := c.out } [F.EVR_NEXT_SEQ_HI_seq.key [], F.EVR_NEXT_SEQ_LO_seq.key []]) ∧
      (completes .evrOldestRead s fun d =>
        d.out = c.out ++ [.value c.evr.oldest] ∧
        d.getF F.EVR_OLDEST_SEQ_HI_seq [] * 2 ^ 32 + d.getF F.EVR_OLDEST_SEQ_LO_seq [] = c.oldestSeq ∧
        c.fieldsOnly { d with out := c.out } [F.EVR_OLDEST_SEQ_HI_seq.key [], F.EVR_OLDEST_SEQ_LO_seq.key []])) ∧
    (c.getB F.EVR_DRAIN_CFG_en [] = true → c.ringEn 56 = true → c.dmaAllowed 0 = true → (c.ring 56).stopped = false →
      c.evr.drainSeq ≠ c.evr.nextSeq →
      (headSev h < c.getF F.EVR_DRAIN_CFG_min_sev [] → completes .eventDrainCopy s fun d =>
        d.evr.drainSeq = (headSeq h + 1) % 2 ^ 40 ∧ d.out = c.out ∧ d.hif = c.hif ∧ d.regs = c.regs) ∧
      (c.getF F.EVR_DRAIN_CFG_min_sev [] ≤ headSev h →
        let k := (c.ring 56).own.toNat % c.ringSize 56
        k + n ≤ c.ringSize 56 → n ≤ c.ringFree 56 → completes .eventDrainCopy s fun d =>
          (∃ more, d.out = c.out ++ .hostWrite 0 (c.ringBase 56 + k * 8)
            ((List.range n).flatMap fun i => leBytes 8 (c.ringWord (c.evr.drainPos + i)).toNat) :: more) ∧
          (d.ring 56).own = (c.ring 56).own + BitVec.ofNat 32 n ∧ d.evr.lastDrained = some (headSeq h) ∧
          d.evr.drainSeq = (headSeq h + 1) % 2 ^ 40 ∧ d.evr.ring = c.evr.ring)) ∧
    (c.orderFree → c.inMode [.provision, .maintenance] = true → c.authHere 0x10 = true → c.isMaster = true →
      c.evr.wr + 5 ≤ ringWords → c.evr.nextSeq < 2 ^ 40 → completes .logClear s fun d =>
        d.evr.oldest = c.evr.wr ∧ d.evr.used = 5 ∧ headCode (d.ringWord c.evr.wr) = Ev.LOG_CLEARED ∧
        headSeq (d.ringWord c.evr.wr) = c.evr.nextSeq ∧ d.evr.nextSeq = (c.evr.nextSeq + 1) % 2 ^ 40 ∧
        d.ctl = { c.ctl with auth := none } ∧ d.ord.res = {} ∧ d.vlt = c.vlt)

/-- R489 to R492: a snapshot reads a counter into CNT_DATA, clearing it on request; a write stores to it; CNT_DUMP writes
counters to a buffer; a counter whose memory fails is lost and starts again at 0. -/
def Obligations.StatisticsCommands : Prop :=
  ∀ (s : State) (space : Bool) (i : BitVec 19),
    let c := s.chip
    let k := i.toNat
    let v := c.cntGet space k
    let others := fun (d : Chip) => ∀ sp j, (sp, j) ≠ (space, k) → d.cntGet sp j = c.cntGet sp j
    let data := fun (d : Chip) => d.getF F.CNT_DATA_HI_data [] * 2 ^ 32 + d.getF F.CNT_DATA_LO_data []
    (c.takesWrite (regAt .CNT_SEL []) → cntNamed space k = true →
      (completes (.counterSnapshot space i) s fun d =>
        data d = v.toNat ∧ d.getF F.CNT_SEL_lost [] = b2n (c.cntLost space k) ∧ d.cnt = c.cnt) ∧
      (completes (.counterReadClear space i) s fun d =>
        data d = v.toNat ∧ d.cntGet space k = 0 ∧ d.cntLost space k = false ∧ others d) ∧
      (completes (.counterWrite space i) s fun d =>
        d.cntGet space k = BitVec.ofNat 64 (data c) ∧ d.cntLost space k = false ∧ others d ∧ data d = data c)) ∧
    (c.takesWrite (regAt .CNT_SEL []) → cntNamed space k = false → completes (.counterSnapshot space i) s fun d =>
      data d = 0 ∧ d.cnt = c.cnt) ∧
    (∀ (first count flags : Word) (out : DWord), c.orderFree → c.inMode (infoModes.erase .lockdown) = true → c.dmaAllowed 0 = true →
      flags.toNat ≤ 1 → 1 ≤ count.toNat → count.toNat ≤ 65536 → first.toNat + count.toNat ≤ spaceSize space →
      completes (.cntDump (if space then 1 else 0) first count flags out) s fun d =>
        d.out = c.out ++ [.hostWrite 0 out.toNat (((List.range count.toNat).map (first.toNat + ·)).flatMap fun j =>
          leBytes 8 (c.cntRead space j).toNat)] ∧
        (∀ sp j, d.cntGet sp j = if flags = 1 ∧ sp = space ∧ first.toNat ≤ j ∧ j < first.toNat + count.toNat ∧
          cntNamed sp j = true then 0 else c.cntGet sp j) ∧ d.regs = c.regs ∧ d.ord.res.status = 0) ∧
    (c.running = true → completes (.counterEccError space ⟨i, true⟩) s fun d =>
      c.bumped d F.CNT_ECC_CNT_count [] ∧ d.cnt = c.cnt) ∧
    (c.running = true → cntNamed space k = true → completes (.counterEccError space ⟨i, false⟩) s fun d =>
      d.cntGet space k = 0 ∧ d.cntLost space k = true ∧ others d ∧ d.getF F.CNT_STAT_lost [] = 1 ∧
      d.getF F.CNT_LOST_IDX_index [] = k ∧ d.getF F.CNT_LOST_IDX_space [] = b2n space)

/-! ### The host interface (chapter 20) -/

/-- R498 to R503, R522 to R525: an owed message goes out at the end of a vector's holdoff and when its mask clears; Bus
Master Enable releases what a function is owed; the stream fails and is secured; the link comes up and goes down. -/
def Obligations.HostInterfaceEvents : Prop :=
  ∀ (s : State) (fn : Fin 66) (v : Fin 2048) (msg : Bytes),
    let c := s.chip
    let k := fn.val * 2048 + v.val
    let bitOf := fun (m : SMap Bool) (i : Nat) => SMap.get (fun _ => false) m i
    let held := decide (fn = 0) && c.getF F.HIF_MSIX_MOD_holdoff [v.val] != 0
    let ctl := fun (d : Chip) => (SMap.get (fun i => if i % 4 = 3 then (1 : Word) else 0) d.hif.msixTable (k * 4 + 3)).getLsbD 0
    (bitOf c.hif.holdoff k = true → ctl c = false → c.dmaAllowed fn.val = true →
      (bitOf c.hif.holdPending k = true → completes (.msixHoldoffEnd fn v) s fun d =>
        d.out = c.out ++ [.msix fn.val v.val] ∧ bitOf d.hif.holdPending k = false ∧ bitOf d.hif.holdoff k = held ∧
        d.regs = c.regs) ∧
      (bitOf c.hif.holdPending k = false → completes (.msixHoldoffEnd fn v) s fun d =>
        d.out = c.out ∧ bitOf d.hif.holdoff k = false ∧ d.regs = c.regs)) ∧
    (c.running = true → v.val < msixSize fn.val → ctl c = true → c.dmaAllowed fn.val = true → bitOf c.hif.holdoff k = false →
      completes (.msixUnmask fn v) s fun d =>
        ctl d = false ∧ bitOf d.hif.pba k = false ∧
        d.out = c.out ++ (if bitOf c.hif.pba k then [.msix fn.val v.val] else []) ∧ d.regs = c.regs) ∧
    (∀ on : Bool, c.running = true → completes (.busMasterEnableChange fn on) s fun d =>
      (∀ x, bitOf d.hif.bme x = if x = fn.val then on else bitOf c.hif.bme x) ∧
      d.out = c.out ++ (c.hif.owed.filter fun p => d.dmaAllowed p.1).map (·.2) ∧
      d.hif.owed = (c.hif.owed.filter fun p => !d.dmaAllowed p.1) ∧
      d = { c with out := d.out, hif := { c.hif with bme := d.hif.bme, owed := d.hif.owed } }) ∧
    (c.getF F.HIF_IDE_STAT_state [] = 1 → c.logs → completes .ideIntegrityFail s fun d =>
      d.getF F.HIF_IDE_STAT_state [] = 2 ∧ d.getF F.HIF_IDE_STAT_fail [] = 1 ∧
      c.logged d [⟨Ev.IDE_FAIL, 0x73B, [], false⟩] ∧ d = { c with regs := d.regs, evr := d.evr }) ∧
    (c.running = true → completes (.doeMessage msg) s fun d =>
      (∃ more, d.out = c.out ++ .doe (Config.doeReply c.free msg) :: more) ∧
      (Config.doeSecures c.free msg = true → d.getF F.HIF_IDE_STAT_state [] = 1) ∧
      (Config.doeSecures c.free msg = false → d.regs = c.regs) ∧ d.vlt = c.vlt ∧ d.ctl = c.ctl) ∧
    (∀ (rate : Fin 7) (width : Nat) (flit fromDetect : Bool), c.running = true → c.evr.started = true → width ≤ 16 → c.logs →
      let slow := rate.val < 6 ∨ width < 16
      completes (.pcieLinkUp rate width flit fromDetect) s fun d =>
        d.getF F.HIF_LINK_STAT_rate [] = rate.val ∧ d.getF F.HIF_LINK_STAT_width [] = width ∧
        d.getF F.HIF_LINK_STAT_flit [] = b2n flit ∧ d.getF F.HIF_LINK_STAT_up [] = 1 ∧ d.hif.linkL0 = true ∧
        c.logged d ((if fromDetect then [⟨Ev.LINK_UP, 0x73A, [], false⟩] else []) ++
          (if slow then [⟨Ev.LINK_DEGRADED, 0x73A, [(4, rate.val), (4, width)], false⟩] else [])) ∧
        (slow → d.getF F.HIF_LINK_STAT_degraded [] = 1)) ∧
    (c.logs → completes .pcieLinkDown s fun d =>
      d.getF F.HIF_LINK_STAT_up [] = 0 ∧ d.hif = { c.hif with linkL0 := false } ∧
      c.logged d (if c.hif.linkL0 then [⟨Ev.LINK_DOWN, 0x73A, [], false⟩] else []))

/-- R526 to R528: SMBus answers its read commands, in WAKE only STATUS and TEMP; RESTART needs its arming, a write whose
PEC fails is only counted, and the arming expires. -/
def Obligations.SmbusCommands : Prop :=
  ∀ (s : State) (off : BitVec 24) (data : Byte),
    let c := s.chip
    let gives := fun (i : Instr) (b : Bytes) (free : Nat) => completes i s fun d =>
      d.out = c.out ++ [.smbus b] ∧ c.bumped d F.SYS_SMB_CNT_cmds [] ∧
      c.fieldsOnly { d with out := c.out, free := c.free } [F.SYS_SMB_CNT_cmds.key []] ∧ d.free = c.free + free
    (c.smbOn = true →
      gives .smbStatus (leBytes 4 (c.regWord .MOD_STAT []) ++ leBytes 4 (c.regWord .SYS_BOOT_STAT [])) 0 ∧
      gives .smbTemp (leBytes 2 (c.regWord .TMP_TEMP [])) 0 ∧
      (c.ctl.mode ≠ .wake →
        gives .smbVbat (leBytes 2 (c.regWord .TMP_VBAT [])) 1 ∧
        gives .smbFlags (leBytes 4 c.flt.flags.toNat) 0 ∧
        gives .smbHealth (leBytes 4 (c.regWord .PRS_HEALTH [] % 2 ^ 15 + c.getF F.PRS_STAT_link [] * 2 ^ 16)) 0 ∧
        (∀ r idx, lookupReg off.toNat = some (r, idx) → r ≠ .TMP_VBAT →
          gives (.smbRegRead off) (leBytes 4 (if smbBlock off.toNat then c.readAt off.toNat else 0)) 0)) ∧
      (c.ctl.mode = .wake → completes .smbFlags s fun d => d = { c with out := c.out ++ [.smbus [0xFF]] }) ∧
      (completes (.smbRestartArm 0xA5 true) s fun d =>
        d.hif = { c.hif with smbArmed := true, smbEnds := c.now + 1000000000 } ∧ c.bumped d F.SYS_SMB_CNT_cmds [] ∧
        c.fieldsOnly { d with hif := c.hif } [F.SYS_SMB_CNT_cmds.key []]) ∧
      (data ≠ 0xA5 → completes (.smbRestartArm data true) s fun d => d = c) ∧
      (completes (.smbRestartArm data false) s fun d =>
        c.bumped d F.SYS_SMB_CNT_pec [] ∧ c.fieldsOnly d [F.SYS_SMB_CNT_pec.key []]) ∧
      (c.hif.smbArmed = true → c.now < c.hif.smbEnds → completes (.smbRestart 0x5A true) s fun d =>
        d.ctl.mode = .wake ∧ d.getF F.SYS_BOOT_STAT_cause [] = 4 ∧ d.vlt.slots = [] ∧ d.vlt.owners = c.zeroizeEnd.vlt.owners) ∧
      (c.hif.smbArmed = false ∨ c.hif.smbEnds ≤ c.now ∨ data ≠ 0x5A → completes (.smbRestart data true) s fun d =>
        d = { c with hif := { c.hif with smbArmed := false, smbEnds := 0 } })) ∧
    (completes .smbArmExpiry s fun d =>
      d = { c with tim := d.tim, hif := { c.hif with smbArmed := false, smbEnds := 0 } } ∧
      (c.hif.smbEnds < 2 ^ 64 → c.hif.smbEnds ≤ d.now))

/-! ### Resets and start-up (chapter 15) -/

/-- R382 to R387, R553, R554, R560: every reset that restarts start-up leaves WAKE with its cause, no key slot, and the
battery domain and OTP as they were; power loss leads to VIGIL on the cell or to OFF, where the seal is lost, and from which
power comes back with vbat_lo showing (DEDUCED, log entry 68); a start without its clocks shows NO_CLOCK. One that falls
into the programming of an ownership slot, which is open while its 25 ms run, spoils that slot alone (R148). A
zeroization in progress is completed before a reset of a powered part (log entry 61): `b` is the block after it. -/
def Obligations.ResetsAndPower : Prop :=
  ∀ (s : State) (x : Straps),
    let c := s.chip
    let spoils := fun (d : Chip) => ∀ i, i < 16 →
      d.ownerSlot i = if Config.freeBool c.free = true ∧ c.otpOpen = some i then { c.ownerSlot i with done := false, crcGood := false }
        else c.ownerSlot i
    let restarted := fun (b d : Chip) (cause : Nat) (flags : Word) =>
      d.ctl.mode = .wake ∧ d.getF F.SYS_BOOT_STAT_cause [] = cause ∧ d.vlt.slots = [] ∧ d.vlt.rootReady = false ∧
      d.sax = {} ∧ d.evr.started = false ∧ d.evr.startLog.head? = some ⟨Ev.RESET, 0x004, [(4, cause)], true⟩ ∧
      d.vlt.owners = b.vlt.owners ∧ d.vlt.sealA = b.vlt.sealA ∧ d.vlt.sealB = b.vlt.sealB ∧ d.vlt.storeV = b.vlt.storeV ∧
      d.flt.flags = flags ∧ d.pnl.pin = b.pnl.pin ∧ d.su.done = false
    let strapped := fun (d : Chip) =>
      d.getF F.SYS_STRAP_smb_addr [] = x.smbAddr.val ∧ d.prs.straps = x.stackId.val ∧ d.prs.pairRole = x.pairRole
    (c.ctl.mode = .off ∨ c.ctl.mode = .vigil → completes (.mainPowerGood x) s fun d =>
      (if c.ctl.mode = .vigil then restarted c d 1 c.flt.flags
        else restarted c d 0 (if c.causeSet 9 = true then c.flt.flags else c.flt.flags ||| 0x200) ∧ d.causeSet 9 = true) ∧
      strapped d ∧ d.getF F.SYS_BOOT_STAT_fail [] = (if x.clocks then 0 else 2)) ∧
    (c.powered = true → c.su.resetHeld = false →
      let b := c.zeroizeEnd
      (completes .resetNAssert s fun d => restarted b d 2 b.flt.flags ∧ d.su.resetHeld = true) ∧
      (c.takesWrite (regAt .SYS_CTL []) → completes (.sysRestart 0xB007) s fun d =>
        restarted b d 3 b.flt.flags ∧ d.su.resetHeld = false)) ∧
    (∀ v : Word, v.toNat % 2 ^ 16 ≠ 0xB007 → c.takesWrite (regAt .SYS_CTL []) → completes (.sysRestart v) s fun d =>
      c.fieldsOnly d [F.SYS_CTL_restart.key []]) ∧
    (c.su.resetHeld = true → c.su.d3AtRelease = false → completes (.resetNRelease x) s fun d =>
      d.su = { c.su with resetHeld := false } ∧ strapped d ∧ d.ctl = c.ctl ∧ d.vlt = c.vlt ∧
      d.getF F.SYS_BOOT_STAT_fail [] = (if x.clocks then c.getF F.SYS_BOOT_STAT_fail [] else 2)) ∧
    (c.powered = true →
      (completes (.mainPowerLost true) s fun d => spoils d ∧
        d.ctl.mode = .vigil ∧ d.ctl.power = 2 ∧ d.su.onCell = true ∧ d.vlt.slots = [] ∧ d.regs = [] ∧
        d.vlt.sealA = c.vlt.sealA ∧ d.vlt.sealB = c.vlt.sealB ∧ d.flt.flags = c.flt.flags) ∧
      (completes (.mainPowerLost false) s fun d => spoils d ∧
        d.ctl.mode = .off ∧ d.vlt.slots = [] ∧ d.vlt.sealA = none ∧ d.vlt.sealB = none)) ∧
    (c.ctl.mode ≠ .off → completes .allPowerLost s fun d => spoils d ∧
      d.ctl.mode = .off ∧ d.vlt.sealA = none ∧ d.vlt.sealB = none) ∧
    (c.ctl.mode = .off → completes .cellInsert s fun d =>
      d = { c with su := { c.su with onCell := true }, ctl := { c.ctl with mode := .vigil } }) ∧
    (∀ cell : Bool, c.ctl.mode ≠ .off → completes (.aonSupplySwitchover cell) s fun d =>
      d = { c with su := { c.su with onCell := cell } })

/-- R384, R385, R388 to R397, R402 to R404: the recorder starts and the roots are read, unless OTP is not good, which fails
start-up; a failed read of the roots is repeated, and the third fails start-up; start-up ends in SEALED or ERASED, or fails
with its cryptography; a host reset and a function reset clear the rings, pending completions and EPHEMERAL slots of their scope; an ownership
claim is refused for its flags or a debug-tainted run, or programs a slot and awaits the seal; the presence bit lapses. -/
def Obligations.StartUpAndClaims : Prop :=
  ∀ (s : State),
    let c := s.chip
    let awake := c.ctl.mode = .wake ∧ c.su.resetHeld = false
    let calm := (c.ectxAt 1027).running = false
    (awake → calm → c.evr.started = false → c.su.otpGood = true → c.su.failed = false → completes .recorderStart s fun d =>
      d.evr.started = true ∧ d.evr.startLog = [] ∧ d.su.pufReads = c.su.pufReads + 1 ∧
      (c.getF F.SYS_BOOT_STAT_fail [] = 2 → c.su.pufReads = 0 → d.getF F.SYS_BOOT_STAT_fail [] = 0) ∧
      (d.brine 0).running = true ∧ (d.brine 1).running = true ∧ d.ctl.mode = .wake) ∧
    (awake → calm → c.evr.started = false → c.su.otpGood = false → c.su.failed = false → completes .recorderStart s fun d =>
      d.evr.started = true ∧ d.evr.startLog = [] ∧ d.su.failed = true ∧ d.getF F.SYS_BOOT_STAT_fail [] = 1 ∧
      d.su.pufReads = c.su.pufReads ∧ d.ctl.mode = .wake) ∧
    (awake → c.su.failed = false → c.vlt.rootReady = false → 1 ≤ c.su.pufReads → c.su.pufReads < 3 →
      completes .pufRetry s fun d =>
        d.su.pufReads = c.su.pufReads + 1 ∧ d.getF F.SYS_BOOT_STAT_retries [] = c.su.pufReads ∧
        (d.vlt.rootReady = true → d.vlt.duk.isSome = true) ∧
        (d.vlt.rootReady = false → c.su.pufReads = 2 → d.su.failed = true ∧ d.getF F.SYS_BOOT_STAT_fail [] = 3) ∧
        d.vlt.slots = c.vlt.slots) ∧
    (awake → c.evr.started = true → c.su.done = false → c.su.failed = false → c.vlt.rootReady = true →
      bit (c.getF F.SYS_BOOT_STAT_done []) 4 = false → c.noKeys = false ∨ c.entFailed = true → c.ctl.heldLockdown = none → c.logs →
      ∀ us, completes (.startDone
          { cryptoOk := true, sramOk := true, failedLadles := [], retiredPcs := 0, micros := us }) s fun d =>
        d.ctl.mode = (if c.activeSeal.isSome ∧ c.activeOwner.isSome then .sealed else .erased) ∧ d.su.done = true ∧
        bit (d.getF F.SYS_BOOT_STAT_done []) 6 = true ∧ d.vlt = c.vlt ∧
        ∃ e ∈ d.evr.intake, e.code = Ev.START_DONE ∧ e.source = 0x003 ∧ e.items.head? = some (4, modeCode d.ctl.mode)) ∧
    (awake → c.evr.started = true → c.su.done = false → c.su.failed = false → c.vlt.rootReady = true →
      bit (c.getF F.SYS_BOOT_STAT_done []) 4 = false → c.noKeys = false ∨ c.entFailed = true → ∀ us, completes (.startDone
          { cryptoOk := false, sramOk := true, failedLadles := [], retiredPcs := 0, micros := us }) s fun d =>
        d.su.failed = true ∧ d.getF F.SYS_BOOT_STAT_fail [] = 4 ∧ d.vlt.duk = none ∧ d.vlt.rootReady = false ∧
        d.su.done = false ∧ d.ctl.mode = .wake) ∧
    (c.powered = true → c.su.resetHeld = false → SMap.wf (fun _ => {}) c.vlt.slots = true →
      let cleared := fun (d : Chip) => ∀ i,
        d.slot i = if (c.slot i).ephemeral = true ∧ ((c.slot i).state = 1 ∨ (c.slot i).state = 3)
          then { c.slot i with state := 2 } else c.slot i
      (∀ k : HostResetKind, completes (.hostReset k) s fun d =>
        (∀ r, d.ring r = {}) ∧
        (∀ n, d.frame n = (c.frame n).map fun f => { f with host := f.host.map fun h => (none, h.2) }) ∧ (∀ fn, SMap.get (fun _ => false) d.hif.bme fn = false) ∧ cleared d ∧
        (∀ key, 0x20000 ≤ key / 32 → key / 32 < 0x30000 → d.inForce key =
          if 0x20008 ≤ key / 32 ∧ key / 32 < 0x2000C then c.inForce key else (regReset key).toNat) ∧
        d.getF F.SYS_BOOT_STAT_host_cause [] = (match k with | .perst => 8 | .hot => 9 | .linkLoss => 10) ∧
        d.ctl = c.ctl) ∧
      (∀ fn : Fin 66, completes (.functionLevelReset fn) s fun d =>
        (∀ r : Fin 256, d.ring r.val = if c.ringOwner r.val = some fn.val then {} else c.ring r.val) ∧
        (∀ p ∈ d.hif.owed, p.1 ≠ fn.val) ∧ cleared d ∧ d.getF F.SYS_BOOT_STAT_host_cause [] = 11 ∧
        d.hif.bme = c.hif.bme ∧ d.ctl = c.ctl)) ∧
    (∀ (key sig : Bytes) (flags : BitVec 16), c.orderFree → c.ctl.mode = .erased →
      (flags ≠ 2 → completes (.ownerClaim key flags sig) s fun d => d = c.ended { status := 0x53 }) ∧
      (c.ctl.d3Taint = true → c.logs → completes (.ownerClaim key 2 sig) s fun d =>
        d = { c.ended { status := 0x8F } with evr := d.evr } ∧ c.logged d [⟨Ev.CLAIM_FAIL, 0x005, [], false⟩])) ∧
    (∀ (key sig challenge : Bytes) (i t : Nat), c.orderFree → c.ctl.mode = .erased → c.ctl.d3Taint = false →
      c.entFailed = false → c.ctl.challenge = some challenge → c.activeOwner = none → c.su.presenceEnds = some t → c.now < t →
      c.nextOwner = some i → completes (.ownerClaim key 2 sig) s fun d =>
        d.ctl.challenge = none ∧ d.ctl.mode = .erased ∧
        (Config.ecdsaVerify key sig (authMessage challenge 11 4 2) = true →
          d.ownerSlot i = { hash := Config.sha384 key, crcGood := true, started := true, done := true } ∧
          (∀ k, k ≠ i → d.ownerSlot k = c.ownerSlot k) ∧ d.su.presenceEnds = none ∧ d.ord.wait = .random ∧
          d.ent = { c.ent with waiting := c.ent.waiting ++ [{ cls := 2, need := 2, use := .claimSeal }] }) ∧
        (Config.ecdsaVerify key sig (authMessage challenge 11 4 2) = false →
          d.vlt = c.vlt ∧ d.ord.res.status = 0x89 ∧ d.ctl.fails = c.ctl.fails + 1)) ∧
    (∀ t, c.su.presenceEnds = some t → t < 2 ^ 64 → completes .presenceLapse s fun d =>
      d.su = { c.su with presenceEnds := none } ∧ t ≤ d.now ∧ d = { c with su := d.su, tim := d.tim })

/-! ### Modes, owner authentication and debug (chapter 14) -/

/-- R359 to R368: MODE_SET stages a listed change whose conditions hold and refuses one that the table does not list; the
change takes effect with its record, and spends authorisation and PIN token; a drain ends in its target. -/
def Obligations.ModeTransitions : Prop :=
  ∀ (s : State) (cfg : Word),
    let c := s.chip
    let k := c.ctl
    let m := setMode (cfg.toNat % 16)
    let drain := if m = some .drain then modeOf (cfg.toNat / 16) else none
    let entered := fun (d : Chip) (new : Mode) =>
      d.ctl.mode = new ∧ d.ctl.power = powerOf new ∧ d.ctl.auth = none ∧ d.ctl.pinOk = none ∧
      d.getF F.MOD_LAST_from [] = modeCode k.mode ∧ d.getF F.MOD_LAST_to [] = modeCode new ∧
      d.getF F.MOD_LAST_cause [] = 0 ∧ d.getB F.PRS_STAT_holding [] = decide (new = .active ∨ (new = .drain ∧ c.holding = true)) ∧
      d.su.presenceEnds = none ∧ d.pnl.held = none ∧ d.vlt = c.vlt
    (c.orderFree → cfg.toNat < 256 → c.ord.staged = [] → k.d3Taint = false →
      (∀ t, m = some t → c.modeCheck k.mode t drain = 0 → completes (.modeSet cfg) s fun d =>
        d = (c.plusStaged (.modeSet k.mode t drain)).ended {}) ∧
      (∀ t, m = some t → transition k.mode t drain = none → c.logs → completes (.modeSet cfg) s fun d =>
        d.ord.res.status = 0x8A ∧ d.ord.staged = [] ∧ d.ctl = c.ctl ∧ c.bumped d F.MOD_REFUSE_CNT_count [] ∧
        c.logged d [⟨Ev.MODE_REFUSED, 0x001, [], false⟩])) ∧
    (∀ t dr, k.pendingMode = some (t, dr) → c.ord.ended = none → completes .modeChange s fun d =>
      let new := if t = .active then c.serviceMode else t
      entered d new ∧ d.ctl.drainTo = (if new = .drain then dr else none) ∧ d.ctl.pendingMode = none) ∧
    (k.mode = .drain →
      let target := k.drainTo.getD .sealed
      (c.draining = false → completes .drainEnd s fun d => entered d target) ∧
      (c.draining = true → completes .drainEnd s fun d => d = c) ∧
      (completes .drainTimeout s fun d =>
        d.ctl.mode = target ∧ (k.drainEnds < 2 ^ 64 → k.drainEnds ≤ d.now) ∧ d.vlt = c.vlt ∧
        (c.draining = true → c.logs → (∀ x, c.gated x = false) → ∃ e ∈ d.evr.intake, e.code = Ev.DRAIN_TMO)))

/-- R362 to R366: a challenge is drawn from the generator, the owner's signature over it gives an authorisation or counts
a failure, the eighth of which blocks; authorisation, block and PIN token end at their instants. -/
def Obligations.OwnerAuthentication : Prop :=
  ∀ (s : State) (out : DWord) (fromMode toMode : Byte) (flags : BitVec 16) (key sig challenge : Bytes),
    let c := s.chip
    let k := c.ctl
    (c.orderFree → c.inMode authModes = true → c.ahead k.blocked = false → c.entFailed = false →
      completes (.authChallenge out) s fun d => d = c.awaits 1 2 (.challenge out.toNat)) ∧
    (∀ t, c.orderFree → c.inMode authModes = true → k.blocked = some t → c.now < t →
      completes (.authChallenge out) s fun d => d = c.ended { status := 0x88 }) ∧
    (c.orderFree → c.inMode authModes = true → c.authPair fromMode.toNat toMode.toNat flags.toNat = true →
      k.challenge = some challenge → c.logs → completes (.ownerAuth fromMode toMode flags key sig) s fun d =>
        let good := c.isOwner key = true ∧
          Config.ecdsaVerify key sig (authMessage challenge fromMode.toNat toMode.toNat flags.toNat) = true
        (good → d.ctl = { k with
            challenge := none, fails := 0, auth := some {
            fromMode := fromMode.toNat, toMode := toMode.toNat, flags := flags.toNat, ends := c.now + 60000000000, challenge := challenge } } ∧
          d.ord.res = {} ∧ c.logged d [⟨Ev.AUTH_OK, 0x001, [], false⟩]) ∧
        (¬ good → d.ctl = { k with
            challenge := none, fails := k.fails + 1,
            blocked := if 8 ≤ k.fails + 1 then some (c.now + 60000000000) else k.blocked } ∧
          d.ord.res.status = 0x89 ∧ c.logged d [⟨Ev.AUTH_FAIL, 0x001, [], false⟩]) ∧ d.vlt = c.vlt ∧ d.regs = c.regs) ∧
    (∀ a, k.auth = some a → a.ends < 2 ^ 64 → completes .authLapse s fun d =>
      a.ends ≤ d.now ∧ d = { c with ctl := { k with auth := none }, tim := d.tim }) ∧
    (∀ t, k.blocked = some t → t < 2 ^ 64 → completes .authBlockEnd s fun d =>
      t ≤ d.now ∧ d = { c with ctl := { k with blocked := none }, tim := d.tim }) ∧
    (∀ t, k.pinOk = some t → t < 2 ^ 64 → completes .pinTokenLapse s fun d =>
      t ≤ d.now ∧ d = { c with ctl := { k with pinOk := none }, tim := d.tim })

/-- R371 to R377: traffic keys are disabled and enabled in MAINTENANCE; a debug level is granted where the mode grants it
and refused elsewhere, and a request for D3 while RESET_N is low waits for its release; a certificate of the owner starts the forced purge. -/
def Obligations.DebugAndTrafficKeys : Prop :=
  ∀ (s : State) (l : Fin 4) (at' : DWord) (b : Bytes),
    let c := s.chip
    (c.orderFree → c.ctl.mode = .maintenance →
      (completes .tkDisable s fun d =>
        d = ({ c with ctl := { c.ctl with tkDis := true }, pan := { c.pan with caches := [] } } : Chip).ended {}) ∧
      (c.ctl.dbg < 2 → completes .tkEnable s fun d => d = ({ c with ctl := { c.ctl with tkDis := false } } : Chip).ended {}) ∧
      (2 ≤ c.ctl.dbg → completes .tkEnable s fun d => d = c.ended { status := 0x8E }) ∧
      (c.authHere 1 = true → c.pinValid = true → c.dmaAllowed 0 = true → c.ctl.zeroizing = none → c.logs →
        completes (.dbgCert at' 256 (some b)) s fun d =>
          (c.certOk b = true → d.ctl.zeroizing = some (6, c.nowUs) ∧ d.ctl.auth = none ∧ d.ctl.pinOk = none ∧
            d.vlt.sealA = none ∧ d.vlt.sealB = none ∧ d.ord.res = {}) ∧
          (c.certOk b = false → d.ctl = c.ctl ∧ d.vlt = c.vlt ∧ d.ord.res.status = 0x90 ∧
            c.logged d [⟨Ev.DBG_REFUSED, 0x002, [(4, 3), (4, 9), (4, c.ctl.power), (4, 2)], false⟩]))) ∧
    (let asks := fun (i : Instr) (path : Nat) =>
        (l.val ≤ c.ctl.dbg ∨ c.dbgGrants c.ctl.mode l.val = true → completes i s fun d =>
          d.ctl = { c.ctl with dbg := l.val, d3Taint := c.ctl.d3Taint || decide (l = 3) } ∧
          d.flt.flags = (if l = 3 then c.flt.flags ||| 1#32 <<< 16 else c.flt.flags) ∧ d.vlt = c.vlt) ∧
        (c.ctl.dbg < l.val → c.dbgGrants c.ctl.mode l.val = false → c.logs → completes i s fun d =>
          d.ctl = c.ctl ∧ d.getF F.MOD_DBG_CTL_refused [] = 1 ∧ c.logged d
            [⟨Ev.DBG_REFUSED, 0x002, [(4, l.val), (4, modeCode c.ctl.mode), (4, c.ctl.power), (4, path)], false⟩])
     (c.running = true → c.evr.started = true → asks (.dbgRequest l) 0) ∧
     (c.powered = true → (c.su.resetHeld = false ∨ l ≠ 3) → asks (.dbgReq l) 1)) ∧
    (c.powered = true → c.su.resetHeld = true → completes (.dbgReq 3) s fun d =>
      d = { c with su := { c.su with d3AtRelease := true } })

/-! ### Channels and associations (chapter 06) -/

/-- R153 to R160, R167, R168: the channel and SA orders stage what they name when its checks pass against the staged
state, SA_INFO writes the read window, and COMMIT puts a channel's configuration, an SA context and a schedule in force. -/
def Obligations.AssociationOrders : Prop :=
  ∀ (s : State) (ch : Word) (cfg : Word) (sci : DWord) (index key ssci peer h cur next : Word) (pn epoch out : DWord)
    (salt : BitVec 96),
    let c := s.chip
    let t := c.staged
    let stages := fun (i : Instr) (e : Staged) => completes i s fun d => d = (c.plusStaged e).ended {}
    let v := cfg.toNat
    let x : Channel := {
      valid := true, dir := bit v 0, portCh := bit v 1, linePort := bits v 4 2, subPort := bits v 6 5, tag := bits v 18 7, sci := sci }
    let a : Sa := {
      dir := bit v 4, channel := ch.toNat, an := bits v 1 0, suite := bits v 3 2, key := key, ssci := ssci, salt := salt,
      nextPn := pn.toNat, replayWin := bits v 16 6, hold := bit v 5, peerIndex := peer.toNat % 65536,
      peerGen := bits peer.toNat 23 16 }
    (c.orderFree → c.stagedCount < 64 → ch.toNat < 32768 →
      (c.inMode channelModes = true → v < 2 ^ 19 → t.channelCheck ch.toNat x = 0 →
        stages (.chSet ch cfg sci) (.chSet ch.toNat x)) ∧
      (c.inMode retireModes = true → t.holdsSa ch.toNat = false → stages (.chClear ch) (.chClear ch.toNat)) ∧
      (c.inMode channelModes = true → index.toNat < 65536 → v < 2 ^ 17 → peer.toNat < 2 ^ 24 → fnOf key < 66 →
        t.installCheck index.toNat a = 0 → stages (.saInstall index ch key cfg ssci peer pn salt)
          (.saInstall index.toNat (installed a))) ∧
      (c.inMode retireModes = true → t.retireCheck h = 0 → stages (.saRetire h) (.saRetire h)) ∧
      (c.inMode channelModes = true → bits cur.toNat 23 16 = 0 → bits next.toNat 23 16 = 0 → epoch.toNat < 2 ^ 40 →
        c.scheduleRefused = 0 → t.scheduleCheck ch.toNat cur next epoch.toNat = 0 →
        stages (.scheduleSwitch ch cur next epoch) (.schedule ch.toNat cur next epoch.toNat)) ∧
      (c.inMode retireModes = true → t.cancelCheck ch.toNat = 0 → stages (.scheduleCancel ch) (.schedCancel ch.toNat))) ∧
    (c.orderFree → c.inMode infoModes = true → c.dmaAllowed 0 = true → index.toNat < 65536 →
      completes (.saInfo index out) s fun d =>
        d = (c.gave out.toNat ((c.saWindow index.toNat).flatMap fun w => leBytes 4 w)).ended {}) ∧
    (c.orderFree → c.inMode channelModes = true → c.ord.regWrites = [] → c.ord.heldFill = false →
      (c.ord.staged = [.chSet ch.toNat x] → c.channelCheck ch.toNat x = 0 → completes .commit s fun d =>
        d.chan ch.toNat = { c.chan ch.toNat with
          valid := true, dir := x.dir, portCh := x.portCh, linePort := x.linePort, subPort := x.subPort, tag := x.tag, sci := sci } ∧
        (∀ k, k ≠ ch.toNat → d.chan k = c.chan k) ∧ d.ord.staged = [] ∧ d.ord.res = {}) ∧
      (∀ i y, c.ord.staged = [.saInstall i y] → c.installCheck i y.asked = 0 → completes .commit s fun d =>
        d.sa i = { y with generation := nextGen (c.sa i).generation } ∧ (∀ k, k ≠ i → d.sa k = c.sa k) ∧
        (d.chan y.channel).saAt y.an = some i ∧ (d.slot (slotOf y.key)).bound = true ∧
        (y.dir = false → (c.chan y.channel).txCur = false → (d.chan y.channel).txCur = true ∧ (d.chan y.channel).txAn = y.an) ∧
        d.ord.staged = [] ∧ d.ord.res = {}))

/-- R161, R162, R164, R168, R169: at its epoch a transmit schedule moves its channel to the next SA and retires the
current one, or is missed when the next is not live; a receive schedule opens the next SA before the tick and retires the
current one W after it, and a port channel's ingot port loses its synchronisation; in STANDBY no schedule acts by itself
(R158); an SA stops at its last packet number. -/
def Obligations.ScheduledSwitches : Prop :=
  ∀ (s : State) (ch : Fin 32768) (i : Fin 65536),
    let c := s.chip
    let k := c.chan ch.val
    let old := k.schedCur
    let new := k.schedNext
    (c.ctl.mode = .standby → (completes (.scheduledSwitch ch) s fun d => d = c) ∧
      (completes (.rxWindowOpen ch) s fun d => d = c) ∧ completes (.rxWindowClose ch) s fun d => d = c) ∧
    (c.ctl.mode ≠ .standby → k.sched = true → k.schedEpoch ≤ c.tim.epoch → (∀ x ∈ c.sax.closes, x.channel ≠ ch.val) →
      (c.saLive new = true → k.dir = false → (c.sa old).channel = ch.val → old ≠ new → c.logs →
        completes (.scheduledSwitch ch) s fun d =>
          (d.chan ch.val).txCur = true ∧ (d.chan ch.val).txAn = (c.sa new).an ∧ (d.chan ch.val).prevTx = some old ∧
          (d.chan ch.val).sched = false ∧ d.sa old = { c.sa old with state := 2 } ∧ (∀ j, j ≠ old → d.sa j = c.sa j) ∧
          (d.slot (slotOf (c.sa old).key)).bound = false ∧
          c.logged d [⟨Ev.SA_SWITCHED, saSource old,
            [(4, ch.val), (4, (c.saHandle old).toNat), (4, (c.saHandle new).toNat), (8, k.schedEpoch)], false⟩,
              ⟨Ev.SA_RETIRED, saSource old, [], false⟩]) ∧
      (c.saLive new = true → k.dir = true → completes (.scheduledSwitch ch) s fun d =>
        d = { c with sax := { c.sax with closes := c.sax.closes ++ [⟨ch.val, old, c.now + c.rekeyW⟩] } }) ∧
      (c.saLive new = false → c.logs → completes (.scheduledSwitch ch) s fun d =>
        (d.chan ch.val).sched = false ∧ d.sax.sas = c.sax.sas ∧ d.getF F.SAX_STAT_missed [] = 1 ∧
        c.logged d [⟨Ev.SCHED_MISSED, saSource new, [], false⟩])) ∧
    (c.ctl.mode ≠ .standby → k.sched = true → k.dir = true → k.schedEpoch ≤ c.tim.epoch + b2n c.tim.windowDone →
      completes (.rxWindowOpen ch) s fun d =>
        (∀ j, d.sa j = if j = new then { c.sa new with hold := false } else c.sa j) ∧
        (k.portCh = false → d = { c with sax := { c.sax with sas := d.sax.sas } }) ∧
        (k.portCh = true → k.valid = true → d.getB F.PRT_FRM_STAT_rx_sync [k.linePort, k.subPort] = false)) ∧
    (∀ x, c.ctl.mode ≠ .standby → c.sax.closes.find? (·.channel = ch.val) = some x → x.due < 2 ^ 64 →
      (c.sa x.sa).state = 1 → k.sched = true → old = x.sa → completes (.rxWindowClose ch) s fun d =>
        (d.sa x.sa).state = 2 ∧ (∀ j, j ≠ x.sa → d.sa j = c.sa j) ∧ (d.chan ch.val).sched = false ∧
        (∀ y ∈ d.sax.closes, y.channel ≠ ch.val) ∧ x.due ≤ d.now ∧
        (c.logs → c.logged d [⟨Ev.SA_RETIRED, saSource x.sa, [], false⟩])) ∧
    (let x := c.sa i.val
     x.state = 1 → x.dir = false → x.stopped = false → x.nextPn = lastPn x.suite → c.sealTarget (c.saHandle i.val) = i.val →
      c.sealTest (c.saHandle i.val) = 0 → c.mayAllocate i.val = true → c.logs →
      completes (.pnLimitReached i) s fun d =>
        d.sa i.val = { x with stopped := true, nextPn := x.nextPn + 1, soon := true } ∧ (∀ j, j ≠ i.val → d.sa j = c.sa j) ∧
        d.getF F.SAX_STAT_stopped [] = 1 ∧ ⟨Ev.PN_EXHAUSTED, saSource i.val, [], false⟩ ∈ d.evr.intake)

/-! ### Random numbers (chapter 07) -/

/-- R180 to R184, R189: a window in which one value stands 41 times in a row, or whose first value occurs 795 times, fails
its test; one that passes is released and feeds the seed, or goes to the raw FIFO; a failed test stops its source and
counts, three in a row of both sources fail the generator, a stopped source restarts, and the start-up and known-answer
tests end. -/
def Obligations.EntropySources : Prop :=
  ∀ (s : State) (i : Fin 2) (w : BitVec 1024) (n : Fin 1025),
    let c := s.chip
    let b := c.brine i.val
    let other := c.brine (1 - i.val)
    let same := fun (d : Chip) => d.brine (1 - i.val) = other
    let repeats := fun (from' len : Nat) => ∀ j, from' ≤ j → j < from' + len → w.getLsbD j = w.getLsbD from'
    let often := fun (k : Nat) => 795 ≤ (List.range k).countP fun j => w.getLsbD j == w.getLsbD 0
    let passes := b.judge w 1024 = none
    let fails := fun (cmd : Instr) (apt : Bool) => b.consec + 1 < 3 ∨ other.consec < 3 → b.consec < 15 →
      b.degradedSaid = true ∨ b.consec + 1 < 3 → c.srcState i.val ≠ 3 → c.logs → completes cmd s fun d =>
        d.brine i.val = { b with
          consec := b.consec + 1, running := false, restarting := true, startTest := true, last := none, run := 0 } ∧ same d ∧
        d.getF (if apt then F.ENT_SRC_STAT_apt_fail else F.ENT_SRC_STAT_rct_fail) [i.val] = 1 ∧
        d.getF F.ENT_STAT_health [] = 1 ∧ c.logged d
          [⟨Ev.ENT_HEALTH, 0x0C8, [(4, i.val), (4, b2n apt + 2 * b2n b.startTest), (4, b.consec + 1)], false⟩]
    ((∃ k, k + 41 ≤ n.val ∧ repeats k 41) → b.judge w n.val = some false) ∧
    (often n.val → b.judge w n.val ≠ none) ∧
    (b.running = true → b.startTest = false → passes → c.srcState i.val ≠ 3 → completes (.entropyBlockRelease i w) s fun d =>
      d.brine i.val = { b.took w with consec := 0, degradedSaid := false } ∧ same d ∧
      d.ent.seed = c.ent.seed ++ [condition (w.extractLsb' 0 512), condition (w.extractLsb' 512 512)] ∧
      d.ent.drbg = c.ent.drbg ∧ d.ent.raw = c.ent.raw) ∧
    (b.running = true → b.startTest = false → passes → c.srcState i.val = 3 → completes (.entropyBlockRelease i w) s fun d =>
      d.ent.raw = c.ent.raw ++ ((List.range 32).map fun k => w.extractLsb' (32 * k) 32).take (64 - c.ent.raw.length) ∧
      d.brine i.val = b.took w ∧ same d ∧ d.ent.seed = c.ent.seed ∧ d.ent.drbg = c.ent.drbg ∧
      (32 < c.ent.raw.length → d.getF F.ENT_RAW_CTL_overrun [] = 1)) ∧
    (∀ apt, b.running = true → b.judge w n.val = some apt → fails (.healthTestFail i ⟨n, w⟩) apt) ∧
    (∀ apt, b.running = true → b.startTest = false → b.judge w 1024 = some apt → fails (.entropyBlockRelease i w) apt) ∧
    (∀ apt, b.running = true → b.startTest = true → b.judge w 1024 = some apt → fails (.sourceStartupTestEnd i w) apt) ∧
    (b.running = true → b.judge w n.val ≠ none → 2 ≤ b.consec → b.consec < 15 → 3 ≤ other.consec → c.entFailed = false →
      completes (.healthTestFail i ⟨n, w⟩) s fun d =>
        d.entFailed = true ∧ d.ent.drbg = none ∧ d.ent.seed = [] ∧ d.ent.waiting = []) ∧
    (b.running = true → b.startTest = true → passes → completes (.sourceStartupTestEnd i w) s fun d =>
      d.brine i.val = { b.took w with startTest := false } ∧ same d ∧ d.ent.seed = c.ent.seed) ∧
    (b.restarting = true → completes (.sourceRestart i) s fun d =>
      d.brine i.val = { b with running := true, restarting := false } ∧ same d ∧
      d.getF (entRestart i.val) [] = 0) ∧
    (c.ent.started = true → c.ent.katOk = false →
      (completes (.drbgKatEnd true) s fun d => d = { c with ent := { c.ent with katOk := true } }) ∧
      (c.entFailed = false → completes (.drbgKatEnd false) s fun d => d.entFailed = true ∧ d.ent.drbg = none))

/-- R184 to R190: the DRBG is instantiated from 384 fresh bits, generates 512 blocks at a time, reseeds with bits no seed
has used, and goes stale without them; GET_RANDOM waits for its blocks and is served with them. -/
def Obligations.RandomGeneration : Prop :=
  ∀ (s : State) (st : BitVec 384) (n : Word) (out : DWord),
    let c := s.chip
    let e := c.ent
    (∀ a b d' rest, e.seed = a :: b :: d' :: rest →
      (e.katOk = true → e.drbg = none → c.entFailed = false → c.logs → completes .drbgInstantiate s fun d =>
        d.ent = { e with
          drbg := some (drbgUpdate 0 ((a ++ b ++ d') ^^^ (Config.deviceId ++ (0 : BitVec 320)))), seed := rest,
          calls := 0, fifoNext := 512 } ∧
        d.getF F.ENT_STAT_ready [] = 1 ∧ d.getF F.ENT_STAT_stale [] = 0 ∧ c.logged d [⟨Ev.ENT_READY, 0x0C8, [], false⟩]) ∧
      (e.drbg = some st → completes .drbgReseed s fun d =>
        d.ent = { e with drbg := some (drbgUpdate st (a ++ b ++ d')), seed := rest, calls := 0 } ∧
        d.getF F.ENT_STAT_stale [] = 0 ∧ c.bumped d F.ENT_RESEED_CNT_count [])) ∧
    (e.drbg = some st → e.fifoNext = 512 → e.calls < 2 ^ 20 → c.getB F.ENT_STAT_stale [] = false →
      completes .drbgGenerate s fun d =>
        d = { c with
          ent := { e with
          fifoState := st, fifoNext := 0, drbg := some (drbgUpdate (drbgAdvance st 512) 0), calls := e.calls + 1 } }) ∧
    (e.drbg = some st → e.calls = 2 ^ 20 → c.getB F.ENT_STAT_stale [] = false → e.seed.length < 3 → c.logs →
      completes .seedStale s fun d =>
        d.getF F.ENT_STAT_stale [] = 1 ∧ d.ent = e ∧ c.logged d [⟨Ev.ENT_SEED_STALE, 0x0C8, [], false⟩]) ∧
    (c.orderFree → c.inMode storeModes = true → 1 ≤ n.toNat → n.toNat ≤ 4096 → c.entFailed = false →
      completes (.getRandom n out) s fun d => d = c.awaits 4 ((n.toNat + 15) / 16) (.host out.toNat n.toNat)) ∧
    (∀ need, e.waiting = [{ cls := 4, need := need, use := .host out.toNat n.toNat }] → 1 ≤ need →
      (need + e.fifoNext ≤ 512 → c.ord.wait = .random → c.ord.busy = false → c.ord.callReg = none →
        c.inMode storeModes = true → c.dmaAllowed 0 = true → completes .randomRequestServe s fun d =>
          d.out = c.out ++ [.hostWrite 0 out.toNat (slice (((List.range need).map fun i =>
            drbgBlock e.fifoState (e.fifoNext + i)).flatMap fun x => beBytes 16 x.toNat) 0 n.toNat)] ∧
          d.ent = { e with waiting := [], fifoNext := e.fifoNext + need } ∧ d.ord.wait = .none ∧ d.ord.res = {} ∧
          d.regs = c.regs) ∧
      (e.fifoNext < 512 → 512 < need + e.fifoNext → completes .randomRequestServe s fun d =>
        let got := (List.range (512 - e.fifoNext)).map fun i => drbgBlock e.fifoState (e.fifoNext + i)
        let r : RandReq := { cls := 4, need := need, use := .host out.toNat n.toNat, got := got }
        d = { c with ent := { e with fifoNext := 512, waiting := [r] } }))

/-! ### Frames (chapters 02 and 04) -/

/-- R30 to R35, R52, R53, R60, R102: a frame is received into its pool, at once or from its header window on, or dropped for
its reason; one that fails its checks after its window is forgotten, and one that the part has dropped since is counted with
its last byte, as is the event of INGRESS_FULL (the model's choice, log entry 62); a MACsec frame of a live SA is opened early,
and a descriptor of the driver gives a frame in its port's direct queue or a refusal. -/
def Obligations.FrameArrival : Prop :=
  ∀ (s : State) (p : Fin 16) (b : Fin 4) (data : Bytes) (n : Nat) (f : Frame),
    let c := s.chip
    let sp := schedOf p.val b.val
    let counts := fun (d : Chip) (l : List (Nat × Nat)) => ∀ k, k < 0x80 →
      d.cntGet false (sp * 0x80 + k) = c.cntGet false (sp * 0x80 + k) + BitVec.ofNat 64 ((l.filter (·.1 = k)).map (·.2)).sum
    let wire := data.length + 4
    let bare := fun (g : Option Frame) => g.map fun g => { g with die := [] }
    let record : Frame := {
      data := data, entry := p.val, sub := b.val, ts := c.rxStamp p.val b.val wire, tsValid := c.lanesCal p.val b.val,
      summary := parseSummary (data ++ fcs data) (c.hdrWin p.val b.val), len := wire,
      kid := if c.noKeys then none else some (c.getF F.MEM_FRAME_KID_kid []) }
    let room := c.poolUsed sp + 16032 ≤ c.getF F.PRT_SUB_CFG_pool [p.val, b.val] * 65536
    let drops := fun (ok : Bool) (reason : Nat) => completes (.frameReceive p b data ⟨ok, false⟩) s fun d =>
      counts d [(0x20 + (reason - 0x80), 1)] ∧ d = { c with cnt := d.cnt }
    (c.running = true → c.portUp p.val b.val = true → c.comingFrame p.val b.val = none →
      drops false 0x81 ∧ (wire < 64 → drops true 0x82) ∧ (64 ≤ wire → c.maxLen p.val b.val < wire → drops true 0x83) ∧
      (room → c.noKeys = false →
        (64 ≤ wire → wire ≤ c.maxLen p.val b.val → be16 data 12 ≠ 0x8808 →
          completes (.frameReceive p b data ⟨true, false⟩) s fun d =>
            counts d ([(0, 1), (1, wire)] ++ if c.macsecMode p.val b.val && be16 data 12 ≠ 0x88E5 then [(13, 1)] else []) ∧
            bare (d.frame c.path.next) = some record ∧ (∀ k, k ≠ c.path.next → d.frame k = c.frame k) ∧
            d.path.next = c.path.next + 1 ∧ d.regs = c.regs ∧ d.evr = c.evr) ∧
        (∀ ok, completes (.frameReceive p b data ⟨ok, true⟩) s fun d =>
          bare (d.frame c.path.next) = some { record with
            coming := true, ts := c.rxStamp p.val b.val (min (c.hdrWin p.val b.val) wire) } ∧
          (∀ k, k ≠ c.path.next → d.frame k = c.frame k) ∧
          d.path.next = c.path.next + 1 ∧ d = { c with path := d.path, buf := d.buf })) ∧
      (¬ room → ∀ ok, completes (.frameReceive p b data ⟨ok, true⟩) s fun d =>
        (∀ k, d.frame k = if k = c.path.next then some { record with
          coming := true, stage := .gone, lost := some 0x84, kid := none } else c.frame k) ∧
        d = { c with path := d.path })) ∧
    (c.comingFrame p.val b.val = some (n, f) → f.entry = p.val → f.sub = b.val → f.stage = .pool →
      (completes (.frameReceive p b data ⟨false, false⟩) s fun d => d.frame n = none ∧ d.regs = c.regs ∧
        d.cntGet false (sp * 0x80 + 0x21) = c.cntGet false (sp * 0x80 + 0x21) + 1) ∧
      (c.portUp p.val b.val = true → 60 ≤ f.data.length → f.data.length + 4 ≤ c.maxLen p.val b.val →
        be16 f.data 12 ≠ 0x8808 → f.lost = none → f.learn = none →
        completes (.frameReceive p b data ⟨true, false⟩) s fun d =>
          d.frame n = some { f with coming := false } ∧
          d.cntGet false (sp * 0x80) = c.cntGet false (sp * 0x80) + 1 ∧
          (∀ k, k ≠ n → d.frame k = c.frame k) ∧ d.regs = c.regs ∧ d.evr = c.evr)) ∧
    (∀ r, c.comingFrame p.val b.val = some (n, f) → f.entry = p.val → f.sub = b.val → f.stage = .gone → f.lost = some r →
      f.openPending = false → c.portUp p.val b.val = true → 60 ≤ f.data.length →
      f.data.length + 4 ≤ c.maxLen p.val b.val → be16 f.data 12 ≠ 0x8808 →
      (0x80 ≤ r → r < 0xA0 → completes (.frameReceive p b data ⟨true, false⟩) s fun d =>
        d.frame n = none ∧ d.cntGet false (sp * 0x80) = c.cntGet false (sp * 0x80) + 1 ∧
        d.cntGet false (sp * 0x80 + 0x20 + (r - 0x80)) = c.cntGet false (sp * 0x80 + 0x20 + (r - 0x80)) + 1) ∧
      (r = 0x84 → c.logs → 0 < c.tokens Ev.INGRESS_FULL → completes (.frameReceive p b data ⟨true, false⟩) s fun d =>
        c.logged d [⟨Ev.INGRESS_FULL, 0x400 + p.val, [(4, b.val)], false⟩])) ∧
    (c.frame n = some f → f.stage = .pool → f.coming = false → f.early = none → c.opensEarly f = true → f.macsec = true →
      c.lookupBefore n f = false →
      let t := rxTag f.data f.typeAt
      ∀ ch i, t.sc = true → t.good f.data f.typeAt true = true → c.rxChannel f.entry f.sub t.sci = some ch →
        (c.chan ch).saAt t.an = some i → (c.sa i).state = 1 → (c.sa i).hold = false →
        t.good f.data f.typeAt (suiteXpn (c.sa i).suite) = true →
        let pn := (c.sa i).recoverPn t.pn
        let e : Early := { hit := true, handle := c.saHandle i, an := t.an, channel := ch }
        ((c.sa i).accepts pn = true → c.inMode [.active, .standby] = true → c.pan.stopped = false →
          (c.slot (slotOf (c.sa i).key)).state = 1 → completes (.earlyLookup n) s fun d =>
            let o := c.macOpen i pn f.entry f.sub f.data f.typeAt
            d.frame n = some { f with
              early := some { e with opened := true }, sa := some i, pn := pn, plain := o.1, icvOk := o.2 } ∧
            (∃ k r, d.panReq k = some r ∧ r.kind = .opening ∧ r.subject = n) ∧ d.sax = c.sax ∧ d.vlt = c.vlt) ∧
        ((c.sa i).accepts pn = false → completes (.earlyLookup n) s fun d =>
          d.frame n = some { f with early := some { e with fail := 0x8E, testFail := true } } ∧
          d.cntGet true (i * 4 + 3) = c.cntGet true (i * 4 + 3) + 1 ∧ d.sax = c.sax)) ∧
    (∀ (ring : Fin 16) (desc frame : Bytes),
      let r := 24 + ring.val
      let e := excOut (slice desc 0 32)
      let q := directQueue (schedOf e.port e.sub) e.cls
      let body := slice frame 0 e.length
      c.canFetch r = true → c.ringOwner r = some 0 →
      (c.excCheck e ≠ 0 → c.excCheck e ≠ 3 → completes (.excOutFetch ring (some desc) (some frame)) s fun d =>
        (d.ring r).own = (c.ring r).own + 1 ∧ (d.ring (r + 16)).own = (c.ring (r + 16)).own + 1 ∧ d.path = c.path) ∧
      (c.excCheck e = 0 → e.action ≠ 1 → c.portUp e.port e.sub = true → (c.queueCfg q).en = true →
        (c.queueSt q).bytes + body.length + 4 ≤ 1024 * (c.queueCfg q).limitG →
        c.kidActive (c.getF F.MEM_FRAME_KID_kid []) = true → c.onDie q < 1024 * (c.queueCfg q).odShare →
        c.odQueued + (body.length + 4) ≤ c.odRoom → c.gateList (schedOf e.port e.sub) = none → c.frame c.path.next = none →
        completes (.excOutFetch ring (some desc) (some frame)) s fun d =>
          (∃ g, d.frame c.path.next = some g ∧ g.data = body ∧ g.queue = some q ∧ g.stage = .queued ∧ g.outPort = e.port ∧
            g.outSub = e.sub ∧ g.host = some (some r, e.cookie, b2n e.tsReq + 2 * b2n e.oneStep, e.cfOff)) ∧
          (d.ring r).own = (c.ring r).own + 1 ∧ (d.queueSt q).bytes = (c.queueSt q).bytes + body.length + 4))

/-- R36 to R49, R107: at Pan admission a frame takes the next packet number of its SA and is sealed, or is dropped; a
sealed frame and one whose verdict passes are ready in their queue; a frame that fails is dropped and counted; the client
framer sends the frame that its port has selected. -/
def Obligations.AdmissionSealAndVerdict : Prop :=
  ∀ (s : State) (n : Nat) (f : Frame),
    let c := s.chip
    let i := f.sa.getD 0
    let entry := schedOf f.entry f.sub
    let dropped := fun (d : Chip) (reason : Nat) => d.frame n = none ∧
      d.cntGet false (entry * 0x80 + 0x20 + (reason - 0x80)) = c.cntGet false (entry * 0x80 + 0x20 + (reason - 0x80)) + 1
    c.frame n = some f → f.host = none → f.coming = false →
    (∀ h, f.stage = .admission → f.sealMark = some h → f.queue = none → f.early = none →
      (f.isIngot = true → f.verdict.getD 0 = 0) →
      let j := c.sealTarget h
      let a := c.sa j
      let k := c.slot (slotOf a.key)
      let pb := c.sealPort f
      let sci := if c.sciTx pb.1 pb.2 then (c.chan a.channel).sci.toNat else beNat (slice f.data 6 6) * 2 ^ 16 + 1
      (c.admitTest h f.outPort f.outSub = 0 → c.mayAllocate j = true → c.sealBefore n f = false → completes (.panAdmission n) s fun d =>
        d.frame n = some { f with
          plain := f.data, data := c.macSeal j a.nextPn pb.1 pb.2 f.data, sa := some j, pn := a.nextPn,
          sealWith := some (suite256 a.suite, k.key, macIv a sci a.nextPn, if c.sciTx pb.1 pb.2 then 16 else 8,
            c.confOff pb.1 pb.2), stage := .pan } ∧
        (d.sa j).nextPn = a.nextPn + 1 ∧ (∀ x, x ≠ j → d.sa x = c.sa x) ∧
        (∃ k r, d.panReq k = some r ∧ r.kind = .sealing ∧ r.subject = n) ∧ d.vlt = c.vlt) ∧
      (c.admitTest h f.outPort f.outSub ≠ 0 → c.admitTest h f.outPort f.outSub ≠ 0x8A → completes (.panAdmission n) s fun d =>
        dropped d (c.admitTest h f.outPort f.outSub) ∧ d.sax = c.sax) ∧
      (c.admitTest h f.outPort f.outSub = 0 → c.mayAllocate j = false ∨ c.sealBefore n f = true →
        completes (.panAdmission n) s fun d => d = c)) ∧
    (∀ k r, (c.turnOf fun r => r.kind = .sealing && r.subject = n) = some (k, r) → c.readsPoison f = false → f.inHbm = false →
      completes (.sealComplete n) s fun d =>
        (d.frame n).map (fun g => { g with die := f.die }) = some { f with stage := .queued } ∧
        d.cntGet true (i * 4) = c.cntGet true (i * 4) + 1 ∧ d.sax = c.sax) ∧
    (∀ k r, (c.turnOf fun r => r.kind = .opening && r.subject = n) = some (k, r) → f.isIngot = false →
      c.openBefore n f = false →
      f.stage = .opening → f.hostWaits = [] → f.queue = none →
      (f.icvOk = true → c.saHandle i = (f.early.getD {}).handle → (c.sa i).accepts f.pn = true →
        completes (.openVerdict n) s fun d =>
          d.frame n = some { f with verdict := some 0, stage := .queued } ∧ d.sa i = (c.sa i).record f.pn ∧
          (∀ x, x ≠ i → d.sa x = c.sa x) ∧ d.cntGet true (i * 4) = c.cntGet true (i * 4) + 1) ∧
      (f.icvOk = false → completes (.openVerdict n) s fun d =>
        dropped d 0x8F ∧ d.sax = c.sax ∧ d.cntGet true (i * 4 + 2) = c.cntGet true (i * 4 + 2) + 1)) ∧
    (∀ k, let sp := schedOf f.outPort f.outSub
      c.picked sp = some k → k.frame = n → f.outPort < 8 → f.outSub < 4 → f.early = none → f.bound = none →
      f.sealWith = none → f.depMark = none → c.readsPoison f = false → c.gateFits sp k.cls k.charge = true →
      completes (.clientFrameStart n) s fun d =>
        d.out = c.out ++ [.frame f.outPort f.outSub f.data false] ∧ d.frame n = none ∧ d.picked sp = none ∧
        d.cntGet false (sp * 0x80 + 2) = c.cntGet false (sp * 0x80 + 2) + 1 ∧ d.regs = c.regs ∧ d.sax = c.sax)

/-! ### Sluice (chapter 09) -/

/-- R224 to R231, R235, R240, R241, R243 to R245: a scheduler port selects the head that the rules choose and charges its
shapers; frames move to the HBM and back; a shaper refills by its rate at its instants; a gate list takes over; the
repeated fit test returns a frame or starts it; a sampling period gives its records at its time or is lost whole. -/
def Obligations.QueuesAndScheduling : Prop :=
  ∀ (s : State) (n : Nat) (f : Frame) (q : Nat) (p : Fin 66),
    let c := s.chip
    let share := 1024 * (c.queueCfg q).odShare
    (∀ cls, c.canSend p.val = true → c.ingotMode (portOf p.val).1 (portOf p.val).2 = false → c.picked p.val = none →
      c.midFrame p.val = false → c.choose p.val = some (cls, q) → c.headOf q = some (n, f) →
      (portOf p.val).1 < 8 ∨ (c.gateList p.val).isSome = true → completes (.schedulerSelect p) s fun d =>
        let h := c.cShaper (p.val * 8 + cls)
        (∃ k, d.picked p.val = some k ∧ k.frame = n ∧ k.queue = q ∧ k.cls = cls ∧ k.charge = c.charge p.val f) ∧
        d.frame n = some { f with outPort := (portOf p.val).1, outSub := (portOf p.val).2, stage := .sending } ∧
        (h.en = true → (d.cShaper (p.val * 8 + cls)).pb =
          min ((h.pbs : Int) * 4294967296) (h.pb - (c.charge p.val f : Int) * 4294967296)) ∧
        (h.en = false → d.cShaper (p.val * 8 + cls) = h)) ∧
    (c.canSend p.val = false ∨ c.choose p.val = none → completes (.schedulerSelect p) s fun d => d = c) ∧
    (c.frame n = some f → f.queue = some q →
      ((c.queueSt q).frames = [n] → f.inHbm = false → f.stage = .queued → f.kid.isSome = true → share < f.stored →
        c.hbmFits (frameLines f.stored) = true → completes (.frameSpillToHbm n) s fun d =>
          d.frame n = some { f with inHbm := true, lines := c.freeLines (frameLines f.stored), die := [] } ∧
          (∀ k, k ≠ n → d.frame k = c.frame k) ∧ d.slu = c.slu ∧ d.vlt = c.vlt) ∧
      ((c.queueSt q).frames = [n] → f.inHbm = true → c.odQueued + f.stored ≤ c.odRoom → (c.hbmRead f).1 = true →
        c.readsPoison f = false → completes (.frameReturnOnDie n) s fun d =>
          (d.frame n).map (fun g => { g with die := f.die }) = some { f with inHbm := false, lines := [] } ∧ (∀ k, k ≠ n → d.frame k = c.frame k) ∧
          d.slu = c.slu ∧ d.vlt = c.vlt)) ∧
    (∀ (i : Fin 32768),
      let held := fun (d : Chip) => (SMap.get (fun _ => {}) d.slu.qshapers i.val : Shaper)
      let h := held c
      let adds := fun (rate period x : Nat) =>
        rate * period * 4294967296 / 8000000000 ≤ x ∧ x ≤ rate * period * 4294967296 / 8000000000 + 1
      let refilled := fun (g : Shaper) =>
        h.due ≤ c.now → c.now < h.due + g.period → g.period ≤ h.due → completes (.shaperRefill false i) s fun d =>
          (∃ x y : Nat, adds g.cir g.period x ∧ adds g.pir g.period y ∧ held d = { g with
            cb := min (g.cbs * 4294967296) (g.cb + x), pb := min (g.pbs * 4294967296) (g.pb + y),
            due := h.due + g.period }) ∧
          (∀ j, j ≠ i.val → d.qShaper j = c.qShaper j) ∧ (∀ j, d.cShaper j = c.cShaper j)
      (h.next = none → refilled h) ∧
      (∀ k cir cbs pir pbs, h.next = some (k, cir, cbs, pir, pbs) →
        refilled { h with k := k, cir := cir, cbs := cbs, pir := pir, pbs := pbs, next := none }) ∧
      (c.now < h.due → completes (.shaperRefill false i) s fun d => held d = h ∧ ∀ j, d.qShaper j = c.qShaper j)) ∧
    (∀ l at', c.pendingGates p.val = some (l, at') → c.getF F.SLU_GCL_CFG_bank [p.val] ≤ 1 →
      c.gatesOn p.val = true → c.getB F.SLU_GCL_CFG_en [p.val] = true → c.slu.swapAsked.contains p.val = false →
      (∀ x ∈ c.slu.queues, (c.queueCfg x.1).port ≠ p.val) → completes (.gclTakeover p) s fun d =>
        d.gateList p.val = some l ∧ d.pendingGates p.val = none ∧
        d.getF F.SLU_GCL_CFG_bank [p.val] = 1 - c.getF F.SLU_GCL_CFG_bank [p.val] ∧ d.getF F.SLU_GCL_CFG_swap [p.val] = 0 ∧
        d.getF F.SLU_GCL_STAT_pending [p.val] = 0 ∧ d.getF F.SLU_GCL_STAT_running [p.val] = 1 ∧ d.path = c.path ∧
        (at' ≤ clockNs c.tim.clock → d.tim.clock = c.tim.clock)) ∧
    (∀ k, c.picked p.val = some k →
      (c.gateFits p.val k.cls k.charge = false → c.frame k.frame = some f → completes (.gclFitRetest p) s fun d =>
        d.picked p.val = none ∧ c.bumped d F.SLU_GCL_STAT_retry [p.val] ∧ d.out = c.out ∧
        d.frame k.frame = some { f with stage := if f.unproved then .opening else .queued }) ∧
      (c.gateFits p.val k.cls k.charge = true → p.val < 32 → completes (.gclFitRetest p) s fun d => d = c) ∧
      (c.gateFits p.val k.cls k.charge = true → 32 ≤ p.val → p.val < 64 → c.frame k.frame = some f → c.readsPoison f = false →
        f.host = none → f.depMark = none → f.sealWith = none → f.bound = none → f.openPending = false →
        completes (.gclFitRetest p) s fun d =>
          d.picked p.val = none ∧ d.out = c.out ++ [.frame f.outPort f.outSub f.data false] ∧ d.frame k.frame = none)) ∧
    (let u := c.slu
     let len := ((u.sampleNext.map (·.1)).getD u.sampleList).length
     let period := (u.sampleNext.map (·.2)).getD u.sampleLen
     let due := u.sampling = false ∨ u.sampleDue ≤ c.now
     (c.getB F.SLU_SMP_CFG_en [] = true → due →
      (c.ringEn 57 = true → c.ringOwner 57 = some 0 → len + 1 ≤ c.ringFree 57 → completes .samplePeriod s fun d =>
        (d.ring 57).own = (c.ring 57).own + BitVec.ofNat 32 (len + 1) ∧ d.slu.sampling = true ∧
        d.slu.samplePeriod = (if u.sampling then u.samplePeriod + 1 else 0) ∧
        d.slu.sampleDue = (if u.sampling then u.sampleDue else c.now) + period ∧ d.slu.sampleNext = none ∧ d.path = c.path) ∧
      (c.ringFree 57 < len + 1 → completes .samplePeriod s fun d =>
        c.bumped d F.SLU_SMP_DROP_CNT_count [] ∧ d.getF F.SLU_STAT_smp_overrun [] = 1 ∧ d.hif = c.hif ∧ d.path = c.path)) ∧
     (c.getB F.SLU_SMP_CFG_en [] = false ∨ ¬ due → completes .samplePeriod s fun d => d = c))

/-! ### Look-aside (chapters 02 and 04) -/

/-- R54 to R58, R104, R108, R109, R112, R519: a look-aside request is fetched from the next ring of the round and checked;
at admission it takes a copy of its key, or waits for its IV, or is refused with its status; the oldest request of a pair
gives its output and its completion. -/
def Obligations.LookAside : Prop :=
  ∀ (s : State) (n : Nat) (r : LaReq) (pair : Fin 96) (b msg aad : Bytes),
    let c := s.chip
    let v := c.slot (slotOf r.handle)
    (c.laNextRing = some pair.val →
      let fetched := fun (status : Option Nat) => completes (.laRequestFetch (some b)) s fun d =>
        (∃ q, d.laReq c.path.laNext = some q ∧ q.pair = pair.val ∧ q.fn = (c.ringOwner (64 + pair.val)).getD 0 ∧
          q.enc = decide (leNat (slice b 0 4) = 1) ∧ q.handle.toNat = leNat (slice b 4 4) ∧
          q.cookie.toNat = leNat (slice b 8 8) ∧ q.msgLen = leNat (slice b 16 4) ∧ q.aadLen = leNat (slice b 20 4) ∧
          q.src = leNat (slice b 24 8) ∧ q.dst = leNat (slice b 32 8) ∧ q.aadAt = leNat (slice b 40 8) ∧
          q.iv.toNat = beNat (slice b 48 12) ∧ q.status = status ∧ q.admitted = false) ∧
        d.path.laNext = c.path.laNext + 1 ∧ d.path.laTurn = (pair.val + 1) % 96 ∧
        (d.ring (64 + pair.val)).own = (c.ring (64 + pair.val)).own + 1 ∧
        (d.ring (160 + pair.val)).reserved = (c.ring (160 + pair.val)).reserved + 1 ∧ d.vlt = c.vlt
      let ok := (leNat (slice b 0 4) = 1 ∧ beNat (slice b 48 12) = 0 ∨ leNat (slice b 0 4) = 2) ∧ leNat (slice b 60 4) = 0
      b.length = 64 →
        (c.su.failed = true → fetched (some 0x0C)) ∧
        (c.su.failed = false → ¬ ok → fetched (some 0x10)) ∧
        (c.su.failed = false → ok → c.inMode [.provision, .active, .standby] = false → fetched (some 0x0C)) ∧
        (c.su.failed = false → ok → c.inMode [.provision, .active, .standby] = true →
          (16777216 < leNat (slice b 16 4) ∨ 65536 < leNat (slice b 20 4) → fetched (some 0x02)) ∧
          (leNat (slice b 16 4) ≤ 16777216 → leNat (slice b 20 4) ≤ 65536 → fetched none))) ∧
    (c.laReq n = some r → r.admitted = false → r.status = none → r.waitsRandom = false → c.dmaAllowed r.fn = true →
      c.inMode [.provision, .active, .standby] = true → c.pan.stopped = false →
      let kid := c.getF F.MEM_FUNC_KID_kid [r.fn]
      let lines := ((if r.enc then r.msgLen else r.msgLen + 16) + r.aadLen + 63) / 64
      let q := { r with
        msg := slice msg 0 (if r.enc then r.msgLen else r.msgLen + 16), aad := slice aad 0 r.aadLen, kid := kid,
        lines := c.freeLines lines }
      let refused := fun (st : Nat) => completes (.laAdmission n (some msg) (some aad)) s fun d =>
        d.laReq n = some { r with status := some st } ∧ d = { c with path := d.path }
      (genOf r.handle ≠ v.generation → refused 3) ∧
      (genOf r.handle = v.generation →
        (v.state = 0 ∨ v.state = 2 → refused 4) ∧
        (v.state = 1 → v.type ≠ 0 → refused 5) ∧
        (v.state = 1 → v.type = 0 →
          (fnOf r.handle ≠ r.fn ∨ v.function ≠ r.fn → refused 6) ∧
          (fnOf r.handle = r.fn → v.function = r.fn →
            (r.enc = true → v.count = 0xFFFFFFFF → refused 8) ∧
            ((r.enc = true → v.count ≠ 0xFFFFFFFF) →
              (v.bound = true → refused 9) ∧
              (v.bound = false → r.overlap = true → refused 0xA)) ∧
            (v.bound = false → r.overlap = false → c.noKeys = false → c.kidActive kid = true →
                c.hbmFits lines = true →
              (r.enc = false → completes (.laAdmission n (some msg) (some aad)) s fun d =>
                d.laReq n = some { q with key := some (v.klen, v.key), admitted := true } ∧
                (∃ k p, d.panReq k = some p ∧ p.kind = .laDec ∧ p.subject = n) ∧ d.vlt = c.vlt ∧ d.out = c.out) ∧
              (r.enc = true → v.count < 0xFFFFFFFF → c.entFailed = false →
                completes (.laAdmission n (some msg) (some aad)) s fun d =>
                  d.laReq n = some { q with waitsRandom := true } ∧
                  d.ent.waiting = c.ent.waiting ++ [{ cls := 3, need := 1, use := .laIv n }] ∧ d.vlt = c.vlt ∧
                  d.out = c.out)))))) ∧
    ((c.laOf pair.val).head? = some (n, r) → r.discarded = false → c.dmaAllowed r.fn = true →
      c.ringOwner (160 + pair.val) = some r.fn → c.ringEn (160 + pair.val) = true →
      let at' := c.ringBase (160 + pair.val) + (c.ring (160 + pair.val)).own.toNat % c.ringSize (160 + pair.val) * 32
      let done := fun (out : Bytes) (st : Nat) (d : Chip) =>
        d.laReq n = none ∧ (out ≠ [] → .hostWrite r.fn r.dst out ∈ d.out) ∧
        .hostWrite r.fn at' (completion r.cookie st out.length (beBytes 12 r.iv.toNat)) ∈ d.out ∧
        (d.ring (160 + pair.val)).own = (c.ring (160 + pair.val)).own + 1 ∧
        (d.ring (160 + pair.val)).reserved = (c.ring (160 + pair.val)).reserved - 1 ∧
        d.cntGet false (0x4000 + r.fn * 8) = c.cntGet false (0x4000 + r.fn * 8) + 1 ∧
        d.cntGet false (0x4000 + r.fn * 8 + 2) = c.cntGet false (0x4000 + r.fn * 8 + 2) + (if st = 1 then 1 else 0)
      (∀ st, r.status = some st → completes (.laComplete pair) s (done [] st)) ∧
      (∀ k256 key (served : Chip), r.status = none → r.key = some (k256, key) →
        ((c.findReq fun q => q.kind.lookAside && q.subject = n).bind fun q => c.laServe q.1 q.2) = some served →
        (served.linesRead r.kid r.lines).1 = none → completes (.laComplete pair) s (done [] 0xF)) ∧
      (∀ k256 key (served : Chip), r.status = none → r.key = some (k256, key) →
        ((c.findReq fun q => q.kind.lookAside && q.subject = n).bind fun q => c.laServe q.1 q.2) = some served →
        (served.linesRead r.kid r.lines).1.isSome = true →
        (r.enc = true → completes (.laComplete pair) s fun d =>
          let cipher := gcmXor k256 key r.iv r.msg
          done (cipher ++ beBytes 16 (Config.gcmTag k256 key r.iv r.aad cipher).toNat) 0 d) ∧
        (r.enc = false → completes (.laComplete pair) s fun d =>
          let cipher := r.msg.take r.msgLen
          let tag := beBytes 16 (Config.gcmTag k256 key r.iv r.aad cipher).toNat
          done (gcmXor k256 key r.iv cipher) (if tag = r.msg.drop r.msgLen then 0 else 1) d)))

/-! ### Ingot framing (chapter 03) -/

/-- R72 to R82: a slot takes a packet number and asks for its keystream, or halts without an SA; a delivered keystream
makes a slot ready for its bytes; at close a slot holds the frames chosen for it, or is dross; the ready test sends it,
counts it late, or misses it without keystream; an ingot leaves whole. -/
def Obligations.IngotSlots : Prop :=
  ∀ (s : State) (line : Fin 8) (b : Fin 4) (i : Nat) (t : TxSlot),
    let c := s.chip
    let p := 8 + line.val
    let sp := schedOf p b.val
    let k := line.val * 4 + b.val
    let g := c.ingot k
    let fld := [line.val, b.val]
    let changed := fun (d : Chip) (f : TxSlot → TxSlot) =>
      (d.ingot k).slots = g.slots.map fun x => if x.seq = t.seq then f x else x
    let onlySlots := fun (d : Chip) =>
      d = { c with path := { c.path with ingots := d.path.ingots } } ∧ (∀ j, j ≠ k → d.ingot j = c.ingot j) ∧
      d.ingot k = { g with slots := (d.ingot k).slots }
    (∀ phase : BitVec 16, c.ingotMode p b.val = true → c.portUp p b.val = true →
      (c.ingotSa line.val b.val = some i → c.sealTest (c.saHandle i) = 0 → c.mayAllocate i = true →
        c.seqReserved k g.nextSeq = true → completes (.slotAllocation line b phase) s fun d =>
          (∃ x, (d.ingot k).slots = g.slots ++ [x] ∧ x.seq = g.nextSeq ∧ x.sa = i ∧ x.pn = (c.sa i).nextPn ∧
            x.an = (c.sa i).an ∧ x.departure = c.slotDeparture line.val b.val phase.toNat ∧ x.closed = false ∧
            x.keystream = false) ∧
          (d.ingot k).nextSeq = g.nextSeq + 1 ∧ (d.ingot k).halted = false ∧ (d.sa i).nextPn = (c.sa i).nextPn + 1 ∧
          (∀ j, j ≠ i → d.sa j = c.sa j) ∧ d.getF F.PRT_FRM_STAT_tx_halt fld = 0 ∧
          ∃ n r, d.panReq n = some r ∧ r.kind = .kstream ∧ r.subject = k ∧ r.seq = g.nextSeq) ∧
      (c.ingotSa line.val b.val = none → completes (.slotAllocation line b phase) s fun d =>
        (d.ingot k).halted = true ∧ (d.ingot k).slots = g.slots ∧ d.getF F.PRT_FRM_STAT_tx_halt fld = 1 ∧
        d.cntGet false (sp * 0x80 + 20) = c.cntGet false (sp * 0x80 + 20) + 1 ∧ d.sax = c.sax)) ∧
    (∀ n r, (c.findReq fun r => r.kind = .kstream && r.subject = k) = some (n, r) → c.panTurn n r = true → r.seq = t.seq →
      completes (.kstreamDelivery line b) s fun d => changed d (fun x => { x with keystream := true }) ∧ d.sax = c.sax) ∧
    ((g.slots.find? fun x => !x.closed) = some t → g.partials = [] →
      (c.choose sp = none → completes (.slotClose line b) s fun d =>
        changed d (fun x => { x with closed := true, segments := [], picks := [], dross := true }) ∧ onlySlots d) ∧
      (∀ cls q n f, c.prs.yieldAt = none → c.choose sp = some (cls, q) → c.headOf q = some (n, f) → 0 < f.data.length →
        f.data.length + 4 ≤ c.ingotSize p b.val - 86 → completes (.slotClose line b) s fun d =>
          ∃ x y ys, x ∈ (d.ingot k).slots ∧ x.seq = t.seq ∧ x.closed = true ∧ x.dross = false ∧ x.segments = y :: ys ∧
            y.type = 1 ∧ y.cls = cls ∧ y.frame = n ∧ y.data = f.data ∧ (∀ ch, f.channel = some ch → y.tag = (c.chan ch).tag))) ∧
    (∀ complete later, (g.slots.filter fun x => x.closed && !x.ready) = t :: later → c.txOn = true → c.prs.yieldAt = none →
      (t.keystream = true → complete = true ∨ t.dross = true → completes (.slotReadyTest line b complete) s fun d =>
        changed d (fun x => { x with ready := true }) ∧ onlySlots d) ∧
      (t.keystream = true → complete = false → t.dross = false → completes (.slotReadyTest line b complete) s fun d =>
        (∃ x, x ∈ (d.ingot k).slots ∧ x.seq = t.seq ∧ x.ready = true ∧ x.dross = true ∧ x.segments = []) ∧
        d.getF F.PRT_FRM_STAT_late fld = 1 ∧ d.sax = c.sax) ∧
      (t.keystream = false → completes (.slotReadyTest line b complete) s fun d =>
        (∀ x, x ∈ (d.ingot k).slots → x.seq ≠ t.seq) ∧ d.sax = c.sax)) ∧
    (g.slots.find? (·.ready) = some t → completes (.ingotSent line b) s fun d =>
      d.out = c.out ++ [.ingot line.val b.val (slotIngot t (c.ingotSize p b.val))] ∧
      (d.ingot k).slots = g.slots.filter (fun x => x.seq ≠ t.seq) ∧
      d.cntGet true (t.sa * 4) = c.cntGet true (t.sa * 4) + 1 ∧
      d.cntGet true (t.sa * 4 + 1) = c.cntGet true (t.sa * 4 + 1) + BitVec.ofNat 64 (c.ingotSize p b.val - 78) ∧
      d.regs = c.regs ∧ d.sax = c.sax ∧
      ∀ x f, x ∈ t.segments → x.type = 1 ∨ x.type = 4 → c.frame x.frame = some f → f.openPending = false →
        d.frame x.frame = none)

/-- R44, R86, R89, R215: an ingot whose verdict passes is recorded in its SA and keeps the receiver's slot number; one that
fails changes no SA; contexts that are not extended in time are closed. -/
def Obligations.ReceivedIngots : Prop :=
  ∀ (s : State) (n k : Nat) (r : PanReq) (f : Frame),
    let c := s.chip
    let i := f.sa.getD 0
    let g := ingotKey (f.entry - 8) f.sub
    let sp := schedOf f.entry f.sub
    ((c.turnOf fun r => r.kind = .opening && r.subject = n) = some (k, r) → c.frame n = some f →
      f.isIngot = true → c.openBefore n f = false → f.stage = .opening → f.hostWaits = [] →
      (f.icvOk = true → c.saHandle i = (f.early.getD {}).handle → (c.sa i).accepts f.pn = true → isDross f.plain = true →
        completes (.ingotVerdict n) s fun d =>
          d.frame n = none ∧ d.sa i = (c.sa i).record f.pn ∧ (∀ j, j ≠ i → d.sa j = c.sa j) ∧
          d.cntGet true (i * 4) = c.cntGet true (i * 4) + 1 ∧ (d.ingot g).rxSync = true ∧
          (d.ingot g).rxSeq = beNat (slice f.data 26 8) ∧ d.getF F.PRT_FRM_STAT_rx_sync [f.entry - 8, f.sub] = 1 ∧
          d.cntGet false (sp * 0x80 + 25) = c.cntGet false (sp * 0x80 + 25) + 1) ∧
      (f.icvOk = false → completes (.ingotVerdict n) s fun d =>
        d.frame n = none ∧ d.sax = c.sax ∧ d.cntGet true (i * 4 + 2) = c.cntGet true (i * 4 + 2) + 1 ∧ d.regs = c.regs)) ∧
    (∀ (line : Fin 8) (b : Fin 4),
      let h := line.val * 4 + b.val
      let tmo := c.getF F.PRT_REASM_CFG_tmo [line.val, b.val] * 1000
      completes (.reasmTimeout line b) s fun d =>
        (∀ x, x ∈ (d.ingot h).contexts → x ∈ (c.ingot h).contexts ∧ c.now < x.last + tmo) ∧
        (∀ x, x ∈ (c.ingot h).contexts → (∀ y, y ∈ (c.ingot h).contexts → y.tag = x.tag → c.now < y.last + tmo) →
          x ∈ (d.ingot h).contexts) ∧
        (d.ingot h).slots = (c.ingot h).slots ∧ d.sax = c.sax ∧
        d.cntGet false (schedOf (8 + line.val) b.val * 0x80 + 29) =
          c.cntGet false (schedOf (8 + line.val) b.val * 0x80 + 29) +
          BitVec.ofNat 64 ((c.ingot h).contexts.filter fun x => x.last + tmo ≤ c.now).length)

/-! ### Forwarding (chapter 10) -/

/-- R258 to R262, R264 to R268: the head learn request makes, moves or keeps an entry, is dropped at its port's limit, or
waits for a special pass; the Rake ages the entry it visits, keeps one that a hit of its cycle finds, and drops one whose
words fail parity; the forwarding orders stage and read entries, and COMMIT adds and removes them; a flush and a recount
start a special pass of the Rake, which removes or counts the entries it passes and then ends the order. -/
def Obligations.ForwardingTable : Prop :=
  ∀ (s : State) (l : Learn) (rest : List Learn) (i : Nat) (e : FwdEntry) (bad0 : BitVec 4) (hit : Bool)
      (cycles : Fin 32769),
    let c := s.chip
    let n := c.getF F.FWD_COUNT_valid []
    let only := fun (d : Chip) (k : Nat) (x : Option FwdEntry) => ∀ j, d.fwd? j = if j = k then x else c.fwd? j
    let lim := c.getB F.FWD_PORT_CFG_limited [l.port]
    let bad := fun (k : Nat) => (SMap.get (fun _ => 0) c.fwd.bad k : BitVec 4)
    (c.fwd.learns = l :: rest → c.fwd.special.isSome = true → completes .learnProcess s fun d => d = c) ∧
    (c.fwd.learns = l :: rest → c.inMode [.active] = true → c.fwd.special = none → (∀ k ∈ fwdSlots l.key, bad k = 0) →
      (c.fwdFind l.key = none → c.atLimit l.port = false → c.fwdFree l.key 4 = some i → n + 1 < 2 ^ 19 →
        completes .learnProcess s fun d =>
          only d i (some { key := l.key, dest := l.dest, learnSrc := l.port, limited := lim, hit := true }) ∧
          d.fwd.learns = rest ∧ d.getF F.FWD_COUNT_valid [] = n + 1) ∧
      (c.fwdFind l.key = none → c.atLimit l.port = true → completes .learnProcess s fun d =>
        d.fwd = { c.fwd with learns := rest } ∧ c.bumped d F.FWD_LRN_DROP_CNT_count []) ∧
      (c.fwdFind l.key = some i → c.fwd? i = some e →
        (e.static = true → completes .learnProcess s fun d => d.fwd = { c.fwd with learns := rest }) ∧
        (e.static = false → e.dest = l.dest → completes .learnProcess s fun d =>
          only d i (some { e with hit := true, idle := false }) ∧ d = { c with fwd := d.fwd }) ∧
        (e.static = false → e.dest ≠ l.dest → c.frozen e = true → completes .learnProcess s fun d =>
          d.fwd = { c.fwd with learns := rest } ∧ c.bumped d F.FWD_MOVE_CNT_refused []) ∧
        (e.static = false → e.dest ≠ l.dest → c.frozen e = false → e.flapping = false → l.port = e.learnSrc →
          e.winStart + 1000000 ≤ c.nowUs → 1 ≤ c.getF F.FWD_CFG_move_damp [] → completes .learnProcess s fun d =>
            only d i (some { e with
              dest := l.dest, hit := true, idle := false, learnSrc := l.port, limited := lim, moves := 1, winStart := c.nowUs }) ∧
            c.bumped d F.FWD_MOVE_CNT_moves [] ∧ d.fwd.learns = rest))) ∧
    (c.inMode [.active] = true → c.getB F.FWD_AGE_CFG_en [] = true → c.fwd.special = none → c.fwd? c.fwd.rake = some e →
      let k := c.fwd.rake
      let next := fun (d : Chip) => d.fwd.rake = (k + 1) % 262144 ∧ d.fwd.learns = c.fwd.learns
      (bad k = 0 →
       (e.static = true → completes (.rakeVisit ⟨0, hit, cycles⟩) s fun d => next d ∧ d.fwd.table = c.fwd.table) ∧
       (e.static = false → e.flapping = false → e.hit = true → completes (.rakeVisit ⟨0, hit, cycles⟩) s fun d =>
         next d ∧ only d k (some { e with hit := false, idle := false }) ∧ d.regs = c.regs) ∧
       (e.static = false → e.flapping = false → e.hit = false → e.idle = false → completes (.rakeVisit ⟨0, hit, cycles⟩) s fun d =>
         next d ∧ only d k (some { e with idle := true }) ∧ d.regs = c.regs) ∧
       (e.static = false → e.flapping = false → e.hit = false → e.idle = true →
         (n < 2 ^ 19 → completes (.rakeVisit ⟨0, false, cycles⟩) s fun d =>
           next d ∧ only d k none ∧ d.getF F.FWD_COUNT_valid [] = n - 1) ∧
         (completes (.rakeVisit ⟨0, true, cycles⟩) s fun d =>
           next d ∧ only d k (some { e with hit := true, idle := false }) ∧ d.regs = c.regs))) ∧
      (bad k ||| bad0 ≠ 0 → c.logs → completes (.rakeVisit ⟨bad0, hit, cycles⟩) s fun d =>
        next d ∧ only d k none ∧ d.getF F.FWD_STAT_parity [] = 1 ∧
        c.logged d [⟨Ev.FWD_PARITY, 0x21E, if (bad k ||| bad0).getLsbD 0 then [] else [(8, e.key.toNat)], false⟩])) ∧
    (∀ start at' : Nat, SMap.wf (fun _ => none) c.fwd.table = true → c.running = true →
      let next := min 262144 (at' + 8 * cycles.val)
      let fails := fun (j : Nat) => at' ≤ j ∧ j < next ∧ bad j ||| (if j = at' then bad0 else 0) ≠ 0
      let goes := fun (p : RakePass) (d : Chip) =>
        d.fwd.special = (if next = 262144 then none else some (p, next, start)) ∧
        (next = 262144 → c.ord.wait = .rake → c.ord.callReg = none → c.ord.busy = false →
          d.ord.wait = .none ∧ d.ord.res = {}) ∧
        (next ≠ 262144 → d.ord = c.ord)
      (∀ v m st, c.fwd.special = some (.flush v m st, at', start) → completes (.rakeVisit ⟨bad0, hit, cycles⟩) s fun d =>
        goes (.flush v m st) d ∧
        ∀ j, d.fwd? j = (c.fwd? j).bind fun x => if fails j ∨ (at' ≤ j ∧ j < next ∧ flushHit v m st x = true) then none else some x) ∧
      (c.fwd.special = some (.recount, at', start) → completes (.rakeVisit ⟨bad0, hit, cycles⟩) s fun d =>
        goes .recount d ∧ (∀ j, d.fwd? j = if fails j then none else c.fwd? j) ∧
        (next = 262144 → d.getF F.FWD_STAT_count_drift [] = 0 ∧
          ∀ p : Fin 64, let m := (d.fwdList.filter fun x => x.2.limited && x.2.learnSrc = p.val).length
            m < 2 ^ 19 → d.getF F.FWD_PORT_CNT_count [p.val] = m))) ∧
    (∀ key dest static, c.orderFree → c.inMode [.provision, .active, .maintenance] = true →
      (c.stagedCount < 64 → destOk dest.toNat = true → static.toNat ≤ 1 → (c.fwdInstall key dest true).isSome = true →
        completes (.fwdAdd key dest static) s fun d => d = (c.plusStaged (.fwdAdd key dest (static = 1))).ended {}) ∧
      (c.stagedCount < 64 → c.fwdFind key = some i → completes (.fwdDel key) s fun d =>
        d = (c.plusStaged (.fwdDel key)).ended {}) ∧
      (∀ st, c.ord.staged = [.fwdAdd key dest st] → c.ord.regWrites = [] → c.ord.heldFill = false → c.fwdFind key = none →
        c.fwdFree key 4 = some i → completes .commit s fun d =>
          only d i (some { key := key, dest := dest, static := st, hit := true }) ∧ d.ord.staged = [] ∧ d.ord.res = {}) ∧
      (c.ord.staged = [.fwdDel key] → c.ord.regWrites = [] → c.ord.heldFill = false → c.fwdFind key = some i →
        completes .commit s fun d => only d i none ∧ d.ord.staged = [] ∧ d.ord.res = {})) ∧
    (∀ (value mask : DWord) (static : Word), c.orderFree → c.inMode [.provision, .active, .maintenance] = true →
      bits value.toNat 31 22 = 0 → bits mask.toNat 31 22 = 0 → static.toNat ≤ 1 → completes (.fwdFlush value mask static) s
        fun d => d = { c with
          fwd := { c.fwd with special := some (.flush value mask (static = 1), 0, c.now) }, ord := { c.ord with wait := .rake } }) ∧
    (c.orderFree → c.inMode [.active, .maintenance] = true → completes .fwdRecount s fun d =>
      d = { c with fwd := { c.fwd with special := some (.recount, 0, c.now) }, ord := { c.ord with wait := .rake } }) ∧
    (∀ key (out : DWord), c.orderFree → c.dmaAllowed 0 = true → c.inMode [.sealed, .provision, .active, .standby, .drain, .rest, .maintenance, .lockdown] = true →
      (c.fwdFind key = some i → c.fwd? i = some e → completes (.fwdInfo key out) s fun d =>
        d = (c.gave out.toNat (fwdBytes e)).ended {}) ∧
      (c.fwdFind key = none → completes (.fwdInfo key out) s fun d => d = c.ended { status := 0x71 }))

/-! ### Buffer memory (chapter 11) -/

/-- R275, R277, R278, R281, R286, Table 11.3: the key IDs load, flush, retire and load again, each from the states and modes
that allow it; a line sealed under a key ID opens under the same ID and version; on a minor overflow of a leaf that has verified, its major counter
rises, its minors become 0, and its written lines open under their new versions to what they held; an aborted debug access
is recorded, and gives 0 or writes nothing. -/
def Obligations.BufferKeyIds : Prop :=
  ∀ (s : State) (kid : Word) (k : Fin 32) (leaf : Fin 7208960) (addr : BitVec 48),
    let c := s.chip
    let st := fun (d : Chip) (v : Nat) => ∀ j, d.kidState j = if j = kid.toNat then v else c.kidState j
    (c.getB F.ENT_STAT_ready [] = true → c.getB F.MEM_STAT_no_keys [] = true → (∀ r ∈ c.ent.waiting, r.use ≠ .memKeysAll) →
      completes .keyIdsLoad s fun d => d = { c with
        ent := { c.ent with
        waiting := c.ent.waiting ++ [{ cls := 2, need := 128, use := .memKeysAll }] } }) ∧
    (c.kidState k.val = 2 → c.kidHeld k.val = false → c.logs → completes (.kidFlushed k) s fun d =>
      (∀ j, d.kidState j = if j = k.val then 3 else c.kidState j) ∧
      c.logged d [⟨Ev.MEM_KID_FLUSHED, 0x500, [], false⟩] ∧ d.path = c.path) ∧
    (c.kidState k.val = 2 → c.kidHeld k.val = true → completes (.kidFlushed k) s fun d => d = c) ∧
    (c.orderFree → c.inMode [.provision, .active, .standby, .maintenance] = true → kid.toNat < 30 →
      (c.kidState kid.toNat = 1 → c.getF F.MEM_FRAME_KID_kid [] ≠ kid.toNat →
        (∀ f : Fin 66, c.getF F.MEM_FUNC_KID_kid [f.val] ≠ kid.toNat) → completes (.memKeyFlush kid) s fun d =>
          st d 2 ∧ d = { c.ended {} with buf := { c.buf with states := d.buf.states } }) ∧
      (c.kidState kid.toNat = 1 → c.getF F.MEM_FRAME_KID_kid [] = kid.toNat → completes (.memKeyFlush kid) s fun d =>
        d = c.ended { status := 0x7A }) ∧
      (c.kidState kid.toNat = 2 ∨ c.kidState kid.toNat = 3 → completes (.memKeyRetire kid) s fun d =>
        st d 4 ∧ SMap.get (fun _ => none) d.buf.keys kid.toNat = none ∧ d.ord.res = {} ∧
        (SMap.wf (fun _ => none) c.path.frames = true → ∀ n f, c.frame n = some f →
          d.frame n = some (if f.kid = some kid.toNat then { f with poisoned := true, kid := none, lines := [], die := [] } else f)) ∧
        (∀ n r, c.laReq n = some r → d.laReq n = some (if r.staged kid.toNat = true
          then { r with status := some 0xF, waitsRandom := false, lines := [] } else r))) ∧
      (c.kidState kid.toNat = 4 → c.entFailed = false → completes (.memKeyLoad kid) s fun d =>
        d = c.awaits 2 4 (.memKey kid.toNat)) ∧
      (c.kidState kid.toNat = 4 → c.entFailed = true → completes (.memKeyLoad kid) s fun d =>
        d = c.ended { status := 0x49 })) ∧
    (c.orderFree → c.inMode [.erased, .sealed, .provision, .active, .standby, .drain, .rest, .maintenance, .lockdown] = true →
      (∀ j, c.kidState j < 8) → completes .memKstat s fun d =>
        ∃ v, d = c.ended { ret := some v } ∧ ∀ j : Fin 32, bits v (3 * j.val + 2) (3 * j.val) = c.kidState j.val) ∧
    (∀ (i line : Nat) (keys : KidKeys) (data : Bytes), SMap.get (fun _ => none) c.buf.keys i = some keys → data.length = 64 →
      (c.buf.sealLine i line data).openLine i line (c.buf.version line).1 (c.buf.version line).2 = some data) ∧
    (let n := nodeKey 0 leaf.val
      let t := c.leafTouch leaf.val
      let full := fun (d : Chip) => ∃ j : Fin 64, d.buf.ctr n j.val = 127
      (¬ full c → completes (.minorOverflow leaf) s fun d => d = c) ∧
      (full c → ¬ full t → completes (.minorOverflow leaf) s fun d => d = t) ∧
      (full c → full t → completes (.minorOverflow leaf) s fun d =>
        d.buf.ctr n 64 = t.buf.ctr n 64 + 1 ∧ (∀ j : Fin 64, d.buf.ctr n j.val = 0) ∧
        (∀ m, m ≠ n → d.buf.counters m = t.buf.counters m) ∧ t.bumped d F.MEM_OVF_CNT_count [] ∧ d.evr = t.evr ∧
        ∀ (j : Fin 64),
          let line := leaf.val * 64 + j.val
          ∀ x, SMap.get (fun _ => none) t.buf.lines line = some x → ∀ data,
          t.buf.openLine x.kid line (t.buf.version line).1 (t.buf.version line).2 = some data →
          d.buf.openLine x.kid line (d.buf.version line).1 (d.buf.version line).2 = some data) ∧
      (∀ x, c.buf.badOver leaf.val = none → c.buf.cache.find? (·.key = n) = some x →
        (∀ m, t.buf.counters m = c.buf.counters m) ∧ t.evr = c.evr ∧ t.buf.lines = c.buf.lines)) ∧
    (∀ read, c.logs → completes (.bufferAccessViolation ⟨addr, read⟩) s fun d =>
      d.getF F.MEM_VIOL_ADDR_LO_addr [] + d.getF F.MEM_VIOL_ADDR_HI_addr [] * 2 ^ 32 = addr.toNat ∧
      c.bumped d F.MEM_VIOL_CNT_count [] ∧ d.getF F.MEM_STAT_viol [] = 1 ∧
      d.out = c.out ++ (if read then [.value 0] else []) ∧
      c.logged d [⟨Ev.MEM_ACCESS_VIOL, 0x500, [], false⟩] ∧ d.buf = c.buf)

/-! ### Program images and their engines (chapters 12 and 13) -/

/-- R333 to R338, R340, R461: an image that passes the checks waits in its target's other bank, one that fails empties it;
IMAGE_ACTIVATE stages and COMMIT makes it active, but not a large one over a run in progress (DESIGN CHOICE, log entry 66);
a bank in use is released with its last run; a word that fails ends the run, is a transient error of its channel and is
repaired from the copy in the HBM, a corrected one is counted; a hold of the zeroize button on the cell erases the seal. -/
def Obligations.ImagesAndProgramErrors : Prop :=
  ∀ (s : State) (target : Word) (addr : DWord) (len : Word) (image : Bytes) (i : Image),
    let c := s.chip
    let t := target.toNat
    let b := slice image 0 len.toNat
    let h := imgHead b
    let x := c.target t
    let only := fun (d : Chip) (y : ImgTarget) => ∀ j, d.target j = if j = t then y else c.target j
    (c.orderFree → t ≤ 9 → c.dmaAllowed 0 = true → c.imgMode t false = true → c.logs →
      (h.good t b = true → c.imgMode t (h.flags = 1) = true → h.fits t b.length = true → x.oldBusy = false →
        completes (.imageLoad target addr len (some image)) s fun d =>
          let ok := c.isOwner h.key && Config.ecdsaVerify h.key h.sig (imgDigested b)
          only d { x with pending := if ok then some (imageOf h b) else none } ∧
          d.ord.res = (if ok then {} else { status := if c.isOwner h.key then 0x82 else 0x81 }) ∧
          c.logged d [⟨if ok then Ev.IMG_LOADED else Ev.IMG_REJECTED, 0x0E1, [], false⟩]) ∧
      (h.good t b = false → x.oldBusy = false → completes (.imageLoad target addr len (some image)) s fun d =>
        only d { x with pending := none } ∧ d.ord.res = { status := 0x80 } ∧
        c.logged d [⟨Ev.IMG_REJECTED, 0x0E1, [], false⟩])) ∧
    (c.orderFree → t ≤ 9 → c.imgMode t i.large = true → c.imgMode t false = true →
      (x.oldBusy = false → x.pending = some i → c.stagedCount < 64 → completes (.imageActivate target) s fun d =>
        d = (c.plusStaged (.imgActivate t)).ended {}) ∧
      (x.pending = none → completes (.imageActivate target) s fun d => d = c.ended { status := 0x85 }) ∧
      (c.ord.staged = [.imgActivate t] → c.ord.regWrites = [] → c.ord.heldFill = false → x.oldBusy = false →
        x.pending = some i →
        let copy := if t < 9 ∧ c.kidReads 30 = true then some i else none
        (c.targetRuns t = [] → completes .commit s fun d =>
          only d { active := some i, copy := copy, pending := none, oldBusy := false, bank := !x.bank } ∧ d.ord.res = {}) ∧
        (c.targetRuns t ≠ [] → i.large = true → completes .commit s fun d =>
          (∀ j, d.target j = c.target j) ∧ d.ord.res.status = 0x84) ∧
        (c.targetRuns t ≠ [] → i.large = false → x.active.isSome = true → completes .commit s fun d =>
          only d { active := some i, copy := copy, pending := x.active, oldBusy := true, bank := !x.bank } ∧ d.ord.res = {} ∧
          ∀ k ∈ c.targetRuns t, (d.ectxAt k).old = true))) ∧
    (∀ q : Fin 12, (c.target q.val).oldBusy = true → c.targetRuns q.val = [] → c.logs → completes (.oldBankRelease q) s fun d =>
      d.target q.val = { c.target q.val with pending := none, oldBusy := false } ∧
      c.logged d [⟨Ev.IMG_ACTIVE, 0x0E1, [], false⟩] ∧ d.eng.ctx = c.eng.ctx ∧ d.vlt = c.vlt) ∧
    (∀ j : Fin 2, c.running = true →
      let k := c.ectx (.ksq j)
      let y := c.target 8
      (c.ready (.ksq j) = true → (c.faultChan 6 j.val).times = [] → (c.faultChan 6 j.val).retired = false →
        1 ≤ c.getF F.FLT_CFG_perm_rate [] → (c.faultClass 6).current = none →
        completes (.programEccRepair ⟨.ksq j, .fetch⟩) s fun d =>
          (d.ectx (.ksq j)).running = false ∧ (d.faultClass 6).current = some j.val ∧ d.getF F.KSQ_STAT_exc [] = 1 ∧
          c.bumped d F.KSQ_EXC_CNT_count [] ∧ c.bumped d F.FLT_CLASS_CNT_count [6] ∧
          (c.kidReads 30 = true → k.old = false → y.copy.isSome = true → (d.target 8).active = y.copy)) ∧
      (k.running = true →
        (c.ready (.ksq j) = false → completes (.programEccRepair ⟨.ksq j, .fetch⟩) s fun d =>
          d.ectx (.ksq j) = { k with fetchEcc := true } ∧ d.regs = c.regs ∧ d.flt = c.flt) ∧
        (completes (.programEccRepair ⟨.ksq j, .data⟩) s fun d =>
          d.ectx (.ksq j) = { k with dataEcc := true } ∧ d.regs = c.regs ∧ d.flt = c.flt)) ∧
      (completes (.programEccRepair ⟨.ksq j, .corrected⟩) s fun d =>
        c.bumped d F.KSQ_ECC_CNT_count [] ∧ d.eng.ctx = c.eng.ctx ∧ d.flt = c.flt)) ∧
    (∀ kind, completes (.programEccRepair ⟨.vigil, kind⟩) s fun d => d = c) ∧
    (c.inMode [.vigil] = true → c.filt 0 = true → completes .vigilZeroizeHold s fun d =>
      d.vlt.sealA = none ∧ d.vlt.sealB = none ∧ d.flt.flags = c.flt.flags ||| (1#32 <<< 14) ∧
      d.noteWord 1 = 0x4000#32 ∧ d.noteWord 2 = d.flt.flags ∧ d.vlt.slots = c.vlt.slots ∧ d.ctl = c.ctl)

/-! ### Faults, alarms and zeroization (chapter 17) -/

/-- R436 to R440, R446: a transient error is counted and handled, waits behind another, or is permanent beyond the rate;
an error of the lane in recovery escalates to its
retirement; a class's handler ends a recovery with success, tries again, or retires the channel at the third failure; a failed
table entry disables what it held. -/
def Obligations.FaultHandling : Prop :=
  ∀ (s : State) (cls : Fin 10) (ch : BitVec 16) (code : Word) (detail : DWord) (index : BitVec 16),
    let c := s.chip
    let x := c.faultChan cls.val ch.toNat
    let k := c.faultClass cls.val
    (cls.val < 4 → (classChannels cls.val).contains ch.toNat = true → x.times = [] → x.retired = false →
      (1 ≤ c.getF F.FLT_CFG_perm_rate [] →
        (k.current = none → completes (.faultReport cls ch code detail false) s fun d =>
          d.faultClass cls.val = { k with current := some ch.toNat } ∧
          d.faultChan cls.val ch.toNat = { x with times := [c.now / 1000000] } ∧
          c.bumped d F.FLT_CLASS_CNT_count [cls.val] ∧ d.ctl = c.ctl) ∧
        (∀ h, k.current = some h → 2 ≤ cls.val ∨ h ≠ ch.toNat → k.waiting.length < 4 → completes (.faultReport cls ch code detail false) s fun d =>
          d.faultClass cls.val = { k with waiting := k.waiting ++ [ch.toNat] } ∧
          c.bumped d F.FLT_CLASS_CNT_count [cls.val] ∧ d.ctl = c.ctl) ∧
        (cls.val = 1 → k.current = some ch.toNat → c.ctl.zeroizing = none →
          completes (.faultReport cls ch code detail false) s fun d =>
            (d.faultChan cls.val ch.toNat).retired = true ∧ d.getF F.FLT_STAT_escalated [] = 1 ∧
            d.getF F.FLT_CLASS_STAT_escalated [cls.val] = 1 ∧ d.getF F.FLT_STAT_perm [] = 1 ∧ d.ctl = c.ctl)) ∧
      (c.getF F.FLT_CFG_perm_rate [] = 0 → cls.val = 1 → c.ctl.zeroizing = none → completes (.faultReport cls ch code detail false) s fun d =>
        (d.faultChan cls.val ch.toNat).retired = true ∧ d.getF F.FLT_STAT_perm [] = 1 ∧ d.getF F.FLT_LAST_resp [] = 2 ∧
        d.getF F.FLT_LAST_source [] = 0x41 ∧ d.ctl = c.ctl)) ∧
    (∀ n, k.current = some n → (c.faultChan cls.val n).retired = false →
      let y := c.faultChan cls.val n
      let next := fun (d : Chip) => ∀ l, l = k.waiting.filter (fun h => !(d.faultChan cls.val h).retired) →
        d.faultClass cls.val = { current := l.head?, waiting := l.tail }
      completes (.faultRecoveryDone cls true) s (fun d =>
        d.faultChan cls.val n = { y with fails := 0 } ∧ next d ∧ d.regs = c.regs ∧ d.ctl = c.ctl) ∧
      (y.fails < 2 → completes (.faultRecoveryDone cls false) s fun d =>
        d.faultChan cls.val n = { y with fails := y.fails + 1 } ∧ d.faultClass cls.val = k ∧ d.regs = c.regs) ∧
      (y.fails = 2 → cls.val = 1 → c.ctl.zeroizing = none → completes (.faultRecoveryDone cls false) s fun d =>
        d.faultChan cls.val n = { y with fails := 0, retired := true } ∧ next d ∧ d.getF F.FLT_STAT_perm [] = 1)) ∧
    (∀ t : Fin 4, t.val = 2 ∨ t.val = 3 → index.toNat < 0x8000 ∨ (t.val = 2 ∧ isQueue index.toNat = true) → completes (.tableSramEcc t index) s fun d =>
      d.queueCfg index.toNat = { c.queueCfg index.toNat with en := false } ∧ d.getF F.FLT_STAT_tbl_ecc [] = 1 ∧
      c.bumped d F.FLT_CLASS_CNT_count [9]) ∧
    ((c.sa index.toNat).state = 1 → (c.sa index.toNat).dir = false → completes (.tableSramEcc 0 index) s fun d =>
      (d.sa index.toNat).stopped = true ∧ (∀ j, j ≠ index.toNat → d.sa j = c.sa j) ∧ d.getF F.FLT_STAT_tbl_ecc [] = 1 ∧
      d.getF F.SAX_STAT_stopped [] = 1) ∧
    (c.flt.iicTimes = [] → 1 ≤ c.getF F.FLT_CFG_iic_lim [] → (c.faultChan 8 0).times = [] → (c.faultChan 8 0).retired = false →
      1 ≤ c.getF F.FLT_CFG_perm_rate [] → (c.faultClass 8).current = none → ∀ receiver, completes (.fabricIicMismatch ⟨false, receiver⟩) s fun d =>
        (d.faultClass 8).current = some 0 ∧ c.bumped d F.FLT_CLASS_CNT_count [8] ∧ d.flt.iicTimes = [c.nowUs] ∧
        d.flt.cause = c.flt.cause ∧ d.ctl = c.ctl)

/-- R433 to R435, R441 to R443, R448, R449, R572: an alarm sets its cause and its flag and its response is executed, a
cause that ends keeps its flag; the mesh and temperature monitors raise theirs; a zeroization destroys every secret and
ends in ERASED, and one that an order's own effect starts has no other trigger; TAMPER_CLEAR clears the flags that no present cause holds. -/
def Obligations.AlarmsAndZeroization : Prop :=
  ∀ (s : State) (src : Fin 14) (clk : MainClock) (a b : Byte) (mask note : Word),
    let c := s.chip
    let lo := min a.toInt b.toInt
    let hi := max a.toInt b.toInt
    let limLo := sbyte (c.getF F.TMP_TEMP_CFG_lo [])
    (c.causeSet src.val = false → c.powered = true → c.ctl.zeroizing = none → c.logs →
      (src = 11 → c.ctl.mode = .rest → clockInRest clk = true) →
      (c.alarmResp src.val = 0 → c.inMode [.lockdown, .erased] = false → completes (.alarmRaise ⟨src, clk⟩) s fun d =>
        d.causeSet src.val = true ∧ d.flt.flags = c.flt.flags ||| (1#32 <<< src.val) ∧ d.ctl = c.ctl ∧
        d.getF F.FLT_LAST_resp [] = 0 ∧ d.getF F.FLT_LAST_source [] = 0x80 + src.val ∧
        c.logged d [⟨Ev.ALARM, 0x80 + src.val, [(4, 0), (4, 0)], false⟩]) ∧
      (c.alarmResp src.val = 3 → c.inMode [.sealed, .provision, .active, .standby, .drain, .rest, .maintenance] = true →
        completes (.alarmRaise ⟨src, clk⟩) s fun d =>
          d.ctl.mode = .lockdown ∧ d.causeSet src.val = true ∧ d.flt.flags = c.flt.flags ||| (1#32 <<< src.val) ∧
          d.getF F.FLT_LAST_resp [] = 3) ∧
      (c.alarmResp src.val = 4 → completes (.alarmRaise ⟨src, clk⟩) s fun d =>
        d.ctl.zeroizing.isSome = true ∧ d.causeSet src.val = true ∧ d.vlt.sealA = none ∧ d.vlt.sealB = none ∧
        ∀ i, (d.slot i).state = 0)) ∧
    (c.causeSet src.val = true → completes (.alarmCauseClear src) s fun d =>
      d = { c with flt := { c.flt with cause := c.flt.cause - 2 ^ src.val } }) ∧
    (c.inMode [.off] = false → completes .meshBreach s fun d =>
      d.vlt.sealA = none ∧ d.vlt.sealB = none ∧ d.causeSet 0 = true) ∧
    (c.inMode [.off] = false →
      completes (.meshPatternCheck true) s (fun d =>
        d = { c with free := d.free, flt := { c.flt with meshLfsr := d.flt.meshLfsr } }) ∧
      completes (.meshPatternCheck false) s (fun d =>
        d.vlt.sealA = none ∧ d.vlt.sealB = none ∧ d.causeSet 0 = true)) ∧
    (c.inMode [.off] = false → c.flt.coldRun = 0 → c.flt.hotRun = 0 →
      completes (.tempSample a b) s (fun d =>
        d.flt.tempLow = lo ∧ d.flt.tempHigh = hi ∧ d.flt.flags = c.flt.flags ∧ d.ctl = c.ctl ∧
        (c.powered = true → c.getF F.TMP_TEMP_min [] < 256 → c.getF F.TMP_TEMP_max [] < 256 →
          d.getF F.TMP_TEMP_now [] = (lo % 256).toNat ∧
          sbyte (d.getF F.TMP_TEMP_min []) = min lo (sbyte (c.getF F.TMP_TEMP_min [])) ∧
          sbyte (d.getF F.TMP_TEMP_max []) = max hi (sbyte (c.getF F.TMP_TEMP_max []))) ∧
        (limLo + 5 ≤ lo → d.causeSet 2 = false) ∧ (lo < limLo → d.flt.coldRun = 1))) ∧
    (c.inMode [.off] = false → c.flt.coldRun = 1 → lo < limLo → completes (.tempSample a b) s fun d =>
      d.flt.coldRun = 2 ∧ d.causeSet 2 = true) ∧
    (∀ trig : ZeroizeCause, trig = .transfer ∨ trig = .purge → completes (.zeroization trig) s fun d => d = c) ∧
    (c.powered = true → c.ctl.zeroizing = none → ∀ trig : ZeroizeCause, trig = .alarm ∨ trig = .button →
      completes (.zeroization trig) s fun d =>
      (∃ n, d.ctl.zeroizing = some (n, c.nowUs)) ∧ d.vlt.sealA = none ∧ d.vlt.sealB = none ∧ (∀ i, (d.slot i).state = 0) ∧
      (∀ ch, d.chan ch = {}) ∧ (SMap.wf (fun _ => {}) c.sax.sas = true → ∀ i, d.sa i = { generation := (c.sa i).generation }) ∧ d.pnl.pin = none ∧
      (∀ m, m < 0x30000000 → d.memGet m = 0) ∧ d.vlt.owners = c.vlt.owners) ∧
    (∀ cause from', c.ctl.zeroizing = some (cause, from') → cause ≠ 6 → c.powered = true → c.inMode [.erased, .wake] = false →
      completes .zeroizationComplete s fun d =>
        d.ctl.zeroizing = none ∧ d.ctl.mode = .erased ∧ (∀ i, (d.slot i).state = 0) ∧ d.vlt.sealA = none) ∧
    (c.orderFree → c.inMode [.provision, .maintenance] = true → note.toNat ≤ 1 → c.authHere 4 = true → c.logs →
      (mask &&& BitVec.ofNat 32 c.flt.cause = 0 → completes (.tamperClear mask note) s fun d =>
        d.flt = { c.flt with flags := c.flt.flags &&& ~~~mask } ∧ d.ctl = { c.ctl with auth := none } ∧
        d.eng.note = (if note = 1 then [] else c.eng.note) ∧ d.ord.res = {} ∧
        c.logged d [⟨Ev.TAMPER_CLEARED, 0x04F, [(4, c.flt.flags.toNat), (4, mask.toNat), (4, note.toNat)], false⟩]) ∧
      (mask &&& BitVec.ofNat 32 c.flt.cause ≠ 0 → completes (.tamperClear mask note) s fun d =>
        d = c.ended { status := 0x8C }))

/-! ### The panel (chapter 18) -/

/-- R457 to R467: inputs follow their filtered level, are held for chatter and reported when stuck; the zeroize button
acts after 2 s; a touch that ends is a digit, and an entry is judged against the PIN record, enrols a PIN, or locks the
keypad at the fifth failure. -/
def Obligations.PanelInputsAndPin : Prop :=
  ∀ (s : State) (n : Fin 7) (e : Fin 4) (above : BitVec 16),
    let c := s.chip
    let x := c.panelIn n.val
    let y := c.panelIn (2 + e.val)
    let only := fun (d : Chip) (j : Nat) (v : PanelIn) => ∀ k, d.panelIn k = if k = j then v else c.panelIn k
    let begun : PanelIn → Bool → PanelIn := fun v a => { v with filt := a, since := c.now, stuck := false }
    (c.powered = true → c.chattering n.val = false → x.filt = false →
      (n.val = 0 → completes (.inputFilteredChange n true) s fun d =>
        only d 0 (begun x true) ∧ d.pnl.pressedFor = some c.now ∧ d.evr = c.evr) ∧
      (2 ≤ n.val → n.val ≤ 5 → c.keypadOn = true → completes (.inputFilteredChange n true) s fun d =>
        only d n.val (begun x true) ∧ n.val - 2 ∈ d.pnl.touches ∧ d.pnl.entry = c.pnl.entry) ∧
      (n.val = 1 → completes (.inputFilteredChange n true) s fun d => d.causeSet 1 = true ∧ d.filt 1 = true)) ∧
    (c.powered = true → c.chattering n.val = true → ∀ a, completes (.inputFilteredChange n a) s fun d => d = c) ∧
    (c.powered = true → c.chattering n.val = false → c.logs → completes (.inputChatter n) s fun d =>
      only d n.val { x with chatter := true, chatterEnds := c.now + 10000000000 } ∧
      d.getF F.CRF_IN_STAT_chatter_ev [] = (c.getF F.CRF_IN_STAT_chatter_ev [] ||| 2 ^ n.val) % 128 ∧
      c.logged d [⟨Ev.CHATTER, 0x0A0 + n.val, [], false⟩]) ∧
    (x.chatter = true → x.chatterEnds < 2 ^ 64 → completes (.chatterHoldEnd n) s fun d =>
      only d n.val { x with chatter := false, changes := [] } ∧ x.chatterEnds ≤ d.now ∧ d.evr = c.evr) ∧
    (c.powered = true → n.val ≠ 6 → x.filt = true → x.stuck = false →
      x.since + c.getF F.CRF_IN_CFG_stuck [] * 1000000000 < 2 ^ 64 → c.logs → completes (.inputStuck n) s fun d =>
        only d n.val { x with stuck := true } ∧ x.since + c.getF F.CRF_IN_CFG_stuck [] * 1000000000 ≤ d.now ∧
        c.logged d [⟨Ev.STUCK, 0x0A0 + n.val, [], false⟩]) ∧
    (c.powered = true → y.raw ≠ decide (c.getF F.CRF_TOUCH_CFG_thr [] < above.toNat) → y.changes = [] → c.chattering (2 + e.val) = false →
      completes (.touchMeasure e above) s fun d =>
        only d (2 + e.val) { y with raw := !y.raw, changes := [c.now] } ∧ d.regs = c.regs) ∧
    (c.powered = true → c.ctl.zeroizing = none → c.inMode [.erased] = true →
      ∀ t, c.pnl.pressedFor = some t → t + 2000000000 < 2 ^ 64 → completes .zeroizeButtonHold s fun d =>
        d.ctl.zeroizing.isSome = true ∧ d.pnl.pressedFor = none ∧ d.flt.flags = c.flt.flags ||| (1#32 <<< 14) ∧
        t + 2000000000 ≤ d.now ∧ d.su.presenceEnds = some (d.now + 120000000000)) ∧
    (∀ t, c.powered = true → c.chattering 0 = false → c.filt 0 = true → c.pnl.pressedFor = some t →
      (c.now ≤ t + 2000000000 → c.logs → completes .zeroizeButtonRelease s fun d =>
        d.pnl.pressedFor = none ∧ d.filt 0 = false ∧ c.logged d [⟨Ev.ZEROIZE_ABORT, 0x0A0, [], false⟩] ∧ d.ctl = c.ctl ∧
        d.flt = c.flt) ∧
      (t + 2000000000 < c.now → c.ctl.zeroizing = none → completes .zeroizeButtonRelease s fun d =>
        d.pnl.pressedFor = none ∧ d.filt 0 = false ∧ d.ctl.zeroizing.isSome = true ∧
        d.flt.flags = c.flt.flags ||| (1#32 <<< 14))) ∧
    (c.powered = true → c.chattering (2 + e.val) = false → y.filt = true → y.stuck = false → c.keypadOn = true → e.val ∈ c.pnl.touches →
      e.val ∉ c.pnl.ignored → c.pnl.entry.length < 15 → completes (.touchCounted e) s fun d =>
        d.pnl.entry = c.pnl.entry ++ [e.val] ∧ e.val ∉ d.pnl.touches ∧ only d (2 + e.val) (begun y false)) ∧
    (c.pnl.entry ≠ [] → c.keypadOn = true → c.logs →
      (c.pnl.released + 2000000000 < 2 ^ 64 → completes .pinEntryEnd s fun d => c.pnl.released + 2000000000 ≤ d.now) ∧
      (c.pnl.enrolEnds = none →
        let fails := if c.pnl.lockEnds.isSome then 4 else c.pnl.fails
        completes .pinEntryEnd s (fun d =>
          if c.pinMatches c.pnl.entry then
            d.ctl = { c.ctl with pinOk := some (d.now + 120000000000) } ∧
            d.pnl = { c.pnl with entry := [], fails := 0, lockEnds := none } ∧ c.logged d [⟨Ev.PIN_OK, 0x0A8, [], false⟩]
          else d.ctl = c.ctl ∧ d.pnl.entry = [] ∧ d.pnl.fails = min 5 (fails + 1) ∧
            (fails < 4 → d.pnl.lockEnds = none ∧ c.logged d [⟨Ev.PIN_FAIL, 0x0A8, [], false⟩]) ∧
            (4 ≤ fails → d.pnl.lockEnds = some (d.now + 900000000000) ∧ d.keypadOn = false))) ∧
      (∀ t, c.pnl.enrolEnds = some t → c.now < t → c.pnl.released + 2000000000 < t →
        (c.pnl.first = none → completes .pinEntryEnd s fun d =>
          d = { c with tim := d.tim, pnl := { c.pnl with entry := [], first := some c.pnl.entry } }) ∧
        (c.pnl.first = some c.pnl.entry → 6 ≤ c.pnl.entry.length → c.pnl.entry.length ≤ 12 → completes .pinEntryEnd s fun d =>
          d.pnl = { c.pnl with
            entry := [], first := none, enrolEnds := none, fails := 0,
            pin := some { length := c.pnl.entry.length, verifier := c.pinVerifier c.pnl.entry } } ∧
          d.ctl = c.ctl ∧ c.logged d [⟨Ev.PIN_SET, 0x0A8, [(4, 1)], false⟩]))) ∧
    (∀ t, c.pnl.lockEnds = some t → t < 2 ^ 64 → completes .pinLockoutEnd s fun d =>
      d.pnl = { c.pnl with lockEnds := none, fails := 4 } ∧ t ≤ d.now) ∧
    (c.orderFree → c.inMode [.provision, .maintenance] = true →
      (c.authHere 8 = true → completes .pinSet s fun d =>
        d.pnl = { c.pnl with enrolEnds := some (c.now + 60000000000), first := none } ∧ d.ctl = { c.ctl with auth := none } ∧
        d.ord.res = {}) ∧
      (c.authHere 8 = false → completes .pinSet s fun d => d = c.ended { status := 0x8B })) ∧
    (∀ t, c.pnl.enrolEnds = some t → t < 2 ^ 64 → completes .enrolmentTimeout s fun d =>
      d.pnl = { c.pnl with enrolEnds := none, first := none } ∧ t ≤ d.now)

/-- R468 to R473, R488: a frame of the fill port is answered, or counted, or refused with its reason; a key blob is held
once its answer has ended, until its time ends; a session ends by BYE, by silence or by removal. -/
def Obligations.FillPort : Prop :=
  ∀ (s : State) (payload : Bytes),
    let c := s.chip
    let taken := c.powered = true ∧ c.inMode [.wake] = false ∧ c.filt 6 = true
    let ok := taken ∧ c.getB F.CRF_FILL_CFG_en [] = true
    let naks := fun (i : Instr) (reason : Byte) => completes i s fun d =>
      d.out = c.out ++ [.fill (fillFrame 4 [reason])] ∧ c.bumped d F.CRF_FILL_CNT_naks [] ∧ d.pnl = { c.pnl with nakAt := some c.now }
    let acks := fun (d : Chip) (p : Bytes) =>
      d.out = c.out ++ [.fill (fillFrame 3 p)] ∧ c.bumped d F.CRF_FILL_CNT_frames [] ∧ d.vlt = c.vlt
    (taken → c.getB F.CRF_FILL_CFG_en [] = false → ∀ crc, naks (.fillHello crc payload) 7 ∧ naks (.fillBye crc payload) 7 ∧
      naks (.fillKeyblob crc payload) 7) ∧
    (ok → naks (.fillHello false payload) 1 ∧ naks (.fillBye false payload) 1 ∧ naks (.fillKeyblob false payload) 1) ∧
    (c.powered = true → c.inMode [.wake] = false → c.filt 6 = false → completes (.fillHello true payload) s fun d =>
      c.bumped d F.CRF_FILL_CNT_stray [] ∧ d.out = c.out ∧ d.pnl = c.pnl) ∧
    (ok → completes (.fillHello true []) s fun d =>
      acks d (beBytes 8 Config.deviceId.toNat ++ [BitVec.ofNat 8 (modeCode c.ctl.mode),
        BitVec.ofNat 8 (b2n (c.inMode [.provision, .active]) + 2 * b2n c.clearAccepted + 4 * b2n c.heldBlob.isSome)]) ∧
      d.pnl = { c.pnl with session := true, answering := none }) ∧
    (ok → completes (.fillBye true []) s fun d =>
      acks d [] ∧ d.pnl = { c.pnl with session := false, answering := none } ∧ d.evr = c.evr) ∧
    (ok → payload ≠ [] → payload.length ≤ 512 →
      (c.pnl.session = false → naks (.fillKeyblob true payload) 3) ∧
      (c.pnl.session = true → c.inMode [.provision, .active] = false → naks (.fillKeyblob true payload) 4) ∧
      (c.pnl.session = true → c.inMode [.provision, .active] = true → payload.head? = some 1 → c.clearAccepted = false →
        naks (.fillKeyblob true payload) 5) ∧
      (c.pnl.session = true → c.inMode [.provision, .active] = true → payload.head? ≠ some 1 ∨ c.clearAccepted = true →
        (fillForm payload = false → naks (.fillKeyblob true payload) 6) ∧
        (fillForm payload = true → completes (.fillKeyblob true payload) s fun d =>
          acks d (beBytes 8 (digest64 payload).toNat) ∧
          d.pnl = { c.pnl with
            ackAt := some c.now, answering := some { clear := payload.head? = some 1, data := payload.drop 1, ends := 0 } }))) ∧
    (∀ b, c.pnl.answering = some b → c.logs → completes .fillAnswerEnd s fun d =>
      d.pnl = { c.pnl with
        answering := none, held := some { b with ends := c.now + c.getF F.CRF_FILL_CFG_hold [] * 1000000000 } } ∧
      c.logged d [⟨Ev.FILL_BLOB, 0x0A6,
        [(4, b2n b.clear), (8, (digest64 ((if b.clear then 1 else 0) :: b.data)).toNat)], false⟩]) ∧
    (c.pnl.session = true → c.logs → completes .fillSilenceTimeout s fun d =>
      d.pnl = { c.pnl with session := false, answering := none } ∧ c.logged d [⟨Ev.FILL_ABORT, 0x0A6, [], false⟩]) ∧
    (c.powered = true → c.inMode [.wake] = false → c.chattering 6 = false → c.logs →
      (c.filt 6 = false → completes .fillPlug s fun d =>
        d.filt 6 = true ∧ c.logged d [⟨Ev.FILL_PLUG, 0x0A6, [], false⟩] ∧ d.out = c.out) ∧
      (c.filt 6 = true → c.pnl.session = true → completes .fillUnplug s fun d =>
        d.filt 6 = false ∧ d.pnl.session = false ∧
        c.logged d [⟨Ev.FILL_PLUG, 0x0A6, [], false⟩, ⟨Ev.FILL_ABORT, 0x0A6, [], false⟩] ∧ d.pnl.held = c.pnl.held)) ∧
    (∀ b, c.pnl.held = some b → b.ends < 2 ^ 64 → completes .fillBlobExpiry s fun d =>
      d.pnl = { c.pnl with held := none } ∧ b.ends ≤ d.now)

/-! ### Pair and stack (chapter 16) -/

/-- R408 to R411, R419 to R421, R171: the claim is sent and heard, the grade falls with its conditions and rises to what they
have allowed for 100 ms, and a
standby that the comparison favours takes over above its high-water marks; a holder that must yields with its
final copy, and of two holders
the one that keeps the claim raises its packet numbers. -/
def Obligations.HealthAndClaim : Prop :=
  ∀ (s : State) (fec : Bool) (a b : Byte) (frame : Bytes),
    let c := s.chip
    let p := c.prs
    let status := b2n c.holding + 2 * b2n c.inService + 4 * b2n p.yieldAt.isSome + 16 * p.sideSeq
    let heard := { c with prs := { p with fecBad := fec } }
    let tx := fun (i : Nat) => (c.sa i).state = 1 ∧ (c.sa i).dir = false
    (c.powered = true → completes .claimFrameSend s fun d =>
      d = { c with
        out := c.out ++ (if c.getB F.LNK_LINK_STAT_up [2] then [.claimWord (BitVec.ofNat 8 c.publishedClaim) (BitVec.ofNat 8 status)]
          else []) ++ [.claimTx (claimFrame c.publishedClaim status)], prs := { p with sideSeq := (p.sideSeq + 1) % 16 } }) ∧
    (c.powered = true → completes (.claimFrameReceive false (claimFrame a.toNat b.toNat)) s fun d =>
      d.prs.peerClaim = a.toNat ∧ d.prs.peerSrc = 2 ∧ d.prs.peerHolding = bit b.toNat 0 ∧ d.prs.peerPresent = true ∧
      d.prs.heardSide = c.now ∧ d.prs.deferSince = (if d.deferHolds then some (p.deferSince.getD c.now) else none) ∧
      d.prs.holdSince = (if d.holds then some (p.holdSince.getD c.now) else none) ∧ d.regs = c.regs ∧ d.ctl = c.ctl) ∧
    ((∀ x y, frame ≠ claimFrame x y) → completes (.claimFrameReceive false frame) s fun d => d = c) ∧
    (c.powered = true → c.getB F.LNK_LINK_STAT_up [2] = false → p.heardSide + 1000000 < 2 ^ 64 → completes .peerAbsent s fun d =>
      d.prs.peerClaim = 0 ∧ d.prs.peerSrc = 0 ∧ d.prs.peerHolding = false ∧ d.prs.peerPresent = false ∧
      p.heardSide + 1000000 ≤ d.now ∧ d.prs.deferSince = none) ∧
    (c.powered = true →
      completes (.gradeFall fec) s (fun d => d.prs.fecBad = fec ∧ d.prs.grade = min p.grade heard.gradeNow ∧
        (c.getB F.PRS_CTL_unfit [] = true → d.prs.grade = 0) ∧
        (c.logs → heard.gradeNow < p.grade →
          c.logged d [⟨Ev.GRADE, 0x601, [(4, heard.condBits + 4096 * heard.gradeNow)], false⟩]))) ∧
    (c.running = true →
      let since := fun (k : Nat) => (SMap.get (fun _ => none) p.held k : Option Nat).getD c.now
      (heard.gradeNow ≤ p.grade → completes (.gradeRise fec) s fun d => d.prs.fecBad = fec ∧ d.prs.grade = p.grade ∧
        (∀ k, heard.gradeNow < k → k < 8 → SMap.get (fun _ => none) d.prs.held k = none) ∧ d.ctl = c.ctl) ∧
      (p.grade < heard.gradeNow → since (p.grade + 1) + 100000000 < 2 ^ 64 → completes (.gradeRise fec) s fun d =>
        d.prs.fecBad = fec ∧ since (p.grade + 1) + 100000000 ≤ d.now ∧
        d.prs.grade = ((List.range 8).filter fun k => k ≤ heard.gradeNow && since k + 100000000 ≤ d.now).foldl max 0 ∧
        (c.logs → c.logged d [⟨Ev.GRADE, 0x601, [(4, heard.condBits + 4096 * d.prs.grade)], false⟩]) ∧ d.ctl = c.ctl)) ∧
    (∀ t, p.deferSince = some t → c.deferring = true → p.link = 4 → c.getB F.PRS_PAIR_CFG_revert_en [] = true →
      t + c.getF F.PRS_PAIR_CFG_revert_hold [] * 1000000000 < 2 ^ 64 → completes .revertExpiry s fun d =>
        d.prs = { p with reverted := true, holdSince := d.prs.holdSince, finalGot := d.prs.finalGot } ∧
        (p.grade ≠ 0 → d.prs.holdSince = some (p.holdSince.getD d.now)) ∧ t + c.getF F.PRS_PAIR_CFG_revert_hold [] * 1000000000 ≤ d.now) ∧
    (c.inMode [.standby] = true → c.holds = true → completes .takeover s fun d =>
      d.ctl.mode = .active ∧ d.holding = true ∧ c.bumped d F.PRS_TAKEOVER_CNT_count [] ∧ d.fwd.rake = 0 ∧
      (∀ t, p.peerSrc ≠ 0 → p.finalGot = false → p.holdSince = some t → t + c.pairTc + 2000 < 2 ^ 64 →
        t + c.pairTc + 2000 ≤ d.now) ∧
      (SMap.wf (fun _ => {}) c.sax.sas = true → ∀ i, tx i → (c.sa i).mark + c.pnGuard ≤ lastPn (c.sa i).suite →
        (d.sa i).nextPn = (c.sa i).mark + c.pnGuard)) ∧
    (c.mustYield = true → p.yieldAt = none → completes .yield s fun d =>
      let dual := c.getB F.PRS_STAT_dual []
      let left := fun (x : CopyItem) => match x with
        | .reserve _ _ _ | .reserveSeq _ _ => true
        | _ => false
      d.prs.yieldAt = some c.now ∧ d.ctl = c.ctl ∧
      (c.copying = true ∨ dual = true → d.prs.commits = [] ∧ d.prs.unacked = [] ∧
        d.out = (c.pairSend 0 (Config.recordBytes PairCycle {
          number := (p.cycle + 1) % 2 ^ 32, final := true, cfgCrc := c.pairCrc,
          commits := p.unacked.flatMap (·.commits) ++ p.commits,
          items := if dual then c.reservedLimits else (p.unacked.flatMap (·.items)).filter left })).out)) ∧
    (∀ t, p.yieldAt = some t → c.inMode [.active, .drain] = true → completes .yieldEnd s fun d =>
      d.ctl.mode = .standby ∧ d.holding = false ∧ d.prs.yieldAt = none ∧ d.prs.selOut = false ∧
      (p.peerHolding = false → t + 3 * c.pairTc + 10000 < 2 ^ 64 → t + 3 * c.pairTc + 10000 ≤ d.now)) ∧
    (c.holding = true → p.peerHolding = true → 2 ∈ p.linkUp →
      (c.mustYield = true → ∀ l, completes (.dualHold l) s fun d => d.getF F.PRS_STAT_dual [] = 1 ∧ d.sax = c.sax) ∧
      (c.mustYield = false → ∀ i limit, tx i → max limit (c.sa i).mark + c.pnGuard ≤ lastPn (c.sa i).suite →
        completes (.dualHold [.reserve i (c.sa i).generation limit]) s fun d =>
          d.getF F.PRS_STAT_dual [] = 1 ∧ (∀ j, d.sa j =
            if j = i then { c.sa i with nextPn := max limit (c.sa i).mark + c.pnGuard } else c.sa j)))

/-- R332, R411 to R418, R423, R436: a HELLO exchange asks key sequencer engine 1 for a link's session, which starts with its last
request, or is refused; the holder ends a cycle with as much of its copy and its reservations as the cycle holds, sends again
what is not acknowledged, and hears the standby; a frame of the pair link whose tag fails is dropped and counted, one that
passes brings the peer's claim; the standby applies cycles in sequence, keeps those that come during a bulk copy (DEDUCED, log
entry 34), replaces its tables by a bulk copy, and counts missed markers; a DERIVE slot becomes a link key. -/
def Obligations.PairLinkAndCopy : Prop :=
  ∀ (s : State) (peer : PeerHello) (port : Fin 2) (link : Fin 3) (salt : BitVec 96) (k i : Nat) (v : Sa) (h : Word),
    let c := s.chip
    let p := c.prs
    let saltOf := fun (j : Nat) => SMap.get (fun _ => none) p.salts j
    let session := fun (d : Chip) (j : Nat) => SMap.get (fun _ => none) d.prs.sessions j
    let mine := fun (r : PanReq) => r.kind == .cmac && r.subject == 1
    let asked := fun (d : Chip) (j : Nat) =>
      d.prs.jobs = p.jobs ++ [.session j k (c.slot k).generation (c.sessionOf j k (c.ownHello j salt) peer) peer.stackId
        peer.deviceId] ∧ d.prs.sessions = p.sessions ∧ d.prs.link = p.link ∧ d.out = c.out ∧
      (c.pan.stopped = false → p.jobOn = false → p.jobs = [] →
        ∃ n r, d.panReq n = some r ∧ r.kind = .cmac ∧ r.subject = 1 ∧ r.slot = k)
    (c.getF F.LNK_LINK_STAT_up [2] ≠ 0 →
      (saltOf 2 = none → completes (.pairHello peer) s fun d =>
        d.prs = { p with hellos := SMap.set (fun _ => none) p.hellos 2 (some peer), peerPresent := true } ∧ d.out = c.out) ∧
      (saltOf 2 = some salt → c.linkKey 2 = some k → p.link ≠ 4 → completes (.pairHello peer) s fun d =>
        (c.helloPasses 2 (c.ownHello 2 salt) peer = true → c.canDerive k = true → asked d 2) ∧
        (c.helloPasses 2 (c.ownHello 2 salt) peer = false ∨ c.canDerive k = false →
          session d 2 = none ∧ 2 ∉ d.prs.linkUp ∧ d.prs.link = 2 ∧
          (c.logs → c.logged d [⟨Ev.PAIR_MISMATCH, 0x600, [], false⟩])))) ∧
    (c.getF F.LNK_LINK_STAT_up [port.val] ≠ 0 → saltOf port.val = some salt → c.linkKey port.val = some k →
      completes (.runnerHello port peer) s fun d =>
        (c.helloPasses port.val (c.ownHello port.val salt) peer = true → c.canDerive k = true → asked d port.val) ∧
        (c.helloPasses port.val (c.ownHello port.val salt) peer = false ∨ c.canDerive k = false → session d port.val = none ∧
          port.val ∉ d.prs.linkUp ∧ (c.logs → c.logged d [⟨Ev.STACK_MISMATCH, 0x620 + port.val, [], false⟩])) ∧
        d.prs.link = p.link) ∧
    (∀ n q keys gen pid pdev rest, c.turnOf mine = some (n, q) → ((c.panDone n).findReq mine) = none → (c.ksqCtx 1).cmac = none →
      p.jobOn = true →
      (p.jobs = .session link.val k gen keys pid pdev :: rest →
        ((c.ksqCtx 1).cmacFail = false → completes (.cmacComplete 1) s fun d =>
          session d link.val = some keys ∧ link.val ∈ d.prs.linkUp ∧ d.prs.jobs = rest ∧
          (link = 2 → d.prs.link = if p.link < 3 then 3 else p.link) ∧
          (link ≠ 2 → SMap.get (fun _ => none) d.prs.neighbours link.val = some (pid, pdev) ∧ d.prs.link = p.link) ∧
          ((c.slot k).generation = gen → (d.slot k).count = (c.slot k).count - 2) ∧
          d.getF F.KSQ_RUN_CNT_count [] = min (2 ^ 32 - 1) (c.getF F.KSQ_RUN_CNT_count [] + 2)) ∧
        ((c.ksqCtx 1).cmacFail = true → completes (.cmacComplete 1) s fun d =>
          d.prs.sessions = p.sessions ∧ d.prs.jobs = rest ∧ d.prs.link = p.link ∧ d.out = c.out)) ∧
      (p.jobs = .hello link.val k salt :: rest → (c.ksqCtx 1).cmacFail = false →
        SMap.get (fun _ => none) p.hellos link.val = none → completes (.cmacComplete 1) s fun d =>
          (SMap.get (fun _ => none) d.prs.salts link.val : Option (BitVec 96)) = some salt ∧ d.prs.jobs = rest ∧
          d.out = c.out ++ .hello link.val (c.ownHello link.val salt) :: (if link = 2 ∧ c.getB F.LNK_LINK_STAT_up [2] = true then
            [.claimWord (BitVec.ofNat 8 c.publishedClaim) (BitVec.ofNat 8 c.claimStatus)] else []))) ∧
    (link.val ∈ p.linkUp →
      (c.entFailed = false → c.getF F.LNK_LINK_STAT_up [link.val] ≠ 0 → completes (.linkRehello link peer) s fun d =>
        d.ent.waiting = (c.ent.waiting.filter fun r => r.use ≠ .linkSalt link.val) ++
          [{ cls := 1, need := 1, use := .linkSalt link.val }] ∧
        SMap.get (fun _ => none) d.prs.hellos link.val = some peer ∧ d.prs.sessions = p.sessions) ∧
      (c.entFailed = true → completes (.linkRehello link peer) s fun d => link.val ∉ d.prs.linkUp ∧ session d link.val = none)) ∧
    (c.copying = true → completes .pairCycleEnd s fun d =>
      (∃ x, d.prs.unacked = p.unacked ++ [x] ∧ x.number = (p.cycle + 1) % 2 ^ 32 ∧ x.cfgCrc = c.pairCrc ∧ x.final = false ∧
        x.commits ++ d.prs.commits = p.commits ∧ d.out = (c.pairSend 0 (Config.recordBytes PairCycle x)).out ∧
        (x.items.map CopyItem.size).sum + (x.commits.map fun y => (Config.recordBytes (Nat × List CopyItem) y).length).sum ≤
          c.cycleRoom) ∧
      d.prs.cycle = (p.cycle + 1) % 2 ^ 32 ∧ d.getF F.PRS_COPY_CYCLE_cycle [] = (p.cycle + 1) % 2 ^ 32 ∧ d.prs.cycleAt = d.now ∧
      (p.cycleAt + c.pairTc < 2 ^ 64 → p.cycleAt + c.pairTc ≤ d.now) ∧
      (p.link = 4 → SMap.wf (fun _ => {}) c.sax.sas = true → ∀ j, (c.sa j).state = 1 → (c.sa j).dir = false →
        (d.sa j).nextPn = (c.sa j).nextPn ∧ (c.sa j).reserved ≤ (d.sa j).reserved ∧
        (12 * c.dueReserves.length ≤ c.cycleRoom → (c.sa j).nextPn + 2 ^ 17 ≤ (d.sa j).reserved))) ∧
    (c.copying = false → completes .pairCycleEnd s fun d => d = c) ∧
    (c.copying = true → ∀ x : PairCycle, p.unacked = [x] → x.number + 2 ≤ p.cycle → x.items = [.sa i v] →
      completes .copyResend s fun d =>
        d.out = (c.pairSend 0 (Config.recordBytes PairCycle { x with items := [.sa i (c.sa i)] })).out ∧
        d.prs.unacked = [{ x with items := [.sa i (c.sa i)] }] ∧ d.sax = c.sax) ∧
    (∀ (ks : LinkSession) (x : PairHead), session c 2 = some ks →
      let passes := fun (kind : Nat) (body : Bytes) =>
        let iv := BitVec.ofNat 96 (ks.rxSalt.toNat / 2 ^ 64 * 2 ^ 64 + x.seq)
        x.tag = Config.gcmTag true ks.rxKey iv ([BitVec.ofNat 8 kind, x.claim, x.status, 0] ++ beBytes 8 x.seq)
          (gcmXor true ks.rxKey iv body)
      let heard := c.peerClaimed true x.claim.toNat x.status.toNat
      let sends := fun (d : Chip) (ack : CopyAck) => d.out = (heard.pairSend 2 (Config.recordBytes CopyAck ack)).out
      let drops := fun (cmd : Instr) => completes cmd s fun d =>
        c.bumped d F.PRS_LINK_AUTH_CNT_count [] ∧ c.fieldsOnly d [F.PRS_LINK_AUTH_CNT_count.key []]
      (∀ y, ¬ passes 2 (Config.recordBytes CopyAck y) → drops (.cycleAcknowledge ⟨x, y⟩)) ∧
      (∀ y, ¬ passes 0 (Config.recordBytes PairCycle y) → drops (.pairCycleApply ⟨x, y⟩)) ∧
      (∀ y, ¬ passes 1 (Config.recordBytes BulkCopy y) → drops (.bulkCopyDone x y)) ∧
      (c.holding = true →
        (∀ n crc, passes 2 (Config.recordBytes CopyAck (.cycle n crc)) → completes (.cycleAcknowledge ⟨x, .cycle n crc⟩) s fun d =>
          d.prs = { heard.prs with unacked := p.unacked.filter fun y => y.number ≠ n } ∧ d.out = c.out ∧
          d.getF F.PRS_STAT_cfg_diff [] = b2n (crc ≠ c.pairCrc) ∧
          (c.logs → c.logged d (if crc ≠ c.pairCrc ∧ c.getF F.PRS_STAT_cfg_diff [] = 0 then
            [⟨Ev.PAIR_CFG_DIFF, 0x600, [], false⟩] else []))) ∧
        (p.link = 3 → passes 2 (Config.recordBytes CopyAck .bulk) → completes (.cycleAcknowledge ⟨x, .bulk⟩) s fun d =>
          d.prs.link = 4) ∧
        (3 ≤ p.link → passes 2 (Config.recordBytes CopyAck .resync) → completes (.cycleAcknowledge ⟨x, .resync⟩) s fun d =>
          d.prs.link = 3 ∧ d.prs.unacked = [] ∧ d.prs.commits = [] ∧ d.out = (heard.pairSend 1 (Config.recordBytes BulkCopy
            { seq := p.commitSeq, items := c.changedItems {} c.snapshot })).out)) ∧
      (c.holding = false → i < 65536 → v.dir = false → ∀ y : PairCycle, passes 0 (Config.recordBytes PairCycle y) →
        (heard.finalLate y = true → completes (.pairCycleApply ⟨x, y⟩) s fun d => d = heard) ∧
        (p.link = 3 → heard.finalLate y = false → completes (.pairCycleApply ⟨x, y⟩) s fun d =>
          d.prs.early = p.early ++ [y] ∧ d.sax = c.sax ∧ d.vlt = c.vlt ∧ sends d (.cycle y.number c.pairCrc)) ∧
        (p.link = 4 → heard.finalLate y = false →
          (y.commits = [] → y.items = [.sa i v] → completes (.pairCycleApply ⟨x, y⟩) s fun d =>
            (∀ j, d.sa j = if j = i then v else c.sa j) ∧ sends d (.cycle y.number c.pairCrc) ∧
            c.bumped d F.PRS_COPY_CNT_count [] ∧ d.prs.link = 4 ∧
            (cycleAfter y.number p.appliedCycle = true →
              d.prs.appliedCycle = y.number ∧ d.prs.markerMisses = 0 ∧ d.prs.markerAt = c.now) ∧
            (cycleAfter y.number p.appliedCycle = false → d.prs.appliedCycle = p.appliedCycle)) ∧
          (∀ n, p.peerCommitSeq + 1 < n → y.commits = [(n, [.sa i v])] → y.items = [] →
            completes (.pairCycleApply ⟨x, y⟩) s fun d =>
              d.prs.link = 5 ∧ d.sax = c.sax ∧ d.prs.peerCommitSeq = p.peerCommitSeq) ∧
          (y.commits = [(p.peerCommitSeq + 1, [.sa i v])] → y.items = [] → completes (.pairCycleApply ⟨x, y⟩) s fun d =>
            (∀ j, d.sa j = if j = i then v else c.sa j) ∧ d.prs.peerCommitSeq = p.peerCommitSeq + 1))) ∧
      (c.holding = false → p.link = 3 → p.early = [] → i < 65536 → v.dir = false → ∀ n,
        passes 1 (Config.recordBytes BulkCopy ⟨n, [.sa i v]⟩) → completes (.bulkCopyDone x ⟨n, [.sa i v]⟩) s fun d =>
          (∀ j, d.sa j = if j = i then v else {}) ∧ (∀ j, d.slot j = {}) ∧ (∀ j, d.chan j = {}) ∧ d.prs.link = 4 ∧
          d.prs.peerCommitSeq = n ∧ sends d .bulk)) ∧
    (c.holding = false → p.link = 4 →
      let due := fun (n : Nat) (d : Chip) =>
        p.markerAt + n * (c.pairTc + 2000) < 2 ^ 64 → p.markerAt + n * (c.pairTc + 2000) ≤ d.now
      (p.markerMisses = 0 → completes .markerDeadline s fun d =>
        d.prs.markerMisses = 1 ∧ d.prs.link = 4 ∧ d.prs.peerClaim = p.peerClaim ∧ c.bumped d F.PRS_MISS_CNT_count [] ∧ due 1 d) ∧
      (p.markerMisses = 2 → p.markerAt + c.pairTc + 2000 < p.heardSide → completes .markerDeadline s fun d =>
        d.prs.link = 5 ∧ due 3 d) ∧
      (p.markerMisses = 2 → p.heardSide ≤ p.markerAt + c.pairTc + 2000 → completes .markerDeadline s fun d =>
        d.prs.link = 4 ∧ d.prs.peerClaim = 0 ∧ d.prs.peerHolding = false ∧ due 3 d)) ∧
    (c.orderFree → c.inMode [.provision, .maintenance] = true → c.stagedCount < 64 →
      (c.staged.checkKey h = 0 → (c.staged.slot (slotOf h)).type = 2 →
        completes (.pairKeySet h) s (fun d => d = (c.plusStaged (.pairKey h)).ended {}) ∧
        completes (.stackKeySet h) s (fun d => d = (c.plusStaged (.stackKey h)).ended {})) ∧
      (c.staged.checkKey h = 0 → (c.staged.slot (slotOf h)).type ≠ 2 →
        completes (.pairKeySet h) s (fun d => d = c.ended { status := 0x43 }) ∧
        completes (.stackKeySet h) s (fun d => d = c.ended { status := 0x43 })))

/-- R216, R424 to R429: the master sends its time word and every member its keepalive under each Runner link's session; a
member heard is present until it has been silent for 100 µs; stack frames are checked, opened, delivered,
passed on or dropped; a lost master is replaced by PROMOTE; a relayed list waits for its member's result. -/
def Obligations.StackLinks : Prop :=
  ∀ (s : State) (port : Fin 2) (dev hops : Fin 8) (device : DWord) (mode : Fin 16) (holding : Bool) (claim : Byte) (frame : Bytes)
    (k : LinkSession) (at' : DWord) (len : Word) (params : Bytes),
    let c := s.chip
    let p := c.prs
    let session := fun (j : Nat) => SMap.get (fun _ => none) p.sessions j
    let wire := fun (j kind hops src dest : Nat) (body : Bytes) =>
      let head := [BitVec.ofNat 8 (16 + kind), BitVec.ofNat 8 hops, BitVec.ofNat 8 src, BitVec.ofNat 8 dest] ++ beBytes 8 k.seq
      let cipher := gcmXor true k.txKey (BitVec.ofNat 96 (k.txSalt.toNat / 2 ^ 64 * 2 ^ 64 + k.seq)) (List.replicate 32 0 ++ body)
      let sealed := head ++ cipher ++ beBytes 16 (Config.gcmTag true k.txKey
        (BitVec.ofNat 96 (k.txSalt.toNat / 2 ^ 64 * 2 ^ 64 + k.seq)) head cipher).toNat
      Output.linkWord j kind (sealed ++ fcs sealed)
    (c.powered = true → session 0 = some k → session 1 = none → k.seq < 2 ^ 48 →
      (c.running = true → c.isMaster = true → completes .stackTimeSend s fun d =>
        d.out = c.out ++ [wire 0 1 7 p.straps 0xFF (beBytes 12 (packTime c.tim.clock c.holdover) ++ beBytes 8 c.epochOrg ++
          beBytes 4 (c.getF F.TIM_EPOCH_CFG_len []))] ∧
        SMap.get (fun _ => none) d.prs.sessions 0 = some { k with seq := k.seq + 1 }) ∧
      (c.isMaster = false → completes .stackTimeSend s fun d => d = c) ∧
      completes .keepaliveSend s (fun d =>
        d.out = c.out ++ [wire 0 4 7 p.straps 0xFF
          ([BitVec.ofNat 8 (modeCode c.ctl.mode), BitVec.ofNat 8 (b2n c.holding), BitVec.ofNat 8 c.publishedClaim] ++
            beBytes 8 Config.deviceId.toNat)])) ∧
    (c.powered = true → session 0 = some k → session 1 = none → 2 ^ 48 ≤ k.seq → completes .keepaliveSend s fun d => d = c) ∧
    (port.val ∈ p.linkUp → dev.val ≠ p.straps → completes (.keepaliveReceive port ⟨dev, device⟩ hops mode holding claim) s fun d =>
      (d.member dev.val).present = true ∧ (d.member dev.val).mode = mode.val ∧ (d.member dev.val).holding = holding ∧
      (d.member dev.val).claim = claim.toNat ∧ (d.member dev.val).heard = c.now ∧ (d.member dev.val).device = device ∧
      d.hopsBy dev.val port.val = some (min 7 (8 - hops.val)) ∧
      (∀ j, j ≠ dev.val → d.member j = c.member j) ∧ (dev.val = c.masterId → mode.val ≠ modeCode .wake → d.prs.masterHeard = c.now) ∧
      (hops.val = 0 → d.out = c.out) ∧
      (hops.val ≠ 0 → session (1 - port.val) = some k → k.seq < 2 ^ 48 → d.out = c.out ++ [wire (1 - port.val) 4 (hops.val - 1) dev.val 0xFF
        ([BitVec.ofNat 8 mode.val, BitVec.ofNat 8 (b2n holding), claim] ++ beBytes 8 device.toNat)])) ∧
    ((c.member dev.val).present = true → (c.member dev.val).heard + 100000 < 2 ^ 64 → completes (.keepaliveTimeout dev) s fun d =>
      (d.member dev.val).present = false ∧ (c.member dev.val).heard + 100000 ≤ d.now ∧
      ∀ j, j ≠ dev.val → d.member j = c.member j) ∧
    (session port.val = some k →
      let head := frame.take 12
      let dest := (frame.getD 3 0).toNat
      let cnt := fun (d : Chip) (reason : Nat) => d.cntGet false ((64 + port.val) * 0x80 + 0x20 + (reason - 0x80)) =
        c.cntGet false ((64 + port.val) * 0x80 + 0x20 + (reason - 0x80)) + 1
      let tagged := frame.take (frame.length - 4)
      let whole := frame.drop (frame.length - 4) = fcs tagged
      (¬ whole → completes (.stackFrameReceive port frame) s fun d => cnt d 0x81 ∧ d.path = c.path ∧ d.out = c.out) ∧
      (whole → frame.length < 64 → completes (.stackFrameReceive port frame) s fun d =>
        c.bumped d F.PRS_LINK_AUTH_CNT_count [] ∧ d.path = c.path ∧ d.out = c.out) ∧
      (whole → 64 ≤ frame.length → frame.getD 0 0 = 0x10#8 → (frame.getD 2 0).toNat ≠ p.straps →
        completes (.stackFrameReceive port frame) s fun d =>
          let ok := Config.gcmTag true k.rxKey
            (BitVec.ofNat 96 (k.rxSalt.toNat / 2 ^ 64 * 2 ^ 64 + beNat (slice head 4 8))) head
            ((frame.drop 12).take (frame.length - 32)) = BitVec.ofNat 128 (beNat (tagged.drop (tagged.length - 16)))
          (¬ ok → c.bumped d F.PRS_LINK_AUTH_CNT_count [] ∧ d.path = c.path ∧ d.out = c.out) ∧
          (ok → dest = p.straps → c.inMode [.standby] = true → cnt d 0x89 ∧ d.path = c.path ∧ d.out = c.out) ∧
          (ok → dest ≠ p.straps → dest ≠ 0xFF →
            ((frame.getD 1 0).toNat = 0 ∨ (c.member dest).present = false ∨ 1 - port.val ∉ p.linkUp →
              cnt d 0x98 ∧ d.path = c.path ∧ d.out = c.out) ∧
            ((frame.getD 1 0).toNat ≠ 0 → (c.member dest).present = true → 1 - port.val ∈ p.linkUp → ∀ x,
              session (1 - port.val) = some x → x.seq < 2 ^ 48 →
              (∃ w, d.out = c.out ++ [.linkWord (1 - port.val) 0 w]) ∧ d.path = c.path)))) ∧
    (c.running = true → c.isMaster = false → p.masterLost = false → p.masterHeard + 100000 < 2 ^ 64 →
      completes .masterLost s fun d =>
        d.prs = { p with masterLost := true } ∧ p.masterHeard + 100000 ≤ d.now ∧
        (c.getF F.TIM_REF_CFG_src [] = 2 → c.refState = 2 → d.refState = 3) ∧
        (c.getF F.TIM_REF_CFG_src [] ≠ 2 → c.logs → c.logged d [⟨Ev.MASTER_LOST, 0x602, [], false⟩])) ∧
    (p.masterLost = true → c.logs → completes .masterFound s fun d =>
      d.prs = { p with masterLost := false, masterHeard := c.now } ∧ c.logged d [⟨Ev.MASTER_FOUND, 0x602, [], false⟩]) ∧
    (c.orderFree → c.inMode [.maintenance] = true →
      (p.masterLost = true → c.logs → completes .promote s fun d =>
        d.prs = { p with acting := true, masterLost := false } ∧ d.ord.res = {} ∧ c.logged d [⟨Ev.PROMOTED, 0x602, [], false⟩]) ∧
      (p.masterLost = false → completes .promote s fun d => d = c.ended { status := 0x97 })) ∧
    (c.orderFree → c.inMode [.provision, .active, .maintenance] = true → c.dmaAllowed 0 = true → len.toNat ≤ 12288 →
      let to' := BitVec.ofNat 32 dev.val
      (p.masterLost = true → completes (.stackRelay to' at' len (some params)) s fun d => d = c.ended { status := 0x94 }) ∧
      (p.masterLost = false → c.isMaster = false → completes (.stackRelay to' at' len (some params)) s fun d =>
        d = c.ended { status := 0x95 }) ∧
      (p.masterLost = false → c.isMaster = true → dev.val ≠ p.straps →
        ((c.member dev.val).present = false → completes (.stackRelay to' at' len (some params)) s fun d =>
          d = c.ended { status := 0x96 }) ∧
        ((c.member dev.val).present = true → completes (.stackRelay to' at' len (some params)) s fun d =>
          d.ord.wait = .relay ∧ d.prs.relayTo = some (dev.val, c.now) ∧ d.ord.res = c.ord.res ∧
          (∀ j, c.runnerPort dev.val = some j → session j = some k → k.seq < 2 ^ 48 →
            d.out = c.out ++ [wire j 5 7 p.straps dev.val (slice params 0 len.toNat)])))) ∧
    (∀ x t, p.relayTo = some (x, t) → c.ord.wait = .relay → c.ord.callReg = none → c.ord.busy = false → t + 100000000 < 2 ^ 64 →
      completes .relayTimeout s fun d =>
        d.ord.res = { status := 0x96 } ∧ d.ord.wait = .none ∧ d.prs.relayTo = none ∧ t + 100000000 ≤ d.now)

/-! ### Order blocks (chapter 13) -/

/-- R339, R341 to R343, R429, R522: the next order ring in the round gives a block; a block of entry 0 stands at its first
record or ends with its result, one of another entry runs the owner's program; a relayed list runs as a block. A command that
is not the interpreter's record does nothing; the last record that succeeds ends its block with OK. -/
def Obligations.OrderBlocks : Prop :=
  ∀ (s : State) (ring : Fin 4) (desc params : Bytes),
    let c := s.chip
    let entry := leNat (slice desc 0 1)
    let len := leNat (slice desc 4 4)
    let at' := c.ringBase (ring.val + 4) + (c.ring (ring.val + 4)).own.toNat % c.ringSize (ring.val + 4) * 32
    let ends := fun (status index : Nat) => completes (.orderBlockFetch ring (some desc) (some params)) s fun d =>
      d.ord.busy = false ∧ d.ord.res.status = status ∧ c.bumped d F.ORD_BLK_CNT_count [] ∧ d.ord.lastRing = ring.val ∧
      (d.ring ring.val).own = (c.ring ring.val).own + 1 ∧ (d.ring (ring.val + 4)).own = (c.ring (ring.val + 4)).own + 1 ∧
      .hostWrite 0 at' (ordCompletion (BitVec.ofNat 64 (leNat (slice desc 16 8))) status index false 0 0) ∈ d.out ∧ d.vlt = c.vlt
    let loaded := fun (d : Chip) (l : Bytes) => ∀ j, j < 0x4000 → d.memGet (ordLocal + j) = l.getD j 0
    (c.ordIdle = true → c.ctl.zeroizing = none → c.ord.staged = [] → c.ord.regWrites = [] → c.ord.discardCompletion = false →
      c.dmaAllowed 0 = true →
      (((List.range 4).map fun i => (c.ord.lastRing + 1 + i) % 4).find? c.canFetch) = some ring.val → desc.length = 32 →
      (c.su.failed = true → ends 0x40 0xFFFF) ∧
      (c.su.failed = false →
        (12288 < len → ends 0x53 0xFFFF) ∧
        (leNat (slice desc 1 3) ≠ 0 → ends 0x53 0xFFFF) ∧
        (leNat (slice desc 24 8) ≠ 0 → ends 0x53 0xFFFF) ∧
        (len = 0 → leNat (slice desc 1 3) = 0 → leNat (slice desc 24 8) = 0 → entry = 0 → ends 0 0xFFFF) ∧
        (0 < len → len ≤ 12288 → params.length = len → leNat (slice desc 1 3) = 0 → leNat (slice desc 24 8) = 0 →
          (entry ≠ 0 → (c.target 8).active = none → ends 0x87 0xFFFF) ∧
          (entry ≠ 0 → ∀ i a, (c.target 8).active = some i → i.entries[entry - 1]? = some a →
            completes (.orderBlockFetch ring (some desc) (some params)) s fun d =>
              (d.ectx .order).running = true ∧ (d.ectx .order).pc = a ∧ d.gGet .order 1 = BitVec.ofNat 64 len ∧
              d.gGet .order 2 = BitVec.ofNat 64 ring.val ∧ d.gGet .order 3 = BitVec.ofNat 64 entry ∧ d.ord.busy = true ∧
              loaded d params) ∧
          (entry = 0 → params = [0x01, 0x05, 4, 0, 0, 0, 0, 0, 1, 0, 0, 0, 0, 0, 0, 0] →
            completes (.orderBlockFetch ring (some desc) (some params)) s fun d =>
              d.ord.busy = true ∧ d.ord.pos = 0 ∧ d.ord.index = 0 ∧ loaded d params ∧
              (d.ring ring.val).own = (c.ring ring.val).own + 1))))  ∧
    (c.ringsServed = true → c.ordIdle = true → c.isMaster = false →
      params = [0x01, 0x05, 4, 0, 0, 0, 0, 0, 1, 0, 0, 0, 0, 0, 0, 0] → completes (.relayReceive params) s fun d =>
        d.ord.busy = true ∧ d.ord.relay = true ∧ d.ord.entry = 0 ∧ d.ord.pos = 0 ∧ loaded d params ∧ d.hif = c.hif) ∧
    (c.isMaster = true → completes (.relayReceive params) s fun d => d = c) ∧
    (c.ord.busy = true → c.ord.entry = 0 → c.ord.wait = .none → c.ord.ended = none → c.ord.callReg = none →
      c.ctl.zeroizing = none →
      (∀ kid : Word, c.recordIs 0x0501 (w4 kid) = false → completes (.memKeyFlush kid) s fun d => d = c) ∧
      (c.recordIs 0x0504 [] = true → leNat (c.memBytes (ordLocal + c.ord.pos + 2) 2) = 0 → c.ctl.mode = .active →
        c.ord.paramLen = c.ord.pos + 8 → completes .memKstat s fun d =>
          d.ord.busy = false ∧ d.ord.res.status = 0 ∧ c.bumped d F.ORD_BLK_CNT_count [] ∧ d.buf = c.buf))

/-! ### The block as a whole -/

/-- Log entry 5 and the block's form: a step takes the command at the front of the queue and is that command's meaning with
the queue's rest; on an empty queue the clock goes on by one cycle and nothing else changes. Every command completes, in
every state and with every operand, and leaves the queue as it was. -/
def Obligations.QueueStep : Prop :=
  ∀ (s : State) (i : Instr) (rest : List Instr),
    (∃ c, exec i s = .next { s with chip := c }) ∧
    (s.pending = i :: rest → step s = exec i { s with pending := rest }) ∧
    (s.pending = [] → ∃ c, step s = .next { s with chip := c } ∧ c = { s.chip with tim := c.tim } ∧
      (s.chip.powered = true → s.chip.su.resetHeld = false → c.tim.elapsed = s.chip.tim.elapsed + 1) ∧
      (s.chip.powered = false ∨ s.chip.su.resetHeld = true → c = s.chip))

/-- R383, R387, R388 and log entry 1: what power-on leaves: the mode WAKE, D0, empty queues, no owner, and every register at
its reset value. -/
def Obligations.ResetState : Prop :=
  State.reset.pending = [] ∧ State.reset.chip.ctl.mode = .wake ∧ State.reset.chip.ctl.dbg = 0 ∧
  State.reset.chip.path.frames = [] ∧ State.reset.chip.ord.staged = [] ∧ State.reset.chip.mem = [] ∧
  (∀ i : Nat, (State.reset.chip.slot i).state = 0 ∧ (State.reset.chip.sa i).state = 0) ∧
  (∀ i hash, ¬ State.reset.ownedBy i hash) ∧
  (∀ k, SMap.get regReset State.reset.chip.regs k = regReset k) ∧ State.reset.memOk ∧ State.reset.queueOk

/-- R147: no step changes an ownership slot of OTP that is programmed whole, once its programming has ended. -/
def Obligations.OwnershipIsPermanent : Prop :=
  ∀ (s s' : State) (i : Fin 16) (hash : BitVec 384), s.ownedBy i.val hash →
    s.chip.otpOpen ≠ some i.val → step s = .next s' → s'.ownedBy i.val hash
end

