-- ==== Sys2Proof/Laws/SMap.lean ====
section
/-! SUPPORT. Sparse tables: what a read gives after a write, and that every operation keeps the canonical form. -/
namespace Sys2Proof.Machine

variable {α : Type} {d : Nat → α} {m : SMap α} {j k : Nat} {v : α}

@[simp] theorem SMap.get_nil : SMap.get d [] k = d k := rfl

theorem SMap.get_erase_same : (SMap.erase k m).get d k = d k := by
  induction m with
  | nil => rfl
  | cons p m ih => simp only [SMap.erase]; split <;> simp_all [SMap.get]

theorem SMap.get_erase_other (h : j ≠ k) : (SMap.erase k m).get d j = m.get d j := by
  induction m with
  | nil => rfl
  | cons p m ih => simp only [SMap.erase]; split <;> simp_all [SMap.get]; omega

theorem SMap.get_insert_other (h : j ≠ k) : (SMap.insert k v m).get d j = m.get d j := by
  induction m with
  | nil => simp [SMap.insert, SMap.get]; omega
  | cons p m ih =>
    simp only [SMap.insert]
    split
    · simp [SMap.get]; omega
    · simp [SMap.get, ih]

theorem SMap.get_insert_erase : (SMap.insert k v (SMap.erase k m)).get d k = v := by
  induction m with
  | nil => simp [SMap.erase, SMap.insert, SMap.get]
  | cons p m ih =>
    simp only [SMap.erase]
    split
    · exact ih
    · simp only [SMap.insert]
      split <;> simp_all [SMap.get]

/-- A key that is written reads the written value. -/
@[simp] theorem SMap.get_set_same [DecidableEq α] : (SMap.set d m k v).get d k = v := by
  simp only [SMap.set]
  split
  · simp_all [SMap.get_erase_same]
  · exact SMap.get_insert_erase

/-- Every other key reads as before. -/
theorem SMap.get_set_other [DecidableEq α] (h : j ≠ k) : (SMap.set d m k v).get d j = m.get d j := by
  simp only [SMap.set]
  split
  · exact SMap.get_erase_other h
  · rw [SMap.get_insert_other h, SMap.get_erase_other h]

theorem SMap.get_set [DecidableEq α] : (SMap.set d m k v).get d j = if j = k then v else m.get d j := by
  split
  · subst j; exact SMap.get_set_same
  · exact SMap.get_set_other ‹_›

/-! ### The canonical form -/

theorem SMap.wf_cons [DecidableEq α] {p : Nat × α} :
    SMap.wf d (p :: m) = true ↔ p.2 ≠ d p.1 ∧ (∀ q ∈ m, p.1 < q.1) ∧ SMap.wf d m = true := by
  obtain ⟨k, v⟩ := p
  simp [SMap.wf, and_assoc]

theorem SMap.mem_erase {p : Nat × α} (h : p ∈ SMap.erase k m) : p ∈ m ∧ p.1 ≠ k := by
  induction m with
  | nil => simp [SMap.erase] at h
  | cons q m ih =>
    simp only [SMap.erase] at h
    split at h
    · exact ⟨List.mem_cons_of_mem _ (ih h).1, (ih h).2⟩
    · rcases List.mem_cons.1 h with rfl | h
      · exact ⟨List.mem_cons_self, ‹_›⟩
      · exact ⟨List.mem_cons_of_mem _ (ih h).1, (ih h).2⟩

theorem SMap.mem_insert {p : Nat × α} (h : p ∈ SMap.insert k v m) : p = (k, v) ∨ p ∈ m := by
  induction m with
  | nil => simpa [SMap.insert] using h
  | cons q m ih =>
    simp only [SMap.insert] at h
    split at h
    · simpa using h
    · rcases List.mem_cons.1 h with rfl | h
      · exact .inr List.mem_cons_self
      · exact (ih h).imp_right (List.mem_cons_of_mem _)

theorem SMap.wf_erase [DecidableEq α] (h : SMap.wf d m = true) : SMap.wf d (SMap.erase k m) = true := by
  induction m with
  | nil => rfl
  | cons p m ih =>
    rw [SMap.wf_cons] at h
    simp only [SMap.erase]
    split
    · exact ih h.2.2
    · exact SMap.wf_cons.2 ⟨h.1, fun q hq => h.2.1 q (SMap.mem_erase hq).1, ih h.2.2⟩

theorem SMap.wf_insert [DecidableEq α] (h : SMap.wf d m = true) (hk : ∀ q ∈ m, q.1 ≠ k) (hv : v ≠ d k) :
    SMap.wf d (SMap.insert k v m) = true := by
  induction m with
  | nil => exact SMap.wf_cons.2 ⟨hv, by simp, rfl⟩
  | cons p m ih =>
    have h' := SMap.wf_cons.1 h
    simp only [SMap.insert]
    split
    · refine SMap.wf_cons.2 ⟨hv, fun q hq => ?_, h⟩
      rcases List.mem_cons.1 hq with rfl | hq
      · assumption
      · exact lt_trans ‹_› (h'.2.1 q hq)
    · refine SMap.wf_cons.2 ⟨h'.1, fun q hq => ?_, ih h'.2.2 fun q hq => hk q (List.mem_cons_of_mem _ hq)⟩
      rcases SMap.mem_insert hq with rfl | hq
      · have := hk p List.mem_cons_self; simp only; omega
      · exact h'.2.1 q hq

/-- A write keeps the canonical form. -/
theorem SMap.wf_set [DecidableEq α] (h : SMap.wf d m = true) : SMap.wf d (SMap.set d m k v) = true := by
  simp only [SMap.set]
  split
  · exact SMap.wf_erase h
  · exact SMap.wf_insert (SMap.wf_erase h) (fun q hq => (SMap.mem_erase hq).2) ‹_›

theorem SMap.wf_filter [DecidableEq α] {p : Nat × α → Bool} (h : SMap.wf d m = true) :
    SMap.wf d (m.filter p) = true := by
  induction m with
  | nil => rfl
  | cons q m ih =>
    have h' := SMap.wf_cons.1 h
    rw [List.filter_cons]
    split
    · exact SMap.wf_cons.2 ⟨h'.1, fun r hr => h'.2.1 r (List.mem_of_mem_filter hr), ih h'.2.2⟩
    · exact ih h'.2.2

/-- In a canonical table the value at a listed key is the listed one. -/
theorem SMap.get_of_mem [DecidableEq α] (h : SMap.wf d m = true) {p : Nat × α} (hp : p ∈ m) : m.get d p.1 = p.2 := by
  induction m with
  | nil => simp at hp
  | cons q m ih =>
    have h' := SMap.wf_cons.1 h
    rcases List.mem_cons.1 hp with rfl | hp
    · simp [SMap.get]
    · have := h'.2.1 p hp
      simp only [SMap.get]
      rw [if_neg (by omega), ih h'.2.2 hp]

/-- A key below every listed one reads its default. -/
theorem SMap.get_of_lt (h : ∀ q ∈ m, k < q.1) : m.get d k = d k := by
  induction m with
  | nil => rfl
  | cons q m ih =>
    have := h q List.mem_cons_self
    simp only [SMap.get]
    rw [if_neg (by omega), ih fun r hr => h r (List.mem_cons_of_mem _ hr)]

theorem SMap.get_cons {p : Nat × α} : SMap.get d (p :: m) k = if p.1 = k then p.2 else m.get d k := rfl

/-- Canonical tables with equal reads are equal. -/
theorem SMap.ext [DecidableEq α] {n : SMap α} (hm : SMap.wf d m = true) (hn : SMap.wf d n = true)
    (h : ∀ k, m.get d k = n.get d k) : m = n := by
  induction m generalizing n with
  | nil =>
    cases n with
    | nil => rfl
    | cons q n =>
      have h' := SMap.wf_cons.1 hn
      exact absurd (by simpa [SMap.get] using (h q.1).symm) h'.1
  | cons p m ih =>
    have hp := SMap.wf_cons.1 hm
    cases n with
    | nil => exact absurd (by simpa [SMap.get] using h p.1) hp.1
    | cons q n =>
      have hq := SMap.wf_cons.1 hn
      have hpv := h p.1
      have hqv := h q.1
      rw [SMap.get_cons, SMap.get_cons, if_pos rfl] at hpv hqv
      rcases lt_trichotomy p.1 q.1 with hlt | heq | hlt
      · rw [if_neg (by omega), SMap.get_of_lt fun r hr => lt_trans hlt (hq.2.1 r hr)] at hpv
        exact absurd hpv hp.1
      · rw [if_pos heq.symm] at hpv
        have hpq : p = q := Prod.ext heq hpv
        refine congrArg₂ List.cons hpq (ih hp.2.2 hq.2.2 fun k => ?_)
        by_cases hk : k = p.1
        · subst hk
          rw [SMap.get_of_lt hp.2.1, SMap.get_of_lt (heq ▸ hq.2.1)]
        · have hh := h k
          rw [SMap.get_cons, SMap.get_cons, if_neg (Ne.symm hk), if_neg (by omega)] at hh
          exact hh
      · rw [if_neg (by omega), SMap.get_of_lt fun r hr => lt_trans hlt (hp.2.1 r hr)] at hqv
        exact absurd hqv.symm hq.1

/-- Writing what a canonical table reads changes nothing. -/
theorem SMap.set_get [DecidableEq α] (h : SMap.wf d m = true) : SMap.set d m k (m.get d k) = m :=
  SMap.ext (SMap.wf_set h) h fun j => by rw [SMap.get_set]; split <;> simp_all

end Sys2Proof.Machine
end

