-- ==== Sys2Proof/Laws/State.lean ====
section
/-! SUPPORT. Each named update of the block: what it does to each field, one lemma a field. -/
namespace Sys2Proof.Machine

section
variable (c : Chip) (g : ModeCtl → ModeCtl)
@[simp] theorem Chip.modCtl_regs : (c.modCtl g).regs = c.regs := rfl
@[simp] theorem Chip.modCtl_shadow : (c.modCtl g).shadow = c.shadow := rfl
@[simp] theorem Chip.modCtl_ctl : (c.modCtl g).ctl = g c.ctl := rfl
@[simp] theorem Chip.modCtl_su : (c.modCtl g).su = c.su := rfl
@[simp] theorem Chip.modCtl_vlt : (c.modCtl g).vlt = c.vlt := rfl
@[simp] theorem Chip.modCtl_sax : (c.modCtl g).sax = c.sax := rfl
@[simp] theorem Chip.modCtl_eng : (c.modCtl g).eng = c.eng := rfl
@[simp] theorem Chip.modCtl_ord : (c.modCtl g).ord = c.ord := rfl
@[simp] theorem Chip.modCtl_evr : (c.modCtl g).evr = c.evr := rfl
@[simp] theorem Chip.modCtl_cnt : (c.modCtl g).cnt = c.cnt := rfl
@[simp] theorem Chip.modCtl_hif : (c.modCtl g).hif = c.hif := rfl
@[simp] theorem Chip.modCtl_mem : (c.modCtl g).mem = c.mem := rfl
@[simp] theorem Chip.modCtl_ent : (c.modCtl g).ent = c.ent := rfl
@[simp] theorem Chip.modCtl_tim : (c.modCtl g).tim = c.tim := rfl
@[simp] theorem Chip.modCtl_pan : (c.modCtl g).pan = c.pan := rfl
@[simp] theorem Chip.modCtl_path : (c.modCtl g).path = c.path := rfl
@[simp] theorem Chip.modCtl_slu : (c.modCtl g).slu = c.slu := rfl
@[simp] theorem Chip.modCtl_fwd : (c.modCtl g).fwd = c.fwd := rfl
@[simp] theorem Chip.modCtl_buf : (c.modCtl g).buf = c.buf := rfl
@[simp] theorem Chip.modCtl_prs : (c.modCtl g).prs = c.prs := rfl
@[simp] theorem Chip.modCtl_flt : (c.modCtl g).flt = c.flt := rfl
@[simp] theorem Chip.modCtl_pnl : (c.modCtl g).pnl = c.pnl := rfl
@[simp] theorem Chip.modCtl_srd : (c.modCtl g).srd = c.srd := rfl
@[simp] theorem Chip.modCtl_free : (c.modCtl g).free = c.free := rfl
@[simp] theorem Chip.modCtl_out : (c.modCtl g).out = c.out := rfl
end

section
variable (c : Chip) (g : StartUp → StartUp)
@[simp] theorem Chip.modSu_regs : (c.modSu g).regs = c.regs := rfl
@[simp] theorem Chip.modSu_shadow : (c.modSu g).shadow = c.shadow := rfl
@[simp] theorem Chip.modSu_ctl : (c.modSu g).ctl = c.ctl := rfl
@[simp] theorem Chip.modSu_su : (c.modSu g).su = g c.su := rfl
@[simp] theorem Chip.modSu_vlt : (c.modSu g).vlt = c.vlt := rfl
@[simp] theorem Chip.modSu_sax : (c.modSu g).sax = c.sax := rfl
@[simp] theorem Chip.modSu_eng : (c.modSu g).eng = c.eng := rfl
@[simp] theorem Chip.modSu_ord : (c.modSu g).ord = c.ord := rfl
@[simp] theorem Chip.modSu_evr : (c.modSu g).evr = c.evr := rfl
@[simp] theorem Chip.modSu_cnt : (c.modSu g).cnt = c.cnt := rfl
@[simp] theorem Chip.modSu_hif : (c.modSu g).hif = c.hif := rfl
@[simp] theorem Chip.modSu_mem : (c.modSu g).mem = c.mem := rfl
@[simp] theorem Chip.modSu_ent : (c.modSu g).ent = c.ent := rfl
@[simp] theorem Chip.modSu_tim : (c.modSu g).tim = c.tim := rfl
@[simp] theorem Chip.modSu_pan : (c.modSu g).pan = c.pan := rfl
@[simp] theorem Chip.modSu_path : (c.modSu g).path = c.path := rfl
@[simp] theorem Chip.modSu_slu : (c.modSu g).slu = c.slu := rfl
@[simp] theorem Chip.modSu_fwd : (c.modSu g).fwd = c.fwd := rfl
@[simp] theorem Chip.modSu_buf : (c.modSu g).buf = c.buf := rfl
@[simp] theorem Chip.modSu_prs : (c.modSu g).prs = c.prs := rfl
@[simp] theorem Chip.modSu_flt : (c.modSu g).flt = c.flt := rfl
@[simp] theorem Chip.modSu_pnl : (c.modSu g).pnl = c.pnl := rfl
@[simp] theorem Chip.modSu_srd : (c.modSu g).srd = c.srd := rfl
@[simp] theorem Chip.modSu_free : (c.modSu g).free = c.free := rfl
@[simp] theorem Chip.modSu_out : (c.modSu g).out = c.out := rfl
end

section
variable (c : Chip) (g : Vault → Vault)
@[simp] theorem Chip.modVlt_regs : (c.modVlt g).regs = c.regs := rfl
@[simp] theorem Chip.modVlt_shadow : (c.modVlt g).shadow = c.shadow := rfl
@[simp] theorem Chip.modVlt_ctl : (c.modVlt g).ctl = c.ctl := rfl
@[simp] theorem Chip.modVlt_su : (c.modVlt g).su = c.su := rfl
@[simp] theorem Chip.modVlt_vlt : (c.modVlt g).vlt = g c.vlt := rfl
@[simp] theorem Chip.modVlt_sax : (c.modVlt g).sax = c.sax := rfl
@[simp] theorem Chip.modVlt_eng : (c.modVlt g).eng = c.eng := rfl
@[simp] theorem Chip.modVlt_ord : (c.modVlt g).ord = c.ord := rfl
@[simp] theorem Chip.modVlt_evr : (c.modVlt g).evr = c.evr := rfl
@[simp] theorem Chip.modVlt_cnt : (c.modVlt g).cnt = c.cnt := rfl
@[simp] theorem Chip.modVlt_hif : (c.modVlt g).hif = c.hif := rfl
@[simp] theorem Chip.modVlt_mem : (c.modVlt g).mem = c.mem := rfl
@[simp] theorem Chip.modVlt_ent : (c.modVlt g).ent = c.ent := rfl
@[simp] theorem Chip.modVlt_tim : (c.modVlt g).tim = c.tim := rfl
@[simp] theorem Chip.modVlt_pan : (c.modVlt g).pan = c.pan := rfl
@[simp] theorem Chip.modVlt_path : (c.modVlt g).path = c.path := rfl
@[simp] theorem Chip.modVlt_slu : (c.modVlt g).slu = c.slu := rfl
@[simp] theorem Chip.modVlt_fwd : (c.modVlt g).fwd = c.fwd := rfl
@[simp] theorem Chip.modVlt_buf : (c.modVlt g).buf = c.buf := rfl
@[simp] theorem Chip.modVlt_prs : (c.modVlt g).prs = c.prs := rfl
@[simp] theorem Chip.modVlt_flt : (c.modVlt g).flt = c.flt := rfl
@[simp] theorem Chip.modVlt_pnl : (c.modVlt g).pnl = c.pnl := rfl
@[simp] theorem Chip.modVlt_srd : (c.modVlt g).srd = c.srd := rfl
@[simp] theorem Chip.modVlt_free : (c.modVlt g).free = c.free := rfl
@[simp] theorem Chip.modVlt_out : (c.modVlt g).out = c.out := rfl
end

section
variable (c : Chip) (g : Assoc → Assoc)
@[simp] theorem Chip.modSax_regs : (c.modSax g).regs = c.regs := rfl
@[simp] theorem Chip.modSax_shadow : (c.modSax g).shadow = c.shadow := rfl
@[simp] theorem Chip.modSax_ctl : (c.modSax g).ctl = c.ctl := rfl
@[simp] theorem Chip.modSax_su : (c.modSax g).su = c.su := rfl
@[simp] theorem Chip.modSax_vlt : (c.modSax g).vlt = c.vlt := rfl
@[simp] theorem Chip.modSax_sax : (c.modSax g).sax = g c.sax := rfl
@[simp] theorem Chip.modSax_eng : (c.modSax g).eng = c.eng := rfl
@[simp] theorem Chip.modSax_ord : (c.modSax g).ord = c.ord := rfl
@[simp] theorem Chip.modSax_evr : (c.modSax g).evr = c.evr := rfl
@[simp] theorem Chip.modSax_cnt : (c.modSax g).cnt = c.cnt := rfl
@[simp] theorem Chip.modSax_hif : (c.modSax g).hif = c.hif := rfl
@[simp] theorem Chip.modSax_mem : (c.modSax g).mem = c.mem := rfl
@[simp] theorem Chip.modSax_ent : (c.modSax g).ent = c.ent := rfl
@[simp] theorem Chip.modSax_tim : (c.modSax g).tim = c.tim := rfl
@[simp] theorem Chip.modSax_pan : (c.modSax g).pan = c.pan := rfl
@[simp] theorem Chip.modSax_path : (c.modSax g).path = c.path := rfl
@[simp] theorem Chip.modSax_slu : (c.modSax g).slu = c.slu := rfl
@[simp] theorem Chip.modSax_fwd : (c.modSax g).fwd = c.fwd := rfl
@[simp] theorem Chip.modSax_buf : (c.modSax g).buf = c.buf := rfl
@[simp] theorem Chip.modSax_prs : (c.modSax g).prs = c.prs := rfl
@[simp] theorem Chip.modSax_flt : (c.modSax g).flt = c.flt := rfl
@[simp] theorem Chip.modSax_pnl : (c.modSax g).pnl = c.pnl := rfl
@[simp] theorem Chip.modSax_srd : (c.modSax g).srd = c.srd := rfl
@[simp] theorem Chip.modSax_free : (c.modSax g).free = c.free := rfl
@[simp] theorem Chip.modSax_out : (c.modSax g).out = c.out := rfl
end

section
variable (c : Chip) (g : Engines → Engines)
@[simp] theorem Chip.modEng_regs : (c.modEng g).regs = c.regs := rfl
@[simp] theorem Chip.modEng_shadow : (c.modEng g).shadow = c.shadow := rfl
@[simp] theorem Chip.modEng_ctl : (c.modEng g).ctl = c.ctl := rfl
@[simp] theorem Chip.modEng_su : (c.modEng g).su = c.su := rfl
@[simp] theorem Chip.modEng_vlt : (c.modEng g).vlt = c.vlt := rfl
@[simp] theorem Chip.modEng_sax : (c.modEng g).sax = c.sax := rfl
@[simp] theorem Chip.modEng_eng : (c.modEng g).eng = g c.eng := rfl
@[simp] theorem Chip.modEng_ord : (c.modEng g).ord = c.ord := rfl
@[simp] theorem Chip.modEng_evr : (c.modEng g).evr = c.evr := rfl
@[simp] theorem Chip.modEng_cnt : (c.modEng g).cnt = c.cnt := rfl
@[simp] theorem Chip.modEng_hif : (c.modEng g).hif = c.hif := rfl
@[simp] theorem Chip.modEng_mem : (c.modEng g).mem = c.mem := rfl
@[simp] theorem Chip.modEng_ent : (c.modEng g).ent = c.ent := rfl
@[simp] theorem Chip.modEng_tim : (c.modEng g).tim = c.tim := rfl
@[simp] theorem Chip.modEng_pan : (c.modEng g).pan = c.pan := rfl
@[simp] theorem Chip.modEng_path : (c.modEng g).path = c.path := rfl
@[simp] theorem Chip.modEng_slu : (c.modEng g).slu = c.slu := rfl
@[simp] theorem Chip.modEng_fwd : (c.modEng g).fwd = c.fwd := rfl
@[simp] theorem Chip.modEng_buf : (c.modEng g).buf = c.buf := rfl
@[simp] theorem Chip.modEng_prs : (c.modEng g).prs = c.prs := rfl
@[simp] theorem Chip.modEng_flt : (c.modEng g).flt = c.flt := rfl
@[simp] theorem Chip.modEng_pnl : (c.modEng g).pnl = c.pnl := rfl
@[simp] theorem Chip.modEng_srd : (c.modEng g).srd = c.srd := rfl
@[simp] theorem Chip.modEng_free : (c.modEng g).free = c.free := rfl
@[simp] theorem Chip.modEng_out : (c.modEng g).out = c.out := rfl
end

section
variable (c : Chip) (g : OrdEng → OrdEng)
@[simp] theorem Chip.modOrd_regs : (c.modOrd g).regs = c.regs := rfl
@[simp] theorem Chip.modOrd_shadow : (c.modOrd g).shadow = c.shadow := rfl
@[simp] theorem Chip.modOrd_ctl : (c.modOrd g).ctl = c.ctl := rfl
@[simp] theorem Chip.modOrd_su : (c.modOrd g).su = c.su := rfl
@[simp] theorem Chip.modOrd_vlt : (c.modOrd g).vlt = c.vlt := rfl
@[simp] theorem Chip.modOrd_sax : (c.modOrd g).sax = c.sax := rfl
@[simp] theorem Chip.modOrd_eng : (c.modOrd g).eng = c.eng := rfl
@[simp] theorem Chip.modOrd_ord : (c.modOrd g).ord = g c.ord := rfl
@[simp] theorem Chip.modOrd_evr : (c.modOrd g).evr = c.evr := rfl
@[simp] theorem Chip.modOrd_cnt : (c.modOrd g).cnt = c.cnt := rfl
@[simp] theorem Chip.modOrd_hif : (c.modOrd g).hif = c.hif := rfl
@[simp] theorem Chip.modOrd_mem : (c.modOrd g).mem = c.mem := rfl
@[simp] theorem Chip.modOrd_ent : (c.modOrd g).ent = c.ent := rfl
@[simp] theorem Chip.modOrd_tim : (c.modOrd g).tim = c.tim := rfl
@[simp] theorem Chip.modOrd_pan : (c.modOrd g).pan = c.pan := rfl
@[simp] theorem Chip.modOrd_path : (c.modOrd g).path = c.path := rfl
@[simp] theorem Chip.modOrd_slu : (c.modOrd g).slu = c.slu := rfl
@[simp] theorem Chip.modOrd_fwd : (c.modOrd g).fwd = c.fwd := rfl
@[simp] theorem Chip.modOrd_buf : (c.modOrd g).buf = c.buf := rfl
@[simp] theorem Chip.modOrd_prs : (c.modOrd g).prs = c.prs := rfl
@[simp] theorem Chip.modOrd_flt : (c.modOrd g).flt = c.flt := rfl
@[simp] theorem Chip.modOrd_pnl : (c.modOrd g).pnl = c.pnl := rfl
@[simp] theorem Chip.modOrd_srd : (c.modOrd g).srd = c.srd := rfl
@[simp] theorem Chip.modOrd_free : (c.modOrd g).free = c.free := rfl
@[simp] theorem Chip.modOrd_out : (c.modOrd g).out = c.out := rfl
end

section
variable (c : Chip) (g : Recorder → Recorder)
@[simp] theorem Chip.modEvr_regs : (c.modEvr g).regs = c.regs := rfl
@[simp] theorem Chip.modEvr_shadow : (c.modEvr g).shadow = c.shadow := rfl
@[simp] theorem Chip.modEvr_ctl : (c.modEvr g).ctl = c.ctl := rfl
@[simp] theorem Chip.modEvr_su : (c.modEvr g).su = c.su := rfl
@[simp] theorem Chip.modEvr_vlt : (c.modEvr g).vlt = c.vlt := rfl
@[simp] theorem Chip.modEvr_sax : (c.modEvr g).sax = c.sax := rfl
@[simp] theorem Chip.modEvr_eng : (c.modEvr g).eng = c.eng := rfl
@[simp] theorem Chip.modEvr_ord : (c.modEvr g).ord = c.ord := rfl
@[simp] theorem Chip.modEvr_evr : (c.modEvr g).evr = g c.evr := rfl
@[simp] theorem Chip.modEvr_cnt : (c.modEvr g).cnt = c.cnt := rfl
@[simp] theorem Chip.modEvr_hif : (c.modEvr g).hif = c.hif := rfl
@[simp] theorem Chip.modEvr_mem : (c.modEvr g).mem = c.mem := rfl
@[simp] theorem Chip.modEvr_ent : (c.modEvr g).ent = c.ent := rfl
@[simp] theorem Chip.modEvr_tim : (c.modEvr g).tim = c.tim := rfl
@[simp] theorem Chip.modEvr_pan : (c.modEvr g).pan = c.pan := rfl
@[simp] theorem Chip.modEvr_path : (c.modEvr g).path = c.path := rfl
@[simp] theorem Chip.modEvr_slu : (c.modEvr g).slu = c.slu := rfl
@[simp] theorem Chip.modEvr_fwd : (c.modEvr g).fwd = c.fwd := rfl
@[simp] theorem Chip.modEvr_buf : (c.modEvr g).buf = c.buf := rfl
@[simp] theorem Chip.modEvr_prs : (c.modEvr g).prs = c.prs := rfl
@[simp] theorem Chip.modEvr_flt : (c.modEvr g).flt = c.flt := rfl
@[simp] theorem Chip.modEvr_pnl : (c.modEvr g).pnl = c.pnl := rfl
@[simp] theorem Chip.modEvr_srd : (c.modEvr g).srd = c.srd := rfl
@[simp] theorem Chip.modEvr_free : (c.modEvr g).free = c.free := rfl
@[simp] theorem Chip.modEvr_out : (c.modEvr g).out = c.out := rfl
end

section
variable (c : Chip) (g : HostIf → HostIf)
@[simp] theorem Chip.modHif_regs : (c.modHif g).regs = c.regs := rfl
@[simp] theorem Chip.modHif_shadow : (c.modHif g).shadow = c.shadow := rfl
@[simp] theorem Chip.modHif_ctl : (c.modHif g).ctl = c.ctl := rfl
@[simp] theorem Chip.modHif_su : (c.modHif g).su = c.su := rfl
@[simp] theorem Chip.modHif_vlt : (c.modHif g).vlt = c.vlt := rfl
@[simp] theorem Chip.modHif_sax : (c.modHif g).sax = c.sax := rfl
@[simp] theorem Chip.modHif_eng : (c.modHif g).eng = c.eng := rfl
@[simp] theorem Chip.modHif_ord : (c.modHif g).ord = c.ord := rfl
@[simp] theorem Chip.modHif_evr : (c.modHif g).evr = c.evr := rfl
@[simp] theorem Chip.modHif_cnt : (c.modHif g).cnt = c.cnt := rfl
@[simp] theorem Chip.modHif_hif : (c.modHif g).hif = g c.hif := rfl
@[simp] theorem Chip.modHif_mem : (c.modHif g).mem = c.mem := rfl
@[simp] theorem Chip.modHif_ent : (c.modHif g).ent = c.ent := rfl
@[simp] theorem Chip.modHif_tim : (c.modHif g).tim = c.tim := rfl
@[simp] theorem Chip.modHif_pan : (c.modHif g).pan = c.pan := rfl
@[simp] theorem Chip.modHif_path : (c.modHif g).path = c.path := rfl
@[simp] theorem Chip.modHif_slu : (c.modHif g).slu = c.slu := rfl
@[simp] theorem Chip.modHif_fwd : (c.modHif g).fwd = c.fwd := rfl
@[simp] theorem Chip.modHif_buf : (c.modHif g).buf = c.buf := rfl
@[simp] theorem Chip.modHif_prs : (c.modHif g).prs = c.prs := rfl
@[simp] theorem Chip.modHif_flt : (c.modHif g).flt = c.flt := rfl
@[simp] theorem Chip.modHif_pnl : (c.modHif g).pnl = c.pnl := rfl
@[simp] theorem Chip.modHif_srd : (c.modHif g).srd = c.srd := rfl
@[simp] theorem Chip.modHif_free : (c.modHif g).free = c.free := rfl
@[simp] theorem Chip.modHif_out : (c.modHif g).out = c.out := rfl
end

section
variable (c : Chip) (g : Entropy → Entropy)
@[simp] theorem Chip.modEnt_regs : (c.modEnt g).regs = c.regs := rfl
@[simp] theorem Chip.modEnt_shadow : (c.modEnt g).shadow = c.shadow := rfl
@[simp] theorem Chip.modEnt_ctl : (c.modEnt g).ctl = c.ctl := rfl
@[simp] theorem Chip.modEnt_su : (c.modEnt g).su = c.su := rfl
@[simp] theorem Chip.modEnt_vlt : (c.modEnt g).vlt = c.vlt := rfl
@[simp] theorem Chip.modEnt_sax : (c.modEnt g).sax = c.sax := rfl
@[simp] theorem Chip.modEnt_eng : (c.modEnt g).eng = c.eng := rfl
@[simp] theorem Chip.modEnt_ord : (c.modEnt g).ord = c.ord := rfl
@[simp] theorem Chip.modEnt_evr : (c.modEnt g).evr = c.evr := rfl
@[simp] theorem Chip.modEnt_cnt : (c.modEnt g).cnt = c.cnt := rfl
@[simp] theorem Chip.modEnt_hif : (c.modEnt g).hif = c.hif := rfl
@[simp] theorem Chip.modEnt_mem : (c.modEnt g).mem = c.mem := rfl
@[simp] theorem Chip.modEnt_ent : (c.modEnt g).ent = g c.ent := rfl
@[simp] theorem Chip.modEnt_tim : (c.modEnt g).tim = c.tim := rfl
@[simp] theorem Chip.modEnt_pan : (c.modEnt g).pan = c.pan := rfl
@[simp] theorem Chip.modEnt_path : (c.modEnt g).path = c.path := rfl
@[simp] theorem Chip.modEnt_slu : (c.modEnt g).slu = c.slu := rfl
@[simp] theorem Chip.modEnt_fwd : (c.modEnt g).fwd = c.fwd := rfl
@[simp] theorem Chip.modEnt_buf : (c.modEnt g).buf = c.buf := rfl
@[simp] theorem Chip.modEnt_prs : (c.modEnt g).prs = c.prs := rfl
@[simp] theorem Chip.modEnt_flt : (c.modEnt g).flt = c.flt := rfl
@[simp] theorem Chip.modEnt_pnl : (c.modEnt g).pnl = c.pnl := rfl
@[simp] theorem Chip.modEnt_srd : (c.modEnt g).srd = c.srd := rfl
@[simp] theorem Chip.modEnt_free : (c.modEnt g).free = c.free := rfl
@[simp] theorem Chip.modEnt_out : (c.modEnt g).out = c.out := rfl
end

section
variable (c : Chip) (g : Tim → Tim)
@[simp] theorem Chip.modTim_regs : (c.modTim g).regs = c.regs := rfl
@[simp] theorem Chip.modTim_shadow : (c.modTim g).shadow = c.shadow := rfl
@[simp] theorem Chip.modTim_ctl : (c.modTim g).ctl = c.ctl := rfl
@[simp] theorem Chip.modTim_su : (c.modTim g).su = c.su := rfl
@[simp] theorem Chip.modTim_vlt : (c.modTim g).vlt = c.vlt := rfl
@[simp] theorem Chip.modTim_sax : (c.modTim g).sax = c.sax := rfl
@[simp] theorem Chip.modTim_eng : (c.modTim g).eng = c.eng := rfl
@[simp] theorem Chip.modTim_ord : (c.modTim g).ord = c.ord := rfl
@[simp] theorem Chip.modTim_evr : (c.modTim g).evr = c.evr := rfl
@[simp] theorem Chip.modTim_cnt : (c.modTim g).cnt = c.cnt := rfl
@[simp] theorem Chip.modTim_hif : (c.modTim g).hif = c.hif := rfl
@[simp] theorem Chip.modTim_mem : (c.modTim g).mem = c.mem := rfl
@[simp] theorem Chip.modTim_ent : (c.modTim g).ent = c.ent := rfl
@[simp] theorem Chip.modTim_tim : (c.modTim g).tim = g c.tim := rfl
@[simp] theorem Chip.modTim_pan : (c.modTim g).pan = c.pan := rfl
@[simp] theorem Chip.modTim_path : (c.modTim g).path = c.path := rfl
@[simp] theorem Chip.modTim_slu : (c.modTim g).slu = c.slu := rfl
@[simp] theorem Chip.modTim_fwd : (c.modTim g).fwd = c.fwd := rfl
@[simp] theorem Chip.modTim_buf : (c.modTim g).buf = c.buf := rfl
@[simp] theorem Chip.modTim_prs : (c.modTim g).prs = c.prs := rfl
@[simp] theorem Chip.modTim_flt : (c.modTim g).flt = c.flt := rfl
@[simp] theorem Chip.modTim_pnl : (c.modTim g).pnl = c.pnl := rfl
@[simp] theorem Chip.modTim_srd : (c.modTim g).srd = c.srd := rfl
@[simp] theorem Chip.modTim_free : (c.modTim g).free = c.free := rfl
@[simp] theorem Chip.modTim_out : (c.modTim g).out = c.out := rfl
end

section
variable (c : Chip) (g : Pans → Pans)
@[simp] theorem Chip.modPan_regs : (c.modPan g).regs = c.regs := rfl
@[simp] theorem Chip.modPan_shadow : (c.modPan g).shadow = c.shadow := rfl
@[simp] theorem Chip.modPan_ctl : (c.modPan g).ctl = c.ctl := rfl
@[simp] theorem Chip.modPan_su : (c.modPan g).su = c.su := rfl
@[simp] theorem Chip.modPan_vlt : (c.modPan g).vlt = c.vlt := rfl
@[simp] theorem Chip.modPan_sax : (c.modPan g).sax = c.sax := rfl
@[simp] theorem Chip.modPan_eng : (c.modPan g).eng = c.eng := rfl
@[simp] theorem Chip.modPan_ord : (c.modPan g).ord = c.ord := rfl
@[simp] theorem Chip.modPan_evr : (c.modPan g).evr = c.evr := rfl
@[simp] theorem Chip.modPan_cnt : (c.modPan g).cnt = c.cnt := rfl
@[simp] theorem Chip.modPan_hif : (c.modPan g).hif = c.hif := rfl
@[simp] theorem Chip.modPan_mem : (c.modPan g).mem = c.mem := rfl
@[simp] theorem Chip.modPan_ent : (c.modPan g).ent = c.ent := rfl
@[simp] theorem Chip.modPan_tim : (c.modPan g).tim = c.tim := rfl
@[simp] theorem Chip.modPan_pan : (c.modPan g).pan = g c.pan := rfl
@[simp] theorem Chip.modPan_path : (c.modPan g).path = c.path := rfl
@[simp] theorem Chip.modPan_slu : (c.modPan g).slu = c.slu := rfl
@[simp] theorem Chip.modPan_fwd : (c.modPan g).fwd = c.fwd := rfl
@[simp] theorem Chip.modPan_buf : (c.modPan g).buf = c.buf := rfl
@[simp] theorem Chip.modPan_prs : (c.modPan g).prs = c.prs := rfl
@[simp] theorem Chip.modPan_flt : (c.modPan g).flt = c.flt := rfl
@[simp] theorem Chip.modPan_pnl : (c.modPan g).pnl = c.pnl := rfl
@[simp] theorem Chip.modPan_srd : (c.modPan g).srd = c.srd := rfl
@[simp] theorem Chip.modPan_free : (c.modPan g).free = c.free := rfl
@[simp] theorem Chip.modPan_out : (c.modPan g).out = c.out := rfl
end

section
variable (c : Chip) (g : Paths → Paths)
@[simp] theorem Chip.modPath_regs : (c.modPath g).regs = c.regs := rfl
@[simp] theorem Chip.modPath_shadow : (c.modPath g).shadow = c.shadow := rfl
@[simp] theorem Chip.modPath_ctl : (c.modPath g).ctl = c.ctl := rfl
@[simp] theorem Chip.modPath_su : (c.modPath g).su = c.su := rfl
@[simp] theorem Chip.modPath_vlt : (c.modPath g).vlt = c.vlt := rfl
@[simp] theorem Chip.modPath_sax : (c.modPath g).sax = c.sax := rfl
@[simp] theorem Chip.modPath_eng : (c.modPath g).eng = c.eng := rfl
@[simp] theorem Chip.modPath_ord : (c.modPath g).ord = c.ord := rfl
@[simp] theorem Chip.modPath_evr : (c.modPath g).evr = c.evr := rfl
@[simp] theorem Chip.modPath_cnt : (c.modPath g).cnt = c.cnt := rfl
@[simp] theorem Chip.modPath_hif : (c.modPath g).hif = c.hif := rfl
@[simp] theorem Chip.modPath_mem : (c.modPath g).mem = c.mem := rfl
@[simp] theorem Chip.modPath_ent : (c.modPath g).ent = c.ent := rfl
@[simp] theorem Chip.modPath_tim : (c.modPath g).tim = c.tim := rfl
@[simp] theorem Chip.modPath_pan : (c.modPath g).pan = c.pan := rfl
@[simp] theorem Chip.modPath_path : (c.modPath g).path = g c.path := rfl
@[simp] theorem Chip.modPath_slu : (c.modPath g).slu = c.slu := rfl
@[simp] theorem Chip.modPath_fwd : (c.modPath g).fwd = c.fwd := rfl
@[simp] theorem Chip.modPath_buf : (c.modPath g).buf = c.buf := rfl
@[simp] theorem Chip.modPath_prs : (c.modPath g).prs = c.prs := rfl
@[simp] theorem Chip.modPath_flt : (c.modPath g).flt = c.flt := rfl
@[simp] theorem Chip.modPath_pnl : (c.modPath g).pnl = c.pnl := rfl
@[simp] theorem Chip.modPath_srd : (c.modPath g).srd = c.srd := rfl
@[simp] theorem Chip.modPath_free : (c.modPath g).free = c.free := rfl
@[simp] theorem Chip.modPath_out : (c.modPath g).out = c.out := rfl
end

section
variable (c : Chip) (g : Sluice → Sluice)
@[simp] theorem Chip.modSlu_regs : (c.modSlu g).regs = c.regs := rfl
@[simp] theorem Chip.modSlu_shadow : (c.modSlu g).shadow = c.shadow := rfl
@[simp] theorem Chip.modSlu_ctl : (c.modSlu g).ctl = c.ctl := rfl
@[simp] theorem Chip.modSlu_su : (c.modSlu g).su = c.su := rfl
@[simp] theorem Chip.modSlu_vlt : (c.modSlu g).vlt = c.vlt := rfl
@[simp] theorem Chip.modSlu_sax : (c.modSlu g).sax = c.sax := rfl
@[simp] theorem Chip.modSlu_eng : (c.modSlu g).eng = c.eng := rfl
@[simp] theorem Chip.modSlu_ord : (c.modSlu g).ord = c.ord := rfl
@[simp] theorem Chip.modSlu_evr : (c.modSlu g).evr = c.evr := rfl
@[simp] theorem Chip.modSlu_cnt : (c.modSlu g).cnt = c.cnt := rfl
@[simp] theorem Chip.modSlu_hif : (c.modSlu g).hif = c.hif := rfl
@[simp] theorem Chip.modSlu_mem : (c.modSlu g).mem = c.mem := rfl
@[simp] theorem Chip.modSlu_ent : (c.modSlu g).ent = c.ent := rfl
@[simp] theorem Chip.modSlu_tim : (c.modSlu g).tim = c.tim := rfl
@[simp] theorem Chip.modSlu_pan : (c.modSlu g).pan = c.pan := rfl
@[simp] theorem Chip.modSlu_path : (c.modSlu g).path = c.path := rfl
@[simp] theorem Chip.modSlu_slu : (c.modSlu g).slu = g c.slu := rfl
@[simp] theorem Chip.modSlu_fwd : (c.modSlu g).fwd = c.fwd := rfl
@[simp] theorem Chip.modSlu_buf : (c.modSlu g).buf = c.buf := rfl
@[simp] theorem Chip.modSlu_prs : (c.modSlu g).prs = c.prs := rfl
@[simp] theorem Chip.modSlu_flt : (c.modSlu g).flt = c.flt := rfl
@[simp] theorem Chip.modSlu_pnl : (c.modSlu g).pnl = c.pnl := rfl
@[simp] theorem Chip.modSlu_srd : (c.modSlu g).srd = c.srd := rfl
@[simp] theorem Chip.modSlu_free : (c.modSlu g).free = c.free := rfl
@[simp] theorem Chip.modSlu_out : (c.modSlu g).out = c.out := rfl
end

section
variable (c : Chip) (g : Forwarding → Forwarding)
@[simp] theorem Chip.modFwd_regs : (c.modFwd g).regs = c.regs := rfl
@[simp] theorem Chip.modFwd_shadow : (c.modFwd g).shadow = c.shadow := rfl
@[simp] theorem Chip.modFwd_ctl : (c.modFwd g).ctl = c.ctl := rfl
@[simp] theorem Chip.modFwd_su : (c.modFwd g).su = c.su := rfl
@[simp] theorem Chip.modFwd_vlt : (c.modFwd g).vlt = c.vlt := rfl
@[simp] theorem Chip.modFwd_sax : (c.modFwd g).sax = c.sax := rfl
@[simp] theorem Chip.modFwd_eng : (c.modFwd g).eng = c.eng := rfl
@[simp] theorem Chip.modFwd_ord : (c.modFwd g).ord = c.ord := rfl
@[simp] theorem Chip.modFwd_evr : (c.modFwd g).evr = c.evr := rfl
@[simp] theorem Chip.modFwd_cnt : (c.modFwd g).cnt = c.cnt := rfl
@[simp] theorem Chip.modFwd_hif : (c.modFwd g).hif = c.hif := rfl
@[simp] theorem Chip.modFwd_mem : (c.modFwd g).mem = c.mem := rfl
@[simp] theorem Chip.modFwd_ent : (c.modFwd g).ent = c.ent := rfl
@[simp] theorem Chip.modFwd_tim : (c.modFwd g).tim = c.tim := rfl
@[simp] theorem Chip.modFwd_pan : (c.modFwd g).pan = c.pan := rfl
@[simp] theorem Chip.modFwd_path : (c.modFwd g).path = c.path := rfl
@[simp] theorem Chip.modFwd_slu : (c.modFwd g).slu = c.slu := rfl
@[simp] theorem Chip.modFwd_fwd : (c.modFwd g).fwd = g c.fwd := rfl
@[simp] theorem Chip.modFwd_buf : (c.modFwd g).buf = c.buf := rfl
@[simp] theorem Chip.modFwd_prs : (c.modFwd g).prs = c.prs := rfl
@[simp] theorem Chip.modFwd_flt : (c.modFwd g).flt = c.flt := rfl
@[simp] theorem Chip.modFwd_pnl : (c.modFwd g).pnl = c.pnl := rfl
@[simp] theorem Chip.modFwd_srd : (c.modFwd g).srd = c.srd := rfl
@[simp] theorem Chip.modFwd_free : (c.modFwd g).free = c.free := rfl
@[simp] theorem Chip.modFwd_out : (c.modFwd g).out = c.out := rfl
end

section
variable (c : Chip) (g : Buffer → Buffer)
@[simp] theorem Chip.modBuf_regs : (c.modBuf g).regs = c.regs := rfl
@[simp] theorem Chip.modBuf_shadow : (c.modBuf g).shadow = c.shadow := rfl
@[simp] theorem Chip.modBuf_ctl : (c.modBuf g).ctl = c.ctl := rfl
@[simp] theorem Chip.modBuf_su : (c.modBuf g).su = c.su := rfl
@[simp] theorem Chip.modBuf_vlt : (c.modBuf g).vlt = c.vlt := rfl
@[simp] theorem Chip.modBuf_sax : (c.modBuf g).sax = c.sax := rfl
@[simp] theorem Chip.modBuf_eng : (c.modBuf g).eng = c.eng := rfl
@[simp] theorem Chip.modBuf_ord : (c.modBuf g).ord = c.ord := rfl
@[simp] theorem Chip.modBuf_evr : (c.modBuf g).evr = c.evr := rfl
@[simp] theorem Chip.modBuf_cnt : (c.modBuf g).cnt = c.cnt := rfl
@[simp] theorem Chip.modBuf_hif : (c.modBuf g).hif = c.hif := rfl
@[simp] theorem Chip.modBuf_mem : (c.modBuf g).mem = c.mem := rfl
@[simp] theorem Chip.modBuf_ent : (c.modBuf g).ent = c.ent := rfl
@[simp] theorem Chip.modBuf_tim : (c.modBuf g).tim = c.tim := rfl
@[simp] theorem Chip.modBuf_pan : (c.modBuf g).pan = c.pan := rfl
@[simp] theorem Chip.modBuf_path : (c.modBuf g).path = c.path := rfl
@[simp] theorem Chip.modBuf_slu : (c.modBuf g).slu = c.slu := rfl
@[simp] theorem Chip.modBuf_fwd : (c.modBuf g).fwd = c.fwd := rfl
@[simp] theorem Chip.modBuf_buf : (c.modBuf g).buf = g c.buf := rfl
@[simp] theorem Chip.modBuf_prs : (c.modBuf g).prs = c.prs := rfl
@[simp] theorem Chip.modBuf_flt : (c.modBuf g).flt = c.flt := rfl
@[simp] theorem Chip.modBuf_pnl : (c.modBuf g).pnl = c.pnl := rfl
@[simp] theorem Chip.modBuf_srd : (c.modBuf g).srd = c.srd := rfl
@[simp] theorem Chip.modBuf_free : (c.modBuf g).free = c.free := rfl
@[simp] theorem Chip.modBuf_out : (c.modBuf g).out = c.out := rfl
end

section
variable (c : Chip) (g : PairStack → PairStack)
@[simp] theorem Chip.modPrs_regs : (c.modPrs g).regs = c.regs := rfl
@[simp] theorem Chip.modPrs_shadow : (c.modPrs g).shadow = c.shadow := rfl
@[simp] theorem Chip.modPrs_ctl : (c.modPrs g).ctl = c.ctl := rfl
@[simp] theorem Chip.modPrs_su : (c.modPrs g).su = c.su := rfl
@[simp] theorem Chip.modPrs_vlt : (c.modPrs g).vlt = c.vlt := rfl
@[simp] theorem Chip.modPrs_sax : (c.modPrs g).sax = c.sax := rfl
@[simp] theorem Chip.modPrs_eng : (c.modPrs g).eng = c.eng := rfl
@[simp] theorem Chip.modPrs_ord : (c.modPrs g).ord = c.ord := rfl
@[simp] theorem Chip.modPrs_evr : (c.modPrs g).evr = c.evr := rfl
@[simp] theorem Chip.modPrs_cnt : (c.modPrs g).cnt = c.cnt := rfl
@[simp] theorem Chip.modPrs_hif : (c.modPrs g).hif = c.hif := rfl
@[simp] theorem Chip.modPrs_mem : (c.modPrs g).mem = c.mem := rfl
@[simp] theorem Chip.modPrs_ent : (c.modPrs g).ent = c.ent := rfl
@[simp] theorem Chip.modPrs_tim : (c.modPrs g).tim = c.tim := rfl
@[simp] theorem Chip.modPrs_pan : (c.modPrs g).pan = c.pan := rfl
@[simp] theorem Chip.modPrs_path : (c.modPrs g).path = c.path := rfl
@[simp] theorem Chip.modPrs_slu : (c.modPrs g).slu = c.slu := rfl
@[simp] theorem Chip.modPrs_fwd : (c.modPrs g).fwd = c.fwd := rfl
@[simp] theorem Chip.modPrs_buf : (c.modPrs g).buf = c.buf := rfl
@[simp] theorem Chip.modPrs_prs : (c.modPrs g).prs = g c.prs := rfl
@[simp] theorem Chip.modPrs_flt : (c.modPrs g).flt = c.flt := rfl
@[simp] theorem Chip.modPrs_pnl : (c.modPrs g).pnl = c.pnl := rfl
@[simp] theorem Chip.modPrs_srd : (c.modPrs g).srd = c.srd := rfl
@[simp] theorem Chip.modPrs_free : (c.modPrs g).free = c.free := rfl
@[simp] theorem Chip.modPrs_out : (c.modPrs g).out = c.out := rfl
end

section
variable (c : Chip) (g : Faults → Faults)
@[simp] theorem Chip.modFlt_regs : (c.modFlt g).regs = c.regs := rfl
@[simp] theorem Chip.modFlt_shadow : (c.modFlt g).shadow = c.shadow := rfl
@[simp] theorem Chip.modFlt_ctl : (c.modFlt g).ctl = c.ctl := rfl
@[simp] theorem Chip.modFlt_su : (c.modFlt g).su = c.su := rfl
@[simp] theorem Chip.modFlt_vlt : (c.modFlt g).vlt = c.vlt := rfl
@[simp] theorem Chip.modFlt_sax : (c.modFlt g).sax = c.sax := rfl
@[simp] theorem Chip.modFlt_eng : (c.modFlt g).eng = c.eng := rfl
@[simp] theorem Chip.modFlt_ord : (c.modFlt g).ord = c.ord := rfl
@[simp] theorem Chip.modFlt_evr : (c.modFlt g).evr = c.evr := rfl
@[simp] theorem Chip.modFlt_cnt : (c.modFlt g).cnt = c.cnt := rfl
@[simp] theorem Chip.modFlt_hif : (c.modFlt g).hif = c.hif := rfl
@[simp] theorem Chip.modFlt_mem : (c.modFlt g).mem = c.mem := rfl
@[simp] theorem Chip.modFlt_ent : (c.modFlt g).ent = c.ent := rfl
@[simp] theorem Chip.modFlt_tim : (c.modFlt g).tim = c.tim := rfl
@[simp] theorem Chip.modFlt_pan : (c.modFlt g).pan = c.pan := rfl
@[simp] theorem Chip.modFlt_path : (c.modFlt g).path = c.path := rfl
@[simp] theorem Chip.modFlt_slu : (c.modFlt g).slu = c.slu := rfl
@[simp] theorem Chip.modFlt_fwd : (c.modFlt g).fwd = c.fwd := rfl
@[simp] theorem Chip.modFlt_buf : (c.modFlt g).buf = c.buf := rfl
@[simp] theorem Chip.modFlt_prs : (c.modFlt g).prs = c.prs := rfl
@[simp] theorem Chip.modFlt_flt : (c.modFlt g).flt = g c.flt := rfl
@[simp] theorem Chip.modFlt_pnl : (c.modFlt g).pnl = c.pnl := rfl
@[simp] theorem Chip.modFlt_srd : (c.modFlt g).srd = c.srd := rfl
@[simp] theorem Chip.modFlt_free : (c.modFlt g).free = c.free := rfl
@[simp] theorem Chip.modFlt_out : (c.modFlt g).out = c.out := rfl
end

section
variable (c : Chip) (g : Panel → Panel)
@[simp] theorem Chip.modPnl_regs : (c.modPnl g).regs = c.regs := rfl
@[simp] theorem Chip.modPnl_shadow : (c.modPnl g).shadow = c.shadow := rfl
@[simp] theorem Chip.modPnl_ctl : (c.modPnl g).ctl = c.ctl := rfl
@[simp] theorem Chip.modPnl_su : (c.modPnl g).su = c.su := rfl
@[simp] theorem Chip.modPnl_vlt : (c.modPnl g).vlt = c.vlt := rfl
@[simp] theorem Chip.modPnl_sax : (c.modPnl g).sax = c.sax := rfl
@[simp] theorem Chip.modPnl_eng : (c.modPnl g).eng = c.eng := rfl
@[simp] theorem Chip.modPnl_ord : (c.modPnl g).ord = c.ord := rfl
@[simp] theorem Chip.modPnl_evr : (c.modPnl g).evr = c.evr := rfl
@[simp] theorem Chip.modPnl_cnt : (c.modPnl g).cnt = c.cnt := rfl
@[simp] theorem Chip.modPnl_hif : (c.modPnl g).hif = c.hif := rfl
@[simp] theorem Chip.modPnl_mem : (c.modPnl g).mem = c.mem := rfl
@[simp] theorem Chip.modPnl_ent : (c.modPnl g).ent = c.ent := rfl
@[simp] theorem Chip.modPnl_tim : (c.modPnl g).tim = c.tim := rfl
@[simp] theorem Chip.modPnl_pan : (c.modPnl g).pan = c.pan := rfl
@[simp] theorem Chip.modPnl_path : (c.modPnl g).path = c.path := rfl
@[simp] theorem Chip.modPnl_slu : (c.modPnl g).slu = c.slu := rfl
@[simp] theorem Chip.modPnl_fwd : (c.modPnl g).fwd = c.fwd := rfl
@[simp] theorem Chip.modPnl_buf : (c.modPnl g).buf = c.buf := rfl
@[simp] theorem Chip.modPnl_prs : (c.modPnl g).prs = c.prs := rfl
@[simp] theorem Chip.modPnl_flt : (c.modPnl g).flt = c.flt := rfl
@[simp] theorem Chip.modPnl_pnl : (c.modPnl g).pnl = g c.pnl := rfl
@[simp] theorem Chip.modPnl_srd : (c.modPnl g).srd = c.srd := rfl
@[simp] theorem Chip.modPnl_free : (c.modPnl g).free = c.free := rfl
@[simp] theorem Chip.modPnl_out : (c.modPnl g).out = c.out := rfl
end

section
variable (c : Chip) (g : Lanes → Lanes)
@[simp] theorem Chip.modSrd_regs : (c.modSrd g).regs = c.regs := rfl
@[simp] theorem Chip.modSrd_shadow : (c.modSrd g).shadow = c.shadow := rfl
@[simp] theorem Chip.modSrd_ctl : (c.modSrd g).ctl = c.ctl := rfl
@[simp] theorem Chip.modSrd_su : (c.modSrd g).su = c.su := rfl
@[simp] theorem Chip.modSrd_vlt : (c.modSrd g).vlt = c.vlt := rfl
@[simp] theorem Chip.modSrd_sax : (c.modSrd g).sax = c.sax := rfl
@[simp] theorem Chip.modSrd_eng : (c.modSrd g).eng = c.eng := rfl
@[simp] theorem Chip.modSrd_ord : (c.modSrd g).ord = c.ord := rfl
@[simp] theorem Chip.modSrd_evr : (c.modSrd g).evr = c.evr := rfl
@[simp] theorem Chip.modSrd_cnt : (c.modSrd g).cnt = c.cnt := rfl
@[simp] theorem Chip.modSrd_hif : (c.modSrd g).hif = c.hif := rfl
@[simp] theorem Chip.modSrd_mem : (c.modSrd g).mem = c.mem := rfl
@[simp] theorem Chip.modSrd_ent : (c.modSrd g).ent = c.ent := rfl
@[simp] theorem Chip.modSrd_tim : (c.modSrd g).tim = c.tim := rfl
@[simp] theorem Chip.modSrd_pan : (c.modSrd g).pan = c.pan := rfl
@[simp] theorem Chip.modSrd_path : (c.modSrd g).path = c.path := rfl
@[simp] theorem Chip.modSrd_slu : (c.modSrd g).slu = c.slu := rfl
@[simp] theorem Chip.modSrd_fwd : (c.modSrd g).fwd = c.fwd := rfl
@[simp] theorem Chip.modSrd_buf : (c.modSrd g).buf = c.buf := rfl
@[simp] theorem Chip.modSrd_prs : (c.modSrd g).prs = c.prs := rfl
@[simp] theorem Chip.modSrd_flt : (c.modSrd g).flt = c.flt := rfl
@[simp] theorem Chip.modSrd_pnl : (c.modSrd g).pnl = c.pnl := rfl
@[simp] theorem Chip.modSrd_srd : (c.modSrd g).srd = g c.srd := rfl
@[simp] theorem Chip.modSrd_free : (c.modSrd g).free = c.free := rfl
@[simp] theorem Chip.modSrd_out : (c.modSrd g).out = c.out := rfl
end

section
variable (c : Chip) (f : Fld) (idx : List Nat) (v : Nat)
@[simp] theorem Chip.setF_regs : (c.setF f idx v).regs = SMap.set regReset c.regs (f.key idx) (BitVec.ofNat 32 (v % 2 ^ f.w)) := rfl
@[simp] theorem Chip.setF_shadow : (c.setF f idx v).shadow = c.shadow := rfl
@[simp] theorem Chip.setF_ctl : (c.setF f idx v).ctl = c.ctl := rfl
@[simp] theorem Chip.setF_su : (c.setF f idx v).su = c.su := rfl
@[simp] theorem Chip.setF_vlt : (c.setF f idx v).vlt = c.vlt := rfl
@[simp] theorem Chip.setF_sax : (c.setF f idx v).sax = c.sax := rfl
@[simp] theorem Chip.setF_eng : (c.setF f idx v).eng = c.eng := rfl
@[simp] theorem Chip.setF_ord : (c.setF f idx v).ord = c.ord := rfl
@[simp] theorem Chip.setF_evr : (c.setF f idx v).evr = c.evr := rfl
@[simp] theorem Chip.setF_cnt : (c.setF f idx v).cnt = c.cnt := rfl
@[simp] theorem Chip.setF_hif : (c.setF f idx v).hif = c.hif := rfl
@[simp] theorem Chip.setF_mem : (c.setF f idx v).mem = c.mem := rfl
@[simp] theorem Chip.setF_ent : (c.setF f idx v).ent = c.ent := rfl
@[simp] theorem Chip.setF_tim : (c.setF f idx v).tim = c.tim := rfl
@[simp] theorem Chip.setF_pan : (c.setF f idx v).pan = c.pan := rfl
@[simp] theorem Chip.setF_path : (c.setF f idx v).path = c.path := rfl
@[simp] theorem Chip.setF_slu : (c.setF f idx v).slu = c.slu := rfl
@[simp] theorem Chip.setF_fwd : (c.setF f idx v).fwd = c.fwd := rfl
@[simp] theorem Chip.setF_buf : (c.setF f idx v).buf = c.buf := rfl
@[simp] theorem Chip.setF_prs : (c.setF f idx v).prs = c.prs := rfl
@[simp] theorem Chip.setF_flt : (c.setF f idx v).flt = c.flt := rfl
@[simp] theorem Chip.setF_pnl : (c.setF f idx v).pnl = c.pnl := rfl
@[simp] theorem Chip.setF_srd : (c.setF f idx v).srd = c.srd := rfl
@[simp] theorem Chip.setF_free : (c.setF f idx v).free = c.free := rfl
@[simp] theorem Chip.setF_out : (c.setF f idx v).out = c.out := rfl
end

section
variable (c : Chip) (f : Fld) (idx : List Nat) (n : Nat)
@[simp] theorem Chip.bump_shadow : (c.bump f idx n).shadow = c.shadow := rfl
@[simp] theorem Chip.bump_ctl : (c.bump f idx n).ctl = c.ctl := rfl
@[simp] theorem Chip.bump_su : (c.bump f idx n).su = c.su := rfl
@[simp] theorem Chip.bump_vlt : (c.bump f idx n).vlt = c.vlt := rfl
@[simp] theorem Chip.bump_sax : (c.bump f idx n).sax = c.sax := rfl
@[simp] theorem Chip.bump_eng : (c.bump f idx n).eng = c.eng := rfl
@[simp] theorem Chip.bump_ord : (c.bump f idx n).ord = c.ord := rfl
@[simp] theorem Chip.bump_evr : (c.bump f idx n).evr = c.evr := rfl
@[simp] theorem Chip.bump_cnt : (c.bump f idx n).cnt = c.cnt := rfl
@[simp] theorem Chip.bump_hif : (c.bump f idx n).hif = c.hif := rfl
@[simp] theorem Chip.bump_mem : (c.bump f idx n).mem = c.mem := rfl
@[simp] theorem Chip.bump_ent : (c.bump f idx n).ent = c.ent := rfl
@[simp] theorem Chip.bump_tim : (c.bump f idx n).tim = c.tim := rfl
@[simp] theorem Chip.bump_pan : (c.bump f idx n).pan = c.pan := rfl
@[simp] theorem Chip.bump_path : (c.bump f idx n).path = c.path := rfl
@[simp] theorem Chip.bump_slu : (c.bump f idx n).slu = c.slu := rfl
@[simp] theorem Chip.bump_fwd : (c.bump f idx n).fwd = c.fwd := rfl
@[simp] theorem Chip.bump_buf : (c.bump f idx n).buf = c.buf := rfl
@[simp] theorem Chip.bump_prs : (c.bump f idx n).prs = c.prs := rfl
@[simp] theorem Chip.bump_flt : (c.bump f idx n).flt = c.flt := rfl
@[simp] theorem Chip.bump_pnl : (c.bump f idx n).pnl = c.pnl := rfl
@[simp] theorem Chip.bump_srd : (c.bump f idx n).srd = c.srd := rfl
@[simp] theorem Chip.bump_free : (c.bump f idx n).free = c.free := rfl
@[simp] theorem Chip.bump_out : (c.bump f idx n).out = c.out := rfl
end

section
variable (c : Chip) 
@[simp] theorem Chip.draw_regs : (c.draw.2).regs = c.regs := rfl
@[simp] theorem Chip.draw_shadow : (c.draw.2).shadow = c.shadow := rfl
@[simp] theorem Chip.draw_ctl : (c.draw.2).ctl = c.ctl := rfl
@[simp] theorem Chip.draw_su : (c.draw.2).su = c.su := rfl
@[simp] theorem Chip.draw_vlt : (c.draw.2).vlt = c.vlt := rfl
@[simp] theorem Chip.draw_sax : (c.draw.2).sax = c.sax := rfl
@[simp] theorem Chip.draw_eng : (c.draw.2).eng = c.eng := rfl
@[simp] theorem Chip.draw_ord : (c.draw.2).ord = c.ord := rfl
@[simp] theorem Chip.draw_evr : (c.draw.2).evr = c.evr := rfl
@[simp] theorem Chip.draw_cnt : (c.draw.2).cnt = c.cnt := rfl
@[simp] theorem Chip.draw_hif : (c.draw.2).hif = c.hif := rfl
@[simp] theorem Chip.draw_mem : (c.draw.2).mem = c.mem := rfl
@[simp] theorem Chip.draw_ent : (c.draw.2).ent = c.ent := rfl
@[simp] theorem Chip.draw_tim : (c.draw.2).tim = c.tim := rfl
@[simp] theorem Chip.draw_pan : (c.draw.2).pan = c.pan := rfl
@[simp] theorem Chip.draw_path : (c.draw.2).path = c.path := rfl
@[simp] theorem Chip.draw_slu : (c.draw.2).slu = c.slu := rfl
@[simp] theorem Chip.draw_fwd : (c.draw.2).fwd = c.fwd := rfl
@[simp] theorem Chip.draw_buf : (c.draw.2).buf = c.buf := rfl
@[simp] theorem Chip.draw_prs : (c.draw.2).prs = c.prs := rfl
@[simp] theorem Chip.draw_flt : (c.draw.2).flt = c.flt := rfl
@[simp] theorem Chip.draw_pnl : (c.draw.2).pnl = c.pnl := rfl
@[simp] theorem Chip.draw_srd : (c.draw.2).srd = c.srd := rfl
@[simp] theorem Chip.draw_free : (c.draw.2).free = c.free + 1 := rfl
@[simp] theorem Chip.draw_out : (c.draw.2).out = c.out := rfl
end

@[simp] theorem Chip.draw_fst (c : Chip) : c.draw.1 = c.free := rfl

section
variable (c : Chip) (o : Output)
@[simp] theorem Chip.emit_regs : (c.emit o).regs = c.regs := rfl
@[simp] theorem Chip.emit_shadow : (c.emit o).shadow = c.shadow := rfl
@[simp] theorem Chip.emit_ctl : (c.emit o).ctl = c.ctl := rfl
@[simp] theorem Chip.emit_su : (c.emit o).su = c.su := rfl
@[simp] theorem Chip.emit_vlt : (c.emit o).vlt = c.vlt := rfl
@[simp] theorem Chip.emit_sax : (c.emit o).sax = c.sax := rfl
@[simp] theorem Chip.emit_eng : (c.emit o).eng = c.eng := rfl
@[simp] theorem Chip.emit_ord : (c.emit o).ord = c.ord := rfl
@[simp] theorem Chip.emit_evr : (c.emit o).evr = c.evr := rfl
@[simp] theorem Chip.emit_cnt : (c.emit o).cnt = c.cnt := rfl
@[simp] theorem Chip.emit_hif : (c.emit o).hif = c.hif := rfl
@[simp] theorem Chip.emit_mem : (c.emit o).mem = c.mem := rfl
@[simp] theorem Chip.emit_ent : (c.emit o).ent = c.ent := rfl
@[simp] theorem Chip.emit_tim : (c.emit o).tim = c.tim := rfl
@[simp] theorem Chip.emit_pan : (c.emit o).pan = c.pan := rfl
@[simp] theorem Chip.emit_path : (c.emit o).path = c.path := rfl
@[simp] theorem Chip.emit_slu : (c.emit o).slu = c.slu := rfl
@[simp] theorem Chip.emit_fwd : (c.emit o).fwd = c.fwd := rfl
@[simp] theorem Chip.emit_buf : (c.emit o).buf = c.buf := rfl
@[simp] theorem Chip.emit_prs : (c.emit o).prs = c.prs := rfl
@[simp] theorem Chip.emit_flt : (c.emit o).flt = c.flt := rfl
@[simp] theorem Chip.emit_pnl : (c.emit o).pnl = c.pnl := rfl
@[simp] theorem Chip.emit_srd : (c.emit o).srd = c.srd := rfl
@[simp] theorem Chip.emit_free : (c.emit o).free = c.free := rfl
@[simp] theorem Chip.emit_out : (c.emit o).out = c.out ++ [o] := rfl
end

section
variable (c : Chip) (a : Nat) (b : Byte)
@[simp] theorem Chip.memSet_regs : (c.memSet a b).regs = c.regs := rfl
@[simp] theorem Chip.memSet_shadow : (c.memSet a b).shadow = c.shadow := rfl
@[simp] theorem Chip.memSet_ctl : (c.memSet a b).ctl = c.ctl := rfl
@[simp] theorem Chip.memSet_su : (c.memSet a b).su = c.su := rfl
@[simp] theorem Chip.memSet_vlt : (c.memSet a b).vlt = c.vlt := rfl
@[simp] theorem Chip.memSet_sax : (c.memSet a b).sax = c.sax := rfl
@[simp] theorem Chip.memSet_eng : (c.memSet a b).eng = c.eng := rfl
@[simp] theorem Chip.memSet_ord : (c.memSet a b).ord = c.ord := rfl
@[simp] theorem Chip.memSet_evr : (c.memSet a b).evr = c.evr := rfl
@[simp] theorem Chip.memSet_cnt : (c.memSet a b).cnt = c.cnt := rfl
@[simp] theorem Chip.memSet_hif : (c.memSet a b).hif = c.hif := rfl
@[simp] theorem Chip.memSet_mem : (c.memSet a b).mem = SMap.set Memory.default c.mem a b := rfl
@[simp] theorem Chip.memSet_ent : (c.memSet a b).ent = c.ent := rfl
@[simp] theorem Chip.memSet_tim : (c.memSet a b).tim = c.tim := rfl
@[simp] theorem Chip.memSet_pan : (c.memSet a b).pan = c.pan := rfl
@[simp] theorem Chip.memSet_path : (c.memSet a b).path = c.path := rfl
@[simp] theorem Chip.memSet_slu : (c.memSet a b).slu = c.slu := rfl
@[simp] theorem Chip.memSet_fwd : (c.memSet a b).fwd = c.fwd := rfl
@[simp] theorem Chip.memSet_buf : (c.memSet a b).buf = c.buf := rfl
@[simp] theorem Chip.memSet_prs : (c.memSet a b).prs = c.prs := rfl
@[simp] theorem Chip.memSet_flt : (c.memSet a b).flt = c.flt := rfl
@[simp] theorem Chip.memSet_pnl : (c.memSet a b).pnl = c.pnl := rfl
@[simp] theorem Chip.memSet_srd : (c.memSet a b).srd = c.srd := rfl
@[simp] theorem Chip.memSet_free : (c.memSet a b).free = c.free := rfl
@[simp] theorem Chip.memSet_out : (c.memSet a b).out = c.out := rfl
end

section
variable (c : Chip) (a n : Nat)
@[simp] theorem Chip.memClear_regs : (c.memClear a n).regs = c.regs := rfl
@[simp] theorem Chip.memClear_shadow : (c.memClear a n).shadow = c.shadow := rfl
@[simp] theorem Chip.memClear_ctl : (c.memClear a n).ctl = c.ctl := rfl
@[simp] theorem Chip.memClear_su : (c.memClear a n).su = c.su := rfl
@[simp] theorem Chip.memClear_vlt : (c.memClear a n).vlt = c.vlt := rfl
@[simp] theorem Chip.memClear_sax : (c.memClear a n).sax = c.sax := rfl
@[simp] theorem Chip.memClear_eng : (c.memClear a n).eng = c.eng := rfl
@[simp] theorem Chip.memClear_ord : (c.memClear a n).ord = c.ord := rfl
@[simp] theorem Chip.memClear_evr : (c.memClear a n).evr = c.evr := rfl
@[simp] theorem Chip.memClear_cnt : (c.memClear a n).cnt = c.cnt := rfl
@[simp] theorem Chip.memClear_hif : (c.memClear a n).hif = c.hif := rfl
@[simp] theorem Chip.memClear_mem : (c.memClear a n).mem = c.mem.filter fun p => !(a ≤ p.1 && p.1 < a + n) := rfl
@[simp] theorem Chip.memClear_ent : (c.memClear a n).ent = c.ent := rfl
@[simp] theorem Chip.memClear_tim : (c.memClear a n).tim = c.tim := rfl
@[simp] theorem Chip.memClear_pan : (c.memClear a n).pan = c.pan := rfl
@[simp] theorem Chip.memClear_path : (c.memClear a n).path = c.path := rfl
@[simp] theorem Chip.memClear_slu : (c.memClear a n).slu = c.slu := rfl
@[simp] theorem Chip.memClear_fwd : (c.memClear a n).fwd = c.fwd := rfl
@[simp] theorem Chip.memClear_buf : (c.memClear a n).buf = c.buf := rfl
@[simp] theorem Chip.memClear_prs : (c.memClear a n).prs = c.prs := rfl
@[simp] theorem Chip.memClear_flt : (c.memClear a n).flt = c.flt := rfl
@[simp] theorem Chip.memClear_pnl : (c.memClear a n).pnl = c.pnl := rfl
@[simp] theorem Chip.memClear_srd : (c.memClear a n).srd = c.srd := rfl
@[simp] theorem Chip.memClear_free : (c.memClear a n).free = c.free := rfl
@[simp] theorem Chip.memClear_out : (c.memClear a n).out = c.out := rfl
end

section
variable (c : Chip) (r : Nat) (v : Ring)
@[simp] theorem Chip.setRing_regs : (c.setRing r v).regs = c.regs := rfl
@[simp] theorem Chip.setRing_shadow : (c.setRing r v).shadow = c.shadow := rfl
@[simp] theorem Chip.setRing_ctl : (c.setRing r v).ctl = c.ctl := rfl
@[simp] theorem Chip.setRing_su : (c.setRing r v).su = c.su := rfl
@[simp] theorem Chip.setRing_vlt : (c.setRing r v).vlt = c.vlt := rfl
@[simp] theorem Chip.setRing_sax : (c.setRing r v).sax = c.sax := rfl
@[simp] theorem Chip.setRing_eng : (c.setRing r v).eng = c.eng := rfl
@[simp] theorem Chip.setRing_ord : (c.setRing r v).ord = c.ord := rfl
@[simp] theorem Chip.setRing_evr : (c.setRing r v).evr = c.evr := rfl
@[simp] theorem Chip.setRing_cnt : (c.setRing r v).cnt = c.cnt := rfl
@[simp] theorem Chip.setRing_hif : (c.setRing r v).hif = { c.hif with rings := SMap.set (fun _ => {}) c.hif.rings r v } := rfl
@[simp] theorem Chip.setRing_mem : (c.setRing r v).mem = c.mem := rfl
@[simp] theorem Chip.setRing_ent : (c.setRing r v).ent = c.ent := rfl
@[simp] theorem Chip.setRing_tim : (c.setRing r v).tim = c.tim := rfl
@[simp] theorem Chip.setRing_pan : (c.setRing r v).pan = c.pan := rfl
@[simp] theorem Chip.setRing_path : (c.setRing r v).path = c.path := rfl
@[simp] theorem Chip.setRing_slu : (c.setRing r v).slu = c.slu := rfl
@[simp] theorem Chip.setRing_fwd : (c.setRing r v).fwd = c.fwd := rfl
@[simp] theorem Chip.setRing_buf : (c.setRing r v).buf = c.buf := rfl
@[simp] theorem Chip.setRing_prs : (c.setRing r v).prs = c.prs := rfl
@[simp] theorem Chip.setRing_flt : (c.setRing r v).flt = c.flt := rfl
@[simp] theorem Chip.setRing_pnl : (c.setRing r v).pnl = c.pnl := rfl
@[simp] theorem Chip.setRing_srd : (c.setRing r v).srd = c.srd := rfl
@[simp] theorem Chip.setRing_free : (c.setRing r v).free = c.free := rfl
@[simp] theorem Chip.setRing_out : (c.setRing r v).out = c.out := rfl
end

section
variable (c : Chip) (f : Chip → Chip)
@[simp] theorem Chip.after_regs : (c.after f).regs = (f c).regs := rfl
@[simp] theorem Chip.after_shadow : (c.after f).shadow = (f c).shadow := rfl
@[simp] theorem Chip.after_ctl : (c.after f).ctl = (f c).ctl := rfl
@[simp] theorem Chip.after_su : (c.after f).su = (f c).su := rfl
@[simp] theorem Chip.after_vlt : (c.after f).vlt = { (f c).vlt with owners := otpHeld c.otpOpen c.vlt.owners (f c).vlt.owners } := rfl
@[simp] theorem Chip.after_sax : (c.after f).sax = (f c).sax := rfl
@[simp] theorem Chip.after_eng : (c.after f).eng = (f c).eng := rfl
@[simp] theorem Chip.after_ord : (c.after f).ord = (f c).ord := rfl
@[simp] theorem Chip.after_evr : (c.after f).evr = (f c).evr := rfl
@[simp] theorem Chip.after_cnt : (c.after f).cnt = (f c).cnt := rfl
@[simp] theorem Chip.after_hif : (c.after f).hif = (f c).hif := rfl
@[simp] theorem Chip.after_mem : (c.after f).mem = (f c).mem := rfl
@[simp] theorem Chip.after_ent : (c.after f).ent = (f c).ent := rfl
@[simp] theorem Chip.after_tim : (c.after f).tim = (f c).tim := rfl
@[simp] theorem Chip.after_pan : (c.after f).pan = (f c).pan := rfl
@[simp] theorem Chip.after_path : (c.after f).path = (f c).path := rfl
@[simp] theorem Chip.after_slu : (c.after f).slu = (f c).slu := rfl
@[simp] theorem Chip.after_fwd : (c.after f).fwd = (f c).fwd := rfl
@[simp] theorem Chip.after_buf : (c.after f).buf = (f c).buf := rfl
@[simp] theorem Chip.after_prs : (c.after f).prs = (f c).prs := rfl
@[simp] theorem Chip.after_flt : (c.after f).flt = (f c).flt := rfl
@[simp] theorem Chip.after_pnl : (c.after f).pnl = (f c).pnl := rfl
@[simp] theorem Chip.after_srd : (c.after f).srd = (f c).srd := rfl
@[simp] theorem Chip.after_free : (c.after f).free = (f c).free := rfl
@[simp] theorem Chip.after_out : (c.after f).out = (f c).out := rfl
end

section
variable (c : Chip) (code : Nat)
@[simp] theorem Chip.suppress_shadow : (c.suppress code).shadow = c.shadow := by
  rfl
@[simp] theorem Chip.suppress_ctl : (c.suppress code).ctl = c.ctl := by
  rfl
@[simp] theorem Chip.suppress_su : (c.suppress code).su = c.su := by
  rfl
@[simp] theorem Chip.suppress_vlt : (c.suppress code).vlt = c.vlt := by
  rfl
@[simp] theorem Chip.suppress_sax : (c.suppress code).sax = c.sax := by
  rfl
@[simp] theorem Chip.suppress_eng : (c.suppress code).eng = c.eng := by
  rfl
@[simp] theorem Chip.suppress_ord : (c.suppress code).ord = c.ord := by
  rfl
@[simp] theorem Chip.suppress_cnt : (c.suppress code).cnt = c.cnt := by
  rfl
@[simp] theorem Chip.suppress_hif : (c.suppress code).hif = c.hif := by
  rfl
@[simp] theorem Chip.suppress_mem : (c.suppress code).mem = c.mem := by
  rfl
@[simp] theorem Chip.suppress_ent : (c.suppress code).ent = c.ent := by
  rfl
@[simp] theorem Chip.suppress_tim : (c.suppress code).tim = c.tim := by
  rfl
@[simp] theorem Chip.suppress_pan : (c.suppress code).pan = c.pan := by
  rfl
@[simp] theorem Chip.suppress_path : (c.suppress code).path = c.path := by
  rfl
@[simp] theorem Chip.suppress_slu : (c.suppress code).slu = c.slu := by
  rfl
@[simp] theorem Chip.suppress_fwd : (c.suppress code).fwd = c.fwd := by
  rfl
@[simp] theorem Chip.suppress_buf : (c.suppress code).buf = c.buf := by
  rfl
@[simp] theorem Chip.suppress_prs : (c.suppress code).prs = c.prs := by
  rfl
@[simp] theorem Chip.suppress_flt : (c.suppress code).flt = c.flt := by
  rfl
@[simp] theorem Chip.suppress_pnl : (c.suppress code).pnl = c.pnl := by
  rfl
@[simp] theorem Chip.suppress_srd : (c.suppress code).srd = c.srd := by
  rfl
@[simp] theorem Chip.suppress_free : (c.suppress code).free = c.free := by
  rfl
@[simp] theorem Chip.suppress_out : (c.suppress code).out = c.out := by
  rfl
end

section
variable (c : Chip) (code source : Nat) (items : List (Nat × Nat))
@[simp] theorem Chip.raise_shadow : (c.raise code source items).shadow = c.shadow := by
  simp only [Chip.raise]; split_ifs <;> rfl
@[simp] theorem Chip.raise_ctl : (c.raise code source items).ctl = c.ctl := by
  simp only [Chip.raise]; split_ifs <;> rfl
@[simp] theorem Chip.raise_su : (c.raise code source items).su = c.su := by
  simp only [Chip.raise]; split_ifs <;> rfl
@[simp] theorem Chip.raise_vlt : (c.raise code source items).vlt = c.vlt := by
  simp only [Chip.raise]; split_ifs <;> rfl
@[simp] theorem Chip.raise_sax : (c.raise code source items).sax = c.sax := by
  simp only [Chip.raise]; split_ifs <;> rfl
@[simp] theorem Chip.raise_eng : (c.raise code source items).eng = c.eng := by
  simp only [Chip.raise]; split_ifs <;> rfl
@[simp] theorem Chip.raise_ord : (c.raise code source items).ord = c.ord := by
  simp only [Chip.raise]; split_ifs <;> rfl
@[simp] theorem Chip.raise_cnt : (c.raise code source items).cnt = c.cnt := by
  simp only [Chip.raise]; split_ifs <;> rfl
@[simp] theorem Chip.raise_hif : (c.raise code source items).hif = c.hif := by
  simp only [Chip.raise]; split_ifs <;> rfl
@[simp] theorem Chip.raise_mem : (c.raise code source items).mem = c.mem := by
  simp only [Chip.raise]; split_ifs <;> rfl
@[simp] theorem Chip.raise_ent : (c.raise code source items).ent = c.ent := by
  simp only [Chip.raise]; split_ifs <;> rfl
@[simp] theorem Chip.raise_tim : (c.raise code source items).tim = c.tim := by
  simp only [Chip.raise]; split_ifs <;> rfl
@[simp] theorem Chip.raise_pan : (c.raise code source items).pan = c.pan := by
  simp only [Chip.raise]; split_ifs <;> rfl
@[simp] theorem Chip.raise_path : (c.raise code source items).path = c.path := by
  simp only [Chip.raise]; split_ifs <;> rfl
@[simp] theorem Chip.raise_slu : (c.raise code source items).slu = c.slu := by
  simp only [Chip.raise]; split_ifs <;> rfl
@[simp] theorem Chip.raise_fwd : (c.raise code source items).fwd = c.fwd := by
  simp only [Chip.raise]; split_ifs <;> rfl
@[simp] theorem Chip.raise_buf : (c.raise code source items).buf = c.buf := by
  simp only [Chip.raise]; split_ifs <;> rfl
@[simp] theorem Chip.raise_prs : (c.raise code source items).prs = c.prs := by
  simp only [Chip.raise]; split_ifs <;> rfl
@[simp] theorem Chip.raise_flt : (c.raise code source items).flt = c.flt := by
  simp only [Chip.raise]; split_ifs <;> rfl
@[simp] theorem Chip.raise_pnl : (c.raise code source items).pnl = c.pnl := by
  simp only [Chip.raise]; split_ifs <;> rfl
@[simp] theorem Chip.raise_srd : (c.raise code source items).srd = c.srd := by
  simp only [Chip.raise]; split_ifs <;> rfl
@[simp] theorem Chip.raise_free : (c.raise code source items).free = c.free := by
  simp only [Chip.raise]; split_ifs <;> rfl
@[simp] theorem Chip.raise_out : (c.raise code source items).out = c.out := by
  simp only [Chip.raise]; split_ifs <;> rfl
end

section
variable (c : Chip) (sp : Bool) (i : Nat) (v : DWord)
@[simp] theorem Chip.cntSet_regs : (c.cntSet sp i v).regs = c.regs := by
  cases sp <;> rfl
@[simp] theorem Chip.cntSet_shadow : (c.cntSet sp i v).shadow = c.shadow := by
  cases sp <;> rfl
@[simp] theorem Chip.cntSet_ctl : (c.cntSet sp i v).ctl = c.ctl := by
  cases sp <;> rfl
@[simp] theorem Chip.cntSet_su : (c.cntSet sp i v).su = c.su := by
  cases sp <;> rfl
@[simp] theorem Chip.cntSet_vlt : (c.cntSet sp i v).vlt = c.vlt := by
  cases sp <;> rfl
@[simp] theorem Chip.cntSet_sax : (c.cntSet sp i v).sax = c.sax := by
  cases sp <;> rfl
@[simp] theorem Chip.cntSet_eng : (c.cntSet sp i v).eng = c.eng := by
  cases sp <;> rfl
@[simp] theorem Chip.cntSet_ord : (c.cntSet sp i v).ord = c.ord := by
  cases sp <;> rfl
@[simp] theorem Chip.cntSet_evr : (c.cntSet sp i v).evr = c.evr := by
  cases sp <;> rfl
@[simp] theorem Chip.cntSet_hif : (c.cntSet sp i v).hif = c.hif := by
  cases sp <;> rfl
@[simp] theorem Chip.cntSet_mem : (c.cntSet sp i v).mem = c.mem := by
  cases sp <;> rfl
@[simp] theorem Chip.cntSet_ent : (c.cntSet sp i v).ent = c.ent := by
  cases sp <;> rfl
@[simp] theorem Chip.cntSet_tim : (c.cntSet sp i v).tim = c.tim := by
  cases sp <;> rfl
@[simp] theorem Chip.cntSet_pan : (c.cntSet sp i v).pan = c.pan := by
  cases sp <;> rfl
@[simp] theorem Chip.cntSet_path : (c.cntSet sp i v).path = c.path := by
  cases sp <;> rfl
@[simp] theorem Chip.cntSet_slu : (c.cntSet sp i v).slu = c.slu := by
  cases sp <;> rfl
@[simp] theorem Chip.cntSet_fwd : (c.cntSet sp i v).fwd = c.fwd := by
  cases sp <;> rfl
@[simp] theorem Chip.cntSet_buf : (c.cntSet sp i v).buf = c.buf := by
  cases sp <;> rfl
@[simp] theorem Chip.cntSet_prs : (c.cntSet sp i v).prs = c.prs := by
  cases sp <;> rfl
@[simp] theorem Chip.cntSet_flt : (c.cntSet sp i v).flt = c.flt := by
  cases sp <;> rfl
@[simp] theorem Chip.cntSet_pnl : (c.cntSet sp i v).pnl = c.pnl := by
  cases sp <;> rfl
@[simp] theorem Chip.cntSet_srd : (c.cntSet sp i v).srd = c.srd := by
  cases sp <;> rfl
@[simp] theorem Chip.cntSet_free : (c.cntSet sp i v).free = c.free := by
  cases sp <;> rfl
@[simp] theorem Chip.cntSet_out : (c.cntSet sp i v).out = c.out := by
  cases sp <;> rfl
end

section
variable (c : Chip) (sp : Bool) (i n : Nat)
@[simp] theorem Chip.count_regs : (c.count sp i n).regs = c.regs := by
  simp [Chip.count]
@[simp] theorem Chip.count_shadow : (c.count sp i n).shadow = c.shadow := by
  simp [Chip.count]
@[simp] theorem Chip.count_ctl : (c.count sp i n).ctl = c.ctl := by
  simp [Chip.count]
@[simp] theorem Chip.count_su : (c.count sp i n).su = c.su := by
  simp [Chip.count]
@[simp] theorem Chip.count_vlt : (c.count sp i n).vlt = c.vlt := by
  simp [Chip.count]
@[simp] theorem Chip.count_sax : (c.count sp i n).sax = c.sax := by
  simp [Chip.count]
@[simp] theorem Chip.count_eng : (c.count sp i n).eng = c.eng := by
  simp [Chip.count]
@[simp] theorem Chip.count_ord : (c.count sp i n).ord = c.ord := by
  simp [Chip.count]
@[simp] theorem Chip.count_evr : (c.count sp i n).evr = c.evr := by
  simp [Chip.count]
@[simp] theorem Chip.count_hif : (c.count sp i n).hif = c.hif := by
  simp [Chip.count]
@[simp] theorem Chip.count_mem : (c.count sp i n).mem = c.mem := by
  simp [Chip.count]
@[simp] theorem Chip.count_ent : (c.count sp i n).ent = c.ent := by
  simp [Chip.count]
@[simp] theorem Chip.count_tim : (c.count sp i n).tim = c.tim := by
  simp [Chip.count]
@[simp] theorem Chip.count_pan : (c.count sp i n).pan = c.pan := by
  simp [Chip.count]
@[simp] theorem Chip.count_path : (c.count sp i n).path = c.path := by
  simp [Chip.count]
@[simp] theorem Chip.count_slu : (c.count sp i n).slu = c.slu := by
  simp [Chip.count]
@[simp] theorem Chip.count_fwd : (c.count sp i n).fwd = c.fwd := by
  simp [Chip.count]
@[simp] theorem Chip.count_buf : (c.count sp i n).buf = c.buf := by
  simp [Chip.count]
@[simp] theorem Chip.count_prs : (c.count sp i n).prs = c.prs := by
  simp [Chip.count]
@[simp] theorem Chip.count_flt : (c.count sp i n).flt = c.flt := by
  simp [Chip.count]
@[simp] theorem Chip.count_pnl : (c.count sp i n).pnl = c.pnl := by
  simp [Chip.count]
@[simp] theorem Chip.count_srd : (c.count sp i n).srd = c.srd := by
  simp [Chip.count]
@[simp] theorem Chip.count_free : (c.count sp i n).free = c.free := by
  simp [Chip.count]
@[simp] theorem Chip.count_out : (c.count sp i n).out = c.out := by
  simp [Chip.count]
end

section
variable (c : Chip) (sp : Bool) (i : Nat) (v : Bool)
@[simp] theorem Chip.setLost_regs : (c.setLost sp i v).regs = c.regs := by
  cases sp <;> rfl
@[simp] theorem Chip.setLost_shadow : (c.setLost sp i v).shadow = c.shadow := by
  cases sp <;> rfl
@[simp] theorem Chip.setLost_ctl : (c.setLost sp i v).ctl = c.ctl := by
  cases sp <;> rfl
@[simp] theorem Chip.setLost_su : (c.setLost sp i v).su = c.su := by
  cases sp <;> rfl
@[simp] theorem Chip.setLost_vlt : (c.setLost sp i v).vlt = c.vlt := by
  cases sp <;> rfl
@[simp] theorem Chip.setLost_sax : (c.setLost sp i v).sax = c.sax := by
  cases sp <;> rfl
@[simp] theorem Chip.setLost_eng : (c.setLost sp i v).eng = c.eng := by
  cases sp <;> rfl
@[simp] theorem Chip.setLost_ord : (c.setLost sp i v).ord = c.ord := by
  cases sp <;> rfl
@[simp] theorem Chip.setLost_evr : (c.setLost sp i v).evr = c.evr := by
  cases sp <;> rfl
@[simp] theorem Chip.setLost_hif : (c.setLost sp i v).hif = c.hif := by
  cases sp <;> rfl
@[simp] theorem Chip.setLost_mem : (c.setLost sp i v).mem = c.mem := by
  cases sp <;> rfl
@[simp] theorem Chip.setLost_ent : (c.setLost sp i v).ent = c.ent := by
  cases sp <;> rfl
@[simp] theorem Chip.setLost_tim : (c.setLost sp i v).tim = c.tim := by
  cases sp <;> rfl
@[simp] theorem Chip.setLost_pan : (c.setLost sp i v).pan = c.pan := by
  cases sp <;> rfl
@[simp] theorem Chip.setLost_path : (c.setLost sp i v).path = c.path := by
  cases sp <;> rfl
@[simp] theorem Chip.setLost_slu : (c.setLost sp i v).slu = c.slu := by
  cases sp <;> rfl
@[simp] theorem Chip.setLost_fwd : (c.setLost sp i v).fwd = c.fwd := by
  cases sp <;> rfl
@[simp] theorem Chip.setLost_buf : (c.setLost sp i v).buf = c.buf := by
  cases sp <;> rfl
@[simp] theorem Chip.setLost_prs : (c.setLost sp i v).prs = c.prs := by
  cases sp <;> rfl
@[simp] theorem Chip.setLost_flt : (c.setLost sp i v).flt = c.flt := by
  cases sp <;> rfl
@[simp] theorem Chip.setLost_pnl : (c.setLost sp i v).pnl = c.pnl := by
  cases sp <;> rfl
@[simp] theorem Chip.setLost_srd : (c.setLost sp i v).srd = c.srd := by
  cases sp <;> rfl
@[simp] theorem Chip.setLost_free : (c.setLost sp i v).free = c.free := by
  cases sp <;> rfl
@[simp] theorem Chip.setLost_out : (c.setLost sp i v).out = c.out := by
  cases sp <;> rfl
end

section
variable (c : Chip) (fn : Nat) (o : Output)
@[simp] theorem Chip.dma_regs : (c.dma fn o).regs = c.regs := by
  simp only [Chip.dma]; split_ifs <;> rfl
@[simp] theorem Chip.dma_shadow : (c.dma fn o).shadow = c.shadow := by
  simp only [Chip.dma]; split_ifs <;> rfl
@[simp] theorem Chip.dma_ctl : (c.dma fn o).ctl = c.ctl := by
  simp only [Chip.dma]; split_ifs <;> rfl
@[simp] theorem Chip.dma_su : (c.dma fn o).su = c.su := by
  simp only [Chip.dma]; split_ifs <;> rfl
@[simp] theorem Chip.dma_vlt : (c.dma fn o).vlt = c.vlt := by
  simp only [Chip.dma]; split_ifs <;> rfl
@[simp] theorem Chip.dma_sax : (c.dma fn o).sax = c.sax := by
  simp only [Chip.dma]; split_ifs <;> rfl
@[simp] theorem Chip.dma_eng : (c.dma fn o).eng = c.eng := by
  simp only [Chip.dma]; split_ifs <;> rfl
@[simp] theorem Chip.dma_ord : (c.dma fn o).ord = c.ord := by
  simp only [Chip.dma]; split_ifs <;> rfl
@[simp] theorem Chip.dma_evr : (c.dma fn o).evr = c.evr := by
  simp only [Chip.dma]; split_ifs <;> rfl
@[simp] theorem Chip.dma_cnt : (c.dma fn o).cnt = c.cnt := by
  simp only [Chip.dma]; split_ifs <;> rfl
@[simp] theorem Chip.dma_mem : (c.dma fn o).mem = c.mem := by
  simp only [Chip.dma]; split_ifs <;> rfl
@[simp] theorem Chip.dma_ent : (c.dma fn o).ent = c.ent := by
  simp only [Chip.dma]; split_ifs <;> rfl
@[simp] theorem Chip.dma_tim : (c.dma fn o).tim = c.tim := by
  simp only [Chip.dma]; split_ifs <;> rfl
@[simp] theorem Chip.dma_pan : (c.dma fn o).pan = c.pan := by
  simp only [Chip.dma]; split_ifs <;> rfl
@[simp] theorem Chip.dma_path : (c.dma fn o).path = c.path := by
  simp only [Chip.dma]; split_ifs <;> rfl
@[simp] theorem Chip.dma_slu : (c.dma fn o).slu = c.slu := by
  simp only [Chip.dma]; split_ifs <;> rfl
@[simp] theorem Chip.dma_fwd : (c.dma fn o).fwd = c.fwd := by
  simp only [Chip.dma]; split_ifs <;> rfl
@[simp] theorem Chip.dma_buf : (c.dma fn o).buf = c.buf := by
  simp only [Chip.dma]; split_ifs <;> rfl
@[simp] theorem Chip.dma_prs : (c.dma fn o).prs = c.prs := by
  simp only [Chip.dma]; split_ifs <;> rfl
@[simp] theorem Chip.dma_flt : (c.dma fn o).flt = c.flt := by
  simp only [Chip.dma]; split_ifs <;> rfl
@[simp] theorem Chip.dma_pnl : (c.dma fn o).pnl = c.pnl := by
  simp only [Chip.dma]; split_ifs <;> rfl
@[simp] theorem Chip.dma_srd : (c.dma fn o).srd = c.srd := by
  simp only [Chip.dma]; split_ifs <;> rfl
@[simp] theorem Chip.dma_free : (c.dma fn o).free = c.free := by
  simp only [Chip.dma]; split_ifs <;> rfl
end

section
variable (c : Chip) 
@[simp] theorem Chip.flushOwed_regs : (c.flushOwed).regs = c.regs := by
  rfl
@[simp] theorem Chip.flushOwed_shadow : (c.flushOwed).shadow = c.shadow := by
  rfl
@[simp] theorem Chip.flushOwed_ctl : (c.flushOwed).ctl = c.ctl := by
  rfl
@[simp] theorem Chip.flushOwed_su : (c.flushOwed).su = c.su := by
  rfl
@[simp] theorem Chip.flushOwed_vlt : (c.flushOwed).vlt = c.vlt := by
  rfl
@[simp] theorem Chip.flushOwed_sax : (c.flushOwed).sax = c.sax := by
  rfl
@[simp] theorem Chip.flushOwed_eng : (c.flushOwed).eng = c.eng := by
  rfl
@[simp] theorem Chip.flushOwed_ord : (c.flushOwed).ord = c.ord := by
  rfl
@[simp] theorem Chip.flushOwed_evr : (c.flushOwed).evr = c.evr := by
  rfl
@[simp] theorem Chip.flushOwed_cnt : (c.flushOwed).cnt = c.cnt := by
  rfl
@[simp] theorem Chip.flushOwed_mem : (c.flushOwed).mem = c.mem := by
  rfl
@[simp] theorem Chip.flushOwed_ent : (c.flushOwed).ent = c.ent := by
  rfl
@[simp] theorem Chip.flushOwed_tim : (c.flushOwed).tim = c.tim := by
  rfl
@[simp] theorem Chip.flushOwed_pan : (c.flushOwed).pan = c.pan := by
  rfl
@[simp] theorem Chip.flushOwed_path : (c.flushOwed).path = c.path := by
  rfl
@[simp] theorem Chip.flushOwed_slu : (c.flushOwed).slu = c.slu := by
  rfl
@[simp] theorem Chip.flushOwed_fwd : (c.flushOwed).fwd = c.fwd := by
  rfl
@[simp] theorem Chip.flushOwed_buf : (c.flushOwed).buf = c.buf := by
  rfl
@[simp] theorem Chip.flushOwed_prs : (c.flushOwed).prs = c.prs := by
  rfl
@[simp] theorem Chip.flushOwed_flt : (c.flushOwed).flt = c.flt := by
  rfl
@[simp] theorem Chip.flushOwed_pnl : (c.flushOwed).pnl = c.pnl := by
  rfl
@[simp] theorem Chip.flushOwed_srd : (c.flushOwed).srd = c.srd := by
  rfl
@[simp] theorem Chip.flushOwed_free : (c.flushOwed).free = c.free := by
  rfl
end

section
variable (c : Chip) (fn v : Nat)
@[simp] theorem Chip.msixSignal_regs : (c.msixSignal fn v).regs = c.regs := by
  simp only [Chip.msixSignal]; split_ifs <;> simp
@[simp] theorem Chip.msixSignal_shadow : (c.msixSignal fn v).shadow = c.shadow := by
  simp only [Chip.msixSignal]; split_ifs <;> simp
@[simp] theorem Chip.msixSignal_ctl : (c.msixSignal fn v).ctl = c.ctl := by
  simp only [Chip.msixSignal]; split_ifs <;> simp
@[simp] theorem Chip.msixSignal_su : (c.msixSignal fn v).su = c.su := by
  simp only [Chip.msixSignal]; split_ifs <;> simp
@[simp] theorem Chip.msixSignal_vlt : (c.msixSignal fn v).vlt = c.vlt := by
  simp only [Chip.msixSignal]; split_ifs <;> simp
@[simp] theorem Chip.msixSignal_sax : (c.msixSignal fn v).sax = c.sax := by
  simp only [Chip.msixSignal]; split_ifs <;> simp
@[simp] theorem Chip.msixSignal_eng : (c.msixSignal fn v).eng = c.eng := by
  simp only [Chip.msixSignal]; split_ifs <;> simp
@[simp] theorem Chip.msixSignal_ord : (c.msixSignal fn v).ord = c.ord := by
  simp only [Chip.msixSignal]; split_ifs <;> simp
@[simp] theorem Chip.msixSignal_evr : (c.msixSignal fn v).evr = c.evr := by
  simp only [Chip.msixSignal]; split_ifs <;> simp
@[simp] theorem Chip.msixSignal_cnt : (c.msixSignal fn v).cnt = c.cnt := by
  simp only [Chip.msixSignal]; split_ifs <;> simp
@[simp] theorem Chip.msixSignal_mem : (c.msixSignal fn v).mem = c.mem := by
  simp only [Chip.msixSignal]; split_ifs <;> simp
@[simp] theorem Chip.msixSignal_ent : (c.msixSignal fn v).ent = c.ent := by
  simp only [Chip.msixSignal]; split_ifs <;> simp
@[simp] theorem Chip.msixSignal_tim : (c.msixSignal fn v).tim = c.tim := by
  simp only [Chip.msixSignal]; split_ifs <;> simp
@[simp] theorem Chip.msixSignal_pan : (c.msixSignal fn v).pan = c.pan := by
  simp only [Chip.msixSignal]; split_ifs <;> simp
@[simp] theorem Chip.msixSignal_path : (c.msixSignal fn v).path = c.path := by
  simp only [Chip.msixSignal]; split_ifs <;> simp
@[simp] theorem Chip.msixSignal_slu : (c.msixSignal fn v).slu = c.slu := by
  simp only [Chip.msixSignal]; split_ifs <;> simp
@[simp] theorem Chip.msixSignal_fwd : (c.msixSignal fn v).fwd = c.fwd := by
  simp only [Chip.msixSignal]; split_ifs <;> simp
@[simp] theorem Chip.msixSignal_buf : (c.msixSignal fn v).buf = c.buf := by
  simp only [Chip.msixSignal]; split_ifs <;> simp
@[simp] theorem Chip.msixSignal_prs : (c.msixSignal fn v).prs = c.prs := by
  simp only [Chip.msixSignal]; split_ifs <;> simp
@[simp] theorem Chip.msixSignal_flt : (c.msixSignal fn v).flt = c.flt := by
  simp only [Chip.msixSignal]; split_ifs <;> simp
@[simp] theorem Chip.msixSignal_pnl : (c.msixSignal fn v).pnl = c.pnl := by
  simp only [Chip.msixSignal]; split_ifs <;> simp
@[simp] theorem Chip.msixSignal_srd : (c.msixSignal fn v).srd = c.srd := by
  simp only [Chip.msixSignal]; split_ifs <;> simp
@[simp] theorem Chip.msixSignal_free : (c.msixSignal fn v).free = c.free := by
  simp only [Chip.msixSignal]; split_ifs <;> simp
end

section
variable (c : Chip) (s : Nat)
@[simp] theorem Chip.signal_regs : (c.signal s).regs = c.regs := by
  simp only [Chip.signal]; split_ifs <;> simp
@[simp] theorem Chip.signal_shadow : (c.signal s).shadow = c.shadow := by
  simp only [Chip.signal]; split_ifs <;> simp
@[simp] theorem Chip.signal_ctl : (c.signal s).ctl = c.ctl := by
  simp only [Chip.signal]; split_ifs <;> simp
@[simp] theorem Chip.signal_su : (c.signal s).su = c.su := by
  simp only [Chip.signal]; split_ifs <;> simp
@[simp] theorem Chip.signal_vlt : (c.signal s).vlt = c.vlt := by
  simp only [Chip.signal]; split_ifs <;> simp
@[simp] theorem Chip.signal_sax : (c.signal s).sax = c.sax := by
  simp only [Chip.signal]; split_ifs <;> simp
@[simp] theorem Chip.signal_eng : (c.signal s).eng = c.eng := by
  simp only [Chip.signal]; split_ifs <;> simp
@[simp] theorem Chip.signal_ord : (c.signal s).ord = c.ord := by
  simp only [Chip.signal]; split_ifs <;> simp
@[simp] theorem Chip.signal_evr : (c.signal s).evr = c.evr := by
  simp only [Chip.signal]; split_ifs <;> simp
@[simp] theorem Chip.signal_cnt : (c.signal s).cnt = c.cnt := by
  simp only [Chip.signal]; split_ifs <;> simp
@[simp] theorem Chip.signal_mem : (c.signal s).mem = c.mem := by
  simp only [Chip.signal]; split_ifs <;> simp
@[simp] theorem Chip.signal_ent : (c.signal s).ent = c.ent := by
  simp only [Chip.signal]; split_ifs <;> simp
@[simp] theorem Chip.signal_tim : (c.signal s).tim = c.tim := by
  simp only [Chip.signal]; split_ifs <;> simp
@[simp] theorem Chip.signal_pan : (c.signal s).pan = c.pan := by
  simp only [Chip.signal]; split_ifs <;> simp
@[simp] theorem Chip.signal_path : (c.signal s).path = c.path := by
  simp only [Chip.signal]; split_ifs <;> simp
@[simp] theorem Chip.signal_slu : (c.signal s).slu = c.slu := by
  simp only [Chip.signal]; split_ifs <;> simp
@[simp] theorem Chip.signal_fwd : (c.signal s).fwd = c.fwd := by
  simp only [Chip.signal]; split_ifs <;> simp
@[simp] theorem Chip.signal_buf : (c.signal s).buf = c.buf := by
  simp only [Chip.signal]; split_ifs <;> simp
@[simp] theorem Chip.signal_prs : (c.signal s).prs = c.prs := by
  simp only [Chip.signal]; split_ifs <;> simp
@[simp] theorem Chip.signal_flt : (c.signal s).flt = c.flt := by
  simp only [Chip.signal]; split_ifs <;> simp
@[simp] theorem Chip.signal_pnl : (c.signal s).pnl = c.pnl := by
  simp only [Chip.signal]; split_ifs <;> simp
@[simp] theorem Chip.signal_srd : (c.signal s).srd = c.srd := by
  simp only [Chip.signal]; split_ifs <;> simp
@[simp] theorem Chip.signal_free : (c.signal s).free = c.free := by
  simp only [Chip.signal]; split_ifs <;> simp
end

section
variable (c : Chip) (a : Nat) (bs : Bytes)
@[simp] theorem Chip.memWrite_regs : (c.memWrite a bs).regs = c.regs := by
  induction bs generalizing c a with
  | nil => rfl
  | cons b bs ih => rw [Chip.memWrite, ih]; rfl
@[simp] theorem Chip.memWrite_shadow : (c.memWrite a bs).shadow = c.shadow := by
  induction bs generalizing c a with
  | nil => rfl
  | cons b bs ih => rw [Chip.memWrite, ih]; rfl
@[simp] theorem Chip.memWrite_ctl : (c.memWrite a bs).ctl = c.ctl := by
  induction bs generalizing c a with
  | nil => rfl
  | cons b bs ih => rw [Chip.memWrite, ih]; rfl
@[simp] theorem Chip.memWrite_su : (c.memWrite a bs).su = c.su := by
  induction bs generalizing c a with
  | nil => rfl
  | cons b bs ih => rw [Chip.memWrite, ih]; rfl
@[simp] theorem Chip.memWrite_vlt : (c.memWrite a bs).vlt = c.vlt := by
  induction bs generalizing c a with
  | nil => rfl
  | cons b bs ih => rw [Chip.memWrite, ih]; rfl
@[simp] theorem Chip.memWrite_sax : (c.memWrite a bs).sax = c.sax := by
  induction bs generalizing c a with
  | nil => rfl
  | cons b bs ih => rw [Chip.memWrite, ih]; rfl
@[simp] theorem Chip.memWrite_eng : (c.memWrite a bs).eng = c.eng := by
  induction bs generalizing c a with
  | nil => rfl
  | cons b bs ih => rw [Chip.memWrite, ih]; rfl
@[simp] theorem Chip.memWrite_ord : (c.memWrite a bs).ord = c.ord := by
  induction bs generalizing c a with
  | nil => rfl
  | cons b bs ih => rw [Chip.memWrite, ih]; rfl
@[simp] theorem Chip.memWrite_evr : (c.memWrite a bs).evr = c.evr := by
  induction bs generalizing c a with
  | nil => rfl
  | cons b bs ih => rw [Chip.memWrite, ih]; rfl
@[simp] theorem Chip.memWrite_cnt : (c.memWrite a bs).cnt = c.cnt := by
  induction bs generalizing c a with
  | nil => rfl
  | cons b bs ih => rw [Chip.memWrite, ih]; rfl
@[simp] theorem Chip.memWrite_hif : (c.memWrite a bs).hif = c.hif := by
  induction bs generalizing c a with
  | nil => rfl
  | cons b bs ih => rw [Chip.memWrite, ih]; rfl
@[simp] theorem Chip.memWrite_ent : (c.memWrite a bs).ent = c.ent := by
  induction bs generalizing c a with
  | nil => rfl
  | cons b bs ih => rw [Chip.memWrite, ih]; rfl
@[simp] theorem Chip.memWrite_tim : (c.memWrite a bs).tim = c.tim := by
  induction bs generalizing c a with
  | nil => rfl
  | cons b bs ih => rw [Chip.memWrite, ih]; rfl
@[simp] theorem Chip.memWrite_pan : (c.memWrite a bs).pan = c.pan := by
  induction bs generalizing c a with
  | nil => rfl
  | cons b bs ih => rw [Chip.memWrite, ih]; rfl
@[simp] theorem Chip.memWrite_path : (c.memWrite a bs).path = c.path := by
  induction bs generalizing c a with
  | nil => rfl
  | cons b bs ih => rw [Chip.memWrite, ih]; rfl
@[simp] theorem Chip.memWrite_slu : (c.memWrite a bs).slu = c.slu := by
  induction bs generalizing c a with
  | nil => rfl
  | cons b bs ih => rw [Chip.memWrite, ih]; rfl
@[simp] theorem Chip.memWrite_fwd : (c.memWrite a bs).fwd = c.fwd := by
  induction bs generalizing c a with
  | nil => rfl
  | cons b bs ih => rw [Chip.memWrite, ih]; rfl
@[simp] theorem Chip.memWrite_buf : (c.memWrite a bs).buf = c.buf := by
  induction bs generalizing c a with
  | nil => rfl
  | cons b bs ih => rw [Chip.memWrite, ih]; rfl
@[simp] theorem Chip.memWrite_prs : (c.memWrite a bs).prs = c.prs := by
  induction bs generalizing c a with
  | nil => rfl
  | cons b bs ih => rw [Chip.memWrite, ih]; rfl
@[simp] theorem Chip.memWrite_flt : (c.memWrite a bs).flt = c.flt := by
  induction bs generalizing c a with
  | nil => rfl
  | cons b bs ih => rw [Chip.memWrite, ih]; rfl
@[simp] theorem Chip.memWrite_pnl : (c.memWrite a bs).pnl = c.pnl := by
  induction bs generalizing c a with
  | nil => rfl
  | cons b bs ih => rw [Chip.memWrite, ih]; rfl
@[simp] theorem Chip.memWrite_srd : (c.memWrite a bs).srd = c.srd := by
  induction bs generalizing c a with
  | nil => rfl
  | cons b bs ih => rw [Chip.memWrite, ih]; rfl
@[simp] theorem Chip.memWrite_free : (c.memWrite a bs).free = c.free := by
  induction bs generalizing c a with
  | nil => rfl
  | cons b bs ih => rw [Chip.memWrite, ih]; rfl
@[simp] theorem Chip.memWrite_out : (c.memWrite a bs).out = c.out := by
  induction bs generalizing c a with
  | nil => rfl
  | cons b bs ih => rw [Chip.memWrite, ih]; rfl
end

end Sys2Proof.Machine
end

