-- ==== Sys2Proof/Laws/Ops.lean ====
section
/-! SUPPORT. What each shared operation does: register fields, events, counters, DMA, program memory, OTP. -/
namespace Sys2Proof.Machine

/-! ### Control of a sequence -/

@[simp] theorem Chip.when_true (c : Chip) (f : Chip → Chip) : c.when true f = f c := rfl

@[simp] theorem Chip.when_false (c : Chip) (f : Chip → Chip) : c.when false f = c := rfl

@[simp] theorem Chip.each_nil {α : Type} (c : Chip) (f : Chip → α → Chip) : c.each [] f = c := rfl

@[simp] theorem Chip.each_cons {α : Type} (c : Chip) (x : α) (l : List α) (f : Chip → α → Chip) :
    c.each (x :: l) f = (f c x).each l f := rfl

/-- What every round of a sequence keeps, the sequence keeps. -/
theorem Chip.each_keeps {α β : Type} {l : List α} {f : Chip → α → Chip} {g : Chip → β}
    (h : ∀ c x, g (f c x) = g c) (c : Chip) : g (c.each l f) = g c := by
  induction l generalizing c with
  | nil => rfl
  | cons x l ih => rw [Chip.each_cons, ih, h]

/-- What an operation keeps, it keeps under a condition. -/
theorem Chip.when_keeps {β : Type} {f : Chip → Chip} {g : Chip → β} (h : ∀ c, g (f c) = g c) (c : Chip) (b : Bool) :
    g (c.when b f) = g c := by
  cases b
  · rfl
  · exact h c

/-! ### Register fields -/

/-- A written field reads what its width keeps of the value; every other key reads as before. -/
theorem Chip.getF_setF (c : Chip) (f g : Fld) (i j : List Nat) (v : Nat) (hw : f.w ≤ 32) :
    (c.setF f i v).getF g j = if g.key j = f.key i then v % 2 ^ f.w else c.getF g j := by
  simp only [Chip.getF, Chip.setF_regs, SMap.get_set]
  split
  · rw [BitVec.toNat_ofNat, Nat.mod_eq_of_lt]
    exact lt_of_lt_of_le (Nat.mod_lt _ (by positivity)) (Nat.pow_le_pow_right (by norm_num) hw)
  · rfl

theorem Chip.getF_setF_same (c : Chip) (f : Fld) (i : List Nat) (v : Nat) (hw : f.w ≤ 32) :
    (c.setF f i v).getF f i = v % 2 ^ f.w := by rw [Chip.getF_setF _ _ _ _ _ _ hw, if_pos rfl]

/-- A read of a field depends on the register file alone. -/
theorem Chip.getF_congr {c d : Chip} (h : c.regs = d.regs) (f : Fld) (i : List Nat) : c.getF f i = d.getF f i := by
  simp only [Chip.getF, h]

/-! ### Events -/

/-- An event whose code takes no token enters an intake with room. -/
theorem Chip.raise_intake {c : Chip} {code src : Nat} {items : List (Nat × Nat)} (hs : c.evr.started = true)
    (hl : limitable code = false) (hr : c.evr.intake.length < 256) :
    c.raise code src items = { c with evr := { c.evr with intake := c.evr.intake ++ [⟨code, src, items, false⟩] } } := by
  simp [Chip.raise, hs, hl, hr]

/-- Before the recorder starts, an event enters a start log with room (R397). -/
theorem Chip.raise_startLog {c : Chip} {code src : Nat} {items : List (Nat × Nat)} (hs : c.evr.started = false)
    (hr : c.evr.startLog.length < 16) :
    c.raise code src items =
      { c with evr := { c.evr with startLog := c.evr.startLog ++ [⟨code, src, items, true⟩] } } := by
  simp [Chip.raise, hs, hr]

/-! ### Statistics -/

theorem Chip.cntGet_cntSet (c : Chip) (s t : Bool) (i j : Nat) (v : DWord) :
    (c.cntSet s i v).cntGet t j = if t = s ∧ j = i then v else c.cntGet t j := by
  cases s <;> cases t <;> simp [Chip.cntSet, Chip.cntGet, SMap.get_set]

/-- A counter rises by its increment, modulo 2^64, and no other counter changes. -/
theorem Chip.cntGet_count (c : Chip) (s t : Bool) (i j n : Nat) :
    (c.count s i n).cntGet t j = if t = s ∧ j = i then c.cntGet t j + BitVec.ofNat 64 n else c.cntGet t j := by
  simp only [Chip.count, Chip.cntGet_cntSet]
  split
  · rename_i h; rw [h.1, h.2]
  · rfl

/-! ### DMA -/

/-- A write for a function whose DMA is allowed is issued at once. -/
theorem Chip.dma_allowed {c : Chip} {fn : Nat} {o : Output} (h : c.dmaAllowed fn = true) : c.dma fn o = c.emit o := by
  simp [Chip.dma, h]

/-- A write for a function whose DMA is gated is owed. -/
theorem Chip.dma_gated {c : Chip} {fn : Nat} {o : Output} (h : c.dmaAllowed fn = false) :
    c.dma fn o = { c with hif := { c.hif with owed := c.hif.owed ++ [(fn, o)] } } := by
  simp [Chip.dma, h]

theorem Chip.ring_setRing (c : Chip) (r q : Nat) (v : Ring) :
    (c.setRing r v).ring q = if q = r then v else c.ring q := by
  simp [Chip.ring, SMap.get_set]

/-! ### Program memory -/

theorem Chip.memGet_memSet (c : Chip) (a x : Nat) (b : Byte) :
    (c.memSet a b).memGet x = if x = a then b else c.memGet x := by
  simp [Chip.memGet, SMap.get_set]

/-- A write reads back its bytes, and every byte outside it reads as before. -/
theorem Chip.memGet_memWrite (c : Chip) (a x : Nat) (bs : Bytes) :
    (c.memWrite a bs).memGet x = if a ≤ x ∧ x < a + bs.length then bs.getD (x - a) 0 else c.memGet x := by
  induction bs generalizing c a with
  | nil => rw [Chip.memWrite, if_neg (by simp)]
  | cons b bs ih =>
    rw [Chip.memWrite, ih, Chip.memGet_memSet]
    simp only [List.length_cons]
    by_cases hx : x = a
    · subst hx
      rw [if_neg (by omega), if_pos rfl, if_pos (by omega)]
      simp
    · rw [if_neg hx]
      by_cases h : a + 1 ≤ x ∧ x < a + 1 + bs.length
      · rw [if_pos h, if_pos (by omega), show x - a = (x - (a + 1)) + 1 by omega]
        simp
      · rw [if_neg h, if_neg (by omega)]

theorem Memory.wf_memSet {c : Chip} (h : Memory.wf c.mem = true) (a : Nat) (b : Byte) :
    Memory.wf (c.memSet a b).mem = true := SMap.wf_set h

theorem Memory.wf_memWrite {c : Chip} (h : Memory.wf c.mem = true) (a : Nat) (bs : Bytes) :
    Memory.wf (c.memWrite a bs).mem = true := by
  induction bs generalizing c a with
  | nil => exact h
  | cons b bs ih => exact ih (Memory.wf_memSet h a b) (a + 1)

theorem Memory.wf_memClear {c : Chip} (h : Memory.wf c.mem = true) (a n : Nat) :
    Memory.wf (c.memClear a n).mem = true := SMap.wf_filter h

theorem Memory.wf_reset : Memory.wf State.reset.chip.mem = true := rfl

/-! ### OTP -/

theorem SMap.get_foldl_keep {α : Type} [DecidableEq α] {d : Nat → α} {p : α → Bool} (old : SMap α) (l : List Nat)
    (m : SMap α) (j : Nat) :
    SMap.get d (l.foldl (fun m i => if p (old.get d i) then SMap.set d m i (old.get d i) else m) m) j =
      if j ∈ l ∧ p (old.get d j) then old.get d j else m.get d j := by
  induction l generalizing m with
  | nil => simp
  | cons i l ih =>
    rw [List.foldl_cons, ih]
    by_cases hj : j = i
    · subst hj
      by_cases hs : p (old.get d j) = true <;> simp [hs]
    · by_cases hs : p (old.get d i) = true <;> simp [hs, hj, SMap.get_set_other hj]

@[simp] theorem otpHeld_self (x : Option Nat) (m : SMap OwnerSlot) : otpHeld x m m = m := by simp [otpHeld]

/-- An effect that programs no OTP is what the command does. -/
theorem Chip.after_eq {c : Chip} {f : Chip → Chip} (h : (f c).vlt.owners = c.vlt.owners) : c.after f = f c := by
  simp only [Chip.after, Chip.modVlt, h, otpHeld_self]
  rw [← h]

/-- A slot of OTP that was started, and whose programming had ended, reads as before; every other slot reads as the effect
left it. -/
theorem Chip.ownerSlot_after (c : Chip) (f : Chip → Chip) (i : Nat) :
    (c.after f).ownerSlot i =
      if (i < 16 ∧ c.otpOpen ≠ some i) ∧ (c.ownerSlot i).started then c.ownerSlot i else (f c).ownerSlot i := by
  by_cases h : (f c).vlt.owners = c.vlt.owners
  · rw [Chip.after_eq h]
    simp [Chip.ownerSlot, h]
  · have hk := SMap.get_foldl_keep (d := fun _ => ({} : OwnerSlot)) (p := OwnerSlot.started) c.vlt.owners
      ((List.range 16).filter (c.otpOpen ≠ some ·)) (f c).vlt.owners i
    simp only [List.mem_filter, List.mem_range, decide_eq_true_eq] at hk
    simp only [Chip.after, Chip.modVlt, Chip.ownerSlot, otpHeld, if_neg h]
    exact hk

end Sys2Proof.Machine
end

