-- ==== Sys2Proof/Laws/Step.lean ====
section
/-! SUPPORT. What every command does: it completes, by an effect on the block alone. -/
namespace Sys2Proof.Machine

/-- Every command is the lifting of an effect on the block. -/
theorem exec_eq_lift (i : Instr) : ∃ f : Chip → Chip, ∀ s, exec i s = lift f s := by
  cases i <;> exact ⟨_, fun _ => rfl⟩

/-- Where a command completes is where its effect leads. -/
theorem completes_iff {i : Instr} {s : State} {f : Chip → Chip} {post : Chip → Prop} (h : exec i s = lift f s) :
    completes i s post ↔ post (s.chip.after f) := by
  simp only [completes, h, lift, Host.Outcome.next.injEq, State.mk.injEq, and_true]
  exact ⟨fun ⟨c, hc, hp⟩ => hc ▸ hp, fun hp => ⟨_, rfl, hp⟩⟩

/-- The same, of an effect that programs no OTP. -/
theorem completes_of {i : Instr} {s : State} {f : Chip → Chip} {post : Chip → Prop} (h : exec i s = lift f s)
    (ho : (f s.chip).vlt.owners = s.chip.vlt.owners) (hp : post (f s.chip)) : completes i s post :=
  (completes_iff h).2 (by rwa [Chip.after_eq ho])

/-- A step on an empty queue is the idle cycle. -/
theorem step_empty {s : State} (h : s.pending = []) : step s = lift Chip.idle s := by
  simp only [step, h]

/-- A step is the command at the front, on the queue's rest. -/
theorem step_front {s : State} {i : Instr} {rest : List Instr} (h : s.pending = i :: rest) :
    step s = exec i { s with pending := rest } := by
  simp only [step, h]

/-- Every step is the lifting of an effect, on the queue without its front. -/
theorem step_eq_lift (s : State) : ∃ f : Chip → Chip, step s = lift f { s with pending := s.pending.tail } := by
  cases h : s.pending with
  | nil => exact ⟨Chip.idle, by rw [step_empty h]; simp [lift, h]⟩
  | cons i rest =>
    obtain ⟨f, hf⟩ := exec_eq_lift i
    exact ⟨f, by rw [step_front h, hf]; rfl⟩

end Sys2Proof.Machine
end

