-- ==== Sys2Proof/Laws/Fleli.lean ====
section
/-! SUPPORT. What the shared operations of the Fleli engines do: registers, the program counter, the performance
counters, and the issue of an instruction. -/
namespace Sys2Proof.Machine

/-! ### Engine state -/

@[simp] theorem Chip.ectxAt_setEctxAt (c : Chip) (j k : Nat) (x : EngCtx) :
    (c.setEctxAt k x).ectxAt j = if j = k then x else c.ectxAt j := by
  simp [Chip.ectxAt, Chip.setEctxAt, SMap.get_set]

@[simp] theorem Chip.ectx_setEctx (c : Chip) (e : Eng) (x : EngCtx) : (c.setEctx e x).ectx e = x := by
  simp [Chip.ectx, Chip.setEctx]

/-- A change of an engine's state changes that alone. -/
theorem Chip.setEctxAt_eq (c : Chip) (k : Nat) (x : EngCtx) :
    c.setEctxAt k x = { c with eng := { c.eng with ctx := SMap.set (fun _ => {}) c.eng.ctx k x } } := rfl

theorem Chip.setEctx_eq (c : Chip) (e : Eng) (x : EngCtx) :
    c.setEctx e x = { c with eng := { c.eng with ctx := SMap.set (fun _ => {}) c.eng.ctx (engKey e) x } } := rfl

@[simp] theorem gOf_zero (g : SMap DWord) : gOf g 0 = 0 := rfl

/-- A written register reads the value, every other as before; a write to g0 is discarded. -/
theorem Chip.gGet_gSet (c : Chip) (e : Eng) (r q : Fin 32) (v : DWord) :
    (c.gSet e r v).gGet e q = if q = r ∧ r.val ≠ 0 then v else c.gGet e q := by
  simp only [Chip.gSet, Chip.gGet]
  by_cases hr : r.val = 0
  · simp [hr]
  · rw [if_neg hr, Chip.ectx_setEctx]
    by_cases hq : q = r
    · subst hq; simp [gOf, hr]
    · have : q.val ≠ r.val := fun h => hq (Fin.ext h)
      simp [gOf, hq, SMap.get_set, this]

@[simp] theorem Chip.ectxAt_gSet (c : Chip) (e : Eng) (r : Fin 32) (v : DWord) {k : Nat} (h : k ≠ engKey e) :
    (c.gSet e r v).ectxAt k = c.ectxAt k := by
  simp only [Chip.gSet, Chip.setEctx]
  split
  · rfl
  · simp [h]

theorem Chip.ectx_gSet (c : Chip) (e : Eng) (r : Fin 32) (v : DWord) :
    (c.gSet e r v).ectx e = { c.ectx e with g := ((c.gSet e r v).ectx e).g } := by
  simp only [Chip.gSet]
  split
  · rfl
  · simp

@[simp] theorem Chip.gSet_pc (c : Chip) (e : Eng) (r : Fin 32) (v : DWord) :
    ((c.gSet e r v).ectx e).pc = (c.ectx e).pc := by rw [Chip.ectx_gSet]

@[simp] theorem Chip.gSet_issued (c : Chip) (e : Eng) (r : Fin 32) (v : DWord) :
    ((c.gSet e r v).ectx e).issued = (c.ectx e).issued := by rw [Chip.ectx_gSet]

@[simp] theorem Chip.gSet_stepOne (c : Chip) (e : Eng) (r : Fin 32) (v : DWord) :
    ((c.gSet e r v).ectx e).stepOne = (c.ectx e).stepOne := by rw [Chip.ectx_gSet]

/-! ### The performance counters -/

@[simp] theorem Chip.onlyEngine_refl (c : Chip) : c.onlyEngine c := ⟨rfl, fun _ => ⟨rfl, rfl, rfl⟩⟩

theorem Chip.onlyEngine_trans {a b c : Chip} (h : a.onlyEngine b) (g : b.onlyEngine c) : a.onlyEngine c := by
  obtain ⟨h1, h2⟩ := h
  obtain ⟨g1, g2⟩ := g
  refine ⟨?_, fun hd => ?_⟩
  · rw [g1, h1]
  · have hb : b.ctl.dbg = 0 := by rw [h1]; exact hd
    exact ⟨(g2 hb).1.trans (h2 hd).1, (g2 hb).2.1.trans (h2 hd).2.1, (g2 hb).2.2.trans (h2 hd).2.2⟩

/-- A change of the register file alone. -/
def Chip.onlyRegs (c d : Chip) : Prop := d = { c with regs := d.regs }

theorem Chip.onlyRegs_trans {a b c : Chip} (h : a.onlyRegs b) (g : b.onlyRegs c) : a.onlyRegs c := by
  simp only [Chip.onlyRegs] at *
  rw [g, h]

theorem Chip.setF_onlyRegs (c : Chip) (f : Fld) (i : List Nat) (v : Nat) : c.onlyRegs (c.setF f i v) := rfl

theorem Chip.each_onlyRegs {α : Type} {l : List α} {f : Chip → α → Chip} (h : ∀ (c : Chip) x, c.onlyRegs (f c x)) (c : Chip) :
    c.onlyRegs (c.each l f) := by
  induction l generalizing c with
  | nil => rfl
  | cons x l ih => exact Chip.onlyRegs_trans (h c x) (ih (f c x))

theorem Chip.when_onlyRegs {f : Chip → Chip} (h : ∀ c : Chip, c.onlyRegs (f c)) (c : Chip) (b : Bool) :
    c.onlyRegs (c.when b f) := by
  cases b
  · rfl
  · exact h c

theorem Chip.quadInc_onlyRegs (c : Chip) (q j : Nat) : c.onlyRegs (c.quadInc q j) := by
  simp only [Chip.quadInc]
  split_ifs
  · exact Chip.setF_onlyRegs _ _ _ _
  · exact Chip.onlyRegs_trans (Chip.setF_onlyRegs _ _ _ _)
      (Chip.onlyRegs_trans (Chip.setF_onlyRegs _ _ _ _)
        (Chip.when_onlyRegs (fun c => Chip.setF_onlyRegs c _ _ _) _ _))
  · exact Chip.onlyRegs_trans (Chip.setF_onlyRegs _ _ _ _) (Chip.setF_onlyRegs _ _ _ _)

theorem Chip.ladleInc_onlyRegs (c : Chip) (m i : Nat) : c.onlyRegs (c.ladleInc m i) := by
  simp only [Chip.ladleInc]
  exact Chip.onlyRegs_trans (Chip.setF_onlyRegs _ _ _ _) (Chip.onlyRegs_trans (Chip.setF_onlyRegs _ _ _ _)
    (Chip.when_onlyRegs (fun c => Chip.setF_onlyRegs c _ _ _) _ _))

theorem Chip.perfQuad_onlyRegs (c : Chip) (q ev : Nat) : c.onlyRegs (c.perfQuad q ev) := by
  simp only [Chip.perfQuad]
  split
  · rfl
  · exact Chip.each_onlyRegs (fun c x => Chip.when_onlyRegs (fun c => Chip.quadInc_onlyRegs c _ _) c _) c

/-- A performance event changes counters, and at D0 nothing (R350). -/
theorem Chip.perf_onlyRegs (c : Chip) (m ev : Nat) : c.onlyRegs (c.perf m ev) := by
  simp only [Chip.perf]
  split
  · rfl
  · exact Chip.onlyRegs_trans
      (Chip.each_onlyRegs (fun c x => Chip.when_onlyRegs (fun c => Chip.ladleInc_onlyRegs c _ _) c _) c)
      (Chip.perfQuad_onlyRegs _ _ _)

theorem Chip.perf_d0 {c : Chip} (h : c.ctl.dbg = 0) (m ev : Nat) : c.perf m ev = c := by
  simp [Chip.perf, h]

@[simp] theorem Chip.perf_eng (c : Chip) (m ev : Nat) : (c.perf m ev).eng = c.eng := by
  rw [Chip.perf_onlyRegs c m ev]

@[simp] theorem Chip.perf_mem (c : Chip) (m ev : Nat) : (c.perf m ev).mem = c.mem := by
  rw [Chip.perf_onlyRegs c m ev]

@[simp] theorem Chip.perf_vlt (c : Chip) (m ev : Nat) : (c.perf m ev).vlt = c.vlt := by
  rw [Chip.perf_onlyRegs c m ev]

theorem Chip.perf_onlyEngine (c : Chip) (m ev : Nat) : c.onlyEngine (c.perf m ev) := by
  refine ⟨?_, fun h => ?_⟩
  · rw [Chip.perf_onlyRegs c m ev]
  · rw [Chip.perf_d0 h]; exact ⟨rfl, rfl, rfl⟩

@[simp] theorem Chip.perf_ectx (c : Chip) (m ev : Nat) (e : Eng) : (c.perf m ev).ectx e = c.ectx e := by
  simp [Chip.ectx, Chip.ectxAt]

@[simp] theorem Chip.perf_ectxAt (c : Chip) (m ev k : Nat) : (c.perf m ev).ectxAt k = c.ectxAt k := by
  simp [Chip.ectxAt]

theorem Chip.setEctx_onlyEngine (c : Chip) (e : Eng) (x : EngCtx) : c.onlyEngine (c.setEctx e x) :=
  ⟨rfl, fun _ => ⟨rfl, rfl, rfl⟩⟩

theorem Chip.gSet_onlyEngine (c : Chip) (e : Eng) (r : Fin 32) (v : DWord) : c.onlyEngine (c.gSet e r v) := by
  simp only [Chip.gSet]
  split
  · exact Chip.onlyEngine_refl c
  · exact Chip.setEctx_onlyEngine c e _

@[simp] theorem Chip.gSet_frames (c : Chip) (e : Eng) (r : Fin 32) (v : DWord) :
    (c.gSet e r v).eng.frames = c.eng.frames := by
  simp only [Chip.gSet]
  split <;> rfl

@[simp] theorem Chip.gSet_mem (c : Chip) (e : Eng) (r : Fin 32) (v : DWord) : (c.gSet e r v).mem = c.mem := by
  simp only [Chip.gSet]
  split <;> rfl

theorem Chip.sampleTick_eq (c : Chip) (m : Nat) (y : Sampled) :
    c.sampleTick m y = { c with
      eng := { c.eng with
      sampleCount := (c.sampleTick m y).eng.sampleCount, sampled := (c.sampleTick m y).eng.sampled } } := by
  simp only [Chip.sampleTick]
  split <;> rfl

/-! ### The words of instructions (Table 12.4) -/

theorem toNat_append_eq {m n : Nat} (x : BitVec m) (y : BitVec n) : (x ++ y).toNat = x.toNat * 2 ^ n + y.toNat := by
  rw [BitVec.toNat_append, ← Nat.shiftLeft_add_eq_or_of_lt y.isLt, Nat.shiftLeft_eq]

theorem toNat_wordA {op func : Nat} (d a b : Fin 32) (ho : op < 64) (hf : func < 2048) :
    (wordA op func d a b).toNat = op * 2 ^ 26 + d.val * 2 ^ 21 + a.val * 2 ^ 16 + b.val * 2 ^ 11 + func := by
  simp only [wordA, toNat_append_eq, BitVec.toNat_ofNat]
  omega

theorem toNat_wordI {op : Nat} (d a : Fin 32) (imm : BitVec 16) (ho : op < 64) :
    (wordI op d a imm).toNat = op * 2 ^ 26 + d.val * 2 ^ 21 + a.val * 2 ^ 16 + imm.toNat := by
  simp only [wordI, toNat_append_eq, BitVec.toNat_ofNat]
  omega

theorem toNat_wordJ {op : Nat} (off : BitVec 26) (ho : op < 64) : (wordJ op off).toNat = op * 2 ^ 26 + off.toNat := by
  simp only [wordJ, toNat_append_eq, BitVec.toNat_ofNat]
  omega

theorem toNat_wordX {op xop : Nat} (d a b : Fin 32) (m : BitVec 5) (ho : op < 64) (hx : xop < 64) :
    (wordX op xop d a b m).toNat =
      op * 2 ^ 26 + d.val * 2 ^ 21 + a.val * 2 ^ 16 + b.val * 2 ^ 11 + xop * 2 ^ 5 + m.toNat := by
  simp only [wordX, toNat_append_eq, BitVec.toNat_ofNat]
  omega

/-- The fields of a word of form A are those it was built from. -/
theorem fields_wordA {op func : Nat} (d a b : Fin 32) (ho : op < 64) (hf : func < 2048) :
    (fields (wordA op func d a b)).op = op ∧ (fields (wordA op func d a b)).d = d ∧
    (fields (wordA op func d a b)).a = a ∧ (fields (wordA op func d a b)).b = b ∧
    (fields (wordA op func d a b)).func = func := by
  simp only [fields, BitVec.extractLsb'_toNat, toNat_wordA d a b ho hf, Nat.shiftRight_eq_div_pow, Fin.ext_iff,
    Fin.ofNat_eq_cast, Fin.val_natCast]
  omega

/-- The fields of a word of form I. -/
theorem fields_wordI {op : Nat} (d a : Fin 32) (imm : BitVec 16) (ho : op < 64) :
    (fields (wordI op d a imm)).op = op ∧ (fields (wordI op d a imm)).d = d ∧
    (fields (wordI op d a imm)).a = a ∧ (fields (wordI op d a imm)).imm = imm := by
  simp only [fields, BitVec.extractLsb'_toNat, toNat_wordI d a imm ho, Nat.shiftRight_eq_div_pow, Fin.ext_iff,
    Fin.ofNat_eq_cast, Fin.val_natCast, ← BitVec.toNat_inj]
  omega

/-- The fields of a word of form J. -/
theorem fields_wordJ {op : Nat} (off : BitVec 26) (ho : op < 64) :
    (fields (wordJ op off)).op = op ∧ (fields (wordJ op off)).far = off := by
  simp only [fields, BitVec.extractLsb'_toNat, toNat_wordJ off ho, Nat.shiftRight_eq_div_pow, ← BitVec.toNat_inj]
  omega

/-- The fields of a word of form X. -/
theorem fields_wordX {op xop : Nat} (d a b : Fin 32) (m : BitVec 5) (ho : op < 64) (hx : xop < 64) :
    (fields (wordX op xop d a b m)).op = op ∧ (fields (wordX op xop d a b m)).d = d ∧
    (fields (wordX op xop d a b m)).a = a ∧ (fields (wordX op xop d a b m)).b = b ∧
    (fields (wordX op xop d a b m)).xop = xop ∧ (fields (wordX op xop d a b m)).mod' = m := by
  simp only [fields, BitVec.extractLsb'_toNat, toNat_wordX d a b m ho hx, Nat.shiftRight_eq_div_pow, Fin.ext_iff,
    Fin.ofNat_eq_cast, Fin.val_natCast, ← BitVec.toNat_inj]
  omega

/-! ### The issue of an instruction -/

/-- An engine's state after the program counter has stepped and the instruction is counted. -/
def EngCtx.next (x : EngCtx) : EngCtx := { x with pc := x.pc + 4, issued := x.issued + 1, bpPassed := false }

@[simp] theorem EngCtx.next_g (x : EngCtx) : x.next.g = x.g := rfl
@[simp] theorem EngCtx.next_pc (x : EngCtx) : x.next.pc = x.pc + 4 := rfl
@[simp] theorem EngCtx.next_issued (x : EngCtx) : x.next.issued = x.issued + 1 := rfl
@[simp] theorem EngCtx.next_stepOne (x : EngCtx) : x.next.stepOne = x.stepOne := rfl
@[simp] theorem EngCtx.next_old (x : EngCtx) : x.next.old = x.old := rfl
@[simp] theorem EngCtx.next_running (x : EngCtx) : x.next.running = x.running := rfl

/-- The block with the instructions that its Ladles issued last (R293). -/
def Chip.setRecent (c : Chip) (r : SMap (List Issued)) : Chip := c.modEng fun g => { g with recent := r }

@[simp] theorem Chip.ectxAt_setRecent (c : Chip) (r : SMap (List Issued)) (k : Nat) : (c.setRecent r).ectxAt k = c.ectxAt k :=
  rfl

@[simp] theorem Chip.setRecent_ctx (c : Chip) (r : SMap (List Issued)) : (c.setRecent r).eng.ctx = c.eng.ctx := rfl

@[simp] theorem Chip.setRecent_frames (c : Chip) (r : SMap (List Issued)) : (c.setRecent r).eng.frames = c.eng.frames := rfl

theorem Chip.setRecent_onlyEngine (c : Chip) (r : SMap (List Issued)) : c.onlyEngine (c.setRecent r) :=
  ⟨rfl, fun _ => ⟨rfl, rfl, rfl⟩⟩

theorem Chip.advance_cases (c : Chip) (e : Eng) :
    c.advance e = c.setEctx e (c.ectx e).next ∨
    ∃ m ev y r, c.advance e = (((c.setEctx e (c.ectx e).next).setRecent r).perf m ev).sampleTick m y := by
  cases e with
  | ladle m t =>
    let r := latencyOf (fields ((c.codeWord (.ladle m t)).getD 0)) (c.loadSpace (.ladle m t) (fields ((c.codeWord (.ladle m t)).getD 0)))
    exact .inr ⟨m.val, 2, _,
      SMap.set (fun _ => []) c.eng.recent m.val ((⟨t.val, r.1, r.2⟩ :: c.recent m.val).take 40), by unfold Chip.advance; rfl⟩
  | ksq j => exact .inl rfl
  | order => exact .inl rfl
  | vigil => exact .inl rfl

theorem Chip.sampleTick_onlyEngine (c : Chip) (m : Nat) (y : Sampled) : c.onlyEngine (c.sampleTick m y) := by
  refine ⟨?_, fun h => ?_⟩
  · rw [Chip.sampleTick_eq c m y]
  · simp [Chip.sampleTick, h]

@[simp] theorem Chip.sampleTick_ctx (c : Chip) (m : Nat) (y : Sampled) : (c.sampleTick m y).eng.ctx = c.eng.ctx := by
  rw [Chip.sampleTick_eq c m y]

@[simp] theorem Chip.sampleTick_frames (c : Chip) (m : Nat) (y : Sampled) : (c.sampleTick m y).eng.frames = c.eng.frames := by
  rw [Chip.sampleTick_eq c m y]

/-- The program counter steps, the instruction is counted, and the performance counters may count. -/
theorem Chip.advance_spec (c : Chip) (e : Eng) :
    (c.advance e).ectx e = (c.ectx e).next ∧
    (∀ k, k ≠ engKey e → (c.advance e).ectxAt k = c.ectxAt k) ∧ c.onlyEngine (c.advance e) ∧
    (c.advance e).eng.frames = c.eng.frames := by
  have ho := Chip.setEctx_onlyEngine c e (c.ectx e).next
  have h1 : (c.setEctx e (c.ectx e).next).ectx e = (c.ectx e).next := Chip.ectx_setEctx _ _ _
  have h2 : ∀ k, k ≠ engKey e → (c.setEctx e (c.ectx e).next).ectxAt k = c.ectxAt k := fun k hk => by
    simp [Chip.setEctx, hk]
  have h3 : (c.setEctx e (c.ectx e).next).eng.frames = c.eng.frames := rfl
  have ha := Chip.advance_cases c e
  generalize c.setEctx e (c.ectx e).next = d at *
  rcases ha with h | ⟨m, ev, y, r, h⟩
  · rw [h]; exact ⟨h1, h2, ho, h3⟩
  · rw [h]
    have hr := Chip.setRecent_onlyEngine d r
    refine ⟨?_, fun k hk => ?_,
      Chip.onlyEngine_trans ho (Chip.onlyEngine_trans hr
        (Chip.onlyEngine_trans (Chip.perf_onlyEngine _ m ev) (Chip.sampleTick_onlyEngine _ m y))), ?_⟩
    · rw [← h1]; simp [Chip.ectx, Chip.ectxAt]
    · rw [← h2 k hk]; simp [Chip.ectxAt]
    · simp [h3]

/-- A Fleli command whose instruction stands at the program counter has the instruction's effect. -/
theorem fleli_ok {s : State} {e : Eng} {w : Word} {f : Chip → Chip} (h : s.chip.codeWord e = some w)
    (hl : wordLegal e w = true) : fleli e w f s = lift f s := by
  simp [fleli, lift, Chip.after, h, hl]

/-- A legal word that is not the command's: no instruction of the command is there to issue. -/
theorem fleli_other {s : State} {e : Eng} {v w : Word} {f : Chip → Chip} (h : s.chip.codeWord e = some v)
    (hl : wordLegal e v = true) (hn : v ≠ w) : fleli e w f s = lift id s := by
  simp [fleli, lift, Chip.after, h, hl, hn]

/-- An engine that can issue an instruction issues it: the body runs on the block whose program counter has
stepped. -/
theorem Chip.issue_ok {c : Chip} {e : Eng} {body : Body} {d : Chip} (h : c.canIssue e)
    (hb : body (c.advance e) = .ok d) : c.issue e body = d := by
  obtain ⟨h1, h4, h5, h6, h2, h3, h7⟩ := h
  have hr : ¬ c.runLimit e ≤ (c.ectx e).issued := by omega
  have hp : ¬ c.codeLen e < (c.ectx e).pc + 4 := by omega
  have ha : d.afterStep e false = d := by cases e <;> simp [Chip.afterStep, Chip.when]
  simp [Chip.issue, h1, h2, h3, h4, h7, hr, hp, hb, ha]

theorem Chip.advance_stepOne {c : Chip} {e : Eng} (h : c.canIssue e) : ((c.advance e).ectx e).stepOne = false := by
  rw [(Chip.advance_spec c e).1]; exact h.2.2.2.2.1

@[simp] theorem Chip.gGet_advance (c : Chip) (e : Eng) (r : Fin 32) : (c.advance e).gGet e r = c.gGet e r := by
  simp only [Chip.gGet]; rw [(Chip.advance_spec c e).1, EngCtx.next_g]

theorem Chip.stepped_advance (c : Chip) (e : Eng) : c.stepped (c.advance e) e ((c.ectx e).pc + 4) := by
  have h := Chip.advance_spec c e
  exact ⟨by rw [h.1, EngCtx.next_pc], by rw [h.1, EngCtx.next_issued], h.2.1⟩

/-- What a register write after the advance amounts to. -/
theorem Chip.computed_gSet (c : Chip) (e : Eng) (r : Fin 32) (v : DWord) : c.computed ((c.advance e).gSet e r v) e r v := by
  have h := Chip.advance_spec c e
  refine ⟨fun q => ?_, ⟨?_, ?_, fun k hk => ?_⟩, Chip.onlyEngine_trans h.2.2.1 (Chip.gSet_onlyEngine _ _ _ _), ?_⟩
  · rw [Chip.gGet_gSet]; simp
  · rw [Chip.gSet_pc, h.1, EngCtx.next_pc]
  · rw [Chip.gSet_issued, h.1, EngCtx.next_issued]
  · rw [Chip.ectxAt_gSet _ _ _ _ hk, h.2.1 k hk]
  · rw [Chip.gSet_frames, h.2.2.2]

/-- An instruction whose body writes one register. -/
theorem Chip.issue_gSet {c : Chip} {e : Eng} {body : Body} {r : Fin 32} {v : DWord} (h : c.canIssue e)
    (hb : body (c.advance e) = .ok ((c.advance e).gSet e r v)) :
    c.computed (c.issue e body) e r v := by
  rw [Chip.issue_ok h hb]
  exact Chip.computed_gSet c e r v

/-- An engine's instruction that changes engines alone programs no OTP. -/
theorem Chip.onlyEngine_owners {c d : Chip} (h : c.onlyEngine d) : d.vlt.owners = c.vlt.owners := by rw [h.1]

/-! ### What the advance leaves for the body -/

theorem Chip.onlyEngine_engImage {c d : Chip} {e : Eng} (h : c.onlyEngine d) (ho : (d.ectx e).old = (c.ectx e).old) :
    d.engImage e = c.engImage e := by
  have ht : d.eng.targets = c.eng.targets := by rw [h.1]
  have hk : d.eng.ksq = c.eng.ksq := by rw [h.1]
  cases e <;> simp only [Chip.engImage, Chip.targetOf, Chip.target, Chip.ksqCtx, ht, hk, ho]

@[simp] theorem Chip.engImage_advance (c : Chip) (e : Eng) : (c.advance e).engImage e = c.engImage e :=
  Chip.onlyEngine_engImage (Chip.advance_spec c e).2.2.1 (by rw [(Chip.advance_spec c e).1, EngCtx.next_old])

@[simp] theorem Chip.codeLen_advance (c : Chip) (e : Eng) : (c.advance e).codeLen e = c.codeLen e := by
  simp only [Chip.codeLen, Chip.engImage_advance]

@[simp] theorem Chip.engTable_advance (c : Chip) (e : Eng) : (c.advance e).engTable e = c.engTable e := by
  simp only [Chip.engTable, Chip.engImage_advance]

@[simp] theorem Chip.fctx_advance (c : Chip) (e : Eng) : (c.advance e).fctx e = c.fctx e := by
  simp only [Chip.fctx, (Chip.advance_spec c e).2.2.2]

@[simp] theorem Chip.mem_advance (c : Chip) (e : Eng) : (c.advance e).mem = c.mem := by
  rw [(Chip.advance_spec c e).2.2.1.1]

@[simp] theorem Chip.vlt_advance (c : Chip) (e : Eng) : (c.advance e).vlt = c.vlt := by
  rw [(Chip.advance_spec c e).2.2.1.1]

@[simp] theorem Chip.flt_advance (c : Chip) (e : Eng) : (c.advance e).flt = c.flt := by
  rw [(Chip.advance_spec c e).2.2.1.1]

@[simp] theorem Chip.ctl_advance (c : Chip) (e : Eng) : (c.advance e).ctl = c.ctl := by
  rw [(Chip.advance_spec c e).2.2.1.1]

@[simp] theorem Chip.ord_advance (c : Chip) (e : Eng) : (c.advance e).ord = c.ord := by
  rw [(Chip.advance_spec c e).2.2.1.1]

@[simp] theorem Chip.tim_advance (c : Chip) (e : Eng) : (c.advance e).tim = c.tim := by
  rw [(Chip.advance_spec c e).2.2.1.1]

@[simp] theorem Chip.memBytes_advance (c : Chip) (e : Eng) (a n : Nat) :
    (c.advance e).memBytes a n = c.memBytes a n := by
  simp only [Chip.memBytes, Chip.memGet, Chip.mem_advance]

@[simp] theorem Chip.ectx_advance (c : Chip) (e : Eng) : (c.advance e).ectx e = (c.ectx e).next :=
  (Chip.advance_spec c e).1

/-! ### Program counters -/

/-- A jump after the advance: the engine stands at the target. -/
theorem Chip.branched_setPc (c : Chip) (e : Eng) (t : Nat) : c.branched ((c.advance e).setPc e t) e t := by
  have h := Chip.advance_spec c e
  refine ⟨fun q => ?_, ⟨by simp [Chip.setPc], by simp [Chip.setPc], fun k hk => ?_⟩,
    Chip.onlyEngine_trans h.2.2.1 (Chip.setEctx_onlyEngine _ _ _), h.2.2.2⟩
  · simp [Chip.gGet, Chip.setPc]
  · simp [Chip.setPc, Chip.setEctx, hk, h.2.1 k hk]

theorem Chip.branched_advance (c : Chip) (e : Eng) : c.branched (c.advance e) e ((c.ectx e).pc + 4) := by
  have h := Chip.advance_spec c e
  exact ⟨fun q => by simp, Chip.stepped_advance c e, h.2.2.1, h.2.2.2⟩

theorem Chip.stepped_perf {c d : Chip} {e : Eng} {pc : Nat} (h : c.stepped d e pc) (m ev : Nat) :
    c.stepped (d.perf m ev) e pc := by
  obtain ⟨h1, h2, h3⟩ := h
  exact ⟨by simpa using h1, by simpa using h2, fun k hk => by simpa using h3 k hk⟩

@[simp] theorem Chip.gGet_perf (c : Chip) (m ev : Nat) (e : Eng) (r : Fin 32) : (c.perf m ev).gGet e r = c.gGet e r := by
  simp [Chip.gGet]

theorem Chip.branched_perf {c d : Chip} {e : Eng} {pc : Nat} (h : c.branched d e pc) (m ev : Nat) :
    c.branched (d.perf m ev) e pc :=
  ⟨fun q => by simpa using h.1 q, Chip.stepped_perf h.2.1 m ev,
    Chip.onlyEngine_trans h.2.2.1 (Chip.perf_onlyEngine _ _ _), by simpa using h.2.2.2⟩

theorem Chip.computed_perf {c d : Chip} {e : Eng} {r : Fin 32} {v : DWord} (h : c.computed d e r v) (m ev : Nat) :
    c.computed (d.perf m ev) e r v :=
  ⟨fun q => by simpa using h.1 q, Chip.stepped_perf h.2.1 m ev,
    Chip.onlyEngine_trans h.2.2.1 (Chip.perf_onlyEngine _ _ _), by simpa using h.2.2.2⟩

/-- What `jumpTo` does to a target inside the code. -/
theorem Chip.jumpTo_ok {c : Chip} {e : Eng} {t : Nat} (h : t < c.codeLen e) :
    ∃ d, c.jumpTo e t = .ok d ∧ (d = c.setPc e t ∨ ∃ m ev, d = (c.setPc e t).perf m ev) := by
  have h1 : ((t : Int) < 0) = False := by simp
  have h2 : ((c.codeLen e : Int) ≤ t) = False := by simp; omega
  cases e <;> simp only [Chip.jumpTo, h1, h2, decide_false, Bool.or_false, Int.toNat_natCast] <;> simp

end Sys2Proof.Machine
end

