-- ==== Sys2Proof/Tests/Slice0.lean ====
section
/-! SUPPORT. Tests of the model: ill-formed commands are refused, single steps have the effect the spec gives, and the
hypotheses of every statement of `Certificates.Slice0.Obligations` are met together by a state and operands written here
(`witness_<statement>`, one conjunct for each of its clauses that has hypotheses of its own). -/
namespace Sys2Proof.Machine

/-- The block in another mode. -/
def Chip.inM (c : Chip) (m : Mode) : Chip := c.modCtl fun k => { k with mode := m }

end Sys2Proof.Machine

namespace Sys2Proof.Tests
open Sys2Proof.Machine
set_option Elab.async false

/-- The block in ACTIVE, its recorder started and DMA of PF0 and function 3 allowed. -/
def base : Chip := { State.reset.chip with
  evr := { started := true }, ctl := { State.reset.chip.ctl with mode := .active },
  su := { State.reset.chip.su with done := true }, hif := { State.reset.chip.hif with bme := [(0, true), (3, true)] } }

/-- The base with a change made to it. -/
def on (f : Chip → Chip) : State := { chip := f base, pending := [] }

/-- An image of 16 instruction words and 16 table bytes. -/
def img : Image := {
  id := 1, budget := 64, entries := [0, 8], code := List.replicate 64 0, table := (List.range 16).map (BitVec.ofNat 8) }

/-- An engine runs at address 8 with some registers set. -/
def run (e : Eng) (g : SMap DWord) (f : Chip → Chip := id) : State := on fun c =>
  f ((c.setTarget (c.targetOf e) { active := some img }).setEctx e { running := true, pc := 8, issued := 2, g := g })

/-- The state with an instruction word at an engine's program counter. -/
def loaded (e : Eng) (w : Word) (s : State) : State :=
  let c := s.chip
  let x := c.target (c.targetOf e)
  let pc := (c.ectx e).pc
  { s with chip := c.setTarget (c.targetOf e) { x with
      active := x.active.map fun m => { m with code := m.code.take pc ++ leBytes 4 w.toNat ++ m.code.drop (pc + 4) } } }

/-! ### Commands that are not well-formed (`Instr.wf`) -/

theorem test_wf_register_write : (Instr.registerWrite 0 .bar0 0 0 5).wf = false ∧ (Instr.registerWrite 0 .bar0 0 4 5).wf = true := by decide
theorem test_wf_msix_holdoff_end : (Instr.msixHoldoffEnd 1 16).wf = false ∧ (Instr.msixHoldoffEnd 0 2047).wf = true := by decide
theorem test_wf_msix_unmask : (Instr.msixUnmask 1 16).wf = false ∧ (Instr.msixUnmask 1 15).wf = true := by decide
theorem test_wf_pcie_link_up : (Instr.pcieLinkUp 0 16 false true).wf = false ∧ (Instr.pcieLinkUp 6 5 true true).wf = false ∧
    (Instr.pcieLinkUp 6 16 true true).wf = true := by decide
theorem test_wf_owner_claim : (Instr.ownerClaim (List.replicate 96 0) 0 (List.replicate 96 0)).wf = false ∧
    (Instr.ownerClaim (List.replicate 97 0) 0 (List.replicate 96 0)).wf = true := by decide
theorem test_wf_owner_auth : (Instr.ownerAuth 4 5 0 (List.replicate 97 0) (List.replicate 95 0)).wf = false ∧
    (Instr.ownerAuth 4 5 0 (List.replicate 97 0) (List.replicate 96 0)).wf = true := by decide
theorem test_wf_key_derive : (Instr.keyDerive 0 0 0 [0, 0, 0] [0, 0, 0, 0] (List.replicate 240 0)).wf = false ∧
    (Instr.keyDerive 0 0 0 [0, 0, 0, 0] [0, 0, 0, 0] (List.replicate 240 0)).wf = true := by decide +kernel
theorem test_wf_attest : (Instr.attest 0 [] 0 0).wf = false ∧ (Instr.attest 0 (List.replicate 32 0) 0 0).wf = true := by decide
theorem test_wf_owner_transfer : (Instr.ownerTransfer (List.replicate 47 0)).wf = false ∧
    (Instr.ownerTransfer (List.replicate 48 0)).wf = true := by decide
theorem test_wf_keepalive_receive : (Instr.keepaliveReceive 0 ⟨1, 7⟩ 0 12 false 0).wf = false ∧
    (Instr.keepaliveReceive 0 ⟨1, 7⟩ 0 11 false 0).wf = true := by decide
theorem test_wf_relay_receive : (Instr.relayReceive (List.replicate 12289 0)).wf = false ∧
    (Instr.relayReceive (List.replicate 12288 0)).wf = true := by decide +kernel
theorem test_wf_fault_report : (Instr.faultReport 1 63 0 0 true).wf = false ∧
    (Instr.faultReport 1 75 0 0 true).wf = true := by decide
theorem test_wf_table_sram_ecc : (Instr.tableSramEcc 1 32768).wf = false ∧ (Instr.tableSramEcc 0 65535).wf = true := by decide
theorem test_wf_port_up : (Instr.portUp 16 1).wf = false ∧ (Instr.portUp 15 3).wf = true := by decide
theorem test_wf_port_down : (Instr.portDown 18 3 0 0).wf = false ∧ (Instr.portDown 18 0 0 0).wf = true := by decide
theorem test_wf_fec_burst : (Instr.fecBurst 17 2 0 5).wf = false ∧ (Instr.fecBurst 3 2 0 5).wf = true := by decide

/-! ### Values that the spec works out -/

/-- Chapter 16's takeover example: grades 7, preferences 8 and 4, roles 0 and 1 give the claims 0xF0 and 0xE9. -/
theorem test_claim_example :
    ((on fun c => (c.setF F.PRS_PAIR_CFG_pref [] 8).modPrs fun p => { p with grade := 7 }).chip.ownClaim = 0xF0) ∧
    ((on fun c => (c.setF F.PRS_PAIR_CFG_pref [] 4).modPrs fun p => { p with grade := 7, pairRole := true }).chip.ownClaim = 0xE9) := by
  decide +kernel

/-- Chapter 9's shaper example: 10 Gb/s with k = 3 adds 1,280 bytes for each refill, 2 Gb/s adds 256 (a level counts 1 / 2^32 of a byte). -/
theorem test_refill_example : refillBucket (-3000 * 2 ^ 32) 10000000000 16000 1024 2048 = -1720 * 2 ^ 32 ∧
    refillBucket (-3000 * 2 ^ 32) 2000000000 16000 1024 2048 = -2744 * 2 ^ 32 := by decide +kernel

/-- The state after a command that answers a next state. -/
def after (i : Instr) (s : State) : State := match exec i s with
  | .next t => t
  | _ => s

/-- R303: ADD wraps at 64 bits. -/
theorem test_add_wraps :
    (after (.add (.ladle 64 1) 3 1 2) (loaded (.ladle 64 1) (wordA 0x00 0x000 3 1 2) (run (.ladle 64 1) [(1, 0xFFFFFFFFFFFFFFF0), (2, 0x13)]))).chip.gGet (.ladle 64 1) 3 = 3 := by
  decide +kernel

/-- R303: SUB takes the second source from the first. -/
theorem test_sub_order :
    (after (.sub .order 1 1 2) (loaded .order (wordA 0x00 0x001 1 1 2) (run .order [(1, 3), (2, 5)]))).chip.gGet .order 1 = 0xFFFFFFFFFFFFFFFE := by decide +kernel

/-- R303: MULHU gives the high half of the unsigned product. -/
theorem test_mulhu :
    (after (.mulhu .order 3 1 2) (loaded .order (wordA 0x00 0x011 3 1 2) (run .order [(1, 0xFFFFFFFFFFFFFFFF), (2, 2)]))).chip.gGet .order 3 = 1 := by decide +kernel

/-- R304: SRAI copies the sign. -/
theorem test_srai_sign :
    (after (.srai (.ksq 1) 3 1 4) (loaded (.ksq 1) (wordI 0x0B 3 1 4) (run (.ksq 1) [(1, 0x8000000000000000)]))).chip.gGet (.ksq 1) 3 = 0xF800000000000000 := by
  decide +kernel

/-- R304: SLTIU compares unsigned with the sign-extended immediate. -/
theorem test_sltiu_unsigned :
    (after (.sltiu .order 3 1 0xFFFF) (loaded .order (wordI 0x07 3 1 0xFFFF) (run .order [(1, 5)]))).chip.gGet .order 3 = 1 := by decide +kernel

/-- R302: register 0 reads 0 and discards a write. -/
theorem test_register_zero :
    (after (.add .order 0 1 2) (loaded .order (wordA 0x00 0x000 0 1 2) (run .order [(1, 3), (2, 5)]))).chip.gGet .order 0 = 0 := by decide +kernel

/-- A step takes the front command and leaves the rest. -/
theorem test_step_front :
    (match step { chip := base, pending := [.masterFound, .promote] } with
      | .next t => decide (t.pending = [.promote])
      | _ => false) = true := by decide +kernel

/-- An empty queue: one cycle of CK_TIME passes. -/
theorem test_step_idle :
    (match step { chip := base, pending := [] } with
      | .next t => decide (t.chip.tim.elapsed = base.tim.elapsed + 1)
      | _ => false) = true := by decide +kernel

/-- The hypotheses of `Obligations.QueueStep` are met: a command waits, none waits, time runs or stands. -/
theorem witness_QueueStep :
    (∃ (s : State) (i : Instr) (rest : List Instr), s.pending = i :: rest) ∧
    (∃ s : State, s.pending = [] ∧ s.chip.powered = true ∧ s.chip.su.resetHeld = false) ∧
    (∃ s : State, s.pending = [] ∧ (s.chip.powered = false ∨ s.chip.su.resetHeld = true)) :=
  ⟨⟨{ chip := base, pending := [.promote] }, .promote, [], rfl⟩, ⟨on id, by decide +kernel⟩,
    ⟨on fun c => c.modSu fun u => { u with resetHeld := true }, by decide +kernel⟩⟩

/-- The hypotheses of `Obligations.OwnershipIsPermanent` are met: an owned part takes a step. -/
theorem witness_OwnershipIsPermanent :
    ∃ (s s' : State) (i : Fin 16) (hash : BitVec 384), s.ownedBy i.val hash ∧ step s = .next s' :=
  ⟨on fun c => c.modVlt fun v => { v with owners := [(3, { started := true, done := true, hash := 7 })] }, _, 3, 7,
    ⟨by decide +kernel, by decide +kernel, by decide +kernel⟩, rfl⟩

/-- Words of the classification pass that chapter 12 lists. -/
theorem test_listing_words :
    codeOf (.lui (.ladle 0 0) 7 0x2000) = some (.ladle 0 0, 0x20E02000) ∧ codeOf (.srli (.ladle 0 0) 9 2 16) = some (.ladle 0 0, 0x29220010) ∧
    codeOf (.beq (.ladle 0 0) 5 0 3) = some (.ladle 0 0, 0x80A00003) ∧ codeOf (.l16u (.ladle 0 0) 6 7 14) = some (.ladle 0 0, 0x44C7000E) ∧
    codeOf (.lkpFwd (.ladle 0 0) 8 6 9 []) = some (.ladle 0 0, 0xC1064900) ∧ codeOf (.lkpSa (.ladle 0 0) 13 12 true) = some (.ladle 0 0, 0xC1AC0121) ∧
    codeOf (.mtr (.ladle 0 0) 14 12 0) = some (.ladle 0 0, 0xC1CC0200) ∧ codeOf (.cseal (.ladle 0 0) 13) = some (.ladle 0 0, 0xC00D0180) ∧
    codeOf (.femit (.ladle 0 0) 8 0 false) = some (.ladle 0 0, 0xC0080080) ∧ codeOf (.fdrop (.ladle 0 0)) = some (.ladle 0 0, 0xC00000A0) := by
  decide +kernel

/-- R302: a word with a bit set in a field that its instruction does not use is no instruction. -/
theorem test_unused_field :
    wordLegal (.ladle 0 0) 0xC00000A0 = true ∧ wordLegal (.ladle 0 0) 0xC02000A0 = false ∧ wordLegal .order 0xC00000A0 = false := by
  decide +kernel

namespace W01

def wAlu := run (.ladle 64 1) [(1, 0xFFFFFFFFFFFFFFF0), (2, 3)]

/-- The hypotheses of `Obligations.AluResults`, clause by clause, are met together. -/
theorem witness_AluResults :
    (∃ (s : State) (e : Eng) (d : Fin 32) (a : Fin 32) (b : Fin 32), s.chip.canIssue e ∧ e.has [d, a, b] = true ∧ s.chip.fetched
      (Instr.add e d a b)) ∧
    (∃ (s : State) (e : Eng) (d : Fin 32) (a : Fin 32) (b : Fin 32), s.chip.canIssue e ∧ e.has [d, a, b] = true ∧ s.chip.fetched
      (Instr.sub e d a b)) ∧
    (∃ (s : State) (e : Eng) (d : Fin 32) (a : Fin 32) (b : Fin 32), s.chip.canIssue e ∧ e.has [d, a, b] = true ∧ s.chip.fetched
      (Instr.and_ e d a b)) ∧
    (∃ (s : State) (e : Eng) (d : Fin 32) (a : Fin 32) (b : Fin 32), s.chip.canIssue e ∧ e.has [d, a, b] = true ∧ s.chip.fetched
      (Instr.or_ e d a b)) ∧
    (∃ (s : State) (e : Eng) (d : Fin 32) (a : Fin 32) (b : Fin 32), s.chip.canIssue e ∧ e.has [d, a, b] = true ∧ s.chip.fetched
      (Instr.xor_ e d a b)) ∧
    (∃ (s : State) (e : Eng) (d : Fin 32) (a : Fin 32) (b : Fin 32), s.chip.canIssue e ∧ e.has [d, a, b] = true ∧ s.chip.fetched
      (Instr.sll e d a b)) ∧
    (∃ (s : State) (e : Eng) (d : Fin 32) (a : Fin 32) (b : Fin 32), s.chip.canIssue e ∧ e.has [d, a, b] = true ∧ s.chip.fetched
      (Instr.srl e d a b)) ∧
    (∃ (s : State) (e : Eng) (d : Fin 32) (a : Fin 32) (b : Fin 32), s.chip.canIssue e ∧ e.has [d, a, b] = true ∧ s.chip.fetched
      (Instr.slt e d a b)) ∧
    (∃ (s : State) (e : Eng) (d : Fin 32) (a : Fin 32) (b : Fin 32), s.chip.canIssue e ∧ e.has [d, a, b] = true ∧ s.chip.fetched
      (Instr.sltu e d a b)) ∧
    (∃ (s : State) (e : Eng) (d : Fin 32) (a : Fin 32) (b : Fin 32), s.chip.canIssue e ∧ e.has [d, a, b] = true ∧ s.chip.fetched
      (Instr.seq e d a b)) ∧
    (∃ (s : State) (e : Eng) (d : Fin 32) (a : Fin 32) (b : Fin 32), s.chip.canIssue e ∧ e.onVigil = false ∧ s.chip.fetched
      (Instr.sra e d a b)) ∧
    (∃ (s : State) (e : Eng) (d : Fin 32) (a : Fin 32) (b : Fin 32), s.chip.canIssue e ∧ e.onVigil = false ∧ s.chip.fetched
      (Instr.min_ e d a b)) ∧
    (∃ (s : State) (e : Eng) (d : Fin 32) (a : Fin 32) (b : Fin 32), s.chip.canIssue e ∧ e.onVigil = false ∧ s.chip.fetched
      (Instr.minu e d a b)) ∧
    (∃ (s : State) (e : Eng) (d : Fin 32) (a : Fin 32) (b : Fin 32), s.chip.canIssue e ∧ e.onVigil = false ∧ s.chip.fetched
      (Instr.max_ e d a b)) ∧
    (∃ (s : State) (e : Eng) (d : Fin 32) (a : Fin 32) (b : Fin 32), s.chip.canIssue e ∧ e.onVigil = false ∧ s.chip.fetched
      (Instr.maxu e d a b)) ∧
    (∃ (s : State) (e : Eng) (d : Fin 32) (a : Fin 32) (b : Fin 32), s.chip.canIssue e ∧ e.onVigil = false ∧ s.chip.fetched
      (Instr.mul e d a b)) ∧
    (∃ (s : State) (e : Eng) (d : Fin 32) (a : Fin 32) (b : Fin 32), s.chip.canIssue e ∧ e.onVigil = false ∧ s.chip.fetched
      (Instr.mulhu e d a b)) ∧
    (∃ (s : State) (e : Eng) (d : Fin 32) (a : Fin 32), s.chip.canIssue e ∧ e.onVigil = false ∧ s.chip.fetched (Instr.popc e d
      a)) ∧
    (∃ (s : State) (e : Eng) (d : Fin 32) (a : Fin 32), s.chip.canIssue e ∧ e.onVigil = false ∧ s.chip.fetched (Instr.bswap e d
      a)) ∧
    (∃ (s : State) (e : Eng) (d : Fin 32) (a : Fin 32), s.chip.canIssue e ∧ e.onVigil = false ∧ s.chip.fetched (Instr.clz e d
      a)) ∧
    (∃ (s : State) (e : Eng) (d : Fin 32) (a : Fin 32) (b : Fin 32), s.chip.canIssue e ∧ e.onVigil = false ∧ s.chip.fetched
      (Instr.ext e d a b)) ∧
    (∃ (s : State) (e : Eng) (d : Fin 32) (a : Fin 32) (imm : BitVec 16), s.chip.canIssue e ∧ e.has [d, a] = true ∧
      s.chip.fetched (Instr.addi e d a imm)) ∧
    (∃ (s : State) (e : Eng) (d : Fin 32) (a : Fin 32) (imm : BitVec 16), s.chip.canIssue e ∧ e.has [d, a] = true ∧
      s.chip.fetched (Instr.andi e d a imm)) ∧
    (∃ (s : State) (e : Eng) (d : Fin 32) (a : Fin 32) (imm : BitVec 16), s.chip.canIssue e ∧ e.has [d, a] = true ∧
      s.chip.fetched (Instr.ori e d a imm)) ∧
    (∃ (s : State) (e : Eng) (d : Fin 32) (a : Fin 32) (imm : BitVec 16), s.chip.canIssue e ∧ e.has [d, a] = true ∧
      s.chip.fetched (Instr.xori e d a imm)) ∧
    (∃ (s : State) (e : Eng) (d : Fin 32) (a : Fin 32) (imm : BitVec 16), s.chip.canIssue e ∧ e.has [d, a] = true ∧
      s.chip.fetched (Instr.lui e d imm)) ∧
    (∃ (s : State) (e : Eng) (d : Fin 32) (a : Fin 32) (sh : BitVec 6), s.chip.canIssue e ∧ e.has [d, a] = true ∧ s.chip.fetched
      (Instr.slli e d a sh)) ∧
    (∃ (s : State) (e : Eng) (d : Fin 32) (a : Fin 32) (sh : BitVec 6), s.chip.canIssue e ∧ e.has [d, a] = true ∧ s.chip.fetched
      (Instr.srli e d a sh)) ∧
    (∃ (s : State) (e : Eng) (d : Fin 32) (a : Fin 32) (imm : BitVec 16), s.chip.canIssue e ∧ e.onVigil = false ∧ s.chip.fetched
      (Instr.slti e d a imm)) ∧
    (∃ (s : State) (e : Eng) (d : Fin 32) (a : Fin 32) (imm : BitVec 16), s.chip.canIssue e ∧ e.onVigil = false ∧ s.chip.fetched
      (Instr.sltiu e d a imm)) ∧
    (∃ (s : State) (e : Eng) (d : Fin 32) (a : Fin 32) (sh : BitVec 6), s.chip.canIssue e ∧ e.onVigil = false ∧ s.chip.fetched
      (Instr.srai e d a sh)) :=
  ⟨⟨(loaded (Eng.ladle 64 1) (wordA 0 0 3 1 2) wAlu), (.ladle 64 1), 3, 1, 2, by and_intros <;> first | decide +kernel | (unfold Chip.canIssue; decide +kernel) | exact ⟨_, _, rfl, by decide +kernel⟩⟩,
   ⟨(loaded (Eng.ladle 64 1) (wordA 0 1 3 1 2) wAlu), (.ladle 64 1), 3, 1, 2, by and_intros <;> first | decide +kernel | (unfold Chip.canIssue; decide +kernel) | exact ⟨_, _, rfl, by decide +kernel⟩⟩,
   ⟨(loaded (Eng.ladle 64 1) (wordA 0 2 3 1 2) wAlu), (.ladle 64 1), 3, 1, 2, by and_intros <;> first | decide +kernel | (unfold Chip.canIssue; decide +kernel) | exact ⟨_, _, rfl, by decide +kernel⟩⟩,
   ⟨(loaded (Eng.ladle 64 1) (wordA 0 3 3 1 2) wAlu), (.ladle 64 1), 3, 1, 2, by and_intros <;> first | decide +kernel | (unfold Chip.canIssue; decide +kernel) | exact ⟨_, _, rfl, by decide +kernel⟩⟩,
   ⟨(loaded (Eng.ladle 64 1) (wordA 0 4 3 1 2) wAlu), (.ladle 64 1), 3, 1, 2, by and_intros <;> first | decide +kernel | (unfold Chip.canIssue; decide +kernel) | exact ⟨_, _, rfl, by decide +kernel⟩⟩,
   ⟨(loaded (Eng.ladle 64 1) (wordA 0 5 3 1 2) wAlu), (.ladle 64 1), 3, 1, 2, by and_intros <;> first | decide +kernel | (unfold Chip.canIssue; decide +kernel) | exact ⟨_, _, rfl, by decide +kernel⟩⟩,
   ⟨(loaded (Eng.ladle 64 1) (wordA 0 6 3 1 2) wAlu), (.ladle 64 1), 3, 1, 2, by and_intros <;> first | decide +kernel | (unfold Chip.canIssue; decide +kernel) | exact ⟨_, _, rfl, by decide +kernel⟩⟩,
   ⟨(loaded (Eng.ladle 64 1) (wordA 0 8 3 1 2) wAlu), (.ladle 64 1), 3, 1, 2, by and_intros <;> first | decide +kernel | (unfold Chip.canIssue; decide +kernel) | exact ⟨_, _, rfl, by decide +kernel⟩⟩,
   ⟨(loaded (Eng.ladle 64 1) (wordA 0 9 3 1 2) wAlu), (.ladle 64 1), 3, 1, 2, by and_intros <;> first | decide +kernel | (unfold Chip.canIssue; decide +kernel) | exact ⟨_, _, rfl, by decide +kernel⟩⟩,
   ⟨(loaded (Eng.ladle 64 1) (wordA 0 10 3 1 2) wAlu), (.ladle 64 1), 3, 1, 2, by and_intros <;> first | decide +kernel | (unfold Chip.canIssue; decide +kernel) | exact ⟨_, _, rfl, by decide +kernel⟩⟩,
   ⟨(loaded (Eng.ladle 64 1) (wordA 0 7 3 1 2) wAlu), (.ladle 64 1), 3, 1, 2, by and_intros <;> first | decide +kernel | (unfold Chip.canIssue; decide +kernel) | exact ⟨_, _, rfl, by decide +kernel⟩⟩,
   ⟨(loaded (Eng.ladle 64 1) (wordA 0 11 3 1 2) wAlu), (.ladle 64 1), 3, 1, 2, by and_intros <;> first | decide +kernel | (unfold Chip.canIssue; decide +kernel) | exact ⟨_, _, rfl, by decide +kernel⟩⟩,
   ⟨(loaded (Eng.ladle 64 1) (wordA 0 12 3 1 2) wAlu), (.ladle 64 1), 3, 1, 2, by and_intros <;> first | decide +kernel | (unfold Chip.canIssue; decide +kernel) | exact ⟨_, _, rfl, by decide +kernel⟩⟩,
   ⟨(loaded (Eng.ladle 64 1) (wordA 0 13 3 1 2) wAlu), (.ladle 64 1), 3, 1, 2, by and_intros <;> first | decide +kernel | (unfold Chip.canIssue; decide +kernel) | exact ⟨_, _, rfl, by decide +kernel⟩⟩,
   ⟨(loaded (Eng.ladle 64 1) (wordA 0 14 3 1 2) wAlu), (.ladle 64 1), 3, 1, 2, by and_intros <;> first | decide +kernel | (unfold Chip.canIssue; decide +kernel) | exact ⟨_, _, rfl, by decide +kernel⟩⟩,
   ⟨(loaded (Eng.ladle 64 1) (wordA 0 16 3 1 2) wAlu), (.ladle 64 1), 3, 1, 2, by and_intros <;> first | decide +kernel | (unfold Chip.canIssue; decide +kernel) | exact ⟨_, _, rfl, by decide +kernel⟩⟩,
   ⟨(loaded (Eng.ladle 64 1) (wordA 0 17 3 1 2) wAlu), (.ladle 64 1), 3, 1, 2, by and_intros <;> first | decide +kernel | (unfold Chip.canIssue; decide +kernel) | exact ⟨_, _, rfl, by decide +kernel⟩⟩,
   ⟨(loaded (Eng.ladle 64 1) (wordA 0 19 3 1 0) wAlu), (.ladle 64 1), 3, 1, by and_intros <;> first | decide +kernel | (unfold Chip.canIssue; decide +kernel) | exact ⟨_, _, rfl, by decide +kernel⟩⟩,
   ⟨(loaded (Eng.ladle 64 1) (wordA 0 20 3 1 0) wAlu), (.ladle 64 1), 3, 1, by and_intros <;> first | decide +kernel | (unfold Chip.canIssue; decide +kernel) | exact ⟨_, _, rfl, by decide +kernel⟩⟩,
   ⟨(loaded (Eng.ladle 64 1) (wordA 0 18 3 1 0) wAlu), (.ladle 64 1), 3, 1, by and_intros <;> first | decide +kernel | (unfold Chip.canIssue; decide +kernel) | exact ⟨_, _, rfl, by decide +kernel⟩⟩,
   ⟨(loaded (Eng.ladle 64 1) (wordA 0 21 3 1 2) (run (.ladle 64 1) [(1, 0xFEDCBA9876543210), (2, 0x304)])), (.ladle 64 1), 3, 1, 2, by and_intros <;> first | decide +kernel | (unfold Chip.canIssue; decide +kernel) | exact ⟨_, _, rfl, by decide +kernel⟩⟩,
   ⟨(loaded (Eng.ladle 64 1) (wordI 2 3 1 32769) wAlu), (.ladle 64 1), 3, 1, 0x8001, by and_intros <;> first | decide +kernel | (unfold Chip.canIssue; decide +kernel) | exact ⟨_, _, rfl, by decide +kernel⟩⟩,
   ⟨(loaded (Eng.ladle 64 1) (wordI 3 3 1 32769) wAlu), (.ladle 64 1), 3, 1, 0x8001, by and_intros <;> first | decide +kernel | (unfold Chip.canIssue; decide +kernel) | exact ⟨_, _, rfl, by decide +kernel⟩⟩,
   ⟨(loaded (Eng.ladle 64 1) (wordI 4 3 1 32769) wAlu), (.ladle 64 1), 3, 1, 0x8001, by and_intros <;> first | decide +kernel | (unfold Chip.canIssue; decide +kernel) | exact ⟨_, _, rfl, by decide +kernel⟩⟩,
   ⟨(loaded (Eng.ladle 64 1) (wordI 5 3 1 32769) wAlu), (.ladle 64 1), 3, 1, 0x8001, by and_intros <;> first | decide +kernel | (unfold Chip.canIssue; decide +kernel) | exact ⟨_, _, rfl, by decide +kernel⟩⟩,
   ⟨(loaded (Eng.ladle 64 1) (wordI 8 3 0 32769) wAlu), (.ladle 64 1), 3, 1, 0x8001, by and_intros <;> first | decide +kernel | (unfold Chip.canIssue; decide +kernel) | exact ⟨_, _, rfl, by decide +kernel⟩⟩,
   ⟨(loaded (Eng.ladle 64 1) (wordI 9 3 1 5) wAlu), (.ladle 64 1), 3, 1, 5, by and_intros <;> first | decide +kernel | (unfold Chip.canIssue; decide +kernel) | exact ⟨_, _, rfl, by decide +kernel⟩⟩,
   ⟨(loaded (Eng.ladle 64 1) (wordI 10 3 1 5) wAlu), (.ladle 64 1), 3, 1, 5, by and_intros <;> first | decide +kernel | (unfold Chip.canIssue; decide +kernel) | exact ⟨_, _, rfl, by decide +kernel⟩⟩,
   ⟨(loaded (Eng.ladle 64 1) (wordI 6 3 1 32769) wAlu), (.ladle 64 1), 3, 1, 0x8001, by and_intros <;> first | decide +kernel | (unfold Chip.canIssue; decide +kernel) | exact ⟨_, _, rfl, by decide +kernel⟩⟩,
   ⟨(loaded (Eng.ladle 64 1) (wordI 7 3 1 32769) wAlu), (.ladle 64 1), 3, 1, 0x8001, by and_intros <;> first | decide +kernel | (unfold Chip.canIssue; decide +kernel) | exact ⟨_, _, rfl, by decide +kernel⟩⟩,
   ⟨(loaded (Eng.ladle 64 1) (wordI 11 3 1 5) wAlu), (.ladle 64 1), 3, 1, 5, by and_intros <;> first | decide +kernel | (unfold Chip.canIssue; decide +kernel) | exact ⟨_, _, rfl, by decide +kernel⟩⟩⟩

end W01

namespace W02

def wBr := run (.ladle 64 1) [(1, 0xFFFFFFFFFFFFFFF0), (2, 3)]
def wEq := run (.ladle 64 1) [(1, 3), (2, 3)]
def wJr := run (.ladle 64 1) [(1, 60), (2, 3)]
def wLt := run (.ksq 0) [(1, 0x30000010)] fun c => c.setTarget 4 { active := some img }
def wAt := run (.ladle 64 1) [(1, 0x101FFFF8), (2, 7)] fun c => c.memWrite (scratchBase 1 + 0x1FFFF8) [0x81, 0x92, 0xA3, 0xB4, 0xC5, 0xD6, 0xE7, 0xF8]
def wSl := run .order [(1, 0x4000), (3, 0x123456789ABCDEF0)]
def wSw := run (.ladle 64 1) [(1, 0x20000040), (3, 0x123456789ABCDEF0)] fun c => c.modEng fun e => { e with frames := SMap.set (fun _ => {}) e.frames 257 { header := (List.range 64).map (BitVec.ofNat 8 ·) } }

/-- The hypotheses of `Obligations.BranchesAndJumps`, clause by clause, are met together. -/
theorem witness_BranchesAndJumps :
    (∃ (s : State) (e : Eng) (a : Fin 32) (b : Fin 32) (off : BitVec 16) (t : Nat), s.chip.canIssue e ∧ e.has [a, b] = true ∧
      s.chip.gGet e a = s.chip.gGet e b ∧ t.cast = (s.chip.ectx e).pc.cast + 4 * off.toInt ∧ t < s.chip.codeLen e ∧
      s.chip.fetched (Instr.beq e a b off)) ∧
    (∃ (s : State) (e : Eng) (a : Fin 32) (b : Fin 32) (off : BitVec 16), s.chip.canIssue e ∧ e.has [a, b] = true ∧
      (¬s.chip.gGet e a = s.chip.gGet e b) ∧ s.chip.fetched (Instr.beq e a b off)) ∧
    (∃ (s : State) (e : Eng) (a : Fin 32) (b : Fin 32) (off : BitVec 16) (t : Nat), s.chip.canIssue e ∧ e.has [a, b] = true ∧
      s.chip.gGet e a ≠ s.chip.gGet e b ∧ t.cast = (s.chip.ectx e).pc.cast + 4 * off.toInt ∧ t < s.chip.codeLen e ∧
      s.chip.fetched (Instr.bne e a b off)) ∧
    (∃ (s : State) (e : Eng) (a : Fin 32) (b : Fin 32) (off : BitVec 16), s.chip.canIssue e ∧ e.has [a, b] = true ∧
      (¬s.chip.gGet e a ≠ s.chip.gGet e b) ∧ s.chip.fetched (Instr.bne e a b off)) ∧
    (∃ (s : State) (e : Eng) (a : Fin 32) (b : Fin 32) (off : BitVec 16) (t : Nat), s.chip.canIssue e ∧ e.has [a, b] = true ∧
      BitVec.toInt (s.chip.gGet e a) < BitVec.toInt (s.chip.gGet e b) ∧ t.cast = (s.chip.ectx e).pc.cast + 4 * off.toInt ∧ t <
      s.chip.codeLen e ∧ s.chip.fetched (Instr.blt e a b off)) ∧
    (∃ (s : State) (e : Eng) (a : Fin 32) (b : Fin 32) (off : BitVec 16), s.chip.canIssue e ∧ e.has [a, b] = true ∧
      (¬BitVec.toInt (s.chip.gGet e a) < BitVec.toInt (s.chip.gGet e b)) ∧ s.chip.fetched (Instr.blt e a b off)) ∧
    (∃ (s : State) (e : Eng) (a : Fin 32) (b : Fin 32) (off : BitVec 16) (t : Nat), s.chip.canIssue e ∧ e.has [a, b] = true ∧
      BitVec.toInt (s.chip.gGet e b) ≤ BitVec.toInt (s.chip.gGet e a) ∧ t.cast = (s.chip.ectx e).pc.cast + 4 * off.toInt ∧ t <
      s.chip.codeLen e ∧ s.chip.fetched (Instr.bge e a b off)) ∧
    (∃ (s : State) (e : Eng) (a : Fin 32) (b : Fin 32) (off : BitVec 16), s.chip.canIssue e ∧ e.has [a, b] = true ∧
      (¬BitVec.toInt (s.chip.gGet e b) ≤ BitVec.toInt (s.chip.gGet e a)) ∧ s.chip.fetched (Instr.bge e a b off)) ∧
    (∃ (s : State) (e : Eng) (a : Fin 32) (b : Fin 32) (off : BitVec 16) (t : Nat), s.chip.canIssue e ∧ e.has [a, b] = true ∧
      BitVec.toNat (s.chip.gGet e a) < BitVec.toNat (s.chip.gGet e b) ∧ t.cast = (s.chip.ectx e).pc.cast + 4 * off.toInt ∧ t <
      s.chip.codeLen e ∧ s.chip.fetched (Instr.bltu e a b off)) ∧
    (∃ (s : State) (e : Eng) (a : Fin 32) (b : Fin 32) (off : BitVec 16), s.chip.canIssue e ∧ e.has [a, b] = true ∧
      (¬BitVec.toNat (s.chip.gGet e a) < BitVec.toNat (s.chip.gGet e b)) ∧ s.chip.fetched (Instr.bltu e a b off)) ∧
    (∃ (s : State) (e : Eng) (a : Fin 32) (b : Fin 32) (off : BitVec 16) (t : Nat), s.chip.canIssue e ∧ e.has [a, b] = true ∧
      BitVec.toNat (s.chip.gGet e b) ≤ BitVec.toNat (s.chip.gGet e a) ∧ t.cast = (s.chip.ectx e).pc.cast + 4 * off.toInt ∧ t <
      s.chip.codeLen e ∧ s.chip.fetched (Instr.bgeu e a b off)) ∧
    (∃ (s : State) (e : Eng) (a : Fin 32) (b : Fin 32) (off : BitVec 16), s.chip.canIssue e ∧ e.has [a, b] = true ∧
      (¬BitVec.toNat (s.chip.gGet e b) ≤ BitVec.toNat (s.chip.gGet e a)) ∧ s.chip.fetched (Instr.bgeu e a b off)) ∧
    (∃ (s : State) (e : Eng) (far : BitVec 26) (t : Nat), s.chip.canIssue e ∧ t.cast = (s.chip.ectx e).pc.cast + 4 * far.toInt ∧
      t < s.chip.codeLen e ∧ s.chip.fetched (Instr.j e far)) ∧
    (∃ (s : State) (e : Eng) (far : BitVec 26) (t : Nat), s.chip.canIssue e ∧ t.cast = (s.chip.ectx e).pc.cast + 4 * far.toInt ∧
      t < s.chip.codeLen e ∧ e.onVigil = false ∧ s.chip.fetched (Instr.jal e far)) ∧
    (∃ (s : State) (e : Eng) (d : Fin 32) (a : Fin 32), s.chip.canIssue e ∧ e.onVigil = false ∧ BitVec.toNat (s.chip.gGet e a) <
      s.chip.codeLen e ∧ BitVec.toNat (s.chip.gGet e a) % 4 = 0 ∧ s.chip.fetched (Instr.jalr e d a)) :=
  ⟨⟨(loaded (Eng.ladle 64 1) (wordI 32 1 2 (-2)) wEq), (.ladle 64 1), 1, 2, (-2), 0, by and_intros <;> first | decide +kernel | (unfold Chip.canIssue; decide +kernel) | exact ⟨_, _, rfl, by decide +kernel⟩⟩,
   ⟨(loaded (Eng.ladle 64 1) (wordI 32 1 2 (-2)) wBr), (.ladle 64 1), 1, 2, (-2), by and_intros <;> first | decide +kernel | (unfold Chip.canIssue; decide +kernel) | exact ⟨_, _, rfl, by decide +kernel⟩⟩,
   ⟨(loaded (Eng.ladle 64 1) (wordI 33 1 2 (-2)) wBr), (.ladle 64 1), 1, 2, (-2), 0, by and_intros <;> first | decide +kernel | (unfold Chip.canIssue; decide +kernel) | exact ⟨_, _, rfl, by decide +kernel⟩⟩,
   ⟨(loaded (Eng.ladle 64 1) (wordI 33 1 2 (-2)) wEq), (.ladle 64 1), 1, 2, (-2), by and_intros <;> first | decide +kernel | (unfold Chip.canIssue; decide +kernel) | exact ⟨_, _, rfl, by decide +kernel⟩⟩,
   ⟨(loaded (Eng.ladle 64 1) (wordI 34 1 2 (-2)) wBr), (.ladle 64 1), 1, 2, (-2), 0, by and_intros <;> first | decide +kernel | (unfold Chip.canIssue; decide +kernel) | exact ⟨_, _, rfl, by decide +kernel⟩⟩,
   ⟨(loaded (Eng.ladle 64 1) (wordI 34 1 2 (-2)) wEq), (.ladle 64 1), 1, 2, (-2), by and_intros <;> first | decide +kernel | (unfold Chip.canIssue; decide +kernel) | exact ⟨_, _, rfl, by decide +kernel⟩⟩,
   ⟨(loaded (Eng.ladle 64 1) (wordI 35 1 2 (-2)) wEq), (.ladle 64 1), 1, 2, (-2), 0, by and_intros <;> first | decide +kernel | (unfold Chip.canIssue; decide +kernel) | exact ⟨_, _, rfl, by decide +kernel⟩⟩,
   ⟨(loaded (Eng.ladle 64 1) (wordI 35 1 2 (-2)) wBr), (.ladle 64 1), 1, 2, (-2), by and_intros <;> first | decide +kernel | (unfold Chip.canIssue; decide +kernel) | exact ⟨_, _, rfl, by decide +kernel⟩⟩,
   ⟨(loaded (Eng.ladle 64 1) (wordI 36 1 2 (-2)) (run (.ladle 64 1) [(2, 3)])), (.ladle 64 1), 1, 2, (-2), 0, by and_intros <;> first | decide +kernel | (unfold Chip.canIssue; decide +kernel) | exact ⟨_, _, rfl, by decide +kernel⟩⟩,
   ⟨(loaded (Eng.ladle 64 1) (wordI 36 1 2 (-2)) wBr), (.ladle 64 1), 1, 2, (-2), by and_intros <;> first | decide +kernel | (unfold Chip.canIssue; decide +kernel) | exact ⟨_, _, rfl, by decide +kernel⟩⟩,
   ⟨(loaded (Eng.ladle 64 1) (wordI 37 1 2 (-2)) wBr), (.ladle 64 1), 1, 2, (-2), 0, by and_intros <;> first | decide +kernel | (unfold Chip.canIssue; decide +kernel) | exact ⟨_, _, rfl, by decide +kernel⟩⟩,
   ⟨(loaded (Eng.ladle 64 1) (wordI 37 1 2 (-2)) (run (.ladle 64 1) [(2, 3)])), (.ladle 64 1), 1, 2, (-2), by and_intros <;> first | decide +kernel | (unfold Chip.canIssue; decide +kernel) | exact ⟨_, _, rfl, by decide +kernel⟩⟩,
   ⟨(loaded (Eng.ladle 64 1) (wordJ 40 (-2)) wBr), (.ladle 64 1), (-2), 0, by and_intros <;> first | decide +kernel | (unfold Chip.canIssue; decide +kernel) | exact ⟨_, _, rfl, by decide +kernel⟩⟩,
   ⟨(loaded (Eng.ladle 64 1) (wordJ 41 (-2)) wBr), (.ladle 64 1), (-2), 0, by and_intros <;> first | decide +kernel | (unfold Chip.canIssue; decide +kernel) | exact ⟨_, _, rfl, by decide +kernel⟩⟩,
   ⟨(loaded (Eng.ladle 64 1) (wordA 0 32 3 1 0) wJr), (.ladle 64 1), 3, 1, by and_intros <;> first | decide +kernel | (unfold Chip.canIssue; decide +kernel) | exact ⟨_, _, rfl, by decide +kernel⟩⟩⟩

/-- The hypotheses of `Obligations.LoadAndAtomicResults`, clause by clause, are met together. -/
theorem witness_LoadAndAtomicResults :
    (∃ (s : State) (e : Eng) (d : Fin 32) (a : Fin 32) (imm : BitVec 16) (v : Nat), s.chip.canIssue e ∧ e.onVigil = false ∧
      s.chip.reads e (BitVec.setWidth 32 (s.chip.gGet e a) + BitVec.signExtend 32 imm).toNat 1 v ∧ s.chip.fetched (Instr.l8u e d
      a imm)) ∧
    (∃ (s : State) (e : Eng) (d : Fin 32) (a : Fin 32) (imm : BitVec 16) (v : Nat), s.chip.canIssue e ∧ e.onVigil = false ∧
      s.chip.reads e (BitVec.setWidth 32 (s.chip.gGet e a) + BitVec.signExtend 32 imm).toNat 1 v ∧ s.chip.fetched (Instr.l8s e d
      a imm)) ∧
    (∃ (s : State) (e : Eng) (d : Fin 32) (a : Fin 32) (imm : BitVec 16) (v : Nat), s.chip.canIssue e ∧ e.onVigil = false ∧
      s.chip.reads e (BitVec.setWidth 32 (s.chip.gGet e a) + BitVec.signExtend 32 imm).toNat 2 v ∧ s.chip.fetched (Instr.l16u e
      d a imm)) ∧
    (∃ (s : State) (e : Eng) (d : Fin 32) (a : Fin 32) (imm : BitVec 16) (v : Nat), s.chip.canIssue e ∧ e.onVigil = false ∧
      s.chip.reads e (BitVec.setWidth 32 (s.chip.gGet e a) + BitVec.signExtend 32 imm).toNat 2 v ∧ s.chip.fetched (Instr.l16s e
      d a imm)) ∧
    (∃ (s : State) (e : Eng) (d : Fin 32) (a : Fin 32) (imm : BitVec 16) (v : Nat), s.chip.canIssue e ∧ e.onVigil = false ∧
      s.chip.reads e (BitVec.setWidth 32 (s.chip.gGet e a) + BitVec.signExtend 32 imm).toNat 4 v ∧ s.chip.fetched (Instr.l32u e
      d a imm)) ∧
    (∃ (s : State) (e : Eng) (d : Fin 32) (a : Fin 32) (imm : BitVec 16) (v : Nat), s.chip.canIssue e ∧ e.onVigil = false ∧
      s.chip.reads e (BitVec.setWidth 32 (s.chip.gGet e a) + BitVec.signExtend 32 imm).toNat 4 v ∧ s.chip.fetched (Instr.l32s e
      d a imm)) ∧
    (∃ (s : State) (e : Eng) (d : Fin 32) (a : Fin 32) (imm : BitVec 16) (v : Nat), s.chip.canIssue e ∧ e.onVigil = false ∧
      s.chip.reads e (BitVec.setWidth 32 (s.chip.gGet e a) + BitVec.signExtend 32 imm).toNat 8 v ∧ s.chip.fetched (Instr.l64 e d
      a imm)) ∧
    (∃ (s : State) (m : Fin 256) (t : Fin 4) (d : Fin 32) (a : Fin 32) (b : Fin 32), s.chip.canIssue (Eng.ladle m t) ∧
      BitVec.toNat (s.chip.gGet (Eng.ladle m t) a) % 2 ^ 32 / 2 ^ 28 = 1 ∧ BitVec.toNat (s.chip.gGet (Eng.ladle m t) a) % 2 ^ 32
      % 2 ^ 28 + 8 ≤ 2097152 ∧ BitVec.toNat (s.chip.gGet (Eng.ladle m t) a) % 2 ^ 32 % 8 = 0 ∧ s.chip.fetched (Instr.aadd
      (Eng.ladle m t) d a b)) ∧
    (∃ (s : State) (m : Fin 256) (t : Fin 4) (d : Fin 32) (a : Fin 32) (b : Fin 32), s.chip.canIssue (Eng.ladle m t) ∧
      BitVec.toNat (s.chip.gGet (Eng.ladle m t) a) % 2 ^ 32 / 2 ^ 28 = 1 ∧ BitVec.toNat (s.chip.gGet (Eng.ladle m t) a) % 2 ^ 32
      % 2 ^ 28 + 8 ≤ 2097152 ∧ BitVec.toNat (s.chip.gGet (Eng.ladle m t) a) % 2 ^ 32 % 8 = 0 ∧ s.chip.fetched (Instr.aand
      (Eng.ladle m t) d a b)) ∧
    (∃ (s : State) (m : Fin 256) (t : Fin 4) (d : Fin 32) (a : Fin 32) (b : Fin 32), s.chip.canIssue (Eng.ladle m t) ∧
      BitVec.toNat (s.chip.gGet (Eng.ladle m t) a) % 2 ^ 32 / 2 ^ 28 = 1 ∧ BitVec.toNat (s.chip.gGet (Eng.ladle m t) a) % 2 ^ 32
      % 2 ^ 28 + 8 ≤ 2097152 ∧ BitVec.toNat (s.chip.gGet (Eng.ladle m t) a) % 2 ^ 32 % 8 = 0 ∧ s.chip.fetched (Instr.aor
      (Eng.ladle m t) d a b)) ∧
    (∃ (s : State) (m : Fin 256) (t : Fin 4) (d : Fin 32) (a : Fin 32) (b : Fin 32), s.chip.canIssue (Eng.ladle m t) ∧
      BitVec.toNat (s.chip.gGet (Eng.ladle m t) a) % 2 ^ 32 / 2 ^ 28 = 1 ∧ BitVec.toNat (s.chip.gGet (Eng.ladle m t) a) % 2 ^ 32
      % 2 ^ 28 + 8 ≤ 2097152 ∧ BitVec.toNat (s.chip.gGet (Eng.ladle m t) a) % 2 ^ 32 % 8 = 0 ∧ s.chip.fetched (Instr.aswap
      (Eng.ladle m t) d a b)) ∧
    (∃ (s : State) (m : Fin 256) (t : Fin 4) (d : Fin 32) (a : Fin 32) (b : Fin 32), s.chip.canIssue (Eng.ladle m t) ∧
      BitVec.toNat (s.chip.gGet (Eng.ladle m t) a) % 2 ^ 32 / 2 ^ 28 = 1 ∧ BitVec.toNat (s.chip.gGet (Eng.ladle m t) a) % 2 ^ 32
      % 2 ^ 28 + 8 ≤ 2097152 ∧ BitVec.toNat (s.chip.gGet (Eng.ladle m t) a) % 2 ^ 32 % 8 = 0 ∧ s.chip.fetched (Instr.amaxu
      (Eng.ladle m t) d a b)) :=
  ⟨⟨(loaded (Eng.ksq 0) (wordI 16 3 1 (-8)) wLt), (.ksq 0), 3, 1, (-8), 8, by and_intros <;> first | decide +kernel | (unfold Chip.canIssue; decide +kernel) | (unfold Chip.reads; decide +kernel) | exact ⟨_, _, rfl, by decide +kernel⟩⟩,
   ⟨(loaded (Eng.ksq 0) (wordI 20 3 1 (-8)) wLt), (.ksq 0), 3, 1, (-8), 8, by and_intros <;> first | decide +kernel | (unfold Chip.canIssue; decide +kernel) | (unfold Chip.reads; decide +kernel) | exact ⟨_, _, rfl, by decide +kernel⟩⟩,
   ⟨(loaded (Eng.ksq 0) (wordI 17 3 1 (-8)) wLt), (.ksq 0), 3, 1, (-8), 2312, by and_intros <;> first | decide +kernel | (unfold Chip.canIssue; decide +kernel) | (unfold Chip.reads; decide +kernel) | exact ⟨_, _, rfl, by decide +kernel⟩⟩,
   ⟨(loaded (Eng.ksq 0) (wordI 21 3 1 (-8)) wLt), (.ksq 0), 3, 1, (-8), 2312, by and_intros <;> first | decide +kernel | (unfold Chip.canIssue; decide +kernel) | (unfold Chip.reads; decide +kernel) | exact ⟨_, _, rfl, by decide +kernel⟩⟩,
   ⟨(loaded (Eng.ksq 0) (wordI 18 3 1 (-8)) wLt), (.ksq 0), 3, 1, (-8), 185207048, by and_intros <;> first | decide +kernel | (unfold Chip.canIssue; decide +kernel) | (unfold Chip.reads; decide +kernel) | exact ⟨_, _, rfl, by decide +kernel⟩⟩,
   ⟨(loaded (Eng.ksq 0) (wordI 22 3 1 (-8)) wLt), (.ksq 0), 3, 1, (-8), 185207048, by and_intros <;> first | decide +kernel | (unfold Chip.canIssue; decide +kernel) | (unfold Chip.reads; decide +kernel) | exact ⟨_, _, rfl, by decide +kernel⟩⟩,
   ⟨(loaded (Eng.ksq 0) (wordI 19 3 1 (-8)) wLt), (.ksq 0), 3, 1, (-8), 1084818905618843912, by and_intros <;> first | decide +kernel | (unfold Chip.canIssue; decide +kernel) | (unfold Chip.reads; decide +kernel) | exact ⟨_, _, rfl, by decide +kernel⟩⟩,
   ⟨(loaded (Eng.ladle 64 1) (wordA 28 0 1 1 2) wAt), 64, 1, 1, 1, 2, by and_intros <;> first | decide +kernel | (unfold Chip.canIssue; decide +kernel) | exact ⟨_, _, rfl, by decide +kernel⟩⟩,
   ⟨(loaded (Eng.ladle 64 1) (wordA 28 1 1 1 2) wAt), 64, 1, 1, 1, 2, by and_intros <;> first | decide +kernel | (unfold Chip.canIssue; decide +kernel) | exact ⟨_, _, rfl, by decide +kernel⟩⟩,
   ⟨(loaded (Eng.ladle 64 1) (wordA 28 2 1 1 2) wAt), 64, 1, 1, 1, 2, by and_intros <;> first | decide +kernel | (unfold Chip.canIssue; decide +kernel) | exact ⟨_, _, rfl, by decide +kernel⟩⟩,
   ⟨(loaded (Eng.ladle 64 1) (wordA 28 3 1 1 2) wAt), 64, 1, 1, 1, 2, by and_intros <;> first | decide +kernel | (unfold Chip.canIssue; decide +kernel) | exact ⟨_, _, rfl, by decide +kernel⟩⟩,
   ⟨(loaded (Eng.ladle 64 1) (wordA 28 4 1 1 2) wAt), 64, 1, 1, 1, 2, by and_intros <;> first | decide +kernel | (unfold Chip.canIssue; decide +kernel) | exact ⟨_, _, rfl, by decide +kernel⟩⟩⟩

/-- The hypotheses of `Obligations.StoreResults`, clause by clause, are met together. -/
theorem witness_StoreResults :
    (∃ (s : State) (e : Eng) (src : Fin 32) (a : Fin 32) (imm : BitVec 16) (base : Nat), s.chip.canIssue e ∧ e.onVigil = false ∧
      storePlace e (BitVec.setWidth 32 (s.chip.gGet e a) + BitVec.signExtend 32 imm).toNat 1 base ∧ s.chip.fetched (Instr.s8 e
      src a imm)) ∧
    (∃ (s : State) (e : Eng) (src : Fin 32) (a : Fin 32) (imm : BitVec 16), s.chip.canIssue e ∧ e.onVigil = false ∧ e.onLadle =
      true ∧ (BitVec.setWidth 32 (s.chip.gGet e a) + BitVec.signExtend 32 imm).toNat / 2 ^ 28 = 2 ∧ (BitVec.setWidth 32
      (s.chip.gGet e a) + BitVec.signExtend 32 imm).toNat % 2 ^ 28 + 1 ≤ 320 ∧ (BitVec.setWidth 32 (s.chip.gGet e a) +
      BitVec.signExtend 32 imm).toNat % 2 ^ 28 + 1 ≤ List.length (s.chip.fctx e).header ∧ s.chip.fetched (Instr.s8 e src a imm))
      ∧
    (∃ (s : State) (e : Eng) (src : Fin 32) (a : Fin 32) (imm : BitVec 16) (base : Nat), s.chip.canIssue e ∧ e.onVigil = false ∧
      storePlace e (BitVec.setWidth 32 (s.chip.gGet e a) + BitVec.signExtend 32 imm).toNat 2 base ∧ s.chip.fetched (Instr.s16 e
      src a imm)) ∧
    (∃ (s : State) (e : Eng) (src : Fin 32) (a : Fin 32) (imm : BitVec 16), s.chip.canIssue e ∧ e.onVigil = false ∧ e.onLadle =
      true ∧ (BitVec.setWidth 32 (s.chip.gGet e a) + BitVec.signExtend 32 imm).toNat / 2 ^ 28 = 2 ∧ (BitVec.setWidth 32
      (s.chip.gGet e a) + BitVec.signExtend 32 imm).toNat % 2 ^ 28 + 2 ≤ 320 ∧ (BitVec.setWidth 32 (s.chip.gGet e a) +
      BitVec.signExtend 32 imm).toNat % 2 ^ 28 + 2 ≤ List.length (s.chip.fctx e).header ∧ s.chip.fetched (Instr.s16 e src a
      imm)) ∧
    (∃ (s : State) (e : Eng) (src : Fin 32) (a : Fin 32) (imm : BitVec 16) (base : Nat), s.chip.canIssue e ∧ e.onVigil = false ∧
      storePlace e (BitVec.setWidth 32 (s.chip.gGet e a) + BitVec.signExtend 32 imm).toNat 4 base ∧ s.chip.fetched (Instr.s32 e
      src a imm)) ∧
    (∃ (s : State) (e : Eng) (src : Fin 32) (a : Fin 32) (imm : BitVec 16), s.chip.canIssue e ∧ e.onVigil = false ∧ e.onLadle =
      true ∧ (BitVec.setWidth 32 (s.chip.gGet e a) + BitVec.signExtend 32 imm).toNat / 2 ^ 28 = 2 ∧ (BitVec.setWidth 32
      (s.chip.gGet e a) + BitVec.signExtend 32 imm).toNat % 2 ^ 28 + 4 ≤ 320 ∧ (BitVec.setWidth 32 (s.chip.gGet e a) +
      BitVec.signExtend 32 imm).toNat % 2 ^ 28 + 4 ≤ List.length (s.chip.fctx e).header ∧ s.chip.fetched (Instr.s32 e src a
      imm)) ∧
    (∃ (s : State) (e : Eng) (src : Fin 32) (a : Fin 32) (imm : BitVec 16) (base : Nat), s.chip.canIssue e ∧ e.onVigil = false ∧
      storePlace e (BitVec.setWidth 32 (s.chip.gGet e a) + BitVec.signExtend 32 imm).toNat 8 base ∧ s.chip.fetched (Instr.s64 e
      src a imm)) ∧
    (∃ (s : State) (e : Eng) (src : Fin 32) (a : Fin 32) (imm : BitVec 16), s.chip.canIssue e ∧ e.onVigil = false ∧ e.onLadle =
      true ∧ (BitVec.setWidth 32 (s.chip.gGet e a) + BitVec.signExtend 32 imm).toNat / 2 ^ 28 = 2 ∧ (BitVec.setWidth 32
      (s.chip.gGet e a) + BitVec.signExtend 32 imm).toNat % 2 ^ 28 + 8 ≤ 320 ∧ (BitVec.setWidth 32 (s.chip.gGet e a) +
      BitVec.signExtend 32 imm).toNat % 2 ^ 28 + 8 ≤ List.length (s.chip.fctx e).header ∧ s.chip.fetched (Instr.s64 e src a
      imm)) :=
  ⟨⟨(loaded (Eng.order) (wordI 24 3 1 (-8)) wSl), .order, 3, 1, (-8), (localBase .order + 0x3FF8), by and_intros <;> first | decide +kernel | (unfold Chip.canIssue; decide +kernel) | (unfold storePlace; decide +kernel) | exact ⟨_, _, rfl, by decide +kernel⟩⟩,
   ⟨(loaded (Eng.ladle 64 1) (wordI 24 3 1 (-8)) wSw), (.ladle 64 1), 3, 1, (-8), by and_intros <;> first | decide +kernel | (unfold Chip.canIssue; decide +kernel) | exact ⟨_, _, rfl, by decide +kernel⟩⟩,
   ⟨(loaded (Eng.order) (wordI 25 3 1 (-8)) wSl), .order, 3, 1, (-8), (localBase .order + 0x3FF8), by and_intros <;> first | decide +kernel | (unfold Chip.canIssue; decide +kernel) | (unfold storePlace; decide +kernel) | exact ⟨_, _, rfl, by decide +kernel⟩⟩,
   ⟨(loaded (Eng.ladle 64 1) (wordI 25 3 1 (-8)) wSw), (.ladle 64 1), 3, 1, (-8), by and_intros <;> first | decide +kernel | (unfold Chip.canIssue; decide +kernel) | exact ⟨_, _, rfl, by decide +kernel⟩⟩,
   ⟨(loaded (Eng.order) (wordI 26 3 1 (-8)) wSl), .order, 3, 1, (-8), (localBase .order + 0x3FF8), by and_intros <;> first | decide +kernel | (unfold Chip.canIssue; decide +kernel) | (unfold storePlace; decide +kernel) | exact ⟨_, _, rfl, by decide +kernel⟩⟩,
   ⟨(loaded (Eng.ladle 64 1) (wordI 26 3 1 (-8)) wSw), (.ladle 64 1), 3, 1, (-8), by and_intros <;> first | decide +kernel | (unfold Chip.canIssue; decide +kernel) | exact ⟨_, _, rfl, by decide +kernel⟩⟩,
   ⟨(loaded (Eng.order) (wordI 27 3 1 (-8)) wSl), .order, 3, 1, (-8), (localBase .order + 0x3FF8), by and_intros <;> first | decide +kernel | (unfold Chip.canIssue; decide +kernel) | (unfold storePlace; decide +kernel) | exact ⟨_, _, rfl, by decide +kernel⟩⟩,
   ⟨(loaded (Eng.ladle 64 1) (wordI 27 3 1 (-8)) wSw), (.ladle 64 1), 3, 1, (-8), by and_intros <;> first | decide +kernel | (unfold Chip.canIssue; decide +kernel) | exact ⟨_, _, rfl, by decide +kernel⟩⟩⟩

end W02

namespace W03

def D (n : Nat) (c : Chip) : Chip := c.modCtl fun k => { k with dbg := n }
def wSys := run (.ladle 64 1) [(1, 60), (2, 3)]
def ks := Staged.release 5 1 false
def wVg := run .vigil [(1, 60)] (·.inM .vigil)
def wDb := run (.ladle 66 1) [(1, 60), (2, 3)] fun c => ((D 2 c).setF F.LAD_DBG_CTL_ladle [1] 2).setF F.LAD_DBG_CTL_thread [1] 1
def wDh : State := { wDb with chip := wDb.chip.setEctx (.ladle 66 1) { wDb.chip.ectx (.ladle 66 1) with halted := true } }
def wBp : State := { wDb with chip := (wDb.chip.setF F.LAD_DBG_CTL_bp_en [1] 1).setF F.LAD_DBG_BP_addr [1] 2 }
def fr : Frame := { data := (List.range 70).map (BitVec.ofNat 8 ·), entry := 10, sub := 1, stage := .ladle 257, summary := 5 }
def wFh := run (.ladle 64 1) [(1, 4), (2, 8)] fun c => (c.setFrame 7 (some fr)).modEng fun e => { e with frames := SMap.set (fun _ => {}) e.frames 257 { frame := 7, header := fr.data, rest := fcs fr.data } }
def wFo : State := { wFh with chip := wFh.chip.setFrame 7 (some { fr with early := some { opened := true, hit := true, handle := 4, an := 1, channel := 3 } }) }
def wOf : State := { wFh with chip := wFh.chip.setEctx (.ladle 64 1) { wFh.chip.ectx (.ladle 64 1) with offload := some (5, 77) } }
def wLs : State := { wFh with chip := wFh.chip.setChan 4 { valid := true, txCur := true, txAn := 1, sa1 := some 9 } }
def fp : Frame := { data := (List.range 70).map (BitVec.ofNat 8 ·), entry := 10, sub := 1, stage := .pool, summary := 5 }
def wFs : State := on fun c => (c.setFrame 7 (some fp)).setTarget 1 { active := some img }
def wFe : State := run (.ladle 64 1) [(1, 0x7B), (2, 8)] fun c => wFh.chip.setEctx (.ladle 64 1) (c.ectx (.ladle 64 1))
def wLt := on fun c => c

/-- The hypotheses of `Obligations.SystemInstructions`, clause by clause, are met together. -/
theorem witness_SystemInstructions :
    (∃ (s : State) (e : Eng), s.chip.canIssue e ∧ e.onVigil = false ∧ s.chip.fetched (Instr.fence e)) ∧
    (∃ (s : State) (e : Eng) (d : Fin 32), s.chip.canIssue e ∧ e.onVigil = false ∧ s.chip.fetched (Instr.rdcyc e d)) ∧
    (∃ (s : State) (e : Eng), s.chip.canIssue e ∧ e.onVigil = false ∧ (e.onLadle = false ∨ s.chip.ctl.dbg < 2) ∧ s.chip.fetched
      (Instr.brk e)) ∧
    (∃ (s : State) (e : Eng) (m : Fin 256) (t : Fin 4), s.chip.canIssue e ∧ e = Eng.ladle m t ∧ 2 ≤ s.chip.ctl.dbg ∧ s.chip.logs
      ∧ s.chip.fetched (Instr.brk e)) ∧
    (∃ (s : State) (e : Eng) (j : Fin 2), s.chip.canIssue e ∧ e = Eng.ksq j ∧ s.chip.ord.wait ≠ OrdWait.ksq ∧ s.chip.fetched
      (Instr.halt e)) ∧
    (∃ (s : State) (e : Eng), s.chip.canIssue e ∧ e = Eng.vigil ∧ s.chip.powered = false ∧ s.chip.fetched (Instr.halt e)) :=
  ⟨⟨(loaded (Eng.ladle 64 1) (wordA 0 65 0 0 0) wSys), (.ladle 64 1), by and_intros <;> first | decide +kernel | (unfold Chip.canIssue; decide +kernel) | exact ⟨_, _, rfl, by decide +kernel⟩⟩,
   ⟨(loaded (Eng.ladle 64 1) (wordA 0 67 3 0 0) wSys), (.ladle 64 1), 3, by and_intros <;> first | decide +kernel | (unfold Chip.canIssue; decide +kernel) | exact ⟨_, _, rfl, by decide +kernel⟩⟩,
   ⟨(loaded (Eng.ladle 64 1) (wordA 0 66 0 0 0) wSys), (.ladle 64 1), by and_intros <;> first | decide +kernel | (unfold Chip.canIssue; decide +kernel) | exact ⟨_, _, rfl, by decide +kernel⟩⟩,
   ⟨(loaded (Eng.ladle 64 1) (wordA 0 66 0 0 0) (run (.ladle 64 1) [(1, 60), (2, 3)] (D 2))), (.ladle 64 1), 64, 1, by and_intros <;> first | decide +kernel | (unfold Chip.logs; decide +kernel) | (unfold Chip.canIssue; decide +kernel) | exact ⟨_, _, rfl, by decide +kernel⟩⟩,
   ⟨(loaded (Eng.ksq 1) (wordA 0 64 0 0 0) (run (.ksq 1) [(1, 3)] fun c => c.modOrd fun o => { o with stagedKsq := [ks] })), (.ksq 1), 1, by and_intros <;> first | decide +kernel | (unfold Chip.canIssue; decide +kernel) | exact ⟨_, _, rfl, by decide +kernel⟩⟩,
   ⟨(loaded (Eng.vigil) (wordA 0 64 0 0 0) wVg), .vigil, by and_intros <;> first | decide +kernel | (unfold Chip.canIssue; decide +kernel) | exact ⟨_, _, rfl, by decide +kernel⟩⟩⟩

/-- The hypotheses of `Obligations.LadleDebug`, clause by clause, are met together. -/
theorem witness_LadleDebug :
    (∃ (s : State) (q : Fin 4), 2 ≤ s.chip.ctl.dbg ∧ (s.chip.ectxAt ((q.val * 64 + s.chip.getF F.LAD_DBG_CTL_ladle [q.val]) * 4
      + s.chip.getF F.LAD_DBG_CTL_thread [q.val])).halted = true) ∧
    (∃ (s : State) (q : Fin 4) (i : Instr), s.chip.ctl.dbg < 2 ∧ i ∈ [Instr.ladDbgHalt q, Instr.ladDbgStep q, Instr.ladDbgResume
      q]) ∧
    (∃ (s : State) (l : Fin 256) (t : Fin 4), 2 ≤ s.chip.ctl.dbg ∧ s.chip.logs ∧ (s.chip.ectx (Eng.ladle l t)).running = true ∧
      (s.chip.ectx (Eng.ladle l t)).halted = false ∧ (s.chip.ectx (Eng.ladle l t)).offload = none ∧ (s.chip.ectx (Eng.ladle l
      t)).bpPassed = false ∧ s.chip.getB F.LAD_DBG_CTL_bp_en [l.val / 64] = true ∧ s.chip.getF F.LAD_DBG_BP_addr [l.val / 64] *
      4 = (s.chip.ectx (Eng.ladle l t)).pc) :=
  ⟨⟨wDh, 1, by decide +kernel⟩,
   ⟨wSys, 1, (.ladDbgResume 1), by decide +kernel⟩,
   ⟨wBp, 66, 1, by unfold Chip.logs; decide +kernel⟩⟩

/-- The hypotheses of `Obligations.FrameHeaderInstructions`, clause by clause, are met together. -/
theorem witness_FrameHeaderInstructions :
    (∃ (s : State) (m : Fin 256) (t : Fin 4) (d : Fin 32) (a : Fin 32) (k : BitVec 5), s.chip.canIssue (Eng.ladle m t) ∧ k.toNat
      < 6 ∧ BitVec.toNat (s.chip.gGet (Eng.ladle m t) a) ≤ 511 ∧ s.chip.fetched (Instr.fskip (Eng.ladle m t) d a k)) ∧
    (∃ (s : State) (m : Fin 256) (t : Fin 4) (a : Fin 32) (b : Fin 32) (n : BitVec 5), s.chip.canIssue (Eng.ladle m t) ∧ 0 <
      n.toNat ∧ n.toNat ≤ 8 ∧ BitVec.toNat (s.chip.gGet (Eng.ladle m t) a) ≤ List.length (s.chip.fctx (Eng.ladle m t)).header ∧
      (s.chip.fctx (Eng.ladle m t)).netEdit + n.toNat.cast ≤ 64 ∧ -64 ≤ (s.chip.fctx (Eng.ladle m t)).netEdit + n.toNat.cast ∧
      s.chip.fetched (Instr.fins (Eng.ladle m t) a b n)) ∧
    (∃ (s : State) (m : Fin 256) (t : Fin 4) (a : Fin 32) (b : Fin 32), s.chip.canIssue (Eng.ladle m t) ∧ 0 < BitVec.toNat
      (s.chip.gGet (Eng.ladle m t) b) ∧ BitVec.toNat (s.chip.gGet (Eng.ladle m t) b) ≤ 64 ∧ BitVec.toNat (s.chip.gGet (Eng.ladle
      m t) a) + BitVec.toNat (s.chip.gGet (Eng.ladle m t) b) ≤ List.length (s.chip.fctx (Eng.ladle m t)).header ∧ -64 ≤
      (s.chip.fctx (Eng.ladle m t)).netEdit - (BitVec.toNat (s.chip.gGet (Eng.ladle m t) b)).cast ∧ (s.chip.fctx (Eng.ladle m
      t)).netEdit - (BitVec.toNat (s.chip.gGet (Eng.ladle m t) b)).cast ≤ 64 ∧ s.chip.fetched (Instr.fdel (Eng.ladle m t) a b))
      ∧
    (∃ (s : State) (m : Fin 256) (t : Fin 4) (d : Fin 32) (a : Fin 32), s.chip.canIssue (Eng.ladle m t) ∧ (s.chip.threadFrame
      (Eng.ladle m t)).coming = false ∧ s.chip.readsPoison (s.chip.threadFrame (Eng.ladle m t)) = false ∧ s.chip.fetched
      (Instr.fwin (Eng.ladle m t) d a)) ∧
    (∃ (s : State) (m : Fin 256) (t : Fin 4) (a : Fin 32), s.chip.canIssue (Eng.ladle m t) ∧ s.chip.fetched (Instr.cseal
      (Eng.ladle m t) a)) ∧
    (∃ (s : State) (m : Fin 256) (t : Fin 4) (d : Fin 32) (a : Fin 32), s.chip.canIssue (Eng.ladle m t) ∧ s.chip.earlyWait
      (Eng.ladle m t) = false ∧ (s.chip.fctx (Eng.ladle m t)).copenDone = false ∧ ((s.chip.threadFrame (Eng.ladle m
      t)).early.getD { }).opened = true ∧ ((s.chip.threadFrame (Eng.ladle m t)).early.getD { }).handle = BitVec.setWidth 32
      (s.chip.gGet (Eng.ladle m t) a) ∧ s.chip.fetched (Instr.copen (Eng.ladle m t) d a)) ∧
    (∃ (s : State) (m : Fin 256) (t : Fin 4) (d : Fin 32) (a : Fin 32), s.chip.canIssue (Eng.ladle m t) ∧ s.chip.earlyWait
      (Eng.ladle m t) = false ∧ ((s.chip.fctx (Eng.ladle m t)).copenDone = true ∨ ((s.chip.threadFrame (Eng.ladle m
      t)).early.getD { }).opened = false) ∧ s.chip.fetched (Instr.copen (Eng.ladle m t) d a)) ∧
    (∃ (s : State) (m : Fin 256) (t : Fin 4) (a : Fin 32), s.chip.canIssue (Eng.ladle m t) ∧ BitVec.toNat (s.chip.gGet
      (Eng.ladle m t) a) ≤ 255 ∧ s.chip.fetched (Instr.tdep (Eng.ladle m t) a)) ∧
    (∃ (s : State) (m : Fin 256) (t : Fin 4) (d : Fin 32), s.chip.canIssue (Eng.ladle m t) ∧ s.chip.ctl.dbg = 0 ∧ s.chip.fetched
      (Instr.tnow (Eng.ladle m t) d 0)) ∧
    (∃ (s : State) (m : Fin 256) (t : Fin 4) (d : Fin 32), s.chip.canIssue (Eng.ladle m t) ∧ s.chip.fetched (Instr.tnow
      (Eng.ladle m t) d 1)) ∧
    (∃ (s : State) (m : Fin 256) (t : Fin 4) (d : Fin 32), s.chip.canIssue (Eng.ladle m t) ∧ s.chip.fetched (Instr.tnow
      (Eng.ladle m t) d 2)) :=
  ⟨⟨(loaded (Eng.ladle 64 1) (wordX 48 1 3 1 0 5) wFh), 64, 1, 3, 1, 5, by and_intros <;> first | decide +kernel | (unfold Chip.canIssue; decide +kernel) | exact ⟨_, _, rfl, by decide +kernel⟩⟩,
   ⟨(loaded (Eng.ladle 64 1) (wordX 48 2 0 1 2 8) wFh), 64, 1, 1, 2, 8, by and_intros <;> first | decide +kernel | (unfold Chip.canIssue; decide +kernel) | exact ⟨_, _, rfl, by decide +kernel⟩⟩,
   ⟨(loaded (Eng.ladle 64 1) (wordX 48 3 0 1 2 0) wFh), 64, 1, 1, 2, by and_intros <;> first | decide +kernel | (unfold Chip.canIssue; decide +kernel) | exact ⟨_, _, rfl, by decide +kernel⟩⟩,
   ⟨(loaded (Eng.ladle 64 1) (wordX 48 0 3 1 0 0) wFh), 64, 1, 3, 1, by and_intros <;> first | decide +kernel | (unfold Chip.canIssue; decide +kernel) | exact ⟨_, _, rfl, by decide +kernel⟩⟩,
   ⟨(loaded (Eng.ladle 64 1) (wordX 48 12 0 1 0 0) wFh), 64, 1, 1, by and_intros <;> first | decide +kernel | (unfold Chip.canIssue; decide +kernel) | exact ⟨_, _, rfl, by decide +kernel⟩⟩,
   ⟨(loaded (Eng.ladle 64 1) (wordX 48 13 3 1 0 0) wFo), 64, 1, 3, 1, by and_intros <;> first | decide +kernel | (unfold Chip.canIssue; decide +kernel) | exact ⟨_, _, rfl, by decide +kernel⟩⟩,
   ⟨(loaded (Eng.ladle 64 1) (wordX 48 13 3 1 0 0) wFh), 64, 1, 3, 1, by and_intros <;> first | decide +kernel | (unfold Chip.canIssue; decide +kernel) | exact ⟨_, _, rfl, by decide +kernel⟩⟩,
   ⟨(loaded (Eng.ladle 64 1) (wordX 48 21 0 1 0 0) wFh), 64, 1, 1, by and_intros <;> first | decide +kernel | (unfold Chip.canIssue; decide +kernel) | exact ⟨_, _, rfl, by decide +kernel⟩⟩,
   ⟨(loaded (Eng.ladle 64 1) (wordX 48 20 3 0 0 0) wFh), 64, 1, 3, by and_intros <;> first | decide +kernel | (unfold Chip.canIssue; decide +kernel) | exact ⟨_, _, rfl, by decide +kernel⟩⟩,
   ⟨(loaded (Eng.ladle 64 1) (wordX 48 20 3 0 0 1) wFh), 64, 1, 3, by and_intros <;> first | decide +kernel | (unfold Chip.canIssue; decide +kernel) | exact ⟨_, _, rfl, by decide +kernel⟩⟩,
   ⟨(loaded (Eng.ladle 64 1) (wordX 48 20 3 0 0 2) wFh), 64, 1, 3, by and_intros <;> first | decide +kernel | (unfold Chip.canIssue; decide +kernel) | exact ⟨_, _, rfl, by decide +kernel⟩⟩⟩

/-- The hypotheses of `Obligations.FrameOffloads`, clause by clause, are met together. -/
theorem witness_FrameOffloads :
    (∃ (s : State) (m : Fin 256) (t : Fin 4) (r : Nat) (v : DWord), (s.chip.ectx (Eng.ladle m t)).offload = some (r, v) ∧ r <
      32) ∧
    (∃ (s : State) (m : Fin 256) (t : Fin 4) (d : Fin 32) (a : Fin 32) (b : Fin 32), s.chip.canIssue (Eng.ladle m t) ∧
      s.chip.ctl.dbg = 0 ∧ BitVec.toNat (s.chip.gGet (Eng.ladle m t) a) < 4096 ∧ s.chip.getB F.FWD_PORT_CFG_learn
      [(s.chip.threadFrame (Eng.ladle m t)).entry * 4 + (s.chip.threadFrame (Eng.ladle m t)).sub] = false ∧ (∀ o ∈ [0, 6], ∀ w ∈
      fwdSlots (s.chip.fwdKey ((s.chip.threadFrame (Eng.ladle m t)).entry * 4 + (s.chip.threadFrame (Eng.ladle m t)).sub)
      (BitVec.toNat (s.chip.gGet (Eng.ladle m t) a)) (slice (s.chip.threadFrame (Eng.ladle m t)).data o 6)), SMap.get (fun x =>
      0) s.chip.fwd.bad w = 0) ∧ s.chip.fetched (Instr.lkpFwd (Eng.ladle m t) d a b [])) ∧
    (∃ (s : State) (m : Fin 256) (t : Fin 4) (d : Fin 32) (a : Fin 32), s.chip.canIssue (Eng.ladle m t) ∧ BitVec.toNat
      (s.chip.gGet (Eng.ladle m t) a) ≤ 32767 ∧ (s.chip.chan (BitVec.toNat (s.chip.gGet (Eng.ladle m t) a))).txCur = false ∧
      s.chip.fetched (Instr.lkpSa (Eng.ladle m t) d a true)) ∧
    (∃ (s : State) (m : Fin 256) (t : Fin 4) (d : Fin 32) (a : Fin 32) (i : Nat), s.chip.canIssue (Eng.ladle m t) ∧ BitVec.toNat
      (s.chip.gGet (Eng.ladle m t) a) ≤ 32767 ∧ (s.chip.chan (BitVec.toNat (s.chip.gGet (Eng.ladle m t) a))).txCur = true ∧
      (s.chip.chan (BitVec.toNat (s.chip.gGet (Eng.ladle m t) a))).current = some i ∧ s.chip.fetched (Instr.lkpSa (Eng.ladle m
      t) d a true)) ∧
    (∃ (s : State) (m : Fin 256) (t : Fin 4) (d : Fin 32) (a : Fin 32) (y : Early), s.chip.canIssue (Eng.ladle m t) ∧
      (s.chip.threadFrame (Eng.ladle m t)).early = some y ∧ y.hit = true ∧ s.chip.fetched (Instr.lkpSa (Eng.ladle m t) d a
      false)) ∧
    (∃ (s : State) (m : Fin 256) (t : Fin 4) (d : Fin 32) (a : Fin 32) (b : Fin 32), s.chip.canIssue (Eng.ladle m t) ∧
      BitVec.toNat (s.chip.gGet (Eng.ladle m t) a) ≤ 16383 ∧ BitVec.toNat (s.chip.gGet (Eng.ladle m t) b) ≤ 2 ∧ (s.chip.fctx
      (Eng.ladle m t)).metered < 4 ∧ s.chip.fetched (Instr.mtr (Eng.ladle m t) d a b)) ∧
    (∃ (s : State) (m : Fin 256) (t : Fin 4) (a : Fin 32) (b : Fin 32), s.chip.canIssue (Eng.ladle m t) ∧ BitVec.toNat
      (s.chip.gGet (Eng.ladle m t) a) ≤ 65535 ∧ s.chip.fetched (Instr.cinc (Eng.ladle m t) a b)) :=
  ⟨⟨wOf, 64, 1, 5, 77, by decide +kernel⟩,
   ⟨(loaded (Eng.ladle 64 1) (wordX 48 8 3 1 2 0) wFh), 64, 1, 3, 1, 2, by and_intros <;> first | decide +kernel | (unfold Chip.canIssue; decide +kernel) | exact ⟨_, _, rfl, by decide +kernel⟩⟩,
   ⟨(loaded (Eng.ladle 64 1) (wordX 48 9 3 1 0 (if true = true then 1 else 0)) wFh), 64, 1, 3, 1, by and_intros <;> first | decide +kernel | (unfold Chip.canIssue; decide +kernel) | exact ⟨_, _, rfl, by decide +kernel⟩⟩,
   ⟨(loaded (Eng.ladle 64 1) (wordX 48 9 3 1 0 (if true = true then 1 else 0)) wLs), 64, 1, 3, 1, 9, by and_intros <;> first | decide +kernel | (unfold Chip.canIssue; decide +kernel) | exact ⟨_, _, rfl, by decide +kernel⟩⟩,
   ⟨(loaded (Eng.ladle 64 1) (wordX 48 9 3 1 0 (if false = true then 1 else 0)) wFo), 64, 1, 3, 1, { opened := true, hit := true, handle := 4, an := 1, channel := 3 }, by and_intros <;> first | decide +kernel | (unfold Chip.canIssue; decide +kernel) | exact ⟨_, _, rfl, by decide +kernel⟩⟩,
   ⟨(loaded (Eng.ladle 64 1) (wordX 48 16 3 1 3 0) wFh), 64, 1, 3, 1, 3, by and_intros <;> first | decide +kernel | (unfold Chip.canIssue; decide +kernel) | exact ⟨_, _, rfl, by decide +kernel⟩⟩,
   ⟨(loaded (Eng.ladle 64 1) (wordX 48 17 0 1 2 0) wFh), 64, 1, 1, 2, by and_intros <;> first | decide +kernel | (unfold Chip.canIssue; decide +kernel) | exact ⟨_, _, rfl, by decide +kernel⟩⟩⟩

/-- The hypotheses of `Obligations.FramePass`, clause by clause, are met together. -/
theorem witness_FramePass :
    (∃ (s : State) (m : Fin 256) (t : Fin 4) (n : Nat) (f : Frame) (i : Image), s.chip.frame n = some f ∧ f.stage = FStage.pool
      ∧ (s.chip.ectx (Eng.ladle m t)).running = false ∧ s.chip.ladleFree m.val = true ∧ f.entry % 8 / 2 = m.val / 64 ∧
      s.chip.running = true ∧ s.chip.inMode [Mode.rest, Mode.lockdown] = false ∧ s.chip.readsPoison f = false ∧ (s.chip.target
      (m.val / 64)).active = some i ∧ s.chip.ctl.dbg = 0) ∧
    (∃ (s : State) (m : Fin 256) (t : Fin 4) (n : Nat) (f : Frame), s.chip.frame n = some f ∧ s.chip.canIssue (Eng.ladle m t) ∧
      (s.chip.fctx (Eng.ladle m t)).frame = n ∧ f.stage = FStage.ladle (engKey (Eng.ladle m t)) ∧ f.coming = false ∧ f.early =
      none ∧ f.host = none ∧ (f.isIngot = true → f.verdict.getD 0 = 0) ∧ f.queue = none ∧ (s.chip.fctx (Eng.ladle m t)).redDrop
      = false ∧ (s.chip.fctx (Eng.ladle m t)).excess = false ∧ s.chip.fetched (Instr.fdrop (Eng.ladle m t))) ∧
    (∃ (s : State) (m : Fin 256) (t : Fin 4) (n : Nat) (f : Frame) (a : Fin 32) (b : Fin 32), s.chip.frame n = some f ∧
      s.chip.canIssue (Eng.ladle m t) ∧ (s.chip.fctx (Eng.ladle m t)).frame = n ∧ f.stage = FStage.ladle (engKey (Eng.ladle m
      t)) ∧ f.coming = false ∧ s.chip.earlyWait (Eng.ladle m t) = false ∧ f.early = none ∧ s.chip.readsPoison f = false ∧
      f.queue = none ∧ (s.chip.fctx (Eng.ladle m t)).redDrop = false ∧ (s.chip.fctx (Eng.ladle m t)).excess = false ∧
      (s.chip.fctx (Eng.ladle m t)).sealMark = none ∧ (s.chip.fctx (Eng.ladle m t)).bound = none ∧ 64 ≤ List.length (s.chip.fctx
      (Eng.ladle m t)).header + List.length (s.chip.fctx (Eng.ladle m t)).rest ∧ List.length (s.chip.fctx (Eng.ladle m
      t)).header + List.length (s.chip.fctx (Eng.ladle m t)).rest ≤ 16000 ∧ BitVec.toNat (s.chip.gGet (Eng.ladle m t) a) % 2 ^
      32 % 8 = 3 ∧ BitVec.toNat (s.chip.gGet (Eng.ladle m t) a) % 2 ^ 32 < 2 ^ 7 ∧ s.chip.fetched (Instr.femit (Eng.ladle m t) a
      b false)) :=
  ⟨⟨wFs, 64, 1, 7, fp, img, by decide +kernel⟩,
   ⟨(loaded (Eng.ladle 64 1) (wordX 48 5 0 0 0 0) wFh), 64, 1, 7, fr, by and_intros <;> first | decide +kernel | (unfold Chip.canIssue; decide +kernel) | exact ⟨_, _, rfl, by decide +kernel⟩⟩,
   ⟨(loaded (Eng.ladle 64 1) (wordX 48 4 0 1 2 (if false = true then 1 else 0)) wFe), 64, 1, 7, fr, 1, 2, by and_intros <;> first | decide +kernel | (unfold Chip.canIssue; decide +kernel) | exact ⟨_, _, rfl, by decide +kernel⟩⟩⟩

/-- The hypotheses of `Obligations.LadleTestAndSampling`, clause by clause, are met together. -/
theorem witness_LadleTestAndSampling :
    (∃ (s : State) (m : Fin 256), s.chip.running = true ∧ s.chip.eng.testing = none ∧ s.chip.ladleFree m.val = true) ∧
    (∃ (s : State) (m : Fin 256), s.chip.eng.testing = some m.val) ∧
    (∃ (s : State) (m : Fin 256) (t : Fin 4) (w : Word) (addr : BitVec 17), s.chip.ctl.dbg ≠ 0 ∧ s.chip.eng.sampled.contains
      { ladle := m.val, thread := t.val, encoding := w, addr := addr.toNat } = true ∧ s.chip.getB F.LAD_SMP_CFG_full [m.val /
      64] = false ∧ s.chip.getF F.LAD_SMP_PTR_next [m.val / 64] < 4095) ∧
    (∃ (s : State) (m : Fin 256) (j : Fin 4) (i : Fin 4), s.chip.ctl.dbg ≠ 0 ∧ s.chip.getF (ladSel i.val) [j.val, m.val % 64] ∈
      [1, 3, 8]) :=
  ⟨⟨wLt, 64, by decide +kernel⟩,
   ⟨(on fun c => c.modEng fun e => { e with testing := some 64 }), 64, by decide +kernel⟩,
   ⟨(on fun c => (D 1 (c.setF F.LAD_SMP_CFG_en [1] 1)).modEng fun e => { e with sampled := [⟨64, 1, 0x12345, 0x40⟩] }), 64, 1, 0x12345, 0x40, by decide +kernel⟩,
   ⟨(on fun c => D 1 (c.setF F.LAD_CNT_SEL_event2 [3, 1] 3)), 65, 3, 2, by decide +kernel⟩⟩

end W03

namespace W04

def H := mkHandle 1 3 100
def vsl (t : BitVec 2) : Slot := { state := 1, type := t, generation := 1, function := 3, count := 5, depth := 2, key := 0x1234 }
def wK (f : KsqCtx → KsqCtx := id) (t : BitVec 2 := 2) (g := ([] : SMap DWord)) := run (.ksq 1) g fun c => (c.setSlot 100 (vsl t)).setKsq 1 (f { handles := [(1, H), (4, mkHandle 0 3 200)] })
def tr : Transient := { key := 77, parent := 0 }
def wKo := (wK (fun x => { x with handles := [(0, H), (4, mkHandle 0 3 200)], transients := [(9, some tr)]}) (g := [(2, 0x500000302)]))
def ka : KeyAttr := { type := 2, klen := false, inheritRevoke := false, ephemeral := false, function := 24, parent := 0, count := 5 }
def wKc : State := { wK (g := [(3, 55)]) with chip := ((wK (g := [(3, 55)])).chip.setKsq 1 { cmac := some (.tagCompare 3 true) }).modPan fun p => { p with reqs := [(7, some {kind := .cmac, pan := 2, slot := 100, gen := 1, subject := 1, blocks := 3})] } }
def wKd : State := on fun c => (c.modOrd fun o => { o with wait := .cmac, cmacOut := some (0x4000, [1,2]) }).modPan fun p => { p with reqs := [(7, some {kind := .cmac, pan := 2, slot := 100, gen := 1, subject := 0, blocks := 3})] }
def wO (g : SMap DWord) (f : Chip → Chip := id) := run .order g f
def au (c : Chip) := (c.inM .provision).modCtl fun k => {k with auth := some ⟨[], 4, 9, 0, 1000⟩, pinOk := some 50000}
def wV (g : SMap DWord) (f : Chip → Chip := id) := run .vigil g fun c => f (c.inM .vigil)
def wVs := on fun c => ((c.inM .vigil).setTarget 9 { active := some img }).modEng fun e => { e with vigilPend := 5 }

/-- The hypotheses of `Obligations.KeyProgramInstructions`, clause by clause, are met together. -/
theorem witness_KeyProgramInstructions :
    (∃ (s : State) (j : Fin 2) (d : Fin 32) (a : Fin 32) (m : BitVec 5) (t : Transient), s.chip.canIssue (Eng.ksq j) ∧ 8 ≤ a.val
      ∧ a.val < 16 ∧ 8 ≤ m.toNat ∧ m.toNat < 16 ∧ (s.chip.ksqCtx j.val).transient a.val = some t ∧ s.chip.fetched (Instr.kmov
      (Eng.ksq j) d a m)) ∧
    (∃ (s : State) (j : Fin 2) (d : Fin 32) (a : Fin 32) (m : BitVec 5), s.chip.canIssue (Eng.ksq j) ∧ 8 ≤ a.val ∧ a.val < 16 ∧
      8 ≤ m.toNat ∧ m.toNat < 16 ∧ (s.chip.ksqCtx j.val).transient a.val = none ∧ s.chip.fetched (Instr.kmov (Eng.ksq j) d a m))
      ∧
    (∃ (s : State) (j : Fin 2) (a : Fin 32), s.chip.canIssue (Eng.ksq j) ∧ 8 ≤ a.val ∧ a.val < 16 ∧ s.chip.fetched (Instr.kclr
      (Eng.ksq j) a)) ∧
    (∃ (s : State) (j : Fin 2) (d : Fin 32) (a : Fin 32), s.chip.canIssue (Eng.ksq j) ∧ a.val < 16 ∧ s.chip.fetched (Instr.khnd
      (Eng.ksq j) d a)) ∧
    (∃ (s : State) (j : Fin 2) (d : Fin 32) (a : Fin 32), s.chip.canIssue (Eng.ksq j) ∧ a.val < 8 ∧ s.chip.fetched (Instr.kinfo
      (Eng.ksq j) d a)) ∧
    (∃ (s : State) (j : Fin 2) (d : Fin 32) (a : Fin 32) (b : Fin 32) (m : BitVec 5), s.chip.canIssue (Eng.ksq j) ∧
      s.chip.pan.stopped = false ∧ a.val < 8 ∧ 8 ≤ m.toNat % 16 ∧ 1 ≤ bits (BitVec.toNat (s.chip.gGet (Eng.ksq j) b)) 31 16 ∧
      bits (BitVec.toNat (s.chip.gGet (Eng.ksq j) b)) 31 16 ≤ 253 ∧ BitVec.toNat (s.chip.gGet (Eng.ksq j) b) % 65536 + bits
      (BitVec.toNat (s.chip.gGet (Eng.ksq j) b)) 31 16 ≤ 4096 ∧ s.chip.checkUse ((s.chip.ksqCtx j.val).handle a.val) 2 = 0 ∧
      s.chip.fetched (Instr.kderive (Eng.ksq j) d a b m)) ∧
    (∃ (s : State) (j : Fin 2) (d : Fin 32) (a : Fin 32) (b : Fin 32), s.chip.canIssue (Eng.ksq j) ∧ s.chip.pan.stopped = false
      ∧ a.val < 8 ∧ bits (BitVec.toNat (s.chip.gGet (Eng.ksq j) b)) 31 16 ≤ 256 ∧ BitVec.toNat (s.chip.gGet (Eng.ksq j) b) %
      65536 + bits (BitVec.toNat (s.chip.gGet (Eng.ksq j) b)) 31 16 ≤ 4096 ∧ bits (BitVec.toNat (s.chip.gGet (Eng.ksq j) b)) 47
      32 + 16 ≤ 4096 ∧ s.chip.checkUse ((s.chip.ksqCtx j.val).handle a.val) 3 = 0 ∧ s.chip.fetched (Instr.kcmac (Eng.ksq j) d a
      b 0)) ∧
    (∃ (s : State) (j : Fin 2) (d : Fin 32) (a : Fin 32) (b : Fin 32) (m : BitVec 5), s.chip.canIssue (Eng.ksq j) ∧ a.val < 8 ∧
      8 ≤ m.toNat ∧ m.toNat < 16 ∧ BitVec.toNat (s.chip.gGet (Eng.ksq j) b) % 65536 + 4 + beNat (slice (s.chip.memBytes
      (536870912 + j.val * 4096 + BitVec.toNat (s.chip.gGet (Eng.ksq j) b) % 65536) 4) 2 2) ≤ 4096 ∧ s.chip.checkUse
      ((s.chip.ksqCtx j.val).handle a.val) 1 = 0 ∧ 2 ≤ (s.chip.slot (slotOf ((s.chip.ksqCtx j.val).handle a.val))).count ∧
      (s.chip.slot (slotOf ((s.chip.ksqCtx j.val).handle a.val))).depth ≤ 7 ∧ s.chip.fetched (Instr.kunwrap (Eng.ksq j) d a b
      m)) ∧
    (∃ (s : State) (j : Fin 2) (d : Fin 32) (a : Fin 32) (b : Fin 32) (m : BitVec 5) (t : Transient) (at' : KeyAttr) (r : Slot),
      s.chip.canIssue (Eng.ksq j) ∧ 8 ≤ a.val ∧ a.val < 16 ∧ m.toNat < 4 ∧ (s.chip.ksqCtx j.val).transient a.val = some t ∧
      attrOf (s.chip.gGet (Eng.ksq j) b) = some at' ∧ at'.klen = t.klen ∧ (s.chip.ksqCtx j.val).handle (4 + m.toNat) ≠ 0 ∧
      s.chip.checkTarget ((s.chip.ksqCtx j.val).handle (4 + m.toNat)) = 0 ∧ s.chip.koutRoom (s.chip.ksqCtx j.val) (slotOf
      ((s.chip.ksqCtx j.val).handle (4 + m.toNat))) = 0 ∧ s.chip.koutRecord (s.chip.ksqCtx j.val) t at' = Except.ok r ∧
      s.chip.fetched (Instr.kout (Eng.ksq j) d a b m)) ∧
    (∃ (s : State) (j : Fin 2) (k : Nat) (q : PanReq) (r : Nat) (differs : Bool), ((s.chip.turnOf fun y => decide (y.kind =
      ReqKind.cmac) && decide (y.subject = j.val)) = some (k, q)) ∧ (j = 1 → s.chip.prs.jobs = []) ∧ ((s.chip.panDone k).ksqCtx
      j.val).cmac = some (CmacWait.tagCompare r differs) ∧ ((s.chip.panDone k).ksqCtx j.val).cmacFail = false ∧ r < 32 ∧
      (((s.chip.panDone k).findReq fun y => decide (y.kind = ReqKind.cmac) && decide (y.subject = j.val)) = none)) ∧
    (∃ (s : State) (k : Nat) (q : PanReq) (out : DWord) (data : Bytes), ((s.chip.turnOf fun y => decide (y.kind = ReqKind.cmac)
      && decide (y.subject = 0)) = some (k, q)) ∧ (((s.chip.panDone k).findReq fun y => decide (y.kind = ReqKind.cmac) && decide
      (y.subject = 0)) = none) ∧ (s.chip.ksqCtx 0).cmac = none ∧ (s.chip.ksqCtx 0).cmacFail = false ∧ s.chip.ord.wait =
      OrdWait.cmac ∧ s.chip.ord.cmacOut = some (out, data) ∧ s.chip.ord.callReg = none ∧ s.chip.ord.busy = false ∧
      s.chip.dmaAllowed 0 = true) :=
  ⟨⟨(loaded (Eng.ksq 1) (wordX 52 4 3 9 0 10) (wK fun x => { x with transients := [(9, some tr)]})), 1, 3, 9, 10, tr, by and_intros <;> first | decide +kernel | (unfold Chip.canIssue; decide +kernel) | exact ⟨_, _, rfl, by decide +kernel⟩⟩,
   ⟨(loaded (Eng.ksq 1) (wordX 52 4 3 9 0 10) (wK)), 1, 3, 9, 10, by and_intros <;> first | decide +kernel | (unfold Chip.canIssue; decide +kernel) | exact ⟨_, _, rfl, by decide +kernel⟩⟩,
   ⟨(loaded (Eng.ksq 1) (wordX 52 5 0 9 0 0) (wK fun x => { x with transients := [(9, some tr)]})), 1, 9, by and_intros <;> first | decide +kernel | (unfold Chip.canIssue; decide +kernel) | exact ⟨_, _, rfl, by decide +kernel⟩⟩,
   ⟨(loaded (Eng.ksq 1) (wordX 52 7 3 9 0 0) (wK)), 1, 3, 9, by and_intros <;> first | decide +kernel | (unfold Chip.canIssue; decide +kernel) | exact ⟨_, _, rfl, by decide +kernel⟩⟩,
   ⟨(loaded (Eng.ksq 1) (wordX 52 6 3 1 0 0) (wK)), 1, 3, 1, by and_intros <;> first | decide +kernel | (unfold Chip.canIssue; decide +kernel) | exact ⟨_, _, rfl, by decide +kernel⟩⟩,
   ⟨(loaded (Eng.ksq 1) (wordX 52 0 3 1 2 25) (wK (g := [(2, 0x200010)]))), 1, 3, 1, 2, 25, by and_intros <;> first | decide +kernel | (unfold Chip.canIssue; decide +kernel) | exact ⟨_, _, rfl, by decide +kernel⟩⟩,
   ⟨(loaded (Eng.ksq 1) (wordX 52 2 3 1 2 0) (wK (t := 3) (g := [(2, 0x8000200010)]))), 1, 3, 1, 2, by and_intros <;> first | decide +kernel | (unfold Chip.canIssue; decide +kernel) | exact ⟨_, _, rfl, by decide +kernel⟩⟩,
   ⟨(loaded (Eng.ksq 1) (wordX 52 1 3 1 2 9) (wK (t := 1) (g := [(2, 0x10)]))), 1, 3, 1, 2, 9, by and_intros <;> first | decide +kernel | (unfold Chip.canIssue; decide +kernel) | exact ⟨_, _, rfl, by decide +kernel⟩⟩,
   ⟨(loaded (Eng.ksq 1) (wordX 52 3 3 9 2 0) wKo), 1, 3, 9, 2, 0, tr, ka, (match wKo.chip.koutRecord (wKo.chip.ksqCtx 1) tr ka with | .ok r => r | .error _ => {}), by and_intros <;> first | decide +kernel | (unfold Chip.canIssue; decide +kernel) | exact ⟨_, _, rfl, by decide +kernel⟩⟩,
   ⟨wKc, 1, 7, {kind := .cmac, pan := 2, slot := 100, gen := 1, subject := 1, blocks := 3}, 3, true, by decide +kernel⟩,
   ⟨wKd, 7, {kind := .cmac, pan := 2, slot := 100, gen := 1, subject := 0, blocks := 3}, 0x4000, [1,2], by decide +kernel⟩⟩

/-- The hypotheses of `Obligations.OrderProgramInstructions`, clause by clause, are met together. -/
theorem witness_OrderProgramInstructions :
    (∃ (s : State) (d : Fin 32) (a : Fin 32) (b : Fin 32) (dma : Option Bytes), s.chip.canIssue Eng.order ∧ s.chip.gGet
      Eng.order a = 1284 ∧ BitVec.toNat (s.chip.gGet Eng.order b) ≤ 16384 ∧ s.chip.inMode (Mode.erased :: infoModes) = true ∧
      s.chip.fetched (Instr.ocall Eng.order d a b dma)) ∧
    (∃ (s : State) (d : Fin 32) (a : Fin 32) (b : Fin 32) (dma : Option Bytes), s.chip.canIssue Eng.order ∧ paramSize
      (BitVec.toNat (s.chip.gGet Eng.order a)) = none ∧ s.chip.fetched (Instr.ocall Eng.order d a b dma)) ∧
    (∃ (s : State) (d : Fin 32) (a : Fin 32) (b : Fin 32), s.chip.canIssue Eng.order ∧ BitVec.toNat (s.chip.gGet Eng.order a) %
      4 = 0 ∧ (lookupReg (BitVec.toNat (s.chip.gGet Eng.order a))).isSome = true ∧ s.chip.ord.regWrites.length < 256 ∧
      s.chip.fetched (Instr.otw Eng.order d a b)) ∧
    (∃ (s : State) (d : Fin 32) (a : Fin 32) (b : Fin 32), s.chip.canIssue Eng.order ∧ 256 ≤ s.chip.ord.regWrites.length ∧
      BitVec.toNat (s.chip.gGet Eng.order a) % 4 = 0 ∧ (lookupReg (BitVec.toNat (s.chip.gGet Eng.order a))).isSome = true ∧
      s.chip.fetched (Instr.otw Eng.order d a b)) ∧
    (∃ (s : State) (d : Fin 32) (a : Fin 32), s.chip.canIssue Eng.order ∧ s.chip.gGet Eng.order a = 9 ∧ s.chip.ctl.d3Taint =
      false ∧ (∀ y ∈ s.chip.ord.staged, ∀ (f t : Mode) (r : Option Mode), y ≠ Staged.modeSet f t r) ∧ s.chip.modeCheck
      s.chip.ctl.mode Mode.maintenance none = 0 ∧ s.chip.fetched (Instr.omode Eng.order d a)) ∧
    (∃ (s : State) (d : Fin 32) (slot : Nat) (rec : Slot), s.chip.canIssue Eng.order ∧ s.chip.ord.staged = [Staged.key slot rec
      none none stageModes] ∧ s.chip.ord.regWrites = [] ∧ s.chip.ord.heldFill = false ∧ s.chip.inMode stageModes = true ∧
      (s.chip.slot slot).state = 0 ∧ (s.chip.slot slot).bound = false ∧ s.chip.fetched (Instr.ocommit Eng.order d)) ∧
    (∃ (s : State), s.chip.canIssue Eng.order ∧ s.chip.fetched (Instr.oabort Eng.order)) ∧
    (∃ (s : State) (d : Fin 32) (a : Fin 32), s.chip.canIssue Eng.order ∧ BitVec.toNat (s.chip.gGet Eng.order a) ≤
      s.chip.tim.epoch ∧ BitVec.toNat (s.chip.gGet Eng.order a) < 2 ^ 40 ∧ s.chip.fetched (Instr.owait Eng.order d a 1)) ∧
    (∃ (s : State) (d : Fin 32) (a : Fin 32), s.chip.canIssue Eng.order ∧ s.chip.nowUs < BitVec.toNat (s.chip.gGet Eng.order a)
      ∧ BitVec.toNat (s.chip.gGet Eng.order a) * 1000 < 2 ^ 64 ∧ s.chip.fetched (Instr.owait Eng.order d a 0)) ∧
    (∃ (s : State) (r : Nat) (v : Nat) (limit : Nat), s.chip.ord.owait = some (r, true, v, limit) ∧ v ≤ s.chip.tim.epoch ∧ r <
      32) :=
  ⟨⟨(loaded (Eng.order) (wordX 56 0 3 1 2 0) (wO [(1, 0x504), (2, 0)])), 3, 1, 2, none, by and_intros <;> first | decide +kernel | (unfold Chip.canIssue; decide +kernel) | exact ⟨_, _, rfl, by decide +kernel⟩⟩,
   ⟨(loaded (Eng.order) (wordX 56 0 3 1 2 0) (wO [(1, 0x7504), (2, 0)])), 3, 1, 2, none, by and_intros <;> first | decide +kernel | (unfold Chip.canIssue; decide +kernel) | exact ⟨_, _, rfl, by decide +kernel⟩⟩,
   ⟨(loaded (Eng.order) (wordX 56 1 3 1 2 0) (wO [(1, 0x8), (2, 55)])), 3, 1, 2, by and_intros <;> first | decide +kernel | (unfold Chip.canIssue; decide +kernel) | exact ⟨_, _, rfl, by decide +kernel⟩⟩,
   ⟨(loaded (Eng.order) (wordX 56 1 3 1 2 0) (wO [(1, 0x8), (2, 55)] fun c => c.modOrd fun o => { o with regWrites := List.replicate 256 (0x8, 1)})), 3, 1, 2, by and_intros <;> first | decide +kernel | (unfold Chip.canIssue; decide +kernel) | exact ⟨_, _, rfl, by decide +kernel⟩⟩,
   ⟨(loaded (Eng.order) (wordX 56 2 3 1 0 0) (wO [(1, 9), (2, 55)] fun c => (au c).modOrd fun o => { o with staged := [.release 5 1 false] })), 3, 1, by and_intros <;> first | decide +kernel | (unfold Chip.canIssue; decide +kernel) | exact ⟨_, _, rfl, by decide +kernel⟩ | (intro y hy f t r; have e : y = .release 5 1 false := List.mem_singleton.mp hy; subst e; intro e; cases e)⟩,
   ⟨(loaded (Eng.order) (wordX 56 3 3 0 0 0) (wO [(1, 9), (2, 55)] fun c => (c.setSlot 100 {generation := 255}).modOrd fun o => { o with staged := [.key 100 (vsl 1) none none stageModes] })), 3, 100, (vsl 1), by and_intros <;> first | decide +kernel | (unfold Chip.canIssue; decide +kernel) | exact ⟨_, _, rfl, by decide +kernel⟩⟩,
   ⟨(loaded (Eng.order) (wordX 56 4 0 0 0 0) (wO [(1, 9), (2, 55)] fun c => (c.setSlot 100 {generation := 255}).modOrd fun o => { o with staged := [.key 100 (vsl 1) none none stageModes] })), by and_intros <;> first | decide +kernel | (unfold Chip.canIssue; decide +kernel) | exact ⟨_, _, rfl, by decide +kernel⟩⟩,
   ⟨(loaded (Eng.order) (wordX 56 5 3 1 0 1) (wO [(1, 0), (2, 55)])), 3, 1, by and_intros <;> first | decide +kernel | (unfold Chip.canIssue; decide +kernel) | exact ⟨_, _, rfl, by decide +kernel⟩⟩,
   ⟨(loaded (Eng.order) (wordX 56 5 3 1 0 0) (wO [(1, 90), (2, 55)])), 3, 1, by and_intros <;> first | decide +kernel | (unfold Chip.canIssue; decide +kernel) | exact ⟨_, _, rfl, by decide +kernel⟩⟩,
   ⟨(wO [(1, 90), (2, 55)] fun c => c.modOrd fun o => { o with owait := some (3, true, 0, 100) }), 3, 0, 100, by decide +kernel⟩⟩

/-- The hypotheses of `Obligations.VigilProgram`, clause by clause, are met together. -/
theorem witness_VigilProgram :
    (∃ (s : State) (d : Fin 32) (a : Fin 32) (b : Fin 32), s.chip.canIssue Eng.vigil ∧ d.val < 8 ∧ a.val < 8 ∧ b.val < 8 ∧
      s.chip.fetched (Instr.vsense Eng.vigil d 0)) ∧
    (∃ (s : State) (d : Fin 32) (a : Fin 32) (b : Fin 32), s.chip.canIssue Eng.vigil ∧ d.val < 8 ∧ a.val < 8 ∧ b.val < 8 ∧
      s.chip.fetched (Instr.vsense Eng.vigil d 1)) ∧
    (∃ (s : State) (d : Fin 32) (a : Fin 32) (b : Fin 32), s.chip.canIssue Eng.vigil ∧ d.val < 8 ∧ a.val < 8 ∧ b.val < 8 ∧
      s.chip.fetched (Instr.vsense Eng.vigil d 2)) ∧
    (∃ (s : State) (d : Fin 32) (a : Fin 32) (b : Fin 32), s.chip.canIssue Eng.vigil ∧ d.val < 8 ∧ a.val < 8 ∧ b.val < 8 ∧
      s.chip.fetched (Instr.vsense Eng.vigil d 4)) ∧
    (∃ (s : State) (d : Fin 32) (a : Fin 32) (b : Fin 32), s.chip.canIssue Eng.vigil ∧ d.val < 8 ∧ a.val < 8 ∧ b.val < 8 ∧
      s.chip.fetched (Instr.vsense Eng.vigil d 5)) ∧
    (∃ (s : State) (d : Fin 32) (a : Fin 32) (b : Fin 32), s.chip.canIssue Eng.vigil ∧ d.val < 8 ∧ a.val < 8 ∧ b.val < 8 ∧
      s.chip.fetched (Instr.verase Eng.vigil)) ∧
    (∃ (s : State) (d : Fin 32) (a : Fin 32) (b : Fin 32), s.chip.canIssue Eng.vigil ∧ d.val < 8 ∧ a.val < 8 ∧ b.val < 8 ∧
      s.chip.fetched (Instr.vflag Eng.vigil a)) ∧
    (∃ (s : State) (d : Fin 32) (a : Fin 32) (b : Fin 32), s.chip.canIssue Eng.vigil ∧ d.val < 8 ∧ a.val < 8 ∧ b.val < 8 ∧ 8 ≤
      BitVec.toNat (s.chip.gGet Eng.vigil a) ∧ BitVec.toNat (s.chip.gGet Eng.vigil a) ≤ 511 ∧ s.chip.fetched (Instr.vnote
      Eng.vigil a b)) ∧
    (∃ (s : State) (d : Fin 32) (a : Fin 32) (b : Fin 32), s.chip.canIssue Eng.vigil ∧ d.val < 8 ∧ a.val < 8 ∧ b.val < 8 ∧
      (BitVec.toNat (s.chip.gGet Eng.vigil a) < 8 ∨ 511 < BitVec.toNat (s.chip.gGet Eng.vigil a)) ∧ s.chip.fetched (Instr.vnote
      Eng.vigil a b)) ∧
    (∃ (s : State) (i : Image), s.chip.eng.vigilPend ≠ 0 ∧ (s.chip.ectx Eng.vigil).running = false ∧ s.chip.ctl.mode =
      Mode.vigil ∧ (s.chip.target 9).active = some i ∧ s.chip.eng.vigilCrcBad = false) ∧
    (∃ (s : State), s.chip.eng.vigilPend ≠ 0 ∧ (s.chip.ectx Eng.vigil).running = false ∧ s.chip.ctl.mode = Mode.vigil ∧
      (s.chip.target 9).active = none) :=
  ⟨⟨(loaded (Eng.vigil) (wordX 60 0 3 0 0 0) (wV [])), 3, 1, 2, by and_intros <;> first | decide +kernel | (unfold Chip.canIssue; decide +kernel) | exact ⟨_, _, rfl, by decide +kernel⟩⟩,
   ⟨(loaded (Eng.vigil) (wordX 60 0 3 0 0 1) (wV [])), 3, 1, 2, by and_intros <;> first | decide +kernel | (unfold Chip.canIssue; decide +kernel) | exact ⟨_, _, rfl, by decide +kernel⟩⟩,
   ⟨(loaded (Eng.vigil) (wordX 60 0 3 0 0 2) (wV [])), 3, 1, 2, by and_intros <;> first | decide +kernel | (unfold Chip.canIssue; decide +kernel) | exact ⟨_, _, rfl, by decide +kernel⟩⟩,
   ⟨(loaded (Eng.vigil) (wordX 60 0 3 0 0 4) (wV [])), 3, 1, 2, by and_intros <;> first | decide +kernel | (unfold Chip.canIssue; decide +kernel) | exact ⟨_, _, rfl, by decide +kernel⟩⟩,
   ⟨(loaded (Eng.vigil) (wordX 60 0 3 0 0 5) (wV [])), 3, 1, 2, by and_intros <;> first | decide +kernel | (unfold Chip.canIssue; decide +kernel) | exact ⟨_, _, rfl, by decide +kernel⟩⟩,
   ⟨(loaded (Eng.vigil) (wordX 60 1 0 0 0 0) (wV [])), 3, 1, 2, by and_intros <;> first | decide +kernel | (unfold Chip.canIssue; decide +kernel) | exact ⟨_, _, rfl, by decide +kernel⟩⟩,
   ⟨(loaded (Eng.vigil) (wordX 60 2 0 1 0 0) (wV [(1, 9)])), 3, 1, 2, by and_intros <;> first | decide +kernel | (unfold Chip.canIssue; decide +kernel) | exact ⟨_, _, rfl, by decide +kernel⟩⟩,
   ⟨(loaded (Eng.vigil) (wordX 60 3 0 1 2 0) (wV [(1, 9), (2, 77)])), 3, 1, 2, by and_intros <;> first | decide +kernel | (unfold Chip.canIssue; decide +kernel) | exact ⟨_, _, rfl, by decide +kernel⟩⟩,
   ⟨(loaded (Eng.vigil) (wordX 60 3 0 1 2 0) (wV [(1, 512), (2, 77)])), 3, 1, 2, by and_intros <;> first | decide +kernel | (unfold Chip.canIssue; decide +kernel) | exact ⟨_, _, rfl, by decide +kernel⟩⟩,
   ⟨wVs, img, by decide +kernel⟩,
   ⟨(on fun c => (c.inM .vigil).modEng fun e => { e with vigilPend := 5 }), by decide +kernel⟩⟩

end W04

namespace W06

def H := mkHandle 1 3 100
def vsl (t : BitVec 2) : Slot := { state := 1, type := t, generation := 1, function := 3, count := 5, depth := 2, key := 0x1234 }
def ka : KeyAttr := { type := 2, klen := false, inheritRevoke := false, ephemeral := false, function := 24, parent := 0, count := 5 }
def A : DWord := 0x500000302
def wV := on fun c => c.setSlot 100 (vsl 1)
def pb : Bytes := [2,0,0,0,0,0,0,5] ++ List.replicate 16 7
def wF := on fun c => ((c.inM .provision).modCtl fun k => { k with pinOk := some 50000 }).modPnl fun p => { p with held := some { clear := true, data := pb, ends := 50000} }
def wD := on fun c => c.setTarget 6 { active := some img }
def wVp := on fun c => (c.setSlot 100 (vsl 1)).modPan fun p => { p with stopped := true }
def wVt := on fun c => (c.setSlot 100 (vsl 0)).modCtl fun k => { k with tkDis := true }
def stb : Bytes := beBytes 4 0x594C5354 ++ beBytes 2 1 ++ [0,0] ++ beBytes 4 3 ++ beBytes 4 1 ++ List.replicate 96 9
def wL := on fun c => (c.inM .provision).modVlt fun v => { v with storeV := 3, sealA := some 7, digestConf := digest64 stb }
def wT := on fun c => (c.inM .maintenance).modCtl fun k => {k with auth := some ⟨[], 9, 9, 0x20, 1000⟩, pinOk := some 50000}
def stg (x : Staged) (c : Chip) := c.modOrd fun o => { o with staged := [x] }
def wW2 := on fun c => ((c.setSlot 100 (vsl 2)).setSlot 101 { vsl 2 with parent := mkHandle 1 3 100, inheritRevoke := true}).modVlt fun v => { v with walkBusy := true, walkRevoked := 3 }

/-- The hypotheses of `Obligations.KeyOrdersStage`, clause by clause, are met together. -/
theorem witness_KeyOrdersStage :
    (∃ (s : State) (h : Word) (attr : DWord) (a : KeyAttr) (key : BitVec 256), s.chip.orderFree ∧ s.chip.inMode loadModes = true
      ∧ (attrOf attr = some a ∧ s.chip.ctl.d3Taint = false ∧ s.chip.checkTarget h = 0) ∧ (s.chip.stagedCount < 64 ∧
      s.chip.stagedSlot (slotOf h) = false) ∧ (a.klen = false → key.toNat % 2 ^ 128 = 0)) ∧
    (∃ (s : State) (h : Word) (attr : DWord) (a : KeyAttr) (kek : Word), s.chip.orderFree ∧ s.chip.inMode stageModes = true ∧
      (attrOf attr = some a ∧ s.chip.ctl.d3Taint = false ∧ s.chip.checkTarget h = 0) ∧ s.chip.ord.staged = [] ∧
      s.chip.dmaAllowed 0 = true ∧ s.chip.checkUse kek 1 = 0 ∧ 2 ≤ (s.chip.slot (slotOf kek)).count ∧ (s.chip.slot (slotOf
      kek)).depth ≤ 7) ∧
    (∃ (s : State) (h : Word) (attr : DWord) (a : KeyAttr) (b : FillBlob) (x : Blob), s.chip.orderFree ∧ s.chip.heldBlob = some
      b ∧ b.clear = true ∧ s.chip.ctl.mode = Mode.provision ∧ s.chip.pinValid = true ∧ plainBlob b.data = some x ∧ (attrOf attr
      = some a ∧ s.chip.ctl.d3Taint = false ∧ s.chip.checkTarget h = 0) ∧ (s.chip.stagedCount < 64 ∧ s.chip.stagedSlot (slotOf
      h) = false)) ∧
    (∃ (s : State) (h : Word) (attr : DWord) (a : KeyAttr), s.chip.orderFree ∧ s.chip.inMode stageModes = true ∧ (attrOf attr =
      some a ∧ s.chip.ctl.d3Taint = false ∧ s.chip.checkTarget h = 0) ∧ s.chip.entFailed = false) ∧
    (∃ (s : State) (h : Word) (force : Word), s.chip.orderFree ∧ s.chip.inMode stageModes = true ∧ BitVec.toNat force ≤ 1 ∧ fnOf
      h < 66 ∧ s.chip.ord.staged = [] ∧ ((s.chip.slot (slotOf h)).state = 1 → genOf h = (s.chip.slot (slotOf h)).generation) ∧
      ((s.chip.slot (slotOf h)).bound = true → force = 1)) ∧
    (∃ (s : State) (slot : Byte) (entry : Byte) (n : BitVec 16) (inputs : List Word) (targets : List Word) (i : Image) (pc :
      Nat), s.chip.orderFree ∧ s.chip.inMode stageModes = true ∧ BitVec.toNat slot ≤ 3 ∧ n.toNat ≤ 240 ∧ (s.chip.target (4 +
      BitVec.toNat slot)).active = some i ∧ i.entries[BitVec.toNat entry]? = some pc ∧ (((List.take 4 inputs ++ List.take 4
      targets).all fun x => decide (fnOf x < 66)) = true)) :=
  ⟨⟨wV, H, A, ka, (0x77 <<< 128), by unfold Chip.orderFree; decide +kernel⟩,
   ⟨wV, (mkHandle 0 3 200), A, ka, H, by unfold Chip.orderFree; decide +kernel⟩,
   ⟨wF, (mkHandle 0 3 200), A, ka, { clear := true, data := pb, ends := 50000 }, { type := 2, klen := false, inheritRevoke := false, ephemeral := false, count := 5, key := BitVec.ofNat 256 (beNat (pb.drop 8)) }, by unfold Chip.orderFree; decide +kernel⟩,
   ⟨wV, H, A, ka, by unfold Chip.orderFree; decide +kernel⟩,
   ⟨(on fun c => c.setSlot 100 {bound := true, state := 0, generation := 1}), H, 1, by unfold Chip.orderFree; decide +kernel⟩,
   ⟨wD, 2, 1, 6, [H, 2], [3], img, 8, by unfold Chip.orderFree; decide +kernel⟩⟩

/-- The hypotheses of `Obligations.StoreAndStatementOrders`, clause by clause, are met together. -/
theorem witness_StoreAndStatementOrders :
    (∃ (s : State) (h : Word), s.chip.orderFree ∧ s.chip.inMode infoModes = true ∧ s.chip.dmaAllowed 0 = true ∧ fnOf h < 66 ∧
      genOf h = (s.chip.slot (slotOf h)).generation ∧ ((s.chip.slot (slotOf h)).state ≠ 1 ∨ s.chip.pan.stopped = true ∧
      (s.chip.ctl.tkDis && decide ((s.chip.slot (slotOf h)).type = 0)) = false)) ∧
    (∃ (s : State) (h : Word), s.chip.orderFree ∧ s.chip.inMode infoModes = true ∧ s.chip.dmaAllowed 0 = true ∧ fnOf h < 66 ∧
      genOf h = (s.chip.slot (slotOf h)).generation ∧ (s.chip.slot (slotOf h)).state = 1 ∧ (s.chip.ctl.tkDis && decide
      ((s.chip.slot (slotOf h)).type = 0)) = true) ∧
    (∃ (s : State) (h : Word), s.chip.orderFree ∧ s.chip.inMode infoModes = true ∧ s.chip.dmaAllowed 0 = true ∧ fnOf h < 66 ∧
      genOf h = (s.chip.slot (slotOf h)).generation ∧ (s.chip.slot (slotOf h)).state = 1 ∧ s.chip.pan.stopped = false ∧
      (s.chip.ctl.tkDis && decide ((s.chip.slot (slotOf h)).type = 0)) = false) ∧
    (∃ (s : State) (h : Word) (outLen : Word), s.chip.orderFree ∧ s.chip.inMode (infoModes ++ [Mode.erased]) = true ∧
      s.chip.dmaAllowed 0 = true ∧ 1120 ≤ BitVec.toNat outLen ∧ h ≠ 0 ∧ s.chip.checkKey h = 0 ∧ ((s.chip.slot (slotOf h)).state
      ≠ 1 ∨ s.chip.pan.stopped = true ∧ (s.chip.ctl.tkDis && decide ((s.chip.slot (slotOf h)).type = 0)) = false)) ∧
    (∃ (s : State) (h : Word) (outLen : Word), s.chip.orderFree ∧ s.chip.inMode (infoModes ++ [Mode.erased]) = true ∧
      s.chip.dmaAllowed 0 = true ∧ 1120 ≤ BitVec.toNat outLen ∧ h ≠ 0 ∧ s.chip.checkKey h = 0 ∧ (s.chip.slot (slotOf h)).state =
      1 ∧ (s.chip.ctl.tkDis && decide ((s.chip.slot (slotOf h)).type = 0)) = true) ∧
    (∃ (s : State) (h : Word) (outLen : Word), s.chip.orderFree ∧ s.chip.inMode (infoModes ++ [Mode.erased]) = true ∧
      s.chip.dmaAllowed 0 = true ∧ 1120 ≤ BitVec.toNat outLen ∧ h ≠ 0 ∧ s.chip.checkKey h = 0 ∧ (s.chip.slot (slotOf h)).state =
      1 ∧ s.chip.pan.stopped = false ∧ (s.chip.ctl.tkDis && decide ((s.chip.slot (slotOf h)).type = 0)) = false) ∧
    (∃ (s : State) (h : Word) (outLen : Word), s.chip.orderFree ∧ s.chip.inMode (infoModes ++ [Mode.erased]) = true ∧
      s.chip.dmaAllowed 0 = true ∧ 1120 ≤ BitVec.toNat outLen ∧ h = 0) ∧
    (∃ (s : State) (outLen : Word), s.chip.orderFree ∧ s.chip.inMode storeModes = true ∧ s.chip.vlt.storeV ≠ 4294967295 ∧
      s.chip.storeLen ≤ BitVec.toNat outLen ∧ s.chip.entFailed = false) ∧
    (∃ (s : State), s.chip.orderFree ∧ s.chip.inMode storeModes = true ∧ s.chip.vlt.storePending = true ∧ s.chip.vlt.storeV + 1
      < 4294967295 ∧ s.chip.logs) ∧
    (∃ (s : State) (b : Bytes), s.chip.orderFree ∧ s.chip.ctl.mode = Mode.provision ∧ s.chip.ctl.d3Taint = false ∧
      s.chip.dmaAllowed 0 = true ∧ List.length b = 112 ∧ slice b 0 6 = beBytes 4 1498174292 ++ beBytes 2 1 ∧ beNat (slice b 8 4)
      = s.chip.vlt.storeV ∧ beNat (slice b 12 4) = 1 ∧ digest64 b = s.chip.vlt.digestConf ∧ s.chip.vlt.storePending = false) ∧
    (∃ (s : State), s.chip.orderFree ∧ s.chip.inMode [Mode.provision, Mode.maintenance] = true ∧ s.chip.entFailed = false) :=
  ⟨⟨wVp, H, by unfold Chip.orderFree; decide +kernel⟩,
   ⟨wVt, H, by unfold Chip.orderFree; decide +kernel⟩,
   ⟨wV, H, by unfold Chip.orderFree; decide +kernel⟩,
   ⟨wVp, H, 1120, by unfold Chip.orderFree; decide +kernel⟩,
   ⟨wVt, H, 1120, by unfold Chip.orderFree; decide +kernel⟩,
   ⟨wV, H, 1120, by unfold Chip.orderFree; decide +kernel⟩,
   ⟨wV, 0, 1120, by unfold Chip.orderFree; decide +kernel⟩,
   ⟨wV, 1120, by unfold Chip.orderFree; decide +kernel⟩,
   ⟨(on fun c => c.modVlt fun v => { v with storePending := true }), by unfold Chip.logs Chip.orderFree; decide +kernel⟩,
   ⟨wL, stb, by and_intros <;> first | decide +kernel | (unfold Chip.orderFree; decide +kernel) | rfl⟩,
   ⟨(on (·.inM .maintenance)), by unfold Chip.orderFree; decide +kernel⟩⟩

/-- The hypotheses of `Obligations.OwnerTransferProgramsNextSlot`, clause by clause, are met together. -/
theorem witness_OwnerTransferProgramsNextSlot :
    (∃ (s : State) (i : Nat), s.chip.nextOwner = some i ∧ s.chip.orderFree ∧ s.chip.ctl.mode = Mode.maintenance ∧
      s.chip.ctl.zeroizing = none ∧ s.chip.authHere 32 = true ∧ s.chip.pinValid = true) ∧
    (∃ (s : State) (i : Nat) (h : BitVec 384) (cause : Nat) (t : Nat), s.chip.nextOwner = some i ∧ s.chip.ctl.transfer = some h
      ∧ s.chip.ctl.zeroizing = some (cause, t)) :=
  ⟨⟨wT, 0, by unfold Chip.orderFree; decide +kernel⟩,
   ⟨(on fun c => (c.inM .maintenance).modCtl fun k => {k with transfer := some 5, zeroizing := some (0, 3)}), 0, 5, 0, 3, by decide +kernel⟩⟩

/-- The hypotheses of `Obligations.CommitAppliesStaged`, clause by clause, are met together. -/
theorem witness_CommitAppliesStaged :
    (∃ (s : State) (slot : Nat) (record : Slot), s.chip.orderFree ∧ s.chip.ord.regWrites = [] ∧ s.chip.ord.heldFill = false ∧
      s.chip.inMode stageModes = true ∧ s.chip.ord.staged = [Staged.key slot record none none stageModes] ∧ (s.chip.slot
      slot).state = 0 ∧ (s.chip.slot slot).bound = false) ∧
    (∃ (s : State) (slot : Nat) (gen : Nat) (force : Bool), s.chip.orderFree ∧ s.chip.ord.regWrites = [] ∧ s.chip.ord.heldFill =
      false ∧ s.chip.inMode stageModes = true ∧ s.chip.ord.staged = [Staged.release slot gen force] ∧ (s.chip.slot slot).state =
      1 ∧ (s.chip.slot slot).generation = gen ∧ ((s.chip.slot slot).bound = true → force = true)) :=
  ⟨⟨(on (stg (.key 100 (vsl 2) none none stageModes))), 100, (vsl 2), by unfold Chip.orderFree; decide +kernel⟩,
   ⟨(on fun c => (stg (.release 100 1 true) c).setSlot 100 { vsl 2 with bound := true}), 100, 1, true, by unfold Chip.orderFree; decide +kernel⟩⟩

/-- The hypotheses of `Obligations.VaultUpkeep`, clause by clause, are met together. -/
theorem witness_VaultUpkeep :
    (∃ (s : State), s.chip.vlt.walkBusy = true) ∧
    (∃ (s : State), (s.chip.faultChan 5 0).times = [] ∧ (s.chip.faultChan 5 0).retired = false ∧ 1 ≤ s.chip.getF
      F.FLT_CFG_perm_rate []) ∧
    (∃ (s : State) (i : Fin 131072), (s.chip.slot i.val).type ≠ 0 ∧ (s.chip.slot i.val).count = 0 ∧ (s.chip.slot i.val).state =
      1 ∧ (SMap.get (fun x => false) s.chip.vlt.exhaustedSaid i.val = false) ∧ s.chip.logs) :=
  ⟨⟨wW2, by decide +kernel⟩,
   ⟨wW2, by decide +kernel⟩,
   ⟨(on fun c => c.setSlot 100 { vsl 2 with count := 0 }), 100, by unfold Chip.logs; decide +kernel⟩⟩

end W06

namespace W07

def wSys := on id
def wC (v : Word) := on fun c => { c with shadow := [(F.TMP_TEMP_CFG_lo.key [], some v)] }
def wE (r : Nat) (g : Ring) := on fun c => (c.setF F.HIF_RING_CFG_en [r] 1).setRing r g
def wLa := on fun c => ((c.setF F.HIF_LA_OWNER_function [2] 3).setF F.HIF_RING_CFG_en [66] 1).setRing 66 {drv := 3, own := 2}

/-- A COMMIT is under way, with a response set and a reference that stands `n` above the CRC of the configuration. -/
def sweepAt (resp : Nat) (n : Word) : State := on fun c =>
  let c := (c.setF F.SYS_COMMIT_busy [] 1).setF F.SYS_CFG_CHK_resp [] resp
  c.modHif fun h => { h with cfgRef := some (BitVec.ofNat 32 (c.cfgCrc false) + n) }

theorem cfgCrc_modHif (c : Chip) (f : HostIf → HostIf) (pair : Bool) : (c.modHif f).cfgCrc pair = c.cfgCrc pair := rfl

theorem sweep_ref {resp : Nat} {n : Word} :
    (sweepAt resp n).chip.hif.cfgRef = some (BitVec.ofNat 32 ((sweepAt resp n).chip.cfgCrc false) + n) := by
  unfold sweepAt on
  rw [cfgCrc_modHif]
  rfl

theorem eq_ref {c : Chip} (d : Nat) (h : c.hif.cfgRef = some (BitVec.ofNat 32 (c.cfgCrc false) + 0)) :
    c.cfgCrc false = match c.hif.cfgRef with | some r => r.toNat | none => d := by
  rw [h]
  simp [Chip.cfgCrc]

theorem add_one_ne (x : Nat) (d : Nat) (l : x < 2 ^ 32) : x ≠ match some (BitVec.ofNat 32 x + 1) with | some r => r.toNat | none => d := by
  intro e
  have u : (1 : Word).toNat = 1 := rfl
  simp only [BitVec.toNat_add, BitVec.toNat_ofNat, u] at e
  omega

theorem cfgCrc_lt (c : Chip) : c.cfgCrc false < 2 ^ 32 := by
  unfold Chip.cfgCrc
  exact BitVec.isLt _

theorem ne_ref {c : Chip} (d : Nat) (h : c.hif.cfgRef = some (BitVec.ofNat 32 (c.cfgCrc false) + 1)) :
    c.cfgCrc false ≠ match c.hif.cfgRef with | some r => r.toNat | none => d := by
  rw [h]
  exact add_one_ne _ d (cfgCrc_lt c)

/-- The hypotheses of `Obligations.RegisterWrites`, clause by clause, are met together. -/
theorem witness_RegisterWrites :
    (∃ (s : State) (off : Word) (r : RegId) (idx : List Nat) (at' : Word) (f : FieldRow), s.chip.takesWrite (BitVec.toNat off) ∧
      lookupReg (BitVec.toNat off) = some (r, idx) ∧ r ≠ RegId.SYS_COMMIT ∧ s.chip.evr.intake.length + 40 ≤ 256 ∧ (∀ (d : Chip)
      (acts : List (Nat × Nat × Nat)) (w : Nat), (d.startedCtl r idx acts).startedBlock r idx acts w = d) ∧ BitVec.toNat at' % 4
      = 0 ∧ BitVec.toNat at' < 8388608 ∧ BitVec.toNat at' / 128 * 4 = BitVec.toNat off ∧ f ∈ r.row.fields ∧ f.lo ≤ BitVec.toNat
      at' / 4 % 32 ∧ BitVec.toNat at' / 4 % 32 < f.lo + f.w ∧ f.acc = Acc.rw ∧ f.legal = Legal.any ∧ f.lock = Lock.open) ∧
    (∃ (s : State) (off : Word) (r : RegId) (idx : List Nat) (at' : Word) (bytes : Nat), s.chip.takesWrite (BitVec.toNat off) ∧
      lookupReg (BitVec.toNat off) = some (r, idx) ∧ r ≠ RegId.SYS_COMMIT ∧ s.chip.evr.intake.length + 40 ≤ 256 ∧ (∀ (d : Chip)
      (acts : List (Nat × Nat × Nat)) (w : Nat), (d.startedCtl r idx acts).startedBlock r idx acts w = d) ∧ (bytes ≠ 4 ∨
      BitVec.toNat at' % 4 ≠ 0)) :=
  ⟨⟨(on fun c => c.setF F.SYS_SMB_CNT_pec [] 7), 0x28, .SYS_SMB_CNT, [], 0x544, ⟨16, 16, .rw, .val 0x0, .any, .open⟩, by and_intros <;> first | decide +kernel | (unfold Chip.takesWrite; decide +kernel) | (intro d acts w; rfl)⟩,
   ⟨wSys, 0x28, .SYS_SMB_CNT, [], 0x544, 8, by and_intros <;> first | decide +kernel | (unfold Chip.takesWrite; decide +kernel) | (intro d acts w; rfl)⟩⟩

/-- The hypotheses of `Obligations.CommitAndConfigurationCheck`, clause by clause, are met together. -/
theorem witness_CommitAndConfigurationCheck :
    (∃ (s : State), s.chip.takesWrite (regAt RegId.SYS_COMMIT []) ∧ s.chip.getB F.SYS_COMMIT_busy [] = true ∧ s.chip.logs) ∧
    (∃ (s : State), s.chip.takesWrite (regAt RegId.SYS_COMMIT []) ∧ s.chip.getB F.SYS_COMMIT_busy [] = false ∧ s.chip.slu.staged
      = [] ∧ s.chip.slu.swapAsked = [] ∧ (SMap.wf (fun _ => none) s.chip.shadow = true) ∧ (∀ p ∈ s.chip.shadow, p.1 / 32 / 65536
      ∈ [1, 2, 4, 5, 6, 16, 24, 32, 80, 96, 128, 160, 161]) ∧ (∀ x ∈ constraints, x.holds s.chip.shadowed = true)) ∧
    (∃ (s : State) (v : Word), s.chip.takesWrite (regAt RegId.SYS_COMMIT []) ∧ s.chip.getB F.SYS_COMMIT_busy [] = false ∧
      (s.chip.shadow = [(F.TMP_TEMP_CFG_lo.key [], some v)] ∧ s.chip.slu.staged = [] ∧ s.chip.slu.swapAsked = [] ∧ BitVec.toNat
      v ≠ s.chip.inForce (F.TMP_TEMP_CFG_lo.key [])) ∧ (∀ x ∈ constraints, x.holds s.chip.inForce = true) ∧ (¬signed8
      (BitVec.toNat v) < signed8 (s.chip.getF F.TMP_TEMP_CFG_hi []) - 10)) ∧
    (∃ (s : State), s.chip.powered = true ∧ s.chip.getB F.SYS_COMMIT_busy [] = false ∧ s.chip.hif.firstCommit = false) ∧
    (∃ (s : State), s.chip.powered = true ∧ s.chip.getB F.SYS_COMMIT_busy [] = true ∧ s.chip.hif.rejecting = false ∧
      s.chip.cfgCrc false = (match s.chip.hif.cfgRef with | some r => r.toNat | none => s.chip.getF F.SYS_CFG_REF_ref [])) ∧
    (∃ (s : State), s.chip.powered = true ∧ s.chip.getB F.SYS_COMMIT_busy [] = true ∧ s.chip.hif.rejecting = false ∧
      s.chip.cfgCrc false ≠ (match s.chip.hif.cfgRef with | some r => r.toNat | none => s.chip.getF F.SYS_CFG_REF_ref []) ∧
      s.chip.getB F.SYS_CFG_CHK_resp [] = false) ∧
    (∃ (s : State), s.chip.powered = true ∧ s.chip.getB F.SYS_COMMIT_busy [] = true ∧ s.chip.hif.rejecting = false ∧
      s.chip.cfgCrc false ≠ (match s.chip.hif.cfgRef with | some r => r.toNat | none => s.chip.getF F.SYS_CFG_REF_ref []) ∧
      s.chip.getB F.SYS_CFG_CHK_resp [] = true ∧ s.chip.inMode lockdownFrom = true ∧ s.chip.ctl.zeroizing = none) :=
  ⟨⟨(on fun c => c.setF F.SYS_COMMIT_busy [] 1), by unfold Chip.logs Chip.takesWrite; decide +kernel⟩,
   ⟨(on fun c => { c with shadow := [(F.TMP_TEMP_CFG_lo.key [], some 0xF0), (F.PAN_LA_CFG_ring_inflight.key [], some 1)] }), by unfold Chip.takesWrite; decide +kernel⟩,
   ⟨(wC 0x72), 0x72, by unfold Chip.takesWrite; decide +kernel⟩,
   ⟨on id, by decide +kernel⟩,
   ⟨sweepAt 0 0, by decide +kernel, by decide +kernel, by decide +kernel, eq_ref ((sweepAt 0 0).chip.getF F.SYS_CFG_REF_ref []) sweep_ref⟩,
   ⟨sweepAt 0 1, by decide +kernel, by decide +kernel, by decide +kernel, ne_ref ((sweepAt 0 1).chip.getF F.SYS_CFG_REF_ref []) sweep_ref, by decide +kernel⟩,
   ⟨sweepAt 1 1, by decide +kernel, by decide +kernel, by decide +kernel, ne_ref ((sweepAt 1 1).chip.getF F.SYS_CFG_REF_ref []) sweep_ref, by decide +kernel, by decide +kernel, by decide +kernel⟩⟩

/-- The hypotheses of `Obligations.RingAndHostWrites`, clause by clause, are met together. -/
theorem witness_RingAndHostWrites :
    (∃ (s : State) (ring : Fin 256) (fn : Fin 66), s.chip.ringOwner ring.val = some fn.val ∧ s.chip.answers 131072 = true ∧
      s.chip.ringEn ring.val = false) ∧
    (∃ (s : State) (ring : Fin 256) (fn : Fin 66), s.chip.ringOwner ring.val = some fn.val ∧ s.chip.answers 131072 = true ∧
      s.chip.getF F.HIF_RING_CFG_en [ring.val] ≤ 1) ∧
    (∃ (s : State) (ring : Fin 256) (fn : Fin 66) (v : Word) (off : Word), s.chip.ringOwner ring.val = some fn.val ∧
      s.chip.answers 131072 = true ∧ s.chip.ringEn ring.val = true ∧ BitVec.toNat (v - (s.chip.ring ring.val).drv) < 2 ^ 31 ∧
      (if partProduces ring.val = true then BitVec.toNat ((s.chip.ring ring.val).own - v) else BitVec.toNat (v - (s.chip.ring
      ring.val).own)) ≤ s.chip.ringSize ring.val ∧ fn.val ≠ 0 ∧ s.chip.running = true ∧ BitVec.toNat off < 65536 ∧ BitVec.toNat
      off % 4 = 0 ∧ s.chip.ownerOffset fn.val (BitVec.toNat off) = some (regAt RegId.HIF_RING_DB [ring.val])) ∧
    (∃ (s : State) (ring : Fin 256) (fn : Fin 66) (v : Word), s.chip.ringOwner ring.val = some fn.val ∧ s.chip.answers 131072 =
      true ∧ s.chip.ringEn ring.val = true ∧ 2 ^ 31 ≤ BitVec.toNat (v - (s.chip.ring ring.val).drv) ∧ s.chip.logs) ∧
    (∃ (s : State) (pair : Fin 96) (f : BitVec 7), s.chip.takesWrite (regAt RegId.HIF_LA_OWNER [pair.val]) ∧ f.toNat ≤ 65 ∧
      s.chip.ringEn (64 + pair.val) = false ∧ s.chip.ringEn (160 + pair.val) = false) ∧
    (∃ (s : State) (bytes : Nat), s.chip.running = true ∧ bytes ≠ 4) ∧
    (∃ (s : State) (fn : Fin 66) (off : Word), s.chip.running = true ∧ BitVec.toNat off % 4 = 0 ∧ BitVec.toNat off < msixSize
      fn.val * 16 ∧ BitVec.toNat off / 4 % 4 ≠ 3) :=
  ⟨⟨wSys, 5, 0, by decide +kernel⟩,
   ⟨(wE 5 {drv := 3, own := 9}), 5, 0, by decide +kernel⟩,
   ⟨wLa, 66, 3, 6, 0x1C, by decide +kernel⟩,
   ⟨(wE 5 {drv := 3, own := 9}), 5, 0, 1, by unfold Chip.logs; decide +kernel⟩,
   ⟨(on (·.inM .provision)), 7, 9, by unfold Chip.takesWrite; decide +kernel⟩,
   ⟨wSys, 8, by decide +kernel⟩,
   ⟨wSys, 0, 0x14, by decide +kernel⟩⟩

end W07

namespace W08

def T (f : Tim → Tim) := on fun c => c.modTim f
def ck : Clock := { sec := 0x123456789, ns := 77, frac := 5, low := 9 }
def wSt := on fun c => ((((c.inM .provision).modTim fun t => {t with clock := ck}).setF F.TIM_SET_SEC_LO_sec [] 0x77).setF F.TIM_STAT_slewing [] 1).setF F.TIM_SET_SEC_HI_sec [] 3

/-- The hypotheses of `Obligations.TimeRegisterCommands`, clause by clause, are met together. -/
theorem witness_TimeRegisterCommands :
    (∃ (s : State), s.chip.takesWrite (regAt RegId.TIM_CTL []) ∧ s.chip.tim.clock.sec < 2 ^ 48 ∧ s.chip.tim.clock.ns < 10 ^ 9 ∧
      s.chip.tim.clock.frac < 2 ^ 16) ∧
    (∃ (s : State), s.chip.takesWrite (regAt RegId.TIM_CTL []) ∧ s.chip.inMode [Mode.provision, Mode.maintenance] = true ∧
      s.chip.epochValid = true ∧ s.chip.tim.epoch ≤ epochMax ∧ s.chip.logs) ∧
    (∃ (s : State), s.chip.takesWrite (regAt RegId.TIM_CTL []) ∧ s.chip.inMode [Mode.provision, Mode.maintenance] = false ∧
      s.chip.logs) ∧
    (∃ (s : State), s.chip.takesWrite (regAt RegId.TIM_CTL []) ∧ s.chip.getB F.TIM_CTL_hold [] = false ∧ s.chip.logs) ∧
    (∃ (s : State), s.chip.takesWrite (regAt RegId.TIM_CTL []) ∧ s.chip.getF F.TIM_CTL_hold [] = 1 ∧ s.chip.getF
      F.TIM_REF_CFG_src [] = 0) ∧
    (∃ (s : State), s.chip.takesWrite (regAt RegId.TIM_CTL []) ∧ s.chip.getB F.TIM_STAT_slewing [] = true) ∧
    (∃ (s : State) (hi : Byte), s.chip.takesWrite (regAt RegId.TIM_FREQ_HI []) ∧ (s.chip.getF F.TIM_REF_CFG_src [] = 0 ∨
      s.chip.refState ≠ 2) ∧ (signed 40 (BitVec.toNat hi * 2 ^ 32 + s.chip.getF F.TIM_FREQ_LO_f_lo [])).natAbs ≤ freqMax) ∧
    (∃ (s : State) (hi : Byte), s.chip.takesWrite (regAt RegId.TIM_FREQ_HI []) ∧ (s.chip.getF F.TIM_REF_CFG_src [] = 0 ∨
      s.chip.refState ≠ 2) ∧ freqMax < (signed 40 (BitVec.toNat hi * 2 ^ 32 + s.chip.getF F.TIM_FREQ_LO_f_lo [])).natAbs ∧
      s.chip.logs) ∧
    (∃ (s : State), s.chip.takesWrite (regAt RegId.TIM_ADJ_HI [])) :=
  ⟨⟨(T fun t => { t with clock := ck }), by unfold Chip.takesWrite; decide +kernel⟩,
   ⟨(on fun c => (wSt.chip.setF F.TIM_STAT_epoch_valid [] 1)), by unfold Chip.logs Chip.takesWrite; decide +kernel⟩,
   ⟨(T id), by unfold Chip.logs Chip.takesWrite; decide +kernel⟩,
   ⟨(T fun t => {t with elapsed := 5}), by unfold Chip.logs Chip.takesWrite; decide +kernel⟩,
   ⟨(on fun c => c.setF F.TIM_CTL_hold [] 1), by unfold Chip.takesWrite; decide +kernel⟩,
   ⟨(on fun c => c.setF F.TIM_STAT_slewing [] 1), by unfold Chip.takesWrite; decide +kernel⟩,
   ⟨(T id), 0xFF, by unfold Chip.takesWrite; decide +kernel⟩,
   ⟨(T id), 0x7F, by unfold Chip.logs Chip.takesWrite; decide +kernel⟩,
   ⟨(on fun c => (c.setF F.TIM_SLEW_CFG_max [] 200000).setF F.TIM_ADJ_LO_adj_lo [] 0xFFFFFFF0), by unfold Chip.takesWrite; decide +kernel⟩⟩

end W08

namespace W09

def sa9 : Sa := { state := 1, dir := true, highest := 0x500000007, nextPn := 9, key := 0x3030303 }
def w9 := on fun c => c.setSa 9 sa9
def wPr := on fun c => (c.inM .standby).modPrs fun p => { p with linkUp := [2], link := 2 }
def rq : PanReq := { kind := .cmac, pan := 9, slot := 5, gen := 1, subject := 0, blocks := 3 }
def wPa := on id
def wPb := on fun c => c.modPan fun p => { p with reqs := [(7, some rq)] }
def wPk (n from' : Nat) := on fun c => ((c.setF F.PAN_STAT_state [9] 2).modPan fun p => { p with katFrom := [(9, from')] }).setF F.PAN_STAT_kat_fails [9] n

/-- The hypotheses of `Obligations.BlockRegisterCommands`, clause by clause, are met together. -/
theorem witness_BlockRegisterCommands :
    (∃ (s : State), s.chip.takesWrite (regAt RegId.SAX_SA_SEL [])) ∧
    (∃ (s : State), s.chip.takesWrite (regAt RegId.ENT_CTL []) ∧ s.chip.ctl.mode = Mode.maintenance) ∧
    (∃ (s : State) (port : Fin 66), s.chip.takesWrite (regAt RegId.SLU_GCL_CFG [port.val])) ∧
    (∃ (s : State), s.chip.takesWrite (regAt RegId.SLU_IND_CMD [])) ∧
    (∃ (s : State), s.chip.takesWrite (regAt RegId.FWD_IND_CMD []) ∧ s.chip.getB F.FWD_IND_SEL_by_key [] = false) ∧
    (∃ (s : State), s.chip.takesWrite (regAt RegId.PRS_CTL []) ∧ s.chip.ctl.mode = Mode.standby ∧ s.chip.prs.linkUp.contains 2 =
      true ∧ s.chip.prs.link ≠ 4) ∧
    (∃ (s : State), s.chip.takesWrite (regAt RegId.EVR_DRAIN_CFG [])) ∧
    (∃ (s : State) (w : Word) (ws : List Word), s.chip.ideRefuses 524320 = false ∧ s.chip.answers 524320 = true ∧ s.chip.ent.raw
      = w :: ws) ∧
    (∃ (s : State), s.chip.ideRefuses 524320 = false ∧ s.chip.answers 524320 = true ∧ s.chip.ent.raw = []) ∧
    (∃ (s : State), s.chip.ideRefuses 524320 = true) :=
  ⟨⟨w9, by unfold Chip.takesWrite; decide +kernel⟩,
   ⟨(on fun c => (c.inM .maintenance).setBrine 1 { consec := 3, running := true }), by unfold Chip.takesWrite; decide +kernel⟩,
   ⟨w9, 3, by unfold Chip.takesWrite; decide +kernel⟩,
   ⟨(on fun c => (c.setF F.SLU_IND_SEL_table [] 3).setF F.SLU_IND_SEL_index [] 65535), by unfold Chip.takesWrite; decide +kernel⟩,
   ⟨w9, by unfold Chip.takesWrite; decide +kernel⟩,
   ⟨wPr, by unfold Chip.takesWrite; decide +kernel⟩,
   ⟨wPr, by unfold Chip.takesWrite; decide +kernel⟩,
   ⟨(on fun c => c.modEnt fun e => {e with raw := [5]}), 5, [], by decide +kernel⟩,
   ⟨w9, by decide +kernel⟩,
   ⟨(on fun c => c.setF F.HIF_IDE_CFG_required [] 1), by decide +kernel⟩⟩

/-- The hypotheses of `Obligations.PanServiceAndErrors`, clause by clause, are met together. -/
theorem witness_PanServiceAndErrors :
    (∃ (s : State) (j : Fin 24), s.chip.panState j.val ≤ 1 ∧ s.chip.takesWrite (regAt RegId.PAN_CTL [j.val])) ∧
    (∃ (s : State) (j : Fin 24), s.chip.panState j.val ≤ 1 ∧ (s.chip.requestsOn j.val).isEmpty = true) ∧
    (∃ (s : State) (j : Fin 24), s.chip.panState j.val ≤ 1 ∧ (s.chip.requestsOn j.val).isEmpty = false) ∧
    (∃ (s : State) (j : Fin 24), s.chip.takesWrite (regAt RegId.PAN_CTL [j.val]) ∧ s.chip.inMode [Mode.provision,
      Mode.maintenance] = true ∧ s.chip.panState j.val = 0) ∧
    (∃ (s : State) (j : Fin 24), s.chip.panState j.val = 2 ∧ (SMap.get (fun x => 0) s.chip.pan.katFrom j.val ≤ 1) ∧ s.chip.getF
      F.PAN_STAT_kat_fails [j.val] < 2) ∧
    (∃ (s : State) (j : Fin 24), s.chip.panState j.val = 2 ∧ (SMap.get (fun x => 0) s.chip.pan.katFrom j.val ≤ 1) ∧ 2 ≤
      s.chip.getF F.PAN_STAT_kat_fails [j.val] ∧ (s.chip.faultChan 2 j.val).retired = false ∧ s.chip.ctl.zeroizing = none) ∧
    (∃ (s : State) (j : Fin 24) (k : Nat) (r : PanReq), (SMap.wf (fun _ => none) s.chip.pan.reqs = true) ∧ s.chip.panReq k =
      some r ∧ r.pan = j.val ∧ r.served = false ∧ s.chip.panState j.val = 0 ∧ r.kind ≠ ReqKind.opening ∧ r.replays < 3 ∧
      (s.chip.faultChan 2 j.val).times = [] ∧ (s.chip.faultChan 2 j.val).retired = false ∧ (s.chip.faultClass 2).current = none
      ∧ 1 ≤ s.chip.getF F.FLT_CFG_perm_rate []) ∧
    (∃ (s : State), s.chip.inMode [Mode.sealed, Mode.provision, Mode.rest, Mode.maintenance, Mode.lockdown, Mode.erased] = true)
      ∧
    (∃ (s : State), s.chip.pan.stopped = true ∧ (∀ e ∈ s.chip.pan.reqs, e.2 = none)) :=
  ⟨⟨wPa, 5, by unfold Chip.takesWrite; decide +kernel⟩,
   ⟨wPa, 9, by decide +kernel⟩,
   ⟨wPb, 9, by decide +kernel⟩,
   ⟨(on fun c => (c.inM .provision).setF F.PAN_STAT_state [11] 2), 9, by unfold Chip.takesWrite; decide +kernel⟩,
   ⟨(wPk 1 0), 9, by decide +kernel⟩,
   ⟨(wPk 2 0), 9, by decide +kernel⟩,
   ⟨(on fun c => c.modPan fun p => { p with reqs := [(7, some rq)] }), 9, 7, rq, by decide +kernel⟩,
   ⟨(on (·.inM .maintenance)), by decide +kernel⟩,
   ⟨(on fun c => c.modPan fun p => { p with stopped := true, caches := [(3, [⟨1, 2, true, 5, 6⟩])] }), by decide +kernel⟩⟩

end W09

namespace W10

def wU (p b : Nat) := on fun c => (c.setF F.PRT_LINK_CFG_pmode [p] 2).setF F.PRT_LINK_CFG_en [p] (2^b)
def wUp (p b : Nat) : State := on fun c => ((c.setF F.PRT_LINK_CFG_pmode [p] 2).setF F.PRT_LINK_CFG_en [p] (2^b)).setF F.PRT_LINK_STAT_up [p] (2^b)
def wUL (i : Nat) := on fun c => c.setF F.LNK_LINK_CFG_en [i] 1
def wPr (g : Nat) := on fun c => (((c.inM .maintenance).setF F.SRD_PRBS_CFG_gen [5] g).setF F.SRD_PRBS_CFG_burst_len [5] 9)
def wSe : State := on fun c => ((wPr 1).chip.setF F.SRD_LANE_CTL_lpbk [5] 1).setF F.SRD_PRBS_CFG_chk [5] 1

/-- The hypotheses of `Obligations.LanesAndPorts`, clause by clause, are met together. -/
theorem witness_LanesAndPorts :
    (∃ (s : State) (p : Fin 16) (b : Fin 4), s.chip.inMode [Mode.off, Mode.vigil, Mode.wake, Mode.rest] = false ∧
      s.chip.subExists p.val b.val = true ∧ s.chip.subEnabled p.val b.val = true ∧ (s.chip.lanesOf p.val b.val).all
      s.chip.laneUsable = true ∧ s.chip.pan.downPorts = [] ∧ s.chip.portUp p.val b.val = false ∧ s.chip.getF F.PRT_LINK_STAT_up
      [p.val] < 16 ∧ s.chip.logs) ∧
    (∃ (s : State) (i : Fin 3), s.chip.inMode [Mode.off, Mode.vigil, Mode.wake, Mode.rest] = false ∧ s.chip.subEnabled (16 +
      i.val) 0 = true ∧ (s.chip.lanesOf (16 + i.val) 0).any s.chip.laneUsable = true ∧ s.chip.getF F.LNK_LINK_STAT_up [i.val] =
      0 ∧ s.chip.entFailed = false) ∧
    (∃ (s : State) (p : Fin 16) (b : Fin 4) (cause : Fin 4), s.chip.portUp p.val b.val = true ∧ cause ≠ 0 ∧ s.chip.logs) ∧
    (∃ (s : State) (lane : Fin 76), s.chip.takesWrite (regAt RegId.SRD_LANE_CTL [lane.val])) ∧
    (∃ (s : State) (lane : Fin 76), s.chip.takesWrite (regAt RegId.SRD_PRBS_CFG [lane.val]) ∧ s.chip.ctl.mode = Mode.maintenance
      ∧ s.chip.getB F.SRD_PRBS_CFG_gen [lane.val] = true) ∧
    (∃ (s : State) (lane : Fin 76), s.chip.takesWrite (regAt RegId.SRD_PRBS_CFG [lane.val]) ∧ s.chip.ctl.mode = Mode.maintenance
      ∧ s.chip.getB F.SRD_PRBS_CFG_gen [lane.val] = false) ∧
    (∃ (s : State), s.chip.running = true) ∧
    (∃ (s : State) (p : Fin 16) (b : Fin 4) (n : BitVec 16), 4 < n.toNat ∧ s.chip.portUp p.val b.val = true ∧ (s.chip.lanesOf
      p.val b.val).contains (p.val * 4 + b.val) = true ∧ s.chip.logs) ∧
    (∃ (s : State) (h : Fin 12), (s.chip.faultChan 1 (64 + h.val)).retired = true ∧ s.chip.srd.linkRetired.contains h.val =
      false ∧ 2 ≤ s.chip.linkLanes (h.val / 4)) ∧
    (∃ (s : State) (h : Fin 12), (s.chip.faultChan 1 (64 + h.val)).retired = false ∧ s.chip.srd.linkRetired.contains h.val =
      false ∧ 2 ≤ s.chip.linkLanes (h.val / 4) ∧ s.chip.anyUp (16 + h.val / 4) 0 = true) :=
  ⟨⟨{ wU 3 2 with chip := (wU 3 2).chip.setF F.PRT_LINK_CFG_lt [3] 1 }, 3, 2, by unfold Chip.logs; decide +kernel⟩,
   ⟨(wUL 0), 0, by decide +kernel⟩,
   ⟨(wUp 3 3), 3, 3, 2, by unfold Chip.logs; decide +kernel⟩,
   ⟨(on fun c => c.setF F.LNK_LINK_STAT_up [1] 2), 69, by unfold Chip.takesWrite; decide +kernel⟩,
   ⟨wSe, 5, by unfold Chip.takesWrite; decide +kernel⟩,
   ⟨(wPr 0), 5, by unfold Chip.takesWrite; decide +kernel⟩,
   ⟨(on id), by decide +kernel⟩,
   ⟨(wUp 9 3), 9, 3, 5, by unfold Chip.logs; decide +kernel⟩,
   ⟨(on fun c => (c.setFaultChan 1 66 {retired := true}).setF F.LNK_LINK_STAT_up [0] 1), 2, by decide +kernel⟩,
   ⟨(on fun c => c.setF F.LNK_LINK_STAT_up [0] 1), 2, by decide +kernel⟩⟩

end W10

namespace W11

def T (f : Tim → Tim) (g : Chip → Chip := id) := on fun c => g (c.modTim f)
def ck : Clock := { sec := 0x123456789, ns := 77, frac := 5, low := 9 }
def rs (a b : Nat) (c : Chip) := (c.setF F.TIM_STAT_ref_state [] a).setF F.TIM_REF_CFG_src [] b
def al (n f : Nat) := T (fun t => { t with clock := { ck with ns := n, frac := f } }) fun c => (c.setF F.TIM_PPS_CFG_in_en [] 1).setF F.TIM_REF_CFG_pps_align [] 1
def ev (f : Tim → Tim) := T f fun c => c.setF F.TIM_STAT_epoch_valid [] 1

/-- The hypotheses of `Obligations.TimeEvents`, clause by clause, are met together. -/
theorem witness_TimeEvents :
    (∃ (s : State) (f : BitVec 40), s.chip.refState = 2 ∧ s.chip.getF F.TIM_REF_CFG_src [] ≠ 0 ∧ f.toInt.natAbs ≤ freqMax) ∧
    (∃ (s : State) (t : Nat) (x : RateChange) (xs : List (Nat × RateChange)), s.chip.tim.changes = (t, x) :: xs ∧ s.chip.now ≤ t
      ∧ t < 2 ^ 64 ∧ (∀ y ∈ xs, t < y.1)) ∧
    (∃ (s : State) (t : Nat) (v : ℤ), s.chip.getB F.TIM_STAT_slewing [] = true ∧ s.chip.tim.changes = [(t, RateChange.slew v)] ∧
      s.chip.now < t ∧ t < 2 ^ 64 ∧ s.chip.logs) ∧
    (∃ (s : State), s.chip.getF F.TIM_REF_CFG_src [] ≠ 0 ∧ s.chip.getB F.TIM_CTL_hold [] = false ∧ s.chip.refState ≠ 2 ∧
      s.chip.logs) ∧
    (∃ (s : State), s.chip.refState = 2 ∧ s.chip.logs) ∧
    (∃ (s : State), s.chip.getB F.TIM_PPS_CFG_in_en [] = true ∧ s.chip.getB F.TIM_STAT_pps_new [] = false ∧ s.chip.tim.clock.sec
      < 2 ^ 48 ∧ s.chip.tim.clock.ns < 10 ^ 9 ∧ s.chip.tim.clock.frac < 2 ^ 16 ∧ s.chip.getB F.TIM_REF_CFG_pps_align [] = false)
      ∧
    (∃ (s : State), (s.chip.getB F.TIM_PPS_CFG_in_en [] = false ∨ s.chip.getB F.TIM_STAT_pps_new [] = true)) ∧
    (∃ (s : State), s.chip.getB F.TIM_PPS_CFG_in_en [] = true ∧ s.chip.getB F.TIM_STAT_pps_new [] = false ∧ s.chip.getB
      F.TIM_REF_CFG_pps_align [] = true ∧ s.chip.tim.clock.ns * 2 ^ 16 + s.chip.tim.clock.frac ≠ 500000000 * 2 ^ 16 ∧
      s.chip.logs) ∧
    (∃ (s : State), s.chip.getB F.TIM_PPS_CFG_out_en [] = true ∧ s.chip.tim.ppsOut = false ∧ s.chip.inMode [Mode.off,
      Mode.vigil, Mode.wake] = false) ∧
    (∃ (s : State), s.chip.tim.ppsOut = true ∧ s.chip.tim.ppsRose + s.chip.getF F.TIM_PPS_CFG_width [] * 1000000 < 2 ^ 64) ∧
    (∃ (s : State) (port : Fin 2), s.chip.getF F.TIM_REF_CFG_src [] = 2 ∧ s.chip.getB F.TIM_CTL_hold [] = false ∧ port.val =
      s.chip.timePort ∧ s.chip.tim.stackGot = false ∧ s.chip.inMode [Mode.provision, Mode.maintenance] = true) ∧
    (∃ (s : State) (port : Fin 2), s.chip.getF F.TIM_REF_CFG_src [] = 2 ∧ s.chip.getB F.TIM_CTL_hold [] = false ∧ port.val =
      s.chip.timePort ∧ s.chip.tim.stackGot = true ∧ s.chip.refState = 2) ∧
    (∃ (s : State) (port : Fin 2), port.val ≠ s.chip.timePort) :=
  ⟨⟨(on (rs 2 1)), 0xFFFFFFFFFF, by decide +kernel⟩,
   ⟨(T fun t => { t with changes := [(70, .slew 3)] }), 70, (.slew 3), [], by decide +kernel⟩,
   ⟨(T (fun t => { t with slew := 5, remain := 100, clock := ck, changes := [(90, .slew 0)] }) fun c => c.setF F.TIM_STAT_slewing [] 1), 90, 0, by unfold Chip.logs; decide +kernel⟩,
   ⟨(on (rs 3 1)), by unfold Chip.logs; decide +kernel⟩,
   ⟨(on (rs 2 1)), by unfold Chip.logs; decide +kernel⟩,
   ⟨(T (fun t => { t with clock := ck }) fun c => c.setF F.TIM_PPS_CFG_in_en [] 1), by decide +kernel⟩,
   ⟨(T (fun t => { t with clock := ck }) fun c => (c.setF F.TIM_PPS_CFG_in_en [] 1).setF F.TIM_STAT_pps_new [] 1), by decide +kernel⟩,
   ⟨(al 500000000 1), by unfold Chip.logs; decide +kernel⟩,
   ⟨(T (fun t => { t with clock := {ck with ns := 0, frac := 0, low := 0} }) fun c => c.setF F.TIM_PPS_CFG_out_en [] 1), by decide +kernel⟩,
   ⟨(T fun t => { t with ppsOut := true, ppsRose := 50 }), by decide +kernel⟩,
   ⟨(on fun c => ((rs 0 2 (c.inM .provision)))), 0, by decide +kernel⟩,
   ⟨(T (fun t => { t with clock := {ck with ns := 80}, acquired := true, stackGot := true }) (rs 2 2)), 0, by decide +kernel⟩,
   ⟨(on (rs 2 2)), 1, by decide +kernel⟩⟩

/-- The hypotheses of `Obligations.EpochCounter`, clause by clause, are met together. -/
theorem witness_EpochCounter :
    (∃ (s : State), s.chip.ticking = true) ∧
    (∃ (s : State), s.chip.epochValid = false ∧ s.chip.tim.acquired = true) ∧
    (∃ (s : State), s.chip.tim.epoch = epochMax ∧ s.chip.getB F.TIM_STAT_epoch_end [] = false ∧ s.chip.logs) ∧
    (∃ (s : State), s.chip.ticking = false) :=
  ⟨⟨(ev fun t => { t with epoch := 5, clock := ck }), by decide +kernel⟩,
   ⟨(T fun t => { t with acquired := true, epoch := 7 }), by decide +kernel⟩,
   ⟨(T fun t => { t with acquired := true, epoch := epochMax }), by unfold Chip.logs; decide +kernel⟩,
   ⟨(T id), by decide +kernel⟩⟩

end W11

namespace W12

def q1 : EvReq := ⟨Ev.EPOCH_END, 0x0C1, [(4, 9), (8, 0x123456789AB)], false⟩
def R (f : Recorder → Recorder) (g : Chip → Chip := id) := on fun c => g { c with evr := f c.evr }
def rec1 : Chip → Chip := fun c => Chip.recordWrite { c with evr := { c.evr with intake := [q1] } }
def wDr (sev : Nat) : State := R id fun c => (((rec1 c).setF F.EVR_DRAIN_CFG_en [] 1).setF F.HIF_RING_CFG_en [56] 1).setF F.EVR_DRAIN_CFG_min_sev [] sev
def wLc := R (fun r => { r with wr := 77, oldest := 3, nextSeq := 80 }) fun c => (c.inM .provision).modCtl fun k => {k with auth := some ⟨[], 4, 4, 0x10, 1000⟩}
def wCn := on fun c => { (c.setF F.CNT_DATA_HI_data [] 5).setF F.CNT_DATA_LO_data [] 7 with cnt := { space0 := [(0x34000, 0x500000009), (0x34001, 3)], lost0 := [(0x34000, true)] } }

/-- The hypotheses of `Obligations.EventRecorder`, clause by clause, are met together. -/
theorem witness_EventRecorder :
    (∃ (s : State) (e : EvReq) (rest : List EvReq), s.chip.evr.intake = e :: rest ∧ s.chip.isMaster = true ∧ (s.chip.evr.wr +
      List.length (recordBytes s.chip.evr.nextSeq (SMap.get (fun x => 0) s.chip.evr.supp e.code) e) / 8 ≤ ringWords) ∧
      (s.chip.evr.used + List.length (recordBytes s.chip.evr.nextSeq (SMap.get (fun x => 0) s.chip.evr.supp e.code) e) / 8 ≤
      ringWords) ∧ s.chip.evr.nextSeq < 2 ^ 40 ∧ e.code < 2 ^ 12 ∧ (List.length (recordBytes s.chip.evr.nextSeq (SMap.get (fun x
      => 0) s.chip.evr.supp e.code) e) / 8 < 64)) ∧
    (∃ (s : State), s.chip.evr.started = true ∧ s.chip.evr.nextSeq < 2 ^ 40) ∧
    (∃ (s : State), s.chip.getB F.EVR_DRAIN_CFG_en [] = true ∧ s.chip.ringEn 56 = true ∧ s.chip.dmaAllowed 0 = true ∧
      (s.chip.ring 56).stopped = false ∧ s.chip.evr.drainSeq ≠ s.chip.evr.nextSeq ∧ headSev (s.chip.ringWord
      s.chip.evr.drainPos) < s.chip.getF F.EVR_DRAIN_CFG_min_sev []) ∧
    (∃ (s : State), s.chip.getB F.EVR_DRAIN_CFG_en [] = true ∧ s.chip.ringEn 56 = true ∧ s.chip.dmaAllowed 0 = true ∧
      (s.chip.ring 56).stopped = false ∧ s.chip.evr.drainSeq ≠ s.chip.evr.nextSeq ∧ s.chip.getF F.EVR_DRAIN_CFG_min_sev [] ≤
      headSev (s.chip.ringWord s.chip.evr.drainPos) ∧ BitVec.toNat (s.chip.ring 56).own % s.chip.ringSize 56 + headLen
      (s.chip.ringWord s.chip.evr.drainPos) ≤ s.chip.ringSize 56 ∧ headLen (s.chip.ringWord s.chip.evr.drainPos) ≤
      s.chip.ringFree 56) ∧
    (∃ (s : State), s.chip.orderFree ∧ s.chip.inMode [Mode.provision, Mode.maintenance] = true ∧ s.chip.authHere 16 = true ∧
      s.chip.isMaster = true ∧ s.chip.evr.wr + 5 ≤ ringWords ∧ s.chip.evr.nextSeq < 2 ^ 40) ∧
    (∃ (s : State), (s.chip.now / 1000000 + 1) * 1000000 < 2 ^ 64) :=
  ⟨⟨(R (fun r => { r with intake := [q1, q1], nextSeq := 2^40-1, wr := 5, used := 5 })), q1, [q1], by decide +kernel⟩,
   ⟨(R fun r => { r with wr := 77, oldest := 3, nextSeq := 0xFFFFFFFFF0 }), by decide +kernel⟩,
   ⟨(wDr 5), by decide +kernel⟩,
   ⟨(wDr 0), by decide +kernel⟩,
   ⟨wLc, by unfold Chip.orderFree; decide +kernel⟩,
   ⟨(R fun r => { r with tokens := [(0x40, 1)] }), by decide +kernel⟩⟩

/-- The hypotheses of `Obligations.StatisticsCommands`, clause by clause, are met together. -/
theorem witness_StatisticsCommands :
    (∃ (s : State) (space : Bool) (i : BitVec 19), s.chip.takesWrite (regAt RegId.CNT_SEL []) ∧ cntNamed space i.toNat = true) ∧
    (∃ (s : State) (space : Bool) (i : BitVec 19), s.chip.takesWrite (regAt RegId.CNT_SEL []) ∧ cntNamed space i.toNat = false)
      ∧
    (∃ (s : State) (space : Bool) (first : Word) (count : Word) (flags : Word), s.chip.orderFree ∧ s.chip.inMode
      (infoModes.erase Mode.lockdown) = true ∧ s.chip.dmaAllowed 0 = true ∧ BitVec.toNat flags ≤ 1 ∧ 1 ≤ BitVec.toNat count ∧
      BitVec.toNat count ≤ 65536 ∧ BitVec.toNat first + BitVec.toNat count ≤ spaceSize space) ∧
    (∃ (s : State) (space : Bool) (i : BitVec 19), s.chip.running = true ∧ cntNamed space i.toNat = true) :=
  ⟨⟨wCn, false, 0x34000, by unfold Chip.takesWrite; decide +kernel⟩,
   ⟨wCn, true, 0x40000, by unfold Chip.takesWrite; decide +kernel⟩,
   ⟨wCn, false, 0x33FFE, 6, 1, by unfold Chip.orderFree; decide +kernel⟩,
   ⟨wCn, false, 0x34000, by decide +kernel⟩⟩

end W12

namespace W13

def h (f : HostIf → HostIf) (g : Chip → Chip := id) := on fun c => g (c.modHif f)
def k3 := 3 * 2048 + 5
def wW := on (·.inM .wake)
def wA := h fun x => { x with smbArmed := true, smbEnds := 50000 }

/-- The hypotheses of `Obligations.HostInterfaceEvents`, clause by clause, are met together. -/
theorem witness_HostInterfaceEvents :
    (∃ (s : State) (fn : Fin 66) (v : Fin 2048), (SMap.get (fun x => false) s.chip.hif.holdoff (fn.val * 2048 + v.val) = true) ∧
      (BitVec.getLsbD (SMap.get (fun i => if i % 4 = 3 then 1 else 0) s.chip.hif.msixTable ((fn.val * 2048 + v.val) * 4 + 3)) 0
      = false) ∧ s.chip.dmaAllowed fn.val = true ∧ (SMap.get (fun x => false) s.chip.hif.holdPending (fn.val * 2048 + v.val) =
      true)) ∧
    (∃ (s : State) (fn : Fin 66) (v : Fin 2048), (SMap.get (fun x => false) s.chip.hif.holdoff (fn.val * 2048 + v.val) = true) ∧
      (BitVec.getLsbD (SMap.get (fun i => if i % 4 = 3 then 1 else 0) s.chip.hif.msixTable ((fn.val * 2048 + v.val) * 4 + 3)) 0
      = false) ∧ s.chip.dmaAllowed fn.val = true ∧ (SMap.get (fun x => false) s.chip.hif.holdPending (fn.val * 2048 + v.val) =
      false)) ∧
    (∃ (s : State) (fn : Fin 66) (v : Fin 2048), s.chip.running = true ∧ v.val < msixSize fn.val ∧ (BitVec.getLsbD (SMap.get
      (fun i => if i % 4 = 3 then 1 else 0) s.chip.hif.msixTable ((fn.val * 2048 + v.val) * 4 + 3)) 0 = true) ∧
      s.chip.dmaAllowed fn.val = true ∧ (SMap.get (fun x => false) s.chip.hif.holdoff (fn.val * 2048 + v.val) = false)) ∧
    (∃ (s : State), s.chip.getF F.HIF_IDE_STAT_state [] = 1 ∧ s.chip.logs) ∧
    (∃ (s : State) (width : Nat), s.chip.running = true ∧ s.chip.evr.started = true ∧ width ≤ 16 ∧ s.chip.logs) :=
  ⟨⟨(h (fun x => { x with holdoff := [(5, true)], holdPending := [(5, true)], msixTable := [(5*4+3, 0)] }) fun c => c.setF F.HIF_MSIX_MOD_holdoff [5] 7), 0, 5, by decide +kernel⟩,
   ⟨(h (fun x => { x with holdoff := [(k3, true)], msixTable := [(k3*4+3, 0)] })), 3, 5, by decide +kernel⟩,
   ⟨(h id), 3, 5, by decide +kernel⟩,
   ⟨(on fun c => c.setF F.HIF_IDE_STAT_state [] 1), by unfold Chip.logs; decide +kernel⟩,
   ⟨(on id), 0, by unfold Chip.logs; decide +kernel⟩⟩

/-- The hypotheses of `Obligations.SmbusCommands`, clause by clause, are met together. -/
theorem witness_SmbusCommands :
    (∃ (s : State) (off : BitVec 24) (r : RegId) (idx : List Nat), s.chip.smbOn = true ∧ s.chip.ctl.mode ≠ Mode.wake ∧ lookupReg
      off.toNat = some (r, idx) ∧ r ≠ RegId.TMP_VBAT) ∧
    (∃ (s : State), s.chip.smbOn = true ∧ s.chip.ctl.mode = Mode.wake) ∧
    (∃ (s : State) (data : Byte), s.chip.smbOn = true ∧ data ≠ 165) ∧
    (∃ (s : State), s.chip.smbOn = true ∧ s.chip.hif.smbArmed = true ∧ s.chip.now < s.chip.hif.smbEnds) ∧
    (∃ (s : State) (data : Byte), s.chip.smbOn = true ∧ (s.chip.hif.smbArmed = false ∨ s.chip.hif.smbEnds ≤ s.chip.now ∨ data ≠
      90)) :=
  ⟨⟨(on id), 0x3001C, .EVR_DRAIN_CFG, [], by decide +kernel⟩,
   ⟨wW, by decide +kernel⟩,
   ⟨wW, 5, by decide +kernel⟩,
   ⟨wA, by decide +kernel⟩,
   ⟨(on id), 0x5A, by decide +kernel⟩⟩

end W13

namespace W14

def full := on fun c => (((c.setSlot 100 {state := 1, generation := 1, ephemeral := true}).setSlot 101 {state := 1, generation := 1}).modVlt fun v => { v with rootReady := true, sealA := some 5, storeV := 9, owners := [(0, {started := true, done := true, crcGood := true, hash := 7})] }).modSax fun x => { x with channels := [(4, {valid := true})] }
def fm (m : Mode) (g : Chip → Chip := id) : State := { full with chip := g (full.chip.inM m) }
def wHr := { full with chip := ((full.chip.setRing 5 {own := 3}).setF F.HIF_RING_CFG_en [5] 1).setF F.HIF_LA_OWNER_function [2] 3 }
def wOc := on fun c => ((c.inM .erased).modCtl fun k => { k with challenge := some [1,2] }).modSu fun x => { x with presenceEnds := some 900 }

/-- The hypotheses of `Obligations.ResetsAndPower`, clause by clause, are met together. -/
theorem witness_ResetsAndPower :
    (∃ (s : State), (s.chip.ctl.mode = Mode.off ∨ s.chip.ctl.mode = Mode.vigil)) ∧
    (∃ (s : State), s.chip.powered = true ∧ s.chip.su.resetHeld = false ∧ s.chip.takesWrite (regAt RegId.SYS_CTL [])) ∧
    (∃ (s : State) (v : Word), BitVec.toNat v % 2 ^ 16 ≠ 45063 ∧ s.chip.takesWrite (regAt RegId.SYS_CTL [])) ∧
    (∃ (s : State), s.chip.su.resetHeld = true ∧ s.chip.su.d3AtRelease = false) ∧
    (∃ (s : State), s.chip.ctl.mode ≠ Mode.off) ∧
    (∃ (s : State), s.chip.ctl.mode = Mode.off) :=
  ⟨⟨(fm .vigil), by decide +kernel⟩,
   ⟨full, by unfold Chip.takesWrite; decide +kernel⟩,
   ⟨full, 5, by unfold Chip.takesWrite; decide +kernel⟩,
   ⟨(fm .wake fun c => c.modSu fun x => {x with resetHeld := true}), by decide +kernel⟩,
   ⟨full, by decide +kernel⟩,
   ⟨(fm .off), by decide +kernel⟩⟩

/-- The hypotheses of `Obligations.StartUpAndClaims`, clause by clause, are met together. -/
theorem witness_StartUpAndClaims :
    (∃ (s : State), (s.chip.ctl.mode = Mode.wake ∧ s.chip.su.resetHeld = false) ∧ (s.chip.ectxAt 1027).running = false ∧
      s.chip.evr.started = false ∧ s.chip.su.otpGood = true ∧ s.chip.su.failed = false) ∧
    (∃ (s : State), (s.chip.ctl.mode = Mode.wake ∧ s.chip.su.resetHeld = false) ∧ (s.chip.ectxAt 1027).running = false ∧
      s.chip.evr.started = false ∧ s.chip.su.otpGood = false ∧ s.chip.su.failed = false) ∧
    (∃ (s : State), (s.chip.ctl.mode = Mode.wake ∧ s.chip.su.resetHeld = false) ∧ s.chip.su.failed = false ∧
      s.chip.vlt.rootReady = false ∧ 1 ≤ s.chip.su.pufReads ∧ s.chip.su.pufReads < 3) ∧
    (∃ (s : State), (s.chip.ctl.mode = Mode.wake ∧ s.chip.su.resetHeld = false) ∧ s.chip.evr.started = true ∧ s.chip.su.done =
      false ∧ s.chip.su.failed = false ∧ s.chip.vlt.rootReady = true ∧ bit (s.chip.getF F.SYS_BOOT_STAT_done []) 4 = false ∧
      (s.chip.noKeys = false ∨ s.chip.entFailed = true) ∧ s.chip.ctl.heldLockdown = none ∧ s.chip.logs) ∧
    (∃ (s : State), s.chip.powered = true ∧ s.chip.su.resetHeld = false ∧ (SMap.wf (fun x => { }) s.chip.vlt.slots = true)) ∧
    (∃ (s : State) (flags : BitVec 16), s.chip.orderFree ∧ s.chip.ctl.mode = Mode.erased ∧ flags ≠ 2) ∧
    (∃ (s : State), s.chip.orderFree ∧ s.chip.ctl.mode = Mode.erased ∧ s.chip.ctl.d3Taint = true ∧ s.chip.logs) ∧
    (∃ (s : State) (challenge : Bytes) (i : Nat) (t : Nat), s.chip.orderFree ∧ s.chip.ctl.mode = Mode.erased ∧
      s.chip.ctl.d3Taint = false ∧ s.chip.entFailed = false ∧ s.chip.ctl.challenge = some challenge ∧ s.chip.activeOwner = none
      ∧ s.chip.su.presenceEnds = some t ∧ s.chip.now < t ∧ s.chip.nextOwner = some i) ∧
    (∃ (s : State) (t : Nat), s.chip.su.presenceEnds = some t ∧ t < 2 ^ 64) :=
  ⟨⟨(fm .wake fun c => { c with evr := {} }), by decide +kernel⟩,
   ⟨(fm .wake fun c => { c with evr := {}, su := { c.su with otpGood := false } }), by decide +kernel⟩,
   ⟨(fm .wake fun c => { c with su := { c.su with pufReads := 1 }, vlt := { c.vlt with rootReady := false } }), by decide +kernel⟩,
   ⟨(fm .wake fun c => { c.setF F.ENT_STAT_failed [] 1 with su := {}, vlt := {rootReady := true} }), by unfold Chip.logs; decide +kernel⟩,
   ⟨wHr, by decide +kernel⟩,
   ⟨(on (·.inM .erased)), 3, by unfold Chip.orderFree; decide +kernel⟩,
   ⟨(on fun c => (c.inM .erased).modCtl fun k => {k with d3Taint := true}), by unfold Chip.logs Chip.orderFree; decide +kernel⟩,
   ⟨wOc, [1,2], 0, 900, by unfold Chip.orderFree; decide +kernel⟩,
   ⟨wOc, 900, by decide +kernel⟩⟩

end W14

namespace W15

def cm (m : Mode) (f : ModeCtl → ModeCtl) := on fun c => (c.inM m).modCtl f
def ax : ModeCtl → ModeCtl := fun k => { k with auth := some ⟨[], 4, 5, 0, 1000⟩, pinOk := some 0, pendingMode := some (.active, none) }
def frq : Frame := { data := (List.range 70).map (BitVec.ofNat 8 ·), entry := 10, sub := 1, stage := .queued, queue := some 5, len := 74, stored := 128 }
def wDr : State := { on id with chip := ((cm .drain fun k => { k with drainTo := some .provision, drainEnds := 1000 }).chip.setFrame 7 (some frq)) }

/-- The hypotheses of `Obligations.ModeTransitions`, clause by clause, are met together. -/
theorem witness_ModeTransitions :
    (∃ (s : State) (cfg : Word) (t : Mode), s.chip.orderFree ∧ BitVec.toNat cfg < 256 ∧ s.chip.ord.staged = [] ∧
      s.chip.ctl.d3Taint = false ∧ setMode (BitVec.toNat cfg % 16) = some t ∧ s.chip.modeCheck s.chip.ctl.mode t (if setMode
      (BitVec.toNat cfg % 16) = some Mode.drain then modeOf (BitVec.toNat cfg / 16) else none) = 0) ∧
    (∃ (s : State) (cfg : Word) (t : Mode), s.chip.orderFree ∧ BitVec.toNat cfg < 256 ∧ s.chip.ord.staged = [] ∧
      s.chip.ctl.d3Taint = false ∧ setMode (BitVec.toNat cfg % 16) = some t ∧ transition s.chip.ctl.mode t (if setMode
      (BitVec.toNat cfg % 16) = some Mode.drain then modeOf (BitVec.toNat cfg / 16) else none) = none ∧ s.chip.logs) ∧
    (∃ (s : State) (t : Mode) (dr : Option Mode), s.chip.ctl.pendingMode = some (t, dr) ∧ s.chip.ord.ended = none) ∧
    (∃ (s : State), s.chip.ctl.mode = Mode.drain ∧ s.chip.draining = false) ∧
    (∃ (s : State), s.chip.ctl.mode = Mode.drain ∧ s.chip.draining = true) :=
  ⟨⟨(cm .active id), 0x87, .drain, by unfold Chip.orderFree; decide +kernel⟩,
   ⟨(cm .active id), 0xA7, .drain, by unfold Chip.logs Chip.orderFree; decide +kernel⟩,
   ⟨(cm .provision fun k => { ax k with pendingMode := some (.sealed, none) }), .sealed, none, by decide +kernel⟩,
   ⟨(cm .drain fun k => { k with drainTo := none }), by decide +kernel⟩,
   ⟨wDr, by decide +kernel⟩⟩

/-- The hypotheses of `Obligations.OwnerAuthentication`, clause by clause, are met together. -/
theorem witness_OwnerAuthentication :
    (∃ (s : State), s.chip.orderFree ∧ s.chip.inMode authModes = true ∧ s.chip.ahead s.chip.ctl.blocked = false ∧
      s.chip.entFailed = false) ∧
    (∃ (s : State) (t : Nat), s.chip.orderFree ∧ s.chip.inMode authModes = true ∧ s.chip.ctl.blocked = some t ∧ s.chip.now < t)
      ∧
    (∃ (s : State) (fromMode : Byte) (toMode : Byte) (flags : BitVec 16) (challenge : Bytes), s.chip.orderFree ∧ s.chip.inMode
      authModes = true ∧ s.chip.authPair (BitVec.toNat fromMode) (BitVec.toNat toMode) flags.toNat = true ∧ s.chip.ctl.challenge
      = some challenge ∧ s.chip.logs) ∧
    (∃ (s : State) (a : Auth), s.chip.ctl.auth = some a ∧ a.ends < 2 ^ 64) ∧
    (∃ (s : State) (t : Nat), s.chip.ctl.blocked = some t ∧ t < 2 ^ 64) ∧
    (∃ (s : State) (t : Nat), s.chip.ctl.pinOk = some t ∧ t < 2 ^ 64) :=
  ⟨⟨(cm .sealed id), by unfold Chip.orderFree; decide +kernel⟩,
   ⟨(cm .sealed fun k => {k with blocked := some 7}), 7, by unfold Chip.orderFree; decide +kernel⟩,
   ⟨(cm .maintenance fun k => {k with challenge := some [1], fails := 5}), 9, 9, 0x20, [1], by unfold Chip.logs Chip.orderFree; decide +kernel⟩,
   ⟨(cm .sealed fun k => {k with auth := some ⟨[], 4, 5, 0, 1000⟩}), ⟨[], 4, 5, 0, 1000⟩, by decide +kernel⟩,
   ⟨(cm .sealed fun k => {k with blocked := some 7}), 7, by decide +kernel⟩,
   ⟨(cm .sealed fun k => {k with pinOk := some 7}), 7, by decide +kernel⟩⟩

/-- The hypotheses of `Obligations.DebugAndTrafficKeys`, clause by clause, are met together. -/
theorem witness_DebugAndTrafficKeys :
    (∃ (s : State), s.chip.orderFree ∧ s.chip.ctl.mode = Mode.maintenance ∧ s.chip.ctl.dbg < 2) ∧
    (∃ (s : State), s.chip.orderFree ∧ s.chip.ctl.mode = Mode.maintenance ∧ 2 ≤ s.chip.ctl.dbg) ∧
    (∃ (s : State), s.chip.orderFree ∧ s.chip.ctl.mode = Mode.maintenance ∧ s.chip.authHere 1 = true ∧ s.chip.pinValid = true ∧
      s.chip.dmaAllowed 0 = true ∧ s.chip.ctl.zeroizing = none ∧ s.chip.logs) ∧
    (∃ (s : State) (l : Fin 4), s.chip.running = true ∧ s.chip.evr.started = true ∧ (l.val ≤ s.chip.ctl.dbg ∨ s.chip.dbgGrants
      s.chip.ctl.mode l.val = true)) ∧
    (∃ (s : State) (l : Fin 4), s.chip.running = true ∧ s.chip.evr.started = true ∧ s.chip.ctl.dbg < l.val ∧ s.chip.dbgGrants
      s.chip.ctl.mode l.val = false ∧ s.chip.logs) ∧
    (∃ (s : State) (l : Fin 4), s.chip.powered = true ∧ (s.chip.su.resetHeld = false ∨ l ≠ 3) ∧ (l.val ≤ s.chip.ctl.dbg ∨
      s.chip.dbgGrants s.chip.ctl.mode l.val = true)) ∧
    (∃ (s : State) (l : Fin 4), s.chip.powered = true ∧ (s.chip.su.resetHeld = false ∨ l ≠ 3) ∧ s.chip.ctl.dbg < l.val ∧
      s.chip.dbgGrants s.chip.ctl.mode l.val = false ∧ s.chip.logs) ∧
    (∃ (s : State), s.chip.powered = true ∧ s.chip.su.resetHeld = true) :=
  ⟨⟨(cm .maintenance fun k => { k with tkDis := true, dbg := 1 }), by unfold Chip.orderFree; decide +kernel⟩,
   ⟨(cm .maintenance fun k => { k with tkDis := true, dbg := 2 }), by unfold Chip.orderFree; decide +kernel⟩,
   ⟨(cm .maintenance fun k => { k with auth := some ⟨[], 9, 9, 1, 1000⟩, pinOk := some 50000}), by unfold Chip.logs Chip.orderFree; decide +kernel⟩,
   ⟨(cm .active fun k => { k with dbg := 2 }), 1, by decide +kernel⟩,
   ⟨(cm .active id), 3, by unfold Chip.logs; decide +kernel⟩,
   ⟨(cm .provision id), 2, by decide +kernel⟩,
   ⟨(cm .rest id), 2, by unfold Chip.logs; decide +kernel⟩,
   ⟨(on fun c => c.modSu fun x => {x with resetHeld := true}), by decide +kernel⟩⟩

end W15

namespace W16

def K : Word := mkHandle 1 0 100
def tk : Slot := { state := 1, generation := 1, klen := true }
def wCh (f : Chip → Chip := id) := on fun c => f ((c.setSlot 100 tk).setChan 4 { valid := true, dir := false, sci := 5, linePort := 3 })
def sa1 : Sa := { state := 1, generation := 1, channel := 4, an := 1, suite := 1, key := K, nextPn := 77 }
def sa2 : Sa := { sa1 with an := 2, generation := 2 }
def two (d : Bool) (c : Chip) := (((c.setSa 9 { sa1 with dir := d }).setSa 10 { sa2 with dir := d }).setChan 4 { valid := true, dir := d, sa1 := some 9, sa2 := some 10, txCur := !d, txAn := 1 }).setF F.TIM_STAT_epoch_valid [] 1
def stg (x : Staged) (c : Chip) := c.modOrd fun o => { o with staged := [x] }
def xc : Channel := { valid := true, dir := true, portCh := false, linePort := 5, subPort := 1, tag := 0, sci := 77 }
def ya : Sa := installed { sa1 with nextPn := 1, state := 0 }
def scd (d : Bool) (f : Chip → Chip := id) := wCh fun c => let c := two d c; f ((c.setChan 4 { c.chan 4 with sched := true, schedCur := 9, schedNext := 10, schedEpoch := 3 }).modTim fun t => { t with epoch := 3 })

/-- The hypotheses of `Obligations.AssociationOrders`, clause by clause, are met together. -/
theorem witness_AssociationOrders :
    (∃ (s : State) (ch : Word) (cfg : Word) (sci : DWord), s.chip.orderFree ∧ s.chip.stagedCount < 64 ∧ BitVec.toNat ch < 32768
      ∧ s.chip.inMode channelModes = true ∧ BitVec.toNat cfg < 2 ^ 19 ∧ s.chip.staged.channelCheck (BitVec.toNat ch)
      { valid := true, dir := bit (BitVec.toNat cfg) 0, portCh := bit (BitVec.toNat cfg) 1, linePort := bits (BitVec.toNat cfg) 4 2, subPort := bits (BitVec.toNat cfg) 6 5, tag := bits (BitVec.toNat cfg) 18 7, sci := sci }
      = 0) ∧
    (∃ (s : State) (ch : Word), s.chip.orderFree ∧ s.chip.stagedCount < 64 ∧ BitVec.toNat ch < 32768 ∧ s.chip.inMode retireModes
      = true ∧ s.chip.staged.holdsSa (BitVec.toNat ch) = false) ∧
    (∃ (s : State) (ch : Word) (cfg : Word) (index : Word) (key : Word) (ssci : Word) (peer : Word) (pn : DWord) (salt : BitVec
      96), s.chip.orderFree ∧ s.chip.stagedCount < 64 ∧ BitVec.toNat ch < 32768 ∧ s.chip.inMode channelModes = true ∧
      BitVec.toNat index < 65536 ∧ BitVec.toNat cfg < 2 ^ 17 ∧ BitVec.toNat peer < 2 ^ 24 ∧ fnOf key < 66 ∧
      s.chip.staged.installCheck (BitVec.toNat index)
      { dir := bit (BitVec.toNat cfg) 4, channel := BitVec.toNat ch, an := bits (BitVec.toNat cfg) 1 0, suite := bits (BitVec.toNat cfg) 3 2, key := key, ssci := ssci, salt := salt, nextPn := BitVec.toNat pn, replayWin := bits (BitVec.toNat cfg) 16 6, hold := bit (BitVec.toNat cfg) 5, peerIndex := BitVec.toNat peer % 65536, peerGen := bits (BitVec.toNat peer) 23 16 }
      = 0) ∧
    (∃ (s : State) (ch : Word) (h : Word), s.chip.orderFree ∧ s.chip.stagedCount < 64 ∧ BitVec.toNat ch < 32768 ∧ s.chip.inMode
      retireModes = true ∧ s.chip.staged.retireCheck h = 0) ∧
    (∃ (s : State) (ch : Word) (cur : Word) (next : Word) (epoch : DWord), s.chip.orderFree ∧ s.chip.stagedCount < 64 ∧
      BitVec.toNat ch < 32768 ∧ s.chip.inMode channelModes = true ∧ bits (BitVec.toNat cur) 23 16 = 0 ∧ bits (BitVec.toNat next)
      23 16 = 0 ∧ BitVec.toNat epoch < 2 ^ 40 ∧ s.chip.scheduleRefused = 0 ∧ s.chip.staged.scheduleCheck (BitVec.toNat ch) cur
      next (BitVec.toNat epoch) = 0) ∧
    (∃ (s : State) (ch : Word), s.chip.orderFree ∧ s.chip.stagedCount < 64 ∧ BitVec.toNat ch < 32768 ∧ s.chip.inMode retireModes
      = true ∧ s.chip.staged.cancelCheck (BitVec.toNat ch) = 0) ∧
    (∃ (s : State) (index : Word), s.chip.orderFree ∧ s.chip.inMode infoModes = true ∧ s.chip.dmaAllowed 0 = true ∧ BitVec.toNat
      index < 65536) ∧
    (∃ (s : State) (ch : Word) (cfg : Word) (sci : DWord), s.chip.orderFree ∧ s.chip.inMode channelModes = true ∧
      s.chip.ord.regWrites = [] ∧ s.chip.ord.heldFill = false ∧ s.chip.ord.staged = [Staged.chSet (BitVec.toNat ch)
      { valid := true, dir := bit (BitVec.toNat cfg) 0, portCh := bit (BitVec.toNat cfg) 1, linePort := bits (BitVec.toNat cfg) 4 2, subPort := bits (BitVec.toNat cfg) 6 5, tag := bits (BitVec.toNat cfg) 18 7, sci := sci }]
      ∧ s.chip.channelCheck (BitVec.toNat ch)
      { valid := true, dir := bit (BitVec.toNat cfg) 0, portCh := bit (BitVec.toNat cfg) 1, linePort := bits (BitVec.toNat cfg) 4 2, subPort := bits (BitVec.toNat cfg) 6 5, tag := bits (BitVec.toNat cfg) 18 7, sci := sci }
      = 0) ∧
    (∃ (s : State) (i : Nat) (y : Sa), s.chip.orderFree ∧ s.chip.inMode channelModes = true ∧ s.chip.ord.regWrites = [] ∧
      s.chip.ord.heldFill = false ∧ s.chip.ord.staged = [Staged.saInstall i y] ∧ s.chip.installCheck i y.asked = 0) :=
  ⟨⟨(wCh), 5, 0x35, 77, by unfold Chip.orderFree; decide +kernel⟩,
   ⟨(wCh), 5, by unfold Chip.orderFree; decide +kernel⟩,
   ⟨(wCh fun c => c.setChan 4 { valid := true, dir := true, sci := 5, linePort := 3 }), 4, (1 + 4 + 16 + 32 + 64 * 64), 9, K, 0, 0x10003, 1, 0, by unfold Chip.orderFree; decide +kernel⟩,
   ⟨(wCh (two true)), 4, (mkSaHandle 1 9), by unfold Chip.orderFree; decide +kernel⟩,
   ⟨(wCh (two true)), 4, (mkSaHandle 1 9), (mkSaHandle 2 10), 2, by unfold Chip.orderFree; decide +kernel⟩,
   ⟨(wCh fun c => c.setChan 4 {sched := true}), 4, by unfold Chip.orderFree; decide +kernel⟩,
   ⟨(wCh (two true)), 9, by unfold Chip.orderFree; decide +kernel⟩,
   ⟨(wCh (stg (.chSet 5 xc))), 5, 0x35, 77, by unfold Chip.orderFree; decide +kernel⟩,
   ⟨(wCh (stg (.saInstall 11 ya))), 11, ya, by unfold Chip.orderFree; decide +kernel⟩⟩

/-- The hypotheses of `Obligations.ScheduledSwitches`, clause by clause, are met together. -/
theorem witness_ScheduledSwitches :
    (∃ (s : State), s.chip.ctl.mode = Mode.standby) ∧
    (∃ (s : State) (ch : Fin 32768), s.chip.ctl.mode ≠ Mode.standby ∧ (s.chip.chan ch.val).sched = true ∧ (s.chip.chan
      ch.val).schedEpoch ≤ s.chip.tim.epoch ∧ (∀ x ∈ s.chip.sax.closes, x.channel ≠ ch.val) ∧ s.chip.saLive (s.chip.chan
      ch.val).schedNext = true ∧ (s.chip.chan ch.val).dir = false ∧ (s.chip.sa (s.chip.chan ch.val).schedCur).channel = ch.val ∧
      (s.chip.chan ch.val).schedCur ≠ (s.chip.chan ch.val).schedNext ∧ s.chip.logs) ∧
    (∃ (s : State) (ch : Fin 32768), s.chip.ctl.mode ≠ Mode.standby ∧ (s.chip.chan ch.val).sched = true ∧ (s.chip.chan
      ch.val).schedEpoch ≤ s.chip.tim.epoch ∧ (∀ x ∈ s.chip.sax.closes, x.channel ≠ ch.val) ∧ s.chip.saLive (s.chip.chan
      ch.val).schedNext = true ∧ (s.chip.chan ch.val).dir = true) ∧
    (∃ (s : State) (ch : Fin 32768), s.chip.ctl.mode ≠ Mode.standby ∧ (s.chip.chan ch.val).sched = true ∧ (s.chip.chan
      ch.val).schedEpoch ≤ s.chip.tim.epoch ∧ (∀ x ∈ s.chip.sax.closes, x.channel ≠ ch.val) ∧ s.chip.saLive (s.chip.chan
      ch.val).schedNext = false ∧ s.chip.logs) ∧
    (∃ (s : State) (ch : Fin 32768), s.chip.ctl.mode ≠ Mode.standby ∧ (s.chip.chan ch.val).sched = true ∧ (s.chip.chan
      ch.val).dir = true ∧ (s.chip.chan ch.val).schedEpoch ≤ s.chip.tim.epoch + b2n s.chip.tim.windowDone) ∧
    (∃ (s : State) (ch : Fin 32768) (x : RxClose), s.chip.ctl.mode ≠ Mode.standby ∧ (List.find? (fun x => decide (x.channel =
      ch.val)) s.chip.sax.closes = some x) ∧ x.due < 2 ^ 64 ∧ (s.chip.sa x.sa).state = 1 ∧ (s.chip.chan ch.val).sched = true ∧
      (s.chip.chan ch.val).schedCur = x.sa) ∧
    (∃ (s : State) (i : Fin 65536), (s.chip.sa i.val).state = 1 ∧ (s.chip.sa i.val).dir = false ∧ (s.chip.sa i.val).stopped =
      false ∧ (s.chip.sa i.val).nextPn = lastPn (s.chip.sa i.val).suite ∧ s.chip.sealTarget (s.chip.saHandle i.val) = i.val ∧
      s.chip.sealTest (s.chip.saHandle i.val) = 0 ∧ s.chip.mayAllocate i.val = true ∧ s.chip.logs) :=
  ⟨⟨(on (·.inM .standby)), by decide +kernel⟩,
   ⟨(scd false), 4, by unfold Chip.logs; decide +kernel⟩,
   ⟨(scd true), 4, by decide +kernel⟩,
   ⟨(scd true fun c => c.setSa 10 {}), 4, by unfold Chip.logs; decide +kernel⟩,
   ⟨(scd true fun c => c.modTim fun t => { t with epoch := 2, windowDone := true }), 4, by decide +kernel⟩,
   ⟨(scd true fun c => c.modSax fun x => { x with closes := [⟨4, 9, 500⟩] }), 4, ⟨4, 9, 500⟩, by decide +kernel⟩,
   ⟨(wCh fun c => c.setSa 9 { sa1 with suite := 3, nextPn := 2^64 - 2 }), 9, by unfold Chip.logs; decide +kernel⟩⟩

end W16

namespace W17

def be (i : Nat) (b : Brine) (o : Brine := {}) (f : Entropy → Entropy := id) (g : Chip → Chip := id) := on fun c => g ((c.modEnt f).setBrine i b |>.setBrine (1 - i) o)
def W : BitVec 1024 := BitVec.ofNat 1024 ((2 ^ 1024 - 1) / 3)
def Wr : BitVec 1024 := 0x123456789ABCDEF
def Wa : BitVec 1024 := BitVec.ofNat 1024 (0x7FFFFFFF * ((2 ^ 1024 - 1) / (2 ^ 32 - 1)))
def en (f : Entropy → Entropy) (g : Chip → Chip := id) := on fun c => g (c.modEnt f)
def rw (need next : Nat) := en (fun e => { e with drbg := some 9, fifoState := 5, fifoNext := next, waiting := [{ cls := 4, need := need, use := .host 0x4000 37 }] }) fun c => c.modOrd fun o => { o with wait := .random }

/-- The hypotheses of `Obligations.EntropySources`, clause by clause, are met together. -/
theorem witness_EntropySources :
    (∃ (s : State) (i : Fin 2) (w : BitVec 1024), (s.chip.brine i.val).running = true ∧ (s.chip.brine i.val).startTest = false ∧
      (s.chip.brine i.val).judge w 1024 = none ∧ s.chip.srcState i.val ≠ 3) ∧
    (∃ (s : State) (i : Fin 2) (w : BitVec 1024), (s.chip.brine i.val).running = true ∧ (s.chip.brine i.val).startTest = false ∧
      (s.chip.brine i.val).judge w 1024 = none ∧ s.chip.srcState i.val = 3) ∧
    (∃ (s : State) (i : Fin 2) (w : BitVec 1024) (n : Fin 1025) (apt : Bool), (s.chip.brine i.val).running = true ∧
      (s.chip.brine i.val).judge w n.val = some apt ∧ ((s.chip.brine i.val).consec + 1 < 3 ∨ (s.chip.brine (1 - i.val)).consec <
      3) ∧ (s.chip.brine i.val).consec < 15 ∧ ((s.chip.brine i.val).degradedSaid = true ∨ (s.chip.brine i.val).consec + 1 < 3) ∧
      s.chip.srcState i.val ≠ 3 ∧ s.chip.logs) ∧
    (∃ (s : State) (i : Fin 2) (w : BitVec 1024) (apt : Bool), (s.chip.brine i.val).running = true ∧ (s.chip.brine
      i.val).startTest = false ∧ (s.chip.brine i.val).judge w 1024 = some apt ∧ ((s.chip.brine i.val).consec + 1 < 3 ∨
      (s.chip.brine (1 - i.val)).consec < 3) ∧ (s.chip.brine i.val).consec < 15 ∧ ((s.chip.brine i.val).degradedSaid = true ∨
      (s.chip.brine i.val).consec + 1 < 3) ∧ s.chip.srcState i.val ≠ 3 ∧ s.chip.logs) ∧
    (∃ (s : State) (i : Fin 2) (w : BitVec 1024) (apt : Bool), (s.chip.brine i.val).running = true ∧ (s.chip.brine
      i.val).startTest = true ∧ (s.chip.brine i.val).judge w 1024 = some apt ∧ ((s.chip.brine i.val).consec + 1 < 3 ∨
      (s.chip.brine (1 - i.val)).consec < 3) ∧ (s.chip.brine i.val).consec < 15 ∧ ((s.chip.brine i.val).degradedSaid = true ∨
      (s.chip.brine i.val).consec + 1 < 3) ∧ s.chip.srcState i.val ≠ 3 ∧ s.chip.logs) ∧
    (∃ (s : State) (i : Fin 2) (w : BitVec 1024) (n : Fin 1025), (s.chip.brine i.val).running = true ∧ (s.chip.brine
      i.val).judge w n.val ≠ none ∧ 2 ≤ (s.chip.brine i.val).consec ∧ (s.chip.brine i.val).consec < 15 ∧ 3 ≤ (s.chip.brine (1 -
      i.val)).consec ∧ s.chip.entFailed = false) ∧
    (∃ (s : State) (i : Fin 2) (w : BitVec 1024), (s.chip.brine i.val).running = true ∧ (s.chip.brine i.val).startTest = true ∧
      (s.chip.brine i.val).judge w 1024 = none) ∧
    (∃ (s : State) (i : Fin 2), (s.chip.brine i.val).restarting = true) ∧
    (∃ (s : State), s.chip.ent.started = true ∧ s.chip.ent.katOk = false ∧ s.chip.entFailed = false) :=
  ⟨⟨(be 1 {running := true, startTest := false, consec := 2}), 1, W, by decide +kernel⟩,
   ⟨(be 1 {running := true, startTest := false, consec := 2} {} id fun c => ((c.setF F.ENT_SRC_STAT_state [1] 3).setF F.ENT_RAW_CTL_src [] 1).setF F.ENT_RAW_CTL_en [] 1), 1, W, by decide +kernel⟩,
   ⟨(be 0 {running := true, startTest := true, consec := 2, degradedSaid := true}), 0, Wa, 1024, true, by unfold Chip.logs; decide +kernel⟩,
   ⟨(be 0 {running := true, startTest := false, consec := 1}), 0, Wr, false, by unfold Chip.logs; decide +kernel⟩,
   ⟨(be 0 {running := true, startTest := true, consec := 1}), 0, Wr, false, by unfold Chip.logs; decide +kernel⟩,
   ⟨(be 0 {running := true, startTest := true, consec := 2} {consec := 3} (fun e => { e with drbg := some 5, seed := [1,2] })), 0, Wr, 1024, by decide +kernel⟩,
   ⟨(be 0 {running := true, startTest := true, consec := 2} {consec := 3} (fun e => { e with drbg := some 5, seed := [1,2] })), 0, W, by decide +kernel⟩,
   ⟨(be 0 {restarting := true, startTest := true, consec := 2}), 0, by decide +kernel⟩,
   ⟨(be 0 {} {} fun e => {e with started := true, drbg := some 7}), by decide +kernel⟩⟩

/-- The hypotheses of `Obligations.RandomGeneration`, clause by clause, are met together. -/
theorem witness_RandomGeneration :
    (∃ (s : State) (a : BitVec 128) (b : BitVec 128) (d' : BitVec 128) (rest : List (BitVec 128)), s.chip.ent.seed = a :: b ::
      d' :: rest ∧ s.chip.ent.katOk = true ∧ s.chip.ent.drbg = none ∧ s.chip.entFailed = false ∧ s.chip.logs) ∧
    (∃ (s : State) (st : BitVec 384) (a : BitVec 128) (b : BitVec 128) (d' : BitVec 128) (rest : List (BitVec 128)),
      s.chip.ent.seed = a :: b :: d' :: rest ∧ s.chip.ent.drbg = some st) ∧
    (∃ (s : State) (st : BitVec 384), s.chip.ent.drbg = some st ∧ s.chip.ent.fifoNext = 512 ∧ s.chip.ent.calls < 2 ^ 20 ∧
      s.chip.getB F.ENT_STAT_stale [] = false) ∧
    (∃ (s : State) (st : BitVec 384), s.chip.ent.drbg = some st ∧ s.chip.ent.calls = 2 ^ 20 ∧ s.chip.getB F.ENT_STAT_stale [] =
      false ∧ s.chip.ent.seed.length < 3 ∧ s.chip.logs) ∧
    (∃ (s : State) (n : Word), s.chip.orderFree ∧ s.chip.inMode storeModes = true ∧ 1 ≤ BitVec.toNat n ∧ BitVec.toNat n ≤ 4096 ∧
      s.chip.entFailed = false) ∧
    (∃ (s : State) (n : Word) (out : DWord) (need : Nat), s.chip.ent.waiting =
      [{ cls := 4, need := need, use := RandUse.host (BitVec.toNat out) (BitVec.toNat n) }] ∧ 1 ≤ need ∧ need +
      s.chip.ent.fifoNext ≤ 512 ∧ s.chip.ord.wait = OrdWait.random ∧ s.chip.ord.busy = false ∧ s.chip.ord.callReg = none ∧
      s.chip.inMode storeModes = true ∧ s.chip.dmaAllowed 0 = true) ∧
    (∃ (s : State) (n : Word) (out : DWord) (need : Nat), s.chip.ent.waiting =
      [{ cls := 4, need := need, use := RandUse.host (BitVec.toNat out) (BitVec.toNat n) }] ∧ 1 ≤ need ∧ s.chip.ent.fifoNext <
      512 ∧ 512 < need + s.chip.ent.fifoNext) :=
  ⟨⟨(en fun e => { e with seed := [1,2,3,4], katOk := true, started := true }), 1, 2, 3, [4], by unfold Chip.logs; decide +kernel⟩,
   ⟨(en fun e => { e with seed := [1,2,3,4], katOk := true, drbg := some 9, calls := 77 }), 9, 1, 2, 3, [4], by decide +kernel⟩,
   ⟨(en fun e => { e with katOk := true, drbg := some 9, calls := 77 }), 9, by decide +kernel⟩,
   ⟨(en fun e => { e with katOk := true, drbg := some 9, calls := 2^20 }), 9, by unfold Chip.logs; decide +kernel⟩,
   ⟨(en id), 37, by unfold Chip.orderFree; decide +kernel⟩,
   ⟨(rw 3 509), 37, 0x4000, 3, by decide +kernel⟩,
   ⟨(rw 3 511), 37, 0x4000, 3, by decide +kernel⟩⟩

end W17

namespace W18

def dat (n : Nat) : Bytes := (List.range n).map (BitVec.ofNat 8 ·)
def wU (p b : Nat) (f : Chip → Chip := id) : State := on fun c => f ((((c.setF F.PRT_LINK_CFG_pmode [p] 2).setF F.PRT_LINK_CFG_en [p] (2^b)).setF F.PRT_LINK_STAT_up [p] (2^b)).setF F.MEM_STAT_no_keys [] 0)
def fU : Frame := { data := dat 80, entry := 9, sub := 3, coming := true, stage := .pool }
def fL (r : Nat) : Frame := { fU with stage := .gone, lost := some r }
def mac (pn : Nat) : Bytes := dat 12 ++ [0x88, 0xE5, 0x2C, 0] ++ beBytes 4 pn ++ beBytes 8 77 ++ dat 60
def fE : Frame := { data := mac 9, entry := 11, sub := 1, stage := .pool, summary := 2^26 }
def saR : Sa := { state := 1, generation := 3, dir := true, channel := 4, an := 0, suite := 1, key := mkHandle 1 0 100, highest := 5, replayWin := 2 }
def wE (h : Nat) := on fun c => (((c.setFrame 7 (some fE)).setSa 9 { saR with highest := h}).setChan 4 { valid := true, dir := true, linePort := 3, subPort := 1, sci := 77, sa0 := some 9 }).setSlot 100 { state := 1, generation := 1, klen := true }
def desc (len port sub act : Nat) (x : Nat := 0) : Bytes := leBytes 8 0x9000 ++ leBytes 4 (len + act * 65536 + 3 * 2^18 + x) ++ leBytes 4 (sub + port * 4) ++ leBytes 8 0 ++ leBytes 8 0x1234
def wX (f : Chip → Chip := id) := wU 3 2 fun c => f (((((c.setF F.HIF_RING_CFG_en [25] 1).setF F.HIF_RING_CFG_en [41] 1).setRing 25 {drv := 3, own := 2}).setF F.MEM_FRAME_KID_kid [] 1).modBuf fun b => { b with states := [(1, 1)] })
def fA : Frame := { data := dat 80, entry := 3, sub := 2, stage := .admission, outPort := 11, outSub := 1, sealMark := some (mkSaHandle 3 9), len := 84, dest := 0x8000 + 45 * 8 }
def saT : Sa := { saR with dir := false, nextPn := 100 }
def wA (m : Mode) (f : Chip → Chip := id) := on fun c => f ((((c.setFrame 7 (some fA)).setSa 9 saT).setChan 4 { valid := true, linePort := 3, subPort := 1, sci := 77, sa0 := some 9, txCur := true }).setSlot 100 { state := 1, generation := 1, klen := true } |>.inM m)
def hA := mkSaHandle 3 9
def fP : Frame := { fA with stage := .pan, sa := some 9 }
def rS : PanReq := { kind := .sealing, pan := 3, slot := 100, gen := 1, subject := 7, blocks := 6 }
def fO (ok : Bool) : Frame := { fE with stage := .opening, icvOk := ok, sa := some 9, pn := 9, early := some { hit := true, handle := mkSaHandle 3 9, opened := true, channel := 4 }, summary := 2^26, dest := 5 }
def wO (ok : Bool) := on fun c => ((c.setFrame 7 (some (fO ok))).setSa 9 saR).modPan fun p => { p with reqs := [(2, some { rS with kind := .opening })] }
def fC : Frame := { data := dat 80, entry := 3, sub := 2, stage := .sending, outPort := 5, outSub := 1, len := 84, queue := some (0x8000 + 21*8), stored := 84 }
def pk : Picked := { frame := 7, queue := 0x8000+21*8, port := 21, cls := 0, charge := 104, queueTag := 0, classTag := 0, classClock := 0, portClock := 0 }
def wC := on fun c => ((c.setFrame 7 (some fC)).setPicked 21 (some pk)).setQueueSt (0x8000 + 21*8) { frames := [7], bytes := 84 }

/-- The hypotheses of `Obligations.FrameArrival`, clause by clause, are met together. -/
theorem witness_FrameArrival :
    (∃ (s : State) (p : Fin 16) (b : Fin 4) (data : Bytes), s.chip.running = true ∧ s.chip.portUp p.val b.val = true ∧
      s.chip.comingFrame p.val b.val = none ∧ List.length data + 4 < 64) ∧
    (∃ (s : State) (p : Fin 16) (b : Fin 4) (data : Bytes), s.chip.running = true ∧ s.chip.portUp p.val b.val = true ∧
      s.chip.comingFrame p.val b.val = none ∧ 64 ≤ List.length data + 4 ∧ s.chip.maxLen p.val b.val < List.length data + 4) ∧
    (∃ (s : State) (p : Fin 16) (b : Fin 4) (data : Bytes), s.chip.running = true ∧ s.chip.portUp p.val b.val = true ∧
      s.chip.comingFrame p.val b.val = none ∧ s.chip.poolUsed (schedOf p.val b.val) + 16032 ≤ s.chip.getF F.PRT_SUB_CFG_pool
      [p.val, b.val] * 65536 ∧ s.chip.noKeys = false ∧ 64 ≤ List.length data + 4 ∧ List.length data + 4 ≤ s.chip.maxLen p.val
      b.val ∧ be16 data 12 ≠ 34824) ∧
    (∃ (s : State) (p : Fin 16) (b : Fin 4), s.chip.running = true ∧ s.chip.portUp p.val b.val = true ∧ s.chip.comingFrame p.val
      b.val = none ∧ (¬s.chip.poolUsed (schedOf p.val b.val) + 16032 ≤ s.chip.getF F.PRT_SUB_CFG_pool [p.val, b.val] * 65536)) ∧
    (∃ (s : State) (p : Fin 16) (b : Fin 4) (n : Nat) (f : Frame), s.chip.comingFrame p.val b.val = some (n, f) ∧ f.entry =
      p.val ∧ f.sub = b.val ∧ f.stage = FStage.pool ∧ s.chip.portUp p.val b.val = true ∧ 60 ≤ List.length f.data ∧ List.length
      f.data + 4 ≤ s.chip.maxLen p.val b.val ∧ be16 f.data 12 ≠ 34824 ∧ f.lost = none ∧ f.learn = none) ∧
    (∃ (s : State) (p : Fin 16) (b : Fin 4) (n : Nat) (f : Frame) (r : Nat), s.chip.comingFrame p.val b.val = some (n, f) ∧
      f.entry = p.val ∧ f.sub = b.val ∧ f.stage = FStage.gone ∧ f.lost = some r ∧ f.openPending = false ∧ s.chip.portUp p.val
      b.val = true ∧ 60 ≤ List.length f.data ∧ List.length f.data + 4 ≤ s.chip.maxLen p.val b.val ∧ be16 f.data 12 ≠ 34824 ∧ 128
      ≤ r ∧ r < 160) ∧
    (∃ (s : State) (p : Fin 16) (b : Fin 4) (n : Nat) (f : Frame) (r : Nat), s.chip.comingFrame p.val b.val = some (n, f) ∧
      f.entry = p.val ∧ f.sub = b.val ∧ f.stage = FStage.gone ∧ f.lost = some r ∧ f.openPending = false ∧ s.chip.portUp p.val
      b.val = true ∧ 60 ≤ List.length f.data ∧ List.length f.data + 4 ≤ s.chip.maxLen p.val b.val ∧ be16 f.data 12 ≠ 34824 ∧ r =
      132 ∧ s.chip.logs ∧ 0 < s.chip.tokens Ev.INGRESS_FULL) ∧
    (∃ (s : State) (n : Nat) (f : Frame) (ch : Nat) (i : Nat), s.chip.frame n = some f ∧ f.stage = FStage.pool ∧ f.coming =
      false ∧ f.early = none ∧ s.chip.opensEarly f = true ∧ f.macsec = true ∧ s.chip.lookupBefore n f = false ∧ (rxTag f.data
      f.typeAt).sc = true ∧ (rxTag f.data f.typeAt).good f.data f.typeAt true = true ∧ s.chip.rxChannel f.entry f.sub (rxTag
      f.data f.typeAt).sci = some ch ∧ (s.chip.chan ch).saAt (rxTag f.data f.typeAt).an = some i ∧ (s.chip.sa i).state = 1 ∧
      (s.chip.sa i).hold = false ∧ (rxTag f.data f.typeAt).good f.data f.typeAt (suiteXpn (s.chip.sa i).suite) = true ∧
      (s.chip.sa i).accepts ((s.chip.sa i).recoverPn (rxTag f.data f.typeAt).pn) = true ∧ s.chip.inMode [Mode.active,
      Mode.standby] = true ∧ s.chip.pan.stopped = false ∧ (s.chip.slot (slotOf (s.chip.sa i).key)).state = 1) ∧
    (∃ (s : State) (n : Nat) (f : Frame) (ch : Nat) (i : Nat), s.chip.frame n = some f ∧ f.stage = FStage.pool ∧ f.coming =
      false ∧ f.early = none ∧ s.chip.opensEarly f = true ∧ f.macsec = true ∧ s.chip.lookupBefore n f = false ∧ (rxTag f.data
      f.typeAt).sc = true ∧ (rxTag f.data f.typeAt).good f.data f.typeAt true = true ∧ s.chip.rxChannel f.entry f.sub (rxTag
      f.data f.typeAt).sci = some ch ∧ (s.chip.chan ch).saAt (rxTag f.data f.typeAt).an = some i ∧ (s.chip.sa i).state = 1 ∧
      (s.chip.sa i).hold = false ∧ (rxTag f.data f.typeAt).good f.data f.typeAt (suiteXpn (s.chip.sa i).suite) = true ∧
      (s.chip.sa i).accepts ((s.chip.sa i).recoverPn (rxTag f.data f.typeAt).pn) = false) ∧
    (∃ (s : State) (ring : Fin 16) (desc : Bytes), s.chip.canFetch (24 + ring.val) = true ∧ s.chip.ringOwner (24 + ring.val) =
      some 0 ∧ s.chip.excCheck (excOut (slice desc 0 32)) ≠ 0 ∧ s.chip.excCheck (excOut (slice desc 0 32)) ≠ 3) ∧
    (∃ (s : State) (ring : Fin 16) (desc : Bytes) (frame : Bytes), s.chip.canFetch (24 + ring.val) = true ∧ s.chip.ringOwner (24
      + ring.val) = some 0 ∧ s.chip.excCheck (excOut (slice desc 0 32)) = 0 ∧ (excOut (slice desc 0 32)).action ≠ 1 ∧
      s.chip.portUp (excOut (slice desc 0 32)).port (excOut (slice desc 0 32)).sub = true ∧ (s.chip.queueCfg (directQueue
      (schedOf (excOut (slice desc 0 32)).port (excOut (slice desc 0 32)).sub) (excOut (slice desc 0 32)).cls)).en = true ∧
      (s.chip.queueSt (directQueue (schedOf (excOut (slice desc 0 32)).port (excOut (slice desc 0 32)).sub) (excOut (slice desc
      0 32)).cls)).bytes + List.length (slice frame 0 (excOut (slice desc 0 32)).length) + 4 ≤ 1024 * (s.chip.queueCfg
      (directQueue (schedOf (excOut (slice desc 0 32)).port (excOut (slice desc 0 32)).sub) (excOut (slice desc 0
      32)).cls)).limitG ∧ s.chip.kidActive (s.chip.getF F.MEM_FRAME_KID_kid []) = true ∧ s.chip.onDie (directQueue (schedOf
      (excOut (slice desc 0 32)).port (excOut (slice desc 0 32)).sub) (excOut (slice desc 0 32)).cls) < 1024 * (s.chip.queueCfg
      (directQueue (schedOf (excOut (slice desc 0 32)).port (excOut (slice desc 0 32)).sub) (excOut (slice desc 0
      32)).cls)).odShare ∧ s.chip.odQueued + (List.length (slice frame 0 (excOut (slice desc 0 32)).length) + 4) ≤ s.chip.odRoom
      ∧ s.chip.gateList (schedOf (excOut (slice desc 0 32)).port (excOut (slice desc 0 32)).sub) = none ∧ s.chip.frame
      s.chip.path.next = none) :=
  ⟨⟨(wU 9 3), 9, 3, (dat 59), by decide +kernel⟩,
   ⟨(wU 9 3 fun c => c.setF F.PRT_SUB_CFG_max_len [9, 3] 100), 9, 3, (dat 97), by decide +kernel⟩,
   ⟨(wU 3 2), 3, 2, (dat 200), by decide +kernel⟩,
   ⟨(wU 9 3 fun c => c.setF F.PRT_SUB_CFG_pool [9, 3] 0), 9, 3, by decide +kernel⟩,
   ⟨(wU 9 3 (·.setFrame 7 (some fU))), 9, 3, 7, fU, by decide +kernel⟩,
   ⟨(wU 9 3 (·.setFrame 7 (some (fL 0x85)))), 9, 3, 7, (fL 0x85), 0x85, by decide +kernel⟩,
   ⟨(wU 9 3 (·.setFrame 7 (some (fL 0x84)))), 9, 3, 7, (fL 0x84), 0x84, by unfold Chip.logs; decide +kernel⟩,
   ⟨(wE 5), 7, fE, 4, 9, by decide +kernel⟩,
   ⟨(wE 11), 7, fE, 4, 9, by decide +kernel⟩,
   ⟨(wX), 1, (desc 50 3 2 0), by decide +kernel⟩,
   ⟨(wX fun c => c.modSlu fun s => { s with cfgs := [(0x8000 + 14*8 + 3, some { en := true })] }), 1, (desc 100 3 2 2), (dat 100), by decide +kernel⟩⟩

/-- The hypotheses of `Obligations.AdmissionSealAndVerdict`, clause by clause, are met together. -/
theorem witness_AdmissionSealAndVerdict :
    (∃ (s : State) (n : Nat) (f : Frame) (h : Word), s.chip.frame n = some f ∧ f.host = none ∧ f.coming = false ∧ f.stage =
      FStage.admission ∧ f.sealMark = some h ∧ f.queue = none ∧ f.early = none ∧ (f.isIngot = true → f.verdict.getD 0 = 0) ∧
      s.chip.admitTest h f.outPort f.outSub = 0 ∧ s.chip.mayAllocate (s.chip.sealTarget h) = true ∧ s.chip.sealBefore n f =
      false) ∧
    (∃ (s : State) (n : Nat) (f : Frame) (h : Word), s.chip.frame n = some f ∧ f.host = none ∧ f.coming = false ∧ f.stage =
      FStage.admission ∧ f.sealMark = some h ∧ f.queue = none ∧ f.early = none ∧ (f.isIngot = true → f.verdict.getD 0 = 0) ∧
      s.chip.admitTest h f.outPort f.outSub ≠ 0 ∧ s.chip.admitTest h f.outPort f.outSub ≠ 138) ∧
    (∃ (s : State) (n : Nat) (f : Frame) (h : Word), s.chip.frame n = some f ∧ f.host = none ∧ f.coming = false ∧ f.stage =
      FStage.admission ∧ f.sealMark = some h ∧ f.queue = none ∧ f.early = none ∧ (f.isIngot = true → f.verdict.getD 0 = 0) ∧
      s.chip.admitTest h f.outPort f.outSub = 0 ∧ (s.chip.mayAllocate (s.chip.sealTarget h) = false ∨ s.chip.sealBefore n f =
      true)) ∧
    (∃ (s : State) (n : Nat) (f : Frame) (k : Nat) (r : PanReq), s.chip.frame n = some f ∧ f.host = none ∧ f.coming = false ∧
      ((s.chip.turnOf fun r => decide (r.kind = ReqKind.sealing) && decide (r.subject = n)) = some (k, r)) ∧ s.chip.readsPoison
      f = false ∧ f.inHbm = false) ∧
    (∃ (s : State) (n : Nat) (f : Frame) (k : Nat) (r : PanReq), s.chip.frame n = some f ∧ f.host = none ∧ f.coming = false ∧
      ((s.chip.turnOf fun r => decide (r.kind = ReqKind.opening) && decide (r.subject = n)) = some (k, r)) ∧ f.isIngot = false ∧
      s.chip.openBefore n f = false ∧ f.stage = FStage.opening ∧ f.hostWaits = [] ∧ f.queue = none ∧ f.icvOk = true ∧
      s.chip.saHandle (f.sa.getD 0) = (f.early.getD { }).handle ∧ (s.chip.sa (f.sa.getD 0)).accepts f.pn = true) ∧
    (∃ (s : State) (n : Nat) (f : Frame) (k : Nat) (r : PanReq), s.chip.frame n = some f ∧ f.host = none ∧ f.coming = false ∧
      ((s.chip.turnOf fun r => decide (r.kind = ReqKind.opening) && decide (r.subject = n)) = some (k, r)) ∧ f.isIngot = false ∧
      s.chip.openBefore n f = false ∧ f.stage = FStage.opening ∧ f.hostWaits = [] ∧ f.queue = none ∧ f.icvOk = false) ∧
    (∃ (s : State) (n : Nat) (f : Frame) (k : Picked), s.chip.frame n = some f ∧ f.host = none ∧ f.coming = false ∧
      s.chip.picked (schedOf f.outPort f.outSub) = some k ∧ k.frame = n ∧ f.outPort < 8 ∧ f.outSub < 4 ∧ f.early = none ∧
      f.bound = none ∧ f.sealWith = none ∧ f.depMark = none ∧ s.chip.readsPoison f = false ∧ s.chip.gateFits (schedOf f.outPort
      f.outSub) k.cls k.charge = true) :=
  ⟨⟨(wA .active fun c => c.setF F.PRT_FRM_CFG_sci_tx [3, 1] 1), 7, fA, hA, by decide +kernel⟩,
   ⟨(wA .provision), 7, fA, hA, by decide +kernel⟩,
   ⟨(wA .active fun c => c.modPrs fun p => { p with yieldAt := some 3 }), 7, fA, hA, by decide +kernel⟩,
   ⟨(on fun c => (c.setFrame 7 (some fP)).modPan fun p => { p with reqs := [(2, some rS)] }), 7, fP, 2, rS, by decide +kernel⟩,
   ⟨(wO true), 7, (fO true), 2, { rS with kind := .opening }, by decide +kernel⟩,
   ⟨(wO false), 7, (fO false), 2, { rS with kind := .opening }, by decide +kernel⟩,
   ⟨wC, 7, fC, pk, by decide +kernel⟩⟩

end W18

namespace W19

def dat (n : Nat) : Bytes := (List.range n).map (BitVec.ofNat 8 ·)
def Q := 0x8000 + 21 * 8 + 3
def fq : Frame := { data := dat 80, entry := 9, sub := 1, queue := some Q, stored := 70000, len := 84, stage := .queued }
def up (p b : Nat) (c : Chip) := ((((c.setF F.PRT_LINK_CFG_pmode [p] 2).setF F.PRT_LINK_CFG_en [p] (2^b)).setF F.PRT_LINK_STAT_up [p] (2^b))).setF F.PRS_STAT_holding [] 1
def wq (f : Chip → Chip := id) := on fun c => f (((up 5 1 c).setFrame 3 (some fq)).setQueueSt Q { frames := [3], bytes := 84 } |>.modSlu fun s => { s with cfgs := [(Q, some { en := true })] })
def Q2 := 5
def fq2 (h : Bool) : Frame := { fq with queue := some Q2, inHbm := h, kid := if h then none else some 3, stored := 300000 }
def wq2 (h : Bool) := on fun c => (c.setFrame 3 (some (fq2 h))).setQueueSt Q2 { frames := [3], bytes := 84 }
def wsh (n : Option (Nat × Nat × Nat × Nat × Nat)) (e : BitVec 64 := 2100) := on fun c => (c.modTim fun t => { t with elapsed := e }).setQShaper 9 { en := true, k := 3, cir := 1000, cbs := 30000, pir := 50, pbs := 40000, cb := -5, pb := 7, next := n, due := 2048 }
def gl : GateList := { base := 1000, cycle := 1000000, entries := [(500000, 0xF), (500000, 0xF0)] }
def wg := on fun c => (c.setF F.SLU_GCL_CFG_en [40] 1).modSlu fun s => { s with pendingLists := [(40, some (gl, 777))] }
def pk (p cls ch : Nat) : Picked := { frame := 3, queue := Q, port := p, cls := cls, charge := ch, queueTag := 0, classTag := 0, classClock := 0, portClock := 0 }
def fs (p b : Nat) : Frame := { fq with stage := .sending, outPort := p, outSub := b }
def wf (p : Nat) (g : GateList) := on fun c => ((up 9 1 (c.setFrame 3 (some (fs (p/4) (p%4))))).setPicked p (some (pk p 3 104)) |>.setF F.SLU_GCL_CFG_en [p] 1).modSlu fun s => { s with lists := [(p, some g)], queues := [(Q, {frames := [3], bytes := 84})] }
def wsm (f : Chip → Chip) := on fun c => f ((c.setF F.SLU_SMP_CFG_en [] 1).setF F.SLU_SMP_LEN_len [] 2)

/-- The hypotheses of `Obligations.QueuesAndScheduling`, clause by clause, are met together. -/
theorem witness_QueuesAndScheduling :
    (∃ (s : State) (n : Nat) (f : Frame) (q : Nat) (p : Fin 66) (cls : Nat), s.chip.canSend p.val = true ∧ s.chip.ingotMode
      (portOf p.val).1 (portOf p.val).2 = false ∧ s.chip.picked p.val = none ∧ s.chip.midFrame p.val = false ∧ s.chip.choose
      p.val = some (cls, q) ∧ s.chip.headOf q = some (n, f) ∧ ((portOf p.val).1 < 8 ∨ (s.chip.gateList p.val).isSome = true)) ∧
    (∃ (s : State) (p : Fin 66), (s.chip.canSend p.val = false ∨ s.chip.choose p.val = none)) ∧
    (∃ (s : State) (n : Nat) (f : Frame) (q : Nat), s.chip.frame n = some f ∧ f.queue = some q ∧ (s.chip.queueSt q).frames = [n]
      ∧ f.inHbm = false ∧ f.stage = FStage.queued ∧ f.kid.isSome = true ∧ 1024 * (s.chip.queueCfg q).odShare < f.stored ∧
      s.chip.hbmFits (frameLines f.stored) = true) ∧
    (∃ (s : State) (n : Nat) (f : Frame) (q : Nat), s.chip.frame n = some f ∧ f.queue = some q ∧ (s.chip.queueSt q).frames = [n]
      ∧ f.inHbm = true ∧ s.chip.odQueued + f.stored ≤ s.chip.odRoom ∧ (s.chip.hbmRead f).1 = true ∧ s.chip.readsPoison f =
      false) ∧
    (∃ (s : State) (i : Fin 32768), ((SMap.get (fun _ => ({} : Shaper)) s.chip.slu.qshapers i.val).next = none) ∧ ((SMap.get
      (fun _ => ({} : Shaper)) s.chip.slu.qshapers i.val).due ≤ s.chip.now) ∧ (s.chip.now < (SMap.get (fun _ => ({} : Shaper))
      s.chip.slu.qshapers i.val).due + (SMap.get (fun _ => ({} : Shaper)) s.chip.slu.qshapers i.val).period) ∧ ((SMap.get (fun _
      => ({} : Shaper)) s.chip.slu.qshapers i.val).period ≤ (SMap.get (fun _ => ({} : Shaper)) s.chip.slu.qshapers i.val).due))
      ∧
    (∃ (s : State) (i : Fin 32768) (k : Nat) (cir : Nat) (cbs : Nat) (pir : Nat) (pbs : Nat), ((SMap.get (fun _ => ({} :
      Shaper)) s.chip.slu.qshapers i.val).next = some (k, cir, cbs, pir, pbs)) ∧ ((SMap.get (fun _ => ({} : Shaper))
      s.chip.slu.qshapers i.val).due ≤ s.chip.now) ∧ (s.chip.now < (SMap.get (fun _ => ({} : Shaper)) s.chip.slu.qshapers
      i.val).due + ({ k := k } : Shaper).period) ∧ (({ k := k } : Shaper).period ≤ (SMap.get (fun _ => ({} : Shaper))
      s.chip.slu.qshapers i.val).due)) ∧
    (∃ (s : State) (i : Fin 32768), (s.chip.now < (SMap.get (fun _ => ({} : Shaper)) s.chip.slu.qshapers i.val).due)) ∧
    (∃ (s : State) (p : Fin 66) (l : GateList) (at' : Nat), s.chip.pendingGates p.val = some (l, at') ∧ s.chip.getF
      F.SLU_GCL_CFG_bank [p.val] ≤ 1 ∧ s.chip.gatesOn p.val = true ∧ s.chip.getB F.SLU_GCL_CFG_en [p.val] = true ∧
      s.chip.slu.swapAsked.contains p.val = false ∧ (∀ x ∈ s.chip.slu.queues, (s.chip.queueCfg x.1).port ≠ p.val)) ∧
    (∃ (s : State) (f : Frame) (p : Fin 66) (k : Picked), s.chip.picked p.val = some k ∧ s.chip.gateFits p.val k.cls k.charge =
      false ∧ s.chip.frame k.frame = some f) ∧
    (∃ (s : State) (p : Fin 66) (k : Picked), s.chip.picked p.val = some k ∧ s.chip.gateFits p.val k.cls k.charge = true ∧ p.val
      < 32) ∧
    (∃ (s : State) (f : Frame) (p : Fin 66) (k : Picked), s.chip.picked p.val = some k ∧ s.chip.gateFits p.val k.cls k.charge =
      true ∧ 32 ≤ p.val ∧ p.val < 64 ∧ s.chip.frame k.frame = some f ∧ s.chip.readsPoison f = false ∧ f.host = none ∧ f.depMark
      = none ∧ f.sealWith = none ∧ f.bound = none ∧ f.openPending = false) ∧
    (∃ (s : State), s.chip.getB F.SLU_SMP_CFG_en [] = true ∧ (s.chip.slu.sampling = false ∨ s.chip.slu.sampleDue ≤ s.chip.now) ∧
      s.chip.ringEn 57 = true ∧ s.chip.ringOwner 57 = some 0 ∧ (((Option.map (fun x => x.1) s.chip.slu.sampleNext).getD
      s.chip.slu.sampleList).length + 1 ≤ s.chip.ringFree 57)) ∧
    (∃ (s : State), s.chip.getB F.SLU_SMP_CFG_en [] = true ∧ (s.chip.slu.sampling = false ∨ s.chip.slu.sampleDue ≤ s.chip.now) ∧
      (s.chip.ringFree 57 < ((Option.map (fun x => x.1) s.chip.slu.sampleNext).getD s.chip.slu.sampleList).length + 1)) ∧
    (∃ (s : State), (s.chip.getB F.SLU_SMP_CFG_en [] = false ∨ ¬(s.chip.slu.sampling = false ∨ s.chip.slu.sampleDue ≤
      s.chip.now))) :=
  ⟨⟨(wq), 3, fq, Q, 21, 3, by decide +kernel⟩,
   ⟨(wq fun c => c.setFrame 3 none), 21, by decide +kernel⟩,
   ⟨(wq2 false), 3, (fq2 false), Q2, by decide +kernel⟩,
   ⟨(wq2 true), 3, (fq2 true), Q2, by decide +kernel⟩,
   ⟨(wsh none), 9, by decide +kernel⟩,
   ⟨(wsh (some (1, 2, 3, 4, 5))), 9, 1, 2, 3, 4, 5, by decide +kernel⟩,
   ⟨(wsh none 2047), 9, by decide +kernel⟩,
   ⟨wg, 40, gl, 777, by decide +kernel⟩,
   ⟨(wf 37 { gl with entries := [(500000, 0)] }), (fs 9 1), 37, (pk 37 3 104), by decide +kernel⟩,
   ⟨(wf 21 { gl with entries := [(500000, 255)] }), 21, (pk 21 3 104), by decide +kernel⟩,
   ⟨(wf 37 { gl with entries := [(500000, 255)] }), (fs 9 1), 37, (pk 37 3 104), by decide +kernel⟩,
   ⟨(wsm fun c => (c.setF F.HIF_RING_CFG_en [57] 1).setF F.HIF_RING_CFG_log2size [57] 6), by decide +kernel⟩,
   ⟨(wsm fun c => (c.setF F.HIF_RING_CFG_en [57] 1).setRing 57 { own := 16 }), by decide +kernel⟩,
   ⟨(on id), by decide +kernel⟩⟩

end W19

namespace W20

def ring (r : Nat) (g : Ring) (c : Chip) := (c.setF F.HIF_RING_CFG_en [r] 1).setRing r g
def own (c : Chip) := c.setF F.HIF_LA_OWNER_function [7] 3
def de (op ml al z : Nat) : Bytes := leBytes 4 op ++ leBytes 4 0x01060064 ++ leBytes 8 0x77 ++ leBytes 4 ml ++ leBytes 4 al ++ leBytes 8 0x1000 ++ leBytes 8 0x90000 ++ leBytes 8 0x180000 ++ (if op = 1 then List.replicate 12 0 else List.replicate 12 7) ++ leBytes 4 z
def wf (m : Mode) := on fun c => ring 167 {} (ring 71 { drv := 3, own := 2 } (own (c.inM m)))
def r0 : LaReq := { pair := 7, fn := 3, enc := true, handle := mkHandle 1 3 100, cookie := 0x77, msgLen := 20, aadLen := 4, src := 0x1000, dst := 0x9000, aadAt := 0x18000, iv := 7 }
def wa (s : Slot) (r : LaReq := r0) := on fun c => (((c.setF F.MEM_STAT_no_keys [] 0).setLa 1 (some r)).setSlot 100 s).setF F.MEM_FUNC_KID_kid [3] 5 |>.modBuf fun b => { b with states := [(5, 1)] }
def sl : Slot := { state := 1, generation := 1, function := 3 }
def rd : LaReq := { r0 with enc := false }
def ro : LaReq := { rd with dst := 0x1004 }
def wc (r : LaReq) := on fun c => ring 167 { own := 4, reserved := 1 } (ring 71 { drv := 3, own := 3 } (own (c.setLa 1 (some r))))
def rc (e : Bool) : LaReq := { r0 with enc := e, msg := if e then List.replicate 20 3 else List.replicate 36 3, aad := [1,2,3,4], admitted := true, key := some (false, 9) }
def wp (r : LaReq) : State := { wc r with chip := (wc r).chip.modPan fun p => { p with reqs := [(2, some { kind := .laEnc, pan := 3, slot := 100, gen := 1, subject := 1, blocks := 3 })] } }
def srv (s : State) : Chip := (((s.chip.findReq fun q => q.kind.lookAside && q.subject = 1).bind fun q => s.chip.laServe q.1 q.2)).getD s.chip
def rp : LaReq := { rc true with lines := [5] }

/-- The hypotheses of `Obligations.LookAside`, clause by clause, are met together. -/
theorem witness_LookAside :
    (∃ (s : State) (pair : Fin 96) (b : Bytes), s.chip.laNextRing = some pair.val ∧ List.length b = 64 ∧ s.chip.su.failed =
      true) ∧
    (∃ (s : State) (pair : Fin 96) (b : Bytes), s.chip.laNextRing = some pair.val ∧ List.length b = 64 ∧ s.chip.su.failed =
      false ∧ (¬((leNat (slice b 0 4) = 1 ∧ beNat (slice b 48 12) = 0 ∨ leNat (slice b 0 4) = 2) ∧ leNat (slice b 60 4) = 0))) ∧
    (∃ (s : State) (pair : Fin 96) (b : Bytes), s.chip.laNextRing = some pair.val ∧ List.length b = 64 ∧ s.chip.su.failed =
      false ∧ ((leNat (slice b 0 4) = 1 ∧ beNat (slice b 48 12) = 0 ∨ leNat (slice b 0 4) = 2) ∧ leNat (slice b 60 4) = 0) ∧
      s.chip.inMode [Mode.provision, Mode.active, Mode.standby] = false) ∧
    (∃ (s : State) (pair : Fin 96) (b : Bytes), s.chip.laNextRing = some pair.val ∧ List.length b = 64 ∧ s.chip.su.failed =
      false ∧ ((leNat (slice b 0 4) = 1 ∧ beNat (slice b 48 12) = 0 ∨ leNat (slice b 0 4) = 2) ∧ leNat (slice b 60 4) = 0) ∧
      s.chip.inMode [Mode.provision, Mode.active, Mode.standby] = true ∧ (16777216 < leNat (slice b 16 4) ∨ 65536 < leNat (slice
      b 20 4))) ∧
    (∃ (s : State) (pair : Fin 96) (b : Bytes), s.chip.laNextRing = some pair.val ∧ List.length b = 64 ∧ s.chip.su.failed =
      false ∧ ((leNat (slice b 0 4) = 1 ∧ beNat (slice b 48 12) = 0 ∨ leNat (slice b 0 4) = 2) ∧ leNat (slice b 60 4) = 0) ∧
      s.chip.inMode [Mode.provision, Mode.active, Mode.standby] = true ∧ leNat (slice b 16 4) ≤ 16777216 ∧ leNat (slice b 20 4)
      ≤ 65536) ∧
    (∃ (s : State) (n : Nat) (r : LaReq), s.chip.laReq n = some r ∧ r.admitted = false ∧ r.status = none ∧ r.waitsRandom = false
      ∧ s.chip.dmaAllowed r.fn = true ∧ s.chip.inMode [Mode.provision, Mode.active, Mode.standby] = true ∧ s.chip.pan.stopped =
      false ∧ genOf r.handle ≠ (s.chip.slot (slotOf r.handle)).generation) ∧
    (∃ (s : State) (n : Nat) (r : LaReq), s.chip.laReq n = some r ∧ r.admitted = false ∧ r.status = none ∧ r.waitsRandom = false
      ∧ s.chip.dmaAllowed r.fn = true ∧ s.chip.inMode [Mode.provision, Mode.active, Mode.standby] = true ∧ s.chip.pan.stopped =
      false ∧ genOf r.handle = (s.chip.slot (slotOf r.handle)).generation ∧ ((s.chip.slot (slotOf r.handle)).state = 0 ∨
      (s.chip.slot (slotOf r.handle)).state = 2)) ∧
    (∃ (s : State) (n : Nat) (r : LaReq), s.chip.laReq n = some r ∧ r.admitted = false ∧ r.status = none ∧ r.waitsRandom = false
      ∧ s.chip.dmaAllowed r.fn = true ∧ s.chip.inMode [Mode.provision, Mode.active, Mode.standby] = true ∧ s.chip.pan.stopped =
      false ∧ genOf r.handle = (s.chip.slot (slotOf r.handle)).generation ∧ (s.chip.slot (slotOf r.handle)).state = 1 ∧
      (s.chip.slot (slotOf r.handle)).type ≠ 0) ∧
    (∃ (s : State) (n : Nat) (r : LaReq), s.chip.laReq n = some r ∧ r.admitted = false ∧ r.status = none ∧ r.waitsRandom = false
      ∧ s.chip.dmaAllowed r.fn = true ∧ s.chip.inMode [Mode.provision, Mode.active, Mode.standby] = true ∧ s.chip.pan.stopped =
      false ∧ genOf r.handle = (s.chip.slot (slotOf r.handle)).generation ∧ (s.chip.slot (slotOf r.handle)).state = 1 ∧
      (s.chip.slot (slotOf r.handle)).type = 0 ∧ (fnOf r.handle ≠ r.fn ∨ (s.chip.slot (slotOf r.handle)).function ≠ r.fn)) ∧
    (∃ (s : State) (n : Nat) (r : LaReq), s.chip.laReq n = some r ∧ r.admitted = false ∧ r.status = none ∧ r.waitsRandom = false
      ∧ s.chip.dmaAllowed r.fn = true ∧ s.chip.inMode [Mode.provision, Mode.active, Mode.standby] = true ∧ s.chip.pan.stopped =
      false ∧ genOf r.handle = (s.chip.slot (slotOf r.handle)).generation ∧ (s.chip.slot (slotOf r.handle)).state = 1 ∧
      (s.chip.slot (slotOf r.handle)).type = 0 ∧ fnOf r.handle = r.fn ∧ (s.chip.slot (slotOf r.handle)).function = r.fn ∧ r.enc
      = true ∧ (s.chip.slot (slotOf r.handle)).count = 4294967295) ∧
    (∃ (s : State) (n : Nat) (r : LaReq), s.chip.laReq n = some r ∧ r.admitted = false ∧ r.status = none ∧ r.waitsRandom = false
      ∧ s.chip.dmaAllowed r.fn = true ∧ s.chip.inMode [Mode.provision, Mode.active, Mode.standby] = true ∧ s.chip.pan.stopped =
      false ∧ genOf r.handle = (s.chip.slot (slotOf r.handle)).generation ∧ (s.chip.slot (slotOf r.handle)).state = 1 ∧
      (s.chip.slot (slotOf r.handle)).type = 0 ∧ fnOf r.handle = r.fn ∧ (s.chip.slot (slotOf r.handle)).function = r.fn ∧ (r.enc
      = true → (s.chip.slot (slotOf r.handle)).count ≠ 4294967295) ∧ (s.chip.slot (slotOf r.handle)).bound = true) ∧
    (∃ (s : State) (n : Nat) (r : LaReq), s.chip.laReq n = some r ∧ r.admitted = false ∧ r.status = none ∧ r.waitsRandom = false
      ∧ s.chip.dmaAllowed r.fn = true ∧ s.chip.inMode [Mode.provision, Mode.active, Mode.standby] = true ∧ s.chip.pan.stopped =
      false ∧ genOf r.handle = (s.chip.slot (slotOf r.handle)).generation ∧ (s.chip.slot (slotOf r.handle)).state = 1 ∧
      (s.chip.slot (slotOf r.handle)).type = 0 ∧ fnOf r.handle = r.fn ∧ (s.chip.slot (slotOf r.handle)).function = r.fn ∧ (r.enc
      = true → (s.chip.slot (slotOf r.handle)).count ≠ 4294967295) ∧ (s.chip.slot (slotOf r.handle)).bound = false ∧ r.overlap =
      true) ∧
    (∃ (s : State) (n : Nat) (r : LaReq), s.chip.laReq n = some r ∧ r.admitted = false ∧ r.status = none ∧ r.waitsRandom = false
      ∧ s.chip.dmaAllowed r.fn = true ∧ s.chip.inMode [Mode.provision, Mode.active, Mode.standby] = true ∧ s.chip.pan.stopped =
      false ∧ genOf r.handle = (s.chip.slot (slotOf r.handle)).generation ∧ (s.chip.slot (slotOf r.handle)).state = 1 ∧
      (s.chip.slot (slotOf r.handle)).type = 0 ∧ fnOf r.handle = r.fn ∧ (s.chip.slot (slotOf r.handle)).function = r.fn ∧
      (s.chip.slot (slotOf r.handle)).bound = false ∧ r.overlap = false ∧ s.chip.noKeys = false ∧ s.chip.kidActive (s.chip.getF
      F.MEM_FUNC_KID_kid [r.fn]) = true ∧ s.chip.hbmFits (((if r.enc = true then r.msgLen else r.msgLen + 16) + r.aadLen + 63) /
      64) = true ∧ r.enc = false) ∧
    (∃ (s : State) (n : Nat) (r : LaReq), s.chip.laReq n = some r ∧ r.admitted = false ∧ r.status = none ∧ r.waitsRandom = false
      ∧ s.chip.dmaAllowed r.fn = true ∧ s.chip.inMode [Mode.provision, Mode.active, Mode.standby] = true ∧ s.chip.pan.stopped =
      false ∧ genOf r.handle = (s.chip.slot (slotOf r.handle)).generation ∧ (s.chip.slot (slotOf r.handle)).state = 1 ∧
      (s.chip.slot (slotOf r.handle)).type = 0 ∧ fnOf r.handle = r.fn ∧ (s.chip.slot (slotOf r.handle)).function = r.fn ∧
      (s.chip.slot (slotOf r.handle)).bound = false ∧ r.overlap = false ∧ s.chip.noKeys = false ∧ s.chip.kidActive (s.chip.getF
      F.MEM_FUNC_KID_kid [r.fn]) = true ∧ s.chip.hbmFits (((if r.enc = true then r.msgLen else r.msgLen + 16) + r.aadLen + 63) /
      64) = true ∧ r.enc = true ∧ (s.chip.slot (slotOf r.handle)).count < 4294967295 ∧ s.chip.entFailed = false) ∧
    (∃ (s : State) (n : Nat) (r : LaReq) (pair : Fin 96) (st : Nat), (s.chip.laOf pair.val).head? = some (n, r) ∧ r.discarded =
      false ∧ s.chip.dmaAllowed r.fn = true ∧ s.chip.ringOwner (160 + pair.val) = some r.fn ∧ s.chip.ringEn (160 + pair.val) =
      true ∧ r.status = some st) ∧
    (∃ (s : State) (n : Nat) (r : LaReq) (pair : Fin 96) (k256 : Bool) (key : BitVec 256) (served : Chip), (s.chip.laOf
      pair.val).head? = some (n, r) ∧ r.discarded = false ∧ s.chip.dmaAllowed r.fn = true ∧ s.chip.ringOwner (160 + pair.val) =
      some r.fn ∧ s.chip.ringEn (160 + pair.val) = true ∧ r.status = none ∧ r.key = some (k256, key) ∧ (((s.chip.findReq fun q
      => q.kind.lookAside && decide (q.subject = n)).bind fun q => s.chip.laServe q.1 q.2) = some served) ∧ (served.linesRead
      r.kid r.lines).1 = none) ∧
    (∃ (s : State) (n : Nat) (r : LaReq) (pair : Fin 96) (k256 : Bool) (key : BitVec 256) (served : Chip), (s.chip.laOf
      pair.val).head? = some (n, r) ∧ r.discarded = false ∧ s.chip.dmaAllowed r.fn = true ∧ s.chip.ringOwner (160 + pair.val) =
      some r.fn ∧ s.chip.ringEn (160 + pair.val) = true ∧ r.status = none ∧ r.key = some (k256, key) ∧ (((s.chip.findReq fun q
      => q.kind.lookAside && decide (q.subject = n)).bind fun q => s.chip.laServe q.1 q.2) = some served) ∧ (served.linesRead
      r.kid r.lines).1.isSome = true ∧ r.enc = true) ∧
    (∃ (s : State) (n : Nat) (r : LaReq) (pair : Fin 96) (k256 : Bool) (key : BitVec 256) (served : Chip), (s.chip.laOf
      pair.val).head? = some (n, r) ∧ r.discarded = false ∧ s.chip.dmaAllowed r.fn = true ∧ s.chip.ringOwner (160 + pair.val) =
      some r.fn ∧ s.chip.ringEn (160 + pair.val) = true ∧ r.status = none ∧ r.key = some (k256, key) ∧ (((s.chip.findReq fun q
      => q.kind.lookAside && decide (q.subject = n)).bind fun q => s.chip.laServe q.1 q.2) = some served) ∧ (served.linesRead
      r.kid r.lines).1.isSome = true ∧ r.enc = false) :=
  ⟨⟨(on fun c => ring 167 {} (ring 71 { drv := 3, own := 2 } (own { c.inM .wake with su := { c.su with failed := true } }))), 7, (de 1 20 4 0), by decide +kernel⟩,
   ⟨(wf .active), 7, (de 1 20 4 1), by decide +kernel⟩,
   ⟨(wf .maintenance), 7, (de 1 20 4 0), by decide +kernel⟩,
   ⟨(wf .active), 7, (de 1 16777216 65537 0), by decide +kernel⟩,
   ⟨(wf .active), 7, (de 1 16777216 65536 0), by decide +kernel⟩,
   ⟨(wa { sl with generation := 2 }), 1, r0, by decide +kernel⟩,
   ⟨(wa { sl with state := 2 }), 1, r0, by decide +kernel⟩,
   ⟨(wa { sl with type := 2 }), 1, r0, by decide +kernel⟩,
   ⟨(wa { sl with function := 4 }), 1, r0, by decide +kernel⟩,
   ⟨(wa { sl with count := 0xFFFFFFFF }), 1, r0, by decide +kernel⟩,
   ⟨(wa { sl with bound := true }), 1, r0, by decide +kernel⟩,
   ⟨(wa sl ro), 1, ro, by decide +kernel⟩,
   ⟨(wa sl rd), 1, rd, by decide +kernel⟩,
   ⟨(wa sl), 1, r0, by decide +kernel⟩,
   ⟨(wc { r0 with status := some 1 }), 1, { r0 with status := some 1 }, 7, 1, by decide +kernel⟩,
   ⟨(wp rp), 1, rp, 7, false, 9, (srv (wp rp)), by decide +kernel⟩,
   ⟨(wp (rc true)), 1, (rc true), 7, false, 9, (srv (wp (rc true))), by decide +kernel⟩,
   ⟨(wp (rc false)), 1, (rc false), 7, false, 9, (srv (wp (rc false))), by decide +kernel⟩⟩

end W20

namespace W21

def dat (n : Nat) : Bytes := (List.range n).map (BitVec.ofNat 8 ·)
def ip (c : Chip) := (((((c.setF F.PRT_LINK_CFG_pmode [11] 2).setF F.PRT_LINK_CFG_en [11] 2).setF F.PRT_LINK_STAT_up [11] 2).setF F.PRT_FRM_CFG_mode [3, 1] 1).setF F.PRS_STAT_holding [] 1)
def saT : Sa := { state := 1, generation := 3, channel := 4, an := 0, suite := 1, key := mkHandle 1 0 100, nextPn := 100 }
def chT : Channel := { valid := true, portCh := true, linePort := 3, subPort := 1, sci := 77, sa0 := some 9, txCur := true, tag := 12 }
def wI (g : IngotPort) (f : Chip → Chip := id) := on fun c => f (((((ip c).setSa 9 saT).setChan 4 chT).setSlot 100 { state := 1, generation := 1, klen := true }).setIngot 13 g)
def ts (n : Nat) : TxSlot := { seq := n, sa := 9, pn := 100, an := 0, departure := 0x50, head := dat 62, cipher := (true, 7, 9) }
def rq : PanReq := { kind := .kstream, pan := 3, slot := 100, gen := 1, subject := 13, seq := 1, blocks := 6 }
def Q := 0x8000 + 45 * 8 + 3
def fq : Frame := { data := dat 80, entry := 9, sub := 1, queue := some Q, stored := 84, len := 84, stage := .queued, channel := some 4, outPort := 11, outSub := 1 }
def wq (g : IngotPort) := wI g fun c => ((c.setFrame 3 (some fq)).setQueueSt Q { frames := [3], bytes := 84 }).modSlu fun s => { s with cfgs := [(Q, some { en := true })] }
def cl (n : Nat) (ks : Bool) (segs : List Segment) : TxSlot := { ts n with closed := true, keystream := ks, segments := segs, dross := segs.isEmpty }
def sg : Segment := { type := 1, cls := 3, tag := 12, frame := 3, off := 0, data := dat 80 }
def hd (pn sq : Nat) : Bytes := dat 12 ++ [0x88, 0xB5] ++ ingotHeader 0 0 0 0 pn sq
def fi (ok : Bool) (plain : Bytes) : Frame := { data := hd 9 55 ++ dat 80, entry := 11, sub := 1, stage := .opening, icvOk := ok, sa := some 9, pn := 9, plain := plain, early := some { hit := true, handle := mkSaHandle 3 9, opened := true, channel := 4 }, summary := 2^27, ingot := true }
def wv (f : Frame) := on fun c => (((ip c).setFrame 7 (some f)).setSa 9 { saT with dir := true, highest := 5, replayWin := 2 }).modPan fun p => { p with reqs := [(2, some { rq with kind := .opening, subject := 7 })] }
def rv : PanReq := { rq with kind := .opening, subject := 7 }

/-- The hypotheses of `Obligations.IngotSlots`, clause by clause, are met together. -/
theorem witness_IngotSlots :
    (∃ (s : State) (line : Fin 8) (b : Fin 4) (i : Nat), s.chip.ingotMode (8 + line.val) b.val = true ∧ s.chip.portUp (8 +
      line.val) b.val = true ∧ s.chip.ingotSa line.val b.val = some i ∧ s.chip.sealTest (s.chip.saHandle i) = 0 ∧
      s.chip.mayAllocate i = true ∧ s.chip.seqReserved (line.val * 4 + b.val) (s.chip.ingot (line.val * 4 + b.val)).nextSeq =
      true) ∧
    (∃ (s : State) (line : Fin 8) (b : Fin 4), s.chip.ingotMode (8 + line.val) b.val = true ∧ s.chip.portUp (8 + line.val) b.val
      = true ∧ s.chip.ingotSa line.val b.val = none) ∧
    (∃ (s : State) (line : Fin 8) (b : Fin 4) (t : TxSlot) (n : Nat) (r : PanReq), ((s.chip.findReq fun r => decide (r.kind =
      ReqKind.kstream) && decide (r.subject = line.val * 4 + b.val)) = some (n, r)) ∧ s.chip.panTurn n r = true ∧ r.seq = t.seq)
      ∧
    (∃ (s : State) (line : Fin 8) (b : Fin 4) (t : TxSlot), (List.find? (fun x => !x.closed) (s.chip.ingot (line.val * 4 +
      b.val)).slots = some t) ∧ (s.chip.ingot (line.val * 4 + b.val)).partials = [] ∧ s.chip.choose (schedOf (8 + line.val)
      b.val) = none) ∧
    (∃ (s : State) (line : Fin 8) (b : Fin 4) (t : TxSlot) (cls : Nat) (q : Nat) (n : Nat) (f : Frame), (List.find? (fun x =>
      !x.closed) (s.chip.ingot (line.val * 4 + b.val)).slots = some t) ∧ (s.chip.ingot (line.val * 4 + b.val)).partials = [] ∧
      s.chip.prs.yieldAt = none ∧ s.chip.choose (schedOf (8 + line.val) b.val) = some (cls, q) ∧ s.chip.headOf q = some (n, f) ∧
      0 < List.length f.data ∧ List.length f.data + 4 ≤ s.chip.ingotSize (8 + line.val) b.val - 86) ∧
    (∃ (s : State) (line : Fin 8) (b : Fin 4) (t : TxSlot) (complete : Bool) (later : List TxSlot), (List.filter (fun x =>
      x.closed && !x.ready) (s.chip.ingot (line.val * 4 + b.val)).slots = t :: later) ∧ s.chip.txOn = true ∧ s.chip.prs.yieldAt
      = none ∧ t.keystream = true ∧ (complete = true ∨ t.dross = true)) ∧
    (∃ (s : State) (line : Fin 8) (b : Fin 4) (t : TxSlot) (complete : Bool) (later : List TxSlot), (List.filter (fun x =>
      x.closed && !x.ready) (s.chip.ingot (line.val * 4 + b.val)).slots = t :: later) ∧ s.chip.txOn = true ∧ s.chip.prs.yieldAt
      = none ∧ t.keystream = true ∧ complete = false ∧ t.dross = false) ∧
    (∃ (s : State) (line : Fin 8) (b : Fin 4) (t : TxSlot) (later : List TxSlot), (List.filter (fun x => x.closed && !x.ready)
      (s.chip.ingot (line.val * 4 + b.val)).slots = t :: later) ∧ s.chip.txOn = true ∧ s.chip.prs.yieldAt = none ∧ t.keystream =
      false) ∧
    (∃ (s : State) (line : Fin 8) (b : Fin 4) (t : TxSlot), (List.find? (fun x => x.ready) (s.chip.ingot (line.val * 4 +
      b.val)).slots = some t)) :=
  ⟨⟨(wI { nextSeq := 4 }), 3, 1, 9, by decide +kernel⟩,
   ⟨(wI { nextSeq := 4, slots := [ts 3] } fun c => c.setChan 4 { chT with portCh := false }), 3, 1, by decide +kernel⟩,
   ⟨(wI { nextSeq := 4, slots := [ts 1, ts 2] } fun c => c.modPan fun p => { p with reqs := [(2, some rq)] }), 3, 1, (ts 1), 2, rq, by decide +kernel⟩,
   ⟨(wI { nextSeq := 4, slots := [{ ts 0 with closed := true }, ts 1, ts 2] }), 3, 1, (ts 1), by decide +kernel⟩,
   ⟨(wq { nextSeq := 4, slots := [ts 1, ts 2] }), 3, 1, (ts 1), 3, Q, 3, fq, by decide +kernel⟩,
   ⟨(wq { nextSeq := 4, slots := [cl 1 true [], ts 2] }), 3, 1, (cl 1 true []), false, [], by decide +kernel⟩,
   ⟨(wq { nextSeq := 4, slots := [cl 1 true [sg], cl 2 true []] }), 3, 1, (cl 1 true [sg]), false, [cl 2 true []], by decide +kernel⟩,
   ⟨(wq { nextSeq := 4, slots := [cl 1 false [sg], cl 2 true []] }), 3, 1, (cl 1 false [sg]), [cl 2 true []], by decide +kernel⟩,
   ⟨(wq { nextSeq := 4, slots := [{ cl 1 true [sg] with ready := true }, cl 2 true []] }), 3, 1, { cl 1 true [sg] with ready := true }, by decide +kernel⟩⟩

/-- The hypotheses of `Obligations.ReceivedIngots`, clause by clause, are met together. -/
theorem witness_ReceivedIngots :
    (∃ (s : State) (n : Nat) (k : Nat) (r : PanReq) (f : Frame), ((s.chip.turnOf fun r => decide (r.kind = ReqKind.opening) &&
      decide (r.subject = n)) = some (k, r)) ∧ s.chip.frame n = some f ∧ f.isIngot = true ∧ s.chip.openBefore n f = false ∧
      f.stage = FStage.opening ∧ f.hostWaits = [] ∧ f.icvOk = true ∧ s.chip.saHandle (f.sa.getD 0) = (f.early.getD { }).handle ∧
      (s.chip.sa (f.sa.getD 0)).accepts f.pn = true ∧ isDross f.plain = true) ∧
    (∃ (s : State) (n : Nat) (k : Nat) (r : PanReq) (f : Frame), ((s.chip.turnOf fun r => decide (r.kind = ReqKind.opening) &&
      decide (r.subject = n)) = some (k, r)) ∧ s.chip.frame n = some f ∧ f.isIngot = true ∧ s.chip.openBefore n f = false ∧
      f.stage = FStage.opening ∧ f.hostWaits = [] ∧ f.icvOk = false) :=
  ⟨⟨(wv (fi true (dat 8 ++ List.replicate 40 0))), 7, 2, rv, (fi true (dat 8 ++ List.replicate 40 0)), by decide +kernel⟩,
   ⟨(wv (fi false (dat 8 ++ List.replicate 40 0))), 7, 2, rv, (fi false (dat 8 ++ List.replicate 40 0)), by decide +kernel⟩⟩

end W21

namespace W22

def ky : DWord := 0x1005AABBCCDDEEFF
def k2 : DWord := 0x2005AABBCCDDEEFF
def en (st : Bool := false) : FwdEntry := { key := ky, dest := 9, learnSrc := 5, static := st, hit := true, limited := true }
def ln : Learn := { key := ky, dest := 17, port := 5 }
def wl (f : Chip → Chip) (l : Learn := ln) := on fun c => f ((c.setF F.FWD_PORT_CFG_limited [5] 1).modFwd fun t => { t with learns := [l, { key := k2, dest := 1, port := 2 }] })
def rest : List Learn := [{ key := k2, dest := 1, port := 2 }]
def S0 := fwdSlot 0 ky
def put (e : FwdEntry) (c : Chip) := (c.setFwd S0 (some e)).fwdCount 1
def wr (e : FwdEntry) := on fun c => (put e (c.setF F.FWD_AGE_CFG_en [] 1)).modFwd fun t => { t with rake := S0 }
def wsp (p : RakePass) (n : Nat) := on fun c => (put en c).modFwd fun t => { t with special := some (p, n, 9) }
def wso (p : RakePass) (n : Nat) : State := { wsp p n with chip := (wsp p n).chip.modOrd fun o => { o with wait := .rake } }
def ws (l : List Staged) (f : Chip → Chip := id) := on fun c => f (c.modOrd fun o => { o with staged := l })

theorem fwd_at {c : Chip} {e : FwdEntry} (h : c.fwd.table = [(S0, some e)]) : c.fwd? S0 = some e := by
  simp [Chip.fwd?, h, SMap.get_cons]

theorem fwd_find {c : Chip} {e : FwdEntry} (h : c.fwd.table = [(S0, some e)]) (hk : e.key = ky) : c.fwdFind ky = some S0 := by
  have h0 := fwd_at h
  simp only [S0] at h0 ⊢
  simp [Chip.fwdFind, fwdSlots, List.range, List.range.loop, h0, hk]

theorem fwd_free {c : Chip} (h : c.fwd.table = []) : c.fwdFree ky 4 = some S0 := by
  have hb : fwdSlot 0 ky / 65536 = 0 := by simp only [fwdSlot]; omega
  simp [Chip.fwdFree, fwdSlots, List.range, List.range.loop, Chip.fwd?, h, hb, S0]

theorem fwd_install {c : Chip} {e : FwdEntry} {d : Word} (h : c.fwd.table = [(S0, some e)]) (hk : e.key = ky) :
    (c.fwdInstall ky d true).isSome = true := by
  simp [Chip.fwdInstall, fwd_find h hk]

/-- The hypotheses of `Obligations.ForwardingTable`, clause by clause, are met together. -/
theorem witness_ForwardingTable :
    (∃ (s : State) (l : Learn) (rest : List Learn), s.chip.fwd.learns = l :: rest ∧ s.chip.fwd.special.isSome = true) ∧
    (∃ (s : State) (l : Learn) (rest : List Learn) (i : Nat), s.chip.fwd.learns = l :: rest ∧ s.chip.inMode [Mode.active] = true
      ∧ s.chip.fwd.special = none ∧ (∀ k ∈ fwdSlots l.key, SMap.get (fun x => 0) s.chip.fwd.bad k = 0) ∧ s.chip.fwdFind l.key =
      none ∧ s.chip.atLimit l.port = false ∧ s.chip.fwdFree l.key 4 = some i ∧ s.chip.getF F.FWD_COUNT_valid [] + 1 < 2 ^ 19) ∧
    (∃ (s : State) (l : Learn) (rest : List Learn), s.chip.fwd.learns = l :: rest ∧ s.chip.inMode [Mode.active] = true ∧
      s.chip.fwd.special = none ∧ (∀ k ∈ fwdSlots l.key, SMap.get (fun x => 0) s.chip.fwd.bad k = 0) ∧ s.chip.fwdFind l.key =
      none ∧ s.chip.atLimit l.port = true) ∧
    (∃ (s : State) (l : Learn) (rest : List Learn) (i : Nat) (e : FwdEntry), s.chip.fwd.learns = l :: rest ∧ s.chip.inMode
      [Mode.active] = true ∧ s.chip.fwd.special = none ∧ (∀ k ∈ fwdSlots l.key, SMap.get (fun x => 0) s.chip.fwd.bad k = 0) ∧
      s.chip.fwdFind l.key = some i ∧ s.chip.fwd? i = some e ∧ e.static = true) ∧
    (∃ (s : State) (l : Learn) (rest : List Learn) (i : Nat) (e : FwdEntry), s.chip.fwd.learns = l :: rest ∧ s.chip.inMode
      [Mode.active] = true ∧ s.chip.fwd.special = none ∧ (∀ k ∈ fwdSlots l.key, SMap.get (fun x => 0) s.chip.fwd.bad k = 0) ∧
      s.chip.fwdFind l.key = some i ∧ s.chip.fwd? i = some e ∧ e.static = false ∧ e.dest = l.dest) ∧
    (∃ (s : State) (l : Learn) (rest : List Learn) (i : Nat) (e : FwdEntry), s.chip.fwd.learns = l :: rest ∧ s.chip.inMode
      [Mode.active] = true ∧ s.chip.fwd.special = none ∧ (∀ k ∈ fwdSlots l.key, SMap.get (fun x => 0) s.chip.fwd.bad k = 0) ∧
      s.chip.fwdFind l.key = some i ∧ s.chip.fwd? i = some e ∧ e.static = false ∧ e.dest ≠ l.dest ∧ s.chip.frozen e = true) ∧
    (∃ (s : State) (l : Learn) (rest : List Learn) (i : Nat) (e : FwdEntry), s.chip.fwd.learns = l :: rest ∧ s.chip.inMode
      [Mode.active] = true ∧ s.chip.fwd.special = none ∧ (∀ k ∈ fwdSlots l.key, SMap.get (fun x => 0) s.chip.fwd.bad k = 0) ∧
      s.chip.fwdFind l.key = some i ∧ s.chip.fwd? i = some e ∧ e.static = false ∧ e.dest ≠ l.dest ∧ s.chip.frozen e = false ∧
      e.flapping = false ∧ l.port = e.learnSrc ∧ e.winStart + 1000000 ≤ s.chip.nowUs ∧ 1 ≤ s.chip.getF F.FWD_CFG_move_damp []) ∧
    (∃ (s : State) (e : FwdEntry), s.chip.inMode [Mode.active] = true ∧ s.chip.getB F.FWD_AGE_CFG_en [] = true ∧
      s.chip.fwd.special = none ∧ s.chip.fwd? s.chip.fwd.rake = some e ∧ (SMap.get (fun x => 0) s.chip.fwd.bad s.chip.fwd.rake =
      0) ∧ e.static = true) ∧
    (∃ (s : State) (e : FwdEntry), s.chip.inMode [Mode.active] = true ∧ s.chip.getB F.FWD_AGE_CFG_en [] = true ∧
      s.chip.fwd.special = none ∧ s.chip.fwd? s.chip.fwd.rake = some e ∧ (SMap.get (fun x => 0) s.chip.fwd.bad s.chip.fwd.rake =
      0) ∧ e.static = false ∧ e.flapping = false ∧ e.hit = true) ∧
    (∃ (s : State) (e : FwdEntry), s.chip.inMode [Mode.active] = true ∧ s.chip.getB F.FWD_AGE_CFG_en [] = true ∧
      s.chip.fwd.special = none ∧ s.chip.fwd? s.chip.fwd.rake = some e ∧ (SMap.get (fun x => 0) s.chip.fwd.bad s.chip.fwd.rake =
      0) ∧ e.static = false ∧ e.flapping = false ∧ e.hit = false ∧ e.idle = false) ∧
    (∃ (s : State) (e : FwdEntry), s.chip.inMode [Mode.active] = true ∧ s.chip.getB F.FWD_AGE_CFG_en [] = true ∧
      s.chip.fwd.special = none ∧ s.chip.fwd? s.chip.fwd.rake = some e ∧ (SMap.get (fun x => 0) s.chip.fwd.bad s.chip.fwd.rake =
      0) ∧ e.static = false ∧ e.flapping = false ∧ e.hit = false ∧ e.idle = true ∧ s.chip.getF F.FWD_COUNT_valid [] < 2 ^ 19) ∧
    (∃ (s : State) (e : FwdEntry) (bad0 : BitVec 4), s.chip.inMode [Mode.active] = true ∧ s.chip.getB F.FWD_AGE_CFG_en [] = true
      ∧ s.chip.fwd.special = none ∧ s.chip.fwd? s.chip.fwd.rake = some e ∧ (SMap.get (fun x => 0) s.chip.fwd.bad s.chip.fwd.rake
      ||| bad0 ≠ 0) ∧ s.chip.logs) ∧
    (∃ (s : State) (start : Nat) (at' : Nat) (v : DWord) (m : DWord) (st : Bool), (SMap.wf (fun _ => none) s.chip.fwd.table =
      true) ∧ s.chip.running = true ∧ s.chip.fwd.special = some (RakePass.flush v m st, at', start)) ∧
    (∃ (s : State) (start : Nat) (at' : Nat), (SMap.wf (fun _ => none) s.chip.fwd.table = true) ∧ s.chip.running = true ∧
      s.chip.fwd.special = some (RakePass.recount, at', start)) ∧
    (∃ (s : State) (key : DWord) (dest : Word) (static : Word), s.chip.orderFree ∧ s.chip.inMode [Mode.provision, Mode.active,
      Mode.maintenance] = true ∧ s.chip.stagedCount < 64 ∧ destOk (BitVec.toNat dest) = true ∧ BitVec.toNat static ≤ 1 ∧
      (s.chip.fwdInstall key dest true).isSome = true) ∧
    (∃ (s : State) (i : Nat) (key : DWord), s.chip.orderFree ∧ s.chip.inMode [Mode.provision, Mode.active, Mode.maintenance] =
      true ∧ s.chip.stagedCount < 64 ∧ s.chip.fwdFind key = some i) ∧
    (∃ (s : State) (i : Nat) (key : DWord) (dest : Word) (st : Bool), s.chip.orderFree ∧ s.chip.inMode [Mode.provision,
      Mode.active, Mode.maintenance] = true ∧ s.chip.ord.staged = [Staged.fwdAdd key dest st] ∧ s.chip.ord.regWrites = [] ∧
      s.chip.ord.heldFill = false ∧ s.chip.fwdFind key = none ∧ s.chip.fwdFree key 4 = some i) ∧
    (∃ (s : State) (i : Nat) (key : DWord), s.chip.orderFree ∧ s.chip.inMode [Mode.provision, Mode.active, Mode.maintenance] =
      true ∧ s.chip.ord.staged = [Staged.fwdDel key] ∧ s.chip.ord.regWrites = [] ∧ s.chip.ord.heldFill = false ∧ s.chip.fwdFind
      key = some i) ∧
    (∃ (s : State) (value : DWord) (mask : DWord) (static : Word), s.chip.orderFree ∧ s.chip.inMode [Mode.provision,
      Mode.active, Mode.maintenance] = true ∧ bits (BitVec.toNat value) 31 22 = 0 ∧ bits (BitVec.toNat mask) 31 22 = 0 ∧
      BitVec.toNat static ≤ 1) ∧
    (∃ (s : State), s.chip.orderFree ∧ s.chip.inMode [Mode.active, Mode.maintenance] = true) ∧
    (∃ (s : State) (i : Nat) (e : FwdEntry) (key : DWord), s.chip.orderFree ∧ s.chip.dmaAllowed 0 = true ∧ s.chip.inMode
      [Mode.sealed, Mode.provision, Mode.active, Mode.standby, Mode.drain, Mode.rest, Mode.maintenance, Mode.lockdown] = true ∧
      s.chip.fwdFind key = some i ∧ s.chip.fwd? i = some e) ∧
    (∃ (s : State) (key : DWord), s.chip.orderFree ∧ s.chip.dmaAllowed 0 = true ∧ s.chip.inMode [Mode.sealed, Mode.provision,
      Mode.active, Mode.standby, Mode.drain, Mode.rest, Mode.maintenance, Mode.lockdown] = true ∧ s.chip.fwdFind key = none) :=
  ⟨⟨(wl fun c => c.modFwd fun t => { t with special := some (.recount, 8, 0) }), ln, rest, by and_intros <;> first | decide +kernel | exact fwd_at rfl | exact fwd_find rfl rfl | exact fwd_free rfl | exact fwd_install rfl rfl⟩,
   ⟨(wl fun c => (c.setF F.FWD_PORT_CFG_limited [5] 0)), ln, rest, S0, by and_intros <;> first | decide +kernel | exact fwd_at rfl | exact fwd_find rfl rfl | exact fwd_free rfl | exact fwd_install rfl rfl⟩,
   ⟨(wl fun c => (c.setF F.FWD_PORT_CFG_limit [5] 2).setF F.FWD_PORT_CNT_count [5] 2), ln, rest, by and_intros <;> first | decide +kernel | exact fwd_at rfl | exact fwd_find rfl rfl | exact fwd_free rfl | exact fwd_install rfl rfl⟩,
   ⟨(wl (put (en true))), ln, rest, S0, (en true), by and_intros <;> first | decide +kernel | exact fwd_at rfl | exact fwd_find rfl rfl | exact fwd_free rfl | exact fwd_install rfl rfl⟩,
   ⟨(wl (put { en with idle := true }) { ln with dest := 9 }), { ln with dest := 9 }, rest, S0, { en with idle := true }, by and_intros <;> first | decide +kernel | exact fwd_at rfl | exact fwd_find rfl rfl | exact fwd_free rfl | exact fwd_install rfl rfl⟩,
   ⟨(wl (put { en with flapping := true })), ln, rest, S0, { en with flapping := true }, by and_intros <;> first | decide +kernel | exact fwd_at rfl | exact fwd_find rfl rfl | exact fwd_free rfl | exact fwd_install rfl rfl⟩,
   ⟨(wl fun c => { put { en with moves := 7, idle := true } c with tim := { c.tim with elapsed := 1000000000 } }), ln, rest, S0, { en with moves := 7, idle := true }, by and_intros <;> first | decide +kernel | exact fwd_at rfl | exact fwd_find rfl rfl | exact fwd_free rfl | exact fwd_install rfl rfl⟩,
   ⟨(wr (en true)), (en true), by and_intros <;> first | decide +kernel | exact fwd_at rfl | exact fwd_find rfl rfl | exact fwd_free rfl | exact fwd_install rfl rfl⟩,
   ⟨(wr en), en, by and_intros <;> first | decide +kernel | exact fwd_at rfl | exact fwd_find rfl rfl | exact fwd_free rfl | exact fwd_install rfl rfl⟩,
   ⟨(wr { en with hit := false }), { en with hit := false }, by and_intros <;> first | decide +kernel | exact fwd_at rfl | exact fwd_find rfl rfl | exact fwd_free rfl | exact fwd_install rfl rfl⟩,
   ⟨(wr { en with hit := false, idle := true }), { en with hit := false, idle := true }, by and_intros <;> first | decide +kernel | exact fwd_at rfl | exact fwd_find rfl rfl | exact fwd_free rfl | exact fwd_install rfl rfl⟩,
   ⟨(wr en), en, 2, by and_intros <;> first | decide +kernel | (unfold Chip.logs; decide +kernel) | exact fwd_at rfl | exact fwd_find rfl rfl | exact fwd_free rfl | exact fwd_install rfl rfl⟩,
   ⟨(wsp (.flush 5 1 false) 262136), 9, 262136, 5, 1, false, by and_intros <;> first | decide +kernel | exact fwd_at rfl | exact fwd_find rfl rfl | exact fwd_free rfl | exact fwd_install rfl rfl⟩,
   ⟨(wso .recount 8), 9, 8, by and_intros <;> first | decide +kernel | exact fwd_at rfl | exact fwd_find rfl rfl | exact fwd_free rfl | exact fwd_install rfl rfl⟩,
   ⟨(on (put en)), ky, 0x3FFFA, 0, by and_intros <;> first | decide +kernel | (unfold Chip.orderFree; decide +kernel) | exact fwd_at rfl | exact fwd_find rfl rfl | exact fwd_free rfl | exact fwd_install rfl rfl⟩,
   ⟨(on (put en)), S0, ky, by and_intros <;> first | decide +kernel | (unfold Chip.orderFree; decide +kernel) | exact fwd_at rfl | exact fwd_find rfl rfl | exact fwd_free rfl | exact fwd_install rfl rfl⟩,
   ⟨(ws [.fwdAdd ky 9 false]), S0, ky, 9, false, by and_intros <;> first | decide +kernel | (unfold Chip.orderFree; decide +kernel) | exact fwd_at rfl | exact fwd_find rfl rfl | exact fwd_free rfl | exact fwd_install rfl rfl⟩,
   ⟨(ws [.fwdDel ky] (put en)), S0, ky, by and_intros <;> first | decide +kernel | (unfold Chip.orderFree; decide +kernel) | exact fwd_at rfl | exact fwd_find rfl rfl | exact fwd_free rfl | exact fwd_install rfl rfl⟩,
   ⟨(on (put (en true))), 0, 0, 1, by and_intros <;> first | decide +kernel | (unfold Chip.orderFree; decide +kernel) | exact fwd_at rfl | exact fwd_find rfl rfl | exact fwd_free rfl | exact fwd_install rfl rfl⟩,
   ⟨(on (put en)), by and_intros <;> first | decide +kernel | (unfold Chip.orderFree; decide +kernel) | exact fwd_at rfl | exact fwd_find rfl rfl | exact fwd_free rfl | exact fwd_install rfl rfl⟩,
   ⟨(on (put en)), S0, en, ky, by and_intros <;> first | decide +kernel | (unfold Chip.orderFree; decide +kernel) | exact fwd_at rfl | exact fwd_find rfl rfl | exact fwd_free rfl | exact fwd_install rfl rfl⟩,
   ⟨(on id), ky, by and_intros <;> first | decide +kernel | (unfold Chip.orderFree; decide +kernel) | exact fwd_at rfl | exact fwd_find rfl rfl | exact fwd_free rfl | exact fwd_install rfl rfl⟩⟩

end W22

namespace W23

def wk (k : Nat) (st : Nat) (f : Chip → Chip := id) := on fun c => f (c.setKid k st (some { enc := 1, tag := 2 }))
def wm := wk 3 1 fun c => c.modBuf fun b => ({ b with cache := [⟨nodeKey 0 5, [(1, 127), (2, 9), (64, 4)], true⟩] } : Buffer).sealLine 3 321 (List.replicate 64 7)
def wmb := on fun c => c.modBuf fun b => { b with nodes := [(nodeKey 0 5, some { ctr := [(1, 127)], mac := 0, check := 0 })], cache := [⟨nodeKey 1 0, [], false⟩], badUpper := [(nodeKey 1 0, some [])] }

theorem kid_small (j : Nat) : (wk 0 1).chip.kidState j < 8 := by
  have h : (wk 0 1).chip.buf.states = [(0, 1)] := by decide +kernel
  simp only [Chip.kidState, h, SMap.get_cons, SMap.get_nil]
  split <;> omega

/-- The first reading of a leaf whose parent alone is cached: it verifies, and is cached, or fails. -/
theorem fetch_one {b : Buffer} {x : CacheNode} (h : b.cache = [x]) (hx : x.key = nodeKey 1 0) :
    Buffer.fetch 5 5 b = (some (0, 5), b) ∨ ∃ y, Buffer.fetch 5 5 b = (none, y) ∧ ∀ k j, y.ctr k j = b.ctr k j := by
  have f4 : Buffer.fetch 4 0 b = (none, b) := by
    cases b; simp_all [Buffer.fetch]
  have hn : b.cache.find? (·.key = nodeKey 0 5) = none := by simp [h, hx, nodeKey]
  generalize hg : (match SMap.get (fun _ => none) b.nodes (nodeKey 0 5) with
    | some x => x.mac = b.mac 5 5 x.ctr && x.check = Config.nodeCheck (nodeWords 5 x.ctr)
    | none => true) = good
  have e : Buffer.fetch 5 5 b =
      if good = true then (none, Buffer.evict { b with cache := ⟨nodeKey 0 5, b.counters (nodeKey 0 5), false⟩ :: b.cache })
      else (some (0, 5), b) := by
    unfold Buffer.fetch
    simp only [Nat.reduceSub, Nat.reduceAdd, Nat.reduceLeDiff, ↓reduceIte, hn, Nat.reduceDiv, f4]
    subst hg
    rfl
  cases good
  · exact .inl (by simp [e])
  · refine .inr ⟨_, by rw [e]; rfl, fun k j => ?_⟩
    have low : ∀ y : CacheNode, ({ b with cache := [y, x] } : Buffer).low.length ≤ 32736 - 16060 := fun y =>
      Nat.le_trans (List.length_filter_le _ _) (by simp)
    rw [h, Buffer.evict, if_pos (low _)]
    unfold Buffer.ctr Buffer.counters Buffer.held
    by_cases hk : nodeKey 0 5 = k
    · subst hk; simp [h, hx, nodeKey]
    · simp [hk, h]

theorem touch_zero {c : Chip} {x y : CacheNode} (h1 : (c.leafTake 5).buf.cache = [x]) (hx : x.key = nodeKey 1 0)
    (h2 : (((c.leafTake 5).nodeBad 0 5).leafTake 5).buf.cache = [y]) (hy : y.key = nodeKey 1 0)
    {v w : Nat} (z1 : (c.leafTake 5).buf.counters (nodeKey 0 5) = SMap.set (fun _ => 0) [] 64 v)
    (z2 : (((c.leafTake 5).nodeBad 0 5).leafTake 5).buf.counters (nodeKey 0 5) = SMap.set (fun _ => 0) [] 64 w) (j : Fin 64) :
    (c.leafTouch 5).buf.ctr (nodeKey 0 5) j.val = 0 := by
  have zero : ∀ {b : Buffer} {v : Nat}, b.counters (nodeKey 0 5) = SMap.set (fun _ => 0) [] 64 v →
      b.ctr (nodeKey 0 5) j.val = 0 := fun h => by
    have l := j.isLt
    rw [Buffer.ctr, h, SMap.get_set_other (by omega)]
    rfl
  unfold Chip.leafTouch
  obtain e | ⟨u, e, r⟩ := fetch_one h1 hx
  · simp only [e]
    show (Buffer.fetch 5 5 (((c.leafTake 5).nodeBad 0 5).leafTake 5).buf).2.ctr (nodeKey 0 5) j.val = 0
    obtain e' | ⟨v, e', r'⟩ := fetch_one h2 hy
    · rw [e']; exact zero z2
    · rw [e']; exact (r' _ _).trans (zero z2)
  · simp only [e]; exact (r _ _).trans (zero z1)

theorem wmb_zero (j : Fin 64) : (wmb.chip.leafTouch 5).buf.ctr (nodeKey 0 5) j.val = 0 :=
  touch_zero (x := ⟨nodeKey 1 0, [(5, 1)], true⟩) (y := ⟨nodeKey 1 0, [(5, 2)], true⟩) (by decide +kernel) rfl
    (by decide +kernel) rfl rfl rfl j

theorem wmb_not : ¬∃ j : Fin 64, (wmb.chip.leafTouch 5).buf.ctr (nodeKey 0 5) j.val = 127 := fun ⟨j, h⟩ => by
  rw [wmb_zero] at h; cases h

/-- The hypotheses of `Obligations.BufferKeyIds`, clause by clause, are met together. -/
theorem witness_BufferKeyIds :
    (∃ (s : State), s.chip.getB F.ENT_STAT_ready [] = true ∧ s.chip.getB F.MEM_STAT_no_keys [] = true ∧ (∀ r ∈
      s.chip.ent.waiting, r.use ≠ RandUse.memKeysAll)) ∧
    (∃ (s : State) (k : Fin 32), s.chip.kidState k.val = 2 ∧ s.chip.kidHeld k.val = false ∧ s.chip.logs) ∧
    (∃ (s : State) (k : Fin 32), s.chip.kidState k.val = 2 ∧ s.chip.kidHeld k.val = true) ∧
    (∃ (s : State) (kid : Word), s.chip.orderFree ∧ s.chip.inMode [Mode.provision, Mode.active, Mode.standby, Mode.maintenance]
      = true ∧ BitVec.toNat kid < 30 ∧ s.chip.kidState (BitVec.toNat kid) = 1 ∧ s.chip.getF F.MEM_FRAME_KID_kid [] ≠
      BitVec.toNat kid ∧ (∀ (f : Fin 66), s.chip.getF F.MEM_FUNC_KID_kid [f.val] ≠ BitVec.toNat kid)) ∧
    (∃ (s : State) (kid : Word), s.chip.orderFree ∧ s.chip.inMode [Mode.provision, Mode.active, Mode.standby, Mode.maintenance]
      = true ∧ BitVec.toNat kid < 30 ∧ s.chip.kidState (BitVec.toNat kid) = 1 ∧ s.chip.getF F.MEM_FRAME_KID_kid [] =
      BitVec.toNat kid) ∧
    (∃ (s : State) (kid : Word), s.chip.orderFree ∧ s.chip.inMode [Mode.provision, Mode.active, Mode.standby, Mode.maintenance]
      = true ∧ BitVec.toNat kid < 30 ∧ (s.chip.kidState (BitVec.toNat kid) = 2 ∨ s.chip.kidState (BitVec.toNat kid) = 3)) ∧
    (∃ (s : State) (kid : Word), s.chip.orderFree ∧ s.chip.inMode [Mode.provision, Mode.active, Mode.standby, Mode.maintenance]
      = true ∧ BitVec.toNat kid < 30 ∧ s.chip.kidState (BitVec.toNat kid) = 4 ∧ s.chip.entFailed = false) ∧
    (∃ (s : State) (kid : Word), s.chip.orderFree ∧ s.chip.inMode [Mode.provision, Mode.active, Mode.standby, Mode.maintenance]
      = true ∧ BitVec.toNat kid < 30 ∧ s.chip.kidState (BitVec.toNat kid) = 4 ∧ s.chip.entFailed = true) ∧
    (∃ (s : State), s.chip.orderFree ∧ s.chip.inMode [Mode.erased, Mode.sealed, Mode.provision, Mode.active, Mode.standby,
      Mode.drain, Mode.rest, Mode.maintenance, Mode.lockdown] = true ∧ (∀ (j : Nat), s.chip.kidState j < 8)) ∧
    (∃ (s : State) (leaf : Fin 7208960), (¬∃ j : Fin 64, s.chip.buf.ctr (nodeKey 0 leaf.val) j.val = 127)) ∧
    (∃ (s : State) (leaf : Fin 7208960), (∃ j : Fin 64, s.chip.buf.ctr (nodeKey 0 leaf.val) j.val = 127) ∧ (¬∃ j : Fin 64,
      (s.chip.leafTouch leaf.val).buf.ctr (nodeKey 0 leaf.val) j.val = 127)) ∧
    (∃ (s : State) (leaf : Fin 7208960), (∃ j : Fin 64, s.chip.buf.ctr (nodeKey 0 leaf.val) j.val = 127) ∧ (∃ j : Fin 64,
      (s.chip.leafTouch leaf.val).buf.ctr (nodeKey 0 leaf.val) j.val = 127)) :=
  ⟨⟨(on fun c => (c.setF F.ENT_STAT_ready [] 1)), by decide +kernel⟩,
   ⟨(wk 31 2), 31, by unfold Chip.logs; decide +kernel⟩,
   ⟨(wk 3 2 fun c => c.setFrame 4 (some { kid := some 3 })), 3, by decide +kernel⟩,
   ⟨(wk 29 1), 29, by unfold Chip.orderFree; decide +kernel⟩,
   ⟨(wk 1 1 fun c => c.setF F.MEM_FRAME_KID_kid [] 1), 1, by unfold Chip.orderFree; decide +kernel⟩,
   ⟨(wk 29 3), 29, by unfold Chip.orderFree; decide +kernel⟩,
   ⟨(wk 29 4), 29, by unfold Chip.orderFree; decide +kernel⟩,
   ⟨(wk 29 4 fun c => c.setF F.ENT_STAT_failed [] 1), 29, by unfold Chip.orderFree; decide +kernel⟩,
   ⟨(wk 0 1), by and_intros <;> first | decide +kernel | (unfold Chip.orderFree; decide +kernel) | exact kid_small⟩,
   ⟨(on id), 7208959, by decide +kernel⟩,
   ⟨wmb, 5, by exact ⟨by decide +kernel, wmb_not⟩⟩,
   ⟨wm, 5, by decide +kernel⟩⟩

end W23

namespace W24

def hdr (eng flags id entry budget entries codeLen tableLen : Nat) : Bytes := leBytes 4 0x594C494D ++ leBytes 2 1 ++ leBytes 1 eng ++ leBytes 1 flags ++ leBytes 4 id ++ leBytes 4 2 ++ leBytes 4 entry ++ leBytes 2 budget ++ leBytes 2 entries ++ leBytes 4 codeLen ++ leBytes 4 tableLen ++ ([4] ++ List.replicate 96 1) ++ List.replicate 63 0 ++ List.replicate 96 2
def im0 : Bytes := hdr 0 0 7 4 100 0 16 8 ++ List.replicate 24 3
def im2 : Bytes := hdr 2 0 7 0 0 2 16 0 ++ leBytes 4 4 ++ leBytes 4 8 ++ List.replicate 16 3
def wt (t : Nat) (x : ImgTarget) (f : Chip → Chip := id) := on fun c => f ((c.setTarget t x))
def stg (t : Nat) (c : Chip) := c.modOrd fun o => { o with staged := [.imgActivate t] }
def wk (j : Fin 2) := run (.ksq j) []
def wkn (j : Fin 2) : State := let s := wk j; { s with chip := s.chip.setEctx (.ksq j) { s.chip.ectx (.ksq j) with halted := true } }

/-- The hypotheses of `Obligations.ImagesAndProgramErrors`, clause by clause, are met together. -/
theorem witness_ImagesAndProgramErrors :
    (∃ (s : State) (target : Word) (len : Word) (image : Bytes), s.chip.orderFree ∧ BitVec.toNat target ≤ 9 ∧ s.chip.dmaAllowed
      0 = true ∧ s.chip.imgMode (BitVec.toNat target) false = true ∧ s.chip.logs ∧ (imgHead (slice image 0 (BitVec.toNat
      len))).good (BitVec.toNat target) (slice image 0 (BitVec.toNat len)) = true ∧ s.chip.imgMode (BitVec.toNat target) (decide
      ((imgHead (slice image 0 (BitVec.toNat len))).flags = 1)) = true ∧ (imgHead (slice image 0 (BitVec.toNat len))).fits
      (BitVec.toNat target) (List.length (slice image 0 (BitVec.toNat len))) = true ∧ (s.chip.target (BitVec.toNat
      target)).oldBusy = false) ∧
    (∃ (s : State) (target : Word) (len : Word) (image : Bytes), s.chip.orderFree ∧ BitVec.toNat target ≤ 9 ∧ s.chip.dmaAllowed
      0 = true ∧ s.chip.imgMode (BitVec.toNat target) false = true ∧ s.chip.logs ∧ (imgHead (slice image 0 (BitVec.toNat
      len))).good (BitVec.toNat target) (slice image 0 (BitVec.toNat len)) = false ∧ (s.chip.target (BitVec.toNat
      target)).oldBusy = false) ∧
    (∃ (s : State) (target : Word) (i : Image), s.chip.orderFree ∧ BitVec.toNat target ≤ 9 ∧ s.chip.imgMode (BitVec.toNat
      target) i.large = true ∧ s.chip.imgMode (BitVec.toNat target) false = true ∧ (s.chip.target (BitVec.toNat target)).oldBusy
      = false ∧ (s.chip.target (BitVec.toNat target)).pending = some i ∧ s.chip.stagedCount < 64) ∧
    (∃ (s : State) (target : Word) (i : Image), s.chip.orderFree ∧ BitVec.toNat target ≤ 9 ∧ s.chip.imgMode (BitVec.toNat
      target) i.large = true ∧ s.chip.imgMode (BitVec.toNat target) false = true ∧ (s.chip.target (BitVec.toNat target)).pending
      = none) ∧
    (∃ (s : State) (target : Word) (i : Image), s.chip.orderFree ∧ BitVec.toNat target ≤ 9 ∧ s.chip.imgMode (BitVec.toNat
      target) i.large = true ∧ s.chip.imgMode (BitVec.toNat target) false = true ∧ s.chip.ord.staged = [Staged.imgActivate
      (BitVec.toNat target)] ∧ s.chip.ord.regWrites = [] ∧ s.chip.ord.heldFill = false ∧ (s.chip.target (BitVec.toNat
      target)).oldBusy = false ∧ (s.chip.target (BitVec.toNat target)).pending = some i ∧ s.chip.targetRuns (BitVec.toNat
      target) = []) ∧
    (∃ (s : State) (target : Word) (i : Image), s.chip.orderFree ∧ BitVec.toNat target ≤ 9 ∧ s.chip.imgMode (BitVec.toNat
      target) i.large = true ∧ s.chip.imgMode (BitVec.toNat target) false = true ∧ s.chip.ord.staged = [Staged.imgActivate
      (BitVec.toNat target)] ∧ s.chip.ord.regWrites = [] ∧ s.chip.ord.heldFill = false ∧ (s.chip.target (BitVec.toNat
      target)).oldBusy = false ∧ (s.chip.target (BitVec.toNat target)).pending = some i ∧ s.chip.targetRuns (BitVec.toNat
      target) ≠ [] ∧ i.large = true) ∧
    (∃ (s : State) (target : Word) (i : Image), s.chip.orderFree ∧ BitVec.toNat target ≤ 9 ∧ s.chip.imgMode (BitVec.toNat
      target) i.large = true ∧ s.chip.imgMode (BitVec.toNat target) false = true ∧ s.chip.ord.staged = [Staged.imgActivate
      (BitVec.toNat target)] ∧ s.chip.ord.regWrites = [] ∧ s.chip.ord.heldFill = false ∧ (s.chip.target (BitVec.toNat
      target)).oldBusy = false ∧ (s.chip.target (BitVec.toNat target)).pending = some i ∧ s.chip.targetRuns (BitVec.toNat
      target) ≠ [] ∧ i.large = false ∧ (s.chip.target (BitVec.toNat target)).active.isSome = true) ∧
    (∃ (s : State) (q : Fin 12), (s.chip.target q.val).oldBusy = true ∧ s.chip.targetRuns q.val = [] ∧ s.chip.logs) ∧
    (∃ (s : State) (j : Fin 2), s.chip.running = true ∧ s.chip.ready (Eng.ksq j) = true ∧ (s.chip.faultChan 6 j.val).times = []
      ∧ (s.chip.faultChan 6 j.val).retired = false ∧ 1 ≤ s.chip.getF F.FLT_CFG_perm_rate [] ∧ (s.chip.faultClass 6).current =
      none) ∧
    (∃ (s : State) (j : Fin 2), s.chip.running = true ∧ (s.chip.ectx (Eng.ksq j)).running = true ∧ s.chip.ready (Eng.ksq j) =
      false) ∧
    (∃ (s : State), s.chip.inMode [Mode.vigil] = true ∧ s.chip.filt 0 = true) :=
  ⟨⟨(on id), 8, 312, im2, by unfold Chip.logs Chip.orderFree; decide +kernel⟩,
   ⟨(on fun c => c.setTarget 9 { pending := some img } |>.inM .provision), 9, 312, im0, by unfold Chip.logs Chip.orderFree; decide +kernel⟩,
   ⟨(wt 2 { pending := some img }), 2, img, by unfold Chip.orderFree; decide +kernel⟩,
   ⟨(wt 2 { active := some img }), 2, img, by unfold Chip.orderFree; decide +kernel⟩,
   ⟨(wt 2 { pending := some img } (stg 2)), 2, img, by unfold Chip.orderFree; decide +kernel⟩,
   ⟨(wt 2 { active := some img, pending := some { img with id := 5, large := true } } fun c => (stg 2 (c.inM .maintenance)).setEctxAt (2*256 + 3) { running := true }), 2, { img with id := 5, large := true }, by unfold Chip.orderFree; decide +kernel⟩,
   ⟨(wt 2 { active := some img, pending := some { img with id := 5 } } fun c => (stg 2 c).setEctxAt (2*256 + 3) { running := true }), 2, { img with id := 5 }, by unfold Chip.orderFree; decide +kernel⟩,
   ⟨(wt 2 { active := some img, pending := some { img with id := 5 }, oldBusy := true }), 2, by unfold Chip.logs; decide +kernel⟩,
   ⟨(wk 0), 0, by decide +kernel⟩,
   ⟨(wkn 1), 1, by decide +kernel⟩,
   ⟨(on fun c => ({ c with vlt := { c.vlt with sealA := some 3 } }.inM .vigil).modPnl fun p => { p with inputs := [(0, { filt := true })] }), by decide +kernel⟩⟩

end W24

namespace W25

def wc (cl : Nat) (f : FaultChan) := on fun c => (c.setFaultClass cl { current := some 3, waiting := [3, 2, 4] }).setFaultChan cl 3 f
def wc1 (f : FaultChan) := on fun c => (c.setFaultClass 1 { current := some 67, waiting := [67, 66, 68] }).setFaultChan 1 67 f
def wcs (n : Nat) := on fun c => { c with flt := { c.flt with cause := n } }
def wcold := on fun c => { c with flt := { c.flt with coldRun := 1 } }
def wz := on fun c => { ((((c.setSlot 5 { state := 1, generation := 1, key := 7 }).setChan 3 {valid := true}).setSa 5 { state := 1, generation := 9 }).memSet 7 9) with vlt := { c.vlt with sealA := some 3 } }
def wtc := on fun c => { ((c.inM .provision).modCtl fun k => { k with auth := some { challenge := [], fromMode := modeCode .provision, toMode := modeCode .provision, flags := 4, ends := 100 } }) with flt := { c.flt with flags := 0xFF, cause := 4 } }

/-- The hypotheses of `Obligations.FaultHandling`, clause by clause, are met together. -/
theorem witness_FaultHandling :
    (∃ (s : State) (cls : Fin 10) (ch : BitVec 16), cls.val < 4 ∧ (classChannels cls.val).contains ch.toNat = true ∧
      (s.chip.faultChan cls.val ch.toNat).times = [] ∧ (s.chip.faultChan cls.val ch.toNat).retired = false ∧ 1 ≤ s.chip.getF
      F.FLT_CFG_perm_rate [] ∧ (s.chip.faultClass cls.val).current = none) ∧
    (∃ (s : State) (cls : Fin 10) (ch : BitVec 16) (h : Nat), cls.val < 4 ∧ (classChannels cls.val).contains ch.toNat = true ∧
      (s.chip.faultChan cls.val ch.toNat).times = [] ∧ (s.chip.faultChan cls.val ch.toNat).retired = false ∧ 1 ≤ s.chip.getF
      F.FLT_CFG_perm_rate [] ∧ (s.chip.faultClass cls.val).current = some h ∧ (2 ≤ cls.val ∨ h ≠ ch.toNat) ∧ (s.chip.faultClass
      cls.val).waiting.length < 4) ∧
    (∃ (s : State) (cls : Fin 10) (ch : BitVec 16), cls.val < 4 ∧ (classChannels cls.val).contains ch.toNat = true ∧
      (s.chip.faultChan cls.val ch.toNat).times = [] ∧ (s.chip.faultChan cls.val ch.toNat).retired = false ∧ 1 ≤ s.chip.getF
      F.FLT_CFG_perm_rate [] ∧ cls.val = 1 ∧ (s.chip.faultClass cls.val).current = some ch.toNat ∧ s.chip.ctl.zeroizing = none)
      ∧
    (∃ (s : State) (cls : Fin 10) (ch : BitVec 16), cls.val < 4 ∧ (classChannels cls.val).contains ch.toNat = true ∧
      (s.chip.faultChan cls.val ch.toNat).times = [] ∧ (s.chip.faultChan cls.val ch.toNat).retired = false ∧ s.chip.getF
      F.FLT_CFG_perm_rate [] = 0 ∧ cls.val = 1 ∧ s.chip.ctl.zeroizing = none) ∧
    (∃ (s : State) (cls : Fin 10) (n : Nat), (s.chip.faultClass cls.val).current = some n ∧ (s.chip.faultChan cls.val n).retired
      = false ∧ (s.chip.faultChan cls.val n).fails < 2) ∧
    (∃ (s : State) (cls : Fin 10) (n : Nat), (s.chip.faultClass cls.val).current = some n ∧ (s.chip.faultChan cls.val n).retired
      = false ∧ (s.chip.faultChan cls.val n).fails = 2 ∧ cls.val = 1 ∧ s.chip.ctl.zeroizing = none) ∧
    (∃ (index : BitVec 16) (t : Fin 4), (t.val = 2 ∨ t.val = 3) ∧ (index.toNat < 32768 ∨ t.val = 2 ∧ isQueue index.toNat =
      true)) ∧
    (∃ (s : State) (index : BitVec 16), (s.chip.sa index.toNat).state = 1 ∧ (s.chip.sa index.toNat).dir = false) ∧
    (∃ (s : State), s.chip.flt.iicTimes = [] ∧ 1 ≤ s.chip.getF F.FLT_CFG_iic_lim [] ∧ (s.chip.faultChan 8 0).times = [] ∧
      (s.chip.faultChan 8 0).retired = false ∧ 1 ≤ s.chip.getF F.FLT_CFG_perm_rate [] ∧ (s.chip.faultClass 8).current = none) :=
  ⟨⟨(on id), 2, 23, by decide +kernel⟩,
   ⟨(on fun c => c.setFaultClass 1 { current := some 66, waiting := [64, 65, 67] }), 1, 69, 66, by decide +kernel⟩,
   ⟨(on fun c => c.setFaultClass 1 { current := some 69 }), 1, 69, by decide +kernel⟩,
   ⟨(on fun c => c.setF F.FLT_CFG_perm_rate [] 0), 1, 69, by decide +kernel⟩,
   ⟨(wc 1 { fails := 1 }), 1, 3, by decide +kernel⟩,
   ⟨(wc1 { fails := 2 }), 1, 67, by decide +kernel⟩,
   ⟨32767, 3, by decide +kernel⟩,
   ⟨(on fun c => c.setSa 9 { state := 1 }), 9, by decide +kernel⟩,
   ⟨(on fun c => c.modPan fun p => { p with reqs := [(2, some { kind := .laEnc, pan := 3, slot := 100, gen := 1, subject := 1, blocks := 3 })] }), by decide +kernel⟩⟩

/-- The hypotheses of `Obligations.AlarmsAndZeroization`, clause by clause, are met together. -/
theorem witness_AlarmsAndZeroization :
    (∃ (s : State) (src : Fin 14) (clk : MainClock), s.chip.causeSet src.val = false ∧ s.chip.powered = true ∧
      s.chip.ctl.zeroizing = none ∧ s.chip.logs ∧ (src = 11 → s.chip.ctl.mode = Mode.rest → clockInRest clk = true) ∧
      s.chip.alarmResp src.val = 0 ∧ s.chip.inMode [Mode.lockdown, Mode.erased] = false) ∧
    (∃ (s : State) (src : Fin 14) (clk : MainClock), s.chip.causeSet src.val = false ∧ s.chip.powered = true ∧
      s.chip.ctl.zeroizing = none ∧ s.chip.logs ∧ (src = 11 → s.chip.ctl.mode = Mode.rest → clockInRest clk = true) ∧
      s.chip.alarmResp src.val = 3 ∧ s.chip.inMode [Mode.sealed, Mode.provision, Mode.active, Mode.standby, Mode.drain,
      Mode.rest, Mode.maintenance] = true) ∧
    (∃ (s : State) (src : Fin 14) (clk : MainClock), s.chip.causeSet src.val = false ∧ s.chip.powered = true ∧
      s.chip.ctl.zeroizing = none ∧ s.chip.logs ∧ (src = 11 → s.chip.ctl.mode = Mode.rest → clockInRest clk = true) ∧
      s.chip.alarmResp src.val = 4) ∧
    (∃ (s : State) (src : Fin 14), s.chip.causeSet src.val = true) ∧
    (∃ (s : State), s.chip.inMode [Mode.off] = false ∧ s.chip.flt.coldRun = 0 ∧ s.chip.flt.hotRun = 0) ∧
    (∃ (s : State) (a : Byte) (b : Byte), s.chip.inMode [Mode.off] = false ∧ s.chip.flt.coldRun = 1 ∧ min (BitVec.toInt a)
      (BitVec.toInt b) < sbyte (s.chip.getF F.TMP_TEMP_CFG_lo [])) ∧
    (∃ (s : State) (trig : ZeroizeCause), s.chip.powered = true ∧ s.chip.ctl.zeroizing = none ∧ (trig = ZeroizeCause.alarm ∨
      trig = ZeroizeCause.button)) ∧
    (∃ (trig : ZeroizeCause), (trig = ZeroizeCause.transfer ∨ trig = ZeroizeCause.purge)) ∧
    (∃ (s : State) (cause : Nat) (from' : Nat), s.chip.ctl.zeroizing = some (cause, from') ∧ cause ≠ 6 ∧ s.chip.powered = true ∧
      s.chip.inMode [Mode.erased, Mode.wake] = false) ∧
    (∃ (s : State) (mask : Word) (note : Word), s.chip.orderFree ∧ s.chip.inMode [Mode.provision, Mode.maintenance] = true ∧
      BitVec.toNat note ≤ 1 ∧ s.chip.authHere 4 = true ∧ s.chip.logs ∧ mask &&& BitVec.ofNat 32 s.chip.flt.cause = 0) ∧
    (∃ (s : State) (mask : Word) (note : Word), s.chip.orderFree ∧ s.chip.inMode [Mode.provision, Mode.maintenance] = true ∧
      BitVec.toNat note ≤ 1 ∧ s.chip.authHere 4 = true ∧ s.chip.logs ∧ mask &&& BitVec.ofNat 32 s.chip.flt.cause ≠ 0) :=
  ⟨⟨(on fun c => c.setF F.TMP_RESP0_resp5 [] 0), 5, .core, by unfold Chip.logs; decide +kernel⟩,
   ⟨(on fun c => (c.setF F.TMP_RESP1_resp13 [] 3).inM .sealed), 13, .core, by unfold Chip.logs; decide +kernel⟩,
   ⟨(on fun c => (c.setF F.TMP_RESP0_resp0 [] 4).setSlot 5 { state := 1, generation := 1, key := 7 }), 0, .core, by unfold Chip.logs; decide +kernel⟩,
   ⟨(wcs 0x21), 5, by decide +kernel⟩,
   ⟨(on fun c => c.inM .vigil), by decide +kernel⟩,
   ⟨wcold, 0x90, 127, by decide +kernel⟩,
   ⟨wz, .button, by decide +kernel⟩,
   ⟨.purge, by decide +kernel⟩,
   ⟨(on fun c => c.modCtl fun k => { k with zeroizing := some (4, 0) }), 4, 0, by decide +kernel⟩,
   ⟨wtc, 3, 1, by unfold Chip.logs Chip.orderFree; decide +kernel⟩,
   ⟨wtc, 7, 1, by unfold Chip.logs Chip.orderFree; decide +kernel⟩⟩

end W25

namespace W26

def wi (n : Nat) (x : PanelIn) (f : Chip → Chip := id) := on fun c => f (c.setPanelIn n x)
def we (t : Nat) (f : Chip → Chip := id) := on fun c => f ((c.inM .erased).modPnl fun p => { p with pressedFor := some t })
def wp (f : Panel → Panel) := on fun c => c.modPnl f
def l6 : List Nat := [1,2,3,0,1,2]
def wps (n : Nat) := on fun c => ((c.inM .provision).modCtl fun k => { k with auth := some { fromMode := modeCode .provision, toMode := modeCode .provision, flags := n, ends := 100 } })
def wfl (f : Chip → Chip := id) (en : Nat := 1) := on fun c => f ((c.setPanelIn 6 {filt := true}).setF F.CRF_FILL_CFG_en [] en)
def wse (m : Mode) (f : Chip → Chip := id) := wfl fun c => f ((c.inM m).modPnl fun p => { p with session := true })

/-- The hypotheses of `Obligations.PanelInputsAndPin`, clause by clause, are met together. -/
theorem witness_PanelInputsAndPin :
    (∃ (s : State) (n : Fin 7), s.chip.powered = true ∧ s.chip.chattering n.val = false ∧ (s.chip.panelIn n.val).filt = false ∧
      n.val = 0) ∧
    (∃ (s : State) (n : Fin 7), s.chip.powered = true ∧ s.chip.chattering n.val = false ∧ (s.chip.panelIn n.val).filt = false ∧
      2 ≤ n.val ∧ n.val ≤ 5 ∧ s.chip.keypadOn = true) ∧
    (∃ (s : State) (n : Fin 7), s.chip.powered = true ∧ s.chip.chattering n.val = false ∧ (s.chip.panelIn n.val).filt = false ∧
      n.val = 1) ∧
    (∃ (s : State) (n : Fin 7), s.chip.powered = true ∧ s.chip.chattering n.val = true) ∧
    (∃ (s : State) (n : Fin 7), s.chip.powered = true ∧ s.chip.chattering n.val = false ∧ s.chip.logs) ∧
    (∃ (s : State) (n : Fin 7), (s.chip.panelIn n.val).chatter = true ∧ (s.chip.panelIn n.val).chatterEnds < 2 ^ 64) ∧
    (∃ (s : State) (n : Fin 7), s.chip.powered = true ∧ n.val ≠ 6 ∧ (s.chip.panelIn n.val).filt = true ∧ (s.chip.panelIn
      n.val).stuck = false ∧ (s.chip.panelIn n.val).since + s.chip.getF F.CRF_IN_CFG_stuck [] * 1000000000 < 2 ^ 64 ∧
      s.chip.logs) ∧
    (∃ (s : State) (e : Fin 4) (above : BitVec 16), s.chip.powered = true ∧ (s.chip.panelIn (2 + e.val)).raw ≠ decide
      (s.chip.getF F.CRF_TOUCH_CFG_thr [] < above.toNat) ∧ (s.chip.panelIn (2 + e.val)).changes = [] ∧ s.chip.chattering (2 +
      e.val) = false) ∧
    (∃ (s : State) (t : Nat), s.chip.powered = true ∧ s.chip.ctl.zeroizing = none ∧ s.chip.inMode [Mode.erased] = true ∧
      s.chip.pnl.pressedFor = some t ∧ t + 2000000000 < 2 ^ 64) ∧
    (∃ (s : State) (t : Nat), s.chip.powered = true ∧ s.chip.chattering 0 = false ∧ s.chip.filt 0 = true ∧ s.chip.pnl.pressedFor
      = some t ∧ s.chip.now ≤ t + 2000000000 ∧ s.chip.logs) ∧
    (∃ (s : State) (t : Nat), s.chip.powered = true ∧ s.chip.chattering 0 = false ∧ s.chip.filt 0 = true ∧ s.chip.pnl.pressedFor
      = some t ∧ t + 2000000000 < s.chip.now ∧ s.chip.ctl.zeroizing = none) ∧
    (∃ (s : State) (e : Fin 4), s.chip.powered = true ∧ s.chip.chattering (2 + e.val) = false ∧ (s.chip.panelIn (2 +
      e.val)).filt = true ∧ (s.chip.panelIn (2 + e.val)).stuck = false ∧ s.chip.keypadOn = true ∧ e.val ∈ s.chip.pnl.touches ∧
      e.val ∉ s.chip.pnl.ignored ∧ s.chip.pnl.entry.length < 15) ∧
    (∃ (s : State), s.chip.pnl.entry ≠ [] ∧ s.chip.keypadOn = true ∧ s.chip.logs ∧ s.chip.pnl.released + 2000000000 < 2 ^ 64) ∧
    (∃ (s : State), s.chip.pnl.entry ≠ [] ∧ s.chip.keypadOn = true ∧ s.chip.logs ∧ s.chip.pnl.enrolEnds = none) ∧
    (∃ (s : State) (t : Nat), s.chip.pnl.entry ≠ [] ∧ s.chip.keypadOn = true ∧ s.chip.logs ∧ s.chip.pnl.enrolEnds = some t ∧
      s.chip.now < t ∧ s.chip.pnl.released + 2000000000 < t ∧ s.chip.pnl.first = none) ∧
    (∃ (s : State) (t : Nat), s.chip.pnl.entry ≠ [] ∧ s.chip.keypadOn = true ∧ s.chip.logs ∧ s.chip.pnl.enrolEnds = some t ∧
      s.chip.now < t ∧ s.chip.pnl.released + 2000000000 < t ∧ s.chip.pnl.first = some s.chip.pnl.entry ∧ 6 ≤
      s.chip.pnl.entry.length ∧ s.chip.pnl.entry.length ≤ 12) ∧
    (∃ (s : State) (t : Nat), s.chip.pnl.lockEnds = some t ∧ t < 2 ^ 64) ∧
    (∃ (s : State), s.chip.orderFree ∧ s.chip.inMode [Mode.provision, Mode.maintenance] = true ∧ s.chip.authHere 8 = true) ∧
    (∃ (s : State), s.chip.orderFree ∧ s.chip.inMode [Mode.provision, Mode.maintenance] = true ∧ s.chip.authHere 8 = false) ∧
    (∃ (s : State) (t : Nat), s.chip.pnl.enrolEnds = some t ∧ t < 2 ^ 64) :=
  ⟨⟨(wi 0 {chatter := true, chatterEnds := 0}), 0, by decide +kernel⟩,
   ⟨(wi 5 {}), 5, by decide +kernel⟩,
   ⟨(wi 1 {} fun c => c.setF F.TMP_RESP0_resp1 [] 4), 1, by decide +kernel⟩,
   ⟨(wi 4 {chatter := true, chatterEnds := 50000}), 4, by decide +kernel⟩,
   ⟨(wi 0 {}), 0, by unfold Chip.logs; decide +kernel⟩,
   ⟨(wi 6 {chatter := true, chatterEnds := 77, changes := [3]}), 6, by decide +kernel⟩,
   ⟨(wi 5 {filt := true, since := 5}), 5, by unfold Chip.logs; decide +kernel⟩,
   ⟨(wi 5 {}), 3, 0xFFFF, by decide +kernel⟩,
   ⟨(we 5), 5, by decide +kernel⟩,
   ⟨(on fun c => (c.setPanelIn 0 {filt := true}).modPnl fun p => { p with pressedFor := some 1 }), 1, by unfold Chip.logs; decide +kernel⟩,
   ⟨(on fun c => { (c.setPanelIn 0 {filt := true}).modPnl fun p => { p with pressedFor := some 1 } with tim := { c.tim with elapsed := 3000000000 } }), 1, by decide +kernel⟩,
   ⟨(on fun c => (c.setPanelIn 3 {filt := true}).modPnl fun p => { p with touches := [1], entry := [3, 2] }), 1, by decide +kernel⟩,
   ⟨(wp fun p => { p with entry := l6, released := 7 }), by unfold Chip.logs; decide +kernel⟩,
   ⟨(wp fun p => { p with entry := l6, lockEnds := some 0 }), by unfold Chip.logs; decide +kernel⟩,
   ⟨(wp fun p => { p with entry := l6, enrolEnds := some 3000000000 }), 3000000000, by unfold Chip.logs; decide +kernel⟩,
   ⟨(wp fun p => { p with entry := l6, first := some l6, enrolEnds := some 3000000000 }), 3000000000, by unfold Chip.logs; decide +kernel⟩,
   ⟨(wp fun p => { p with lockEnds := some 9 }), 9, by decide +kernel⟩,
   ⟨(wps 8), by unfold Chip.orderFree; decide +kernel⟩,
   ⟨(wps 4), by unfold Chip.orderFree; decide +kernel⟩,
   ⟨(wp fun p => { p with enrolEnds := some 9 }), 9, by decide +kernel⟩⟩

/-- The hypotheses of `Obligations.FillPort`, clause by clause, are met together. -/
theorem witness_FillPort :
    (∃ (s : State), (s.chip.powered = true ∧ s.chip.inMode [Mode.wake] = false ∧ s.chip.filt 6 = true) ∧ s.chip.getB
      F.CRF_FILL_CFG_en [] = false) ∧
    (∃ (s : State) (payload : Bytes), ((s.chip.powered = true ∧ s.chip.inMode [Mode.wake] = false ∧ s.chip.filt 6 = true) ∧
      s.chip.getB F.CRF_FILL_CFG_en [] = true) ∧ payload ≠ [] ∧ List.length payload ≤ 512 ∧ s.chip.pnl.session = false) ∧
    (∃ (s : State) (payload : Bytes), ((s.chip.powered = true ∧ s.chip.inMode [Mode.wake] = false ∧ s.chip.filt 6 = true) ∧
      s.chip.getB F.CRF_FILL_CFG_en [] = true) ∧ payload ≠ [] ∧ List.length payload ≤ 512 ∧ s.chip.pnl.session = true ∧
      s.chip.inMode [Mode.provision, Mode.active] = false) ∧
    (∃ (s : State) (payload : Bytes), ((s.chip.powered = true ∧ s.chip.inMode [Mode.wake] = false ∧ s.chip.filt 6 = true) ∧
      s.chip.getB F.CRF_FILL_CFG_en [] = true) ∧ payload ≠ [] ∧ List.length payload ≤ 512 ∧ s.chip.pnl.session = true ∧
      s.chip.inMode [Mode.provision, Mode.active] = true ∧ List.head? payload = some 1 ∧ s.chip.clearAccepted = false) ∧
    (∃ (s : State) (payload : Bytes), ((s.chip.powered = true ∧ s.chip.inMode [Mode.wake] = false ∧ s.chip.filt 6 = true) ∧
      s.chip.getB F.CRF_FILL_CFG_en [] = true) ∧ payload ≠ [] ∧ List.length payload ≤ 512 ∧ s.chip.pnl.session = true ∧
      s.chip.inMode [Mode.provision, Mode.active] = true ∧ (List.head? payload ≠ some 1 ∨ s.chip.clearAccepted = true) ∧
      fillForm payload = false) ∧
    (∃ (s : State) (payload : Bytes), ((s.chip.powered = true ∧ s.chip.inMode [Mode.wake] = false ∧ s.chip.filt 6 = true) ∧
      s.chip.getB F.CRF_FILL_CFG_en [] = true) ∧ payload ≠ [] ∧ List.length payload ≤ 512 ∧ s.chip.pnl.session = true ∧
      s.chip.inMode [Mode.provision, Mode.active] = true ∧ (List.head? payload ≠ some 1 ∨ s.chip.clearAccepted = true) ∧
      fillForm payload = true) ∧
    (∃ (s : State) (b : FillBlob), s.chip.pnl.answering = some b ∧ s.chip.logs) ∧
    (∃ (s : State), s.chip.powered = true ∧ s.chip.inMode [Mode.wake] = false ∧ s.chip.chattering 6 = false ∧ s.chip.logs ∧
      s.chip.filt 6 = false) ∧
    (∃ (s : State), s.chip.powered = true ∧ s.chip.inMode [Mode.wake] = false ∧ s.chip.chattering 6 = false ∧ s.chip.logs ∧
      s.chip.filt 6 = true ∧ s.chip.pnl.session = true) ∧
    (∃ (s : State) (b : FillBlob), s.chip.pnl.held = some b ∧ b.ends < 2 ^ 64) :=
  ⟨⟨(wfl id 0), by decide +kernel⟩,
   ⟨(wfl), [1, 2], by decide +kernel⟩,
   ⟨(wse .standby), [1, 2], by decide +kernel⟩,
   ⟨(wse .active), [1, 2], by decide +kernel⟩,
   ⟨(wse .provision fun c => c.modCtl fun k => { k with pinOk := some 50000 }), (List.replicate 512 1), by decide +kernel⟩,
   ⟨(wse .provision fun c => c.modCtl fun k => { k with pinOk := some 50000 }), (List.replicate 25 1), by decide +kernel⟩,
   ⟨(wp fun p => { p with answering := some { clear := true, data := [1] } }), { clear := true, data := [1] }, by unfold Chip.logs; decide +kernel⟩,
   ⟨(on id), by unfold Chip.logs; decide +kernel⟩,
   ⟨(wse .active), by unfold Chip.logs; decide +kernel⟩,
   ⟨(wp fun p => { p with held := some { clear := true, data := [1], ends := 44 } }), { clear := true, data := [1], ends := 44 }, by decide +kernel⟩⟩

end W26

namespace W28

def wrev := on fun c => ((c.setF F.PRS_PAIR_CFG_revert_en [] 1).setF F.PRS_PAIR_CFG_pref [] 7).modPrs fun p => { p with link := 4, grade := 5, deferSince := some 3, peerClaim := 161, peerHolding := true }
def wto := on fun c => ((c.setSa 9 { state := 1, nextPn := 100, reserved := 7000, suite := 1 }).inM .standby).modPrs fun p => { p with grade := 5, peerClaim := 31 }
def wy (f : PairStack → PairStack := id) := on fun c => (((c.setF F.PRS_STAT_holding [] 1).setSa 9 { state := 1, nextPn := 100, reserved := 7000, suite := 1 })).modPrs fun p => f { p with grade := 1, peerClaim := 201 }

/-- The hypotheses of `Obligations.HealthAndClaim`, clause by clause, are met together. -/
theorem witness_HealthAndClaim :
    (∃ (frame : Bytes), (∀ (x y : Nat), frame ≠ claimFrame x y)) ∧
    (∃ (s : State), s.chip.powered = true ∧ s.chip.getB F.LNK_LINK_STAT_up [2] = false ∧ s.chip.prs.heardSide + 1000000 < 2 ^
      64) ∧
    (∃ (s : State) (fec : Bool), s.chip.running = true ∧ { s.chip with prs := { s.chip.prs with fecBad := fec } }.gradeNow ≤
      s.chip.prs.grade) ∧
    (∃ (s : State) (fec : Bool), s.chip.running = true ∧ s.chip.prs.grade < { s.chip with prs :=
      { s.chip.prs with fecBad := fec } }.gradeNow ∧ ((SMap.get (fun _ => none) s.chip.prs.held (s.chip.prs.grade + 1)).getD
      s.chip.now + 100000000 < 2 ^ 64)) ∧
    (∃ (s : State) (t : Nat), s.chip.prs.deferSince = some t ∧ s.chip.deferring = true ∧ s.chip.prs.link = 4 ∧ s.chip.getB
      F.PRS_PAIR_CFG_revert_en [] = true ∧ t + s.chip.getF F.PRS_PAIR_CFG_revert_hold [] * 1000000000 < 2 ^ 64) ∧
    (∃ (s : State), s.chip.inMode [Mode.standby] = true ∧ s.chip.holds = true) ∧
    (∃ (s : State), s.chip.mustYield = true ∧ s.chip.prs.yieldAt = none) ∧
    (∃ (s : State) (t : Nat), s.chip.prs.yieldAt = some t ∧ s.chip.inMode [Mode.active, Mode.drain] = true) ∧
    (∃ (s : State), s.chip.holding = true ∧ s.chip.prs.peerHolding = true ∧ 2 ∈ s.chip.prs.linkUp ∧ s.chip.mustYield = true) ∧
    (∃ (s : State) (i : Nat) (limit : Nat), s.chip.holding = true ∧ s.chip.prs.peerHolding = true ∧ 2 ∈ s.chip.prs.linkUp ∧
      s.chip.mustYield = false ∧ ((s.chip.sa i).state = 1 ∧ (s.chip.sa i).dir = false) ∧ max limit (s.chip.sa i).mark +
      s.chip.pnGuard ≤ lastPn (s.chip.sa i).suite) :=
  ⟨⟨[1,2,3], by intro x y e; exact absurd (congrArg List.length e) (by simp [claimFrame, beBytes, leBytes])⟩,
   ⟨(on fun c => c.modPrs fun p => { p with heardSide := 5, peerClaim := 7, deferSince := some 4 }), by decide +kernel⟩,
   ⟨(on fun c => (c.setF F.PRS_CTL_unfit [] 1).modPrs fun p => { p with grade := 2, held := [(7, some 3)] }), true, by decide +kernel⟩,
   ⟨(on fun c => { c.modPrs fun p => { p with grade := 1, held := [(2, some 3), (3, some 500000000), (4, some 70)] } with tim := { c.tim with elapsed := 500000001 } }), false, by decide +kernel⟩,
   ⟨wrev, 3, by decide +kernel⟩,
   ⟨wto, by decide +kernel⟩,
   ⟨(wy fun p => { p with link := 4 }), by decide +kernel⟩,
   ⟨(wy fun p => { p with yieldAt := some 7, peerHolding := true }), 7, by decide +kernel⟩,
   ⟨(wy fun p => { p with peerHolding := true, linkUp := [2] }), by decide +kernel⟩,
   ⟨(wy fun p => { p with peerHolding := true, linkUp := [2], grade := 7 }), 9, 100000, by decide +kernel⟩⟩

end W28

namespace W29

def sk : Slot := { state := 1, generation := 1, type := 2, count := 9 }
def hk := mkHandle 1 0 100
def wl (i lk : Nat) (f : PairStack → PairStack := id) := on fun c => ((c.setSlot 100 sk).setF F.LNK_LINK_STAT_up [i] 1).modPrs fun p => f { p with link := lk, pairKey := some hk, stackKey := some hk }
def sal (i : Nat) (p : PairStack) := { p with salts := [(i, some (13 : BitVec 96))] }
def lks : LinkSession := { txKey := 5, rxKey := 6, txSalt := 7, rxSalt := 8 }
def cq : PanReq := {kind := .cmac, pan := 2, slot := 100, gen := 1, subject := 1, blocks := 3}
def wj (j : LinkJob) (fail : Bool := false) (i : Nat := 2) (lk : Nat := 5) (r : List LinkJob := []) : State := on fun c => (((((c.setSlot 100 sk).setF F.LNK_LINK_STAT_up [i] 1).modPrs fun p => { p with link := lk, pairKey := some hk, stackKey := some hk, jobs := j :: r, jobOn := true }).setKsq 1 { cmacFail := fail }).modPan fun p => { p with reqs := [(7, some cq)] })
def js (l : Nat) : LinkJob := .session l 100 1 lks 3 77
def wfx (l : Nat) : State := { wl l 5 (fun p => { sal l p with linkUp := [l] }) with chip := (wl l 5 (fun p => { sal l p with linkUp := [l] })).chip.setF F.ENT_STAT_failed [] 1 }
def ss (p : PairStack) : PairStack := { p with sessions := [(2, some lks)] }
def wh (lk : Nat) (f : PairStack → PairStack := id) := on fun c => ((c.setF F.PRS_STAT_holding [] 1).setSa 9 { state := 1, nextPn := 100, reserved := 7, suite := 1 }).modPrs fun p => ss (f { p with link := lk })
def cy (n : Nat) (cm : List (Nat × List CopyItem)) (it : List CopyItem) : PairCycle := { number := n, cfgCrc := 0, commits := cm, items := it }
def tagAt (kind : Nat) (body : Bytes) : BitVec 128 :=
  let iv := BitVec.ofNat 96 (lks.rxSalt.toNat / 2 ^ 64 * 2 ^ 64 + 5)
  Config.gcmTag true lks.rxKey iv ([BitVec.ofNat 8 kind, 9, 1, 0] ++ beBytes 8 5) (gcmXor true lks.rxKey iv body)
def hdOf (kind : Nat) (body : Bytes) : PairHead := { claim := 9, status := 1, seq := 5, tag := tagAt kind body }
def hdNo (kind : Nat) (body : Bytes) : PairHead := { claim := 9, status := 1, seq := 5, tag := tagAt kind body + 1 }
def vv : Sa := { state := 1, nextPn := 900 }
def ws (lk : Nat) (f : PairStack → PairStack := id) := on fun c => ((c.setSa 8 { state := 1, nextPn := 100, reserved := 7, suite := 1 }).setSlot 100 sk).modPrs fun p => ss (f { p with link := lk })
def wfl17 : State := let s := ws 4 fun p => { p with holdSince := some 0, grade := 7 }; { s with chip := { s.chip with tim := { s.chip.tim with elapsed := 5000000 } } }
def wk (t : BitVec 2) := on fun c => (c.inM .provision).setSlot 100 { sk with type := t }

theorem tag_other (x : BitVec 128) : ¬x + 1 = x := by simp

/-- The hypotheses of `Obligations.PairLinkAndCopy`, clause by clause, are met together. -/
theorem witness_PairLinkAndCopy :
    (∃ (s : State), s.chip.getF F.LNK_LINK_STAT_up [2] ≠ 0 ∧ (SMap.get (fun _ => none) s.chip.prs.salts 2 = none)) ∧
    (∃ (s : State) (salt : BitVec 96) (k : Nat), s.chip.getF F.LNK_LINK_STAT_up [2] ≠ 0 ∧ (SMap.get (fun _ => none)
      s.chip.prs.salts 2 = some salt) ∧ s.chip.linkKey 2 = some k ∧ s.chip.prs.link ≠ 4) ∧
    (∃ (s : State) (port : Fin 2) (salt : BitVec 96) (k : Nat), s.chip.getF F.LNK_LINK_STAT_up [port.val] ≠ 0 ∧ (SMap.get (fun _
      => none) s.chip.prs.salts port.val = some salt) ∧ s.chip.linkKey port.val = some k) ∧
    (∃ (s : State) (link : Fin 3) (k : Nat) (n : Nat) (q : PanReq) (keys : LinkSession) (gen : Nat) (pid : Nat) (pdev : DWord)
      (rest : List LinkJob), ((s.chip.turnOf fun r => r.kind == ReqKind.cmac && r.subject == 1) = some (n, q)) ∧
      (((s.chip.panDone n).findReq fun r => r.kind == ReqKind.cmac && r.subject == 1) = none) ∧ (s.chip.ksqCtx 1).cmac = none ∧
      s.chip.prs.jobOn = true ∧ s.chip.prs.jobs = LinkJob.session link.val k gen keys pid pdev :: rest ∧ (s.chip.ksqCtx
      1).cmacFail = false) ∧
    (∃ (s : State) (link : Fin 3) (k : Nat) (n : Nat) (q : PanReq) (keys : LinkSession) (gen : Nat) (pid : Nat) (pdev : DWord)
      (rest : List LinkJob), ((s.chip.turnOf fun r => r.kind == ReqKind.cmac && r.subject == 1) = some (n, q)) ∧
      (((s.chip.panDone n).findReq fun r => r.kind == ReqKind.cmac && r.subject == 1) = none) ∧ (s.chip.ksqCtx 1).cmac = none ∧
      s.chip.prs.jobOn = true ∧ s.chip.prs.jobs = LinkJob.session link.val k gen keys pid pdev :: rest ∧ (s.chip.ksqCtx
      1).cmacFail = true) ∧
    (∃ (s : State) (link : Fin 3) (salt : BitVec 96) (k : Nat) (n : Nat) (q : PanReq) (rest : List LinkJob), ((s.chip.turnOf fun
      r => r.kind == ReqKind.cmac && r.subject == 1) = some (n, q)) ∧ (((s.chip.panDone n).findReq fun r => r.kind ==
      ReqKind.cmac && r.subject == 1) = none) ∧ (s.chip.ksqCtx 1).cmac = none ∧ s.chip.prs.jobOn = true ∧ s.chip.prs.jobs =
      LinkJob.hello link.val k salt :: rest ∧ (s.chip.ksqCtx 1).cmacFail = false ∧ (SMap.get (fun _ => none) s.chip.prs.hellos
      link.val = none)) ∧
    (∃ (s : State) (link : Fin 3), link.val ∈ s.chip.prs.linkUp ∧ s.chip.entFailed = false ∧ s.chip.getF F.LNK_LINK_STAT_up
      [link.val] ≠ 0) ∧
    (∃ (s : State) (link : Fin 3), link.val ∈ s.chip.prs.linkUp ∧ s.chip.entFailed = true) ∧
    (∃ (s : State), s.chip.copying = false) ∧
    (∃ (s : State) (i : Nat) (v : Sa) (x : PairCycle), s.chip.copying = true ∧ s.chip.prs.unacked = [x] ∧ x.number + 2 ≤
      s.chip.prs.cycle ∧ x.items = [CopyItem.sa i v]) ∧
    (∃ (s : State) (ks : LinkSession) (x : PairHead) (y : CopyAck), (SMap.get (fun _ => none) s.chip.prs.sessions 2 = some ks) ∧
      (¬x.tag = Config.gcmTag true ks.rxKey (BitVec.ofNat 96 (ks.rxSalt.toNat / 2 ^ 64 * 2 ^ 64 + x.seq)) ([BitVec.ofNat 8 2,
      x.claim, x.status, 0] ++ beBytes 8 x.seq) (gcmXor true ks.rxKey (BitVec.ofNat 96 (ks.rxSalt.toNat / 2 ^ 64 * 2 ^ 64 +
      x.seq)) (Config.recordBytes CopyAck y)))) ∧
    (∃ (s : State) (ks : LinkSession) (x : PairHead) (y : PairCycle), (SMap.get (fun _ => none) s.chip.prs.sessions 2 = some ks)
      ∧ (¬x.tag = Config.gcmTag true ks.rxKey (BitVec.ofNat 96 (ks.rxSalt.toNat / 2 ^ 64 * 2 ^ 64 + x.seq)) ([BitVec.ofNat 8 0,
      x.claim, x.status, 0] ++ beBytes 8 x.seq) (gcmXor true ks.rxKey (BitVec.ofNat 96 (ks.rxSalt.toNat / 2 ^ 64 * 2 ^ 64 +
      x.seq)) (Config.recordBytes PairCycle y)))) ∧
    (∃ (s : State) (ks : LinkSession) (x : PairHead) (y : BulkCopy), (SMap.get (fun _ => none) s.chip.prs.sessions 2 = some ks)
      ∧ (¬x.tag = Config.gcmTag true ks.rxKey (BitVec.ofNat 96 (ks.rxSalt.toNat / 2 ^ 64 * 2 ^ 64 + x.seq)) ([BitVec.ofNat 8 1,
      x.claim, x.status, 0] ++ beBytes 8 x.seq) (gcmXor true ks.rxKey (BitVec.ofNat 96 (ks.rxSalt.toNat / 2 ^ 64 * 2 ^ 64 +
      x.seq)) (Config.recordBytes BulkCopy y)))) ∧
    (∃ (s : State) (ks : LinkSession) (x : PairHead) (n : Nat) (crc : Word), (SMap.get (fun _ => none) s.chip.prs.sessions 2 =
      some ks) ∧ s.chip.holding = true ∧ x.tag = Config.gcmTag true ks.rxKey (BitVec.ofNat 96 (ks.rxSalt.toNat / 2 ^ 64 * 2 ^ 64
      + x.seq)) ([BitVec.ofNat 8 2, x.claim, x.status, 0] ++ beBytes 8 x.seq) (gcmXor true ks.rxKey (BitVec.ofNat 96
      (ks.rxSalt.toNat / 2 ^ 64 * 2 ^ 64 + x.seq)) (Config.recordBytes CopyAck (CopyAck.cycle n crc)))) ∧
    (∃ (s : State) (ks : LinkSession) (x : PairHead), (SMap.get (fun _ => none) s.chip.prs.sessions 2 = some ks) ∧
      s.chip.holding = true ∧ s.chip.prs.link = 3 ∧ x.tag = Config.gcmTag true ks.rxKey (BitVec.ofNat 96 (ks.rxSalt.toNat / 2 ^
      64 * 2 ^ 64 + x.seq)) ([BitVec.ofNat 8 2, x.claim, x.status, 0] ++ beBytes 8 x.seq) (gcmXor true ks.rxKey (BitVec.ofNat 96
      (ks.rxSalt.toNat / 2 ^ 64 * 2 ^ 64 + x.seq)) (Config.recordBytes CopyAck CopyAck.bulk))) ∧
    (∃ (s : State) (ks : LinkSession) (x : PairHead), (SMap.get (fun _ => none) s.chip.prs.sessions 2 = some ks) ∧
      s.chip.holding = true ∧ 3 ≤ s.chip.prs.link ∧ x.tag = Config.gcmTag true ks.rxKey (BitVec.ofNat 96 (ks.rxSalt.toNat / 2 ^
      64 * 2 ^ 64 + x.seq)) ([BitVec.ofNat 8 2, x.claim, x.status, 0] ++ beBytes 8 x.seq) (gcmXor true ks.rxKey (BitVec.ofNat 96
      (ks.rxSalt.toNat / 2 ^ 64 * 2 ^ 64 + x.seq)) (Config.recordBytes CopyAck CopyAck.resync))) ∧
    (∃ (s : State) (i : Nat) (v : Sa) (ks : LinkSession) (x : PairHead) (y : PairCycle), (SMap.get (fun _ => none)
      s.chip.prs.sessions 2 = some ks) ∧ s.chip.holding = false ∧ i < 65536 ∧ v.dir = false ∧ x.tag = Config.gcmTag true
      ks.rxKey (BitVec.ofNat 96 (ks.rxSalt.toNat / 2 ^ 64 * 2 ^ 64 + x.seq)) ([BitVec.ofNat 8 0, x.claim, x.status, 0] ++
      beBytes 8 x.seq) (gcmXor true ks.rxKey (BitVec.ofNat 96 (ks.rxSalt.toNat / 2 ^ 64 * 2 ^ 64 + x.seq)) (Config.recordBytes
      PairCycle y)) ∧ (s.chip.peerClaimed true (BitVec.toNat x.claim) (BitVec.toNat x.status)).finalLate y = true) ∧
    (∃ (s : State) (i : Nat) (v : Sa) (ks : LinkSession) (x : PairHead) (y : PairCycle), (SMap.get (fun _ => none)
      s.chip.prs.sessions 2 = some ks) ∧ s.chip.holding = false ∧ i < 65536 ∧ v.dir = false ∧ x.tag = Config.gcmTag true
      ks.rxKey (BitVec.ofNat 96 (ks.rxSalt.toNat / 2 ^ 64 * 2 ^ 64 + x.seq)) ([BitVec.ofNat 8 0, x.claim, x.status, 0] ++
      beBytes 8 x.seq) (gcmXor true ks.rxKey (BitVec.ofNat 96 (ks.rxSalt.toNat / 2 ^ 64 * 2 ^ 64 + x.seq)) (Config.recordBytes
      PairCycle y)) ∧ s.chip.prs.link = 3 ∧ (s.chip.peerClaimed true (BitVec.toNat x.claim) (BitVec.toNat x.status)).finalLate y
      = false) ∧
    (∃ (s : State) (i : Nat) (v : Sa) (ks : LinkSession) (x : PairHead) (y : PairCycle), (SMap.get (fun _ => none)
      s.chip.prs.sessions 2 = some ks) ∧ s.chip.holding = false ∧ i < 65536 ∧ v.dir = false ∧ x.tag = Config.gcmTag true
      ks.rxKey (BitVec.ofNat 96 (ks.rxSalt.toNat / 2 ^ 64 * 2 ^ 64 + x.seq)) ([BitVec.ofNat 8 0, x.claim, x.status, 0] ++
      beBytes 8 x.seq) (gcmXor true ks.rxKey (BitVec.ofNat 96 (ks.rxSalt.toNat / 2 ^ 64 * 2 ^ 64 + x.seq)) (Config.recordBytes
      PairCycle y)) ∧ s.chip.prs.link = 4 ∧ (s.chip.peerClaimed true (BitVec.toNat x.claim) (BitVec.toNat x.status)).finalLate y
      = false ∧ y.commits = [] ∧ y.items = [CopyItem.sa i v]) ∧
    (∃ (s : State) (i : Nat) (v : Sa) (ks : LinkSession) (x : PairHead) (y : PairCycle) (n : Nat), (SMap.get (fun _ => none)
      s.chip.prs.sessions 2 = some ks) ∧ s.chip.holding = false ∧ i < 65536 ∧ v.dir = false ∧ x.tag = Config.gcmTag true
      ks.rxKey (BitVec.ofNat 96 (ks.rxSalt.toNat / 2 ^ 64 * 2 ^ 64 + x.seq)) ([BitVec.ofNat 8 0, x.claim, x.status, 0] ++
      beBytes 8 x.seq) (gcmXor true ks.rxKey (BitVec.ofNat 96 (ks.rxSalt.toNat / 2 ^ 64 * 2 ^ 64 + x.seq)) (Config.recordBytes
      PairCycle y)) ∧ s.chip.prs.link = 4 ∧ (s.chip.peerClaimed true (BitVec.toNat x.claim) (BitVec.toNat x.status)).finalLate y
      = false ∧ s.chip.prs.peerCommitSeq + 1 < n ∧ y.commits = [(n, [CopyItem.sa i v])] ∧ y.items = []) ∧
    (∃ (s : State) (i : Nat) (v : Sa) (ks : LinkSession) (x : PairHead) (y : PairCycle), (SMap.get (fun _ => none)
      s.chip.prs.sessions 2 = some ks) ∧ s.chip.holding = false ∧ i < 65536 ∧ v.dir = false ∧ x.tag = Config.gcmTag true
      ks.rxKey (BitVec.ofNat 96 (ks.rxSalt.toNat / 2 ^ 64 * 2 ^ 64 + x.seq)) ([BitVec.ofNat 8 0, x.claim, x.status, 0] ++
      beBytes 8 x.seq) (gcmXor true ks.rxKey (BitVec.ofNat 96 (ks.rxSalt.toNat / 2 ^ 64 * 2 ^ 64 + x.seq)) (Config.recordBytes
      PairCycle y)) ∧ s.chip.prs.link = 4 ∧ (s.chip.peerClaimed true (BitVec.toNat x.claim) (BitVec.toNat x.status)).finalLate y
      = false ∧ y.commits = [(s.chip.prs.peerCommitSeq + 1, [CopyItem.sa i v])] ∧ y.items = []) ∧
    (∃ (s : State) (i : Nat) (v : Sa) (ks : LinkSession) (x : PairHead) (n : Nat), (SMap.get (fun _ => none) s.chip.prs.sessions
      2 = some ks) ∧ s.chip.holding = false ∧ s.chip.prs.link = 3 ∧ s.chip.prs.early = [] ∧ i < 65536 ∧ v.dir = false ∧ x.tag =
      Config.gcmTag true ks.rxKey (BitVec.ofNat 96 (ks.rxSalt.toNat / 2 ^ 64 * 2 ^ 64 + x.seq)) ([BitVec.ofNat 8 1, x.claim,
      x.status, 0] ++ beBytes 8 x.seq) (gcmXor true ks.rxKey (BitVec.ofNat 96 (ks.rxSalt.toNat / 2 ^ 64 * 2 ^ 64 + x.seq))
      (Config.recordBytes BulkCopy { seq := n, items := [CopyItem.sa i v] }))) ∧
    (∃ (s : State), s.chip.holding = false ∧ s.chip.prs.link = 4 ∧ s.chip.prs.markerMisses = 0) ∧
    (∃ (s : State), s.chip.holding = false ∧ s.chip.prs.link = 4 ∧ s.chip.prs.markerMisses = 2 ∧ s.chip.prs.markerAt +
      s.chip.pairTc + 2000 < s.chip.prs.heardSide) ∧
    (∃ (s : State), s.chip.holding = false ∧ s.chip.prs.link = 4 ∧ s.chip.prs.markerMisses = 2 ∧ s.chip.prs.heardSide ≤
      s.chip.prs.markerAt + s.chip.pairTc + 2000) ∧
    (∃ (s : State) (h : Word), s.chip.orderFree ∧ s.chip.inMode [Mode.provision, Mode.maintenance] = true ∧ s.chip.stagedCount <
      64 ∧ s.chip.staged.checkKey h = 0 ∧ (s.chip.staged.slot (slotOf h)).type = 2) ∧
    (∃ (s : State) (h : Word), s.chip.orderFree ∧ s.chip.inMode [Mode.provision, Mode.maintenance] = true ∧ s.chip.stagedCount <
      64 ∧ s.chip.staged.checkKey h = 0 ∧ (s.chip.staged.slot (slotOf h)).type ≠ 2) :=
  ⟨⟨(wl 2 1), by decide +kernel⟩,
   ⟨(wl 2 5 (sal 2)), 13, 100, by decide +kernel⟩,
   ⟨(wl 0 5 (sal 0)), 0, 13, 100, by decide +kernel⟩,
   ⟨(wj (js 2) false 2 5 [js 1]), 2, 100, 7, cq, lks, 1, 3, 77, [js 1], by decide +kernel⟩,
   ⟨(wj (js 1) true 1), 1, 100, 7, cq, lks, 1, 3, 77, [], by decide +kernel⟩,
   ⟨(wj (.hello 1 100 13) false 1), 1, 13, 100, 7, cq, [], by decide +kernel⟩,
   ⟨(wl 2 5 fun p => { sal 1 p with linkUp := [2] }), 2, by decide +kernel⟩,
   ⟨(wfx 2), 2, by decide +kernel⟩,
   ⟨(wh 5), by decide +kernel⟩,
   ⟨(wh 4 fun p => { p with cycle := 9, unacked := [cy 7 [] [.sa 9 {}]] }), 9, {}, (cy 7 [] [.sa 9 {}]), by decide +kernel⟩,
   ⟨(wh 4), lks, (hdNo 2 (Config.recordBytes CopyAck (.cycle 7 0))), (.cycle 7 0), by and_intros <;> first | decide +kernel | rfl | exact tag_other _ | exact tag_of _⟩,
   ⟨(wh 4), lks, (hdNo 0 (Config.recordBytes PairCycle ((cy 7 [] [])))), (cy 7 [] []), by and_intros <;> first | decide +kernel | rfl | exact tag_other _ | exact tag_of _⟩,
   ⟨(wh 4), lks, (hdNo 1 (Config.recordBytes BulkCopy ⟨3, []⟩)), ⟨3, []⟩, by and_intros <;> first | decide +kernel | rfl | exact tag_other _ | exact tag_of _⟩,
   ⟨(wh 4 fun p => { p with cycle := 9, unacked := [cy 7 [] [.sa 9 {}]] }), lks, (hdOf 2 (Config.recordBytes CopyAck (.cycle 7 5))), 7, 5, by and_intros <;> first | decide +kernel | rfl | exact tag_other _ | exact tag_of _⟩,
   ⟨(wh 3), lks, (hdOf 2 (Config.recordBytes CopyAck .bulk)), by and_intros <;> first | decide +kernel | rfl | exact tag_other _ | exact tag_of _⟩,
   ⟨(wh 5), lks, (hdOf 2 (Config.recordBytes CopyAck .resync)), by and_intros <;> first | decide +kernel | rfl | exact tag_other _ | exact tag_of _⟩,
   ⟨wfl17, 9, vv, lks, (hdOf 0 (Config.recordBytes PairCycle ({ cy 3 [] [] with final := true }))), { cy 3 [] [] with final := true }, by and_intros <;> first | decide +kernel | rfl | exact tag_other _ | exact tag_of _⟩,
   ⟨(ws 3), 9, vv, lks, (hdOf 0 (Config.recordBytes PairCycle ((cy 3 [] [.sa 9 vv])))), (cy 3 [] [.sa 9 vv]), by and_intros <;> first | decide +kernel | rfl | exact tag_other _ | exact tag_of _⟩,
   ⟨(ws 4 fun p => { p with appliedCycle := 9 }), 9, vv, lks, (hdOf 0 (Config.recordBytes PairCycle ((cy 3 [] [.sa 9 vv])))), (cy 3 [] [.sa 9 vv]), by and_intros <;> first | decide +kernel | rfl | exact tag_other _ | exact tag_of _⟩,
   ⟨(ws 4), 9, vv, lks, (hdOf 0 (Config.recordBytes PairCycle ((cy 3 [(2, [.sa 9 vv])] [])))), (cy 3 [(2, [.sa 9 vv])] []), 2, by and_intros <;> first | decide +kernel | rfl | exact tag_other _ | exact tag_of _⟩,
   ⟨(ws 4), 9, vv, lks, (hdOf 0 (Config.recordBytes PairCycle ((cy 3 [(1, [.sa 9 vv])] [])))), (cy 3 [(1, [.sa 9 vv])] []), by and_intros <;> first | decide +kernel | rfl | exact tag_other _ | exact tag_of _⟩,
   ⟨(ws 3), 9, vv, lks, (hdOf 1 (Config.recordBytes BulkCopy ⟨5, [.sa 9 vv]⟩)), 5, by and_intros <;> first | decide +kernel | rfl | exact tag_other _ | exact tag_of _⟩,
   ⟨(ws 4), by decide +kernel⟩,
   ⟨(ws 4 fun p => { p with markerMisses := 2, heardSide := 500000, markerAt := 4 }), by decide +kernel⟩,
   ⟨(ws 4 fun p => { p with markerMisses := 2, heardSide := 4, markerAt := 4 }), by decide +kernel⟩,
   ⟨(wk 2), hk, by unfold Chip.orderFree; decide +kernel⟩,
   ⟨(wk 0), hk, by unfold Chip.orderFree; decide +kernel⟩⟩

end W29

namespace W30

def ls : LinkSession := { txKey := 5, rxKey := 7, txSalt := 3 <<< 70, rxSalt := 9 <<< 66 }
def wst (f : PairStack → PairStack := id) := on fun c => c.modPrs fun p => f { p with sessions := [(0, some ls)], linkUp := [0] }
def mem (l : List (Nat × Member)) (f : PairStack → PairStack := id) := fun (p : PairStack) => f { p with members := l }
def ack2 (h d : Nat) : Bytes := [0x10, BitVec.ofNat 8 h, 2, BitVec.ofNat 8 d] ++ List.replicate 8 0 ++ List.replicate 62 0
def wfc (f : Bytes) : Bytes := f ++ fcs f
def wf (st : Nat) (m : Mode) := on fun c => (c.inM m).modPrs fun p => { p with sessions := [(0, some ls), (1, some ls)], linkUp := [0,1], straps := st, members := [(5, { present := true, hops0 := 2, hops1 := 2, heard0 := some 0, heard1 := some 0 })] }
def wml (rs src : Nat) := on fun c => ((c.setF F.TIM_REF_CFG_src [] src).setF F.TIM_STAT_ref_state [] rs).modPrs fun p => { p with straps := 3, masterHeard := 40 }
def wmf (b : Bool) := on fun c => (c.inM .maintenance).modPrs fun p => { p with straps := 3, masterHeard := 40, masterLost := b }
def wsr (l : List (Nat × Member)) (up : List Nat) := on fun c => (c.inM .maintenance).modPrs fun p => { p with sessions := [(0, some ls), (1, some ls)], linkUp := up, members := l }
def wrt := on fun c => ((c.modPrs fun p => { p with relayTo := some (3, 55) }).modOrd fun o => { o with wait := .relay })

theorem wfc_whole (f : Bytes) : (wfc f).drop ((wfc f).length - 4) = fcs ((wfc f).take ((wfc f).length - 4)) := by
  have e : (wfc f).length - 4 = f.length := by simp [wfc, fcs, leBytes]
  rw [e]
  simp [wfc]

/-- The hypotheses of `Obligations.StackLinks`, clause by clause, are met together. -/
theorem witness_StackLinks :
    (∃ (s : State) (k : LinkSession), s.chip.powered = true ∧ (SMap.get (fun _ => none) s.chip.prs.sessions 0 = some k) ∧
      (SMap.get (fun _ => none) s.chip.prs.sessions 1 = none) ∧ k.seq < 2 ^ 48 ∧ s.chip.running = true ∧ s.chip.isMaster = true)
      ∧
    (∃ (s : State) (k : LinkSession), s.chip.powered = true ∧ (SMap.get (fun _ => none) s.chip.prs.sessions 0 = some k) ∧
      (SMap.get (fun _ => none) s.chip.prs.sessions 1 = none) ∧ k.seq < 2 ^ 48 ∧ s.chip.isMaster = false) ∧
    (∃ (s : State) (k : LinkSession), s.chip.powered = true ∧ (SMap.get (fun _ => none) s.chip.prs.sessions 0 = some k) ∧
      (SMap.get (fun _ => none) s.chip.prs.sessions 1 = none) ∧ 2 ^ 48 ≤ k.seq) ∧
    (∃ (s : State) (port : Fin 2) (dev : Fin 8), port.val ∈ s.chip.prs.linkUp ∧ dev.val ≠ s.chip.prs.straps) ∧
    (∃ (s : State) (dev : Fin 8), (s.chip.member dev.val).present = true ∧ (s.chip.member dev.val).heard + 100000 < 2 ^ 64) ∧
    (∃ (s : State) (port : Fin 2) (frame : Bytes) (k : LinkSession), (SMap.get (fun _ => none) s.chip.prs.sessions port.val =
      some k) ∧ (¬List.drop (List.length frame - 4) frame = fcs (List.take (List.length frame - 4) frame))) ∧
    (∃ (s : State) (port : Fin 2) (frame : Bytes) (k : LinkSession), (SMap.get (fun _ => none) s.chip.prs.sessions port.val =
      some k) ∧ List.drop (List.length frame - 4) frame = fcs (List.take (List.length frame - 4) frame) ∧ List.length frame <
      64) ∧
    (∃ (s : State) (port : Fin 2) (frame : Bytes) (k : LinkSession), (SMap.get (fun _ => none) s.chip.prs.sessions port.val =
      some k) ∧ List.drop (List.length frame - 4) frame = fcs (List.take (List.length frame - 4) frame) ∧ 64 ≤ List.length frame
      ∧ List.getD frame 0 0 = BitVec.ofNat 8 16 ∧ BitVec.toNat (List.getD frame 2 0) ≠ s.chip.prs.straps) ∧
    (∃ (s : State), s.chip.running = true ∧ s.chip.isMaster = false ∧ s.chip.prs.masterLost = false ∧ s.chip.prs.masterHeard +
      100000 < 2 ^ 64) ∧
    (∃ (s : State), s.chip.orderFree ∧ s.chip.inMode [Mode.maintenance] = true ∧ s.chip.prs.masterLost = true ∧ s.chip.logs) ∧
    (∃ (s : State), s.chip.orderFree ∧ s.chip.inMode [Mode.maintenance] = true ∧ s.chip.prs.masterLost = false) ∧
    (∃ (s : State) (len : Word), s.chip.orderFree ∧ s.chip.inMode [Mode.provision, Mode.active, Mode.maintenance] = true ∧
      s.chip.dmaAllowed 0 = true ∧ BitVec.toNat len ≤ 12288 ∧ s.chip.prs.masterLost = true) ∧
    (∃ (s : State) (len : Word), s.chip.orderFree ∧ s.chip.inMode [Mode.provision, Mode.active, Mode.maintenance] = true ∧
      s.chip.dmaAllowed 0 = true ∧ BitVec.toNat len ≤ 12288 ∧ s.chip.prs.masterLost = false ∧ s.chip.isMaster = false) ∧
    (∃ (s : State) (dev : Fin 8) (len : Word), s.chip.orderFree ∧ s.chip.inMode [Mode.provision, Mode.active, Mode.maintenance]
      = true ∧ s.chip.dmaAllowed 0 = true ∧ BitVec.toNat len ≤ 12288 ∧ s.chip.prs.masterLost = false ∧ s.chip.isMaster = true ∧
      dev.val ≠ s.chip.prs.straps ∧ (s.chip.member dev.val).present = false) ∧
    (∃ (s : State) (dev : Fin 8) (len : Word), s.chip.orderFree ∧ s.chip.inMode [Mode.provision, Mode.active, Mode.maintenance]
      = true ∧ s.chip.dmaAllowed 0 = true ∧ BitVec.toNat len ≤ 12288 ∧ s.chip.prs.masterLost = false ∧ s.chip.isMaster = true ∧
      dev.val ≠ s.chip.prs.straps ∧ (s.chip.member dev.val).present = true) ∧
    (∃ (s : State) (x : Nat) (t : Nat), s.chip.prs.relayTo = some (x, t) ∧ s.chip.ord.wait = OrdWait.relay ∧ s.chip.ord.callReg
      = none ∧ s.chip.ord.busy = false ∧ t + 100000000 < 2 ^ 64) :=
  ⟨⟨(wst), ls, by decide +kernel⟩,
   ⟨(wst fun p => { p with straps := 3 }), ls, by decide +kernel⟩,
   ⟨(on fun c => c.modPrs fun p => { p with sessions := [(0, some { ls with seq := 2 ^ 48 })], linkUp := [0] }), { ls with seq := 2 ^ 48 }, by decide +kernel⟩,
   ⟨(wst fun p => { p with straps := 4, sessions := [(0, some ls)], linkUp := [1] }), 1, 0, by decide +kernel⟩,
   ⟨(wst (mem [(0, { present := true, heard := 77 }), (3, { present := true })])), 0, by decide +kernel⟩,
   ⟨(wst), 0, (List.replicate 59 0), ls, by and_intros <;> first | exact wfc_whole _ | decide +kernel⟩,
   ⟨(wst), 0, (wfc []), ls, by and_intros <;> first | exact wfc_whole _ | decide +kernel⟩,
   ⟨(wf 5 .active), 1, (wfc ((ack2 3 5).set 20 1)), ls, by and_intros <;> first | exact wfc_whole _ | decide +kernel⟩,
   ⟨(wml 1 2), by decide +kernel⟩,
   ⟨(wmf true), by unfold Chip.logs Chip.orderFree; decide +kernel⟩,
   ⟨(wmf false), by unfold Chip.orderFree; decide +kernel⟩,
   ⟨(wmf true), 40, by unfold Chip.orderFree; decide +kernel⟩,
   ⟨(wmf false), 40, by unfold Chip.orderFree; decide +kernel⟩,
   ⟨(wsr [] [0]), 1, 40, by unfold Chip.orderFree; decide +kernel⟩,
   ⟨(wsr [(1, { present := true, hops0 := 3, heard0 := some 0 })] [0, 1]), 1, 12288, by unfold Chip.orderFree; decide +kernel⟩,
   ⟨wrt, 3, 55, by decide +kernel⟩⟩

end W30

namespace W31

def nop16 : Bytes := [0x01, 0x05, 4, 0, 0, 0, 0, 0, 1, 0, 0, 0, 0, 0, 0, 0]
def wob (r : Nat) (f : Chip → Chip := id) := on fun c => f ((((((c.setF F.HIF_RING_CFG_en [r] 1).setF F.HIF_RING_CFG_log2size [r] 4).setF F.HIF_RING_CFG_en [r+4] 1).setF F.HIF_RING_CFG_log2size [r+4] 4).setRing r { drv := 3, own := 2 }).setRing (r+4) {drv := 5, own := 19})
def dsc (e len : Nat) : Bytes := [BitVec.ofNat 8 e, 0, 0, 0] ++ leBytes 4 len ++ List.replicate 8 9 ++ leBytes 8 0x1122334455667788 ++ List.replicate 8 0
def wim := wob 1 fun c => c.setTarget 8 { active := some img }
def wrec := on fun c => (c.memWrite ordLocal [4, 5, 0, 0, 0, 0, 0, 0]).modOrd fun o => { o with busy := true, ring := 1, paramLen := 8 }

/-- The hypotheses of `Obligations.OrderBlocks`, clause by clause, are met together. -/
theorem witness_OrderBlocks :
    (∃ (s : State) (ring : Fin 4) (desc : Bytes), s.chip.ordIdle = true ∧ s.chip.ctl.zeroizing = none ∧ s.chip.ord.staged = [] ∧
      s.chip.ord.regWrites = [] ∧ s.chip.ord.discardCompletion = false ∧ s.chip.dmaAllowed 0 = true ∧ (List.find?
      s.chip.canFetch (List.map (fun i => (s.chip.ord.lastRing + 1 + i) % 4) (List.range 4)) = some ring.val) ∧ List.length desc
      = 32 ∧ s.chip.su.failed = true) ∧
    (∃ (s : State) (ring : Fin 4) (desc : Bytes), s.chip.ordIdle = true ∧ s.chip.ctl.zeroizing = none ∧ s.chip.ord.staged = [] ∧
      s.chip.ord.regWrites = [] ∧ s.chip.ord.discardCompletion = false ∧ s.chip.dmaAllowed 0 = true ∧ (List.find?
      s.chip.canFetch (List.map (fun i => (s.chip.ord.lastRing + 1 + i) % 4) (List.range 4)) = some ring.val) ∧ List.length desc
      = 32 ∧ s.chip.su.failed = false ∧ 12288 < leNat (slice desc 4 4)) ∧
    (∃ (s : State) (ring : Fin 4) (desc : Bytes), s.chip.ordIdle = true ∧ s.chip.ctl.zeroizing = none ∧ s.chip.ord.staged = [] ∧
      s.chip.ord.regWrites = [] ∧ s.chip.ord.discardCompletion = false ∧ s.chip.dmaAllowed 0 = true ∧ (List.find?
      s.chip.canFetch (List.map (fun i => (s.chip.ord.lastRing + 1 + i) % 4) (List.range 4)) = some ring.val) ∧ List.length desc
      = 32 ∧ s.chip.su.failed = false ∧ leNat (slice desc 1 3) ≠ 0) ∧
    (∃ (s : State) (ring : Fin 4) (desc : Bytes), s.chip.ordIdle = true ∧ s.chip.ctl.zeroizing = none ∧ s.chip.ord.staged = [] ∧
      s.chip.ord.regWrites = [] ∧ s.chip.ord.discardCompletion = false ∧ s.chip.dmaAllowed 0 = true ∧ (List.find?
      s.chip.canFetch (List.map (fun i => (s.chip.ord.lastRing + 1 + i) % 4) (List.range 4)) = some ring.val) ∧ List.length desc
      = 32 ∧ s.chip.su.failed = false ∧ leNat (slice desc 24 8) ≠ 0) ∧
    (∃ (s : State) (ring : Fin 4) (desc : Bytes), s.chip.ordIdle = true ∧ s.chip.ctl.zeroizing = none ∧ s.chip.ord.staged = [] ∧
      s.chip.ord.regWrites = [] ∧ s.chip.ord.discardCompletion = false ∧ s.chip.dmaAllowed 0 = true ∧ (List.find?
      s.chip.canFetch (List.map (fun i => (s.chip.ord.lastRing + 1 + i) % 4) (List.range 4)) = some ring.val) ∧ List.length desc
      = 32 ∧ s.chip.su.failed = false ∧ leNat (slice desc 4 4) = 0 ∧ leNat (slice desc 1 3) = 0 ∧ leNat (slice desc 24 8) = 0 ∧
      leNat (slice desc 0 1) = 0) ∧
    (∃ (s : State) (ring : Fin 4) (desc : Bytes) (params : Bytes), s.chip.ordIdle = true ∧ s.chip.ctl.zeroizing = none ∧
      s.chip.ord.staged = [] ∧ s.chip.ord.regWrites = [] ∧ s.chip.ord.discardCompletion = false ∧ s.chip.dmaAllowed 0 = true ∧
      (List.find? s.chip.canFetch (List.map (fun i => (s.chip.ord.lastRing + 1 + i) % 4) (List.range 4)) = some ring.val) ∧
      List.length desc = 32 ∧ s.chip.su.failed = false ∧ 0 < leNat (slice desc 4 4) ∧ leNat (slice desc 4 4) ≤ 12288 ∧
      List.length params = leNat (slice desc 4 4) ∧ leNat (slice desc 1 3) = 0 ∧ leNat (slice desc 24 8) = 0 ∧ leNat (slice desc
      0 1) ≠ 0 ∧ (s.chip.target 8).active = none) ∧
    (∃ (s : State) (ring : Fin 4) (desc : Bytes) (params : Bytes) (i : Image) (a : Nat), s.chip.ordIdle = true ∧
      s.chip.ctl.zeroizing = none ∧ s.chip.ord.staged = [] ∧ s.chip.ord.regWrites = [] ∧ s.chip.ord.discardCompletion = false ∧
      s.chip.dmaAllowed 0 = true ∧ (List.find? s.chip.canFetch (List.map (fun i => (s.chip.ord.lastRing + 1 + i) % 4)
      (List.range 4)) = some ring.val) ∧ List.length desc = 32 ∧ s.chip.su.failed = false ∧ 0 < leNat (slice desc 4 4) ∧ leNat
      (slice desc 4 4) ≤ 12288 ∧ List.length params = leNat (slice desc 4 4) ∧ leNat (slice desc 1 3) = 0 ∧ leNat (slice desc 24
      8) = 0 ∧ leNat (slice desc 0 1) ≠ 0 ∧ (s.chip.target 8).active = some i ∧ i.entries[leNat (slice desc 0 1) - 1]? = some a)
      ∧
    (∃ (s : State) (ring : Fin 4) (desc : Bytes) (params : Bytes), s.chip.ordIdle = true ∧ s.chip.ctl.zeroizing = none ∧
      s.chip.ord.staged = [] ∧ s.chip.ord.regWrites = [] ∧ s.chip.ord.discardCompletion = false ∧ s.chip.dmaAllowed 0 = true ∧
      (List.find? s.chip.canFetch (List.map (fun i => (s.chip.ord.lastRing + 1 + i) % 4) (List.range 4)) = some ring.val) ∧
      List.length desc = 32 ∧ s.chip.su.failed = false ∧ 0 < leNat (slice desc 4 4) ∧ leNat (slice desc 4 4) ≤ 12288 ∧
      List.length params = leNat (slice desc 4 4) ∧ leNat (slice desc 1 3) = 0 ∧ leNat (slice desc 24 8) = 0 ∧ leNat (slice desc
      0 1) = 0 ∧ params = [1, 5, 4, 0, 0, 0, 0, 0, 1, 0, 0, 0, 0, 0, 0, 0]) ∧
    (∃ (s : State) (params : Bytes), s.chip.ringsServed = true ∧ s.chip.ordIdle = true ∧ s.chip.isMaster = false ∧ params = [1,
      5, 4, 0, 0, 0, 0, 0, 1, 0, 0, 0, 0, 0, 0, 0]) ∧
    (∃ (s : State), s.chip.isMaster = true) ∧
    (∃ (s : State) (kid : Word), s.chip.ord.busy = true ∧ s.chip.ord.entry = 0 ∧ s.chip.ord.wait = OrdWait.none ∧
      s.chip.ord.ended = none ∧ s.chip.ord.callReg = none ∧ s.chip.ctl.zeroizing = none ∧ s.chip.recordIs 1281 (w4 kid) = false)
      ∧
    (∃ (s : State), s.chip.ord.busy = true ∧ s.chip.ord.entry = 0 ∧ s.chip.ord.wait = OrdWait.none ∧ s.chip.ord.ended = none ∧
      s.chip.ord.callReg = none ∧ s.chip.ctl.zeroizing = none ∧ s.chip.recordIs 1284 [] = true ∧ leNat (s.chip.memBytes
      (ordLocal + s.chip.ord.pos + 2) 2) = 0 ∧ s.chip.ctl.mode = Mode.active ∧ s.chip.ord.paramLen = s.chip.ord.pos + 8) :=
  ⟨⟨(wob 1 fun c => { c with su := { c.su with failed := true } }), 1, (dsc 0 16), by decide +kernel⟩,
   ⟨(wob 0), 0, (dsc 0 12289), by decide +kernel⟩,
   ⟨(wob 1), 1, ((dsc 0 16).set 2 1), by decide +kernel⟩,
   ⟨(wob 1), 1, ((dsc 0 16).set 31 1), by decide +kernel⟩,
   ⟨(wob 3), 3, (dsc 0 0), by decide +kernel⟩,
   ⟨(wob 1), 1, (dsc 255 16), nop16, by decide +kernel⟩,
   ⟨wim, 1, (dsc 2 12288), ((List.range 12288).map (BitVec.ofNat 8)), img, 8, by decide +kernel⟩,
   ⟨(wob 2), 2, (dsc 0 16), nop16, by decide +kernel⟩,
   ⟨(on fun c => c.modPrs fun p => { p with straps := 3 }), nop16, by decide +kernel⟩,
   ⟨(on id), by decide +kernel⟩,
   ⟨wrec, 5, by decide +kernel⟩,
   ⟨wrec, by decide +kernel⟩⟩

end W31

end Sys2Proof.Tests
end

/-! PROOFS. Look-aside requests (chapters 02 and 04): what the buffer, the Pans and the rings leave unchanged when they serve
one, its fetch, its admission and its completion, and from these O44. -/
namespace Sys2Proof.Machine

/-! ### Sequences and conditions -/

/-- A property that every round of a sequence keeps holds after the sequence. -/
theorem Chip.each_induct {α : Type} {P : Chip → Prop} {f : Chip → α → Chip} {c : Chip} (l : List α) (hc : P c)
    (h : ∀ d x, P d → P (f d x)) : P (c.each l f) := by
  induction l generalizing c with
  | nil => exact hc
  | cons x l ih => exact ih (h c x hc)

/-- A property that an operation keeps holds after the operation under a condition. -/
theorem Chip.when_induct {P : Chip → Prop} {f : Chip → Chip} {c : Chip} (b : Bool) (hc : P c) (h : P c → P (f c)) :
    P (c.when b f) := by
  cases b
  · exact hc
  · exact h hc

/-! ### The buffer: what its operations leave unchanged (R276 to R285)

Each lemma extends a change of the buffer that has led from `a` to `c` by one operation more. -/

/-- A key of the register file outside the registers of the recorder and of the buffer. -/
abbrev farKey (k : Nat) : Prop := k < 0x030000 * 32 ∨ 0x040000 * 32 ≤ k ∧ k < 0x500000 * 32

/-- A change of the buffer: beyond it only events, open values, and registers of the recorder and of the buffer change. -/
def Chip.onlyBuffer (c d : Chip) : Prop :=
  d = { c with regs := d.regs, evr := d.evr, buf := d.buf, free := d.free } ∧
    ∀ k, farKey k → SMap.get regReset d.regs k = SMap.get regReset c.regs k

namespace Chip.onlyBuffer

variable {a c : Chip}

theorem refl (c : Chip) : c.onlyBuffer c := ⟨rfl, fun _ _ => rfl⟩

theorem getF_eq (h : a.onlyBuffer c) (f : Fld) (i : List Nat) (hk : farKey (f.key i)) : c.getF f i = a.getF f i := by
  simp only [Chip.getF, h.2 _ hk]

theorem modBuf (h : a.onlyBuffer c) (f : Buffer → Buffer) : a.onlyBuffer (c.modBuf f) :=
  ⟨by rw [Chip.modBuf, h.1], h.2⟩

theorem draw (h : a.onlyBuffer c) : a.onlyBuffer c.draw.2 := ⟨by rw [Chip.draw, h.1], h.2⟩

theorem events (h : a.onlyBuffer c) (e : Recorder) : a.onlyBuffer { c with evr := e } := ⟨by rw [h.1], h.2⟩

theorem setF (h : a.onlyBuffer c) {f : Fld} {i : List Nat} (hk : ¬ farKey (f.key i)) (v : Nat) :
    a.onlyBuffer (c.setF f i v) := by
  refine ⟨by rw [Chip.setF, h.1], fun k hf => ?_⟩
  have hne : k ≠ f.key i := fun e => hk (e ▸ hf)
  rw [Chip.setF_regs, SMap.get_set_other hne, h.2 k hf]

theorem bump (h : a.onlyBuffer c) {f : Fld} {i : List Nat} (hk : ¬ farKey (f.key i)) (n : Nat) :
    a.onlyBuffer (c.bump f i n) := h.setF hk _

theorem suppress (h : a.onlyBuffer c) {code : Nat} (hc : code < 0x3000) : a.onlyBuffer (c.suppress code) := by
  have hk : ¬ farKey (F.EVR_CODE_CFG_supp_total.key [code]) := by
    simp only [farKey, Fld.key, F.EVR_CODE_CFG_supp_total, dotStrides]
    omega
  exact (((h.events _).bump hk 1).bump (by decide) 1).setF (by decide) 1

theorem raise (h : a.onlyBuffer c) {code : Nat} (hc : code < 0x3000) (src : Nat) (items : List (Nat × Nat)) :
    a.onlyBuffer (c.raise code src items) := by
  simp only [Chip.raise]
  split_ifs
  · exact h.suppress hc
  all_goals exact h.events _

theorem leafInit (h : a.onlyBuffer c) (leaf : Nat) : a.onlyBuffer (c.leafInit leaf) := by
  rw [Chip.leafInit]
  exact h.draw.modBuf _

theorem mapLeaf (h : a.onlyBuffer c) (leaf : Nat) : a.onlyBuffer (c.mapLeaf leaf) := h.modBuf _

theorem nodeBad (h : a.onlyBuffer c) (level node : Nat) : a.onlyBuffer (c.nodeBad level node) := by
  have hevent := ((h.bump (f := F.MEM_NODE_FAIL_CNT_count) (i := []) (by decide) 1).setF
    (f := F.MEM_STAT_node_fail) (i := []) (by decide) 1).raise (code := Ev.MEM_NODE_FAIL) (by decide) 0x580
    [(4, level), (4, node)]
  simp only [Chip.nodeBad]
  generalize Chip.raise _ _ _ _ = d at hevent ⊢
  split_ifs
  · exact (hevent.leafInit node).mapLeaf node
  · exact (hevent.leafInit node).modBuf _
  · exact (hevent.modBuf _).mapLeaf node
  · exact (hevent.modBuf _).modBuf _

theorem leafTake (h : a.onlyBuffer c) (leaf : Nat) : a.onlyBuffer (c.leafTake leaf) := by
  simp only [Chip.leafTake]
  split
  · exact h
  · split_ifs
    · exact h
    · exact ((each_induct _ (h.modBuf _) fun _ _ hd => hd.modBuf _).leafInit leaf).mapLeaf leaf

theorem leafTouch (h : a.onlyBuffer c) (leaf : Nat) : a.onlyBuffer (c.leafTouch leaf) := by
  simp only [Chip.leafTouch]
  split
  · exact (h.leafTake leaf).modBuf _
  · exact ((((h.leafTake leaf).modBuf _).nodeBad _ _).leafTake leaf).modBuf _

theorem minorOverflow (h : a.onlyBuffer c) (leaf : Nat) : a.onlyBuffer (c.minorOverflow leaf) := by
  simp only [Chip.minorOverflow]
  refine (each_induct (P := a.onlyBuffer) _ (h.modBuf _) fun d e hd => ?_).bump (by decide) 1
  split
  · exact hd.modBuf _
  · exact hd

theorem lineWrite (h : a.onlyBuffer c) (kid line : Nat) (d : Bytes) : a.onlyBuffer (c.lineWrite kid line d) := by
  simp only [Chip.lineWrite]
  split_ifs
  · exact h
  · exact (when_induct _ (h.leafTouch _) fun hc => hc.minorOverflow _).modBuf _

theorem linesWrite (h : a.onlyBuffer c) (kid : Nat) (l : List Nat) (d : Bytes) :
    a.onlyBuffer (c.linesWrite kid l d) :=
  each_induct _ h fun _ _ hd => hd.lineWrite kid _ _

theorem lineRead (h : a.onlyBuffer c) (kid line : Nat) : a.onlyBuffer (c.lineRead kid line).2 := by
  simp only [Chip.lineRead]
  split
  · exact h.leafTouch _
  · exact (h.leafTouch _).setF (by decide) 1

theorem linesRead (h : a.onlyBuffer c) (kid : Nat) (l : List Nat) : a.onlyBuffer (c.linesRead kid l).2 := by
  induction l generalizing c with
  | nil => exact h
  | cons i l ih => exact ih (h.lineRead kid i)

end Chip.onlyBuffer

/-! ### The Pans: what dispatch leaves unchanged (R94 to R105) -/

/-- A change of the Pans alone. -/
def Chip.onlyPan (c d : Chip) : Prop := d = { c with pan := d.pan }

namespace Chip.onlyPan

variable {a c : Chip}

theorem refl (c : Chip) : c.onlyPan c := rfl

theorem modPan (h : a.onlyPan c) (f : Pans → Pans) : a.onlyPan (c.modPan f) := by
  rw [Chip.onlyPan, Chip.modPan, h]

theorem setPanReq (h : a.onlyPan c) (k : Nat) (v : Option PanReq) : a.onlyPan (c.setPanReq k v) := h.modPan _

theorem cacheUse (h : a.onlyPan c) (j slot gen : Nat) : a.onlyPan (c.cacheUse j slot gen) := by
  simp only [Chip.cacheUse]
  split
  · exact h
  · exact h.modPan _

theorem redispatch (h : a.onlyPan c) : a.onlyPan c.redispatch := by
  simp only [Chip.redispatch]
  refine each_induct _ h fun d e hd => ?_
  split
  · exact (hd.setPanReq _ _).cacheUse _ _ _
  · exact hd

theorem panDone (h : a.onlyPan c) (k : Nat) : a.onlyPan (c.panDone k) := (h.setPanReq k none).redispatch

/-- The service of a look-aside request marks requests in the Pans, and nothing more. -/
theorem of_laServe {n : Nat} {q : PanReq} {d : Chip} (h : c.laServe n q = some d) : c.onlyPan d := by
  simp only [Chip.laServe] at h
  split_ifs at h
  · exact Option.some.inj h ▸ refl c
  · exact Option.some.inj h ▸ each_induct _ (refl c) fun _ _ hd => hd.setPanReq _ _

end Chip.onlyPan

theorem Chip.panReq_setPanReq (c : Chip) (k : Nat) (v : Option PanReq) : (c.setPanReq k v).panReq k = v := by
  simp [Chip.panReq, Chip.setPanReq]

/-- The key cache of a Pan holds no request. -/
theorem Chip.panReq_cacheUse (c : Chip) (j slot gen n : Nat) : (c.cacheUse j slot gen).panReq n = c.panReq n := by
  simp only [Chip.cacheUse]
  split <;> rfl

/-- Admission gives a request the next number and, when a Pan takes it, its key a place in that Pan's cache: beyond that only
performance counters change. -/
theorem Chip.panAdmit_spec {c d : Chip} {kind : ReqKind} {slot gen subject seq blocks : Nat}
    (hd : c.panAdmit kind slot gen subject seq blocks = d) :
    d = { c with regs := d.regs, pan := d.pan, path := { c.path with reqNext := c.path.reqNext + 1 } } ∧
      (∀ k, d.laReq k = c.laReq k) ∧
      ∃ q, d.panReq c.path.reqNext = some q ∧ q.kind = kind ∧ q.subject = subject := by
  simp only [Chip.panAdmit] at hd
  generalize hq : some _ = entry at hd
  generalize he : Chip.setPanReq _ _ _ = e at hd
  generalize hf : e.when _ _ = f at hd
  have hperf : e.onlyRegs f := hf ▸ Chip.when_onlyRegs (fun x => Chip.perfQuad_onlyRegs x _ _) e _
  have hcache : f.onlyPan d := hd ▸ Chip.when_induct _ (Chip.onlyPan.refl f) fun h => h.cacheUse _ _ _
  have hreq : d.panReq c.path.reqNext = f.panReq c.path.reqNext := by
    rw [← hd]
    exact Chip.when_keeps (g := fun x => x.panReq c.path.reqNext) (fun x => Chip.panReq_cacheUse x _ _ _ _) f _
  have hframe : d = { c with regs := d.regs, pan := d.pan, path := { c.path with reqNext := c.path.reqNext + 1 } } := by
    rw [hcache, hperf, ← he]
    rfl
  refine ⟨hframe, fun k => ?_, ?_⟩
  · rw [hframe]
    rfl
  · rw [hreq, hperf, ← he, ← hq]
    exact ⟨_, Chip.panReq_setPanReq _ _ _, rfl, rfl⟩

/-! ### DMA, messages and rings (R516 to R524) -/

/-- Writes and messages for the host: the rings' counts stand, and what was given before is given. -/
def Chip.gives (c d : Chip) : Prop :=
  d = { c with hif := d.hif, out := d.out } ∧ d.hif.rings = c.hif.rings ∧ ∀ o ∈ c.out, o ∈ d.out

namespace Chip.gives

variable {a c : Chip}

theorem refl (c : Chip) : c.gives c := ⟨rfl, rfl, fun _ h => h⟩

theorem ring_eq (h : a.gives c) (r : Nat) : c.ring r = a.ring r := by simp only [Chip.ring, h.2.1]

/-- A change of the host interface that leaves the rings. -/
theorem hostIf (h : a.gives c) {f : HostIf} (hf : f.rings = c.hif.rings) : a.gives { c with hif := f } :=
  ⟨by rw [h.1], hf.trans h.2.1, h.2.2⟩

theorem emit (h : a.gives c) (o : Output) : a.gives (c.emit o) :=
  ⟨by rw [Chip.emit, h.1], h.2.1, fun x hx => List.mem_append_left _ (h.2.2 x hx)⟩

theorem dma (h : a.gives c) (fn : Nat) (o : Output) : a.gives (c.dma fn o) := by
  simp only [Chip.dma]
  split_ifs
  · exact h.emit o
  · exact h.hostIf rfl

theorem msixSignal (h : a.gives c) (fn v : Nat) : a.gives (c.msixSignal fn v) := by
  simp only [Chip.msixSignal]
  split_ifs
  · exact h.hostIf rfl
  · exact h.hostIf rfl
  · exact (h.dma fn _).hostIf rfl
  · exact h.dma fn _

theorem signal (h : a.gives c) (s : Nat) : a.gives (c.signal s) := by
  simp only [Chip.signal]
  split_ifs
  · exact h.msixSignal 0 _
  · exact h

end Chip.gives

/-- The part advances its own count of a ring that has an owner; the rest is writes and messages for the host. -/
theorem Chip.ringAdvance_gives {c : Chip} {r fn : Nat} (h : c.ringOwner r = some fn) (n : Nat) :
    (c.setRing r { c.ring r with own := (c.ring r).own + BitVec.ofNat 32 n }).gives (c.ringAdvance r n) := by
  simp only [Chip.ringAdvance, h]
  split_ifs
  · exact ((Chip.gives.refl _).dma fn _).signal _
  · exact (((Chip.gives.refl _).dma fn _).signal _).msixSignal fn _

/-- An entry that the part writes into an enabled ring of an owner whose DMA is not gated: it is given, the ring's own
count has advanced, and beyond the host interface and what is given nothing has changed. -/
theorem Chip.ringPush_spec {c d : Chip} {r fn : Nat} {entry : Bytes} (hd : c.ringPush r entry = d)
    (hen : c.ringEn r = true) (hown : c.ringOwner r = some fn) (hdma : c.dmaAllowed fn = true) :
    d = { c with hif := d.hif, out := d.out } ∧ d.ring r = { c.ring r with own := (c.ring r).own + 1 } ∧
      .hostWrite fn (c.ringBase r + (c.ring r).own.toNat % c.ringSize r * ringEntry r) entry ∈ d.out ∧
      ∀ o ∈ c.out, o ∈ d.out := by
  simp only [Chip.ringPush, hen, if_true, hown, Chip.dma_allowed hdma] at hd
  generalize hw : Output.hostWrite fn _ entry = w at hd ⊢
  have hown' : (c.emit w).ringOwner r = some fn := hown
  obtain ⟨hframe, hrings, hout⟩ := hd ▸ Chip.ringAdvance_gives hown' 1
  refine ⟨hframe, ?_, hout w (List.mem_append_right _ (List.mem_singleton_self w)),
    fun o ho => hout o (List.mem_append_left _ ho)⟩
  simp only [Chip.ring, hrings, Chip.setRing_hif, SMap.get_set_same]
  rfl

/-- A completion, as `ringPush_spec`: the reservation has ended, too (R519). -/
theorem Chip.ringComplete_spec {c d : Chip} {r fn : Nat} {entry : Bytes} (hd : c.ringComplete r entry = d)
    (hen : c.ringEn r = true) (hown : c.ringOwner r = some fn) (hdma : c.dmaAllowed fn = true) :
    d = { c with hif := d.hif, out := d.out } ∧
      d.ring r = { c.ring r with reserved := (c.ring r).reserved - 1, own := (c.ring r).own + 1 } ∧
      .hostWrite fn (c.ringBase r + (c.ring r).own.toNat % c.ringSize r * ringEntry r) entry ∈ d.out ∧
      ∀ o ∈ c.out, o ∈ d.out := by
  have h := Chip.ringPush_spec (c := c.setRing r { c.ring r with reserved := (c.ring r).reserved - 1 }) hd hen hown hdma
  rw [Chip.ring_setRing, if_pos rfl] at h
  exact h

/-! ### What a completion reads of the block -/

/-- The host interface, the statistics, the vault and the registers below the recorder's are as they were. -/
def Chip.sameHost (c d : Chip) : Prop :=
  d.hif = c.hif ∧ d.cnt = c.cnt ∧ d.vlt = c.vlt ∧
    ∀ k, k < 0x030000 * 32 → SMap.get regReset d.regs k = SMap.get regReset c.regs k

namespace Chip.sameHost

variable {a c d : Chip}

theorem trans (h : a.sameHost c) (g : c.sameHost d) : a.sameHost d := by
  obtain ⟨h1, h2, h3, h4⟩ := h
  obtain ⟨g1, g2, g3, g4⟩ := g
  exact ⟨g1.trans h1, g2.trans h2, g3.trans h3, fun k hk => (g4 k hk).trans (h4 k hk)⟩

theorem of_onlyPan (h : c.onlyPan d) : c.sameHost d := by
  rw [h]
  exact ⟨rfl, rfl, rfl, fun _ _ => rfl⟩

theorem of_onlyBuffer (h : c.onlyBuffer d) : c.sameHost d := by
  refine ⟨?_, ?_, ?_, fun k hk => h.2 k (.inl hk)⟩ <;> rw [h.1]

theorem setLa (h : a.sameHost c) (n : Nat) (v : Option LaReq) : a.sameHost (c.setLa n v) := h

theorem getF_eq (h : c.sameHost d) (f : Fld) (i : List Nat) (hk : f.key i < 0x030000 * 32) : d.getF f i = c.getF f i := by
  simp only [Chip.getF, h.2.2.2 _ hk]

theorem ring_eq (h : c.sameHost d) (r : Nat) : d.ring r = c.ring r := by simp only [Chip.ring, h.1]

theorem cntGet_eq (h : c.sameHost d) (s : Bool) (i : Nat) : d.cntGet s i = c.cntGet s i := by
  simp only [Chip.cntGet, h.2.1]

theorem dmaAllowed_eq (h : c.sameHost d) (fn : Nat) : d.dmaAllowed fn = c.dmaAllowed fn := by
  simp only [Chip.dmaAllowed, Chip.getB, h.1, h.getF_eq F.HIF_IDE_CFG_required [] (by decide),
    h.getF_eq F.HIF_IDE_STAT_state [] (by decide)]

/-- The registers of the 256 rings lie below the recorder's. -/
theorem getF_ring (h : c.sameHost d) {f : Fld} {r : Nat} (hr : r < 256) (hb : f.base < 0x025000 * 32)
    (hs : f.strides = [0x40 * 32]) : d.getF f [r] = c.getF f [r] := by
  refine h.getF_eq f [r] ?_
  simp only [Fld.key, hs, dotStrides]
  omega

theorem ringEn_eq (h : c.sameHost d) {r : Nat} (hr : r < 256) : d.ringEn r = c.ringEn r := by
  simp only [Chip.ringEn, Chip.getB, h.getF_ring hr (f := F.HIF_RING_CFG_en) (by decide) rfl]

theorem ringSize_eq (h : c.sameHost d) {r : Nat} (hr : r < 256) : d.ringSize r = c.ringSize r := by
  simp only [Chip.ringSize, h.getF_ring hr (f := F.HIF_RING_CFG_log2size) (by decide) rfl]

theorem ringBase_eq (h : c.sameHost d) {r : Nat} (hr : r < 256) : d.ringBase r = c.ringBase r := by
  simp only [Chip.ringBase, h.getF_ring hr (f := F.HIF_RING_BASE_HI_base) (by decide) rfl,
    h.getF_ring hr (f := F.HIF_RING_BASE_LO_base) (by decide) rfl]

theorem ringOwner_eq (h : c.sameHost d) (r : Nat) : d.ringOwner r = c.ringOwner r := by
  have hk : F.HIF_LA_OWNER_function.key [(r - 64) % 96] < 0x030000 * 32 := by
    simp only [Fld.key, F.HIF_LA_OWNER_function, dotStrides]
    omega
  simp only [Chip.ringOwner, h.getF_eq _ _ hk]

end Chip.sameHost

/-! ### The completion of a look-aside request (R57, R58, R112) -/

@[simp] theorem Chip.laReq_setLa (c : Chip) (n : Nat) (v : Option LaReq) : (c.setLa n v).laReq n = v := by
  simp [Chip.laReq, Chip.setLa]

theorem Chip.cntGet_when_count (c : Chip) (b : Bool) (i j n : Nat) :
    (c.when b fun d => d.count false i n).cntGet false j =
      if b = true ∧ j = i then c.cntGet false j + BitVec.ofNat 64 n else c.cntGet false j := by
  cases b <;> simp [Chip.cntGet_count]

/-- A change of the statistics alone. -/
def Chip.onlyCnt (c d : Chip) : Prop := d = { c with cnt := d.cnt }

theorem Chip.onlyCnt.count {a c : Chip} (h : a.onlyCnt c) (i n : Nat) : a.onlyCnt (c.count false i n) := by
  rw [Chip.onlyCnt, h]
  rfl

theorem Chip.laCount_onlyCnt (c : Chip) (r : LaReq) (st : Nat) : c.onlyCnt (c.laCount r st) := by
  simp only [Chip.laCount]
  have h₀ : c.onlyCnt c := rfl
  exact when_induct _ (when_induct _ (when_induct _ (h₀.count _ 1) fun h => h.count _ _) fun h => h.count _ _) fun h =>
    h.count _ _

/-- A completion raises the function's counter of completions (Table 02.12). -/
theorem Chip.cntGet_laCount_completions (c : Chip) (r : LaReq) (st : Nat) :
    (c.laCount r st).cntGet false (0x4000 + r.fn * 8) = c.cntGet false (0x4000 + r.fn * 8) + 1 := by
  simp only [Chip.laCount]
  rw [Chip.cntGet_when_count, Chip.cntGet_when_count, Chip.cntGet_when_count, Chip.cntGet_count]
  rw [if_neg (by omega), if_neg (by omega), if_neg (by omega), if_pos ⟨rfl, rfl⟩]
  rfl

/-- It raises the function's counter of failed tags when its status is 1. -/
theorem Chip.cntGet_laCount_tagFails (c : Chip) (r : LaReq) (st : Nat) :
    (c.laCount r st).cntGet false (0x4000 + r.fn * 8 + 2) =
      c.cntGet false (0x4000 + r.fn * 8 + 2) + (if st = 1 then 1 else 0) := by
  simp only [Chip.laCount]
  rw [Chip.cntGet_when_count, Chip.cntGet_when_count, Chip.cntGet_when_count, Chip.cntGet_count]
  rw [if_neg (by omega), if_neg (c := _ ∧ _ = _ + 1) (by omega), if_neg (c := _ ∧ _ = 0x4000 + r.fn * 8) (by omega)]
  by_cases hst : st = 1
  · rw [if_pos ⟨decide_eq_true hst, rfl⟩, if_pos hst]
    rfl
  · rw [if_neg (by simp [hst]), if_neg hst]
    simp

/-- The completion ring of the request's pair can take its completion: enabled, owned by its function, DMA not gated. -/
def Chip.laReady (c : Chip) (r : LaReq) : Prop :=
  r.pair < 96 ∧ c.dmaAllowed r.fn = true ∧ c.ringOwner (160 + r.pair) = some r.fn ∧ c.ringEn (160 + r.pair) = true

theorem Chip.laReady.of_sameHost {c d : Chip} {r : LaReq} (h : c.sameHost d) (hr : c.laReady r) : d.laReady r := by
  obtain ⟨hp, hdma, hown, hen⟩ := hr
  exact ⟨hp, by rwa [h.dmaAllowed_eq], by rwa [h.ringOwner_eq], by rwa [h.ringEn_eq (by omega)]⟩

/-- From `c` to `d`, request `n` has completed with an output and a status: the output and the completion are given, the
completion ring and the function's counters have advanced. -/
def Chip.laDone (c : Chip) (n : Nat) (r : LaReq) (out : Bytes) (st : Nat) (d : Chip) : Prop :=
  d.laReq n = none ∧ (out ≠ [] → .hostWrite r.fn r.dst out ∈ d.out) ∧
  .hostWrite r.fn (c.ringBase (160 + r.pair) + (c.ring (160 + r.pair)).own.toNat % c.ringSize (160 + r.pair) * 32)
    (completion r.cookie st out.length (beBytes 12 r.iv.toNat)) ∈ d.out ∧
  (d.ring (160 + r.pair)).own = (c.ring (160 + r.pair)).own + 1 ∧
  (d.ring (160 + r.pair)).reserved = (c.ring (160 + r.pair)).reserved - 1 ∧
  d.cntGet false (0x4000 + r.fn * 8) = c.cntGet false (0x4000 + r.fn * 8) + 1 ∧
  d.cntGet false (0x4000 + r.fn * 8 + 2) = c.cntGet false (0x4000 + r.fn * 8 + 2) + (if st = 1 then 1 else 0)

/-- A completion looks the same from every block whose host interface and statistics are the same. -/
theorem Chip.laDone.of_sameHost {a c d : Chip} {n : Nat} {r : LaReq} {out : Bytes} {st : Nat} (h : a.sameHost c)
    (hp : r.pair < 96) (hd : c.laDone n r out st d) : a.laDone n r out st d := by
  simpa only [Chip.laDone, h.ringBase_eq (r := 160 + r.pair) (by omega), h.ringSize_eq (r := 160 + r.pair) (by omega),
    h.ring_eq, h.cntGet_eq] using hd

theorem ringEntry_laCompletion {p : Nat} (h : p < 96) : ringEntry (160 + p) = 32 := by
  have : ringKind (160 + p) = 8 := by
    simp only [ringKind]
    split_ifs <;> omega
  simp only [ringEntry, this]

/-- A completion of a request that no reset took: its Pan is done with it, it leaves, is counted, and gives its output and
then its completion. -/
theorem Chip.laFinish_eq (c : Chip) {n : Nat} {r : LaReq} (out : Bytes) (st : Nat) (hr : r.discarded = false) :
    ∃ c₁, c.onlyPan c₁ ∧ c.laFinish n r out st =
      (((c₁.setLa n none).laCount r st).when (!out.isEmpty) fun c => c.dma r.fn (.hostWrite r.fn r.dst out)).ringComplete
        (160 + r.pair) (completion r.cookie st out.length (beBytes 12 r.iv.toNat)) := by
  cases hreq : c.findReq (fun q => q.kind.lookAside && q.subject = n) with
  | none => exact ⟨c, Chip.onlyPan.refl c, by simp [Chip.laFinish, hreq, hr]⟩
  | some e => exact ⟨c.panDone e.1, (Chip.onlyPan.refl c).panDone _, by simp [Chip.laFinish, hreq, hr]⟩

/-- A write under a condition for a function whose DMA is not gated. -/
theorem Chip.when_dma_allowed {c : Chip} {fn : Nat} (h : c.dmaAllowed fn = true) (b : Bool) (o : Output) :
    (c.when b fun d => d.dma fn o) = { c with out := c.out ++ if b then [o] else [] } := by
  cases b
  · simp
  · simp [Chip.dma_allowed h, Chip.emit]

/-- The request leaves, is counted, and gives its output and its completion. -/
theorem Chip.laFinish_spec {c d : Chip} {n : Nat} {r : LaReq} {out : Bytes} {st : Nat} (hr : r.discarded = false)
    (hready : c.laReady r) (hd : c.laFinish n r out st = d) : c.laDone n r out st d ∧ d.vlt = c.vlt := by
  obtain ⟨c₁, hpan, hfin⟩ := c.laFinish_eq out st hr
  have hsame : c.sameHost (c₁.setLa n none) := (Chip.sameHost.of_onlyPan hpan).setLa n none
  obtain ⟨hp, hdma, hown, hen⟩ := hready.of_sameHost hsame
  have hla : (c₁.setLa n none).laReq n = none := Chip.laReq_setLa c₁ n none
  rw [hfin] at hd
  generalize c₁.setLa n none = c₂ at *
  have hdone := c₂.cntGet_laCount_completions r st
  have hfail := c₂.cntGet_laCount_tagFails r st
  rw [c₂.laCount_onlyCnt r st] at hd hdone hfail
  generalize (c₂.laCount r st).cnt = cnt at *
  rw [Chip.when_dma_allowed (by exact hdma)] at hd
  obtain ⟨hframe, hring, hwrite, hout⟩ := Chip.ringComplete_spec hd hen hown hdma
  refine ⟨.of_sameHost hsame hp ⟨?_, fun ho => hout _ ?_, ?_, ?_, ?_, ?_, ?_⟩, ?_⟩
  · rw [hframe]; exact hla
  · simp [ho]
  · rw [ringEntry_laCompletion hp] at hwrite; exact hwrite
  · rw [hring]; rfl
  · rw [hring]; rfl
  · rw [hframe]; exact hdone
  · rw [hframe]; exact hfail
  · rw [hframe]; exact hsame.2.2.1

theorem Chip.pair_of_mem_laOf {c : Chip} {p n : Nat} {r : LaReq} (h : (n, r) ∈ c.laOf p) : r.pair = p := by
  simp only [Chip.laOf, List.mem_filterMap] at h
  obtain ⟨e, -, he⟩ := h
  cases hv : e.2 with
  | none => simp [hv] at he
  | some q =>
    rw [hv, Option.bind_some] at he
    split_ifs at he with hq
    cases he
    exact hq

/-- The request of a Pan that executes look-aside request `n` has been served. -/
def Chip.laServed (c : Chip) (n : Nat) : Option Chip :=
  (c.findReq fun q => q.kind.lookAside && q.subject = n).bind fun q => c.laServe q.1 q.2

theorem Chip.onlyPan.of_laServed {c d : Chip} {n : Nat} (h : c.laServed n = some d) : c.onlyPan d := by
  obtain ⟨e, -, he⟩ := Option.bind_eq_some_iff.1 h
  exact .of_laServe he

section
variable {c : Chip} {p n : Nat} {r : LaReq} (hhead : (c.laOf p).head? = some (n, r))
include hhead

/-- A request with a status completes with it, and without output. -/
theorem Chip.laComplete_status {st : Nat} (hst : r.status = some st) : c.laComplete p = c.laFinish n r [] st := by
  simp only [Chip.laComplete, hhead, hst]

variable {k256 : Bool} {key : BitVec 256} {served : Chip} (hst : r.status = none) (hkey : r.key = some (k256, key))
  (hserved : c.laServed n = some served)
include hst hkey hserved

/-- Poison in the staging lines completes a served request as POISONED (R284). -/
theorem Chip.laComplete_poisoned (hread : (served.linesRead r.kid r.lines).1 = none) :
    c.laComplete p = (served.linesRead r.kid r.lines).2.laFinish n r [] 0xF := by
  unfold Chip.laServed at hserved
  generalize hd : served.linesRead r.kid r.lines = e at hread ⊢
  obtain ⟨x, d⟩ := e
  obtain rfl : x = none := hread
  simp only [Chip.laComplete, hhead, hst, hkey, hserved, hd]

/-- A served request whose staging lines are read gives its Pan's result. -/
theorem Chip.laComplete_result (hread : (served.linesRead r.kid r.lines).1.isSome = true) :
    c.laComplete p = (served.linesRead r.kid r.lines).2.laFinish n r (laResult r k256 key).1 (laResult r k256 key).2 := by
  unfold Chip.laServed at hserved
  generalize hd : served.linesRead r.kid r.lines = e at hread ⊢
  obtain ⟨x, d⟩ := e
  obtain ⟨y, rfl⟩ : ∃ y, x = some y := Option.isSome_iff_exists.1 hread
  simp only [Chip.laComplete, hhead, hst, hkey, hserved, hd]

end

theorem laResult_enc {r : LaReq} (h : r.enc = true) (k256 : Bool) (key : BitVec 256) :
    laResult r k256 key = (gcmXor k256 key r.iv r.msg ++
      beBytes 16 (Config.gcmTag k256 key r.iv r.aad (gcmXor k256 key r.iv r.msg)).toNat, 0) := by
  simp only [laResult, h, if_true]

theorem laResult_dec {r : LaReq} (h : r.enc = false) (k256 : Bool) (key : BitVec 256) :
    laResult r k256 key = (gcmXor k256 key r.iv (r.msg.take r.msgLen),
      if beBytes 16 (Config.gcmTag k256 key r.iv r.aad (r.msg.take r.msgLen)).toNat = r.msg.drop r.msgLen then 0 else 1) := by
  simp only [laResult, h, Bool.false_eq_true, if_false]

/-- What `laFinish_spec` says of a block that a served request's staging lines have been read from. -/
theorem Chip.laFinish_served {c served : Chip} {n : Nat} {r : LaReq} {out : Bytes} {st : Nat} (hr : r.discarded = false)
    (hready : c.laReady r) (hserved : c.laServed n = some served) :
    c.laDone n r out st ((served.linesRead r.kid r.lines).2.laFinish n r out st) ∧
      ((served.linesRead r.kid r.lines).2.laFinish n r out st).vlt = c.vlt := by
  have hsame := (Chip.sameHost.of_onlyPan (.of_laServed hserved)).trans
    (Chip.sameHost.of_onlyBuffer ((Chip.onlyBuffer.refl served).linesRead r.kid r.lines))
  obtain ⟨hdone, hvlt⟩ := Chip.laFinish_spec (out := out) (st := st) hr (hready.of_sameHost hsame) rfl
  exact ⟨hdone.of_sameHost hsame hready.1, hvlt.trans hsame.2.2.1⟩

/-! ### The bytes of a request -/

theorem length_slice (b : Bytes) (o n : Nat) : (slice b o n).length = n := by
  simp only [slice, List.length_append, List.length_replicate, List.length_take]
  omega

theorem slice_all {b : Bytes} {n : Nat} (h : b.length = n) : slice b 0 n = b := by
  simp [slice, ← h]

theorem leNat_lt (b : Bytes) : leNat b < 256 ^ b.length := by
  induction b with
  | nil => simp [leNat]
  | cons x b ih =>
    have hx := x.isLt
    rw [leNat, List.length_cons, Nat.pow_succ]
    omega

/-- A number of `n` bytes fits a word of as many. -/
theorem toNat_leNat_slice (b : Bytes) (o n w : Nat) (h : 256 ^ n = 2 ^ w) :
    (BitVec.ofNat w (leNat (slice b o n))).toNat = leNat (slice b o n) := by
  rw [BitVec.toNat_ofNat, Nat.mod_eq_of_lt]
  have := leNat_lt (slice b o n)
  rwa [length_slice, h] at this

theorem beNat_slice_lt (b : Bytes) (o n : Nat) : beNat (slice b o n) < 256 ^ n := by
  have := leNat_lt (slice b o n).reverse
  rwa [List.length_reverse, length_slice] at this

theorem toNat_beNat_slice (b : Bytes) (o n w : Nat) (h : 256 ^ n = 2 ^ w) :
    (BitVec.ofNat w (beNat (slice b o n))).toNat = beNat (slice b o n) := by
  rw [BitVec.toNat_ofNat, Nat.mod_eq_of_lt]
  rw [← h]
  exact beNat_slice_lt b o n

/-- A request is well formed: its operation is 1 with a zero IV field, or 2, and its reserved word is 0. -/
theorem laParse_wellFormed (b : Bytes) (p fn : Nat) :
    (laParse b p fn).2 = true ↔
      (leNat (slice b 0 4) = 1 ∧ beNat (slice b 48 12) = 0 ∨ leNat (slice b 0 4) = 2) ∧ leNat (slice b 60 4) = 0 := by
  have hiv : BitVec.ofNat 96 (beNat (slice b 48 12)) = 0 ↔ beNat (slice b 48 12) = 0 := by
    rw [← BitVec.toNat_inj, toNat_beNat_slice b 48 12 96 (by norm_num)]
    rfl
  simp only [laParse, Bool.and_eq_true, Bool.or_eq_true, decide_eq_true_eq, hiv]
  omega

/-! ### The fetch of a look-aside request (R54, R104, R519) -/

theorem pairedRing_la {p : Nat} (h : p < 96) : pairedRing (64 + p) = 160 + p := by
  simp only [pairedRing]
  split_ifs <;> omega

theorem Chip.canFetch_laNextRing {c : Chip} {p : Nat} (h : c.laNextRing = some p) : c.canFetch (64 + p) = true := by
  have := List.find?_some h
  simp only [Chip.laEligible, Bool.and_eq_true] at this
  exact this.1

/-- A ring from which the part may fetch has an owner. -/
theorem Chip.ringOwner_of_canFetch {c : Chip} {r : Nat} (h : c.canFetch r = true) : ∃ fn, c.ringOwner r = some fn := by
  cases hown : c.ringOwner r with
  | none => simp [Chip.canFetch, hown] at h
  | some fn => exact ⟨fn, rfl⟩

/-- A fetched entry: its completion's entry is reserved and the ring's own count has advanced; beyond the host interface and
what is given nothing has changed. -/
theorem Chip.fetchEntry_spec {c : Chip} {r : Nat} (h : c.canFetch r = true) (hr : pairedRing r ≠ r) (b : Bytes) :
    ∃ d, c.fetchEntry r (some b) = (some (slice b 0 (ringEntry r)), d) ∧ d = { c with hif := d.hif, out := d.out } ∧
      d.ring r = { c.ring r with own := (c.ring r).own + 1 } ∧
      d.ring (pairedRing r) = { c.ring (pairedRing r) with reserved := (c.ring (pairedRing r)).reserved + 1 } := by
  obtain ⟨fn, hown⟩ := Chip.ringOwner_of_canFetch h
  have hfetch : c.fetchEntry r (some b) = (some (slice b 0 (ringEntry r)), (c.setRing (pairedRing r)
      { c.ring (pairedRing r) with reserved := (c.ring (pairedRing r)).reserved + 1 }).ringAdvance r 1) := by
    simp only [Chip.fetchEntry, h, if_true]
  have hkeep := Chip.ring_setRing c (pairedRing r) r
    { c.ring (pairedRing r) with reserved := (c.ring (pairedRing r)).reserved + 1 }
  rw [if_neg hr.symm] at hkeep
  have hgives := Chip.ringAdvance_gives (c := c.setRing (pairedRing r)
    { c.ring (pairedRing r) with reserved := (c.ring (pairedRing r)).reserved + 1 }) (r := r) hown 1
  rw [hkeep] at hgives
  refine ⟨_, hfetch, hgives.1, ?_, ?_⟩
  · rw [hgives.ring_eq, Chip.ring_setRing, if_pos rfl]
    rfl
  · rw [hgives.ring_eq, Chip.ring_setRing, if_neg hr, Chip.ring_setRing, if_pos rfl]

/-- The status that the checks without a key give a fetched request (R54, Table 02.8). -/
def Chip.laFetchStatus (c : Chip) (q : LaReq × Bool) : Option Nat :=
  if c.su.failed then some 0x0C else if !q.2 then some 0x10 else if !c.inMode laModes then some 0x0C
  else if 16777216 < q.1.msgLen || 65536 < q.1.aadLen then some 0x02 else none

section
variable {c : Chip} {q : LaReq × Bool}

theorem Chip.laFetchStatus_startFailed (hfail : c.su.failed = true) : c.laFetchStatus q = some 0x0C := by
  simp [Chip.laFetchStatus, hfail]

variable (hfail : c.su.failed = false)
include hfail

theorem Chip.laFetchStatus_malformed (hbad : ¬ q.2 = true) : c.laFetchStatus q = some 0x10 := by
  simp [Chip.laFetchStatus, hfail, hbad]

variable (hok : q.2 = true)
include hok

theorem Chip.laFetchStatus_unserved (hmode : c.inMode laModes = false) : c.laFetchStatus q = some 0x0C := by
  simp [Chip.laFetchStatus, hfail, hok, hmode]

theorem Chip.laFetchStatus_served (hmode : c.inMode laModes = true) :
    c.laFetchStatus q = if 16777216 < q.1.msgLen ∨ 65536 < q.1.aadLen then some 0x02 else none := by
  simp [Chip.laFetchStatus, hfail, hok, hmode]

end

/-- The next look-aside request is fetched: it stands under the next number as its bytes say, with the status of the
checks. -/
theorem Chip.laFetch_spec {c d : Chip} {p : Nat} {b : Bytes} (hnext : c.laNextRing = some p) (hp : p < 96)
    (hb : b.length = 64) (hd : c.laFetch (some b) = d) :
    d.laReq c.path.laNext =
      some { (laParse b p ((c.ringOwner (64 + p)).getD 0)).1 with
        status := c.laFetchStatus (laParse b p ((c.ringOwner (64 + p)).getD 0)) } ∧
    d.path.laNext = c.path.laNext + 1 ∧ d.path.laTurn = (p + 1) % 96 ∧
    (d.ring (64 + p)).own = (c.ring (64 + p)).own + 1 ∧
    (d.ring (160 + p)).reserved = (c.ring (160 + p)).reserved + 1 ∧ d.vlt = c.vlt := by
  have hpaired := pairedRing_la hp
  obtain ⟨c₁, hfetch, hframe, hown, hres⟩ := Chip.fetchEntry_spec
    (c := c.modPath fun x => { x with laTurn := (p + 1) % 96 }) (r := 64 + p)
    (Chip.canFetch_laNextRing (c := c) hnext) (by omega) b
  have hentry : ringEntry (64 + p) = 64 := by
    have : ringKind (64 + p) = 7 := by
      simp only [ringKind]
      split_ifs <;> omega
    simp only [ringEntry, this]
  rw [hentry, slice_all hb] at hfetch
  simp only [Chip.laFetch, hnext, hfetch] at hd
  generalize hst : (if c₁.su.failed = true then some 0x0C else _ : Option Nat) = st at hd
  have hstatus : c.laFetchStatus (laParse b p ((c.ringOwner (64 + p)).getD 0)) = st := by
    rw [← hst, hframe]
    rfl
  generalize hc₂ : c₁.when _ _ = c₂ at hd
  have hevent : c₁.onlyBuffer c₂ := by
    rw [← hc₂]
    exact Chip.when_induct _ (Chip.onlyBuffer.refl c₁) fun h => h.raise (by decide) _ _
  have hpath : c₂.path = { c.path with laTurn := (p + 1) % 96 } := by
    rw [hevent.1, hframe]
    rfl
  have hring : ∀ r, c₂.ring r = c₁.ring r := (Chip.sameHost.of_onlyBuffer hevent).ring_eq
  rw [hpaired] at hres
  rw [← hd, hstatus]
  refine ⟨?_, ?_, ?_, ?_, ?_, ?_⟩
  · rw [hpath, Chip.laReq_setLa]
  · simp only [Chip.setLa, Chip.modPath_path, hpath]
  · simp only [Chip.setLa, Chip.modPath_path, hpath]
  · show (c₂.ring (64 + p)).own = _
    rw [hring, hown]
    rfl
  · show (c₂.ring (160 + p)).reserved = _
    rw [hring, hres]
    rfl
  · show c₂.vlt = _
    rw [hevent.1, hframe]
    rfl

/-! ### The admission of a look-aside request (R55, R56, R108, R109) -/

/-- The key checks read the vault alone. -/
theorem Chip.laCheck_congr {c d : Chip} (h : d.vlt = c.vlt) (r : LaReq) : d.laCheck r = c.laCheck r :=
  calc d.laCheck r = ({ c with vlt := d.vlt } : Chip).laCheck r := rfl
    _ = c.laCheck r := by rw [h]

/-! The status of the key checks, in their order (Table 02.8). -/

section
variable {c : Chip} {r : LaReq}

theorem Chip.laCheck_stale (hgen : genOf r.handle ≠ (c.slot (slotOf r.handle)).generation) : c.laCheck r = 3 := by
  simp [Chip.laCheck, hgen]

variable (hgen : genOf r.handle = (c.slot (slotOf r.handle)).generation)
include hgen

theorem Chip.laCheck_invalid (hst : (c.slot (slotOf r.handle)).state = 0 ∨ (c.slot (slotOf r.handle)).state = 2) :
    c.laCheck r = 4 := by
  simp only [Chip.laCheck]
  rw [if_neg (not_not_intro hgen), if_pos (by simpa using hst)]

variable (hst : (c.slot (slotOf r.handle)).state = 1)
include hst

theorem Chip.laCheck_wrongType (htype : (c.slot (slotOf r.handle)).type ≠ 0) : c.laCheck r = 5 := by
  simp only [Chip.laCheck]
  rw [if_neg (not_not_intro hgen), if_neg (by simp [hst]), if_pos htype]

variable (htype : (c.slot (slotOf r.handle)).type = 0)
include htype

theorem Chip.laCheck_wrongFunction (hfn : fnOf r.handle ≠ r.fn ∨ (c.slot (slotOf r.handle)).function ≠ r.fn) :
    c.laCheck r = 6 := by
  simp only [Chip.laCheck, hgen, hst, htype]
  simp [hfn]

variable (hfn : fnOf r.handle = r.fn) (hslot : (c.slot (slotOf r.handle)).function = r.fn)
include hfn hslot

/-- The checks of a slot that the request's handle names and its function owns. -/
theorem Chip.laCheck_owned :
    c.laCheck r = if r.enc && (c.slot (slotOf r.handle)).count = 0xFFFFFFFF then 8
      else if (c.slot (slotOf r.handle)).bound then 9 else if r.overlap then 0xA else 0 := by
  simp [Chip.laCheck, hgen, hst, htype, hfn, hslot]

theorem Chip.laCheck_exhausted (henc : r.enc = true) (hcount : (c.slot (slotOf r.handle)).count = 0xFFFFFFFF) :
    c.laCheck r = 8 := by
  rw [Chip.laCheck_owned hgen hst htype hfn hslot, if_pos (by simp [henc, hcount])]

variable (hcount : r.enc = true → (c.slot (slotOf r.handle)).count ≠ 0xFFFFFFFF)
include hcount

theorem Chip.laCheck_counted :
    c.laCheck r = if (c.slot (slotOf r.handle)).bound then 9 else if r.overlap then 0xA else 0 := by
  rw [Chip.laCheck_owned hgen hst htype hfn hslot, if_neg]
  simpa using hcount

end

/-- Request `n` stands before admission, and its function and the Pans' modes let it be admitted. -/
def Chip.laArrives (c : Chip) (n : Nat) (r : LaReq) : Prop :=
  c.laReq n = some r ∧ r.admitted = false ∧ r.status = none ∧ r.waitsRandom = false ∧ c.dmaAllowed r.fn = true ∧
    c.inMode laModes = true ∧ c.pan.stopped = false

/-- The bytes of a request's message as they are read: with the tag, where it is to be deciphered. -/
def LaReq.srcLen (r : LaReq) : Nat := if r.enc then r.msgLen else r.msgLen + 16

/-- The staging lines that a request takes. -/
def LaReq.lineCount (r : LaReq) : Nat := (r.srcLen + r.aadLen + 63) / 64

/-- A request whose message and AAD have been read to staging lines. -/
def Chip.laStaged (c : Chip) (r : LaReq) (msg aad : Bytes) : LaReq :=
  { r with
    msg := slice msg 0 r.srcLen, aad := slice aad 0 r.aadLen, kid := c.getF F.MEM_FUNC_KID_kid [r.fn],
    lines := c.freeLines r.lineCount }

/-- The block once request `n` has its staging lines written. -/
def Chip.laStage (c : Chip) (n : Nat) (q : LaReq) : Chip :=
  (c.setLa n (some q)).linesWrite q.kid q.lines (q.aad ++ q.msg)

theorem Chip.laStage_onlyBuffer (c : Chip) (n : Nat) (q : LaReq) : (c.setLa n (some q)).onlyBuffer (c.laStage n q) :=
  (Chip.onlyBuffer.refl _).linesWrite _ _ _

section
variable {c : Chip} {n : Nat} {r : LaReq} (h : c.laArrives n r) (msg aad : Bytes)
include h

/-- A request that fails a key check is refused with the check's status. -/
theorem Chip.laAdmission_refused (hst : c.laCheck r ≠ 0) :
    c.laAdmission n (some msg) (some aad) = c.setLa n (some { r with status := some (c.laCheck r) }) := by
  obtain ⟨hreq, hadm, hnone, hwait, hdma, hmode, hstop⟩ := h
  simp [Chip.laAdmission, Chip.onLa, hreq, hadm, hnone, hwait, hdma, hmode, hstop, hst]

/-- A request that passes the key checks goes to its staging lines; then a DECRYPT is admitted, and an ENCRYPT asks for
its IV. -/
theorem Chip.laAdmission_staged (hst : c.laCheck r = 0) (hkeys : c.noKeys = false)
    (hkid : c.kidActive (c.getF F.MEM_FUNC_KID_kid [r.fn]) = true) (hfits : c.hbmFits r.lineCount = true) :
    let q := c.laStaged r msg aad
    let d := c.laStage n q
    c.laAdmission n (some msg) (some aad) =
      if !r.enc then d.laAdmit n r.iv
      else if d.entFailed then d.setLa n (some { q with status := some 0xB })
      else (d.setLa n (some { q with waitsRandom := true })).randPost 3 1 (.laIv n) := by
  obtain ⟨hreq, hadm, hnone, hwait, hdma, hmode, hstop⟩ := h
  have hopen : (r.admitted || r.status.isSome || r.waitsRandom || !c.dmaAllowed r.fn) = false := by
    simp [hadm, hnone, hwait, hdma]
  have hmode' : (!c.inMode laModes || c.pan.stopped) = false := by simp [hmode, hstop]
  have haad : (if r.aadLen = 0 then some [] else some aad) = some (if r.aadLen = 0 then [] else aad) :=
    (apply_ite some _ _ _).symm
  have hslice : slice (if r.aadLen = 0 then [] else aad) 0 r.aadLen = slice aad 0 r.aadLen := by
    split_ifs with h0
    · simp [h0, slice]
    · rfl
  rw [LaReq.lineCount, LaReq.srcLen] at hfits
  simp only [Chip.laAdmission, Chip.onLa, hreq, hopen, hmode', hst, hkeys, hkid, hfits, haad, hslice, ne_eq,
    not_true_eq_false, Bool.false_eq_true, Bool.not_true, if_false]
  rfl

end

/-- At its admission a DECRYPT gets a copy of its key, and the Pans a request for it. -/
theorem Chip.laAdmit_dec {d : Chip} {n : Nat} {q : LaReq} (hreq : d.laReq n = some q) (hdec : q.enc = false)
    (hwait : q.waitsRandom = false) (hmode : d.inMode laModes = true) (hstop : d.pan.stopped = false)
    (hst : d.laCheck q = 0) :
    d.laAdmit n q.iv = (d.setLa n (some { q with
      key := some ((d.slot (slotOf q.handle)).klen, (d.slot (slotOf q.handle)).key), admitted := true })).panAdmit .laDec
        (slotOf q.handle) (d.slot (slotOf q.handle)).generation n 0 (q.msgLen / 16 + 1) := by
  have hmode' : (!d.inMode laModes || d.pan.stopped) = false := by simp [hmode, hstop]
  simp only [Chip.laAdmit, Chip.onLa, hreq, hmode', hst, hdec, hwait, ne_eq, not_true_eq_false, Bool.false_eq_true, if_false,
    Chip.when_false]

section
variable {c d : Chip} {n : Nat} {r : LaReq} {msg aad : Bytes} (h : c.laArrives n r)
  (hst : c.laCheck r = 0) (hkeys : c.noKeys = false)
  (hkid : c.kidActive (c.getF F.MEM_FUNC_KID_kid [r.fn]) = true) (hfits : c.hbmFits r.lineCount = true)
  (hd : c.laAdmission n (some msg) (some aad) = d)
include h hst hkeys hkid hfits hd

/-- A DECRYPT that passes its checks is admitted with a copy of its key and its own IV, and a Pan's request stands for
it (R109). -/
theorem Chip.laAdmission_dec (hdec : r.enc = false) :
    d.laReq n = some { c.laStaged r msg aad with
      key := some ((c.slot (slotOf r.handle)).klen, (c.slot (slotOf r.handle)).key), admitted := true } ∧
    (∃ k q, d.panReq k = some q ∧ q.kind = .laDec ∧ q.subject = n) ∧ d.vlt = c.vlt ∧ d.out = c.out := by
  have hadm := Chip.laAdmission_staged h msg aad hst hkeys hkid hfits
  obtain ⟨-, -, -, hwait, -, hmode, hstop⟩ := h
  have hbuf := (c.laStage_onlyBuffer n (c.laStaged r msg aad)).1
  simp only [hdec, Bool.not_false, if_true, hd] at hadm
  generalize c.laStage n (c.laStaged r msg aad) = e at hadm hbuf
  have hvlt : e.vlt = c.vlt := by rw [hbuf]; rfl
  have hslot : e.slot = c.slot := by funext i; simp only [Chip.slot, hvlt]
  have hplaced := Chip.laAdmit_dec (d := e) (n := n) (q := c.laStaged r msg aad)
    (by rw [hbuf]; exact Chip.laReq_setLa _ _ _) hdec hwait (by rw [hbuf]; exact hmode) (by rw [hbuf]; exact hstop)
    ((Chip.laCheck_congr hvlt _).trans hst)
  rw [hslot] at hplaced
  obtain ⟨hframe, hla, hreq⟩ := Chip.panAdmit_spec (hplaced.symm.trans hadm.symm)
  refine ⟨?_, ⟨_, hreq⟩, ?_, ?_⟩
  · exact (hla n).trans (Chip.laReq_setLa e n _)
  · rw [hframe]
    exact hvlt
  · rw [hframe, hbuf]
    rfl

/-- An ENCRYPT that passes its checks waits for its IV: the generator has a request of class 3 for one block (R108). -/
theorem Chip.laAdmission_enc (henc : r.enc = true) (hent : c.entFailed = false) :
    d.laReq n = some { c.laStaged r msg aad with waitsRandom := true } ∧
    d.ent.waiting = c.ent.waiting ++ [{ cls := 3, need := 1, use := .laIv n }] ∧ d.vlt = c.vlt ∧ d.out = c.out := by
  have hadm := Chip.laAdmission_staged h msg aad hst hkeys hkid hfits
  have hbuf := c.laStage_onlyBuffer n (c.laStaged r msg aad)
  simp only [henc, Bool.not_true, Bool.false_eq_true, if_false, hd] at hadm
  generalize c.laStage n (c.laStaged r msg aad) = e at hadm hbuf
  have hfail : e.entFailed = false := by
    rw [← hent]
    simp only [Chip.entFailed, Chip.getB, hbuf.getF_eq F.ENT_STAT_failed [] (by decide)]
    rfl
  rw [hadm, hfail, if_neg Bool.false_ne_true]
  refine ⟨Chip.laReq_setLa e n _, ?_, ?_, ?_⟩
  · show e.ent.waiting ++ _ = _
    rw [hbuf.1]
    rfl
  · show e.vlt = _
    rw [hbuf.1]
    rfl
  · show e.out = _
    rw [hbuf.1]
    rfl

end

/-! ### The obligation -/

/-- What `Obligations.LookAside` says of the fetch of a request, with the status that its checks give. -/
theorem laRequestFetch_completes (s : State) {p : Nat} {b : Bytes} {status : Option Nat}
    (hnext : s.chip.laNextRing = some p) (hp : p < 96) (hb : b.length = 64)
    (hst : s.chip.laFetchStatus (laParse b p ((s.chip.ringOwner (64 + p)).getD 0)) = status) :
    completes (.laRequestFetch (some b)) s fun d =>
      (∃ q, d.laReq s.chip.path.laNext = some q ∧ q.pair = p ∧ q.fn = (s.chip.ringOwner (64 + p)).getD 0 ∧
        q.enc = decide (leNat (slice b 0 4) = 1) ∧ q.handle.toNat = leNat (slice b 4 4) ∧
        q.cookie.toNat = leNat (slice b 8 8) ∧ q.msgLen = leNat (slice b 16 4) ∧ q.aadLen = leNat (slice b 20 4) ∧
        q.src = leNat (slice b 24 8) ∧ q.dst = leNat (slice b 32 8) ∧ q.aadAt = leNat (slice b 40 8) ∧
        q.iv.toNat = beNat (slice b 48 12) ∧ q.status = status ∧ q.admitted = false) ∧
      d.path.laNext = s.chip.path.laNext + 1 ∧ d.path.laTurn = (p + 1) % 96 ∧
      (d.ring (64 + p)).own = (s.chip.ring (64 + p)).own + 1 ∧
      (d.ring (160 + p)).reserved = (s.chip.ring (160 + p)).reserved + 1 ∧ d.vlt = s.chip.vlt := by
  obtain ⟨hreq, hrest⟩ := Chip.laFetch_spec hnext hp hb rfl
  refine completes_of (f := fun c => c.laFetch (some b)) rfl ?_ ⟨⟨_, hreq, rfl, rfl, rfl,
    toNat_leNat_slice b 4 4 32 (by norm_num), toNat_leNat_slice b 8 8 64 (by norm_num), rfl, rfl, rfl, rfl, rfl,
    toNat_beNat_slice b 48 12 96 (by norm_num), hst, rfl⟩, hrest⟩
  obtain ⟨-, -, -, -, hvlt⟩ := hrest
  rw [hvlt]

/-- A request that arrives at admission and fails a key check is refused: it takes the check's status, and nothing else
changes. -/
theorem laAdmission_completes_refused {s : State} {n st : Nat} {r : LaReq} (msg aad : Bytes)
    (h : s.chip.laArrives n r) (hst : s.chip.laCheck r = st) (h0 : st ≠ 0) :
    completes (.laAdmission n (some msg) (some aad)) s fun d =>
      d.laReq n = some { r with status := some st } ∧ d = { s.chip with path := d.path } := by
  have hadm := Chip.laAdmission_refused h msg aad (hst ▸ h0)
  rw [hst] at hadm
  refine completes_of (f := fun c => c.laAdmission n (some msg) (some aad)) rfl ?_ ?_
  · show (s.chip.laAdmission n (some msg) (some aad)).vlt.owners = _
    rw [hadm]
    rfl
  · show (s.chip.laAdmission n (some msg) (some aad)).laReq n = _ ∧ s.chip.laAdmission n (some msg) (some aad) = _
    rw [hadm]
    exact ⟨Chip.laReq_setLa _ _ _, rfl⟩

/-- A completion of a request completes the command with what `laDone` says. -/
theorem laComplete_completes {s : State} {n : Nat} {r : LaReq} {pair : Fin 96} {out : Bytes} {st : Nat}
    (hdone : s.chip.laDone n r out st (s.chip.laComplete pair.val))
    (hvlt : (s.chip.laComplete pair.val).vlt = s.chip.vlt) :
    completes (.laComplete pair) s (s.chip.laDone n r out st) :=
  completes_of (f := fun c => c.laComplete pair.val) rfl (congrArg Vault.owners hvlt) hdone

/-- Settles O44: the fetch by `Chip.laFetch_spec`, the admission by the key checks in their order and
`Chip.laAdmission_dec` and `Chip.laAdmission_enc`, the completion by `Chip.laFinish_spec`. -/
theorem lookAside : Obligations.LookAside := by
  unfold Obligations.LookAside
  intro s n r pair b msg aad
  refine ⟨fun hnext => ?_, fun hreq hadm hnone hwait hdma hmode hstop => ?_, fun hhead hkept hdma hown hen => ?_⟩
  · intro fetched ok hb
    have hwf := laParse_wellFormed b pair.val ((s.chip.ringOwner (64 + pair.val)).getD 0)
    have fetch : ∀ st, s.chip.laFetchStatus (laParse b pair.val ((s.chip.ringOwner (64 + pair.val)).getD 0)) = st →
        fetched st := fun st hst => laRequestFetch_completes s hnext pair.isLt hb hst
    refine ⟨fun hfail => fetch _ (Chip.laFetchStatus_startFailed hfail),
      fun hfail hbad => fetch _ (Chip.laFetchStatus_malformed hfail (mt hwf.1 hbad)),
      fun hfail hok hmode => fetch _ (Chip.laFetchStatus_unserved hfail (hwf.2 hok) hmode),
      fun hfail hok hmode => ?_⟩
    have hserved := Chip.laFetchStatus_served hfail (hwf.2 hok) hmode
    exact ⟨fun hlong => fetch _ (hserved.trans (if_pos hlong)),
      fun hmsg haad => fetch _ (hserved.trans (if_neg (not_or.2 ⟨hmsg.not_gt, haad.not_gt⟩)))⟩
  · have harr : s.chip.laArrives n r := ⟨hreq, hadm, hnone, hwait, hdma, hmode, hstop⟩
    have refuse : ∀ st, s.chip.laCheck r = st → st ≠ 0 → completes (.laAdmission n (some msg) (some aad)) s fun d =>
        d.laReq n = some { r with status := some st } ∧ d = { s.chip with path := d.path } :=
      fun st hst h0 => laAdmission_completes_refused msg aad harr hst h0
    refine ⟨fun hgen => refuse 3 (Chip.laCheck_stale hgen) (by decide), fun hgen =>
      ⟨fun hinv => refuse 4 (Chip.laCheck_invalid hgen hinv) (by decide),
        fun hst htype => refuse 5 (Chip.laCheck_wrongType hgen hst htype) (by decide), fun hst htype =>
        ⟨fun hfn => refuse 6 (Chip.laCheck_wrongFunction hgen hst htype hfn) (by decide), fun hfn hslot => ?_⟩⟩⟩
    have hcounted := Chip.laCheck_counted hgen hst htype hfn hslot
    refine ⟨fun henc hcount => refuse 8 (Chip.laCheck_exhausted hgen hst htype hfn hslot henc hcount) (by decide),
      fun hcount => ⟨fun hbound => refuse 9 ((hcounted hcount).trans (by simp [hbound])) (by decide), fun hbound hover =>
        refuse 0xA ((hcounted hcount).trans (by simp [hbound, hover])) (by decide)⟩,
      fun hbound hover hkeys hkid hfits => ⟨fun hdec => ?_, fun henc hcount hent => ?_⟩⟩
    · have hst0 : s.chip.laCheck r = 0 := (hcounted (by simp [hdec])).trans (by simp [hbound, hover])
      obtain ⟨hla, hpan, hvlt, hout⟩ :=
        Chip.laAdmission_dec (msg := msg) (aad := aad) harr hst0 hkeys hkid hfits rfl hdec
      exact completes_of (f := fun c => c.laAdmission n (some msg) (some aad)) rfl (congrArg Vault.owners hvlt)
        ⟨hla, hpan, hvlt, hout⟩
    · have hst0 : s.chip.laCheck r = 0 := (hcounted fun _ => hcount.ne).trans (by simp [hbound, hover])
      obtain ⟨hla, hwaits, hvlt, hout⟩ :=
        Chip.laAdmission_enc (msg := msg) (aad := aad) harr hst0 hkeys hkid hfits rfl henc hent
      exact completes_of (f := fun c => c.laAdmission n (some msg) (some aad)) rfl (congrArg Vault.owners hvlt)
        ⟨hla, hwaits, hvlt, hout⟩
  · have hp : pair.val = r.pair := (Chip.pair_of_mem_laOf (List.mem_of_mem_head? hhead)).symm
    have hready : s.chip.laReady r := ⟨hp ▸ pair.isLt, hdma, hp ▸ hown, hp ▸ hen⟩
    intro at' done
    have complete : ∀ out st, s.chip.laDone n r out st (s.chip.laComplete pair.val) ∧
        (s.chip.laComplete pair.val).vlt = s.chip.vlt → completes (.laComplete pair) s (done out st) := by
      intro out st ⟨hdone, hvlt⟩
      simp only [done, at', hp]
      exact laComplete_completes hdone hvlt
    refine ⟨fun st hst => complete [] st ?_, fun k256 key served hst hkey hserved hread => complete [] 0xF ?_,
      fun k256 key served hst hkey hserved hread => ⟨fun henc => ?_, fun hdec => ?_⟩⟩
    · exact Chip.laFinish_spec hkept hready (Chip.laComplete_status hhead hst).symm
    · rw [Chip.laComplete_poisoned hhead hst hkey hserved hread]
      exact Chip.laFinish_served hkept hready hserved
    · refine complete _ _ ?_
      rw [Chip.laComplete_result hhead hst hkey hserved hread, laResult_enc henc]
      exact Chip.laFinish_served hkept hready hserved
    · refine complete _ _ ?_
      rw [Chip.laComplete_result hhead hst hkey hserved hread, laResult_dec hdec]
      exact Chip.laFinish_served hkept hready hserved

end Sys2Proof.Machine

/-! PROOFS. The SMBus target (chapter 20): O31 fails of a state whose table of ownership slots is out of order. -/
namespace Sys2Proof.Machine

/-- An ownership slot programmed whole with a key's hash (R147). -/
def ownedSlot (hash : BitVec 384) : OwnerSlot := { hash := hash, crcGood := true, started := true, done := true }

/-- SMBus RESTART is armed while the zeroization of an OWNER_TRANSFER is in progress (R147, R527), and the table of the
ownership slots lists slot 1 before slot 0: it is not canonical (`SMap.wf`), which O31 does not ask for. -/
def unsortedTransfer : State := { chip := {
  ctl := { mode := .maintenance, zeroizing := some (0, 0), transfer := some 5 }
  vlt := { owners := [(1, ownedSlot 7), (0, ownedSlot 3)] }
  hif := { smbArmed := true, smbEnds := 1 } } }

/-- The end of the zeroization programs slot 2 and leaves the other entries where they stand. -/
theorem zeroizeEnd_owners_unsortedTransfer :
    unsortedTransfer.chip.zeroizeEnd.vlt.owners = [(1, ownedSlot 7), (0, ownedSlot 3), (2, ownedSlot 5)] := by
  decide +kernel

/-- The command RESTART leaves the same slots in the order of their keys: `otpHeld` has written slots 0 and 1 again. -/
theorem smbRestart_owners_unsortedTransfer : completes (.smbRestart 0x5A true) unsortedTransfer fun d =>
    d.vlt.owners = [(0, ownedSlot 3), (1, ownedSlot 7), (2, ownedSlot 5)] := by
  rw [completes_iff rfl]
  decide +kernel

/-- A command completes in one block. -/
theorem completes_unique {i : Instr} {s : State} {p q : Chip → Prop} (hp : completes i s p) (hq : completes i s q) :
    ∃ d, p d ∧ q d := by
  obtain ⟨d, hd, hpd⟩ := hp
  obtain ⟨e, he, hqe⟩ := hq
  have hde : d = e := by simpa using hd.symm.trans he
  exact ⟨d, hpd, hde ▸ hqe⟩

/-- Refutes O31: its clause of an armed RESTART equates the table of ownership slots, as a list, with that of
`Chip.zeroizeEnd`; a command writes the slots it must keep into the table again (`Chip.after`, `otpHeld`), and in
`unsortedTransfer` that moves slot 0 before slot 1. -/
theorem not_smbusCommands : ¬ Obligations.SmbusCommands := by
  unfold Obligations.SmbusCommands
  intro h
  obtain ⟨hon, -⟩ := h unsortedTransfer 0 0
  obtain ⟨-, -, -, -, -, -, -, hrestart, -⟩ := hon rfl
  obtain ⟨d, ⟨-, -, -, hclaimed⟩, hreached⟩ :=
    completes_unique (hrestart rfl (by decide)) smbRestart_owners_unsortedTransfer
  rw [hreached, zeroizeEnd_owners_unsortedTransfer] at hclaimed
  exact absurd hclaimed (by decide)

end Sys2Proof.Machine

/-! PROOFS. The block as a whole: the form of a step, the state after power-on, and the permanence of OTP. -/
namespace Sys2Proof.Machine

/-! ### A step (log entry 5) -/

/-- A command answers a next state with the queue as it was. -/
theorem exec_completes (i : Instr) (s : State) : ∃ c, exec i s = .next { s with chip := c } := by
  obtain ⟨f, hf⟩ := exec_eq_lift i
  exact ⟨s.chip.after f, hf s⟩

/-- An announced change of rate leaves the elapsed-time count to the cycles that pass. -/
theorem Tim.elapsed_pass (t : Tim) (n : Nat) (l : List (Nat × RateChange)) :
    (t.pass n l).elapsed = t.elapsed + BitVec.ofNat 64 n := by
  induction l generalizing t n with
  | nil => rfl
  | cons p l ih =>
    obtain ⟨due, r⟩ := p
    simp only [Tim.pass]
    split_ifs with hm
    · have hturn : ((t.plain (due - t.elapsed.toNat)).turn r l).elapsed
          = t.elapsed + BitVec.ofNat 64 (due - t.elapsed.toNat) := by cases r <;> rfl
      rw [ih, hturn, BitVec.add_assoc, ← BitVec.ofNat_add, Nat.add_sub_cancel' hm]
    · rfl

/-- A cycle with no command changes the time alone. -/
theorem Chip.idle_eq (c : Chip) : c.idle = { c with tim := c.idle.tim } := by
  simp only [Chip.idle]
  split <;> rfl

theorem Chip.elapsed_idle {c : Chip} (hp : c.powered = true) (hr : c.su.resetHeld = false) :
    c.idle.tim.elapsed = c.tim.elapsed + 1 := by
  simp only [Chip.idle, hp, hr, Bool.not_false, Bool.and_self, if_true, Chip.cycles, Tim.elapsed_pass]
  rfl

/-- Without power, or held in reset, no time passes. -/
theorem Chip.idle_still {c : Chip} (h : c.powered = false ∨ c.su.resetHeld = true) : c.idle = c := by
  rcases h with h | h <;> simp [Chip.idle, h]

/-- Settles O58: every command is the lifting of an effect on the block (`exec_eq_lift`), and the idle cycle changes the
time alone. -/
theorem queueStep : Obligations.QueueStep := by
  unfold Obligations.QueueStep
  intro s i rest
  refine ⟨exec_completes i s, step_front, fun hempty => ?_⟩
  have hidle : s.chip.after Chip.idle = s.chip.idle := Chip.after_eq (by rw [Chip.idle_eq])
  refine ⟨s.chip.idle, ?_, Chip.idle_eq _, Chip.elapsed_idle, Chip.idle_still⟩
  rw [step_empty hempty, lift, hidle]

/-! ### The state after power-on -/

/-- Settles O59: every table of the block after power-on is empty, and an empty table reads its defaults. -/
theorem resetState : Obligations.ResetState := by
  unfold Obligations.ResetState
  have howner (i : Nat) : State.reset.chip.ownerSlot i = {} := rfl
  refine ⟨rfl, rfl, rfl, rfl, rfl, rfl, fun i => ⟨rfl, rfl⟩, fun i hash => ?_, fun k => rfl, Memory.wf_reset, ?_⟩
  · simp [State.ownedBy, howner]
  · simp [State.queueOk, State.reset]

/-! ### Ownership (R147) -/

/-- A command writes nothing to a slot of OTP that was started, once its programming has ended. -/
theorem State.ownedBy_after {s : State} {i : Nat} {hash : BitVec 384} (hi : i < 16) (h : s.ownedBy i hash)
    (hopen : s.chip.otpOpen ≠ some i) (f : Chip → Chip) (q : List Instr) :
    State.ownedBy { chip := s.chip.after f, pending := q } i hash := by
  have hslot : (s.chip.after f).ownerSlot i = s.chip.ownerSlot i := by
    rw [Chip.ownerSlot_after, if_pos ⟨⟨hi, hopen⟩, h.1⟩]
  simpa only [State.ownedBy, hslot] using h

/-- Settles O60: every step is the lifting of an effect (`step_eq_lift`), and `Chip.after` keeps the started slots. -/
theorem ownershipIsPermanent : Obligations.OwnershipIsPermanent := by
  unfold Obligations.OwnershipIsPermanent
  intro s s' i hash hown hopen hstep
  obtain ⟨f, hf⟩ := step_eq_lift s
  rw [hf, lift, Host.Outcome.next.injEq] at hstep
  subst hstep
  exact State.ownedBy_after i.isLt hown hopen f _

end Sys2Proof.Machine

/-! PROOFS. Fleli (chapter 12): which words are instructions of which engine, what an issued command completes with, and the
register-register and immediate instructions. -/
namespace Sys2Proof.Machine

/-! ### Legal words, by their form (Tables 12.5 to 12.15) -/

theorem wordLegal_wordA {e : Eng} {func : Nat} {d a b : Fin 32} (hf : func < 2048) :
    wordLegal e (wordA 0x00 func d a b) =
      legalA e { op := 0, d := d, a := a, b := b, func := func, imm := 0, far := 0, xop := 0, mod' := 0 } := by
  obtain ⟨hop, hd, ha, hb, hfunc⟩ := fields_wordA (op := 0) (func := func) d a b (by decide) hf
  simp only [wordLegal, hop, legalA, hd, ha, hb, hfunc]

theorem wordLegal_atomic {m : Fin 256} {t : Fin 4} {func : Nat} {d a b : Fin 32} (hf : func ≤ 4) :
    wordLegal (.ladle m t) (wordA 0x1C func d a b) = true := by
  obtain ⟨hop, -, -, -, hfunc⟩ := fields_wordA (op := 0x1C) (func := func) d a b (by decide) (by omega)
  simp only [wordLegal, hop, hfunc, Eng.onLadle, Bool.true_and, decide_eq_true_eq]
  exact hf

/-- An opcode of form I or B. -/
def opcodesI : List Nat := [0x02, 0x03, 0x04, 0x05, 0x06, 0x07, 0x08, 0x09, 0x0A, 0x0B, 0x10, 0x11, 0x12, 0x13, 0x14, 0x15,
  0x16, 0x18, 0x19, 0x1A, 0x1B, 0x20, 0x21, 0x22, 0x23, 0x24, 0x25]

theorem wordLegal_wordI {e : Eng} {op : Nat} {d a : Fin 32} {imm : BitVec 16} (hop : op ∈ opcodesI) :
    wordLegal e (wordI op d a imm) =
      legalI e { op := op, d := d, a := a, b := 0, func := 0, imm := imm, far := 0, xop := 0, mod' := 0 } := by
  have hlt : op < 64 := by
    have : ∀ n ∈ opcodesI, n < 64 := by decide
    exact this op hop
  obtain ⟨hop', hd, ha, himm⟩ := fields_wordI (op := op) d a imm hlt
  simp only [wordLegal, hop']
  simp only [opcodesI, List.mem_cons, List.not_mem_nil, or_false] at hop
  split
  iterate 8 · omega
  simp only [legalI, hop', hd, ha, himm]

section
variable {e : Eng} {func op : Nat} {d a b : Fin 32} {imm : BitVec 16}

/-- The register-register instructions that every engine has. -/
theorem wordLegal_base (hf : func ≤ 0x00A) (h7 : func ≠ 0x007) (h : e.has [d, a, b] = true) :
    wordLegal e (wordA 0x00 func d a b) = true := by
  rw [wordLegal_wordA (by omega), legalA, if_neg (by simp; omega), if_pos (by simpa using hf)]
  exact h

/-- The register-register instructions that the always-on sequencer lacks. -/
theorem wordLegal_full (hf : func ∈ [0x007, 0x00B, 0x00C, 0x00D, 0x00E, 0x010, 0x011, 0x015]) (h : e.onVigil = false) :
    wordLegal e (wordA 0x00 func d a b) = true := by
  rw [wordLegal_wordA (by simp at hf; omega), legalA, if_pos (by simpa using hf), h]
  rfl

/-- The instructions of form A that name two registers. -/
theorem wordLegal_unary (hf : func ∈ [0x012, 0x013, 0x014, 0x020]) (h : e.onVigil = false) :
    wordLegal e (wordA 0x00 func d a 0) = true := by
  rw [wordLegal_wordA (by simp at hf; omega), legalA]
  simp only [List.mem_cons, List.not_mem_nil, or_false] at hf
  rcases hf with rfl | rfl | rfl | rfl <;> simp [h]

/-- The immediate instructions and branches that every engine has. -/
theorem wordLegal_baseI (hop : op ∈ [0x02, 0x03, 0x04, 0x05, 0x20, 0x21, 0x22, 0x23, 0x24, 0x25])
    (h : e.has [d, a] = true) : wordLegal e (wordI op d a imm) = true := by
  have hmem : ∀ n ∈ [0x02, 0x03, 0x04, 0x05, 0x20, 0x21, 0x22, 0x23, 0x24, 0x25], n ∈ opcodesI := by decide
  rw [wordLegal_wordI (hmem op hop), legalI, if_pos, h]
  simp only [List.mem_cons, List.not_mem_nil, or_false] at hop
  simp
  omega

/-- The immediate instructions, loads and stores that the always-on sequencer lacks. -/
theorem wordLegal_fullI (hop : op ∈ [0x06, 0x07, 0x10, 0x11, 0x12, 0x13, 0x14, 0x15, 0x16, 0x18, 0x19, 0x1A, 0x1B])
    (h : e.onVigil = false) : wordLegal e (wordI op d a imm) = true := by
  have hmem : ∀ n ∈ [0x06, 0x07, 0x10, 0x11, 0x12, 0x13, 0x14, 0x15, 0x16, 0x18, 0x19, 0x1A, 0x1B], n ∈ opcodesI := by
    decide
  rw [wordLegal_wordI (hmem op hop), legalI]
  simp only [List.mem_cons, List.not_mem_nil, or_false] at hop
  rcases hop with rfl | rfl | rfl | rfl | rfl | rfl | rfl | rfl | rfl | rfl | rfl | rfl | rfl <;> simp [h]

/-- The shifts by an immediate: its upper bits are 0. -/
theorem wordLegal_shiftI {sh : BitVec 6} (hop : op = 0x09 ∨ op = 0x0A) (h : e.has [d, a] = true) :
    wordLegal e (wordI op d a (sh.setWidth 16)) = true := by
  have hsh : sh.toNat < 64 := sh.isLt
  rw [wordLegal_wordI (by rcases hop with rfl | rfl <;> decide), legalI]
  rcases hop with rfl | rfl <;> simp [h] <;> omega

end

/-! ### An issued command -/

/-- A command of a Fleli row whose word is an instruction of its engine completes with the instruction's effect. -/
theorem issues_of {i : Instr} {s : State} {e : Eng} {w : Word} {f : Chip → Chip} {post : Chip → Prop}
    (hcode : codeOf i = some (e, w)) (hexec : exec i s = fleli e w f s) (hlegal : wordLegal e w = true)
    (ho : (f s.chip).vlt.owners = s.chip.vlt.owners) (hp : post (f s.chip)) : issues i s post := by
  rintro ⟨e', w', hcode', hword⟩
  obtain ⟨rfl, rfl⟩ : e = e' ∧ w = w' := by simpa using hcode.symm.trans hcode'
  exact completes_of (hexec.trans (fleli_ok hword hlegal)) ho hp

/-- The same, of an instruction whose body gives the block `d`. -/
theorem issues_of_ok {i : Instr} {s : State} {e : Eng} {w : Word} {body : Body} {d : Chip} {post : Chip → Prop}
    (hcode : codeOf i = some (e, w)) (hexec : exec i s = fleli e w (fun c => c.issue e body) s)
    (hlegal : wordLegal e w = true) (hcan : s.chip.canIssue e) (hbody : body (s.chip.advance e) = .ok d)
    (ho : d.vlt.owners = s.chip.vlt.owners) (hp : post d) : issues i s post := by
  have hd := Chip.issue_ok hcan hbody
  exact issues_of hcode hexec hlegal (by rwa [hd]) (by rwa [hd])

/-- The same, of an instruction that computes one register. -/
theorem issues_computed {i : Instr} {s : State} {e : Eng} {w : Word} {body : Body} {r : Fin 32} {v : DWord}
    (hcode : codeOf i = some (e, w)) (hexec : exec i s = fleli e w (fun c => c.issue e body) s)
    (hlegal : wordLegal e w = true) (hcan : s.chip.canIssue e)
    (hbody : body (s.chip.advance e) = .ok ((s.chip.advance e).gSet e r v)) :
    issues i s fun c => s.chip.computed c e r v := by
  have hcomp := Chip.computed_gSet s.chip e r v
  exact issues_of_ok hcode hexec hlegal hcan hbody (Chip.onlyEngine_owners hcomp.2.2.1) hcomp

/-- A register-register instruction gives its table's result. -/
theorem issues_alu {i : Instr} {s : State} {e : Eng} {w : Word} {d a b : Fin 32} {f : DWord → DWord → DWord} {v : DWord}
    (hcode : codeOf i = some (e, w)) (hexec : exec i s = fleli e w (fun c => c.alu e d a b f) s)
    (hcan : s.chip.canIssue e) (hlegal : wordLegal e w = true) (hv : f (s.chip.gGet e a) (s.chip.gGet e b) = v) :
    issues i s fun c => s.chip.computed c e d v :=
  issues_computed hcode hexec hlegal hcan (by simp only [Chip.gGet_advance, hv])

/-- An instruction of one source register gives its table's result. -/
theorem issues_aluI {i : Instr} {s : State} {e : Eng} {w : Word} {d a : Fin 32} {f : DWord → DWord} {v : DWord}
    (hcode : codeOf i = some (e, w)) (hexec : exec i s = fleli e w (fun c => c.aluI e d a f) s)
    (hcan : s.chip.canIssue e) (hlegal : wordLegal e w = true) (hv : f (s.chip.gGet e a) = v) :
    issues i s fun c => s.chip.computed c e d v :=
  issues_computed hcode hexec hlegal hcan (by simp only [Chip.gGet_advance, hv])

/-! ### The results of Table 12.6 -/

theorem flagWord_eq_ite {b : Bool} {p : Prop} [Decidable p] (h : b = true ↔ p) : flagWord b = if p then 1 else 0 := by
  simp only [flagWord, h]

theorem slt_iff (x y : DWord) : x.slt y = true ↔ x.toInt < y.toInt := BitVec.slt_iff_toInt_lt

theorem ult_iff (x y : DWord) : x.ult y = true ↔ x.toNat < y.toNat := by simp [BitVec.ult]

/-- The upper half of the product. -/
theorem mulhu_eq (x y : DWord) :
    BitVec.ofNat 64 (x.toNat * y.toNat / 2 ^ 64) = ((x.setWidth 128 * y.setWidth 128) >>> 64).setWidth 64 := by
  apply BitVec.eq_of_toNat_eq
  have hlt : x.toNat * y.toNat < 2 ^ 128 := (Nat.mul_lt_mul'' x.isLt y.isLt).trans_eq (by norm_num)
  have hx : x.toNat % 2 ^ 128 = x.toNat := Nat.mod_eq_of_lt (by omega)
  have hy : y.toNat % 2 ^ 128 = y.toNat := Nat.mod_eq_of_lt (by omega)
  simp only [BitVec.toNat_ofNat, BitVec.toNat_setWidth, BitVec.toNat_ushiftRight, BitVec.toNat_mul,
    Nat.shiftRight_eq_div_pow, hx, hy, Nat.mod_eq_of_lt hlt]

theorem popc64_eq (x : DWord) : popc64 x = (List.range 64).countP x.getLsbD := by
  rw [List.countP_eq_length_filter]
  rfl

/-- The bits above the highest set one are 0, and that one is set. -/
theorem clz64_spec (x : DWord) :
    clz64 x ≤ 64 ∧ (∀ i, i < clz64 x → x.getLsbD (63 - i) = false) ∧ (clz64 x < 64 → x.getLsbD (63 - clz64 x) = true) := by
  by_cases hx : x = 0
  · subst hx
    simp [clz64]
  · have hpos : x.toNat ≠ 0 := fun h => hx (BitVec.eq_of_toNat_eq (by simpa using h))
    have hlog : Nat.log2 x.toNat < 64 := (Nat.log2_lt hpos).2 x.isLt
    have hclz : clz64 x = 63 - Nat.log2 x.toNat := by rw [clz64, if_neg hx]
    rw [hclz]
    refine ⟨by omega, fun i hi => ?_, fun _ => ?_⟩
    · exact Nat.testBit_lt_two_pow ((Nat.log2_lt hpos).1 (by omega))
    · rw [show 63 - (63 - Nat.log2 x.toNat) = Nat.log2 x.toNat by omega]
      exact Nat.testBit_log2 hpos

/-- The bits of bytes, least significant byte first. -/
theorem testBit_leNat (bs : Bytes) (i j : Nat) (hj : j < 8) : (leNat bs).testBit (8 * i + j) = (bs.getD i 0).getLsbD j := by
  induction bs generalizing i with
  | nil => simp [leNat]
  | cons b bs ih =>
    have hb : b.toNat < 2 ^ 8 := b.isLt
    rw [leNat, show b.toNat + 256 * leNat bs = 2 ^ 8 * leNat bs + b.toNat by omega]
    cases i with
    | zero =>
      rw [Nat.testBit_two_pow_mul_add _ hb, if_pos (by omega)]
      simp [BitVec.getLsbD]
    | succ i =>
      rw [Nat.testBit_two_pow_mul_add _ hb, if_neg (by omega), show 8 * (i + 1) + j - 8 = 8 * i + j by omega, ih]
      rfl

@[simp] theorem length_leBytes (n v : Nat) : (leBytes n v).length = n := by
  induction n generalizing v with
  | zero => rfl
  | succ n ih => simp [leBytes, ih]

/-- The bytes of a value, least significant first. -/
theorem getD_leBytes {n v i : Nat} (h : i < n) : (leBytes n v).getD i 0 = BitVec.ofNat 8 (v / 256 ^ i) := by
  induction n generalizing v i with
  | zero => omega
  | succ n ih =>
    cases i with
    | zero => simp [leBytes]
    | succ i =>
      have hdiv : v / 256 ^ (i + 1) = v / 256 / 256 ^ i := by rw [pow_succ', Nat.div_div_eq_div_mul]
      rw [leBytes, List.getD_cons_succ, ih (by omega), hdiv]

theorem getLsbD_bswap64 (x : DWord) {i j : Nat} (hi : i < 8) (hj : j < 8) :
    (bswap64 x).getLsbD (8 * i + j) = x.getLsbD (8 * (7 - i) + j) := by
  have hlen : i < (leBytes 8 x.toNat).reverse.length := by simpa using hi
  have hget : (leBytes 8 x.toNat).reverse.getD i 0 = BitVec.ofNat 8 (x.toNat / 256 ^ (7 - i)) := by
    rw [List.getD_eq_getElem _ _ hlen, List.getElem_reverse, ← getD_leBytes (n := 8) (v := x.toNat) (by omega),
      List.getD_eq_getElem _ _ (by simp; omega)]
    simp
  have hpow : 256 ^ (7 - i) = 2 ^ (8 * (7 - i)) := by rw [pow_mul]; norm_num
  have hlt : 8 * i + j < 64 := by omega
  rw [bswap64, BitVec.getLsbD_ofNat, beNat, testBit_leNat _ _ _ hj, hget, BitVec.getLsbD_ofNat, hpow,
    Nat.testBit_div_two_pow, BitVec.getLsbD, decide_eq_true hlt, decide_eq_true hj, Bool.true_and, Bool.true_and, Nat.add_comm]

theorem getLsbD_ext64 (x y : DWord) {i : Nat} (hi : i < 64) :
    (ext64 x y).getLsbD i =
      ((y.toNat / 64 % 64 = 0 || decide (i < y.toNat / 64 % 64)) && x.getLsbD (y.toNat % 64 + i)) := by
  rw [ext64, BitVec.getLsbD_ofNat, decide_eq_true hi, Bool.true_and, Nat.testBit_mod_two_pow, Nat.testBit_div_two_pow,
    BitVec.getLsbD, shamt, Nat.add_comm i]
  split_ifs with hw <;> simp [hw, hi]

/-! ### The obligation -/

section
variable {s : State} {e : Eng} {d a b : Fin 32}

/-- An instruction of one source register, whatever its result: it gives `f` of its register. -/
theorem issues_alu1 {i : Instr} {w : Word} {f : DWord → DWord} (hcode : codeOf i = some (e, w))
    (hexec : exec i s = fleli e w (fun c => c.alu1 e d a f) s) (hcan : s.chip.canIssue e) (hlegal : wordLegal e w = true) :
    issues i s fun c => s.chip.computed c e d (f (s.chip.gGet e a)) :=
  issues_aluI hcode hexec hcan hlegal rfl

/-- The register-register instructions of every engine. -/
theorem issues_base (hcan : s.chip.canIssue e) (hhas : e.has [d, a, b] = true) :
    let x := s.chip.gGet e a
    let y := s.chip.gGet e b
    let gives := fun (i : Instr) (v : DWord) => issues i s fun c => s.chip.computed c e d v
    gives (.add e d a b) (x + y) ∧ gives (.sub e d a b) (x - y) ∧ gives (.and_ e d a b) (x &&& y) ∧
    gives (.or_ e d a b) (x ||| y) ∧ gives (.xor_ e d a b) (x ^^^ y) ∧
    gives (.sll e d a b) (x <<< (y.toNat % 64)) ∧ gives (.srl e d a b) (x >>> (y.toNat % 64)) ∧
    gives (.slt e d a b) (if x.toInt < y.toInt then 1 else 0) ∧
    gives (.sltu e d a b) (if x.toNat < y.toNat then 1 else 0) ∧ gives (.seq e d a b) (if x = y then 1 else 0) := by
  have hl {func : Nat} (hf : func ≤ 0x00A) (h7 : func ≠ 0x007) := wordLegal_base (d := d) (a := a) (b := b) hf h7 hhas
  exact ⟨issues_alu rfl rfl hcan (hl (by decide) (by decide)) rfl, issues_alu rfl rfl hcan (hl (by decide) (by decide)) rfl,
    issues_alu rfl rfl hcan (hl (by decide) (by decide)) rfl, issues_alu rfl rfl hcan (hl (by decide) (by decide)) rfl,
    issues_alu rfl rfl hcan (hl (by decide) (by decide)) rfl, issues_alu rfl rfl hcan (hl (by decide) (by decide)) rfl,
    issues_alu rfl rfl hcan (hl (by decide) (by decide)) rfl,
    issues_alu rfl rfl hcan (hl (by decide) (by decide)) (flagWord_eq_ite (slt_iff _ _)),
    issues_alu rfl rfl hcan (hl (by decide) (by decide)) (flagWord_eq_ite (ult_iff _ _)),
    issues_alu rfl rfl hcan (hl (by decide) (by decide)) (flagWord_eq_ite (by simp))⟩

/-- The register-register instructions that the always-on sequencer lacks. -/
theorem issues_full (hcan : s.chip.canIssue e) (hv : e.onVigil = false) :
    let x := s.chip.gGet e a
    let y := s.chip.gGet e b
    let gives := fun (i : Instr) (v : DWord) => issues i s fun c => s.chip.computed c e d v
    gives (.sra e d a b) (x.sshiftRight (y.toNat % 64)) ∧
    gives (.min_ e d a b) (if x.toInt ≤ y.toInt then x else y) ∧
    gives (.minu e d a b) (if x.toNat ≤ y.toNat then x else y) ∧
    gives (.max_ e d a b) (if y.toInt ≤ x.toInt then x else y) ∧
    gives (.maxu e d a b) (if y.toNat ≤ x.toNat then x else y) ∧
    gives (.mul e d a b) (x * y) ∧
    gives (.mulhu e d a b) (((x.setWidth 128 * y.setWidth 128) >>> 64).setWidth 64) ∧
    gives (.ext e d a b) (ext64 x y) := by
  have hl {func : Nat} (hf : func ∈ _) := wordLegal_full (d := d) (a := a) (b := b) (func := func) hf hv
  exact ⟨issues_alu rfl rfl hcan (hl (by decide)) rfl,
    issues_alu rfl rfl hcan (hl (by decide)) (by simp only [slt_iff, ← Int.not_lt, ite_not]),
    issues_alu rfl rfl hcan (hl (by decide)) (by simp only [ult_iff, ← Nat.not_lt, ite_not]),
    issues_alu rfl rfl hcan (hl (by decide)) (by simp only [slt_iff, ← Int.not_lt, ite_not]),
    issues_alu rfl rfl hcan (hl (by decide)) (by simp only [ult_iff, ← Nat.not_lt, ite_not]),
    issues_alu rfl rfl hcan (hl (by decide)) rfl, issues_alu rfl rfl hcan (hl (by decide)) (mulhu_eq _ _),
    issues_alu rfl rfl hcan (hl (by decide)) rfl⟩

/-- The instructions of one source register. -/
theorem issues_unary (hcan : s.chip.canIssue e) (hv : e.onVigil = false) :
    let x := s.chip.gGet e a
    let gives := fun (i : Instr) (v : DWord) => issues i s fun c => s.chip.computed c e d v
    gives (.popc e d a) (BitVec.ofNat 64 (popc64 x)) ∧ gives (.bswap e d a) (bswap64 x) ∧
    gives (.clz e d a) (BitVec.ofNat 64 (clz64 x)) := by
  have hl {func : Nat} (hf : func ∈ _) := wordLegal_unary (d := d) (a := a) (func := func) hf hv
  exact ⟨issues_alu1 (f := fun x => BitVec.ofNat 64 (popc64 x)) rfl rfl hcan (hl (by decide)),
    issues_alu1 rfl rfl hcan (hl (by decide)),
    issues_alu1 (f := fun x => BitVec.ofNat 64 (clz64 x)) rfl rfl hcan (hl (by decide))⟩

variable {imm : BitVec 16} {sh : BitVec 6}

/-- The immediate instructions of every engine. -/
theorem issues_baseI (hcan : s.chip.canIssue e) (hhas : e.has [d, a] = true) :
    let x := s.chip.gGet e a
    let gives := fun (i : Instr) (v : DWord) => issues i s fun c => s.chip.computed c e d v
    gives (.addi e d a imm) (x + imm.signExtend 64) ∧ gives (.andi e d a imm) (x &&& imm.setWidth 64) ∧
    gives (.ori e d a imm) (x ||| imm.setWidth 64) ∧ gives (.xori e d a imm) (x ^^^ imm.setWidth 64) ∧
    gives (.lui e d imm) (((imm.setWidth 32 : Word) <<< 16).signExtend 64) ∧
    gives (.slli e d a sh) (x <<< sh.toNat) ∧ gives (.srli e d a sh) (x >>> sh.toNat) := by
  have hl {op : Nat} (hop : op ∈ _) := wordLegal_baseI (d := d) (a := a) (imm := imm) (op := op) hop hhas
  have hd : e.has [d] = true := by
    simp only [Eng.has, List.all_cons, List.all_nil, Bool.or_eq_true, Bool.and_eq_true, and_true] at hhas ⊢
    exact hhas.imp_right And.left
  exact ⟨issues_aluI rfl rfl hcan (hl (by decide)) rfl, issues_aluI rfl rfl hcan (hl (by decide)) rfl,
    issues_aluI rfl rfl hcan (hl (by decide)) rfl, issues_aluI rfl rfl hcan (hl (by decide)) rfl,
    issues_aluI (a := 0) rfl rfl hcan (by rw [wordLegal_wordI (by decide)]; simp [legalI, hd]) rfl,
    issues_aluI rfl rfl hcan (wordLegal_shiftI (.inl rfl) hhas) rfl,
    issues_aluI rfl rfl hcan (wordLegal_shiftI (.inr rfl) hhas) rfl⟩

/-- The immediate instructions that the always-on sequencer lacks. -/
theorem issues_fullI (hcan : s.chip.canIssue e) (hv : e.onVigil = false) :
    let x := s.chip.gGet e a
    let gives := fun (i : Instr) (v : DWord) => issues i s fun c => s.chip.computed c e d v
    gives (.slti e d a imm) (if x.toInt < imm.toInt then 1 else 0) ∧
    gives (.sltiu e d a imm) (if x.toNat < (imm.signExtend 64 : DWord).toNat then 1 else 0) ∧
    gives (.srai e d a sh) (x.sshiftRight sh.toNat) := by
  have hl {op : Nat} (hop : op ∈ _) := wordLegal_fullI (d := d) (a := a) (imm := imm) (op := op) hop hv
  have hext : (imm.signExtend 64 : DWord).toInt = imm.toInt := BitVec.toInt_signExtend_of_le (by decide)
  have hsh : sh.toNat < 64 := sh.isLt
  exact ⟨issues_aluI rfl rfl hcan (hl (by decide)) (flagWord_eq_ite (by rw [slt_iff, hext])),
    issues_aluI rfl rfl hcan (hl (by decide)) (flagWord_eq_ite (ult_iff _ _)),
    issues_aluI rfl rfl hcan (by rw [wordLegal_wordI (by decide)]; simp [legalI, hv]; omega) rfl⟩

end

/-- Settles O1: the body of every instruction writes its result to `d` (`issues_alu`, `issues_aluI`), and each result is
the table's. -/
theorem aluResults : Obligations.AluResults := by
  unfold Obligations.AluResults
  refine ⟨fun s e d a b hcan => ⟨issues_base hcan, fun hv => ?_⟩,
    fun s e d a imm sh hcan => ⟨issues_baseI hcan, issues_fullI hcan⟩⟩
  obtain ⟨hsra, hmin, hminu, hmax, hmaxu, hmul, hmulhu, hext⟩ := issues_full (d := d) (a := a) (b := b) hcan hv
  obtain ⟨hpopc, hbswap, hclz⟩ := issues_unary (d := d) (a := a) hcan hv
  obtain ⟨hle, hzeros, hone⟩ := clz64_spec (s.chip.gGet e a)
  exact ⟨hsra, hmin, hminu, hmax, hmaxu, hmul, hmulhu, popc64_eq (s.chip.gGet e a) ▸ hpopc,
    ⟨_, hbswap, fun i j hi hj => getLsbD_bswap64 _ hi hj⟩, ⟨_, hle, hclz, hzeros, hone⟩,
    ⟨_, hext, fun i hi => getLsbD_ext64 _ _ hi⟩⟩

end Sys2Proof.Machine

/-! PROOFS. Fleli's branches and jumps (R291, R304). -/
namespace Sys2Proof.Machine

section
variable {s : State} {e : Eng} {d a b : Fin 32}

/-- The target of a jump after the advance counts from the jump's own address. -/
theorem Chip.herePc_advance (c : Chip) (e : Eng) : (c.advance e).herePc e = (c.ectx e).pc := by
  simp [Chip.herePc]

/-- A jump inside the code leaves the engine at its target, whatever changed of the engine before it. -/
theorem Chip.jumpTo_spec {c d : Chip} {e : Eng} {t : Nat} (hd : c.onlyEngine d) (ht : t < d.codeLen e) :
    ∃ x, d.jumpTo e t = .ok x ∧ (∀ q, x.gGet e q = d.gGet e q) ∧ (x.ectx e).pc = t ∧
      (x.ectx e).issued = (d.ectx e).issued ∧ (∀ k, k ≠ engKey e → x.ectxAt k = d.ectxAt k) ∧ c.onlyEngine x ∧
      x.eng.frames = d.eng.frames := by
  obtain ⟨x, hx, hcase⟩ := Chip.jumpTo_ok ht
  have hpc : c.onlyEngine (d.setPc e t) := Chip.onlyEngine_trans hd (Chip.setEctx_onlyEngine _ _ _)
  have hother : ∀ k, k ≠ engKey e → (d.setPc e t).ectxAt k = d.ectxAt k := fun k hk => by
    simp [Chip.setPc, Chip.setEctx, hk]
  rcases hcase with rfl | ⟨m, ev, rfl⟩
  · exact ⟨_, hx, fun q => by simp [Chip.gGet, Chip.setPc], by simp [Chip.setPc], by simp [Chip.setPc], hother, hpc, rfl⟩
  · exact ⟨_, hx, fun q => by simp [Chip.gGet, Chip.setPc], by simp [Chip.setPc], by simp [Chip.setPc],
      fun k hk => by rw [Chip.perf_ectxAt, hother k hk], Chip.onlyEngine_trans hpc (Chip.perf_onlyEngine _ _ _), by simp; rfl⟩

/-- A jump that writes no register. -/
theorem Chip.branched_jumpTo {c : Chip} {t : Nat} {off : Int} (ht : (t : Int) = (c.ectx e).pc + 4 * off)
    (hlen : t < c.codeLen e) :
    ∃ x, (c.advance e).jumpTo e ((c.advance e).herePc e + 4 * off) = .ok x ∧ c.branched x e t := by
  rw [Chip.herePc_advance, ← ht]
  obtain ⟨-, hother, honly, hframes⟩ := Chip.advance_spec c e
  obtain ⟨x, hx, hg, hpc, hiss, hoth, hon, hfr⟩ := Chip.jumpTo_spec (t := t) honly (by rwa [Chip.codeLen_advance])
  exact ⟨x, hx, fun q => (hg q).trans (Chip.gGet_advance _ _ _),
    ⟨hpc, by rw [hiss, Chip.ectx_advance, EngCtx.next_issued], fun k hk => (hoth k hk).trans (hother k hk)⟩, hon,
    hfr.trans hframes⟩

/-- A jump that gives the address of the next instruction to a register. -/
theorem Chip.linked_jumpTo {c : Chip} {t : Nat} {r : Fin 32} (hlen : t < c.codeLen e) :
    ∃ x, ((c.advance e).gSet e r (BitVec.ofNat 64 ((c.advance e).ectx e).pc)).jumpTo e t = .ok x ∧
      c.wrote x e r (BitVec.ofNat 64 ((c.ectx e).pc + 4)) ∧ c.stepped x e t ∧ c.onlyEngine x := by
  rw [Chip.ectx_advance, EngCtx.next_pc]
  obtain ⟨hwrote, ⟨-, hissued, hother⟩, honly, -⟩ := Chip.computed_gSet c e r (BitVec.ofNat 64 ((c.ectx e).pc + 4))
  have himage := Chip.onlyEngine_engImage (e := e) honly (by rw [Chip.ectx_gSet, Chip.ectx_advance, EngCtx.next_old])
  obtain ⟨x, hx, hg, hpc, hiss, hoth, hon, -⟩ := Chip.jumpTo_spec (t := t) honly
    (by rwa [Chip.codeLen, himage])
  exact ⟨x, hx, fun q => (hg q).trans (hwrote q), ⟨hpc, hiss.trans hissued, fun k hk => (hoth k hk).trans (hother k hk)⟩, hon⟩

/-- What `Obligations.BranchesAndJumps` says of a branch. -/
theorem issues_branch {i : Instr} {op : Nat} {off : BitVec 16} {f : DWord → DWord → Bool} {cond : Prop}
    (hcode : codeOf i = some (e, wordI op a b off))
    (hexec : exec i s = fleli e (wordI op a b off) (fun c => c.branch e a b off f) s)
    (hop : op ∈ [0x02, 0x03, 0x04, 0x05, 0x20, 0x21, 0x22, 0x23, 0x24, 0x25]) (hhas : e.has [a, b] = true)
    (hcan : s.chip.canIssue e) (hf : f (s.chip.gGet e a) (s.chip.gGet e b) = true ↔ cond) :
    (∀ t : Nat, cond → (t : Int) = (s.chip.ectx e).pc + 4 * off.toInt → t < s.chip.codeLen e →
      issues i s fun c => s.chip.branched c e t) ∧
    (¬ cond → issues i s fun c => s.chip.branched c e ((s.chip.ectx e).pc + 4)) := by
  have hlegal : wordLegal e (wordI op a b off) = true := wordLegal_baseI hop hhas
  refine ⟨fun t hcond ht hlen => ?_, fun hcond => ?_⟩
  · obtain ⟨x, hx, hbranched⟩ := Chip.branched_jumpTo ht hlen
    refine issues_of_ok hcode hexec hlegal hcan ?_ (Chip.onlyEngine_owners hbranched.2.2.1) hbranched
    rw [Chip.gGet_advance, Chip.gGet_advance, if_pos (hf.2 hcond), hx]
  · have hbranched := Chip.branched_advance s.chip e
    refine issues_of_ok hcode hexec hlegal hcan ?_ (Chip.onlyEngine_owners hbranched.2.2.1) hbranched
    rw [Chip.gGet_advance, Chip.gGet_advance, if_neg (fun h => hcond (hf.1 h))]

theorem wordLegal_j (off : BitVec 26) : wordLegal e (wordJ 0x28 off) = true := by
  simp only [wordLegal, (fields_wordJ (op := 0x28) off (by decide)).1]

theorem wordLegal_jal (off : BitVec 26) (hv : e.onVigil = false) : wordLegal e (wordJ 0x29 off) = true := by
  simp only [wordLegal, (fields_wordJ (op := 0x29) off (by decide)).1, hv, Bool.not_false]

theorem issues_j {far : BitVec 26} {t : Nat} (hcan : s.chip.canIssue e)
    (ht : (t : Int) = (s.chip.ectx e).pc + 4 * far.toInt) (hlen : t < s.chip.codeLen e) :
    issues (.j e far) s fun c => s.chip.branched c e t := by
  obtain ⟨x, hx, hbranched⟩ := Chip.branched_jumpTo ht hlen
  exact issues_of_ok rfl rfl (wordLegal_j far) hcan hx (Chip.onlyEngine_owners hbranched.2.2.1) hbranched

theorem issues_jal {far : BitVec 26} {t : Nat} (hcan : s.chip.canIssue e) (hv : e.onVigil = false)
    (ht : (t : Int) = (s.chip.ectx e).pc + 4 * far.toInt) (hlen : t < s.chip.codeLen e) :
    issues (.jal e far) s fun c =>
      s.chip.wrote c e 31 (BitVec.ofNat 64 ((s.chip.ectx e).pc + 4)) ∧ s.chip.stepped c e t ∧ s.chip.onlyEngine c := by
  obtain ⟨x, hx, hlinked⟩ := Chip.linked_jumpTo (r := 31) hlen
  refine issues_of_ok rfl rfl (wordLegal_jal far hv) hcan ?_ (Chip.onlyEngine_owners hlinked.2.2) hlinked
  rw [Chip.herePc_advance, ← ht, hx]

theorem issues_jalr (hcan : s.chip.canIssue e) (hv : e.onVigil = false)
    (hlen : (s.chip.gGet e a).toNat < s.chip.codeLen e) (halign : (s.chip.gGet e a).toNat % 4 = 0) :
    issues (.jalr e d a) s fun c =>
      s.chip.wrote c e d (BitVec.ofNat 64 ((s.chip.ectx e).pc + 4)) ∧ s.chip.stepped c e (s.chip.gGet e a).toNat ∧
        s.chip.onlyEngine c := by
  obtain ⟨x, hx, hlinked⟩ := Chip.linked_jumpTo (r := d) hlen
  refine issues_of_ok rfl rfl (wordLegal_unary (by decide) hv) hcan ?_ (Chip.onlyEngine_owners hlinked.2.2) hlinked
  simp only [Chip.gGet_advance, Chip.codeLen_advance]
  rw [if_neg (by omega), if_neg (not_not_intro halign), hx]

end

/-- Settles O2: a branch or jump inside the code ends in `Chip.jumpTo` (`Chip.jumpTo_spec`), a branch whose condition fails
in the advance alone. -/
theorem branchesAndJumps : Obligations.BranchesAndJumps := by
  unfold Obligations.BranchesAndJumps
  intro s e d a b off far hcan
  refine ⟨fun hhas => ⟨?_, ?_, ?_, ?_, ?_, ?_⟩,
    fun t ht hlen => ⟨issues_j hcan ht hlen, fun hv => issues_jal hcan hv ht hlen⟩, fun hv hlen halign =>
      issues_jalr hcan hv hlen halign⟩
  · exact issues_branch rfl rfl (by decide) hhas hcan (by simp)
  · exact issues_branch rfl rfl (by decide) hhas hcan (by simp)
  · exact issues_branch rfl rfl (by decide) hhas hcan (slt_iff _ _)
  · exact issues_branch rfl rfl (by decide) hhas hcan (by simp [BitVec.slt])
  · exact issues_branch rfl rfl (by decide) hhas hcan (ult_iff _ _)
  · exact issues_branch rfl rfl (by decide) hhas hcan (by simp [BitVec.ult])

end Sys2Proof.Machine

/-! PROOFS. Fleli's loads, stores and atomics (R296 to R300, R305). -/
namespace Sys2Proof.Machine

/-! ### Loads -/

/-- An instruction that goes on and then writes a register. -/
theorem Chip.computed_of_branched {c d : Chip} {e : Eng} {r : Fin 32} {v : DWord}
    (h : c.branched d e ((c.ectx e).pc + 4)) : c.computed (d.gSet e r v) e r v := by
  obtain ⟨hg, ⟨hpc, hissued, hother⟩, honly, hframes⟩ := h
  refine ⟨fun q => ?_, ⟨by rw [Chip.gSet_pc, hpc], by rw [Chip.gSet_issued, hissued], fun k hk => ?_⟩,
    Chip.onlyEngine_trans honly (Chip.gSet_onlyEngine _ _ _ _), by rw [Chip.gSet_frames, hframes]⟩
  · rw [Chip.gGet_gSet, hg]
  · rw [Chip.ectxAt_gSet _ _ _ _ hk, hother k hk]

section
variable {c : Chip} {e : Eng} {ea n v : Nat}

@[simp] theorem Chip.reads_advance : (c.advance e).reads e ea n v ↔ c.reads e ea n v := by
  simp only [Chip.reads, Chip.memBytes_advance, Chip.fctx_advance, Chip.engTable_advance]

/-- A load inside a memory gives what stands there; at most a performance counter counts it. -/
theorem Chip.loadAt_reads (h : c.reads e ea n v) :
    ∃ d, c.loadAt e ea n = .ok (v, d) ∧ (d = c ∨ ∃ m ev, d = c.perf m ev) := by
  rcases h with ⟨hs, hlen, hal, rfl⟩ | ⟨m, t, rfl, hs, hlen, hal, rfl⟩ | ⟨hlad, hs, hlen, rfl⟩ | ⟨hs, hlen, hal, rfl⟩
  · refine ⟨c, ?_, .inl rfl⟩
    simp only [Chip.loadAt, hs]
    rw [if_neg (by omega), if_neg (by omega)]
  · refine ⟨_, ?_, .inr ⟨m.val, 0x0A, rfl⟩⟩
    simp only [Chip.loadAt, hs]
    rw [if_neg (by omega), if_neg (by omega)]
    rfl
  · refine ⟨c, ?_, .inl rfl⟩
    cases e <;> simp only [Eng.onLadle, Bool.false_eq_true] at hlad
    simp only [Chip.loadAt, hs]
    rw [if_neg (by omega)]
  · refine ⟨c, ?_, .inl rfl⟩
    simp only [Chip.loadAt, hs]
    rw [if_neg (by omega), if_neg (by omega)]

end

section
variable {s : State} {e : Eng} {d a b : Fin 32} {imm : BitVec 16}

/-- A load instruction gives its destination what it reads, extended by `f`. -/
theorem issues_load {i : Instr} {op n v : Nat} {f : Nat → DWord} (hcode : codeOf i = some (e, wordI op d a imm))
    (hexec : exec i s = fleli e (wordI op d a imm) (fun c => c.load e n d a imm f) s)
    (hop : op ∈ [0x06, 0x07, 0x10, 0x11, 0x12, 0x13, 0x14, 0x15, 0x16, 0x18, 0x19, 0x1A, 0x1B])
    (hcan : s.chip.canIssue e) (hv : e.onVigil = false)
    (hreads : s.chip.reads e ((s.chip.gGet e a).setWidth 32 + imm.signExtend 32 : Word).toNat n v) :
    issues i s fun c => s.chip.computed c e d (f v) := by
  obtain ⟨x, hload, hx⟩ := Chip.loadAt_reads (Chip.reads_advance.2 hreads)
  have hbranched : s.chip.branched x e ((s.chip.ectx e).pc + 4) := by
    rcases hx with rfl | ⟨m, ev, rfl⟩
    · exact Chip.branched_advance _ _
    · exact Chip.branched_perf (Chip.branched_advance _ _) _ _
  have hcomp : s.chip.computed (x.gSet e d (f v)) e d (f v) := Chip.computed_of_branched hbranched
  refine issues_of_ok hcode hexec (wordLegal_fullI hop hv) hcan ?_ (Chip.onlyEngine_owners hcomp.2.2.1) hcomp
  simp only [Chip.ea, Chip.gGet_advance, hload]

end

/-! ### Writes to program memory -/

/-- A write of program memory changes that alone. -/
theorem Chip.memWrite_eq (c : Chip) (x : Nat) (bs : Bytes) : c.memWrite x bs = { c with mem := (c.memWrite x bs).mem } := by
  induction bs generalizing c x with
  | nil => rfl
  | cons b bs ih => rw [Chip.memWrite, ih]; rfl

theorem Chip.memWrite_back (c : Chip) (x : Nat) (bs : Bytes) : { c.memWrite x bs with mem := c.mem } = c := by
  rw [Chip.memWrite_eq]

/-- Bytes of a value that stand in memory after they were written. -/
theorem Chip.memStored_memWrite {c d : Chip} {x n v w : Nat} (hd : d.mem = (c.memWrite x (leBytes n v)).mem)
    (hv : ∀ i, i < n → v / 256 ^ i % 256 = w / 256 ^ i % 256) : c.memStored d x n w := by
  intro y
  have hget : d.memGet y = (c.memWrite x (leBytes n v)).memGet y := by simp only [Chip.memGet, hd]
  rw [hget, Chip.memGet_memWrite, length_leBytes]
  split_ifs with h
  · rw [getD_leBytes (by omega)]
    exact BitVec.eq_of_toNat_eq (by simpa using hv (y - x) (by omega))
  · rfl

section
variable {c d y : Chip} {e : Eng} {r : Fin 32} {v : DWord} {pc : Nat}

theorem Chip.branched_congr (h : c.branched y e pc) (heng : d.eng = y.eng) (hon : c.onlyEngine d) : c.branched d e pc := by
  obtain ⟨hg, hstepped, -, hframes⟩ := h
  simp only [Chip.branched, Chip.stepped, Chip.gGet, Chip.ectx, Chip.ectxAt, heng] at hg hstepped ⊢
  exact ⟨hg, hstepped, hon, hframes⟩

theorem Chip.computed_congr (h : c.computed y e r v) (heng : d.eng = y.eng) (hon : c.onlyEngine d) : c.computed d e r v := by
  obtain ⟨hwrote, hstepped, -, hframes⟩ := h
  simp only [Chip.computed, Chip.stepped, Chip.wrote, Chip.gGet, Chip.ectx, Chip.ectxAt, heng] at hwrote hstepped ⊢
  exact ⟨hwrote, hstepped, hon, hframes⟩

/-- A change of program memory and then of performance counters is undone by setting the memory back. -/
theorem Chip.onlyEngine_mem {m ev : Nat} {mem : SMap Byte} (h : c.onlyEngine y) (hd : d = ({ y with mem := mem } : Chip).perf m ev) :
    c.onlyEngine { d with mem := c.mem } := by
  have hregs : d = { y with mem := mem, regs := d.regs } := by
    have := Chip.perf_onlyRegs ({ y with mem := mem } : Chip) m ev
    rwa [← hd] at this
  obtain ⟨hframe, hquiet⟩ := h
  refine ⟨?_, fun hdbg => ?_⟩
  · rw [hregs, hframe]
  · have hdbg' : ({ y with mem := mem } : Chip).ctl.dbg = 0 := by rw [hframe]; exact hdbg
    rw [hd, Chip.perf_d0 hdbg']
    exact hquiet hdbg

end

/-! ### Atomics -/

section
variable {s : State} {m : Fin 256} {t : Fin 4} {d a b : Fin 32}

/-- Program memory and the registers of an engine are written independently. -/
theorem Chip.gSet_withMem (c : Chip) (mem : SMap Byte) (e : Eng) (r : Fin 32) (v : DWord) :
    ({ c with mem := mem } : Chip).gSet e r v = { c.gSet e r v with mem := mem } := by
  simp only [Chip.gSet]
  split <;> rfl

/-- An atomic on a scratch word: a register and the memory are written, and the access is counted. -/
theorem Chip.atomic_eq {c : Chip} {f : DWord → DWord → DWord} {ea base : Nat} {old : DWord} (hcan : c.canIssue (.ladle m t))
    (hea : (c.gGet (.ladle m t) a).toNat % 2 ^ 32 = ea) (hspace : ea / 2 ^ 28 = 1) (hlen : ea % 2 ^ 28 + 8 ≤ 0x200000)
    (hal : ea % 8 = 0) (hbase : scratchBase (m.val / 64) + ea % 2 ^ 28 = base)
    (hold : BitVec.ofNat 64 (leNat (c.memBytes base 8)) = old) :
    c.atomic (.ladle m t) d a b f = (((c.advance (.ladle m t)).memWrite base
      (leBytes 8 (f old (c.gGet (.ladle m t) b)).toNat)).gSet (.ladle m t) d old).perf m.val 0x0A := by
  have hin : ¬ (ea / 2 ^ 28 ≠ 1 || 0x200000 < ea % 2 ^ 28 + 8) = true := by simp; omega
  refine Chip.issue_ok hcan ?_
  simp only [Chip.gGet_advance, Chip.memBytes_advance, hea, hbase, hold]
  rw [if_neg hin, if_neg (by omega)]

/-- An atomic gives the old scratch word, and writes `f` of it and of its operand. -/
theorem issues_atomic {i : Instr} {func : Nat} {f : DWord → DWord → DWord}
    (hcode : codeOf i = some (.ladle m t, wordA 0x1C func d a b))
    (hexec : exec i s = fleli (.ladle m t) (wordA 0x1C func d a b) (fun c => c.atomic (.ladle m t) d a b f) s)
    (hfunc : func ≤ 4) (hcan : s.chip.canIssue (.ladle m t))
    (hspace : (s.chip.gGet (.ladle m t) a).toNat % 2 ^ 32 / 2 ^ 28 = 1)
    (hlen : (s.chip.gGet (.ladle m t) a).toNat % 2 ^ 32 % 2 ^ 28 + 8 ≤ 0x200000)
    (hal : (s.chip.gGet (.ladle m t) a).toNat % 2 ^ 32 % 8 = 0) :
    let base := scratchBase (m.val / 64) + (s.chip.gGet (.ladle m t) a).toNat % 2 ^ 32 % 2 ^ 28
    let old : DWord := BitVec.ofNat 64 (leNat (s.chip.memBytes base 8))
    issues i s fun c => s.chip.memStored c base 8 (f old (s.chip.gGet (.ladle m t) b)).toNat ∧
      s.chip.computed { c with mem := s.chip.mem } (.ladle m t) d old := by
  intro base old
  have hcomp := Chip.computed_gSet s.chip (.ladle m t) d old
  have hatomic := Chip.atomic_eq (d := d) (b := b) (f := f) hcan rfl hspace hlen (by omega) rfl rfl
  rw [Chip.memWrite_eq, Chip.gSet_withMem] at hatomic
  refine issues_of hcode hexec (wordLegal_atomic hfunc) ?_ ?_ <;> rw [hatomic]
  · have howners := Chip.onlyEngine_owners hcomp.2.2.1
    rw [Chip.perf_vlt, ← howners]
  · refine ⟨fun z => ?_, Chip.computed_congr hcomp (Chip.perf_eng _ _ _) (Chip.onlyEngine_mem hcomp.2.2.1 rfl)⟩
    rw [Chip.memStored_memWrite (c := s.chip.advance (.ladle m t)) (by rw [Chip.perf_mem]) (fun _ _ => rfl) z, Chip.memGet,
      Chip.mem_advance]
    rfl

end

/-- Settles O3: a load's effect is `Chip.loadAt_reads` and a register write, an atomic's a register and a memory write. -/
theorem loadAndAtomicResults : Obligations.LoadAndAtomicResults := by
  unfold Obligations.LoadAndAtomicResults
  refine ⟨fun s e d a imm v hcan hv => ⟨fun h => ⟨?_, ?_⟩, fun h => ⟨?_, ?_⟩, fun h => ⟨?_, ?_⟩, fun h => ?_⟩,
    fun s m t d a b hcan hspace hlen hal => ⟨?_, ?_, ?_, ?_, ?_⟩⟩
  · exact issues_load rfl rfl (by decide) hcan hv h
  · exact issues_load (f := sext 8) rfl rfl (by decide) hcan hv h
  · exact issues_load rfl rfl (by decide) hcan hv h
  · exact issues_load (f := sext 16) rfl rfl (by decide) hcan hv h
  · exact issues_load rfl rfl (by decide) hcan hv h
  · exact issues_load (f := sext 32) rfl rfl (by decide) hcan hv h
  · exact issues_load rfl rfl (by decide) hcan hv h
  · exact issues_atomic (f := fun x y => x + y) rfl rfl (by decide) hcan hspace hlen hal
  · exact issues_atomic (f := fun x y => x &&& y) rfl rfl (by decide) hcan hspace hlen hal
  · exact issues_atomic (f := fun x y => x ||| y) rfl rfl (by decide) hcan hspace hlen hal
  · exact issues_atomic (f := fun _ y => y) rfl rfl (by decide) hcan hspace hlen hal
  · have h := issues_atomic (i := .amaxu (.ladle m t) d a b) (f := fun x y => if x.ult y then y else x) rfl rfl (by decide)
      hcan hspace hlen hal
    simpa only [ult_iff] using h

/-! ### Stores -/

section
variable {s : State} {e : Eng} {src a : Fin 32} {imm : BitVec 16}

/-- A store inside a memory writes its bytes there. -/
theorem Chip.storeAt_place {c : Chip} {ea n base v : Nat} (h : storePlace e ea n base) :
    c.storeAt e ea n v = .ok (c.memWrite base (leBytes n v)) := by
  rcases h with ⟨hs, hlen, hal, rfl⟩ | ⟨m, t, rfl, hs, hlen, hal, rfl⟩
  · simp only [Chip.storeAt, hs]
    rw [if_neg (by omega), if_neg (by omega)]
  · simp only [Chip.storeAt, hs]
    rw [if_neg (by omega), if_neg (by omega)]

/-- What `Obligations.StoreResults` says of one store instruction. -/
theorem issues_store {i : Instr} {op n : Nat} (hcode : codeOf i = some (e, wordI op src a imm))
    (hexec : exec i s = fleli e (wordI op src a imm) (fun c => c.store e n src a imm) s)
    (hop : op ∈ [0x06, 0x07, 0x10, 0x11, 0x12, 0x13, 0x14, 0x15, 0x16, 0x18, 0x19, 0x1A, 0x1B])
    (hcan : s.chip.canIssue e) (hv : e.onVigil = false) :
    let ea := ((s.chip.gGet e a).setWidth 32 + imm.signExtend 32 : Word).toNat
    let v := (s.chip.gGet e src).toNat
    (∀ base, storePlace e ea n base → issues i s fun c =>
      s.chip.memStored c base n v ∧ s.chip.branched { c with mem := s.chip.mem } e ((s.chip.ectx e).pc + 4)) ∧
    (e.onLadle = true → ea / 2 ^ 28 = 2 → ea % 2 ^ 28 + n ≤ 320 → ea % 2 ^ 28 + n ≤ (s.chip.fctx e).header.length →
      issues i s fun c => c.mem = s.chip.mem ∧ s.chip.stepped c e ((s.chip.ectx e).pc + 4) ∧ s.chip.onlyEngine c ∧
        (∀ r, c.gGet e r = s.chip.gGet e r) ∧
        c.fctx e = { s.chip.fctx e with
          header := (s.chip.fctx e).header.take (ea % 2 ^ 28) ++ beBytes n (v % 256 ^ n) ++
            (s.chip.fctx e).header.drop (ea % 2 ^ 28 + n) }) := by
  intro ea v
  have hlegal : wordLegal e (wordI op src a imm) = true := wordLegal_fullI hop hv
  have hbranched := Chip.branched_advance s.chip e
  have hcut : v % 2 ^ (8 * n) = v % 256 ^ n := by rw [pow_mul]; norm_num
  refine ⟨fun base hplace => ?_, fun hlad hs hlen hhead => ?_⟩
  · refine issues_of_ok (d := (s.chip.advance e).memWrite base (leBytes n (v % 256 ^ n))) hcode hexec hlegal hcan ?_ ?_
      ⟨?_, ?_⟩
    · simp only [Chip.ea, Chip.gGet_advance]
      rw [← hcut]
      exact Chip.storeAt_place hplace
    · rw [Chip.memWrite_vlt, Chip.vlt_advance]
    · have hstored : (s.chip.advance e).memStored ((s.chip.advance e).memWrite base (leBytes n (v % 256 ^ n))) base n v := by
        refine Chip.memStored_memWrite rfl fun i hi => ?_
        rw [← Nat.mod_mul_right_div_self, ← Nat.mod_mul_right_div_self, ← pow_succ,
          Nat.mod_mod_of_dvd _ (pow_dvd_pow _ (by omega))]
      intro z
      rw [hstored z, Chip.memGet, Chip.mem_advance]
      rfl
    · refine Chip.branched_congr hbranched (by simp) ?_
      rw [← Chip.mem_advance s.chip e, Chip.memWrite_back]
      exact hbranched.2.2.1
  · obtain ⟨hg, hstepped, honly, -⟩ := hbranched
    refine issues_of_ok (d := (s.chip.advance e).setFctx e { s.chip.fctx e with
          header := (s.chip.fctx e).header.take (ea % 2 ^ 28) ++ beBytes n (v % 256 ^ n) ++
            (s.chip.fctx e).header.drop (ea % 2 ^ 28 + n) }) hcode hexec hlegal hcan ?_ ?_ ⟨?_, hstepped, ?_, hg, ?_⟩
    · cases e <;> simp only [Eng.onLadle, Bool.false_eq_true] at hlad
      simp only [Chip.ea, Chip.gGet_advance, Chip.storeAt, Chip.fctx_advance]
      rw [hcut]
      simp only [ea] at hs hlen hhead
      simp only [hs]
      rw [if_neg (by simp only [Bool.and_eq_true, decide_eq_true_eq]; omega), if_neg (by omega)]
    · exact Chip.onlyEngine_owners (d := s.chip.advance e) honly
    · exact Chip.mem_advance _ _
    · exact Chip.onlyEngine_trans honly ⟨rfl, fun _ => ⟨rfl, rfl, rfl⟩⟩
    · simp [Chip.fctx, Chip.setFctx]

end

/-- Settles O4: a store writes program memory (`Chip.storeAt_place`) or the header of its thread's frame. -/
theorem storeResults : Obligations.StoreResults := by
  unfold Obligations.StoreResults
  intro s e src a imm hcan hv
  exact ⟨issues_store rfl rfl (by decide) hcan hv, issues_store rfl rfl (by decide) hcan hv,
    issues_store rfl rfl (by decide) hcan hv, issues_store rfl rfl (by decide) hcan hv⟩

end Sys2Proof.Machine

/-! PROOFS. Fleli's system instructions (Table 12.6), and the debug commands of a Ladle (R352). -/
namespace Sys2Proof.Machine

/-! ### System instructions -/

/-- An event that takes no token, under `Chip.logs`. -/
theorem Chip.raise_logs {c : Chip} {code src : Nat} {items : List (Nat × Nat)} (h : c.logs) (hl : limitable code = false) :
    c.raise code src items = { c with evr := { c.evr with intake := c.evr.intake ++ [⟨code, src, items, false⟩] } } :=
  Chip.raise_intake h.1 hl (by have := h.2; omega)

section
variable {s : State} {e : Eng} {d : Fin 32}

theorem wordLegal_system {func : Nat} (hf : func = 0x041 ∨ func = 0x042) (hv : e.onVigil = false) :
    wordLegal e (wordA 0x00 func 0 0 0) = true := by
  rw [wordLegal_wordA (by omega), legalA]
  rcases hf with rfl | rfl <;> simp [hv]

theorem wordLegal_rdcyc (hv : e.onVigil = false) : wordLegal e (wordA 0x00 0x043 d 0 0) = true := by
  rw [wordLegal_wordA (by omega), legalA]
  simp [hv]

theorem wordLegal_halt (hl : e.onLadle = false) : wordLegal e (wordA 0x00 0x040 0 0 0) = true := by
  rw [wordLegal_wordA (by omega), legalA]
  simp [hl]

/-- An instruction that does nothing but go on. -/
theorem issues_nothing {i : Instr} {w : Word} {body : Body} (hcode : codeOf i = some (e, w))
    (hexec : exec i s = fleli e w (fun c => c.issue e body) s) (hlegal : wordLegal e w = true) (hcan : s.chip.canIssue e)
    (hbody : body (s.chip.advance e) = .ok (s.chip.advance e)) :
    issues i s fun c => s.chip.branched c e ((s.chip.ectx e).pc + 4) :=
  issues_of_ok hcode hexec hlegal hcan hbody (by rw [Chip.vlt_advance]) (Chip.branched_advance _ _)

theorem issues_rdcyc (hcan : s.chip.canIssue e) (hv : e.onVigil = false) :
    issues (.rdcyc e d) s fun c => s.chip.computed c e d (BitVec.ofNat 64 ((s.chip.ectx e).issued + 1)) :=
  issues_computed (w := wordA 0x00 0x043 d 0 0) rfl rfl (wordLegal_rdcyc hv) hcan (by rw [Chip.ectx_advance, EngCtx.next_issued])

theorem issues_brk_on (hcan : s.chip.canIssue e) (hv : e.onVigil = false) (h : e.onLadle = false ∨ s.chip.ctl.dbg < 2) :
    issues (.brk e) s fun c => s.chip.branched c e ((s.chip.ectx e).pc + 4) := by
  refine issues_nothing (w := wordA 0x00 0x042 0 0 0) rfl rfl (wordLegal_system (.inr rfl) hv) hcan ?_
  cases e with
  | ladle m t =>
    have hdbg : s.chip.ctl.dbg < 2 := h.resolve_left (by simp [Eng.onLadle])
    simp [Chip.debugging, Chip.when, hdbg]
  | _ => rfl

/-- `brk` at a debug level from D2: the thread has gone on and halts, with its event. -/
theorem issues_brk_halts {m : Fin 256} {t : Fin 4} (hcan : s.chip.canIssue (.ladle m t)) (hdbg : 2 ≤ s.chip.ctl.dbg)
    (hlogs : s.chip.logs) :
    issues (.brk (.ladle m t)) s fun c =>
      (c.ectx (.ladle m t)).halted = true ∧ (c.ectx (.ladle m t)).pc = (s.chip.ectx (.ladle m t)).pc + 4 ∧
      (∀ q, c.gGet (.ladle m t) q = s.chip.gGet (.ladle m t) q) ∧
      s.chip.logged c [⟨Ev.LAD_BRK, 0x100 + m.val, [], false⟩] := by
  obtain ⟨hectx, -, ⟨hframe, -⟩, -⟩ := Chip.advance_spec s.chip (.ladle m t)
  have hevr : (s.chip.advance (.ladle m t)).evr = s.chip.evr := by rw [hframe]
  obtain ⟨adv, hadv⟩ : ∃ adv, s.chip.advance (.ladle m t) = adv := ⟨_, rfl⟩
  have hectxAt : adv.ectxAt (m.val * 4 + t.val) = (s.chip.ectx (.ladle m t)).next := by rw [← hadv, ← hectx]; rfl
  rw [hadv] at hevr
  have hvlt : adv.vlt = s.chip.vlt := by rw [← hadv, Chip.vlt_advance]
  have hhalt : adv.haltThread m.val t.val =
      { adv.setEctxAt (m.val * 4 + t.val) { (s.chip.ectx (.ladle m t)).next with halted := true, stepOne := false } with
        evr := { adv.evr with intake := adv.evr.intake ++ [⟨Ev.LAD_BRK, 0x100 + m.val, [], false⟩] } } := by
    rw [Chip.haltThread, hectxAt]
    exact Chip.raise_logs (by rw [Chip.logs, Chip.setEctxAt_eq, hevr]; exact hlogs) (by decide)
  refine issues_of_ok (w := wordA 0x00 0x042 0 0 0) (d := adv.haltThread m.val t.val) rfl rfl
    (wordLegal_system (.inr rfl) rfl) hcan ?_ ?_ ?_
  · rw [hadv]
    have hdebug : adv.debugging = true := by rw [← hadv]; simpa [Chip.debugging] using hdbg
    simp [hdebug]
  · rw [hhalt, ← hvlt]
    rfl
  · have hat : (adv.haltThread m.val t.val).ectx (.ladle m t) =
        { (s.chip.ectx (.ladle m t)).next with halted := true, stepOne := false } := by
      rw [hhalt]
      exact (Chip.ectxAt_setEctxAt _ _ _ _).trans (if_pos rfl)
    refine ⟨by rw [hat], by rw [hat]; rfl, fun q => by simp only [Chip.gGet, hat]; rfl, ?_⟩
    rw [Chip.logged, hhalt, ← hevr]

/-- `halt` ends a key sequencer's run; an order does not wait for it. -/
theorem issues_halt_ksq {j : Fin 2} (hcan : s.chip.canIssue (.ksq j)) (hwait : s.chip.ord.wait ≠ .ksq) :
    issues (.halt (.ksq j)) s fun c =>
      c.ectx (.ksq j) = { g := (s.chip.ectx (.ksq j)).g } ∧ c.ksqCtx j.val = {} ∧ c.ord.stagedKsq = [] ∧
      c.ord.staged = s.chip.ord.staged ++ (if (s.chip.gGet (.ksq j) 1).toNat % 256 = 0 then s.chip.ord.stagedKsq else []) ∧
      c = { s.chip with eng := c.eng, ord := { s.chip.ord with staged := c.ord.staged, stagedKsq := [] } } := by
  have hadv : s.chip.advance (.ksq j) = s.chip.setEctx (.ksq j) (s.chip.ectx (.ksq j)).next := rfl
  refine issues_of_ok (w := wordA 0x00 0x040 0 0 0) rfl rfl (wordLegal_halt rfl) hcan rfl ?_ ?_ <;>
    rw [Chip.haltRun, Chip.ksqEnd, Chip.gGet_advance, hadv, if_neg (by exact hwait)]
  · rfl
  · refine ⟨?_, ?_, rfl, ?_, rfl⟩
    · simp [Chip.ectx, Chip.ectxAt, Chip.endRun, Chip.setEctx, Chip.setEctxAt, Chip.setKsq]
    · simp [Chip.ksqCtx, Chip.setKsq]
    · split_ifs <;> simp [Chip.setKsq, Chip.endRun, Chip.setEctx, Chip.setEctxAt]

/-- `halt` ends a run of the vigil program, which is reported once main power is present (R347). -/
theorem issues_halt_vigil (hcan : s.chip.canIssue .vigil) (hpower : s.chip.powered = false) :
    issues (.halt .vigil) s fun c =>
      c.ectx .vigil = { g := (s.chip.ectx .vigil).g } ∧
      c.eng.vigilReports = s.chip.eng.vigilReports ++ [(s.chip.eng.vigilCauses, s.chip.eng.vigilErased, 0)] ∧
      c = { s.chip with eng := c.eng } := by
  have hadv : s.chip.advance .vigil = s.chip.setEctx .vigil (s.chip.ectx .vigil).next := rfl
  have hpower' (f : Engines) : ({ s.chip with eng := f } : Chip).powered = false := hpower
  refine issues_of_ok (w := wordA 0x00 0x040 0 0 0) rfl rfl (wordLegal_halt rfl) hcan rfl ?_ ?_ <;>
    simp only [Chip.haltRun, Chip.vigilEnd, hadv, Chip.vigilReport, Chip.when, ne_eq, not_true_eq_false, decide_false,
      Bool.false_eq_true, if_false, Chip.endRun, Chip.setEctx_eq, Chip.modEng, hpower']
  exact ⟨by simp [Chip.ectx, Chip.ectxAt], trivial, trivial⟩

end

/-- Settles O5: each instruction's body on the advanced block. -/
theorem systemInstructions : Obligations.SystemInstructions := by
  unfold Obligations.SystemInstructions
  intro s e d hcan
  refine ⟨fun hv => ⟨?_, issues_rdcyc hcan hv, issues_brk_on hcan hv⟩, ?_, ?_, ?_⟩
  · exact issues_nothing (w := wordA 0x00 0x041 0 0 0) rfl rfl (wordLegal_system (.inl rfl) hv) hcan rfl
  · rintro m t rfl
    exact issues_brk_halts hcan
  · rintro j rfl
    exact issues_halt_ksq hcan
  · rintro rfl
    exact issues_halt_vigil hcan

/-! ### Debug commands -/

/-- A block at debug level D2 without power. -/
def unpoweredDebug : State := { chip := { ctl := { mode := .off, dbg := 2 } } }

/-- The driver's halt of a thread is a register write, which a block without power does not take. -/
theorem ladDbgHalt_unpowered : completes (.ladDbgHalt 0) unpoweredDebug fun d => (d.ectxAt 0).halted = false := by
  rw [completes_iff rfl]
  decide +kernel

/-- Refutes O6: its first clause asks for the debug level alone, and a block without power, `unpoweredDebug`, takes no
register write. -/
theorem not_ladleDebug : ¬ Obligations.LadleDebug := by
  unfold Obligations.LadleDebug
  intro h
  obtain ⟨hon, -⟩ := h unpoweredDebug 0
  obtain ⟨hhalt, -⟩ := hon (by decide)
  obtain ⟨d, ⟨hthreads, -⟩, hrunning⟩ := completes_unique hhalt ladDbgHalt_unpowered
  have hhalted := hthreads 0
  rw [if_pos (by decide +kernel)] at hhalted
  rw [hhalted] at hrunning
  exact absurd hrunning (by decide)

end Sys2Proof.Machine

/-! PROOFS. The instructions on a thread's frame header (R308 to R317). -/
namespace Sys2Proof.Machine

/-! ### Legal words of form X -/

/-- The fields of a word of form X that its instruction reads. -/
def fieldsX (op xop : Nat) (d a b : Fin 32) (m : BitVec 5) : Fields :=
  { op := op, d := d, a := a, b := b, func := 0, imm := 0, far := 0, xop := xop, mod' := m }

section
variable {xop : Nat} {d a b : Fin 32} {m : BitVec 5}

theorem wordLegal_frame {l : Fin 256} {t : Fin 4} (hx : xop < 64) :
    wordLegal (.ladle l t) (wordX 0x30 xop d a b m) = legalF (fieldsX 0x30 xop d a b m) := by
  obtain ⟨hop, hd, ha, hb, hxop, hm⟩ := fields_wordX (op := 0x30) (xop := xop) d a b m (by decide) hx
  simp only [wordLegal, hop, Eng.onLadle, Bool.true_and, legalF, hd, ha, hb, hxop, hm, fieldsX] <;> rfl

theorem wordLegal_key {j : Fin 2} (hx : xop < 64) :
    wordLegal (.ksq j) (wordX 0x34 xop d a b m) = legalK (fieldsX 0x34 xop d a b m) := by
  obtain ⟨hop, hd, ha, hb, hxop, hm⟩ := fields_wordX (op := 0x34) (xop := xop) d a b m (by decide) hx
  simp only [wordLegal, hop, Eng.onKsq, Bool.true_and, legalK, hd, ha, hb, hxop, hm, fieldsX] <;> rfl

theorem wordLegal_order (hx : xop < 64) :
    wordLegal .order (wordX 0x38 xop d a b m) = legalO (fieldsX 0x38 xop d a b m) := by
  obtain ⟨hop, hd, ha, hb, hxop, hm⟩ := fields_wordX (op := 0x38) (xop := xop) d a b m (by decide) hx
  simp only [wordLegal, hop, Eng.onOrder, Bool.true_and, legalO, hd, ha, hb, hxop, hm, fieldsX] <;> rfl

theorem wordLegal_vigil (hx : xop < 64) :
    wordLegal .vigil (wordX 0x3C xop d a b m) = (Eng.vigil.has [d, a, b] && legalV (fieldsX 0x3C xop d a b m)) := by
  obtain ⟨hop, hd, ha, hb, hxop, hm⟩ := fields_wordX (op := 0x3C) (xop := xop) d a b m (by decide) hx
  simp only [wordLegal, hop, Eng.onVigil, Bool.true_and, legalV, hd, ha, hb, hxop, hm, fieldsX] <;> rfl

end

/-! ### A thread's frame state -/

@[simp] theorem Chip.fctx_setFctx (c : Chip) (e : Eng) (x : FrameCtx) : (c.setFctx e x).fctx e = x := by
  simp [Chip.fctx, Chip.setFctx]

@[simp] theorem Chip.fctx_gSet (c : Chip) (e f : Eng) (r : Fin 32) (v : DWord) : (c.gSet e r v).fctx f = c.fctx f := by
  simp only [Chip.fctx, Chip.gSet_frames]

theorem Chip.setFctx_onlyEngine (c : Chip) (e : Eng) (x : FrameCtx) : c.onlyEngine (c.setFctx e x) :=
  ⟨rfl, fun _ => ⟨rfl, rfl, rfl⟩⟩

@[simp] theorem Chip.gGet_setFctx (c : Chip) (e f : Eng) (x : FrameCtx) (r : Fin 32) :
    (c.setFctx e x).gGet f r = c.gGet f r := rfl

@[simp] theorem Chip.threadFrame_advance (c : Chip) (e : Eng) : (c.advance e).threadFrame e = c.threadFrame e := by
  have hpath : (c.advance e).path = c.path := by rw [(Chip.advance_spec c e).2.2.1.1]
  simp only [Chip.threadFrame, Chip.fctx_advance, Chip.frame, hpath]

/-- An instruction of a thread has marked its frame, and gone on. -/
def Chip.markedFrame (c d : Chip) (e : Eng) (y : FrameCtx) : Prop :=
  d.fctx e = y ∧ c.stepped d e ((c.ectx e).pc + 4) ∧ c.onlyEngine d ∧ ∀ q, d.gGet e q = c.gGet e q

theorem Chip.markedFrame_setFctx (c : Chip) (e : Eng) (y : FrameCtx) : c.markedFrame ((c.advance e).setFctx e y) e y := by
  obtain ⟨hg, hstepped, honly, -⟩ := Chip.branched_advance c e
  exact ⟨Chip.fctx_setFctx _ _ _, hstepped, Chip.onlyEngine_trans honly (Chip.setFctx_onlyEngine _ _ _), hg⟩

/-- An instruction of a thread has marked its frame and given a result, and gone on. -/
def Chip.gaveFrame (c d : Chip) (e : Eng) (r : Fin 32) (y : FrameCtx) (v : DWord) : Prop :=
  d.fctx e = y ∧ c.wrote d e r v ∧ c.stepped d e ((c.ectx e).pc + 4) ∧ c.onlyEngine d

theorem Chip.gaveFrame_gSet (c : Chip) (e : Eng) (r : Fin 32) (y : FrameCtx) (v : DWord) :
    c.gaveFrame (((c.advance e).setFctx e y).gSet e r v) e r y v := by
  obtain ⟨hfctx, ⟨hpc, hissued, hother⟩, honly, hg⟩ := Chip.markedFrame_setFctx c e y
  refine ⟨by rw [Chip.fctx_gSet, hfctx], fun q => by rw [Chip.gGet_gSet, hg],
    ⟨by rw [Chip.gSet_pc, hpc], by rw [Chip.gSet_issued, hissued], fun k hk => ?_⟩,
    Chip.onlyEngine_trans honly (Chip.gSet_onlyEngine _ _ _ _)⟩
  rw [Chip.ectxAt_gSet _ _ _ _ hk, hother k hk]

section
variable {s : State} {e : Eng} {w : Word} {i : Instr} {body : Body} {y : FrameCtx}

theorem issues_markedFrame (hcode : codeOf i = some (e, w)) (hexec : exec i s = fleli e w (fun c => c.issue e body) s)
    (hlegal : wordLegal e w = true) (hcan : s.chip.canIssue e)
    (hbody : body (s.chip.advance e) = .ok ((s.chip.advance e).setFctx e y)) :
    issues i s fun c => s.chip.markedFrame c e y := by
  have hmark := Chip.markedFrame_setFctx s.chip e y
  exact issues_of_ok hcode hexec hlegal hcan hbody (Chip.onlyEngine_owners hmark.2.2.1) hmark

theorem issues_gaveFrame {r : Fin 32} {v : DWord} {f : Chip → Chip} (hcode : codeOf i = some (e, w))
    (hexec : exec i s = fleli e w f s) (hf : f s.chip = s.chip.issue e body) (hlegal : wordLegal e w = true)
    (hcan : s.chip.canIssue e) (hbody : body (s.chip.advance e) = .ok (((s.chip.advance e).setFctx e y).gSet e r v)) :
    issues i s fun c => s.chip.gaveFrame c e r y v := by
  have hgave := Chip.gaveFrame_gSet s.chip e r y v
  have hissue : f s.chip = ((s.chip.advance e).setFctx e y).gSet e r v := hf.trans (Chip.issue_ok hcan hbody)
  exact issues_of hcode hexec hlegal (by rw [hissue]; exact Chip.onlyEngine_owners hgave.2.2.2) (by rw [hissue]; exact hgave)

end

/-! ### The instructions -/

section
variable {s : State} {l : Fin 256} {t : Fin 4} {d a b : Fin 32} (hcan : s.chip.canIssue (.ladle l t))
include hcan

theorem issues_fskip {k : BitVec 5} (hk : k.toNat < 6) (ha : (s.chip.gGet (.ladle l t) a).toNat ≤ 511) :
    issues (.fskip (.ladle l t) d a k) s fun c =>
      let o := (s.chip.gGet (.ladle l t) a).toNat
      let r := o + (s.chip.fctx (.ladle l t)).headerLen k.toNat o
      s.chip.computed c (.ladle l t) d (BitVec.ofNat 64 (if r ≤ 511 then r else 0xFFFF)) := by
  refine issues_computed (w := wordX 0x30 0x01 d a 0 k) rfl rfl (by simp [wordLegal_frame, legalF, fieldsX, hk]) hcan ?_
  simp only [Chip.gGet_advance, Chip.fctx_advance, if_neg (Nat.not_lt.2 ha), ← Nat.not_lt (b := _ + _), ite_not]

theorem issues_fins {n : BitVec 5} {x : FrameCtx} (hx : s.chip.fctx (.ladle l t) = x) (hpos : 0 < n.toNat) (hmax : n.toNat ≤ 8)
    (ha : (s.chip.gGet (.ladle l t) a).toNat ≤ x.header.length) (hhi : x.netEdit + n.toNat ≤ 64)
    (hlo : -64 ≤ x.netEdit + n.toNat) :
    issues (.fins (.ladle l t) a b n) s fun c => s.chip.markedFrame c (.ladle l t) { x with
      header := x.header.take (s.chip.gGet (.ladle l t) a).toNat ++ beBytes n.toNat (s.chip.gGet (.ladle l t) b).toNat ++
        x.header.drop (s.chip.gGet (.ladle l t) a).toNat,
      netEdit := x.netEdit + n.toNat } := by
  refine issues_markedFrame (w := wordX 0x30 0x02 0 a b n) rfl rfl (by simp [wordLegal_frame, legalF, fieldsX]) hcan ?_
  have hfits : ¬ (n.toNat = 0 || 8 < n.toNat || x.header.length < (s.chip.gGet (.ladle l t) a).toNat) = true := by
    simp only [Bool.or_eq_true, decide_eq_true_eq]
    omega
  have hnet : ¬ (x.netEdit + (n.toNat : Int) < -64 || 64 < x.netEdit + (n.toNat : Int)) = true := by
    simp only [Bool.or_eq_true, decide_eq_true_eq]
    omega
  simp only [Chip.gGet_advance, Chip.fctx_advance, hx, if_neg hfits, Chip.editHeader, if_neg hnet]

theorem issues_fdel {x : FrameCtx} (hx : s.chip.fctx (.ladle l t) = x) (hpos : 0 < (s.chip.gGet (.ladle l t) b).toNat)
    (hmax : (s.chip.gGet (.ladle l t) b).toNat ≤ 64)
    (ha : (s.chip.gGet (.ladle l t) a).toNat + (s.chip.gGet (.ladle l t) b).toNat ≤ x.header.length)
    (hlo : -64 ≤ x.netEdit - (s.chip.gGet (.ladle l t) b).toNat) (hhi : x.netEdit - (s.chip.gGet (.ladle l t) b).toNat ≤ 64) :
    issues (.fdel (.ladle l t) a b) s fun c => s.chip.markedFrame c (.ladle l t) { x with
      header := x.header.take (s.chip.gGet (.ladle l t) a).toNat ++
        x.header.drop ((s.chip.gGet (.ladle l t) a).toNat + (s.chip.gGet (.ladle l t) b).toNat),
      netEdit := x.netEdit - (s.chip.gGet (.ladle l t) b).toNat } := by
  refine issues_markedFrame (w := wordX 0x30 0x03 0 a b 0) rfl rfl (by simp [wordLegal_frame, legalF, fieldsX]) hcan ?_
  have hfits : ¬ ((s.chip.gGet (.ladle l t) b).toNat = 0 || 64 < (s.chip.gGet (.ladle l t) b).toNat ||
      x.header.length < (s.chip.gGet (.ladle l t) a).toNat + (s.chip.gGet (.ladle l t) b).toNat) = true := by
    simp only [Bool.or_eq_true, decide_eq_true_eq]
    omega
  have hnet : ¬ (x.netEdit - ((s.chip.gGet (.ladle l t) b).toNat : Int) < -64 ||
      64 < x.netEdit - ((s.chip.gGet (.ladle l t) b).toNat : Int)) = true := by
    simp only [Bool.or_eq_true, decide_eq_true_eq]
    omega
  simp only [Chip.gGet_advance, Chip.fctx_advance, hx, if_neg hfits, Chip.editHeader, ← Int.sub_eq_add_neg, if_neg hnet]

theorem issues_fwin (hcome : (s.chip.threadFrame (.ladle l t)).coming = false)
    (hpoison : s.chip.readsPoison (s.chip.threadFrame (.ladle l t)) = false) :
    issues (.fwin (.ladle l t) d a) s fun c =>
      let f := s.chip.threadFrame (.ladle l t)
      let b := ((f.data ++ fcs f.data).drop (s.chip.gGet (.ladle l t) a).toNat).take 192
      s.chip.gaveFrame c (.ladle l t) d { s.chip.fctx (.ladle l t) with extra := b, extraValid := b.length }
        (BitVec.ofNat 64 b.length) := by
  refine issues_gaveFrame (w := wordX 0x30 0x00 d a 0 0) rfl rfl (if_neg (by simp [hcome]))
    (by simp [wordLegal_frame, legalF, fieldsX]) hcan ?_
  have hread : (s.chip.advance (.ladle l t)).readsPoison (s.chip.threadFrame (.ladle l t)) = false := by
    rw [← hpoison, (Chip.advance_spec s.chip (.ladle l t)).2.2.1.1]
    rfl
  simp only [Chip.threadFrame_advance, Chip.gGet_advance, Chip.fctx_advance, hread]
  rfl

theorem issues_cseal :
    issues (.cseal (.ladle l t) a) s fun c => s.chip.markedFrame c (.ladle l t)
      { s.chip.fctx (.ladle l t) with sealMark := some ((s.chip.gGet (.ladle l t) a).setWidth 32) } := by
  refine issues_markedFrame (w := wordX 0x30 0x0C 0 a 0 0) rfl rfl (by simp [wordLegal_frame, legalF, fieldsX]) hcan ?_
  have hlow : BitVec.ofNat 32 (low32 (s.chip.gGet (.ladle l t) a)) = (s.chip.gGet (.ladle l t) a).setWidth 32 :=
    BitVec.eq_of_toNat_eq (by simp [low32])
  simp only [Chip.gGet_advance, Chip.fctx_advance, hlow]

theorem issues_tdep (ha : (s.chip.gGet (.ladle l t) a).toNat ≤ 255) :
    issues (.tdep (.ladle l t) a) s fun c => s.chip.markedFrame c (.ladle l t)
      { s.chip.fctx (.ladle l t) with depMark := some (s.chip.gGet (.ladle l t) a).toNat } := by
  refine issues_markedFrame (w := wordX 0x30 0x15 0 a 0 0) rfl rfl (by simp [wordLegal_frame, legalF, fieldsX]) hcan ?_
  simp only [Chip.gGet_advance, Chip.fctx_advance, if_neg (Nat.not_lt.2 ha)]

/-- `copen` of a frame that is open under the handle that it names. -/
theorem issues_copen_bound (hwait : s.chip.earlyWait (.ladle l t) = false)
    (hfirst : (s.chip.fctx (.ladle l t)).copenDone = false)
    (hopen : ((s.chip.threadFrame (.ladle l t)).early.getD {}).opened = true)
    (hhandle : ((s.chip.threadFrame (.ladle l t)).early.getD {}).handle = (s.chip.gGet (.ladle l t) a).setWidth 32) :
    issues (.copen (.ladle l t) d a) s fun c => s.chip.gaveFrame c (.ladle l t) d
      { s.chip.fctx (.ladle l t) with copenDone := true, bound := some ((s.chip.gGet (.ladle l t) a).setWidth 32) } 0 := by
  refine issues_gaveFrame (w := wordX 0x30 0x0D d a 0 0) rfl rfl (if_neg (by simp [hwait]))
    (by simp [wordLegal_frame, legalF, fieldsX]) hcan ?_
  have hlow : BitVec.ofNat 32 (low32 (s.chip.gGet (.ladle l t) a)) = (s.chip.gGet (.ladle l t) a).setWidth 32 :=
    BitVec.eq_of_toNat_eq (by simp [low32])
  simp only [Chip.threadFrame_advance, Chip.gGet_advance, Chip.fctx_advance, hfirst, hopen, hhandle, hlow, Bool.not_true,
    Bool.or_self, Bool.false_eq_true, if_false, ne_eq, not_true_eq_false]

/-- `copen` a second time, or of a frame that is not opened. -/
theorem issues_copen_none (hwait : s.chip.earlyWait (.ladle l t) = false)
    (h : (s.chip.fctx (.ladle l t)).copenDone = true ∨ ((s.chip.threadFrame (.ladle l t)).early.getD {}).opened = false) :
    issues (.copen (.ladle l t) d a) s fun c => s.chip.gaveFrame c (.ladle l t) d
      { s.chip.fctx (.ladle l t) with copenDone := true } 1 := by
  refine issues_gaveFrame (w := wordX 0x30 0x0D d a 0 0) rfl rfl (if_neg (by simp [hwait]))
    (by simp [wordLegal_frame, legalF, fieldsX]) hcan ?_
  have hnone : ((s.chip.fctx (.ladle l t)).copenDone || !((s.chip.threadFrame (.ladle l t)).early.getD {}).opened) = true := by
    simpa using h
  simp only [Chip.threadFrame_advance, Chip.gGet_advance, Chip.fctx_advance, if_pos hnone]

/-- `tnow` of the whole time at D0, where no counter moves. -/
theorem issues_tnow_time (hdbg : s.chip.ctl.dbg = 0) :
    issues (.tnow (.ladle l t) d 0) s fun c =>
      s.chip.computed c (.ladle l t) d (BitVec.ofNat 64 (packTime s.chip.tim.clock s.chip.holdover)) := by
  refine issues_computed (w := wordX 0x30 0x14 d 0 0 0) rfl rfl (by simp [wordLegal_frame, legalF, fieldsX]) hcan ?_
  have hregs := ((Chip.advance_spec s.chip (.ladle l t)).2.2.1.2 hdbg).1
  have hold : (s.chip.advance (.ladle l t)).holdover = s.chip.holdover := by
    simp only [Chip.holdover, Chip.getB, Chip.getF_congr hregs]
  simp [hold]

theorem issues_tnow_sec :
    issues (.tnow (.ladle l t) d 1) s fun c =>
      s.chip.computed c (.ladle l t) d (BitVec.ofNat 64 s.chip.tim.clock.sec) :=
  issues_computed (w := wordX 0x30 0x14 d 0 0 1) rfl rfl (by simp [wordLegal_frame, legalF, fieldsX]) hcan (by simp)

theorem issues_tnow_elapsed :
    issues (.tnow (.ladle l t) d 2) s fun c => s.chip.computed c (.ladle l t) d s.chip.tim.elapsed :=
  issues_computed (w := wordX 0x30 0x14 d 0 0 2) rfl rfl (by simp [wordLegal_frame, legalF, fieldsX]) hcan (by simp)

end

/-- Settles O7: each instruction sets its thread's frame state, or a register, on the advanced block. -/
theorem frameHeaderInstructions : Obligations.FrameHeaderInstructions := by
  unfold Obligations.FrameHeaderInstructions
  intro s l t d a b e x f va vb pc marks gives hcan
  refine ⟨fun k hk ha => issues_fskip hcan hk ha, fun n hpos hmax ha hhi hlo => issues_fins hcan rfl hpos hmax ha hhi hlo,
    fun hpos hmax ha hlo hhi => issues_fdel hcan rfl hpos hmax ha hlo hhi, fun hcome hpoison => issues_fwin hcan hcome hpoison,
    issues_cseal hcan, fun hwait hfirst hopen hhandle => issues_copen_bound hcan hwait hfirst hopen hhandle,
    fun hwait h => issues_copen_none hcan hwait h, fun ha => issues_tdep hcan ha, issues_tnow_time hcan,
    issues_tnow_sec hcan, issues_tnow_elapsed hcan⟩

end Sys2Proof.Machine

/-! PROOFS. The offloads of a frame program (R254, R312 to R315): lookups, the meter, counters. -/
namespace Sys2Proof.Machine

/-! ### What the advance leaves for an offload -/

section
variable (c : Chip) (e : Eng)

@[simp] theorem Chip.path_advance : (c.advance e).path = c.path := by rw [(Chip.advance_spec c e).2.2.1.1]
@[simp] theorem Chip.sax_advance : (c.advance e).sax = c.sax := by rw [(Chip.advance_spec c e).2.2.1.1]
@[simp] theorem Chip.cnt_advance : (c.advance e).cnt = c.cnt := by rw [(Chip.advance_spec c e).2.2.1.1]
@[simp] theorem Chip.fwd_advance : (c.advance e).fwd = c.fwd := by rw [(Chip.advance_spec c e).2.2.1.1]
@[simp] theorem Chip.slu_advance : (c.advance e).slu = c.slu := by rw [(Chip.advance_spec c e).2.2.1.1]

end

/-- An offload is under way: beyond that the thread's state is as it was. -/
@[simp] theorem Chip.ectx_offload (c : Chip) (e : Eng) (d : Fin 32) (v : DWord) :
    (c.offload e d v).ectx e = { c.ectx e with offload := some (d.val, v) } := Chip.ectx_setEctx _ _ _

theorem Chip.offload_onlyEngine (c : Chip) (e : Eng) (d : Fin 32) (v : DWord) : c.onlyEngine (c.offload e d v) :=
  Chip.setEctx_onlyEngine _ _ _

@[simp] theorem Chip.fctx_offload (c : Chip) (e : Eng) (d : Fin 32) (v : DWord) : (c.offload e d v).fctx e = c.fctx e := rfl

@[simp] theorem Chip.fctx_perf (c : Chip) (m ev : Nat) (e : Eng) : (c.perf m ev).fctx e = c.fctx e := by
  simp only [Chip.fctx, Chip.perf_eng]

section
variable (c : Chip) (m ev : Nat)

@[simp] theorem Chip.perf_cnt : (c.perf m ev).cnt = c.cnt := by rw [Chip.perf_onlyRegs c m ev]
@[simp] theorem Chip.perf_fwd : (c.perf m ev).fwd = c.fwd := by rw [Chip.perf_onlyRegs c m ev]
@[simp] theorem Chip.perf_path : (c.perf m ev).path = c.path := by rw [Chip.perf_onlyRegs c m ev]
@[simp] theorem Chip.perf_evr : (c.perf m ev).evr = c.evr := by rw [Chip.perf_onlyRegs c m ev]

end

/-- A command whose effect issues an instruction, as `issues_of_ok`. -/
theorem issues_of_body {i : Instr} {s : State} {e : Eng} {w : Word} {f : Chip → Chip} {body : Body} {d : Chip}
    {post : Chip → Prop} (hcode : codeOf i = some (e, w)) (hexec : exec i s = fleli e w f s)
    (hf : f s.chip = s.chip.issue e body) (hlegal : wordLegal e w = true) (hcan : s.chip.canIssue e)
    (hbody : body (s.chip.advance e) = .ok d) (ho : d.vlt.owners = s.chip.vlt.owners) (hp : post d) : issues i s post := by
  have hd : f s.chip = d := hf.trans (Chip.issue_ok hcan hbody)
  exact issues_of hcode hexec hlegal (by rwa [hd]) (by rwa [hd])

section
variable {s : State} {l : Fin 256} {t : Fin 4} {d a b : Fin 32}

/-! ### The result -/

/-- A result reaches its register, and the thread waits no longer. -/
theorem offloadResult_completes {r : Nat} {v : DWord} (h : (s.chip.ectx (.ladle l t)).offload = some (r, v)) (hr : r < 32) :
    completes (.offloadResult l t) s fun c =>
      (c.ectx (.ladle l t)).offload = none ∧
      (∀ q : Fin 32, c.gGet (.ladle l t) q = if q.val = r ∧ r ≠ 0 then v else s.chip.gGet (.ladle l t) q) ∧
      (∀ k, k ≠ engKey (.ladle l t) → c.ectxAt k = s.chip.ectxAt k) ∧
      c = { s.chip with eng := { s.chip.eng with ctx := c.eng.ctx } } := by
  have hval : (Fin.ofNat 32 r).val = r := Nat.mod_eq_of_lt hr
  have hresult : s.chip.offloadResult (.ladle l t) =
      (s.chip.setEctx (.ladle l t) { s.chip.ectx (.ladle l t) with offload := none }).gSet (.ladle l t) (Fin.ofNat 32 r) v := by
    simp only [Chip.offloadResult, h]
  have hframe : s.chip.offloadResult (.ladle l t) =
      { s.chip with eng := { s.chip.eng with ctx := (s.chip.offloadResult (.ladle l t)).eng.ctx } } := by
    rw [hresult, Chip.gSet]
    split <;> rfl
  refine completes_of (f := fun c => c.offloadResult (.ladle l t)) rfl (by rw [hframe]) ⟨?_, fun q => ?_, fun k hk => ?_, hframe⟩
  · rw [hresult, Chip.ectx_gSet, Chip.ectx_setEctx]
  · rw [hresult, Chip.gGet_gSet]
    simp only [Fin.ext_iff, hval, Chip.gGet, Chip.ectx_setEctx]
  · rw [hresult, Chip.ectxAt_gSet _ _ _ _ hk, Chip.setEctx, Chip.ectxAt_setEctxAt, if_neg hk]

/-! ### The forwarding lookup -/

/-- A slot without a word that has gone bad is read as it stands. -/
theorem Chip.fwdParity_good {c : Chip} {w source : Nat} (h : SMap.get (fun _ => 0) c.fwd.bad w = 0) : c.fwdParity w source = c := by
  simp only [Chip.fwdParity, h, if_true]
  split <;> rfl

/-- A sequence whose every round leaves the block as it is. -/
theorem Chip.each_id {α : Type} {c : Chip} {f : Chip → α → Chip} (l : List α) (h : ∀ x ∈ l, f c x = c) : c.each l f = c := by
  induction l with
  | nil => rfl
  | cons x l ih => rw [Chip.each_cons, h x List.mem_cons_self, ih fun y hy => h y (List.mem_cons_of_mem _ hy)]

/-- A lookup on a port that does not learn, whose slots have no bad word: the destination's entry or the flood word, and no
source lookup (outcome 6). -/
theorem Chip.fwdLookup_quiet {c : Chip} {k vlan : Nat} {dst src : Bytes} {learn : Word} {first : Bool}
    (hlearn : c.getB F.FWD_PORT_CFG_learn [k] = false)
    (hgood : ∀ w ∈ fwdSlots (c.fwdKey k vlan dst) ++ fwdSlots (c.fwdKey k vlan src), SMap.get (fun _ => 0) c.fwd.bad w = 0) :
    c.fwdLookup k vlan dst src learn first [] =
      ((((c.fwdFind (c.fwdKey k vlan dst)).bind c.fwd?).elim
          (c.getF F.FWD_DOM_FLOOD_dest [c.getF F.FWD_PORT_CFG_domain [k]]) fun e => e.dest.toNat) +
        2 ^ 32 * b2n ((c.fwdFind (c.fwdKey k vlan dst)).bind c.fwd?).isSome + 2 ^ 33 * 6, none, c) := by
  have hread : (c.fwdUpset []).each (fwdSlots (c.fwdKey k vlan dst) ++ fwdSlots (c.fwdKey k vlan src))
      (fun c s => c.fwdParity s 0x21C) = c := Chip.each_id _ fun w hw => Chip.fwdParity_good (hgood w hw)
  have hsrc : (if first then c.srcLookup k (c.fwdKey k vlan src) learn else (6, none, c)) = (6, none, c) := by
    simp [Chip.srcLookup, hlearn]
  simp only [Chip.fwdLookup, hread, hsrc]
  cases (c.fwdFind (c.fwdKey k vlan dst)).bind c.fwd? <;> simp [b2n]

variable (hcan : s.chip.canIssue (.ladle l t))
include hcan

theorem issues_lkpFwd (hdbg : s.chip.ctl.dbg = 0) (ha : (s.chip.gGet (.ladle l t) a).toNat < 4096)
    (hlearn : s.chip.getB F.FWD_PORT_CFG_learn
      [(s.chip.threadFrame (.ladle l t)).entry * 4 + (s.chip.threadFrame (.ladle l t)).sub] = false)
    (hgood : ∀ o ∈ [0, 6], ∀ w ∈ fwdSlots (s.chip.fwdKey
        ((s.chip.threadFrame (.ladle l t)).entry * 4 + (s.chip.threadFrame (.ladle l t)).sub)
        (s.chip.gGet (.ladle l t) a).toNat (slice (s.chip.threadFrame (.ladle l t)).data o 6)),
      SMap.get (fun _ => 0) s.chip.fwd.bad w = 0) :
    issues (.lkpFwd (.ladle l t) d a b []) s fun c =>
      let f := s.chip.threadFrame (.ladle l t)
      let k := f.entry * 4 + f.sub
      let found := (s.chip.fwdFind (s.chip.fwdKey k (s.chip.gGet (.ladle l t) a).toNat (slice f.data 0 6))).bind s.chip.fwd?
      let dest := match found with
        | some y => y.dest.toNat
        | none => s.chip.getF F.FWD_DOM_FLOOD_dest [s.chip.getF F.FWD_PORT_CFG_domain [k]]
      (c.ectx (.ladle l t)).offload = some (d.val, BitVec.ofNat 64 (dest + 2 ^ 32 * b2n found.isSome + 2 ^ 33 * 6)) ∧
      (c.fctx (.ladle l t)).lkpDone = true ∧ (c.ectx (.ladle l t)).pc = (s.chip.ectx (.ladle l t)).pc + 4 ∧
      c.fwd = s.chip.fwd ∧ c.mem = s.chip.mem := by
  have hregs := ((Chip.advance_spec s.chip (.ladle l t)).2.2.1.2 hdbg).1
  have hF : ∀ f i, (s.chip.advance (.ladle l t)).getF f i = s.chip.getF f i := Chip.getF_congr hregs
  have hkey : (s.chip.advance (.ladle l t)).fwdKey = s.chip.fwdKey := by
    funext k v m
    simp only [Chip.fwdKey, hF]
  have hentry : (s.chip.advance (.ladle l t)).fwd? = s.chip.fwd? := by
    funext w
    simp only [Chip.fwd?, Chip.fwd_advance]
  have hfind : (s.chip.advance (.ladle l t)).fwdFind = s.chip.fwdFind := by
    funext w
    simp only [Chip.fwdFind, hentry]
  have hlook := Chip.fwdLookup_quiet (c := s.chip.advance (.ladle l t)) (first := !(s.chip.fctx (.ladle l t)).lkpDone)
    (learn := BitVec.ofNat 32 (low32 (s.chip.gGet (.ladle l t) b)))
    (k := (s.chip.threadFrame (.ladle l t)).entry * 4 + (s.chip.threadFrame (.ladle l t)).sub)
    (vlan := (s.chip.gGet (.ladle l t) a).toNat) (dst := slice (s.chip.threadFrame (.ladle l t)).data 0 6)
    (src := slice (s.chip.threadFrame (.ladle l t)).data 6 6) (by simpa only [Chip.getB, hF] using hlearn) (by
      intro w hw
      rw [hkey] at hw
      rw [Chip.fwd_advance]
      rcases List.mem_append.1 hw with hw | hw
      · exact hgood 0 (by simp) w hw
      · exact hgood 6 (by simp) w hw)
  rw [hkey, hentry, hfind, hF, hF] at hlook
  generalize hv : (Option.elim _ _ _ + 2 ^ 32 * _ + 2 ^ 33 * 6 : Nat) = v at hlook
  refine issues_of_ok (w := wordX 0x30 0x08 d a b 0) (d := (((s.chip.advance (.ladle l t)).setFctx (.ladle l t)
      { s.chip.fctx (.ladle l t) with
        lkpDone := true, excess := (s.chip.fctx (.ladle l t)).excess || bit v 36 }).offload (.ladle l t) d
          (BitVec.ofNat 64 v)).perf l.val 9) rfl rfl (by simp [wordLegal_frame, legalF, fieldsX]) hcan ?_ ?_ ?_
  · simp only [Chip.gGet_advance, Chip.threadFrame_advance, Chip.fctx_advance, if_neg (Nat.not_le.2 ha), List.map_nil, hlook]
    rfl
  · rw [Chip.perf_vlt]
    exact congrArg Vault.owners (Chip.vlt_advance _ _)
  · refine ⟨?_, ?_, ?_, ?_, ?_⟩
    · simp only [Chip.perf_ectx, Chip.ectx_offload, ← hv]
      cases (s.chip.fwdFind (s.chip.fwdKey _ _ _)).bind s.chip.fwd? <;> rfl
    · simp
    · simp only [Chip.perf_ectx, Chip.ectx_offload]
      exact congrArg EngCtx.pc (Chip.ectx_advance _ _)
    · rw [Chip.perf_fwd]
      exact Chip.fwd_advance _ _
    · rw [Chip.perf_mem]
      exact Chip.mem_advance _ _

/-! ### The lookup of an association -/

/-- A lookup of a channel's current transmit association starts an offload with its result. -/
theorem issues_lkpSa_channel {v : DWord} (ha : (s.chip.gGet (.ladle l t) a).toNat ≤ 32767)
    (hv : (if (s.chip.chan (s.chip.gGet (.ladle l t) a).toNat).txCur &&
        (s.chip.chan (s.chip.gGet (.ladle l t) a).toNat).current.isSome then
      saFound (s.chip.saHandle ((s.chip.chan (s.chip.gGet (.ladle l t) a).toNat).current.getD 0))
        (s.chip.sa ((s.chip.chan (s.chip.gGet (.ladle l t) a).toNat).current.getD 0)).an (s.chip.gGet (.ladle l t) a).toNat
        false false
      else 0) = v) :
    issues (.lkpSa (.ladle l t) d a true) s fun c =>
      (c.ectx (.ladle l t)).offload = some (d.val, v) ∧ (c.ectx (.ladle l t)).pc = (s.chip.ectx (.ladle l t)).pc + 4 ∧
      s.chip.onlyEngine c := by
  have honly := (Chip.advance_spec s.chip (.ladle l t)).2.2.1
  have hd : s.chip.onlyEngine (((s.chip.advance (.ladle l t)).offload (.ladle l t) d v).perf l.val 9) :=
    Chip.onlyEngine_trans honly (Chip.onlyEngine_trans (Chip.offload_onlyEngine _ _ _ _) (Chip.perf_onlyEngine _ _ _))
  have hchan : (s.chip.advance (.ladle l t)).chan = s.chip.chan := by funext k; simp only [Chip.chan, Chip.sax_advance]
  have hsa : (s.chip.advance (.ladle l t)).sa = s.chip.sa := by funext k; simp only [Chip.sa, Chip.sax_advance]
  have hhandle : (s.chip.advance (.ladle l t)).saHandle = s.chip.saHandle := by funext k; simp only [Chip.saHandle, hsa]
  refine issues_of_body (w := wordX 0x30 0x09 d a 0 1) rfl rfl (if_neg (by simp)) (by simp [wordLegal_frame, legalF, fieldsX])
    hcan ?_ (Chip.onlyEngine_owners hd) ⟨?_, ?_, hd⟩
  · simp only [Chip.gGet_advance, hchan, hsa, hhandle, hv, if_neg (Nat.not_lt.2 ha), if_true]
    rfl
  · simp
  · simp

/-- A lookup of the early lookup's association gives its result at once (R102). -/
theorem issues_lkpSa_early {y : Early} (hearly : (s.chip.threadFrame (.ladle l t)).early = some y) (hhit : y.hit = true) :
    issues (.lkpSa (.ladle l t) d a false) s fun c => s.chip.computed c (.ladle l t) d
      (saFound y.handle y.an y.channel y.opened y.testFail) := by
  have hcomp := Chip.computed_perf (Chip.computed_gSet s.chip (.ladle l t) d
    (saFound y.handle y.an y.channel y.opened y.testFail)) l.val 9
  refine issues_of_body (w := wordX 0x30 0x09 d a 0 0) rfl rfl (if_neg ?_) (by simp [wordLegal_frame, legalF, fieldsX])
    hcan ?_ (Chip.onlyEngine_owners hcomp.2.2.1) hcomp
  · simp [Chip.earlyWait, hearly]
  · simp only [Chip.threadFrame_advance, hearly, Option.getD_some, Chip.saResult, hhit, if_true, Bool.false_eq_true, if_false]
    rfl

end

/-! ### Counters and the meter -/

/-- A count changes the statistics alone. -/
theorem Chip.count_eq (c : Chip) (sp : Bool) (i n : Nat) : c.count sp i n = { c with cnt := (c.count sp i n).cnt } := by
  cases sp <;> rfl

/-- Two counters side by side, one of them of events. -/
theorem Chip.cntGet_count_pair (c : Chip) (i n j : Nat) :
    ((c.count false i).count false (i + 1) n).cntGet false j =
      if j = i then c.cntGet false j + 1 else if j = i + 1 then c.cntGet false j + BitVec.ofNat 64 n
      else c.cntGet false j := by
  simp only [Chip.cntGet_count, true_and]
  by_cases h : j = i
  · simp [h]
  · simp [h]

theorem Chip.cntGet_congr {c d : Chip} (h : d.cnt = c.cnt) (sp : Bool) (j : Nat) : d.cntGet sp j = c.cntGet sp j := by
  simp only [Chip.cntGet, h]

theorem Meter.colour_le (m : Meter) (n input : Nat) : (m.colour n input).1 ≤ 2 := by
  simp only [Meter.colour]
  split_ifs <;> simp

/-- A use of a meter gives a colour, which the meter's counters count. -/
theorem Chip.useMeter_spec (c : Chip) (i n input : Nat) :
    (c.useMeter i n input).1 ≤ 2 ∧ c.useMeter i n input = ((c.useMeter i n input).1,
      { c with slu := (c.useMeter i n input).2.slu, cnt := (c.useMeter i n input).2.cnt }) ∧
    ∀ j, (c.useMeter i n input).2.cntGet false j =
      if j = 0x34000 + i * 8 + 2 * (c.useMeter i n input).1 then c.cntGet false j + 1
      else if j = 0x34000 + i * 8 + 2 * (c.useMeter i n input).1 + 1 then c.cntGet false j + BitVec.ofNat 64 n
      else c.cntGet false j :=
  ⟨Meter.colour_le _ _ _, by simp only [Chip.useMeter]; rfl, fun j => Chip.cntGet_count_pair _ _ _ _⟩

/-- What is done to a frame changes the frames alone, when it sets that frame. -/
theorem Chip.onFrame_setFrame_eq (c : Chip) (n : Nat) (g : Frame → Frame) :
    (c.onFrame n fun f c => c.setFrame n (some (g f))) =
      { c with path := (c.onFrame n fun f c => c.setFrame n (some (g f))).path } := by
  simp only [Chip.onFrame]
  split <;> rfl

section
variable {s : State} {l : Fin 256} {t : Fin 4} {d a b : Fin 32} (hcan : s.chip.canIssue (.ladle l t))
include hcan

/-- `cinc` counts, and goes on. -/
theorem issues_cinc (ha : (s.chip.gGet (.ladle l t) a).toNat ≤ 65535) :
    issues (.cinc (.ladle l t) a b) s fun c =>
      (∀ i, c.cntGet false i =
        if i = 0x60000 + 2 * (s.chip.gGet (.ladle l t) a).toNat then s.chip.cntGet false i + 1
        else if i = 0x60000 + 2 * (s.chip.gGet (.ladle l t) a).toNat + 1 then s.chip.cntGet false i + s.chip.gGet (.ladle l t) b
        else s.chip.cntGet false i) ∧
      s.chip.branched { c with cnt := s.chip.cnt } (.ladle l t) ((s.chip.ectx (.ladle l t)).pc + 4) := by
  have hbranched := Chip.branched_advance s.chip (.ladle l t)
  refine issues_of_ok (w := wordX 0x30 0x11 0 a b 0)
    (d := ((s.chip.advance (.ladle l t)).count false (0x60000 + 2 * (s.chip.gGet (.ladle l t) a).toNat)).count false
      (0x60000 + 2 * (s.chip.gGet (.ladle l t) a).toNat + 1) (s.chip.gGet (.ladle l t) b).toNat)
    rfl rfl (by simp [wordLegal_frame, legalF, fieldsX]) hcan ?_ ?_ ⟨fun i => ?_, ?_⟩
  · simp only [Chip.gGet_advance, if_neg (Nat.not_lt.2 ha)]
  · simp
  · rw [Chip.cntGet_count_pair, Chip.cntGet_congr (Chip.cnt_advance _ _), BitVec.ofNat_toNat, BitVec.setWidth_eq]
  · rw [Chip.count_eq, Chip.count_eq]
    refine Chip.branched_congr hbranched rfl ?_
    rw [← Chip.cnt_advance s.chip (.ladle l t)]
    exact hbranched.2.2.1

/-- `mtr` colours the frame and counts its colour; the result is under way. -/
theorem issues_mtr (ha : (s.chip.gGet (.ladle l t) a).toNat ≤ 16383) (hb : (s.chip.gGet (.ladle l t) b).toNat ≤ 2)
    (hm : (s.chip.fctx (.ladle l t)).metered < 4) :
    issues (.mtr (.ladle l t) d a b) s fun c =>
      ∃ col, col ≤ 2 ∧ (c.ectx (.ladle l t)).offload = some (d.val, BitVec.ofNat 64 col) ∧ (c.fctx (.ladle l t)).colour = col ∧
        (c.fctx (.ladle l t)).metered = (s.chip.fctx (.ladle l t)).metered + 1 ∧
        (∀ i, c.cntGet false i =
          if i = 0x34000 + (s.chip.gGet (.ladle l t) a).toNat * 8 + 2 * col then s.chip.cntGet false i + 1
          else if i = 0x34000 + (s.chip.gGet (.ladle l t) a).toNat * 8 + 2 * col + 1 then
            s.chip.cntGet false i + BitVec.ofNat 64 ((s.chip.threadFrame (.ladle l t)).data.length + 4)
          else s.chip.cntGet false i) := by
  obtain ⟨hcol, heq, hcount⟩ := Chip.useMeter_spec (s.chip.advance (.ladle l t)) (s.chip.gGet (.ladle l t) a).toNat
    ((s.chip.threadFrame (.ladle l t)).data.length + 4) (s.chip.gGet (.ladle l t) b).toNat
  generalize hu : (s.chip.advance (.ladle l t)).useMeter _ _ _ = u at hcol heq hcount
  have hok : ¬ (16383 < (s.chip.gGet (.ladle l t) a).toNat || 2 < (s.chip.gGet (.ladle l t) b).toNat ||
      4 ≤ (s.chip.fctx (.ladle l t)).metered) = true := by
    simp only [Bool.or_eq_true, decide_eq_true_eq]
    omega
  obtain ⟨t', ht⟩ : ∃ t', ((s.chip.gGet (.ladle l t) a).toNat, u.1, (u.2.threadFrame (.ladle l t)).data.length + 4,
    !u.2.inMode [.standby]) = t' := ⟨_, rfl⟩
  have hframe := Chip.onFrame_setFrame_eq u.2 (s.chip.fctx (.ladle l t)).frame fun f => { f with taken := f.taken ++ [t'] }
  generalize hw : u.2.onFrame _ _ = w at hframe
  have hdone : w = { s.chip.advance (.ladle l t) with slu := u.2.slu, cnt := u.2.cnt, path := w.path } := by
    rw [hframe, heq]
  refine issues_of_ok (w := wordX 0x30 0x10 d a b 0) (d := ((w.setFctx (.ladle l t) { s.chip.fctx (.ladle l t) with
      colour := u.1, metered := (s.chip.fctx (.ladle l t)).metered + 1,
      redDrop := (s.chip.fctx (.ladle l t)).redDrop ||
        (u.1 = 2 && !(w.meter (s.chip.gGet (.ladle l t) a).toNat).pass) }).offload (.ladle l t) d
        (BitVec.ofNat 64 u.1)).perf l.val 9) rfl rfl (by simp [wordLegal_frame, legalF, fieldsX]) hcan ?_ ?_
      ⟨u.1, hcol, ?_, ?_, ?_, fun i => ?_⟩
  · simp only [Chip.gGet_advance, Chip.fctx_advance, Chip.threadFrame_advance, if_neg hok, hu, ht, hw]
    rfl
  · rw [Chip.perf_vlt, hdone]
    exact congrArg Vault.owners (Chip.vlt_advance _ _)
  · simp
  · simp
  · simp
  · rw [Chip.cntGet_congr (c := u.2) (by rw [Chip.perf_cnt, hdone]; rfl), hcount i, Chip.cntGet_congr (Chip.cnt_advance _ _)]

end

/-- Settles O8: a lookup or the meter sets its thread's offload and its own tables on the advanced block, and
`Chip.offloadResult` ends it. -/
theorem frameOffloads : Obligations.FrameOffloads := by
  unfold Obligations.FrameOffloads
  intro s l t d a b e x f va vb pc
  refine ⟨fun r v h hr => offloadResult_completes h hr, fun hcan => ⟨fun hdbg ha hlearn hgood =>
      issues_lkpFwd hcan hdbg ha hlearn hgood, fun ha htx => ?_, fun i ha htx hcur => ?_, fun y hearly hhit => ?_,
      fun ha hb hm => issues_mtr hcan ha hb hm, fun ha => issues_cinc hcan ha⟩⟩
  · exact issues_lkpSa_channel hcan ha (by rw [htx]; rfl)
  · refine issues_lkpSa_channel hcan ha ?_
    simp only [va, e] at htx hcur
    simp [saFound, b2n, htx, hcur, va, e]
  · have h := issues_lkpSa_early (d := d) (a := a) hcan hearly hhit
    rw [saFound, Nat.add_assoc _ (2 ^ 50 * _)] at h
    exact h

end Sys2Proof.Machine

/-! PROOFS. What writes for the host, counts and events leave of the block. -/
namespace Sys2Proof.Machine

/-- Nothing has changed but registers, counts, events, the host interface and what is given or drawn. -/
def Chip.reports (c d : Chip) : Prop :=
  d = { c with regs := d.regs, hif := d.hif, cnt := d.cnt, evr := d.evr, out := d.out, free := d.free }

namespace Chip.reports

variable {a c d : Chip}

theorem refl (c : Chip) : c.reports c := rfl

theorem trans (h : a.reports c) (g : c.reports d) : a.reports d := by
  rw [Chip.reports] at *
  rw [g, h]

theorem of_gives (h : c.gives d) : c.reports d := by
  rw [h.1]
  rfl

theorem setF (h : a.reports c) (f : Fld) (i : List Nat) (v : Nat) : a.reports (c.setF f i v) := h.trans rfl

theorem bump (h : a.reports c) (f : Fld) (i : List Nat) (n : Nat) : a.reports (c.bump f i n) := h.trans rfl

theorem draw (h : a.reports c) : a.reports c.draw.2 := h.trans rfl

theorem emit (h : a.reports c) (o : Output) : a.reports (c.emit o) := h.trans rfl

theorem setRing (h : a.reports c) (r : Nat) (v : Ring) : a.reports (c.setRing r v) := h.trans rfl

theorem modHif (h : a.reports c) (f : HostIf → HostIf) : a.reports (c.modHif f) := h.trans rfl

theorem raise (h : a.reports c) (code src : Nat) (items : List (Nat × Nat)) : a.reports (c.raise code src items) := by
  refine h.trans ?_
  simp only [Chip.raise]
  split_ifs <;> rfl

theorem count (h : a.reports c) (sp : Bool) (i n : Nat) : a.reports (c.count sp i n) := by
  refine h.trans ?_
  rw [Chip.count_eq]
  rfl

theorem portCount (h : a.reports c) (s k n : Nat) : a.reports (c.portCount s k n) := h.count false _ n

theorem dma (h : a.reports c) (fn : Nat) (o : Output) : a.reports (c.dma fn o) :=
  h.trans (of_gives ((Chip.gives.refl c).dma fn o))

theorem msixSignal (h : a.reports c) (fn v : Nat) : a.reports (c.msixSignal fn v) :=
  h.trans (of_gives ((Chip.gives.refl c).msixSignal fn v))

theorem signal (h : a.reports c) (s : Nat) : a.reports (c.signal s) :=
  h.trans (of_gives ((Chip.gives.refl c).signal s))

theorem perf (h : a.reports c) (m ev : Nat) : a.reports (c.perf m ev) := by
  refine h.trans ?_
  rw [Chip.perf_onlyRegs c m ev]
  rfl

theorem when {f : Chip → Chip} (h : a.reports c) (hf : ∀ c, a.reports c → a.reports (f c)) (b : Bool) :
    a.reports (c.when b f) := Chip.when_induct b h (hf c)

theorem each {α : Type} {f : Chip → α → Chip} (h : a.reports c) (l : List α) (hf : ∀ c x, a.reports c → a.reports (f c x)) :
    a.reports (c.each l f) := Chip.each_induct l h fun d x hd => hf d x hd

theorem ringAdvance (h : a.reports c) (r n : Nat) : a.reports (c.ringAdvance r n) := by
  cases ho : c.ringOwner r with
  | none => simpa only [Chip.ringAdvance, ho] using h
  | some fn => exact (h.setRing r _).trans (of_gives (Chip.ringAdvance_gives ho n))

theorem ringPush (h : a.reports c) (r : Nat) (entry : Bytes) : a.reports (c.ringPush r entry) := by
  simp only [Chip.ringPush]
  split_ifs
  · split
    · exact h
    · exact (h.dma _ _).ringAdvance r 1
  · exact h

theorem ringComplete (h : a.reports c) (r : Nat) (entry : Bytes) : a.reports (c.ringComplete r entry) :=
  (h.setRing r _).ringPush r entry

section
variable (h : c.reports d)
include h

theorem shadow_eq : d.shadow = c.shadow := by rw [h]
theorem ctl_eq : d.ctl = c.ctl := by rw [h]
theorem su_eq : d.su = c.su := by rw [h]
theorem vlt_eq : d.vlt = c.vlt := by rw [h]
theorem sax_eq : d.sax = c.sax := by rw [h]
theorem eng_eq : d.eng = c.eng := by rw [h]
theorem ord_eq : d.ord = c.ord := by rw [h]
theorem mem_eq : d.mem = c.mem := by rw [h]
theorem ent_eq : d.ent = c.ent := by rw [h]
theorem tim_eq : d.tim = c.tim := by rw [h]
theorem pan_eq : d.pan = c.pan := by rw [h]
theorem path_eq : d.path = c.path := by rw [h]
theorem slu_eq : d.slu = c.slu := by rw [h]
theorem fwd_eq : d.fwd = c.fwd := by rw [h]
theorem buf_eq : d.buf = c.buf := by rw [h]
theorem prs_eq : d.prs = c.prs := by rw [h]
theorem flt_eq : d.flt = c.flt := by rw [h]
theorem pnl_eq : d.pnl = c.pnl := by rw [h]
theorem srd_eq : d.srd = c.srd := by rw [h]

theorem frame_eq (n : Nat) : d.frame n = c.frame n := by simp only [Chip.frame, h.path_eq]
theorem ectx_eq (e : Eng) : d.ectx e = c.ectx e := by simp only [Chip.ectx, Chip.ectxAt, h.eng_eq]
theorem fctx_eq (e : Eng) : d.fctx e = c.fctx e := by simp only [Chip.fctx, h.eng_eq]

end

end Chip.reports

/-! ### Frames and their queues -/

@[simp] theorem Chip.frame_setFrame (c : Chip) (n m : Nat) (f : Option Frame) :
    (c.setFrame n f).frame m = if m = n then f else c.frame m := SMap.get_set

theorem Chip.frame_setFrame_same (c : Chip) (n : Nat) (f : Option Frame) : (c.setFrame n f).frame n = f := by simp

theorem Chip.onFrame_some {c : Chip} {n : Nat} {f : Frame} (h : c.frame n = some f) (g : Frame → Chip → Chip) :
    c.onFrame n g = g f c := by simp only [Chip.onFrame, h]

theorem Chip.unqueue_free {c : Chip} {n : Nat} {f : Frame} (h : c.frame n = some f) (hq : f.queue = none) : c.unqueue n = c := by
  rw [Chip.unqueue, Chip.onFrame_some h, hq]

/-- A frame that no queue counts, whole and without an OPEN under way, is forgotten when its path ends. -/
theorem Chip.removeFrame_free {c : Chip} {n : Nat} {f : Frame} (h : c.frame n = some f) (hq : f.queue = none)
    (hcome : f.coming = false) (hopen : f.openPending = false) : c.removeFrame n = c.setFrame n none := by
  rw [Chip.removeFrame, Chip.unqueue_free h hq, Chip.onFrame_some h, hcome, hopen]
  rfl

theorem Frame.openPending_of_early {f : Frame} (h : f.early = none) : f.openPending = false := by
  simp [Frame.openPending, h]

/-- A frame of a port that no queue counts and no OPEN is under way for is dropped: it is gone, and its reason has been counted once. -/
theorem Chip.dropFrame_proved {c : Chip} {n reason : Nat} {f : Frame} (h : c.frame n = some f) (hstage : f.stage ≠ .gone)
    (hq : f.queue = none) (hcome : f.coming = false) (hopen : f.openPending = false) (hhost : f.host = none)
    (hingot : f.isIngot = true → f.verdict.getD 0 = 0) :
    ∃ frames, c.dropFrame n reason = { c with
        path := { c.path with frames := frames },
        cnt := (c.portCount (schedOf f.entry f.sub) (0x20 + (reason - 0x80))).cnt } ∧
      SMap.get (fun _ => none) frames n = none := by
  have hfail : (f.coming || (f.isIngot && f.verdict.getD 0 ≠ 0)) = false := by
    cases hi : f.isIngot
    · simp [hcome]
    · simp [hcome, hingot hi]
  have hlost : (c.setFrame n (some { f with lost := some reason, kid := none, lines := [], die := [] })).frame n =
      some { f with lost := some reason, kid := none, lines := [], die := [] } := Chip.frame_setFrame_same _ _ _
  have hremove := Chip.removeFrame_free hlost hq hcome hopen
  refine ⟨SMap.set (fun _ => none) (SMap.set (fun _ => none) c.path.frames n
    (some { f with lost := some reason, kid := none, lines := [], die := [] })) n none, ?_, SMap.get_set_same⟩
  have hone : c.dropFrame n reason = c.dropOne n reason := by simp only [Chip.dropFrame, h, Option.bind_some, hq]
  rw [hone, Chip.dropOne, Chip.onFrame_some h, if_neg hstage]
  dsimp only
  rw [hremove, hhost, hfail]
  rfl

/-- So is one that no OPEN was issued for. -/
theorem Chip.dropFrame_free {c : Chip} {n reason : Nat} {f : Frame} (h : c.frame n = some f) (hstage : f.stage ≠ .gone)
    (hq : f.queue = none) (hcome : f.coming = false) (hearly : f.early = none) (hhost : f.host = none)
    (hingot : f.isIngot = true → f.verdict.getD 0 = 0) :
    ∃ frames, c.dropFrame n reason = { c with
        path := { c.path with frames := frames },
        cnt := (c.portCount (schedOf f.entry f.sub) (0x20 + (reason - 0x80))).cnt } ∧
      SMap.get (fun _ => none) frames n = none :=
  Chip.dropFrame_proved h hstage hq hcome (Frame.openPending_of_early hearly) hhost hingot

end Sys2Proof.Machine

/-! PROOFS. A frame's pass on a Ladle thread: its start, `fdrop` and `femit` (R294, R307, R310, R311). -/
namespace Sys2Proof.Machine

/-! ### The start -/

/-- A frame's bytes with its FCS, as the thread's window sees them. -/
def Frame.whole (f : Frame) : Bytes := f.data ++ fcs f.data

/-- The registers of a thread as its pass starts (R294). -/
def Chip.startRegs (c : Chip) (x : EngCtx) (f : Frame) : SMap DWord :=
  SMap.set (fun _ => 0) (SMap.set (fun _ => 0) (SMap.set (fun _ => 0) x.g 1 (BitVec.ofNat 64 f.summary)) 2
    (BitVec.ofNat 64 (f.whole.length + 2 ^ 16 * f.entry + 2 ^ 21 * f.sub))) 3 (BitVec.ofNat 64 (packTime f.ts c.holdover))

/-- A thread's state as its pass starts. -/
def Chip.startCtx (c : Chip) (x : EngCtx) (f : Frame) (i : Image) : EngCtx :=
  { g := c.startRegs x f, pc := i.entry, running := true, halted := x.halted, stepOne := x.stepOne, fetchEcc := x.fetchEcc }

/-- The frame of a thread as its pass starts. -/
def Chip.startFrame (c : Chip) (n : Nat) (f : Frame) : FrameCtx :=
  { frame := n, header := f.whole.take (min (c.hdrWin f.entry f.sub) f.whole.length),
    rest := f.whole.drop (min (c.hdrWin f.entry f.sub) f.whole.length) }

/-- The block in which thread `e` has taken frame `n`. -/
def Chip.passStarted (c : Chip) (e : Eng) (n : Nat) (f : Frame) (i : Image) : Chip :=
  ((c.setEctx e (c.startCtx (c.ectx e) f i)).setFctx e (c.startFrame n f)).setFrame n
    (some { f with stage := .ladle (engKey e) })

theorem gOf_startRegs (c : Chip) (x : EngCtx) (f : Frame) (q : Nat) :
    gOf (c.startRegs x f) q = if q = 3 then BitVec.ofNat 64 (packTime f.ts c.holdover)
      else if q = 2 then BitVec.ofNat 64 (f.whole.length + 2 ^ 16 * f.entry + 2 ^ 21 * f.sub)
      else if q = 1 then BitVec.ofNat 64 f.summary else gOf x.g q := by
  simp only [gOf, Chip.startRegs, SMap.get_set]
  split_ifs <;> simp_all

@[simp] theorem Chip.ectx_setFrame (c : Chip) (n : Nat) (f : Option Frame) (e : Eng) : (c.setFrame n f).ectx e = c.ectx e := (rfl)
@[simp] theorem Chip.fctx_setFrame (c : Chip) (n : Nat) (f : Option Frame) (e : Eng) : (c.setFrame n f).fctx e = c.fctx e := (rfl)
@[simp] theorem Chip.vlt_setFrame (c : Chip) (n : Nat) (f : Option Frame) : (c.setFrame n f).vlt = c.vlt := (rfl)
@[simp] theorem Chip.vlt_setFctx (c : Chip) (e : Eng) (x : FrameCtx) : (c.setFctx e x).vlt = c.vlt := (rfl)
@[simp] theorem Chip.vlt_setEctx (c : Chip) (e : Eng) (x : EngCtx) : (c.setEctx e x).vlt = c.vlt := (rfl)
@[simp] theorem Chip.regs_setFrame (c : Chip) (n : Nat) (f : Option Frame) : (c.setFrame n f).regs = c.regs := (rfl)
@[simp] theorem Chip.regs_setFctx (c : Chip) (e : Eng) (x : FrameCtx) : (c.setFctx e x).regs = c.regs := (rfl)
@[simp] theorem Chip.regs_setEctx (c : Chip) (e : Eng) (x : EngCtx) : (c.setEctx e x).regs = c.regs := (rfl)
@[simp] theorem Chip.mem_setFrame (c : Chip) (n : Nat) (f : Option Frame) : (c.setFrame n f).mem = c.mem := (rfl)
@[simp] theorem Chip.mem_setFctx (c : Chip) (e : Eng) (x : FrameCtx) : (c.setFctx e x).mem = c.mem := (rfl)
@[simp] theorem Chip.mem_setEctx (c : Chip) (e : Eng) (x : EngCtx) : (c.setEctx e x).mem = c.mem := (rfl)
@[simp] theorem Chip.ctl_setFrame (c : Chip) (n : Nat) (f : Option Frame) : (c.setFrame n f).ctl = c.ctl := (rfl)
@[simp] theorem Chip.ctl_setFctx (c : Chip) (e : Eng) (x : FrameCtx) : (c.setFctx e x).ctl = c.ctl := (rfl)
@[simp] theorem Chip.ctl_setEctx (c : Chip) (e : Eng) (x : EngCtx) : (c.setEctx e x).ctl = c.ctl := (rfl)
@[simp] theorem Chip.ectx_setFctx (c : Chip) (e g : Eng) (x : FrameCtx) : (c.setFctx e x).ectx g = c.ectx g := (rfl)

section
variable (c : Chip) (e : Eng) (n : Nat) (f : Frame) (i : Image)

@[simp] theorem Chip.ectx_passStarted : (c.passStarted e n f i).ectx e = c.startCtx (c.ectx e) f i := by
  simp [Chip.passStarted]

@[simp] theorem Chip.fctx_passStarted : (c.passStarted e n f i).fctx e = c.startFrame n f := by
  simp [Chip.passStarted]

@[simp] theorem Chip.frame_passStarted :
    (c.passStarted e n f i).frame n = some { f with stage := .ladle (engKey e) } := by
  simp [Chip.passStarted]

@[simp] theorem Chip.vlt_passStarted : (c.passStarted e n f i).vlt = c.vlt := by
  simp [Chip.passStarted]

@[simp] theorem Chip.ctl_passStarted : (c.passStarted e n f i).ctl = c.ctl := by
  simp [Chip.passStarted]

@[simp] theorem Chip.regs_passStarted : (c.passStarted e n f i).regs = c.regs := by
  simp [Chip.passStarted]

@[simp] theorem Chip.mem_passStarted : (c.passStarted e n f i).mem = c.mem := by
  simp [Chip.passStarted]

theorem Chip.gGet_passStarted (q : Fin 32) :
    (c.passStarted e n f i).gGet e q = gOf (c.startRegs (c.ectx e) f) q.val := by
  rw [Chip.gGet, Chip.ectx_passStarted, Chip.startCtx]

/-- R294: what a thread that takes a frame starts with. -/
theorem Chip.passStarted_spec :
    ((c.passStarted e n f i).ectx e).running = true ∧ ((c.passStarted e n f i).ectx e).pc = i.entry ∧
    ((c.passStarted e n f i).ectx e).issued = 0 ∧ (c.passStarted e n f i).gGet e 1 = BitVec.ofNat 64 f.summary ∧
    (c.passStarted e n f i).gGet e 2 = BitVec.ofNat 64 (f.whole.length + 2 ^ 16 * f.entry + 2 ^ 21 * f.sub) ∧
    (c.passStarted e n f i).gGet e 3 = BitVec.ofNat 64 (packTime f.ts c.holdover) ∧
    (∀ q : Fin 32, q ≠ 1 → q ≠ 2 → q ≠ 3 → (c.passStarted e n f i).gGet e q = c.gGet e q) ∧
    (c.passStarted e n f i).fctx e = c.startFrame n f ∧
    (c.passStarted e n f i).frame n = some { f with stage := .ladle (engKey e) } ∧
    (c.passStarted e n f i).regs = c.regs ∧ (c.passStarted e n f i).mem = c.mem := by
  simp only [Chip.ectx_passStarted, Chip.gGet_passStarted, gOf_startRegs, Chip.fctx_passStarted, Chip.frame_passStarted,
    Chip.regs_passStarted, Chip.mem_passStarted]
  refine ⟨rfl, rfl, rfl, rfl, rfl, rfl, fun q h1 h2 h3 => ?_, trivial, trivial, trivial, trivial⟩
  rw [if_neg fun h => h3 (Fin.ext (by exact h)), if_neg fun h => h2 (Fin.ext (by exact h)),
    if_neg fun h => h1 (Fin.ext (by exact h)), Chip.gGet]

end

section
variable {s : State} {m : Fin 256} {t : Fin 4} {n : Nat} {f : Frame}

/-- A free thread of the port's quadrant takes the frame. -/
theorem Chip.threadStart_eq {c : Chip} {i : Image} (hf : c.frame n = some f) (hstage : f.stage = .pool)
    (hfree : (c.ectx (.ladle m t)).running = false) (hladle : c.ladleFree m.val = true)
    (hquad : f.entry % 8 / 2 = m.val / 64) (hrun : c.running = true) (hmode : c.inMode [.rest, .lockdown] = false)
    (hgood : c.readsPoison f = false) (himg : (c.target (m.val / 64)).active = some i) (hdbg : c.ctl.dbg = 0) :
    c.threadStart m.val t.val n = c.passStarted (.ladle m t) n f i := by
  have hrest : c.inMode [.rest] = false ∧ c.inMode [.lockdown] = false := by simpa [Chip.inMode, not_or] using hmode
  have hstart : ¬ (f.stage ≠ .pool || (c.ectxAt (m.val * 4 + t.val)).running || !c.ladleFree m.val ||
      quadrantOf f.entry ≠ m.val / 64 || !c.running || c.inMode [.rest]) = true := by
    have hx : (c.ectxAt (m.val * 4 + t.val)).running = false := hfree
    simp [hstage, hx, hladle, quadrantOf, hquad, hrun, hrest.1]
  rw [← Chip.perf_d0 (c := c.passStarted (.ladle m t) n f i) (by rw [Chip.ctl_passStarted, hdbg]) m.val 4]
  simp only [Chip.threadStart, hf, if_neg hstart, hgood, hrest.2, himg, Bool.false_eq_true, if_false, Chip.passStarted, Chip.setEctx, Chip.setFctx, Chip.startCtx, Chip.startRegs, Chip.startFrame, Frame.whole,
    Chip.ectx, engKey]

theorem ladleThreadStart_completes {i : Image} (hf : s.chip.frame n = some f) (hstage : f.stage = .pool)
    (hfree : (s.chip.ectx (.ladle m t)).running = false) (hladle : s.chip.ladleFree m.val = true)
    (hquad : f.entry % 8 / 2 = m.val / 64) (hrun : s.chip.running = true) (hmode : s.chip.inMode [.rest, .lockdown] = false)
    (hgood : s.chip.readsPoison f = false) (himg : (s.chip.target (m.val / 64)).active = some i) (hdbg : s.chip.ctl.dbg = 0) :
    completes (.ladleThreadStart m t n) s fun c => c = s.chip.passStarted (.ladle m t) n f i := by
  have heq := Chip.threadStart_eq hf hstage hfree hladle hquad hrun hmode hgood himg hdbg
  exact completes_of (f := fun c => c.threadStart m.val t.val n) rfl (by rw [heq, Chip.vlt_passStarted]) heq

/-! ### The end -/

@[simp] theorem Chip.ectx_endThread (c : Chip) (e : Eng) :
    (c.endThread (engKey e)).ectx e = { g := (c.ectx e).g, fetchEcc := (c.ectx e).fetchEcc } := SMap.get_set_same

@[simp] theorem Chip.fctx_endThread (c : Chip) (e : Eng) : (c.endThread (engKey e)).fctx e = {} := by
  simp [Chip.fctx, Chip.endThread]

@[simp] theorem Chip.frame_endThread (c : Chip) (k n : Nat) : (c.endThread k).frame n = c.frame n := rfl

section
variable (c : Chip) (k : Nat)

@[simp] theorem Chip.vlt_endThread : (c.endThread k).vlt = c.vlt := (rfl)
@[simp] theorem Chip.cnt_endThread : (c.endThread k).cnt = c.cnt := (rfl)
@[simp] theorem Chip.mem_endThread : (c.endThread k).mem = c.mem := (rfl)
@[simp] theorem Chip.buf_endThread : (c.endThread k).buf = c.buf := (rfl)

end

@[simp] theorem Chip.frame_perf (c : Chip) (m ev n : Nat) : (c.perf m ev).frame n = c.frame n := by
  simp only [Chip.frame, Chip.perf_path]

@[simp] theorem Chip.frame_advance (c : Chip) (e : Eng) (n : Nat) : (c.advance e).frame n = c.frame n := by
  simp only [Chip.frame, Chip.path_advance]

theorem Chip.threadFrame_of {c : Chip} {e : Eng} (hn : (c.fctx e).frame = n) (hf : c.frame n = some f) : c.threadFrame e = f := by
  rw [Chip.threadFrame, hn, hf]
  rfl

theorem issues_fdrop (hf : s.chip.frame n = some f) (hcan : s.chip.canIssue (.ladle m t))
    (hn : (s.chip.fctx (.ladle m t)).frame = n) (hstage : f.stage = .ladle (engKey (.ladle m t))) (hcome : f.coming = false)
    (hearly : f.early = none) (hhost : f.host = none) (hingot : f.isIngot = true → f.verdict.getD 0 = 0) (hq : f.queue = none) :
    issues (.fdrop (.ladle m t)) s fun c =>
      c.ectx (.ladle m t) = { g := (s.chip.ectx (.ladle m t)).g } ∧ c.fctx (.ladle m t) = {} ∧ c.frame n = none ∧
      (∀ i, c.cntGet false i = if i = schedOf f.entry f.sub * 0x80 + 0x25 then s.chip.cntGet false i + 1
        else s.chip.cntGet false i) ∧ c.mem = s.chip.mem := by
  have hthread : s.chip.threadFrame (.ladle m t) = f := Chip.threadFrame_of hn hf
  have hstill : (((s.chip.advance (.ladle m t)).endThread (engKey (.ladle m t))).perf m.val 6).frame n = some f := by
    rw [Chip.frame_perf, Chip.frame_endThread, Chip.frame_advance, hf]
  obtain ⟨frames, hdrop, hgone⟩ := Chip.dropFrame_free (reason := 0x85) hstill (by rw [hstage]; simp) hq hcome hearly hhost hingot
  have hfetch : (s.chip.ectx (.ladle m t)).fetchEcc = false := hcan.2.2.2.2.2.1
  generalize hd : (((s.chip.advance (.ladle m t)).endThread (engKey (.ladle m t))).perf m.val 6) = d at hdrop hstill
  have hd' : d.ectx (.ladle m t) = { g := (s.chip.ectx (.ladle m t)).g } ∧ d.fctx (.ladle m t) = {} ∧
      d.vlt = s.chip.vlt ∧ d.cnt = s.chip.cnt ∧ d.mem = s.chip.mem := by
    rw [← hd]
    refine ⟨?_, ?_, ?_, ?_, ?_⟩ <;> simp [EngCtx.next, hfetch]
  obtain ⟨hectx, hfctx, hvlt, hcnt, hmem⟩ := hd'
  refine issues_of_body (w := wordX 0x30 0x05 0 0 0 0) (d := d.dropFrame n 0x85) rfl rfl
    (if_neg (by rw [hthread, hcome]; simp)) (by simp [wordLegal_frame, legalF, fieldsX]) hcan ?_ ?_ ?_
  · simp only [Chip.threadFrame_advance, hthread, hearly, Chip.fctx_advance, hn, ladleOf, hd]
    rfl
  · rw [hdrop, ← hvlt]
  · rw [hdrop]
    refine ⟨hectx, hfctx, hgone, fun i => ?_, hmem⟩
    refine (Chip.cntGet_congr (c := d.portCount (schedOf f.entry f.sub) (0x20 + (0x85 - 0x80))) rfl false i).trans ?_
    rw [Chip.portCount, Chip.cntGet_count, Chip.cntGet_congr hcnt]
    simp

end

/-! ### An emission to the driver (R50, R51, R311) -/

theorem Chip.reports.flushRing {a c : Chip} (h : a.reports c) (r k : Nat) : a.reports (c.flushRing r k) := by
  induction k generalizing c with
  | zero => exact h
  | succ k ih =>
    rw [Chip.flushRing]
    split
    · exact ih ((h.setRing r _).ringPush r _)
    · exact h

theorem Chip.reports.toHost {a c : Chip} (h : a.reports c) (f : Frame) (k : Nat) (body : Bytes) (opened untrusted : Bool)
    (sa : Word) : a.reports (c.toHost f k body opened untrusted sa) := by
  simp only [Chip.toHost, Chip.takeBuffer, Chip.excFull]
  split_ifs
  · exact (((h.dma _ _).setRing _ _).flushRing _ _).portCount _ _ _
  · exact (((h.dma _ _).setRing _ _).flushRing _ _).portCount _ _ _
  · exact (h.portCount _ _ _).raise _ _ _

theorem Chip.reports.hostEmit {a c : Chip} (h : a.reports c) (f : Frame) (k : Nat × Nat × Word) (body : Bytes) :
    a.reports (c.hostEmit f k body) := by
  simp only [Chip.hostEmit]
  split_ifs
  · exact h
  · exact h.toHost _ _ _ _ _ _

section
variable {s : State} {m : Fin 256} {t : Fin 4} {n : Nat} {f : Frame} {a b : Fin 32}

/-- The checks of `femit` on a whole frame without marks, sent to the driver. -/
theorem Chip.emitOk_host {c : Chip} {x : FrameCtx} {w : Nat} (hseal : x.sealMark = none)
    (hmin : 64 ≤ x.header.length + x.rest.length) (hmax : x.header.length + x.rest.length ≤ 16000) (hw : w % 8 = 3)
    (hring : w < 2 ^ 7) : c.emitOk x w false = true := by
  have hring' : bits w 10 3 < 16 := by
    simp only [bits]
    omega
  have hdest : destOk w = true := by
    simp only [destOk, hw, Bool.and_eq_true, decide_eq_true_eq]
    omega
  simp [Chip.emitOk, hdest, hw, hmin, hmax, hseal]

theorem Chip.readsPoison_advance (c : Chip) (e : Eng) (f : Frame) : (c.advance e).readsPoison f = c.readsPoison f := by
  have hbuf : (c.advance e).buf = c.buf := by rw [(Chip.advance_spec c e).2.2.1.1]
  simp only [Chip.readsPoison, Chip.kidReads, Chip.kidState, Chip.dieRead, hbuf]
  rfl

theorem issues_femit (hf : s.chip.frame n = some f) (hcan : s.chip.canIssue (.ladle m t))
    (hn : (s.chip.fctx (.ladle m t)).frame = n) (hcome : f.coming = false) (hwait : s.chip.earlyWait (.ladle m t) = false)
    (hearly : f.early = none) (hgood : s.chip.readsPoison f = false) (hq : f.queue = none)
    (hred : (s.chip.fctx (.ladle m t)).redDrop = false) (hexc : (s.chip.fctx (.ladle m t)).excess = false)
    (hseal : (s.chip.fctx (.ladle m t)).sealMark = none) (hbound : (s.chip.fctx (.ladle m t)).bound = none)
    (hmin : 64 ≤ (s.chip.fctx (.ladle m t)).header.length + (s.chip.fctx (.ladle m t)).rest.length)
    (hmax : (s.chip.fctx (.ladle m t)).header.length + (s.chip.fctx (.ladle m t)).rest.length ≤ 16000)
    (hw : low32 (s.chip.gGet (.ladle m t) a) % 8 = 3) (hring : low32 (s.chip.gGet (.ladle m t) a) < 2 ^ 7) :
    issues (.femit (.ladle m t) a b false) s fun c =>
      (c.ectx (.ladle m t)).running = false ∧ c.frame n = none ∧ c.mem = s.chip.mem := by
  have hthread : s.chip.threadFrame (.ladle m t) = f := Chip.threadFrame_of hn hf
  have hreason : (s.chip.fctx (.ladle m t)).endReason f = 0 := by simp [FrameCtx.endReason, hearly, hred, hexc]
  obtain ⟨d, hd⟩ : ∃ d, ((s.chip.advance (.ladle m t)).endThread (engKey (.ladle m t))).perf m.val 5 = d := ⟨_, rfl⟩
  obtain ⟨hectx, hvlt, hmem, hframe⟩ : (d.ectx (.ladle m t)).running = false ∧ d.vlt = s.chip.vlt ∧ d.mem = s.chip.mem ∧
      d.frame n = some f := by
    rw [← hd]
    refine ⟨?_, ?_, ?_, ?_⟩ <;> simp [hf]
  obtain ⟨g, hg⟩ : ∃ g, (s.chip.fctx (.ladle m t)).emitted f (low32 (s.chip.gGet (.ladle m t) a))
      (BitVec.ofNat 32 (s.chip.gGet (.ladle m t) b).toNat) (bits (s.chip.gGet (.ladle m t) b).toNat 38 32) = g := ⟨_, rfl⟩
  have hgbound : g.bound = none := by rw [← hg]; exact hbound
  obtain ⟨k, hk⟩ : ∃ k, (bits (low32 (s.chip.gGet (.ladle m t) a)) 10 3, bits (s.chip.gGet (.ladle m t) b).toNat 38 32,
      BitVec.ofNat 32 (s.chip.gGet (.ladle m t) b).toNat) = k := ⟨_, rfl⟩
  have hemit : d.reports (d.emitHost n g k) := by
    rw [Chip.emitHost, Frame.unproved, hgbound]
    exact (Chip.reports.refl d).hostEmit _ _ _
  have hremove := Chip.removeFrame_free ((hemit.frame_eq n).trans hframe) hq hcome (Frame.openPending_of_early hearly)
  refine issues_of_body (w := wordX 0x30 0x04 0 a b 0) (d := (d.emitHost n g k).removeFrame n) rfl rfl (if_neg ?_)
    (by simp [wordLegal_frame, legalF, fieldsX]) hcan ?_ ?_ ?_
  · simp [Chip.passWait, hthread, hcome, hwait]
  · simp only [Chip.gGet_advance, Chip.fctx_advance, Chip.threadFrame_advance, hthread, hreason, hn, hg, hk,
      ladleOf, Chip.emitOk_host hseal hmin hmax hw hring, Chip.readsPoison_advance, hgood, hd, hw,
      Bool.not_true, Bool.and_false, Bool.false_and, Bool.false_eq_true, ne_eq, not_true_eq_false, if_false, if_true]
  · rw [hremove, Chip.vlt_setFrame, hemit.vlt_eq, hvlt]
  · rw [hremove, Chip.ectx_setFrame, hemit.ectx_eq]
    exact ⟨hectx, Chip.frame_setFrame_same _ _ _, hemit.mem_eq.trans hmem⟩

end

/-- Settles O9: the block after a start is `Chip.passStarted`; `fdrop` and `femit` free the thread, then drop the frame or
give it to the driver. -/
theorem framePass : Obligations.FramePass := by
  unfold Obligations.FramePass
  intro s m t n f hf e
  refine ⟨fun i hstage hfree hladle hquad hrun hmode hgood himg hdbg => ?_,
    fun hcan hn hstage hcome hearly hhost hingot hq _ _ => issues_fdrop hf hcan hn hstage hcome hearly hhost hingot hq,
    fun a b hcan hn _ hcome hwait hearly hgood hq hred hexc hseal hbound hmin hmax hw hring =>
      issues_femit hf hcan hn hcome hwait hearly hgood hq hred hexc hseal hbound hmin hmax hw hring⟩
  obtain ⟨c, hexec, rfl⟩ := ladleThreadStart_completes hf hstage hfree hladle hquad hrun hmode hgood himg hdbg
  exact ⟨_, hexec, Chip.passStarted_spec _ _ _ _ _⟩

end Sys2Proof.Machine

/-! PROOFS. The Ladles' core test, sampling and performance counters (R348, R351, R409). -/
namespace Sys2Proof.Machine

/-! ### Fields that a write leaves -/

theorem Chip.getF_setF_other (c : Chip) {f g : Fld} {i j : List Nat} (v : Nat) (hw : f.w ≤ 32) (h : g.key j ≠ f.key i) :
    (c.setF f i v).getF g j = c.getF g j := by rw [Chip.getF_setF _ _ _ _ _ _ hw, if_neg h]

/-- As `Chip.each_induct`, for what holds along the members of the list. -/
theorem Chip.each_induct_mem {α : Type} {P : Chip → Prop} {f : Chip → α → Chip} {c : Chip} (l : List α) (hc : P c)
    (h : ∀ d, ∀ x ∈ l, P d → P (f d x)) : P (c.each l f) := by
  induction l generalizing c with
  | nil => exact hc
  | cons x l ih =>
    exact ih (h c x List.mem_cons_self hc) fun d y hy => h d y (List.mem_cons_of_mem _ hy)

section
variable {c d : Chip} (h : c.onlyRegs d)
include h

theorem Chip.onlyRegs_eng : d.eng = c.eng := by rw [h]
theorem Chip.onlyRegs_mem : d.mem = c.mem := by rw [h]
theorem Chip.onlyRegs_vlt : d.vlt = c.vlt := by rw [h]

end

/-! ### Quadrant counters -/

/-- A field that no counter of quadrant `q` and none of its overflow bits holds. -/
def offQuad (q : Nat) (f : Fld) (i : List Nat) : Prop :=
  f.key i ≠ F.LAD_QCNT_OVF_ovf.key [q] ∧ ∀ j < 16, f.key i ≠ F.LAD_QCNT_count.key [q, j]

theorem Chip.getF_quadInc {c : Chip} {q j : Nat} {f : Fld} {i : List Nat} (hj : j < 16) (h : offQuad q f i) :
    (c.quadInc q j).getF f i = c.getF f i := by
  obtain ⟨hovf, hcount⟩ := h
  simp only [Chip.quadInc]
  split_ifs with _ hchain
  · exact Chip.getF_setF_other _ _ (by decide) (hcount j hj)
  · have hj' : j + 1 < 16 := by
      have := (Bool.and_eq_true _ _ ▸ hchain).1
      simp only [decide_eq_true_eq] at this
      omega
    rw [Chip.when]
    split_ifs
    · rw [Chip.getF_setF_other _ _ (by decide) hovf, Chip.getF_setF_other _ _ (by decide) (hcount _ hj'),
        Chip.getF_setF_other _ _ (by decide) (hcount _ hj)]
    · rw [Chip.getF_setF_other _ _ (by decide) (hcount _ hj'), Chip.getF_setF_other _ _ (by decide) (hcount _ hj)]
  · rw [Chip.getF_setF_other _ _ (by decide) hovf, Chip.getF_setF_other _ _ (by decide) (hcount _ hj)]

theorem Chip.getF_perfQuad {c : Chip} {q ev : Nat} {f : Fld} {i : List Nat} (h : offQuad q f i) :
    (c.perfQuad q ev).getF f i = c.getF f i := by
  simp only [Chip.perfQuad]
  split_ifs
  · rfl
  · refine Chip.each_induct_mem (P := fun d => d.getF f i = c.getF f i) _ rfl fun d j hj hd => ?_
    rw [Chip.when]
    split_ifs
    · rw [Chip.getF_quadInc (List.mem_range.1 hj) h, hd]
    · exact hd

/-! ### The core test -/

/-- A command whose effect is known to give block `d`. -/
theorem completes_eq {i : Instr} {s : State} {f : Chip → Chip} {d : Chip} {post : Chip → Prop} (h : exec i s = lift f s)
    (hd : f s.chip = d) (hp : post d) (ho : d.vlt.owners = s.chip.vlt.owners) : completes i s post :=
  completes_of h (by rw [hd, ho]) (by rwa [hd])

section
variable {s : State} {m : Fin 256} {t : Fin 4}

theorem ladleCoreTest_completes (hrun : s.chip.running = true) (htest : s.chip.eng.testing = none)
    (hfree : s.chip.ladleFree m.val = true) :
    completes (.ladleCoreTest m) s fun c => c = { s.chip with eng := { s.chip.eng with testing := some m.val } } := by
  refine completes_eq rfl ?_ rfl rfl
  simp only [hrun, htest, hfree, Option.isNone_none, Bool.and_self, if_true]
  rfl

theorem ladleCoreTestEnd_completes (htest : s.chip.eng.testing = some m.val) :
    completes (.ladleCoreTestEnd m true) s fun c => c = { s.chip with eng := { s.chip.eng with testing := none } } := by
  refine completes_eq rfl ?_ rfl rfl
  simp only [htest, if_true]
  rfl

/-! ### Sampling -/

theorem offQuad_sampleLo {q i : Nat} : offQuad q F.LAD_SMP_LO_entry [q, i] := by
  refine ⟨?_, fun j hj => ?_⟩ <;> simp only [Fld.key, F.LAD_SMP_LO_entry, F.LAD_QCNT_OVF_ovf, F.LAD_QCNT_count, dotStrides] <;>
    omega

theorem offQuad_sampleHi {q i : Nat} : offQuad q F.LAD_SMP_HI_entry [q, i] := by
  refine ⟨?_, fun j hj => ?_⟩ <;> simp only [Fld.key, F.LAD_SMP_HI_entry, F.LAD_QCNT_OVF_ovf, F.LAD_QCNT_count, dotStrides] <;>
    omega

theorem offQuad_samplePtr {q : Nat} : offQuad q F.LAD_SMP_PTR_next [q] := by
  refine ⟨?_, fun j hj => ?_⟩ <;> simp only [Fld.key, F.LAD_SMP_PTR_next, F.LAD_QCNT_OVF_ovf, F.LAD_QCNT_count, dotStrides] <;>
    omega

/-- The block in which a sampled instruction's result is available. -/
def Chip.unsampled (c : Chip) (y : Sampled) : Chip := c.modEng fun e => { e with sampled := e.sampled.erase y }

/-- The block in which an entry stands at place `i` of quadrant `q`'s buffer. -/
def Chip.sampleStored (c : Chip) (q i lo hi : Nat) : Chip :=
  ((c.setF F.LAD_SMP_LO_entry [q, i] lo).setF F.LAD_SMP_HI_entry [q, i] hi).setF F.LAD_SMP_PTR_next [q] ((i + 1) % 4096)

/-- The block in which the entry is counted, and has overwritten one where the buffer has been filled before. -/
def Chip.sampleCounted (c : Chip) (q : Nat) : Chip :=
  (c.perfQuad q 0x13).when (SMap.get (fun _ => false) (c.perfQuad q 0x13).eng.smpFilled q) fun c =>
    c.setF F.LAD_SMP_PTR_wrapped [q] 1

theorem Chip.sample_eq {c : Chip} {m t lat : Nat} {w : Word} {addr : Nat} (hdbg : c.ctl.dbg ≠ 0)
    (hhas : c.eng.sampled.contains ⟨m, t, w, addr⟩ = true) (hfull : c.getB F.LAD_SMP_CFG_full [m / 64] = false)
    (hroom : c.getF F.LAD_SMP_PTR_next [m / 64] < 4095) :
    c.sample m t w addr lat = (((c.unsampled ⟨m, t, w, addr⟩).sampleStored (m / 64) (c.getF F.LAD_SMP_PTR_next [m / 64]) w.toNat
      (addr + 2 ^ 17 * (m % 64) + 2 ^ 23 * t + 2 ^ 25 * min 127 lat)).sampleCounted (m / 64)) := by
  have hgo : ¬ (!c.eng.sampled.contains ⟨m, t, w, addr⟩ || c.ctl.dbg = 0) = true := by simp only [hhas, hdbg]; decide
  have hspace : ¬ (c.getB F.LAD_SMP_CFG_full [m / 64] && !c.getB F.LAD_SMP_CFG_wrap [m / 64]) = true := by simp [hfull]
  rw [Chip.sample]
  dsimp only
  rw [if_neg hgo, if_neg hspace]
  exact if_pos (by exact Nat.succ_lt_succ hroom)

theorem Chip.sampleStored_onlyRegs (c : Chip) (q i lo hi : Nat) : c.onlyRegs (c.sampleStored q i lo hi) :=
  Chip.onlyRegs_trans (Chip.onlyRegs_trans (Chip.setF_onlyRegs _ _ _ _) (Chip.setF_onlyRegs _ _ _ _)) (Chip.setF_onlyRegs _ _ _ _)

theorem Chip.sampleCounted_onlyRegs (c : Chip) (q : Nat) : c.onlyRegs (c.sampleCounted q) :=
  Chip.onlyRegs_trans (Chip.perfQuad_onlyRegs _ _ _) (Chip.when_onlyRegs (fun c => Chip.setF_onlyRegs c _ _ _) _ _)

theorem Chip.getF_sampleCounted {c : Chip} {q : Nat} {f : Fld} {i : List Nat} (h : offQuad q f i)
    (hw : f.key i ≠ F.LAD_SMP_PTR_wrapped.key [q]) : (c.sampleCounted q).getF f i = c.getF f i := by
  rw [Chip.sampleCounted, Chip.when]
  split_ifs
  · rw [Chip.getF_setF_other _ _ (by decide) hw, Chip.getF_perfQuad h]
  · exact Chip.getF_perfQuad h

/-- What the quadrant's buffer holds with the entry. -/
theorem Chip.getF_sampleStored (c : Chip) {q i lo hi : Nat} (hi' : i < 4095) (hlo : lo < 2 ^ 32) (hhi : hi < 2 ^ 32) :
    (c.sampleStored q i lo hi).getF F.LAD_SMP_LO_entry [q, i] = lo ∧
    (c.sampleStored q i lo hi).getF F.LAD_SMP_HI_entry [q, i] = hi ∧
    (c.sampleStored q i lo hi).getF F.LAD_SMP_PTR_next [q] = i + 1 := by
  rw [Chip.sampleStored]
  refine ⟨?_, ?_, ?_⟩
  · rw [Chip.getF_setF_other _ _ (by decide) (by simp only [Fld.key, F.LAD_SMP_LO_entry, F.LAD_SMP_PTR_next, dotStrides]; omega),
      Chip.getF_setF_other _ _ (by decide) (by simp only [Fld.key, F.LAD_SMP_LO_entry, F.LAD_SMP_HI_entry, dotStrides]; omega),
      Chip.getF_setF_same _ _ _ _ (by decide)]
    exact Nat.mod_eq_of_lt hlo
  · rw [Chip.getF_setF_other _ _ (by decide) (by simp only [Fld.key, F.LAD_SMP_HI_entry, F.LAD_SMP_PTR_next, dotStrides]; omega),
      Chip.getF_setF_same _ _ _ _ (by decide)]
    exact Nat.mod_eq_of_lt hhi
  · rw [Chip.getF_setF_same _ _ _ _ (by decide), Nat.mod_eq_of_lt (by omega : i + 1 < 4096)]
    exact Nat.mod_eq_of_lt (by simp only [F.LAD_SMP_PTR_next]; omega)

theorem instructionSample_completes {w : Word} {addr : BitVec 17} {n : Nat} (hdbg : s.chip.ctl.dbg ≠ 0)
    (hhas : s.chip.eng.sampled.contains ⟨m.val, t.val, w, addr.toNat⟩ = true)
    (hfull : s.chip.getB F.LAD_SMP_CFG_full [m.val / 64] = false) (hroom : s.chip.getF F.LAD_SMP_PTR_next [m.val / 64] < 4095) :
    completes (.instructionSample m t w addr n) s fun c =>
      let q := m.val / 64
      let i := s.chip.getF F.LAD_SMP_PTR_next [q]
      c.getF F.LAD_SMP_LO_entry [q, i] = w.toNat ∧
      c.getF F.LAD_SMP_HI_entry [q, i] = addr.toNat + 2 ^ 17 * (m.val % 64) + 2 ^ 23 * t.val + 2 ^ 25 * min 127 n ∧
      c.getF F.LAD_SMP_PTR_next [q] = i + 1 ∧
      c.eng = { s.chip.eng with sampled := s.chip.eng.sampled.erase ⟨m.val, t.val, w, addr.toNat⟩ } ∧
      c.mem = s.chip.mem := by
  have hhigh : addr.toNat + 2 ^ 17 * (m.val % 64) + 2 ^ 23 * t.val + 2 ^ 25 * min 127 n < 2 ^ 32 := by omega
  obtain ⟨hlo, hhi, hnext⟩ := Chip.getF_sampleStored (s.chip.unsampled ⟨m.val, t.val, w, addr.toNat⟩) hroom w.isLt hhigh
  have hregs := Chip.onlyRegs_trans
    (Chip.sampleStored_onlyRegs (s.chip.unsampled ⟨m.val, t.val, w, addr.toNat⟩) (m.val / 64)
      (s.chip.getF F.LAD_SMP_PTR_next [m.val / 64]) w.toNat
      (addr.toNat + 2 ^ 17 * (m.val % 64) + 2 ^ 23 * t.val + 2 ^ 25 * min 127 n))
    (Chip.sampleCounted_onlyRegs _ (m.val / 64))
  refine completes_eq (f := fun c => c.sample m.val t.val w addr.toNat n) rfl (Chip.sample_eq hdbg hhas hfull hroom)
    ⟨?_, ?_, ?_, ?_, ?_⟩ ?_
  · rw [Chip.getF_sampleCounted offQuad_sampleLo (by simp only [Fld.key, F.LAD_SMP_LO_entry, F.LAD_SMP_PTR_wrapped, dotStrides]; omega), hlo]
  · rw [Chip.getF_sampleCounted offQuad_sampleHi (by simp only [Fld.key, F.LAD_SMP_HI_entry, F.LAD_SMP_PTR_wrapped, dotStrides]; omega), hhi]
  · rw [Chip.getF_sampleCounted offQuad_samplePtr (by simp only [Fld.key, F.LAD_SMP_PTR_next, F.LAD_SMP_PTR_wrapped, dotStrides]; omega), hnext]
  · exact Chip.onlyRegs_eng hregs
  · exact (Chip.onlyRegs_mem hregs).trans rfl
  · exact congrArg Vault.owners ((Chip.onlyRegs_vlt hregs).trans rfl)

/-- A Ladle counter at its largest value wraps and sets its overflow bit. -/
theorem Chip.ladleInc_wraps {c : Chip} {q l i : Nat} (hl : l < 64) (hi : i < 4)
    (hlo : c.getF F.LAD_CNT_LO_count [q, l, i] = 2 ^ 32 - 1) (hhi : c.getF F.LAD_CNT_HI_count [q, l, i] = 2 ^ 16 - 1) :
    (c.ladleInc (q * 64 + l) i).getF F.LAD_CNT_LO_count [q, l, i] = 0 ∧
    (c.ladleInc (q * 64 + l) i).getF F.LAD_CNT_HI_count [q, l, i] = 0 ∧
    bit ((c.ladleInc (q * 64 + l) i).getF F.LAD_STAT_ovf [q, l]) i = true := by
  have hq : (q * 64 + l) / 64 = q := by omega
  have hm : (q * 64 + l) % 64 = l := by omega
  have hv : (2 ^ 16 - 1) * 2 ^ 32 + (2 ^ 32 - 1) + 1 = 2 ^ 48 := by norm_num
  have hlohi : F.LAD_CNT_LO_count.key [q, l, i] ≠ F.LAD_CNT_HI_count.key [q, l, i] := by
    simp only [Fld.key, F.LAD_CNT_LO_count, F.LAD_CNT_HI_count, dotStrides]
    omega
  have hlost : F.LAD_CNT_LO_count.key [q, l, i] ≠ F.LAD_STAT_ovf.key [q, l] := by
    simp only [Fld.key, F.LAD_CNT_LO_count, F.LAD_STAT_ovf, dotStrides]
    omega
  have hhist : F.LAD_CNT_HI_count.key [q, l, i] ≠ F.LAD_STAT_ovf.key [q, l] := by
    simp only [Fld.key, F.LAD_CNT_HI_count, F.LAD_STAT_ovf, dotStrides]
    omega
  simp only [Chip.ladleInc, hq, hm, hlo, hhi, hv, decide_true, Chip.when_true]
  refine ⟨?_, ?_, ?_⟩
  · rw [Chip.getF_setF_other _ _ (by decide) hlost, Chip.getF_setF_other _ _ (by decide) hlohi,
      Chip.getF_setF_same _ _ _ _ (by decide)]
    rfl
  · rw [Chip.getF_setF_other _ _ (by decide) hhist, Chip.getF_setF_same _ _ _ _ (by decide)]
    rfl
  · rw [Chip.getF_setF_same _ _ _ _ (by decide), bit, Nat.testBit_mod_two_pow, Nat.testBit_or, Nat.testBit_two_pow_self]
    simp [F.LAD_STAT_ovf, hi]

theorem perfCounterWrap_completes {j i : Fin 4} {l : Fin 64} (hdbg : s.chip.ctl.dbg ≠ 0)
    (hev : s.chip.getF (ladSel i.val) [j.val, l.val] ∈ [0x01, 0x03, 0x08]) :
    completes (.perfCounterWrap j (.ladle l i)) s fun c =>
      c.getF F.LAD_CNT_LO_count [j.val, l.val, i.val] = 0 ∧ c.getF F.LAD_CNT_HI_count [j.val, l.val, i.val] = 0 ∧
      bit (c.getF F.LAD_STAT_ovf [j.val, l.val]) i.val = true := by
  have hlist : (!([0x01, 0x03, 0x08].contains (s.chip.getF (ladSel i.val) [j.val, l.val]))) = false := by
    rw [List.contains_iff_mem.2 hev]
    rfl
  have heq : s.chip.perfWrap j.val (.ladle l i) = ((s.chip.setF F.LAD_CNT_LO_count [j.val, l.val, i.val] (2 ^ 32 - 1)).setF
      F.LAD_CNT_HI_count [j.val, l.val, i.val] (2 ^ 16 - 1)).ladleInc (j.val * 64 + l.val) i.val := by
    simp only [Chip.perfWrap, hdbg, if_false, hlist, Bool.false_eq_true]
  refine completes_eq (f := fun c => c.perfWrap j.val (.ladle l i)) rfl heq (Chip.ladleInc_wraps l.isLt i.isLt ?_ ?_) ?_
  · rw [Chip.getF_setF_other _ _ (by decide)
      (by simp only [Fld.key, F.LAD_CNT_LO_count, F.LAD_CNT_HI_count, dotStrides]; omega), Chip.getF_setF_same _ _ _ _ (by decide)]
    rfl
  · rw [Chip.getF_setF_same _ _ _ _ (by decide)]
    rfl
  · rw [Chip.onlyRegs_vlt (Chip.onlyRegs_trans (Chip.onlyRegs_trans (Chip.setF_onlyRegs _ _ _ _) (Chip.setF_onlyRegs _ _ _ _))
      (Chip.ladleInc_onlyRegs _ _ _))]

end

/-- Settles O10: each command's effect is a chain of register writes, and the fields it reads back lie apart. -/
theorem ladleTestAndSampling : Obligations.LadleTestAndSampling := by
  unfold Obligations.LadleTestAndSampling
  intro s m t q
  exact ⟨fun hrun htest hfree => ladleCoreTest_completes hrun htest hfree, fun htest => ladleCoreTestEnd_completes htest,
    fun w addr n hdbg hhas hfull hroom => instructionSample_completes hdbg hhas hfull hroom,
    fun hdbg j i hev => perfCounterWrap_completes hdbg hev⟩

end Sys2Proof.Machine

/-! PROOFS. Key programs (R318 to R321, R98): the instructions of Fleli-K and the completion of their CMAC requests. -/
namespace Sys2Proof.Machine

/-! ### An instruction that goes on -/

/-- Engine `e` has issued one instruction and goes on to the next; no register is written. -/
def Chip.went (c d : Chip) (e : Eng) : Prop :=
  (∀ q, d.gGet e q = c.gGet e q) ∧ c.stepped d e ((c.ectx e).pc + 4)

section
variable {c y d : Chip} {e : Eng}

theorem Chip.went_advance (c : Chip) (e : Eng) : c.went (c.advance e) e :=
  ⟨fun q => Chip.gGet_advance c e q, Chip.stepped_advance c e⟩

theorem Chip.went_pc (h : c.went d e) : (d.ectx e).pc = (c.ectx e).pc + 4 := h.2.1

/-- What changes no engine's own state goes on as before. -/
theorem Chip.went_congr (h : c.went y e) (hctx : d.eng.ctx = y.eng.ctx) : c.went d e := by
  have hat : ∀ k, d.ectxAt k = y.ectxAt k := fun k => by simp only [Chip.ectxAt, hctx]
  have hectx : d.ectx e = y.ectx e := hat _
  obtain ⟨hg, hpc, hissued, hother⟩ := h
  refine ⟨fun q => ?_, by rw [hectx, hpc], by rw [hectx, hissued], fun k hk => by rw [hat, hother k hk]⟩
  rw [← hg q, Chip.gGet, hectx, Chip.gGet]

/-- One register written besides. -/
theorem Chip.went_gSet (h : c.went y e) (r : Fin 32) (v : DWord) :
    c.wrote (y.gSet e r v) e r v ∧ c.stepped (y.gSet e r v) e ((c.ectx e).pc + 4) := by
  obtain ⟨hg, hpc, hissued, hother⟩ := h
  refine ⟨fun q => by rw [Chip.gGet_gSet, hg], by rw [Chip.gSet_pc, hpc], by rw [Chip.gSet_issued, hissued], fun k hk => ?_⟩
  rw [Chip.ectxAt_gSet _ _ _ _ hk, hother k hk]

end

/-- A register write changes the engines' own state alone. -/
theorem Chip.gSet_eq (c : Chip) (e : Eng) (r : Fin 32) (v : DWord) :
    c.gSet e r v = { c with eng := { c.eng with ctx := (c.gSet e r v).eng.ctx } } := by
  rw [Chip.gSet]
  split_ifs <;> rfl

section
variable (c : Chip) (e : Eng) (r : Fin 32) (v : DWord)

@[simp] theorem Chip.gSet_vlt : (c.gSet e r v).vlt = c.vlt := by rw [Chip.gSet_eq]
@[simp] theorem Chip.gSet_regs : (c.gSet e r v).regs = c.regs := by rw [Chip.gSet_eq]
@[simp] theorem Chip.gSet_ord : (c.gSet e r v).ord = c.ord := by rw [Chip.gSet_eq]
@[simp] theorem Chip.gSet_prs : (c.gSet e r v).prs = c.prs := by rw [Chip.gSet_eq]
@[simp] theorem Chip.gSet_pan : (c.gSet e r v).pan = c.pan := by rw [Chip.gSet_eq]
@[simp] theorem Chip.gSet_ksq : (c.gSet e r v).eng.ksq = c.eng.ksq := by rw [Chip.gSet_eq]
@[simp] theorem Chip.ksqCtx_gSet (j : Nat) : (c.gSet e r v).ksqCtx j = c.ksqCtx j := by
  simp only [Chip.ksqCtx, Chip.gSet_ksq]

end

@[simp] theorem Chip.ksqCtx_setKsq (c : Chip) (j : Nat) (x : KsqCtx) : (c.setKsq j x).ksqCtx j = x := SMap.get_set_same

section
variable (c : Chip) (k : Nat) (x : KsqCtx)

@[simp] theorem Chip.setKsq_vlt : (c.setKsq k x).vlt = c.vlt := (rfl)
@[simp] theorem Chip.setKsq_regs : (c.setKsq k x).regs = c.regs := (rfl)
@[simp] theorem Chip.setKsq_mem : (c.setKsq k x).mem = c.mem := (rfl)
@[simp] theorem Chip.setKsq_ord : (c.setKsq k x).ord = c.ord := (rfl)
@[simp] theorem Chip.setKsq_ctx : (c.setKsq k x).eng.ctx = c.eng.ctx := (rfl)

end

theorem completes_mono {i : Instr} {s : State} {p q : Chip → Prop} (h : completes i s p) (hpq : ∀ c, p c → q c) :
    completes i s q := by
  obtain ⟨c, hc, hp⟩ := h
  exact ⟨c, hc, hpq c hp⟩

theorem issues_mono {i : Instr} {s : State} {p q : Chip → Prop} (h : issues i s p) (hpq : ∀ c, p c → q c) : issues i s q :=
  fun hf => completes_mono (h hf) hpq

/-! ### A key program's instruction -/

/-- The advance of a key sequencer changes its own state alone. -/
theorem Chip.advance_ksq (c : Chip) (j : Fin 2) :
    c.advance (.ksq j) = { c with eng := { c.eng with ctx := (c.advance (.ksq j)).eng.ctx } } := rfl

section
variable (c : Chip) (j : Fin 2)

@[simp] theorem Chip.ksqCtx_advance : (c.advance (.ksq j)).ksqCtx j.val = c.ksqCtx j.val := by rw [Chip.advance_ksq]; rfl
@[simp] theorem Chip.krun_advance : (c.advance (.ksq j)).krun (.ksq j) = c.ksqCtx j.val := Chip.ksqCtx_advance c j
@[simp] theorem Chip.regs_advance_ksq : (c.advance (.ksq j)).regs = c.regs := by rw [Chip.advance_ksq]
@[simp] theorem Chip.pan_advance_ksq : (c.advance (.ksq j)).pan = c.pan := by rw [Chip.advance_ksq]

end

theorem Chip.slot_congr {c d : Chip} (h : d.vlt = c.vlt) (i : Nat) : d.slot i = c.slot i := by simp only [Chip.slot, h]

theorem Chip.checkUse_congr {c d : Chip} (h : d.vlt = c.vlt) (w : Word) (t : BitVec 2) : d.checkUse w t = c.checkUse w t := by
  have hslot : d.slot = c.slot := funext fun i => Chip.slot_congr h i
  unfold Chip.checkUse Chip.checkKey
  rw [hslot]

/-- A key other than TRAFFIC is served while traffic keys are disabled, too. -/
theorem Chip.checkPanUse_ok {c : Chip} {h : Word} {t : BitVec 2} (ht : t ≠ 0) (hu : c.checkUse h t = 0) :
    c.checkPanUse h t = 0 := by
  have htype : (c.slot (slotOf h)).type = t := by
    simp only [Chip.checkUse] at hu
    split_ifs at hu <;> simp_all
  rw [Chip.checkPanUse, if_neg (by rw [htype]; simpa using fun _ _ => ht), hu]

theorem isTransient_lt {k : Nat} (h : isTransient k = true) : k < 16 := by
  simp only [isTransient, Bool.and_eq_true, decide_eq_true_eq] at h
  exact h.2

section
variable {s : State} {j : Fin 2} {d a b : Fin 32} (hcan : s.chip.canIssue (.ksq j))
include hcan

/-- The instruction gives a status and leaves the run in state `y`. -/
theorem issues_keyStatus {i : Instr} {w : Word} {body : Body} {y : KsqCtx} {r : Nat} (hcode : codeOf i = some (.ksq j, w))
    (hexec : exec i s = fleli (.ksq j) w (fun c => c.issue (.ksq j) body) s) (hlegal : wordLegal (.ksq j) w = true)
    (hbody : body (s.chip.advance (.ksq j)) = .ok (((s.chip.advance (.ksq j)).setKsq j.val y).kstat (.ksq j) d r)) :
    issues i s fun c =>
      c.ksqCtx j.val = y ∧ s.chip.wrote c (.ksq j) d (BitVec.ofNat 64 r) ∧
      s.chip.stepped c (.ksq j) ((s.chip.ectx (.ksq j)).pc + 4) ∧ c.mem = s.chip.mem ∧ c.vlt = s.chip.vlt ∧
      c.regs = s.chip.regs := by
  have hwent : s.chip.went ((s.chip.advance (.ksq j)).setKsq j.val y) (.ksq j) :=
    Chip.went_congr (Chip.went_advance _ _) (by simp)
  obtain ⟨hwrote, hstepped⟩ := Chip.went_gSet hwent d (BitVec.ofNat 64 r)
  refine issues_of_ok hcode hexec hlegal hcan hbody (by simp [Chip.kstat]) ⟨?_, hwrote, hstepped, ?_, ?_, ?_⟩ <;>
    simp [Chip.kstat]

/-- The instruction fails with a status. -/
theorem issues_keyRefused {i : Instr} {w : Word} {body : Body} {r : Nat} (hcode : codeOf i = some (.ksq j, w))
    (hexec : exec i s = fleli (.ksq j) w (fun c => c.issue (.ksq j) body) s) (hlegal : wordLegal (.ksq j) w = true)
    (hbody : body (s.chip.advance (.ksq j)) = .ok ((s.chip.advance (.ksq j)).kstat (.ksq j) d r)) :
    issues i s fun c =>
      c.ksqCtx j.val = s.chip.ksqCtx j.val ∧ s.chip.wrote c (.ksq j) d (BitVec.ofNat 64 r) ∧
      s.chip.stepped c (.ksq j) ((s.chip.ectx (.ksq j)).pc + 4) ∧ c.mem = s.chip.mem ∧ c.vlt = s.chip.vlt ∧
      c.regs = s.chip.regs := by
  obtain ⟨hwrote, hstepped⟩ := Chip.went_gSet (Chip.went_advance s.chip (.ksq j)) d (BitVec.ofNat 64 r)
  refine issues_of_ok hcode hexec hlegal hcan hbody (by simp [Chip.kstat]) ⟨?_, hwrote, hstepped, ?_, ?_, ?_⟩ <;>
    simp [Chip.kstat]

/-! ### Moving and asking -/

theorem issues_kmov {m : BitVec 5} {t : Transient} (ha : isTransient a.val = true) (hm : isTransient m.toNat = true)
    (ht : (s.chip.ksqCtx j.val).transient a.val = some t) :
    issues (.kmov (.ksq j) d a m) s fun c =>
      c.ksqCtx j.val = (s.chip.ksqCtx j.val).setTransient m.toNat (some t) ∧ s.chip.wrote c (.ksq j) d (BitVec.ofNat 64 0) ∧
      s.chip.stepped c (.ksq j) ((s.chip.ectx (.ksq j)).pc + 4) ∧ c.mem = s.chip.mem ∧ c.vlt = s.chip.vlt ∧
      c.regs = s.chip.regs := by
  refine issues_keyStatus hcan (w := wordX 0x34 0x04 d a 0 m) rfl rfl ?_ ?_
  · simp [wordLegal_key, legalK, fieldsX, ha, hm, (isTransient_lt ha)]
  · simp only [Chip.krun_advance, ht]
    rfl

theorem issues_kmov_empty {m : BitVec 5} (ha : isTransient a.val = true) (hm : isTransient m.toNat = true)
    (ht : (s.chip.ksqCtx j.val).transient a.val = none) :
    issues (.kmov (.ksq j) d a m) s fun c =>
      c.ksqCtx j.val = s.chip.ksqCtx j.val ∧ s.chip.wrote c (.ksq j) d (BitVec.ofNat 64 0x42) ∧
      s.chip.stepped c (.ksq j) ((s.chip.ectx (.ksq j)).pc + 4) ∧ c.mem = s.chip.mem ∧ c.vlt = s.chip.vlt ∧
      c.regs = s.chip.regs := by
  refine issues_keyRefused hcan (w := wordX 0x34 0x04 d a 0 m) rfl rfl ?_ ?_
  · simp [wordLegal_key, legalK, fieldsX, ha, hm, (isTransient_lt ha)]
  · simp only [Chip.krun_advance, ht]

theorem issues_kclr (ha : isTransient a.val = true) :
    issues (.kclr (.ksq j) a) s fun c =>
      c.ksqCtx j.val = (s.chip.ksqCtx j.val).setTransient a.val none ∧ s.chip.went c (.ksq j) := by
  refine issues_of_ok (w := wordX 0x34 0x05 0 a 0 0) (d := (s.chip.advance (.ksq j)).setKsq j.val
    ((s.chip.ksqCtx j.val).setTransient a.val none)) rfl rfl ?_ hcan ?_ (by simp) ⟨by simp, ?_⟩
  · simp [wordLegal_key, legalK, fieldsX, ha, (isTransient_lt ha)]
  · simp only [Chip.krun_advance]
    rfl
  · exact Chip.went_congr (Chip.went_advance _ _) (by simp)

theorem issues_khnd (ha : a.val < 16) :
    issues (.khnd (.ksq j) d a) s fun c => s.chip.computed c (.ksq j) d
      (if a.val < 8 then ((s.chip.ksqCtx j.val).handle a.val).setWidth 64 else 0) := by
  refine issues_computed (w := wordX 0x34 0x07 d a 0 0) rfl rfl ?_ hcan ?_
  · simp [wordLegal_key, legalK, fieldsX, ha]
  · simp only [Chip.krun_advance]

theorem issues_kinfo (ha : a.val < 8) :
    issues (.kinfo (.ksq j) d a) s fun c =>
      let k := s.chip.slot (slotOf ((s.chip.ksqCtx j.val).handle a.val))
      s.chip.computed c (.ksq j) d (BitVec.ofNat 64 (k.type.toNat + 4 * b2n k.klen + 8 * b2n k.inheritRevoke +
        16 * b2n k.ephemeral + 32 * (k.function % 8) + 2 ^ 8 * k.state.toNat + 2 ^ 10 * b2n k.bound +
        2 ^ 12 * k.depth + 2 ^ 32 * k.count)) := by
  refine issues_computed (w := wordX 0x34 0x06 d a 0 0) rfl rfl ?_ hcan ?_
  · have ha' : a.val < 16 := by omega
    simp [wordLegal_key, legalK, fieldsX, ha']
  · simp only [Chip.krun_advance, if_pos ha, Chip.slot_congr (Chip.vlt_advance s.chip (.ksq j))]

end

/-! ### CMAC requests -/

/-- Nothing has changed but registers, the Pans and the frames' paths. -/
def Chip.dispatches (c d : Chip) : Prop := d = { c with regs := d.regs, pan := d.pan, path := d.path }

section
variable {a c d : Chip}

theorem Chip.dispatches_trans (h : a.dispatches c) (g : c.dispatches d) : a.dispatches d := by
  rw [Chip.dispatches] at *
  rw [g, h]

theorem Chip.dispatches_panAdmit (c : Chip) (kind : ReqKind) (slot gen subject seq blocks : Nat) :
    c.dispatches (c.panAdmit kind slot gen subject seq blocks) := by
  obtain ⟨hframe, -, -⟩ := Chip.panAdmit_spec (c := c) (kind := kind) (slot := slot) (gen := gen) (subject := subject) (seq := seq)
    (blocks := blocks) rfl
  rw [Chip.dispatches, hframe]

theorem Chip.dispatches_eng (h : c.dispatches d) : d.eng = c.eng := by rw [h]
theorem Chip.dispatches_vlt (h : c.dispatches d) : d.vlt = c.vlt := by rw [h]

end

/-- The requests of an engine are dispatched, and its run waits for them. -/
theorem Chip.cmacStart_spec (c : Chip) (j : Fin 2) (slot gen n blocks : Nat) (w : CmacWait) :
    (c.setKsq j.val { c.ksqCtx j.val with cmac := some w, cmacFail := false }).dispatches
      (c.cmacStart (.ksq j) slot gen n blocks w) :=
  Chip.each_induct _ rfl fun _ _ hd => Chip.dispatches_trans hd (Chip.dispatches_panAdmit _ _ _ _ _ _ _)

/-- Bytes inside the engine's local memory. -/
theorem Chip.klocal_some {c : Chip} {j : Fin 2} {x n : Nat} (h : x + n ≤ 0x1000) :
    c.klocal (.ksq j) x n = some (c.memBytes (0x20000000 + j.val * 0x1000 + x) n) := if_neg (Nat.not_lt.2 h)

section
variable {s : State} {j : Fin 2} {d a b : Fin 32}

/-- An instruction that starts CMAC requests goes on once they have completed. -/
theorem issues_cmacStart {i : Instr} {w : Word} {f : Chip → Chip} {body : Body} {c : Chip} {cw : CmacWait}
    (hcan : s.chip.canIssue (.ksq j))
    (hcode : codeOf i = some (.ksq j, w)) (hexec : exec i s = fleli (.ksq j) w f s) (hf : f s.chip = s.chip.issue (.ksq j) body)
    (hlegal : wordLegal (.ksq j) w = true)
    (hbody : ∃ slot gen n blocks, body (s.chip.advance (.ksq j)) = .ok (c.cmacStart (.ksq j) slot gen n blocks cw))
    (hctx : c.eng = (s.chip.advance (.ksq j)).eng) (hown : c.vlt.owners = s.chip.vlt.owners) :
    issues i s fun c => (c.ksqCtx j.val).cmac = some cw ∧ s.chip.went c (.ksq j) := by
  obtain ⟨slot, gen, n, blocks, hbody⟩ := hbody
  have hstart := Chip.cmacStart_spec c j slot gen n blocks cw
  have heng := Chip.dispatches_eng hstart
  refine issues_of_body hcode hexec hf hlegal hcan hbody ?_ ⟨?_, Chip.went_congr (Chip.went_advance _ _) ?_⟩
  · rw [Chip.dispatches_vlt hstart, Chip.setKsq_vlt, hown]
  · rw [Chip.ksqCtx, heng, ← Chip.ksqCtx, Chip.ksqCtx_setKsq]
  · rw [heng, Chip.setKsq_ctx, hctx]

/-- A derivation under the key of a slot. -/
theorem Chip.deriveKey_slot {c : Chip} {x : KsqCtx} {k : Nat} (hk : k < 8) (h : c.checkPanUse (x.handle k) 2 = 0) :
    c.deriveKey x k = .ok ((c.slot (slotOf (x.handle k))).klen, (c.slot (slotOf (x.handle k))).key, slotOf (x.handle k),
      (c.slot (slotOf (x.handle k))).generation, x.handle k) := by
  simp only [Chip.deriveKey, if_pos hk, h, ne_eq, not_true_eq_false, if_false]

theorem issues_kderive {m : BitVec 5} (hcan : s.chip.canIssue (.ksq j)) (hstop : s.chip.pan.stopped = false) (ha : a.val < 8)
    (hm : 8 ≤ m.toNat % 16) (hmin : 1 ≤ bits (s.chip.gGet (.ksq j) b).toNat 31 16)
    (hmax : bits (s.chip.gGet (.ksq j) b).toNat 31 16 ≤ 253)
    (hfit : (s.chip.gGet (.ksq j) b).toNat % 65536 + bits (s.chip.gGet (.ksq j) b).toNat 31 16 ≤ 0x1000)
    (huse : s.chip.checkUse ((s.chip.ksqCtx j.val).handle a.val) 2 = 0) :
    issues (.kderive (.ksq j) d a b m) s fun c =>
      let vb := (s.chip.gGet (.ksq j) b).toNat
      let k := s.chip.slot (slotOf ((s.chip.ksqCtx j.val).handle a.val))
      let len := if 16 ≤ m.toNat then 256 else 128
      let key := kdf k.klen k.key (s.chip.memBytes (0x20000000 + j.val * 0x1000 + vb % 65536) (bits vb 31 16)) len
      (c.ksqCtx j.val).cmac = some (.derive d.val (m.toNat % 16)
        { key := BitVec.ofNat 256 key, klen := decide (16 ≤ m.toNat), parent := (s.chip.ksqCtx j.val).handle a.val }) ∧
      s.chip.went c (.ksq j) := by
  have hadv : (s.chip.advance (.ksq j)).vlt = s.chip.vlt := Chip.vlt_advance _ _
  have hcheck : (s.chip.advance (.ksq j)).checkPanUse ((s.chip.ksqCtx j.val).handle a.val) 2 = 0 :=
    Chip.checkPanUse_ok (by decide) (by rw [Chip.checkUse_congr hadv, huse])
  have hrange : ¬ (bits (s.chip.gGet (.ksq j) b).toNat 31 16 = 0 || 253 < bits (s.chip.gGet (.ksq j) b).toNat 31 16) = true := by
    simp only [Bool.or_eq_true, decide_eq_true_eq]
    omega
  refine issues_cmacStart hcan (w := wordX 0x34 0x00 d a b m) (c := s.chip.advance (.ksq j)) rfl rfl (if_neg (by rw [hstop]; simp))
    ?_ ?_ rfl (by rw [hadv])
  · have ha' : a.val < 16 := by omega
    have hm' : isTransient (m.toNat % 16) = true := by simp [isTransient, hm, Nat.mod_lt]
    simp [wordLegal_key, legalK, fieldsX, ha', hm']
  · simp only [Chip.gGet_advance, if_neg hrange, Chip.klocal_some hfit, Chip.krun_advance, Chip.deriveKey_slot ha hcheck,
      Chip.slot_congr hadv, Chip.memBytes_advance]
    exact ⟨_, _, _, _, rfl⟩

/-- A use of a key changes the vault and what reports it. -/
theorem Chip.useKey_keeps (c : Chip) (i : Nat) :
    (c.useKey i).eng = c.eng ∧ (c.useKey i).vlt.owners = c.vlt.owners ∧ (c.useKey i).mem = c.mem := by
  simp only [Chip.useKey, Chip.saidExhausted]
  split_ifs
  · simp only [Chip.raise_eng, Chip.raise_vlt, Chip.raise_mem]
    exact ⟨rfl, rfl, rfl⟩
  · exact ⟨rfl, rfl, rfl⟩

theorem issues_kcmac (hcan : s.chip.canIssue (.ksq j)) (hstop : s.chip.pan.stopped = false) (ha : a.val < 8)
    (hmax : bits (s.chip.gGet (.ksq j) b).toNat 31 16 ≤ 256)
    (hfit : (s.chip.gGet (.ksq j) b).toNat % 65536 + bits (s.chip.gGet (.ksq j) b).toNat 31 16 ≤ 0x1000)
    (hout : bits (s.chip.gGet (.ksq j) b).toNat 47 32 + 16 ≤ 0x1000)
    (huse : s.chip.checkUse ((s.chip.ksqCtx j.val).handle a.val) 3 = 0) :
    issues (.kcmac (.ksq j) d a b 0) s fun c =>
      let vb := (s.chip.gGet (.ksq j) b).toNat
      let k := s.chip.slot (slotOf ((s.chip.ksqCtx j.val).handle a.val))
      (c.ksqCtx j.val).cmac = some (.tagWrite d.val (bits vb 47 32) (Config.cmac k.klen k.key
        (s.chip.memBytes (0x20000000 + j.val * 0x1000 + vb % 65536) (bits vb 31 16)))) ∧
      s.chip.went c (.ksq j) := by
  have hadv : (s.chip.advance (.ksq j)).vlt = s.chip.vlt := Chip.vlt_advance _ _
  have hcheck : (s.chip.advance (.ksq j)).checkPanUse ((s.chip.ksqCtx j.val).handle a.val) 3 = 0 :=
    Chip.checkPanUse_ok (by decide) (by rw [Chip.checkUse_congr hadv, huse])
  obtain ⟨heng, hown, -⟩ := Chip.useKey_keeps (s.chip.advance (.ksq j)) (slotOf ((s.chip.ksqCtx j.val).handle a.val))
  refine issues_cmacStart hcan (w := wordX 0x34 0x02 d a b 0) rfl rfl (if_neg (by rw [hstop]; simp)) ?_ ?_ heng (by rw [hown, hadv])
  · have ha' : a.val < 16 := by omega
    simp [wordLegal_key, legalK, fieldsX, ha']
  · simp only [Chip.gGet_advance, if_neg (Nat.not_lt.2 hmax), Chip.klocal_some hfit, Chip.klocal_some hout, Chip.krun_advance,
      if_neg (Nat.not_le.2 ha), hcheck, ne_eq, not_true_eq_false, if_false, if_true, Chip.slot_congr hadv, Chip.memBytes_advance]
    exact ⟨_, _, _, _, rfl⟩

end

/-! ### Opening a blob -/

section
variable {s : State} {j : Fin 2} {d a b : Fin 32}

theorem Chip.slice_memBytes (c : Chip) {x o n m : Nat} (h : o + n ≤ m) : slice (c.memBytes x m) o n = c.memBytes (x + o) n := by
  refine List.ext_getElem (by simp [length_slice, Chip.memBytes]) fun i hi _ => ?_
  have hfull : n - min n (m - o) = 0 := by omega
  simp [slice, Chip.memBytes, hfull, Nat.add_assoc]

/-- A blob whose length Table 05.5 does not have is malformed. -/
theorem openBlob_none {k : Slot} {blob : Bytes} (h : ¬ (beNat (slice blob 2 2) = 32 ∨ beNat (slice blob 2 2) = 48)) :
    openBlob k blob = none := by
  simp only [not_or] at h
  simp [openBlob, blobFormat, h]

/-- The bytes that `kunwrap` opens are those that the blob's head announces, or no blob. -/
theorem openBlob_localBlob {c : Chip} {j : Fin 2} {k : Slot} {x n : Nat}
    (hn : beNat (slice (c.memBytes (0x20000000 + j.val * 0x1000 + x) 4) 2 2) = n) (hfit : x + (4 + n) ≤ 0x1000) :
    ∃ blob, c.localBlob (.ksq j) x = some blob ∧
      openBlob k blob = openBlob k (c.memBytes (0x20000000 + j.val * 0x1000 + x) (4 + n)) := by
  simp only [Chip.localBlob, Chip.klocal_some (show x + 4 ≤ 0x1000 by omega), hn, Chip.klocal_some hfit]
  split_ifs with hlen
  · exact ⟨_, rfl, rfl⟩
  · have hbad : ¬ (n = 32 ∨ n = 48) := by simpa using hlen
    refine ⟨_, rfl, ?_⟩
    rw [openBlob_none (by rwa [hn]), openBlob_none]
    rwa [Chip.slice_memBytes c (by omega), ← Chip.slice_memBytes c (by omega : 2 + 2 ≤ 4), hn]

@[simp] theorem Chip.slot_setSlot (c : Chip) (i j : Nat) (k : Slot) :
    (c.setSlot i k).slot j = if j = i then k else c.slot j := SMap.get_set

/-- One use of a key that has more left: its count falls by one. -/
theorem Chip.useKey_of_more {c : Chip} {i : Nat} (h : 2 ≤ (c.slot i).count) :
    c.useKey i = c.setSlot i { c.slot i with count := (c.slot i).count - 1 } := by
  have hcount : ¬ (c.slot i).count - 1 = 0 := by omega
  simp [Chip.useKey, Chip.saidExhausted, hcount]

theorem issues_kunwrap {m : BitVec 5} {n : Nat} (hcan : s.chip.canIssue (.ksq j)) (ha : a.val < 8)
    (hm : isTransient m.toNat = true)
    (hn : beNat (slice (s.chip.memBytes (0x20000000 + j.val * 0x1000 + (s.chip.gGet (.ksq j) b).toNat % 65536) 4) 2 2) = n)
    (hfit : (s.chip.gGet (.ksq j) b).toNat % 65536 + (4 + n) ≤ 0x1000)
    (huse : s.chip.checkUse ((s.chip.ksqCtx j.val).handle a.val) 1 = 0)
    (hcount : 2 ≤ (s.chip.slot (slotOf ((s.chip.ksqCtx j.val).handle a.val))).count)
    (hdepth : (s.chip.slot (slotOf ((s.chip.ksqCtx j.val).handle a.val))).depth ≤ 7) :
    issues (.kunwrap (.ksq j) d a b m) s fun c =>
      let kek := (s.chip.ksqCtx j.val).handle a.val
      let k := s.chip.slot (slotOf kek)
      (c.ectx (.ksq j)).pc = (s.chip.ectx (.ksq j)).pc + 4 ∧
      ∀ y, openBlob k (s.chip.memBytes (0x20000000 + j.val * 0x1000 + (s.chip.gGet (.ksq j) b).toNat % 65536) (4 + n)) = some y →
        (c.ksqCtx j.val).transient m.toNat = some {
          key := y.key, klen := y.klen, unwrapped := true, type := y.type, inheritRevoke := y.inheritRevoke,
          ephemeral := y.ephemeral, count := y.count, parent := kek, depth := k.depth + 1 } ∧
        c.slot (slotOf kek) = { k with count := k.count - 1 } ∧ s.chip.wrote c (.ksq j) d 0 := by
  have hadv : (s.chip.advance (.ksq j)).vlt = s.chip.vlt := Chip.vlt_advance _ _
  have hlegal : wordLegal (.ksq j) (wordX 0x34 0x01 d a b m) = true := by
    have ha' : a.val < 16 := by omega
    simp [wordLegal_key, legalK, fieldsX, ha', hm]
  obtain ⟨kek, hkek⟩ : ∃ kek, (s.chip.ksqCtx j.val).handle a.val = kek := ⟨_, rfl⟩
  obtain ⟨k, hk⟩ : ∃ k, s.chip.slot (slotOf kek) = k := ⟨_, rfl⟩
  rw [hkek] at huse
  rw [hkek, hk] at hcount hdepth
  obtain ⟨blob, hblob, hopen⟩ := openBlob_localBlob (c := s.chip.advance (.ksq j)) (k := k)
    (by rw [Chip.memBytes_advance]; exact hn) hfit
  rw [Chip.memBytes_advance] at hopen
  obtain ⟨u, hu⟩ : ∃ u, (s.chip.advance (.ksq j)).setSlot (slotOf kek) { k with count := k.count - 1 } = u := ⟨_, rfl⟩
  have hused : (s.chip.advance (.ksq j)).useKey (slotOf kek) = u := by
    rw [Chip.useKey_of_more (by rwa [Chip.slot_congr hadv, hk]), Chip.slot_congr hadv, hk, hu]
  have hwent : s.chip.went u (.ksq j) := Chip.went_congr (Chip.went_advance _ _) (by rw [← hu]; rfl)
  have hown : u.vlt.owners = s.chip.vlt.owners := by rw [← hu, ← hadv]; rfl
  have hslot : u.slot (slotOf kek) = { k with count := k.count - 1 } := by rw [← hu, Chip.slot_setSlot, if_pos rfl]
  simp only [hkek, hk, ← hopen]
  cases hb : openBlob k blob with
  | none =>
    refine issues_of_ok (d := ((u.setF F.VLT_STAT_unwrap_fail [] 1).raise Ev.UNWRAP_FAIL 0x0D0).kstat (.ksq j) d 0x47) rfl rfl
      hlegal hcan ?_ ?_ ⟨?_, fun y hy => by simp at hy⟩
    · simp only [Chip.krun_advance, hkek, if_neg (Nat.not_le.2 ha), Chip.checkUse_congr hadv, huse, Chip.gGet_advance, hblob,
        ne_eq, not_true_eq_false, if_false, Chip.slot_congr hadv, hk, hused, Chip.unwrap, hb]
    · rw [Chip.kstat, Chip.gSet_vlt, Chip.raise_vlt, Chip.setF_vlt, hown]
    · exact (Chip.went_gSet (Chip.went_congr hwent (by rw [Chip.raise_eng, Chip.setF_eng])) d _).2.1
  | some y =>
    obtain ⟨t, ht⟩ : ∃ t, Transient.mk y.key y.klen true y.type y.inheritRevoke y.ephemeral y.count kek (k.depth + 1) = t :=
      ⟨_, rfl⟩
    obtain ⟨hwrote, hstepped⟩ := Chip.went_gSet (y := u.setKsq j.val ((s.chip.ksqCtx j.val).setTransient m.toNat (some t)))
      (Chip.went_congr hwent rfl) d 0
    refine issues_of_ok (d := (u.setKsq j.val ((s.chip.ksqCtx j.val).setTransient m.toNat (some t))).kstat (.ksq j) d 0) rfl rfl
      hlegal hcan ?_ ?_ ⟨hstepped.1, fun y' hy => ?_⟩
    · simp only [Chip.krun_advance, hkek, if_neg (Nat.not_le.2 ha), Chip.checkUse_congr hadv, huse, Chip.gGet_advance, hblob,
        ne_eq, not_true_eq_false, if_false, Chip.slot_congr hadv, hk, hused, Chip.unwrap, hb,
        if_neg (show ¬ 8 < k.depth + 1 by omega), ht]
      rfl
    · rw [Chip.kstat, Chip.gSet_vlt, Chip.setKsq_vlt, hown]
    · obtain rfl : y = y' := Option.some.inj hy
      refine ⟨?_, ?_, hwrote⟩
      · simp [Chip.kstat, KsqCtx.setTransient, KsqCtx.transient, ht]
      · rw [Chip.slot_congr (by rw [Chip.kstat, Chip.gSet_vlt, Chip.setKsq_vlt] : _ = u.vlt), hslot]

end

/-! ### Staging reads no engine -/

/-- The block with other engines. -/
def Chip.withEng (c : Chip) (g : Engines) : Chip := { c with eng := g }

section
variable (c : Chip) (g : Engines)

theorem Chip.chan_withEng (i : Nat) : (c.withEng g).chan i = c.chan i := (rfl)
theorem Chip.sa_withEng (i : Nat) : (c.withEng g).sa i = c.sa i := (rfl)
theorem Chip.slot_withEng (i : Nat) : (c.withEng g).slot i = c.slot i := (rfl)
theorem Chip.getF_withEng (f : Fld) (i : List Nat) : (c.withEng g).getF f i = c.getF f i := (rfl)
theorem Chip.nowUs_withEng : (c.withEng g).nowUs = c.nowUs := (rfl)
theorem Chip.path_withEng : (c.withEng g).path = c.path := (rfl)
theorem Chip.setSa_withEng (i : Nat) (v : Sa) : (c.withEng g).setSa i v = (c.setSa i v).withEng g := (rfl)
theorem Chip.setChan_withEng (i : Nat) (v : Channel) : (c.withEng g).setChan i v = (c.setChan i v).withEng g := (rfl)
theorem Chip.setSlot_withEng (i : Nat) (v : Slot) : (c.withEng g).setSlot i v = (c.setSlot i v).withEng g := (rfl)

theorem Chip.rxUnsync_withEng (ch : Nat) : (c.withEng g).rxUnsync ch = (c.rxUnsync ch).withEng g := by
  simp only [Chip.rxUnsync, Chip.chan_withEng]
  split_ifs <;> rfl

theorem Chip.retireSa_withEng (i : Nat) : (c.withEng g).retireSa i = (c.retireSa i).withEng g := by
  simp only [Chip.retireSa, Chip.chan_withEng, Chip.sa_withEng, Chip.slot_withEng, Chip.getF_withEng, Chip.nowUs_withEng,
    Chip.setSa_withEng, Chip.setChan_withEng, Chip.setSlot_withEng, Chip.rxUnsync_withEng]

theorem Chip.when_withEng {f : Chip → Chip} (hf : ∀ c : Chip, f (c.withEng g) = (f c).withEng g) (b : Bool) :
    (c.withEng g).when b f = (c.when b f).withEng g := by
  cases b
  · rfl
  · exact hf c

theorem Chip.placeSa_withEng (i : Nat) (x : Sa) : (c.withEng g).placeSa i x = (c.placeSa i x).withEng g := by
  simp only [Chip.placeSa, Chip.chan_withEng, Chip.sa_withEng, Chip.slot_withEng, Chip.setSa_withEng, Chip.setChan_withEng,
    Chip.setSlot_withEng]
  exact Chip.when_withEng _ g (fun c => Chip.rxUnsync_withEng c g _) _

/-- What COMMIT places reads no engine. -/
theorem Chip.place_withEng (e : Staged) : (c.withEng g).place e = (c.place e).withEng g := by
  cases e with
  | saInstall i x => exact Chip.placeSa_withEng c g i x
  | saRetire h => exact Chip.retireSa_withEng c g _
  | _ => rfl

theorem Chip.each_place_withEng (l : List Staged) : (c.withEng g).each l Chip.place = (c.each l Chip.place).withEng g := by
  induction l generalizing c with
  | nil => rfl
  | cons e l ih => rw [Chip.each_cons, Chip.each_cons, Chip.place_withEng, ih]

theorem Chip.checkTarget_withEng (h : Word) : (c.withEng g).checkTarget h = c.checkTarget h := by
  have hst : (c.withEng g).staged = c.staged.withEng g := Chip.each_place_withEng c g c.ord.staged
  have hat : (c.withEng g).stagedSlot (slotOf h) = c.stagedSlot (slotOf h) := (rfl)
  rw [Chip.checkTarget, Chip.checkTarget, hst, hat]
  rfl

end

/-! ### Staging an output -/

section
variable {s : State} {j : Fin 2} {d a b : Fin 32}

theorem issues_kout {m : BitVec 5} {t : Transient} {x : KeyAttr} {r : Slot} {h : Word} (hcan : s.chip.canIssue (.ksq j))
    (ha : isTransient a.val = true) (hm : m.toNat < 4) (hh : (s.chip.ksqCtx j.val).handle (4 + m.toNat) = h)
    (ht : (s.chip.ksqCtx j.val).transient a.val = some t) (hattr : attrOf (s.chip.gGet (.ksq j) b) = some x)
    (hlen : x.klen = t.klen) (hne : h ≠ 0) (htarget : s.chip.checkTarget h = 0)
    (hroom : s.chip.koutRoom (s.chip.ksqCtx j.val) (slotOf h) = 0)
    (hrecord : s.chip.koutRecord (s.chip.ksqCtx j.val) t x = .ok r) :
    issues (.kout (.ksq j) d a b m) s fun c =>
      c.ord.stagedKsq = s.chip.ord.stagedKsq ++ [.key (slotOf h) r (s.chip.heldGen (slotOf h)) (some r.parent) stageModes] ∧
      c.ksqCtx j.val = { s.chip.ksqCtx j.val with targets := (s.chip.ksqCtx j.val).targets ++ [slotOf h] } ∧
      s.chip.wrote c (.ksq j) d 0 ∧ c.vlt = s.chip.vlt ∧ (c.ectx (.ksq j)).pc = (s.chip.ectx (.ksq j)).pc + 4 := by
  obtain ⟨y, hy⟩ : ∃ y : Staged, .key (slotOf h) r (s.chip.heldGen (slotOf h)) (some r.parent) stageModes = y := ⟨_, rfl⟩
  obtain ⟨k, hk⟩ : ∃ k : KsqCtx, { s.chip.ksqCtx j.val with targets := (s.chip.ksqCtx j.val).targets ++ [slotOf h] } = k := ⟨_, rfl⟩
  obtain ⟨u, hu⟩ : ∃ u, ((s.chip.advance (.ksq j)).setKsq j.val k).modOrd (fun o => { o with stagedKsq := o.stagedKsq ++ [y] }) = u :=
    ⟨_, rfl⟩
  have hadv : s.chip.advance (.ksq j) = s.chip.withEng (s.chip.advance (.ksq j)).eng := rfl
  have htarget' : (s.chip.advance (.ksq j)).checkTarget h = 0 := by rw [hadv, Chip.checkTarget_withEng, htarget]
  have hroom' : (s.chip.advance (.ksq j)).koutRoom (s.chip.ksqCtx j.val) (slotOf h) = 0 := hroom
  have hrecord' : (s.chip.advance (.ksq j)).koutRecord (s.chip.ksqCtx j.val) t x = .ok r := hrecord
  have hheld : (s.chip.advance (.ksq j)).heldGen (slotOf h) = s.chip.heldGen (slotOf h) := (rfl)
  obtain ⟨hwrote, hstepped⟩ := Chip.went_gSet (y := u) (Chip.went_congr (Chip.went_advance s.chip (.ksq j)) (by rw [← hu]; rfl)) d 0
  have hvlt : u.vlt = s.chip.vlt := by rw [← hu, Chip.modOrd_vlt, Chip.setKsq_vlt, Chip.vlt_advance]
  rw [hy]
  refine issues_of_ok (w := wordX 0x34 0x03 d a b m) (d := u.kstat (.ksq j) d 0) rfl rfl ?_ hcan ?_ ?_ ⟨?_, ?_, hwrote, ?_, hstepped.1⟩
  · simp [wordLegal_key, legalK, fieldsX, isTransient_lt ha, ha, hm]
  · simp only [Chip.krun_advance, ht, Chip.gGet_advance, hattr, hh, hlen, bne_self_eq_false, hne, decide_false, Bool.or_self,
      Bool.false_eq_true, if_false, htarget', hroom', ne_eq, not_true_eq_false, hrecord', hheld, hy]
    rw [← hu, ← hk]
    rfl
  · rw [Chip.kstat, Chip.gSet_vlt, hvlt]
  · rw [Chip.kstat, Chip.gSet_ord, ← hu, Chip.modOrd_ord, Chip.setKsq_ord, Chip.ord_advance]
  · rw [Chip.kstat, Chip.ksqCtx_gSet, ← hu, ← hk]
    exact Chip.ksqCtx_setKsq _ _ _
  · rw [Chip.kstat, Chip.gSet_vlt, hvlt]

end

/-! ### Completions (R98) -/

/-- Without a link's job there is nothing to go on with. -/
theorem Chip.jobStep_idle {c : Chip} (h : c.prs.jobs = []) : c.jobStep = c := by
  have hkick : c.jobKick = c := by
    simp only [Chip.jobKick, h, List.head?_nil]
    split_ifs <;> rfl
  rw [Chip.jobStep, h]
  cases c.prs.jobOn <;> exact hkick

section
variable {s : State} {k : Nat} {q : PanReq}

theorem Chip.cmacComplete_last {c : Chip} {j : Fin 2} (hturn : (c.turnOf fun y => y.kind = .cmac && y.subject = j.val) = some (k, q))
    (hlast : ((c.panDone k).findReq fun y => y.kind = .cmac && y.subject = j.val) = none) :
    c.cmacComplete j = match ((c.panDone k).ksqCtx j.val).cmac with
      | none => if j = 0 then (c.panDone k).kcvEnd else c.panDone k
      | some w =>
        ((c.panDone k).setKsq j.val { (c.panDone k).ksqCtx j.val with cmac := none, cmacFail := false }).cmacResult (.ksq j)
          { (c.panDone k).ksqCtx j.val with cmac := none, cmacFail := false } ((c.panDone k).ksqCtx j.val).cmacFail w := by
  simp only [Chip.cmacComplete, hturn, hlast, Option.isSome_none, Bool.false_eq_true, if_false] <;> rfl

/-- The last request of a comparison gives its outcome. -/
theorem cmacComplete_compares {j : Fin 2} {r : Nat} {differs : Bool}
    (hturn : (s.chip.turnOf fun y => y.kind = .cmac && y.subject = j.val) = some (k, q)) (hjobs : j = 1 → s.chip.prs.jobs = [])
    (hwait : ((s.chip.panDone k).ksqCtx j.val).cmac = some (.tagCompare r differs))
    (hgood : ((s.chip.panDone k).ksqCtx j.val).cmacFail = false) (hr : r < 32)
    (hlast : ((s.chip.panDone k).findReq fun y => y.kind = .cmac && y.subject = j.val) = none) :
    completes (.cmacComplete j) s fun c =>
      (c.ksqCtx j.val).cmac = none ∧
      ∀ g : Fin 32, c.gGet (.ksq j) g =
        if g.val = r ∧ r ≠ 0 then BitVec.ofNat 64 (b2n differs) else (s.chip.panDone k).gGet (.ksq j) g := by
  obtain ⟨p, hp⟩ : ∃ p, s.chip.panDone k = p := ⟨_, rfl⟩
  obtain ⟨y, hy⟩ : ∃ y : KsqCtx, { p.ksqCtx j.val with cmac := none, cmacFail := false } = y := ⟨_, rfl⟩
  have honly : s.chip.onlyPan p := hp ▸ (Chip.onlyPan.refl s.chip).panDone k
  have hres : s.chip.cmacComplete j = (p.setKsq j.val y).kstat (.ksq j) (Fin.ofNat 32 r) (b2n differs) := by
    rw [Chip.cmacComplete_last hturn hlast, hwait, hp, ← hy]
    rw [hp] at hgood
    simp only [hgood, Chip.cmacResult, Bool.false_eq_true, if_false]
  have hjob : (s.chip.cmacComplete j).when (j = 1) Chip.jobStep = s.chip.cmacComplete j := by
    by_cases h1 : j = 1
    · have hprs : (s.chip.cmacComplete j).prs.jobs = [] := by
        rw [hres, Chip.kstat, Chip.gSet_prs, ← hjobs h1, honly]
        rfl
      rw [decide_eq_true h1, Chip.when_true, Chip.jobStep_idle hprs]
    · rw [decide_eq_false h1, Chip.when_false]
  refine completes_eq rfl (hjob.trans hres) ⟨?_, fun g => ?_⟩ ?_
  · rw [Chip.kstat, Chip.ksqCtx_gSet, Chip.ksqCtx_setKsq, ← hy]
  · have hval : (Fin.ofNat 32 r).val = r := Nat.mod_eq_of_lt hr
    rw [Chip.kstat, Chip.gGet_gSet, hp]
    simp only [Fin.ext_iff, hval]
    rfl
  · rw [Chip.kstat, Chip.gSet_vlt, Chip.setKsq_vlt, honly]

/-- The last request of an order's key check value lets the order write its statement. -/
theorem cmacComplete_kcv {out : DWord} {data : Bytes}
    (hturn : (s.chip.turnOf fun y => y.kind = .cmac && y.subject = 0) = some (k, q))
    (hlast : ((s.chip.panDone k).findReq fun y => y.kind = .cmac && y.subject = 0) = none)
    (hcmac : (s.chip.ksqCtx 0).cmac = none) (hgood : (s.chip.ksqCtx 0).cmacFail = false)
    (hwait : s.chip.ord.wait = .cmac) (hout : s.chip.ord.cmacOut = some (out, data)) (hcall : s.chip.ord.callReg = none)
    (hbusy : s.chip.ord.busy = false) (hdma : s.chip.dmaAllowed 0 = true) :
    completes (.cmacComplete 0) s fun c =>
      c.out = s.chip.out ++ [.hostWrite 0 out.toNat data] ∧ c.ord.wait = .none ∧ c.ord.cmacOut = none ∧
      c.ord.res = {} ∧ c.vlt = s.chip.vlt := by
  obtain ⟨p, hp⟩ : ∃ p, s.chip.panDone k = p := ⟨_, rfl⟩
  have honly : s.chip.onlyPan p := hp ▸ (Chip.onlyPan.refl s.chip).panDone k
  have hord : p.ord = s.chip.ord := by rw [honly]
  have hksq : p.ksqCtx 0 = s.chip.ksqCtx 0 := by rw [Chip.ksqCtx, honly, Chip.ksqCtx]
  have hkcv : s.chip.cmacComplete 0 = p.kcvEnd := by
    rw [Chip.cmacComplete_last (j := 0) hturn hlast, hp]
    simp only [Fin.val_zero, hksq, hcmac, if_true]
  obtain ⟨u, hu⟩ : ∃ u, ((p.modOrd fun o => { o with wait := .none }).setKsq 0 { p.ksqCtx 0 with cmacFail := false }).modOrd
    (fun o => { o with cmacOut := none }) = u := ⟨_, rfl⟩
  have huord : u.ord = { s.chip.ord with wait := .none, cmacOut := none } := by rw [← hu, ← hord]; rfl
  have huout : u.out = s.chip.out := by rw [← hu, honly]; rfl
  have huvlt : u.vlt = s.chip.vlt := by rw [← hu, honly]; rfl
  have hudma : u.dmaAllowed 0 = true := by rw [← hdma, ← hu, honly]; rfl
  have hend : p.kcvEnd = (u.emit (.hostWrite 0 out.toNat data)).finishOrder {} := by
    have hne : ¬ (p.ord.wait = OrdWait.none) := by rw [hord, hwait]; decide
    have hfail : (p.ksqCtx 0).cmacFail = false := by rw [hksq, hgood]
    have hhost : u.hostOut out.toNat data = u.emit (.hostWrite 0 out.toNat data) := Chip.dma_allowed hudma
    rw [← hhost, ← hu, Chip.kcvEnd, hord, hwait, hout]
    simp only [Chip.ordResume, if_neg hne, hfail, Bool.false_eq_true, if_false]
    rfl
  have hfin : (u.emit (.hostWrite 0 out.toNat data)).finishOrder {} = (u.emit (.hostWrite 0 out.toNat data)).modOrd
      (fun o => { o with wait := .none, res := {} }) := by
    have hc : u.ord.callReg = none := by rw [huord]; exact hcall
    have hb : u.ord.busy = false := by rw [huord]; exact hbusy
    simp only [Chip.finishOrder, Chip.modOrd_ord, Chip.emit_ord, hc, hb, Bool.false_and, Bool.false_eq_true, if_false]
    rfl
  refine completes_eq (i := .cmacComplete 0) rfl ((congrArg (fun c => c.when ((0 : Fin 2) = 1) Chip.jobStep) (hkcv.trans (hend.trans hfin))).trans
    (Chip.when_false _ _)) ⟨?_, rfl, ?_, rfl, ?_⟩ ?_
  · rw [← huout]
    rfl
  · rw [Chip.modOrd_ord, Chip.emit_ord, huord]
  · rw [Chip.modOrd_vlt, Chip.emit_vlt, huvlt]
  · rw [Chip.modOrd_vlt, Chip.emit_vlt, huvlt]

end

/-- Settles O11: each instruction's body on the advanced sequencer, which differs from the block in the engines alone. -/
theorem keyProgramInstructions : Obligations.KeyProgramInstructions := by
  unfold Obligations.KeyProgramInstructions
  intro s j d a b e x pc base vb sets
  have htrans : ∀ {n : Nat}, 8 ≤ n → n < 16 → isTransient n = true := fun h1 h2 => by simp [isTransient, h1, h2]
  refine ⟨fun hcan => ⟨fun m t ha ha' hm hm' => ⟨fun ht => issues_kmov hcan (htrans ha ha') (htrans hm hm') ht,
      fun ht => issues_kmov_empty hcan (htrans ha ha') (htrans hm hm') ht⟩, fun ha ha' => issues_kclr hcan (htrans ha ha'),
      fun ha => issues_khnd hcan ha, fun ha => issues_kinfo hcan ha, fun m hstop ha hm hmin hmax hfit huse => ?_,
      fun hstop ha hmax hfit hout huse => ?_, fun m ha hm hm' hfit huse hcount hdepth => ?_,
      fun m t x r ha ha' hm ht hattr hlen hne htarget hroom hrecord => ?_⟩,
    fun k q r differs hturn hjobs hwait hgood hr hlast => cmacComplete_compares hturn hjobs hwait hgood hr hlast,
    fun k q out data hturn hlast hcmac hgood hwait hout hcall hbusy hdma =>
      cmacComplete_kcv hturn hlast hcmac hgood hwait hout hcall hbusy hdma⟩
  · exact issues_mono (issues_kderive hcan hstop ha hm hmin hmax hfit huse) fun c h => ⟨h.1, h.2.1, Chip.went_pc h.2⟩
  · exact issues_mono (issues_kcmac hcan hstop ha hmax hfit hout huse) fun c h => ⟨h.1, h.2.1, Chip.went_pc h.2⟩
  · exact issues_kunwrap hcan ha (htrans hm hm') rfl (by rw [← Nat.add_assoc]; exact hfit) huse hcount hdepth
  · exact issues_kout hcan (htrans ha ha') hm rfl ht hattr hlen hne htarget hroom hrecord

end Sys2Proof.Machine

/-! PROOFS. Order programs (R322 to R324): the instructions of Fleli-O. -/
namespace Sys2Proof.Machine

@[simp] theorem Chip.gSet_buf (c : Chip) (e : Eng) (r : Fin 32) (v : DWord) : (c.gSet e r v).buf = c.buf := by rw [Chip.gSet_eq]
@[simp] theorem Chip.gSet_ctl (c : Chip) (e : Eng) (r : Fin 32) (v : DWord) : (c.gSet e r v).ctl = c.ctl := by rw [Chip.gSet_eq]

/-! ### An order called by a program -/

/-- The block in which a called order has ended: its result stands, and its status is in register `d`. -/
def Chip.answered (c : Chip) (d : Fin 32) (r : OrdRes) : Chip :=
  (c.modOrd fun o => { o with wait := .none, callReg := none, res := r, lastRet := r.ret.getD o.lastRet }).gSet .order d
    (BitVec.ofNat 64 r.status)

theorem Chip.finishOrder_called {c : Chip} {d : Fin 32} (h : c.ord.callReg = some d.val) (r : OrdRes) :
    c.finishOrder r = c.answered d r := by
  simp only [Chip.finishOrder, Chip.modOrd_ord, h, Chip.callDone, Chip.answered, Chip.gSet]
  split_ifs <;> rfl

section
variable {s : State} {d a b : Fin 32} (hcan : s.chip.canIssue .order)
include hcan

/-- An order that ends at once gives its status to the calling program. -/
theorem issues_called {i : Instr} {w : Word} {f : OrdFn} {g : Chip → Chip} {u : Chip} {r : OrdRes} {post : Chip → Prop}
    (hcode : codeOf i = some (.order, w)) (hexec : exec i s = fleli .order w g s) (hg : g s.chip = s.chip.callOrder .order d f)
    (hlegal : wordLegal .order w = true) (hsome : (f s.chip).2.isSome = true)
    (hf : f ((s.chip.advance .order).modOrd fun o => { o with callReg := some d.val }) = (u, some r))
    (hcall : u.ord.callReg = some d.val) (hctx : u.eng.ctx = (s.chip.advance .order).eng.ctx)
    (hown : u.vlt.owners = s.chip.vlt.owners) (hmem : u.mem = s.chip.mem) (hpost : post (u.answered d r)) :
    issues i s fun c =>
      s.chip.wrote c .order d (BitVec.ofNat 64 r.status) ∧ s.chip.stepped c .order ((s.chip.ectx .order).pc + 4) ∧
      c.mem = s.chip.mem ∧ post c := by
  have hwent : s.chip.went (u.modOrd fun o => { o with wait := .none, callReg := none, res := r, lastRet := r.ret.getD o.lastRet })
      .order := Chip.went_congr (Chip.went_advance _ _) hctx
  obtain ⟨hwrote, hstepped⟩ := Chip.went_gSet hwent d (BitVec.ofNat 64 r.status)
  have hissue : g s.chip = s.chip.issue .order fun c =>
      match f (c.modOrd fun o => { o with callReg := some d.val }) with
      | (c, none) => .ok c
      | (c, some r) => .ok (c.finishOrder r) := by
    have hnone : (f s.chip).2.isNone = false := by rw [← Option.not_isSome, hsome]; rfl
    rw [hg]
    simp only [Chip.callOrder, hnone, Bool.and_false, Bool.false_and, Bool.false_eq_true, if_false] <;> rfl
  refine issues_of_body (d := u.answered d r) hcode hexec hissue hlegal hcan ?_ ?_ ⟨hwrote, hstepped, ?_, hpost⟩
  · simp only [hf, Chip.finishOrder_called hcall]
  · rw [Chip.answered, Chip.gSet_vlt, Chip.modOrd_vlt, hown]
  · rw [Chip.answered, Chip.gSet_mem, Chip.modOrd_mem, hmem]

end

/-! ### COMMIT of one key, of one release, or of nothing (R132) -/

/-- Before COMMIT hands over the change of mode: the entries `d` have been applied to `c` and nothing is staged any more. -/
def Chip.settled (c d : Chip) : Chip :=
  let d := d.when c.ord.heldFill fun d => d.modPnl fun p => { p with held := none }
  ((d.commitRecord c.snapshot).each c.ord.regWrites Chip.stagedWrite).discardStaged

/-- A commit record is kept for the peer alone. -/
theorem Chip.commitRecord_eq (c : Chip) (before : CopySnap) :
    c.commitRecord before = { c with prs := (c.commitRecord before).prs } := by
  rw [Chip.commitRecord]
  split_ifs <;> rfl

/-- With no write staged and no blob of the fill port used, only what is staged and the peer's record change besides. -/
theorem Chip.settled_eq {c d : Chip} (hw : c.ord.regWrites = []) (hf : c.ord.heldFill = false) :
    c.settled d = { d with
      prs := (d.commitRecord c.snapshot).prs,
      ord := { d.ord with staged := [], regWrites := [], stagedKsq := [], heldFill := false } } := by
  rw [Chip.settled, hw, hf, Chip.when_false, Chip.each_nil, Chip.commitRecord_eq]
  rfl

/-- A COMMIT whose one entry passes its check, and is no change of mode. -/
theorem commit_single {c : Chip} {e : Staged} (hst : c.ord.staged = [e]) (hcheck : c.entryCheck e = 0)
    (hmode : ∀ f t r, e ≠ .modeSet f t r) : commit c = (c.settled (c.applyEntry e), some {}) := by
  have happly : c.applyEntries [e] = .ok (c.applyEntry e) := by
    simp only [Chip.applyEntries, hcheck, ne_eq, not_true_eq_false, if_false]
  simp only [commit, hst, happly]
  cases e with
  | modeSet f t r => exact absurd rfl (hmode f t r)
  | _ => rfl

theorem commit_nothing {c : Chip} (hst : c.ord.staged = []) : commit c = (c.settled c, some {}) := by
  simp only [commit, hst, Chip.applyEntries]
  rfl

section
variable {c : Chip} {slot : Nat} {record : Slot}

/-- R132: the check of a staged key for a FREE slot. -/
theorem Chip.entryCheck_key (hmode : c.inMode stageModes = true) (hfree : (c.slot slot).state = 0) (hbound : (c.slot slot).bound = false) :
    c.entryCheck (.key slot record none none stageModes) = 0 := by
  simp [Chip.entryCheck, Chip.keyCheck, hmode, hfree, hbound]

/-- What a staged key for a FREE slot changes. -/
theorem Chip.applyEntry_key (hfree : (c.slot slot).state = 0) :
    c.applyEntry (.key slot record none none stageModes) = ((c.placeKey slot record).dropCached slot).newUses slot := by
  simp [Chip.applyEntry, hfree]

theorem Chip.slot_applyEntry_key (hfree : (c.slot slot).state = 0) (k : Nat) :
    (c.applyEntry (.key slot record none none stageModes)).slot k =
      if k = slot then { record with generation := nextGen (c.slot slot).generation } else c.slot k := by
  rw [Chip.applyEntry_key hfree]
  exact Chip.slot_setSlot _ _ _ _

/-- Beyond the vault and the Pans' key caches nothing changes. -/
theorem Chip.applyEntry_key_eq (hfree : (c.slot slot).state = 0) :
    c.applyEntry (.key slot record none none stageModes) = { c with
      vlt := (c.applyEntry (.key slot record none none stageModes)).vlt,
      pan := (c.applyEntry (.key slot record none none stageModes)).pan } := by
  rw [Chip.applyEntry_key hfree]
  rfl

theorem Chip.owners_applyEntry_key (hfree : (c.slot slot).state = 0) :
    (c.applyEntry (.key slot record none none stageModes)).vlt.owners = c.vlt.owners := by
  rw [Chip.applyEntry_key hfree]
  rfl

end

/-! ### The instructions -/

/-- The block as an order called by a program finds it. -/
def Chip.calling (c : Chip) (d : Fin 32) : Chip := (c.advance .order).modOrd fun o => { o with callReg := some d.val }

/-- It differs from the block in the engines and the call alone. -/
theorem Chip.calling_eq (c : Chip) (d : Fin 32) :
    c.calling d = { c with eng := (c.advance .order).eng, ord := { c.ord with callReg := some d.val } } := rfl

section
variable (c : Chip) (d : Fin 32)

theorem Chip.calling_inMode (l : List Mode) : (c.calling d).inMode l = c.inMode l := (rfl)
theorem Chip.calling_slot (i : Nat) : (c.calling d).slot i = c.slot i := (rfl)
theorem Chip.calling_staged : (c.calling d).ord.staged = c.ord.staged := (rfl)
theorem Chip.calling_modeCheck (m n : Mode) (k : Option Mode) : (c.calling d).modeCheck m n k = c.modeCheck m n k := (rfl)
theorem Chip.calling_ctl : (c.calling d).ctl = c.ctl := (rfl)
theorem Chip.calling_vlt : (c.calling d).vlt = c.vlt := (rfl)
theorem Chip.calling_mem : (c.calling d).mem = c.mem := (rfl)
theorem Chip.calling_buf : (c.calling d).buf = c.buf := (rfl)
theorem Chip.calling_kidState (i : Nat) : (c.calling d).kidState i = c.kidState i := (rfl)
theorem Chip.calling_callReg : (c.calling d).ord.callReg = some d.val := (rfl)
theorem Chip.calling_ctx : (c.calling d).eng.ctx = (c.advance .order).eng.ctx := (rfl)

end

theorem memKstat_ok {c : Chip} (h : c.inMode (.erased :: infoModes) = true) :
    memKstat c = (c, some { ret := some ((List.range 32).foldl (fun n i => n + c.kidState i * 2 ^ (3 * i)) 0) }) := by
  simp only [memKstat, inModes, h, if_true]

section
variable {s : State} {d a b : Fin 32} {dma : Option Bytes}

/-- The result that an instruction of an order program gives, with what it leaves besides. -/
def orderGives (s : State) (d : Fin 32) (i : Instr) (v : Nat) (post : Chip → Prop) : Prop :=
  issues i s fun c => s.chip.wrote c .order d (BitVec.ofNat 64 v) ∧
    s.chip.stepped c .order ((s.chip.ectx .order).pc + 4) ∧ c.mem = s.chip.mem ∧ post c

theorem issues_ocall_memKstat (hcan : s.chip.canIssue .order) (ha : s.chip.gGet .order a = 0x0504)
    (hb : (s.chip.gGet .order b).toNat ≤ 0x4000) (hmode : s.chip.inMode (.erased :: infoModes) = true) :
    orderGives s d (.ocall .order d a b dma) 0 fun c =>
      c.ord.lastRet = (List.range 32).foldl (fun n i => n + s.chip.kidState i * 2 ^ (3 * i)) 0 ∧ c.buf = s.chip.buf := by
  have horder : s.chip.calledOrder (s.chip.gGet .order a) (s.chip.gGet .order b) dma = memKstat := by
    rw [ha]
    exact if_neg (Nat.not_lt.2 hb)
  have hcalled : memKstat (s.chip.calling d) = (s.chip.calling d,
      some { ret := some ((List.range 32).foldl (fun n i => n + s.chip.kidState i * 2 ^ (3 * i)) 0) }) := by
    rw [memKstat_ok (by rw [Chip.calling_inMode, hmode])]
    simp only [Chip.calling_kidState]
  refine issues_called hcan (w := wordX 0x38 0x00 d a b 0) (u := s.chip.calling d) (f := memKstat) rfl rfl ?_
    (by simp [wordLegal_order, legalO, fieldsX]) (by rw [memKstat_ok hmode]; rfl) hcalled (Chip.calling_callReg _ _)
    (Chip.calling_ctx _ _) ?_ (Chip.calling_mem _ _) ⟨?_, ?_⟩
  · simp only [horder]
  · rw [Chip.calling_vlt]
  · rw [Chip.answered, Chip.gSet_ord, Chip.modOrd_ord, Option.getD_some]
  · rw [Chip.answered, Chip.gSet_buf, Chip.modOrd_buf, Chip.calling_buf]

theorem issues_ocall_unknown (hcan : s.chip.canIssue .order) (ha : paramSize (s.chip.gGet .order a).toNat = none) :
    orderGives s d (.ocall .order d a b dma) 0x53 fun c => c.vlt = s.chip.vlt := by
  have horder : s.chip.calledOrder (s.chip.gGet .order a) (s.chip.gGet .order b) dma = ordFail 0x53 := by
    simp only [Chip.calledOrder, ha]
  refine issues_called hcan (w := wordX 0x38 0x00 d a b 0) (u := s.chip.calling d) (f := ordFail 0x53) (r := .of 0x53) rfl rfl ?_
    (by simp [wordLegal_order, legalO, fieldsX]) rfl rfl (Chip.calling_callReg _ _) (Chip.calling_ctx _ _) ?_ (Chip.calling_mem _ _) ?_
  · simp only [horder]
  · rw [Chip.calling_vlt]
  · rw [Chip.answered, Chip.gSet_vlt, Chip.modOrd_vlt, Chip.calling_vlt]

/-- The advance of the order engine changes its own state alone. -/
theorem Chip.advance_order (c : Chip) : c.advance .order = c.withEng (c.advance .order).eng := rfl

theorem issues_otw {st : Nat} (hcan : s.chip.canIssue .order) {u : Chip}
    (hst : (if (s.chip.gGet .order a).toNat % 4 ≠ 0 || (lookupReg (s.chip.gGet .order a).toNat).isNone then 0x53
      else if 256 ≤ s.chip.ord.regWrites.length then 0x4A else 0) = st)
    (hu : u = if st = 0 then (s.chip.advance .order).modOrd fun o =>
      { o with regWrites := o.regWrites ++ [((s.chip.gGet .order a).toNat, (s.chip.gGet .order b).setWidth 32)] }
      else s.chip.advance .order) :
    orderGives s d (.otw .order d a b) st fun c => c = { u with eng := c.eng } := by
  have hctx : u.eng = (s.chip.advance .order).eng := by
    rw [hu]
    split_ifs <;> rfl
  have hrest : u.mem = s.chip.mem ∧ u.vlt = s.chip.vlt := by
    rw [hu]
    split_ifs
    · exact ⟨Chip.mem_advance _ _, Chip.vlt_advance _ _⟩
    · exact ⟨Chip.mem_advance _ _, Chip.vlt_advance _ _⟩
  obtain ⟨hmem, hvlt⟩ := hrest
  obtain ⟨hwrote, hstepped⟩ := Chip.went_gSet (Chip.went_congr (Chip.went_advance s.chip .order) (congrArg Engines.ctx hctx)) d
    (BitVec.ofNat 64 st)
  refine issues_of_ok (w := wordX 0x38 0x01 d a b 0) (d := u.gSet .order d (BitVec.ofNat 64 st)) rfl rfl
    (by simp [wordLegal_order, legalO, fieldsX]) hcan ?_ ?_ ⟨hwrote, hstepped, ?_, ?_⟩
  · simp only [Chip.gGet_advance, Chip.ord_advance, hst, hu, Chip.when]
    simp
  · rw [Chip.gSet_vlt, hvlt]
  · rw [Chip.gSet_mem, hmem]
  · rw [Chip.gSet_eq]

theorem modeSet_maintenance {c : Chip} (hd3 : c.ctl.d3Taint = false) (hnone : ∀ y ∈ c.ord.staged, ∀ f t r, y ≠ .modeSet f t r)
    (hcheck : c.modeCheck c.ctl.mode .maintenance none = 0) :
    modeSet 9 c = (c.modOrd fun o => { o with staged := o.staged ++ [.modeSet c.ctl.mode .maintenance none] }, some {}) := by
  have hstaged : (c.ord.staged.any fun e => match e with | .modeSet _ _ _ => true | _ => false) = false := by
    refine List.any_eq_false.2 fun y hy => ?_
    cases y with
    | modeSet f t r => exact absurd rfl (hnone _ hy f t r)
    | _ => simp
  have hto : setMode ((9 : Word).toNat % 16) = some .maintenance := by decide
  have hdrain : (if Mode.maintenance = Mode.drain then modeOf ((9 : Word).toNat / 16) else none) = none := by decide
  rw [modeSet]
  dsimp only
  rw [if_neg (by decide)]
  refine (if_neg (by rw [← Bool.not_eq_true] at hstaged; exact hstaged)).trans ?_
  rw [hd3, if_neg (by decide), hto]
  dsimp only
  rw [hdrain, if_neg (by rw [hcheck]; decide)]

theorem issues_omode (hcan : s.chip.canIssue .order) (ha : s.chip.gGet .order a = 9) (hd3 : s.chip.ctl.d3Taint = false)
    (hnone : ∀ y ∈ s.chip.ord.staged, ∀ f t r, y ≠ .modeSet f t r)
    (hcheck : s.chip.modeCheck s.chip.ctl.mode .maintenance none = 0) :
    orderGives s d (.omode .order d a) 0 fun c =>
      c.ord.staged = s.chip.ord.staged ++ [.modeSet s.chip.ctl.mode .maintenance none] ∧ c.ctl = s.chip.ctl := by
  have hword : (if 2 ^ 32 ≤ (s.chip.gGet .order a).toNat then ordFail 0x53 else modeSet ((s.chip.gGet .order a).setWidth 32)) =
      modeSet 9 := by
    rw [ha]
    rfl
  have hcalled := modeSet_maintenance (c := s.chip.calling d) (by rw [Chip.calling_ctl, hd3])
    (by rw [Chip.calling_staged]; exact hnone) (by rw [Chip.calling_ctl, Chip.calling_modeCheck, hcheck])
  rw [Chip.calling_ctl] at hcalled
  refine issues_called hcan (w := wordX 0x38 0x02 d a 0 0) (f := modeSet 9) rfl rfl ?_ (by simp [wordLegal_order, legalO, fieldsX])
    (by rw [modeSet_maintenance hd3 hnone hcheck]; rfl) hcalled ?_ ?_ ?_ ?_ ⟨?_, ?_⟩
  · simp only [hword]
  · rw [Chip.modOrd_ord, Chip.calling_callReg]
  · rw [Chip.modOrd_eng, Chip.calling_ctx]
  · rw [Chip.modOrd_vlt, Chip.calling_vlt]
  · rw [Chip.modOrd_mem, Chip.calling_mem]
  · rw [Chip.answered, Chip.gSet_ord, Chip.modOrd_ord, Chip.modOrd_ord, Chip.calling_staged]
  · rw [Chip.answered, Chip.gSet_ctl, Chip.modOrd_ctl, Chip.modOrd_ctl, Chip.calling_ctl]

theorem issues_ocommit {slot : Nat} {record : Slot} (hcan : s.chip.canIssue .order)
    (hst : s.chip.ord.staged = [.key slot record none none stageModes]) (hw : s.chip.ord.regWrites = [])
    (hfill : s.chip.ord.heldFill = false) (hmode : s.chip.inMode stageModes = true) (hfree : (s.chip.slot slot).state = 0)
    (hbound : (s.chip.slot slot).bound = false) :
    orderGives s d (.ocommit .order d) 0 fun c =>
      c.slot slot = { record with generation := nextGen (s.chip.slot slot).generation } ∧ c.ord.staged = [] := by
  have hmodes : ∀ f t r, Staged.key slot record none none stageModes ≠ .modeSet f t r := by simp
  have hfree' : ((s.chip.calling d).slot slot).state = 0 := by rw [Chip.calling_slot, hfree]
  have hcalled := commit_single (c := s.chip.calling d) (by rw [Chip.calling_staged, hst])
    (Chip.entryCheck_key (by rw [Chip.calling_inMode, hmode]) hfree' (by rw [Chip.calling_slot, hbound])) hmodes
  obtain ⟨u, hu⟩ : ∃ u, (s.chip.calling d).applyEntry (.key slot record none none stageModes) = u := ⟨_, rfl⟩
  have hsettled := Chip.settled_eq (c := s.chip.calling d) (d := u) hw hfill
  have hslot := Chip.slot_applyEntry_key (record := record) hfree' slot
  have hframe := Chip.applyEntry_key_eq (record := record) hfree'
  have howners := Chip.owners_applyEntry_key (record := record) hfree'
  rw [hu] at hcalled hslot hframe howners
  obtain ⟨v, hv⟩ : ∃ v, (s.chip.calling d).settled u = v := ⟨_, rfl⟩
  rw [hv] at hcalled hsettled
  have hslot' : v.slot slot = u.slot slot := Chip.slot_congr (by rw [hsettled]) _
  refine issues_called hcan (w := wordX 0x38 0x03 d 0 0 0) (f := commit) rfl rfl rfl (by simp [wordLegal_order, legalO, fieldsX])
    ?_ hcalled ?_ ?_ ?_ ?_ ⟨?_, ?_⟩
  · rw [commit_single hst (Chip.entryCheck_key hmode hfree hbound) hmodes]
    rfl
  · rw [hsettled, hframe]
    exact Chip.calling_callReg s.chip d
  · rw [hsettled, hframe]
    exact Chip.calling_ctx s.chip d
  · rw [hsettled, howners, Chip.calling_vlt]
  · rw [hsettled, hframe]
    exact Chip.calling_mem s.chip d
  · have hanswered : (v.answered d {}).vlt = v.vlt := by rw [Chip.answered, Chip.gSet_vlt, Chip.modOrd_vlt]
    exact (Chip.slot_congr hanswered _).trans (hslot'.trans (hslot.trans (if_pos rfl)))
  · rw [Chip.answered, Chip.gSet_ord, Chip.modOrd_ord, hsettled]

theorem issues_oabort (hcan : s.chip.canIssue .order) :
    issues (.oabort .order) s fun c =>
      c.ord.staged = [] ∧ c.ord.regWrites = [] ∧ c.ord.stagedKsq = [] ∧ c.vlt = s.chip.vlt ∧ c.ctl = s.chip.ctl ∧
      s.chip.went c .order := by
  refine issues_of_ok (w := wordX 0x38 0x04 0 0 0 0) rfl rfl (by simp [wordLegal_order, legalO, fieldsX]) hcan rfl ?_
    ⟨rfl, rfl, rfl, ?_, ?_, Chip.went_congr (Chip.went_advance s.chip .order) rfl⟩
  · rw [Chip.discardStaged, Chip.modOrd_vlt, Chip.vlt_advance]
  · rw [Chip.discardStaged, Chip.modOrd_vlt, Chip.vlt_advance]
  · rw [Chip.discardStaged, Chip.modOrd_ctl, Chip.ctl_advance]

/-! ### Waits -/

theorem Chip.waitReached_advance (c : Chip) (e : Eng) (onEpoch : Bool) (v : Nat) :
    (c.advance e).waitReached onEpoch v = c.waitReached onEpoch v := by
  unfold Chip.waitReached Chip.nowUs Chip.now
  rw [Chip.tim_advance]

theorem issues_owait_epoch (hcan : s.chip.canIssue .order) (hreached : (s.chip.gGet .order a).toNat ≤ s.chip.tim.epoch)
    (hmax : (s.chip.gGet .order a).toNat < 2 ^ 40) :
    orderGives s d (.owait .order d a 1) 0 fun c => c.ord = s.chip.ord := by
  have hnot : ¬ unreachable true (s.chip.gGet .order a).toNat = true := by simpa [unreachable] using hmax
  have hwait : s.chip.waitReached true (s.chip.gGet .order a).toNat = true := by simp [Chip.waitReached, hreached]
  obtain ⟨hwrote, hstepped⟩ := Chip.went_gSet (Chip.went_advance s.chip .order) d 0
  refine issues_of_ok (w := wordX 0x38 0x05 d a 0 1) (d := (s.chip.advance .order).gSet .order d 0) rfl rfl
    (by simp [wordLegal_order, legalO, fieldsX]) hcan ?_ ?_ ⟨hwrote, hstepped, ?_, ?_⟩
  · simp only [Chip.gGet_advance, decide_true, if_neg hnot, Chip.waitReached_advance, hwait, if_true]
  · rw [Chip.gSet_vlt, Chip.vlt_advance]
  · rw [Chip.gSet_mem, Chip.mem_advance]
  · exact (Chip.gSet_ord _ _ _ _).trans (Chip.ord_advance _ _)

theorem issues_owait_time (hcan : s.chip.canIssue .order) (hahead : s.chip.nowUs < (s.chip.gGet .order a).toNat)
    (hmax : (s.chip.gGet .order a).toNat * 1000 < 2 ^ 64) :
    issues (.owait .order d a 0) s fun c =>
      c.ord.owait = some (d.val, false, (s.chip.gGet .order a).toNat, s.chip.nowUs + 1000000) ∧
      ∀ q, c.gGet .order q = s.chip.gGet .order q := by
  have hnot : ¬ unreachable false (s.chip.gGet .order a).toNat = true := by simpa [unreachable] using hmax
  have hwait : ¬ s.chip.waitReached false (s.chip.gGet .order a).toNat = true := by simpa [Chip.waitReached] using hahead
  have hus : (s.chip.advance .order).nowUs = s.chip.nowUs := by simp only [Chip.nowUs, Chip.now, Chip.tim_advance]
  have hm : decide ((0 : BitVec 5) = 1) = false := by decide
  refine issues_of_ok (w := wordX 0x38 0x05 d a 0 0) (d := (s.chip.advance .order).modOrd fun o =>
      { o with owait := some (d.val, false, (s.chip.gGet .order a).toNat, s.chip.nowUs + 1000000) }) rfl rfl
    (by simp [wordLegal_order, legalO, fieldsX]) hcan ?_ ?_ ⟨rfl, ?_⟩
  · simp only [Chip.gGet_advance, hm, if_neg hnot, Chip.waitReached_advance, if_neg hwait, hus]
  · rw [Chip.modOrd_vlt, Chip.vlt_advance]
  · exact (Chip.went_congr (Chip.went_advance s.chip .order) rfl).1

theorem owaitResume_completes {r v limit : Nat} (hwait : s.chip.ord.owait = some (r, true, v, limit))
    (hreached : v ≤ s.chip.tim.epoch) (hr : r < 32) :
    completes .owaitResume s fun c =>
      c.ord.owait = none ∧ ∀ g : Fin 32, c.gGet .order g = if g.val = r ∧ r ≠ 0 then 0 else s.chip.gGet .order g := by
  obtain ⟨u, hu⟩ : ∃ u, (s.chip.modOrd fun o => { o with owait := none }) = u := ⟨_, rfl⟩
  have hreached' : u.waitReached true v = true := by rw [← hu]; simp [Chip.waitReached, hreached]
  have hres : s.chip.owaitResume = u.gSet .order (Fin.ofNat 32 r) 0 := by
    simp only [Chip.owaitResume, hwait, hu, hreached', if_true]
  have hval : (Fin.ofNat 32 r).val = r := Nat.mod_eq_of_lt hr
  refine completes_eq rfl hres ⟨?_, fun g => ?_⟩ ?_
  · rw [Chip.gSet_ord, ← hu, Chip.modOrd_ord]
  · rw [Chip.gGet_gSet]
    simp only [Fin.ext_iff, hval]
    rw [← hu]
    rfl
  · rw [Chip.gSet_vlt, ← hu, Chip.modOrd_vlt]

end

/-- Settles O12: a called order meets `Chip.calling`, and its result is `Chip.answered`. -/
theorem orderProgramInstructions : Obligations.OrderProgramInstructions := by
  unfold Obligations.OrderProgramInstructions
  intro s d a b dma e va pc gives
  refine ⟨fun hcan => ⟨fun ha hb hmode => issues_ocall_memKstat hcan ha hb hmode, fun ha => issues_ocall_unknown hcan ha,
      fun ha hreg hroom => ?_, fun hroom ha hreg => ?_, fun ha hd3 hnone hcheck => issues_omode hcan ha hd3 hnone hcheck,
      fun slot record hst hw hfill hmode hfree hbound => issues_ocommit hcan hst hw hfill hmode hfree hbound,
      issues_oabort hcan, fun hreached hmax => issues_owait_epoch hcan hreached hmax,
      fun hahead hmax => issues_owait_time hcan hahead hmax⟩,
    fun r v limit hwait hreached hr => owaitResume_completes hwait hreached hr⟩
  · have hst : (if va.toNat % 4 ≠ 0 || (lookupReg va.toNat).isNone then 0x53
        else if 256 ≤ s.chip.ord.regWrites.length then 0x4A else 0) = 0 := by
      simp [ha, Option.isNone_eq_false_iff.2 hreg, Nat.not_le.2 hroom]
    refine issues_mono (issues_otw hcan hst rfl) fun c ⟨h1, h2, h3, h4⟩ => ⟨h1, h2, h3, ?_⟩
    rw [h4, Chip.advance_order]
    rfl
  · have hst : (if va.toNat % 4 ≠ 0 || (lookupReg va.toNat).isNone then 0x53
        else if 256 ≤ s.chip.ord.regWrites.length then 0x4A else 0) = 0x4A := by
      simp [ha, Option.isNone_eq_false_iff.2 hreg, hroom]
    refine issues_mono (issues_otw hcan hst rfl) fun c ⟨h1, h2, h3, h4⟩ => ⟨h1, h2, h3, ?_⟩
    rw [h4, if_neg (by decide), Chip.advance_order]
    rfl

end Sys2Proof.Machine

/-! PROOFS. The vigil program (R325, R345 to R347): the instructions of Fleli-V and the start of a run. -/
namespace Sys2Proof.Machine

/-! ### The instructions -/

/-- The advance of the vigil program changes its own state alone. -/
theorem Chip.advance_vigil (c : Chip) : c.advance .vigil = c.withEng (c.advance .vigil).eng := rfl

theorem Chip.filt_advance_vigil (c : Chip) (n : Nat) : (c.advance .vigil).filt n = c.filt n := (rfl)
theorem Chip.causeSet_advance_vigil (c : Chip) (n : Nat) : (c.advance .vigil).causeSet n = c.causeSet n := (rfl)
theorem Chip.causes_advance_vigil (c : Chip) : (c.advance .vigil).eng.vigilCauses = c.eng.vigilCauses := (rfl)
theorem Chip.note_advance_vigil (c : Chip) : (c.advance .vigil).eng.note = c.eng.note := (rfl)

theorem Chip.noteWord_setNote (c : Chip) (i v w : Nat) :
    (c.setNote i v).noteWord w = if w = i then BitVec.ofNat 32 v else c.noteWord w := SMap.get_set

section
variable {s : State} {d a b : Fin 32} (hcan : s.chip.canIssue .vigil)
include hcan

/-- A sensed value that needs no open measurement. -/
theorem issues_vsense {m : BitVec 5} {v : DWord} (hd : d.val < 8) (hm : m.toNat < 6) (h3 : m ≠ 3)
    (hv : (match m.toNat with
      | 0 => flagWord (s.chip.causeSet 0)
      | 1 => flagWord (s.chip.filt 1)
      | 2 => BitVec.ofInt 64 s.chip.flt.tempLow
      | 3 => BitVec.ofNat 64 (Config.freeNat 0 % 8192)
      | 4 => BitVec.ofNat 64 s.chip.eng.vigilCauses
      | _ => s.chip.flt.flags.setWidth 64) = v) :
    issues (.vsense .vigil d m) s fun c => s.chip.computed c .vigil d v := by
  refine issues_computed (w := wordX 0x3C 0x00 d 0 0 m) rfl rfl ?_ hcan ?_
  · simp [wordLegal_vigil, legalV, fieldsX, Eng.has, hd, hm]
  · simp only [if_neg h3, Chip.causeSet_advance_vigil, Chip.filt_advance_vigil, Chip.flt_advance, Chip.causes_advance_vigil]
    subst hv
    rfl

theorem issues_verase :
    issues (.verase .vigil) s fun c =>
      c.vlt = s.chip.eraseSeal.vlt ∧ c.eng.vigilErased = true ∧
      s.chip.stepped c .vigil ((s.chip.ectx .vigil).pc + 4) ∧ c.flt = s.chip.flt := by
  have hwent : s.chip.went ((s.chip.advance .vigil).eraseSeal.modEng fun g => { g with vigilErased := true }) .vigil :=
    Chip.went_congr (Chip.went_advance _ _) rfl
  refine issues_of_ok (w := wordX 0x3C 0x01 0 0 0 0) rfl rfl (by simp [wordLegal_vigil, legalV, fieldsX, Eng.has]) hcan rfl ?_
    ⟨?_, rfl, hwent.2, ?_⟩
  · rw [Chip.modEng_vlt, Chip.eraseSeal, Chip.modVlt_vlt, Chip.vlt_advance]
  · rw [Chip.modEng_vlt, Chip.eraseSeal, Chip.modVlt_vlt, Chip.vlt_advance]
    rfl
  · rw [Chip.modEng_flt, Chip.eraseSeal, Chip.modVlt_flt, Chip.flt_advance]

theorem issues_vflag (ha : a.val < 8) :
    issues (.vflag .vigil a) s fun c =>
      c.flt = { s.chip.flt with flags := s.chip.flt.flags ||| (s.chip.gGet .vigil a).setWidth 32 } ∧
      s.chip.stepped c .vigil ((s.chip.ectx .vigil).pc + 4) ∧ c.vlt = s.chip.vlt := by
  refine issues_of_ok (w := wordX 0x3C 0x02 0 a 0 0) rfl rfl (by simp [wordLegal_vigil, legalV, fieldsX, Eng.has, ha]) hcan rfl ?_
    ⟨?_, (Chip.went_congr (Chip.went_advance s.chip .vigil) rfl).2, ?_⟩
  · rw [Chip.modFlt_vlt, Chip.vlt_advance]
  · rw [Chip.modFlt_flt, Chip.flt_advance, Chip.gGet_advance]
  · rw [Chip.modFlt_vlt, Chip.vlt_advance]

/-- Words 8 to 511 of the note are the program's. -/
theorem issues_vnote (ha : a.val < 8) (hb : b.val < 8) :
    issues (.vnote .vigil a b) s fun c =>
      (∀ w, c.noteWord w = if 8 ≤ (s.chip.gGet .vigil a).toNat ∧ (s.chip.gGet .vigil a).toNat ≤ 511 ∧
        w = (s.chip.gGet .vigil a).toNat then (s.chip.gGet .vigil b).setWidth 32 else s.chip.noteWord w) ∧
      s.chip.stepped c .vigil ((s.chip.ectx .vigil).pc + 4) := by
  have hlegal : wordLegal .vigil (wordX 0x3C 0x03 0 a b 0) = true := by
    simp [wordLegal_vigil, legalV, fieldsX, Eng.has, ha, hb]
  have hkeep : ∀ w, (s.chip.advance .vigil).noteWord w = s.chip.noteWord w := fun w => by
    simp only [Chip.noteWord, Chip.note_advance_vigil]
  by_cases hin : 8 ≤ (s.chip.gGet .vigil a).toNat ∧ (s.chip.gGet .vigil a).toNat ≤ 511
  · have hgo : ¬ ((s.chip.gGet .vigil a).toNat < 8 || 511 < (s.chip.gGet .vigil a).toNat) = true := by
      simp only [Bool.or_eq_true, decide_eq_true_eq]
      omega
    have hword : BitVec.ofNat 32 (low32 (s.chip.gGet .vigil b)) = (s.chip.gGet .vigil b).setWidth 32 := by
      simp [low32, ← BitVec.toNat_inj]
    refine issues_of_ok (d := (s.chip.advance .vigil).setNote (s.chip.gGet .vigil a).toNat (low32 (s.chip.gGet .vigil b))) rfl rfl
      hlegal hcan ?_ ?_ ⟨fun w => ?_, (Chip.went_congr (Chip.went_advance s.chip .vigil) rfl).2⟩
    · simp only [Chip.gGet_advance, if_neg hgo]
    · rw [Chip.setNote, Chip.modEng_vlt, Chip.vlt_advance]
    · rw [Chip.noteWord_setNote, hword, hkeep]
      simp only [hin, true_and]
  · have hgo : ((s.chip.gGet .vigil a).toNat < 8 || 511 < (s.chip.gGet .vigil a).toNat) = true := by
      simp only [Bool.or_eq_true, decide_eq_true_eq]
      omega
    refine issues_of_ok (d := s.chip.advance .vigil) rfl rfl hlegal hcan ?_ ?_ ⟨fun w => ?_, Chip.stepped_advance _ _⟩
    · simp only [Chip.gGet_advance, if_pos hgo]
    · rw [Chip.vlt_advance]
    · rw [hkeep, if_neg fun h => hin ⟨h.1, h.2.1⟩]

end

/-! ### The start of a run (R345, R346) -/

/-- Nothing has changed but the tamper note and the count of open values. -/
def Chip.onlyNote (c d : Chip) : Prop := d = { c with free := d.free, eng := { c.eng with note := d.eng.note } }

section
variable {a c d : Chip}

theorem Chip.onlyNote_trans (h : a.onlyNote c) (g : c.onlyNote d) : a.onlyNote d := by
  rw [Chip.onlyNote] at *
  rw [g, h]

theorem Chip.onlyNote_refl (c : Chip) : c.onlyNote c := rfl

theorem Chip.onlyNote_setNote (h : a.onlyNote c) (i v : Nat) : a.onlyNote (c.setNote i v) := Chip.onlyNote_trans h rfl

theorem Chip.onlyNote_noteRun (h : a.onlyNote c) (causes : Nat) : a.onlyNote (c.noteRun causes) :=
  have hdraw : a.onlyNote c.draw.2 := Chip.onlyNote_trans h rfl
  Chip.onlyNote_setNote (Chip.onlyNote_setNote (Chip.onlyNote_setNote (Chip.onlyNote_setNote (Chip.onlyNote_setNote
    (Chip.onlyNote_setNote (Chip.onlyNote_setNote hdraw _ _) _ _) _ _) _ _) _ _) _ _) _ _

end

/-- The block whose pending causes have become those of a run. -/
def Chip.vigilTaken (c : Chip) : Chip :=
  c.modEng fun e => { e with vigilPend := 0, vigilCauses := c.eng.vigilPend, vigilErased := false }

/-- The same, with the words of the note that the hardware writes. -/
def Chip.vigilNoted (c : Chip) : Chip :=
  (c.vigilTaken.setNote 0 ((c.vigilTaken.noteWord 0).toNat + 1)).noteRun c.eng.vigilPend

theorem Chip.vigilNoted_onlyNote (c : Chip) : c.vigilTaken.onlyNote c.vigilNoted :=
  Chip.onlyNote_noteRun (Chip.onlyNote_setNote (Chip.onlyNote_refl _) _ _) _

section
variable {s : State}

/-- What a run's start does with the causes that it takes. -/
theorem Chip.vigilStart_pending {c : Chip} (hpend : c.eng.vigilPend ≠ 0) (hfree : (c.ectx .vigil).running = false)
    (hmode : c.ctl.mode = .vigil) :
    c.vigilStart = if (c.vigilNoted.target 9).active.isNone || c.vigilNoted.eng.vigilCrcBad then
        ((c.vigilNoted.eraseSeal.modFlt fun f => { f with flags := f.flags ||| BitVec.ofNat 32 c.eng.vigilPend }).modEng fun e =>
          { e with vigilErased := true }).vigilEnd 0
      else c.vigilNoted.setEctx .vigil
        { g := SMap.set (fun _ => 0) (SMap.set (fun _ => 0) [] 1 (BitVec.ofNat 64 c.eng.vigilPend)) 2 (flagWord c.vigilNoted.powered),
          running := true } := by
  have hgo : ¬ (c.eng.vigilPend = 0 || (c.ectxAt 1027).running || c.inMode [.off]) = true := by
    have hfree' : (c.ectxAt 1027).running = false := hfree
    have hoff : c.inMode [.off] = false := by simp [Chip.inMode, hmode]
    simp [hpend, hfree', hoff]
  rw [Chip.vigilStart, if_neg hgo]
  rfl

theorem vigilRunStart_owner {i : Image} (hpend : s.chip.eng.vigilPend ≠ 0) (hfree : (s.chip.ectx .vigil).running = false)
    (hmode : s.chip.ctl.mode = .vigil) (himg : (s.chip.target 9).active = some i) (hcrc : s.chip.eng.vigilCrcBad = false) :
    completes .vigilRunStart s fun c =>
      (c.ectx .vigil).running = true ∧ (c.ectx .vigil).pc = 0 ∧ c.gGet .vigil 1 = BitVec.ofNat 64 s.chip.eng.vigilPend ∧
      c.gGet .vigil 2 = 0 ∧ c.eng.vigilPend = 0 ∧ c.eng.vigilCauses = s.chip.eng.vigilPend ∧ c.vlt = s.chip.vlt := by
  have hnote := Chip.vigilNoted_onlyNote s.chip
  obtain ⟨u, hu⟩ : ∃ u, s.chip.vigilNoted = u := ⟨_, rfl⟩
  rw [hu] at hnote
  have himg' : (u.target 9).active = some i := by rw [hnote, ← himg]; rfl
  have hcrc' : u.eng.vigilCrcBad = false := by rw [hnote, ← hcrc]; rfl
  have hpower : u.powered = false := by
    have hmode' : u.ctl.mode = .vigil := by rw [hnote, ← hmode]; rfl
    simp [Chip.powered, Chip.inMode, hmode']
  have hstart := Chip.vigilStart_pending hpend hfree hmode
  simp only [hu, himg', hcrc', hpower, Option.isNone_some, Bool.or_self, Bool.false_eq_true, if_false] at hstart
  refine completes_eq rfl hstart ⟨?_, ?_, ?_, ?_, ?_, ?_, ?_⟩ ?_
  · rw [Chip.ectx_setEctx]
  · rw [Chip.ectx_setEctx]
  · simp [Chip.gGet, gOf, SMap.get_set]
  · simp [Chip.gGet, gOf, flagWord]
  · rw [Chip.setEctx_eq, hnote]
    rfl
  · rw [Chip.setEctx_eq, hnote]
    rfl
  · rw [Chip.vlt_setEctx, hnote]
    rfl
  · rw [Chip.vlt_setEctx, hnote]
    rfl

/-- A run that ends without main power is kept for its report. -/
theorem Chip.vigilEnd_unpowered {c : Chip} (h : c.powered = false) :
    c.vigilEnd 0 = { c with eng := (c.vigilEnd 0).eng } ∧ (c.vigilEnd 0).eng.vigilPend = c.eng.vigilPend ∧
      ((c.vigilEnd 0).ectx .vigil).running = false := by
  obtain ⟨u, hu⟩ : ∃ u, (c.endRun .vigil).modEng (fun e => { e with vigilErased := false, vigilCauses := 0 }) = u := ⟨_, rfl⟩
  have hpower : u.powered = false := by rw [← h, ← hu]; rfl
  have hctx : u.ectx .vigil = { g := (c.ectx .vigil).g } := by
    rw [← hu]
    exact Chip.ectx_setEctx _ _ _
  have hend : c.vigilEnd 0 = u.modEng fun e =>
      { e with vigilReports := e.vigilReports ++ [(c.eng.vigilCauses, c.eng.vigilErased, 0)] } := by
    simp only [Chip.vigilEnd, ne_eq, not_true_eq_false, decide_false, Chip.when_false, hu, Chip.vigilReport, hpower,
      Bool.false_eq_true, if_false]
  rw [hend]
  refine ⟨?_, ?_, ?_⟩
  · rw [← hu]
    rfl
  · rw [← hu]
    rfl
  · exact congrArg EngCtx.running hctx

theorem vigilRunStart_builtIn (hpend : s.chip.eng.vigilPend ≠ 0) (hfree : (s.chip.ectx .vigil).running = false)
    (hmode : s.chip.ctl.mode = .vigil) (himg : (s.chip.target 9).active = none) :
    completes .vigilRunStart s fun c =>
      c.vlt = s.chip.eraseSeal.vlt ∧
      c.flt.flags = s.chip.flt.flags ||| BitVec.ofNat 32 s.chip.eng.vigilPend ∧ c.eng.vigilPend = 0 ∧
      (c.ectx .vigil).running = false := by
  have hnote := Chip.vigilNoted_onlyNote s.chip
  obtain ⟨u, hu⟩ : ∃ u, s.chip.vigilNoted = u := ⟨_, rfl⟩
  rw [hu] at hnote
  have himg' : (u.target 9).active = none := by rw [hnote, ← himg]; rfl
  have hstart := Chip.vigilStart_pending hpend hfree hmode
  simp only [hu, himg', Option.isNone_none, Bool.true_or, if_true] at hstart
  obtain ⟨v, hv⟩ : ∃ v, ((u.eraseSeal.modFlt fun f => { f with flags := f.flags ||| BitVec.ofNat 32 s.chip.eng.vigilPend }).modEng
    fun e => { e with vigilErased := true }) = v := ⟨_, rfl⟩
  have hpower : v.powered = false := by
    have hmode' : v.ctl.mode = .vigil := by rw [← hv, ← hmode, hnote]; rfl
    simp [Chip.powered, Chip.inMode, hmode']
  obtain ⟨hframe, hpend', hrun⟩ := Chip.vigilEnd_unpowered hpower
  rw [hv] at hstart
  refine completes_eq rfl hstart ⟨?_, ?_, ?_, hrun⟩ ?_
  · rw [hframe, ← hv, hnote]
    rfl
  · rw [hframe, ← hv, hnote]
    rfl
  · rw [hpend', ← hv, hnote]
    rfl
  · rw [hframe, ← hv, hnote]
    rfl

end

/-- Settles O13: each instruction's body on the advanced block, and the two outcomes of `Chip.vigilStart_pending`. -/
theorem vigilProgram : Obligations.VigilProgram := by
  unfold Obligations.VigilProgram
  intro s d a b e pc va vb senses
  refine ⟨fun hcan hd ha hb => ⟨?_, ?_, ?_, ?_, ?_, issues_verase hcan, issues_vflag hcan ha, fun h8 h511 => ?_, fun hout => ?_⟩,
    fun hpend hfree hmode => ⟨fun i himg hcrc => vigilRunStart_owner hpend hfree hmode himg hcrc,
      fun himg => vigilRunStart_builtIn hpend hfree hmode himg⟩⟩
  · exact issues_vsense hcan hd (by decide) (by decide) rfl
  · exact issues_vsense hcan hd (by decide) (by decide) rfl
  · exact issues_vsense hcan hd (by decide) (by decide) rfl
  · exact issues_vsense hcan hd (by decide) (by decide) rfl
  · exact issues_vsense hcan hd (by decide) (by decide) rfl
  · refine issues_mono (issues_vnote hcan ha hb) fun c ⟨hword, hstepped⟩ => ⟨fun w => ?_, hstepped⟩
    have hin : 8 ≤ (s.chip.gGet .vigil a).toNat ∧ (s.chip.gGet .vigil a).toNat ≤ 511 := ⟨h8, h511⟩
    rw [hword]
    simp only [hin, true_and]
    rfl
  · refine issues_mono (issues_vnote hcan ha hb) fun c ⟨hword, hstepped⟩ => ⟨fun w => ?_, hstepped⟩
    rw [hword, if_neg fun h => ?_]
    have hout' : (s.chip.gGet .vigil a).toNat < 8 ∨ 511 < (s.chip.gGet .vigil a).toNat := hout
    omega

end Sys2Proof.Machine

/-! PROOFS. The key orders (R131, R132): what they stage, what they await, and the start of a derivation run. -/
namespace Sys2Proof.Machine

/-! ### An order of its own -/

section
variable {c d : Chip} {code : Nat} {params : Bytes} {f : OrdFn} {r : OrdRes}

theorem Chip.runOrder_free (h : c.orderFree) :
    c.runOrder code params f = match f c with
      | (d, none) => d
      | (d, some r) => d.finishOrder r := by
  obtain ⟨hbusy, hwait, hended, -, hz⟩ := h
  unfold Chip.runOrder
  exact if_neg (by simp [hbusy, hwait, hended, hz])

theorem Chip.runOrder_waits (h : c.orderFree) (hf : f c = (d, none)) : c.runOrder code params f = d := by
  rw [Chip.runOrder_free h, hf]

/-- The order engine holds no order and runs no block. -/
def Chip.ordQuiet (c : Chip) : Prop := c.ord.busy = false ∧ c.ord.wait = .none ∧ c.ord.callReg = none

theorem Chip.orderFree.quiet (h : c.orderFree) : c.ordQuiet := ⟨h.1, h.2.1, h.2.2.2.1⟩

theorem Chip.finishOrder_quiet (h : c.ordQuiet) (r : OrdRes) : c.finishOrder r = c.ended r := by
  obtain ⟨hbusy, hwait, hcall⟩ := h
  simp only [Chip.finishOrder, Chip.modOrd, hcall, hbusy, Bool.false_and, Bool.false_eq_true, if_false, Chip.ended]
  rw [← hwait]

theorem Chip.runOrder_ended (h : c.orderFree) (hf : f c = (d, some r)) (hd : d.ordQuiet) :
    c.runOrder code params f = d.ended r := by
  rw [Chip.runOrder_free h, hf]
  exact Chip.finishOrder_quiet hd r

theorem Chip.ordQuiet_congr (h : c.ordQuiet) (hd : d.ord = c.ord) : d.ordQuiet := by rwa [Chip.ordQuiet, hd]

theorem Chip.ordQuiet_plusStaged (h : c.ordQuiet) (e : Staged) : (c.plusStaged e).ordQuiet := h

@[simp] theorem Chip.ended_vlt (c : Chip) (r : OrdRes) : (c.ended r).vlt = c.vlt := (rfl)
@[simp] theorem Chip.plusStaged_vlt (c : Chip) (e : Staged) : (c.plusStaged e).vlt = c.vlt := (rfl)

end

/-- An order that ends by itself with a result. -/
theorem completes_order {i : Instr} {s : State} {code : Nat} {params : Bytes} {f : OrdFn} {d : Chip} {r : OrdRes}
    (hexec : exec i s = lift (fun c => c.runOrder code params f) s) (hfree : s.chip.orderFree) (hf : f s.chip = (d, some r))
    (hd : d.ordQuiet) (hown : d.vlt.owners = s.chip.vlt.owners) {post : Chip → Prop} (hpost : post (d.ended r)) :
    completes i s post :=
  completes_eq hexec (Chip.runOrder_ended hfree hf hd) hpost hown

/-- An order that waits. -/
theorem completes_waiting {i : Instr} {s : State} {code : Nat} {params : Bytes} {f : OrdFn} {d : Chip}
    (hexec : exec i s = lift (fun c => c.runOrder code params f) s) (hfree : s.chip.orderFree) (hf : f s.chip = (d, none))
    (hown : d.vlt.owners = s.chip.vlt.owners) {post : Chip → Prop} (hpost : post d) : completes i s post :=
  completes_eq hexec (Chip.runOrder_waits hfree hf) hpost hown

/-! ### The tests of a key order -/

theorem inModes_of {c : Chip} {l : List Mode} (h : c.inMode l = true) (f : OrdFn) : inModes l f c = f c := if_pos h

/-- A key order that passes its tests. -/
theorem keyOrder_of {c : Chip} {l : List Mode} {h : Word} {attr : DWord} {a : KeyAttr} (f : KeyAttr → OrdFn)
    (hmode : c.inMode l = true) (hattr : attrOf attr = some a) (hd3 : c.ctl.d3Taint = false) (ht : c.checkTarget h = 0) :
    keyOrder l h attr f c = f a c := by
  simp [keyOrder, untainted, inModes, hmode, hattr, hd3, ht]

theorem Chip.stage_of {c : Chip} {e : Staged} {i : Nat} (hslot : e.slot? = some i) (hroom : c.stagedCount < 64)
    (hnot : c.stagedSlot i = false) : c.stage e = (c.plusStaged e, some {}) := by
  unfold Chip.stage
  rw [if_neg (by omega), if_neg]
  · rfl
  · rw [Chip.stagedSlot] at hnot
    simp [hslot, hnot]

/-- A key record staged for a target with room. -/
theorem Chip.stageKey_of {c : Chip} {h : Word} (record : Slot) (l : List Mode) (hroom : c.stagedCount < 64)
    (hnot : c.stagedSlot (slotOf h) = false) :
    c.stageKey h record l = (c.plusStaged (.key (slotOf h) record (c.heldGen (slotOf h))
      (if record.parent = 0 then none else some record.parent) l), some {}) :=
  Chip.stage_of rfl hroom hnot

theorem Chip.stagedCount_nil {c : Chip} (h : c.ord.staged = []) : c.stagedCount < 64 := by simp [Chip.stagedCount, h]
theorem Chip.stagedSlot_nil {c : Chip} (h : c.ord.staged = []) (i : Nat) : c.stagedSlot i = false := by
  simp [Chip.stagedSlot, h]
theorem Chip.staged_nil {c : Chip} (h : c.ord.staged = []) : c.staged = c := by rw [Chip.staged, h, Chip.each_nil]

/-! ### What the orders stage and await -/

section
variable {s : State} {h : Word} {attr : DWord} {a : KeyAttr} (hfree : s.chip.orderFree) (hattr : attrOf attr = some a)
  (hd3 : s.chip.ctl.d3Taint = false) (ht : s.chip.checkTarget h = 0)
include hfree hattr hd3 ht

theorem keyLoadClear_completes {key : BitVec 256} (hmode : s.chip.inMode loadModes = true) (hroom : s.chip.stagedCount < 64)
    (hnot : s.chip.stagedSlot (slotOf h) = false) (hkey : a.klen = false → key.toNat % 2 ^ 128 = 0) :
    completes (.keyLoadClear h attr key) s fun c =>
      c = (s.chip.plusStaged (.key (slotOf h) (attrRecord a (if a.klen then key else key >>> 128) 1)
        (s.chip.heldGen (slotOf h)) none loadModes)).ended {} := by
  refine completes_order (d := s.chip.plusStaged _) (r := {}) rfl hfree ?_ hfree.quiet rfl rfl
  rw [keyLoadClear, keyOrder_of _ hmode hattr hd3 ht, if_neg, Chip.stageKey_of _ _ hroom hnot]
  · rfl
  · simp only [Bool.and_eq_true, Bool.not_eq_true', decide_eq_true_eq, not_and, not_not]
    exact hkey

theorem keyUnwrap_completes {kek : Word} {blobAt : DWord} {b : Bytes} (hmode : s.chip.inMode stageModes = true)
    (hnone : s.chip.ord.staged = []) (hdma : s.chip.dmaAllowed 0 = true) (huse : s.chip.checkUse kek 1 = 0)
    (hcount : 2 ≤ (s.chip.slot (slotOf kek)).count) (hdepth : (s.chip.slot (slotOf kek)).depth ≤ 7) :
    let k := s.chip.slot (slotOf kek)
    completes (.keyUnwrap h kek attr blobAt (some b)) s fun c =>
      c.slot (slotOf kek) = { k with count := k.count - 1 } ∧ ∀ x, openBlob k b = some x →
        c = ((s.chip.setSlot (slotOf kek) { k with count := k.count - 1 }).plusStaged
          (.key (slotOf h) { blobRecord x a.function 2 with parent := kek, depth := k.depth + 1 } (s.chip.heldGen (slotOf h))
            (if kek = 0 then none else some kek) stageModes)).ended {} := by
  obtain ⟨k, hk⟩ : ∃ k, s.chip.slot (slotOf kek) = k := ⟨_, rfl⟩
  obtain ⟨u, hu⟩ : ∃ u, s.chip.setSlot (slotOf kek) { k with count := k.count - 1 } = u := ⟨_, rfl⟩
  have hused : s.chip.useStaged (slotOf kek) = u := by
    rw [Chip.useStaged, if_neg (by simp [Chip.stagedSlot_nil hnone]), Chip.useKey_of_more hcount, hk, hu]
  have hord : u.ord = s.chip.ord := by rw [← hu]; rfl
  have hown : u.vlt.owners = s.chip.vlt.owners := by rw [← hu]; rfl
  have hslot : u.slot (slotOf kek) = { k with count := k.count - 1 } := by rw [← hu, Chip.slot_setSlot, if_pos rfl]
  have hgen : u.heldGen (slotOf h) = s.chip.heldGen (slotOf h) := by
    simp only [Chip.heldGen, ← hu, Chip.slot_setSlot]
    by_cases heq : slotOf h = slotOf kek
    · rw [if_pos heq, heq, hk]
    · rw [if_neg heq]
  have hrun : keyUnwrap h kek attr blobAt (some b) s.chip = stageWrapped h kek a.function b stageModes s.chip := by
    rw [keyUnwrap, keyOrder_of _ hmode hattr hd3 ht]
    simp only [Chip.staged_nil hnone, huse, ne_eq, not_true_eq_false, if_false, hostRead, hdma, if_true]
  simp only [hk]
  rw [hk] at hdepth
  cases hb : openBlob k b with
  | none =>
    refine completes_order (d := (u.setF F.VLT_STAT_unwrap_fail [] 1).raise Ev.UNWRAP_FAIL 0x0D0) (r := .of 0x47) rfl hfree ?_
      (Chip.ordQuiet_congr hfree.quiet (by simp [hord])) (by simp [hown]) ⟨?_, fun x hx => by simp at hx⟩
    · simp only [hrun, stageWrapped, Chip.staged_nil hnone, hused, hk, Chip.unwrap, hb]
      rfl
    · rw [Chip.slot_congr (Chip.ended_vlt _ _), Chip.slot_congr (d := Chip.raise _ _ _ _) (c := u) (by simp), hslot]
  | some x =>
    refine completes_order (d := u.plusStaged (.key (slotOf h)
      { blobRecord x a.function 2 with parent := kek, depth := k.depth + 1 } (u.heldGen (slotOf h))
      (if kek = 0 then none else some kek) stageModes)) (r := {}) rfl hfree ?_
      (Chip.ordQuiet_plusStaged (Chip.ordQuiet_congr hfree.quiet hord) _) hown ⟨?_, fun y hy => ?_⟩
    · simp only [hrun, stageWrapped, Chip.staged_nil hnone, hused, hk, Chip.unwrap, hb,
        if_neg (show ¬ 8 < k.depth + 1 by omega)]
      rw [Chip.stageKey_of _ _ (Chip.stagedCount_nil (by rw [hord, hnone])) (Chip.stagedSlot_nil (by rw [hord, hnone]) _)]
    · rw [Chip.slot_congr (Chip.ended_vlt _ _), Chip.slot_congr (Chip.plusStaged_vlt _ _), hslot]
    · obtain rfl : x = y := Option.some.inj hy
      rw [hgen, ← hu]

theorem keyFill_completes {b : FillBlob} {x : Blob} (hb : s.chip.heldBlob = some b) (hclear : b.clear = true)
    (hmode : s.chip.ctl.mode = .provision) (hpin : s.chip.pinValid = true) (hx : plainBlob b.data = some x)
    (hroom : s.chip.stagedCount < 64) (hnot : s.chip.stagedSlot (slotOf h) = false) :
    completes (.keyFill h attr) s fun c =>
      c.ord.staged = s.chip.ord.staged ++
        [.key (slotOf h) (blobRecord x a.function 1) (s.chip.heldGen (slotOf h)) none loadModes] ∧
      c.ord.heldFill = true ∧ c.ord.res = {} ∧ c = { s.chip with ord := c.ord } := by
  have hin : ∀ l, s.chip.inMode (.provision :: l) = true := fun l => by simp [Chip.inMode, hmode]
  refine completes_order (d := (s.chip.plusStaged (.key (slotOf h) (blobRecord x a.function 1) (s.chip.heldGen (slotOf h)) none
    loadModes)).modOrd fun o => { o with heldFill := true }) (r := {}) rfl hfree ?_ hfree.quiet rfl ⟨rfl, rfl, rfl, rfl⟩
  rw [keyFill, keyOrder_of (l := loadModes) _ (hin [.active]) hattr hd3 ht]
  simp only [hb, hclear, if_true, hin, hpin, Bool.and_true, Bool.not_true, Bool.false_eq_true, if_false, hx,
    Chip.stageKey_of _ _ hroom hnot]
  rfl

theorem keyGenerate_completes (hmode : s.chip.inMode stageModes = true) (hent : s.chip.entFailed = false) :
    completes (.keyGenerate h attr) s fun c => c = s.chip.awaits 2 (if a.klen then 2 else 1) (.keyGen h attr) := by
  refine completes_waiting (d := s.chip.awaits 2 (if a.klen then 2 else 1) (.keyGen h attr)) rfl hfree ?_ rfl rfl
  rw [keyGenerate, keyOrder_of _ hmode hattr hd3 ht, if_neg (by simp [hent])]
  rfl

end

section
variable {s : State} (hfree : s.chip.orderFree)
include hfree

theorem keyRelease_completes {h force : Word} (hmode : s.chip.inMode stageModes = true) (hforce : force.toNat ≤ 1)
    (hfn : fnOf h < 66) (hnone : s.chip.ord.staged = [])
    (hgen : (s.chip.slot (slotOf h)).state = 1 → genOf h = (s.chip.slot (slotOf h)).generation)
    (hbound : (s.chip.slot (slotOf h)).bound = true → force = 1) :
    completes (.keyRelease h force) s fun c =>
      c = (s.chip.plusStaged (.release (slotOf h) (s.chip.slot (slotOf h)).generation (decide (force = 1)))).ended {} := by
  have hmode' : s.chip.inMode (stageModes ++ [.maintenance]) = true := by
    simp only [Chip.inMode, List.contains_iff_mem, List.mem_append] at hmode ⊢
    exact Or.inl hmode
  have hstale : ¬ (!s.chip.stagedSlot (slotOf h) && decide ((s.chip.slot (slotOf h)).state = 1) &&
      decide (genOf h ≠ (s.chip.slot (slotOf h)).generation)) = true := by
    simp only [Bool.and_eq_true, decide_eq_true_eq]
    exact fun hbad => hbad.2 (hgen hbad.1.2)
  have hheld : ¬ ((s.chip.slot (slotOf h)).bound && decide (force = 0)) = true := by
    simp only [Bool.and_eq_true, decide_eq_true_eq]
    exact fun hbad => absurd (hbound hbad.1) (by rw [hbad.2]; decide)
  refine completes_order (d := s.chip.plusStaged _) (r := {}) rfl hfree ?_ hfree.quiet rfl rfl
  rw [keyRelease, inModes_of hmode']
  simp only [Chip.staged_nil hnone, if_neg (show ¬ (decide (1 < force.toNat) || decide (66 ≤ fnOf h)) = true by simp; omega),
    if_neg hstale, if_neg hheld]
  exact Chip.stage_of rfl (Chip.stagedCount_nil hnone) (Chip.stagedSlot_nil hnone _)

end

/-! ### The start of a derivation run -/

/-- Bytes just written. -/
theorem Chip.memBytes_memWrite_same (c : Chip) (x n : Nat) (b : Bytes) (h : b.length = n) :
    (c.memWrite x b).memBytes x n = b := by
  refine List.ext_getElem (by simp [Chip.memBytes, h]) fun i hi _ => ?_
  have hin : i < n := by simpa [Chip.memBytes] using hi
  simp only [Chip.memBytes, List.getElem_map, List.getElem_range, Chip.memGet_memWrite]
  rw [if_pos (by omega)]
  simp [h, hin]

/-- Bytes below a write. -/
theorem Chip.memBytes_memWrite_below (c : Chip) (x y n : Nat) (b : Bytes) (h : x + n ≤ y) :
    (c.memWrite y b).memBytes x n = c.memBytes x n := by
  refine List.map_congr_left fun i hi => ?_
  rw [Chip.memGet_memWrite, if_neg (by rw [List.mem_range] at hi; omega)]

/-- The handles of a run in their list's order. -/
theorem get_handles (l : List Word) (n k : Nat) (hk : k < n) :
    SMap.get (fun _ => (0 : Word))
      ((List.range n).foldl (fun m k => SMap.set (fun _ => (0 : Word)) m k (l.getD k 0)) []) k = l.getD k 0 := by
  induction n with
  | zero => omega
  | succ n ih =>
    rw [List.range_succ, List.foldl_append, List.foldl_cons, List.foldl_nil, SMap.get_set]
    split_ifs with heq
    · rw [heq]
    · exact ih (by omega)

section
variable (c : Chip) (slot : Nat) (i : Image) (pc n : Nat) (handles : List Word) (context : Bytes)

theorem Chip.deriveStart_vlt : (c.deriveStart slot i pc n handles context).vlt = c.vlt := by
  simp only [Chip.deriveStart, Chip.bump_vlt, Chip.modOrd_vlt, Chip.memWrite_vlt]
  rfl

theorem Chip.deriveStart_wait : (c.deriveStart slot i pc n handles context).ord.wait = .ksq := by
  simp only [Chip.deriveStart, Chip.bump_ord]
  rfl

theorem Chip.ksqCtx_deriveStart :
    (c.deriveStart slot i pc n handles context).ksqCtx 0 =
      { slot := slot, handles := (List.range 8).foldl (fun m k => SMap.set (fun _ => (0 : Word)) m k (handles.getD k 0)) [] } := by
  simp only [Chip.ksqCtx, Chip.deriveStart, Chip.bump_eng, Chip.modOrd_eng, Chip.memWrite_eng]
  exact SMap.get_set_same

theorem Chip.ectxAt_deriveStart :
    (c.deriveStart slot i pc n handles context).ectxAt 1024 =
      { g := SMap.set (fun _ => 0) (SMap.set (fun _ => 0) (c.ectxAt 1024).g 1 0) 2 (BitVec.ofNat 64 n), pc := pc,
        running := true } := by
  simp only [Chip.ectxAt, Chip.deriveStart, Chip.bump_eng, Chip.modOrd_eng, Chip.memWrite_eng]
  exact SMap.get_set_same

theorem Chip.memBytes_congr {c d : Chip} (h : d.mem = c.mem) (x n : Nat) : d.memBytes x n = c.memBytes x n := by
  simp only [Chip.memBytes, Chip.memGet, h]

theorem Chip.memBytes_deriveStart :
    (c.deriveStart slot i pc n handles context).memBytes 0x20000000 256 = slice i.table 0 256 ∧
      (c.deriveStart slot i pc n handles context).memBytes 0x20000100 240 = slice context 0 240 := by
  obtain ⟨y, hy⟩ : ∃ y, (c.setKsq 0 { slot := slot, handles := (List.range 8).foldl (fun m k =>
    SMap.set (fun _ => (0 : Word)) m k (handles.getD k 0)) [] }).setEctxAt 1024 
      { g := SMap.set (fun _ => 0) (SMap.set (fun _ => 0) (c.ectxAt 1024).g 1 0) 2 (BitVec.ofNat 64 n), pc := pc,
        running := true } = y := ⟨_, rfl⟩
  have hmem : (c.deriveStart slot i pc n handles context).mem =
      ((y.memWrite 0x20000000 (slice i.table 0 256)).memWrite 0x20000100 (slice context 0 240)).mem := by
    rw [← hy, Chip.deriveStart, Chip.bump_mem]
    rfl
  rw [Chip.memBytes_congr hmem, Chip.memBytes_congr hmem, Chip.memBytes_memWrite_below _ _ _ _ _ (by decide),
    Chip.memBytes_memWrite_same _ _ _ _ (length_slice _ _ _), Chip.memBytes_memWrite_same _ _ _ _ (length_slice _ _ _)]
  exact ⟨rfl, rfl⟩

end

theorem keyDerive_completes {s : State} (hfree : s.chip.orderFree) {slot entry : Byte} {n : BitVec 16}
    {inputs targets : List Word} {context : Bytes} {i : Image} {pc : Nat} (hmode : s.chip.inMode stageModes = true)
    (hslot : slot.toNat ≤ 3) (hn : n.toNat ≤ 240) (hi : (s.chip.target (4 + slot.toNat)).active = some i)
    (hpc : i.entries[entry.toNat]? = some pc)
    (hfn : ((inputs.take 4 ++ targets.take 4).all fun x => decide (fnOf x < 66)) = true) :
    completes (.keyDerive slot entry n inputs targets context) s fun c =>
      (c.ectxAt 1024).running = true ∧ (c.ectxAt 1024).pc = pc ∧ c.gGet (.ksq 0) 1 = 0 ∧
      c.gGet (.ksq 0) 2 = BitVec.ofNat 64 n.toNat ∧ (c.ksqCtx 0).slot = slot.toNat ∧
      (∀ k, k < 4 → (c.ksqCtx 0).handle k = inputs.getD k 0 ∧ (c.ksqCtx 0).handle (4 + k) = targets.getD k 0) ∧
      c.ord.wait = .ksq ∧ c.memBytes 0x20000000 256 = slice i.table 0 256 ∧
      c.memBytes 0x20000100 240 = slice context 0 240 ∧ c.vlt = s.chip.vlt := by
  let four := fun (l : List Word) => (List.range 4).map fun k => l.getD k 0
  obtain ⟨d, hd⟩ : ∃ d, s.chip.deriveStart slot.toNat i pc n.toNat (four inputs ++ four targets) context = d := ⟨_, rfl⟩
  have hctx : d.ectxAt 1024 = _ := hd ▸ Chip.ectxAt_deriveStart s.chip slot.toNat i pc n.toNat (four inputs ++ four targets) context
  have hksq : d.ksqCtx 0 = _ := hd ▸ Chip.ksqCtx_deriveStart s.chip slot.toNat i pc n.toNat (four inputs ++ four targets) context
  have hvlt : d.vlt = s.chip.vlt := hd ▸ Chip.deriveStart_vlt s.chip slot.toNat i pc n.toNat (four inputs ++ four targets) context
  have hwait : d.ord.wait = .ksq := hd ▸ Chip.deriveStart_wait s.chip slot.toNat i pc n.toNat (four inputs ++ four targets) context
  obtain ⟨hm, hm'⟩ := hd ▸ Chip.memBytes_deriveStart s.chip slot.toNat i pc n.toNat (four inputs ++ four targets) context
  refine completes_waiting (d := d) rfl hfree ?_ (by rw [hvlt]) ⟨?_, ?_, ?_, ?_, ?_, fun k hk => ?_, hwait, hm, hm', hvlt⟩
  · have hany : (inputs.take 4 ++ targets.take 4).any (66 ≤ fnOf ·) = false := by
      rw [List.any_eq_false]
      rw [List.all_eq_true] at hfn
      intro x hx
      have := hfn x hx
      simp only [decide_eq_true_eq] at this ⊢
      omega
    rw [keyDerive, inModes_of hmode, hany,
      if_neg (show ¬ (decide (3 < slot.toNat) || decide (240 < n.toNat) || false) = true by simp; omega), hi]
    simp only [hpc]
    rw [← hd]
  · rw [hctx]
  · rw [hctx]
  · change gOf (d.ectxAt 1024).g 1 = 0
    simp [hctx, gOf, SMap.get_set]
  · change gOf (d.ectxAt 1024).g 2 = _
    simp [hctx, gOf]
  · rw [hksq]
  · have hlen : ∀ l : List Word, (four l).length = 4 := fun l => by simp [four]
    have hget : ∀ l : List Word, (four l).getD k 0 = l.getD k 0 := fun l => by simp [four, hk]
    rw [hksq]
    simp only [KsqCtx.handle]
    rw [get_handles _ 8 k (by omega), get_handles _ 8 (4 + k) (by omega), List.getD_append _ _ _ _ (by rw [hlen]; exact hk),
      List.getD_append_right _ _ _ _ (by rw [hlen]; omega), hlen, Nat.add_sub_cancel_left, hget, hget]
    exact ⟨rfl, rfl⟩

/-- Settles O14. -/
theorem keyOrdersStage : Obligations.KeyOrdersStage := by
  unfold Obligations.KeyOrdersStage
  intro s h attr a hfree
  refine ⟨?_, ?_, ?_, ?_, ?_, ?_⟩
  · rintro key hmode ⟨hattr, hd3, ht⟩ ⟨hroom, hnot⟩ hkey
    exact keyLoadClear_completes hfree hattr hd3 ht hmode hroom hnot hkey
  · rintro kek blobAt b k hmode ⟨hattr, hd3, ht⟩ hnone hdma huse hcount hdepth
    exact keyUnwrap_completes hfree hattr hd3 ht hmode hnone hdma huse hcount hdepth
  · rintro b x hb hclear hmode hpin hx ⟨hattr, hd3, ht⟩ ⟨hroom, hnot⟩
    exact keyFill_completes hfree hattr hd3 ht hb hclear hmode hpin hx hroom hnot
  · rintro hmode ⟨hattr, hd3, ht⟩ hent
    exact keyGenerate_completes hfree hattr hd3 ht hmode hent
  · intro force hmode hforce hfn hnone hgen hbound
    exact keyRelease_completes hfree hmode hforce hfn hnone hgen hbound
  · intro slot entry n inputs targets context i pc hmode hslot hn hi hpc hfn
    exact keyDerive_completes hfree hmode hslot hn hi hpc hfn

end Sys2Proof.Machine

/-! PROOFS. KEY_INFO, ATTEST and the orders of the store (R139, R140, R142 to R144, R371). -/
namespace Sys2Proof.Machine

/-! ### Statements -/

/-- An order that gives data to a buffer. -/
theorem completes_gives {i : Instr} {s : State} {code : Nat} {params : Bytes} {f : OrdFn} {out : Nat} {data : Bytes}
    (hexec : exec i s = lift (fun c => c.runOrder code params f) s) (hfree : s.chip.orderFree)
    (hdma : s.chip.dmaAllowed 0 = true) (hf : f s.chip = (s.chip.hostOut out data, some {})) :
    completes i s fun c => c = (s.chip.gave out data).ended {} := by
  have hout : s.chip.hostOut out data = s.chip.gave out data := Chip.dma_allowed hdma
  rw [hout] at hf
  exact completes_order hexec hfree hf hfree.quiet rfl rfl

/-- What an order with a key check value does with its statement. -/
def kcvWrites (i : Instr) (s : State) (h : Word) (out : DWord) (data : Bytes) : Prop :=
  let k := s.chip.slot (slotOf h)
  let shut := s.chip.ctl.tkDis && k.type = 0
  (k.state ≠ 1 ∨ (s.chip.pan.stopped = true ∧ shut = false) → completes i s fun c => c = (s.chip.gave out.toNat data).ended {}) ∧
  (k.state = 1 → shut = true → completes i s fun c => c = s.chip.ended (.of 0x42)) ∧
  (k.state = 1 → s.chip.pan.stopped = false → shut = false → completes i s fun c =>
    c.ord.wait = .cmac ∧ c.ord.cmacOut = some (out, data) ∧ c.out = s.chip.out ∧ c.vlt = s.chip.vlt ∧
    ∃ n r, c.panReq n = some r ∧ r.kind = .cmac ∧ r.subject = 0)

section
variable {s : State} {h : Word} {out : DWord}

theorem kcvWrites_of {i : Instr} {code : Nat} {params data : Bytes} {f : OrdFn}
    (hexec : exec i s = lift (fun c => c.runOrder code params f) s) (hfree : s.chip.orderFree)
    (hdma : s.chip.dmaAllowed 0 = true) (hf : f s.chip = s.chip.kcvOut h out data) : kcvWrites i s h out data := by
  refine ⟨fun hplain => ?_, fun hvalid hshut => ?_, fun hvalid hrun hshut => ?_⟩
  · refine completes_gives hexec hfree hdma ?_
    rw [hf]
    simp only [Chip.kcvOut]
    rw [if_neg, if_neg]
    · rcases hplain with hstate | ⟨hstop, -⟩
      · simp only [decide_eq_false hstate, Bool.false_and, Bool.false_eq_true, not_false_eq_true]
      · simp [hstop]
    · rcases hplain with hstate | ⟨-, hshut⟩
      · simp only [decide_eq_false hstate, Bool.false_and, Bool.false_eq_true, not_false_eq_true]
      · rw [Bool.and_assoc, hshut, Bool.and_false]
        exact Bool.false_ne_true
  · refine completes_order hexec hfree (d := s.chip) (r := .of 0x42) ?_ hfree.quiet rfl rfl
    rw [hf]
    simp only [Chip.kcvOut]
    rw [if_pos (by rw [Bool.and_assoc, hshut]; simp [hvalid])]
  · obtain ⟨y, hy⟩ : ∃ y, (s.chip.setKsq 0 { s.chip.ksqCtx 0 with cmacFail := false }).modOrd
      (fun o => { o with wait := .cmac, cmacOut := some (out, data) }) = y := ⟨_, rfl⟩
    obtain ⟨hframe, -, n, hn, hkind, hsubject⟩ := Chip.panAdmit_spec (c := y) (kind := .cmac) (slot := slotOf h)
      (gen := (s.chip.slot (slotOf h)).generation) (subject := 0) (seq := 0) (blocks := 2) rfl
    have hord : y.ord = { s.chip.ord with wait := .cmac, cmacOut := some (out, data) } := by rw [← hy]; rfl
    have hvlt : y.vlt = s.chip.vlt := by rw [← hy]; rfl
    have hout : y.out = s.chip.out := by rw [← hy]; rfl
    refine completes_waiting hexec hfree (d := y.panAdmit .cmac (slotOf h) (s.chip.slot (slotOf h)).generation 0 0 2) ?_
      (by rw [hframe, hvlt]) ⟨by rw [hframe, hord], by rw [hframe, hord], by rw [hframe, hout], by rw [hframe, hvlt],
        _, n, hn, hkind, hsubject⟩
    rw [hf]
    simp only [Chip.kcvOut]
    rw [if_neg (by rw [Bool.and_assoc, hshut, Bool.and_false]; exact Bool.false_ne_true), if_pos (by simp [hvalid, hrun])]
    rw [hy]

theorem keyInfo_writes (hfree : s.chip.orderFree) (hmode : s.chip.inMode infoModes = true) (hdma : s.chip.dmaAllowed 0 = true)
    (hfn : fnOf h < 66) (hgen : genOf h = (s.chip.slot (slotOf h)).generation) :
    kcvWrites (.keyInfo h out) s h out (s.chip.keyStatement h) := by
  refine kcvWrites_of rfl hfree hdma ?_
  rw [keyInfo, inModes_of hmode, if_neg (Nat.not_le.2 hfn), if_neg (not_not.2 hgen)]

section
variable {challenge : Bytes} {outLen : Word} (hfree : s.chip.orderFree)
  (hmode : s.chip.inMode (infoModes ++ [.erased]) = true) (hdma : s.chip.dmaAllowed 0 = true) (hlen : 1120 ≤ outLen.toNat)
include hfree hmode hdma hlen

theorem attest_completes (hh : h = 0) :
    completes (.attest h challenge out outLen) s fun c => c = (s.chip.gave out.toNat (s.chip.statement h challenge)).ended {} := by
  refine completes_gives rfl hfree hdma ?_
  rw [attest, inModes_of hmode]
  simp [hh, Nat.not_lt.2 hlen]

theorem attest_writes (hh : h ≠ 0) (hkey : s.chip.checkKey h = 0) :
    kcvWrites (.attest h challenge out outLen) s h out (s.chip.statement h challenge) := by
  refine kcvWrites_of rfl hfree hdma ?_
  rw [attest, inModes_of hmode]
  simp only [hh, Nat.not_lt.2 hlen, hkey, ne_eq, not_false_eq_true, not_true_eq_false, if_false, if_true]

end

/-! ### The store -/

theorem exportStore_completes {outLen : Word} (hfree : s.chip.orderFree) (hmode : s.chip.inMode storeModes = true)
    (hv : s.chip.vlt.storeV ≠ 0xFFFFFFFF) (hlen : s.chip.storeLen ≤ outLen.toNat) (hent : s.chip.entFailed = false) :
    completes (.exportStore out outLen) s fun c => c = s.chip.awaits 1 1 (.exportStore out.toNat outLen.toNat) := by
  refine completes_waiting (d := s.chip.awaits 1 1 (.exportStore out.toNat outLen.toNat)) rfl hfree ?_ rfl rfl
  rw [exportStore, inModes_of hmode, if_neg hv, if_neg (Nat.not_lt.2 hlen), if_neg (by simp [hent])]
  rfl

theorem sealRotate_completes (hfree : s.chip.orderFree) (hmode : s.chip.inMode [.provision, .maintenance] = true)
    (hent : s.chip.entFailed = false) : completes .sealRotate s fun c => c = s.chip.awaits 2 2 .sealRotate := by
  refine completes_waiting (d := s.chip.awaits 2 2 .sealRotate) rfl hfree ?_ rfl rfl
  rw [sealRotate, inModes_of hmode, if_neg (by simp [hent])]
  rfl

theorem confirmStore_completes (hfree : s.chip.orderFree) (hmode : s.chip.inMode storeModes = true)
    (hpend : s.chip.vlt.storePending = true) (hv : s.chip.vlt.storeV + 1 < 0xFFFFFFFF) (hlogs : s.chip.logs) :
    completes .confirmStore s fun c =>
      c.vlt = { s.chip.vlt with
        storeV := s.chip.vlt.storeV + 1, digestConf := s.chip.vlt.digestPend, storePending := false,
        sealSel := s.chip.vlt.sealSel != s.chip.vlt.rotStaged, rotStaged := false } ∧
      s.chip.logged c ((if s.chip.vlt.rotStaged then [⟨Ev.SEAL_ROTATED, 0x0D0, [], false⟩] else []) ++
        [⟨Ev.STORE_CONFIRMED, 0x0D0, [], false⟩]) ∧ c.ord.res = {} := by
  obtain ⟨y, hy⟩ : ∃ y, s.chip.modVlt (fun v => { v with
    storeV := s.chip.vlt.storeV + 1, digestConf := v.digestPend, storePending := false,
    sealSel := v.sealSel != s.chip.vlt.rotStaged, rotStaged := false }) = y := ⟨_, rfl⟩
  obtain ⟨z, hz⟩ : ∃ z, y.when s.chip.vlt.rotStaged (fun c => c.raise Ev.SEAL_ROTATED 0x0D0) = z := ⟨_, rfl⟩
  have hconfirm : s.chip.confirm = z.raise Ev.STORE_CONFIRMED 0x0D0 := by
    rw [Chip.confirm]
    simp only [hy, hz]
    exact if_neg (by rw [decide_eq_true_eq]; omega)
  have hylogs : y.logs := by rw [← hy]; exact hlogs
  have hevr : z.evr.started = true ∧ z.evr.intake = s.chip.evr.intake ++
      (if s.chip.vlt.rotStaged then [⟨Ev.SEAL_ROTATED, 0x0D0, [], false⟩] else []) := by
    rw [← hz]
    cases s.chip.vlt.rotStaged
    · exact ⟨hylogs.1, by rw [← hy]; simp [Chip.when]⟩
    · simp only [Chip.when, if_true, Chip.raise_logs hylogs (show limitable Ev.SEAL_ROTATED = false by decide)]
      exact ⟨hylogs.1, by rw [← hy]; rfl⟩
  have hroom : z.evr.intake.length < 256 := by
    have := hlogs.2
    rw [hevr.2]
    split_ifs <;> simp only [List.length_append, List.length_cons, List.length_nil] <;> omega
  have hvlt : z.vlt = y.vlt := by
    rw [← hz]
    exact Chip.when_keeps (g := Chip.vlt) (fun x => Chip.raise_vlt x _ _ _) y _
  have hord : z.ord = y.ord := by
    rw [← hz]
    exact Chip.when_keeps (g := Chip.ord) (fun x => Chip.raise_ord x _ _ _) y _
  have hyord : y.ord = s.chip.ord := by rw [← hy]; rfl
  refine completes_order (d := z.raise Ev.STORE_CONFIRMED 0x0D0) (r := {}) rfl hfree ?_
    (Chip.ordQuiet_congr hfree.quiet (by rw [Chip.raise_ord, hord, hyord])) ?_ ⟨?_, ?_, rfl⟩
  · rw [confirmStore, inModes_of hmode, if_pos hpend, hconfirm]
  · rw [Chip.raise_vlt, hvlt, ← hy]
    rfl
  · rw [Chip.ended_vlt, Chip.raise_vlt, hvlt, ← hy]
    rfl
  · rw [Chip.logged, Chip.raise_intake hevr.1 (by decide) hroom]
    change z.evr.intake ++ _ = _
    rw [hevr.2, List.append_assoc]

end

/-! ### The slots of a store -/

section
variable (c : Chip)

theorem Chip.startWalk_slots : c.startWalk.vlt.slots = c.vlt.slots := by
  unfold Chip.startWalk
  split_ifs <;> rfl

theorem Chip.startWalk_storeV : c.startWalk.vlt.storeV = c.vlt.storeV := by
  unfold Chip.startWalk
  split_ifs <;> rfl

theorem Chip.startWalk_owners : c.startWalk.vlt.owners = c.vlt.owners := by
  unfold Chip.startWalk
  split_ifs <;> rfl

theorem Chip.startWalk_ord : c.startWalk.ord = c.ord := by
  unfold Chip.startWalk
  split_ifs <;> rfl

theorem Chip.slot_of_slots {c d : Chip} (h : d.vlt.slots = c.vlt.slots) (k : Nat) : d.slot k = c.slot k := by
  simp only [Chip.slot, h]

/-- An entry of a store takes the slot that it names. -/
theorem Chip.restoreSlot_spec (e : Bytes) :
    (∀ k, (c.restoreSlot e).slot k = if k = beNat (slice e 0 4) % 2 ^ 17 then slotOfBytes (e.drop 4) else c.slot k) ∧
      (c.restoreSlot e).vlt.storeV = c.vlt.storeV ∧ (c.restoreSlot e).vlt.owners = c.vlt.owners ∧
      (c.restoreSlot e).ord = c.ord := by
  simp only [Chip.restoreSlot]
  refine ⟨fun k => ?_, ?_, ?_, ?_⟩
  · rw [Chip.slot_of_slots (Chip.when_keeps (g := fun x => x.vlt.slots) Chip.startWalk_slots _ _), ← Chip.slot_setSlot]
    rfl
  · rw [Chip.when_keeps (g := fun x => x.vlt.storeV) Chip.startWalk_storeV]
    rfl
  · rw [Chip.when_keeps (g := fun x => x.vlt.owners) Chip.startWalk_owners]
    rfl
  · rw [Chip.when_keeps (g := Chip.ord) Chip.startWalk_ord]
    rfl

end

theorem loadStore_completes {s : State} {blobAt : DWord} {b : Bytes} (hfree : s.chip.orderFree)
    (hmode : s.chip.ctl.mode = .provision) (hd3 : s.chip.ctl.d3Taint = false) (hdma : s.chip.dmaAllowed 0 = true)
    (hlen : b.length = 112) (hhead : slice b 0 6 = beBytes 4 0x594C5354 ++ beBytes 2 1)
    (hv : beNat (slice b 8 4) = s.chip.vlt.storeV) (hn : beNat (slice b 12 4) = 1) (hdigest : digest64 b = s.chip.vlt.digestConf)
    (hpend : s.chip.vlt.storePending = false)
    (htag : slice b 96 16 = beBytes 16 (Config.gcmTag true (s.chip.storeKey (s.chip.activeSeal.getD 0) s.chip.vlt.storeV)
      (BitVec.ofNat 96 (beNat (slice b 16 12))) (slice b 0 16) (slice b 28 68)).toNat) :
    let key := s.chip.storeKey (s.chip.activeSeal.getD 0) s.chip.vlt.storeV
    let iv : BitVec 96 := BitVec.ofNat 96 (beNat (slice b 16 12))
    completes (.loadStore blobAt 112 (some b)) s fun c =>
      let e := slice (gcmXor true key iv (slice b 28 68)) 0 68
      let i := beNat (slice e 0 4) % 2 ^ 17
      (∀ k, c.slot k = if k = i then slotOfBytes (e.drop 4) else s.chip.slot k) ∧ c.vlt.storeV = s.chip.vlt.storeV ∧
        c.ord.res = {} := by
  intro key iv
  obtain ⟨e, he⟩ : ∃ e, slice (gcmXor true key iv (slice b 28 68)) 0 68 = e := ⟨_, rfl⟩
  simp only [he]
  obtain ⟨hslots, hstore, hown, hord⟩ := Chip.restoreSlot_spec s.chip e
  have hin : s.chip.inMode [.provision] = true := by simp [Chip.inMode, hmode]
  have hall : slice b 0 112 = b := by rw [← hlen]; exact slice_all rfl
  refine completes_order (d := (s.chip.restoreSlot e).raise Ev.STORE_LOADED 0x0D0) (r := {}) rfl hfree ?_
    (Chip.ordQuiet_congr hfree.quiet (by rw [Chip.raise_ord, hord])) (by rw [Chip.raise_vlt, hown])
    ⟨fun k => ?_, by rw [Chip.ended_vlt, Chip.raise_vlt, hstore], rfl⟩
  · rw [loadStore, untainted, if_neg (by simp [hd3]), inModes_of hin]
    simp only [hostRead, hdma, if_true]
    change s.chip.loadBlob (slice b 0 112) = _
    rw [hall, Chip.loadBlob]
    simp only [hhead, hv, hn, hdigest, hpend, decide_true, Bool.and_false, Bool.false_and, Bool.true_and, Bool.not_true,
      Bool.false_or, Bool.or_false, Bool.false_eq_true, if_false, Nat.mul_one, hlen, htag]
    rw [if_neg (by simp)]
    change (((s.chip.restoreSlot (slice (gcmXor true key iv (slice b 28 68)) 0 68)).when false Chip.confirm).raise
      Ev.STORE_LOADED 208, some ({} : OrdRes)) = _
    rw [he, Chip.when_false]
  · rw [Chip.slot_congr (Chip.ended_vlt _ _), Chip.slot_congr (Chip.raise_vlt _ _ _ _), hslots]

/-- Settles O15. -/
theorem storeAndStatementOrders : Obligations.StoreAndStatementOrders := by
  unfold Obligations.StoreAndStatementOrders
  intro s h out outLen challenge hfree
  refine ⟨?_, fun hmode hdma hlen => ⟨?_, ?_⟩, ?_, ?_, ?_, ?_⟩
  · exact fun hmode hdma hfn hgen => keyInfo_writes hfree hmode hdma hfn hgen
  · exact fun hh => attest_completes hfree hmode hdma hlen hh
  · exact fun hh hkey => attest_writes hfree hmode hdma hlen hh hkey
  · exact fun hmode hv hlen hent => exportStore_completes hfree hmode hv hlen hent
  · exact fun hmode hpend hv hlogs => confirmStore_completes hfree hmode hpend hv hlogs
  · intro blobAt b hmode hd3 hdma hlen hhead hv hn hdigest hpend key iv
    by_cases htag : slice b 96 16 = beBytes 16 (Config.gcmTag true key iv (slice b 0 16) (slice b 28 68)).toNat
    · exact completes_mono (loadStore_completes hfree hmode hd3 hdma hlen hhead hv hn hdigest hpend htag) fun _ h _ => h
    · obtain ⟨c, hc⟩ := exec_completes (.loadStore blobAt 112 (some b)) s
      exact ⟨c, hc, fun h => absurd h htag⟩
  · exact fun hmode hent => sealRotate_completes hfree hmode hent

end Sys2Proof.Machine

/-! PROOFS. What the loss of frames, requests, threads and lanes leaves of the block. -/
namespace Sys2Proof.Machine

/-! ### Registers that frames, threads and lanes do not write -/

/-- A register of the blocks SYS, MOD, FLT, TMP, CRF, TIM, VLT and PRS. -/
abbrev quietKey (k : Nat) : Prop :=
  k < 0x20000 * 32 ∨ (0x40000 * 32 ≤ k ∧ k < 0x80000 * 32) ∨ (0x90000 * 32 ≤ k ∧ k < 0xA0000 * 32) ∨
    (0x600000 * 32 ≤ k ∧ k < 0x700000 * 32)

/-- The quiet registers are as they were. -/
def Chip.quietRegs (c d : Chip) : Prop := ∀ k, quietKey k → SMap.get regReset d.regs k = SMap.get regReset c.regs k

theorem Chip.quietRegs_refl (c : Chip) : c.quietRegs c := fun _ _ => rfl

theorem Chip.quietRegs.trans {a c d : Chip} (h : a.quietRegs c) (g : c.quietRegs d) : a.quietRegs d :=
  fun k hk => (g k hk).trans (h k hk)

theorem Chip.quietRegs_of_eq {c d : Chip} (h : d.regs = c.regs) : c.quietRegs d := fun _ _ => by rw [h]

theorem Chip.quietRegs_setF (c : Chip) {f : Fld} {i : List Nat} (v : Nat) (hf : ¬ quietKey (f.key i)) :
    c.quietRegs (c.setF f i v) := by
  intro k hk
  rw [Chip.setF_regs, SMap.get_set_other]
  rintro rfl
  exact hf hk

theorem Chip.quietRegs.getF {c d : Chip} (h : c.quietRegs d) {f : Fld} {i : List Nat} (hf : quietKey (f.key i)) :
    d.getF f i = c.getF f i := by
  rw [Chip.getF, Chip.getF, h _ hf]

/-- A suppressed event counts in the recorder's registers. -/
theorem Chip.quietRegs_raise (c : Chip) {code : Nat} (hcode : code < 0x3000) (src : Nat) (items : List (Nat × Nat)) :
    c.quietRegs (c.raise code src items) := by
  simp only [Chip.raise]
  split_ifs
  · refine ((Chip.quietRegs_of_eq rfl).trans (Chip.quietRegs_setF _ _ ?_)).trans
      ((Chip.quietRegs_setF _ _ ?_).trans (Chip.quietRegs_setF _ _ ?_)) <;>
    simp only [quietKey, Fld.key, F.EVR_CODE_CFG_supp_total, F.EVR_SUPP_CNT_count, F.EVR_STAT_supp, dotStrides] <;> omega
  all_goals exact Chip.quietRegs_of_eq rfl

/-- Writes for the host touch no register. -/
theorem Chip.ringAdvance_regs (c : Chip) (r n : Nat) : (c.ringAdvance r n).regs = c.regs := by
  cases ho : c.ringOwner r with
  | none => simp only [Chip.ringAdvance, ho]
  | some fn => rw [(Chip.ringAdvance_gives ho n).1, Chip.setRing_regs]

theorem Chip.ringAdvance_evr (c : Chip) (r n : Nat) : (c.ringAdvance r n).evr = c.evr := by
  cases ho : c.ringOwner r with
  | none => simp only [Chip.ringAdvance, ho]
  | some fn => rw [(Chip.ringAdvance_gives ho n).1, Chip.setRing_evr]

theorem Chip.ringComplete_evr (c : Chip) (r : Nat) (entry : Bytes) : (c.ringComplete r entry).evr = c.evr := by
  simp only [Chip.ringComplete, Chip.ringPush]
  split_ifs
  · split
    · rfl
    · rw [Chip.ringAdvance_evr, Chip.dma_evr, Chip.setRing_evr]
  · rfl

theorem Chip.ringComplete_regs (c : Chip) (r : Nat) (entry : Bytes) : (c.ringComplete r entry).regs = c.regs := by
  simp only [Chip.ringComplete, Chip.ringPush]
  split_ifs
  · split
    · rfl
    · rw [Chip.ringAdvance_regs, Chip.dma_regs, Chip.setRing_regs]
  · rfl

/-! ### What the loss of frames leaves -/


theorem ite_cases {p : Prop} [Decidable p] {α : Type} {P : α → Prop} {x y : α} (hx : P x) (hy : P y) : P (if p then x else y) := by
  split_ifs
  · exact hx
  · exact hy

/-- A register of the blocks EVR, SLU, MEM and PRT, where lost frames are counted. -/
abbrev lossKey (k : Nat) : Prop :=
  (0x30000 * 32 ≤ k ∧ k < 0x40000 * 32) ∨ (0x300000 * 32 ≤ k ∧ k < 0x400000 * 32) ∨ (0x500000 * 32 ≤ k ∧ k < 0x600000 * 32) ∨
    0x900000 * 32 ≤ k

/-- Nothing has changed but frames, queues and ring positions, what is reported, and the registers that count lost frames;
nothing is taken out of the recorder's intake. -/
structure Chip.loses (c d : Chip) : Prop where
  frame : d = { c with
    regs := d.regs, hif := d.hif, cnt := d.cnt, evr := d.evr, out := d.out, free := d.free, path := d.path, slu := d.slu }
  regs : ∀ k, ¬ lossKey k → SMap.get regReset d.regs k = SMap.get regReset c.regs k
  log : ∃ more, d.evr.intake = c.evr.intake ++ more

namespace Chip.loses

variable {a c d : Chip}

theorem of_regs (h : d = { c with hif := d.hif, cnt := d.cnt, out := d.out, free := d.free, path := d.path, slu := d.slu }) :
    c.loses d := by
  have hr : d.regs = c.regs := by rw [h]
  have he : d.evr = c.evr := by rw [h]
  exact ⟨by rw [h], fun _ _ => by rw [hr], [], by rw [he, List.append_nil]⟩

theorem refl (c : Chip) : c.loses c := of_regs rfl

theorem trans (h : a.loses c) (g : c.loses d) : a.loses d := by
  obtain ⟨h, hr, l, hl⟩ := h
  obtain ⟨g, gr, m, gm⟩ := g
  exact ⟨by rw [g, h], fun k hk => (gr k hk).trans (hr k hk), l ++ m, by rw [gm, hl, List.append_assoc]⟩

theorem getF (h : c.loses d) {f : Fld} {i : List Nat} (hf : ¬ lossKey (f.key i)) : d.getF f i = c.getF f i := by
  rw [Chip.getF, Chip.getF, h.regs _ hf]

section
variable (h : a.loses c)
include h

theorem setF {f : Fld} {i : List Nat} (v : Nat) (hf : lossKey (f.key i)) : a.loses (c.setF f i v) := by
  refine h.trans ⟨rfl, fun k hk => ?_, [], (List.append_nil _).symm⟩
  rw [Chip.setF_regs, SMap.get_set_other]
  rintro rfl
  exact hk hf

theorem raise {code : Nat} (hcode : code < 0x3000) (src : Nat) (items : List (Nat × Nat)) : a.loses (c.raise code src items) := by
  refine h.trans ?_
  have hsame : ∃ more, c.evr.intake = c.evr.intake ++ more := ⟨[], (List.append_nil _).symm⟩
  have hsupp : c.loses (c.suppress code) := by
    have hstart : ∀ m, c.loses { c with evr := { c.evr with supp := m } } := fun _ => ⟨rfl, fun _ _ => rfl, hsame⟩
    obtain ⟨y, hy⟩ : ∃ y, SMap.set (fun _ => 0) c.evr.supp code (min 0xFFFF (SMap.get (fun _ => 0) c.evr.supp code + 1)) = y :=
      ⟨_, rfl⟩
    simp only [Chip.suppress, hy]
    refine ((((hstart y).trans (setF (.refl _) _ ?_)).trans (setF (.refl _) _ ?_)).trans (setF (.refl _) _ ?_)) <;>
    simp only [lossKey, Fld.key, F.EVR_CODE_CFG_supp_total, F.EVR_SUPP_CNT_count, F.EVR_STAT_supp, dotStrides] <;> omega
  simp only [Chip.raise]
  exact ite_cases (ite_cases hsupp ⟨rfl, fun _ _ => rfl, _, rfl⟩) (ite_cases ⟨rfl, fun _ _ => rfl, hsame⟩ ⟨rfl, fun _ _ => rfl, hsame⟩)

theorem modPath (f : Paths → Paths) : a.loses (c.modPath f) := h.trans (of_regs rfl)
theorem modSlu (f : Sluice → Sluice) : a.loses (c.modSlu f) := h.trans (of_regs rfl)
theorem setRing (r : Nat) (v : Ring) : a.loses (c.setRing r v) := h.trans (of_regs rfl)
theorem setFrame (n : Nat) (f : Option Frame) : a.loses (c.setFrame n f) := h.trans (of_regs rfl)
theorem setQueueSt (q : Nat) (v : QueueSt) : a.loses (c.setQueueSt q v) := h.trans (of_regs rfl)
theorem draw : a.loses c.draw.2 := h.trans (of_regs rfl)

theorem of_reports (hr : c.reports d) (hg : d.regs = c.regs) (he : d.evr = c.evr) : a.loses d :=
  h.trans (of_regs (by
    have hp : d.path = c.path := by rw [hr]
    have hs : d.slu = c.slu := by rw [hr]
    rw [Chip.reports, hg, he] at hr
    rw [hp, hs]
    exact hr))

theorem portCount (s k n : Nat) : a.loses (c.portCount s k n) := by
  refine h.of_reports ((Chip.reports.refl c).portCount s k n) ?_ ?_ <;> rw [Chip.portCount, Chip.count_eq]

theorem ringComplete (r : Nat) (entry : Bytes) : a.loses (c.ringComplete r entry) :=
  h.of_reports ((Chip.reports.refl c).ringComplete r entry) (Chip.ringComplete_regs c r entry) (Chip.ringComplete_evr c r entry)

theorem when {f : Chip → Chip} (hf : ∀ c, a.loses c → a.loses (f c)) (b : Bool) : a.loses (c.when b f) :=
  Chip.when_induct b h (hf c)

theorem each {α : Type} {f : Chip → α → Chip} (l : List α) (hf : ∀ c x, a.loses c → a.loses (f c x)) :
    a.loses (c.each l f) := Chip.each_induct l h fun d x hd => hf d x hd

theorem onFrame {f : Frame → Chip → Chip} (n : Nat) (hf : ∀ x d, a.loses d → a.loses (f x d)) :
    a.loses (c.onFrame n f) := by
  simp only [Chip.onFrame]
  split
  · exact hf _ _ h
  · exact h

/-! ### Frames -/

theorem hostDone (p : Option Nat × DWord × Nat × Nat) (st : Nat) (ts : Option Clock) : a.loses (c.hostDone p st ts) := by
  simp only [Chip.hostDone]
  split
  · exact h.ringComplete _ _
  · exact h

theorem unqueue (n : Nat) : a.loses (c.unqueue n) := by
  refine h.onFrame n fun f d hd => ?_
  split
  · exact hd
  · exact (hd.setQueueSt _ _).setFrame _ _

theorem removeFrame (n : Nat) : a.loses (c.removeFrame n) := by
  simp only [Chip.removeFrame]
  exact (h.unqueue n).onFrame n fun _ _ hd => hd.setFrame _ _

theorem dropOne (n reason : Nat) : a.loses (c.dropOne n reason) := by
  refine h.onFrame n fun f d hd => ?_
  obtain ⟨g, hg⟩ : ∃ g, (d.setFrame n (some { f with lost := some reason, kid := none, lines := [], die := [] })).removeFrame n = g :=
    ⟨_, rfl⟩
  have hgone : a.loses g := hg ▸ (hd.setFrame n _).removeFrame n
  refine ite_cases hd ?_
  simp only [hg]
  split
  · exact ite_cases hgone (hgone.portCount _ _ _)
  · split
    · exact hgone.hostDone _ _ _
    · exact hgone.draw.hostDone _ _ _

end

theorem dropOversize (h : a.loses c) (q n : Nat) : a.loses (c.dropOversize q n) := by
  induction n generalizing c with
  | zero => exact h
  | succ n ih =>
    simp only [Chip.dropOversize]
    split
    · split_ifs
      · exact ih (((h.dropOne _ _).setF 1 (by
          simp only [lossKey, Fld.key, F.SLU_STAT_gcl_oversize, dotStrides]; omega)).raise (by decide) _ _)
      · exact h
    · exact h

section
variable (h : a.loses c)
include h

theorem dropFrame (n reason : Nat) : a.loses (c.dropFrame n reason) := by
  simp only [Chip.dropFrame]
  split
  · exact (h.dropOne _ _).dropOversize _ _
  · exact h.dropOne _ _

theorem dropAll (reason : Nat) (which : Frame → Bool) : a.loses (c.dropAll reason which) :=
  h.each _ fun _ _ hd => hd.dropFrame _ _

theorem poisonDrop (n : Nat) : a.loses (c.poisonDrop n) :=
  (h.setF 1 (by simp only [lossKey, Fld.key, F.MEM_STAT_tag_fail, dotStrides]; omega)).dropFrame _ _

theorem unpick (p : Picked) : a.loses (c.unpick p) := by
  simp only [Chip.unpick, Chip.chargeQueue]
  refine Chip.loses.onFrame ?_ _ fun _ _ hd => hd.setFrame _ _
  exact ((((((h.when (fun _ hd => hd.modSlu _) _).modSlu _).setQueueSt _ _).modSlu _).modSlu _).modSlu _)

theorem recallSlots (k : Nat) (l : List TxSlot) : a.loses (c.recallSlots k l) := by
  simp only [Chip.recallSlots]
  exact (((h.each _ fun _ _ hd => hd.unpick _).each _ fun _ _ hd => hd.onFrame _ fun _ _ hd => hd.setFrame _ _).each _
    fun _ _ hd => hd.poisonDrop _).modPath _

theorem rxSync (p b v : Nat) : a.loses (c.setF F.PRT_FRM_STAT_rx_sync [p, b] v) :=
  h.setF v (by simp only [lossKey, Fld.key, F.PRT_FRM_STAT_rx_sync, dotStrides]; omega)

theorem ingotDown (p b : Nat) : a.loses (c.ingotDown p b) :=
  (((((h.each _ fun _ _ hd => hd.portCount _ _ _).recallSlots _ _).each _ fun _ _ hd => hd.dropFrame _ _).modPath _)).rxSync _ _ _

theorem portDown (p b cause : Nat) : a.loses (c.portDown p b cause) := by
  simp only [Chip.portDown, Chip.portEvent]
  refine ite_cases ?_ h
  have hline : ∀ y, a.loses y → a.loses (if isLine p then y.ingotDown p b else y) :=
    fun y hy => ite_cases (hy.ingotDown p b) hy
  refine hline _ (Chip.loses.each ?_ _ fun _ _ hd => hd.dropFrame _ _)
  have hsaid : ∀ v w, a.loses (((c.setF F.PRT_LINK_STAT_up [p] v).setF F.PRT_LINK_STAT_down_ev [p] w).raise Ev.PORT_DOWN
      (0x400 + p) [(4, b), (4, cause)]) := fun v w => ((h.setF v (by
    simp only [lossKey, Fld.key, F.PRT_LINK_STAT_up, dotStrides]; omega)).setF w (by
    simp only [lossKey, Fld.key, F.PRT_LINK_STAT_down_ev, dotStrides]; omega)).raise (by decide) _ _
  split
  · exact Chip.loses.dropFrame ((hsaid _ _).modSlu _) _ _
  · exact hsaid _ _

end

end Chip.loses

/-! ### The relation -/

/-- `c` with what frames, requests, threads, links, lanes and the order engine hold of `d`, and what is reported there. -/
abbrev Chip.withTraffic (c d : Chip) : Chip :=
  { c with
    regs := d.regs, hif := d.hif, cnt := d.cnt, evr := d.evr, out := d.out, free := d.free, path := d.path, slu := d.slu,
    pan := d.pan, eng := d.eng, ord := d.ord, ent := d.ent, prs := d.prs, srd := d.srd, fwd := d.fwd }

/-- Nothing has changed but what frames, requests, threads, links, lanes and the order engine hold, what is reported, and
registers outside the quiet blocks. -/
def Chip.traffic (c d : Chip) : Prop := d = c.withTraffic d ∧ c.quietRegs d

namespace Chip.traffic

variable {a c d : Chip}

theorem refl (c : Chip) : c.traffic c := ⟨rfl, Chip.quietRegs_refl c⟩

theorem trans (h : a.traffic c) (g : c.traffic d) : a.traffic d := by
  obtain ⟨h, hq⟩ := h
  obtain ⟨g, gq⟩ := g
  exact ⟨by rw [g, h], hq.trans gq⟩

theorem of_reports (h : c.reports d) (hq : c.quietRegs d) : c.traffic d := by
  refine ⟨?_, hq⟩
  rw [h]

/-- A change of what the relation lets change. -/
theorem of_regs (h : d = c.withTraffic d) (hr : d.regs = c.regs) : c.traffic d := ⟨h, Chip.quietRegs_of_eq hr⟩

section
variable (h : a.traffic c)
include h

theorem setF {f : Fld} {i : List Nat} (v : Nat) (hf : ¬ quietKey (f.key i)) : a.traffic (c.setF f i v) :=
  h.trans ⟨rfl, Chip.quietRegs_setF c v hf⟩

theorem raise {code : Nat} (hcode : code < 0x3000) (src : Nat) (items : List (Nat × Nat)) : a.traffic (c.raise code src items) :=
  h.trans (of_reports ((Chip.reports.refl c).raise _ _ _) (Chip.quietRegs_raise c hcode src items))

theorem modPath (f : Paths → Paths) : a.traffic (c.modPath f) := h.trans (of_regs rfl rfl)
theorem modSlu (f : Sluice → Sluice) : a.traffic (c.modSlu f) := h.trans (of_regs rfl rfl)
theorem modPan (f : Pans → Pans) : a.traffic (c.modPan f) := h.trans (of_regs rfl rfl)
theorem modEng (f : Engines → Engines) : a.traffic (c.modEng f) := h.trans (of_regs rfl rfl)
theorem modOrd (f : OrdEng → OrdEng) : a.traffic (c.modOrd f) := h.trans (of_regs rfl rfl)
theorem modEnt (f : Entropy → Entropy) : a.traffic (c.modEnt f) := h.trans (of_regs rfl rfl)
theorem modPrs (f : PairStack → PairStack) : a.traffic (c.modPrs f) := h.trans (of_regs rfl rfl)
theorem modSrd (f : Lanes → Lanes) : a.traffic (c.modSrd f) := h.trans (of_regs rfl rfl)
theorem modFwd (f : Forwarding → Forwarding) : a.traffic (c.modFwd f) := h.trans (of_regs rfl rfl)
theorem modHif (f : HostIf → HostIf) : a.traffic (c.modHif f) := h.trans (of_regs rfl rfl)
theorem setRing (r : Nat) (v : Ring) : a.traffic (c.setRing r v) := h.trans (of_regs rfl rfl)
theorem setFrame (n : Nat) (f : Option Frame) : a.traffic (c.setFrame n f) := h.trans (of_regs rfl rfl)
theorem setQueueSt (q : Nat) (v : QueueSt) : a.traffic (c.setQueueSt q v) := h.trans (of_regs rfl rfl)
theorem draw : a.traffic c.draw.2 := h.trans (of_regs rfl rfl)
theorem emit (o : Output) : a.traffic (c.emit o) := h.trans (of_regs rfl rfl)

theorem portCount (s k n : Nat) : a.traffic (c.portCount s k n) := by
  refine h.trans (of_reports ((Chip.reports.refl c).portCount s k n) (Chip.quietRegs_of_eq ?_))
  rw [Chip.portCount, Chip.count_eq]

theorem ringComplete (r : Nat) (entry : Bytes) : a.traffic (c.ringComplete r entry) :=
  h.trans (of_reports ((Chip.reports.refl c).ringComplete r entry) (Chip.quietRegs_of_eq (Chip.ringComplete_regs c r entry)))

theorem when {f : Chip → Chip} (hf : ∀ c, a.traffic c → a.traffic (f c)) (b : Bool) : a.traffic (c.when b f) :=
  Chip.when_induct b h (hf c)

theorem each {α : Type} {f : Chip → α → Chip} (l : List α) (hf : ∀ c x, a.traffic c → a.traffic (f c x)) :
    a.traffic (c.each l f) := Chip.each_induct l h fun d x hd => hf d x hd

theorem onFrame {f : Frame → Chip → Chip} (n : Nat) (hf : ∀ x d, a.traffic d → a.traffic (f x d)) :
    a.traffic (c.onFrame n f) := by
  simp only [Chip.onFrame]
  split
  · exact hf _ _ h
  · exact h

/-! ### Frames -/

/-- The loss of frames is traffic. -/
theorem loses (g : c.loses d) : a.traffic d := by
  refine h.trans ⟨by rw [g.frame], fun k hk => g.regs k ?_⟩
  simp only [quietKey, lossKey] at hk ⊢
  omega

theorem unqueue (n : Nat) : a.traffic (c.unqueue n) := h.loses ((Chip.loses.refl c).unqueue n)

theorem dropFrame (n reason : Nat) : a.traffic (c.dropFrame n reason) := h.loses ((Chip.loses.refl c).dropFrame n reason)

theorem dropAll (reason : Nat) (which : Frame → Bool) : a.traffic (c.dropAll reason which) :=
  h.loses ((Chip.loses.refl c).dropAll reason which)

theorem sealForget : a.traffic c.sealForget := by
  refine h.each _ fun d e hd => ?_
  split
  · exact hd
  · split
    · exact ((hd.unqueue _).setFrame _ _).setRing _ _
    · exact (hd.unqueue _).setFrame _ _

/-! ### Requests -/

theorem randDrop (p : RandReq → Bool) : a.traffic (c.randDrop p) := h.modEnt _

theorem laMode : a.traffic c.laMode := (h.modPath _).randDrop _

theorem laForget : a.traffic c.laForget := by
  simp only [Chip.laForget]
  exact Chip.traffic.modPath (h.each _ fun _ _ hd => hd.setRing _ _) _

theorem waitsForget : a.traffic c.waitsForget := by
  refine h.each _ fun d e hd => ?_
  simp only
  split_ifs
  · exact hd
  · exact hd.setRing _ _

theorem ingotsForget : a.traffic c.ingotsForget :=
  (h.modPath _).each _ fun _ _ hd => hd.setF 0 (by simp only [quietKey, Fld.key, F.PRT_FRM_STAT_rx_sync, dotStrides]; omega)

/-! ### Threads -/

theorem endThread (k : Nat) : a.traffic (c.endThread k) := by
  simp only [Chip.endThread]
  exact h.modEng _

theorem freeThread (k reason : Nat) : a.traffic (c.freeThread k reason) :=
  (h.endThread k).when (fun _ hd => hd.dropFrame _ _) _

theorem threadsMode : a.traffic c.threadsMode := h.each _ fun _ _ hd => hd.freeThread _ _

theorem loseD2 : a.traffic c.loseD2 := by
  refine Chip.each_induct_mem _ (h.each _ fun _ _ hd => hd.freeThread _ _) fun d q hq hd => ?_
  rw [List.mem_range] at hq
  refine ((hd.setF 0 ?_).setF 0 ?_).setF 0 ?_ <;>
  simp only [quietKey, Fld.key, F.LAD_DBG_CTL_bp_en, F.LAD_DBG_CTL_halted, F.LAD_DBG_BP_addr, dotStrides] <;> omega

/-! ### Order blocks -/

theorem linkSend (port kind : Nat) (clear body : Bytes) : a.traffic (c.linkSend port kind clear body) := by
  simp only [Chip.linkSend]
  split
  · exact h
  · exact ite_cases h ((h.modPrs _).emit _)

theorem blockDone (status detail index ret : Nat) : a.traffic (c.blockDone status detail index ret) := by
  have hcounted := ((h.modOrd fun o => { o with staged := [], regWrites := [], stagedKsq := [], heldFill := false }).modOrd
    fun o => { o with
      busy := false, wait := .none, callReg := none, owait := none, ended := none, relay := false, heldFill := false,
      cmacOut := none, discardCompletion := false, res := { status := status, detail := detail, ret := some ret } }).setF
    (f := F.ORD_BLK_CNT_count) (i := []) (min (2 ^ 32 - 1) (c.getF F.ORD_BLK_CNT_count [] + 1)) (by
      simp only [quietKey, Fld.key, F.ORD_BLK_CNT_count, dotStrides]; omega)
  simp only [Chip.blockDone]
  split_ifs
  · exact hcounted.linkSend _ _ _ _
  · exact hcounted.modHif _
  · exact hcounted.ringComplete _ _

theorem nextRecord : a.traffic c.nextRecord := by
  simp only [Chip.nextRecord]
  split_ifs
  · exact h.blockDone _ _ _ _
  · exact h
  · exact h.blockDone _ _ _ _

theorem recordDone (r : OrdRes) : a.traffic (c.recordDone r) := by
  simp only [Chip.recordDone]
  split_ifs
  · exact h.blockDone _ _ _ _
  · exact (h.modOrd _).nextRecord

theorem callDone (k : Nat) (r : OrdRes) : a.traffic (c.callDone k r) := by
  simp only [Chip.callDone]
  split_ifs
  · exact h.modOrd _
  · exact (h.modOrd _).modEng _

theorem finishOrder (r : OrdRes) : a.traffic (c.finishOrder r) := by
  simp only [Chip.finishOrder]
  split
  · exact (h.modOrd _).callDone _ _
  · split_ifs
    · exact (h.modOrd _).recordDone _
    · exact (h.modOrd _).modOrd _

theorem hostRandMode : a.traffic c.hostRandMode := by
  simp only [Chip.hostRandMode]
  split_ifs
  · exact (h.randDrop _).finishOrder _
  · exact h

/-! ### Lanes -/

theorem lanesNormal : a.traffic c.lanesNormal := by
  refine h.each _ fun d l hd => ?_
  refine ((((hd.setF 0 ?_).setF 0 ?_).setF 0 ?_).setF 0 ?_).setF 0 ?_ <;>
  simp only [quietKey, Fld.key, F.SRD_LANE_CTL_tx_sleep, F.SRD_LANE_CTL_rx_sleep, F.SRD_LANE_CTL_lpbk, F.SRD_PRBS_CFG_gen,
    F.SRD_PRBS_CFG_chk, dotStrides] <;> omega

theorem lock (i v : Nat) : a.traffic (c.setF F.SRD_LANE_STAT_lock [i] v) :=
  h.setF v (by simp only [quietKey, Fld.key, F.SRD_LANE_STAT_lock, dotStrides]; omega)

theorem lanesResume : a.traffic c.lanesResume := (h.modSrd _).each _ fun _ _ hd => hd.lock _ _

theorem portDown (p b cause : Nat) : a.traffic (c.portDown p b cause) := h.loses ((Chip.loses.refl c).portDown p b cause)

theorem lanesRest : a.traffic c.lanesRest :=
  ((h.each _ fun _ _ hd => hd.portDown _ _ _).modSrd _).each _ fun _ _ hd => hd.lock _ _

/-! ### The generator -/

theorem entClear : a.traffic c.entClear :=
  (h.modEnt _).setF 0 (by simp only [quietKey, Fld.key, F.ENT_STAT_ready, dotStrides]; omega)

theorem setBrine (k : Nat) (b : Brine) (hk : k < 2) : a.traffic (c.setBrine k b) := by
  simp only [Chip.setBrine]
  exact (h.modEnt _).setF _ (by simp only [quietKey, Fld.key, F.ENT_SRC_STAT_consec, dotStrides]; omega)

theorem entRest : a.traffic c.entRest := by
  refine (((h.setBrine 0 _ (by decide)).setBrine 1 _ (by decide)).setF 0 ?_).setF 0 ?_ <;>
  simp only [quietKey, Fld.key, F.ENT_CTL_restart0, F.ENT_CTL_restart1, dotStrides] <;> omega

theorem entResume : a.traffic c.entResume := by
  simp only [Chip.entResume]
  split_ifs
  · exact (h.setBrine 0 _ (by decide)).setBrine 1 _ (by decide)
  · exact h

theorem rakeResume : a.traffic c.rakeResume := by
  rw [Chip.rakeResume]
  exact h.modFwd _

end

section
variable (h : c.traffic d)
include h

theorem shadow_eq : d.shadow = c.shadow := by rw [h.1]
theorem ctl_eq : d.ctl = c.ctl := by rw [h.1]
theorem su_eq : d.su = c.su := by rw [h.1]
theorem vlt_eq : d.vlt = c.vlt := by rw [h.1]
theorem sax_eq : d.sax = c.sax := by rw [h.1]
theorem mem_eq : d.mem = c.mem := by rw [h.1]
theorem tim_eq : d.tim = c.tim := by rw [h.1]
theorem buf_eq : d.buf = c.buf := by rw [h.1]
theorem flt_eq : d.flt = c.flt := by rw [h.1]
theorem pnl_eq : d.pnl = c.pnl := by rw [h.1]

end

end Chip.traffic

end Sys2Proof.Machine

/-! PROOFS. The entry of a mode, the start and the end of a zeroization (R149, R360, R377, R449, R572). -/
namespace Sys2Proof.Machine

/-! ### What a change of mode leaves -/

/-- The vault, contexts, memories, time, faults and shadows are as they were. -/
structure Chip.sameCore (c d : Chip) : Prop where
  shadow : d.shadow = c.shadow
  vlt : d.vlt = c.vlt
  sax : d.sax = c.sax
  mem : d.mem = c.mem
  tim : d.tim = c.tim
  buf : d.buf = c.buf
  flt : d.flt = c.flt

namespace Chip.sameCore

variable {a c d : Chip}

theorem refl (c : Chip) : c.sameCore c := ⟨rfl, rfl, rfl, rfl, rfl, rfl, rfl⟩

theorem trans (h : a.sameCore c) (g : c.sameCore d) : a.sameCore d :=
  ⟨g.shadow.trans h.shadow, g.vlt.trans h.vlt, g.sax.trans h.sax, g.mem.trans h.mem, g.tim.trans h.tim, g.buf.trans h.buf,
    g.flt.trans h.flt⟩

theorem of_traffic (h : c.traffic d) : c.sameCore d :=
  ⟨h.shadow_eq, h.vlt_eq, h.sax_eq, h.mem_eq, h.tim_eq, h.buf_eq, h.flt_eq⟩

section
variable (h : a.sameCore c)
include h

theorem traffic (g : c.traffic d) : a.sameCore d := h.trans (of_traffic g)
theorem modCtl (f : ModeCtl → ModeCtl) : a.sameCore (c.modCtl f) := h.trans ⟨rfl, rfl, rfl, rfl, rfl, rfl, rfl⟩
theorem modSu (f : StartUp → StartUp) : a.sameCore (c.modSu f) := h.trans ⟨rfl, rfl, rfl, rfl, rfl, rfl, rfl⟩
theorem modPnl (f : Panel → Panel) : a.sameCore (c.modPnl f) := h.trans ⟨rfl, rfl, rfl, rfl, rfl, rfl, rfl⟩
theorem setF (f : Fld) (i : List Nat) (v : Nat) : a.sameCore (c.setF f i v) := h.trans ⟨rfl, rfl, rfl, rfl, rfl, rfl, rfl⟩

theorem raise (code src : Nat) (items : List (Nat × Nat)) : a.sameCore (c.raise code src items) :=
  h.trans ⟨Chip.raise_shadow .., Chip.raise_vlt .., Chip.raise_sax .., Chip.raise_mem .., Chip.raise_tim .., Chip.raise_buf ..,
    Chip.raise_flt ..⟩

end

end Chip.sameCore

/-- The quiet registers but those of a list are as they were. -/
def Chip.quietBut (l : List Nat) (c d : Chip) : Prop :=
  ∀ k, quietKey k → k ∉ l → SMap.get regReset d.regs k = SMap.get regReset c.regs k

section
variable {a c d : Chip} {l : List Nat}

theorem Chip.quietBut_refl (l : List Nat) (c : Chip) : Chip.quietBut l c c := fun _ _ _ => rfl

theorem Chip.quietBut.of_eq (h : Chip.quietBut l a c) (g : d.regs = c.regs) : Chip.quietBut l a d := fun k hk hl => by
  rw [g, h k hk hl]

theorem Chip.quietBut.quiet (h : Chip.quietBut l a c) (g : c.quietRegs d) : Chip.quietBut l a d :=
  fun k hk hl => (g k hk).trans (h k hk hl)

theorem Chip.quietBut.setF (h : Chip.quietBut l a c) {f : Fld} {i : List Nat} (v : Nat) (hf : f.key i ∈ l) :
    Chip.quietBut l a (c.setF f i v) := by
  intro k hk hl
  rw [Chip.setF_regs, SMap.get_set_other, h k hk hl]
  rintro rfl
  exact hl hf

theorem Chip.quietBut.mono {l' : List Nat} (h : Chip.quietBut l a c) (hl : l ⊆ l') : Chip.quietBut l' a c :=
  fun k hk hn => h k hk fun hm => hn (hl hm)

theorem Chip.quietBut.trans (h : Chip.quietBut l a c) (g : Chip.quietBut l c d) : Chip.quietBut l a d :=
  fun k hk hl => (g k hk hl).trans (h k hk hl)

theorem Chip.quietBut.getF (h : Chip.quietBut l c d) {f : Fld} {i : List Nat} (hq : quietKey (f.key i)) (hl : f.key i ∉ l) :
    d.getF f i = c.getF f i := by
  rw [Chip.getF, Chip.getF, h _ hq hl]

end

/-! ### A change that a hardware transition overtakes -/

/-- The pending change is dropped (R360). -/
theorem Chip.dropPending_spec (c : Chip) :
    c.sameCore c.dropPending ∧ c.dropPending.ctl = { c.ctl with pendingMode := none } ∧ c.dropPending.su = c.su ∧
      c.dropPending.pnl = c.pnl ∧ Chip.quietBut [F.MOD_REFUSE_CNT_count.key []] c c.dropPending := by
  unfold Chip.dropPending
  cases hp : c.ctl.pendingMode with
  | none =>
    refine ⟨.refl c, ?_, rfl, rfl, Chip.quietBut_refl _ c⟩
    change c.ctl = _
    rw [← hp]
  | some p =>
    obtain ⟨y, hy⟩ : ∃ y, (c.modCtl fun k => { k with pendingMode := none }).bump F.MOD_REFUSE_CNT_count [] = y := ⟨_, rfl⟩
    have hyctl : y.ctl = { c.ctl with pendingMode := none } := by rw [← hy, Chip.bump_ctl]; rfl
    have hysu : y.su = c.su := by rw [← hy, Chip.bump_su]; rfl
    have hypnl : y.pnl = c.pnl := by rw [← hy, Chip.bump_pnl]; rfl
    have hycore : c.sameCore y := by
      rw [← hy]
      exact ((Chip.sameCore.refl c).modCtl _).setF _ _ _
    have hyquiet : Chip.quietBut [F.MOD_REFUSE_CNT_count.key []] c y := by
      rw [← hy]
      exact ((Chip.quietBut_refl _ c).of_eq (d := c.modCtl _) rfl).setF _ List.mem_cons_self
    have hgo : ∀ d, y.traffic d → c.sameCore d ∧ d.ctl = { c.ctl with pendingMode := none } ∧ d.su = c.su ∧ d.pnl = c.pnl ∧
        Chip.quietBut [F.MOD_REFUSE_CNT_count.key []] c d := fun d hd =>
      ⟨hycore.traffic hd, by rw [hd.ctl_eq, hyctl], by rw [hd.su_eq, hysu], by rw [hd.pnl_eq, hypnl], hyquiet.quiet hd.2⟩
    have hraised := ((Chip.traffic.refl y).raise (code := Ev.MODE_REFUSED) (by decide) 0x001 []).modOrd
      fun o => { o with ended := none }
    simp only [Option.isNone_some, Bool.false_eq_true, if_false, hy]
    refine hgo _ (ite_cases (P := y.traffic) ?_ (hraised.finishOrder _))
    exact (hraised.modEng _).blockDone _ _ _ _

/-! ### The entry of a mode -/

/-- The debug level is judged again; halted threads may lose their frames. -/
theorem Chip.dbgRejudge_spec (c : Chip) : ∃ l, (c.modCtl fun k => { k with dbg := l }).traffic c.dbgRejudge := by
  unfold Chip.dbgRejudge
  by_cases hg : c.dbgGrants c.ctl.mode c.ctl.dbg = true
  · exact ⟨c.ctl.dbg, by simp only [hg, if_true]; exact Chip.traffic.refl c⟩
  · refine ⟨((List.range c.ctl.dbg).filter fun k => c.dbgGrants c.ctl.mode k).getLast?.getD 0, ?_⟩
    simp only [hg, Bool.false_eq_true, if_false]
    exact Chip.traffic.when ((Chip.traffic.refl _).raise (by decide) _ _) (fun _ hd => hd.loseD2) _

/-- The registers of a mode entry. -/
def entryKeys : List Nat :=
  [F.MOD_REFUSE_CNT_count.key [], F.MOD_LAST_from.key [], F.MOD_LAST_to.key [], F.MOD_LAST_cause.key [],
    F.MOD_TRANS_CNT_count.key [], F.PRS_STAT_holding.key []]

/-- What the entry of mode `new` from the block `c` has made of it (Table 14.10). -/
structure Chip.entered (c d : Chip) (new : Mode) (cause : Nat) : Prop where
  core : c.sameCore d
  ctl : ∃ l, d.ctl = { c.ctl with
    mode := new, power := powerOf new, auth := none, pinOk := none, tkDis := c.ctl.tkDis && decide (new = .maintenance),
    drainTo := if new = .drain then c.ctl.drainTo else none, pendingMode := none, dbg := l }
  su : d.su = { c.su with presenceEnds := none }
  pnl : d.pnl = { c.pnl with enrolEnds := none, first := none, held := none }
  last : d.getF F.MOD_LAST_from [] = modeCode c.ctl.mode ∧ d.getF F.MOD_LAST_to [] = modeCode new ∧
    d.getF F.MOD_LAST_cause [] = cause % 8
  holding : d.getF F.PRS_STAT_holding [] = b2n (decide (new = .active) || (decide (new = .drain) && c.holding))
  quiet : Chip.quietBut entryKeys c d

theorem modeCode_lt (m : Mode) : modeCode m < 16 := by cases m <;> decide

theorem b2n_mod (b : Bool) : b2n b % 2 = b2n b := by cases b <;> rfl

/-- A record of the change in the registers. -/
def Chip.recordChange (c : Chip) (old new : Mode) (cause : Nat) : Chip :=
  (((c.setF F.MOD_LAST_from [] (modeCode old)).setF F.MOD_LAST_to [] (modeCode new)).setF F.MOD_LAST_cause [] cause).bump
    F.MOD_TRANS_CNT_count []

theorem Chip.recordChange_getF (c : Chip) (old new : Mode) (cause : Nat) :
    (c.recordChange old new cause).getF F.MOD_LAST_from [] = modeCode old ∧
      (c.recordChange old new cause).getF F.MOD_LAST_to [] = modeCode new ∧
      (c.recordChange old new cause).getF F.MOD_LAST_cause [] = cause % 8 ∧
      (c.recordChange old new cause).getF F.PRS_STAT_holding [] = c.getF F.PRS_STAT_holding [] := by
  have hold : modeCode old % 2 ^ 4 = modeCode old := Nat.mod_eq_of_lt (modeCode_lt old)
  have hnew : modeCode new % 2 ^ 4 = modeCode new := Nat.mod_eq_of_lt (modeCode_lt new)
  simp only [Chip.recordChange, Chip.bump]
  refine ⟨?_, ?_, ?_, ?_⟩
  · rw [Chip.getF_setF_other _ _ (by decide) (by decide), Chip.getF_setF_other _ _ (by decide) (by decide),
      Chip.getF_setF_other _ _ (by decide) (by decide), Chip.getF_setF_same _ _ _ _ (by decide)]
    exact hold
  · rw [Chip.getF_setF_other _ _ (by decide) (by decide), Chip.getF_setF_other _ _ (by decide) (by decide),
      Chip.getF_setF_same _ _ _ _ (by decide)]
    exact hnew
  · rw [Chip.getF_setF_other _ _ (by decide) (by decide), Chip.getF_setF_same _ _ _ _ (by decide)]
    rfl
  · rw [Chip.getF_setF_other _ _ (by decide) (by decide), Chip.getF_setF_other _ _ (by decide) (by decide),
      Chip.getF_setF_other _ _ (by decide) (by decide), Chip.getF_setF_other _ _ (by decide) (by decide)]

theorem Chip.recordChange_quiet (c : Chip) (old new : Mode) (cause : Nat) :
    Chip.quietBut entryKeys c (c.recordChange old new cause) :=
  ((((Chip.quietBut_refl _ c).setF _ (by decide)).setF _ (by decide)).setF _ (by decide)).setF _ (by decide)

theorem Chip.enterMode_spec (c : Chip) (new : Mode) (cause : Nat) : c.entered (c.enterMode new cause) new cause := by
  obtain ⟨y, hy⟩ : ∃ y, c.when (cause ≠ 0) Chip.dropPending = y := ⟨_, rfl⟩
  obtain ⟨hcore, ⟨p, hctl⟩, hsu, hpnl, hquiet⟩ : c.sameCore y ∧ (∃ p, y.ctl = { c.ctl with pendingMode := p }) ∧ y.su = c.su ∧
      y.pnl = c.pnl ∧ Chip.quietBut [F.MOD_REFUSE_CNT_count.key []] c y := by
    rw [← hy]
    obtain ⟨h1, h2, h3, h4, h5⟩ := Chip.dropPending_spec c
    exact Chip.when_induct (P := fun y => c.sameCore y ∧ (∃ p, y.ctl = { c.ctl with pendingMode := p }) ∧ y.su = c.su ∧
      y.pnl = c.pnl ∧ Chip.quietBut [F.MOD_REFUSE_CNT_count.key []] c y) _ ⟨.refl c, ⟨_, rfl⟩, rfl, rfl, Chip.quietBut_refl _ c⟩
      fun _ => ⟨h1, ⟨_, h2⟩, h3, h4, h5⟩
  obtain ⟨k, hk⟩ : ∃ k : ModeCtl, { y.ctl with
    mode := new, power := powerOf new, auth := none, pinOk := none, tkDis := y.ctl.tkDis && decide (new = .maintenance),
    drainTo := if new = .drain then y.ctl.drainTo else none, pendingMode := none } = k := ⟨_, rfl⟩
  obtain ⟨z, hz⟩ : ∃ z, (((({ y with ctl := k } : Chip).recordChange c.ctl.mode new cause).raise Ev.MODE_CHANGED 0x001
    [(4, modeCode c.ctl.mode + 16 * modeCode new + 256 * cause)]).modSu fun s => { s with presenceEnds := none }).modPnl
    (fun p => { p with enrolEnds := none, first := none, held := none }) = z := ⟨_, rfl⟩
  obtain ⟨w, hw⟩ : ∃ w, z.setF F.PRS_STAT_holding [] (b2n (decide (new = .active) || (decide (new = .drain) && z.holding))) = w :=
    ⟨_, rfl⟩
  obtain ⟨v, hv, l, hl⟩ : ∃ v, w.traffic v ∧ ∃ l, (v.modCtl fun k => { k with dbg := l }).traffic (c.enterMode new cause) := by
    have hgo : ∀ v, w.traffic v → ∃ v', w.traffic v' ∧ ∃ l, (v'.modCtl fun k => { k with dbg := l }).traffic v.dbgRejudge :=
      fun v hv => ⟨v, hv, Chip.dbgRejudge_spec v⟩
    simp only [Chip.enterMode, hy]
    refine hgo _ ?_
    refine Chip.traffic.when ?_ (fun _ hd => hd.modPan _) _
    refine Chip.traffic.when ?_ (fun _ hd => hd.hostRandMode) _
    refine Chip.traffic.when ?_ (fun _ hd => hd.laMode) _
    refine Chip.traffic.when ?_ (fun _ hd => hd.threadsMode) _
    refine Chip.traffic.when ?_ (fun _ hd => hd.rakeResume) _
    refine Chip.traffic.when ?_ (fun _ hd => hd.entRest.lanesRest) _
    refine Chip.traffic.when ?_ (fun _ hd => hd.entResume.lanesResume) _
    refine Chip.traffic.when ?_ (fun _ hd => hd.lanesNormal) _
    refine Chip.traffic.modPrs ?_ _
    rw [← hw, ← hz, ← hk]
    exact Chip.traffic.refl _
  have hzcore : y.sameCore z := by
    rw [← hz]
    exact ((((((((Chip.sameCore.refl y).modCtl fun _ => k).setF _ _ _).setF _ _ _).setF _ _ _).setF _ _ _).raise _ _ _).modSu _).modPnl _
  obtain ⟨hzctl, hzsu, hzpnl⟩ : z.ctl = k ∧ z.su = { y.su with presenceEnds := none } ∧
      z.pnl = { y.pnl with enrolEnds := none, first := none, held := none } := by
    rw [← hz]
    refine ⟨?_, ?_, ?_⟩ <;> simp [Chip.recordChange]
  have hzregs : Chip.quietRegs (({ y with ctl := k } : Chip).recordChange c.ctl.mode new cause) z := by
    rw [← hz]
    exact (Chip.quietRegs_raise _ (by decide) _ _).trans (Chip.quietRegs_of_eq rfl)
  obtain ⟨hfrom, hto, hcause, hhold⟩ := Chip.recordChange_getF { y with ctl := k } c.ctl.mode new cause
  have hzhold : z.holding = c.holding := by
    have hkept : z.getF F.PRS_STAT_holding [] = c.getF F.PRS_STAT_holding [] :=
      ((hzregs.getF (by decide)).trans hhold).trans (hquiet.getF (by decide) (by decide))
    simp only [Chip.holding, Chip.getB, hkept]
  have hwregs : ∀ {f : Fld} {i : List Nat}, quietKey (f.key i) → f.key i ≠ F.PRS_STAT_holding.key [] → w.getF f i = z.getF f i := by
    intro f i _ hne
    rw [← hw, Chip.getF_setF_other _ _ (by decide) hne]
  have hlast : ∀ {f : Fld} {i : List Nat}, quietKey (f.key i) → (c.enterMode new cause).getF f i = w.getF f i := by
    intro f i hf
    rw [hl.2.getF hf]
    exact hv.2.getF hf
  refine ⟨?_, ⟨l, ?_⟩, ?_, ?_, ⟨?_, ?_, ?_⟩, ?_, ?_⟩
  · have hwcore : z.sameCore w := hw ▸ (Chip.sameCore.refl z).setF _ _ _
    exact ((((hcore.trans hzcore).trans hwcore).traffic hv).modCtl _).traffic hl
  · rw [hl.ctl_eq]
    change { v.ctl with dbg := l } = _
    rw [hv.ctl_eq, ← hw, Chip.setF_ctl, hzctl, ← hk, hctl]
  · rw [hl.su_eq]
    change v.su = _
    rw [hv.su_eq, ← hw, Chip.setF_su, hzsu, hsu]
  · rw [hl.pnl_eq]
    change v.pnl = _
    rw [hv.pnl_eq, ← hw, Chip.setF_pnl, hzpnl, hpnl]
  · rw [hlast (by decide), hwregs (by decide) (by decide), hzregs.getF (by decide), hfrom]
  · rw [hlast (by decide), hwregs (by decide) (by decide), hzregs.getF (by decide), hto]
  · rw [hlast (by decide), hwregs (by decide) (by decide), hzregs.getF (by decide), hcause]
  · rw [hlast (by decide), ← hw, Chip.getF_setF_same _ _ _ _ (by decide), hzhold]
    exact b2n_mod _
  · have hrec := Chip.recordChange_quiet { y with ctl := k } c.ctl.mode new cause
    have hwq : Chip.quietBut entryKeys z w := hw ▸ (Chip.quietBut_refl _ z).setF _ (by decide)
    exact (((((hquiet.mono (l' := entryKeys) (by simp [entryKeys])).of_eq (d := { y with ctl := k }) rfl).trans hrec).quiet hzregs).trans hwq).quiet
      ((hv.2.trans (Chip.quietRegs_of_eq rfl)).trans hl.2)

/-! ### Zeroization -/

/-- What zeroization has destroyed of the block `c`, and what it leaves (R449, Table 17.4). -/
structure Chip.destroyed (c d : Chip) : Prop where
  shadow : d.shadow = c.shadow
  su : d.su = c.su
  tim : d.tim = c.tim
  flt : d.flt = c.flt
  vlt : d.vlt = c.eraseSeal.freeSlots.vlt
  sax : d.sax = { c.sax with
    channels := [], closes := [],
    sas := (c.sax.sas.map fun p => (p.1, ({ generation := p.2.generation } : Sa))).filter fun p => p.2 ≠ ({} : Sa) }
  mem : d.mem = (c.memClear 0 0x30000000).mem
  buf : d.buf = { c.buf with states := [], keys := [], die := [] }
  pnl : d.pnl = { c.pnl with pin := none, held := none }

theorem Chip.destroyed_of_core {a c d : Chip} (h : a.sameCore c) (hsu : c.su = a.su) (hpnl : c.pnl = a.pnl)
    (g : c.destroyed d) : a.destroyed d := by
  obtain ⟨g1, g2, g3, g4, g5, g6, g7, g8, g9⟩ := g
  refine ⟨by rw [g1, h.shadow], by rw [g2, hsu], by rw [g3, h.tim], by rw [g4, h.flt], ?_, by rw [g6, h.sax], ?_, by rw [g8, h.buf],
    by rw [g9, hpnl]⟩
  · rw [g5]
    simp only [Chip.freeSlots, Chip.eraseSeal, Chip.modVlt, h.vlt]
  · rw [g7]
    simp only [Chip.memClear, h.mem]

theorem Chip.zeroizeClear_spec (c : Chip) :
    c.destroyed c.zeroizeClear ∧ c.zeroizeClear.ctl = c.ctl ∧ c.quietRegs c.zeroizeClear := by
  obtain ⟨y, hy, hyt⟩ : ∃ y, (((((c.modPan fun p => { p with reqs := [], caches := [], stopped := true }).sealForget).modPrs
      fun p => { p with jobs := [], jobOn := false }).dropAll 0x91 fun _ => true).modPath fun p => { p with
        frames := p.frames.filterMap fun e => e.2.bind fun f => if f.coming then some (e.1, some f.tail) else none }) = y ∧
      c.traffic y := ⟨_, rfl, (((((Chip.traffic.refl c).modPan _).sealForget).modPrs _).dropAll _ _).modPath _⟩
  obtain ⟨z, hz⟩ : ∃ z, ((((y.eraseSeal.freeSlots).modOrd fun o => { o with
    staged := o.staged.map Staged.wipe, stagedKsq := o.stagedKsq.map Staged.wipe, cmacOut := none }).modBuf fun b => { b with
      states := [], keys := [], die := [] }).setF F.MEM_STAT_no_keys [] 1) = z := ⟨_, rfl⟩
  obtain ⟨w, hw⟩ : ∃ w, (z.modSax fun a => { a with
    channels := [], closes := [],
    sas := (a.sas.map fun p => (p.1, ({ generation := p.2.generation } : Sa))).filter fun p => p.2 ≠ ({} : Sa) }).memClear 0
      0x30000000 = w := ⟨_, rfl⟩
  have hgo : ∀ v : Chip, w.traffic v → w.traffic { v with cnt := { v.cnt with space1 := [], lost1 := [] } } :=
    fun v hv => hv.trans (.of_regs rfl rfl)
  obtain ⟨v, hvt, hd⟩ : ∃ v, w.traffic v ∧ c.zeroizeClear = v.modPnl fun p => { p with pin := none, held := none } := by
    simp only [Chip.zeroizeClear, hy, hz, hw]
    refine ⟨_, hgo _ (Chip.traffic.ingotsForget ?_), rfl⟩
    exact (((Chip.traffic.refl w).entClear).modEng _).laForget.waitsForget
  have hvlt : v.vlt = y.eraseSeal.freeSlots.vlt := by rw [hvt.vlt_eq, ← hw, ← hz]; rfl
  have hbuf : v.buf = { y.buf with states := [], keys := [], die := [] } := by rw [hvt.buf_eq, ← hw, ← hz]; rfl
  have hsax : v.sax = { y.sax with
      channels := [], closes := [],
      sas := (y.sax.sas.map fun p => (p.1, ({ generation := p.2.generation } : Sa))).filter fun p => p.2 ≠ ({} : Sa) } := by
    rw [hvt.sax_eq, ← hw, ← hz]; rfl
  have hmem : v.mem = (y.memClear 0 0x30000000).mem := by rw [hvt.mem_eq, ← hw, ← hz]; rfl
  have hkept : v.shadow = y.shadow ∧ v.su = y.su ∧ v.tim = y.tim ∧ v.flt = y.flt ∧ v.ctl = y.ctl ∧ v.pnl = y.pnl := by
    rw [hvt.shadow_eq, hvt.su_eq, hvt.tim_eq, hvt.flt_eq, hvt.ctl_eq, hvt.pnl_eq, ← hw, ← hz]
    exact ⟨rfl, rfl, rfl, rfl, rfl, rfl⟩
  have hregs : y.quietRegs v := by
    have hz' : y.quietRegs z := by
      rw [← hz]
      exact (Chip.quietRegs_of_eq (d := ((y.eraseSeal.freeSlots).modOrd _).modBuf _) rfl).trans
        (Chip.quietRegs_setF (f := F.MEM_STAT_no_keys) (i := []) _ _ (by decide))
    exact (hz'.trans (Chip.quietRegs_of_eq (by rw [← hw]; rfl))).trans hvt.2
  obtain ⟨h1, h2, h3, h4, h5, h6⟩ := hkept
  rw [hd]
  refine ⟨Chip.destroyed_of_core (.of_traffic hyt) hyt.su_eq hyt.pnl_eq ⟨h1, h2, h3, h4, hvlt, hsax, hmem, hbuf, ?_⟩, ?_, ?_⟩
  · rw [Chip.modPnl_pnl, h6]
  · rw [Chip.modPnl_ctl, h5, hyt.ctl_eq]
  · exact (hyt.2.trans hregs).trans (Chip.quietRegs_of_eq rfl)

/-- A block is discarded. -/
theorem Chip.traffic.discardBlock {a c : Chip} (h : a.traffic c) : a.traffic c.discardBlock := by
  simp only [Chip.discardBlock]
  exact ite_cases (((h.modOrd _).modOrd _).when (fun _ hd => hd.setRing _ _) _) ((h.modOrd _).modOrd _)

/-- The start of a zeroization destroys what its end destroys again. -/
theorem Chip.zeroizeStart_spec {c : Chip} (hz : c.ctl.zeroizing = none) (cause : Nat) (own : Bool) :
    c.destroyed (c.zeroizeStart cause own) ∧
      (c.zeroizeStart cause own).ctl = { c.ctl with pendingMode := none, zeroizing := some (cause, c.nowUs) } ∧
      Chip.quietBut [F.MOD_REFUSE_CNT_count.key []] c (c.zeroizeStart cause own) := by
  obtain ⟨hcore, hctl, hsu, hpnl, hquiet⟩ := Chip.dropPending_spec c
  obtain ⟨y, hy⟩ : ∃ y, c.dropPending.modCtl (fun k => { k with zeroizing := some (cause, c.dropPending.nowUs) }) = y := ⟨_, rfl⟩
  obtain ⟨z, hzt, hd⟩ : ∃ z, y.traffic z ∧ c.zeroizeStart cause own = z.zeroizeClear := by
    simp only [Chip.zeroizeStart, hz, Option.isSome_none, Bool.false_eq_true, if_false, hy]
    refine ⟨_, Chip.traffic.laMode (ite_cases (.refl y) ?_), rfl⟩
    exact (((Chip.traffic.refl y).randDrop _).discardBlock).modEng _
  have hnow : c.dropPending.nowUs = c.nowUs := by simp only [Chip.nowUs, Chip.now, hcore.tim]
  obtain ⟨hdes, hdctl, hdregs⟩ := Chip.zeroizeClear_spec z
  rw [hd]
  refine ⟨Chip.destroyed_of_core ((hcore.trans (hy ▸ (Chip.sameCore.refl _).modCtl _)).traffic hzt) ?_ ?_ hdes, ?_, ?_⟩
  · rw [hzt.su_eq, ← hy, Chip.modCtl_su, hsu]
  · rw [hzt.pnl_eq, ← hy, Chip.modCtl_pnl, hpnl]
  · rw [hdctl, hzt.ctl_eq, ← hy, Chip.modCtl_ctl, hctl, hnow]
  · exact ((hquiet.of_eq (by rw [← hy]; rfl)).quiet hzt.2).quiet hdregs

/-- After the programming of an OWNER_TRANSFER its order ends. -/
theorem Chip.transferEnd_none {c : Chip} (h : c.ctl.transfer = none) : c.transferEnd = c := by
  simp only [Chip.transferEnd, h]

theorem Chip.transferEnd_some {c : Chip} {hash : BitVec 384} {i : Nat} (h : c.ctl.transfer = some hash)
    (hi : c.nextOwner = some i) : ((c.modCtl fun k => { k with transfer := none }).programOwner i hash).traffic c.transferEnd := by
  have hi' : (c.modCtl fun k => { k with transfer := none }).nextOwner = some i := hi
  simp only [Chip.transferEnd, h, hi', Option.isSome_some, Chip.when_true, Option.getD_some]
  refine Chip.traffic.when (.refl _) (fun d hd => ite_cases (hd.blockDone _ _ _ _) (hd.finishOrder _)) _

/-- The block whose zeroization ends: destroyed, and in ERASED but for a start (R396). -/
structure Chip.erasing (c d : Chip) : Prop where
  vlt : d.vlt = c.eraseSeal.freeSlots.vlt
  zeroizing : d.ctl.zeroizing = none
  transfer : d.ctl.transfer = c.ctl.transfer
  mode : d.ctl.mode = if c.inMode [.erased, .wake] then c.ctl.mode else .erased
  flags : d.flt = c.flt
  tim : d.tim = c.tim
  pin : d.pnl.pin = none
  shadow : d.shadow = c.shadow

/-- The grant of D3 that ends a forced purge (R377). -/
def Chip.purged (c : Chip) : Chip := (c.raise Ev.DBG_PURGE 0x002).dbgGrant 3

/-- A destroyed block whose zeroization is over, in the mode it was in. -/
structure Chip.wiped (c d : Chip) : Prop where
  vlt : d.vlt = c.eraseSeal.freeSlots.vlt
  ctl : d.ctl = { c.ctl with zeroizing := none, heldLockdown := none }
  flags : d.flt = c.flt
  tim : d.tim = c.tim
  pin : d.pnl.pin = none
  shadow : d.shadow = c.shadow

theorem Chip.wiped_clear (c : Chip) :
    c.wiped (c.laMode.zeroizeClear.modCtl fun k => { k with zeroizing := none, heldLockdown := none }) := by
  have hla : c.traffic c.laMode := (Chip.traffic.refl c).laMode
  obtain ⟨hdes, hctl, -⟩ := Chip.zeroizeClear_spec c.laMode
  have hdes' := Chip.destroyed_of_core (.of_traffic hla) hla.su_eq hla.pnl_eq hdes
  generalize c.laMode.zeroizeClear = d at hctl hdes' ⊢
  refine ⟨hdes'.vlt, ?_, hdes'.flt, hdes'.tim, ?_, hdes'.shadow⟩
  · rw [Chip.modCtl_ctl, hctl, hla.ctl_eq]
  · rw [Chip.modCtl_pnl, hdes'.pnl]

theorem Chip.wiped.erasing_still {c y : Chip} (h : c.wiped y) (hin : c.inMode [.erased, .wake] = true) : c.erasing y := by
  obtain ⟨h1, h2, h3, h4, h5, h6⟩ := h
  exact ⟨h1, by rw [h2], by rw [h2], by rw [h2, if_pos hin], h3, h4, h5, h6⟩

theorem Chip.wiped.erasing_entered {c y : Chip} (h : c.wiped y) (hin : c.inMode [.erased, .wake] = false) (cause : Nat) :
    c.erasing (y.enterMode .erased cause) := by
  obtain ⟨h1, h2, h3, h4, h5, h6⟩ := h
  have he := Chip.enterMode_spec y .erased cause
  obtain ⟨d, hd⟩ : ∃ d, y.enterMode .erased cause = d := ⟨_, rfl⟩
  rw [hd] at he ⊢
  obtain ⟨l, hl⟩ := he.ctl
  refine ⟨he.core.vlt.trans h1, by rw [hl, h2], by rw [hl, h2], ?_, he.core.flt.trans h3, he.core.tim.trans h4,
    by rw [he.pnl]; exact h5, he.core.shadow.trans h6⟩
  rw [hin, hl, if_neg Bool.false_ne_true]

theorem Chip.erasing.raise {c d : Chip} (h : c.erasing d) (code src : Nat) (items : List (Nat × Nat)) :
    c.erasing (d.raise code src items) := by
  obtain ⟨g1, g2, g3, g4, g5, g6, g7, g8⟩ := h
  exact ⟨by rwa [Chip.raise_vlt], by rwa [Chip.raise_ctl], by rwa [Chip.raise_ctl], by rwa [Chip.raise_ctl],
    by rwa [Chip.raise_flt], by rwa [Chip.raise_tim], by rwa [Chip.raise_pnl], by rwa [Chip.raise_shadow]⟩

theorem Chip.zeroizeEnd_spec {c : Chip} {cause t : Nat} (hz : c.ctl.zeroizing = some (cause, t)) :
    ∃ y, c.erasing y ∧ c.zeroizeEnd = y.transferEnd.when (cause = 6) Chip.purged := by
  obtain ⟨y, hy⟩ : ∃ y, c.laMode.zeroizeClear.modCtl (fun k => { k with zeroizing := none, heldLockdown := none }) = y := ⟨_, rfl⟩
  obtain ⟨z, hzz⟩ : ∃ z, y.when (!y.inMode [.erased, .wake]) (fun c => c.enterMode .erased cause) = z := ⟨_, rfl⟩
  have hw : c.wiped y := hy ▸ c.wiped_clear
  have hymode : y.inMode [.erased, .wake] = c.inMode [.erased, .wake] := by simp only [Chip.inMode, hw.ctl]
  have hze : c.erasing z := by
    rw [← hzz, hymode]
    cases hin : c.inMode [.erased, .wake] with
    | true => exact hw.erasing_still hin
    | false => exact hw.erasing_entered hin cause
  refine ⟨z.raise Ev.ZEROIZED 0x04F [(4, cause), (8, z.nowUs - t)], hze.raise _ _ _, ?_⟩
  simp only [Chip.zeroizeEnd, hz, hy, hzz]
  rfl

/-! ### The grant of a debug level -/

/-- The block with a granted level (R373). -/
def Chip.grantCtl (c : Chip) (l : Nat) : ModeCtl := { c.ctl with dbg := l, d3Taint := c.ctl.d3Taint || decide (l = 3) }

theorem Chip.startFail_keeps (c : Chip) (code : Nat) :
    (c.startFail code).vlt = c.vlt ∧ (c.startFail code).ctl = c.ctl ∧ (c.startFail code).flt = c.flt := by
  simp only [Chip.startFail]
  split_ifs <;> simp

theorem Chip.dbgGrant_keeps (c : Chip) (l : Nat) :
    (c.dbgGrant l).vlt = c.vlt ∧ (c.dbgGrant l).ctl = c.grantCtl l := by
  obtain ⟨y, hy⟩ : ∃ y, (c.modCtl fun k => { k with dbg := l, d3Taint := k.d3Taint || decide (l = 3) }).raise Ev.DBG_LEVEL 0x002 = y :=
    ⟨_, rfl⟩
  obtain ⟨z, hz⟩ : ∃ z, y.when (l = 3) (fun c => c.setFlag 16) = z := ⟨_, rfl⟩
  have hd : c.dbgGrant l = z.when (decide (l = 3) && z.inMode [.wake]) fun c => c.startFail 7 := by
    rw [Chip.dbgGrant]
    simp only [hy, hz]
  have hy' : y.vlt = c.vlt ∧ y.ctl = c.grantCtl l := by
    rw [← hy, Chip.raise_vlt, Chip.raise_ctl]
    exact ⟨rfl, rfl⟩
  have hz' : z.vlt = y.vlt ∧ z.ctl = y.ctl := by
    rw [← hz]
    exact ⟨Chip.when_keeps (g := Chip.vlt) (f := fun c => c.setFlag 16) (fun _ => rfl) y _,
      Chip.when_keeps (g := Chip.ctl) (f := fun c => c.setFlag 16) (fun _ => rfl) y _⟩
  rw [hd, ← hy'.1, ← hy'.2, ← hz'.1, ← hz'.2]
  exact ⟨Chip.when_keeps (g := Chip.vlt) (fun x => (Chip.startFail_keeps x 7).1) z _,
    Chip.when_keeps (g := Chip.ctl) (fun x => (Chip.startFail_keeps x 7).2.1) z _⟩

/-- A purge changes no secret. -/
theorem Chip.purged_keeps (c : Chip) :
    c.purged.vlt = c.vlt ∧ c.purged.ctl.zeroizing = c.ctl.zeroizing ∧ c.purged.ctl.transfer = c.ctl.transfer ∧
      c.purged.ctl.mode = c.ctl.mode := by
  obtain ⟨hvlt, hctl⟩ := Chip.dbgGrant_keeps (c.raise Ev.DBG_PURGE 0x002) 3
  rw [Chip.purged, hvlt, hctl, Chip.raise_vlt]
  simp only [Chip.grantCtl, Chip.raise_ctl, and_self]

end Sys2Proof.Machine

/-! PROOFS. OWNER_TRANSFER (R147). -/
namespace Sys2Proof.Machine

section
variable {s : State} {i : Nat} (hi : s.chip.nextOwner = some i)
include hi

theorem ownerTransfer_completes {hash : Bytes} (hfree : s.chip.orderFree) (hmode : s.chip.ctl.mode = .maintenance)
    (hz : s.chip.ctl.zeroizing = none) (hauth : s.chip.authHere 0x20 = true) (hpin : s.chip.pinValid = true) :
    completes (.ownerTransfer hash) s fun c =>
      c.ctl.transfer = some (BitVec.ofNat 384 (beNat (slice hash 0 48))) ∧ c.ord.wait = .transfer ∧
      c.ctl.zeroizing = some (0, s.chip.nowUs) ∧ c.ctl.auth = none ∧ c.ctl.pinOk = none ∧
      c.vlt.owners = s.chip.vlt.owners ∧ c.vlt.sealA = none ∧ c.vlt.sealB = none := by
  obtain ⟨y, hy⟩ : ∃ y, s.chip.spendAuth.modCtl (fun k => { k with pinOk := none }) = y := ⟨_, rfl⟩
  have hyctl : y.ctl = { s.chip.ctl with auth := none, pinOk := none } := by rw [← hy]; rfl
  have hyvlt : y.vlt = s.chip.vlt := by rw [← hy]; rfl
  have hynow : y.nowUs = s.chip.nowUs := by rw [← hy]; rfl
  obtain ⟨hdes, hctl, -⟩ := Chip.zeroizeStart_spec (c := y) (by rw [hyctl]; exact hz) 0 true
  obtain ⟨d, hd⟩ : ∃ d, y.zeroizeStart 0 true = d := ⟨_, rfl⟩
  rw [hd] at hdes hctl
  have hvlt : d.vlt.owners = s.chip.vlt.owners ∧ d.vlt.sealA = none ∧ d.vlt.sealB = none := by
    rw [hdes.vlt, ← hyvlt]
    exact ⟨rfl, rfl, rfl⟩
  refine completes_waiting (d := (d.modCtl fun k => { k with transfer := some (BitVec.ofNat 384 (beNat (slice hash 0 48))) }).modOrd
    fun o => { o with wait := .transfer }) rfl hfree ?_ hvlt.1 ⟨rfl, rfl, ?_, ?_, ?_, hvlt⟩
  · rw [ownerTransfer, inModes_of (by simp [Chip.inMode, hmode])]
    simp only [hauth, hpin, Bool.not_true, Bool.false_eq_true, if_false, hi, hy, hd]
  · rw [Chip.modOrd_ctl, Chip.modCtl_ctl, hctl, hynow]
  · rw [Chip.modOrd_ctl, Chip.modCtl_ctl, hctl, hyctl]
  · rw [Chip.modOrd_ctl, Chip.modCtl_ctl, hctl, hyctl]

theorem zeroizationComplete_programs {h : BitVec 384} {cause t : Nat} (htransfer : s.chip.ctl.transfer = some h)
    (hz : s.chip.ctl.zeroizing = some (cause, t)) :
    completes .zeroizationComplete s fun c =>
      c.ownerSlot i = { hash := h, crcGood := true, started := true, done := true } ∧
      (∀ k, k ≠ i → c.ownerSlot k = s.chip.ownerSlot k) ∧ c.ctl.transfer = none ∧ c.ctl.zeroizing = none := by
  obtain ⟨y, hy, hend⟩ := Chip.zeroizeEnd_spec hz
  have hyowners : y.vlt.owners = s.chip.vlt.owners := by rw [hy.vlt]; rfl
  have hynext : y.nextOwner = some i := by
    rw [← hi]
    simp only [Chip.nextOwner, Chip.ownerSlot, hyowners]
  have hprog := Chip.transferEnd_some (hy.transfer.trans htransfer) hynext
  obtain ⟨hpvlt, hpz, hpt, -⟩ : s.chip.zeroizeEnd.vlt = y.transferEnd.vlt ∧
      s.chip.zeroizeEnd.ctl.zeroizing = y.transferEnd.ctl.zeroizing ∧
      s.chip.zeroizeEnd.ctl.transfer = y.transferEnd.ctl.transfer ∧ True := by
    rw [hend]
    obtain ⟨h1, h2, h3, -⟩ := Chip.purged_keeps y.transferEnd
    cases hc : decide (cause = 6)
    · exact ⟨rfl, rfl, rfl, trivial⟩
    · exact ⟨h1, h2, h3, trivial⟩
  have howner : ∀ k, s.chip.zeroizeEnd.ownerSlot k =
      if k = i then { hash := h, crcGood := true, started := true, done := true } else s.chip.ownerSlot k := by
    intro k
    have howners : y.transferEnd.vlt.owners = SMap.set (fun _ => {}) y.vlt.owners i
        { hash := h, crcGood := true, started := true, done := true } := by
      rw [hprog.vlt_eq, Chip.programOwner, Chip.raise_vlt]
      rfl
    simp only [Chip.ownerSlot, hpvlt, howners, SMap.get_set, hyowners]
  have hfresh : (s.chip.ownerSlot i).started = false := by
    have := List.find?_some hi
    simpa using this
  rw [completes_iff (f := Chip.zeroizeEnd) rfl]
  refine ⟨?_, fun k hk => ?_, ?_, ?_⟩
  · rw [Chip.ownerSlot_after, if_neg (by simp [hfresh]), howner, if_pos rfl]
  · rw [Chip.ownerSlot_after, howner, if_neg hk, ite_self]
  · rw [Chip.after_ctl, hpt, hprog.ctl_eq, Chip.programOwner, Chip.raise_ctl]
    rfl
  · rw [Chip.after_ctl, hpz, hprog.ctl_eq, Chip.programOwner, Chip.raise_ctl]
    exact hy.zeroizing

end

/-- Settles O16. -/
theorem ownerTransferProgramsNextSlot : Obligations.OwnerTransferProgramsNextSlot := by
  unfold Obligations.OwnerTransferProgramsNextSlot
  intro s hash i hi
  exact ⟨fun hfree hmode hz hauth hpin => ownerTransfer_completes hi hfree hmode hz hauth hpin,
    fun h cause t htransfer hz => zeroizationComplete_programs hi htransfer hz⟩

end Sys2Proof.Machine

/-! PROOFS. COMMIT of the vault's entries, the revocation walk and slot errors (R130, R132, R137, R146). -/
namespace Sys2Proof.Machine

/-! ### Invalidation -/

theorem Chip.startWalk_busy (c : Chip) : c.startWalk.vlt.walkBusy = true := by
  unfold Chip.startWalk
  split_ifs with h
  · exact h
  · rfl

section
variable (c : Chip) (i : Nat)

theorem Chip.slot_invalidate (k : Nat) :
    (c.invalidate i).slot k = if k = i then { c.slot i with state := 2 } else c.slot k := by
  rw [Chip.invalidate, Chip.slot_of_slots (Chip.startWalk_slots _)]
  exact Chip.slot_setSlot _ _ _ _

theorem Chip.invalidate_busy : (c.invalidate i).vlt.walkBusy = true := Chip.startWalk_busy _

theorem Chip.invalidate_owners : (c.invalidate i).vlt.owners = c.vlt.owners := Chip.startWalk_owners _

theorem Chip.invalidate_ord : (c.invalidate i).ord = c.ord := Chip.startWalk_ord _

/-- Beyond the vault and the Pans' key caches nothing changes. -/
theorem Chip.invalidate_eq : c.invalidate i = { c with vlt := (c.invalidate i).vlt, pan := (c.invalidate i).pan } := by
  simp only [Chip.invalidate, Chip.startWalk]
  split_ifs <;> rfl

end

/-! ### COMMIT -/

/-- A COMMIT of one entry of the vault: what its entry has changed, with nothing staged. -/
theorem commit_completes {s : State} {e : Staged} (hfree : s.chip.orderFree) (hw : s.chip.ord.regWrites = [])
    (hf : s.chip.ord.heldFill = false) (hst : s.chip.ord.staged = [e]) (hcheck : s.chip.entryCheck e = 0)
    (hmode : ∀ f t r, e ≠ .modeSet f t r) {d : Chip} (hd : s.chip.applyEntry e = d) (hord : d.ord = s.chip.ord)
    (hown : d.vlt.owners = s.chip.vlt.owners) :
    completes .commit s fun c => c.vlt = d.vlt ∧ c.ctl = d.ctl ∧ c.ord.staged = [] ∧ c.ord.res = {} := by
  have hset : s.chip.settled d = { d with
      prs := (d.commitRecord s.chip.snapshot).prs,
      ord := { d.ord with staged := [], regWrites := [], stagedKsq := [], heldFill := false } } := Chip.settled_eq hw hf
  have hcommit : commit s.chip = (s.chip.settled d, some {}) := by rw [commit_single hst hcheck hmode, hd]
  obtain ⟨u, hu⟩ : ∃ u, s.chip.settled d = u := ⟨_, rfl⟩
  rw [hu] at hset hcommit
  have huord : u.ord = { s.chip.ord with staged := [], regWrites := [], stagedKsq := [], heldFill := false } := by rw [hset, ← hord]
  have hquiet : u.ordQuiet := by
    obtain ⟨h1, h2, h3⟩ := hfree.quiet
    rw [Chip.ordQuiet, huord]
    exact ⟨h1, h2, h3⟩
  have huvlt : u.vlt = d.vlt := by rw [hset]
  have huctl : u.ctl = d.ctl := by rw [hset]
  refine completes_order rfl hfree hcommit hquiet (by rw [huvlt, hown]) ⟨huvlt, huctl, ?_, rfl⟩
  change u.ord.staged = []
  rw [huord]

section
variable {s : State} (hfree : s.chip.orderFree) (hw : s.chip.ord.regWrites = []) (hf : s.chip.ord.heldFill = false)
  (hmode : s.chip.inMode stageModes = true)
include hfree hw hf hmode

theorem commit_key {slot : Nat} {record : Slot} (hst : s.chip.ord.staged = [.key slot record none none stageModes])
    (hstate : (s.chip.slot slot).state = 0) (hbound : (s.chip.slot slot).bound = false) :
    completes .commit s fun c =>
      (∀ k, c.slot k = if k = slot then { record with generation := nextGen (s.chip.slot slot).generation }
        else s.chip.slot k) ∧ c.ord.staged = [] ∧ c.ord.res = {} ∧ c.ctl = s.chip.ctl := by
  have hord : (s.chip.applyEntry (.key slot record none none stageModes)).ord = s.chip.ord := by
    rw [Chip.applyEntry_key_eq hstate]
  have hctl : (s.chip.applyEntry (.key slot record none none stageModes)).ctl = s.chip.ctl := by
    rw [Chip.applyEntry_key_eq hstate]
  refine completes_mono (commit_completes hfree hw hf hst (Chip.entryCheck_key hmode hstate hbound) (by simp) rfl hord
    (Chip.owners_applyEntry_key hstate)) ?_
  rintro c ⟨hvlt, hcctl, hstaged, hres⟩
  exact ⟨fun k => by rw [Chip.slot_congr hvlt, Chip.slot_applyEntry_key hstate], hstaged, hres, hcctl.trans hctl⟩

theorem commit_release {slot gen : Nat} {force : Bool} (hst : s.chip.ord.staged = [.release slot gen force])
    (hgen : (s.chip.slot slot).generation = gen) (hbound : (s.chip.slot slot).bound = true → force = true) :
    completes .commit s fun c =>
      (∀ k, c.slot k = if k = slot then { s.chip.slot slot with state := 2 } else s.chip.slot k) ∧
      c.vlt.walkBusy = true ∧ c.ord.staged = [] ∧ c.ord.res = {} := by
  have hmode' : s.chip.inMode (stageModes ++ [.maintenance]) = true := by
    simp only [Chip.inMode, List.contains_iff_mem, List.mem_append] at hmode ⊢
    exact Or.inl hmode
  have hcheck : s.chip.entryCheck (.release slot gen force) = 0 := by
    have hheld : ((s.chip.slot slot).bound && !force) = false := by
      cases hb : (s.chip.slot slot).bound
      · rfl
      · rw [hbound hb]; rfl
    simp [Chip.entryCheck, Chip.modeThen, hmode', hgen, hheld]
  refine completes_mono (commit_completes hfree hw hf hst hcheck (by simp) rfl (Chip.invalidate_ord _ _)
    (Chip.invalidate_owners _ _)) ?_
  rintro c ⟨hvlt, -, hstaged, hres⟩
  refine ⟨fun k => ?_, ?_, hstaged, hres⟩
  · rw [Chip.slot_congr hvlt]
    exact Chip.slot_invalidate _ _ _
  · rw [hvlt]
    exact Chip.invalidate_busy _ _

end

/-- Settles O17. -/
theorem commitAppliesStaged : Obligations.CommitAppliesStaged := by
  unfold Obligations.CommitAppliesStaged
  intro s hfree hw hf hmode
  exact ⟨fun slot record hst hstate hbound => commit_key hfree hw hf hmode hst hstate hbound,
    fun slot gen force hst _ hgen hbound => commit_release hfree hw hf hmode hst hgen hbound⟩

/-! ### The revocation walk -/

/-- What a pass does to one child. -/
def Chip.revoke (c d : Chip) (i : Nat) : Chip :=
  let s := d.slot i
  ((d.setSlot i { s with state := 3 }).dropCached i).raise Ev.CHILD_REVOKED 0x0D0 [(4, (c.handleOf i).toNat), (4, s.parent.toNat)]

/-- Children are revoked, and their parents' walk goes on. -/
theorem Chip.each_revoke (c d : Chip) (l : List Nat) :
    (∀ k, (d.each l c.revoke).slot k = if k ∈ l then { d.slot k with state := 3 } else d.slot k) ∧
      (d.each l c.revoke).vlt = { d.vlt with slots := (d.each l c.revoke).vlt.slots } := by
  induction l generalizing d with
  | nil => exact ⟨fun k => by simp, rfl⟩
  | cons i l ih =>
    obtain ⟨hslot, hvlt⟩ := ih (c.revoke d i)
    have hone : ∀ k, (c.revoke d i).slot k = if k = i then { d.slot i with state := 3 } else d.slot k := by
      intro k
      rw [Chip.revoke, Chip.slot_congr (Chip.raise_vlt _ _ _ _)]
      exact Chip.slot_setSlot _ _ _ _
    have hvone : (c.revoke d i).vlt = { d.vlt with slots := (c.revoke d i).vlt.slots } := by
      simp only [Chip.revoke, Chip.raise_vlt]
      rfl
    rw [Chip.each_cons]
    refine ⟨fun k => ?_, ?_⟩
    · simp only [hslot, hone]
      by_cases hk : k = i
      · subst hk
        simp
      · simp [hk]
    · rw [hvlt]
      generalize (c.revoke d i).each l c.revoke = e
      rw [hvone]

theorem revocationWalkPass_completes {s : State} (hbusy : s.chip.vlt.walkBusy = true) :
    let children := (s.chip.vlt.slots.filter fun p => s.chip.orphaned p.2).map (·.1)
    completes .revocationWalkPass s fun c =>
      (∀ k, c.slot k = if k ∈ children then { s.chip.slot k with state := 3 } else s.chip.slot k) ∧
      c.vlt.walkBusy = !children.isEmpty ∧
      (children = [] → c = { s.chip with
        vlt := { s.chip.vlt with
        walkBusy := false, walkPasses := min 9 (s.chip.vlt.walkPasses + 1), lastPasses := min 9 (s.chip.vlt.walkPasses + 1),
        lastRevoked := s.chip.vlt.walkRevoked } }) := by
  intro children
  obtain ⟨y, hy⟩ : ∃ y, s.chip.each children s.chip.revoke = y := ⟨_, rfl⟩
  obtain ⟨hslot, hvlt⟩ := Chip.each_revoke s.chip s.chip children
  rw [hy] at hslot hvlt
  have hpass : s.chip.walkPass =
      let z := y.modVlt fun v => { v with walkPasses := min 9 (v.walkPasses + 1), walkRevoked := v.walkRevoked + children.length }
      if children.isEmpty then
        z.modVlt fun v => { v with walkBusy := false, lastPasses := v.walkPasses, lastRevoked := v.walkRevoked }
      else z := by
    rw [Chip.walkPass, if_pos hbusy, ← hy]
    rfl
  cases hc : children with
  | nil =>
    have hys : y = s.chip := by rw [← hy, hc, Chip.each_nil]
    refine completes_eq rfl hpass ?_ ?_
    · simp only [hc, List.isEmpty_nil, if_true, hys]
      refine ⟨fun k => ?_, rfl, fun _ => rfl⟩
      rw [if_neg (by simp)]
      rfl
    · simp only [hc, List.isEmpty_nil, if_true, hys]
      rfl
  | cons i l =>
    refine completes_eq rfl hpass ?_ ?_
    · simp only [hc, List.isEmpty_cons, Bool.false_eq_true, if_false, Bool.not_false]
      refine ⟨fun k => ?_, ?_, fun h => absurd h (by simp)⟩
      · rw [← hc, ← hslot]
        rfl
      · change y.vlt.walkBusy = true
        rw [hvlt]
        exact hbusy
    · simp only [hc, List.isEmpty_cons, Bool.false_eq_true, if_false]
      change y.vlt.owners = _
      rw [hvlt]

/-! ### Errors of a slot -/

/-- A transient error is counted for its class and said (R437). -/
def Chip.saidTransient (c : Chip) (cls ch code : Nat) : Chip :=
  let c := c.bump F.FLT_CLASS_CNT_count [cls]
  if cls = 8 then c.raise Ev.IIC_MISMATCH 0x048 else c.raise Ev.FLT_TRANSIENT (0x040 + cls) [(4, cls), (4, ch), (4, code)]

/-- The block with the first error of a channel on record. -/
def Chip.firstTransient (c : Chip) (cls ch code : Nat) : Chip :=
  (c.saidTransient cls ch code).setFaultChan cls ch { c.faultChan cls ch with times := [c.now / 1000000] }

section
variable (c : Chip) (cls ch code : Nat)

theorem Chip.saidTransient_reports : c.reports (c.saidTransient cls ch code) :=
  ite_cases (((Chip.reports.refl c).bump _ _ _).raise _ _ _) (((Chip.reports.refl c).bump _ _ _).raise _ _ _)

/-- Of the quiet registers its class's count alone has changed. -/
theorem Chip.saidTransient_quiet :
    Chip.quietBut [F.FLT_CLASS_CNT_count.key [cls]] c (c.saidTransient cls ch code) := by
  have hbump : Chip.quietBut [F.FLT_CLASS_CNT_count.key [cls]] c (c.bump F.FLT_CLASS_CNT_count [cls]) :=
    (Chip.quietBut_refl _ c).setF _ List.mem_cons_self
  exact ite_cases (P := Chip.quietBut [F.FLT_CLASS_CNT_count.key [cls]] c) (hbump.quiet (Chip.quietRegs_raise _ (by decide) _ _))
    (hbump.quiet (Chip.quietRegs_raise _ (by decide) _ _))

theorem Chip.perm_rate_saidTransient :
    (c.saidTransient cls ch code).getF F.FLT_CFG_perm_rate [] = c.getF F.FLT_CFG_perm_rate [] :=
  (c.saidTransient_quiet cls ch code).getF (by decide) (by
    simp only [List.mem_singleton, Fld.key, F.FLT_CFG_perm_rate, F.FLT_CLASS_CNT_count, dotStrides]; omega)

theorem Chip.now_saidTransient : (c.saidTransient cls ch code).now = c.now := by
  simp only [Chip.now, (c.saidTransient_reports cls ch code).tim_eq]

theorem Chip.faultChan_saidTransient (k n : Nat) : (c.saidTransient cls ch code).faultChan k n = c.faultChan k n := by
  simp only [Chip.faultChan, (c.saidTransient_reports cls ch code).flt_eq]

variable {c cls ch code}

/-- How the first error of a channel is judged (R437 to R439). -/
theorem Chip.transientJudge_first (hch : (classChannels cls).contains ch = true) (htimes : (c.faultChan cls ch).times = [])
    (hlive : (c.faultChan cls ch).retired = false) (used : Bool) :
    c.transientJudge cls ch code used =
      let d := c.firstTransient cls ch code
      if c.getF F.FLT_CFG_perm_rate [] < 1 then (some (1, classResponse cls), d)
      else if cls = 5 || cls = 9 then (none, d)
      else
        let k := d.faultClass cls
        if used || (cls < 2 && k.current = some ch) then (d.escalate cls).map some id
        else if k.current.isNone then (none, d.setFaultClass cls { k with current := some ch })
        else if k.waiting.length < 4 then (none, d.setFaultClass cls { k with waiting := k.waiting ++ [ch] })
        else (d.escalate cls).map some id := by
  have hlive' : ((c.bump F.FLT_CLASS_CNT_count [cls]).faultChan cls ch).retired = false := hlive
  have hsaid : (if cls = 8 then (c.bump F.FLT_CLASS_CNT_count [cls]).raise Ev.IIC_MISMATCH 0x048
      else (c.bump F.FLT_CLASS_CNT_count [cls]).raise Ev.FLT_TRANSIENT (0x040 + cls) [(4, cls), (4, ch), (4, code)]) =
      c.saidTransient cls ch code := rfl
  have hcount : (c.saidTransient cls ch code).rateCount cls ch = (1, c.firstTransient cls ch code) := by
    simp only [Chip.rateCount, Chip.faultChan_saidTransient, Chip.now_saidTransient, htimes, List.filter_nil, List.nil_append]
    rfl
  have hrate : (c.firstTransient cls ch code).getF F.FLT_CFG_perm_rate [] = c.getF F.FLT_CFG_perm_rate [] :=
    Chip.perm_rate_saidTransient c cls ch code
  simp only [Chip.transientJudge, hch, Bool.not_true, Bool.false_eq_true, if_false, hlive', hsaid, hcount, hrate]

end

/-- The first error of the vault within its rate: counted, and handled no further. -/
theorem Chip.transient_vault {c : Chip} (htimes : (c.faultChan 5 0).times = []) (hlive : (c.faultChan 5 0).retired = false)
    (hrate : 1 ≤ c.getF F.FLT_CFG_perm_rate []) : (c.transient 5 0 0 false).vlt = c.vlt := by
  rw [Chip.transient, Chip.transientJudge_first (by decide) htimes hlive]
  simp only [if_neg (Nat.not_lt.2 hrate), decide_true, Bool.true_or, if_true]
  exact (c.saidTransient_reports 5 0 0).vlt_eq

section
variable {s : State} (i : Fin 131072)

theorem vaultEccError_completes (htimes : (s.chip.faultChan 5 0).times = []) (hlive : (s.chip.faultChan 5 0).retired = false)
    (hrate : 1 ≤ s.chip.getF F.FLT_CFG_perm_rate []) :
    completes (.vaultEccError i) s fun c =>
      (∀ k, c.slot k = if k = i.val then { s.chip.slot k with key := 0, state := 2 } else s.chip.slot k) ∧
      c.vlt.walkBusy = true := by
  obtain ⟨y, hy⟩ : ∃ y, s.chip.setSlot i.val { s.chip.slot i.val with key := 0 } = y := ⟨_, rfl⟩
  obtain ⟨z, hz⟩ : ∃ z, y.invalidate i.val = z := ⟨_, rfl⟩
  obtain ⟨d, hd⟩ : ∃ d, (z.setF F.VLT_STAT_ecc_err [] 1).raise Ev.VAULT_ECC 0x0D0 = d := ⟨_, rfl⟩
  have hrep : z.reports d := hd ▸ ((Chip.reports.refl z).setF _ _ _).raise _ _ _
  have hzflt : z.flt = s.chip.flt := by rw [← hz, Chip.invalidate_eq, ← hy]; rfl
  have hzregs : z.regs = s.chip.regs := by rw [← hz, Chip.invalidate_eq, ← hy]; rfl
  have hchan : d.faultChan 5 0 = s.chip.faultChan 5 0 := by simp only [Chip.faultChan, hrep.flt_eq, hzflt]
  have hdrate : d.getF F.FLT_CFG_perm_rate [] = s.chip.getF F.FLT_CFG_perm_rate [] := by
    rw [← hd, (Chip.quietRegs_raise _ (by decide) _ _).getF (by decide), Chip.getF_setF_other _ _ (by decide) (by decide),
      Chip.getF_congr hzregs]
  have hvlt : (d.transient 5 0 0 false).vlt = z.vlt := by
    rw [Chip.transient_vault (by rw [hchan, htimes]) (by rw [hchan, hlive]) (by rw [hdrate]; exact hrate), hrep.vlt_eq]
  have hecc : s.chip.vaultEcc i.val = d := by
    rw [← hd, ← hz, ← hy]
    rfl
  refine completes_eq (f := fun c => (c.vaultEcc i.val).transient 5 0 0 false) rfl (by rw [hecc]) ⟨fun k => ?_, ?_⟩ ?_
  · rw [Chip.slot_congr hvlt, ← hz, Chip.slot_invalidate, ← hy, Chip.slot_setSlot, Chip.slot_setSlot, if_pos rfl]
    by_cases hk : k = i.val
    · rw [if_pos hk, if_pos hk, hk]
    · rw [if_neg hk, if_neg hk, if_neg hk]
  · rw [hvlt, ← hz]
    exact Chip.invalidate_busy _ _
  · rw [hvlt, ← hz, Chip.invalidate_owners, ← hy]
    rfl

/-- A counter's register after one event more. -/
theorem Chip.bumped_bump (c : Chip) (f : Fld) (i : List Nat) (hw : f.w ≤ 32) : c.bumped (c.bump f i) f i := by
  rw [Chip.bumped, Chip.bump, Chip.getF_setF_same _ _ _ _ hw, Nat.mod_eq_of_lt]
  have := Nat.two_pow_pos f.w
  omega

theorem vaultEccCorrected_completes :
    completes (.vaultEccCorrected i) s fun c =>
      s.chip.bumped c F.VLT_ECC_CNT_count [] ∧ c = { s.chip with regs := c.regs } :=
  completes_eq (f := fun c => c.bump F.VLT_ECC_CNT_count []) rfl rfl ⟨s.chip.bumped_bump _ _ (by decide), rfl⟩ rfl

theorem useCountExhausted_completes (htype : (s.chip.slot i.val).type ≠ 0) (hcount : (s.chip.slot i.val).count = 0)
    (hstate : (s.chip.slot i.val).state = 1) (hsaid : SMap.get (fun _ => false) s.chip.vlt.exhaustedSaid i.val = false)
    (hlogs : s.chip.logs) :
    completes (.useCountExhausted i) s fun c =>
      s.chip.logged c [⟨Ev.USE_EXHAUSTED, 0x0D0, [], false⟩] ∧
      SMap.get (fun _ => false) c.vlt.exhaustedSaid i.val = true ∧ c.vlt.slots = s.chip.vlt.slots := by
  obtain ⟨y, hy⟩ : ∃ y, s.chip.modVlt (fun v => { v with exhaustedSaid := SMap.set (fun _ => false) v.exhaustedSaid i.val true }) = y :=
    ⟨_, rfl⟩
  have hylogs : y.logs := by rw [← hy]; exact hlogs
  have hrun : s.chip.saidExhausted i.val = y.raise Ev.USE_EXHAUSTED 0x0D0 := by
    rw [Chip.saidExhausted, ← hy]
    simp only [hcount, hstate, hsaid, decide_true, Bool.not_false, Bool.and_true, ne_eq, htype, not_false_eq_true, if_true]
  refine completes_eq (f := fun c => c.saidExhausted i.val) rfl hrun ⟨?_, ?_, ?_⟩ ?_
  · rw [Chip.logged, Chip.raise_logs hylogs (by decide), ← hy]
    rfl
  · rw [Chip.raise_vlt, ← hy, Chip.modVlt_vlt]
    simp only [SMap.get_set_same]
  · rw [Chip.raise_vlt, ← hy]
    rfl
  · rw [Chip.raise_vlt, ← hy]
    rfl

end

/-- Settles O18. -/
theorem vaultUpkeep : Obligations.VaultUpkeep := by
  unfold Obligations.VaultUpkeep
  intro s i
  exact ⟨fun hbusy => revocationWalkPass_completes hbusy,
    fun htimes hlive hrate => vaultEccError_completes i htimes hlive hrate,
    vaultEccCorrected_completes i,
    fun htype hcount hstate hsaid hlogs => useCountExhausted_completes i htype hcount hstate hsaid hlogs⟩

end Sys2Proof.Machine

/-! PROOFS. Register writes (R8 to R12, R505 to R507, R571). -/
namespace Sys2Proof.Machine

/-! ### The register map -/

theorem joinDims_of_splitDims {off : Nat} {ds : List (Nat × Nat)} {idx : List Nat} (h : splitDims off ds = some idx) :
    joinDims idx ds = off := by
  induction ds generalizing off idx with
  | nil =>
    simp only [splitDims] at h
    split_ifs at h with h0
    obtain rfl : [] = idx := Option.some.inj h
    rw [h0]
    rfl
  | cons d ds ih =>
    obtain ⟨n, k⟩ := d
    simp only [splitDims] at h
    split_ifs at h with hn
    obtain ⟨l, hl, rfl⟩ := Option.map_eq_some_iff.1 h
    rw [joinDims, ih hl]
    exact Nat.div_add_mod' off k

/-- The register found at an offset stands there. -/
theorem offset_of_lookupReg {off : Nat} {r : RegId} {idx : List Nat} (h : lookupReg off = some (r, idx)) :
    r.row.offset idx = off := by
  obtain ⟨q, -, hq⟩ := List.exists_of_findSome?_eq_some h
  obtain ⟨l, hl, hpair⟩ := Option.map_eq_some_iff.1 hq
  obtain ⟨rfl, rfl⟩ : q = r ∧ l = idx := by simpa using hpair
  simp only [RegRow.index?] at hl
  split_ifs at hl with hb
  rw [RegRow.offset, joinDims_of_splitDims hl]
  omega

/-- The fields of a register stand one above the other, inside 32 bits. -/
theorem fields_apart (r : RegId) :
    r.row.fields.Pairwise (fun a b => a.lo + a.w ≤ b.lo) ∧ ∀ f ∈ r.row.fields, 0 < f.w ∧ f.lo + f.w ≤ 32 := by
  cases r <;> decide

theorem fieldKey_inj {o lo lo' : Nat} (h : fieldKey o lo = fieldKey o lo') : lo = lo' := by
  simp only [fieldKey] at h
  omega

theorem fieldKey_div {o lo : Nat} (h : lo < 32) : fieldKey o lo / 32 = o := by
  simp only [fieldKey]
  omega

/-! ### Keys of the register file and of its shadows -/

section
variable {c d : Chip} {k x : Nat}

theorem Chip.inForce_setKey {v : Nat} (hv : v < 2 ^ 32) : (c.setKey k v).inForce x = if x = k then v else c.inForce x := by
  simp only [Chip.inForce, Chip.setKey, SMap.get_set]
  split_ifs
  · exact BitVec.toNat_ofNat v 32 ▸ Nat.mod_eq_of_lt hv
  · rfl

theorem Chip.shadowed_congr (hs : SMap.get (fun _ => none) d.shadow x = SMap.get (fun _ => none) c.shadow x)
    (hr : d.inForce x = c.inForce x) : d.shadowed x = c.shadowed x := by
  simp only [Chip.shadowed, hs, hr]

theorem Chip.inForce_lt (c : Chip) (k : Nat) : c.inForce k < 2 ^ 32 := (SMap.get regReset c.regs k).isLt

theorem Chip.shadowed_lt (c : Chip) (k : Nat) : c.shadowed k < 2 ^ 32 := by
  simp only [Chip.shadowed]
  split
  · exact BitVec.isLt _
  · exact c.inForce_lt k

theorem Chip.shadowed_setShadow {v w : Nat} (hv : v < 2 ^ 32) :
    (c.setShadow k v w).shadowed x = if x = k then v else c.shadowed x := by
  have hforce : (c.setShadow k v w).inForce x = c.inForce x := rfl
  simp only [Chip.shadowed, hforce]
  simp only [Chip.setShadow, SMap.get_set]
  by_cases hx : x = k
  · rw [if_pos hx, if_pos hx, hx]
    by_cases hsame : v = c.inForce k
    · simp [hsame]
    · simp only [if_neg hsame, BitVec.toNat_ofNat]
      exact Nat.mod_eq_of_lt hv
  · rw [if_neg hx, if_neg hx]

end

/-! ### What a write leaves besides its keys -/

/-- From the block `c` a write has led to `d`: of the registers and shadows only those of a list of keys may differ, and at
most `n` events have been raised. -/
structure Chip.wroteAt (c d : Chip) (keys : List Nat) (n : Nat) : Prop where
  frame : d = { c with regs := d.regs, shadow := d.shadow, evr := d.evr, hif := { c.hif with writers := d.hif.writers } }
  force : ∀ x, x ∉ keys → d.inForce x = c.inForce x
  shadow : ∀ x, x ∉ keys → d.shadowed x = c.shadowed x
  intake : d.evr.intake.length ≤ c.evr.intake.length + n

namespace Chip.wroteAt

variable {a c d : Chip} {keys more : List Nat} {n m : Nat}

theorem refl (c : Chip) (keys : List Nat) (n : Nat) : c.wroteAt c keys n := ⟨rfl, fun _ _ => rfl, fun _ _ => rfl, by omega⟩

theorem trans (h : a.wroteAt c keys n) (g : c.wroteAt d more m) : a.wroteAt d (keys ++ more) (n + m) := by
  obtain ⟨h1, h2, h3, h4⟩ := h
  obtain ⟨g1, g2, g3, g4⟩ := g
  refine ⟨?_, fun x hx => ?_, fun x hx => ?_, by omega⟩
  · rw [g1, h1]
  · simp only [List.mem_append, not_or] at hx
    rw [g2 x hx.2, h2 x hx.1]
  · simp only [List.mem_append, not_or] at hx
    rw [g3 x hx.2, h3 x hx.1]

theorem mono (h : c.wroteAt d keys n) (hk : keys ⊆ more) (hn : n ≤ m) : c.wroteAt d more m :=
  ⟨h.frame, fun x hx => h.force x fun hm => hx (hk hm), fun x hx => h.shadow x fun hm => hx (hk hm), h.intake.trans (by omega)⟩

end Chip.wroteAt

/-- A record of a refused write. -/
theorem Chip.raise_wroteAt {c : Chip} {code src : Nat} {items : List (Nat × Nat)} (hl : limitable code = false)
    (hroom : c.evr.intake.length < 256) (keys : List Nat) : c.wroteAt (c.raise code src items) keys 1 := by
  have hraise : (c.raise code src items).regs = c.regs ∧ (c.raise code src items).evr.intake.length ≤ c.evr.intake.length + 1 ∧
      c.raise code src items = { c with regs := c.regs, evr := (c.raise code src items).evr } := by
    simp only [Chip.raise, hl, Bool.false_and, Bool.false_or, decide_eq_true_eq, Bool.false_eq_true, if_false,
      if_neg (Nat.not_le.2 hroom)]
    split_ifs
    · exact ⟨rfl, by simp, rfl⟩
    · exact ⟨rfl, Nat.le_succ _, rfl⟩
    · exact ⟨rfl, Nat.le_succ _, rfl⟩
  obtain ⟨hregs, hlen, hframe⟩ := hraise
  have hforce : ∀ x, (c.raise code src items).inForce x = c.inForce x := fun x => by rw [Chip.inForce, hregs]; rfl
  refine ⟨?_, fun x _ => hforce x, fun x _ => Chip.shadowed_congr ?_ (hforce x), hlen⟩
  · rw [hframe]
  · rw [Chip.raise_shadow]

theorem Chip.setKey_wroteAt (c : Chip) (k v : Nat) : c.wroteAt (c.setKey k v) [k] 0 := by
  have hforce : ∀ x, x ∉ [k] → (c.setKey k v).inForce x = c.inForce x := by
    intro x hx
    simp only [Chip.inForce, Chip.setKey]
    rw [SMap.get_set_other (by simpa using hx)]
  exact ⟨rfl, hforce, fun x hx => Chip.shadowed_congr rfl (hforce x hx), Nat.le_refl _⟩

theorem Chip.setShadow_wroteAt (c : Chip) (k v w : Nat) : c.wroteAt (c.setShadow k v w) [k] 0 := by
  refine ⟨rfl, fun x _ => rfl, fun x hx => Chip.shadowed_congr ?_ rfl, Nat.le_refl _⟩
  simp only [Chip.setShadow]
  rw [SMap.get_set_other (by simpa using hx)]

/-! ### One field -/

theorem WriteKind.value_zero {k : WriteKind} (hk : k ≠ .plain) (old : Nat) : k.value old 0 = old := by
  cases k <;> simp_all [WriteKind.value]

theorem WriteKind.value_lt {k : WriteKind} {old part : Nat} (hold : old < 2 ^ 32) (hpart : part < 2 ^ 32) :
    k.value old part < 2 ^ 32 := by
  cases k with
  | plain => exact hpart
  | set => exact Nat.or_lt_two_pow hold hpart
  | clr => exact lt_of_le_of_lt (Nat.sub_le _ _) hold
  | tgl => exact Nat.xor_lt_two_pow hold hpart

/-- What a write of `part` to a field has made of the value `s` that the driver sees there and of the value `i` in force. -/
def FieldRow.outcome (f : FieldRow) (before : Chip) (r : RegId) (idx : List Nat) (k : WriteKind) (part s i s' i' : Nat) : Prop :=
  (f.acc = .rw ∨ f.acc = .rwl → f.legal = .any →
    (before.locked f.lock idx = false → s' = k.value s part) ∧ (before.locked f.lock idx = true → s' = s)) ∧
  (f.acc = .rw ∨ f.acc = .rwl → ∀ a b, f.legal = .range a b → k.value s part < a ∨ b < k.value s part → s' = s) ∧
  (r.row.cfg = true → r ≠ .SLU_GCL_CFG → i' = i) ∧
  (f.acc = .ro ∨ f.acc = .rc → i' = i) ∧
  (f.acc = .w1c → r.row.cfg = false → i' = if k = .plain ∨ k = .clr then i - (i &&& part) else i)

/-- What the driver sees of a field (R510). -/
def Chip.seen (c : Chip) (r : RegId) (key : Nat) : Nat := if r.row.cfg then c.shadowed key else c.inForce key

/-- The CFG registers hold configuration alone, but for the commands of a gate list. -/
theorem cfg_fields (r : RegId) (hr : r.row.cfg = true) (hne : r ≠ .SLU_GCL_CFG) :
    ∀ f ∈ r.row.fields, f.acc ≠ .wo ∧ f.acc ≠ .w1c ∧ f.acc ≠ .w1s := by
  revert hr hne
  cases r <;> decide

section
variable (x : RegWrite) (before : Chip) (r : RegId) (idx : List Nat) (k : WriteKind) (v w : Nat) (f : FieldRow)

/-- The part of the word that a field takes. -/
def FieldRow.part (f : FieldRow) (v : Nat) : Nat := v / 2 ^ f.lo % 2 ^ f.w

/-- A write of kind `k` reaches the field: the aliases only where a bit of theirs is 1. -/
def FieldRow.reached (f : FieldRow) (k : WriteKind) (v : Nat) : Bool := decide (k = .plain) || decide (f.part v ≠ 0)

/-- A masked write of no bit leaves a field alone. -/
theorem RegWrite.field_nothing (hk : k ≠ .plain) (hp : f.part v = 0) : x.field before r idx k v w f = x := by
  have hp' : v / 2 ^ f.lo % 2 ^ f.w = 0 := hp
  simp only [RegWrite.field, hp', decide_true, Bool.and_true, decide_eq_true_eq]
  exact if_pos hk

theorem RegWrite.store_wroteAt (part : Nat) (hroom : x.chip.evr.intake.length < 256) :
    x.chip.wroteAt (x.store before r idx k v w f part).chip [fieldKey (r.row.offset idx) f.lo] 1 := by
  have hrefuse : x.chip.wroteAt (x.chip.cfgReject (r.row.offset idx) v w) [fieldKey (r.row.offset idx) f.lo] 1 :=
    Chip.raise_wroteAt (by decide) hroom _
  have hsame : x.chip.wroteAt x.chip [fieldKey (r.row.offset idx) f.lo] 1 := .refl _ _ _
  simp only [RegWrite.store]
  generalize (if r.row.cfg then x.chip.shadowed _ else x.chip.inForce _) = old
  refine ite_cases (P := fun y : RegWrite => x.chip.wroteAt y.chip _ _) (ite_cases (P := fun y : RegWrite => x.chip.wroteAt y.chip _ _)
    hsame (ite_cases (P := fun y : RegWrite => x.chip.wroteAt y.chip _ _) hrefuse hsame)) ?_
  refine ite_cases (P := fun y : RegWrite => x.chip.wroteAt y.chip _ _) hrefuse
    (ite_cases (P := fun y : RegWrite => x.chip.wroteAt y.chip _ _) ?_ ?_)
  · exact (Chip.setShadow_wroteAt _ _ _ _).mono (List.Subset.refl _) (by omega)
  · exact (Chip.setKey_wroteAt _ _ _).mono (List.Subset.refl _) (by omega)

theorem RegWrite.field_wroteAt (hroom : x.chip.evr.intake.length < 256) :
    x.chip.wroteAt (x.field before r idx k v w f).chip
      (if f.reached k v then [fieldKey (r.row.offset idx) f.lo] else []) 1 := by
  by_cases hnone : k ≠ .plain ∧ f.part v = 0
  · rw [x.field_nothing before r idx k v w f hnone.1 hnone.2]
    exact .refl _ _ _
  rw [if_pos (by simp only [FieldRow.reached, Bool.or_eq_true, decide_eq_true_eq]; tauto)]
  have hset : ∀ n, x.chip.wroteAt (x.chip.setKey (fieldKey (r.row.offset idx) f.lo) n) [fieldKey (r.row.offset idx) f.lo] 1 :=
    fun n => (Chip.setKey_wroteAt _ _ _).mono (List.Subset.refl _) (by omega)
  simp only [RegWrite.field]
  refine ite_cases (P := fun y : RegWrite => x.chip.wroteAt y.chip _ _) (.refl _ _ _) ?_
  cases f.acc with
  | rw => exact x.store_wroteAt before r idx k v w f _ hroom
  | rwl => exact x.store_wroteAt before r idx k v w f _ hroom
  | ro => exact .refl _ _ _
  | rc => exact .refl _ _ _
  | wo => exact ite_cases (P := fun y : RegWrite => x.chip.wroteAt y.chip _ _) (hset _) (.refl _ _ _)
  | w1c => exact ite_cases (P := fun y : RegWrite => x.chip.wroteAt y.chip _ _) (hset _) (.refl _ _ _)
  | w1s =>
    refine ite_cases (P := fun y : RegWrite => x.chip.wroteAt y.chip _ _) (.refl _ _ _)
      (ite_cases (P := fun y : RegWrite => x.chip.wroteAt y.chip _ _) (.refl _ _ _) ?_)
    exact Chip.when_induct (P := fun y => x.chip.wroteAt y [fieldKey (r.row.offset idx) f.lo] 1)
      (f := fun c => c.setKey (fieldKey (r.row.offset idx) f.lo) 1) (lasting r f.lo) (.refl _ _ _) fun _ => hset 1

/-- A record of a refused write changes no register. -/
theorem Chip.cfgReject_same {c : Chip} (hroom : c.evr.intake.length < 256) (off n w key : Nat) :
    (c.cfgReject off n w).seen r key = c.seen r key ∧ (c.cfgReject off n w).inForce key = c.inForce key := by
  have h : c.wroteAt (c.cfgReject off n w) [] 1 := Chip.raise_wroteAt (by decide) hroom _
  refine ⟨?_, h.force key (by simp)⟩
  simp only [Chip.seen, h.force key (by simp), h.shadow key (by simp)]

/-- A locked field. -/
theorem RegWrite.store_locked (part : Nat) (hroom : x.chip.evr.intake.length < 256) (hl : before.locked f.lock idx = true)
    (key : Nat) :
    (x.store before r idx k v w f part).chip.seen r key = x.chip.seen r key ∧
      (x.store before r idx k v w f part).chip.inForce key = x.chip.inForce key := by
  simp only [RegWrite.store, hl, if_true]
  exact ite_cases (P := fun y : RegWrite => y.chip.seen r key = x.chip.seen r key ∧ y.chip.inForce key = x.chip.inForce key)
    ⟨rfl, rfl⟩ (ite_cases (P := fun y : RegWrite => y.chip.seen r key = x.chip.seen r key ∧ y.chip.inForce key = x.chip.inForce key)
      (Chip.cfgReject_same r hroom _ _ _ _) ⟨rfl, rfl⟩)

/-- An encoding that is no value of the field. -/
theorem RegWrite.store_illegal (part : Nat) (hroom : x.chip.evr.intake.length < 256) (hl : before.locked f.lock idx = false)
    (hbad : x.chip.legal f.legal r idx f.lo (k.value (x.chip.seen r (fieldKey (r.row.offset idx) f.lo)) part) = false) (key : Nat) :
    (x.store before r idx k v w f part).chip.seen r key = x.chip.seen r key ∧
      (x.store before r idx k v w f part).chip.inForce key = x.chip.inForce key := by
  rw [Chip.seen] at hbad
  simp only [RegWrite.store, hl, hbad, Bool.false_eq_true, if_false, Bool.not_false, if_true]
  exact Chip.cfgReject_same r hroom _ _ _ _

/-- A field that takes its value. -/
theorem RegWrite.store_taken (part : Nat) (hpart : part < 2 ^ 32) (hl : before.locked f.lock idx = false)
    (hok : x.chip.legal f.legal r idx f.lo (k.value (x.chip.seen r (fieldKey (r.row.offset idx) f.lo)) part) = true) :
    (x.store before r idx k v w f part).chip.seen r (fieldKey (r.row.offset idx) f.lo) =
      k.value (x.chip.seen r (fieldKey (r.row.offset idx) f.lo)) part := by
  simp only [Chip.seen] at hok ⊢
  simp only [RegWrite.store, hl, hok, Bool.false_eq_true, if_false, Bool.not_true]
  cases hc : r.row.cfg
  · simp only [Bool.false_eq_true, if_false]
    rw [Chip.inForce_setKey (WriteKind.value_lt (x.chip.inForce_lt _) hpart), if_pos rfl]
  · simp only [if_true]
    rw [Chip.shadowed_setShadow (WriteKind.value_lt (x.chip.shadowed_lt _) hpart), if_pos rfl]

/-- What is staged is not in force. -/
theorem RegWrite.store_cfg (part : Nat) (hroom : x.chip.evr.intake.length < 256) (hc : r.row.cfg = true) (key : Nat) :
    (x.store before r idx k v w f part).chip.inForce key = x.chip.inForce key := by
  cases hl : before.locked f.lock idx with
  | true => exact (x.store_locked before r idx k v w f part hroom hl key).2
  | false =>
    cases hok : x.chip.legal f.legal r idx f.lo (k.value (x.chip.seen r (fieldKey (r.row.offset idx) f.lo)) part) with
    | false => exact (x.store_illegal before r idx k v w f part hroom hl hok key).2
    | true =>
      rw [Chip.seen] at hok
      simp only [RegWrite.store, hl, hok, Bool.false_eq_true, if_false, Bool.not_true]
      rw [hc]
      rfl

theorem RegWrite.store_outcome (part : Nat) (hroom : x.chip.evr.intake.length < 256) (hpart : part < 2 ^ 32)
    (hacc : f.acc = .rw ∨ f.acc = .rwl) {y : RegWrite} (hy : x.store before r idx k v w f part = y) :
    f.outcome before r idx k part (x.chip.seen r (fieldKey (r.row.offset idx) f.lo))
      (x.chip.inForce (fieldKey (r.row.offset idx) f.lo)) (y.chip.seen r (fieldKey (r.row.offset idx) f.lo))
      (y.chip.inForce (fieldKey (r.row.offset idx) f.lo)) := by
  subst hy
  refine ⟨fun _ hany => ⟨fun hl => ?_, fun hl => ?_⟩, fun _ a b hrange hout => ?_, fun hc _ => ?_, fun hro => ?_, fun hw => ?_⟩
  · exact x.store_taken before r idx k v w f part hpart hl (by rw [hany]; rfl)
  · exact (x.store_locked before r idx k v w f part hroom hl _).1
  · cases hl : before.locked f.lock idx with
    | true => exact (x.store_locked before r idx k v w f part hroom hl _).1
    | false =>
      refine (x.store_illegal before r idx k v w f part hroom hl ?_ _).1
      rw [hrange]
      simp only [Chip.legal, Bool.and_eq_false_iff, decide_eq_false_iff_not, not_le]
      exact hout
  · exact x.store_cfg before r idx k v w f part hroom hc _
  · rcases hacc with h | h <;> simp [h] at hro
  · rcases hacc with h | h <;> simp [h] at hw

/-- A field that its write leaves alone. -/
theorem FieldRow.outcome_same {f : FieldRow} {before : Chip} {r : RegId} {idx : List Nat} {k : WriteKind} {s i : Nat}
    (hk : k ≠ .plain) : f.outcome before r idx k 0 s i s i :=
  ⟨fun _ _ => ⟨fun _ => (WriteKind.value_zero hk s).symm, fun _ => rfl⟩, fun _ _ _ _ _ => rfl, fun _ _ => rfl, fun _ => rfl,
    fun _ _ => by simp⟩

theorem RegWrite.field_outcome (hf : f ∈ r.row.fields) (hroom : x.chip.evr.intake.length < 256) {y : RegWrite}
    (hy : x.field before r idx k v w f = y) :
    f.outcome before r idx k (f.part v) (x.chip.seen r (fieldKey (r.row.offset idx) f.lo))
      (x.chip.inForce (fieldKey (r.row.offset idx) f.lo)) (y.chip.seen r (fieldKey (r.row.offset idx) f.lo))
      (y.chip.inForce (fieldKey (r.row.offset idx) f.lo)) := by
  have hpart : f.part v < 2 ^ 32 := by
    have hw := ((fields_apart r).2 f hf).2
    exact lt_of_lt_of_le (Nat.mod_lt _ (Nat.two_pow_pos _)) (Nat.pow_le_pow_right (by decide) (by omega))
  by_cases hnone : k ≠ .plain ∧ f.part v = 0
  · rw [x.field_nothing before r idx k v w f hnone.1 hnone.2] at hy
    rw [← hy, hnone.2]
    exact FieldRow.outcome_same hnone.1
  · have hgo : x.field before r idx k v w f = match f.acc with
      | .ro | .rc => x
      | .wo => if k = .plain then { x with
          chip := x.chip.setKey (fieldKey (r.row.offset idx) f.lo) (f.part v), acts := x.acts ++ [(f.lo, 0, f.part v)] } else x
      | .w1s =>
        if !(k = .plain || k = .set) || f.part v = 0 then x
        else if before.locked f.lock idx then { x with viol := true }
        else { x with
          chip := x.chip.when (lasting r f.lo) fun c => c.setKey (fieldKey (r.row.offset idx) f.lo) 1,
          acts := x.acts ++ [(f.lo, 0, f.part v)] }
      | .w1c =>
        if k = .plain || k = .clr then { x with
          chip := x.chip.setKey (fieldKey (r.row.offset idx) f.lo)
            (WriteKind.clr.value (x.chip.inForce (fieldKey (r.row.offset idx) f.lo)) (f.part v)) } else x
      | .rw | .rwl => x.store before r idx k v w f (f.part v) := by
      simp only [RegWrite.field]
      exact if_neg (by rw [Bool.and_eq_true, decide_eq_true_eq, decide_eq_true_eq]; exact hnone)
    rw [hgo] at hy
    have hcmd : r.row.cfg = true → r ≠ .SLU_GCL_CFG → f.acc ≠ .wo ∧ f.acc ≠ .w1c ∧ f.acc ≠ .w1s :=
      fun hc hne => cfg_fields r hc hne f hf
    cases hacc : f.acc with
    | rw => exact x.store_outcome before r idx k v w f _ hroom hpart (.inl hacc) (by rw [hacc] at hy; exact hy)
    | rwl => exact x.store_outcome before r idx k v w f _ hroom hpart (.inr hacc) (by rw [hacc] at hy; exact hy)
    | ro =>
      rw [hacc] at hy
      subst hy
      exact ⟨by simp [hacc], by simp [hacc], fun _ _ => rfl, fun _ => rfl, by simp [hacc]⟩
    | rc =>
      rw [hacc] at hy
      subst hy
      exact ⟨by simp [hacc], by simp [hacc], fun _ _ => rfl, fun _ => rfl, by simp [hacc]⟩
    | wo => exact ⟨by simp [hacc], by simp [hacc], fun hc hne => absurd hacc (hcmd hc hne).1, by simp [hacc], by simp [hacc]⟩
    | w1s => exact ⟨by simp [hacc], by simp [hacc], fun hc hne => absurd hacc (hcmd hc hne).2.2, by simp [hacc], by simp [hacc]⟩
    | w1c =>
      rw [hacc] at hy
      refine ⟨by simp [hacc], by simp [hacc], fun hc hne => absurd hacc (hcmd hc hne).2.1, by simp [hacc], fun _ _ => ?_⟩
      subst hy
      by_cases hk : k = .plain ∨ k = .clr
      · simp only [hk, if_true, Bool.or_eq_true, decide_eq_true_eq]
        rw [Chip.inForce_setKey (WriteKind.value_lt (x.chip.inForce_lt _) hpart), if_pos rfl]
        rfl
      · simp only [hk, if_false, Bool.or_eq_true, decide_eq_true_eq]

end

/-! ### A write of a register -/

theorem Chip.wroteAt.seen_eq {c d : Chip} {keys : List Nat} {n key : Nat} (h : c.wroteAt d keys n) (hkey : key ∉ keys) (r : RegId) :
    d.seen r key = c.seen r key := by
  simp only [Chip.seen, h.force key hkey, h.shadow key hkey]

section
variable (before : Chip) (r : RegId) (idx : List Nat) (k : WriteKind) (v w : Nat)

/-- The fields of a list, each reached in its turn. -/
theorem RegWrite.fields_spec (l : List FieldRow) (x : RegWrite) (hl : ∀ f ∈ l, f ∈ r.row.fields)
    (hord : l.Pairwise fun a b => a.lo + a.w ≤ b.lo) (hroom : x.chip.evr.intake.length + l.length ≤ 256) :
    let y := l.foldl (fun (x : RegWrite) f => x.field before r idx k v w f) x
    x.chip.wroteAt y.chip ((l.filter fun f => f.reached k v).map fun f => fieldKey (r.row.offset idx) f.lo) l.length ∧
      ∀ f ∈ l, f.outcome before r idx k (f.part v) (x.chip.seen r (fieldKey (r.row.offset idx) f.lo))
        (x.chip.inForce (fieldKey (r.row.offset idx) f.lo)) (y.chip.seen r (fieldKey (r.row.offset idx) f.lo))
        (y.chip.inForce (fieldKey (r.row.offset idx) f.lo)) := by
  induction l generalizing x with
  | nil => exact ⟨.refl _ _ _, by simp⟩
  | cons f l ih =>
    obtain ⟨hfirst, hrest⟩ := List.pairwise_cons.1 hord
    obtain ⟨y, hy⟩ : ∃ y, x.field before r idx k v w f = y := ⟨_, rfl⟩
    have hlen : x.chip.evr.intake.length + (l.length + 1) ≤ 256 := by simpa using hroom
    have hstep : x.chip.wroteAt y.chip (if f.reached k v then [fieldKey (r.row.offset idx) f.lo] else []) 1 :=
      hy ▸ x.field_wroteAt before r idx k v w f (by omega)
    obtain ⟨hgo, hout⟩ := ih y (fun g hg => hl g (List.mem_cons_of_mem _ hg)) hrest (by have := hstep.intake; omega)
    have hpos : 0 < f.w := ((fields_apart r).2 f (hl f List.mem_cons_self)).1
    have hapart : ∀ g ∈ l, fieldKey (r.row.offset idx) g.lo ≠ fieldKey (r.row.offset idx) f.lo := by
      intro g hg heq
      have := hfirst g hg
      have := fieldKey_inj heq
      omega
    simp only [List.foldl_cons, hy]
    refine ⟨(hstep.trans hgo).mono (fun n hn => ?_) (by rw [List.length_cons]; omega), fun g hg => ?_⟩
    · rw [List.filter_cons]
      split_ifs with hreach <;> simpa [hreach] using hn
    rcases List.mem_cons.1 hg with rfl | hg
    · have hkey : fieldKey (r.row.offset idx) g.lo ∉
          (l.filter fun f => f.reached k v).map fun f => fieldKey (r.row.offset idx) f.lo := by
        simp only [List.mem_map, not_exists, not_and]
        exact fun f hf => hapart f (List.mem_of_mem_filter hf)
      rw [hgo.seen_eq hkey, hgo.force _ hkey]
      exact x.field_outcome before r idx k v w g (hl g List.mem_cons_self) (by omega) hy
    · have hkey : fieldKey (r.row.offset idx) g.lo ∉ (if f.reached k v then [fieldKey (r.row.offset idx) f.lo] else []) := by
        split_ifs
        · simpa using hapart g hg
        · simp
      have := hout g hg
      rwa [hstep.seen_eq hkey, hstep.force _ hkey] at this

end

/-- What follows a write of register `r`: the record of a lock, and what the values start. -/
def Chip.afterFields (r : RegId) (idx : List Nat) (off v writer : Nat) (x : RegWrite) : Chip :=
  let c := x.chip.when x.viol fun c => c.lockViol off v writer
  if r = .SYS_COMMIT then (if (Sys2Proof.Machine.wrote x.acts 0).isSome then c.commitGo v writer else c)
  else (c.startedCtl r idx x.acts).startedBlock r idx x.acts writer

theorem Chip.regWrite_of {off : Nat} {r : RegId} {idx : List Nat} (h : lookupReg off = some (r, idx)) (c : Chip) (k : WriteKind)
    (v w : Nat) :
    c.regWrite k off v w = Chip.afterFields r idx off v w
      (r.row.fields.foldl (fun (x : RegWrite) f => x.field c r idx k v w f) { chip := c }) := by
  simp only [Chip.regWrite, h]
  rfl

/-- The values of a register whose fields start nothing. -/
theorem Chip.regWrite_spec {off : Nat} {r : RegId} {idx : List Nat} {c : Chip} (h : lookupReg off = some (r, idx))
    (hne : r ≠ .SYS_COMMIT) (hroom : c.evr.intake.length + 40 ≤ 256)
    (hquiet : ∀ (d : Chip) (acts : List (Nat × Nat × Nat)) (w : Nat), (d.startedCtl r idx acts).startedBlock r idx acts w = d)
    (k : WriteKind) (v w : Nat) :
    c.wroteAt (c.regWrite k off v w) ((r.row.fields.filter fun f => f.reached k v).map fun f => fieldKey off f.lo) 33 ∧
      ∀ f ∈ r.row.fields, f.outcome c r idx k (f.part v) (c.seen r (fieldKey off f.lo)) (c.inForce (fieldKey off f.lo))
        ((c.regWrite k off v w).seen r (fieldKey off f.lo)) ((c.regWrite k off v w).inForce (fieldKey off f.lo)) := by
  have hoff := offset_of_lookupReg h
  have hcount : r.row.fields.length ≤ 32 := by
    clear h hne hroom hquiet hoff
    cases r <;> decide
  obtain ⟨x, hx⟩ : ∃ x, r.row.fields.foldl (fun (x : RegWrite) f => x.field c r idx k v w f) { chip := c } = x := ⟨_, rfl⟩
  obtain ⟨hgo, hout⟩ := RegWrite.fields_spec c r idx k v w r.row.fields { chip := c } (fun _ hf => hf) (fields_apart r).1
    (show c.evr.intake.length + _ ≤ 256 by omega)
  simp only [hx, hoff] at hgo hout
  have hlast : x.chip.wroteAt (x.chip.when x.viol fun c => c.lockViol off v w) [] 1 := by
    refine Chip.when_induct (P := fun y => x.chip.wroteAt y [] 1) _ (.refl _ _ _) fun _ => ?_
    refine Chip.raise_wroteAt (by decide) ?_ _
    have hlen : x.chip.evr.intake.length ≤ c.evr.intake.length + r.row.fields.length := hgo.intake
    omega
  have hd : c.regWrite k off v w = x.chip.when x.viol fun c => c.lockViol off v w := by
    rw [Chip.regWrite_of h, hx, Chip.afterFields]
    simp only [if_neg hne, hquiet]
  rw [hd]
  refine ⟨(hgo.trans hlast).mono (by simp) (by omega), fun f hf => ?_⟩
  rw [hlast.seen_eq (by simp), hlast.force _ (by simp)]
  exact hout f hf

/-- A register whose fields start nothing is not the gate list's. -/
theorem ne_gclCfg_of_quiet {r : RegId} {idx : List Nat}
    (hquiet : ∀ (d : Chip) (acts : List (Nat × Nat × Nat)) (w : Nat), (d.startedCtl r idx acts).startedBlock r idx acts w = d) :
    r ≠ .SLU_GCL_CFG := by
  rintro rfl
  have h : [idx.headD 0] = [] := congrArg (fun d : Chip => d.slu.swapAsked) (hquiet {} [(2, 0, 1)] 0)
  exact List.cons_ne_nil _ _ h

theorem Chip.takesWrite.pf0Write {c : Chip} {off : Nat} (h : c.takesWrite off) (k : WriteKind) (v : Nat) :
    c.pf0Write k off v = c.regWrite k off v 0 := by
  obtain ⟨hrun, halign, hlow, hide, hans, hring⟩ := h
  simp only [Chip.pf0Write, hrun, halign, Nat.not_le.2 hlow, hide, hans, hring, decide_false, Bool.or_self, Bool.not_true, Bool.false_eq_true,
    if_false, ne_eq, not_true_eq_false]

theorem Chip.takesWrite.hostWrite {c : Chip} {off v : Word} (h : c.takesWrite off.toNat) :
    c.hostWrite 0 .bar0 off.toNat 4 v = c.regWrite .plain off.toNat v.toNat 0 := by
  have hgo := h.pf0Write .plain v.toNat
  obtain ⟨hrun, halign, hlow, -, -, -⟩ := h
  simp only [Chip.hostWrite, hrun, halign, Nat.div_eq_of_lt hlow, Nat.mod_eq_of_lt hlow, decide_false, Bool.or_self, Bool.not_true,
    Bool.false_eq_true, if_false, ne_eq, not_true_eq_false, if_true]
  exact hgo

/-! ### A bit of a field -/

/-- Of the bit `b` of a register a field takes its own bit, or nothing. -/
theorem FieldRow.part_bit (f : FieldRow) (b : Nat) :
    f.part (2 ^ b) = if f.lo ≤ b ∧ b < f.lo + f.w then 2 ^ (b - f.lo) else 0 := by
  simp only [FieldRow.part]
  split_ifs with h
  · rw [Nat.pow_div h.1 (by decide), Nat.mod_eq_of_lt]
    exact Nat.pow_lt_pow_right (by decide) (by omega)
  · by_cases hlo : f.lo ≤ b
    · rw [Nat.pow_div hlo (by decide)]
      exact Nat.mod_eq_zero_of_dvd (Nat.pow_dvd_pow 2 (by omega))
    · rw [Nat.div_eq_of_lt (Nat.pow_lt_pow_right (by decide) (by omega))]
      rfl

/-- A bit stands in one of the fields that lie one above the other. -/
theorem field_unique {l : List FieldRow} (hl : l.Pairwise fun a b => a.lo + a.w ≤ b.lo) {f g : FieldRow} {b : Nat} (hf : f ∈ l)
    (hg : g ∈ l) (hfb : f.lo ≤ b ∧ b < f.lo + f.w) (hgb : g.lo ≤ b ∧ b < g.lo + g.w) : g = f := by
  induction l with
  | nil => exact absurd hf List.not_mem_nil
  | cons a l ih =>
    obtain ⟨hfirst, hrest⟩ := List.pairwise_cons.1 hl
    rcases List.mem_cons.1 hf with rfl | hf' <;> rcases List.mem_cons.1 hg with rfl | hg'
    · rfl
    · have := hfirst g hg'
      omega
    · have := hfirst f hf'
      omega
    · exact ih hrest hf' hg'

/-- The field of a bit, by the bit's own address. -/
theorem find_field {r : RegId} {f : FieldRow} {b : Nat} (hf : f ∈ r.row.fields) (hfb : f.lo ≤ b ∧ b < f.lo + f.w) :
    (r.row.fields.find? fun f => f.lo ≤ b && b < f.lo + f.w) = some f := by
  have hsome : (r.row.fields.find? fun f => f.lo ≤ b && b < f.lo + f.w).isSome :=
    List.find?_isSome.2 ⟨f, hf, by simp [hfb.1, hfb.2]⟩
  obtain ⟨g, hg⟩ := Option.isSome_iff_exists.1 hsome
  have hbit := List.find?_some hg
  simp only [Bool.and_eq_true, decide_eq_true_eq] at hbit
  rw [hg, field_unique (fields_apart r).1 hf (List.mem_of_find?_eq_some hg) hfb hbit]

/-- A write of one bit reaches its field alone. -/
theorem reached_bit {r : RegId} {f : FieldRow} {k : WriteKind} {b : Nat} (hk : k ≠ .plain) (hf : f ∈ r.row.fields)
    (hfb : f.lo ≤ b ∧ b < f.lo + f.w) (g : FieldRow) (hg : g ∈ r.row.fields.filter fun f => f.reached k (2 ^ b)) : g = f := by
  obtain ⟨hmem, hreach⟩ := List.mem_filter.1 hg
  refine field_unique (fields_apart r).1 hf hmem hfb ?_
  by_contra hno
  simp [FieldRow.reached, hk, FieldRow.part_bit, if_neg hno] at hreach

/-! ### The obligation -/

/-- Settles O19: the fields of a register are reached one after the other, each at its own key. -/
theorem registerWrites : Obligations.RegisterWrites := by
  unfold Obligations.RegisterWrites
  intro s off v r idx c o htakes hlook hne hroom hquiet inForceOf seen written
  have hwrite : ∀ k : WriteKind, written k (c.regWrite k o v.toNat 0) := by
    intro k
    obtain ⟨hat, hout⟩ := Chip.regWrite_spec hlook hne hroom hquiet k v.toNat 0
    refine ⟨hat.frame, fun x hx => ?_, fun f hf => ?_⟩
    · have hkey : x ∉ (r.row.fields.filter fun f => f.reached k v.toNat).map fun f => fieldKey o f.lo := by
        simp only [List.mem_map, not_exists, not_and]
        rintro f hf rfl
        have := (fields_apart r).2 f (List.mem_of_mem_filter hf)
        exact hx (fieldKey_div (by omega))
      exact ⟨hat.force x hkey, hat.shadow x hkey⟩
    · obtain ⟨hany, hrange, hcfg, hro, hw1c⟩ := hout f hf
      exact ⟨hany, hrange, fun h => hcfg h (ne_gclCfg_of_quiet hquiet), hro, hw1c⟩
  have hbit : ∀ at' one : Word, at'.toNat % 4 = 0 → at'.toNat < 0x800000 → at'.toNat / 128 * 4 = o → ∀ f ∈ r.row.fields,
      f.lo ≤ at'.toNat / 4 % 32 → at'.toNat / 4 % 32 < f.lo + f.w → f.acc = .rw →
      c.bitWrite at'.toNat 4 (one.getLsbD 0) =
        c.regWrite (if one.getLsbD 0 then .set else .clr) o (2 ^ (at'.toNat / 4 % 32)) 0 := by
    intro at' one halign hlow hat f hf hlo hhi hacc
    obtain ⟨hrun, -, -, hide, hans, hring⟩ := htakes
    have hw1 : f.acc ≠ .w1c ∧ f.acc ≠ .w1s := by simp [hacc]
    simp only [Chip.bitWrite, hat, hlook, find_field hf ⟨hlo, hhi⟩, hrun, halign, Nat.not_le.2 hlow, hide, hans, hring,
      if_neg hw1.1, if_neg hw1.2, decide_false, Bool.or_self, Bool.not_true, Bool.false_eq_true, if_false, ne_eq,
      not_true_eq_false]
  refine ⟨?_, ?_, ?_, ?_, fun at' one halign hlow hat f hf => ?_, fun at' one bytes hbad => ?_⟩
  · exact completes_eq (f := fun c => c.hostWrite 0 .bar0 off.toNat 4 v) rfl htakes.hostWrite (hwrite .plain)
      (congrArg (fun d => d.vlt.owners) (hwrite .plain).1)
  · exact completes_eq (f := fun c => c.pf0Write .set off.toNat v.toNat) rfl (htakes.pf0Write _ _) (hwrite .set)
      (congrArg (fun d => d.vlt.owners) (hwrite .set).1)
  · exact completes_eq (f := fun c => c.pf0Write .clr off.toNat v.toNat) rfl (htakes.pf0Write _ _) (hwrite .clr)
      (congrArg (fun d => d.vlt.owners) (hwrite .clr).1)
  · exact completes_eq (f := fun c => c.pf0Write .tgl off.toNat v.toNat) rfl (htakes.pf0Write _ _) (hwrite .tgl)
      (congrArg (fun d => d.vlt.owners) (hwrite .tgl).1)
  · intro b hlo hhi hacc hany hopen
    have hk : (if one.getLsbD 0 then WriteKind.set else .clr) ≠ .plain := by split_ifs <;> decide
    obtain ⟨hwr, hout⟩ := Chip.regWrite_spec hlook hne hroom hquiet (if one.getLsbD 0 then .set else .clr) (2 ^ b) 0
    refine completes_eq (f := fun c => c.bitWrite at'.toNat 4 (one.getLsbD 0)) rfl (hbit at' one halign hlow hat f hf hlo hhi hacc)
      ⟨?_, fun x hx => ?_⟩ (congrArg (fun d => d.vlt.owners) hwr.frame)
    · have hval := ((hout f hf).1 (.inl hacc) hany).1 (by rw [hopen]; rfl)
      rw [FieldRow.part_bit, if_pos (show f.lo ≤ b ∧ b < f.lo + f.w from ⟨hlo, hhi⟩)] at hval
      refine hval.trans ?_
      cases one.getLsbD 0 <;> rfl
    · have hkey : x ∉ (r.row.fields.filter fun g => g.reached (if one.getLsbD 0 then .set else .clr) (2 ^ b)).map
          fun f => fieldKey o f.lo := by
        simp only [List.mem_map, not_exists, not_and]
        rintro g hg rfl
        exact hx (congrArg (fun f : FieldRow => fieldKey o f.lo) (reached_bit hk hf ⟨hlo, hhi⟩ g hg))
      exact ⟨hwr.force x hkey, hwr.shadow x hkey⟩
  · refine completes_eq (f := fun c => c.bitWrite at'.toNat bytes (one.getLsbD 0)) rfl (d := c.unsupported) ?_ rfl rfl
    have hcond : (bytes ≠ 4 || at'.toNat % 4 ≠ 0 || 0x800000 ≤ at'.toNat || c.ideRefuses (at'.toNat / 128 * 4)) = true := by
      simp only [Bool.or_eq_true, decide_eq_true_eq]
      exact .inl (.inl hbad)
    simp only [Chip.bitWrite]
    exact (if_neg (by rw [htakes.1]; decide)).trans (if_pos hcond)

end Sys2Proof.Machine

/-! PROOFS. COMMIT of staged registers (R510 to R515). -/
namespace Sys2Proof.Machine

/-! ### The state of a gate list that no port has -/

/-- The status bit of a gate list of scheduler port 32768 stands, by the array's stride, at the key of another block. -/
def strayKey : Nat := F.SLU_GCL_STAT_running.key [32768]

/-- A block in ACTIVE that keeps a gate list for that port, with a value staged at the key. -/
def strayList : State := {
  chip := { ctl := { mode := .active }, shadow := [(strayKey, some 2)], slu := { lists := [(32768, some {})] } } }

/-- The COMMIT writes the status of every list after the staged values. -/
theorem configCommit_strayList : completes .configCommit strayList fun d => d.inForce strayKey ≠ 2 := by
  rw [completes_iff rfl]
  decide +kernel

/-- Refutes O20: the second clause lets `slu.lists` name any port, and the status bit that COMMIT writes for port 32768 of
`strayList` is the staged key. -/
theorem not_commitAndConfigurationCheck : ¬ Obligations.CommitAndConfigurationCheck := by
  unfold Obligations.CommitAndConfigurationCheck
  intro h
  obtain ⟨hcommit, -⟩ := h strayList 0
  obtain ⟨-, hfree⟩ := hcommit (by unfold Chip.takesWrite; decide +kernel)
  obtain ⟨hquiet, -⟩ := hfree (by decide +kernel)
  obtain ⟨d, ⟨htaken, -⟩, hstray⟩ := completes_unique
    (hquiet (by decide) (by decide) (by decide +kernel) (by decide +kernel) (by decide +kernel)) configCommit_strayList
  exact hstray ((htaken (strayKey, some 2) (by decide +kernel)).trans (by decide +kernel))

end Sys2Proof.Machine

/-! PROOFS. Rings, doorbells and the writes of the host interface (R503, R517 to R522). -/
namespace Sys2Proof.Machine

/-! ### The key of a register's field -/

theorem joinDims_mul (idx : List Nat) (ds : List (Nat × Nat)) :
    joinDims idx ds * 32 = dotStrides idx (ds.map fun d => d.2 * 32) := by
  induction ds generalizing idx with
  | nil => cases idx <;> rfl
  | cons d ds ih =>
    cases idx with
    | nil => rfl
    | cons i is =>
      simp only [joinDims, List.map_cons, dotStrides, ← ih]
      ring

/-- A named field stands at its register's offset and low bit. -/
theorem fieldKey_eq {r : RegId} {f : Fld} {lo : Nat} (hb : f.base = r.row.base * 32 + lo)
    (hs : f.strides = r.row.dims.map fun d => d.2 * 32) (idx : List Nat) : fieldKey (r.row.offset idx) lo = f.key idx := by
  rw [fieldKey, RegRow.offset, Fld.key, hb, hs, ← joinDims_mul]
  ring

theorem Chip.setKey_setF {c : Chip} {f : Fld} {v : Nat} (h : v < 2 ^ f.w) (idx : List Nat) :
    c.setKey (f.key idx) v = c.setF f idx v := by
  simp only [Chip.setKey, Chip.setF, Nat.mod_eq_of_lt h]

theorem Chip.setF_fieldsOnly (c : Chip) (f : Fld) (idx : List Nat) (v : Nat) : c.fieldsOnly (c.setF f idx v) [f.key idx] := by
  refine ⟨rfl, fun k hk => ?_⟩
  simp only [Chip.setF]
  exact SMap.get_set_other (by simpa using hk)

/-! ### Registers of the host interface -/

theorem lookupReg_ringCfg (r : Fin 256) : lookupReg (regAt .HIF_RING_CFG [r.val]) = some (.HIF_RING_CFG, [r.val]) := by
  revert r
  decide +kernel

theorem lookupReg_ringDb (r : Fin 256) : lookupReg (regAt .HIF_RING_DB [r.val]) = some (.HIF_RING_DB, [r.val]) := by
  revert r
  decide +kernel

theorem lookupReg_laOwner (p : Fin 96) : lookupReg (regAt .HIF_LA_OWNER [p.val]) = some (.HIF_LA_OWNER, [p.val]) := by
  revert p
  decide +kernel

section
variable (c : Chip) (w : Nat)

theorem Chip.regWrite_ringCfg (r : Fin 256) {k : WriteKind} (hk : k ≠ .plain) :
    c.regWrite k (regAt .HIF_RING_CFG [r.val]) 1 w =
      (c.setKey (F.HIF_RING_CFG_en.key [r.val]) (k.value (c.getF F.HIF_RING_CFG_en [r.val]) 1)).ringEnable r.val
        (c.getF F.HIF_RING_CFG_en [r.val]) := by
  have hkey : fieldKey (RegId.HIF_RING_CFG.row.offset [r.val]) 0 = F.HIF_RING_CFG_en.key [r.val] := fieldKey_eq rfl rfl _
  rw [Chip.regWrite_of (lookupReg_ringCfg r), Chip.getF, ← hkey]
  cases k with
  | plain => exact absurd rfl hk
  | set => rfl
  | clr => rfl
  | tgl => rfl

theorem Chip.regWrite_ringDb (r : Fin 256) (v : Word) :
    c.regWrite .plain (regAt .HIF_RING_DB [r.val]) v.toNat w = (c.setF F.HIF_RING_DB_count [r.val] v.toNat).doorbell r.val v.toNat := by
  have hkey : fieldKey (RegId.HIF_RING_DB.row.offset [r.val]) 0 = F.HIF_RING_DB_count.key [r.val] := fieldKey_eq rfl rfl _
  have hpart : v.toNat / 2 ^ 0 % 2 ^ 32 = v.toNat := by
    rw [Nat.pow_zero, Nat.div_one]
    exact Nat.mod_eq_of_lt v.isLt
  have hfold : RegId.HIF_RING_DB.row.fields.foldl (fun (x : RegWrite) f => x.field c .HIF_RING_DB [r.val] .plain v.toNat w f) { chip := c } =
      { chip := c.setKey (fieldKey (RegId.HIF_RING_DB.row.offset [r.val]) 0) (v.toNat / 2 ^ 0 % 2 ^ 32),
        acts := [(0, 0, v.toNat / 2 ^ 0 % 2 ^ 32)] } := rfl
  rw [Chip.regWrite_of (lookupReg_ringDb r), hfold, hpart, hkey, Chip.setKey_setF (by exact v.isLt)]
  rfl

/-- LA_OWNER of a disabled pair takes a function. -/
theorem Chip.regWrite_laOwner {p : Fin 96} {f : Nat} (hf : f ≤ 65) (hrx : c.ringEn (64 + p.val) = false)
    (htx : c.ringEn (160 + p.val) = false) :
    c.regWrite .plain (regAt .HIF_LA_OWNER [p.val]) f w = c.setF F.HIF_LA_OWNER_function [p.val] f := by
  have hkey : fieldKey (RegId.HIF_LA_OWNER.row.offset [p.val]) 0 = F.HIF_LA_OWNER_function.key [p.val] := fieldKey_eq rfl rfl _
  have hlock : c.locked .laPair [p.val] = false := by simp only [Chip.locked, List.headD_cons, hrx, htx, Bool.or_self]
  have hpart : f / 2 ^ 0 % 2 ^ 7 = f := by omega
  have hlegal : c.legal (.range 0 65) .HIF_LA_OWNER [p.val] 0 f = true := by
    simp [Chip.legal, hf]
  have hfold : RegId.HIF_LA_OWNER.row.fields.foldl (fun (x : RegWrite) g => x.field c .HIF_LA_OWNER [p.val] .plain f w g) { chip := c } =
      ({ chip := c } : RegWrite).store c .HIF_LA_OWNER [p.val] .plain f w ⟨0, 7, .rw, .laOwner, .range 0 65, .laPair⟩
        (f / 2 ^ 0 % 2 ^ 7) := rfl
  rw [Chip.regWrite_of (lookupReg_laOwner p), hfold, hpart]
  simp only [RegWrite.store, hlock, WriteKind.value, hlegal, Bool.false_eq_true, if_false, Bool.not_true]
  rw [hkey, ← Chip.setKey_setF (show f < 2 ^ F.HIF_LA_OWNER_function.w by exact Nat.lt_of_le_of_lt hf (by decide))]
  rfl

end

/-- A ring register of the ring's owner. -/
theorem Chip.ringWrite_of {c : Chip} {r f : Nat} (hown : c.ringOwner r = some f) (hans : c.answers 0x20000 = true) (k : WriteKind)
    (reg : RegId) (n : Nat) : c.ringWrite k r reg n = c.regWrite k (regAt reg [r]) n f := by
  simp only [Chip.ringWrite, hown, hans, if_true]

/-! ### Ring commands -/

/-- Of the rings only `r` has changed, and besides the rings only the field at `key`. -/
def Chip.ringOnly (c d : Chip) (r key : Nat) : Prop :=
  (∀ q, q ≠ r → d.ring q = c.ring q) ∧ c.fieldsOnly { d with hif := { d.hif with rings := c.hif.rings } } [key]

theorem Chip.ringOnly_setF (c : Chip) (f : Fld) (idx : List Nat) (v r : Nat) : c.ringOnly (c.setF f idx v) r (f.key idx) :=
  ⟨fun _ _ => rfl, c.setF_fieldsOnly f idx v⟩

theorem Chip.ringOnly_setRing (c : Chip) (f : Fld) (idx : List Nat) (v r : Nat) (g : Ring) :
    c.ringOnly ((c.setF f idx v).setRing r g) r (f.key idx) :=
  ⟨fun _ hq => (Chip.ring_setRing _ _ _ _).trans (if_neg hq), c.setF_fieldsOnly f idx v⟩

section
variable {c : Chip} {r : Nat}

theorem Chip.ringEn_setF_en (n : Nat) : (c.setF F.HIF_RING_CFG_en [r] n).ringEn r = decide (n % 2 ≠ 0) := by
  rw [Chip.ringEn, Chip.getB, Chip.getF_setF_same _ _ _ _ (by decide)]
  by_cases h : n % 2 = 0
  · simp [h, F.HIF_RING_CFG_en]
  · simp [Nat.mod_two_ne_zero.1 h, F.HIF_RING_CFG_en]

/-- A ring that is disabled starts anew. -/
theorem Chip.ringEnable_starts (hoff : c.ringEn r = false) :
    (c.setKey (F.HIF_RING_CFG_en.key [r]) (WriteKind.set.value (c.getF F.HIF_RING_CFG_en [r]) 1)).ringEnable r
        (c.getF F.HIF_RING_CFG_en [r]) = (c.setF F.HIF_RING_CFG_en [r] 1).setRing r {} := by
  have hold : c.getF F.HIF_RING_CFG_en [r] = 0 := by simpa [Chip.ringEn, Chip.getB] using hoff
  rw [hold, Chip.setKey_setF (show WriteKind.set.value 0 1 < 2 ^ F.HIF_RING_CFG_en.w by decide), Chip.ringEnable,
    Chip.ringEn_setF_en]
  rfl

/-- A ring that is disabled keeps its counts. -/
theorem Chip.ringEnable_ends (hle : c.getF F.HIF_RING_CFG_en [r] ≤ 1) :
    (c.setKey (F.HIF_RING_CFG_en.key [r]) (WriteKind.clr.value (c.getF F.HIF_RING_CFG_en [r]) 1)).ringEnable r
        (c.getF F.HIF_RING_CFG_en [r]) = c.setF F.HIF_RING_CFG_en [r] 0 := by
  have hnew : WriteKind.clr.value (c.getF F.HIF_RING_CFG_en [r]) 1 = 0 := by
    interval_cases c.getF F.HIF_RING_CFG_en [r] <;> rfl
  rw [hnew, Chip.setKey_setF (show 0 < 2 ^ F.HIF_RING_CFG_en.w by decide), Chip.ringEnable, Chip.ringEn_setF_en]
  exact if_neg (by simp)

/-- The entries that a doorbell puts the producer ahead of the consumer. -/
def Chip.aheadOf (c : Chip) (r : Nat) (v : Word) : Nat :=
  if partProduces r then ((c.ring r).own - v).toNat else (v - (c.ring r).own).toNat

section
variable {v : Word} (hen : c.ringEn r = true)
include hen

theorem Chip.doorbell_moves (hmove : (v - (c.ring r).drv).toNat < 2 ^ 31) (hroom : c.aheadOf r v ≤ c.ringSize r) :
    c.doorbell r v.toNat = c.setRing r { c.ring r with drv := v } := by
  rw [Chip.aheadOf] at hroom
  simp only [Chip.doorbell, hen, BitVec.ofNat_toNat, BitVec.setWidth_eq, Nat.not_le.2 hmove, Nat.not_lt.2 hroom, decide_false,
    Bool.or_self, Bool.not_true, Bool.false_eq_true, if_false]

theorem Chip.doorbell_backward (hback : 2 ^ 31 ≤ (v - (c.ring r).drv).toNat) : c.doorbell r v.toNat = c.ringError r 2 := by
  simp only [Chip.doorbell, hen, BitVec.ofNat_toNat, BitVec.setWidth_eq, hback, decide_true, Bool.true_or, Bool.not_true,
    Bool.false_eq_true, if_false, if_true]

end

end

section
variable {c : Chip} (r : Fin 256) (v : Word)

/-- The doorbell's own field is none that a doorbell reads. -/
theorem Chip.doorbell_setF :
    (c.setF F.HIF_RING_DB_count [r.val] v.toNat).ringEn r.val = c.ringEn r.val ∧
      (c.setF F.HIF_RING_DB_count [r.val] v.toNat).ringSize r.val = c.ringSize r.val := by
  have hkey : ∀ r : Fin 256, F.HIF_RING_CFG_en.key [r.val] ≠ F.HIF_RING_DB_count.key [r.val] ∧
      F.HIF_RING_CFG_log2size.key [r.val] ≠ F.HIF_RING_DB_count.key [r.val] := by decide +kernel
  simp only [Chip.ringEn, Chip.getB, Chip.ringSize, Chip.getF_setF_other _ _ (by decide) (hkey r).1,
    Chip.getF_setF_other _ _ (by decide) (hkey r).2, and_self]

/-- A ring error: the ring stops and says why. -/
theorem Chip.ringError_spec (hlogs : c.logs) :
    let d := (c.setF F.HIF_RING_DB_count [r.val] v.toNat).ringError r.val 2
    d.ring r.val = { c.ring r.val with stopped := true } ∧ d.getF F.HIF_RING_STAT_err [r.val] = 1 ∧
      d.getF F.HIF_RING_STAT_cause [r.val] = 2 ∧ c.bumped d F.HIF_DMA_ERR_rings [] ∧
      c.logged d [⟨Ev.RING_ERR, 0x700 + r.val, [], false⟩] ∧ d.vlt.owners = c.vlt.owners := by
  have hkey : ∀ r : Fin 256, F.HIF_RING_STAT_cause.key [r.val] ≠ F.HIF_RING_STAT_err.key [r.val] ∧
      F.HIF_DMA_ERR_rings.key [] ≠ F.HIF_RING_STAT_err.key [r.val] ∧ F.HIF_DMA_ERR_rings.key [] ≠ F.HIF_RING_STAT_cause.key [r.val] ∧
      F.HIF_DMA_ERR_rings.key [] ≠ F.HIF_RING_DB_count.key [r.val] := by decide +kernel
  obtain ⟨h1, h2, h3, h4⟩ := hkey r
  obtain ⟨e, he⟩ : ∃ e, (((c.setF F.HIF_RING_DB_count [r.val] v.toNat).setF F.HIF_RING_STAT_err [r.val] 1).setF
    F.HIF_RING_STAT_cause [r.val] 2) = e := ⟨_, rfl⟩
  have hring : e.ring r.val = c.ring r.val := by subst he; rfl
  have herr : e.getF F.HIF_RING_STAT_err [r.val] = 1 := by
    rw [← he, Chip.getF_setF_other _ _ (by decide) h1.symm, Chip.getF_setF_same _ _ _ _ (by decide)]
    rfl
  have hcause : e.getF F.HIF_RING_STAT_cause [r.val] = 2 := by
    rw [← he, Chip.getF_setF_same _ _ _ _ (by decide)]
    rfl
  have hcount : e.getF F.HIF_DMA_ERR_rings [] = c.getF F.HIF_DMA_ERR_rings [] := by
    rw [← he, Chip.getF_setF_other _ _ (by decide) h3, Chip.getF_setF_other _ _ (by decide) h2,
      Chip.getF_setF_other _ _ (by decide) h4]
  have hevr : e.evr = c.evr := by subst he; rfl
  have hvlt : e.vlt = c.vlt := by subst he; rfl
  have hd : (c.setF F.HIF_RING_DB_count [r.val] v.toNat).ringError r.val 2 =
      ((e.setRing r.val { e.ring r.val with stopped := true }).bump F.HIF_DMA_ERR_rings []).raise Ev.RING_ERR (0x700 + r.val) := by
    simp only [Chip.ringError, he]
  intro d
  have hd' : d = _ := hd.trans (Chip.raise_logs (by rw [Chip.logs]; exact hevr ▸ hlogs) (by decide))
  rw [hd']
  refine ⟨?_, ?_, ?_, ?_, ?_, ?_⟩
  · exact ((Chip.ring_setRing _ _ _ _).trans (if_pos rfl)).trans (by rw [hring])
  · exact (Chip.getF_setF_other _ _ (by decide) h2.symm).trans herr
  · exact (Chip.getF_setF_other _ _ (by decide) h3.symm).trans hcause
  · exact (Chip.bumped_bump _ _ _ (by decide)).trans (by rw [← hcount]; rfl)
  · exact congrArg (fun x : Recorder => x.intake ++ [⟨Ev.RING_ERR, 0x700 + r.val, [], false⟩]) hevr
  · exact congrArg Vault.owners hvlt

end

/-! ### Memory writes of a function -/

section
variable {c : Chip} {fn off bytes : Nat} {v : Word} (hrun : c.running = true)
include hrun

theorem Chip.hostWrite_narrow {bar : Bar} (hbytes : bytes ≠ 4) : c.hostWrite fn bar off bytes v = c.unsupported := by
  simp only [Chip.hostWrite]
  exact (if_neg (by rw [hrun]; decide)).trans (if_pos (by simp [hbytes]))

theorem Chip.hostWrite_owner {o : Nat} (halign : off % 4 = 0) (hfn : fn ≠ 0) (hlow : off < 0x10000) (hans : c.answers 0x20000 = true)
    (hoff : c.ownerOffset fn off = some o) : c.hostWrite fn .bar0 off 4 v = c.regWrite .plain o v.toNat fn := by
  simp only [Chip.hostWrite, hrun, halign, hfn, hans, hoff, Nat.not_le.2 hlow, decide_false, Bool.or_self, Bool.not_true,
    Bool.false_eq_true, if_false, ne_eq, not_true_eq_false]

theorem Chip.hostWrite_msix (halign : off % 4 = 0) (hlow : off < msixSize fn * 16) (hword : off / 4 % 4 ≠ 3) :
    c.hostWrite fn .bar4 off 4 v = { c with
      hif := { c.hif with
      msixTable := SMap.set (fun i => if i % 4 = 3 then 1 else 0) c.hif.msixTable
        ((fn * 2048 + off / 16) * 4 + off / 4 % 4) v } } := by
  simp only [Chip.hostWrite, Chip.msixWrite, Chip.modHif, hrun, halign, hword, Nat.not_le.2 hlow, Chip.when, decide_false,
    Bool.or_self, Bool.not_true, Bool.false_and, Bool.false_eq_true, if_false, ne_eq, not_true_eq_false]

end

/-- Settles O21: the doorbell, the enable bit and the owner of a pair, each on its own field. -/
theorem ringAndHostWrites : Obligations.RingAndHostWrites := by
  unfold Obligations.RingAndHostWrites
  intro s ring fn v off bytes c r g db others
  refine ⟨fun hown hans => ⟨fun hoff => ?_, fun hle => ?_, fun hen => ?_⟩, fun pair f htakes hf hrx htx => ?_, fun hrun hbytes => ?_,
    fun hrun halign hlow hword => ?_⟩
  · refine completes_eq (f := fun c => c.ringWrite .set ring.val .HIF_RING_CFG 1) rfl
      (d := (c.setF F.HIF_RING_CFG_en [r] 1).setRing r {}) ?_ ⟨?_, ?_, c.ringOnly_setRing _ _ _ _ _⟩ rfl
    · exact (Chip.ringWrite_of hown hans _ _ _).trans ((c.regWrite_ringCfg fn.val ring (by decide)).trans (Chip.ringEnable_starts hoff))
    · exact Chip.ringEn_setF_en 1
    · exact (Chip.ring_setRing _ _ _ _).trans (if_pos rfl)
  · refine completes_eq (f := fun c => c.ringWrite .clr ring.val .HIF_RING_CFG 1) rfl
      (d := c.setF F.HIF_RING_CFG_en [r] 0) ?_ ⟨?_, rfl, c.ringOnly_setF _ _ _ _⟩ rfl
    · exact (Chip.ringWrite_of hown hans _ _ _).trans ((c.regWrite_ringCfg fn.val ring (by decide)).trans (Chip.ringEnable_ends hle))
    · exact Chip.ringEn_setF_en 0
  · intro ahead
    obtain ⟨hen', hsize⟩ := c.doorbell_setF ring v
    refine ⟨fun hmove hroom => ?_, fun hback hlogs => ?_⟩
    · have hd : c.regWrite .plain (regAt .HIF_RING_DB [r]) v.toNat fn.val =
          (c.setF F.HIF_RING_DB_count [r] v.toNat).setRing r { g with drv := v } :=
        (c.regWrite_ringDb fn.val ring v).trans (Chip.doorbell_moves (hen'.trans hen) hmove (hroom.trans_eq hsize.symm))
      have hpost : (((c.setF F.HIF_RING_DB_count [r] v.toNat).setRing r { g with drv := v }).ring r = { g with drv := v }) ∧
          others ((c.setF F.HIF_RING_DB_count [r] v.toNat).setRing r { g with drv := v }) [db] :=
        ⟨(Chip.ring_setRing _ _ _ _).trans (if_pos rfl), c.ringOnly_setRing _ _ _ _ _⟩
      refine ⟨completes_eq (f := fun c => c.ringWrite .plain ring.val .HIF_RING_DB v.toNat) rfl
        ((Chip.ringWrite_of hown hans _ _ _).trans hd) hpost rfl, fun hfn hrun hlow halign hoff => ?_⟩
      refine completes_eq (f := fun c => c.hostWrite fn.val .bar0 off.toNat 4 v) rfl (Eq.trans ?_ hd) hpost rfl
      exact Chip.hostWrite_owner hrun halign hfn hlow hans hoff
    · obtain ⟨h1, h2, h3, h4, h5, hown'⟩ := Chip.ringError_spec (c := c) ring v hlogs
      exact completes_eq (f := fun c => c.ringWrite .plain ring.val .HIF_RING_DB v.toNat) rfl
        ((Chip.ringWrite_of hown hans _ _ _).trans ((c.regWrite_ringDb fn.val ring v).trans (Chip.doorbell_backward (hen'.trans hen) hback)))
        ⟨h1, h2, h3, h4, h5⟩ hown'
  · refine completes_eq (f := fun c => c.put .HIF_LA_OWNER [pair.val] f.toNat) rfl (d := c.setF F.HIF_LA_OWNER_function [pair.val] f.toNat)
      ((htakes.pf0Write _ _).trans (c.regWrite_laOwner 0 hf hrx htx)) ⟨?_, c.setF_fieldsOnly _ _ _⟩ rfl
    refine (Chip.getF_setF_same _ _ _ _ (by decide)).trans ?_
    exact Nat.mod_eq_of_lt (Nat.lt_of_le_of_lt hf (by decide))
  · refine completes_eq (f := fun c => c.hostWrite fn.val .bar0 off.toNat bytes v) rfl (d := c.unsupported) ?_ rfl rfl
    exact Chip.hostWrite_narrow hrun hbytes
  · exact completes_eq (f := fun c => c.hostWrite fn.val .bar4 off.toNat 4 v) rfl (Chip.hostWrite_msix hrun halign hlow hword)
      ⟨fun k => SMap.get_set .., rfl⟩ rfl

end Sys2Proof.Machine

/-! PROOFS. The commands of the time registers (R198 to R202, R218). -/
namespace Sys2Proof.Machine

/-! ### Steps that only add to the log -/

/-- The ownership slots stand, and nothing is taken out of the recorder's intake. -/
def Chip.onward (c d : Chip) : Prop := d.vlt.owners = c.vlt.owners ∧ ∃ more, d.evr.intake = c.evr.intake ++ more

namespace Chip.onward

variable {a c d : Chip}

theorem refl (c : Chip) : c.onward c := ⟨rfl, [], (List.append_nil _).symm⟩

theorem trans (h : a.onward c) (g : c.onward d) : a.onward d := by
  obtain ⟨h1, l, h2⟩ := h
  obtain ⟨g1, m, g2⟩ := g
  exact ⟨g1.trans h1, l ++ m, by rw [g2, h2, List.append_assoc]⟩

theorem of_eq (ho : d.vlt.owners = c.vlt.owners) (he : d.evr = c.evr) : c.onward d := ⟨ho, [], by rw [he, List.append_nil]⟩

theorem raise (h : a.onward c) (code src : Nat) (items : List (Nat × Nat)) : a.onward (c.raise code src items) := by
  refine h.trans ⟨by rw [Chip.raise_vlt], ?_⟩
  have hsame : ∃ more, c.evr.intake = c.evr.intake ++ more := ⟨[], (List.append_nil _).symm⟩
  simp only [Chip.raise]
  exact ite_cases (P := fun d : Chip => ∃ more, d.evr.intake = c.evr.intake ++ more)
    (ite_cases (P := fun d : Chip => ∃ more, d.evr.intake = c.evr.intake ++ more) hsame ⟨_, rfl⟩)
    (ite_cases (P := fun d : Chip => ∃ more, d.evr.intake = c.evr.intake ++ more) hsame hsame)

end Chip.onward

/-- The clock, the quiet registers and the mode block stand as well. -/
structure Chip.untimed (c d : Chip) : Prop where
  tim : d.tim = c.tim
  regs : c.quietRegs d
  onward : c.onward d
  ctl : d.ctl = c.ctl

namespace Chip.untimed

variable {a c d : Chip}

theorem refl (c : Chip) : c.untimed c := ⟨rfl, Chip.quietRegs_refl c, .refl c, rfl⟩

theorem trans (h : a.untimed c) (g : c.untimed d) : a.untimed d :=
  ⟨g.tim.trans h.tim, h.regs.trans g.regs, h.onward.trans g.onward, g.ctl.trans h.ctl⟩

section
variable (h : a.untimed c)
include h

theorem raise {code : Nat} (hcode : code < 0x3000) (src : Nat) (items : List (Nat × Nat)) : a.untimed (c.raise code src items) :=
  h.trans ⟨((Chip.reports.refl c).raise code src items).tim_eq, c.quietRegs_raise hcode _ _, (Chip.onward.refl c).raise _ _ _,
    ((Chip.reports.refl c).raise code src items).ctl_eq⟩

theorem setF {f : Fld} {i : List Nat} (v : Nat) (hf : ¬ quietKey (f.key i)) : a.untimed (c.setF f i v) :=
  h.trans ⟨rfl, Chip.quietRegs_setF c v hf, .of_eq rfl rfl, rfl⟩

theorem modSax (f : Assoc → Assoc) : a.untimed (c.modSax f) := h.trans ⟨rfl, Chip.quietRegs_of_eq rfl, .of_eq rfl rfl, rfl⟩

theorem setSa (i : Nat) (v : Sa) : a.untimed (c.setSa i v) := modSax h _

theorem setChan (i : Nat) (v : Channel) : a.untimed (c.setChan i v) := modSax h _

theorem modPath (f : Paths → Paths) : a.untimed (c.modPath f) := h.trans ⟨rfl, Chip.quietRegs_of_eq rfl, .of_eq rfl rfl, rfl⟩

theorem setSlot (i : Nat) (v : Slot) : a.untimed (c.setSlot i v) := h.trans ⟨rfl, Chip.quietRegs_of_eq rfl, .of_eq rfl rfl, rfl⟩

theorem each {α : Type} {f : Chip → α → Chip} (l : List α) (hf : ∀ c x, a.untimed c → a.untimed (f c x)) :
    a.untimed (c.each l f) := Chip.each_induct l h fun d x hd => hf d x hd

theorem rxUnsync (ch : Nat) : a.untimed (c.rxUnsync ch) := by
  simp only [Chip.rxUnsync]
  refine ite_cases (P := a.untimed) ((h.modPath _).setF _ ?_) h
  simp only [quietKey, Fld.key, F.PRT_FRM_STAT_rx_sync, dotStrides]
  omega

theorem windowOpen (ch : Nat) : a.untimed (c.windowOpen ch) := by
  simp only [Chip.windowOpen]
  exact ite_cases (P := a.untimed) (rxUnsync (h.setSa _ _) ch) h

theorem retireSa (i : Nat) : a.untimed (c.retireSa i) := by
  simp only [Chip.retireSa]
  exact setSlot (setChan (rxUnsync (h.setSa _ _) _) _ _) _ _

theorem endSchedule (ch : Nat) : a.untimed (c.endSchedule ch) := by
  simp only [Chip.endSchedule]
  exact modSax (h.setChan _ _) _

theorem scheduledSwitch (ch : Nat) : a.untimed (c.scheduledSwitch ch) := by
  simp only [Chip.scheduledSwitch]
  refine ite_cases (P := a.untimed) h (ite_cases (P := a.untimed) ?_ (ite_cases (P := a.untimed) (h.modSax _) ?_))
  · simp only [Chip.missSchedule]
    exact ((h.endSchedule ch).setF _ (by decide)).raise (by decide) _ _
  · simp only [Chip.switchTx]
    exact ((((h.retireSa _).setChan _ _).endSchedule ch).raise (by decide) _ _).raise (by decide) _ _

end

/-- R206: what a jump of the epoch counter executes. -/
theorem jumped (c old : Chip) : c.untimed (c.jumped old) := by
  simp only [Chip.jumped]
  exact ite_cases (P := c.untimed) (.refl c) ((refl c).each _ fun d ch hd => (hd.windowOpen ch).scheduledSwitch ch)

end Chip.untimed

/-- The fields of the quiet blocks stand but for `epoch_end`, and the log goes on. -/
structure Chip.epochOnly (c d : Chip) : Prop where
  onward : c.onward d
  fields : ∀ (f : Fld) (i : List Nat), quietKey (f.key i) → f.key i ≠ F.TIM_STAT_epoch_end.key [] → d.getF f i = c.getF f i

theorem Chip.epochOnly.trans {a c d : Chip} (h : a.epochOnly c) (g : c.epochOnly d) : a.epochOnly d :=
  ⟨h.onward.trans g.onward, fun f i hf hne => (g.fields f i hf hne).trans (h.fields f i hf hne)⟩

theorem Chip.epochOnly.refl (c : Chip) : c.epochOnly c := ⟨.refl c, fun _ _ _ _ => rfl⟩

theorem Chip.epochOnly.of_quiet {c d : Chip} (ho : c.onward d) (h : c.quietRegs d) : c.epochOnly d :=
  ⟨ho, fun _ _ hf _ => h.getF hf⟩

theorem Chip.epochEnd_spec (c : Chip) : c.epochEnd.tim = c.tim ∧ c.epochOnly c.epochEnd := by
  simp only [Chip.epochEnd]
  refine ite_cases (P := fun d : Chip => d.tim = c.tim ∧ c.epochOnly d) ⟨by rw [Chip.raise_tim]; rfl, ?_, fun f i hf hne => ?_⟩
    ⟨rfl, .refl c⟩
  · exact Chip.onward.raise (.of_eq rfl rfl) _ _ _
  · rw [(Chip.quietRegs_raise _ (by decide) _ _).getF hf, Chip.getF_setF_other _ _ (by decide) hne]

/-- R206: a valid epoch counter that is judged again goes on or stays. -/
theorem Chip.judgeEpoch_spec {c : Chip} (hvalid : c.epochValid = true) (hmax : c.tim.epoch ≤ epochMax) :
    ∃ e w, c.judgeEpoch.tim = { c.tim with epoch := e, windowDone := w } ∧ c.tim.epoch ≤ e ∧ c.epochOnly c.judgeEpoch := by
  have hstay : ∃ e w, c.tim = { c.tim with epoch := e, windowDone := w } ∧ c.tim.epoch ≤ e ∧ c.epochOnly c :=
    ⟨c.tim.epoch, c.tim.windowDone, rfl, Nat.le_refl _, .refl c⟩
  simp only [Chip.judgeEpoch, hvalid, if_true]
  cases hn : c.epochNumber with
  | none => exact hstay
  | some n =>
    simp only
    by_cases hlt : c.tim.epoch < n
    · rw [if_pos hlt]
      obtain ⟨y, hy⟩ : ∃ y : Chip, { c with tim := { c.tim with epoch := min epochMax n, windowDone := false } } = y := ⟨_, rfl⟩
      have htim : y.tim = { c.tim with epoch := min epochMax n, windowDone := false } := by subst hy; rfl
      have hmove : c.epochOnly y := by
        subst hy
        exact .of_quiet (.of_eq rfl rfl) (Chip.quietRegs_of_eq rfl)
      rw [hy]
      obtain ⟨x, hx⟩ : ∃ x, y.raise Ev.EPOCH_JUMP 0x0C1 [(8, c.tim.epoch), (8, min epochMax n)] = x := ⟨_, rfl⟩
      have hsay : y.epochOnly x := hx ▸ .of_quiet ((Chip.onward.refl y).raise _ _ _) (y.quietRegs_raise (by decide) _ _)
      obtain ⟨hend, hends⟩ := x.epochEnd_spec
      rw [hx]
      refine ⟨min epochMax n, false, ?_, Nat.le_min.2 ⟨hmax, hlt.le⟩, (hmove.trans hsay).trans hends⟩
      rw [hend, ← hx, Chip.raise_tim, htim]
    · rw [if_neg hlt]
      exact hstay

/-! ### A step of the clock (R202) -/

theorem Chip.slewCancel_spec (c : Chip) :
    ∃ t : Tim, c.slewCancel = { c with tim := t, regs := c.slewCancel.regs } ∧ t.clock = c.tim.clock ∧ t.epoch = c.tim.epoch ∧
      t.elapsed = c.tim.elapsed ∧ c.slewCancel.getB F.TIM_STAT_slewing [] = false ∧
      ∀ (f : Fld) (i : List Nat), f.key i ≠ F.TIM_STAT_slewing.key [] → c.slewCancel.getF f i = c.getF f i := by
  simp only [Chip.slewCancel]
  split_ifs with h
  · refine ⟨_, rfl, rfl, rfl, rfl, ?_, fun f i hne => Chip.getF_setF_other _ _ (by decide) hne⟩
    rw [Chip.getB, Chip.getF_setF_same _ _ _ _ (by decide)]
    rfl
  · exact ⟨c.tim, rfl, rfl, rfl, rfl, by simpa using h, fun _ _ _ => rfl⟩

theorem Chip.stepTo_spec {c : Chip} (k : Clock) (hvalid : c.epochValid = true) (hmax : c.tim.epoch ≤ epochMax) (hlogs : c.logs) :
    ∃ t : Tim, (c.stepTo k).tim = t ∧ t.clock = k ∧ t.acquired = true ∧ c.tim.epoch ≤ t.epoch ∧ t.elapsed = c.tim.elapsed ∧
      (c.stepTo k).getB F.TIM_STAT_stepped [] = true ∧ (c.stepTo k).getB F.TIM_STAT_slewing [] = false ∧
      (c.stepTo k).vlt.owners = c.vlt.owners ∧
      ∃ more, c.logged (c.stepTo k) (⟨Ev.TIME_STEP, 0x0C0, [(8, packTime c.tim.clock c.holdover), (8, packTime k c.holdover)], false⟩ :: more) := by
  obtain ⟨t, hcancel, hclock, hepoch, helapsed, hslewing, hfields⟩ := c.slewCancel_spec
  obtain ⟨x, hx⟩ : ∃ x, c.slewCancel = x := ⟨_, rfl⟩
  rw [hx] at hcancel hslewing hfields
  obtain ⟨off, hoff⟩ : ∃ off, x.txStepped ((clockUnits k : Int) - clockUnits c.tim.clock) = { x with tim := { x.tim with txOff := off } } :=
    ⟨_, rfl⟩
  obtain ⟨y, hy⟩ : ∃ y : Chip, ({ x with tim := { x.tim with txOff := off, clock := k, acquired := true } } : Chip).setF
    F.TIM_STAT_stepped [] 1 = y := ⟨_, rfl⟩
  have hxtim : x.tim = t := congrArg Chip.tim hcancel
  have hytim : y.tim = { t with txOff := off, clock := k, acquired := true } := by rw [← hy, ← hxtim]; rfl
  have hyevr : y.evr = c.evr := by
    rw [← hy]
    exact (show x.evr = c.evr by rw [hcancel])
  have hyown : y.vlt.owners = c.vlt.owners := by
    rw [← hy]
    exact (show x.vlt.owners = c.vlt.owners by rw [hcancel])
  have hyfield : ∀ (f : Fld) (i : List Nat), f.key i ≠ F.TIM_STAT_slewing.key [] → f.key i ≠ F.TIM_STAT_stepped.key [] →
      y.getF f i = c.getF f i := by
    intro f i h1 h2
    rw [← hy, Chip.getF_setF_other _ _ (by decide) h2]
    exact hfields f i h1
  have hyslew : y.getB F.TIM_STAT_slewing [] = false := by
    rw [← hslewing, Chip.getB, Chip.getB, ← hy, Chip.getF_setF_other _ _ (by decide) (by decide)]
    rfl
  have hystep : y.getB F.TIM_STAT_stepped [] = true := by
    rw [Chip.getB, ← hy, Chip.getF_setF_same _ _ _ _ (by decide)]
    rfl
  have hhold : y.holdover = c.holdover := congrArg (· != 0) (hyfield F.TIM_STAT_holdover [] (by decide) (by decide))
  have hstep : c.stepTo k =
      (y.raise Ev.TIME_STEP 0x0C0 [(8, packTime c.tim.clock c.holdover), (8, packTime k c.holdover)]).judgeEpoch := by
    simp only [Chip.stepTo, hx, hoff, hy, hhold]
  obtain ⟨z, hz⟩ : ∃ z, y.raise Ev.TIME_STEP 0x0C0 [(8, packTime c.tim.clock c.holdover), (8, packTime k c.holdover)] = z := ⟨_, rfl⟩
  have hsaid := Chip.raise_logs (code := Ev.TIME_STEP) (src := 0x0C0)
    (items := [(8, packTime c.tim.clock c.holdover), (8, packTime k c.holdover)]) (c := y) (by rw [Chip.logs, hyevr]; exact hlogs) (by decide)
  rw [hz] at hsaid hstep
  have hztim : z.tim = y.tim := by rw [hsaid]
  have hzregs : ∀ (f : Fld) (i : List Nat), z.getF f i = y.getF f i := fun f i => by rw [hsaid]; rfl
  have hzown : z.vlt.owners = y.vlt.owners := by rw [hsaid]
  have hzlog : z.evr.intake = y.evr.intake ++
      [⟨Ev.TIME_STEP, 0x0C0, [(8, packTime c.tim.clock c.holdover), (8, packTime k c.holdover)], false⟩] := by rw [hsaid]
  have hzvalid : z.epochValid = true := by
    rw [← hvalid, Chip.epochValid, Chip.getB, hzregs, hyfield _ _ (by decide) (by decide)]
    rfl
  obtain ⟨e, w, hjtim, hle, ⟨hown, more, hmore⟩, hjfield⟩ := Chip.judgeEpoch_spec hzvalid (by rw [hztim, hytim]; exact hepoch.trans_le hmax)
  rw [hstep]
  refine ⟨_, hjtim, by rw [hztim, hytim], by rw [hztim, hytim], ?_, by rw [hztim, hytim]; exact helapsed, ?_, ?_,
    hown.trans (hzown.trans hyown), more, ?_⟩
  · rw [hztim, hytim] at hle
    exact hepoch.symm.le.trans hle
  · rw [Chip.getB, hjfield _ _ (by decide) (by decide), hzregs]
    exact hystep
  · rw [Chip.getB, hjfield _ _ (by decide) (by decide), hzregs]
    exact hyslew
  · rw [Chip.logged, hmore, hzlog, hyevr, List.append_assoc]
    rfl

/-! ### The registers of the time block -/

theorem lookupReg_timCtl : lookupReg (regAt .TIM_CTL []) = some (.TIM_CTL, []) := by decide +kernel
theorem lookupReg_freqHi : lookupReg (regAt .TIM_FREQ_HI []) = some (.TIM_FREQ_HI, []) := by decide +kernel
theorem lookupReg_adjHi : lookupReg (regAt .TIM_ADJ_HI []) = some (.TIM_ADJ_HI, []) := by decide +kernel

section
variable (c : Chip)

theorem Chip.regWrite_timCapture (w : Nat) : c.regWrite .set (regAt .TIM_CTL []) 1 w = c.timeCapture := by
  rw [Chip.regWrite_of lookupReg_timCtl]
  rfl

theorem Chip.regWrite_adjCancel (w : Nat) : c.regWrite .set (regAt .TIM_CTL []) 8 w = c.slewCancel := by
  rw [Chip.regWrite_of lookupReg_timCtl]
  rfl

theorem Chip.regWrite_timHold {k : WriteKind} (hk : k ≠ .plain) (w : Nat) :
    c.regWrite k (regAt .TIM_CTL []) 4 w =
      (c.setKey (F.TIM_CTL_hold.key []) (k.value (c.getF F.TIM_CTL_hold []) 1)).holdChange (c.getF F.TIM_CTL_hold [] ≠ 0) := by
  rw [Chip.regWrite_of lookupReg_timCtl]
  cases k with
  | plain => exact absurd rfl hk
  | set => rfl
  | clr => rfl
  | tgl => rfl

/-- TIM_CTL.step. -/
theorem Chip.regWrite_timStep (w : Nat) : c.regWrite .set (regAt .TIM_CTL []) 2 w =
    if c.inMode [.provision, .maintenance] then c.stepAll else c.lockViol (regAt .TIM_CTL []) 2 w := by
  have hfold : RegId.TIM_CTL.row.fields.foldl (fun (x : RegWrite) f => x.field c .TIM_CTL [] .set 2 w f) { chip := c } =
      if c.locked .provMaint [] then { chip := c, viol := true } else { chip := c, acts := [(1, 0, 1)] } := rfl
  rw [Chip.regWrite_of lookupReg_timCtl, hfold]
  cases hmode : c.inMode [.provision, .maintenance] with
  | true =>
    rw [if_neg (by simp [Chip.locked, hmode])]
    rfl
  | false =>
    rw [if_pos (by simp [Chip.locked, hmode])]
    rfl

/-- TIM_FREQ_HI. -/
theorem Chip.regWrite_freqHi (hi : Byte) (w : Nat) (hopen : c.getF F.TIM_REF_CFG_src [] = 0 ∨ c.refState ≠ 2) :
    c.regWrite .plain (regAt .TIM_FREQ_HI []) hi.toNat w =
      if (signed 40 (hi.toNat * 2 ^ 32 + c.getF F.TIM_FREQ_LO_f_lo [])).natAbs ≤ freqMax then
        (c.setF F.TIM_FREQ_HI_f_hi [] hi.toNat).freqApply
      else c.cfgReject (regAt .TIM_FREQ_HI []) hi.toNat w := by
  have hlock : c.locked .freqLocked [] = false := by
    simp only [Chip.locked, Bool.and_eq_false_iff, decide_eq_false_iff_not, not_not]
    exact hopen
  have hpart : hi.toNat / 2 ^ 0 % 2 ^ 8 = hi.toNat := by
    rw [Nat.pow_zero, Nat.div_one]
    exact Nat.mod_eq_of_lt hi.isLt
  have hfold : RegId.TIM_FREQ_HI.row.fields.foldl (fun (x : RegWrite) f => x.field c .TIM_FREQ_HI [] .plain hi.toNat w f) { chip := c } =
      ({ chip := c } : RegWrite).store c .TIM_FREQ_HI [] .plain hi.toNat w ⟨0, 8, .rw, .val 0x0, .freqHi, .freqLocked⟩
        (hi.toNat / 2 ^ 0 % 2 ^ 8) := rfl
  rw [Chip.regWrite_of lookupReg_freqHi, hfold, hpart]
  by_cases hlegal : (signed 40 (hi.toNat * 2 ^ 32 + c.getF F.TIM_FREQ_LO_f_lo [])).natAbs ≤ freqMax
  · simp only [RegWrite.store, hlock, WriteKind.value, Chip.legal, hlegal, decide_true, Bool.false_eq_true, if_false, Bool.not_true,
      if_true]
    rw [← Chip.setKey_setF (show hi.toNat < 2 ^ F.TIM_FREQ_HI_f_hi.w from hi.isLt)]
    rfl
  · simp only [RegWrite.store, hlock, WriteKind.value, Chip.legal, hlegal, decide_false, Bool.false_eq_true, if_false, Bool.not_false,
      if_true]
    rfl

/-- TIM_ADJ_HI. -/
theorem Chip.regWrite_adjHi (adj : BitVec 16) (w : Nat) :
    c.regWrite .plain (regAt .TIM_ADJ_HI []) adj.toNat w = (c.setF F.TIM_ADJ_HI_adj_hi [] adj.toNat).slewFromRegs adj.toNat := by
  have hpart : adj.toNat / 2 ^ 0 % 2 ^ 16 = adj.toNat := by
    rw [Nat.pow_zero, Nat.div_one]
    exact Nat.mod_eq_of_lt adj.isLt
  have hfold : RegId.TIM_ADJ_HI.row.fields.foldl (fun (x : RegWrite) f => x.field c .TIM_ADJ_HI [] .plain adj.toNat w f) { chip := c } =
      { chip := c.setKey (F.TIM_ADJ_HI_adj_hi.key []) (adj.toNat / 2 ^ 0 % 2 ^ 16),
        acts := [(0, 0, adj.toNat / 2 ^ 0 % 2 ^ 16)] } := rfl
  rw [Chip.regWrite_of lookupReg_adjHi, hfold, hpart, Chip.setKey_setF (by exact adj.isLt)]
  rfl

end

/-! ### What the commands do -/

theorem Chip.fieldsOnly.trans {a c d : Chip} {l m : List Nat} (h : a.fieldsOnly c l) (g : c.fieldsOnly d m) : a.fieldsOnly d (l ++ m) := by
  obtain ⟨h1, h2⟩ := h
  obtain ⟨g1, g2⟩ := g
  refine ⟨by rw [g1, h1], fun k hk => ?_⟩
  simp only [List.mem_append, not_or] at hk
  rw [g2 k hk.2, h2 k hk.1]

theorem Chip.fieldsOnly.mono {c d : Chip} {l m : List Nat} (h : c.fieldsOnly d l) (hl : l ⊆ m) : c.fieldsOnly d m :=
  ⟨h.1, fun k hk => h.2 k fun hm => hk (hl hm)⟩

/-- R218. -/
theorem Chip.timeCapture_spec (c : Chip) (hsec : c.tim.clock.sec < 2 ^ 48) (hns : c.tim.clock.ns < 10 ^ 9)
    (hfrac : c.tim.clock.frac < 2 ^ 16) :
    c.timeCapture.getF F.TIM_CAP_SEC_HI_sec [] * 2 ^ 32 + c.timeCapture.getF F.TIM_CAP_SEC_LO_sec [] = c.tim.clock.sec ∧
      c.timeCapture.getF F.TIM_CAP_NS_ns [] = c.tim.clock.ns ∧ c.timeCapture.getF F.TIM_CAP_FRAC_frac [] = c.tim.clock.frac ∧
      c.fieldsOnly c.timeCapture [F.TIM_CAP_SEC_HI_sec.key [], F.TIM_CAP_SEC_LO_sec.key [], F.TIM_CAP_NS_ns.key [],
        F.TIM_CAP_FRAC_frac.key []] := by
  simp only [Chip.timeCapture]
  refine ⟨?_, ?_, ?_, ?_⟩
  · rw [Chip.getF_setF_other _ _ (by decide) (by decide), Chip.getF_setF_other _ _ (by decide) (by decide),
      Chip.getF_setF_same _ _ _ _ (by decide), Chip.getF_setF_other _ _ (by decide) (by decide),
      Chip.getF_setF_other _ _ (by decide) (by decide), Chip.getF_setF_other _ _ (by decide) (by decide),
      Chip.getF_setF_same _ _ _ _ (by decide)]
    simp only [F.TIM_CAP_SEC_HI_sec, F.TIM_CAP_SEC_LO_sec]
    omega
  · rw [Chip.getF_setF_other _ _ (by decide) (by decide), Chip.getF_setF_same _ _ _ _ (by decide)]
    exact Nat.mod_eq_of_lt (hns.trans (by decide))
  · rw [Chip.getF_setF_same _ _ _ _ (by decide)]
    exact Nat.mod_eq_of_lt hfrac
  · refine ((((Chip.setF_fieldsOnly _ _ _ _).trans (Chip.setF_fieldsOnly _ _ _ _)).trans (Chip.setF_fieldsOnly _ _ _ _)).trans
      (Chip.setF_fieldsOnly _ _ _ _)).mono ?_
    decide

theorem Chip.getB_of {c : Chip} {f : Fld} {i : List Nat} {n : Nat} (h : c.getF f i = n) : c.getB f i = (n != 0) := by
  rw [Chip.getB, h]

/-- R199: the reference is held. -/
theorem Chip.holdOn_spec {c : Chip} (hoff : c.getB F.TIM_CTL_hold [] = false) (hlogs : c.logs) :
    let d := (c.setKey (F.TIM_CTL_hold.key []) (WriteKind.set.value (c.getF F.TIM_CTL_hold []) 1)).holdChange
      (c.getF F.TIM_CTL_hold [] ≠ 0)
    d.getB F.TIM_CTL_hold [] = true ∧ d.refState = 3 ∧ d.holdover = true ∧
      d.tim = { c.tim with lostAt := if c.refState = 3 then c.tim.lostAt else c.now } ∧
      c.logged d [⟨Ev.REF_LOST, 0x0C0, [], false⟩] ∧ d.vlt.owners = c.vlt.owners := by
  have hold : c.getF F.TIM_CTL_hold [] = 0 := by simpa [Chip.getB] using hoff
  obtain ⟨y, hy⟩ : ∃ y, c.setF F.TIM_CTL_hold [] 1 = y := ⟨_, rfl⟩
  have hon : y.getF F.TIM_CTL_hold [] = 1 := by
    rw [← hy, Chip.getF_setF_same _ _ _ _ (by decide)]
    rfl
  have hstate : y.refState = c.refState := by rw [← hy, Chip.refState, Chip.getF_setF_other _ _ (by decide) (by decide), Chip.refState]
  have htim : y.tim = c.tim := by subst hy; rfl
  have hevr : y.evr = c.evr := by subst hy; rfl
  have hvlt : y.vlt = c.vlt := by subst hy; rfl
  obtain ⟨z, hz⟩ : ∃ z : Chip, y.when (y.refState ≠ 3) (fun c => { c with tim := { c.tim with lostAt := c.now } }) = z := ⟨_, rfl⟩
  have hzs : z = { y with tim := { c.tim with lostAt := if c.refState = 3 then c.tim.lostAt else c.now } } := by
    rw [← hz, Chip.when, hstate, ← htim]
    by_cases h3 : c.refState = 3
    · simp [h3]
    · simp only [h3, ne_eq, not_false_eq_true, decide_true, if_true, if_false, Chip.now, htim]
  intro d
  have hd : d = ((z.setF F.TIM_STAT_ref_state [] 3).setF F.TIM_STAT_holdover [] 1).raise Ev.REF_LOST 0x0C0 := by
    show Chip.holdChange _ _ = _
    rw [hold, Chip.setKey_setF (show WriteKind.set.value 0 1 < 2 ^ F.TIM_CTL_hold.w by decide)]
    simp only [show WriteKind.set.value 0 1 = 1 from rfl, hy, Chip.holdChange, Chip.getB, hon, hz, Chip.setRefState]
    rfl
  obtain ⟨w, hw⟩ : ∃ w, (z.setF F.TIM_STAT_ref_state [] 3).setF F.TIM_STAT_holdover [] 1 = w := ⟨_, rfl⟩
  have hwhold : w.getF F.TIM_CTL_hold [] = 1 := by
    rw [← hw, Chip.getF_setF_other _ _ (by decide) (by decide), Chip.getF_setF_other _ _ (by decide) (by decide), hzs]
    exact hon
  have hwstate : w.getF F.TIM_STAT_ref_state [] = 3 := by
    rw [← hw, Chip.getF_setF_other _ _ (by decide) (by decide), Chip.getF_setF_same _ _ _ _ (by decide)]
    rfl
  have hwover : w.getF F.TIM_STAT_holdover [] = 1 := by
    rw [← hw, Chip.getF_setF_same _ _ _ _ (by decide)]
    rfl
  have hwevr : w.evr = c.evr := by rw [← hw, Chip.setF_evr, Chip.setF_evr, hzs, ← hevr]
  rw [hd, hw, Chip.raise_logs (by rw [Chip.logs, hwevr]; exact hlogs) (by decide)]
  refine ⟨Chip.getB_of hwhold, hwstate, Chip.getB_of hwover, ?_, ?_, ?_⟩
  · rw [← hw, Chip.setF_tim, Chip.setF_tim, hzs]
  · rw [Chip.logged, hwevr]
  · rw [← hw, Chip.setF_vlt, Chip.setF_vlt, hzs, ← hvlt]

/-- R199: the hold of a part without a reference ends. -/
theorem Chip.holdOff_spec {c : Chip} (hon : c.getF F.TIM_CTL_hold [] = 1) (hsrc : c.getF F.TIM_REF_CFG_src [] = 0) :
    let d := (c.setKey (F.TIM_CTL_hold.key []) (WriteKind.clr.value (c.getF F.TIM_CTL_hold []) 1)).holdChange
      (c.getF F.TIM_CTL_hold [] ≠ 0)
    d.getB F.TIM_CTL_hold [] = false ∧ d.refState = 0 ∧ d.holdover = false ∧ d.tim = c.tim ∧ d.evr = c.evr ∧
      d.vlt.owners = c.vlt.owners := by
  obtain ⟨y, hy⟩ : ∃ y, c.setF F.TIM_CTL_hold [] 0 = y := ⟨_, rfl⟩
  have hoff : y.getF F.TIM_CTL_hold [] = 0 := by
    rw [← hy, Chip.getF_setF_same _ _ _ _ (by decide)]
    rfl
  have hsrc' : y.getF F.TIM_REF_CFG_src [] = 0 := by rw [← hy, Chip.getF_setF_other _ _ (by decide) (by decide), hsrc]
  intro d
  have hd : d = (y.setF F.TIM_STAT_ref_state [] 0).setF F.TIM_STAT_holdover [] 0 := by
    show Chip.holdChange _ _ = _
    rw [hon, Chip.setKey_setF (show WriteKind.clr.value 1 1 < 2 ^ F.TIM_CTL_hold.w by decide)]
    simp only [show WriteKind.clr.value 1 1 = 0 from rfl, hy, Chip.holdChange, Chip.getB, hoff, hsrc', Chip.setRefState]
    rfl
  rw [hd]
  refine ⟨Chip.getB_of (n := 0) ?_, ?_, Chip.getB_of (n := 0) ?_, ?_, ?_, ?_⟩
  · rw [Chip.getF_setF_other _ _ (by decide) (by decide), Chip.getF_setF_other _ _ (by decide) (by decide), hoff]
  · rw [Chip.refState, Chip.getF_setF_other _ _ (by decide) (by decide), Chip.getF_setF_same _ _ _ _ (by decide)]
    rfl
  · rw [Chip.getF_setF_same _ _ _ _ (by decide)]
    rfl
  all_goals
    subst hy
    rfl

/-- R201: the slew that a write of TIM_ADJ_HI starts. -/
theorem Chip.slewStart_spec (c : Chip) (a : Int) :
    let m : Int := c.getF F.TIM_SLEW_CFG_max []
    let r := if a < 0 then -m else m
    let unit := (r * 2 ^ 64 / 1000000000).natAbs
    ∃ n : Nat, (c.slewStart a).tim = { c.tim with
      remain := a * 2 ^ 48,
      changes := insertDue (insertDue c.standing (c.now + 2048, .slew r)) (c.now + 2048 + n, .slew 0) } ∧
    (c.tim.slew = 0 → c.tim.changes = [] → 0 < unit → n * unit ≤ a.natAbs * 2 ^ 48 ∧ a.natAbs * 2 ^ 48 < (n + 1) * unit) := by
  intro m r unit
  obtain ⟨rest, hrest⟩ : ∃ rest, (Tim.pass { c.tim with remain := a * 2 ^ 48, changes := c.standing } 2048 c.standing).remain = rest :=
    ⟨_, rfl⟩
  refine ⟨if 0 < rest * r then rest.natAbs / unit else 0, ?_, fun hslew hnone hunit => ?_⟩
  · simp only [Chip.slewStart, hrest, Chip.rateDue]
    rfl
  · have hrest' : rest = a * 2 ^ 48 := by
      rw [← hrest, show c.standing = [] by simp [Chip.standing, hnone]]
      simp [Tim.pass, Tim.plain, hslew]
    have hr : r ≠ 0 := by
      rintro h0
      simp [unit, h0] at hunit
    have habs : rest.natAbs = a.natAbs * 2 ^ 48 := by rw [hrest', Int.natAbs_mul]; rfl
    have hshare : rest.natAbs / unit * unit ≤ rest.natAbs ∧ rest.natAbs < (rest.natAbs / unit + 1) * unit :=
      ⟨Nat.div_mul_le_self _ _, by rw [Nat.mul_comm]; exact Nat.lt_mul_div_succ _ hunit⟩
    have hm : 0 ≤ m := Int.natCast_nonneg _
    rw [← habs]
    rcases lt_trichotomy a 0 with ha | ha | ha
    · have hneg : r = -m := if_pos ha
      rw [if_pos (hrest' ▸ mul_pos_of_neg_of_neg (by omega) (by omega))]
      exact hshare
    · subst ha
      rw [hrest']
      simpa using hunit
    · have hpos : r = m := if_neg (by omega)
      rw [if_pos (hrest' ▸ mul_pos (by omega) (by omega))]
      exact hshare

/-- Settles O22: each command of the time registers, on the block that its write leaves. -/
theorem timeRegisterCommands : Obligations.TimeRegisterCommands := by
  unfold Obligations.TimeRegisterCommands
  intro s hi adj c k f m
  refine ⟨fun ht => ⟨fun hsec hns hfrac => ?_, fun hmode hvalid hmax hlogs => ?_, fun hmode hlogs => ?_, fun hoff hlogs => ?_,
    fun hon hsrc => ?_, fun hslew => ?_⟩, fun ht hopen => ⟨fun hf => ?_, fun hf hlogs => ?_⟩, fun ht => ?_⟩
  · exact completes_eq (f := fun c => c.putBits .TIM_CTL [] 1 true) rfl ((ht.pf0Write _ _).trans (c.regWrite_timCapture 0))
      (c.timeCapture_spec hsec hns hfrac) rfl
  · obtain ⟨t, htim, hclock, hacq, hepoch, hel, hstepped, hslewing, hown, more, hlog⟩ := Chip.stepTo_spec (c := c)
      { sec := c.getF F.TIM_SET_SEC_HI_sec [] * 2 ^ 32 + c.getF F.TIM_SET_SEC_LO_sec [],
        ns := c.getF F.TIM_SET_NS_ns [], frac := c.getF F.TIM_SET_FRAC_frac [], low := 0 } hvalid hmax hlogs
    obtain ⟨hjtim, hjregs, ⟨hjown, more', hjlog⟩, -⟩ := Chip.untimed.jumped c.timeStep c
    refine completes_eq (f := fun c => c.putBits .TIM_CTL [] 2 true) rfl (d := c.stepAll)
      ((ht.pf0Write _ _).trans ((c.regWrite_timStep 0).trans (if_pos hmode))) ?_ (hjown.trans hown)
    refine ⟨?_, ?_, ?_, ?_, ?_, ?_, more ++ more', ?_⟩
    · exact (congrArg Tim.clock (hjtim.trans htim)).trans hclock
    · exact (congrArg Tim.acquired (hjtim.trans htim)).trans hacq
    · exact (congrArg (· != 0) (hjregs.getF (by decide))).trans hstepped
    · exact (congrArg (· != 0) (hjregs.getF (by decide))).trans hslewing
    · exact hepoch.trans_eq (congrArg Tim.epoch (hjtim.trans htim)).symm
    · exact (congrArg Tim.elapsed (hjtim.trans htim)).trans hel
    · exact hjlog.trans ((congrArg (· ++ more') hlog).trans (by rw [List.append_assoc]; rfl))
  · refine completes_eq (f := fun c => c.putBits .TIM_CTL [] 2 true) rfl
      ((ht.pf0Write _ _).trans ((c.regWrite_timStep 0).trans (if_neg (by rw [hmode]; decide)))) ?_ (by rw [Chip.lockViol, Chip.raise_vlt])
    exact Chip.raise_logs hlogs (by decide)
  · obtain ⟨h1, h2, h3, h4, h5, hown⟩ := Chip.holdOn_spec hoff hlogs
    exact completes_eq (f := fun c => c.putBits .TIM_CTL [] 4 true) rfl
      ((ht.pf0Write _ _).trans (c.regWrite_timHold (by decide) 0)) ⟨h1, h2, h3, h4, h5⟩ hown
  · obtain ⟨h1, h2, h3, h4, h5, hown⟩ := Chip.holdOff_spec hon hsrc
    exact completes_eq (f := fun c => c.putBits .TIM_CTL [] 4 false) rfl
      ((ht.pf0Write _ _).trans (c.regWrite_timHold (by decide) 0)) ⟨h1, h2, h3, h4, h5⟩ hown
  · refine completes_eq (f := fun c => c.putBits .TIM_CTL [] 8 true) rfl
      ((ht.pf0Write _ _).trans ((c.regWrite_adjCancel 0).trans (if_pos hslew))) ⟨?_, rfl, ?_⟩ rfl
    · exact congrArg (· != 0) (Chip.getF_setF_same _ _ _ _ (by decide))
    · exact c.setF_fieldsOnly F.TIM_STAT_slewing [] 0
  · refine completes_eq (f := fun c => c.put .TIM_FREQ_HI [] hi.toNat) rfl
      ((ht.pf0Write _ _).trans ((c.regWrite_freqHi hi 0 hopen).trans (if_pos hf))) ⟨?_, ?_, ?_⟩ rfl
    · exact (Chip.getF_setF_same c _ _ _ (by decide)).trans (Nat.mod_eq_of_lt hi.isLt)
    · have hhi : (c.setF F.TIM_FREQ_HI_f_hi [] hi.toNat).getF F.TIM_FREQ_HI_f_hi [] = hi.toNat :=
        (Chip.getF_setF_same c _ _ _ (by decide)).trans (Nat.mod_eq_of_lt hi.isLt)
      have hlo : (c.setF F.TIM_FREQ_HI_f_hi [] hi.toNat).getF F.TIM_FREQ_LO_f_lo [] = c.getF F.TIM_FREQ_LO_f_lo [] :=
        Chip.getF_setF_other _ _ (by decide) (by decide)
      simp only [Chip.freqApply, Chip.announce, hhi, hlo]
      rfl
    · exact c.setF_fieldsOnly _ _ _
  · refine completes_eq (f := fun c => c.put .TIM_FREQ_HI [] hi.toNat) rfl
      ((ht.pf0Write _ _).trans ((c.regWrite_freqHi hi 0 hopen).trans (if_neg (Nat.not_le.2 hf)))) ?_ (by rw [Chip.cfgReject, Chip.raise_vlt])
    exact Chip.raise_logs hlogs (by decide)
  · have hlo : (c.setF F.TIM_ADJ_HI_adj_hi [] adj.toNat).getF F.TIM_ADJ_LO_adj_lo [] = c.getF F.TIM_ADJ_LO_adj_lo [] :=
      Chip.getF_setF_other _ _ (by decide) (by decide)
    have hmax : (c.setF F.TIM_ADJ_HI_adj_hi [] adj.toNat).getF F.TIM_SLEW_CFG_max [] = c.getF F.TIM_SLEW_CFG_max [] :=
      Chip.getF_setF_other _ _ (by decide) (by decide)
    obtain ⟨n, htim, hn⟩ := (c.setF F.TIM_ADJ_HI_adj_hi [] adj.toNat).slewStart_spec
      (signed 48 (adj.toNat * 2 ^ 32 + c.getF F.TIM_ADJ_LO_adj_lo []))
    refine completes_eq (f := fun c => c.put .TIM_ADJ_HI [] adj.toNat) rfl
      (d := (c.setF F.TIM_ADJ_HI_adj_hi [] adj.toNat).slewStart (signed 48 (adj.toNat * 2 ^ 32 + c.getF F.TIM_ADJ_LO_adj_lo [])))
      ((ht.pf0Write _ _).trans ((c.regWrite_adjHi adj 0).trans ?_)) ?_ rfl
    · rw [Chip.slewFromRegs, hlo, Nat.mod_eq_of_lt adj.isLt]
    · rw [hmax] at htim hn
      refine ⟨n, htim, hn, congrArg (· != 0) (Chip.getF_setF_same _ _ _ _ (by decide)), ?_⟩
      exact (c.setF_fieldsOnly F.TIM_ADJ_HI_adj_hi [] adj.toNat).trans (Chip.setF_fieldsOnly _ F.TIM_STAT_slewing [] 1)

end Sys2Proof.Machine

/-! PROOFS. The commands of the block registers (R178, R182, R193, R240, R247, R418, R486). -/
namespace Sys2Proof.Machine

/-! ### A standby whose claim bit is set -/

/-- A block in STANDBY with PRS_STAT.holding set, its pair link up, and the instant of its last cycle kept. -/
def holdingStandby : State := {
  chip := ({
    ctl := { mode := .standby }, prs := { linkUp := [2], link := 2, cycleAt := 1 } } : Chip).setF F.PRS_STAT_holding [] 1 }

/-- A part that holds the claim answers the resync with the bulk copy itself, and its cycle starts again. -/
theorem pairResync_holdingStandby : completes .pairResync holdingStandby fun d => d.prs.cycleAt = 0 := by
  rw [completes_iff rfl]
  decide +kernel

/-- Refutes O23: the clause of the bulk copy asks for the mode alone, and in `holdingStandby` the claim bit stands in
STANDBY, so that the part sends the copy. -/
theorem not_blockRegisterCommands : ¬ Obligations.BlockRegisterCommands := by
  unfold Obligations.BlockRegisterCommands
  intro h
  obtain ⟨-, -, -, -, -, hresync, -⟩ := h holdingStandby 0 0 0
  obtain ⟨d, ⟨hprs, -⟩, hcycle⟩ := completes_unique
    (hresync (by unfold Chip.takesWrite; decide +kernel) rfl (by decide) (by decide)) pairResync_holdingStandby
  have hkept : d.prs.cycleAt = 1 := congrArg PairStack.cycleAt hprs
  rw [hcycle] at hkept
  exact absurd hkept (by decide)

end Sys2Proof.Machine

/-! PROOFS. The Pans: tests, errors, replays, retirement and the stop line (R100, R101, R113 to R118). -/
namespace Sys2Proof.Machine

/-! ### What dispatch and the openers leave -/

/-- A quiet register, or a field of a Pan that dispatch does not write: `state`, `kat_fails`, `err`, `kat_fail` of PAN_STAT and
`kat` of PAN_CTL. -/
abbrev panKey (k : Nat) : Prop :=
  quietKey k ∨ (0x180000 * 32 ≤ k ∧ k < 0x181000 * 32 ∧
    (k % 1024 = 0 ∨ k % 1024 = 5 ∨ k % 1024 = 7 ∨ k % 1024 = 8 ∨ k % 1024 = 128))

/-- A field of PAN_Q_STAT. -/
abbrev openerKey (k : Nat) : Prop := 0x181000 * 32 ≤ k ∧ k < 0x181010 * 32

/-- The Pans' states and tests stand, and the blocks that requests do not touch. -/
structure Chip.panKeeps (c d : Chip) : Prop where
  vlt : d.vlt = c.vlt
  ctl : d.ctl = c.ctl
  mem : d.mem = c.mem
  flt : d.flt = c.flt
  tested : d.pan.tested = c.pan.tested
  katFrom : d.pan.katFrom = c.pan.katFrom
  regs : ∀ k, panKey k ∨ openerKey k → SMap.get regReset d.regs k = SMap.get regReset c.regs k

namespace Chip.panKeeps

variable {a c d : Chip}

theorem refl (c : Chip) : c.panKeeps c := ⟨rfl, rfl, rfl, rfl, rfl, rfl, fun _ _ => rfl⟩

theorem trans (h : a.panKeeps c) (g : c.panKeeps d) : a.panKeeps d := by
  obtain ⟨h1, h2, h3, h4, h5, h6, h7⟩ := h
  obtain ⟨g1, g2, g3, g4, g5, g6, g7⟩ := g
  exact ⟨g1.trans h1, g2.trans h2, g3.trans h3, g4.trans h4, g5.trans h5, g6.trans h6, fun k hk => (g7 k hk).trans (h7 k hk)⟩

theorem getF (h : c.panKeeps d) {f : Fld} {i : List Nat} (hf : panKey (f.key i) ∨ openerKey (f.key i)) : d.getF f i = c.getF f i := by
  rw [Chip.getF, Chip.getF, h.regs _ hf]

theorem panState (h : c.panKeeps d) (k : Fin 24) : d.panState k.val = c.panState k.val :=
  h.getF (.inl (by simp only [panKey, Fld.key, F.PAN_STAT_state, dotStrides]; omega))

section
variable (h : a.panKeeps c)
include h

theorem of_loses (g : c.loses d) : a.panKeeps d := by
  obtain ⟨hf, hr, -⟩ := g
  refine h.trans ⟨by rw [hf], by rw [hf], by rw [hf], by rw [hf], by rw [hf], by rw [hf], fun k hk => hr k ?_⟩
  simp only [panKey, openerKey, quietKey, lossKey] at hk ⊢
  omega

theorem setF {f : Fld} {i : List Nat} (v : Nat) (hf : ¬ (panKey (f.key i) ∨ openerKey (f.key i))) : a.panKeeps (c.setF f i v) := by
  refine h.trans ⟨rfl, rfl, rfl, rfl, rfl, rfl, fun k hk => ?_⟩
  rw [Chip.setF_regs, SMap.get_set_other]
  rintro rfl
  exact hf hk

theorem setPanReq (r : Nat) (v : Option PanReq) : a.panKeeps (c.setPanReq r v) :=
  h.trans ⟨rfl, rfl, rfl, rfl, rfl, rfl, fun _ _ => rfl⟩

theorem setCached (j : Nat) (l : List CachedKey) : a.panKeeps (c.setCached j l) :=
  h.trans ⟨rfl, rfl, rfl, rfl, rfl, rfl, fun _ _ => rfl⟩

theorem modEng (f : Engines → Engines) : a.panKeeps (c.modEng f) := h.trans ⟨rfl, rfl, rfl, rfl, rfl, rfl, fun _ _ => rfl⟩

theorem modPath (f : Paths → Paths) : a.panKeeps (c.modPath f) := h.of_loses ((Chip.loses.refl c).modPath f)

theorem raise {code : Nat} (hcode : code < 0x3000) (src : Nat) (items : List (Nat × Nat)) : a.panKeeps (c.raise code src items) :=
  h.of_loses ((Chip.loses.refl c).raise hcode src items)

theorem when {f : Chip → Chip} (hf : ∀ c, a.panKeeps c → a.panKeeps (f c)) (b : Bool) : a.panKeeps (c.when b f) :=
  Chip.when_induct b h (hf c)

theorem each {α : Type} {f : Chip → α → Chip} (l : List α) (hf : ∀ c x, a.panKeeps c → a.panKeeps (f c x)) :
    a.panKeeps (c.each l f) := Chip.each_induct l h fun d x hd => hf d x hd

theorem cacheUse (j slot gen : Nat) : a.panKeeps (c.cacheUse j slot gen) := by
  simp only [Chip.cacheUse]
  split
  · exact h
  · exact h.setCached _ _

theorem redispatch : a.panKeeps c.redispatch := by
  refine h.each _ fun d e hd => ?_
  split
  · exact (hd.setPanReq _ _).cacheUse _ _ _
  · exact hd

theorem replayFail (k : Nat) (r : PanReq) : a.panKeeps (c.replayFail k r) := by
  have hgone : a.panKeeps (((c.raise Ev.PAN_REPLAY_FAIL (0x200 + r.pan)).panDone k)) :=
    redispatch ((h.raise (by decide) _ _).setPanReq _ _)
  simp only [Chip.replayFail]
  split
  · exact hgone.of_loses ((Chip.loses.refl _).dropFrame _ _)
  · exact hgone.of_loses ((Chip.loses.refl _).dropFrame _ _)
  · simp only [Chip.onLa]
    split
    · exact hgone.modPath _
    · exact hgone
  · simp only [Chip.onLa]
    split
    · exact hgone.modPath _
    · exact hgone
  · exact hgone
  · exact hgone.modEng _

theorem moveRequests {j : Nat} (hj : j < 24) : a.panKeeps (c.moveRequests j) := by
  refine each (each (h.each _ fun _ _ hd => hd.setPanReq _ _) _ fun _ _ hd => setPanReq (hd.setF _ ?_) _ _) _
    fun _ _ hd => hd.replayFail _ _
  simp only [panKey, openerKey, quietKey, Fld.key, F.PAN_REPLAY_CNT_count, dotStrides]
  omega

theorem noOpener (line : Nat) : a.panKeeps (c.noOpener line) := by
  simp only [Chip.noOpener]
  refine ite_cases h (raise (each ?_ _ fun _ _ hd => hd.of_loses ((Chip.loses.refl _).portDown _ _ _)) (by decide) _ _)
  exact h.trans ⟨rfl, rfl, rfl, rfl, rfl, rfl, fun _ _ => rfl⟩

end

end Chip.panKeeps

/-! ### Openers and states (R101) -/

/-- What an assignment of the openers of quadrant `q` leaves and gives. -/
structure Chip.assigned (c d : Chip) (q : Nat) : Prop where
  vlt : d.vlt = c.vlt
  ctl : d.ctl = c.ctl
  mem : d.mem = c.mem
  flt : d.flt = c.flt
  tested : d.pan.tested = c.pan.tested
  katFrom : d.pan.katFrom = c.pan.katFrom
  regs : ∀ k, panKey k → SMap.get regReset d.regs k = SMap.get regReset c.regs k
  inService : d.getF F.PAN_Q_STAT_in_service [q] = (c.serving q).length
  opener0 : d.getF F.PAN_Q_STAT_opener0 [q] = ((c.serving q)[0]?).getD 0x1F
  opener1 : d.getF F.PAN_Q_STAT_opener1 [q] = ((c.serving q)[1]?).getD 0x1F

theorem Chip.serving_length (c : Chip) (q : Nat) : (c.serving q).length ≤ 6 :=
  (List.length_filter_le _ _).trans (by simp [quadPans])

theorem Chip.serving_getD_lt (c : Chip) {q : Nat} (hq : q < 4) (n : Nat) : ((c.serving q)[n]?).getD 0x1F < 2 ^ 5 := by
  cases hn : (c.serving q)[n]? with
  | none => exact (by decide : 0x1F < 2 ^ 5)
  | some j =>
    have hmem := List.mem_of_mem_filter (List.mem_of_getElem? hn)
    simp only [quadPans, List.mem_map, List.mem_range] at hmem
    obtain ⟨i, hi, rfl⟩ := hmem
    simp only [Option.getD_some]
    omega

theorem Chip.assignOpeners_spec (c : Chip) {q : Nat} (hq : q < 4) : c.assigned (c.assignOpeners q) q := by
  obtain ⟨x, hx⟩ : ∃ x, (((c.setF F.PAN_Q_STAT_in_service [q] (c.serving q).length).setF F.PAN_Q_STAT_spares [q]
      ((quadPans q).filter fun j => c.panState j = 1).length).setF F.PAN_Q_STAT_opener0 [q] ((c.serving q)[0]?.getD 0x1F)).setF
        F.PAN_Q_STAT_opener1 [q] ((c.serving q)[1]?.getD 0x1F) = x := ⟨_, rfl⟩
  have hkeep : x.panKeeps (c.assignOpeners q) := by
    simp only [Chip.assignOpeners, hx]
    refine .redispatch (.when (.when (Chip.each_induct_mem (P := x.panKeeps) _ (.refl x) fun d j hj hd => hd.setF _ ?_)
      (fun _ hd => hd.noOpener _) _) (fun _ hd => hd.noOpener _) _)
    simp only [quadPans, List.mem_map, List.mem_range] at hj
    obtain ⟨i, hi, rfl⟩ := hj
    simp only [panKey, openerKey, quietKey, Fld.key, F.PAN_STAT_opens, dotStrides]
    omega
  have hkeys : ∀ q, q < 4 → ∀ k, panKey k → k ≠ F.PAN_Q_STAT_in_service.key [q] ∧ k ≠ F.PAN_Q_STAT_spares.key [q] ∧
      k ≠ F.PAN_Q_STAT_opener0.key [q] ∧ k ≠ F.PAN_Q_STAT_opener1.key [q] := by
    intro q hq k hk
    simp only [panKey, quietKey] at hk
    simp only [Fld.key, F.PAN_Q_STAT_in_service, F.PAN_Q_STAT_spares, F.PAN_Q_STAT_opener0, F.PAN_Q_STAT_opener1, dotStrides]
    omega
  have hregs : ∀ k, panKey k → SMap.get regReset x.regs k = SMap.get regReset c.regs k := by
    intro k hk
    obtain ⟨h1, h2, h3, h4⟩ := hkeys q hq k hk
    rw [← hx, Chip.setF_regs, SMap.get_set_other h4, Chip.setF_regs, SMap.get_set_other h3, Chip.setF_regs, SMap.get_set_other h2,
      Chip.setF_regs, SMap.get_set_other h1]
  have hapart : ∀ q, F.PAN_Q_STAT_in_service.key [q] ≠ F.PAN_Q_STAT_spares.key [q] ∧
      F.PAN_Q_STAT_in_service.key [q] ≠ F.PAN_Q_STAT_opener0.key [q] ∧ F.PAN_Q_STAT_in_service.key [q] ≠ F.PAN_Q_STAT_opener1.key [q] ∧
      F.PAN_Q_STAT_opener0.key [q] ≠ F.PAN_Q_STAT_opener1.key [q] := by
    intro q
    simp only [Fld.key, F.PAN_Q_STAT_in_service, F.PAN_Q_STAT_spares, F.PAN_Q_STAT_opener0, F.PAN_Q_STAT_opener1, dotStrides]
    omega
  obtain ⟨h1, h2, h3, h4⟩ := hapart q
  have hopener : openerKey (F.PAN_Q_STAT_in_service.key [q]) ∧ openerKey (F.PAN_Q_STAT_opener0.key [q]) ∧
      openerKey (F.PAN_Q_STAT_opener1.key [q]) := by
    simp only [openerKey, Fld.key, F.PAN_Q_STAT_in_service, F.PAN_Q_STAT_opener0, F.PAN_Q_STAT_opener1, dotStrides]
    omega
  obtain ⟨k1, k2, k3⟩ := hopener
  refine ⟨hkeep.vlt.trans (by rw [← hx]; rfl), hkeep.ctl.trans (by rw [← hx]; rfl), hkeep.mem.trans (by rw [← hx]; rfl),
    hkeep.flt.trans (by rw [← hx]; rfl), hkeep.tested.trans (by rw [← hx]; rfl), hkeep.katFrom.trans (by rw [← hx]; rfl),
    fun k hk => (hkeep.regs k (.inl hk)).trans (hregs k hk), ?_, ?_, ?_⟩
  · rw [hkeep.getF (.inr k1), ← hx, Chip.getF_setF_other _ _ (by decide) h3, Chip.getF_setF_other _ _ (by decide) h2,
      Chip.getF_setF_other _ _ (by decide) h1, Chip.getF_setF_same _ _ _ _ (by decide)]
    exact Nat.mod_eq_of_lt (lt_of_le_of_lt (c.serving_length q) (by decide))
  · rw [hkeep.getF (.inr k2), ← hx, Chip.getF_setF_other _ _ (by decide) h4, Chip.getF_setF_same _ _ _ _ (by decide)]
    exact Nat.mod_eq_of_lt (c.serving_getD_lt hq 0)
  · rw [hkeep.getF (.inr k3), ← hx, Chip.getF_setF_same _ _ _ _ (by decide)]
    exact Nat.mod_eq_of_lt (c.serving_getD_lt hq 1)

theorem Chip.assigned.getF {c d : Chip} {q : Nat} (h : c.assigned d q) {f : Fld} {i : List Nat} (hf : panKey (f.key i)) :
    d.getF f i = c.getF f i := by
  rw [Chip.getF, Chip.getF, h.regs _ hf]

theorem panKey_state (k : Fin 24) : panKey (F.PAN_STAT_state.key [k.val]) := by
  simp only [panKey, Fld.key, F.PAN_STAT_state, dotStrides]
  omega

theorem Chip.assigned.panState {c d : Chip} {q : Nat} (h : c.assigned d q) (k : Fin 24) : d.panState k.val = c.panState k.val :=
  h.getF (panKey_state k)

theorem Chip.serving_congr {c d : Chip} (h : ∀ k : Fin 24, d.panState k.val = c.panState k.val) {q : Nat} (hq : q < 4) :
    d.serving q = c.serving q := by
  refine List.filter_congr fun j hj => ?_
  simp only [quadPans, List.mem_map, List.mem_range] at hj
  obtain ⟨i, hi, rfl⟩ := hj
  rw [h ⟨q * 6 + i, by omega⟩]

/-- A Pan's state is written. -/
theorem Chip.panState_setF (c : Chip) (j k : Fin 24) {v : Nat} (hv : v < 8) :
    (c.setF F.PAN_STAT_state [j.val] v).panState k.val = if k = j then v else c.panState k.val := by
  have hkey : F.PAN_STAT_state.key [k.val] = F.PAN_STAT_state.key [j.val] ↔ k = j := by
    simp only [Fld.key, F.PAN_STAT_state, dotStrides, Fin.ext_iff]
    omega
  rw [Chip.panState, Chip.getF_setF _ _ _ _ _ _ (by decide)]
  simp only [hkey]
  split_ifs
  · exact Nat.mod_eq_of_lt hv
  · rfl

/-- What a new state of Pan `j` leaves and gives. -/
theorem Chip.setPan_spec (c : Chip) (j : Fin 24) {v : Nat} (hv : v < 8) :
    (c.setF F.PAN_STAT_state [j.val] v).assigned (c.setPan j.val v) (j.val / 6) ∧
      ∀ k : Fin 24, (c.setPan j.val v).panState k.val = if k = j then v else c.panState k.val := by
  have h := (c.setF F.PAN_STAT_state [j.val] v).assignOpeners_spec (q := j.val / 6) (by omega)
  exact ⟨h, fun k => (h.panState k).trans (c.panState_setF j k hv)⟩

/-! ### Tests (R116) -/

/-- What a test of Pan `j` leaves and gives. -/
structure Chip.testing (c d : Chip) (j : Fin 24) : Prop where
  states : ∀ k : Fin 24, d.panState k.val = if k = j then 2 else c.panState k.val
  katFrom : SMap.get (fun _ => 0) d.pan.katFrom j.val = c.panState j.val
  inService : d.getF F.PAN_Q_STAT_in_service [j.val / 6] = (d.serving (j.val / 6)).length
  opener0 : d.getF F.PAN_Q_STAT_opener0 [j.val / 6] = ((d.serving (j.val / 6))[0]?).getD 0x1F
  opener1 : d.getF F.PAN_Q_STAT_opener1 [j.val / 6] = ((d.serving (j.val / 6))[1]?).getD 0x1F
  vlt : d.vlt = c.vlt
  ctl : d.ctl = c.ctl
  mem : d.mem = c.mem
  flt : d.flt = c.flt
  regs : ∀ k, panKey k → k ≠ F.PAN_STAT_state.key [j.val] → SMap.get regReset d.regs k = SMap.get regReset c.regs k

theorem Chip.testing.getF {c d : Chip} {j : Fin 24} (h : c.testing d j) {f : Fld} {i : List Nat} (hf : panKey (f.key i))
    (hne : f.key i ≠ F.PAN_STAT_state.key [j.val]) : d.getF f i = c.getF f i := by
  rw [Chip.getF, Chip.getF, h.regs _ hf hne]

theorem Chip.panTest_spec {c : Chip} (j : Fin 24) (hst : c.panState j.val ≤ 1) : c.testing (c.panTest j.val) j := by
  obtain ⟨x, hx⟩ : ∃ x, c.modPan (fun p => { p with katFrom := SMap.set (fun _ => 0) p.katFrom j.val (c.panState j.val) }) = x := ⟨_, rfl⟩
  have hxs : ∀ k : Fin 24, x.panState k.val = c.panState k.val := fun k => by rw [← hx]; rfl
  have hd : c.panTest j.val = x.setPan j.val 2 := by
    simp only [Chip.panTest]
    rw [if_pos (by simp only [Bool.or_eq_true, decide_eq_true_eq]; omega), hx]
  obtain ⟨ha, hs⟩ := x.setPan_spec j (v := 2) (by decide)
  rw [← hd] at ha hs
  have hserve : (c.panTest j.val).serving (j.val / 6) = (x.setF F.PAN_STAT_state [j.val] 2).serving (j.val / 6) :=
    Chip.serving_congr (fun k => ha.panState k) (by omega)
  refine ⟨fun k => (hs k).trans (by rw [hxs]), ?_, hserve ▸ ha.inService, hserve ▸ ha.opener0, hserve ▸ ha.opener1, ha.vlt.trans ?_,
    ha.ctl.trans ?_, ha.mem.trans ?_, ha.flt.trans ?_, fun k hk hne => (ha.regs k hk).trans ?_⟩
  · rw [ha.katFrom, ← hx]
    exact SMap.get_set.trans (if_pos rfl)
  · rw [← hx]; rfl
  · rw [← hx]; rfl
  · rw [← hx]; rfl
  · rw [← hx]; rfl
  · rw [Chip.setF_regs, SMap.get_set_other hne, ← hx]
    rfl

/-- The fields of one Pan's words. -/
theorem panFields (j k : Fin 24) :
    panKey (F.PAN_CTL_kat.key [j.val]) ∧ panKey (F.PAN_STAT_kat_fails.key [j.val]) ∧ panKey (F.PAN_STAT_kat_fail.key [j.val]) ∧
      panKey (F.PAN_STAT_err.key [j.val]) ∧ F.PAN_STAT_state.key [k.val] ≠ F.PAN_CTL_kat.key [j.val] ∧
      F.PAN_STAT_state.key [k.val] ≠ F.PAN_STAT_kat_fails.key [j.val] ∧ F.PAN_STAT_state.key [k.val] ≠ F.PAN_STAT_kat_fail.key [j.val] ∧
      F.PAN_STAT_state.key [k.val] ≠ F.PAN_STAT_err.key [j.val] ∧ F.PAN_STAT_state.key [k.val] ≠ F.PAN_ERR_CNT_count.key [j.val] ∧
      F.PAN_STAT_state.key [k.val] ≠ F.PAN_CTL_retire.key [j.val] := by
  simp only [panKey, Fld.key, F.PAN_CTL_kat, F.PAN_STAT_kat_fails, F.PAN_STAT_kat_fail, F.PAN_STAT_err, F.PAN_STAT_state,
    F.PAN_ERR_CNT_count, F.PAN_CTL_retire, dotStrides]
  omega

/-! ### The command register -/

theorem lookupReg_panCtl (j : Fin 24) : lookupReg (regAt .PAN_CTL [j.val]) = some (.PAN_CTL, [j.val]) := by
  revert j
  decide +kernel

theorem Chip.regWrite_panKat (c : Chip) (j : Fin 24) (hst : c.panState j.val ≤ 1) (w : Nat) :
    c.regWrite .plain (regAt .PAN_CTL [j.val]) 1 w = (c.setF F.PAN_CTL_kat [j.val] 1).panTest j.val := by
  have hkey : fieldKey (RegId.PAN_CTL.row.offset [j.val]) 0 = F.PAN_CTL_kat.key [j.val] := fieldKey_eq rfl rfl _
  have hfold : RegId.PAN_CTL.row.fields.foldl (fun (x : RegWrite) f => x.field c .PAN_CTL [j.val] .plain 1 w f) { chip := c } =
      { chip := c.setKey (fieldKey (RegId.PAN_CTL.row.offset [j.val]) 0) 1, acts := [(0, 0, 1)] } := rfl
  have hst' : (c.setF F.PAN_CTL_kat [j.val] 1).panState j.val ≤ 1 := by
    rw [Chip.panState, Chip.getF_setF_other _ _ (by decide) (panFields j j).2.2.2.2.1]
    exact hst
  have htwo := (Chip.panTest_spec j hst').states j
  rw [if_pos rfl] at htwo
  rw [Chip.regWrite_of (lookupReg_panCtl j), hfold, hkey, Chip.setKey_setF (by decide)]
  have hafter : ∀ y : Chip, Chip.afterFields .PAN_CTL [j.val] (regAt .PAN_CTL [j.val]) 1 w { chip := y, acts := [(0, 0, 1)] } =
      (y.panTest j.val).when (decide ((y.panTest j.val).panState j.val ≠ 2)) fun c => c.setF F.PAN_CTL_kat [j.val] 0 := fun _ => rfl
  rw [hafter, htwo]
  simp only [ne_eq, not_true_eq_false, decide_false, Chip.when_false]

theorem Chip.regWrite_panRetire (c : Chip) (j : Fin 24) (hmode : c.inMode [.provision, .maintenance] = true) (w : Nat) :
    c.regWrite .plain (regAt .PAN_CTL [j.val]) 2 w = (c.setF F.PAN_CTL_retire [j.val] 1).panRetire j.val := by
  have hkey : fieldKey (RegId.PAN_CTL.row.offset [j.val]) 1 = F.PAN_CTL_retire.key [j.val] := fieldKey_eq rfl rfl _
  have hfold : RegId.PAN_CTL.row.fields.foldl (fun (x : RegWrite) f => x.field c .PAN_CTL [j.val] .plain 2 w f) { chip := c } =
      if c.locked .provMaint [j.val] then { chip := c, viol := true }
      else { chip := c.setKey (fieldKey (RegId.PAN_CTL.row.offset [j.val]) 1) 1, acts := [(1, 0, 1)] } := rfl
  rw [Chip.regWrite_of (lookupReg_panCtl j), hfold, if_neg (by simp [Chip.locked, hmode]), hkey, Chip.setKey_setF (by decide)]
  rfl

/-! ### Retirement (R117) -/

/-- A spare takes the place of a retired Pan, at once or after its test. -/
def Chip.spareTakes (c : Chip) (spare : Option Nat) : Chip :=
  match spare with
  | some k =>
    if c.panState k = 1 then c.setF F.PAN_STAT_state [k] 0
    else c.modPan fun p => { p with katFrom := SMap.set (fun _ => 0) p.katFrom k 0 }
  | none => c

/-- The rest of a retirement: requests, openers, the channel and the events. -/
def Chip.retireRest (c : Chip) (j : Nat) (spare : Option Nat) : Chip :=
  let c := (c.moveRequests j).assignOpeners (j / 6)
  let c := c.modFlt fun f =>
    let x : FaultChan := SMap.get (fun _ => {}) f.chans (2 * 65536 + j)
    { f with chans := SMap.set (fun _ => {}) f.chans (2 * 65536 + j) ({ x with retired := true } : FaultChan) }
  let c := c.raise Ev.PAN_RETIRED (0x200 + j) [(4, spare.getD 0x1F)]
  let left := (quadPans (j / 6)).any fun k => c.panHome k = 1 && c.panState k ≠ 3
  c.when (!left) fun c => c.raise Ev.PAN_NO_SPARE (0x200 + j)

/-- Pan `j` set to RETIRED, its test ended. -/
def Chip.retiredPan (c : Chip) (j : Nat) : Chip := (c.setF F.PAN_STAT_state [j] 3).setF F.PAN_CTL_kat [j] 0

theorem Chip.panRetire_eq {c : Chip} (j : Fin 24) (hst : c.panState j.val ≠ 3) :
    c.panRetire j.val =
      let spare := if c.panHome j.val = 1 then none else (c.retiredPan j.val).spareFor (j.val / 6)
      ((c.retiredPan j.val).spareTakes spare).retireRest j.val spare := by
  have hlow : ¬ (c.panState j.val = 3 ∨ 24 ≤ j.val) := by
    have := j.isLt
    rintro (h | h)
    · exact hst h
    · omega
  simp only [Chip.panRetire, Bool.or_eq_true, decide_eq_true_eq]
  rw [if_neg hlow]
  rfl

/-- The rest of a retirement leaves the Pans' states. -/
structure Chip.retires (c d : Chip) (j : Fin 24) : Prop where
  vlt : d.vlt = c.vlt
  ctl : d.ctl = c.ctl
  mem : d.mem = c.mem
  katFrom : d.pan.katFrom = c.pan.katFrom
  states : ∀ k : Fin 24, d.panState k.val = c.panState k.val
  retired : (d.faultChan 2 j.val).retired = true

theorem Chip.retireRest_spec (c : Chip) (j : Fin 24) (spare : Option Nat) : c.retires (c.retireRest j.val spare) j := by
  have hmove : c.panKeeps (c.moveRequests j.val) := (Chip.panKeeps.refl c).moveRequests j.isLt
  obtain ⟨y, hy⟩ : ∃ y, (c.moveRequests j.val).assignOpeners (j.val / 6) = y := ⟨_, rfl⟩
  have hopen := hy ▸ (c.moveRequests j.val).assignOpeners_spec (q := j.val / 6) (by omega)
  obtain ⟨z, hz⟩ : ∃ z, y.modFlt (fun f =>
    let x : FaultChan := SMap.get (fun _ => {}) f.chans (2 * 65536 + j.val)
    { f with chans := SMap.set (fun _ => {}) f.chans (2 * 65536 + j.val) ({ x with retired := true } : FaultChan) }) = z := ⟨_, rfl⟩
  have hret : (z.faultChan 2 j.val).retired = true := by
    rw [← hz]
    exact congrArg FaultChan.retired (SMap.get_set.trans (if_pos rfl))
  have hsaid : z.panKeeps (c.retireRest j.val spare) := by
    simp only [Chip.retireRest, hy]
    rw [hz]
    exact ((Chip.panKeeps.refl z).raise (by decide) _ _).when (fun _ hd => hd.raise (by decide) _ _) _
  have hzy : z.vlt = y.vlt ∧ z.ctl = y.ctl ∧ z.mem = y.mem ∧ z.pan = y.pan ∧ ∀ k, z.panState k = y.panState k := by
    subst hz
    exact ⟨rfl, rfl, rfl, rfl, fun _ => rfl⟩
  obtain ⟨h1, h2, h3, h4, h5⟩ := hzy
  refine ⟨?_, ?_, ?_, ?_, fun k => ?_, ?_⟩
  · rw [hsaid.vlt, h1, hopen.vlt, hmove.vlt]
  · rw [hsaid.ctl, h2, hopen.ctl, hmove.ctl]
  · rw [hsaid.mem, h3, hopen.mem, hmove.mem]
  · rw [hsaid.katFrom, h4, hopen.katFrom, hmove.katFrom]
  · rw [hsaid.panState, h5, hopen.panState, hmove.panState]
  · rw [Chip.faultChan, hsaid.flt]
    exact hret

section
variable (c : Chip) (j : Fin 24)

theorem Chip.retiredPan_state (k : Fin 24) : (c.retiredPan j.val).panState k.val = if k = j then 3 else c.panState k.val := by
  rw [Chip.retiredPan, Chip.panState, Chip.getF_setF_other _ _ (by decide) (panFields j k).2.2.2.2.1]
  exact c.panState_setF j k (by decide)

theorem Chip.retiredPan_same : (c.retiredPan j.val).vlt = c.vlt ∧ (c.retiredPan j.val).ctl = c.ctl ∧ (c.retiredPan j.val).mem = c.mem ∧
    (c.retiredPan j.val).pan = c.pan := ⟨rfl, rfl, rfl, rfl⟩

theorem Chip.spareTakes_same (spare : Option Nat) : (c.spareTakes spare).vlt = c.vlt ∧ (c.spareTakes spare).ctl = c.ctl ∧
    (c.spareTakes spare).mem = c.mem := by
  cases spare with
  | none => exact ⟨rfl, rfl, rfl⟩
  | some k =>
    simp only [Chip.spareTakes]
    exact ite_cases (P := fun d : Chip => d.vlt = c.vlt ∧ d.ctl = c.ctl ∧ d.mem = c.mem) ⟨rfl, rfl, rfl⟩ ⟨rfl, rfl, rfl⟩

/-- A Pan that a spare's place is found for lies in the quadrant. -/
theorem Chip.spareFor_mem {q k : Nat} (h : c.spareFor q = some k) :
    k ∈ quadPans q ∧ (c.panState k = 1 ∨ (c.panState k = 2 ∧ c.panHome k = 1)) := by
  simp only [Chip.spareFor, Option.or_eq_some_iff] at h
  rcases h with h | ⟨-, h⟩
  · have hs := List.find?_some h
    exact ⟨List.mem_of_mem_filter (List.mem_of_find?_eq_some h), .inl (by simpa using hs)⟩
  · have hs := List.find?_some h
    exact ⟨List.mem_of_mem_filter (List.mem_of_find?_eq_some h), .inr (by simpa using hs)⟩

end

/-- A spare in dispatch enters service; one under test returns there. -/
theorem Chip.spareTakes_states (c : Chip) (k m : Fin 24) :
    (c.spareTakes (some k.val)).panState m.val = if c.panState k.val = 1 ∧ m = k then 0 else c.panState m.val := by
  simp only [Chip.spareTakes]
  by_cases h : c.panState k.val = 1
  · rw [if_pos h, c.panState_setF k m (by decide)]
    simp only [h, true_and]
  · rw [if_neg h]
    simp only [h, false_and, if_false]
    rfl

theorem quadPans_lt {q k : Nat} (hq : q < 4) (h : k ∈ quadPans q) : k < 24 := by
  simp only [quadPans, List.mem_map, List.mem_range] at h
  obtain ⟨i, hi, rfl⟩ := h
  omega

/-- A retired Pan. -/
theorem Chip.panRetire_spec {c : Chip} (j : Fin 24) (hst : c.panState j.val ≠ 3) :
    (c.panRetire j.val).panState j.val = 3 ∧ ((c.panRetire j.val).faultChan 2 j.val).retired = true ∧
      (c.panRetire j.val).vlt = c.vlt ∧ (c.panRetire j.val).ctl = c.ctl ∧ (c.panRetire j.val).mem = c.mem := by
  rw [Chip.panRetire_eq j hst]
  obtain ⟨spare, hspare⟩ : ∃ spare, (if c.panHome j.val = 1 then none else (c.retiredPan j.val).spareFor (j.val / 6)) = spare := ⟨_, rfl⟩
  simp only [hspare]
  have h := ((c.retiredPan j.val).spareTakes spare).retireRest_spec j spare
  obtain ⟨h1, h2, h3⟩ := (c.retiredPan j.val).spareTakes_same spare
  refine ⟨?_, h.retired, h.vlt.trans h1, h.ctl.trans h2, h.mem.trans h3⟩
  rw [h.states]
  cases spare with
  | none => exact (c.retiredPan_state j j).trans (if_pos rfl)
  | some k =>
    have hk : (c.retiredPan j.val).spareFor (j.val / 6) = some k := by
      split_ifs at hspare
      exact hspare
    obtain ⟨hmem, hs⟩ := (c.retiredPan j.val).spareFor_mem hk
    have hthree := (c.retiredPan_state j j).trans (if_pos rfl)
    have hlt : k < 24 := quadPans_lt (by omega) hmem
    have htake := (c.retiredPan j.val).spareTakes_states ⟨k, hlt⟩ j
    rw [if_neg ?_] at htake
    · exact htake.trans hthree
    · rintro ⟨hone, rfl⟩
      omega

/-- R117: the Pan that takes the place of a Pan in service. -/
theorem Chip.panRetire_serving {c : Chip} (j : Fin 24) (hst : c.panState j.val = 0) :
    let passed := (quadPans (j.val / 6)).filter fun k => SMap.get (fun _ => true) c.pan.tested k
    let spare := passed.find? fun k => c.panState k = 1
    let waiting := if spare.isSome then none else passed.find? fun k => c.panState k = 2 && c.panHome k = 1
    (∀ k : Fin 24, (c.panRetire j.val).panState k.val = if k = j then 3 else if spare = some k.val then 0 else c.panState k.val) ∧
      ∀ k, waiting = some k → SMap.get (fun _ => 0) (c.panRetire j.val).pan.katFrom k = 0 := by
  intro passed spare waiting
  have hhome : c.panHome j.val ≠ 1 := by simp [Chip.panHome, hst]
  have hstate : ∀ n ∈ quadPans (j.val / 6), (c.retiredPan j.val).panState n = if n = j.val then 3 else c.panState n := by
    intro n hn
    have := c.retiredPan_state j ⟨n, quadPans_lt (by omega) hn⟩
    simpa [Fin.ext_iff] using this
  have hone : (passed.find? fun k => (c.retiredPan j.val).panState k = 1) = spare := by
    refine List.find?_congr fun n hn => ?_
    rw [hstate n (List.mem_of_mem_filter hn)]
    by_cases h : n = j.val
    · simp [h, hst]
    · rw [if_neg h]
  have htwo : (passed.find? fun k => (c.retiredPan j.val).panState k = 2 && (c.retiredPan j.val).panHome k = 1) =
      passed.find? fun k => c.panState k = 2 && c.panHome k = 1 := by
    refine List.find?_congr fun n hn => ?_
    rw [Chip.panHome, hstate n (List.mem_of_mem_filter hn)]
    by_cases h : n = j.val
    · simp [h, hst]
    · rw [if_neg h]
      rfl
  have hfor : (c.retiredPan j.val).spareFor (j.val / 6) = spare.or (passed.find? fun k => c.panState k = 2 && c.panHome k = 1) := by
    rw [← hone, ← htwo]
    rfl
  rw [Chip.panRetire_eq j (by rw [hst]; decide), if_neg hhome]
  simp only [hfor]
  cases hs : spare with
  | some k =>
    have hmem := List.mem_of_mem_filter (List.mem_of_find?_eq_some hs)
    have hk : c.panState k = 1 := by simpa using List.find?_some hs
    have hlt : k < 24 := quadPans_lt (by omega) hmem
    have hkj : k ≠ j.val := by
      rintro rfl
      omega
    have hk' : (c.retiredPan j.val).panState k = 1 := by rw [hstate k hmem, if_neg hkj, hk]
    simp only [Option.some_or]
    have h := ((c.retiredPan j.val).spareTakes (some k)).retireRest_spec j (some k)
    refine ⟨fun m => ?_, fun n hn => ?_⟩
    · rw [h.states, (c.retiredPan j.val).spareTakes_states ⟨k, hlt⟩ m, c.retiredPan_state j m]
      have hm : m = (⟨k, hlt⟩ : Fin 24) ↔ k = m.val := by rw [Fin.ext_iff]; exact eq_comm
      simp only [hk', true_and, hm, Option.some.injEq]
      by_cases hmj : m = j
      · subst hmj
        rw [if_neg hkj, if_pos rfl, if_pos rfl]
      · rw [if_neg hmj, if_neg hmj]
    · simp [waiting, hs] at hn
  | none =>
    simp only [Option.none_or]
    have hwait : waiting = passed.find? fun k => c.panState k = 2 && c.panHome k = 1 := by simp [waiting, hs]
    cases hw : passed.find? fun k => c.panState k = 2 && c.panHome k = 1 with
    | none =>
      have h := ((c.retiredPan j.val).spareTakes none).retireRest_spec j none
      refine ⟨fun m => (h.states m).trans ?_, fun n hn => ?_⟩
      · exact (c.retiredPan_state j m).trans (by simp)
      · simp [hwait, hw] at hn
    | some k =>
      have hmem := List.mem_of_mem_filter (List.mem_of_find?_eq_some hw)
      have hk : c.panState k = 2 := (by simpa using List.find?_some hw : c.panState k = 2 ∧ _).1
      have hlt : k < 24 := quadPans_lt (by omega) hmem
      have hkj : k ≠ j.val := by
        rintro rfl
        omega
      have hk' : (c.retiredPan j.val).panState k ≠ 1 := by
        rw [hstate k hmem, if_neg hkj, hk]
        decide
      have h := ((c.retiredPan j.val).spareTakes (some k)).retireRest_spec j (some k)
      refine ⟨fun m => ?_, fun n hn => ?_⟩
      · rw [h.states, (c.retiredPan j.val).spareTakes_states ⟨k, hlt⟩ m, c.retiredPan_state j m]
        simp [hk']
      · rw [hwait, hw] at hn
        obtain rfl : k = n := Option.some.inj hn
        rw [h.katFrom]
        simp only [Chip.spareTakes, if_neg hk', Chip.modPan]
        exact SMap.get_set.trans (if_pos rfl)

/-! ### The end of a test, and errors (R114, R116, R437) -/

@[simp] theorem Chip.alarms_nil (c : Chip) : c.alarms [] = c := by
  simp only [Chip.alarms, List.filter_nil, Chip.each_nil, List.map_nil, Chip.answerAll, List.foldl_nil, ite_self]

/-- A fault of a channel with the response RETIRE, unless it is retired already. -/
theorem Chip.permanent_retire {c : Chip} {cls ch : Nat} (case' : Nat) (hlive : (c.faultChan cls ch).retired = false)
    (hz : c.ctl.zeroizing = none) :
    c.permanent cls ch case' 2 =
      (((((c.setF F.FLT_STAT_perm [] 1).setFaultChan cls ch { c.faultChan cls ch with retired := true }).setF F.FLT_LAST_resp [] 2).setF
        F.FLT_LAST_source [] (0x040 + cls)).raise Ev.FLT_PERMANENT (0x040 + cls)
          [(4, cls), (4, ch), (4, case'), (4, 2), (4, 2)]).retireEffect cls ch := by
  have hz' : (c.setF F.FLT_STAT_perm [] 1).ctl.zeroizing = none := hz
  simp only [Chip.permanent, Chip.permanentWith, hlive, hz', Option.isSome_none, Chip.alarms_nil, Bool.false_eq_true, if_false, if_true]
  rfl

section
variable {c : Chip} (j : Fin 24)

theorem Chip.katEnd_pass (hst : c.panState j.val = 2) (hfrom : SMap.get (fun _ => 0) c.pan.katFrom j.val ≤ 1) :
    let d := c.katEnd j.val true
    (∀ k : Fin 24, d.panState k.val = if k = j then SMap.get (fun _ => 0) c.pan.katFrom j.val else c.panState k.val) ∧
      d.getF F.PAN_STAT_kat_fails [j.val] = 0 ∧ d.getF F.PAN_CTL_kat [j.val] = 0 ∧ SMap.get (fun _ => true) d.pan.tested j.val = true ∧
      d.vlt = c.vlt := by
  obtain ⟨x, hx⟩ : ∃ x, ((c.modPan fun p => { p with tested := SMap.set (fun _ => true) p.tested j.val true }).setF F.PAN_CTL_kat [j.val]
    0).setF F.PAN_STAT_kat_fails [j.val] 0 = x := ⟨_, rfl⟩
  have hxs : ∀ k : Fin 24, x.panState k.val = c.panState k.val := by
    intro k
    obtain ⟨-, -, -, -, h1, h2, -⟩ := panFields j k
    rw [← hx, Chip.panState, Chip.getF_setF_other _ _ (by decide) h2, Chip.getF_setF_other _ _ (by decide) h1]
    rfl
  have hhome : ((c.modPan fun p => { p with tested := SMap.set (fun _ => true) p.tested j.val true }).setF F.PAN_CTL_kat [j.val]
      0).panHome j.val = SMap.get (fun _ => 0) c.pan.katFrom j.val := by
    have htwo : ((c.modPan fun p => { p with tested := SMap.set (fun _ => true) p.tested j.val true }).setF F.PAN_CTL_kat [j.val]
        0).panState j.val = 2 := by
      rw [Chip.panState, Chip.getF_setF_other _ _ (by decide) (panFields j j).2.2.2.2.1]
      exact hst
    rw [Chip.panHome, if_pos htwo]
    rfl
  have hd : c.katEnd j.val true = x.setPan j.val (SMap.get (fun _ => 0) c.pan.katFrom j.val) := by
    simp only [Chip.katEnd, hst, ne_eq, not_true_eq_false, if_false, if_true]
    rw [hhome, hx]
  obtain ⟨ha, hs⟩ := x.setPan_spec j (v := SMap.get (fun _ => 0) c.pan.katFrom j.val) (by omega)
  rw [← hd] at ha hs
  obtain ⟨hk1, hk2, -, -, hn1, hn2, -⟩ := panFields j j
  refine ⟨fun k => (hs k).trans (by rw [hxs]), ?_, ?_, ?_, ?_⟩
  · rw [ha.getF hk2, Chip.getF_setF_other _ _ (by decide) hn2.symm, ← hx, Chip.getF_setF_same _ _ _ _ (by decide)]
    rfl
  · have hne : F.PAN_CTL_kat.key [j.val] ≠ F.PAN_STAT_kat_fails.key [j.val] := by
      simp only [Fld.key, F.PAN_CTL_kat, F.PAN_STAT_kat_fails, dotStrides]
      omega
    rw [ha.getF hk1, Chip.getF_setF_other _ _ (by decide) hn1.symm, ← hx, Chip.getF_setF_other _ _ (by decide) hne,
      Chip.getF_setF_same _ _ _ _ (by decide)]
    rfl
  · rw [ha.tested, ← hx]
    exact (SMap.get_set_same : SMap.get _ (SMap.set (fun _ => true) c.pan.tested j.val true) j.val = true)
  · rw [ha.vlt, ← hx]
    rfl

/-- The block with a failure of Pan `j`'s test on record. -/
def Chip.katFailed (c : Chip) (j : Nat) : Chip :=
  (((c.modPan fun p => { p with tested := SMap.set (fun _ => true) p.tested j false }).setF F.PAN_CTL_kat [j] 0).setF
    F.PAN_STAT_kat_fails [j] (min 3 (c.getF F.PAN_STAT_kat_fails [j] + 1))).setF F.PAN_STAT_kat_fail [j] 1

theorem Chip.katEnd_fail (hst : c.panState j.val = 2) :
    c.katEnd j.val false = if min 3 (c.getF F.PAN_STAT_kat_fails [j.val] + 1) < 3 then c.katFailed j.val
      else (c.katFailed j.val).permanent 2 j.val 0 2 := by
  have hne : F.PAN_STAT_kat_fails.key [j.val] ≠ F.PAN_CTL_kat.key [j.val] := by
    simp only [Fld.key, F.PAN_CTL_kat, F.PAN_STAT_kat_fails, dotStrides]
    omega
  have hfails : ((c.modPan fun p => { p with tested := SMap.set (fun _ => true) p.tested j.val false }).setF F.PAN_CTL_kat [j.val]
      0).getF F.PAN_STAT_kat_fails [j.val] = c.getF F.PAN_STAT_kat_fails [j.val] := Chip.getF_setF_other _ _ (by decide) hne
  simp only [Chip.katEnd, hst, ne_eq, not_true_eq_false, if_false, Bool.false_eq_true, hfails]
  rfl

theorem Chip.katFailed_spec (hfails : c.getF F.PAN_STAT_kat_fails [j.val] < 2) :
    let d := c.katFailed j.val
    d.getF F.PAN_STAT_kat_fails [j.val] = c.getF F.PAN_STAT_kat_fails [j.val] + 1 ∧ d.getF F.PAN_STAT_kat_fail [j.val] = 1 ∧
      SMap.get (fun _ => true) d.pan.tested j.val = false ∧
      c.fieldsOnly { d with pan := c.pan } [F.PAN_STAT_kat_fails.key [j.val], F.PAN_STAT_kat_fail.key [j.val],
        F.PAN_CTL_kat.key [j.val]] := by
  have hne : F.PAN_STAT_kat_fails.key [j.val] ≠ F.PAN_STAT_kat_fail.key [j.val] := by
    simp only [Fld.key, F.PAN_STAT_kat_fail, F.PAN_STAT_kat_fails, dotStrides]
    omega
  refine ⟨?_, Chip.getF_setF_same _ _ _ _ (by decide),
    (SMap.get_set_same : SMap.get _ (SMap.set (fun _ => true) c.pan.tested j.val false) j.val = false), ?_⟩
  · rw [Chip.katFailed, Chip.getF_setF_other _ _ (by decide) hne, Chip.getF_setF_same _ _ _ _ (by decide),
      Nat.min_eq_right (by omega)]
    exact Nat.mod_eq_of_lt (show _ < 4 by omega)
  · refine (((c.setF_fieldsOnly F.PAN_CTL_kat [j.val] 0).trans (Chip.setF_fieldsOnly _ F.PAN_STAT_kat_fails [j.val] _)).trans
      (Chip.setF_fieldsOnly _ F.PAN_STAT_kat_fail [j.val] 1)).mono ?_
    intro k hk
    simp only [List.cons_append, List.nil_append, List.mem_cons, List.not_mem_nil, or_false] at hk ⊢
    tauto

theorem Chip.katEnd_retires (hst : c.panState j.val = 2) (hfails : 2 ≤ c.getF F.PAN_STAT_kat_fails [j.val])
    (hlive : (c.faultChan 2 j.val).retired = false) (hz : c.ctl.zeroizing = none) :
    (c.katEnd j.val false).panState j.val = 3 ∧ ((c.katEnd j.val false).faultChan 2 j.val).retired = true ∧
      (c.katEnd j.val false).vlt = c.vlt := by
  rw [Chip.katEnd_fail j hst, if_neg (by omega), Chip.permanent_retire (c := c.katFailed j.val) 0 hlive hz]
  obtain ⟨x, hx⟩ : ∃ x, ((((c.katFailed j.val).setF F.FLT_STAT_perm [] 1).setFaultChan 2 j.val
    { (c.katFailed j.val).faultChan 2 j.val with retired := true }).setF F.FLT_LAST_resp [] 2).setF F.FLT_LAST_source [] (0x040 + 2) = x :=
    ⟨_, rfl⟩
  obtain ⟨y, hy⟩ : ∃ y, x.raise Ev.FLT_PERMANENT (0x040 + 2) [(4, 2), (4, j.val), (4, 0), (4, 2), (4, 2)] = y := ⟨_, rfl⟩
  have hys : x.panKeeps y := hy ▸ (Chip.panKeeps.refl x).raise (by decide) _ _
  have hxs : x.panState j.val = 2 := by
    obtain ⟨-, -, -, -, h1, h2, h3, -⟩ := panFields j j
    have hflt : F.PAN_STAT_state.key [j.val] ≠ F.FLT_LAST_source.key [] ∧ F.PAN_STAT_state.key [j.val] ≠ F.FLT_LAST_resp.key [] ∧
        F.PAN_STAT_state.key [j.val] ≠ F.FLT_STAT_perm.key [] := by
      simp only [Fld.key, F.PAN_STAT_state, F.FLT_LAST_source, F.FLT_LAST_resp, F.FLT_STAT_perm, dotStrides]
      omega
    have hk : (c.katFailed j.val).panState j.val = 2 := by
      rw [Chip.katFailed, Chip.panState, Chip.getF_setF_other _ _ (by decide) h3, Chip.getF_setF_other _ _ (by decide) h2,
        Chip.getF_setF_other _ _ (by decide) h1]
      exact hst
    rw [← hx, Chip.panState, Chip.getF_setF_other _ _ (by decide) hflt.1, Chip.getF_setF_other _ _ (by decide) hflt.2.1]
    exact (Chip.getF_setF_other (c.katFailed j.val) 1 (by decide) hflt.2.2).trans hk
  have hvlt : x.vlt = c.vlt := by rw [← hx]; rfl
  simp only [hx, hy]
  obtain ⟨h1, h2, h3, -⟩ := Chip.panRetire_spec (c := y) j (by rw [hys.panState, hxs]; decide)
  exact ⟨h1, h2, h3.trans (hys.vlt.trans hvlt)⟩

end

/-! ### Errors at a request (R113, R114, R437) -/

/-- A choice that leaves one Pan out. -/
theorem Chip.leastPan_mem {c : Chip} {l : List Nat} {j : Nat} (h : c.leastPan l = some j) : j ∈ l := by
  have hfold : ∀ (l : List Nat) (b : Option Nat), l.foldl (fun best j => match best with
      | none => some j
      | some k => if c.panBlocks j < c.panBlocks k then some j else some k) b = some j → b = some j ∨ j ∈ l := by
    intro l
    induction l with
    | nil => exact fun b hb => .inl hb
    | cons x l ih =>
      intro b hb
      rcases ih _ hb with h | h
      · cases b with
        | none => exact .inr (by simpa using Or.inl (Option.some.inj h).symm)
        | some k =>
          simp only at h
          split_ifs at h
          · exact .inr (by simpa using Or.inl (Option.some.inj h).symm)
          · exact .inl h
      · exact .inr (List.mem_cons_of_mem _ h)
  exact (hfold l none h).resolve_left (by simp)

theorem Chip.choosePan_ne {c : Chip} {q j k : Nat} (h : c.choosePan q j = some k) : k ≠ j := by
  simp only [Chip.choosePan] at h
  split at h
  next i hi =>
    obtain rfl : i = k := Option.some.inj h
    have hmem := List.of_mem_filter (Chip.leastPan_mem hi)
    simp only [Bool.and_eq_true, decide_eq_true_eq] at hmem
    exact hmem.1
  next =>
    split_ifs at h
    obtain ⟨i, -, hi⟩ := Option.bind_eq_some_iff.1 h
    have hmem := List.of_mem_filter (Chip.leastPan_mem hi)
    simp only [Bool.and_eq_true, decide_eq_true_eq] at hmem
    exact hmem.1

theorem Chip.chooseAny_ne {c : Chip} {j k : Nat} (h : c.chooseAny j = some k) : k ≠ j := by
  have hmem := List.of_mem_filter (Chip.leastPan_mem h)
  simp only [Bool.and_eq_true, decide_eq_true_eq] at hmem
  exact hmem.1.2

/-- A request of another kind than OPEN goes to another Pan. -/
theorem Chip.panFor_ne {c : Chip} {r : PanReq} {j : Nat} (hk : r.kind ≠ .opening) (hj : j < 24) : (c.panFor r j).getD 24 ≠ j := by
  have hcases : c.panFor r j = c.chooseAny j ∨ c.panFor r j = c.choosePan (c.quadOf r) j := by
    simp only [Chip.panFor]
    cases hkind : r.kind with
    | opening => exact absurd hkind hk
    | laEnc => exact .inl rfl
    | laDec => exact .inl rfl
    | sealing => exact .inr rfl
    | kstream => exact .inr rfl
    | cmac => exact .inr rfl
  cases hp : c.panFor r j with
  | none => exact fun h => absurd (h ▸ hj) (by decide)
  | some k =>
    rcases hcases with h | h
    · exact Chip.chooseAny_ne (h.symm.trans hp)
    · exact Chip.choosePan_ne (h.symm.trans hp)

theorem Chip.setPanReq_same (c : Chip) (k : Nat) (v : Option PanReq) : (c.setPanReq k v).panReq k = v := by
  simp only [Chip.panReq, Chip.setPanReq, Chip.modPan, SMap.get_set_same]

/-- A first error leaves the recoveries of the classes. -/
theorem Chip.firstTransient_faultClass (c : Chip) (cls ch code n : Nat) : (c.firstTransient cls ch code).faultClass n = c.faultClass n := by
  have h : (c.firstTransient cls ch code).faultClass n = (c.saidTransient cls ch code).faultClass n := rfl
  rw [h, Chip.faultClass, (c.saidTransient_reports cls ch code).flt_eq, Chip.faultClass]

theorem Chip.firstTransient_getF (c : Chip) (cls ch code : Nat) {f : Fld} {i : List Nat} (hf : ¬ lossKey (f.key i))
    (hne : f.key i ≠ F.FLT_CLASS_CNT_count.key [cls]) : (c.firstTransient cls ch code).getF f i = c.getF f i := by
  have hsaid : (c.bump F.FLT_CLASS_CNT_count [cls]).loses (c.saidTransient cls ch code) := by
    simp only [Chip.saidTransient]
    exact ite_cases (P := Chip.loses _) ((Chip.loses.refl _).raise (by decide) _ _) ((Chip.loses.refl _).raise (by decide) _ _)
  exact (hsaid.getF hf).trans (Chip.getF_setF_other _ _ (by decide) hne)

theorem Chip.firstTransient_same (c : Chip) (cls ch code : Nat) : (c.firstTransient cls ch code).pan = c.pan ∧
    (c.firstTransient cls ch code).vlt = c.vlt ∧ (c.firstTransient cls ch code).mem = c.mem := by
  have h := c.saidTransient_reports cls ch code
  exact ⟨h.pan_eq, h.vlt_eq, h.mem_eq⟩

theorem Chip.cacheUse_panReq (c : Chip) (j slot gen k : Nat) : (c.cacheUse j slot gen).panReq k = c.panReq k := by
  simp only [Chip.cacheUse]
  split <;> rfl

section
variable {c : Chip} {j : Fin 24} {k : Nat} {r : PanReq} (check : Nat)

theorem Chip.panError_replays (hreq : c.panReq k = some r) (hpan : r.pan = j.val) (hopen : r.served = false)
    (hst : c.panState j.val = 0) (hkind : r.kind ≠ .opening) (hreplays : r.replays < 3) (htimes : (c.faultChan 2 j.val).times = [])
    (hlive : (c.faultChan 2 j.val).retired = false) (hfree : (c.faultClass 2).current = none)
    (hrate : 1 ≤ c.getF F.FLT_CFG_perm_rate []) :
    let d := c.panError k check
    (∃ p, p ≠ j.val ∧ d.panReq k = some { r with pan := p, replays := r.replays + 1, avoid := j.val }) ∧
      d.panState j.val = 2 ∧ d.getF F.PAN_STAT_err [j.val] = 1 ∧ (d.faultClass 2).current = some j.val ∧
      d.vlt = c.vlt ∧ d.mem = c.mem := by
  obtain ⟨hk1, hk2, hk3, hk4, hn1, hn2, hn3, hn4, hn5, -⟩ := panFields j j
  have herrne : F.PAN_STAT_err.key [j.val] ≠ F.PAN_ERR_CNT_count.key [j.val] := by
    simp only [Fld.key, F.PAN_STAT_err, F.PAN_ERR_CNT_count, dotStrides]
    omega
  -- the error is recorded
  obtain ⟨x, hx⟩ : ∃ x, (c.setF F.PAN_STAT_err [j.val] 1).bump F.PAN_ERR_CNT_count [j.val] = x := ⟨_, rfl⟩
  obtain ⟨y, hy⟩ : ∃ y, (x.raise Ev.PAN_ERR (0x200 + j.val) [(4, check), (4, r.kind.code)]).when (check = 1)
    (fun c => c.cacheDrop j.val r.slot r.gen) = y := ⟨_, rfl⟩
  have hxy : x.panKeeps y := hy ▸ ((Chip.panKeeps.refl x).raise (by decide) _ _).when (fun _ hd => hd.setCached _ _) _
  have hxst : x.panState j.val = 0 := by
    rw [← hx, Chip.panState, Chip.bump, Chip.getF_setF_other _ _ (by decide) hn5, Chip.getF_setF_other _ _ (by decide) hn4]
    exact hst
  have hxerr : x.getF F.PAN_STAT_err [j.val] = 1 := by
    rw [← hx, Chip.bump, Chip.getF_setF_other _ _ (by decide) herrne, Chip.getF_setF_same _ _ _ _ (by decide)]
    rfl
  have hxrate : x.getF F.FLT_CFG_perm_rate [] = c.getF F.FLT_CFG_perm_rate [] := by
    have h1 : F.FLT_CFG_perm_rate.key [] ≠ F.PAN_ERR_CNT_count.key [j.val] ∧ F.FLT_CFG_perm_rate.key [] ≠ F.PAN_STAT_err.key [j.val] := by
      simp only [Fld.key, F.FLT_CFG_perm_rate, F.PAN_ERR_CNT_count, F.PAN_STAT_err, dotStrides]
      omega
    rw [← hx, Chip.bump, Chip.getF_setF_other _ _ (by decide) h1.1, Chip.getF_setF_other _ _ (by decide) h1.2]
  have hxsame : x.vlt = c.vlt ∧ x.mem = c.mem ∧ x.flt = c.flt := by rw [← hx]; exact ⟨rfl, rfl, rfl⟩
  -- the Pan goes under test
  have htest := Chip.panTest_spec (c := y) j ((hxy.panState j).trans_le (hxst.trans_le (by decide)))
  obtain ⟨z, hz⟩ : ∃ z, y.panTest j.val = z := ⟨_, rfl⟩
  rw [hz] at htest
  -- the request goes to another one
  obtain ⟨p, hp⟩ : ∃ p, ((z.bump F.PAN_REPLAY_CNT_count [j.val]).panFor r j.val).getD 24 = p := ⟨_, rfl⟩
  have hpj : p ≠ j.val := hp ▸ Chip.panFor_ne hkind j.isLt
  obtain ⟨w, hw⟩ : ∃ w, z.replay k r = w := ⟨_, rfl⟩
  have hreplay := hw
  simp only [Chip.replay, Nat.not_le.2 hreplays, if_false, hpan, hp] at hreplay
  have hzw : z.panKeeps w := by
    rw [← hreplay]
    refine .when (.setPanReq (.setF (.refl z) _ ?_) _ _) (fun _ hd => hd.cacheUse _ _ _) _
    simp only [panKey, openerKey, quietKey, Fld.key, F.PAN_REPLAY_CNT_count, dotStrides]
    omega
  have hwreq : w.panReq k = some { r with pan := p, replays := r.replays + 1, avoid := j.val } := by
    have hset : ((z.bump F.PAN_REPLAY_CNT_count [j.val]).setPanReq k (some { r with pan := p, replays := r.replays + 1, avoid := j.val })).panReq k =
        some { r with pan := p, replays := r.replays + 1, avoid := j.val } := Chip.setPanReq_same _ _ _
    rw [← hreplay]
    exact Chip.when_induct (P := fun d : Chip => d.panReq k = some { r with pan := p, replays := r.replays + 1, avoid := j.val }) _ hset
      fun _ => (Chip.cacheUse_panReq _ _ _ _ _).trans hset
  -- the error is the first of its channel
  have hflt : w.flt = c.flt := hzw.flt.trans (htest.flt.trans (hxy.flt.trans hxsame.2.2))
  have hrate' : ¬ w.getF F.FLT_CFG_perm_rate [] < 1 := by
    have hquiet : panKey (F.FLT_CFG_perm_rate.key []) := by decide
    have hne : F.FLT_CFG_perm_rate.key [] ≠ F.PAN_STAT_state.key [j.val] := by
      simp only [Fld.key, F.FLT_CFG_perm_rate, F.PAN_STAT_state, dotStrides]
      omega
    rw [hzw.getF (.inl hquiet), htest.getF hquiet hne, hxy.getF (.inl hquiet), hxrate]
    omega
  have hclass : w.faultClass 2 = c.faultClass 2 := by rw [Chip.faultClass, hflt, Chip.faultClass]
  obtain ⟨v, hv⟩ : ∃ v, w.firstTransient 2 j.val check = v := ⟨_, rfl⟩
  have hvclass : v.faultClass 2 = c.faultClass 2 := by
    rw [← hv, Chip.firstTransient_faultClass, hclass]
  have hd : c.panError k check = v.setFaultClass 2 { v.faultClass 2 with current := some j.val } := by
    have hj24 : ¬ 24 ≤ j.val := by omega
    have hnot : r.served = false := hopen
    simp only [Chip.panError, hreq, hpan, hnot, hj24, decide_false, Bool.or_self, Bool.false_eq_true, if_false, hkind, hx, hy, hz, hw]
    have hch : (classChannels 2).contains j.val = true := by
      rw [List.contains_iff_mem]
      exact List.mem_range.2 j.isLt
    rw [hclass, hfree, Option.isSome_none, Bool.and_false, Chip.transient,
      Chip.transientJudge_first hch (by rw [Chip.faultChan, hflt]; exact htimes) (by rw [Chip.faultChan, hflt]; exact hlive)]
    simp only [if_neg hrate', hv, hvclass, hfree, Option.isNone_none, if_true, Bool.false_or]
    rfl
  obtain ⟨hvreq, hvvlt, hvmem⟩ : v.panReq k = w.panReq k ∧ v.vlt = w.vlt ∧ v.mem = w.mem := by
    obtain ⟨h1, h2, h3⟩ := w.firstTransient_same 2 j.val check
    exact hv ▸ ⟨congrArg (fun p : Pans => SMap.get (fun _ => none) p.reqs k) h1, h2, h3⟩
  have hvget : ∀ f : Fld, panKey (f.key [j.val]) → 0x180000 * 32 ≤ f.key [j.val] → f.key [j.val] < 0x181000 * 32 →
      v.getF f [j.val] = w.getF f [j.val] := by
    intro f hf hlo hhi
    refine hv ▸ w.firstTransient_getF 2 j.val check ?_ ?_
    · simp only [lossKey]
      omega
    · simp only [F.FLT_CLASS_CNT_count, Fld.key, dotStrides] at hlo ⊢
      omega
  have hrange : 0x180000 * 32 ≤ F.PAN_STAT_state.key [j.val] ∧ F.PAN_STAT_state.key [j.val] < 0x181000 * 32 ∧
      0x180000 * 32 ≤ F.PAN_STAT_err.key [j.val] ∧ F.PAN_STAT_err.key [j.val] < 0x181000 * 32 := by
    simp only [Fld.key, F.PAN_STAT_state, F.PAN_STAT_err, dotStrides]
    omega
  intro d
  rw [show d = _ from hd]
  refine ⟨⟨p, hpj, hvreq.trans hwreq⟩, ?_, ?_, ?_, ?_, ?_⟩
  · refine (hvget F.PAN_STAT_state (panKey_state j) hrange.1 hrange.2.1).trans ((hzw.panState j).trans ?_)
    exact (htest.states j).trans (if_pos rfl)
  · refine (hvget F.PAN_STAT_err hk4 hrange.2.2.1 hrange.2.2.2).trans ((hzw.getF (.inl hk4)).trans ?_)
    rw [htest.getF hk4 hn4.symm, hxy.getF (.inl hk4), hxerr]
  · simp only [Chip.faultClass, Chip.setFaultClass, Chip.modFlt, SMap.get_set_same]
  · exact hvvlt.trans (hzw.vlt.trans (htest.vlt.trans (hxy.vlt.trans hxsame.1)))
  · exact hvmem.trans (hzw.mem.trans (htest.mem.trans (hxy.mem.trans hxsame.2.1)))

end

/-- Settles O24: a test, a retirement and an error each write one Pan's word, and dispatch and the openers follow. -/
theorem panServiceAndErrors : Obligations.PanServiceAndErrors := by
  unfold Obligations.PanServiceAndErrors
  intro s j c q st tested passed spare waiting
  have htested : ∀ d : Chip, c.testing d j → tested d := fun d h =>
    ⟨h.states, h.katFrom, h.inService, h.opener0, h.opener1, h.vlt, h.ctl, h.mem⟩
  refine ⟨fun hst => ⟨fun ht => ?_, fun hnone => ?_, fun hsome => ?_⟩, fun ht hmode hst => ?_, fun hst hfrom => ⟨?_, fun hf => ?_,
    fun hf hlive hz => ?_⟩, fun k r check hwf hreq hpan hopen hst hkind hrep htimes hlive hfree hrate => ?_, fun hmode => ?_,
    fun hstop hnone => ?_⟩
  · obtain ⟨hk, -, -, -, hne, -⟩ := panFields j j
    have hall : ∀ k : Fin 24, (c.setF F.PAN_CTL_kat [j.val] 1).panState k.val = c.panState k.val := fun k =>
      Chip.getF_setF_other _ _ (by decide) (panFields j k).2.2.2.2.1
    have hspec := Chip.panTest_spec (c := c.setF F.PAN_CTL_kat [j.val] 1) j ((hall j).trans_le hst)
    refine completes_eq (f := fun c => c.put .PAN_CTL [j.val] 1) rfl ((ht.pf0Write _ _).trans (c.regWrite_panKat j hst 0)) ⟨?_, ?_⟩
      (congrArg Vault.owners hspec.vlt)
    · exact ⟨fun k => (hspec.states k).trans (by rw [hall]), hspec.katFrom.trans (hall j), hspec.inService, hspec.opener0, hspec.opener1,
        hspec.vlt, hspec.ctl, hspec.mem⟩
    · exact (hspec.getF hk hne.symm).trans (Chip.getF_setF_same _ _ _ _ (by decide))
  · have hspec := Chip.panTest_spec (c := c) j hst
    exact completes_eq (f := fun c => c.panIdleTest j.val) (d := c.panTest j.val) rfl
      (show c.when (c.requestsOn j.val).isEmpty _ = _ by rw [hnone]; rfl) (htested _ hspec) (congrArg Vault.owners hspec.vlt)
  · exact completes_eq (f := fun c => c.panIdleTest j.val) (d := c) rfl
      (show c.when (c.requestsOn j.val).isEmpty _ = _ by rw [hsome]; rfl) rfl rfl
  · have hall : ∀ k : Fin 24, (c.setF F.PAN_CTL_retire [j.val] 1).panState k.val = c.panState k.val := fun k =>
      Chip.getF_setF_other _ _ (by decide) (panFields j k).2.2.2.2.2.2.2.2.2
    obtain ⟨hthree, hret, hvlt, hctl, hmem⟩ := Chip.panRetire_spec (c := c.setF F.PAN_CTL_retire [j.val] 1) j (by rw [hall]; exact Nat.ne_of_lt (hst.trans_lt (by decide)))
    obtain ⟨hstates, hwait⟩ := Chip.panRetire_serving (c := c.setF F.PAN_CTL_retire [j.val] 1) j ((hall j).trans hst)
    have hall' : ∀ k ∈ passed, (c.setF F.PAN_CTL_retire [j.val] 1).panState k = c.panState k := fun k hk =>
      hall ⟨k, quadPans_lt (by omega) (List.mem_of_mem_filter hk)⟩
    have hspare : (passed.find? fun k => (c.setF F.PAN_CTL_retire [j.val] 1).panState k = 1) = spare :=
      List.find?_congr fun k hk => by rw [hall' k hk]
    have hwaits : (passed.find? fun k => (c.setF F.PAN_CTL_retire [j.val] 1).panState k = 2 &&
        (c.setF F.PAN_CTL_retire [j.val] 1).panHome k = 1) = passed.find? fun k => c.panState k = 2 && c.panHome k = 1 :=
      List.find?_congr fun k hk => by
        simp only [Chip.panHome, hall' k hk]
        rfl
    refine completes_eq (f := fun c => c.put .PAN_CTL [j.val] 2) rfl ((ht.pf0Write _ _).trans (c.regWrite_panRetire j hmode 0))
      ⟨?_, ?_, hret, hvlt, hctl, hmem⟩ (congrArg Vault.owners hvlt)
    · have hstates' := fun k : Fin 24 => (hstates k).trans (congrArg (fun o => if k = j then 3 else if o = some k.val then 0 else _) hspare)
      simpa only [hall] using hstates'
    · intro k hk
      refine hwait k ?_
      exact (congrArg₂ (fun (a b : Option Nat) => if a.isSome then none else b) hspare hwaits).trans hk
  · obtain ⟨h1, h2, h3, h4, hvlt⟩ := Chip.katEnd_pass j hst hfrom
    exact completes_eq (f := fun c => c.katEnd j.val true) rfl rfl ⟨h1, h2, h3, h4⟩ (congrArg Vault.owners hvlt)
  · obtain ⟨h1, h2, h3, h4⟩ := Chip.katFailed_spec j hf
    exact completes_eq (f := fun c => c.katEnd j.val false) rfl ((Chip.katEnd_fail j hst).trans (if_pos (by omega))) ⟨h1, h2, h3, h4⟩ rfl
  · obtain ⟨h1, h2, hvlt⟩ := Chip.katEnd_retires j hst hf hlive hz
    exact completes_eq (f := fun c => c.katEnd j.val false) rfl rfl ⟨h1, h2⟩ (congrArg Vault.owners hvlt)
  · have h := Chip.panError_replays check.val hreq hpan hopen hst hkind hrep htimes hlive hfree hrate
    exact completes_eq (f := fun c => c.panError k check.val) rfl rfl h (congrArg Vault.owners h.2.2.2.2.1)
  · exact completes_eq (f := Chip.stopLine) rfl (if_pos hmode) rfl rfl
  · refine completes_eq (f := Chip.cacheClear) rfl (if_pos ?_) rfl rfl
    simp only [Bool.and_eq_true, List.all_eq_true, Option.isNone_iff_eq_none]
    exact ⟨hstop, hnone⟩

end Sys2Proof.Machine

/-! PROOFS. Sub-ports and lanes (R209, R535, R537 to R541, R548). -/
namespace Sys2Proof.Machine

/-! ### A sub-port that comes up with a calibrated lane -/

/-- A block in ACTIVE with port 0 enabled and DOWN, whose lane 0 keeps the delay of an earlier calibration. -/
def calibratedDown : State := {
  chip := ({
    ctl := { mode := .active }, tim := { calHad := [0], calUse := [0] }, evr := { started := true } } : Chip).setF F.PRT_LINK_CFG_en [0] 1 }

/-- The sub-port comes up, and its lane awaits a calibration. -/
theorem portUp_calibratedDown : completes (.portUp 0 0) calibratedDown fun d => d.tim.calUse = [] := by
  rw [completes_iff rfl]
  decide +kernel

/-- Refutes O25: its first clause keeps the whole of the time block, and R209 takes the lanes of a sub-port that comes up
out of `calUse`: in `calibratedDown` lane 0 stands there. -/
theorem not_lanesAndPorts : ¬ Obligations.LanesAndPorts := by
  unfold Obligations.LanesAndPorts
  intro h
  obtain ⟨hup, -⟩ := h calibratedDown 0 0 0 0 0 0 0
  obtain ⟨d, ⟨-, -, -, -, -, -, hkeeps⟩, hcal⟩ := completes_unique
    (hup (by decide +kernel) (by decide +kernel) (by decide +kernel) (by decide +kernel) rfl (by decide +kernel) (by decide +kernel)
      ⟨rfl, by decide⟩) portUp_calibratedDown
  have hkept : d.tim.calUse = [0] := congrArg (fun d : Chip => d.tim.calUse) hkeeps
  rw [hcal] at hkept
  exact absurd hkept (by decide)

end Sys2Proof.Machine

/-! PROOFS. Time that passes, and the events of the clock (R195 to R203, R216). -/
namespace Sys2Proof.Machine

/-! ### Cycles of the clock (R195, R200) -/

theorem Tim.turn_elapsed (t : Tim) (r : RateChange) (l : List (Nat × RateChange)) : (t.turn r l).elapsed = t.elapsed := by
  cases r <;> rfl

/-- What cycles leave of the time block. -/
structure Tim.runsTo (t u : Tim) : Prop where
  epoch : u.epoch = t.epoch
  windowDone : u.windowDone = t.windowDone
  ppsOut : u.ppsOut = t.ppsOut
  ppsRose : u.ppsRose = t.ppsRose
  acquired : u.acquired = t.acquired

theorem Tim.runsTo.turned {t u : Tim} (h : t.runsTo u) (r : RateChange) (l : List (Nat × RateChange)) : t.runsTo (u.turn r l) := by
  cases r <;> exact ⟨h.1, h.2, h.3, h.4, h.5⟩

theorem Tim.runsTo.plain {t u : Tim} (h : t.runsTo u) (n : Nat) : t.runsTo (u.plain n) := by
  simp only [Tim.plain]
  generalize clockOf u.clock.sec (clockSub u.clock + n * rateUnits u.freq u.slew) = k
  generalize u.remain - (n : Int) * (u.slew * 2 ^ 64 / 1000000000) = r
  exact ⟨h.1, h.2, h.3, h.4, h.5⟩

theorem Tim.runsTo.pass {t u : Tim} (h : t.runsTo u) (n : Nat) (l : List (Nat × RateChange)) : t.runsTo (u.pass n l) := by
  induction l generalizing u n with
  | nil => exact h.plain n
  | cons x l ih =>
    simp only [Tim.pass]
    split_ifs with hm
    · exact ih ((h.plain _).turned _ _) _
    · exact h.plain n

theorem Tim.plain_rates (t : Tim) (n : Nat) :
    (t.plain n).changes = t.changes ∧ (t.plain n).freq = t.freq ∧ (t.plain n).slew = t.slew := by
  unfold Tim.plain
  generalize clockOf t.clock.sec (clockSub t.clock + n * rateUnits t.freq t.slew) = k
  generalize t.remain - (n : Int) * (t.slew * 2 ^ 64 / 1000000000) = r
  exact ⟨rfl, rfl, rfl⟩

theorem Tim.pass_elapsed (t : Tim) (n : Nat) (l : List (Nat × RateChange)) :
    (t.pass n l).elapsed = t.elapsed + BitVec.ofNat 64 n := by
  induction l generalizing t n with
  | nil => rfl
  | cons x l ih =>
    simp only [Tim.pass]
    split_ifs with hm
    · obtain ⟨m, hmn⟩ : ∃ m, x.1 - t.elapsed.toNat = m := ⟨_, rfl⟩
      rw [hmn] at hm ⊢
      rw [ih, Tim.turn_elapsed]
      show t.elapsed + BitVec.ofNat 64 m + BitVec.ofNat 64 (n - m) = _
      rw [BitVec.add_assoc, ← BitVec.ofNat_add, Nat.add_sub_cancel' hm]
    · rfl

theorem Chip.cycles_now (c : Chip) {n : Nat} (h : c.now + n < 2 ^ 64) : (c.cycles n).now = c.now + n := by
  simp only [Chip.now, Chip.cycles, Tim.pass_elapsed] at h ⊢
  rw [BitVec.toNat_add, BitVec.toNat_ofNat, Nat.add_mod_mod, Nat.mod_eq_of_lt h]

/-- A clock that has reached a value needs no cycle to reach it. -/
theorem Tim.cyclesTo_reached {t : Tim} {target : Nat} (h : target ≤ clockUnits t.clock) (l : List (Nat × RateChange)) :
    t.cyclesTo target l = 0 := by
  have hnone : (target - clockUnits t.clock + (rateUnits t.freq t.slew - 1)) / rateUnits t.freq t.slew = 0 := by
    rw [Nat.sub_eq_zero_of_le h, Nat.zero_add, Nat.div_eq_zero_iff]
    omega
  cases l with
  | nil => exact hnone
  | cons x l => simp only [Tim.cyclesTo, hnone, Nat.zero_le, if_true]

theorem clockNs_le_units (k : Clock) : clockNs k * 2 ^ 64 ≤ clockUnits k := by
  simp only [clockNs, clockUnits, secUnits, clockSub]
  omega

theorem Chip.reach_reached {c : Chip} {ns : Nat} (h : ns ≤ clockNs c.tim.clock) : c.reach ns = c := by
  have hunits : ns * 2 ^ 64 ≤ clockUnits c.tim.clock := (Nat.mul_le_mul_right _ h).trans (clockNs_le_units _)
  simp only [Chip.reach, Tim.cyclesTo_reached hunits, if_true]

theorem Chip.reach_runs (c : Chip) (ns : Nat) : c.reach ns = { c with tim := (c.reach ns).tim } ∧ c.tim.runsTo (c.reach ns).tim := by
  have hself : c.tim.runsTo c.tim := ⟨rfl, rfl, rfl, rfl, rfl⟩
  simp only [Chip.reach]
  split_ifs
  · exact ⟨rfl, hself⟩
  · exact ⟨rfl, hself.pass _ _⟩

theorem Chip.reachElapsed_runs (c : Chip) (ns : Nat) :
    c.reachElapsed ns = { c with tim := (c.reachElapsed ns).tim } ∧ c.tim.runsTo (c.reachElapsed ns).tim := by
  have hself : c.tim.runsTo c.tim := ⟨rfl, rfl, rfl, rfl, rfl⟩
  simp only [Chip.reachElapsed]
  split_ifs
  · exact ⟨rfl, hself.pass _ _⟩
  · exact ⟨rfl, hself⟩

theorem Chip.le_reachElapsed (c : Chip) {ns : Nat} (h : ns < 2 ^ 64) : ns ≤ (c.reachElapsed ns).now := by
  simp only [Chip.reachElapsed]
  split_ifs with hlt
  · rw [Chip.cycles_now _ (by omega)]
    omega
  · omega

/-- Cycles up to the first announced change bring it, and no later one. -/
theorem Chip.cycles_first {c : Chip} {t : Nat} {x : RateChange} {xs : List (Nat × RateChange)} (hch : c.tim.changes = (t, x) :: xs)
    (hnow : c.now ≤ t) (ht : t < 2 ^ 64) (hlater : ∀ y ∈ xs, t < y.1) :
    (c.cycles (t - c.now)).tim = (((c.tim.plain (t - c.now)).turn x xs).plain 0) := by
  have helapsed : ((c.tim.plain (t - c.now)).turn x xs).elapsed.toNat = t := by
    rw [Tim.turn_elapsed]
    show (c.tim.elapsed + BitVec.ofNat 64 (t - c.now)).toNat = t
    simp only [Chip.now] at hnow ⊢
    rw [BitVec.toNat_add, BitVec.toNat_ofNat, Nat.add_mod_mod, Nat.mod_eq_of_lt (by omega)]
    omega
  simp only [Chip.cycles, hch, Tim.pass]
  rw [if_pos (show t - c.tim.elapsed.toNat ≤ t - c.now from Nat.le_refl _), show t - c.tim.elapsed.toNat = t - c.now from rfl, Nat.sub_self]
  cases xs with
  | nil => rfl
  | cons y ys =>
    have hy : t < y.1 := hlater y (List.mem_cons_self ..)
    simp only [Tim.pass]
    rw [if_neg (by rw [helapsed]; omega)]

/-! ### What follows the master without moving the clock (R206, R216) -/

/-- The clock's value, what a slew has yet to absorb, the reference's state and the mode block stand. -/
structure Chip.paced (c d : Chip) : Prop where
  clock : d.tim.clock = c.tim.clock
  remain : d.tim.remain = c.tim.remain
  refState : d.refState = c.refState
  ctl : d.ctl = c.ctl
  owners : d.vlt.owners = c.vlt.owners

namespace Chip.paced

variable {a c d : Chip}

theorem refl (c : Chip) : c.paced c := ⟨rfl, rfl, rfl, rfl, rfl⟩

theorem trans (h : a.paced c) (g : c.paced d) : a.paced d :=
  ⟨g.clock.trans h.clock, g.remain.trans h.remain, g.refState.trans h.refState, g.ctl.trans h.ctl, g.owners.trans h.owners⟩

theorem of_untimed (h : c.untimed d) : c.paced d :=
  ⟨congrArg Tim.clock h.tim, congrArg Tim.remain h.tim, h.regs.getF (by decide), h.ctl, h.onward.1⟩

section
variable (h : a.paced c)
include h

theorem raise {code : Nat} (hcode : code < 0x3000) (src : Nat) (items : List (Nat × Nat)) : a.paced (c.raise code src items) :=
  h.trans (.of_untimed ((Chip.untimed.refl c).raise hcode src items))

theorem setF {f : Fld} {i : List Nat} (v : Nat) (hw : f.w ≤ 32) (hf : F.TIM_STAT_ref_state.key [] ≠ f.key i) : a.paced (c.setF f i v) :=
  h.trans ⟨rfl, rfl, Chip.getF_setF_other _ _ hw hf, rfl, rfl⟩

theorem setTim {t : Tim} (hc : t.clock = c.tim.clock) (hr : t.remain = c.tim.remain) : a.paced { c with tim := t } :=
  h.trans ⟨hc, hr, rfl, rfl, rfl⟩

theorem jumped (old : Chip) : a.paced (c.jumped old) := h.trans (.of_untimed (Chip.untimed.jumped c old))

theorem epochEnd : a.paced c.epochEnd := by
  simp only [Chip.epochEnd]
  exact ite_cases (P := a.paced) ((h.setF _ (by decide) (by decide)).raise (by decide) _ _) h

theorem setEpoch (e : Nat) : a.paced (c.setEpoch e) :=
  (h.setTim (t := { c.tim with epoch := min epochMax e, windowDone := false }) rfl rfl).epochEnd

theorem judgeEpoch : a.paced c.judgeEpoch := by
  simp only [Chip.judgeEpoch]
  split_ifs
  · split
    next n _ =>
      have hmove := h.setTim (t := { c.tim with epoch := min epochMax n, windowDone := false }) rfl rfl
      exact ite_cases (P := a.paced) (hmove.raise (by decide) _ _).epochEnd h
    · exact h
  · split
    · exact (h.setF _ (by decide) (by decide)).setEpoch _
    · exact h
  · exact h

theorem takeEpochCfg (org len : Nat) : a.paced (c.takeEpochCfg org len) :=
  (((h.setF _ (by decide) (by decide)).setF _ (by decide) (by decide)).setF _ (by decide) (by decide)).trans ⟨rfl, rfl, rfl, rfl, rfl⟩

theorem setFreq (f : BitVec 40) : a.paced (c.setFreq f) :=
  ((h.setF _ (by decide) (by decide)).setF _ (by decide) (by decide)).setTim rfl rfl

theorem slewCancelled : a.paced { c.slewCancel with tim := { c.slewCancel.tim with remain := c.tim.remain } } := by
  obtain ⟨t, hcancel, hclock, -, -, -, hfields⟩ := c.slewCancel_spec
  obtain ⟨x, hx⟩ : ∃ x, c.slewCancel = x := ⟨_, rfl⟩
  rw [hx] at hcancel hfields ⊢
  have htim : x.tim = t := by rw [hcancel]
  have hctl : x.ctl = c.ctl := by rw [hcancel]
  have hvlt : x.vlt = c.vlt := by rw [hcancel]
  exact h.trans ⟨(congrArg Tim.clock htim).trans hclock, rfl, hfields F.TIM_STAT_ref_state [] (by decide), hctl, congrArg Vault.owners hvlt⟩

end

end Chip.paced

/-- R202: the value of a clock that steps. -/
theorem Chip.stepTo_clock (c : Chip) (k : Clock) :
    (c.stepTo k).tim.clock = k ∧ (c.stepTo k).refState = c.refState ∧ (c.stepTo k).vlt.owners = c.vlt.owners := by
  have hcancel := (Chip.paced.refl c).slewCancelled
  obtain ⟨off, hoff⟩ : ∃ off, c.slewCancel.txStepped ((clockUnits k : Int) - clockUnits c.tim.clock) =
      { c.slewCancel with tim := { c.slewCancel.tim with txOff := off } } := ⟨_, rfl⟩
  obtain ⟨y, hy⟩ : ∃ y : Chip, { c.slewCancel with tim := { c.slewCancel.tim with txOff := off, clock := k, acquired := true } } = y :=
    ⟨_, rfl⟩
  have hsame : y.tim.clock = k ∧ y.refState = c.refState ∧ y.vlt.owners = c.vlt.owners := by
    subst hy
    exact ⟨rfl, hcancel.refState, hcancel.owners⟩
  have hon : y.paced (c.stepTo k) := by
    simp only [Chip.stepTo, hoff, hy]
    exact (((Chip.paced.refl y).setF _ (by decide) (by decide)).raise (by decide) _ _).judgeEpoch
  exact ⟨hon.clock.trans hsame.1, hon.refState.trans hsame.2.1, hon.owners.trans hsame.2.2⟩

/-- R197: a reference that is followed is LOCKED. -/
theorem Chip.locks_spec (c : Chip) :
    let d := if c.refState = 2 then c else (c.setRefState 2).raise Ev.REF_QUALIFIED 0x0C0
    d.refState = 2 ∧ d.tim = c.tim ∧ d.vlt.owners = c.vlt.owners := by
  intro d
  by_cases h : c.refState = 2
  · rw [show d = c from if_pos h]
    exact ⟨h, rfl, rfl⟩
  · have hsaid := (Chip.untimed.refl (c.setRefState 2)).raise (code := Ev.REF_QUALIFIED) (by decide) 0x0C0 []
    rw [show d = _ from if_neg h]
    refine ⟨(hsaid.regs.getF (f := F.TIM_STAT_ref_state) (i := []) (by decide)).trans ?_, hsaid.tim, hsaid.onward.1⟩
    rw [Chip.setRefState, Chip.getF_setF_other _ _ (by decide) (by decide), Chip.getF_setF_same _ _ _ _ (by decide)]
    rfl

/-- R206, R216: the block after the master's O, L and F. -/
def Chip.stackCfg (c : Chip) (f : BitVec 40) (org len : Nat) : Chip :=
  let x := if c.getF F.TIM_EPOCH_CFG_len [] = len && c.epochOrg = org then c else (c.takeEpochCfg org len).judgeEpoch.jumped c
  if f.toInt.natAbs ≤ freqMax then x.setFreq f else x

theorem Chip.stackCfg_paced (c : Chip) (f : BitVec 40) (org len : Nat) : c.paced (c.stackCfg f org len) := by
  have hx := ite_cases (P := c.paced) (p := (c.getF F.TIM_EPOCH_CFG_len [] = len && c.epochOrg = org) = true) (.refl c)
    (((Chip.paced.refl c).takeEpochCfg org len).judgeEpoch.jumped c)
  exact ite_cases (P := c.paced) (hx.setFreq f) hx

section
variable {c : Chip} (k : Clock) (f : BitVec 40) (org len : Nat)

/-- R216: the first word that a member takes is a step. -/
theorem Chip.stackTime_first (hsrc : c.getF F.TIM_REF_CFG_src [] = 2) (hhold : c.getB F.TIM_CTL_hold [] = false)
    (hgot : c.tim.stackGot = false) (hmode : c.inMode [.provision, .maintenance] = true) :
    let d := c.stackTime k f org len
    d.tim.clock = k ∧ d.tim.acquired = true ∧ d.tim.stackGot = true ∧ d.refState = 2 ∧ d.vlt.owners = c.vlt.owners := by
  intro d
  have hx := c.stackCfg_paced f org len
  obtain ⟨x, hxe⟩ : ∃ x, c.stackCfg f org len = x := ⟨_, rfl⟩
  rw [hxe] at hx
  simp only [Chip.stackCfg] at hxe
  have hxmode : x.inMode [.provision, .maintenance] = true := by rw [Chip.inMode, hx.ctl]; exact hmode
  obtain ⟨hclock, -, hown⟩ := x.stepTo_clock k
  have hjump := Chip.untimed.jumped (x.stepTo k) x
  obtain ⟨hlock, htim, hlown⟩ := (((x.stepTo k).jumped x).acquire).locks_spec
  have hd : d = if ((x.stepTo k).jumped x).acquire.refState = 2 then ((x.stepTo k).jumped x).acquire else
      (((x.stepTo k).jumped x).acquire.setRefState 2).raise Ev.REF_QUALIFIED 0x0C0 := by
    show c.stackTime k f org len = _
    simp only [Chip.stackTime, hsrc, hhold, hgot, hxe, hxmode, Bool.not_false, Bool.true_or, Bool.and_self, decide_true, if_true]
  rw [hd]
  refine ⟨?_, ?_, ?_, hlock, ?_⟩
  · rw [htim]
    exact (congrArg Tim.clock hjump.tim).trans hclock
  · rw [htim]
    rfl
  · rw [htim]
    rfl
  · exact hlown.trans (hjump.onward.1.trans (hown.trans hx.owners))

/-- R216: the next words are slewed to. -/
theorem Chip.stackTime_next (hsrc : c.getF F.TIM_REF_CFG_src [] = 2) (hhold : c.getB F.TIM_CTL_hold [] = false)
    (hgot : c.tim.stackGot = true) (hlocked : c.refState = 2) :
    let d := c.stackTime k f org len
    let diff : Int := (clockUnits k / 2 ^ 48 : Nat) - (clockUnits c.tim.clock / 2 ^ 48 : Nat)
    d.tim.clock = c.tim.clock ∧ d.refState = 2 ∧ (diff ≠ 0 → d.tim.remain = diff * 2 ^ 48 ∧ d.getB F.TIM_STAT_slewing [] = true) ∧
      (diff = 0 → d.tim.remain = c.tim.remain) ∧ d.ctl = c.ctl ∧ d.vlt.owners = c.vlt.owners := by
  intro d diff
  have hx := c.stackCfg_paced f org len
  obtain ⟨x, hxe⟩ : ∃ x, c.stackCfg f org len = x := ⟨_, rfl⟩
  rw [hxe] at hx
  simp only [Chip.stackCfg] at hxe
  have hdiff : ((clockUnits k / 2 ^ 48 : Nat) - (clockUnits x.tim.clock / 2 ^ 48 : Nat) : Int) = diff := by rw [hx.clock]
  have hxlocked : x.refState = 2 := hx.refState.trans hlocked
  have hd : d = if (if diff = 0 then x else x.slewStart diff).refState = 2 then if diff = 0 then x else x.slewStart diff else
      ((if diff = 0 then x else x.slewStart diff).setRefState 2).raise Ev.REF_QUALIFIED 0x0C0 := by
    show c.stackTime k f org len = _
    simp only [Chip.stackTime, hsrc, hhold, hgot, hlocked, hxe, hdiff, Bool.not_true, Bool.not_false, Bool.and_self, decide_true, if_true,
      show ((2 : Nat) = 3) = False by decide, decide_false, Bool.false_and, Bool.or_self, Bool.false_eq_true, if_false]
  by_cases h0 : diff = 0
  · rw [hd]
    simp only [if_pos h0, if_pos hxlocked]
    exact ⟨hx.clock, hxlocked, fun h => absurd h0 h, fun _ => hx.remain, hx.ctl, hx.owners⟩
  · obtain ⟨n, htim, -⟩ := x.slewStart_spec diff
    have hregs : (x.slewStart diff).regs = (x.setF F.TIM_STAT_slewing [] 1).regs := rfl
    have hstate : (x.slewStart diff).refState = 2 :=
      (Chip.getF_congr hregs _ _).trans ((Chip.getF_setF_other _ _ (by decide) (by decide)).trans hxlocked)
    rw [hd]
    simp only [if_neg h0, if_pos hstate]
    refine ⟨?_, hstate, fun _ => ⟨?_, ?_⟩, fun h => absurd h h0, hx.ctl, hx.owners⟩
    · rw [htim]
      exact hx.clock
    · rw [htim]
    · exact Chip.getB_of (n := 1) ((Chip.getF_congr hregs _ _).trans (Chip.getF_setF_same _ _ _ _ (by decide)))

end

/-! ### Frequency, references and PPS (R197 to R203) -/

/-- R198. -/
theorem Chip.setFreq_spec (c : Chip) (f : BitVec 40) :
    (c.setFreq f).tim = { c.tim with changes := insertDue c.tim.changes (c.now + 2048, .freq (signed 40 f.toNat)) } ∧
      (c.setFreq f).getF F.TIM_FREQ_HI_f_hi [] * 2 ^ 32 + (c.setFreq f).getF F.TIM_FREQ_LO_f_lo [] = f.toNat ∧
      c.fieldsOnly { c.setFreq f with tim := c.tim } [F.TIM_FREQ_HI_f_hi.key [], F.TIM_FREQ_LO_f_lo.key []] := by
  obtain ⟨x, hx⟩ : ∃ x, (c.setF F.TIM_FREQ_LO_f_lo [] (f.toNat % 2 ^ 32)).setF F.TIM_FREQ_HI_f_hi [] (f.toNat / 2 ^ 32) = x := ⟨_, rfl⟩
  have hf := f.isLt
  have hhi : x.getF F.TIM_FREQ_HI_f_hi [] = f.toNat / 2 ^ 32 := by
    rw [← hx, Chip.getF_setF_same _ _ _ _ (by decide)]
    exact Nat.mod_eq_of_lt (Nat.div_lt_of_lt_mul hf)
  have hlo : x.getF F.TIM_FREQ_LO_f_lo [] = f.toNat % 2 ^ 32 := by
    rw [← hx, Chip.getF_setF_other _ _ (by decide) (by decide), Chip.getF_setF_same _ _ _ _ (by decide)]
    exact Nat.mod_mod _ _
  have hword : x.getF F.TIM_FREQ_HI_f_hi [] * 2 ^ 32 + x.getF F.TIM_FREQ_LO_f_lo [] = f.toNat := by
    rw [hhi, hlo]
    omega
  have htim : x.tim = c.tim := by subst hx; rfl
  have hset : c.setFreq f = { x with tim := { x.tim with changes := insertDue x.tim.changes (x.now + 2048, .freq (signed 40 f.toNat)) } } := by
    rw [Chip.setFreq, hx, Chip.freqApply, hword]
    rfl
  have hnow : x.now = c.now := by rw [Chip.now, htim, Chip.now]
  rw [hset]
  refine ⟨by rw [htim, hnow], hword, ?_⟩
  have hfields : c.fieldsOnly x _ := hx ▸ (c.setF_fieldsOnly _ _ _).trans (Chip.setF_fieldsOnly _ _ _ _)
  obtain ⟨hframe, hkeys⟩ := hfields.mono (m := [F.TIM_FREQ_HI_f_hi.key [], F.TIM_FREQ_LO_f_lo.key []]) (by decide)
  refine ⟨?_, hkeys⟩
  rw [hframe]

/-- R200. -/
theorem Chip.rateEffect_spec {c : Chip} {t : Nat} {x : RateChange} {xs : List (Nat × RateChange)} (hch : c.tim.changes = (t, x) :: xs)
    (hnow : c.now ≤ t) (ht : t < 2 ^ 64) (hlater : ∀ y ∈ xs, t < y.1) :
    let d := c.cycles (t - c.now)
    d.now = t ∧ d.tim.changes = xs ∧ (∀ f, x = .freq f → d.tim.freq = f ∧ d.tim.slew = c.tim.slew) ∧
      (∀ v, x = .slew v → d.tim.slew = v ∧ d.tim.freq = c.tim.freq) := by
  intro d
  have htim : d.tim = _ := Chip.cycles_first hch hnow ht hlater
  obtain ⟨u, hu⟩ : ∃ u, c.tim.plain (t - c.now) = u := ⟨_, rfl⟩
  obtain ⟨-, hfreq, hslew⟩ := c.tim.plain_rates (t - c.now)
  obtain ⟨hch', hfreq', hslew'⟩ := (u.turn x xs).plain_rates 0
  rw [hu] at htim hfreq hslew
  rw [← htim] at hch' hfreq' hslew'
  refine ⟨?_, hch'.trans ?_, fun f hf => ⟨hfreq'.trans ?_, hslew'.trans ?_⟩, fun v hv => ⟨hslew'.trans ?_, hfreq'.trans ?_⟩⟩
  · rw [show d.now = _ from c.cycles_now (by omega)]
    omega
  · cases x <;> rfl
  · rw [hf]
    rfl
  · rw [hf]
    exact hslew
  · rw [hv]
    rfl
  · rw [hv]
    exact hfreq

/-- R201. -/
theorem Chip.slewDone_spec {c : Chip} {t : Nat} {v : Int} (hslewing : c.getB F.TIM_STAT_slewing [] = true)
    (hch : c.tim.changes = [(t, .slew v)]) (hnow : c.now < t) (ht : t < 2 ^ 64) (hlogs : c.logs) :
    let d := c.slewDone
    d.getB F.TIM_STAT_slewing [] = false ∧ d.tim.remain = 0 ∧ d.tim.changes = [] ∧ d.tim.slew = v ∧ d.now = t ∧
      c.logged d [⟨Ev.SLEW_DONE, 0x0C0, [], false⟩] ∧ d.tim.epoch = c.tim.epoch ∧ d.vlt = c.vlt := by
  obtain ⟨hnowd, hchd, -, hslew⟩ := Chip.rateEffect_spec hch hnow.le ht (fun _ h => absurd h List.not_mem_nil)
  obtain ⟨y, hy⟩ : ∃ y, c.cycles (t - c.now) = y := ⟨_, rfl⟩
  have hruns : c.tim.runsTo y.tim := hy ▸ Tim.runsTo.pass ⟨rfl, rfl, rfl, rfl, rfl⟩ _ _
  have hrest : y = { c with tim := y.tim } := by subst hy; rfl
  rw [hy] at hnowd hchd hslew
  have hlast : (c.tim.changes.filter (·.2.isSlew)).getLast? = some (t, .slew v) := by rw [hch]; rfl
  obtain ⟨z, hz⟩ : ∃ z, ({ y with tim := { y.tim with remain := 0 } } : Chip).setF F.TIM_STAT_slewing [] 0 = z := ⟨_, rfl⟩
  have hztim : z.tim = { y.tim with remain := 0 } := by subst hz; rfl
  have hysame : y.evr = c.evr ∧ y.vlt = c.vlt := ⟨by rw [hrest], by rw [hrest]⟩
  have hzlogs : z.evr = c.evr ∧ z.vlt = c.vlt := by
    rw [← hz, Chip.setF_evr, Chip.setF_vlt]
    exact hysame
  have hd : c.slewDone = z.raise Ev.SLEW_DONE 0x0C0 := by
    simp only [Chip.slewDone, hslewing, if_true, hlast, Chip.reachElapsed, if_pos hnow, hy, hz]
  intro d
  rw [show d = _ from hd, Chip.raise_logs (by rw [Chip.logs, hzlogs.1]; exact hlogs) (by decide)]
  refine ⟨?_, ?_, ?_, ?_, ?_, ?_, ?_, hzlogs.2⟩
  · refine Chip.getB_of (n := 0) ?_
    show z.getF _ _ = 0
    rw [← hz, Chip.getF_setF_same _ _ _ _ (by decide)]
    rfl
  · rw [hztim]
  · rw [hztim]
    exact hchd
  · rw [hztim]
    exact (hslew v rfl).1
  · show z.tim.elapsed.toNat = t
    rw [hztim]
    exact hnowd
  · rw [Chip.logged, hzlogs.1]
  · rw [hztim]
    exact hruns.epoch

/-- R197. -/
theorem Chip.refQualified_spec {c : Chip} (hsrc : c.getF F.TIM_REF_CFG_src [] ≠ 0) (hhold : c.getB F.TIM_CTL_hold [] = false)
    (hstate : c.refState ≠ 2) (hlogs : c.logs) :
    let d := c.refQualified
    d.refState = 2 ∧ d.holdover = false ∧ d.tim = c.tim ∧ c.logged d [⟨Ev.REF_QUALIFIED, 0x0C0, [], false⟩] ∧ d.vlt = c.vlt := by
  obtain ⟨y, hy⟩ : ∃ y, c.setRefState 2 = y := ⟨_, rfl⟩
  have hhold' : (c.setF F.TIM_STAT_ref_state [] 2).getB F.TIM_CTL_hold [] = false := by
    rw [Chip.getB, Chip.getF_setF_other _ _ (by decide) (by decide)]
    exact hhold
  have hsame : y.evr = c.evr ∧ y.tim = c.tim ∧ y.vlt = c.vlt := by subst hy; exact ⟨rfl, rfl, rfl⟩
  have hd : c.refQualified = y.raise Ev.REF_QUALIFIED 0x0C0 := by
    rw [Chip.refQualified, if_pos (by simp [hsrc, hhold, hstate]), hy]
  intro d
  rw [show d = _ from hd, Chip.raise_logs (by rw [Chip.logs, hsame.1]; exact hlogs) (by decide)]
  refine ⟨?_, ?_, hsame.2.1, ?_, hsame.2.2⟩
  · show y.getF _ _ = 2
    rw [← hy, Chip.setRefState, Chip.getF_setF_other _ _ (by decide) (by decide), Chip.getF_setF_same _ _ _ _ (by decide)]
    rfl
  · refine Chip.getB_of (n := 0) ?_
    show y.getF _ _ = 0
    rw [← hy, Chip.setRefState, Chip.getF_setF_same _ _ _ _ (by decide), hhold]
    rfl
  · rw [Chip.logged, hsame.1]

/-- R199. -/
theorem Chip.refLost_spec {c : Chip} (hstate : c.refState = 2) (hlogs : c.logs) :
    let d := c.refLost
    d.refState = 3 ∧ d.holdover = true ∧ d.getF F.TIM_STAT_ref_lost [] = 1 ∧ d.tim = { c.tim with lostAt := c.now } ∧
      c.logged d [⟨Ev.REF_LOST, 0x0C0, [], false⟩] ∧ d.vlt = c.vlt := by
  obtain ⟨y, hy⟩ : ∃ y : Chip, (({ c with tim := { c.tim with lostAt := c.now } } : Chip).setRefState 3).setF F.TIM_STAT_ref_lost [] 1 = y :=
    ⟨_, rfl⟩
  have hsame : y.evr = c.evr ∧ y.tim = { c.tim with lostAt := c.now } ∧ y.vlt = c.vlt := by subst hy; exact ⟨rfl, rfl, rfl⟩
  have hd : c.refLost = y.raise Ev.REF_LOST 0x0C0 := by
    rw [Chip.refLost, if_pos hstate, ← hy]
  intro d
  rw [show d = _ from hd, Chip.raise_logs (by rw [Chip.logs, hsame.1]; exact hlogs) (by decide)]
  refine ⟨?_, ?_, ?_, hsame.2.1, ?_, hsame.2.2⟩
  · show y.getF _ _ = 3
    rw [← hy, Chip.getF_setF_other _ _ (by decide) (by decide), Chip.setRefState, Chip.getF_setF_other _ _ (by decide) (by decide),
      Chip.getF_setF_same _ _ _ _ (by decide)]
    rfl
  · refine Chip.getB_of (n := 1) ?_
    show y.getF _ _ = 1
    rw [← hy, Chip.getF_setF_other _ _ (by decide) (by decide), Chip.setRefState, Chip.getF_setF_same _ _ _ _ (by decide)]
    rfl
  · show y.getF _ _ = 1
    rw [← hy, Chip.getF_setF_same _ _ _ _ (by decide)]
    rfl
  · rw [Chip.logged, hsame.1]

/-- R203: the clock at an edge of PPS_IN. -/
def Chip.ppsCaptured (c : Chip) : Chip :=
  ((((c.setF F.TIM_PPS_CAP_SEC_LO_sec [] (c.tim.clock.sec % 2 ^ 32)).setF F.TIM_PPS_CAP_SEC_HI_sec []
    (c.tim.clock.sec / 2 ^ 32)).setF F.TIM_PPS_CAP_NS_ns [] c.tim.clock.ns).setF F.TIM_PPS_CAP_FRAC_frac [] c.tim.clock.frac).setF
    F.TIM_STAT_pps_new [] 1

theorem Chip.ppsCaptured_fieldsOnly (c : Chip) :
    c.fieldsOnly c.ppsCaptured [F.TIM_PPS_CAP_SEC_HI_sec.key [], F.TIM_PPS_CAP_SEC_LO_sec.key [], F.TIM_PPS_CAP_NS_ns.key [],
      F.TIM_PPS_CAP_FRAC_frac.key [], F.TIM_STAT_pps_new.key []] :=
  (((((c.setF_fieldsOnly _ _ _).trans (Chip.setF_fieldsOnly _ _ _ _)).trans (Chip.setF_fieldsOnly _ _ _ _)).trans
    (Chip.setF_fieldsOnly _ _ _ _)).trans (Chip.setF_fieldsOnly _ _ _ _)).mono (by decide)

theorem Chip.ppsCaptured_spec (c : Chip) (hsec : c.tim.clock.sec < 2 ^ 48) (hns : c.tim.clock.ns < 10 ^ 9) (hfrac : c.tim.clock.frac < 2 ^ 16) :
    c.ppsCaptured.getF F.TIM_PPS_CAP_SEC_HI_sec [] * 2 ^ 32 + c.ppsCaptured.getF F.TIM_PPS_CAP_SEC_LO_sec [] = c.tim.clock.sec ∧
      c.ppsCaptured.getF F.TIM_PPS_CAP_NS_ns [] = c.tim.clock.ns ∧ c.ppsCaptured.getF F.TIM_PPS_CAP_FRAC_frac [] = c.tim.clock.frac := by
  simp only [Chip.ppsCaptured]
  refine ⟨?_, ?_, ?_⟩
  · rw [Chip.getF_setF_other _ _ (by decide) (by decide), Chip.getF_setF_other _ _ (by decide) (by decide),
      Chip.getF_setF_other _ _ (by decide) (by decide), Chip.getF_setF_same _ _ _ _ (by decide),
      Chip.getF_setF_other _ _ (by decide) (by decide), Chip.getF_setF_other _ _ (by decide) (by decide),
      Chip.getF_setF_other _ _ (by decide) (by decide), Chip.getF_setF_other _ _ (by decide) (by decide),
      Chip.getF_setF_same _ _ _ _ (by decide)]
    simp only [F.TIM_PPS_CAP_SEC_HI_sec, F.TIM_PPS_CAP_SEC_LO_sec]
    omega
  · rw [Chip.getF_setF_other _ _ (by decide) (by decide), Chip.getF_setF_other _ _ (by decide) (by decide),
      Chip.getF_setF_same _ _ _ _ (by decide)]
    exact Nat.mod_eq_of_lt (hns.trans (by decide))
  · rw [Chip.getF_setF_other _ _ (by decide) (by decide), Chip.getF_setF_same _ _ _ _ (by decide)]
    exact Nat.mod_eq_of_lt hfrac

theorem Chip.ppsIn_of {c : Chip} (hen : c.getB F.TIM_PPS_CFG_in_en [] = true) (hnew : c.getB F.TIM_STAT_pps_new [] = false) :
    c.ppsIn = if c.ppsCaptured.getB F.TIM_REF_CFG_pps_align [] then
      if 1000000 * 2 ^ 16 < (phaseError c.tim.clock).natAbs then
        (c.ppsCaptured.slewStart (-phaseError c.tim.clock)).raise Ev.PPS_FAR 0x0C0
      else c.ppsCaptured.slewStart (-phaseError c.tim.clock)
    else c.ppsCaptured := by
  rw [Chip.ppsIn, if_pos (by rw [hen, hnew]; rfl)]
  exact rfl

theorem phaseError_eq (k : Clock) :
    phaseError k = (k.ns * 2 ^ 16 + k.frac : Nat) - (if k.ns < 500000000 then 0 else 1000000000 * 2 ^ 16) := by
  simp only [phaseError]
  split_ifs
  · rw [Int.sub_zero]
  · rfl

/-- R203: an edge that is aligned to starts a slew. -/
theorem Chip.ppsIn_align {c : Chip} (hen : c.getB F.TIM_PPS_CFG_in_en [] = true) (hnew : c.getB F.TIM_STAT_pps_new [] = false)
    (halign : c.getB F.TIM_REF_CFG_pps_align [] = true) (hlogs : c.logs) :
    let d := c.ppsIn
    let e := phaseError c.tim.clock
    let m : Int := c.getF F.TIM_SLEW_CFG_max []
    d.getF F.TIM_STAT_pps_new [] = 1 ∧ d.getB F.TIM_STAT_slewing [] = true ∧
      (∃ n : Nat, d.tim = { c.tim with
        remain := -e * 2 ^ 48,
        changes := insertDue (insertDue c.standing (c.now + 2048, .slew (if 0 < e then -m else m)))
          (c.now + 2048 + n, .slew 0) }) ∧
      c.logged d (if 1000000 * 2 ^ 16 < e.natAbs then [⟨Ev.PPS_FAR, 0x0C0, [], false⟩] else []) ∧ d.vlt = c.vlt := by
  intro d e m
  obtain ⟨y, hy⟩ : ∃ y, c.ppsCaptured = y := ⟨_, rfl⟩
  obtain ⟨z, hz⟩ : ∃ z, y.slewStart (-e) = z := ⟨_, rfl⟩
  obtain ⟨hframe, hkeys⟩ := hy ▸ c.ppsCaptured_fieldsOnly
  have hytim : y.tim = c.tim := by rw [hframe]
  have hysame : y.evr = c.evr ∧ y.vlt = c.vlt := ⟨by rw [hframe], by rw [hframe]⟩
  have halign' : y.getB F.TIM_REF_CFG_pps_align [] = true := by
    rw [← halign, Chip.getB, Chip.getB, Chip.getF, Chip.getF, hkeys _ (by decide)]
  have hmax : (y.getF F.TIM_SLEW_CFG_max [] : Int) = m := by
    rw [Chip.getF, hkeys _ (by decide)]
    rfl
  have hynew : y.getF F.TIM_STAT_pps_new [] = 1 := by
    rw [← hy, Chip.ppsCaptured, Chip.getF_setF_same _ _ _ _ (by decide)]
    rfl
  have hzregs : z.regs = (y.setF F.TIM_STAT_slewing [] 1).regs := by subst hz; rfl
  have hzsame : z.evr = c.evr ∧ z.vlt = c.vlt := by
    rw [← hz]
    exact hysame
  have hd : d = if 1000000 * 2 ^ 16 < e.natAbs then z.raise Ev.PPS_FAR 0x0C0 else z := by
    show c.ppsIn = _
    rw [Chip.ppsIn_of hen hnew, hy, if_pos halign', hz]
  have hdsame : d.regs = z.regs ∧ d.tim = z.tim ∧ d.vlt = z.vlt ∧
      c.logged d (if 1000000 * 2 ^ 16 < e.natAbs then [⟨Ev.PPS_FAR, 0x0C0, [], false⟩] else []) := by
    rw [hd]
    split_ifs
    · rw [Chip.raise_logs (by rw [Chip.logs, hzsame.1]; exact hlogs) (by decide)]
      exact ⟨rfl, rfl, rfl, by rw [Chip.logged, hzsame.1]⟩
    · exact ⟨rfl, rfl, rfl, by rw [Chip.logged, hzsame.1, List.append_nil]⟩
  obtain ⟨hdregs, hdtim, hdvlt, hlog⟩ := hdsame
  obtain ⟨n, htim, -⟩ := y.slewStart_spec (-e)
  refine ⟨?_, ?_, ⟨n, ?_⟩, hlog, hdvlt.trans hzsame.2⟩
  · rw [Chip.getF_congr (hdregs.trans hzregs), Chip.getF_setF_other _ _ (by decide) (by decide), hynew]
  · refine Chip.getB_of (n := 1) ?_
    rw [Chip.getF_congr (hdregs.trans hzregs), Chip.getF_setF_same _ _ _ _ (by decide)]
    rfl
  · have hstanding : y.standing = c.standing ∧ y.now = c.now := by
      exact ⟨by rw [Chip.standing, Chip.rateDue, Chip.now, hytim]; rfl, by rw [Chip.now, hytim, Chip.now]⟩
    rw [hdtim, ← hz, htim, hmax, hstanding.1, hstanding.2, hytim]
    simp only [Int.neg_neg_iff_pos]

/-- Settles O26: each event of the clock, and the two ways in which a member follows its master's time word. -/
theorem timeEvents : Obligations.TimeEvents := by
  unfold Obligations.TimeEvents
  intro s f w port delay c k src
  refine ⟨fun hstate hsrc hf => ?_, fun t x xs hch hnow ht hlater => ?_, fun t v hslew hch hnow ht hlogs => ?_,
    fun hsrc hhold hstate hlogs => ?_, fun hstate hlogs => ?_, fun hen hnew hsec hns hfrac halign => ?_, fun hno => ?_,
    fun hen hnew halign _ hlogs => ?_, fun hen hout hmode => ?_, fun hout hlt => ?_, fun hsrc hhold hport => ⟨fun hgot hmode => ?_,
    fun hgot hlocked => ?_⟩, fun hport => ?_⟩
  · obtain ⟨h1, h2, h3⟩ := c.setFreq_spec f
    refine completes_eq (f := fun c => c.freqUpdate f) rfl (if_pos ?_) ⟨h1, h2, h3⟩ rfl
    simp only [Bool.and_eq_true, decide_eq_true_eq, bne_iff_ne]
    exact ⟨⟨hstate, hsrc⟩, hf⟩
  · obtain ⟨h1, h2, h3, h4⟩ := Chip.rateEffect_spec hch hnow ht hlater
    refine completes_eq (f := Chip.rateEffect) rfl (d := c.cycles (t - c.now)) ?_ ⟨h1, h2, rfl, h3, h4⟩ rfl
    show c.rateEffect = _
    rw [Chip.rateEffect, hch]
  · obtain ⟨h1, h2, h3, h4, h5, h6, h7, hvlt⟩ := Chip.slewDone_spec hslew hch hnow ht hlogs
    exact completes_eq (f := Chip.slewDone) rfl rfl ⟨h1, h2, h3, h4, h5, h6, h7⟩ (congrArg Vault.owners hvlt)
  · obtain ⟨h1, h2, h3, h4, hvlt⟩ := Chip.refQualified_spec hsrc hhold hstate hlogs
    exact completes_eq (f := Chip.refQualified) rfl rfl ⟨h1, h2, h3, h4⟩ (congrArg Vault.owners hvlt)
  · obtain ⟨h1, h2, h3, h4, h5, hvlt⟩ := Chip.refLost_spec hstate hlogs
    exact completes_eq (f := Chip.refLost) rfl rfl ⟨h1, h2, h3, h4, h5⟩ (congrArg Vault.owners hvlt)
  · obtain ⟨h1, h2, h3⟩ := c.ppsCaptured_spec hsec hns hfrac
    have hkeys := c.ppsCaptured_fieldsOnly
    refine completes_eq (f := Chip.ppsIn) rfl (d := c.ppsCaptured) ?_ ⟨h1, h2, h3, ?_, hkeys⟩ rfl
    · have halign' : c.ppsCaptured.getB F.TIM_REF_CFG_pps_align [] = false := by
        rw [Chip.getB, Chip.getF, hkeys.2 _ (by decide)]
        exact halign
      exact (Chip.ppsIn_of hen hnew).trans (if_neg (Bool.eq_false_iff.1 halign'))
    · exact (Chip.getF_setF_same _ _ _ _ (by decide)).trans rfl
  · refine completes_eq (f := Chip.ppsIn) rfl (if_neg ?_) rfl rfl
    rcases hno with h | h <;> simp [c, h]
  · obtain ⟨h1, h2, ⟨n, h3⟩, h4, hvlt⟩ := Chip.ppsIn_align hen hnew halign hlogs
    rw [phaseError_eq] at h3 h4
    exact completes_eq (f := Chip.ppsIn) rfl rfl ⟨h1, h2, ⟨n, h3⟩, h4⟩ (congrArg Vault.owners hvlt)
  · obtain ⟨x, hx⟩ : ∃ x, (if clockSub k < rateUnits c.tim.freq c.tim.slew then c else c.reach ((k.sec + 1) * 1000000000)) = x := ⟨_, rfl⟩
    have hframe : x = { c with tim := x.tim } := hx ▸ ite_cases (P := fun x : Chip => x = { c with tim := x.tim }) rfl (c.reach_runs _).1
    refine completes_eq (f := Chip.ppsRise) rfl (d := { x with tim := { x.tim with ppsOut := true, ppsRose := x.now } }) ?_
      ⟨rfl, rfl, fun hlt => ?_, ?_⟩ (show x.vlt.owners = c.vlt.owners by rw [hframe])
    · show c.ppsRise = _
      rw [Chip.ppsRise, if_pos (by simp [hen, hout, hmode]), ← hx]
    · rw [← hx, if_pos hlt]
    · rw [hframe]
  · obtain ⟨hframe, -⟩ := c.reachElapsed_runs (c.tim.ppsRose + c.getF F.TIM_PPS_CFG_width [] * 1000000)
    have hle := c.le_reachElapsed hlt
    obtain ⟨x, hx⟩ : ∃ x, c.reachElapsed (c.tim.ppsRose + c.getF F.TIM_PPS_CFG_width [] * 1000000) = x := ⟨_, rfl⟩
    rw [hx] at hframe hle
    refine completes_eq (f := Chip.ppsFall) rfl (d := { x with tim := { x.tim with ppsOut := false } }) ?_ ⟨rfl, hle, ?_⟩
      (show x.vlt.owners = c.vlt.owners by rw [hframe])
    · show c.ppsFall = _
      rw [Chip.ppsFall, if_pos hout, hx]
    · rw [hframe]
  · obtain ⟨h1, h2, h3, h4, hown⟩ := Chip.stackTime_first
      (clockOf w.sec.toNat ((w.ns.toNat * 2 ^ 16 + w.frac.toNat + delay.toNat) * 2 ^ 48)) f w.org.toNat w.len.toNat hsrc hhold hgot hmode
    exact completes_eq rfl (if_neg (not_not.2 hport)) ⟨h1, h2, h3, h4⟩ hown
  · obtain ⟨h1, h2, h3, h4, h5, hown⟩ := Chip.stackTime_next
      (clockOf w.sec.toNat ((w.ns.toNat * 2 ^ 16 + w.frac.toNat + delay.toNat) * 2 ^ 48)) f w.org.toNat w.len.toNat hsrc hhold hgot hlocked
    exact completes_eq rfl (if_neg (not_not.2 hport)) ⟨h1, h2, h3, h4, h5⟩ hown
  · exact completes_eq rfl (if_pos hport) rfl rfl

end Sys2Proof.Machine

/-! PROOFS. The epoch counter (R204 to R207). -/
namespace Sys2Proof.Machine

section
variable {c : Chip}

/-- R207: the counter reaches its last value. -/
theorem Chip.epochEnd_last (hepoch : c.tim.epoch = epochMax) (hend : c.getB F.TIM_STAT_epoch_end [] = false) :
    c.epochEnd = (c.setF F.TIM_STAT_epoch_end [] 1).raise Ev.EPOCH_END 0x0C1 := by
  rw [Chip.epochEnd, if_pos (by rw [hepoch, hend]; rfl)]

theorem Chip.epochEnd_before (hepoch : c.tim.epoch ≠ epochMax) : c.epochEnd = c := by
  rw [Chip.epochEnd, if_neg (by simp [hepoch])]

theorem Chip.epochEnd_said (c : Chip) :
    ((c.setF F.TIM_STAT_epoch_end [] 1).raise Ev.EPOCH_END 0x0C1).getF F.TIM_STAT_epoch_end [] = 1 := by
  rw [(Chip.quietRegs_raise (c.setF F.TIM_STAT_epoch_end [] 1) (code := Ev.EPOCH_END) (by decide) _ _).getF (by decide),
    Chip.getF_setF_same _ _ _ _ (by decide)]
  rfl

/-- R205: the counter rises at its tick. -/
theorem Chip.epochTick_spec (hticking : c.ticking = true) :
    let d := c.epochTick
    d.tim.epoch = min epochMax (c.tim.epoch + 1) ∧ d.tim.windowDone = false ∧
      (c.epochInstant (c.tim.epoch + 1) ≤ clockNs c.tim.clock → d.tim.clock = c.tim.clock) ∧
      (c.tim.epoch + 1 < epochMax → d = { c with tim := d.tim }) ∧
      (epochMax ≤ c.tim.epoch + 1 → d.getB F.TIM_STAT_epoch_end [] = true) ∧ d.vlt.owners = c.vlt.owners := by
  obtain ⟨hframe, hruns⟩ := c.reach_runs (c.epochInstant (c.tim.epoch + 1))
  obtain ⟨x, hx⟩ : ∃ x, c.reach (c.epochInstant (c.tim.epoch + 1)) = x := ⟨_, rfl⟩
  rw [hx] at hframe hruns
  obtain ⟨y, hy⟩ : ∃ y : Chip, { x with tim := { x.tim with epoch := min epochMax (c.tim.epoch + 1), windowDone := false } } = y := ⟨_, rfl⟩
  have hd : c.epochTick = y.epochEnd := by
    simp only [Chip.epochTick, if_pos hticking, hx, Chip.setEpoch, hruns.epoch, hy]
  have hytim : y.tim = { x.tim with epoch := min epochMax (c.tim.epoch + 1), windowDone := false } := by subst hy; rfl
  have hyframe : y = { c with tim := y.tim } := by
    rw [← hy, hframe]
  have hynot : y.getB F.TIM_STAT_epoch_end [] = false := by
    have hnot : c.getB F.TIM_STAT_epoch_end [] = false := by
      simp only [Chip.ticking, Bool.and_eq_true, Bool.not_eq_true'] at hticking
      exact hticking.2
    rw [hyframe]
    exact hnot
  obtain ⟨htim, honly⟩ := y.epochEnd_spec
  intro d
  rw [show d = _ from hd]
  refine ⟨by rw [htim, hytim], by rw [htim, hytim], fun hreached => ?_, fun hlt => ?_, fun hle => ?_, ?_⟩
  · rw [htim, hytim, ← hx, Chip.reach_reached hreached]
  · rw [Chip.epochEnd_before (by rw [hytim]; show min epochMax (c.tim.epoch + 1) ≠ epochMax; omega)]
    exact hyframe
  · rw [Chip.epochEnd_last (by rw [hytim]; exact Nat.min_eq_left hle) hynot]
    exact Chip.getB_of (Chip.epochEnd_said y)
  · exact honly.onward.1.trans (show y.vlt.owners = c.vlt.owners by rw [hyframe])

end

/-- Settles O27: the tick, the window tick, the start at O and the end of the counter. -/
theorem epochCounter : Obligations.EpochCounter := by
  unfold Obligations.EpochCounter
  intro s c
  refine ⟨fun hticking => ?_, fun hticking => ?_, fun hvalid hacq => ?_, fun hepoch hend hlogs => ?_, fun hticking => ?_⟩
  · obtain ⟨h1, h2, h3, h4, h5, hown⟩ := Chip.epochTick_spec hticking
    exact completes_eq (f := Chip.epochTick) rfl rfl ⟨h1, h2, h3, h4, h5⟩ hown
  · obtain ⟨hframe, hruns⟩ := c.reach_runs (c.epochInstant (c.tim.epoch + 1) - c.rekeyW)
    obtain ⟨x, hx⟩ : ∃ x, c.reach (c.epochInstant (c.tim.epoch + 1) - c.rekeyW) = x := ⟨_, rfl⟩
    rw [hx] at hframe hruns
    refine completes_eq (f := Chip.windowTick) rfl (d := { x with tim := { x.tim with windowDone := true } }) ?_
      ⟨rfl, hruns.epoch, ?_, fun hreached => ?_⟩ (show x.vlt.owners = c.vlt.owners by rw [hframe])
    · show c.windowTick = _
      rw [Chip.windowTick, if_pos hticking, hx]
    · rw [hframe]
    · rw [← hx, Chip.reach_reached hreached]
  · obtain ⟨hframe, hruns⟩ := c.reach_runs (c.epochOrg * 1000000000)
    obtain ⟨x, hx⟩ : ∃ x, c.reach (c.epochOrg * 1000000000) = x := ⟨_, rfl⟩
    rw [hx] at hframe hruns
    refine completes_eq (f := Chip.epochValidStart) rfl
      (d := { x.setF F.TIM_STAT_epoch_valid [] 1 with tim := { x.tim with epoch := 0, windowDone := false } }) ?_
      ⟨?_, rfl, rfl, ?_⟩ (show x.vlt.owners = c.vlt.owners by rw [hframe])
    · show c.epochValidStart = _
      rw [Chip.epochValidStart, if_pos (by simp [hvalid, hacq]), hx]
      exact Chip.epochEnd_before (c := { x.setF F.TIM_STAT_epoch_valid [] 1 with tim := { x.tim with epoch := 0, windowDone := false } })
        (show (0 : Nat) ≠ epochMax by decide)
    · exact Chip.getB_of (n := 1) (Chip.getF_setF_same x F.TIM_STAT_epoch_valid [] 1 (by decide))
    · obtain ⟨h1, h2⟩ := c.setF_fieldsOnly F.TIM_STAT_epoch_valid [] 1
      exact ⟨by rw [hframe]; rfl, fun k hk => by rw [hframe]; exact h2 k hk⟩
  · have hsame := Chip.raise_logs (c := c.setF F.TIM_STAT_epoch_end [] 1) (code := Ev.EPOCH_END) (src := 0x0C1) (items := []) hlogs (by decide)
    refine completes_eq (f := Chip.epochEnd) rfl (Chip.epochEnd_last hepoch hend) ⟨c.epochEnd_said, ?_, ?_⟩ ?_
    · rw [hsame]
      rfl
    · rw [hsame]
      rfl
    · rw [hsame]
      rfl
  · exact completes_eq (f := Chip.epochTick) rfl (if_neg (by rw [show s.chip.ticking = false from hticking]; decide)) rfl rfl

end Sys2Proof.Machine

/-! PROOFS. The event recorder (R478 to R488). -/
namespace Sys2Proof.Machine

/-! ### Words and heads of records -/

theorem leNat_leBytes (n v : Nat) : leNat (leBytes n v) = v % 256 ^ n := by
  induction n generalizing v with
  | zero => rw [Nat.pow_zero, Nat.mod_one]; rfl
  | succ n ih =>
    rw [leBytes, leNat, ih, BitVec.toNat_ofNat]
    exact (Nat.mod_mul (a := 256) (b := 256 ^ n)).symm.trans (by rw [Nat.mul_comm, ← Nat.pow_succ])

theorem severity_lt (code : Nat) : severity code < 8 := by
  simp only [severity]
  split_ifs <;> omega

/-- The fields of a record's head. -/
theorem recordHead_fields {seq code len sev : Nat} (relay start supp : Bool) (hseq : seq < 2 ^ 40) (hcode : code < 2 ^ 12) (hlen : len < 64)
    (hsev : sev < 8) :
    let h := BitVec.ofNat 64 (recordHead seq code len sev relay start supp)
    headSeq h = seq ∧ headCode h = code ∧ headLen h = len ∧ headSev h = sev := by
  intro h
  obtain ⟨f, hf, hv⟩ : ∃ f, f < 8 ∧ recordHead seq code len sev relay start supp = seq * 2 ^ 24 + code * 2 ^ 12 + len * 2 ^ 6 + sev * 8 + f := by
    refine ⟨b2n relay * 4 + b2n start * 2 + b2n supp, ?_, ?_⟩
    · cases relay <;> cases start <;> cases supp <;> decide
    · rw [recordHead, Nat.mod_eq_of_lt hseq]
      omega
  have hword : h.toNat = seq * 2 ^ 24 + code * 2 ^ 12 + len * 2 ^ 6 + sev * 8 + f := by
    rw [show h = _ from rfl, BitVec.toNat_ofNat, hv]
    exact Nat.mod_eq_of_lt (by omega)
  simp only [headSeq, headCode, headLen, headSev, hword]
  omega

theorem recordBytes_length (seq supp : Nat) (e : EvReq) : (recordBytes seq supp e).length = (payload e.items).length + 12 := by
  simp only [recordBytes, List.length_append, length_leBytes]
  omega

theorem one_le_recordWords (seq supp : Nat) (e : EvReq) : 1 ≤ (recordBytes seq supp e).length / 8 := by
  rw [recordBytes_length]
  omega

/-- The first word of a record. -/
theorem recordBytes_head (seq supp : Nat) (e : EvReq) :
    leNat (slice (recordBytes seq supp e) 0 8) = recordHead seq e.code ((recordBytes seq supp e).length / 8) (severity e.code)
      (e.code = Ev.STACK_EVENT) e.start (supp ≠ 0) % 2 ^ 64 := by
  have htake : slice (recordBytes seq supp e) 0 8 = leBytes 8 (recordHead seq e.code ((recordBytes seq supp e).length / 8) (severity e.code)
      (e.code = Ev.STACK_EVENT) e.start (supp ≠ 0)) := by
    have h8 : ∀ v (t : Bytes), slice (leBytes 8 v ++ t) 0 8 = leBytes 8 v := by
      intro v t
      have hl : ((leBytes 8 v ++ t).take 8) = leBytes 8 v := by
        rw [List.take_append_of_le_length (by rw [length_leBytes])]
        exact List.take_of_length_le (by rw [length_leBytes])
      simp only [slice, List.drop_zero, hl, length_leBytes, Nat.sub_self, List.replicate_zero, List.append_nil]
    rw [recordBytes_length]
    simp only [recordBytes, List.append_assoc]
    exact h8 _ _
  rw [htake, leNat_leBytes, show (256 : Nat) ^ 8 = 2 ^ 64 by decide]

/-! ### The ring's words -/

section
variable (c : Chip)

theorem Chip.ringWord_setRingWord (w v i : Nat) : (c.setRingWord w v).ringWord i = if i = w then BitVec.ofNat 64 v else c.ringWord i := by
  simp only [Chip.ringWord, Chip.setRingWord, Chip.modEvr, SMap.get_set]

theorem Chip.setRingWords_frame (w : Nat) (l : List Bytes) :
    c.setRingWords w l = { c with evr := { c.evr with ring := (c.setRingWords w l).evr.ring } } := by
  induction l generalizing c w with
  | nil => rfl
  | cons b l ih =>
    rw [Chip.setRingWords, ih]
    rfl

theorem Chip.ringWord_setRingWords (w : Nat) (l : List Bytes) (i : Nat) :
    (c.setRingWords w l).ringWord i = if w ≤ i ∧ i < w + l.length then BitVec.ofNat 64 (leNat (l.getD (i - w) [])) else c.ringWord i := by
  induction l generalizing c w with
  | nil => rw [if_neg (by simp only [List.length_nil]; omega)]; rfl
  | cons b l ih =>
    rw [Chip.setRingWords, ih, Chip.ringWord_setRingWord, List.length_cons]
    by_cases hw : i = w
    · subst hw
      rw [if_neg (by omega), if_pos rfl, if_pos (by omega), Nat.sub_self]
      rfl
    · by_cases hin : w + 1 ≤ i ∧ i < w + 1 + l.length
      · rw [if_pos hin, if_pos (by omega), show i - w = (i - (w + 1)) + 1 by omega, List.getD_cons_succ]
      · rw [if_neg hin, if_neg hw, if_neg (by omega)]

end

/-! ### A record -/

/-- The bytes of the next record, and its words. -/
def Chip.recordOf (c : Chip) (e : EvReq) : Bytes := recordBytes c.evr.nextSeq (SMap.get (fun _ => 0) c.evr.supp e.code) e

def Chip.recordLen (c : Chip) (e : EvReq) : Nat := (c.recordOf e).length / 8

/-- The block with a record at its write pointer. -/
def Chip.recorded (c : Chip) (e : EvReq) : Chip :=
  (c.setRingWords c.evr.wr (wordsOf (c.recordOf e))).modEvr fun r => { r with
    wr := (c.evr.wr + c.recordLen e) % ringWords, used := r.used + (if c.evr.used = 0 then 0 else 0) + c.recordLen e,
    oldest := if c.evr.used = 0 then c.evr.wr else r.oldest, drainPos := if r.drainSeq = c.evr.nextSeq then c.evr.wr else r.drainPos,
    nextSeq := (c.evr.nextSeq + 1) % 2 ^ 40, supp := SMap.set (fun _ => 0) r.supp e.code 0 }

section
variable {c : Chip} {e : EvReq}

/-- A record that fits goes to the write pointer, and its source signals. -/
theorem Chip.writeRecord_fits (hmaster : c.isMaster = true) (hwr : c.evr.wr + c.recordLen e ≤ ringWords)
    (hused : c.evr.used + c.recordLen e ≤ ringWords) : c.writeRecord e = (c.recorded e).signal e.source := by
  have hroom : c.makeRoom (0 + c.recordLen e) (0, 0) 64 = ((0, 0), c) := by
    rw [Nat.zero_add, Chip.makeRoom, if_pos hused]
  have hmaster' : ((c.recorded e).signal e.source).isMaster = true := by
    have hframe := ((Chip.gives.refl (c.recorded e)).signal e.source).1
    have hrec : c.recorded e = { c with evr := (c.recorded e).evr } := by
      rw [Chip.recorded, Chip.setRingWords_frame]
      rfl
    rw [hframe, hrec]
    exact hmaster
  simp only [Chip.recordLen, Chip.recordOf] at hwr hroom
  simp only [Chip.writeRecord, if_neg (Nat.not_lt.2 hwr), hroom, Chip.when, ne_eq, not_true_eq_false, decide_false, Bool.false_eq_true,
    if_false, if_true, Chip.drainGap]
  refine (if_neg ?_).trans rfl
  rw [show (!Chip.isMaster _) = false from by rw [Bool.not_eq_false']; exact hmaster']
  simp

theorem Chip.recorded_frame : c.recorded e = { c with evr := (c.recorded e).evr } := by
  rw [Chip.recorded, Chip.setRingWords_frame]
  rfl

theorem length_wordsOf (b : Bytes) : (wordsOf b).length = b.length / 8 := by
  rw [wordsOf, List.length_map, List.length_range]

theorem Chip.recorded_ringWord (i : Nat) : (c.recorded e).ringWord i =
    if c.evr.wr ≤ i ∧ i < c.evr.wr + c.recordLen e then BitVec.ofNat 64 (leNat (slice (c.recordOf e) (8 * (i - c.evr.wr)) 8))
    else c.ringWord i := by
  show (c.setRingWords c.evr.wr (wordsOf (c.recordOf e))).ringWord i = _
  rw [Chip.ringWord_setRingWords, length_wordsOf]
  refine if_ctx_congr Iff.rfl (fun hin => ?_) fun _ => rfl
  rw [wordsOf, List.getD_eq_getElem?_getD, List.getElem?_map, List.getElem?_range (by simp only [Chip.recordLen] at hin; omega)]
  rfl

/-- The head of a record that has been written. -/
theorem Chip.recorded_head (hseq : c.evr.nextSeq < 2 ^ 40) (hcode : e.code < 2 ^ 12) (hlen : c.recordLen e < 64) :
    let h := (c.recorded e).ringWord c.evr.wr
    headSeq h = c.evr.nextSeq ∧ headCode h = e.code ∧ headLen h = c.recordLen e ∧ headSev h = severity e.code := by
  have hone : 1 ≤ c.recordLen e := one_le_recordWords _ _ _
  have hword := c.recorded_ringWord (e := e) c.evr.wr
  have hcut : ∀ n, BitVec.ofNat 64 (n % 2 ^ 64) = BitVec.ofNat 64 n := fun n =>
    BitVec.eq_of_toNat_eq (by simp only [BitVec.toNat_ofNat, Nat.mod_mod])
  rw [if_pos (by omega), Nat.sub_self, Nat.mul_zero, Chip.recordOf, recordBytes_head, hcut] at hword
  intro h
  rw [show h = _ from hword]
  exact recordHead_fields _ _ _ hseq hcode hlen (severity_lt _)

end

/-! ### Buckets (R483) -/

/-- R483: the bucket of a code is refilled, with its burst and window as configured. -/
def Chip.refilled (c : Chip) (k : Nat) : Chip := c.modEvr fun e => { e with
  tokens := SMap.set (fun _ => 16) e.tokens k (c.getF F.EVR_CODE_CFG_burst [k])
  win := SMap.set (fun _ => 10) e.win k (c.getF F.EVR_CODE_CFG_win [k]) }

theorem Chip.each_refilled (l : List Nat) (c : Chip) :
    let d := c.each l Chip.refilled
    (∀ k, d.tokens k = (if k ∈ l then c.getF F.EVR_CODE_CFG_burst [k] else c.tokens k) ∧
      d.rateWin k = (if k ∈ l then c.getF F.EVR_CODE_CFG_win [k] else c.rateWin k)) ∧
    d.tim = c.tim ∧ d.evr.intake = c.evr.intake ∧ d.regs = c.regs ∧ d.vlt = c.vlt := by
  induction l generalizing c with
  | nil => exact ⟨fun k => ⟨(if_neg List.not_mem_nil).symm, (if_neg List.not_mem_nil).symm⟩, rfl, rfl, rfl, rfl⟩
  | cons x l ih =>
    obtain ⟨hk, htim, hin, hregs, hvlt⟩ := ih (c.refilled x)
    refine ⟨fun k => ?_, htim, hin, hregs, hvlt⟩
    have hburst : ∀ f i, (c.refilled x).getF f i = c.getF f i := fun _ _ => rfl
    have htok : (c.refilled x).tokens k = if k = x then c.getF F.EVR_CODE_CFG_burst [x] else c.tokens k := by
      simp only [Chip.tokens, Chip.refilled, Chip.modEvr, SMap.get_set]
    have hwin : (c.refilled x).rateWin k = if k = x then c.getF F.EVR_CODE_CFG_win [x] else c.rateWin k := by
      simp only [Chip.rateWin, Chip.refilled, Chip.modEvr, SMap.get_set]
    obtain ⟨h1, h2⟩ := hk k
    rw [hburst, htok] at h1
    rw [hburst, hwin] at h2
    rw [Chip.each_cons, h1, h2]
    by_cases hl : k ∈ l
    · simp [hl]
    · by_cases hx : k = x
      · subst hx
        simp [hl]
      · simp [hl, hx]

/-! ### Draining (R486) -/

/-- What is given only grows. -/
def Chip.outOn (c d : Chip) : Prop := ∃ more, d.out = c.out ++ more

namespace Chip.outOn

variable {a c : Chip}

theorem of_eq {d : Chip} (h : d.out = c.out) : c.outOn d := ⟨[], by rw [h, List.append_nil]⟩

section
variable (h : a.outOn c)
include h

theorem emit (o : Output) : a.outOn (c.emit o) := by
  obtain ⟨more, hm⟩ := h
  exact ⟨more ++ [o], by rw [Chip.emit, hm, List.append_assoc]⟩

theorem hostIf (f : HostIf) : a.outOn { c with hif := f } := h

theorem dma (fn : Nat) (o : Output) : a.outOn (c.dma fn o) := by
  simp only [Chip.dma]
  exact ite_cases (P := a.outOn) (h.emit o) (h.hostIf _)

theorem msixSignal (fn v : Nat) : a.outOn (c.msixSignal fn v) := by
  simp only [Chip.msixSignal]
  exact ite_cases (P := a.outOn) (h.hostIf _) (ite_cases (P := a.outOn) (h.hostIf _)
    (ite_cases (P := a.outOn) ((h.dma fn _).hostIf _) (h.dma fn _)))

theorem signal (s : Nat) : a.outOn (c.signal s) := by
  simp only [Chip.signal]
  exact ite_cases (P := a.outOn) (h.msixSignal 0 _) h

theorem ringAdvance (r n : Nat) : a.outOn (c.ringAdvance r n) := by
  simp only [Chip.ringAdvance]
  split
  · exact h
  · have hset : a.outOn (c.setRing r { c.ring r with own := (c.ring r).own + BitVec.ofNat 32 n }) := h.hostIf _
    exact ite_cases (P := a.outOn) ((hset.dma _ _).signal _) (((hset.dma _ _).signal _).msixSignal _ _)

end

end Chip.outOn

section
variable {c : Chip}

/-- R486: a record that the drain ring has room for is copied. -/
theorem Chip.drainRecord_spec (h : DWord) (hdma : c.dmaAllowed 0 = true)
    (hfits : (c.ring 56).own.toNat % c.ringSize 56 + headLen h ≤ c.ringSize 56) (hroom : headLen h ≤ c.ringFree 56) :
    let d := c.drainRecord h
    (∃ more, d.out = c.out ++ .hostWrite 0 (c.ringBase 56 + (c.ring 56).own.toNat % c.ringSize 56 * 8)
      ((List.range (headLen h)).flatMap fun i => leBytes 8 (c.ringWord (c.evr.drainPos + i)).toNat) :: more) ∧
    (d.ring 56).own = (c.ring 56).own + BitVec.ofNat 32 (headLen h) ∧ d.evr = { c.evr with lastDrained := some (headSeq h) } ∧
    d.getB F.EVR_STAT_drain_full [] = false ∧ d.vlt = c.vlt := by
  obtain ⟨x, hx⟩ : ∃ x, c.setF F.EVR_STAT_drain_full [] 0 = x := ⟨_, rfl⟩
  have hfield : ∀ (f : Fld) (i : List Nat), f.key i ≠ F.EVR_STAT_drain_full.key [] → x.getF f i = c.getF f i := fun f i hne =>
    hx ▸ Chip.getF_setF_other _ _ (by decide) hne
  have hsame : x.hif = c.hif ∧ x.evr = c.evr ∧ x.out = c.out ∧ x.vlt = c.vlt := by subst hx; exact ⟨rfl, rfl, rfl, rfl⟩
  have hxdma : x.dmaAllowed 0 = true := by
    rw [← hdma]
    simp only [Chip.dmaAllowed, Chip.getB, hsame.1, hfield F.HIF_IDE_CFG_required [] (by decide), hfield F.HIF_IDE_STAT_state [] (by decide)]
  have hxsize : x.ringSize 56 = c.ringSize 56 := by rw [Chip.ringSize, hfield _ _ (by decide), Chip.ringSize]
  have hxbase : x.ringBase 56 = c.ringBase 56 := by
    rw [Chip.ringBase, hfield _ _ (by decide), hfield _ _ (by decide), Chip.ringBase]
  have hxring : x.ring 56 = c.ring 56 := by rw [Chip.ring, hsame.1, Chip.ring]
  have hxword : ∀ i, x.ringWord i = c.ringWord i := fun i => by rw [Chip.ringWord, hsame.2.1, Chip.ringWord]
  obtain ⟨w, hw⟩ : ∃ w : Output, .hostWrite 0 (c.ringBase 56 + (c.ring 56).own.toNat % c.ringSize 56 * 8)
      ((List.range (headLen h)).flatMap fun i => leBytes 8 (c.ringWord (c.evr.drainPos + i)).toNat) = w := ⟨_, rfl⟩
  have hd : c.drainRecord h =
      ((x.emit w).ringAdvance 56 (headLen h)).modEvr fun e => { e with lastDrained := some (headSeq h) } := by
    simp only [Chip.drainRecord, if_neg (Nat.not_lt.2 hfits), Nat.zero_add, if_neg (Nat.not_lt.2 hroom), hx, ne_eq, not_true_eq_false,
      decide_false, Chip.when_false, Chip.drainPush, Chip.dma_allowed hxdma, hxsize, hxbase, hxring, hxword, hsame.2.1, hw]
  have howner : (x.emit w).ringOwner 56 = some 0 := rfl
  have hadv := Chip.ringAdvance_gives howner (headLen h)
  obtain ⟨more, hmore⟩ := (Chip.outOn.of_eq (c := x.emit w) rfl).ringAdvance 56 (headLen h)
  obtain ⟨y, hy⟩ : ∃ y, (x.emit w).ringAdvance 56 (headLen h) = y := ⟨_, rfl⟩
  rw [hy] at hadv hmore hd
  have hevr : y.evr = c.evr := by rw [← hy, Chip.ringAdvance_evr]; exact hsame.2.1
  have hregs : y.regs = x.regs := by rw [← hy, Chip.ringAdvance_regs]; rfl
  have hvlt : y.vlt = c.vlt := by rw [hadv.1]; exact hsame.2.2.2
  rw [hw]
  intro d
  rw [show d = _ from hd]
  refine ⟨⟨more, ?_⟩, ?_, by rw [Chip.modEvr, hevr], ?_, hvlt⟩
  · show y.out = _
    rw [hmore, Chip.emit, hsame.2.2.1, List.append_assoc]
    rfl
  · show (y.ring 56).own = _
    rw [hadv.ring_eq, Chip.ring_setRing, if_pos rfl]
    show (x.ring 56).own + _ = _
    rw [hxring]
  · refine Chip.getB_of (n := 0) ?_
    show y.getF _ _ = 0
    rw [Chip.getF_congr hregs, ← hx, Chip.getF_setF_same _ _ _ _ (by decide)]
    rfl

end

theorem Chip.drainCopy_of {c : Chip} (hen : c.getB F.EVR_DRAIN_CFG_en [] = true) (hring : c.ringEn 56 = true)
    (hdma : c.dmaAllowed 0 = true) (hstop : (c.ring 56).stopped = false) (hne : c.evr.drainSeq ≠ c.evr.nextSeq) :
    let h := c.ringWord c.evr.drainPos
    c.drainCopy = if headSev h < c.getF F.EVR_DRAIN_CFG_min_sev [] then c.drainNext
      else if (c.drainRecord h).getB F.EVR_STAT_drain_full [] then c.drainRecord h else (c.drainRecord h).drainNext := by
  rw [Chip.drainCopy, if_neg (by simp [hen, hring, hdma, hstop, hne])]

/-! ### Clearing (R488) -/

/-- The ring emptied by an authorisation of the owner, and the event of it. -/
def Chip.cleared (c : Chip) : Chip := c.spendAuth.modEvr fun e => { e with
  ring := [], used := 0, oldest := e.wr, drainSeq := e.nextSeq, drainPos := e.wr }

def Chip.clearing (c : Chip) : EvReq :=
  { code := Ev.LOG_CLEARED, source := 0x006, items := [(4, b2n false), (8, c.oldestSeq),
    (8, (c.evr.nextSeq + 2 ^ 40 - c.oldestSeq) % 2 ^ 40), (8, c.evr.lastDrained.getD 0xFFFFFFFFFF)] }

theorem logClear_owner {c : Chip} (hmode : c.inMode [.provision, .maintenance] = true) (hauth : c.authHere 0x10 = true) :
    logClear c = (c.cleared.writeRecord c.clearing, some {}) := by
  rw [logClear, inModes_of hmode]
  simp only [hauth, Bool.not_true, Bool.false_and, Bool.false_eq_true, if_false, if_true]
  rfl

theorem length_putItem (b : Bytes) (x : Nat × Nat) (k : Nat) (hk : (if x.1 < 8 then max 1 x.1 else 8) = k) :
    (putItem b x).length = b.length + (k - b.length % k) % k + x.1 := by
  simp only [putItem, hk, List.length_append, List.length_replicate, length_leBytes]

/-- The record of a clearing has five words. -/
theorem Chip.recordLen_cleared (c : Chip) (src who first number last : Nat) :
    c.recordLen { code := Ev.LOG_CLEARED, source := src, items := [(4, who), (8, first), (8, number), (8, last)] } = 5 := by
  have h1 : (putItem (List.replicate 12 0) (4, who)).length = 16 := by
    rw [length_putItem _ _ 4 rfl, List.length_replicate]; rfl
  have h2 : (putItem (putItem (List.replicate 12 0) (4, who)) (8, first)).length = 24 := by
    rw [length_putItem _ _ 8 rfl, h1]; rfl
  have h3 : (putItem (putItem (putItem (List.replicate 12 0) (4, who)) (8, first)) (8, number)).length = 32 := by
    rw [length_putItem _ _ 8 rfl, h2]; rfl
  have h4 : (putItem (putItem (putItem (putItem (List.replicate 12 0) (4, who)) (8, first)) (8, number)) (8, last)).length = 40 := by
    rw [length_putItem _ _ 8 rfl, h3]; rfl
  rw [Chip.recordLen, Chip.recordOf, recordBytes_length]
  simp only [payload, List.foldl_cons, List.foldl_nil, List.length_append, List.length_drop, List.length_replicate, h4]

section
variable {s : State}

/-- R482: the first event of the intake becomes a record. -/
theorem eventRecordWrite_spec {e : EvReq} {rest : List EvReq} (hin : s.chip.evr.intake = e :: rest) (hmaster : s.chip.isMaster = true)
    (hwr : s.chip.evr.wr + s.chip.recordLen e ≤ ringWords) (hused : s.chip.evr.used + s.chip.recordLen e ≤ ringWords)
    (hseq : s.chip.evr.nextSeq < 2 ^ 40) (hcode : e.code < 2 ^ 12) (hm : s.chip.recordLen e < 64) :
    let c := s.chip
    let m := c.recordLen e
    completes .eventRecordWrite s fun d =>
      (∀ i, i < m → d.ringWord (c.evr.wr + i) = BitVec.ofNat 64 (leNat (slice (c.recordOf e) (8 * i) 8))) ∧
      (∀ i, i < c.evr.wr ∨ c.evr.wr + m ≤ i → d.ringWord i = c.ringWord i) ∧
      headSeq (d.ringWord c.evr.wr) = c.evr.nextSeq ∧ headCode (d.ringWord c.evr.wr) = e.code ∧
      headLen (d.ringWord c.evr.wr) = m ∧ headSev (d.ringWord c.evr.wr) = severity e.code ∧
      d.evr.wr = (c.evr.wr + m) % ringWords ∧ d.evr.used = c.evr.used + m ∧
      d.evr.nextSeq = (c.evr.nextSeq + 1) % 2 ^ 40 ∧ d.evr.intake = rest ∧ d.regs = c.regs := by
  intro c m
  obtain ⟨b, hb⟩ : ∃ b, c.recordOf e = b := ⟨_, rfl⟩
  rw [hb]
  obtain ⟨x, hx⟩ : ∃ x : Chip, c.modEvr (fun r => { r with intake := rest }) = x := ⟨_, rfl⟩
  have hrec : x.recordOf e = b ∧ x.recordLen e = m := by subst hx; exact ⟨hb, rfl⟩
  have hword : ∀ i, x.ringWord i = c.ringWord i := by subst hx; exact fun _ => rfl
  have hevr : x.evr = { c.evr with intake := rest } := by subst hx; rfl
  have hsame : x.regs = c.regs ∧ x.vlt = c.vlt ∧ x.isMaster = c.isMaster := by subst hx; exact ⟨rfl, rfl, rfl⟩
  have hd : c.recordWrite = (x.recorded e).signal e.source := by
    have hwrite : c.recordWrite = x.writeRecord e := by rw [← hx, Chip.recordWrite, hin]
    rw [hwrite]
    refine Chip.writeRecord_fits (hsame.2.2.trans hmaster) ?_ ?_
    · rw [hrec.2, hevr]
      exact hwr
    · rw [hrec.2, hevr]
      exact hused
  obtain ⟨y, hy⟩ : ∃ y, (x.recorded e).signal e.source = y := ⟨_, rfl⟩
  have hgives : (x.recorded e).gives y := hy ▸ (Chip.gives.refl (x.recorded e)).signal e.source
  have hframe := hgives.1
  rw [hy] at hd
  have hsig : y.evr = (x.recorded e).evr := by rw [hframe]
  have hsigword : ∀ i, y.ringWord i = (x.recorded e).ringWord i := fun i => by
    rw [Chip.ringWord, hsig, Chip.ringWord]
  have hring : ∀ i, (x.recorded e).ringWord i = if c.evr.wr ≤ i ∧ i < c.evr.wr + m then
      BitVec.ofNat 64 (leNat (slice b (8 * (i - c.evr.wr)) 8)) else c.ringWord i := fun i => by
    rw [Chip.recorded_ringWord, hrec.1, hrec.2, hword, hevr]
  obtain ⟨hs, hc, hl, hv⟩ := Chip.recorded_head (c := x) (e := e) (by rw [hevr]; exact hseq) hcode (by rw [hrec.2]; exact hm)
  rw [hrec.2] at hl
  have hwrx : x.evr.wr = c.evr.wr := by rw [hevr]
  have hseqx : x.evr.nextSeq = c.evr.nextSeq := by rw [hevr]
  rw [hwrx] at hs hc hl hv
  rw [hseqx] at hs
  have hevr' : (x.recorded e).evr.wr = (c.evr.wr + m) % ringWords ∧ (x.recorded e).evr.used = c.evr.used + m ∧
      (x.recorded e).evr.nextSeq = (c.evr.nextSeq + 1) % 2 ^ 40 ∧ (x.recorded e).evr.intake = rest := by
    rw [Chip.recorded, Chip.setRingWords_frame, hrec.2, hevr]
    exact ⟨rfl, by simp only [Chip.modEvr, ite_self, Nat.add_zero], rfl, rfl⟩
  refine completes_eq (f := Chip.recordWrite) rfl hd ⟨fun i hi => ?_, fun i hi => ?_, ?_, ?_, ?_, ?_, ?_, ?_, ?_, ?_, ?_⟩ ?_
  · rw [hsigword, hring, if_pos (by omega), Nat.add_sub_cancel_left]
  · rw [hsigword, hring, if_neg (by omega)]
  · rw [hsigword, hs]
  · rw [hsigword, hc]
  · rw [hsigword, hl]
  · rw [hsigword, hv]
  · rw [hsig, hevr'.1]
  · rw [hsig, hevr'.2.1]
  · rw [hsig, hevr'.2.2.1]
  · rw [hsig, hevr'.2.2.2]
  · rw [hframe, Chip.recorded_frame]
    exact hsame.1
  · rw [hframe, Chip.recorded_frame]
    exact congrArg Vault.owners hsame.2.1

/-- R483: a window starts. -/
theorem rateWindowStart_spec {ms : Nat} (hmsdef : s.chip.now / 1000000 + 1 = ms) (hms : ms * 1000000 < 2 ^ 64) :
    let c := s.chip
    completes .rateWindowStart s fun d =>
      (∀ k, k < 4096 → let due := limitable k = true ∧ ms % 2 ^ c.rateWin k = 0
        d.tokens k = (if due then c.getF F.EVR_CODE_CFG_burst [k] else c.tokens k) ∧
        d.rateWin k = (if due then c.getF F.EVR_CODE_CFG_win [k] else c.rateWin k)) ∧
      d.now = ms * 1000000 ∧ d.evr.intake = c.evr.intake ∧ d.regs = c.regs := by
  intro c
  change c.now / 1000000 + 1 = ms at hmsdef
  obtain ⟨x, hx⟩ : ∃ x, c.reachElapsed (ms * 1000000) = x := ⟨_, rfl⟩
  have hframe : x = { c with tim := x.tim } := hx ▸ (c.reachElapsed_runs _).1
  have hnow : x.now = ms * 1000000 := by
    have hlt : c.now < ms * 1000000 := by omega
    rw [← hx, Chip.reachElapsed, if_pos hlt, Chip.cycles_now _ (by omega)]
    omega
  have hfields : ∀ f i, x.getF f i = c.getF f i := fun f i => Chip.getF_congr (by rw [hframe]) f i
  have htok : ∀ k, x.tokens k = c.tokens k ∧ x.rateWin k = c.rateWin k := fun k => by
    rw [hframe]
    exact ⟨rfl, rfl⟩
  obtain ⟨hk, htim, hintake, hregs, hvlt⟩ := Chip.each_refilled ((List.range 4096).filter fun k => limitable k && ms % 2 ^ x.rateWin k = 0) x
  refine completes_eq (f := Chip.windowStart) rfl
    (d := x.each ((List.range 4096).filter fun k => limitable k && ms % 2 ^ x.rateWin k = 0) Chip.refilled) ?_ ⟨fun k hlt => ?_, ?_, ?_, ?_⟩ ?_
  · show c.windowStart = _
    simp only [Chip.windowStart, hmsdef, hx]
    rfl
  · obtain ⟨h1, h2⟩ := hk k
    have hdue : k ∈ (List.range 4096).filter (fun k => limitable k && ms % 2 ^ x.rateWin k = 0) ↔
        limitable k = true ∧ ms % 2 ^ c.rateWin k = 0 := by
      simp only [List.mem_filter, List.mem_range, Bool.and_eq_true, decide_eq_true_eq, (htok k).2, and_iff_right hlt]
    rw [h1, h2, hfields, hfields, (htok k).1, (htok k).2]
    simp only [hdue, and_self]
  · rw [Chip.now, htim]
    exact hnow
  · rw [hintake, hframe]
  · rw [hregs, hframe]
  · rw [hvlt, hframe]

/-- R484: a read of EVR_WR. -/
theorem evrWrRead_spec (hstart : s.chip.evr.started = true) (hseq : s.chip.evr.nextSeq < 2 ^ 40) :
    let c := s.chip
    completes .evrWrRead s fun d =>
      d.out = c.out ++ [.value c.evr.wr] ∧
      d.getF F.EVR_NEXT_SEQ_HI_seq [] * 2 ^ 32 + d.getF F.EVR_NEXT_SEQ_LO_seq [] = c.evr.nextSeq ∧
      c.fieldsOnly { d with out := c.out } [F.EVR_NEXT_SEQ_HI_seq.key [], F.EVR_NEXT_SEQ_LO_seq.key []] := by
  intro c
  have hlo : ∀ v, v < 2 ^ 40 → let d := (c.setF F.EVR_NEXT_SEQ_LO_seq [] v).setF F.EVR_NEXT_SEQ_HI_seq [] (v / 2 ^ 32)
      d.getF F.EVR_NEXT_SEQ_HI_seq [] * 2 ^ 32 + d.getF F.EVR_NEXT_SEQ_LO_seq [] = v := by
    intro v hv d
    rw [Chip.getF_setF_same _ _ _ _ (by decide), Chip.getF_setF_other _ _ (by decide) (by decide), Chip.getF_setF_same _ _ _ _ (by decide)]
    simp only [F.EVR_NEXT_SEQ_HI_seq, F.EVR_NEXT_SEQ_LO_seq]
    omega
  refine completes_eq rfl (congrArg Chip.answer (if_pos hstart)) ⟨rfl, hlo _ hseq, ?_⟩ rfl
  obtain ⟨h1, h2⟩ := ((c.setF_fieldsOnly F.EVR_NEXT_SEQ_LO_seq [] c.evr.nextSeq).trans
    (Chip.setF_fieldsOnly _ F.EVR_NEXT_SEQ_HI_seq [] (c.evr.nextSeq / 2 ^ 32))).mono
    (m := [F.EVR_NEXT_SEQ_HI_seq.key [], F.EVR_NEXT_SEQ_LO_seq.key []]) (by decide)
  exact ⟨rfl, h2⟩

/-- R484: a read of EVR_OLDEST. -/
theorem evrOldestRead_spec (hstart : s.chip.evr.started = true) (hseq : s.chip.evr.nextSeq < 2 ^ 40) :
    let c := s.chip
    completes .evrOldestRead s fun d =>
      d.out = c.out ++ [.value c.evr.oldest] ∧
      d.getF F.EVR_OLDEST_SEQ_HI_seq [] * 2 ^ 32 + d.getF F.EVR_OLDEST_SEQ_LO_seq [] = c.oldestSeq ∧
      c.fieldsOnly { d with out := c.out } [F.EVR_OLDEST_SEQ_HI_seq.key [], F.EVR_OLDEST_SEQ_LO_seq.key []] := by
  intro c
  have hold : c.oldestSeq < 2 ^ 40 := by
    rw [Chip.oldestSeq]
    split_ifs
    · exact hseq
    · rw [headSeq]
      have := (c.ringWord c.evr.oldest).isLt
      omega
  have hlo : ∀ v, v < 2 ^ 40 → let d := (c.setF F.EVR_OLDEST_SEQ_LO_seq [] v).setF F.EVR_OLDEST_SEQ_HI_seq [] (v / 2 ^ 32)
      d.getF F.EVR_OLDEST_SEQ_HI_seq [] * 2 ^ 32 + d.getF F.EVR_OLDEST_SEQ_LO_seq [] = v := by
    intro v hv d
    rw [Chip.getF_setF_same _ _ _ _ (by decide), Chip.getF_setF_other _ _ (by decide) (by decide), Chip.getF_setF_same _ _ _ _ (by decide)]
    simp only [F.EVR_OLDEST_SEQ_HI_seq, F.EVR_OLDEST_SEQ_LO_seq]
    omega
  refine completes_eq rfl (congrArg Chip.answer (if_pos hstart)) ⟨rfl, hlo _ hold, ?_⟩ rfl
  obtain ⟨h1, h2⟩ := ((c.setF_fieldsOnly F.EVR_OLDEST_SEQ_LO_seq [] c.oldestSeq).trans
    (Chip.setF_fieldsOnly _ F.EVR_OLDEST_SEQ_HI_seq [] (c.oldestSeq / 2 ^ 32))).mono
    (m := [F.EVR_OLDEST_SEQ_HI_seq.key [], F.EVR_OLDEST_SEQ_LO_seq.key []]) (by decide)
  exact ⟨rfl, h2⟩

/-- R486: the drain passes a record below its severity. -/
theorem eventDrainCopy_passes (hen : s.chip.getB F.EVR_DRAIN_CFG_en [] = true) (hring : s.chip.ringEn 56 = true)
    (hdma : s.chip.dmaAllowed 0 = true) (hstop : (s.chip.ring 56).stopped = false) (hne : s.chip.evr.drainSeq ≠ s.chip.evr.nextSeq) :
    let c := s.chip
    let h := c.ringWord c.evr.drainPos
    headSev h < c.getF F.EVR_DRAIN_CFG_min_sev [] → completes .eventDrainCopy s fun d =>
      d.evr.drainSeq = (headSeq h + 1) % 2 ^ 40 ∧ d.out = c.out ∧ d.hif = c.hif ∧ d.regs = c.regs := by
  intro c h hsev
  refine completes_eq (f := Chip.drainCopy) rfl (d := c.drainNext) ?_ ⟨rfl, rfl, rfl, rfl⟩ rfl
  show c.drainCopy = _
  exact (Chip.drainCopy_of hen hring hdma hstop hne).trans (if_pos hsev)

/-- R486: the drain copies a record. -/
theorem eventDrainCopy_copies (hen : s.chip.getB F.EVR_DRAIN_CFG_en [] = true) (hring : s.chip.ringEn 56 = true)
    (hdma : s.chip.dmaAllowed 0 = true) (hstop : (s.chip.ring 56).stopped = false) (hne : s.chip.evr.drainSeq ≠ s.chip.evr.nextSeq) :
    let c := s.chip
    let h := c.ringWord c.evr.drainPos
    let n := headLen h
    c.getF F.EVR_DRAIN_CFG_min_sev [] ≤ headSev h →
      let k := (c.ring 56).own.toNat % c.ringSize 56
      k + n ≤ c.ringSize 56 → n ≤ c.ringFree 56 → completes .eventDrainCopy s fun d =>
        (∃ more, d.out = c.out ++ .hostWrite 0 (c.ringBase 56 + k * 8)
          ((List.range n).flatMap fun i => leBytes 8 (c.ringWord (c.evr.drainPos + i)).toNat) :: more) ∧
        (d.ring 56).own = (c.ring 56).own + BitVec.ofNat 32 n ∧ d.evr.lastDrained = some (headSeq h) ∧
        d.evr.drainSeq = (headSeq h + 1) % 2 ^ 40 ∧ d.evr.ring = c.evr.ring := by
  intro c h n hsev k hfits hroom
  obtain ⟨hout, hown, hevr, hfull, hvlt⟩ := Chip.drainRecord_spec h hdma hfits hroom
  obtain ⟨x, hx⟩ : ∃ x, c.drainRecord h = x := ⟨_, rfl⟩
  rw [hx] at hout hown hevr hfull hvlt
  have hword : x.ringWord x.evr.drainPos = h := by
    rw [Chip.ringWord, hevr]
    rfl
  have hd : c.drainCopy = x.drainNext := by
    refine (Chip.drainCopy_of hen hring hdma hstop hne).trans ((if_neg (Nat.not_lt.2 hsev)).trans (if_neg ?_) |>.trans (congrArg _ hx))
    rw [hx, hfull]
    decide
  refine completes_eq (f := Chip.drainCopy) rfl hd ⟨hout, hown, ?_, ?_, ?_⟩ (congrArg Vault.owners hvlt)
  · show x.evr.lastDrained = _
    rw [hevr]
  · show (headSeq (x.ringWord x.evr.drainPos) + 1) % 2 ^ 40 = _
    rw [hword]
  · show x.evr.ring = _
    rw [hevr]

/-- R488: the log is cleared. -/
theorem logClear_spec (hfree : s.chip.orderFree) (hmode : s.chip.inMode [.provision, .maintenance] = true)
    (hauth : s.chip.authHere 0x10 = true) (hmaster : s.chip.isMaster = true) (hwr : s.chip.evr.wr + 5 ≤ ringWords)
    (hseq : s.chip.evr.nextSeq < 2 ^ 40) :
    let c := s.chip
    completes .logClear s fun d =>
      d.evr.oldest = c.evr.wr ∧ d.evr.used = 5 ∧ headCode (d.ringWord c.evr.wr) = Ev.LOG_CLEARED ∧
      headSeq (d.ringWord c.evr.wr) = c.evr.nextSeq ∧ d.evr.nextSeq = (c.evr.nextSeq + 1) % 2 ^ 40 ∧
      d.ctl = { c.ctl with auth := none } ∧ d.ord.res = {} ∧ d.vlt = c.vlt := by
  intro c
  obtain ⟨e, he⟩ : ∃ e, c.clearing = e := ⟨_, rfl⟩
  obtain ⟨x, hx⟩ : ∃ x, c.cleared = x := ⟨_, rfl⟩
  have hlog := logClear_owner hmode hauth
  rw [he, hx] at hlog
  have hevr : x.evr = { c.evr with
    ring := [], used := 0, oldest := c.evr.wr, drainSeq := c.evr.nextSeq, drainPos := c.evr.wr } := by subst hx; rfl
  have hsame : x.vlt = c.vlt ∧ x.ctl = { c.ctl with auth := none } ∧ x.isMaster = c.isMaster ∧ x.ord = c.ord := by
    subst hx
    exact ⟨rfl, rfl, rfl, rfl⟩
  have hcode : e.code = Ev.LOG_CLEARED := by subst he; rfl
  have hlen : x.recordLen e = 5 := he ▸ x.recordLen_cleared _ _ _ _ _
  have hwrite : x.writeRecord e = (x.recorded e).signal e.source := by
    refine Chip.writeRecord_fits (hsame.2.2.1.trans hmaster) ?_ ?_
    · rw [hlen, hevr]
      exact hwr
    · rw [hlen, hevr]
      exact (by decide : 0 + 5 ≤ ringWords)
  obtain ⟨y, hy⟩ : ∃ y, (x.recorded e).signal e.source = y := ⟨_, rfl⟩
  have hgives : (x.recorded e).gives y := hy ▸ (Chip.gives.refl (x.recorded e)).signal e.source
  have hframe := hgives.1
  rw [hy] at hwrite
  rw [hwrite] at hlog
  have hyevr : y.evr = (x.recorded e).evr := by rw [hframe]
  have hrec : (x.recorded e) = { x with evr := (x.recorded e).evr } := Chip.recorded_frame
  have hyrest : y.ctl = x.ctl ∧ y.vlt = x.vlt ∧ y.ord = x.ord := by
    rw [hframe, hrec]
    exact ⟨rfl, rfl, rfl⟩
  obtain ⟨hs, hc, -, -⟩ := Chip.recorded_head (c := x) (e := e) (by rw [hevr]; exact hseq) (by rw [hcode]; decide) (by rw [hlen]; decide)
  have hwrx : x.evr.wr = c.evr.wr := by rw [hevr]
  have hseqx : x.evr.nextSeq = c.evr.nextSeq := by rw [hevr]
  rw [hwrx] at hs hc
  rw [hseqx] at hs
  have hevr' : (x.recorded e).evr.oldest = c.evr.wr ∧ (x.recorded e).evr.used = 5 ∧
      (x.recorded e).evr.nextSeq = (c.evr.nextSeq + 1) % 2 ^ 40 := by
    rw [Chip.recorded, Chip.setRingWords_frame, hlen, hevr]
    exact ⟨rfl, rfl, rfl⟩
  have hyword : y.ringWord c.evr.wr = (x.recorded e).ringWord c.evr.wr := by rw [Chip.ringWord, hyevr, Chip.ringWord]
  refine completes_order rfl hfree hlog (Chip.ordQuiet_congr hfree.quiet (hyrest.2.2.trans hsame.2.2.2)) ?_ ⟨?_, ?_, ?_, ?_, ?_, ?_, rfl, ?_⟩
  · rw [hyrest.2.1, hsame.1]
  · show y.evr.oldest = _
    rw [hyevr, hevr'.1]
  · show y.evr.used = _
    rw [hyevr, hevr'.2.1]
  · show headCode (y.ringWord _) = _
    rw [hyword, hc, hcode]
  · show headSeq (y.ringWord _) = _
    rw [hyword, hs]
  · show y.evr.nextSeq = _
    rw [hyevr, hevr'.2.2]
  · show y.ctl = _
    rw [hyrest.1, hsame.2.1]
  · show y.vlt = _
    rw [hyrest.2.1, hsame.1]

end

/-- Settles O28: a record that fits, a window's start, the latches of the pointers, the drain and the clearing. -/
theorem eventRecorder : Obligations.EventRecorder := by
  unfold Obligations.EventRecorder
  intro s c h n
  refine ⟨fun e rest hin hmaster => ?_, ?_, fun hstart hseq => ⟨evrWrRead_spec hstart hseq, evrOldestRead_spec hstart hseq⟩,
    fun hen hring hdma hstop hne => ⟨eventDrainCopy_passes hen hring hdma hstop hne, eventDrainCopy_copies hen hring hdma hstop hne⟩,
    fun hfree hmode hauth hmaster hwr hseq => logClear_spec hfree hmode hauth hmaster hwr hseq⟩
  · intro b m hwr hused hseq hcode hm
    exact eventRecordWrite_spec hin hmaster hwr hused hseq hcode hm
  · intro ms hms
    exact rateWindowStart_spec rfl hms

end Sys2Proof.Machine

/-! PROOFS. The statistics (R489 to R492). -/
namespace Sys2Proof.Machine

/-! ### Counters and their marks -/

theorem Chip.cntLost_setLost (c : Chip) (s t : Bool) (i j : Nat) (v : Bool) :
    (c.setLost s i v).cntLost t j = if t = s ∧ j = i then v else c.cntLost t j := by
  cases s <;> cases t <;> simp [Chip.cntLost, Chip.setLost, SMap.get_set]

theorem Chip.cntGet_setLost (c : Chip) (s t : Bool) (i j : Nat) (v : Bool) : (c.setLost s i v).cntGet t j = c.cntGet t j := by
  cases s <;> cases t <;> rfl

theorem Chip.cntGet_cntStore (c : Chip) (s t : Bool) (i j : Nat) (v : DWord) :
    (c.cntStore s i v).cntGet t j = if t = s ∧ j = i ∧ cntNamed s i = true then v else c.cntGet t j := by
  by_cases hn : cntNamed s i = true
  · rw [Chip.cntStore, if_pos hn, Chip.cntGet_setLost, Chip.cntGet_cntSet]
    simp only [hn, and_true]
  · rw [Chip.cntStore, if_neg hn, if_neg fun h => hn h.2.2]

theorem Chip.cntStore_rest (c : Chip) (s : Bool) (i : Nat) (v : DWord) :
    (c.cntStore s i v) = { c with cnt := (c.cntStore s i v).cnt } := by
  simp only [Chip.cntStore, Chip.cntSet, Chip.setLost]
  split_ifs <;> rfl

theorem Chip.cntOnly_trans {a c d : Chip} (h : c = { a with cnt := c.cnt }) (g : d = { c with cnt := d.cnt }) :
    d = { a with cnt := d.cnt } := by
  rw [g, h]

theorem Chip.cntLost_cntStore {c : Chip} {s : Bool} {i : Nat} (h : cntNamed s i = true) (v : DWord) :
    (c.cntStore s i v).cntLost s i = false := by
  simp only [Chip.cntStore, h, if_true, Chip.cntLost_setLost, and_self]

/-! ### The window (R490) -/

/-- The block with the fields of CNT_SEL as a write gives them. -/
def Chip.cntNames (c : Chip) (n : Nat) : Chip :=
  (((c.setF F.CNT_SEL_index [] n).setF F.CNT_SEL_space [] (n / 2 ^ 19)).setF F.CNT_SEL_rc [] (n / 2 ^ 20)).setF F.CNT_SEL_wr [] (n / 2 ^ 21)

theorem Chip.cntNames_same (c : Chip) (n : Nat) : (c.cntNames n).cnt = c.cnt ∧ (c.cntNames n).vlt = c.vlt := ⟨rfl, rfl⟩

theorem lookupReg_cntSel : lookupReg (regAt .CNT_SEL []) = some (.CNT_SEL, []) := by decide +kernel

theorem Chip.regWrite_cntSel (c : Chip) (n w : Nat) : c.regWrite .plain (regAt .CNT_SEL []) n w = (c.cntNames n).cntSelect := by
  have hfold : RegId.CNT_SEL.row.fields.foldl (fun (x : RegWrite) f => x.field c .CNT_SEL [] .plain n w f) { chip := c } =
      { chip := (((c.setKey (F.CNT_SEL_index.key []) (n / 2 ^ 0 % 2 ^ 19)).setKey (F.CNT_SEL_space.key []) (n / 2 ^ 19 % 2 ^ 1)).setKey
          (F.CNT_SEL_rc.key []) (n / 2 ^ 20 % 2 ^ 1)).setKey (F.CNT_SEL_wr.key []) (n / 2 ^ 21 % 2 ^ 1),
        acts := [(0, c.inForce (F.CNT_SEL_index.key []), n / 2 ^ 0 % 2 ^ 19),
          (19, (c.setKey (F.CNT_SEL_index.key []) (n / 2 ^ 0 % 2 ^ 19)).inForce (F.CNT_SEL_space.key []), n / 2 ^ 19 % 2 ^ 1),
          (20, ((c.setKey (F.CNT_SEL_index.key []) (n / 2 ^ 0 % 2 ^ 19)).setKey (F.CNT_SEL_space.key []) (n / 2 ^ 19 % 2 ^ 1)).inForce
            (F.CNT_SEL_rc.key []), n / 2 ^ 20 % 2 ^ 1),
          (21, (((c.setKey (F.CNT_SEL_index.key []) (n / 2 ^ 0 % 2 ^ 19)).setKey (F.CNT_SEL_space.key []) (n / 2 ^ 19 % 2 ^ 1)).setKey
            (F.CNT_SEL_rc.key []) (n / 2 ^ 20 % 2 ^ 1)).inForce (F.CNT_SEL_wr.key []), n / 2 ^ 21 % 2 ^ 1)] } := rfl
  rw [Chip.regWrite_of lookupReg_cntSel, hfold, Nat.pow_zero, Nat.div_one]
  rfl

section
variable (c : Chip) (n : Nat)

theorem Chip.cntNames_fields :
    (c.cntNames n).getF F.CNT_SEL_index [] = n % 2 ^ 19 ∧ (c.cntNames n).getF F.CNT_SEL_space [] = n / 2 ^ 19 % 2 ∧
      (c.cntNames n).getF F.CNT_SEL_rc [] = n / 2 ^ 20 % 2 ∧ (c.cntNames n).getF F.CNT_SEL_wr [] = n / 2 ^ 21 % 2 ∧
      (c.cntNames n).getF F.CNT_DATA_LO_data [] = c.getF F.CNT_DATA_LO_data [] ∧
      (c.cntNames n).getF F.CNT_DATA_HI_data [] = c.getF F.CNT_DATA_HI_data [] := by
  simp only [Chip.cntNames]
  refine ⟨?_, ?_, ?_, ?_, ?_, ?_⟩
  · rw [Chip.getF_setF_other _ _ (by decide) (by decide), Chip.getF_setF_other _ _ (by decide) (by decide),
      Chip.getF_setF_other _ _ (by decide) (by decide), Chip.getF_setF_same _ _ _ _ (by decide)]
    rfl
  · rw [Chip.getF_setF_other _ _ (by decide) (by decide), Chip.getF_setF_other _ _ (by decide) (by decide),
      Chip.getF_setF_same _ _ _ _ (by decide)]
    rfl
  · rw [Chip.getF_setF_other _ _ (by decide) (by decide), Chip.getF_setF_same _ _ _ _ (by decide)]
    rfl
  · rw [Chip.getF_setF_same _ _ _ _ (by decide)]
    rfl
  all_goals
    rw [Chip.getF_setF_other _ _ (by decide) (by decide), Chip.getF_setF_other _ _ (by decide) (by decide),
      Chip.getF_setF_other _ _ (by decide) (by decide), Chip.getF_setF_other _ _ (by decide) (by decide)]

end

/-- CNT_DATA. -/
def Chip.cntData (c : Chip) : Nat := c.getF F.CNT_DATA_HI_data [] * 2 ^ 32 + c.getF F.CNT_DATA_LO_data []

/-- What a snapshot leaves in the window. -/
def Chip.cntShown (c : Chip) (space : Bool) (i : Nat) : Chip :=
  ((c.setF F.CNT_DATA_LO_data [] (c.cntRead space i).toNat).setF F.CNT_DATA_HI_data [] ((c.cntRead space i).toNat / 2 ^ 32)).setF
    F.CNT_SEL_lost [] (b2n (cntNamed space i && c.cntLost space i))

theorem Chip.cntShown_spec (c : Chip) (space : Bool) (i : Nat) :
    (c.cntShown space i).cntData = (c.cntRead space i).toNat ∧
      (c.cntShown space i).getF F.CNT_SEL_lost [] = b2n (cntNamed space i && c.cntLost space i) ∧
      (c.cntShown space i).getF F.CNT_SEL_rc [] = c.getF F.CNT_SEL_rc [] ∧ (c.cntShown space i).cnt = c.cnt ∧
      (c.cntShown space i).vlt = c.vlt := by
  have hv := (c.cntRead space i).isLt
  simp only [Chip.cntShown, Chip.cntData]
  refine ⟨?_, ?_, ?_, rfl, rfl⟩
  · rw [Chip.getF_setF_other _ _ (by decide) (by decide), Chip.getF_setF_same _ _ _ _ (by decide),
      Chip.getF_setF_other _ _ (by decide) (by decide), Chip.getF_setF_other _ _ (by decide) (by decide),
      Chip.getF_setF_same _ _ _ _ (by decide)]
    simp only [F.CNT_DATA_HI_data, F.CNT_DATA_LO_data]
    omega
  · rw [Chip.getF_setF_same _ _ _ _ (by decide)]
    cases cntNamed space i && c.cntLost space i <;> rfl
  · rw [Chip.getF_setF_other _ _ (by decide) (by decide), Chip.getF_setF_other _ _ (by decide) (by decide),
      Chip.getF_setF_other _ _ (by decide) (by decide)]

section
variable (c : Chip) (space : Bool) (i : BitVec 19)

/-- What a command word of CNT_SEL names. -/
theorem cntSel_fields (m : Nat) (hm : m < 4) :
    (cntSel space i.toNat + m * 2 ^ 20) % 2 ^ 19 = i.toNat ∧ (cntSel space i.toNat + m * 2 ^ 20) / 2 ^ 19 % 2 = b2n space ∧
      (cntSel space i.toNat + m * 2 ^ 20) / 2 ^ 20 % 2 = m % 2 ∧ (cntSel space i.toNat + m * 2 ^ 20) / 2 ^ 21 % 2 = m / 2 := by
  have hi := i.isLt
  have hs : b2n space < 2 := by cases space <;> decide
  simp only [cntSel]
  omega

/-- A command of the window: `m` is 0 for a snapshot, 1 for one that clears, 2 for a write. -/
theorem Chip.cntSelect_eq (m : Nat) (hm : m < 4) :
    (c.cntNames (cntSel space i.toNat + m * 2 ^ 20)).cntSelect =
      let x := c.cntNames (cntSel space i.toNat + m * 2 ^ 20)
      if m / 2 = 0 then if m % 2 = 0 then x.cntShown space i.toNat else (x.cntShown space i.toNat).cntStore space i.toNat 0
      else x.cntStore space i.toNat (BitVec.ofNat 64 x.cntData) := by
  obtain ⟨h1, h2, h3, h4⟩ := cntSel_fields space i m hm
  obtain ⟨g1, g2, g3, g4, -, -⟩ := c.cntNames_fields (cntSel space i.toNat + m * 2 ^ 20)
  obtain ⟨x, hx⟩ : ∃ x, c.cntNames (cntSel space i.toNat + m * 2 ^ 20) = x := ⟨_, rfl⟩
  rw [hx] at g1 g2 g3 g4 ⊢
  rw [h1] at g1
  rw [h2] at g2
  rw [h3] at g3
  rw [h4] at g4
  have hspace : x.getB F.CNT_SEL_space [] = space := by
    rw [Chip.getB, g2]
    cases space <;> rfl
  have hrc : (x.cntShown space i.toNat).getB F.CNT_SEL_rc [] = (m % 2 != 0) := by
    rw [Chip.getB, (x.cntShown_spec space i.toNat).2.2.1, g3]
  have hshown : x.cntSelect = if x.getB F.CNT_SEL_wr [] then x.cntStore space i.toNat (BitVec.ofNat 64 x.cntData)
      else if (x.cntShown space i.toNat).getB F.CNT_SEL_rc [] then (x.cntShown space i.toNat).cntStore space i.toNat 0
      else x.cntShown space i.toNat := by
    simp only [Chip.cntSelect, hspace, g1]
    rfl
  rw [hshown, hrc, Chip.getB, g4]
  by_cases h0 : m / 2 = 0 <;> by_cases h1 : m % 2 = 0 <;> simp [h0, h1]

theorem Chip.cntSelect_shows : (c.cntNames (cntSel space i.toNat)).cntSelect = (c.cntNames (cntSel space i.toNat)).cntShown space i.toNat := by
  have h := c.cntSelect_eq space i 0 (by decide)
  rw [Nat.zero_mul, Nat.add_zero] at h
  exact h.trans ((if_pos (by decide)).trans (if_pos (by decide)))

theorem Chip.cntSelect_clears : (c.cntNames (cntSel space i.toNat + 2 ^ 20)).cntSelect =
    ((c.cntNames (cntSel space i.toNat + 2 ^ 20)).cntShown space i.toNat).cntStore space i.toNat 0 := by
  have h := c.cntSelect_eq space i 1 (by decide)
  rw [Nat.one_mul] at h
  exact h.trans ((if_pos (by decide)).trans (if_neg (by decide)))

theorem Chip.cntSelect_writes : (c.cntNames (cntSel space i.toNat + 2 ^ 21)).cntSelect =
    (c.cntNames (cntSel space i.toNat + 2 ^ 21)).cntStore space i.toNat (BitVec.ofNat 64 (c.cntNames (cntSel space i.toNat + 2 ^ 21)).cntData) := by
  have h := c.cntSelect_eq space i 2 (by decide)
  rw [show 2 * 2 ^ 20 = 2 ^ 21 by decide] at h
  exact h.trans (if_neg (by decide))

end

/-! ### Dumps (R491) -/

theorem Chip.each_cntStore (l : List Nat) (c : Chip) (s : Bool) :
    let d := c.each l fun c i => c.cntStore s i 0
    (∀ t j, d.cntGet t j = if t = s ∧ j ∈ l ∧ cntNamed t j = true then 0 else c.cntGet t j) ∧ d = { c with cnt := d.cnt } := by
  induction l generalizing c with
  | nil => exact ⟨fun t j => (if_neg fun h => List.not_mem_nil h.2.1).symm, rfl⟩
  | cons x l ih =>
    obtain ⟨hget, hrest⟩ := ih (c.cntStore s x 0)
    refine ⟨fun t j => ?_, ?_⟩
    · refine (hget t j).trans ?_
      rw [Chip.cntGet_cntStore]
      by_cases ht : t = s
      · subst ht
        by_cases hx : j = x
        · subst hx
          by_cases hn : cntNamed t j = true <;> simp [hn]
        · simp [hx]
      · simp [ht]
    · exact Chip.cntOnly_trans (c.cntStore_rest s x 0) hrest

/-! ### The commands -/

section
variable {s : State} (space : Bool) (i : BitVec 19)

/-- R490: a snapshot. -/
theorem counterSnapshot_spec (ht : s.chip.takesWrite (regAt .CNT_SEL [])) :
    completes (.counterSnapshot space i) s fun d =>
      d.cntData = (s.chip.cntRead space i.toNat).toNat ∧
        d.getF F.CNT_SEL_lost [] = b2n (cntNamed space i.toNat && s.chip.cntLost space i.toNat) ∧ d.cnt = s.chip.cnt := by
  have hsel := s.chip.cntSelect_shows space i
  obtain ⟨x, hx⟩ : ∃ x, s.chip.cntNames (cntSel space i.toNat) = x := ⟨_, rfl⟩
  have hxcnt : x.cnt = s.chip.cnt ∧ x.vlt = s.chip.vlt := hx ▸ s.chip.cntNames_same _
  have hread : x.cntRead space i.toNat = s.chip.cntRead space i.toNat := by
    rw [Chip.cntRead, Chip.cntGet_congr hxcnt.1, Chip.cntRead]
  have hlost : x.cntLost space i.toNat = s.chip.cntLost space i.toNat := by rw [Chip.cntLost, hxcnt.1, Chip.cntLost]
  obtain ⟨h1, h2, -, h4, h5⟩ := x.cntShown_spec space i.toNat
  rw [hx] at hsel
  rw [hread] at h1
  rw [hlost] at h2
  exact completes_eq (f := fun c => c.put .CNT_SEL [] (cntSel space i.toNat)) rfl
    ((ht.pf0Write _ _).trans ((s.chip.regWrite_cntSel _ 0).trans ((congrArg Chip.cntSelect hx).trans hsel)))
    ⟨h1, h2, h4.trans hxcnt.1⟩ (congrArg Vault.owners (h5.trans hxcnt.2))

/-- R490: a snapshot that clears. -/
theorem counterReadClear_spec (ht : s.chip.takesWrite (regAt .CNT_SEL [])) (hn : cntNamed space i.toNat = true) :
    completes (.counterReadClear space i) s fun d =>
      d.cntData = (s.chip.cntGet space i.toNat).toNat ∧ d.cntGet space i.toNat = 0 ∧ d.cntLost space i.toNat = false ∧
        ∀ sp j, (sp, j) ≠ (space, i.toNat) → d.cntGet sp j = s.chip.cntGet sp j := by
  have hsel := s.chip.cntSelect_clears space i
  obtain ⟨x, hx⟩ : ∃ x, s.chip.cntNames (cntSel space i.toNat + 2 ^ 20) = x := ⟨_, rfl⟩
  have hxcnt : x.cnt = s.chip.cnt ∧ x.vlt = s.chip.vlt := hx ▸ s.chip.cntNames_same _
  obtain ⟨h1, -, -, h4, h5⟩ := x.cntShown_spec space i.toNat
  obtain ⟨y, hy⟩ : ∃ y, x.cntShown space i.toNat = y := ⟨_, rfl⟩
  rw [hy] at h1 h4 h5
  have hset := y.cntStore_rest space i.toNat 0
  have hread : x.cntRead space i.toNat = s.chip.cntGet space i.toNat := by
    rw [Chip.cntRead, if_pos hn, Chip.cntGet_congr hxcnt.1]
  refine completes_eq (f := fun c => c.put .CNT_SEL [] (cntSel space i.toNat + 2 ^ 20)) rfl (d := y.cntStore space i.toNat 0)
    ((ht.pf0Write _ _).trans ((s.chip.regWrite_cntSel _ 0).trans ?_)) ⟨?_, ?_, Chip.cntLost_cntStore hn 0, fun sp j hne => ?_⟩ ?_
  · rw [hsel, hx, hy]
  · rw [← hread, ← h1, Chip.cntData, Chip.cntData, hset]
    rfl
  · rw [Chip.cntGet_cntStore, if_pos ⟨rfl, rfl, hn⟩]
  · rw [Chip.cntGet_cntStore, if_neg fun h => hne (by rw [h.1, h.2.1]), Chip.cntGet_congr (h4.trans hxcnt.1)]
  · rw [hset]
    exact congrArg Vault.owners (h5.trans hxcnt.2)

/-- R490: a write. -/
theorem counterWrite_spec (ht : s.chip.takesWrite (regAt .CNT_SEL [])) (hn : cntNamed space i.toNat = true) :
    completes (.counterWrite space i) s fun d =>
      d.cntGet space i.toNat = BitVec.ofNat 64 s.chip.cntData ∧ d.cntLost space i.toNat = false ∧
        (∀ sp j, (sp, j) ≠ (space, i.toNat) → d.cntGet sp j = s.chip.cntGet sp j) ∧ d.cntData = s.chip.cntData := by
  have hsel := s.chip.cntSelect_writes space i
  obtain ⟨-, -, -, -, hlo, hhi⟩ := s.chip.cntNames_fields (cntSel space i.toNat + 2 ^ 21)
  obtain ⟨x, hx⟩ : ∃ x, s.chip.cntNames (cntSel space i.toNat + 2 ^ 21) = x := ⟨_, rfl⟩
  have hxcnt : x.cnt = s.chip.cnt ∧ x.vlt = s.chip.vlt := hx ▸ s.chip.cntNames_same _
  rw [hx] at hlo hhi hsel
  have hdata : x.cntData = s.chip.cntData := by rw [Chip.cntData, Chip.cntData, hlo, hhi]
  have hset := x.cntStore_rest space i.toNat (BitVec.ofNat 64 x.cntData)
  refine completes_eq (f := fun c => c.put .CNT_SEL [] (cntSel space i.toNat + 2 ^ 21)) rfl
    (d := x.cntStore space i.toNat (BitVec.ofNat 64 x.cntData))
    ((ht.pf0Write _ _).trans ((s.chip.regWrite_cntSel _ 0).trans ?_)) ⟨?_, Chip.cntLost_cntStore hn _, fun sp j hne => ?_, ?_⟩ ?_
  · rw [hx]
    exact hsel
  · rw [Chip.cntGet_cntStore, if_pos ⟨rfl, rfl, hn⟩, hdata]
  · rw [Chip.cntGet_cntStore, if_neg fun h => hne (by rw [h.1, h.2.1]), Chip.cntGet_congr hxcnt.1]
  · rw [← hdata, Chip.cntData, hset]
    rfl
  · rw [hset]
    exact congrArg Vault.owners hxcnt.2

/-- R491: a dump. -/
theorem cntDump_spec (first count flags : Word) (out : DWord) (hfree : s.chip.orderFree)
    (hmode : s.chip.inMode (infoModes.erase .lockdown) = true) (hdma : s.chip.dmaAllowed 0 = true) (hflags : flags.toNat ≤ 1)
    (hone : 1 ≤ count.toNat) (hmany : count.toNat ≤ 65536) (hsize : first.toNat + count.toNat ≤ spaceSize space) :
    completes (.cntDump (if space then 1 else 0) first count flags out) s fun d =>
      d.out = s.chip.out ++ [.hostWrite 0 out.toNat (((List.range count.toNat).map (first.toNat + ·)).flatMap fun j =>
        leBytes 8 (s.chip.cntRead space j).toNat)] ∧
      (∀ sp j, d.cntGet sp j = if flags = 1 ∧ sp = space ∧ first.toNat ≤ j ∧ j < first.toNat + count.toNat ∧
        cntNamed sp j = true then 0 else s.chip.cntGet sp j) ∧ d.regs = s.chip.regs ∧ d.ord.res.status = 0 := by
  obtain ⟨c, hc⟩ : ∃ c, s.chip = c := ⟨_, rfl⟩
  rw [hc] at hfree hmode hdma ⊢
  obtain ⟨l, hl⟩ : ∃ l, (List.range count.toNat).map (first.toNat + ·) = l := ⟨_, rfl⟩
  have hmem : ∀ j, j ∈ l ↔ first.toNat ≤ j ∧ j < first.toNat + count.toNat := by
    intro j
    rw [← hl, List.mem_map]
    refine ⟨?_, fun h => ⟨j - first.toNat, List.mem_range.2 (by omega), by omega⟩⟩
    rintro ⟨k, hk, rfl⟩
    have := List.mem_range.1 hk
    omega
  obtain ⟨hget, hrest⟩ := Chip.each_cntStore l c space
  obtain ⟨x, hx⟩ : ∃ x, c.when (flags.toNat = 1) (fun c => c.each l fun c i => c.cntStore space i 0) = x := ⟨_, rfl⟩
  have hxframe : x = { c with cnt := x.cnt } := by
    rw [← hx]
    exact ite_cases (P := fun x : Chip => x = { c with cnt := x.cnt }) hrest rfl
  have hxget : ∀ sp j, x.cntGet sp j = if flags = 1 ∧ sp = space ∧ first.toNat ≤ j ∧ j < first.toNat + count.toNat ∧
      cntNamed sp j = true then 0 else c.cntGet sp j := by
    intro sp j
    have hflag : flags = 1 ↔ flags.toNat = 1 := by rw [← BitVec.toNat_inj]; rfl
    simp only [← hx, Chip.when, hflag]
    by_cases h1 : flags.toNat = 1
    · simp only [h1, decide_true, if_true, true_and]
      exact (hget sp j).trans (if_congr (by rw [hmem, and_assoc]) rfl rfl)
    · simp only [h1, decide_false, Bool.false_eq_true, if_false, false_and]
  obtain ⟨data, hdata⟩ : ∃ data, (l.flatMap fun j => leBytes 8 (c.cntRead space j).toNat) = data := ⟨_, rfl⟩
  have hspace : ((if space then 1 else 0 : Word).toNat = 1) = (space = true) := by cases space <;> decide
  have hspace' : (if space then 1 else 0 : Word).toNat ≤ 1 := by cases space <;> decide
  have hxdma : x.dmaAllowed 0 = true := by rw [hxframe]; exact hdma
  have hord : ∃ r : OrdRes, r.status = 0 ∧ cntDump (if space then 1 else 0 : Word).toNat first.toNat count.toNat flags.toNat out c =
      (x.emit (.hostWrite 0 out.toNat data), some r) := by
    rw [cntDump, inModes_of hmode]
    simp only [hspace, Bool.decide_eq_true, if_neg (show ¬ (decide (1 < (if space then 1 else 0 : Word).toNat) || decide (1 < flags.toNat) ||
      decide (count.toNat = 0) || decide (65536 < count.toNat) || decide (spaceSize space < first.toNat + count.toNat)) = true by
        simp only [Bool.or_eq_true, decide_eq_true_eq]; omega), hl, hx, hdata, Chip.hostOut, Chip.dma_allowed hxdma]
    exact ⟨_, rfl, rfl⟩
  obtain ⟨r, hr, hord⟩ := hord
  have hxord : x.ord = c.ord ∧ x.out = c.out ∧ x.regs = c.regs ∧ x.vlt = c.vlt := by
    rw [hxframe]
    exact ⟨rfl, rfl, rfl, rfl⟩
  rw [hl, hdata]
  subst hc
  refine completes_order rfl hfree hord (Chip.ordQuiet_congr hfree.quiet hxord.1) (congrArg Vault.owners hxord.2.2.2)
    ⟨?_, hxget, hxord.2.2.1, hr⟩
  · show x.out ++ _ = _
    rw [hxord.2.1]

/-- R492: a counter whose memory fails. -/
theorem counterEccError_spec (hrun : s.chip.running = true) (hn : cntNamed space i.toNat = true) :
    completes (.counterEccError space ⟨i, false⟩) s fun d =>
      d.cntGet space i.toNat = 0 ∧ d.cntLost space i.toNat = true ∧
        (∀ sp j, (sp, j) ≠ (space, i.toNat) → d.cntGet sp j = s.chip.cntGet sp j) ∧ d.getF F.CNT_STAT_lost [] = 1 ∧
        d.getF F.CNT_LOST_IDX_index [] = i.toNat ∧ d.getF F.CNT_LOST_IDX_space [] = b2n space := by
  obtain ⟨c, hc⟩ : ∃ c, s.chip = c := ⟨_, rfl⟩
  rw [hc] at hrun ⊢
  obtain ⟨x, hx⟩ : ∃ x, (c.cntSet space i.toNat 0).setLost space i.toNat true = x := ⟨_, rfl⟩
  obtain ⟨y, hy⟩ : ∃ y, ((x.setF F.CNT_STAT_lost [] 1).setF F.CNT_LOST_IDX_index [] i.toNat).setF F.CNT_LOST_IDX_space [] (b2n space) = y :=
    ⟨_, rfl⟩
  obtain ⟨z, hz⟩ : ∃ z, y.raise Ev.CNT_LOST 0x007 [(4, b2n space), (4, i.toNat)] = z := ⟨_, rfl⟩
  have hcnt : z.cnt = x.cnt := by rw [← hz, Chip.raise_cnt, ← hy]; rfl
  have hsaid : y.loses z := hz ▸ (Chip.loses.refl y).raise (by decide) _ _
  have hgetx : ∀ sp j, z.cntGet sp j = if sp = space ∧ j = i.toNat then 0 else c.cntGet sp j := fun sp j => by
    rw [Chip.cntGet_congr hcnt, ← hx, Chip.cntGet_setLost, Chip.cntGet_cntSet]
  refine completes_eq (f := fun c => c.cntEcc space i.toNat) rfl (d := z) ?_ ⟨?_, ?_, fun sp j hne => ?_, ?_, ?_, ?_⟩ ?_
  · rw [hc]
    show c.cntEcc space i.toNat = z
    rw [Chip.cntEcc, if_neg (by simp [hrun, hn]), ← hz, ← hy, ← hx]
  · rw [hgetx, if_pos ⟨rfl, rfl⟩]
  · have hlost : z.cntLost space i.toNat = x.cntLost space i.toNat := by rw [Chip.cntLost, hcnt, Chip.cntLost]
    rw [hlost, ← hx, Chip.cntLost_setLost, if_pos ⟨rfl, rfl⟩]
  · rw [hgetx, if_neg fun h => hne (by rw [h.1, h.2])]
  · rw [hsaid.getF (by decide), ← hy, Chip.getF_setF_other _ _ (by decide) (by decide), Chip.getF_setF_other _ _ (by decide) (by decide),
      Chip.getF_setF_same _ _ _ _ (by decide)]
    rfl
  · rw [hsaid.getF (by decide), ← hy, Chip.getF_setF_other _ _ (by decide) (by decide), Chip.getF_setF_same _ _ _ _ (by decide)]
    exact Nat.mod_eq_of_lt i.isLt
  · rw [hsaid.getF (by decide), ← hy, Chip.getF_setF_same _ _ _ _ (by decide)]
    cases space <;> rfl
  · rw [hc, ← hz, Chip.raise_vlt, ← hy, ← hx]
    simp only [Chip.setF_vlt, Chip.setLost_vlt, Chip.cntSet_vlt]

end

/-- Settles O29: the window, the dump and a counter's memory error. -/
theorem statisticsCommands : Obligations.StatisticsCommands := by
  unfold Obligations.StatisticsCommands
  intro s space i c k v others data
  refine ⟨fun ht hn => ⟨?_, counterReadClear_spec space i ht hn, counterWrite_spec space i ht hn⟩, fun ht hn => ?_,
    fun first count flags out hfree hmode hdma hflags hone hmany hsize =>
      cntDump_spec space first count flags out hfree hmode hdma hflags hone hmany hsize, fun hrun => ?_, fun hrun hn => counterEccError_spec space i hrun hn⟩
  · refine completes_mono (counterSnapshot_spec space i ht) fun d ⟨h1, h2, h3⟩ => ⟨?_, ?_, h3⟩
    · exact h1.trans (by rw [Chip.cntRead, if_pos hn])
    · rw [h2, hn, Bool.true_and]
  · refine completes_mono (counterSnapshot_spec space i ht) fun d ⟨h1, h2, h3⟩ => ⟨?_, h3⟩
    exact h1.trans (by rw [Chip.cntRead, if_neg (by rw [hn]; decide)]; rfl)
  · exact completes_eq rfl (if_pos hrun) ⟨c.bumped_bump _ _ (by decide), rfl⟩ rfl

end Sys2Proof.Machine

/-! PROOFS. The host interface's own events (R498 to R503, R522 to R525). -/
namespace Sys2Proof.Machine

/-- A vector of function `fn` starts a holdoff with its message. -/
def Chip.holdsOff (c : Chip) (fn v : Nat) : Bool := decide (fn = 0) && c.getF F.HIF_MSIX_MOD_holdoff [v] != 0

/-- The mask bit of a vector's table entry. -/
def Chip.masked (c : Chip) (k : Nat) : Bool :=
  (SMap.get (fun i => if i % 4 = 3 then (1 : Word) else 0) c.hif.msixTable (k * 4 + 3)).getLsbD 0

/-- The control word of a vector's table entry written. -/
def Chip.withMask (c : Chip) (k : Nat) (w : Word) : Chip := c.modHif fun h =>
  { h with msixTable := SMap.set (fun i => if i % 4 = 3 then (1 : Word) else 0) h.msixTable (k * 4 + 3) w }

/-- R523, R524: an unmasked vector outside its holdoff sends its message. -/
theorem Chip.msixSignal_sends {c : Chip} {fn v : Nat} (hmask : c.masked (fn * 2048 + v) = false) (hdma : c.dmaAllowed fn = true)
    (hfree : SMap.get (fun _ => false) c.hif.holdoff (fn * 2048 + v) = false) :
    let d := c.msixSignal fn v
    d.out = c.out ++ [.msix fn v] ∧ SMap.get (fun _ => false) d.hif.holdoff (fn * 2048 + v) = c.holdsOff fn v ∧
      d.hif.holdPending = c.hif.holdPending ∧ d.hif.pba = c.hif.pba ∧ d.hif.msixTable = c.hif.msixTable ∧ d.regs = c.regs ∧ d.vlt = c.vlt := by
  have hsend : c.msixSignal fn v =
      let c := c.emit (.msix fn v)
      if fn = 0 && c.getF F.HIF_MSIX_MOD_holdoff [v] != 0 then
        { c with
          hif := { c.hif with
          holdoff := SMap.set (fun _ => false) c.hif.holdoff (fn * 2048 + v) true
          holdEnds := SMap.set (fun _ => 0) c.hif.holdEnds (fn * 2048 + v)
            (c.tim.elapsed.toNat + c.getF F.HIF_MSIX_MOD_holdoff [v] * 1000) } }
      else c := by
    simp only [Chip.masked] at hmask
    simp only [Chip.msixSignal, hmask, hfree, Bool.false_eq_true, if_false, Bool.false_and, Chip.dma_allowed hdma]
  intro d
  rw [show d = _ from hsend]
  by_cases hhold : c.holdsOff fn v = true
  · rw [hhold]
    simp only [if_pos (show (decide (fn = 0) && (c.emit (.msix fn v)).getF F.HIF_MSIX_MOD_holdoff [v] != 0) = true from hhold)]
    exact ⟨rfl, SMap.get_set_same, rfl, rfl, rfl, rfl, rfl⟩
  · rw [Bool.not_eq_true] at hhold
    rw [hhold]
    simp only [if_neg (show ¬ (decide (fn = 0) && (c.emit (.msix fn v)).getF F.HIF_MSIX_MOD_holdoff [v] != 0) = true from
      Bool.eq_false_iff.1 hhold)]
    exact ⟨rfl, hfree, rfl, rfl, rfl, rfl, rfl⟩

section
variable {c : Chip} {fn v : Nat}

/-- R524: a holdoff that ends. -/
theorem Chip.holdoffEnd_spec (hon : SMap.get (fun _ => false) c.hif.holdoff (fn * 2048 + v) = true)
    (hmask : c.masked (fn * 2048 + v) = false) (hdma : c.dmaAllowed fn = true) :
    let d := c.holdoffEnd fn v
    let owed := SMap.get (fun _ => false) c.hif.holdPending (fn * 2048 + v)
    d.out = c.out ++ (if owed then [.msix fn v] else []) ∧
      SMap.get (fun _ => false) d.hif.holdoff (fn * 2048 + v) = (owed && c.holdsOff fn v) ∧
      SMap.get (fun _ => false) d.hif.holdPending (fn * 2048 + v) = false ∧ d.regs = c.regs ∧ d.vlt = c.vlt := by
  intro d owed
  obtain ⟨x, hx⟩ : ∃ x, c.reachElapsed (SMap.get (fun _ => 0) c.hif.holdEnds (fn * 2048 + v)) = x := ⟨_, rfl⟩
  have hxframe : x = { c with tim := x.tim } := hx ▸ (c.reachElapsed_runs _).1
  obtain ⟨y, hy⟩ : ∃ y : Chip, x.modHif (fun h => { h with
      holdEnds := SMap.set (fun _ => 0) h.holdEnds (fn * 2048 + v) 0
      holdoff := SMap.set (fun _ => false) h.holdoff (fn * 2048 + v) false
      holdPending := SMap.set (fun _ => false) h.holdPending (fn * 2048 + v) false }) = y := ⟨_, rfl⟩
  have hd : d = y.when owed fun c => c.msixSignal fn v := by
    show c.holdoffEnd fn v = _
    rw [Chip.holdoffEnd, if_neg (by rw [hon]; decide), ← hy, ← hx]
  have hyfree : SMap.get (fun _ => false) y.hif.holdoff (fn * 2048 + v) = false := by
    rw [← hy]
    simp only [Chip.modHif, SMap.get_set_same]
  have hypend : SMap.get (fun _ => false) y.hif.holdPending (fn * 2048 + v) = false := by
    rw [← hy]
    simp only [Chip.modHif, SMap.get_set_same]
  have hysame : y.out = c.out ∧ y.regs = c.regs ∧ y.vlt = c.vlt ∧ y.hif.msixTable = c.hif.msixTable ∧ y.hif.bme = c.hif.bme := by
    rw [← hy, hxframe]
    exact ⟨rfl, rfl, rfl, rfl, rfl⟩
  obtain ⟨hout, hregs, hvlt, htable, hbme⟩ := hysame
  have hget : ∀ f i, y.getF f i = c.getF f i := Chip.getF_congr hregs
  rw [hd]
  cases owed with
  | false => exact ⟨by rw [Chip.when_false, hout]; exact (List.append_nil _).symm, hyfree, hypend, hregs, hvlt⟩
  | true =>
    obtain ⟨h1, h2, h3, -, -, h6, h7⟩ := Chip.msixSignal_sends (c := y) (fn := fn) (v := v) (by rw [Chip.masked, htable]; exact hmask)
      (by rw [Chip.dmaAllowed, hbme, Chip.getB, hget, hget]; exact hdma) hyfree
    rw [Chip.when_true]
    refine ⟨by rw [h1, hout]; rfl, ?_, by rw [h3]; exact hypend, h6.trans hregs, h7.trans hvlt⟩
    rw [h2, Chip.holdsOff, hget, Bool.true_and, Chip.holdsOff]

/-- R524: a vector that is unmasked. -/
theorem Chip.vectorUnmask_spec (hsize : v < msixSize fn) (hmask : c.masked (fn * 2048 + v) = true) (hdma : c.dmaAllowed fn = true)
    (hfree : SMap.get (fun _ => false) c.hif.holdoff (fn * 2048 + v) = false) :
    let d := c.vectorUnmask fn v
    d.masked (fn * 2048 + v) = false ∧ SMap.get (fun _ => false) d.hif.pba (fn * 2048 + v) = false ∧
      d.out = c.out ++ (if SMap.get (fun _ => false) c.hif.pba (fn * 2048 + v) then [.msix fn v] else []) ∧ d.regs = c.regs ∧
      d.vlt = c.vlt := by
  obtain ⟨w, hw⟩ : ∃ w, SMap.get (fun i => if i % 4 = 3 then (1 : Word) else 0) c.hif.msixTable ((fn * 2048 + v) * 4 + 3) &&& ~~~1#32 = w :=
    ⟨_, rfl⟩
  have hbit : w.getLsbD 0 = false := by
    rw [← hw]
    simp
  obtain ⟨x, hx⟩ : ∃ x : Chip, c.withMask (fn * 2048 + v) w = x := ⟨_, rfl⟩
  have hxmask : x.masked (fn * 2048 + v) = false := by
    rw [Chip.masked, ← hx]
    simp only [Chip.withMask, Chip.modHif, SMap.get_set_same]
    exact hbit
  have hxsame : x.out = c.out ∧ x.regs = c.regs ∧ x.vlt = c.vlt ∧ x.hif.pba = c.hif.pba ∧ x.hif.holdoff = c.hif.holdoff ∧
      x.hif.bme = c.hif.bme := by
    subst hx
    exact ⟨rfl, rfl, rfl, rfl, rfl, rfl⟩
  obtain ⟨hout, hregs, hvlt, hpba, hoff, hbme⟩ := hxsame
  have hd : c.vectorUnmask fn v = x.msixUnmask fn v := by
    have h1 : (v * 16 + 12) / 16 = v := by omega
    have h2 : (v * 16 + 12) / 4 % 4 = 3 := by omega
    simp only [Chip.masked] at hmask
    simp only [Chip.vectorUnmask, Chip.msixWrite, if_neg (show ¬ msixSize fn * 16 ≤ v * 16 + 12 by omega), h1, h2, hw, hmask, hbit,
      decide_true, Bool.true_and, Bool.not_false, Chip.when_true, ← hx]
    rfl
  have hun : x.msixUnmask fn v = if SMap.get (fun _ => false) c.hif.pba (fn * 2048 + v) then
      ({ x with hif := { x.hif with pba := SMap.set (fun _ => false) x.hif.pba (fn * 2048 + v) false } } : Chip).msixSignal fn v else x := by
    rw [← hpba]
    rfl
  intro d
  rw [show d = _ from hd.trans hun]
  cases hp : SMap.get (fun _ => false) c.hif.pba (fn * 2048 + v) with
  | false =>
    simp only [Bool.false_eq_true, if_false]
    exact ⟨hxmask, by rw [hpba]; exact hp, by rw [hout, List.append_nil], hregs, hvlt⟩
  | true =>
    obtain ⟨y, hy⟩ : ∃ y : Chip, { x with hif := { x.hif with pba := SMap.set (fun _ => false) x.hif.pba (fn * 2048 + v) false } } = y :=
      ⟨_, rfl⟩
    have hysame : y.out = x.out ∧ y.regs = x.regs ∧ y.vlt = x.vlt ∧ y.hif.msixTable = x.hif.msixTable ∧ y.hif.holdoff = x.hif.holdoff ∧
        y.hif.bme = x.hif.bme ∧ SMap.get (fun _ => false) y.hif.pba (fn * 2048 + v) = false := by
      subst hy
      exact ⟨rfl, rfl, rfl, rfl, rfl, rfl, (SMap.get_set_same : SMap.get _ (SMap.set _ x.hif.pba _ false) _ = false)⟩
    obtain ⟨gout, gregs, gvlt, gtable, goff, gbme, gpba⟩ := hysame
    have hymask : y.masked (fn * 2048 + v) = false := by rw [Chip.masked, gtable]; exact hxmask
    have hget : ∀ f i, y.getF f i = c.getF f i := Chip.getF_congr (gregs.trans hregs)
    obtain ⟨h1, -, -, h4, h5, h6, h7⟩ := Chip.msixSignal_sends (c := y) (fn := fn) (v := v) hymask
      (by rw [Chip.dmaAllowed, gbme, hbme, Chip.getB, hget, hget]; exact hdma) (by rw [goff, hoff]; exact hfree)
    simp only [if_true, hy]
    refine ⟨?_, by rw [h4]; exact gpba, by rw [h1, gout, hout], h6.trans (gregs.trans hregs), h7.trans (gvlt.trans hvlt)⟩
    rw [Chip.masked, h5]
    exact hymask

end

/-! ### The link -/

section
variable {c : Chip}

theorem Chip.flushOwed_spec (c : Chip) :
    c.flushOwed = { c with out := c.flushOwed.out, hif := { c.hif with owed := c.flushOwed.hif.owed } } ∧
      c.flushOwed.out = c.out ++ (c.hif.owed.filter fun p => c.dmaAllowed p.1).map (·.2) ∧
      c.flushOwed.hif.owed = c.hif.owed.filter fun p => !c.dmaAllowed p.1 := ⟨rfl, rfl, rfl⟩

/-- R522. -/
theorem Chip.setBme_spec (fn : Nat) (on : Bool) :
    let d := c.setBme fn on
    (∀ x, SMap.get (fun _ => false) d.hif.bme x = if x = fn then on else SMap.get (fun _ => false) c.hif.bme x) ∧
      d.out = c.out ++ (c.hif.owed.filter fun p => d.dmaAllowed p.1).map (·.2) ∧
      d.hif.owed = (c.hif.owed.filter fun p => !d.dmaAllowed p.1) ∧
      d = { c with out := d.out, hif := { c.hif with bme := d.hif.bme, owed := d.hif.owed } } :=
  ⟨fun _ => SMap.get_set, rfl, rfl, rfl⟩

/-- R398. -/
theorem Chip.linkInL0_spec (rate : Fin 7) {width : Nat} (flit fromDetect : Bool) (hrun : c.running = true) (hstart : c.evr.started = true)
    (hwidth : width ≤ 16) (hlogs : c.logs) :
    let d := c.linkInL0 rate.val width flit fromDetect
    let slow := rate.val < 6 ∨ width < 16
    d.getF F.HIF_LINK_STAT_rate [] = rate.val ∧ d.getF F.HIF_LINK_STAT_width [] = width ∧
      d.getF F.HIF_LINK_STAT_flit [] = b2n flit ∧ d.getF F.HIF_LINK_STAT_up [] = 1 ∧ d.hif.linkL0 = true ∧
      c.logged d ((if fromDetect then [⟨Ev.LINK_UP, 0x73A, [], false⟩] else []) ++
        (if slow then [⟨Ev.LINK_DEGRADED, 0x73A, [(4, rate.val), (4, width)], false⟩] else [])) ∧
      (slow → d.getF F.HIF_LINK_STAT_degraded [] = 1) ∧ d.vlt = c.vlt := by
  intro d slow
  obtain ⟨b, hb⟩ : ∃ b : Bool, (decide (rate.val < 6) || decide (width < 16)) = b := ⟨_, rfl⟩
  have hslow : slow ↔ b = true := by rw [← hb, Bool.or_eq_true, decide_eq_true_eq, decide_eq_true_eq]
  obtain ⟨x, hx⟩ : ∃ x, (((c.setF F.HIF_LINK_STAT_rate [] rate.val).setF F.HIF_LINK_STAT_width [] width).setF F.HIF_LINK_STAT_flit []
    (b2n flit)).setF F.HIF_LINK_STAT_up [] 1 = x := ⟨_, rfl⟩
  obtain ⟨y, hy⟩ : ∃ y : Chip, (x.when b fun c => c.setF F.HIF_LINK_STAT_degraded [] 1).modHif (fun h => { h with linkL0 := true }) = y :=
    ⟨_, rfl⟩
  have hxfields : x.getF F.HIF_LINK_STAT_rate [] = rate.val ∧ x.getF F.HIF_LINK_STAT_width [] = width ∧
      x.getF F.HIF_LINK_STAT_flit [] = b2n flit ∧ x.getF F.HIF_LINK_STAT_up [] = 1 := by
    rw [← hx]
    refine ⟨?_, ?_, ?_, ?_⟩
    · rw [Chip.getF_setF_other _ _ (by decide) (by decide), Chip.getF_setF_other _ _ (by decide) (by decide),
        Chip.getF_setF_other _ _ (by decide) (by decide), Chip.getF_setF_same _ _ _ _ (by decide)]
      exact Nat.mod_eq_of_lt (rate.isLt.trans (by decide))
    · rw [Chip.getF_setF_other _ _ (by decide) (by decide), Chip.getF_setF_other _ _ (by decide) (by decide),
        Chip.getF_setF_same _ _ _ _ (by decide)]
      exact Nat.mod_eq_of_lt (hwidth.trans_lt (by decide))
    · rw [Chip.getF_setF_other _ _ (by decide) (by decide), Chip.getF_setF_same _ _ _ _ (by decide)]
      cases flit <;> rfl
    · rw [Chip.getF_setF_same _ _ _ _ (by decide)]
      rfl
  have hyfield : ∀ f : Fld, f.key [] ≠ F.HIF_LINK_STAT_degraded.key [] → y.getF f [] = x.getF f [] := by
    intro f hne
    rw [← hy]
    cases b with
    | false => rfl
    | true => exact (Chip.getF_setF_other x 1 (by decide) hne : (x.setF F.HIF_LINK_STAT_degraded [] 1).getF f [] = x.getF f [])
  have hydeg : b = true → y.getF F.HIF_LINK_STAT_degraded [] = 1 := by
    rintro rfl
    rw [← hy]
    exact Chip.getF_setF_same x F.HIF_LINK_STAT_degraded [] 1 (by decide)
  have hysame : y.evr = c.evr ∧ y.vlt = c.vlt ∧ y.hif.linkL0 = true := by
    rw [← hy, ← hx]
    cases b <;> exact ⟨rfl, rfl, rfl⟩
  have hylogs : y.logs := by rw [Chip.logs, hysame.1]; exact hlogs
  have hd : d = (y.when fromDetect fun c => c.raise Ev.LINK_UP 0x73A).when b fun c =>
      c.raise Ev.LINK_DEGRADED 0x73A [(4, rate.val), (4, width)] := by
    show c.linkInL0 _ _ _ _ = _
    simp only [Chip.linkInL0, hrun, hstart, Bool.and_self, Bool.not_true, Bool.false_eq_true, if_false, hx, hb, hy]
  have hsame : ∀ l : List EvReq, ∀ z : Chip, z = { y with evr := { y.evr with intake := y.evr.intake ++ l } } →
      z.regs = y.regs ∧ z.hif = y.hif ∧ z.vlt = y.vlt ∧ z.evr.intake = y.evr.intake ++ l := by
    rintro l z rfl
    exact ⟨rfl, rfl, rfl, rfl⟩
  have hsaid : d = { y with evr := { y.evr with intake := y.evr.intake ++ ((if fromDetect then [⟨Ev.LINK_UP, 0x73A, [], false⟩] else []) ++
      (if b then [⟨Ev.LINK_DEGRADED, 0x73A, [(4, rate.val), (4, width)], false⟩] else [])) } } := by
    rw [hd]
    cases fromDetect with
    | false =>
      cases b with
      | false => simp [Chip.when]
      | true =>
        rw [Chip.when_false, Chip.when_true, Chip.raise_logs hylogs (by decide)]
        rfl
    | true =>
      have hup := Chip.raise_logs (code := Ev.LINK_UP) (src := 0x73A) (items := []) hylogs (by decide)
      obtain ⟨z, hz⟩ : ∃ z, y.raise Ev.LINK_UP 0x73A = z := ⟨_, rfl⟩
      rw [hz] at hup
      rw [Chip.when_true, hz]
      cases b with
      | false => exact hup
      | true =>
        have hroom : z.evr.started = true ∧ z.evr.intake.length < 256 := by
          have := hylogs.2
          rw [hup]
          exact ⟨hylogs.1, by rw [List.length_append, List.length_singleton]; omega⟩
        rw [Chip.when_true, Chip.raise_intake hroom.1 (by decide) hroom.2, hup]
        simp only [List.append_assoc, if_true]
  obtain ⟨hregs, hhif, hvlt, hlog⟩ := hsame _ d hsaid
  have hdf : ∀ f : Fld, d.getF f [] = y.getF f [] := fun f => Chip.getF_congr hregs f []
  refine ⟨?_, ?_, ?_, ?_, by rw [hhif]; exact hysame.2.2, ?_, fun h => (hdf _).trans (hydeg (hslow.1 h)), hvlt.trans hysame.2.1⟩
  · rw [hdf, hyfield _ (by decide), hxfields.1]
  · rw [hdf, hyfield _ (by decide), hxfields.2.1]
  · rw [hdf, hyfield _ (by decide), hxfields.2.2.1]
  · rw [hdf, hyfield _ (by decide), hxfields.2.2.2]
  · rw [Chip.logged, hlog, hysame.1]
    simp only [hslow]

end

/-- Settles O30: messages, Bus Master Enable, the stream, the mailbox and the link. -/
theorem hostInterfaceEvents : Obligations.HostInterfaceEvents := by
  unfold Obligations.HostInterfaceEvents
  intro s fn v msg c k bitOf held ctl
  have hheld : held = c.holdsOff fn.val v.val := by
    simp only [held, Chip.holdsOff, Fin.ext_iff]
    rfl
  refine ⟨fun hon hmask hdma => ?_, fun hrun hsize hmask hdma hfree => ?_, fun on hrun => ?_, fun hstate hlogs => ?_, fun hrun => ?_,
    fun rate width flit fromDetect hrun hstart hwidth hlogs => ?_, fun hlogs => ?_⟩
  · obtain ⟨h1, h2, h3, h4, hvlt⟩ := Chip.holdoffEnd_spec hon hmask hdma
    refine ⟨fun hp => ?_, fun hp => ?_⟩
    · have hp' : SMap.get (fun _ => false) c.hif.holdPending (fn.val * 2048 + v.val) = true := hp
      rw [hp'] at h1 h2
      exact completes_eq (f := fun c => c.holdoffEnd fn.val v.val) rfl rfl ⟨h1, h3, by rw [hheld]; exact h2, h4⟩ (congrArg Vault.owners hvlt)
    · have hp' : SMap.get (fun _ => false) c.hif.holdPending (fn.val * 2048 + v.val) = false := hp
      rw [hp'] at h1 h2
      exact completes_eq (f := fun c => c.holdoffEnd fn.val v.val) rfl rfl ⟨h1.trans (List.append_nil _), h2, h4⟩ (congrArg Vault.owners hvlt)
  · obtain ⟨h1, h2, h3, h4, hvlt⟩ := Chip.vectorUnmask_spec hsize hmask hdma hfree
    exact completes_eq rfl (if_pos hrun) ⟨h1, h2, h3, h4⟩ (congrArg Vault.owners hvlt)
  · exact completes_eq rfl (if_pos hrun) (Chip.setBme_spec fn.val on) rfl
  · obtain ⟨x, hx⟩ : ∃ x, (c.setF F.HIF_IDE_STAT_state [] 2).setF F.HIF_IDE_STAT_fail [] 1 = x := ⟨_, rfl⟩
    have hxframe : x = { c with regs := x.regs } := by subst hx; rfl
    have hlogs' : x.logs := by rw [hxframe]; exact hlogs
    have hsaid := Chip.raise_logs (code := Ev.IDE_FAIL) (src := 0x73B) (items := []) hlogs' (by decide)
    refine completes_eq (f := Chip.ideFail) rfl (d := x.raise Ev.IDE_FAIL 0x73B) ?_ ⟨?_, ?_, ?_, ?_⟩ ?_
    · show c.ideFail = _
      rw [Chip.ideFail, if_pos hstate, hx]
    · rw [hsaid]
      show x.getF _ _ = 2
      rw [← hx, Chip.getF_setF_other _ _ (by decide) (by decide), Chip.getF_setF_same _ _ _ _ (by decide)]
      rfl
    · rw [hsaid]
      show x.getF _ _ = 1
      rw [← hx, Chip.getF_setF_same _ _ _ _ (by decide)]
      rfl
    · rw [Chip.logged, hsaid, hxframe]
    · rw [hsaid, hxframe]
    · rw [hsaid, hxframe]
  · obtain ⟨x, hx⟩ : ∃ x : Chip, c.draw.2.emit (.doe (Config.doeReply c.free msg)) = x := ⟨_, rfl⟩
    have hxsame : x.out = c.out ++ [.doe (Config.doeReply c.free msg)] ∧ x.regs = c.regs ∧ x.vlt = c.vlt ∧ x.ctl = c.ctl := by
      subst hx
      exact ⟨rfl, rfl, rfl, rfl⟩
    obtain ⟨hout, hregs, hvlt, hctl⟩ := hxsame
    have hd : c.doeMessage msg = if Config.doeSecures c.free msg then (x.setF F.HIF_IDE_STAT_state [] 1).flushOwed else x := by
      rw [Chip.doeMessage, if_neg (by rw [hrun]; decide), ← hx]
      rfl
    cases hsec : Config.doeSecures c.free msg with
    | true =>
      rw [hsec] at hd
      obtain ⟨hframe, hflush, -⟩ := (x.setF F.HIF_IDE_STAT_state [] 1).flushOwed_spec
      refine completes_eq (f := fun c => c.doeMessage msg) rfl (hd.trans (if_pos rfl)) ⟨?_, fun _ => ?_, fun h => absurd h (by decide), hvlt, hctl⟩
        (congrArg Vault.owners hvlt)
      · rw [hflush, Chip.setF_out, hout, List.append_assoc]
        exact ⟨_, rfl⟩
      · exact (Chip.getF_setF_same x F.HIF_IDE_STAT_state [] 1 (by decide)).trans rfl
    | false =>
      rw [hsec] at hd
      exact completes_eq (f := fun c => c.doeMessage msg) rfl (hd.trans (if_neg (by decide)))
        ⟨⟨[], hout⟩, fun h => absurd h (by decide), fun _ => hregs, hvlt, hctl⟩ (congrArg Vault.owners hvlt)
  · obtain ⟨h1, h2, h3, h4, h5, h6, h7, hvlt⟩ := Chip.linkInL0_spec rate flit fromDetect hrun hstart hwidth hlogs
    exact completes_eq (f := fun c => c.linkInL0 rate.val width flit fromDetect) rfl rfl ⟨h1, h2, h3, h4, h5, h6, h7⟩ (congrArg Vault.owners hvlt)
  · obtain ⟨x, hx⟩ : ∃ x : Chip, (c.setF F.HIF_LINK_STAT_up [] 0).modHif (fun h => { h with linkL0 := false }) = x := ⟨_, rfl⟩
    have hxsame : x.hif = { c.hif with linkL0 := false } ∧ x.evr = c.evr ∧ x.vlt = c.vlt ∧ x.getF F.HIF_LINK_STAT_up [] = 0 := by
      subst hx
      exact ⟨rfl, rfl, rfl, (Chip.getF_setF_same c F.HIF_LINK_STAT_up [] 0 (by decide)).trans rfl⟩
    obtain ⟨hhif, hevr, hvlt, hup⟩ := hxsame
    have hd : c.pcieDown = x.when c.hif.linkL0 fun c => c.raise Ev.LINK_DOWN 0x73A := by rw [Chip.pcieDown, hx]
    cases hl : c.hif.linkL0 with
    | false =>
      rw [hl] at hd
      exact completes_eq (f := Chip.pcieDown) rfl (hd.trans (Chip.when_false _ _))
        ⟨hup, hhif, by rw [Chip.logged, hevr]; exact (List.append_nil _).symm⟩ (congrArg Vault.owners hvlt)
    | true =>
      rw [hl] at hd
      have hsaid := Chip.raise_logs (c := x) (code := Ev.LINK_DOWN) (src := 0x73A) (items := []) (by rw [Chip.logs, hevr]; exact hlogs) (by decide)
      rw [Chip.when_true, hsaid] at hd
      exact completes_eq (f := Chip.pcieDown) rfl hd ⟨hup, hhif, by rw [Chip.logged, hevr]; rfl⟩ (congrArg Vault.owners hvlt)

end Sys2Proof.Machine

/-! PROOFS. Resets and losses of supply (R382 to R387, R553, R554, R560). -/
namespace Sys2Proof.Machine

/-! ### A reset that completes an OWNER_TRANSFER -/

/-- A block in ACTIVE whose zeroization, started by an OWNER_TRANSFER, is in progress, and whose table of ownership slots
does not stand in the order of its keys. -/
def transferring : State := {
  chip := {
    ctl := { mode := .active, zeroizing := some (5, 0), transfer := some 0 },
    vlt := { owners := [(5, { started := true }), (2, { started := true })] } } }

/-- The end of the zeroization programs slot 0 and leaves the order of the rest. -/
theorem zeroizeEnd_transferring : transferring.chip.zeroizeEnd.vlt.owners.map (·.1) = [0, 5, 2] := by decide +kernel

/-- The reset holds the started slots, which writes them back in order. -/
theorem resetNAssert_transferring : completes .resetNAssert transferring fun d => d.vlt.owners.map (·.1) = [0, 2, 5] := by
  rw [completes_iff rfl]
  decide +kernel

/-- Refutes O32: its clause of RESET_N asks for the very table that the completed zeroization leaves, and OTP's hold on the
started slots (R147, log entry 8) rewrites a table that is not in the order of its keys. -/
theorem not_resetsAndPower : ¬ Obligations.ResetsAndPower := by
  unfold Obligations.ResetsAndPower
  intro h
  obtain ⟨-, hreset, -⟩ := h transferring ⟨0, 0, false, true⟩
  obtain ⟨hassert, -⟩ := hreset (by decide +kernel) rfl
  obtain ⟨d, ⟨⟨-, -, -, -, -, -, -, howners, -⟩, -⟩, horder⟩ := completes_unique hassert resetNAssert_transferring
  have hsame := congrArg (fun m : SMap OwnerSlot => m.map (·.1)) howners
  rw [horder, zeroizeEnd_transferring] at hsame
  exact absurd hsame (by decide)

end Sys2Proof.Machine

/-! PROOFS. Start-up and ownership claims (R384, R385, R388 to R397, R402 to R404). -/
namespace Sys2Proof.Machine

/-! ### A start whose last event finds the intake full -/

/-- A frame of 84 bytes that waits in queue 0 of port 0. -/
def queuedFrame : Frame := { data := List.replicate 60 0, len := 84, queue := some 0x8000, stage := .queued }

/-- A gate list that opens class 0 for a single unit of time, too short for `queuedFrame`. -/
def narrowGates : GateList := { entries := [(1, 1), (999999, 0)] }

/-- A block in WAKE at D2 whose thread 0 is halted with the frame 0, the head of its queue; ten frames too long for the gate
list wait there, and the intake has room for eight events. -/
def crowdedWake : State := {
  chip := (({
    ctl := { mode := .wake, dbg := 2 }, vlt := { rootReady := true },
    evr := { started := true, intake := List.replicate 248 ⟨0, 0, [], false⟩ },
    eng := { ctx := [(0, { running := true, halted := true })] },
    path := { frames := (List.range 10).map fun n => (n, some queuedFrame) },
    slu := { queues := [(0x8000, { frames := List.range 10 })], lists := [(0, some narrowGates)] } } :
      Chip).setF F.SLU_GCL_CFG_en [0] 1).setF F.MEM_STAT_no_keys [] 0 }

/-- What the start-up of `crowdedWake` gives. -/
def goodStart : StartResult := { cryptoOk := true, sramOk := true, failedLadles := [], retiredPcs := 0, micros := 0 }

/-- The change of mode, the debug level that ERASED does not grant, and the heads that are dropped for their gate list fill
the intake before START_DONE is raised. -/
theorem startDone_crowdedWake : completes (.startDone goodStart) crowdedWake fun d =>
    ∀ e ∈ d.evr.intake, e.code ≠ Ev.START_DONE := by
  rw [completes_iff rfl]
  decide +kernel

/-- Refutes O33: its fourth clause has room for eight events as a hypothesis, and the loss of D2 at the change of mode (R375)
can raise more of them before START_DONE, which R481 then drops. -/
theorem not_startUpAndClaims : ¬ Obligations.StartUpAndClaims := by
  unfold Obligations.StartUpAndClaims
  intro h
  obtain ⟨-, -, -, hstart, -⟩ := h crowdedWake
  obtain ⟨d, ⟨-, -, -, -, e, he, hcode, -⟩, hnone⟩ := completes_unique
    (hstart (by decide +kernel) (by decide +kernel) (by decide +kernel) (by decide +kernel) (by decide +kernel)
      (by decide +kernel) (.inl (by decide +kernel)) rfl ⟨rfl, by decide +kernel⟩ 0) startDone_crowdedWake
  exact hnone e he hcode

end Sys2Proof.Machine

/-! PROOFS. MODE_SET, the change of mode it stages, and the end of a drain (R359 to R361, R367, R368). -/
namespace Sys2Proof.Machine

/-! ### A change of mode takes nothing out of the intake -/

/-- The events that wait in the intake of `c` wait in that of `d` (R481). -/
def Chip.logsOn (c d : Chip) : Prop := ∃ more, d.evr.intake = c.evr.intake ++ more

namespace Chip.logsOn

variable {a c d : Chip}

theorem refl (c : Chip) : c.logsOn c := ⟨[], (List.append_nil _).symm⟩

theorem mem (h : c.logsOn d) {e : EvReq} (he : e ∈ c.evr.intake) : e ∈ d.evr.intake := by
  obtain ⟨more, h⟩ := h
  rw [h]
  exact List.mem_append_left _ he

section
variable (h : a.logsOn c)
include h

theorem of_evr (g : d.evr = c.evr) : a.logsOn d := by rwa [Chip.logsOn, g]

theorem modCtl (f : ModeCtl → ModeCtl) : a.logsOn (c.modCtl f) := h.of_evr rfl
theorem modSu (f : StartUp → StartUp) : a.logsOn (c.modSu f) := h.of_evr rfl
theorem modPnl (f : Panel → Panel) : a.logsOn (c.modPnl f) := h.of_evr rfl
theorem modPath (f : Paths → Paths) : a.logsOn (c.modPath f) := h.of_evr rfl
theorem modPan (f : Pans → Pans) : a.logsOn (c.modPan f) := h.of_evr rfl
theorem modEng (f : Engines → Engines) : a.logsOn (c.modEng f) := h.of_evr rfl
theorem modOrd (f : OrdEng → OrdEng) : a.logsOn (c.modOrd f) := h.of_evr rfl
theorem modEnt (f : Entropy → Entropy) : a.logsOn (c.modEnt f) := h.of_evr rfl
theorem modPrs (f : PairStack → PairStack) : a.logsOn (c.modPrs f) := h.of_evr rfl
theorem modSrd (f : Lanes → Lanes) : a.logsOn (c.modSrd f) := h.of_evr rfl
theorem modFwd (f : Forwarding → Forwarding) : a.logsOn (c.modFwd f) := h.of_evr rfl
theorem modHif (f : HostIf → HostIf) : a.logsOn (c.modHif f) := h.of_evr rfl
theorem emit (o : Output) : a.logsOn (c.emit o) := h.of_evr rfl
theorem setF (f : Fld) (i : List Nat) (v : Nat) : a.logsOn (c.setF f i v) := h.of_evr rfl
theorem ringComplete (r : Nat) (entry : Bytes) : a.logsOn (c.ringComplete r entry) := h.of_evr (Chip.ringComplete_evr c r entry)

theorem randDrop (p : RandReq → Bool) : a.logsOn (c.randDrop p) := h.modEnt _

theorem laMode : a.logsOn c.laMode := (h.modPath _).randDrop _

theorem setBrine (k : Nat) (b : Brine) : a.logsOn (c.setBrine k b) := (h.modEnt _).setF _ _ _

theorem loses (g : c.loses d) : a.logsOn d := by
  obtain ⟨l, hl⟩ := h
  obtain ⟨m, hm⟩ := g.log
  exact ⟨l ++ m, by rw [hm, hl, List.append_assoc]⟩

theorem raise {code : Nat} (hcode : code < 0x3000) (src : Nat) (items : List (Nat × Nat)) : a.logsOn (c.raise code src items) :=
  h.loses ((Chip.loses.refl c).raise hcode src items)

theorem each {α : Type} {f : Chip → α → Chip} (l : List α) (hf : ∀ d x, a.logsOn d → a.logsOn (f d x)) : a.logsOn (c.each l f) :=
  Chip.each_induct l h fun d x hd => hf d x hd

theorem when {f : Chip → Chip} (hf : ∀ d, a.logsOn d → a.logsOn (f d)) (b : Bool) : a.logsOn (c.when b f) :=
  Chip.when_induct b h (hf c)

/-! ### Threads -/

theorem freeThread (k reason : Nat) : a.logsOn (c.freeThread k reason) := by
  have hend : a.logsOn (c.endThread k) := h.modEng _
  exact hend.when (fun _ hd => hd.loses ((Chip.loses.refl _).dropFrame _ _)) _

theorem loseD2 : a.logsOn c.loseD2 :=
  (h.each _ fun _ _ hd => hd.freeThread _ _).each _ fun _ _ hd => ((hd.setF _ _ _).setF _ _ _).setF _ _ _

theorem dbgRejudge : a.logsOn c.dbgRejudge := by
  simp only [Chip.dbgRejudge]
  refine ite_cases (P := a.logsOn) h (Chip.logsOn.when ((h.modCtl _).raise (by decide) _ _) (fun _ hd => hd.loseD2) _)

/-! ### Order blocks -/

theorem linkSend (port kind : Nat) (clear body : Bytes) : a.logsOn (c.linkSend port kind clear body) := by
  simp only [Chip.linkSend]
  split
  · exact h
  · exact ite_cases (P := a.logsOn) h ((h.modPrs _).emit _)

theorem blockDone (status detail index ret : Nat) : a.logsOn (c.blockDone status detail index ret) := by
  simp only [Chip.blockDone]
  split_ifs
  · exact (((h.modOrd _).modOrd _).setF _ _ _).linkSend _ _ _ _
  · exact (((h.modOrd _).modOrd _).setF _ _ _).modHif _
  · exact (((h.modOrd _).modOrd _).setF _ _ _).ringComplete _ _

theorem nextRecord : a.logsOn c.nextRecord := by
  simp only [Chip.nextRecord]
  split_ifs
  · exact h.blockDone _ _ _ _
  · exact h
  · exact h.blockDone _ _ _ _

theorem recordDone (r : OrdRes) : a.logsOn (c.recordDone r) := by
  simp only [Chip.recordDone]
  split_ifs
  · exact h.blockDone _ _ _ _
  · exact (h.modOrd _).nextRecord

theorem callDone (k : Nat) (r : OrdRes) : a.logsOn (c.callDone k r) := by
  simp only [Chip.callDone]
  split_ifs
  · exact h.modOrd _
  · exact (h.modOrd _).modEng _

theorem finishOrder (r : OrdRes) : a.logsOn (c.finishOrder r) := by
  simp only [Chip.finishOrder]
  split
  · exact (h.modOrd _).callDone _ _
  · split_ifs
    · exact (h.modOrd _).recordDone _
    · exact (h.modOrd _).modOrd _

theorem hostRandMode : a.logsOn c.hostRandMode := by
  simp only [Chip.hostRandMode]
  split_ifs
  · exact (h.modEnt _).finishOrder _
  · exact h

/-! ### Lanes and the generator -/

theorem lanesResume : a.logsOn c.lanesResume := (h.modSrd _).each _ fun _ _ hd => hd.setF _ _ _

theorem lanesRest : a.logsOn c.lanesRest :=
  ((h.each _ fun d _ hd => hd.loses ((Chip.loses.refl d).portDown _ _ _)).modSrd _).each _ fun _ _ hd => hd.setF _ _ _

theorem entResume : a.logsOn c.entResume := by
  simp only [Chip.entResume]
  exact ite_cases (P := a.logsOn) ((h.setBrine _ _).setBrine _ _) h

theorem entRest : a.logsOn c.entRest := (((h.setBrine _ _).setBrine _ _).setF _ _ _).setF _ _ _

end

end Chip.logsOn

/-- A change of mode that nothing overtakes. -/
theorem Chip.enterMode_logsOn (c : Chip) (new : Mode) : c.logsOn (c.enterMode new 0) := by
  simp only [Chip.enterMode]
  refine Chip.logsOn.dbgRejudge ?_
  refine Chip.logsOn.when ?_ (fun _ hd => hd.modPan _) _
  refine Chip.logsOn.when ?_ (fun _ hd => hd.hostRandMode) _
  refine Chip.logsOn.when ?_ (fun _ hd => hd.laMode) _
  refine Chip.logsOn.when ?_ (fun _ hd => hd.each _ fun _ _ hd => hd.freeThread _ _) _
  refine Chip.logsOn.when ?_ (fun _ hd => hd.modFwd _) _
  refine Chip.logsOn.when ?_ (fun _ hd => hd.entRest.lanesRest) _
  refine Chip.logsOn.when ?_ (fun _ hd => hd.entResume.lanesResume) _
  refine Chip.logsOn.when ?_ (fun _ hd => hd.each _ fun _ _ hd => ((((hd.setF _ _ _).setF _ _ _).setF _ _ _).setF _ _ _).setF _ _ _) _
  refine Chip.logsOn.modPrs (Chip.logsOn.setF (Chip.logsOn.modPnl (Chip.logsOn.modSu (Chip.logsOn.raise ?_ (by decide) _ _) _) _) _ _ _) _
  exact (((((Chip.logsOn.refl c).modCtl _).setF _ _ _).setF _ _ _).setF _ _ _).setF _ _ _

/-- An event for which the intake has room stands there. -/
theorem Chip.raised_mem {c : Chip} {code src : Nat} {items : List (Nat × Nat)} (h : c.logs) (hl : limitable code = false) :
    (⟨code, src, items, false⟩ : EvReq) ∈ (c.raise code src items).evr.intake := by
  rw [Chip.raise_logs h hl]
  exact List.mem_append_right _ List.mem_cons_self

/-! ### Frames lost without a gate list -/

/-- `d` keeps the recorder of `c` and runs a gate list at no port. -/
structure Chip.ungated (c d : Chip) : Prop where
  evr : d.evr = c.evr
  gates : ∀ x, d.gated x = false

theorem Chip.gated_congr {c d : Chip} (h : d.regs = c.regs) (x : Nat) : d.gated x = c.gated x := by
  simp only [Chip.gated, Chip.gatesOn, Chip.ingotMode, Chip.getB, Chip.getF_congr h]

namespace Chip.ungated

variable {a c d : Chip}

theorem of_same (h : a.ungated c) (hevr : d.evr = c.evr) (hregs : d.regs = c.regs) : a.ungated d :=
  ⟨hevr.trans h.evr, fun x => (Chip.gated_congr hregs x).trans (h.gates x)⟩

section
variable (h : a.ungated c)
include h

theorem setFrame (n : Nat) (f : Option Frame) : a.ungated (c.setFrame n f) := h.of_same rfl rfl

theorem onFrame {f : Frame → Chip → Chip} (n : Nat) (hf : ∀ x d, a.ungated d → a.ungated (f x d)) : a.ungated (c.onFrame n f) := by
  simp only [Chip.onFrame]
  split
  · exact hf _ _ h
  · exact h

theorem unqueue (n : Nat) : a.ungated (c.unqueue n) := by
  refine h.onFrame n fun f d hd => ?_
  split
  · exact hd
  · exact (hd.of_same (d := d.setQueueSt _ _) rfl rfl).setFrame _ _

theorem removeFrame (n : Nat) : a.ungated (c.removeFrame n) :=
  (h.unqueue n).onFrame n fun _ _ hd => hd.setFrame _ _

theorem hostDone (p : Option Nat × DWord × Nat × Nat) (st : Nat) (ts : Option Clock) : a.ungated (c.hostDone p st ts) := by
  simp only [Chip.hostDone]
  split
  · exact h.of_same (Chip.ringComplete_evr _ _ _) (Chip.ringComplete_regs _ _ _)
  · exact h

theorem portCount (s k n : Nat) : a.ungated (c.portCount s k n) :=
  h.of_same (by rw [Chip.portCount, Chip.count_eq]) (by rw [Chip.portCount, Chip.count_eq])

theorem dropOne (n reason : Nat) : a.ungated (c.dropOne n reason) := by
  refine h.onFrame n fun f d hd => ?_
  obtain ⟨g, hg⟩ : ∃ g, (d.setFrame n (some { f with lost := some reason, kid := none, lines := [], die := [] })).removeFrame n = g :=
    ⟨_, rfl⟩
  have hgone : a.ungated g := hg ▸ (hd.setFrame n _).removeFrame n
  refine ite_cases (P := a.ungated) hd ?_
  simp only [hg]
  split
  · exact ite_cases (P := a.ungated) hgone (hgone.portCount _ _ _)
  · split
    · exact hgone.hostDone _ _ _
    · exact (hgone.of_same (d := g.draw.2) rfl rfl).hostDone _ _ _

/-- No head is too long for a list that does not run. -/
theorem dropOversize (q n : Nat) : c.dropOversize q n = c := by
  cases n with
  | zero => rfl
  | succ n =>
    simp only [Chip.dropOversize]
    split
    · simp [Chip.oversize, Chip.gateList, h.gates]
    · rfl

theorem dropFrame (n reason : Nat) : a.ungated (c.dropFrame n reason) := by
  simp only [Chip.dropFrame]
  split
  · rw [(h.dropOne n reason).dropOversize]
    exact h.dropOne n reason
  · exact h.dropOne n reason

theorem each {α : Type} {f : Chip → α → Chip} (l : List α) (hf : ∀ d x, a.ungated d → a.ungated (f d x)) : a.ungated (c.each l f) :=
  Chip.each_induct l h fun d x hd => hf d x hd

end

end Chip.ungated

/-! ### MODE_SET -/

section
variable {s : State} {cfg : Word} {t : Mode}

/-- The target of a drain that a MODE_SET word names. -/
abbrev drainOf (m : Option Mode) (cfg : Word) : Option Mode := if m = some .drain then modeOf (cfg.toNat / 16) else none

/-- MODE_SET of a mode that the word names, with the result of the tests of its transition. -/
theorem modeSet_of {c : Chip} (hv : cfg.toNat < 256) (hstaged : c.ord.staged = []) (hd3 : c.ctl.d3Taint = false)
    (hm : setMode (cfg.toNat % 16) = some t) :
    modeSet cfg c =
      let drain := drainOf (setMode (cfg.toNat % 16)) cfg
      let r := c.modeCheck c.ctl.mode t drain
      if r ≠ 0 then ordFail r (c.when (r = 0x8A) Chip.modeRefused) else (c.plusStaged (.modeSet c.ctl.mode t drain), some {}) := by
  have hdrain : (if t = .drain then modeOf (cfg.toNat / 16) else none) = drainOf (some t) cfg := by simp [drainOf]
  simp only [modeSet, hstaged, List.any_nil, hd3, hm, hdrain, Bool.false_eq_true, if_false, if_neg (show ¬ 256 ≤ cfg.toNat by omega)]
  simp only [Chip.modOrd, Chip.plusStaged, hstaged]

theorem modeSet_stages (hfree : s.chip.orderFree) (hv : cfg.toNat < 256) (hstaged : s.chip.ord.staged = [])
    (hd3 : s.chip.ctl.d3Taint = false) (hm : setMode (cfg.toNat % 16) = some t)
    (hcheck : s.chip.modeCheck s.chip.ctl.mode t (drainOf (setMode (cfg.toNat % 16)) cfg) = 0) :
    completes (.modeSet cfg) s fun d =>
      d = (s.chip.plusStaged (.modeSet s.chip.ctl.mode t (drainOf (setMode (cfg.toNat % 16)) cfg))).ended {} := by
  refine completes_order (f := modeSet cfg) (r := {}) rfl hfree ?_ (Chip.ordQuiet_plusStaged hfree.quiet _) rfl rfl
  rw [modeSet_of hv hstaged hd3 hm]
  exact if_neg fun h => h hcheck

theorem modeSet_unlisted (hfree : s.chip.orderFree) (hv : cfg.toNat < 256) (hstaged : s.chip.ord.staged = [])
    (hd3 : s.chip.ctl.d3Taint = false) (hm : setMode (cfg.toNat % 16) = some t)
    (hnone : transition s.chip.ctl.mode t (drainOf (setMode (cfg.toNat % 16)) cfg) = none) (hlogs : s.chip.logs) :
    completes (.modeSet cfg) s fun d =>
      d.ord.res.status = 0x8A ∧ d.ord.staged = [] ∧ d.ctl = s.chip.ctl ∧ s.chip.bumped d F.MOD_REFUSE_CNT_count [] ∧
        s.chip.logged d [⟨Ev.MODE_REFUSED, 0x001, [], false⟩] := by
  have hcheck : s.chip.modeCheck s.chip.ctl.mode t (drainOf (setMode (cfg.toNat % 16)) cfg) = 0x8A := by
    simp only [Chip.modeCheck, hnone]
  have hraise : (s.chip.bump F.MOD_REFUSE_CNT_count []).raise Ev.MODE_REFUSED 0x001 = _ := Chip.raise_logs hlogs (by decide)
  refine completes_order (f := modeSet cfg) (d := s.chip.modeRefused) (r := .of 0x8A) rfl hfree ?_ ?_ ?_ ?_
  · rw [modeSet_of hv hstaged hd3 hm]
    simp [hcheck, ordFail, Chip.when]
  all_goals rw [Chip.modeRefused, hraise]
  · exact Chip.ordQuiet_congr hfree.quiet rfl
  · rfl
  · exact ⟨rfl, hstaged, rfl, s.chip.bumped_bump _ _ (by decide), rfl⟩

end

/-! ### The change -/

/-- What the statement says of a mode entered without a cause. -/
theorem Chip.entered.record {c d : Chip} {new : Mode} (h : c.entered d new 0) :
    d.ctl.mode = new ∧ d.ctl.power = powerOf new ∧ d.ctl.auth = none ∧ d.ctl.pinOk = none ∧
      d.getF F.MOD_LAST_from [] = modeCode c.ctl.mode ∧ d.getF F.MOD_LAST_to [] = modeCode new ∧
      d.getF F.MOD_LAST_cause [] = 0 ∧
      d.getB F.PRS_STAT_holding [] = decide (new = .active ∨ (new = .drain ∧ c.holding = true)) ∧
      d.su.presenceEnds = none ∧ d.pnl.held = none ∧ d.vlt = c.vlt := by
  obtain ⟨hfrom, hto, hcause⟩ := h.last
  obtain ⟨l, hctl⟩ := h.ctl
  refine ⟨by rw [hctl], by rw [hctl], by rw [hctl], by rw [hctl], hfrom, hto, hcause, ?_, by rw [h.su], by rw [h.pnl], h.core.vlt⟩
  rw [Chip.getB_of h.holding]
  by_cases ha : new = .active <;> by_cases hd : new = .drain <;> cases c.holding <;> simp [ha, hd, b2n]

/-- Traffic after the entry of a mode leaves what it has recorded. -/
theorem Chip.entered.traffic {c d y : Chip} {new : Mode} {cause : Nat} (h : c.entered d new cause) (g : d.traffic y) :
    c.entered y new cause := by
  obtain ⟨hfrom, hto, hcause⟩ := h.last
  obtain ⟨l, hctl⟩ := h.ctl
  refine ⟨h.core.traffic g, ⟨l, g.ctl_eq.trans hctl⟩, g.su_eq.trans h.su, g.pnl_eq.trans h.pnl, ⟨?_, ?_, ?_⟩, ?_, h.quiet.quiet g.2⟩
  · exact (g.2.getF (by decide)).trans hfrom
  · exact (g.2.getF (by decide)).trans hto
  · exact (g.2.getF (by decide)).trans hcause
  · exact (g.2.getF (by decide)).trans h.holding

/-- MODE_CHANGE enters the staged mode, SERVICE as the claim decides. -/
theorem Chip.modeChange_spec {c : Chip} {t : Mode} {dr : Option Mode} (hp : c.ctl.pendingMode = some (t, dr)) :
    ∃ ends, (c.modCtl fun k => { k with drainTo := dr, drainEnds := ends }).entered c.modeChange
      (if t = .active then c.serviceMode else t) 0 := by
  refine ⟨c.now + c.getF F.MOD_DRAIN_CFG_tmo [] * 1000000, ?_⟩
  obtain ⟨y, hy⟩ : ∃ y, (c.modCtl fun k => { k with
    drainTo := dr, drainEnds := c.now + c.getF F.MOD_DRAIN_CFG_tmo [] * 1000000 }) = y := ⟨_, rfl⟩
  have hspec := y.enterMode_spec (if t = .active then c.serviceMode else t) 0
  simp only [Chip.modeChange, hp, hy]
  split
  · exact hspec.traffic (((Chip.traffic.refl _).modOrd _).finishOrder _)
  · exact hspec

/-! ### The end of a drain -/

section
variable {s : State}

theorem drainOver_record (c : Chip) : c.entered c.drainOver (c.ctl.drainTo.getD .sealed) 0 := c.enterMode_spec _ 0

theorem Chip.drainOver_logsOn (c : Chip) : c.logsOn c.drainOver := c.enterMode_logsOn _

/-- The frames that a timeout drops leave the mode's record, and the events with room for them. -/
theorem Chip.drainTimeout_spec {c : Chip} (hmode : c.ctl.mode = .drain) :
    c.drainTimeout.ctl.mode = c.ctl.drainTo.getD .sealed ∧ (c.ctl.drainEnds < 2 ^ 64 → c.ctl.drainEnds ≤ c.drainTimeout.now) ∧
      c.drainTimeout.vlt = c.vlt ∧
      (c.draining = true → c.logs → (∀ x, c.gated x = false) → ∃ e ∈ c.drainTimeout.evr.intake, e.code = Ev.DRAIN_TMO) := by
  obtain ⟨hframe, -⟩ := c.reachElapsed_runs c.ctl.drainEnds
  have hle := c.le_reachElapsed (ns := c.ctl.drainEnds)
  obtain ⟨y, hy⟩ : ∃ y, c.reachElapsed c.ctl.drainEnds = y := ⟨_, rfl⟩
  rw [hy] at hframe hle
  have hdrain : y.draining = c.draining := by rw [hframe]; rfl
  obtain ⟨z, hz⟩ : ∃ z, (y.each ((y.frameList.filter fun x => x.2.queue.isSome).map (·.1)) fun c n => c.dropFrame n 0x89) = z :=
    ⟨_, rfl⟩
  have hlost : y.traffic (z.raise Ev.DRAIN_TMO 0x001) := by
    rw [← hz]
    exact ((Chip.traffic.refl y).each _ fun _ _ hd => hd.dropFrame _ _).raise (by decide) _ _
  have hover : c.drainTimeout = if y.draining = false then y.drainOver else (z.raise Ev.DRAIN_TMO 0x001).drainOver := by
    simp [Chip.drainTimeout, Chip.inMode, hmode, hy, hz]
  have hgo : ∀ w, y.traffic w → w.drainOver.ctl.mode = c.ctl.drainTo.getD .sealed ∧
      (c.ctl.drainEnds < 2 ^ 64 → c.ctl.drainEnds ≤ w.drainOver.now) ∧ w.drainOver.vlt = c.vlt := by
    intro w hw
    have hctl : w.ctl = c.ctl := by rw [hw.ctl_eq, hframe]
    obtain ⟨l, hentered⟩ := (drainOver_record w).ctl
    refine ⟨by rw [hentered, hctl], fun hlt => ?_, by rw [(drainOver_record w).core.vlt, hw.vlt_eq, hframe]⟩
    simp only [Chip.now] at hle ⊢
    rw [(drainOver_record w).core.tim, hw.tim_eq]
    exact hle hlt
  cases hdr : y.draining with
  | false =>
    rw [hover, if_pos hdr]
    obtain ⟨h1, h2, h3⟩ := hgo y (.refl y)
    exact ⟨h1, h2, h3, fun h => absurd (hdr.symm.trans (hdrain.trans h)) (by decide)⟩
  | true =>
    rw [hover, if_neg (by rw [hdr]; decide)]
    obtain ⟨h1, h2, h3⟩ := hgo _ hlost
    refine ⟨h1, h2, h3, fun _ hlogs hgates => ?_⟩
    have hevr : y.evr = c.evr := by rw [hframe]
    have hy' : c.ungated y := ⟨hevr, fun x => (Chip.gated_congr (by rw [hframe]) x).trans (hgates x)⟩
    have hzsame : c.ungated z := by
      rw [← hz]
      exact hy'.each _ fun _ _ hd => hd.dropFrame _ _
    have hzlogs : z.logs := by rwa [Chip.logs, hzsame.evr]
    have hsaid := Chip.raised_mem (code := Ev.DRAIN_TMO) (src := 0x001) (items := []) hzlogs (by decide)
    exact ⟨_, (Chip.drainOver_logsOn _).mem hsaid, rfl⟩

end

/-- Settles O34: the tests of MODE_SET stage or refuse it, `enterMode_spec` says what the entry of a mode leaves, and without a
gate list the frames that a drain's timeout drops raise no event before its own. -/
theorem modeTransitions : Obligations.ModeTransitions := by
  unfold Obligations.ModeTransitions
  intro s cfg
  refine ⟨fun hfree hv hstaged hd3 => ⟨fun t hm hcheck => modeSet_stages hfree hv hstaged hd3 hm hcheck,
    fun t hm hnone hlogs => modeSet_unlisted hfree hv hstaged hd3 hm hnone hlogs⟩, fun t dr hp _ => ?_, fun hmode => ⟨?_, ?_, ?_⟩⟩
  · obtain ⟨ends, hspec⟩ := Chip.modeChange_spec hp
    obtain ⟨l, hctl⟩ := hspec.ctl
    exact completes_eq (f := Chip.modeChange) rfl rfl ⟨hspec.record, by rw [hctl]; rfl, by rw [hctl]⟩
      (by rw [hspec.core.vlt]; rfl)
  · intro hdr
    refine completes_eq (f := fun c => if c.inMode [.drain] && !c.draining then c.drainOver else c) rfl
      (if_pos (by simp [Chip.inMode, hmode, hdr])) (drainOver_record s.chip).record ?_
    rw [(drainOver_record s.chip).core.vlt]
  · intro hdr
    exact completes_eq (f := fun c => if c.inMode [.drain] && !c.draining then c.drainOver else c) rfl
      (if_neg (by simp [hdr])) rfl rfl
  · obtain ⟨h1, h2, h3, h4⟩ := Chip.drainTimeout_spec hmode
    exact completes_eq (f := Chip.drainTimeout) rfl rfl ⟨h1, h2, h3, h4⟩ (by rw [h3])

end Sys2Proof.Machine

/-! PROOFS. Owner authentication (R362 to R366). -/
namespace Sys2Proof.Machine

section
variable {s : State} {out : DWord} {fromMode toMode : Byte} {flags : BitVec 16} {key sig challenge : Bytes}

theorem authChallenge_awaits (hfree : s.chip.orderFree) (hmode : s.chip.inMode authModes = true)
    (hblock : s.chip.ahead s.chip.ctl.blocked = false) (hent : s.chip.entFailed = false) :
    completes (.authChallenge out) s fun d => d = s.chip.awaits 1 2 (.challenge out.toNat) := by
  refine completes_waiting (f := authChallenge out) (d := s.chip.awaits 1 2 (.challenge out.toNat)) rfl hfree ?_ rfl rfl
  rw [authChallenge, inModes_of hmode]
  simp only [hblock, hent, Bool.false_eq_true, if_false]
  rfl

theorem authChallenge_blocked {t : Nat} (hfree : s.chip.orderFree) (hmode : s.chip.inMode authModes = true)
    (hblock : s.chip.ctl.blocked = some t) (ht : s.chip.now < t) :
    completes (.authChallenge out) s fun d => d = s.chip.ended { status := 0x88 } := by
  refine completes_order (f := authChallenge out) (d := s.chip) (r := .of 0x88) rfl hfree ?_ hfree.quiet rfl rfl
  rw [authChallenge, inModes_of hmode]
  simp [Chip.ahead, hblock, ht, ordFail]

/-- OWNER_AUTH with a listed pair and a challenge. -/
theorem ownerAuth_of {c : Chip} {f t g : Nat} (hmode : c.inMode authModes = true) (hpair : c.authPair f t g = true)
    (hch : c.ctl.challenge = some challenge) :
    ownerAuth f t g key sig c =
      if c.isOwner key = true ∧ Config.ecdsaVerify key sig (authMessage challenge f t g) = true then
        ((c.modCtl fun k => { k with
          challenge := none, fails := 0, auth := some {
            fromMode := f, toMode := t, flags := g, ends := c.now + 60000000000, challenge := challenge } }).raise Ev.AUTH_OK 0x001,
          some {})
      else ordFail 0x89 (c.authFailed.raise Ev.AUTH_FAIL 0x001) := by
  rw [ownerAuth, inModes_of hmode]
  cases hk : c.isOwner key <;> cases hv : Config.ecdsaVerify key sig (authMessage challenge f t g) <;> simp [hpair, hch, hv]

theorem ownerAuth_judges (hfree : s.chip.orderFree) (hmode : s.chip.inMode authModes = true)
    (hpair : s.chip.authPair fromMode.toNat toMode.toNat flags.toNat = true) (hch : s.chip.ctl.challenge = some challenge)
    (hlogs : s.chip.logs) :
    completes (.ownerAuth fromMode toMode flags key sig) s fun d =>
      let good := s.chip.isOwner key = true ∧
        Config.ecdsaVerify key sig (authMessage challenge fromMode.toNat toMode.toNat flags.toNat) = true
      (good → d.ctl = { s.chip.ctl with
          challenge := none, fails := 0, auth := some {
            fromMode := fromMode.toNat, toMode := toMode.toNat, flags := flags.toNat, ends := s.chip.now + 60000000000,
            challenge := challenge } } ∧
        d.ord.res = {} ∧ s.chip.logged d [⟨Ev.AUTH_OK, 0x001, [], false⟩]) ∧
      (¬ good → d.ctl = { s.chip.ctl with
          challenge := none, fails := s.chip.ctl.fails + 1,
          blocked := if 8 ≤ s.chip.ctl.fails + 1 then some (s.chip.now + 60000000000) else s.chip.ctl.blocked } ∧
        d.ord.res.status = 0x89 ∧ s.chip.logged d [⟨Ev.AUTH_FAIL, 0x001, [], false⟩]) ∧ d.vlt = s.chip.vlt ∧
        d.regs = s.chip.regs := by
  have hof := ownerAuth_of (key := key) (sig := sig) hmode hpair hch
  by_cases hgood : s.chip.isOwner key = true ∧
      Config.ecdsaVerify key sig (authMessage challenge fromMode.toNat toMode.toNat flags.toNat) = true
  · rw [if_pos hgood, Chip.raise_logs (show Chip.logs (Chip.modCtl _ _) from hlogs) (by decide)] at hof
    exact completes_order (f := ownerAuth fromMode.toNat toMode.toNat flags.toNat key sig) rfl hfree hof
      (Chip.ordQuiet_congr hfree.quiet rfl) rfl ⟨fun _ => ⟨rfl, rfl, rfl⟩, fun h => absurd hgood h, rfl, rfl⟩
  · rw [if_neg hgood, ordFail, Chip.raise_logs (show Chip.logs (Chip.authFailed _) from hlogs) (by decide)] at hof
    exact completes_order (f := ownerAuth fromMode.toNat toMode.toNat flags.toNat key sig) rfl hfree hof
      (Chip.ordQuiet_congr hfree.quiet rfl) rfl ⟨fun h => absurd h hgood, fun _ => ⟨rfl, rfl, rfl⟩, rfl, rfl⟩

/-- What ends at an instant, reached before the field is changed. -/
theorem completes_lapses {i : Instr} {t : Nat} {g : Chip → Chip} {f : ModeCtl → ModeCtl} (hexec : exec i s = lift g s)
    (hg : g s.chip = (s.chip.reachElapsed t).modCtl f) (ht : t < 2 ^ 64) :
    completes i s fun d => t ≤ d.now ∧ d = { s.chip with ctl := f s.chip.ctl, tim := d.tim } := by
  obtain ⟨hframe, -⟩ := s.chip.reachElapsed_runs t
  obtain ⟨y, hy⟩ : ∃ y, s.chip.reachElapsed t = y := ⟨_, rfl⟩
  have hle := s.chip.le_reachElapsed ht
  rw [hy] at hframe hle hg
  refine completes_eq hexec hg ⟨hle, ?_⟩ ?_
  · change ({ y with ctl := f y.ctl } : Chip) = { s.chip with ctl := f s.chip.ctl, tim := y.tim }
    rw [hframe]
  · change y.vlt.owners = _
    rw [hframe]

end

/-- Settles O35. -/
theorem ownerAuthentication : Obligations.OwnerAuthentication := by
  unfold Obligations.OwnerAuthentication
  intro s out fromMode toMode flags key sig challenge
  refine ⟨authChallenge_awaits, fun t => authChallenge_blocked, ownerAuth_judges, fun a ha ht => ?_, fun t hb ht => ?_,
    fun t hp ht => ?_⟩
  · exact completes_lapses (f := fun k => { k with auth := none }) rfl (by simp only [ha]) ht
  · exact completes_lapses (f := fun k => { k with blocked := none }) rfl (by simp only [hb]) ht
  · exact completes_lapses (f := fun k => { k with pinOk := none }) rfl (by simp only [hp]) ht

end Sys2Proof.Machine

/-! PROOFS. Traffic keys, debug levels and the forced purge (R371 to R377). -/
namespace Sys2Proof.Machine

/-! ### A zeroization of an order's own leaves the order engine at rest -/

namespace Chip.ordQuiet

section
variable {c d : Chip} (h : c.ordQuiet)
include h

theorem loses (g : c.loses d) : d.ordQuiet := Chip.ordQuiet_congr h (by rw [g.frame])

theorem each {α : Type} {f : Chip → α → Chip} (l : List α) (hf : ∀ d x, d.ordQuiet → (f d x).ordQuiet) : (c.each l f).ordQuiet :=
  Chip.each_induct (P := Chip.ordQuiet) l h fun d x hd => hf d x hd

theorem modPath (f : Paths → Paths) : (c.modPath f).ordQuiet := h
theorem modPan (f : Pans → Pans) : (c.modPan f).ordQuiet := h
theorem modPrs (f : PairStack → PairStack) : (c.modPrs f).ordQuiet := h
theorem modEng (f : Engines → Engines) : (c.modEng f).ordQuiet := h
theorem modEnt (f : Entropy → Entropy) : (c.modEnt f).ordQuiet := h
theorem modCtl (f : ModeCtl → ModeCtl) : (c.modCtl f).ordQuiet := h
theorem modPnl (f : Panel → Panel) : (c.modPnl f).ordQuiet := h
theorem setF (f : Fld) (i : List Nat) (v : Nat) : (c.setF f i v).ordQuiet := h
theorem setRing (r : Nat) (g : Ring) : (c.setRing r g).ordQuiet := h
theorem setFrame (n : Nat) (f : Option Frame) : (c.setFrame n f).ordQuiet := h

theorem sealForget : c.sealForget.ordQuiet := by
  refine h.each _ fun d e hd => ?_
  have hfree := (hd.loses ((Chip.loses.refl d).unqueue e.1)).setFrame e.1 none
  split
  · exact hd
  · split
    · exact hfree.setRing _ _
    · exact hfree

theorem laForget : c.laForget.ordQuiet := by
  simp only [Chip.laForget]
  exact Chip.ordQuiet.modPath (h.each _ fun _ _ hd => hd.setRing _ _) _

theorem waitsForget : c.waitsForget.ordQuiet := by
  refine h.each _ fun d e hd => ?_
  simp only
  exact ite_cases (P := Chip.ordQuiet) hd (hd.setRing _ _)

theorem ingotsForget : c.ingotsForget.ordQuiet := (h.modPath _).each _ fun _ _ hd => hd.setF _ _ _

theorem zeroizeClear : c.zeroizeClear.ordQuiet := by
  obtain ⟨y, hy, hyq⟩ : ∃ y, (((((c.modPan fun p => { p with reqs := [], caches := [], stopped := true }).sealForget).modPrs
      fun p => { p with jobs := [], jobOn := false }).dropAll 0x91 fun _ => true).modPath fun p => { p with
        frames := p.frames.filterMap fun e => e.2.bind fun f => if f.coming then some (e.1, some f.tail) else none }) = y ∧
      y.ordQuiet :=
    ⟨_, rfl, ((((h.modPan _).sealForget).modPrs _).loses ((Chip.loses.refl _).dropAll _ _)).modPath _⟩
  obtain ⟨w, hw⟩ : ∃ w, (((((y.eraseSeal.freeSlots).modOrd fun o => { o with
    staged := o.staged.map Staged.wipe, stagedKsq := o.stagedKsq.map Staged.wipe, cmacOut := none }).modBuf fun b => { b with
      states := [], keys := [], die := [] }).setF F.MEM_STAT_no_keys [] 1).modSax fun a => { a with
    channels := [], closes := [],
    sas := (a.sas.map fun p => (p.1, ({ generation := p.2.generation } : Sa))).filter fun p => p.2 ≠ ({} : Sa) }).memClear 0
      0x30000000 = w := ⟨_, rfl⟩
  have hword : w.ord = { y.ord with
      staged := y.ord.staged.map Staged.wipe, stagedKsq := y.ord.stagedKsq.map Staged.wipe, cmacOut := none } := by
    rw [← hw]
    rfl
  have hwq : w.ordQuiet := by
    rw [Chip.ordQuiet, hword]
    exact hyq
  have hcnt : ∀ v : Chip, v.ordQuiet → Chip.ordQuiet { v with cnt := { v.cnt with space1 := [], lost1 := [] } } := fun v hv => hv
  simp only [Chip.zeroizeClear, hy, hw]
  refine Chip.ordQuiet.modPnl (hcnt _ (Chip.ordQuiet.ingotsForget ?_)) _
  exact (((hwq.modEnt _).setF _ _ _).modEng _).laForget.waitsForget

/-- A pending change that no block asked for is dropped with its result. -/
theorem dropPending : c.dropPending.ordQuiet := by
  obtain ⟨y, hy⟩ : ∃ y, (((c.modCtl fun k => { k with pendingMode := none }).bump F.MOD_REFUSE_CNT_count []).raise Ev.MODE_REFUSED
    0x001).modOrd (fun o => { o with ended := none }) = y := ⟨_, rfl⟩
  have hyord : y.ord = { c.ord with ended := none } := by rw [← hy, Chip.modOrd_ord, Chip.raise_ord]; rfl
  have hyq : y.ordQuiet := by
    rw [Chip.ordQuiet, hyord]
    exact h
  simp only [Chip.dropPending, hy]
  refine ite_cases (P := Chip.ordQuiet) h ?_
  rw [if_neg (by rw [hyq.1]; decide), Chip.finishOrder_quiet hyq]
  exact hyq

theorem zeroizeStart (hz : c.ctl.zeroizing = none) (cause : Nat) : (c.zeroizeStart cause true).ordQuiet := by
  simp only [Chip.zeroizeStart, hz, Option.isSome_none, Bool.false_eq_true, if_false, if_true]
  exact Chip.ordQuiet.zeroizeClear (((h.dropPending.modCtl _).modPath _).modEnt _)

end

end Chip.ordQuiet

/-! ### The traffic keys -/

section
variable {s : State}

theorem inMode_maintenance {c : Chip} (h : c.ctl.mode = .maintenance) : c.inMode [.maintenance] = true := by
  simp [Chip.inMode, h]

theorem tkDisable_completes (hfree : s.chip.orderFree) (hmode : s.chip.ctl.mode = .maintenance) :
    completes .tkDisable s fun d => d =
      ({ s.chip with ctl := { s.chip.ctl with tkDis := true }, pan := { s.chip.pan with caches := [] } } : Chip).ended {} :=
  completes_order (f := tkDisable) rfl hfree (inModes_of (inMode_maintenance hmode) _) (Chip.ordQuiet_congr hfree.quiet rfl) rfl rfl

theorem tkEnable_completes (hfree : s.chip.orderFree) (hmode : s.chip.ctl.mode = .maintenance) :
    (s.chip.ctl.dbg < 2 → completes .tkEnable s fun d =>
      d = ({ s.chip with ctl := { s.chip.ctl with tkDis := false } } : Chip).ended {}) ∧
    (2 ≤ s.chip.ctl.dbg → completes .tkEnable s fun d => d = s.chip.ended { status := 0x8E }) := by
  have hof := inModes_of (inMode_maintenance hmode)
    fun c => if 2 ≤ c.ctl.dbg then ordFail 0x8E c else (c.modCtl fun k => { k with tkDis := false }, some {})
  refine ⟨fun hlt => ?_, fun hge => ?_⟩
  · rw [if_neg (by omega)] at hof
    exact completes_order (f := tkEnable) rfl hfree hof (Chip.ordQuiet_congr hfree.quiet rfl) rfl rfl
  · rw [if_pos hge] at hof
    exact completes_order (f := tkEnable) rfl hfree hof hfree.quiet rfl rfl

/-! ### The certificate -/

theorem dbgCert_of {c : Chip} {at' : DWord} {b : Bytes} (hmode : c.ctl.mode = .maintenance) (hauth : c.authHere 1 = true)
    (hpin : c.pinValid = true) (hdma : c.dmaAllowed 0 = true) :
    dbgCert at' 256 (some b) c =
      if c.certOk b = true then
        ((c.modCtl fun k => { k with auth := none, pinOk := none, challenge := none }).zeroizeStart 6 true, some {})
      else ordFail 0x90 (c.raise Ev.DBG_REFUSED 0x002 [(4, 3), (4, 9), (4, c.ctl.power), (4, 2)]) := by
  rw [dbgCert, inModes_of (inMode_maintenance hmode)]
  simp only [hauth, hpin, hostRead, hdma, Bool.not_true, Bool.false_eq_true, if_false, if_true, ne_eq, not_true]
  cases hok : c.certOk b with
  | true => rfl
  | false => simp only [hmode, Bool.not_false, if_true, Bool.false_eq_true, if_false]; rfl

theorem dbgCert_completes {at' : DWord} {b : Bytes} (hfree : s.chip.orderFree) (hmode : s.chip.ctl.mode = .maintenance)
    (hauth : s.chip.authHere 1 = true) (hpin : s.chip.pinValid = true) (hdma : s.chip.dmaAllowed 0 = true)
    (hz : s.chip.ctl.zeroizing = none) (hlogs : s.chip.logs) :
    completes (.dbgCert at' 256 (some b)) s fun d =>
      (s.chip.certOk b = true → d.ctl.zeroizing = some (6, s.chip.nowUs) ∧ d.ctl.auth = none ∧ d.ctl.pinOk = none ∧
        d.vlt.sealA = none ∧ d.vlt.sealB = none ∧ d.ord.res = {}) ∧
      (s.chip.certOk b = false → d.ctl = s.chip.ctl ∧ d.vlt = s.chip.vlt ∧ d.ord.res.status = 0x90 ∧
        s.chip.logged d [⟨Ev.DBG_REFUSED, 0x002, [(4, 3), (4, 9), (4, s.chip.ctl.power), (4, 2)], false⟩]) := by
  have hof := dbgCert_of (at' := at') (b := b) hmode hauth hpin hdma
  cases hok : s.chip.certOk b with
  | true =>
    obtain ⟨y, hy⟩ : ∃ y, s.chip.modCtl (fun k => { k with auth := none, pinOk := none, challenge := none }) = y := ⟨_, rfl⟩
    have hyz : y.ctl.zeroizing = none := by rw [← hy]; exact hz
    have hyq : y.ordQuiet := by rw [← hy]; exact hfree.quiet
    obtain ⟨hdes, hctl, -⟩ := Chip.zeroizeStart_spec hyz 6 true
    have hq := hyq.zeroizeStart hyz 6
    obtain ⟨d, hd⟩ : ∃ d, y.zeroizeStart 6 true = d := ⟨_, rfl⟩
    have hynow : y.nowUs = s.chip.nowUs := by rw [← hy]; rfl
    have hyvlt : y.vlt = s.chip.vlt := by rw [← hy]; rfl
    rw [hok, if_pos rfl, hy, hd] at hof
    rw [hd] at hdes hctl hq
    refine completes_order (f := dbgCert at' 256 (some b)) rfl hfree hof hq ?_
      ⟨fun _ => ⟨?_, ?_, ?_, ?_, ?_, rfl⟩, fun h => absurd h (by decide)⟩
    · rw [hdes.vlt, ← hyvlt]; rfl
    · rw [Chip.ended, hctl, hynow]
    · rw [Chip.ended, hctl, ← hy]; rfl
    · rw [Chip.ended, hctl, ← hy]; rfl
    · rw [Chip.ended, hdes.vlt]; rfl
    · rw [Chip.ended, hdes.vlt]; rfl
  | false =>
    rw [hok, if_neg (by decide), Chip.raise_logs hlogs (by decide)] at hof
    exact completes_order (f := dbgCert at' 256 (some b)) rfl hfree hof (Chip.ordQuiet_congr hfree.quiet rfl) rfl
      ⟨fun h => absurd h (by decide), fun _ => ⟨rfl, rfl, rfl, rfl⟩⟩

/-! ### Requests for a level -/

/-- The flags after a level is granted. -/
theorem Chip.dbgGrant_flags (c : Chip) (l : Nat) :
    (c.dbgGrant l).flt.flags = if l = 3 then c.flt.flags ||| 1#32 <<< 16 else c.flt.flags := by
  obtain ⟨y, hy⟩ : ∃ y, (c.modCtl fun k => { k with dbg := l, d3Taint := k.d3Taint || decide (l = 3) }).raise Ev.DBG_LEVEL 0x002 = y :=
    ⟨_, rfl⟩
  have hyflt : y.flt = c.flt := by rw [← hy, Chip.raise_flt]; rfl
  obtain ⟨z, hz⟩ : ∃ z, y.when (l = 3) (fun c => c.setFlag 16) = z := ⟨_, rfl⟩
  have hfail : (c.dbgGrant l).flt = z.flt := by
    rw [Chip.dbgGrant]
    simp only [hy, hz]
    exact Chip.when_keeps (g := Chip.flt) (fun x => (Chip.startFail_keeps x 7).2.2) z _
  rw [hfail, ← hz]
  by_cases hl : l = 3
  · rw [hl, if_pos rfl, decide_eq_true rfl, Chip.when_true, Chip.setFlag, Chip.modFlt_flt, hyflt]
  · rw [if_neg hl, decide_eq_false hl, Chip.when_false, hyflt]

/-- A request that is granted or refused at once. -/
theorem Chip.dbgRequest_of {c : Chip} {l : Nat} (path : Nat) (hpow : c.powered = true) (hnow : c.su.resetHeld = false ∨ l ≠ 3) :
    c.dbgRequest l path =
      if l ≤ c.ctl.dbg ∨ c.dbgGrants c.ctl.mode l = true then c.dbgGrant l else c.dbgRefuse l path := by
  have hheld : (c.su.resetHeld && decide (l = 3)) = false := by
    rcases hnow with h | h <;> simp [h]
  simp [Chip.dbgRequest, hpow, hheld]

/-- A request, from a block that differs at most in registers. -/
theorem completes_asks {i : Instr} {f : Chip → Chip} {y : Chip} {l : Fin 4} {path : Nat} (hexec : exec i s = lift f s)
    (hf : f s.chip = y.dbgRequest l.val path) (hy : y = { s.chip with regs := y.regs }) (hpow : s.chip.powered = true)
    (hnow : s.chip.su.resetHeld = false ∨ l ≠ 3) :
    (l.val ≤ s.chip.ctl.dbg ∨ s.chip.dbgGrants s.chip.ctl.mode l.val = true → completes i s fun d =>
      d.ctl = { s.chip.ctl with dbg := l.val, d3Taint := s.chip.ctl.d3Taint || decide (l = 3) } ∧
      d.flt.flags = (if l = 3 then s.chip.flt.flags ||| 1#32 <<< 16 else s.chip.flt.flags) ∧ d.vlt = s.chip.vlt) ∧
    (s.chip.ctl.dbg < l.val → s.chip.dbgGrants s.chip.ctl.mode l.val = false → s.chip.logs → completes i s fun d =>
      d.ctl = s.chip.ctl ∧ d.getF F.MOD_DBG_CTL_refused [] = 1 ∧ s.chip.logged d
        [⟨Ev.DBG_REFUSED, 0x002, [(4, l.val), (4, modeCode s.chip.ctl.mode), (4, s.chip.ctl.power), (4, path)], false⟩]) := by
  have hl3 : ∀ {α : Type} (a b : α), (if l = 3 then a else b) = if l.val = 3 then a else b := by
    intro α a b
    simp only [Fin.ext_iff]
    rfl
  have hdec : decide (l = 3) = decide (l.val = 3) := by simp only [Fin.ext_iff]; rfl
  have hctl : y.ctl = s.chip.ctl := by rw [hy]
  have hvlt : y.vlt = s.chip.vlt := by rw [hy]
  have hflt : y.flt = s.chip.flt := by rw [hy]
  have hevr : y.evr = s.chip.evr := by rw [hy]
  have hsu : y.su = s.chip.su := by rw [hy]
  have hgrants : ∀ m k, y.dbgGrants m k = s.chip.dbgGrants m k := fun m k => by simp only [Chip.dbgGrants, hvlt, hctl]
  have hof := Chip.dbgRequest_of (c := y) (l := l.val) path (by simpa only [Chip.powered, Chip.inMode, hctl] using hpow)
    (by rw [hsu]; exact hnow.imp id fun h hl => h (Fin.ext hl))
  rw [hctl, hgrants] at hof
  refine ⟨fun hgrant => ?_, fun hlt hno hlogs => ?_⟩
  · rw [if_pos hgrant] at hof
    obtain ⟨hgvlt, hgctl⟩ := Chip.dbgGrant_keeps y l.val
    refine completes_eq hexec (hf.trans hof) ⟨?_, ?_, by rw [hgvlt, hvlt]⟩ (by rw [hgvlt, hvlt])
    · rw [hgctl, Chip.grantCtl, hctl, hdec]
    · rw [Chip.dbgGrant_flags, hflt, hl3]
  · rw [if_neg (by rw [hno]; simp; omega)] at hof
    have hylogs : (y.setF F.MOD_DBG_CTL_refused [] 1).logs := by rwa [Chip.logs, Chip.setF_evr, hevr]
    rw [Chip.dbgRefuse, Chip.raise_logs hylogs (by decide), hctl] at hof
    refine completes_eq hexec (hf.trans hof) ⟨?_, ?_, ?_⟩ (by rw [← hvlt]; rfl)
    · exact hctl
    · exact Chip.getF_setF_same y F.MOD_DBG_CTL_refused [] 1 (by decide)
    · rw [Chip.logged, ← hevr]
      rfl

end

/-- Settles O36. -/
theorem debugAndTrafficKeys : Obligations.DebugAndTrafficKeys := by
  unfold Obligations.DebugAndTrafficKeys
  intro s l at' b
  refine ⟨fun hfree hmode => ⟨tkDisable_completes hfree hmode, (tkEnable_completes hfree hmode).1, (tkEnable_completes hfree hmode).2,
    fun hauth hpin hdma hz hlogs => dbgCert_completes hfree hmode hauth hpin hdma hz hlogs⟩,
    ⟨fun hrun hstart => ?_, fun hpow hnow => ?_⟩, fun hpow hheld => ?_⟩
  · have hpow : s.chip.powered = true ∧ s.chip.su.resetHeld = false := by simpa [Chip.running] using hrun
    exact completes_asks (f := fun c => if c.running && c.evr.started then
      (c.setF F.MOD_DBG_CTL_req [] l.val).dbgRequest l.val 0 else c) rfl (if_pos (by rw [hrun, hstart]; rfl)) rfl hpow.1 (.inl hpow.2)
  · exact completes_asks (f := fun c => c.dbgRequest l.val 1) rfl rfl rfl hpow hnow
  · refine completes_eq (f := fun c => c.dbgRequest 3 1) rfl ?_ rfl rfl
    simp [Chip.dbgRequest, hpow, hheld, Chip.modSu]

end Sys2Proof.Machine

/-! PROOFS. The channel and SA orders (R153 to R160, R167, R168). -/
namespace Sys2Proof.Machine

/-! ### Orders that stage -/

/-- An entry that names no slot is staged while there is room. -/
theorem Chip.stage_context {c : Chip} {e : Staged} (hslot : e.slot? = none) (hroom : c.stagedCount < 64) :
    c.stage e = (c.plusStaged e, some {}) := by
  rw [Chip.stage, if_neg (by omega), if_neg (by simp [hslot])]
  rfl

/-- An entry whose check passes against the staged state. -/
theorem stageChecked_of {c : Chip} {check : Chip → Nat} {e : Staged} (hcheck : check c.staged = 0) (hslot : e.slot? = none)
    (hroom : c.stagedCount < 64) : stageChecked check e c = (c.plusStaged e, some {}) := by
  simp only [stageChecked, hcheck, ne_eq, not_true_eq_false, if_false]
  exact Chip.stage_context hslot hroom

/-- An order that stages. -/
theorem completes_stages {i : Instr} {s : State} {code : Nat} {params : Bytes} {f : OrdFn} {e : Staged}
    (hexec : exec i s = lift (fun c => c.runOrder code params f) s) (hfree : s.chip.orderFree)
    (hf : f s.chip = (s.chip.plusStaged e, some {})) : completes i s fun d => d = (s.chip.plusStaged e).ended {} :=
  completes_order hexec hfree hf (Chip.ordQuiet_plusStaged hfree.quiet e) rfl rfl

section
variable {s : State} {ch cfg index key ssci peer h cur next : Word} {sci pn epoch out : DWord} {salt : BitVec 96}

/-- The channel that CH_SET's parameters describe. -/
abbrev channelOf (cfg : Word) (sci : DWord) : Channel := {
  valid := true, dir := bit cfg.toNat 0, portCh := bit cfg.toNat 1, linePort := bits cfg.toNat 4 2, subPort := bits cfg.toNat 6 5,
  tag := bits cfg.toNat 18 7, sci := sci }

/-- The context that SA_INSTALL's parameters describe. -/
abbrev contextOf (ch cfg key ssci peer : Word) (pn : DWord) (salt : BitVec 96) : Sa := {
  dir := bit cfg.toNat 4, channel := ch.toNat, an := bits cfg.toNat 1 0, suite := bits cfg.toNat 3 2, key := key, ssci := ssci,
  salt := salt, nextPn := pn.toNat, replayWin := bits cfg.toNat 16 6, hold := bit cfg.toNat 5, peerIndex := peer.toNat % 65536,
  peerGen := bits peer.toNat 23 16 }

section
variable (hfree : s.chip.orderFree) (hroom : s.chip.stagedCount < 64) (hch : ch.toNat < 32768)
include hfree hroom

include hch in
theorem chSet_stages (hmode : s.chip.inMode channelModes = true) (hv : cfg.toNat < 2 ^ 19)
    (hcheck : s.chip.staged.channelCheck ch.toNat (channelOf cfg sci) = 0) :
    completes (.chSet ch cfg sci) s fun d => d = (s.chip.plusStaged (.chSet ch.toNat (channelOf cfg sci))).ended {} := by
  refine completes_stages (f := chSet ch cfg sci) rfl hfree ?_
  rw [chSet, inModes_of hmode]
  exact (if_neg (by simp; omega)).trans (stageChecked_of hcheck rfl hroom)

include hch in
theorem chClear_stages (hmode : s.chip.inMode retireModes = true) (hcheck : s.chip.staged.holdsSa ch.toNat = false) :
    completes (.chClear ch) s fun d => d = (s.chip.plusStaged (.chClear ch.toNat)).ended {} := by
  refine completes_stages (f := chClear ch) rfl hfree ?_
  rw [chClear, inModes_of hmode]
  simp only [if_neg (show ¬ 32768 ≤ ch.toNat by omega)]
  exact stageChecked_of (by rw [Chip.clearCheck, hcheck]; rfl) rfl hroom

include hch in
theorem saInstall_stages (hmode : s.chip.inMode channelModes = true) (hi : index.toNat < 65536) (hv : cfg.toNat < 2 ^ 17)
    (hp : peer.toNat < 2 ^ 24) (hfn : fnOf key < 66)
    (hcheck : s.chip.staged.installCheck index.toNat (contextOf ch cfg key ssci peer pn salt) = 0) :
    completes (.saInstall index ch key cfg ssci peer pn salt) s fun d =>
      d = (s.chip.plusStaged (.saInstall index.toNat (installed (contextOf ch cfg key ssci peer pn salt)))).ended {} := by
  refine completes_stages (f := saInstall index ch key cfg ssci peer pn salt) rfl hfree ?_
  rw [saInstall, inModes_of hmode]
  exact (if_neg (by simp; omega)).trans (stageChecked_of hcheck rfl hroom)

theorem saRetire_stages (hmode : s.chip.inMode retireModes = true) (hcheck : s.chip.staged.retireCheck h = 0) :
    completes (.saRetire h) s fun d => d = (s.chip.plusStaged (.saRetire h)).ended {} := by
  refine completes_stages (f := saRetire h) rfl hfree ?_
  rw [saRetire, inModes_of hmode]
  exact stageChecked_of hcheck rfl hroom

include hch in
theorem scheduleSwitch_stages (hmode : s.chip.inMode channelModes = true) (hcur : bits cur.toNat 23 16 = 0)
    (hnext : bits next.toNat 23 16 = 0) (he : epoch.toNat < 2 ^ 40) (href : s.chip.scheduleRefused = 0)
    (hcheck : s.chip.staged.scheduleCheck ch.toNat cur next epoch.toNat = 0) :
    completes (.scheduleSwitch ch cur next epoch) s fun d =>
      d = (s.chip.plusStaged (.schedule ch.toNat cur next epoch.toNat)).ended {} := by
  refine completes_stages (f := scheduleSwitch ch cur next epoch) rfl hfree ?_
  rw [scheduleSwitch, inModes_of hmode]
  refine (if_neg (by simp [hcur, hnext]; omega)).trans ((if_neg (not_not.2 href)).trans ?_)
  exact stageChecked_of hcheck rfl hroom

include hch in
theorem scheduleCancel_stages (hmode : s.chip.inMode retireModes = true) (hcheck : s.chip.staged.cancelCheck ch.toNat = 0) :
    completes (.scheduleCancel ch) s fun d => d = (s.chip.plusStaged (.schedCancel ch.toNat)).ended {} := by
  refine completes_stages (f := scheduleCancel ch) rfl hfree ?_
  rw [scheduleCancel, inModes_of hmode]
  simp only [if_neg (show ¬ 32768 ≤ ch.toNat by omega)]
  exact stageChecked_of hcheck rfl hroom

end

theorem saInfo_completes (hfree : s.chip.orderFree) (hmode : s.chip.inMode infoModes = true) (hdma : s.chip.dmaAllowed 0 = true)
    (hi : index.toNat < 65536) : completes (.saInfo index out) s fun d =>
      d = (s.chip.gave out.toNat ((s.chip.saWindow index.toNat).flatMap fun w => leBytes 4 w)).ended {} := by
  refine completes_gives (f := saInfo index out) rfl hfree hdma ?_
  rw [saInfo, inModes_of hmode]
  exact if_neg (by omega)

/-! ### COMMIT of a channel and of a context -/

/-- A COMMIT of one entry puts in force what the entry changes of contexts and slots. -/
theorem commit_places {e : Staged} (hfree : s.chip.orderFree) (hw : s.chip.ord.regWrites = []) (hf : s.chip.ord.heldFill = false)
    (hst : s.chip.ord.staged = [e]) (hcheck : s.chip.entryCheck e = 0) (hmode : ∀ f t r, e ≠ .modeSet f t r) {d : Chip}
    (hd : s.chip.applyEntry e = d) (hord : d.ord = s.chip.ord) (hown : d.vlt.owners = s.chip.vlt.owners) :
    completes .commit s fun u => u.sax = d.sax ∧ u.vlt = d.vlt ∧ u.ord.staged = [] ∧ u.ord.res = {} := by
  have hcommit := commit_single hst hcheck hmode
  rw [hd, Chip.settled_eq hw hf] at hcommit
  refine completes_order (f := commit) rfl hfree hcommit ?_ hown ⟨rfl, rfl, rfl, rfl⟩
  obtain ⟨hbusy, hwait, hcall⟩ := hfree.quiet
  exact ⟨by rw [hord]; exact hbusy, by rw [hord]; exact hwait, by rw [hord]; exact hcall⟩

theorem Chip.chan_setChan (c : Chip) (i : Nat) (k : Channel) : (c.setChan i k).chan i = k := SMap.get_set_same

theorem Chip.chan_setChan_other (c : Chip) {i j : Nat} (k : Channel) (h : j ≠ i) : (c.setChan i k).chan j = c.chan j :=
  SMap.get_set_other h

theorem Chip.sa_setSa (c : Chip) (i : Nat) (x : Sa) : (c.setSa i x).sa i = x := SMap.get_set_same

theorem Chip.sa_setSa_other (c : Chip) {i j : Nat} (x : Sa) (h : j ≠ i) : (c.setSa i x).sa j = c.sa j := SMap.get_set_other h

theorem Chip.chan_congr {c d : Chip} (h : d.sax = c.sax) (i : Nat) : d.chan i = c.chan i := by simp only [Chip.chan, h]

theorem Chip.sa_congr {c d : Chip} (h : d.sax = c.sax) (i : Nat) : d.sa i = c.sa i := by simp only [Chip.sa, h]

@[simp] theorem Channel.saAt_setSaAt (k : Channel) (an : Nat) (v : Option Nat) : (k.setSaAt an v).saAt an = v := by
  have : an % 4 < 4 := Nat.mod_lt _ (by decide)
  simp only [Channel.saAt, Channel.setSaAt]
  generalize an % 4 = n at *
  match n with
  | 0 => rfl
  | 1 => rfl
  | 2 => rfl
  | _ + 3 => rfl

@[simp] theorem Channel.txCur_setSaAt (k : Channel) (an : Nat) (v : Option Nat) : (k.setSaAt an v).txCur = k.txCur := by
  simp only [Channel.setSaAt]
  split <;> rfl

/-- A channel whose configuration is written. -/
theorem Chip.placeChannel_spec (c : Chip) (n : Nat) (x : Channel) :
    (c.placeChannel n x).chan n = { c.chan n with
        valid := true, dir := x.dir, portCh := x.portCh, linePort := x.linePort, subPort := x.subPort, tag := x.tag, sci := x.sci } ∧
      (∀ k, k ≠ n → (c.placeChannel n x).chan k = c.chan k) ∧ (c.placeChannel n x).ord = c.ord ∧
      (c.placeChannel n x).vlt = c.vlt :=
  ⟨Chip.chan_setChan _ _ _, fun _ hk => Chip.chan_setChan_other _ _ hk, rfl, rfl⟩

theorem commit_chSet {x : Channel} (hfree : s.chip.orderFree) (hmode : s.chip.inMode channelModes = true)
    (hw : s.chip.ord.regWrites = []) (hf : s.chip.ord.heldFill = false) {n : Nat} (hst : s.chip.ord.staged = [.chSet n x])
    (hcheck : s.chip.channelCheck n x = 0) : completes .commit s fun d =>
      d.chan n = { s.chip.chan n with
        valid := true, dir := x.dir, portCh := x.portCh, linePort := x.linePort, subPort := x.subPort, tag := x.tag, sci := x.sci } ∧
      (∀ k, k ≠ n → d.chan k = s.chip.chan k) ∧ d.ord.staged = [] ∧ d.ord.res = {} := by
  have hcommit : s.chip.entryCheck (.chSet n x) = 0 := by
    rw [Chip.entryCheck, Chip.modeThen, if_pos hmode, hcheck]
  obtain ⟨hat, hother, hord, hvlt⟩ := s.chip.placeChannel_spec n x
  obtain ⟨d, hd⟩ : ∃ d, s.chip.placeChannel n x = d := ⟨_, rfl⟩
  have happly : s.chip.applyEntry (.chSet n x) = d := by simp only [Chip.applyEntry, Chip.place, hd]
  rw [hd] at hat hother hord hvlt
  refine completes_mono (commit_places hfree hw hf hst hcommit (fun _ _ _ h => by cases h) happly hord (by rw [hvlt])) ?_
  rintro u ⟨hsax, -, hrest⟩
  exact ⟨(Chip.chan_congr hsax n).trans hat, fun k hk => (Chip.chan_congr hsax k).trans (hother k hk), hrest⟩

/-- The channel on which a context is placed. -/
def Channel.withSa (k : Channel) (i : Nat) (y : Sa) : Channel :=
  if !y.dir && !k.txCur then { k.setSaAt y.an (some i) with txCur := true, txAn := y.an } else k.setSaAt y.an (some i)

theorem Channel.withSa_saAt (k : Channel) (i : Nat) (y : Sa) : (k.withSa i y).saAt y.an = some i := by
  rw [← k.saAt_setSaAt y.an (some i), Channel.withSa]
  split_ifs <;> rfl

/-- A port that is unsynchronised keeps all but its receiver's state. -/
theorem Chip.rxUnsync_frame (c : Chip) (n : Nat) :
    c.rxUnsync n = { c with regs := (c.rxUnsync n).regs, path := (c.rxUnsync n).path } := by
  have hstep : ∀ (f : Paths → Paths) (i : List Nat), (fun d : Chip => d = { c with regs := d.regs, path := d.path })
      ((c.modPath f).setF F.PRT_FRM_STAT_rx_sync i 0) := fun f i => rfl
  rw [Chip.rxUnsync]
  exact ite_cases (P := fun d : Chip => d = { c with regs := d.regs, path := d.path }) (hstep _ _) rfl

theorem Chip.rxUnsync_keeps (c : Chip) (n : Nat) :
    (c.rxUnsync n).sax = c.sax ∧ (c.rxUnsync n).vlt = c.vlt ∧ (c.rxUnsync n).ord = c.ord := by
  have h := c.rxUnsync_frame n
  exact ⟨by rw [h], by rw [h], by rw [h]⟩

/-- A context placed on its AN (R159). -/
theorem Chip.placeSa_spec (c : Chip) (i : Nat) (y : Sa) :
    (c.placeSa i y).sax = ((c.setSa i { y with generation := nextGen (c.sa i).generation }).setChan y.channel
      ((c.chan y.channel).withSa i y)).sax ∧
    (c.placeSa i y).vlt = (c.setSlot (slotOf y.key) { c.slot (slotOf y.key) with
      bound := true, txUsed := (c.slot (slotOf y.key)).txUsed || !y.dir }).vlt ∧
    (c.placeSa i y).ord = c.ord := by
  obtain ⟨k, hk⟩ : ∃ k, (c.chan y.channel).withSa i y = k := ⟨_, rfl⟩
  obtain ⟨x, hx⟩ : ∃ x, c.setSa i { y with generation := nextGen (c.sa i).generation } = x := ⟨_, rfl⟩
  have hxvlt : x.vlt = c.vlt := by rw [← hx]; rfl
  have hxord : x.ord = c.ord := by rw [← hx]; rfl
  have hxslot : ∀ n, x.slot n = c.slot n := Chip.slot_congr hxvlt
  have hxchan : x.chan y.channel = c.chan y.channel := by rw [← hx]; rfl
  have hplace : c.placeSa i y = ((x.setChan y.channel k).setSlot (slotOf y.key) { c.slot (slotOf y.key) with
      bound := true, txUsed := (c.slot (slotOf y.key)).txUsed || !y.dir }).when (y.dir && !y.hold) fun c =>
        c.rxUnsync y.channel := by
    rw [← hxslot, ← hk, ← hxchan, Channel.withSa, ← Channel.txCur_setSaAt (x.chan y.channel) y.an (some i), Chip.placeSa]
    simp only [hx]
  rw [hplace]
  refine ⟨?_, ?_, ?_⟩
  · rw [Chip.when_keeps (g := Chip.sax) fun d => (d.rxUnsync_keeps y.channel).1, hx, hk]
    rfl
  · rw [Chip.when_keeps (g := Chip.vlt) fun d => (d.rxUnsync_keeps y.channel).2.1]
    simp only [Chip.setSlot, Chip.modVlt, Chip.setChan, Chip.modSax, hxvlt]
  · rw [Chip.when_keeps (g := Chip.ord) fun d => (d.rxUnsync_keeps y.channel).2.2]
    exact hxord

theorem commit_saInstall {i : Nat} {y : Sa} (hfree : s.chip.orderFree) (hmode : s.chip.inMode channelModes = true)
    (hw : s.chip.ord.regWrites = []) (hf : s.chip.ord.heldFill = false) (hst : s.chip.ord.staged = [.saInstall i y])
    (hcheck : s.chip.installCheck i y.asked = 0) : completes .commit s fun d =>
      d.sa i = { y with generation := nextGen (s.chip.sa i).generation } ∧ (∀ k, k ≠ i → d.sa k = s.chip.sa k) ∧
      (d.chan y.channel).saAt y.an = some i ∧ (d.slot (slotOf y.key)).bound = true ∧
      (y.dir = false → (s.chip.chan y.channel).txCur = false →
        (d.chan y.channel).txCur = true ∧ (d.chan y.channel).txAn = y.an) ∧
      d.ord.staged = [] ∧ d.ord.res = {} := by
  obtain ⟨hsax, hvlt, hord⟩ := s.chip.placeSa_spec i y
  refine completes_mono (commit_places (d := s.chip.placeSa i y) hfree hw hf hst
    (by simp [Chip.entryCheck, Chip.modeThen, hmode, hcheck]) (fun _ _ _ h => by cases h) rfl hord (by rw [hvlt]; rfl)) ?_
  rintro d ⟨hdsax, hdvlt, hrest⟩
  have hd := hdsax.trans hsax
  have hchan : d.chan y.channel = (s.chip.chan y.channel).withSa i y := by
    rw [Chip.chan_congr hd]
    exact Chip.chan_setChan _ _ _
  refine ⟨?_, fun k hk => ?_, ?_, ?_, fun hdir htx => ?_, hrest⟩
  · rw [Chip.sa_congr hd]
    exact Chip.sa_setSa _ _ _
  · rw [Chip.sa_congr hd]
    exact Chip.sa_setSa_other _ _ hk
  · rw [hchan]
    exact Channel.withSa_saAt _ _ _
  · rw [Chip.slot_congr (hdvlt.trans hvlt), Chip.slot_setSlot, if_pos rfl]
  · rw [hchan, Channel.withSa, hdir, htx]
    exact ⟨rfl, rfl⟩

end

/-- Settles O37. -/
theorem associationOrders : Obligations.AssociationOrders := by
  unfold Obligations.AssociationOrders
  intro s ch cfg sci index key ssci peer h cur next pn epoch out salt
  exact ⟨fun hfree hroom hch => ⟨chSet_stages hfree hroom hch, chClear_stages hfree hroom hch, saInstall_stages hfree hroom hch,
    saRetire_stages hfree hroom, scheduleSwitch_stages hfree hroom hch, scheduleCancel_stages hfree hroom hch⟩,
    saInfo_completes,
    fun hfree hmode hw hf => ⟨commit_chSet hfree hmode hw hf, fun i y => commit_saInstall hfree hmode hw hf⟩⟩

end Sys2Proof.Machine

/-! PROOFS. Scheduled switches and exhausted associations (R161, R162, R164, R168, R169). -/
namespace Sys2Proof.Machine

/-! ### What the operations on contexts leave -/

/-- A retired SA: its state, and the key slot that it binds no more. Nothing else but channels and receivers changes. -/
theorem Chip.retireSa_spec (c : Chip) (i : Nat) :
    (∀ j, (c.retireSa i).sa j = if j = i then { c.sa i with state := 2 } else c.sa j) ∧
    ((c.retireSa i).slot (slotOf (c.sa i).key)).bound = false ∧ (c.retireSa i).vlt.owners = c.vlt.owners ∧
    (c.retireSa i).evr = c.evr ∧ (c.retireSa i).tim = c.tim := by
  obtain ⟨y, hy⟩ : ∃ y, (c.setSa i { c.sa i with state := 2 }).rxUnsync (c.sa i).channel = y := ⟨_, rfl⟩
  have hframe := (c.setSa i { c.sa i with state := 2 }).rxUnsync_frame (c.sa i).channel
  rw [hy] at hframe
  have hsas : y.sax = (c.setSa i { c.sa i with state := 2 }).sax := by rw [hframe]
  have hvlt : y.vlt = c.vlt := by rw [hframe]; rfl
  have hevr : y.evr = c.evr := by rw [hframe]; rfl
  have htim : y.tim = c.tim := by rw [hframe]; rfl
  simp only [Chip.retireSa, hy]
  refine ⟨fun j => ?_, ?_, ?_, hevr, htim⟩
  · change y.sa j = _
    rw [Chip.sa_congr hsas]
    by_cases hj : j = i
    · rw [hj, Chip.sa_setSa, if_pos rfl]
    · rw [Chip.sa_setSa_other _ _ hj, if_neg hj]
  · rw [Chip.slot_setSlot, if_pos rfl]
  · rw [← hvlt]
    rfl

/-- A schedule that ends leaves contexts, and its channel but for the schedule. -/
theorem Chip.endSchedule_spec (c : Chip) (ch : Nat) :
    (c.endSchedule ch).chan ch = { c.chan ch with sched := false, schedCur := 0, schedNext := 0, schedEpoch := 0 } ∧
    (∀ j, (c.endSchedule ch).sa j = c.sa j) ∧ (∀ y ∈ (c.endSchedule ch).sax.closes, y.channel ≠ ch) ∧
    (c.endSchedule ch).sax.sas = c.sax.sas ∧ c.endSchedule ch = { c with sax := (c.endSchedule ch).sax } := by
  refine ⟨Chip.chan_setChan _ _ _, fun j => rfl, fun y hy => ?_, rfl, rfl⟩
  have hmem : y ∈ c.sax.closes.filter fun x => x.channel ≠ ch := hy
  simpa using (List.mem_filter.1 hmem).2

section
variable {s : State} {ch : Fin 32768}

/-! ### STANDBY -/

theorem standby_keeps (hmode : s.chip.ctl.mode = .standby) :
    (completes (.scheduledSwitch ch) s fun d => d = s.chip) ∧ (completes (.rxWindowOpen ch) s fun d => d = s.chip) ∧
      completes (.rxWindowClose ch) s fun d => d = s.chip := by
  have hin : s.chip.inMode [.standby] = true := by simp [Chip.inMode, hmode]
  refine ⟨completes_eq (f := fun c => c.scheduledSwitch ch.val) rfl ?_ rfl rfl,
    completes_eq (f := fun c => c.windowOpen ch.val) rfl ?_ rfl rfl,
    completes_eq (f := fun c => c.windowClose ch.val) rfl ?_ rfl rfl⟩
  · simp [Chip.scheduledSwitch, hin]
  · simp [Chip.windowOpen, hin]
  · simp only [Chip.windowClose, hin, if_true]
    split <;> rfl

/-! ### The tick to the epoch of a schedule -/

section
variable (hmode : s.chip.ctl.mode ≠ .standby) (hsched : (s.chip.chan ch.val).sched = true)
  (hepoch : (s.chip.chan ch.val).schedEpoch ≤ s.chip.tim.epoch) (hcloses : ∀ x ∈ s.chip.sax.closes, x.channel ≠ ch.val)
include hmode hsched hepoch hcloses

theorem Chip.scheduledSwitch_due :
    s.chip.scheduledSwitch ch.val =
      if s.chip.saLive (s.chip.chan ch.val).schedNext = false then s.chip.missSchedule ch.val
      else if (s.chip.chan ch.val).dir = true then
        s.chip.modSax fun a => { a with
          closes := a.closes ++ [⟨ch.val, (s.chip.chan ch.val).schedCur, s.chip.now + s.chip.rekeyW⟩] }
      else s.chip.switchTx ch.val := by
  have hany : s.chip.sax.closes.any (·.channel = ch.val) = false := by
    rw [List.any_eq_false]
    exact fun x hx => by simpa using hcloses x hx
  simp only [Chip.scheduledSwitch, hsched, hany, Bool.not_true, Bool.or_false]
  rw [if_neg (by simp [Chip.inMode, hmode]; omega)]
  simp only [Bool.not_eq_true']

theorem scheduledSwitch_transmits (hlive : s.chip.saLive (s.chip.chan ch.val).schedNext = true)
    (hdir : (s.chip.chan ch.val).dir = false)
    (hne : (s.chip.chan ch.val).schedCur ≠ (s.chip.chan ch.val).schedNext) (hlogs : s.chip.logs) :
    completes (.scheduledSwitch ch) s fun d =>
      (d.chan ch.val).txCur = true ∧ (d.chan ch.val).txAn = (s.chip.sa (s.chip.chan ch.val).schedNext).an ∧
      (d.chan ch.val).prevTx = some (s.chip.chan ch.val).schedCur ∧ (d.chan ch.val).sched = false ∧
      d.sa (s.chip.chan ch.val).schedCur = { s.chip.sa (s.chip.chan ch.val).schedCur with state := 2 } ∧
      (∀ j, j ≠ (s.chip.chan ch.val).schedCur → d.sa j = s.chip.sa j) ∧
      (d.slot (slotOf (s.chip.sa (s.chip.chan ch.val).schedCur).key)).bound = false ∧
      s.chip.logged d [⟨Ev.SA_SWITCHED, saSource (s.chip.chan ch.val).schedCur,
        [(4, ch.val), (4, (s.chip.saHandle (s.chip.chan ch.val).schedCur).toNat),
          (4, (s.chip.saHandle (s.chip.chan ch.val).schedNext).toNat), (8, (s.chip.chan ch.val).schedEpoch)], false⟩,
        ⟨Ev.SA_RETIRED, saSource (s.chip.chan ch.val).schedCur, [], false⟩] := by
  obtain ⟨old, hold⟩ : ∃ n, (s.chip.chan ch.val).schedCur = n := ⟨_, rfl⟩
  obtain ⟨new, hnew⟩ : ∃ n, (s.chip.chan ch.val).schedNext = n := ⟨_, rfl⟩
  obtain ⟨e, he⟩ : ∃ n, (s.chip.chan ch.val).schedEpoch = n := ⟨_, rfl⟩
  have hdue := Chip.scheduledSwitch_due hmode hsched hepoch hcloses
  rw [if_neg (by rw [hlive]; decide), if_neg (by rw [hdir]; decide)] at hdue
  rw [hold, hnew] at hne
  simp only [hold, hnew, he]
  obtain ⟨hsa, hslot, hown, hevr, -⟩ := s.chip.retireSa_spec old
  obtain ⟨y, hy⟩ : ∃ y, s.chip.retireSa old = y := ⟨_, rfl⟩
  rw [hy] at hsa hslot hown hevr
  obtain ⟨k, hk⟩ : ∃ k, ({ y.chan ch.val with txAn := (y.sa new).an, txCur := true, prevTx := some old } : Channel) = k := ⟨_, rfl⟩
  obtain ⟨hchan, hsas, -, -, hframe⟩ := (y.setChan ch.val k).endSchedule_spec ch.val
  obtain ⟨z, hz⟩ : ∃ z, (y.setChan ch.val k).endSchedule ch.val = z := ⟨_, rfl⟩
  rw [hz, Chip.chan_setChan] at hchan
  rw [hz] at hsas hframe
  have hzvlt : z.vlt = y.vlt := by rw [hframe]; rfl
  have hzevr : z.evr = s.chip.evr := by rw [hframe, ← hevr]; rfl
  have hzlogs : z.logs := by rwa [Chip.logs, hzevr]
  obtain ⟨items, hitems⟩ : ∃ l : List (Nat × Nat), [(4, ch.val), (4, (s.chip.saHandle old).toNat),
    (4, (s.chip.saHandle new).toNat), (8, e)] = l := ⟨_, rfl⟩
  have hswitch : s.chip.switchTx ch.val = (z.raise Ev.SA_SWITCHED (saSource old) items).raise Ev.SA_RETIRED (saSource old) := by
    simp only [Chip.switchTx, hold, hnew, he, hy, hk, hz, hitems]
  have hfirst : z.raise Ev.SA_SWITCHED (saSource old) items = _ := Chip.raise_logs hzlogs (by decide)
  rw [hfirst, Chip.raise_intake (by exact hzlogs.1) (by decide)
    (by have := hzlogs.2; simp only [List.length_append, List.length_singleton]; omega)] at hswitch
  refine completes_eq (f := fun c => c.scheduledSwitch ch.val) rfl (hdue.trans hswitch)
    ⟨?_, ?_, ?_, ?_, ?_, fun j hj => ?_, ?_, ?_⟩ ?_
  · change (z.chan ch.val).txCur = true
    rw [hchan, ← hk]
  · change (z.chan ch.val).txAn = _
    rw [hchan, ← hk]
    change (y.sa new).an = _
    rw [hsa, if_neg (Ne.symm hne)]
  · change (z.chan ch.val).prevTx = _
    rw [hchan, ← hk]
  · change (z.chan ch.val).sched = false
    rw [hchan]
  · change z.sa old = _
    rw [hsas]
    change y.sa old = _
    rw [hsa, if_pos rfl]
  · change z.sa j = _
    rw [hsas]
    change y.sa j = _
    rw [hsa, if_neg hj]
  · change (z.slot _).bound = false
    rw [Chip.slot_congr hzvlt]
    exact hslot
  · rw [Chip.logged, ← hzevr, hitems]
    exact List.append_assoc _ _ _
  · change z.vlt.owners = _
    rw [hzvlt, hown]

theorem scheduledSwitch_receives (hlive : s.chip.saLive (s.chip.chan ch.val).schedNext = true)
    (hdir : (s.chip.chan ch.val).dir = true) : completes (.scheduledSwitch ch) s fun d =>
      d = { s.chip with sax := { s.chip.sax with
        closes := s.chip.sax.closes ++ [⟨ch.val, (s.chip.chan ch.val).schedCur, s.chip.now + s.chip.rekeyW⟩] } } := by
  have hdue := Chip.scheduledSwitch_due hmode hsched hepoch hcloses
  rw [if_neg (by rw [hlive]; decide), if_pos hdir] at hdue
  exact completes_eq (f := fun c => c.scheduledSwitch ch.val) rfl hdue rfl rfl

theorem scheduledSwitch_misses (hlive : s.chip.saLive (s.chip.chan ch.val).schedNext = false) (hlogs : s.chip.logs) :
    completes (.scheduledSwitch ch) s fun d =>
      (d.chan ch.val).sched = false ∧ d.sax.sas = s.chip.sax.sas ∧ d.getF F.SAX_STAT_missed [] = 1 ∧
      s.chip.logged d [⟨Ev.SCHED_MISSED, saSource (s.chip.chan ch.val).schedNext, [], false⟩] := by
  have hdue := Chip.scheduledSwitch_due hmode hsched hepoch hcloses
  rw [if_pos hlive] at hdue
  obtain ⟨hchan, -, -, hsas, hframe⟩ := s.chip.endSchedule_spec ch.val
  obtain ⟨z, hz⟩ : ∃ z, s.chip.endSchedule ch.val = z := ⟨_, rfl⟩
  rw [hz] at hchan hsas hframe
  have hzevr : z.evr = s.chip.evr := by rw [hframe]
  have hzvlt : z.vlt = s.chip.vlt := by rw [hframe]
  have hlogs' : (z.setF F.SAX_STAT_missed [] 1).logs := by rwa [Chip.logs, Chip.setF_evr, hzevr]
  simp only [Chip.missSchedule, hz] at hdue
  rw [Chip.raise_logs hlogs' (by decide)] at hdue
  refine completes_eq (f := fun c => c.scheduledSwitch ch.val) rfl hdue ⟨?_, hsas, ?_, ?_⟩ (by rw [← hzvlt]; rfl)
  · change (z.chan ch.val).sched = false
    rw [hchan]
  · exact Chip.getF_setF_same z F.SAX_STAT_missed [] 1 (by decide)
  · rw [Chip.logged, ← hzevr]
    rfl

end

/-! ### The window of a receive schedule -/

theorem rxWindowOpen_completes (hmode : s.chip.ctl.mode ≠ .standby) (hsched : (s.chip.chan ch.val).sched = true)
    (hdir : (s.chip.chan ch.val).dir = true)
    (hepoch : (s.chip.chan ch.val).schedEpoch ≤ s.chip.tim.epoch + b2n s.chip.tim.windowDone) :
    completes (.rxWindowOpen ch) s fun d =>
      (∀ j, d.sa j = if j = (s.chip.chan ch.val).schedNext then { s.chip.sa (s.chip.chan ch.val).schedNext with hold := false }
        else s.chip.sa j) ∧
      ((s.chip.chan ch.val).portCh = false → d = { s.chip with sax := { s.chip.sax with sas := d.sax.sas } }) ∧
      ((s.chip.chan ch.val).portCh = true → (s.chip.chan ch.val).valid = true →
        d.getB F.PRT_FRM_STAT_rx_sync [(s.chip.chan ch.val).linePort, (s.chip.chan ch.val).subPort] = false) := by
  obtain ⟨k, hk⟩ : ∃ k, s.chip.chan ch.val = k := ⟨_, rfl⟩
  rw [hk] at hsched hdir hepoch
  obtain ⟨y, hy⟩ : ∃ y, s.chip.setSa k.schedNext { s.chip.sa k.schedNext with hold := false } = y := ⟨_, rfl⟩
  have hopen : s.chip.windowOpen ch.val = y.rxUnsync ch.val := by
    have hdue : k.schedEpoch ≤ s.chip.tim.epoch ∨ (s.chip.tim.epoch + 1 = k.schedEpoch ∧ s.chip.tim.windowDone = true) := by
      cases hw : s.chip.tim.windowDone <;> simp only [hw, b2n] at hepoch <;> simp at hepoch ⊢ <;> omega
    simp only [Chip.windowOpen, hk, hy]
    exact if_pos (by simpa [Chip.inMode, hmode, hsched, hdir] using hdue)
  have hykchan : y.chan ch.val = k := by rw [← hy, ← hk]; rfl
  have hyown : y.vlt = s.chip.vlt := by rw [← hy]; rfl
  obtain ⟨hsax, hvlt, -⟩ := y.rxUnsync_keeps ch.val
  simp only [hk]
  refine completes_eq (f := fun c => c.windowOpen ch.val) rfl hopen ⟨fun j => ?_, fun hport => ?_, fun hport hvalid => ?_⟩
    (by rw [hvlt, hyown])
  · rw [Chip.sa_congr hsax, ← hy]
    by_cases hj : j = k.schedNext
    · rw [hj, Chip.sa_setSa, if_pos rfl]
    · rw [Chip.sa_setSa_other _ _ hj, if_neg hj]
  · have hkept : y.rxUnsync ch.val = y := by simp [Chip.rxUnsync, hykchan, hport]
    rw [hkept, ← hy]
    rfl
  · have hzero : (y.rxUnsync ch.val).getF F.PRT_FRM_STAT_rx_sync [k.linePort, k.subPort] = 0 := by
      simp only [Chip.rxUnsync, hykchan, hport, hdir, hvalid, Bool.and_self, if_true]
      exact Chip.getF_setF_same _ F.PRT_FRM_STAT_rx_sync [k.linePort, k.subPort] 0 (by decide)
    exact Chip.getB_of hzero

theorem rxWindowClose_completes {x : RxClose} (hmode : s.chip.ctl.mode ≠ .standby)
    (hfind : s.chip.sax.closes.find? (·.channel = ch.val) = some x) (hdue : x.due < 2 ^ 64) (hlive : (s.chip.sa x.sa).state = 1)
    (hsched : (s.chip.chan ch.val).sched = true) (hold : (s.chip.chan ch.val).schedCur = x.sa) :
    completes (.rxWindowClose ch) s fun d =>
      (d.sa x.sa).state = 2 ∧ (∀ j, j ≠ x.sa → d.sa j = s.chip.sa j) ∧ (d.chan ch.val).sched = false ∧
      (∀ y ∈ d.sax.closes, y.channel ≠ ch.val) ∧ x.due ≤ d.now ∧
      (s.chip.logs → s.chip.logged d [⟨Ev.SA_RETIRED, saSource x.sa, [], false⟩]) := by
  obtain ⟨hframe, -⟩ := s.chip.reachElapsed_runs x.due
  have hle := s.chip.le_reachElapsed hdue
  obtain ⟨y, hy⟩ : ∃ y, s.chip.reachElapsed x.due = y := ⟨_, rfl⟩
  rw [hy] at hframe hle
  have hysax : y.sax = s.chip.sax := by rw [hframe]
  have hyvlt : y.vlt = s.chip.vlt := by rw [hframe]
  have hyevr : y.evr = s.chip.evr := by rw [hframe]
  obtain ⟨hsa, -, hown, hevr, htim⟩ := y.retireSa_spec x.sa
  obtain ⟨z, hz⟩ : ∃ z, y.retireSa x.sa = z := ⟨_, rfl⟩
  rw [hz] at hsa hown hevr htim
  obtain ⟨hchan, hsas, hcl, -, hend⟩ := z.endSchedule_spec ch.val
  obtain ⟨w, hw⟩ : ∃ w, z.endSchedule ch.val = w := ⟨_, rfl⟩
  rw [hw] at hchan hsas hcl hend
  have hclose : s.chip.windowClose ch.val = w.raise Ev.SA_RETIRED (saSource x.sa) := by
    have hylive : decide ((y.sa x.sa).state = 1) = true := by
      rw [Chip.sa_congr hysax, hlive]
      rfl
    simp only [Chip.windowClose, hfind, hsched, hold, hy, hylive, Chip.when_true, hz, hw]
    rw [if_neg (by simp [Chip.inMode, hmode]), if_neg (by simp)]
  have hwtim : w.tim = y.tim := by rw [hend]; exact htim
  have hwvlt : w.vlt.owners = s.chip.vlt.owners := by rw [hend, ← hyvlt]; exact hown
  have hwevr : w.evr = s.chip.evr := by rw [hend, ← hyevr]; exact hevr
  have hraised := (Chip.reports.refl w).raise Ev.SA_RETIRED (saSource x.sa) []
  have hdsax : (w.raise Ev.SA_RETIRED (saSource x.sa)).sax = w.sax := hraised.sax_eq
  refine completes_eq (f := fun c => c.windowClose ch.val) rfl hclose ⟨?_, fun j hj => ?_, ?_, ?_, ?_, fun hlogs => ?_⟩ ?_
  · rw [Chip.sa_congr hdsax, hsas, hsa, if_pos rfl]
  · rw [Chip.sa_congr hdsax, hsas, hsa, if_neg hj, Chip.sa_congr hysax]
  · rw [Chip.chan_congr hdsax, hchan]
  · rw [hdsax]
    exact hcl
  · simp only [Chip.now] at hle ⊢
    rw [hraised.tim_eq, hwtim]
    exact hle
  · have hwlogs : w.logs := by rwa [Chip.logs, hwevr]
    rw [Chip.raise_logs hwlogs (by decide), Chip.logged, ← hwevr]
  · rw [hraised.vlt_eq, hwvlt]

/-! ### The last packet number -/

theorem soonPn_le_lastPn (suite : Nat) : soonPn suite ≤ lastPn suite := by
  simp only [soonPn, lastPn]
  split_ifs <;> decide

/-- R162: the SA stops, and says so. -/
theorem Chip.stopSa_spec (c : Chip) (i : Nat) (hlogs : c.evr.started = true) (hroom : c.evr.intake.length < 256) :
    (c.stopSa i).sa i = { c.sa i with stopped := true } ∧ (∀ j, j ≠ i → (c.stopSa i).sa j = c.sa j) ∧
      (c.stopSa i).getF F.SAX_STAT_stopped [] = 1 ∧ ⟨Ev.PN_EXHAUSTED, saSource i, [], false⟩ ∈ (c.stopSa i).evr.intake ∧
      (c.stopSa i).vlt = c.vlt := by
  obtain ⟨y, hy⟩ : ∃ y, c.setSa i { c.sa i with stopped := true } = y := ⟨_, rfl⟩
  have hysa : y.sa i = { c.sa i with stopped := true } := by rw [← hy, Chip.sa_setSa]
  have hyother : ∀ j, j ≠ i → y.sa j = c.sa j := fun j hj => by rw [← hy, Chip.sa_setSa_other _ _ hj]
  have hyevr : y.evr = c.evr := by rw [← hy]; rfl
  have hyvlt : y.vlt = c.vlt := by rw [← hy]; rfl
  have hstop : c.stopSa i = { y.setF F.SAX_STAT_stopped [] 1 with evr := { (y.setF F.SAX_STAT_stopped [] 1).evr with
      intake := (y.setF F.SAX_STAT_stopped [] 1).evr.intake ++ [⟨Ev.PN_EXHAUSTED, saSource i, [], false⟩] } } := by
    rw [Chip.stopSa, hy, Chip.raise_intake (by rw [Chip.setF_evr, hyevr]; exact hlogs) (by decide)
      (by rw [Chip.setF_evr, hyevr]; exact hroom)]
  rw [hstop]
  exact ⟨hysa, hyother, Chip.getF_setF_same y F.SAX_STAT_stopped [] 1 (by decide), List.mem_append_right _ List.mem_cons_self, hyvlt⟩

/-- The first announcement that an SA needs another leaves its contexts. -/
theorem Chip.saySoon_spec {c : Chip} (hlogs : c.logs) (i : Nat) (b : Bool) {d : Chip}
    (hd : c.when b (fun d => (d.setF F.SAX_STAT_soon [] 1).raise Ev.REKEY_SOON (saSource i)) = d) :
    d.sax = c.sax ∧ d.vlt = c.vlt ∧ d.evr.started = true ∧ d.evr.intake.length < 256 := by
  obtain ⟨hstart, hroom⟩ := hlogs
  cases b with
  | false =>
    rw [Chip.when_false] at hd
    subst hd
    exact ⟨rfl, rfl, hstart, by omega⟩
  | true =>
    have hset : (c.setF F.SAX_STAT_soon [] 1).logs := ⟨hstart, hroom⟩
    rw [Chip.when_true, Chip.raise_logs hset (by decide)] at hd
    subst hd
    exact ⟨rfl, rfl, hstart, by simp only [Chip.setF_evr, List.length_append, List.length_singleton]; omega⟩

theorem pnLimitReached_completes {i : Fin 65536} (hpn : (s.chip.sa i.val).nextPn = lastPn (s.chip.sa i.val).suite)
    (htarget : s.chip.sealTarget (s.chip.saHandle i.val) = i.val) (htest : s.chip.sealTest (s.chip.saHandle i.val) = 0)
    (hmay : s.chip.mayAllocate i.val = true) (hlogs : s.chip.logs) :
    completes (.pnLimitReached i) s fun d =>
      d.sa i.val = { s.chip.sa i.val with stopped := true, nextPn := (s.chip.sa i.val).nextPn + 1, soon := true } ∧
      (∀ j, j ≠ i.val → d.sa j = s.chip.sa j) ∧
      d.getF F.SAX_STAT_stopped [] = 1 ∧ ⟨Ev.PN_EXHAUSTED, saSource i.val, [], false⟩ ∈ d.evr.intake := by
  obtain ⟨x, hx⟩ : ∃ x, s.chip.sa i.val = x := ⟨_, rfl⟩
  obtain ⟨b, hb⟩ : ∃ b, (decide (soonPn x.suite ≤ x.nextPn) && !x.soon) = b := ⟨_, rfl⟩
  have hsoon : (x.soon || b) = true := by
    rw [← hb, ← hx, hpn, decide_eq_true (soonPn_le_lastPn _)]
    cases (s.chip.sa i.val).soon <;> rfl
  obtain ⟨y, hy⟩ : ∃ y, s.chip.setSa i.val { x with nextPn := x.nextPn + 1, soon := x.soon || b } = y := ⟨_, rfl⟩
  have hysa : y.sa i.val = { x with nextPn := x.nextPn + 1, soon := true } := by rw [← hy, Chip.sa_setSa, hsoon]
  have hyother : ∀ j, j ≠ i.val → y.sa j = s.chip.sa j := fun j hj => by rw [← hy, Chip.sa_setSa_other _ _ hj]
  have hylogs : y.logs := by rw [← hy]; exact hlogs
  have hyvlt : y.vlt = s.chip.vlt := by rw [← hy]; rfl
  obtain ⟨z, hz⟩ : ∃ z, y.when b (fun d => (d.setF F.SAX_STAT_soon [] 1).raise Ev.REKEY_SOON (saSource i.val)) = z := ⟨_, rfl⟩
  obtain ⟨hsax, hvlt, hstart, hroom⟩ := Chip.saySoon_spec hylogs i.val b hz
  obtain ⟨hsa, hother, hreg, hev, hkeep⟩ := z.stopSa_spec i.val hstart hroom
  have hlimit : s.chip.pnLimit i.val = z.stopSa i.val := by
    have hpn' : decide (x.nextPn = lastPn x.suite) = true := by rw [← hx]; exact decide_eq_true hpn
    simp only [Chip.pnLimit, Chip.allocPn, htarget, htest, hmay, hx, hb, hy, hz, hpn', decide_true, Bool.and_self, if_true,
      Chip.when_true]
  simp only [hx]
  refine completes_eq (f := fun c => c.pnLimit i.val) rfl hlimit ⟨?_, fun j hj => ?_, hreg, hev⟩ (by rw [hkeep, hvlt, hyvlt])
  · rw [hsa, Chip.sa_congr hsax, hysa]
  · rw [hother j hj, Chip.sa_congr hsax, hyother j hj]

end

/-- Settles O38. -/
theorem scheduledSwitches : Obligations.ScheduledSwitches := by
  unfold Obligations.ScheduledSwitches
  intro s ch i
  refine ⟨standby_keeps, fun hmode hsched hepoch hcloses => ⟨fun hlive hdir _ hne hlogs => ?_, fun hlive hdir => ?_,
    fun hlive hlogs => ?_⟩, rxWindowOpen_completes, fun x => rxWindowClose_completes, fun _ _ _ => pnLimitReached_completes⟩
  · exact scheduledSwitch_transmits hmode hsched hepoch hcloses hlive hdir hne hlogs
  · exact scheduledSwitch_receives hmode hsched hepoch hcloses hlive hdir
  · exact scheduledSwitch_misses hmode hsched hepoch hcloses hlive hlogs

end Sys2Proof.Machine

/-! PROOFS. The entropy sources, their tests and their restart (R180 to R184, R189). -/
namespace Sys2Proof.Machine

/-! ### The health tests over a window (R181) -/

section
variable (b : Brine) (w : BitVec 1024)

theorem Brine.runOver_zero : b.runOver w 0 = { last := b.last, run := b.run } := rfl

theorem Brine.runOver_succ (n : Nat) : b.runOver w (n + 1) = (b.runOver w n).sample (w.getLsbD n) := by
  simp only [Brine.runOver, List.range_succ, List.foldl_append, List.foldl_cons, List.foldl_nil]

theorem RunCount.sample_run (r : RunCount) (x : Bool) (h : r.last = some x) : (r.sample x).run = r.run + 1 := by
  simp only [RunCount.sample, h, if_true]

theorem RunCount.one_le_sample_run (r : RunCount) (x : Bool) : 1 ≤ (r.sample x).run := by
  simp only [RunCount.sample]
  split_ifs <;> omega

/-- A run that has failed has failed. -/
theorem Brine.runOver_failed_mono {m n : Nat} (hmn : m ≤ n) (h : (b.runOver w m).failed = true) : (b.runOver w n).failed = true := by
  induction n, hmn using Nat.le_induction with
  | base => exact h
  | succ n _ ih =>
    rw [Brine.runOver_succ, RunCount.sample, ih]
    rfl

/-- After `t + 1` samples of one value the run is at least so long. -/
theorem Brine.le_runOver_run {k t : Nat} (h : ∀ j, k ≤ j → j < k + (t + 1) → w.getLsbD j = w.getLsbD k) :
    (b.runOver w (k + t + 1)).last = some (w.getLsbD k) ∧ t + 1 ≤ (b.runOver w (k + t + 1)).run := by
  induction t with
  | zero =>
    rw [Nat.add_zero, Brine.runOver_succ]
    exact ⟨rfl, RunCount.one_le_sample_run _ _⟩
  | succ t ih =>
    obtain ⟨hlast, hrun⟩ := ih fun j hj hlt => h j hj (by omega)
    have hx : w.getLsbD (k + (t + 1)) = w.getLsbD k := h _ (by omega) (by omega)
    rw [Brine.runOver_succ, hx]
    refine ⟨rfl, ?_⟩
    change t + 1 + 1 ≤ ((b.runOver w (k + t + 1)).sample (w.getLsbD k)).run
    rw [RunCount.sample_run _ _ hlast]
    omega

/-- The repetition count test's cut-off. -/
theorem Brine.judge_repeats {n k : Nat} (hk : k + 41 ≤ n) (h : ∀ j, k ≤ j → j < k + 41 → w.getLsbD j = w.getLsbD k) :
    b.judge w n = some false := by
  obtain ⟨hlast, hrun⟩ : (b.runOver w (k + 40)).last = some (w.getLsbD k) ∧ 40 ≤ (b.runOver w (k + 40)).run :=
    b.le_runOver_run w (t := 39) fun j hj hlt => h j hj (by omega)
  have hfail : (b.runOver w (k + 40 + 1)).failed = true := by
    rw [Brine.runOver_succ, RunCount.sample, h (k + 40) (by omega) (by omega), if_pos hlast, decide_eq_true (by omega), Bool.or_true]
  rw [Brine.judge, if_pos (b.runOver_failed_mono w hk hfail)]

theorem foldl_count {α : Type} (p : α → Prop) [DecidablePred p] (l : List α) (k : Nat) :
    l.foldl (fun k i => if p i then k + 1 else k) k = k + l.countP fun i => decide (p i) := by
  induction l generalizing k with
  | nil => rfl
  | cons x xs ih =>
    rw [List.foldl_cons, ih, List.countP_cons]
    by_cases hx : p x <;> simp [hx]; omega

/-- The adaptive proportion test's cut-off. -/
theorem Brine.judge_often {n : Nat} (h : 795 ≤ (List.range n).countP fun j => w.getLsbD j == w.getLsbD 0) :
    b.judge w n ≠ none := by
  have hcount : ((List.range n).countP fun i => decide (w.getLsbD i = w.getLsbD 0)) =
      (List.range n).countP fun j => w.getLsbD j == w.getLsbD 0 :=
    List.countP_congr fun i _ => by simp
  have hapt : aptFails w n = true := by
    rw [aptFails, foldl_count (fun i => w.getLsbD i = w.getLsbD 0), Nat.zero_add, hcount]
    exact decide_eq_true h
  simp only [Brine.judge, hapt, if_true]
  split <;> exact Option.some_ne_none _

end

/-! ### The sources -/

theorem Chip.brine_congr {c d : Chip} (h : d.ent = c.ent) (i : Nat) : d.brine i = c.brine i := by simp only [Chip.brine, h]

theorem Chip.brine_setBrine (c : Chip) (i : Fin 2) (b : Brine) : (c.setBrine i.val b).brine i.val = b := by
  match i with
  | 0 => rfl
  | 1 => rfl

theorem Chip.brine_setBrine_other (c : Chip) (i : Fin 2) (b : Brine) :
    (c.setBrine i.val b).brine (1 - i.val) = c.brine (1 - i.val) := by
  match i with
  | 0 => rfl
  | 1 => rfl

/-- A source that changes leaves the seed, the DRBG, the FIFOs and the requests. -/
theorem Chip.setBrine_ent (c : Chip) (i : Nat) (b : Brine) :
    (c.setBrine i b).ent = { c.ent with src0 := (c.setBrine i b).ent.src0, src1 := (c.setBrine i b).ent.src1 } := by
  simp only [Chip.setBrine, Chip.setF_ent, Chip.modEnt_ent]
  split_ifs <;> rfl

theorem Chip.setBrine_vlt (c : Chip) (i : Nat) (b : Brine) : (c.setBrine i b).vlt = c.vlt := rfl

theorem Chip.getF_setBrine (c : Chip) (s : Nat) (b : Brine) {f : Fld} {j : List Nat}
    (h : f.key j ≠ F.ENT_SRC_STAT_consec.key [s]) : (c.setBrine s b).getF f j = c.getF f j := by
  rw [Chip.setBrine, Chip.getF_setF_other _ _ (by decide) h]
  rfl

/-- Words pushed into the raw FIFO leave all but it. -/
theorem Chip.rawPush_spec (c : Chip) (ws : List Word) :
    (c.rawPush ws).ent = { c.ent with raw := c.ent.raw ++ ws.take (64 - c.ent.raw.length) } ∧
    (c.rawPush ws).vlt = c.vlt ∧
    (64 - c.ent.raw.length < ws.length → (c.rawPush ws).getF F.ENT_RAW_CTL_overrun [] = 1) ∧
    (c.rawPush ws).getF F.ENT_STAT_failed [] = c.getF F.ENT_STAT_failed [] := by
  obtain ⟨y, hy⟩ : ∃ y, (c.modEnt fun e => { e with raw := e.raw ++ ws.take (64 - c.ent.raw.length) }) = y := ⟨_, rfl⟩
  obtain ⟨z, hz⟩ : ∃ z, y.setF F.ENT_RAW_CTL_empty [] (b2n y.ent.raw.isEmpty) = z := ⟨_, rfl⟩
  have hpush : c.rawPush ws = z.when (64 - c.ent.raw.length < ws.length) fun c => c.setF F.ENT_RAW_CTL_overrun [] 1 := by
    simp only [Chip.rawPush, hy, hz]
  have hzent : z.ent = { c.ent with raw := c.ent.raw ++ ws.take (64 - c.ent.raw.length) } := by rw [← hz, ← hy]; rfl
  have hzvlt : z.vlt = c.vlt := by rw [← hz, ← hy]; rfl
  have hzfail : z.getF F.ENT_STAT_failed [] = c.getF F.ENT_STAT_failed [] := by
    rw [← hz, Chip.getF_setF_other _ _ (by decide) (by decide), ← hy]
    rfl
  rw [hpush]
  by_cases hroom : 64 - c.ent.raw.length < ws.length
  · rw [decide_eq_true hroom, Chip.when_true]
    refine ⟨hzent, hzvlt, fun _ => Chip.getF_setF_same _ _ _ _ (by decide), ?_⟩
    rw [Chip.getF_setF_other _ _ (by decide) (by decide), hzfail]
  · rw [decide_eq_false hroom, Chip.when_false]
    exact ⟨hzent, hzvlt, fun h => absurd h hroom, hzfail⟩

/-! ### A health test that fails (R182) -/

/-- A source whose health test has failed: it stops and restarts. -/
def Brine.failedOnce (b : Brine) : Brine :=
  { b with
    consec := min 15 (b.consec + 1), degradedSaid := b.degradedSaid || (3 ≤ min 15 (b.consec + 1) && !b.degradedSaid),
    running := false, restarting := true, startTest := true, last := none, run := 0 }

/-- The block in which a health test of a source has failed, before its events. -/
def Chip.testFailed (c : Chip) (s : Nat) (apt : Bool) : Chip :=
  let b := c.brine s
  let say := 3 ≤ min 15 (b.consec + 1) && !b.degradedSaid
  let c := c.setBrine s { b with consec := min 15 (b.consec + 1), degradedSaid := b.degradedSaid || say }
  let c := (c.sourceStop s).bump F.ENT_SRC_STAT_fails [s]
  (c.setF (if apt then F.ENT_SRC_STAT_apt_fail else F.ENT_SRC_STAT_rct_fail) [s] 1).setF F.ENT_STAT_health [] 1

theorem Chip.healthFail_eq {c : Chip} {s : Nat} (apt : Bool) (hrun : (c.brine s).running = true) :
    c.healthFail s apt =
      ((c.testFailed s apt).raise Ev.ENT_HEALTH 0x0C8
        [(4, s), (4, b2n apt + 2 * b2n (c.brine s).startTest), (4, min 15 ((c.brine s).consec + 1))]).when
        (3 ≤ min 15 ((c.brine s).consec + 1) && !(c.brine s).degradedSaid)
        fun c => (c.setF F.ENT_STAT_degraded [] 1).raise Ev.ENT_SRC_DEGRADED 0x0C8 := by
  simp only [Chip.healthFail, Chip.testFailed, hrun, if_true]

theorem Chip.testFailed_spec (c : Chip) (i : Fin 2) (apt : Bool) :
    (c.testFailed i.val apt).brine i.val = (c.brine i.val).failedOnce ∧
    (c.testFailed i.val apt).brine (1 - i.val) = c.brine (1 - i.val) ∧
    (c.testFailed i.val apt).getF (if apt then F.ENT_SRC_STAT_apt_fail else F.ENT_SRC_STAT_rct_fail) [i.val] = 1 ∧
    (c.testFailed i.val apt).getF F.ENT_STAT_health [] = 1 ∧
    (c.testFailed i.val apt).getF F.ENT_STAT_failed [] = c.getF F.ENT_STAT_failed [] ∧
    (c.testFailed i.val apt).evr = c.evr ∧ (c.testFailed i.val apt).vlt = c.vlt := by
  obtain ⟨b, hb⟩ : ∃ b : Brine, { c.brine i.val with
    consec := min 15 ((c.brine i.val).consec + 1),
    degradedSaid := (c.brine i.val).degradedSaid || (3 ≤ min 15 ((c.brine i.val).consec + 1) && !(c.brine i.val).degradedSaid) } = b :=
    ⟨_, rfl⟩
  obtain ⟨y, hy⟩ : ∃ y, (c.setBrine i.val b).sourceStop i.val = y := ⟨_, rfl⟩
  have hybrine : y.brine i.val = (c.brine i.val).failedOnce := by
    rw [← hy, Chip.sourceStop, Chip.brine_setBrine, Chip.brine_setBrine, ← hb]
    rfl
  have hyother : y.brine (1 - i.val) = c.brine (1 - i.val) := by
    rw [← hy, Chip.sourceStop, Chip.brine_setBrine_other, Chip.brine_setBrine_other]
  have hyfail : y.getF F.ENT_STAT_failed [] = c.getF F.ENT_STAT_failed [] := by
    have hne : F.ENT_STAT_failed.key [] ≠ F.ENT_SRC_STAT_consec.key [i.val] := by
      simp only [Fld.key, F.ENT_STAT_failed, F.ENT_SRC_STAT_consec, dotStrides]; omega
    rw [← hy, Chip.sourceStop, Chip.getF_setBrine _ _ _ hne, Chip.getF_setBrine _ _ _ hne]
  obtain ⟨z, hz⟩ : ∃ z, y.bump F.ENT_SRC_STAT_fails [i.val] = z := ⟨_, rfl⟩
  have hfailed : c.testFailed i.val apt =
      (z.setF (if apt then F.ENT_SRC_STAT_apt_fail else F.ENT_SRC_STAT_rct_fail) [i.val] 1).setF F.ENT_STAT_health [] 1 := by
    simp only [Chip.testFailed, hb, hy, hz]
  have hzfail : z.getF F.ENT_STAT_failed [] = c.getF F.ENT_STAT_failed [] := by
    rw [← hz, Chip.bump, Chip.getF_setF_other _ _ (by decide), hyfail]
    simp only [Fld.key, F.ENT_STAT_failed, F.ENT_SRC_STAT_fails, dotStrides]; omega
  have hw : (if apt then F.ENT_SRC_STAT_apt_fail else F.ENT_SRC_STAT_rct_fail).w = 1 := by cases apt <;> rfl
  have hkeys : (if apt then F.ENT_SRC_STAT_apt_fail else F.ENT_SRC_STAT_rct_fail).key [i.val] ≠ F.ENT_STAT_health.key [] ∧
      F.ENT_STAT_failed.key [] ≠ (if apt then F.ENT_SRC_STAT_apt_fail else F.ENT_SRC_STAT_rct_fail).key [i.val] := by
    cases apt <;>
      simp only [Fld.key, F.ENT_STAT_failed, F.ENT_STAT_health, F.ENT_SRC_STAT_apt_fail, F.ENT_SRC_STAT_rct_fail, dotStrides,
        if_true, Bool.false_eq_true, if_false] <;> omega
  rw [hfailed]
  refine ⟨?_, ?_, ?_, Chip.getF_setF_same _ _ _ _ (by decide), ?_, ?_, ?_⟩
  · rw [← hybrine, ← hz]
    rfl
  · rw [← hyother, ← hz]
    rfl
  · rw [Chip.getF_setF_other _ _ (by decide) hkeys.1, Chip.getF_setF_same _ _ _ _ (by rw [hw]; decide), hw]
    rfl
  · rw [Chip.getF_setF_other _ _ (by decide) (by decide), Chip.getF_setF_other _ _ (by rw [hw]; decide) hkeys.2, hzfail]
  · rw [Chip.setF_evr, Chip.setF_evr, ← hz, ← hy]
    rfl
  · rw [Chip.setF_vlt, Chip.setF_vlt, ← hz, ← hy]
    rfl

/-- What a failure leaves besides its events. -/
theorem Chip.healthFail_spec {c : Chip} {i : Fin 2} (apt : Bool) (hrun : (c.brine i.val).running = true) :
    (c.healthFail i.val apt).brine i.val = (c.brine i.val).failedOnce ∧
    (c.healthFail i.val apt).brine (1 - i.val) = c.brine (1 - i.val) ∧
    (c.healthFail i.val apt).getF F.ENT_STAT_failed [] = c.getF F.ENT_STAT_failed [] ∧ (c.healthFail i.val apt).vlt = c.vlt := by
  obtain ⟨hb, ho, -, -, hf, -, hv⟩ := c.testFailed_spec i apt
  obtain ⟨items, hitems⟩ : ∃ l : List (Nat × Nat),
    [(4, i.val), (4, b2n apt + 2 * b2n (c.brine i.val).startTest), (4, min 15 ((c.brine i.val).consec + 1))] = l := ⟨_, rfl⟩
  obtain ⟨y, hy⟩ : ∃ y, (c.testFailed i.val apt).raise Ev.ENT_HEALTH 0x0C8 items = y := ⟨_, rfl⟩
  have hloses := (Chip.loses.refl (c.testFailed i.val apt)).raise (code := Ev.ENT_HEALTH) (by decide) 0x0C8 items
  rw [hy] at hloses
  have hyent : y.ent = (c.testFailed i.val apt).ent := by rw [← hy, Chip.raise_ent]
  have hyfail : y.getF F.ENT_STAT_failed [] = c.getF F.ENT_STAT_failed [] := (hloses.getF (by decide)).trans hf
  have hyvlt : y.vlt = c.vlt := by rw [← hy, Chip.raise_vlt, hv]
  have hdeg : ∀ d : Chip, ((d.setF F.ENT_STAT_degraded [] 1).raise Ev.ENT_SRC_DEGRADED 0x0C8).getF F.ENT_STAT_failed [] =
      d.getF F.ENT_STAT_failed [] := fun d => by
    rw [((Chip.loses.refl _).raise (code := Ev.ENT_SRC_DEGRADED) (by decide) 0x0C8 []).getF (by decide),
      Chip.getF_setF_other _ _ (by decide) (by decide)]
  rw [Chip.healthFail_eq apt hrun, hitems, hy]
  obtain ⟨b, hsay⟩ : ∃ b, (decide (3 ≤ min 15 ((c.brine i.val).consec + 1)) && !(c.brine i.val).degradedSaid) = b := ⟨_, rfl⟩
  rw [hsay]
  have hent : (y.when b fun c => (c.setF F.ENT_STAT_degraded [] 1).raise Ev.ENT_SRC_DEGRADED 0x0C8).ent = y.ent :=
    Chip.when_keeps (g := Chip.ent) (fun d => by rw [Chip.raise_ent, Chip.setF_ent]) _ _
  refine ⟨?_, ?_, ?_, ?_⟩
  · rw [Chip.brine_congr (hent.trans hyent), hb]
  · rw [Chip.brine_congr (hent.trans hyent), ho]
  · exact (Chip.when_keeps (g := fun d => d.getF F.ENT_STAT_failed []) hdeg _ _).trans hyfail
  · exact (Chip.when_keeps (g := Chip.vlt) (fun d => by rw [Chip.raise_vlt, Chip.setF_vlt]) _ _).trans hyvlt

section
variable {s : State} {i : Fin 2} {w : BitVec 1024} {n : Nat}

/-- What a command that finds a failed test does, below the cut-offs of R182 and R183. -/
def failsTest (s : State) (i : Fin 2) (cmd : Instr) (apt : Bool) : Prop :=
  let c := s.chip
  let b := c.brine i.val
  let other := c.brine (1 - i.val)
  b.consec + 1 < 3 ∨ other.consec < 3 → b.consec < 15 → b.degradedSaid = true ∨ b.consec + 1 < 3 → c.srcState i.val ≠ 3 → c.logs →
    completes cmd s fun d =>
      d.brine i.val = { b with
        consec := b.consec + 1, running := false, restarting := true, startTest := true, last := none, run := 0 } ∧
      d.brine (1 - i.val) = other ∧ d.getF (if apt then F.ENT_SRC_STAT_apt_fail else F.ENT_SRC_STAT_rct_fail) [i.val] = 1 ∧
      d.getF F.ENT_STAT_health [] = 1 ∧
      c.logged d [⟨Ev.ENT_HEALTH, 0x0C8, [(4, i.val), (4, b2n apt + 2 * b2n b.startTest), (4, b.consec + 1)], false⟩]

theorem Chip.bothDegraded_iff (c : Chip) (i : Fin 2) :
    c.bothDegraded = (decide (3 ≤ (c.brine i.val).consec) && decide (3 ≤ (c.brine (1 - i.val)).consec)) := by
  match i with
  | 0 => rfl
  | 1 => exact Bool.and_comm _ _

theorem failsTest_of {cmd : Instr} {f : Chip → Chip} {apt : Bool} (hexec : exec cmd s = lift f s)
    (hf : f s.chip = s.chip.windowFail i.val w n) (hrun : (s.chip.brine i.val).running = true)
    (hjudge : (s.chip.brine i.val).judge w n = some apt) : failsTest s i cmd apt := by
  intro hfew hlow hsaid hraw hlogs
  obtain ⟨hb, ho, happ, hhealth, -, hevr, hvlt⟩ := s.chip.testFailed_spec i apt
  have hmin : min 15 ((s.chip.brine i.val).consec + 1) = (s.chip.brine i.val).consec + 1 := Nat.min_eq_right hlow
  have hsay : (decide (3 ≤ (s.chip.brine i.val).consec + 1) && !(s.chip.brine i.val).degradedSaid) = false := by
    rcases hsaid with h | h
    · rw [h, Bool.not_true, Bool.and_false]
    · rw [decide_eq_false (by omega), Bool.false_and]
  have hfailed : (s.chip.brine i.val).failedOnce = { s.chip.brine i.val with
      consec := (s.chip.brine i.val).consec + 1, running := false, restarting := true, startTest := true, last := none,
      run := 0 } := by
    simp only [Brine.failedOnce, hmin, hsay, Bool.or_false]
  obtain ⟨y, hy⟩ : ∃ y, s.chip.testFailed i.val apt = y := ⟨_, rfl⟩
  rw [hy] at hb ho happ hhealth hevr hvlt
  have hylogs : y.logs := by rwa [Chip.logs, hevr]
  obtain ⟨items, hitems⟩ : ∃ l : List (Nat × Nat),
    [(4, i.val), (4, b2n apt + 2 * b2n (s.chip.brine i.val).startTest), (4, (s.chip.brine i.val).consec + 1)] = l := ⟨_, rfl⟩
  obtain ⟨z, hz⟩ : ∃ z : Chip, { y with evr := { y.evr with
    intake := y.evr.intake ++ [⟨Ev.ENT_HEALTH, 0x0C8, items, false⟩] } } = z := ⟨_, rfl⟩
  have hhf : s.chip.healthFail i.val apt = z := by
    rw [Chip.healthFail_eq apt hrun, hmin, hsay, Chip.when_false, hy, hitems, Chip.raise_logs hylogs (by decide), hz]
  have hzbrine : z.brine i.val = (s.chip.brine i.val).failedOnce := by rw [← hz]; exact hb
  have hzother : z.brine (1 - i.val) = s.chip.brine (1 - i.val) := by rw [← hz]; exact ho
  have hboth : z.bothDegraded = false := by
    rw [z.bothDegraded_iff i, hzbrine, hzother, hfailed]
    rcases hfew with h | h
    · rw [decide_eq_false (show ¬ 3 ≤ (s.chip.brine i.val).consec + 1 by omega), Bool.false_and]
    · rw [decide_eq_false (by omega : ¬ 3 ≤ (s.chip.brine (1 - i.val)).consec), Bool.and_false]
  have hwin : s.chip.windowFail i.val w n = z := by
    simp only [Chip.windowFail, hjudge, hrun, Chip.when_true, Chip.divert, decide_eq_false hraw, Chip.when_false, Chip.healthTest, hhf,
      hboth]
  refine completes_eq hexec (hf.trans hwin) ⟨hzbrine.trans hfailed, hzother, ?_, ?_, ?_⟩ (by rw [← hz, ← hvlt])
  · rw [← happ, ← hz]
    rfl
  · rw [← hhealth, ← hz]
    rfl
  · rw [Chip.logged, ← hz, ← hevr, hitems]

/-! ### A window that passes -/

theorem entropyBlockRelease_of (hrun : (s.chip.brine i.val).running = true) (htest : (s.chip.brine i.val).startTest = false)
    (hpass : (s.chip.brine i.val).judge w 1024 = none) : s.chip.windowEnd i.val w = s.chip.blockRelease i.val w := by
  simp [Chip.windowEnd, hrun, htest, hpass]

theorem entropyBlockRelease_seeds (hrun : (s.chip.brine i.val).running = true) (htest : (s.chip.brine i.val).startTest = false)
    (hpass : (s.chip.brine i.val).judge w 1024 = none) (hraw : s.chip.srcState i.val ≠ 3) :
    completes (.entropyBlockRelease i w) s fun d =>
      d.brine i.val = { (s.chip.brine i.val).took w with consec := 0, degradedSaid := false } ∧
      d.brine (1 - i.val) = s.chip.brine (1 - i.val) ∧
      d.ent.seed = s.chip.ent.seed ++ [condition (w.extractLsb' 0 512), condition (w.extractLsb' 512 512)] ∧
      d.ent.drbg = s.chip.ent.drbg ∧ d.ent.raw = s.chip.ent.raw := by
  obtain ⟨b, hb⟩ : ∃ b : Brine, { (s.chip.brine i.val).took w with consec := 0, degradedSaid := false } = b := ⟨_, rfl⟩
  obtain ⟨y, hy⟩ : ∃ y, s.chip.setBrine i.val b = y := ⟨_, rfl⟩
  obtain ⟨l, hl⟩ : ∃ l, [condition (w.extractLsb' 0 512), condition (w.extractLsb' 512 512)] = l := ⟨_, rfl⟩
  have hrel := entropyBlockRelease_of hrun htest hpass
  simp only [Chip.blockRelease, if_neg hraw, hb, hy, hl] at hrel
  have hent := s.chip.setBrine_ent i.val b
  rw [hy] at hent
  simp only [hb, hl]
  refine completes_eq (f := fun c => c.windowEnd i.val w) rfl hrel ⟨?_, ?_, ?_, ?_, ?_⟩ (by rw [← hy]; rfl)
  · change y.brine i.val = b
    rw [← hy, Chip.brine_setBrine]
  · change y.brine (1 - i.val) = _
    rw [← hy, Chip.brine_setBrine_other]
  · change y.ent.seed ++ l = _
    rw [hent]
  · change y.ent.drbg = _
    rw [hent]
  · change y.ent.raw = _
    rw [hent]

theorem entropyBlockRelease_diverts (hrun : (s.chip.brine i.val).running = true) (htest : (s.chip.brine i.val).startTest = false)
    (hpass : (s.chip.brine i.val).judge w 1024 = none) (hraw : s.chip.srcState i.val = 3) :
    completes (.entropyBlockRelease i w) s fun d =>
      d.ent.raw = s.chip.ent.raw ++ ((List.range 32).map fun k => w.extractLsb' (32 * k) 32).take (64 - s.chip.ent.raw.length) ∧
      d.brine i.val = (s.chip.brine i.val).took w ∧ d.brine (1 - i.val) = s.chip.brine (1 - i.val) ∧
      d.ent.seed = s.chip.ent.seed ∧ d.ent.drbg = s.chip.ent.drbg ∧
      (32 < s.chip.ent.raw.length → d.getF F.ENT_RAW_CTL_overrun [] = 1) := by
  obtain ⟨ws, hws⟩ : ∃ ws, ((List.range 32).map fun k => w.extractLsb' (32 * k) 32) = ws := ⟨_, rfl⟩
  have hlen : ws.length = 32 := by rw [← hws, List.length_map, List.length_range]
  have hwords : windowWords w 1024 = ws := hws
  obtain ⟨hpush, hvlt, hover, -⟩ := s.chip.rawPush_spec ws
  obtain ⟨y, hy⟩ : ∃ y, s.chip.rawPush ws = y := ⟨_, rfl⟩
  rw [hy] at hpush hvlt hover
  have hrel := entropyBlockRelease_of hrun htest hpass
  simp only [Chip.blockRelease, if_pos hraw, Chip.divert, decide_eq_true hraw, Chip.when_true, hwords, hy] at hrel
  have hent := y.setBrine_ent i.val ((s.chip.brine i.val).took w)
  simp only [hws]
  refine completes_eq (f := fun c => c.windowEnd i.val w) rfl hrel ⟨?_, ?_, ?_, ?_, ?_, fun hfull => ?_⟩
    (by rw [Chip.setBrine_vlt, hvlt])
  · rw [hent, hpush]
  · rw [Chip.brine_setBrine]
  · rw [Chip.brine_setBrine_other]
    simp only [Chip.brine, hpush]
  · rw [hent, hpush]
  · rw [hent, hpush]
  · rw [Chip.getF_setBrine]
    · exact hover (by omega)
    · simp only [Fld.key, F.ENT_RAW_CTL_overrun, F.ENT_SRC_STAT_consec, dotStrides]; omega

theorem sourceStartupTestEnd_passes (hrun : (s.chip.brine i.val).running = true) (htest : (s.chip.brine i.val).startTest = true)
    (hpass : (s.chip.brine i.val).judge w 1024 = none) : completes (.sourceStartupTestEnd i w) s fun d =>
      d.brine i.val = { (s.chip.brine i.val).took w with startTest := false } ∧
      d.brine (1 - i.val) = s.chip.brine (1 - i.val) ∧ d.ent.seed = s.chip.ent.seed := by
  obtain ⟨y, hy⟩ : ∃ y, s.chip.divert i.val w 1024 = y := ⟨_, rfl⟩
  obtain ⟨hyseed, hyother, hyvlt⟩ : y.ent.seed = s.chip.ent.seed ∧ y.brine (1 - i.val) = s.chip.brine (1 - i.val) ∧ y.vlt = s.chip.vlt := by
    obtain ⟨hpush, hvlt, -⟩ := s.chip.rawPush_spec (windowWords w 1024)
    rw [← hy, Chip.divert]
    exact Chip.when_induct (P := fun y => y.ent.seed = s.chip.ent.seed ∧ y.brine (1 - i.val) = s.chip.brine (1 - i.val) ∧ y.vlt = s.chip.vlt)
      _ ⟨rfl, rfl, rfl⟩ fun _ => ⟨by rw [hpush], by simp only [Chip.brine, hpush], hvlt⟩
  obtain ⟨b, hb⟩ : ∃ b : Brine, { (s.chip.brine i.val).took w with startTest := false } = b := ⟨_, rfl⟩
  have hend : (if (s.chip.brine i.val).startTest then
      if ((s.chip.brine i.val).judge w 1024).isSome then s.chip.windowFail i.val w 1024 else s.chip.startTestPass i.val w
    else s.chip) = y.setBrine i.val b := by
    rw [if_pos htest, hpass, if_neg (by decide), Chip.startTestPass]
    simp only [hrun, htest, Bool.and_self, if_true, hy, hb]
  simp only [hb]
  refine completes_eq (f := fun c => if (c.brine i.val).startTest then
      if ((c.brine i.val).judge w 1024).isSome then c.windowFail i.val w 1024 else c.startTestPass i.val w else c)
    rfl hend ⟨Chip.brine_setBrine _ _ _, ?_, ?_⟩ (by rw [Chip.setBrine_vlt, hyvlt])
  · rw [Chip.brine_setBrine_other, hyother]
  · rw [Chip.setBrine_ent, hyseed]

theorem sourceRestart_completes (hrestart : (s.chip.brine i.val).restarting = true) : completes (.sourceRestart i) s fun d =>
    d.brine i.val = { s.chip.brine i.val with running := true, restarting := false } ∧
    d.brine (1 - i.val) = s.chip.brine (1 - i.val) ∧ d.getF (entRestart i.val) [] = 0 := by
  obtain ⟨b, hb⟩ : ∃ b : Brine, { s.chip.brine i.val with running := true, restarting := false } = b := ⟨_, rfl⟩
  obtain ⟨y, hy⟩ : ∃ y, s.chip.setBrine i.val b = y := ⟨_, rfl⟩
  have hstart : s.chip.sourceRestart i.val = y.setF (entRestart i.val) [] 0 := by
    simp only [Chip.sourceRestart, hrestart, if_true, hb, hy]
  simp only [hb]
  refine completes_eq (f := fun c => c.sourceRestart i.val) rfl hstart ⟨?_, ?_, ?_⟩ (by rw [← hy]; rfl)
  · change y.brine i.val = b
    rw [← hy, Chip.brine_setBrine]
  · change y.brine (1 - i.val) = _
    rw [← hy, Chip.brine_setBrine_other]
  · have hw : (entRestart i.val).w = 1 := by
      rw [entRestart]
      split_ifs <;> rfl
    rw [Chip.getF_setF_same _ _ _ _ (by rw [hw]; decide), Nat.zero_mod]

end

end Sys2Proof.Machine

/-! PROOFS. The failure of the generator (R183, R184, R189). -/
namespace Sys2Proof.Machine

/-! ### A generator that has failed -/

/-- The generator of `d` has failed and holds nothing, and `d` has the ownership slots of `c`. -/
structure Chip.deadOf (c d : Chip) : Prop where
  failed : d.getF F.ENT_STAT_failed [] = 1
  drbg : d.ent.drbg = none
  seed : d.ent.seed = []
  waiting : d.ent.waiting = []
  owners : d.vlt.owners = c.vlt.owners

namespace Chip.deadOf

variable {a c d : Chip}

section
variable (h : a.deadOf c)
include h

theorem of_same (hregs : d.regs = c.regs) (hent : d.ent = c.ent) (hvlt : d.vlt = c.vlt) : a.deadOf d :=
  ⟨by rw [Chip.getF_congr hregs, h.failed], by rw [hent, h.drbg], by rw [hent, h.seed], by rw [hent, h.waiting], by rw [hvlt, h.owners]⟩

theorem setF {f : Fld} {i : List Nat} (v : Nat) (hne : F.ENT_STAT_failed.key [] ≠ f.key i) : a.deadOf (c.setF f i v) := by
  refine ⟨?_, h.drbg, h.seed, h.waiting, h.owners⟩
  rw [← h.failed, Chip.getF, Chip.getF, Chip.setF_regs, SMap.get_set_other hne]

theorem loses (g : c.loses d) : a.deadOf d := by
  have hent : d.ent = c.ent := by rw [g.frame]
  exact ⟨(g.getF (by decide)).trans h.failed, by rw [hent, h.drbg], by rw [hent, h.seed], by rw [hent, h.waiting],
    by rw [g.frame]; exact h.owners⟩

theorem raise {code : Nat} (hcode : code < 0x3000) (src : Nat) (items : List (Nat × Nat)) : a.deadOf (c.raise code src items) :=
  h.loses ((Chip.loses.refl c).raise hcode src items)

theorem modCtl (f : ModeCtl → ModeCtl) : a.deadOf (c.modCtl f) := h.of_same rfl rfl rfl
theorem modSu (f : StartUp → StartUp) : a.deadOf (c.modSu f) := h.of_same rfl rfl rfl
theorem modPnl (f : Panel → Panel) : a.deadOf (c.modPnl f) := h.of_same rfl rfl rfl
theorem modPath (f : Paths → Paths) : a.deadOf (c.modPath f) := h.of_same rfl rfl rfl
theorem modPan (f : Pans → Pans) : a.deadOf (c.modPan f) := h.of_same rfl rfl rfl
theorem modEng (f : Engines → Engines) : a.deadOf (c.modEng f) := h.of_same rfl rfl rfl
theorem modOrd (f : OrdEng → OrdEng) : a.deadOf (c.modOrd f) := h.of_same rfl rfl rfl
theorem modPrs (f : PairStack → PairStack) : a.deadOf (c.modPrs f) := h.of_same rfl rfl rfl
theorem modSrd (f : Lanes → Lanes) : a.deadOf (c.modSrd f) := h.of_same rfl rfl rfl
theorem modFwd (f : Forwarding → Forwarding) : a.deadOf (c.modFwd f) := h.of_same rfl rfl rfl
theorem modHif (f : HostIf → HostIf) : a.deadOf (c.modHif f) := h.of_same rfl rfl rfl
theorem emit (o : Output) : a.deadOf (c.emit o) := h.of_same rfl rfl rfl

theorem ringComplete (r : Nat) (entry : Bytes) : a.deadOf (c.ringComplete r entry) :=
  h.loses ((Chip.loses.refl c).ringComplete r entry)

theorem randDrop (p : RandReq → Bool) : a.deadOf (c.randDrop p) :=
  ⟨h.failed, h.drbg, h.seed, by rw [Chip.randDrop, Chip.modEnt_ent, h.waiting]; rfl, h.owners⟩

theorem each {α : Type} {f : Chip → α → Chip} (l : List α) (hf : ∀ d x, a.deadOf d → a.deadOf (f d x)) : a.deadOf (c.each l f) :=
  Chip.each_induct l h fun d x hd => hf d x hd

theorem when {f : Chip → Chip} (hf : ∀ d, a.deadOf d → a.deadOf (f d)) (b : Bool) : a.deadOf (c.when b f) :=
  Chip.when_induct b h (hf c)

theorem setBrine (k : Nat) (b : Brine) : a.deadOf (c.setBrine k b) := by
  have hent := c.setBrine_ent k b
  have hne : F.ENT_STAT_failed.key [] ≠ F.ENT_SRC_STAT_consec.key [k] := by
    simp only [Fld.key, F.ENT_STAT_failed, F.ENT_SRC_STAT_consec, dotStrides]; omega
  exact ⟨(Chip.getF_setBrine c k b hne).trans h.failed, by rw [hent, h.drbg], by rw [hent, h.seed], by rw [hent, h.waiting], h.owners⟩

/-! ### Threads and order blocks -/

theorem freeThread (k reason : Nat) : a.deadOf (c.freeThread k reason) := by
  have hend : a.deadOf (c.endThread k) := by
    simp only [Chip.endThread]
    exact h.modEng _
  exact hend.when (fun _ hd => hd.loses ((Chip.loses.refl _).dropFrame _ _)) _

theorem loseD2 : a.deadOf c.loseD2 := by
  refine (h.each _ fun _ _ hd => hd.freeThread _ _).each _ fun _ _ hd => ((hd.setF _ ?_).setF _ ?_).setF _ ?_ <;>
    simp only [Fld.key, F.ENT_STAT_failed, F.LAD_DBG_CTL_bp_en, F.LAD_DBG_CTL_halted, F.LAD_DBG_BP_addr, dotStrides] <;> omega

theorem dbgRejudge : a.deadOf c.dbgRejudge := by
  simp only [Chip.dbgRejudge]
  exact ite_cases (P := a.deadOf) h (((h.modCtl _).raise (by decide) _ _).when (fun _ hd => hd.loseD2) _)

theorem linkSend (port kind : Nat) (clear body : Bytes) : a.deadOf (c.linkSend port kind clear body) := by
  simp only [Chip.linkSend]
  split
  · exact h
  · exact ite_cases (P := a.deadOf) h ((h.modPrs _).emit _)

theorem blockDone (status detail index ret : Nat) : a.deadOf (c.blockDone status detail index ret) := by
  simp only [Chip.blockDone]
  split_ifs
  · exact (((h.modOrd _).modOrd _).setF _ (by decide)).linkSend _ _ _ _
  · exact (((h.modOrd _).modOrd _).setF _ (by decide)).modHif _
  · exact (((h.modOrd _).modOrd _).setF _ (by decide)).ringComplete _ _

theorem nextRecord : a.deadOf c.nextRecord := by
  simp only [Chip.nextRecord]
  split_ifs
  · exact h.blockDone _ _ _ _
  · exact h
  · exact h.blockDone _ _ _ _

theorem recordDone (r : OrdRes) : a.deadOf (c.recordDone r) := by
  simp only [Chip.recordDone]
  split_ifs
  · exact h.blockDone _ _ _ _
  · exact (h.modOrd _).nextRecord

theorem callDone (k : Nat) (r : OrdRes) : a.deadOf (c.callDone k r) := by
  simp only [Chip.callDone]
  split_ifs
  · exact h.modOrd _
  · exact (h.modOrd _).modEng _

theorem finishOrder (r : OrdRes) : a.deadOf (c.finishOrder r) := by
  simp only [Chip.finishOrder]
  split
  · exact (h.modOrd _).callDone _ _
  · split_ifs
    · exact (h.modOrd _).recordDone _
    · exact (h.modOrd _).modOrd _

/-! ### The requests that wait, and the change of mode that answers -/

theorem randFailed (r : RandReq) : a.deadOf (c.randFailed r) := by
  simp only [Chip.randFailed]
  split
  · exact h
  · exact h.when (fun _ hd => hd.modPrs _) _
  · exact h.modPath _
  · have hprog : a.deadOf (c.modVlt fun v => { v with programming := none }) := ⟨h.failed, h.drbg, h.seed, h.waiting, h.owners⟩
    exact (hprog.raise (by decide) _ _).finishOrder _
  all_goals exact h.finishOrder _

theorem dropPending : a.deadOf c.dropPending := by
  simp only [Chip.dropPending]
  refine ite_cases (P := a.deadOf) h ?_
  have hraised := (((h.modCtl fun k => { k with pendingMode := none }).setF (f := F.MOD_REFUSE_CNT_count) (i := [])
    (min (2 ^ F.MOD_REFUSE_CNT_count.w - 1) ((c.modCtl fun k => { k with pendingMode := none }).getF F.MOD_REFUSE_CNT_count [] + 1))
    (by decide)).raise (code := Ev.MODE_REFUSED) (by decide) 0x001 []).modOrd fun o => { o with ended := none }
  refine ite_cases (P := a.deadOf) ?_ (hraised.finishOrder _)
  exact (hraised.modEng _).blockDone _ _ _ _

theorem hostRandMode : a.deadOf c.hostRandMode := by
  simp only [Chip.hostRandMode]
  exact ite_cases (P := a.deadOf) ((h.randDrop _).finishOrder _) h

theorem laMode : a.deadOf c.laMode := (h.modPath _).randDrop _

theorem lock (i v : Nat) : a.deadOf (c.setF F.SRD_LANE_STAT_lock [i] v) :=
  h.setF v (by simp only [Fld.key, F.ENT_STAT_failed, F.SRD_LANE_STAT_lock, dotStrides]; omega)

theorem lanesResume : a.deadOf c.lanesResume := (h.modSrd _).each _ fun _ _ hd => hd.lock _ _

theorem lanesRest : a.deadOf c.lanesRest :=
  ((h.each _ fun d _ hd => hd.loses ((Chip.loses.refl d).portDown _ _ _)).modSrd _).each _ fun _ _ hd => hd.lock _ _

theorem lanesNormal : a.deadOf c.lanesNormal := by
  refine h.each _ fun d l hd => ((((hd.setF 0 ?_).setF 0 ?_).setF 0 ?_).setF 0 ?_).setF 0 ?_ <;>
    simp only [Fld.key, F.ENT_STAT_failed, F.SRD_LANE_CTL_tx_sleep, F.SRD_LANE_CTL_rx_sleep, F.SRD_LANE_CTL_lpbk,
      F.SRD_PRBS_CFG_gen, F.SRD_PRBS_CFG_chk, dotStrides] <;> omega

theorem entResume : a.deadOf c.entResume := by
  simp only [Chip.entResume]
  exact ite_cases (P := a.deadOf) ((h.setBrine _ _).setBrine _ _) h

theorem entRest : a.deadOf c.entRest := (((h.setBrine _ _).setBrine _ _).setF _ (by decide)).setF _ (by decide)

/-- A change of mode brings a failed generator nothing. -/
theorem enterMode (new : Mode) (cause : Nat) : a.deadOf (c.enterMode new cause) := by
  obtain ⟨y, hy⟩ : ∃ y, c.when (cause ≠ 0) Chip.dropPending = y := ⟨_, rfl⟩
  have hyd : a.deadOf y := hy ▸ h.when (fun _ hd => hd.dropPending) _
  simp only [Chip.enterMode, hy]
  refine Chip.deadOf.dbgRejudge ?_
  refine Chip.deadOf.when ?_ (fun _ hd => hd.modPan _) _
  refine Chip.deadOf.when ?_ (fun _ hd => hd.hostRandMode) _
  refine Chip.deadOf.when ?_ (fun _ hd => hd.laMode) _
  refine Chip.deadOf.when ?_ (fun _ hd => hd.each _ fun _ _ hd => hd.freeThread _ _) _
  refine Chip.deadOf.when ?_ (fun _ hd => hd.modFwd _) _
  refine Chip.deadOf.when ?_ (fun _ hd => hd.entRest.lanesRest) _
  refine Chip.deadOf.when ?_ (fun _ hd => hd.entResume.lanesResume) _
  refine Chip.deadOf.when ?_ (fun _ hd => hd.lanesNormal) _
  refine Chip.deadOf.modPrs (Chip.deadOf.setF (Chip.deadOf.modPnl (Chip.deadOf.modSu (Chip.deadOf.raise ?_ (by decide) _ _) _) _) _
    (by decide)) _
  exact ((((hyd.modCtl _).setF _ (by decide)).setF _ (by decide)).setF _ (by decide)).setF _ (by decide)

/-- A response that is not a zeroization. -/
theorem respond {resp : Nat} (hresp : resp ≠ 4) (source : Nat) : a.deadOf (c.respond resp source).2 := by
  have hsay : a.deadOf ((c.setF F.FLT_LAST_resp [] resp).setF F.FLT_LAST_source [] source) :=
    (h.setF _ (by decide)).setF _ (by decide)
  have hlock : ∀ d, a.deadOf d → a.deadOf (d.enterMode .lockdown 4) := fun d hd => hd.enterMode _ _
  obtain ⟨y, hy⟩ : ∃ y, (c.setF F.FLT_LAST_resp [] resp).setF F.FLT_LAST_source [] source = y := ⟨_, rfl⟩
  rw [hy] at hsay
  obtain ⟨z, hz⟩ : ∃ z, c.modCtl (fun k => { k with heldLockdown := some source }) = z := ⟨_, rfl⟩
  have hheld : a.deadOf z := hz ▸ h.modCtl _
  obtain ⟨l, hl⟩ : ∃ l, y.enterMode .lockdown 4 = l := ⟨_, rfl⟩
  have hlocked : a.deadOf l := hl ▸ hlock y hsay
  simp only [Chip.respond, if_neg hresp, hy, hz, hl]
  split_ifs <;> assumption

end

end Chip.deadOf

/-- R183: what is left of a generator that fails. -/
theorem Chip.generatorFail_spec {c : Chip} (h : c.entFailed = false) : c.deadOf c.generatorFail := by
  have hcleared : c.deadOf (((c.setF F.ENT_STAT_failed [] 1).entClear).randDrop fun _ => true) := by
    refine ⟨?_, rfl, rfl, ?_, rfl⟩
    · have hclear : ((c.setF F.ENT_STAT_failed [] 1).entClear).getF F.ENT_STAT_failed [] = 1 := by
        rw [Chip.entClear, Chip.getF_setF_other _ _ (by decide) (by decide)]
        exact Chip.getF_setF_same c F.ENT_STAT_failed [] 1 (by decide)
      exact hclear
    · simp [Chip.randDrop]
  simp only [Chip.generatorFail, h, Bool.false_eq_true, if_false]
  refine Chip.deadOf.raise (Chip.deadOf.respond (hcleared.each _ fun _ _ hd => hd.randFailed _) ?_ _) (by decide) _ _
  split_ifs <;> decide

section
variable {s : State} {i : Fin 2} {w : BitVec 1024} {n : Fin 1025}

theorem Chip.deadOf.entFailed {c d : Chip} (h : c.deadOf d) : d.entFailed = true := by
  rw [Chip.entFailed, Chip.getB_of h.failed]
  rfl

/-- The third failure of both sources is the generator's. -/
theorem healthTestFail_fatal (hrun : (s.chip.brine i.val).running = true) (hjudge : (s.chip.brine i.val).judge w n.val ≠ none)
    (hb : 2 ≤ (s.chip.brine i.val).consec) (ho : 3 ≤ (s.chip.brine (1 - i.val)).consec)
    (hent : s.chip.entFailed = false) : completes (.healthTestFail i ⟨n, w⟩) s fun d =>
      d.entFailed = true ∧ d.ent.drbg = none ∧ d.ent.seed = [] ∧ d.ent.waiting = [] := by
  obtain ⟨apt, hapt⟩ := Option.ne_none_iff_exists'.1 hjudge
  obtain ⟨y, hy⟩ : ∃ y, s.chip.divert i.val w n.val = y := ⟨_, rfl⟩
  obtain ⟨hybrine, hyother, hyfail, hyvlt⟩ : y.brine i.val = s.chip.brine i.val ∧ y.brine (1 - i.val) = s.chip.brine (1 - i.val) ∧
      y.getF F.ENT_STAT_failed [] = s.chip.getF F.ENT_STAT_failed [] ∧ y.vlt = s.chip.vlt := by
    obtain ⟨hpush, hvlt, -, hfail⟩ := s.chip.rawPush_spec (windowWords w n.val)
    rw [← hy, Chip.divert]
    exact Chip.when_induct (P := fun y => y.brine i.val = s.chip.brine i.val ∧ y.brine (1 - i.val) = s.chip.brine (1 - i.val) ∧
      y.getF F.ENT_STAT_failed [] = s.chip.getF F.ENT_STAT_failed [] ∧ y.vlt = s.chip.vlt)
      _ ⟨rfl, rfl, rfl, rfl⟩ fun _ => ⟨by simp only [Chip.brine, hpush], by simp only [Chip.brine, hpush], hfail, hvlt⟩
  obtain ⟨hzbrine, hzother, hzfail, hzvlt⟩ := Chip.healthFail_spec (c := y) (i := i) apt (by rw [hybrine]; exact hrun)
  obtain ⟨z, hz⟩ : ∃ z, y.healthFail i.val apt = z := ⟨_, rfl⟩
  rw [hz] at hzbrine hzother hzfail hzvlt
  have hboth : z.bothDegraded = true := by
    have hthree : 3 ≤ min 15 ((s.chip.brine i.val).consec + 1) := by omega
    rw [z.bothDegraded_iff i, hzbrine, hzother, hybrine, hyother]
    exact Bool.and_eq_true_iff.2 ⟨decide_eq_true hthree, decide_eq_true ho⟩
  have hzent : z.entFailed = false := by
    rw [← hent]
    simp only [Chip.entFailed, Chip.getB, hzfail, hyfail]
  have hwin : s.chip.windowFail i.val w n.val = z.generatorFail := by
    simp only [Chip.windowFail, hapt, hrun, Chip.when_true, hy, Chip.healthTest, hz, hboth]
  have hdead := Chip.generatorFail_spec hzent
  exact completes_eq (f := fun c => c.windowFail i.val w n.val) rfl hwin ⟨hdead.entFailed, hdead.drbg, hdead.seed, hdead.waiting⟩
    (by rw [hdead.owners, hzvlt, hyvlt])

theorem drbgKatEnd_completes (hstart : s.chip.ent.started = true) (hkat : s.chip.ent.katOk = false) :
    (completes (.drbgKatEnd true) s fun d => d = { s.chip with ent := { s.chip.ent with katOk := true } }) ∧
    (s.chip.entFailed = false → completes (.drbgKatEnd false) s fun d => d.entFailed = true ∧ d.ent.drbg = none) := by
  have hof : ∀ pass, s.chip.drbgKat pass =
      if pass then s.chip.modEnt fun e => { e with katOk := true } else s.chip.generatorFail := fun pass => by
    simp [Chip.drbgKat, hstart, hkat]
  refine ⟨completes_eq (f := fun c => c.drbgKat true) rfl (hof true) rfl rfl, fun hent => ?_⟩
  have hdead := Chip.generatorFail_spec hent
  exact completes_eq (f := fun c => c.drbgKat false) rfl (hof false) ⟨hdead.entFailed, hdead.drbg⟩ hdead.owners

end

/-- Settles O39. -/
theorem entropySources : Obligations.EntropySources := by
  unfold Obligations.EntropySources
  intro s i w n
  refine ⟨fun ⟨k, hk, hrep⟩ => Brine.judge_repeats _ _ hk hrep, Brine.judge_often _ _, entropyBlockRelease_seeds,
    entropyBlockRelease_diverts, fun apt hrun hjudge => ?_, fun apt hrun htest hjudge => ?_, fun apt hrun htest hjudge => ?_,
    fun hrun hjudge hb _ ho hent => healthTestFail_fatal hrun hjudge hb ho hent, sourceStartupTestEnd_passes,
    sourceRestart_completes, drbgKatEnd_completes⟩
  · exact failsTest_of (f := fun c => c.windowFail i.val w n.val) rfl rfl hrun hjudge
  · refine failsTest_of (f := fun c => c.windowEnd i.val w) rfl ?_ hrun hjudge
    simp [Chip.windowEnd, hrun, htest, hjudge]
  · refine failsTest_of (f := fun c => if (c.brine i.val).startTest then
      if ((c.brine i.val).judge w 1024).isSome then c.windowFail i.val w 1024 else c.startTestPass i.val w else c) rfl ?_ hrun hjudge
    simp [htest, hjudge]

end Sys2Proof.Machine

/-! PROOFS. The generator: its seeds, its blocks and GET_RANDOM (R184 to R190). -/
namespace Sys2Proof.Machine

section
variable {s : State} {st : BitVec 384}

/-! ### Seeds -/

section
variable {a b d' : BitVec 128} {rest : List (BitVec 128)} (hseed : s.chip.ent.seed = a :: b :: d' :: rest)
include hseed

theorem Chip.seedInput_of : s.chip.seedInput = a ++ b ++ d' := by simp only [Chip.seedInput, hseed]

theorem three_le_seed : 3 ≤ s.chip.ent.seed.length := by
  rw [hseed]
  simp only [List.length_cons]
  omega

theorem drop_seed : s.chip.ent.seed.drop 3 = rest := by
  rw [hseed]
  rfl

theorem drbgInstantiate_completes (hkat : s.chip.ent.katOk = true) (hdrbg : s.chip.ent.drbg = none)
    (hent : s.chip.entFailed = false) (hlogs : s.chip.logs) : completes .drbgInstantiate s fun d =>
      d.ent = { s.chip.ent with
        drbg := some (drbgUpdate 0 ((a ++ b ++ d') ^^^ (Config.deviceId ++ (0 : BitVec 320)))), seed := rest, calls := 0,
        fifoNext := 512 } ∧
      d.getF F.ENT_STAT_ready [] = 1 ∧ d.getF F.ENT_STAT_stale [] = 0 ∧
      s.chip.logged d [⟨Ev.ENT_READY, 0x0C8, [], false⟩] := by
  obtain ⟨st, hst⟩ : ∃ st, drbgUpdate 0 ((a ++ b ++ d') ^^^ (Config.deviceId ++ (0 : BitVec 320))) = st := ⟨_, rfl⟩
  obtain ⟨y, hy⟩ : ∃ y, s.chip.modEnt (fun e => { e with drbg := some st, seed := e.seed.drop 3, calls := 0, fifoNext := 512 }) = y :=
    ⟨_, rfl⟩
  have hyent : y.ent = { s.chip.ent with drbg := some st, seed := rest, calls := 0, fifoNext := 512 } := by
    rw [← hy, Chip.modEnt_ent, drop_seed hseed]
  have hylogs : ((y.setF F.ENT_STAT_ready [] 1).setF F.ENT_STAT_stale [] 0).logs := by rw [← hy]; exact hlogs
  have hinst : s.chip.instantiate = ((y.setF F.ENT_STAT_ready [] 1).setF F.ENT_STAT_stale [] 0).raise Ev.ENT_READY 0x0C8 := by
    rw [Chip.instantiate, if_pos (by simp [hkat, hdrbg, hent, three_le_seed hseed]), Chip.seedInput_of hseed]
    simp only [hst, hy]
  rw [Chip.raise_logs hylogs (by decide)] at hinst
  simp only [hst]
  refine completes_eq (f := Chip.instantiate) rfl hinst ⟨hyent, ?_, ?_, ?_⟩ (by rw [← hy]; rfl)
  · exact (Chip.getF_setF_other (y.setF F.ENT_STAT_ready [] 1) (f := F.ENT_STAT_stale) (i := []) 0 (by decide) (by decide)).trans
      (Chip.getF_setF_same y F.ENT_STAT_ready [] 1 (by decide))
  · exact Chip.getF_setF_same (y.setF F.ENT_STAT_ready [] 1) F.ENT_STAT_stale [] 0 (by decide)
  · rw [Chip.logged, ← hy]
    rfl

theorem drbgReseed_completes (hdrbg : s.chip.ent.drbg = some st) : completes .drbgReseed s fun d =>
    d.ent = { s.chip.ent with drbg := some (drbgUpdate st (a ++ b ++ d')), seed := rest, calls := 0 } ∧
    d.getF F.ENT_STAT_stale [] = 0 ∧ s.chip.bumped d F.ENT_RESEED_CNT_count [] := by
  obtain ⟨y, hy⟩ : ∃ y, s.chip.modEnt (fun e => { e with
    drbg := some (drbgUpdate st (a ++ b ++ d')), seed := e.seed.drop 3, calls := 0 }) = y := ⟨_, rfl⟩
  have hyent : y.ent = { s.chip.ent with drbg := some (drbgUpdate st (a ++ b ++ d')), seed := rest, calls := 0 } := by
    rw [← hy, Chip.modEnt_ent, drop_seed hseed]
  have hreseed : s.chip.reseed = (y.setF F.ENT_STAT_stale [] 0).bump F.ENT_RESEED_CNT_count [] := by
    simp only [Chip.reseed, hdrbg, if_pos (three_le_seed hseed), Chip.seedInput_of hseed, hy]
  refine completes_eq (f := Chip.reseed) rfl hreseed ⟨hyent, ?_, ?_⟩ (by rw [← hy]; rfl)
  · rw [Chip.bump, Chip.getF_setF_other _ _ (by decide) (by decide)]
    exact Chip.getF_setF_same y F.ENT_STAT_stale [] 0 (by decide)
  · have hbump := Chip.bumped_bump (y.setF F.ENT_STAT_stale [] 0) F.ENT_RESEED_CNT_count [] (by decide)
    have hkept : (y.setF F.ENT_STAT_stale [] 0).getF F.ENT_RESEED_CNT_count [] = s.chip.getF F.ENT_RESEED_CNT_count [] := by
      rw [Chip.getF_setF_other _ _ (by decide) (by decide), ← hy]
      rfl
    rwa [Chip.bumped, hkept] at hbump

end

theorem seedStale_completes (hdrbg : s.chip.ent.drbg = some st) (hcalls : s.chip.ent.calls = 2 ^ 20)
    (hstale : s.chip.getB F.ENT_STAT_stale [] = false) (hseed : s.chip.ent.seed.length < 3) (hlogs : s.chip.logs) :
    completes .seedStale s fun d =>
      d.getF F.ENT_STAT_stale [] = 1 ∧ d.ent = s.chip.ent ∧ s.chip.logged d [⟨Ev.ENT_SEED_STALE, 0x0C8, [], false⟩] := by
  have hlogs' : (s.chip.setF F.ENT_STAT_stale [] 1).logs := hlogs
  have hof : s.chip.seedStale = (s.chip.setF F.ENT_STAT_stale [] 1).raise Ev.ENT_SEED_STALE 0x0C8 := by
    rw [Chip.seedStale, if_pos (by rw [decide_eq_true hcalls, hdrbg, hstale]; rfl), if_neg (by omega)]
  rw [Chip.raise_logs hlogs' (by decide)] at hof
  exact completes_eq (f := Chip.seedStale) rfl hof
    ⟨Chip.getF_setF_same s.chip F.ENT_STAT_stale [] 1 (by decide), rfl, rfl⟩ rfl

/-! ### Blocks -/

theorem drbgGenerate_completes (hdrbg : s.chip.ent.drbg = some st) (hnext : s.chip.ent.fifoNext = 512)
    (hcalls : s.chip.ent.calls < 2 ^ 20) (hstale : s.chip.getB F.ENT_STAT_stale [] = false) :
    completes .drbgGenerate s fun d =>
      d = { s.chip with
        ent := { s.chip.ent with
          fifoState := st, fifoNext := 0, drbg := some (drbgUpdate (drbgAdvance st 512) 0), calls := s.chip.ent.calls + 1 } } := by
  refine completes_eq (f := Chip.generate) rfl ?_ rfl rfl
  simp only [Chip.generate, hdrbg]
  exact if_pos (by rw [decide_eq_true hnext, decide_eq_true hcalls, hstale]; rfl)

/-! ### GET_RANDOM -/

section
variable {n : Word} {out : DWord}

theorem getRandom_awaits (hfree : s.chip.orderFree) (hmode : s.chip.inMode storeModes = true) (hone : 1 ≤ n.toNat)
    (hmax : n.toNat ≤ 4096) (hent : s.chip.entFailed = false) :
    completes (.getRandom n out) s fun d => d = s.chip.awaits 4 ((n.toNat + 15) / 16) (.host out.toNat n.toNat) := by
  refine completes_waiting (f := getRandom n out) (d := s.chip.awaits 4 ((n.toNat + 15) / 16) (.host out.toNat n.toNat)) rfl hfree
    ?_ rfl rfl
  rw [getRandom, inModes_of hmode]
  refine (if_neg (by simp; omega)).trans ((if_neg (by rw [hent]; decide)).trans ?_)
  rfl

variable {need : Nat} (hwait : s.chip.ent.waiting = [{ cls := 4, need := need, use := .host out.toNat n.toNat }])
include hwait

/-- The blocks that the FIFO holds for a request. -/
abbrev Chip.fifoTake (c : Chip) (k : Nat) : List (BitVec 128) :=
  (List.range k).map fun i => drbgBlock c.ent.fifoState (c.ent.fifoNext + i)

theorem Chip.nextRequest_host :
    nextRequest s.chip.ent.waiting = some { cls := 4, need := need, use := .host out.toNat n.toNat } := by
  rw [hwait]
  rfl

theorem randomRequestServe_writes (hneed : 1 ≤ need) (hroom : need + s.chip.ent.fifoNext ≤ 512) (hord : s.chip.ord.wait = .random)
    (hbusy : s.chip.ord.busy = false) (hcall : s.chip.ord.callReg = none) (hmode : s.chip.inMode storeModes = true)
    (hdma : s.chip.dmaAllowed 0 = true) : completes .randomRequestServe s fun d =>
      d.out = s.chip.out ++ [.hostWrite 0 out.toNat (slice ((s.chip.fifoTake need).flatMap fun x => beBytes 16 x.toNat) 0 n.toNat)] ∧
      d.ent = { s.chip.ent with waiting := [], fifoNext := s.chip.ent.fifoNext + need } ∧ d.ord.wait = .none ∧ d.ord.res = {} ∧
      d.regs = s.chip.regs := by
  obtain ⟨r, hr⟩ : ∃ r : RandReq, { cls := 4, need := need, use := .host out.toNat n.toNat } = r := ⟨_, rfl⟩
  have hnext := Chip.nextRequest_host hwait
  have hn : min (need - 0) s.chip.fifoBlocks = need := by
    simp only [Chip.fifoBlocks]
    omega
  obtain ⟨y, hy⟩ : ∃ y, ((s.chip.modEnt fun e => { e with fifoNext := e.fifoNext + need }).modEnt fun e => { e with waiting := [] }) = y :=
    ⟨_, rfl⟩
  obtain ⟨data, hdata⟩ : ∃ data, slice ((s.chip.fifoTake need).flatMap fun x => beBytes 16 x.toNat) 0 n.toNat = data := ⟨_, rfl⟩
  have hserve : s.chip.serveRandom = y.ordResume (randomWritten out.toNat n.toNat (s.chip.fifoTake need)) := by
    have hlen : ¬ (s.chip.fifoTake need).length < need := by simp
    have herase : s.chip.ent.waiting.erase { cls := 4, need := need, use := .host out.toNat n.toNat } = [] := by
      rw [hwait, List.erase_cons_head]
    simp only [Chip.serveRandom, hnext, List.length_nil, hn, if_neg (show ¬ need = 0 by omega), Chip.takeBlocks, List.nil_append,
      if_neg hlen, Chip.modEnt_ent, herase, hy, Chip.service]
  obtain ⟨z, hz⟩ : ∃ z, y.modOrd (fun o => { o with wait := .none }) = z := ⟨_, rfl⟩
  obtain ⟨u, hu⟩ : ∃ u, z.emit (.hostWrite 0 out.toNat data) = u := ⟨_, rfl⟩
  have hywait : y.ord.wait ≠ .none := by
    rw [← hy]
    simp [hord]
  have hzdma : z.dmaAllowed 0 = true := by rw [← hz, ← hy]; exact hdma
  have hzmode : z.inMode storeModes = true := by rw [← hz, ← hy]; exact hmode
  have hwritten : randomWritten out.toNat n.toNat (s.chip.fifoTake need) z = (u, some {}) := by
    rw [randomWritten, inModes_of hzmode, Chip.hostOut, Chip.dma_allowed hzdma, hdata, hu]
  have huq : u.ordQuiet := by
    rw [← hu, ← hz, ← hy]
    exact ⟨hbusy, rfl, hcall⟩
  have hres : s.chip.serveRandom = u.ended {} := by
    rw [hserve, Chip.ordResume, if_neg hywait, hz, hwritten]
    exact Chip.finishOrder_quiet huq {}
  rw [hdata]
  refine completes_eq (f := Chip.serveRandom) rfl hres ⟨?_, ?_, ?_, rfl, ?_⟩ ?_ <;>
  · rw [Chip.ended, ← hu, ← hz, ← hy]
    rfl

theorem randomRequestServe_takes (hsome : s.chip.ent.fifoNext < 512) (hmore : 512 < need + s.chip.ent.fifoNext) :
    completes .randomRequestServe s fun d => d = { s.chip with ent := { s.chip.ent with
      fifoNext := 512,
      waiting := [{ cls := 4, need := need, use := .host out.toNat n.toNat, got := s.chip.fifoTake (512 - s.chip.ent.fifoNext) }] } } := by
  have hnext := Chip.nextRequest_host hwait
  have hn : min (need - 0) s.chip.fifoBlocks = 512 - s.chip.ent.fifoNext := by
    simp only [Chip.fifoBlocks]
    omega
  have hlen : (s.chip.fifoTake (512 - s.chip.ent.fifoNext)).length < need := by
    simp only [List.length_map, List.length_range]
    omega
  have herase : s.chip.ent.waiting.erase { cls := 4, need := need, use := .host out.toNat n.toNat } = [] := by
    rw [hwait, List.erase_cons_head]
  refine completes_eq (f := Chip.serveRandom) rfl ?_ rfl rfl
  simp only [Chip.serveRandom, hnext, List.length_nil, hn, if_neg (show ¬ 512 - s.chip.ent.fifoNext = 0 by omega), Chip.takeBlocks,
    List.nil_append, if_pos hlen, herase, Chip.modEnt]
  rw [Nat.add_sub_cancel' (by omega)]

end

end

/-- Settles O40. -/
theorem randomGeneration : Obligations.RandomGeneration := by
  unfold Obligations.RandomGeneration
  intro s st n out
  exact ⟨fun a b d' rest hseed => ⟨drbgInstantiate_completes hseed, drbgReseed_completes hseed⟩, drbgGenerate_completes,
    seedStale_completes, getRandom_awaits, fun need hwait hneed => ⟨randomRequestServe_writes hwait hneed,
      randomRequestServe_takes hwait⟩⟩

end Sys2Proof.Machine

/-! PROOFS. The reception of frames (R30 to R35, R60). -/
namespace Sys2Proof.Machine

/-! ### Counters of a port -/

/-- Counters of a scheduler port rise in turn. -/
def Chip.portCounts (c : Chip) (s : Nat) (l : List (Nat × Nat)) : Chip := l.foldl (fun c x => c.portCount s x.1 x.2) c

theorem Chip.portCounts_frame (c : Chip) (s : Nat) (l : List (Nat × Nat)) :
    c.portCounts s l = { c with cnt := (c.portCounts s l).cnt } := by
  induction l generalizing c with
  | nil => rfl
  | cons x xs ih =>
    change (c.portCount s x.1 x.2).portCounts s xs = { c with cnt := ((c.portCount s x.1 x.2).portCounts s xs).cnt }
    rw [ih, Chip.portCount, Chip.count_eq]

theorem Chip.cntGet_portCounts (c : Chip) (s k : Nat) (l : List (Nat × Nat)) :
    (c.portCounts s l).cntGet false (s * 0x80 + k) =
      c.cntGet false (s * 0x80 + k) + BitVec.ofNat 64 ((l.filter (·.1 = k)).map (·.2)).sum := by
  induction l generalizing c with
  | nil => simp [Chip.portCounts]
  | cons x xs ih =>
    change ((c.portCount s x.1 x.2).portCounts s xs).cntGet false (s * 0x80 + k) = _
    rw [ih, Chip.portCount, Chip.cntGet_count]
    by_cases hx : x.1 = k
    · simp only [List.filter_cons, hx, decide_true, if_true, List.map_cons, List.sum_cons, and_self, BitVec.ofNat_add]
      rw [BitVec.add_assoc]
    · rw [if_neg (by omega), List.filter_cons_of_neg (by simpa using hx)]

/-- The counts of a frame that a client-protected line port may have received in clear. -/
def Chip.rxCounts (c : Chip) (p b : Nat) (d : Bytes) : List (Nat × Nat) :=
  [(0, 1), (1, d.length + 4)] ++ if c.macsecMode p b && be16 d 12 ≠ 0x88E5 then [(13, 1)] else []

theorem Chip.rxClear_rxCount (c : Chip) (p b : Nat) (d : Bytes) :
    (c.rxCount p b d).rxClear p b d = c.portCounts (schedOf p b) (c.rxCounts p b d) := by
  have hmode : (c.rxCount p b d).macsecMode p b = c.macsecMode p b := by
    have hregs : (c.rxCount p b d).regs = c.regs := by simp only [Chip.rxCount, Chip.portCount, Chip.count_regs]
    simp only [Chip.macsecMode, Chip.ingotMode, Chip.getF_congr hregs]
  obtain ⟨x, hx⟩ : ∃ x, (c.macsecMode p b && decide (be16 d 12 ≠ 0x88E5)) = x := ⟨_, rfl⟩
  simp only [Chip.rxClear, Chip.rxCounts, hmode, hx]
  cases x <;> rfl

/-! ### The frame that arrives -/

section
variable {s : State} {p : Fin 16} {b : Fin 4} {data : Bytes}

/-- The record of a received frame, before its bytes have lines. -/
abbrev Chip.arrives (c : Chip) (p b : Nat) (data : Bytes) : Frame := {
  data := data, entry := p, sub := b, ts := c.rxStamp p b (data.length + 4), tsValid := c.lanesCal p b,
  summary := parseSummary (data ++ fcs data) (c.hdrWin p b), len := data.length + 4,
  kid := if c.noKeys then none else some (c.getF F.MEM_FRAME_KID_kid []) }

/-- A frame that enters the part, with its number. -/
theorem Chip.frame_addFrame (c : Chip) (f : Frame) (k : Nat) :
    (c.addFrame f).2.frame k = if k = c.path.next then some f else c.frame k :=
  Chip.frame_setFrame c c.path.next k (some f)

/-- A frame in its pool: a new number, and the lines of its buffer. -/
theorem Chip.rxStore_spec (c : Chip) (f : Frame) :
    (((c.rxStore f).frame c.path.next).map (fun g => { g with die := [] }) = some { f with die := [] }) ∧
    (∀ k, k ≠ c.path.next → (c.rxStore f).frame k = c.frame k) ∧ (c.rxStore f).path.next = c.path.next + 1 ∧
    c.rxStore f = { c with path := (c.rxStore f).path, buf := (c.rxStore f).buf } := by
  obtain ⟨y, hy⟩ : ∃ y, (c.addFrame f).2 = y := ⟨_, rfl⟩
  have hyframe : ∀ k, y.frame k = if k = c.path.next then some f else c.frame k := fun k => by rw [← hy, Chip.frame_addFrame]
  have hsame : y.frame c.path.next = some f := by rw [hyframe, if_pos rfl]
  have hynext : y.path.next = c.path.next + 1 := by rw [← hy]; rfl
  have hyeq : y = { c with path := y.path, buf := y.buf } := by rw [← hy]; rfl
  have hstore : c.rxStore f = y.dieStore c.path.next := by rw [← hy]; rfl
  rcases f.kid.eq_none_or_eq_some with hkid | ⟨kid, hkid⟩
  · have hstay : c.rxStore f = y := by
      rw [hstore, Chip.dieStore, Chip.onFrame_some hsame]
      simp only [hkid]
    rw [hstay]
    exact ⟨by rw [hsame]; rfl, fun k hk => by rw [hyframe, if_neg hk], hynext, hyeq⟩
  · obtain ⟨l, z, hz⟩ : ∃ l z, y.dieWrite kid f.die f.stores = (l, z) := ⟨_, _, rfl⟩
    have hzpath : z.path = y.path := by
      have := congrArg (fun x => (Prod.snd x).path) hz
      exact this.symm
    have hzeq : z = { y with buf := z.buf } := by
      have hsnd : z = (y.dieWrite kid f.die f.stores).2 := by rw [hz]
      rw [hsnd]
      rfl
    have hstay : c.rxStore f = z.setFrame c.path.next (some { f with die := l }) := by
      rw [hstore, Chip.dieStore, Chip.onFrame_some hsame]
      simp only [hkid, hz]
    have hzframe : ∀ k, z.frame k = y.frame k := fun k => by simp only [Chip.frame, hzpath]
    rw [hstay]
    refine ⟨by rw [Chip.frame_setFrame_same]; rfl, fun k hk => ?_, ?_, ?_⟩
    · rw [Chip.frame_setFrame, if_neg hk, hzframe, hyframe, if_neg hk]
    · change z.path.next = _
      rw [hzpath, hynext]
    · have hpath : (z.setFrame c.path.next (some { f with die := l })) =
          { z with path := (z.setFrame c.path.next (some { f with die := l })).path } := rfl
      generalize (z.setFrame c.path.next (some { f with die := l })) = u at hpath ⊢
      rw [hpath, hzeq, hyeq]

/-- The room of an ingress pool. -/
theorem Chip.poolFull_of_room {c : Chip} {p b : Nat} (hkeys : c.noKeys = false)
    (hroom : c.poolUsed (schedOf p b) + 16032 ≤ c.getF F.PRT_SUB_CFG_pool [p, b] * 65536) : c.poolFull p b = false := by
  rw [Chip.poolFull, hkeys, decide_eq_false (by omega)]
  rfl

theorem Chip.poolFull_of_not_room {c : Chip} {p b : Nat}
    (hroom : ¬ c.poolUsed (schedOf p b) + 16032 ≤ c.getF F.PRT_SUB_CFG_pool [p, b] * 65536) : c.poolFull p b = true := by
  rw [Chip.poolFull, decide_eq_true (by omega)]
  rfl

section
variable (hrun : s.chip.running = true) (hup : s.chip.portUp p.val b.val = true)
  (hcoming : s.chip.comingFrame p.val b.val = none)
include hrun hup hcoming

theorem frameReceive_drops {ok : Bool} {reason : Nat} (hcheck : s.chip.macCheck p.val b.val data ok = reason)
    (hne : reason ≠ 0) : completes (.frameReceive p b data ⟨ok, false⟩) s fun d =>
      (∀ k, k < 0x80 → d.cntGet false (schedOf p.val b.val * 0x80 + k) = s.chip.cntGet false (schedOf p.val b.val * 0x80 + k) +
        BitVec.ofNat 64 (([(0x20 + (reason - 0x80), 1)].filter (·.1 = k)).map (·.2)).sum) ∧
      d = { s.chip with cnt := d.cnt } := by
  refine completes_eq (f := fun c => match c.comingFrame p.val b.val with
    | some (n, f) => if false then c else c.rxLast n f (if f.data.isEmpty then data else f.data) ok
    | none => if false then c.rxFirst p.val b.val data else c.receive p.val b.val data ok)
    (d := s.chip.portCounts (schedOf p.val b.val) [(0x20 + (reason - 0x80), 1)]) rfl ?_
    ⟨fun k _ => Chip.cntGet_portCounts _ _ _ _, Chip.portCounts_frame _ _ _⟩ ?_
  · simp only [hcoming, Bool.false_eq_true, if_false, Chip.receive, hrun, hup, Bool.and_self, Bool.not_true, hcheck, ne_eq, hne,
      not_false_eq_true, if_true]
    rfl
  · rw [Chip.portCounts_frame]

theorem frameReceive_enters (hroom : s.chip.poolUsed (schedOf p.val b.val) + 16032 ≤ s.chip.getF F.PRT_SUB_CFG_pool [p.val, b.val] * 65536)
    (hkeys : s.chip.noKeys = false) (hmin : 64 ≤ data.length + 4) (hmax : data.length + 4 ≤ s.chip.maxLen p.val b.val)
    (hctl : be16 data 12 ≠ 0x8808) : completes (.frameReceive p b data ⟨true, false⟩) s fun d =>
      (∀ k, k < 0x80 → d.cntGet false (schedOf p.val b.val * 0x80 + k) = s.chip.cntGet false (schedOf p.val b.val * 0x80 + k) +
        BitVec.ofNat 64 (((s.chip.rxCounts p.val b.val data).filter (·.1 = k)).map (·.2)).sum) ∧
      (d.frame s.chip.path.next).map (fun g => { g with die := [] }) = some (s.chip.arrives p.val b.val data) ∧
      (∀ k, k ≠ s.chip.path.next → d.frame k = s.chip.frame k) ∧ d.path.next = s.chip.path.next + 1 ∧ d.regs = s.chip.regs ∧
      d.evr = s.chip.evr := by
  obtain ⟨y, hy⟩ : ∃ y, s.chip.portCounts (schedOf p.val b.val) (s.chip.rxCounts p.val b.val data) = y := ⟨_, rfl⟩
  have hcounts := fun k => s.chip.cntGet_portCounts (schedOf p.val b.val) k (s.chip.rxCounts p.val b.val data)
  have hyeq := s.chip.portCounts_frame (schedOf p.val b.val) (s.chip.rxCounts p.val b.val data)
  rw [hy] at hyeq
  simp only [hy] at hcounts
  have hypath : y.path = s.chip.path := by rw [hyeq]
  have hrecord : (s.chip.rxCount p.val b.val data).rxFrame p.val b.val data = s.chip.arrives p.val b.val data := by
    simp only [Chip.rxCount, Chip.portCount]
    rw [Chip.count_eq, Chip.count_eq]
    rfl
  obtain ⟨hframe, hother, hnext, hkept⟩ := y.rxStore_spec (s.chip.arrives p.val b.val data)
  obtain ⟨d, hd⟩ : ∃ d, y.rxStore (s.chip.arrives p.val b.val data) = d := ⟨_, rfl⟩
  rw [hd] at hframe hother hnext hkept
  rw [hypath] at hframe hother hnext
  have hcheck : s.chip.macCheck p.val b.val data true = 0 := by
    simp only [Chip.macCheck, Bool.not_true, Bool.false_eq_true, if_false, if_neg (show ¬ data.length + 4 < 64 by omega),
      if_neg (show ¬ s.chip.maxLen p.val b.val < data.length + 4 by omega)]
  have hfull : (s.chip.rxCount p.val b.val data).poolFull p.val b.val = false := by
    rw [← s.chip.poolFull_of_room hkeys hroom]
    simp only [Chip.rxCount, Chip.portCount]
    rw [Chip.count_eq, Chip.count_eq]
    rfl
  refine completes_eq (f := fun c => match c.comingFrame p.val b.val with
    | some (n, f) => if false then c else c.rxLast n f (if f.data.isEmpty then data else f.data) true
    | none => if false then c.rxFirst p.val b.val data else c.receive p.val b.val data true) (d := d) rfl ?_
    ⟨fun k _ => ?_, ?_, fun k hk => ?_, hnext, by rw [hkept, hyeq], by rw [hkept, hyeq]⟩ (by rw [hkept, hyeq])
  · simp only [hcoming, Bool.false_eq_true, if_false, Chip.receive, hrun, hup, Bool.and_self, Bool.not_true, hcheck, ne_eq,
      not_true_eq_false, hctl, hfull, Chip.rxClear_rxCount, hy, hrecord, hd]
  · rw [← hcounts, hkept]
    rfl
  · exact hframe
  · rw [hother k hk]
    simp only [Chip.frame, hypath]

theorem frameReceive_first_enters {ok : Bool} (hroom : s.chip.poolUsed (schedOf p.val b.val) + 16032 ≤
      s.chip.getF F.PRT_SUB_CFG_pool [p.val, b.val] * 65536) (hkeys : s.chip.noKeys = false) :
    completes (.frameReceive p b data ⟨ok, true⟩) s fun d =>
      (d.frame s.chip.path.next).map (fun g => { g with die := [] }) = some { s.chip.arrives p.val b.val data with
        coming := true, ts := s.chip.rxStamp p.val b.val (min (s.chip.hdrWin p.val b.val) (data.length + 4)) } ∧
      (∀ k, k ≠ s.chip.path.next → d.frame k = s.chip.frame k) ∧ d.path.next = s.chip.path.next + 1 ∧
      d = { s.chip with path := d.path, buf := d.buf } := by
  obtain ⟨f, hf⟩ : ∃ f : Frame, { s.chip.arrives p.val b.val data with
    coming := true, ts := s.chip.rxStamp p.val b.val (min (s.chip.hdrWin p.val b.val) (data.length + 4)) } = f := ⟨_, rfl⟩
  obtain ⟨hframe, hother, hnext, hkept⟩ := s.chip.rxStore_spec f
  refine completes_eq (f := fun c => match c.comingFrame p.val b.val with
    | some (n, f) => if true then c else c.rxLast n f (if f.data.isEmpty then data else f.data) ok
    | none => if true then c.rxFirst p.val b.val data else c.receive p.val b.val data ok) (d := s.chip.rxStore f) rfl ?_
    ⟨?_, hother, hnext, hkept⟩ (by rw [hkept])
  · simp only [hcoming, if_true, Chip.rxFirst, hrun, hup, Bool.and_self, Bool.not_true, Bool.false_eq_true, if_false,
      s.chip.poolFull_of_room hkeys hroom, ← hf]
    rfl
  · rw [hframe, ← hf]

theorem frameReceive_first_full {ok : Bool} (hroom : ¬ s.chip.poolUsed (schedOf p.val b.val) + 16032 ≤
      s.chip.getF F.PRT_SUB_CFG_pool [p.val, b.val] * 65536) :
    completes (.frameReceive p b data ⟨ok, true⟩) s fun d =>
      (∀ k, d.frame k = if k = s.chip.path.next then some { s.chip.arrives p.val b.val data with
        coming := true, stage := .gone, lost := some 0x84, kid := none } else s.chip.frame k) ∧
      d = { s.chip with path := d.path } := by
  obtain ⟨f, hf⟩ : ∃ f : Frame, { s.chip.arrives p.val b.val data with
    coming := true, stage := .gone, lost := some 0x84, kid := none } = f := ⟨_, rfl⟩
  rw [hf]
  refine completes_eq (f := fun c => match c.comingFrame p.val b.val with
    | some (n, f) => if true then c else c.rxLast n f (if f.data.isEmpty then data else f.data) ok
    | none => if true then c.rxFirst p.val b.val data else c.receive p.val b.val data ok) (d := (s.chip.addFrame f).2) rfl ?_
    ⟨s.chip.frame_addFrame f, rfl⟩ rfl
  simp only [hcoming, if_true, Chip.rxFirst, hrun, hup, Bool.and_self, Bool.not_true, Bool.false_eq_true, if_false,
    s.chip.poolFull_of_not_room hroom, ← hf]
  rfl

end

/-! ### The last byte of a frame -/

/-- The last byte of a frame that passes the checks of R30. -/
theorem Chip.rxLast_passes {c : Chip} {n : Nat} {f : Frame} (hup : c.portUp f.entry f.sub = true) (hmin : 60 ≤ f.data.length)
    (hmax : f.data.length + 4 ≤ c.maxLen f.entry f.sub) (hctl : be16 f.data 12 ≠ 0x8808) (d : Bytes) {g : Frame}
    (hg : { f with coming := false, learn := none } = g) {y : Chip}
    (hy : (c.portCounts (schedOf f.entry f.sub) (c.rxCounts f.entry f.sub f.data)).setFrame n (some g) = y) :
    (f.lost = none → f.learn = none → c.rxLast n f (if f.data.isEmpty then d else f.data) true = y) ∧
    (∀ r, f.lost = some r → c.rxLast n f (if f.data.isEmpty then d else f.data) true =
      (y.rxLost f.entry f.sub r).when (!f.openPending) fun c => c.setFrame n none) := by
  have hdata : f.data.isEmpty = false := by
    cases hd : f.data with
    | nil =>
      rw [hd] at hmin
      simp at hmin
    | cons x xs => rfl
  have hcheck : c.macCheck f.entry f.sub f.data true = 0 := by
    simp only [Chip.macCheck, Bool.not_true, Bool.false_eq_true, if_false, if_neg (show ¬ f.data.length + 4 < 64 by omega),
      if_neg (show ¬ c.maxLen f.entry f.sub < f.data.length + 4 by omega)]
  refine ⟨fun hlost hlearn => ?_, fun r hlost => ?_⟩ <;>
    simp only [hdata, Bool.false_eq_true, if_false, Chip.rxLast, hup, Bool.and_self, hcheck, ne_eq, not_true_eq_false, hctl,
      Chip.rxClear_rxCount, hg, hy]
  · split
    · rename_i h
      exact absurd (h.symm.trans hlost) (Option.some_ne_none _)
    · rename_i h
      exact absurd (h.symm.trans hlearn) (Option.some_ne_none _)
    · rfl
  · split
    · rename_i h
      rw [Option.some.inj (h.symm.trans hlost)]
    · rename_i h _
      exact absurd (hlost.symm.trans h) (Option.some_ne_none _)
    · rename_i h _
      exact absurd (hlost.symm.trans h) (Option.some_ne_none _)

/-- A meter that takes its tokens back keeps the counters below those of the meters. -/
theorem Chip.meterBack_spec (c : Chip) (i col n : Nat) (took : Bool) :
    (c.meterBack i col n took).regs = c.regs ∧ (c.meterBack i col n took).vlt = c.vlt ∧
      ∀ k, k < 0x34000 → (c.meterBack i col n took).cntGet false k = c.cntGet false k := by
  refine ⟨rfl, rfl, fun k hk => ?_⟩
  simp only [Chip.meterBack]
  rw [Chip.cntGet_cntSet, if_neg (by omega), Chip.cntGet_cntSet, if_neg (by omega)]
  rfl

section
variable {n : Nat} {f : Frame} (hcoming : s.chip.comingFrame p.val b.val = some (n, f)) (hp : f.entry = p.val) (hb : f.sub = b.val)
include hcoming hp hb

theorem frameReceive_fails (hstage : f.stage = .pool) : completes (.frameReceive p b data ⟨false, false⟩) s fun d =>
    d.frame n = none ∧ d.regs = s.chip.regs ∧
    d.cntGet false (schedOf p.val b.val * 0x80 + 0x21) = s.chip.cntGet false (schedOf p.val b.val * 0x80 + 0x21) + 1 := by
  obtain ⟨y, hy⟩ : ∃ y, s.chip.each f.taken (fun c t => c.meterBack t.1 t.2.1 t.2.2.1 t.2.2.2) = y := ⟨_, rfl⟩
  obtain ⟨hregs, hvlt, hcnt⟩ : y.regs = s.chip.regs ∧ y.vlt = s.chip.vlt ∧
      ∀ k, k < 0x34000 → y.cntGet false k = s.chip.cntGet false k := by
    rw [← hy]
    refine Chip.each_induct (P := fun y => y.regs = s.chip.regs ∧ y.vlt = s.chip.vlt ∧
      ∀ k, k < 0x34000 → y.cntGet false k = s.chip.cntGet false k) _ ⟨rfl, rfl, fun _ _ => rfl⟩ fun d t hd => ?_
    obtain ⟨hd1, hd2, hd3⟩ := hd
    obtain ⟨h1, h2, h3⟩ := d.meterBack_spec t.1 t.2.1 t.2.2.1 t.2.2.2
    exact ⟨h1.trans hd1, h2.trans hd2, fun k hk => (h3 k hk).trans (hd3 k hk)⟩
  have hsp : schedOf p.val b.val < 64 := by
    rw [schedOf, if_pos p.isLt]
    omega
  refine completes_eq (f := fun c => match c.comingFrame p.val b.val with
    | some (n, f) => if false then c else c.rxLast n f (if f.data.isEmpty then data else f.data) false
    | none => if false then c.rxFirst p.val b.val data else c.receive p.val b.val data false)
    (d := (y.setFrame n none).portCount (schedOf p.val b.val) 0x21) rfl ?_ ⟨?_, ?_, ?_⟩ ?_
  · simp only [hcoming, Bool.false_eq_true, if_false, Chip.rxLast, Bool.false_and, Chip.macCheck, Bool.not_false, if_true, hp, hb,
      Chip.rxUndo, hstage, hy]
    rfl
  · simp only [Chip.frame, Chip.portCount, Chip.count_path]
    exact Chip.frame_setFrame_same y n none
  · rw [Chip.portCount, Chip.count_regs, ← hregs]
    rfl
  · rw [Chip.portCount, Chip.cntGet_count, if_pos ⟨rfl, rfl⟩, ← hcnt _ (by omega)]
    rfl
  · rw [Chip.portCount, Chip.count_vlt, ← hvlt]
    rfl

section
variable (hup : s.chip.portUp p.val b.val = true) (hmin : 60 ≤ f.data.length)
  (hmax : f.data.length + 4 ≤ s.chip.maxLen p.val b.val) (hctl : be16 f.data 12 ≠ 0x8808)
include hup hmin hmax hctl

omit hcoming in
theorem rxLast_of (d : Bytes) {g : Frame} (hg : { f with coming := false, learn := none } = g) {y : Chip}
    (hy : (s.chip.portCounts (schedOf p.val b.val) (s.chip.rxCounts p.val b.val f.data)).setFrame n (some g) = y) :
    (f.lost = none → f.learn = none → s.chip.rxLast n f (if f.data.isEmpty then d else f.data) true = y) ∧
    (∀ r, f.lost = some r → s.chip.rxLast n f (if f.data.isEmpty then d else f.data) true =
      (y.rxLost p.val b.val r).when (!f.openPending) fun c => c.setFrame n none) := by
  rw [← hp, ← hb] at hup hmax hy ⊢
  exact Chip.rxLast_passes hup hmin hmax hctl d hg hy

theorem frameReceive_completes (hlost : f.lost = none) (hlearn : f.learn = none) :
    completes (.frameReceive p b data ⟨true, false⟩) s fun d =>
      d.frame n = some { f with coming := false } ∧
      d.cntGet false (schedOf p.val b.val * 0x80) = s.chip.cntGet false (schedOf p.val b.val * 0x80) + 1 ∧
      (∀ k, k ≠ n → d.frame k = s.chip.frame k) ∧ d.regs = s.chip.regs ∧ d.evr = s.chip.evr := by
  obtain ⟨y, hy⟩ : ∃ y, s.chip.portCounts (schedOf p.val b.val) (s.chip.rxCounts p.val b.val f.data) = y := ⟨_, rfl⟩
  obtain ⟨g, hg⟩ : ∃ g : Frame, { f with coming := false, learn := none } = g := ⟨_, rfl⟩
  have hrecord : g = { f with coming := false } := by rw [← hg, ← hlearn]
  have hlast := (rxLast_of (n := n) hp hb hup hmin hmax hctl data hg rfl).1 hlost hlearn
  have hcount := s.chip.cntGet_portCounts (schedOf p.val b.val) 0 (s.chip.rxCounts p.val b.val f.data)
  have hyeq := s.chip.portCounts_frame (schedOf p.val b.val) (s.chip.rxCounts p.val b.val f.data)
  rw [hy] at hyeq hcount hlast
  have hypath : y.path = s.chip.path := by rw [hyeq]
  refine completes_eq (f := fun c => match c.comingFrame p.val b.val with
    | some (n, f) => if false then c else c.rxLast n f (if f.data.isEmpty then data else f.data) true
    | none => if false then c.rxFirst p.val b.val data else c.receive p.val b.val data true)
    (d := y.setFrame n (some g)) rfl ?_ ⟨?_, ?_, fun k hk => ?_, ?_, ?_⟩ ?_
  · simp only [hcoming, Bool.false_eq_true, if_false, hlast]
  · rw [Chip.frame_setFrame_same, hrecord]
  · have hone : BitVec.ofNat 64 (((s.chip.rxCounts p.val b.val f.data).filter (·.1 = 0)).map (·.2)).sum = 1 := by
      simp only [Chip.rxCounts]
      split_ifs <;> rfl
    rw [hone] at hcount
    exact hcount
  · rw [Chip.frame_setFrame, if_neg hk]
    simp only [Chip.frame, hypath]
  · change y.regs = _
    rw [hyeq]
  · change y.evr = _
    rw [hyeq]
  · change y.vlt.owners = _
    rw [hyeq]

section
variable {r : Nat} (hlost : f.lost = some r) (hopen : f.openPending = false)
include hlost hopen

omit hcoming in
/-- The last byte of a frame that has been dropped forgets it. -/
theorem rxLast_lost (d : Bytes) {g : Frame} (hg : { f with coming := false, learn := none } = g) {y : Chip}
    (hy : (s.chip.portCounts (schedOf p.val b.val) (s.chip.rxCounts p.val b.val f.data)).setFrame n (some g) = y) :
    s.chip.rxLast n f (if f.data.isEmpty then d else f.data) true = (y.rxLost p.val b.val r).setFrame n none := by
  rw [(rxLast_of (n := n) hp hb hup hmin hmax hctl d hg hy).2 r hlost, hopen, Bool.not_false, Chip.when_true]

omit hcoming hp hb hup hmin hmax hctl hlost hopen in
/-- The drop of a frame is counted, at most after an event. -/
theorem Chip.rxLost_spec (c : Chip) (p b r : Nat) :
    (c.rxLost p b r).cnt = (c.portCount (schedOf p b) (0x20 + (r - 0x80))).cnt ∧ (c.rxLost p b r).vlt = c.vlt := by
  obtain ⟨y, hy⟩ : ∃ y, c.when (r = 0x84) (fun c => c.portEvent Ev.INGRESS_FULL p b) = y := ⟨_, rfl⟩
  have hcnt : y.cnt = c.cnt := by
    rw [← hy]
    exact Chip.when_keeps (g := Chip.cnt) (fun d => Chip.raise_cnt ..) _ _
  have hvlt : y.vlt = c.vlt := by
    rw [← hy]
    exact Chip.when_keeps (g := Chip.vlt) (fun d => Chip.raise_vlt ..) _ _
  simp only [Chip.rxLost, hy, Chip.rxDrop, Chip.portCount]
  refine ⟨?_, by rw [Chip.count_vlt, hvlt]⟩
  simp only [Chip.count, Chip.cntSet, Chip.cntGet, hcnt]
  rfl

theorem frameReceive_lost : completes (.frameReceive p b data ⟨true, false⟩) s fun d =>
    d.frame n = none ∧ d.cntGet false (schedOf p.val b.val * 0x80) = s.chip.cntGet false (schedOf p.val b.val * 0x80) + 1 ∧
    d.cntGet false (schedOf p.val b.val * 0x80 + 0x20 + (r - 0x80)) =
      s.chip.cntGet false (schedOf p.val b.val * 0x80 + 0x20 + (r - 0x80)) + 1 := by
  obtain ⟨g, hg⟩ : ∃ g : Frame, { f with coming := false, learn := none } = g := ⟨_, rfl⟩
  have hlast := rxLast_lost (n := n) hp hb hup hmin hmax hctl hlost hopen data hg rfl
  have hcounts := fun k => s.chip.cntGet_portCounts (schedOf p.val b.val) k (s.chip.rxCounts p.val b.val f.data)
  have hyeq := s.chip.portCounts_frame (schedOf p.val b.val) (s.chip.rxCounts p.val b.val f.data)
  obtain ⟨y, hy⟩ : ∃ y, s.chip.portCounts (schedOf p.val b.val) (s.chip.rxCounts p.val b.val f.data) = y := ⟨_, rfl⟩
  rw [hy] at hyeq hlast
  simp only [hy] at hcounts
  obtain ⟨z, hz⟩ : ∃ z, y.setFrame n (some g) = z := ⟨_, rfl⟩
  have hzcnt : ∀ k, z.cntGet false k = y.cntGet false k := fun k => by rw [← hz]; rfl
  obtain ⟨hcnt, hvlt⟩ := z.rxLost_spec p.val b.val r
  rw [hz] at hlast
  obtain ⟨w, hw⟩ : ∃ w, z.rxLost p.val b.val r = w := ⟨_, rfl⟩
  rw [hw] at hcnt hvlt hlast
  have hsum : ∀ k, (k = 0 ∨ 0x20 ≤ k) → BitVec.ofNat 64 (((s.chip.rxCounts p.val b.val f.data).filter (·.1 = k)).map (·.2)).sum =
      if k = 0 then 1 else 0 := by
    intro k hk
    simp only [Chip.rxCounts]
    rcases hk with rfl | hk
    · rw [if_pos rfl]
      split_ifs <;> rfl
    · rw [if_neg (show k ≠ 0 by omega)]
      split_ifs <;> simp [show ¬ 0 = k by omega, show ¬ 1 = k by omega, show ¬ 13 = k by omega]
  have hcntw : ∀ k, (w.setFrame n none).cntGet false k = if k = schedOf p.val b.val * 0x80 + (0x20 + (r - 0x80)) then y.cntGet false k + 1
      else y.cntGet false k := by
    intro k
    change w.cntGet false k = _
    rw [Chip.cntGet_congr hcnt, Chip.portCount, Chip.cntGet_count, hzcnt]
    simp
  refine completes_eq (f := fun c => match c.comingFrame p.val b.val with
    | some (n, f) => if false then c else c.rxLast n f (if f.data.isEmpty then data else f.data) true
    | none => if false then c.rxFirst p.val b.val data else c.receive p.val b.val data true)
    (d := w.setFrame n none) rfl ?_ ⟨Chip.frame_setFrame_same _ _ _, ?_, ?_⟩ ?_
  · simp only [hcoming, Bool.false_eq_true, if_false, hlast]
  · rw [hcntw, if_neg (by omega)]
    have h := hcounts 0
    rw [hsum 0 (.inl rfl), if_pos rfl] at h
    exact h
  · rw [Nat.add_assoc, hcntw, if_pos rfl, hcounts, hsum _ (.inr (by omega)), if_neg (by omega)]
    simp
  · change w.vlt.owners = _
    rw [hvlt, ← hz, Chip.setFrame, Chip.modPath_vlt, hyeq]

theorem frameReceive_full (hr : r = 0x84) (hlogs : s.chip.logs) (htok : 0 < s.chip.tokens Ev.INGRESS_FULL) :
    completes (.frameReceive p b data ⟨true, false⟩) s fun d =>
      s.chip.logged d [⟨Ev.INGRESS_FULL, 0x400 + p.val, [(4, b.val)], false⟩] := by
  obtain ⟨g, hg⟩ : ∃ g : Frame, { f with coming := false, learn := none } = g := ⟨_, rfl⟩
  have hlast := rxLast_lost (n := n) hp hb hup hmin hmax hctl hlost hopen data hg rfl
  have hyeq := s.chip.portCounts_frame (schedOf p.val b.val) (s.chip.rxCounts p.val b.val f.data)
  obtain ⟨y, hy⟩ : ∃ y, s.chip.portCounts (schedOf p.val b.val) (s.chip.rxCounts p.val b.val f.data) = y := ⟨_, rfl⟩
  rw [hy] at hyeq hlast
  obtain ⟨z, hz⟩ : ∃ z, y.setFrame n (some g) = z := ⟨_, rfl⟩
  have hzevr : z.evr = s.chip.evr := by rw [← hz, Chip.setFrame, Chip.modPath_evr, hyeq]
  have hzvlt : z.vlt = s.chip.vlt := by rw [← hz, Chip.setFrame, Chip.modPath_vlt, hyeq]
  obtain ⟨-, hvlt⟩ := z.rxLost_spec p.val b.val r
  rw [hz] at hlast
  have hevent : (z.rxLost p.val b.val r).evr.intake =
      s.chip.evr.intake ++ [⟨Ev.INGRESS_FULL, 0x400 + p.val, [(4, b.val)], false⟩] := by
    have htokens : z.tokens Ev.INGRESS_FULL = s.chip.tokens Ev.INGRESS_FULL := by simp only [Chip.tokens, hzevr]
    have hroom : ¬ ((limitable Ev.INGRESS_FULL && decide (z.tokens Ev.INGRESS_FULL = 0)) || decide (256 ≤ z.evr.intake.length)) = true := by
      rw [htokens, hzevr, decide_eq_false (by omega), decide_eq_false (by have := hlogs.2; omega), Bool.and_false]
      decide
    simp only [Chip.rxLost, hr, decide_true, Chip.when_true, Chip.rxDrop, Chip.portCount, Chip.count_evr, Chip.portEvent, Chip.raise]
    rw [if_pos (by rw [hzevr]; exact hlogs.1), if_neg hroom, hzevr]
  refine completes_eq (f := fun c => match c.comingFrame p.val b.val with
    | some (n, f) => if false then c else c.rxLast n f (if f.data.isEmpty then data else f.data) true
    | none => if false then c.rxFirst p.val b.val data else c.receive p.val b.val data true)
    (d := (z.rxLost p.val b.val r).setFrame n none) rfl ?_ hevent ?_
  · simp only [hcoming, Bool.false_eq_true, if_false, hlast]
  · change (z.rxLost p.val b.val r).vlt.owners = _
    rw [hvlt, hzvlt]

end

end

end

end

end Sys2Proof.Machine

/-! PROOFS. The early lookup of a MACsec frame and the frames of the driver (R52, R53, R102). -/
namespace Sys2Proof.Machine

/-! ### The early lookup -/

theorem Chip.setEarly_some {c : Chip} {n : Nat} {f : Frame} (hf : c.frame n = some f) (e : Early) :
    c.setEarly n e = c.setFrame n (some { f with early := some e }) := by
  rw [Chip.setEarly, Chip.onFrame_some hf]

/-- A frame with the result of an open that is issued. -/
abbrev Frame.opens (f : Frame) (e : Early) (i pn : Nat) (plain : Bytes) (ok : Bool) : Frame :=
  { f with early := some e, sa := some i, pn := pn, plain := plain, icvOk := ok }

/-- An open that is issued: its frame keeps what it will give, and its request is admitted. -/
theorem Chip.issueOpen_spec {c : Chip} {n : Nat} {f : Frame} (hf : c.frame n = some f) {e : Early} {i pn : Nat} {plain : Bytes}
    {ok : Bool} (hmode : c.inMode [.active, .standby] = true) (hstop : c.pan.stopped = false)
    (hkey : (c.slot (slotOf (c.sa i).key)).state = 1) :
    (c.issueOpen n e i pn plain ok).frame n =
        some (f.opens { e with opened := true } i pn plain ok) ∧
      (∃ k r, (c.issueOpen n e i pn plain ok).panReq k = some r ∧ r.kind = .opening ∧ r.subject = n) ∧
      c.issueOpen n e i pn plain ok = { c with
        regs := (c.issueOpen n e i pn plain ok).regs, pan := (c.issueOpen n e i pn plain ok).pan,
        path := (c.issueOpen n e i pn plain ok).path } := by
  obtain ⟨g, hg⟩ : ∃ g, f.opens { e with opened := true } i pn plain ok = g := ⟨_, rfl⟩
  have hissue : c.issueOpen n e i pn plain ok = (c.setFrame n (some g)).panAdmit .opening (slotOf (c.sa i).key)
      (c.slot (slotOf (c.sa i).key)).generation n 0 (plain.length / 16 + 1) := by
    rw [Chip.issueOpen, hmode, hstop, if_neg (by simp), if_neg (by rw [hkey]; decide), if_neg (by rw [hkey]; decide)]
    rw [← hg]
    simp only [Chip.onFrame_some hf]
    rfl
  rw [hg]
  obtain ⟨d, hd⟩ : ∃ d, c.issueOpen n e i pn plain ok = d := ⟨_, rfl⟩
  rw [hd] at hissue ⊢
  obtain ⟨hframe, -, q, hq, hkind, hsubject⟩ := Chip.panAdmit_spec hissue.symm
  refine ⟨?_, ⟨_, q, hq, hkind, hsubject⟩, ?_⟩
  · have hsame : (c.setFrame n (some g)).frame n = some g := Chip.frame_setFrame_same c n (some g)
    rw [hframe]
    exact hsame
  · rw [hframe]
    rfl

section
variable {c : Chip} {n i ch : Nat} {f : Frame} (hf : c.frame n = some f)
  (hsc : (rxTag f.data f.typeAt).sc = true) (hgood : (rxTag f.data f.typeAt).good f.data f.typeAt true = true)
  (hch : c.rxChannel f.entry f.sub (rxTag f.data f.typeAt).sci = some ch)
  (han : (c.chan ch).saAt (rxTag f.data f.typeAt).an = some i) (hstate : (c.sa i).state = 1) (hhold : (c.sa i).hold = false)
  (hsuite : (rxTag f.data f.typeAt).good f.data f.typeAt (suiteXpn (c.sa i).suite) = true)
include hf hsc hgood hch han hstate hhold hsuite

/-- The early lookup's result for the SA that the tag names. -/
abbrev Chip.earlyHit (c : Chip) (i an ch : Nat) : Early := { hit := true, handle := c.saHandle i, an := an, channel := ch }

omit hf in
theorem Chip.earlyMacsec_accepted (haccepts : (c.sa i).accepts ((c.sa i).recoverPn (rxTag f.data f.typeAt).pn) = true) :
    c.earlyMacsec n f = c.issueOpen n (c.earlyHit i (rxTag f.data f.typeAt).an ch) i
      ((c.sa i).recoverPn (rxTag f.data f.typeAt).pn)
      (c.macOpen i ((c.sa i).recoverPn (rxTag f.data f.typeAt).pn) f.entry f.sub f.data f.typeAt).1
      (c.macOpen i ((c.sa i).recoverPn (rxTag f.data f.typeAt).pn) f.entry f.sub f.data f.typeAt).2 := by
  simp only [Chip.earlyMacsec, hsc, Bool.true_or, if_true, hch, Option.bind_some, han, hgood, Bool.not_true, Bool.false_eq_true,
    if_false, hstate, ne_eq, not_true, hhold, hsuite, haccepts, Option.filter_some, decide_true]

theorem Chip.earlyMacsec_replayed (haccepts : (c.sa i).accepts ((c.sa i).recoverPn (rxTag f.data f.typeAt).pn) = false) :
    c.earlyMacsec n f = (c.count true (i * 4 + 3)).setFrame n
      (some { f with early := some { c.earlyHit i (rxTag f.data f.typeAt).an ch with fail := 0x8E, testFail := true } }) := by
  have hcount : (c.count true (i * 4 + 3)).frame n = some f := by rw [Chip.count_eq]; exact hf
  rw [← Chip.setEarly_some hcount]
  simp only [Chip.earlyMacsec, hsc, Bool.true_or, if_true, hch, Option.bind_some, han, hgood, Bool.not_true, Bool.false_eq_true,
    if_false, hstate, ne_eq, not_true, hhold, hsuite, haccepts, Option.filter_some, decide_true, Bool.not_false]

end

theorem Chip.earlyLookup_of {c : Chip} {n : Nat} {f : Frame} (hf : c.frame n = some f) (hstage : f.stage = .pool)
    (hearly : f.early = none) (hopens : c.opensEarly f = true) (hmacsec : f.macsec = true) (hbefore : c.lookupBefore n f = false) :
    c.earlyLookup n = c.earlyMacsec n f := by
  rw [Chip.earlyLookup, Chip.onFrame_some hf]
  simp only [hstage, hearly, hopens, hmacsec, hbefore, Bool.not_true, Option.isSome_none, Bool.or_self, Bool.false_eq_true,
    if_false, if_true]

/-! ### A frame into its direct queue (R223) -/

/-- What a frame adds to the queued bytes on die. -/
def Frame.queuedOnDie (f : Frame) : Nat := if f.queue.isSome && !f.inHbm && f.kid.isSome then f.stored else 0

/-- The queued bytes on die of a table of frames. -/
def queuedSum (m : SMap (Option Frame)) : Nat := (m.map fun p => (p.2.map Frame.queuedOnDie).getD 0).sum

theorem Chip.odQueued_eq (c : Chip) : c.odQueued = queuedSum c.path.frames := by
  have hstep : ∀ (m : SMap (Option Frame)) (a : Nat),
      (m.filterMap fun p => p.2.map fun f => (p.1, f)).foldl
        (fun n p => if p.2.queue.isSome && !p.2.inHbm && p.2.kid.isSome then n + p.2.stored else n) a = a + queuedSum m := by
    intro m
    induction m with
    | nil => exact fun a => rfl
    | cons x m ih =>
      obtain ⟨k, v⟩ := x
      intro a
      have hcons : queuedSum ((k, v) :: m) = (v.map Frame.queuedOnDie).getD 0 + queuedSum m := rfl
      rw [hcons]
      rcases v with _ | f
      · rw [List.filterMap_cons_none rfl, ih]
        simp
      · rw [List.filterMap_cons_some (f := fun p : Nat × Option Frame => p.2.map fun f => (p.1, f)) (b := (k, f)) rfl,
          List.foldl_cons, ih]
        simp only [Option.map_some, Option.getD_some, Frame.queuedOnDie]
        split_ifs <;> omega
  have h := hstep c.path.frames 0
  rw [Nat.zero_add] at h
  exact h

theorem queuedSum_erase_le (m : SMap (Option Frame)) (k : Nat) : queuedSum (SMap.erase k m) ≤ queuedSum m := by
  induction m with
  | nil => exact Nat.le_refl _
  | cons x m ih =>
    obtain ⟨k', v⟩ := x
    simp only [SMap.erase, queuedSum, List.map_cons, List.sum_cons] at ih ⊢
    split_ifs
    · omega
    · simp only [List.map_cons, List.sum_cons]
      omega

theorem queuedSum_insert (m : SMap (Option Frame)) (k : Nat) (v : Option Frame) :
    queuedSum (SMap.insert k v m) = (v.map Frame.queuedOnDie).getD 0 + queuedSum m := by
  induction m with
  | nil => rfl
  | cons x m ih =>
    obtain ⟨k', w⟩ := x
    simp only [SMap.insert, queuedSum, List.map_cons, List.sum_cons] at ih ⊢
    split_ifs
    · rfl
    · simp only [List.map_cons, List.sum_cons, ih]
      omega

/-- A frame that no queue counts adds nothing to the queued bytes. -/
theorem Chip.odQueued_setFrame_le (c : Chip) (n : Nat) (f : Frame) (hq : f.queue = none) :
    (c.setFrame n (some f)).odQueued ≤ c.odQueued := by
  rw [Chip.odQueued_eq, Chip.odQueued_eq]
  have hzero : ((some f).map Frame.queuedOnDie).getD 0 = 0 := by
    simp only [Option.map_some, Option.getD_some, Frame.queuedOnDie, hq, Option.isSome_none, Bool.false_and, Bool.false_eq_true,
      if_false]
  have hset : (c.setFrame n (some f)).path.frames = SMap.insert n (some f) (SMap.erase n c.path.frames) := rfl
  rw [hset, queuedSum_insert, hzero, Nat.zero_add]
  exact queuedSum_erase_le _ _

/-- A frame without a buffer counts as none among a queue's bytes on die. -/
theorem Chip.onDie_setFrame (c : Chip) (n q : Nat) (f : Frame) (hkid : f.kid = none)
    (hold : ∀ g, c.frame n = some g → g.kid = none) : (c.setFrame n (some f)).onDie q = c.onDie q := by
  have heach : ∀ i, (match (c.setFrame n (some f)).frame i with
      | some f => if f.inHbm || f.kid.isNone then 0 else f.stored
      | none => 0) = (match c.frame i with
      | some f => if f.inHbm || f.kid.isNone then 0 else f.stored
      | none => 0) := by
    intro i
    rw [Chip.frame_setFrame]
    split_ifs with hi
    · subst hi
      rcases hc : c.frame i with _ | g
      · simp only [hkid, Option.isNone_none, Bool.or_true, if_true]
      · simp only [hkid, hold g hc, Option.isNone_none, Bool.or_true, if_true]
    · rfl
  have hqueue : (c.setFrame n (some f)).queueSt q = c.queueSt q := rfl
  simp only [Chip.onDie, hqueue]
  congr 1
  funext m i
  exact congrArg (m + ·) (heach i)

/-- While a port runs no gate list no head is too long for its gate. -/
theorem Chip.dropOversize_ungated {c : Chip} {q : Nat} (hgate : c.gateList (c.queueCfg q).port = none) (k : Nat) :
    c.dropOversize q k = c := by
  cases k with
  | zero => rfl
  | succ k =>
    simp only [Chip.dropOversize]
    rcases c.headOf q with _ | ⟨i, f⟩
    · rfl
    · simp only [Chip.oversize, hgate, Option.bind_none, Bool.false_eq_true, if_false]

theorem Chip.queueHead_spec (c : Chip) (q : Nat) :
    c.queueHead q = { c with slu := (c.queueHead q).slu } ∧ ((c.queueHead q).queueSt q).bytes = (c.queueSt q).bytes := by
  simp only [Chip.queueHead]
  rcases c.headOf q with _ | ⟨i, f⟩
  · exact ⟨rfl, rfl⟩
  · refine ⟨rfl, ?_⟩
    simp only [Chip.queueSt, Chip.setQueueSt, Chip.modSlu, SMap.get_set_same]

theorem Chip.classHead_spec (c : Chip) (s cls q : Nat) :
    c.classHead s cls = { c with slu := (c.classHead s cls).slu } ∧ (c.classHead s cls).queueSt q = c.queueSt q := by
  have hcases : c.classHead s cls = c ∨ ∃ v, c.classHead s cls = c.setClassTag (s * 8 + cls) v := by
    rw [Chip.classHead]
    rcases (c.minTag (c.classQueues s cls)).bind c.headOf with _ | ⟨i, f⟩
    · exact .inl rfl
    · exact .inr ⟨_, rfl⟩
  rcases hcases with h | ⟨v, h⟩
  · rw [h]
    exact ⟨rfl, rfl⟩
  · rw [h]
    exact ⟨rfl, rfl⟩

/-- Without a gate list a new head changes the Sluice's tags alone. -/
theorem Chip.headChanged_ungated {c : Chip} {q : Nat} (hgate : c.gateList (c.queueCfg q).port = none) :
    c.headChanged q = { c with slu := (c.headChanged q).slu } ∧
      ((c.headChanged q).queueSt q).bytes = (c.queueSt q).bytes := by
  obtain ⟨hhead, hbytes⟩ := c.queueHead_spec q
  simp only [Chip.headChanged, Chip.dropOversize_ungated hgate]
  generalize c.queueHead q = y at hhead hbytes ⊢
  split_ifs
  · obtain ⟨hclass, hsame⟩ := y.classHead_spec (c.queueCfg q).port (c.queueCfg q).cls q
    generalize y.classHead (c.queueCfg q).port (c.queueCfg q).cls = z at hclass hsame ⊢
    rw [hsame]
    refine ⟨?_, hbytes⟩
    rw [hclass, hhead]
  · exact ⟨hhead, hbytes⟩

/-- A frame that its queue counts under a key ID. -/
abbrev Frame.enters (f : Frame) (q stored now : Nat) (stage : FStage) (kid : Nat) (die : List Nat) : Frame :=
  { f with queue := some q, stored := stored, entered := now, stage := stage, kid := some kid, die := die }

/-- A frame's bytes take lines on die: nothing but the frame and the buffer changes. -/
theorem Chip.dieStore_spec {c : Chip} {n kid : Nat} {f : Frame} (hf : c.frame n = some f) (hkid : f.kid = some kid) :
    (∃ l, (c.dieStore n).frame n = some { f with die := l }) ∧
      c.dieStore n = { c with path := (c.dieStore n).path, buf := (c.dieStore n).buf } := by
  obtain ⟨l, z, hz⟩ : ∃ l z, c.dieWrite kid f.die f.stores = (l, z) := ⟨_, _, rfl⟩
  have hzeq : z = { c with buf := z.buf } := by
    have hsnd : z = (c.dieWrite kid f.die f.stores).2 := by rw [hz]
    rw [hsnd]
    rfl
  have hstore : c.dieStore n = z.setFrame n (some { f with die := l }) := by
    rw [Chip.dieStore, Chip.onFrame_some hf]
    simp only [hkid, hz]
  rw [hstore]
  refine ⟨⟨l, Chip.frame_setFrame_same _ _ _⟩, ?_⟩
  generalize some { f with die := l } = g
  have hset : z.setFrame n g = { z with path := (z.setFrame n g).path } := rfl
  generalize z.setFrame n g = u at hset ⊢
  rw [hset, hzeq]

section
variable {c : Chip} {n q : Nat} {f : Frame} (hf : c.frame n = some f) (hkid : f.kid = none) (hgood : f.poisoned = false)
  (hclear : f.sealMark = none) (hgreen : f.colour = 0) (hqueue : isQueue q = true) (hen : (c.queueCfg q).en = true)
  (hlimit : (c.queueSt q).bytes + (f.data.length + 4) ≤ 1024 * (c.queueCfg q).limitG)
  (hactive : c.kidActive (c.getF F.MEM_FRAME_KID_kid []) = true) (hshare : c.onDie q < 1024 * (c.queueCfg q).odShare)
  (hroom : c.odQueued + (f.data.length + 4) ≤ c.odRoom) (hgate : c.gateList (c.queueCfg q).port = none)
include hf hkid hgood hclear hgreen hqueue hen hlimit hactive hshare hroom hgate

theorem Chip.admitFrame_onDie (stage : FStage) : ∃ l, (c.admitFrame n q stage).frame n =
      some (f.enters q (f.data.length + 4) c.now stage (c.getF F.MEM_FRAME_KID_kid []) l) ∧
    ((c.admitFrame n q stage).queueSt q).bytes = (c.queueSt q).bytes + (f.data.length + 4) ∧
    c.admitFrame n q stage = { c with
      path := (c.admitFrame n q stage).path, buf := (c.admitFrame n q stage).buf,
      slu := (c.admitFrame n q stage).slu } := by
  have hstored : c.storedLen f = f.data.length + 4 := by simp only [Chip.storedLen, hclear, Option.isNone_none, if_true]
  have hbuffer : f.buffered = false := by simp only [Frame.buffered, hkid, Option.isSome_none, Bool.false_and]
  obtain ⟨g, hg⟩ : ∃ g, f.enters q (f.data.length + 4) c.now stage (c.getF F.MEM_FRAME_KID_kid []) f.die = g := ⟨_, rfl⟩
  have hgkid : g.kid = some (c.getF F.MEM_FRAME_KID_kid []) := by rw [← hg]
  obtain ⟨y, hy⟩ : ∃ y, (c.setFrame n (some g)).setQueueSt q { c.queueSt q with
    frames := (c.queueSt q).frames ++ [n], bytes := (c.queueSt q).bytes + (f.data.length + 4) } = y := ⟨_, rfl⟩
  have hyframe : y.frame n = some g := by
    rw [← hy]
    exact Chip.frame_setFrame_same c n (some g)
  have hybytes : (y.queueSt q).bytes = (c.queueSt q).bytes + (f.data.length + 4) := by
    rw [← hy]
    simp only [Chip.queueSt, Chip.setQueueSt, Chip.modSlu, SMap.get_set_same]
  have hycfg : y.queueCfg q = c.queueCfg q := by
    rw [← hy]
    rfl
  have hygate : ∀ s, y.gateList s = c.gateList s := fun s => by
    rw [← hy]
    rfl
  have hyeq : y = { c with path := y.path, slu := y.slu } := by
    rw [← hy]
    rfl
  obtain ⟨⟨l, hl⟩, hstoreEq⟩ := Chip.dieStore_spec hyframe hgkid
  have hadmit : c.admitFrame n q stage = (y.dieStore n).when (c.headOf q).isNone fun c => c.headChanged q := by
    rw [Chip.admitFrame, Chip.onFrame_some hf]
    simp only [hqueue, hen, Bool.and_self, Bool.not_true, hgreen, if_true, hstored, Bool.false_or, decide_eq_true_eq, hgood, hbuffer,
      hactive, Bool.or_true, hshare, hroom, decide_true, Bool.true_or, Bool.or_self, Bool.false_eq_true, if_false,
      Nat.not_lt.mpr hlimit]
    simp only [Frame.enters, hgreen, hgood] at hg
    rw [hg]
    exact congrArg (fun y => (Chip.dieStore y n).when (c.headOf q).isNone fun c => c.headChanged q) hy
  obtain ⟨z, hz⟩ : ∃ z, y.dieStore n = z := ⟨_, rfl⟩
  rw [hz] at hl hstoreEq hadmit
  have hzslu : z.slu = y.slu := by rw [hstoreEq]
  have hzbytes : (z.queueSt q).bytes = (c.queueSt q).bytes + (f.data.length + 4) := by
    rw [← hybytes, Chip.queueSt, hzslu]
    rfl
  have hzgate : z.gateList (z.queueCfg q).port = none := by
    have hcfg : z.queueCfg q = y.queueCfg q := by simp only [Chip.queueCfg, hzslu]
    have hlist : ∀ s, z.gateList s = y.gateList s := fun s => by
      rw [hstoreEq]
      rfl
    rw [hlist, hcfg, hycfg, hygate, hgate]
  have hzeq : z = { c with path := z.path, buf := z.buf, slu := z.slu } := by
    rw [hstoreEq, hyeq]
  have hlines : f.enters q (f.data.length + 4) c.now stage (c.getF F.MEM_FRAME_KID_kid []) l = { g with die := l } := by rw [← hg]
  refine ⟨l, ?_⟩
  rw [hadmit, hlines]
  refine ite_cases (P := fun d : Chip => d.frame n = some { g with die := l } ∧
      (d.queueSt q).bytes = (c.queueSt q).bytes + (f.data.length + 4) ∧
      d = { c with path := d.path, buf := d.buf, slu := d.slu }) ?_ ⟨hl, hzbytes, hzeq⟩
  obtain ⟨hhead, hbytes⟩ := Chip.headChanged_ungated hzgate
  beta_reduce
  generalize z.headChanged q = w at hhead hbytes ⊢
  refine ⟨?_, by rw [hbytes, hzbytes], ?_⟩
  · rw [← hl, hhead]
    rfl
  · rw [hhead, hzeq]


/-- A posted frame of a sub-port that is up goes to its direct queue. -/
theorem Chip.enqueue_onDie (stage : FStage) {p b : Nat} (hport : portOf (c.queueCfg q).port = (p, b)) (hup : c.portUp p b = true)
    (hlocal : (c.queueCfg q).transit = false) (hentry : f.entry < 16) (hfree : f.queue = none) :
    ∃ g, (c.enqueue n q stage).frame n = some g ∧ g.data = f.data ∧ g.queue = some q ∧ g.stage = stage ∧ g.outPort = p ∧
      g.outSub = b ∧ g.host = f.host ∧ ((c.enqueue n q stage).queueSt q).bytes = (c.queueSt q).bytes + (f.data.length + 4) ∧
      (c.enqueue n q stage).hif = c.hif ∧ (c.enqueue n q stage).vlt = c.vlt := by
  obtain ⟨g, hg⟩ : ∃ g : Frame, { f with outPort := p, outSub := b, len := f.data.length + 4 } = g := ⟨_, rfl⟩
  obtain ⟨y, hy⟩ : ∃ y, c.setFrame n (some g) = y := ⟨_, rfl⟩
  have henqueue : c.enqueue n q stage = y.admitFrame n q stage := by
    have hupY : y.portUp p b = true := by
      rw [← hup, ← hy]
      rfl
    rw [Chip.enqueue, Chip.onFrame_some hf]
    have hentries : ¬ 16 ≤ f.entry := by omega
    have hkind : ((isQueue q && decide (((c.queueCfg q).transit = true) ≠ (f.entry ≥ 16))) = true) = False := by
      simp [hlocal, hentries]
    simp only [hkind, if_false, hport, hg, hy, hupY, Bool.not_true, Bool.and_false, Bool.false_eq_true]
  have hyframe : y.frame n = some g := by
    rw [← hy]
    exact Chip.frame_setFrame_same c n (some g)
  have hdata : g.data = f.data := by rw [← hg]
  obtain ⟨l, hl, hbytes, heq⟩ := Chip.admitFrame_onDie (c := y) (q := q) hyframe (by rw [← hg]; exact hkid)
    (by rw [← hg]; exact hgood) (by rw [← hg]; exact hclear) (by rw [← hg]; exact hgreen) hqueue (by rw [← hy]; exact hen)
    (by rw [← hy, hdata]; exact hlimit) (by rw [← hy]; exact hactive)
    (by
      rw [← hy, Chip.onDie_setFrame c n q g (by rw [← hg]; exact hkid) fun x hx => by
        rw [hf] at hx
        rw [← Option.some.inj hx]
        exact hkid]
      exact hshare)
    (by
      have hle := c.odQueued_setFrame_le n g (by rw [← hg]; exact hfree)
      rw [hy] at hle
      rw [hdata]
      have hsame : y.odRoom = c.odRoom := by
        rw [← hy]
        rfl
      rw [hsame]
      omega)
    (by rw [← hy]; exact hgate) stage
  rw [henqueue]
  refine ⟨_, hl, hdata, rfl, rfl, by rw [← hg], by rw [← hg], by rw [← hg], ?_, ?_, ?_⟩
  · rw [hbytes, hdata, ← hy]
    rfl
  · rw [heq, ← hy]
    rfl
  · rw [heq, ← hy]
    rfl

end

/-! ### Frames of the driver (R52, R53) -/

theorem pairedRing_excOut (ring : Fin 16) : pairedRing (24 + ring.val) = 24 + ring.val + 16 := by
  rw [pairedRing, if_neg (by omega), if_pos (by omega)]

section
variable {c : Chip} {ring : Fin 16}

/-- A ring of PF0 whose next entry may be fetched has a completion ring, which takes completions. -/
theorem Chip.canFetch_of {c : Chip} {r q : Nat} (hfetch : c.canFetch r = true) (hr : r < 64) (hpair : pairedRing r = q) :
    c.dmaAllowed 0 = true ∧ c.ringEn q = true := by
  have howner : c.ringOwner r = some 0 := if_pos hr
  rw [Chip.canFetch, howner, hpair] at hfetch
  simp only [Bool.and_eq_true] at hfetch
  obtain ⟨⟨⟨-, hdma⟩, hen⟩, -⟩ := hfetch
  exact ⟨hdma, hen⟩

theorem Chip.canFetch_excOut (hfetch : c.canFetch (24 + ring.val) = true) :
    c.dmaAllowed 0 = true ∧ c.ringEn (24 + ring.val + 16) = true :=
  Chip.canFetch_of hfetch (by omega) (pairedRing_excOut ring)

/-- What the part gives to the host leaves its functions' Bus Master Enable. -/
theorem Chip.dma_bme (c : Chip) (fn : Nat) (o : Output) : (c.dma fn o).hif.bme = c.hif.bme :=
  ite_cases (P := fun d : Chip => d.hif.bme = c.hif.bme) rfl rfl

theorem Chip.msixSignal_bme (c : Chip) (fn v : Nat) : (c.msixSignal fn v).hif.bme = c.hif.bme := by
  simp only [Chip.msixSignal]
  split_ifs
  · rfl
  · rfl
  · exact c.dma_bme fn _
  · exact c.dma_bme fn _

theorem Chip.signal_bme (c : Chip) (s : Nat) : (c.signal s).hif.bme = c.hif.bme :=
  ite_cases (P := fun d : Chip => d.hif.bme = c.hif.bme) (c.msixSignal_bme 0 _) rfl

theorem Chip.ringAdvance_bme (c : Chip) (r n : Nat) : (c.ringAdvance r n).hif.bme = c.hif.bme := by
  rw [Chip.ringAdvance]
  rcases c.ringOwner r with _ | fn
  · rfl
  · simp only
    split_ifs
    · rw [Chip.signal_bme, Chip.dma_bme]
      rfl
    · rw [Chip.msixSignal_bme, Chip.signal_bme, Chip.dma_bme]
      rfl

end

/-- The fetch of an entry of a ring of PF0: its count advances, and beyond the host interface and the outputs nothing changes. -/
theorem Chip.fetchEntry_of {c : Chip} {r q : Nat} (hfetch : c.canFetch r = true) (hr : r < 64) (hpair : pairedRing r = q) (hq : q ≠ r)
    (desc : Bytes) : ∃ y, c.fetchEntry r (some desc) = (some (slice desc 0 (ringEntry r)), y) ∧
      y = { c with hif := y.hif, out := y.out } ∧ (y.ring r).own = (c.ring r).own + 1 ∧ (y.ring q).own = (c.ring q).own ∧
      y.hif.bme = c.hif.bme := by
  obtain ⟨z, hz⟩ : ∃ z, c.setRing q { c.ring q with reserved := (c.ring q).reserved + 1 } = z := ⟨_, rfl⟩
  have howner : z.ringOwner r = some 0 := if_pos hr
  obtain ⟨y, hy⟩ : ∃ y, z.ringAdvance r 1 = y := ⟨_, rfl⟩
  obtain ⟨hframe, hrings, -⟩ := hy ▸ Chip.ringAdvance_gives howner 1
  have hring : ∀ k, y.ring k = if k = r then { z.ring r with own := (z.ring r).own + 1 } else z.ring k := by
    intro k
    rw [Chip.ring, hrings]
    exact Chip.ring_setRing z r k _
  have hzring : ∀ k, z.ring k = if k = q then { c.ring q with reserved := (c.ring q).reserved + 1 } else c.ring k := by
    intro k
    rw [← hz]
    exact Chip.ring_setRing c q k _
  refine ⟨y, ?_, ?_, ?_, ?_, ?_⟩
  · rw [Chip.fetchEntry, if_pos hfetch]
    simp only [hpair, hz, hy]
  · rw [hframe, ← hz]
    rfl
  · rw [hring, if_pos rfl, hzring, if_neg hq.symm]
  · rw [hring, if_neg hq, hzring, if_pos rfl]
  · rw [← hy, Chip.ringAdvance_bme, ← hz]
    rfl

theorem ringEntry_excOut (ring : Fin 16) : ringEntry (24 + ring.val) = 32 := by
  revert ring
  decide

/-- The fetch of a descriptor of an exception-out ring. -/
theorem Chip.fetchEntry_excOut {c : Chip} {ring : Fin 16} (hfetch : c.canFetch (24 + ring.val) = true) (desc : Bytes) : ∃ y,
    c.fetchEntry (24 + ring.val) (some desc) = (some (slice desc 0 32), y) ∧
      y = { c with hif := y.hif, out := y.out } ∧ (y.ring (24 + ring.val)).own = (c.ring (24 + ring.val)).own + 1 ∧
      (y.ring (24 + ring.val + 16)).own = (c.ring (24 + ring.val + 16)).own ∧ y.hif.bme = c.hif.bme := by
  have h := Chip.fetchEntry_of hfetch (by omega) (pairedRing_excOut ring) (by omega) desc
  rwa [ringEntry_excOut] at h

/-- What a descriptor is checked for is no part of the host interface. -/
theorem Chip.excCheck_hif {c d : Chip} (h : d = { c with hif := d.hif, out := d.out }) (e : ExcOut) : d.excCheck e = c.excCheck e := by
  rw [h]
  rfl

theorem bits_lt (n h l : Nat) : bits n h l < 2 ^ (h + 1 - l) := by
  rw [bits]
  exact Nat.mod_lt _ (Nat.two_pow_pos _)

theorem excOut_sub_lt (b : Bytes) : (excOut b).sub < 4 := bits_lt _ 1 0

theorem excOut_cls_lt (b : Bytes) : (excOut b).cls < 8 := bits_lt _ 20 18

theorem Chip.excCheck_port {c : Chip} {e : ExcOut} (h : c.excCheck e = 0) : e.port < 16 := by
  by_contra hport
  rw [Chip.excCheck, if_pos (by simp [Nat.not_lt.mp hport])] at h
  exact absurd h (by decide)

/-- The direct queue of a sub-port and class. -/
theorem directQueue_spec (c : Chip) {p b cls : Nat} (hp : p < 16) (hb : b < 4) (hcls : cls < 8) :
    isQueue (directQueue (schedOf p b) cls) = true ∧
      (c.queueCfg (directQueue (schedOf p b) cls)).transit = false ∧
      (c.queueCfg (directQueue (schedOf p b) cls)).port = schedOf p b ∧ portOf (schedOf p b) = (p, b) := by
  have hs : schedOf p b = p * 4 + b := if_pos hp
  rw [hs]
  obtain ⟨q, hq⟩ : ∃ q, directQueue (p * 4 + b) cls = q := ⟨_, rfl⟩
  have hval : q = 0x8000 + (p * 4 + b) * 8 + cls := hq.symm
  rw [hq]
  refine ⟨by rw [isQueue]; exact decide_eq_true (by omega), ?_, ?_, ?_⟩
  · rw [Chip.queueCfg, if_neg (by omega)]
  · rw [Chip.queueCfg, if_neg (by omega)]
    change (q - 0x8000) / 8 = p * 4 + b
    omega
  · rw [portOf, if_pos (by omega)]
    congr 1 <;> omega

/-- A completion leaves the other rings. -/
theorem Chip.ringComplete_other (c : Chip) {r k : Nat} (entry : Bytes) (h : k ≠ r) : (c.ringComplete r entry).ring k = c.ring k := by
  obtain ⟨y, hy⟩ : ∃ y, c.setRing r { c.ring r with reserved := (c.ring r).reserved - 1 } = y := ⟨_, rfl⟩
  have hkept : y.ring k = c.ring k := by rw [← hy, Chip.ring_setRing, if_neg h]
  rw [Chip.ringComplete, hy, ← hkept, Chip.ringPush]
  split_ifs
  · rcases hown : y.ringOwner r with _ | fn
    · rfl
    · simp only
      generalize Output.hostWrite fn _ entry = o
      have hdma := (Chip.gives.refl y).dma fn o
      have hdown : (y.dma fn o).ringOwner r = some fn := by
        rw [← hown, hdma.1]
        rfl
      generalize y.dma fn o = z at hdma hdown ⊢
      rw [(Chip.ringAdvance_gives hdown 1).ring_eq, Chip.ring_setRing, if_neg h, hdma.ring_eq]
  · rfl

section
variable {s : State} {ring : Fin 16} {desc frame : Bytes} (hfetch : s.chip.canFetch (24 + ring.val) = true)
include hfetch

/-- A descriptor that is refused is completed. -/
theorem excOutFetch_refuses (hbad : s.chip.excCheck (excOut (slice desc 0 32)) ≠ 0)
    (hstale : s.chip.excCheck (excOut (slice desc 0 32)) ≠ 3) :
    completes (.excOutFetch ring (some desc) (some frame)) s fun d =>
      (d.ring (24 + ring.val)).own = (s.chip.ring (24 + ring.val)).own + 1 ∧
      (d.ring (24 + ring.val + 16)).own = (s.chip.ring (24 + ring.val + 16)).own + 1 ∧ d.path = s.chip.path := by
  obtain ⟨hdma, hen⟩ := Chip.canFetch_excOut hfetch
  obtain ⟨y, hy, hyeq, hown, hpair, hbme⟩ := Chip.fetchEntry_excOut hfetch desc
  have hyregs : y.regs = s.chip.regs := by rw [hyeq]
  have hydma : y.dmaAllowed 0 = true := by
    rw [← hdma]
    simp only [Chip.dmaAllowed, hbme, Chip.getB, Chip.getF_congr hyregs]
  have hyen : y.ringEn (24 + ring.val + 16) = true := by
    rw [← hen]
    simp only [Chip.ringEn, Chip.getB, Chip.getF_congr hyregs]
  have hcheck := Chip.excCheck_hif hyeq (excOut (slice desc 0 32))
  obtain ⟨w, hw⟩ : ∃ w, completion (excOut (slice desc 0 32)).cookie (s.chip.excCheck (excOut (slice desc 0 32))) 0 [] = w := ⟨_, rfl⟩
  obtain ⟨d, hd⟩ : ∃ d, y.ringComplete (24 + ring.val + 16) w = d := ⟨_, rfl⟩
  have hother : d.ring (24 + ring.val) = y.ring (24 + ring.val) := by
    rw [← hd, Chip.ringComplete_other y _ (by omega)]
  obtain ⟨hdeq, hring, -⟩ := Chip.ringComplete_spec hd hyen (fn := 0) (if_pos (by omega)) hydma
  refine completes_eq (f := fun c => c.excFetch ring.val (some desc) (some frame)) (d := d) rfl ?_ ⟨?_, ?_, ?_⟩ ?_
  · simp only [Chip.excFetch, hy, hcheck, ne_eq, hbad, not_false_eq_true, if_true, hstale, decide_false, Bool.and_false, Chip.when_false,
      Chip.hostDone, hw, hd]
  · rw [hother, hown]
  · rw [hring, hpair]
  · rw [hdeq, hyeq]
  · rw [hdeq, hyeq]

/-- A descriptor that is accepted gives its frame in the direct queue of its port and class. -/
theorem excOutFetch_accepts {e : ExcOut} (he : excOut (slice desc 0 32) = e) {q : Nat} (hq : directQueue (schedOf e.port e.sub) e.cls = q)
    {body : Bytes} (hbody : slice frame 0 e.length = body) (hgood : s.chip.excCheck e = 0) (haction : e.action ≠ 1)
    (hup : s.chip.portUp e.port e.sub = true) (hen : (s.chip.queueCfg q).en = true)
    (hlimit : (s.chip.queueSt q).bytes + body.length + 4 ≤ 1024 * (s.chip.queueCfg q).limitG)
    (hactive : s.chip.kidActive (s.chip.getF F.MEM_FRAME_KID_kid []) = true)
    (hshare : s.chip.onDie q < 1024 * (s.chip.queueCfg q).odShare) (hroom : s.chip.odQueued + (body.length + 4) ≤ s.chip.odRoom)
    (hgate : s.chip.gateList (schedOf e.port e.sub) = none) (hfree : s.chip.frame s.chip.path.next = none) :
    completes (.excOutFetch ring (some desc) (some frame)) s fun d =>
      (∃ g, d.frame s.chip.path.next = some g ∧ g.data = body ∧ g.queue = some q ∧ g.stage = .queued ∧ g.outPort = e.port ∧
        g.outSub = e.sub ∧ g.host = some (some (24 + ring.val), e.cookie, b2n e.tsReq + 2 * b2n e.oneStep, e.cfOff)) ∧
      (d.ring (24 + ring.val)).own = (s.chip.ring (24 + ring.val)).own + 1 ∧
      (d.queueSt q).bytes = (s.chip.queueSt q).bytes + body.length + 4 := by
  obtain ⟨y, hy, hyeq, hown, -⟩ := Chip.fetchEntry_excOut hfetch desc
  have hcheck := Chip.excCheck_hif hyeq e
  have hypath : y.path = s.chip.path := by rw [hyeq]
  obtain ⟨f, hf⟩ : ∃ f : Frame, {
    data := body, entry := e.port, sub := e.sub, outPort := e.port, outSub := e.sub, sealMark := none, cls := e.cls,
    len := e.length + 4,
    host := some (some (24 + ring.val), e.cookie, b2n e.tsReq + 2 * b2n e.oneStep, e.cfOff) } = f := ⟨_, rfl⟩
  have hport : e.port < 16 := Chip.excCheck_port hgood
  obtain ⟨hqueue, htransit, hcfg, hportOf⟩ := directQueue_spec s.chip hport (he ▸ excOut_sub_lt _) (he ▸ excOut_cls_lt _)
  rw [hq] at hqueue htransit hcfg
  obtain ⟨n, hn⟩ : ∃ n, s.chip.path.next = n := ⟨_, rfl⟩
  obtain ⟨z, hz⟩ : ∃ z, (y.addFrame f).2 = z := ⟨_, rfl⟩
  have hadd : y.addFrame f = (n, z) := by
    rw [← hz, ← hn, ← hypath]
    rfl
  have hzset : z = { y.setFrame n (some f) with path := z.path } := by
    rw [← hz, ← hn, ← hypath]
    rfl
  have hzframes : z.path.frames = (y.setFrame n (some f)).path.frames := by
    rw [← hz, ← hn, ← hypath]
    rfl
  have hyframe : y.frame n = none := by rw [← hfree, Chip.frame, hypath, hn]; rfl
  have hdata : f.data = body := by rw [← hf]
  have hfkid : f.kid = none := by rw [← hf]
  have hzframe : z.frame n = some f := by
    rw [Chip.frame, hzframes]
    exact Chip.frame_setFrame_same y n (some f)
  have hzslu : z.slu = s.chip.slu := by rw [hzset, hyeq]; rfl
  have hzbuf : z.buf = s.chip.buf := by rw [hzset, hyeq]; rfl
  have hzkid : ∀ k, z.kidState k = s.chip.kidState k := fun k => by simp only [Chip.kidState, hzbuf]
  have hzregs : z.regs = s.chip.regs := by rw [hzset, hyeq]; rfl
  have hzcfg : z.queueCfg q = s.chip.queueCfg q := by simp only [Chip.queueCfg, hzslu]
  have hzst : z.queueSt q = s.chip.queueSt q := by simp only [Chip.queueSt, hzslu]
  have hzget : ∀ g i, z.getF g i = s.chip.getF g i := fun g i => Chip.getF_congr hzregs g i
  have hzdie : z.onDie q = s.chip.onDie q := by
    have hset := Chip.onDie_setFrame y n q f hfkid fun g hg => by rw [hyframe] at hg; cases hg
    have hy : y.onDie q = s.chip.onDie q := by rw [hyeq]; rfl
    rw [← hy, ← hset]
    simp only [Chip.onDie, Chip.frame, hzframes, hzst]
    rw [show (y.setFrame n (some f)).queueSt q = s.chip.queueSt q by rw [hyeq]; rfl]
  have hzqueued : z.odQueued ≤ s.chip.odQueued := by
    have hset := Chip.odQueued_setFrame_le y n f (by rw [← hf])
    rw [Chip.odQueued_eq, hzframes, ← Chip.odQueued_eq]
    refine hset.trans (Nat.le_of_eq ?_)
    rw [Chip.odQueued_eq, Chip.odQueued_eq, hypath]
  have hzgate : z.gateList (z.queueCfg q).port = none := by
    rw [hzcfg, hcfg, ← hgate]
    rw [hzset, hyeq]
    rfl
  obtain ⟨g, hg, hgdata, hgqueue, hgstage, hgport, hgsub, hghost, hbytes, hhif, hvlt⟩ :=
    Chip.enqueue_onDie (c := z) (q := q) hzframe hfkid (by rw [← hf]) (by rw [← hf]) (by rw [← hf]) hqueue (by rw [hzcfg, hen])
      (by rw [hzst, hzcfg, hdata, ← Nat.add_assoc]; exact hlimit)
      (by rw [hzget, ← hactive]; exact congrArg (fun n => decide (n = 1)) (hzkid _))
      (by rw [hzdie, hzcfg]; exact hshare)
      (by
        have hsame : z.odRoom = s.chip.odRoom := by simp only [Chip.odRoom, hzget]
        rw [hsame, hdata]
        omega) hzgate .queued (by rw [hzcfg, hcfg, hportOf]) (by rw [← hup, Chip.portUp, Chip.portUp, hzget])
      (by rw [hzcfg, htransit]) (by rw [← hf]; exact hport) (by rw [← hf])
  obtain ⟨d, hd⟩ : ∃ d, z.enqueue n q .queued = d := ⟨_, rfl⟩
  rw [hd] at hg hbytes hhif hvlt
  have hdring : d.ring (24 + ring.val) = y.ring (24 + ring.val) := by
    rw [Chip.ring, hhif, hzset]
    rfl
  rw [hn]
  refine completes_eq (f := fun c => c.excFetch ring.val (some desc) (some frame)) (d := d) rfl ?_
    ⟨⟨g, hg, by rw [hgdata, hdata], hgqueue, hgstage, hgport, hgsub, by rw [hghost, ← hf]⟩, by rw [hdring, hown],
      by rw [hbytes, hzst, hdata, Nat.add_assoc]⟩ ?_
  · simp only [Chip.excFetch, hy, he, hcheck, hgood, ne_eq, not_true, if_false, haction, hbody, hf, hadd, hq, hd]
  · rw [hvlt, hzset, hyeq]
    rfl

end

end Sys2Proof.Machine

/-! PROOFS. The arrival of frames, assembled (R30 to R35, R52, R53, R60, R102). -/
namespace Sys2Proof.Machine

section
variable {s : State} {n i ch : Nat} {f : Frame} (hf : s.chip.frame n = some f) (hstage : f.stage = .pool)
  (hearly : f.early = none) (hopens : s.chip.opensEarly f = true) (hmacsec : f.macsec = true)
  (hbefore : s.chip.lookupBefore n f = false)
  (hsc : (rxTag f.data f.typeAt).sc = true) (hgood : (rxTag f.data f.typeAt).good f.data f.typeAt true = true)
  (hch : s.chip.rxChannel f.entry f.sub (rxTag f.data f.typeAt).sci = some ch)
  (han : (s.chip.chan ch).saAt (rxTag f.data f.typeAt).an = some i) (hstate : (s.chip.sa i).state = 1)
  (hhold : (s.chip.sa i).hold = false)
  (hsuite : (rxTag f.data f.typeAt).good f.data f.typeAt (suiteXpn (s.chip.sa i).suite) = true)
include hf hstage hearly hopens hmacsec hbefore hsc hgood hch han hstate hhold hsuite

/-- A frame of a live SA is opened early. -/
theorem earlyLookup_opens (haccepts : (s.chip.sa i).accepts ((s.chip.sa i).recoverPn (rxTag f.data f.typeAt).pn) = true)
    (hmode : s.chip.inMode [.active, .standby] = true) (hstop : s.chip.pan.stopped = false)
    (hkey : (s.chip.slot (slotOf (s.chip.sa i).key)).state = 1) {o : Bytes × Bool}
    (ho : s.chip.macOpen i ((s.chip.sa i).recoverPn (rxTag f.data f.typeAt).pn) f.entry f.sub f.data f.typeAt = o) :
    completes (.earlyLookup n) s fun d =>
      d.frame n = some (f.opens { s.chip.earlyHit i (rxTag f.data f.typeAt).an ch with opened := true } i
        ((s.chip.sa i).recoverPn (rxTag f.data f.typeAt).pn) o.1 o.2) ∧
      (∃ k r, d.panReq k = some r ∧ r.kind = .opening ∧ r.subject = n) ∧ d.sax = s.chip.sax ∧ d.vlt = s.chip.vlt := by
  have hearlyEq := Chip.earlyLookup_of hf hstage hearly hopens hmacsec hbefore
  have hissue := Chip.earlyMacsec_accepted (n := n) hsc hgood hch han hstate hhold hsuite haccepts
  rw [ho] at hissue
  obtain ⟨hframe, hreq, heq⟩ := Chip.issueOpen_spec hf (e := s.chip.earlyHit i (rxTag f.data f.typeAt).an ch) (i := i)
    (pn := (s.chip.sa i).recoverPn (rxTag f.data f.typeAt).pn) (plain := o.1) (ok := o.2) hmode hstop hkey
  refine completes_eq (f := fun c => c.earlyLookup n) rfl (hearlyEq.trans hissue) ⟨hframe, hreq, ?_, ?_⟩ ?_ <;> rw [heq]

/-- A frame behind the replay window is marked and counted. -/
theorem earlyLookup_replays (haccepts : (s.chip.sa i).accepts ((s.chip.sa i).recoverPn (rxTag f.data f.typeAt).pn) = false) :
    completes (.earlyLookup n) s fun d =>
      d.frame n = some { f with early := some { s.chip.earlyHit i (rxTag f.data f.typeAt).an ch with fail := 0x8E, testFail := true } } ∧
      d.cntGet true (i * 4 + 3) = s.chip.cntGet true (i * 4 + 3) + 1 ∧ d.sax = s.chip.sax := by
  have hearlyEq := Chip.earlyLookup_of hf hstage hearly hopens hmacsec hbefore
  have hfail := Chip.earlyMacsec_replayed hf hsc hgood hch han hstate hhold hsuite haccepts
  refine completes_eq (f := fun c => c.earlyLookup n) rfl (hearlyEq.trans hfail) ⟨Chip.frame_setFrame_same _ _ _, ?_, ?_⟩ ?_
  · change (s.chip.count true (i * 4 + 3)).cntGet true (i * 4 + 3) = _
    rw [Chip.cntGet_count, if_pos ⟨rfl, rfl⟩]
    rfl
  · rw [Chip.setFrame, Chip.modPath_sax, Chip.count_eq]
  · rw [Chip.setFrame, Chip.modPath_vlt, Chip.count_eq]

end

/-- The frame that R30's checks drop, by the first check that fails. -/
theorem Chip.macCheck_of (c : Chip) (p b : Nat) (data : Bytes) :
    c.macCheck p b data false = 0x81 ∧ (data.length + 4 < 64 → c.macCheck p b data true = 0x82) ∧
      (64 ≤ data.length + 4 → c.maxLen p b < data.length + 4 → c.macCheck p b data true = 0x83) := by
  refine ⟨rfl, fun h => ?_, fun h h' => ?_⟩
  · rw [Chip.macCheck, Bool.not_true, if_neg Bool.false_ne_true, if_pos h]
  · rw [Chip.macCheck, Bool.not_true, if_neg Bool.false_ne_true, if_neg (by omega), if_pos h']

/-- Settles O41: the reception clauses by the checks and the pool's room, the early lookup by the SA's replay window, and the
driver's descriptors by their check. -/
theorem frameArrival : Obligations.FrameArrival := by
  unfold Obligations.FrameArrival
  intro s p b data n f
  obtain ⟨hfcs, hshort, hlong⟩ := s.chip.macCheck_of p.val b.val data
  refine ⟨fun hrun hup hcoming => ⟨frameReceive_drops hrun hup hcoming hfcs (by decide),
      fun hlen => frameReceive_drops hrun hup hcoming (hshort hlen) (by decide),
      fun hlen hmax => frameReceive_drops hrun hup hcoming (hlong hlen hmax) (by decide),
      fun hroom hkeys => ⟨fun hmin hmax hctl => frameReceive_enters hrun hup hcoming hroom hkeys hmin hmax hctl,
        fun ok => frameReceive_first_enters hrun hup hcoming hroom hkeys⟩,
      fun hroom ok => frameReceive_first_full hrun hup hcoming hroom⟩,
    fun hcoming hp hb hstage => ⟨frameReceive_fails hcoming hp hb hstage,
      fun hup hmin hmax hctl hlost hlearn => frameReceive_completes hcoming hp hb hup hmin hmax hctl hlost hlearn⟩,
    fun r hcoming hp hb _ hlost hopen hup hmin hmax hctl =>
      ⟨fun _ _ => frameReceive_lost hcoming hp hb hup hmin hmax hctl hlost hopen,
        fun hr hlogs htok => frameReceive_full hcoming hp hb hup hmin hmax hctl hlost hopen hr hlogs htok⟩,
    fun hf hstage _ hearly hopens hmacsec hbefore => ?_, fun ring desc frame => ?_⟩
  · intro t ch i hsc hgood hch han hstate hhold hsuite pn e
    exact ⟨fun haccepts hmode hstop hkey => earlyLookup_opens hf hstage hearly hopens hmacsec hbefore hsc hgood hch han hstate hhold
        hsuite haccepts hmode hstop hkey rfl,
      fun haccepts => earlyLookup_replays hf hstage hearly hopens hmacsec hbefore hsc hgood hch han hstate hhold hsuite haccepts⟩
  · intro r e q body hfetch _
    exact ⟨fun hbad hstale => excOutFetch_refuses hfetch hbad hstale,
      fun hok haction hup hen hlimit hactive hshare hroom hgate hfree => excOutFetch_accepts hfetch rfl rfl rfl hok haction hup hen
        hlimit hactive hshare hroom hgate hfree⟩

end Sys2Proof.Machine

/-! PROOFS. Pan admission, sealing, verdicts and the client framer (R36 to R49, R107). -/
namespace Sys2Proof.Machine

/-! ### Ports under events -/

/-- The registers of the ports are as they were. -/
def Chip.portRegs (c d : Chip) : Prop :=
  ∀ k, 0xA00000 * 32 ≤ k → SMap.get regReset d.regs k = SMap.get regReset c.regs k

namespace Chip.portRegs

variable {a c d : Chip}

theorem refl (c : Chip) : c.portRegs c := fun _ _ => rfl

theorem trans (h : a.portRegs c) (g : c.portRegs d) : a.portRegs d := fun k hk => (g k hk).trans (h k hk)

theorem of_eq (h : d.regs = c.regs) : c.portRegs d := fun _ _ => by rw [h]

theorem setF (c : Chip) {f : Fld} {i : List Nat} (v : Nat) (hf : f.key i < 0xA00000 * 32) : c.portRegs (c.setF f i v) := by
  intro k hk
  rw [Chip.setF_regs, SMap.get_set_other]
  rintro rfl
  omega

theorem raise (c : Chip) {code : Nat} (hcode : code < 0x3000) (src : Nat) (items : List (Nat × Nat)) :
    c.portRegs (c.raise code src items) := by
  simp only [Chip.raise]
  split_ifs
  · refine ((of_eq rfl).trans (setF _ _ ?_)).trans ((setF _ _ ?_).trans (setF _ _ ?_)) <;>
    simp only [Fld.key, F.EVR_CODE_CFG_supp_total, F.EVR_SUPP_CNT_count, F.EVR_STAT_supp, dotStrides] <;> omega
  all_goals exact of_eq rfl

theorem getF (h : c.portRegs d) {f : Fld} {i : List Nat} (hf : 0xA00000 * 32 ≤ f.key i) : d.getF f i = c.getF f i := by
  rw [Chip.getF, Chip.getF, h _ hf]

theorem sciTx (h : c.portRegs d) (p b : Nat) : d.sciTx p b = c.sciTx p b := by
  have hkey : 0xA00000 * 32 ≤ F.PRT_FRM_CFG_sci_tx.key [p - 8, b] := by
    simp only [Fld.key, F.PRT_FRM_CFG_sci_tx, dotStrides]
    omega
  rw [Chip.sciTx, Chip.sciTx, Chip.getB, Chip.getB, h.getF hkey]

theorem confOff (h : c.portRegs d) (p b : Nat) : d.confOff p b = c.confOff p b := by
  have hkey : 0xA00000 * 32 ≤ F.PRT_FRM_CFG_conf_off.key [p - 8, b] := by
    simp only [Fld.key, F.PRT_FRM_CFG_conf_off, dotStrides]
    omega
  rw [Chip.confOff, Chip.confOff, h.getF hkey]

end Chip.portRegs

/-! ### The next packet number -/

/-- A transmit SA after an allocation; whether it has announced its end and whether it has stopped are `soon` and `stopped`. -/
abbrev Sa.allocated (a : Sa) (soon stopped : Bool) : Sa := { a with nextPn := a.nextPn + 1, soon := soon, stopped := stopped }

/-- What an allocation of a packet number leaves: the contexts but its own, the channels, and what is neither register, event
nor association. -/
structure Chip.allocates (c : Chip) (i : Nat) (d : Chip) : Prop where
  own : ∃ soon stopped, d.sa i = (c.sa i).allocated soon stopped
  other : ∀ j, j ≠ i → d.sa j = c.sa j
  channels : d.sax.channels = c.sax.channels
  ports : c.portRegs d
  frame : d = { c with regs := d.regs, sax := d.sax, evr := d.evr }

theorem Chip.raise_frame (c : Chip) (code src : Nat) (items : List (Nat × Nat)) :
    c.raise code src items = { c with regs := (c.raise code src items).regs, evr := (c.raise code src items).evr } := by
  simp only [Chip.raise]
  split_ifs <;> rfl

/-- A state bit and its event leave the associations and the ports. -/
theorem Chip.allocates.said {c d : Chip} {i : Nat} (h : c.allocates i d) (f : Fld) (hf : f.key [] < 0xA00000 * 32) (code : Nat)
    (hcode : code < 0x3000) : c.allocates i ((d.setF f [] 1).raise code (saSource i)) := by
  obtain ⟨y, hy⟩ : ∃ y, d.setF f [] 1 = y := ⟨_, rfl⟩
  obtain ⟨z, hz⟩ : ∃ z, y.raise code (saSource i) = z := ⟨_, rfl⟩
  have hyeq : y = { d with regs := y.regs } := by rw [← hy]; rfl
  have hzeq : z = { y with regs := z.regs, evr := z.evr } := by rw [← hz]; exact Chip.raise_frame y code _ _
  have hsax : z.sax = d.sax := by rw [hzeq, hyeq]
  rw [hy, hz]
  refine ⟨?_, fun j hj => by rw [Chip.sa_congr hsax, h.other j hj], by rw [hsax, h.channels], ?_, ?_⟩
  · rw [Chip.sa_congr hsax]
    exact h.own
  · refine h.ports.trans (Chip.portRegs.trans (c := y) ?_ ?_)
    · rw [← hy]
      exact Chip.portRegs.setF d 1 hf
    · rw [← hz]
      exact Chip.portRegs.raise y hcode _ _
  · have hframe := h.frame
    rw [hzeq, hyeq, hframe]

theorem Chip.allocPn_spec (c : Chip) (i : Nat) : (c.allocPn i).1 = (c.sa i).nextPn ∧ c.allocates i (c.allocPn i).2 := by
  refine ⟨rfl, ?_⟩
  obtain ⟨soon, hsoon⟩ : ∃ soon, (decide (soonPn (c.sa i).suite ≤ (c.sa i).nextPn) && !(c.sa i).soon) = soon := ⟨_, rfl⟩
  obtain ⟨a, ha⟩ : ∃ a : Sa, { c.sa i with nextPn := (c.sa i).nextPn + 1, soon := (c.sa i).soon || soon } = a := ⟨_, rfl⟩
  obtain ⟨y, hy⟩ : ∃ y, (c.setSa i a).when soon (fun d => (d.setF F.SAX_STAT_soon [] 1).raise Ev.REKEY_SOON (saSource i)) = y :=
    ⟨_, rfl⟩
  have hset : c.allocates i (c.setSa i a) := by
    refine ⟨⟨(c.sa i).soon || soon, (c.sa i).stopped, by rw [Chip.sa_setSa, ← ha]⟩, fun j hj => Chip.sa_setSa_other c a hj, rfl,
      Chip.portRegs.of_eq rfl, rfl⟩
  have hyspec : c.allocates i y :=
    hy ▸ Chip.when_induct _ hset fun _ => (hset.said F.SAX_STAT_soon (by decide) Ev.REKEY_SOON (by decide))
  have hresult : (c.allocPn i).2 = y.when ((c.sa i).nextPn = lastPn (c.sa i).suite) fun d => d.stopSa i := by
    rw [← hy, ← ha, ← hsoon]
    rfl
  rw [hresult]
  refine Chip.when_induct _ hyspec ?_
  have hstop : c.allocates i (y.setSa i { y.sa i with stopped := true }) := by
    obtain ⟨s, t, hown⟩ := hyspec.own
    refine ⟨⟨s, true, by rw [Chip.sa_setSa, hown]⟩, fun j hj => ?_, hyspec.channels, hyspec.ports.trans (Chip.portRegs.of_eq rfl), ?_⟩
    · rw [Chip.sa_setSa_other y _ hj]
      exact hyspec.other j hj
    · have hframe := hyspec.frame
      obtain ⟨w, hw⟩ : ∃ w, y.setSa i { y.sa i with stopped := true } = w := ⟨_, rfl⟩
      have hweq : w = { y with sax := w.sax } := by rw [← hw]; rfl
      rw [hw, hweq, hframe]
  exact fun _ => hstop.said F.SAX_STAT_stopped (by decide) Ev.PN_EXHAUSTED (by decide)

/-! ### Pan admission -/

/-- A frame with the result of its seal. -/
abbrev Frame.sealed (f : Frame) (data : Bytes) (j pn : Nat) (w : Bool × BitVec 256 × BitVec 96 × Nat × Nat) : Frame :=
  { f with plain := f.data, data := data, sa := some j, pn := pn, sealWith := some w, stage := .pan }

/-- What is sealed under an association does not depend on what its allocation changed. -/
theorem Chip.allocates.macSeal {c d : Chip} {i : Nat} (h : c.allocates i d) (pn p b : Nat) (data : Bytes) :
    d.macSeal i pn p b data = c.macSeal i pn p b data := by
  obtain ⟨soon, stopped, hown⟩ := h.own
  have hslot : ∀ k, d.slot k = c.slot k := fun k => by
    rw [h.frame]
    rfl
  have hchan : ∀ k, d.chan k = c.chan k := fun k => by simp only [Chip.chan, h.channels]
  simp only [Chip.macSeal, hown, hslot, hchan, h.ports.sciTx, h.ports.confOff]
  rfl

theorem Chip.allocates.sealPort {c d : Chip} {i : Nat} (h : c.allocates i d) (f : Frame) : d.sealPort f = c.sealPort f := by
  have hsa : ∀ k, (d.sa k).channel = (c.sa k).channel := by
    intro k
    by_cases hk : k = i
    · obtain ⟨soon, stopped, hown⟩ := h.own
      rw [hk, hown]
    · rw [h.other k hk]
  have hchan : ∀ k, d.chan k = c.chan k := fun k => by simp only [Chip.chan, h.channels]
  simp only [Chip.sealPort, hsa, hchan]

section
variable {s : State} {n : Nat} {f : Frame} {h : Word} (hf : s.chip.frame n = some f) (hstage : f.stage = .admission)
  (hmark : f.sealMark = some h)
include hf hstage hmark

theorem panAdmission_waits (hgood : s.chip.admitTest h f.outPort f.outSub = 0)
    (hwait : s.chip.mayAllocate (s.chip.sealTarget h) = false ∨ s.chip.sealBefore n f = true) :
    completes (.panAdmission n) s fun d => d = s.chip := by
  refine completes_eq (f := fun c => c.panAdmission n) (d := s.chip) rfl ?_ rfl rfl
  have hcond : (!s.chip.mayAllocate (s.chip.sealTarget h) || s.chip.sealBefore n f) = true := by
    rcases hwait with hw | hw
    · rw [hw]
      rfl
    · rw [hw, Bool.or_true]
  simp only [Chip.panAdmission, Chip.onFrame_some hf, hstage, hmark, hgood, ne_eq, not_true, if_false, hcond, if_true]

theorem panAdmission_drops (hbad : s.chip.admitTest h f.outPort f.outSub ≠ 0) (hstale : s.chip.admitTest h f.outPort f.outSub ≠ 0x8A)
    (hhost : f.host = none) (hcoming : f.coming = false) (hqueue : f.queue = none) (hearly : f.early = none)
    (hingot : f.isIngot = true → f.verdict.getD 0 = 0) : completes (.panAdmission n) s fun d =>
      (d.frame n = none ∧ d.cntGet false (schedOf f.entry f.sub * 0x80 + 0x20 + (s.chip.admitTest h f.outPort f.outSub - 0x80)) =
        s.chip.cntGet false (schedOf f.entry f.sub * 0x80 + 0x20 + (s.chip.admitTest h f.outPort f.outSub - 0x80)) + 1) ∧
      d.sax = s.chip.sax := by
  obtain ⟨frames, hdrop, hgone⟩ := Chip.dropFrame_free (reason := s.chip.admitTest h f.outPort f.outSub) hf (by rw [hstage]; simp)
    hqueue hcoming hearly hhost hingot
  obtain ⟨d, hd⟩ : ∃ d, s.chip.dropFrame n (s.chip.admitTest h f.outPort f.outSub) = d := ⟨_, rfl⟩
  rw [hd] at hdrop
  refine completes_eq (f := fun c => c.panAdmission n) (d := d) rfl ?_ ⟨⟨?_, ?_⟩, by rw [hdrop]⟩ (by rw [hdrop])
  · simp only [Chip.panAdmission, Chip.onFrame_some hf, hstage, hmark, ne_eq, hbad, not_false_eq_true, if_true, hstale, decide_false,
      Chip.when_false]
    exact hd
  · rw [hdrop]
    exact hgone
  · have hcnt : d.cnt = (s.chip.portCount (schedOf f.entry f.sub)
        (0x20 + (s.chip.admitTest h f.outPort f.outSub - 0x80))).cnt := by rw [hdrop]
    rw [Chip.cntGet_congr hcnt, Chip.portCount, Chip.cntGet_count, if_pos ⟨rfl, by omega⟩]
    rfl

theorem panAdmission_seals {j : Nat} (hj : s.chip.sealTarget h = j) {pb : Nat × Nat} (hpb : s.chip.sealPort f = pb)
    (hgood : s.chip.admitTest h f.outPort f.outSub = 0) (hmay : s.chip.mayAllocate j = true) (hbefore : s.chip.sealBefore n f = false) :
    completes (.panAdmission n) s fun d =>
      d.frame n = some (f.sealed (s.chip.macSeal j (s.chip.sa j).nextPn pb.1 pb.2 f.data) j (s.chip.sa j).nextPn
        (suite256 (s.chip.sa j).suite, (s.chip.slot (slotOf (s.chip.sa j).key)).key,
          macIv (s.chip.sa j) (if s.chip.sciTx pb.1 pb.2 then (s.chip.chan (s.chip.sa j).channel).sci.toNat
            else beNat (slice f.data 6 6) * 2 ^ 16 + 1) (s.chip.sa j).nextPn,
          if s.chip.sciTx pb.1 pb.2 then 16 else 8, s.chip.confOff pb.1 pb.2)) ∧
      (d.sa j).nextPn = (s.chip.sa j).nextPn + 1 ∧ (∀ x, x ≠ j → d.sa x = s.chip.sa x) ∧
      (∃ k r, d.panReq k = some r ∧ r.kind = .sealing ∧ r.subject = n) ∧ d.vlt = s.chip.vlt := by
  obtain ⟨hpn, hspec⟩ := s.chip.allocPn_spec j
  obtain ⟨pn, y, hy⟩ : ∃ pn y, s.chip.allocPn j = (pn, y) := ⟨_, _, rfl⟩
  rw [hy] at hpn hspec
  simp only at hpn hspec
  obtain ⟨g, hg⟩ : ∃ g, f.sealed (s.chip.macSeal j (s.chip.sa j).nextPn pb.1 pb.2 f.data) j (s.chip.sa j).nextPn
        (suite256 (s.chip.sa j).suite, (s.chip.slot (slotOf (s.chip.sa j).key)).key,
          macIv (s.chip.sa j) (if s.chip.sciTx pb.1 pb.2 then (s.chip.chan (s.chip.sa j).channel).sci.toNat
            else beNat (slice f.data 6 6) * 2 ^ 16 + 1) (s.chip.sa j).nextPn,
          if s.chip.sciTx pb.1 pb.2 then 16 else 8, s.chip.confOff pb.1 pb.2) = g := ⟨_, rfl⟩
  have hchan : ∀ k, y.chan k = s.chip.chan k := fun k => by simp only [Chip.chan, hspec.channels]
  have hseal : s.chip.panAdmission n = (y.setFrame n (some g)).panAdmit .sealing (slotOf (s.chip.sa j).key)
      (s.chip.slot (slotOf (s.chip.sa j).key)).generation n 0 (f.data.length / 16 + 1) := by
    rw [Chip.panAdmission, Chip.onFrame_some hf, ← hg]
    simp only [hstage, hmark, hgood, ne_eq, not_true, if_false, hj, hmay, hbefore, Bool.not_true, Bool.or_self, Bool.false_eq_true,
      hy, Frame.sealed, hspec.sealPort, hpb, hspec.ports.sciTx, hspec.ports.confOff, hchan, hspec.macSeal, hpn]
  rw [hg]
  obtain ⟨d, hd⟩ : ∃ d, s.chip.panAdmission n = d := ⟨_, rfl⟩
  obtain ⟨hframe, -, q, hq, hkind, hsubject⟩ := Chip.panAdmit_spec (hseal.symm.trans hd)
  have hsax : d.sax = y.sax := by rw [hframe]; rfl
  have hvlt : d.vlt = s.chip.vlt := by
    have hyvlt : y.vlt = s.chip.vlt := by rw [hspec.frame]
    rw [← hyvlt, hframe]
    rfl
  refine completes_eq (f := fun c => c.panAdmission n) (d := d) rfl hd ⟨?_, ?_, fun x hx => ?_, ⟨_, q, hq, hkind, hsubject⟩, hvlt⟩
    (by rw [hvlt])
  · have hsame : (y.setFrame n (some g)).frame n = some g := Chip.frame_setFrame_same y n (some g)
    rw [← hsame, hframe]
    rfl
  · obtain ⟨soon, stopped, hown⟩ := hspec.own
    rw [Chip.sa_congr hsax, hown]
  · rw [Chip.sa_congr hsax, hspec.other x hx]

end

end Sys2Proof.Machine

/-! PROOFS. Sealed frames, verdicts and the client framer (R38, R42, R45, R49). -/
namespace Sys2Proof.Machine

section
variable {s : State} {n : Nat} {f : Frame} (hf : s.chip.frame n = some f)
include hf

/-! ### A seal that has completed -/

theorem sealComplete_counts {k : Nat} {r : PanReq} (hturn : (s.chip.turnOf fun r => r.kind = .sealing && r.subject = n) = some (k, r))
    (hpoison : s.chip.readsPoison f = false) (hbm : f.inHbm = false) : completes (.sealComplete n) s fun d =>
      (d.frame n).map (fun g => { g with die := f.die }) = some { f with stage := .queued } ∧
      d.cntGet true (f.sa.getD 0 * 4) = s.chip.cntGet true (f.sa.getD 0 * 4) + 1 ∧ d.sax = s.chip.sax := by
  obtain ⟨y, hy⟩ : ∃ y, s.chip.panDone k = y := ⟨_, rfl⟩
  have hyeq : y = { s.chip with pan := y.pan } := by
    rw [← hy]
    exact (Chip.onlyPan.refl s.chip).panDone k
  have hyframe : y.frame n = some f := by
    rw [← hf, hyeq]
    rfl
  obtain ⟨z, hz⟩ : ∃ z, (((y.count true (f.sa.getD 0 * 4)).count true (f.sa.getD 0 * 4 + 1)
      (y.secretLen (y.sealPort f).1 (y.sealPort f).2 f.plain)).when (isLine f.outPort) fun c =>
        c.portCount (schedOf (y.sealPort f).1 (y.sealPort f).2) 4) = z := ⟨_, rfl⟩
  have hzeq : z = { y with cnt := z.cnt } := by
    rw [← hz]
    refine Chip.when_induct (P := fun z => z = { y with cnt := z.cnt }) _ ?_ fun h => ?_
    · rw [Chip.count_eq, Chip.count_eq]
    · rw [Chip.portCount, Chip.count_eq, h]
  have hzcnt : z.cntGet true (f.sa.getD 0 * 4) = s.chip.cntGet true (f.sa.getD 0 * 4) + 1 := by
    have hycnt : y.cnt = s.chip.cnt := by rw [hyeq]
    rw [← Chip.cntGet_congr hycnt, ← hz]
    refine Chip.when_induct (P := fun z => z.cntGet true (f.sa.getD 0 * 4) = y.cntGet true (f.sa.getD 0 * 4) + 1) _ ?_ fun h => ?_
    · rw [Chip.cntGet_count, if_neg (by omega), Chip.cntGet_count, if_pos ⟨rfl, rfl⟩]
      rfl
    · rw [Chip.portCount, Chip.cntGet_count, if_neg (by simp), h]
  have hzpoison : z.readsPoison f = false := by
    rw [← hpoison, hzeq, hyeq]
    rfl
  obtain ⟨g, hg⟩ : ∃ g : Frame, { f with stage := .queued } = g := ⟨_, rfl⟩
  obtain ⟨w, hw⟩ : ∃ w, z.setFrame n (some g) = w := ⟨_, rfl⟩
  have hwframe : w.frame n = some g := by
    rw [← hw]
    exact Chip.frame_setFrame_same _ _ _
  have hweq : w = { z with path := w.path } := by
    rw [← hw]
    rfl
  have hseal : s.chip.sealComplete n = w.dieStore n := by
    simp only [Chip.sealComplete, hturn, hy]
    rw [Chip.onFrame_some hyframe]
    simp only [hz, hzpoison, Bool.false_eq_true, if_false, hg, hw]
    rw [Chip.frameWrite, Chip.onFrame_some hwframe, if_neg (by rw [← hg]; simp [hbm])]
  have hstore : (∃ l, (w.dieStore n).frame n = some { g with die := l }) ∧
      w.dieStore n = { w with path := (w.dieStore n).path, buf := (w.dieStore n).buf } := by
    rcases g.kid.eq_none_or_eq_some with hkid | ⟨kid, hkid⟩
    · have hstay : w.dieStore n = w := by
        rw [Chip.dieStore, Chip.onFrame_some hwframe]
        simp only [hkid]
      rw [hstay]
      exact ⟨⟨g.die, hwframe⟩, rfl⟩
    · exact Chip.dieStore_spec hwframe hkid
  obtain ⟨d, hd⟩ : ∃ d, w.dieStore n = d := ⟨_, rfl⟩
  rw [hd] at hseal hstore
  obtain ⟨⟨l, hl⟩, hdeq⟩ := hstore
  refine completes_eq (f := fun c => c.sealComplete n) (d := d) rfl hseal ⟨?_, ?_, ?_⟩ ?_
  · rw [hl, ← hg]
    rfl
  · have hcnt : d.cnt = z.cnt := by rw [hdeq, hweq]
    rw [Chip.cntGet_congr hcnt, hzcnt]
  · rw [hdeq, hweq, hzeq, hyeq]
  · rw [hdeq, hweq, hzeq, hyeq]

/-! ### A verdict -/

omit hf in
theorem Chip.flushHost_none {c : Chip} {f : Frame} (hf : c.frame n = some f) (hwaits : f.hostWaits = []) :
    c.flushHost n = c.setFrame n (some f) := by
  have hsame : ({ f with hostWaits := [] } : Frame) = f := by rw [← hwaits]
  rw [Chip.flushHost, Chip.onFrame_some hf, hwaits, hsame]
  simp only [Chip.each_nil, ite_self]

section
variable {k : Nat} {r : PanReq} (hturn : (s.chip.turnOf fun r => r.kind = .opening && r.subject = n) = some (k, r))
  (hingot : f.isIngot = false) (hbefore : s.chip.openBefore n f = false) (hstage : f.stage = .opening) (hwaits : f.hostWaits = [])
  (hcoming : f.coming = false)
include hturn hingot hbefore hstage hwaits hcoming

omit hwaits in
/-- The verdict of a MACsec frame that awaits it: its request leaves its Pan, its association learns of it, and the frame goes to
its queue or is dropped. -/
theorem openVerdict_of {v : Nat} {y z w : Chip} (hy : s.chip.panDone k = y)
    (hz : y.verdictSa f (y.secretLen f.entry f.sub f.plain) = (v, z))
    (hw : ((z.when (v = 0) fun c => c.portCount (schedOf f.entry f.sub) 5).setFrame n
      (some { f with verdict := some v })).flushHost n = w) (hwframe : w.frame n = some { f with verdict := some v }) :
    s.chip.openVerdict n = if v = 0 then w.setFrame n (some { f with verdict := some v, stage := .queued })
      else w.dropFrame n (if v = 1 then 0x8F else 0x90) := by
  have hguard : (f.isIngot || f.coming || s.chip.openBefore n f) = false := by rw [hingot, hcoming, hbefore]; rfl
  simp only [hstage] at hw hwframe
  simp only [Chip.openVerdict, hturn, hf, hguard, Bool.false_eq_true, if_false, hy, hz, hstage, hw, Chip.onFrame_some hwframe]

omit hturn hingot hbefore hstage hcoming hf in
/-- What stands after a verdict has been written into its frame. -/
theorem Chip.verdict_written (y : Chip) (v : Nat) : ∃ w, ((y.when (v = 0) fun c => c.portCount (schedOf f.entry f.sub) 5).setFrame n
      (some { f with verdict := some v })).flushHost n = w ∧ w.frame n = some { f with verdict := some v } ∧
      w = { y with path := w.path, cnt := w.cnt } ∧ (∀ j, w.cntGet true j = y.cntGet true j) ∧ (v ≠ 0 → w.cnt = y.cnt) := by
  obtain ⟨g, hg⟩ : ∃ g : Frame, { f with verdict := some v } = g := ⟨_, rfl⟩
  obtain ⟨x, hx⟩ : ∃ x, (y.when (v = 0) fun c => c.portCount (schedOf f.entry f.sub) 5) = x := ⟨_, rfl⟩
  have hxspec : x = { y with cnt := x.cnt } ∧ ∀ j, x.cntGet true j = y.cntGet true j := by
    rw [← hx]
    refine Chip.when_induct (P := fun x => x = { y with cnt := x.cnt } ∧ ∀ j, x.cntGet true j = y.cntGet true j) _ ⟨rfl, fun _ => rfl⟩
      fun _ => ⟨?_, fun j => ?_⟩
    · rw [Chip.portCount, Chip.count_eq]
    · rw [Chip.portCount, Chip.cntGet_count, if_neg (by simp)]
  obtain ⟨hxeq, hxcnt⟩ := hxspec
  have hsame : (x.setFrame n (some g)).frame n = some g := Chip.frame_setFrame_same _ _ _
  have hflush : (x.setFrame n (some g)).flushHost n = (x.setFrame n (some g)).setFrame n (some g) :=
    Chip.flushHost_none hsame (by rw [← hg]; exact hwaits)
  rw [hg, hx, hflush]
  refine ⟨_, rfl, Chip.frame_setFrame_same _ _ _, ?_, hxcnt, fun hv => ?_⟩
  · obtain ⟨w, hw⟩ : ∃ w, (x.setFrame n (some g)).setFrame n (some g) = w := ⟨_, rfl⟩
    have hweq : w = { x with path := w.path } := by
      rw [← hw]
      rfl
    rw [hw, hweq, hxeq]
  · rw [Chip.setFrame, Chip.modPath_cnt, Chip.setFrame, Chip.modPath_cnt, ← hx, decide_eq_false hv, Chip.when_false]

theorem openVerdict_passes (hicv : f.icvOk = true) (hhandle : s.chip.saHandle (f.sa.getD 0) = (f.early.getD {}).handle)
    (haccepts : (s.chip.sa (f.sa.getD 0)).accepts f.pn = true) : completes (.openVerdict n) s fun d =>
      d.frame n = some { f with verdict := some 0, stage := .queued } ∧
      d.sa (f.sa.getD 0) = (s.chip.sa (f.sa.getD 0)).record f.pn ∧ (∀ x, x ≠ f.sa.getD 0 → d.sa x = s.chip.sa x) ∧
      d.cntGet true (f.sa.getD 0 * 4) = s.chip.cntGet true (f.sa.getD 0 * 4) + 1 := by
  obtain ⟨i, hi⟩ : ∃ i, f.sa.getD 0 = i := ⟨_, rfl⟩
  rw [hi] at hhandle haccepts ⊢
  obtain ⟨y, hy⟩ : ∃ y, s.chip.panDone k = y := ⟨_, rfl⟩
  have hyeq : y = { s.chip with pan := y.pan } := by
    rw [← hy]
    exact (Chip.onlyPan.refl s.chip).panDone k
  have hysax : y.sax = s.chip.sax := by rw [hyeq]
  have hyhandle : y.saHandle i = s.chip.saHandle i := by simp only [Chip.saHandle, Chip.sa_congr hysax]
  obtain ⟨x, hx⟩ : ∃ x, y.setSa i ((y.sa i).record f.pn) = x := ⟨_, rfl⟩
  obtain ⟨z, hz⟩ : ∃ z, (x.count true (i * 4)).count true (i * 4 + 1) (y.secretLen f.entry f.sub f.plain) = z := ⟨_, rfl⟩
  have hverdict : y.verdictSa f (y.secretLen f.entry f.sub f.plain) = (0, z) := by
    simp only [Chip.verdictSa, hi, hicv, Bool.not_true, Bool.false_eq_true, if_false, hyhandle, hhandle, decide_true, Bool.true_and,
      Chip.sa_congr hysax, haccepts, Chip.when_true]
    rw [Chip.sa_congr hysax] at hx
    rw [hx, hz]
  have hzeq : z = { x with cnt := z.cnt } := by
    rw [← hz, Chip.count_eq, Chip.count_eq]
  have hzcnt : z.cntGet true (i * 4) = s.chip.cntGet true (i * 4) + 1 := by
    have hxcnt : x.cnt = s.chip.cnt := by rw [← hx, Chip.setSa, Chip.modSax_cnt, hyeq]
    rw [← Chip.cntGet_congr hxcnt, ← hz, Chip.cntGet_count, if_neg (by omega), Chip.cntGet_count, if_pos ⟨rfl, rfl⟩]
    rfl
  obtain ⟨w, hw, hwframe, hweq, hwcnt, -⟩ := z.verdict_written (n := n) hwaits 0
  have hresult := openVerdict_of hf hturn hingot hbefore hstage hcoming hy hverdict hw hwframe
  rw [if_pos rfl] at hresult
  obtain ⟨g, hg⟩ : ∃ g : Frame, { f with verdict := some 0, stage := .queued } = g := ⟨_, rfl⟩
  rw [hg] at hresult ⊢
  obtain ⟨d, hd⟩ : ∃ d, w.setFrame n (some g) = d := ⟨_, rfl⟩
  have hdeq : d = { w with path := d.path } := by rw [← hd]; rfl
  have hsax : d.sax = x.sax := by rw [hdeq, hweq, hzeq]
  refine completes_eq (f := fun c => c.openVerdict n) (d := d) rfl (hresult.trans hd) ⟨?_, ?_, fun j hj => ?_, ?_⟩ ?_
  · rw [← hd]
    exact Chip.frame_setFrame_same _ _ _
  · rw [Chip.sa_congr hsax, ← hx, Chip.sa_setSa, Chip.sa_congr hysax]
  · rw [Chip.sa_congr hsax, ← hx, Chip.sa_setSa_other _ _ hj, Chip.sa_congr hysax]
  · have hcnt : d.cnt = w.cnt := by rw [hdeq]
    rw [Chip.cntGet_congr hcnt, hwcnt, hzcnt]
  · rw [hdeq, hweq, hzeq, ← hx, Chip.setSa, Chip.modSax_vlt, hyeq]

theorem openVerdict_fails (hicv : f.icvOk = false) (hqueue : f.queue = none) (hhost : f.host = none) :
    completes (.openVerdict n) s fun d =>
      (d.frame n = none ∧ d.cntGet false (schedOf f.entry f.sub * 0x80 + 0x20 + (0x8F - 0x80)) =
        s.chip.cntGet false (schedOf f.entry f.sub * 0x80 + 0x20 + (0x8F - 0x80)) + 1) ∧ d.sax = s.chip.sax ∧
      d.cntGet true (f.sa.getD 0 * 4 + 2) = s.chip.cntGet true (f.sa.getD 0 * 4 + 2) + 1 := by
  obtain ⟨i, hi⟩ : ∃ i, f.sa.getD 0 = i := ⟨_, rfl⟩
  obtain ⟨y, hy⟩ : ∃ y, s.chip.panDone k = y := ⟨_, rfl⟩
  have hyeq : y = { s.chip with pan := y.pan } := by
    rw [← hy]
    exact (Chip.onlyPan.refl s.chip).panDone k
  have hycnt : y.cnt = s.chip.cnt := by rw [hyeq]
  obtain ⟨z, hz⟩ : ∃ z, y.count true (i * 4 + 2) = z := ⟨_, rfl⟩
  have hverdict : y.verdictSa f (y.secretLen f.entry f.sub f.plain) = (1, z) := by
    rw [Chip.verdictSa, hi, hicv]
    simp only [Bool.not_false, if_true, hz]
  have hzeq : z = { y with cnt := z.cnt } := by rw [← hz, Chip.count_eq]
  obtain ⟨w, hw, hwframe, hweq, -, hwcnt⟩ := z.verdict_written (n := n) hwaits 1
  have hresult := openVerdict_of hf hturn hingot hbefore hstage hcoming hy hverdict hw hwframe
  rw [if_neg (by decide), if_pos rfl] at hresult
  have hwcnt' : w.cnt = z.cnt := hwcnt (by decide)
  obtain ⟨g, hg⟩ : ∃ g : Frame, { f with verdict := some 1 } = g := ⟨_, rfl⟩
  rw [hg] at hwframe
  obtain ⟨frames, hdrop, hgone⟩ := Chip.dropFrame_proved (reason := 0x8F) hwframe (by rw [← hg]; simp [hstage])
    (by rw [← hg]; exact hqueue) (by rw [← hg]; exact hcoming) (by rw [← hg]; rfl) (by rw [← hg]; exact hhost)
    (fun h => by rw [← hg] at h; exact absurd (hingot.symm.trans h) (by decide))
  obtain ⟨d, hd⟩ : ∃ d, w.dropFrame n 0x8F = d := ⟨_, rfl⟩
  rw [hd] at hdrop hresult
  have hsub : g.entry = f.entry ∧ g.sub = f.sub := by rw [← hg]; exact ⟨rfl, rfl⟩
  have hdcnt : d.cnt = (w.portCount (schedOf f.entry f.sub) (0x20 + (0x8F - 0x80))).cnt := by rw [hdrop, hsub.1, hsub.2]
  rw [hi]
  refine completes_eq (f := fun c => c.openVerdict n) (d := d) rfl hresult ⟨⟨?_, ?_⟩, ?_, ?_⟩ ?_
  · rw [hdrop]
    exact hgone
  · rw [Chip.cntGet_congr hdcnt, Chip.portCount, Chip.cntGet_count, if_pos ⟨rfl, by omega⟩, Chip.cntGet_congr hwcnt', ← hz,
      Chip.cntGet_count, if_neg (by simp), Chip.cntGet_congr hycnt]
    rfl
  · rw [hdrop, hweq, hzeq, hyeq]
  · rw [Chip.cntGet_congr hdcnt, Chip.portCount, Chip.cntGet_count, if_neg (by simp), Chip.cntGet_congr hwcnt', ← hz,
      Chip.cntGet_count, if_pos ⟨rfl, rfl⟩, Chip.cntGet_congr hycnt]
    rfl
  · rw [hdrop, hweq, hzeq, hyeq]
end

end

end Sys2Proof.Machine

/-! PROOFS. The client framer, and the frame paths assembled (R36 to R49, R107). -/
namespace Sys2Proof.Machine

/-- A frame that ends, whole and without an OPEN under way: it is gone, and its queue counts it no more. -/
theorem Chip.removeFrame_gone {c : Chip} {n : Nat} {f : Frame} (hf : c.frame n = some f) (hcoming : f.coming = false)
    (hopen : f.openPending = false) : (c.removeFrame n).frame n = none ∧ (c.removeFrame n).slu.picked = c.slu.picked ∧
      c.removeFrame n = { c with path := (c.removeFrame n).path, slu := (c.removeFrame n).slu } := by
  rcases f.queue.eq_none_or_eq_some with hq | ⟨q, hq⟩
  · rw [Chip.removeFrame_free hf hq hcoming hopen]
    exact ⟨Chip.frame_setFrame_same _ _ _, rfl, rfl⟩
  · obtain ⟨v, hv⟩ : ∃ v : QueueSt, { c.queueSt q with
      frames := (c.queueSt q).frames.filter (· ≠ n), bytes := (c.queueSt q).bytes - f.stored } = v := ⟨_, rfl⟩
    obtain ⟨g, hg⟩ : ∃ g : Frame, { f with queue := none } = g := ⟨_, rfl⟩
    obtain ⟨y, hy⟩ : ∃ y, (c.setQueueSt q v).setFrame n (some g) = y := ⟨_, rfl⟩
    have hyframe : y.frame n = some g := by
      rw [← hy]
      exact Chip.frame_setFrame_same _ _ _
    have hyeq : y = { c with path := y.path, slu := y.slu } ∧ y.slu.picked = c.slu.picked := by
      rw [← hy]
      exact ⟨rfl, rfl⟩
    have hunqueue : c.unqueue n = y := by
      rw [Chip.unqueue, Chip.onFrame_some hf]
      simp only [hq, hv, hg, hy]
    have hremove : c.removeFrame n = y.setFrame n none := by
      have hend : (g.coming || g.openPending) = false := by
        rw [← hg]
        exact (congrArg₂ (· || ·) hcoming hopen)
      rw [Chip.removeFrame, hunqueue, Chip.onFrame_some hyframe, hend]
      rfl
    rw [hremove]
    refine ⟨Chip.frame_setFrame_same _ _ _, hyeq.2, ?_⟩
    obtain ⟨w, hw⟩ : ∃ w, y.setFrame n none = w := ⟨_, rfl⟩
    have hweq : w = { y with path := w.path } := by
      rw [← hw]
      rfl
    rw [hw, hweq, hyeq.1]

/-- The counts of a frame that leaves its queue. -/
def Chip.queueSent (c : Chip) (f : Frame) : Chip :=
  match f.queue with
  | some q => (c.count false (0x10000 + q * 4)).count false (0x10000 + q * 4 + 1) f.len
  | none => c

theorem Chip.queueSent_spec (c : Chip) (f : Frame) :
    c.queueSent f = { c with cnt := (c.queueSent f).cnt } ∧
      ∀ j, j < 0x10000 → (c.queueSent f).cntGet false j = c.cntGet false j := by
  rcases f.queue.eq_none_or_eq_some with hq | ⟨q, hq⟩
  · simp only [Chip.queueSent, hq]
    exact ⟨trivial, fun _ _ => trivial⟩
  · simp only [Chip.queueSent, hq]
    refine ⟨by rw [Chip.count_eq, Chip.count_eq], fun j hj => ?_⟩
    rw [Chip.cntGet_count, if_neg (by omega), Chip.cntGet_count, if_neg (by omega)]

/-- A frame without insertion, seal or completion leaves a port as it stands. -/
theorem Chip.depart_plain {c : Chip} {n : Nat} {f : Frame} (hf : c.frame n = some f) (hhost : f.host = none)
    (hcoming : f.coming = false) (hearly : f.early = none) (hbound : f.bound = none) (hseal : f.sealWith = none)
    (hmark : f.depMark = none) (hpoison : c.readsPoison f = false) (hport : schedOf f.outPort f.outSub < 64) :
    (c.depart n false).out = c.out ++ [.frame f.outPort f.outSub f.data false] ∧ (c.depart n false).frame n = none ∧
      (c.depart n false).slu.picked = c.slu.picked ∧
      (c.depart n false).cntGet false (schedOf f.outPort f.outSub * 0x80 + 2) =
        c.cntGet false (schedOf f.outPort f.outSub * 0x80 + 2) + 1 ∧
      (c.depart n false).regs = c.regs ∧ (c.depart n false).sax = c.sax ∧ (c.depart n false).vlt = c.vlt := by
  obtain ⟨sp, hsp⟩ : ∃ sp, schedOf f.outPort f.outSub = sp := ⟨_, rfl⟩
  obtain ⟨y, hy⟩ : ∃ y, c.queueSent f = y := ⟨_, rfl⟩
  have hyspec := c.queueSent_spec f
  rw [hy] at hyspec
  obtain ⟨hyeq, hycnt⟩ := hyspec
  have hyframe : y.frame n = some f := by
    rw [← hf, hyeq]
    rfl
  obtain ⟨hgone, hpicked, hzeq⟩ := Chip.removeFrame_gone hyframe hcoming (Frame.openPending_of_early hearly)
  obtain ⟨z, hz⟩ : ∃ z, y.removeFrame n = z := ⟨_, rfl⟩
  rw [hz] at hgone hpicked hzeq
  obtain ⟨o, ho⟩ : ∃ o, Output.frame f.outPort f.outSub f.data false = o := ⟨_, rfl⟩
  obtain ⟨w, hw⟩ : ∃ w, (z.txCapture sp).emit o = w := ⟨_, rfl⟩
  have hdepart : c.depart n false = (w.portCount sp 2).portCount sp 3 (f.data.length + 4) := by
    rw [Chip.depart, Chip.onFrame_some hf]
    simp only [hpoison, hhost, hbound, hseal, hmark, Bool.false_eq_true, if_false, Option.isSome_none, Bool.or_self, Bool.false_and,
      Chip.when_false, hsp, ho]
    rw [← hw, ← hz, ← hy]
    rcases f.queue.eq_none_or_eq_some with hq | ⟨q, hq⟩
    · simp only [Chip.queueSent, hq]
    · simp only [Chip.queueSent, hq]
  obtain ⟨d, hd⟩ : ∃ d, (w.portCount sp 2).portCount sp 3 (f.data.length + 4) = d := ⟨_, rfl⟩
  have hdeq : d = { w with cnt := d.cnt } := by
    rw [← hd, Chip.portCount, Chip.portCount, Chip.count_eq, Chip.count_eq]
  have hweq : w = { z with tim := w.tim, out := z.out ++ [o] } := by
    rw [← hw]
    rfl
  rw [hdepart, hd, hsp]
  refine ⟨?_, ?_, ?_, ?_, ?_, ?_, ?_⟩
  · rw [hdeq, hweq, hzeq, hyeq, ho]
  · rw [← hgone, hdeq, hweq]
    rfl
  · rw [hdeq, hweq, hpicked, hyeq]
  · have hwcnt : w.cnt = y.cnt := by rw [hweq, hzeq]
    rw [← hd, Chip.portCount, Chip.portCount, Chip.cntGet_count, if_neg (by omega), Chip.cntGet_count, if_pos ⟨rfl, rfl⟩,
      Chip.cntGet_congr hwcnt, hycnt _ (by omega)]
    rfl
  · rw [hdeq, hweq, hzeq, hyeq]
  · rw [hdeq, hweq, hzeq, hyeq]
  · rw [hdeq, hweq, hzeq, hyeq]

/-- The client framer sends the frame that its port has selected. -/
theorem clientFrameStart_sends {s : State} {n : Nat} {f : Frame} {k : Picked} (hf : s.chip.frame n = some f)
    (hpick : s.chip.picked (schedOf f.outPort f.outSub) = some k) (hk : k.frame = n) (hport : f.outPort < 8) (hsub : f.outSub < 4)
    (hhost : f.host = none) (hcoming : f.coming = false) (hearly : f.early = none) (hbound : f.bound = none)
    (hseal : f.sealWith = none) (hmark : f.depMark = none) (hpoison : s.chip.readsPoison f = false)
    (hfits : s.chip.gateFits (schedOf f.outPort f.outSub) k.cls k.charge = true) : completes (.clientFrameStart n) s fun d =>
      d.out = s.chip.out ++ [.frame f.outPort f.outSub f.data false] ∧ d.frame n = none ∧
      d.picked (schedOf f.outPort f.outSub) = none ∧
      d.cntGet false (schedOf f.outPort f.outSub * 0x80 + 2) = s.chip.cntGet false (schedOf f.outPort f.outSub * 0x80 + 2) + 1 ∧
      d.regs = s.chip.regs ∧ d.sax = s.chip.sax := by
  have hsp64 : schedOf f.outPort f.outSub < 64 := by
    rw [schedOf, if_pos (by omega)]
    omega
  obtain ⟨sp, hsp⟩ : ∃ sp, schedOf f.outPort f.outSub = sp := ⟨_, rfl⟩
  obtain ⟨y, hy⟩ : ∃ y, s.chip.setPicked sp none = y := ⟨_, rfl⟩
  have hyframe : y.frame n = some f := by
    rw [← hf, ← hy]
    rfl
  have hypoison : y.readsPoison f = false := by
    rw [← hpoison, ← hy]
    rfl
  have hyfits : y.gateFits sp k.cls k.charge = true := by
    rw [← hfits, hsp, ← hy]
    rfl
  have hypicked : y.picked sp = none := by
    rw [← hy]
    exact SMap.get_set_same (d := fun _ => none) (m := s.chip.slu.picked) (k := sp) (v := (none : Option Picked))
  have hyother : y.out = s.chip.out ∧ y.cnt = s.chip.cnt ∧ y.regs = s.chip.regs ∧ y.sax = s.chip.sax ∧ y.vlt = s.chip.vlt := by
    rw [← hy]
    exact ⟨rfl, rfl, rfl, rfl, rfl⟩
  obtain ⟨hyout, hycnt, hyregs, hysax, hyvlt⟩ := hyother
  obtain ⟨hout, hgone, hpicked, hcount, hregs, hsax, hvlt⟩ :=
    Chip.depart_plain hyframe hhost hcoming hearly hbound hseal hmark hypoison hsp64
  obtain ⟨d, hd⟩ : ∃ d, y.depart n false = d := ⟨_, rfl⟩
  rw [hd] at hout hgone hpicked hcount hregs hsax hvlt
  have hproved : f.unproved = false := by rw [Frame.unproved, hbound]; rfl
  have hstart : s.chip.clientStart n = d := by
    rw [Chip.clientStart, Chip.onFrame_some hf]
    simp only [hpick, hk, ne_eq, not_true, decide_false, Bool.false_or, decide_eq_true_eq, if_neg (Nat.not_le.mpr hport), hproved,
      Bool.not_false, if_true]
    rw [Chip.startPicked, hsp, hy, if_pos hyfits, if_neg (by omega), hk, hd]
  rw [hsp] at hcount ⊢
  refine completes_eq (f := fun c => c.clientStart n) (d := d) rfl hstart ⟨?_, hgone, ?_, ?_, ?_, ?_⟩ ?_
  · rw [hout, hyout]
  · rw [← hypicked, Chip.picked, Chip.picked, hpicked]
  · rw [hcount, Chip.cntGet_congr hycnt]
  · rw [hregs, hyregs]
  · rw [hsax, hysax]
  · rw [hvlt, hyvlt]

/-- Settles O42: a packet number and a seal, or a drop, at admission; the completion of the seal; the verdict; and the client
framer's frame. -/
theorem admissionSealAndVerdict : Obligations.AdmissionSealAndVerdict := by
  unfold Obligations.AdmissionSealAndVerdict
  intro s n f c i entry dropped hf hhost hcoming
  refine ⟨fun h hstage hmark hqueue hearly hingot => ?_, fun k r hturn hpoison hbm => sealComplete_counts hf hturn hpoison hbm,
    fun k r hturn hingot hbefore hstage hwaits hqueue =>
      ⟨fun hicv hhandle haccepts => openVerdict_passes hf hturn hingot hbefore hstage hwaits hcoming hicv hhandle haccepts,
        fun hicv => openVerdict_fails hf hturn hingot hbefore hstage hwaits hcoming hicv hqueue hhost⟩,
    fun k => ?_⟩
  · intro j a k pb sci
    exact ⟨fun hgood hmay hbefore => panAdmission_seals hf hstage hmark rfl rfl hgood hmay hbefore,
      fun hbad hstale => panAdmission_drops hf hstage hmark hbad hstale hhost hcoming hqueue hearly hingot,
      fun hgood hwait => panAdmission_waits hf hstage hmark hgood hwait⟩
  · intro sp hpick hk hport hsub hearly hbound hseal hmark hpoison hfits
    exact clientFrameStart_sends hf hpick hk hport hsub hhost hcoming hearly hbound hseal hmark hpoison hfits

end Sys2Proof.Machine

/-! PROOFS. The repeated fit test in the gap of a yield (R241, R420). -/
namespace Sys2Proof.Machine

/-- A frame selected on the MACsec port 8, and a yield in progress: scheduler port 32 is in the yield's gap. -/
def yieldingLine : State := {
  chip := {
    ctl := { mode := .active }, evr := { started := true }, prs := { yieldAt := some 0 },
    path := { next := 1, frames := [(0, some { stage := .sending, outPort := 8 })] },
    slu := { picked := [(32, some {
      frame := 0, queue := 0x8100, port := 32, cls := 0, charge := 44, queueTag := 0, classTag := 0, classClock := 0,
      portClock := 0 })] } } }

/-- In the gap the fit test is not repeated: the selection stands. -/
theorem gclFitRetest_yieldingLine : completes (.gclFitRetest 32) yieldingLine fun d => (d.picked 32).isSome = true := by
  rw [completes_iff rfl]
  decide +kernel

/-- Refutes O43: a selected frame that fits its gate starts, the statement says, on every line port; in `yieldingLine` the port is in
the gap of a yield, where it sends idle (R420), and the frame stays selected. -/
theorem not_queuesAndScheduling : ¬ Obligations.QueuesAndScheduling := by
  unfold Obligations.QueuesAndScheduling
  intro h
  obtain ⟨-, -, -, -, -, hretest, -⟩ := h yieldingLine 0 { stage := .sending, outPort := 8 } 0x8100 32
  obtain ⟨-, -, hstart⟩ := hretest _ rfl
  obtain ⟨d, ⟨hnone, -⟩, hsome⟩ := completes_unique
    (hstart (by decide +kernel) (by decide) (by decide) (by decide +kernel) (by decide +kernel) rfl rfl rfl rfl (by decide))
    gclFitRetest_yieldingLine
  rw [show d.picked 32 = none from hnone] at hsome
  exact absurd hsome (by decide)

end Sys2Proof.Machine

/-! PROOFS. A slot that closes over a poisoned head (R72, R284). -/
namespace Sys2Proof.Machine

/-- The slot of `poisonedHead`, allocated and open. -/
def openSlot : TxSlot := { seq := 0, sa := 0, pn := 1, an := 0, departure := 0, head := [], cipher := (false, 0, 0) }

/-- The frame of `poisonedHead`: its buffer was released, and it is dropped when it is next read. -/
def releasedFrame : Frame := {
  data := List.replicate 60 0, stage := .queued, outPort := 8, queue := some 0x8100, stored := 64, len := 64, poisoned := true }

/-- A block in ACTIVE whose line port 0 has an open slot, and in its direct queue of class 0 one frame, which is poisoned. -/
def poisonedHead : State := {
  chip := {
    ctl := { mode := .active }, evr := { started := true },
    path := { next := 1, frames := [(0, some releasedFrame)], ingots := [(0, { nextSeq := 1, slots := [openSlot] })] },
    slu := {
      cfgs := [(0x8100, some { en := true, limitG := 64 })],
      queues := [(0x8100, { frames := [0], bytes := 64 })] } } }

/-- The frame is dropped, and the slot closes as dross. -/
theorem slotClose_poisonedHead :
    completes (.slotClose 0 0) poisonedHead fun d => ∀ x ∈ (d.ingot 0).slots, x.dross = true := by
  rw [completes_iff rfl]
  decide +kernel

/-- Refutes O45: the close clause puts the head that the Sluice chooses into the slot, poisoned or not; in `poisonedHead` it is
poisoned, so that its read drops it (R284) and the slot is dross. -/
theorem not_ingotSlots : ¬ Obligations.IngotSlots := by
  unfold Obligations.IngotSlots
  intro h
  obtain ⟨-, -, hclose, -⟩ := h poisonedHead 0 0 0 openSlot
  obtain ⟨-, hpacks⟩ := hclose (by decide +kernel) rfl
  obtain ⟨d, ⟨x, -, -, hx, -, -, hdata, -⟩, hdross⟩ := completes_unique
    (hpacks 0 0x8100 0 releasedFrame rfl (by decide +kernel) (by decide +kernel) (by decide) (by decide +kernel)) slotClose_poisonedHead
  exact absurd ((hdross x hx).symm.trans hdata) (by decide)

end Sys2Proof.Machine

/-! PROOFS. The verdict of an ingot whose last byte has not arrived (R32, R102). -/
namespace Sys2Proof.Machine

/-- An ingot on the line port 8 that is being opened, and whose last byte has not arrived. -/
def comingIngot : Frame := { stage := .opening, entry := 8, summary := 2 ^ 27, coming := true, icvOk := false }

/-- The request of its OPEN, on Pan 0. -/
def comingOpen : PanReq := { kind := .opening, pan := 0, slot := 0, gen := 0, subject := 0, seq := 0, blocks := 1 }

/-- A block in ACTIVE that has `comingIngot` as frame 0 and its OPEN on Pan 0. -/
def ingotComing : State := {
  chip := {
    ctl := { mode := .active }, evr := { started := true }, pan := { reqs := [(0, some comingOpen)] },
    path := { next := 1, reqNext := 1, frames := [(0, some comingIngot)] } } }

/-- Its verdict is not formed. -/
theorem ingotVerdict_ingotComing : completes (.ingotVerdict 0) ingotComing fun d => (d.frame 0).isSome = true := by
  rw [completes_iff rfl]
  decide +kernel

/-- Refutes O46: its first clause forms the verdict of every ingot whose OPEN ends, and forgets the frame; in `ingotComing` the last
byte has not arrived, the verdict waits for it and the frame stays. -/
theorem not_receivedIngots : ¬ Obligations.ReceivedIngots := by
  unfold Obligations.ReceivedIngots
  intro h
  obtain ⟨hverdict, -⟩ := h ingotComing 0 0 comingOpen comingIngot
  obtain ⟨-, hfails⟩ := hverdict (by decide +kernel) rfl (by decide) (by decide +kernel) rfl rfl
  obtain ⟨d, ⟨hgone, -⟩, hstays⟩ := completes_unique (hfails rfl) ingotVerdict_ingotComing
  rw [show d.frame 0 = none from hgone] at hstays
  exact absurd hstays (by decide)

end Sys2Proof.Machine

/-! PROOFS. Learning (R258 to R262). -/
namespace Sys2Proof.Machine

/-! ### The table and its registers -/

@[simp] theorem Chip.fwd?_setFwd (c : Chip) (k j : Nat) (e : Option FwdEntry) :
    (c.setFwd k e).fwd? j = if j = k then e else c.fwd? j := SMap.get_set

theorem Chip.fwd?_congr {c d : Chip} (h : d.fwd.table = c.fwd.table) (j : Nat) : d.fwd? j = c.fwd? j := by
  simp only [Chip.fwd?, h]

/-- Nothing has changed but registers and events, and no register of the table but the ports' counts. -/
structure Chip.portsOnly (c d : Chip) : Prop where
  frame : d = { c with regs := d.regs, evr := d.evr }
  regs : ∀ k, 0x400000 * 32 ≤ k → k < 0x400200 * 32 → SMap.get regReset d.regs k = SMap.get regReset c.regs k

namespace Chip.portsOnly

variable {a c d : Chip}

theorem refl (c : Chip) : c.portsOnly c := ⟨rfl, fun _ _ _ => rfl⟩

theorem getF (h : c.portsOnly d) {f : Fld} {i : List Nat} (h1 : 0x400000 * 32 ≤ f.key i) (h2 : f.key i < 0x400200 * 32) :
    d.getF f i = c.getF f i := by
  rw [Chip.getF, Chip.getF, h.regs _ h1 h2]

theorem portLearnt (h : a.portsOnly c) (k : Nat) (n : Int) : a.portsOnly (c.portLearnt k n) := by
  refine ⟨?_, fun j h1 h2 => ?_⟩
  · have hframe := h.frame
    obtain ⟨y, hy⟩ : ∃ y, c.portLearnt k n = y := ⟨_, rfl⟩
    have hyeq : y = { c with regs := y.regs } := by rw [← hy]; rfl
    rw [hy, hyeq, hframe]
  · rw [Chip.portLearnt, Chip.setF_regs, SMap.get_set_other, h.regs j h1 h2]
    simp only [Fld.key, F.FWD_PORT_CNT_count, dotStrides]
    omega

theorem raise (h : a.portsOnly c) {code : Nat} (hcode : code < 0x3000) (src : Nat) (items : List (Nat × Nat)) :
    a.portsOnly (c.raise code src items) := by
  refine ⟨?_, fun j h1 h2 => ?_⟩
  · have hframe := h.frame
    obtain ⟨y, hy⟩ : ∃ y, c.raise code src items = y := ⟨_, rfl⟩
    have hyeq : y = { c with regs := y.regs, evr := y.evr } := by rw [← hy]; exact Chip.raise_frame c code src items
    rw [hy, hyeq, hframe]
  · rw [((Chip.loses.refl c).raise hcode src items).regs j (by simp only [lossKey]; omega), h.regs j h1 h2]

end Chip.portsOnly

section
variable {s : State} {l : Learn} {rest : List Learn} {i : Nat} {e : FwdEntry} (hl : s.chip.fwd.learns = l :: rest)
include hl

/-- During a special pass the learn queue is held. -/
theorem learnProcess_held (hspecial : s.chip.fwd.special.isSome = true) : completes .learnProcess s fun d => d = s.chip := by
  refine completes_eq (f := Chip.learnProcess) (d := s.chip) rfl ?_ rfl rfl
  have hnone : (s.chip.inMode [.active] && s.chip.fwd.special.isNone) = false := by
    rw [← Option.not_isSome, hspecial, Bool.not_true, Bool.and_false]
  simp only [Chip.learnProcess, hl, hnone, Bool.false_eq_true, if_false]

variable (hmode : s.chip.inMode [.active] = true) (hspecial : s.chip.fwd.special = none)
  (hgood : ∀ k ∈ fwdSlots l.key, SMap.get (fun _ => 0) s.chip.fwd.bad k = 0)
include hmode hspecial hgood

/-- The block once the head learn request has been taken out. -/
abbrev Chip.learning (c : Chip) (rest : List Learn) : Chip := c.modFwd fun t => { t with learns := rest }

/-- The head request acts on what the table holds: its slots are read without a fault. -/
theorem learnProcess_reads : s.chip.learnProcess = (s.chip.learning rest).learnOne l ∧
    (s.chip.learning rest).each (fwdSlots l.key) (fun c s => c.fwdParity s 0x21D) = s.chip.learning rest := by
  refine ⟨?_, Chip.each_id _ fun w hw => Chip.fwdParity_good (hgood w hw)⟩
  simp only [Chip.learnProcess, hl, hmode, hspecial, Option.isNone_none, Bool.and_self, if_true]

theorem learnProcess_absent (hfind : s.chip.fwdFind l.key = none) : s.chip.learnProcess =
    if s.chip.atLimit l.port then (s.chip.learning rest).learnDrop.raise Ev.FWD_LIMIT 0x21D else (s.chip.learning rest).learnNew l := by
  obtain ⟨hone, hread⟩ := learnProcess_reads hl hmode hspecial hgood
  have hfind' : (s.chip.learning rest).fwdFind l.key = none := hfind
  have hlimit : (s.chip.learning rest).atLimit l.port = s.chip.atLimit l.port := rfl
  rw [hone, Chip.learnOne]
  simp only [hread, hfind', hlimit]

theorem learnProcess_present (hfind : s.chip.fwdFind l.key = some i) (hat : s.chip.fwd? i = some e) :
    (e.static = true → s.chip.learnProcess = (s.chip.learning rest).raise Ev.FWD_STATIC_MOVE 0x21C) ∧
    (e.static = false → e.dest = l.dest →
      s.chip.learnProcess = (s.chip.learning rest).setFwd i (some { e with hit := true, idle := false })) ∧
    (e.static = false → e.dest ≠ l.dest → s.chip.frozen e = true →
      s.chip.learnProcess = (s.chip.learning rest).bump F.FWD_MOVE_CNT_refused []) ∧
    (e.static = false → e.dest ≠ l.dest → s.chip.frozen e = false → e.flapping = false → l.port = e.learnSrc →
      s.chip.learnProcess = (s.chip.learning rest).learnMove i e l) := by
  obtain ⟨hone, hread⟩ := learnProcess_reads hl hmode hspecial hgood
  have hfind' : (s.chip.learning rest).fwdFind l.key = some i := hfind
  have hat' : (s.chip.learning rest).fwd? i = some e := hat
  have hfrozen : (s.chip.learning rest).frozen e = s.chip.frozen e := rfl
  rw [hone, Chip.learnOne]
  simp only [hread, hfind', hat', hfrozen]
  refine ⟨fun hst => if_pos hst, fun hst hdest => (if_neg (by simp [hst])).trans (if_pos hdest),
    fun hst hdest hfr => (if_neg (by simp [hst])).trans ((if_neg hdest).trans (if_pos hfr)), fun hst hdest hfr hflap hport => ?_⟩
  rw [if_neg (by simp [hst]), if_neg hdest, if_neg (by simp [hfr])]
  simp only [hflap, Bool.false_eq_true, if_false, hport, ne_eq, not_true, decide_false, Bool.false_and]

theorem learnProcess_learns (hfind : s.chip.fwdFind l.key = none) (hlimit : s.chip.atLimit l.port = false)
    (hfree : s.chip.fwdFree l.key 4 = some i) (hroom : s.chip.getF F.FWD_COUNT_valid [] + 1 < 2 ^ 19) :
    completes .learnProcess s fun d =>
      (∀ j, d.fwd? j = if j = i then some {
        key := l.key, dest := l.dest, learnSrc := l.port, limited := s.chip.getB F.FWD_PORT_CFG_limited [l.port], hit := true }
        else s.chip.fwd? j) ∧
      d.fwd.learns = rest ∧ d.getF F.FWD_COUNT_valid [] = s.chip.getF F.FWD_COUNT_valid [] + 1 := by
  have hone := learnProcess_absent hl hmode hspecial hgood hfind
  rw [hlimit, if_neg Bool.false_ne_true] at hone
  obtain ⟨x, hx⟩ : ∃ x : FwdEntry, {
    key := l.key, dest := l.dest, learnSrc := l.port, limited := s.chip.getB F.FWD_PORT_CFG_limited [l.port], hit := true } = x :=
    ⟨_, rfl⟩
  obtain ⟨y, hy⟩ : ∃ y, ((s.chip.learning rest).setFwd i (some x)).fwdCount 1 = y := ⟨_, rfl⟩
  have hfree' : (s.chip.learning rest).fwdFree l.key 4 = some i := hfree
  have hnew : s.chip.learnProcess = if s.chip.getB F.FWD_PORT_CFG_limited [l.port] then y.portLearnt l.port 1 else y := by
    have hlim : (s.chip.learning rest).getB F.FWD_PORT_CFG_limited [l.port] = s.chip.getB F.FWD_PORT_CFG_limited [l.port] := rfl
    rw [hone, Chip.learnNew, Chip.fwdPlace]
    simp only [hfree', hlim, hx, hy]
  rw [hx]
  obtain ⟨d, hd⟩ : ∃ d, s.chip.learnProcess = d := ⟨_, rfl⟩
  have hports : y.portsOnly d := by
    rw [← hd, hnew]
    exact ite_cases (P := fun d => y.portsOnly d) ((Chip.portsOnly.refl y).portLearnt _ _) (.refl y)
  have hfwd : d.fwd = y.fwd := by rw [hports.frame]
  refine completes_eq (f := Chip.learnProcess) (d := d) rfl hd ⟨fun j => ?_, ?_, ?_⟩ ?_
  · rw [Chip.fwd?_congr (congrArg Forwarding.table hfwd), ← hy]
    exact Chip.fwd?_setFwd _ i j _
  · rw [hfwd, ← hy]
    rfl
  · rw [hports.getF (by decide) (by decide), ← hy, Chip.fwdCount, Chip.getF_setF_same _ _ _ _ (by decide)]
    change ((s.chip.getF F.FWD_COUNT_valid [] : Int) + 1).toNat % 2 ^ 19 = _
    omega
  · rw [hports.frame, ← hy]
    rfl

theorem learnProcess_limited (hfind : s.chip.fwdFind l.key = none) (hlimit : s.chip.atLimit l.port = true) :
    completes .learnProcess s fun d => d.fwd = { s.chip.fwd with learns := rest } ∧ s.chip.bumped d F.FWD_LRN_DROP_CNT_count [] := by
  have hone := learnProcess_absent hl hmode hspecial hgood hfind
  rw [hlimit, if_pos rfl] at hone
  have hports := (Chip.portsOnly.refl (s.chip.learning rest).learnDrop).raise (code := Ev.FWD_LIMIT) (by decide) 0x21D []
  refine completes_eq (f := Chip.learnProcess) rfl hone ⟨?_, ?_⟩ ?_
  · rw [hports.frame]
    rfl
  · rw [Chip.bumped, hports.getF (by decide) (by decide)]
    exact Chip.bumped_bump (s.chip.learning rest) F.FWD_LRN_DROP_CNT_count [] (by decide)
  · rw [hports.frame]
    rfl

theorem learnProcess_hits (hfind : s.chip.fwdFind l.key = some i) (hat : s.chip.fwd? i = some e) (hst : e.static = false)
    (hdest : e.dest = l.dest) : completes .learnProcess s fun d =>
      (∀ j, d.fwd? j = if j = i then some { e with hit := true, idle := false } else s.chip.fwd? j) ∧
      d = { s.chip with fwd := d.fwd } := by
  obtain ⟨-, hhit, -⟩ := learnProcess_present hl hmode hspecial hgood hfind hat
  exact completes_eq (f := Chip.learnProcess) rfl (hhit hst hdest) ⟨fun j => Chip.fwd?_setFwd (s.chip.learning rest) i j _, rfl⟩ rfl

theorem learnProcess_static (hfind : s.chip.fwdFind l.key = some i) (hat : s.chip.fwd? i = some e) (hst : e.static = true) :
    completes .learnProcess s fun d => d.fwd = { s.chip.fwd with learns := rest } := by
  obtain ⟨hstatic, -⟩ := learnProcess_present hl hmode hspecial hgood hfind hat
  have hports := (Chip.portsOnly.refl (s.chip.learning rest)).raise (code := Ev.FWD_STATIC_MOVE) (by decide) 0x21C []
  refine completes_eq (f := Chip.learnProcess) rfl (hstatic hst) ?_ ?_
  · rw [hports.frame]
    rfl
  · rw [hports.frame]
    rfl

theorem learnProcess_refused (hfind : s.chip.fwdFind l.key = some i) (hat : s.chip.fwd? i = some e) (hst : e.static = false)
    (hdest : e.dest ≠ l.dest) (hfrozen : s.chip.frozen e = true) : completes .learnProcess s fun d =>
      d.fwd = { s.chip.fwd with learns := rest } ∧ s.chip.bumped d F.FWD_MOVE_CNT_refused [] := by
  obtain ⟨-, -, hrefused, -⟩ := learnProcess_present hl hmode hspecial hgood hfind hat
  exact completes_eq (f := Chip.learnProcess) rfl (hrefused hst hdest hfrozen)
    ⟨rfl, Chip.bumped_bump (s.chip.learning rest) F.FWD_MOVE_CNT_refused [] (by decide)⟩ rfl

theorem learnProcess_moves (hfind : s.chip.fwdFind l.key = some i) (hat : s.chip.fwd? i = some e) (hst : e.static = false)
    (hdest : e.dest ≠ l.dest) (hfrozen : s.chip.frozen e = false) (hflap : e.flapping = false) (hport : l.port = e.learnSrc)
    (hfresh : e.winStart + 1000000 ≤ s.chip.nowUs) (hdamp : 1 ≤ s.chip.getF F.FWD_CFG_move_damp []) :
    completes .learnProcess s fun d =>
      (∀ j, d.fwd? j = if j = i then some { e with
        dest := l.dest, hit := true, idle := false, learnSrc := l.port, limited := s.chip.getB F.FWD_PORT_CFG_limited [l.port],
        moves := 1, winStart := s.chip.nowUs } else s.chip.fwd? j) ∧
      s.chip.bumped d F.FWD_MOVE_CNT_moves [] ∧ d.fwd.learns = rest := by
  obtain ⟨-, -, -, hmove⟩ := learnProcess_present hl hmode hspecial hgood hfind hat
  obtain ⟨lim, hlim⟩ : ∃ lim, s.chip.getB F.FWD_PORT_CFG_limited [l.port] = lim := ⟨_, rfl⟩
  obtain ⟨y, hy⟩ : ∃ y, (if e.limited then (s.chip.learning rest).portLearnt e.learnSrc (-1) else s.chip.learning rest) = y := ⟨_, rfl⟩
  obtain ⟨z, hz⟩ : ∃ z, (if lim then y.portLearnt l.port 1 else y) = z := ⟨_, rfl⟩
  have hports : (s.chip.learning rest).portsOnly z := by
    have hyports : (s.chip.learning rest).portsOnly y :=
      hy ▸ ite_cases (P := fun d => (s.chip.learning rest).portsOnly d) ((Chip.portsOnly.refl _).portLearnt _ _) (.refl _)
    exact hz ▸ ite_cases (P := fun d => (s.chip.learning rest).portsOnly d) (hyports.portLearnt _ _) hyports
  have hnow : z.nowUs = s.chip.nowUs := by
    rw [hports.frame]
    rfl
  have hdampz : z.getF F.FWD_CFG_move_damp [] = s.chip.getF F.FWD_CFG_move_damp [] := hports.getF (by decide) (by decide)
  obtain ⟨x, hx⟩ : ∃ x : FwdEntry, { e with
    dest := l.dest, hit := true, idle := false, learnSrc := l.port, limited := lim, moves := 1, winStart := s.chip.nowUs } = x :=
    ⟨_, rfl⟩
  have hresult : s.chip.learnProcess = (z.setFwd i (some x)).bump F.FWD_MOVE_CNT_moves [] := by
    have hlim' : (s.chip.learning rest).getB F.FWD_PORT_CFG_limited [l.port] = lim := hlim
    rw [hmove hst hdest hfrozen hflap hport, Chip.learnMove]
    simp only [hlim', hy, hz, hnow, hdampz, hfresh, if_true, Nat.not_lt.mpr hdamp, decide_false, if_false]
    rw [← hx, hflap]
  rw [hlim, hx]
  obtain ⟨d, hd⟩ : ∃ d, (z.setFwd i (some x)).bump F.FWD_MOVE_CNT_moves [] = d := ⟨_, rfl⟩
  have hfwd : d.fwd = (z.setFwd i (some x)).fwd := by rw [← hd]; rfl
  have hzfwd : z.fwd = (s.chip.learning rest).fwd := by rw [hports.frame]
  refine completes_eq (f := Chip.learnProcess) (d := d) rfl (hresult.trans hd) ⟨fun j => ?_, ?_, ?_⟩ ?_
  · rw [Chip.fwd?_congr (congrArg Forwarding.table hfwd), Chip.fwd?_setFwd,
      Chip.fwd?_congr (congrArg Forwarding.table hzfwd)]
    rfl
  · have hbump := Chip.bumped_bump (z.setFwd i (some x)) F.FWD_MOVE_CNT_moves [] (by decide)
    rw [hd] at hbump
    have hcount : (z.setFwd i (some x)).getF F.FWD_MOVE_CNT_moves [] = s.chip.getF F.FWD_MOVE_CNT_moves [] :=
      hports.getF (by decide) (by decide)
    rw [Chip.bumped, hcount] at hbump
    exact hbump
  · rw [hfwd]
    change z.fwd.learns = rest
    rw [hzfwd]
    rfl
  · rw [← hd]
    change z.vlt.owners = _
    rw [hports.frame]
    rfl

end

end Sys2Proof.Machine

/-! PROOFS. The Rake (R264, R265, R268). -/
namespace Sys2Proof.Machine

/-- A slot that is read with bad words: its entry is gone, which is reported. -/
theorem Chip.fwdParity_bad {c : Chip} {k : Nat} {e : FwdEntry} {bad : BitVec 4} (hat : c.fwd? k = some e)
    (hbad : SMap.get (fun _ => 0) c.fwd.bad k = bad) (hne : bad ≠ 0) (src : Nat) :
    (c.fwdParity k src).fwd = (c.setFwd k none).fwd ∧ (c.fwdParity k src).getF F.FWD_STAT_parity [] = 1 ∧
      (c.fwdParity k src).vlt = c.vlt ∧ (c.fwdParity k src).ord = c.ord ∧ (c.fwdParity k src).tim = c.tim ∧
      (c.logs → (c.fwdParity k src).evr.intake =
        c.evr.intake ++ [⟨Ev.FWD_PARITY, src, if bad.getLsbD 0 then [] else [(8, e.key.toNat)], false⟩]) := by
  obtain ⟨y, hy⟩ : ∃ y, (c.setFwd k none).fwdCount (-1) = y := ⟨_, rfl⟩
  have hyeq : y.fwd = (c.setFwd k none).fwd ∧ y.vlt = c.vlt ∧ y.ord = c.ord ∧ y.tim = c.tim ∧ y.evr = c.evr := by
    rw [← hy]
    exact ⟨rfl, rfl, rfl, rfl, rfl⟩
  obtain ⟨hyfwd, hyvlt, hyord, hytim, hyevr⟩ := hyeq
  obtain ⟨z, hz⟩ : ∃ z, (if bad.getLsbD 1 then y.setF F.FWD_STAT_count_drift [] 1
      else if e.limited then y.portLearnt e.learnSrc (-1) else y) = z := ⟨_, rfl⟩
  have hzeq : z = { y with regs := z.regs } := by
    rw [← hz]
    exact ite_cases (P := fun z : Chip => z = { y with regs := z.regs }) rfl
      (ite_cases (P := fun z : Chip => z = { y with regs := z.regs }) rfl rfl)
  obtain ⟨w, hw⟩ : ∃ w, (z.bump F.FWD_PARITY_CNT_count []).setF F.FWD_STAT_parity [] 1 = w := ⟨_, rfl⟩
  have hweq : w = { z with regs := w.regs } := by
    rw [← hw]
    rfl
  have hwstat : w.getF F.FWD_STAT_parity [] = 1 := by
    rw [← hw]
    exact Chip.getF_setF_same _ _ _ _ (by decide)
  have hresult : c.fwdParity k src =
      w.raise Ev.FWD_PARITY src (if bad.getLsbD 0 then [] else [(8, e.key.toNat)]) := by
    rw [Chip.fwdParity]
    simp only [hat, hbad, hne, if_false, hy, hz, hw]
  have hports := (Chip.portsOnly.refl w).raise (code := Ev.FWD_PARITY) (by decide) src
    (if bad.getLsbD 0 then [] else [(8, e.key.toNat)])
  rw [← hresult] at hports
  have hwevr : w.evr = c.evr := by rw [hweq, hzeq, ← hyevr]
  refine ⟨?_, ?_, ?_, ?_, ?_, fun hlogs => ?_⟩
  · rw [hports.frame, hweq, hzeq, ← hyfwd]
  · rw [hports.getF (by decide) (by decide), hwstat]
  · rw [hports.frame, hweq, hzeq, ← hyvlt]
  · rw [hports.frame, hweq, hzeq, ← hyord]
  · rw [hports.frame, hweq, hzeq, ← hytim]
  · have hwlogs : w.logs := by rwa [Chip.logs, hwevr]
    rw [hresult, Chip.raise_logs hwlogs (by decide), ← hwevr]

/-- The block as the Rake reads its next slot. -/
def Chip.raking (c : Chip) (bad : BitVec 4) : Chip :=
  let s := c.fwd.rake
  let p := if s = 0 then c.getF F.FWD_AGE_CFG_pass [] else c.fwd.passLen
  let c := c.reachElapsed (c.fwd.passStart + rakeOffset s p).toNat
  let c := c.modFwd fun t => { t with
    rake := (s + 1) % 262144, passLen := p, passStart := t.passStart + (if s = 262143 then p * 1000000000 else 0) }
  c.fwdUpset [(s, bad)]

theorem Chip.raking_spec (c : Chip) (bad : BitVec 4) :
    c.raking bad = { c with tim := (c.raking bad).tim, fwd := (c.raking bad).fwd } ∧ (c.raking bad).fwd.table = c.fwd.table ∧
      (c.raking bad).fwd.learns = c.fwd.learns ∧ (c.raking bad).fwd.rake = (c.fwd.rake + 1) % 262144 ∧
      SMap.get (fun _ => 0) (c.raking bad).fwd.bad c.fwd.rake = SMap.get (fun _ => 0) c.fwd.bad c.fwd.rake ||| bad := by
  obtain ⟨hreach, -⟩ := c.reachElapsed_runs
    (c.fwd.passStart + rakeOffset c.fwd.rake (if c.fwd.rake = 0 then c.getF F.FWD_AGE_CFG_pass [] else c.fwd.passLen)).toNat
  simp only [Chip.raking]
  generalize c.reachElapsed _ = y at hreach ⊢
  have hfwd : y.fwd = c.fwd := by rw [hreach]
  refine ⟨?_, ?_, ?_, rfl, ?_⟩
  · rw [hreach]
    rfl
  · rw [← hfwd]
    rfl
  · rw [← hfwd]
    rfl
  · rw [← hfwd]
    exact SMap.get_set_same

section
variable {s : State} {e : FwdEntry} {bad0 : BitVec 4} {hit : Bool} {cycles : Fin 32769}
  (hmode : s.chip.inMode [.active] = true) (hen : s.chip.getB F.FWD_AGE_CFG_en [] = true) (hspecial : s.chip.fwd.special = none)
  (hat : s.chip.fwd? s.chip.fwd.rake = some e)
include hmode hen hspecial hat

omit hspecial in
/-- What the visit of a slot with an entry does, by what it finds. -/
theorem rakeVisit_of {y : Chip} (hy : s.chip.raking bad0 = y) {k : Nat} (hk : s.chip.fwd.rake = k) :
    (SMap.get (fun _ => 0) s.chip.fwd.bad k ||| bad0 ≠ 0 → s.chip.rakeVisit bad0 hit = y.fwdParity k 0x21E) ∧
    (SMap.get (fun _ => 0) s.chip.fwd.bad k ||| bad0 = 0 →
      (e.static = true → s.chip.rakeVisit bad0 hit = y) ∧
      (e.static = false → e.flapping = false → s.chip.rakeVisit bad0 hit =
        if e.hit then y.setFwd k (some { e with hit := false, idle := false })
        else if !e.idle then y.setFwd k (some { e with idle := true })
        else if hit then y.setFwd k (some { e with hit := true, idle := false })
        else y.fwdRemove k)) := by
  obtain ⟨-, htable, -, -, hbad⟩ := s.chip.raking_spec bad0
  rw [hy] at htable hbad
  rw [hk] at hat hbad
  have hyat : y.fwd? k = some e := (Chip.fwd?_congr htable k).trans hat
  have hvisit : s.chip.rakeVisit bad0 hit = if SMap.get (fun _ => 0) y.fwd.bad k ≠ 0 then y.fwdParity k 0x21E
      else if e.static then y
      else
        let e := if e.flapping && !y.frozen e then { e with flapping := false, moves := 0 } else e
        if e.hit then y.setFwd k (some { e with hit := false, idle := false })
        else if !e.idle then y.setFwd k (some { e with idle := true })
        else if hit then y.setFwd k (some { e with hit := true, idle := false })
        else y.fwdRemove k := by
    rw [Chip.rakeVisit, hmode, hen, if_neg (by decide)]
    simp only [Chip.raking, hk] at hy
    simp only [hy, hk, hyat]
  rw [hvisit, hbad]
  refine ⟨fun hne => if_pos hne, fun hgood => ?_⟩
  rw [hgood, if_neg (by simp)]
  refine ⟨fun hst => if_pos hst, fun hst hflap => ?_⟩
  rw [if_neg (by simp [hst])]
  simp only [hflap, Bool.false_and, Bool.false_eq_true, if_false]

omit hmode hen hat in
theorem completes_rake {d : Chip} (hd : s.chip.rakeVisit bad0 hit = d) (hown : d.vlt.owners = s.chip.vlt.owners) {post : Chip → Prop}
    (hpost : post d) : completes (.rakeVisit ⟨bad0, hit, cycles⟩) s post := by
  refine completes_eq (f := fun c => match c.fwd.special with
    | some (p, at', start) => if c.running then c.passOn p at' start cycles.val bad0 else c
    | none => c.rakeVisit bad0 hit) (d := d) rfl ?_ hpost hown
  simp only [hspecial, hd]

omit hmode hen hat in
/-- An entry that the Rake keeps: its slot is written, and no register changes. -/
theorem rakeVisit_writes {x : FwdEntry} (hvisit : s.chip.rakeVisit bad0 hit = (s.chip.raking bad0).setFwd s.chip.fwd.rake (some x)) :
    completes (.rakeVisit ⟨bad0, hit, cycles⟩) s fun d =>
      (d.fwd.rake = (s.chip.fwd.rake + 1) % 262144 ∧ d.fwd.learns = s.chip.fwd.learns) ∧
      (∀ j, d.fwd? j = if j = s.chip.fwd.rake then some x else s.chip.fwd? j) ∧ d.regs = s.chip.regs := by
  obtain ⟨heq, htable, hlearns, hrake, -⟩ := s.chip.raking_spec bad0
  refine completes_rake hspecial hvisit ?_ ⟨⟨hrake, hlearns⟩, fun j => ?_, ?_⟩
  · change (s.chip.raking bad0).vlt.owners = _
    rw [heq]
  · rw [Chip.fwd?_setFwd, Chip.fwd?_congr htable]
  · change (s.chip.raking bad0).regs = _
    rw [heq]

theorem rakeVisit_bad (hne : SMap.get (fun _ => 0) s.chip.fwd.bad s.chip.fwd.rake ||| bad0 ≠ 0) (hlogs : s.chip.logs) :
    completes (.rakeVisit ⟨bad0, hit, cycles⟩) s fun d =>
      (d.fwd.rake = (s.chip.fwd.rake + 1) % 262144 ∧ d.fwd.learns = s.chip.fwd.learns) ∧
      (∀ j, d.fwd? j = if j = s.chip.fwd.rake then none else s.chip.fwd? j) ∧ d.getF F.FWD_STAT_parity [] = 1 ∧
      s.chip.logged d [⟨Ev.FWD_PARITY, 0x21E,
        if (SMap.get (fun _ => 0) s.chip.fwd.bad s.chip.fwd.rake ||| bad0).getLsbD 0 then [] else [(8, e.key.toNat)], false⟩] := by
  obtain ⟨heq, htable, hlearns, hrake, hbad⟩ := s.chip.raking_spec bad0
  obtain ⟨hvisit, -⟩ := rakeVisit_of (hit := hit) hmode hen hat rfl rfl
  obtain ⟨y, hy⟩ : ∃ y, s.chip.raking bad0 = y := ⟨_, rfl⟩
  rw [hy] at heq htable hlearns hrake hbad hvisit
  have hyat : y.fwd? s.chip.fwd.rake = some e := (Chip.fwd?_congr htable _).trans hat
  have hyevr : y.evr = s.chip.evr := by rw [heq]
  obtain ⟨hfwd, hstat, hvlt, -, -, hlog⟩ := Chip.fwdParity_bad hyat hbad hne 0x21E
  refine completes_rake hspecial (hvisit hne) ?_ ⟨⟨?_, ?_⟩, fun j => ?_, hstat, ?_⟩
  · rw [hvlt, heq]
  · rw [hfwd]
    exact hrake
  · rw [hfwd]
    exact hlearns
  · rw [Chip.fwd?_congr (congrArg Forwarding.table hfwd), Chip.fwd?_setFwd, Chip.fwd?_congr htable]
  · rw [Chip.logged, hlog (by rwa [Chip.logs, hyevr]), hyevr]

section
variable (hgood : SMap.get (fun _ => 0) s.chip.fwd.bad s.chip.fwd.rake = 0)
include hgood

theorem rakeVisit_static (hst : e.static = true) : completes (.rakeVisit ⟨0, hit, cycles⟩) s fun d =>
    (d.fwd.rake = (s.chip.fwd.rake + 1) % 262144 ∧ d.fwd.learns = s.chip.fwd.learns) ∧ d.fwd.table = s.chip.fwd.table := by
  obtain ⟨heq, htable, hlearns, hrake, -⟩ := s.chip.raking_spec 0
  obtain ⟨-, hvisit⟩ := rakeVisit_of (bad0 := 0) (hit := hit) hmode hen hat rfl rfl
  obtain ⟨hstatic, -⟩ := hvisit (by rw [hgood]; rfl)
  exact completes_rake hspecial (hstatic hst) (by rw [heq]) ⟨⟨hrake, hlearns⟩, htable⟩

variable (hst : e.static = false) (hflap : e.flapping = false)
include hst hflap

omit hspecial in
theorem rakeVisit_ages : s.chip.rakeVisit 0 hit =
    if e.hit then (s.chip.raking 0).setFwd s.chip.fwd.rake (some { e with hit := false, idle := false })
    else if !e.idle then (s.chip.raking 0).setFwd s.chip.fwd.rake (some { e with idle := true })
    else if hit then (s.chip.raking 0).setFwd s.chip.fwd.rake (some { e with hit := true, idle := false })
    else (s.chip.raking 0).fwdRemove s.chip.fwd.rake := by
  obtain ⟨-, hvisit⟩ := rakeVisit_of (bad0 := 0) (hit := hit) hmode hen hat rfl rfl
  obtain ⟨-, hdynamic⟩ := hvisit (by rw [hgood]; rfl)
  exact hdynamic hst hflap

theorem rakeVisit_removes (hhit : e.hit = false) (hidle : e.idle = true)
    (hroom : s.chip.getF F.FWD_COUNT_valid [] < 2 ^ 19) : completes (.rakeVisit ⟨0, false, cycles⟩) s fun d =>
      (d.fwd.rake = (s.chip.fwd.rake + 1) % 262144 ∧ d.fwd.learns = s.chip.fwd.learns) ∧
      (∀ j, d.fwd? j = if j = s.chip.fwd.rake then none else s.chip.fwd? j) ∧
      d.getF F.FWD_COUNT_valid [] = s.chip.getF F.FWD_COUNT_valid [] - 1 := by
  obtain ⟨heq, htable, hlearns, hrake, -⟩ := s.chip.raking_spec 0
  have hvisit := rakeVisit_ages (hit := false) hmode hen hat hgood hst hflap
  simp only [hhit, hidle, Bool.false_eq_true, if_false, Bool.not_true] at hvisit
  obtain ⟨y, hy⟩ : ∃ y, s.chip.raking 0 = y := ⟨_, rfl⟩
  rw [hy] at heq htable hlearns hrake hvisit
  have hyat : y.fwd? s.chip.fwd.rake = some e := (Chip.fwd?_congr htable _).trans hat
  have hycount : y.getF F.FWD_COUNT_valid [] = s.chip.getF F.FWD_COUNT_valid [] := Chip.getF_congr (by rw [heq]) _ _
  obtain ⟨z, hz⟩ : ∃ z, (y.setFwd s.chip.fwd.rake none).fwdCount (-1) = z := ⟨_, rfl⟩
  obtain ⟨d, hd⟩ : ∃ d, y.fwdRemove s.chip.fwd.rake = d := ⟨_, rfl⟩
  have hports : z.portsOnly d := by
    rw [← hd, Chip.fwdRemove]
    simp only [hyat, hz]
    exact ite_cases (P := fun d => z.portsOnly d) ((Chip.portsOnly.refl z).portLearnt _ _) (.refl z)
  have hfwd : d.fwd = (y.setFwd s.chip.fwd.rake none).fwd := by
    rw [hports.frame, ← hz]
    rfl
  refine completes_rake hspecial (hvisit.trans hd) ?_ ⟨⟨?_, ?_⟩, fun j => ?_, ?_⟩
  · rw [hports.frame, ← hz]
    change y.vlt.owners = _
    rw [heq]
  · rw [hfwd]
    exact hrake
  · rw [hfwd]
    exact hlearns
  · rw [Chip.fwd?_congr (congrArg Forwarding.table hfwd), Chip.fwd?_setFwd, Chip.fwd?_congr htable]
  · rw [hports.getF (by decide) (by decide), ← hz, Chip.fwdCount, Chip.getF_setF_same _ _ _ _ (by decide)]
    change ((y.getF F.FWD_COUNT_valid [] : Int) + -1).toNat % 2 ^ 19 = _
    rw [hycount]
    omega

end

end

end Sys2Proof.Machine

/-! PROOFS. Special passes of the Rake (R267, R268). -/
namespace Sys2Proof.Machine

/-! ### What the end of an order leaves of the table -/

/-- The table, the ownership slots and the registers of the block FWD are as they were. -/
structure Chip.tableKept (c d : Chip) : Prop where
  fwd : d.fwd = c.fwd
  owners : d.vlt.owners = c.vlt.owners
  regs : ∀ k, 0x400000 * 32 ≤ k → k < 0x500000 * 32 → SMap.get regReset d.regs k = SMap.get regReset c.regs k

namespace Chip.tableKept

variable {a c d : Chip}

theorem refl (c : Chip) : c.tableKept c := ⟨rfl, rfl, fun _ _ _ => rfl⟩

theorem getF (h : c.tableKept d) {f : Fld} {i : List Nat} (h1 : 0x400000 * 32 ≤ f.key i) (h2 : f.key i < 0x500000 * 32) :
    d.getF f i = c.getF f i := by
  rw [Chip.getF, Chip.getF, h.regs _ h1 h2]

section
variable (h : a.tableKept c)
include h

theorem of_same (hregs : d.regs = c.regs) (hfwd : d.fwd = c.fwd) (hvlt : d.vlt = c.vlt) : a.tableKept d :=
  ⟨by rw [hfwd, h.fwd], by rw [hvlt, h.owners], fun k h1 h2 => by rw [hregs, h.regs k h1 h2]⟩

theorem modOrd (f : OrdEng → OrdEng) : a.tableKept (c.modOrd f) := h.of_same rfl rfl rfl
theorem modEng (f : Engines → Engines) : a.tableKept (c.modEng f) := h.of_same rfl rfl rfl
theorem modPrs (f : PairStack → PairStack) : a.tableKept (c.modPrs f) := h.of_same rfl rfl rfl
theorem modHif (f : HostIf → HostIf) : a.tableKept (c.modHif f) := h.of_same rfl rfl rfl
theorem emit (o : Output) : a.tableKept (c.emit o) := h.of_same rfl rfl rfl

theorem setF {f : Fld} {i : List Nat} (v : Nat) (hf : f.key i < 0x400000 * 32 ∨ 0x500000 * 32 ≤ f.key i) :
    a.tableKept (c.setF f i v) := by
  refine ⟨h.fwd, h.owners, fun k h1 h2 => ?_⟩
  rw [Chip.setF_regs, SMap.get_set_other (by rintro rfl; omega), h.regs k h1 h2]

theorem ringComplete (r : Nat) (entry : Bytes) : a.tableKept (c.ringComplete r entry) := by
  have hreports := (Chip.reports.refl c).ringComplete r entry
  exact h.of_same (Chip.ringComplete_regs c r entry) (by rw [hreports]) (by rw [hreports])

theorem linkSend (port kind : Nat) (clear body : Bytes) : a.tableKept (c.linkSend port kind clear body) := by
  simp only [Chip.linkSend]
  split
  · exact h
  · exact ite_cases (P := a.tableKept) h ((h.modPrs _).emit _)

theorem blockDone (status detail index ret : Nat) : a.tableKept (c.blockDone status detail index ret) := by
  simp only [Chip.blockDone]
  split_ifs
  · exact (((h.modOrd _).modOrd _).setF _ (by decide)).linkSend _ _ _ _
  · exact (((h.modOrd _).modOrd _).setF _ (by decide)).modHif _
  · exact (((h.modOrd _).modOrd _).setF _ (by decide)).ringComplete _ _

theorem nextRecord : a.tableKept c.nextRecord := by
  simp only [Chip.nextRecord]
  split_ifs
  · exact h.blockDone _ _ _ _
  · exact h
  · exact h.blockDone _ _ _ _

theorem finishOrder (r : OrdRes) : a.tableKept (c.finishOrder r) := by
  simp only [Chip.finishOrder]
  split
  · simp only [Chip.callDone]
    exact ite_cases (P := a.tableKept) ((h.modOrd _).modOrd _) (((h.modOrd _).modOrd _).modEng _)
  · refine ite_cases (P := a.tableKept) ?_ ((h.modOrd _).modOrd _)
    simp only [Chip.recordDone]
    exact ite_cases (P := a.tableKept) ((h.modOrd _).blockDone _ _ _ _) ((h.modOrd _).modOrd _).nextRecord

end

end Chip.tableKept

/-! ### Slots read in turn -/

/-- The table in canonical form. -/
abbrev Chip.tableOk (c : Chip) : Prop := SMap.wf (fun _ => none) c.fwd.table = true

theorem Chip.tableOk_setFwd {c : Chip} (h : c.tableOk) (k : Nat) (e : Option FwdEntry) : (c.setFwd k e).tableOk := SMap.wf_set h

/-- The words of a slot that are bad. -/
abbrev Chip.badAt (c : Chip) (k : Nat) : BitVec 4 := SMap.get (fun _ => 0) c.fwd.bad k

theorem Chip.badAt_setFwd (c : Chip) (k j : Nat) (e : Option FwdEntry) : (c.setFwd k e).badAt j = if j = k then 0 else c.badAt j :=
  SMap.get_set (d := fun _ => (0 : BitVec 4)) (m := c.fwd.bad) (k := k) (v := 0) (j := j)

/-- Nothing that a pass of the Rake reads has changed but the slots, and of these only what `f` says. -/
structure Chip.passes (c d : Chip) (f : Nat → Option FwdEntry → Option FwdEntry) : Prop where
  slots : ∀ j, d.fwd? j = f j (c.fwd? j)
  ok : c.tableOk → d.tableOk
  special : d.fwd.special = c.fwd.special
  ord : d.ord = c.ord
  vlt : d.vlt = c.vlt

/-- A read of a slot: one with bad words loses its entry. -/
theorem Chip.fwdParity_passes (c : Chip) (k src : Nat) :
    c.passes (c.fwdParity k src) (fun j x => if j = k ∧ c.badAt j ≠ 0 then none else x) ∧
      ∀ j, j ≠ k → (c.fwdParity k src).badAt j = c.badAt j := by
  by_cases hbad : c.badAt k = 0
  · rw [Chip.fwdParity_good hbad]
    refine ⟨⟨fun j => ?_, id, rfl, rfl, rfl⟩, fun _ _ => rfl⟩
    rw [if_neg]
    rintro ⟨rfl, hne⟩
    exact hne hbad
  · rcases hat : c.fwd? k with _ | e
    · have hsame : c.fwdParity k src = c := by simp only [Chip.fwdParity, hat]
      rw [hsame]
      refine ⟨⟨fun j => ?_, id, rfl, rfl, rfl⟩, fun _ _ => rfl⟩
      split_ifs with hj
      · rw [hj.1, hat]
      · rfl
    · obtain ⟨hfwd, -, hvlt, hord, -, -⟩ := Chip.fwdParity_bad hat rfl hbad src
      refine ⟨⟨fun j => ?_, fun hok => ?_, ?_, hord, hvlt⟩, fun j hj => ?_⟩
      · rw [Chip.fwd?_congr (congrArg Forwarding.table hfwd), Chip.fwd?_setFwd]
        by_cases hj : j = k
        · rw [if_pos hj, if_pos ⟨hj, by rw [hj]; exact hbad⟩]
        · rw [if_neg hj, if_neg (fun h => hj h.1)]
      · rw [Chip.tableOk, hfwd]
        exact Chip.tableOk_setFwd hok k none
      · rw [hfwd]
        rfl
      · rw [Chip.badAt, hfwd]
        exact (c.badAt_setFwd k j none).trans (if_neg hj)

theorem Chip.fwdParity_each (c : Chip) (l : List Nat) (src : Nat) :
    c.passes (c.each l fun c s => c.fwdParity s src) fun j x => if j ∈ l ∧ c.badAt j ≠ 0 then none else x := by
  induction l generalizing c with
  | nil => exact ⟨fun j => by rw [if_neg (fun h => by cases h.1)]; rfl, id, rfl, rfl, rfl⟩
  | cons k l ih =>
    obtain ⟨hone, hbad⟩ := c.fwdParity_passes k src
    have hrest := ih (c.fwdParity k src)
    refine ⟨fun j => ?_, fun hok => hrest.ok (hone.ok hok), hrest.special.trans hone.special, hrest.ord.trans hone.ord,
      hrest.vlt.trans hone.vlt⟩
    rw [Chip.each_cons, hrest.slots, hone.slots]
    by_cases hj : j = k
    · subst hj
      by_cases hne : c.badAt j = 0
      · rw [Chip.fwdParity_good hne]
        simp only [hne, ne_eq, not_true, and_false, if_false]
      · rw [if_pos (c := j ∈ j :: l ∧ c.badAt j ≠ 0) ⟨List.mem_cons_self, hne⟩, if_pos (c := j = j ∧ c.badAt j ≠ 0) ⟨rfl, hne⟩,
          ite_self]
    · rw [hbad j hj]
      simp only [List.mem_cons, hj, false_or, false_and, if_false]

/-- The removal of entries. -/
theorem Chip.fwdRemove_passes (c : Chip) (k : Nat) : c.passes (c.fwdRemove k) fun j x => if j = k then none else x := by
  rcases hat : c.fwd? k with _ | e
  · have hsame : c.fwdRemove k = c := by simp only [Chip.fwdRemove, hat]
    rw [hsame]
    refine ⟨fun j => ?_, id, rfl, rfl, rfl⟩
    split_ifs with hj
    · rw [hj, hat]
    · rfl
  · obtain ⟨z, hz⟩ : ∃ z, (c.setFwd k none).fwdCount (-1) = z := ⟨_, rfl⟩
    have hports : z.portsOnly (c.fwdRemove k) := by
      rw [Chip.fwdRemove]
      simp only [hat, hz]
      exact ite_cases (P := fun d => z.portsOnly d) ((Chip.portsOnly.refl z).portLearnt _ _) (.refl z)
    have hfwd : (c.fwdRemove k).fwd = (c.setFwd k none).fwd := by
      rw [hports.frame, ← hz]
      rfl
    refine ⟨fun j => ?_, fun hok => ?_, ?_, ?_, ?_⟩
    · rw [Chip.fwd?_congr (congrArg Forwarding.table hfwd), Chip.fwd?_setFwd]
    · rw [Chip.tableOk, hfwd]
      exact Chip.tableOk_setFwd hok k none
    · rw [hfwd]
      rfl
    · rw [hports.frame, ← hz]
      rfl
    · rw [hports.frame, ← hz]
      rfl

theorem Chip.fwdRemove_each (c : Chip) (l : List Nat) :
    c.passes (c.each l Chip.fwdRemove) fun j x => if j ∈ l then none else x := by
  induction l generalizing c with
  | nil => exact ⟨fun j => rfl, id, rfl, rfl, rfl⟩
  | cons k l ih =>
    have hone := c.fwdRemove_passes k
    have hrest := ih (c.fwdRemove k)
    refine ⟨fun j => ?_, fun hok => hrest.ok (hone.ok hok), hrest.special.trans hone.special, hrest.ord.trans hone.ord,
      hrest.vlt.trans hone.vlt⟩
    rw [Chip.each_cons, hrest.slots, hone.slots]
    by_cases hj : j = k
    · rw [if_pos hj, ite_self, if_pos (List.mem_cons.2 (.inl hj))]
    · simp only [List.mem_cons, hj, false_or, if_false]

/-- A slot of a canonical table holds what the table lists. -/
theorem Chip.mem_fwdList {c : Chip} (hok : c.tableOk) (j : Nat) (x : FwdEntry) : (j, x) ∈ c.fwdList ↔ c.fwd? j = some x := by
  simp only [Chip.fwdList, List.mem_filterMap, Option.map_eq_some_iff, Prod.mk.injEq]
  constructor
  · rintro ⟨p, hp, y, hy, rfl, rfl⟩
    rw [Chip.fwd?, SMap.get_of_mem hok hp, hy]
  · intro hat
    obtain ⟨p, hp, hpj⟩ : ∃ p ∈ c.fwd.table, p.1 = j := by
      by_contra hnone
      push Not at hnone
      have hdefault : ∀ m : SMap (Option FwdEntry), (∀ p ∈ m, p.1 ≠ j) → SMap.get (fun _ => none) m j = none := by
        intro m
        induction m with
        | nil => exact fun _ => rfl
        | cons q m ih =>
          intro hm
          rw [SMap.get_cons, if_neg (hm q List.mem_cons_self), ih fun p hp => hm p (List.mem_cons_of_mem _ hp)]
      rw [Chip.fwd?, hdefault _ hnone] at hat
      cases hat
    have hget := SMap.get_of_mem hok hp
    rw [hpj] at hget
    exact ⟨p, hp, x, by rw [← hget]; exact hat, hpj, rfl⟩

end Sys2Proof.Machine

/-! PROOFS. Flushes and recounts of the forwarding table (R267). -/
namespace Sys2Proof.Machine

theorem SMap.get_of_no_key {α : Type} {d : Nat → α} {m : SMap α} {j : Nat} (h : j ∉ m.map (·.1)) : SMap.get d m j = d j := by
  induction m with
  | nil => rfl
  | cons q m ih =>
    rw [List.map_cons, List.mem_cons, not_or] at h
    rw [SMap.get_cons, if_neg (fun hq => h.1 hq.symm), ih h.2]

/-- A slot of a pass fails. -/
abbrev Chip.failsIn (c : Chip) (at' next : Nat) (bad : BitVec 4) (j : Nat) : Prop :=
  at' ≤ j ∧ j < next ∧ c.badAt j ||| (if j = at' then bad else 0) ≠ 0

/-- The slots that a pass reads. -/
def Chip.passReads (c : Chip) (at' next ns : Nat) (bad : BitVec 4) : Chip :=
  let c := c.fwdUpset [(at', bad)]
  let c := c.each ((c.fwd.bad.map (·.1)).filter fun s => at' ≤ s && s < next) fun c s => c.fwdParity s 0x21E
  c.reachElapsed ns

theorem Chip.passReads_passes (c : Chip) (at' next ns : Nat) (bad : BitVec 4) :
    c.passes (c.passReads at' next ns bad) fun j x => if c.failsIn at' next bad j then none else x := by
  obtain ⟨u, hu⟩ : ∃ u, c.fwdUpset [(at', bad)] = u := ⟨_, rfl⟩
  have hutable : u.fwd.table = c.fwd.table ∧ u.fwd.special = c.fwd.special ∧ u.ord = c.ord ∧ u.vlt = c.vlt := by
    rw [← hu]
    exact ⟨rfl, rfl, rfl, rfl⟩
  obtain ⟨htable, hspecial, hord, hvlt⟩ := hutable
  have hubad : ∀ j, u.badAt j = c.badAt j ||| (if j = at' then bad else 0) := by
    intro j
    have hget : u.badAt j = if j = at' then c.badAt at' ||| bad else c.badAt j := by
      rw [← hu]
      exact SMap.get_set (d := fun _ => (0 : BitVec 4)) (m := c.fwd.bad) (k := at') (v := c.badAt at' ||| bad) (j := j)
    rw [hget]
    split_ifs with hj
    · rw [hj]
    · simp
  have hmem : ∀ j, (j ∈ (u.fwd.bad.map (·.1)).filter (fun s => at' ≤ s && s < next) ∧ u.badAt j ≠ 0) ↔ c.failsIn at' next bad j := by
    intro j
    simp only [List.mem_filter, Bool.and_eq_true, decide_eq_true_eq, Chip.failsIn, ← hubad j]
    constructor
    · rintro ⟨⟨-, h1, h2⟩, hne⟩
      exact ⟨h1, h2, hne⟩
    · rintro ⟨h1, h2, hne⟩
      refine ⟨⟨?_, h1, h2⟩, hne⟩
      by_contra hnone
      exact hne (SMap.get_of_no_key hnone)
  have hparity := u.fwdParity_each ((u.fwd.bad.map (·.1)).filter fun s => at' ≤ s && s < next) 0x21E
  obtain ⟨y, hy⟩ : ∃ y, (u.each ((u.fwd.bad.map (·.1)).filter fun s => at' ≤ s && s < next) fun c s => c.fwdParity s 0x21E) = y :=
    ⟨_, rfl⟩
  rw [hy] at hparity
  have hreads : c.passReads at' next ns bad = y.reachElapsed ns := by
    rw [Chip.passReads]
    simp only [hu, hy]
  obtain ⟨hreach, -⟩ := y.reachElapsed_runs ns
  rw [← hreads] at hreach
  have hfwd : (c.passReads at' next ns bad).fwd = y.fwd := by rw [hreach]
  refine ⟨fun j => ?_, fun hok => ?_, ?_, ?_, ?_⟩
  · rw [Chip.fwd?_congr (congrArg Forwarding.table hfwd), hparity.slots, Chip.fwd?_congr htable]
    exact if_congr (hmem j) rfl rfl
  · rw [Chip.tableOk, hfwd]
    exact hparity.ok (by rw [Chip.tableOk, htable]; exact hok)
  · rw [hfwd, hparity.special, hspecial]
  · rw [hreach, ← hord, ← hparity.ord]
  · rw [hreach, ← hvlt, ← hparity.vlt]

/-- The place of a pass after some of its cycles; behind the last slot it and the order that waits for it end. -/
def Chip.passMoves (c : Chip) (p : RakePass) (next start : Nat) : Chip :=
  if next = 262144 then
    let c := c.modFwd fun t => { t with special := none }
    c.when (c.ord.wait = OrdWait.rake) fun c => c.finishOrder {}
  else c.modFwd fun t => { t with special := some (p, next, start) }

theorem Chip.passMoves_spec (c : Chip) (p : RakePass) (next start : Nat) :
    (c.passMoves p next start).fwd = { c.fwd with special := if next = 262144 then none else some (p, next, start) } ∧
      (next = 262144 → c.ord.wait = .rake → c.ord.callReg = none → c.ord.busy = false →
        (c.passMoves p next start).ord.wait = .none ∧ (c.passMoves p next start).ord.res = {}) ∧
      (next ≠ 262144 → (c.passMoves p next start).ord = c.ord) ∧
      (c.passMoves p next start).vlt.owners = c.vlt.owners ∧
      ∀ (f : Fld) (i : List Nat), 0x400000 * 32 ≤ f.key i → f.key i < 0x500000 * 32 →
        (c.passMoves p next start).getF f i = c.getF f i := by
  by_cases hnext : next = 262144
  · obtain ⟨y, hy⟩ : ∃ y, c.modFwd (fun t => { t with special := none }) = y := ⟨_, rfl⟩
    have hmoves : c.passMoves p next start = y.when (y.ord.wait = OrdWait.rake) fun c => c.finishOrder {} := by
      rw [Chip.passMoves, if_pos hnext, ← hy]
    have hkept : y.tableKept (c.passMoves p next start) :=
      hmoves ▸ Chip.when_induct _ (.refl y) fun h => h.finishOrder {}
    have hyeq : y.fwd = { c.fwd with special := none } ∧ y.vlt = c.vlt ∧ y.regs = c.regs ∧ y.ord = c.ord := by
      rw [← hy]
      exact ⟨rfl, rfl, rfl, rfl⟩
    obtain ⟨hyfwd, hyvlt, hyregs, hyord⟩ := hyeq
    refine ⟨?_, fun _ hwait hcall hbusy => ?_, fun hne => absurd hnext hne, ?_, fun f i h1 h2 => ?_⟩
    · rw [hkept.fwd, hyfwd, if_pos hnext]
    · have hend : c.passMoves p next start = y.finishOrder {} := by
        rw [hmoves, hyord, hwait, decide_eq_true rfl, Chip.when_true]
      have hfinish : y.finishOrder {} = (y.modOrd fun o => { o with wait := .none }).modOrd fun o => { o with
          res := {}, lastRet := ({} : OrdRes).ret.getD o.lastRet } := by
        simp only [Chip.finishOrder, Chip.modOrd_ord, hyord, hcall, hbusy, Bool.false_and, Bool.false_eq_true, if_false]
      rw [hend, hfinish]
      exact ⟨rfl, rfl⟩
    · rw [hkept.owners, hyvlt]
    · rw [hkept.getF h1 h2, Chip.getF_congr hyregs]
  · rw [Chip.passMoves, if_neg hnext, if_neg hnext]
    exact ⟨rfl, fun h => absurd h hnext, fun _ => rfl, rfl, fun _ _ _ _ => rfl⟩

/-- A recount leaves the table, and gives each port the count of its limited entries. -/
theorem Chip.fwdRecount_spec (c : Chip) :
    c.fwdRecount = { c with regs := c.fwdRecount.regs } ∧ ∀ p, p < 64 → c.fwdRecount.getF F.FWD_PORT_CNT_count [p] =
      (c.fwdList.filter fun x => x.2.limited && x.2.learnSrc = p).length % 2 ^ 19 := by
  obtain ⟨v, hv⟩ : ∃ v : Nat → Nat, (fun k => (c.fwdList.filter fun x => x.2.limited && x.2.learnSrc = k).length) = v := ⟨_, rfl⟩
  have hrecount : c.fwdRecount = c.each (List.range 64) fun c k => c.setF F.FWD_PORT_CNT_count [k] (v k) := by rw [← hv]; rfl
  have hsteps : ∀ n, (c.each (List.range n) fun c k => c.setF F.FWD_PORT_CNT_count [k] (v k)) =
      { c with regs := (c.each (List.range n) fun c k => c.setF F.FWD_PORT_CNT_count [k] (v k)).regs } ∧
      ∀ p, p < n → (c.each (List.range n) fun c k => c.setF F.FWD_PORT_CNT_count [k] (v k)).getF F.FWD_PORT_CNT_count [p] =
        v p % 2 ^ 19 := by
    intro n
    induction n with
    | zero => exact ⟨rfl, fun p hp => absurd hp (by omega)⟩
    | succ n ih =>
      obtain ⟨hframe, hvals⟩ := ih
      have hlast : (c.each (List.range (n + 1)) fun c k => c.setF F.FWD_PORT_CNT_count [k] (v k)) =
          (c.each (List.range n) fun c k => c.setF F.FWD_PORT_CNT_count [k] (v k)).setF F.FWD_PORT_CNT_count [n] (v n) := by
        rw [List.range_succ]
        exact List.foldl_concat ..
      rw [hlast]
      generalize (c.each (List.range n) fun c k => c.setF F.FWD_PORT_CNT_count [k] (v k)) = y at hframe hvals ⊢
      refine ⟨?_, fun p hp => ?_⟩
      · rw [hframe]
        rfl
      · by_cases hpn : p = n
        · rw [hpn]
          exact Chip.getF_setF_same _ _ _ _ (by decide)
        · rw [Chip.getF_setF_other _ _ (by decide), hvals p (by omega)]
          simp only [Fld.key, F.FWD_PORT_CNT_count, dotStrides]
          omega
  obtain ⟨hframe, hvals⟩ := hsteps 64
  rw [← hrecount] at hframe hvals
  refine ⟨hframe, fun p hp => ?_⟩
  rw [hvals p hp, ← hv]

/-! ### The passes -/

section
variable {s : State} {bad0 : BitVec 4} {hit : Bool} {cycles : Fin 32769} {p : RakePass} {at' start next : Nat}
  (hok : s.chip.tableOk) (hrun : s.chip.running = true) (hnext : min 262144 (at' + 8 * cycles.val) = next)
include hrun

theorem completes_pass (hspecial : s.chip.fwd.special = some (p, at', start)) {d : Chip}
    (hd : s.chip.passOn p at' start cycles.val bad0 = d) (hown : d.vlt.owners = s.chip.vlt.owners) {post : Chip → Prop}
    (hpost : post d) : completes (.rakeVisit ⟨bad0, hit, cycles⟩) s post := by
  refine completes_eq (f := fun c => match c.fwd.special with
    | some (p, at', start) => if c.running then c.passOn p at' start cycles.val bad0 else c
    | none => c.rakeVisit bad0 hit) (d := d) rfl ?_ hpost hown
  simp only [hspecial, hrun, if_true, hd]

include hok hnext

theorem rakeVisit_flushes {v m : DWord} {st : Bool} (hspecial : s.chip.fwd.special = some (.flush v m st, at', start)) :
    completes (.rakeVisit ⟨bad0, hit, cycles⟩) s fun d =>
      (d.fwd.special = (if next = 262144 then none else some (.flush v m st, next, start)) ∧
        (next = 262144 → s.chip.ord.wait = .rake → s.chip.ord.callReg = none → s.chip.ord.busy = false →
          d.ord.wait = .none ∧ d.ord.res = {}) ∧
        (next ≠ 262144 → d.ord = s.chip.ord)) ∧
      ∀ j, d.fwd? j = (s.chip.fwd? j).bind fun x =>
        if s.chip.failsIn at' next bad0 j ∨ (at' ≤ j ∧ j < next ∧ flushHit v m st x = true) then none else some x := by
  have hreads := s.chip.passReads_passes at' next (start + next / 8 * 5 / 8) bad0
  obtain ⟨y, hy⟩ : ∃ y, s.chip.passReads at' next (start + next / 8 * 5 / 8) bad0 = y := ⟨_, rfl⟩
  rw [hy] at hreads
  obtain ⟨l, hl⟩ : ∃ l, (y.fwdList.filter fun (x : Nat × FwdEntry) => at' ≤ x.1 && x.1 < next && flushHit v m st x.2).map Prod.fst = l :=
    ⟨_, rfl⟩
  have hmem : ∀ j x, y.fwd? j = some x → (j ∈ l ↔ at' ≤ j ∧ j < next ∧ flushHit v m st x = true) := by
    intro j x hat
    rw [← hl]
    simp only [List.mem_map, List.mem_filter, Bool.and_eq_true, decide_eq_true_eq, Prod.exists,
      Chip.mem_fwdList (hreads.ok hok)]
    constructor
    · rintro ⟨j', x', ⟨hx', ⟨h1, h2⟩, h3⟩, rfl⟩
      rw [hat] at hx'
      rw [Option.some.inj hx']
      exact ⟨h1, h2, h3⟩
    · rintro ⟨h1, h2, h3⟩
      exact ⟨j, x, ⟨hat, ⟨h1, h2⟩, h3⟩, rfl⟩
  have hremoves := y.fwdRemove_each l
  obtain ⟨z, hz⟩ : ∃ z, y.each l Chip.fwdRemove = z := ⟨_, rfl⟩
  rw [hz] at hremoves
  have hpass : s.chip.passOn (.flush v m st) at' start cycles.val bad0 = z.passMoves (.flush v m st) next start := by
    rw [Chip.passReads] at hy
    rw [Chip.passOn, hnext]
    simp only [hy, hl, hz]
    rfl
  obtain ⟨hfwd, hend, hstay, hown, -⟩ := z.passMoves_spec (.flush v m st) next start
  have hzord : z.ord = s.chip.ord := hremoves.ord.trans hreads.ord
  refine completes_pass hrun hspecial hpass ?_ ⟨⟨?_, fun hn hwait hcall hbusy => ?_, fun hn => ?_⟩, fun j => ?_⟩
  · rw [hown, hremoves.vlt, hreads.vlt]
  · rw [hfwd]
  · exact hend hn (by rw [hzord, hwait]) (by rw [hzord, hcall]) (by rw [hzord, hbusy])
  · rw [hstay hn, hzord]
  · have htable : ∀ j, (z.passMoves _ next start).fwd? j = z.fwd? j := fun j => Chip.fwd?_congr (by rw [hfwd]) j
    rw [htable]
    rw [hremoves.slots, hreads.slots]
    rcases hat : s.chip.fwd? j with _ | x
    · rw [ite_self, ite_self]
      rfl
    · have hyat := hreads.slots j
      rw [hat] at hyat
      simp only [Option.bind_some]
      by_cases hfail : s.chip.failsIn at' next bad0 j
      · rw [if_pos (c := s.chip.failsIn at' next bad0 j) hfail, ite_self, if_pos (.inl hfail)]
      · rw [if_neg hfail] at hyat
        rw [if_neg (c := s.chip.failsIn at' next bad0 j) hfail]
        exact if_congr (by rw [hmem j x hyat]; simp only [hfail, false_or]) rfl rfl

omit hok in
theorem rakeVisit_recounts (hspecial : s.chip.fwd.special = some (.recount, at', start)) :
    completes (.rakeVisit ⟨bad0, hit, cycles⟩) s fun d =>
      (d.fwd.special = (if next = 262144 then none else some (.recount, next, start)) ∧
        (next = 262144 → s.chip.ord.wait = .rake → s.chip.ord.callReg = none → s.chip.ord.busy = false →
          d.ord.wait = .none ∧ d.ord.res = {}) ∧
        (next ≠ 262144 → d.ord = s.chip.ord)) ∧
      (∀ j, d.fwd? j = if s.chip.failsIn at' next bad0 j then none else s.chip.fwd? j) ∧
      (next = 262144 → d.getF F.FWD_STAT_count_drift [] = 0 ∧
        ∀ p : Fin 64, let m := (d.fwdList.filter fun x => x.2.limited && x.2.learnSrc = p.val).length
          m < 2 ^ 19 → d.getF F.FWD_PORT_CNT_count [p.val] = m) := by
  have hreads := s.chip.passReads_passes at' next (start + next / 8 * 5 / 8) bad0
  obtain ⟨y, hy⟩ : ∃ y, s.chip.passReads at' next (start + next / 8 * 5 / 8) bad0 = y := ⟨_, rfl⟩
  rw [hy] at hreads
  obtain ⟨z, hz⟩ : ∃ z, (y.when (next = 262144) fun (c : Chip) => c.fwdRecount.setF F.FWD_STAT_count_drift [] 0) = z := ⟨_, rfl⟩
  obtain ⟨hcount, hvals⟩ := y.fwdRecount_spec
  have hzeq : z = { y with regs := z.regs } := by
    rw [← hz]
    refine Chip.when_induct (P := fun z => z = { y with regs := z.regs }) _ rfl fun _ => ?_
    obtain ⟨w, hw⟩ : ∃ w, y.fwdRecount = w := ⟨_, rfl⟩
    rw [hw] at hcount ⊢
    rw [hcount]
    rfl
  have hzfwd : z.fwd = y.fwd := by rw [hzeq]
  have hzord : z.ord = s.chip.ord := by rw [hzeq, ← hreads.ord]
  have hzvlt : z.vlt = s.chip.vlt := by rw [hzeq, ← hreads.vlt]
  have hpass : s.chip.passOn .recount at' start cycles.val bad0 = z.passMoves .recount next start := by
    rw [Chip.passReads] at hy
    rw [Chip.passOn, hnext]
    simp only [hy, hz]
    rfl
  obtain ⟨hfwd, hend, hstay, hown, hget⟩ := z.passMoves_spec .recount next start
  refine completes_pass hrun hspecial hpass ?_ ⟨⟨?_, fun hn hwait hcall hbusy => ?_, fun hn => ?_⟩, fun j => ?_, fun hn => ⟨?_, fun p => ?_⟩⟩
  · rw [hown, hzvlt]
  · rw [hfwd]
  · exact hend hn (by rw [hzord, hwait]) (by rw [hzord, hcall]) (by rw [hzord, hbusy])
  · rw [hstay hn, hzord]
  · have htable : ∀ j, (z.passMoves _ next start).fwd? j = z.fwd? j := fun j => Chip.fwd?_congr (by rw [hfwd]) j
    rw [htable]
    rw [Chip.fwd?_congr (congrArg Forwarding.table hzfwd), hreads.slots]
  · rw [hget _ _ (by decide) (by decide), ← hz, decide_eq_true hn, Chip.when_true]
    exact Chip.getF_setF_same _ _ _ _ (by decide)
  · intro m hm
    have hlist : (z.passMoves .recount next start).fwdList = y.fwdList := by
      rw [Chip.fwdList, hfwd]
      change z.fwd.table.filterMap _ = _
      rw [hzfwd]
      rfl
    have hlow : F.FWD_PORT_CNT_count.key [p.val] ≠ F.FWD_STAT_count_drift.key [] := by
      simp only [Fld.key, F.FWD_PORT_CNT_count, F.FWD_STAT_count_drift, dotStrides]
      omega
    have hport := p.isLt
    rw [hget _ _ (by simp only [Fld.key, F.FWD_PORT_CNT_count, dotStrides]; omega)
      (by simp only [Fld.key, F.FWD_PORT_CNT_count, dotStrides]; omega), ← hz, decide_eq_true hn, Chip.when_true,
      Chip.getF_setF_other _ _ (by decide) hlow, hvals p.val hport, Nat.mod_eq_of_lt]
    · simp only [m, hlist]
    · rw [← hlist]
      exact hm

end

end Sys2Proof.Machine

/-! PROOFS. The forwarding orders (R266, R267). -/
namespace Sys2Proof.Machine

/-- A COMMIT of one entry leaves what the entry changes, and nothing staged. -/
theorem commit_ends {s : State} {e : Staged} (hfree : s.chip.orderFree) (hw : s.chip.ord.regWrites = [])
    (hf : s.chip.ord.heldFill = false) (hst : s.chip.ord.staged = [e]) (hcheck : s.chip.entryCheck e = 0)
    (hmode : ∀ f t r, e ≠ .modeSet f t r) {d : Chip} (hd : s.chip.applyEntry e = d) (hord : d.ord = s.chip.ord)
    (hown : d.vlt.owners = s.chip.vlt.owners) :
    completes .commit s fun u => u = { d with prs := u.prs, ord := u.ord } ∧ u.ord.staged = [] ∧ u.ord.res = {} := by
  have hcommit := commit_single hst hcheck hmode
  rw [hd, Chip.settled_eq hw hf] at hcommit
  refine completes_order (f := commit) rfl hfree hcommit ?_ hown ⟨rfl, rfl, rfl⟩
  obtain ⟨hbusy, hwait, hcall⟩ := hfree.quiet
  exact ⟨by rw [hord]; exact hbusy, by rw [hord]; exact hwait, by rw [hord]; exact hcall⟩

section
variable {s : State} {key : DWord} {dest static : Word} {i : Nat} (hfree : s.chip.orderFree)
  (hmode : s.chip.inMode [.provision, .active, .maintenance] = true)
include hfree hmode

theorem fwdAdd_stages (hroom : s.chip.stagedCount < 64) (hdest : destOk dest.toNat = true) (hstatic : static.toNat ≤ 1)
    (hplace : (s.chip.fwdInstall key dest true).isSome = true) : completes (.fwdAdd key dest static) s fun d =>
      d = (s.chip.plusStaged (.fwdAdd key dest (static = 1))).ended {} := by
  refine completes_stages (f := fwdAdd key dest static) rfl hfree ?_
  rw [fwdAdd, inModes_of (l := fwdModes) hmode]
  refine (if_neg (by simp [hdest]; omega)).trans ((if_neg ?_).trans (Chip.stage_context rfl hroom))
  rw [Option.isNone_iff_eq_none]
  intro hnone
  rw [hnone] at hplace
  cases hplace

theorem fwdDel_stages (hroom : s.chip.stagedCount < 64) (hfind : s.chip.fwdFind key = some i) : completes (.fwdDel key) s fun d =>
    d = (s.chip.plusStaged (.fwdDel key)).ended {} := by
  refine completes_stages (f := fwdDel key) rfl hfree ?_
  rw [fwdDel, inModes_of (l := fwdModes) hmode]
  exact (if_neg (by simp [hfind])).trans (Chip.stage_context rfl hroom)

theorem fwdFlush_waits {value mask : DWord} (hvalue : bits value.toNat 31 22 = 0) (hmask : bits mask.toNat 31 22 = 0)
    (hstatic : static.toNat ≤ 1) : completes (.fwdFlush value mask static) s fun d => d = { s.chip with
      fwd := { s.chip.fwd with special := some (.flush value mask (static = 1), 0, s.chip.now) },
      ord := { s.chip.ord with wait := .rake } } := by
  refine completes_waiting (f := fwdFlush value mask static) (d := s.chip.passBegin (.flush value mask (static = 1))) rfl hfree ?_ rfl rfl
  rw [fwdFlush, inModes_of (l := fwdModes) hmode]
  exact if_neg (by simp [hvalue, hmask]; omega)

section
variable (hw : s.chip.ord.regWrites = []) (hf : s.chip.ord.heldFill = false)
include hw hf

theorem commit_adds {st : Bool} (hst : s.chip.ord.staged = [.fwdAdd key dest st]) (hfind : s.chip.fwdFind key = none)
    (hplace : s.chip.fwdFree key 4 = some i) : completes .commit s fun d =>
      (∀ j, d.fwd? j = if j = i then some { key := key, dest := dest, static := st, hit := true } else s.chip.fwd? j) ∧
      d.ord.staged = [] ∧ d.ord.res = {} := by
  obtain ⟨y, hy⟩ : ∃ y, (s.chip.setFwd i (some { key := key, dest := dest, static := st, hit := true })).fwdCount 1 = y := ⟨_, rfl⟩
  have hinstall : ∀ b, s.chip.fwdInstall key dest b =
      some ((s.chip.setFwd i (some { key := key, dest := dest, static := b, hit := true })).fwdCount 1) := fun b => by
    simp only [Chip.fwdInstall, hfind, Chip.fwdPlace, hplace, Option.map_some]
  have hcheck : s.chip.entryCheck (.fwdAdd key dest st) = 0 := by
    have hm : s.chip.inMode fwdModes = true := hmode
    simp only [Chip.entryCheck, Chip.modeThen, hm, if_true, hinstall true, Option.isNone_some, Bool.false_eq_true, if_false]
  have happly : s.chip.applyEntry (.fwdAdd key dest st) = y := by
    rw [Chip.applyEntry, hinstall st, hy]
    rfl
  have hkept : y.ord = s.chip.ord ∧ y.vlt = s.chip.vlt := by
    rw [← hy]
    exact ⟨rfl, rfl⟩
  refine completes_mono (commit_ends hfree hw hf hst hcheck (fun _ _ _ h => by cases h) happly hkept.1 (by rw [hkept.2])) ?_
  rintro u ⟨hu, hstaged, hres⟩
  refine ⟨fun j => ?_, hstaged, hres⟩
  rw [Chip.fwd?_congr (c := y) (by rw [hu]), ← hy]
  exact Chip.fwd?_setFwd s.chip i j _

theorem commit_deletes (hst : s.chip.ord.staged = [.fwdDel key]) (hfind : s.chip.fwdFind key = some i) :
    completes .commit s fun d =>
      (∀ j, d.fwd? j = if j = i then none else s.chip.fwd? j) ∧ d.ord.staged = [] ∧ d.ord.res = {} := by
  have hremoves := s.chip.fwdRemove_passes i
  have hcheck : s.chip.entryCheck (.fwdDel key) = 0 := by
    have hm : s.chip.inMode fwdModes = true := hmode
    simp only [Chip.entryCheck, Chip.modeThen, hm, if_true, hfind, Option.isNone_some, Bool.false_eq_true, if_false]
  have happly : s.chip.applyEntry (.fwdDel key) = s.chip.fwdRemove i := by
    simp only [Chip.applyEntry, hfind]
  refine completes_mono (commit_ends hfree hw hf hst hcheck (fun _ _ _ h => by cases h) happly hremoves.ord
    (by rw [hremoves.vlt])) ?_
  rintro u ⟨hu, hstaged, hres⟩
  refine ⟨fun j => ?_, hstaged, hres⟩
  rw [Chip.fwd?_congr (c := s.chip.fwdRemove i) (by rw [hu]), hremoves.slots]

end

end

theorem fwdRecount_waits {s : State} (hfree : s.chip.orderFree) (hmode : s.chip.inMode [.active, .maintenance] = true) :
    completes .fwdRecount s fun d => d = { s.chip with
      fwd := { s.chip.fwd with special := some (.recount, 0, s.chip.now) }, ord := { s.chip.ord with wait := .rake } } := by
  refine completes_waiting (f := fwdRecount) (d := s.chip.passBegin .recount) rfl hfree ?_ rfl rfl
  rw [fwdRecount, inModes_of hmode]

section
variable {s : State} {key out : DWord} {i : Nat} {e : FwdEntry} (hfree : s.chip.orderFree)
  (hmode : s.chip.inMode infoModes = true)
include hfree hmode

theorem fwdInfo_gives (hdma : s.chip.dmaAllowed 0 = true) (hfind : s.chip.fwdFind key = some i) (hat : s.chip.fwd? i = some e) :
    completes (.fwdInfo key out) s fun d => d = (s.chip.gave out.toNat (fwdBytes e)).ended {} := by
  refine completes_gives (f := fwdInfo key out) rfl hfree hdma ?_
  rw [fwdInfo, inModes_of hmode]
  simp only [hfind, Option.bind_some, hat]

theorem fwdInfo_absent (hfind : s.chip.fwdFind key = none) :
    completes (.fwdInfo key out) s fun d => d = s.chip.ended { status := 0x71 } := by
  refine completes_order (f := fwdInfo key out) (d := s.chip) (r := { status := 0x71 }) rfl hfree ?_ hfree.quiet rfl rfl
  rw [fwdInfo, inModes_of hmode]
  simp only [hfind, Option.bind_none]
  rfl

end

/-- Settles O47: the learn requests by what the table holds, the Rake by the entry it visits, a special pass slot by slot, and the
orders by their checks. -/
theorem forwardingTable : Obligations.ForwardingTable := by
  unfold Obligations.ForwardingTable
  intro s l rest i e bad0 hit cycles c n only lim bad
  refine ⟨fun hl hspecial => learnProcess_held hl hspecial, fun hl hmode hspecial hgood => ?_, fun hmode hen hspecial hat => ?_,
    fun start at' hok hrun => ?_, fun key dest static hfree hmode => ?_,
    fun value mask static hfree hmode hvalue hmask hstatic => fwdFlush_waits hfree hmode hvalue hmask hstatic,
    fun hfree hmode => fwdRecount_waits hfree hmode, fun key out hfree hdma hmode => ?_⟩
  · exact ⟨fun hfind hlimit hplace hroom => learnProcess_learns hl hmode hspecial hgood hfind hlimit hplace hroom,
      fun hfind hlimit => learnProcess_limited hl hmode hspecial hgood hfind hlimit,
      fun hfind hat => ⟨fun hst => learnProcess_static hl hmode hspecial hgood hfind hat hst,
        fun hst hdest => learnProcess_hits hl hmode hspecial hgood hfind hat hst hdest,
        fun hst hdest hfrozen => learnProcess_refused hl hmode hspecial hgood hfind hat hst hdest hfrozen,
        fun hst hdest hfrozen hflap hport hfresh hdamp =>
          learnProcess_moves hl hmode hspecial hgood hfind hat hst hdest hfrozen hflap hport hfresh hdamp⟩⟩
  · intro k next
    refine ⟨fun hgood => ⟨fun hst => rakeVisit_static hmode hen hspecial hat hgood hst, fun hst hflap hhit => ?_,
      fun hst hflap hhit hidle => ?_, fun hst hflap hhit hidle =>
        ⟨fun hroom => rakeVisit_removes hmode hen hspecial hat hgood hst hflap hhit hidle hroom, ?_⟩⟩,
      fun hne hlogs => rakeVisit_bad hmode hen hspecial hat hne hlogs⟩
    · refine rakeVisit_writes hspecial ?_
      rw [rakeVisit_ages hmode hen hat hgood hst hflap, hhit, if_pos rfl]
    · refine rakeVisit_writes hspecial ?_
      rw [rakeVisit_ages hmode hen hat hgood hst hflap, if_neg (by simp [hhit]), if_pos (by simp [hidle])]
    · refine rakeVisit_writes hspecial ?_
      rw [rakeVisit_ages hmode hen hat hgood hst hflap, if_neg (by simp [hhit]), if_neg (by simp [hidle]), if_pos rfl]
  · intro next fails goes
    exact ⟨fun v m st hspecial => rakeVisit_flushes hok hrun rfl hspecial, fun hspecial => rakeVisit_recounts hrun rfl hspecial⟩
  · exact ⟨fun hroom hdest hstatic hplace => fwdAdd_stages hfree hmode hroom hdest hstatic hplace,
      fun hroom hfind => fwdDel_stages hfree hmode hroom hfind,
      fun st hst hw hf hfind hplace => commit_adds hfree hmode hw hf hst hfind hplace,
      fun hst hw hf hfind => commit_deletes hfree hmode hw hf hst hfind⟩
  · exact ⟨fun hfind hat => fwdInfo_gives hfree hmode hdma hfind hat, fun hfind => fwdInfo_absent hfree hmode hfind⟩

end Sys2Proof.Machine

/-! PROOFS. The key IDs of the buffer memory and the orders on them. -/

namespace Sys2Proof.Machine

/-! ### The states of the key IDs -/

theorem Chip.kidState_congr {c d : Chip} (h : d.buf.states = c.buf.states) (j : Nat) : d.kidState j = c.kidState j := by
  rw [Chip.kidState, Chip.kidState, h]

theorem Chip.kidState_set {c d : Chip} {i v : Nat} (h : d.buf.states = SMap.set (fun _ => 0) c.buf.states i v) (j : Nat) :
    d.kidState j = if j = i then v else c.kidState j := by
  rw [Chip.kidState, h, SMap.get_set]
  rfl

/-! ### What the part does by itself -/

section
variable {s : State} {k : Fin 32}

theorem keyIdsLoad_completes (hready : s.chip.getB F.ENT_STAT_ready [] = true) (hnone : s.chip.getB F.MEM_STAT_no_keys [] = true)
    (hask : ∀ r ∈ s.chip.ent.waiting, r.use ≠ .memKeysAll) :
    completes .keyIdsLoad s fun d => d = { s.chip with
      ent := { s.chip.ent with
        waiting := s.chip.ent.waiting ++ [{ cls := 2, need := 128, use := .memKeysAll }] } } := by
  have hasked : (s.chip.ent.waiting.any fun r => decide (r.use = .memKeysAll)) = false := by
    simpa [List.any_eq_false] using hask
  refine completes_eq (f := Chip.keyIdsLoad) rfl ?_ rfl rfl
  simp only [Chip.keyIdsLoad, Chip.noKeys, hready, hnone, hasked, Bool.not_false, Bool.and_self, if_true]
  rfl

theorem kidFlushed_released (hstate : s.chip.kidState k.val = 2) (hheld : s.chip.kidHeld k.val = false) (hlogs : s.chip.logs) :
    completes (.kidFlushed k) s fun d =>
      (∀ j, d.kidState j = if j = k.val then 3 else s.chip.kidState j) ∧
      s.chip.logged d [⟨Ev.MEM_KID_FLUSHED, 0x500, [], false⟩] ∧ d.path = s.chip.path := by
  obtain ⟨b, hb⟩ : ∃ b, s.chip.buf.flushNodes k.val = b := ⟨_, rfl⟩
  have hd : s.chip.kidFlushed k.val = { s.chip with
      buf := { b with states := SMap.set (fun _ => 0) s.chip.buf.states k.val 3 }
      evr := { s.chip.evr with intake := s.chip.evr.intake ++ [⟨Ev.MEM_KID_FLUSHED, 0x500, [], false⟩] } } := by
    rw [Chip.kidFlushed, if_pos (by simp [hstate, hheld]), Chip.raise_logs (by exact hlogs) (by decide), ← hb]
    rfl
  exact completes_eq (f := fun c => c.kidFlushed k.val) rfl hd
    ⟨Chip.kidState_set rfl, rfl, rfl⟩ rfl

theorem kidFlushed_held (hheld : s.chip.kidHeld k.val = true) : completes (.kidFlushed k) s fun d => d = s.chip :=
  completes_eq (f := fun c => c.kidFlushed k.val) rfl (if_neg (by simp [hheld])) rfl rfl

end

/-! ### The orders on a key ID -/

theorem kidOrder_of {c : Chip} {kid : Word} {l : List Nat} {f : Nat → OrdFn} (hmode : c.inMode kidModes = true)
    (hkid : kid.toNat < 30) (hstate : c.kidState kid.toNat ∈ l) : kidOrder kid l f c = f kid.toNat c := by
  rw [kidOrder, inModes_of hmode]
  simp only [if_neg (show ¬ 32 ≤ kid.toNat by omega), if_neg (show ¬ 30 ≤ kid.toNat by omega)]
  exact if_neg (by simp [hstate])

section
variable {s : State} {kid : Word} (hfree : s.chip.orderFree) (hmode : s.chip.inMode kidModes = true) (hkid : kid.toNat < 30)
include hfree hmode hkid

theorem memKeyFlush_completes (hstate : s.chip.kidState kid.toNat = 1) (hframe : s.chip.getF F.MEM_FRAME_KID_kid [] ≠ kid.toNat)
    (hfun : ∀ f : Fin 66, s.chip.getF F.MEM_FUNC_KID_kid [f.val] ≠ kid.toNat) :
    completes (.memKeyFlush kid) s fun d =>
      (∀ j, d.kidState j = if j = kid.toNat then 2 else s.chip.kidState j) ∧
      d = { s.chip.ended {} with buf := { s.chip.buf with states := d.buf.states } } := by
  have hnamed : (decide (s.chip.getF F.MEM_FRAME_KID_kid [] = kid.toNat) ||
      (List.range 66).any fun f => decide (s.chip.getF F.MEM_FUNC_KID_kid [f] = kid.toNat)) = false := by
    simp only [hframe, decide_false, Bool.false_or, List.any_eq_false, List.mem_range, decide_eq_true_eq]
    exact fun f hf => hfun ⟨f, hf⟩
  exact completes_order (d := s.chip.modBuf fun b => { b with states := SMap.set (fun _ => 0) b.states kid.toNat 2 }) (r := {})
    rfl hfree ((kidOrder_of hmode hkid (by simp [hstate])).trans (if_neg (Bool.not_eq_true _ ▸ hnamed))) hfree.quiet rfl
    ⟨Chip.kidState_set rfl, rfl⟩

theorem memKeyFlush_named (hstate : s.chip.kidState kid.toNat = 1) (hframe : s.chip.getF F.MEM_FRAME_KID_kid [] = kid.toNat) :
    completes (.memKeyFlush kid) s fun d => d = s.chip.ended { status := 0x7A } :=
  completes_order rfl hfree
    ((kidOrder_of hmode hkid (by simp [hstate])).trans (if_pos (by simp [hframe]))) hfree.quiet rfl rfl

theorem memKeyLoad_waits (hstate : s.chip.kidState kid.toNat = 4) (hent : s.chip.entFailed = false) :
    completes (.memKeyLoad kid) s fun d => d = s.chip.awaits 2 4 (.memKey kid.toNat) :=
  completes_waiting (d := s.chip.awaits 2 4 (.memKey kid.toNat)) rfl hfree
    ((kidOrder_of hmode hkid (by simp [hstate])).trans (if_neg (by simp [hent]))) rfl rfl

theorem memKeyLoad_failed (hstate : s.chip.kidState kid.toNat = 4) (hent : s.chip.entFailed = true) :
    completes (.memKeyLoad kid) s fun d => d = s.chip.ended { status := 0x49 } :=
  completes_order rfl hfree ((kidOrder_of hmode hkid (by simp [hstate])).trans (if_pos hent)) hfree.quiet rfl rfl

end
/-! ### Retirement of a key ID -/

theorem Chip.mem_frameList {c : Chip} (hwf : SMap.wf (fun _ => none) c.path.frames = true) {n : Nat} {f : Frame} :
    (n, f) ∈ c.frameList ↔ c.frame n = some f := by
  simp only [Chip.frameList, List.mem_filterMap, Option.map_eq_some_iff, Prod.mk.injEq]
  constructor
  · rintro ⟨p, hp, y, hy, rfl, rfl⟩
    exact (SMap.get_of_mem hwf hp).trans hy
  · intro hat
    have hn : n ∈ c.path.frames.map (·.1) := by
      by_contra hnone
      exact absurd ((SMap.get_of_no_key hnone).symm.trans hat) (by simp)
    obtain ⟨p, hp, rfl⟩ := List.mem_map.1 hn
    exact ⟨p, hp, f, (SMap.get_of_mem hwf hp).symm.trans hat, rfl, rfl⟩

/-- Every frame of a list is released. -/
abbrev Chip.released (c : Chip) (l : List (Nat × Frame)) : Chip := c.each l fun c x => c.setFrame x.1 (some x.2.release)

theorem Chip.released_frames (c : Chip) (l : List (Nat × Frame)) :
    c.released l = { c with path := { c.path with frames := (c.released l).path.frames } } :=
  Chip.each_induct (P := fun d => d = { c with path := { c.path with frames := d.path.frames } }) l rfl
    fun d x hd => by rw [hd]; rfl

theorem Chip.frame_released (c : Chip) {n : Nat} {f : Frame} (l : List (Nat × Frame)) (hl : ∀ g, (n, g) ∈ l → g = f) :
    (c.released l).frame n = if n ∈ l.map (·.1) then some f.release else c.frame n := by
  induction l generalizing c with
  | nil => rfl
  | cons x l ih =>
    rw [Chip.released, Chip.each_cons, ← Chip.released, ih _ fun g hg => hl g (List.mem_cons_of_mem _ hg), Chip.frame_setFrame,
      List.map_cons]
    by_cases hx : n = x.1
    · have hf : x.2 = f := hl x.2 (hx ▸ List.mem_cons_self)
      simp [← hx, hf]
    · simp only [List.mem_cons, hx, false_or, if_false]

theorem Chip.frame_releasedOf {c : Chip} (hwf : SMap.wf (fun _ => none) c.path.frames = true) (kid : Nat) {d : Chip}
    {n : Nat} {f : Frame} (hd : d.path.frames = c.path.frames) (hf : c.frame n = some f) :
    (d.released (c.frameList.filter fun x => x.2.kid = some kid)).frame n =
      some (if f.kid = some kid then f.release else f) := by
  have hdf : d.frame n = some f := by rw [Chip.frame, hd]; exact hf
  have hof : ∀ g, (n, g) ∈ c.frameList.filter (fun x => x.2.kid = some kid) → g = f := fun g hg =>
    Option.some.inj (((Chip.mem_frameList hwf).1 (List.mem_of_mem_filter hg)).symm.trans hf)
  rw [Chip.frame_released _ _ hof, hdf]
  by_cases hk : f.kid = some kid
  · rw [if_pos hk, if_pos]
    exact List.mem_map.2 ⟨(n, f), List.mem_filter.2 ⟨(Chip.mem_frameList hwf).2 hf, by simpa using hk⟩, rfl⟩
  · rw [if_neg hk, if_neg]
    intro hn
    obtain ⟨⟨m, g⟩, hg, rfl⟩ := List.mem_map.1 hn
    have hgf : g = f := hof g hg
    subst hgf
    exact hk (by simpa using (List.mem_filter.1 hg).2)

section
variable {s : State} {kid : Word}

/-- A request of a retired key ID ends with status 0xF. -/
abbrev LaReq.retired (r : LaReq) (kid : Nat) : LaReq :=
  if r.staged kid then { r with status := some 0xF, waitsRandom := false, lines := [] } else r

theorem SMap.get_mapped {α : Type} {g : α → α} {m : SMap (Option α)} {n : Nat} :
    SMap.get (fun _ => none) (m.map fun e => (e.1, e.2.map g)) n = (SMap.get (fun _ => none) m n).map g := by
  induction m with
  | nil => rfl
  | cons p m ih =>
    rw [List.map_cons, SMap.get_cons, SMap.get_cons, ih]
    split <;> rfl

theorem memKeyRetire_completes (hfree : s.chip.orderFree) (hmode : s.chip.inMode kidModes = true) (hkid : kid.toNat < 30)
    (hstate : s.chip.kidState kid.toNat = 2 ∨ s.chip.kidState kid.toNat = 3) :
    completes (.memKeyRetire kid) s fun d =>
      (∀ j, d.kidState j = if j = kid.toNat then 4 else s.chip.kidState j) ∧
      SMap.get (fun _ => none) d.buf.keys kid.toNat = none ∧ d.ord.res = {} ∧
      (SMap.wf (fun _ => none) s.chip.path.frames = true → ∀ n f, s.chip.frame n = some f →
        d.frame n = some (if f.kid = some kid.toNat then f.release else f)) ∧
      ∀ n r, s.chip.laReq n = some r → d.laReq n = some (r.retired kid.toNat) := by
  generalize hx : s.chip.setKid kid.toNat 4 none = x
  have hxframes : x.path.frames = s.chip.path.frames := by rw [← hx]; rfl
  generalize hy : x.released (s.chip.frameList.filter fun e => e.2.kid = some kid.toNat) = y
  have hyx : y = { x with path := { x.path with frames := y.path.frames } } := hy ▸ Chip.released_frames x _
  have hf : memKeyRetire kid s.chip =
      (y.modPath fun p => { p with la := p.la.map fun e => (e.1, e.2.map fun r => r.retired kid.toNat) }, some {}) := by
    rw [← hy, ← hx]
    exact (kidOrder_of hmode hkid (by simpa using hstate))
  refine completes_order rfl hfree hf ?_ ?_ ⟨?_, ?_, rfl, ?_, ?_⟩
  · rw [hyx, ← hx]
    exact hfree.quiet
  · rw [hyx, ← hx]
    rfl
  · exact Chip.kidState_set (by rw [hyx, ← hx]; rfl)
  · rw [hyx, ← hx]
    exact SMap.get_set_same (d := fun _ => none) (m := s.chip.buf.keys) (v := none)
  · intro hwf n f hat
    have h := Chip.frame_releasedOf hwf kid.toNat hxframes hat
    rw [hy] at h
    exact h
  · intro n r hat
    have hla : y.path.la = s.chip.path.la := by rw [hyx, ← hx]; rfl
    refine SMap.get_mapped.trans ?_
    rw [hla]
    exact congrArg (Option.map _) hat

end
/-! ### MEM_KSTAT and aborted accesses -/

/-- The 3-bit states of the first key IDs, one after another. -/
abbrev packed (g : Nat → Nat) (m : Nat) : Nat := (List.range m).foldl (fun n i => n + g i * 2 ^ (3 * i)) 0

theorem packed_succ (g : Nat → Nat) (m : Nat) : packed g (m + 1) = packed g m + g m * 2 ^ (3 * m) := by
  rw [packed, List.range_succ, List.foldl_append]
  rfl

theorem packed_lt {g : Nat → Nat} (hg : ∀ j, g j < 8) (m : Nat) : packed g m < 2 ^ (3 * m) := by
  induction m with
  | zero => exact Nat.one_pos
  | succ m ih =>
    have hle : g m * 2 ^ (3 * m) ≤ 7 * 2 ^ (3 * m) := Nat.mul_le_mul_right _ (by have := hg m; omega)
    rw [packed_succ, Nat.mul_succ, Nat.pow_add]
    omega

theorem packed_div {g : Nat → Nat} (hg : ∀ j, g j < 8) {j m : Nat} (hj : j < m) : packed g m / 2 ^ (3 * j) % 8 = g j := by
  induction m with
  | zero => omega
  | succ m ih =>
    rw [packed_succ]
    rcases Nat.lt_succ_iff_lt_or_eq.1 hj with hlt | rfl
    · have hsplit : g m * 2 ^ (3 * m) = (g m * 2 ^ (3 * (m - j - 1)) * 8) * 2 ^ (3 * j) := by
        rw [Nat.mul_assoc, Nat.mul_assoc, show 8 * 2 ^ (3 * j) = 2 ^ (3 + 3 * j) by rw [Nat.pow_add], ← Nat.pow_add]
        congr 2
        omega
      rw [hsplit, Nat.add_mul_div_right _ _ (Nat.two_pow_pos _), Nat.add_mul_mod_self_right, ih hlt]
    · rw [Nat.add_mul_div_right _ _ (Nat.two_pow_pos _), Nat.div_eq_of_lt (packed_lt hg j), Nat.zero_add, Nat.mod_eq_of_lt (hg j)]

section
variable {s : State}

theorem memKstat_completes (hfree : s.chip.orderFree)
    (hmode : s.chip.inMode [.erased, .sealed, .provision, .active, .standby, .drain, .rest, .maintenance, .lockdown] = true)
    (hst : ∀ j, s.chip.kidState j < 8) :
    completes .memKstat s fun d =>
      ∃ v, d = s.chip.ended { ret := some v } ∧ ∀ j : Fin 32, bits v (3 * j.val + 2) (3 * j.val) = s.chip.kidState j.val := by
  refine completes_order (d := s.chip) (r := { ret := some (packed s.chip.kidState 32) }) rfl hfree
    (inModes_of (l := .erased :: infoModes) hmode _) hfree.quiet rfl ⟨_, rfl, fun j => ?_⟩
  rw [bits, show 3 * j.val + 2 + 1 - 3 * j.val = 3 by omega]
  exact packed_div hst j.isLt

theorem bufferAccessViolation_completes (addr : BitVec 48) (read : Bool) (hlogs : s.chip.logs) :
    completes (.bufferAccessViolation ⟨addr, read⟩) s fun d =>
      d.getF F.MEM_VIOL_ADDR_LO_addr [] + d.getF F.MEM_VIOL_ADDR_HI_addr [] * 2 ^ 32 = addr.toNat ∧
      s.chip.bumped d F.MEM_VIOL_CNT_count [] ∧ d.getF F.MEM_STAT_viol [] = 1 ∧
      d.out = s.chip.out ++ (if read then [.value 0] else []) ∧
      s.chip.logged d [⟨Ev.MEM_ACCESS_VIOL, 0x500, [], false⟩] ∧ d.buf = s.chip.buf := by
  let x := { s.chip with out := s.chip.out ++ (if read then [Output.value 0] else []) }
  let y := (x.setF F.MEM_VIOL_ADDR_LO_addr [] (addr.toNat % 2 ^ 32)).setF F.MEM_VIOL_ADDR_HI_addr [] (addr.toNat / 2 ^ 32)
  let z := (y.bump F.MEM_VIOL_CNT_count []).setF F.MEM_STAT_viol [] 1
  have hx : (s.chip.when read fun c => c.emit (.value 0)) = x := by
    cases read
    · simp [x, Chip.when_false]
    · rfl
  have hd : s.chip.bufferViolation addr.toNat read = z.raise Ev.MEM_ACCESS_VIOL 0x500 := by
    simp only [Chip.bufferViolation, hx, z, y]
  have hw := Chip.raise_logs (c := z) (code := Ev.MEM_ACCESS_VIOL) (src := 0x500) (items := []) hlogs (by decide)
  generalize z.raise Ev.MEM_ACCESS_VIOL 0x500 = d at hd hw
  have hget : ∀ f, d.getF f [] = z.getF f [] := fun f => Chip.getF_congr (by rw [hw]) f []
  refine completes_eq (f := fun c => c.bufferViolation addr.toNat read) rfl hd
    ⟨?_, ?_, ?_, by rw [hw]; rfl, by rw [hw]; rfl, by rw [hw]; rfl⟩ (by rw [hw]; rfl)
  · have hlo : z.getF F.MEM_VIOL_ADDR_LO_addr [] = addr.toNat % 2 ^ 32 := by
      simp only [z, y]
      rw [Chip.getF_setF_other _ _ (by decide) (by decide), Chip.bump, Chip.getF_setF_other _ _ (by decide) (by decide),
        Chip.getF_setF_other _ _ (by decide) (by decide), Chip.getF_setF_same _ _ _ _ (by decide)]
      exact Nat.mod_mod_of_dvd _ (dvd_refl _)
    have hhi : z.getF F.MEM_VIOL_ADDR_HI_addr [] = addr.toNat / 2 ^ 32 := by
      simp only [z, y]
      rw [Chip.getF_setF_other _ _ (by decide) (by decide), Chip.bump, Chip.getF_setF_other _ _ (by decide) (by decide),
        Chip.getF_setF_same _ _ _ _ (by decide)]
      exact Nat.mod_eq_of_lt (Nat.div_lt_of_lt_mul addr.isLt)
    rw [hget, hlo, hget, hhi]
    omega
  · have hcnt : y.getF F.MEM_VIOL_CNT_count [] = s.chip.getF F.MEM_VIOL_CNT_count [] := by
      simp only [y]
      rw [Chip.getF_setF_other _ _ (by decide) (by decide), Chip.getF_setF_other _ _ (by decide) (by decide)]
      exact Chip.getF_congr rfl _ _
    have hbump := y.bumped_bump F.MEM_VIOL_CNT_count [] (by decide)
    rw [Chip.bumped, hcnt] at hbump
    rw [Chip.bumped, hget, Chip.getF_setF_other _ _ (by decide) (by decide)]
    exact hbump
  · exact (hget _).trans (Chip.getF_setF_same _ _ _ _ (by decide))

end
end Sys2Proof.Machine

/-! PROOFS. Sealed lines and their counters: what is sealed opens, and a minor overflow keeps what the lines held. -/

namespace Sys2Proof.Machine

/-! ### Encryption of a line -/

/-- The keystream of a line under its key and version. -/
abbrev lineKeystream (key : BitVec 256) (line major minor : Nat) : Bytes :=
  (List.range 4).flatMap fun i => beBytes 16 (Config.aesBlock true key (counterBlock line major minor i)).toNat

theorem length_lineKeystream (key : BitVec 256) (line major minor : Nat) : (lineKeystream key line major minor).length = 64 := by
  simp [lineKeystream, List.range_succ, beBytes]

theorem length_lineXor (key : BitVec 256) (line major minor : Nat) (d : Bytes) :
    (lineXor key line major minor d).length = min d.length 64 := by
  rw [lineXor, List.length_zipWith, length_lineKeystream]

theorem zipWith_xor_twice (d k : Bytes) (h : d.length ≤ k.length) :
    List.zipWith (· ^^^ ·) (List.zipWith (· ^^^ ·) d k) k = d := by
  induction d generalizing k with
  | nil => rfl
  | cons x d ih =>
    cases k with
    | nil => simp at h
    | cons y k =>
      simp only [List.length_cons, Nat.add_le_add_iff_right] at h
      simp only [List.zipWith_cons_cons, ih k h, BitVec.xor_assoc, BitVec.xor_self, BitVec.xor_zero]

theorem lineXor_twice (key : BitVec 256) (line major minor : Nat) {d : Bytes} (h : d.length ≤ 64) :
    lineXor key line major minor (lineXor key line major minor d) = d :=
  zipWith_xor_twice d _ (h.trans (length_lineKeystream ..).ge)

theorem tagWord_eq (line : Nat) : tagWord line = line := Nat.div_add_mod' line 8

/-! ### Sealing and opening -/

section
variable {b : Buffer} {kid line : Nat} {keys : KidKeys}

theorem Buffer.sealLine_of (hk : SMap.get (fun _ => none) b.keys kid = some keys) (d : Bytes) :
    b.sealLine kid line d = { b with
      lines := SMap.set (fun _ => none) b.lines line
        (some { cipher := lineXor keys.enc line (b.version line).1 (b.version line).2 d, kid := kid })
      tags := SMap.set (fun _ => 0) b.tags line (lineTag keys kid line (b.version line).1 (b.version line).2
        (lineXor keys.enc line (b.version line).1 (b.version line).2 d)) } := by
  simp only [Buffer.sealLine, hk, tagWord_eq]

theorem Buffer.openLine_sealed (hk : SMap.get (fun _ => none) b.keys kid = some keys) {d : Bytes} (hd : d.length ≤ 64) :
    (b.sealLine kid line d).openLine kid line (b.version line).1 (b.version line).2 = some d := by
  rw [Buffer.sealLine_of hk]
  simp only [Buffer.openLine, hk, SMap.get_set_same, tagWord_eq, lineXor_twice _ _ _ _ hd]
  simp

/-- A line that opens has keys, and gives at most its 64 bytes. -/
theorem Buffer.openLine_some {major minor : Nat} {d : Bytes} (h : b.openLine kid line major minor = some d) :
    (∃ keys, SMap.get (fun _ => none) b.keys kid = some keys) ∧ d.length ≤ 64 := by
  unfold Buffer.openLine at h
  split at h
  · next k _ hk =>
    split at h
    · simp at h
    · rw [← Option.some.inj h, length_lineXor]
      exact ⟨⟨k, hk⟩, Nat.min_le_right _ _⟩
  · simp at h

theorem Buffer.openLine_congr {x y : Buffer} {major minor : Nat} (hkeys : x.keys = y.keys)
    (hlines : SMap.get (fun _ => none) x.lines line = SMap.get (fun _ => none) y.lines line)
    (htags : SMap.get (fun _ => 0) x.tags line = SMap.get (fun _ => 0) y.tags line) :
    x.openLine kid line major minor = y.openLine kid line major minor := by
  simp only [Buffer.openLine, hkeys, hlines, tagWord_eq, htags]

end

/-! ### Lines sealed again, one after another -/

/-- A line is sealed under the version in force, where it held something. -/
abbrev Buffer.reseal (b : Buffer) (e : Nat × Option (Nat × Bytes)) : Buffer :=
  match e.2 with
  | some (kid, d) => b.sealLine kid e.1 d
  | none => b

/-- Two buffers with the same keys and the same counters. -/
structure Buffer.sameTree (b d : Buffer) : Prop where
  keys : d.keys = b.keys
  cache : d.cache = b.cache
  nodes : d.nodes = b.nodes

theorem Buffer.sameTree.trans {a b d : Buffer} (h : a.sameTree b) (h' : b.sameTree d) : a.sameTree d :=
  ⟨h'.keys.trans h.keys, h'.cache.trans h.cache, h'.nodes.trans h.nodes⟩

theorem Buffer.sameTree.counters {b d : Buffer} (h : b.sameTree d) (m : Nat) : d.counters m = b.counters m := by
  simp only [Buffer.counters, Buffer.held, h.cache, h.nodes]

theorem Buffer.sameTree.version {b d : Buffer} (h : b.sameTree d) (line : Nat) : d.version line = b.version line := by
  simp only [Buffer.version, Buffer.ctr, h.counters]

theorem Buffer.sealLine_sameTree (b : Buffer) (kid line : Nat) (d : Bytes) : b.sameTree (b.sealLine kid line d) := by
  unfold Buffer.sealLine
  split <;> exact ⟨rfl, rfl, rfl⟩

theorem Buffer.reseal_sameTree (b : Buffer) (e : Nat × Option (Nat × Bytes)) : b.sameTree (b.reseal e) := by
  obtain ⟨line, none | ⟨kid, d⟩⟩ := e
  · exact ⟨rfl, rfl, rfl⟩
  · exact b.sealLine_sameTree kid line d

theorem Buffer.openLine_resealOther (b : Buffer) {e : Nat × Option (Nat × Bytes)} {kid line major minor : Nat} (h : e.1 ≠ line) :
    (b.reseal e).openLine kid line major minor = b.openLine kid line major minor := by
  obtain ⟨other, none | ⟨kid', d⟩⟩ := e
  · rfl
  · show (b.sealLine kid' other d).openLine kid line major minor = _
    rcases hk : SMap.get (fun _ => none) b.keys kid' with _ | keys
    · simp only [Buffer.sealLine, hk]
    · rw [Buffer.sealLine_of hk]
      have hline : line ≠ other := fun hl => h hl.symm
      exact Buffer.openLine_congr rfl (by rw [SMap.get_set_other hline]) (by rw [SMap.get_set_other hline])

theorem Buffer.resealed_sameTree (b : Buffer) (l : List (Nat × Option (Nat × Bytes))) : b.sameTree (l.foldl Buffer.reseal b) := by
  induction l generalizing b with
  | nil => exact ⟨rfl, rfl, rfl⟩
  | cons e l ih => exact (b.reseal_sameTree e).trans (ih _)

theorem Buffer.openLine_resealedOther (b : Buffer) {l : List (Nat × Option (Nat × Bytes))} {kid line major minor : Nat}
    (h : line ∉ l.map (·.1)) :
    (l.foldl Buffer.reseal b).openLine kid line major minor = b.openLine kid line major minor := by
  induction l generalizing b with
  | nil => rfl
  | cons e l ih =>
    rw [List.map_cons, List.mem_cons, not_or] at h
    exact (ih _ h.2).trans (b.openLine_resealOther fun hl => h.1 hl.symm)

/-- Lines of different numbers are each open after the sequence to what was sealed in them. -/
theorem Buffer.openLine_resealed (b : Buffer) {l : List (Nat × Option (Nat × Bytes))} (hdist : (l.map (·.1)).Nodup)
    {kid line : Nat} {d : Bytes} (hmem : (line, some (kid, d)) ∈ l) {keys : KidKeys}
    (hk : SMap.get (fun _ => none) b.keys kid = some keys) (hd : d.length ≤ 64) :
    (l.foldl Buffer.reseal b).openLine kid line (b.version line).1 (b.version line).2 = some d := by
  induction l generalizing b with
  | nil => simp at hmem
  | cons e l ih =>
    rw [List.map_cons, List.nodup_cons] at hdist
    have htree := b.reseal_sameTree e
    rcases List.mem_cons.1 hmem with rfl | hmem
    · exact (Buffer.openLine_resealedOther _ hdist.1).trans (Buffer.openLine_sealed hk hd)
    · rw [List.foldl_cons, ← htree.version line]
      exact ih _ hdist.2 hmem (by rw [htree.keys, hk])

/-! ### The minor overflow -/

theorem Chip.each_reseal {f : Chip → Nat × Option (Nat × Bytes) → Chip} (hf : ∀ c e, f c e = c.modBuf fun b => b.reseal e)
    (c : Chip) (l : List (Nat × Option (Nat × Bytes))) : c.each l f = c.modBuf fun b => l.foldl Buffer.reseal b := by
  induction l generalizing c with
  | nil => rfl
  | cons e l ih => rw [Chip.each_cons, hf, ih]; rfl

theorem Buffer.counters_put (b : Buffer) (k : Nat) (ctr : SMap Nat) (m : Nat) :
    (b.put k ctr).counters m = if m = k then ctr else b.counters m := by
  by_cases hm : m = k
  · subst hm
    simp [Buffer.counters, Buffer.held, Buffer.put]
  · have hfind : (b.put k ctr).cache.find? (fun x => decide (x.key = m)) = b.cache.find? fun x => decide (x.key = m) := by
      rw [Buffer.put, List.find?_cons_of_neg (by simpa using fun h => hm h.symm), List.find?_filter]
      congr 1
      funext x
      by_cases hx : x.key = m
      · simp [hx, hm]
      · simp [hx]
    simp only [Buffer.counters, Buffer.held, hfind, if_neg hm]
    rfl

/-- A leaf's lines with what they hold, as the overflow reads them. -/
abbrev Buffer.leafLines (b : Buffer) (leaf : Nat) : List (Nat × Option (Nat × Bytes)) :=
  (List.range 64).map fun j =>
    let line := leaf * 64 + j
    let v := b.version line
    (line, (SMap.get (fun _ => none) b.lines line).bind fun x => (b.openLine x.kid line v.1 v.2).map fun d => (x.kid, d))

theorem Chip.minorOverflow_eq (c : Chip) (leaf : Nat) :
    c.minorOverflow leaf = (c.modBuf fun b => (b.leafLines leaf).foldl Buffer.reseal
      (b.put (nodeKey 0 leaf) (SMap.set (fun _ => 0) [] 64 (b.ctr (nodeKey 0 leaf) 64 + 1)))).bump F.MEM_OVF_CNT_count [] := by
  simp only [Chip.minorOverflow]
  rw [Chip.each_reseal]
  · congr 1
    simp only [Chip.modBuf]
    congr 3
    funext j
    cases hx : SMap.get (fun _ => none) c.buf.lines (leaf * 64 + j) <;> simp only [hx, Option.bind_none, Option.bind_some]
  · rintro d ⟨line, none | ⟨kid, data⟩⟩ <;> rfl

theorem Chip.minorOverflow_spec (c : Chip) (leaf : Nat) :
    (c.minorOverflow leaf).buf.ctr (nodeKey 0 leaf) 64 = c.buf.ctr (nodeKey 0 leaf) 64 + 1 ∧
    (∀ j : Fin 64, (c.minorOverflow leaf).buf.ctr (nodeKey 0 leaf) j.val = 0) ∧
    (∀ m, m ≠ nodeKey 0 leaf → (c.minorOverflow leaf).buf.counters m = c.buf.counters m) ∧
    c.bumped (c.minorOverflow leaf) F.MEM_OVF_CNT_count [] ∧ (c.minorOverflow leaf).evr = c.evr ∧
    ∀ (j : Fin 64), ∀ x, SMap.get (fun _ => none) c.buf.lines (leaf * 64 + j.val) = some x → ∀ data,
      c.buf.openLine x.kid (leaf * 64 + j.val) (c.buf.version (leaf * 64 + j.val)).1 (c.buf.version (leaf * 64 + j.val)).2 =
        some data →
      (c.minorOverflow leaf).buf.openLine x.kid (leaf * 64 + j.val) ((c.minorOverflow leaf).buf.version (leaf * 64 + j.val)).1
        ((c.minorOverflow leaf).buf.version (leaf * 64 + j.val)).2 = some data := by
  let b := c.buf.put (nodeKey 0 leaf) (SMap.set (fun _ => 0) [] 64 (c.buf.ctr (nodeKey 0 leaf) 64 + 1))
  have htree := b.resealed_sameTree (c.buf.leafLines leaf)
  generalize hd : (c.buf.leafLines leaf).foldl Buffer.reseal b = d at htree
  have hbuf : (c.minorOverflow leaf).buf = d := by rw [Chip.minorOverflow_eq, ← hd]; rfl
  have hcounters : ∀ m, d.counters m = if m = nodeKey 0 leaf then SMap.set (fun _ => 0) [] 64 (c.buf.ctr (nodeKey 0 leaf) 64 + 1)
      else c.buf.counters m := fun m => (htree.counters m).trans (Buffer.counters_put ..)
  rw [hbuf]
  refine ⟨?_, fun j => ?_, fun m hm => ?_, ?_, by rw [Chip.minorOverflow_eq]; rfl, fun j x hx data hopen => ?_⟩
  · rw [Buffer.ctr, hcounters, if_pos rfl, SMap.get_set_same]
  · rw [Buffer.ctr, hcounters, if_pos rfl, SMap.get_set_other (by have := j.isLt; omega)]
    rfl
  · rw [hcounters, if_neg hm]
  · rw [Chip.minorOverflow_eq]
    exact Chip.bumped_bump (c.modBuf fun _ => _) _ _ (by decide)
  · obtain ⟨⟨keys, hkeys⟩, hlen⟩ := Buffer.openLine_some hopen
    rw [htree.version, ← hd]
    refine Buffer.openLine_resealed b ?_ ?_ hkeys hlen
    · rw [List.map_map]
      exact List.Nodup.map (fun i j h => Nat.add_left_cancel h) List.nodup_range
    · exact List.mem_map.2 ⟨j.val, List.mem_range.2 j.isLt, by simp only [hx, Option.bind_some, hopen, Option.map_some]⟩

/-- A leaf that the cache holds is touched without a change but of its place in the cache. -/
theorem Chip.leafTouch_cached (c : Chip) {leaf : Nat} {x : CacheNode} (hbad : c.buf.badOver leaf = none)
    (hhit : c.buf.cache.find? (fun y => decide (y.key = nodeKey 0 leaf)) = some x) :
    c.leafTouch leaf = c.modBuf fun b => { b with cache := x :: b.cache.filter (·.key ≠ nodeKey 0 leaf) } := by
  have htake : c.leafTake leaf = c := by simp only [Chip.leafTake, hbad]
  have hfetch : Buffer.fetch 5 leaf c.buf = (none, { c.buf with cache := x :: c.buf.cache.filter (·.key ≠ nodeKey 0 leaf) }) := by
    simp only [Buffer.fetch, Nat.reduceAdd, Nat.reduceLeDiff, if_false, Nat.sub_self, hhit]
  simp only [Chip.leafTouch, htake, hfetch]
  rfl

theorem Buffer.counters_first {b : Buffer} {k : Nat} {x : CacheNode} (hhit : b.cache.find? (fun y => decide (y.key = k)) = some x)
    (m : Nat) : ({ b with cache := x :: b.cache.filter (·.key ≠ k) } : Buffer).counters m = b.counters m := by
  have hkey : x.key = k := by simpa using List.find?_some hhit
  have hput := b.counters_put k x.ctr m
  have hheld : b.counters k = x.ctr := by simp only [Buffer.counters, Buffer.held, hhit]
  have hsame : ({ b with cache := x :: b.cache.filter (·.key ≠ k) } : Buffer).counters m = (b.put k x.ctr).counters m := by
    by_cases hm : k = m
    · subst hm; simp [Buffer.counters, Buffer.held, Buffer.put, hkey]
    · simp [Buffer.counters, Buffer.held, Buffer.put, hkey, hm]
  rw [hsame, hput]
  split
  · next hm => rw [hm, hheld]
  · rfl

section
variable {s : State} {leaf : Fin 7208960}

theorem Chip.leafFull_iff (c : Chip) (n : Nat) : c.leafFull n = true ↔ ∃ j : Fin 64, c.buf.ctr (nodeKey 0 n) j.val = 127 := by
  simp only [Chip.leafFull, List.any_eq_true, List.mem_range, decide_eq_true_eq]
  exact ⟨fun ⟨j, hj, h⟩ => ⟨⟨j, hj⟩, h⟩, fun ⟨j, h⟩ => ⟨j.val, j.isLt, h⟩⟩

theorem minorOverflow_notFull (h : ¬ s.chip.leafFull leaf.val) : completes (.minorOverflow leaf) s fun d => d = s.chip :=
  completes_eq (d := s.chip) rfl ((congrArg (fun b => s.chip.when b _) (Bool.eq_false_iff.2 h)).trans rfl) rfl rfl

theorem minorOverflow_verified {post : Chip → Prop} (h : s.chip.leafFull leaf.val = true)
    (hpost : post ((s.chip.leafTouch leaf.val).when ((s.chip.leafTouch leaf.val).leafFull leaf.val) fun c =>
      c.minorOverflow leaf.val)) : completes (.minorOverflow leaf) s post := by
  have htouch := (Chip.onlyBuffer.refl s.chip).leafTouch leaf.val
  have hall := Chip.when_induct (P := s.chip.onlyBuffer) ((s.chip.leafTouch leaf.val).leafFull leaf.val)
    (f := fun c => c.minorOverflow leaf.val) htouch fun hd => hd.minorOverflow _
  generalize hd : (s.chip.leafTouch leaf.val).when _ _ = d at hpost hall
  refine completes_eq (d := d) rfl ?_ hpost (by rw [hall.1])
  rw [h, Chip.when_true, hd]

end

/-- Settles O48: each order and event of the key IDs by its own case; what is sealed opens because the keystream cancels
itself, and the lines of an overflowed leaf have different numbers, so none is sealed over another. -/
theorem bufferKeyIds : Obligations.BufferKeyIds := by
  unfold Obligations.BufferKeyIds
  intro s kid k leaf addr
  refine ⟨keyIdsLoad_completes, kidFlushed_released, fun _ => kidFlushed_held, ?_, memKstat_completes, ?_, ⟨?_, ?_, ?_, ?_⟩, ?_⟩
  · intro hfree hmode hkid
    exact ⟨memKeyFlush_completes hfree hmode hkid, memKeyFlush_named hfree hmode hkid,
      memKeyRetire_completes hfree hmode hkid, memKeyLoad_waits hfree hmode hkid, memKeyLoad_failed hfree hmode hkid⟩
  · exact fun i line keys data hkeys hlen => Buffer.openLine_sealed hkeys hlen.le
  · exact fun hfull => minorOverflow_notFull (mt (Chip.leafFull_iff _ _).1 hfull)
  · intro hfull hafter
    refine minorOverflow_verified ((Chip.leafFull_iff _ _).2 hfull) ?_
    rw [Bool.eq_false_iff.2 (mt (Chip.leafFull_iff _ _).1 hafter), Chip.when_false]
  · intro hfull hafter
    refine minorOverflow_verified ((Chip.leafFull_iff _ _).2 hfull) ?_
    rw [(Chip.leafFull_iff _ _).2 hafter, Chip.when_true]
    exact Chip.minorOverflow_spec _ _
  · intro x hbad hhit
    rw [Chip.leafTouch_cached _ hbad hhit]
    exact ⟨fun m => Buffer.counters_first hhit m, rfl, rfl⟩
  · exact fun read => bufferAccessViolation_completes addr read

end Sys2Proof.Machine

/-! PROOFS. The image that a failed word of key sequencer engine 0 is repaired from (R335, R340): its own target's, not the
order engine's. -/
namespace Sys2Proof.Machine

/-- A block in ACTIVE whose key sequencer engine 0 runs the image of slot 0, target 4, while a copy of another image lies in the
HBM for the order engine, target 8, which has none active. -/
def sequencerRun : State := {
  chip := {
    ctl := { mode := .active }, evr := { started := true }, buf := { states := [(30, 1)] }
    eng := { ctx := [(1024, { running := true })], targets := [(8, { copy := some {} })] } } }

/-- The failed word leaves target 8 without an active image. -/
theorem programEccRepair_sequencerRun :
    completes (.programEccRepair ⟨.ksq 0, .fetch⟩) sequencerRun fun d => (d.target 8).active = none := by
  rw [completes_iff rfl]
  decide +kernel

/-- Refutes O49: its clause for a failed word of a key sequencer restores the active image of target 8, which is the order
engine's; engine 0 runs a key program of the targets 4 to 7 (Table 13.3), and in `sequencerRun` target 8 stays as it was. -/
theorem not_imagesAndProgramErrors : ¬ Obligations.ImagesAndProgramErrors := by
  unfold Obligations.ImagesAndProgramErrors
  intro h
  obtain ⟨-, -, -, hksq, -⟩ := h sequencerRun 0 0 0 [] {}
  obtain ⟨hfetch, -⟩ := hksq 0 (by decide +kernel)
  obtain ⟨d, ⟨-, -, -, -, -, hrepair⟩, hnone⟩ := completes_unique
    (hfetch (by decide +kernel) (by decide +kernel) (by decide +kernel) (by decide +kernel) (by decide +kernel))
    programEccRepair_sequencerRun
  have hcopy : (d.target 8).active = some {} := hrepair (by decide +kernel) (by decide +kernel) (by decide +kernel)
  rw [hnone] at hcopy
  exact absurd hcopy (by decide)

end Sys2Proof.Machine

/-! PROOFS. Transient and permanent faults, and the handlers of the classes (R437 to R440, R446). -/
namespace Sys2Proof.Machine

/-! ### The channels and the classes -/

theorem Chip.faultChan_set (c : Chip) (cls ch : Nat) (x : FaultChan) (k n : Nat) :
    (c.setFaultChan cls ch x).faultChan k n = if k * 65536 + n = cls * 65536 + ch then x else c.faultChan k n :=
  SMap.get_set (d := fun _ => ({} : FaultChan)) (m := c.flt.chans) (k := cls * 65536 + ch) (v := x)

theorem Chip.faultChan_set_same (c : Chip) (cls ch : Nat) (x : FaultChan) : (c.setFaultChan cls ch x).faultChan cls ch = x := by
  rw [Chip.faultChan_set, if_pos rfl]

theorem Chip.faultClass_set_same (c : Chip) (cls : Nat) (x : FaultClass) : (c.setFaultClass cls x).faultClass cls = x :=
  SMap.get_set_same (d := fun _ => ({} : FaultClass)) (m := c.flt.classes) (v := x)

theorem Chip.faultChan_congr {c d : Chip} (h : d.flt = c.flt) (k n : Nat) : d.faultChan k n = c.faultChan k n := by
  rw [Chip.faultChan, h, Chip.faultChan]

theorem Chip.faultClass_congr {c d : Chip} (h : d.flt = c.flt) (k : Nat) : d.faultClass k = c.faultClass k := by
  rw [Chip.faultClass, h, Chip.faultClass]

/-! ### The first error of a channel -/

section
variable {c : Chip} {cls ch code : Nat}

theorem Chip.firstTransient_faultChan :
    (c.firstTransient cls ch code).faultChan cls ch = { c.faultChan cls ch with times := [c.now / 1000000] } :=
  Chip.faultChan_set_same ..

theorem Chip.firstTransient_ctl : (c.firstTransient cls ch code).ctl = c.ctl := (c.saidTransient_reports cls ch code).ctl_eq

theorem Chip.firstTransient_bumped (hcls : cls < 10) : c.bumped (c.firstTransient cls ch code) F.FLT_CLASS_CNT_count [cls] := by
  have hsaid : (c.bump F.FLT_CLASS_CNT_count [cls]).loses (c.saidTransient cls ch code) := by
    simp only [Chip.saidTransient]
    exact ite_cases (P := Chip.loses _) ((Chip.loses.refl _).raise (by decide) _ _) ((Chip.loses.refl _).raise (by decide) _ _)
  have h : (c.firstTransient cls ch code).getF F.FLT_CLASS_CNT_count [cls] =
      (c.bump F.FLT_CLASS_CNT_count [cls]).getF F.FLT_CLASS_CNT_count [cls] :=
    hsaid.getF (by simp only [lossKey, Fld.key, F.FLT_CLASS_CNT_count, dotStrides]; omega)
  rw [Chip.bumped, h]
  exact c.bumped_bump _ _ (by decide)

variable (hch : (classChannels cls).contains ch = true) (htimes : (c.faultChan cls ch).times = [])
  (hlive : (c.faultChan cls ch).retired = false) (hrate : 1 ≤ c.getF F.FLT_CFG_perm_rate [])
include hch htimes hlive hrate

/-- A first error within the rate is handled at once where its class recovers from nothing. -/
theorem Chip.transient_handled (hcls : cls < 4) (hidle : (c.faultClass cls).current = none) :
    c.transient cls ch code false =
      (c.firstTransient cls ch code).setFaultClass cls { c.faultClass cls with current := some ch } := by
  rw [Chip.transient, Chip.transientJudge_first hch htimes hlive]
  simp only [if_neg (Nat.not_lt.2 hrate), show cls ≠ 5 by omega, show cls ≠ 9 by omega, decide_false, Bool.or_self,
    Bool.false_eq_true, if_false, Chip.firstTransient_faultClass, hidle, reduceCtorEq, Bool.and_false, Option.isNone_none, if_true]

/-- It waits behind the error of another channel, while fewer than 4 wait. -/
theorem Chip.transient_waits (hcls : cls < 4) {h : Nat} (hbusy : (c.faultClass cls).current = some h) (hother : 2 ≤ cls ∨ h ≠ ch)
    (hroom : (c.faultClass cls).waiting.length < 4) :
    c.transient cls ch code false = (c.firstTransient cls ch code).setFaultClass cls
      { c.faultClass cls with waiting := (c.faultClass cls).waiting ++ [ch] } := by
  have hsame : (decide (cls < 2) && decide (h = ch)) = false := by
    rcases hother with h2 | h2
    · simp [Nat.not_lt.2 h2]
    · simp [h2]
  rw [Chip.transient, Chip.transientJudge_first hch htimes hlive]
  simp only [if_neg (Nat.not_lt.2 hrate), show cls ≠ 5 by omega, show cls ≠ 9 by omega, decide_false, Bool.or_self,
    Bool.false_eq_true, if_false, Chip.firstTransient_faultClass, hbusy, Option.some.injEq, hsame,
    Option.isNone_some, hroom, if_true]

/-- An error of the lane in recovery escalates to its retirement. -/
theorem Chip.transient_escalates (hcls : cls = 1) (hbusy : (c.faultClass cls).current = some ch) :
    c.transient cls ch code false = ((((c.firstTransient cls ch code).setF F.FLT_STAT_escalated [] 1).setF
      F.FLT_CLASS_STAT_escalated [cls] 1).raise Ev.FLT_ESCALATE 0x04F).permanent cls ch 2 2 := by
  have hstill : ((((c.firstTransient cls ch code).setF F.FLT_STAT_escalated [] 1).setF
      F.FLT_CLASS_STAT_escalated [cls] 1).raise Ev.FLT_ESCALATE 0x04F).flt = (c.firstTransient cls ch code).flt := Chip.raise_flt ..
  rw [Chip.transient, Chip.transientJudge_first hch htimes hlive]
  simp only [if_neg (Nat.not_lt.2 hrate), show cls ≠ 5 by omega, show cls ≠ 9 by omega, show cls < 2 by omega, decide_false,
    decide_true, Bool.or_self, Bool.false_eq_true, if_false, Chip.firstTransient_faultClass, hbusy, Bool.false_or, Bool.and_self,
    if_true, Chip.escalate, Chip.faultClass_congr hstill, Chip.faultChan_congr hstill, Chip.firstTransient_faultChan, hlive, Prod.map]
  rfl

end

/-! ### The retirement of a lane -/

/-- What the retirement of a lane leaves and makes of the block. -/
structure Chip.laneRetired (c d : Chip) (ch : Nat) : Prop where
  chans : ∀ k n, d.faultChan k n = if k * 65536 + n = 1 * 65536 + ch then { c.faultChan 1 ch with retired := true } else c.faultChan k n
  classes : d.flt.classes = c.flt.classes
  ctl : d.ctl = c.ctl
  vlt : d.vlt = c.vlt
  perm : d.getF F.FLT_STAT_perm [] = 1
  resp : d.getF F.FLT_LAST_resp [] = 2
  source : d.getF F.FLT_LAST_source [] = 0x41
  others : ∀ {f : Fld} {i : List Nat}, ¬ lossKey (f.key i) → f.key i ≠ F.FLT_STAT_perm.key [] → f.key i ≠ F.FLT_LAST_resp.key [] →
    f.key i ≠ F.FLT_LAST_source.key [] → d.getF f i = c.getF f i

theorem Chip.permanent_lane {c : Chip} {ch : Nat} (case' : Nat) (hlive : (c.faultChan 1 ch).retired = false)
    (hz : c.ctl.zeroizing = none) : c.laneRetired (c.permanent 1 ch case' 2) ch := by
  rw [Chip.permanent_retire case' hlive hz]
  generalize hy : (((c.setF F.FLT_STAT_perm [] 1).setFaultChan 1 ch { c.faultChan 1 ch with retired := true }).setF
    F.FLT_LAST_resp [] 2).setF F.FLT_LAST_source [] (0x040 + 1) = y
  have hraise := (Chip.loses.refl y).raise (code := Ev.FLT_PERMANENT) (by decide) (0x040 + 1)
    [(4, 1), (4, ch), (4, case'), (4, 2), (4, 2)]
  have hflt : (y.raise Ev.FLT_PERMANENT (0x040 + 1) [(4, 1), (4, ch), (4, case'), (4, 2), (4, 2)]).flt = y.flt := Chip.raise_flt ..
  have hctl : (y.raise Ev.FLT_PERMANENT (0x040 + 1) [(4, 1), (4, ch), (4, case'), (4, 2), (4, 2)]).ctl = y.ctl := Chip.raise_ctl ..
  have hvlt : (y.raise Ev.FLT_PERMANENT (0x040 + 1) [(4, 1), (4, ch), (4, case'), (4, 2), (4, 2)]).vlt = y.vlt := Chip.raise_vlt ..
  generalize y.raise Ev.FLT_PERMANENT (0x040 + 1) [(4, 1), (4, ch), (4, case'), (4, 2), (4, 2)] = d at hraise hflt hctl hvlt
  have hget : ∀ {f : Fld} {i : List Nat}, ¬ lossKey (f.key i) → (d.retireEffect 1 ch).getF f i = y.getF f i := fun hf => hraise.getF hf
  have hperm : ∀ {f : Fld} {i : List Nat}, ((c.setF F.FLT_STAT_perm [] 1).setFaultChan 1 ch
      { c.faultChan 1 ch with retired := true }).getF f i = (c.setF F.FLT_STAT_perm [] 1).getF f i := Chip.getF_congr rfl _ _
  refine ⟨fun k n => ?_, ?_, ?_, ?_, ?_, ?_, ?_, fun hf h1 h2 h3 => ?_⟩
  · exact (Chip.faultChan_congr hflt k n).trans (by rw [← hy]; exact Chip.faultChan_set (c.setF F.FLT_STAT_perm [] 1) 1 ch _ k n)
  · exact (congrArg (·.classes) hflt).trans (by subst hy; rfl)
  · exact hctl.trans (by subst hy; rfl)
  · exact hvlt.trans (by subst hy; rfl)
  · rw [hget (by decide), ← hy, Chip.getF_setF_other _ _ (by decide) (by decide), Chip.getF_setF_other _ _ (by decide) (by decide), hperm]
    exact Chip.getF_setF_same c _ _ _ (by decide)
  · rw [hget (by decide), ← hy, Chip.getF_setF_other _ _ (by decide) (by decide), Chip.getF_setF_same _ _ _ _ (by decide)]
    rfl
  · rw [hget (by decide), ← hy, Chip.getF_setF_same _ _ _ _ (by decide)]
    rfl
  · rw [hget hf, ← hy, Chip.getF_setF_other _ _ (by decide) h3, Chip.getF_setF_other _ _ (by decide) h2, hperm]
    exact Chip.getF_setF_other c _ (by decide) h1

/-! ### The reports of errors -/

section
variable {s : State} {cls : Fin 10} {ch : BitVec 16} {code : Word} {detail : DWord}

theorem faultReport_transient {post : Chip → Prop} (hcls : cls.val < 4)
    (hown : (s.chip.transient cls.val ch.toNat code.toNat false).vlt = s.chip.vlt)
    (hpost : post (s.chip.transient cls.val ch.toNat code.toNat false)) : completes (.faultReport cls ch code detail false) s post := by
  have h4 : (decide (cls.val = 4) && decide (ch.toNat < 64) && !(s.chip.faultChan 4 ch.toNat).retired) = false := by
    simp [show ¬ cls.val = 4 by omega]
  have hgo : (decide (cls.val ≠ 4) || decide (code ≠ 2)) = true := by simp [show cls.val ≠ 4 by omega]
  generalize hd : s.chip.transient cls.val ch.toNat code.toNat false = d at hown hpost
  refine completes_eq rfl ?_ hpost (by rw [hown])
  simp only [h4, Chip.when_false, hgo, Chip.when_true, hd]

variable (hcls : cls.val < 4) (hch : (classChannels cls.val).contains ch.toNat = true)
  (htimes : (s.chip.faultChan cls.val ch.toNat).times = []) (hlive : (s.chip.faultChan cls.val ch.toNat).retired = false)
include hcls hch htimes hlive

theorem faultReport_handled (hrate : 1 ≤ s.chip.getF F.FLT_CFG_perm_rate []) (hidle : (s.chip.faultClass cls.val).current = none) :
    completes (.faultReport cls ch code detail false) s fun d =>
      d.faultClass cls.val = { s.chip.faultClass cls.val with current := some ch.toNat } ∧
      d.faultChan cls.val ch.toNat = { s.chip.faultChan cls.val ch.toNat with times := [s.chip.now / 1000000] } ∧
      s.chip.bumped d F.FLT_CLASS_CNT_count [cls.val] ∧ d.ctl = s.chip.ctl := by
  have heq := Chip.transient_handled (code := code.toNat) hch htimes hlive hrate hcls hidle
  refine faultReport_transient hcls ?_ ?_ <;> rw [heq]
  · exact (Chip.firstTransient_same ..).2.1
  · exact ⟨Chip.faultClass_set_same .., Chip.firstTransient_faultChan, Chip.firstTransient_bumped cls.isLt, Chip.firstTransient_ctl⟩

theorem faultReport_waits (hrate : 1 ≤ s.chip.getF F.FLT_CFG_perm_rate []) {h : Nat}
    (hbusy : (s.chip.faultClass cls.val).current = some h) (hother : 2 ≤ cls.val ∨ h ≠ ch.toNat)
    (hroom : (s.chip.faultClass cls.val).waiting.length < 4) :
    completes (.faultReport cls ch code detail false) s fun d =>
      d.faultClass cls.val = { s.chip.faultClass cls.val with waiting := (s.chip.faultClass cls.val).waiting ++ [ch.toNat] } ∧
      s.chip.bumped d F.FLT_CLASS_CNT_count [cls.val] ∧ d.ctl = s.chip.ctl := by
  have heq := Chip.transient_waits (code := code.toNat) hch htimes hlive hrate hcls hbusy hother hroom
  refine faultReport_transient hcls ?_ ?_ <;> rw [heq]
  · exact (Chip.firstTransient_same ..).2.1
  · exact ⟨Chip.faultClass_set_same .., Chip.firstTransient_bumped cls.isLt, Chip.firstTransient_ctl⟩

theorem faultReport_escalates (hrate : 1 ≤ s.chip.getF F.FLT_CFG_perm_rate []) (hlane : cls.val = 1)
    (hbusy : (s.chip.faultClass cls.val).current = some ch.toNat) (hz : s.chip.ctl.zeroizing = none) :
    completes (.faultReport cls ch code detail false) s fun d =>
      (d.faultChan cls.val ch.toNat).retired = true ∧ d.getF F.FLT_STAT_escalated [] = 1 ∧
      d.getF F.FLT_CLASS_STAT_escalated [cls.val] = 1 ∧ d.getF F.FLT_STAT_perm [] = 1 ∧ d.ctl = s.chip.ctl := by
  have heq := Chip.transient_escalates (code := code.toNat) hch htimes hlive hrate hlane hbusy
  rw [hlane] at hlive heq
  generalize hy : ((s.chip.firstTransient 1 ch.toNat code.toNat).setF F.FLT_STAT_escalated [] 1).setF
    F.FLT_CLASS_STAT_escalated [1] 1 = y at heq
  have hlog := (Chip.loses.refl y).raise (code := Ev.FLT_ESCALATE) (by decide) 0x04F []
  have hyflt : y.flt = (s.chip.firstTransient 1 ch.toNat code.toNat).flt := by subst hy; rfl
  have hsame : ((y.raise Ev.FLT_ESCALATE 0x04F).flt = y.flt ∧ (y.raise Ev.FLT_ESCALATE 0x04F).ctl = y.ctl ∧
      (y.raise Ev.FLT_ESCALATE 0x04F).vlt = y.vlt) := ⟨Chip.raise_flt .., Chip.raise_ctl .., Chip.raise_vlt ..⟩
  generalize y.raise Ev.FLT_ESCALATE 0x04F = z at heq hlog hsame
  obtain ⟨hflt, hctl, hvlt⟩ := hsame
  have hctl' : z.ctl = s.chip.ctl := hctl.trans (by subst hy; exact Chip.firstTransient_ctl)
  have hvlt' : z.vlt = s.chip.vlt := hvlt.trans (by subst hy; exact (Chip.firstTransient_same ..).2.1)
  have hstill : (z.faultChan 1 ch.toNat).retired = false := by
    rw [Chip.faultChan_congr (hflt.trans hyflt), Chip.firstTransient_faultChan]
    exact hlive
  have hret := Chip.permanent_lane 2 hstill (hctl' ▸ hz)
  refine faultReport_transient hcls ?_ ?_ <;> rw [hlane, heq]
  · exact hret.vlt.trans hvlt'
  · refine ⟨by rw [hret.chans, if_pos rfl], ?_, ?_, hret.perm, hret.ctl.trans hctl'⟩
    · rw [hret.others (by decide) (by decide) (by decide) (by decide), hlog.getF (by decide), ← hy,
        Chip.getF_setF_other _ _ (by decide) (by decide), Chip.getF_setF_same _ _ _ _ (by decide)]
      rfl
    · rw [hret.others (by decide) (by decide) (by decide) (by decide), hlog.getF (by decide), ← hy,
        Chip.getF_setF_same _ _ _ _ (by decide)]
      rfl

theorem faultReport_permanent (hrate : s.chip.getF F.FLT_CFG_perm_rate [] = 0) (hlane : cls.val = 1)
    (hz : s.chip.ctl.zeroizing = none) :
    completes (.faultReport cls ch code detail false) s fun d =>
      (d.faultChan cls.val ch.toNat).retired = true ∧ d.getF F.FLT_STAT_perm [] = 1 ∧ d.getF F.FLT_LAST_resp [] = 2 ∧
      d.getF F.FLT_LAST_source [] = 0x41 ∧ d.ctl = s.chip.ctl := by
  have heq : s.chip.transient cls.val ch.toNat code.toNat false =
      (s.chip.firstTransient cls.val ch.toNat code.toNat).permanent cls.val ch.toNat 1 (classResponse cls.val) := by
    rw [Chip.transient, Chip.transientJudge_first hch htimes hlive]
    simp only [hrate, Nat.zero_lt_one, if_true]
  rw [hlane] at hlive heq
  rw [show classResponse 1 = 2 from rfl] at heq
  have hret := Chip.permanent_lane (c := s.chip.firstTransient 1 ch.toNat code.toNat) (ch := ch.toNat) 1
    (by rw [Chip.firstTransient_faultChan]; exact hlive) (by rw [Chip.firstTransient_ctl]; exact hz)
  refine faultReport_transient hcls ?_ ?_ <;> rw [hlane, heq]
  · exact hret.vlt.trans (Chip.firstTransient_same ..).2.1
  · exact ⟨by rw [hret.chans, if_pos rfl], hret.perm, hret.resp, hret.source, hret.ctl.trans Chip.firstTransient_ctl⟩

end

/-! ### The handler of a class ends a recovery -/

/-- The class's handler takes the next live channel that waits. -/
abbrev Chip.takesNext (d : Chip) (cls : Nat) (waiting : List Nat) : Prop :=
  ∀ l, l = waiting.filter (fun h => !(d.faultChan cls h).retired) → d.faultClass cls = { current := l.head?, waiting := l.tail }

/-- The handler of a class turns to what waits. -/
abbrev Chip.nextRecovery (c : Chip) (cls : Nat) : Chip :=
  let live := (c.faultClass cls).waiting.filter fun h => !(c.faultChan cls h).retired
  c.setFaultClass cls { current := live.head?, waiting := live.tail }

theorem Chip.nextRecovery_takes {c d : Chip} {cls : Nat} (h : d.flt.classes = c.flt.classes) :
    (d.nextRecovery cls).takesNext cls (c.faultClass cls).waiting := by
  have hwait : (d.faultClass cls).waiting = (c.faultClass cls).waiting := by rw [Chip.faultClass, h, Chip.faultClass]
  rintro l rfl
  rw [Chip.faultClass_set_same, hwait]
  rfl

section
variable {s : State} {cls : Fin 10} {n : Nat} (hbusy : (s.chip.faultClass cls.val).current = some n)
include hbusy

theorem faultRecoveryDone_ends : completes (.faultRecoveryDone cls true) s fun d =>
    d.faultChan cls.val n = { s.chip.faultChan cls.val n with fails := 0 } ∧
    d.takesNext cls.val (s.chip.faultClass cls.val).waiting ∧ d.regs = s.chip.regs ∧ d.ctl = s.chip.ctl := by
  refine completes_eq (f := fun c => c.recoveryDone cls.val true)
    (d := (s.chip.setFaultChan cls.val n { s.chip.faultChan cls.val n with fails := 0 }).nextRecovery cls.val) rfl ?_
    ⟨Chip.faultChan_set_same .., Chip.nextRecovery_takes rfl, rfl, rfl⟩ rfl
  simp only [Chip.recoveryDone, hbusy, Bool.not_true, Bool.false_and, Bool.false_eq_true, if_false, if_true, Chip.when_false]

variable (hlive : (s.chip.faultChan cls.val n).retired = false)
include hlive

theorem faultRecoveryDone_again (hfails : (s.chip.faultChan cls.val n).fails < 2) :
    completes (.faultRecoveryDone cls false) s fun d =>
      d.faultChan cls.val n = { s.chip.faultChan cls.val n with fails := (s.chip.faultChan cls.val n).fails + 1 } ∧
      d.faultClass cls.val = s.chip.faultClass cls.val ∧ d.regs = s.chip.regs := by
  refine completes_eq (f := fun c => c.recoveryDone cls.val false)
    (d := s.chip.setFaultChan cls.val n { s.chip.faultChan cls.val n with fails := (s.chip.faultChan cls.val n).fails + 1 }) rfl ?_
    ⟨Chip.faultChan_set_same .., rfl, rfl⟩ rfl
  simp only [Chip.recoveryDone, hbusy, Bool.not_false, Bool.false_eq_true, if_false, hlive, Bool.and_true,
    show (s.chip.faultChan cls.val n).fails + 1 < 3 by omega, decide_true, if_true]

theorem faultRecoveryDone_retires (hfails : (s.chip.faultChan cls.val n).fails = 2) (hlane : cls.val = 1)
    (hz : s.chip.ctl.zeroizing = none) :
    completes (.faultRecoveryDone cls false) s fun d =>
      d.faultChan cls.val n = { s.chip.faultChan cls.val n with fails := 0, retired := true } ∧
      d.takesNext cls.val (s.chip.faultClass cls.val).waiting ∧ d.getF F.FLT_STAT_perm [] = 1 := by
  rw [hlane] at hbusy hlive hfails ⊢
  generalize hy : s.chip.setFaultChan 1 n { s.chip.faultChan 1 n with fails := 0 } = y
  have hyn : y.faultChan 1 n = { s.chip.faultChan 1 n with fails := 0 } := by subst hy; exact Chip.faultChan_set_same ..
  have hret := Chip.permanent_lane (c := y) (ch := n) 0 (by rw [hyn]; exact hlive) (by subst hy; exact hz)
  have hd : s.chip.recoveryDone cls.val false = (y.permanent 1 n 0 2).nextRecovery 1 := by
    rw [hlane, ← hy]
    simp only [Chip.recoveryDone, hbusy, Bool.not_false, Bool.true_and, Bool.false_eq_true, if_false, hlive, Bool.and_true,
      hfails, Nat.lt_irrefl, Nat.reduceAdd, decide_false, Chip.when_true]
    rfl
  generalize y.permanent 1 n 0 2 = p at hret hd
  refine completes_eq (f := fun c => c.recoveryDone cls.val false) rfl hd
    ⟨?_, Chip.nextRecovery_takes (hret.classes.trans (by subst hy; rfl)), hret.perm⟩ (congrArg (·.owners) (hret.vlt.trans (by subst hy; rfl)))
  refine (hret.chans 1 n).trans ?_
  rw [if_pos rfl, hyn]

end

/-! ### The fabric's integrity code -/

section
variable {s : State}

theorem fabricIicMismatch_completes (htimes : s.chip.flt.iicTimes = []) (hlim : 1 ≤ s.chip.getF F.FLT_CFG_iic_lim [])
    (hchan : (s.chip.faultChan 8 0).times = []) (hlive : (s.chip.faultChan 8 0).retired = false)
    (hrate : 1 ≤ s.chip.getF F.FLT_CFG_perm_rate []) (hidle : (s.chip.faultClass 8).current = none) (receiver : IicReceiver) :
    completes (.fabricIicMismatch ⟨false, receiver⟩) s fun d =>
      (d.faultClass 8).current = some 0 ∧ s.chip.bumped d F.FLT_CLASS_CNT_count [8] ∧ d.flt.iicTimes = [s.chip.nowUs] ∧
      d.flt.cause = s.chip.flt.cause ∧ d.ctl = s.chip.ctl := by
  generalize hy : s.chip.modFlt (fun f => { f with iicTimes := [s.chip.nowUs] }) = y
  have hychan : y.faultChan 8 0 = s.chip.faultChan 8 0 := by subst hy; rfl
  have hyrate : y.getF F.FLT_CFG_perm_rate [] = s.chip.getF F.FLT_CFG_perm_rate [] := by subst hy; rfl
  have hylim : y.getF F.FLT_CFG_iic_lim [] = s.chip.getF F.FLT_CFG_iic_lim [] := by subst hy; rfl
  have hyclass : y.faultClass 8 = s.chip.faultClass 8 := by subst hy; rfl
  have hjudge : y.transientJudge 8 0 0 false =
      (none, (y.firstTransient 8 0 0).setFaultClass 8 { y.faultClass 8 with current := some 0 }) := by
    rw [Chip.transientJudge_first (by decide) (by rw [hychan]; exact hchan) (by rw [hychan]; exact hlive)]
    simp only [hyrate, if_neg (Nat.not_lt.2 hrate), Chip.firstTransient_faultClass, hyclass, hidle]
    rfl
  have hd : s.chip.iicMismatch false = (y.firstTransient 8 0 0).setFaultClass 8 { y.faultClass 8 with current := some 0 } := by
    simp only [Chip.iicMismatch, htimes, List.filter_nil, List.nil_append, hy]
    rw [hjudge]
    simp only [List.length_singleton, hylim, if_neg (Nat.not_lt.2 hlim), Bool.false_eq_true, if_false, Option.or_none, Chip.alarms_nil]
  have hflt : (y.saidTransient 8 0 0).flt = y.flt := (y.saidTransient_reports 8 0 0).flt_eq
  refine completes_eq (d := (y.firstTransient 8 0 0).setFaultClass 8 { y.faultClass 8 with current := some 0 }) rfl ?_
    ⟨?_, ?_, ?_, ?_, ?_⟩ ?_
  · exact hd
  · rw [Chip.faultClass_set_same]
  · have h := Chip.firstTransient_bumped (c := y) (cls := 8) (ch := 0) (code := 0) (by decide)
    subst hy
    exact h
  · exact (congrArg (·.iicTimes) hflt).trans (by subst hy; rfl)
  · exact (congrArg (·.cause) hflt).trans (by subst hy; rfl)
  · exact Chip.firstTransient_ctl.trans (by subst hy; rfl)
  · exact (congrArg (·.owners) (Chip.firstTransient_same y 8 0 0).2.1).trans (by subst hy; rfl)

end

end Sys2Proof.Machine

/-! PROOFS. What a LOCKDOWN that an error of a table brings about leaves of the queues' entries (R438). -/
namespace Sys2Proof.Machine

/-! ### The relation -/

/-- The queue entries and the mark of the stopped associations are as they were. -/
structure Chip.steady (c d : Chip) : Prop where
  cfgs : d.slu.cfgs = c.slu.cfgs
  stopped : SMap.get regReset d.regs (F.SAX_STAT_stopped.key []) = SMap.get regReset c.regs (F.SAX_STAT_stopped.key [])

namespace Chip.steady

variable {a c d : Chip}

theorem refl (c : Chip) : c.steady c := ⟨rfl, rfl⟩

theorem trans (h : a.steady c) (g : c.steady d) : a.steady d := ⟨g.cfgs.trans h.cfgs, g.stopped.trans h.stopped⟩

/-- What touches neither queues nor registers. -/
theorem of_eq (hs : d.slu = c.slu) (hr : d.regs = c.regs) : c.steady d := ⟨by rw [hs], by rw [hr]⟩

section
variable (h : a.steady c)
include h

theorem same (hs : d.slu = c.slu) (hr : d.regs = c.regs) : a.steady d := h.trans (of_eq hs hr)

theorem setF {f : Fld} {i : List Nat} (v : Nat) (hf : f.key i ≠ F.SAX_STAT_stopped.key []) : a.steady (c.setF f i v) :=
  h.trans ⟨rfl, by rw [Chip.setF_regs, SMap.get_set_other (Ne.symm hf)]⟩

theorem bump {f : Fld} {i : List Nat} (hf : f.key i ≠ F.SAX_STAT_stopped.key []) : a.steady (c.bump f i) := h.setF _ hf

theorem modPath (f : Paths → Paths) : a.steady (c.modPath f) := h.trans ⟨rfl, rfl⟩
theorem modPan (f : Pans → Pans) : a.steady (c.modPan f) := h.trans ⟨rfl, rfl⟩
theorem modEng (f : Engines → Engines) : a.steady (c.modEng f) := h.trans ⟨rfl, rfl⟩
theorem modOrd (f : OrdEng → OrdEng) : a.steady (c.modOrd f) := h.trans ⟨rfl, rfl⟩
theorem modEnt (f : Entropy → Entropy) : a.steady (c.modEnt f) := h.trans ⟨rfl, rfl⟩
theorem modPrs (f : PairStack → PairStack) : a.steady (c.modPrs f) := h.trans ⟨rfl, rfl⟩
theorem modSrd (f : Lanes → Lanes) : a.steady (c.modSrd f) := h.trans ⟨rfl, rfl⟩
theorem modHif (f : HostIf → HostIf) : a.steady (c.modHif f) := h.trans ⟨rfl, rfl⟩
theorem modCtl (f : ModeCtl → ModeCtl) : a.steady (c.modCtl f) := h.trans ⟨rfl, rfl⟩
theorem modSu (f : StartUp → StartUp) : a.steady (c.modSu f) := h.trans ⟨rfl, rfl⟩
theorem modPnl (f : Panel → Panel) : a.steady (c.modPnl f) := h.trans ⟨rfl, rfl⟩
theorem setFrame (n : Nat) (f : Option Frame) : a.steady (c.setFrame n f) := h.trans ⟨rfl, rfl⟩
theorem setQueueSt (q : Nat) (v : QueueSt) : a.steady (c.setQueueSt q v) := h.trans ⟨rfl, rfl⟩
theorem draw : a.steady c.draw.2 := h.trans ⟨rfl, rfl⟩

theorem raise {code : Nat} (hcode : code < 0x3000) (src : Nat) (items : List (Nat × Nat)) : a.steady (c.raise code src items) := by
  have hsupp : c.steady (c.suppress code) := by
    have hstart : ∀ m, c.steady { c with evr := { c.evr with supp := m } } := fun _ => ⟨rfl, rfl⟩
    obtain ⟨y, hy⟩ : ∃ y, SMap.set (fun _ => 0) c.evr.supp code (min 0xFFFF (SMap.get (fun _ => 0) c.evr.supp code + 1)) = y :=
      ⟨_, rfl⟩
    simp only [Chip.suppress, hy]
    refine ((((hstart y).trans (setF (.refl _) _ ?_)).trans (setF (.refl _) _ ?_)).trans (setF (.refl _) _ ?_)) <;>
    simp only [Fld.key, F.EVR_CODE_CFG_supp_total, F.EVR_SUPP_CNT_count, F.EVR_STAT_supp, F.SAX_STAT_stopped, dotStrides] <;> omega
  refine h.trans ?_
  simp only [Chip.raise]
  exact ite_cases (ite_cases hsupp (of_eq rfl rfl)) (ite_cases (of_eq rfl rfl) (of_eq rfl rfl))

theorem reports (g : c.reports d) (hr : d.regs = c.regs) : a.steady d := h.same (by rw [g]) hr

theorem ringComplete (r : Nat) (entry : Bytes) : a.steady (c.ringComplete r entry) :=
  h.reports ((Chip.reports.refl c).ringComplete r entry) (Chip.ringComplete_regs c r entry)

theorem when {f : Chip → Chip} (hf : ∀ c, a.steady c → a.steady (f c)) (b : Bool) : a.steady (c.when b f) :=
  Chip.when_induct b h (hf c)

theorem each {α : Type} {f : Chip → α → Chip} (l : List α) (hf : ∀ c x, a.steady c → a.steady (f c x)) :
    a.steady (c.each l f) := Chip.each_induct l h fun d x hd => hf d x hd

theorem onFrame {f : Frame → Chip → Chip} (n : Nat) (hf : ∀ x d, a.steady d → a.steady (f x d)) : a.steady (c.onFrame n f) := by
  simp only [Chip.onFrame]
  split
  · exact hf _ _ h
  · exact h

/-! ### Frames and threads -/

theorem hostDone (p : Option Nat × DWord × Nat × Nat) (st : Nat) (ts : Option Clock) : a.steady (c.hostDone p st ts) := by
  simp only [Chip.hostDone]
  split
  · exact h.ringComplete _ _
  · exact h

theorem removeFrame (n : Nat) : a.steady (c.removeFrame n) := by
  simp only [Chip.removeFrame]
  refine Chip.steady.onFrame (h.onFrame n fun f d hd => ?_) n fun _ _ hd => hd.setFrame _ _
  split
  · exact hd
  · exact (hd.setQueueSt _ _).setFrame _ _

theorem dropOne (n reason : Nat) : a.steady (c.dropOne n reason) := by
  refine h.onFrame n fun f d hd => ?_
  obtain ⟨g, hg⟩ : ∃ g, (d.setFrame n (some { f with lost := some reason, kid := none, lines := [], die := [] })).removeFrame n = g :=
    ⟨_, rfl⟩
  have hgone : a.steady g := hg ▸ (hd.setFrame n _).removeFrame n
  refine ite_cases hd ?_
  simp only [hg]
  split
  · exact ite_cases hgone (hgone.reports ((Chip.reports.refl _).portCount _ _ _) (by rw [Chip.portCount, Chip.count_eq]))
  · split
    · exact hgone.hostDone _ _ _
    · exact hgone.draw.hostDone _ _ _

end

theorem dropOversize (h : a.steady c) (q n : Nat) : a.steady (c.dropOversize q n) := by
  induction n generalizing c with
  | zero => exact h
  | succ n ih =>
    simp only [Chip.dropOversize]
    split
    · exact ite_cases (ih (((h.dropOne _ _).setF 1 (by decide)).raise (by decide) _ _)) h
    · exact h

section
variable (h : a.steady c)
include h

theorem dropFrame (n reason : Nat) : a.steady (c.dropFrame n reason) := by
  simp only [Chip.dropFrame]
  split
  · exact (h.dropOne _ _).dropOversize _ _
  · exact h.dropOne _ _

theorem endThread (k : Nat) : a.steady (c.endThread k) := by
  simp only [Chip.endThread]
  exact h.modEng _

theorem freeThread (k reason : Nat) : a.steady (c.freeThread k reason) :=
  (h.endThread k).when (fun _ hd => hd.dropFrame _ _) _

theorem threadsMode : a.steady c.threadsMode := h.each _ fun _ _ hd => hd.freeThread _ _

theorem loseD2 : a.steady c.loseD2 := by
  refine Chip.each_induct_mem _ (h.each _ fun _ _ hd => hd.freeThread _ _) fun d q hq hd => ?_
  rw [List.mem_range] at hq
  refine ((hd.setF 0 ?_).setF 0 ?_).setF 0 ?_ <;>
  simp only [Fld.key, F.LAD_DBG_CTL_bp_en, F.LAD_DBG_CTL_halted, F.LAD_DBG_BP_addr, F.SAX_STAT_stopped, dotStrides] <;> omega

/-! ### Order blocks -/

theorem linkSend (port kind : Nat) (clear body : Bytes) : a.steady (c.linkSend port kind clear body) := by
  simp only [Chip.linkSend]
  split
  · exact h
  · exact ite_cases h (h.trans ⟨rfl, rfl⟩)

theorem blockDone (status detail index ret : Nat) : a.steady (c.blockDone status detail index ret) := by
  have hcounted := ((h.modOrd fun o => { o with staged := [], regWrites := [], stagedKsq := [], heldFill := false }).modOrd
    fun o => { o with
      busy := false, wait := .none, callReg := none, owait := none, ended := none, relay := false, heldFill := false,
      cmacOut := none, discardCompletion := false, res := { status := status, detail := detail, ret := some ret } }).setF
    (f := F.ORD_BLK_CNT_count) (i := []) (min (2 ^ 32 - 1) (c.getF F.ORD_BLK_CNT_count [] + 1)) (by decide)
  simp only [Chip.blockDone]
  split_ifs
  · exact hcounted.linkSend _ _ _ _
  · exact hcounted.modHif _
  · exact hcounted.ringComplete _ _

theorem nextRecord : a.steady c.nextRecord := ite_cases (h.blockDone _ _ _ _) (ite_cases h (h.blockDone _ _ _ _))

theorem recordDone (r : OrdRes) : a.steady (c.recordDone r) := ite_cases (h.blockDone _ _ _ _) (h.modOrd _).nextRecord

theorem callDone (k : Nat) (r : OrdRes) : a.steady (c.callDone k r) := by
  simp only [Chip.callDone]
  exact ite_cases (h.modOrd _) ((h.modOrd _).modEng _)

theorem finishOrder (r : OrdRes) : a.steady (c.finishOrder r) := by
  simp only [Chip.finishOrder]
  split
  · exact (h.modOrd _).callDone _ _
  · exact ite_cases ((h.modOrd _).recordDone _) ((h.modOrd _).modOrd _)

theorem dropPending : a.steady c.dropPending := by
  obtain ⟨y, hy⟩ : ∃ y, (c.modCtl fun k => { k with pendingMode := none }).bump F.MOD_REFUSE_CNT_count [] = y := ⟨_, rfl⟩
  have hcounted : a.steady y := hy ▸ (h.modCtl _).bump (by decide)
  have hsaid := (hcounted.raise (code := Ev.MODE_REFUSED) (by decide) 0x001 []).modOrd fun o => { o with ended := none }
  simp only [Chip.dropPending, hy]
  exact ite_cases h (ite_cases ((hsaid.modEng _).blockDone _ _ _ _) (hsaid.finishOrder _))

theorem randDrop (p : RandReq → Bool) : a.steady (c.randDrop p) := h.modEnt _

theorem hostRandMode : a.steady c.hostRandMode := by
  simp only [Chip.hostRandMode]
  exact ite_cases ((h.randDrop _).finishOrder _) h

/-! ### The entry of LOCKDOWN -/

theorem laMode : a.steady c.laMode := (h.modPath _).randDrop _

theorem lanesNormal : a.steady c.lanesNormal := by
  refine h.each _ fun d l hd => ?_
  refine ((((hd.setF 0 ?_).setF 0 ?_).setF 0 ?_).setF 0 ?_).setF 0 ?_ <;>
  simp only [Fld.key, F.SRD_LANE_CTL_tx_sleep, F.SRD_LANE_CTL_rx_sleep, F.SRD_LANE_CTL_lpbk, F.SRD_PRBS_CFG_gen,
    F.SRD_PRBS_CFG_chk, F.SAX_STAT_stopped, dotStrides] <;> omega

theorem setBrine (k : Nat) (b : Brine) (hk : k < 2) : a.steady (c.setBrine k b) := by
  simp only [Chip.setBrine]
  exact (h.modEnt _).setF _ (by simp only [Fld.key, F.ENT_SRC_STAT_consec, F.SAX_STAT_stopped, dotStrides]; omega)

theorem entResume : a.steady c.entResume := by
  simp only [Chip.entResume]
  exact ite_cases ((h.setBrine 0 _ (by decide)).setBrine 1 _ (by decide)) h

theorem lock (i v : Nat) : a.steady (c.setF F.SRD_LANE_STAT_lock [i] v) :=
  h.setF v (by simp only [Fld.key, F.SRD_LANE_STAT_lock, F.SAX_STAT_stopped, dotStrides]; omega)

theorem lanesResume : a.steady c.lanesResume := (h.modSrd _).each _ fun _ _ hd => hd.lock _ _

theorem dbgRejudge : a.steady c.dbgRejudge := by
  simp only [Chip.dbgRejudge]
  exact ite_cases h (((h.modCtl _).raise (by decide) _ _).when (fun _ hd => hd.loseD2) _)

theorem lockdown (cause : Nat) : a.steady (c.enterMode .lockdown cause) := by
  obtain ⟨y, hy⟩ : ∃ y, c.when (cause ≠ 0) Chip.dropPending = y := ⟨_, rfl⟩
  have hstart : a.steady y := hy ▸ h.when (fun _ hd => hd.dropPending) _
  simp only [Chip.enterMode, hy]
  refine Chip.steady.dbgRejudge ?_
  refine Chip.steady.when ?_ (fun _ hd => hd.modPan _) _
  refine Chip.steady.when ?_ (fun _ hd => hd.hostRandMode) _
  refine Chip.steady.when ?_ (fun _ hd => hd.laMode) _
  refine Chip.steady.when ?_ (fun _ hd => hd.threadsMode) _
  simp only [reduceCtorEq, decide_false, Chip.when_false]
  refine Chip.steady.when ?_ (fun _ hd => hd.entResume.lanesResume) _
  refine Chip.steady.when ?_ (fun _ hd => hd.lanesNormal) _
  refine Chip.steady.modPrs (Chip.steady.setF (Chip.steady.modPnl (Chip.steady.modSu (Chip.steady.raise ?_ (by decide) _ _) _) _) _
    (by decide)) _
  exact ((((hstart.modCtl _).setF _ (by decide)).setF _ (by decide)).setF _ (by decide)).setF _ (by decide)

end
end Chip.steady
end Sys2Proof.Machine

/-! PROOFS. Failed entries of the tables (R438). -/
namespace Sys2Proof.Machine

/-! ### What a permanent fault of the tables leaves -/

/-- The registers that a permanent fault and its LOCKDOWN write. -/
def faultKeys : List Nat :=
  [F.FLT_STAT_perm.key [], F.FLT_LAST_resp.key [], F.FLT_LAST_source.key []] ++ entryKeys

/-- The vault, the associations, the queue entries and every quiet register but those of the fault are as they were. -/
structure Chip.tablesKept (c d : Chip) : Prop where
  steady : c.steady d
  sax : d.sax = c.sax
  vlt : d.vlt = c.vlt
  quiet : Chip.quietBut faultKeys c d

namespace Chip.tablesKept

variable {a c d : Chip}

theorem refl (c : Chip) : c.tablesKept c := ⟨.refl c, rfl, rfl, Chip.quietBut_refl _ c⟩

theorem trans (h : a.tablesKept c) (g : c.tablesKept d) : a.tablesKept d :=
  ⟨h.steady.trans g.steady, g.sax.trans h.sax, g.vlt.trans h.vlt, h.quiet.trans g.quiet⟩

section
variable (h : a.tablesKept c)
include h

theorem setF {f : Fld} {i : List Nat} (v : Nat) (hf : f.key i ∈ faultKeys) (hs : f.key i ≠ F.SAX_STAT_stopped.key []) :
    a.tablesKept (c.setF f i v) := h.trans ⟨(Chip.steady.refl c).setF v hs, rfl, rfl, (Chip.quietBut_refl _ c).setF v hf⟩

theorem raise {code : Nat} (hcode : code < 0x3000) (src : Nat) (items : List (Nat × Nat)) :
    a.tablesKept (c.raise code src items) :=
  h.trans ⟨(Chip.steady.refl c).raise hcode src items, Chip.raise_sax .., Chip.raise_vlt ..,
    (Chip.quietBut_refl _ c).quiet (Chip.quietRegs_raise c hcode src items)⟩

theorem modCtl (f : ModeCtl → ModeCtl) : a.tablesKept (c.modCtl f) :=
  h.trans ⟨⟨rfl, rfl⟩, rfl, rfl, (Chip.quietBut_refl _ c).of_eq rfl⟩

theorem setFaultChan (cls ch : Nat) (x : FaultChan) : a.tablesKept (c.setFaultChan cls ch x) :=
  h.trans ⟨⟨rfl, rfl⟩, rfl, rfl, (Chip.quietBut_refl _ c).of_eq rfl⟩

theorem lockdown (cause : Nat) : a.tablesKept (c.enterMode .lockdown cause) := by
  have hentered := c.enterMode_spec .lockdown cause
  exact h.trans ⟨(Chip.steady.refl c).lockdown cause, hentered.core.sax, hentered.core.vlt,
    hentered.quiet.mono (List.subset_append_right _ _)⟩

theorem respond (source : Nat) : a.tablesKept (c.respond 3 source).2 := by
  obtain ⟨y, hy⟩ : ∃ y, (c.setF F.FLT_LAST_resp [] 3).setF F.FLT_LAST_source [] source = y := ⟨_, rfl⟩
  have hsaid : a.tablesKept y := hy ▸ (h.setF 3 (by decide) (by decide)).setF source (by decide) (by decide)
  obtain ⟨x, hx⟩ : ∃ x, y.enterMode .lockdown 4 = x := ⟨_, rfl⟩
  obtain ⟨z, hz⟩ : ∃ z, (c.modCtl fun k => { k with heldLockdown := some source }) = z := ⟨_, rfl⟩
  have hx' : a.tablesKept x := hx ▸ hsaid.lockdown 4
  have hz' : a.tablesKept z := hz ▸ h.modCtl _
  simp only [Chip.respond, if_neg (show ¬ 3 = 4 by decide), if_true, hy, hx, hz]
  split_ifs <;> assumption

theorem permanent (ch case' : Nat) : a.tablesKept (c.permanent 9 ch case' 3) := by
  simp only [Chip.permanent, Chip.permanentWith, Chip.alarms_nil, List.filter_nil, Chip.each_nil, List.map_nil, Chip.answerAll,
    List.foldl_cons, List.foldl_nil, if_neg (show ¬ 3 = 2 by decide)]
  refine ite_cases h (Chip.tablesKept.raise ?_ (by decide) _ _)
  exact (h.setF (f := F.FLT_STAT_perm) (i := []) 1 (by decide) (by decide)).respond _

end
end Chip.tablesKept

/-- An error of the tables is counted for class 9, and changes no table. -/
theorem Chip.transient_table (c : Chip) (code : Nat) :
    (c.bump F.FLT_CLASS_CNT_count [9]).tablesKept (c.transient 9 0 code false) := by
  have hsaid := (Chip.tablesKept.refl (c.bump F.FLT_CLASS_CNT_count [9])).raise (code := Ev.FLT_TRANSIENT) (by decide) (0x040 + 9)
    [(4, 9), (4, 0), (4, code)]
  generalize hy : c.bump F.FLT_CLASS_CNT_count [9] = y at hsaid ⊢
  generalize hz : y.raise Ev.FLT_TRANSIENT (0x040 + 9) [(4, 9), (4, 0), (4, code)] = z at hsaid
  have hrated : y.tablesKept (z.rateCount 9 0).2 := hsaid.setFaultChan _ _ _
  have hj : c.transientJudge 9 0 code false =
      if (y.faultChan 9 0).retired then (none, y)
      else if (z.rateCount 9 0).2.getF F.FLT_CFG_perm_rate [] < (z.rateCount 9 0).1 then (some (1, 3), (z.rateCount 9 0).2)
      else (none, (z.rateCount 9 0).2) := by
    subst hz hy
    rfl
  rw [Chip.transient, hj]
  split_ifs
  · exact .refl y
  · exact hrated.permanent _ _
  · exact hrated

/-! ### The entries -/

theorem Chip.queueCfg_congr {c d : Chip} (h : d.slu.cfgs = c.slu.cfgs) (q : Nat) : d.queueCfg q = c.queueCfg q := by
  simp only [Chip.queueCfg, h]

theorem Chip.queueCfg_disabled (c : Chip) (q : Nat) :
    (c.modSlu fun s => { s with cfgs := SMap.set (fun _ => none) s.cfgs q (some { c.queueCfg q with en := false }) }).queueCfg q =
      { c.queueCfg q with en := false } := by
  simp only [Chip.queueCfg, Chip.modSlu, SMap.get_set_same, Option.getD_some]
  split_ifs <;> rfl

/-- The error of a table is marked, said and counted. -/
abbrev Chip.tableError (c : Chip) (table index : Nat) : Chip :=
  ((c.setF F.FLT_STAT_tbl_ecc [] 1).raise Ev.TBL_ECC 0x04F [(4, table), (4, index)]).transient 9 0 table false

/-- What the error of a table makes of the registers, and what it leaves. -/
structure Chip.tableSaid (c d : Chip) : Prop where
  steady : c.steady d
  sax : d.sax = c.sax
  vlt : d.vlt = c.vlt
  mark : d.getF F.FLT_STAT_tbl_ecc [] = 1
  count : c.bumped d F.FLT_CLASS_CNT_count [9]

theorem Chip.tableError_said (c : Chip) (table index : Nat) : c.tableSaid (c.tableError table index) := by
  have hmark : c.steady (c.setF F.FLT_STAT_tbl_ecc [] 1) := (Chip.steady.refl c).setF 1 (by decide)
  have hsaid := (Chip.tablesKept.refl (c.setF F.FLT_STAT_tbl_ecc [] 1)).raise (code := Ev.TBL_ECC) (by decide) 0x04F
    [(4, table), (4, index)]
  have herror := Chip.transient_table ((c.setF F.FLT_STAT_tbl_ecc [] 1).raise Ev.TBL_ECC 0x04F [(4, table), (4, index)]) table
  rw [Chip.tableError]
  generalize (c.setF F.FLT_STAT_tbl_ecc [] 1).raise Ev.TBL_ECC 0x04F [(4, table), (4, index)] = y at hsaid herror ⊢
  generalize y.transient 9 0 table false = d at herror ⊢
  refine ⟨(hmark.trans hsaid.steady).trans (((Chip.steady.refl y).bump (by decide)).trans herror.steady),
    herror.sax.trans hsaid.sax, herror.vlt.trans hsaid.vlt, ?_, ?_⟩
  · rw [herror.quiet.getF (by decide) (by decide), Chip.bump, Chip.getF_setF_other _ _ (by decide) (by decide),
      hsaid.quiet.getF (by decide) (by decide), Chip.getF_setF_same _ _ _ _ (by decide)]
    rfl
  · have hy : y.getF F.FLT_CLASS_CNT_count [9] = c.getF F.FLT_CLASS_CNT_count [9] :=
      (hsaid.quiet.getF (by decide) (by decide)).trans (Chip.getF_setF_other _ _ (by decide) (by decide))
    have hbump := y.bumped_bump F.FLT_CLASS_CNT_count [9] (by decide)
    rw [Chip.bumped, hy] at hbump
    rw [Chip.bumped, herror.quiet.getF (by decide) (by decide)]
    exact hbump

section
variable {s : State} {t : Fin 4} {index : BitVec 16}

theorem Chip.queueEcc_keeps (c : Chip) (q : Nat) :
    (c.queueEcc q).queueCfg q = { c.queueCfg q with en := false } ∧ c.loses (c.queueEcc q) := by
  generalize hy : (c.modSlu fun s => { s with cfgs := SMap.set (fun _ => none) s.cfgs q (some { c.queueCfg q with en := false }) }) = y
  have hlost : y.loses (c.queueEcc q) := by
    subst hy
    exact (Chip.loses.refl _).each _ fun _ _ hd => hd.dropFrame _ _
  have hsteady : y.steady (c.queueEcc q) := by
    subst hy
    exact (Chip.steady.refl _).each _ fun _ _ hd => hd.dropFrame _ _
  refine ⟨(Chip.queueCfg_congr hsteady.cfgs q).trans (by subst hy; exact c.queueCfg_disabled q), ?_⟩
  exact Chip.loses.trans (by subst hy; exact (Chip.loses.refl c).modSlu _) hlost

theorem tableSramEcc_queue (htable : t.val = 2 ∨ t.val = 3)
    (hindex : index.toNat < 0x8000 ∨ (t.val = 2 ∧ isQueue index.toNat = true)) :
    completes (.tableSramEcc t index) s fun d =>
      d.queueCfg index.toNat = { s.chip.queueCfg index.toNat with en := false } ∧ d.getF F.FLT_STAT_tbl_ecc [] = 1 ∧
      s.chip.bumped d F.FLT_CLASS_CNT_count [9] := by
  obtain ⟨hcfg, hloses⟩ := s.chip.queueEcc_keeps index.toNat
  have hdo : (decide (t.val = 0) || decide (index.toNat < 0x8000) || (decide (t.val = 2) && isQueue index.toNat)) = true := by
    simpa [or_assoc] using Or.inr hindex
  have hecc : s.chip.tableEcc t.val index.toNat = (s.chip.queueEcc index.toNat).tableError t.val index.toNat := by
    rcases htable with h | h <;> rw [h] <;> rfl
  have hsaid := (s.chip.queueEcc index.toNat).tableError_said t.val index.toNat
  rw [← hecc] at hsaid
  generalize s.chip.queueEcc index.toNat = y at hcfg hloses hsaid
  have hcount : y.getF F.FLT_CLASS_CNT_count [9] = s.chip.getF F.FLT_CLASS_CNT_count [9] := hloses.getF (by decide)
  refine completes_eq rfl (if_pos hdo) ⟨(Chip.queueCfg_congr hsaid.steady.cfgs _).trans hcfg, hsaid.mark, ?_⟩ ?_
  · have hbumped := hsaid.count
    rwa [Chip.bumped, hcount] at hbumped
  · rw [hsaid.vlt, hloses.frame]

theorem tableSramEcc_sa (hstate : (s.chip.sa index.toNat).state = 1) (hdir : (s.chip.sa index.toNat).dir = false) :
    completes (.tableSramEcc 0 index) s fun d =>
      (d.sa index.toNat).stopped = true ∧ (∀ j, j ≠ index.toNat → d.sa j = s.chip.sa j) ∧ d.getF F.FLT_STAT_tbl_ecc [] = 1 ∧
      d.getF F.SAX_STAT_stopped [] = 1 := by
  generalize hx : ({ s.chip.sa index.toNat with stopped := true, nextPn := Config.freeNat s.chip.draw.1 % 2 ^ 64 } : Sa) = x
  generalize hy : (s.chip.draw.2.setSa index.toNat x).setF F.SAX_STAT_stopped [] 1 = y
  have hecc : s.chip.tableEcc 0 index.toNat = y.tableError 0 index.toNat := by
    subst hy hx
    have hsa : s.chip.saEcc index.toNat = (s.chip.draw.2.setSa index.toNat
        { s.chip.sa index.toNat with stopped := true, nextPn := Config.freeNat s.chip.draw.1 % 2 ^ 64 }).setF
        F.SAX_STAT_stopped [] 1 := by
      simp only [Chip.saEcc, hstate, hdir, ne_eq, not_true_eq_false, if_false, Bool.false_eq_true]
    simp only [Chip.tableEcc, hsa]
  have hsaid := y.tableError_said 0 index.toNat
  rw [← hecc] at hsaid
  have hsas : ∀ j, y.sa j = if j = index.toNat then x else s.chip.sa j := by
    intro j
    subst hy
    exact SMap.get_set (d := fun _ => ({} : Sa)) (m := s.chip.sax.sas) (v := x)
  have hstop : y.getF F.SAX_STAT_stopped [] = 1 := by
    subst hy
    rw [Chip.getF_setF_same _ _ _ _ (by decide)]
    rfl
  have hvlt : y.vlt = s.chip.vlt := by subst hy; rfl
  have hdo : (decide ((0 : Fin 4).val = 0) || decide (index.toNat < 0x8000) ||
      (decide ((0 : Fin 4).val = 2) && isQueue index.toNat)) = true := rfl
  generalize hd : s.chip.tableEcc 0 index.toNat = d at hsaid
  refine completes_eq rfl ((if_pos hdo).trans hd) ⟨?_, fun j hj => ?_, hsaid.mark, ?_⟩ ?_
  · rw [Chip.sa_congr hsaid.sax, hsas, if_pos rfl, ← hx]
  · rw [Chip.sa_congr hsaid.sax, hsas, if_neg hj]
  · rw [Chip.getF, hsaid.steady.stopped]
    exact hstop
  · rw [hsaid.vlt, hvlt]

end

/-- Settles O50: the reports of errors, the handler's recoveries and the fabric's mismatches by their own cases; the error of a
table may bring LOCKDOWN with it, which leaves the table as the failed entry made it. -/
theorem faultHandling : Obligations.FaultHandling := by
  unfold Obligations.FaultHandling
  intro s cls ch code detail index
  refine ⟨?_, ?_, fun t => tableSramEcc_queue, tableSramEcc_sa, fabricIicMismatch_completes⟩
  · intro hcls hch htimes hlive
    exact ⟨fun hrate => ⟨faultReport_handled hcls hch htimes hlive hrate,
        fun h hbusy hother hroom => faultReport_waits hcls hch htimes hlive hrate hbusy hother hroom,
        faultReport_escalates hcls hch htimes hlive hrate⟩,
      faultReport_permanent hcls hch htimes hlive⟩
  · exact fun n hbusy hlive => ⟨faultRecoveryDone_ends hbusy, faultRecoveryDone_again hbusy hlive,
      faultRecoveryDone_retires hbusy hlive⟩

end Sys2Proof.Machine

/-! PROOFS. Alarms and their responses, the monitors of the mesh and of temperature, and zeroization (R433 to R435, R441 to R443,
R448, R449). -/
namespace Sys2Proof.Machine

/-! ### What a response leaves -/

/-- The faults and the owners are as they were, and no seal word has come. -/
structure Chip.afterResponse (c d : Chip) : Prop where
  flt : d.flt = c.flt
  owners : d.vlt.owners = c.vlt.owners
  sealA : c.vlt.sealA = none → d.vlt.sealA = none
  sealB : c.vlt.sealB = none → d.vlt.sealB = none

namespace Chip.afterResponse

variable {a c d : Chip}

theorem refl (c : Chip) : c.afterResponse c := ⟨rfl, rfl, id, id⟩

theorem trans (h : a.afterResponse c) (g : c.afterResponse d) : a.afterResponse d :=
  ⟨g.flt.trans h.flt, g.owners.trans h.owners, g.sealA ∘ h.sealA, g.sealB ∘ h.sealB⟩

theorem of_same (hf : d.flt = c.flt) (hv : d.vlt = c.vlt) : c.afterResponse d :=
  ⟨hf, by rw [hv], by rw [hv]; exact id, by rw [hv]; exact id⟩

theorem of_destroyed (hf : d.flt = c.flt) (hv : d.vlt = c.eraseSeal.freeSlots.vlt) : c.afterResponse d :=
  ⟨hf, by rw [hv]; rfl, fun _ => by rw [hv]; rfl, fun _ => by rw [hv]; rfl⟩

theorem raise (h : a.afterResponse c) (code src : Nat) (items : List (Nat × Nat)) : a.afterResponse (c.raise code src items) :=
  h.trans (of_same (Chip.raise_flt ..) (Chip.raise_vlt ..))

end Chip.afterResponse

/-- The response on record. -/
abbrev Chip.saysResponse (c : Chip) (resp source : Nat) : Chip := (c.setF F.FLT_LAST_resp [] resp).setF F.FLT_LAST_source [] source

theorem Chip.respond_zeroizes {c : Chip} (hz : c.ctl.zeroizing = none) (hp : c.powered = true) (source : Nat) :
    c.respond 4 source = (4, (c.saysResponse 4 source).zeroizeStart 4 false) := by
  simp only [Chip.respond, hz, hp, Option.isSome_none, Bool.not_true, Bool.or_self, Bool.false_eq_true, if_false, if_true]

theorem Chip.respond_lockdown {c : Chip} (hz : c.ctl.zeroizing = none) (hp : c.powered = true) (hw : c.inMode [.wake] = false)
    (hm : c.inMode lockdownFrom = true) (source : Nat) :
    c.respond 3 source = (3, (c.saysResponse 3 source).enterMode .lockdown 4) := by
  simp only [Chip.respond, hz, hp, hw, hm, Option.isSome_none, Bool.not_true, Bool.or_self, Bool.false_eq_true, if_false, if_true,
    if_neg (show ¬ 3 = 4 by decide)]

theorem Chip.respond_records {c : Chip} (hz : c.ctl.zeroizing = none) (hp : c.powered = true)
    (hm : c.inMode [.lockdown, .erased] = false) (source : Nat) : c.respond 0 source = (0, c.saysResponse 0 source) := by
  simp only [Chip.respond, hz, hp, hm, Option.isSome_none, Bool.not_true, Bool.or_self, Bool.false_eq_true, if_false,
    if_neg (show ¬ 0 = 4 by decide), if_neg (show ¬ 0 = 3 by decide)]

theorem Chip.respond_answered (c : Chip) (resp source : Nat) : c.afterResponse (c.respond resp source).2 := by
  by_cases hz : c.ctl.zeroizing = none
  · obtain ⟨z, hs⟩ : ∃ z, (c.setF F.FLT_LAST_resp [] resp).setF F.FLT_LAST_source [] source = z := ⟨_, rfl⟩
    have hself : c.afterResponse z := hs ▸ .of_same rfl rfl
    obtain ⟨x, hx⟩ : ∃ x, z.zeroizeStart 4 false = x := ⟨_, rfl⟩
    obtain ⟨y, hy⟩ : ∃ y, z.enterMode .lockdown 4 = y := ⟨_, rfl⟩
    obtain ⟨w, hw⟩ : ∃ w, (c.modCtl fun k => { k with heldLockdown := some source }) = w := ⟨_, rfl⟩
    have hx' : z.afterResponse x := by
      obtain ⟨hdes, -⟩ := Chip.zeroizeStart_spec (c := z) (hs ▸ hz) 4 false
      rw [hx] at hdes
      exact .of_destroyed hdes.flt hdes.vlt
    have hy' : z.afterResponse y := by
      have he := z.enterMode_spec .lockdown 4
      rw [hy] at he
      exact .of_same he.core.flt he.core.vlt
    have hw' : c.afterResponse w := hw ▸ .of_same rfl rfl
    have hrefl := Chip.afterResponse.refl c
    replace hx' := hself.trans hx'
    replace hy' := hself.trans hy'
    simp only [Chip.respond, hs, hx, hy, hw]
    split_ifs <;> assumption
  · have hz' : c.ctl.zeroizing.isSome = true := Option.isSome_iff_ne_none.2 hz
    simp only [Chip.respond, hz', Bool.true_or, if_true]
    exact .refl c

theorem Chip.answerAll_answered (c : Chip) (l : List (Nat × Nat)) : c.afterResponse (c.answerAll l).2 := by
  unfold Chip.answerAll
  split
  · exact c.respond_answered _ _
  · exact .refl c

/-- The conditions that rise of a list have latched. -/
abbrev Chip.latched (c : Chip) (l : List Nat) : Chip := c.each (l.filter c.rises) Chip.alarmLatch

theorem Chip.alarms_answered (c : Chip) (l : List Nat) : (c.latched l).afterResponse (c.alarms l) := by
  simp only [Chip.alarms]
  refine ite_cases ?_ (.refl _)
  refine Chip.each_induct (P := (c.latched l).afterResponse) _ ((c.latched l).answerAll_answered _) fun d b hd => hd.raise _ _ _

/-! ### A condition that rises -/

section
variable {c : Chip} {b : Nat}

theorem testBit_add_self {n b : Nat} (h : n.testBit b = false) : (n + 2 ^ b).testBit b = true := by
  rw [Nat.add_comm, Nat.testBit_two_pow_add_eq, h]
  rfl

theorem Chip.alarmLatch_flt (c : Chip) (b : Nat) : (c.alarmLatch b).flt =
    { c.flt with cause := c.flt.cause + 2 ^ b, flags := c.flt.flags ||| (1#32 <<< b) } := by
  simp only [Chip.alarmLatch, Chip.when]
  split_ifs <;> rfl

theorem Chip.alarmLatch_causeSet (h : c.causeSet b = false) : (c.alarmLatch b).causeSet b = true := by
  rw [Chip.causeSet, Chip.alarmLatch_flt]
  exact testBit_add_self h

theorem Chip.alarmLatch_core (c : Chip) (b : Nat) :
    (c.alarmLatch b).ctl = c.ctl ∧ (c.alarmLatch b).regs = c.regs ∧ (c.alarmLatch b).evr = c.evr ∧
      (c.alarmLatch b).vlt.owners = c.vlt.owners := by
  simp only [Chip.alarmLatch, Chip.when]
  split_ifs <;> exact ⟨rfl, rfl, rfl, rfl⟩

theorem Chip.alarmResp_congr {c d : Chip} (h : d.regs = c.regs) (b : Nat) : d.alarmResp b = c.alarmResp b := by
  simp only [Chip.alarmResp, Chip.getF, h]

/-- An alarm whose condition is new: it latches, is answered, and is said. -/
theorem Chip.alarm_rises (hset : c.causeSet b = false) (hp : c.powered = true) :
    c.alarm b = ((c.alarmLatch b).respond (c.alarmResp b) (0x080 + b)).2.alarmSay
      ((c.alarmLatch b).respond (c.alarmResp b) (0x080 + b)).1 b := by
  have hrises : c.rises b = true := by simp [Chip.rises, hset, Chip.watched, hp]
  obtain ⟨hctl, hregs, -⟩ := c.alarmLatch_core b
  have hp' : (c.alarmLatch b).powered = true := by rw [Chip.powered, Chip.inMode, hctl]; exact hp
  simp only [Chip.alarm, Chip.alarms, List.filter_cons_of_pos hrises, List.filter_nil, Chip.each_cons, Chip.each_nil, hp', if_true,
    List.map_cons, List.map_nil, Chip.answerAll, List.foldl_cons, List.foldl_nil, Chip.alarmResp_congr hregs]

end
end Sys2Proof.Machine

/-! PROOFS. The commands of alarms, of the mesh and of zeroization. -/
namespace Sys2Proof.Machine

theorem Chip.slot_freed {c d : Chip} (h : d.vlt = c.eraseSeal.freeSlots.vlt) (i : Nat) : (d.slot i).state = 0 := by
  rw [Chip.slot, h]
  show (SMap.get (fun _ => {}) ((c.vlt.slots.map fun p => (p.1, ({ generation := p.2.generation } : Slot))).filter
    fun p => p.2 ≠ ({} : Slot)) i).state = 0
  induction c.vlt.slots with
  | nil => rfl
  | cons p l ih =>
    rw [List.map_cons, List.filter_cons]
    split_ifs
    · rw [SMap.get_cons]
      split_ifs
      · rfl
      · exact ih
    · exact ih

/-! ### Alarms -/

/-- The fields of the configured responses. -/
abbrev respFields : List Fld :=
  [F.TMP_RESP0_resp0, F.TMP_RESP0_resp1, F.TMP_RESP0_resp2, F.TMP_RESP0_resp3, F.TMP_RESP0_resp4, F.TMP_RESP0_resp5,
    F.TMP_RESP0_resp6, F.TMP_RESP0_resp7, F.TMP_RESP1_resp8, F.TMP_RESP1_resp9, F.TMP_RESP1_resp10, F.TMP_RESP1_resp11,
    F.TMP_RESP1_resp12, F.TMP_RESP1_resp13]

theorem Chip.alarmResp_of {c d : Chip} (h : ∀ f ∈ respFields, d.getF f [] = c.getF f []) (b : Nat) : d.alarmResp b = c.alarmResp b := by
  have hmap : (respFields[b]?).map (fun f => d.getF f []) = (respFields[b]?).map fun f => c.getF f [] := by
    refine Option.map_congr fun f hf => h f ?_
    exact List.mem_of_getElem? hf
  exact congrArg (·.getD 0) hmap

theorem Chip.alarmResp_said (c : Chip) (resp source b : Nat) : (c.saysResponse resp source).alarmResp b = c.alarmResp b := by
  have hne : ∀ f ∈ respFields, f.key [] ≠ F.FLT_LAST_resp.key [] ∧ f.key [] ≠ F.FLT_LAST_source.key [] := by decide
  refine Chip.alarmResp_of (fun f hf => ?_) b
  rw [Chip.getF_setF_other _ _ (by decide) (hne f hf).2, Chip.getF_setF_other _ _ (by decide) (hne f hf).1]

section
variable {s : State} {src : Fin 14} {clk : MainClock}

/-- An alarm of a clock is watched where that clock runs. -/
theorem alarmRaise_alarm {post : Chip → Prop} (hclk : src = 11 → s.chip.ctl.mode = .rest → clockInRest clk = true)
    (hown : (s.chip.alarm src.val).vlt.owners = s.chip.vlt.owners) (hpost : post (s.chip.alarm src.val)) :
    completes (.alarmRaise ⟨src, clk⟩) s post := by
  refine completes_eq rfl (if_neg ?_) hpost hown
  simp only [Chip.inMode, Bool.and_eq_true, decide_eq_true_eq, List.contains_eq_mem, List.mem_singleton, Bool.not_eq_true', not_and,
    Bool.not_eq_false]
  exact fun h => hclk h.1 h.2

variable (hset : s.chip.causeSet src.val = false) (hp : s.chip.powered = true) (hz : s.chip.ctl.zeroizing = none)
  (hclk : src = 11 → s.chip.ctl.mode = .rest → clockInRest clk = true)
include hset hp hz hclk

theorem alarmRaise_recorded (hlogs : s.chip.logs) (hresp : s.chip.alarmResp src.val = 0)
    (hmode : s.chip.inMode [.lockdown, .erased] = false) :
    completes (.alarmRaise ⟨src, clk⟩) s fun d =>
      d.causeSet src.val = true ∧ d.flt.flags = s.chip.flt.flags ||| (1#32 <<< src.val) ∧ d.ctl = s.chip.ctl ∧
      d.getF F.FLT_LAST_resp [] = 0 ∧ d.getF F.FLT_LAST_source [] = 0x80 + src.val ∧
      s.chip.logged d [⟨Ev.ALARM, 0x80 + src.val, [(4, 0), (4, 0)], false⟩] := by
  obtain ⟨hctl, hregs, hevr, hown⟩ := s.chip.alarmLatch_core src.val
  have hflt := s.chip.alarmLatch_flt src.val
  have hcause := Chip.alarmLatch_causeSet hset
  generalize hy : s.chip.alarmLatch src.val = y at hctl hregs hevr hown hflt hcause
  have hsaid : y.respond 0 (0x080 + src.val) = (0, y.saysResponse 0 (0x080 + src.val)) :=
    Chip.respond_records (by rw [hctl]; exact hz) (by rw [Chip.powered, Chip.inMode, hctl]; exact hp)
      (by rw [Chip.inMode, hctl]; exact hmode) _
  have hlogs' : (y.saysResponse 0 (0x080 + src.val)).logs := by
    show y.evr.started = true ∧ y.evr.intake.length + 8 ≤ 256
    rw [hevr]
    exact hlogs
  have hresp' : (y.saysResponse 0 (0x080 + src.val)).alarmResp src.val = 0 := by
    rw [Chip.alarmResp_said, Chip.alarmResp_congr hregs, hresp]
  have heq : s.chip.alarm src.val = { y.saysResponse 0 (0x080 + src.val) with
      evr := { y.evr with intake := y.evr.intake ++ [⟨Ev.ALARM, 0x080 + src.val, [(4, 0), (4, 0)], false⟩] } } := by
    rw [Chip.alarm_rises hset hp, hy, hresp, hsaid]
    simp only [Chip.alarmSay, hresp']
    exact Chip.raise_logs hlogs' (by decide)
  have hget : ∀ f, (s.chip.alarm src.val).getF f [] = (y.saysResponse 0 (0x080 + src.val)).getF f [] := fun f =>
    Chip.getF_congr (by rw [heq]) f []
  refine alarmRaise_alarm hclk (by rw [heq]; exact hown) ⟨?_, ?_, ?_, ?_, ?_, ?_⟩
  · rw [heq]
    exact hcause
  · rw [heq]
    exact congrArg (·.flags) hflt
  · rw [heq]
    exact hctl
  · rw [hget, Chip.getF_setF_other _ _ (by decide) (by decide), Chip.getF_setF_same _ _ _ _ (by decide)]
    rfl
  · rw [hget, Chip.getF_setF_same _ _ _ _ (by decide)]
    exact Nat.mod_eq_of_lt (by have := src.isLt; simp only [F.FLT_LAST_source]; omega)
  · rw [Chip.logged, heq, ← hevr]

theorem alarmRaise_lockdown (hresp : s.chip.alarmResp src.val = 3)
    (hmode : s.chip.inMode [.sealed, .provision, .active, .standby, .drain, .rest, .maintenance] = true) :
    completes (.alarmRaise ⟨src, clk⟩) s fun d =>
      d.ctl.mode = .lockdown ∧ d.causeSet src.val = true ∧ d.flt.flags = s.chip.flt.flags ||| (1#32 <<< src.val) ∧
      d.getF F.FLT_LAST_resp [] = 3 := by
  obtain ⟨hctl, hregs, -, hown⟩ := s.chip.alarmLatch_core src.val
  have hflt := s.chip.alarmLatch_flt src.val
  have hcause := Chip.alarmLatch_causeSet hset
  generalize hy : s.chip.alarmLatch src.val = y at hctl hregs hown hflt hcause
  have hin : y.inMode lockdownFrom = true := by rw [Chip.inMode, hctl]; exact hmode
  have hwake : y.inMode [.wake] = false := by
    revert hin
    simp only [Chip.inMode]
    cases y.ctl.mode <;> decide
  have hdo := Chip.respond_lockdown (by rw [hctl]; exact hz) (by rw [Chip.powered, Chip.inMode, hctl]; exact hp) hwake hin
    (0x080 + src.val)
  have he := (y.saysResponse 3 (0x080 + src.val)).enterMode_spec .lockdown 4
  generalize (y.saysResponse 3 (0x080 + src.val)).enterMode .lockdown 4 = z at hdo he
  have heq : s.chip.alarm src.val = z.alarmSay 3 src.val := by rw [Chip.alarm_rises hset hp, hy, hresp, hdo]
  have hsay := (Chip.loses.refl z).raise (code := Ev.ALARM) (by decide) (0x080 + src.val)
    [(4, z.alarmResp src.val), (4, 3)]
  obtain ⟨l, hl⟩ := he.ctl
  refine alarmRaise_alarm hclk ?_ ?_ <;> rw [heq, Chip.alarmSay]
  · rw [Chip.raise_vlt, he.core.vlt]
    exact hown
  · refine ⟨?_, ?_, ?_, ?_⟩
    · rw [Chip.raise_ctl, hl]
    · rw [Chip.causeSet, Chip.raise_flt, he.core.flt]
      exact hcause
    · rw [Chip.raise_flt, he.core.flt]
      exact congrArg (·.flags) hflt
    · rw [hsay.getF (by decide), he.quiet.getF (by decide) (by decide), Chip.getF_setF_other _ _ (by decide) (by decide),
        Chip.getF_setF_same _ _ _ _ (by decide)]
      rfl

theorem alarmRaise_zeroizes (hresp : s.chip.alarmResp src.val = 4) :
    completes (.alarmRaise ⟨src, clk⟩) s fun d =>
      d.ctl.zeroizing.isSome = true ∧ d.causeSet src.val = true ∧ d.vlt.sealA = none ∧ d.vlt.sealB = none ∧
      ∀ i, (d.slot i).state = 0 := by
  obtain ⟨hctl, hregs, -, hown⟩ := s.chip.alarmLatch_core src.val
  have hcause := Chip.alarmLatch_causeSet hset
  generalize hy : s.chip.alarmLatch src.val = y at hctl hregs hown hcause
  have hyz : y.ctl.zeroizing = none := by rw [hctl]; exact hz
  have hdo := Chip.respond_zeroizes hyz (by rw [Chip.powered, Chip.inMode, hctl]; exact hp) (0x080 + src.val)
  obtain ⟨hdes, hzctl, -⟩ := Chip.zeroizeStart_spec (c := y.saysResponse 4 (0x080 + src.val)) hyz 4 false
  generalize (y.saysResponse 4 (0x080 + src.val)).zeroizeStart 4 false = z at hdo hdes hzctl
  have heq : s.chip.alarm src.val = z.alarmSay 4 src.val := by rw [Chip.alarm_rises hset hp, hy, hresp, hdo]
  have hvlt : (z.alarmSay 4 src.val).vlt = y.eraseSeal.freeSlots.vlt := by
    rw [Chip.alarmSay, Chip.raise_vlt, hdes.vlt]
    rfl
  refine alarmRaise_alarm hclk ?_ ?_ <;> rw [heq]
  · rw [hvlt]
    exact hown
  · refine ⟨?_, ?_, by rw [hvlt]; rfl, by rw [hvlt]; rfl, Chip.slot_freed hvlt⟩
    · rw [Chip.alarmSay, Chip.raise_ctl, hzctl]
      rfl
    · rw [Chip.causeSet, Chip.alarmSay, Chip.raise_flt, hdes.flt]
      exact hcause

end

theorem alarmCauseClear_completes {s : State} {src : Fin 14} (hset : s.chip.causeSet src.val = true) :
    completes (.alarmCauseClear src) s fun d =>
      d = { s.chip with flt := { s.chip.flt with cause := s.chip.flt.cause - 2 ^ src.val } } :=
  completes_eq (f := fun c => c.causeClear src.val) rfl (if_pos hset) rfl rfl

end Sys2Proof.Machine

/-! PROOFS. The monitors of the mesh and of temperature (R442, R443). -/
namespace Sys2Proof.Machine

/-! ### Conditions that rise together -/

theorem Chip.watched_of {c : Chip} (hon : c.inMode [.off] = false) {b : Nat} (hb : b = 0 ∨ b = 2) : c.watched b = true := by
  revert hon
  simp only [Chip.watched, Chip.powered, Chip.inMode]
  rcases hb with rfl | rfl <;> cases c.ctl.mode <;> decide

theorem Chip.alarmLatch_keeps {c : Chip} {b x : Nat} (hx : b < x) : (c.alarmLatch x).causeSet b = c.causeSet b := by
  rw [Chip.causeSet, Chip.alarmLatch_flt]
  show Nat.testBit (c.flt.cause + 2 ^ x) b = Nat.testBit c.flt.cause b
  rw [Nat.add_comm, Nat.testBit_two_pow_add_gt hx]

theorem Chip.latches_keep {c : Chip} {b : Nat} (l : List Nat) (hl : ∀ x ∈ l, b < x) :
    (c.each l Chip.alarmLatch).causeSet b = c.causeSet b :=
  Chip.each_induct_mem (P := fun d => d.causeSet b = c.causeSet b) l rfl fun _ x hx hd => (Chip.alarmLatch_keeps (hl x hx)).trans hd

theorem Chip.alarms_causeSet {c : Chip} {b : Nat} {rest : List Nat} (hw : c.watched b = true) (hrest : ∀ x ∈ rest, b < x) :
    (c.alarms (b :: rest)).causeSet b = true := by
  have hflt := (c.alarms_answered (b :: rest)).flt
  rw [Chip.causeSet, hflt]
  show (c.latched (b :: rest)).causeSet b = true
  have hlater : ∀ x ∈ rest.filter c.rises, b < x := fun x hx => hrest x (List.mem_of_mem_filter hx)
  by_cases hset : c.causeSet b = true
  · have hnot : ¬ c.rises b = true := by simp [Chip.rises, hset]
    rw [Chip.latched, List.filter_cons_of_neg hnot, Chip.latches_keep _ hlater, hset]
  · have hnew : c.causeSet b = false := by simpa using hset
    have hrises : c.rises b = true := by simp [Chip.rises, hnew, hw]
    rw [Chip.latched, List.filter_cons_of_pos hrises, Chip.each_cons, Chip.latches_keep _ hlater, Chip.alarmLatch_causeSet hnew]

theorem Chip.latched_vlt (c : Chip) (l : List Nat) : c.afterResponse { c.latched l with flt := c.flt } := by
  refine Chip.each_induct (P := fun d => c.afterResponse { d with flt := c.flt }) _ (.refl c) fun d b hd => ?_
  refine ⟨rfl, (Chip.alarmLatch_core d b).2.2.2.trans hd.owners, fun ha => ?_, fun hb => ?_⟩
  · have h := hd.sealA ha
    simp only [Chip.alarmLatch, Chip.when]
    split_ifs
    · rfl
    · rfl
    · exact h
    · exact h
  · have h := hd.sealB hb
    simp only [Chip.alarmLatch, Chip.when]
    split_ifs
    · rfl
    · rfl
    · exact h
    · exact h

/-- Alarms leave the owners, and bring no seal word. -/
theorem Chip.alarms_vlt (c : Chip) (l : List Nat) : (c.alarms l).vlt.owners = c.vlt.owners ∧
    (c.vlt.sealA = none → (c.alarms l).vlt.sealA = none) ∧ (c.vlt.sealB = none → (c.alarms l).vlt.sealB = none) := by
  have hlatch := c.latched_vlt l
  have hdone := c.alarms_answered l
  exact ⟨hdone.owners.trans hlatch.owners, hdone.sealA ∘ hlatch.sealA, hdone.sealB ∘ hlatch.sealB⟩

/-! ### The mesh -/

theorem Chip.meshBreach_spec {c : Chip} (hon : c.inMode [.off] = false) :
    c.meshBreach.vlt.sealA = none ∧ c.meshBreach.vlt.sealB = none ∧ c.meshBreach.causeSet 0 = true ∧
      c.meshBreach.vlt.owners = c.vlt.owners := by
  have hd : c.meshBreach = c.eraseSeal.alarms [0] := if_neg (by simp [hon])
  obtain ⟨howners, ha, hb⟩ := c.eraseSeal.alarms_vlt [0]
  rw [hd]
  exact ⟨ha rfl, hb rfl, Chip.alarms_causeSet (Chip.watched_of (c := c.eraseSeal) hon (.inl rfl)) (by simp), howners⟩

section
variable {s : State} (hon : s.chip.inMode [.off] = false)
include hon

theorem meshBreach_completes :
    completes .meshBreach s fun d => d.vlt.sealA = none ∧ d.vlt.sealB = none ∧ d.causeSet 0 = true := by
  obtain ⟨ha, hb, hset, hown⟩ := Chip.meshBreach_spec hon
  exact completes_eq (f := Chip.meshBreach) rfl rfl ⟨ha, hb, hset⟩ hown

theorem meshPatternCheck_good : completes (.meshPatternCheck true) s fun d =>
    d = { s.chip with free := d.free, flt := { s.chip.flt with meshLfsr := d.flt.meshLfsr } } :=
  completes_eq (f := fun c => c.meshCheck true) rfl (if_neg (by simp [hon])) rfl rfl

theorem meshPatternCheck_bad : completes (.meshPatternCheck false) s fun d =>
    d.vlt.sealA = none ∧ d.vlt.sealB = none ∧ d.causeSet 0 = true := by
  have hd : s.chip.meshCheck false =
      (s.chip.draw.2.modFlt fun f => { f with meshLfsr := Config.freeBits s.chip.draw.1 16 }).meshBreach := if_neg (by simp [hon])
  obtain ⟨ha, hb, hset, hown⟩ := Chip.meshBreach_spec
    (c := s.chip.draw.2.modFlt fun f => { f with meshLfsr := Config.freeBits s.chip.draw.1 16 }) hon
  exact completes_eq (f := fun c => c.meshCheck false) rfl hd ⟨ha, hb, hset⟩ hown

end

/-! ### The temperature -/

theorem Chip.causeClear_frame (c : Chip) (b : Nat) :
    c.causeClear b = { c with flt := { c.flt with cause := (c.causeClear b).flt.cause } } := by
  rw [Chip.causeClear]
  split_ifs <;> rfl

theorem testBit_sub_self {n b : Nat} (h : n.testBit b = true) : (n - 2 ^ b).testBit b = false := by
  have hle : 2 ^ b ≤ n := Nat.ge_two_pow_of_testBit h
  have hflip := Nat.testBit_two_pow_add_eq (n - 2 ^ b) b
  rw [Nat.add_sub_cancel' hle, h] at hflip
  simpa using hflip.symm

theorem testBit_sub_below {n b j : Nat} (h : n.testBit b = true) (hj : j < b) : (n - 2 ^ b).testBit j = n.testBit j := by
  have hkeep := Nat.testBit_two_pow_add_gt hj (n - 2 ^ b)
  rw [Nat.add_sub_cancel' (Nat.ge_two_pow_of_testBit h)] at hkeep
  exact hkeep.symm

theorem Chip.causeClear_causeSet (c : Chip) (b : Nat) : (c.causeClear b).causeSet b = false := by
  by_cases h : c.causeSet b = true
  · rw [Chip.causeClear, if_pos h]
    exact testBit_sub_self h
  · rw [Chip.causeClear, if_neg h]
    simpa using h

theorem Chip.causeClear_below (c : Chip) {b j : Nat} (hj : j < b) : (c.causeClear b).causeSet j = c.causeSet j := by
  by_cases h : c.causeSet b = true
  · rw [Chip.causeClear, if_pos h]
    exact testBit_sub_below h hj
  · rw [Chip.causeClear, if_neg h]

/-- The reading in the registers, where main power is present (R443). -/
def Chip.tempShown (c : Chip) (lo hi : Int) : Chip :=
  let c := c.modBuf fun b => { b with refreshTwice := 85 < hi }
  let c := c.setF F.TMP_TEMP_now [] (lo % 256).toNat
  let c := c.setF F.TMP_TEMP_min [] (min lo (sbyte (c.getF F.TMP_TEMP_min [])) % 256).toNat
  c.setF F.TMP_TEMP_max [] (max hi (sbyte (c.getF F.TMP_TEMP_max [])) % 256).toNat

/-- The block with a sample of the two sensors, before its alarms. -/
def Chip.tempRead (c : Chip) (lo hi : Int) (cold hot : Nat) : Chip :=
  (c.modFlt fun f => { f with tempLow := lo, tempHigh := hi, coldRun := min 2 cold, hotRun := min 2 hot }).when c.powered
    fun c => c.tempShown lo hi

/-- The conditions of the limits end where a sample is 5 °C inside them. -/
def Chip.tempEnds (c : Chip) (lo hi limLo limHi : Int) : Chip :=
  (c.when (limLo + 5 ≤ lo) fun c => c.causeClear 2).when (hi ≤ limHi - 5) fun c => c.causeClear 3

theorem Chip.tempSample_eq (c : Chip) (lo hi : Int) :
    let limLo := sbyte (c.getF F.TMP_TEMP_CFG_lo [])
    let limHi := sbyte (c.getF F.TMP_TEMP_CFG_hi [])
    let cold := if lo < limLo then c.flt.coldRun + 1 else 0
    let hot := if limHi < hi then c.flt.hotRun + 1 else 0
    c.tempSample lo hi = ((c.tempRead lo hi cold hot).alarms ((if 2 ≤ cold then [2] else []) ++ if 2 ≤ hot then [3] else [])).tempEnds
      lo hi limLo limHi := rfl

theorem Chip.tempEnds_frame (c : Chip) (lo hi limLo limHi : Int) : c.tempEnds lo hi limLo limHi =
    { c with flt := { c.flt with cause := (c.tempEnds lo hi limLo limHi).flt.cause } } := by
  refine Chip.when_induct (P := fun d => d = { c with flt := { c.flt with cause := d.flt.cause } }) _
    (Chip.when_induct (P := fun d => d = { c with flt := { c.flt with cause := d.flt.cause } }) _ rfl
      fun _ => c.causeClear_frame 2) fun hd => ?_
  generalize c.when (decide (limLo + 5 ≤ lo)) (fun c => c.causeClear 2) = y at hd
  have hclear := y.causeClear_frame 3
  generalize y.causeClear 3 = z at hclear
  rw [hclear, hd]

theorem Chip.tempEnds_cold (c : Chip) {lo limLo : Int} (h : limLo + 5 ≤ lo) (hi limHi : Int) :
    (c.tempEnds lo hi limLo limHi).causeSet 2 = false := by
  have hfirst : (c.when (decide (limLo + 5 ≤ lo)) fun c => c.causeClear 2).causeSet 2 = false := by
    rw [decide_eq_true h, Chip.when_true]
    exact c.causeClear_causeSet 2
  exact Chip.when_induct (P := fun d => d.causeSet 2 = false) _ hfirst fun _ => (Chip.causeClear_below _ (by decide)).trans hfirst

theorem Chip.tempEnds_stays (c : Chip) {lo limLo : Int} (h : lo < limLo) (hi limHi : Int) :
    (c.tempEnds lo hi limLo limHi).causeSet 2 = c.causeSet 2 := by
  have hfirst : (c.when (decide (limLo + 5 ≤ lo)) fun c => c.causeClear 2) = c := by
    rw [decide_eq_false (by omega), Chip.when_false]
  rw [Chip.tempEnds, hfirst]
  exact Chip.when_induct (P := fun d => d.causeSet 2 = c.causeSet 2) _ rfl fun _ => Chip.causeClear_below _ (by decide)

/-- What a sample reads beside the registers. -/
theorem Chip.tempRead_keeps (c : Chip) (lo hi : Int) (cold hot : Nat) :
    (c.tempRead lo hi cold hot).flt = { c.flt with tempLow := lo, tempHigh := hi, coldRun := min 2 cold, hotRun := min 2 hot } ∧
      (c.tempRead lo hi cold hot).ctl = c.ctl ∧ (c.tempRead lo hi cold hot).vlt = c.vlt := by
  rw [Chip.tempRead]
  cases c.powered <;> exact ⟨rfl, rfl, rfl⟩

/-! #### Signed bytes -/

/-- A reading of one byte. -/
abbrev isByte (t : Int) : Prop := -128 ≤ t ∧ t ≤ 127

theorem isByte_toInt (a : Byte) : isByte a.toInt := by
  have hlo := BitVec.le_toInt a
  have hhi := BitVec.toInt_lt (x := a)
  simp only [isByte]
  omega

theorem isByte_sbyte {v : Nat} (h : v < 256) : isByte (sbyte v) := by
  simp only [isByte, sbyte, signed]
  split_ifs <;> omega

theorem sbyte_toNat {t : Int} (h : isByte t) : sbyte ((t % 256).toNat % 256) = t := by
  obtain ⟨hlo, hhi⟩ := h
  simp only [sbyte, signed]
  split_ifs <;> omega

theorem Chip.tempShown_now (c : Chip) (lo hi : Int) : (c.tempShown lo hi).getF F.TMP_TEMP_now [] = (lo % 256).toNat := by
  rw [Chip.tempShown, Chip.getF_setF_other _ _ (by decide) (by decide), Chip.getF_setF_other _ _ (by decide) (by decide),
    Chip.getF_setF_same _ _ _ _ (by decide)]
  exact Nat.mod_eq_of_lt (by simp only [F.TMP_TEMP_now]; omega)

theorem Chip.tempShown_min (c : Chip) {lo : Int} (hlo : isByte lo) (hi : Int) (h : c.getF F.TMP_TEMP_min [] < 256) :
    sbyte ((c.tempShown lo hi).getF F.TMP_TEMP_min []) = min lo (sbyte (c.getF F.TMP_TEMP_min [])) := by
  have hbefore := isByte_sbyte h
  rw [Chip.tempShown, Chip.getF_setF_other _ _ (by decide) (by decide), Chip.getF_setF_same _ _ _ _ (by decide),
    Chip.getF_setF_other _ _ (by decide) (by decide)]
  exact sbyte_toNat ⟨le_min hlo.1 hbefore.1, (min_le_left _ _).trans hlo.2⟩

theorem Chip.tempShown_max (c : Chip) (lo : Int) {hi : Int} (hhi : isByte hi) (h : c.getF F.TMP_TEMP_max [] < 256) :
    sbyte ((c.tempShown lo hi).getF F.TMP_TEMP_max []) = max hi (sbyte (c.getF F.TMP_TEMP_max [])) := by
  have hbefore := isByte_sbyte h
  rw [Chip.tempShown, Chip.getF_setF_same _ _ _ _ (by decide), Chip.getF_setF_other _ _ (by decide) (by decide),
    Chip.getF_setF_other _ _ (by decide) (by decide)]
  exact sbyte_toNat ⟨hhi.1.trans (le_max_left _ _), max_le hhi.2 hbefore.2⟩

section
variable {s : State} {a b : Byte} (hon : s.chip.inMode [.off] = false)
include hon

theorem tempSample_inside (hcold : s.chip.flt.coldRun = 0) (hhot : s.chip.flt.hotRun = 0) :
    completes (.tempSample a b) s fun d =>
      d.flt.tempLow = min a.toInt b.toInt ∧ d.flt.tempHigh = max a.toInt b.toInt ∧ d.flt.flags = s.chip.flt.flags ∧
      d.ctl = s.chip.ctl ∧
      (s.chip.powered = true → s.chip.getF F.TMP_TEMP_min [] < 256 → s.chip.getF F.TMP_TEMP_max [] < 256 →
        d.getF F.TMP_TEMP_now [] = (min a.toInt b.toInt % 256).toNat ∧
        sbyte (d.getF F.TMP_TEMP_min []) = min (min a.toInt b.toInt) (sbyte (s.chip.getF F.TMP_TEMP_min [])) ∧
        sbyte (d.getF F.TMP_TEMP_max []) = max (max a.toInt b.toInt) (sbyte (s.chip.getF F.TMP_TEMP_max []))) ∧
      (sbyte (s.chip.getF F.TMP_TEMP_CFG_lo []) + 5 ≤ min a.toInt b.toInt → d.causeSet 2 = false) ∧
      (min a.toInt b.toInt < sbyte (s.chip.getF F.TMP_TEMP_CFG_lo []) → d.flt.coldRun = 1) := by
  have hlo : isByte (min a.toInt b.toInt) :=
    ⟨le_min (isByte_toInt a).1 (isByte_toInt b).1, (min_le_left _ _).trans (isByte_toInt a).2⟩
  have hhi : isByte (max a.toInt b.toInt) :=
    ⟨(isByte_toInt a).1.trans (le_max_left _ _), max_le (isByte_toInt a).2 (isByte_toInt b).2⟩
  have hexec : exec (.tempSample a b) s = lift (fun c =>
    if c.inMode [.off] then c else c.tempSample (min a.toInt b.toInt) (max a.toInt b.toInt)) s := rfl
  generalize min a.toInt b.toInt = lo at hlo hexec ⊢
  generalize max a.toInt b.toInt = hi at hhi hexec ⊢
  have heq := s.chip.tempSample_eq lo hi
  simp only [hcold, hhot, Nat.zero_add] at heq
  generalize sbyte (s.chip.getF F.TMP_TEMP_CFG_lo []) = limLo at heq ⊢
  generalize sbyte (s.chip.getF F.TMP_TEMP_CFG_hi []) = limHi at heq
  obtain ⟨cold, hc⟩ : ∃ n, (if lo < limLo then 1 else 0) = n := ⟨_, rfl⟩
  obtain ⟨hot, hh⟩ : ∃ n, (if limHi < hi then 1 else 0) = n := ⟨_, rfl⟩
  have hcold1 : cold ≤ 1 := by rw [← hc]; split_ifs <;> omega
  have hhot1 : hot ≤ 1 := by rw [← hh]; split_ifs <;> omega
  rw [hc, hh, if_neg (by omega), if_neg (by omega), List.append_nil, Chip.alarms_nil] at heq
  obtain ⟨hflt, hctl, hvlt⟩ := s.chip.tempRead_keeps lo hi cold hot
  have hread : s.chip.powered = true → s.chip.tempRead lo hi cold hot = (s.chip.modFlt fun f => { f with
      tempLow := lo, tempHigh := hi, coldRun := min 2 cold, hotRun := min 2 hot }).tempShown lo hi := fun hp => by
    rw [Chip.tempRead, hp, Chip.when_true]
  generalize s.chip.tempRead lo hi cold hot = y at heq hflt hctl hvlt hread
  have hframe := y.tempEnds_frame lo hi limLo limHi
  have hends : limLo + 5 ≤ lo → (y.tempEnds lo hi limLo limHi).causeSet 2 = false := fun h => y.tempEnds_cold h _ _
  generalize y.tempEnds lo hi limLo limHi = d at heq hframe hends
  have hget : ∀ f, d.getF f [] = y.getF f [] := fun f => Chip.getF_congr (by rw [hframe]) f []
  refine completes_eq (d := d) hexec ((if_neg (by simp [hon])).trans heq) ⟨?_, ?_, ?_, ?_, fun hp hmin hmax => ?_, hends, fun h => ?_⟩ ?_
  · rw [hframe, hflt]
  · rw [hframe, hflt]
  · rw [hframe, hflt]
  · rw [hframe, hctl]
  · rw [hget, hget, hget, hread hp]
    exact ⟨Chip.tempShown_now .., Chip.tempShown_min _ hlo _ hmin, Chip.tempShown_max _ _ hhi hmax⟩
  · rw [hframe, hflt, ← hc, if_pos h]
    rfl
  · rw [hframe, hvlt]

theorem tempSample_cold (hcold : s.chip.flt.coldRun = 1)
    (hlow : min a.toInt b.toInt < sbyte (s.chip.getF F.TMP_TEMP_CFG_lo [])) :
    completes (.tempSample a b) s fun d => d.flt.coldRun = 2 ∧ d.causeSet 2 = true := by
  have heq := s.chip.tempSample_eq (min a.toInt b.toInt) (max a.toInt b.toInt)
  simp only [hcold, if_pos hlow, Nat.reduceAdd, le_refl, if_true] at heq
  generalize (if sbyte (s.chip.getF F.TMP_TEMP_CFG_hi []) < max a.toInt b.toInt then s.chip.flt.hotRun + 1 else 0) = hot at heq
  obtain ⟨hflt, hctl, hvlt⟩ := s.chip.tempRead_keeps (min a.toInt b.toInt) (max a.toInt b.toInt) 2 hot
  generalize s.chip.tempRead (min a.toInt b.toInt) (max a.toInt b.toInt) 2 hot = y at heq hflt hctl hvlt
  have hset := Chip.alarms_causeSet (c := y) (rest := if 2 ≤ hot then [3] else []) (b := 2)
    (Chip.watched_of (by rw [Chip.inMode, hctl]; exact hon) (.inr rfl)) (by split_ifs <;> simp)
  obtain ⟨howners, -⟩ := y.alarms_vlt (2 :: if 2 ≤ hot then [3] else [])
  have hrun : (y.alarms (2 :: if 2 ≤ hot then [3] else [])).flt.coldRun = 2 := by
    rw [(y.alarms_answered _).flt]
    refine Chip.each_induct (P := fun d => d.flt.coldRun = 2) _ (by rw [hflt]; rfl) fun d x hd => ?_
    rw [Chip.alarmLatch_flt]
    exact hd
  rw [show [2] ++ (if 2 ≤ hot then [3] else []) = 2 :: if 2 ≤ hot then [3] else [] from rfl] at heq
  generalize y.alarms (2 :: if 2 ≤ hot then [3] else []) = z at heq hset howners hrun
  have hframe := z.tempEnds_frame (min a.toInt b.toInt) (max a.toInt b.toInt) (sbyte (s.chip.getF F.TMP_TEMP_CFG_lo []))
    (sbyte (s.chip.getF F.TMP_TEMP_CFG_hi []))
  have hstays := z.tempEnds_stays hlow (max a.toInt b.toInt) (sbyte (s.chip.getF F.TMP_TEMP_CFG_hi []))
  generalize z.tempEnds _ _ _ _ = d at heq hframe hstays
  refine completes_eq (d := d) rfl ((if_neg (by simp [hon])).trans heq) ⟨?_, hstays.trans hset⟩ ?_
  · rw [hframe]
    exact hrun
  · rw [hframe]
    exact howners.trans (by rw [hvlt])

end
end Sys2Proof.Machine

/-! PROOFS. The commands of zeroization and TAMPER_CLEAR (R448, R449). -/
namespace Sys2Proof.Machine

/-! ### What is destroyed -/

/-- The numbers of the associations stay, in a table in its canonical form (R449). -/
theorem SMap.get_wiped {m : SMap Sa} (h : SMap.wf (fun _ => {}) m = true) (i : Nat) :
    SMap.get (fun _ => {}) ((m.map fun p => (p.1, ({ generation := p.2.generation } : Sa))).filter fun p => p.2 ≠ ({} : Sa)) i =
      { generation := (SMap.get (fun _ => {}) m i).generation } := by
  induction m with
  | nil => rfl
  | cons p m ih =>
    obtain ⟨-, hlt, hm⟩ := SMap.wf_cons.1 h
    rw [List.map_cons, List.filter_cons, SMap.get_cons]
    by_cases hp : p.1 = i
    · rw [if_pos hp]
      split_ifs with hv
      · rw [SMap.get_cons, if_pos hp]
      · have hrest : SMap.get (fun _ => ({} : Sa)) m i = {} := SMap.get_of_lt fun q hq => hp ▸ hlt q hq
        rw [ih hm, hrest]
        have hgen : p.2.generation = 0 := by simpa using hv
        rw [hgen]
    · rw [if_neg hp]
      split_ifs
      · rw [SMap.get_cons, if_neg hp, ih hm]
      · exact ih hm

theorem Chip.memGet_cleared (c : Chip) {n m : Nat} (h : m < n) : (c.memClear 0 n).memGet m = 0 := by
  rw [Chip.memGet, SMap.get_of_no_key]
  · rfl
  · simp only [Chip.memClear, List.mem_map, List.mem_filter]
    rintro ⟨p, ⟨-, hp⟩, rfl⟩
    simp [h] at hp

/-- What a zeroization that starts has destroyed, in the terms of the spec. -/
theorem Chip.destroyed_spec {c d : Chip} (h : c.destroyed d) :
    d.vlt.sealA = none ∧ d.vlt.sealB = none ∧ (∀ i, (d.slot i).state = 0) ∧ (∀ ch, d.chan ch = {}) ∧
      (SMap.wf (fun _ => {}) c.sax.sas = true → ∀ i, d.sa i = { generation := (c.sa i).generation }) ∧ d.pnl.pin = none ∧
      (∀ m, m < 0x30000000 → d.memGet m = 0) ∧ d.vlt.owners = c.vlt.owners := by
  refine ⟨by rw [h.vlt]; rfl, by rw [h.vlt]; rfl, Chip.slot_freed h.vlt, fun ch => ?_, fun hwf i => ?_, by rw [h.pnl], fun m hm => ?_,
    by rw [h.vlt]; rfl⟩
  · rw [Chip.chan, h.sax]
    rfl
  · rw [Chip.sa, h.sax]
    exact SMap.get_wiped hwf i
  · rw [Chip.memGet, h.mem]
    exact c.memGet_cleared hm

/-- The end of an OWNER_TRANSFER programs OTP, and changes no secret. -/
theorem Chip.transferEnd_keeps (c : Chip) :
    (∃ o p, c.transferEnd.vlt = { c.vlt with owners := o, programming := p }) ∧
      c.transferEnd.ctl = { c.ctl with transfer := none } := by
  cases ht : c.ctl.transfer with
  | none =>
    rw [Chip.transferEnd_none ht]
    refine ⟨⟨_, _, rfl⟩, ?_⟩
    rw [← ht]
  | some h =>
    generalize hx : c.modCtl (fun k => { k with transfer := none }) = x
    obtain ⟨z, hz⟩ : ∃ z, x.when x.nextOwner.isSome (fun c => c.programOwner (c.nextOwner.getD 0) h) = z := ⟨_, rfl⟩
    have hprog : (∃ o p, z.vlt = { x.vlt with owners := o, programming := p }) ∧ z.ctl = x.ctl := by
      rw [← hz]
      refine Chip.when_induct (P := fun d => (∃ o p, d.vlt = { x.vlt with owners := o, programming := p }) ∧ d.ctl = x.ctl) _
        ⟨⟨_, _, rfl⟩, rfl⟩ fun _ => ?_
      rw [Chip.programOwner, Chip.raise_vlt, Chip.raise_ctl]
      exact ⟨⟨_, _, rfl⟩, rfl⟩
    have hend : z.traffic c.transferEnd := by
      simp only [Chip.transferEnd, ht, hx, hz]
      exact (Chip.traffic.refl z).when (fun d hd => ite_cases (hd.blockDone _ _ _ _) (hd.finishOrder _)) _
    rw [hend.vlt_eq, hend.ctl_eq, hprog.2]
    subst hx
    exact ⟨hprog.1, rfl⟩

section
variable {s : State}

theorem zeroization_other {trig : ZeroizeCause} (h : trig = .transfer ∨ trig = .purge) :
    completes (.zeroization trig) s fun d => d = s.chip := by
  rcases h with rfl | rfl <;>
  · refine completes_eq (d := s.chip) rfl ?_ rfl rfl
    split_ifs <;> rfl

theorem zeroization_starts {trig : ZeroizeCause} (hp : s.chip.powered = true) (hz : s.chip.ctl.zeroizing = none)
    (h : trig = .alarm ∨ trig = .button) :
    completes (.zeroization trig) s fun d =>
      (∃ n, d.ctl.zeroizing = some (n, s.chip.nowUs)) ∧ d.vlt.sealA = none ∧ d.vlt.sealB = none ∧ (∀ i, (d.slot i).state = 0) ∧
      (∀ ch, d.chan ch = {}) ∧
      (SMap.wf (fun _ => {}) s.chip.sax.sas = true → ∀ i, d.sa i = { generation := (s.chip.sa i).generation }) ∧ d.pnl.pin = none ∧
      (∀ m, m < 0x30000000 → d.memGet m = 0) ∧ d.vlt.owners = s.chip.vlt.owners := by
  have hspec : ∀ (c : Chip) (n : Nat), c.ctl.zeroizing = none →
      (c.zeroizeStart n false).ctl.zeroizing = some (n, c.nowUs) ∧ c.destroyed (c.zeroizeStart n false) := fun c n hz => by
    obtain ⟨hdes, hctl, -⟩ := Chip.zeroizeStart_spec hz n false
    exact ⟨by rw [hctl], hdes⟩
  rcases h with rfl | rfl
  · obtain ⟨hctl, hdes⟩ := hspec s.chip 4 hz
    exact completes_eq rfl (if_pos hp) ⟨⟨4, hctl⟩, Chip.destroyed_spec hdes⟩ (by rw [hdes.vlt]; rfl)
  · obtain ⟨hctl, hdes⟩ := hspec (s.chip.setFlag 14) 5 hz
    exact completes_eq rfl (if_pos hp) ⟨⟨5, hctl⟩, Chip.destroyed_spec (c := s.chip.setFlag 14) hdes⟩ (by rw [hdes.vlt]; rfl)

theorem zeroizationComplete_erased {cause from' : Nat} (hz : s.chip.ctl.zeroizing = some (cause, from')) (hcause : cause ≠ 6)
    (hin : s.chip.inMode [.erased, .wake] = false) :
    completes .zeroizationComplete s fun d =>
      d.ctl.zeroizing = none ∧ d.ctl.mode = .erased ∧ (∀ i, (d.slot i).state = 0) ∧ d.vlt.sealA = none := by
  obtain ⟨y, hy, hend⟩ := Chip.zeroizeEnd_spec hz
  have hymode : y.ctl.mode = .erased := by rw [hy.mode, hin, if_neg Bool.false_ne_true]
  obtain ⟨⟨o, p, hvlt⟩, hctl⟩ := y.transferEnd_keeps
  have hdone : s.chip.zeroizeEnd = y.transferEnd := by rw [hend, decide_eq_false hcause, Chip.when_false]
  rw [completes_iff (f := Chip.zeroizeEnd) rfl]
  refine ⟨?_, ?_, fun i => ?_, ?_⟩
  · rw [Chip.after_ctl, hdone, hctl]
    exact hy.zeroizing
  · rw [Chip.after_ctl, hdone, hctl]
    exact hymode
  · rw [Chip.slot, Chip.after_vlt, hdone, hvlt]
    exact Chip.slot_freed hy.vlt i
  · rw [Chip.after_vlt, hdone, hvlt, hy.vlt]
    rfl

theorem tamperClear_clears {mask note : Word} (hfree : s.chip.orderFree) (hmode : s.chip.inMode [.provision, .maintenance] = true)
    (hnote : note.toNat ≤ 1) (hauth : s.chip.authHere 4 = true) (hlogs : s.chip.logs) (hmask : mask &&& BitVec.ofNat 32 s.chip.flt.cause = 0) :
    completes (.tamperClear mask note) s fun d =>
      d.flt = { s.chip.flt with flags := s.chip.flt.flags &&& ~~~mask } ∧ d.ctl = { s.chip.ctl with auth := none } ∧
      d.eng.note = (if note = 1 then [] else s.chip.eng.note) ∧ d.ord.res = {} ∧
      s.chip.logged d [⟨Ev.TAMPER_CLEARED, 0x04F, [(4, s.chip.flt.flags.toNat), (4, mask.toNat), (4, note.toNat)], false⟩] := by
  let x := (s.chip.spendAuth).modFlt fun f => { f with flags := s.chip.flt.flags &&& ~~~mask }
  obtain ⟨y, hy⟩ : ∃ y, (x.when (note = 1) fun c => c.modEng fun e => { e with note := [] }) = y := ⟨_, rfl⟩
  have hnoted : y = { x with eng := { s.chip.eng with note := if note = 1 then [] else s.chip.eng.note } } := by
    rw [← hy]
    by_cases h : note = 1
    · simp only [h, decide_true, Chip.when_true, if_true]
      rfl
    · simp only [h, decide_false, Chip.when_false, if_false]
      rfl
  have hsaid := Chip.raise_logs (c := y) (code := Ev.TAMPER_CLEARED) (src := 0x04F)
    (items := [(4, s.chip.flt.flags.toNat), (4, mask.toNat), (4, note.toNat)]) (by rw [hnoted]; exact hlogs) (by decide)
  have hf : tamperClear mask note s.chip = (y.raise Ev.TAMPER_CLEARED 0x04F
      [(4, s.chip.flt.flags.toNat), (4, mask.toNat), (4, note.toNat)], some {}) := by
    refine (inModes_of hmode _).trans ?_
    simp only [if_neg (show ¬ 1 < note.toNat by omega), hauth, Bool.not_true, Bool.false_eq_true, if_false, hmask, ne_eq,
      not_true_eq_false]
    rw [← hy]
  rw [hsaid] at hf
  refine completes_order rfl hfree hf ?_ (by rw [hnoted]; rfl) ⟨by rw [hnoted]; rfl, by rw [hnoted]; rfl, by rw [hnoted]; rfl, rfl, by
    rw [hnoted]; rfl⟩
  rw [hnoted]
  exact hfree.quiet

theorem tamperClear_present {mask note : Word} (hfree : s.chip.orderFree) (hmode : s.chip.inMode [.provision, .maintenance] = true)
    (hnote : note.toNat ≤ 1) (hauth : s.chip.authHere 4 = true) (hmask : mask &&& BitVec.ofNat 32 s.chip.flt.cause ≠ 0) :
    completes (.tamperClear mask note) s fun d => d = s.chip.ended { status := 0x8C } := by
  refine completes_order (d := s.chip) (r := .of 0x8C) rfl hfree ((inModes_of hmode _).trans ?_) hfree.quiet rfl rfl
  simp only [if_neg (show ¬ 1 < note.toNat by omega), hauth, Bool.not_true, Bool.false_eq_true, if_false, if_pos hmask]

end

/-- Settles O51: an alarm latches before it is answered, so that whatever its response does, cause and flag stand; the temperature
monitor's alarms likewise rise before its conditions end. -/
theorem alarmsAndZeroization : Obligations.AlarmsAndZeroization := by
  unfold Obligations.AlarmsAndZeroization
  intro s src clk a b mask note
  refine ⟨?_, alarmCauseClear_completes, meshBreach_completes, fun hon => ⟨meshPatternCheck_good hon, meshPatternCheck_bad hon⟩,
    tempSample_inside, tempSample_cold, fun trig => zeroization_other, fun hp hz trig => zeroization_starts hp hz,
    fun cause from' hz hcause _ hin => zeroizationComplete_erased hz hcause hin, ?_⟩
  · intro hset hp hz hlogs hclk
    exact ⟨alarmRaise_recorded hset hp hz hclk hlogs, alarmRaise_lockdown hset hp hz hclk, alarmRaise_zeroizes hset hp hz hclk⟩
  · intro hfree hmode hnote hauth hlogs
    exact ⟨tamperClear_clears hfree hmode hnote hauth hlogs, tamperClear_present hfree hmode hnote hauth⟩

end Sys2Proof.Machine

/-! PROOFS. The end of an entry across the wrap of the elapsed-time count (R196, R463, R466). -/
namespace Sys2Proof.Machine

/-- A block in ACTIVE at the last instant of the elapsed-time count, with one digit entered now and a lockout that has just ended. -/
def lastInstant : State := {
  chip := {
    ctl := { mode := .active }, evr := { started := true }, tim := { elapsed := BitVec.allOnes 64 }
    pnl := { entry := [0], released := 2 ^ 64 - 1, lockEnds := some (2 ^ 64 - 1) } } }

/-- The entry's end lies past the wrap, where the lockout is ahead again: the entry is dropped, and no failure is counted. -/
theorem pinEntryEnd_lastInstant : completes .pinEntryEnd lastInstant fun d => d.pnl.fails = 0 := by
  rw [completes_iff rfl]
  decide +kernel

/-- Refutes O52: its clause on an entry that ends has no bound on the instant of the last release; in `lastInstant` the 2 s end
past the wrap of the 64-bit count, and the keypad that took the digit is locked when the entry is judged. -/
theorem not_panelInputsAndPin : ¬ Obligations.PanelInputsAndPin := by
  unfold Obligations.PanelInputsAndPin
  intro h
  obtain ⟨-, -, -, -, -, -, -, -, -, hentry, -⟩ := h lastInstant 0 0 0
  obtain ⟨-, hjudged, -⟩ := hentry (by decide) (by decide +kernel) ⟨rfl, by decide⟩
  obtain ⟨d, hpost, hnone⟩ := completes_unique (hjudged rfl) pinEntryEnd_lastInstant
  rw [if_neg (by decide +kernel)] at hpost
  obtain ⟨-, -, hfails, -⟩ := hpost
  exact absurd (hfails.symm.trans hnone) (by decide)

end Sys2Proof.Machine

/-! PROOFS. The fill port (R468 to R473). -/
namespace Sys2Proof.Machine

/-! ### Frames that the port takes -/

/-- The port takes a frame: main power, a start that is over, a device that is present (R470, R473). -/
abbrev Chip.fillTakes (c : Chip) : Prop := c.powered = true ∧ c.inMode [.wake] = false ∧ c.filt 6 = true

section
variable {c : Chip}

theorem Chip.fillTake_of (h : c.fillTakes) (test : Byte) (f : Chip → Chip) :
    c.fillTake test f = if test ≠ 0 then c.fillNak test else f c := by
  obtain ⟨hp, hw, hdev⟩ := h
  simp only [Chip.fillTake, hp, hw, hdev, Bool.not_true, Bool.or_self, Bool.false_eq_true, if_false]

theorem Chip.fillTake_passes (h : c.fillTakes) {test : Byte} (ht : test = 0) (f : Chip → Chip) : c.fillTake test f = f c := by
  rw [Chip.fillTake_of h, if_neg (not_not_intro ht)]

theorem Chip.fillTake_refuses (h : c.fillTakes) {test reason : Byte} (ht : test = reason) (hr : reason ≠ 0) (f : Chip → Chip) :
    c.fillTake test f = c.fillNak reason := by
  rw [Chip.fillTake_of h, ht, if_pos hr]

end

/-! ### Answers -/

/-- A refusal goes out and is counted. -/
abbrev Chip.refusesFill (c d : Chip) (reason : Byte) : Prop :=
  d.out = c.out ++ [.fill (fillFrame 4 [reason])] ∧ c.bumped d F.CRF_FILL_CNT_naks [] ∧ d.pnl = { c.pnl with nakAt := some c.now }

/-- An acknowledgement goes out and is counted. -/
abbrev Chip.answersFill (c d : Chip) (p : Bytes) : Prop :=
  d.out = c.out ++ [.fill (fillFrame 3 p)] ∧ c.bumped d F.CRF_FILL_CNT_frames [] ∧ d.vlt = c.vlt

theorem Chip.fillNak_refuses (c : Chip) (reason : Byte) : c.refusesFill (c.fillNak reason) reason ∧ (c.fillNak reason).vlt = c.vlt := by
  rw [Chip.fillNak]
  obtain ⟨y, hy⟩ : ∃ y, ((c.bump F.CRF_FILL_CNT_naks []).emit (.fill (fillFrame 4 [reason]))).modPnl
    (fun p => { p with nakAt := some c.now }) = y := ⟨_, rfl⟩
  have hraise := (Chip.loses.refl y).raise (code := Ev.FILL_NAK) (by decide) 0x0A6 []
  have hout : (y.raise Ev.FILL_NAK 0x0A6).out = y.out := Chip.raise_out ..
  have hpnl : (y.raise Ev.FILL_NAK 0x0A6).pnl = y.pnl := Chip.raise_pnl ..
  have hvlt : (y.raise Ev.FILL_NAK 0x0A6).vlt = y.vlt := Chip.raise_vlt ..
  rw [hy]
  generalize y.raise Ev.FILL_NAK 0x0A6 = d at hraise hout hpnl hvlt
  have hyget : y.getF F.CRF_FILL_CNT_naks [] = (c.bump F.CRF_FILL_CNT_naks []).getF F.CRF_FILL_CNT_naks [] := by subst hy; rfl
  refine ⟨⟨hout.trans (by subst hy; rfl), ?_, hpnl.trans (by subst hy; rfl)⟩, hvlt.trans (by subst hy; rfl)⟩
  rw [Chip.bumped, hraise.getF (by decide), hyget]
  exact c.bumped_bump _ _ (by decide)

theorem Chip.fillAck_answers (c : Chip) (p : Bytes) : c.answersFill (c.fillAck p) p :=
  ⟨rfl, (c.bumped_bump _ _ (by decide)), rfl⟩

section
variable {s : State} {payload : Bytes}

/-- A frame that is refused. -/
theorem fill_refused {i : Instr} {test : Chip → Byte} {reason : Byte} {f : Chip → Chip}
    (hexec : exec i s = lift (fun c => c.fillTake (test c) f) s) (h : s.chip.fillTakes) (ht : test s.chip = reason)
    (hr : reason ≠ 0) : completes i s fun d => s.chip.refusesFill d reason := by
  obtain ⟨hpost, hvlt⟩ := s.chip.fillNak_refuses reason
  exact completes_eq hexec (Chip.fillTake_refuses h ht hr f) hpost (by rw [hvlt])

/-- The three frames with one refusal by the tests that every frame meets. -/
theorem fill_allRefused {crc : Bool} {reason : Byte} (h : s.chip.fillTakes) (ht : ∀ ok, s.chip.fillTest crc ok = reason)
    (hr : reason ≠ 0) : completes (.fillHello crc payload) s (fun d => s.chip.refusesFill d reason) ∧
      completes (.fillBye crc payload) s (fun d => s.chip.refusesFill d reason) ∧
      completes (.fillKeyblob crc payload) s fun d => s.chip.refusesFill d reason :=
  ⟨fill_refused rfl h (ht _) hr, fill_refused rfl h (ht _) hr, fill_refused rfl h (ht _) hr⟩

theorem fillTest_disabled (hen : s.chip.getB F.CRF_FILL_CFG_en [] = false) (crc ok : Bool) : s.chip.fillTest crc ok = 7 := by
  rw [Chip.fillTest, hen]
  rfl

theorem fillTest_checksum (hen : s.chip.getB F.CRF_FILL_CFG_en [] = true) (ok : Bool) : s.chip.fillTest false ok = 1 := by
  rw [Chip.fillTest, hen]
  rfl

theorem fillTest_good (hen : s.chip.getB F.CRF_FILL_CFG_en [] = true) {ok : Bool} (hok : ok = true) : s.chip.fillTest true ok = 0 := by
  rw [Chip.fillTest, hen, hok]
  rfl

theorem fillHello_stray (hp : s.chip.powered = true) (hw : s.chip.inMode [.wake] = false) (hdev : s.chip.filt 6 = false) :
    completes (.fillHello true payload) s fun d =>
      s.chip.bumped d F.CRF_FILL_CNT_stray [] ∧ d.out = s.chip.out ∧ d.pnl = s.chip.pnl := by
  refine completes_eq (d := s.chip.bump F.CRF_FILL_CNT_stray []) rfl ?_ ⟨s.chip.bumped_bump _ _ (by decide), rfl, rfl⟩ rfl
  simp only [Chip.fillTake, hp, hw, hdev, Bool.not_true, Bool.or_self, Bool.false_eq_true, if_false, Bool.not_false, if_true]

variable (h : s.chip.fillTakes) (hen : s.chip.getB F.CRF_FILL_CFG_en [] = true)
include h hen

theorem fillHello_answered : completes (.fillHello true []) s fun d =>
    s.chip.answersFill d (beBytes 8 Config.deviceId.toNat ++ [BitVec.ofNat 8 (modeCode s.chip.ctl.mode),
      BitVec.ofNat 8 (b2n (s.chip.inMode [.provision, .active]) + 2 * b2n s.chip.clearAccepted + 4 * b2n s.chip.heldBlob.isSome)]) ∧
    d.pnl = { s.chip.pnl with session := true, answering := none } :=
  completes_eq rfl (Chip.fillTake_passes h (fillTest_good hen rfl) Chip.fillHello)
    ⟨(s.chip.modPnl fun p => { p with session := true, answering := none }).fillAck_answers _, rfl⟩ rfl

theorem fillBye_answered : completes (.fillBye true []) s fun d =>
    s.chip.answersFill d [] ∧ d.pnl = { s.chip.pnl with session := false, answering := none } ∧ d.evr = s.chip.evr := by
  refine completes_eq (d := (s.chip.fillAck []).modPnl fun p => { p with session := false, answering := none }) rfl
    ((Chip.fillTake_passes h (fillTest_good hen rfl) _).trans ?_) ⟨s.chip.fillAck_answers [], rfl, rfl⟩ rfl
  simp only [Chip.sessionEnd, Bool.not_true, Bool.and_false, Chip.when_false]

variable (hne : payload ≠ []) (hlen : payload.length ≤ 512)
include hne hlen

/-- A blob goes on to the tests of its own. -/
theorem fillKeyblob_tested {post : Chip → Prop} (hown : (s.chip.fillBlob payload).vlt = s.chip.vlt)
    (hpost : post (s.chip.fillBlob payload)) : completes (.fillKeyblob true payload) s post :=
  completes_eq rfl (Chip.fillTake_passes h (fillTest_good hen (by simp [hne, hlen])) fun c => c.fillBlob payload) hpost (by rw [hown])

theorem fillKeyblob_refused {reason : Byte} (ht : s.chip.blobTest payload = reason) (hr : reason ≠ 0) :
    completes (.fillKeyblob true payload) s fun d => s.chip.refusesFill d reason := by
  have hblob : s.chip.fillBlob payload = s.chip.fillNak reason := by
    simp only [Chip.fillBlob, ht, if_pos hr]
  obtain ⟨hpost, hvlt⟩ := s.chip.fillNak_refuses reason
  exact fillKeyblob_tested h hen hne hlen (hblob ▸ hvlt) (hblob ▸ hpost)

theorem fillKeyblob_answered (ht : s.chip.blobTest payload = 0) :
    completes (.fillKeyblob true payload) s fun d =>
      s.chip.answersFill d (beBytes 8 (digest64 payload).toNat) ∧
      d.pnl = { s.chip.pnl with
        ackAt := some s.chip.now, answering := some { clear := payload.head? = some 1, data := payload.drop 1, ends := 0 } } := by
  have hblob : s.chip.fillBlob payload = (s.chip.modPnl fun p => { p with
      answering := some { clear := payload.head? = some 1, data := payload.drop 1, ends := 0 }
      ackAt := some s.chip.now }).fillAck (beBytes 8 (digest64 payload).toNat) := by
    simp only [Chip.fillBlob, ht, ne_eq, not_true_eq_false, if_false]
  refine fillKeyblob_tested h hen hne hlen ?_ ?_ <;> rw [hblob]
  · rfl
  · exact ⟨Chip.fillAck_answers _ _, rfl⟩

end

section
variable {s : State} {payload : Bytes}

theorem blobTest_session (hs : s.chip.pnl.session = false) : s.chip.blobTest payload = 3 := by
  rw [Chip.blobTest, hs]
  rfl

theorem blobTest_mode (hs : s.chip.pnl.session = true) (hm : s.chip.inMode [.provision, .active] = false) :
    s.chip.blobTest payload = 4 := by
  rw [Chip.blobTest, hs, hm]
  rfl

theorem blobTest_clear (hs : s.chip.pnl.session = true) (hm : s.chip.inMode [.provision, .active] = true)
    (hc : payload.head? = some 1) (ha : s.chip.clearAccepted = false) : s.chip.blobTest payload = 5 := by
  rw [Chip.blobTest, hs, hm, hc, ha]
  rfl

theorem blobTest_form (hs : s.chip.pnl.session = true) (hm : s.chip.inMode [.provision, .active] = true)
    (hc : payload.head? ≠ some 1 ∨ s.chip.clearAccepted = true) :
    s.chip.blobTest payload = if fillForm payload then 0 else 6 := by
  have hclear : (decide (payload.head? = some 1) && !s.chip.clearAccepted) = false := by
    rcases hc with h | h
    · rw [decide_eq_false h, Bool.false_and]
    · rw [h, Bool.not_true, Bool.and_false]
  rw [Chip.blobTest, hs, hm, hclear]
  cases fillForm payload <;> rfl

/-! ### The session and the blob -/

theorem fillAnswerEnd_completes {b : FillBlob} (hb : s.chip.pnl.answering = some b) (hlogs : s.chip.logs) :
    completes .fillAnswerEnd s fun d =>
      d.pnl = { s.chip.pnl with
        answering := none, held := some { b with ends := s.chip.now + s.chip.getF F.CRF_FILL_CFG_hold [] * 1000000000 } } ∧
      s.chip.logged d [⟨Ev.FILL_BLOB, 0x0A6,
        [(4, b2n b.clear), (8, (digest64 ((if b.clear then 1 else 0) :: b.data)).toNat)], false⟩] := by
  let x := (s.chip.modPnl fun p => { p with
    answering := none
    held := some { b with ends := s.chip.now + s.chip.getF F.CRF_FILL_CFG_hold [] * 1000000000 } }).modOrd fun o => { o with
      heldFill := false }
  have hd : s.chip.answerEnd = x.raise Ev.FILL_BLOB 0x0A6
      [(4, b2n b.clear), (8, (digest64 ((if b.clear then 1 else 0) :: b.data)).toNat)] := by
    simp only [Chip.answerEnd, hb]
    rfl
  exact completes_eq rfl (hd.trans (Chip.raise_logs (c := x) hlogs (by decide))) ⟨rfl, rfl⟩ rfl

/-- A session that ends by anything but BYE is said. -/
theorem Chip.sessionEnd_aborts {c : Chip} (hs : c.pnl.session = true) : c.sessionEnd false =
    (c.modPnl fun p => { p with session := false, answering := none }).raise Ev.FILL_ABORT 0x0A6 := by
  simp only [Chip.sessionEnd, hs, Bool.not_false, Bool.and_self, Chip.when_true]

theorem fillSilenceTimeout_completes (hs : s.chip.pnl.session = true) (hlogs : s.chip.logs) :
    completes .fillSilenceTimeout s fun d =>
      d.pnl = { s.chip.pnl with session := false, answering := none } ∧ s.chip.logged d [⟨Ev.FILL_ABORT, 0x0A6, [], false⟩] :=
  completes_eq rfl ((Chip.sessionEnd_aborts hs).trans (Chip.raise_logs (c := s.chip.modPnl _) hlogs (by decide))) ⟨rfl, rfl⟩ rfl

theorem Chip.panelIn_set (c : Chip) (n : Nat) (x : PanelIn) (k : Nat) :
    (c.setPanelIn n x).panelIn k = if k = n then x else c.panelIn k :=
  SMap.get_set (d := fun _ => ({} : PanelIn)) (m := c.pnl.inputs) (v := x)

/-- A new filtered level of an input that is judged and not held for chatter. -/
theorem Chip.filterChange_new {c : Chip} (hp : c.powered = true) {n : Nat} {active : Bool} (hch : c.chattering n = false)
    (hnew : (c.panelIn n).filt = !active) :
    c.filterChange n active = (c.setPanelIn n { c.panelIn n with filt := active, since := c.now, stuck := false }).inputActs n active
      (c.panelIn n).stuck := by
  have hne : ¬ (c.panelIn n).filt = active := by rw [hnew]; cases active <;> decide
  simp only [Chip.filterChange, Chip.judged, hp, Bool.true_or, Bool.not_true, hch, hne, decide_false, Bool.or_self, Bool.false_eq_true,
    if_false]

variable (hp : s.chip.powered = true) (hw : s.chip.inMode [.wake] = false) (hch : s.chip.chattering 6 = false)
include hp hw hch

/-- The presence of the fill device has changed to `present`. -/
abbrev Chip.presence (c : Chip) (present : Bool) : Chip :=
  c.setPanelIn 6 { c.panelIn 6 with filt := present, since := c.now, stuck := false }

theorem Chip.fillPresence_said {present : Bool} (hnew : s.chip.filt 6 = !present) :
    s.chip.filterChange 6 present = if present then (s.chip.presence present).raise Ev.FILL_PLUG 0x0A6
      else ((s.chip.presence present).raise Ev.FILL_PLUG 0x0A6).sessionEnd false := by
  have hp' : (s.chip.presence present).powered = true := hp
  have hw' : (s.chip.presence present).inMode [.wake] = false := hw
  rw [Chip.filterChange_new hp hch hnew]
  show (s.chip.presence present).fillPresence present = _
  simp only [Chip.fillPresence, hp', hw', Bool.not_true, Bool.or_self, Bool.false_eq_true, if_false]

theorem fillPlug_completes (hdev : s.chip.filt 6 = false) (hlogs : s.chip.logs) :
    completes .fillPlug s fun d =>
      d.filt 6 = true ∧ s.chip.logged d [⟨Ev.FILL_PLUG, 0x0A6, [], false⟩] ∧ d.out = s.chip.out := by
  refine completes_eq rfl ((Chip.fillPresence_said (present := true) hp hw hch hdev).trans
    (Chip.raise_logs (c := s.chip.presence true) hlogs (by decide))) ⟨?_, rfl, rfl⟩ rfl
  have hset := s.chip.panelIn_set 6 { s.chip.panelIn 6 with filt := true, since := s.chip.now, stuck := false } 6
  exact congrArg (·.filt) hset

theorem fillUnplug_completes (hdev : s.chip.filt 6 = true) (hs : s.chip.pnl.session = true) (hlogs : s.chip.logs) :
    completes .fillUnplug s fun d =>
      d.filt 6 = false ∧ d.pnl.session = false ∧
      s.chip.logged d [⟨Ev.FILL_PLUG, 0x0A6, [], false⟩, ⟨Ev.FILL_ABORT, 0x0A6, [], false⟩] ∧ d.pnl.held = s.chip.pnl.held := by
  have hset := s.chip.panelIn_set 6 { s.chip.panelIn 6 with filt := false, since := s.chip.now, stuck := false } 6
  have hd := Chip.fillPresence_said (present := false) hp hw hch hdev
  rw [if_neg Bool.false_ne_true, Chip.raise_logs (c := s.chip.presence false) hlogs (by decide),
    Chip.sessionEnd_aborts (by exact hs), Chip.raise_intake (by exact hlogs.1) (by decide) (by
      show (s.chip.evr.intake ++ _).length < 256
      have := hlogs.2
      simp only [List.length_append, List.length_singleton]
      omega)] at hd
  refine completes_eq rfl hd ⟨?_, rfl, ?_, rfl⟩ rfl
  · exact congrArg (·.filt) hset
  · exact List.append_assoc _ _ _

end

theorem fillBlobExpiry_completes {s : State} {b : FillBlob} (hb : s.chip.pnl.held = some b) (hends : b.ends < 2 ^ 64) :
    completes .fillBlobExpiry s fun d => d.pnl = { s.chip.pnl with held := none } ∧ b.ends ≤ d.now := by
  obtain ⟨hframe, -⟩ := s.chip.reachElapsed_runs b.ends
  have hle := s.chip.le_reachElapsed hends
  have hd : s.chip.blobExpiry = (s.chip.reachElapsed b.ends).modPnl fun p => { p with held := none } := by
    simp only [Chip.blobExpiry, hb]
  generalize s.chip.reachElapsed b.ends = y at hframe hle hd
  refine completes_eq rfl hd ⟨?_, hle⟩ ?_ <;> rw [hframe] <;> rfl

/-- Settles O53: every frame is taken or refused by the same tests, a blob by its own besides. -/
theorem fillPort : Obligations.FillPort := by
  unfold Obligations.FillPort
  intro s payload
  refine ⟨?_, ?_, fillHello_stray, ?_, ?_, ?_, fun b => fillAnswerEnd_completes, fillSilenceTimeout_completes, ?_,
    fun b => fillBlobExpiry_completes⟩
  · exact fun h hen crc => fill_allRefused h (fillTest_disabled hen crc) (by decide)
  · exact fun ⟨h, hen⟩ => fill_allRefused h (fillTest_checksum hen) (by decide)
  · exact fun ⟨h, hen⟩ => fillHello_answered h hen
  · exact fun ⟨h, hen⟩ => fillBye_answered h hen
  · rintro ⟨h, hen⟩ hne hlen
    refine ⟨fun hs => ?_, fun hs hm => ?_, fun hs hm hc ha => ?_, fun hs hm hc => ⟨fun hf => ?_, fun hf => ?_⟩⟩
    · exact fillKeyblob_refused h hen hne hlen (blobTest_session hs) (by decide)
    · exact fillKeyblob_refused h hen hne hlen (blobTest_mode hs hm) (by decide)
    · exact fillKeyblob_refused h hen hne hlen (blobTest_clear hs hm hc ha) (by decide)
    · exact fillKeyblob_refused h hen hne hlen ((blobTest_form hs hm hc).trans (by rw [hf]; rfl)) (by decide)
    · exact fillKeyblob_answered h hen hne hlen ((blobTest_form hs hm hc).trans (by rw [hf]; rfl))
  · exact fun hp hw hch hlogs => ⟨fun hdev => fillPlug_completes hp hw hch hdev hlogs,
      fun hdev hs => fillUnplug_completes hp hw hch hdev hs hlogs⟩

end Sys2Proof.Machine

/-! PROOFS. A rise above the highest grade (R409). -/
namespace Sys2Proof.Machine

/-- A block in ACTIVE at the highest grade, 200 ms old, whose table of holds names a grade 8. -/
def heldBeyondSeven : State := {
  chip := {
    ctl := { mode := .active }, evr := { started := true }, tim := { elapsed := 200000000 }
    prs := { grade := 7, held := [(8, some 0)] } } }

/-- The hold of grade 8 is over, so a grade takes effect: 0, since the holds of the grades to 7 have just begun. -/
theorem gradeRise_heldBeyondSeven : completes (.gradeRise false) heldBeyondSeven fun d => d.prs.grade = 0 := by
  rw [completes_iff rfl]
  decide +kernel

/-- Refutes O54: its clause on GRADE_RISE where the conditions allow no more than the present grade says that the grade stays;
in `heldBeyondSeven`, of grade 7, the table of holds has an entry for grade 8 (no range is asked of it), and the grade falls to 0. -/
theorem not_healthAndClaim : ¬ Obligations.HealthAndClaim := by
  unfold Obligations.HealthAndClaim
  intro h
  obtain ⟨-, -, -, -, -, hrise, -⟩ := h heldBeyondSeven false 0 0 []
  obtain ⟨hstays, -⟩ := hrise (by decide)
  obtain ⟨d, ⟨-, hseven, -⟩, hzero⟩ := completes_unique (hstays (by decide +kernel)) gradeRise_heldBeyondSeven
  exact absurd (hseven.symm.trans hzero) (by decide)

end Sys2Proof.Machine

/-! PROOFS. The session of the pair link at a holder whose link was not in use (R413, R418). -/
namespace Sys2Proof.Machine

/-- The keys of a session that has sent nothing. -/
def freshSession : LinkSession := { txKey := 5, rxKey := 6, txSalt := 7, rxSalt := 8 }

/-- The job of key sequencer engine 1 that starts `freshSession` on the pair link, under the key of slot 100. -/
def freshSessionJob : LinkJob := .session 2 100 1 freshSession 3 77

/-- A HELLO that says nothing; the clause on a last request does not read it. -/
def blankHello : PeerHello := {
  deviceId := 0, stack := 0, domain := 0, stackId := 0, pairRole := false, ownerHash := 0, kcv := 0, salt := 0 }

/-- The request that `freshSessionJob` waits for. -/
def freshSessionRequest : PanReq := { kind := .cmac, pan := 2, slot := 100, gen := 1, subject := 1, blocks := 4 }

/-- A holder whose pair link is not in use, at the last request of `freshSessionJob`. -/
def holderStartsSession : State := {
  chip := (({
    ctl := { mode := .active }, evr := { started := true }, prs := { jobs := [freshSessionJob], jobOn := true }
    pan := { reqs := [(7, some freshSessionRequest)] } } :
      Chip).setF F.PRS_STAT_holding [] 1).setSlot 100 { state := 1, generation := 1, type := 2, count := 9 } }

/-- The link enters SYNCING, and the bulk copy that the holder sends at once is the first frame of the session. -/
theorem cmacComplete_holderStartsSession : completes (.cmacComplete 1) holderStartsSession fun d =>
    (SMap.get (fun _ => none) d.prs.sessions 2).map LinkSession.seq = some 2 := by
  rw [completes_iff rfl]
  decide +kernel

/-- Refutes O55: its clause on a session that starts says that the link's session is the one that the job made; in
`holderStartsSession` the same step sends the bulk copy under it, so that its link sequence has gone on. -/
theorem not_pairLinkAndCopy : ¬ Obligations.PairLinkAndCopy := by
  unfold Obligations.PairLinkAndCopy
  intro h
  obtain ⟨-, -, hlast, -⟩ := h holderStartsSession blankHello 0 2 0 100 0 {} 0
  obtain ⟨hsession, -⟩ := hlast 7 freshSessionRequest freshSession 1 3 77 [] (by decide +kernel) (by decide +kernel) (by decide +kernel) rfl
  obtain ⟨hstarts, -⟩ := hsession rfl
  obtain ⟨d, ⟨hfresh, -⟩, hsent⟩ := completes_unique (hstarts (by decide +kernel)) cmacComplete_holderStartsSession
  have hfresh : SMap.get (fun _ => none) d.prs.sessions 2 = some freshSession := hfresh
  rw [hfresh] at hsent
  exact absurd hsent (by decide)

end Sys2Proof.Machine

/-! PROOFS. The end of an order block (R342, Table 13.6). -/
namespace Sys2Proof.Machine

/-! ### What a completion changes -/

/-- A completion changes the host interface and what is given, whatever its ring. -/
theorem Chip.ringComplete_frame (c : Chip) (r : Nat) (entry : Bytes) :
    c.ringComplete r entry = { c with hif := (c.ringComplete r entry).hif, out := (c.ringComplete r entry).out } := by
  obtain ⟨y, hy⟩ : ∃ y, c.setRing r { c.ring r with reserved := (c.ring r).reserved - 1 } = y := ⟨_, rfl⟩
  have hyeq : y = { c with hif := y.hif } := by rw [← hy]; rfl
  rw [Chip.ringComplete, hy, Chip.ringPush]
  split_ifs
  · rcases hown : y.ringOwner r with _ | fn
    · rw [hyeq]
    · simp only
      generalize Output.hostWrite fn _ entry = o
      have hdma := (Chip.gives.refl y).dma fn o
      have hdown : (y.dma fn o).ringOwner r = some fn := by
        rw [← hown, hdma.1]
        rfl
      generalize y.dma fn o = z at hdma hdown ⊢
      rw [(Chip.ringAdvance_gives hdown 1).1, Chip.setRing, hdma.1, hyeq]
  · rw [hyeq]

/-- The order engine once its block has ended. -/
abbrev OrdEng.blockEnded (o : OrdEng) (status detail ret : Nat) : OrdEng :=
  { o with
    staged := [], regWrites := [], stagedKsq := [], heldFill := false, busy := false, wait := .none, callReg := none, owait := none
    ended := none, relay := false, cmacOut := none, discardCompletion := false
    res := { status := status, detail := detail, ret := some ret } }

/-- A block has ended with a result: it is counted, and what else has changed is the host interface, the links, and what is given. -/
structure Chip.blockGone (c d : Chip) (status detail ret : Nat) : Prop where
  frame : d = { c with regs := d.regs, ord := d.ord, hif := d.hif, prs := d.prs, out := d.out }
  ord : d.ord = c.ord.blockEnded status detail ret
  regs : d.regs = (c.bump F.ORD_BLK_CNT_count []).regs

namespace Chip.blockGone

variable {a c : Chip} {status detail ret : Nat} (h : a.blockGone c status detail ret)
include h

theorem linkSend (port kind : Nat) (clear body : Bytes) : a.blockGone (c.linkSend port kind clear body) status detail ret := by
  obtain ⟨hframe, hord, hregs⟩ := h
  simp only [Chip.linkSend]
  split
  · exact ⟨hframe, hord, hregs⟩
  · refine ite_cases (P := fun d => a.blockGone d status detail ret) ⟨hframe, hord, hregs⟩ ⟨?_, hord, hregs⟩
    rw [hframe]
    rfl

theorem modHif (f : HostIf → HostIf) : a.blockGone (c.modHif f) status detail ret := by
  obtain ⟨hframe, hord, hregs⟩ := h
  refine ⟨?_, hord, hregs⟩
  rw [hframe]
  rfl

theorem ringComplete (r : Nat) (entry : Bytes) : a.blockGone (c.ringComplete r entry) status detail ret := by
  obtain ⟨hframe, hord, hregs⟩ := h
  have hdone := c.ringComplete_frame r entry
  generalize c.ringComplete r entry = d at hdone ⊢
  refine ⟨?_, ?_, ?_⟩
  · rw [hdone, hframe]
  · rw [hdone, hord]
  · rw [hdone, hregs]

theorem bumped : a.bumped c F.ORD_BLK_CNT_count [] := by
  have hcounted := a.bumped_bump F.ORD_BLK_CNT_count [] (by decide)
  rwa [Chip.bumped, ← Chip.getF_congr h.regs] at hcounted

end Chip.blockGone

/-- The end of a block, whichever way its result goes. -/
theorem Chip.blockDone_gone (c : Chip) (status detail index ret : Nat) :
    c.blockGone (c.blockDone status detail index ret) status detail ret := by
  have hcounted : c.blockGone ((c.discardStaged.modOrd fun o => { o with
      busy := false, wait := .none, callReg := none, owait := none, ended := none, relay := false, heldFill := false,
      cmacOut := none, discardCompletion := false, res := { status := status, detail := detail, ret := some ret } }).bump
      F.ORD_BLK_CNT_count []) status detail ret := ⟨rfl, rfl, rfl⟩
  simp only [Chip.blockDone]
  split_ifs
  · exact hcounted.linkSend _ _ _ _
  · exact hcounted.modHif _
  · exact hcounted.ringComplete _ _

/-! ### A block that a ring has given -/

/-- The block's fields in the order engine once its descriptor is there (Table 13.4). -/
abbrev OrdEng.took (o : OrdEng) (ring : Nat) (desc : Bytes) : OrdEng :=
  { o with
    busy := true, ring := ring, lastRing := ring, cookie := BitVec.ofNat 64 (leNat (slice desc 16 8)), entry := leNat (slice desc 0 1)
    paramLen := leNat (slice desc 4 4), pos := 0, index := 0, lastRet := 0, res := {}, relay := false }

/-- A ring of `c` has given a block, which stands in the order engine of `z`. -/
structure Chip.gaveBlock (c z : Chip) (ring : Fin 4) (desc : Bytes) : Prop where
  frame : z = { c with ord := c.ord.took ring desc, hif := z.hif, mem := z.mem, out := z.out }
  fetched : (z.ring ring.val).own = (c.ring ring.val).own + 1
  pair : (z.ring (ring.val + 4)).own = (c.ring (ring.val + 4)).own
  bme : z.hif.bme = c.hif.bme

/-- The place of the next completion in an order completion ring. -/
abbrev Chip.completionAt (c : Chip) (ring : Fin 4) : Nat :=
  c.ringBase (ring.val + 4) + (c.ring (ring.val + 4)).own.toNat % c.ringSize (ring.val + 4) * 32

theorem pairedRing_order (ring : Fin 4) : pairedRing ring.val = ring.val + 4 := if_pos ring.isLt

theorem ringEntry_order (ring : Fin 4) : ringEntry ring.val = 32 ∧ ringEntry (ring.val + 4) = 32 := by
  revert ring
  decide

/-- The registers of the rings are not the count of the blocks. -/
theorem ringKey_other {f : Fld} {r : Nat} (hr : r < 256) (hb : f.base < 0x025000 * 32) (hs : f.strides = [0x40 * 32]) :
    f.key [r] ≠ F.ORD_BLK_CNT_count.key [] := by
  simp only [Fld.key, hs, dotStrides, F.ORD_BLK_CNT_count]
  omega

/-- A block that ends with nothing staged completes in its ring. -/
theorem Chip.gaveBlock.ends {c z d : Chip} {ring : Fin 4} {desc : Bytes} (h : c.gaveBlock z ring desc) {status index : Nat}
    (hd : z.blockDone status 0 index 0 = d) (hdma : c.dmaAllowed 0 = true) (hen : c.ringEn (ring.val + 4) = true)
    (hstaged : c.ord.staged = []) (hwrites : c.ord.regWrites = []) (hkeep : c.ord.discardCompletion = false) :
    d.ord.busy = false ∧ d.ord.res.status = status ∧ c.bumped d F.ORD_BLK_CNT_count [] ∧ d.ord.lastRing = ring.val ∧
      (d.ring ring.val).own = (c.ring ring.val).own + 1 ∧ (d.ring (ring.val + 4)).own = (c.ring (ring.val + 4)).own + 1 ∧
      .hostWrite 0 (c.completionAt ring)
        (ordCompletion (BitVec.ofNat 64 (leNat (slice desc 16 8))) status index false 0 0) ∈ d.out ∧ d.vlt = c.vlt := by
  obtain ⟨hframe, hfetched, hpair, hbme⟩ := h
  have hord : z.ord = c.ord.took ring.val desc := by rw [hframe]
  have hzregs : z.regs = c.regs := by rw [hframe]
  obtain ⟨hdframe, hdord, hdregs⟩ := hd ▸ z.blockDone_gone status 0 index 0
  obtain ⟨w, hw⟩ : ∃ w, ordCompletion (BitVec.ofNat 64 (leNat (slice desc 16 8))) status index false 0 0 = w := ⟨_, rfl⟩
  obtain ⟨y, hy⟩ : ∃ y, (z.discardStaged.modOrd fun o => { o with
      busy := false, wait := .none, callReg := none, owait := none, ended := none, relay := false, heldFill := false,
      cmacOut := none, discardCompletion := false, res := { status := status, detail := 0, ret := some 0 } }).bump
      F.ORD_BLK_CNT_count [] = y := ⟨_, rfl⟩
  have hdone : y.ringComplete (ring.val + 4) w = d := by
    rw [← hd, Chip.blockDone]
    simp only [Chip.hasStaged, hord, hstaged, hwrites, hkeep, hy, hw, List.isEmpty_nil, Bool.and_self, Bool.not_true, if_false,
      Bool.false_eq_true]
  have hycounted : ∀ (f : Fld) (i : List Nat), f.key i ≠ F.ORD_BLK_CNT_count.key [] → y.getF f i = c.getF f i := by
    intro f i hf
    have hyz : y.getF f i = z.getF f i := by
      rw [← hy, Chip.bump, Chip.getF_setF_other _ _ (by decide) hf]
      exact Chip.getF_congr rfl f i
    rw [hyz, Chip.getF_congr hzregs]
  have hyhif : y.hif = z.hif := by rw [← hy]; rfl
  have hyring : ∀ k, y.ring k = z.ring k := fun k => by rw [Chip.ring, hyhif]; rfl
  have hydma : y.dmaAllowed 0 = true := by
    rw [← hdma]
    simp only [Chip.dmaAllowed, hyhif, hbme, Chip.getB, hycounted F.HIF_IDE_CFG_required [] (by decide),
      hycounted F.HIF_IDE_STAT_state [] (by decide)]
  have hyreg : ∀ f : Fld, f.base < 0x025000 * 32 → f.strides = [0x40 * 32] →
      y.getF f [ring.val + 4] = c.getF f [ring.val + 4] :=
    fun f hb hs => hycounted f _ (ringKey_other (by omega) hb hs)
  have hyen : y.ringEn (ring.val + 4) = true := by
    rw [← hen]
    simp only [Chip.ringEn, Chip.getB, hyreg F.HIF_RING_CFG_en (by decide) rfl]
  have hother : d.ring ring.val = y.ring ring.val := by rw [← hdone, Chip.ringComplete_other _ _ (by omega)]
  obtain ⟨-, hdring, hgiven, -⟩ := Chip.ringComplete_spec hdone hyen (fn := 0) (if_pos (by omega)) hydma
  refine ⟨by rw [hdord], by rw [hdord], ?_, by rw [hdord, hord], ?_, ?_, ?_, ?_⟩
  · rw [Chip.bumped, ← Chip.getF_congr hzregs, Chip.getF_congr hdregs]
    exact z.bumped_bump F.ORD_BLK_CNT_count [] (by decide)
  · rw [hother, hyring, hfetched]
  · rw [hdring, hyring, hpair]
  · rw [hyring, hpair, (ringEntry_order ring).2] at hgiven
    simp only [Chip.ringBase, Chip.ringSize, hyreg F.HIF_RING_BASE_HI_base (by decide) rfl,
      hyreg F.HIF_RING_BASE_LO_base (by decide) rfl, hyreg F.HIF_RING_CFG_log2size (by decide) rfl] at hgiven
    exact hw ▸ hgiven
  · rw [hdframe, hframe]

end Sys2Proof.Machine

/-! PROOFS. The blocks of the order rings, relayed lists, and the last record of a block (R339, R341 to R343, R429). -/
namespace Sys2Proof.Machine

/-! ### A block that is taken from its ring -/

/-- What the engine makes of the block it has taken: it ends with MODE after a failed start, with BAD_ORDER when its descriptor is
malformed, or starts. -/
def Chip.judgeBlock (z : Chip) (desc params : Bytes) : Chip :=
  let len := leNat (slice desc 4 4)
  if z.su.failed then z.blockDone 0x40 0 0xFFFF 0
  else if 12288 < len || leNat (slice desc 1 3) ≠ 0 || leNat (slice desc 24 8) ≠ 0 then z.blockDone 0x53 0 0xFFFF 0
  else z.startBlock (slice (if len = 0 then [] else params) 0 len)

/-- The order ring in turn may be fetched. -/
theorem Chip.canFetch_turn {c : Chip} {ring : Fin 4}
    (hturn : (((List.range 4).map fun i => (c.ord.lastRing + 1 + i) % 4).find? c.canFetch) = some ring.val) :
    c.canFetch ring.val = true := List.find?_some hturn

/-- An idle engine takes the block of the ring in turn. -/
theorem Chip.orderFetch_takes {c : Chip} {ring : Fin 4} {desc : Bytes} (hidle : c.ordIdle = true) (hzero : c.ctl.zeroizing = none)
    (hturn : (((List.range 4).map fun i => (c.ord.lastRing + 1 + i) % 4).find? c.canFetch) = some ring.val) (hlen : desc.length = 32) :
    ∃ z, c.gaveBlock z ring desc ∧ ∀ params, c.orderFetch ring.val (some desc) (some params) = z.judgeBlock desc params := by
  obtain ⟨y, hy, hyeq, hown, hpair, hbme⟩ :=
    Chip.fetchEntry_of (Chip.canFetch_turn hturn) (by omega) (pairedRing_order ring) (by omega) desc
  rw [(ringEntry_order ring).1, slice_all hlen] at hy
  refine ⟨y.modOrd fun o => o.took ring.val desc, ⟨?_, hown, hpair, hbme⟩, fun params => ?_⟩
  · rw [hyeq]
    rfl
  · have hgo : (!c.ordIdle || c.ctl.zeroizing.isSome || decide (some ring.val ≠ some ring.val)) = false := by simp [hidle, hzero]
    simp only [Chip.orderFetch, hturn, hgo, hy, Chip.judgeBlock]
    have hparams : (if leNat (slice desc 4 4) = 0 then some [] else some params) =
        some (if leNat (slice desc 4 4) = 0 then [] else params) := by split_ifs <;> rfl
    rw [hparams, if_neg Bool.false_ne_true]

/-! ### The parameters in local memory (R341) -/

/-- The block with a parameter list in the order engine's local memory. -/
def Chip.withParams (z : Chip) (p : Bytes) : Chip := (z.memClear ordLocal 0x4000).memWrite ordLocal p

/-- A parameter list in local memory changes program memory. -/
theorem Chip.withParams_eq (z : Chip) (p : Bytes) : z.withParams p = { z with mem := (z.withParams p).mem } :=
  Chip.memWrite_eq (z.memClear ordLocal 0x4000) ordLocal p

theorem Chip.withParams_ord (z : Chip) (p : Bytes) : (z.withParams p).ord = z.ord := by rw [Chip.withParams_eq]

theorem Chip.startBlock_interpreter {z : Chip} (h : z.ord.entry = 0) (p : Bytes) : z.startBlock p = (z.withParams p).nextRecord := by
  rw [Chip.startBlock]
  exact if_pos h

theorem Chip.startBlock_noImage {z : Chip} (h : z.ord.entry ≠ 0) (hnone : (z.target 8).active = none) (p : Bytes) :
    z.startBlock p = (z.withParams p).blockDone 0x87 0 0xFFFF 0 := by
  have htarget : (z.withParams p).target 8 = z.target 8 := by
    rw [Chip.withParams_eq]
    rfl
  rw [Chip.withParams] at htarget ⊢
  simp only [Chip.startBlock, h, htarget, hnone, if_false, Option.map_none, Option.join_none]

/-- The engine's context at an entry of the owner's order image: the length, the ring and the entry in g1 to g3. -/
def OrdEng.entryCtx (o : OrdEng) (a : Nat) : EngCtx := {
  g := SMap.set (fun _ => 0) (SMap.set (fun _ => 0) (SMap.set (fun _ => 0) [] 1 (BitVec.ofNat 64 o.paramLen)) 2 (BitVec.ofNat 64 o.ring)) 3
    (BitVec.ofNat 64 o.entry)
  pc := a, running := true }

theorem Chip.startBlock_program {z : Chip} {i : Image} {a : Nat} (h : z.ord.entry ≠ 0) (himage : (z.target 8).active = some i)
    (hat : i.entries[z.ord.entry - 1]? = some a) (p : Bytes) :
    z.startBlock p = (z.withParams p).setEctxAt 1026 (z.ord.entryCtx a) := by
  have htarget : (z.withParams p).target 8 = z.target 8 := by
    rw [Chip.withParams_eq]
    rfl
  rw [Chip.withParams] at htarget ⊢
  simp only [Chip.startBlock, h, htarget, himage, hat, if_false, Option.map_some, Option.join_some, OrdEng.entryCtx]

/-- The order engine's local memory holds a parameter list, and zeros after it. -/
def Chip.paramsAre (d : Chip) (p : Bytes) : Prop := ∀ j, j < 0x4000 → d.memGet (ordLocal + j) = p.getD j 0

/-- A byte of a region that is cleared. -/
theorem Chip.memGet_memClear (c : Chip) {a n x : Nat} (ha : a ≤ x) (hx : x < a + n) : (c.memClear a n).memGet x = 0 := by
  rw [Chip.memGet, SMap.get_of_no_key]
  · rfl
  · simp only [Chip.memClear, List.mem_map, List.mem_filter]
    rintro ⟨p, ⟨-, hp⟩, rfl⟩
    simp [ha, hx] at hp

theorem Chip.paramsAre_withParams (z : Chip) (p : Bytes) : (z.withParams p).paramsAre p := by
  intro j hj
  rw [Chip.withParams, Chip.memGet_memWrite]
  split_ifs with hin
  · rw [Nat.add_sub_cancel_left]
  · rw [Chip.memGet_memClear _ (by omega) (by omega), List.getD_eq_default _ _ (by omega)]

/-- A byte of a slice; zeros follow the list. -/
theorem getElem_slice {b : Bytes} {o n i : Nat} (h : i < n) {hi : i < (slice b o n).length} : (slice b o n)[i] = b.getD (o + i) 0 := by
  by_cases hb : o + i < b.length
  · simp [slice, hb, show i < min n (b.length - o) by omega]
  · simp [slice, List.getElem_append, hb, show ¬ i < min n (b.length - o) by omega]

theorem Chip.memBytes_params {d : Chip} {p : Bytes} (h : d.paramsAre p) {o n : Nat} (hn : o + n ≤ 0x4000) :
    d.memBytes (ordLocal + o) n = slice p o n := by
  refine List.ext_getElem (by simp [Chip.memBytes, length_slice]) fun i hi _ => ?_
  have hin : i < n := by simpa [Chip.memBytes] using hi
  simp only [Chip.memBytes, List.getElem_map, List.getElem_range, Nat.add_assoc, h (o + i) (by omega)]
  rw [getElem_slice hin]

/-- Local memory is no part of what a block's descriptor says. -/
theorem Chip.gaveBlock.withParams {c z : Chip} {ring : Fin 4} {desc : Bytes} (h : c.gaveBlock z ring desc) (p : Bytes) :
    c.gaveBlock (z.withParams p) ring desc := by
  obtain ⟨hframe, hfetched, hpair, hbme⟩ := h
  have hmem := z.withParams_eq p
  generalize z.withParams p = w at hmem ⊢
  have hhif : w.hif = z.hif := by rw [hmem]
  refine ⟨?_, ?_, ?_, by rw [hhif, hbme]⟩
  · rw [hmem, hframe]
  · rw [Chip.ring, hhif]
    exact hfetched
  · rw [Chip.ring, hhif]
    exact hpair

/-! ### The fetch of a block, case by case -/

/-- The idle engine takes the next block from an order ring, with nothing staged before. -/
structure Chip.servesBlock (c : Chip) (ring : Fin 4) (desc : Bytes) : Prop where
  idle : c.ordIdle = true
  calm : c.ctl.zeroizing = none
  staged : c.ord.staged = []
  writes : c.ord.regWrites = []
  keep : c.ord.discardCompletion = false
  turn : (((List.range 4).map fun i => (c.ord.lastRing + 1 + i) % 4).find? c.canFetch) = some ring.val
  length : desc.length = 32

/-- The block of the ring has ended with a result, which its completion ring holds. -/
def Chip.blockEnds (c d : Chip) (ring : Fin 4) (desc : Bytes) (status index : Nat) : Prop :=
  d.ord.busy = false ∧ d.ord.res.status = status ∧ c.bumped d F.ORD_BLK_CNT_count [] ∧ d.ord.lastRing = ring.val ∧
    (d.ring ring.val).own = (c.ring ring.val).own + 1 ∧ (d.ring (ring.val + 4)).own = (c.ring (ring.val + 4)).own + 1 ∧
    .hostWrite 0 (c.completionAt ring)
      (ordCompletion (BitVec.ofNat 64 (leNat (slice desc 16 8))) status index false 0 0) ∈ d.out ∧ d.vlt = c.vlt

/-- A descriptor of Table 13.4 whose reserved bits are 0 and whose list fits. -/
def wellFormedBlock (desc : Bytes) : Prop :=
  leNat (slice desc 4 4) ≤ 12288 ∧ leNat (slice desc 1 3) = 0 ∧ leNat (slice desc 24 8) = 0

section
variable {s : State} {ring : Fin 4} {desc params : Bytes} (h : s.chip.servesBlock ring desc)
include h

/-- What the engine makes of a block is what the fetch does. -/
theorem orderBlockFetch_judges {post : Chip → Prop} (hjudge : ∀ z, s.chip.gaveBlock z ring desc →
    post (z.judgeBlock desc params) ∧ (z.judgeBlock desc params).vlt.owners = s.chip.vlt.owners) :
    completes (.orderBlockFetch ring (some desc) (some params)) s post := by
  obtain ⟨z, hz, hfetch⟩ := Chip.orderFetch_takes h.idle h.calm h.turn h.length
  obtain ⟨hpost, hown⟩ := hjudge z hz
  exact completes_eq (f := fun c => c.orderFetch ring.val (some desc) (some params)) rfl (hfetch params) hpost hown

/-- A block that ends at its fetch completes in its ring. -/
theorem orderBlockFetch_ends {status index : Nat} (hends : ∀ z, s.chip.gaveBlock z ring desc →
    ∃ w, s.chip.gaveBlock w ring desc ∧ z.judgeBlock desc params = w.blockDone status 0 index 0) :
    completes (.orderBlockFetch ring (some desc) (some params)) s fun d => s.chip.blockEnds d ring desc status index := by
  obtain ⟨hdma, hen⟩ := Chip.canFetch_of (Chip.canFetch_turn h.turn) (by omega) (pairedRing_order ring)
  refine orderBlockFetch_judges h fun z hz => ?_
  obtain ⟨w, hw, hdone⟩ := hends z hz
  have hended := hw.ends hdone.symm hdma hen h.staged h.writes h.keep
  obtain ⟨-, -, -, -, -, -, -, hvlt⟩ := id hended
  exact ⟨hended, by rw [hvlt]⟩

theorem orderBlockFetch_failedStart (hfailed : s.chip.su.failed = true) :
    completes (.orderBlockFetch ring (some desc) (some params)) s fun d => s.chip.blockEnds d ring desc 0x40 0xFFFF := by
  refine orderBlockFetch_ends h fun z hz => ⟨z, hz, ?_⟩
  have hsu : z.su = s.chip.su := by rw [hz.frame]
  rw [Chip.judgeBlock, if_pos (by rw [hsu, hfailed])]

theorem orderBlockFetch_malformed (hstarted : s.chip.su.failed = false) (hbad : ¬ wellFormedBlock desc) :
    completes (.orderBlockFetch ring (some desc) (some params)) s fun d => s.chip.blockEnds d ring desc 0x53 0xFFFF := by
  refine orderBlockFetch_ends h fun z hz => ⟨z, hz, ?_⟩
  have hsu : z.su = s.chip.su := by rw [hz.frame]
  rw [Chip.judgeBlock, if_neg (by rw [hsu, hstarted]; decide), if_pos]
  simp only [wellFormedBlock, not_and_or, Nat.not_le] at hbad
  simpa [or_assoc] using hbad

omit h in
/-- A well-formed block starts with its parameters in local memory. -/
theorem Chip.gaveBlock.starts {z : Chip} (hz : s.chip.gaveBlock z ring desc) (hstarted : s.chip.su.failed = false)
    (hgood : wellFormedBlock desc) (hparams : 0 < leNat (slice desc 4 4) → params.length = leNat (slice desc 4 4)) :
    z.judgeBlock desc params = z.startBlock (if leNat (slice desc 4 4) = 0 then [] else params) := by
  obtain ⟨hfits, hres, hres'⟩ := hgood
  have hsu : z.su = s.chip.su := by rw [hz.frame]
  rw [Chip.judgeBlock, if_neg (by rw [hsu, hstarted]; decide), if_neg (by simp [hres, hres']; omega), slice_all]
  split_ifs with hempty
  · exact hempty.symm
  · exact hparams (by omega)

/-- A block of entry 0 with an empty list ends with OK. -/
theorem orderBlockFetch_empty (hstarted : s.chip.su.failed = false) (hgood : wellFormedBlock desc) (hempty : leNat (slice desc 4 4) = 0)
    (hentry : leNat (slice desc 0 1) = 0) :
    completes (.orderBlockFetch ring (some desc) (some params)) s fun d => s.chip.blockEnds d ring desc 0 0xFFFF := by
  refine orderBlockFetch_ends h fun z hz => ⟨z.withParams [], hz.withParams [], ?_⟩
  have hord : z.ord = s.chip.ord.took ring.val desc := by rw [hz.frame]
  rw [hz.starts hstarted hgood (by omega), if_pos hempty, Chip.startBlock_interpreter (by rw [hord]; exact hentry)]
  simp only [Chip.nextRecord, Chip.withParams_ord, hord, hempty, if_true, Nat.le_refl]

section
variable (hstarted : s.chip.su.failed = false) (hgood : wellFormedBlock desc) (hfull : 0 < leNat (slice desc 4 4))
  (hparams : params.length = leNat (slice desc 4 4))
include hstarted hgood hfull hparams

/-- A block of an entry that no active image has ends with NO_IMAGE. -/
theorem orderBlockFetch_noImage (hentry : leNat (slice desc 0 1) ≠ 0) (hnone : (s.chip.target 8).active = none) :
    completes (.orderBlockFetch ring (some desc) (some params)) s fun d => s.chip.blockEnds d ring desc 0x87 0xFFFF := by
  refine orderBlockFetch_ends h fun z hz => ⟨z.withParams params, hz.withParams params, ?_⟩
  have hord : z.ord = s.chip.ord.took ring.val desc := by rw [hz.frame]
  have htarget : z.target 8 = s.chip.target 8 := by
    rw [hz.frame]
    rfl
  rw [hz.starts hstarted hgood (fun _ => hparams), if_neg (by omega),
    Chip.startBlock_noImage (by rw [hord]; exact hentry) (by rw [htarget, hnone])]

/-- A block of another entry starts the owner's program there, with the length, the ring and the entry in g1 to g3. -/
theorem orderBlockFetch_program {i : Image} {a : Nat} (hentry : leNat (slice desc 0 1) ≠ 0) (himage : (s.chip.target 8).active = some i)
    (hat : i.entries[leNat (slice desc 0 1) - 1]? = some a) :
    completes (.orderBlockFetch ring (some desc) (some params)) s fun d =>
      (d.ectx .order).running = true ∧ (d.ectx .order).pc = a ∧ d.gGet .order 1 = BitVec.ofNat 64 (leNat (slice desc 4 4)) ∧
      d.gGet .order 2 = BitVec.ofNat 64 ring.val ∧ d.gGet .order 3 = BitVec.ofNat 64 (leNat (slice desc 0 1)) ∧ d.ord.busy = true ∧
      d.paramsAre params := by
  refine orderBlockFetch_judges h fun z hz => ?_
  have hord : z.ord = s.chip.ord.took ring.val desc := by rw [hz.frame]
  have htarget : z.target 8 = s.chip.target 8 := by
    rw [hz.frame]
    rfl
  have hloaded := z.paramsAre_withParams params
  have hword := z.withParams_ord params
  have hwvlt : (z.withParams params).vlt = s.chip.vlt := by rw [Chip.withParams_eq, hz.frame]
  rw [hz.starts hstarted hgood (fun _ => hparams), if_neg (by omega),
    Chip.startBlock_program (i := i) (a := a) (by rw [hord]; exact hentry) (by rw [htarget, himage]) (by rw [hord]; exact hat)]
  generalize z.withParams params = w at hloaded hword hwvlt ⊢
  obtain ⟨x, hx⟩ : ∃ x, z.ord.entryCtx a = x := ⟨_, rfl⟩
  have hctx : (w.setEctxAt 1026 x).ectx .order = x := SMap.get_set_same
  have hreg : ∀ r, (w.setEctxAt 1026 x).gGet .order r = gOf x.g r.val := fun r => by rw [Chip.gGet, hctx]
  rw [hx]
  rw [hord] at hx
  refine ⟨⟨by rw [hctx, ← hx, OrdEng.entryCtx], by rw [hctx, ← hx, OrdEng.entryCtx], ?_, ?_, ?_, ?_, hloaded⟩, ?_⟩
  · rw [hreg, ← hx]
    simp [gOf, OrdEng.entryCtx, SMap.get_set]
  · rw [hreg, ← hx]
    simp [gOf, OrdEng.entryCtx, SMap.get_set]
  · rw [hreg, ← hx]
    simp [gOf, OrdEng.entryCtx]
  · change w.ord.busy = true
    rw [hword, hord]
  · change w.vlt.owners = _
    rw [hwvlt]

end

end

/-! ### A list of one record -/

/-- One MEM_KEY_FLUSH of key ID 1, as a parameter list. -/
abbrev flushList : Bytes := [0x01, 0x05, 4, 0, 0, 0, 0, 0, 1, 0, 0, 0, 0, 0, 0, 0]

/-- The list's record is well formed. -/
theorem Chip.recordOk_flushList {d : Chip} (h : d.paramsAre flushList) (hpos : d.ord.pos = 0) (hlen : d.ord.paramLen = 16) :
    d.recordOk = true := by
  have hhead : d.memBytes ordLocal 8 = [0x01, 0x05, 4, 0, 0, 0, 0, 0] := d.memBytes_params (o := 0) h (by decide)
  have hfill : d.memBytes (ordLocal + 12) 4 = [0, 0, 0, 0] := d.memBytes_params h (by decide)
  have hcode : leNat (slice [(0x01 : Byte), 0x05, 4, 0, 0, 0, 0, 0] 0 2) = 0x0501 := by decide
  have hsize : leNat (slice [(0x01 : Byte), 0x05, 4, 0, 0, 0, 0, 0] 2 2) = 4 := by decide
  have hnopad : d.memBytes (ordLocal + 8 + (paramPad 0x0501).1) (paramPad 0x0501).2 = [] := rfl
  simp only [Chip.recordOk, hpos, hlen, Nat.add_zero, hhead, hcode, hsize, hnopad]
  rw [show up8 4 - 4 = 4 by decide, show ordLocal + 8 + 4 = ordLocal + 12 by decide, hfill]
  decide

/-- A block of entry 0 with the list in local memory stands at its record. -/
theorem Chip.nextRecord_flushList {d : Chip} (h : d.paramsAre flushList) (hpos : d.ord.pos = 0) (hlen : d.ord.paramLen = 16) :
    d.nextRecord = d := by
  simp only [Chip.nextRecord, hpos, hlen, Chip.recordOk_flushList h hpos hlen, if_true, show ¬ 16 ≤ 0 by decide, if_false]

section
variable {s : State}

/-- A block of entry 0 with that list stands at its record. -/
theorem orderBlockFetch_record {ring : Fin 4} {desc : Bytes} (h : s.chip.servesBlock ring desc) (hstarted : s.chip.su.failed = false)
    (hgood : wellFormedBlock desc) (hlen : leNat (slice desc 4 4) = 16) (hentry : leNat (slice desc 0 1) = 0) :
    completes (.orderBlockFetch ring (some desc) (some flushList)) s fun d =>
      d.ord.busy = true ∧ d.ord.pos = 0 ∧ d.ord.index = 0 ∧ d.paramsAre flushList ∧
        (d.ring ring.val).own = (s.chip.ring ring.val).own + 1 := by
  refine orderBlockFetch_judges h fun z hz => ?_
  have hord : z.ord = s.chip.ord.took ring.val desc := by rw [hz.frame]
  have hw := hz.withParams flushList
  have hword : (z.withParams flushList).ord = s.chip.ord.took ring.val desc := by rw [Chip.withParams_ord, hord]
  have hloaded := z.paramsAre_withParams flushList
  rw [hz.starts (params := flushList) hstarted hgood (fun _ => hlen.symm), if_neg (by omega), Chip.startBlock_interpreter (by rw [hord]; exact hentry),
    Chip.nextRecord_flushList hloaded (by rw [hword]) (by rw [hword]; exact hlen)]
  exact ⟨⟨by rw [hword], by rw [hword], by rw [hword], hloaded, hw.fetched⟩, by rw [hw.frame]⟩

/-- A member runs a relayed list as a block of entry 0 (R429). -/
theorem relayReceive_record (hserved : s.chip.ringsServed = true) (hidle : s.chip.ordIdle = true) (hmember : s.chip.isMaster = false) :
    completes (.relayReceive flushList) s fun d =>
      d.ord.busy = true ∧ d.ord.relay = true ∧ d.ord.entry = 0 ∧ d.ord.pos = 0 ∧ d.paramsAre flushList ∧ d.hif = s.chip.hif := by
  obtain ⟨z, hz⟩ : ∃ z, (s.chip.modOrd fun o => { o with
      busy := true, cookie := 0, entry := 0, paramLen := flushList.length, pos := 0, index := 0, lastRet := 0, res := {},
      relay := true }) = z := ⟨_, rfl⟩
  have hstart : s.chip.relayReceive flushList = z.startBlock flushList := by
    simp only [Chip.relayReceive, hserved, hidle, hmember, Bool.not_true, Bool.or_self, Bool.false_eq_true, if_false, hz]
    rfl
  have hloaded := z.paramsAre_withParams flushList
  have hword := z.withParams_ord flushList
  rw [Chip.startBlock_interpreter (by rw [← hz]; rfl), Chip.nextRecord_flushList hloaded (by rw [hword, ← hz]; rfl)
    (by rw [hword, ← hz]; rfl)] at hstart
  refine completes_eq (f := fun c => c.relayReceive flushList) rfl hstart ⟨?_, ?_, ?_, ?_, hloaded, ?_⟩ ?_
  · rw [hword, ← hz]
    rfl
  · rw [hword, ← hz]
    rfl
  · rw [hword, ← hz]
    rfl
  · rw [hword, ← hz]
    rfl
  · rw [Chip.withParams_eq, ← hz]
    rfl
  · rw [Chip.withParams_eq, ← hz]
    rfl

theorem relayReceive_master (hmaster : s.chip.isMaster = true) (params : Bytes) : completes (.relayReceive params) s fun d => d = s.chip :=
  completes_eq (f := fun c => c.relayReceive params) rfl (if_pos (by simp [hmaster])) rfl rfl

/-! ### A record in its turn -/

/-- A command that is not the interpreter's record does nothing. -/
theorem memKeyFlush_notRecord {kid : Word} (hbusy : s.chip.ord.busy = true) (hno : s.chip.recordIs 0x0501 (w4 kid) = false) :
    completes (.memKeyFlush kid) s fun d => d = s.chip :=
  completes_eq (f := fun c => c.runOrder 0x0501 (w4 kid) (memKeyFlush kid)) rfl (if_pos (by simp [hbusy, hno])) rfl rfl

/-- The last record of a block, when it succeeds, ends the block with OK. -/
theorem memKstat_last (hbusy : s.chip.ord.busy = true) (hentry : s.chip.ord.entry = 0) (hwait : s.chip.ord.wait = .none)
    (hended : s.chip.ord.ended = none) (hcall : s.chip.ord.callReg = none) (hcalm : s.chip.ctl.zeroizing = none)
    (hrecord : s.chip.recordIs 0x0504 [] = true) (hsize : leNat (s.chip.memBytes (ordLocal + s.chip.ord.pos + 2) 2) = 0)
    (hmode : s.chip.ctl.mode = .active) (hlast : s.chip.ord.paramLen = s.chip.ord.pos + 8) :
    completes .memKstat s fun d =>
      d.ord.busy = false ∧ d.ord.res.status = 0 ∧ s.chip.bumped d F.ORD_BLK_CNT_count [] ∧ d.buf = s.chip.buf := by
  obtain ⟨r, hr⟩ : ∃ r : OrdRes, { ret := some ((List.range 32).foldl (fun n i => n + s.chip.kidState i * 2 ^ (3 * i)) 0) } = r := ⟨_, rfl⟩
  have hstatus : r.status = 0 := by rw [← hr]
  have hanswers : memKstat s.chip = (s.chip, some r) := by
    rw [memKstat, inModes_of (by simp [Chip.inMode, hmode, infoModes]), ← hr]
  obtain ⟨y, hy⟩ : ∃ y, ((s.chip.modOrd fun o => { o with wait := .none }).modOrd fun o => { o with
      pos := o.pos + 8 + up8 0, index := o.index + 1, lastRet := r.ret.getD o.lastRet, res := r }) = y := ⟨_, rfl⟩
  have hrun : s.chip.runOrder 0x0504 [] memKstat = y.blockDone 0 0 0xFFFF y.ord.lastRet := by
    have hguard : (s.chip.ctl.zeroizing.isSome || decide (s.chip.ord.wait ≠ .none) || s.chip.ord.ended.isSome ||
        (s.chip.ord.busy && !(decide (s.chip.ord.entry = 0) && s.chip.recordIs 0x0504 []))) = false := by
      simp [hcalm, hwait, hended, hentry, hrecord]
    have hfinish : s.chip.finishOrder r = (s.chip.modOrd fun o => { o with wait := .none }).recordDone r := by
      simp only [Chip.finishOrder, Chip.modOrd_ord, hcall, hbusy, hentry, decide_true, Bool.and_self, if_true]
    have hbytes : (s.chip.modOrd fun o => { o with wait := .none }).memBytes (ordLocal + s.chip.ord.pos + 2) 2 =
        s.chip.memBytes (ordLocal + s.chip.ord.pos + 2) 2 := rfl
    have hrecordDone : (s.chip.modOrd fun o => { o with wait := .none }).recordDone r = y.nextRecord := by
      simp only [Chip.recordDone, hstatus, ne_eq, not_true_eq_false, if_false, Chip.modOrd_ord, hbytes, hsize, hy]
    have hend : y.ord.paramLen ≤ y.ord.pos := by
      rw [← hy]
      exact Nat.le_of_eq hlast
    simp only [Chip.runOrder, hguard, hanswers, hfinish, hrecordDone, Chip.nextRecord, hend, if_true, Bool.false_eq_true, if_false]
  have hgone := y.blockDone_gone 0 0 0xFFFF y.ord.lastRet
  rw [← hrun] at hgone
  refine completes_eq (f := fun c => c.runOrder 0x0504 [] memKstat) rfl rfl ⟨by rw [hgone.ord], by rw [hgone.ord], ?_, ?_⟩ ?_
  · have hcount := hgone.bumped
    rw [← hy] at hcount
    exact hcount
  · rw [hgone.frame, ← hy]
    rfl
  · rw [hgone.frame, ← hy]
    rfl

end

/-- Settles O57: the fetch by what the descriptor says, the relayed list, and the record in its turn, each by its lemma. -/
theorem orderBlocks : Obligations.OrderBlocks := by
  unfold Obligations.OrderBlocks
  intro s ring desc params
  refine ⟨fun hidle hcalm hstaged hwrites hkeep hdma hturn hlen => ?_, fun hserved hidle hmember hparams => ?_, fun h => relayReceive_master h params,
    fun hbusy hentry hwait hended hcall hcalm => ⟨fun kid hno => memKeyFlush_notRecord hbusy hno, fun hrecord hsize hmode hlast =>
      memKstat_last hbusy hentry hwait hended hcall hcalm hrecord hsize hmode hlast⟩⟩
  · have h : s.chip.servesBlock ring desc := ⟨hidle, hcalm, hstaged, hwrites, hkeep, hturn, hlen⟩
    refine ⟨orderBlockFetch_failedStart h, fun hstarted => ⟨fun hlong => ?_, fun hres => ?_, fun hres => ?_, fun hempty h1 h2 hentry => ?_,
      fun hfull hfits hparams h1 h2 => ⟨fun hentry hnone => ?_, fun hentry i a himage hat => ?_, fun hentry hlist => ?_⟩⟩⟩
    · exact orderBlockFetch_malformed h hstarted fun hgood => absurd hgood.1 (by omega)
    · exact orderBlockFetch_malformed h hstarted fun ⟨_, hgood, _⟩ => hres hgood
    · exact orderBlockFetch_malformed h hstarted fun ⟨_, _, hgood⟩ => hres hgood
    · exact orderBlockFetch_empty h hstarted ⟨by omega, h1, h2⟩ hempty hentry
    · exact orderBlockFetch_noImage h hstarted ⟨hfits, h1, h2⟩ hfull hparams hentry hnone
    · exact orderBlockFetch_program h hstarted ⟨hfits, h1, h2⟩ hfull hparams hentry himage hat
    · subst hlist
      exact orderBlockFetch_record h hstarted ⟨hfits, h1, h2⟩ hparams.symm hentry
  · subst hparams
    exact relayReceive_record hserved hidle hmember

end Sys2Proof.Machine

/-! PROOFS. Frames of the Runner links: what is sent, keepalives, and members (R216, R424 to R427). -/
namespace Sys2Proof.Machine

/-! ### A frame under a Runner link's session (R413, R425) -/

/-- A stack frame as it leaves under a session: the clear header with the link sequence, the sealed body, its tag, and the FCS. -/
def LinkSession.wire (k : LinkSession) (j kind hops src dest : Nat) (body : Bytes) : Output :=
  let head := [BitVec.ofNat 8 (16 + kind), BitVec.ofNat 8 hops, BitVec.ofNat 8 src, BitVec.ofNat 8 dest] ++ beBytes 8 k.seq
  let cipher := gcmXor true k.txKey (BitVec.ofNat 96 (k.txSalt.toNat / 2 ^ 64 * 2 ^ 64 + k.seq)) (List.replicate 32 0 ++ body)
  let sealed := head ++ cipher ++ beBytes 16 (Config.gcmTag true k.txKey
    (BitVec.ofNat 96 (k.txSalt.toNat / 2 ^ 64 * 2 ^ 64 + k.seq)) head cipher).toNat
  .linkWord j kind (sealed ++ fcs sealed)

/-- The links once a frame has left by port `j` under session `k`. -/
abbrev PairStack.sent (p : PairStack) (j : Nat) (k : LinkSession) : PairStack :=
  { p with sessions := SMap.set (fun _ => none) p.sessions j (some { k with seq := k.seq + 1 }) }

theorem PairStack.session_sent (p : PairStack) (j : Nat) (k : LinkSession) :
    SMap.get (fun _ => none) (p.sent j k).sessions j = some { k with seq := k.seq + 1 } := by
  rw [SMap.get_set_same]

section
variable {c : Chip} {j : Nat} {k : LinkSession}

/-- A Runner link with a session sends a frame, and its link sequence goes on. -/
theorem Chip.linkSend_wire (hj : j < 2) (hk : SMap.get (fun _ => none) c.prs.sessions j = some k) (hseq : k.seq < 2 ^ 48)
    (kind hops src dest : Nat) (body : Bytes) :
    c.linkSend j kind (stackClear kind hops src dest) (List.replicate 32 0 ++ body) =
      { c with prs := c.prs.sent j k, out := c.out ++ [k.wire j kind hops src dest body] } := by
  have hopen : ¬ 2 ^ 48 ≤ k.seq := by omega
  have hhead : (stackClear kind hops src dest).take 4 =
      [BitVec.ofNat 8 (16 + kind), BitVec.ofNat 8 hops, BitVec.ofNat 8 src, BitVec.ofNat 8 dest] := rfl
  have hrest : (stackClear kind hops src dest).drop 12 = [] := rfl
  simp only [Chip.linkSend, hk, hopen, if_false, hj, if_true, hhead, hrest, List.append_nil]
  rfl

/-- A link without a session, or with its link sequence at the end, sends nothing. -/
theorem Chip.linkSend_none (hk : SMap.get (fun _ => none) c.prs.sessions j = none) (kind : Nat) (clear body : Bytes) :
    c.linkSend j kind clear body = c := by
  simp only [Chip.linkSend, hk]

theorem Chip.linkSend_exhausted (hk : SMap.get (fun _ => none) c.prs.sessions j = some k) (hseq : 2 ^ 48 ≤ k.seq) (kind : Nat)
    (clear body : Bytes) : c.linkSend j kind clear body = c := by
  simp only [Chip.linkSend, hk, hseq, if_true]

/-- What is sent on a link changes its session and what is given. -/
theorem Chip.linkSend_frame (c : Chip) (j kind : Nat) (clear body : Bytes) : ∃ l out, c.linkSend j kind clear body =
    { c with prs := { c.prs with sessions := l }, out := out } := by
  simp only [Chip.linkSend]
  split
  · exact ⟨_, _, rfl⟩
  · split_ifs
    · exact ⟨_, _, rfl⟩
    · exact ⟨_, _, rfl⟩
    · exact ⟨_, _, rfl⟩

/-- A frame to all, where Runner port 0 alone has a session. -/
theorem Chip.stackAll_first (hk : SMap.get (fun _ => none) c.prs.sessions 0 = some k)
    (hnone : SMap.get (fun _ => none) c.prs.sessions 1 = none) (hseq : k.seq < 2 ^ 48) (kind : Nat) (body : Bytes) :
    c.stackAll kind body = { c with prs := c.prs.sent 0 k, out := c.out ++ [k.wire 0 kind 7 c.prs.straps 0xFF body] } := by
  have hother : SMap.get (fun _ => none) (c.prs.sent 0 k).sessions 1 = none := by
    rw [SMap.get_set, if_neg (by decide), hnone]
  rw [Chip.stackAll, Chip.each_cons, Chip.each_cons, Chip.each_nil, Chip.linkSend_wire (by decide) hk hseq]
  exact Chip.linkSend_none hother _ _ _

theorem Chip.stackAll_exhausted (hk : SMap.get (fun _ => none) c.prs.sessions 0 = some k)
    (hnone : SMap.get (fun _ => none) c.prs.sessions 1 = none) (hseq : 2 ^ 48 ≤ k.seq) (kind : Nat) (body : Bytes) :
    c.stackAll kind body = c := by
  rw [Chip.stackAll, Chip.each_cons, Chip.each_cons, Chip.each_nil, Chip.linkSend_exhausted hk hseq, Chip.linkSend_none hnone]

end

/-! ### The master's time word and the keepalive -/

section
variable {s : State} {k : LinkSession}

theorem stackTimeSend_sends (hmaster : s.chip.isMaster = true) (hrunning : s.chip.running = true)
    (hk : SMap.get (fun _ => none) s.chip.prs.sessions 0 = some k) (hnone : SMap.get (fun _ => none) s.chip.prs.sessions 1 = none)
    (hseq : k.seq < 2 ^ 48) :
    completes .stackTimeSend s fun d =>
      d.out = s.chip.out ++ [k.wire 0 1 7 s.chip.prs.straps 0xFF (beBytes 12 (packTime s.chip.tim.clock s.chip.holdover) ++
        beBytes 8 s.chip.epochOrg ++ beBytes 4 (s.chip.getF F.TIM_EPOCH_CFG_len []))] ∧
      SMap.get (fun _ => none) d.prs.sessions 0 = some { k with seq := k.seq + 1 } := by
  refine completes_eq (d := { s.chip with
    prs := s.chip.prs.sent 0 k, out := s.chip.out ++ [k.wire 0 1 7 s.chip.prs.straps 0xFF _] }) rfl ?_ ⟨rfl, PairStack.session_sent _ _ _⟩ rfl
  simp only [hmaster, hrunning, Bool.not_true, Bool.or_self, Bool.false_eq_true, if_false]
  exact Chip.stackAll_first hk hnone hseq 1 _

theorem stackTimeSend_member (hmember : s.chip.isMaster = false) : completes .stackTimeSend s fun d => d = s.chip := by
  refine completes_eq rfl ?_ rfl rfl
  simp only [hmember, Bool.not_false, Bool.true_or, if_true]

/-- What a keepalive says of the part. -/
abbrev Chip.keepaliveBody (c : Chip) : Bytes :=
  [BitVec.ofNat 8 (modeCode c.ctl.mode), BitVec.ofNat 8 (b2n c.holding), BitVec.ofNat 8 c.publishedClaim] ++
    beBytes 8 Config.deviceId.toNat

section
variable (hpowered : s.chip.powered = true) (hk : SMap.get (fun _ => none) s.chip.prs.sessions 0 = some k)
  (hnone : SMap.get (fun _ => none) s.chip.prs.sessions 1 = none)
include hpowered hk hnone

theorem keepaliveSend_sends (hseq : k.seq < 2 ^ 48) :
    completes .keepaliveSend s fun d => d.out = s.chip.out ++ [k.wire 0 4 7 s.chip.prs.straps 0xFF s.chip.keepaliveBody] := by
  refine completes_eq (d := { s.chip with
    prs := s.chip.prs.sent 0 k, out := s.chip.out ++ [k.wire 0 4 7 s.chip.prs.straps 0xFF _] }) rfl ?_ rfl rfl
  simp only [hpowered, Bool.not_true, Bool.false_eq_true, if_false]
  exact Chip.stackAll_first hk hnone hseq 4 _

theorem keepaliveSend_exhausted (hseq : 2 ^ 48 ≤ k.seq) : completes .keepaliveSend s fun d => d = s.chip := by
  refine completes_eq rfl ?_ rfl rfl
  simp only [hpowered, Bool.not_true, Bool.false_eq_true, if_false]
  exact Chip.stackAll_exhausted hk hnone hseq 4 _

end

/-! ### A member's keepalive -/

/-- A keepalive's record of its member. -/
abbrev Member.heardAt (m : Member) (mode : Nat) (device : DWord) (holding : Bool) (claim now port hops : Nat) : Member :=
  let m := { m with mode := mode, device := device, holding := holding, claim := claim, present := true, heard := now }
  if port = 0 then { m with hops0 := min 7 (8 - hops), heard0 := some now } else { m with hops1 := min 7 (8 - hops), heard1 := some now }

theorem Member.heardAt_spec (m : Member) (mode : Nat) (device : DWord) (holding : Bool) (claim now port hops : Nat) :
    let x := m.heardAt mode device holding claim now port hops
    x.present = true ∧ x.mode = mode ∧ x.holding = holding ∧ x.claim = claim ∧ x.heard = now ∧ x.device = device ∧
      (if port = 0 then (x.hops0, x.heard0) else (x.hops1, x.heard1)) = (min 7 (8 - hops), some now) := by
  by_cases hport : port = 0
  · simp only [Member.heardAt, hport, if_true, and_self]
  · simp only [Member.heardAt, hport, if_false, and_self]

/-- The part once a member has been heard. -/
def Chip.memberHeard (c : Chip) (dev mode : Nat) (m : Member) : Chip :=
  ((c.setMember dev m).when (mode = modeCode .wake) fun c => c.actingGone dev).masterIsHeard dev

/-- What a member's keepalive changes. -/
theorem Chip.memberHeard_spec (c : Chip) (dev mode : Nat) (m : Member) :
    let d := c.memberHeard dev mode m
    d = { c with prs := d.prs } ∧ (∀ j, d.member j = if j = dev then m else c.member j) ∧ d.prs.linkUp = c.prs.linkUp ∧
      d.prs.sessions = c.prs.sessions ∧ (dev = c.masterId → mode ≠ modeCode .wake → d.prs.masterHeard = c.now) := by
  obtain ⟨y, hy⟩ : ∃ y, (c.setMember dev m).when (mode = modeCode .wake) (fun c => c.actingGone dev) = y := ⟨_, rfl⟩
  have hkept : y = { c with prs := y.prs } ∧ y.prs.members = (c.setMember dev m).prs.members ∧ y.prs.linkUp = c.prs.linkUp ∧
      y.prs.sessions = c.prs.sessions ∧ (mode ≠ modeCode .wake → y = c.setMember dev m) := by
    rw [← hy]
    by_cases hwake : mode = modeCode .wake
    · rw [decide_eq_true hwake, Chip.when_true]
      exact ⟨rfl, rfl, rfl, rfl, fun h => absurd hwake h⟩
    · rw [decide_eq_false hwake, Chip.when_false]
      exact ⟨rfl, rfl, rfl, rfl, fun _ => rfl⟩
  obtain ⟨hframe, hmembers, hup, hsessions, hsame⟩ := hkept
  have hmember : ∀ j, y.member j = if j = dev then m else c.member j := by
    intro j
    rw [Chip.member, hmembers]
    exact SMap.get_set
  intro d
  have hd : d = y.masterIsHeard dev := congrArg (fun x : Chip => x.masterIsHeard dev) hy
  by_cases hmaster : dev = y.masterId
  · rw [Chip.masterIsHeard, decide_eq_true hmaster, Chip.when_true] at hd
    rw [hd]
    refine ⟨by rw [hframe]; rfl, hmember, hup, hsessions, fun _ _ => ?_⟩
    change y.now = c.now
    rw [hframe]
    rfl
  · rw [Chip.masterIsHeard, decide_eq_false hmaster, Chip.when_false] at hd
    rw [hd]
    refine ⟨hframe, hmember, hup, hsessions, fun h hwake => absurd ?_ hmaster⟩
    rw [hsame hwake]
    exact h

/-- A member's keepalive is recorded, and goes on while it has hops left. -/
theorem Chip.keepalive_goes {c : Chip} {port dev : Nat} (hops mode : Nat) (device : DWord) (holding : Bool) (claim : Byte)
    (hup : port ∈ c.prs.linkUp) (hother : dev ≠ c.prs.straps) :
    let y := c.memberHeard dev mode ((c.member dev).heardAt mode device holding claim.toNat c.now port hops)
    c.keepalive port dev hops mode device holding claim.toNat =
      if hops = 0 then y else y.linkSend (1 - port) 4 (stackClear 4 (hops - 1) dev 0xFF) (List.replicate 32 0 ++
        ([BitVec.ofNat 8 mode, BitVec.ofNat 8 (b2n holding), claim] ++ beBytes 8 device.toNat)) := by
  have hclaim : BitVec.ofNat 8 claim.toNat = claim := by simp
  have hhears : (!c.prs.linkUp.contains port || decide (dev = c.prs.straps)) = false := by simp [hup, hother]
  rw [Chip.keepalive, if_neg (by rw [hhears]; decide), ← List.append_assoc, hclaim]
  rfl

theorem keepaliveReceive_hears {port : Fin 2} {dev hops : Fin 8} {device : DWord} {mode : Fin 16} {holding : Bool} {claim : Byte}
    (hup : port.val ∈ s.chip.prs.linkUp) (hother : dev.val ≠ s.chip.prs.straps) :
    completes (.keepaliveReceive port ⟨dev, device⟩ hops mode holding claim) s fun d =>
      (d.member dev.val).present = true ∧ (d.member dev.val).mode = mode.val ∧ (d.member dev.val).holding = holding ∧
      (d.member dev.val).claim = claim.toNat ∧ (d.member dev.val).heard = s.chip.now ∧ (d.member dev.val).device = device ∧
      d.hopsBy dev.val port.val = some (min 7 (8 - hops.val)) ∧
      (∀ j, j ≠ dev.val → d.member j = s.chip.member j) ∧
      (dev.val = s.chip.masterId → mode.val ≠ modeCode .wake → d.prs.masterHeard = s.chip.now) ∧
      (hops.val = 0 → d.out = s.chip.out) ∧
      (hops.val ≠ 0 → ∀ k : LinkSession, SMap.get (fun _ => none) s.chip.prs.sessions (1 - port.val) = some k → k.seq < 2 ^ 48 →
        d.out = s.chip.out ++ [k.wire (1 - port.val) 4 (hops.val - 1) dev.val 0xFF
          ([BitVec.ofNat 8 mode.val, BitVec.ofNat 8 (b2n holding), claim] ++ beBytes 8 device.toNat)]) := by
  obtain ⟨m, hm⟩ : ∃ m, (s.chip.member dev.val).heardAt mode.val device holding claim.toNat s.chip.now port.val hops.val = m := ⟨_, rfl⟩
  obtain ⟨hpresent, hmode, hholding, hclaimed, hwhen, hdevice, hvia⟩ := hm ▸ (s.chip.member dev.val).heardAt_spec mode.val device holding
    claim.toNat s.chip.now port.val hops.val
  obtain ⟨hframe, hmember, hlinks, hsessions, hmaster⟩ := s.chip.memberHeard_spec dev.val mode.val m
  obtain ⟨y, hy⟩ : ∃ y, s.chip.memberHeard dev.val mode.val m = y := ⟨_, rfl⟩
  rw [hy] at hframe hmember hlinks hsessions hmaster
  have hgoes := Chip.keepalive_goes hops.val mode.val device holding claim hup hother
  rw [hm, hy] at hgoes
  obtain ⟨d, hd⟩ : ∃ d, s.chip.keepalive port.val dev.val hops.val mode.val device holding claim.toNat = d := ⟨_, rfl⟩
  have hkept : ∃ l out, d = { y with prs := { y.prs with sessions := l }, out := out } := by
    rw [← hd, hgoes]
    split_ifs
    · exact ⟨_, _, rfl⟩
    · exact y.linkSend_frame _ _ _ _
  have hown : d.vlt.owners = s.chip.vlt.owners := by
    obtain ⟨l, out, hl⟩ := hkept
    rw [hl, hframe]
  refine completes_eq (f := fun c => c.keepalive port.val dev.val hops.val mode.val device holding claim.toNat) rfl hd ?_ hown
  have hheard : d.member dev.val = m := by
    obtain ⟨l, out, hl⟩ := hkept
    rw [hl]
    exact (hmember dev.val).trans (if_pos rfl)
  have hhops : d.hopsBy dev.val port.val = some (min 7 (8 - hops.val)) := by
    obtain ⟨l, out, hl⟩ := hkept
    have hnow : d.now = s.chip.now := by
      rw [hl, hframe]
      rfl
    have hlink : d.prs.linkUp.contains port.val = true := by
      rw [hl]
      exact List.contains_iff_mem.2 (hlinks ▸ hup)
    simp only [Chip.hopsBy, hheard, hvia, hpresent, hlink, hnow, Option.any_some, Bool.and_self, Bool.true_and, decide_eq_true_eq,
      show s.chip.now < s.chip.now + 100000 by omega, if_true]
  refine ⟨by rw [hheard, hpresent], by rw [hheard, hmode], by rw [hheard, hholding], by rw [hheard, hclaimed], by rw [hheard, hwhen],
    by rw [hheard, hdevice], hhops, fun j hj => ?_, fun h hwake => ?_, fun h => ?_, fun h k hk hseq => ?_⟩
  · obtain ⟨l, out, hl⟩ := hkept
    rw [hl]
    exact (hmember j).trans (if_neg hj)
  · obtain ⟨l, out, hl⟩ := hkept
    rw [hl]
    exact hmaster h hwake
  · rw [← hd, hgoes, if_pos h, hframe]
  · rw [← hd, hgoes, if_neg h, Chip.linkSend_wire (by omega) (hsessions ▸ hk) hseq]
    change y.out ++ _ = _
    rw [hframe]

/-- A member that has been silent for 100 µs is absent. -/
theorem keepaliveTimeout_absent {dev : Fin 8} (hpresent : (s.chip.member dev.val).present = true)
    (hbound : (s.chip.member dev.val).heard + 100000 < 2 ^ 64) :
    completes (.keepaliveTimeout dev) s fun d =>
      (d.member dev.val).present = false ∧ (s.chip.member dev.val).heard + 100000 ≤ d.now ∧
        ∀ j, j ≠ dev.val → d.member j = s.chip.member j := by
  obtain ⟨y, hy⟩ : ∃ y, s.chip.reachElapsed ((s.chip.member dev.val).heard + 100000) = y := ⟨_, rfl⟩
  have hruns := hy ▸ (s.chip.reachElapsed_runs ((s.chip.member dev.val).heard + 100000)).1
  have hle := hy ▸ s.chip.le_reachElapsed hbound
  obtain ⟨m, hm⟩ : ∃ m : Member, { heard := (s.chip.member dev.val).heard } = m := ⟨_, rfl⟩
  have hmember : ∀ j, ((y.setMember dev.val m).actingGone dev.val).member j = if j = dev.val then m else s.chip.member j := by
    intro j
    have hyj : y.member j = s.chip.member j := by
      rw [hruns]
      rfl
    rw [← hyj]
    exact SMap.get_set
  refine completes_eq rfl ?_ (d := (y.setMember dev.val m).actingGone dev.val) ⟨?_, hle, fun j hj => ?_⟩ ?_
  · simp only [hpresent, Bool.not_true, Bool.false_eq_true, if_false, hy, hm]
  · rw [hmember, if_pos rfl, ← hm]
  · rw [hmember, if_neg hj]
  · change y.vlt.owners = _
    rw [hruns]

end

end Sys2Proof.Machine

/-! PROOFS. Stack frames that arrive: the checks, what is dropped, and what goes on (R413, R424, R425). -/
namespace Sys2Proof.Machine

/-! ### Opening a frame of a Runner link -/

/-- The tag of a frame holds under the session's key. -/
def LinkSession.opens (k : LinkSession) (frame : Bytes) : Prop :=
  Config.gcmTag true k.rxKey (BitVec.ofNat 96 (k.rxSalt.toNat / 2 ^ 64 * 2 ^ 64 + beNat (slice (frame.take 12) 4 8))) (frame.take 12)
      ((frame.drop 12).take (frame.length - 32)) =
    BitVec.ofNat 128 (beNat ((frame.take (frame.length - 4)).drop ((frame.take (frame.length - 4)).length - 16)))

/-- The frame ends with its FCS. -/
def fcsHolds (frame : Bytes) : Prop := frame.drop (frame.length - 4) = fcs (frame.take (frame.length - 4))

section
variable {c : Chip} {i : Nat} {frame : Bytes} {k : LinkSession} (hk : SMap.get (fun _ => none) c.prs.sessions i = some k)
include hk

theorem Chip.linkOpen_badFcs (hbad : ¬ fcsHolds frame) :
    c.linkOpen i frame = (none, c.portCount (64 + i) (0x20 + (0x81 - 0x80))) := by
  rw [fcsHolds] at hbad
  simp only [Chip.linkOpen, hk, ne_eq, hbad, not_false_eq_true, if_true]

theorem Chip.linkOpen_badTag (hwhole : fcsHolds frame) (hbad : frame.length < 64 ∨ ¬ k.opens frame) :
    c.linkOpen i frame = (none, c.bump F.PRS_LINK_AUTH_CNT_count []) := by
  rw [fcsHolds] at hwhole
  rw [LinkSession.opens] at hbad
  simp only [Chip.linkOpen, hk, ne_eq, hwhole, not_true_eq_false, if_false]
  exact if_pos (by simpa using hbad)

theorem Chip.linkOpen_opens (hwhole : fcsHolds frame) (hlong : 64 ≤ frame.length) (hok : k.opens frame) :
    ∃ p, c.linkOpen i frame = (some (frame.take 12, p), c) := by
  rw [fcsHolds] at hwhole
  rw [LinkSession.opens] at hok
  have hfits : ¬ frame.length < 64 := by omega
  simp only [Chip.linkOpen, hk, ne_eq, hwhole, hok, hfits, not_true_eq_false, decide_false, Bool.or_self, Bool.false_eq_true, if_false]
  exact ⟨_, rfl⟩

end

/-! ### A stack frame that arrives -/

/-- A reason counter of a Runner port has risen by one, and no frame has come or gone. -/
def Chip.stackDropped (c d : Chip) (port reason : Nat) : Prop :=
  d.cntGet false ((64 + port) * 0x80 + 0x20 + (reason - 0x80)) = c.cntGet false ((64 + port) * 0x80 + 0x20 + (reason - 0x80)) + 1 ∧
    d.path = c.path ∧ d.out = c.out

theorem Chip.stackDropped_portCount (c : Chip) (port reason : Nat) :
    c.stackDropped (c.portCount (64 + port) (0x20 + (reason - 0x80))) port reason := by
  refine ⟨?_, Chip.count_path .., Chip.count_out ..⟩
  rw [Chip.portCount, Chip.cntGet_count, ← Nat.add_assoc, if_pos ⟨rfl, rfl⟩]
  rfl

theorem Chip.stackDropped_unreachable (c : Chip) (port : Nat) : c.stackDropped (c.unreachable port) port 0x98 := by
  obtain ⟨hcount, hpath, hout⟩ := c.stackDropped_portCount port 0x98
  rw [Chip.unreachable]
  generalize c.portCount (64 + port) (0x20 + (0x98 - 0x80)) = y at hcount hpath hout ⊢
  refine ⟨?_, by rw [Chip.raise_path, hpath], by rw [Chip.raise_out, hout]⟩
  rw [← hcount, Chip.cntGet, Chip.raise_cnt]
  rfl

section
variable {s : State} {port : Fin 2} {frame : Bytes}

/-- A frame that the checks of its link drop. -/
theorem stackFrameReceive_dropped {d : Chip} {post : Chip → Prop} (hopen : s.chip.linkOpen port.val frame = (none, d))
    (hvlt : d.vlt = s.chip.vlt) (hpost : post d) : completes (.stackFrameReceive port frame) s post := by
  refine completes_eq (f := fun c => c.stackReceive port.val frame) rfl ?_ hpost (by rw [hvlt])
  simp only [Chip.stackReceive, hopen]

end

/-- The first byte of a FRAME. -/
abbrev startsFrame (frame : Bytes) : Prop := frame.getD 0 0 = 0x10#8

/-- The clear header begins the frame. -/
theorem getD_take_header (frame : Bytes) {i : Nat} (h : i < 12) : (frame.take 12).getD i 0 = frame.getD i 0 := by
  simp [List.getD_eq_getElem?_getD, h]

section
variable {c : Chip} {port : Nat} {frame p : Bytes} (hkind : startsFrame frame)
include hkind

/-- A FRAME from another device that opens is delivered, or goes on. -/
theorem Chip.stackReceive_frame (hopen : c.linkOpen port frame = (some (frame.take 12, p), c))
    (hsrc : (frame.getD 2 0).toNat ≠ c.prs.straps) :
    ((frame.getD 3 0).toNat = c.prs.straps → c.stackReceive port frame = c.stackDeliver port p) ∧
      ((frame.getD 3 0).toNat ≠ c.prs.straps → (frame.getD 3 0).toNat ≠ 0xFF →
        c.stackReceive port frame = c.stackForward port (frame.take 12) p) := by
  have hfirst : ((frame.take 12).getD 0 0).toNat = 16 := by
    rw [getD_take_header frame (by decide), hkind]
    rfl
  have htaken : (decide ((16 : Nat) / 16 ≠ 1) || decide ((frame.getD 2 0).toNat = c.prs.straps)) = false := by
    rw [decide_eq_false hsrc]
    rfl
  simp only [Chip.stackReceive, hopen, hfirst, getD_take_header frame (show 2 < 12 by decide), getD_take_header frame (show 3 < 12 by decide),
    htaken, Bool.false_eq_true, if_false]
  exact ⟨fun h => by rw [if_pos h]; rfl, fun h h' => by rw [if_neg h, if_neg h']⟩

/-- A FRAME goes on while it has hops left, its device is present, and the link there is up. -/
theorem Chip.stackForward_frame :
    c.stackForward port (frame.take 12) p =
      if (frame.getD 1 0).toNat = 0 ∨ (c.member (frame.getD 3 0).toNat).present = false ∨ 1 - port ∉ c.prs.linkUp then c.unreachable port
      else c.linkSend (1 - port) 0 (stackClear 0 ((frame.getD 1 0).toNat - 1) (frame.getD 2 0).toNat (frame.getD 3 0).toNat) p := by
  have hfirst : ((frame.take 12).getD 0 0).toNat = 16 := by
    rw [getD_take_header frame (by decide), hkind]
    rfl
  simp only [Chip.stackForward, hfirst, getD_take_header frame (show 1 < 12 by decide), getD_take_header frame (show 2 < 12 by decide),
    getD_take_header frame (show 3 < 12 by decide)]
  rw [if_neg (by decide)]
  refine if_congr ?_ rfl rfl
  simp [or_assoc]

end

/-- A frame that leaves under a session is given, and no frame has come or gone. -/
theorem Chip.linkSend_gives {c : Chip} {j : Nat} {x : LinkSession} (hx : SMap.get (fun _ => none) c.prs.sessions j = some x)
    (hseq : x.seq < 2 ^ 48) (kind : Nat) (clear body : Bytes) :
    (∃ w, (c.linkSend j kind clear body).out = c.out ++ [.linkWord j kind w]) ∧ (c.linkSend j kind clear body).path = c.path := by
  have hopen : ¬ 2 ^ 48 ≤ x.seq := by omega
  simp only [Chip.linkSend, hx, hopen, if_false]
  exact ⟨⟨_, rfl⟩, rfl⟩

section
variable {s : State} {port : Fin 2} {frame : Bytes} {k : LinkSession}
  (hk : SMap.get (fun _ => none) s.chip.prs.sessions port.val = some k)
include hk

theorem stackFrameReceive_badFcs (hbad : ¬ fcsHolds frame) :
    completes (.stackFrameReceive port frame) s fun d => s.chip.stackDropped d port.val 0x81 :=
  stackFrameReceive_dropped (Chip.linkOpen_badFcs hk hbad) (Chip.count_vlt ..) (s.chip.stackDropped_portCount port.val 0x81)

theorem stackFrameReceive_badTag (hwhole : fcsHolds frame) (hbad : frame.length < 64 ∨ ¬ k.opens frame) :
    completes (.stackFrameReceive port frame) s fun d =>
      s.chip.bumped d F.PRS_LINK_AUTH_CNT_count [] ∧ d.path = s.chip.path ∧ d.out = s.chip.out :=
  stackFrameReceive_dropped (Chip.linkOpen_badTag hk hwhole hbad) rfl
    ⟨s.chip.bumped_bump F.PRS_LINK_AUTH_CNT_count [] (by decide), rfl, rfl⟩

/-- A FRAME that opens, by its destination. -/
theorem stackFrameReceive_frame (hwhole : fcsHolds frame) (hlong : 64 ≤ frame.length) (hkind : startsFrame frame)
    (hsrc : (frame.getD 2 0).toNat ≠ s.chip.prs.straps) :
    completes (.stackFrameReceive port frame) s fun d =>
      (¬ k.opens frame → s.chip.bumped d F.PRS_LINK_AUTH_CNT_count [] ∧ d.path = s.chip.path ∧ d.out = s.chip.out) ∧
      (k.opens frame → (frame.getD 3 0).toNat = s.chip.prs.straps → s.chip.inMode [.standby] = true →
        s.chip.stackDropped d port.val 0x89) ∧
      (k.opens frame → (frame.getD 3 0).toNat ≠ s.chip.prs.straps → (frame.getD 3 0).toNat ≠ 0xFF →
        ((frame.getD 1 0).toNat = 0 ∨ (s.chip.member (frame.getD 3 0).toNat).present = false ∨ 1 - port.val ∉ s.chip.prs.linkUp →
          s.chip.stackDropped d port.val 0x98) ∧
        ((frame.getD 1 0).toNat ≠ 0 → (s.chip.member (frame.getD 3 0).toNat).present = true → 1 - port.val ∈ s.chip.prs.linkUp →
          ∀ x : LinkSession, SMap.get (fun _ => none) s.chip.prs.sessions (1 - port.val) = some x → x.seq < 2 ^ 48 →
            (∃ w, d.out = s.chip.out ++ [.linkWord (1 - port.val) 0 w]) ∧ d.path = s.chip.path)) := by
  have hany : completes (.stackFrameReceive port frame) s fun _ => True := (completes_iff rfl).2 trivial
  by_cases hok : k.opens frame
  · obtain ⟨p, hopen⟩ := Chip.linkOpen_opens hk hwhole hlong hok
    obtain ⟨hhere, hon⟩ := Chip.stackReceive_frame hkind hopen hsrc
    by_cases hdest : (frame.getD 3 0).toNat = s.chip.prs.straps
    · by_cases hstandby : s.chip.inMode [.standby] = true
      · have hdrop : s.chip.stackReceive port.val frame = s.chip.portCount (64 + port.val) (0x20 + (0x89 - 0x80)) :=
          (hhere hdest).trans (if_pos hstandby)
        exact completes_eq (f := fun c => c.stackReceive port.val frame) rfl hdrop
          ⟨fun h => absurd hok h, fun _ _ _ => s.chip.stackDropped_portCount port.val 0x89, fun _ h => absurd hdest h⟩
          (congrArg Vault.owners (Chip.count_vlt ..))
      · exact completes_mono hany fun d _ => ⟨fun h => absurd hok h, fun _ _ h => absurd h hstandby, fun _ h => absurd hdest h⟩
    · by_cases hall : (frame.getD 3 0).toNat = 0xFF
      · exact completes_mono hany fun d _ => ⟨fun h => absurd hok h, fun _ h => absurd h hdest, fun _ _ h => absurd hall h⟩
      · have hforward := (hon hdest hall).trans (Chip.stackForward_frame (c := s.chip) (port := port.val) (p := p) hkind)
        have hkept : (s.chip.stackReceive port.val frame).vlt.owners = s.chip.vlt.owners := by
          rw [hforward]
          split_ifs
          · rw [Chip.unreachable, Chip.raise_vlt, Chip.portCount, Chip.count_vlt]
          · obtain ⟨l, out, hl⟩ := s.chip.linkSend_frame (1 - port.val) 0
              (stackClear 0 ((frame.getD 1 0).toNat - 1) (frame.getD 2 0).toNat (frame.getD 3 0).toNat) p
            rw [hl]
        refine completes_eq (f := fun c => c.stackReceive port.val frame) rfl hforward ⟨fun h => absurd hok h, fun _ h => absurd h hdest,
          fun _ _ _ => ⟨fun hstop => ?_, fun hhops hpresent hup x hx hseq => ?_⟩⟩ (hforward ▸ hkept)
        · rw [if_pos hstop]
          exact s.chip.stackDropped_unreachable port.val
        · rw [if_neg fun hstop => hstop.elim hhops fun hstop => hstop.elim (fun h => absurd (hpresent.symm.trans h) (by decide)) (absurd hup)]
          exact Chip.linkSend_gives hx hseq _ _ _
  · exact completes_mono (stackFrameReceive_badTag hk hwhole (.inr hok)) fun d h => ⟨fun _ => h, fun h' => absurd h' hok, fun h' => absurd h' hok⟩

end

end Sys2Proof.Machine

/-! PROOFS. The stack's master and the relayed lists, and the statement of the stack links (R424 to R429). -/
namespace Sys2Proof.Machine

/-! ### The master is lost and found (R427) -/

/-- An event changes no register that is not the recorder's. -/
theorem Chip.getF_raise (c : Chip) {code : Nat} (hcode : code < 0x3000) (src : Nat) (items : List (Nat × Nat)) {f : Fld} {i : List Nat}
    (hf : quietKey (f.key i)) : (c.raise code src items).getF f i = c.getF f i := (c.quietRegs_raise hcode src items).getF hf

/-- An event of one code of its own, after a change of the links. -/
theorem Chip.raise_said {c : Chip} {p : PairStack} {code src : Nat} (hlogs : c.logs) (hl : limitable code = false) :
    c.logged (({ c with prs := p } : Chip).raise code src) [⟨code, src, [], false⟩] := by
  rw [Chip.raise_logs (c := { c with prs := p }) hlogs hl]
  rfl

/-- The loss of a reference, locked or not, leaves the links, the clock's count and OTP. -/
theorem Chip.refLost_keeps (c : Chip) : c.refLost.prs = c.prs ∧ c.refLost.now = c.now ∧ c.refLost.vlt = c.vlt := by
  rw [Chip.refLost]
  split_ifs
  · refine ⟨Chip.raise_prs .., ?_, Chip.raise_vlt ..⟩
    rw [Chip.now, Chip.raise_tim]
    rfl
  · exact ⟨rfl, rfl, rfl⟩

/-- A locked reference that is lost is in holdover. -/
theorem Chip.refLost_refState {c : Chip} (hstate : c.refState = 2) : c.refLost.refState = 3 := by
  rw [Chip.refLost, if_pos hstate, Chip.refState, Chip.getF_raise _ (by decide) _ _ (by decide),
    Chip.getF_setF_other _ _ (by decide) (by decide), Chip.setRefState, Chip.getF_setF_other _ _ (by decide) (by decide),
    Chip.getF_setF_same _ _ _ _ (by decide)]
  rfl

section
variable {s : State}

theorem masterLost_holds (hrunning : s.chip.running = true) (hmember : s.chip.isMaster = false) (hheard : s.chip.prs.masterLost = false)
    (hbound : s.chip.prs.masterHeard + 100000 < 2 ^ 64) :
    completes .masterLost s fun d =>
      d.prs = { s.chip.prs with masterLost := true } ∧ s.chip.prs.masterHeard + 100000 ≤ d.now ∧
      (s.chip.getF F.TIM_REF_CFG_src [] = 2 → s.chip.refState = 2 → d.refState = 3) ∧
      (s.chip.getF F.TIM_REF_CFG_src [] ≠ 2 → s.chip.logs → s.chip.logged d [⟨Ev.MASTER_LOST, 0x602, [], false⟩]) := by
  obtain ⟨y, hy⟩ : ∃ y, s.chip.reachElapsed (s.chip.prs.masterHeard + 100000) = y := ⟨_, rfl⟩
  have hruns := hy ▸ (s.chip.reachElapsed_runs (s.chip.prs.masterHeard + 100000)).1
  have hle := hy ▸ s.chip.le_reachElapsed hbound
  obtain ⟨z, hz⟩ : ∃ z, (y.modPrs fun p => { p with masterLost := true }).raise Ev.MASTER_LOST 0x602 = z := ⟨_, rfl⟩
  have hget : ∀ (f : Fld) (i : List Nat), quietKey (f.key i) → z.getF f i = s.chip.getF f i := by
    intro f i hf
    rw [← hz, Chip.getF_raise _ (by decide) _ _ hf, hruns]
    rfl
  have hprs : z.prs = { s.chip.prs with masterLost := true } := by
    rw [← hz, Chip.raise_prs, hruns]
    rfl
  have hnow : z.now = y.now := by
    rw [← hz, Chip.now, Chip.raise_tim]
    rfl
  have hvlt : z.vlt = s.chip.vlt := by
    rw [← hz, Chip.raise_vlt, hruns]
    rfl
  have hlogged : s.chip.logs → s.chip.logged z [⟨Ev.MASTER_LOST, 0x602, [], false⟩] := by
    intro hlogs
    rw [← hz, Chip.raise_logs (c := y.modPrs fun p => { p with masterLost := true }) (by rw [hruns]; exact hlogs) (by decide), hruns]
    rfl
  have hsrc := hget F.TIM_REF_CFG_src [] (by decide)
  obtain ⟨d, hd⟩ : ∃ d, z.when (z.getF F.TIM_REF_CFG_src [] = 2) Chip.refLost = d := ⟨_, rfl⟩
  have hcases : (s.chip.getF F.TIM_REF_CFG_src [] = 2 → d = z.refLost) ∧ (s.chip.getF F.TIM_REF_CFG_src [] ≠ 2 → d = z) := by
    rw [hsrc] at hd
    refine ⟨fun h => ?_, fun h => ?_⟩
    · rw [← hd, decide_eq_true h, Chip.when_true]
    · rw [← hd, decide_eq_false h, Chip.when_false]
  have hkept : d.prs = z.prs ∧ d.now = z.now ∧ d.vlt = z.vlt := by
    by_cases hfollows : s.chip.getF F.TIM_REF_CFG_src [] = 2
    · rw [hcases.1 hfollows]
      exact z.refLost_keeps
    · rw [hcases.2 hfollows]
      exact ⟨rfl, rfl, rfl⟩
  obtain ⟨hdprs, hdnow, hdvlt⟩ := hkept
  refine completes_eq (d := d) rfl ?_ ⟨hdprs.trans hprs, by rw [hdnow, hnow]; exact hle, fun hfollows hstate => ?_, fun hown hlogs => ?_⟩
    (by rw [hdvlt, hvlt])
  · simp only [hrunning, hmember, hheard, Bool.not_true, Bool.or_self, Bool.false_eq_true, if_false, hy, hz, hd]
  · rw [hcases.1 hfollows]
    exact Chip.refLost_refState ((hget F.TIM_STAT_ref_state [] (by decide)).trans hstate)
  · rw [hcases.2 hown]
    exact hlogged hlogs

theorem masterFound_holds (hlost : s.chip.prs.masterLost = true) (hlogs : s.chip.logs) :
    completes .masterFound s fun d =>
      d.prs = { s.chip.prs with masterLost := false, masterHeard := s.chip.now } ∧
        s.chip.logged d [⟨Ev.MASTER_FOUND, 0x602, [], false⟩] := by
  refine completes_eq (d := (s.chip.modPrs fun p => { p with masterLost := false, masterHeard := s.chip.now }).raise Ev.MASTER_FOUND 0x602)
    rfl ?_ ⟨?_, Chip.raise_said hlogs (by decide)⟩ ?_
  · simp only [hlost, Bool.not_true, Bool.false_eq_true, if_false]
  · rw [Chip.raise_prs]
    rfl
  · rw [Chip.raise_vlt]
    rfl

/-! ### PROMOTE (R428) -/

variable (hfree : s.chip.orderFree)
include hfree

theorem promote_acts (hmode : s.chip.inMode [.maintenance] = true) (hlost : s.chip.prs.masterLost = true) (hlogs : s.chip.logs) :
    completes .promote s fun d =>
      d.prs = { s.chip.prs with acting := true, masterLost := false } ∧ d.ord.res = {} ∧
        s.chip.logged d [⟨Ev.PROMOTED, 0x602, [], false⟩] := by
  obtain ⟨z, hz⟩ : ∃ z, (s.chip.modPrs fun p => { p with acting := true, masterLost := false }).raise Ev.PROMOTED 0x602 = z := ⟨_, rfl⟩
  have hraised : z = { s.chip with
      prs := { s.chip.prs with acting := true, masterLost := false }
      evr := { s.chip.evr with intake := s.chip.evr.intake ++ [⟨Ev.PROMOTED, 0x602, [], false⟩] } } :=
    hz.symm.trans (Chip.raise_logs (c := s.chip.modPrs fun p => { p with acting := true, masterLost := false }) hlogs (by decide))
  refine completes_order (r := {}) (d := z) (f := promote) rfl hfree ?_ ?_ ?_ ⟨?_, rfl, ?_⟩
  · rw [promote, inModes_of hmode]
    simp only [hlost, Bool.not_true, Bool.false_eq_true, if_false, hz]
  · rw [hraised]
    exact hfree.quiet
  · rw [hraised]
  · rw [hraised]
    rfl
  · rw [hraised]
    rfl

theorem promote_refused (hmode : s.chip.inMode [.maintenance] = true) (hheard : s.chip.prs.masterLost = false) :
    completes .promote s fun d => d = s.chip.ended { status := 0x97 } := by
  refine completes_order (r := .of 0x97) (d := s.chip) (f := promote) rfl hfree ?_ hfree.quiet rfl rfl
  rw [promote, inModes_of hmode]
  simp only [hheard, Bool.not_false, if_true]
  rfl

end

/-! ### STACK_RELAY (R429) -/

section
variable {s : State} {dev : Fin 8} {paramsAt : DWord} {len : Word} {params : Bytes} (hfree : s.chip.orderFree)
  (hmode : s.chip.inMode [.provision, .active, .maintenance] = true) (hlen : len.toNat ≤ 12288)

theorem toNat_device (dev : Fin 8) : (BitVec.ofNat 32 dev.val).toNat = dev.val := by
  rw [BitVec.toNat_ofNat, Nat.mod_eq_of_lt (by omega)]

include hmode hlen in
/-- The order's checks, in their order. -/
theorem stackRelay_checks :
    (s.chip.prs.masterLost = true → stackRelay dev.val paramsAt len.toNat (some params) s.chip = (s.chip, some (.of 0x94))) ∧
    (s.chip.prs.masterLost = false → s.chip.isMaster = false →
      stackRelay dev.val paramsAt len.toNat (some params) s.chip = (s.chip, some (.of 0x95))) ∧
    (s.chip.prs.masterLost = false → s.chip.isMaster = true → dev.val ≠ s.chip.prs.straps →
      ((s.chip.member dev.val).present = false →
        stackRelay dev.val paramsAt len.toNat (some params) s.chip = (s.chip, some (.of 0x96))) ∧
      ((s.chip.member dev.val).present = true → s.chip.dmaAllowed 0 = true →
        stackRelay dev.val paramsAt len.toNat (some params) s.chip =
          (((s.chip.stackTo 5 dev.val (slice params 0 len.toNat)).modPrs fun p =>
              { p with relayTo := some (dev.val, (s.chip.stackTo 5 dev.val (slice params 0 len.toNat)).now) }).modOrd
            fun o => { o with wait := .relay }, none))) := by
  have hfits : (decide (8 ≤ dev.val) || decide (12288 < len.toNat)) = false := by simp; omega
  refine ⟨fun hlost => ?_, fun hheard hmember => ?_, fun hheard hmaster hother => ⟨fun habsent => ?_, fun hpresent hdma => ?_⟩⟩ <;>
    rw [stackRelay, inModes_of hmode, hfits, if_neg Bool.false_ne_true]
  · rw [if_pos hlost]
    rfl
  · rw [if_neg (by rw [hheard]; decide), if_pos (by rw [hmember]; rfl)]
    rfl
  · rw [if_neg (by rw [hheard]; decide), if_neg (by rw [hmaster]; decide), if_pos (by rw [habsent]; simp)]
    rfl
  · rw [if_neg (by rw [hheard]; decide), if_neg (by rw [hmaster]; decide), if_neg (by simp [hpresent, hother])]
    exact if_pos hdma

include hfree

/-- An order that a check refuses ends with its status, and changes nothing else. -/
theorem stackRelay_refused {status : Nat}
    (hstatus : stackRelay dev.val paramsAt len.toNat (some params) s.chip = (s.chip, some (.of status))) :
    completes (.stackRelay (BitVec.ofNat 32 dev.val) paramsAt len (some params)) s fun d => d = s.chip.ended { status := status } := by
  refine completes_order (r := .of status) (d := s.chip) (f := stackRelay (BitVec.ofNat 32 dev.val).toNat paramsAt len.toNat (some params))
    rfl hfree ?_ hfree.quiet rfl rfl
  rw [toNat_device, hstatus]

omit hfree in
/-- The way to a device is by one of the two Runner ports. -/
theorem Chip.runnerPort_lt {c : Chip} {d j : Nat} (h : c.runnerPort d = some j) : j < 2 := by
  rw [Chip.runnerPort] at h
  split at h
  · rw [← Option.some.inj h]
    split_ifs <;> decide
  · rw [← Option.some.inj h]
    decide
  · rw [← Option.some.inj h]
    decide
  · exact absurd h (by simp)

include hmode hlen

/-- The list goes to a member that is present, and the order waits for its result. -/
theorem stackRelay_waits (hheard : s.chip.prs.masterLost = false) (hmaster : s.chip.isMaster = true)
    (hother : dev.val ≠ s.chip.prs.straps) (hpresent : (s.chip.member dev.val).present = true) (hdma : s.chip.dmaAllowed 0 = true) :
    completes (.stackRelay (BitVec.ofNat 32 dev.val) paramsAt len (some params)) s fun d =>
      d.ord.wait = .relay ∧ d.prs.relayTo = some (dev.val, s.chip.now) ∧ d.ord.res = s.chip.ord.res ∧
      (∀ (j : Nat) (k : LinkSession), s.chip.runnerPort dev.val = some j → SMap.get (fun _ => none) s.chip.prs.sessions j = some k →
        k.seq < 2 ^ 48 → d.out = s.chip.out ++ [k.wire j 5 7 s.chip.prs.straps dev.val (slice params 0 len.toNat)]) := by
  obtain ⟨-, -, hrelays⟩ := stackRelay_checks (dev := dev) (paramsAt := paramsAt) (params := params) hmode hlen
  obtain ⟨-, hgo⟩ := hrelays hheard hmaster hother
  obtain ⟨y, hy⟩ : ∃ y, s.chip.stackTo 5 dev.val (slice params 0 len.toNat) = y := ⟨_, rfl⟩
  have hframe : ∃ l out, y = { s.chip with prs := { s.chip.prs with sessions := l }, out := out } := by
    rw [← hy, Chip.stackTo]
    split
    · exact s.chip.linkSend_frame _ _ _ _
    · exact ⟨_, _, rfl⟩
  have hsent : ∀ (j : Nat) (k : LinkSession), s.chip.runnerPort dev.val = some j →
      SMap.get (fun _ => none) s.chip.prs.sessions j = some k → k.seq < 2 ^ 48 →
      y.out = s.chip.out ++ [k.wire j 5 7 s.chip.prs.straps dev.val (slice params 0 len.toNat)] := by
    intro j k hport hk hseq
    simp only [← hy, Chip.stackTo, hport]
    rw [Chip.linkSend_wire (Chip.runnerPort_lt hport) hk hseq]
  refine completes_waiting (f := stackRelay (BitVec.ofNat 32 dev.val).toNat paramsAt len.toNat (some params)) rfl hfree
    (by rw [toNat_device]; exact hgo hpresent hdma) ?_ ?_
  · rw [hy]
    obtain ⟨l, out, hl⟩ := hframe
    rw [hl]
    rfl
  · rw [hy]
    refine ⟨rfl, ?_, ?_, hsent⟩
    · obtain ⟨l, out, hl⟩ := hframe
      rw [hl]
      rfl
    · obtain ⟨l, out, hl⟩ := hframe
      rw [hl]
      rfl

end

/-- A relayed list without a result for 100 ms ends with its status. -/
theorem relayTimeout_ends {s : State} {x t : Nat} (hto : s.chip.prs.relayTo = some (x, t)) (hwait : s.chip.ord.wait = .relay)
    (hcall : s.chip.ord.callReg = none) (hbusy : s.chip.ord.busy = false) (hbound : t + 100000000 < 2 ^ 64) :
    completes .relayTimeout s fun d =>
      d.ord.res = { status := 0x96 } ∧ d.ord.wait = .none ∧ d.prs.relayTo = none ∧ t + 100000000 ≤ d.now := by
  obtain ⟨y, hy⟩ : ∃ y, s.chip.reachElapsed (t + 100000000) = y := ⟨_, rfl⟩
  have hruns := hy ▸ (s.chip.reachElapsed_runs (t + 100000000)).1
  have hle := hy ▸ s.chip.le_reachElapsed hbound
  obtain ⟨z, hz⟩ : ∃ z, (y.modPrs fun p => { p with relayTo := none }) = z := ⟨_, rfl⟩
  have hord : z.ord = s.chip.ord := by
    rw [← hz, hruns]
    rfl
  have hdone : z.finishOrder (.of 0x96) = (z.modOrd fun o => { o with wait := .none }).modOrd fun o =>
      { o with res := .of 0x96, lastRet := (OrdRes.of 0x96).ret.getD o.lastRet } := by
    simp only [Chip.finishOrder, Chip.modOrd_ord, hord, hcall, hbusy, Bool.false_and, Bool.false_eq_true, if_false]
  refine completes_eq (d := z.finishOrder (.of 0x96)) rfl ?_ ?_ ?_
  · simp only [hto, hwait, if_true, hy, hz]
  · rw [hdone, ← hz]
    exact ⟨rfl, rfl, rfl, hle⟩
  · rw [hdone, ← hz, hruns]
    rfl

/-- Settles O56, clause by clause of the links' commands. -/
theorem stackLinks : Obligations.StackLinks := by
  unfold Obligations.StackLinks
  intro s port dev hops device mode holding claim frame k at' len params
  refine ⟨fun hpowered hk hnone hseq => ⟨fun hrunning hmaster => stackTimeSend_sends hmaster hrunning hk hnone hseq,
      stackTimeSend_member, keepaliveSend_sends hpowered hk hnone hseq⟩,
    fun hpowered hk hnone hseq => keepaliveSend_exhausted hpowered hk hnone hseq, fun hup hother => ?_, keepaliveTimeout_absent, fun hk => ?_,
    masterLost_holds, masterFound_holds, fun hfree hmode => ⟨promote_acts hfree hmode, promote_refused hfree hmode⟩,
    fun hfree hmode hdma hlen => ?_, fun x t hto hwait hcall hbusy hbound => relayTimeout_ends hto hwait hcall hbusy hbound⟩
  · refine completes_mono (keepaliveReceive_hears hup hother) fun d hd => ?_
    obtain ⟨hpresent, hmode, hholding, hclaim, hheard, hdevice, hhops, hothers, hmaster, hend, hon⟩ := hd
    exact ⟨hpresent, hmode, hholding, hclaim, hheard, hdevice, hhops, hothers, hmaster, hend, fun h hk hseq => hon h k hk hseq⟩
  · exact ⟨stackFrameReceive_badFcs hk, fun hwhole hshort => stackFrameReceive_badTag hk hwhole (.inl hshort),
      fun hwhole hlong hkind hsrc => stackFrameReceive_frame hk hwhole hlong hkind hsrc⟩
  · obtain ⟨hlost, hmember, hmaster⟩ := stackRelay_checks (dev := dev) (paramsAt := at') (params := params) hmode hlen
    refine ⟨fun h => stackRelay_refused hfree (hlost h), fun h h' => stackRelay_refused hfree (hmember h h'), fun h h' hother =>
      ⟨fun habsent => stackRelay_refused hfree ((hmaster h h' hother).1 habsent), fun hpresent => ?_⟩⟩
    refine completes_mono (stackRelay_waits hfree hmode hlen h h' hother hpresent hdma) fun d hd => ?_
    obtain ⟨hwait, hto, hres, hsent⟩ := hd
    exact ⟨hwait, hto, hres, fun j hport hk hseq => hsent j k hport hk hseq⟩

end Sys2Proof.Machine
